-- ==== Sys2Proof/Word.lean ====
section
/-! DEFINITION. The word types of the model: a byte, a sparse map from a key to a number, a string of bytes.
Registers, counters and times are plain `Nat`: the fields of the spec have widths from 1 to 512 bits, and each
write truncates to its own width (`Machine.wr`). -/

namespace Sys2Proof

/-- One byte of the field store, of control SRAM or of a table. -/
abbrev Byte := BitVec 8

/-- A sparse map in canonical form: keys strictly rising, no value 0; a key that is not listed reads 0. -/
abbrev SMap := List (Nat × Nat)

/-- A string of bytes, each below 256, the first at the lowest address (R11). -/
abbrev Bytes := List Nat

end Sys2Proof
end

