-- ==== Sys2Proof/Syntax.lean ====
section
/-! DEFINITION. The commands: one constructor per row of the table, its operands what the outside supplies with it. -/

namespace Sys2Proof

/-- What the probe of an input measured in one interval (R52 to R54): Z_m at the pins in units of 0.125 Ω ÷ 256, the
current driven by the replica in nA, its phase error in 0.01°, and the feedback code in use at the end. -/
structure ProbeReading where
  zRe : Int
  zIm : Int
  replicaNa : Nat
  phaseCentideg : Int
  tiaEnd : Nat
  deriving DecidableEq, Repr

/-- One converter word (R92, R93): per input, the raw 10-bit values of 16 samples; and the errors found in trigger table
entries (group 0–15, or 16 + 32g + b), with whether each is correctable (R136). -/
structure WordIn where
  samples : List (List Nat)
  upsets : List (Nat × Bool)
  deriving DecidableEq, Repr

/-- The payload of a trigger message over Axrel (R133). -/
structure TriggerMessage where
  serial : Nat
  src : Nat
  chip : Nat
  time : Nat
  deriving DecidableEq, Repr

/-- A write of one comparator (`TIM_CMP`, R336 to R339). -/
structure CmpWrite where
  target : Nat
  action : Nat
  civilKind : Bool
  arm : Bool
  arg : Nat
  period : Nat
  civil : Nat
  deriving DecidableEq, Repr

/-- A frame as it arrives on an Axrel port (R307): bytes 1 to 7 of its start block, its payload blocks, the CRC of its
EOF block, whether an error block fell inside it. -/
structure FrameIn where
  express : Bool
  head : Bytes
  payload : Bytes
  crc : Nat
  error : Bool
  deriving DecidableEq, Repr

/-- A transaction of a matrix master (R271, R276, R279): the bytes written with one strobe bit each, or the bytes that the
host returns to a read; the poison attribute; the entries that the master holds with this one, and whether it waited for
an entry. -/
structure MatrixAccess where
  master : Nat
  write : Bool
  addr : Nat
  len : Nat
  data : List Nat
  strobes : Nat
  poison : Bool
  held : Nat
  waited : Bool
  deriving DecidableEq, Repr

/-- The uncorrectable words that Dahlia meets in one group (R178): accumulators (slice × N_prod + b), weights
(bin × N_prod + b), and corner-turn words (local channel, spectrum of the group, first of their eight inputs). -/
structure DahliaUpsets where
  acc : List Nat
  weights : List Nat
  corner : List (Nat × Nat × Nat)
  deriving DecidableEq, Repr

/-- A group control message (R194) but for its TYPE. -/
structure GroupMessage where
  member : Nat
  frameOk : Bool
  geom : Nat
  kFirst : Nat
  sec : Nat
  gspx : Nat
  deriving DecidableEq, Repr

/-- A peer packet (R198): GSPX, SRC, DST, VALID, DATA. -/
structure PeerPacket where
  gspx : Nat
  src : Nat
  dst : Nat
  valid : Nat
  data : List Nat
  deriving DecidableEq, Repr

/-- The record of an arriving fragment or announcement as the concentrator uses it (R204): the device, its serial, `TIME`,
`N_KEPT`, and the bytes of a whole fragment. -/
structure Arrival where
  chip : Nat
  serial : Nat
  time : Nat
  nKept : Nat
  bytes : List Nat
  deriving DecidableEq, Repr

/-- What CELL_CAL measured of one cell (R83, R387): cell = input × 16,384 + cell of the input, the mean pedestal, GAIN in
1/1,024 and DT in 0.5 ps before their limits, and whether its pedestal noise exceeds 4 LSB rms. -/
structure CellMeasure where
  cell : Fin 4194304
  ped : Nat
  gain : Int
  dt : Int
  noisy : Bool
  deriving DecidableEq, Repr

/-- A step of a running CELL_CAL (R387): three windows are frozen, a pass ends, the tables are written with the worst
time residual in 0.1 ps rms. -/
inductive CellCalEvent where
  | freeze
  | pass
  | tables (cells : List CellMeasure) (resid : Nat)
  deriving DecidableEq, Repr

/-- The commands of the block (`spec/opcode_table.json`, one constructor per row). -/
inductive Instr where
  /-- `MODE_PLAN_WRITE` (R42). -/
  | modePlanWrite (plan : Nat) (mailbox : Fin 8) (seq : Nat)
  /-- `TRANSITION_CHECK` (R30). -/
  | transitionCheck
  /-- `DRAIN_COMPLETE` (R36). -/
  | drainComplete
  /-- `DOWN_COMPLETE` (R30). -/
  | downComplete
  /-- `UP_COMPLETE` (R30). -/
  | upComplete
  /-- `TRANSITION_START_DONE` (R38). -/
  | transitionStartDone
  /-- `PEER_SYNC_TIMEOUT` (R35). -/
  | peerSyncTimeout
  /-- `POWER_GOOD_TIMEOUT` (R40). -/
  | powerGoodTimeout (d : Fin 394)
  /-- `PLL_LOCK_TIMEOUT` (R40). -/
  | pllLockTimeout
  /-- `CONVERTER_CAL_TIMEOUT` (R40). -/
  | converterCalTimeout (g : Fin 16)
  /-- `CONVERTER_CAL_CONVERGED` (R96). -/
  | converterCalConverged
  /-- `RAILS_GOOD_TIMEOUT` (R33). -/
  | railsGoodTimeout
  /-- `CLAMP_TRIP` (R45). -/
  | clampTrip (i : Fin 256)
  /-- `CLAMP_RELEASE` (R45). -/
  | clampRelease (i : Fin 256)
  /-- `CLAMP_LONG` (R46). -/
  | clampLong (i : Fin 256)
  /-- `ARC_EVALUATION` (R48). -/
  | arcEvaluation (i : Fin 256)
  /-- `FRAME_BOUNDARY` (R49). -/
  | frameBoundary
  /-- `RANGE_FORCED` (R49). -/
  | rangeForced (i : Fin 256)
  /-- `PROBE_INTERVAL_END` (R54). -/
  | probeIntervalEnd (i : Fin 256) (r : ProbeReading)
  /-- `RMS_WINDOW_END` (R56). -/
  | rmsWindowEnd (i : Fin 256)
  /-- `SEGMENT_BOUNDARY` (R69). -/
  | segmentBoundary
  /-- `FREEZE_STROBE` (R72). -/
  | freezeStrobe
  /-- `ENVELOPE_CROSSING` (R77). -/
  | envelopeCrossing (i : Fin 256) (half : Bool)
  /-- `WINDOW_CONVERSION_START` (R80). -/
  | windowConversionStart
  /-- `SEGMENT_CONVERTED` (R79). -/
  | segmentConverted (raw : List (List Nat))
  /-- `WINDOW_READOUT_DONE` (R80). -/
  | windowReadoutDone
  /-- `DIGITIZER_IDLE_TIMEOUT` (R81). -/
  | digitizerIdleTimeout
  /-- `CAPTURE_WAKE_SET_READY` (R424). -/
  | captureWakeSetReady
  /-- `CAPTURE_LINGER_EXPIRED` (R89). -/
  | captureLingerExpired
  /-- `TJ_SENSOR_READ` (R88). -/
  | tjSensorRead (tj : Int)
  /-- `CAL_STALE` (R85). -/
  | calStale
  /-- `CONVERTER_WORD` (R93). -/
  | converterWord (w : WordIn)
  /-- `TRIGOUT_WIDTH_END` (R131). -/
  | trigoutWidthEnd
  /-- `TRIGIN_EDGE` (R122). -/
  | triginEdge (level stable : Bool)
  /-- `AXREL_TRIGGER_MESSAGE` (R134). -/
  | axrelTriggerMessage (port : Fin 4) (m : TriggerMessage)
  /-- `HOLDOFF_END` (R124). -/
  | holdoffEnd
  /-- `TRIGGER_RECORD_RELEASE` (R128). -/
  | triggerRecordRelease
  /-- `BUCKET_TOKEN` (R127). -/
  | bucketToken
  /-- `CNV_CAL_UPDATE` (R95): what the estimator goes by beside what it gathered (log entry 21). -/
  | cnvCalUpdate (estimator : List Int)
  /-- `CNV_COEFF_STORE` (R96). -/
  | cnvCoeffStore
  /-- `SPECTRUM_COMPLETE` (R108). -/
  | spectrumComplete (upsets : List (Nat × Bool))
  /-- `SPECTRUM_DEADLINE_MISS` (R108). -/
  | spectrumDeadlineMiss (sunPath : Bool)
  /-- `BLOCK_BOUNDARY` (R105). -/
  | blockBoundary (images : List Nat)
  /-- `FRAGMENT_RESERVE` (R148). -/
  | fragmentReserve
  /-- `SEGMENT_TO_EVENT` (R138). -/
  | segmentToEvent
  /-- `FRAGMENT_BUILT` (R138). -/
  | fragmentBuilt
  /-- `FRAGMENT_SEND` (R150). -/
  | fragmentSend (serial : Nat)
  /-- `FRAGMENT_ANNOUNCE` (R150). -/
  | fragmentAnnounce (serial : Nat)
  /-- `FRAGMENT_TRANSFER_DONE` (R150). -/
  | fragmentTransferDone (serial : Nat)
  /-- `FRAGMENT_OFFER_TIMER` (R150). -/
  | fragmentOfferTimer (serial : Nat)
  /-- `REPLY_ACCEPT` (R151). -/
  | replyAccept (serial : Nat)
  /-- `REPLY_REJECT` (R151). -/
  | replyReject (serial : Nat)
  /-- `REPLY_REQUEST` (R151). -/
  | replyRequest (serial : Nat) (globalId : Nat)
  /-- `START_NOW` (R165). -/
  | startNow
  /-- `INTEGRATION_START` (R165). -/
  | integrationStart
  /-- `DAHLIA_BLOCK_DISCARD` (R175). -/
  | dahliaBlockDiscard
  /-- `DAHLIA_GROUP` (R169). -/
  | dahliaGroup (upsets : DahliaUpsets)
  /-- `DAHLIA_GROUP_MISSING` (R176). -/
  | dahliaGroupMissing
  /-- `DUMP_WAIT` (R177). -/
  | dumpWait (us : Nat)
  /-- `INTEGRATION_STOP_BOUNDARY` (R168). -/
  | integrationStopBoundary
  /-- `CLOSING_PASS_DONE` (R168). -/
  | closingPassDone
  /-- `PEER_READY_TIMER` (R195). -/
  | peerReadyTimer
  /-- `GROUP_READY` (R195). -/
  | groupReady (l : Fin 16) (m : GroupMessage)
  /-- `GROUP_GO` (R195). -/
  | groupGo (l : Fin 16) (m : GroupMessage)
  /-- `GROUP_STOP` (R197). -/
  | groupStop (l : Fin 16) (m : GroupMessage)
  /-- `GROUP_LEAVE` (R197). -/
  | groupLeave (l : Fin 16) (m : GroupMessage)
  /-- `PEER_START_BLOCK` (R195). -/
  | peerStartBlock
  /-- `PEER_STOP_BOUNDARY` (R197). -/
  | peerStopBoundary
  /-- `PEER_PACKET` (R201). -/
  | peerPacket (l : Fin 16) (k : PeerPacket)
  /-- `PEER_BUFFER_CLOSE` (R199). -/
  | peerBufferClose
  /-- `PEER_SEND_AGE_DISCARD` (R200). -/
  | peerSendAgeDiscard
  /-- `PEER_MEMBER_LOST` (R203). -/
  | peerMemberLost (m : Fin 16)
  /-- `CONC_FRAGMENT_ARRIVAL` (R204). -/
  | concFragmentArrival (l : Fin 16) (a : Arrival)
  /-- `CONC_ANNOUNCEMENT_ARRIVAL` (R204). -/
  | concAnnouncementArrival (l : Fin 16) (a : Arrival)
  /-- `BUILD_TIMEOUT` (R206). -/
  | buildTimeout
  /-- `FETCH_TIMEOUT` (R208). -/
  | fetchTimeout
  /-- `CONC_GONE` (R208). -/
  | concGone (l : Fin 16) (chip serial : Nat)
  /-- `INTERFEROMETRY_DONE` (R210). -/
  | interferometryDone
  /-- `SUN_GROUP` (R219). -/
  | sunGroup (upsets : List (Nat × Nat))
  /-- `SUN_ARM` (R224). -/
  | sunArm
  /-- `SUN_DISARM` (R224). -/
  | sunDisarm
  /-- `SUN_COPY` (R224). -/
  | sunCopy
  /-- `SUN_SWITCH_NOW` (R225). -/
  | sunSwitchNow
  /-- `SET_SWITCH` (R225). -/
  | setSwitch
  /-- `CONTEXT_AGED` (R227). -/
  | contextAged
  /-- `FST_MASTER_READ` (R240). -/
  | fstMasterRead (src : Fin 5) (n : Fin 160) (r : Fin 32768) (w : Fin 8) (syndrome : Nat)
  /-- `FST_WRITE` (R241). -/
  | fstWrite (master : Fin 10) (n : Fin 160) (r : Fin 32768) (w : Fin 8) (strobes : Fin 256) (data : Nat) (poison : Bool) (syndrome : Nat)
  /-- `SCRUB_READ` (R245). -/
  | scrubRead (n : Fin 160) (r : Fin 32768) (words : List (Nat × Nat)) (last : Bool)
  /-- `SCRUB_LATE` (R245). -/
  | scrubLate
  /-- `RETFAIL_LATCH` (R249). -/
  | retfailLatch (n : Fin 160)
  /-- `BANK_WAKE_CHECK` (R249). -/
  | bankWakeCheck (n : Fin 160) (words : List (Nat × Nat))
  /-- `HALF_BANK_INIT_DONE` (R239). -/
  | halfBankInitDone (n : Fin 160) (h : Fin 2)
  /-- `FR_BLOCK_CODED` (R257). -/
  | frBlockCoded (replicaFails : Bool)
  /-- `VERIFY_TEST` (R270). -/
  | verifyTest
  /-- `COMPRESSION_JOB_START` (R266). -/
  | compressionJobStart (e : Fin 3)
  /-- `COMPRESSION_JOB_END` (R266). -/
  | compressionJobEnd (e : Fin 3)
  /-- `MATRIX_TRANSACTION` (R271). -/
  | matrixTransaction (a : MatrixAccess)
  /-- `BEAT_TIMEOUT` (R277). -/
  | beatTimeout (a : MatrixAccess)
  /-- `RESET_IN_BURST` (R278). -/
  | resetInBurst (a : MatrixAccess)
  /-- `QUEUE_PACKET_SEND` (R16). -/
  | queuePacketSend (q : Fin 16) (err : Fin 3) (which : Nat)
  /-- `CREDIT_RETURN` (R280). -/
  | creditReturn (q : Fin 16)
  /-- `CLOCK_GATE_STOP` (R14). -/
  | clockGateStop (block : Fin 16)
  /-- `LOSSY_TAIL_WRITE` (R19). -/
  | lossyTailWrite (q : Fin 4) (packet : List Nat)
  /-- `RING_DOORBELL` (R285). -/
  | ringDoorbell (r : Fin 64) (tail : Fin 65536)
  /-- `RING_KIND_WRITE` (R293). -/
  | ringKindWrite (r : Fin 64) (kind : Fin 4)
  /-- `DMA_RECORD_WRITE` (R286). -/
  | dmaRecordWrite (r : Fin 64) (src : Fin 4)
  /-- `COALESCE_TIMEOUT` (R286). -/
  | coalesceTimeout (r : Fin 64)
  /-- `DESCRIPTOR_FETCH_DONE` (R285). -/
  | descriptorFetchDone (r : Fin 64) (addr len ctrl rsv : Nat) (error : Bool)
  /-- `CPL_TIMEOUT` (R285). -/
  | cplTimeout (r : Fin 64)
  /-- `RING_NO_BUFFER` (R288). -/
  | ringNoBuffer (r : Fin 64)
  /-- `NET_RECORD_SEND` (R344). -/
  | netRecordSend (src : Fin 67)
  /-- `LINK_TRAIN_START` (R302). -/
  | linkTrainStart (l : Fin 16)
  /-- `PARTNER_CLOCK_STABLE` (R302). -/
  | partnerClockStable (l : Fin 16) (unchanged : Bool)
  /-- `BASE_LOCKED` (R302). -/
  | baseLocked (l : Fin 16) (lanes : Fin 4)
  /-- `CAPABILITY_RECORD` (R304). -/
  | capabilityRecord (l : Fin 16) (record : Bytes)
  /-- `SPEED_DONE` (R302). -/
  | speedDone (l : Fin 16) (lanes : Fin 4)
  /-- `PORT_DESKEW` (R300). -/
  | portDeskew (l : Fin 16) (late : Fin 16)
  /-- `TRAIN_STEP_OVERRUN` (R302). -/
  | trainStepOverrun (l : Fin 16)
  /-- `RETRAIN_TIMER` (R302). -/
  | retrainTimer (l : Fin 16)
  /-- `LANE_LOCK_LOSS` (R314). -/
  | laneLockLoss (l : Fin 16) (d : Fin 2)
  /-- `MAPREQ` (R314). -/
  | mapreq (l : Fin 16) (mapId : Fin 16) (map : Fin 256)
  /-- `MAPREQ_RESEND` (R314). -/
  | mapreqResend (l : Fin 16)
  /-- `MAP` (R314). -/
  | map (l : Fin 16) (mapId : Fin 16) (map : Fin 256)
  /-- `AM` (R300). -/
  | am (l : Fin 16) (d : Fin 2) (bipOk : Bool)
  /-- `LANE_REJOIN` (R315). -/
  | laneRejoin (l : Fin 16) (d : Fin 2)
  /-- `CLOCK_LOSS` (R317). -/
  | clockLoss (l : Fin 16)
  /-- `AXREL_FRAME` (R310). -/
  | axrelFrame (l : Fin 16) (f : FrameIn)
  /-- `ACK` (R310). -/
  | ack (l : Fin 16) (seq : Nat)
  /-- `NAK` (R310). -/
  | nak (l : Fin 16) (seq : Nat)
  /-- `ACK_TIMEOUT` (R310). -/
  | ackTimeout (l : Fin 16)
  /-- `CREDIT` (R312). -/
  | credit (l : Fin 16) (vc : Fin 4) (total : Nat)
  /-- `ACK_CREDIT_TIMER` (R310). -/
  | ackCreditTimer (l : Fin 16)
  /-- `LPI_ENTRY` (R319). -/
  | lpiEntry (l : Fin 16)
  /-- `LPI_REFRESH` (R319). -/
  | lpiRefresh (l : Fin 16)
  /-- `WAKE` (R319). -/
  | wake (l : Fin 16)
  /-- `IMAGE_OFFER` (R367). -/
  | imageOffer (l : Fin 16) (kind : Fin 4) (total : Fin 16777217)
  /-- `IMAGE_REQUEST` (R367). -/
  | imageRequest (l : Fin 16) (offset count : Nat)
  /-- `IMAGE_DATA` (R367). -/
  | imageData (l : Fin 16) (offset : Nat) (data : List Nat)
  /-- `IMAGE_DONE` (R367). -/
  | imageDone (l : Fin 16)
  /-- `IMAGE_ABORT` (R367). -/
  | imageAbort (l : Fin 16)
  /-- `IMAGE_CHUNK_RETRY` (R367). -/
  | imageChunkRetry
  /-- `TEST_PAYLOAD` (R308). -/
  | testPayload (l : Fin 16)
  /-- `ERR_INJECT` (R323). -/
  | errInject (l : Fin 16)
  /-- `REF10M_LOST` (R326). -/
  | ref10mLost
  /-- `REF10M_RETURN` (R326). -/
  | ref10mReturn
  /-- `PHASE_SLEW_DONE` (R326). -/
  | phaseSlewDone
  /-- `DORMANT_REF_RETURN` (R327). -/
  | dormantRefReturn
  /-- `PPS_EDGE` (R334). -/
  | ppsEdge (lead : Nat)
  /-- `PPS_LOST` (R334). -/
  | ppsLost
  /-- `BOOT_PPS_WAIT_TIMEOUT` (R324). -/
  | bootPpsWaitTimeout
  /-- `INC_WRITE` (R330). -/
  | incWrite (inc : Nat) (atPps : Bool)
  /-- `INC_APPLY` (R330). -/
  | incApply
  /-- `TIME_SET` (R331). -/
  | timeSet (sec nsec : Nat) (atPps : Bool)
  /-- `TIME_STEP` (R331). -/
  | timeStep (stepNs : Int) (atPps : Bool)
  /-- `TIME_OP_APPLY` (R331). -/
  | timeOpApply
  /-- `TIM_CMP_WRITE` (R340). -/
  | timCmpWrite (c : Fin 16) (w : CmpWrite)
  /-- `COMPARATOR_FIRE` (R336). -/
  | comparatorFire (c : Fin 16)
  /-- `NET_FRAME` (R345). -/
  | netFrame (port : Fin 2) (bytes : Bytes) (before after : List Nat)
  /-- `NET_LINK_DOWN` (R342). -/
  | netLinkDown (port : Fin 2) (lost : Nat)
  /-- `NET_LINK_UP` (R342). -/
  | netLinkUp (port : Fin 2) (cr4 bypass : Bool)
  /-- `AN_RESTART` (R342). -/
  | anRestart (port : Fin 2)
  /-- `SELF_CHECK` (R352). -/
  | selfCheck (a b : Bool)
  /-- `COMPARE_MISMATCH` (R352). -/
  | compareMismatch
  /-- `WARM_RESTART_DONE` (R360). -/
  | warmRestartDone (residentOk : Bool)
  /-- `RESYNC_DONE` (R353). -/
  | resyncDone
  /-- `RESYNC_TIMEOUT` (R353). -/
  | resyncTimeout
  /-- `LEAD_RETURN` (R353). -/
  | leadReturn
  /-- `HEARTBEAT` (R355). -/
  | heartbeat
  /-- `MAILBOX_DOORBELL` (R356). -/
  | mailboxDoorbell (m : Fin 8) (len : Fin 8192) (frame : List Nat)
  /-- `COMPLETION_WRITE` (R358). -/
  | completionWrite (m : Fin 8)
  /-- `NOTICE_WRITE` (R358). -/
  | noticeWrite
  /-- `NOTICE_LOST` (R358). -/
  | noticeLost
  /-- `COMPLETION_RING_SETUP` (R355). -/
  | completionRingSetup (ring : Fin 9) (word : Fin 4) (wide : Bool) (v : Nat)
  /-- `BAR0_DISCARDED_WRITE` (R355). -/
  | bar0DiscardedWrite
  /-- `BAR2_READ` (R238). -/
  | bar2Read (off : Fin 536870912) (words : Fin 513) (syndromes : List Nat)
  /-- `BAR2_WRITE` (R2). -/
  | bar2Write
  /-- `HALF_READ_LOW` (R291). -/
  | halfReadLow (who : Fin 65538) (bar2 : Bool) (off : Fin 536870912) (syndrome : Nat)
  /-- `HALF_READ_HIGH` (R291). -/
  | halfReadHigh (who : Fin 65538)
  /-- `PORN_RELEASE` (R361). -/
  | pornRelease (chipId : Fin 16) (bootSrc : Fin 4) (testEn disagree : Bool) (found : Nat)
  /-- `PORN_ASSERT` (R454). -/
  | pornAssert (long : Bool)
  /-- `BOOT_REF_TIMEOUT` (R361). -/
  | bootRefTimeout
  /-- `BOOT_IDLE_REACHED` (R365). -/
  | bootIdleReached
  /-- `BOOT_TIMEOUT` (R365). -/
  | bootTimeout
  /-- `BOOT_COMMAND_REBOOT` (R398). -/
  | bootCommandReboot
  /-- `VDD_AON_POWER_UP` (R465). -/
  | vddAonPowerUp
  /-- `GOVERNOR_GRANT` (R410). -/
  | governorGrant
  /-- `DOMAIN_POWER_GOOD` (R405). -/
  | domainPowerGood (d : Fin 394)
  /-- `SLEEP_ACK` (R408). -/
  | sleepAck (d : Fin 394)
  /-- `SLEEP_DEFER` (R408). -/
  | sleepDefer (d : Fin 394)
  /-- `SLEEP_REFUSE` (R408). -/
  | sleepRefuse (d : Fin 394)
  /-- `SLEEP_RETRY` (R408). -/
  | sleepRetry (d : Fin 394)
  /-- `SLEEP_STALLED` (R409). -/
  | sleepStalled (d : Fin 394)
  /-- `BALLAST_PARK` (R412). -/
  | ballastPark (d : Fin 394)
  /-- `LATCHUP` (R414). -/
  | latchup (d : Fin 394)
  /-- `LATCHUP_RESTORE` (R414). -/
  | latchupRestore (d : Fin 394)
  /-- `DVFS_THROTTLE_STEP` (R416). -/
  | dvfsThrottleStep
  /-- `DVFS_RECOVER_STEP` (R416). -/
  | dvfsRecoverStep
  /-- `THERMAL_LIMIT` (R416). -/
  | thermalLimit
  /-- `READ_VOUT_POLL` (R417). -/
  | readVoutPoll (mv : Nat)
  /-- `VOUT_TIMEOUT` (R417). -/
  | voutTimeout
  /-- `PMBUS_POLL` (R418). -/
  | pmbusPoll (r : Fin 8) (answer : Option (Nat × Nat))
  /-- `AIN_WAKE` (R421). -/
  | ainWake (p : Fin 2)
  /-- `HOSTWAKE_EDGE` (R421). -/
  | hostwakeEdge (level : Bool)
  /-- `RAILS_GOOD` (R423). -/
  | railsGood (residentOk : Bool)
  /-- `HKSTART_EDGE` (R429). -/
  | hkstartEdge (level : Bool)
  /-- `HK_CONVERSION_DONE` (R428). -/
  | hkConversionDone (value : Int)
  /-- `CAL_PLAN_START` (R437). -/
  | calPlanStart (p : Fin 8)
  /-- `CAL_PLAN_STOP` (R437). -/
  | calPlanStop (p : Fin 8)
  /-- `CAL_STRING_DISABLE` (R444). -/
  | calStringDisable (n : Fin 16)
  /-- `CAL_SLOT_BOUNDARY` (R435). -/
  | calSlotBoundary (n : Fin 16)
  /-- `CAL_RUN_JUDGED` (R438). -/
  | calRunJudged (n : Fin 16) (avg : Nat) (below above : Nat)
  /-- `CAL_DIAGNOSTIC_PULSE` (R438). -/
  | calDiagnosticPulse (n : Fin 16)
  /-- `CAL_OVERCURRENT` (R440). -/
  | calOvercurrent (n : Fin 16) (current : Nat)
  /-- `FAULT_COUNT_SUMMARY` (R447). -/
  | faultCountSummary (code inst : Nat)
  /-- `CONFIG_VOTE` (R451). -/
  | configVote (corrected : Nat) (lost : Bool)
  /-- `GET_INFO` (R379). -/
  | getInfo (m : Fin 8)
  /-- `CFG_READ` (R380). -/
  | cfgRead (m : Fin 8)
  /-- `CFG_WRITE` (R381). -/
  | cfgWrite (m : Fin 8)
  /-- `TABLE_WRITE` (R382). -/
  | tableWrite (m : Fin 8) (data : List Nat)
  /-- `TABLE_READ` (R383). -/
  | tableRead (m : Fin 8)
  /-- `SOFT_TRIGGER` (R384). -/
  | softTrigger (m : Fin 8)
  /-- `INTEG_STOP` (R385). -/
  | integStop (m : Fin 8)
  /-- `PROBE_SWEEP` (R386). -/
  | probeSweep (m : Fin 8) (readings : List ProbeReading)
  /-- `CELL_CAL` (R387). -/
  | cellCal (m : Fin 8) (ev : CellCalEvent)
  /-- `CONV_CAPTURE` (R388). -/
  | convCapture (m : Fin 8)
  /-- `FAULT_LIST` (R389). -/
  | faultList (m : Fin 8)
  /-- `FAULT_ACK` (R390). -/
  | faultAck (m : Fin 8)
  /-- `LOG_READ` (R391). -/
  | logRead (m : Fin 8)
  /-- `COMPRESS` (R392). -/
  | compress (m : Fin 8) (data : List Nat)
  /-- `DECOMPRESS` (R393). -/
  | decompress (m : Fin 8) (data : List Nat)
  /-- `IMAGE_LOAD` (R394). -/
  | imageLoad (m : Fin 8) (data : List Nat)
  /-- `IMAGE_FLASH` (R395). -/
  | imageFlash (m : Fin 8) (ok : Bool)
  /-- `IMAGE_SERVE` (R396). -/
  | imageServe (m : Fin 8)
  /-- `ROLLBACK_COMMIT` (R397). -/
  | rollbackCommit (m : Fin 8) (failed : Option Nat)
  /-- `BOOT` (R398). -/
  | boot (m : Fin 8)
  /-- `RING_DATA_TIMEOUT` (R373). -/
  | ringDataTimeout (m : Fin 8)
  /-- `FLASH_IMAGE_READ` (R362). -/
  | flashImageRead (bundle : Bool)
  /-- `PRBS_CHECKER_LOCK` (R321). -/
  | prbsCheckerLock (l : Fin 16) (d : Fin 2)
  /-- `PIN_PULSE_FILTERED` (R454). -/
  | pinPulseFiltered (pin : Fin 3)
  /-- `RETRY_HIGH` (R322). -/
  | retryHigh (l : Fin 16)
  /-- `LANE_ERRORS` (R322). -/
  | laneErrors (l : Fin 16) (d : Fin 2)
  /-- `NET_FEC_UNCORRECTED` (R348). -/
  | netFecUncorrected (port : Fin 2) (corrected uncorrected : Nat)
  /-- `SHED_LANE_READAPTATION` (R315). -/
  | shedLaneReadaptation (l : Fin 16) (d : Fin 2)
  /-- `CAPABILITY_RECORD_RESEND` (R302). -/
  | capabilityRecordResend (l : Fin 16)
  -- The rows from here to the end have no operands: Lean's compiled code numbers at most 244 constructors with fields.
  /-- `PME_TURN_OFF` (R420). -/
  | pmeTurnOff
  /-- `PME_WAIT_TIMEOUT` (R420). -/
  | pmeWaitTimeout
  /-- `ALARM_WAKE` (R421). -/
  | alarmWake
  /-- `MIN_OFF_EXPIRED` (R422). -/
  | minOffExpired
  /-- `AON_OVERCURRENT` (R453). -/
  | aonOvercurrent
  /-- `HK_START` (R429). -/
  | hkStart
  /-- `HK_STOP` (R429). -/
  | hkStop
  /-- `HK_DELAY_EXPIRED` (R428). -/
  | hkDelayExpired
  /-- `HK_WAKE_TIMER` (R430). -/
  | hkWakeTimer
  /-- `HK_BUFFER_COPY` (R431). -/
  | hkBufferCopy
  /-- `STAT_PERIOD` (R433). -/
  | statPeriod
  /-- `HEARTBEAT_STALL` (R433). -/
  | heartbeatStall
  /-- `DRAIN_LIMIT_EXPIRED` (R37). -/
  | drainLimitExpired
  /-- `PCIE_LINK_LEAVES_L2` (R423). -/
  | pcieLinkLeavesL2
  /-- `TRIG_BUSY` (R136). -/
  | trigBusy
  /-- `VERIFY_RECURRING` (R269). -/
  | verifyRecurring
  deriving DecidableEq, Repr

end Sys2Proof
end

