-- ==== Sys2Proof/Config.lean ====
section
/-! DEFINITION. What one part fixes and the spec leaves open: opaque constants, so that no proof can see a value.
Each is named in a row of the assumption log. -/

namespace Sys2Proof.Config

/-- A free value: applied to the counter `State.free`, it stands for a value that the spec leaves open. -/
opaque freeValue : Nat → Nat

/-- Re(Z_T) and Im(Z_T) of an input, in 0.125 Ω (`PROBE_TERM`, R478: per part). -/
opaque probeTermRe : Nat → Int
opaque probeTermIm : Nat → Int

/-- The contents of the boot ROM, by byte offset (R271). -/
opaque bootRom : Nat → Byte

/-- The Hsiao code of the field store (R234): the syndrome column of each of the 64 data bits. -/
opaque hsiaoColumn : Nat → BitVec 8

/-- Coefficient j of the prototype filter h, which boot ROM holds (R99): 18 bits, two's complement. -/
opaque firCoeff : Nat → BitVec 18

/-- The sum of the rounding errors in X[k] of the FFT of y[0..2047] (R100: the order of its butterflies is not given). -/
opaque fftErrRe : List Int → Nat → Int
opaque fftErrIm : List Int → Nat → Int

/-- What background calibration estimates from what it gathered of the eight sub-converters of an input (R95: the
estimator is not given): number, sum, sum of squares, number and sum of neighbour products of each, then what else the
estimator goes by; the last argument names the sub-converter. -/
opaque offsetEstimate : List (Nat × Int × Nat × Nat × Int) → List Int → Nat → Int
opaque gainEstimate : List (Nat × Int × Nat × Nat × Int) → List Int → Nat → Int
opaque skewEstimate : List (Nat × Int × Nat × Nat × Int) → List Int → Nat → Int

/-- What the calibration of a start finds (R96: not given): a fresh value for each draw of `State.free`, at 3 × (8 × input
+ sub-converter), then 0 offset, 1 gain, 2 sampling instant. -/
opaque startCorrection : Nat → Nat → Int

/-- The first 32 bytes of SHA-512 of a public key equal the key hash in fuses (R364 check 2). -/
opaque keyAccepted : Bytes → Bool

/-- The Ed25519 signature of an image is valid (R364 check 3). -/
opaque signatureValid : Bytes → Bool

/-- Coefficient k of a type 5 section of an image (R363: the spec gives no layout): input × 24 + 3 × sub-converter, then
offset, gain, sampling instant. -/
opaque storedCoefficient : Bytes → Nat → Int

/-- The dynamic-Huffman block that DEFLATE makes at a level of a piece of its input, after the input before it, as bits
behind the three of its header (R262, R263: the choice among the codings is the engine's). -/
opaque dynamicBlock : Nat → Bytes → Bytes → List Bool

/-- FLEVEL of the zlib header at a level (R262: not given). -/
opaque zlibLevel : Nat → Nat

/-- The current step of a power domain in mA (`PWR_DOMAIN.STEP_MA`, R404: the spec gives no table). -/
opaque stepMa : Nat → Nat

/-- The estimated core-rail current step of a point change in mA (R417). -/
opaque pointStepMa : Nat → Nat → Nat

/-- Event interferometry of two inputs' samples within ±`MAX_LAG_NS` where R210 gives no result (an input whose kept
bins are all 0, three points that are no peak): PEAK before its saturation, and LAG_PS. -/
opaque crossPeak : List Int → List Int → Nat → Int
opaque crossLag : List Int → List Int → Nat → Int

/-- Which of several equal largest correlations is the peak (R210): its place among them, modulo their number. -/
opaque crossTie : List Int → List Int → Nat

end Sys2Proof.Config
end

