-- ==== Sys2Proof/Machine/Store.lean ====
section
/-! DEFINITION. Sparse maps, bit fields, byte order, signed codes, CRC-32C, and the descriptor of a field of a
configuration or status object. -/

namespace Sys2Proof.Machine

/-! ### Sparse maps -/

/-- The value under a key; 0 where no entry is listed. -/
def mapGet : SMap → Nat → Nat
  | [], _ => 0
  | (k, v) :: t, x => if x = k then v else mapGet t x

/-- Drop every entry of a key. -/
def mapErase : SMap → Nat → SMap
  | [], _ => []
  | (k, v) :: t, x => if x = k then mapErase t x else (k, v) :: mapErase t x

/-- Put a value under a key, keeping the keys in rising order. -/
def mapInsert : SMap → Nat → Nat → SMap
  | [], x, v => [(x, v)]
  | (k, w) :: t, x, v =>
    if x < k then (x, v) :: (k, w) :: t
    else if x = k then (x, v) :: t
    else (k, w) :: mapInsert t x v

/-- Write a value under a key; the value 0 removes the entry, so that equal maps are equal lists. -/
def mapSet (m : SMap) (x v : Nat) : SMap :=
  if v = 0 then mapErase m x else mapInsert m x v

/-- Drop every entry whose key lies in `[lo, hi)`. -/
def mapClear (m : SMap) (lo hi : Nat) : SMap :=
  m.filter (fun p => !(decide (lo ≤ p.1) && decide (p.1 < hi)))

/-- The canonical form from a lower bound on: keys at least `b` and strictly rising, no value 0. -/
def mapWfFrom : Nat → SMap → Bool
  | _, [] => true
  | b, (k, v) :: t => decide (b ≤ k) && decide (v ≠ 0) && mapWfFrom (k + 1) t

/-- The canonical form of a sparse map. -/
def mapWf (m : SMap) : Bool := mapWfFrom 0 m

/-! ### Lists used as fixed arrays -/

/-- Element `i` of a list, or a default. -/
def nth {α : Type} (xs : List α) (i : Nat) (d : α) : α := xs.getD i d

/-- Change element `i` of a list. -/
def upd {α : Type} : List α → Nat → (α → α) → List α
  | [], _, _ => []
  | x :: t, 0, f => f x :: t
  | x :: t, i + 1, f => x :: upd t i f

/-- The first element that meets a test, with what is left without it. -/
def takeFirst {α : Type} (p : α → Bool) : List α → Option (α × List α)
  | [] => none
  | x :: t => if p x then some (x, t) else (takeFirst p t).map (fun r => (r.1, x :: r.2))

/-- Change the first element that meets a test. -/
def updFirst {α : Type} (p : α → Bool) (f : α → α) : List α → List α
  | [] => []
  | x :: t => if p x then f x :: t else x :: updFirst p f t

/-! ### Bits and bytes -/

/-- Bits `[lo + w - 1 : lo]` of a number. -/
def bits (n lo w : Nat) : Nat := (n / 2 ^ lo) % 2 ^ w

/-- Bit `i` of a number. -/
def bit (n i : Nat) : Bool := n.testBit i

/-- A number with bit `i` set or cleared. -/
def setBit (n i : Nat) (b : Bool) : Nat :=
  if b then n ||| 2 ^ i else (n ||| 2 ^ i) ^^^ 2 ^ i

/-- 1 for true, 0 for false. -/
def b2n (b : Bool) : Nat := if b then 1 else 0

/-- How many of the bits 0 to w − 1 are set. -/
def popCount : Nat → Nat → Nat
  | 0, _ => 0
  | w + 1, n => n % 2 + popCount w (n / 2)

/-- The `k` low bytes of a number, least significant first (R11). -/
def leBytes : Nat → Nat → Bytes
  | 0, _ => []
  | k + 1, n => n % 256 :: leBytes k (n / 256)

/-- The number that bytes spell, least significant first. -/
def ofLe : Bytes → Nat
  | [] => 0
  | b :: t => b % 256 + 256 * ofLe t

/-- The `k` low bytes of a number, most significant first (network byte order, R11). -/
def beBytes (k n : Nat) : Bytes := (leBytes k n).reverse

/-- The number that bytes spell, most significant first. -/
def ofBe (b : Bytes) : Nat := ofLe b.reverse

/-- `k` bytes from offset `o`, read as a little-endian number; a missing byte reads 0. -/
def leAt (b : Bytes) (o k : Nat) : Nat := ofLe ((b.drop o).take k)

/-- Bytes padded with zeros to a length. -/
def padTo (n : Nat) (b : Bytes) : Bytes := b ++ List.replicate (n - b.length) 0

/-- A length rounded up to a multiple of 8. -/
def up8 (n : Nat) : Nat := (n + 7) / 8 * 8

/-- Two's complement of width `w`, as an integer. -/
def toInt (w n : Nat) : Int :=
  if n % 2 ^ w < 2 ^ (w - 1) then ((n % 2 ^ w : Nat) : Int) else ((n % 2 ^ w : Nat) : Int) - ((2 ^ w : Nat) : Int)

/-- The code of an integer in two's complement of width `w`. -/
def ofInt (w : Nat) (i : Int) : Nat := (i % ((2 ^ w : Nat) : Int)).toNat

/-- An integer held inside `[lo, hi]`. -/
def clampInt (lo hi i : Int) : Int := if i < lo then lo else if hi < i then hi else i

/-- A number to which one more would wrap stays at its top (a saturating counter of width `w`). -/
def satAdd (w n k : Nat) : Nat := if 2 ^ w ≤ n + k then 2 ^ w - 1 else n + k

/-- The integer square root by bisection over `fuel` bits. -/
def isqrtFrom : Nat → Nat → Nat → Nat
  | 0, _, r => r
  | b + 1, n, r => if (r + 2 ^ b) * (r + 2 ^ b) ≤ n then isqrtFrom b n (r + 2 ^ b) else isqrtFrom b n r

/-- ⌊√n⌋ for n < 2^128. -/
def isqrt (n : Nat) : Nat := isqrtFrom 64 n 0

/-! ### CRC-32C -/

/-- Eight shifts of the reflected CRC-32C register (polynomial 0x1EDC6F41, reflected 0x82F63B78). -/
def crcShift : Nat → Nat → Nat
  | 0, c => c
  | k + 1, c => crcShift k (if c % 2 = 1 then (c / 2) ^^^ 0x82F63B78 else c / 2)

/-- The CRC register after a string of bytes. -/
def crcRun : Nat → Bytes → Nat
  | c, [] => c
  | c, b :: t => crcRun (crcShift 8 (c ^^^ (b % 256))) t

/-- CRC-32C of a string of bytes. -/
def crc32c (b : Bytes) : Nat := crcRun 0xFFFFFFFF b ^^^ 0xFFFFFFFF

/-! ### Fields of objects -/

/-- The type of a field (conventions of `00_scope.md`): read-write, read-only, write 1 to clear, write-only,
read snapshot. -/
inductive FKind where
  | rw | ro | w1c | wo | rs
  deriving DecidableEq, Repr

/-- One field of an object's map: object id, lowest bit, width, default, type, legal range. -/
structure Field where
  obj : Nat
  lo : Nat
  width : Nat
  dflt : Nat
  kind : FKind
  min : Nat
  max : Nat
  deriving DecidableEq, Repr

/-- One object of the spec: its id, the number of its numbered copies, its fields. -/
structure ObjDesc where
  id : Nat
  count : Nat
  fields : List Field
  deriving DecidableEq, Repr

/-- The place of field `f` of copy `i` of its object in a store; no object has 2²⁰ copies. -/
def Field.key (f : Field) (i : Nat) : Nat := (f.obj * 1048576 + i % 1048576) * 4096 + f.lo

/-- The reset value of field `f` of copy `i`: the default of the field map, but for the fields whose map gives a
default per copy (`TRG_SOURCE.PRIORITY`, `FST_PLAN`, `MOV_QPROT.PROT`). -/
def Field.resetAt (f : Field) (i : Nat) : Nat :=
  if f.obj = 0x0504 then (if f.lo = 16 then (if i = 2 ∨ i = 3 then 1 else 0) else f.dflt)
  else if f.obj = 0x0A02 then
    (if f.lo = 0 then (if 145 ≤ i ∧ i ≤ 151 then 1 else 2) else (if 145 ≤ i ∧ i ≤ 159 then 1 else 2))
  else if f.obj = 0x0C05 then (if f.lo = 0 then (if i = 0 ∨ i = 1 ∨ i = 6 then 0 else 1) else f.dflt)
  else f.dflt

/-- What a store holds under a field: its reset value differs by exclusive-or from the listed number, so that a
store with nothing listed is the store at reset. -/
def fieldGet (m : SMap) (f : Field) (i : Nat) : Nat := mapGet m (f.key i) ^^^ f.resetAt i

/-- Write a field in a store, truncated to the field's width. -/
def fieldSet (m : SMap) (f : Field) (i v : Nat) : SMap :=
  mapSet m (f.key i) ((v % 2 ^ f.width) ^^^ f.resetAt i)

/-- Put every field of copy `i` of object `o` back to its reset value. -/
def objClear (m : SMap) (o i : Nat) : SMap :=
  mapClear m ((o * 1048576 + i % 1048576) * 4096) ((o * 1048576 + i % 1048576 + 1) * 4096)

end Sys2Proof.Machine
end

