-- ==== Sys2Proof/Machine/Severity.lean ====
section
/-! DEFINITION. The severity of every fault code, the codes limited to one notice per second, and which detections
last (the fault tables of R60, R90, R113 to R456 and R445). -/

namespace Sys2Proof.Machine

/-- The codes of severity DEGRADED. -/
def degradedCodes : List Nat :=
  [0x0102, 0x0105, 0x0106, 0x0203, 0x0204, 0x0205, 0x0206, 0x0301, 0x0502, 0x0503, 0x0603, 0x0703, 0x0803, 0x0804,
   0x0805, 0x0807, 0x0A03, 0x0A04, 0x0A08, 0x0B02, 0x0C02, 0x0C04, 0x0D01, 0x0D02, 0x0D04, 0x0D06, 0x0D07, 0x0E01,
   0x0E02, 0x0E06, 0x0F02, 0x1001, 0x1003, 0x1005, 0x1008, 0x1009, 0x1101, 0x1102, 0x1104, 0x1105, 0x1108, 0x1402,
   0x1202, 0x1203, 0x1304]

/-- The codes of severity DATA. -/
def dataCodes : List Nat :=
  [0x0103, 0x0201, 0x0207, 0x0401, 0x0403, 0x0601, 0x0604, 0x0701, 0x0704, 0x0705, 0x0801, 0x0806, 0x0901, 0x0903,
   0x0A02, 0x0A05, 0x0A06, 0x0B01, 0x0B03, 0x0C06, 0x0C07, 0x0C09, 0x0D03, 0x0F01, 0x1301, 0x1302, 0x1303]

/-- The codes of severity FATAL. -/
def fatalCodes : List Nat := [0x1004, 0x1107, 0x100B, 0x1109, 0x1404]

/-- Severity of a code: 0 INFO, 1 DEGRADED, 2 DATA, 3 FATAL (R9, R445). -/
def severityOf (code : Nat) : Nat :=
  if fatalCodes.contains code then 3
  else if dataCodes.contains code then 2
  else if degradedCodes.contains code then 1
  else 0

/-- The codes whose fault table limits them to one notice per second (R447). -/
def ratedCodes : List Nat :=
  [0x0401, 0x0501, 0x0505, 0x0601, 0x0701, 0x0702, 0x0801, 0x0901, 0x0A01, 0x0C01, 0x0C09, 0x0F04, 0x0F05, 0x100C,
   0x1405]

/-- The codes whose condition lasts after its detection: the instance is RAISED until a meaning ends the condition.
DEDUCED from the "Cleared" column: every other code is an occurrence that is over when it is detected, so that its
instance is WAITING at once (R446). -/
def lastingCodes : List Nat :=
  [0x0102, 0x0103, 0x0105, 0x0106, 0x0203, 0x0204, 0x0205, 0x0206, 0x0207, 0x0301, 0x0403, 0x0502, 0x0503, 0x0603,
   0x0703, 0x0804, 0x0805, 0x0806, 0x0807, 0x0903, 0x0905, 0x0A02, 0x0A03, 0x0A04, 0x0A05, 0x0A06, 0x0A08, 0x0B02,
   0x0C07, 0x0D01, 0x0D02, 0x0D03, 0x0D04, 0x0D05, 0x0D07, 0x0E01, 0x0E02, 0x0E04, 0x0E06, 0x0F01, 0x0F02, 0x1001,
   0x1004, 0x1101, 0x1105, 0x1106, 0x1107, 0x1109, 0x1201, 0x1202, 0x1203, 0x1301, 0x1302, 0x1303, 0x1304, 0x1305,
   0x1403, 0x100B, 0x1404]

end Sys2Proof.Machine
end

