-- ==== Sys2Proof/Machine/Fields.lean ====
section
/-! DEFINITION. Every field of every configuration and status object of the spec's field maps: its object,
its place, its width, its default, its type and its legal range.
One definition per row of a field map; the object's rule is in its header line. -/

namespace Sys2Proof.Obj

open Sys2Proof.Machine

/-! MODE_PLAN, object 0x1010 (R42, 02_operating_modes.md): 1 of them. -/
namespace MODE_PLAN
def TARGET : Field := ⟨0x1010, 0, 4, 1, .rw, 0, 11⟩
def PEER_GEOM : Field := ⟨0x1010, 4, 1, 0, .rw, 0, 1⟩
def PEER_WATCH : Field := ⟨0x1010, 5, 1, 0, .rw, 0, 1⟩
def WAKE_TARGET : Field := ⟨0x1010, 8, 4, 1, .rw, 1, 9⟩
def DRAIN_MS : Field := ⟨0x1010, 16, 8, 50, .rw, 0, 255⟩
def COLD_CAL : Field := ⟨0x1010, 24, 1, 0, .rw, 0, 1⟩
/-- The fields of MODE_PLAN in the order of its map. -/
def fields : List Field :=
  [TARGET, PEER_GEOM, PEER_WATCH, WAKE_TARGET, DRAIN_MS, COLD_CAL]
end MODE_PLAN

/-! MODE_STATE, object 0x1011 (R43, 02_operating_modes.md): 1 of them. -/
namespace MODE_STATE
def CURRENT : Field := ⟨0x1011, 0, 4, 1, .ro, 0, 15⟩
def TARGET : Field := ⟨0x1011, 4, 4, 1, .ro, 0, 15⟩
def PENDING : Field := ⟨0x1011, 8, 4, 15, .ro, 0, 15⟩
def PHASE : Field := ⟨0x1011, 12, 3, 0, .ro, 0, 7⟩
def PENDING_UP : Field := ⟨0x1011, 15, 1, 0, .ro, 0, 1⟩
def LAST_STATUS : Field := ⟨0x1011, 16, 16, 0, .ro, 0, 65535⟩
def COUNT : Field := ⟨0x1011, 32, 16, 0, .ro, 0, 65535⟩
def LAST_TIME : Field := ⟨0x1011, 48, 16, 0, .ro, 0, 65535⟩
/-- The fields of MODE_STATE in the order of its map. -/
def fields : List Field :=
  [CURRENT, TARGET, PENDING, PHASE, PENDING_UP, LAST_STATUS, COUNT, LAST_TIME]
end MODE_STATE

/-! AFE_INPUT, object 0x0101 (R62, 03_receiver_inputs.md): 256 of them. -/
namespace AFE_INPUT
def ENABLE : Field := ⟨0x0101, 0, 1, 1, .rw, 0, 1⟩
def ARC : Field := ⟨0x0101, 1, 1, 1, .rw, 0, 1⟩
def RANGE : Field := ⟨0x0101, 2, 7, 16, .rw, 0, 127⟩
def VIGIL_RANGE : Field := ⟨0x0101, 9, 7, 16, .rw, 0, 127⟩
def FORCE_LINE : Field := ⟨0x0101, 16, 1, 0, .rw, 0, 1⟩
/-- The fields of AFE_INPUT in the order of its map. -/
def fields : List Field :=
  [ENABLE, ARC, RANGE, VIGIL_RANGE, FORCE_LINE]
end AFE_INPUT

/-! AFE_ARC, object 0x0102 (R63, 03_receiver_inputs.md): 1 of them. -/
namespace AFE_ARC
def TARGET_RMS : Field := ⟨0x0102, 0, 11, 160, .rw, 16, 1600⟩
def DEADBAND : Field := ⟨0x0102, 11, 5, 6, .rw, 2, 31⟩
def AVG_LOG : Field := ⟨0x0102, 16, 3, 3, .rw, 0, 5⟩
def MAX_STEP : Field := ⟨0x0102, 19, 5, 12, .rw, 1, 31⟩
def MIN_GAP : Field := ⟨0x0102, 24, 8, 16, .rw, 4, 255⟩
def HOLD_CREST : Field := ⟨0x0102, 32, 8, 96, .rw, 32, 255⟩
/-- The fields of AFE_ARC in the order of its map. -/
def fields : List Field :=
  [TARGET_RMS, DEADBAND, AVG_LOG, MAX_STEP, MIN_GAP, HOLD_CREST]
end AFE_ARC

/-! AFE_STATUS, object 0x0103 (R64, 03_receiver_inputs.md): 256 of them. -/
namespace AFE_STATUS
def RANGE : Field := ⟨0x0103, 0, 7, 16, .ro, 0, 127⟩
def CLAMP_STICKY : Field := ⟨0x0103, 7, 1, 0, .w1c, 0, 1⟩
def LINE : Field := ⟨0x0103, 8, 1, 0, .ro, 0, 1⟩
def LINE_STATE : Field := ⟨0x0103, 9, 2, 0, .ro, 0, 3⟩
def PROBE_CLASS : Field := ⟨0x0103, 11, 3, 5, .ro, 0, 7⟩
def CLAMP_COUNT : Field := ⟨0x0103, 16, 16, 0, .ro, 0, 65535⟩
def FORCED_COUNT : Field := ⟨0x0103, 32, 16, 0, .ro, 0, 65535⟩
def CHANGE_COUNT : Field := ⟨0x0103, 48, 16, 0, .ro, 0, 65535⟩
/-- The fields of AFE_STATUS in the order of its map. -/
def fields : List Field :=
  [RANGE, CLAMP_STICKY, LINE, LINE_STATE, PROBE_CLASS, CLAMP_COUNT, FORCED_COUNT, CHANGE_COUNT]

end AFE_STATUS

/-! PROBE_CFG, object 0x0104 (R65, 03_receiver_inputs.md): 256 of them. -/
namespace PROBE_CFG
def ENABLE : Field := ⟨0x0104, 0, 1, 1, .rw, 0, 1⟩
def FREQ : Field := ⟨0x0104, 1, 8, 64, .rw, 13, 128⟩
def AMPL : Field := ⟨0x0104, 9, 8, 40, .rw, 10, 200⟩
def TIA : Field := ⟨0x0104, 17, 3, 0, .rw, 0, 4⟩
def PHASE_DITHER : Field := ⟨0x0104, 20, 1, 1, .rw, 0, 1⟩
/-- The fields of PROBE_CFG in the order of its map. -/
def fields : List Field :=
  [ENABLE, FREQ, AMPL, TIA, PHASE_DITHER]
end PROBE_CFG

/-! PROBE_LIMITS, object 0x0105 (R66, 03_receiver_inputs.md): 1 of them. -/
namespace PROBE_LIMITS
def SHORT_OHM : Field := ⟨0x0105, 0, 8, 5, .rw, 1, 50⟩
def OPEN_OHM : Field := ⟨0x0105, 8, 12, 1000, .rw, 200, 4000⟩
def REACT_FRAC : Field := ⟨0x0105, 20, 4, 2, .rw, 1, 8⟩
def DRIFT_PCT : Field := ⟨0x0105, 24, 7, 20, .rw, 5, 100⟩
def DRIFT_CONFIRM : Field := ⟨0x0105, 31, 3, 4, .rw, 1, 7⟩
def SRC_TOL : Field := ⟨0x0105, 34, 4, 5, .rw, 1, 15⟩
def RMS_DROP : Field := ⟨0x0105, 38, 5, 10, .rw, 3, 20⟩
/-- The fields of PROBE_LIMITS in the order of its map. -/
def fields : List Field :=
  [SHORT_OHM, OPEN_OHM, REACT_FRAC, DRIFT_PCT, DRIFT_CONFIRM, SRC_TOL, RMS_DROP]
end PROBE_LIMITS

/-! PROBE_RESULT, object 0x0106 (R66, 03_receiver_inputs.md): 256 of them. -/
namespace PROBE_RESULT
def Z_RE : Field := ⟨0x0106, 0, 16, 0, .rs, 0, 65535⟩
def Z_IM : Field := ⟨0x0106, 16, 16, 0, .rs, 0, 65535⟩
def CLASS : Field := ⟨0x0106, 32, 3, 5, .rs, 0, 7⟩
def TIA_USED : Field := ⟨0x0106, 35, 3, 0, .rs, 0, 7⟩
def AMPL_USED : Field := ⟨0x0106, 38, 8, 0, .rs, 0, 255⟩
def LAST_OK : Field := ⟨0x0106, 64, 96, 0, .rs, 0, 0xffffffffffffffffffffffff⟩
def RESULT_TIME : Field := ⟨0x0106, 160, 96, 0, .rs, 0, 0xffffffffffffffffffffffff⟩
/-- The fields of PROBE_RESULT in the order of its map. -/
def fields : List Field :=
  [Z_RE, Z_IM, CLASS, TIA_USED, AMPL_USED, LAST_OK, RESULT_TIME]
end PROBE_RESULT

/-! PROBE_REF, object 0x0107 (R66, 03_receiver_inputs.md): 256 of them. -/
namespace PROBE_REF
def REF_RE : Field := ⟨0x0107, 0, 16, 800, .rw, 0, 65535⟩
def REF_IM : Field := ⟨0x0107, 16, 16, 0, .rw, 0, 65535⟩
/-- The fields of PROBE_REF in the order of its map. -/
def fields : List Field :=
  [REF_RE, REF_IM]
end PROBE_REF

/-! PROBE_TERM, object 0x0108 (R478, 03_receiver_inputs.md): 256 of them. -/
namespace PROBE_TERM
def ZT_RE : Field := ⟨0x0108, 0, 16, 0, .ro, 0, 65535⟩
def ZT_IM : Field := ⟨0x0108, 16, 16, 0, .ro, 0, 65535⟩
/-- The fields of PROBE_TERM in the order of its map. -/
def fields : List Field :=
  [ZT_RE, ZT_IM]
end PROBE_TERM

/-! BBL_WINDOW, object 0x0201 (R91, 04_bluebell_ring_memory.md): 1 of them. -/
namespace BBL_WINDOW
def PRE : Field := ⟨0x0201, 0, 4, 4, .rw, 1, 15⟩
def POST : Field := ⟨0x0201, 4, 4, 4, .rw, 1, 15⟩
def LAT_DIG : Field := ⟨0x0201, 8, 10, 640, .ro, 0, 1023⟩
def LAT_ANA : Field := ⟨0x0201, 18, 6, 38, .rw, 0, 63⟩
/-- The fields of BBL_WINDOW in the order of its map. -/
def fields : List Field :=
  [PRE, POST, LAT_DIG, LAT_ANA]
end BBL_WINDOW

/-! BBL_VIGIL, object 0x0202 (R91, 04_bluebell_ring_memory.md): 1 of them. -/
namespace BBL_VIGIL
def GROUP_N : Field := ⟨0x0202, 0, 5, 3, .rw, 1, 16⟩
def DEV_N : Field := ⟨0x0202, 5, 5, 1, .rw, 1, 16⟩
def STRETCH : Field := ⟨0x0202, 10, 3, 3, .rw, 0, 7⟩
def LINGER : Field := ⟨0x0202, 13, 8, 50, .rw, 1, 255⟩
/-- The fields of BBL_VIGIL in the order of its map. -/
def fields : List Field :=
  [GROUP_N, DEV_N, STRETCH, LINGER]
end BBL_VIGIL

/-! BBL_ENV, object 0x0203 (R91, 04_bluebell_ring_memory.md): 256 of them. -/
namespace BBL_ENV
def ENABLE : Field := ⟨0x0203, 0, 1, 1, .rw, 0, 1⟩
def THRESH : Field := ⟨0x0203, 1, 8, 24, .rw, 4, 255⟩
def TO_TRG : Field := ⟨0x0203, 9, 1, 0, .rw, 0, 1⟩
/-- The fields of BBL_ENV in the order of its map. -/
def fields : List Field :=
  [ENABLE, THRESH, TO_TRG]
end BBL_ENV

/-! BBL_DIG, object 0x0204 (R91, 04_bluebell_ring_memory.md): 1 of them. -/
namespace BBL_DIG
def KEEP_WARM : Field := ⟨0x0204, 0, 1, 1, .rw, 0, 1⟩
/-- The fields of BBL_DIG in the order of its map. -/
def fields : List Field :=
  [KEEP_WARM]
end BBL_DIG

/-! BBL_STATUS, object 0x0205 (R91, 04_bluebell_ring_memory.md): 1 of them. -/
namespace BBL_STATUS
def FROZEN : Field := ⟨0x0205, 0, 5, 0, .ro, 0, 31⟩
def FREE_SEG : Field := ⟨0x0205, 5, 7, 64, .ro, 0, 127⟩
def HOT : Field := ⟨0x0205, 12, 1, 0, .ro, 0, 1⟩
def T_VMAX : Field := ⟨0x0205, 16, 8, 0, .ro, 0, 255⟩
def T_HOT : Field := ⟨0x0205, 24, 8, 0, .ro, 0, 255⟩
def EXPIRED_COUNT : Field := ⟨0x0205, 32, 16, 0, .ro, 0, 65535⟩
def VIGIL_REFUSED : Field := ⟨0x0205, 48, 16, 0, .ro, 0, 65535⟩
/-- The fields of BBL_STATUS in the order of its map. -/
def fields : List Field :=
  [FROZEN, FREE_SEG, HOT, T_VMAX, T_HOT, EXPIRED_COUNT, VIGIL_REFUSED]
end BBL_STATUS

/-! BBL_CAL_INFO, object 0x0206 (R91, 04_bluebell_ring_memory.md): 1 of them. -/
namespace BBL_CAL_INFO
def VALID : Field := ⟨0x0206, 0, 1, 0, .ro, 0, 1⟩
def TJ_CAL : Field := ⟨0x0206, 8, 8, 0, .ro, 0, 255⟩
def BAD_CELLS : Field := ⟨0x0206, 16, 16, 0, .ro, 0, 65535⟩
def RESID : Field := ⟨0x0206, 32, 8, 0, .ro, 0, 255⟩
def CAL_TIME : Field := ⟨0x0206, 64, 96, 0, .ro, 0, 0xffffffffffffffffffffffff⟩
/-- The fields of BBL_CAL_INFO in the order of its map. -/
def fields : List Field :=
  [VALID, TJ_CAL, BAD_CELLS, RESID, CAL_TIME]
end BBL_CAL_INFO

/-! BBL_LAST_WINDOW, object 0x0207 (R91, 04_bluebell_ring_memory.md): 1 of them. -/
namespace BBL_LAST_WINDOW
def WINDOW_ID : Field := ⟨0x0207, 0, 16, 0, .rs, 0, 65535⟩
def P_ACT : Field := ⟨0x0207, 16, 4, 0, .rs, 0, 15⟩
def Q : Field := ⟨0x0207, 20, 4, 0, .rs, 0, 15⟩
def SOURCE : Field := ⟨0x0207, 24, 2, 0, .rs, 0, 3⟩
def HOLD_EXPIRED : Field := ⟨0x0207, 26, 1, 0, .rs, 0, 1⟩
def STALE : Field := ⟨0x0207, 27, 1, 0, .rs, 0, 1⟩
def UNCAL : Field := ⟨0x0207, 28, 1, 0, .rs, 0, 1⟩
def T_HT : Field := ⟨0x0207, 32, 64, 0, .rs, 0, 0xffffffffffffffff⟩
def B_HT : Field := ⟨0x0207, 96, 64, 0, .rs, 0, 0xffffffffffffffff⟩
def HOLD : Field := ⟨0x0207, 160, 16, 0, .rs, 0, 65535⟩
def DEADLINE : Field := ⟨0x0207, 176, 16, 0, .rs, 0, 65535⟩
def MERGES : Field := ⟨0x0207, 192, 8, 0, .rs, 0, 255⟩
/-- The fields of BBL_LAST_WINDOW in the order of its map. -/
def fields : List Field :=
  [WINDOW_ID, P_ACT, Q, SOURCE, HOLD_EXPIRED, STALE, UNCAL, T_HT, B_HT, HOLD, DEADLINE, MERGES]

end BBL_LAST_WINDOW

/-! CNV_CAL, object 0x0301 (R113, 05_converters_and_channelizer.md): 1 of them. -/
namespace CNV_CAL
def RUN : Field := ⟨0x0301, 0, 1, 1, .rw, 0, 1⟩
def FREEZE : Field := ⟨0x0301, 1, 1, 0, .rw, 0, 1⟩
def MU : Field := ⟨0x0301, 2, 4, 6, .rw, 2, 12⟩
def UPDATE : Field := ⟨0x0301, 6, 6, 4, .rw, 1, 63⟩
def SKEW : Field := ⟨0x0301, 12, 1, 1, .rw, 0, 1⟩
def OVR_ALARM : Field := ⟨0x0301, 16, 8, 8, .rw, 1, 255⟩
/-- The fields of CNV_CAL in the order of its map. -/
def fields : List Field :=
  [RUN, FREEZE, MU, UPDATE, SKEW, OVR_ALARM]
end CNV_CAL

/-! CNV_STATUS, object 0x0302 (R113, 05_converters_and_channelizer.md): 256 of them. -/
namespace CNV_STATUS
def OVR_COUNT : Field := ⟨0x0302, 0, 22, 0, .rs, 0, 0x3fffff⟩
def CONVERGED : Field := ⟨0x0302, 22, 1, 0, .rs, 0, 1⟩
def HELD : Field := ⟨0x0302, 23, 1, 0, .rs, 0, 1⟩
def IMAGE : Field := ⟨0x0302, 24, 7, 0, .rs, 0, 127⟩
def SPX0 : Field := ⟨0x0302, 32, 32, 0, .rs, 0, 0xffffffff⟩
/-- The fields of CNV_STATUS in the order of its map. -/
def fields : List Field :=
  [OVR_COUNT, CONVERGED, HELD, IMAGE, SPX0]
end CNV_STATUS

/-! CNV_CAL_INFO, object 0x0303 (R113, 05_converters_and_channelizer.md): 1 of them. -/
namespace CNV_CAL_INFO
def STORED_VALID : Field := ⟨0x0303, 0, 1, 0, .ro, 0, 1⟩
def TJ_STORED : Field := ⟨0x0303, 8, 8, 0, .ro, 0, 255⟩
def STORE_TIME : Field := ⟨0x0303, 64, 96, 0, .ro, 0, 0xffffffffffffffffffffffff⟩
/-- The fields of CNV_CAL_INFO in the order of its map. -/
def fields : List Field :=
  [STORED_VALID, TJ_STORED, STORE_TIME]
end CNV_CAL_INFO

/-! CHZ_CTRL, object 0x0401 (R114, 05_converters_and_channelizer.md): 1 of them. -/
namespace CHZ_CTRL
def EQ_EFFECT : Field := ⟨0x0401, 0, 1, 0, .rw, 0, 1⟩
def CLIP_ALARM : Field := ⟨0x0401, 1, 8, 0, .rw, 0, 255⟩
/-- The fields of CHZ_CTRL in the order of its map. -/
def fields : List Field :=
  [EQ_EFFECT, CLIP_ALARM]
end CHZ_CTRL

/-! CHZ_EQ, object 0x0402 (R115, 05_converters_and_channelizer.md): 262144 of them. -/
namespace CHZ_EQ
def G_RE : Field := ⟨0x0402, 0, 16, 7168, .rw, 0, 65535⟩
def G_IM : Field := ⟨0x0402, 16, 16, 0, .rw, 0, 65535⟩
/-- The fields of CHZ_EQ in the order of its map. -/
def fields : List Field :=
  [G_RE, G_IM]
end CHZ_EQ

/-! CHZ_CHMASK, object 0x0403 (R116, 05_converters_and_channelizer.md): 1 of them. -/
namespace CHZ_CHMASK
def DAH_MASK : Field := ⟨0x0403, 0, 1024, 0, .rw, 0, 0xffffffffffffffffffffffffffffffffffffffffffffffffffffffffffffffffffffffffffffffffffffffffffffffffffffffffffffffffffffffffffffffffffffffffffffffffffffffffffffffffffffffffffffffffffffffffffffffffffffffffffffffffffffffffffffffffffffffffffffffffffffffffffffffff⟩
def SUN_MASK : Field := ⟨0x0403, 1024, 1024, 0, .rw, 0, 0xffffffffffffffffffffffffffffffffffffffffffffffffffffffffffffffffffffffffffffffffffffffffffffffffffffffffffffffffffffffffffffffffffffffffffffffffffffffffffffffffffffffffffffffffffffffffffffffffffffffffffffffffffffffffffffffffffffffffffffffffffffffffffffffff⟩
/-- The fields of CHZ_CHMASK in the order of its map. -/
def fields : List Field :=
  [DAH_MASK, SUN_MASK]
end CHZ_CHMASK

/-! CHZ_CLIPS, object 0x0404 (R116, 05_converters_and_channelizer.md): 1024 of them. -/
namespace CHZ_CLIPS
def CLIP4 : Field := ⟨0x0404, 0, 24, 0, .rs, 0, 0xffffff⟩
def CLIP8 : Field := ⟨0x0404, 24, 24, 0, .rs, 0, 0xffffff⟩
def SPX0 : Field := ⟨0x0404, 64, 32, 0, .rs, 0, 0xffffffff⟩
/-- The fields of CHZ_CLIPS in the order of its map. -/
def fields : List Field :=
  [CLIP4, CLIP8, SPX0]
end CHZ_CLIPS

/-! CHZ_INPUT_STATUS, object 0x0405 (R116, 05_converters_and_channelizer.md): 256 of them. -/
namespace CHZ_INPUT_STATUS
def INV_FLAG : Field := ⟨0x0405, 0, 11, 0, .rs, 0, 2047⟩
def INV_CAL : Field := ⟨0x0405, 11, 11, 0, .rs, 0, 2047⟩
def INV_EQ : Field := ⟨0x0405, 22, 11, 0, .rs, 0, 2047⟩
def INV_DL4 : Field := ⟨0x0405, 33, 11, 0, .rs, 0, 2047⟩
def INV_DL8 : Field := ⟨0x0405, 44, 11, 0, .rs, 0, 2047⟩
def SPX0 : Field := ⟨0x0405, 64, 32, 0, .rs, 0, 0xffffffff⟩
/-- The fields of CHZ_INPUT_STATUS in the order of its map. -/
def fields : List Field :=
  [INV_FLAG, INV_CAL, INV_EQ, INV_DL4, INV_DL8, SPX0]
end CHZ_INPUT_STATUS

/-! CHZ_STATUS, object 0x0406 (R116, 05_converters_and_channelizer.md): 1 of them. -/
namespace CHZ_STATUS
def EQ_PENDING : Field := ⟨0x0406, 0, 1, 0, .ro, 0, 1⟩
def MASK_PENDING : Field := ⟨0x0406, 1, 1, 0, .ro, 0, 1⟩
def DL_TOTAL : Field := ⟨0x0406, 32, 32, 0, .ro, 0, 0xffffffff⟩
def EQ_CORRECTED : Field := ⟨0x0406, 64, 32, 0, .ro, 0, 0xffffffff⟩
/-- The fields of CHZ_STATUS in the order of its map. -/
def fields : List Field :=
  [EQ_PENDING, MASK_PENDING, DL_TOTAL, EQ_CORRECTED]
end CHZ_STATUS

/-! TRG_CTRL, object 0x0501 (R137, 06_trigger_engine.md): 1 of them. -/
namespace TRG_CTRL
def ENABLE : Field := ⟨0x0501, 0, 1, 0, .rw, 0, 1⟩
def SRC_EN : Field := ⟨0x0501, 1, 6, 4, .rw, 0, 63⟩
def N : Field := ⟨0x0501, 8, 5, 1, .rw, 1, 16⟩
def CW : Field := ⟨0x0501, 16, 7, 16, .rw, 2, 64⟩
/-- The fields of TRG_CTRL in the order of its map. -/
def fields : List Field :=
  [ENABLE, SRC_EN, N, CW]
end TRG_CTRL

/-! TRG_GROUP, object 0x0502 (R137, 06_trigger_engine.md): 16 of them. -/
namespace TRG_GROUP
def ENABLE : Field := ⟨0x0502, 0, 1, 0, .rw, 0, 1⟩
def WIN : Field := ⟨0x0502, 1, 2, 2, .rw, 0, 3⟩
def LEVEL : Field := ⟨0x0502, 8, 23, 0x7fffff, .rw, 1, 0x7fffff⟩
def HYST : Field := ⟨0x0502, 32, 23, 0, .rw, 0, 0x7fffff⟩
def BEAM_EN : Field := ⟨0x0502, 64, 32, 1, .rw, 0, 0xffffffff⟩
/-- The fields of TRG_GROUP in the order of its map. -/
def fields : List Field :=
  [ENABLE, WIN, LEVEL, HYST, BEAM_EN]
end TRG_GROUP

/-! TRG_DELAY, object 0x0503 (R137, 06_trigger_engine.md): 512 of them. -/
namespace TRG_DELAY
def D0 : Field := ⟨0x0503, 0, 6, 0, .rw, 0, 63⟩
def D1 : Field := ⟨0x0503, 6, 6, 0, .rw, 0, 63⟩
def D2 : Field := ⟨0x0503, 12, 6, 0, .rw, 0, 63⟩
def D3 : Field := ⟨0x0503, 18, 6, 0, .rw, 0, 63⟩
def D4 : Field := ⟨0x0503, 24, 6, 0, .rw, 0, 63⟩
def D5 : Field := ⟨0x0503, 30, 6, 0, .rw, 0, 63⟩
def D6 : Field := ⟨0x0503, 36, 6, 0, .rw, 0, 63⟩
def D7 : Field := ⟨0x0503, 42, 6, 0, .rw, 0, 63⟩
def D8 : Field := ⟨0x0503, 48, 6, 0, .rw, 0, 63⟩
def D9 : Field := ⟨0x0503, 54, 6, 0, .rw, 0, 63⟩
def D10 : Field := ⟨0x0503, 60, 6, 0, .rw, 0, 63⟩
def D11 : Field := ⟨0x0503, 66, 6, 0, .rw, 0, 63⟩
def D12 : Field := ⟨0x0503, 72, 6, 0, .rw, 0, 63⟩
def D13 : Field := ⟨0x0503, 78, 6, 0, .rw, 0, 63⟩
def D14 : Field := ⟨0x0503, 84, 6, 0, .rw, 0, 63⟩
def D15 : Field := ⟨0x0503, 90, 6, 0, .rw, 0, 63⟩
/-- The fields of TRG_DELAY in the order of its map. -/
def fields : List Field :=
  [D0, D1, D2, D3, D4, D5, D6, D7, D8, D9, D10, D11, D12, D13, D14, D15]
end TRG_DELAY

/-! TRG_SOURCE, object 0x0504 (R137, 06_trigger_engine.md): 6 of them. -/
namespace TRG_SOURCE
def PRESCALE : Field := ⟨0x0504, 0, 16, 0, .rw, 0, 65535⟩
def PRIORITY : Field := ⟨0x0504, 16, 1, 0, .rw, 0, 1⟩
/-- The fields of TRG_SOURCE in the order of its map. -/
def fields : List Field :=
  [PRESCALE, PRIORITY]
end TRG_SOURCE

/-! TRG_BUCKET, object 0x0505 (R137, 06_trigger_engine.md): 1 of them. -/
namespace TRG_BUCKET
def RATE : Field := ⟨0x0505, 0, 10, 200, .rw, 1, 781⟩
def DEPTH : Field := ⟨0x0505, 10, 8, 6, .rw, 1, 255⟩
def RESERVE : Field := ⟨0x0505, 18, 5, 1, .rw, 0, 31⟩
/-- The fields of TRG_BUCKET in the order of its map. -/
def fields : List Field :=
  [RATE, DEPTH, RESERVE]
end TRG_BUCKET

/-! TRG_IO, object 0x0506 (R137, 06_trigger_engine.md): 1 of them. -/
namespace TRG_IO
def TRIGIN_OFFSET : Field := ⟨0x0506, 0, 8, 0, .rw, 0, 255⟩
def TRIGIN_EDGE : Field := ⟨0x0506, 8, 1, 0, .rw, 0, 1⟩
def TRIGOUT_MODE : Field := ⟨0x0506, 9, 2, 0, .rw, 0, 3⟩
def TRIGOUT_WIDTH : Field := ⟨0x0506, 11, 8, 5, .rw, 1, 255⟩
def TRIGOUT_POL : Field := ⟨0x0506, 19, 1, 0, .rw, 0, 1⟩
/-- The fields of TRG_IO in the order of its map. -/
def fields : List Field :=
  [TRIGIN_OFFSET, TRIGIN_EDGE, TRIGOUT_MODE, TRIGOUT_WIDTH, TRIGOUT_POL]
end TRG_IO

/-! TRG_AXREL, object 0x0507 (R137, 06_trigger_engine.md): 1 of them. -/
namespace TRG_AXREL
def SEND_SRC : Field := ⟨0x0507, 0, 6, 0, .rw, 0, 63⟩
def SEND_PORTS : Field := ⟨0x0507, 6, 4, 0, .rw, 0, 15⟩
def RECV_PORTS : Field := ⟨0x0507, 10, 4, 0, .rw, 0, 15⟩
def AX_OFFSET : Field := ⟨0x0507, 16, 10, 0, .rw, 0, 1023⟩
/-- The fields of TRG_AXREL in the order of its map. -/
def fields : List Field :=
  [SEND_SRC, SEND_PORTS, RECV_PORTS, AX_OFFSET]
end TRG_AXREL

/-! TRG_COUNTS, object 0x0508 (R137, 06_trigger_engine.md): 6 of them. -/
namespace TRG_COUNTS
def CONDITIONS : Field := ⟨0x0508, 0, 32, 0, .rs, 0, 0xffffffff⟩
def PRESCALED : Field := ⟨0x0508, 32, 32, 0, .rs, 0, 0xffffffff⟩
def MERGED : Field := ⟨0x0508, 64, 32, 0, .rs, 0, 0xffffffff⟩
def REFUSED_WINDOW : Field := ⟨0x0508, 96, 32, 0, .rs, 0, 0xffffffff⟩
def REFUSED_BUCKET : Field := ⟨0x0508, 128, 32, 0, .rs, 0, 0xffffffff⟩
def REFUSED_RECORD : Field := ⟨0x0508, 160, 32, 0, .rs, 0, 0xffffffff⟩
def ACCEPTED : Field := ⟨0x0508, 192, 32, 0, .rs, 0, 0xffffffff⟩
/-- The fields of TRG_COUNTS in the order of its map. -/
def fields : List Field :=
  [CONDITIONS, PRESCALED, MERGED, REFUSED_WINDOW, REFUSED_BUCKET, REFUSED_RECORD, ACCEPTED]
end TRG_COUNTS

/-! TRG_STATUS, object 0x0509 (R137, 06_trigger_engine.md): 1 of them. -/
namespace TRG_STATUS
def OPEN : Field := ⟨0x0509, 0, 1, 0, .rs, 0, 1⟩
def CREDITS : Field := ⟨0x0509, 1, 5, 0, .rs, 0, 31⟩
def TOKENS : Field := ⟨0x0509, 6, 8, 0, .rs, 0, 255⟩
def SERIAL : Field := ⟨0x0509, 16, 40, 0, .rs, 0, 0xffffffffff⟩
def LIVE : Field := ⟨0x0509, 64, 48, 0, .rs, 0, 0xffffffffffff⟩
def DEAD_WINDOW : Field := ⟨0x0509, 112, 48, 0, .rs, 0, 0xffffffffffff⟩
def DEAD_BUCKET : Field := ⟨0x0509, 160, 48, 0, .rs, 0, 0xffffffffffff⟩
/-- The fields of TRG_STATUS in the order of its map. -/
def fields : List Field :=
  [OPEN, CREDITS, TOKENS, SERIAL, LIVE, DEAD_WINDOW, DEAD_BUCKET]
end TRG_STATUS

/-! TRG_BEAM_STATUS, object 0x050A (R137, 06_trigger_engine.md): 512 of them. -/
namespace TRG_BEAM_STATUS
def MEAN : Field := ⟨0x050A, 0, 23, 0, .rs, 0, 0x7fffff⟩
def FIRES : Field := ⟨0x050A, 32, 16, 0, .rs, 0, 65535⟩
def SPX0 : Field := ⟨0x050A, 64, 32, 0, .rs, 0, 0xffffffff⟩
/-- The fields of TRG_BEAM_STATUS in the order of its map. -/
def fields : List Field :=
  [MEAN, FIRES, SPX0]
end TRG_BEAM_STATUS

/-! EVT_CTRL, object 0x0601 (R155, 07_event_fragments.md): 1 of them. -/
namespace EVT_CTRL
def CODE : Field := ⟨0x0601, 0, 2, 2, .rw, 1, 3⟩
def KEEP_GROUP : Field := ⟨0x0601, 2, 2, 1, .rw, 0, 2⟩
def ZS : Field := ⟨0x0601, 4, 1, 1, .rw, 0, 1⟩
def FT_MIN_SNR : Field := ⟨0x0601, 8, 8, 16, .rw, 4, 255⟩
/-- The fields of EVT_CTRL in the order of its map. -/
def fields : List Field :=
  [CODE, KEEP_GROUP, ZS, FT_MIN_SNR]
end EVT_CTRL

/-! EVT_ZS, object 0x0602 (R155, 07_event_fragments.md): 256 of them. -/
namespace EVT_ZS
def THRESH : Field := ⟨0x0602, 0, 12, 400, .rw, 0, 4095⟩
def FORCE : Field := ⟨0x0602, 12, 1, 0, .rw, 0, 1⟩
def EXCLUDE : Field := ⟨0x0602, 13, 1, 0, .rw, 0, 1⟩
/-- The fields of EVT_ZS in the order of its map. -/
def fields : List Field :=
  [THRESH, FORCE, EXCLUDE]
end EVT_ZS

/-! EVT_SHIP, object 0x0603 (R155, 07_event_fragments.md): 1 of them. -/
namespace EVT_SHIP
def MODE : Field := ⟨0x0603, 0, 2, 0, .rw, 0, 3⟩
def RING : Field := ⟨0x0603, 2, 6, 0, .rw, 0, 63⟩
def PORT : Field := ⟨0x0603, 8, 2, 0, .rw, 0, 3⟩
def CONC_CHIP : Field := ⟨0x0603, 10, 4, 0, .rw, 0, 15⟩
def REPLY_MS : Field := ⟨0x0603, 16, 8, 20, .rw, 1, 255⟩
def HIGH_WM : Field := ⟨0x0603, 24, 7, 75, .rw, 10, 100⟩
/-- The fields of EVT_SHIP in the order of its map. -/
def fields : List Field :=
  [ MODE, RING, PORT, CONC_CHIP, REPLY_MS, HIGH_WM]
end EVT_SHIP

/-! EVT_STATUS, object 0x0604 (R155, 07_event_fragments.md): 1 of them. -/
namespace EVT_STATUS
def BUILT : Field := ⟨0x0604, 0, 32, 0, .rs, 0, 0xffffffff⟩
def DELIVERED : Field := ⟨0x0604, 32, 32, 0, .rs, 0, 0xffffffff⟩
def REJECTED : Field := ⟨0x0604, 64, 32, 0, .rs, 0, 0xffffffff⟩
def LOST : Field := ⟨0x0604, 96, 32, 0, .rs, 0, 0xffffffff⟩
def GONE : Field := ⟨0x0604, 128, 32, 0, .rs, 0, 0xffffffff⟩
def VOID_FRAGS : Field := ⟨0x0604, 160, 32, 0, .rs, 0, 0xffffffff⟩
def USED_KIB : Field := ⟨0x0604, 192, 24, 0, .rs, 0, 0xffffff⟩
def OLDEST : Field := ⟨0x0604, 224, 40, 0, .rs, 0, 0xffffffffff⟩
/-- The fields of EVT_STATUS in the order of its map. -/
def fields : List Field :=
  [BUILT, DELIVERED, REJECTED, LOST, GONE, VOID_FRAGS, USED_KIB, OLDEST]
end EVT_STATUS

/-! DAH_INTEG, object 0x0701 (R184, 08_dahlia_correlator.md): 1 of them. -/
namespace DAH_INTEG
def INT_BLOCKS : Field := ⟨0x0701, 0, 15, 763, .rw, 1, 16384⟩
def SPREAD : Field := ⟨0x0701, 16, 11, 514, .rw, 1, 1024⟩
def CALBIN : Field := ⟨0x0701, 27, 1, 0, .rw, 0, 1⟩
def CAL_STRING : Field := ⟨0x0701, 28, 4, 0, .rw, 0, 15⟩
def START_NOW : Field := ⟨0x0701, 32, 1, 0, .wo, 0, 1⟩
/-- The fields of DAH_INTEG in the order of its map. -/
def fields : List Field :=
  [INT_BLOCKS, SPREAD, CALBIN, CAL_STRING, START_NOW]
end DAH_INTEG

/-! DAH_BAND, object 0x0702 (R184, 08_dahlia_correlator.md): 1 of them. -/
namespace DAH_BAND
def K_FIRST : Field := ⟨0x0702, 0, 10, 0, .rw, 0, 1023⟩
def K_COUNT : Field := ⟨0x0702, 10, 11, 1024, .rw, 1, 1024⟩
/-- The fields of DAH_BAND in the order of its map. -/
def fields : List Field :=
  [K_FIRST, K_COUNT]
end DAH_BAND

/-! DAH_DUMP, object 0x0703 (R184, 08_dahlia_correlator.md): 1 of them. -/
namespace DAH_DUMP
def DEST : Field := ⟨0x0703, 0, 2, 2, .rw, 0, 2⟩
def RING : Field := ⟨0x0703, 2, 6, 0, .rw, 0, 63⟩
def PORT : Field := ⟨0x0703, 8, 1, 0, .rw, 0, 1⟩
def CHUNK : Field := ⟨0x0703, 9, 2, 3, .rw, 0, 3⟩
def PATH_GBPS : Field := ⟨0x0703, 11, 7, 60, .rw, 1, 100⟩
/-- The fields of DAH_DUMP in the order of its map. -/
def fields : List Field :=
  [DEST, RING, PORT, CHUNK, PATH_GBPS]
end DAH_DUMP

/-! DAH_DUMP_BASE, object 0x0704 (R184, 08_dahlia_correlator.md): 2 of them. -/
namespace DAH_DUMP_BASE
def BASE : Field := ⟨0x0704, 0, 64, 0, .rw, 0, 0xffffffffffffffff⟩
/-- The fields of DAH_DUMP_BASE in the order of its map. -/
def fields : List Field :=
  [BASE]
end DAH_DUMP_BASE

/-! DAH_STATUS, object 0x0705 (R184, 08_dahlia_correlator.md): 1 of them. -/
namespace DAH_STATUS
def INT_SEQ : Field := ⟨0x0705, 0, 32, 0, .rs, 0, 0xffffffff⟩
def RUNNING : Field := ⟨0x0705, 32, 1, 0, .rs, 0, 1⟩
def PENDING : Field := ⟨0x0705, 33, 1, 0, .rs, 0, 1⟩
def TILE_LOAD : Field := ⟨0x0705, 40, 8, 0, .rs, 0, 255⟩
def STORE_LOAD : Field := ⟨0x0705, 48, 8, 0, .rs, 0, 255⟩
def BLOCKS_DISCARDED : Field := ⟨0x0705, 64, 32, 0, .rs, 0, 0xffffffff⟩
def GROUPS_MISSING : Field := ⟨0x0705, 96, 32, 0, .rs, 0, 0xffffffff⟩
def DUMP_WAIT_US : Field := ⟨0x0705, 128, 32, 0, .rs, 0, 0xffffffff⟩
def RECORDS : Field := ⟨0x0705, 160, 32, 0, .rs, 0, 0xffffffff⟩
def POISON_WORDS : Field := ⟨0x0705, 192, 32, 0, .rs, 0, 0xffffffff⟩
def SEQ_SPX : Field := ⟨0x0705, 224, 32, 0, .rs, 0, 0xffffffff⟩
/-- The fields of DAH_STATUS in the order of its map. -/
def fields : List Field :=
  [INT_SEQ, RUNNING, PENDING, TILE_LOAD, STORE_LOAD, BLOCKS_DISCARDED, GROUPS_MISSING, DUMP_WAIT_US,
   RECORDS, POISON_WORDS, SEQ_SPX]
end DAH_STATUS

/-! DAH_GEOM, object 0x0706 (R184, 08_dahlia_correlator.md): 1 of them. -/
namespace DAH_GEOM
def GEOM : Field := ⟨0x0706, 0, 2, 0, .ro, 0, 3⟩
def BITS8 : Field := ⟨0x0706, 2, 1, 0, .ro, 0, 1⟩
def K_SLICES : Field := ⟨0x0706, 16, 16, 1024, .ro, 0, 65535⟩
def N_PACKS : Field := ⟨0x0706, 32, 32, 257, .ro, 0, 0xffffffff⟩
def N_PRODUCTS : Field := ⟨0x0706, 64, 32, 32896, .ro, 0, 0xffffffff⟩
/-- The fields of DAH_GEOM in the order of its map. -/
def fields : List Field :=
  [GEOM, BITS8, K_SLICES, N_PACKS, N_PRODUCTS]
end DAH_GEOM

/-! PEER_CFG, object 0x0801 (R215, 09_multi_chip_correlation_and_concentration.md): 1 of them. -/
namespace PEER_CFG
def K_FIRST : Field := ⟨0x0801, 0, 10, 0, .rw, 0, 1023⟩
def MIN_RATE : Field := ⟨0x0801, 10, 2, 1, .rw, 0, 3⟩
def SPLIT_PORTS : Field := ⟨0x0801, 12, 4, 0, .rw, 0, 15⟩
/-- The fields of PEER_CFG in the order of its map. -/
def fields : List Field :=
  [K_FIRST, MIN_RATE, SPLIT_PORTS]
end PEER_CFG

/-! PEER_STATUS, object 0x0802 (R215, 09_multi_chip_correlation_and_concentration.md): 1 of them. -/
namespace PEER_STATUS
def STATE : Field := ⟨0x0802, 0, 3, 0, .rs, 0, 7⟩
def GEOM : Field := ⟨0x0802, 3, 2, 0, .rs, 0, 3⟩
def MEMBER : Field := ⟨0x0802, 5, 4, 0, .rs, 0, 15⟩
def FRAME_OK : Field := ⟨0x0802, 9, 1, 0, .rs, 0, 1⟩
def PORTS_UP : Field := ⟨0x0802, 10, 4, 0, .rs, 0, 15⟩
def LIVE : Field := ⟨0x0802, 16, 16, 0, .rs, 0, 65535⟩
def DELTA : Field := ⟨0x0802, 32, 32, 0, .rs, 0, 0xffffffff⟩
def GSPX_START : Field := ⟨0x0802, 64, 32, 0, .rs, 0, 0xffffffff⟩
def LANES : Field := ⟨0x0802, 96, 16, 0, .rs, 0, 65535⟩
/-- The fields of PEER_STATUS in the order of its map. -/
def fields : List Field :=
  [STATE, GEOM, MEMBER, FRAME_OK, PORTS_UP, LIVE, DELTA, GSPX_START, LANES]
end PEER_STATUS

/-! PEER_MEMBER, object 0x0803 (R215, 09_multi_chip_correlation_and_concentration.md): 16 of them. -/
namespace PEER_MEMBER
def RECEIVED : Field := ⟨0x0803, 0, 32, 0, .rs, 0, 0xffffffff⟩
def LATE : Field := ⟨0x0803, 32, 32, 0, .rs, 0, 0xffffffff⟩
def ABSENT : Field := ⟨0x0803, 64, 32, 0, .rs, 0, 0xffffffff⟩
def SEND_DROPPED : Field := ⟨0x0803, 96, 32, 0, .rs, 0, 0xffffffff⟩
/-- The fields of PEER_MEMBER in the order of its map. -/
def fields : List Field :=
  [RECEIVED, LATE, ABSENT, SEND_DROPPED]
end PEER_MEMBER

/-! PEER_CONC, object 0x0804 (R215, 09_multi_chip_correlation_and_concentration.md): 1 of them. -/
namespace PEER_CONC
def FRONT_MASK : Field := ⟨0x0804, 0, 16, 65535, .rw, 1, 65535⟩
def BUILD_US : Field := ⟨0x0804, 16, 16, 200, .rw, 10, 65535⟩
def JOIN_NS : Field := ⟨0x0804, 32, 16, 5000, .rw, 10, 65535⟩
def FETCH_MS : Field := ⟨0x0804, 48, 8, 60, .rw, 1, 255⟩
def ID_PREFIX : Field := ⟨0x0804, 56, 8, 0, .rw, 0, 255⟩
def DEST : Field := ⟨0x0804, 64, 2, 0, .rw, 0, 1⟩
def PORT : Field := ⟨0x0804, 66, 1, 0, .rw, 0, 1⟩
def RING : Field := ⟨0x0804, 68, 6, 0, .rw, 0, 63⟩
/-- The fields of PEER_CONC in the order of its map. -/
def fields : List Field :=
  [FRONT_MASK, BUILD_US, JOIN_NS, FETCH_MS, ID_PREFIX, DEST, PORT, RING]
end PEER_CONC

/-! PEER_L3, object 0x0805 (R215, 09_multi_chip_correlation_and_concentration.md): 1 of them. -/
namespace PEER_L3
def ENABLE : Field := ⟨0x0805, 0, 4, 7, .rw, 0, 15⟩
def MIN_DEV : Field := ⟨0x0805, 4, 5, 2, .rw, 1, 16⟩
def MIN_INPUTS : Field := ⟨0x0805, 9, 13, 4, .rw, 1, 4096⟩
def MAX_SPAN_NS : Field := ⟨0x0805, 22, 11, 2000, .rw, 1, 2047⟩
def MIN_PEAKS : Field := ⟨0x0805, 33, 16, 1, .rw, 1, 65535⟩
def PEAK_THRESH : Field := ⟨0x0805, 49, 15, 8192, .rw, 1, 32767⟩
/-- The fields of PEER_L3 in the order of its map. -/
def fields : List Field :=
  [ENABLE, MIN_DEV, MIN_INPUTS, MAX_SPAN_NS, MIN_PEAKS, PEAK_THRESH]
end PEER_L3

/-! PEER_INTF, object 0x0806 (R215, 09_multi_chip_correlation_and_concentration.md): 1 of them. -/
namespace PEER_INTF
def MODE : Field := ⟨0x0806, 0, 2, 0, .rw, 0, 2⟩
def MAX_LAG_NS : Field := ⟨0x0806, 2, 14, 640, .rw, 1, 1280⟩
def N_PAIRS : Field := ⟨0x0806, 16, 17, 0, .rw, 0, 65536⟩
/-- The fields of PEER_INTF in the order of its map. -/
def fields : List Field :=
  [ MODE, MAX_LAG_NS, N_PAIRS]
end PEER_INTF

/-! PEER_PAIRS, object 0x0807 (R215, 09_multi_chip_correlation_and_concentration.md): 65536 of them. -/
namespace PEER_PAIRS
def A : Field := ⟨0x0807, 0, 12, 0, .rw, 0, 4095⟩
def B : Field := ⟨0x0807, 12, 12, 0, .rw, 0, 4095⟩
def XSPEC : Field := ⟨0x0807, 31, 1, 0, .rw, 0, 1⟩
/-- The fields of PEER_PAIRS in the order of its map. -/
def fields : List Field :=
  [A, B, XSPEC]
end PEER_PAIRS

/-! PEER_CONC_STATUS, object 0x0808 (R215, 09_multi_chip_correlation_and_concentration.md): 1 of them. -/
namespace PEER_CONC_STATUS
def OPEN : Field := ⟨0x0808, 0, 14, 0, .rs, 0, 16383⟩
def ACCEPTED : Field := ⟨0x0808, 32, 32, 0, .rs, 0, 0xffffffff⟩
def REJECTED : Field := ⟨0x0808, 64, 32, 0, .rs, 0, 0xffffffff⟩
def CONTEXT_FULL : Field := ⟨0x0808, 96, 32, 0, .rs, 0, 0xffffffff⟩
def LATE : Field := ⟨0x0808, 128, 32, 0, .rs, 0, 0xffffffff⟩
def XCORR_DROPPED : Field := ⟨0x0808, 160, 32, 0, .rs, 0, 0xffffffff⟩
def LAST_ID : Field := ⟨0x0808, 192, 48, 0, .rs, 0, 0xffffffffffff⟩
/-- The fields of PEER_CONC_STATUS in the order of its map. -/
def fields : List Field :=
  [OPEN, ACCEPTED, REJECTED, CONTEXT_FULL, LATE, XCORR_DROPPED, LAST_ID]
end PEER_CONC_STATUS

/-! SUN_CTRL, object 0x0901 (R232, 10_sunflower_beamformer.md): 1 of them. -/
namespace SUN_CTRL
def GAIN_EFFECT : Field := ⟨0x0901, 0, 1, 0, .rw, 0, 1⟩
def DEST : Field := ⟨0x0901, 1, 1, 1, .rw, 0, 1⟩
def RING : Field := ⟨0x0901, 2, 6, 0, .rw, 0, 63⟩
def PORT : Field := ⟨0x0901, 8, 1, 0, .rw, 0, 1⟩
def PATH_GBPS : Field := ⟨0x0901, 9, 7, 30, .rw, 1, 100⟩
/-- The fields of SUN_CTRL in the order of its map. -/
def fields : List Field :=
  [GAIN_EFFECT, DEST, RING, PORT, PATH_GBPS]
end SUN_CTRL

/-! SUN_BEAM, object 0x0902 (R232, 10_sunflower_beamformer.md): 64 of them. -/
namespace SUN_BEAM
def ENABLE : Field := ⟨0x0902, 0, 1, 0, .rw, 0, 1⟩
def FORM : Field := ⟨0x0902, 1, 1, 0, .rw, 0, 1⟩
def SHIFT : Field := ⟨0x0902, 2, 5, 21, .rw, 0, 31⟩
def K_FIRST : Field := ⟨0x0902, 8, 10, 0, .rw, 0, 1023⟩
def K_COUNT : Field := ⟨0x0902, 18, 11, 64, .rw, 1, 1024⟩
def FRAME_CH : Field := ⟨0x0902, 32, 8, 64, .rw, 1, 128⟩
def INPUTS : Field := ⟨0x0902, 64, 256, 0xffffffffffffffffffffffffffffffffffffffffffffffffffffffffffffffff, .rw, 0, 0xffffffffffffffffffffffffffffffffffffffffffffffffffffffffffffffff⟩
/-- The fields of SUN_BEAM in the order of its map. -/
def fields : List Field :=
  [ENABLE, FORM, SHIFT, K_FIRST, K_COUNT, FRAME_CH, INPUTS]
end SUN_BEAM

/-! SUN_INCOH, object 0x0903 (R232, 10_sunflower_beamformer.md): 1 of them. -/
namespace SUN_INCOH
def ENABLE : Field := ⟨0x0903, 0, 1, 0, .rw, 0, 1⟩
def AVG_LOG : Field := ⟨0x0903, 1, 3, 6, .rw, 0, 6⟩
def ISHIFT : Field := ⟨0x0903, 4, 5, 11, .rw, 0, 31⟩
def K_FIRST : Field := ⟨0x0903, 9, 10, 0, .rw, 0, 1023⟩
def K_COUNT : Field := ⟨0x0903, 19, 11, 1024, .rw, 1, 1024⟩
def FRAME_CH : Field := ⟨0x0903, 32, 13, 1024, .rw, 1, 4096⟩
def INPUTS : Field := ⟨0x0903, 64, 256, 0xffffffffffffffffffffffffffffffffffffffffffffffffffffffffffffffff, .rw, 0, 0xffffffffffffffffffffffffffffffffffffffffffffffffffffffffffffffff⟩
/-- The fields of SUN_INCOH in the order of its map. -/
def fields : List Field :=
  [ENABLE, AVG_LOG, ISHIFT, K_FIRST, K_COUNT, FRAME_CH, INPUTS]
end SUN_INCOH

/-! SUN_GAIN, object 0x0904 (R232, 10_sunflower_beamformer.md): 262144 of them. -/
namespace SUN_GAIN
def G_RE : Field := ⟨0x0904, 0, 8, 64, .rw, 0, 255⟩
def G_IM : Field := ⟨0x0904, 8, 8, 0, .rw, 0, 255⟩
/-- The fields of SUN_GAIN in the order of its map. -/
def fields : List Field :=
  [G_RE, G_IM]
end SUN_GAIN

/-! SUN_CTX, object 0x0905 (R232, 10_sunflower_beamformer.md): 128 of them. -/
namespace SUN_CTX
def DELAY : Field := ⟨0x0905, 0, 24, 0, .rw, 0, 0xffffff⟩
def RATE : Field := ⟨0x0905, 24, 24, 0, .rw, 0, 0xffffff⟩
/-- The fields of SUN_CTX in the order of its map. -/
def fields : List Field :=
  [DELAY, RATE]
end SUN_CTX

/-! SUN_SWITCH, object 0x0906 (R232, 10_sunflower_beamformer.md): 1 of them. -/
namespace SUN_SWITCH
def OP : Field := ⟨0x0906, 0, 2, 0, .wo, 0, 3⟩
def NOW : Field := ⟨0x0906, 2, 1, 0, .wo, 0, 1⟩
def SPX_REF : Field := ⟨0x0906, 8, 32, 0, .rw, 0, 0xffffffff⟩
/-- The fields of SUN_SWITCH in the order of its map. -/
def fields : List Field :=
  [OP, NOW, SPX_REF]
end SUN_SWITCH

/-! SUN_STATUS, object 0x0907 (R232, 10_sunflower_beamformer.md): 1 of them. -/
namespace SUN_STATUS
def RUNNING : Field := ⟨0x0907, 0, 1, 0, .rs, 0, 1⟩
def PENDING_STATE : Field := ⟨0x0907, 1, 2, 0, .rs, 0, 3⟩
def ACTIVE_SET : Field := ⟨0x0907, 3, 1, 0, .rs, 0, 1⟩
def LOAD : Field := ⟨0x0907, 8, 8, 0, .rs, 0, 255⟩
def SET_GEN : Field := ⟨0x0907, 16, 16, 0, .rs, 0, 65535⟩
def SPX_SW : Field := ⟨0x0907, 32, 32, 0, .rs, 0, 0xffffffff⟩
def ACTIVE_REF : Field := ⟨0x0907, 64, 32, 0, .rs, 0, 0xffffffff⟩
def FRAMES_LOST : Field := ⟨0x0907, 96, 32, 0, .rs, 0, 0xffffffff⟩
def SKIPPED : Field := ⟨0x0907, 128, 32, 0, .rs, 0, 0xffffffff⟩
def TABLE_ERRS : Field := ⟨0x0907, 160, 32, 0, .rs, 0, 0xffffffff⟩
def CLIPPED_FRAMES : Field := ⟨0x0907, 192, 32, 0, .rs, 0, 0xffffffff⟩
/-- The fields of SUN_STATUS in the order of its map. -/
def fields : List Field :=
  [RUNNING, PENDING_STATE, ACTIVE_SET, LOAD, SET_GEN, SPX_SW, ACTIVE_REF, FRAMES_LOST, SKIPPED,
   TABLE_ERRS, CLIPPED_FRAMES]
end SUN_STATUS

/-! FST_CE_LOG, object 0x0A05 (R243, 11_field_store.md): 32 of them. -/
namespace FST_CE_LOG
def BANK : Field := ⟨0x0A05, 0, 8, 0, .rs, 0, 255⟩
def WORD : Field := ⟨0x0A05, 8, 3, 0, .rs, 0, 7⟩
def ROW : Field := ⟨0x0A05, 16, 15, 0, .rs, 0, 32767⟩
def SYNDROME : Field := ⟨0x0A05, 32, 8, 0, .rs, 0, 255⟩
def STUCK : Field := ⟨0x0A05, 40, 1, 0, .rs, 0, 1⟩
def REPAIRED : Field := ⟨0x0A05, 41, 1, 0, .rs, 0, 1⟩
def SCRUB : Field := ⟨0x0A05, 42, 1, 0, .rs, 0, 1⟩
def COUNT : Field := ⟨0x0A05, 48, 16, 0, .rs, 0, 65535⟩
def REPEAT : Field := ⟨0x0A05, 64, 5, 0, .rs, 0, 31⟩
def SOURCE : Field := ⟨0x0A05, 72, 3, 0, .rs, 0, 7⟩
def LAST_SEC : Field := ⟨0x0A05, 96, 32, 0, .rs, 0, 0xffffffff⟩
/-- The fields of FST_CE_LOG in the order of its map. -/
def fields : List Field :=
  [BANK, WORD, ROW, SYNDROME, STUCK, REPAIRED, SCRUB, COUNT, REPEAT, SOURCE, LAST_SEC]
end FST_CE_LOG

/-! FST_MAP, object 0x0A01 (R253, 11_field_store.md): 1 of them. -/
namespace FST_MAP
def MAP : Field := ⟨0x0A01, 0, 2, 0, .ro, 0, 3⟩
def DAH_BANKS : Field := ⟨0x0A01, 2, 8, 129, .ro, 0, 255⟩
/-- The fields of FST_MAP in the order of its map. -/
def fields : List Field :=
  [MAP, DAH_BANKS]
end FST_MAP

/-! FST_PLAN, object 0x0A02 (R253, 11_field_store.md): 160 of them. -/
namespace FST_PLAN
def UNUSED_STATE : Field := ⟨0x0A02, 0, 2, 2, .rw, 0, 2⟩
def DORMANT_STATE : Field := ⟨0x0A02, 2, 2, 2, .rw, 1, 2⟩
/-- The fields of FST_PLAN in the order of its map. -/
def fields : List Field :=
  [UNUSED_STATE, DORMANT_STATE]
end FST_PLAN

/-! FST_SCRUB, object 0x0A03 (R253, 11_field_store.md): 1 of them. -/
namespace FST_SCRUB
def ENABLE : Field := ⟨0x0A03, 0, 1, 1, .rw, 0, 1⟩
def AUTO_REPAIR : Field := ⟨0x0A03, 1, 1, 1, .rw, 0, 1⟩
def PERIOD_S : Field := ⟨0x0A03, 2, 12, 60, .rw, 10, 3600⟩
/-- The fields of FST_SCRUB in the order of its map. -/
def fields : List Field :=
  [ENABLE, AUTO_REPAIR, PERIOD_S]
end FST_SCRUB

/-! FST_BANK, object 0x0A04 (R253, 11_field_store.md): 160 of them. -/
namespace FST_BANK
def STATE : Field := ⟨0x0A04, 0, 2, 2, .rs, 0, 3⟩
def INIT : Field := ⟨0x0A04, 2, 2, 0, .rs, 0, 3⟩
def RETFAIL : Field := ⟨0x0A04, 4, 1, 0, .rs, 0, 1⟩
def LOST : Field := ⟨0x0A04, 5, 1, 0, .rs, 0, 1⟩
def SPARES_FUSE : Field := ⟨0x0A04, 8, 6, 0, .rs, 0, 63⟩
def SPARES_SOFT : Field := ⟨0x0A04, 14, 6, 0, .rs, 0, 63⟩
def CE : Field := ⟨0x0A04, 32, 32, 0, .rs, 0, 0xffffffff⟩
def UE : Field := ⟨0x0A04, 64, 32, 0, .rs, 0, 0xffffffff⟩
def POISON : Field := ⟨0x0A04, 96, 32, 0, .rs, 0, 0xffffffff⟩
/-- The fields of FST_BANK in the order of its map. -/
def fields : List Field :=
  [STATE, INIT, RETFAIL, LOST, SPARES_FUSE, SPARES_SOFT, CE, UE, POISON]
end FST_BANK

/-! FST_REPAIR, object 0x0A06 (R253, 11_field_store.md): 1024 of them. -/
namespace FST_REPAIR
def BANK : Field := ⟨0x0A06, 0, 8, 0, .ro, 0, 255⟩
def SOURCE : Field := ⟨0x0A06, 8, 1, 0, .ro, 0, 1⟩
def ROW : Field := ⟨0x0A06, 16, 15, 0, .ro, 0, 32767⟩
/-- The fields of FST_REPAIR in the order of its map. -/
def fields : List Field :=
  [BANK, SOURCE, ROW]
end FST_REPAIR

/-! FST_STATUS, object 0x0A07 (R253, 11_field_store.md): 1 of them. -/
namespace FST_STATUS
def CE_TOTAL : Field := ⟨0x0A07, 0, 32, 0, .rs, 0, 0xffffffff⟩
def UE_TOTAL : Field := ⟨0x0A07, 32, 32, 0, .rs, 0, 0xffffffff⟩
def RMW_CORRECTED : Field := ⟨0x0A07, 64, 32, 0, .rs, 0, 0xffffffff⟩
def RMW_POISONED : Field := ⟨0x0A07, 96, 32, 0, .rs, 0, 0xffffffff⟩
def UNINIT_READS : Field := ⟨0x0A07, 128, 32, 0, .rs, 0, 0xffffffff⟩
def LOG_OVERFLOW : Field := ⟨0x0A07, 160, 32, 0, .rs, 0, 0xffffffff⟩
def REPAIRS_SKIPPED : Field := ⟨0x0A07, 192, 16, 0, .rs, 0, 65535⟩
def LAST_PASS_S : Field := ⟨0x0A07, 208, 16, 0, .rs, 0, 65535⟩
def PASSES : Field := ⟨0x0A07, 224, 32, 0, .rs, 0, 0xffffffff⟩
/-- The fields of FST_STATUS in the order of its map. -/
def fields : List Field :=
  [CE_TOTAL, UE_TOTAL, RMW_CORRECTED, RMW_POISONED, UNINIT_READS, LOG_OVERFLOW, REPAIRS_SKIPPED,
   LAST_PASS_S, PASSES]
end FST_STATUS

/-! CMP_FR, object 0x0B01 (R270, 12_compression.md): 1 of them. -/
namespace CMP_FR
def PRED_EN : Field := ⟨0x0B01, 0, 4, 15, .rw, 1, 15⟩
def VERIFY_TEST : Field := ⟨0x0B01, 4, 1, 0, .wo, 0, 1⟩
/-- The fields of CMP_FR in the order of its map. -/
def fields : List Field :=
  [PRED_EN, VERIFY_TEST]
end CMP_FR

/-! CMP_DEFL, object 0x0B02 (R270, 12_compression.md): 1 of them. -/
namespace CMP_DEFL
def LEVEL : Field := ⟨0x0B02, 0, 4, 6, .rw, 1, 9⟩
def ZLIB : Field := ⟨0x0B02, 4, 1, 1, .rw, 0, 1⟩
/-- The fields of CMP_DEFL in the order of its map. -/
def fields : List Field :=
  [LEVEL, ZLIB]
end CMP_DEFL

/-! CMP_INFL, object 0x0B03 (R270, 12_compression.md): 1 of them. -/
namespace CMP_INFL
def RATIO_MAX : Field := ⟨0x0B03, 0, 11, 256, .rw, 2, 1032⟩
def OUT_MAX_KIB : Field := ⟨0x0B03, 12, 20, 16384, .rw, 1, 0xfffff⟩
/-- The fields of CMP_INFL in the order of its map. -/
def fields : List Field :=
  [RATIO_MAX, OUT_MAX_KIB]
end CMP_INFL

/-! CMP_STATUS, object 0x0B04 (R270, 12_compression.md): 1 of them. -/
namespace CMP_STATUS
def FR_BLOCKS : Field := ⟨0x0B04, 0, 32, 0, .rs, 0, 0xffffffff⟩
def FR_LOSSY : Field := ⟨0x0B04, 32, 32, 0, .rs, 0, 0xffffffff⟩
def FR_VOID : Field := ⟨0x0B04, 64, 32, 0, .rs, 0, 0xffffffff⟩
def FR_FORMAT : Field := ⟨0x0B04, 96, 32, 0, .rs, 0, 0xffffffff⟩
def DEFL_JOBS : Field := ⟨0x0B04, 128, 32, 0, .rs, 0, 0xffffffff⟩
def INFL_JOBS : Field := ⟨0x0B04, 160, 32, 0, .rs, 0, 0xffffffff⟩
def INFL_LIMIT : Field := ⟨0x0B04, 192, 32, 0, .rs, 0, 0xffffffff⟩
def INFL_ERROR : Field := ⟨0x0B04, 224, 32, 0, .rs, 0, 0xffffffff⟩
/-- The fields of CMP_STATUS in the order of its map. -/
def fields : List Field :=
  [FR_BLOCKS, FR_LOSSY, FR_VOID, FR_FORMAT, DEFL_JOBS, INFL_JOBS, INFL_LIMIT, INFL_ERROR]
end CMP_STATUS

/-! MOV_MAP, object 0x0C01 (R293, 13_data_movement_and_queues.md): 1 of them. -/
namespace MOV_MAP
def REMAP : Field := ⟨0x0C01, 0, 1, 0, .ro, 0, 1⟩
/-- The fields of MOV_MAP in the order of its map. -/
def fields : List Field :=
  [REMAP]
end MOV_MAP

/-! MOV_HOSTWIN, object 0x0C02 (R293, 13_data_movement_and_queues.md): 1 of them. -/
namespace MOV_HOSTWIN
def BASE : Field := ⟨0x0C02, 0, 64, 0, .rw, 0, 0xffffffffffffffff⟩
def CPL_TIMEOUT_MS : Field := ⟨0x0C02, 64, 8, 50, .rw, 1, 255⟩
/-- The fields of MOV_HOSTWIN in the order of its map. -/
def fields : List Field :=
  [BASE, CPL_TIMEOUT_MS]
end MOV_HOSTWIN

/-! MOV_RING, object 0x0C03 (R293, 13_data_movement_and_queues.md): 64 of them. -/
namespace MOV_RING
def KIND : Field := ⟨0x0C03, 0, 2, 0, .rw, 0, 3⟩
def SIZE_LOG : Field := ⟨0x0C03, 2, 5, 10, .rw, 4, 16⟩
def VECTOR : Field := ⟨0x0C03, 7, 4, 0, .rw, 0, 15⟩
def PACK : Field := ⟨0x0C03, 11, 1, 1, .rw, 0, 1⟩
def NET_PORT : Field := ⟨0x0C03, 12, 1, 0, .rw, 0, 1⟩
def TEMPLATE : Field := ⟨0x0C03, 13, 5, 0, .rw, 0, 31⟩
def COALESCE_US : Field := ⟨0x0C03, 18, 12, 200, .rw, 0, 4095⟩
def BASE : Field := ⟨0x0C03, 64, 64, 0, .rw, 0, 0xffffffffffffffff⟩
/-- The fields of MOV_RING in the order of its map. -/
def fields : List Field :=
  [KIND, SIZE_LOG, VECTOR, PACK, NET_PORT, TEMPLATE, COALESCE_US, BASE]
end MOV_RING

/-! MOV_RING_STATUS, object 0x0C04 (R293, 13_data_movement_and_queues.md): 64 of them. -/
namespace MOV_RING_STATUS
def HEAD : Field := ⟨0x0C04, 0, 16, 0, .rs, 0, 65535⟩
def TAIL : Field := ⟨0x0C04, 16, 16, 0, .rs, 0, 65535⟩
def DONE_NOTICE : Field := ⟨0x0C04, 32, 1, 0, .w1c, 0, 1⟩
def NO_BUF : Field := ⟨0x0C04, 33, 1, 0, .w1c, 0, 1⟩
def ERROR : Field := ⟨0x0C04, 34, 1, 0, .w1c, 0, 1⟩
def POISON : Field := ⟨0x0C04, 35, 1, 0, .w1c, 0, 1⟩
def RECORDS : Field := ⟨0x0C04, 64, 32, 0, .rs, 0, 0xffffffff⟩
def COMPLETIONS : Field := ⟨0x0C04, 96, 32, 0, .rs, 0, 0xffffffff⟩
/-- The fields of MOV_RING_STATUS in the order of its map. -/
def fields : List Field :=
  [HEAD, TAIL, DONE_NOTICE, NO_BUF, ERROR, POISON, RECORDS, COMPLETIONS]
end MOV_RING_STATUS

/-! MOV_QPROT, object 0x0C05 (R293, 13_data_movement_and_queues.md): 16 of them. -/
namespace MOV_QPROT
def PROT : Field := ⟨0x0C05, 0, 1, 1, .rw, 0, 1⟩
def CORRECTED : Field := ⟨0x0C05, 32, 16, 0, .ro, 0, 65535⟩
def POISONED : Field := ⟨0x0C05, 48, 16, 0, .ro, 0, 65535⟩
/-- The fields of MOV_QPROT in the order of its map. -/
def fields : List Field :=
  [PROT, CORRECTED, POISONED]
end MOV_QPROT

/-! MOV_LOSSY, object 0x0C06 (R293, 13_data_movement_and_queues.md): 4 of them. -/
namespace MOV_LOSSY
def HIGH_WM : Field := ⟨0x0C06, 0, 7, 75, .rw, 10, 100⟩
def HIGH : Field := ⟨0x0C06, 7, 1, 0, .w1c, 0, 1⟩
def LOST_FLAG : Field := ⟨0x0C06, 8, 1, 0, .w1c, 0, 1⟩
def OCCUPANCY : Field := ⟨0x0C06, 16, 7, 0, .ro, 0, 127⟩
def LOST : Field := ⟨0x0C06, 32, 32, 0, .ro, 0, 0xffffffff⟩
/-- The fields of MOV_LOSSY in the order of its map. -/
def fields : List Field :=
  [HIGH_WM, HIGH, LOST_FLAG, OCCUPANCY, LOST]
end MOV_LOSSY

/-! MOV_ERR, object 0x0C07 (R293, 13_data_movement_and_queues.md): 1 of them. -/
namespace MOV_ERR
def ADDR : Field := ⟨0x0C07, 0, 40, 0, .rs, 0, 0xffffffffff⟩
def MASTER : Field := ⟨0x0C07, 40, 4, 0, .rs, 0, 15⟩
def CAUSE : Field := ⟨0x0C07, 44, 3, 0, .rs, 0, 7⟩
def VALID : Field := ⟨0x0C07, 47, 1, 0, .w1c, 0, 1⟩
def COUNT : Field := ⟨0x0C07, 48, 16, 0, .rs, 0, 65535⟩
def TIME : Field := ⟨0x0C07, 64, 96, 0, .rs, 0, 0xffffffffffffffffffffffff⟩
/-- The fields of MOV_ERR in the order of its map. -/
def fields : List Field :=
  [ADDR, MASTER, CAUSE, VALID, COUNT, TIME]
end MOV_ERR

/-! MOV_BUDGET, object 0x0C08 (R293, 13_data_movement_and_queues.md): 10 of them. -/
namespace MOV_BUDGET
def IN_USE : Field := ⟨0x0C08, 0, 11, 0, .rs, 0, 2047⟩
def PEAK : Field := ⟨0x0C08, 16, 11, 0, .rs, 0, 2047⟩
def WAITS : Field := ⟨0x0C08, 32, 32, 0, .rs, 0, 0xffffffff⟩
/-- The fields of MOV_BUDGET in the order of its map. -/
def fields : List Field :=
  [IN_USE, PEAK, WAITS]
end MOV_BUDGET

/-! AXL_CFG, object 0x0D01 (R323, 14_axrel_links.md): 1 of them. -/
namespace AXL_CFG
def MAX_RATE : Field := ⟨0x0D01, 0, 2, 3, .rw, 0, 3⟩
def ACK_TIMEOUT_US : Field := ⟨0x0D01, 8, 8, 4, .rw, 1, 255⟩
def RETRY_WINDOW : Field := ⟨0x0D01, 16, 8, 128, .rw, 8, 128⟩
def RETRAIN_10MS : Field := ⟨0x0D01, 24, 8, 10, .rw, 1, 255⟩
def LPI_IDLE_US : Field := ⟨0x0D01, 32, 16, 100, .rw, 0, 65535⟩
/-- The fields of AXL_CFG in the order of its map. -/
def fields : List Field :=
  [MAX_RATE, ACK_TIMEOUT_US, RETRY_WINDOW, RETRAIN_10MS, LPI_IDLE_US]
end AXL_CFG

/-! AXL_PORT, object 0x0D02 (R323, 14_axrel_links.md): 4 of them. -/
namespace AXL_PORT
def ENABLE : Field := ⟨0x0D02, 0, 1, 1, .rw, 0, 1⟩
def LPI_EN : Field := ⟨0x0D02, 1, 1, 1, .rw, 0, 1⟩
def TX_PRESET : Field := ⟨0x0D02, 2, 2, 0, .rw, 0, 3⟩
def LINK_EN : Field := ⟨0x0D02, 4, 4, 15, .rw, 0, 15⟩
/-- The fields of AXL_PORT in the order of its map. -/
def fields : List Field :=
  [ENABLE, LPI_EN, TX_PRESET, LINK_EN]
end AXL_PORT

/-! AXL_TEST, object 0x0D03 (R323, 14_axrel_links.md): 16 of them. -/
namespace AXL_TEST
def LOOP : Field := ⟨0x0D03, 0, 2, 0, .rw, 0, 3⟩
def PRBS : Field := ⟨0x0D03, 2, 2, 0, .rw, 0, 3⟩
def ALLOW_FAR : Field := ⟨0x0D03, 4, 1, 0, .rw, 0, 1⟩
def ERR_INJECT : Field := ⟨0x0D03, 5, 1, 0, .wo, 0, 1⟩
/-- The fields of AXL_TEST in the order of its map. -/
def fields : List Field :=
  [LOOP, PRBS, ALLOW_FAR, ERR_INJECT]
end AXL_TEST

/-! AXL_LINK_STATUS, object 0x0D04 (R323, 14_axrel_links.md): 16 of them. -/
namespace AXL_LINK_STATUS
def STATE : Field := ⟨0x0D04, 0, 4, 0, .rs, 0, 15⟩
def RATE : Field := ⟨0x0D04, 4, 2, 0, .rs, 0, 3⟩
def LOCKED : Field := ⟨0x0D04, 6, 2, 0, .rs, 0, 3⟩
def CLOCK_OK : Field := ⟨0x0D04, 8, 1, 0, .rs, 0, 1⟩
def RESTRICTED : Field := ⟨0x0D04, 9, 1, 0, .rs, 0, 1⟩
def PARTNER_CHIPID : Field := ⟨0x0D04, 12, 4, 0, .rs, 0, 15⟩
def PARTNER_LINK : Field := ⟨0x0D04, 16, 4, 0, .rs, 0, 15⟩
def PARTNER_MODE : Field := ⟨0x0D04, 20, 4, 0, .rs, 0, 15⟩
def PARTNER_GEOM : Field := ⟨0x0D04, 24, 3, 0, .rs, 0, 7⟩
def PARTNER_RONEC : Field := ⟨0x0D04, 32, 16, 0, .rs, 0, 65535⟩
def TRAININGS : Field := ⟨0x0D04, 64, 32, 0, .rs, 0, 0xffffffff⟩
def LOCK_LOSSES : Field := ⟨0x0D04, 96, 32, 0, .rs, 0, 0xffffffff⟩
/-- The fields of AXL_LINK_STATUS in the order of its map. -/
def fields : List Field :=
  [STATE, RATE, LOCKED, CLOCK_OK, RESTRICTED, PARTNER_CHIPID, PARTNER_LINK, PARTNER_MODE, PARTNER_GEOM,
   PARTNER_RONEC, TRAININGS, LOCK_LOSSES]
end AXL_LINK_STATUS

/-! AXL_PORT_STATUS, object 0x0D05 (R323, 14_axrel_links.md): 16 of them. -/
namespace AXL_PORT_STATUS
def TX_MAP : Field := ⟨0x0D05, 0, 8, 0, .rs, 0, 255⟩
def RX_MAP : Field := ⟨0x0D05, 8, 8, 0, .rs, 0, 255⟩
def BONDED : Field := ⟨0x0D05, 16, 1, 0, .rs, 0, 1⟩
def UP : Field := ⟨0x0D05, 17, 1, 0, .rs, 0, 1⟩
def FRAMES : Field := ⟨0x0D05, 32, 32, 0, .rs, 0, 0xffffffff⟩
def RETRANSMITTED : Field := ⟨0x0D05, 64, 32, 0, .rs, 0, 0xffffffff⟩
def CRC_ERRORS : Field := ⟨0x0D05, 96, 32, 0, .rs, 0, 0xffffffff⟩
def DUPLICATES : Field := ⟨0x0D05, 128, 32, 0, .rs, 0, 0xffffffff⟩
def SHEDS : Field := ⟨0x0D05, 160, 32, 0, .rs, 0, 0xffffffff⟩
def DISCARDED : Field := ⟨0x0D05, 192, 32, 0, .rs, 0, 0xffffffff⟩
/-- The fields of AXL_PORT_STATUS in the order of its map. -/
def fields : List Field :=
  [TX_MAP, RX_MAP, BONDED, UP, FRAMES, RETRANSMITTED, CRC_ERRORS, DUPLICATES, SHEDS, DISCARDED]

end AXL_PORT_STATUS

/-! AXL_PRBS, object 0x0D06 (R323, 14_axrel_links.md): 32 of them. -/
namespace AXL_PRBS
def LOCK : Field := ⟨0x0D06, 0, 1, 0, .rs, 0, 1⟩
def ERRORS : Field := ⟨0x0D06, 32, 32, 0, .rs, 0, 0xffffffff⟩
def BITS : Field := ⟨0x0D06, 64, 64, 0, .rs, 0, 0xffffffffffffffff⟩
/-- The fields of AXL_PRBS in the order of its map. -/
def fields : List Field :=
  [LOCK, ERRORS, BITS]
end AXL_PRBS

/-! TIM_STATE, object 0x0E01 (R349, 15_time_and_network_ports.md): 1 of them. -/
namespace TIM_STATE
def VALID : Field := ⟨0x0E01, 0, 1, 0, .rs, 0, 1⟩
def LOCKED : Field := ⟨0x0E01, 1, 1, 0, .rs, 0, 1⟩
def HOLDOVER : Field := ⟨0x0E01, 2, 1, 0, .rs, 0, 1⟩
def SLEWING : Field := ⟨0x0E01, 3, 1, 0, .rs, 0, 1⟩
def RC64 : Field := ⟨0x0E01, 64, 64, 0, .rs, 0, 0xffffffffffffffff⟩
def TIME : Field := ⟨0x0E01, 128, 96, 0, .rs, 0, 0xffffffffffffffffffffffff⟩
/-- The fields of TIM_STATE in the order of its map. -/
def fields : List Field :=
  [VALID, LOCKED, HOLDOVER, SLEWING, RC64, TIME]
end TIM_STATE

/-! TIM_INC, object 0x0E02 (R349, 15_time_and_network_ports.md): 1 of them. -/
namespace TIM_INC
def INC : Field := ⟨0x0E02, 0, 32, 0xa0000000, .rw, 2683012383, 0xa0147ae1⟩
def WHEN : Field := ⟨0x0E02, 32, 1, 0, .rw, 0, 1⟩
def PENDING : Field := ⟨0x0E02, 33, 1, 0, .ro, 0, 1⟩
/-- The fields of TIM_INC in the order of its map. -/
def fields : List Field :=
  [INC, WHEN, PENDING]
end TIM_INC

/-! TIM_SET, object 0x0E03 (R349, 15_time_and_network_ports.md): 1 of them. -/
namespace TIM_SET
def SEC : Field := ⟨0x0E03, 0, 48, 0, .rw, 0, 0xffffffffffff⟩
def NSEC : Field := ⟨0x0E03, 48, 30, 0, .rw, 0, 0x3b9ac9ff⟩
def OP : Field := ⟨0x0E03, 80, 2, 0, .wo, 0, 2⟩
def AT : Field := ⟨0x0E03, 82, 1, 1, .rw, 0, 1⟩
def PENDING : Field := ⟨0x0E03, 83, 1, 0, .ro, 0, 1⟩
def STEP_NS : Field := ⟨0x0E03, 96, 32, 0, .rw, 0, 0xffffffff⟩
/-- The fields of TIM_SET in the order of its map. -/
def fields : List Field :=
  [SEC, NSEC, OP, AT, PENDING, STEP_NS]
end TIM_SET

/-! TIM_REF, object 0x0E04 (R349, 15_time_and_network_ports.md): 1 of them. -/
namespace TIM_REF
def SKEW_PS : Field := ⟨0x0E04, 0, 16, 0, .rw, 0, 65535⟩
def PPS_EDGE : Field := ⟨0x0E04, 16, 1, 0, .rw, 0, 1⟩
def PPS_WAIT_MS : Field := ⟨0x0E04, 17, 11, 1200, .rw, 0, 2000⟩
def LOCK_NS : Field := ⟨0x0E04, 28, 10, 100, .rw, 1, 1000⟩
def LOCK_COUNT : Field := ⟨0x0E04, 38, 4, 4, .rw, 1, 15⟩
/-- The fields of TIM_REF in the order of its map. -/
def fields : List Field :=
  [SKEW_PS, PPS_EDGE, PPS_WAIT_MS, LOCK_NS, LOCK_COUNT]
end TIM_REF

/-! TIM_PPS, object 0x0E05 (R349, 15_time_and_network_ports.md): 1 of them. -/
namespace TIM_PPS
def RC64 : Field := ⟨0x0E05, 0, 64, 0, .rs, 0, 0xffffffffffffffff⟩
def TIME : Field := ⟨0x0E05, 64, 96, 0, .rs, 0, 0xffffffffffffffffffffffff⟩
def COUNT : Field := ⟨0x0E05, 160, 32, 0, .rs, 0, 0xffffffff⟩
def BAD : Field := ⟨0x0E05, 192, 16, 0, .rs, 0, 65535⟩
def LEAD : Field := ⟨0x0E05, 208, 8, 0, .rs, 0, 255⟩
def FRAME_OK : Field := ⟨0x0E05, 216, 1, 0, .rs, 0, 1⟩
/-- The fields of TIM_PPS in the order of its map. -/
def fields : List Field :=
  [RC64, TIME, COUNT, BAD, LEAD, FRAME_OK]
end TIM_PPS

/-! TIM_CMP, object 0x0E06 (R349, 15_time_and_network_ports.md): 16 of them. -/
namespace TIM_CMP
def TARGET : Field := ⟨0x0E06, 0, 48, 0, .rw, 0, 0xffffffffffff⟩
def ACTION : Field := ⟨0x0E06, 48, 4, 0, .rw, 0, 6⟩
def KIND : Field := ⟨0x0E06, 52, 1, 0, .rw, 0, 1⟩
def ARM : Field := ⟨0x0E06, 53, 1, 0, .rw, 0, 1⟩
def FIRED : Field := ⟨0x0E06, 54, 1, 0, .w1c, 0, 1⟩
def LATE : Field := ⟨0x0E06, 55, 1, 0, .ro, 0, 1⟩
def ARG : Field := ⟨0x0E06, 56, 8, 0, .rw, 0, 255⟩
def PERIOD : Field := ⟨0x0E06, 64, 48, 0, .rw, 0, 0xffffffffffff⟩
def MISSED : Field := ⟨0x0E06, 112, 16, 0, .ro, 0, 65535⟩
def CIVIL : Field := ⟨0x0E06, 128, 96, 0, .rw, 0, 0xffffffffffffffffffffffff⟩
/-- The fields of TIM_CMP in the order of its map. -/
def fields : List Field :=
  [TARGET, ACTION, KIND, ARM, FIRED, LATE, ARG, PERIOD, MISSED, CIVIL]
end TIM_CMP

/-! TIM_CAPTURE, object 0x0E07 (R349, 15_time_and_network_ports.md): 2 of them. -/
namespace TIM_CAPTURE
def RC64 : Field := ⟨0x0E07, 0, 64, 0, .rs, 0, 0xffffffffffffffff⟩
def TIME : Field := ⟨0x0E07, 64, 96, 0, .rs, 0, 0xffffffffffffffffffffffff⟩
def LEVEL : Field := ⟨0x0E07, 160, 1, 0, .rs, 0, 1⟩
def EDGES : Field := ⟨0x0E07, 192, 32, 0, .rs, 0, 0xffffffff⟩
/-- The fields of TIM_CAPTURE in the order of its map. -/
def fields : List Field :=
  [RC64, TIME, LEVEL, EDGES]
end TIM_CAPTURE

/-! NET_PORT, object 0x0F01 (R349, 15_time_and_network_ports.md): 2 of them. -/
namespace NET_PORT
def ENABLE : Field := ⟨0x0F01, 0, 1, 1, .rw, 0, 1⟩
def MEDIA : Field := ⟨0x0F01, 1, 2, 1, .rw, 1, 3⟩
def AN : Field := ⟨0x0F01, 3, 1, 1, .rw, 0, 1⟩
def FEC_IND_BYPASS : Field := ⟨0x0F01, 4, 1, 0, .rw, 0, 1⟩
def FORWARD : Field := ⟨0x0F01, 5, 1, 1, .rw, 0, 1⟩
def UDP_CSUM : Field := ⟨0x0F01, 6, 1, 1, .rw, 0, 1⟩
def MTU : Field := ⟨0x0F01, 8, 14, 9000, .rw, 1500, 9000⟩
def MAC : Field := ⟨0x0F01, 32, 48, 0, .rw, 0, 0xffffffffffff⟩
/-- The fields of NET_PORT in the order of its map. -/
def fields : List Field :=
  [ENABLE, MEDIA, AN, FEC_IND_BYPASS, FORWARD, UDP_CSUM, MTU, MAC]
end NET_PORT

/-! NET_TEMPLATE, object 0x0F02 (R349, 15_time_and_network_ports.md): 32 of them. -/
namespace NET_TEMPLATE
def KIND : Field := ⟨0x0F02, 0, 1, 1, .rw, 0, 1⟩
def HDR_LEN : Field := ⟨0x0F02, 1, 7, 42, .rw, 0, 127⟩
def SET : Field := ⟨0x0F02, 8, 1, 0, .ro, 0, 1⟩
def HEADER : Field := ⟨0x0F02, 16, 512, 0, .rw, 0, 0xffffffffffffffffffffffffffffffffffffffffffffffffffffffffffffffffffffffffffffffffffffffffffffffffffffffffffffffffffffffffffffffff⟩
/-- The fields of NET_TEMPLATE in the order of its map. -/
def fields : List Field :=
  [KIND, HDR_LEN, SET, HEADER]
end NET_TEMPLATE

/-! NET_PTP, object 0x0F03 (R349, 15_time_and_network_ports.md): 2 of them. -/
namespace NET_PTP
def RX_LAT_PS : Field := ⟨0x0F03, 0, 32, 0x278d0, .rw, 0, 0xf4240⟩
def TX_LAT_PS : Field := ⟨0x0F03, 32, 32, 0x1ccf0, .rw, 0, 0xf4240⟩
def ASYM_PS : Field := ⟨0x0F03, 64, 32, 0, .rw, 0, 0xffffffff⟩
def TC_EN : Field := ⟨0x0F03, 96, 1, 1, .rw, 0, 1⟩
def L2_EN : Field := ⟨0x0F03, 97, 1, 1, .rw, 0, 1⟩
def UDP_EN : Field := ⟨0x0F03, 98, 1, 1, .rw, 0, 1⟩
/-- The fields of NET_PTP in the order of its map. -/
def fields : List Field :=
  [RX_LAT_PS, TX_LAT_PS, ASYM_PS, TC_EN, L2_EN, UDP_EN]
end NET_PTP

/-! NET_STATUS, object 0x0F04 (R349, 15_time_and_network_ports.md): 2 of them. -/
namespace NET_STATUS
def LINK : Field := ⟨0x0F04, 0, 2, 0, .rs, 0, 3⟩
def MEDIA_RES : Field := ⟨0x0F04, 2, 1, 0, .rs, 0, 1⟩
def BYPASS_RES : Field := ⟨0x0F04, 3, 1, 0, .rs, 0, 1⟩
def TX_FRAMES : Field := ⟨0x0F04, 32, 32, 0, .rs, 0, 0xffffffff⟩
def RX_OWN : Field := ⟨0x0F04, 64, 32, 0, .rs, 0, 0xffffffff⟩
def FORWARDED : Field := ⟨0x0F04, 96, 32, 0, .rs, 0, 0xffffffff⟩
def FWD_DROPPED : Field := ⟨0x0F04, 128, 32, 0, .rs, 0, 0xffffffff⟩
def TX_LOST : Field := ⟨0x0F04, 160, 32, 0, .rs, 0, 0xffffffff⟩
def FEC_CORRECTED : Field := ⟨0x0F04, 192, 32, 0, .rs, 0, 0xffffffff⟩
def FEC_UNCORRECTED : Field := ⟨0x0F04, 224, 32, 0, .rs, 0, 0xffffffff⟩
def PTP_CORRECTED : Field := ⟨0x0F04, 256, 32, 0, .rs, 0, 0xffffffff⟩
def PTP_UNCORRECTED : Field := ⟨0x0F04, 288, 32, 0, .rs, 0, 0xffffffff⟩
def PAUSE : Field := ⟨0x0F04, 320, 32, 0, .rs, 0, 0xffffffff⟩
/-- The fields of NET_STATUS in the order of its map. -/
def fields : List Field :=
  [LINK, MEDIA_RES, BYPASS_RES, TX_FRAMES, RX_OWN, FORWARDED, FWD_DROPPED, TX_LOST, FEC_CORRECTED,
   FEC_UNCORRECTED, PTP_CORRECTED, PTP_UNCORRECTED, PAUSE]
end NET_STATUS

/-! PWR_GOV, object 0x1101 (R426, 18_power_and_energy.md): 1 of them. -/
namespace PWR_GOV
def RATE : Field := ⟨0x1101, 0, 8, 50, .rw, 5, 200⟩
def CEIL : Field := ⟨0x1101, 16, 9, 400, .rw, 10, 480⟩
def LU_OFF_US : Field := ⟨0x1101, 32, 8, 200, .rw, 20, 255⟩
def LU_DEBT_CAP : Field := ⟨0x1101, 40, 8, 20, .rw, 0, 255⟩
def PARK_US : Field := ⟨0x1101, 48, 8, 20, .rw, 1, 255⟩
/-- The fields of PWR_GOV in the order of its map. -/
def fields : List Field :=
  [RATE, CEIL, LU_OFF_US, LU_DEBT_CAP, PARK_US]
end PWR_GOV

/-! PWR_DVFS, object 0x1102 (R426, 18_power_and_energy.md): 1 of them. -/
namespace PWR_DVFS
def TARGET : Field := ⟨0x1102, 0, 3, 3, .rw, 0, 5⟩
def SLOWEST : Field := ⟨0x1102, 3, 3, 3, .rw, 0, 5⟩
def THROTTLE_C : Field := ⟨0x1102, 8, 7, 95, .rw, 60, 100⟩
def POINT : Field := ⟨0x1102, 16, 3, 3, .ro, 0, 7⟩
def THROTTLED : Field := ⟨0x1102, 19, 1, 0, .ro, 0, 1⟩
/-- The fields of PWR_DVFS in the order of its map. -/
def fields : List Field :=
  [TARGET, SLOWEST, THROTTLE_C, POINT, THROTTLED]
end PWR_DVFS

/-! PWR_REG, object 0x1103 (R426, 18_power_and_energy.md): 8 of them. -/
namespace PWR_REG
def ADDR : Field := ⟨0x1103, 0, 7, 0, .rw, 0, 127⟩
def RAIL : Field := ⟨0x1103, 8, 3, 0, .rw, 0, 7⟩
def EXP : Field := ⟨0x1103, 11, 5, 20, .rw, 16, 31⟩
def PEC : Field := ⟨0x1103, 16, 1, 1, .rw, 0, 1⟩
/-- The fields of PWR_REG in the order of its map. -/
def fields : List Field :=
  [ADDR, RAIL, EXP, PEC]
end PWR_REG

/-! PWR_REG_STATUS, object 0x1104 (R426, 18_power_and_energy.md): 8 of them. -/
namespace PWR_REG_STATUS
def STATUS_WORD : Field := ⟨0x1104, 0, 16, 0, .rs, 0, 65535⟩
def VOUT_MV : Field := ⟨0x1104, 16, 16, 0, .rs, 0, 65535⟩
def ERRORS : Field := ⟨0x1104, 48, 16, 0, .rs, 0, 65535⟩
/-- The fields of PWR_REG_STATUS in the order of its map. -/
def fields : List Field :=
  [STATUS_WORD, VOUT_MV, ERRORS]
end PWR_REG_STATUS

/-! PWR_FOUND, object 0x1105 (R426, 18_power_and_energy.md): 1 of them. -/
namespace PWR_FOUND
def FOUND : Field := ⟨0x1105, 0, 128, 0, .ro, 0, 0xffffffffffffffffffffffffffffffff⟩
/-- The fields of PWR_FOUND in the order of its map. -/
def fields : List Field :=
  [FOUND]
end PWR_FOUND

/-! PWR_DOMAIN, object 0x1106 (R426, 18_power_and_energy.md): 394 of them. -/
namespace PWR_DOMAIN
def STATE : Field := ⟨0x1106, 0, 3, 0, .rs, 0, 7⟩
def HELD : Field := ⟨0x1106, 3, 1, 0, .rs, 0, 1⟩
def PARKED : Field := ⟨0x1106, 4, 1, 0, .rs, 0, 1⟩
def STEP_MA : Field := ⟨0x1106, 16, 16, 0, .rs, 0, 65535⟩
def LATCHUPS : Field := ⟨0x1106, 32, 16, 0, .rs, 0, 65535⟩
def DEFERS : Field := ⟨0x1106, 48, 16, 0, .rs, 0, 65535⟩
/-- The fields of PWR_DOMAIN in the order of its map. -/
def fields : List Field :=
  [STATE, HELD, PARKED, STEP_MA, LATCHUPS, DEFERS]
end PWR_DOMAIN

/-! PWR_STATUS, object 0x1107 (R426, 18_power_and_energy.md): 1 of them. -/
namespace PWR_STATUS
def CREDIT : Field := ⟨0x1107, 0, 16, 0, .rs, 0, 65535⟩
def EST_CURRENT : Field := ⟨0x1107, 16, 16, 0, .rs, 0, 65535⟩
def SEGMENTS : Field := ⟨0x1107, 32, 32, 0, .rs, 0, 0xffffffff⟩
def LATCHUP_CYCLES : Field := ⟨0x1107, 64, 32, 0, .rs, 0, 0xffffffff⟩
def DEBT_CAPPED : Field := ⟨0x1107, 96, 32, 0, .rs, 0, 0xffffffff⟩
/-- The fields of PWR_STATUS in the order of its map. -/
def fields : List Field :=
  [CREDIT, EST_CURRENT, SEGMENTS, LATCHUP_CYCLES, DEBT_CAPPED]
end PWR_STATUS

/-! AON_WAKE_EN, object 0x1401 (R426, 18_power_and_energy.md): 1 of them. -/
namespace AON_WAKE_EN
def AIN6_EN : Field := ⟨0x1401, 0, 1, 0, .rw, 0, 1⟩
def AIN6_POL : Field := ⟨0x1401, 1, 1, 1, .rw, 0, 1⟩
def AIN7_EN : Field := ⟨0x1401, 2, 1, 0, .rw, 0, 1⟩
def AIN7_POL : Field := ⟨0x1401, 3, 1, 1, .rw, 0, 1⟩
def ALARM_EN : Field := ⟨0x1401, 4, 1, 0, .rw, 0, 1⟩
def HOSTWAKE_EN : Field := ⟨0x1401, 5, 1, 1, .rw, 0, 1⟩
def HOSTWAKE_EDGE : Field := ⟨0x1401, 6, 1, 0, .rw, 0, 1⟩
def AIN6_MV : Field := ⟨0x1401, 8, 11, 900, .rw, 0, 1800⟩
def AIN_HYST_MV : Field := ⟨0x1401, 24, 8, 20, .rw, 0, 255⟩
def AIN7_MV : Field := ⟨0x1401, 32, 11, 900, .rw, 0, 1800⟩
/-- The fields of AON_WAKE_EN in the order of its map. -/
def fields : List Field :=
  [AIN6_EN, AIN6_POL, AIN7_EN, AIN7_POL, ALARM_EN, HOSTWAKE_EN, HOSTWAKE_EDGE, AIN6_MV, AIN_HYST_MV,
   AIN7_MV]
end AON_WAKE_EN

/-! AON_ALARM, object 0x1402 (R426, 18_power_and_energy.md): 1 of them. -/
namespace AON_ALARM
def TARGET : Field := ⟨0x1402, 0, 64, 0, .rw, 0, 0xffffffffffffffff⟩
def ARM : Field := ⟨0x1402, 64, 1, 0, .rw, 0, 1⟩
def FIRED : Field := ⟨0x1402, 65, 1, 0, .w1c, 0, 1⟩
/-- The fields of AON_ALARM in the order of its map. -/
def fields : List Field :=
  [TARGET, ARM, FIRED]
end AON_ALARM

/-! AON_LAST_WAKE, object 0x1403 (R426, 18_power_and_energy.md): 1 of them. -/
namespace AON_LAST_WAKE
def SOURCES : Field := ⟨0x1403, 0, 4, 0, .rs, 0, 15⟩
def DURING_ENTRY : Field := ⟨0x1403, 4, 1, 0, .rs, 0, 1⟩
def LATE_ENTRY : Field := ⟨0x1403, 5, 1, 0, .rs, 0, 1⟩
def RAILS_LATE : Field := ⟨0x1403, 6, 1, 0, .rs, 0, 1⟩
def HOLDOVER : Field := ⟨0x1403, 7, 1, 0, .rs, 0, 1⟩
def COUNT : Field := ⟨0x1403, 16, 16, 0, .rs, 0, 65535⟩
def RC64 : Field := ⟨0x1403, 64, 64, 0, .rs, 0, 0xffffffffffffffff⟩
def TIME : Field := ⟨0x1403, 128, 96, 0, .rs, 0, 0xffffffffffffffffffffffff⟩
/-- The fields of AON_LAST_WAKE in the order of its map. -/
def fields : List Field :=
  [SOURCES, DURING_ENTRY, LATE_ENTRY, RAILS_LATE, HOLDOVER, COUNT, RC64, TIME]
end AON_LAST_WAKE

/-! AON_DORMANT, object 0x1404 (R426, 18_power_and_energy.md): 1 of them. -/
namespace AON_DORMANT
def PME_WAIT_MS : Field := ⟨0x1404, 0, 8, 100, .rw, 1, 255⟩
def MIN_OFF_MS : Field := ⟨0x1404, 8, 8, 10, .rw, 1, 255⟩
/-- The fields of AON_DORMANT in the order of its map. -/
def fields : List Field :=
  [PME_WAIT_MS, MIN_OFF_MS]
end AON_DORMANT

/-! HK_CTRL, object 0x1201 (R444, 19_housekeeping_and_calibration_injectors.md): 1 of them. -/
namespace HK_CTRL
def START : Field := ⟨0x1201, 0, 1, 0, .wo, 0, 1⟩
def STOP : Field := ⟨0x1201, 1, 1, 0, .wo, 0, 1⟩
def START_ENTRY : Field := ⟨0x1201, 2, 6, 0, .rw, 0, 63⟩
def HKSTART_EN : Field := ⟨0x1201, 8, 1, 1, .rw, 0, 1⟩
def HKSTART_EDGE : Field := ⟨0x1201, 9, 1, 0, .rw, 0, 1⟩
def HKSTART_ENTRY : Field := ⟨0x1201, 10, 6, 0, .rw, 0, 63⟩
def STARTUP_US : Field := ⟨0x1201, 16, 8, 20, .rw, 10, 255⟩
def PD_MIN : Field := ⟨0x1201, 24, 8, 10, .rw, 0, 255⟩
/-- The fields of HK_CTRL in the order of its map. -/
def fields : List Field :=
  [START, STOP, START_ENTRY, HKSTART_EN, HKSTART_EDGE, HKSTART_ENTRY, STARTUP_US, PD_MIN]
end HK_CTRL

/-! HK_SEQ, object 0x1202 (R444, 19_housekeeping_and_calibration_injectors.md): 64 of them. -/
namespace HK_SEQ
def CHANNEL : Field := ⟨0x1202, 0, 6, 8, .rw, 0, 48⟩
def STORE : Field := ⟨0x1202, 6, 1, 1, .rw, 0, 1⟩
def LAST : Field := ⟨0x1202, 7, 1, 1, .rw, 0, 1⟩
def REPEAT : Field := ⟨0x1202, 8, 8, 1, .rw, 1, 255⟩
def AVG_LOG : Field := ⟨0x1202, 16, 3, 0, .rw, 0, 7⟩
def LIM_EN : Field := ⟨0x1202, 19, 1, 0, .rw, 0, 1⟩
def LIM : Field := ⟨0x1202, 20, 4, 0, .rw, 0, 15⟩
def DELAY : Field := ⟨0x1202, 24, 12, 1000, .rw, 0, 4095⟩
def UNIT : Field := ⟨0x1202, 36, 2, 1, .rw, 0, 3⟩
/-- The fields of HK_SEQ in the order of its map. -/
def fields : List Field :=
  [CHANNEL, STORE, LAST, REPEAT, AVG_LOG, LIM_EN, LIM, DELAY, UNIT]
end HK_SEQ

/-! HK_LIMIT, object 0x1203 (R444, 19_housekeeping_and_calibration_injectors.md): 16 of them. -/
namespace HK_LIMIT
def LOW : Field := ⟨0x1203, 0, 16, 32768, .rw, 0, 65535⟩
def HIGH : Field := ⟨0x1203, 16, 16, 32767, .rw, 0, 65535⟩
def HYST : Field := ⟨0x1203, 32, 8, 0, .rw, 0, 255⟩
def CONFIRM : Field := ⟨0x1203, 40, 4, 3, .rw, 1, 15⟩
def SEVERE : Field := ⟨0x1203, 44, 1, 0, .rw, 0, 1⟩
/-- The fields of HK_LIMIT in the order of its map. -/
def fields : List Field :=
  [LOW, HIGH, HYST, CONFIRM, SEVERE]
end HK_LIMIT

/-! HK_STATUS, object 0x1204 (R444, 19_housekeeping_and_calibration_injectors.md): 1 of them. -/
namespace HK_STATUS
def RUNNING : Field := ⟨0x1204, 0, 1, 0, .rs, 0, 1⟩
def ENTRY : Field := ⟨0x1204, 1, 6, 0, .rs, 0, 63⟩
def ADC_ON : Field := ⟨0x1204, 7, 1, 0, .rs, 0, 1⟩
def ALARMS : Field := ⟨0x1204, 16, 16, 0, .rs, 0, 65535⟩
def RUNS : Field := ⟨0x1204, 32, 32, 0, .rs, 0, 0xffffffff⟩
def RESULTS : Field := ⟨0x1204, 64, 32, 0, .rs, 0, 0xffffffff⟩
def RESTARTS : Field := ⟨0x1204, 96, 32, 0, .rs, 0, 0xffffffff⟩
/-- The fields of HK_STATUS in the order of its map. -/
def fields : List Field :=
  [RUNNING, ENTRY, ADC_ON, ALARMS, RUNS, RESULTS, RESTARTS]
end HK_STATUS

/-! CAL_STRING, object 0x1301 (R444, 19_housekeeping_and_calibration_injectors.md): 16 of them. -/
namespace CAL_STRING
def ENABLE : Field := ⟨0x1301, 0, 1, 0, .rw, 0, 1⟩
def PATTERN : Field := ⟨0x1301, 1, 2, 2, .rw, 0, 2⟩
def SLOT_LOG : Field := ⟨0x1301, 3, 4, 6, .rw, 0, 10⟩
def DUTY : Field := ⟨0x1301, 7, 9, 128, .rw, 0, 256⟩
def I_SET : Field := ⟨0x1301, 16, 12, 100, .rw, 10, 400⟩
def SEED : Field := ⟨0x1301, 32, 32, 0, .rw, 0, 0xffffffff⟩
def INPUTS : Field := ⟨0x1301, 64, 256, 0, .rw, 0, 0xffffffffffffffffffffffffffffffffffffffffffffffffffffffffffffffff⟩
/-- The fields of CAL_STRING in the order of its map. -/
def fields : List Field :=
  [ENABLE, PATTERN, SLOT_LOG, DUTY, I_SET, SEED, INPUTS]
end CAL_STRING

/-! CAL_PLAN, object 0x1302 (R444, 19_housekeeping_and_calibration_injectors.md): 8 of them. -/
namespace CAL_PLAN
def STRINGS : Field := ⟨0x1302, 0, 16, 0, .rw, 0, 65535⟩
def START : Field := ⟨0x1302, 16, 1, 0, .wo, 0, 1⟩
def STOP : Field := ⟨0x1302, 17, 1, 0, .wo, 0, 1⟩
/-- The fields of CAL_PLAN in the order of its map. -/
def fields : List Field :=
  [STRINGS, START, STOP]
end CAL_PLAN

/-! CAL_CTRL, object 0x1303 (R444, 19_housekeeping_and_calibration_injectors.md): 1 of them. -/
namespace CAL_CTRL
def KNEE_C : Field := ⟨0x1303, 0, 7, 85, .rw, 60, 100⟩
/-- The fields of CAL_CTRL in the order of its map. -/
def fields : List Field :=
  [KNEE_C]
end CAL_CTRL

/-! CAL_STATUS, object 0x1304 (R444, 19_housekeeping_and_calibration_injectors.md): 16 of them. -/
namespace CAL_STATUS
def STATE : Field := ⟨0x1304, 0, 3, 0, .rs, 0, 7⟩
def ON_NOW : Field := ⟨0x1304, 3, 1, 0, .rs, 0, 1⟩
def DERATE : Field := ⟨0x1304, 4, 7, 0, .rs, 0, 127⟩
def SENSED : Field := ⟨0x1304, 16, 16, 0, .rs, 0, 65535⟩
def DIAG_PULSES : Field := ⟨0x1304, 32, 32, 0, .rs, 0, 0xffffffff⟩
def LAST_GOOD : Field := ⟨0x1304, 64, 96, 0, .rs, 0, 0xffffffffffffffffffffffff⟩
/-- The fields of CAL_STATUS in the order of its map. -/
def fields : List Field :=
  [STATE, ON_NOW, DERATE, SENSED, DIAG_PULSES, LAST_GOOD]
end CAL_STATUS

/-- Every object of the field maps: its id, how many of it there are, and its fields. -/
def objects0 : List ObjDesc :=
  [⟨0x1010, 1, MODE_PLAN.fields⟩,
   ⟨0x1011, 1, MODE_STATE.fields⟩,
   ⟨0x0101, 256, AFE_INPUT.fields⟩,
   ⟨0x0102, 1, AFE_ARC.fields⟩,
   ⟨0x0103, 256, AFE_STATUS.fields⟩,
   ⟨0x0104, 256, PROBE_CFG.fields⟩,
   ⟨0x0105, 1, PROBE_LIMITS.fields⟩,
   ⟨0x0106, 256, PROBE_RESULT.fields⟩,
   ⟨0x0107, 256, PROBE_REF.fields⟩,
   ⟨0x0108, 256, PROBE_TERM.fields⟩,
   ⟨0x0201, 1, BBL_WINDOW.fields⟩,
   ⟨0x0202, 1, BBL_VIGIL.fields⟩,
   ⟨0x0203, 256, BBL_ENV.fields⟩,
   ⟨0x0204, 1, BBL_DIG.fields⟩,
   ⟨0x0205, 1, BBL_STATUS.fields⟩,
   ⟨0x0206, 1, BBL_CAL_INFO.fields⟩,
   ⟨0x0207, 1, BBL_LAST_WINDOW.fields⟩,
   ⟨0x0301, 1, CNV_CAL.fields⟩,
   ⟨0x0302, 256, CNV_STATUS.fields⟩,
   ⟨0x0303, 1, CNV_CAL_INFO.fields⟩,
   ⟨0x0401, 1, CHZ_CTRL.fields⟩,
   ⟨0x0402, 262144, CHZ_EQ.fields⟩,
   ⟨0x0403, 1, CHZ_CHMASK.fields⟩,
   ⟨0x0404, 1024, CHZ_CLIPS.fields⟩,
   ⟨0x0405, 256, CHZ_INPUT_STATUS.fields⟩,
   ⟨0x0406, 1, CHZ_STATUS.fields⟩,
   ⟨0x0501, 1, TRG_CTRL.fields⟩,
   ⟨0x0502, 16, TRG_GROUP.fields⟩,
   ⟨0x0503, 512, TRG_DELAY.fields⟩,
   ⟨0x0504, 6, TRG_SOURCE.fields⟩]

def objects1 : List ObjDesc :=
  [⟨0x0505, 1, TRG_BUCKET.fields⟩,
   ⟨0x0506, 1, TRG_IO.fields⟩,
   ⟨0x0507, 1, TRG_AXREL.fields⟩,
   ⟨0x0508, 6, TRG_COUNTS.fields⟩,
   ⟨0x0509, 1, TRG_STATUS.fields⟩,
   ⟨0x050A, 512, TRG_BEAM_STATUS.fields⟩,
   ⟨0x0601, 1, EVT_CTRL.fields⟩,
   ⟨0x0602, 256, EVT_ZS.fields⟩,
   ⟨0x0603, 1, EVT_SHIP.fields⟩,
   ⟨0x0604, 1, EVT_STATUS.fields⟩,
   ⟨0x0701, 1, DAH_INTEG.fields⟩,
   ⟨0x0702, 1, DAH_BAND.fields⟩,
   ⟨0x0703, 1, DAH_DUMP.fields⟩,
   ⟨0x0704, 2, DAH_DUMP_BASE.fields⟩,
   ⟨0x0705, 1, DAH_STATUS.fields⟩,
   ⟨0x0706, 1, DAH_GEOM.fields⟩,
   ⟨0x0801, 1, PEER_CFG.fields⟩,
   ⟨0x0802, 1, PEER_STATUS.fields⟩,
   ⟨0x0803, 16, PEER_MEMBER.fields⟩,
   ⟨0x0804, 1, PEER_CONC.fields⟩,
   ⟨0x0805, 1, PEER_L3.fields⟩,
   ⟨0x0806, 1, PEER_INTF.fields⟩,
   ⟨0x0807, 65536, PEER_PAIRS.fields⟩,
   ⟨0x0808, 1, PEER_CONC_STATUS.fields⟩,
   ⟨0x0901, 1, SUN_CTRL.fields⟩,
   ⟨0x0902, 64, SUN_BEAM.fields⟩,
   ⟨0x0903, 1, SUN_INCOH.fields⟩,
   ⟨0x0904, 262144, SUN_GAIN.fields⟩,
   ⟨0x0905, 128, SUN_CTX.fields⟩,
   ⟨0x0906, 1, SUN_SWITCH.fields⟩]

def objects2 : List ObjDesc :=
  [⟨0x0907, 1, SUN_STATUS.fields⟩,
   ⟨0x0A05, 32, FST_CE_LOG.fields⟩,
   ⟨0x0A01, 1, FST_MAP.fields⟩,
   ⟨0x0A02, 160, FST_PLAN.fields⟩,
   ⟨0x0A03, 1, FST_SCRUB.fields⟩,
   ⟨0x0A04, 160, FST_BANK.fields⟩,
   ⟨0x0A06, 1024, FST_REPAIR.fields⟩,
   ⟨0x0A07, 1, FST_STATUS.fields⟩,
   ⟨0x0B01, 1, CMP_FR.fields⟩,
   ⟨0x0B02, 1, CMP_DEFL.fields⟩,
   ⟨0x0B03, 1, CMP_INFL.fields⟩,
   ⟨0x0B04, 1, CMP_STATUS.fields⟩,
   ⟨0x0C01, 1, MOV_MAP.fields⟩,
   ⟨0x0C02, 1, MOV_HOSTWIN.fields⟩,
   ⟨0x0C03, 64, MOV_RING.fields⟩,
   ⟨0x0C04, 64, MOV_RING_STATUS.fields⟩,
   ⟨0x0C05, 16, MOV_QPROT.fields⟩,
   ⟨0x0C06, 4, MOV_LOSSY.fields⟩,
   ⟨0x0C07, 1, MOV_ERR.fields⟩,
   ⟨0x0C08, 10, MOV_BUDGET.fields⟩,
   ⟨0x0D01, 1, AXL_CFG.fields⟩,
   ⟨0x0D02, 4, AXL_PORT.fields⟩,
   ⟨0x0D03, 16, AXL_TEST.fields⟩,
   ⟨0x0D04, 16, AXL_LINK_STATUS.fields⟩,
   ⟨0x0D05, 16, AXL_PORT_STATUS.fields⟩,
   ⟨0x0D06, 32, AXL_PRBS.fields⟩,
   ⟨0x0E01, 1, TIM_STATE.fields⟩,
   ⟨0x0E02, 1, TIM_INC.fields⟩,
   ⟨0x0E03, 1, TIM_SET.fields⟩,
   ⟨0x0E04, 1, TIM_REF.fields⟩]

def objects3 : List ObjDesc :=
  [⟨0x0E05, 1, TIM_PPS.fields⟩,
   ⟨0x0E06, 16, TIM_CMP.fields⟩,
   ⟨0x0E07, 2, TIM_CAPTURE.fields⟩,
   ⟨0x0F01, 2, NET_PORT.fields⟩,
   ⟨0x0F02, 32, NET_TEMPLATE.fields⟩,
   ⟨0x0F03, 2, NET_PTP.fields⟩,
   ⟨0x0F04, 2, NET_STATUS.fields⟩,
   ⟨0x1101, 1, PWR_GOV.fields⟩,
   ⟨0x1102, 1, PWR_DVFS.fields⟩,
   ⟨0x1103, 8, PWR_REG.fields⟩,
   ⟨0x1104, 8, PWR_REG_STATUS.fields⟩,
   ⟨0x1105, 1, PWR_FOUND.fields⟩,
   ⟨0x1106, 394, PWR_DOMAIN.fields⟩,
   ⟨0x1107, 1, PWR_STATUS.fields⟩,
   ⟨0x1401, 1, AON_WAKE_EN.fields⟩,
   ⟨0x1402, 1, AON_ALARM.fields⟩,
   ⟨0x1403, 1, AON_LAST_WAKE.fields⟩,
   ⟨0x1404, 1, AON_DORMANT.fields⟩,
   ⟨0x1201, 1, HK_CTRL.fields⟩,
   ⟨0x1202, 64, HK_SEQ.fields⟩,
   ⟨0x1203, 16, HK_LIMIT.fields⟩,
   ⟨0x1204, 1, HK_STATUS.fields⟩,
   ⟨0x1301, 16, CAL_STRING.fields⟩,
   ⟨0x1302, 8, CAL_PLAN.fields⟩,
   ⟨0x1303, 1, CAL_CTRL.fields⟩,
   ⟨0x1304, 16, CAL_STATUS.fields⟩]

/-- All 116 objects. -/
def all : List ObjDesc := objects0 ++ objects1 ++ objects2 ++ objects3

end Sys2Proof.Obj
end

