-- ==== Sys2Proof/Machine/State.lean ====
section
/-! DEFINITION. The state of the device as plain data, the ways a step can stop, and the state after reset. -/

namespace Sys2Proof.Machine

/-- Ways a step could stop on a fault of the model itself.  No meaning answers with one: the spec gives every row of
its table an effect, and an access to an address that does not exist is answered by the default target (R273). -/
inductive Fault where
  /-- Reserved for an access outside every map; raised by nobody, and safe if it were: the machine stops. -/
  | outsideMap (addr : Nat)
  deriving DecidableEq, Repr

/-- Why a command can be turned away by the model. -/
inductive Refusal where
  /-- The command has no meaning yet; raised by an arm of `exec` alone.  Safe: the model stops where the device goes on. -/
  | notModelled (mnemonic : String)
  deriving DecidableEq, Repr

/-- The operating modes with the codes of R25. -/
inductive Mode where
  | dormant | idle | vigil | watch | image | beam | survey | peer | concentrate | calibrate | test | recovery
  deriving DecidableEq, Repr

/-- The phases of a transition (`MODE_STATE.PHASE`, R30, R35, R40). -/
inductive Phase where
  | steady | check | drain | down | up | start | peerSync | aborting
  deriving DecidableEq, Repr

/-! ### Faults, notices, the outside -/

/-- An active instance of a fault (R446): RAISED while its condition may hold, WAITING after it has ended. -/
structure FaultInst where
  code : Nat
  inst : Nat
  /-- WAITING in the table of R446. -/
  waiting : Bool
  count : Nat
  /-- Detections since the last notice of this instance (R447). -/
  sinceNotice : Nat
  /-- RC64 when it was first raised (R389). -/
  firstRc64 : Nat
  /-- DETAIL words A and B of R448. -/
  detailA : Nat
  detailB : Nat
  deriving DecidableEq, Repr

/-- An entry of the retained fault log or of the log region (R449). -/
structure LogEntry where
  code : Nat
  inst : Nat
  severity : Nat
  event : Nat
  mode : Nat
  flags : Nat
  bootId : Nat
  count : Nat
  time : Nat
  a : Nat
  deriving DecidableEq, Repr

/-- The body of a notice (R401). -/
inductive NoticeBody where
  | fault (code inst severity event count detail : Nat)
  | mode (fromMode aim reason status seq mailbox durationUs : Nat)
  | time (c flags target fire : Nat)
  | restart (kind mask : Nat) (seqs : List Nat)
  | lost (since total : Nat)
  | queue (q newBits lost occupancy : Nat)
  deriving DecidableEq, Repr

/-- A notice: its SEQ, its TS96, its body (R401). -/
structure Notice where
  seq : Nat
  time : Nat
  body : NoticeBody
  deriving DecidableEq, Repr

/-- What the device shows to the outside, newest first: the model's own trace, no state of the spec. -/
inductive Out where
  /-- A posted write to host memory: bus address, byte count, little-endian value. -/
  | hostWrite (addr len value : Nat)
  /-- An MSI-X message. -/
  | msix (vector : Nat)
  /-- A frame out of a network port. -/
  | netFrame (port : Nat) (bytes : Bytes)
  /-- A frame on an Axrel port (its lowest link): the start block, the payload blocks and the EOF block of R307. -/
  | axFrame (port : Nat) (bytes : Bytes)
  /-- A control block on a link, by the type byte of R298, with two arguments; 256 is a capability record. -/
  | axUnit (link kind a b : Nat)
  /-- A level driven on a pin: 0 `TRIGOUT`, 32 `PWRREQ`, 33 `PCIE_WAKE_N`, 34 `STAT`. -/
  | pin (p : Nat) (level : Bool)
  /-- A freeze strobe to Bluebell: group mask and trigger sample (R126). -/
  | freeze (sample : Nat)
  /-- A drive of another output: 1 readaptation of a lane, 2 injected errors, 3 current of a string, 4 its steering, 5 a
  diagnostic pulse, 6 a `STAT` pulse (period class in Hz, width in ms), 7 PME_TO_Ack, 8 the PCI Express link down. -/
  | drive (what which value : Nat)
  /-- A PMBus transaction: address, command, value. -/
  | pmbus (addr command value : Nat)
  /-- Read data answered to a master or a requester: its number of bytes, its value, 0 good, 1 with EP or an error
  response, 2 Unsupported Request. -/
  | readData (who len value status : Nat)
  deriving DecidableEq, Repr

/-- The fault table of Ronec firmware and the two logs (R446 to R449). -/
structure Faults where
  active : List FaultInst
  /-- The retained fault log, oldest first, at most 256 entries. -/
  retained : List LogEntry
  /-- The log region, oldest first, at most 16,384 entries. -/
  region : List LogEntry
  deriving DecidableEq, Repr

/-- A ring set up in BAR0: a completion ring or the notice ring (R355). -/
structure HostRing where
  base : Nat
  sizeLog : Nat
  vector : Nat
  enable : Bool
  consumer : Nat
  head : Nat
  deriving DecidableEq, Repr

/-- Notices on their way to the host (R358, R401): queue 15, the next SEQ, the drops. -/
structure Notices where
  queue : List Notice
  seq : Nat
  droppedSince : Nat
  droppedTotal : Nat
  ring : HostRing
  deriving DecidableEq, Repr

/-! ### Time -/

/-- A waiting operation of `TIM_SET` (R331). -/
structure TimeOp where
  isStep : Bool
  sec : Nat
  nsec : Nat
  stepNs : Int
  atPps : Bool
  /-- `TIM_PPS.COUNT` when it was accepted. -/
  acceptedAt : Nat
  deriving DecidableEq, Repr

/-- The time base (R324 to R334). -/
structure TimeBase where
  /-- RC64, in ticks of 625 ps. -/
  rc64 : Nat
  /-- Civil time at RC64, in 2^-32 ns since the PTP epoch (SEC, NS and FRAC of R328). -/
  civil : Nat
  /-- INC in force, in 2^-32 ns. -/
  inc : Nat
  /-- The INC value that waits, with `TIM_PPS.COUNT` at its acceptance (R330). -/
  incWait : Option (Nat × Nat)
  /-- The operation that waits (R331). -/
  opWait : Option TimeOp
  /-- REF10M edges arrive. -/
  refPresent : Bool
  /-- HOLDOVER was set in Dormant and ends at a capture (R327). -/
  dormantHold : Bool
  /-- The tick of the last valid PPS edge that is held (R334). -/
  lastValid : Option Int
  /-- Consecutive captures within `LOCK_NS` (R332). -/
  lockRun : Nat
  /-- The boot still waits for PPS (R324). -/
  bootWait : Bool
  /-- `PPS_WAIT_MS` as Snowdrop holds it (R324). -/
  ppsWaitHeld : Nat
  /-- The time base is off, in Vigil and Dormant (R333). -/
  off : Bool
  /-- The last PPS edge seen by Snowdrop while the time base is off (R333). -/
  offEdge : Option Nat
  /-- RC64 at the arming of each comparator (R336). -/
  cmpArmed : SMap
  /-- Comparator c has fired since it was armed (R339): 1. -/
  cmpFired : SMap
  /-- The first word in which comparator c's last write is in effect (R340, R349). -/
  cmpFrom : SMap
  deriving DecidableEq, Repr

/-- A received frame in a forwarding buffer, with the `NET_PTP` settings that stood when it was received (R345, R346,
R349): `RX_LAT_PS` and `ASYM_PS` of its ingress port, `TX_LAT_PS`, `TC_EN`, `L2_EN` and `UDP_EN` of its egress port. -/
structure FwdFrame where
  bytes : Bytes
  rxLat : Nat
  asym : Int
  txLat : Nat
  tcEn : Bool
  l2En : Bool
  udpEn : Bool
  deriving DecidableEq, Repr

/-- One network port beyond its status object (R341 to R347). -/
structure NetPortState where
  /-- Failed negotiations in a row (R342). -/
  anFails : Nat
  /-- The frames in the forwarding buffer that leaves by this port, oldest first (R345). -/
  fwd : List FwdFrame
  deriving DecidableEq, Repr

/-- The network stage: both ports and the frame counters of the templates (R343, R344). -/
structure Net where
  ports : List NetPortState
  /-- Frames sent on each template since boot. -/
  frameSeq : SMap
  /-- Records sent on each template since boot. -/
  recordSeq : SMap
  /-- IPv4 identification of each template. -/
  ipId : SMap
  deriving DecidableEq, Repr

/-! ### Modes -/

/-- An accepted request for a mode (R31, R42). -/
structure ModeReq where
  target : Mode
  cluster16 : Bool
  watch : Bool
  /-- The mailbox and SEQ of the `MODE_PLAN` write; `byWrite` false for a change that no write requested (R402). -/
  byWrite : Bool
  /-- REASON of the notice of a change that no write requested: 5, 6 or 7 of R401; 0 for a write. -/
  cause : Nat
  mailbox : Nat
  seq : Nat
  deriving DecidableEq, Repr

/-- The mode machine beyond `MODE_STATE` (R30, R31, R40). -/
structure Modes where
  /-- The request whose transition runs. -/
  running : Option ModeReq
  /-- The request that waits behind it. -/
  waiting : Option ModeReq
  /-- RC64 when the running transition reached CHECK. -/
  startedAt : Nat
  /-- REASON and STATUS of the MODE notice that the running transition will end with. -/
  reason : Nat
  status : Nat
  /-- `PEER_WATCH` and `PEER_GEOM` in force in Peer. -/
  peerWatch : Bool
  cluster16 : Bool
  /-- The source of a transition had its converters running (R30 step 4, R38). -/
  convertersOn : Bool
  /-- Converter calibration has converged (R30 step 4), and RC64 then. -/
  calConverged : Bool
  calAt : Nat
  /-- The spectrum of the block boundary at which the removed functions stop (R36). -/
  stopSpectrum : Nat
  /-- `DRAIN_MS` has run out on a Dormant entry (R37). -/
  drainOver : Bool
  /-- In ABORTING: what comes next on the way back, 1 the stops, 2 DRAIN, 3 DOWN, 4 UP. -/
  abortStep : Nat
  /-- The domains that the test of the running entry to Test requests (R29, R34). -/
  testDoms : List Nat
  deriving DecidableEq, Repr

/-! ### The control pair, the mailboxes, the images -/

/-- The pair's state (status page `PAIR`). -/
inductive PairState where
  | paired | single | resync | restarting | booting
  deriving DecidableEq, Repr

/-- A response (R356): its status, its commit tick, its payload. -/
structure Response where
  status : Nat
  doneRc64 : Nat
  payload : Bytes
  deriving DecidableEq, Repr

/-- An accepted request that has not committed (R356). -/
structure Request where
  opcode : Nat
  irq : Bool
  seq : Nat
  payload : Bytes
  acceptRc64 : Nat
  /-- It has begun to run; the steps of a multi-step command that stand. -/
  started : Bool
  step : Nat
  /-- The repeats attached to it, as (IRQ, acceptance tick), oldest first (R359). -/
  attached : List (Bool × Nat)
  deriving DecidableEq, Repr

/-- An entry of the replay cache (R359): committed with its response, or still running. -/
structure CacheEntry where
  opcode : Nat
  seq : Nat
  acceptRc64 : Nat
  response : Option Response
  deriving DecidableEq, Repr

/-- A completion that waits for a slot of its ring (R358). -/
structure Completion where
  opcode : Nat
  mbox : Nat
  seq : Nat
  replay : Nat
  irq : Bool
  acceptRc64 : Nat
  response : Response
  deriving DecidableEq, Repr

/-- One mailbox (R355 to R359). -/
structure Mailbox where
  /-- `OWNED`: the device owns the request buffer. -/
  owned : Bool
  lastSeq : Nat
  /-- Accepted requests that have not committed, in order of acceptance; the head is the next or the running one. -/
  queue : List Request
  /-- The last 64 accepted SEQs, oldest first. -/
  cache : List CacheEntry
  /-- Completions not yet written, in order of commit. -/
  done : List Completion
  ring : HostRing
  deriving DecidableEq, Repr

/-- An image as Ronec firmware holds it in staging or receives it (R363, R367, R394). -/
structure Image where
  kind : Nat
  bytes : Bytes
  deriving DecidableEq, Repr

/-- An image in reception over Axrel (R367). -/
structure ImageRx where
  link : Nat
  kind : Nat
  total : Nat
  /-- Bytes received from offset 0 on. -/
  got : Bytes
  /-- The chunk at this offset has been requested. -/
  asked : Option Nat
  done : Bool
  deriving DecidableEq, Repr

/-- Where a boot takes its firmware from (R361, R398). -/
inductive BootFrom where
  | straps | staged | slotA | slotB
  deriving DecidableEq, Repr

/-- The control complex (R350 to R368). -/
structure Ctl where
  pair : PairState
  /-- Core B leads. -/
  leadB : Bool
  /-- Promotions, warm restarts, discarded BAR0 writes and refused frames since boot (status page). -/
  failovers : Nat
  warmRestarts : Nat
  hostErrs : Nat
  heartbeat : Nat
  /-- Ronec firmware runs; false while the boot ROM serves, and while the pair is in retention or off. -/
  ronecUp : Bool
  /-- Resynchronizations that failed in a row (R353). -/
  resyncFails : Nat
  /-- RC64 of the warm restarts of the last 60 s (R354). -/
  restartTimes : List Nat
  mailboxes : List Mailbox
  /-- DONE_RC64 of the last commit (R375). -/
  lastDone : Nat
  /-- The staged image (R394). -/
  staged : Option Image
  /-- Links on which the staged image is offered (R396). -/
  serveLinks : Nat
  rx : Option ImageRx
  /-- The latest offer of each link: link, image type, bytes (R367). -/
  offers : List (Nat × Nat × Nat)
  /-- The high word kept per requester (R291). -/
  shadow : SMap
  /-- Firmware source on the status page: 0 slot A, 1 slot B, 2 host, 3 peer. -/
  fwSlot : Nat
  /-- `SECURITY_VERSION` of the running firmware, and the fuse rollback count (R364). -/
  fwSecurity : Nat
  rollback : Nat
  /-- The images in the flash slots: firmware A and B, bundle A and B (R362). -/
  flash : List Bytes
  /-- The boot waits for an image from the host or a peer, without a time limit (R361). -/
  waitsForImage : Bool
  /-- The bundle of this boot has been applied, or none passes (R362). -/
  bundleDone : Bool
  /-- Where the present boot takes its firmware from. -/
  bootFrom : BootFrom
  /-- A boot under BOOT is due (R398). -/
  bootDue : Option BootFrom
  /-- The straps as read at the release of PORN (R10). -/
  chipId : Nat
  bootSrc : Nat
  deriving DecidableEq, Repr

/-! ### Receiver inputs -/

/-- What one frame of an input held (R48, R49, R56). -/
structure FrameSum where
  /-- Sum of squares and number of the samples without CLAMP, OVR, SETTLE or LINE. -/
  sumSq : Nat
  count : Nat
  excluded : Nat
  /-- Peak |x| of the frame. -/
  peak : Nat
  /-- Sum of squares of every sample, and how many carried CLAMP, OVR or SETTLE. -/
  sumAll : Nat
  flagged : Nat
  /-- The range code in force. -/
  range : Nat
  /-- Some sample of the frame carried CLAMP, OVR, SETTLE or LINE (R20). -/
  marked : Bool
  /-- Samples of the frame that the converters delivered: 2,048 in a whole frame. -/
  total : Nat
  deriving DecidableEq, Repr

/-- The probe of one input in its present interval (R52, R53). -/
structure Probe where
  running : Bool
  ampl : Nat
  tia : Nat
  /-- A clamp trip fell in this interval. -/
  clamped : Bool
  /-- Consecutive intervals that met the drift condition, and that were SOURCE-FAULT. -/
  drift : Nat
  source : Nat
  deriving DecidableEq, Repr

/-- One input beyond its objects (R45 to R58). -/
structure AfeInput where
  conducting : Bool
  /-- RC64 of the last release of the clamp. -/
  released : Option Nat
  /-- The range change that is pending, with its deferred frames; `forced` after the 64th. -/
  pending : Option Nat
  deferred : Nat
  forced : Bool
  /-- The frame of the last range change, and the code before it. -/
  changeFrame : Option Nat
  rangeBefore : Nat
  /-- The range held on entry to Vigil (R51). -/
  heldRange : Nat
  /-- The frame boundary at which LINE clears after NORMAL was reached (R57). -/
  lineUntil : Option Nat
  probe : Probe
  /-- The tick up to which LINE marks the samples after a latch-up cycle of the input's domains (R452). -/
  luUntil : Nat
  /-- Clean OK intervals and uncollapsed windows in a row while RECOVERING (R57). -/
  okRun : Nat
  winRun : Nat
  /-- Collapsed windows in a row, and whether the latest window was collapsed (R56). -/
  collapseRun : Nat
  lastCollapsed : Bool
  /-- The powers of the last windows that count for the reference, newest first, at most 1,024. -/
  refWindows : List Nat
  /-- The class of the present fault is known (R58). -/
  classKnown : Bool
  /-- The frame in progress and the last 1,024 frames, newest first. -/
  cur : FrameSum
  frames : List FrameSum
  deriving DecidableEq, Repr

/-- What a sweep has of one input at its present point (R386): the sum of Z_L over the intervals that gave a verdict, as
a fraction, their number, and how many in a row met the drift condition. -/
structure SweepSum where
  input : Nat
  re : Int
  im : Int
  den : Int
  count : Nat
  drift : Nat
  deriving DecidableEq, Repr

/-- A running probe sweep (R386): the present code, the intervals of the point that have ended, the settling one among
them, and the sums of its inputs, ascending. -/
structure Sweep where
  freq : Nat
  ended : Nat
  sums : List SweepSum
  deriving DecidableEq, Repr

/-- The receiver stage: 256 inputs, and the inputs and the point of a running probe sweep (R386). -/
structure Afe where
  inputs : List AfeInput
  /-- The frame that closed last. -/
  lastFrame : Nat
  sweepMask : Nat
  sweep : Option Sweep
  deriving DecidableEq, Repr

/-- A frame with nothing in it. -/
def FrameSum.empty (range : Nat) : FrameSum := ⟨0, 0, 0, 0, 0, 0, range, false, 0⟩

/-- An input at boot. -/
def AfeInput.atBoot : AfeInput :=
  ⟨false, none, none, 0, false, none, 0x10, 0x10, none, ⟨true, 10, 4, false, 0, 0⟩, 0, 0, 0, 0, false, [], false,
   FrameSum.empty 0x10, []⟩

/-! ### Bluebell -/

/-- One ring segment (R67 to R69): the half tick of its cell 0 when it was last written in the present run, the window
that holds it, and which inputs carried CLAMP or LINE while it was written. -/
structure Segment where
  tag : Option Nat
  held : Option Nat
  clampMask : Nat
  lineMask : Nat
  deriving DecidableEq, Repr

/-- A range boundary inside a window (R76): input, segment of the window, code before and after. -/
structure RangeMark where
  input : Nat
  seg : Nat
  before : Nat
  after : Nat
  deriving DecidableEq, Repr

/-- A window from its freeze strobe to the return of its segments (R70 to R80). -/
structure Window where
  id : Nat
  tHt : Nat
  bHt : Nat
  p : Nat
  q : Nat
  /-- The pre-trigger segments are not reserved yet (R73). -/
  prePending : Bool
  pAct : Nat
  /-- Post-trigger segments that are still to be reserved. -/
  post : Nat
  /-- The ring segments it holds, in time order. -/
  segs : List Nat
  frozenAt : Option Nat
  /-- 0 trigger engine, 1 Vigil, 2 calibration, 3 test. -/
  source : Nat
  serial : Nat
  /-- The inputs of a Vigil freeze (R77). -/
  mask : Nat
  /-- Vigil freezes refused between the record before and its own (R139). -/
  refused : Nat
  merges : Nat
  stale : Bool
  uncal : Bool
  holdExpired : Bool
  hold : Nat
  deadline : Nat
  clampMask : Nat
  lineMask : Nat
  ranges : List RangeMark
  /-- Range codes of the inputs at its end where no boundary lies inside it, and Tj in 0.5 °C at the freeze (R146). -/
  range0 : List Nat
  tj : Int
  /-- The event stage has made the reservation, which gives the output credit (R80, R148). -/
  credit : Bool
  converting : Bool
  readOut : Bool
  /-- Raw counts of the converted segments, in order: per segment, per input, 256 counts (R79). -/
  raw : List (List (List Nat))
  saturated : Nat
  deriving DecidableEq, Repr

/-- A freeze strobe on its way to Bluebell: trigger sample, record serial, sources (R126). -/
structure Strobe where
  sample : Nat
  serial : Nat
  src : Nat
  deriving DecidableEq, Repr

/-- The capture wake set of Vigil (R89). -/
inductive WakeSet where
  | down | requested | up
  deriving DecidableEq, Repr

/-- Bluebell and the deferred digitizer (R67 to R91). -/
structure Bluebell where
  /-- The ring write clock runs. -/
  writing : Bool
  segs : List Segment
  cur : Nat
  windows : List Window
  /-- Windows whose ring segments have returned while queue 5 still holds segments of theirs (R80). -/
  leaving : List Window
  nextId : Nat
  /-- RC64 at which each input's one-shot ends (R77). -/
  oneShot : SMap
  digOn : Bool
  wake : WakeSet
  /-- Snowdrop's last reading of Tj, in 0.5 °C (R86). -/
  tj : Int
  /-- The calibration entries of the cells, by input × 16,384 + cell, each by its difference from the boot entry
  PED = 2,048, GAIN = 0, DT = 0 (R83, R84). -/
  table : SMap
  /-- CLAMP and LINE of the inputs in the segment interval in progress. -/
  curClamp : Nat
  curLine : Nat
  deriving DecidableEq, Repr

/-! ### Converters, channelizer, trigger engine -/

/-- The corrections of one sub-converter, each in 1/4,096 of the most that one update may move it (R95): offset in
2^-18 LSB, gain in 2^-24, sampling instant in 10 fs ÷ 4,096. -/
structure SubCorrection where
  offset : Int
  gain : Int
  skew : Int
  deriving DecidableEq, Repr

/-- A running converter capture (R388). -/
structure Capture where
  input : Nat
  words : Nat
  startRc64 : Nat
  firstWord : Option Nat
  taken : Nat
  deriving DecidableEq, Repr

/-- What background calibration has gathered of one sub-converter over samples that carry no flag (R95): their number,
sum and sum of squares, and, with `SKEW`, the number and the sum of the products with the sample before. -/
structure SubSum where
  n : Nat
  sum : Int
  sq : Nat
  pairs : Nat
  prod : Int
  deriving DecidableEq, Repr

/-- A sub-converter with nothing gathered. -/
def SubSum.zero : SubSum := ⟨0, 0, 0, 0, 0⟩

/-- The continuous converters (R92 to R96). -/
structure Converters where
  /-- Samples of every input, newest first, at most 16,384, and the index after the newest. -/
  hist : List (List Int)
  histEnd : Nat
  /-- Corrections in use, waiting for the frame boundary, and stored: input × 8 + sub-converter. -/
  corr : List SubCorrection
  corrNext : Option (List SubCorrection)
  stored : List SubCorrection
  /-- Gathered in this block, and in the last whole block: input × 8 + sub-converter (R95). -/
  gather : List SubSum
  measured : List SubSum
  /-- Inputs whose newest sample carries no flag; inputs of which the last block gives no estimate. -/
  clean : Nat
  noEstimate : Nat
  /-- Blocks since the last update of the corrections. -/
  blocks : Nat
  /-- Samples with OVR, samples with any flag and samples, per input, in this block. -/
  ovr : SMap
  flagged : SMap
  samples : SMap
  /-- Blocks in a row with an image estimate above −54 dBc, and below −57 dBc (R111). -/
  spurRun : SMap
  cleanRun : SMap
  capture : Option Capture
  deriving DecidableEq, Repr

/-- One completed spectrum (R98 to R109): its index n, validity bits per path, E4 bytes and E8 pairs per input and
frequency channel. -/
structure Spectrum where
  n : Nat
  valid4 : Nat
  valid8 : Nat
  e4 : List (List Nat)
  e8 : List (List Nat)
  deriving DecidableEq, Repr

/-- A waiting change of `CHZ_EQ` (R105): its boundary, the tick at which its command committed, and its entries
(input × 1,024 + channel, value). -/
structure EqChange where
  atSequence : Bool
  since : Nat
  entries : List (Nat × Nat)
  deriving DecidableEq, Repr

/-- A corner-turn buffer (R109): the number of the group's first spectrum, buffer A (0) or B (1), and the spectra
written, as slot and validity; the values are in the field store (R162). -/
structure CornerBuffer where
  first : Nat
  half : Nat
  slots : List (Nat × Nat)
  deriving DecidableEq, Repr

/-- The channelizer (R98 to R109). -/
structure Channelizer where
  running : Bool
  /-- The block boundary at which it stops: no spectrum from there on is formed (R36). -/
  stopAt : Option Nat
  /-- The next spectrum to complete. -/
  nextN : Nat
  /-- Active gains, input × 1,024 + channel, each by its difference from the default 0x1C00. -/
  eq : SMap
  eqWaiting : List EqChange
  /-- Writes of the masks that have not taken effect in both paths: commit tick, `DAH_MASK`, `SUN_MASK`, oldest
  first. -/
  maskWrites : List (Nat × Nat × Nat)
  /-- Entries with an uncorrectable error: 1. -/
  eqBad : SMap
  /-- Completed spectra that wait for credit, oldest first (R108). -/
  wait4 : List Spectrum
  wait8 : List Spectrum
  /-- The corner-turn buffer in filling, and those that Dahlia holds. -/
  filling : Option CornerBuffer
  full : List CornerBuffer
  /-- Counts of the block in progress. -/
  clip4 : SMap
  clip8 : SMap
  invFlag : SMap
  invCal : SMap
  invEq : SMap
  invDl4 : SMap
  invDl8 : SMap
  deriving DecidableEq, Repr

/-- A condition known to level 2 and not yet judged (R122, R124). -/
structure Condition where
  n : Nat
  source : Nat
  originTime : Nat
  originChip : Nat
  originSerial : Nat
  clamped : Bool
  /-- For GROUP: GROUP_MASK, BEST and its power (R123). -/
  groupMask : Nat
  best : Nat
  bestPower : Nat
  deriving DecidableEq, Repr

/-- A trigger record (R132). -/
structure TrigRecord where
  serial : Nat
  src : Nat
  mergedSrc : Nat
  merges : Nat
  tSample : Nat
  time : Nat
  groupMask : Nat
  best : Nat
  bestPower : Nat
  refusedSince : Nat
  window : Nat
  flags : Nat
  originTime : Nat
  originChip : Nat
  originSerial : Nat
  /-- The sample at which its hold-off ends (R124). -/
  holdEnd : Nat
  deriving DecidableEq, Repr

/-- A trigger beam (R120): armed, and the first sample it may evaluate from. -/
structure TrigBeam where
  armed : Bool
  since : Nat
  /-- Sum of the powers, how many, and the fires of the block in progress. -/
  sum : Nat
  count : Nat
  fires : Nat
  deriving DecidableEq, Repr

/-- The latest fire of a group (R121, R123). -/
structure GroupFire where
  n : Nat
  beam : Nat
  power : Nat
  deriving DecidableEq, Repr

/-- The trigger engine (R117 to R135). -/
structure Trigger where
  running : Bool
  /-- The first sample of the reduced samples held without a gap. -/
  since : Nat
  /-- The tick at which the bucket was last brought up to date, and its part of the next token in 1/16,000,000 (R127). -/
  tokenAt : Nat
  tokenPart : Nat
  /-- Reduced samples t of every input, newest first. -/
  hist : List (List Int)
  beams : List TrigBeam
  fires : List (Option GroupFire)
  /-- C(n − 1) of the last reference sample (R122). -/
  lastC : Nat
  /-- Conditions known and not yet judged. -/
  known : List Condition
  /-- Records accepted that have not left the engine, oldest first; then the queue toward the event stage. -/
  records : List TrigRecord
  queue : List TrigRecord
  strobes : List Strobe
  refusedSince : Nat
  prescale : SMap
  /-- TRIGOUT is active, and the tick at which its width ends. -/
  outActive : Bool
  outEnd : Nat
  /-- Table entries with an uncorrectable error: groups 0–15, beams 16 + (32g + b): 1. -/
  bad : SMap
  /-- Readings of the last second, and seconds in a row above 10 % and below 1 % dead (R136). -/
  lastLive : Nat
  lastDead : Nat
  busyRun : Nat
  quietRun : Nat
  /-- The judgement of the last SOFTWARE condition: outcome, serial, sample (R384). -/
  soft : List (Nat × Nat × Nat)
  /-- Level of TRIGIN. -/
  inLevel : Bool
  deriving DecidableEq, Repr


/-! ### Axrel -/

/-- A message of Axrel with its type, its virtual channel and its bytes (R308). -/
structure AxMessage where
  ty : Nat
  vc : Nat
  bytes : Bytes
  deriving DecidableEq, Repr

/-- A frame of the sender (R307, R310): `resent` counts its retransmissions. -/
structure AxFrame where
  seq : Nat
  ty : Nat
  vc : Nat
  first : Bool
  last : Bool
  express : Bool
  bytes : Bytes
  resent : Nat
  deriving DecidableEq, Repr

/-- One link beyond `AXL_LINK_STATUS` (R302 to R305, R315, R321). -/
structure AxLink where
  /-- RC64 at the entry of the present state. -/
  since : Nat
  fails : Nat
  /-- A training step has overrun and `RETRAIN_10MS` × 10 ms run. -/
  waits : Bool
  /-- CLOCK was entered from SLEEP. -/
  fromSleep : Bool
  /-- The partner's capability record. -/
  partner : Option Bytes
  /-- Left out of its port (R300, R304, R305). -/
  excluded : Bool
  /-- BIP-8 mismatches of lanes 0 and 1 in this second; clean AM intervals in a row. -/
  bip : List Nat
  clean : List Nat
  /-- RC64 at which the PRBS checker of each lane locked. -/
  prbsAt : List Nat
  /-- `MAX_RATE`, `RETRY_WINDOW` and `LPI_IDLE_US` of `AXL_CFG` as they stood when the last training began (R323). -/
  maxRate : Nat
  retry : Nat
  lpiUs : Nat
  deriving DecidableEq, Repr

/-- One port, under its lowest link, beyond `AXL_PORT_STATUS` (R299, R310 to R319). -/
structure AxPort where
  /-- Next SEQ to send; frames sent and not acknowledged, oldest first; frames not yet sent, oldest first. -/
  txSeq : Nat
  unacked : List AxFrame
  ready : List AxFrame
  /-- The VC of 1 to 3 served last. -/
  turn : Nat
  window : Nat
  /-- Credit units left, and the partner's running total last seen, per VC. -/
  credit : List Nat
  creditSeen : List Nat
  /-- Expected SEQ and the SEQs marked delivered. -/
  expect : Nat
  marked : List Nat
  /-- Frames accepted since the last ACK. -/
  accepted : Nat
  /-- The expected SEQ and RC64 of the last NAK. -/
  nak : Option (Nat × Nat)
  /-- Partly received message per VC. -/
  part : List Bytes
  /-- Running total of returned units per VC, and as the last CREDIT block carried it. -/
  returned : List Nat
  creditSent : List Nat
  /-- Received messages in the receive buffer, behind those in queue 10. -/
  buffer : List AxMessage
  queue10 : List AxMessage
  /-- MAP_ID of the last map applied by the transmitter, of the last MAPREQ, and the map that it asks for. -/
  mapIdTx : Option Nat
  mapIdRx : Nat
  want : Option Nat
  /-- The send direction is in LPI, and RC64 of its last activity. -/
  lpi : Bool
  lastBusy : Nat
  /-- `FRAMES` and `RETRANSMITTED` at the last second, and seconds in a row below 0.1 % (R322). -/
  lastFrames : Nat
  lastResent : Nat
  calm : Nat
  deriving DecidableEq, Repr

/-- The links and ports of Axrel. -/
structure Axrel where
  links : List AxLink
  ports : List AxPort
  deriving DecidableEq, Repr

/-- A link at boot. -/
def AxLink.atBoot : AxLink := ⟨0, 0, false, false, none, false, [0, 0], [0, 0], [0, 0], 3, 128, 100⟩

/-- A port at boot, or after it went down. -/
def AxPort.atBoot : AxPort :=
  { txSeq := 0, unacked := [], ready := [], turn := 3, window := 128, credit := [0, 0, 0, 0],
    creditSeen := [0, 0, 0, 0], expect := 0, marked := [], accepted := 0, nak := none, part := [[], [], [], []],
    returned := [0, 0, 0, 0], creditSent := [0, 0, 0, 0], buffer := [], queue10 := [], mapIdTx := none, mapIdRx := 0, want := none, lpi := false,
    lastBusy := 0, lastFrames := 0, lastResent := 0, calm := 0 }

/-! ### Data movement -/

/-- Where a record comes from, as far as its end matters there. -/
inductive DmaSource where
  /-- A fragment, by its serial: its last write releases it (R287). -/
  | fragment (serial : Nat)
  /-- A record of Dahlia, Sunflower or the concentrator, or of a command. -/
  | plain
  deriving DecidableEq, Repr

/-- A record on its way to a ring or a network port. -/
structure DmaRecord where
  src : DmaSource
  bytes : Bytes
  poison : Bool
  /-- The kind of ring that it needs: 1 D2H, 3 NET (R283). -/
  kind : Nat
  deriving DecidableEq, Repr

/-- The host's half of a descriptor (R284). -/
structure Descriptor where
  addr : Nat
  len : Nat
  irq : Bool
  deriving DecidableEq, Repr

/-- The buffer in filling of a D2H ring (R286). -/
structure DmaBuf where
  used : Nat
  records : Nat
  first : Bool
  last : Bool
  poison : Bool
  /-- RC64 of its first byte; `COALESCE_US` have passed since. -/
  openedAt : Nat
  timeUp : Bool
  deriving DecidableEq, Repr

/-- One DMA ring beyond `MOV_RING` and `MOV_RING_STATUS` (R283 to R289). -/
structure DmaRing where
  /-- Fetched descriptors, from HEAD on. -/
  descs : List Descriptor
  buf : Option DmaBuf
  /-- Records bound for the ring, oldest first, and the bytes of the oldest that are written. -/
  queue : List DmaRecord
  part : Option Nat
  /-- `KIND` = 0 has been written and the record in progress is not whole yet (R293). -/
  stopping : Bool
  deriving DecidableEq, Repr

/-- The bus matrix, the queues and the rings. -/
structure Movement where
  rings : List DmaRing
  /-- Slots in use of each credit queue (R280). -/
  used : SMap
  /-- Blocks whose clock is stopped, by block id (R14). -/
  gated : Nat
  /-- Marks of poisoned slots that wait for their consumer (R281): inputs of the next converter word on queues 0 and
  1, inputs of the next spectrum on queue 3, the next coded block on queues 4 to 7. -/
  badWord : Nat
  badSpectrum : Nat
  badBlock : Bool
  /-- The next write to the field store from queues 2, 12 or 14 carries the poison attribute. -/
  badWrite : Bool
  /-- Packets abandoned at the end of `DRAIN_MS` of each credit queue of R280; 16 is the network forwarding buffers
  (R37). -/
  lost : SMap
  deriving DecidableEq, Repr

/-- A ring at boot. -/
def DmaRing.atBoot : DmaRing := ⟨[], none, [], none, false⟩

/-! ### Event fragments and the fixed-ratio coder -/

/-- The states of a fragment (R150). -/
inductive FragState where
  | building | pending | transfer | offered | released
  deriving DecidableEq, Repr

/-- Where a fragment goes, fixed when it enters PENDING (R152): `EVT_SHIP.MODE`, `RING`, `PORT`, `CONC_CHIP`. -/
structure Ship where
  mode : Nat
  ring : Nat
  port : Nat
  chip : Nat
  deriving DecidableEq, Repr

/-- One cell of one input as the digitizer delivers it (R82): corrected sample, bad cell, saturated cell, DT. -/
structure CellSample where
  v : Int
  bad : Bool
  sat : Bool
  dt : Int
  deriving DecidableEq, Repr

/-- A fragment from its reservation to the return of its space (R138 to R152). -/
structure Fragment where
  serial : Nat
  record : TrigRecord
  windowId : Nat
  state : FragState
  /-- Offset and bytes of its place in the event-pending region. -/
  off : Nat
  size : Nat
  /-- `EVT_CTRL`, `EVT_ZS` per input (THRESH, FORCE, EXCLUDE packed as in its map) and `CMP_FR.PRED_EN` in force. -/
  code : Nat
  keepGroup : Nat
  zs : Bool
  minSnr : Nat
  zsInput : List Nat
  predEn : Nat
  /-- Per segment taken from the digitizer and per input its 256 cells, before interpolation. -/
  cells : List (List (List CellSample))
  /-- Coded blocks, as (input × 64 + block, bytes, void), and how many are still to be coded. -/
  blocks : List (Nat × Bytes × Bool)
  toCode : Nat
  /-- The window has been read out whole; its marks. -/
  window : Option Window
  /-- The whole fragment once it is complete. -/
  bytes : Bytes
  ship : Ship
  /-- Offers made without a reply; a REJECT waits for the end of the transfer (R151). -/
  offers : Nat
  rejected : Bool
  deriving DecidableEq, Repr

/-- A block that waits for the coder: serial, input, block number in the window. -/
structure CoderJob where
  serial : Nat
  input : Nat
  block : Nat
  deriving DecidableEq, Repr

/-- The event stage (R138 to R155). -/
structure EventStage where
  /-- The local trigger serial counter, in Snowdrop (R139). -/
  serial : Nat
  /-- Fragments that hold space, oldest first, and the head of the ring. -/
  frags : List Fragment
  head : Nat
  /-- Fragments overwritten since the previous fragment was built (R146). -/
  lostBefore : Nat
  /-- Vigil freezes refused since the last record, saturating (R139). -/
  vigilRefused : Nat
  /-- The occupancy was above `HIGH_WM`. -/
  high : Bool
  /-- Blocks of the segments taken that wait for queue 6 or for a later segment (R82, R138). -/
  feed : List CoderJob
  /-- REQUESTs in mode 2, refused as protocol errors since boot (R151: no object shows the count). -/
  badRequests : Nat
  deriving DecidableEq, Repr

/-- A job of an engine (R261 to R266): 0 DEFLATE, 1 inflate, 2 fixed-mode decoding. -/
structure CompressJob where
  engine : Nat
  /-- The mailbox of its command. -/
  owner : Nat
  /-- The D2H ring of its output; the header of a coded log record, none for COMPRESS and DECOMPRESS (R391). -/
  ring : Nat
  header : Bytes
  /-- LEVEL, 0 for `CMP_DEFL.LEVEL`, and WRAP, 2 for `CMP_DEFL.ZLIB`, until it starts. -/
  level : Nat
  wrap : Nat
  /-- CODE of fixed mode (R256). -/
  code : Nat
  input : Bytes
  limit : Nat
  /-- `CMP_INFL.RATIO_MAX` and `OUT_MAX_KIB` when it started. -/
  ratioMax : Nat
  outMax : Nat
  deriving DecidableEq, Repr

/-- The compression engines (R254 to R270). -/
structure Compression where
  coder : List CoderJob
  /-- `VERIFY_TEST` fails the next block. -/
  failNext : Bool
  /-- Verify failures of this second, RC64 of the last one. -/
  fails : Nat
  failSecond : Nat
  lastFail : Nat
  /-- The queued jobs of the engines, oldest first, and the running ones. -/
  queues : List (List CompressJob)
  running : List (Option CompressJob)
  deriving DecidableEq, Repr

/-! ### Dahlia -/

/-- An integration sequence with the configuration that it started with (R165, R166, R184). -/
structure DahSeq where
  /-- Counts the sequences that Dahlia has taken since boot. -/
  id : Nat
  /-- The number of the spectrum SPX_s, not reduced modulo 2³². -/
  start : Nat
  blocks : Nat
  spread : Nat
  dest : Nat
  ring : Nat
  port : Nat
  chunk : Nat
  calbin : Bool
  calString : Nat
  kFirst : Nat
  /-- Local frequency channels; slices are twice as many in cal-binned accumulation. -/
  kCount : Nat
  /-- 0 Solo, 1 Quad, 2 Cluster-16. -/
  geom : Nat
  deriving DecidableEq, Repr

/-- What the accumulators of a pack hold: integration e of a sequence, by its `id`. -/
structure PackHold where
  seq : Nat
  e : Nat
  deriving DecidableEq, Repr

/-- A dump record on its way out (R179 to R181): header, payload and trailer, the place of its payload in the host
image, the bytes from one slice to the next there, the base of the image, where it goes. -/
structure DumpRecord where
  header : Bytes
  payload : Bytes
  trailer : Bytes
  place : Nat
  stride : Nat
  base : Nat
  dest : Nat
  ring : Nat
  port : Nat
  poison : Bool
  deriving DecidableEq, Repr

/-- Dahlia (R156 to R184). -/
structure DahliaState where
  /-- Dahlia has started at the block boundary of R38. -/
  started : Bool
  /-- The start of the next group that it expects: its first spectrum, not reduced modulo 2³². -/
  expect : Nat
  /-- The sequence that runs, last, and before it those that some pack has not left (R167), oldest first. -/
  seqs : List DahSeq
  /-- The `id` of the next sequence. -/
  nextId : Nat
  /-- A start that waits for its boundary. -/
  next : Option DahSeq
  /-- The boundary of a stop, and the closing pass in progress. -/
  stopAt : Option Nat
  closing : Bool
  packs : List (Option PackHold)
  /-- The geometry whose pack table the selectors of the lanes are loaded from (R156): 0 Solo, 1 Quad, 2 Cluster-16. -/
  packTable : Nat
  /-- The operand register of the tiles as last broadcast: the byte of every input of the geometry (R156, R158). -/
  operands : List Nat
  /-- Accumulators under slice × N_prod + b, real part in the low 32 bits; `FieldStore.bad` marks the damaged ones. -/
  acc : SMap
  /-- Weights under bin × N_prod + b, bin 1 for OFF. -/
  wts : SMap
  /-- Zeroed operands under pack × 1,024 + local channel. -/
  opErr : SMap
  /-- The dump queue (queue 8), and records formed that wait for it. -/
  dumps : List DumpRecord
  toQueue : List DumpRecord
  /-- Blocks discarded and groups missing, by first spectrum; masks with the spectrum at which each took effect, and the
  spectra of the equalization changes, newest first; none is reduced modulo 2³². -/
  discards : List Nat
  missing : List Nat
  masks : List (Nat × Nat)
  eqAt : List Nat
  /-- The first spectrum of the block whose groups are released uncorrelated. -/
  dropBlock : Option Nat
  /-- `EMPTY` records, and 1 + the base of the host image, of integration e of a sequence under `id` × 2³² + e. -/
  empties : SMap
  bases : SMap
  /-- A wait over 10 µs has happened in this integration. -/
  waited : Bool
  deriving DecidableEq, Repr

/-- Dahlia at boot. -/
def DahliaState.atBoot : DahliaState :=
  { started := false, expect := 0, seqs := [], nextId := 0, next := none, stopAt := none, closing := false, packs := [],
    packTable := 0, operands := [], acc := [], wts := [], opErr := [], dumps := [], toQueue := [], discards := [],
    missing := [], masks := [], eqAt := [], dropBlock := none, empties := [], bases := [], waited := false }

/-! ### Field store -/

/-- The field store beyond its objects (R233 to R253). -/
structure FieldStore where
  /-- Words that read POISONED (1) or UNCORRECTABLE (2), by word address ÷ 8. -/
  bad : SMap
  /-- Banks whose RETFAIL comparator has latched in retention. -/
  retfail : Nat
  /-- Entries of the correctable-error log in use, oldest first; entries written back since their last correction. -/
  ceOrder : List Nat
  writtenBack : SMap
  /-- Entries of `FST_REPAIR`. -/
  repairs : Nat
  /-- RC64 at the start of the scrub pass and its `PERIOD_S`; the pass has been reported late. -/
  passStart : Nat
  passPeriod : Nat
  deriving DecidableEq, Repr

/-! ### Sunflower -/

/-- A context set (R217, R224): its reference spectrum and DELAY + 2²⁴ × RATE under beam × 256 + input. -/
structure SunSet where
  ref : Nat
  ctx : SMap
  deriving DecidableEq, Repr

/-- Sunflower (R216 to R232). -/
structure SunflowerState where
  running : Bool
  /-- The block boundary at which it stops: the last frame ends there (R36). -/
  stopAt : Option Nat
  /-- The next group to form: its first spectrum, not reduced modulo 2³². -/
  group : Nat
  /-- Spectra received that no group has taken. -/
  input : List Spectrum
  active : SunSet
  pendingSet : SunSet
  /-- Gains in force, input × 1,024 + channel, each by its difference from 64 + 0j. -/
  gains : SMap
  /-- Gain commands that are held, oldest first: commit tick and entries. -/
  held : List (Nat × List (Nat × Nat))
  /-- Block boundaries whose changes the groups have not reached: the spectrum, and the objects as they stood at it, oldest
  first (R226, R232). -/
  due : List (Nat × SMap)
  /-- Sunflower-path masks with the spectrum at which each took effect, newest first; spectra of the changes of `CHZ_EQ`
  and of the mask that no group has reached. -/
  masks : List (Nat × Nat)
  eqAt : List Nat
  maskAt : List Nat
  /-- The first spectrum of the switch group of a comparator or of NOW, not reduced. -/
  switchAt : Option Nat
  /-- Marks for the next frames of every beam. -/
  switched : Bool
  /-- The active set has reached e = 2³¹ (R227). -/
  aged : Bool
  gainChanged : Bool
  /-- Entries that are uncorrectable in the home copy: gains, then 262,144 + context. -/
  homeBad : SMap
  /-- Frames of each beam since Sunflower started; frames overwritten since the last one was queued. -/
  seq : SMap
  lostBefore : Nat
  /-- The beam output queue, oldest first. -/
  queue : List Bytes
  deriving DecidableEq, Repr

/-! ### Peer correlation and concentration -/

/-- A group buffer in the corner-turn region (R199): first GSPX, which of the four buffers, and what was placed there, as
slot, member, VALID; the values are in the field store. -/
structure PeerBuffer where
  g0 : Nat
  place : Nat
  got : List (Nat × Nat × Nat)
  deriving DecidableEq, Repr

/-- A peer packet that waits for its port (R200): destination member, wide port, GSPX, bytes, whether it is this member's
own or forwarded (R191). -/
structure PeerSend where
  dst : Nat
  port : Nat
  gspx : Nat
  bytes : Bytes
  own : Bool
  deriving DecidableEq, Repr

/-- A READY that the leader holds: member, GEOM, K_FIRST, FRAME_OK. -/
structure ReadyHeld where
  member : Nat
  geom : Nat
  kFirst : Nat
  frameOk : Bool
  deriving DecidableEq, Repr

/-- The peer stage (R185 to R203). -/
structure PeerState where
  /-- Spectra of the local channelizer that the stage has not taken, oldest first (queue 2 in Peer, R200). -/
  input : List Spectrum
  readies : List ReadyHeld
  /-- GO as received: TAI second of the edge, first block. -/
  goSec : Nat
  goGspx : Nat
  /-- The edge has been captured and Δ computed. -/
  aligned : Bool
  /-- The stop boundary, and STOP of the leader that this member did not request. -/
  stopAt : Option Nat
  byLeader : Bool
  buffers : List PeerBuffer
  /-- First GSPX of the group whose buffer closes next. -/
  nextClose : Nat
  /-- Closed buffers that wait for Dahlia. -/
  full : List PeerBuffer
  sends : List PeerSend
  /-- GSPX of the last packet of each member. -/
  heard : SMap
  /-- 1 + the boundary from which a member that left is absent, by member. -/
  left : SMap
  /-- Newcomers that have sent READY while this member runs, and 1 + the block from which the data of each is accepted
  (R196), by member. -/
  newcomers : Nat
  rejoin : SMap
  /-- Wide ports whose next packet, of two kinds that wait, is this member's own (R191). -/
  turns : Nat
  /-- 1 + the first GSPX from which a wide port that went down counts as down (R203). -/
  downAt : SMap
  deriving DecidableEq, Repr

/-- One device's part in an event context (R204 to R209). -/
structure Contribution where
  chip : Nat
  serial : Nat
  time : Nat
  nKept : Nat
  /-- The full fragment once it is there; an announcement has none. -/
  bytes : Option Bytes
  link : Nat
  missing : Bool
  deriving DecidableEq, Repr

/-- The phases of an event (R206, R208, R210). -/
inductive ContextPhase where
  | building | fetching | interfering
  /-- Decided and whole: it waits for a slot of queue 11. -/
  | ready
  deriving DecidableEq, Repr

/-- An event context (R204). -/
structure EventContext where
  phase : ContextPhase
  timeFirst : Nat
  openedAt : Nat
  untimed : Bool
  parts : List Contribution
  gid : Nat
  expected : Nat
  incomplete : Bool
  lateJoined : Bool
  l3 : Nat
  spanPs : Nat
  /-- Objects 0x0804 to 0x0807 as they stood when it opened (R215). -/
  cfg : SMap
  deriving DecidableEq, Repr

/-- A remembered closed event (R209). -/
structure ClosedEvent where
  timeFirst : Nat
  joinNs : Nat
  untimed : Bool
  accepted : Bool
  /-- Its global event id, 0 where it was rejected. -/
  gid : Nat
  /-- The devices that have contributed. -/
  devices : Nat
  deriving DecidableEq, Repr

/-- A built event that waits for output, with its destination (R213, R215): `DEST`, `RING`, `PORT`. -/
structure BuiltEvent where
  bytes : Bytes
  dest : Nat
  ring : Nat
  port : Nat
  poison : Bool
  deriving DecidableEq, Repr

/-- The concentrator (R204 to R213). -/
structure Concentrator where
  opened : List EventContext
  closed : List ClosedEvent
  count : Nat
  /-- The ids of the events that are ready, in the order in which they became so. -/
  ready : List Nat
  /-- Built events that wait for output (queue 11). -/
  out : List BuiltEvent
  deriving DecidableEq, Repr

/-! ### Power, the always-on domain -/

/-- What a paced request does when its last segment has been granted (R411). -/
inductive PacedEnd where
  /-- A power-up: the domain is WAKING until its power-good. -/
  | wakes
  /-- A power-down to a state of `PWR_DOMAIN.STATE`. -/
  | falls (state : Nat)
  /-- A change between LOW and ON of a receiver domain. -/
  | bias (state : Nat)
  /-- A ballast step: the domain is parked (R412). -/
  | parks
  /-- The clock fraction of a domain rises to the whole clock (R412). -/
  | clocks
  /-- An operating-point change (R417). -/
  | point
  deriving DecidableEq, Repr

/-- A paced request of the governor (R410, R413): its class, its domain, its direction, the mA that wait. -/
structure Paced where
  cls : Nat
  dom : Nat
  up : Bool
  left : Nat
  result : PacedEnd
  deriving DecidableEq, Repr

/-- A sleep request that has no ACK yet (R408, R409). -/
structure SleepReq where
  dom : Nat
  /-- The state it names: 0 OFF, 4 RETAIN, 5 LOW. -/
  target : Nat
  cls : Nat
  /-- A DEFER has been answered; the request was withdrawn after a REFUSE. -/
  deferred : Bool
  refused : Bool
  deriving DecidableEq, Repr

/-- An operating-point change in progress (R417): the new point, and whether its step has been granted. -/
structure PointChange where
  aim : Nat
  granted : Bool
  deriving DecidableEq, Repr

/-- The power controller and the governor (R404 to R418). -/
structure Power where
  /-- The state of each domain, by its difference from its state in Idle after a boot (`idleDomain`). -/
  doms : SMap
  /-- Paced requests, oldest first, and sleep requests. -/
  queue : List Paced
  sleeps : List SleepReq
  /-- Power-ups that wait for a power-down to end (R39), as (domain, class). -/
  pendingUp : List (Nat × Nat)
  /-- C in 1/16,000 mA, and the tick of that value (R410). -/
  credit : Int
  creditAt : Nat
  /-- Estimated device current in mA (R411). -/
  est : Int
  /-- Latch-up cycles of the last 60 s as (domain, RC64); domains that a third one leaves OFF (R452). -/
  cycles : List (Nat × Nat)
  barred : List Nat
  /-- Domains cut by a latch-up monitor and not restored since (R414, R452). -/
  cut : List Nat
  /-- Banks that wake from RETAIN and have not passed their check. -/
  fromRetain : List Nat
  point : Option PointChange
  /-- Errors in a row of each regulator; regulators whose last STATUS_WORD held a fault bit: 1 (R418). -/
  nacks : SMap
  faulty : SMap
  deriving DecidableEq, Repr

/-- The phases of Snowdrop around Dormant (R420 to R423). -/
inductive AonPhase where
  /-- Not in Dormant. -/
  | awake
  /-- Past the point of no return: waiting for PME_Turn_Off; powering down; `PWRREQ` low. -/
  | waitPme | fallingDown | asleep
  /-- A wake held during the entry waits for `MIN_OFF_MS`; `PWRREQ` is high and the rails rise; the pair is resumed. -/
  | minOff | rails | resuming
  deriving DecidableEq, Repr

/-- Snowdrop's own state (R365, R419 to R424, R449). -/
structure AlwaysOn where
  phase : AonPhase
  /-- The registered entry to Dormant or Vigil: RC64 of its CHECK, until its point of no return (R422). -/
  entryAt : Option Nat
  /-- Sources latched after the point of no return of a Dormant entry, held until it completes. -/
  held : Nat
  /-- `PWRREQ` and `PCIE_WAKE_N` as driven: request for rails, wake driven low. -/
  pwrReq : Bool
  pcieWake : Bool
  bootId : Nat
  bootFails : Nat
  /-- The fallback oscillator was used in Dormant. -/
  holdoverUsed : Bool
  /-- `VDD_AON` draws too much: `STAT` stays at the FATAL width (R453). -/
  overcurrent : Bool
  /-- The state of the PCI Express link (R29): 0 is L0 or L1, as the host has it, 1 L1, 2 L2. -/
  pcieLink : Nat
  /-- Levels of `PORN` (asserted) as filtered. -/
  inReset : Bool
  deriving DecidableEq, Repr

/-! ### Housekeeping, STAT, injectors -/

/-- A run of the housekeeping sequencer (R428, R429). -/
structure HkRun where
  startEntry : Nat
  entry : Nat
  rep : Nat
  /-- A conversion is in progress, else the delay of the last one runs, or the next one waits for the ADC. -/
  converting : Bool
  due : Bool
  deriving DecidableEq, Repr

/-- Housekeeping and the STAT pin (R427 to R433). -/
structure Housekeeping where
  run : Option HkRun
  /-- A start that takes effect when the conversion in progress ends, and a stop. -/
  startNext : Option Nat
  stopNext : Bool
  /-- RC64 at which the first conversion of this repetition began. -/
  convAt : Nat
  /-- Results outside the limits in a row, by entry. -/
  outside : SMap
  /-- The result ring and Snowdrop's buffer, oldest first. -/
  ring : List Bytes
  buffer : List Bytes
  /-- STAT is held low as halted, and HEARTBEAT at that instant. -/
  statHalted : Bool
  statBeat : Nat
  deriving DecidableEq, Repr

/-- The phases of an injector string (R437). -/
inductive CalPhase where
  | idle | check | ready | running | stopping
  deriving DecidableEq, Repr

/-- One injector string beyond `CAL_STATUS` (R434 to R441). -/
structure CalString where
  phase : CalPhase
  /-- A fault stopped it: it needs ENABLE cleared and set. -/
  stuck : Bool
  cleared : Bool
  /-- Class and number of failed judgements in a row: 1 OPEN, 2 VCAL_LOW. -/
  failClass : Nat
  failRun : Nat
  lastJudged : Nat
  deriving DecidableEq, Repr

/-- A check or diagnostic pulse: string, first tick, tick after the last. -/
structure CalPulse where
  string : Nat
  /-- A check pulse, during which every other string is steered to bypass (R437), else a diagnostic pulse (R438). -/
  check : Bool
  start : Nat
  stop : Nat
  deriving DecidableEq, Repr

/-- The injectors. -/
structure Injectors where
  strings : List CalString
  pulses : List CalPulse
  /-- Strings reported ON per frame, newest first, and the number of the newest frame (R436). -/
  onMasks : List Nat
  frame : Nat
  deriving DecidableEq, Repr

/-! ### The state -/

/-- The state of the device. -/
structure State where
  /-- Every field of every configuration and status object, by `Field.key`, as its difference from reset. -/
  regs : SMap
  /-- The values in force of the fields whose change waits for a boundary. -/
  live : SMap
  /-- The addressed memory of the matrix map (R271). -/
  mem : List Host.Cell
  time : TimeBase
  net : Net
  modes : Modes
  afe : Afe
  bbl : Bluebell
  cnv : Converters
  chz : Channelizer
  trg : Trigger
  evt : EventStage
  cmp : Compression
  dah : DahliaState
  peer : PeerState
  conc : Concentrator
  sun : SunflowerState
  fst : FieldStore
  mov : Movement
  axl : Axrel
  ctl : Ctl
  pwr : Power
  hk : Housekeeping
  cal : Injectors
  aon : AlwaysOn
  flt : Faults
  notes : Notices
  /-- What the device has shown to the outside, newest first: the model's own. -/
  out : List Out
  /-- How many free values have been drawn: the model's own. -/
  free : Nat
  /-- The commands that wait, first in, first out. -/
  pending : List Instr
  deriving DecidableEq, Repr

/-! ### The state after reset -/

/-- INC after boot: 625 ps in 2^-32 ns (`TIM_INC`). -/
def incAtBoot : Nat := 2684354560

/-- A ring of BAR0 as it stands after boot (R355). -/
def HostRing.atBoot (vector : Nat) : HostRing := ⟨0, 6, vector, false, 0, 0⟩

/-- A mailbox after boot. -/
def Mailbox.atBoot : Mailbox := ⟨false, 0, [], [], [], HostRing.atBoot 1⟩

/-- The control complex after a boot from flash that has reached Idle. -/
def Ctl.atBoot : Ctl :=
  { pair := .paired, leadB := false, failovers := 0, warmRestarts := 0, hostErrs := 0, heartbeat := 0, ronecUp := true,
    resyncFails := 0, restartTimes := [], mailboxes := List.replicate 8 Mailbox.atBoot, lastDone := 0, staged := none,
    serveLinks := 0, rx := none, offers := [], shadow := [], fwSlot := 0, fwSecurity := 0, rollback := 0, flash := [[], [], [], []],
    waitsForImage := false, bundleDone := true, bootFrom := .straps, bootDue := none, chipId := 0, bootSrc := 0 }

/-- The time base after boot: RC64 and civil time count from 0. -/
def TimeBase.atBoot : TimeBase :=
  { rc64 := 0, civil := 0, inc := incAtBoot, incWait := none, opWait := none, refPresent := true, dormantHold := false,
    lastValid := none, lockRun := 0, bootWait := false, ppsWaitHeld := 1200, off := false, offEdge := none, cmpArmed := [],
    cmpFired := [], cmpFrom := [] }

/-- The mode machine after boot. -/
def Modes.atBoot : Modes :=
  { running := none, waiting := none, startedAt := 0, reason := 0, status := 0, peerWatch := false, cluster16 := false,
    convertersOn := false, calConverged := false, calAt := 0, stopSpectrum := 0, drainOver := false, abortStep := 0,
    testDoms := [] }

/-- Bluebell after boot: 64 free segments, the boot entry in every cell (R84). -/
def Bluebell.atBoot : Bluebell :=
  { writing := false, segs := List.replicate 64 ⟨none, none, 0, 0⟩, cur := 0, windows := [], leaving := [], nextId := 0, oneShot := [],
    digOn := false, wake := .down, tj := 50, table := [], curClamp := 0, curLine := 0 }

/-- The converters after boot. -/
def Converters.atBoot : Converters :=
  { hist := List.replicate 256 [], histEnd := 0, corr := List.replicate 2048 ⟨0, 0, 0⟩, corrNext := none,
    stored := List.replicate 2048 ⟨0, 0, 0⟩, gather := List.replicate 2048 SubSum.zero,
    measured := List.replicate 2048 SubSum.zero, clean := 0, noEstimate := 0, blocks := 0, ovr := [], flagged := [],
    samples := [], spurRun := [], cleanRun := [], capture := none }

/-- The channelizer after boot. -/
def Channelizer.atBoot : Channelizer :=
  { running := false, stopAt := none, nextN := 0, eq := [], eqWaiting := [], maskWrites := [], eqBad := [], wait4 := [], wait8 := [],
    filling := none, full := [], clip4 := [], clip8 := [], invFlag := [], invCal := [], invEq := [], invDl4 := [],
    invDl8 := [] }

/-- The trigger engine after boot. -/
def Trigger.atBoot : Trigger :=
  { running := false, since := 0, tokenAt := 0, tokenPart := 0, hist := List.replicate 256 [], beams := List.replicate 512 ⟨true, 0, 0, 0, 0⟩,
    fires := List.replicate 16 none, lastC := 0, known := [], records := [], queue := [], strobes := [],
    refusedSince := 0, prescale := [], outActive := false, outEnd := 0, bad := [], lastLive := 0, lastDead := 0,
    busyRun := 0, quietRun := 0, soft := [], inLevel := false }

/-- Sunflower after boot. -/
def SunflowerState.atBoot : SunflowerState :=
  { running := false, stopAt := none, group := 0, input := [], active := ⟨0, []⟩, pendingSet := ⟨0, []⟩, gains := [], held := [],
    due := [], masks := [], eqAt := [], maskAt := [], switchAt := none, switched := false, aged := false,
    gainChanged := false, homeBad := [], seq := [], lostBefore := 0, queue := [] }

/-- The peer stage after boot. -/
def PeerState.atBoot : PeerState :=
  { input := [], readies := [], goSec := 0, goGspx := 0, aligned := false, stopAt := none, byLeader := false, buffers := [],
    nextClose := 0, full := [], sends := [], heard := [], left := [], newcomers := 0, rejoin := [], turns := 0,
    downAt := [] }

/-- The power controller after boot: every domain as in Idle, 700 mA (R29, R404). -/
def Power.atBoot : Power :=
  { doms := [], queue := [], sleeps := [], pendingUp := [], credit := 0, creditAt := 0, est := 700, cycles := [],
    barred := [], cut := [], fromRetain := [], point := none, nacks := [], faulty := [] }

/-- Snowdrop after the first boot since `VDD_AON` powered up. -/
def AlwaysOn.atBoot : AlwaysOn :=
  { phase := .awake, entryAt := none, held := 0, pwrReq := true, pcieWake := false, bootId := 1, bootFails := 0,
    holdoverUsed := false, overcurrent := false, pcieLink := 0, inReset := false }

/-- The device right after reset: every object at the default of its field map, the boot from flash complete, Idle
(DESIGN CHOICE where the spec gives no value: the log names each). -/
def State.reset : State :=
  { regs := [], live := [], mem := [], time := TimeBase.atBoot,
    net := { ports := [⟨0, []⟩, ⟨0, []⟩], frameSeq := [], recordSeq := [], ipId := [] },
    modes := Modes.atBoot,
    afe := { inputs := List.replicate 256 AfeInput.atBoot, lastFrame := 0, sweepMask := 0, sweep := none },
    bbl := Bluebell.atBoot, cnv := Converters.atBoot, chz := Channelizer.atBoot, trg := Trigger.atBoot,
    evt := { serial := 0, frags := [], head := 0, lostBefore := 0, vigilRefused := 0, high := false, feed := [],
             badRequests := 0 },
    cmp := { coder := [], failNext := false, fails := 0, failSecond := 0, lastFail := 0, queues := [[], [], []],
             running := [none, none, none] },
    dah := DahliaState.atBoot, peer := PeerState.atBoot,
    conc := { opened := [], closed := [], count := 0, ready := [], out := [] },
    sun := SunflowerState.atBoot,
    fst := { bad := [], retfail := 0, ceOrder := [], writtenBack := [], repairs := 0, passStart := 0, passPeriod := 60 },
    mov := { rings := List.replicate 64 DmaRing.atBoot, used := [], gated := 0, badWord := 0, badSpectrum := 0,
             badBlock := false, badWrite := false, lost := [] },
    axl := { links := List.replicate 16 AxLink.atBoot, ports := List.replicate 16 AxPort.atBoot },
    ctl := Ctl.atBoot, pwr := Power.atBoot,
    hk := { run := none, startNext := none, stopNext := false, convAt := 0, outside := [], ring := [], buffer := [],
            statHalted := false, statBeat := 0 },
    cal := { strings := List.replicate 16 ⟨.idle, false, false, 0, 0, 0⟩, pulses := [], onMasks := [], frame := 0 },
    aon := AlwaysOn.atBoot,
    flt := { active := [], retained := [], region := [] },
    notes := { queue := [], seq := 0, droppedSince := 0, droppedTotal := 0, ring := HostRing.atBoot 0 },
    out := [], free := 0, pending := [] }

end Sys2Proof.Machine
end

