-- ==== Sys2Proof/Machine/Ops.lean ====
section
/-! DEFINITION. The shared operations on a state: fields, modes, time stamps, free values, what goes outside,
notices, raising and clearing faults. -/

namespace Sys2Proof.Machine

/-! ### Fields and memories of the state -/

/-- Read field `f` of copy `i` of its object. -/
def rd (s : State) (f : Field) (i : Nat := 0) : Nat := fieldGet s.regs f i

/-- Write field `f` of copy `i` of its object; the value is truncated to the field. -/
def wr (s : State) (f : Field) (i v : Nat) : State := { s with regs := fieldSet s.regs f i v }

/-- The value in force of a field whose change waits for a boundary. -/
def lv (s : State) (f : Field) (i : Nat := 0) : Nat := fieldGet s.live f i

/-- Put a value in force. -/
def setLive (s : State) (f : Field) (i v : Nat) : State := { s with live := fieldSet s.live f i v }

/-- Put the written values of a list of fields of copy `i` in force. -/
def latch (s : State) (fs : List Field) (i : Nat) : State := fs.foldl (fun t f => setLive t f i (rd s f i)) s

/-- A field as a truth value. -/
def flag (s : State) (f : Field) (i : Nat := 0) : Bool := decide (rd s f i ≠ 0)

/-- Add to a counter that wraps at its width. -/
def bump (s : State) (f : Field) (i k : Nat) : State := wr s f i (rd s f i + k)

/-- Add to a counter that saturates at its width. -/
def bumpSat (s : State) (f : Field) (i k : Nat) : State := wr s f i (satAdd f.width (rd s f i) k)

/-- Draw a fresh free value: the counter moves on, so that two draws are two unconstrained values. -/
def drawFree (s : State) : Nat × State := (Config.freeValue s.free, { s with free := s.free + 1 })

/-- Show something to the outside. -/
def emit (s : State) (o : Out) : State := { s with out := o :: s.out }

/-! ### Modes -/

/-- The code of a mode (R25). -/
def Mode.code : Mode → Nat
  | .dormant => 0 | .idle => 1 | .vigil => 2 | .watch => 3 | .image => 4 | .beam => 5 | .survey => 6
  | .peer => 7 | .concentrate => 8 | .calibrate => 9 | .test => 10 | .recovery => 11

/-- The mode of a code; the illegal codes 12 to 15 are read as Idle and never stored (R42). -/
def Mode.ofCode : Nat → Mode
  | 0 => .dormant | 2 => .vigil | 3 => .watch | 4 => .image | 5 => .beam | 6 => .survey
  | 7 => .peer | 8 => .concentrate | 9 => .calibrate | 10 => .test | 11 => .recovery | _ => .idle

/-- The code of a phase (`MODE_STATE.PHASE`). -/
def Phase.code : Phase → Nat
  | .steady => 0 | .check => 1 | .drain => 2 | .down => 3 | .up => 4 | .start => 5 | .peerSync => 6 | .aborting => 7

/-- The phase of a code. -/
def Phase.ofCode : Nat → Phase
  | 1 => .check | 2 => .drain | 3 => .down | 4 => .up | 5 => .start | 6 => .peerSync | 7 => .aborting | _ => .steady

/-- The present mode; during a transition the source mode (`MODE_STATE.CURRENT`). -/
def modeOf (s : State) : Mode := Mode.ofCode (rd s Obj.MODE_STATE.CURRENT)

/-- The phase of the running transition. -/
def phaseOf (s : State) : Phase := Phase.ofCode (rd s Obj.MODE_STATE.PHASE)

/-- Set the phase. -/
def setPhase (s : State) (p : Phase) : State := wr s Obj.MODE_STATE.PHASE 0 p.code

/-- The mode classes that R25 calls Data. -/
def Mode.isData : Mode → Bool
  | .watch | .image | .beam | .survey | .peer | .concentrate | .calibrate | .test => true
  | .dormant | .idle | .vigil | .recovery => false

/-- The Watch functions run: Watch, Survey, Peer with Watch (R29). -/
def watchOn (s : State) : Bool :=
  match modeOf s with
  | .watch | .survey => true
  | .peer => s.modes.peerWatch
  | _ => false

/-- The channelizer runs (R29). -/
def chzOn (s : State) : Bool :=
  match modeOf s with
  | .image | .beam | .survey | .peer | .calibrate => true
  | _ => false

/-- A mode runs the converters (R29). -/
def Mode.converts : Mode → Bool
  | .watch | .image | .beam | .survey | .peer | .calibrate => true
  | _ => false

/-- The converters run: in their modes, and in a transition that starts them once their calibration has converged
(R29, R30, R38). -/
def cnvOn (s : State) : Bool :=
  (modeOf s).converts
    || ((phaseOf s == .up || phaseOf s == .start || phaseOf s == .peerSync) && s.modes.calConverged
        && (Mode.ofCode (rd s Obj.MODE_STATE.TARGET)).converts)

/-- Dahlia runs (R29). -/
def dahOn (s : State) : Bool :=
  match modeOf s with
  | .image | .survey | .peer | .concentrate | .calibrate => true
  | _ => false

/-- Sunflower runs (R29). -/
def sunOn (s : State) : Bool :=
  match modeOf s with
  | .beam | .survey => true
  | _ => false

/-- Leave the running mode for Idle through the phases already completed (R40): the transition's end is reported
with the given REASON and STATUS. -/
def forceIdle (s : State) (reason status : Nat) : State :=
  if phaseOf s = .aborting ∧ rd s Obj.MODE_STATE.TARGET = Mode.idle.code then s
  else
    { wr (setPhase s .aborting) Obj.MODE_STATE.TARGET 0 Mode.idle.code with
      modes := { s.modes with
                 reason := reason, status := status, abortStep := 1,
                 startedAt := if phaseOf s = .steady then s.time.rc64 else s.modes.startedAt } }

/-! ### Credit queues (R16, R280) -/

/-- The slots of a credit queue (R280). -/
def queueSlots : Nat → Nat
  | 0 => 8 | 1 => 8 | 2 => 2 | 3 => 2 | 4 => 32 | 5 => 2 | 6 => 256 | 7 => 64 | 8 => 64 | 9 => 32 | 10 => 32
  | 11 => 16 | 12 => 128 | 13 => 128 | 14 => 64 | _ => 64

/-- The producer of a queue holds a credit. -/
def queueRoom (s : State) (q : Nat) : Bool := decide (mapGet s.mov.used q < queueSlots q)

/-- A slot of a queue frees and its credit returns. -/
def queueFree (s : State) (q : Nat) : State :=
  { s with mov := { s.mov with used := mapSet s.mov.used q (mapGet s.mov.used q - 1) } }

/-! ### Operating points -/

/-- The core clock of a point in units of 10 MHz. -/
def coreClock (point : Nat) : Nat :=
  match point with
  | 0 => 120 | 1 => 105 | 2 => 90 | 3 => 60 | 4 => 30 | _ => 10

/-- Core cycles in one group time of 81.92 µs. -/
def groupCycles (point : Nat) : Nat := coreClock point * 8192 / 10

/-- The slowest point the governor may choose. -/
def slowestPoint (s : State) : Nat := rd s Obj.PWR_DVFS.SLOWEST

/-! ### Time stamps -/

/-- 10⁹ ns in units of 2^-32 ns. -/
def nsSecond : Nat := 1000000000 * 4294967296

/-- Civil time at tick `n`, by the INC in force (R328, R333); never before the epoch. -/
def civilAt (s : State) (n : Nat) : Nat :=
  (((s.time.civil : Int) + ((n : Int) - (s.time.rc64 : Int)) * (s.time.inc : Int))).toNat

/-- A time in picoseconds as SEC, NSEC and PSEC of a TS96, flags 0 (R8); a negative time is the epoch (R477). -/
def ts96OfPs (ps : Int) : Nat :=
  let p := ps.toNat
  (p / 1000000000000) % 2 ^ 48 * 2 ^ 48 + (p / 1000) % 1000000000 * 2 ^ 18 + p % 1000 * 2 ^ 8

/-- A civil time in 2^-32 ns as whole picoseconds: PSEC is ⌊FRAC × 1,000 ÷ 2³²⌋ (R329). -/
def psOfCivil (c : Nat) : Int := ((c / 4294967296 * 1000 + (c % 4294967296) * 1000 / 4294967296 : Nat) : Int)

/-- The flags VALID, LOCKED and HOLDOVER as they stand (R329). -/
def tsFlags (s : State) : Nat :=
  rd s Obj.TIM_STATE.VALID + 2 * rd s Obj.TIM_STATE.LOCKED + 8 * rd s Obj.TIM_STATE.HOLDOVER

/-- The TS96 of tick `n` (R329): civil time with `SKEW_PS` added and the flags as they stand. -/
def ts96At (s : State) (n : Nat) : Nat :=
  ts96OfPs (psOfCivil (civilAt s n) + toInt 16 (rd s Obj.TIM_REF.SKEW_PS)) + tsFlags s

/-- The TS96 of this tick. -/
def ts96Now (s : State) : Nat := ts96At s s.time.rc64

/-- The spectrum index of a tick: frame m = tick ÷ 2,048, modulo 2³² (R5). -/
def spxOf (n : Nat) : Nat := n / 2048 % 4294967296

/-- SPX now. -/
def spxNow (s : State) : Nat := spxOf s.time.rc64

/-- a − b modulo 2³², as a signed number. -/
def spxDist (a b : Nat) : Int := toInt 32 (a % 2 ^ 32 + (2 ^ 32 - b % 2 ^ 32))

/-- GSPX of a local SPX in Peer, which is SPX − Δ; elsewhere SPX (R193). -/
def toGroupSpx (s : State) (spx : Nat) : Nat :=
  if modeOf s = .peer then (spx + 2 ^ 32 - rd s Obj.PEER_STATUS.DELTA) % 2 ^ 32 else spx % 2 ^ 32

/-! ### Notices (R401, R358) -/

/-- Bytes 20 to 55 of a notice. -/
def NoticeBody.bytes : NoticeBody → Bytes
  | .fault code inst severity event count detail =>
    leBytes 2 code ++ leBytes 2 inst ++ [severity % 256, event % 256, 0, 0] ++ leBytes 4 count ++ leBytes 24 detail
  | .mode f t r st sq mb d =>
    [f % 256, t % 256, r % 256, 0] ++ leBytes 2 st ++ [0, 0] ++ leBytes 4 sq ++ [mb % 256, 0, 0, 0] ++ leBytes 4 d
  | .time c fl tg fire => [c % 256, fl % 256, 0, 0] ++ leBytes 8 tg ++ leBytes 8 fire
  | .restart k m sq => [k % 256, m % 256, 0, 0] ++ (sq.map (leBytes 4)).flatten
  | .lost a b => leBytes 4 a ++ leBytes 4 b
  | .queue q b l o => [q % 256, b % 256, 0, 0] ++ leBytes 4 l ++ [o % 256]

/-- TYPE of a notice. -/
def NoticeBody.type : NoticeBody → Nat
  | .fault .. => 1 | .mode .. => 2 | .time .. => 3 | .restart .. => 4 | .lost .. => 5 | .queue .. => 6

/-- Bytes 0 to 55 of a notice. -/
def Notice.head (n : Notice) : Bytes :=
  [n.body.type, 1] ++ leBytes 2 n.seq ++ [0, 0, 0, 0] ++ leBytes 12 n.time ++ padTo 36 n.body.bytes

/-- The 64 bytes of a notice. -/
def Notice.bytes (n : Notice) : Bytes := n.head ++ leBytes 4 (crc32c n.head) ++ [0, 0, 0, 0]

/-- The slots of queue 15 (R280). -/
def noticeQueueSlots : Nat := 64

/-- Form a notice of the event at tick `n`: it takes its SEQ, and waits in queue 15 or, where that is full, is
dropped and counted (R401, R358). -/
def noticeAt (s : State) (n : Nat) (b : NoticeBody) : State :=
  { s with
    notes :=
      if s.notes.queue.length < noticeQueueSlots then
        { s.notes with
          queue := s.notes.queue ++ [⟨s.notes.seq, ts96At s n, b⟩], seq := (s.notes.seq + 1) % 65536 }
      else
        { s.notes with
          seq := (s.notes.seq + 1) % 65536,
          droppedSince := s.notes.droppedSince + 1, droppedTotal := s.notes.droppedTotal + 1 } }

/-- Form a notice of an event of this tick. -/
def notice (s : State) (b : NoticeBody) : State := noticeAt s s.time.rc64 b

/-! ### Faults (R446 to R449) -/

/-- An active instance of a fault. -/
def findFault (s : State) (code inst : Nat) : Option FaultInst :=
  s.flt.active.find? (fun x => x.code == code && x.inst == inst)

/-- A fault is active. -/
def faultActive (s : State) (code inst : Nat) : Bool := (findFault s code inst).isSome

/-- The 24 bytes of DETAIL as a number (R448): A, SPX where spectra run, GSPX in Peer, B. -/
def detailOf (s : State) (a b : Nat) : Nat :=
  a % 2 ^ 32 + (if chzOn s then toGroupSpx s (spxNow s) else 0) * 2 ^ 32 + b % 2 ^ 64 * 2 ^ 64

/-- The 32 bytes of a log entry (R449). -/
def LogEntry.bytes (e : LogEntry) : Bytes :=
  leBytes 2 e.code ++ leBytes 2 e.inst ++ [e.severity % 256, e.event % 256, e.mode % 256, e.flags % 256]
    ++ leBytes 2 e.bootId ++ [0, 0] ++ leBytes 4 e.count ++ leBytes 12 e.time ++ leBytes 4 e.a

/-- Append to the retained fault log: when it is full, the oldest entry that is not FATAL goes, or the oldest, and
the new entry carries OVERWRITE (R449). -/
def retain (log : List LogEntry) (e : LogEntry) : List LogEntry :=
  if log.length < 256 then log ++ [e]
  else
    match takeFirst (fun x => x.severity != 3) log with
    | some r => r.2 ++ [{ e with flags := e.flags ||| 2 }]
    | none => log.drop 1 ++ [{ e with flags := e.flags ||| 2 }]

/-- Append to the log region, which loses its oldest entry when its 16,384 are in use (R19, R447). -/
def regionPush (log : List LogEntry) (e : LogEntry) : List LogEntry :=
  (if log.length < 16384 then log else log.drop 1) ++ [e]

/-- The log entry of an event of a fault. -/
def logEntry (s : State) (code inst event count a : Nat) : LogEntry :=
  ⟨code, inst, severityOf code, event, rd s Obj.MODE_STATE.CURRENT, if s.ctl.ronecUp then 0 else 1,
   s.aon.bootId, count, ts96Now s, a⟩

/-- The levels of a lossy-tail queue q that holds `n` of `cap`, with its watermark: OCCUPANCY, and HIGH at a crossing,
which signals (R290). -/
def lossyShow (s : State) (q n cap wm : Nat) : State :=
  let now := 100 * n / cap
  let crossed := decide (rd s Obj.MOV_LOSSY.OCCUPANCY q < wm) && decide (wm ≤ now)
  let s1 := wr s Obj.MOV_LOSSY.OCCUPANCY q now
  if crossed && !flag s Obj.MOV_LOSSY.HIGH q then
    notice (wr s1 Obj.MOV_LOSSY.HIGH q 1) (.queue q 1 (rd s1 Obj.MOV_LOSSY.LOST q) now)
  else s1

/-- Packets of a lossy-tail queue were overwritten (R19, R282, R290). -/
def lossyLost (s : State) (q k : Nat) : State :=
  if k = 0 then s
  else
    let s1 := bump s Obj.MOV_LOSSY.LOST q k
    if flag s Obj.MOV_LOSSY.LOST_FLAG q then s1
    else notice (wr s1 Obj.MOV_LOSSY.LOST_FLAG q 1)
      (.queue q 2 (rd s1 Obj.MOV_LOSSY.LOST q) (rd s1 Obj.MOV_LOSSY.OCCUPANCY q))

/-- Write an event of a fault in the log region, a lossy-tail queue, and, for a raise or a clearing of severity DEGRADED
or more, in the retained log (R447). -/
def logFault (s : State) (code inst event count a : Nat) : State :=
  let s1 := { s with
    flt := { s.flt with
             region := regionPush s.flt.region (logEntry s code inst event count a),
             retained :=
               if severityOf code ≠ 0 ∧ event ≠ 1 ∧ event ≠ 3 then
                 retain s.flt.retained (logEntry s code inst event count a)
               else s.flt.retained } }
  lossyLost (lossyShow s1 2 s1.flt.region.length 16384 (rd s Obj.MOV_LOSSY.HIGH_WM 2)) 2
    (s.flt.region.length + 1 - s1.flt.region.length)

/-- A detection of an instance that may be active already: COUNT rises, or the instance is entered, reported and
logged (R446, R447). -/
def raiseEntry (s : State) (code inst a b detail : Nat) : State :=
  if faultActive s code inst then
    { s with
      flt := { s.flt with
               active := updFirst (fun x => x.code == code && x.inst == inst)
                 (fun x => { x with count := x.count + 1, sinceNotice := x.sinceNotice + 1,
                                    waiting := !lastingCodes.contains code }) s.flt.active } }
  else
    let s1 := { s with
      flt := { s.flt with
               active := s.flt.active
                 ++ [⟨code, inst, !lastingCodes.contains code, 1, 0, s.time.rc64, a, b⟩] } }
    notice (logFault s1 code inst 0 1 a) (.fault code inst (severityOf code) 0 1 detail)

/-- An overwrite in the log raises fault 0x0C09 (R292). -/
def logWatched (before after : State) : State :=
  if rd before Obj.MOV_LOSSY.LOST 2 = rd after Obj.MOV_LOSSY.LOST 2 then after
  else raiseEntry after 0x0C09 2 2 0 (detailOf after 2 0)

/-- Raise a fault with a DETAIL of its own. -/
def raiseDetail (s : State) (code inst a b detail : Nat) : State :=
  let s1 := logWatched s
    (if faultActive s code inst || decide (s.flt.active.length < 1024) then raiseEntry s code inst a b detail
     else raiseEntry (raiseEntry s code 0xFFFE a b detail) 0x100C 0 0 0 0)
  if severityOf code = 3 ∧ (modeOf s).isData then forceIdle s1 4 0x0011 else s1

/-- Raise fault `code` at instance `inst` with DETAIL words A and B (R446 to R448): a full list folds it into
instance 0xFFFE of its code, and a FATAL fault in a data mode moves the device to Idle (R40). -/
def raise (s : State) (code inst a b : Nat) : State := raiseDetail s code inst a b (detailOf s a b)

/-- The condition of a fault ends: a RAISED instance waits for its clearing (R446). -/
def endFault (s : State) (code inst : Nat) : State :=
  { s with
    flt := { s.flt with
             active := updFirst (fun x => x.code == code && x.inst == inst)
               (fun x => { x with waiting := true }) s.flt.active } }

/-- Clear an instance: it leaves the active list, a notice with EVENT 2 and a log entry report it (R447). -/
def clearFault (s : State) (code inst : Nat) : State :=
  match findFault s code inst with
  | none => s
  | some x =>
    let s1 := { s with
      flt := { s.flt with active := s.flt.active.filter (fun y => !(y.code == code && y.inst == inst)) } }
    logWatched s (notice (logFault s1 code inst 2 x.count x.detailA)
      (.fault code inst (severityOf code) 2 x.sinceNotice (detailOf s x.detailA x.detailB)))

/-- An update notice of an active instance, EVENT 1, with its log entry (R447, R58). -/
def updateFault (s : State) (code inst detail : Nat) : State :=
  match findFault s code inst with
  | none => s
  | some x =>
    logWatched s
      (notice (logFault s code inst 1 x.count x.detailA) (.fault code inst (severityOf code) 1 x.sinceNotice detail))

/-- The highest severity of the active instances, INFO taken as none (R447). -/
def worstSeverity (s : State) : Nat := s.flt.active.foldl (fun m x => max m (severityOf x.code)) 0

end Sys2Proof.Machine
end

