-- ==== Sys2Proof/Machine/PowerOps.lean ====
section
/-! DEFINITION. Power domains: what each mode wants of them, requests to the governor, sleep requests
(R29, R404 to R415, R248). -/

namespace Sys2Proof.Machine

/-- Change the power controller. -/
def setPwr (s : State) (f : Power → Power) : State := { s with pwr := f s.pwr }

/-- Change Snowdrop's state. -/
def setAon (s : State) (f : AlwaysOn → AlwaysOn) : State := { s with aon := f s.aon }

/-- Domains lo to hi of the table of R404. -/
def domRange (lo hi : Nat) : List Nat := (List.range (hi + 1 - lo)).map (fun j => lo + j)

/-- The domain of bank n. -/
def bankDom (n : Nat) : Nat := 177 + n

/-! ### Store maps (R235) -/

/-- The store map of a mode: 0 Spectrum, 1 Quad, 2 Cluster-16, 3 Concentrate; Idle keeps the last one, and Dormant, which
uses no map, with it (DEDUCED, log entry 70). -/
def mapFor (s : State) (m : Mode) (c16 : Bool) : Nat :=
  match m with
  | .idle | .dormant => rd s Obj.FST_MAP.MAP
  | .peer => if c16 then 2 else 1
  | .concentrate => 3
  | _ => 0

/-- N_b of R237. -/
def mapDahBanks : Nat → Nat
  | 0 => 129 | 1 => 130 | 2 => 145 | _ => 0

/-- The half-banks of the log and of the housekeeping ring, of scratch, of the event-pending region and of the Bluebell
tables as (first, last) banks. -/
def mapLogBank (map : Nat) : Nat := if map = 2 then 154 else 152
def mapScratchBank (map : Nat) : Nat := if map = 2 then 154 else 159
def mapEvtBanks (map : Nat) : Nat × Nat := if map = 2 then (155, 159) else (153, 158)
def mapBblBanks (map : Nat) : Nat × Nat := if map = 2 then (147, 153) else (145, 151)

/-- Bank n lies in a range. -/
def inBanks (r : Nat × Nat) (n : Nat) : Bool := decide (r.1 ≤ n) && decide (n ≤ r.2)

/-- The Watch functions belong to a mode. -/
def modeWatches (m : Mode) (watch : Bool) : Bool :=
  match m with
  | .watch | .survey => true
  | .peer => watch
  | _ => false

/-- A mode uses bank n under a map: a region of a function that it runs lies in it (R29, R235, R248). -/
def bankUsed (m : Mode) (watch : Bool) (map n : Nat) : Bool :=
  let spectrum := m == .image || m == .survey || m == .calibrate || m == .peer
  let beams := m == .beam || m == .survey
  let events := modeWatches m watch || m == .vigil
  let shared := decide (n = mapLogBank map) || decide (n = mapScratchBank map)
  match m with
  | .idle => true
  | .concentrate => decide (n ≤ 144) || shared
  | .dormant => false
  | _ =>
    shared
      || (spectrum && (decide (n < mapDahBanks map)
            || inBanks (match map with | 0 => (129, 144) | 1 => (130, 137) | _ => (145, 146)) n))
      || (beams && decide (map = 0) && (decide (n = 152) || decide (n = 159)))
      || ((events || m == .calibrate) && inBanks (mapBblBanks map) n)
      || (events && inBanks (mapEvtBanks map) n)

/-! ### What a mode wants (R29) -/

/-- An entry of the table of R29: OFF, ON, on demand, or as given. -/
def wantDem : Nat := 9

/-- The state that a mode wants of a domain: a code of `PWR_DOMAIN.STATE`, or 9 for on demand. -/
def wantOf (s : State) (m : Mode) (watch : Bool) (map d : Nat) : Nat :=
  let inputs := m == .watch || m == .image || m == .beam || m == .survey || m == .peer || m == .calibrate
  let w := modeWatches m watch
  let test := m == .test
  let on (b : Bool) : Nat := if b then 2 else if test then wantDem else 0
  if d < 32 then (if m = .vigil then 5 else on inputs)
  else if d < 48 then on (w || m == .vigil || m == .calibrate)
  else if d < 64 then
    (if m = .calibrate then 2 else if w && flag s Obj.BBL_DIG.KEEP_WARM then 2
     else if w || m == .vigil || test then wantDem else 0)
  else if d < 80 then on inputs
  else if d = 80 then on (inputs || m == .vigil)
  else if d < 89 then on (m == .image || m == .beam || m == .survey || m == .peer || m == .calibrate)
  else if d < 93 then on w
  else if d < 95 then (if m = .vigil then wantDem else on (w || m == .concentrate))
  else if d < 159 then on (m == .image || m == .survey || m == .peer || m == .concentrate || m == .calibrate)
  else if d < 161 then on (m == .peer || m == .concentrate)
  else if d < 177 then on (m == .beam || m == .survey)
  else if d < 337 then
    let n := d - 177
    let unused := match rd s Obj.FST_PLAN.UNUSED_STATE n with
      | 0 => if m = .vigil then 4 else 2
      | 1 => 4
      | _ => 0
    match m with
    | .dormant => if rd s Obj.FST_PLAN.DORMANT_STATE n = 1 then 4 else 0
    | .vigil => if bankUsed m watch map n then 4 else unused
    | .test | .recovery => wantDem
    | _ => if bankUsed m watch map n then 2 else unused
  else if d < 340 then
    (match m with
     | .watch | .survey | .concentrate => 2
     | .peer => if watch then 2 else wantDem
     | .dormant | .image | .beam => 0
     | _ => wantDem)
  else if d < 344 then (match m with | .dormant => 0 | .vigil => wantDem | _ => 2)
  else if d < 360 then
    (match m with
     | .peer | .concentrate => 2
     | .idle | .watch | .survey | .test | .recovery => wantDem
     | _ => 0)
  else if d = 360 then (match m with | .dormant | .vigil => 0 | _ => 2)
  else if d < 365 then
    (match m with
     | .watch | .image | .beam | .survey | .peer | .concentrate => 2
     | .idle | .calibrate | .test => wantDem
     | _ => 0)
  else if d < 369 then (match m with | .dormant | .vigil => 4 | _ => 2)
  else if d = 369 then (match m with | .dormant | .vigil => 0 | _ => 2)
  else if d = 370 then (if m = .dormant then 0 else 2)
  else if d = 371 then (match m with | .dormant => 0 | .vigil => wantDem | _ => 2)
  else if d = 372 then (if m = .dormant then 0 else 2)
  else if d = 373 then wantDem
  else if d < 390 then
    (match m with
     | .calibrate => 2
     | .image | .survey | .peer | .test => wantDem
     | _ => 0)
  else 2

/-- The state of a domain in Idle after a boot: what R29 lists as on is ON, everything else OFF (DEDUCED, log 24). -/
def idleDomain (d : Nat) : Nat :=
  if inBanks (177, 336) d || inBanks (340, 343) d || decide (d = 360) || inBanks (365, 372) d || decide (390 ≤ d)
  then 2 else 0

/-- `PWR_DOMAIN.STATE` of a domain. -/
def domState (s : State) (d : Nat) : Nat := mapGet s.pwr.doms d ^^^ idleDomain d

/-- Set the state of a domain; a bank shows it in `FST_BANK.STATE` as well. -/
def setDom (s : State) (d st : Nat) : State :=
  let s1 := setPwr s (fun p => { p with doms := mapSet p.doms d (st ^^^ idleDomain d) })
  if inBanks (177, 336) d then
    wr s1 Obj.FST_BANK.STATE (d - 177) (match st with | 2 => 0 | 3 => 0 | 4 => 1 | 6 => 3 | _ => 2)
  else s1

/-- A domain is ON. -/
def domOn (s : State) (d : Nat) : Bool := decide (domState s d = 2)

/-- A domain is cycling after a latch-up, from the cut to its restoration (R414, R452). -/
def domCycling (s : State) (d : Nat) : Bool := s.pwr.cut.contains d

/-! ### Credit (R410) -/

/-- C at this tick in 1/16,000 mA: it grows at `RATE`, and is capped at 0 while no paced request waits. -/
def creditNow (s : State) : Int :=
  let c := s.pwr.credit + ((s.time.rc64 : Int) - (s.pwr.creditAt : Int)) * (rd s Obj.PWR_GOV.RATE : Nat)
  if s.pwr.queue.isEmpty then (if 0 < c then 0 else c) else c

/-- Bring the credit up to this tick. -/
def accrue (s : State) : State :=
  setPwr s (fun p => { p with credit := creditNow s, creditAt := s.time.rc64 })

/-- A paced request joins the queue; the credit starts to grow from what it is. -/
def paced (s : State) (p : Paced) : State := setPwr (accrue s) (fun q => { q with queue := q.queue ++ [p] })

/-! ### Requests -/

/-- `MODE_STATE.PENDING_UP` shows whether a domain waits. -/
def showPendingUp (s : State) : State := wr s Obj.MODE_STATE.PENDING_UP 0 (b2n (!s.pwr.pendingUp.isEmpty))

/-- Ask for a power-up (R39, R405): a domain in SLEEPING becomes PENDING-UP; one that is ON or waking needs none; one
that a third latch-up cycle holds OFF stays OFF. -/
def domUp (s : State) (cls d : Nat) : State :=
  if s.pwr.barred.contains d then s
  else
    match domState s d with
    | 3 => showPendingUp (setPwr (setDom s d 6) (fun p => { p with pendingUp := p.pendingUp ++ [(d, cls)] }))
    | 0 | 4 =>
      if s.pwr.queue.any (fun p => p.dom == d && p.result == .wakes) then s
      else paced s ⟨cls, d, true, Config.stepMa d, .wakes⟩
    | 5 => paced s ⟨cls, d, true, Config.stepMa d, .bias 2⟩
    | 6 => setPwr s (fun p =>
      { p with pendingUp := p.pendingUp.map (fun x => if x.1 = d ∧ x.2 = 0 then (d, cls) else x) })
    | _ => s

/-- The first segment of a power-up is granted (R405): the domain is WAKING; a bank that was OFF has lost what it held
(R239), one in RETAIN is checked before it is ON (R249). -/
def domWakes (s : State) (d : Nat) : State :=
  match domState s d with
  | 0 => setDom (if inBanks (177, 336) d then wr s Obj.FST_BANK.INIT (d - 177) 0 else s) d 1
  | 4 => setPwr (setDom s d 1) (fun p =>
      { p with fromRetain := if inBanks (177, 336) d then p.fromRetain ++ [d] else p.fromRetain })
  | _ => s

/-- Ask for several power-ups in order. -/
def domsUp (s : State) (cls : Nat) (ds : List Nat) : State := ds.foldl (fun t d => domUp t cls d) s

/-- Send a sleep request to a domain that is ON (R405, R408); a receiver domain in LOW falls by paced steps. -/
def domDown (s : State) (cls d target : Nat) : State :=
  match domState s d with
  | 2 =>
    if s.pwr.sleeps.any (fun x => x.dom == d) then s
    else setPwr (setDom s d 3) (fun p => { p with sleeps := p.sleeps ++ [⟨d, target, cls, false, false⟩] })
  | 5 => if target = 5 then s else paced s ⟨cls, d, false, Config.stepMa d, .falls target⟩
  | 4 => if target = 0 then setDom s d 0 else s
  | _ => s

/-- Ask for several power-downs. -/
def domsDown (s : State) (cls : Nat) (ds : List Nat) (target : Nat) : State :=
  ds.foldl (fun t d => domDown t cls d target) s

/-- A power-down of domain d has ended: a power-up that waited for it is granted its place (R39); where it is a waiting
mode request's, of class 0, its own UP phase asks for it. -/
def downEnds (s : State) (d st : Nat) : State :=
  let s1 := setDom s d st
  match s.pwr.pendingUp.find? (fun x => x.1 == d) with
  | some x =>
    let s2 := showPendingUp (setPwr s1 (fun p => { p with pendingUp := p.pendingUp.filter (fun y => y.1 != d) }))
    if x.2 = 0 then s2 else domUp s2 x.2 d
  | none => s1

/-- Domain d, asked to sleep, stays ON for now (R408, R409). -/
def staysOn (s : State) (d : Nat) : State := if domState s d = 3 ∨ domState s d = 6 then setDom s d 2 else s

/-- Domain d is asked to sleep again (R408). -/
def sleepsAgain (s : State) (d : Nat) : State :=
  if domState s d = 2 ∧ flag s Obj.PWR_DOMAIN.HELD d = false then
    setDom s d (if s.pwr.pendingUp.any (fun x => x.1 == d) then 6 else 3)
  else s

/-- No waiting mode request marks a domain any more. -/
def unmarkWaiting (s : State) : State :=
  let ds := (s.pwr.pendingUp.filter (fun x => x.2 == 0)).map Prod.fst
  let s1 := ds.foldl (fun t d => if domState t d = 6 then setDom t d 3 else t) s
  showPendingUp (setPwr s1 (fun p => { p with pendingUp := p.pendingUp.filter (fun x => x.2 != 0) }))

/-- The domains that power down while the waiting mode request wants them read PENDING-UP (R39). -/
def markWaiting (s : State) : State :=
  match s.modes.waiting with
  | none => s
  | some r =>
    let ds := (List.range 394).filter (fun d => decide (domState s d = 3)
      && decide (wantOf s r.target r.watch (mapFor s r.target r.cluster16) d = 2))
    showPendingUp (setPwr (ds.foldl (fun t d => setDom t d 6) s) (fun p =>
      { p with pendingUp := p.pendingUp ++ ds.map (fun d => (d, 0)) }))

/-- The capture wake set in its order (R424). -/
def wakeSet (map : Nat) : List Nat :=
  [371] ++ domRange 365 368 ++ [340, 341]
    ++ (domRange (mapBblBanks map).1 (mapBblBanks map).2).map bankDom
    ++ (domRange (mapEvtBanks map).1 (mapEvtBanks map).2).map bankDom
    ++ domRange 48 63 ++ [93, 94, 337]

/-- Power the capture wake set, class 1 (R89, R413). -/
def wakeSetUp (s : State) : State := domsUp s 1 (wakeSet (rd s Obj.FST_MAP.MAP))

/-- Power the capture wake set down again: retained domains to RETAIN, the others to OFF. -/
def wakeSetDown (s : State) : State :=
  (wakeSet (rd s Obj.FST_MAP.MAP)).foldl (fun t d =>
    domDown t 3 d (if inBanks (177, 336) d || inBanks (365, 368) d then 4 else 0)) s

/-- A doorbell, a wake source or Ronec firmware's own request in Vigil powers the control pair, PD.CTL.0–3, on demand
(R372, R424). -/
def pairUp (s : State) : State := domsUp s 3 (domRange 365 368)

/-- The control pair goes back to RETAIN. -/
def pairDown (s : State) : State := domsDown s 3 (domRange 365 368) 4

/-- The on-demand digitizer (R81), class 3. -/
def digitizerUp (s : State) : State := domsUp s 3 (domRange 48 63)
def digitizerDown (s : State) : State := domsDown s 3 (domRange 48 63) 0

/-- The work that needed domain d has ended: where the mode has it on demand, it is powered down (R29). -/
def demandDown (s : State) (d : Nat) : State :=
  if wantOf s (modeOf s) s.modes.peerWatch (rd s Obj.FST_MAP.MAP) d = wantDem then domDown s 3 d 0 else s

/-- No power-up of a class waits and no domain is waking on one. -/
def upsDone (s : State) (cls : Nat) : Bool :=
  s.pwr.queue.all (fun p => !(p.up && p.cls == cls))

/-- No power-down of a class waits; a domain that is HELD lets the transition go on (R409). -/
def downsDone (s : State) (cls : Nat) : Bool :=
  s.pwr.queue.all (fun p => p.up || p.cls != cls)
    && s.pwr.sleeps.all (fun x => x.cls != cls || flag s Obj.PWR_DOMAIN.HELD x.dom)

/-- `PWR_STATUS` and `PWR_DOMAIN` as they stand. -/
def powerSnapshot (s : State) : State :=
  wr (wr s Obj.PWR_STATUS.CREDIT 0 (ofInt 16 (clampInt (-32768) 32767 (creditNow s / 16000))))
    Obj.PWR_STATUS.EST_CURRENT 0 (s.pwr.est.toNat / 10)

/-- `PWR_DOMAIN` of instance d as it stands. -/
def domSnapshot (s : State) (d : Nat) : State :=
  wr (wr s Obj.PWR_DOMAIN.STATE d (domState s d)) Obj.PWR_DOMAIN.STEP_MA d (Config.stepMa d)

/-! ### Block clocks (R14, R15, R412) -/

/-- The block id of a domain's clock (R9), 0 where R14 gates none. -/
def domBlock (d : Nat) : Nat :=
  if inBanks (93, 94) d then 6
  else if inBanks (95, 158) d then 7
  else if inBanks (159, 160) d then 8
  else if inBanks (161, 176) d then 9
  else if inBanks (177, 336) d then 10
  else if inBanks (337, 339) d then 11
  else if inBanks (340, 343) d then 12
  else 0

/-- The ballast that domain d still draws while its clock stands: none once parked, what is left of its paced fall, or
all of its swing (R412). -/
def ballastLeft (s : State) (d : Nat) : Nat :=
  if flag s Obj.PWR_DOMAIN.PARKED d then 0
  else match s.pwr.queue.find? (fun p => p.dom == d && p.result == .parks) with
    | some p => p.left
    | none => Config.stepMa d

/-- The clock of domain d starts with ballast b left of a swing S: the fraction ⌊16b ÷ S⌋ ÷ 16 runs at once, a first
sixteenth without ballast is charged as debt, and the governor raises the rest in ballast steps, class 4 (R412, R413). -/
def ballastOff (s : State) (d : Nat) : State :=
  let swing := Config.stepMa d
  let b := ballastLeft s d
  let first := if 16 * b < swing then swing / 16 else 0
  let s1 := wr (accrue s) Obj.PWR_DOMAIN.PARKED d 0
  let s2 := setPwr s1 (fun p =>
    { p with credit := p.credit - ((first : Nat) : Int) * 16000, est := p.est + ((first : Nat) : Int),
             queue := p.queue.filter (fun x => !(x.dom == d && x.result == .parks)) })
  if b + first < swing then paced s2 ⟨4, d, true, swing - b - first, .clocks⟩ else s2

/-- A gated block's clock starts, with the ballast of its domains of more than 10 mA (R15, R412). -/
def clockStarts (s : State) (block : Nat) : State :=
  if bit s.mov.gated block then
    let ds := (List.range 394).filter (fun d => domBlock d == block && domOn s d && decide (10 < Config.stepMa d))
    let s1 := ds.foldl ballastOff s
    { s1 with mov := { s1.mov with gated := setBit s1.mov.gated block false } }
  else s

end Sys2Proof.Machine
end

