-- ==== Sys2Proof/Machine/Afe.lean ====
section
/-! DEFINITION. The receiver inputs: clamp, automatic range control, line probe, RMS collapse, line state
(R45 to R58, `03_receiver_inputs.md`). -/

namespace Sys2Proof.Machine

/-- Input i. -/
def inputOf (s : State) (i : Nat) : AfeInput := nth s.afe.inputs i AfeInput.atBoot

/-- Change input i. -/
def setInput (s : State) (i : Nat) (f : AfeInput → AfeInput) : State :=
  { s with afe := { s.afe with inputs := upd s.afe.inputs i f } }

/-! ### Line state (R57) -/

/-- Codes of `AFE_STATUS.LINE_STATE`: 0 NORMAL, 1 FAULTED, 2 RECOVERING, 3 DISABLED. -/
def lineState (s : State) (i : Nat) : Nat := rd s Obj.AFE_STATUS.LINE_STATE i

/-- The receiver or converter domain of input i is in a latch-up cycle, or less than 64 samples past it (R452). -/
def latchupMarked (s : State) (i : Nat) : Bool :=
  domCycling s (i / 8) || domCycling s (64 + i / 16) || decide (s.time.rc64 < (inputOf s i).luUntil)

/-- LINE marks the samples of input i now: any state but NORMAL, the wait for the boundary after NORMAL,
`FORCE_LINE` in force (R57), or a latch-up cycle (R452). -/
def lineMarked (s : State) (i : Nat) : Bool :=
  latchupMarked s i || decide (lineState s i ≠ 0) || (inputOf s i).lineUntil.isSome || decide (lv s Obj.AFE_INPUT.FORCE_LINE i ≠ 0)

/-- Show in `AFE_STATUS.LINE` what holds. -/
def showLine (s : State) (i : Nat) : State := wr s Obj.AFE_STATUS.LINE i (b2n (lineMarked s i))

/-- DETAIL of fault 0x0103 (R403): detector, class, TS96 of `LAST_OK`. -/
def lineDetail (s : State) (i detector cls : Nat) : Nat :=
  detector + cls * 256 + rd s Obj.PROBE_RESULT.LAST_OK i * 2 ^ 32

/-- The class of the fault on input i is known before this detection: the same fault still stands, in RECOVERING, and a
notice has given its class (R58). -/
def lineClassHeld (s : State) (i : Nat) : Bool :=
  faultActive s 0x0103 i && decide (lineState s i = 2) && (inputOf s i).classKnown

/-- A detector fires in NORMAL or RECOVERING: FAULTED, LINE, fault 0x0103, no pending range change (R48, R57, R58).
`detector` is 0 PROBE or 1 RMS; `cls` is the class, 5 where it is unknown.  The first detection gives the notice; where
the instance is active already, a class that no notice has given yet gives the one update notice. -/
def lineFault (s : State) (i detector cls : Nat) : State :=
  let s1 := setInput (wr s Obj.AFE_STATUS.LINE_STATE i 1) i
    (fun x => { x with pending := none, deferred := 0, forced := false, okRun := 0, winRun := 0, lineUntil := none,
                       classKnown := lineClassHeld s i || decide (cls ≠ 5) })
  let s2 := raiseDetail s1 0x0103 i i 0 (lineDetail s i detector cls)
  showLine (if faultActive s 0x0103 i && !lineClassHeld s i && decide (cls ≠ 5) then
      updateFault s2 0x0103 i (lineDetail s i detector cls) else s2) i

/-- NORMAL is reached: LINE stays up to the next frame boundary (R57); fault 0x0103 may be acknowledged. -/
def lineNormal (s : State) (i : Nat) : State :=
  showLine (endFault (setInput (wr s Obj.AFE_STATUS.LINE_STATE i 0) i
    (fun x => { x with lineUntil := some (s.time.rc64 / 2048 + 1), okRun := 0, winRun := 0 })) 0x0103 i) i

/-- RECOVERING ends when both its runs are long enough: two clean intervals and 15 windows (R57). -/
def lineRecovered (s : State) (i : Nat) : State :=
  if lineState s i = 2 ∧ 2 ≤ (inputOf s i).okRun ∧ 15 ≤ (inputOf s i).winRun then lineNormal s i else s

/-! ### Clamp (R45, R46) -/

/-- CLAMP marks the word of input i that begins at sample `start`: the clamp conducts, or one of its samples lies less
than 64 samples past the release (R45, R93). -/
def clampMarked (s : State) (i start : Nat) : Bool :=
  (inputOf s i).conducting
    || (match (inputOf s i).released with
        | some r => decide (start < r + 64)
        | none => false)

/-- A trip begins a clamp event when at least 1 µs without conduction went before (R45). -/
def clampEventStarts (s : State) (i : Nat) : Bool :=
  match (inputOf s i).released with
  | some r => decide (r + 1600 ≤ s.time.rc64)
  | none => true

/-- The digital logic of input i is on: its receiver domain is ON (R46, R404). -/
def inputLogicOn (s : State) (i : Nat) : Bool := domOn s (i / 8)

/-- CLAMP_TRIP (R45, R46): a new event sets CLAMP_STICKY; where the input's digital logic is on it counts and raises
fault 0x0101.  A trip spoils the probe interval in progress (R54). -/
def execClampTrip (i : Fin 256) (s : State) : Host.Outcome State Fault Refusal :=
  if (inputOf s i).conducting then .next s
  else
    let s1 := setInput s i (fun x => { x with conducting := true, probe := { x.probe with clamped := true } })
    if clampEventStarts s i then
      let s2 := wr s1 Obj.AFE_STATUS.CLAMP_STICKY i 1
      .next (if inputLogicOn s i then raise (bumpSat s2 Obj.AFE_STATUS.CLAMP_COUNT i 1) 0x0101 i i 0 else s2)
    else .next s1

/-- CLAMP_RELEASE (R45): conduction ends; the condition of fault 0x0102 is over. -/
def execClampRelease (i : Fin 256) (s : State) : Host.Outcome State Fault Refusal :=
  if (inputOf s i).conducting then
    .next (endFault (setInput s i (fun x => { x with conducting := false, released := some s.time.rc64 })) 0x0102 i)
  else .next s

/-- CLAMP_LONG (R46): conduction has lasted longer than 1 ms. -/
def execClampLong (i : Fin 256) (s : State) : Host.Outcome State Fault Refusal :=
  if (inputOf s i).conducting then .next (raise s 0x0102 i i 0) else .next s

/-! ### Automatic range control (R47 to R51) -/

/-- Gain of a range code in 0.5 dB (R47). -/
def gainOf (code : Nat) : Int := if code / 64 % 2 = 0 then 60 - (code % 64 : Nat) else 28 - (code % 64 : Nat)

/-- The code that gives a gain in 0.5 dB, from the present code (R48 step 5). -/
def codeOfGain (present : Nat) (g : Int) : Nat :=
  let low := if 0 ≤ g then false else if g < -3 then true else decide (present / 64 % 2 = 1)
  (if low then 64 else 0) + (clampInt 0 63 ((if low then 28 else 60) - g)).toNat

/-- r = num ÷ den satisfies 40 log₁₀ r ≥ k. -/
def log40AtLeast (num den : Nat) (k : Int) : Bool :=
  if 0 ≤ k then decide (den ^ 40 * 10 ^ k.toNat ≤ num ^ 40) else decide (den ^ 40 ≤ num ^ 40 * 10 ^ (-k).toNat)

/-- ⌊20 log₁₀ r + ½⌋ held inside ±m: the error in 0.5 dB, rounded so that halves give the lower gain (R48 step 4). -/
def errorHalfDb (num den m : Nat) : Int :=
  let ks := (List.range (2 * m)).map (fun (j : Nat) => (m : Int) - (j : Int))
  match ks.find? (fun k => log40AtLeast num den (2 * k - 1)) with
  | some k => k
  | none => -(m : Int)

/-- The averaging length L in frames; `AFE_ARC` acts as it stood at the last evaluation (R63). -/
def arcLength (s : State) : Nat := 2 ^ (lv s Obj.AFE_ARC.AVG_LOG + 5)

/-- The new range code of an evaluation over the last L frames, or none where it makes no change (R48).  Where the
mean square is 0 the logarithm is not stated: the step is a free value within ±`MAX_STEP`, log entry 12. -/
def arcCode (s : State) (i : Nat) : Option Nat × State :=
  let fs := (inputOf s i).frames.take (arcLength s)
  let n := (fs.map FrameSum.count).sum
  let ex := (fs.map FrameSum.excluded).sum
  let m := lv s Obj.AFE_ARC.MAX_STEP
  let tr := lv s Obj.AFE_ARC.TARGET_RMS
  let num := (fs.map FrameSum.sumSq).sum * 256
  let den := n * tr * tr
  let db : Int := lv s Obj.AFE_ARC.DEADBAND
  let code := rd s Obj.AFE_STATUS.RANGE i
  if n < ex ∨ n = 0 then (none, s)
  else if num = 0 then
    let f := drawFree s
    let k : Int := (f.1 % (2 * m + 1) : Nat) - (m : Int)
    (some (codeOfGain code (gainOf code - k)), f.2)
  else if log40AtLeast num den (-db) && log40AtLeast den num (-db) then (none, s)
  else (some (codeOfGain code (gainOf code - errorHalfDb num den m)), s)

/-- ARC_EVALUATION (R48): at an SPX that is a multiple of L, for an input under automatic control in NORMAL; a code
other than the present one is pending from then on, and keeps the deferral count of one it replaces (R49). -/
def execArcEvaluation (i : Fin 256) (s : State) : Host.Outcome State Fault Refusal :=
  if cnvOn s && decide (lv s Obj.AFE_INPUT.ARC i ≠ 0) && decide (lineState s i = 0)
      && decide (spxNow s % arcLength s = 0) then
    let r := arcCode s i
    match r.1 with
    | none => .next r.2
    | some c =>
      if c = rd s Obj.AFE_STATUS.RANGE i then .next r.2
      else .next (setInput r.2 i (fun x => { x with pending := some c }))
  else .next s

/-- The latest trigger record covers input i's group while its hold-off lasts, or a window freeze is in progress
(R49, R135): a record covers group g when bit g of GROUP_MASK is set or a source other than GROUP is in it. -/
def groupBusy (s : State) (i : Nat) : Bool :=
  s.trg.records.any (fun r => decide (s.time.rc64 < r.holdEnd)
      && (bit r.groupMask (i / 16) || decide ((r.src ||| r.mergedSrc) / 2 ≠ 0)))
    || !s.trg.strobes.isEmpty || s.bbl.windows.any (fun w => w.frozenAt.isNone)

/-- Peak ÷ RMS of the last frame is below `HOLD_CREST` ÷ 16 (R49).  DESIGN CHOICE, log entry 108: the peak is taken over
every sample of the frame, the RMS over those that carry no CLAMP, OVR, SETTLE or LINE, and the condition holds where no
frame is held. -/
def crestLow (s : State) (i : Nat) : Bool :=
  let fs := (inputOf s i).frames.take (arcLength s)
  let n := (fs.map FrameSum.count).sum
  let sq := (fs.map FrameSum.sumSq).sum
  let h := lv s Obj.AFE_ARC.HOLD_CREST
  match fs with
  | [] => true
  | f :: _ => decide (f.peak * f.peak * n * 256 < h * h * sq)

/-- `MIN_GAP` frames have passed since the last change (R49). -/
def gapPassed (s : State) (i m : Nat) : Bool :=
  match (inputOf s i).changeFrame with
  | none => true
  | some f => decide (f + lv s Obj.AFE_ARC.MIN_GAP ≤ m)

/-- A range change takes effect at frame boundary m (R51): the code, CHANGE_COUNT, and what SETTLE and later windows
are formed from. -/
def applyRange (s : State) (i m code : Nat) : State :=
  setInput (bump (wr s Obj.AFE_STATUS.RANGE i code) Obj.AFE_STATUS.CHANGE_COUNT i 1) i
    (fun x => { x with pending := none, deferred := 0, forced := false, changeFrame := some m,
                       rangeBefore := rd s Obj.AFE_STATUS.RANGE i })

/-- The range part of frame boundary m for input i (R49, R50): a written code at once; a pending one when its
conditions hold or it is forced, else one more deferred frame. -/
def frameRange (s : State) (i m : Nat) : State :=
  if lv s Obj.AFE_INPUT.ARC i = 0 then
    (if rd s Obj.AFE_INPUT.RANGE i = rd s Obj.AFE_STATUS.RANGE i then
       setInput s i (fun x => { x with pending := none, deferred := 0, forced := false })
     else applyRange s i m (rd s Obj.AFE_INPUT.RANGE i))
  else
    match (inputOf s i).pending with
    | none => s
    | some c =>
      if (inputOf s i).forced || (gapPassed s i m && !groupBusy s i && crestLow s i) then applyRange s i m c
      else setInput s i (fun x => { x with deferred := x.deferred + 1 })

/-- What an interval that begins takes over: `PROBE_REF` of the input and `PROBE_LIMITS` (R66). -/
def probeLatch (s : State) (i : Nat) : State :=
  Obj.PROBE_LIMITS.fields.foldl (fun t f => setLive t f i (rd t f)) (latch s Obj.PROBE_REF.fields i)

/-- The probe starts afresh: 10 µA, and 64 kΩ or the feedback that `TIA` names (R52, R53). -/
def probeStart (s : State) (i : Nat) : State :=
  let t := rd s Obj.PROBE_CFG.TIA i
  setInput (probeLatch s i) i (fun x => { x with probe :=
    ⟨flag s Obj.PROBE_CFG.ENABLE i, 10, if t = 0 then 4 else t, false, 0, 0⟩ })

/-- The probe of an input is enabled, by `AFE_INPUT.ENABLE` or by `PROBE_CFG.ENABLE`: it starts, and `PROBE_RESULT` holds
its defaults, with `CLASS` NONE, until its first interval completes (R54). -/
def probeEnabled (s : State) (i : Nat) : State :=
  wr (Obj.PROBE_RESULT.fields.foldl (fun t f => wr t f i (f.resetAt i)) (probeStart s i)) Obj.AFE_STATUS.PROBE_CLASS i 5

/-- A write of `PROBE_CFG` (R65): a probe that stands still starts where the write enables it; one that runs takes the
write at its next interval. -/
def probeCfgWrite (s : State) (i : Nat) : State :=
  if flag s Obj.PROBE_CFG.ENABLE i && !(inputOf s i).probe.running && decide (lineState s i ≠ 3)
      && !bit s.afe.sweepMask i then probeEnabled s i
  else s

/-- The enable part of frame boundary m (R57, R62): `ENABLE` = 0 disables, `ENABLE` = 1 brings a disabled input back to
NORMAL with LINE up to boundary m + 1. -/
def frameEnable (s : State) (i m : Nat) : State :=
  if flag s Obj.AFE_INPUT.ENABLE i then
    (if lineState s i = 3 then
       probeEnabled (setInput (wr s Obj.AFE_STATUS.LINE_STATE i 0) i
         (fun x => { x with lineUntil := some (m + 1), collapseRun := 0, lastCollapsed := false })) i
     else s)
  else
    (if lineState s i = 3 then s
     else setInput (wr s Obj.AFE_STATUS.LINE_STATE i 3) i
       (fun x => { x with pending := none, deferred := 0, forced := false, lineUntil := none,
                          probe := { x.probe with running := false } }))

/-- LINE clears at the first frame boundary after NORMAL was reached (R57). -/
def frameLine (s : State) (i m : Nat) : State :=
  match (inputOf s i).lineUntil with
  | some b => if b ≤ m then setInput s i (fun x => { x with lineUntil := none }) else s
  | none => s

/-- The frame in progress ends and joins the last 1,024. -/
def frameClose (s : State) (i : Nat) : State :=
  setInput s i (fun x =>
    { x with frames := (x.cur :: x.frames).take 1024, cur := FrameSum.empty (rd s Obj.AFE_STATUS.RANGE i) })

/-- Frame boundary m for input i: the frame closes where converters run, ENABLE, LINE, `FORCE_LINE` and `ARC` take
effect, then the range, which the frame that begins is taken at (R49, R50, R56, R57, R62). -/
def afeFrame (s : State) (m i : Nat) : State :=
  let s1 := frameLine (frameEnable (if cnvOn s then frameClose s i else s) i m) i m
  let s2 := frameRange (latch s1 [Obj.AFE_INPUT.ARC, Obj.AFE_INPUT.FORCE_LINE] i) i m
  showLine (setInput s2 i (fun x => { x with cur := { x.cur with range := rd s2 Obj.AFE_STATUS.RANGE i } })) i

/-- A change of `AFE_ARC` takes effect at the next evaluation, at an SPX that is a multiple of the present L (R63). -/
def arcBoundary (s : State) (m : Nat) : State := if m % arcLength s = 0 then latch s Obj.AFE_ARC.fields 0 else s

/-- RANGE_FORCED (R49): at the 64th deferred frame the change is applied at the next boundary whatever holds;
FORCED_COUNT rises and fault 0x0108 is raised. -/
def execRangeForced (i : Fin 256) (s : State) : Host.Outcome State Fault Refusal :=
  if (inputOf s i).pending.isSome && !(inputOf s i).forced && decide (64 ≤ (inputOf s i).deferred) then
    .next (raise (bumpSat (setInput s i (fun x => { x with forced := true })) Obj.AFE_STATUS.FORCED_COUNT i 1)
      0x0108 i i 0)
  else .next s

/-- SETTLE marks sample n of input i: the first 40 samples after a range change (R51). -/
def settleMarked (s : State) (i n : Nat) : Bool :=
  match (inputOf s i).changeFrame with
  | some m => decide (2048 * m ≤ n) && decide (n < 2048 * m + 40)
  | none => false

/-! ### The line probe (R52 to R54) -/

/-- Z_L as an exact fraction: numerators and denominator, in units of 0.125 Ω ÷ 256; the denominator is 0 where
Z_m = Z_T. -/
structure ZLine where
  re : Int
  im : Int
  den : Int
  deriving DecidableEq, Repr

/-- Z_L = Z_T × Z_m ÷ (Z_T − Z_m) (R54). -/
def zLine (i : Nat) (r : ProbeReading) : ZLine :=
  let a := 256 * Config.probeTermRe i
  let b := 256 * Config.probeTermIm i
  let nr := a * r.zRe - b * r.zIm
  let ni := a * r.zIm + b * r.zRe
  let dr := a - r.zRe
  let di := b - r.zIm
  ⟨nr * dr + ni * di, ni * dr - nr * di, dr * dr + di * di⟩

/-- A part of Z_L in 0.125 Ω, rounded to nearest with halves away from zero (DESIGN CHOICE, log entry 13: the spec gives
no rounding). -/
def zRounded (x den : Int) : Int :=
  if x < 0 then -((-2 * x + 256 * den) / (512 * den)) else (2 * x + 256 * den) / (512 * den)

/-- A part of Z_L in its int16 field, saturated (R54, R66). -/
def zField (x den : Int) : Int := clampInt (-32768) 32767 (zRounded x den)

/-- Z_L saturates its field. -/
def zSaturates (z : ZLine) : Bool :=
  decide (zField z.re z.den ≠ zRounded z.re z.den) || decide (zField z.im z.den ≠ zRounded z.im z.den)

/-- |Z_L|² over the squared denominator. -/
def zSq (z : ZLine) : Int := z.re * z.re + z.im * z.im

/-- |Z_L| < ohm, and |Z_L| > ohm. -/
def zBelow (z : ZLine) (ohm : Nat) : Bool := decide (zSq z < ((ohm : Int) * 2048 * z.den) ^ 2)
def zAbove (z : ZLine) (ohm : Nat) : Bool := decide (((ohm : Int) * 2048 * z.den) ^ 2 < zSq z)

/-- Re(Z_L) < `REACT_FRAC` ÷ 16 × |Z_L|. -/
def zReactive (z : ZLine) (frac : Nat) : Bool :=
  decide (z.re < 0) || decide ((16 * z.re) ^ 2 < (frac : Int) ^ 2 * zSq z)

/-- |Z_L − Z_ref| > `DRIFT_PCT` % × |Z_ref|. -/
def zDrifts (s : State) (i : Nat) (z : ZLine) : Bool :=
  let p := toInt 16 (lv s Obj.PROBE_REF.REF_RE i)
  let q := toInt 16 (lv s Obj.PROBE_REF.REF_IM i)
  let dr := z.re - 256 * p * z.den
  let di := z.im - 256 * q * z.den
  decide (((lv s Obj.PROBE_LIMITS.DRIFT_PCT i : Nat) : Int) ^ 2 * (p * p + q * q) * (256 * z.den) ^ 2
    < 10000 * (dr * dr + di * di))

/-- The replica's current is out of tolerance (rule 2 of R54). -/
def sourceFault (s : State) (i : Nat) (r : ProbeReading) : Bool :=
  let cmd := 1000 * (inputOf s i).probe.ampl
  decide (2 * lv s Obj.PROBE_LIMITS.SRC_TOL i * cmd < 100 * ((r.replicaNa : Int) - (cmd : Int)).natAbs)
    || decide (500 < r.phaseCentideg.natAbs)

/-- Rules 3 to 8 of R54 on an impedance, with the intervals in a row that met the drift condition before it: the class,
and whether it meets that condition. -/
def lineClass (s : State) (i : Nat) (z : ZLine) (drift : Nat) : Nat × Bool :=
  if z.den = 0 then (1, false)
  else if zBelow z (lv s Obj.PROBE_LIMITS.SHORT_OHM i) then (2, false)
  else if zReactive z (lv s Obj.PROBE_LIMITS.REACT_FRAC i) then (if z.im < 0 then 1 else 2, false)
  else if zAbove z (lv s Obj.PROBE_LIMITS.OPEN_OHM i) || zSaturates z then (1, false)
  else if zDrifts s i z then
    (if lv s Obj.PROBE_LIMITS.DRIFT_CONFIRM i ≤ drift + 1 then 3 else 0, true)
  else (0, false)

/-- The class of an interval (R54): 0 OK, 1 OPEN, 2 SHORT, 3 DRIFT, 4 SOURCE-FAULT, 5 NONE; and whether it met the
drift condition. -/
def classify (s : State) (i : Nat) (r : ProbeReading) : Nat × Bool :=
  let p := (inputOf s i).probe
  if p.clamped || decide (r.tiaEnd < p.tia) then (5, false)
  else if sourceFault s i r then (4, false)
  else lineClass s i (zLine i r) p.drift

/-- The largest amplitude in µA that delivers at most 0.1 µW into Re(Z_m), and at most a cap (R53). -/
def amplWithin (cap : Nat) (r : ProbeReading) : Nat :=
  if r.zRe ≤ 0 then cap else min cap (isqrt (409600000 / r.zRe.toNat))

/-- The amplitude of the next interval under `AMPL` (R53). -/
def nextAmpl (s : State) (i : Nat) (r : ProbeReading) : Nat := amplWithin (rd s Obj.PROBE_CFG.AMPL i) r

/-- Full scale of a feedback code in µV peak (R52). -/
def tiaFullScale : Nat → Nat
  | 1 => 400000 | 2 => 100000 | 3 => 25000 | _ => 6250

/-- The feedback of the next interval (R52): the named one, or the largest whose 90 % of full scale lies above the
expected line amplitude, else 1 kΩ. -/
def nextTia (s : State) (i : Nat) (r : ProbeReading) (ampl : Nat) : Nat :=
  if rd s Obj.PROBE_CFG.TIA i ≠ 0 then rd s Obj.PROBE_CFG.TIA i
  else
    let v2 := ampl * ampl * (r.zRe * r.zRe + r.zIm * r.zIm).toNat * 100
    match [4, 3, 2].find? (fun c => decide (v2 < (9 * tiaFullScale c * 2048) ^ 2)) with
    | some c => c
    | none => 1

/-- Store the result of an interval in `PROBE_RESULT` and `AFE_STATUS.PROBE_CLASS` (R54, R66).  Where Z_m = Z_T the
quotient is not stated: its two parts are free values. -/
def storeResult (s : State) (i : Nat) (r : ProbeReading) (cls : Nat) (clean : Bool) : State :=
  let z := zLine i r
  let f := drawFree s
  let g := drawFree f.2
  let re := if z.den = 0 then f.1 else ofInt 16 (zField z.re z.den)
  let im := if z.den = 0 then g.1 else ofInt 16 (zField z.im z.den)
  let s0 := if z.den = 0 then g.2 else s
  let s1 := wr (wr (wr (wr (wr (wr s0 Obj.PROBE_RESULT.Z_RE i re) Obj.PROBE_RESULT.Z_IM i im)
    Obj.PROBE_RESULT.CLASS i cls) Obj.PROBE_RESULT.TIA_USED i (min r.tiaEnd (inputOf s i).probe.tia))
    Obj.PROBE_RESULT.AMPL_USED i (inputOf s i).probe.ampl) Obj.PROBE_RESULT.RESULT_TIME i (ts96Now s)
  let s2 := wr s1 Obj.AFE_STATUS.PROBE_CLASS i cls
  if clean then wr s2 Obj.PROBE_RESULT.LAST_OK i (ts96Now s) else s2

/-- The drift and source counts of an interval with their faults 0x0105 and 0x0106 (R54, R60).  DESIGN CHOICE, log entry
107: an interval classed NONE or SOURCE-FAULT leaves the run of drift intervals standing, and one classed NONE the run of
SOURCE-FAULT intervals.  Any interval that reports OK ends the condition of 0x0105. -/
def probeCounts (s : State) (i cls : Nat) (drift : Bool) : State :=
  let p := (inputOf s i).probe
  if cls = 5 then s
  else if cls = 4 then
    let s1 := setInput s i (fun x => { x with probe := { x.probe with source := p.source + 1 } })
    if p.source + 1 = 3 then raise s1 0x0106 i i 0 else s1
  else
    let s1 := endFault (setInput s i (fun x => { x with probe :=
      { x.probe with source := 0, drift := if drift then p.drift + 1 else 0 } })) 0x0106 i
    if cls = 3 then raise s1 0x0105 i i 0
    else if cls = 0 then endFault s1 0x0105 i else s1

/-- The line state after an interval (R57, R58). -/
def probeLine (s : State) (i cls : Nat) (clean : Bool) : State :=
  let x := inputOf s i
  let openShort := decide (cls = 1 ∨ cls = 2)
  match lineState s i with
  | 0 => if openShort then lineFault s i 0 cls else s
  | 1 =>
    if openShort && !x.classKnown then
      updateFault (setInput s i (fun y => { y with classKnown := true })) 0x0103 i (lineDetail s i 0 cls)
    else if clean && !x.lastCollapsed then
      setInput (wr s Obj.AFE_STATUS.LINE_STATE i 2) i (fun y => { y with okRun := 1, winRun := 0 })
    else s
  | 2 =>
    if openShort then lineFault s i 0 cls
    else if clean then lineRecovered (setInput s i (fun y => { y with okRun := y.okRun + 1 })) i
    else if cls = 0 ∨ cls = 3 then setInput s i (fun y => { y with okRun := 0 })
    else s
  | _ => s

/-- The next interval begins under the present `PROBE_CFG` (R52, R53, R65). -/
def probeNext (s : State) (i : Nat) (r : ProbeReading) : State :=
  let a := nextAmpl s i r
  setInput (probeLatch s i) i (fun x => { x with probe :=
    { x.probe with running := flag s Obj.PROBE_CFG.ENABLE i, ampl := a, tia := nextTia s i r a, clamped := false } })

/-- PROBE_INTERVAL_END (R52 to R58): the interval is classified, its result stored, its counts and the line state
follow, and the next interval is set up. -/
def execProbeIntervalEnd (i : Fin 256) (r : ProbeReading) (s : State) : Host.Outcome State Fault Refusal :=
  if cnvOn s && (inputOf s i).probe.running && decide (lineState s i ≠ 3) && !bit s.afe.sweepMask i then
    let c := classify s i r
    let clean := decide (c.1 = 0) && !c.2
    .next (probeNext (probeLine (probeCounts (storeResult s i r c.1 clean) i c.1 c.2) i c.1 clean) i r)
  else .next s

/-! ### The sweep (R386) -/

/-- The inputs of a mask, ascending. -/
def maskInputs (mask : Nat) : List Nat := (List.range 256).filter (bit mask)

/-- A point of the sweep begins: nothing summed yet. -/
def sweepPoint (mask freq : Nat) : Sweep := ⟨freq, 0, (maskInputs mask).map (fun i => ⟨i, 0, 0, 1, 0, 0⟩)⟩

/-- The background probes of the inputs stop, and the sweep begins as a probe does after its enable, at 10 µA and 64 kΩ
or the feedback that `TIA` names (R52, R53, R386). -/
def sweepBegin (s : State) (mask freq : Nat) : State :=
  let s1 := (maskInputs mask).foldl (fun t i =>
    let tia := rd t Obj.PROBE_CFG.TIA i
    setInput t i (fun x => { x with probe := ⟨false, 10, if tia = 0 then 4 else tia, false, 0, 0⟩ })) s
  { s1 with afe := { s1.afe with sweepMask := mask, sweep := some (sweepPoint mask freq) } }

/-- The sweep ends: the background probes resume with their `PROBE_CFG`. -/
def sweepEnds (s : State) : State :=
  let s1 := (maskInputs s.afe.sweepMask).foldl probeStart s
  { s1 with afe := { s1.afe with sweepMask := 0, sweep := none } }

/-- An interval of the sweep on one input: one that gave a verdict joins the sum, but the settling one does not. -/
def sweepSum (s : State) (settling : Bool) (a : SweepSum) (r : ProbeReading) : SweepSum :=
  let c := classify s a.input r
  let z := zLine a.input r
  if settling || decide (4 ≤ c.1) then a
  else { a with re := a.re * z.den + z.re * a.den, im := a.im * z.den + z.im * a.den, den := a.den * z.den,
                count := a.count + 1, drift := if c.2 then a.drift + 1 else 0 }

/-- The next interval of the sweep on one input, under the amplitude limit of R53. -/
def sweepNext (s : State) (cap i : Nat) (r : ProbeReading) : State :=
  let a := amplWithin cap r
  setInput (probeLatch s i) i (fun x =>
    { x with probe := { x.probe with ampl := a, tia := nextTia s i r a, clamped := false } })

/-- The 8 bytes of an input in the record of a point (R386): the mean Z_L under R54; where no interval gave a verdict,
or the mean has no value, Z_L is a free value. -/
def sweepBytes (s : State) (a : SweepSum) (r : ProbeReading) : Bytes × State :=
  let z : ZLine := ⟨a.re, a.im, a.den * (a.count : Int)⟩
  let p := (inputOf s a.input).probe
  let cls := if a.count = 0 then 5 else (lineClass s a.input z (a.drift - 1)).1
  let f := drawFree s
  let g := drawFree f.2
  let open0 := decide (z.den = 0)
  ([a.input, cls, min r.tiaEnd p.tia, p.ampl % 256]
    ++ leBytes 2 (if open0 then f.1 else ofInt 16 (zField z.re z.den))
    ++ leBytes 2 (if open0 then g.1 else ofInt 16 (zField z.im z.den)), if open0 then g.2 else s)

/-! ### RMS collapse (R56) -/

/-- 10^(j ÷ 20) × 2³², to nearest, for j = 0 to 19. -/
def halfDbPowers : List Nat :=
  [4294967296, 4819032567, 5407043472, 6066802559, 6807064429, 7637651909, 8569586390, 9615234075, 10788470075,
   12104862517, 13581879131, 15239119029, 17098572778, 19184914199, 21525827776, 24152376009, 27099411597,
   30406039913, 34116137904, 38278936318]

/-- The weight that refers the power of a converter sample to the input, by range code: the inverse of the gain of R47
relative to the greatest gain, in units of 2^-32 (DESIGN CHOICE, log entry 14: its number format is not given). -/
def inverseGain (code : Nat) : Nat :=
  let q := (60 - gainOf code).toNat
  nth halfDbPowers (q % 20) 0 * 10 ^ (q / 20)

/-- The input-referred power of the last 64 frames. -/
def windowPower (s : State) (i : Nat) : Nat :=
  (((inputOf s i).frames.take 64).map (fun f => f.sumAll * inverseGain f.range)).sum

/-- The window is whole: the converters delivered every sample of its 64 frames. -/
def windowWhole (s : State) (i : Nat) : Bool :=
  let fs := (inputOf s i).frames.take 64
  decide (fs.length = 64) && fs.all (fun f => decide (f.total = 2048))

/-- More than half of the samples of the window carry CLAMP, OVR or SETTLE. -/
def windowSkipped (s : State) (i : Nat) : Bool :=
  let fs := (inputOf s i).frames.take 64
  decide (1024 * fs.length < (fs.map FrameSum.flagged).sum)

/-- The window's power lies more than `RMS_DROP` dB below the reference, the mean of the stored windows. -/
def windowCollapsed (s : State) (i : Nat) : Bool :=
  let ref := (inputOf s i).refWindows
  decide ((windowPower s i * ref.length) ^ 10 * 10 ^ lv s Obj.PROBE_LIMITS.RMS_DROP i < ref.sum ^ 10)

/-- RMS_WINDOW_END (R56, R57): a skipped window, or one that the converters did not deliver whole, changes nothing; a
collapsed one counts, the 15th in a row declares a
collapse in NORMAL and any one breaks RECOVERING; any other ends the run, feeds the reference in NORMAL, and counts
toward NORMAL in RECOVERING. -/
def execRmsWindowEnd (i : Fin 256) (s : State) : Host.Outcome State Fault Refusal :=
  if cnvOn s && decide (lineState s i ≠ 3) && decide (spxNow s % 64 = 0) then
    if !windowWhole s i || windowSkipped s i then .next s
    else if windowCollapsed s i then
      let n := (inputOf s i).collapseRun + 1
      let s1 := setInput s i (fun x => { x with collapseRun := n, lastCollapsed := true })
      if lineState s i = 2 then .next (lineFault s1 i 1 5)
      else if lineState s i = 0 ∧ n = 15 then .next (lineFault s1 i 1 5)
      else .next s1
    else
      let p := windowPower s i
      let s1 := setInput s i (fun x =>
        { x with collapseRun := 0, lastCollapsed := false,
                 refWindows := if lineState s i = 0 then (p :: x.refWindows).take 1024 else x.refWindows })
      if lineState s i = 2 then
        .next (lineRecovered (setInput s1 i (fun x => { x with winRun := x.winRun + 1 })) i)
      else .next s1
  else .next s

end Sys2Proof.Machine
end

