-- ==== Sys2Proof/Machine/ModeOps.lean ====
section
/-! DEFINITION. Requests for a mode: which waits, which runs, how a request ends (R28, R31, R42, R401, R402). -/

namespace Sys2Proof.Machine

/-- Change the mode machine. -/
def setModes (s : State) (f : Modes → Modes) : State := { s with modes := f s.modes }

/-- The MODE notice of a request that ends (R401, R402). -/
def modeNotice (s : State) (r : ModeReq) (fromMode aim : Mode) (reason status duration : Nat) : State :=
  notice s (.mode fromMode.code aim.code reason status r.seq r.mailbox duration)

/-- A transition listed in the mode state table (R27, R28). -/
def transitionListed (src dst : Mode) : Bool :=
  match src, dst with
  | .idle, .idle => false
  | .idle, _ => true
  | .vigil, .watch | .watch, .vigil => true
  | .watch, .survey | .survey, .watch => true
  | .image, .survey | .survey, .image => true
  | .beam, .survey | .survey, .beam => true
  | .recovery, _ => false
  | .dormant, _ => false
  | _, .idle => true
  | _, _ => false

/-- The request is for the mode that is already current, which completes at once and does nothing; in Peer a changed
`PEER_WATCH` makes it a real transition (R28). -/
def sameMode (s : State) (r : ModeReq) : Bool :=
  decide (modeOf s = r.target) && (r.target != .peer || r.watch == s.modes.peerWatch)

/-- A request reaches CHECK: its transition runs from now on (R30); an entry to Dormant or Vigil is registered with
Snowdrop (R422). -/
def beginCheck (s : State) (r : ModeReq) : State :=
  let s1 := wr (setPhase s .check) Obj.MODE_STATE.TARGET 0 r.target.code
  let s2 := setModes s1 (fun m =>
    { m with running := some r, startedAt := s.time.rc64, reason := r.cause, status := 0, calConverged := false,
             drainOver := false, abortStep := 0 })
  if r.target = .dormant ∨ r.target = .vigil then setAon s2 (fun a => { a with entryAt := some s.time.rc64 }) else s2

/-- No transition runs any more; the request that waits reaches CHECK (R31). -/
def nextRequest (s : State) : State :=
  let s1 := setAon (setModes (setPhase s .steady) (fun m => { m with running := none, reason := 0, status := 0 }))
    (fun a => { a with entryAt := none })
  let s2 := wr s1 Obj.MODE_STATE.TARGET 0 (rd s1 Obj.MODE_STATE.CURRENT)
  match s.modes.waiting with
  | some w => beginCheck (setModes (wr s2 Obj.MODE_STATE.PENDING 0 15) (fun m => { m with waiting := none })) w
  | none => s2

/-- The running transition ends in a mode (R30, R43, R402): STEADY, its status, count and duration, its notice; the
request that waits reaches CHECK (R31). -/
def finishTransition (s : State) (aim : Mode) : State :=
  let r := s.modes.running.getD ⟨aim, false, false, false, 0, 0, 0⟩
  let ticks := s.time.rc64 - s.modes.startedAt
  let reason := if s.modes.status ≠ 0 ∧ s.modes.reason = 0 then 1 else s.modes.reason
  let s1 := modeNotice s r (modeOf s) aim reason s.modes.status (ticks / 1600)
  let s2 := wr (wr s1 Obj.MODE_STATE.CURRENT 0 aim.code) Obj.MODE_STATE.LAST_STATUS 0 s.modes.status
  nextRequest (wr (bump s2 Obj.MODE_STATE.COUNT 0 1) Obj.MODE_STATE.LAST_TIME 0 (min 65535 (ticks / 16000)))

/-- The running request is refused in CHECK, and the mode stays (R28, R30).  It is a finished transition: COUNT,
LAST_STATUS and LAST_TIME tell of it (DEDUCED, log entry 123). -/
def refuseTransition (s : State) (status : Nat) : State :=
  finishTransition (setModes s (fun m => { m with status := status })) (modeOf s)

/-- An accepted request (R31, R39, R42): it goes to CHECK, or waits behind the running transition, in place of one that
already waited and now completes with SUPERSEDED; domains that power down and that it wants wait as PENDING-UP. -/
def requestMode (s : State) (r : ModeReq) : State :=
  if phaseOf s = .steady then beginCheck s r
  else
    let s1 := match s.modes.waiting with
      | some w => unmarkWaiting (modeNotice s w (modeOf s) w.target 2 0x0012 0)
      | none => s
    markWaiting (setModes (wr s1 Obj.MODE_STATE.PENDING 0 r.target.code) (fun m => { m with waiting := some r }))

end Sys2Proof.Machine
end

