-- ==== Sys2Proof/Machine/AxrelOps.lean ====
section
/-! DEFINITION. Axrel: forms of ports, frames of the sender, credits, a port that goes down, group cabling
(R189 to R191, R294 to R323, `14_axrel_links.md`). -/

namespace Sys2Proof.Machine

/-! ### Links, ports, forms -/

/-- Change link l. -/
def setLink (s : State) (l : Nat) (f : AxLink → AxLink) : State :=
  { s with axl := { s.axl with links := upd s.axl.links l f } }

/-- Change the port whose lowest link is p. -/
def setAxPort (s : State) (p : Nat) (f : AxPort → AxPort) : State :=
  { s with axl := { s.axl with ports := upd s.axl.ports p f } }

/-- Link l. -/
def linkOf (s : State) (l : Nat) : AxLink := nth s.axl.links l AxLink.atBoot

/-- The port whose lowest link is p. -/
def axPortOf (s : State) (p : Nat) : AxPort := nth s.axl.ports p AxPort.atBoot

/-- `AXL_LINK_STATUS.STATE`. -/
def linkState (s : State) (l : Nat) : Nat := rd s Obj.AXL_LINK_STATUS.STATE l

/-- Enter a link state. -/
def setLinkState (s : State) (l st : Nat) : State :=
  setLink (wr s Obj.AXL_LINK_STATUS.STATE l st) l (fun x => { x with since := s.time.rc64 })

/-- The mode that Axrel serves: the target of a running transition past its check, else the present mode. -/
def axrelMode (s : State) : Mode :=
  match s.modes.running with
  | some r => if phaseOf s = .up ∨ phaseOf s = .start ∨ phaseOf s = .peerSync then r.target else modeOf s
  | none => modeOf s

/-- The mode has Axrel on or on demand (R29). -/
def Mode.usesAxrel : Mode → Bool
  | .idle | .watch | .survey | .peer | .concentrate | .test | .recovery => true
  | .dormant | .vigil | .image | .beam | .calibrate => false

/-- The geometry of the group is Cluster-16 (R185). -/
def cluster16 (s : State) : Bool :=
  match s.modes.running with
  | some r => if r.target = .peer then r.cluster16 else s.modes.cluster16
  | none => s.modes.cluster16

/-- The member number (R185). -/
def memberNo (s : State) : Nat := if cluster16 s then s.ctl.chipId % 16 else s.ctl.chipId % 4

/-- The members of the group (R185). -/
def memberCount (s : State) : Nat := if cluster16 s then 16 else 4

/-- Wide port w carries peer data in the geometry (R190, R191). -/
def peerPort (s : State) (w : Nat) : Bool := if cluster16 s then decide (w < 4) else decide (w < 3)

/-- Wide port w runs in bonded form (R189). -/
def bondedForm (s : State) (w : Nat) : Bool :=
  decide (axrelMode s = .peer) && peerPort s w && !bit (lv s Obj.PEER_CFG.SPLIT_PORTS) w

/-- The lowest link of the port of link l. -/
def portOfLink (s : State) (l : Nat) : Nat := if bondedForm s (l / 4) then l / 4 * 4 else l

/-- The links of the port whose lowest link is p. -/
def linksOfPort (s : State) (p : Nat) : List Nat :=
  if bondedForm s (p / 4) then [p / 4 * 4, p / 4 * 4 + 1, p / 4 * 4 + 2, p / 4 * 4 + 3] else [p]

/-- The lane bits of link l in the map of its port (R299). -/
def laneBits (s : State) (l : Nat) : Nat := if bondedForm s (l / 4) then 3 * 4 ^ (l % 4) else 3

/-- The lane index of data lane d of link l in its port. -/
def laneIndex (s : State) (l d : Nat) : Nat := if bondedForm s (l / 4) then 2 * (l % 4) + d else d

/-- Link l is enabled (`AXL_PORT`). -/
def linkEnabled (s : State) (l : Nat) : Bool :=
  flag s Obj.AXL_PORT.ENABLE (l / 4) && bit (rd s Obj.AXL_PORT.LINK_EN (l / 4)) (l % 4)

/-- The map of a port with every lane of its enabled links. -/
def fullMap (s : State) (p : Nat) : Nat :=
  (linksOfPort s p).foldl (fun m l => if linkEnabled s l then m ||| laneBits s l else m) 0

/-- The port whose lowest link is p carries frames. -/
def portUp (s : State) (p : Nat) : Bool := flag s Obj.AXL_PORT_STATUS.UP p

/-- A loopback runs on a link of the port, which then carries no messages; it runs only in Test (R321). -/
def portLooped (s : State) (p : Nat) : Bool :=
  decide (modeOf s = .test) && (linksOfPort s p).any (fun l => flag s Obj.AXL_TEST.LOOP l)

/-- The lowest links of the ports of wide port w that are up and carry messages. -/
def upPortsOf (s : State) (w : Nat) : List Nat :=
  ((if bondedForm s w then [4 * w] else [4 * w, 4 * w + 1, 4 * w + 2, 4 * w + 3])).filter
    (fun p => portUp s p && !portLooped s p)

/-- The port is restricted to message types 7 and 8 (R305). -/
def portRestricted (s : State) (p : Nat) : Bool := flag s Obj.AXL_LINK_STATUS.RESTRICTED p

/-- DETAIL of an Axrel fault (R448): A the link and lane, B the two maps. -/
def raiseAxrel (s : State) (code inst l d : Nat) : State :=
  raise s code inst (l + 16 * d)
    (rd s Obj.AXL_PORT_STATUS.TX_MAP (portOfLink s l) + 256 * rd s Obj.AXL_PORT_STATUS.RX_MAP (portOfLink s l))

/-! ### Cabling of a group (R190, R191) -/

/-- The member at the far end of wide port w, seen from member m, and the wide port there. -/
def cabled (s : State) (m w : Nat) : Nat × Nat :=
  if cluster16 s then
    let x := m % 4
    let y := m / 4
    match w with
    | 0 => ((x + 1) % 4 + 4 * y, 1)
    | 1 => ((x + 3) % 4 + 4 * y, 0)
    | 2 => (x + 4 * ((y + 1) % 4), 3)
    | _ => (x + 4 * ((y + 3) % 4), 2)
  else ((m + w + 1) % 4, 2 - w)

/-- The `CHIPID` of member m of this device's group. -/
def chipOfMember (s : State) (m : Nat) : Nat := if cluster16 s then m else s.ctl.chipId % 16 / 4 * 4 + m

/-- One step of a torus dimension from coordinate a toward b (R191): true goes the + way. -/
def plusWay (a b : Nat) : Bool :=
  let d := (b + 4 - a) % 4
  if d = 2 then decide (a % 2 = 0) else decide (d = 1)

/-- Some link of wide port w is up. -/
def wideUp (s : State) (w : Nat) : Bool := !(upPortsOf s w).isEmpty

/-- A wide port is down for what belongs to a group: from the first group after it went down (R203). -/
def wideDown (s : State) (w g : Nat) : Bool :=
  !wideUp s w && (decide (mapGet s.peer.downAt w = 0) || decide (0 ≤ spxDist g (mapGet s.peer.downAt w - 1)))

/-- The wide port toward a member (R190, R191); in Cluster-16 the other way round the ring where that port is `closed`
(R203). -/
def routeBy (s : State) (closed : Nat → Bool) (dst : Nat) : Nat :=
  let m := memberNo s
  if cluster16 s then
    let pick (plus : Bool) (base : Nat) : Nat :=
      let w := if plus then base else base + 1
      if closed w then (if plus then base + 1 else base) else w
    if m % 4 ≠ dst % 4 then pick (plusWay (m % 4) (dst % 4)) 0
    else pick (plusWay (m / 4) (dst / 4)) 2
  else (dst + 4 - m + 3) % 4

/-- The wide port of a control message toward a member. -/
def routeTo (s : State) (dst : Nat) : Nat := routeBy s (fun w => !wideUp s w) dst

/-- The wide port of a peer packet of GSPX g toward a member; a packet that came by a port does not go back there, so that
one sent the other way round a broken ring goes on that way (R203). -/
def packetRoute (s : State) (g : Nat) (came : Option Nat) (dst : Nat) : Nat :=
  routeBy s (fun w => wideDown s w g || came == some w) dst

/-! ### The sender (R307 to R312) -/

/-- The credit units of a payload of n bytes in one frame: ⌈NBLK ÷ 8⌉. -/
def unitsOf (n : Nat) : Nat := ((n + 7) / 8 + 7) / 8

/-- The credit units of a whole message. -/
def messageUnits (n : Nat) : Nat := n / 2048 * 32 + unitsOf (n % 2048)

/-- The bytes of a frame on the wire (R307): the start block, the payload blocks, the EOF block. -/
def AxFrame.wire (f : AxFrame) : Bytes :=
  let nblk := (f.bytes.length + 7) / 8
  let head := [f.vc + (if f.first then 4 else 0) + (if f.last then 8 else 0) + 16 * f.ty] ++ leBytes 2 f.seq
    ++ [nblk % 256, 8 * nblk - f.bytes.length, 0, 0]
  let body := padTo (8 * nblk) f.bytes
  [if f.express then 0x2D else 0x1E] ++ head ++ body ++ [0x33, 0, 0, 0] ++ leBytes 4 (crc32c (head ++ body))

/-- Cut a message into frames of at most 2,048 bytes (R308); `fuel` bounds their number. -/
def cutMessage : Nat → Nat → Nat → Bool → Bytes → List AxFrame
  | 0, _, _, _, _ => []
  | fuel + 1, ty, vc, first, b =>
    if b.length ≤ 2048 then [⟨0, ty, vc, first, true, ty == 3, b, 0⟩]
    else ⟨0, ty, vc, first, false, false, b.take 2048, 0⟩ :: cutMessage fuel ty vc false (b.drop 2048)

/-- The virtual channel of a message type (R308). -/
def vcOf (ty : Nat) : Nat :=
  match ty with
  | 1 => 1 | 4 | 5 => 2 | 8 | 9 => 3 | _ => 0

/-- The next frame that may leave: an express frame, then VC0, then VC1 to VC3 in turn, each with credit. -/
def nextFrame (p : AxPort) : Option AxFrame :=
  let can (vc : Nat) : Option AxFrame :=
    match p.ready.find? (fun f => f.vc == vc) with
    | some f => if unitsOf f.bytes.length ≤ nth p.credit vc 0 then some f else none
    | none => none
  let express := match p.ready.find? (fun f => f.express) with
    | some f => if unitsOf f.bytes.length ≤ nth p.credit 0 0 then some f else none
    | none => none
  let order := [0, p.turn % 3 + 1, (p.turn + 1) % 3 + 1, (p.turn + 2) % 3 + 1]
  match express with
  | some f => some f
  | none => order.findSome? can

/-- Send what may be sent; `fuel` bounds the number of frames. -/
def pumpFrames : Nat → State → Nat → State
  | 0, s, _ => s
  | fuel + 1, s, p =>
    let port := axPortOf s p
    if !portUp s p || port.lpi || decide (port.window ≤ port.unacked.length) then s
    else
      match nextFrame port with
      | none => s
      | some f =>
        let g := { f with seq := port.txSeq }
        let s1 := setAxPort s p (fun x =>
          { x with txSeq := (x.txSeq + 1) % 4096, unacked := x.unacked ++ [g],
                   ready := x.ready.erase f, turn := if f.vc = 0 then x.turn else f.vc,
                   credit := upd x.credit f.vc (fun c => c - unitsOf f.bytes.length),
                   lastBusy := s.time.rc64 })
        pumpFrames fuel (bump (emit s1 (.axFrame p g.wire)) Obj.AXL_PORT_STATUS.FRAMES p 1) p

/-- The packet that wide port w sends next: the one of the earliest GSPX (R200); of two such, an own and a forwarded one
take turns (R191). -/
def nextSend (s : State) (w : Nat) : Option PeerSend :=
  let here := s.peer.sends.filter (fun x => x.port == w)
  let least := here.filter (fun x => here.all (fun y => decide (spxDist x.gspx y.gspx ≤ 0)))
  match least.find? (fun x => x.own == bit s.peer.turns w) with
  | some x => some x
  | none => least.head?

/-- Peer packets that wait for the bonded port p follow one at a time, each once the port can send it (R200); `fuel`
bounds them. -/
def pumpPeer : Nat → State → Nat → State
  | 0, s, _ => s
  | fuel + 1, s, p =>
    if bondedForm s (p / 4) && portUp s p && (axPortOf s p).ready.all (fun f => f.ty != 1) then
      match nextSend s (p / 4) with
      | some r =>
        let s1 := setAxPort { s with peer := { s.peer with sends := s.peer.sends.erase r,
                                                           turns := setBit s.peer.turns (p / 4) (!r.own) } } p (fun x =>
          { x with ready := x.ready ++ cutMessage (r.bytes.length + 1) 1 1 true r.bytes })
        let s2 := pumpFrames 128 s1 p
        if (axPortOf s2 p).ready.any (fun f => f.ty == 1 && f.first) then s else pumpPeer fuel s2 p
      | none => s
    else s

/-- Send what the window and the credit allow. -/
def pump (s : State) (p : Nat) : State := pumpPeer 64 (pumpFrames 128 s p) p

/-- Hand a message to the port whose lowest link is p; a port that is down, looped back or restricted takes none but
types 7 and 8 (R305, R318, R321). -/
def axPost (s : State) (p ty : Nat) (b : Bytes) : State :=
  if portUp s p && !portLooped s p && (!portRestricted s p || ty == 8) then
    pump (setAxPort s p (fun x => { x with ready := x.ready ++ cutMessage (b.length + 1) ty (vcOf ty) true b })) p
  else if ty = 3 then bump s Obj.AXL_PORT_STATUS.DISCARDED p 1
  else s

/-- The firmware interface version, major × 256 + minor: 3.1, and 0 while the boot ROM runs (status page, R303). -/
def ronecVersion (s : State) : Nat := if s.ctl.ronecUp then 0x0301 else 0

/-- The capability record of link l (R303). -/
def capabilityBytes (s : State) (l : Nat) : Bytes :=
  let bonded := bondedForm s (l / 4)
  [0x41, 0x58, 0x43, 0x50, 1, 2 ^ ((linkOf s l).maxRate + 1) - 1, s.ctl.chipId % 16, l, ronecVersion s / 256,
   ronecVersion s % 256, 7,
   (axrelMode s).code]
    ++ leBytes 2 (linkOf s l).retry ++ [0, 0]
    ++ leBytes 2 64 ++ leBytes 2 (if bonded then 4096 else 1024) ++ leBytes 2 1024 ++ leBytes 2 256
    ++ [b2n bonded] ++ List.replicate 7 0

/-! ### A link and a port that go down (R317, R318, R320) -/

/-- Frames of messages whose first frame has left are dropped with it. -/
def wholeMessages (fs : List AxFrame) : List AxFrame :=
  (List.range 4).flatMap (fun vc => (fs.filter (fun f => f.vc == vc)).dropWhile (fun f => !f.first))

/-- The lanes of a link go off: OFF or SLEEP, nothing locked, no clock seen. -/
def linkOff (s : State) (l st : Nat) : State :=
  wr (wr (setLinkState s l st) Obj.AXL_LINK_STATUS.LOCKED l 0) Obj.AXL_LINK_STATUS.CLOCK_OK l 0

/-- The links of a port leave for a state. -/
def linksTo (s : State) (p st : Nat) : State :=
  (linksOfPort s p).foldl (fun t l =>
    if linkState t l ≥ 6 then linkOff t l st else t) s

/-- The link layer of a port ends: retry buffer discarded and counted, partial messages dropped, maps cleared. -/
def portEnd (s : State) (p : Nat) : State :=
  let port := axPortOf s p
  let s1 := bump s Obj.AXL_PORT_STATUS.DISCARDED p port.unacked.length
  let s2 := wr (wr (wr s1 Obj.AXL_PORT_STATUS.UP p 0) Obj.AXL_PORT_STATUS.TX_MAP p 0) Obj.AXL_PORT_STATUS.RX_MAP p 0
  setAxPort s2 p (fun x =>
    { AxPort.atBoot with
      ready := wholeMessages x.ready, queue10 := x.queue10, buffer := x.buffer, lastFrames := x.lastFrames,
      lastResent := x.lastResent, calm := x.calm })

/-- A bonded port with lanes lost raises fault 0x0805: A the member, B the GSPX in [31:0] and the lanes in use in [39:32]
(R202, R448, log entry 112). -/
def peerLanes (s : State) (p : Nat) : State :=
  let m := rd s Obj.AXL_PORT_STATUS.RX_MAP p
  if flag s Obj.AXL_PORT_STATUS.BONDED p && decide (m ≠ fullMap s p) then
    raise s 0x0805 (p / 4) (memberNo s) (toGroupSpx s (spxNow s) + 2 ^ 32 * popCount 8 m)
  else s

/-- A wide port of the group went down: flows go the other way from the next group on (R203). -/
def wideDownNow (s : State) (p : Nat) : State :=
  { s with peer := { s.peer with
      downAt := mapSet s.peer.downAt (p / 4) (1 + (toGroupSpx s (spxNow s) / 64 + 1) * 64 % 2 ^ 32) } }

/-- PORT_DOWN (R318): fault 0x0D03, and 0x0805 for a port of a peer group (R202); the links return to OFF and train
again. -/
def portDown (s : State) (p : Nat) : State :=
  if portUp s p then
    let s1 := raiseAxrel (linksTo (portEnd s p) p 0) 0x0D03 p p 0
    if flag s Obj.AXL_PORT_STATUS.BONDED p then peerLanes (wideDownNow s1 p) p else s1
  else s

/-- A port ends because its last link goes OFF, which is fault 0x0D03 (R318), or to SLEEP, which is none (R320; DEDUCED,
log entry 49). -/
def portGone (s : State) (p st : Nat) : State :=
  if st = 0 then raiseAxrel (portEnd s p) 0x0D03 p p 0 else portEnd s p

/-- The links concerned leave Axrel under R320, to OFF or SLEEP: frames still unacknowledged count in `DISCARDED`. -/
def linkQuiet (s : State) (l st : Nat) : State :=
  let p := portOfLink s l
  let s1 := if linkState s l < 6 then s
    else if portUp s p && (linksOfPort s p).all (fun k => k == l || decide (linkState s k < 6)) then portGone s p st
    else wr (wr s Obj.AXL_PORT_STATUS.RX_MAP p (rd s Obj.AXL_PORT_STATUS.RX_MAP p &&& (255 ^^^ laneBits s l)))
      Obj.AXL_PORT_STATUS.TX_MAP p (rd s Obj.AXL_PORT_STATUS.TX_MAP p &&& (255 ^^^ laneBits s l))
  if linkState s l = 0 ∨ (st = 8 ∧ linkState s l < 6) then s1
  else domDown (setLink (linkOff s1 l st) l (fun x => { x with excluded := false })) 3 (344 + l) 0

/-- A source uses link l in a mode: a message waits for it or on it, the trigger engine sends or receives on its wide
port, fragments are shipped on it, an image is served on it (R320). -/
def linkUsed (s : State) (watches : Bool) (l : Nat) : Bool :=
  let p := portOfLink s l
  let x := axPortOf s p
  let shipped (ship : Nat × Nat) : Bool := decide (2 ≤ ship.1) && decide (4 * ship.2 = l)
  !(x.ready.isEmpty && x.unacked.isEmpty && x.buffer.isEmpty && x.queue10.isEmpty)
    || (watches && (bit (rd s Obj.TRG_AXREL.SEND_PORTS ||| rd s Obj.TRG_AXREL.RECV_PORTS) (l / 4)
        || shipped (rd s Obj.EVT_SHIP.MODE, rd s Obj.EVT_SHIP.PORT)))
    || s.evt.frags.any (fun f => f.state != .released && shipped (f.ship.mode, f.ship.port))
    || bit s.ctl.serveLinks l

/-- A transition takes links out of Axrel (R320): to OFF where the target has none, to SLEEP where it has Axrel on demand
and no source uses the link. -/
def axrelQuiet (s : State) (m : Mode) (watches : Bool) : State :=
  if m.usesAxrel = false then (List.range 16).foldl (fun t l => linkQuiet t l 0) s
  else if m = .peer ∨ m = .concentrate then s
  else (List.range 16).foldl (fun t l => if 6 ≤ linkState t l && !linkUsed t watches l then linkQuiet t l 8 else t) s

/-- The links of the ports whose form changes train again (R189, R304, R305). -/
def axrelForm (s : State) : State :=
  (List.range 4).foldl (fun t w =>
    if bondedForm t w = flag t Obj.AXL_PORT_STATUS.BONDED (4 * w) then t
    else
      let t1 := (List.range 4).foldl (fun u k =>
        let v := if flag u Obj.AXL_PORT_STATUS.UP (4 * w + k) then portGone u (4 * w + k) 0 else u
        let v1 := if linkState v (4 * w + k) = 0 then v else linkOff v (4 * w + k) 0
        setLink v1 (4 * w + k) (fun x => { x with excluded := false })) t
      wr t1 Obj.AXL_PORT_STATUS.BONDED (4 * w) (b2n (bondedForm t w))) s

/-! ### PRBS (R321) -/

/-- Bits per tick of 625 ps at a rate code: 5, 10, 16 or 20. -/
def bitsPerTick (rate : Nat) : Nat :=
  match rate with
  | 0 => 5 | 1 => 10 | 2 => 16 | _ => 20

/-- The PRBS counters of a lane as they stand (R321, `AXL_PRBS`). -/
def prbsSnapshot (s : State) (l d : Nat) : State :=
  if flag s Obj.AXL_PRBS.LOCK (2 * l + d) then
    wr s Obj.AXL_PRBS.BITS (2 * l + d)
      (64 + (s.time.rc64 - nth (linkOf s l).prbsAt d 0) * bitsPerTick (rd s Obj.AXL_LINK_STATUS.RATE l))
  else s

/-- Test is left: generators and checkers stop with the counts reached (R321). -/
def prbsEnds (s : State) : State :=
  (List.range 32).foldl (fun t k => wr (prbsSnapshot t (k / 2) (k % 2)) Obj.AXL_PRBS.LOCK k 0) s

/-! ### Received messages (R280, R312) -/

/-- Messages move from the receive buffer to queue 10 while it has slots, and their units return; `fuel` bounds the
number. -/
def moveIn : Nat → State → Nat → State
  | 0, s, _ => s
  | fuel + 1, s, p =>
    let port := axPortOf s p
    match port.buffer with
    | [] => s
    | m :: rest =>
      if port.queue10.length < 32 then
        moveIn fuel (setAxPort s p (fun x =>
          { x with buffer := rest, queue10 := x.queue10 ++ [m],
                   returned := upd x.returned m.vc (fun r => (r + messageUnits m.bytes.length) % 65536) })) p
      else s

/-- A received message of a type is taken from queue 10 of the port of link l by the row that handles it. -/
def takeMessage (s : State) (l ty : Nat) : State :=
  let p := portOfLink s l
  match takeFirst (fun m => m.ty == ty) (axPortOf s p).queue10 with
  | some r => moveIn 1024 (setAxPort s p (fun x => { x with queue10 := r.2 })) p
  | none => s

end Sys2Proof.Machine
end

