-- ==== Sys2Proof/Machine/Axrel.lean ====
section
/-! DEFINITION. The rows of Axrel: training, capability records, deskew, maps, frames, acknowledgement, credits, low
power, PRBS (R294 to R323, `14_axrel_links.md`). -/

namespace Sys2Proof.Machine

/-! ### Training (R302 to R306) -/

/-- Training of a link starts: it enters CLOCK. -/
def trainLink (s : State) (l : Nat) : State :=
  let s1 := setLink (domUp s 3 (344 + l)) l (fun x =>
    { x with fromSleep := decide (linkState s l = 8), waits := false, maxRate := rd s Obj.AXL_CFG.MAX_RATE,
             retry := rd s Obj.AXL_CFG.RETRY_WINDOW, lpiUs := rd s Obj.AXL_CFG.LPI_IDLE_US })
  setLinkState (emit (bump s1 Obj.AXL_LINK_STATUS.TRAININGS l 1) (.axUnit l 0xAA 0 0)) l 1

/-- LINK_TRAIN_START (R302): an enabled link in a mode that uses Axrel leaves OFF, or SLEEP, for CLOCK. -/
def execLinkTrainStart (l : Fin 16) (s : State) : Host.Outcome State Fault Refusal :=
  if (linkState s l = 0 ∨ linkState s l = 8) ∧ linkEnabled s l ∧ (axrelMode s).usesAxrel
      ∧ (linkOf s l).waits = false then .next (trainLink s l)
  else .next s

/-- PARTNER_CLOCK_STABLE (R302): CLOCK ends; a link that comes from SLEEP to an unchanged partner skips BASE and
EXCHANGE. -/
def execPartnerClockStable (l : Fin 16) (unchanged : Bool) (s : State) : Host.Outcome State Fault Refusal :=
  if linkState s l = 1 then
    let s1 := wr s Obj.AXL_LINK_STATUS.CLOCK_OK l 1
    if (linkOf s l).fromSleep && unchanged && (linkOf s l).partner.isSome then
      .next (if rd s Obj.AXL_LINK_STATUS.RATE l = 0 then
        wr (setLinkState s1 l 5) Obj.AXL_LINK_STATUS.LOCKED l 3 else setLinkState s1 l 4)
    else .next (setLinkState s1 l 2)
  else .next s

/-- BASE_LOCKED (R302, R303): at least one data lane is locked; EXCHANGE sends the capability record. -/
def execBaseLocked (l : Fin 16) (lanes : Fin 4) (s : State) : Host.Outcome State Fault Refusal :=
  if linkState s l = 2 ∧ lanes.val ≠ 0 then
    .next (emit (setLinkState (wr s Obj.AXL_LINK_STATUS.LOCKED l lanes) l 3)
      (.axUnit l 256 (ofLe (capabilityBytes s l)) 0))
  else .next s

/-- CAPABILITY_RECORD_RESEND (R302): every 10 µs in EXCHANGE. -/
def execCapabilityRecordResend (l : Fin 16) (s : State) : Host.Outcome State Fault Refusal :=
  if linkState s l = 3 then .next (emit s (.axUnit l 256 (ofLe (capabilityBytes s l)) 0)) else .next s

/-- The resolved rate: the highest bit set in both RATES fields (R304). -/
def resolveRate (mine theirs : Nat) : Nat :=
  let both := mine &&& theirs
  if bit both 3 then 3 else if bit both 2 then 2 else if bit both 1 then 1 else 0

/-- The rate of a port: that of another of its links which has resolved one and is not left out. -/
def portRate (s : State) (p l : Nat) : Option Nat :=
  ((linksOfPort s p).find? (fun k => k != l && decide (4 ≤ linkState s k) && decide (linkState s k ≤ 7)
    && !(linkOf s k).excluded)).map (fun k => rd s Obj.AXL_LINK_STATUS.RATE k)

/-- The partner and link checks of R305: the cabling in Peer, one partner and link numbers 4w′ + k in a bonded port. -/
def partnerRight (s : State) (l : Nat) (r : Bytes) : Bool :=
  let chip := leAt r 6 1 % 16
  let far := leAt r 7 1 % 16
  let w := l / 4
  let cabling :=
    if axrelMode s = .peer ∧ peerPort s w ∧ !bit (lv s Obj.PEER_CFG.SPLIT_PORTS) w then
      let c := cabled s (memberNo s) w
      decide (chip = chipOfMember s c.1) && decide (far / 4 = c.2)
    else true
  let bonded :=
    if bondedForm s w then
      decide (far % 4 = l % 4) && (linksOfPort s (4 * w)).all (fun k =>
        match (linkOf s k).partner with
        | some q => k == l || decide (linkState s k < 4) || (linkOf s k).excluded || decide (leAt q 6 1 % 16 = chip)
        | none => true)
    else true
  cabling && bonded

/-- Both ends advertise the same form (R305). -/
def formRight (s : State) (l : Nat) (r : Bytes) : Bool :=
  decide (leAt r 24 1 % 2 = b2n (bondedForm s (l / 4)))

/-- A transition fails at its present step (R40): fault 0x1009, the device returns to Idle with TRANSITION_FAILED. -/
def failTransition (s : State) (a : Nat) : State :=
  if phaseOf s = .steady then s else raise (forceIdle s 1 0x0011) 0x1009 0 a 0

/-- The fields that a record fills in, with the restriction of R305. -/
def takeRecord (s : State) (l : Nat) (r : Bytes) : State :=
  let ver := leAt r 8 1 * 256 + leAt r 9 1
  let restricted := decide (leAt r 8 1 ≠ ronecVersion s / 256) || decide (axrelMode s = .recovery)
    || decide (leAt r 11 1 % 16 = 11)
  let put (t : State) (f : Field) (v : Nat) : State := wr t f l v
  setLink
    (put (put (put (put (put (put (put s Obj.AXL_LINK_STATUS.RATE
      (resolveRate (2 ^ ((linkOf s l).maxRate + 1) - 1) (leAt r 5 1)))
      Obj.AXL_LINK_STATUS.PARTNER_CHIPID (leAt r 6 1 % 16)) Obj.AXL_LINK_STATUS.PARTNER_LINK (leAt r 7 1 % 16))
      Obj.AXL_LINK_STATUS.PARTNER_MODE (leAt r 11 1 % 16)) Obj.AXL_LINK_STATUS.PARTNER_GEOM (leAt r 10 1 % 8))
      Obj.AXL_LINK_STATUS.PARTNER_RONEC ver) Obj.AXL_LINK_STATUS.RESTRICTED (b2n restricted))
    l (fun x => { x with partner := some r })

/-- The geometry bit that a partner must have in Peer (R303, R305). -/
def geomBit (s : State) : Nat := if cluster16 s then 1 else 0

/-- CAPABILITY_RECORD (R303 to R305): the record resolves rate, retry window and credits; the partner is checked, and a
link that fails is left out of its port with fault 0x0D07. -/
def execCapabilityRecord (l : Fin 16) (record : Bytes) (s : State) : Host.Outcome State Fault Refusal :=
  if linkState s l = 3 ∧ record.length = 32 ∧ leAt record 0 4 = 0x50435841 ∧ leAt record 4 1 = 1 then
    let s1 := takeRecord s l record
    let rate := rd s1 Obj.AXL_LINK_STATUS.RATE l
    let s2 := setLinkState s1 l (if rate = 0 then 5 else 4)
    let partnerBad := !partnerRight s l record
    let formBad := !formRight s l record
    let rateBad := bondedForm s (l.val / 4) &&
      (match portRate s (portOfLink s l) l with
       | some r => decide (r ≠ rate)
       | none => false)
    let s3 :=
      if partnerBad then
        raise (setLink s2 l (fun x => { x with excluded := true })) 0x0D07 l l (leAt record 6 1 + 256 * leAt record 7 1)
      else if formBad then
        raise (setLink s2 l (fun x => { x with excluded := true })) 0x0D07 l l
          (leAt record 24 1 % 2 + 2 * b2n (bondedForm s (l.val / 4)))
      else if rateBad then raiseAxrel (setLink s2 l (fun x => { x with excluded := true })) 0x0D07 l l 0
      else setLink s2 l (fun x => { x with excluded := false })
    let lacks := decide (axrelMode s = .peer) && bondedForm s (l.val / 4)
      && (!bit (leAt record 10 1) (geomBit s) || flag s1 Obj.AXL_LINK_STATUS.RESTRICTED l)
    .next (if lacks then failTransition (raiseAxrel s3 0x0D06 l l 0) l else s3)
  else .next s

/-- SPEED_DONE (R302): the link has relocked at the resolved rate and is LINKED. -/
def execSpeedDone (l : Fin 16) (lanes : Fin 4) (s : State) : Host.Outcome State Fault Refusal :=
  if linkState s l = 4 ∧ lanes.val ≠ 0 then
    .next (setLinkState (wr s Obj.AXL_LINK_STATUS.LOCKED l lanes) l 5)
  else .next s

/-- A receiver asks for a map (R314): the next MAP_ID, and MAPREQ on the port. -/
def requestMap (s : State) (p m : Nat) : State :=
  if m = 0 then portDown s p
  else
    let mid := ((axPortOf s p).mapIdRx + 1) % 16
    emit (setAxPort s p (fun x => { x with mapIdRx := mid, want := some m })) (.axUnit p 0x78 mid m)

/-- The map that a receiver last asked for, or has. -/
def wantedMap (s : State) (p : Nat) : Nat := (axPortOf s p).want.getD (rd s Obj.AXL_PORT_STATUS.RX_MAP p)

/-- The lanes of a port that are locked. -/
def lockedMap (s : State) (p : Nat) : Nat :=
  (linksOfPort s p).foldl (fun m l =>
    if linkState s l ≥ 5 then
      (List.range 2).foldl (fun a d =>
        if bit (rd s Obj.AXL_LINK_STATUS.LOCKED l) d then a ||| 2 ^ laneIndex s l d else a) m
    else m) 0

/-- A link has joined its port: it is UP, and the faults of its absence are over. -/
def linkJoined (s : State) (l : Nat) : State :=
  let s1 := setLink (setLinkState s l 6) l (fun x => { x with fails := 0, excluded := false })
  clearFault (clearFault (endFault s1 0x0D07 l) 0x0D04 l) 0x0D02 l

/-- Fault 0x0D01 clears when every enabled lane is in the receive map; 0x0805 clears once every lane
of the wide port is in (R214). -/
def mapFaults (s : State) (p : Nat) : State :=
  if rd s Obj.AXL_PORT_STATUS.RX_MAP p = fullMap s p then
    let s1 := clearFault s 0x0D01 p
    if (List.range 4).all (fun k => let x := portOfLink s (p / 4 * 4 + k)
        decide (rd s Obj.AXL_PORT_STATUS.RX_MAP x = fullMap s x)) then clearFault s1 0x0805 (p / 4) else s1
  else s

/-- PORT_DESKEW (R300, R302): the linked links of the port are aligned and the port is UP; a bonded port waits for all
its enabled links or 1 ms after the first; a link more than 60 ns late is left out with fault 0x0D07. -/
def execPortDeskew (l : Fin 16) (late : Fin 16) (s : State) : Host.Outcome State Fault Refusal :=
  let p := portOfLink s l
  let ready := (linksOfPort s p).filter (fun k => decide (linkState s k = 5) && !(linkOf s k).excluded)
  let all := (linksOfPort s p).all (fun k => !linkEnabled s k || decide (linkState s k = 5))
  let waited := ready.any (fun k => decide ((linkOf s k).since + 1600000 ≤ s.time.rc64))
  if portUp s p = false ∧ ready ≠ [] ∧ (all ∨ waited) then
    let out := ready.filter (fun k => bit late (k % 4))
    let join := ready.filter (fun k => !bit late (k % 4))
    let s1 := out.foldl (fun t k => raiseAxrel (setLink t k (fun x => { x with excluded := true })) 0x0D07 k k 0) s
    match join with
    | [] => .next s1
    | k0 :: _ =>
      let r := (linkOf s k0).partner.getD []
      let m := join.foldl (fun a k => a ||| laneBits s k) 0
      let s2 := setAxPort s1 p (fun x =>
        { AxPort.atBoot with
          ready := x.ready, queue10 := x.queue10, buffer := x.buffer, lastFrames := x.lastFrames,
          lastResent := x.lastResent, calm := x.calm, lastBusy := s.time.rc64,
          window := min (linkOf s k0).retry (leAt r 12 2),
          credit := [leAt r 16 2, leAt r 18 2, leAt r 20 2, leAt r 22 2] })
      let s3 := wr (wr (wr (wr s2 Obj.AXL_PORT_STATUS.TX_MAP p m) Obj.AXL_PORT_STATUS.RX_MAP p m)
        Obj.AXL_PORT_STATUS.UP p 1) Obj.AXL_PORT_STATUS.BONDED p (b2n (bondedForm s (p / 4)))
      let s4 := endFault (join.foldl linkJoined s3) 0x0D03 p
      let locked := lockedMap s4 p &&& m
      let s5 := if locked = m ∨ locked = 0 then mapFaults s4 p else requestMap s4 p locked
      .next (pump s5 p)
  else .next s

/-- A link returns to OFF and its training waits for the interval (R302). -/
def trainFails (s : State) (l : Nat) : State :=
  let s1 := setLink (wr (wr (setLinkState s l 0) Obj.AXL_LINK_STATUS.LOCKED l 0) Obj.AXL_LINK_STATUS.CLOCK_OK l 0)
    l (fun x => { x with fails := x.fails + 1, waits := true })
  if (linkOf s1 l).fails = 3 then raiseAxrel s1 0x0D04 l l 0 else s1

/-- TRAIN_STEP_OVERRUN (R302): the third failure in a row raises fault 0x0D04. -/
def execTrainStepOverrun (l : Fin 16) (s : State) : Host.Outcome State Fault Refusal :=
  if 1 ≤ linkState s l ∧ (linkState s l ≤ 4 ∨ (linkState s l = 5 ∧ (linkOf s l).excluded = false
      ∧ portUp s (portOfLink s l) = false)) then .next (trainFails s l)
  else .next s

/-- RETRAIN_TIMER (R302): the interval after a failure is over and training restarts. -/
def execRetrainTimer (l : Fin 16) (s : State) : Host.Outcome State Fault Refusal :=
  if (linkOf s l).waits then
    let s1 := setLink s l (fun x => { x with waits := false })
    .next (if linkEnabled s l ∧ (axrelMode s).usesAxrel then trainLink s1 l else s1)
  else .next s

/-! ### Lanes and maps (R300, R314 to R318) -/

/-- LANE_LOCK_LOSS (R314): the lane is unlocked, and the receiver asks for a map without it. -/
def execLaneLockLoss (l : Fin 16) (d : Fin 2) (s : State) : Host.Outcome State Fault Refusal :=
  if 5 ≤ linkState s l ∧ linkState s l ≤ 7 ∧ bit (rd s Obj.AXL_LINK_STATUS.LOCKED l) d then
    let p := portOfLink s l
    let s1 := wr (bump s Obj.AXL_LINK_STATUS.LOCK_LOSSES l 1) Obj.AXL_LINK_STATUS.LOCKED l
      (setBit (rd s Obj.AXL_LINK_STATUS.LOCKED l) d false)
    let s2 := setLink s1 l (fun x => { x with clean := upd x.clean d (fun _ => 0) })
    let m := wantedMap s p
    .next (if portUp s p && bit m (laneIndex s l d) then requestMap s2 p (setBit m (laneIndex s l d) false) else s2)
  else .next s

/-- MAPREQ (R314): the transmitter stripes by the new map; a MAP_ID older than the last applied is ignored, an empty
map takes the port down. -/
def execMapreq (l : Fin 16) (mapId : Fin 16) (map : Fin 256) (s : State) : Host.Outcome State Fault Refusal :=
  let p := portOfLink s l
  let older := match (axPortOf s p).mapIdTx with
    | some i => decide (8 ≤ (mapId.val + 16 - i) % 16)
    | none => false
  if portUp s p && !older then
    if map.val = 0 then .next (portDown s p)
    else
      let old := rd s Obj.AXL_PORT_STATUS.TX_MAP p
      let s1 := emit (setAxPort (wr s Obj.AXL_PORT_STATUS.TX_MAP p map) p (fun x => { x with mapIdTx := some mapId.val }))
        (.axUnit p 0x87 mapId map)
      .next (if old &&& map ≠ old then bump s1 Obj.AXL_PORT_STATUS.SHEDS p 1 else s1)
  else .next s

/-- MAPREQ_RESEND (R314): the request is repeated until its MAP column arrives. -/
def execMapreqResend (l : Fin 16) (s : State) : Host.Outcome State Fault Refusal :=
  let p := portOfLink s l
  match (axPortOf s p).want with
  | some m => .next (emit s (.axUnit p 0x78 (axPortOf s p).mapIdRx m))
  | none => .next s

/-- MAP (R314 to R316): the receiver switches maps; a map that sheds lanes raises fault 0x0D01, links whose lanes come
in are UP. -/
def execMap (l : Fin 16) (mapId : Fin 16) (map : Fin 256) (s : State) : Host.Outcome State Fault Refusal :=
  let p := portOfLink s l
  if portUp s p then
    if map.val = 0 then .next (portDown s p)
    else
      let old := rd s Obj.AXL_PORT_STATUS.RX_MAP p
      let s1 := wr s Obj.AXL_PORT_STATUS.RX_MAP p map
      let s2 := if mapId.val = (axPortOf s p).mapIdRx then setAxPort s1 p (fun x => { x with want := none }) else s1
      let s3 := (linksOfPort s p).foldl (fun t k =>
        if linkState t k = 5 ∧ map.val &&& laneBits s k ≠ 0 then linkJoined t k else t) s2
      let s4 := if old &&& map ≠ old then
          peerLanes (raiseAxrel (bump s3 Obj.AXL_PORT_STATUS.SHEDS p 1) 0x0D01 p l 0) p else s3
      .next (mapFaults s4 p)
  else .next s

/-- AM (R300): an alignment marker arrives on a lane, so the lane is locked; its BIP-8 is checked. -/
def execAm (l : Fin 16) (d : Fin 2) (bipOk : Bool) (s : State) : Host.Outcome State Fault Refusal :=
  if 5 ≤ linkState s l ∧ linkState s l ≤ 7 then
    let s1 := wr s Obj.AXL_LINK_STATUS.LOCKED l (setBit (rd s Obj.AXL_LINK_STATUS.LOCKED l) d true)
    .next (setLink s1 l (fun x =>
      if bipOk then { x with clean := upd x.clean d (fun c => c + 1) }
      else { x with clean := upd x.clean d (fun _ => 0), bip := upd x.bip d (fun b => b + 1) }))
  else .next s

/-- LANE_REJOIN (R315, R316): a lane clean for 4 AM intervals is added back by the same exchange. -/
def execLaneRejoin (l : Fin 16) (d : Fin 2) (s : State) : Host.Outcome State Fault Refusal :=
  let p := portOfLink s l
  let m := wantedMap s p
  if portUp s p ∧ linkEnabled s l ∧ (linkOf s l).excluded = false ∧ bit (rd s Obj.AXL_LINK_STATUS.LOCKED l) d
      ∧ 4 ≤ nth (linkOf s l).clean d 0 ∧ bit m (laneIndex s l d) = false then
    .next (requestMap s p (m ||| 2 ^ laneIndex s l d))
  else .next s

/-- SHED_LANE_READAPTATION (R315): adaptation of an unlocked lane restarts. -/
def execShedLaneReadaptation (l : Fin 16) (d : Fin 2) (s : State) : Host.Outcome State Fault Refusal :=
  if 5 ≤ linkState s l ∧ linkState s l ≤ 7 ∧ bit (rd s Obj.AXL_LINK_STATUS.LOCKED l) d = false then
    .next (setLink (emit s (.drive 1 (2 * l.val + d.val) 1)) l (fun x => { x with clean := upd x.clean d (fun _ => 0) }))
  else .next s

/-- The clock of link l's partner is lost (R317): the link stops its own clock lane and returns to OFF with fault 0x0D02;
its lanes leave the map, and a port without lanes goes down. -/
def clockLoss (s : State) (l : Nat) : State :=
  if flag s Obj.AXL_LINK_STATUS.CLOCK_OK l && decide (2 ≤ linkState s l) && decide (linkState s l ≤ 7) then
    let p := portOfLink s l
    let s1 := wr (wr (setLinkState s l 0) Obj.AXL_LINK_STATUS.CLOCK_OK l 0) Obj.AXL_LINK_STATUS.LOCKED l 0
    let s2 := raiseAxrel (setLink s1 l (fun x => { x with excluded := false, clean := [0, 0] })) 0x0D02 l l 0
    let m := wantedMap s p
    if portUp s p ∧ m &&& laneBits s l ≠ 0 then peerLanes (requestMap s2 p (m &&& (255 ^^^ laneBits s l))) p else s2
  else s

/-- CLOCK_LOSS (R317). -/
def execClockLoss (l : Fin 16) (s : State) : Host.Outcome State Fault Refusal := .next (clockLoss s l)

/-! ### Frames, acknowledgement, credits (R307 to R313) -/

/-- Send NAK, at most once per expected value per 2 µs. -/
def sendNak (s : State) (p : Nat) : State :=
  let port := axPortOf s p
  let again := match port.nak with
    | some n => n.1 == port.expect && decide (s.time.rc64 < n.2 + 3200)
    | none => false
  if again then s
  else emit (setAxPort s p (fun x => { x with nak := some (port.expect, s.time.rc64) })) (.axUnit p 0x55 port.expect 0)

/-- Send ACK with the SEQ of the last frame accepted in order. -/
def sendAck (s : State) (p : Nat) : State :=
  emit (setAxPort s p (fun x => { x with accepted := 0 })) (.axUnit p 0x4B (((axPortOf s p).expect + 4095) % 4096) 0)

/-- The expected SEQ moves past every marked SEQ that follows; `fuel` bounds the number. -/
def pastMarked : Nat → Nat → List Nat → Nat × List Nat
  | 0, e, m => (e, m)
  | fuel + 1, e, m => if m.contains e then pastMarked fuel ((e + 1) % 4096) (m.filter (fun x => x != e)) else (e, m)

/-- The payload of an accepted frame joins its message; a whole message goes to the receive buffer (R308, R311). -/
def acceptPayload (s : State) (p vc ty : Nat) (first last : Bool) (b : Bytes) : State :=
  let old := if first then [] else nth (axPortOf s p).part vc []
  if last then
    moveIn 1024 (setAxPort s p (fun x =>
      { x with part := upd x.part vc (fun _ => []), buffer := x.buffer ++ [⟨ty, vc, old ++ b⟩] })) p
  else setAxPort s p (fun x => { x with part := upd x.part vc (fun _ => old ++ b) })

/-- AXREL_FRAME (R307, R310, R311): a frame is accepted in order, delivered and marked when express, discarded as a
duplicate with ACK, or discarded with NAK. -/
def execAxrelFrame (l : Fin 16) (f : FrameIn) (s : State) : Host.Outcome State Fault Refusal :=
  let p := portOfLink s l
  if portUp s p && !portLooped s p then
    let port := axPortOf s p
    let b1 := leAt f.head 0 1
    let seq := leAt f.head 1 2 % 4096
    let nblk := if leAt f.head 3 1 = 0 then 256 else leAt f.head 3 1
    let good := !f.error && decide (f.payload.length = 8 * nblk) && decide (f.crc = crc32c (f.head ++ f.payload))
    let ahead := (seq + 4096 - port.expect) % 4096
    let data := f.payload.take (8 * nblk - leAt f.head 4 1 % 8)
    if !good then .next (sendNak (bump s Obj.AXL_PORT_STATUS.CRC_ERRORS p 1) p)
    else if port.marked.contains seq ∨ 4096 - port.window ≤ ahead then
      .next (sendAck (bump s Obj.AXL_PORT_STATUS.DUPLICATES p 1) p)
    else if ahead = 0 then
      let e := pastMarked 4096 ((seq + 1) % 4096) port.marked
      let s1 := acceptPayload (setAxPort s p (fun x =>
        { x with expect := e.1, marked := e.2, accepted := x.accepted + 1 }))
        p (b1 % 4) (b1 / 16) (bit b1 2) (bit b1 3) data
      .next (if 8 ≤ port.accepted + 1 then sendAck s1 p else s1)
    else if f.express && decide (ahead < port.window) then
      let s1 := acceptPayload (setAxPort s p (fun x => { x with marked := x.marked ++ [seq], accepted := x.accepted + 1 }))
        p (b1 % 4) (b1 / 16) true true data
      .next (if 8 ≤ port.accepted + 1 then sendAck s1 p else s1)
    else .next (sendNak (bump s Obj.AXL_PORT_STATUS.CRC_ERRORS p 1) p)
  else .next s

/-- ACK (R310): the frames up to its SEQ leave the retry buffer, and waiting frames may go. -/
def execAck (l : Fin 16) (seq : Nat) (s : State) : Host.Outcome State Fault Refusal :=
  let p := portOfLink s l
  let port := axPortOf s p
  if portUp s p && port.unacked.any (fun f => f.seq == seq % 4096) then
    .next (pump (setAxPort s p (fun x =>
      { x with unacked := (x.unacked.dropWhile (fun f => f.seq != seq % 4096)).drop 1, lastBusy := s.time.rc64 })) p)
  else .next s

/-- The sender retransmits from the oldest unacknowledged frame (R310); a frame retransmitted 32 times resets the port
(R313). -/
def retransmit (s : State) (p : Nat) : State :=
  let port := axPortOf s p
  if port.unacked.any (fun f => decide (32 ≤ f.resent)) then portDown s p
  else
    let s1 := setAxPort s p (fun x =>
      { x with unacked := x.unacked.map (fun f => { f with resent := f.resent + 1 }), lastBusy := s.time.rc64 })
    port.unacked.foldl (fun t f => emit t (.axFrame p f.wire))
      (bump s1 Obj.AXL_PORT_STATUS.RETRANSMITTED p port.unacked.length)

/-- NAK (R310). -/
def execNak (l : Fin 16) (seq : Nat) (s : State) : Host.Outcome State Fault Refusal :=
  let p := portOfLink s l
  if portUp s p && !(axPortOf s p).unacked.isEmpty && decide (seq < 4096) then .next (retransmit s p) else .next s

/-- ACK_TIMEOUT (R310): no ACK has advanced while frames are outstanding. -/
def execAckTimeout (l : Fin 16) (s : State) : Host.Outcome State Fault Refusal :=
  let p := portOfLink s l
  if portUp s p && !(axPortOf s p).unacked.isEmpty then .next (retransmit s p) else .next s

/-- CREDIT (R312): the running total gives back the units returned since the last one. -/
def execCredit (l : Fin 16) (vc : Fin 4) (total : Nat) (s : State) : Host.Outcome State Fault Refusal :=
  let p := portOfLink s l
  if portUp s p then
    .next (pump (setAxPort s p (fun x =>
      { x with credit := upd x.credit vc (fun c => c + (total % 65536 + 65536 - nth x.creditSeen vc 0) % 65536),
               creditSeen := upd x.creditSeen vc (fun _ => total % 65536) })) p)
  else .next s

/-- ACK_CREDIT_TIMER (R310, R312): ACK and one CREDIT per VC are sent. -/
def execAckCreditTimer (l : Fin 16) (s : State) : Host.Outcome State Fault Refusal :=
  let p := portOfLink s l
  if portUp s p then
    let s1 := (List.range 4).foldl (fun t vc => emit t (.axUnit p 0x66 vc (nth (axPortOf t p).returned vc 0))) (sendAck s p)
    .next (setAxPort s1 p (fun x => { x with creditSent := x.returned }))
  else .next s

/-! ### Low power (R319) -/

/-- A port that may enter LPI: enabled, no trigger port, no peer data. -/
def lpiAllowed (s : State) (p : Nat) : Bool :=
  let w := p / 4
  flag s Obj.AXL_PORT.LPI_EN w && decide ((linkOf s p).lpiUs ≠ 0)
    && !bit (rd s Obj.TRG_AXREL.SEND_PORTS ||| rd s Obj.TRG_AXREL.RECV_PORTS) w && !bondedForm s w

/-- LPI_ENTRY (R319): after `LPI_IDLE_US` with no frame waiting or unacknowledged and no acknowledgement or credit change
pending. -/
def execLpiEntry (l : Fin 16) (s : State) : Host.Outcome State Fault Refusal :=
  let p := portOfLink s l
  let port := axPortOf s p
  if portUp s p && !port.lpi && lpiAllowed s p && port.ready.isEmpty && port.unacked.isEmpty
      && decide (port.accepted = 0) && decide (port.creditSent = port.returned)
      && decide (port.lastBusy + 1600 * (linkOf s p).lpiUs ≤ s.time.rc64) then
    let s1 := setAxPort (emit s (.axUnit p 0xB4 0 0)) p (fun x => { x with lpi := true })
    .next ((linksOfPort s p).foldl (fun t k => if linkState t k = 6 then setLinkState t k 7 else t) s1)
  else .next s

/-- LPI_REFRESH (R319): 1 µs of IDLE with an AM column. -/
def execLpiRefresh (l : Fin 16) (s : State) : Host.Outcome State Fault Refusal :=
  let p := portOfLink s l
  if (axPortOf s p).lpi then .next (emit (emit s (.axUnit p 0x00 0 0)) (.axUnit p 0x99 0 0)) else .next s

/-- WAKE (R319): a WAKE column ends LPI and the waiting frames follow. -/
def execWake (l : Fin 16) (s : State) : Host.Outcome State Fault Refusal :=
  let p := portOfLink s l
  if (axPortOf s p).lpi then
    let s1 := setAxPort (emit s (.axUnit p 0xCC 0 0)) p (fun x => { x with lpi := false, lastBusy := s.time.rc64 })
    .next (pump ((linksOfPort s p).foldl (fun t k => if linkState t k = 7 then setLinkState t k 6 else t) s1) p)
  else .next s

/-! ### Test (R308, R321, R323) -/

/-- TEST_PAYLOAD (R308): a test payload has arrived on VC3; nothing acts on its free content. -/
def execTestPayload (l : Fin 16) (s : State) : Host.Outcome State Fault Refusal := .next (takeMessage s l 9)

/-- PRBS_CHECKER_LOCK (R321): 64 error-free bits; the checker counts from here. -/
def execPrbsCheckerLock (l : Fin 16) (d : Fin 2) (s : State) : Host.Outcome State Fault Refusal :=
  if modeOf s = .test ∧ flag s Obj.AXL_TEST.PRBS l ∧ flag s Obj.AXL_PRBS.LOCK (2 * l.val + d.val) = false then
    .next (setLink (wr (wr s Obj.AXL_PRBS.LOCK (2 * l.val + d.val) 1) Obj.AXL_PRBS.BITS (2 * l.val + d.val) 64) l
      (fun x => { x with prbsAt := upd x.prbsAt d (fun _ => s.time.rc64) }))
  else .next s

/-- One bit of the next PRBS word is inverted on both lanes of link l (R323); where a loopback brings the pattern back,
the locked checkers count it. -/
def errInject (s : State) (l : Nat) : State :=
  if modeOf s = .test ∧ flag s Obj.AXL_TEST.PRBS l then
    (List.range 2).foldl (fun t d =>
      if flag t Obj.AXL_TEST.LOOP l && flag t Obj.AXL_PRBS.LOCK (2 * l + d) then
        bumpSat t Obj.AXL_PRBS.ERRORS (2 * l + d) 1 else t) (emit s (.drive 2 l 1))
  else s

/-- ERR_INJECT (R323). -/
def execErrInject (l : Fin 16) (s : State) : Host.Outcome State Fault Refusal := .next (errInject s l)

/-! ### Judgements of every second (R322) -/

/-- RETRY_HIGH (R322): above 1 % of frames in the second raises fault 0x0D05, 10 s below 0.1 % clear it. -/
def execRetryHigh (l : Fin 16) (s : State) : Host.Outcome State Fault Refusal :=
  let p := portOfLink s l
  let port := axPortOf s p
  let frames := rd s Obj.AXL_PORT_STATUS.FRAMES p
  let resent := rd s Obj.AXL_PORT_STATUS.RETRANSMITTED p
  let df := (frames + 2 ^ 32 - port.lastFrames) % 2 ^ 32
  let dr := (resent + 2 ^ 32 - port.lastResent) % 2 ^ 32
  let calm := if dr = 0 ∨ 1000 * dr < df then port.calm + 1 else 0
  let s1 := setAxPort s p (fun x => { x with lastFrames := frames, lastResent := resent, calm := calm })
  .next (if df < 100 * dr then raiseAxrel s1 0x0D05 p p 0
    else if 10 ≤ calm then clearFault s1 0x0D05 p else s1)

/-- LANE_ERRORS (R322): more than 100 BIP-8 mismatches on a lane in the second raise fault 0x0D08. -/
def execLaneErrors (l : Fin 16) (d : Fin 2) (s : State) : Host.Outcome State Fault Refusal :=
  let n := nth (linkOf s l).bip d 0
  let s1 := setLink s l (fun x => { x with bip := upd x.bip d (fun _ => 0) })
  .next (if 100 < n then raiseAxrel s1 0x0D08 (2 * l.val + d.val) l d else s1)

end Sys2Proof.Machine
end

