-- ==== Sys2Proof/Machine/Bluebell.lean ====
section
/-! DEFINITION. Bluebell: the ring writer, freeze windows, the Vigil freeze, the deferred digitizer, the hold deadline
(R67 to R91, `04_bluebell_ring_memory.md`). -/

namespace Sys2Proof.Machine

/-- Change Bluebell. -/
def setBbl (s : State) (f : Bluebell → Bluebell) : State := { s with bbl := f s.bbl }

/-- Change the window with a number. -/
def setWindow (s : State) (id : Nat) (f : Window → Window) : State :=
  setBbl s (fun b => { b with windows := updFirst (fun w => w.id == id) f b.windows })

/-- P and Q in force. -/
def winP (s : State) : Nat := lv s Obj.BBL_WINDOW.PRE
def winQ (s : State) : Nat := lv s Obj.BBL_WINDOW.POST

/-- Windows that can be frozen at once: ⌊48 ÷ (P + Q)⌋ (R72). -/
def winMax (s : State) : Nat := 48 / (winP s + winQ s)

/-- Half ticks now: H = 2 × RC64 (R68). -/
def halfNow (s : State) : Nat := 2 * s.time.rc64

/-- The first segment boundary at or after a half tick (R70). -/
def anchor (t : Nat) : Nat := (t + 255) / 256 * 256

/-- Segments that stay free of the windows once each is complete. -/
def freeAfter (s : State) (extra : Nat) : Int :=
  64 - (((s.bbl.windows.map (fun w => w.p + w.q)).sum + extra : Nat) : Int)

/-- Ring segments in the write rotation. -/
def freeSegs (s : State) : Nat := (s.bbl.segs.filter (fun g => g.held.isNone)).length

/-- The freeze credits: the windows that can still be frozen, less the strobes on their way (R72, R126). -/
def creditsLeft (s : State) : Nat := winMax s - (s.bbl.windows.length + s.trg.strobes.length)

/-- Show the windows and the rotation in `BBL_STATUS`, and the freeze credits that they leave (R72). -/
def showBbl (s : State) : State :=
  wr (wr (wr s Obj.BBL_STATUS.FROZEN 0 s.bbl.windows.length) Obj.BBL_STATUS.FREE_SEG 0 (freeSegs s))
    Obj.TRG_STATUS.CREDITS 0 (creditsLeft s)

/-! ### Taking a window (R70 to R75) -/

/-- A new window for a trigger instant (R70): its number, anchor and lengths; nothing is reserved yet. -/
def newWindow (s : State) (t source serial mask : Nat) : Window :=
  ⟨s.bbl.nextId, t, anchor t, winP s, winQ s, true, 0, winQ s, [], none, source, serial, mask, s.evt.vigilRefused, 0,
   false, false, false, 0, 0, 0, 0, [], [], 0, false, false, false, [], 0⟩

/-- A freeze is accepted where 16 segments stay unreserved after it (R72). -/
def freezeFits (s : State) : Bool := decide (16 ≤ freeAfter s (winP s + winQ s))

/-- Accept a freeze: the window joins those in progress. -/
def takeWindow (s : State) (t source serial mask : Nat) : State :=
  showBbl (setBbl s (fun b =>
    { b with windows := b.windows ++ [newWindow s t source serial mask], nextId := (b.nextId + 1) % 65536 }))

/-- FREEZE_STROBE (R70, R72): the oldest strobe of the trigger engine reaches Bluebell with T = 2n; a freeze that would
leave fewer than 16 free segments is refused and counted against its sources. -/
def execFreezeStrobe (s : State) : Host.Outcome State Fault Refusal :=
  match s.trg.strobes with
  | [] => .next s
  | k :: rest =>
    let s1 := { s with trg := { s.trg with strobes := rest } }
    if !s.bbl.writing then .next (showBbl s1)
    else if freezeFits s then .next (takeWindow s1 (2 * k.sample) 0 k.serial 0)
    else
      .next (showBbl ((List.range 6).foldl
        (fun t j => if bit k.src j then bump t Obj.TRG_COUNTS.REFUSED_WINDOW j 1 else t) s1))

/-! ### The writer (R69, R73 to R76) -/

/-- The ring segment written with a tag. -/
def segByTag (segs : List Segment) (tag : Nat) : Option Nat :=
  segs.findIdx? (fun g => g.tag == some tag)

/-- Reserve a ring segment for a window. -/
def holdSeg (s : State) (j id : Nat) : State :=
  setBbl s (fun b => { b with segs := upd b.segs j (fun g => { g with held := some id }) })

/-- Reserve the pre-trigger segments of a window, walking back from B (R73, R74, R75): a segment held already ends the
walk, one not written in this run is taken as it stands and makes the window STALE.  Which ring segments those are the
spec does not say: the model walks back from the last one found (DESIGN CHOICE, log entry 118).  `k` counts the segments
left, `last` is the ring segment taken before. -/
def reservePre : Nat → State → Nat → Nat → Nat → State
  | 0, s, _, _, _ => s
  | k + 1, s, id, tag, last =>
    match (if 256 ≤ tag then segByTag s.bbl.segs (tag - 256) else none) with
    | some j =>
      if (nth s.bbl.segs j ⟨none, none, 0, 0⟩).held.isSome then s
      else
        reservePre k (setWindow (holdSeg s j id) id (fun w => { w with segs := j :: w.segs, pAct := w.pAct + 1 }))
          id (tag - 256) j
    | none =>
      let j := (last + 63) % 64
      if (nth s.bbl.segs j ⟨none, none, 0, 0⟩).held.isSome then s
      else
        reservePre k (setWindow (holdSeg s j id) id (fun w =>
          { w with segs := j :: w.segs, pAct := w.pAct + 1, stale := true })) id (tag - 256) j

/-- Reserve the post-trigger segments of a window that are complete at half tick `h` (R73). -/
def reservePost : Nat → State → Nat → Nat → State
  | 0, s, _, _ => s
  | k + 1, s, id, h =>
    match s.bbl.windows.find? (fun w => w.id == id) with
    | none => s
    | some w =>
      let tag := w.bHt + 256 * (w.q - w.post)
      if w.post = 0 ∨ h ≤ tag then s
      else
        let s1 := match segByTag s.bbl.segs tag with
          | some j =>
            if (nth s.bbl.segs j ⟨none, none, 0, 0⟩).held.isSome then s
            else setWindow (holdSeg s j id) id (fun x => { x with segs := x.segs ++ [j] })
          | none => s
        reservePost k (setWindow s1 id (fun x => { x with post := x.post - 1 })) id h

/-- D(Tj) in 0.1 µs, rounded down: the largest d with d²⁴ × 2^(2Tj − 80) ≤ 6,000²⁴ for Tj above 40 °C in 0.5 °C (R86;
the rounding of the reported value is the model's, log entry 15). -/
def holdDeadline (tj : Int) : Nat :=
  if tj ≤ 80 then 6000
  else
    (List.range 13).foldr
      (fun b d => if (d + 2 ^ b) ^ 24 * 2 ^ (tj - 80).toNat ≤ 6000 ^ 24 then d + 2 ^ b else d) 0

/-- A hold time in ticks exceeds D(Tj) (R86). -/
def holdTooLong (tj : Int) (ticks : Nat) : Bool :=
  if tj ≤ 80 then decide (960000 < ticks) else decide (960000 ^ 24 < ticks ^ 24 * 2 ^ (tj - 80).toNat)

/-- The range boundaries that fall inside a window (R76). -/
def rangeMarks (s : State) (w : Window) : List RangeMark :=
  let start := w.bHt - 256 * w.pAct
  let stop := w.bHt + 256 * w.q
  (List.range 256).filterMap (fun i =>
    match (inputOf s i).changeFrame with
    | some m =>
      if start ≤ 4096 * m ∧ 4096 * m < stop then
        some ⟨i, (4096 * m - start) / 256, (inputOf s i).rangeBefore, rd s Obj.AFE_STATUS.RANGE i⟩
      else none
    | none => none)

/-- The range code of every input just before half tick `stop`: a change that took effect there or later is undone. -/
def rangesAt (s : State) (stop : Nat) : List Nat :=
  (List.range 256).map (fun i =>
    match (inputOf s i).changeFrame with
    | some m => if stop ≤ 4096 * m then (inputOf s i).rangeBefore else rd s Obj.AFE_STATUS.RANGE i
    | none => rd s Obj.AFE_STATUS.RANGE i)

/-- The mask of the inputs whose CLAMP_STICKY is set. -/
def stickyMask (s : State) : Nat :=
  (List.range 256).foldl (fun m i => if flag s Obj.AFE_STATUS.CLAMP_STICKY i then m + 2 ^ i else m) 0

/-- The last post-trigger segment is complete: the window is frozen, its hold time and deadline start, and it records
the marks of its span (R73, R76, R86); outside Vigil from the converter words, in Vigil from the clamp latches. -/
def freezeWindow (s : State) (id : Nat) : State :=
  match s.bbl.windows.find? (fun w => w.id == id) with
  | none => s
  | some w =>
    let held := w.segs.map (fun j => nth s.bbl.segs j ⟨none, none, 0, 0⟩)
    let cm := if modeOf s = .vigil then stickyMask s else held.foldl (fun m g => m ||| g.clampMask) 0
    let lm := held.foldl (fun m g => m ||| g.lineMask) 0
    let s1 := if s.bbl.digOn || decide (modeOf s = .vigil) then s else digitizerUp s
    setWindow s1 id (fun x =>
      { x with frozenAt := some ((w.bHt + 256 * w.q) / 2), deadline := holdDeadline s.bbl.tj, clampMask := cm, lineMask := lm,
               ranges := rangeMarks s w, range0 := rangesAt s (w.bHt + 256 * w.q), tj := s.bbl.tj })

/-- One window at a segment boundary: its reservations, and its freeze when the last of them is made. -/
def windowBoundary (s : State) (id : Nat) : State :=
  match s.bbl.windows.find? (fun w => w.id == id) with
  | none => s
  | some w =>
    if w.frozenAt.isSome || decide (halfNow s < w.bHt) then s
    else
      let last := match segByTag s.bbl.segs w.bHt with
        | some j => j
        | none => (s.bbl.cur + 1) % 64
      let s1 := if w.prePending then
          reservePre w.p (setWindow s id (fun x => { x with prePending := false })) id w.bHt last
        else s
      let s2 := reservePost w.q s1 id (halfNow s)
      match s2.bbl.windows.find? (fun x => x.id == id) with
      | some x => if x.post = 0 then freezeWindow s2 id else s2
      | none => s2

/-- The converted segments of a window that the event stage has taken (R138): those of its fragment; a window without a
fragment in building has none left. -/
def segmentsTaken (s : State) (w : Window) : Nat :=
  match s.evt.frags.find? (fun f => f.windowId == w.id && f.state == .building && f.window.isNone) with
  | some f => f.cells.length
  | none => w.raw.length

/-- The segments in queue 5, from the digitizer to the event stage (R80, R280). -/
def queue5 (s : State) : Nat := ((s.bbl.windows ++ s.bbl.leaving).map (fun w => w.raw.length - segmentsTaken s w)).sum

/-- The segments of the windows that have been read out return to the rotation, one freeze credit each (R80); what queue
5 still holds of them stays there. -/
def returnSegments (s : State) : State :=
  let back := s.bbl.windows.filter (fun w => w.readOut)
  let outIds := back.map (fun w => w.id)
  setBbl s (fun b =>
    { b with windows := b.windows.filter (fun w => !w.readOut),
             leaving := (b.leaving ++ back).filter (fun w => decide (segmentsTaken s w < w.raw.length)),
             segs := b.segs.map (fun g =>
               match g.held with
               | some h => if outIds.contains h then { g with held := none } else g
               | none => g) })

/-- The next unreserved segment after `j` in ascending order (R69). -/
def nextSeg (segs : List Segment) (j : Nat) : Nat :=
  match (List.range 64).find? (fun k => (nth segs ((j + 1 + k) % 64) ⟨none, none, 0, 0⟩).held.isNone) with
  | some k => (j + 1 + k) % 64
  | none => (j + 1) % 64

/-- The writer moves on and records the tag of the segment it starts (R69). -/
def writerMoves (s : State) : State :=
  let n := nextSeg s.bbl.segs s.bbl.cur
  setBbl s (fun b =>
    { b with cur := n, curClamp := 0, curLine := 0,
             segs := upd b.segs n (fun g => { g with tag := some (halfNow s), clampMask := 0, lineMask := 0 }) })

/-- The segment in progress ends with the marks of its interval. -/
def segmentEnds (s : State) : State :=
  setBbl s (fun b =>
    { b with segs := upd b.segs b.cur (fun g => { g with clampMask := b.curClamp, lineMask := b.curLine }) })

/-- T_VMAX or T_HOT for a time `num` ÷ `den` of 600 µs: the largest k with num²⁴ × 2^k ≤ den²⁴, above 40 °C in 0.5 °C
above −40 °C; 0 where the time exceeds 600 µs (R87, R88).  Held at the field's top, 255 (log entry 15). -/
def tempLimit (num den : Nat) : Nat :=
  if den < num then 0
  else
    match ((List.range 96).map (fun j => 95 - j)).find? (fun k => decide (num ^ 24 * 2 ^ k ≤ den ^ 24)) with
    | some k => 160 + k
    | none => 160

/-- T_VMAX of a governor rate and a window (R86, R87): t_need = 1.2 A ÷ rate + 40 µs + (W_max − 1)(P + Q) × 1.6 µs. -/
def tVmax (rate p q : Nat) : Nat :=
  tempLimit (60000 + 200 * rate + 8 * rate * (48 / (p + q) - 1) * (p + q)) (3000 * rate)

/-- T_HOT of a window (R88). -/
def tHot (p q : Nat) : Nat := tempLimit (8 * (48 / (p + q) - 1) * (p + q) + 20) 3000

/-- P and Q as Ronec firmware takes them for T_VMAX: those in force while Bluebell writes, else those of `BBL_WINDOW`,
with which it will start (R75, R87, R91). -/
def nextP (s : State) : Nat := if s.bbl.writing then winP s else rd s Obj.BBL_WINDOW.PRE
def nextQ (s : State) : Nat := if s.bbl.writing then winQ s else rd s Obj.BBL_WINDOW.POST

/-- Compute T_VMAX and T_HOT again (R87, R88). -/
def showVmax (s : State) : State :=
  wr (wr s Obj.BBL_STATUS.T_VMAX 0 (tVmax (rd s Obj.PWR_GOV.RATE) (nextP s) (nextQ s)))
    Obj.BBL_STATUS.T_HOT 0 (tHot (nextP s) (nextQ s))

/-- A held `BBL_WINDOW` takes effect at the first segment boundary at which no window is reserved (R91). -/
def windowConfig (s : State) : State :=
  if s.bbl.windows.isEmpty
      && (Obj.BBL_WINDOW.fields.any (fun f => decide (rd s f ≠ lv s f))) then
    showVmax (latch s Obj.BBL_WINDOW.fields 0)
  else s

/-- SEGMENT_BOUNDARY (R68, R69, R73, R80, R91): at a multiple of 256 half ticks the segment in progress ends, windows
take their segments, read-out windows return theirs, and the writer moves on. -/
def execSegmentBoundary (s : State) : Host.Outcome State Fault Refusal :=
  if s.bbl.writing && decide (s.time.rc64 % 128 = 0) then
    let s1 := segmentEnds s
    let s2 := (s1.bbl.windows.map (fun w => w.id)).foldl windowBoundary s1
    .next (showBbl (writerMoves (windowConfig (returnSegments s2))))
  else .next s

/-! ### Envelope comparators (R77, R78, R89) -/

/-- An input counts toward the analog condition: enabled, and outside Vigil routed to level 2 (R78). -/
def envCounts (s : State) (i : Nat) : Bool :=
  decide (lv s Obj.BBL_ENV.ENABLE i ≠ 0) && (decide (modeOf s = .vigil) || decide (lv s Obj.BBL_ENV.TO_TRG i ≠ 0))

/-- The mask of the inputs whose one-shots are active at this tick (R77). -/
def activeMask (s : State) : Nat :=
  (List.range 256).foldl (fun m i => if s.time.rc64 < mapGet s.bbl.oneShot i then m + 2 ^ i else m) 0

/-- The mask of the inputs that count toward the condition. -/
def countingMask (s : State) : Nat := (List.range 256).foldl (fun m i => if envCounts s i then m + 2 ^ i else m) 0

/-- The condition holds: groups whose number of active counting inputs reaches `GROUP_N`, at least `DEV_N` of them
(R77). -/
def analogCondition (s : State) : Bool :=
  let mask := activeMask s &&& countingMask s
  decide (lv s Obj.BBL_VIGIL.DEV_N ≤
    ((List.range 16).filter (fun g => decide (lv s Obj.BBL_VIGIL.GROUP_N ≤ popCount 16 (bits mask (16 * g) 16)))).length)

/-- A crossing fires the input's one-shot of 10 ns × (STRETCH + 1) (R77); one that is active starts its width anew
(DESIGN CHOICE, log entry 119: the spec does not say). -/
def fireOneShot (s : State) (i : Nat) : State :=
  setBbl s (fun b =>
    { b with oneShot := mapSet b.oneShot i (s.time.rc64 + 16 * (lv s Obj.BBL_VIGIL.STRETCH + 1)) })

/-- The Vigil window that a crossing at half tick `t` merges into: one whose T lies within one window length (R78). -/
def vigilMerge (s : State) (t : Nat) : Option Window :=
  s.bbl.windows.find? (fun w => decide (w.source = 1) && decide (t < w.tHt + 256 * (w.p + w.q)))

/-- Snowdrop asks the governor for the capture wake set at once (R89). -/
def wakeRequest (s : State) : State :=
  if s.bbl.wake = .down then wakeSetUp (setBbl s (fun b => { b with wake := .requested })) else s

/-- The Vigil freeze of R77, the merge of R78, the refusal of R72, at half tick `t` of a crossing; `completes` says that
the crossing completed the condition. -/
def vigilCrossing (s : State) (t : Nat) (completes : Bool) : State :=
  match vigilMerge s (t - lv s Obj.BBL_WINDOW.LAT_ANA) with
  | some w => setWindow s w.id (fun x => { x with merges := satAdd 8 x.merges 1 })
  | none =>
    if !completes then s
    else if freezeFits s then
      let sr := (s.evt.serial + 1) % 2 ^ 40
      let s1 := takeWindow s (t - lv s Obj.BBL_WINDOW.LAT_ANA) 1 sr (activeMask s)
      wakeRequest { s1 with evt := { s1.evt with serial := sr, vigilRefused := 0 } }
    else
      let s1 := bumpSat s Obj.BBL_STATUS.VIGIL_REFUSED 0 1
      { s1 with evt := { s1.evt with vigilRefused := satAdd 16 s1.evt.vigilRefused 1 } }

/-! ### Digitizer (R79 to R82, R86) -/

/-- The window whose conversion is next: the first in the order of freezing that is not converted (R80). -/
def nextWindow (s : State) : Option Window :=
  s.bbl.windows.find? (fun w => w.frozenAt.isSome && !w.readOut && !w.converting)

/-- A domain of the digitizer cycles after a latch-up: its work waits (R452). -/
def digitizerCut (s : State) : Bool := (domRange 48 63).any (domCycling s)

/-- Hold time in 0.1 µs, saturating (R91). -/
def hold01us (ticks : Nat) : Nat := min 65535 (ticks / 160)

/-- WINDOW_CONVERSION_START (R80, R84, R86, R154): the next window's first segment, once the digitizer is on, holds no
other window and has the output credit; a window past its deadline is marked HOLD-EXPIRED with fault 0x0201, one
without tables UNCAL with 0x0207, a STALE one raises 0x0605. -/
def execWindowConversionStart (s : State) : Host.Outcome State Fault Refusal :=
  if s.bbl.digOn && !digitizerCut s && !s.bbl.windows.any (fun w => w.converting) then
    match nextWindow s with
    | none => .next s
    | some w =>
      if !w.credit then .next s
      else
        let ticks := s.time.rc64 - w.frozenAt.getD s.time.rc64
        let tooLong := holdTooLong w.tj ticks
        let uncal := !flag s Obj.BBL_CAL_INFO.VALID
        let s1 := setWindow s w.id (fun x =>
          { x with converting := true, hold := hold01us ticks, holdExpired := tooLong, uncal := uncal })
        let s2 := if tooLong then
            raise (bumpSat s1 Obj.BBL_STATUS.EXPIRED_COUNT 0 1) 0x0201 0 w.id w.tHt else s1
        let s3 := if uncal then raise s2 0x0207 0 w.id w.tHt else s2
        .next (if w.stale then raise s3 0x0605 0 w.serial 1 else s3)
  else .next s

/-- The calibration entry of a cell (R83). -/
def calEntry (s : State) (i c : Nat) : Nat := mapGet s.bbl.table (i * 16384 + c) ^^^ 0x800

/-- A cell is bad: its DT is 0x80 (R82). -/
def badCell (e : Nat) : Bool := decide (bits e 20 8 = 0x80)

/-- Division to nearest, halves away from zero. -/
def divAway (x : Int) (d : Nat) : Int :=
  if 0 ≤ x then (2 * x + d) / (2 * d) else -((-(2 * x) + d) / (2 * d))

/-- The corrected sample of a raw count before saturation (R82). -/
def correctedWide (e raw : Nat) : Int :=
  divAway (((raw : Int) - (bits e 0 12 : Nat)) * (1024 + toInt 8 (bits e 12 8))) 1024

/-- The corrected sample (R82). -/
def correctedSample (e raw : Nat) : Int := clampInt (-2048) 2047 (correctedWide e raw)

/-- A cell is saturated: raw 4,095 or a saturated result; a bad cell never is (R82). -/
def cellSaturated (e raw : Nat) : Bool :=
  !badCell e && (decide (4095 ≤ raw) || decide (correctedWide e raw ≠ correctedSample e raw))

/-- A word of calibration group m of segment j of input i reads with an error response (R83, R240). -/
def groupBad (s : State) (i j m : Nat) : Bool :=
  let at0 := (mapBblBanks (rd s Obj.FST_MAP.MAP)).1 * 262144 + ((i * 64 + j) * 896 + m * 56) / 8
  s.fst.bad.any (fun p => decide (at0 ≤ p.1) && decide (p.1 < at0 + 7))

/-- Saturated cells of one converted ring segment `j`; cells whose calibration group reads with an error are bad, and no
bad cell is saturated (R82, R240). -/
def saturatedIn (s : State) (j : Nat) (raw : List (List Nat)) : Nat :=
  ((List.range 256).map (fun i =>
    ((List.range 256).filter (fun k =>
      !groupBad s i j (k / 16) && cellSaturated (calEntry s i (256 * j + k)) (nth (nth raw i []) k 0))).length)).sum

/-- The digitizer may put a segment into queue 5: it has a credit, and the event stage is on (R16, R17, R80); the
segments of a calibration window go to Ronec firmware. -/
def segmentRoom (s : State) (w : Window) : Bool :=
  decide (w.source = 2) || (decide (queue5 s < queueSlots 5) && (domRange 93 94).all (domOn s))

/-- SEGMENT_CONVERTED (R79, R80, R82): the next segment of the window in conversion delivers its raw counts, once queue 5
has a credit for it. -/
def execSegmentConverted (raw : List (List Nat)) (s : State) : Host.Outcome State Fault Refusal :=
  match s.bbl.windows.find? (fun w => w.converting) with
  | none => .next s
  | some w =>
    if w.raw.length < w.segs.length ∧ digitizerCut s = false ∧ segmentRoom s w then
      let clipped := raw.map (fun r => r.map (fun x => min 4095 x))
      let s1 := setWindow s w.id (fun x =>
        { x with raw := x.raw ++ [clipped],
                 saturated := x.saturated + saturatedIn s (nth w.segs w.raw.length 0) clipped })
      .next (if w.source = 2 then s1 else clockStarts s1 6)
    else .next s

/-- Show a window in `BBL_LAST_WINDOW` (R91). -/
def showWindow (s : State) (w : Window) : State :=
  [(Obj.BBL_LAST_WINDOW.WINDOW_ID, w.id), (Obj.BBL_LAST_WINDOW.P_ACT, w.pAct), (Obj.BBL_LAST_WINDOW.Q, w.q),
   (Obj.BBL_LAST_WINDOW.SOURCE, w.source), (Obj.BBL_LAST_WINDOW.HOLD_EXPIRED, b2n w.holdExpired),
   (Obj.BBL_LAST_WINDOW.STALE, b2n w.stale), (Obj.BBL_LAST_WINDOW.UNCAL, b2n w.uncal),
   (Obj.BBL_LAST_WINDOW.T_HT, w.tHt), (Obj.BBL_LAST_WINDOW.B_HT, w.bHt), (Obj.BBL_LAST_WINDOW.HOLD, w.hold),
   (Obj.BBL_LAST_WINDOW.DEADLINE, w.deadline), (Obj.BBL_LAST_WINDOW.MERGES, w.merges)].foldl
    (fun t p => wr t p.1 0 p.2) s

/-- WINDOW_READOUT_DONE (R80): every segment of the window in conversion has been read out; its segments return at the
next segment boundary. -/
def execWindowReadoutDone (s : State) : Host.Outcome State Fault Refusal :=
  match s.bbl.windows.find? (fun w => w.converting) with
  | none => .next s
  | some w =>
    if w.raw.length = w.segs.length then
      .next (showWindow (setWindow s w.id (fun x => { x with converting := false, readOut := true })) w)
    else .next s

/-- DIGITIZER_IDLE_TIMEOUT (R81): with `KEEP_WARM` = 0, 1 ms after the last conversion the digitizer powers down. -/
def execDigitizerIdleTimeout (s : State) : Host.Outcome State Fault Refusal :=
  if s.bbl.digOn && !flag s Obj.BBL_DIG.KEEP_WARM && s.bbl.windows.isEmpty && decide (modeOf s ≠ .vigil) then
    .next (digitizerDown (setBbl s (fun b => { b with digOn := false })))
  else .next s

/-! ### The capture wake set and the temperature (R85, R88, R89) -/

/-- CAPTURE_WAKE_SET_READY (R89): the governor has ramped the set, it is power-good and the digitizer has settled; the
control pair runs. -/
def execCaptureWakeSetReady (s : State) : Host.Outcome State Fault Refusal :=
  if s.bbl.wake = .requested && upsDone s 1
      && (wakeSet (rd s Obj.FST_MAP.MAP)).all (fun d => domOn s d || s.pwr.barred.contains d) then
    let s1 := setBbl s (fun b => { b with wake := .up, digOn := true })
    .next { s1 with ctl := { s1.ctl with ronecUp := true } }
  else .next s

/-- CAPTURE_LINGER_EXPIRED (R89, R424): no window has been frozen or converted for `LINGER` × 10 µs, or the control pair
that a doorbell or a wake source has powered has been up for as long; outside hot standby Snowdrop powers the set, or
the pair, down. -/
def execCaptureLingerExpired (s : State) : Host.Outcome State Fault Refusal :=
  if s.bbl.windows.isEmpty && !flag s Obj.BBL_STATUS.HOT && decide (modeOf s = .vigil) && decide (phaseOf s = .steady) then
    match s.bbl.wake with
    | .up =>
      let s1 := wakeSetDown (setBbl s (fun b => { b with wake := .down, digOn := false }))
      .next { s1 with ctl := { s1.ctl with ronecUp := false } }
    | .down =>
      if s.ctl.ronecUp then
        let s1 := pairDown s
        .next { s1 with ctl := { s1.ctl with ronecUp := false } }
      else .next s
    | .requested => .next s
  else .next s

/-- Hot standby begins: the wake set is powered and kept, fault 0x0205 is raised (R88). -/
def hotEnter (s : State) : State := raise (wakeRequest (wr s Obj.BBL_STATUS.HOT 0 1)) 0x0205 0 0 0

/-- Hot standby ends (R88). -/
def hotExit (s : State) : State := endFault (wr s Obj.BBL_STATUS.HOT 0 0) 0x0205 0

/-- A request is Ronec firmware's own for Idle with REASON 7. -/
def hotRequest (r : ModeReq) : Bool := r.target == .idle && decide (r.cause = 7)

/-- Tj exceeds T_HOT: the control pair is woken, fault 0x0206 is raised, and Ronec firmware requests Vigil → Idle with
REASON 7, once, queued like a host request (R31, R88). -/
def tooHot (s : State) : State :=
  let s1 := raise (pairUp s) 0x0206 0 0 0
  if s.modes.running.any hotRequest || s.modes.waiting.any hotRequest then s1
  else requestMode s1 ⟨.idle, false, false, false, 7, 0, 0⟩

/-- The Vigil part of a reading (R88). -/
def tjVigil (s : State) : State :=
  let t : Int := s.bbl.tj + 80
  let vmax : Int := (rd s Obj.BBL_STATUS.T_VMAX : Nat)
  let hot : Int := (rd s Obj.BBL_STATUS.T_HOT : Nat)
  let s1 :=
    if flag s Obj.BBL_STATUS.HOT then (if t ≤ vmax - 6 then hotExit s else s)
    else if vmax < t then hotEnter s else s
  if hot < t then tooHot s1 else s1

/-- TJ_SENSOR_READ (R85, R86, R88): Snowdrop's 1 ms reading, in 0.5 °C; within 8 °C of `TJ_CAL` it clears fault
0x0204, and in Vigil it is held against T_VMAX and T_HOT. -/
def execTjSensorRead (tj : Int) (s : State) : Host.Outcome State Fault Refusal :=
  let s1 := setBbl s (fun b => { b with tj := tj })
  let off := (tj - 2 * toInt 8 (rd s Obj.BBL_CAL_INFO.TJ_CAL)).natAbs
  let s2 := if off ≤ 16 then clearFault s1 0x0204 0 else s1
  .next (if modeOf s = .vigil then tjVigil s2 else s2)

/-- CAL_STALE (R85): Tj has differed from `TJ_CAL` by more than 10 °C for more than 60 s.  While `VALID` = 0 there is no
temperature of measurement to differ from, and nothing is raised (DEDUCED, log entry 120). -/
def execCalStale (s : State) : Host.Outcome State Fault Refusal :=
  if flag s Obj.BBL_CAL_INFO.VALID
      && decide (20 < (s.bbl.tj - 2 * toInt 8 (rd s Obj.BBL_CAL_INFO.TJ_CAL)).natAbs) then
    .next (raise s 0x0204 0 0 0)
  else .next s

/-- Bluebell starts to write on entry to a mode that runs it (R75): no segment has been written in this run.  Which ring
segment the writer starts from the spec does not say: it is segment 0 (DESIGN CHOICE, log entry 117). -/
def bblStart (s : State) : State :=
  let s1 := setBbl s (fun b =>
    { b with writing := true, segs := List.replicate 64 ⟨none, none, 0, 0⟩, cur := 0, windows := [], curClamp := 0,
             curLine := 0 })
  showVmax (showBbl (latch s1 Obj.BBL_WINDOW.fields 0))

end Sys2Proof.Machine
end

