-- ==== Sys2Proof/Machine/Directory.lean ====
section
/-! DEFINITION. The directory of objects: their value bytes, the tables, the parts of an object's value that can be
written (R380, R381, R400). -/

namespace Sys2Proof.Machine

/-- Value bytes of the objects of R400 and of the field maps of 0x11NN to 0x14NN, part 0. -/
def objBytes0 : List (Nat × Nat) :=
  [(0x1010, 4), (0x1011, 8), (0x0101, 4), (0x0102, 8), (0x0103, 8), (0x0104, 4), (0x0105, 8), (0x0106, 32),
   (0x0107, 4), (0x0108, 4), (0x0201, 4), (0x0202, 4), (0x0203, 2), (0x0204, 1), (0x0205, 8), (0x0206, 20),
   (0x0207, 32), (0x0301, 4), (0x0302, 8), (0x0303, 20), (0x0401, 4), (0x0402, 4), (0x0403, 256), (0x0404, 12),
   (0x0405, 12), (0x0406, 12), (0x0501, 4), (0x0502, 12), (0x0503, 12), (0x0504, 4), (0x0505, 4), (0x0506, 4),
   (0x0507, 4), (0x0508, 28), (0x0509, 32), (0x050A, 12), (0x0601, 4), (0x0602, 2), (0x0603, 4), (0x0604, 36)]

/-- Value bytes of the objects of R400 and of the field maps of 0x11NN to 0x14NN, part 1. -/
def objBytes1 : List (Nat × Nat) :=
  [(0x0701, 8), (0x0702, 4), (0x0703, 4), (0x0704, 8), (0x0705, 32), (0x0706, 12), (0x0801, 4), (0x0802, 16),
   (0x0803, 16), (0x0804, 12), (0x0805, 8), (0x0806, 8), (0x0807, 4), (0x0808, 32), (0x0901, 4), (0x0902, 40),
   (0x0903, 40), (0x0904, 2), (0x0905, 6), (0x0906, 8), (0x0907, 32), (0x0A05, 16), (0x0A01, 4), (0x0A02, 1),
   (0x0A03, 4), (0x0A04, 16), (0x0A06, 4), (0x0A07, 32), (0x0B01, 4), (0x0B02, 4), (0x0B03, 4), (0x0B04, 32),
   (0x0C01, 4), (0x0C02, 16), (0x0C03, 16), (0x0C04, 16), (0x0C05, 8), (0x0C06, 8), (0x0C07, 20), (0x0C08, 8)]

/-- Value bytes of the objects of R400 and of the field maps of 0x11NN to 0x14NN, part 2. -/
def objBytes2 : List (Nat × Nat) :=
  [(0x0D01, 8), (0x0D02, 4), (0x0D03, 4), (0x0D04, 16), (0x0D05, 32), (0x0D06, 16), (0x0E01, 28), (0x0E02, 8),
   (0x0E03, 16), (0x0E04, 8), (0x0E05, 32), (0x0E06, 32), (0x0E07, 28), (0x0F01, 12), (0x0F02, 66), (0x0F03, 16),
   (0x0F04, 44), (0x1101, 8), (0x1102, 4), (0x1103, 4), (0x1104, 8), (0x1105, 16), (0x1106, 8), (0x1107, 16),
   (0x1401, 8), (0x1402, 12), (0x1403, 28), (0x1404, 4), (0x1201, 4), (0x1202, 8), (0x1203, 8), (0x1204, 16),
   (0x1301, 40), (0x1302, 4), (0x1303, 4), (0x1304, 20)]

/-- Value bytes of an object, ⌈width ÷ 8⌉ (R400). -/
def objBytes (id : Nat) : Nat :=
  (((objBytes0 ++ objBytes1 ++ objBytes2).find? (fun p => p.1 == id)).map Prod.snd).getD 0

/-- The table objects (R400): instances and entries per instance. -/
def tableShape (id : Nat) : Option (Nat × Nat) :=
  match id with
  | 0x0402 => some (256, 1024)
  | 0x0807 => some (1, 65536)
  | 0x0904 => some (256, 1024)
  | 0x0905 => some (128, 256)
  | 0x0A06 => some (1, 1024)
  | _ => none

/-- The object with an id. -/
def objOf (id : Nat) : Option ObjDesc := Obj.all.find? (fun o => o.id == id)

/-- The instances of an object: those of its field map, or of R400 for a table. -/
def ObjDesc.instances (o : ObjDesc) : Nat := ((tableShape o.id).map Prod.fst).getD o.count

/-- The bits of a field in the value of its object. -/
def Field.mask (f : Field) : Nat := (2 ^ f.width - 1) * 2 ^ f.lo

/-- The bits of the fields of some kinds. -/
def kindBits (fs : List Field) (p : FKind → Bool) : Nat :=
  fs.foldl (fun m f => if p f.kind then m ||| f.mask else m) 0

/-- The value of instance i of an object as CFG_READ gives it: reserved and WO bits read 0 (R380). -/
def objValue (s : State) (fs : List Field) (i : Nat) : Nat :=
  fs.foldl (fun n f => if f.kind = .wo then n else n + rd s f i * 2 ^ f.lo) 0

/-- A mask covers some bit of a field. -/
def touches (mask : Nat) (f : Field) : Bool := decide (bits mask f.lo f.width ≠ 0)

/-- A mask covers some bit of some field of a list. -/
def touchesAny (mask : Nat) (fs : List Field) : Bool := fs.any (touches mask)

/-- A field with the masked bits of a value put in place of its own (R381). -/
def merged (s : State) (f : Field) (i value mask : Nat) : Nat :=
  let m := bits mask f.lo f.width
  ((rd s f i ||| m) ^^^ m) ||| (bits value f.lo f.width &&& m)

/-- The RW fields of an object with the masked bits written (R381). -/
def writeRw (s : State) (fs : List Field) (i value mask : Nat) : State :=
  fs.foldl (fun t f => if f.kind = .rw && touches mask f then wr t f i (merged s f i value mask) else t) s

/-- The W1C fields of an object that are written as 1 clear (R381). -/
def clearW1c (s : State) (fs : List Field) (i value mask : Nat) : State :=
  fs.foldl (fun t f => if f.kind = .w1c && touches (value &&& mask) f then
    wr t f i (merged s f i 0 (value &&& mask)) else t) s

/-- The first statuses of an entry for an object that exists, from its map (R381, R12): NOT_PERMITTED for a mask bit over
an RO or RS field, OUT_OF_RANGE for a reserved bit or a field outside its range. -/
def mapStatus (s : State) (o : ObjDesc) (i value mask : Nat) : List Nat :=
  let fixed := kindBits o.fields (fun k => k = .ro || k = .rs)
  let known := kindBits o.fields (fun _ => true)
  [if mask &&& fixed ≠ 0 then 0x0002 else 0,
   if (mask &&& value) &&& ((2 ^ (8 * objBytes o.id) - 1) ^^^ known) ≠ 0 then 0x0001 else 0,
   if o.fields.all (fun f => f.kind ≠ .rw || !touches mask f
        || (decide (f.min ≤ merged s f i value mask) && decide (merged s f i value mask ≤ f.max))) then 0 else 0x0001]

/-- The place of a status in the order of R370. -/
def statusRank (st : Nat) : Nat :=
  match st with
  | 0x0003 => 2 | 0x0005 => 3 | 0x0004 => 5 | 0x0002 => 6 | 0x0001 => 7 | 0x0010 => 8 | 0x0006 => 9 | 0x0007 => 10
  | _ => 11

/-- Of several statuses the first in the order of R370; 0 where all are 0. -/
def firstStatus (l : List Nat) : Nat :=
  l.foldl (fun b st => if st ≠ 0 ∧ (b = 0 ∨ statusRank st < statusRank b) then st else b) 0

/-- A status where a condition holds. -/
def statusIf (c : Bool) (st : Nat) : Nat := if c then st else 0

end Sys2Proof.Machine
end

