-- ==== Sys2Proof/Machine/Coder.lean ====
section
/-! DEFINITION. The fixed-ratio block code: predictors, shifts, layout, and the decoder
(R254 to R261, `12_compression.md`). -/

namespace Sys2Proof.Machine

/-- Block size in bytes of a CODE (R254). -/
def blockBytes (code : Nat) : Nat :=
  match code with
  | 1 => 48 | 2 => 36 | _ => 24

/-- Residual width W of a CODE (R254). -/
def residualWidth (code : Nat) : Nat :=
  match code with
  | 1 => 5 | 2 => 4 | _ => 2

/-- Saturated to 12 bits. -/
def sat12 (x : Int) : Int := clampInt (-2048) 2047 x

/-- The prediction from r[k − 1] and r[k − 2] (R256). -/
def predict (m : Nat) (r1 r2 : Int) : Int :=
  sat12 (match m with
    | 0 => 0
    | 1 => r1
    | 2 => 2 * r1 - r2
    | _ => r1 + (r1 - r2) / 2)

/-- x ÷ 2^S to nearest, halves away from zero (R257). -/
def quantize (x : Int) (shift : Nat) : Int :=
  if 0 ≤ x then (2 * x + (2 ^ shift : Nat)) / (2 * (2 ^ shift : Nat) : Int)
  else -((2 * -x + (2 ^ shift : Nat)) / (2 * (2 ^ shift : Nat) : Int))

/-- Code samples with one shift from the two reconstructed values before: residuals and reconstructed samples, newest
first, or none where a residual does not fit. -/
def codeRun (m w shift : Nat) : List Int → Int → Int → Option (List Int × List Int)
  | [], _, _ => some ([], [])
  | x :: t, r1, r2 =>
    let p := predict m r1 r2
    let q := quantize (x - p) shift
    let r := sat12 (p + q * (2 ^ shift : Nat))
    if -(2 ^ (w - 1) : Nat) ≤ q ∧ q < (2 ^ (w - 1) : Nat) then
      (codeRun m w shift t r r1).map (fun rest => (q :: rest.1, r :: rest.2))
    else none

/-- The smallest shift of 0 to 12 that codes a sub-block (R257). -/
def codeSub (m w : Nat) (xs : List Int) (r1 r2 : Int) : Nat × List Int × List Int :=
  ((List.range 13).findSome? (fun shift => (codeRun m w shift xs r1 r2).map (fun c => (shift, c.1, c.2)))).getD
    (12, [], [])

/-- The last two reconstructed values after a run. -/
def lastTwo (rs : List Int) (r1 r2 : Int) : Int × Int :=
  match rs.reverse with
  | a :: b :: _ => (a, b)
  | [a] => (a, r1)
  | [] => (r1, r2)

/-- A block coded with one predictor: shifts, residuals, reconstructed samples 1 to 63 (R257). -/
def codeWith (m w : Nat) (xs : List Int) : List Nat × List Int × List Int :=
  let x0 := nth xs 0 0
  let subs := [((xs.drop 1).take 15), ((xs.drop 16).take 16), ((xs.drop 32).take 16), ((xs.drop 48).take 16)]
  (subs.foldl (fun (acc : (List Nat × List Int × List Int) × Int × Int) sub =>
    let c := codeSub m w sub acc.2.1 acc.2.2
    let l := lastTwo c.2.2 acc.2.1 acc.2.2
    ((acc.1.1 ++ [c.1], acc.1.2.1 ++ c.2.1, acc.1.2.2 ++ c.2.2), l.1, l.2)) (([], [], []), x0, x0)).1

/-- A coded block: predictor, shifts, residuals. -/
structure CodedBlock where
  pred : Nat
  shifts : List Nat
  q : List Int
  deriving DecidableEq, Repr

/-- The enabled predictor with the lowest cost, a tie to the lower one (R257). -/
def codeBlock (predEn w : Nat) (xs : List Int) : CodedBlock :=
  let all := ((List.range 4).filter (fun m => bit predEn m)).map (fun m => (m, codeWith m w xs))
  match all with
  | [] => ⟨0, [0, 0, 0, 0], []⟩
  | c :: rest =>
    let best := rest.foldl (fun (b : Nat × List Nat × List Int × List Int) x =>
      if x.2.1.sum < b.2.1.sum then x else b) c
    ⟨best.1, best.2.1, best.2.2.1⟩

/-- KIND of a coded block: 0 LOSSLESS where every shift is 0, else 1 LOSSY (R255). -/
def CodedBlock.kind (b : CodedBlock) : Nat := if b.shifts.sum = 0 then 0 else 1

/-- The bytes of a coded block (R255). -/
def CodedBlock.bytes (b : CodedBlock) (code : Nat) (x0 : Int) : Bytes :=
  let w := residualWidth code
  let head := b.kind + 4 * b.pred + 16 * ofInt 12 x0 + 2 ^ 16 * nth b.shifts 0 0 + 2 ^ 20 * nth b.shifts 1 0
    + 2 ^ 24 * nth b.shifts 2 0 + 2 ^ 28 * nth b.shifts 3 0
  let body := (b.q.foldr (fun q acc => ofInt w q + 2 ^ w * acc) 0)
  leBytes (blockBytes code) (head + 2 ^ 32 * body)

/-- A VOID block (R255): KIND 2 and every other bit 0. -/
def voidBlock (code : Nat) : Bytes := leBytes (blockBytes code) 2

/-- The sub-block of sample k. -/
def subBlock (k : Nat) : Nat := k / 16

/-- The reconstructed samples from residuals (R256). -/
def decodeRun (m w n : Nat) (shifts : List Nat) : Nat → Nat → Int → Int → List Int
  | 0, _, _, _ => []
  | fuel + 1, k, r1, r2 =>
    let q := toInt w (n / 2 ^ (32 + (k - 1) * w))
    let r := sat12 (predict m r1 r2 + q * (2 ^ nth shifts (subBlock k) 0 : Nat))
    r :: decodeRun m w n shifts fuel (k + 1) r r1

/-- A block is legal (R255, R261): KIND agrees with the shifts, shifts at most 12, no spare bit set. -/
def blockLegal (code : Nat) (n : Nat) : Bool :=
  let w := residualWidth code
  let shifts := [bits n 16 4, bits n 20 4, bits n 24 4, bits n 28 4]
  match n % 4 with
  | 0 => decide (shifts.sum = 0) && decide (n / 2 ^ (32 + 63 * w) = 0)
  | 1 => decide (shifts.sum ≠ 0) && shifts.all (fun x => decide (x ≤ 12)) && decide (n / 2 ^ (32 + 63 * w) = 0)
  | 2 => shifts.all (fun x => decide (x ≤ 12)) && decide (n / 2 ^ (32 + 63 * w) = 0)
  | _ => false

/-- What the decompressor makes of a block (R261): 64 samples and whether it is void; a format error decodes as VOID. -/
structure DecodedBlock where
  samples : List Int
  void : Bool
  formatError : Bool
  deriving DecidableEq, Repr

/-- Decode a block (R256, R261). -/
def decodeBlock (code : Nat) (b : Bytes) : DecodedBlock :=
  let n := ofLe (b.take (blockBytes code))
  if !blockLegal code n then ⟨List.replicate 64 0, true, true⟩
  else if n % 4 = 2 then ⟨List.replicate 64 0, true, false⟩
  else
    let x0 := toInt 12 (n / 16)
    ⟨x0 :: decodeRun (bits n 2 2) (residualWidth code) n
        [bits n 16 4, bits n 20 4, bits n 24 4, bits n 28 4] 63 1 x0 x0, false, false⟩

end Sys2Proof.Machine
end

