-- ==== Sys2Proof/Machine/Mem.lean ====
section
/-! DEFINITION. The addressed memory of the matrix map (R271): sparse bytes in one canonical form, and byte strings.
A byte that nothing has written reads 0 (DESIGN CHOICE, log entry 3). -/

namespace Sys2Proof.Machine

/-- The byte at an address; 0 where nothing is listed. -/
def memGet : List Host.Cell → Nat → Byte
  | [], _ => 0
  | (k, v) :: t, x => if x = k then v else memGet t x

/-- Drop the cells of an address. -/
def memErase : List Host.Cell → Nat → List Host.Cell
  | [], _ => []
  | (k, v) :: t, x => if x = k then memErase t x else (k, v) :: memErase t x

/-- Put a byte at an address, addresses in rising order. -/
def memInsert : List Host.Cell → Nat → Byte → List Host.Cell
  | [], x, v => [(x, v)]
  | (k, w) :: t, x, v =>
    if x < k then (x, v) :: (k, w) :: t
    else if x = k then (x, v) :: t
    else (k, w) :: memInsert t x v

/-- Write a byte; writing 0 removes the cell. -/
def memSet (m : List Host.Cell) (x : Nat) (v : Byte) : List Host.Cell :=
  if v = 0 then memErase m x else memInsert m x v

/-- Addresses at least `b` and strictly rising, no byte 0. -/
def memWfFrom : Nat → List Host.Cell → Bool
  | _, [] => true
  | b, (k, v) :: t => decide (b ≤ k) && decide (v ≠ 0) && memWfFrom (k + 1) t

/-- The canonical form of memory. -/
def memWf (m : List Host.Cell) : Bool := memWfFrom 0 m

/-- Write a string of bytes from an address up. -/
def memWrite (m : List Host.Cell) : Nat → Bytes → List Host.Cell
  | _, [] => m
  | x, b :: t => memWrite (memSet m x (BitVec.ofNat 8 b)) (x + 1) t

/-- Write those of a string of bytes whose strobe bit is set. -/
def memStrobed (m : List Host.Cell) (x : Nat) (b : Bytes) (strobes len : Nat) : List Host.Cell :=
  (List.range len).foldl (fun t j => if bit strobes j then memSet t (x + j) (BitVec.ofNat 8 (nth b j 0)) else t) m

/-- Read a string of bytes from an address up. -/
def memRead (m : List Host.Cell) (x k : Nat) : Bytes := (List.range k).map (fun j => (memGet m (x + j)).toNat)

/-- Write bytes into the memory of the state. -/
def storeBytes (s : State) (x : Nat) (b : Bytes) : State := { s with mem := memWrite s.mem x b }

/-- Read bytes from the memory of the state. -/
def loadBytes (s : State) (x k : Nat) : Bytes := memRead s.mem x k

/-! ### Words of the field store (R233, R242) -/

/-- The physical address of word k of the field store (R233). -/
def wordAddr (k : Nat) : Nat := 0x0100000000 + 8 * k

/-- The bank of a word. -/
def bankOfWord (k : Nat) : Nat := k / 262144

/-- Words `k` to `k + n − 1` are written whole, with the poison attribute or without (R242). -/
def markWords (s : State) (k n : Nat) (poison : Bool) : State :=
  { s with fst := { s.fst with bad := (List.range n).foldl (fun m j => mapSet m (k + j) (b2n poison)) s.fst.bad } }

/-- With its last bad word gone, the conditions of faults 0x0A02 and 0x0A06 of a bank end (R241, R252). -/
def bankMended (s : State) (n : Nat) : State :=
  if s.fst.bad.any (fun p => bankOfWord p.1 == n) then s else endFault (endFault s 0x0A02 n) 0x0A06 n

/-- Store bytes in whole words of the field store, from word k on. -/
def storeWords (s : State) (k : Nat) (b : Bytes) (poison : Bool) : State :=
  bankMended (markWords (storeBytes s (wordAddr k) b) k (b.length / 8) poison) (bankOfWord k)

end Sys2Proof.Machine
end

