-- ==== Sys2Proof/Machine/MovOps.lean ====
section
/-! DEFINITION. DMA rings: descriptors, buffers, records, completions, errors; errors of the matrix
(R271 to R293, `13_data_movement_and_queues.md`). -/

namespace Sys2Proof.Machine

/-- Change ring r. -/
def setRing (s : State) (r : Nat) (f : DmaRing → DmaRing) : State :=
  { s with mov := { s.mov with rings := upd s.mov.rings r f } }

/-- Ring r. -/
def ringOf (s : State) (r : Nat) : DmaRing := nth s.mov.rings r DmaRing.atBoot

/-- The kind of ring r: 0 OFF, 1 D2H, 2 H2D, 3 NET (R283). -/
def ringKind (s : State) (r : Nat) : Nat := rd s Obj.MOV_RING.KIND r

/-- Descriptors that the device owns: (TAIL − HEAD) mod 65,536 (R285). -/
def ringOwned (s : State) (r : Nat) : Nat :=
  (rd s Obj.MOV_RING_STATUS.TAIL r + 65536 - rd s Obj.MOV_RING_STATUS.HEAD r) % 65536

/-- The ring has not stopped with ERROR. -/
def ringRuns (s : State) (r : Nat) : Bool := decide (ringKind s r ≠ 0) && !flag s Obj.MOV_RING_STATUS.ERROR r

/-- A sticky notice bit of a ring; newly set it signals the ring's vector (R290). -/
def ringBit (s : State) (r : Nat) (f : Field) : State :=
  if flag s f r then s else emit (wr s f r 1) (.msix (rd s Obj.MOV_RING.VECTOR r))

/-- The ring stops with ERROR and fault 0x0C07 (R285). -/
def ringErrorSet (s : State) (r : Nat) : State :=
  if flag s Obj.MOV_RING_STATUS.ERROR r then s
  else raise (ringBit s r Obj.MOV_RING_STATUS.ERROR) 0x0C07 r r (rd s Obj.MOV_RING.BASE r)

/-- The oldest descriptor completes (R284, R287): bytes 16 to 31, then the message. -/
def complete (s : State) (r used records status : Nat) : State :=
  match (ringOf s r).descs with
  | [] => s
  | d :: rest =>
    let head := rd s Obj.MOV_RING_STATUS.HEAD r
    let n := (rd s Obj.MOV_RING_STATUS.COMPLETIONS r + 1) % 2 ^ 32
    let value := used % 2 ^ 32 + records % 65536 * 2 ^ 32 + status * 2 ^ 64 + n % 65536 * 2 ^ 80
    let at16 := rd s Obj.MOV_RING.BASE r + 32 * (head % 2 ^ rd s Obj.MOV_RING.SIZE_LOG r) + 16
    let s1 := emit (setRing s r (fun x => { x with descs := rest, buf := none })) (.hostWrite at16 16 value)
    let s2 := wr (wr s1 Obj.MOV_RING_STATUS.HEAD r (head + 1)) Obj.MOV_RING_STATUS.COMPLETIONS r n
    let s3 := if bit status 3 then ringBit s2 r Obj.MOV_RING_STATUS.POISON else s2
    let news := !flag s3 Obj.MOV_RING_STATUS.DONE_NOTICE r
    let s4 := wr s3 Obj.MOV_RING_STATUS.DONE_NOTICE r 1
    if news || d.irq then emit s4 (.msix (rd s Obj.MOV_RING.VECTOR r)) else s4

/-- The buffer in filling closes (R286). -/
def closeBuffer (s : State) (r : Nat) : State :=
  match (ringOf s r).buf with
  | none => s
  | some b =>
    if b.used = 0 then setRing s r (fun x => { x with buf := none })
    else complete s r b.used b.records (1 + 2 * b2n b.first + 4 * b2n b.last + 8 * b2n b.poison)

/-- The open buffer, or a fresh one on the oldest descriptor. -/
def openBuffer (s : State) (r : Nat) : DmaBuf :=
  (ringOf s r).buf.getD ⟨0, 0, false, false, false, s.time.rc64, false⟩

/-- Write a piece of a record into the open buffer at an offset: the bytes go to host memory, the buffer's account
follows. -/
def writePiece (s : State) (r : Nat) (d : Descriptor) (at0 : Nat) (piece : Bytes) (starts ends poison : Bool) : State :=
  let b := openBuffer s r
  let s1 := emit s (.hostWrite (d.addr + at0) piece.length (ofLe piece))
  let b1 : DmaBuf :=
    { b with used := at0 + piece.length, records := b.records + b2n starts,
             first := if at0 = 0 then starts else b.first, last := ends,
             poison := b.poison || poison,
             openedAt := if b.used = 0 then s.time.rc64 else b.openedAt }
  setRing s1 r (fun x => { x with buf := some b1 })

/-- Write what remains of the oldest record of a ring into its buffers (R286), as far as fetched descriptors reach;
`fuel` bounds the buffers.  The result says whether the record has been written whole. -/
def writeRecord : Nat → State → Nat → DmaRecord → Nat → State × Option Nat
  | 0, s, _, _, done => (s, some done)
  | fuel + 1, s, r, rec, done =>
    match (ringOf s r).descs with
    | [] => (s, some done)
    | d :: _ =>
      let b := openBuffer s r
      let at0 := up8 b.used
      let left := rec.bytes.drop done
      if done = 0 ∧ b.used ≠ 0 ∧ d.len < at0 + left.length then
        writeRecord fuel (closeBuffer s r) r rec done
      else
        let at1 := if done = 0 then at0 else 0
        let piece := left.take (d.len - at1)
        let ends := decide (piece.length = left.length)
        let s1 := writePiece s r d at1 piece (decide (done = 0)) ends rec.poison
        if ends then
          let full := decide (d.len ≤ at1 + piece.length)
          let timeUp := (openBuffer s1 r).timeUp
          let now := !flag s Obj.MOV_RING.PACK r || decide (rd s Obj.MOV_RING.COALESCE_US r = 0)
          (if full || timeUp || now then closeBuffer s1 r else s1, none)
        else writeRecord fuel (closeBuffer s1 r) r rec (done + piece.length)

/-- Records of a kind before the others, each in its order: those of another kind wait (R283). -/
def ofKindFirst (kind : Nat) (q : List DmaRecord) : List DmaRecord :=
  q.filter (fun x => x.kind = kind) ++ q.filter (fun x => x.kind ≠ kind)

/-- Put a record in the queue of a ring: data movement has work (R15). -/
def ringPut (s : State) (r : Nat) (rec : DmaRecord) : State :=
  setRing (clockStarts s 12) r (fun x => { x with queue := ofKindFirst (ringKind s r) (x.queue ++ [rec]) })

/-- Put the bytes of a record of a command in the queue of a D2H ring. -/
def ringSend (s : State) (r : Nat) (b : Bytes) : State := ringPut s r ⟨.plain, b, false, 1⟩

/-- A ring has stopped: a buffer with written bytes completes, prefetched descriptors go back, records wait (R283, R293). -/
def ringHalt (s : State) (r : Nat) : State :=
  setRing (wr (closeBuffer s r) Obj.MOV_RING.KIND r 0) r (fun x =>
    { x with descs := [], buf := none, part := none, stopping := false })

/-- No record is in progress any more: a ring that stops has stopped (R293). -/
def ringSettled (s : State) (r : Nat) : State := if (ringOf s r).stopping then ringHalt s r else s

/-- Host buffers of an H2D ring give `n` bytes: descriptors complete in order with what each gave; the bytes of buffers
whose descriptors have not been fetched yet stay owed; `fuel` bounds the descriptors. -/
def h2dRun : Nat → State → Nat → Nat → State
  | 0, s, _, _ => s
  | fuel + 1, s, r, n =>
    if n = 0 then setRing s r (fun x => { x with part := none })
    else
      match (ringOf s r).descs with
      | [] => setRing s r (fun x => { x with part := some n })
      | d :: _ =>
        if n ≤ d.len then setRing (complete s r n 1 1) r (fun x => { x with part := none })
        else h2dRun fuel (complete s r d.len 1 1) r (n - d.len)

/-- A command takes `n` bytes of an H2D ring (R382, R392 to R394). -/
def h2dTake (s : State) (r n : Nat) : State :=
  let s1 := h2dRun 17 s r (n + (ringOf s r).part.getD 0)
  if (ringOf s1 r).part.isNone then ringSettled s1 r else s1

/-- A ring named by a command has the kind that it needs. -/
def ringIs (s : State) (r kind : Nat) : Bool := decide (r < 64) && decide (ringKind s r = kind)

/-- The ring stops with ERROR (R285); one that was to stop after its record has stopped (R293). -/
def ringError (s : State) (r : Nat) : State := ringSettled (ringErrorSet s r) r

/-- The trailer of R179. -/
def trailed (b : Bytes) : Bytes := b ++ leBytes 4 (crc32c b) ++ [0, 0, 0, 0]

/-- An error of the matrix (R273): `MOV_ERR` captures the first, counts all, and the fault names master and cause. -/
def movError (s : State) (code master cause addr : Nat) : State :=
  let s1 := if flag s Obj.MOV_ERR.VALID then s else
    wr (wr (wr (wr (wr s Obj.MOV_ERR.ADDR 0 addr) Obj.MOV_ERR.MASTER 0 master) Obj.MOV_ERR.CAUSE 0 cause)
      Obj.MOV_ERR.TIME 0 (ts96Now s)) Obj.MOV_ERR.VALID 0 1
  raise (bumpSat s1 Obj.MOV_ERR.COUNT 0 1) code master (master + 16 * cause) addr

/-- KIND = 0 stops a ring after the record in progress; until then `KIND` shows the old kind (R293; DESIGN CHOICE, log
entry 127).  A ring that an ERROR has stopped holds its record and stops at once (R285). -/
def ringStop (s : State) (r : Nat) : State :=
  if (ringOf s r).part.isSome && ringRuns s r then setRing s r (fun x => { x with stopping := true })
  else ringHalt s r

/-- A ring starts with a kind: HEAD = TAIL = 0 and no ERROR (R285). -/
def ringStart (s : State) (r kind : Nat) : State :=
  let s1 := wr (wr (wr (wr s Obj.MOV_RING.KIND r kind) Obj.MOV_RING_STATUS.HEAD r 0) Obj.MOV_RING_STATUS.TAIL r 0)
    Obj.MOV_RING_STATUS.ERROR r 0
  endFault (setRing s1 r (fun x =>
    { x with descs := [], buf := none, part := none, queue := ofKindFirst kind x.queue })) 0x0C07 r

end Sys2Proof.Machine
end

