-- ==== Sys2Proof/Machine/Net.lean ====
section
/-! DEFINITION. The network ports: frame templates, segments, forwarding, the one-step transparent clock, link events
(R341 to R347, `15_time_and_network_ports.md`). -/

namespace Sys2Proof.Machine

/-! ### Building frames (R343, R344) -/

/-- The one's-complement sum of 16-bit words in network order. -/
def onesSum : Bytes → Nat
  | [] => 0
  | [a] => a % 256 * 256
  | a :: b :: t =>
    let x := a % 256 * 256 + b % 256 + onesSum t
    if x < 65536 then x else x - 65535

/-- The Internet checksum of bytes. -/
def inetChecksum (b : Bytes) : Nat := 65535 - onesSum b

/-- Put bytes over a place in a list of bytes. -/
def putBytes (b : Bytes) (o : Nat) (x : Bytes) : Bytes := b.take o ++ x ++ b.drop (o + x.length)

/-- The header bytes that a template holds. -/
def templateHeader (s : State) (t : Nat) : Bytes :=
  leBytes (rd s Obj.NET_TEMPLATE.HDR_LEN t) (rd s Obj.NET_TEMPLATE.HEADER t)

/-- Offset of the IPv4 header: 14 untagged, 18 with one VLAN tag. -/
def ipOffset (hdrLen : Nat) : Nat := if hdrLen = 46 then 18 else 14

/-- Fill in the fields of a UDP/IPv4 header that the device owns, and give the whole frame (R343). -/
def fillUdp (hdr body : Bytes) (ident : Nat) (csum : Bool) : Bytes :=
  let o := ipOffset hdr.length
  let udpLen := 8 + body.length
  let h1 := putBytes (putBytes (putBytes hdr (o + 2) (beBytes 2 (20 + udpLen))) (o + 4) (beBytes 2 ident)) (o + 10) [0, 0]
  let h2 := putBytes h1 (o + 10) (beBytes 2 (inetChecksum ((h1.drop o).take 20)))
  let h3 := putBytes (putBytes h2 (o + 24) (beBytes 2 udpLen)) (o + 26) [0, 0]
  let pseudo := ((h3.drop (o + 12)).take 8) ++ [0, 17] ++ beBytes 2 udpLen ++ h3.drop (o + 20) ++ body
  let c := inetChecksum pseudo
  let h4 := if csum then putBytes h3 (o + 26) (beBytes 2 (if c = 0 then 65535 else c)) else h3
  h4 ++ body

/-- The 16-byte segment header (R344). -/
def segmentHeader (source idx : Nat) (last : Bool) (frameSeq recordSeq offset : Nat) : Bytes :=
  [1, source % 256] ++ leBytes 2 (idx % 32768 + (if last then 32768 else 0)) ++ leBytes 4 frameSeq
    ++ leBytes 4 recordSeq ++ leBytes 4 offset

/-- The segment size of a port, by its `MTU` of the last link training, and a template kind (R344, R349). -/
def segmentSize (s : State) (port template : Nat) : Nat :=
  lv s Obj.NET_PORT.MTU port - (if flag s Obj.NET_TEMPLATE.KIND template then 44 else 16)

/-- Send one segment of a record: the frame leaves, the template's frame count and identification rise. -/
def sendSegment (s : State) (port template source idx : Nat) (last : Bool) (offset : Nat) (seg : Bytes) : State :=
  let fs := mapGet s.net.frameSeq template
  let body := segmentHeader source idx last fs (mapGet s.net.recordSeq template) offset ++ seg
  let hdr := templateHeader s template
  let raw := if flag s Obj.NET_TEMPLATE.KIND template then
      fillUdp hdr body (mapGet s.net.ipId template) (flag s Obj.NET_PORT.UDP_CSUM port)
    else hdr ++ body
  let s1 := emit s (.netFrame port (padTo 60 raw))
  bump { s1 with
    net := { s1.net with
             frameSeq := mapSet s1.net.frameSeq template ((fs + 1) % 2 ^ 32),
             ipId := mapSet s1.net.ipId template ((mapGet s1.net.ipId template + 1) % 65536) } }
    Obj.NET_STATUS.TX_FRAMES port 1

/-- Send the segments of a record in order; `fuel` bounds their number. -/
def sendSegments : Nat → State → Nat → Nat → Nat → Nat → Nat → Nat → Bytes → State
  | 0, s, _, _, _, _, _, _, _ => s
  | fuel + 1, s, port, template, source, size, idx, offset, rest =>
    let last := decide (rest.length ≤ size)
    let s1 := sendSegment s port template source idx last offset (rest.take size)
    if last then s1
    else sendSegments fuel s1 port template source size (idx + 1) (offset + size) (rest.drop size)

/-- Send one record on a template, its frames back to back (R344). -/
def sendRecord (s : State) (port template source : Nat) (rec : Bytes) : State :=
  let s1 := sendSegments (rec.length + 1) s port template source (segmentSize s port template) 0 0 rec
  { s1 with
    net := { s1.net with
             recordSeq := mapSet s1.net.recordSeq template ((mapGet s1.net.recordSeq template + 1) % 2 ^ 32) } }

/-- A port takes frames: its link is up (R342). -/
def netPortUp (s : State) (port : Nat) : Bool := decide (rd s Obj.NET_STATUS.LINK port = 3)

/-- The domains of a network port: PD.NET.0 and 1 of port A, 2 and 3 of port B (R404). -/
def netDoms (port : Nat) : List Nat := [361 + 2 * port, 362 + 2 * port]

/-- The mode has the network ports on demand (R29). -/
def netOnDemand (s : State) : Bool :=
  decide (wantOf s (modeOf s) s.modes.peerWatch (rd s Obj.FST_MAP.MAP) 361 = wantDem)

/-- A record waits for a port: on demand, its domains are powered up for it (R26, R29). -/
def netDemand (s : State) (port : Nat) : State :=
  if netOnDemand s && flag s Obj.NET_PORT.ENABLE port then domsUp s 3 (netDoms port) else s

/-- The work of a port has ended: on demand, its link goes down and its domains are powered down (R29). -/
def netRest (s : State) (port : Nat) : State :=
  if netOnDemand s then (netDoms port).foldl demandDown (wr s Obj.NET_STATUS.LINK port 0) else s

/-! ### Forwarding and the transparent clock (R345 to R347) -/

/-- Offset of the EtherType, past one VLAN tag if there is one.  PRESUMED: the formats of IEEE 802.1Q, IPv4, UDP and
IEEE 1588, which the spec names without repeating. -/
def etherOffset (b : Bytes) : Nat := if leAt b 12 2 = 0x0081 then 16 else 12

/-- EtherType of a frame. -/
def etherType (b : Bytes) : Nat := ofBe ((b.drop (etherOffset b)).take 2)

/-- The frame carries UDP/IPv4 to port 319. -/
def isUdp319 (b : Bytes) : Bool :=
  let o := etherOffset b + 2
  etherType b == 0x0800 && (leAt b (o + 9) 1 == 17) && (ofBe ((b.drop (o + 4 * (leAt b o 1 % 16) + 2)).take 2) == 319)

/-- The frame carries UDP/IPv6 to port 319. -/
def isUdp6 (b : Bytes) : Bool :=
  let o := etherOffset b + 2
  etherType b == 0x86DD && (leAt b (o + 6) 1 == 17) && (ofBe ((b.drop (o + 42)).take 2) == 319)

/-- Where the PTP message of a frame begins: over Layer 2, over UDP/IPv4, or over UDP/IPv6. -/
inductive PtpAt where
  | none
  | layer2 (o : Nat)
  | udp4 (udp o : Nat)
  | udp6 (o : Nat)
  deriving DecidableEq, Repr

/-- Find the PTP message of a frame. -/
def ptpAt (b : Bytes) : PtpAt :=
  if etherType b = 0x88F7 then .layer2 (etherOffset b + 2)
  else if isUdp319 b then
    let u := etherOffset b + 2 + 4 * (leAt b (etherOffset b + 2) 1 % 16)
    .udp4 u (u + 8)
  else if isUdp6 b then .udp6 (etherOffset b + 50)
  else .none

/-- messageType of a PTP message at an offset: 0 Sync, 1 Delay_Req, 2 and 3 Pdelay, 8 and above general. -/
def ptpType (b : Bytes) (o : Nat) : Nat := leAt b o 1 % 16

/-- versionPTP is 2. -/
def ptpV2 (b : Bytes) (o : Nat) : Bool := leAt b (o + 1) 1 % 16 == 2

/-- twoStepFlag. -/
def ptpTwoStep (b : Bytes) (o : Nat) : Bool := bit (leAt b (o + 6) 1) 1

/-- Δ in units of 2^-16 ns: residence time (2^-32 ns) plus the latencies, with the asymmetry of the ingress port added
for Sync and subtracted for Delay_Req, rounded to the nearest value (R346). -/
def ptpDelta (f : FwdFrame) (ty residence : Nat) : Int :=
  let ps : Int := (f.txLat : Int) + (f.rxLat : Int) + (if ty = 0 then f.asym else -f.asym)
  -- in 2^-32 ns over 1,000: residence × 1,000 + ps × 2^32; then ÷ (1,000 × 2^16), to nearest
  ((residence : Int) * 1000 + ps * 4294967296 + 32768000) / 65536000

/-- correctionField with Δ added; a sum that would overflow is 0x7FFF_FFFF_FFFF_FFFF (R346). -/
def ptpCorrected (old : Nat) (d : Int) : Nat :=
  let x := toInt 64 old + d
  if x < 2 ^ 63 ∧ -(2 ^ 63) ≤ x then ofInt 64 x else 0x7FFFFFFFFFFFFFFF

/-- A UDP checksum after a change of the bytes it covers (RFC 1624): ~(~HC + ~m + m'). -/
def udpChecksumAfter (hc : Nat) (old new : Bytes) : Nat :=
  65535 - onesSum (beBytes 2 (65535 - hc) ++ old.map (fun x => 255 - x % 256) ++ new)

/-- A forwarded frame as it leaves, with what was corrected and what was left uncorrected (R346, R347). -/
structure Forwarded where
  bytes : Bytes
  corrected : Bool
  uncorrected : Bool
  twoStepSync : Bool
  deriving DecidableEq, Repr

/-- The transparent clock on one frame, under the settings that stood when it was received. -/
def ptpForward (f : FwdFrame) (residence : Nat) : Forwarded :=
  let b := f.bytes
  let plain : Forwarded := ⟨b, false, false, false⟩
  let fix (o : Nat) (udp : Option Nat) : Forwarded :=
    if !ptpV2 b o || decide (1 < ptpType b o) then plain
    else if ptpTwoStep b o then ⟨b, false, true, decide (ptpType b o = 0)⟩
    else
      let old := (b.drop (o + 8)).take 8
      let new := beBytes 8 (ptpCorrected (ofBe old) (ptpDelta f (ptpType b o) residence))
      let b1 := putBytes b (o + 8) new
      match udp with
      | none => ⟨b1, true, false, false⟩
      | some u =>
        let hc := ofBe ((b.drop (u + 6)).take 2)
        ⟨if hc = 0 then b1 else putBytes b1 (u + 6) (beBytes 2 (udpChecksumAfter hc old new)), true, false, false⟩
  if !f.tcEn then plain
  else
    match ptpAt b with
    | .none => plain
    | .layer2 o => if f.l2En then fix o none else plain
    | .udp4 u o => if f.udpEn then fix o (some u) else plain
    | .udp6 o => if ptpV2 b o && decide (ptpType b o < 4) then ⟨b, false, true, false⟩ else plain

/-- Change one port. -/
def setPort (s : State) (p : Nat) (f : NetPortState → NetPortState) : State :=
  { s with net := { s.net with ports := upd s.net.ports p f } }

/-- The port state of port p. -/
def portOf (s : State) (p : Nat) : NetPortState := nth s.net.ports p ⟨0, []⟩

/-- The bytes that wait in a forwarding buffer. -/
def fwdBytes (s : State) (p : Nat) : Nat := ((portOf s p).fwd.map (fun f => f.bytes.length)).sum

/-- A frame received on port `p` with the settings of `NET_PTP` that go with it. -/
def fwdFrame (s : State) (p : Nat) (b : Bytes) : FwdFrame :=
  ⟨b, rd s Obj.NET_PTP.RX_LAT_PS p, toInt 32 (rd s Obj.NET_PTP.ASYM_PS p), rd s Obj.NET_PTP.TX_LAT_PS (1 - p),
   flag s Obj.NET_PTP.TC_EN (1 - p), flag s Obj.NET_PTP.L2_EN (1 - p), flag s Obj.NET_PTP.UDP_EN (1 - p)⟩

/-- The oldest frame of the buffer toward port `p`, whose link is up, leaves after a residence time (R345, R346). -/
def releaseOne (s : State) (p residence : Nat) : State :=
  match netPortUp s p, (portOf s p).fwd with
  | true, f :: rest =>
    let r := ptpForward f residence
    let s1 := bump (emit (setPort s p (fun q => { q with fwd := rest })) (.netFrame p r.bytes))
      Obj.NET_STATUS.FORWARDED p 1
    let s2 := if r.corrected then bump s1 Obj.NET_STATUS.PTP_CORRECTED p 1 else s1
    let s3 := if r.uncorrected then bump s2 Obj.NET_STATUS.PTP_UNCORRECTED p 1 else s2
    if r.twoStepSync then raise s3 0x0F05 p p (rd s3 Obj.NET_STATUS.PTP_UNCORRECTED p) else s3
  | _, _ => s

/-- The destination address of a PAUSE frame with its EtherType and opcode. -/
def isPause (b : Bytes) : Bool := leAt b 12 2 == 0x0888 && leAt b 14 2 == 0x0100

/-- A received frame with a valid FCS is counted as PAUSE or as the port's own, discarded, or put in the buffer of the
other port, which drops it where it is full (R345). -/
def receiveFrame (s : State) (p : Nat) (b : Bytes) : State :=
  if isPause b then bump s Obj.NET_STATUS.PAUSE p 1
  else if ofBe (b.take 6) = ofBe (leBytes 6 (rd s Obj.NET_PORT.MAC p)) then bump s Obj.NET_STATUS.RX_OWN p 1
  else if !flag s Obj.NET_PORT.FORWARD p then s
  else if 262144 < fwdBytes s (1 - p) + b.length then
    raise (bump s Obj.NET_STATUS.FWD_DROPPED (1 - p) 1) 0x0F04 (1 - p) (1 - p)
      (rd s Obj.NET_STATUS.FWD_DROPPED (1 - p) + 1)
  else setPort s (1 - p) (fun q => { q with fwd := q.fwd ++ [fwdFrame s p b] })

/-- NET_FRAME (R345): a frame arrives on `port`; of the buffer toward the other port, frames leave before and after the
arrival, each with its residence time in 2^-32 ns, as the egress had room. -/
def execNetFrame (port : Fin 2) (bytes : Bytes) (before after : List Nat) (s : State) :
    Host.Outcome State Fault Refusal :=
  if netPortUp s port then
    let s1 := before.foldl (fun t r => releaseOne t (1 - port.val) r) s
    .next (after.foldl (fun t r => releaseOne t (1 - port.val) r) (receiveFrame s1 port bytes))
  else .next s

/-! ### Link events (R342) -/

/-- NET_LINK_DOWN (R342): the frames of the transmit FIFO are lost and counted, fault 0x0F01 is raised. -/
def execNetLinkDown (port : Fin 2) (lost : Nat) (s : State) : Host.Outcome State Fault Refusal :=
  if netPortUp s port then
    let s1 := bump (wr s Obj.NET_STATUS.LINK port 0) Obj.NET_STATUS.TX_LOST port lost
    .next (raise s1 0x0F01 port port (rd s1 Obj.NET_STATUS.TX_LOST port))
  else .next s

/-- A port may train: it is enabled, its domains are ON and its link is not up (R29, R342). -/
def netMayTrain (s : State) (port : Nat) : Bool :=
  flag s Obj.NET_PORT.ENABLE port && !netPortUp s port && (netDoms port).all (domOn s)

/-- NET_LINK_UP (R341, R342): training has ended on a PHY type of `MEDIA`; the resolved type and bypass show, the settings
of `NET_PORT` that wait for a training act (R349), fault 0x0F02 clears, and the condition of 0x0F01 is over. -/
def execNetLinkUp (port : Fin 2) (cr4 bypass : Bool) (s : State) : Host.Outcome State Fault Refusal :=
  if netMayTrain s port && bit (rd s Obj.NET_PORT.MEDIA port) (b2n cr4) then
    let s1 := wr (wr (wr (latch s [Obj.NET_PORT.MTU] port) Obj.NET_STATUS.LINK port 3)
        Obj.NET_STATUS.MEDIA_RES port (b2n cr4))
      Obj.NET_STATUS.BYPASS_RES port (b2n (bypass && flag s Obj.NET_PORT.FEC_IND_BYPASS port))
    .next (endFault (clearFault (setPort s1 port (fun q => { q with anFails := 0 })) 0x0F02 port) 0x0F01 port)
  else .next s

/-- AN_RESTART (R342): a negotiation has failed and restarts; the third failure raises fault 0x0F02. -/
def execAnRestart (port : Fin 2) (s : State) : Host.Outcome State Fault Refusal :=
  if netMayTrain s port && flag s Obj.NET_PORT.AN port then
    let s1 := setPort (wr s Obj.NET_STATUS.LINK port 1) port (fun q => { q with anFails := q.anFails + 1 })
    .next (if (portOf s1 port).anFails = 3 then raise s1 0x0F02 port port 0 else s1)
  else .next s

/-- NET_FEC_UNCORRECTED (R348): the codewords of one second; any uncorrected one raises fault 0x0F03 at its end. -/
def execNetFecUncorrected (port : Fin 2) (corrected uncorrected : Nat) (s : State) :
    Host.Outcome State Fault Refusal :=
  if netPortUp s port then
    let s1 := bump (bump s Obj.NET_STATUS.FEC_CORRECTED port corrected) Obj.NET_STATUS.FEC_UNCORRECTED port uncorrected
    .next (if uncorrected = 0 then s1 else raise s1 0x0F03 port port (rd s1 Obj.NET_STATUS.FEC_UNCORRECTED port))
  else .next s

end Sys2Proof.Machine
end

