-- ==== Sys2Proof/Machine/Evt.lean ====
section
/-! DEFINITION. The event stage: reservations, summaries, zero suppression, fine times, fragments, delivery and replies;
the fixed-ratio coder at work (R138 to R155, R254 to R260, `07_event_fragments.md`). -/

namespace Sys2Proof.Machine

/-- Change the event stage. -/
def setEvt (s : State) (f : EventStage → EventStage) : State := { s with evt := f s.evt }

/-- Change the fragment with a serial. -/
def setFrag (s : State) (serial : Nat) (f : Fragment → Fragment) : State :=
  setEvt s (fun e => { e with frags := updFirst (fun x => x.serial == serial) f e.frags })

/-- The fragment with a serial. -/
def fragOf (s : State) (serial : Nat) : Option Fragment := s.evt.frags.find? (fun x => x.serial == serial)

/-! ### The event-pending region (R148, R149, R235) -/

/-- First bank and size in bytes of the region in the store map in use: 12 MiB, and 10 MiB in Cluster-16. -/
def evtBank (s : State) : Nat := if rd s Obj.FST_MAP.MAP = 2 then 155 else 153
def evtSize (s : State) : Nat := if rd s Obj.FST_MAP.MAP = 2 then 10485760 else 12582912

/-- The physical address of an offset of the region (R233). -/
def evtAddr (s : State) (off : Nat) : Nat := 0x0100000000 + evtBank s * 0x200000 + off

/-- Bytes of the region in use. -/
def evtUsed (s : State) : Nat := (s.evt.frags.map (fun f => f.size)).sum

/-- The levels of the region: OCCUPANCY and HIGH of `MOV_LOSSY[0]`, fault 0x0602 at a crossing (R154, R290). -/
def evtLevels (s : State) : State :=
  let wm := rd s Obj.EVT_SHIP.HIGH_WM
  let high := decide (wm ≤ 100 * evtUsed s / evtSize s)
  let s1 := setEvt (lossyShow s 0 (evtUsed s) (evtSize s) wm) (fun e => { e with high := high })
  if high && !s.evt.high then raise s1 0x0602 0 s.evt.serial (evtUsed s / 1024) else s1

/-- Released fragments at the tail give their space back (R149). -/
def evtTail (s : State) : State :=
  evtLevels (setEvt s (fun e => { e with frags := e.frags.dropWhile (fun f => f.state == .released) }))

/-- Two places of the region overlap. -/
def overlap (a la b lb : Nat) : Bool := decide (a < b + lb) && decide (b < a + la)

/-- Overwrite held fragments, oldest first, until a place is free (R148); `false` where the oldest is being built or sent,
and the reservation waits with what is overwritten already (R149). -/
def makeRoom : Nat → State → Nat → Nat → Bool × State
  | 0, s, _, _ => (true, s)
  | fuel + 1, s, off, len =>
    if s.evt.frags.any (fun f => overlap off len f.off f.size) then
      match s.evt.frags with
      | [] => (true, s)
      | f :: rest =>
        let s1 := setEvt s (fun e => { e with frags := rest })
        match f.state with
        | .building => (false, s)
        | .transfer => (false, s)
        | .released => makeRoom fuel s1 off len
        | _ =>
          let s2 := setEvt (lossyLost (bump s1 Obj.EVT_STATUS.LOST 0 1) 0 1)
            (fun e => { e with lostBefore := satAdd 16 e.lostBefore 1 })
          makeRoom fuel (raise s2 0x0601 0 (f.serial % 2 ^ 32) (rd s2 Obj.EVT_STATUS.LOST)) off len
    else (true, s)

/-- L_max of a window of `blocks` coded blocks per input (R148). -/
def lMax (blocks code : Nat) : Nat := 168 + 256 * (16 + blocks * blockBytes code)

/-- The next frozen window that has no reservation, in the order of freezing (R80, R138). -/
def nextToReserve (s : State) : Option Window :=
  s.bbl.windows.find? (fun w => w.frozenAt.isSome && !w.credit && !w.readOut && decide (w.source ≠ 2))

/-- The groups that hold an input of a mask. -/
def groupsOf (mask : Nat) : Nat :=
  (List.range 16).foldl (fun m g => if bits mask (16 * g) 16 ≠ 0 then m + 2 ^ g else m) 0

/-- The record that the event stage builds for a Vigil or a test window (R139); `n` is its serial. -/
def ownRecord (s : State) (w : Window) (n : Nat) : TrigRecord :=
  { serial := n, src := if w.source = 1 then 0x20 else 0, mergedSrc := 0, merges := w.merges, tSample := w.tHt / 2,
    time := ts96At s (w.tHt / 2), groupMask := if w.source = 1 then groupsOf w.mask else 0, best := 0, bestPower := 0,
    refusedSince := if w.source = 1 then w.refused else s.evt.vigilRefused,
    window := w.p + 16 * w.q, flags := 0, originTime := 0, originChip := 0, originSerial := 0, holdEnd := 0 }

/-- The record of a window, and the state after it is taken: from the record queue, whose slot frees, or built here. -/
def takeRecordOf (s : State) (w : Window) : Option (TrigRecord × State) :=
  if w.source = 0 then
    (takeFirst (fun r => r.serial == w.serial) s.trg.queue).map
      (fun r => (r.1, { s with trg := { s.trg with queue := r.2 } }))
  else if w.source = 1 then some (ownRecord s w w.serial, s)
  else
    let n := (s.evt.serial + 1) % 2 ^ 40
    some (ownRecord s w n, setEvt s (fun e => { e with serial := n, vigilRefused := 0 }))

/-- The configuration of zero suppression per input, packed as in `EVT_ZS`. -/
def zsWords (s : State) : List Nat :=
  (List.range 256).map (fun i =>
    rd s Obj.EVT_ZS.THRESH i + 4096 * rd s Obj.EVT_ZS.FORCE i + 8192 * rd s Obj.EVT_ZS.EXCLUDE i)

/-- The record of the next frozen window is taken and L_max is reserved at the head of the ring, overwriting held
fragments; the digitizer gets the credit for the window (R138, R148, R149).  Where the reservation has to wait, the record
stays where it is. -/
def reserveNext (s : State) : State :=
  match nextToReserve s with
  | none => s
  | some w =>
    match takeRecordOf s w with
    | none => s
    | some r =>
      let code := rd s Obj.EVT_CTRL.CODE
      let blocks := 4 * (w.pAct + w.q)
      let len := lMax blocks code
      let off := if s.evt.head + len ≤ evtSize s then s.evt.head else 0
      let room := makeRoom (s.evt.frags.length + 1) s off len
      match room.1, takeRecordOf room.2 w with
      | true, some (_, s1) =>
        let f : Fragment :=
          { serial := r.1.serial, record := r.1, windowId := w.id, state := .building, off := off, size := len,
            code := code, keepGroup := rd s Obj.EVT_CTRL.KEEP_GROUP, zs := flag s Obj.EVT_CTRL.ZS,
            minSnr := rd s Obj.EVT_CTRL.FT_MIN_SNR, zsInput := zsWords s, predEn := rd s Obj.CMP_FR.PRED_EN,
            cells := [], blocks := [], toCode := 256 * blocks, window := none, bytes := [], ship := ⟨0, 0, 0, 0⟩,
            offers := 0, rejected := false }
        let s2 := setEvt s1 (fun e => { e with frags := e.frags ++ [f], head := off + len })
        evtTail (setWindow s2 w.id (fun x => { x with credit := true, serial := r.1.serial }))
      | _, _ => evtTail room.2

/-- FRAGMENT_RESERVE (R138, R148, R149). -/
def execFragmentReserve (s : State) : Host.Outcome State Fault Refusal := .next (reserveNext s)

/-! ### Segments and the coder (R82, R138, R257 to R260) -/

/-- The cells of one input of a converted ring segment j (R82, R240). -/
def cellsOf (s : State) (j i : Nat) (raw : List Nat) : List CellSample :=
  (List.range 256).map (fun k =>
    let e := calEntry s i (256 * j + k)
    let bad := badCell e || groupBad s i j (k / 16)
    ⟨correctedSample e (nth raw k 0), bad, cellSaturated e (nth raw k 0), if bad then 0 else toInt 8 (bits e 20 8)⟩)

/-- A domain of the event stage cycles after a latch-up: its work waits (R452). -/
def eventCut (s : State) : Bool := (domRange 93 94).any (domCycling s)

/-- The cells of input i over the segments taken so far. -/
def inputCells (f : Fragment) (i : Nat) : List CellSample := (f.cells.map (fun seg => nth seg i [])).flatten

/-- The mean of two samples, halves away from zero. -/
def meanAway (a b : Int) : Int := if 0 ≤ a + b then (a + b + 1) / 2 else -((1 - a - b) / 2)

/-- For each cell, the nearest good sample before it. -/
def goodBefore : List CellSample → Option Int → List (Option Int)
  | [], _ => []
  | c :: t, last => last :: goodBefore t (if c.bad then last else some c.v)

/-- The samples with bad cells replaced (R82). -/
def interpolated (cs : List CellSample) : List Int :=
  let before := goodBefore cs none
  let after := (goodBefore cs.reverse none).reverse
  (cs.zip (before.zip after)).map (fun x =>
    if x.1.bad then
      match x.2.1, x.2.2 with
      | some a, some b => meanAway a b
      | some a, none => a
      | none, some b => b
      | none, none => 0
    else x.1.v)

/-- The samples of a block are settled: no bad cell of it waits for a later segment. -/
def blockSettled (f : Fragment) (i b : Nat) : Bool :=
  f.window.isSome || !((inputCells f i).drop (64 * b)).all (fun c => c.bad)
    && !(((inputCells f i).drop (64 * b + 63)).all (fun c => c.bad))

/-- A block may go to the coder: its samples are settled, or its fragment is gone. -/
def jobReady (s : State) (job : CoderJob) : Bool := (fragOf s job.serial).all (fun f => blockSettled f job.input job.block)

/-- Blocks of the event stage go into queue 6, in order, as long as it has credits and the coder is on (R16, R17, R280). -/
def feedCoder (s : State) : State :=
  if !domOn s 337 then s
  else
    let go := (s.evt.feed.filter (jobReady s)).take (queueSlots 6 - s.cmp.coder.length)
    if go.isEmpty then s
    else
      clockStarts { s with evt := { s.evt with feed := s.evt.feed.filter (fun j => !go.contains j) },
                           cmp := { s.cmp with coder := s.cmp.coder ++ go } } 11

/-- SEGMENT_TO_EVENT (R138): the next segment of the window in conversion, or just read out, reaches the event stage;
its blocks go to the coder, and while any of the segment before wait for its queue no segment is taken (R153). -/
def execSegmentToEvent (s : State) : Host.Outcome State Fault Refusal :=
  if eventCut s || s.evt.feed.any (jobReady s) then .next (feedCoder s)
  else
  match s.evt.frags.find? (fun f => f.state == .building && f.window.isNone) with
  | none => .next s
  | some f =>
    match (s.bbl.windows ++ s.bbl.leaving).find? (fun w => w.id == f.windowId) with
    | none => .next s
    | some w =>
      let k := f.cells.length
      if k < w.raw.length then
        let raw := nth w.raw k []
        let j := nth w.segs k 0
        let cells := (List.range 256).map (fun i => cellsOf s j i (nth raw i []))
        let jobs := (List.range 1024).map (fun n => (⟨f.serial, n / 4, 4 * k + n % 4⟩ : CoderJob))
        let whole := decide (k + 1 = w.segs.length)
        let s1 := setFrag s f.serial (fun x =>
          { x with cells := x.cells ++ [cells], window := if whole then some w else none })
        let s2 := if whole then setBbl s1 (fun b => { b with leaving := b.leaving.filter (fun x => x.id != w.id) }) else s1
        .next (feedCoder (setEvt s2 (fun e => { e with feed := e.feed ++ jobs })))
      else .next s

/-- The place of a coded block in the reservation of its fragment, before the kept sections move to their final offsets
(R138; the spec gives none: that of a fragment with every input kept, DESIGN CHOICE, log entry 116). -/
def blockPlace (f : Fragment) (input block : Nat) : Nat :=
  f.off + 160 + input * ((f.size - 168) / 256) + 16 + block * blockBytes f.code

/-- FR_BLOCK_CODED (R257 to R260): the coder codes the next block and verifies it with its replica; a block that fails,
or whose slot was poisoned (R281), is VOID with faults 0x0B01 and 0x0604. -/
def execFrBlockCoded (replicaFails : Bool) (s : State) : Host.Outcome State Fault Refusal :=
  if domCycling s 337 || !queueRoom s 7 || !(domRange 93 94).all (domOn s) then .next s
  else
  match s.cmp.coder with
  | [] => .next (feedCoder s)
  | job :: rest =>
    match fragOf s job.serial with
    | none => .next (feedCoder { s with cmp := { s.cmp with coder := rest } })
    | some f =>
        let xs := ((interpolated (inputCells f job.input)).drop (64 * job.block)).take 64
        let coded := codeBlock f.predEn (residualWidth f.code) xs
        let fails := replicaFails || s.cmp.failNext || s.mov.badBlock
        let bytes := if fails then voidBlock f.code else coded.bytes f.code (nth xs 0 0)
        let s1 := feedCoder { s with cmp := { s.cmp with coder := rest, failNext := false },
                                     mov := { s.mov with badBlock := false } }
        let s2 := bump (storeBytes (setFrag s1 job.serial (fun x =>
          { x with blocks := x.blocks ++ [(64 * job.input + job.block, bytes, fails)], toCode := x.toCode - 1 }))
          (evtAddr s (blockPlace f job.input job.block)) bytes) Obj.CMP_STATUS.FR_BLOCKS 0 1
        if fails then
          let sec := s.time.rc64 / 1600000000
          let n := if s.cmp.failSecond = sec then s.cmp.fails + 1 else 1
          let s3 := bump { s2 with cmp := { s2.cmp with fails := n, failSecond := sec, lastFail := s.time.rc64 } }
            Obj.CMP_STATUS.FR_VOID 0 1
          let s4 := raise (raise s3 0x0B01 0 (rd s3 Obj.CMP_STATUS.FR_BLOCKS) 0) 0x0604 0 (job.serial % 2 ^ 32)
            (rd s3 Obj.CMP_STATUS.FR_VOID)
          .next (if n = 17 then raise s4 0x0B02 0 (rd s3 Obj.CMP_STATUS.FR_BLOCKS) 0 else s4)
        else .next (if coded.kind = 1 then bump s2 Obj.CMP_STATUS.FR_LOSSY 0 1 else s2)

/-- VERIFY_TEST (R270): in Test mode, the next block fails its replica check once; in any other mode the write returns
NOT_PERMITTED and changes nothing. -/
def execVerifyTest (s : State) : Host.Outcome State Fault Refusal :=
  if modeOf s = .test then .next { s with cmp := { s.cmp with failNext := true } } else .next s

/-! ### Baseline, envelope, peak, fine time (R140 to R145) -/

/-- Cells 0 to 79 after a range boundary settle (R76): the segment of the window whose cell 0 is the boundary. -/
def boundarySeg (w : Window) (i : Nat) : Option RangeMark := w.ranges.find? (fun m => m.input == i)

/-- A cell is usable (R140): neither settling nor interpolated. -/
def usable (w : Window) (i c : Nat) (x : CellSample) : Bool :=
  !x.bad && (match boundarySeg w i with
    | some m => !(decide (256 * m.seg ≤ c) && decide (c < 256 * m.seg + 80))
    | none => true)

/-- What the event stage knows of one input of a window. -/
structure InputWork where
  /-- Samples with bad cells replaced, usable cells, saturated cells, DT per cell. -/
  xs : List Int
  ok : List Bool
  sat : List Bool
  dts : List Int
  base : Int
  /-- Sum of (s − BASE)² over the baseline cells, and their number. -/
  noiseSum : Nat
  noiseN : Nat
  /-- The peak cell with its e². -/
  peak : Option (Nat × Nat)
  deriving DecidableEq, Repr

/-- s′(c) = s(c) − BASE. -/
def lessBase (xs : List Int) (base : Int) (c : Nat) : Int := nth xs c 0 - base

/-- e²(c) (R140). -/
def envelope2 (xs : List Int) (base : Int) (c : Nat) : Nat :=
  let d (m : Nat) : Int := lessBase xs base (c - m) - lessBase xs base (c + m)
  let q := divAway (652 * d 1 + 217 * d 3 + 130 * d 5 + 93 * d 7) 1024
  ((lessBase xs base c) ^ 2 + q ^ 2).toNat

/-- The usable cell from 7 to N − 8 with the largest e², the earliest at a tie (R140). -/
def peakCell (xs : List Int) (ok : List Bool) (base : Int) : Option (Nat × Nat) :=
  (List.range (xs.length - 14)).foldl (fun best k =>
    let c := k + 7
    if nth ok c false then
      let e := envelope2 xs base c
      match best with
      | some b => if b.2 < e then some (c, e) else best
      | none => some (c, e)
    else best) none

/-- BASE, σ and the peak of one input (R140). -/
def inputWork (f : Fragment) (w : Window) (i : Nat) : InputWork :=
  let cs := inputCells f i
  let xs := interpolated cs
  let ok := (List.range cs.length).map (fun c => usable w i c (nth cs c ⟨0, true, false, 0⟩))
  let cells := ((List.range cs.length).filter (fun c => nth ok c false)).take 128
  let early := ((List.range 256).filter (fun c => nth ok c false)).length
  let sum := (cells.map (fun c => nth xs c 0)).sum
  let base := if early < 64 ∨ cells = [] then 0 else divAway sum cells.length
  { xs := xs, ok := ok, sat := cs.map (fun x => x.sat && !x.bad), dts := cs.map (fun x => x.dt), base := base,
    noiseSum := (cells.map (fun c => (lessBase xs base c).natAbs ^ 2)).sum, noiseN := cells.length,
    peak := peakCell xs ok base }

/-- PEAK (R141). -/
def InputWork.peakLsb (x : InputWork) : Nat :=
  match x.peak with
  | some p => min 4095 (isqrt p.2)
  | none => 0

/-- NOISE: 0 below 2 LSB, k where 2^k ≤ σ < 2^(k+1), 7 from 128 LSB (R141). -/
def InputWork.noise (x : InputWork) : Nat :=
  ((List.range 7).filter (fun k => decide (x.noiseN ≠ 0) && decide (x.noiseN * 4 ^ (k + 1) ≤ x.noiseSum))).length

/-- The summary word (R141). -/
def summaryWord (f : Fragment) (w : Window) (i : Nat) (x : InputWork) : Nat :=
  x.peakLsb + 4096 * (match x.peak with | some p => p.1 | none => 0) + 2 ^ 24 * b2n (bit w.clampMask i)
    + 2 ^ 25 * b2n (bit w.lineMask i) + 2 ^ 26 * b2n (boundarySeg w i).isSome
    + 2 ^ 27 * b2n (x.sat.any id) + 2 ^ 28 * b2n ((inputCells f i).any (fun c => c.bad)) + 2 ^ 29 * x.noise

/-- t(c) in 0.5 ps: (H − T) × 625 + DT (R143). -/
def cellTime (f : Fragment) (w : Window) (x : InputWork) (c : Nat) : Int :=
  ((w.bHt : Int) - 256 * (w.pAct : Int) + (c : Int) - 2 * (f.record.tSample : Int)) * 625 + nth x.dts c 0

/-- The first and the last cell of the run of saturated cells that holds cell c. -/
def satRun (sat : List Bool) (c : Nat) : Nat × Nat :=
  let back := ((List.range (c + 1)).takeWhile (fun k => nth sat (c - k) false)).length
  let fwd := ((sat.drop c).takeWhile id).length
  (c + 1 - back, c + fwd - 1)

/-- FT_QUAL and FINE_PS (R143, R144); none for a vertex that the three points do not give (equal envelopes). -/
def fineTime (f : Fragment) (w : Window) (x : InputWork) : Nat × Option Int :=
  match x.peak with
  | none => (3, some (-2147483648))
  | some p =>
    let c := p.1
    if x.peakLsb = 0 ∨ 16 * x.peakLsb ^ 2 * x.noiseN < f.minSnr ^ 2 * x.noiseSum then (3, some (-2147483648))
    else if nth x.sat c false || nth x.sat (c - 1) false || nth x.sat (c + 1) false then
      let at0 := if nth x.sat c false then c else if nth x.sat (c - 1) false then c - 1 else c + 1
      let run := satRun x.sat at0
      (1, some (divAway (cellTime f w x run.1 + cellTime f w x run.2) 4))
    else if !nth x.ok (c - 1) false || !nth x.ok (c + 1) false || decide (c < 8) || decide (x.xs.length < c + 9) then
      (2, some (divAway (cellTime f w x c) 2))
    else
      let t1 := cellTime f w x (c - 1)
      let t2 := cellTime f w x c
      let t3 := cellTime f w x (c + 1)
      let y1 : Int := envelope2 x.xs x.base (c - 1)
      let y2 : Int := p.2
      let y3 : Int := envelope2 x.xs x.base (c + 1)
      let num := (t2 - t1) ^ 2 * (y2 - y3) - (t2 - t3) ^ 2 * (y2 - y1)
      let den := (t2 - t1) * (y2 - y3) - (t2 - t3) * (y2 - y1)
      if den ≤ 0 then (0, none) else (0, some (divAway (2 * t2 * den - num) (4 * den).toNat))

/-! ### Zero suppression and the fragment (R142, R146, R147) -/

/-- An input is kept by one of the first three rules of R142, EXCLUDE aside. -/
def keptFirst (f : Fragment) (i : Nat) (x : InputWork) : Bool :=
  let z := nth f.zsInput i 0
  !f.zs || decide (z % 4096 = 0) || decide (z % 4096 ≤ x.peakLsb) || bit z 12

/-- The inputs kept: by the first three rules, and then by partner or group (R142). -/
def keptInputs (f : Fragment) (works : List InputWork) : List (Nat × Bool) :=
  let excluded (i : Nat) : Bool := bit (nth f.zsInput i 0) 13
  let first (i : Nat) : Bool :=
    match works[i]? with
    | some x => !excluded i && keptFirst f i x
    | none => false
  (List.range 256).filterMap (fun i =>
    if first i then some (i, false)
    else
      let more := match f.keepGroup with
        | 1 => first (i ^^^ 1)
        | 2 => (List.range 16).any (fun k => first (i / 16 * 16 + k))
        | _ => false
      if !excluded i && more then some (i, true) else none)

/-- The 64 bytes of a trigger record (R132). -/
def TrigRecord.bytes (r : TrigRecord) : Bytes :=
  leBytes 5 r.serial ++ [r.src, r.mergedSrc, r.merges] ++ leBytes 8 r.tSample ++ leBytes 12 r.time
    ++ leBytes 2 r.groupMask ++ leBytes 2 r.best ++ leBytes 4 r.bestPower ++ leBytes 2 r.refusedSince
    ++ [r.window % 256, r.flags] ++ leBytes 12 r.originTime ++ [r.originChip] ++ leBytes 5 r.originSerial
    ++ List.replicate 6 0

/-- A coded block of a fragment, and whether it is void. -/
def blockOf (f : Fragment) (i b : Nat) : Bytes × Bool :=
  match f.blocks.find? (fun x => x.1 == 64 * i + b) with
  | some x => x.2
  | none => (voidBlock f.code, true)

/-- The section of a kept input (R146), with the free counter after it. -/
def sectionBytes (f : Fragment) (w : Window) (i : Nat) (byGroup : Bool) (x : InputWork) (free : Nat) : Bytes × Nat :=
  let blocks := (List.range (4 * (w.pAct + w.q))).map (blockOf f i)
  let z := nth f.zsInput i 0
  let keep := if byGroup then 4
    else b2n (decide (z % 4096 = 0) || decide (z % 4096 ≤ x.peakLsb)) + 2 * b2n (bit z 12)
  let ft := fineTime f w x
  let fine : Int := ft.2.getD (toInt 32 (Config.freeValue free))
  let range := match boundarySeg w i with
    | some m => [m.before, m.after, m.seg]
    | none => [nth w.range0 i 0, nth w.range0 i 0, 0xFF]
  ([i, keep + 8 * b2n (blocks.any (fun b => b.2))] ++ range ++ [ft.1] ++ leBytes 2 (ofInt 16 x.base)
    ++ leBytes 4 (summaryWord f w i x) ++ leBytes 4 (ofInt 32 fine) ++ (blocks.map (fun b => b.1)).flatten,
   if ft.2.isNone then free + 1 else free)

/-- Bytes with their 8-byte trailer (R147). -/
def withTrailer (b : Bytes) : Bytes := b ++ leBytes 4 (crc32c b) ++ [0, 0, 0, 0]

/-- FLAGS of a fragment header (R146), ANNOUNCE apart. -/
def fragFlags (f : Fragment) (w : Window) (kept : List (Nat × Bool)) : Nat :=
  let void := kept.any (fun k => (List.range (4 * (w.pAct + w.q))).any (fun b => (blockOf f k.1 b).2))
  b2n w.stale + 2 * b2n w.holdExpired + 4 * b2n w.uncal + 8 * b2n void + 16 * b2n (decide (w.source = 1))
    + 64 * b2n (kept.any (fun k => (boundarySeg w k.1).isSome))

/-- The sections of the kept inputs, with the free counter after them. -/
def sectionsOf (f : Fragment) (w : Window) (works : List InputWork) : List (Nat × Bool) → Nat → Bytes × Nat
  | [], free => ([], free)
  | k :: t, free =>
    match works[k.1]? with
    | some x =>
      let a := sectionBytes f w k.1 k.2 x free
      let rest := sectionsOf f w works t a.2
      (a.1 ++ rest.1, rest.2)
    | none => sectionsOf f w works t free

/-- The fragment (R146, R147), with the free counter after it. -/
def fragmentBytes (s : State) (f : Fragment) (w : Window) : Bytes × Nat :=
  let works := (List.range 256).map (inputWork f w)
  let kept := keptInputs f works
  let suppressed := (List.range 256).filter (fun i => !kept.any (fun k => k.1 == i))
  let sums := (suppressed.map (fun i =>
    match works[i]? with
    | some x => leBytes 4 (summaryWord f w i x)
    | none => [])).flatten
  let secs := sectionsOf f w works kept s.free
  let mask := kept.foldl (fun m k => m + 2 ^ k.1) 0
  let count (p : CellSample → Bool) : Nat :=
    min 65535 ((kept.map (fun k => ((inputCells f k.1).filter p).length)).sum)
  let len := 168 + up8 (4 * suppressed.length) + secs.1.length
  let head := [0x45, 0x56, 0x46, 0x47, 1, s.ctl.chipId % 16] ++ leBytes 2 (fragFlags f w kept) ++ leBytes 4 len
    ++ leBytes 2 kept.length ++ [4 * (w.pAct + w.q), f.code] ++ leBytes 8 s.time.rc64 ++ leBytes 6 0
    ++ leBytes 2 s.evt.lostBefore
  let desc := [w.pAct, w.q] ++ leBytes 2 w.hold ++ leBytes 2 w.deadline ++ [w.merges, ofInt 8 (w.tj / 2)]
    ++ leBytes 8 w.bHt ++ leBytes 2 (count (fun c => c.sat && !c.bad)) ++ leBytes 2 (count (fun c => c.bad))
    ++ List.replicate 12 0
  (withTrailer (head ++ f.record.bytes ++ desc ++ leBytes 32 mask ++ padTo (up8 (4 * suppressed.length)) sums ++ secs.1),
   secs.2)

/-- The announcement of a fragment (R147): bytes 0 to 159 with ANNOUNCE set, and a trailer. -/
def announcement (b : Bytes) : Bytes :=
  withTrailer ((b.take 6) ++ [nth b 6 0 ||| 32] ++ (b.drop 7).take 153)

/-- A fragment with its GLOBAL_ID and its trailer computed anew (R147). -/
def withGlobalId (b : Bytes) (g : Nat) : Bytes :=
  withTrailer (b.take 24 ++ leBytes 6 g ++ (b.drop 30).take (b.length - 38))

/-- FRAGMENT_BUILT (R138, R146): the oldest fragment whose segments have all arrived and are coded gets its keep rule,
fine times, summaries, header and trailer; the unused part of its reservation returns and it enters PENDING with the
destination of `EVT_SHIP` (R152). -/
def execFragmentBuilt (s : State) : Host.Outcome State Fault Refusal :=
  if eventCut s then .next s
  else
  match s.evt.frags.find? (fun f => f.state == .building && f.window.isSome && f.toCode == 0) with
  | none => .next s
  | some f =>
    match f.window with
    | none => .next s
    | some w =>
      let fb := fragmentBytes s f w
      let b := fb.1
      let ship : Ship := ⟨rd s Obj.EVT_SHIP.MODE, rd s Obj.EVT_SHIP.RING, rd s Obj.EVT_SHIP.PORT,
        rd s Obj.EVT_SHIP.CONC_CHIP⟩
      let s1 := storeBytes { s with free := fb.2 } (evtAddr s f.off) b
      let s2 := setFrag s1 f.serial (fun x =>
        { x with state := .pending, bytes := b, size := b.length, ship := ship, cells := [], blocks := [] })
      let newest := s.evt.frags.getLast?.any (fun x => x.serial == f.serial)
      let s3 := setEvt s2 (fun e =>
        { e with lostBefore := 0, head := if newest then f.off + b.length else e.head })
      let s4 := bump s3 Obj.EVT_STATUS.BUILT 0 1
      .next (evtLevels (if bit (nth b 6 0) 3 then bump s4 Obj.EVT_STATUS.VOID_FRAGS 0 1 else s4))

/-! ### Delivery and replies (R150 to R152) -/

/-- The lowest link of the port toward the concentrator: link 4w (R189). -/
def shipLink (w : Nat) : Nat := 4 * w

/-- Fragments that are OFFERED, or will be when their transfer to the concentrator ends (R152). -/
def offeredCount (s : State) : Nat :=
  (s.evt.frags.filter (fun f => f.state == .offered || (f.state == .transfer && decide (2 ≤ f.ship.mode)))).length

/-- Two settings name one destination: the ring in modes 0 and 1, the port and the concentrator in modes 2 and 3 (R150,
R152). -/
def sameDest (a b : Ship) : Bool :=
  if a.mode < 2 then decide (b.mode < 2) && a.ring == b.ring
  else decide (2 ≤ b.mode) && a.port == b.port && a.chip == b.chip

/-- No older fragment to the same destination is PENDING. -/
def firstOfItsKind (s : State) (f : Fragment) : Bool :=
  (s.evt.frags.find? (fun x => x.state == .pending && sameDest x.ship f.ship)).any (fun x => x.serial == f.serial)

/-- The port toward the concentrator carries messages and has credit for the first frame of one of a type (R150, R312). -/
def shipReady (s : State) (p ty : Nat) : Bool :=
  portUp s p && !portLooped s p && !portRestricted s p && decide (0 < nth (axPortOf s p).credit (vcOf ty) 0)

/-- The destination of a fragment has a descriptor, a link or credit (R150). -/
def destinationReady (s : State) (f : Fragment) : Bool :=
  match f.ship.mode with
  | 0 => decide (ringKind s f.ship.ring = 1) && ringRuns s f.ship.ring && decide (0 < ringOwned s f.ship.ring)
  | 1 => decide (ringKind s f.ship.ring = 3)
      && decide (rd s Obj.NET_STATUS.LINK (rd s Obj.MOV_RING.NET_PORT f.ship.ring) = 3)
  | m => shipReady s (shipLink f.ship.port) (if m = 2 then 4 else 5) && decide (offeredCount s < 64)

/-- Post a fragment or an announcement on the concentrator link. -/
def shipMessage (s : State) (f : Fragment) (ty : Nat) (b : Bytes) : State :=
  axPost s (shipLink f.ship.port) ty b

/-- Work waits for a network port: fragments, records of its NET rings, dump records, beam frames, built events, frames to
be forwarded (R29). -/
def netWork (s : State) (port : Nat) : Bool :=
  let ringHere (r : Nat) : Bool := decide (ringKind s r = 3) && decide (rd s Obj.MOV_RING.NET_PORT r = port)
  s.evt.frags.any (fun f => f.state == .pending && decide (f.ship.mode = 1) && ringHere f.ship.ring)
    || (List.range 64).any (fun r => ringHere r && !(ringOf s r).queue.isEmpty)
    || s.dah.dumps.any (fun d => decide (d.dest = 2) && decide (d.port = port))
    || (decide (rd s Obj.SUN_CTRL.DEST = 1) && decide (rd s Obj.SUN_CTRL.PORT = port) && !s.sun.queue.isEmpty)
    || s.conc.out.any (fun e => decide (e.dest = 1) && decide (e.port = port))
    || (s.net.ports[port]?).any (fun p => !p.fwd.isEmpty)

/-- After a record has gone: a port on demand without work rests (R29). -/
def netSettled (s : State) (port : Nat) : State := if netWork s port then s else netRest s port

/-- FRAGMENT_SEND (R150, R152): a PENDING fragment of mode 0, 1 or 2 enters TRANSFER, in serial order per destination,
not in Vigil.  One that waits for a network port asks for it on demand (R26, R29). -/
def execFragmentSend (serial : Nat) (s : State) : Host.Outcome State Fault Refusal :=
  match fragOf s serial with
  | none => .next s
  | some f =>
    if f.state = .pending ∧ f.ship.mode < 3 ∧ modeOf s ≠ .vigil ∧ firstOfItsKind s f ∧ destinationReady s f then
      let s1 := setFrag s serial (fun x => { x with state := .transfer })
      .next (if f.ship.mode < 2 then ringPut s1 f.ship.ring ⟨.fragment serial, f.bytes, false, if f.ship.mode = 0 then 1 else 3⟩
        else shipMessage s1 f 4 f.bytes)
    else if f.state = .pending ∧ f.ship.mode = 1 ∧ modeOf s ≠ .vigil then
      .next (netDemand s (rd s Obj.MOV_RING.NET_PORT f.ship.ring))
    else .next s

/-- FRAGMENT_ANNOUNCE (R150): in mode 3 the announcement is sent and the fragment is OFFERED. -/
def execFragmentAnnounce (serial : Nat) (s : State) : Host.Outcome State Fault Refusal :=
  match fragOf s serial with
  | none => .next s
  | some f =>
    if f.state = .pending ∧ f.ship.mode = 3 ∧ modeOf s ≠ .vigil ∧ firstOfItsKind s f ∧ destinationReady s f then
      .next (shipMessage (setFrag s serial (fun x => { x with state := .offered })) f 5 (announcement f.bytes))
    else .next s

/-- A fragment is released and counted (R150, R151). -/
def releaseFrag (s : State) (serial : Nat) (f : Field) : State :=
  evtTail (bump (setFrag s serial (fun x => { x with state := .released })) f 0 1)

/-- A transfer ends (R150, R151): released in modes 0 and 1, OFFERED in modes 2 and 3; a REJECT that came during it
takes effect. -/
def transferEnds (s : State) (serial : Nat) : State :=
  match fragOf s serial with
  | none => s
  | some f =>
    if f.state = .transfer then
      if f.ship.mode < 2 then releaseFrag s serial Obj.EVT_STATUS.DELIVERED
      else if f.rejected then releaseFrag s serial Obj.EVT_STATUS.REJECTED
      else setFrag s serial (fun x => { x with state := .offered })
    else s

/-- FRAGMENT_TRANSFER_DONE (R150): the send of a fragment in TRANSFER completes; one that still waits in its ring has not
been sent. -/
def execFragmentTransferDone (serial : Nat) (s : State) : Host.Outcome State Fault Refusal :=
  match fragOf s serial with
  | none => .next s
  | some f =>
    if f.ship.mode < 2 ∧ (ringOf s f.ship.ring).queue.any (fun r => r.src == .fragment serial) then .next s
    else .next (transferEnds s serial)

/-- FRAGMENT_OFFER_TIMER (R150, R151): `REPLY_MS` without a reply; the third in a row raises fault 0x0603, and the
fragment or its announcement is offered again. -/
def execFragmentOfferTimer (serial : Nat) (s : State) : Host.Outcome State Fault Refusal :=
  match fragOf s serial with
  | none => .next s
  | some f =>
    if f.state = .offered then
      let s1 := setFrag s serial (fun x => { x with offers := x.offers + 1 })
      let s2 := if f.offers + 1 = 3 then raise s1 0x0603 0 (serial % 2 ^ 32) 3 else s1
      .next (if f.ship.mode = 2 then shipMessage s2 f 4 f.bytes else shipMessage s2 f 5 (announcement f.bytes))
    else .next s

/-- A reply has come: the offers count anew and fault 0x0603 clears (R151, R154). -/
def replyCame (s : State) (serial : Nat) (w : Nat) : State :=
  clearFault (setFrag (takeMessage s (shipLink w) 6) serial (fun x => { x with offers := 0 })) 0x0603 0

/-- REPLY_ACCEPT (R151): the named fragment is released as delivered; one that is not held is ignored. -/
def execReplyAccept (serial : Nat) (s : State) : Host.Outcome State Fault Refusal :=
  let s1 := replyCame s serial (rd s Obj.EVT_SHIP.PORT)
  match fragOf s1 serial with
  | none => .next s1
  | some f =>
    if 2 ≤ f.ship.mode ∧ (f.state = .offered ∨ f.state = .transfer) then
      .next (releaseFrag s1 serial Obj.EVT_STATUS.DELIVERED)
    else .next s1

/-- REPLY_REJECT (R151): the named fragment is released as rejected, after a running transfer. -/
def execReplyReject (serial : Nat) (s : State) : Host.Outcome State Fault Refusal :=
  let s1 := replyCame s serial (rd s Obj.EVT_SHIP.PORT)
  match fragOf s1 serial with
  | none => .next s1
  | some f =>
    if 2 ≤ f.ship.mode ∧ f.state = .offered then .next (releaseFrag s1 serial Obj.EVT_STATUS.REJECTED)
    else if 2 ≤ f.ship.mode ∧ f.state = .transfer then
      .next (setFrag s1 serial (fun x => { x with rejected := true }))
    else .next s1

/-- The fragment that a reply names, while it is held: a released one is not (R150, R151). -/
def heldFrag (s : State) (serial : Nat) : Option Fragment := (fragOf s serial).filter (fun f => f.state != .released)

/-- The 16 bytes of a concentrator reply. -/
def replyBytes (ty chip serial globalId : Nat) : Bytes :=
  [ty, chip % 16] ++ leBytes 5 serial ++ [0] ++ leBytes 6 globalId ++ [0, 0]

/-- REPLY_REQUEST (R151): in mode 3 the id is written, the trailer computed anew and the full fragment sent; in mode 2 it
is a protocol error, refused and counted; a serial that is not held is answered GONE. -/
def execReplyRequest (serial globalId : Nat) (s : State) : Host.Outcome State Fault Refusal :=
  let s1 := replyCame s serial (rd s Obj.EVT_SHIP.PORT)
  match heldFrag s1 serial with
  | none =>
    .next (axPost (bump s1 Obj.EVT_STATUS.GONE 0 1) (shipLink (rd s Obj.EVT_SHIP.PORT)) 6
      (replyBytes 4 s.ctl.chipId serial 0))
  | some f =>
    if f.ship.mode = 3 ∧ f.state = .offered then
      let b := withGlobalId f.bytes (globalId % 2 ^ 48)
      let s2 := storeBytes (setFrag s1 serial (fun x => { x with state := .transfer, bytes := b })) (evtAddr s f.off) b
      .next (shipMessage s2 f 4 b)
    else if f.ship.mode = 2 then .next (setEvt s1 (fun e => { e with badRequests := e.badRequests + 1 }))
    else .next s1

/-- `EVT_STATUS` as it stands. -/
def evtSnapshot (s : State) : State :=
  wr (wr s Obj.EVT_STATUS.USED_KIB 0 ((evtUsed s + 1023) / 1024)) Obj.EVT_STATUS.OLDEST 0
    (((s.evt.frags.find? (fun f => f.state != .released)).map (fun f => f.serial)).getD 0)

end Sys2Proof.Machine
end

