-- ==== Sys2Proof/Machine/Trig.lean ====
section
/-! DEFINITION. Cosine and sine in fixed point, by the power series in integers: the phasor of Sunflower (R218), the
twiddle factors of the channelizer's FFT (R98) and of event interferometry (R210). -/

namespace Sys2Proof.Machine

/-- π × 2⁶². -/
def piFix : Int := 14488038916154245684

/-- A power series in x² with alternating signs, in units of 2^-62: the term t of degree n, then the terms that follow. -/
def phasorSeries : Nat → Int → Int → Nat → Int
  | 0, _, _, _ => 0
  | k + 1, t, x, n =>
    t + phasorSeries k ((-(t * x / 2 ^ 62 * x / 2 ^ 62)) / (((n + 1) * (n + 2) : Nat) : Int)) x (n + 2)

/-- Cosine and sine of m ÷ n of a quarter turn, 0 ≤ m < n, in units of 2^-62. -/
def quarter (m n : Nat) : Int × Int :=
  let x := piFix * (m : Int) / (2 * (n : Int))
  (phasorSeries 14 (2 ^ 62) x 0, phasorSeries 14 x x 1)

/-- Cosine and sine of m ÷ 4n of a turn, in units of 2^-62. -/
def turn (m n : Nat) : Int × Int :=
  let q := quarter (m % n) n
  match m / n % 4 with
  | 0 => (q.1, q.2)
  | 1 => (-q.2, q.1)
  | 2 => (-q.1, -q.2)
  | _ => (q.2, -q.1)

/-- Σ y[p] × e^(−j2πkp ÷ 4n) over a list from p on, in units of 2^-62 (R98). -/
def dftFrom (n k : Nat) : Nat → List Int → Int × Int
  | _, [] => (0, 0)
  | p, y :: t =>
    let w := turn (k * p) n
    let r := dftFrom n k (p + 1) t
    (y * w.1 + r.1, r.2 - y * w.2)

end Sys2Proof.Machine
end

