-- ==== Sys2Proof/Machine/Conc.lean ====
section
/-! DEFINITION. The concentrator: contexts, level 3, fetching, event interferometry, built events
(R204 to R213, `09_multi_chip_correlation_and_concentration.md`). -/

namespace Sys2Proof.Machine

/-- Change the concentrator. -/
def setConc (s : State) (f : Concentrator → Concentrator) : State := { s with conc := f s.conc }

/-- Show the contexts in use; fault 0x0807 clears when 90 % are free (R214). -/
def concLevels (s : State) : State :=
  let s1 := wr s Obj.PEER_CONC_STATUS.OPEN 0 s.conc.opened.length
  if s.conc.opened.length * 10 ≤ 8192 then clearFault s1 0x0807 0 else s1

/-- The configuration of the concentrator that a context opens with (R215). -/
def concCfg (s : State) : SMap :=
  s.regs.filter (fun p => decide (0x0804 * 1048576 * 4096 ≤ p.1) && decide (p.1 < 0x0808 * 1048576 * 4096))

/-- A field of the configuration of a context. -/
def EventContext.get (c : EventContext) (f : Field) (i : Nat := 0) : Nat := fieldGet c.cfg f i

/-- The picoseconds of a TS96 (R8). -/
def psOfTs (t : Nat) : Int :=
  ((bits t 48 48 * 1000000000000 + bits t 18 30 * 1000 + bits t 8 10 : Nat) : Int)

/-- Two times lie within a join window (R204). -/
def joins (a b ns : Nat) : Bool := decide ((psOfTs a - psOfTs b).natAbs ≤ ns * 1000)

/-- A device has contributed to a context. -/
def EventContext.has (c : EventContext) (chip : Nat) : Bool := c.parts.any (fun p => p.chip == chip)

/-- An open context that an arrival may join (R204, R205). -/
def canJoin (a : Arrival) (c : EventContext) : Bool :=
  c.phase == .building && !c.untimed && bit a.time 0 && !c.has (a.chip % 16)
    && joins a.time c.timeFirst (c.get Obj.PEER_CONC.JOIN_NS)

/-- The context that an arrival joins: the one with the earliest first time among those that it may join (R204). -/
def joinWhich (s : State) (a : Arrival) : Option Nat :=
  (((List.range s.conc.opened.length).filter (fun k => (s.conc.opened[k]?).any (canJoin a))).foldl
    (fun best k =>
      match best with
      | none => some k
      | some b =>
        if (s.conc.opened[k]?).any (fun x => (s.conc.opened[b]?).any (fun y => decide (psOfTs x.timeFirst < psOfTs y.timeFirst)))
        then some k else some b) none)

/-- Send a reply of a type to the device of a contribution (R206, R208). -/
def concReply (s : State) (ty : Nat) (p : Contribution) (gid : Nat) : State :=
  axPost s (portOfLink s p.link) 6 (replyBytes ty p.chip p.serial gid)

/-! ### Event interferometry (R210) -/

/-- The blocks of a segment run and the code of a fragment's header. -/
def fragBlocks (b : Bytes) : Nat := leAt b 14 1
def fragCode (b : Bytes) : Nat := leAt b 15 1

/-- Where the section of the k-th kept input of a fragment begins. -/
def sectionAt (b : Bytes) (k : Nat) : Nat :=
  160 + up8 (4 * (256 - popCount 256 (leAt b 128 32))) + k * (16 + fragBlocks b * blockBytes (fragCode b))

/-- The samples of a kept input, and whether one of its blocks is void; none for an input that is not kept. -/
def inputSamples (b : Bytes) (i : Nat) : Option (List Int × Bool) :=
  let mask := leAt b 128 32
  if bit mask i then
    let at0 := sectionAt b (popCount i mask) + 16
    let ds := (List.range (fragBlocks b)).map (fun j => decodeBlock (fragCode b) (b.drop (at0 + j * blockBytes (fragCode b))))
    some ((ds.map (fun d => d.samples)).flatten, ds.any (fun d => d.void))
  else none

/-- The illegal blocks of the kept inputs of a fragment (R261). -/
def illegalBlocks (b : Bytes) : Nat :=
  ((List.range 256).map (fun i =>
    if bit (leAt b 128 32) i then
      let at0 := sectionAt b (popCount i (leAt b 128 32)) + 16
      ((List.range (fragBlocks b)).filter (fun j =>
        (decodeBlock (fragCode b) (b.drop (at0 + j * blockBytes (fragCode b)))).formatError)).length
    else 0)).sum

/-- t0: the absolute time of window cell 0, in half picoseconds (R210), never before the epoch (R477). -/
def windowZero (b : Bytes) : Int :=
  max 0 (2 * psOfTs (leAt b 48 12)
    + ((leAt b 104 8 : Int) - 256 * (leAt b 96 1 : Nat) - 2 * (leAt b 40 8 : Nat)) * 625)

/-- Bins 39 to 972 of the 4,096-point transform of the samples, in units of 2^-62 (R210 steps 2 and 3). -/
def keptBins (xs : List Int) : List (Int × Int) := (List.range 934).map (fun m => dftFrom 1024 (39 + m) 0 xs)

/-- The largest component of a list of bins. -/
def largestPart (bs : List (Int × Int)) : Nat := bs.foldl (fun m b => max m (max b.1.natAbs b.2.natAbs)) 0

/-- The 8+8-bit operands of an input: its largest component is 127 (R210 step 4); bins that are all 0 stay 0. -/
def crossOperands (xs : List Int) : List (Int × Int) :=
  let bs := keptBins xs
  let top := largestPart bs
  if top = 0 then bs else bs.map (fun b => (divAway (127 * b.1) top, divAway (127 * b.2) top))

/-- X_a × conj(X_b) in every kept bin (R210). -/
def crossProducts (a b : List (Int × Int)) : List (Int × Int) :=
  (a.zip b).map (fun p => (p.1.1 * p.2.1 + p.1.2 * p.2.2, p.1.2 * p.2.1 - p.1.1 * p.2.2))

/-- r at a lag of n steps of 312.5 ps, in units of 2^-62: the sum over the bins from k on, where a positive lag means that
b is later (R210). -/
def lagSum (n : Int) : Nat → List (Int × Int) → Int
  | _, [] => 0
  | k, p :: t =>
    let w := turn ((k : Int) * n % 4096).toNat 1024
    p.1 * w.1 + p.2 * w.2 + lagSum n (k + 1) t

/-- r_xx(0) of an input (R210). -/
def selfPower (xs : List (Int × Int)) : Nat := (xs.map (fun p => (p.1 ^ 2 + p.2 ^ 2).toNat)).sum

/-- p ÷ (q × √ab) × 32,767, rounded with halves away from zero. -/
def normalized (p : Int) (q ab : Nat) : Int :=
  let m : Int := ((isqrt (4 * p.natAbs ^ 2 * 32767 ^ 2 / (q ^ 2 * ab)) + 1) / 2 : Nat)
  if p < 0 then -m else m

/-- The lags of the largest r within ±`maxLag` ns (R210). -/
def peakLags (ps : List (Int × Int)) (maxLag : Nat) : List Int :=
  let top := maxLag * 16 / 5
  let all := (List.range (2 * top + 1)).map (fun j => ((j : Int) - (top : Int), lagSum ((j : Int) - (top : Int)) 39 ps))
  let best := all.foldl (fun m x => max m x.2) (lagSum 0 39 ps)
  (all.filter (fun x => decide (x.2 = best))).map (fun x => x.1)

/-- PEAK before its saturation and LAG_PS of two inputs, with t0_b − t0_a in half picoseconds (R210): the parabola through
the largest r and its neighbours gives τ_peak and r(τ_peak). -/
def crossPeakLag (xa xb : List Int) (maxLag : Nat) (d : Int) : Int × Int :=
  let a := crossOperands xa
  let b := crossOperands xb
  let ps := crossProducts a b
  let lags := peakLags ps maxLag
  let n := nth lags (Config.crossTie xa xb % max 1 lags.length) 0
  let r1 := lagSum (n - 1) 39 ps
  let r2 := lagSum n 39 ps
  let r3 := lagSum (n + 1) 39 ps
  let ab := selfPower a * selfPower b
  let den := 2 * r2 - r1 - r3
  if ab = 0 ∨ den ≤ 0 then (Config.crossPeak xa xb maxLag, Config.crossLag xa xb maxLag + d / 2)
  else
    (normalized (8 * den * r2 + (r3 - r1) ^ 2) (8 * den.toNat * 2 ^ 62) ab,
     divAway (2 * den * (625 * n + d) + 625 * (r3 - r1)) (4 * den.toNat))

/-- A visibility word of a product: real part in the low 32 bits (R11, R213). -/
def productWord (p : Int × Int) : Nat := ofInt 32 p.1 + ofInt 32 p.2 * 2 ^ 32

/-- The 2,048 bin products of a pair; those outside bins 39 to 972 are 0 (R210, R213). -/
def productWords (xa xb : List Int) : List Nat :=
  List.replicate 39 0 ++ (crossProducts (crossOperands xa) (crossOperands xb)).map productWord ++ List.replicate 1075 0

/-- The fragment of global input g in an event (R186): its device's, once it is there. -/
def fragOfGlobal (c : EventContext) (g : Nat) : Option Bytes :=
  (c.parts.find? (fun p => p.chip == g / 256)).bind (fun p => p.bytes)

/-- What interferometry gives for an entry of `PEER_PAIRS` (R210): entry, PEAK, LAG_PS and the bin products that
`MODE` 2 outputs. -/
def pairResult (c : EventContext) (e : Nat) : Option (Nat × Int × Int × List Nat) :=
  let a := c.get Obj.PEER_PAIRS.A e
  let b := c.get Obj.PEER_PAIRS.B e
  match fragOfGlobal c a, fragOfGlobal c b with
  | some fa, some fb =>
    match inputSamples fa (a % 256), inputSamples fb (b % 256) with
    | some (xa, va), some (xb, vb) =>
      let bins := if c.get Obj.PEER_INTF.MODE = 2 ∧ c.get Obj.PEER_PAIRS.XSPEC e = 1 then productWords xa xb else []
      if va || vb then some (e, -32768, 0, bins)
      else
        let r := crossPeakLag xa xb (c.get Obj.PEER_INTF.MAX_LAG_NS) (windowZero fb - windowZero fa)
        some (e, clampInt (-32767) 32767 r.1, r.2, bins)
    | _, _ => none
  | _, _ => none

/-- The pairs of an event; none with `MODE` 0. -/
def eventPairs (c : EventContext) : List (Nat × Int × Int × List Nat) :=
  if c.get Obj.PEER_INTF.MODE = 0 then []
  else (List.range (c.get Obj.PEER_INTF.N_PAIRS)).filterMap (pairResult c)

/-! ### Built events (R213) -/

/-- The interferometry record. -/
def intfRecord (c : EventContext) (ps : List (Nat × Int × Int × List Nat)) : Bytes :=
  if c.get Obj.PEER_INTF.MODE = 0 then []
  else
    [0x45, 0x56, 0x49, 0x46] ++ leBytes 4 ps.length ++ leBytes 4 (c.get Obj.PEER_INTF.MAX_LAG_NS) ++ [0, 0, 0, 0]
      ++ (ps.map (fun p => leBytes 2 p.1 ++ leBytes 2 (ofInt 16 p.2.1) ++ leBytes 4 (ofInt 32 p.2.2.1)
            ++ (p.2.2.2.map (leBytes 8)).flatten)).flatten

/-- The 48-byte header of a built event. -/
def eventHeader (nFrag flags gid expected contrib missing timeFirst spanPs len intfAt nPairs l3 : Nat) : Bytes :=
  [0x45, 0x56, 0x4E, 0x54, 1, nFrag % 256] ++ leBytes 2 flags ++ leBytes 6 gid ++ leBytes 2 expected
    ++ leBytes 2 contrib ++ leBytes 2 missing ++ leBytes 12 timeFirst ++ leBytes 4 spanPs ++ leBytes 4 len
    ++ leBytes 4 intfAt ++ leBytes 2 nPairs ++ leBytes 2 l3

/-- Devices as a mask. -/
def chipMask (cs : List Nat) : Nat := cs.foldl (fun m c => m ||| 2 ^ c) 0

/-- The bytes of a built event. -/
def eventBytes (c : EventContext) (ps : List (Nat × Int × Int × List Nat)) (l3 : Nat) : Bytes :=
  let frags := (List.range 16).filterMap (fun k => (c.parts.find? (fun p => p.chip == k)).bind (fun p => p.bytes))
  let here := c.parts.filterMap (fun p => if p.bytes.isSome then some p.chip else none)
  let gone := c.parts.filterMap (fun p => if p.bytes.isSome then none else some p.chip)
  let body := frags.flatten
  let rec0 := intfRecord c ps
  let held := c.parts.any (fun p => bit p.time 0 && bit p.time 3)
  let flags := b2n c.incomplete + 2 * b2n c.lateJoined + 4 * b2n (!rec0.isEmpty)
    + 8 * b2n (ps.any (fun p => p.2.1 == -32768)) + 16 * b2n c.untimed + 32 * b2n held
  withTrailer (eventHeader frags.length flags c.gid c.expected (chipMask here) (chipMask gone) c.timeFirst c.spanPs
    (48 + body.length + rec0.length + 8) (if rec0.isEmpty then 0 else 48 + body.length) ps.length l3 ++ body ++ rec0)

/-- Drop context k. -/
def dropContext (s : State) (k : Nat) : State :=
  concLevels (setConc s (fun x => { x with opened := x.opened.eraseIdx k }))

/-- XCORR drops an event: too few of its pairs reach `PEAK_THRESH` (R211). -/
def xcorrDrops (c : EventContext) : Bool :=
  bit (c.get Obj.PEER_L3.ENABLE) 3
    && decide (((eventPairs c).filter (fun p => decide ((c.get Obj.PEER_L3.PEAK_THRESH : Int) ≤ p.2.1))).length
        < c.get Obj.PEER_L3.MIN_PEAKS)

/-- The event of a context as it goes out (R213). -/
def builtEvent (c : EventContext) : BuiltEvent :=
  ⟨eventBytes c (eventPairs c) (c.l3 + 8 * b2n (bit (c.get Obj.PEER_L3.ENABLE) 3)), c.get Obj.PEER_CONC.DEST,
   c.get Obj.PEER_CONC.RING, c.get Obj.PEER_CONC.PORT, false⟩

/-- Queue 11 has a credit for a built event (R16, R17, R280). -/
def eventRoom (s : State) : Bool := decide (s.conc.out.length < queueSlots 11) && domOn s 343

/-- Ready events go out, in order, as long as queue 11 has room (R16); `fuel` bounds them. -/
def eventsOut : Nat → State → State
  | 0, s => s
  | fuel + 1, s =>
    match s.conc.ready with
    | [] => s
    | g :: rest =>
      if !eventRoom s then s
      else
        let s1 := setConc s (fun x => { x with ready := rest })
        match s.conc.opened.findIdx? (fun c => c.phase == .ready && c.gid == g) with
        | none => eventsOut fuel s1
        | some k =>
          match s.conc.opened[k]? with
          | none => eventsOut fuel s1
          | some c =>
            eventsOut fuel (clockStarts (setConc (dropContext s1 k) (fun x => { x with out := x.out ++ [builtEvent c] })) 12)

/-- A slot of queue 11 frees: the next ready event goes out. -/
def eventTaken (s : State) : State :=
  eventsOut s.conc.ready.length (setConc s (fun x => { x with out := x.out.drop 1 }))

/-- Context k leaves for its output, unless XCORR drops it (R211); it keeps its context while queue 11 is full. -/
def deliverContext (s : State) (k : Nat) : State :=
  match s.conc.opened[k]? with
  | none => s
  | some c =>
    if xcorrDrops c then bump (dropContext s k) Obj.PEER_CONC_STATUS.XCORR_DROPPED 0 1
    else
      eventsOut (s.conc.ready.length + 1) (setConc s (fun x =>
        { x with opened := upd x.opened k (fun y => { y with phase := .ready }), ready := x.ready ++ [c.gid] }))

/-- Every requested fragment of context k is there or will not come: interferometry, or delivery (R208, R210). -/
def contextWhole (s : State) (k : Nat) : State :=
  match s.conc.opened[k]? with
  | none => s
  | some c =>
    if c.get Obj.PEER_INTF.MODE = 0 then deliverContext s k
    else setConc s (fun x => { x with opened := upd x.opened k (fun y => { y with phase := .interfering }) })

/-- Fetching ends where nothing is awaited any more (R208). -/
def fetchCheck (s : State) (k : Nat) : State :=
  match s.conc.opened[k]? with
  | none => s
  | some c => if c.parts.all (fun p => p.bytes.isSome || p.missing) then contextWhole s k else s

/-! ### Closing (R206, R207) -/

/-- Latest `TIME` − `TIME_FIRST` in ps; 0 for an untimed event. -/
def arrivalSpan (c : EventContext) : Nat :=
  if c.untimed then 0
  else (c.parts.foldl (fun m p => max m (psOfTs p.time - psOfTs c.timeFirst)) 0).toNat

/-- The tests that level 3 enables and that pass, as bits 0 to 2. -/
def l3Passed (c : EventContext) : Nat :=
  let en := c.get Obj.PEER_L3.ENABLE
  b2n (bit en 0 && decide (c.get Obj.PEER_L3.MIN_DEV ≤ c.parts.length))
    + 2 * b2n (bit en 1 && decide (c.get Obj.PEER_L3.MIN_INPUTS ≤ (c.parts.map (fun p => p.nKept)).sum))
    + 4 * b2n (bit en 2 && decide (arrivalSpan c ≤ c.get Obj.PEER_L3.MAX_SPAN_NS * 1000))

/-- The next count of global event ids: from 1, wrapping to 1 (R207). -/
def nextCount (n : Nat) : Nat := if n + 1 < 2 ^ 40 then n + 1 else 1

/-- A contribution of an accepted event is answered: a whole fragment takes the id and gets ACCEPT, an announcement
gets REQUEST (R206, R207). -/
def answerPart (gid : Nat) (s : State) (p : Contribution) : State :=
  if p.bytes.isSome then concReply s 1 p 0 else concReply s 3 p gid

/-- The list of the last 1,024 closed events (R209). -/
def remember (cs : List ClosedEvent) (e : ClosedEvent) : List ClosedEvent :=
  (if cs.length < 1024 then cs else cs.drop 1) ++ [e]

/-- The device that fault 0x0808 names (R448 gives one member): the lowest of `FRONT_MASK` that is missing (DESIGN CHOICE,
log entry 126). -/
def firstMissing (c : EventContext) : Nat :=
  ((List.range 16).find? (fun m => bit (c.get Obj.PEER_CONC.FRONT_MASK) m && c.parts.all (fun p => p.chip != m))).getD 0

/-- Context k closes, with `INCOMPLETE` or without; level 3 decides it (R206, R207). -/
def closeContext (s : State) (k : Nat) (incomplete : Bool) : State :=
  match s.conc.opened[k]? with
  | none => s
  | some c =>
    let l3 := l3Passed c
    let pass := decide (l3 = c.get Obj.PEER_L3.ENABLE % 8)
    let s0 := if incomplete then
        raise s 0x0808 0 (firstMissing c) 0
      else s
    let count := nextCount s.conc.count
    let gid := c.get Obj.PEER_CONC.ID_PREFIX * 2 ^ 40 + count
    let past : ClosedEvent := ⟨c.timeFirst, c.get Obj.PEER_CONC.JOIN_NS, c.untimed, pass, if pass then gid else 0,
      chipMask (c.parts.map (fun p => p.chip))⟩
    let s1 := setConc s0 (fun x => { x with closed := remember x.closed past })
    if pass then
      let s2 := wr (bump s1 Obj.PEER_CONC_STATUS.ACCEPTED 0 1) Obj.PEER_CONC_STATUS.LAST_ID 0 gid
      let parts := c.parts.map (fun p => { p with bytes := p.bytes.map (fun b => withGlobalId b gid) })
      let s3 := setConc s2 (fun x =>
        { x with count := count,
                 opened := upd x.opened k (fun y =>
                   { y with phase := .fetching, openedAt := s.time.rc64, gid := gid, parts := parts,
                            expected := y.get Obj.PEER_CONC.FRONT_MASK, incomplete := incomplete, l3 := l3,
                            spanPs := arrivalSpan c }) })
      fetchCheck (parts.foldl (answerPart gid) s3) k
    else
      dropContext (c.parts.foldl (fun t p => concReply t 2 p 0) (bump s1 Obj.PEER_CONC_STATUS.REJECTED 0 1)) k

/-- Every device of `FRONT_MASK` has contributed, or the context is untimed: it closes (R205, R206). -/
def closeIfWhole (s : State) (k : Nat) : State :=
  match s.conc.opened[k]? with
  | none => s
  | some c =>
    if c.untimed || (List.range 16).all (fun m => !bit (c.get Obj.PEER_CONC.FRONT_MASK) m || c.has m) then
      closeContext s k false
    else s

/-! ### Arrivals (R204, R205, R208, R209) -/

/-- The contribution of an arrival on link l; an announcement brings no fragment. -/
def contribution (l : Nat) (a : Arrival) (whole : Bool) : Contribution :=
  ⟨a.chip % 16, a.serial, a.time, a.nKept, if whole then some a.bytes else none, l, false⟩

/-- The fetching context that awaits the fragment of a device's announcement, or that a repeated announcement names. -/
def fetchingOf (s : State) (a : Arrival) : Option Nat :=
  s.conc.opened.findIdx? (fun c => c.phase == .fetching
    && c.parts.any (fun p => p.chip == a.chip % 16 && p.serial == a.serial && p.bytes.isNone && !p.missing))

/-- A requested fragment arrives and is accepted; a repeated announcement gets REQUEST with the same id (R208). -/
def fetched (s : State) (k : Nat) (p : Contribution) : State :=
  match s.conc.opened[k]? with
  | none => s
  | some c =>
    if p.bytes.isSome then
      let s1 := setConc s (fun x =>
        { x with opened := upd x.opened k (fun y =>
            { y with parts := updFirst (fun q => q.chip == p.chip && q.serial == p.serial)
                       (fun q => { q with bytes := p.bytes }) y.parts }) })
      fetchCheck (concReply s1 1 p 0) k
    else concReply s 3 p c.gid

/-- A context with one more part that joined late: the span of its times follows (R209, R213). -/
def EventContext.lateWith (c : EventContext) (q : Contribution) : EventContext :=
  { c with lateJoined := true, parts := c.parts ++ [q], spanPs := arrivalSpan { c with parts := c.parts ++ [q] } }

/-- A late arrival joins an event that is still fetching, and its device counts among those of the event (R209). -/
def joinLate (s : State) (k : Nat) (p : Contribution) : State :=
  match s.conc.opened[k]? with
  | none => s
  | some c =>
    let q := { p with bytes := p.bytes.map (fun b => withGlobalId b c.gid) }
    answerPart c.gid (setConc s (fun x =>
      { x with opened := upd x.opened k (fun y => y.lateWith q),
               closed := updFirst (fun e => e.gid == c.gid) (fun e => { e with devices := e.devices ||| 2 ^ p.chip })
                 x.closed })) q

/-- An arrival matches a remembered closed event (R204, R205, R209). -/
def matchesClosed (a : Arrival) (e : ClosedEvent) : Bool :=
  !e.untimed && bit a.time 0 && !bit e.devices (a.chip % 16) && joins a.time e.timeFirst e.joinNs

/-- The remembered event that an arrival matches: the one with the earliest first time (R204, R209). -/
def closedMatch (s : State) (a : Arrival) : Option ClosedEvent :=
  (s.conc.closed.filter (matchesClosed a)).foldl
    (fun best e =>
      match best with
      | none => some e
      | some b => if psOfTs e.timeFirst < psOfTs b.timeFirst then some e else some b) none

/-- The context of a remembered event that is still fetching (R209). -/
def stillFetching (s : State) (e : ClosedEvent) : Option Nat :=
  if e.accepted then s.conc.opened.findIdx? (fun c => c.phase == .fetching && c.gid == e.gid) else none

/-- New events open: not past CHECK of a transition that leaves Concentrate (R36). -/
def eventsOpen (s : State) : Bool :=
  phaseOf s == .steady || phaseOf s == .check || decide (rd s Obj.MODE_STATE.TARGET = Mode.concentrate.code)

/-- A fragment or an announcement arrives on link l. -/
def concArrival (s : State) (l : Nat) (a : Arrival) (whole : Bool) : State :=
  let p := contribution l a whole
  match fetchingOf s a with
  | some k => fetched s k p
  | none =>
    match joinWhich s a with
    | some k =>
      closeIfWhole (setConc s (fun x =>
        { x with opened := upd x.opened k (fun y => { y with parts := y.parts ++ [p] }) })) k
    | none =>
      match closedMatch s a with
      | some e =>
        match stillFetching s e with
        | some k => joinLate s k p
        | none => concReply (raise (bump s Obj.PEER_CONC_STATUS.LATE 0 1) 0x0809 0 (a.chip % 16) 0) 2 p 0
      | none =>
        if !eventsOpen s then s
        else if s.conc.opened.length < 8192 then
          let c : EventContext :=
            { phase := .building, timeFirst := a.time, openedAt := s.time.rc64, untimed := !bit a.time 0, parts := [p],
              gid := 0, expected := 0, incomplete := false, lateJoined := false, l3 := 0, spanPs := 0, cfg := concCfg s }
          closeIfWhole (concLevels (setConc s (fun x => { x with opened := x.opened ++ [c] }))) s.conc.opened.length
        else raise (bump s Obj.PEER_CONC_STATUS.CONTEXT_FULL 0 1) 0x0807 0 (a.chip % 16) 0

/-- CONC_FRAGMENT_ARRIVAL (R204 to R209): the fragment leaves queue 10 of its port and is handled in Concentrate. -/
def execConcFragmentArrival (l : Fin 16) (a : Arrival) (s : State) : Host.Outcome State Fault Refusal :=
  if modeOf s = .concentrate then .next (concArrival (takeMessage s l 4) l a true) else .next (takeMessage s l 4)

/-- CONC_ANNOUNCEMENT_ARRIVAL (R204 to R209). -/
def execConcAnnouncementArrival (l : Fin 16) (a : Arrival) (s : State) : Host.Outcome State Fault Refusal :=
  if modeOf s = .concentrate then .next (concArrival (takeMessage s l 5) l a false) else .next (takeMessage s l 5)

/-! ### Timers and GONE (R206, R208) -/

/-- The context of a phase whose time comes first, in the order of the list where times are equal. -/
def firstDue (s : State) (ph : ContextPhase) (due : EventContext → Nat) : Option Nat :=
  ((List.range s.conc.opened.length).foldl
    (fun (best : Option (Nat × Nat)) k =>
      match s.conc.opened[k]? with
      | none => best
      | some c =>
        if c.phase != ph then best
        else
          match best with
          | none => some (k, due c)
          | some b => if due c < b.2 then some (k, due c) else some b) none).map (fun x => x.1)

/-- BUILD_TIMEOUT (R206): `BUILD_US`, as a context opened with it, have passed since it opened: it closes, `INCOMPLETE`,
since devices of `FRONT_MASK` are missing. -/
def execBuildTimeout (s : State) : Host.Outcome State Fault Refusal :=
  match firstDue s .building (fun c => c.openedAt + 1600 * c.get Obj.PEER_CONC.BUILD_US) with
  | some k => .next (closeContext s k true)
  | none => .next s

/-- The parts of context k that a test names are missing (R208). -/
def partsMissing (s : State) (k : Nat) (p : Contribution → Bool) : State :=
  fetchCheck (setConc s (fun x =>
    { x with opened := upd x.opened k (fun y =>
        { y with parts := y.parts.map (fun q => if p q && q.bytes.isNone then { q with missing := true } else q) }) })) k

/-- FETCH_TIMEOUT (R208): `FETCH_MS` after its decision a fetching event goes on without what is missing. -/
def execFetchTimeout (s : State) : Host.Outcome State Fault Refusal :=
  match firstDue s .fetching (fun c => c.openedAt + 1600000 * c.get Obj.PEER_CONC.FETCH_MS) with
  | some k => .next (partsMissing s k (fun _ => true))
  | none => .next s

/-- CONC_GONE (R208): the device no longer holds the fragment and is missing at once. -/
def execConcGone (l : Fin 16) (chip serial : Nat) (s : State) : Host.Outcome State Fault Refusal :=
  let s1 := takeMessage s l 6
  match s.conc.opened.findIdx? (fun c => c.phase == .fetching
      && c.parts.any (fun p => p.chip == chip % 16 && p.serial == serial && p.bytes.isNone)) with
  | some k => .next (partsMissing s1 k (fun p => p.chip == chip % 16 && p.serial == serial))
  | none => .next s1

/-- The decompressor has decoded every kept input of context k: its illegal blocks are counted (R210, R261). -/
def blocksDecoded (s : State) (k : Nat) : State :=
  let n := ((((s.conc.opened[k]?).map (fun c => c.parts)).getD []).map (fun p => (p.bytes.map illegalBlocks).getD 0)).sum
  (List.range n).foldl (fun t _ =>
    raise (bump t Obj.CMP_STATUS.FR_FORMAT 0 1) 0x0B03 0 (rd t Obj.CMP_STATUS.FR_FORMAT + 1) 0) s

/-- INTERFEROMETRY_DONE (R210, R211, R261): the event in interferometry that was decided first is delivered or dropped. -/
def execInterferometryDone (s : State) : Host.Outcome State Fault Refusal :=
  match firstDue s .interfering (fun c => c.openedAt) with
  | some k => .next (deliverContext (blocksDecoded s k) k)
  | none => .next s

/-- Concentrate ends (R36): open events close as incomplete, in order; `fuel` bounds them. -/
def concCloseAll : Nat → State → State
  | 0, s => s
  | fuel + 1, s =>
    match s.conc.opened.findIdx? (fun c => c.phase == .building) with
    | some k => concCloseAll fuel (closeContext s k true)
    | none => s

end Sys2Proof.Machine
end

