-- ==== Sys2Proof/Machine/Converters.lean ====
section
/-! DEFINITION. The continuous converters: samples and flags, capture records, interleave calibration
(R92 to R96, `05_converters_and_channelizer.md`). -/

namespace Sys2Proof.Machine

/-- Change the converters. -/
def setCnv (s : State) (f : Converters → Converters) : State := { s with cnv := f s.cnv }

/-- The raw value corrected for the offset and the gain of its sub-converter, in 2^-42 LSB (R92): the raw value 512 is 0
and four raw steps are one LSB (log entry 109). -/
def correctRaw (c : SubCorrection) (raw : Nat) : Int := (((raw : Int) - 512) * 65536 + c.offset) * (16777216 + c.gain)

/-- An 8-bit sample: the corrected value rounded to nearest, halves away from zero, saturated (R92). -/
def sampleOf (corrected : Int) : Int := clampInt (-128) 127 (divAway corrected (2 ^ 42))

/-- OVR of a sample: raw at an end of its 10-bit range, or corrected value at −128 or +127 (R92). -/
def sampleOvr (raw : Nat) (corrected : Int) : Bool :=
  decide (raw = 0) || decide (1023 ≤ raw) || decide (sampleOf corrected = -128) || decide (sampleOf corrected = 127)

/-- The word of one input with its flags (R93). -/
structure InputWord where
  samples : List Int
  ovr : Nat
  settle : Nat
  clamp : Bool
  line : Bool
  deriving DecidableEq, Repr

/-- A mask of 16 bits from a test. -/
def mask16 (p : Nat → Bool) : Nat := (List.range 16).foldl (fun m j => if p j then m + 2 ^ j else m) 0

/-- Form the word of input i from sample 16w on; a DISABLED input gives 0 (R57, R92, R93). -/
def inputWord (s : State) (w : WordIn) (start i : Nat) : InputWord :=
  let raw (j : Nat) := nth (nth w.samples i []) j 512
  let value (j : Nat) := correctRaw (nth s.cnv.corr (i * 8 + (start + j) % 8) ⟨0, 0, 0⟩) (raw j)
  let settle := mask16 (fun j => settleMarked s i (start + j))
  if lineState s i = 3 then ⟨List.replicate 16 0, 0, settle, clampMarked s i start, true⟩
  else
    ⟨(List.range 16).map (fun j => sampleOf (value j)), mask16 (fun j => sampleOvr (raw j) (value j)),
     settle, clampMarked s i start, lineMarked s i⟩

/-- Add a word to the frame sums of its input (R48, R49, R56). -/
def frameAdd (x : InputWord) (f : FrameSum) : FrameSum :=
  (List.range 16).foldl
    (fun g j =>
      let v := (nth x.samples j 0).natAbs
      let flg3 := x.clamp || bit x.ovr j || bit x.settle j
      let g1 := { g with sumAll := g.sumAll + v * v, flagged := g.flagged + b2n flg3, total := g.total + 1,
                         marked := g.marked || flg3 || x.line, peak := max g.peak v }
      if flg3 || x.line then { g1 with excluded := g1.excluded + 1 }
      else { g1 with sumSq := g1.sumSq + v * v, count := g1.count + 1 }) f

/-- The capture record of a word (R94). -/
def captureRecord (x : InputWord) (i w : Nat) : Bytes :=
  x.samples.map (ofInt 8) ++ leBytes 2 x.ovr ++ leBytes 2 x.settle ++ [b2n x.clamp + 2 * b2n x.line, i, 0, 0]
    ++ leBytes 8 w

/-- First byte of the scratch region in the Spectrum map (R388). -/
def scratchBase : Nat := 0x0113F00000

/-- A running capture takes the word, from its start on, until it has them all (R388). -/
def captureWord (s : State) (words : List InputWord) (w : Nat) : State :=
  match s.cnv.capture with
  | none => s
  | some c =>
    if c.taken < c.words ∧ (c.taken ≠ 0 ∨ c.startRc64 ≤ 16 * w) then
      let x := nth words c.input ⟨List.replicate 16 0, 0, 0, false, false⟩
      setCnv (storeBytes s (scratchBase + 32 * c.taken) (captureRecord x c.input w))
        (fun v => { v with capture := some { c with taken := c.taken + 1, firstWord := some (c.firstWord.getD w) } })
    else s

/-- The per-block counts of an input (R95, R113): samples with OVR, with any flag, and all. -/
def blockCounts (s : State) (i : Nat) (x : InputWord) : State :=
  let any := if x.clamp || x.line then 16 else popCount 16 (x.ovr ||| x.settle)
  setCnv s (fun v =>
    { v with ovr := mapSet v.ovr i (mapGet v.ovr i + popCount 16 x.ovr),
             flagged := mapSet v.flagged i (mapGet v.flagged i + any),
             samples := mapSet v.samples i (mapGet v.samples i + 16) })

/-- A sample of a word carries a flag (R93). -/
def sampleMarked (x : InputWord) (j : Nat) : Bool := x.clamp || x.line || bit x.ovr j || bit x.settle j

/-- A sub-converter's sample joins what calibration gathers (R95); `before` is the sample before it where that one
carries no flag either. -/
def gatherSample (g : SubSum) (v : Int) (before : Option Int) : SubSum :=
  let g1 := { g with n := g.n + 1, sum := g.sum + v, sq := g.sq + v.natAbs * v.natAbs }
  match before with
  | some b => { g1 with pairs := g1.pairs + 1, prod := g1.prod + v * b }
  | none => g1

/-- With `RUN`, background calibration gathers the samples of a word of input i that carry no flag, sample 16w on tick
`start`, and with `SKEW` their products with their neighbours (R95). -/
def gatherWord (s : State) (i start : Nat) (x : InputWord) : State :=
  if lv s Obj.CNV_CAL.RUN = 0 then s
  else
    let skew := decide (lv s Obj.CNV_CAL.SKEW ≠ 0)
    let before (j : Nat) : Option Int :=
      if !skew then none
      else if j = 0 then
        (if bit s.cnv.clean i && decide (s.cnv.histEnd = start) then some (nth (nth s.cnv.hist i []) 0 0) else none)
      else if sampleMarked x (j - 1) then none else some (nth x.samples (j - 1) 0)
    setCnv s (fun v =>
      { v with
        gather := (List.range 16).foldl (fun g j =>
          if sampleMarked x j then g
          else upd g (i * 8 + (start + j) % 8) (fun q => gatherSample q (nth x.samples j 0) (before j))) v.gather })

/-- The inputs whose newest sample carries no flag. -/
def noteClean (s : State) (words : List InputWord) : State :=
  setCnv s (fun v =>
    { v with clean := (List.range 256).foldl (fun m i =>
        if sampleMarked (nth words i ⟨[], 0, 0, true, false⟩) 15 then m else m + 2 ^ i) 0 })

/-- The history of samples after a word; a gap in the words starts it anew. -/
def pushWords (s : State) (words : List InputWord) (start : Nat) : State :=
  setCnv s (fun v =>
    let old := if v.histEnd = start then v.hist else List.replicate 256 []
    { v with hist := (List.range 256).map (fun i =>
               (((nth words i ⟨[], 0, 0, false, false⟩).samples.reverse) ++ nth old i []).take 16384),
             histEnd := start + 16 })

/-- Sample n of input i from the history; 0 where it is not held. -/
def sampleAt (s : State) (i n : Nat) : Int :=
  if n < s.cnv.histEnd then nth (nth s.cnv.hist i []) (s.cnv.histEnd - 1 - n) 0 else 0

/-- More than half of the samples of input i in this block carry flags: it gives no estimate (R95). -/
def blockMarked (s : State) (i : Nat) : Bool := decide (mapGet s.cnv.samples i < 2 * mapGet s.cnv.flagged i)

/-- The corrections of input i are held (R95): DISABLED, `FREEZE`, or no estimate from the last block. -/
def correctionsHeld (s : State) (i : Nat) : Bool :=
  decide (lineState s i = 3) || decide (lv s Obj.CNV_CAL.FREEZE ≠ 0) || bit s.cnv.noEstimate i

/-- One correction moves toward its estimate by 2^(−MU), at most by its limit (R95). -/
def moveToward (mu : Nat) (cur est : Int) : Int := cur + clampInt (-4096) 4096 ((est - cur) / ((2 ^ mu : Nat) : Int))

/-- What the last whole block gathered of the eight sub-converters of input i. -/
def gatheredOf (s : State) (i : Nat) : List (Nat × Int × Nat × Nat × Int) :=
  (List.range 8).map (fun j =>
    let g := nth s.cnv.measured (i * 8 + j) SubSum.zero
    (g.n, g.sum, g.sq, g.pairs, g.prod))

/-- The corrections of input × 8 + sub-converter j after an update (R95): held, or moved toward the estimates that the
last whole block gives, with what else the estimator goes by; without `SKEW` the sampling instant stays. -/
def updatedCorrection (s : State) (estimator : List Int) (j : Nat) : SubCorrection :=
  let c := nth s.cnv.corr j ⟨0, 0, 0⟩
  let mu := lv s Obj.CNV_CAL.MU
  let g := gatheredOf s (j / 8)
  if correctionsHeld s (j / 8) then c
  else ⟨moveToward mu c.offset (Config.offsetEstimate g estimator (j % 8)),
        moveToward mu c.gain (Config.gainEstimate g estimator (j % 8)),
        if lv s Obj.CNV_CAL.SKEW = 0 then c.skew else moveToward mu c.skew (Config.skewEstimate g estimator (j % 8))⟩

/-- CNV_CAL_UPDATE (R95): with `RUN` = 1 and `UPDATE` blocks after the last update each correction that is not held moves
toward its estimate; the new ones wait for the next frame boundary.  R95 gives no estimator: `estimator` is what it goes
by beside what it gathered (log entry 21). -/
def execCnvCalUpdate (estimator : List Int) (s : State) : Host.Outcome State Fault Refusal :=
  if cnvOn s && decide (lv s Obj.CNV_CAL.RUN ≠ 0) && decide (lv s Obj.CNV_CAL.UPDATE ≤ s.cnv.blocks) then
    .next (setCnv s (fun v =>
      { v with corrNext := some ((List.range 2048).map (updatedCorrection s estimator)), blocks := 0 }))
  else .next s

/-- Store the coefficients in use (R96). -/
def storeCoefficients (s : State) : State :=
  wr (wr (wr (setCnv s (fun v => { v with stored := v.corr })) Obj.CNV_CAL_INFO.STORED_VALID 0 1)
    Obj.CNV_CAL_INFO.TJ_STORED 0 (ofInt 8 (s.bbl.tj / 2))) Obj.CNV_CAL_INFO.STORE_TIME 0 (ts96Now s)

/-- CNV_COEFF_STORE (R96): every 10 minutes while the converters run. -/
def execCnvCoeffStore (s : State) : Host.Outcome State Fault Refusal :=
  if cnvOn s then .next (storeCoefficients s) else .next s

/-- The converters load their stored coefficients when they start, where R96 allows it; else they start from cold, with
corrections 0.  Counts, sums and frames of an earlier run are gone (R112: a block counts whole; log entry 110). -/
def converterStart (s : State) : State :=
  let warm := flag s Obj.CNV_CAL_INFO.STORED_VALID && !flag s Obj.MODE_PLAN.COLD_CAL
    && decide ((s.bbl.tj - 2 * toInt 8 (rd s Obj.CNV_CAL_INFO.TJ_STORED)).natAbs ≤ 30)
  setCnv { s with afe := { s.afe with inputs := s.afe.inputs.map (fun x =>
      { x with cur := FrameSum.empty x.cur.range, frames := [] }) } } (fun v =>
    { v with corr := if warm then v.stored else List.replicate 2048 ⟨0, 0, 0⟩, corrNext := none,
             gather := List.replicate 2048 SubSum.zero, measured := List.replicate 2048 SubSum.zero, clean := 0,
             noEstimate := 0, blocks := 0, ovr := [], flagged := [], samples := [], spurRun := [], cleanRun := [] })

/-- The corrections that a calibration finds are free values (R96; log entry 21). -/
def foundCorrection (n j : Nat) : SubCorrection :=
  ⟨Config.startCorrection n (3 * j), Config.startCorrection n (3 * j + 1), Config.startCorrection n (3 * j + 2)⟩

/-- The calibration of a start has found its corrections: they are the ones in use, and are stored (R96). -/
def calibrationFound (s : State) : State :=
  storeCoefficients (setCnv (drawFree s).2 (fun v =>
    { v with corr := (List.range 2048).map (foundCorrection s.free) }))

/-- The corrections of the last update take effect at a frame boundary (R95). -/
def frameCorrections (s : State) : State :=
  match s.cnv.corrNext with
  | some c => setCnv s (fun v => { v with corr := c, corrNext := none })
  | none => s

/-- Input i has been converted through the whole block. -/
def wholeBlock (s : State) (i : Nat) : Bool := decide (mapGet s.cnv.samples i = 2097152)

/-- The converter part of a block boundary for input i after a whole block (R111 to R113): `CNV_STATUS` latches, faults
0x0301 and 0x0302 are judged on the image estimate in −dBc and the OVR count. -/
def converterBlock (s : State) (i image : Nat) : State :=
  let ovr := mapGet s.cnv.ovr i
  let held := decide (lineState s i = 3) || decide (lv s Obj.CNV_CAL.FREEZE ≠ 0) || blockMarked s i
  let s1 := [(Obj.CNV_STATUS.OVR_COUNT, ovr), (Obj.CNV_STATUS.HELD, b2n held), (Obj.CNV_STATUS.IMAGE, min 127 image),
    (Obj.CNV_STATUS.CONVERGED, 1), (Obj.CNV_STATUS.SPX0, spxOf (s.time.rc64 - 2097152))].foldl (fun t p => wr t p.1 i p.2) s
  let spur := if image < 54 then mapGet s.cnv.spurRun i + 1 else 0
  let clean := if 57 < image then mapGet s.cnv.cleanRun i + 1 else 0
  let s2 := setCnv s1 (fun v =>
    { v with spurRun := mapSet v.spurRun i spur, cleanRun := mapSet v.cleanRun i clean })
  let s3 := if spur = 64 then raise s2 0x0301 i i 0 else s2
  let s4 := if clean = 64 then clearFault s3 0x0301 i else s3
  if lv s Obj.CNV_CAL.OVR_ALARM * 256 < ovr then raise s4 0x0302 i i 0 else s4

/-- The counts of a block end: what it gathered stands as the last whole block where every input has run through it, and
a new block begins (R95). -/
def converterCounts (s : State) : State :=
  let whole := wholeBlock s 0
  setCnv s (fun v =>
    { v with gather := List.replicate 2048 SubSum.zero, measured := if whole then v.gather else v.measured,
             noEstimate := if whole then
                 (List.range 256).foldl (fun m i => if blockMarked s i then m + 2 ^ i else m) 0 else v.noEstimate,
             blocks := if whole then v.blocks + 1 else v.blocks, ovr := [], flagged := [], samples := [] })

end Sys2Proof.Machine
end

