-- ==== Sys2Proof/Machine/PeerOps.lean ====
section
/-! DEFINITION. The peer stage: group control messages and their routes, peer packets, group buffers
(R185 to R203, `09_multi_chip_correlation_and_concentration.md`). -/

namespace Sys2Proof.Machine

/-- Change the peer stage. -/
def setPeer (s : State) (f : PeerState → PeerState) : State := { s with peer := f s.peer }

/-- `PEER_STATUS.STATE`: 0 OFF, 1 LOCAL, 2 READY, 3 WAIT_GO, 4 RUNNING, 5 STOPPING (R195). -/
def peerStage (s : State) : Nat := rd s Obj.PEER_STATUS.STATE

/-- K: the channels of a member (R186). -/
def peerChannels (s : State) : Nat := if cluster16 s then 4 else 64

/-- K_BAND. -/
def peerBand (s : State) : Nat := if cluster16 s then 64 else 256

/-- GEOM of a group control message and of `PEER_STATUS`. -/
def geomCode (s : State) : Nat := if cluster16 s then 2 else 1

/-- Member m is not lost (`LIVE`). -/
def memberLive (s : State) (m : Nat) : Bool := bit (rd s Obj.PEER_STATUS.LIVE) m

/-! ### Routes of control messages (R191) -/

/-- The wide port by which member m sends toward member d, with every port up. -/
def staticHop (s : State) (m d : Nat) : Nat :=
  if cluster16 s then
    if m % 4 ≠ d % 4 then (if plusWay (m % 4) (d % 4) then 0 else 1)
    else if plusWay (m / 4) (d / 4) then 2 else 3
  else (d + 4 - m + 3) % 4

/-- Member `me` lies on the way from m to d; `fuel` bounds the hops. -/
def onWay (s : State) (me d : Nat) : Nat → Nat → Bool
  | 0, _ => false
  | fuel + 1, m => if m = me then true else if m = d then false else onWay s me d fuel (cabled s m (staticHop s m d)).1

/-- The wide ports on which this member sends, or passes on, a control message of member m. -/
def controlPorts (s : State) (m : Nat) : List Nat :=
  (((List.range (memberCount s)).filter (fun d => d != memberNo s && d != m && onWay s (memberNo s) d 5 m)).map
    (routeTo s)).eraseDups

/-- Send bytes of a control message of member m onward. -/
def sendControl (s : State) (m : Nat) (b : Bytes) : State :=
  (controlPorts s m).foldl (fun t w => axPost t (4 * w) 2 b) s

/-- The 24 bytes of a group control message (R194). -/
def groupBytes24 (ty member : Nat) (frameOk : Bool) (geom kFirst sec gspx : Nat) : Bytes :=
  [ty, member % 16 + 128 * b2n frameOk, geom, 0] ++ leBytes 2 kFirst ++ [0, 0] ++ leBytes 6 sec ++ [0, 0]
    ++ leBytes 4 gspx ++ [0, 0, 0, 0]

/-- A control message of this member. -/
def ownControl (s : State) (ty sec gspx : Nat) : Bytes :=
  groupBytes24 ty (memberNo s) (flag s Obj.TIM_PPS.FRAME_OK) (geomCode s) (lv s Obj.PEER_CFG.K_FIRST) sec gspx

/-! ### Time (R193) -/

/-- GSPX at the edge of a TAI second. -/
def gspxOfSecond (sec : Nat) : Nat := sec * 781250 % 2 ^ 32

/-- The first block boundary at or after a GSPX. -/
def blockAtOrAfter (g : Nat) : Nat := (g % 2 ^ 32 + 1023) / 1024 * 1024 % 2 ^ 32

/-- GSPX now, from the local spectrum index. -/
def gspxNow (s : State) : Nat := (spxNow s + 2 ^ 32 - rd s Obj.PEER_STATUS.DELTA) % 2 ^ 32

/-- The number of the local spectrum of a GSPX near now, not reduced modulo 2³². -/
def localSpectrum (s : State) (g : Nat) : Nat := (((s.time.rc64 / 2048 : Nat) : Int) + spxDist g (gspxNow s)).toNat

/-! ### Peer packets (R198 to R201) -/

/-- The group of a GSPX. -/
def groupOf (g : Nat) : Nat := g % 2 ^ 32 / 64 * 64

/-- Peer data of a GSPX is formed and accepted: from the block of GO, up to the stop boundary (R195, R197). -/
def peerDataAt (s : State) (g : Nat) : Bool :=
  decide (4 ≤ peerStage s) && decide (0 ≤ spxDist g s.peer.goGspx)
    && (match s.peer.stopAt with
        | some b => decide (spxDist g b < 0)
        | none => true)

/-- Member m's data of a GSPX counts: it is live and has not left, or its block of return has come (R196, R197, R203). -/
def memberCounts (s : State) (m g : Nat) : Bool :=
  let gone := mapGet s.peer.left m
  let back := mapGet s.peer.rejoin m
  (memberLive s m && (decide (gone = 0) || decide (spxDist g (gone - 1) < 0)))
    || (decide (back ≠ 0) && decide (0 ≤ spxDist g (back - 1)))

/-- The first word of a buffer of the peer stage's corner-turn region (R199, R235). -/
def peerWord (s : State) (k : Nat) : Nat :=
  if cluster16 s then 145 * 262144 + k * 131072 else 130 * 262144 + k * 524288

/-- The buffer that holds the group of a GSPX, opened where one of the four is free (R199). -/
def openGroup (s : State) (g : Nat) : State :=
  let g0 := groupOf g
  if s.peer.buffers.any (fun b => b.g0 == g0) then s
  else
    match (List.range 4).find? (fun k => (s.peer.buffers ++ s.peer.full).all (fun b => b.place != k)) with
    | some k => setPeer s (fun p => { p with buffers := p.buffers ++ [⟨g0, k, []⟩] })
    | none => s

/-- Place data in the buffer of its group: byte (64j + s) × N_in + I of the buffer for group input I = 256m + i (R199);
the result says whether there was a place. -/
def placePeer (s : State) (g m valid : Nat) (data : List (List Nat)) (poison : Bool) : Bool × State :=
  let s1 := openGroup s g
  match s1.peer.buffers.find? (fun b => b.g0 == groupOf g) with
  | none => (false, s1)
  | some b =>
    let s2 := (List.range (peerChannels s)).foldl (fun t j =>
      storeWords t (peerWord s b.place + ((64 * j + g % 64) * memberCount s + m) * 32)
        ((List.range 256).map (fun i => nth (nth data j []) i 0 % 256)) poison) s1
    (true, setPeer s2 (fun p =>
      { p with buffers := updFirst (fun x => x.g0 == groupOf g) (fun x => { x with got := x.got ++ [(g % 64, m, valid)] })
                 p.buffers }))

/-- The validity of every group input in slot n of a buffer. -/
def PeerBuffer.validAt (b : PeerBuffer) (n : Nat) : Nat :=
  (b.got.filter (fun x => x.1 == n)).foldl (fun v x => v ||| (x.2.2 * 2 ^ (256 * x.2.1))) 0

/-- The 8 + 8 × N_in bytes of the descriptor of a buffer: GSPX0, DELIVERED = 64, VALID (R199). -/
def peerDescriptor (inputs : Nat) (b : PeerBuffer) : Bytes :=
  leBytes 4 b.g0 ++ leBytes 2 64 ++ [0, 0] ++ (List.range 64).flatMap (fun n => leBytes (inputs / 8) (b.validAt n))

/-- The bytes of a peer packet (R198). -/
def peerPacket (g src dst valid : Nat) (data : Bytes) : Bytes :=
  leBytes 4 g ++ [src % 16, dst % 16, 0, 0] ++ leBytes 32 valid ++ data

/-- The E4 values of a spectrum for the channels that member m owns, by local channel and input. -/
def memberData (s : State) (p : Spectrum) (m : Nat) : List (List Nat) :=
  (List.range (peerChannels s)).map (fun j =>
    (List.range 256).map (fun i => nth (nth p.e4 i []) (lv s Obj.PEER_CFG.K_FIRST + peerChannels s * m + j) 0))

/-- Packets that wait for a wide port (queue 9, R280). -/
def sendsFor (s : State) (w : Nat) : Nat := (s.peer.sends.filter (fun x => x.port == w)).length

/-- Queue a packet for a wide port; it leaves as the port takes it (R200). -/
def queuePeer (s : State) (w dst g : Nat) (b : Bytes) (own : Bool) : State :=
  pump (setPeer s (fun p => { p with sends := p.sends ++ [⟨dst, w, g, b, own⟩] })) (4 * w)

/-- The members that get this member's data of a GSPX, with the wide port of each. -/
def receivers (s : State) (g : Nat) : List (Nat × Nat) :=
  ((List.range (memberCount s)).filter (fun m => m != memberNo s && memberCounts s m g)).map (fun m =>
    (m, packetRoute s g none m))

/-- The local channelizer feeds the peer stage (R188, R200): this member's own channels go to its buffer, every other
member's to a packet. -/
def peerFeed (s : State) (p : Spectrum) : State :=
  let g := (p.n + 2 ^ 32 - rd s Obj.PEER_STATUS.DELTA) % 2 ^ 32
  if peerDataAt s g then
    let s0 := { s with mov := { s.mov with badWrite := false } }
    let s1 := (placePeer s0 g (memberNo s) p.valid4 (memberData s p (memberNo s)) s.mov.badWrite).2
    (receivers s g).foldl (fun t r =>
      queuePeer t r.2 r.1 g (peerPacket g (memberNo s) r.1 p.valid4 (memberData s p r.1).flatten) true) s1
  else s

/-- Every port has the credits for the packets of one spectrum (R16, R280). -/
def peerRoom (s : State) (g : Nat) : Bool :=
  (List.range 4).all (fun w =>
    decide (sendsFor s w + ((receivers s g).filter (fun r => r.2 == w)).length ≤ 32))

/-- The peer stage takes the spectra that wait in its input queue, oldest first, while its ports have credits (R16, R200);
`fuel` bounds them. -/
def peerTake : Nat → State → State
  | 0, s => s
  | fuel + 1, s =>
    match s.peer.input with
    | [] => s
    | p :: rest =>
      if peerRoom s ((p.n + 2 ^ 32 - rd s Obj.PEER_STATUS.DELTA) % 2 ^ 32) then
        peerTake fuel (peerFeed (setPeer s (fun x => { x with input := rest })) p)
      else s

/-- `PEER_STATUS` as it stands: `FRAME_OK`, ports that carry data, lanes in use. -/
def peerSnapshot (s : State) : State :=
  let ups := (List.range 4).filter (fun w => bondedForm s w && portUp s (4 * w))
  let s0 := wr s Obj.PEER_STATUS.FRAME_OK 0 (rd s Obj.TIM_PPS.FRAME_OK)
  wr (wr s0 Obj.PEER_STATUS.PORTS_UP 0 (ups.foldl (fun m w => m + 2 ^ w) 0)) Obj.PEER_STATUS.LANES 0
    (ups.foldl (fun m w => m + popCount 8 (rd s Obj.AXL_PORT_STATUS.RX_MAP (4 * w)) * 16 ^ w) 0)

end Sys2Proof.Machine
end

