-- ==== Sys2Proof/Machine/Channelizer.lean ====
section
/-! DEFINITION. The channelizer: polyphase and FFT, equalization, requantization, validity, the spectrum deadline, the
corner-turn buffers, the `CHZ_EQ` and mask changes (R98 to R116, `05_converters_and_channelizer.md`). -/

namespace Sys2Proof.Machine

/-- Change the channelizer. -/
def setChz (s : State) (f : Channelizer → Channelizer) : State := { s with chz := f s.chz }

/-! ### Arithmetic (R98 to R103) -/

/-- Tap h[2,048q + p] of the prototype filter: 18 bits.  The four taps of a p whose magnitudes sum to more than 131,071
are none of boot ROM's, and count as 0 (R99). -/
def firTap (q p : Nat) : Int :=
  let h (q : Nat) : Int := (Config.firCoeff (2048 * q + p)).toInt
  if (h 0).natAbs + (h 1).natAbs + (h 2).natAbs + (h 3).natAbs ≤ 131071 then h q else 0

/-- y[p] of spectrum n of input i: the 4-tap sum ÷ 2⁹, rounded to nearest, halves away from zero (R98, R99). -/
def polyphase (s : State) (i n p : Nat) : Int :=
  divAway (((List.range 4).map (fun q => firTap q p * sampleAt s i (2048 * (n + q - 3) + p))).sum) 512

/-- y[0..2047]. -/
def polyphaseAll (s : State) (i n : Nat) : List Int := (List.range 2048).map (polyphase s i n)

/-- A component of X[k]: the sum of R98 to the nearest integer, with the roundings of the 18-bit twiddle factors and of
the 28-bit products, at most 8,192 in all (R100, log entry 19), and never beyond 2²⁶. -/
def fftRound (sum err : Int) : Int := clampInt (-(2 ^ 26)) (2 ^ 26) (divAway sum (2 ^ 62) + clampInt (-8192) 8192 err)

/-- X[k] of y[0..2047] (R98, R100); X[0] is real. -/
def fftOut (y : List Int) (k : Nat) : Int × Int :=
  let d := dftFrom 512 k 0 y
  (fftRound d.1 (Config.fftErrRe y k), if k = 0 then 0 else fftRound d.2 (Config.fftErrIm y k))

/-- The gain G(i, k) in force (R101). -/
def eqGain (s : State) (i k : Nat) : Nat := mapGet s.chz.eq (i * 1024 + k) ^^^ 0x1C00

/-- W = X × G, exact (R101): real and imaginary part. -/
def equalize (xr xi : Int) (g : Nat) : Int × Int :=
  let gr := toInt 16 g
  let gi := toInt 16 (g / 65536)
  (xr * gr - xi * gi, xr * gi + xi * gr)

/-- E4 of a component: round(W ÷ 2²⁸), saturated to ±7 (R102). -/
def e4Of (w : Int) : Int := clampInt (-7) 7 (divAway w (2 ^ 28))

/-- E8 of a component: round(W ÷ 2²⁴), saturated to ±127 (R102). -/
def e8Of (w : Int) : Int := clampInt (-127) 127 (divAway w (2 ^ 24))

/-- A value clips when either of its components saturates (R104). -/
def clips4 (w : Int × Int) : Bool := decide (divAway w.1 (2 ^ 28) ≠ e4Of w.1) || decide (divAway w.2 (2 ^ 28) ≠ e4Of w.2)
def clips8 (w : Int × Int) : Bool := decide (divAway w.1 (2 ^ 24) ≠ e8Of w.1) || decide (divAway w.2 (2 ^ 24) ≠ e8Of w.2)

/-- The byte of a 4+4-bit value: real part in [3:0], imaginary part in [7:4] (R103). -/
def e4Byte (w : Int × Int) : Nat := ofInt 4 (e4Of w.1) + 16 * ofInt 4 (e4Of w.2)

/-- The two bytes of an 8+8-bit value as one number, real part low (R103). -/
def e8Pair (w : Int × Int) : Nat := ofInt 8 (e8Of w.1) + 256 * ofInt 8 (e8Of w.2)

/-- W of every frequency channel of input i for spectrum n. -/
def spectrumW (s : State) (i n : Nat) : List (Int × Int) :=
  let y := polyphaseAll s i n
  (List.range 1024).map (fun k =>
    let x := fftOut y k
    equalize x.1 x.2 (eqGain s i k))

/-- Frequency channel k is masked in the Dahlia path, in the Sunflower path (R106). -/
def dahMasked (s : State) (k : Nat) : Bool := bit (lv s Obj.CHZ_CHMASK.DAH_MASK) k
def sunMasked (s : State) (k : Nat) : Bool := bit (lv s Obj.CHZ_CHMASK.SUN_MASK) k

/-! ### Validity (R20, R107) -/

/-- The frame flag F(i, m): some sample of the frame carried CLAMP, OVR, SETTLE or LINE; a frame that is not held has
no history and counts as flagged. -/
def frameFlag (s : State) (i m : Nat) : Bool :=
  if m ≤ s.afe.lastFrame then (nth (inputOf s i).frames (s.afe.lastFrame - m) ⟨0, 0, 0, 0, 0, 0, 0, true, 0⟩).marked
  else true

/-- A check or diagnostic pulse on a string that feeds input i overlaps the span of spectrum n (R107, R436). -/
def pulseCovers (s : State) (i n : Nat) : Bool :=
  s.cal.pulses.any (fun p =>
    bit (lv s Obj.CAL_STRING.INPUTS p.string) i && decide (p.start < 2048 * (n + 1)) && decide (2048 * (n - 3) < p.stop))

/-- A `CHZ_EQ` entry of input i in use holds an uncorrectable error. -/
def eqUnusable (s : State) (i : Nat) : Bool :=
  s.chz.eqBad.any (fun p => decide (p.1 / 1024 = i))

/-- The cause that makes v(i, n) 0: 1 frame flag, 2 diagnostic pulse, 3 table error, 4 a latch-up cycle of the input's
channelizer domain (R452); 0 none (R107). -/
def invalidCause (s : State) (i n : Nat) : Nat :=
  if domCycling s (81 + i / 32) then 4
  else if (List.range 4).any (fun d => frameFlag s i (n - d)) then 1
  else if pulseCovers s i n then 2
  else if eqUnusable s i then 3
  else 0

/-- Count an invalid spectrum of input i under its cause (R107). -/
def countInvalid (s : State) (i cause : Nat) : State :=
  if cause = 4 then raise s 0x0401 0 i 1
  else setChz s (fun c =>
    match cause with
    | 1 => { c with invFlag := mapSet c.invFlag i (mapGet c.invFlag i + 1) }
    | 2 => { c with invCal := mapSet c.invCal i (mapGet c.invCal i + 1) }
    | 3 => { c with invEq := mapSet c.invEq i (mapGet c.invEq i + 1) }
    | _ => c)

/-- Count the clips of every input in each frequency channel (R104). -/
def countClips (s : State) (ws : List (List (Int × Int))) : State :=
  setChz s (fun c =>
    let n4 (k : Nat) := (ws.filter (fun w => clips4 (nth w k (0, 0)))).length
    let n8 (k : Nat) := (ws.filter (fun w => clips8 (nth w k (0, 0)))).length
    { c with clip4 := (List.range 1024).foldl (fun m k => mapSet m k (mapGet m k + n4 k)) c.clip4,
             clip8 := (List.range 1024).foldl (fun m k => mapSet m k (mapGet m k + n8 k)) c.clip8 })

/-- Spectrum n of every input (R98 to R107). -/
def formSpectrum (s : State) (n : Nat) : Spectrum × State :=
  let ws := (List.range 256).map (fun i => spectrumW s i n)
  let causes := (List.range 256).map (fun i => invalidCause s i n)
  let valid := (List.range 256).foldl (fun m i => if nth causes i 0 = 0 then m + 2 ^ i else m) 0
  let s1 := countClips ((List.range 256).foldl (fun t i => countInvalid t i (nth causes i 0)) s) ws
  (⟨n, valid, valid,
    ws.map (fun w => (List.range 1024).map (fun k =>
      if dahMasked s k && decide (modeOf s ≠ .peer) then 0 else e4Byte (nth w k (0, 0)))),
    ws.map (fun w => (List.range 1024).map (fun k => if sunMasked s k then 0 else e8Pair (nth w k (0, 0))))⟩, s1)

/-! ### Output (R108, R109, R162) -/

/-- The Dahlia path runs: Dahlia or the peer stage takes the 4+4-bit output. -/
def path4On (s : State) : Bool := chzOn s && dahOn s

/-- The Sunflower path runs. -/
def path8On (s : State) : Bool := chzOn s && sunOn s

/-- The first bank of corner-turn buffer A or B in the Spectrum map (R235). -/
def cornerBank (half : Nat) : Nat := 129 + 8 * half

/-- The first word of corner-turn buffer A or B. -/
def cornerWord (half : Nat) : Nat := cornerBank half * 262144

/-- The banks of a corner-turn buffer are ON (R17). -/
def cornerOn (s : State) (half : Nat) : Bool := (List.range 8).all (fun n => domOn s (bankDom (cornerBank half + n)))

/-- The corner-turn buffer in filling belongs to the group of spectrum n. -/
def bufferFor (s : State) (n : Nat) : Option CornerBuffer :=
  match s.chz.filling with
  | some b => if b.first = n / 64 * 64 then some b else none
  | none => none

/-- A descriptor of the group's buffer goes to Dahlia (R109). -/
def sendDescriptor (s : State) : State :=
  match s.chz.filling with
  | some b => clockStarts (setChz s (fun c => { c with filling := none, full := c.full ++ [b] })) 7
  | none => s

/-- The 2,056 bytes of a descriptor: SPX0, DELIVERED, VALID (R109). -/
def descriptorBytes (b : CornerBuffer) : Bytes :=
  leBytes 4 b.first ++ leBytes 2 b.slots.length ++ [0, 0]
    ++ (List.range 64).flatMap (fun n => leBytes 32 (((b.slots.find? (fun x => x.1 == n)).map Prod.snd).getD 0))

/-- Obtain a buffer for the group of spectrum n where one of the two is free and its banks are ON (R17, R109). -/
def obtainBuffer (s : State) (n : Nat) : State :=
  match bufferFor s n with
  | some _ => s
  | none =>
    let s1 := sendDescriptor s
    match [0, 1].find? (fun h => s1.chz.full.all (fun b => b.half != h) && cornerOn s1 h) with
    | some h => setChz s1 (fun c => { c with filling := some ⟨n / 64 * 64, h, []⟩ })
    | none => s1

/-- The 256 bytes of local channel j of a spectrum in a corner-turn buffer (R162). -/
def cornerRow (s : State) (p : Spectrum) (j : Nat) : Bytes :=
  (List.range 256).map (fun i => nth (nth p.e4 i []) (rd s Obj.DAH_BAND.K_FIRST + j) 0)

/-- Write a spectrum into its slot of a buffer: byte (64j + s) × 256 + i, for the local channels of Dahlia (R162); a
poisoned slot of queue 2 gives the words the poison attribute (R281). -/
def writeCorner (s : State) (b : CornerBuffer) (p : Spectrum) : State :=
  let s1 := (List.range (rd s Obj.DAH_BAND.K_COUNT)).foldl (fun t j =>
    storeWords t (cornerWord b.half + (64 * j + p.n % 64) * 32) (cornerRow s p j) s.mov.badWrite) s
  let s2 := setChz s1 (fun c => { c with filling := some { b with slots := b.slots ++ [(p.n % 64, p.valid4)] } })
  { s2 with mov := { s2.mov with used := mapSet s2.mov.used 2 (mapGet s2.mov.used 2 + 1), badWrite := false } }

/-- Hand a spectrum of the Dahlia path on: in Peer to queue 2 of the peer stage, elsewhere into its slot where the path
has its buffer and a queue credit; the last spectrum of a group sends the descriptor (R16, R109, R200).  A buffer obtained
stays obtained; the result says whether the spectrum has gone. -/
def deliver4 (s : State) (p : Spectrum) : Bool × State :=
  if modeOf s = .peer then
    (if decide (s.peer.input.length < 2) && domOn s 159 then
      (true, peerTake 2 (clockStarts (setPeer s (fun x => { x with input := x.input ++ [p] })) 8))
     else (false, s))
  else
    let s1 := obtainBuffer s p.n
    match bufferFor s1 p.n with
    | none => (false, s1)
    | some b =>
      if !queueRoom s1 2 then (false, s1)
      else
        let s2 := writeCorner (clockStarts s1 10) b p
        (true, if p.n % 64 = 63 then sendDescriptor s2 else s2)

/-- Hand a spectrum to Sunflower where queue 3 has a credit (R16, R109). -/
def deliver8 (s : State) (p : Spectrum) : Option State :=
  if !queueRoom s 3 || !(domRange 161 176).all (domOn s) then none
  else
    let v := p.valid8 &&& ((2 ^ 256 - 1) ^^^ s.mov.badSpectrum)
    some (clockStarts { s with
      sun := { s.sun with input := s.sun.input ++ [{ p with valid8 := v }] },
      mov := { s.mov with used := mapSet s.mov.used 3 (mapGet s.mov.used 3 + 1), badSpectrum := 0 } } 9)

/-- Spectrum n + 2 has completed while spectrum n waits (R108). -/
def overdue (s : State) (p : Spectrum) : Bool := decide (p.n + 2 < s.chz.nextN)

/-- Deliver the spectra of the Dahlia path that wait, oldest first, while credit lasts (R108); one past its deadline is
not delivered, and none passes it. -/
def drain4 : Nat → State → State
  | 0, s => s
  | k + 1, s =>
    match s.chz.wait4 with
    | [] => s
    | p :: rest =>
      if overdue s p then s
      else
        let r := deliver4 s p
        if r.1 then drain4 k (setChz r.2 (fun c => { c with wait4 := rest })) else r.2

/-- Deliver the spectra of the Sunflower path that wait (R108). -/
def drain8 : Nat → State → State
  | 0, s => s
  | k + 1, s =>
    match s.chz.wait8 with
    | [] => s
    | p :: rest =>
      if overdue s p then s
      else
        match deliver8 s p with
        | some t => drain8 k (setChz t (fun c => { c with wait8 := rest }))
        | none => s

/-- An error in a `CHZ_EQ` entry in use (R111): corrected and written back with fault 0x0404, or uncorrectable with
0x0403 and validity 0 for its input until the entry is rewritten. -/
def eqError (s : State) (e : Nat × Bool) : State :=
  if e.2 then raise (bump s Obj.CHZ_STATUS.EQ_CORRECTED 0 1) 0x0404 (e.1 / 1024) (e.1 / 1024)
    (rd s Obj.CHZ_STATUS.EQ_CORRECTED + 1)
  else raise (setChz s (fun c => { c with eqBad := mapSet c.eqBad e.1 1 })) 0x0403 (e.1 / 1024) (e.1 / 1024) 1

/-- The inputs that were valid in a missed spectrum count it (R107: once per path, under the first cause). -/
def countMissed (m : SMap) (valid : Nat) : SMap :=
  (List.range 256).foldl (fun t i => if bit valid i then mapSet t i (mapGet t i + 1) else t) m

/-- Spectrum n of a path has missed its deadline (R108): it is not delivered, every input has validity 0 in that path,
and fault 0x0401 is counted (instance 0 Dahlia path, 1 Sunflower path).  At the last spectrum of a group the buffer's
descriptor goes (R109). -/
def spectrumMissed (s : State) (sunPath : Bool) (p : Spectrum) : State :=
  let s1 := setChz s (fun c =>
    if sunPath then { c with wait8 := c.wait8.drop 1, invDl8 := countMissed c.invDl8 p.valid8 }
    else { c with wait4 := c.wait4.drop 1, invDl4 := countMissed c.invDl4 p.valid4 })
  let s2 := raise (bump s1 Obj.CHZ_STATUS.DL_TOTAL 0 1) 0x0401 (b2n sunPath) 0 (rd s Obj.CHZ_STATUS.DL_TOTAL + 1)
  if !sunPath && decide (p.n % 64 = 63) && (bufferFor s2 p.n).isSome then sendDescriptor s2 else s2

/-- SPECTRUM_DEADLINE_MISS (R108): the oldest spectrum of a path that is past its deadline is dropped, and those behind it
go where credit allows. -/
def execSpectrumDeadlineMiss (sunPath : Bool) (s : State) : Host.Outcome State Fault Refusal :=
  match (if sunPath then s.chz.wait8 else s.chz.wait4) with
  | p :: _ =>
    if overdue s p then
      .next (if sunPath then drain8 3 (spectrumMissed s true p) else drain4 3 (spectrumMissed s false p))
    else .next s
  | [] => .next s

/-- A path that still holds a spectrum past its deadline drops it: an output holds at most two (R108). -/
def dropOverdue (s : State) (sunPath : Bool) : State :=
  match (if sunPath then s.chz.wait8 else s.chz.wait4) with
  | p :: _ => if overdue s p then spectrumMissed s sunPath p else s
  | [] => s

/-! ### Changes (R105, R106) -/

/-- Put the entries of a change in the active table; a rewritten entry has no error left. -/
def applyEq (s : State) (e : EqChange) : State :=
  setChz s (fun c =>
    { c with eq := e.entries.foldl (fun m p => mapSet m p.1 (p.2 % 2 ^ 32 ^^^ 0x1C00)) c.eq,
             eqBad := e.entries.foldl (fun m p => mapSet m p.1 0) c.eqBad })

/-- Apply the waiting changes that a test selects, oldest first; the conditions of 0x0403 end for the inputs that have
no bad entry left. -/
def applyEqWhere (s : State) (p : EqChange → Bool) : State :=
  let s1 := (s.chz.eqWaiting.filter p).foldl applyEq s
  let s2 := setChz s1 (fun c => { c with eqWaiting := c.eqWaiting.filter (fun e => !p e) })
  let s3 := wr s2 Obj.CHZ_STATUS.EQ_PENDING 0 (b2n (!s2.chz.eqWaiting.isEmpty))
  (List.range 256).foldl (fun t i => if eqUnusable s i && !eqUnusable t i then endFault t 0x0403 i else t) s3

/-- A mask change waits. -/
def maskWaits (s : State) : Bool :=
  decide (rd s Obj.CHZ_CHMASK.DAH_MASK ≠ lv s Obj.CHZ_CHMASK.DAH_MASK)
    || decide (rd s Obj.CHZ_CHMASK.SUN_MASK ≠ lv s Obj.CHZ_CHMASK.SUN_MASK)

/-- Show whether a mask change waits. -/
def showMask (s : State) : State := wr s Obj.CHZ_STATUS.MASK_PENDING 0 (b2n (maskWaits s))

/-- A write of the masks: it waits for the boundaries of its two paths (R106). -/
def maskWritten (s : State) : State :=
  showMask (setChz s (fun c =>
    { c with maskWrites := c.maskWrites
        ++ [(s.time.rc64, rd s Obj.CHZ_CHMASK.DAH_MASK, rd s Obj.CHZ_CHMASK.SUN_MASK)] }))

/-- The masks as the last write before a tick left them; those in force where no write is held. -/
def masksBefore (s : State) (tick : Nat) : Nat × Nat :=
  ((s.chz.maskWrites.filter (fun w => decide (w.1 < tick))).getLast?.map (fun w => w.2)).getD
    (lv s Obj.CHZ_CHMASK.DAH_MASK, lv s Obj.CHZ_CHMASK.SUN_MASK)

/-- The sequence that governs spectrum n: the last one that has begun by then, a start that waits among them (R105,
R166); none after the boundary of a stop. -/
def seqAt (s : State) (n : Nat) : Option DahSeq :=
  if s.dah.stopAt.any (fun b => decide (b ≤ n)) then none
  else ((s.dah.seqs ++ s.dah.next.toList).filter (fun q => decide (q.start ≤ n))).getLast?

/-- Spectrum n is a sequence boundary, SPX_s + e × L, or, where no sequence runs, a block boundary (R105, R166). -/
def sequenceBoundary (s : State) (n : Nat) : Bool :=
  match seqAt s n with
  | some q => decide ((n - q.start) % (q.blocks * 1024) = 0)
  | none => decide (n % 1024 = 0)

/-- A change of the Dahlia-path mask, or of equalization, takes effect at spectrum n (R171). -/
def dahNoteMask (s : State) (n : Nat) : State :=
  { s with dah := { s.dah with masks := (n, lv s Obj.CHZ_CHMASK.DAH_MASK) :: s.dah.masks } }
def dahNoteEq (s : State) (n : Nat) : State := { s with dah := { s.dah with eqAt := n :: s.dah.eqAt } }

/-- A change of the Sunflower-path mask, or of equalization, takes effect at spectrum n (R226). -/
def sunNoteMask (s : State) (n : Nat) : State :=
  { s with sun := { s.sun with masks := (n, lv s Obj.CHZ_CHMASK.SUN_MASK) :: s.sun.masks, maskAt := s.sun.maskAt ++ [n] } }
def sunNoteEq (s : State) (n : Nat) : State := { s with sun := { s.sun with eqAt := s.sun.eqAt ++ [n] } }

/-- The changes of `CHZ_EQ` that take effect at spectrum n: those of a command that committed before its frame, at a
block boundary or at a sequence boundary as each chose (R105, R110). -/
def eqBoundary (s : State) (n : Nat) : State :=
  let due (e : EqChange) : Bool :=
    decide (e.since < 2048 * n) && (if e.atSequence then sequenceBoundary s n else decide (n % 1024 = 0))
  if s.chz.eqWaiting.any due then sunNoteEq (dahNoteEq (applyEqWhere s due) n) n else s

/-- The mask changes that take effect at spectrum n: in the Dahlia path at a sequence boundary, in the Sunflower path at
a block boundary (R106, R110). -/
def maskBoundary (s : State) (n : Nat) : State :=
  let m := masksBefore s (2048 * n)
  let s1 := if sequenceBoundary s n && decide (m.1 ≠ lv s Obj.CHZ_CHMASK.DAH_MASK) then
      dahNoteMask (setLive s Obj.CHZ_CHMASK.DAH_MASK 0 m.1) n else s
  let s2 := if decide (n % 1024 = 0) && decide (m.2 ≠ lv s Obj.CHZ_CHMASK.SUN_MASK) then
      sunNoteMask (setLive s1 Obj.CHZ_CHMASK.SUN_MASK 0 m.2) n else s1
  showMask (if maskWaits s2 then s2 else setChz s2 (fun c => { c with maskWrites := [] }))

/-- The block boundary of a channelizer that stands still: every change that waits takes effect (R105, R106). -/
def idleChanges (s : State) : State :=
  let s1 := latch (applyEqWhere s (fun _ => true)) Obj.CHZ_CHMASK.fields 0
  showMask (setChz s1 (fun c => { c with maskWrites := [] }))

/-! ### Counts of a block (R104, R107, R111, R116) -/

/-- The counts of a block whose last spectrum has formed latch, SPX0 the SPX of its first, and the clip rate is judged
(R104, R111, R116). -/
def chzBlockCounts (s : State) (spx0 : Nat) : State :=
  let alarm := lv s Obj.CHZ_CTRL.CLIP_ALARM
  let s1 := (List.range 1024).foldl (fun t k =>
    let c4 := mapGet s.chz.clip4 k
    let c8 := mapGet s.chz.clip8 k
    let t1 := wr (wr (wr t Obj.CHZ_CLIPS.CLIP4 k c4) Obj.CHZ_CLIPS.CLIP8 k c8) Obj.CHZ_CLIPS.SPX0 k spx0
    if alarm ≠ 0 ∧ (alarm * 1024 < c4 ∨ alarm * 1024 < c8) then raise t1 0x0402 k k (max c4 c8) else t1) s
  let s2 := (List.range 256).foldl (fun t i =>
    [(Obj.CHZ_INPUT_STATUS.INV_FLAG, mapGet s.chz.invFlag i), (Obj.CHZ_INPUT_STATUS.INV_CAL, mapGet s.chz.invCal i),
     (Obj.CHZ_INPUT_STATUS.INV_EQ, mapGet s.chz.invEq i), (Obj.CHZ_INPUT_STATUS.INV_DL4, mapGet s.chz.invDl4 i),
     (Obj.CHZ_INPUT_STATUS.INV_DL8, mapGet s.chz.invDl8 i), (Obj.CHZ_INPUT_STATUS.SPX0, spx0)].foldl
      (fun u p => wr u p.1 i p.2) t) s1
  setChz s2 (fun c =>
    { c with clip4 := [], clip8 := [], invFlag := [], invCal := [], invEq := [], invDl4 := [], invDl8 := [] })

/-- Once the last spectrum before its stop boundary has formed the channelizer stands still (R36). -/
def chzHalt (s : State) : State :=
  if s.chz.stopAt.any (fun b => decide (b ≤ s.chz.nextN)) then
    setChz s (fun c => { c with running := false, stopAt := none })
  else s

/-- SPECTRUM_COMPLETE (R98 to R110): the changes whose boundary is the next spectrum take effect, the spectrum is formed
for every input and offered at both outputs, where it waits for credit; the last one of a block latches the counts of
the block.  `upsets` are the errors found in `CHZ_EQ` entries in use (input × 1,024 + channel, correctable). -/
def execSpectrumComplete (upsets : List (Nat × Bool)) (s : State) : Host.Outcome State Fault Refusal :=
  if s.chz.running && decide (2048 * (s.chz.nextN + 1) ≤ s.cnv.histEnd) then
    let n := s.chz.nextN
    let s0 := upsets.foldl eqError (maskBoundary (eqBoundary (dropOverdue (dropOverdue s false) true) n) n)
    let f := formSpectrum s0 n
    let s1 := setChz f.2 (fun c =>
      { c with nextN := n + 1,
               wait4 := if path4On s then c.wait4 ++ [f.1] else c.wait4,
               wait8 := if path8On s then c.wait8 ++ [f.1] else c.wait8 })
    let s2 := if n % 1024 = 1023 then chzBlockCounts s1 ((n - 1023) % 2 ^ 32) else s1
    .next (chzHalt (drain8 3 (drain4 3 (peerTake 2 s2))))
  else .next s

/-- The channelizer starts at a block boundary with spectrum n (R38). -/
def chzStart (s : State) : State :=
  setChz s (fun c =>
    { c with running := true, stopAt := none, nextN := s.time.rc64 / 2048, wait4 := [], wait8 := [], filling := none, clip4 := [],
             clip8 := [], invFlag := [], invCal := [], invEq := [], invDl4 := [], invDl8 := [] })

/-- The channelizer stops at the block boundary of this tick: the spectra of the final block are delivered in full, no
partial block is produced (R36). -/
def chzStop (s : State) : State := chzHalt (setChz s (fun c => { c with stopAt := some (s.time.rc64 / 2048) }))

end Sys2Proof.Machine
end

