-- ==== Sys2Proof/Machine/Injectors.lean ====
section
/-! DEFINITION. The injector strings: plans, patterns, pulses, judgements, faults
(R434 to R442, `19_housekeeping_and_calibration_injectors.md`). -/

namespace Sys2Proof.Machine

/-- Change the injectors. -/
def setCal (s : State) (f : Injectors → Injectors) : State := { s with cal := f s.cal }

/-- Change string n. -/
def setString (s : State) (n : Nat) (f : CalString → CalString) : State :=
  setCal s (fun c => { c with strings := upd c.strings n f })

/-- String n. -/
def stringOf (s : State) (n : Nat) : CalString := nth s.cal.strings n ⟨.idle, false, false, 0, 0, 0⟩

/-- The injectors are on or on demand in the mode (R29). -/
def calOn (s : State) : Bool :=
  match modeOf s with
  | .image | .survey | .peer | .calibrate | .test => true
  | _ => false

/-- The pattern of string n is ON in frame f (R435). -/
def patternOn (s : State) (n f : Nat) : Bool :=
  match lv s Obj.CAL_STRING.PATTERN n with
  | 1 => true
  | 2 =>
    let j := f % 2 ^ 32 / 2 ^ lv s Obj.CAL_STRING.SLOT_LOG n
    decide (crc32c (leBytes 4 (j ^^^ lv s Obj.CAL_STRING.SEED n)) % 65536 < lv s Obj.CAL_STRING.DUTY n * 256)
  | _ => false

/-- The string runs its pattern. -/
def stringRuns (s : State) (n : Nat) : Bool := (stringOf s n).phase == .running || (stringOf s n).phase == .stopping

/-- The frame of a tick. -/
def frameNow (s : State) : Nat := s.time.rc64 / 2048

/-- A pulse keeps string n from its pattern in some part of frame f: a pulse of its own, or a check pulse of another
string (R436, R437). -/
def pulseHolds (s : State) (n f : Nat) : Bool :=
  s.cal.pulses.any (fun p => (p.check || p.string == n) && decide (p.start < 2048 * (f + 1)) && decide (2048 * f < p.stop))

/-- String n steers current into the string for the whole of frame f (R435, R436). -/
def steersOn (s : State) (n f : Nat) : Bool := stringRuns s n && patternOn s n f && !pulseHolds s n f

/-- A frame begins: every string reports its state for it (R436); within a frame the report is made anew. -/
def calFrame (s : State) : State :=
  let f := frameNow s
  let mask := (List.range 16).foldl (fun m n => if steersOn s n f then m + 2 ^ n else m) 0
  let s1 := setCal s (fun c =>
    { c with onMasks := (mask :: (if c.frame = f then c.onMasks.drop 1 else c.onMasks)).take 256, frame := f })
  (List.range 16).foldl (fun t n => wr t Obj.CAL_STATUS.ON_NOW n (b2n (bit mask n))) s1

/-- String n was reported ON in frame f. -/
def reportedOn (s : State) (n f : Nat) : Bool :=
  decide (f ≤ s.cal.frame) && bit (nth s.cal.onMasks (s.cal.frame - f) 0) n

/-- The class of spectrum m for a string (R174): 0 ON, 1 OFF, 2 MIXED. -/
def calClass (s : State) (n m : Nat) : Nat :=
  let on := (List.range 4).map (fun d => reportedOn s n (m - d))
  if on.all id then 0 else if on.all (fun b => !b) then 1 else 2

/-- Pulses that a tick at `now` still has to know: those to come and those whose span a spectrum may overlap (R107). -/
def recentPulses (ps : List CalPulse) (now : Nat) : List CalPulse := ps.filter (fun p => decide (now < p.stop + 16384))

/-- String n is cut: its pulse ends here, and one that has not begun does not come. -/
def cutPulses (ps : List CalPulse) (n now : Nat) : List CalPulse :=
  (ps.filter (fun p => p.string != n || decide (p.start < now))).map
    (fun p => if p.string = n then { p with stop := min p.stop now } else p)

/-- A string stops now, reports OFF for the frame in progress and powers down (R437). -/
def stringStop (s : State) (n : Nat) : State :=
  let s1 := setString (wr s Obj.CAL_STATUS.ON_NOW n 0) n (fun x => { x with phase := .idle })
  setCal (demandDown (emit s1 (.drive 3 n 0)) (374 + n)) (fun c =>
    { c with pulses := cutPulses c.pulses n s.time.rc64,
             onMasks := match c.onMasks with
               | m :: t => setBit m n false :: t
               | [] => [] })

/-- The tick of the next check pulse: its stage has 50 µs for regulation, and one string pulses at a time (R437). -/
def nextPulseAt (s : State) : Nat :=
  s.cal.pulses.foldl (fun a p => if p.check then max a p.stop else a) (s.time.rc64 + 80000)

/-- A string of a plan starts (R437): regulation in bypass, a check pulse in turn, its pattern at the next block
boundary. -/
def stringStart (s : State) (n : Nat) : State :=
  let at0 := nextPulseAt s
  let s1 := wr (setString s n (fun x => { x with phase := .check })) Obj.CAL_STATUS.STATE n 1
  setCal (domUp (emit s1 (.drive 3 n (lv s Obj.CAL_STRING.I_SET n))) 3 (374 + n)) (fun c =>
    { c with pulses := recentPulses c.pulses s.time.rc64 ++ [⟨n, true, at0, at0 + 32000⟩] })

/-- The strings of a mask that a start brings up: enabled, idle, not stopped by a fault. -/
def startable (s : State) (mask : Nat) : List Nat :=
  (List.range 16).filter (fun n => bit mask n && decide (lv s Obj.CAL_STRING.ENABLE n = 1)
    && (stringOf s n).phase == .idle && !(stringOf s n).stuck)

/-- A plan starts: the strings it names that may run, in ascending order (R437). -/
def planStart (s : State) (p : Nat) : State :=
  if calOn s then (startable s (rd s Obj.CAL_PLAN.STRINGS p)).foldl stringStart s else s

/-- CAL_PLAN_START (R437). -/
def execCalPlanStart (p : Fin 8) (s : State) : Host.Outcome State Fault Refusal := .next (planStart s p)

/-- A string ends at the first block boundary at which its pattern is OFF. -/
def stringEnds (s : State) (n : Nat) : State :=
  match (stringOf s n).phase with
  | .running => setString s n (fun x => { x with phase := .stopping })
  | .check | .ready => wr (stringStop s n) Obj.CAL_STATUS.STATE n 0
  | _ => s

/-- Every string of a mask ends (R437, R36). -/
def stringsEnd (s : State) (mask : Nat) : State :=
  (List.range 16).foldl (fun t n => if bit mask n then stringEnds t n else t) s

/-- CAL_PLAN_STOP (R437). -/
def execCalPlanStop (p : Fin 8) (s : State) : Host.Outcome State Fault Refusal :=
  .next (stringsEnd s (rd s Obj.CAL_PLAN.STRINGS p))

/-- `ENABLE` = 0 stops a string at once (R444), and lets a string that a fault stopped be enabled again (R439). -/
def stringDisable (s : State) (n : Nat) : State :=
  let s1 := setLive (wr s Obj.CAL_STRING.ENABLE n 0) Obj.CAL_STRING.ENABLE n 0
  let s2 := if (stringOf s n).phase = .idle then s1 else stringStop s1 n
  setString (wr s2 Obj.CAL_STATUS.STATE n (if (stringOf s n).stuck then rd s Obj.CAL_STATUS.STATE n else 0)) n
    (fun x => { x with cleared := x.stuck })

/-- CAL_STRING_DISABLE (R444). -/
def execCalStringDisable (n : Fin 16) (s : State) : Host.Outcome State Fault Refusal := .next (stringDisable s n)

/-- `ENABLE`, set again on a string that a fault stopped, takes effect: a new check pulse (R439, R444). -/
def stringAgain (s : State) (n : Nat) : State :=
  if (stringOf s n).stuck && (stringOf s n).cleared && decide (lv s Obj.CAL_STRING.ENABLE n = 1) then
    let s1 := setString s n (fun x => { x with stuck := false, cleared := false, failClass := 0, failRun := 0 })
    if calOn s then stringStart s1 n else wr s1 Obj.CAL_STATUS.STATE n 0
  else s

/-- The present reduction in percent: 4 % per °C above `KNEE_C`, at most 100 (R441). -/
def derating (s : State) : Nat :=
  min 100 (2 * s.bbl.tj - 4 * (lv s Obj.CAL_CTRL.KNEE_C : Nat)).toNat

/-- A changed derating takes effect and is reported (R441). -/
def derate (s : State) (n : Nat) : State :=
  let d := derating s
  if d = rd s Obj.CAL_STATUS.DERATE n then s
  else
    let s1 := wr s Obj.CAL_STATUS.DERATE n d
    if d = 0 then clearFault s1 0x1305 n else raise s1 0x1305 n n d

/-- CAL_SLOT_BOUNDARY (R435, R441): a slot of a running string begins; current is steered by its pattern, at the
derated command. -/
def execCalSlotBoundary (n : Fin 16) (s : State) : Host.Outcome State Fault Refusal :=
  if stringRuns s n ∧ s.time.rc64 % 2048 = 0 ∧ frameNow s % 2 ^ lv s Obj.CAL_STRING.SLOT_LOG n = 0 then
    let s1 := derate s n
    .next (emit (wr s1 Obj.CAL_STATUS.ON_NOW n (b2n (steersOn s n (frameNow s))))
      (.drive 4 n (b2n (steersOn s n (frameNow s)))))
  else .next s

/-- The commanded current in 10 µA, derated (R441). -/
def commanded (s : State) (n : Nat) : Nat := lv s Obj.CAL_STRING.I_SET n * 10 * (100 - rd s Obj.CAL_STATUS.DERATE n) / 100

/-- A fault stops a string until `ENABLE` is cleared and set (R439, R440). -/
def stringFault (s : State) (n code state value : Nat) : State :=
  let s1 := wr (stringStop s n) Obj.CAL_STATUS.STATE n state
  raiseDetail (setString s1 n (fun x => { x with stuck := true, cleared := false })) code n n value
    (if code = 0x1301 ∨ code = 0x1304 then detailOf s n value + rd s Obj.CAL_STATUS.LAST_GOOD n * 2 ^ 128
     else detailOf s n value)

/-- The tick from which a second without a judged run counts: the judgement of a diagnostic pulse stands at the frame
boundary at which the pulse began (R438). -/
def judgedAt (s : State) (n : Nat) : Nat :=
  (s.cal.pulses.findSome? (fun p =>
    if !p.check && p.string == n && decide (p.start ≤ s.time.rc64) && decide (s.time.rc64 ≤ p.stop) then some p.start
    else none)).getD s.time.rc64

/-- A passing judgement (R438, R439). -/
def judgedGood (s : State) (n avg : Nat) : State :=
  let s1 := setString (wr (wr s Obj.CAL_STATUS.SENSED n avg) Obj.CAL_STATUS.LAST_GOOD n (ts96Now s)) n
    (fun x => { x with failClass := 0, failRun := 0, lastJudged := judgedAt s n,
                       phase := if x.phase = .check then .ready else x.phase })
  [0x1301, 0x1302, 0x1303, 0x1304].foldl (fun t c => endFault t c n) s1

/-- A failed judgement: OPEN below 5 % of command, VCAL_LOW to 90 %; the third of a class in a row declares the fault
(R439). -/
def judgedBad (s : State) (n avg cmd : Nat) : State :=
  let cls := if 20 * avg < cmd then 1 else if 10 * avg ≤ 9 * cmd then 2 else 0
  let old := stringOf s n
  let run := if cls ≠ 0 ∧ old.failClass = cls then old.failRun + 1 else 1
  let s1 := setString (wr s Obj.CAL_STATUS.SENSED n avg) n
    (fun x => { x with failClass := cls, failRun := run, lastJudged := judgedAt s n,
                       phase := if x.phase = .check then .ready else x.phase })
  if cls ≠ 0 ∧ 3 ≤ run then stringFault s1 n (if cls = 1 then 0x1301 else 0x1304) (if cls = 1 then 2 else 5) avg else s1

/-- A neighbour in bypass or off that senses more than 5 % of the command (R440). -/
def shorted (s : State) (k sensed cmd : Nat) : Bool :=
  decide (k < 16) && !flag s Obj.CAL_STATUS.ON_NOW k && decide (cmd < 20 * sensed)

/-- CAL_RUN_JUDGED (R438 to R440): the average of the 4th to 16th µs of a run or pulse, in 10 µA, with the currents of
the strings below and above. -/
def execCalRunJudged (n : Fin 16) (avg below above : Nat) (s : State) : Host.Outcome State Fault Refusal :=
  if !stringRuns s n && (stringOf s n).phase != .check then .next s
  else
    let cmd := commanded s n
    if n.val ≠ 0 && shorted s (n.val - 1) below cmd then
      .next (stringFault (stringFault s n 0x1302 3 below) (n.val - 1) 0x1302 3 below)
    else if shorted s (n.val + 1) above cmd then
      .next (stringFault (stringFault s n 0x1302 3 above) (n.val + 1) 0x1302 3 above)
    else if 9 * cmd ≤ 10 * avg ∧ 10 * avg ≤ 11 * cmd then .next (judgedGood s n avg)
    else .next (judgedBad s n avg cmd)

/-- CAL_DIAGNOSTIC_PULSE (R438): at a frame boundary with F mod 781,250 = 0, a second without a judged run inserts a
pulse of 20 µs. -/
def execCalDiagnosticPulse (n : Fin 16) (s : State) : Host.Outcome State Fault Refusal :=
  if stringRuns s n ∧ s.time.rc64 % 2048 = 0 ∧ frameNow s % 2 ^ 32 % 781250 = 0
      ∧ (stringOf s n).lastJudged + 1600000000 ≤ s.time.rc64 then
    .next (bump (setCal (emit s (.drive 5 n 1)) (fun c =>
      { c with pulses := recentPulses c.pulses s.time.rc64
          ++ [⟨n.val, false, s.time.rc64, s.time.rc64 + 32000⟩] })) Obj.CAL_STATUS.DIAG_PULSES n 1)
  else .next s

/-- CAL_OVERCURRENT (R440): above 150 % of command, or above 60 mA, the string is cut. -/
def execCalOvercurrent (n : Fin 16) (current : Nat) (s : State) : Host.Outcome State Fault Refusal :=
  if (stringOf s n).phase ≠ .idle ∧ (3 * commanded s n < 2 * current ∨ 6000 < current) then
    .next (stringFault s n 0x1303 4 current)
  else .next s

/-- The strings at a block boundary: checked ones begin their patterns, stopping ones whose pattern is OFF end
(R437). -/
def stringsAtBlock (s : State) : State :=
  (List.range 16).foldl (fun t n =>
    match (stringOf t n).phase with
    | .ready => derate (setString t n (fun x => { x with phase := .running })) n
    | .stopping => if patternOn t n (frameNow t) then t else wr (stringStop t n) Obj.CAL_STATUS.STATE n 0
    | _ => t) s

/-- A block boundary: `CAL_STRING` and `CAL_CTRL` take effect in every mode, and where the injectors are on the strings
begin and end (R437, R439, R444). -/
def calBlock (s : State) : State :=
  let s1 := (List.range 16).foldl (fun t n => latch t Obj.CAL_STRING.fields n) (latch s Obj.CAL_CTRL.fields 0)
  let s2 := (List.range 16).foldl stringAgain s1
  if calOn s then calFrame (stringsAtBlock s2) else s2

end Sys2Proof.Machine
end

