-- ==== Sys2Proof/Machine/Dahlia.lean ====
section
/-! DEFINITION. Dahlia: starts, integrations, groups, first touches, weights, dump records, blocks, stops
(R156 to R184, `08_dahlia_correlator.md`). -/

namespace Sys2Proof.Machine

/-- Change Dahlia. -/
def setDah (s : State) (f : DahliaState → DahliaState) : State := { s with dah := f s.dah }

/-! ### Geometry (R157, R158, R163) -/

/-- N_in, N_prod, N_packs of a geometry. -/
def geomInputs (g : Nat) : Nat := match g with | 0 => 256 | 1 => 1024 | _ => 4096
def geomProducts (g : Nat) : Nat := geomInputs g * (geomInputs g + 1) / 2
def geomPacks (g : Nat) : Nat := geomProducts g / 128

/-- Channels that a member owns in a geometry: 64 in Quad, 4 in Cluster-16 (R186). -/
def geomChannels (g : Nat) : Nat := match g with | 1 => 64 | 2 => 4 | _ => 1024

/-- The pack table: the pair of 12-bit selectors of lane l for pack p (R156, R157). -/
def laneSelectors (p l : Nat) : Nat × Nat :=
  let b := 128 * p + l
  let j := (isqrt (8 * b + 1) - 1) / 2
  (b - j * (j + 1) / 2, j)

/-- The tile and the step of task u (R158). -/
def tileOfTask (u : Nat) : Nat := u % 256
def stepOfTask (u : Nat) : Nat := u / 256

/-- The geometry in force (`DAH_GEOM`). -/
def geomNow (s : State) : Nat := rd s Obj.DAH_GEOM.GEOM

/-- Slices: local channels, twice as many in cal-binned accumulation (R174). -/
def DahSeq.slices (q : DahSeq) : Nat := if q.calbin then 2 * q.kCount else q.kCount

/-- L: spectra of an integration (R166). -/
def DahSeq.len (q : DahSeq) : Nat := q.blocks * 1024

/-- o(p) in spectra: 64 × ⌊p × S ÷ N_packs⌋ (R166). -/
def DahSeq.offset (q : DahSeq) (p : Nat) : Nat := 64 * (p * q.spread / geomPacks q.geom)

/-- The inputs i ≤ j of product b = j(j + 1)/2 + i (R5). -/
def pairOf (b : Nat) : Nat × Nat := laneSelectors (b / 128) (b % 128)

/-- The sequence that runs. -/
def dahCur (s : State) : Option DahSeq := s.dah.seqs.getLast?

/-! ### Load (R164) -/

/-- Tile load of a number of local channels in 1/10,000: tasks per tile × 64 cycles (R164). -/
def tileLoad (geom k point : Nat) : Nat :=
  ((geomPacks geom * k + 255) / 256) * 64 * 10000 / groupCycles point

/-- Accumulator store load in 1/10,000: bytes read and written per group over the capacity of the banks of the Dahlia
area, 64 bytes per bank and cycle. -/
def storeLoad (geom slices point : Nat) : Nat :=
  let banks := match geom with | 0 => 129 | 1 => 130 | _ => 145
  2 * geomProducts geom * 8 * slices * 10000 / (groupCycles point * banks * 64)

/-- Dahlia's load stays within 92 % at a point. -/
def dahFits (geom k : Nat) (calbin : Bool) (point : Nat) : Bool :=
  decide (tileLoad geom k point ≤ 9200) && decide (storeLoad geom (if calbin then 2 * k else k) point ≤ 9200)

/-- Full-band Solo stands at P2 or a faster point, in use and as the slowest allowed (R24). -/
def soloPointFits (s : State) (k : Nat) : Bool :=
  decide (k < 1024) || (decide (slowestPoint s ≤ 2) && decide (rd s Obj.PWR_DVFS.POINT ≤ 2))

/-! ### Starts (R161, R165, R182, R184, R343) -/

/-- The sequence that a start would make from the configuration, for a start boundary. -/
def newSeq (s : State) (start : Nat) : DahSeq :=
  let g := geomNow s
  { id := s.dah.nextId, start := start, blocks := rd s Obj.DAH_INTEG.INT_BLOCKS, spread := rd s Obj.DAH_INTEG.SPREAD,
    dest := rd s Obj.DAH_DUMP.DEST, ring := rd s Obj.DAH_DUMP.RING, port := rd s Obj.DAH_DUMP.PORT,
    chunk := rd s Obj.DAH_DUMP.CHUNK, calbin := flag s Obj.DAH_INTEG.CALBIN && decide (g = 0),
    calString := rd s Obj.DAH_INTEG.CAL_STRING, kFirst := if g = 0 then rd s Obj.DAH_BAND.K_FIRST else 0,
    kCount := if g = 0 then rd s Obj.DAH_BAND.K_COUNT else geomChannels g, geom := g }

/-- Bytes of one integration's records, B_dump (R179, R180). -/
def dumpBytes (q : DahSeq) : Nat :=
  let vis := (q.slices + 2 ^ q.chunk - 1) / 2 ^ q.chunk
  geomPacks q.geom * (56 * vis + 1024 * q.slices + 56 + (if q.calbin then 1152 else 640)) + 312

/-- Dahlia can take a start: the mode runs it with integrations, and it has started (R165). -/
def startAllowed (s : State) : Bool :=
  s.dah.started &&
    (match modeOf s with
     | .image | .survey | .calibrate => true
     | .peer => decide (rd s Obj.PEER_STATUS.STATE = 4)
     | _ => false)

/-- The status of a start (R165): the first in the order of R370 of what its checks answer. -/
def startStatus (s : State) : Nat :=
  let q := newSeq s 0
  firstStatus
    [statusIf (!startAllowed s) 0x0002,
     statusIf (decide (q.dest = 2) && !flag s Obj.NET_TEMPLATE.SET (28 + q.port)) 0x0002,
     statusIf (decide (q.dest = 1) && (decide (rd s Obj.DAH_DUMP_BASE.BASE 0 = 0)
       || decide (rd s Obj.DAH_DUMP_BASE.BASE 1 = 0))) 0x0001,
     statusIf (q.calbin && decide (512 < q.kCount)) 0x0001,
     statusIf (decide (16384 < q.blocks)) 0x0001,
     statusIf (decide (16 * q.blocks < q.spread)) 0x0001,
     statusIf (decide (q.spread * rd s Obj.DAH_DUMP.PATH_GBPS * 81920 < dumpBytes q * 8)) 0x0001,
     statusIf (!dahFits q.geom q.kCount q.calbin (slowestPoint s)) 0x0010,
     statusIf (decide (q.geom = 0) && !soloPointFits s q.kCount) 0x0010]

/-- The first block boundary whose first sample, at tick 2,048(SPX_s − 3), lies at or after a tick (R165): its spectrum,
not reduced modulo 2³². -/
def boundaryAfter (s : State) (tick : Nat) : Nat :=
  -- in Peer the boundary is one of GSPX
  let delta := if modeOf s = .peer then rd s Obj.PEER_STATUS.DELTA else 0
  let n := (tick + 2047) / 2048 + 3
  let g := n + (1024 - delta % 1024)
  (g + 1023) / 1024 * 1024 - (1024 - delta % 1024)

/-- A start is accepted for a boundary (R165, R184). -/
def acceptStart (s : State) (n : Nat) : State :=
  wr (setDah s (fun d => { d with next := some (newSeq s n) })) Obj.DAH_STATUS.PENDING 0 0

/-- The spectrum of the first block boundary after now, of GSPX in Peer; not reduced (R36, R165, R168, R193). -/
def nextBlock (s : State) : Nat :=
  let k := if modeOf s = .peer then 1024 - rd s Obj.PEER_STATUS.DELTA % 1024 else 0
  (s.time.rc64 / 2048 + 1 + k + 1023) / 1024 * 1024 - k

/-- START_NOW (R165): a start at the first block boundary after the write, where every check passes. -/
def execStartNow (s : State) : Host.Outcome State Fault Refusal :=
  if startStatus s = 0 then .next (acceptStart s (nextBlock s)) else .next s

/-- What no integration needs any more, before a spectrum, leaves the lists of changes and losses. -/
def pruneBefore (s : State) (n : Nat) : State :=
  let keep (l : List Nat) : List Nat := l.filter (fun x => decide (n ≤ x))
  let late := s.dah.masks.filter (fun m => decide (n < m.1))
  setDah s (fun d =>
    { d with discards := keep d.discards, missing := keep d.missing, eqAt := keep d.eqAt,
             masks := late ++ (d.masks.drop late.length).take 1 })

/-- INTEGRATION_START (R165, R167): the sequence begins at its boundary, after the closing pass of a stop; one that runs
goes on, pack by pack, until the new one reaches it. -/
def execIntegrationStart (s : State) : Host.Outcome State Fault Refusal :=
  match s.dah.next with
  | none => .next s
  | some q =>
    if s.dah.started ∧ s.dah.stopAt = none ∧ q.start ≤ s.time.rc64 / 2048 + 3 then
      let s1 := setDah s (fun d =>
        { d with next := none, seqs := d.seqs ++ [q], nextId := d.nextId + 1,
                 packs := if d.seqs.isEmpty then List.replicate (geomPacks q.geom) none else d.packs })
      let s2 := if s.dah.seqs.isEmpty then pruneBefore s1 q.start else s1
      .next (wr (wr (wr s2 Obj.DAH_STATUS.RUNNING 0 1) Obj.DAH_STATUS.INT_SEQ 0 0)
        Obj.DAH_STATUS.SEQ_SPX 0 (toGroupSpx s q.start))
    else .next s

/-! ### Dump records (R179, R180) -/

/-- The 48-byte header. -/
def dumpHeader (s : State) (q : DahSeq) (magic flags e pack kLocal nSlices start n payload rc errs : Nat) : Bytes :=
  leBytes 4 magic ++ [1, s.ctl.chipId % 16] ++ leBytes 2 flags ++ leBytes 4 e ++ leBytes 4 pack ++ leBytes 2 kLocal
    ++ [nSlices, q.geom] ++ leBytes 4 start ++ leBytes 4 n ++ leBytes 4 payload ++ leBytes 8 rc
    ++ leBytes 4 (geomProducts q.geom) ++ leBytes 2 (min 65535 errs) ++ [0, 0]

/-- The key of integration e of a sequence. -/
def DahSeq.key (q : DahSeq) (e : Nat) : Nat := q.id * 2 ^ 32 + e

/-- The base of the host image of integration e: as `DAH_DUMP_BASE` stood when its first record formed (R184, log entry
111). -/
def imageBase (s : State) (q : DahSeq) (e : Nat) : Nat :=
  if mapGet s.dah.bases (q.key e) ≠ 0 then mapGet s.dah.bases (q.key e) - 1 else rd s Obj.DAH_DUMP_BASE.BASE (e % 2)

/-- Fix the base of the image of integration e. -/
def holdBase (s : State) (q : DahSeq) (e : Nat) : State :=
  setDah s (fun d => { d with bases := mapSet d.bases (q.key e) (1 + imageBase s q e) })

/-- A record with its trailer. -/
def dumpRecord (s : State) (q : DahSeq) (header payload : Bytes) (place stride e : Nat) : DumpRecord :=
  ⟨header, payload, leBytes 4 (crc32c (header ++ payload)) ++ [0, 0, 0, 0], place, stride, imageBase s q e, q.dest, q.ring,
   q.port, false⟩

/-- "DVIS", "DWGT", "DSUM" as little-endian words. -/
def magicVis : Nat := 0x53495644
def magicWgt : Nat := 0x54475744
def magicSum : Nat := 0x4D555344

/-- Queue a record: it waits until the dump queue has a slot (R177). -/
def queueDump (s : State) (r : DumpRecord) : State :=
  let s1 := bump (clockStarts s 12) Obj.DAH_STATUS.RECORDS 0 1
  setDah s1 (fun d =>
    if d.toQueue.isEmpty && decide (d.dumps.length < 64) then { d with dumps := d.dumps ++ [r] }
    else { d with toQueue := d.toQueue ++ [r] })

/-- A record leaves the dump queue, and one that waits takes its slot. -/
def dumpTaken (s : State) : State :=
  setDah s (fun d =>
    { d with dumps := d.dumps.drop 1 ++ d.toQueue.take 1, toQueue := d.toQueue.drop 1 })

/-- The integration of a pack: its first spectrum and the spectra of its span (R166, R167). -/
structure Span where
  start : Nat
  n : Nat
  deriving DecidableEq, Repr

/-- The span of integration e of pack p, cut at spectrum `fin` where one is given. -/
def spanOf (q : DahSeq) (p e : Nat) (fin : Option Nat) : Span :=
  let start := q.start + q.offset p + e * q.len
  match fin with
  | some x => ⟨start, min q.len (x - start)⟩
  | none => ⟨start, q.len⟩

/-- A spectrum lies inside a span, behind its first one. -/
def Span.inside (sp : Span) (n : Nat) : Bool := decide (sp.start < n) && decide (n < sp.start + sp.n)

/-- Some spectra of a span lie under more than one equalization table (R171). -/
def eqSplit (s : State) (sp : Span) : Bool := s.dah.eqAt.any sp.inside

/-- Every channel that was masked for any spectrum of a span (R171): the mask in force at its start and those that took
effect inside it. -/
def spanMask (s : State) (sp : Span) : Nat :=
  let before := s.dah.masks.find? (fun m => decide (m.1 ≤ sp.start))
  (s.dah.masks.filter (fun m => sp.inside m.1)).foldl (fun a m => a ||| m.2) ((before.map (fun m => m.2)).getD 0)

/-- The mask of the Dahlia path in force at a spectrum. -/
def maskAt (s : State) (n : Nat) : Nat := ((s.dah.masks.find? (fun m => decide (m.1 ≤ n))).map (fun m => m.2)).getD 0

/-- The global channel of a slice. -/
def sliceChannel (s : State) (q : DahSeq) (sl : Nat) : Nat :=
  let j := if q.calbin then sl / 2 else sl
  if q.geom = 0 then q.kFirst + j else lv s Obj.PEER_CFG.K_FIRST + q.kCount * memberNo s + j

/-- The mask bytes of a weight record: bit j for slice j. -/
def maskBytes (s : State) (q : DahSeq) (mask : Nat) : Bytes :=
  leBytes 128 ((List.range q.slices).foldl (fun m sl => if bit mask (sliceChannel s q sl) then m + 2 ^ sl else m) 0)

/-- The word of the field store at an offset of the Dahlia area (R237). -/
def dahWord (s : State) (o : Nat) : Nat :=
  let banks := mapDahBanks (rd s Obj.FST_MAP.MAP)
  o / 64 % banks * 262144 + o / 64 / banks * 8 + o % 64 / 8

/-- V: the full-band visibility size of a geometry (R163, R237). -/
def geomVisSize (g : Nat) : Nat := geomChannels g * geomProducts g * 8

/-- The words of an accumulator and of a weight. -/
def accWord (s : State) (key : Nat) : Nat := dahWord s (8 * key)
def wtsWord (s : State) (key : Nat) : Nat := dahWord s (geomVisSize (geomNow s) + 4 * key)

/-- An accumulator, a weight, is poisoned or uncorrectable (R178). -/
def accBad (s : State) (key : Nat) : Bool := decide (mapGet s.fst.bad (accWord s key) ≠ 0)
def wtsBad (s : State) (key : Nat) : Bool := decide (mapGet s.fst.bad (wtsWord s key) ≠ 0)

/-- A weight word as dumped (R178). -/
def weightWord (s : State) (key : Nat) : Nat := if wtsBad s key then 0xFFFFFFFF else mapGet s.dah.wts key

/-- The weight words of pack p, lane by lane, ON before OFF in cal-binned accumulation (R180). -/
def packWeights (q : DahSeq) (p : Nat) : List Nat :=
  (List.range 128).flatMap (fun l =>
    (128 * p + l) :: (if q.calbin then [geomProducts q.geom + 128 * p + l] else []))

/-- The weight record of a pack (R180). -/
def weightRecord (s : State) (q : DahSeq) (p e flags : Nat) (sp : Span) : DumpRecord :=
  let np := geomProducts q.geom
  let payload := maskBytes s q (spanMask s sp) ++ (packWeights q p).flatMap (fun k => leBytes 4 (weightWord s k))
  let bad := (packWeights q p).any (wtsBad s)
  dumpRecord s q (dumpHeader s q magicWgt (flags ||| (32 * b2n bad)) e p 0 0 (toGroupSpx s sp.start) sp.n payload.length
    s.time.rc64 0) payload (q.slices * np * 8 + (if q.calbin then 1152 else 640) * p) 0 e

/-- A visibility word as dumped (R178). -/
def visWord (s : State) (key : Nat) : Nat := if accBad s key then 0x8000000080000000 else mapGet s.dah.acc key

/-- The accumulators of pack p in a slice, lane by lane (R163). -/
def packAccs (q : DahSeq) (p sl : Nat) : List Nat :=
  (List.range 128).map (fun l => sl * geomProducts q.geom + 128 * p + l)

/-- One visibility record: slices from sl on (R180).  `OPERAND_ERRS` adds the zeroed operands of its channels, each
channel once. -/
def visRecord (s : State) (q : DahSeq) (p e flags : Nat) (sp : Span) (sl n : Nat) : DumpRecord :=
  let np := geomProducts q.geom
  let slices := (List.range n).map (fun m => sl + m)
  let payload := slices.flatMap (fun x => (packAccs q p x).flatMap (fun k => leBytes 8 (visWord s k)))
  let bad := slices.any (fun x => (packAccs q p x).any (accBad s))
  let channels := (slices.map (fun x => if q.calbin then x / 2 else x)).eraseDups
  let errs := (channels.map (fun j => mapGet s.dah.opErr (p * 1024 + j))).sum
  dumpRecord s q (dumpHeader s q magicVis (flags ||| (32 * b2n bad) ||| (64 * b2n (decide (errs ≠ 0)))) e p sl n
    (toGroupSpx s sp.start) sp.n payload.length s.time.rc64 errs) payload (sl * np * 8 + 1024 * p) (np * 8) e

/-- The flags that a span gives every record of its pack. -/
def spanFlags (s : State) (q : DahSeq) (sp : Span) (closing short : Bool) : Nat :=
  b2n closing + 2 * b2n short + 8 * b2n q.calbin + 16 * b2n (eqSplit s sp)

/-- The markers of the words that a pack dumps (R178, `DAH_STATUS.POISON_WORDS`). -/
def markersOf (s : State) (q : DahSeq) (p : Nat) : Nat :=
  ((packWeights q p).filter (wtsBad s)).length
    + ((List.range q.slices).map (fun x => ((packAccs q p x).filter (accBad s)).length)).sum

/-- Records formed in one group, each with its place in the order of the tasks (R158, R169): 0 for the weights, c + 1 for
the visibility record of the c-th run of slices, then `EMPTY` records, then summaries. -/
abbrev Batch := State × List (Nat × DumpRecord)

/-- Visibility records of a pack: ⌈K_SLICES ÷ 2^c⌉ (R180). -/
def DahSeq.runs (q : DahSeq) : Nat := (q.slices + 2 ^ q.chunk - 1) / 2 ^ q.chunk

/-- Dump a pack's integration: its weight record, then its visibility records in ascending channel (R169, R180). -/
def dumpPack (b : Batch) (q : DahSeq) (p e : Nat) (sp : Span) (closing short : Bool) : Batch :=
  let s := holdBase b.1 q e
  let flags := spanFlags s q sp closing short
  let per := 2 ^ q.chunk
  (bump s Obj.DAH_STATUS.POISON_WORDS 0 (markersOf s q p),
   b.2 ++ (0, weightRecord s q p e flags sp) :: (List.range q.runs).map (fun c =>
     (c + 1, visRecord s q p e flags sp (c * per) (min per (q.slices - c * per)))))

/-- One `EMPTY` record in place of a pack's records (R170, R180), with fault 0x0706. -/
def dumpEmpty (b : Batch) (q : DahSeq) (p e : Nat) (sp : Span) (closing short : Bool) : Batch :=
  let s := holdBase b.1 q e
  let flags := spanFlags s q sp closing short ||| 4
  let s1 := setDah s (fun d => { d with empties := mapSet d.empties (q.key e) (mapGet d.empties (q.key e) + 1) })
  (raise s1 0x0706 0 p (e % 2 ^ 32),
   b.2 ++ [(q.runs + 1, dumpRecord s q (dumpHeader s q magicWgt flags e p 0 0 (toGroupSpx s sp.start) sp.n 0 0 0) []
     0 0 e)])

/-- The summary record of integration e (R180): it follows the last pack's records; without a wait over 10 µs in the
integration fault 0x0703 clears.  `first` and `last` are the spans of pack 0 and of the last pack. -/
def dumpSummary (b : Batch) (q : DahSeq) (e : Nat) (first last : Span) (closing : Bool) : Batch :=
  let s := holdBase b.1 q e
  let whole : Span := ⟨first.start, last.start + last.n - first.start⟩
  let within (x : Nat) : Bool := decide (x = first.start) || whole.inside x
  let eqIn := s.dah.eqAt.reverse.find? whole.inside
  let payload := leBytes 4 q.blocks ++ leBytes 4 q.spread ++ leBytes 4 (geomPacks q.geom)
    ++ leBytes 2 (if q.geom = 0 then q.kFirst else 0) ++ leBytes 2 q.slices
    ++ leBytes 4 (s.dah.discards.filter within).length ++ leBytes 4 (s.dah.missing.filter within).length
    ++ leBytes 4 ((eqIn.map (toGroupSpx s)).getD 0xFFFFFFFF) ++ leBytes 4 (mapGet s.dah.empties (q.key e))
    ++ [q.calString] ++ List.replicate 223 0
  let flags := b2n closing + 2 * b2n (decide (first.n < q.len)) + 8 * b2n q.calbin + 16 * b2n eqIn.isSome
  let place := q.slices * geomProducts q.geom * 8 + geomPacks q.geom * (if q.calbin then 1152 else 640)
  let r := dumpRecord s q (dumpHeader s q magicSum flags e 0xFFFFFFFF 0 0 (toGroupSpx s (q.start + e * q.len)) first.n
    payload.length s.time.rc64 0) payload place 0 e
  let s1 := if s.dah.waited then s else clearFault s 0x0703 0
  let s2 := setDah s1 (fun d =>
    { d with waited := false, empties := mapSet d.empties (q.key e) 0, bases := mapSet d.bases (q.key e) 0 })
  (if closing then s2 else pruneBefore s2 (first.start + first.n), b.2 ++ [(q.runs + 2, r)])

/-- Queue the records of a group in the order of its tasks: by local channel, then by pack (R158, R169). -/
def queueBatch (b : Batch) : State :=
  let top := b.2.foldl (fun m x => max m x.1) 0
  ((List.range (top + 1)).flatMap (fun k => (b.2.filter (fun x => x.1 == k)).map Prod.snd)).foldl queueDump b.1

/-! ### Groups (R158, R159, R169, R172, R174) -/

/-- One spectrum of a group as Dahlia sees it: slot, validity of every group input, class of R174, the channels that the
owner masks in it (R187). -/
structure GroupSpectrum where
  slot : Nat
  valid : Nat
  cls : Nat
  masked : Nat
  deriving DecidableEq, Repr

/-- A group handed to Dahlia: the number of its first spectrum, the first word of its buffer, the inputs of the buffer's
layout (R162, R199), its spectra. -/
structure GroupIn where
  n0 : Nat
  word : Nat
  inputs : Nat
  spectra : List GroupSpectrum
  deriving DecidableEq, Repr

/-- The operand byte of input i at local channel j of a spectrum (R162, R199); a damaged corner-turn word, named by the
first of its eight inputs, gives 0 (R178), and a masked channel is 0. -/
def operand (s : State) (g : GroupIn) (x : GroupSpectrum) (corner : List (Nat × Nat × Nat)) (j i : Nat) : Nat :=
  if bit x.masked j || corner.any (fun c => c.1 == j && c.2.1 == x.slot && decide (c.2.2 / 8 = i / 8)) then 0
  else (memGet s.mem (wordAddr g.word + (64 * j + x.slot) * g.inputs + i)).toNat

/-- The words of a group's buffer that are marked bad in the field store, as local channel, slot, first input. -/
def badCorner (s : State) (q : DahSeq) (g : GroupIn) : List (Nat × Nat × Nat) :=
  (s.fst.bad.filter (fun p => decide (g.word ≤ p.1) && decide (p.1 < g.word + q.kCount * 8 * g.inputs))).map (fun p =>
    let o := 8 * (p.1 - g.word)
    (o / (64 * g.inputs), o / g.inputs % 64, o % g.inputs))

/-- The product x_i × conj(x_j) of two operand bytes (R159). -/
def cmac (a b : Nat) : Int × Int :=
  let ar := toInt 4 a
  let ai := toInt 4 (a / 16)
  let br := toInt 4 b
  let bi := toInt 4 (b / 16)
  (ar * br + ai * bi, ai * br - ar * bi)

/-- The spectra of a group that count for a product and bin (R21, R172, R174). -/
def counted (q : DahSeq) (g : GroupIn) (b bin : Nat) : List GroupSpectrum :=
  let ij := pairOf b
  g.spectra.filter (fun x => bit x.valid ij.1 && bit x.valid ij.2 && (!q.calbin || decide (x.cls = bin)))

/-- The tile sum of product b in a slice. -/
def tileSum (s : State) (q : DahSeq) (g : GroupIn) (corner : List (Nat × Nat × Nat)) (sl b : Nat) : Int × Int :=
  let ij := pairOf b
  let j := if q.calbin then sl / 2 else sl
  (counted q g b (if q.calbin then sl % 2 else 0)).foldl (fun acc x =>
    let p := cmac (operand s g x corner j ij.1) (operand s g x corner j ij.2)
    (acc.1 + p.1, acc.2 + p.2)) (0, 0)

/-- Add a tile sum to an accumulator word, or start it. -/
def accPlus (old : Nat) (fresh : Bool) (x : Int × Int) : Nat :=
  let r := if fresh then 0 else toInt 32 old
  let i := if fresh then 0 else toInt 32 (old / 2 ^ 32)
  ofInt 32 (r + x.1) + 2 ^ 32 * ofInt 32 (i + x.2)

/-- The words of a pack's accumulators and weights are written whole on a first touch: none stays bad (R178). -/
def packFresh (s : State) (q : DahSeq) (p : Nat) : State :=
  let words := ((List.range q.slices).flatMap (fun sl => (packAccs q p sl).map (accWord s)))
    ++ (packWeights q p).map (wtsWord s)
  { s with fst := { s.fst with bad := words.foldl (fun m k => mapSet m k 0) s.fst.bad } }

/-- Accumulate a group into a pack (R159, R172): added, or written in place of the old integration. -/
def packAdd (s : State) (q : DahSeq) (p : Nat) (g : GroupIn) (corner : List (Nat × Nat × Nat)) (fresh : Bool) : State :=
  let np := geomProducts q.geom
  let lanes := (List.range 128).map (fun l => 128 * p + l)
  let bins := if q.calbin then [0, 1] else [0]
  let vis := lanes.flatMap (fun b => (List.range q.slices).map (fun sl => (sl * np + b, tileSum s q g corner sl b)))
  let wts := lanes.flatMap (fun b => bins.map (fun bin => (bin * np + b, (counted q g b bin).length)))
  let errs := corner.map (fun c => p * 1024 + c.1)
  setDah (if fresh then packFresh s q p else s) (fun d =>
    { d with
      acc := vis.foldl (fun m x => mapSet m x.1 (accPlus (mapGet m x.1) fresh x.2)) d.acc,
      wts := wts.foldl (fun m x => mapSet m x.1 ((if fresh then 0 else mapGet m x.1) + x.2)) d.wts,
      opErr := errs.foldl (fun m k => mapSet m k (mapGet m k + 8))
        (if fresh then mapClear d.opErr (p * 1024) (p * 1024 + 1024) else d.opErr) })

/-- Where pack p leaves sequence q: at the start of the pack in the next sequence (R167), or at the boundary of a stop
(R168), whichever comes first; none while q runs on. -/
def seqEnd (s : State) (q : DahSeq) (p : Nat) : Option Nat :=
  (((s.dah.seqs.filter (fun r => decide (q.id < r.id))).map (fun r => r.start + r.offset p)) ++ s.dah.stopAt.toList).min?

/-- The last integration of pack p in a sequence that ends for it at spectrum `fin`; 0 where none had begun. -/
def lastOf (q : DahSeq) (p fin : Nat) : Nat := (fin - (q.start + q.offset p) - 1) / q.len

/-- The sequence that holds pack p at a group (R166, R167): the last whose start for the pack has come. -/
def seqFor (s : State) (p n : Nat) : Option DahSeq :=
  (s.dah.seqs.filter (fun q => decide (q.start + q.offset p ≤ n))).getLast?

/-- Pack p leaves k integrations of sequence q behind, from e on: the first dumped where the accumulators hold it, an
`EMPTY` record for each other; the last one with `CLOSING` where `closing`.  The last pack gives the summaries too, but
for a closing one. -/
def leaveRun : Nat → Batch → DahSeq → Nat → Nat → Bool → Bool → Batch
  | 0, b, _, _, _, _, _ => b
  | k + 1, b, q, p, e, held, closing =>
    let sp := spanOf q p e (seqEnd b.1 q p)
    let cl := closing && k == 0
    let short := decide (sp.n < q.len)
    let b1 := if held then dumpPack b q p e sp cl short else dumpEmpty b q p e sp cl short
    let b2 := if p + 1 = geomPacks q.geom && !cl then
        dumpSummary b1 q e (spanOf q 0 e (seqEnd b.1 q 0)) sp false
      else b1
    leaveRun k b2 q p (e + 1) false closing

/-- The integration of sequence q that the accumulators of pack p hold. -/
def heldOf (s : State) (q : DahSeq) (p : Nat) : Option Nat :=
  match nth s.dah.packs p none with
  | some h => if h.seq = q.id then some h.e else none
  | none => none

/-- Pack p has left sequence q already. -/
def hasLeft (s : State) (q : DahSeq) (p : Nat) : Bool := (nth s.dah.packs p none).any (fun h => decide (q.id < h.seq))

/-- Pack p leaves a whole sequence behind that ends for it at `fin` (R167, R168). -/
def leaveSeq (closing : Bool) (p : Nat) (b : Batch) (q : DahSeq) : Batch :=
  if hasLeft b.1 q p then b
  else
    match seqEnd b.1 q p with
    | none => b
    | some fin =>
      let held := heldOf b.1 q p
      let e := held.getD 0
      leaveRun (max (lastOf q p fin) e + 1 - e) b q p e held.isSome
        (closing && decide (b.1.dah.stopAt = some fin))

/-- What precedes the new tile sum of pack p, whose group lies in integration e of sequence q (R167, R169, R170): the
sequences before q are left, the integration that the accumulators hold is dumped, `EMPTY` records stand for those
between; the result says whether the group is a first touch. -/
def rollover (b : Batch) (q : DahSeq) (p e : Nat) : Batch × Bool :=
  if heldOf b.1 q p = some e then (b, false)
  else
    let b1 := (b.1.dah.seqs.filter (fun r => decide (r.id < q.id))).foldl (leaveSeq false p) b
    let held := heldOf b.1 q p
    (leaveRun (e - held.getD 0) b1 q p (held.getD 0) held.isSome false, true)

/-- One pack at one group. -/
def packGroup (g : GroupIn) (corner : List (Nat × Nat × Nat)) (missing : Bool) (b : Batch) (p : Nat) : Batch :=
  match seqFor b.1 p g.n0 with
  | none => b
  | some q =>
    let e := (g.n0 - (q.start + q.offset p)) / q.len
    let r := rollover b q p e
    if missing && !r.2 then r.1
    else
      (setDah (packAdd r.1.1 q p g corner r.2) (fun d => { d with packs := upd d.packs p (fun _ => some ⟨q.id, e⟩) }),
       r.1.2)

/-- Every pack at one group, and its records in the order of the tasks. -/
def groupPacks (s : State) (q : DahSeq) (g : GroupIn) (corner : List (Nat × Nat × Nat)) (missing : Bool) : State :=
  queueBatch ((List.range (geomPacks q.geom)).foldl (packGroup g corner missing) (s, []))

/-- The first pack that uses input i of the geometry: the one of product (0, i). -/
def packOfInput (i : Nat) : Nat := i * (i + 1) / 2 / 128

/-- Accumulators and weights found uncorrectable in a group are written back poisoned (R178), and every damaged word
raises its fault with the pack and the frequency channel. -/
def dahUpsets (s : State) (u : DahliaUpsets) (corner : List (Nat × Nat × Nat)) : State :=
  let np := geomProducts (geomNow s)
  let words := u.acc.map (accWord s) ++ u.weights.map (wtsWord s)
  let s1 := { s with fst := { s.fst with bad := words.foldl (fun m k => mapSet m k 1) s.fst.bad } }
  let seq := rd s Obj.DAH_STATUS.INT_SEQ
  let s2 := u.acc.foldl (fun t k => raise t 0x0704 0 (k % np / 128) (seq + 2 ^ 32 * (k / np))) s1
  let s3 := u.weights.foldl (fun t k => raise t 0x0704 0 (k % np / 128) seq) s2
  corner.foldl (fun t c => raise t 0x0705 0 (packOfInput c.2.2) (seq + 2 ^ 32 * c.1)) s3

/-- Pack 0 shows the integration in progress (`DAH_STATUS`), and sequences that every pack has left go. -/
def dahShow (s : State) (n : Nat) : State :=
  match dahCur s with
  | some q =>
    let now := (seqFor s 0 n).getD q
    let e := (n - now.start) / now.len
    let s1 := wr (wr s Obj.DAH_STATUS.INT_SEQ 0 e) Obj.DAH_STATUS.SEQ_SPX 0 (toGroupSpx s (now.start + e * now.len))
    let point := rd s Obj.PWR_DVFS.POINT
    let s2 := wr (wr s1 Obj.DAH_STATUS.TILE_LOAD 0 (min 255 (tileLoad q.geom q.kCount point / 100)))
      Obj.DAH_STATUS.STORE_LOAD 0 (min 255 (storeLoad q.geom q.slices point / 100))
    setDah s2 (fun d =>
      { d with seqs := d.seqs.filter (fun r =>
          decide (r.id = q.id) || (List.range (geomPacks q.geom)).any (fun p => !hasLeft s2 r p)) })
  | none => s

/-- The number of the spectrum that a GSPX of the peer stage names, near the group that Dahlia expects. -/
def nearExpect (s : State) (g : Nat) : Nat :=
  ((s.dah.expect : Int) + spxDist g (toGroupSpx s s.dah.expect)).toNat

/-- The first spectrum of the oldest group that waits. -/
def waitingN0 (s : State) : Option Nat :=
  if modeOf s = .peer then s.peer.full.head?.map (fun b => nearExpect s b.g0) else s.chz.full.head?.map (fun b => b.first)

/-- The channels of this member that are masked in a spectrum, by local number (R187). -/
def ownMasked (s : State) (q : DahSeq) (n : Nat) : Nat :=
  let m := maskAt s n
  (List.range q.kCount).foldl (fun a j =>
    if bit m (lv s Obj.PEER_CFG.K_FIRST + q.kCount * memberNo s + j) then a + 2 ^ j else a) 0

/-- The group of the oldest corner-turn buffer that waits, from the channelizer or, in Peer, from the peer stage. -/
def groupWaiting (s : State) (q : DahSeq) : Option GroupIn :=
  if modeOf s = .peer then
    s.peer.full.head?.map (fun b =>
      let n0 := nearExpect s b.g0
      ⟨n0, peerWord s b.place, geomInputs q.geom, (List.range 64).map (fun n =>
        ⟨n, b.validAt n, 0, ownMasked s q (n0 + n)⟩)⟩)
  else
    s.chz.full.head?.map (fun b =>
      ⟨b.first, cornerWord b.half, 256, b.slots.map (fun x =>
        ⟨x.1, x.2, if q.calbin then calClass s q.calString (b.first + x.1) else 0, 0⟩)⟩)

/-- The buffer of the oldest group is released. -/
def releaseGroup (s : State) : State :=
  if modeOf s = .peer then setPeer s (fun p => { p with full := p.full.drop 1 })
  else drain4 3 (setChz s (fun c => { c with full := c.full.drop 1 }))

/-- The first spectrum of the block of spectrum n: blocks begin where SPX, or GSPX in Peer, is a multiple of 1,024. -/
def blockFirst (s : State) (n : Nat) : Nat := n - toGroupSpx s n % 1024

/-- The group lies in a block that is being discarded. -/
def inDropped (s : State) (n : Nat) : Bool := decide (s.dah.dropBlock = some (blockFirst s n))

/-- The block of a group is released uncorrelated (R175). -/
def discardBlock (s : State) (n : Nat) : State :=
  let s1 := setDah s (fun d => { d with dropBlock := some (blockFirst s n), discards := d.discards ++ [blockFirst s n] })
  raise (bump s1 Obj.DAH_STATUS.BLOCKS_DISCARDED 0 1) 0x0701 0 0 (rd s Obj.DAH_STATUS.INT_SEQ)

/-- A domain of Dahlia cycles after a latch-up: blocks admitted before its restoration are discarded (R452). -/
def dahliaCut (s : State) : Bool := (domRange 95 158).any (domCycling s)

/-- The block of a first group has ended before Dahlia was ready to begin it (R175). -/
def admittedLate (s : State) (n : Nat) : Bool :=
  decide (blockFirst s n = n) && decide (n + 1024 ≤ s.time.rc64 / 2048) && !inDropped s n

/-- The group lies at or after the boundary of a stop: it is not correlated (R36, R168). -/
def pastStop (s : State) (n : Nat) : Bool := s.dah.stopAt.any (fun b => decide (b ≤ n))

/-- A start that waits for the closing pass reaches the group (R165, R168). -/
def startWaits (s : State) (n : Nat) : Bool := s.dah.next.any (fun q => decide (q.start ≤ n))

/-- The operand register of the tiles after a group: the last spectrum of the last local channel (R156, R158). -/
def broadcast (s : State) (q : DahSeq) (g : GroupIn) (corner : List (Nat × Nat × Nat)) : State :=
  match g.spectra.getLast? with
  | some x => setDah s (fun d =>
      { d with operands := (List.range g.inputs).map (operand s g x corner (q.kCount - 1)) })
  | none => s

/-- The oldest group is correlated pack by pack, with the first touches that it makes (R158, R169, R172). -/
def correlateGroup (s : State) (q : DahSeq) (g : GroupIn) (upsets : DahliaUpsets) : State :=
  let corner := (upsets.corner ++ badCorner s q g).eraseDups
  dahShow (groupPacks (dahUpsets (broadcast s q g corner) upsets corner) q g corner false) g.n0

/-- DAHLIA_GROUP (R158, R169, R172, R175): the oldest group is correlated; a group of a discarded block, or past a stop,
is only released.  Dahlia waits while records wait for the dump queue (R177). -/
def execDahliaGroup (upsets : DahliaUpsets) (s : State) : Host.Outcome State Fault Refusal :=
  match waitingN0 s with
  | none => .next s
  | some n =>
    if s.dah.started && s.dah.toQueue.isEmpty && decide (n = s.dah.expect) && !(pastStop s n && startWaits s n) then
      let s0 := setDah s (fun d => { d with expect := n + 64 })
      if inDropped s n || pastStop s n then .next (releaseGroup s0)
      else if admittedLate s n || (dahliaCut s && (dahCur s).isSome) then .next (releaseGroup (discardBlock s0 n))
      else
        match dahCur s with
        | some q =>
          match groupWaiting s q with
          | some g => .next (releaseGroup (correlateGroup s0 q g upsets))
          | none => .next (releaseGroup s0)
        | none => .next (releaseGroup s0)
    else .next s

/-- The group that Dahlia expects has no descriptor and gets none any more (R109, R199). -/
def groupGone (s : State) : Bool :=
  let n := s.dah.expect
  if modeOf s = .peer then
    decide (n + 128 ≤ s.chz.nextN) && s.peer.buffers.all (fun b => decide (nearExpect s b.g0 ≠ n))
  else
    decide (n + 64 ≤ s.chz.nextN) && s.chz.wait4.all (fun p => decide (p.n / 64 * 64 ≠ n))
      && !(s.chz.filling.any (fun b => decide (b.first = n)))

/-- DAHLIA_GROUP_MISSING (R176): a group with no descriptor; only the first touches it makes are run, with a tile sum of
zero. -/
def execDahliaGroupMissing (s : State) : Host.Outcome State Fault Refusal :=
  let n := s.dah.expect
  if s.dah.started && s.dah.toQueue.isEmpty && groupGone s && decide (waitingN0 s ≠ some n)
      && !(pastStop s n && startWaits s n) then
    let s1 := setDah s (fun d => { d with expect := n + 64, missing := d.missing ++ [n] })
    let s2 := raise (bump s1 Obj.DAH_STATUS.GROUPS_MISSING 0 1) 0x0702 0 0 (rd s Obj.DAH_STATUS.INT_SEQ)
    if inDropped s n || pastStop s n then .next s2
    else
      match dahCur s with
      | some q => .next (dahShow (groupPacks s2 q ⟨n, 0, 0, []⟩ [] true) n)
      | none => .next s2
  else .next s

/-! ### Blocks (R175), waits (R177), stops (R168) -/

/-- DAHLIA_BLOCK_DISCARD (R175): at the end of block β its first group has not begun; the block is released
uncorrelated. -/
def execDahliaBlockDiscard (s : State) : Host.Outcome State Fault Refusal :=
  if s.dah.started && admittedLate s s.dah.expect then .next (discardBlock s s.dah.expect) else .next s

/-- DUMP_WAIT (R177): Dahlia has waited for the dump queue in a group; a wait of more than 10 µs counts fault 0x0703. -/
def execDumpWait (us : Nat) (s : State) : Host.Outcome State Fault Refusal :=
  if s.dah.toQueue.isEmpty then .next s
  else
    let s1 := bump s Obj.DAH_STATUS.DUMP_WAIT_US 0 us
    .next (if 10 < us then
        raise (setDah s1 (fun d => { d with waited := true })) 0x0703 0 0 (rd s Obj.DAH_STATUS.INT_SEQ)
      else s1)

/-- A stop is set for the block boundary at a spectrum (R168). -/
def dahStop (s : State) (n : Nat) : State := setDah s (fun d => { d with stopAt := some n, next := none })

/-- The closing pass over pack p (R168): every sequence that the pack has not left ends at the boundary; an integration
that had not begun gives an `EMPTY` record.  Nothing is erased. -/
def closePack (b : Batch) (p : Nat) : Batch := b.1.dah.seqs.foldl (leaveSeq true p) b

/-- INTEGRATION_STOP_BOUNDARY (R168): the last group before the boundary has been processed; the closing pass dumps
every pack. -/
def execIntegrationStopBoundary (s : State) : Host.Outcome State Fault Refusal :=
  match s.dah.stopAt, dahCur s with
  | some stop, some q =>
    if stop ≤ s.dah.expect ∧ s.dah.closing = false then
      .next (setDah (queueBatch ((List.range (geomPacks q.geom)).foldl closePack (s, [])))
        (fun d => { d with closing := true }))
    else .next s
  | _, _ => .next s

/-- The integrations of a sequence in which some pack was closed and whose summary is due, ascending (R168, R180). -/
def closedOf (s : State) (q : DahSeq) : List Nat :=
  let last := geomPacks q.geom - 1
  if hasLeft s q last || decide (seqEnd s q last ≠ s.dah.stopAt) then []
  else
    let fin (p : Nat) : Nat := lastOf q p ((seqEnd s q p).getD 0)
    (List.range (fin 0 + 1)).filter (fun e =>
      decide (fin last ≤ e) && (List.range (last + 1)).any (fun p => decide (fin p = e)))

/-- CLOSING_PASS_DONE (R168): the closing summary records are queued and Dahlia reads STOPPED. -/
def execClosingPassDone (s : State) : Host.Outcome State Fault Refusal :=
  if s.dah.closing ∧ s.dah.toQueue.isEmpty then
    let b := s.dah.seqs.foldl (fun b q => (closedOf s q).foldl (fun b e =>
      dumpSummary b q e (spanOf q 0 e (seqEnd s q 0)) (spanOf q (geomPacks q.geom - 1) e (seqEnd s q (geomPacks q.geom - 1)))
        true) b) (s, [])
    .next (wr (setDah (queueBatch b) (fun d =>
      { d with seqs := [], stopAt := none, closing := false, packs := [], empties := [], bases := [] }))
      Obj.DAH_STATUS.RUNNING 0 0)
  else .next s

/-- Dahlia starts at a block boundary (R38): the groups from spectrum n on are its own; until a sequence starts it
accumulates nothing.  The selectors of the lanes have the pack table of the geometry (R156). -/
def dahStart (s : State) (n : Nat) : State :=
  setDah s (fun d => { d with started := true, expect := n, dropBlock := none, packTable := geomNow s, discards := [],
                              missing := [], masks := [(n, lv s Obj.CHZ_CHMASK.DAH_MASK)], eqAt := [] })

/-- Dahlia has no work any more: the function has been removed (R36). -/
def dahEnd (s : State) : State := setDah s (fun d => { d with started := false, next := none })

end Sys2Proof.Machine
end

