-- ==== Sys2Proof/Machine/Sunflower.lean ====
section
/-! DEFINITION. Sunflower: weights, beams, context sets, gain changes, beam frames
(R216 to R232, `10_sunflower_beamformer.md`). -/

namespace Sys2Proof.Machine

/-- Change Sunflower. -/
def setSun (s : State) (f : SunflowerState → SunflowerState) : State := { s with sun := f s.sun }

/-! ### The phasor (R218) -/

/-- 16,383 × v rounded, for v ≥ 0 in units of 2^-62. -/
def phasorRound (v : Int) : Int := (2 * 16383 * (if v < 0 then 0 else v) + 2 ^ 62) / 2 ^ 63

/-- c + js of a phase index: 16,383 × cos and sin of 2πθ ÷ 65,536, rounded with halves away from zero. -/
def phasor (theta : Nat) : Int × Int :=
  let q := quarter (theta % 16384) 16384
  let c := phasorRound q.1
  let n := phasorRound q.2
  match theta / 16384 % 4 with
  | 0 => (c, n)
  | 1 => (-n, c)
  | 2 => (-c, -n)
  | _ => (n, -c)

/-! ### Weights (R216 to R218, R230) -/

/-- The place of a context in a set. -/
def ctxKey (b i : Nat) : Nat := b * 256 + i

/-- DELAY and RATE of a context word. -/
def ctxDelay (w : Nat) : Int := toInt 24 w
def ctxRate (w : Nat) : Int := toInt 24 (w / 2 ^ 24)

/-- The home-copy entry of a gain, and of a context of a physical set. -/
def homeGain (i k : Nat) : Nat := i * 1024 + k
def homeCtx (set key : Nat) : Nat := 262144 + set * 16384 + key

/-- τ at a spectrum, in RATE units (R217). -/
def tauAt (set : SunSet) (key n : Nat) : Int :=
  let w := mapGet set.ctx key
  ctxDelay w * 2 ^ 28 + ctxRate w * (((n + 2 ^ 32 - set.ref % 2 ^ 32) % 2 ^ 32 : Nat) : Int)

/-- The phase index of channel k at a delay (R217). -/
def phaseIndex (k : Nat) (tau : Int) : Nat :=
  (((k : Int) * tau % 2 ^ 50 + 2 ^ 33) / 2 ^ 34 % 65536).toNat

/-- The gain of an input and channel in force. -/
def gainWord (s : State) (i k : Nat) : Nat := mapGet s.sun.gains (homeGain i k) ^^^ 64

/-- The entries that have zero weight in this group: found uncorrectable in it, or uncorrectable in the home copy. -/
def zeroWeight (s : State) (upsets : List (Nat × Nat)) (entry : Nat) : Bool :=
  decide (mapGet s.sun.homeBad entry ≠ 0) || upsets.any (fun u => u.1 == entry && u.2 != 0)

/-- W = round(g × p ÷ 128) of beam b, input i and channel k for the group at g0 (R218). -/
def sunWeight (s : State) (upsets : List (Nat × Nat)) (b i k g0 : Nat) : Int × Int :=
  if zeroWeight s upsets (homeGain i k)
      || zeroWeight s upsets (homeCtx (rd s Obj.SUN_STATUS.ACTIVE_SET) (ctxKey b i)) then (0, 0)
  else
    let g := gainWord s i k
    let gr := toInt 8 g
    let gi := toInt 8 (g / 256)
    let p := phasor (phaseIndex k (tauAt s.sun.active (ctxKey b i) (g0 + 32)))
    (divAway (gr * p.1 - gi * p.2) 128, divAway (gr * p.2 + gi * p.1) 128)

/-! ### Sums and output values (R219 to R221) -/

/-- The E8 value of input i and channel k of a spectrum. -/
def e8At (p : Spectrum) (i k : Nat) : Int × Int :=
  let x := nth (nth p.e8 i []) k 0
  (toInt 8 x, toInt 8 (x / 256))

/-- A of a beam, a channel and a spectrum: over the valid inputs of the mask, x × W (R219). -/
def beamValue (mask : Nat) (ws : List (Int × Int)) (p : Spectrum) (k : Nat) : Int × Int :=
  (List.range 256).foldl (fun a i =>
    if bit mask i && bit p.valid8 i then
      let x := e8At p i k
      let w := nth ws i (0, 0)
      (a.1 + (x.1 * w.1 - x.2 * w.2), a.2 + (x.1 * w.2 + x.2 * w.1))
    else a) (0, 0)

/-- One part of Y with whether it saturated (R220). -/
def beamPart (form shift : Nat) (a : Int) : Int × Bool :=
  let y := divAway a (2 ^ shift)
  let m : Int := if form = 0 then 7 else 127
  (clampInt (-m) m y, decide (clampInt (-m) m y ≠ y))

/-- The bytes of Y in its form, with whether a part saturated. -/
def beamOut (form shift : Nat) (a : Int × Int) : Bytes × Bool :=
  let r := beamPart form shift a.1
  let i := beamPart form shift a.2
  (if form = 0 then [ofInt 4 r.1 + 16 * ofInt 4 i.1] else [ofInt 8 r.1, ofInt 8 i.1], r.2 || i.2)

/-- Σ v |x|² of the incoherent beam over the inputs of a mask (R221). -/
def powerValue (mask : Nat) (p : Spectrum) (k : Nat) : Nat :=
  (List.range 256).foldl (fun a i =>
    if bit mask i && bit p.valid8 i then
      let x := e8At p i k
      a + (x.1 * x.1 + x.2 * x.2).toNat
    else a) 0

/-! ### Load and output budget (R222, R223) -/

/-- Σ `K_COUNT` over the enabled beams of a field reader. -/
def beamChannels (get : Field → Nat → Nat) : Nat :=
  (List.range 64).foldl (fun a b => a + (if get Obj.SUN_BEAM.ENABLE b ≠ 0 then get Obj.SUN_BEAM.K_COUNT b else 0)) 0

/-- Σ `K_COUNT` as written. -/
def beamChannelsNow (s : State) : Nat := beamChannels (fun f i => rd s f i)

/-- The coherent load in % of the capacity of a point, scaled by 1,000,000 ÷ capacity to stay exact: load ≤ pct %. -/
def sunLoadWithin (k pct point : Nat) : Bool :=
  decide (k * 256 * 781250 * 100 ≤ pct * (16384 * coreClock point * 10000000))

/-- The length of a frame (R228): FORM 0, 1 or 2 of the header, channels, spectra or samples per channel. -/
def frameLength (form n samples : Nat) : Nat :=
  32 + 128 + 8 * ((n + 63) / 64) + up8 (samples * n * (if form = 0 then 1 else 2)) + 8

/-- Bytes that one beam gives per group: full frames and the remainder. -/
def beamBytes (form count frameCh samples : Nat) : Nat :=
  count / frameCh * frameLength form frameCh samples
    + (if count % frameCh = 0 then 0 else frameLength form (count % frameCh) samples)

/-- Frame bytes of every enabled beam per group. -/
def groupBytes (s : State) : Nat :=
  (List.range 64).foldl (fun a b =>
    a + (if flag s Obj.SUN_BEAM.ENABLE b then
          beamBytes (rd s Obj.SUN_BEAM.FORM b) (rd s Obj.SUN_BEAM.K_COUNT b) (rd s Obj.SUN_BEAM.FRAME_CH b) 64 else 0)) 0
    + (if flag s Obj.SUN_INCOH.ENABLE then
        beamBytes 2 (rd s Obj.SUN_INCOH.K_COUNT) (rd s Obj.SUN_INCOH.FRAME_CH) (64 / 2 ^ rd s Obj.SUN_INCOH.AVG_LOG)
       else 0)

/-- The frames of the enabled beams fit `PATH_GBPS` (R223), at 781,250 ÷ 64 groups per second. -/
def sunPathFits (s : State) : Bool :=
  decide (groupBytes s * 8 * 781250 ≤ 64 * (rd s Obj.SUN_CTRL.PATH_GBPS * 1000000000))

/-- The ranges of the objects of R232 that depend on another field. -/
def sunRanges (s : State) : Bool :=
  (List.range 64).all (fun b =>
      decide (rd s Obj.SUN_BEAM.K_FIRST b + rd s Obj.SUN_BEAM.K_COUNT b ≤ 1024)
        && decide (rd s Obj.SUN_BEAM.FRAME_CH b ≤ (if rd s Obj.SUN_BEAM.FORM b = 0 then 128 else 64)))
    && decide (rd s Obj.SUN_INCOH.K_FIRST + rd s Obj.SUN_INCOH.K_COUNT ≤ 1024)
    && decide (rd s Obj.SUN_INCOH.FRAME_CH ≤ 64 * 2 ^ rd s Obj.SUN_INCOH.AVG_LOG)
    && decide (rd s Obj.SUN_CTRL.PATH_GBPS ≤ (if flag s Obj.SUN_CTRL.DEST then 100 else 56))

/-! ### Frames (R228, R229) -/

/-- One frame in the making: beam, header FORM byte, `AVG_LOG` 0 for a voltage beam, shift, mask, channels. -/
structure FramePlan where
  beam : Nat
  form : Nat
  avgLog : Nat
  shift : Nat
  mask : Nat
  kFirst : Nat
  n : Nat

/-- The frames of a band cut at `FRAME_CH` channels. -/
def cutBand (mk : Nat → Nat → FramePlan) (first count frameCh : Nat) : List FramePlan :=
  (List.range ((count + frameCh - 1) / frameCh)).map (fun f =>
    mk (first + f * frameCh) (min frameCh (count - f * frameCh)))

/-- The frames of a group in the order of R229, from the configuration in force. -/
def groupFrames (s : State) : List FramePlan :=
  ((List.range 64).map (fun b =>
      if lv s Obj.SUN_BEAM.ENABLE b ≠ 0 then
        cutBand (fun k n => ⟨b, lv s Obj.SUN_BEAM.FORM b, 0, lv s Obj.SUN_BEAM.SHIFT b, lv s Obj.SUN_BEAM.INPUTS b, k, n⟩)
          (lv s Obj.SUN_BEAM.K_FIRST b) (lv s Obj.SUN_BEAM.K_COUNT b) (lv s Obj.SUN_BEAM.FRAME_CH b)
      else [])).flatten
    ++ (if lv s Obj.SUN_INCOH.ENABLE ≠ 0 then
          cutBand (fun k n => ⟨64, 2, lv s Obj.SUN_INCOH.AVG_LOG, lv s Obj.SUN_INCOH.ISHIFT, lv s Obj.SUN_INCOH.INPUTS, k, n⟩)
            (lv s Obj.SUN_INCOH.K_FIRST) (lv s Obj.SUN_INCOH.K_COUNT) (lv s Obj.SUN_INCOH.FRAME_CH)
        else [])

/-- The spectrum of slot j of the group at g0, where it was delivered. -/
def slotOf (s : State) (g0 j : Nat) : Option Spectrum := s.sun.input.find? (fun p => p.n == g0 + j)

/-- The spectrum table of a frame. -/
def spectrumTable (s : State) (g0 mask : Nat) : Bytes :=
  ((List.range 64).map (fun j =>
    match slotOf s g0 j with
    | some p => leBytes 2 (popCount 256 (mask &&& p.valid8))
    | none => leBytes 2 0x8000)).flatten

/-- The Sunflower-path mask of the group in formation (R106: a mask changes at block boundaries, which are group
boundaries). -/
def groupMask (s : State) : Nat :=
  ((s.sun.masks.find? (fun m => decide (m.1 ≤ s.sun.group))).map Prod.snd).getD (lv s Obj.CHZ_CHMASK.SUN_MASK)

/-- The channel mask of a frame. -/
def frameMask (s : State) (f : FramePlan) : Bytes := leBytes (8 * ((f.n + 63) / 64)) (bits (groupMask s) f.kFirst f.n)

/-- A channel of the frame is masked. -/
def frameMasked (s : State) (k : Nat) : Bool := bit (groupMask s) k

/-- The values of a voltage frame, spectrum by spectrum. -/
def voltageData (s : State) (upsets : List (Nat × Nat)) (g0 : Nat) (f : FramePlan) : Bytes × Bool :=
  let ws := (List.range f.n).map (fun c =>
    (List.range 256).map (fun i => sunWeight s upsets f.beam i (f.kFirst + c) g0))
  (List.range 64).foldl (fun a j =>
    (List.range f.n).foldl (fun a c =>
      let y := match slotOf s g0 j with
        | some p =>
          if frameMasked s (f.kFirst + c) then (if f.form = 0 then [0] else [0, 0], false)
          else beamOut f.form f.shift (beamValue f.mask (nth ws c []) p (f.kFirst + c))
        | none => (if f.form = 0 then [0] else [0, 0], false)
      (a.1 ++ y.1, a.2 || y.2)) a) ([], false)

/-- The values of a power frame, sample by sample. -/
def powerData (s : State) (g0 : Nat) (f : FramePlan) : Bytes × Bool :=
  let per := 2 ^ f.avgLog
  (List.range (64 / per)).foldl (fun a r =>
    (List.range f.n).foldl (fun a c =>
      let sum := (List.range per).foldl (fun t j =>
        match slotOf s g0 (r * per + j) with
        | some p => if frameMasked s (f.kFirst + c) then t else t + powerValue f.mask p (f.kFirst + c)
        | none => t) 0
      let y := (divAway (sum : Int) (2 ^ f.shift)).toNat
      (a.1 ++ leBytes 2 (min y 65535), a.2 || decide (65535 < y))) a) ([], false)

/-- The marks of a group: SWITCHED, GAIN_CHANGED and MASK_CHANGED in the first frame of each beam, then TABLE_ERR, AGED
and ABSENT. -/
def frameFlags (s : State) (upsets : List (Nat × Nat)) (g0 : Nat) (first clipped : Bool) : Nat :=
  let e := (g0 + 32 + 2 ^ 32 - s.sun.active.ref % 2 ^ 32) % 2 ^ 32
  b2n (first && s.sun.switched)
    + 2 * b2n (first && (s.sun.gainChanged || s.sun.eqAt.any (fun n => decide (n ≤ g0))))
    + 4 * b2n (first && s.sun.maskAt.any (fun n => decide (n ≤ g0)))
    + 8 * b2n (upsets.any (fun u => u.2 != 0) || !s.sun.homeBad.isEmpty)
    + 16 * b2n (s.sun.aged || decide (2 ^ 31 ≤ e))
    + 32 * b2n ((List.range 64).any (fun j => (slotOf s g0 j).isNone)) + 64 * b2n clipped

/-- The bytes that the beam output queue holds. -/
def beamQueueBytes (q : List Bytes) : Nat := (q.map List.length).sum

/-- Overwrite the oldest complete frames until one of `n` bytes has room in the 1 MiB (R19, R229). -/
def beamRoom : List Bytes → Nat → List Bytes × Nat
  | [], _ => ([], 0)
  | x :: t, n =>
    if beamQueueBytes (x :: t) + n ≤ 1048576 then (x :: t, 0)
    else
      let r := beamRoom t n
      (r.1, r.2 + 1)

/-- A frame of a beam enters the beam output queue, over the oldest complete frames where it is full (R19, R229). -/
def beamPut (s : State) (beam : Nat) (frame : Bytes) : State :=
  let room := beamRoom s.sun.queue frame.length
  let s1 := setSun s (fun u => { u with queue := room.1 ++ [frame] })
  let s2 := lossyShow s1 1 (beamQueueBytes s1.sun.queue) 1048576 (rd s Obj.MOV_LOSSY.HIGH_WM 1)
  if room.2 = 0 then s2
  else raise (lossyLost (bump s2 Obj.SUN_STATUS.FRAMES_LOST 0 room.2) 1 room.2) 0x0901 0 beam 0

/-- Form one frame and put it in the beam output queue. -/
def putFrame (s : State) (upsets : List (Nat × Nat)) (g0 : Nat) (f : FramePlan) (first : Bool) : State :=
  let d := if f.form = 2 then powerData s g0 f else voltageData s upsets g0 f
  let len := frameLength f.form f.n (if f.form = 2 then 64 / 2 ^ f.avgLog else 64)
  let room := beamRoom s.sun.queue len
  let lost := satAdd 16 s.sun.lostBefore room.2
  let head := [0x42, 0x45, 0x41, 0x4D, 1, s.ctl.chipId % 16, f.beam, f.form + 4 * f.avgLog]
    ++ leBytes 2 (frameFlags s upsets g0 first d.2) ++ leBytes 2 f.kFirst ++ leBytes 2 f.n
    ++ leBytes 2 (rd s Obj.SUN_STATUS.SET_GEN) ++ leBytes 4 g0 ++ leBytes 4 (mapGet s.sun.seq f.beam)
    ++ leBytes 2 lost ++ [f.shift, 0] ++ leBytes 4 len
  let body := head ++ spectrumTable s g0 f.mask ++ frameMask s f ++ padTo (up8 d.1.length) d.1
  let frame := body ++ leBytes 4 (crc32c body) ++ [0, 0, 0, 0]
  let s1 := setSun s (fun u =>
    { u with lostBefore := 0, seq := mapSet u.seq f.beam ((mapGet u.seq f.beam + 1) % 2 ^ 32) })
  beamPut (if d.2 then bump s1 Obj.SUN_STATUS.CLIPPED_FRAMES 0 1 else s1) f.beam frame

/-- A frame of a group: while a domain of Sunflower cycles after a latch-up it is not produced, and its number shows the
gap (R452). -/
def queueFrame (s : State) (upsets : List (Nat × Nat)) (g0 : Nat) (f : FramePlan) (first : Bool) : State :=
  if (domRange 161 176).any (domCycling s) then
    setSun s (fun u => { u with seq := mapSet u.seq f.beam ((mapGet u.seq f.beam + 1) % 2 ^ 32) })
  else putFrame s upsets g0 f first

/-- An error in a local table entry (R230): corrected, or reloaded from the home copy before the next group; where that
is uncorrectable too, the entry keeps zero weight until it is rewritten.  Entries: 1,024 × input + channel, then
262,144 + 16,384 × set + 256 × beam + input; kinds: 0 correctable, 1 uncorrectable, 2 uncorrectable in the home copy
as well. -/
def tableUpset (s : State) (u : Nat × Nat) : State :=
  let ctx := decide (262144 ≤ u.1)
  let a := if ctx then (u.1 - 262144) % 16384 / 256 else 0
  let b := if ctx then (u.1 - 262144) % 256 else u.1 / 1024 + 65536 * (u.1 % 1024)
  if u.2 = 0 then raise s 0x0904 0 a b
  else
    let s1 := raise (bump s Obj.SUN_STATUS.TABLE_ERRS 0 1) 0x0903 0 a b
    if u.2 = 1 then (if s1.sun.homeBad.isEmpty then endFault s1 0x0903 0 else s1)
    else setSun s1 (fun x => { x with homeBad := mapSet x.homeBad u.1 1 })

/-- Entries have been rewritten in the home copy: their errors are gone, and with the last one the condition of
0x0903. -/
def homeRewritten (s : State) (entries : List Nat) : State :=
  let s1 := setSun s (fun u => { u with homeBad := entries.foldl (fun m e => mapSet m e 0) u.homeBad })
  if !s.sun.homeBad.isEmpty && s1.sun.homeBad.isEmpty then endFault s1 0x0903 0 else s1

/-- Every spectrum of the group in formation has been delivered or can be delivered no more. -/
def sunGroupReady (s : State) : Bool :=
  decide (s.sun.group + 64 ≤ s.chz.nextN) && s.chz.wait8.all (fun p => decide (s.sun.group + 64 ≤ p.n))

/-- A switch group has been reached and its switch has not happened (R225). -/
def switchDue (s : State) : Bool :=
  match s.sun.switchAt with
  | some g => decide (g ≤ s.sun.group)
  | none => false

/-- Held gain commands that a test selects apply, oldest first (R226). -/
def applyHeldGains (s : State) (p : Nat → Bool) : State :=
  let go := s.sun.held.filter (fun h => p h.1)
  if go.isEmpty then s
  else
    let entries := (go.map Prod.snd).flatten
    homeRewritten
      (setSun s (fun u =>
        { u with gains := entries.foldl (fun m e => mapSet m e.1 (e.2 % 65536 ^^^ 64)) u.gains,
                 held := u.held.filter (fun h => !p h.1), gainChanged := true }))
      (entries.map Prod.fst)

/-- Put the fields of an object in force as a snapshot of the objects holds them. -/
def latchFrom (s : State) (regs : SMap) (fs : List Field) (i : Nat) : State :=
  fs.foldl (fun t f => setLive t f i (fieldGet regs f i)) s

/-- What stood at the block boundary of spectrum n takes effect: the configuration, and with `GAIN_EFFECT` = 0 the gain
commands that had committed (R226, R232). -/
def boundaryChanges (s : State) (d : Nat × SMap) : State :=
  let s1 := (List.range 64).foldl (fun t b => latchFrom t d.2 Obj.SUN_BEAM.fields b)
    (latchFrom (latchFrom s d.2 Obj.SUN_CTRL.fields 0) d.2 Obj.SUN_INCOH.fields 0)
  if lv s1 Obj.SUN_CTRL.GAIN_EFFECT = 0 then applyHeldGains s1 (fun t => decide (t < 2048 * d.1)) else s1

/-- The block boundaries that the group in formation has reached (R226: every block boundary is a group boundary). -/
def dueChanges (s : State) : State :=
  setSun ((s.sun.due.filter (fun d => decide (d.1 ≤ s.sun.group))).foldl boundaryChanges s)
    (fun u => { u with due := u.due.filter (fun d => decide (s.sun.group < d.1)) })

/-- `PENDING_STATE`: 0 EMPTY, 1 LOADING, 2 ARMED. -/
def pendingState (s : State) : Nat := rd s Obj.SUN_STATUS.PENDING_STATE

/-- Set the state of the pending set. -/
def setPendingState (s : State) (p : Nat) : State := wr s Obj.SUN_STATUS.PENDING_STATE 0 p

/-- `OP` = DISARM (R224). -/
def sunDisarm (s : State) : State := if pendingState s = 2 then setPendingState s 1 else s

/-- Sunflower stands still once its last group before the stop boundary is formed, and powers down (R36, R224): an ARMED
set returns to LOADING. -/
def sunHalt (s : State) : State :=
  if s.sun.stopAt.any (fun b => decide (b ≤ s.sun.group)) then
    sunDisarm (wr (setSun s (fun u =>
      { u with running := false, stopAt := none, input := [], switchAt := none })) Obj.SUN_STATUS.RUNNING 0 0)
  else s

/-- SUN_GROUP (R217 to R230): the beams of one group are formed and their frames queued, beam ascending with the
incoherent beam last; the errors found in the tables are handled before the next group. -/
def execSunGroup (upsets : List (Nat × Nat)) (s : State) : Host.Outcome State Fault Refusal :=
  if s.sun.running && sunGroupReady s && !switchDue s then
    let g0 := s.sun.group
    let s0 := dueChanges s
    let s1 := (groupFrames s0).foldl (fun p f => (queueFrame p.1 upsets g0 f (p.2 != f.beam + 1), f.beam + 1)) (s0, 0)
    let s2 := setSun s1.1 (fun u =>
      { u with group := g0 + 64, input := u.input.filter (fun p => decide (g0 + 64 ≤ p.n)),
               switched := false, gainChanged := false, eqAt := u.eqAt.filter (fun n => decide (g0 < n)),
               maskAt := u.maskAt.filter (fun n => decide (g0 < n)) })
    .next (sunHalt (upsets.foldl tableUpset s2))
  else .next s

/-! ### Context sets (R224, R225, R227) -/

/-- The physical set that is pending. -/
def pendingSetNo (s : State) : Nat := 1 - rd s Obj.SUN_STATUS.ACTIVE_SET

/-- `SUN_SWITCH.OP` = ARM: status and state (R224). -/
def sunArm (s : State) : Nat × State :=
  if pendingState s = 0 then (2, s) else (0, setPendingState s 2)

/-- SUN_ARM (R224): the LOADING set is armed; on an EMPTY set it is refused and nothing changes. -/
def execSunArm (s : State) : Host.Outcome State Fault Refusal := .next (sunArm s).2

/-- SUN_DISARM (R224): an ARMED set returns to LOADING. -/
def execSunDisarm (s : State) : Host.Outcome State Fault Refusal := .next (sunDisarm s)

/-- `OP` = COPY (R224): the pending set becomes a copy of the active one with its SPX_REF; an ARMED set accepts no
write. -/
def sunCopy (s : State) : Nat × State :=
  if pendingState s = 2 then (2, s)
  else
    let marks := (List.range 16384).filter (fun k => decide (mapGet s.sun.homeBad (homeCtx (1 - pendingSetNo s) k) ≠ 0))
    let s1 := homeRewritten s ((List.range 16384).map (homeCtx (pendingSetNo s)))
    let s2 := setSun s1 (fun u =>
      { u with pendingSet := u.active,
               homeBad := marks.foldl (fun m k => mapSet m (homeCtx (pendingSetNo s) k) 1) u.homeBad })
    (0, setPendingState (wr s2 Obj.SUN_SWITCH.SPX_REF 0 s.sun.active.ref) 1)

/-- SUN_COPY (R224). -/
def execSunCopy (s : State) : Host.Outcome State Fault Refusal := .next (sunCopy s).2

/-- The first group boundary whose first sample, at tick 2,048(SPX_g − 3), lies at or after a tick (R225). -/
def switchGroup (tick : Nat) : Nat := ((tick + 2047) / 2048 + 3 + 63) / 64 * 64

/-- A switch is wanted at the switch group of a tick; of two, the earlier group holds. -/
def wantSwitch (s : State) (tick : Nat) : State :=
  let g := switchGroup tick
  setSun s (fun u => { u with switchAt := some (match u.switchAt with | some h => min g h | none => g) })

/-- `NOW` = 1: status and state (R224, R225). -/
def sunSwitchNow (s : State) : Nat × State :=
  if pendingState s = 0 then (2, s) else (0, wantSwitch (setPendingState s 2) (s.time.rc64 + 1))

/-- SUN_SWITCH_NOW (R225): a LOADING set is armed and switches at the next group boundary. -/
def execSunSwitchNow (s : State) : Host.Outcome State Fault Refusal := .next (sunSwitchNow s).2

/-- A skipped switch (R225). -/
def switchSkipped (s : State) : State := raise (bump s Obj.SUN_STATUS.SKIPPED 0 1) 0x0902 0 0 0

/-- A comparator whose action is SWITCH fires for a tick (R225). -/
def sunComparator (s : State) (tick : Nat) : State :=
  if pendingState s = 2 then wantSwitch s tick else switchSkipped s

/-- SET_SWITCH (R225, R226, R227): at the switch group the ARMED set becomes active, the former one pending and EMPTY;
`SET_GEN` rises, gains that wait for a switch apply, and fault 0x0905 clears.  A set that is not ARMED any more does not
switch. -/
def execSetSwitch (s : State) : Host.Outcome State Fault Refusal :=
  if s.sun.running && switchDue s then
    let s0 := setSun (dueChanges s) (fun u => { u with switchAt := none })
    if pendingState s = 2 then
      let s1 := setSun s0 (fun u =>
        { u with active := { u.pendingSet with ref := rd s Obj.SUN_SWITCH.SPX_REF },
                 pendingSet := { u.active with ref := u.active.ref }, switched := true, aged := false })
      let s2 := wr (wr (wr (wr (setPendingState s1 0) Obj.SUN_STATUS.ACTIVE_SET 0 (pendingSetNo s))
        Obj.SUN_STATUS.SET_GEN 0 (rd s Obj.SUN_STATUS.SET_GEN + 1)) Obj.SUN_STATUS.SPX_SW 0 s.sun.group)
        Obj.SUN_STATUS.ACTIVE_REF 0 (rd s Obj.SUN_SWITCH.SPX_REF)
      let s3 := clearFault (wr s2 Obj.SUN_SWITCH.SPX_REF 0 s.sun.active.ref) 0x0905 0
      .next (if lv s3 Obj.SUN_CTRL.GAIN_EFFECT = 1 then applyHeldGains s3 (fun _ => true) else s3)
    else .next (switchSkipped s0)
  else .next s

/-- CONTEXT_AGED (R227): e has reached 2³¹ in the active set. -/
def execContextAged (s : State) : Host.Outcome State Fault Refusal :=
  if s.sun.running && !s.sun.aged
      && decide (2 ^ 31 ≤ (s.sun.group + 2 ^ 32 - s.sun.active.ref % 2 ^ 32) % 2 ^ 32) then
    .next (raise (setSun s (fun u => { u with aged := true })) 0x0905 0 0 0)
  else .next s

/-! ### Table writes, block boundaries, start and stop -/

/-- Entries of `SUN_CTX` of the pending set as (256 × beam + input, value): status and state (R224). -/
def writeContexts (s : State) (entries : List (Nat × Nat)) : Nat × State :=
  if pendingState s = 2 then (2, s)
  else
    let s1 := homeRewritten
      (setSun s (fun u =>
        { u with pendingSet := { u.pendingSet with
                   ctx := entries.foldl (fun m e => mapSet m e.1 (e.2 % 2 ^ 48)) u.pendingSet.ctx } }))
      (entries.map (fun e => homeCtx (pendingSetNo s) e.1))
    (0, setPendingState s1 1)

/-- Entries of `SUN_GAIN` of one command, as (1,024 × input + channel, value): held (R226). -/
def holdGains (s : State) (entries : List (Nat × Nat)) : State :=
  setSun s (fun u => { u with held := u.held ++ [(s.time.rc64, entries)] })

/-- A block boundary (R226, R232): LOAD shows the load of the block, and what is written by now takes effect with the
first group of the next one; at once where Sunflower stands still. -/
def sunBlock (s : State) : State :=
  let load := beamChannels (fun f i => lv s f i) * 256 * 781250 * 100
    / (16384 * coreClock (rd s Obj.PWR_DVFS.POINT) * 10000000)
  let s1 := wr s Obj.SUN_STATUS.LOAD 0 (if s.sun.running then load else 0)
  if s.sun.running then setSun s1 (fun u => { u with due := u.due ++ [(s.time.rc64 / 2048, s.regs)] })
  else boundaryChanges s1 (s.time.rc64 / 2048, s.regs)

/-- Sunflower starts at a block boundary with the group of the first spectrum (R38); its frames count from 0. -/
def sunStart (s : State) : State :=
  let n := s.time.rc64 / 2048 / 64 * 64
  wr (setSun s (fun u =>
    { u with running := true, stopAt := none, group := n, input := [], due := [],
             masks := [(n, lv s Obj.CHZ_CHMASK.SUN_MASK)], eqAt := [], maskAt := [], seq := [], lostBefore := 0,
             switched := false, gainChanged := false })) Obj.SUN_STATUS.RUNNING 0 1

/-- Sunflower is to stop at the block boundary of this tick: its last frame ends there (R36). -/
def sunStop (s : State) : State := sunHalt (setSun s (fun u => { u with stopAt := some (s.time.rc64 / 2048) }))

end Sys2Proof.Machine
end

