-- ==== Sys2Proof/Machine/FieldStore.lean ====
section
/-! DEFINITION. The field store: words and their classes, the correctable-error log, soft repair, the scrubber, bank
retention, initialization (R233 to R253, `11_field_store.md`). -/

namespace Sys2Proof.Machine

/-- Change the field store. -/
def setFst (s : State) (f : FieldStore → FieldStore) : State := { s with fst := f s.fst }

/-! ### Words and regions (R233, R235, R237) -/

/-- The number of word w of row r of bank n, from the base of the store. -/
def wordNo (n r w : Nat) : Nat := n * 262144 + r * 8 + w

/-- The row and the half of a word. -/
def rowOfWord (k : Nat) : Nat := k % 262144 / 8
def halfOfWord (k : Nat) : Nat := rowOfWord k / 16384

/-- The word that DETAIL names (R448): [7:0] bank, [22:8] row, [25:23] word. -/
def wordNamed (k : Nat) : Nat := bankOfWord k + 256 * rowOfWord k + 2 ^ 23 * (k % 8)

/-- The half-bank of a word is initialized (R239). -/
def halfReady (s : State) (n h : Nat) : Bool := bit (rd s Obj.FST_BANK.INIT n) h

/-- N_b of the store map in force (R237). -/
def dahBanks (s : State) : Nat := mapDahBanks (rd s Obj.FST_MAP.MAP)

/-- The offset in the Dahlia area of a word of its banks (R237). -/
def dahOffset (s : State) (k : Nat) : Nat := (rowOfWord k * dahBanks s + bankOfWord k) * 64 + k % 8 * 8

/-- V: the full-band visibility size of the geometry in force (R163, R237). -/
def visSize (s : State) : Nat := geomChannels (geomNow s) * geomProducts (geomNow s) * 8

/-- The bytes of the weight region without cal-binning (R173). -/
def wtsSize (s : State) : Nat := 2 * geomPacks (geomNow s) * 512

/-- The part of the store that a word belongs to, for the parts that the model keeps in structured form. -/
inductive WordPlace where
  /-- Accumulator under `DahliaState.acc`. -/
  | acc (key : Nat)
  /-- Two weight words from this key of `DahliaState.wts` on. -/
  | wts (key : Nat)
  /-- Word w of group m of segment s of input i of the Bluebell tables. -/
  | table (input seg group w : Nat)
  /-- The beam region: byte offset in the home copy of Sunflower. -/
  | beam (offset : Nat)
  | plain
  deriving DecidableEq, Repr

/-- Where a word lies under the store map in force (R235). -/
def placeOfWord (s : State) (k : Nat) : WordPlace :=
  let n := bankOfWord k
  let map := rd s Obj.FST_MAP.MAP
  if map ≠ 3 ∧ n < dahBanks s then
    let o := dahOffset s k
    if o < visSize s then .acc (o / 8)
    else if o < visSize s + wtsSize s then .wts ((o - visSize s) / 4)
    else .plain
  else if map ≠ 3 ∧ inBanks (mapBblBanks map) n then
    let o := k * 8 - (mapBblBanks map).1 * 0x200000
    .table (o / 57344) (o % 57344 / 896) (o % 896 / 56) (o % 56 / 8)
  else if map = 0 ∧ n = 152 ∧ halfOfWord k = 0 ∧ k * 8 - 152 * 0x200000 < 720896 then .beam (k * 8 - 152 * 0x200000)
  else .plain

/-- The 448 bits of a calibration group (R83). -/
def tableGroup (s : State) (i seg m : Nat) : Nat :=
  (List.range 16).foldl (fun a j => a + calEntry s i (256 * seg + 16 * m + j) * 2 ^ (28 * j)) 0

/-- Byte o of the home copy of Sunflower (R230): 2 bytes per gain, input × 1,024 + channel, then sets 0 and 1 of 6 bytes
per context. -/
def homeByte (s : State) (o : Nat) : Nat :=
  if o < 524288 then bits (mapGet s.sun.gains (o / 2) ^^^ 64) (8 * (o % 2)) 8
  else
    let e := (o - 524288) / 6
    let set := if e / 16384 = rd s Obj.SUN_STATUS.ACTIVE_SET then s.sun.active else s.sun.pendingSet
    bits (mapGet set.ctx (e % 16384)) (8 * ((o - 524288) % 6)) 8

/-- A value with one of its bytes replaced. -/
def withByte (v j b : Nat) : Nat := v - bits v (8 * j) 8 * 2 ^ (8 * j) + b % 256 * 2 ^ (8 * j)

/-- Store byte o of the home copy; Sunflower takes it into its local copy. -/
def setHomeByte (s : State) (o b : Nat) : State :=
  if o < 524288 then
    setSun s (fun u =>
      { u with gains := mapSet u.gains (o / 2) (withByte (mapGet u.gains (o / 2) ^^^ 64) (o % 2) b ^^^ 64) })
  else
    let e := (o - 524288) / 6
    let put (set : SunSet) : SunSet :=
      { set with ctx := mapSet set.ctx (e % 16384) (withByte (mapGet set.ctx (e % 16384)) ((o - 524288) % 6) b) }
    setSun s (fun u =>
      if e / 16384 = rd s Obj.SUN_STATUS.ACTIVE_SET then { u with active := put u.active }
      else { u with pendingSet := put u.pendingSet })

/-- A word as it is stored. -/
def peekWord (s : State) (k : Nat) : Nat :=
  match placeOfWord s k with
  | .acc key => mapGet s.dah.acc key
  | .wts key => mapGet s.dah.wts key % 2 ^ 32 + mapGet s.dah.wts (key + 1) % 2 ^ 32 * 2 ^ 32
  | .table i g m w => bits (tableGroup s i g m) (64 * w) 64
  | .beam o => ofLe ((List.range 8).map (fun j => homeByte s (o + j)))
  | .plain => ofLe (loadBytes s (wordAddr k) 8)

/-- Store a word. -/
def pokeWord (s : State) (k v : Nat) : State :=
  match placeOfWord s k with
  | .acc key => setDah s (fun d => { d with acc := mapSet d.acc key (v % 2 ^ 64) })
  | .wts key =>
    setDah s (fun d => { d with wts := mapSet (mapSet d.wts key (v % 2 ^ 32)) (key + 1) (v / 2 ^ 32 % 2 ^ 32) })
  | .table i g m w =>
    let old := tableGroup s i g m
    let now := old - bits old (64 * w) 64 * 2 ^ (64 * w) + v % 2 ^ 64 * 2 ^ (64 * w)
    setBbl s (fun b =>
      { b with table := (List.range 16).foldl (fun t j =>
          mapSet t (i * 16384 + 256 * g + 16 * m + j) (bits now (28 * j) 28 ^^^ 0x800)) b.table })
  | .beam o => (List.range 8).foldl (fun t j => setHomeByte t (o + j) (bits v (8 * j) 8)) s
  | .plain => storeBytes s (wordAddr k) (leBytes 8 v)

/-! ### Bad words (R234, R240 to R242) -/

/-- The class of a word: 0 CLEAN, 1 CORRECTED, 2 POISONED, 3 UNCORRECTABLE (R234). -/
def classOf (syndrome : Nat) : Nat :=
  if syndrome % 256 = 0 then 0
  else if syndrome % 256 = 3 then 2
  else if popCount 8 syndrome % 2 = 1
      && ((List.range 64).any (fun j => (Config.hsiaoColumn j).toNat == syndrome % 256)
          || (List.range 8).any (fun j => 2 ^ j == syndrome % 256)) then 1
  else 3

/-- The class at which word k reads: one already marked stays so until it is written whole. -/
def readClass (s : State) (k syndrome : Nat) : Nat :=
  match mapGet s.fst.bad k with
  | 1 => 2
  | 2 => 3
  | _ => classOf syndrome

/-- The users of a bad word: an entry of the home copy of Sunflower is uncorrectable (R231). -/
def markUsers (s : State) (k : Nat) : State :=
  match placeOfWord s k with
  | .beam o =>
    let entries := if o < 524288 then (List.range 4).map (fun j => o / 2 + j)
      else ((List.range 8).map (fun j => 262144 + (o - 524288 + j) / 6)).eraseDups
    setSun s (fun u => { u with homeBad := entries.foldl (fun m e => mapSet m e 1) u.homeBad })
  | .acc _ | .wts _ | .table .. | .plain => s

/-- A word is found POISONED (2) or UNCORRECTABLE (3): it is counted, fault 0x0A02 names its bank, and what the word
holds after a multiple error is unknown. -/
def wordBad (s : State) (k cls : Nat) : State :=
  let n := bankOfWord k
  let fresh := decide (mapGet s.fst.bad k = 0)
  let s1 := if fresh ∧ cls = 3 then (let d := drawFree s; pokeWord d.2 k (d.1 % 2 ^ 64)) else s
  let s2 := setFst (markUsers s1 k) (fun x => { x with bad := mapSet x.bad k (cls - 1) })
  let s3 := bump (bump s2 (if cls = 2 then Obj.FST_BANK.POISON else Obj.FST_BANK.UE) n 1) Obj.FST_STATUS.UE_TOTAL 0 1
  raise s3 0x0A02 n (wordNamed k) (wordAddr k)

/-- A word is written whole: its error ends, and with the last one of its bank the conditions of faults 0x0A02 and
0x0A06 (R241, R252). -/
def wordWritten (s : State) (k : Nat) (poison : Bool) : State :=
  bankMended (markWords s k 1 poison) (bankOfWord k)

/-! ### The correctable-error log (R243, R244) -/

/-- The entry of a word in the log. -/
def ceEntry (s : State) (k : Nat) : Option Nat :=
  s.fst.ceOrder.find? (fun e => rd s Obj.FST_CE_LOG.BANK e == bankOfWord k && rd s Obj.FST_CE_LOG.ROW e == rowOfWord k
    && rd s Obj.FST_CE_LOG.WORD e == k % 8)

/-- The entry that a new word takes: a free one, the oldest REPAIRED, the oldest that is not STUCK. -/
def ceFree (s : State) : Option Nat :=
  match (List.range 32).find? (fun e => !s.fst.ceOrder.contains e) with
  | some e => some e
  | none =>
    match s.fst.ceOrder.find? (fun e => flag s Obj.FST_CE_LOG.REPAIRED e) with
    | some e => some e
    | none => s.fst.ceOrder.find? (fun e => !flag s Obj.FST_CE_LOG.STUCK e)

/-- A bank has a free spare (R246, R247). -/
def spareFree (s : State) (n : Nat) : Bool :=
  decide (rd s Obj.FST_BANK.SPARES_FUSE n + rd s Obj.FST_BANK.SPARES_SOFT n < 32)

/-- Copy a row into a spare of its bank and switch to it (R247): with no spare left fault 0x0A04.  `src` is SOURCE of the
entry of `FST_REPAIR`: 0 found in operation, 1 from a list. -/
def softRepair (s : State) (n r src : Nat) : State :=
  if !spareFree s n then raise s 0x0A04 n (wordNamed (wordNo n r 0)) (wordAddr (wordNo n r 0))
  else
    let e := s.fst.repairs
    let s1 := bump s Obj.FST_BANK.SPARES_SOFT n 1
    let s2 := if e < 1024 then
        wr (wr (wr s1 Obj.FST_REPAIR.BANK e n) Obj.FST_REPAIR.SOURCE e src) Obj.FST_REPAIR.ROW e r
      else s1
    let s3 := setFst s2 (fun x =>
      { x with repairs := x.repairs + 1,
               bad := (List.range 8).foldl (fun m w =>
                 if mapGet m (wordNo n r w) = 2 then mapSet m (wordNo n r w) 1 else m) x.bad })
    let s4 := s3.fst.ceOrder.foldl (fun t x =>
      if rd t Obj.FST_CE_LOG.BANK x == n && rd t Obj.FST_CE_LOG.ROW x == r then wr t Obj.FST_CE_LOG.REPAIRED x 1 else t) s3
    if s4.fst.ceOrder.any (fun x => rd s4 Obj.FST_CE_LOG.BANK x == n && flag s4 Obj.FST_CE_LOG.STUCK x
        && !flag s4 Obj.FST_CE_LOG.REPAIRED x) then s4
    else endFault s4 0x0A03 n

/-- The REPEAT of an entry rises; at 16 the entry becomes STUCK with fault 0x0A03, and `AUTO_REPAIR` repairs its row. -/
def ceRepeat (s : State) (e : Nat) : State :=
  let v := rd s Obj.FST_CE_LOG.REPEAT e
  if 16 ≤ v then s
  else
    let n := rd s Obj.FST_CE_LOG.BANK e
    let r := rd s Obj.FST_CE_LOG.ROW e
    let s1 := wr s Obj.FST_CE_LOG.REPEAT e (v + 1)
    if v + 1 = 16 then
      let k := wordNo n r (rd s Obj.FST_CE_LOG.WORD e)
      let s2 := raise (wr s1 Obj.FST_CE_LOG.STUCK e 1) 0x0A03 n (wordNamed k) (wordAddr k)
      if flag s Obj.FST_SCRUB.AUTO_REPAIR then softRepair s2 n r 0 else s2
    else s1

/-- Enter a correction in an entry of the log. -/
def ceTouch (s : State) (e syndrome : Nat) : State :=
  wr (wr (bumpSat s Obj.FST_CE_LOG.COUNT e 1) Obj.FST_CE_LOG.SYNDROME e syndrome) Obj.FST_CE_LOG.LAST_SEC e
    (bits (ts96Now s) 48 32)

/-- The fields of one entry of the log. -/
def ceClear (s : State) (e : Nat) : State := { s with regs := objClear s.regs 0x0A05 e }

/-- CE_LOG_UPDATE (R243, R244): a correction of bank n, row r, word w by a requester of class `src`. -/
def ceLog (s : State) (n r w syndrome src : Nat) : State :=
  let k := wordNo n r w
  let s0 := raise (bump (bump s Obj.FST_BANK.CE n 1) Obj.FST_STATUS.CE_TOTAL 0 1) 0x0A01 n (wordNamed k) (wordAddr k)
  match ceEntry s0 k with
  | some e =>
    let s1 := ceTouch s0 e syndrome
    if mapGet s.fst.writtenBack e = 0 then s1
    else ceRepeat (setFst s1 (fun x => { x with writtenBack := mapSet x.writtenBack e 0 })) e
  | none =>
    match ceFree s0 with
    | some e =>
      let s1 := setFst (ceClear s0 e) (fun x =>
        { x with ceOrder := x.ceOrder.filter (fun y => y != e) ++ [e], writtenBack := mapSet x.writtenBack e 0 })
      let s2 := wr (wr (wr s1 Obj.FST_CE_LOG.BANK e n) Obj.FST_CE_LOG.ROW e r) Obj.FST_CE_LOG.WORD e w
      ceTouch (wr (wr s2 Obj.FST_CE_LOG.SOURCE e src) Obj.FST_CE_LOG.SCRUB e (b2n (decide (src = 6)))) e syndrome
    | none => raise (bump s0 Obj.FST_STATUS.LOG_OVERFLOW 0 1) 0x0A07 0 (wordNamed k) (wordAddr k)

/-! ### Master reads and writes (R240, R241) -/

/-- The requester class of a source (R23): 1 to 5. -/
def srcClass (src : Fin 5) : Nat := src.val + 1

/-- A read of word k by a requester of class `src` (R239, R240): the data, whether it comes with an error response, the
state.  A half-bank that is not initialized answers all ones and counts; a CORRECTED word is logged and not written back;
a bad word is counted and raises fault 0x0A02. -/
def readWord (s : State) (src k syndrome : Nat) : Nat × Bool × State :=
  let n := bankOfWord k
  if !halfReady s n (halfOfWord k) then (2 ^ 64 - 1, true, bump s Obj.FST_STATUS.UNINIT_READS 0 1)
  else
    match readClass s k syndrome with
    | 0 => (peekWord s k, false, s)
    | 1 => (peekWord s k, false, ceLog s n (rowOfWord k) (k % 8) syndrome src)
    | c => (peekWord (wordBad s k c) k, true, wordBad s k c)

/-- FST_MASTER_READ (R239, R240): a read of an ON bank. -/
def execFstMasterRead (src : Fin 5) (n : Fin 160) (r : Fin 32768) (w : Fin 8) (syndrome : Nat) (s : State) :
    Host.Outcome State Fault Refusal :=
  if domOn s (bankDom n) then .next (readWord (clockStarts s 10) (srcClass src) (wordNo n r w) syndrome).2.2
  else .next s

/-- The bytes of a word that a strobe selects taken from `v`, the others from `old`. -/
def mergeWord (old v strobes : Nat) : Nat :=
  ofLe ((List.range 8).map (fun j => if bit strobes j then bits v (8 * j) 8 else bits old (8 * j) 8))

/-- A write resets the REPEAT of its word (R244). -/
def ceReset (s : State) (k : Nat) : State :=
  match ceEntry s k with
  | some e => setFst (wr s Obj.FST_CE_LOG.REPEAT e 0) (fun x => { x with writtenBack := mapSet x.writtenBack e 0 })
  | none => s

/-- A write of the bytes of word k that `strobes` selects (R241, R242, R244).  A whole word is stored with fresh check
bits, or with the poison pattern where the master asks for it; a narrow write corrects and merges, and onto a bad word
merges with the poison pattern and raises fault 0x0A06; no strobe, no write (R276). -/
def storeWord (s : State) (src k strobes data : Nat) (poison : Bool) (syndrome : Nat) : State :=
  let n := bankOfWord k
  if strobes % 256 = 0 then s
  else if strobes % 256 = 255 then ceReset (wordWritten (pokeWord s k data) k poison) k
  else
    let v := mergeWord (peekWord s k) data strobes
    match readClass s k syndrome with
    | 0 => ceReset (wordWritten (pokeWord s k v) k poison) k
    | 1 =>
      let s1 := ceLog (bump s Obj.FST_STATUS.RMW_CORRECTED 0 1) n (rowOfWord k) (k % 8) syndrome src
      ceReset (wordWritten (pokeWord s1 k v) k poison) k
    | c =>
      let s1 := if mapGet s.fst.bad k = 0 then wordBad s k c else s
      let s2 := pokeWord s1 k (mergeWord (peekWord s1 k) data strobes)
      let s3 := bump (setFst s2 (fun x => { x with bad := mapSet x.bad k 1 })) Obj.FST_STATUS.RMW_POISONED 0 1
      ceReset (raise (markUsers s3 k) 0x0A06 n (wordNamed k) (wordAddr k)) k

/-- A master may write a word of the field store (R22, R235): the owner and the listed writers of its region; the control
pair also where it initializes (R239) or loads tables (R84); the staging of images (R394). -/
def regionWriter (s : State) (master k : Nat) : Bool :=
  let n := bankOfWord k
  let h := halfOfWord k
  let map := rd s Obj.FST_MAP.MAP
  let staging := decide (n < 8) && (modeOf s == .idle || modeOf s == .recovery)
  let shared := decide (n = mapLogBank map) && decide (h = if map = 2 then 0 else 1)
  let scratch := decide (n = mapScratchBank map) && decide (h = 1)
  let owner :=
    if map = 3 then
      (if n < 128 then master == 6 else if n < 145 then master == 6 || master == 1 else false)
    else if n < mapDahBanks map then master == 1
    else if inBanks (match map with | 0 => (129, 144) | 1 => (130, 137) | _ => (145, 146)) n then master == 2 || master == 6
    else if inBanks (mapBblBanks map) n then master == 4 || master == 0
    else if inBanks (mapEvtBanks map) n then master == 3
    else if map = 0 ∧ (n = 152 ∨ n = 159) ∧ h = 0 then master == 5
    else false
  owner || (shared && master == 0) || (scratch && (master == 0 || master == 7))
    || (staging && (master == 0 || master == 8)) || (master == 0 && !halfReady s n h)

/-- The requester class of a master in the store (R23). -/
def masterClass (master : Nat) : Nat :=
  match master with
  | 1 => 1 | 2 => 2 | 6 => 2 | 3 => 3 | 4 => 3 | 7 => 3 | 5 => 4 | _ => 5

/-- FST_WRITE (R22, R241, R242, R244): a write of a master of R271 to an ON bank; one that the region does not admit is
refused with an error response and counted. -/
def execFstWrite (master : Fin 10) (n : Fin 160) (r : Fin 32768) (w : Fin 8) (strobes : Fin 256) (data : Nat)
    (poison : Bool) (syndrome : Nat) (s : State) : Host.Outcome State Fault Refusal :=
  let k := wordNo n r w
  if master.val = 9 then .next (movError s 0x0C01 master 6 (wordAddr k))
  else if regionWriter s master k = false then .next (movError s 0x0C02 master 3 (wordAddr k))
  else if domOn s (bankDom n) then
    .next (storeWord (clockStarts s 10) (masterClass master) k strobes data poison syndrome)
  else .next s

/-! ### The scrubber (R245) -/

/-- One word of a scrubbed line. -/
def scrubWord (n r : Nat) (s : State) (x : Nat × Nat) : State :=
  let w := x.1 % 8
  let k := wordNo n r w
  match readClass s k x.2 with
  | 0 => s
  | 1 =>
    let s1 := ceLog s n r w x.2 6
    match ceEntry s1 k with
    | some e => setFst s1 (fun y => { y with writtenBack := mapSet y.writtenBack e 1 })
    | none => s1
  | c => wordBad s k c

/-- The scrub pass ends (R245, R252, R253): a pass on time clears fault 0x0A08, and `PERIOD_S` is read for the next. -/
def passEnds (s : State) : State :=
  let secs := (s.time.rc64 - s.fst.passStart) / 1600000000
  let s1 := bump (wr s Obj.FST_STATUS.LAST_PASS_S 0 (min 65535 secs)) Obj.FST_STATUS.PASSES 0 1
  let s2 := if s.time.rc64 - s.fst.passStart ≤ 2 * s.fst.passPeriod * 1600000000 then clearFault s1 0x0A08 0 else s1
  setFst s2 (fun x => { x with passStart := s.time.rc64, passPeriod := rd s Obj.FST_SCRUB.PERIOD_S })

/-- SCRUB_READ (R245): a line of an ON, initialized half-bank with the syndromes of its words that are not clean; each
CORRECTED word is logged and written back, a bad one raises fault 0x0A02 and stays.  `last` ends the pass. -/
def execScrubRead (n : Fin 160) (r : Fin 32768) (words : List (Nat × Nat)) (last : Bool) (s : State) :
    Host.Outcome State Fault Refusal :=
  if flag s Obj.FST_SCRUB.ENABLE ∧ domOn s (bankDom n) ∧ halfReady s n (r.val / 16384) then
    let s1 := words.foldl (scrubWord n r) s
    .next (if last then passEnds s1 else s1)
  else .next s

/-- SCRUB_LATE (R245): the pass has lasted longer than 2 × `PERIOD_S`. -/
def execScrubLate (s : State) : Host.Outcome State Fault Refusal :=
  if flag s Obj.FST_SCRUB.ENABLE ∧ s.fst.passStart + 2 * s.fst.passPeriod * 1600000000 < s.time.rc64 then
    .next (raise s 0x0A08 0 0 0)
  else .next s

/-! ### Banks (R239, R249, R250) -/

/-- Canary word k of bank n (R249). -/
def canary (n k : Nat) : Nat :=
  let p := 0x5AA5C33C96E10FF0
  (p * 2 ^ (8 * k) % 2 ^ 64 + p / 2 ^ (64 - 8 * k)) ^^^ n

/-- RETFAIL_LATCH (R249): the comparator of a bank in RETAIN latches. -/
def execRetfailLatch (n : Fin 160) (s : State) : Host.Outcome State Fault Refusal :=
  if domState s (bankDom n) = 4 then .next (setFst s (fun x => { x with retfail := setBit x.retfail n true }))
  else .next s

/-- A packet of the event-pending region lies in bank n. -/
def fragInBank (s : State) (n : Nat) (f : Fragment) : Bool :=
  overlap ((evtBank s) * 0x200000 + f.off) f.size (n * 0x200000) 0x200000

/-- Bank n holds a part of the region that the lossy-tail queue q uses (R235, R282). -/
def queueBank (s : State) (q n : Nat) : Bool :=
  let map := rd s Obj.FST_MAP.MAP
  match q with
  | 1 => decide (map = 0) && decide (n = 159)
  | _ => decide (n = mapLogBank map)

/-- The packets that lossy-tail queues held in a lost bank go, and are counted (R250). -/
def dropPackets (s : State) (n : Nat) : State :=
  let gone := s.evt.frags.filter (fragInBank s n)
  let s1 := if inBanks (mapEvtBanks (rd s Obj.FST_MAP.MAP)) n ∧ modeOf s ≠ .concentrate then
      lossyLost { s with evt := { s.evt with frags := s.evt.frags.filter (fun f => !fragInBank s n f) } } 0 gone.length
    else s
  let s2 := if queueBank s 1 n then lossyLost (setSun s1 (fun u => { u with queue := [] })) 1 s1.sun.queue.length else s1
  if queueBank s 2 n then
    let t := lossyLost { s2 with flt := { s2.flt with region := [] } } 2 s2.flt.region.length
    lossyLost { t with hk := { t.hk with ring := [] } } 3 t.hk.ring.length
  else s2

/-- A bank of the Bluebell tables is lost: every entry of the region restarts (R84, R250). -/
def tablesLost (s : State) (n : Nat) : State :=
  if inBanks (mapBblBanks (rd s Obj.FST_MAP.MAP)) n ∧ rd s Obj.FST_MAP.MAP ≠ 3 then
    wr (setBbl s (fun b => { b with table := [] })) Obj.BBL_CAL_INFO.VALID 0 0
  else s

/-- A bank is reported lost (R250): both INIT bits fall, fault 0x0A05 names it. -/
def bankLost (s : State) (n : Nat) : State :=
  let s1 := wr (wr s Obj.FST_BANK.INIT n 0) Obj.FST_BANK.LOST n 1
  raise (tablesLost (dropPackets s1 n) n) 0x0A05 n n (wordAddr (wordNo n 0 0))

/-- Read the canary words of a waking bank: the corrections are logged, and the check passes where every word is clean
or corrected and equals its pattern. -/
def canaryCheck (n : Nat) (words : List (Nat × Nat)) (s : State) : State × Bool :=
  let good := decide (words.length = 8) && (List.range 8).all (fun k =>
    match words[k]? with
    | some x => decide (classOf x.2 ≤ 1) && decide (x.1 % 2 ^ 64 = canary n k)
    | none => false)
  let s1 := (List.range 8).foldl (fun t k =>
    match words[k]? with
    | some x =>
      if classOf x.2 = 1 then (let d := drawFree t; ceLog d.2 n (d.1 % 32768) k x.2 5) else t
    | none => t) s
  (s1, good)

/-- The retention check of bank n, waking from RETAIN (R249): RETFAIL is taken from its latch, the canary words are read,
each with its syndrome; whether the bank passes. -/
def bankChecked (s : State) (n : Nat) (words : List (Nat × Nat)) : State × Bool :=
  let ret := bit s.fst.retfail n
  let c := canaryCheck n words
    (setFst (wr s Obj.FST_BANK.RETFAIL n (b2n ret)) (fun x => { x with retfail := setBit x.retfail n false }))
  (setPwr c.1 (fun p => { p with fromRetain := p.fromRetain.filter (fun x => x != bankDom n) }), !ret && c.2)

/-- The parts that the model keeps in structured form get the initial contents of their region, where their words lie in a
half-bank: accumulators and weights 0, Bluebell entries PED = 2,048 with GAIN = DT = 0 (R84), gains 64 + 0j and contexts 0
(R230). -/
def placesInitialized (s : State) (n h : Nat) : State :=
  let accHere (o : Nat) : Bool :=
    decide (dahBanks s ≠ 0) && decide (o / 64 % dahBanks s = n) && decide (o / 64 / dahBanks s / 16384 = h)
  let map := rd s Obj.FST_MAP.MAP
  let s1 := setDah s (fun d =>
    { d with acc := d.acc.filter (fun p => !accHere (8 * p.1)),
             wts := d.wts.filter (fun p => !accHere (visSize s + 4 * p.1)) })
  let s2 := if map ≠ 3 ∧ inBanks (mapBblBanks map) n then
      let lo := (n - (mapBblBanks map).1) * 0x200000 + h * 0x100000
      setBbl s1 (fun b =>
        { b with table := b.table.filter (fun e =>
            let o := e.1 / 16 * 56
            !(decide (o < lo + 0x100000) && decide (lo < o + 56))) })
    else s1
  if map = 0 ∧ n = 152 ∧ h = 0 then
    setSun s2 (fun u =>
      { u with gains := [], active := { u.active with ctx := [] }, pendingSet := { u.pendingSet with ctx := [] },
               homeBad := [] })
  else s2

/-- HALF_BANK_INIT_DONE (R239): Ronec firmware has written a half-bank of an ON bank with zeros, or its region's defined
contents, and sets INIT; a lost bank that is whole again ends the condition of fault 0x0A05. -/
def execHalfBankInitDone (n : Fin 160) (h : Fin 2) (s : State) : Host.Outcome State Fault Refusal :=
  if domOn s (bankDom n) ∧ !halfReady s n h then
    let lo := wordNo n (h.val * 16384) 0
    let hi := lo + 131072
    let inHalf (k : Nat) : Bool := decide (lo ≤ k) && decide (k < hi)
    let s1 := { s with mem := s.mem.filter (fun c => !inHalf ((c.1 - 0x0100000000) / 8) || decide (c.1 < 0x0100000000)) }
    let s2 := placesInitialized s1 n h
    let s3 := setFst s2 (fun x => { x with bad := x.bad.filter (fun p => !inHalf p.1) })
    let s4 := wr s3 Obj.FST_BANK.INIT n (rd s3 Obj.FST_BANK.INIT n ||| 2 ^ h.val)
    .next (if rd s4 Obj.FST_BANK.INIT n = 3 then endFault (wr s4 Obj.FST_BANK.LOST n 0) 0x0A05 n else s4)
  else .next s

end Sys2Proof.Machine
end

