-- ==== Sys2Proof/Machine/Hk.lean ====
section
/-! DEFINITION. The housekeeping sequencer and the STAT pin (R427 to R433,
`19_housekeeping_and_calibration_injectors.md`). -/

namespace Sys2Proof.Machine

/-- Change housekeeping. -/
def setHk (s : State) (f : Housekeeping → Housekeeping) : State := { s with hk := f s.hk }

/-- PD.HK.0 (R404). -/
def hkDomain : Nat := 373

/-- The rail of a channel is switched off by R419: in Dormant `VDD_CORE`, `VDDA_RF`, `VDDA_HI` and `VDD_SER`, and
`VDD_SRAM` where nothing retains. -/
def railOff (s : State) (ch : Nat) : Bool :=
  !s.aon.pwrReq && (ch == 24 || ch == 27 || ch == 28 || ch == 29
    || (ch == 25 && !((domRange 177 336 ++ domRange 365 368).any (fun d => domState s d == 4))))

/-- Show the run in `HK_STATUS`. -/
def showHk (s : State) : State :=
  match s.hk.run with
  | some r => wr (wr s Obj.HK_STATUS.RUNNING 0 1) Obj.HK_STATUS.ENTRY 0 r.entry
  | none => wr s Obj.HK_STATUS.RUNNING 0 0

/-- `HK_STATUS` as it stands. -/
def hkSnapshot (s : State) : State := wr (showHk s) Obj.HK_STATUS.ADC_ON 0 (b2n (domOn s hkDomain))

/-- The next conversion begins where the ADC is ON; else its power-up is requested, class 3, and it waits (R430). -/
def convBegin (s : State) : State :=
  if domOn s hkDomain then
    setHk s (fun h => { h with run := h.run.map (fun r => { r with converting := true, due := false }),
                               convAt := s.time.rc64 })
  else domUp (setHk s (fun h => { h with run := h.run.map (fun r => { r with converting := false, due := true }) })) 3 hkDomain

/-- The ADC is up: a conversion that waits for it begins (R430). -/
def hkPowered (s : State) : State :=
  match s.hk.run with
  | some r => if r.due then convBegin s else s
  | none => s

/-- A run starts at an entry; `HK_SEQ`, `HK_LIMIT` and `HK_CTRL` take effect (R429, R444). -/
def runBegin (s : State) (entry : Nat) : State :=
  let s1 := (List.range 64).foldl (fun t i => latch t Obj.HK_SEQ.fields i) (latch s Obj.HK_CTRL.fields 0)
  let s2 := (List.range 16).foldl (fun t i => latch t Obj.HK_LIMIT.fields i) s1
  let s3 := setHk (bump s2 Obj.HK_STATUS.RUNS 0 1) (fun h =>
    { h with run := some ⟨entry, entry, 0, false, false⟩, startNext := none, stopNext := false })
  showHk (convBegin s3)

/-- A start (R429): at once, or when the conversion in progress ends; during a run it counts in `RESTARTS`. -/
def hkRequest (s : State) (entry : Nat) : State :=
  match s.hk.run with
  | none => runBegin s (entry % 64)
  | some r =>
    let s1 := bump s Obj.HK_STATUS.RESTARTS 0 1
    if r.converting then setHk s1 (fun h => { h with startNext := some (entry % 64), stopNext := false })
    else runBegin s1 (entry % 64)

/-- The run ends, and the ADC with it. -/
def runEnd (s : State) : State :=
  domDown (showHk (setHk s (fun h => { h with run := none, startNext := none, stopNext := false }))) 3 hkDomain 0

/-- HK_START (R429): a write of `HK_CTRL.START`. -/
def execHkStart (s : State) : Host.Outcome State Fault Refusal := .next (hkRequest s (rd s Obj.HK_CTRL.START_ENTRY))

/-- A write of `HK_CTRL.STOP`: the run ends after the conversion in progress (R429). -/
def hkStopWrite (s : State) : State :=
  match s.hk.run with
  | none => s
  | some r => if r.converting then setHk s (fun h => { h with startNext := none, stopNext := true }) else runEnd s

/-- HK_STOP (R429). -/
def execHkStop (s : State) : Host.Outcome State Fault Refusal := .next (hkStopWrite s)

/-- HKSTART_EDGE (R335, R429): the edge latches `TIM_CAPTURE` while the time base runs, and at the polarity in force
starts a run where the pin may.  `HKSTART_EN` and `HKSTART_EDGE` are those in force since the last start; this start
takes the written `HKSTART_ENTRY` into use with the rest of `HK_CTRL` (R444). -/
def execHkstartEdge (level : Bool) (s : State) : Host.Outcome State Fault Refusal :=
  let s1 := if s.time.off then s
    else
      wr (wr (wr (bump s Obj.TIM_CAPTURE.EDGES 1 1) Obj.TIM_CAPTURE.RC64 1 s.time.rc64)
        Obj.TIM_CAPTURE.TIME 1 (ts96Now s)) Obj.TIM_CAPTURE.LEVEL 1 (b2n level)
  if lv s Obj.HK_CTRL.HKSTART_EN 0 = 1 ∧ level = decide (lv s Obj.HK_CTRL.HKSTART_EDGE 0 = 0) then
    .next (hkRequest s1 (rd s Obj.HK_CTRL.HKSTART_ENTRY))
  else .next s1

/-! ### Results (R427, R428, R431, R432) -/

/-- The result ring's bank is ON (R431). -/
def hkBankOn (s : State) : Bool := domOn s (bankDom (mapLogBank (rd s Obj.FST_MAP.MAP)))

/-- Records lost from the ring or the buffer: counted, with fault 0x0C09 (R292, R431). -/
def hkLost (s : State) (k : Nat) : State :=
  if k = 0 then s else raise (lossyLost s 3 k) 0x0C09 3 3 (rd s Obj.MOV_LOSSY.LOST 3 + k)

/-- Put a record in the ring of 32,768. -/
def ringRecord (s : State) (b : Bytes) : State :=
  let full := decide (32768 ≤ s.hk.ring.length)
  let s1 := setHk s (fun h => { h with ring := (if full then h.ring.drop 1 else h.ring) ++ [b] })
  hkLost (lossyShow s1 3 s1.hk.ring.length 32768 (rd s1 Obj.MOV_LOSSY.HIGH_WM 3)) (b2n full)

/-- Put a record in Snowdrop's buffer of 256. -/
def bufferRecord (s : State) (b : Bytes) : State :=
  let full := decide (256 ≤ s.hk.buffer.length)
  hkLost (setHk s (fun h => { h with buffer := (if full then h.buffer.drop 1 else h.buffer) ++ [b] })) (b2n full)

/-- The 16 bytes of a result record (R431). -/
def hkRecord (entry ch : Nat) (value : Int) (flags rep run rc64 : Nat) : Bytes :=
  [entry % 64, ch % 256] ++ leBytes 2 (ofInt 16 value) ++ [flags % 256, rep % 256] ++ leBytes 2 run ++ leBytes 8 rc64

/-- The limit check of an entry's result (R432): BELOW, ABOVE, ALARM_SET as bits 0 to 2, and the state after it. -/
def limitCheck (s : State) (entry : Nat) (value : Int) (off : Bool) : Nat × State :=
  let pair := lv s Obj.HK_SEQ.LIM entry
  let low := toInt 16 (lv s Obj.HK_LIMIT.LOW pair)
  let high := toInt 16 (lv s Obj.HK_LIMIT.HIGH pair)
  let hyst : Int := (lv s Obj.HK_LIMIT.HYST pair : Nat)
  let alarms := rd s Obj.HK_STATUS.ALARMS
  let below := decide (value < low)
  let above := decide (high < value)
  let marks := b2n below + 2 * b2n above
  if lv s Obj.HK_SEQ.LIM_EN entry = 0 then (0, s)
  else if off then (marks, s)
  else if below || above then
    let n := mapGet s.hk.outside entry + 1
    let s1 := setHk s (fun h => { h with outside := mapSet h.outside entry n })
    if lv s Obj.HK_LIMIT.CONFIRM pair ≤ n ∧ !bit alarms pair then
      (marks + 4, raise (wr s1 Obj.HK_STATUS.ALARMS 0 (setBit alarms pair true))
        (if lv s Obj.HK_LIMIT.SEVERE pair = 1 then 0x1202 else 0x1201) pair entry (ofInt 16 value))
    else (marks, s1)
  else
    let s1 := setHk s (fun h => { h with outside := mapSet h.outside entry 0 })
    if bit alarms pair ∧ low + hyst ≤ value ∧ value ≤ high - hyst then
      (0, endFault (endFault (wr s1 Obj.HK_STATUS.ALARMS 0 (setBit alarms pair false)) 0x1201 pair) 0x1202 pair)
    else (0, s1)

/-- The self-check of channel 48, by an entry (R427, R448). -/
def referenceCheck (s : State) (entry ch : Nat) (value : Int) : State :=
  if ch = 48 then
    if value < 990 ∨ 1010 < value then raise s 0x1203 0 entry (ofInt 16 value) else clearFault s 0x1203 0
  else s

/-- The entry after one (R428): the start entry after `LAST` or entry 63, else the next. -/
def entryAfter (s : State) (r : HkRun) : Nat :=
  if lv s Obj.HK_SEQ.LAST r.entry = 1 ∨ r.entry = 63 then r.startEntry else r.entry + 1

/-- `DELAY` of an entry in units of 10 µs. -/
def delayOf (s : State) (entry : Nat) : Nat :=
  lv s Obj.HK_SEQ.DELAY entry
    * (match lv s Obj.HK_SEQ.UNIT entry with | 0 => 1 | 1 => 100 | 2 => 10000 | _ => 1000000)

/-- HK_CONVERSION_DONE (R428, R430 to R432): the mean of an entry's conversions, in the channel's unit, is checked and
stored; then a stop or a start that waits takes effect, or the delay runs, without the ADC where it is longer than
`PD_MIN`. -/
def execHkConversionDone (value : Int) (s : State) : Host.Outcome State Fault Refusal :=
  match s.hk.run with
  | none => .next s
  | some r =>
    if r.converting then
      let ch := lv s Obj.HK_SEQ.CHANNEL r.entry
      let off := railOff s ch
      let v : Int := if off then 0 else clampInt (-32768) 32767 value
      let s1 := referenceCheck s r.entry ch v
      let lim := limitCheck s1 r.entry v off
      let buffered := !hkBankOn s
      let flags := lim.1 + 8 * b2n off + 16 * b2n buffered + 32 * b2n (faultActive s1 0x1203 0)
      let b := hkRecord r.entry ch v flags r.rep (rd s Obj.HK_STATUS.RUNS) s.hk.convAt
      let s2 := if lv s Obj.HK_SEQ.STORE r.entry = 1 then
          (if buffered then bufferRecord (bump lim.2 Obj.HK_STATUS.RESULTS 0 1) b
           else ringRecord (bump lim.2 Obj.HK_STATUS.RESULTS 0 1) b)
        else lim.2
      let s3 := setHk s2 (fun h => { h with run := some { r with converting := false, due := false } })
      match s.hk.startNext with
      | some e => .next (runBegin s3 e)
      | none =>
        if s.hk.stopNext then .next (runEnd s3)
        else if lv s Obj.HK_CTRL.PD_MIN ≠ 0 ∧ lv s Obj.HK_CTRL.PD_MIN < delayOf s r.entry then
          .next (domDown s3 3 hkDomain 0)
        else .next s3
    else .next s

/-- HK_DELAY_EXPIRED (R428): the next repetition, or the next entry, begins. -/
def execHkDelayExpired (s : State) : Host.Outcome State Fault Refusal :=
  match s.hk.run with
  | none => .next s
  | some r =>
    if r.converting || r.due then .next s
    else
      let r1 : HkRun := if r.rep + 1 < lv s Obj.HK_SEQ.REPEAT r.entry then { r with rep := r.rep + 1 }
        else { r with entry := entryAfter s r, rep := 0 }
      .next (showHk (convBegin (setHk s (fun h => { h with run := some r1 }))))

/-- HK_WAKE_TIMER (R430): the ADC's power-up is requested ahead of the next conversion, class 3. -/
def execHkWakeTimer (s : State) : Host.Outcome State Fault Refusal :=
  if s.hk.run.isSome then .next (domUp s 3 hkDomain) else .next s

/-- HK_BUFFER_COPY (R431): the ring's bank is ON, and the buffered records are copied in order. -/
def execHkBufferCopy (s : State) : Host.Outcome State Fault Refusal :=
  if hkBankOn s then .next (s.hk.buffer.foldl ringRecord (setHk s (fun h => { h with buffer := [] })))
  else .next s

/-! ### STAT (R433) -/

/-- The STAT frequency of the mode class: while boot runs the Idle class (R433). -/
def statHz (s : State) : Nat :=
  if s.ctl.pair = .booting then 2
  else
    match modeOf s with
    | .dormant => 1
    | .idle => 2
    | .vigil => 4
    | .recovery => 16
    | _ => 8

/-- The pulse width in ms of the highest active severity; FATAL while `VDD_AON` draws too much (R433, R453). -/
def statWidth (s : State) : Nat :=
  if s.aon.overcurrent then 50
  else match worstSeverity s with | 0 => 1 | 1 => 5 | 2 => 20 | _ => 50

/-- Ronec firmware serves: not in Dormant, in Vigil between captures, in boot or in a restart (R355, R433). -/
def ronecServes (s : State) : Bool :=
  s.ctl.ronecUp && s.ctl.pair != .booting && s.ctl.pair != .restarting
    && (s.aon.phase == .awake || s.aon.phase == .waitPme)

/-- STAT_PERIOD (R433): a period starts with its pulse, or STAT stays low while it is halted. -/
def execStatPeriod (s : State) : Host.Outcome State Fault Refusal :=
  if s.aon.inReset || (s.hk.statHalted && s.ctl.heartbeat == s.hk.statBeat && ronecServes s) then
    .next (emit s (.pin 34 false))
  else .next (emit (setHk s (fun h => { h with statHalted := false })) (.drive 6 (statHz s) (statWidth s)))

/-- HEARTBEAT_STALL (R433): HEARTBEAT has not advanced for 100 ms where firmware serves. -/
def execHeartbeatStall (s : State) : Host.Outcome State Fault Refusal :=
  if ronecServes s then
    .next (emit (setHk s (fun h => { h with statHalted := true, statBeat := s.ctl.heartbeat })) (.pin 34 false))
  else .next s

end Sys2Proof.Machine
end

