-- ==== Sys2Proof/Machine/CtlOps.lean ====
section
/-! DEFINITION. Mailboxes, commits, completions and the BAR0 window (R355 to R360, R369 to R378). -/

namespace Sys2Proof.Machine

/-- Change the control complex. -/
def setCtl (s : State) (f : Ctl → Ctl) : State := { s with ctl := f s.ctl }

/-- Change mailbox m. -/
def setMail (s : State) (m : Nat) (f : Mailbox → Mailbox) : State :=
  setCtl s (fun c => { c with mailboxes := upd c.mailboxes m f })

/-- Mailbox m. -/
def mailOf (s : State) (m : Nat) : Mailbox := nth s.ctl.mailboxes m Mailbox.atBoot

/-- A BAR0 write is discarded, or a frame refused (`HOST_ERRS`). -/
def hostErr (s : State) : State := setCtl s (fun c => { c with hostErrs := (c.hostErrs + 1) % 2 ^ 32 })

/-- The boot ROM serves: in Recovery, and while it waits for images (R361, R366). -/
def romServes (s : State) : Bool := s.ctl.waitsForImage || modeOf s == .recovery

/-- Commands of mailbox m run: the boot ROM serves mailbox 0 alone (R361, R372). -/
def mailServed (s : State) (m : Nat) : Bool := if romServes s then decide (m = 0) else ronecServes s

/-! ### Frames (R356, R357, R369) -/

/-- An entry of a CFG_WRITE (R381): object, instance, COUNT, value, mask. -/
structure CfgEntry where
  obj : Nat
  inst : Nat
  count : Nat
  value : Nat
  mask : Nat
  deriving DecidableEq, Repr

/-- The entries of a CFG_WRITE payload, and whether its padding is 0; none where it does not fit (R381). -/
def cfgEntries : Nat → Bytes → Option (List CfgEntry × Bool)
  | _, [] => some ([], true)
  | 0, _ => none
  | fuel + 1, b =>
    let c := leAt b 4 4
    let n := up8 (8 + 2 * c)
    if b.length < 8 ∨ c = 0 ∨ b.length < n then none
    else
      (cfgEntries fuel (b.drop n)).map (fun r =>
        (⟨leAt b 0 2, leAt b 2 2, c, leAt b 8 c, leAt b (8 + c) c⟩ :: r.1,
         r.2 && decide (leAt b (8 + 2 * c) (n - (8 + 2 * c)) = 0)))

/-- The entries of a CFG_WRITE. -/
def entriesOf (p : Bytes) : List CfgEntry := ((cfgEntries 512 p).getD ([], true)).1

/-- The opcode is listed (R372). -/
def opcodeKnown (op : Nat) : Bool :=
  [0x01, 0x10, 0x11, 0x12, 0x13, 0x20, 0x21, 0x22, 0x23, 0x24, 0x30, 0x31, 0x32, 0x40, 0x41, 0x50, 0x51, 0x52, 0x53,
   0x54].contains op

/-- The payload length fits the opcode (R369, R379 to R398). -/
def payloadFits (op : Nat) (p : Bytes) : Bool :=
  let n := p.length
  match op with
  | 0x10 => decide (8 ≤ n) && decide (n ≤ 512) && decide (n % 8 = 0)
  | 0x11 => decide (n ≠ 0) && (cfgEntries 512 p).isSome
  | 0x12 | 0x13 => decide (n = 24)
  | 0x22 => decide (n = 48)
  | 0x24 | 0x40 | 0x41 | 0x50 => decide (n = 16)
  | 0x30 | 0x31 | 0x32 | 0x51 | 0x52 | 0x53 | 0x54 => decide (n = 8)
  | _ => decide (n = 0)

/-- The reserved bytes of the payload of an opcode, as (offset, bytes). -/
def payloadGaps (op : Nat) : List (Nat × Nat) :=
  match op with
  | 0x12 => [(6, 2), (17, 3)]
  | 0x13 => [(6, 2), (17, 7)]
  | 0x22 => [(38, 10)]
  | 0x24 => [(1, 3)]
  | 0x30 => [(2, 6)]
  | 0x31 | 0x32 => [(4, 4)]
  | 0x40 | 0x41 => [(12, 4)]
  | 0x50 => [(3, 1), (8, 8)]
  | 0x51 | 0x53 => [(1, 7)]
  | 0x52 => [(3, 5)]
  | 0x54 => [(1, 1), (4, 4)]
  | _ => []

/-- Every reserved byte of a payload that fits its opcode is 0; of one that does not fit, none can be located. -/
def payloadClean (op : Nat) (p : Bytes) : Bool :=
  if !(opcodeKnown op) || !(payloadFits op p) then true
  else
    match op with
    | 0x10 => (List.range (p.length / 8)).all (fun k => decide (leAt p (8 * k + 4) 4 = 0))
    | 0x11 => ((cfgEntries 512 p).getD ([], true)).2
    | _ => (payloadGaps op).all (fun g => decide (leAt p g.1 g.2 = 0))

/-- The check of a frame of `len` bytes rung on mailbox m, in the order of R357: 0, or the status of its refusal. -/
def frameStatus (m : Nat) (b : Bytes) (len : Nat) : Nat :=
  if len < 24 ∨ 4096 < len ∨ len % 8 ≠ 0 then 0x41
  else if crc32c (b.take (len - 8)) ≠ leAt b (len - 8) 4 then 0x40
  else if leAt b 8 4 ≠ len then 0x41
  else if leAt b 2 1 % 8 ≠ m then 0x42
  else if leAt b 2 1 / 8 ≠ 0 ∨ leAt b 3 1 / 2 ≠ 0 ∨ leAt b 12 4 ≠ 0
      ∨ payloadClean (leAt b 0 2) ((b.take (len - 8)).drop 16) = false then 0x43
  else 0

/-! ### Completions (R356, R358, R359) -/

/-- The response frame of a completion (R356, R369). -/
def Completion.bytes (c : Completion) : Bytes :=
  let p := padTo (up8 c.response.payload.length) c.response.payload
  let body := leBytes 2 c.opcode ++ [c.mbox % 256, c.replay] ++ leBytes 4 c.seq ++ leBytes 4 (40 + p.length)
    ++ leBytes 2 c.response.status ++ [0, 0] ++ leBytes 8 c.acceptRc64 ++ leBytes 8 c.response.doneRc64 ++ p
  body ++ leBytes 4 (crc32c body) ++ [0, 0, 0, 0]

/-- A ring of BAR0 takes one more slot: enabled and not full (R355, R358). -/
def HostRing.room (r : HostRing) : Bool :=
  r.enable && decide ((r.head + (2 ^ 64 - r.consumer)) % 65536 < 2 ^ r.sizeLog)

/-- Write a frame into the next slot of a ring of BAR0, then its head word, then the message (R358). -/
def ringSlot (s : State) (r : HostRing) (slot : Nat) (b : Bytes) (irq : Bool) : State :=
  let n := 2 ^ r.sizeLog
  let s1 := emit s (.hostWrite (r.base + slot * (r.head % n)) b.length (ofLe b))
  let s2 := emit s1 (.hostWrite (r.base + slot * n) 8 ((r.head + 1) % 2 ^ 64))
  if irq then emit s2 (.msix r.vector) else s2

/-- The ring with its head one slot on. -/
def HostRing.next (r : HostRing) : HostRing := { r with head := (r.head + 1) % 2 ^ 64 }

/-- A completion waits for its ring. -/
def addDone (s : State) (m : Nat) (c : Completion) : State := setMail s m (fun x => { x with done := x.done ++ [c] })

/-- DONE_RC64 of a commit now: it strictly increases across the device (R375). -/
def commitTick (s : State) : Nat := max s.time.rc64 (s.ctl.lastDone + 1)

/-- The head of mailbox m commits (R359, R375): DONE_RC64 strictly increases across the device, the response enters the
replay cache, and each copy gets its completion. -/
def commitHead (s : State) (m status : Nat) (payload : Bytes) : State :=
  match (mailOf s m).queue with
  | [] => s
  | r :: rest =>
    let t := commitTick s
    let resp : Response := ⟨status, t, payload⟩
    let all := ⟨r.opcode, m, r.seq, 0, r.irq, r.acceptRc64, resp⟩
      :: r.attached.map (fun a => ⟨r.opcode, m, r.seq, 2, a.1, a.2, resp⟩)
    let s1 := setMail s m (fun x =>
      { x with queue := rest, done := x.done ++ all,
               cache := x.cache.map (fun e =>
                 if e.seq == r.seq && e.response.isNone then { e with response := some resp } else e) })
    setCtl s1 (fun c => { c with lastDone := t })

/-- Unlisted opcodes at the head of a mailbox commit with UNKNOWN_OPCODE (R372); `fuel` bounds them. -/
def settle : Nat → State → Nat → State
  | 0, s, _ => s
  | fuel + 1, s, m =>
    match (mailOf s m).queue with
    | r :: _ =>
      if opcodeKnown r.opcode || !mailServed s m then s else settle fuel (commitHead s m 0x0003 []) m
    | [] => s

/-- The command of mailbox m ends with a status and a payload. -/
def commit (s : State) (m status : Nat) (payload : Bytes) : State :=
  settle (mailOf s m).queue.length (commitHead s m status payload) m

/-- The command of mailbox m that may run: its head, with this opcode, where the mailbox is served (R356, R374). -/
def headOf (s : State) (m op : Nat) : Option Request :=
  if mailServed s m then (mailOf s m).queue.head?.filter (fun r => r.opcode == op) else none

/-- Change the head of mailbox m. -/
def setHead (s : State) (m : Nat) (f : Request → Request) : State :=
  setMail s m (fun x => { x with queue := upd x.queue 0 f })

/-- An opcode is served in the present mode (R372). -/
def opServed (s : State) (op : Nat) (p : Bytes) : Bool :=
  let md := modeOf s
  if romServes s then [0x01, 0x30, 0x32, 0x50, 0x51, 0x52, 0x54].contains op
  else
    match md with
    | .vigil =>
      [0x01, 0x10, 0x30, 0x31].contains op
        || (op == 0x11 && (match entriesOf p with | [e] => e.obj == 0x1010 | _ => false))
    | _ =>
      match op with
      | 0x20 => watchOn s
      | 0x21 => md == .image || md == .survey || md == .peer || md == .calibrate
      | 0x22 | 0x23 => md == .calibrate
      | 0x24 => md == .test
      | 0x40 | 0x41 => md != .image && md != .beam
      | 0x50 | 0x51 | 0x52 | 0x53 | 0x54 => md == .idle
      | _ => true

/-- The statuses of R370 before the command's own: BAD_LENGTH, then the mode; 0 where the command goes on. -/
def early (s : State) (op : Nat) (p : Bytes) : Nat :=
  if !payloadFits op p then 0x0005 else if !opServed s op p then 0x0002 else 0

/-- Run the head of mailbox m if it has this opcode and has not started (R356): a command that R370 stops early commits
with an empty payload (DESIGN CHOICE, log entry 31). -/
def runCommand (s : State) (m op : Nat) (body : Request → State) : Host.Outcome State Fault Refusal :=
  match headOf s m op with
  | none => .next s
  | some r =>
    if r.started then .next s
    else if early s op r.payload ≠ 0 then .next (commit s m (early s op r.payload) [])
    else .next (body r)

/-! ### Rows -/

/-- Accept a frame (R356, R359): a repeat of a cached SEQ is answered from the cache or attaches, any other joins its
mailbox; OWNED stays set while a completion waits for its ring (R358). -/
def acceptFrame (s : State) (m : Nat) (b : Bytes) (len : Nat) : State :=
  let op := leAt b 0 2
  let irq := bit (leAt b 3 1) 0
  let seq := leAt b 4 4
  let x := mailOf s m
  let s1 := setMail s m (fun y => { y with lastSeq := seq, owned := !y.done.isEmpty && !y.ring.room })
  match x.cache.find? (fun e => e.seq == seq) with
  | some e =>
    match e.response with
    | some resp => addDone s1 m ⟨op, m, seq, 1, irq, s.time.rc64, resp⟩
    | none =>
      setMail s1 m (fun y =>
        { y with
          queue := updFirst (fun r => r.seq == seq)
            (fun r => { r with attached := r.attached ++ [(irq, s.time.rc64)] }) y.queue })
  | none =>
    let s2 := setMail s1 m (fun y =>
      { y with queue := y.queue ++ [(⟨op, irq, seq, (b.take (len - 8)).drop 16, s.time.rc64, false, 0, []⟩ : Request)],
               cache := (y.cache ++ [(⟨op, seq, s.time.rc64, none⟩ : CacheEntry)]).drop (y.cache.length + 1 - 64) })
    settle (x.queue.length + 1) s2 m

/-- MAILBOX_DOORBELL (R356, R357, R359, R366, R372): the frame in the request buffer, `len` as written to DOORBELL.  A
doorbell in Vigil powers the control pair. -/
def execMailboxDoorbell (m : Fin 8) (len : Fin 8192) (frame : List Nat) (s : State) :
    Host.Outcome State Fault Refusal :=
  let b := padTo len.val (frame.map (· % 256))
  if (mailOf s m).owned || (romServes s && decide (m.val ≠ 0)) then .next (hostErr s)
  else
    let s1 := if modeOf s = .vigil && !ronecServes s then pairUp s else s
    let st := frameStatus m b len
    if st = 0 then .next (acceptFrame s1 m b len)
    else
      let c : Completion :=
        ⟨leAt b 0 2, leAt b 2 1, leAt b 4 4, 3, bit (leAt b 3 1) 0, s.time.rc64, ⟨st, 0, []⟩⟩
      .next (raise (hostErr (addDone s1 m c)) 0x1006 m m (leAt b 4 4))

/-- COMPLETION_WRITE (R358): the oldest completion of mailbox m is written to its ring; OWNED clears once none waits. -/
def execCompletionWrite (m : Fin 8) (s : State) : Host.Outcome State Fault Refusal :=
  let x := mailOf s m
  match x.done with
  | [] => .next s
  | c :: rest =>
    if x.ring.room && mailServed s m then
      let s1 := ringSlot s x.ring 512 c.bytes c.irq
      .next (setMail s1 m (fun y =>
        { y with done := rest, ring := y.ring.next, owned := y.owned && !rest.isEmpty && !y.ring.next.room }))
    else .next s

/-- A notice may be written: a MODE notice follows the completion of the write that requested it (R376). -/
def noticeFree (s : State) (n : Notice) : Bool :=
  match n.body with
  | .mode _ _ _ _ seq mailbox _ =>
    !((mailOf s mailbox).done.any (fun c => c.opcode == 0x11 && c.seq == seq && c.response.status == 0))
  | _ => true

/-- Ronec firmware writes a notice; that of an entry to Vigil goes before the pair is taken down (R376, R422). -/
def noticeServed (s : State) (n : Notice) : Bool :=
  ronecServes s || romServes s || (match n.body with | .mode _ aim .. => decide (aim = 2) | _ => false)

/-- Queue 15 has a free slot after a drop (R358): the NOTICE_LOST notice takes it, and fault 0x1007 is raised. -/
def noticeLost (s : State) : State :=
  if 0 < s.notes.droppedSince ∧ s.notes.queue.length < noticeQueueSlots then
    let s1 := notice s (.lost s.notes.droppedSince s.notes.droppedTotal)
    raise { s1 with notes := { s1.notes with droppedSince := s1.notes.droppedSince - s.notes.droppedSince } } 0x1007 0 0 0
  else s

/-- NOTICE_LOST (R358). -/
def execNoticeLost (s : State) : Host.Outcome State Fault Refusal := .next (noticeLost s)

/-- NOTICE_WRITE (R358, R401): the oldest notice is written to the notice ring, with its message. -/
def execNoticeWrite (s : State) : Host.Outcome State Fault Refusal :=
  match s.notes.queue with
  | [] => .next s
  | n :: rest =>
    if s.notes.ring.room && noticeServed s n && noticeFree s n then
      let s1 := ringSlot s s.notes.ring 64 n.bytes true
      .next (noticeLost { s1 with notes := { s1.notes with queue := rest, ring := s1.notes.ring.next } })
    else .next s

/-- A field value put into part of a 128-bit setup: its low bit and width. -/
def putBits (n lo w v : Nat) : Nat := n - bits n lo w * 2 ^ lo + v % 2 ^ w * 2 ^ lo

/-- The 16 bytes of the setup of a ring (R355). -/
def HostRing.word (r : HostRing) : Nat :=
  r.base % 2 ^ 64 + r.sizeLog % 16 * 2 ^ 64 + r.vector % 16 * 2 ^ 68 + b2n r.enable * 2 ^ 72 + r.consumer % 65536 * 2 ^ 96

/-- The setup of a ring after a write of some of its bytes; none where the write is discarded: BASE or SIZE_LOG while
ENABLE = 1, a value outside its range, a reserved bit set (R355, R12).  Setting ENABLE sets HEAD to CONSUMER. -/
def ringSetup (r : HostRing) (lo w v : Nat) : Option HostRing :=
  let n := putBits r.word lo w v
  let touchesBase := decide (lo < 64) || decide (bits n 64 4 ≠ bits r.word 64 4)
  if (r.enable && touchesBase) || decide (bits n 0 12 ≠ 0) || decide (bits n 64 4 < 2) || decide (12 < bits n 64 4)
      || decide (bits n 73 23 ≠ 0) || decide (bits n 112 16 ≠ 0) then none
  else
    some { base := bits n 0 64, sizeLog := bits n 64 4, vector := bits n 68 4, enable := bit n 72,
           consumer := bits n 96 16,
           head := if bit n 72 && !r.enable then bits n 96 16 else r.head }

/-- COMPLETION_RING_SETUP (R355): a write of 4 or 8 bytes of the setup of a mailbox's ring, or of the notice ring (8). -/
def execCompletionRingSetup (ring : Fin 9) (word : Fin 4) (wide : Bool) (v : Nat) (s : State) :
    Host.Outcome State Fault Refusal :=
  let w := if wide && word.val % 2 == 0 then 64 else 32
  let r := if ring.val = 8 then s.notes.ring else (mailOf s ring).ring
  match ringSetup r (32 * word.val) w v with
  | none => .next (hostErr s)
  | some x =>
    if ring.val = 8 then .next { s with notes := { s.notes with ring := x } }
    else .next (setMail s ring (fun y => { y with ring := x }))

/-- BAR0_DISCARDED_WRITE (R355). -/
def execBar0DiscardedWrite (s : State) : Host.Outcome State Fault Refusal := .next (hostErr s)

/-- HEARTBEAT (R355): 1 ms of Ronec firmware on the control pair. -/
def execHeartbeat (s : State) : Host.Outcome State Fault Refusal :=
  if ronecServes s then .next (setCtl s (fun c => { c with heartbeat := (c.heartbeat + 1) % 2 ^ 32 })) else .next s

/-! ### Reads of BAR0 and BAR2 (R238, R291, R355) -/

/-- `PAIR` of the status page. -/
def PairState.code : PairState → Nat
  | .paired => 0 | .single => 1 | .resync => 2 | .restarting => 3 | .booting => 4

/-- The firmware that runs, major then minor: 0 while the boot ROM runs (R355). -/
def ronecRuns (s : State) : Bool :=
  modeOf s != .recovery && s.ctl.pair != .restarting && (s.ctl.pair != .booting || s.ctl.ronecUp)

/-- Bytes 4 and 5 of GET_INFO and RONEC of the status page: 3.1, as (major, minor) bytes. -/
def ronecBytes (s : State) : Bytes := if ronecRuns s then [3, 1] else [0, 0]

/-- The status page as one number of 256 bits (R355). -/
def statusPage (s : State) : Nat :=
  0x5A01 + 0xB0 * 2 ^ 16 + (if ronecRuns s then 0x0301 else 0) * 2 ^ 32 + rd s Obj.MODE_STATE.CURRENT * 2 ^ 48
    + s.ctl.bootSrc % 4 * 2 ^ 52 + s.ctl.chipId % 16 * 2 ^ 54 + b2n (romServes s) * 2 ^ 58 + s.ctl.pair.code * 2 ^ 64
    + b2n s.ctl.leadB * 2 ^ 67 + worstSeverity s * 2 ^ 68 + s.aon.bootFails % 256 * 2 ^ 72 + s.ctl.fwSlot % 4 * 2 ^ 80
    + s.ctl.heartbeat * 2 ^ 96 + s.ctl.failovers * 2 ^ 128 + s.ctl.warmRestarts * 2 ^ 160 + s.ctl.hostErrs * 2 ^ 192

/-- The mailbox register (R355). -/
def mailRegister (x : Mailbox) : Nat :=
  b2n x.owned * 2 ^ 16 + b2n (x.queue.head?.any (fun r => r.started)) * 2 ^ 17 + x.lastSeq % 2 ^ 32 * 2 ^ 32

/-- The 64-bit value at an offset of BAR0 (R355); the MSI-X table and the request buffers, which the model does not hold,
answer a free value (log entry 33). -/
def bar0Word (s : State) (off : Nat) : Nat × State :=
  let o := off / 8 * 8
  if o < 0x20 then (bits (statusPage s) (8 * o) 64, s)
  else if o < 0x100 then (0, s)
  else if o < 0x180 then (bits (mailOf s ((o - 0x100) / 16)).ring.word (o % 16 * 8) 64, s)
  else if o < 0x190 then (bits s.notes.ring.word (o % 16 * 8) 64, s)
  else if 0x200 ≤ o ∧ o < 0x240 then (mailRegister (mailOf s ((o - 0x200) / 8)), s)
  else if 0x1000 ≤ o ∧ o < 0x1200 then (rd s Obj.MOV_RING_STATUS.TAIL ((o - 0x1000) / 8), s)
  else if (0x2000 ≤ o ∧ o < 0x2100) ∨ o = 0x3000 ∨ (0x8000 ≤ o ∧ o < 0x10000) then
    ((drawFree s).1 % 2 ^ 64, (drawFree s).2)
  else (0, s)

end Sys2Proof.Machine
end

