-- ==== Sys2Proof/Machine/Inflate.lean ====
section
/-! DEFINITION. The decompressor's inflate mode: RFC 1951 blocks, the zlib wrapper of RFC 1950, and the limits of the
output (R264, R265, `12_compression.md`).  The formats are those of the RFCs, which the spec names (PRESUMED, log entry
60). -/

namespace Sys2Proof.Machine

/-- How an inflate run ends: 0 OK, 0x20 DECODE_ERROR, 0x21 CHECK_FAILED, 0x22 LIMIT_EXCEEDED (R264, R265, R373). -/
abbrev InflStatus := Nat

/-- The reader and writer of an inflate run: the input as one number with its length in bits, the bit position, the output
newest byte first with its length, the status once the run has stopped. -/
structure Infl where
  inp : Nat
  size : Nat
  pos : Nat
  out : Bytes
  count : Nat
  stop : Option InflStatus
  deriving DecidableEq, Repr

/-- The limits of a run (R265): the output limit, and the ratio limit if one holds. -/
structure InflLimit where
  out : Nat
  ratio : Option Nat
  deriving DecidableEq, Repr

/-- Input bytes consumed. -/
def Infl.consumed (x : Infl) : Nat := (x.pos + 7) / 8

/-- Stop with a status. -/
def Infl.fail (x : Infl) (st : InflStatus) : Infl := { x with stop := x.stop.orElse (fun _ => some st) }

/-- Take `k` bits, least significant first; the end of the input is a decode error. -/
def Infl.take (x : Infl) (k : Nat) : Nat × Infl :=
  if x.stop.isSome then (0, x)
  else if x.size < x.pos + k then (0, x.fail 0x20)
  else (bits x.inp x.pos k, { x with pos := x.pos + k })

/-- Write a byte, unless it would break a limit (R265). -/
def Infl.put (lim : InflLimit) (x : Infl) (b : Nat) : Infl :=
  if x.stop.isSome then x
  else
    let past := decide (lim.out < x.count + 1) || (match lim.ratio with
      | some r => decide (r * x.consumed + 32768 < x.count + 1)
      | none => false)
    if past then x.fail 0x22 else { x with out := b % 256 :: x.out, count := x.count + 1 }

/-- Copy `len` bytes from `dist` back, one at a time. -/
def Infl.copy (lim : InflLimit) (dist : Nat) : Nat → Infl → Infl
  | 0, x => x
  | n + 1, x =>
    if x.stop.isSome then x
    else Infl.copy lim dist n (x.put lim (nth x.out (dist - 1) 0))

/-! ### Huffman codes -/

/-- How many symbols have a code of a length. -/
def codeCount (lens : List Nat) (l : Nat) : Nat := (lens.filter (fun x => x == l)).length

/-- The symbols with a code of a length, in order. -/
def codeSyms (lens : List Nat) (l : Nat) : List Nat :=
  (List.range lens.length).filter (fun k => nth lens k 0 == l)

/-- What is left of the code space after the lengths 1 to 15, in units of 2^-15; negative when over-subscribed. -/
def codeSpace (lens : List Nat) : Int :=
  32768 - (((List.range 15).map (fun l => codeCount lens (l + 1) * 2 ^ (14 - l))).sum : Nat)

/-- A set of lengths is a legal code: complete, or with a single code of one bit, or with no code where that is allowed. -/
def codeLegal (lens : List Nat) (allowEmpty : Bool) : Bool :=
  let used := (lens.filter (fun x => x != 0)).length
  decide (codeSpace lens = 0) || (used == 1 && codeCount lens 1 == 1) || (used == 0 && allowEmpty)

/-- Decode a symbol: `code`, `first` and the length so far walk over the lengths 1 to 15. -/
def decodeSymFrom (lens : List Nat) : Nat → Nat → Nat → Nat → Infl → Option Nat × Infl
  | 0, _, _, _, x => (none, x.fail 0x20)
  | fuel + 1, l, code, first, x =>
    let t := x.take 1
    let c := code + t.1
    let n := codeCount lens l
    if t.2.stop.isSome then (none, t.2)
    else if c < first + n then ((codeSyms lens l)[c - first]?, t.2)
    else decodeSymFrom lens fuel (l + 1) (2 * c) (2 * (first + n)) t.2

/-- Decode a symbol of a code. -/
def decodeSym (lens : List Nat) (x : Infl) : Option Nat × Infl := decodeSymFrom lens 15 1 0 0 x

/-! ### Blocks -/

/-- Base and extra bits of the length symbol 257 + k, and of the distance symbol k. -/
def lengthBase : List (Nat × Nat) :=
  [(3, 0), (4, 0), (5, 0), (6, 0), (7, 0), (8, 0), (9, 0), (10, 0), (11, 1), (13, 1), (15, 1), (17, 1), (19, 2), (23, 2),
   (27, 2), (31, 2), (35, 3), (43, 3), (51, 3), (59, 3), (67, 4), (83, 4), (99, 4), (115, 4), (131, 5), (163, 5), (195, 5),
   (227, 5), (258, 0)]

def distBase (k : Nat) : Nat × Nat := if k < 4 then (k + 1, 0) else ((2 + k % 2) * 2 ^ (k / 2 - 1) + 1, k / 2 - 1)

/-- The symbols of a coded block up to its end code; `fuel` bounds them. -/
def inflCodes (lim : InflLimit) (lit dist : List Nat) : Nat → Infl → Infl
  | 0, x => x.fail 0x20
  | fuel + 1, x =>
    match decodeSym lit x with
    | (none, y) => y.fail 0x20
    | (some v, y) =>
      if v < 256 then
        (let z := y.put lim v
         if z.stop.isSome then z else inflCodes lim lit dist fuel z)
      else if v = 256 then y
      else
        match lengthBase[v - 257]? with
        | none => y.fail 0x20
        | some lb =>
          let e := y.take lb.2
          match decodeSym dist e.2 with
          | (none, z) => z.fail 0x20
          | (some d, z) =>
            if 29 < d then z.fail 0x20
            else
              let de := z.take (distBase d).2
              let back := (distBase d).1 + de.1
              if de.2.stop.isSome then de.2
              else if de.2.count < back then de.2.fail 0x20
              else
                let w := Infl.copy lim back (lb.1 + e.1) de.2
                if w.stop.isSome then w else inflCodes lim lit dist fuel w

/-- Copy `n` bytes of a stored block. -/
def inflStored (lim : InflLimit) : Nat → Infl → Infl
  | 0, x => x
  | n + 1, x =>
    let t := x.take 8
    if t.2.stop.isSome then t.2 else inflStored lim n (t.2.put lim t.1)

/-- The code lengths of a dynamic block: `want` of them. -/
def inflLengths (cl : List Nat) (want : Nat) : Nat → List Nat → Infl → List Nat × Infl
  | 0, acc, x => (acc, x.fail 0x20)
  | fuel + 1, acc, x =>
    if want ≤ acc.length then (if acc.length = want then (acc, x) else (acc, x.fail 0x20))
    else
      match decodeSym cl x with
      | (none, y) => (acc, y.fail 0x20)
      | (some v, y) =>
        if v < 16 then inflLengths cl want fuel (acc ++ [v]) y
        else if v = 16 then
          (match acc.getLast? with
           | none => (acc, y.fail 0x20)
           | some p => let t := y.take 2; inflLengths cl want fuel (acc ++ List.replicate (3 + t.1) p) t.2)
        else if v = 17 then (let t := y.take 3; inflLengths cl want fuel (acc ++ List.replicate (3 + t.1) 0) t.2)
        else (let t := y.take 7; inflLengths cl want fuel (acc ++ List.replicate (11 + t.1) 0) t.2)

/-- The order of the code-length code. -/
def clOrder : List Nat := [16, 17, 18, 0, 8, 7, 9, 6, 10, 5, 11, 4, 12, 3, 13, 2, 14, 1, 15]

/-- The 3-bit lengths of the code-length code. -/
def inflClLens : Nat → Infl → List Nat × Infl
  | 0, x => ([], x)
  | n + 1, x =>
    let t := x.take 3
    let r := inflClLens n t.2
    (t.1 :: r.1, r.2)

/-- The lengths of the fixed codes. -/
def fixedLit : List Nat :=
  List.replicate 144 8 ++ List.replicate 112 9 ++ List.replicate 24 7 ++ List.replicate 8 8
def fixedDist : List Nat := List.replicate 30 5 ++ [5, 5]

/-- One block after its header bits. -/
def inflBlock (lim : InflLimit) (fuel ty : Nat) (x : Infl) : Infl :=
  match ty with
  | 0 =>
    let a := { x with pos := (x.pos + 7) / 8 * 8 }
    let l := a.take 16
    let n := l.2.take 16
    if n.2.stop.isSome then n.2
    else if l.1 + n.1 ≠ 65535 then n.2.fail 0x20
    else inflStored lim l.1 n.2
  | 1 => inflCodes lim fixedLit fixedDist fuel x
  | 2 =>
    let a := x.take 5
    let b := a.2.take 5
    let c := b.2.take 4
    if c.2.stop.isSome then c.2
    else if 286 < 257 + a.1 ∨ 30 < 1 + b.1 then c.2.fail 0x20
    else
      let cls := inflClLens (4 + c.1) c.2
      let cl := (List.range 19).map (fun k =>
        match clOrder.findIdx? (fun y => y == k) with
        | some p => nth cls.1 p 0
        | none => 0)
      if cls.2.stop.isSome then cls.2
      else if !codeLegal cl false then cls.2.fail 0x20
      else
        let ls := inflLengths cl (258 + a.1 + b.1) 400 [] cls.2
        let lit := ls.1.take (257 + a.1)
        let dist := ls.1.drop (257 + a.1)
        if ls.2.stop.isSome then ls.2
        else if !codeLegal lit false || !codeLegal dist true || nth lit 256 0 == 0 then ls.2.fail 0x20
        else inflCodes lim lit dist fuel ls.2
  | _ => x.fail 0x20

/-- The blocks of a stream up to the one marked final. -/
def inflBlocks (lim : InflLimit) (fuel : Nat) : Nat → Infl → Infl
  | 0, x => x.fail 0x20
  | n + 1, x =>
    let f := x.take 1
    let t := f.2.take 2
    if t.2.stop.isSome then t.2
    else
      let y := inflBlock lim fuel t.1 t.2
      if y.stop.isSome then y
      else if f.1 = 1 then y
      else inflBlocks lim fuel n y

/-- Adler-32 of a string of bytes. -/
def adler32 (b : Bytes) : Nat :=
  let r := b.foldl (fun (p : Nat × Nat) x => ((p.1 + x) % 65521, (p.2 + p.1 + x) % 65521)) (1, 0)
  r.2 * 65536 + r.1

/-- Inflate a stream, with the zlib wrapper or without (R264): status, bytes consumed, output. -/
def inflate (zlib : Bool) (lim : InflLimit) (b : Bytes) : InflStatus × Nat × Bytes :=
  let x0 : Infl := ⟨ofLe b, 8 * b.length, 0, [], 0, none⟩
  let fuel := 8 * b.length + 1
  if zlib then
    let h := x0.take 16
    let cmf := h.1 % 256
    let flg := h.1 / 256
    if h.2.stop.isSome ∨ cmf % 16 ≠ 8 ∨ 7 < cmf / 16 ∨ (cmf * 256 + flg) % 31 ≠ 0 ∨ bit flg 5 then (0x20, h.2.consumed, [])
    else
      let y := inflBlocks lim fuel fuel h.2
      let t := ({ y with pos := (y.pos + 7) / 8 * 8 } : Infl).take 32
      match y.stop with
      | some st => (st, y.consumed, y.out.reverse)
      | none =>
        if t.2.stop.isSome then (0x20, y.consumed, y.out.reverse)
        else if ofBe (leBytes 4 t.1) = adler32 y.out.reverse then (0, t.2.consumed, y.out.reverse)
        else (0x21, t.2.consumed, y.out.reverse)
  else
    let y := inflBlocks lim fuel fuel x0
    (y.stop.getD 0, y.consumed, y.out.reverse)

end Sys2Proof.Machine
end

