-- ==== Sys2Proof/Machine/Deflate.lean ====
section
/-! DEFINITION. The DEFLATE coder: a stream of RFC 1951 in blocks of 32,768 bytes of input, with or without the zlib
wrapper (R262, `12_compression.md`). -/

namespace Sys2Proof.Machine

/-- A string of bits as a number, first bit least significant, with its length. -/
structure BitRun where
  val : Nat
  len : Nat
  deriving DecidableEq, Repr

/-- Append `n` bits of a value. -/
def BitRun.add (x : BitRun) (v n : Nat) : BitRun := ⟨x.val + v % 2 ^ n * 2 ^ x.len, x.len + n⟩

/-- The bits of a list, first bit least significant. -/
def BitRun.ofList (b : List Bool) : BitRun := ⟨b.foldr (fun x acc => b2n x + 2 * acc) 0, b.length⟩

/-- The input cut into pieces of 32,768 bytes, at least one; `fuel` bounds them. -/
def cutPieces : Nat → Bytes → List Bytes
  | 0, b => [b]
  | fuel + 1, b => if b.length ≤ 32768 then [b] else b.take 32768 :: cutPieces fuel (b.drop 32768)

/-- The dynamic-Huffman block that the coder makes of a piece after the input before it, without its three header bits:
the spec gives the effort of the search and not its choices, so it is open among the blocks that inflate to the piece;
none where there is none. -/
def dynamicPiece (level : Nat) (before piece : Bytes) : Option BitRun :=
  let c := BitRun.ofList (Config.dynamicBlock level before piece)
  let x := inflBlock ⟨before.length + piece.length, none⟩ (c.len + 1) 2 ⟨c.val, c.len, 0, before.reverse, before.length, none⟩
  if x.stop = none ∧ x.pos = c.len ∧ x.out = (before ++ piece).reverse then some c else none

/-- The bits that pad a stored block's header to a byte. -/
def storedPad (x : BitRun) : Nat := (8 - (x.len + 3) % 8) % 8

/-- A stored block of a piece. -/
def storedBlock (x : BitRun) (last : Bool) (piece : Bytes) : BitRun :=
  ((((x.add (b2n last) 3).add 0 (storedPad x)).add piece.length 16).add (65535 - piece.length) 16).add (ofLe piece)
    (8 * piece.length)

/-- One block for a piece (R262): dynamic-Huffman, or stored where the stored block is no larger. -/
def addPiece (level : Nat) (x : BitRun) (before piece : Bytes) (last : Bool) : BitRun :=
  match dynamicPiece level before piece with
  | some c =>
    if 3 + c.len < 3 + storedPad x + 32 + 8 * piece.length then (x.add (b2n last + 4) 3).add c.val c.len
    else storedBlock x last piece
  | none => storedBlock x last piece

/-- The blocks of the pieces, in order. -/
def addPieces (level : Nat) : List Bytes → BitRun → Bytes → BitRun
  | [], x, _ => x
  | p :: rest, x, before => addPieces level rest (addPiece level x before p rest.isEmpty) (before ++ p)

/-- The zlib header (RFC 1950): CM = 8, CINFO = 7, FDICT = 0, the check bits; FLEVEL is open. -/
def zlibHeader (level : Nat) : Bytes :=
  let flg := Config.zlibLevel level % 4 * 64
  [0x78, flg + (31 - (0x7800 + flg) % 31) % 31]

/-- What the coder makes of bytes at a level (R262). -/
def deflateStream (level : Nat) (zlib : Bool) (b : Bytes) : Bytes :=
  let x := addPieces level (cutPieces (b.length / 32768) b) ⟨0, 0⟩ []
  let body := leBytes ((x.len + 7) / 8) x.val
  if zlib then zlibHeader level ++ body ++ (leBytes 4 (adler32 b)).reverse else body

end Sys2Proof.Machine
end

