-- ==== Sys2Proof/Machine/TimeBase.lean ====
section
/-! DEFINITION. The time base: REF10M, PPS, civil time, the comparators' own part
(R324 to R340, `15_time_and_network_ports.md`). -/

namespace Sys2Proof.Machine

/-- Change the time base. -/
def setTime (s : State) (f : TimeBase → TimeBase) : State := { s with time := f s.time }

/-- Ticks in a second. -/
def ticksPerSecond : Nat := 1600000000

/-- A signed 48-bit difference of RC64 and a target (R7, R336). -/
def diff48 (n target : Nat) : Int := toInt 48 (n % 2 ^ 48 + (2 ^ 48 - target % 2 ^ 48))

/-- LOCKED falls: the flag clears, the lock count restarts, fault 0x0E04 is raised where it was set (R332). -/
def dropLock (s : State) : State :=
  let s1 := setTime s (fun t => { t with lockRun := 0 })
  if flag s1 Obj.TIM_STATE.LOCKED then raise (wr s1 Obj.TIM_STATE.LOCKED 0 0) 0x0E04 0 0 0 else s1

/-- HOLDOVER clears, and with it the faults that last as long as it does (R326, R327, R348). -/
def clearHoldover (s : State) : State :=
  clearFault (clearFault (setTime (wr s Obj.TIM_STATE.HOLDOVER 0 0) (fun t => { t with dormantHold := false })) 0x0E01 0)
    0x1403 0

/-- REF10M_LOST (R326, R327): outside Dormant HOLDOVER is set and fault 0x0E01 raised; in Dormant Snowdrop counts its
fallback oscillator and sets HOLDOVER, which fault 0x1403 reports at the wake. -/
def execRef10mLost (s : State) : Host.Outcome State Fault Refusal :=
  if s.time.refPresent then
    let s1 := setTime (wr s Obj.TIM_STATE.HOLDOVER 0 1) (fun t => { t with refPresent := false })
    if modeOf s = .dormant then
      .next { setTime s1 (fun t => { t with dormantHold := true }) with aon := { s1.aon with holdoverUsed := true } }
    else .next (raise (wr s1 Obj.TIM_STATE.SLEWING 0 0) 0x0E01 0 0 0)
  else .next s

/-- REF10M_RETURN (R326): the edges have been back for 1 ms, and the PLL starts its phase slew. -/
def execRef10mReturn (s : State) : Host.Outcome State Fault Refusal :=
  if !s.time.refPresent && modeOf s != .dormant then
    .next (wr (setTime s (fun t => { t with refPresent := true })) Obj.TIM_STATE.SLEWING 0 1)
  else .next s

/-- PHASE_SLEW_DONE (R326): the slew has ended; HOLDOVER clears, unless it was set in Dormant, which only a capture ends
(R327; DEDUCED, log entry 105).  RC64 stays continuous. -/
def execPhaseSlewDone (s : State) : Host.Outcome State Fault Refusal :=
  if flag s Obj.TIM_STATE.SLEWING then
    let s1 := wr s Obj.TIM_STATE.SLEWING 0 0
    .next (if s1.time.dormantHold then s1 else clearHoldover s1)
  else .next s

/-- A number rounded up to a multiple of 160. -/
def up160 (n : Nat) : Nat := (n + 159) / 160 * 160

/-- DORMANT_REF_RETURN (R327): Snowdrop counts REF10M again from its holdover count rounded up to a multiple of 160;
civil time follows RC64 (R333), and HOLDOVER stays set. -/
def execDormantRefReturn (s : State) : Host.Outcome State Fault Refusal :=
  if modeOf s = .dormant ∧ s.time.refPresent = false then
    .next (setTime s (fun t =>
      { t with refPresent := true, rc64 := up160 t.rc64, civil := t.civil + (up160 t.rc64 - t.rc64) * t.inc }))
  else .next s

/-- The offset e of a capture: NSEC, or NSEC − 10⁹ from half a second on (R332). -/
def ppsOffset (ts : Nat) : Int :=
  if bits ts 18 30 < 500000000 then (bits ts 18 30 : Int) else (bits ts 18 30 : Int) - 1000000000

/-- The lock rule at a valid capture with offset e (R332). -/
def lockUpdate (s : State) (e : Int) : State :=
  if e.natAbs ≤ rd s Obj.TIM_REF.LOCK_NS then
    let s1 := setTime s (fun t => { t with lockRun := t.lockRun + 1 })
    if flag s1 Obj.TIM_STATE.VALID && decide (rd s1 Obj.TIM_REF.LOCK_COUNT ≤ s1.time.lockRun) then
      clearFault (wr s1 Obj.TIM_STATE.LOCKED 0 1) 0x0E04 0
    else s1
  else dropLock s

/-- The frame rule at a valid capture: FRAME_OK falls where RC64 is not a multiple of 2,048, with fault 0x0E06 at a
drop (R334). -/
def frameDrift (s : State) : State :=
  if s.time.rc64 % 2048 ≠ 0 ∧ flag s Obj.TIM_PPS.FRAME_OK then
    raise (wr s Obj.TIM_PPS.FRAME_OK 0 0) 0x0E06 0 0 0
  else s

/-- A valid capture at this tick, the second boundary, with the measured lead (R332, R334). -/
def ppsCapture (s : State) (lead : Nat) (edge : Int) : State :=
  let ts := ts96Now s
  let s1 := wr (wr (wr (wr s Obj.TIM_PPS.RC64 0 s.time.rc64) Obj.TIM_PPS.TIME 0 ts)
    Obj.TIM_PPS.COUNT 0 (rd s Obj.TIM_PPS.COUNT + 1)) Obj.TIM_PPS.LEAD 0 lead
  let s2 := clearFault (setTime s1 (fun t => { t with lastValid := some edge })) 0x0E02 0
  let s3 := if s2.time.refPresent && (decide (lead < 8) || decide (152 < lead)) then raise s2 0x0E03 0 0 0 else s2
  let s4 := frameDrift s3
  let e := ppsOffset ts
  let s5 := lockUpdate s4 e
  if s5.time.dormantHold && s5.time.refPresent && decide (e.natAbs ≤ rd s5 Obj.TIM_REF.LOCK_NS) then clearHoldover s5 else s5

/-- An edge is valid where none is held, or where it lies within 100 µs of 1 s after the last valid one (R334). -/
def ppsValid (s : State) (edge : Int) : Bool :=
  match s.time.lastValid with
  | none => true
  | some l => decide ((edge - l - ticksPerSecond).natAbs ≤ 160000)

/-- A filtered PPS edge whose second boundary is this tick, `lead` ticks after the edge; in holdover the boundary is
the tick of the edge and LEAD reads 0 (R334).  At boot the first valid edge starts RC64 with FRAME_OK set (R324).
While the time base is off Snowdrop only keeps or clears LOCKED (R333). -/
def ppsEdge (s : State) (lead : Nat) : State :=
  if s.time.off then
    let ok := match s.time.offEdge with
      | none => true
      | some p => decide (((s.time.rc64 : Int) - (p : Int) - ticksPerSecond).natAbs ≤ 160)
    setTime (if ok then s else dropLock s) (fun t => { t with offEdge := some t.rc64 })
  else
    let l := if s.time.refPresent then lead else 0
    let s0 :=
      if s.time.bootWait then
        wr (setTime s (fun t => { t with rc64 := 0, bootWait := false })) Obj.TIM_PPS.FRAME_OK 0 1
      else s
    let edge : Int := (s0.time.rc64 : Int) - (l : Int)
    if ppsValid s0 edge then ppsCapture s0 l edge
    else raise (bumpSat s0 Obj.TIM_PPS.BAD 0 1) 0x0E03 0 0 0

/-- PPS_LOST (R334): no valid edge for 1.5 s; LOCKED clears and fault 0x0E02 is raised. -/
def execPpsLost (s : State) : Host.Outcome State Fault Refusal :=
  if s.time.lastValid.isSome && !s.time.off then
    .next (raise (dropLock (setTime s (fun t => { t with lastValid := none }))) 0x0E02 0 0 0)
  else .next s

/-- BOOT_PPS_WAIT_TIMEOUT (R324): no valid edge within `PPS_WAIT_MS`; RC64 is 0 at the next REF10M edge and FRAME_OK
is 0. -/
def execBootPpsWaitTimeout (s : State) : Host.Outcome State Fault Refusal :=
  if s.time.bootWait then
    .next (wr (setTime s (fun t => { t with rc64 := 0, bootWait := false })) Obj.TIM_PPS.FRAME_OK 0 0)
  else .next s

/-! ### INC, SET and STEP -/

/-- The first tick whose civil time is at or after a civil time (R339); a target before boot counts as tick 0. -/
def tickOfCivil (s : State) (civil : Int) : Int :=
  (s.time.rc64 : Int) + -((-(civil - (s.time.civil : Int))) / (s.time.inc : Int))

/-- A TS96 as civil time in 2^-32 ns, its flag bits ignored: PSEC is rounded up to the next 2^-32 ns, so that no tick
before the stamped time meets it. -/
def civilOfTs (ts : Nat) : Int :=
  ((bits ts 48 48 * nsSecond + bits ts 18 30 * 4294967296 + (bits ts 8 10 * 4294967296 + 999) / 1000 : Nat) : Int)

/-- Convert comparator c again, where it is civil, armed, still ahead and has not fired since it was armed (R339). -/
def reconvertOne (s : State) (c : Nat) : State :=
  if flag s Obj.TIM_CMP.KIND c && flag s Obj.TIM_CMP.ARM c && decide (mapGet s.time.cmpFired c = 0)
      && decide (diff48 s.time.rc64 (rd s Obj.TIM_CMP.TARGET c) < 0) then
    wr s Obj.TIM_CMP.TARGET c (ofInt 48 (tickOfCivil s (civilOfTs (rd s Obj.TIM_CMP.CIVIL c))))
  else s

/-- Convert every armed civil comparator again, after a change of INC, a SET or a STEP (R339). -/
def civilReconvert (s : State) : State := (List.range 16).foldl reconvertOne s

/-- An accepted write of `TIM_INC` (R330): the value waits for its boundary; a later write replaces it. -/
def incWrite (s : State) (inc whenPps : Nat) : State :=
  setTime (wr (wr (wr s Obj.TIM_INC.INC 0 inc) Obj.TIM_INC.WHEN 0 whenPps) Obj.TIM_INC.PENDING 0 1)
    (fun t => { t with incWait := some (inc, rd s Obj.TIM_PPS.COUNT) })

/-- INC_WRITE (R330): a value outside ±500 ppm is refused with OUT_OF_RANGE and nothing changes. -/
def execIncWrite (inc : Nat) (atPps : Bool) (s : State) : Host.Outcome State Fault Refusal :=
  if Obj.TIM_INC.INC.min ≤ inc ∧ inc ≤ Obj.TIM_INC.INC.max then .next (incWrite s inc (b2n atPps)) else .next s

/-- A change with `atPps` clear applies at a word boundary; one with it set applies at the tick of a second boundary
captured after its acceptance (R330, R331). -/
def atBoundary (s : State) (atPps : Bool) (accepted : Nat) : Bool :=
  if atPps then decide (rd s Obj.TIM_PPS.COUNT ≠ accepted) && decide (rd s Obj.TIM_PPS.RC64 = s.time.rc64)
  else decide (s.time.rc64 % 16 = 0)

/-- INC_APPLY (R330): the waiting value takes effect; civil time at this tick does not change; armed civil comparators
are converted again (R339). -/
def execIncApply (s : State) : Host.Outcome State Fault Refusal :=
  match s.time.incWait with
  | some (v, acc) =>
    if atBoundary s (flag s Obj.TIM_INC.WHEN) acc then
      .next (civilReconvert (wr (setTime s (fun t => { t with inc := v, incWait := none })) Obj.TIM_INC.PENDING 0 0))
    else .next s
  | none => .next s

/-- An accepted operation of `TIM_SET` (R331). -/
def timeOpWrite (s : State) (o : TimeOp) : State :=
  setTime (wr (wr s Obj.TIM_SET.AT 0 (b2n o.atPps)) Obj.TIM_SET.PENDING 0 1) (fun t => { t with opWait := some o })

/-- TIME_SET (R331): a SET to SEC.NSEC waits for its boundary; NSEC of 10⁹ or more is refused. -/
def execTimeSet (sec nsec : Nat) (atPps : Bool) (s : State) : Host.Outcome State Fault Refusal :=
  if nsec < 1000000000 ∧ sec < 2 ^ 48 then
    .next (timeOpWrite (wr (wr s Obj.TIM_SET.SEC 0 sec) Obj.TIM_SET.NSEC 0 nsec)
      ⟨false, sec, nsec, 0, atPps, rd s Obj.TIM_PPS.COUNT⟩)
  else .next s

/-- TIME_STEP (R331): a STEP waits for its boundary; it is refused with NOT_PERMITTED while VALID = 0, and outside
±999,999,999 ns. -/
def execTimeStep (stepNs : Int) (atPps : Bool) (s : State) : Host.Outcome State Fault Refusal :=
  if flag s Obj.TIM_STATE.VALID && decide (stepNs.natAbs < 1000000000) then
    .next (timeOpWrite (wr s Obj.TIM_SET.STEP_NS 0 (ofInt 32 stepNs))
      ⟨true, 0, 0, stepNs, atPps, rd s Obj.TIM_PPS.COUNT⟩)
  else .next s

/-- TIME_OP_APPLY (R331): SET sets civil time with FRAC 0 and VALID; STEP adds its amount; both clear LOCKED, restart
the lock count, and have the civil comparators converted again (R339).  A STEP whose sum lies before the PTP epoch leaves
civil time at 0, which the spec does not give (DESIGN CHOICE, log entry 106). -/
def execTimeOpApply (s : State) : Host.Outcome State Fault Refusal :=
  match s.time.opWait with
  | some o =>
    if atBoundary s o.atPps o.acceptedAt then
      let s1 := wr (setTime s (fun t => { t with opWait := none })) Obj.TIM_SET.PENDING 0 0
      let s2 :=
        if o.isStep then
          setTime s1 (fun t => { t with civil := ((t.civil : Int) + o.stepNs * 4294967296).toNat })
        else
          wr (setTime s1 (fun t => { t with civil := o.sec * nsSecond + o.nsec * 4294967296 })) Obj.TIM_STATE.VALID 0 1
      .next (civilReconvert (dropLock s2))
    else .next s
  | none => .next s

/-! ### Comparators -/

/-- A TS96 that a request carries stands within its bounds: NSEC below 10⁹, PSEC below 1,000, no reserved bit (R8, R12). -/
def ts96Legal (ts : Nat) : Bool :=
  decide (bits ts 18 30 < 1000000000) && decide (bits ts 8 10 < 1000) && decide (bits ts 4 4 = 0)

/-- A write of comparator c as a request gives it: TARGET for an RC64 comparator, CIVIL for a civil one; its TS96 is held
to R8 in either kind. -/
def cmpLegal (s : State) (w : CmpWrite) : Bool :=
  decide (w.action ≤ 6) && (decide (w.period = 0) || (decide (1600 ≤ w.period) && decide (w.period < 2 ^ 47)))
    && ts96Legal w.civil
    && (!w.civilKind || (flag s Obj.TIM_STATE.VALID
          && decide (tickOfCivil s (civilOfTs w.civil) - (s.time.rc64 : Int) < 2 ^ 47)))

/-- Store a comparator: a civil target is converted, and an arming records RC64 (R336, R339); the write is in effect from
the next word on (R340, R349). -/
def cmpWrite (s : State) (c : Nat) (w : CmpWrite) : State :=
  let target := if w.civilKind then ofInt 48 (tickOfCivil s (civilOfTs w.civil)) else w.target
  let s1 := wr (wr (wr (wr (wr (wr (wr s Obj.TIM_CMP.TARGET c target) Obj.TIM_CMP.ACTION c w.action)
    Obj.TIM_CMP.KIND c (b2n w.civilKind)) Obj.TIM_CMP.ARM c (b2n w.arm)) Obj.TIM_CMP.ARG c w.arg)
    Obj.TIM_CMP.PERIOD c w.period) Obj.TIM_CMP.CIVIL c w.civil
  let s2 := setTime s1 (fun t => { t with cmpFrom := mapSet t.cmpFrom c (t.rc64 / 16 + 1) })
  if w.arm then
    setTime s2 (fun t => { t with cmpArmed := mapSet t.cmpArmed c t.rc64, cmpFired := mapSet t.cmpFired c 0 })
  else s2

/-- TIM_CMP_WRITE (R340, R349): a legal write takes effect; an illegal one is refused and changes nothing. -/
def execTimCmpWrite (c : Fin 16) (w : CmpWrite) (s : State) : Host.Outcome State Fault Refusal :=
  if cmpLegal s w then .next (cmpWrite s c w) else .next s

/-- The first tick of the word that holds this tick. -/
def wordStart (s : State) : Nat := s.time.rc64 / 16 * 16

/-- Comparator c fires in this word: armed by a write of an earlier word, and RC64 reaches TARGET within it, or has run
2⁴⁷ ticks past its arming (R336, R340); never while the time base is off (R338). -/
def cmpDue (s : State) (c : Nat) : Bool :=
  !s.time.off && flag s Obj.TIM_CMP.ARM c && decide (mapGet s.time.cmpFrom c ≤ s.time.rc64 / 16)
    && (decide (0 ≤ diff48 (wordStart s + 15) (rd s Obj.TIM_CMP.TARGET c))
        || decide (mapGet s.time.cmpArmed c + 2 ^ 47 ≤ s.time.rc64))

/-- How far the fire tick lies past TARGET.  After 2⁴⁷ ticks from the arming the 48 bits no longer tell, and the full RC64
of the arming does (R336). -/
def cmpPast (s : State) (c : Nat) : Int :=
  let a := mapGet s.time.cmpArmed c
  if a + 2 ^ 47 ≤ s.time.rc64 then (wordStart s : Int) - a + diff48 a (rd s Obj.TIM_CMP.TARGET c)
  else diff48 (wordStart s) (rd s Obj.TIM_CMP.TARGET c)

/-- A fire is LATE when the fire tick lies more than 320 ticks after TARGET (R338). -/
def cmpLate (s : State) (c : Nat) : Bool := decide (320 < cmpPast s c)

/-- The tick an action uses: TARGET, or the fire tick of a LATE fire (R337), as a full RC64 value. -/
def cmpActionTick (s : State) (c : Nat) : Nat :=
  if cmpLate s c then wordStart s else ((wordStart s : Int) - cmpPast s c).toNat

/-- An action or a period that was not applied: counted in MISSED, with fault 0x0E05 (R337, R338). -/
def cmpMissed (s : State) (c k : Nat) : State :=
  let s1 := bumpSat s Obj.TIM_CMP.MISSED c k
  raise s1 0x0E05 c c (rd s1 Obj.TIM_CMP.MISSED c)

/-- What a fire does to the comparator itself: FIRED, LATE with its fault, and then the end of a one-shot or the next
period that is still ahead, the passed ones counted in MISSED (R336, R338).  A comparator that stays armed is armed anew:
the full RC64 of the fire is its record (R336; DEDUCED, log entry 128). -/
def cmpAfterFire (s : State) (c : Nat) (late : Bool) : State :=
  let s1 := wr (wr s Obj.TIM_CMP.FIRED c 1) Obj.TIM_CMP.LATE c (b2n late)
  let s2 := setTime s1 (fun t => { t with cmpFired := mapSet t.cmpFired c 1 })
  let s3 := if late then raise s2 0x0E05 c c (rd s2 Obj.TIM_CMP.MISSED c) else s2
  let period := rd s3 Obj.TIM_CMP.PERIOD c
  if period = 0 then wr s3 Obj.TIM_CMP.ARM c 0
  else
    let s4 := setTime s3 (fun t => { t with cmpArmed := mapSet t.cmpArmed c t.rc64 })
    let next := rd s3 Obj.TIM_CMP.TARGET c + period
    let behind := cmpPast s c + 15 - (period : Int)
    if behind < 0 then wr s4 Obj.TIM_CMP.TARGET c next
    else
      let skipped := behind.toNat / period + 1
      cmpMissed (wr s4 Obj.TIM_CMP.TARGET c (next + skipped * period)) c skipped

/-- One tick of 625 ps in which nothing happens (R325, R328): RC64 and civil time advance (DESIGN CHOICE, log entry 2). -/
def idleTick (s : State) : State :=
  setTime s (fun t => { t with rc64 := t.rc64 + 1, civil := t.civil + t.inc })

end Sys2Proof.Machine
end

