-- ==== Sys2Proof/Machine/Jobs.lean ====
section
/-! DEFINITION. Compression jobs: COMPRESS, DECOMPRESS, LOG_READ, the engines (R261 to R270, R391 to R393). -/

namespace Sys2Proof.Machine

/-- Change the compression engines. -/
def setCmp (s : State) (f : Compression → Compression) : State := { s with cmp := f s.cmp }

/-- B(n) of R262. -/
def deflateBound (n : Nat) (zlib : Bool) : Nat := n + 5 * max 1 ((n + 32767) / 32768) + 6 * b2n zlib

/-- The queue of an engine holds 16 jobs (R266). -/
def engineFull (s : State) (e : Nat) : Bool := decide (16 ≤ (nth s.cmp.queues e []).length)

/-- A job joins the queue of its engine. -/
def queueJob (s : State) (j : CompressJob) : State :=
  setCmp (clockStarts (domUp s 3 (if j.engine = 0 then 338 else 339)) 11) (fun c =>
    { c with queues := upd c.queues j.engine (fun q => q ++ [j]) })

/-- An engine has no job. -/
def engineIdle (s : State) (e : Nat) : Bool := (nth s.cmp.queues e []).isEmpty && (nth s.cmp.running e none).isNone

/-- An engine without a job is powered down where it is on demand (R29). -/
def engineRests (s : State) (d : Nat) : State :=
  if (if d = 338 then engineIdle s 0 else engineIdle s 1 && engineIdle s 2) then demandDown s d else s

/-- A job starts with the values of `CMP_DEFL` and `CMP_INFL` of this moment (R270, R391, R392). -/
def jobStarted (s : State) (j : CompressJob) : CompressJob :=
  { j with
    level := if j.level = 0 then rd s Obj.CMP_DEFL.LEVEL else j.level,
    wrap := if j.wrap = 2 then rd s Obj.CMP_DEFL.ZLIB else j.wrap,
    ratioMax := rd s Obj.CMP_INFL.RATIO_MAX, outMax := rd s Obj.CMP_INFL.OUT_MAX_KIB * 1024 }

/-- COMPRESSION_JOB_START (R17, R266): the engine is ON and free, and its oldest job starts. -/
def execCompressionJobStart (e : Fin 3) (s : State) : Host.Outcome State Fault Refusal :=
  match nth s.cmp.running e none, nth s.cmp.queues e [] with
  | none, j :: rest =>
    if domOn s (if e.val = 0 then 338 else 339) then
      .next (setCmp s (fun c =>
        { c with queues := upd c.queues e (fun _ => rest), running := upd c.running e (fun _ => some (jobStarted s j)) }))
    else .next s
  | _, _ => .next s

/-- What a job ends with: STATUS, CONSUMED, output, CRC-32C of the uncompressed data, void blocks, illegal blocks. -/
structure JobEnd where
  status : Nat
  consumed : Nat
  out : Bytes
  crc : Nat
  void : Nat
  illegal : Nat
  deriving DecidableEq, Repr

/-- The blocks of a fixed-mode input. -/
def fixedBlocks (code : Nat) : Nat → Bytes → List DecodedBlock
  | 0, _ => []
  | fuel + 1, b =>
    if b.isEmpty then [] else decodeBlock code b :: fixedBlocks code fuel (b.drop (blockBytes code))

/-- The 130 bytes of a decoded block (R261, R393). -/
def DecodedBlock.out (d : DecodedBlock) : Bytes := (d.samples.map (fun x => leBytes 2 (ofInt 16 x))).flatten ++ [b2n d.void, 0]

/-- A stream of inflate mode carries the zlib wrapper: its first byte names CM = 8 (R264; DEDUCED, log entry 62). -/
def wrapped (b : Bytes) : Bool := decide (leAt b 0 1 % 16 = 8)

/-- What a running job ends with (R261 to R265). -/
def jobEnd (j : CompressJob) : JobEnd :=
  match j.engine with
  | 0 =>
    ⟨0, j.input.length, deflateStream j.level (j.wrap = 1) j.input, crc32c j.input, 0, 0⟩
  | 1 =>
    let r := inflate (wrapped j.input) ⟨min j.limit j.outMax, some j.ratioMax⟩ j.input
    ⟨r.1, r.2.1, r.2.2, crc32c r.2.2, 0, 0⟩
  | _ =>
    let ds := fixedBlocks j.code (j.input.length + 1) j.input
    let all := (ds.map DecodedBlock.out).flatten
    let lim := min j.limit j.outMax
    let n := if lim < all.length then lim / 130 + 1 else ds.length
    let out := all.take lim
    ⟨if lim < all.length then 0x22 else 0, n * blockBytes j.code, out, crc32c out,
     ((ds.take n).filter (fun d => d.void)).length, ((ds.take n).filter (fun d => d.formatError)).length⟩

/-- The faults and counters of a job that ends (R261, R264, R265, R270). -/
def jobCounts (s : State) (j : CompressJob) (e : JobEnd) : State :=
  let s1 := if j.engine = 0 then bump s Obj.CMP_STATUS.DEFL_JOBS 0 1 else bump s Obj.CMP_STATUS.INFL_JOBS 0 1
  let n := rd s1 (if j.engine = 0 then Obj.CMP_STATUS.DEFL_JOBS else Obj.CMP_STATUS.INFL_JOBS)
  let s2 := if e.illegal = 0 then s1 else
    (List.range e.illegal).foldl (fun t _ => raise (bump t Obj.CMP_STATUS.FR_FORMAT 0 1) 0x0B03 0 n 0) s1
  match e.status with
  | 0x22 => raise (bump s2 Obj.CMP_STATUS.INFL_LIMIT 0 1) 0x0B04 0 n 0
  | 0x20 | 0x21 => raise (bump s2 Obj.CMP_STATUS.INFL_ERROR 0 1) 0x0B05 0 n 0
  | _ => s2

/-- A job delivers its output, as one record to its ring, and its command commits (R391 to R393). -/
def jobDelivered (s : State) (j : CompressJob) (e : JobEnd) : State :=
  if j.header.isEmpty then
    let s1 := if e.out.isEmpty then s else ringSend s j.ring e.out
    commit s1 j.owner e.status (leBytes 4 e.consumed ++ leBytes 4 e.out.length ++ leBytes 4 e.crc ++ leBytes 4 e.void)
  else
    let whole := trailed (j.header ++ e.out)
    commit (ringSend s j.ring whole) j.owner 0 (leBytes 4 (leAt j.header 8 4) ++ leBytes 4 whole.length ++ leBytes 4 e.crc)

/-- COMPRESSION_JOB_END (R266): while the engine's domain cycles after a latch-up the work waits (R452). -/
def execCompressionJobEnd (e : Fin 3) (s : State) : Host.Outcome State Fault Refusal :=
  match nth s.cmp.running e none with
  | none => .next s
  | some j =>
    if domCycling s (if e.val = 0 then 338 else 339) then .next s
    else
      let s1 := setCmp s (fun c => { c with running := upd c.running e (fun _ => none) })
      .next (engineRests (jobDelivered (jobCounts s1 j (jobEnd j)) j (jobEnd j)) (if j.engine = 0 then 338 else 339))

/-- A transition powers compression down (R268): the running jobs end with fault 0x0B06, the waiting ones after them. -/
def jobsAborted (s : State) : State :=
  let s1 := (s.cmp.running.filterMap id).foldl (fun t j =>
    let f := drawFree (raise t 0x0B06 0 j.owner 0)
    commit f.2 j.owner 0x23 (leBytes (if j.header.isEmpty then 16 else 12) f.1)) s
  let s2 := s.cmp.queues.flatten.foldl (fun t j => commit t j.owner 0x23 (leBytes (if j.header.isEmpty then 16 else 12) 0)) s1
  setCmp s2 (fun c => { c with queues := c.queues.map (fun _ => []), running := c.running.map (fun _ => none) })

/-- VERIFY_RECURRING (R269): 10 s without a verify failure clear fault 0x0B02. -/
def execVerifyRecurring (s : State) : Host.Outcome State Fault Refusal :=
  if 10 * ticksPerSecond ≤ s.time.rc64 - s.cmp.lastFail then .next (clearFault s 0x0B02 0) else .next s

/-! ### The commands -/

/-- The check of a COMPRESS (R392, R370). -/
def compressCheck (s : State) (p : Bytes) : Nat :=
  let wrap := leAt p 1 1
  let zlib := wrap == 1 || (wrap == 2 && flag s Obj.CMP_DEFL.ZLIB)
  if (leAt p 2 1 < 64 ∧ ringIs s (leAt p 2 1) 2 = false) ∨ (leAt p 3 1 < 64 ∧ ringIs s (leAt p 3 1) 1 = false) then 0x0002
  else if 9 < leAt p 0 1 ∨ 2 < wrap ∨ 63 < leAt p 2 1 ∨ 63 < leAt p 3 1 ∨ leAt p 4 4 = 0 ∨ 2 ^ 31 < leAt p 4 4 then 0x0001
  else if engineFull s 0 then 0x0006
  else if leAt p 8 4 < deflateBound (leAt p 4 4) zlib then 0x0007
  else 0

/-- A ring that a command names has stopped (R373 RING_ERROR). -/
def ringStopped (s : State) (r : Nat) : Bool := flag s Obj.MOV_RING_STATUS.ERROR r

/-- A command that takes bytes of an H2D ring begins to run: the bytes leave the ring. -/
def startWithData (s : State) (m ring n : Nat) : State :=
  h2dTake (setHead s m (fun x => { x with started := true })) ring n

/-- COMPRESS (R392): the job joins the DEFLATE queue with the bytes that the source ring delivers. -/
def execCompress (m : Fin 8) (data : List Nat) (s : State) : Host.Outcome State Fault Refusal :=
  runCommand s m 0x40 (fun r =>
    let p := r.payload
    let st := compressCheck s p
    if st ≠ 0 then commit s m st []
    else if ringStopped s (leAt p 2 1) || ringStopped s (leAt p 3 1) then commit s m 0x0009 (leBytes 16 0)
    else
      let b := (padTo (leAt p 4 4) (data.map (· % 256))).take (leAt p 4 4)
      queueJob (startWithData s m (leAt p 2 1) b.length)
        ⟨0, m, leAt p 3 1, [], leAt p 0 1, leAt p 1 1, 0, b, leAt p 8 4, 0, 0⟩)

/-- The check of a DECOMPRESS (R393, R370). -/
def decompressCheck (s : State) (p : Bytes) : Nat :=
  let mode := leAt p 0 1
  let code := leAt p 1 1
  if (leAt p 2 1 < 64 ∧ ringIs s (leAt p 2 1) 2 = false) ∨ (leAt p 3 1 < 64 ∧ ringIs s (leAt p 3 1) 1 = false) then 0x0002
  else if 1 < mode ∨ (mode = 0 ∧ code ≠ 0) ∨ (mode = 1 ∧ (code = 0 ∨ 3 < code)) ∨ 63 < leAt p 2 1 ∨ 63 < leAt p 3 1
      ∨ leAt p 4 4 = 0 ∨ 2 ^ 31 < leAt p 4 4 ∨ (mode = 1 ∧ leAt p 4 4 % blockBytes code ≠ 0) then 0x0001
  else if engineFull s (1 + mode) then 0x0006
  else 0

/-- DECOMPRESS (R393). -/
def execDecompress (m : Fin 8) (data : List Nat) (s : State) : Host.Outcome State Fault Refusal :=
  runCommand s m 0x41 (fun r =>
    let p := r.payload
    let st := decompressCheck s p
    if st ≠ 0 then commit s m st []
    else if ringStopped s (leAt p 2 1) || ringStopped s (leAt p 3 1) then commit s m 0x0009 (leBytes 16 0)
    else
      let b := (padTo (leAt p 4 4) (data.map (· % 256))).take (leAt p 4 4)
      queueJob (startWithData s m (leAt p 2 1) b.length)
        ⟨1 + leAt p 0 1, m, leAt p 3 1, [], 0, 0, leAt p 1 1, b, leAt p 8 4, 0, 0⟩)

/-- The entries of a log (R391, R449). -/
def logEntries (s : State) (source : Nat) : List LogEntry := if source = 0 then s.flt.retained else s.flt.region

/-- LOG_READ (R268, R391): the record is stored at once, or coded by a DEFLATE job, in modes that have compression. -/
def execLogRead (m : Fin 8) (s : State) : Host.Outcome State Fault Refusal :=
  runCommand s m 0x32 (fun r =>
    let p := r.payload
    let source := leAt p 0 1
    let coding := leAt p 1 1
    let ring := leAt p 3 1
    if (ring < 64 ∧ ringIs s ring 1 = false) ∨ (0 < coding ∧ coding < 3 ∧ (modeOf s = .image ∨ modeOf s = .beam)) then
      commit s m 0x0002 []
    else if 1 < source ∨ 2 < coding ∨ 9 < leAt p 2 1 ∨ 63 < ring then commit s m 0x0001 []
    else if coding ≠ 0 && engineFull s 0 then commit s m 0x0006 []
    else
      let es := logEntries s source
      let raw := (es.map LogEntry.bytes).flatten
      let header := [0x4C, 0x4F, 0x47, 0x52, source, coding, 0, 0] ++ leBytes 4 es.length ++ leBytes 4 raw.length
      if coding = 0 then
        let whole := trailed (header ++ raw)
        commit (ringSend s ring whole) m 0 (leBytes 4 es.length ++ leBytes 4 whole.length ++ leBytes 4 (crc32c raw))
      else
        queueJob (setHead s m (fun x => { x with started := true }))
          ⟨0, m, ring, header, leAt p 2 1, coding - 1, 0, raw, 2 ^ 40, 0, 0⟩)

end Sys2Proof.Machine
end

