-- ==== Sys2Proof/Machine/Queues.lean ====
section
/-! DEFINITION. The credit queues of R280 as the blocks hold them: packets, consumers, work of a block
(R14 to R17, `01_architecture.md`; R280, `13_data_movement_and_queues.md`). -/

namespace Sys2Proof.Machine

/-- A queue whose packets State holds where they wait; the slots of the others are counted (R16). -/
def queueHeld (q : Nat) : Bool := [4, 5, 6, 8, 9, 10, 11, 15].contains q

/-- The slots in use of queue q; `which` is the port of queues 9 and 10. -/
def queueUsed (s : State) (q which : Nat) : Nat :=
  match q with
  | 4 => s.trg.queue.length
  | 5 => queue5 s
  | 6 => s.cmp.coder.length
  | 8 => s.dah.dumps.length
  | 9 => sendsFor s (which / 4)
  | 10 => (axPortOf s which).queue10.length
  | 11 => s.conc.out.length
  | 15 => s.notes.queue.length
  | _ => mapGet s.mov.used q

/-- The domains of the consumer of queue q (R280, R404); `which` is the port of queues 9 and 10, the engine of queue
14. -/
def queueDoms (s : State) (q which : Nat) : List Nat :=
  match q with
  | 0 => domRange 89 92
  | 1 => domRange 81 88
  | 2 => if modeOf s = .peer then [159] else domRange 306 321
  | 3 => domRange 161 176
  | 4 | 5 | 7 => domRange 93 94
  | 6 => [337]
  | 8 | 11 => [343]
  | 9 => [344 + which % 16]
  | 10 => [if modeOf s = .concentrate then 160 else 159]
  | 12 | 13 => [342]
  | 14 => [338 + which % 2]
  | _ => [370]

/-- The block of the consumer of queue q (R9). -/
def queueBlock (s : State) (q which : Nat) : Nat := domBlock ((queueDoms s q which).headD 0)

/-- A running command of one of these opcodes. -/
def runsOp (s : State) (ops : List Nat) : Bool :=
  s.ctl.mailboxes.any (fun x => x.queue.head?.any (fun r => r.started && ops.contains r.opcode))

/-- The input queue of the block of domain d holds a packet (R17). -/
def inputWaits (s : State) (d : Nat) : Bool :=
  match domBlock d with
  | 6 => !s.trg.queue.isEmpty || decide (queue5 s ≠ 0)
  | 7 => s.dah.started && !(s.chz.full.isEmpty && s.peer.full.isEmpty)
  | 8 => !s.peer.input.isEmpty || s.axl.ports.any (fun p => !p.queue10.isEmpty)
  | 9 => decide (mapGet s.mov.used 3 ≠ 0)
  | 10 => inBanks (306, 321) d && decide (mapGet s.mov.used 2 ≠ 0)
  | 11 =>
    if d = 337 then !s.cmp.coder.isEmpty
    else if d = 338 then !(nth s.cmp.queues 0 []).isEmpty
    else !(nth s.cmp.queues 1 []).isEmpty || !(nth s.cmp.queues 2 []).isEmpty
  | 12 =>
    if d = 342 then decide (mapGet s.mov.used 12 ≠ 0) || decide (mapGet s.mov.used 13 ≠ 0)
    else if d = 343 then !(s.dah.dumps.isEmpty && s.conc.out.isEmpty)
    else false
  | _ => false

/-- The block of domain d holds state that it must keep (R408): an unconverted window, a fragment in TRANSFER, a Dahlia
closing pass. -/
def mustKeep (s : State) (d : Nat) : Bool :=
  if inBanks (48, 63) d then !s.bbl.windows.isEmpty
  else if inBanks (93, 94) d then s.evt.frags.any (fun f => f.state == .transfer)
  else if inBanks (95, 158) d then s.dah.closing
  else false

/-- A core-domain block has work (R14): its input queue holds a packet, it holds a packet in progress, or a command of
Ronec firmware to it is outstanding (INTEG_STOP to Dahlia, COMPRESS and DECOMPRESS to compression, the commands with bulk
data to data movement and the store). -/
def blockWorks (s : State) (block : Nat) : Bool :=
  match block with
  | 6 => inputWaits s 93 || !s.evt.feed.isEmpty || s.evt.frags.any (fun f => f.state == .building)
  | 7 => inputWaits s 95 || !s.dah.toQueue.isEmpty || s.dah.closing || runsOp s [0x21]
  | 8 =>
    inputWaits s 159 || !(s.peer.sends.isEmpty && s.peer.buffers.isEmpty && s.conc.opened.isEmpty && s.conc.ready.isEmpty)
  | 9 => inputWaits s 161 || !s.sun.input.isEmpty
  | 10 => inputWaits s 306 || runsOp s [0x12, 0x13, 0x23, 0x40, 0x41]
  | 11 =>
    inputWaits s 337 || inputWaits s 338 || inputWaits s 339 || decide (mapGet s.mov.used 14 ≠ 0)
      || s.cmp.running.any Option.isSome || runsOp s [0x40, 0x41]
  | 12 =>
    inputWaits s 342 || inputWaits s 343 || s.mov.rings.any (fun r => !r.queue.isEmpty || r.part.isSome)
      || runsOp s [0x12, 0x13, 0x32, 0x40, 0x41, 0x50, 0x51]
  | _ => false

/-- A producer may send into queue q: it holds a credit, and the consumer is ON (R16, R17). -/
def queueOpen (s : State) (q which : Nat) : Bool :=
  decide (queueUsed s q which < queueSlots q) && (queueDoms s q which).all (domOn s)

end Sys2Proof.Machine
end

