-- ==== Sys2Proof/Machine/Power.lean ====
section
/-! DEFINITION. The governor, sleep responses, ballast, operating points and the PMBus
(R404 to R418, R426, `18_power_and_energy.md`). -/

namespace Sys2Proof.Machine

/-! ### The governor (R410, R411, R413) -/

/-- An up-step that the ceiling holds back (R411). -/
def heldByCeil (s : State) (p : Paced) : Bool :=
  p.up && decide ((rd s Obj.PWR_GOV.CEIL * 100 : Nat) < s.pwr.est + ((min 10 p.left : Nat) : Int))

/-- The oldest request of a class that a test admits. -/
def firstOf (q : List Paced) (cls : Nat) (p : Paced → Bool) : Option Paced := q.find? (fun x => x.cls == cls && p x)

/-- Whose segment is next (R413): the highest waiting class, its oldest request; an up-step held by the ceiling lets
down-steps of every class pass and no lower up-step. -/
def nextGrant (s : State) : Option Paced :=
  let cls := (List.range 5).find? (fun c => s.pwr.queue.any (fun p => p.cls == c + 1))
  match cls with
  | none => none
  | some c =>
    match firstOf s.pwr.queue (c + 1) (fun p => !heldByCeil s p && (!p.up ||
        !(s.pwr.queue.any (fun x => x.cls == c + 1 && heldByCeil s x)))) with
    | some p => some p
    | none => (List.range 5).findSome? (fun k => firstOf s.pwr.queue (k + 1) (fun p => !p.up))

/-- Volts of a point in mV (R4). -/
def pointMv : Nat → Nat
  | 0 => 800 | 1 => 700 | 2 => 620 | 3 => 550 | _ => 500

/-- A regulator is bound to a rail: its entry names the rail, its address answered the boot scan (R416). -/
def boundTo (s : State) (rail : Nat) : Option Nat :=
  (List.range 8).find? (fun r =>
    rd s Obj.PWR_REG.RAIL r == rail && rd s Obj.PWR_REG.ADDR r != 0
      && bit (rd s Obj.PWR_FOUND.FOUND) (rd s Obj.PWR_REG.ADDR r))

/-- VOUT_COMMAND to the regulator of a rail, LINEAR16 with the exponent of its entry (R418). -/
def vout (s : State) (rail mv : Nat) : State :=
  match boundTo s rail with
  | some r =>
    let e := (-(toInt 5 (rd s Obj.PWR_REG.EXP r))).toNat
    emit s (.pmbus (rd s Obj.PWR_REG.ADDR r) 0x21 (mv * 2 ^ e / 1000))
  | none => s

/-- The core clock moves to a point; `THROTTLED` follows, and fault 0x1106 clears at `TARGET` (R416). -/
def setPoint (s : State) (p : Nat) : State :=
  let s1 := wr (wr s Obj.PWR_DVFS.POINT 0 p) Obj.PWR_DVFS.THROTTLED 0 (b2n (decide (rd s Obj.PWR_DVFS.TARGET < p)))
  if p ≤ rd s Obj.PWR_DVFS.TARGET then clearFault s1 0x1106 0 else s1

/-- The step of a point change is granted (R417): a faster point commands the voltage and waits for it; a slower one
moves the clock and then commands the voltage. -/
def pointGranted (s : State) : State :=
  match s.pwr.point with
  | none => s
  | some c =>
    if c.aim < rd s Obj.PWR_DVFS.POINT then
      vout (setPwr s (fun p => { p with point := some { c with granted := true } })) 1 (pointMv c.aim)
    else vout (setPwr (setPoint s c.aim) (fun p => { p with point := none })) 1 (pointMv c.aim)

/-- Ask for a point change, class 5; one runs at a time. -/
def askPoint (s : State) (aim : Nat) : State :=
  let now := rd s Obj.PWR_DVFS.POINT
  if s.pwr.point.isSome || decide (aim = now) then s
  else
    paced (setPwr s (fun p => { p with point := some ⟨aim, false⟩ }))
      ⟨5, 394, decide (aim < now), Config.pointStepMa now aim, .point⟩

/-- A point change has ended: a point faster than `TARGET` or slower than `SLOWEST`, left by a write during it, is
changed again (R416). -/
def pointFollow (s : State) : State :=
  let p := rd s Obj.PWR_DVFS.POINT
  if s.pwr.point.isSome then s
  else if p < rd s Obj.PWR_DVFS.TARGET then askPoint s (rd s Obj.PWR_DVFS.TARGET)
  else if rd s Obj.PWR_DVFS.SLOWEST < p then askPoint s (rd s Obj.PWR_DVFS.SLOWEST)
  else s

/-- The last segment of a request has been granted. -/
def pacedEnds (s : State) (p : Paced) : State :=
  match p.result with
  | .wakes => s
  | .falls st => downEnds s p.dom st
  | .bias st => setDom s p.dom st
  | .parks => wr s Obj.PWR_DOMAIN.PARKED p.dom 1
  | .clocks => s
  | .point => pointFollow (pointGranted s)

/-- Snowdrop has paced every remaining domain down: Dormant is entered whole, `PWRREQ` falls; a wake held meanwhile
waits for `MIN_OFF_MS` (R420, R422). -/
def dormantWhole (s : State) : State :=
  if s.aon.phase = .fallingDown ∧ s.pwr.queue.isEmpty ∧ s.pwr.sleeps.isEmpty then
    emit (setAon (vout s 2 550) (fun a => { a with phase := if a.held = 0 then .asleep else .minOff, pwrReq := false })) (.pin 32 false)
  else s

/-- GOVERNOR_GRANT (R410, R411, R413): the next segment, at most 10 mA, is granted where C covers it; C falls by it,
and the estimate of the current follows. -/
def execGovernorGrant (s : State) : Host.Outcome State Fault Refusal :=
  match nextGrant s with
  | none => .next s
  | some p =>
    let seg := min 10 p.left
    let s0 := accrue s
    if (seg : Int) * 16000 ≤ s0.pwr.credit then
      let s1 := setPwr (bump (if p.result = .wakes then domWakes s0 p.dom else s0) Obj.PWR_STATUS.SEGMENTS 0 1) (fun q =>
        { q with credit := q.credit - (seg : Int) * 16000,
                 est := q.est + (if p.up then (seg : Int) else -(seg : Int)),
                 queue := if p.left ≤ 10 then q.queue.erase p
                   else updFirst (fun x => x == p) (fun x => { x with left := x.left - 10 }) q.queue })
      .next (dormantWhole (if p.left ≤ 10 then pacedEnds s1 p else s1))
    else .next s

/-! ### Sleep responses (R408, R409) -/

/-- The sleep request of a domain. -/
def sleepOf (s : State) (d : Nat) : Option SleepReq := s.pwr.sleeps.find? (fun x => x.dom == d)

/-- Change the sleep request of a domain. -/
def setSleep (s : State) (d : Nat) (f : SleepReq → SleepReq) : State :=
  setPwr s (fun p => { p with sleeps := updFirst (fun x => x.dom == d) f p.sleeps })

/-- SLEEP_ACK (R17, R408, R409): the block has processed the packets of its input queue and, outside the DOWN phase of a
transition, holds nothing that it must keep; isolation is asserted and the down-steps are paced; HELD ends and fault 0x1101
clears.  A bank on its way to RETAIN has written its canary (R249). -/
def execSleepAck (d : Fin 394) (s : State) : Host.Outcome State Fault Refusal :=
  match sleepOf s d with
  | none => .next s
  | some q =>
    if q.refused || inputWaits s d || (decide (q.cls ≠ 2) && mustKeep s d) then .next s
    else
      let s1 := setPwr (wr s Obj.PWR_DOMAIN.HELD d 0) (fun p => { p with sleeps := p.sleeps.filter (fun x => x.dom != d.val) })
      let s2 := clearFault s1 0x1101 d
      .next (paced (if domState s2 d = 2 then setDom s2 d 3 else s2)
        ⟨q.cls, d, false, Config.stepMa d, .falls q.target⟩)

/-- SLEEP_DEFER (R408): work still drains; the controller asks again. -/
def execSleepDefer (d : Fin 394) (s : State) : Host.Outcome State Fault Refusal :=
  match sleepOf s d with
  | none => .next s
  | some q =>
    if q.refused then .next s
    else .next (setSleep (bumpSat s Obj.PWR_DOMAIN.DEFERS d 1) d (fun x => { x with deferred := true }))

/-- SLEEP_REFUSE (R408, R409): the request is withdrawn, and the domain is ON; never inside the DOWN phase of a
transition. -/
def execSleepRefuse (d : Fin 394) (s : State) : Host.Outcome State Fault Refusal :=
  match sleepOf s d with
  | none => .next s
  | some q =>
    if q.cls = 2 ∨ q.refused then .next s
    else .next (setSleep (staysOn s d) d (fun x => { x with refused := true }))

/-- SLEEP_RETRY (R408): the request is sent again, after a DEFER or when the reason of a REFUSE has cleared. -/
def execSleepRetry (d : Fin 394) (s : State) : Host.Outcome State Fault Refusal :=
  match sleepOf s d with
  | none => .next s
  | some _ =>
    .next (setSleep (sleepsAgain s d) d (fun x => { x with refused := false }))

/-- SLEEP_STALLED (R409): 20 ms of DEFER; the domain stays ON and HELD, and the controller keeps asking. -/
def execSleepStalled (d : Fin 394) (s : State) : Host.Outcome State Fault Refusal :=
  match sleepOf s d with
  | none => .next s
  | some q =>
    if q.deferred then
      .next (raise (wr (staysOn s d) Obj.PWR_DOMAIN.HELD d 1) 0x1101 d d (Config.stepMa d))
    else .next s

/-! ### Ballast (R412) -/

/-- BALLAST_PARK (R412): `PARK_US` after a clock stop the ballast of a domain of more than 10 mA falls as a paced
down-step, class 4. -/
def execBallastPark (d : Fin 394) (s : State) : Host.Outcome State Fault Refusal :=
  if domOn s d && decide (domBlock d ≠ 0) && bit s.mov.gated (domBlock d) && !flag s Obj.PWR_DOMAIN.PARKED d
      && decide (10 < Config.stepMa d) && s.pwr.queue.all (fun p => !(p.dom == d.val && p.result == .parks)) then
    .next (paced s ⟨4, d, false, Config.stepMa d, .parks⟩)
  else .next s

/-! ### Operating points (R416, R417) -/

/-- DVFS_THROTTLE_STEP (R416): Tj exceeds `THROTTLE_C`, and the governor moves one point slower, never beyond
`SLOWEST`. -/
def execDvfsThrottleStep (s : State) : Host.Outcome State Fault Refusal :=
  let p := rd s Obj.PWR_DVFS.POINT
  if (2 * rd s Obj.PWR_DVFS.THROTTLE_C : Nat) < s.bbl.tj ∧ p < rd s Obj.PWR_DVFS.SLOWEST ∧ s.pwr.point = none then
    .next (raise (askPoint s (p + 1)) 0x1106 0 371 (Config.stepMa 371))
  else .next s

/-- DVFS_RECOVER_STEP (R416): Tj is below `THROTTLE_C` − 5 °C, and the governor moves one point faster, up to
`TARGET`. -/
def execDvfsRecoverStep (s : State) : Host.Outcome State Fault Refusal :=
  let p := rd s Obj.PWR_DVFS.POINT
  if s.bbl.tj < 2 * (rd s Obj.PWR_DVFS.THROTTLE_C : Nat) - 10 ∧ rd s Obj.PWR_DVFS.TARGET < p ∧ s.pwr.point = none then
    .next (askPoint s (p - 1))
  else .next s

/-- THERMAL_LIMIT (R416): at `SLOWEST`, Tj has been above 100 °C for 100 ms: fault 0x1107, and Idle by R40. -/
def execThermalLimit (s : State) : Host.Outcome State Fault Refusal :=
  if rd s Obj.PWR_DVFS.POINT = rd s Obj.PWR_DVFS.SLOWEST ∧ 200 < s.bbl.tj then .next (raise s 0x1107 0 371 (Config.stepMa 371))
  else .next s

/-- READ_VOUT_POLL (R417): during a change to a faster point the clock moves once the voltage is within 10 mV. -/
def execReadVoutPoll (mv : Nat) (s : State) : Host.Outcome State Fault Refusal :=
  match s.pwr.point with
  | some c =>
    if c.granted ∧ pointMv c.aim ≤ mv + 10 then .next (pointFollow (setPwr (setPoint s c.aim) (fun p => { p with point := none })))
    else .next s
  | none => .next s

/-- VOUT_TIMEOUT (R417): READ_VOUT has not arrived in 2 ms: the old voltage and the old point hold. -/
def execVoutTimeout (s : State) : Host.Outcome State Fault Refusal :=
  match s.pwr.point with
  | some c =>
    if c.granted then
      .next (raise (vout (setPwr s (fun p => { p with point := none })) 1 (pointMv (rd s Obj.PWR_DVFS.POINT)))
        0x1104 0 371 (Config.stepMa 371))
    else .next s
  | none => .next s

/-- PMBUS_POLL (R418): the answer of regulator r, STATUS_WORD and READ_VOUT in mV, or none for a NACK or PEC error.  A
fault bit is answered with one CLEAR_FAULTS; one still set at the next poll, or three errors in a row, raise fault
0x1105, and a clean poll clears it. -/
def execPmbusPoll (r : Fin 8) (answer : Option (Nat × Nat)) (s : State) : Host.Outcome State Fault Refusal :=
  if s.aon.pwrReq && decide (rd s Obj.PWR_REG.ADDR r ≠ 0) && decide (rd s Obj.PWR_REG.RAIL r ≠ 0)
      && bit (rd s Obj.PWR_FOUND.FOUND) (rd s Obj.PWR_REG.ADDR r) then
    match answer with
    | none =>
      let n := mapGet s.pwr.nacks r + 1
      let s1 := setPwr (bumpSat s Obj.PWR_REG_STATUS.ERRORS r 1) (fun p => { p with nacks := mapSet p.nacks r n })
      .next (if 3 ≤ n then raise s1 0x1105 r r 0 else s1)
    | some (status, mv) =>
      let s1 := wr (wr s Obj.PWR_REG_STATUS.STATUS_WORD r status) Obj.PWR_REG_STATUS.VOUT_MV r mv
      let s2 := setPwr s1 (fun p => { p with nacks := mapSet p.nacks r 0 })
      if rd s1 Obj.PWR_REG_STATUS.STATUS_WORD r = 0 then
        .next (clearFault (setPwr s2 (fun p => { p with faulty := mapSet p.faulty r 0 })) 0x1105 r)
      else if mapGet s.pwr.faulty r = 0 then
        .next (emit (setPwr s2 (fun p => { p with faulty := mapSet p.faulty r 1 })) (.pmbus (rd s Obj.PWR_REG.ADDR r) 0x03 0))
      else .next (raise s2 0x1105 r r 0)
  else .next s

end Sys2Proof.Machine
end

