-- ==== Sys2Proof/Machine/Mov.lean ====
section
/-! DEFINITION. The bus matrix, the credit queues, the lossy-tail queues, the DMA rings and records on network ports
(R271 to R293, `13_data_movement_and_queues.md`; R14 to R22). -/

namespace Sys2Proof.Machine

/-- Change the movement state. -/
def setMov (s : State) (f : Movement → Movement) : State := { s with mov := f s.mov }

/-! ### The matrix (R271 to R279) -/

/-- The targets of the address map (R271). -/
inductive MatrixTarget where
  | bootWindow | controlSram | bootRom | fieldStore | configBus | alwaysOnBus | host | none
  deriving DecidableEq, Repr

/-- The bus address of a matrix address in the host window (R274). -/
def busAddress (s : State) (a : Nat) : Nat := rd s Obj.MOV_HOSTWIN.BASE + (a - 0x1000000000)

/-- The target of an address; an address whose bus address exceeds 2⁶⁴ − 1 has none (R271, R274). -/
def targetOf (s : State) (a : Nat) : MatrixTarget :=
  if a < 0x10000 then .bootWindow
  else if 0x10000000 ≤ a ∧ a < 0x10100000 then .controlSram
  else if 0x20000000 ≤ a ∧ a < 0x20010000 then .bootRom
  else if 0x100000000 ≤ a ∧ a < 0x114000000 then .fieldStore
  else if 0x200000000 ≤ a ∧ a < 0x210000000 then .configBus
  else if 0x300000000 ≤ a ∧ a < 0x300100000 then .alwaysOnBus
  else if 0x1000000000 ≤ a ∧ a < 0x10000000000 ∧ busAddress s a < 2 ^ 64 then .host
  else .none

/-- A master reaches a target (R271). -/
def reaches (master : Nat) (t : MatrixTarget) (write : Bool) : Bool :=
  match t with
  | .fieldStore => decide (master < 9) || (decide (master = 9) && !write)
  | .controlSram =>
    decide (master = 0) || decide (master = 7) || decide (master = 8) || (decide (master = 9) && !write)
  | .host => decide (master = 0) || decide (master = 8)
  | .none => false
  | _ => decide (master = 0)

/-- What stops a transaction (R22, R272, R273, R275): its cause and its fault. -/
def accessError (s : State) (a : MatrixAccess) : Option (Nat × Nat) :=
  match targetOf s a.addr with
  | .none => some (0, 0x0C01)
  | t =>
    if !reaches a.master t a.write then some (6, 0x0C01)
    else if a.write ∧ (t = .bootRom ∨ (t = .bootWindow ∧ flag s Obj.MOV_MAP.REMAP = false)) then some (1, 0x0C01)
    else if (t = .configBus ∧ a.len ≠ 4 ∧ a.len ≠ 8) ∨ (t = .alwaysOnBus ∧ a.len ≠ 4) then some (2, 0x0C01)
    else if a.write ∧ t = .fieldStore
        ∧ (List.range ((a.addr % 8 + a.len + 7) / 8)).any (fun j => !regionWriter s a.master ((a.addr - 0x100000000) / 8 + j)) then
      some (3, 0x0C02)
    else none

/-- The strobes of a write that fall into word j of the words it touches, and its data there. -/
def wordStrobes (a : MatrixAccess) (j : Nat) : Nat × Nat :=
  (List.range 8).foldl (fun x b =>
    let p := 8 * j + b
    if a.addr % 8 ≤ p ∧ p < a.addr % 8 + a.len ∧ bit a.strobes (p - a.addr % 8) then
      (x.1 + 2 ^ b, x.2 + nth a.data (p - a.addr % 8) 0 % 256 * 2 ^ (8 * b))
    else x) (0, 0)

/-- The bytes of control SRAM behind an address of it or of the boot window. -/
def sramAddr (a : Nat) : Nat := if a < 0x10000 then 0x10000000 + a else a

/-- The write reaches its target (R276, R242): bytes whose strobe is clear stay. -/
def matrixWrite (s : State) (a : MatrixAccess) : State :=
  match targetOf s a.addr with
  | .fieldStore =>
    let s1 := (List.range ((a.addr % 8 + a.len + 7) / 8)).foldl (fun t j =>
      let k := (a.addr - 0x100000000) / 8 + j
      if domOn t (bankDom (bankOfWord k)) then
        storeWord t (masterClass a.master) k (wordStrobes a j).1 (wordStrobes a j).2 (a.poison || t.mov.badWrite) 0
      else t) (clockStarts s 10)
    setMov s1 (fun m => { m with badWrite := false })
  | .bootWindow | .controlSram =>
    { s with mem := memStrobed s.mem (sramAddr a.addr) a.data a.strobes a.len }
  | .host => emit s (.hostWrite (busAddress s a.addr) a.len (ofLe (a.data.take a.len)))
  | _ => s

/-- The data of a read, whether it comes with an error response, the state (R238 to R240, R272); a read of the host is
answered with what the host returns; a register behind a bridge, which the spec does not give (R2), reads a free value. -/
def matrixRead (s : State) (a : MatrixAccess) : Nat × Bool × State :=
  match targetOf s a.addr with
  | .fieldStore =>
    let r := (List.range ((a.addr % 8 + a.len + 7) / 8)).foldl (fun (x : Nat × Bool × State) j =>
      let k := (a.addr - 0x100000000) / 8 + j
      let w := if domOn x.2.2 (bankDom (bankOfWord k)) then readWord x.2.2 (masterClass a.master) k 0
        else (2 ^ 64 - 1, true, x.2.2)
      (x.1 + w.1 % 2 ^ 64 * 2 ^ (64 * j), x.2.1 || w.2.1, w.2.2)) (0, false, clockStarts s 10)
    (bits r.1 (8 * (a.addr % 8)) (8 * a.len), r.2.1, r.2.2)
  | .bootWindow =>
    if flag s Obj.MOV_MAP.REMAP then (ofLe (loadBytes s (sramAddr a.addr) a.len), false, s)
    else (ofLe ((List.range a.len).map (fun j => (Config.bootRom (a.addr + j)).toNat)), false, s)
  | .controlSram => (ofLe (loadBytes s a.addr a.len), false, s)
  | .bootRom => (ofLe ((List.range a.len).map (fun j => (Config.bootRom (a.addr - 0x20000000 + j)).toNat)), false, s)
  | .host => (ofLe (a.data.take a.len), false, s)
  | _ => ((drawFree s).1 % 2 ^ (8 * a.len), false, (drawFree s).2)

/-- The budget share of a master (R279). -/
def budgetShare (master : Nat) : Nat :=
  nth [64, 1024, 512, 256, 128, 256, 256, 128, 1024, 256] master 0

/-- A transaction of a master has run (R279): entries held after it, the most held, waits for an entry. -/
def budget (s : State) (a : MatrixAccess) : State :=
  let held := min (max 1 a.held) (budgetShare a.master + 192)
  let s1 := wr s Obj.MOV_BUDGET.IN_USE a.master (held - 1)
  let s2 := if rd s Obj.MOV_BUDGET.PEAK a.master < held then wr s1 Obj.MOV_BUDGET.PEAK a.master held else s1
  if a.waited then bump s2 Obj.MOV_BUDGET.WAITS a.master 1 else s2

/-- MATRIX_TRANSACTION (R271 to R276, R279): a transaction runs at its target, or the default target answers it with an
error, all ones, and a count. -/
def execMatrixTransaction (a : MatrixAccess) (s : State) : Host.Outcome State Fault Refusal :=
  let s1 := budget s a
  match accessError s a with
  | some e =>
    let s2 := movError s1 e.2 a.master e.1 a.addr
    .next (if a.write then s2 else emit s2 (.readData a.master a.len (2 ^ (8 * a.len) - 1) 1))
  | none =>
    if a.write then .next (matrixWrite s1 a)
    else
      let r := matrixRead s1 a
      .next (emit r.2.2 (.readData a.master a.len r.1 (b2n r.2.1)))

/-- A write burst that is cut short after the bytes that it supplied: they stay, the rest changes nothing (R277, R278). -/
def burstCut (s : State) (a : MatrixAccess) : State :=
  match accessError s a with
  | some _ => s
  | none => if a.write then matrixWrite s a else s

/-- BEAT_TIMEOUT (R277): 256 core cycles without a beat of a write end the burst; the master gets an error. -/
def execBeatTimeout (a : MatrixAccess) (s : State) : Host.Outcome State Fault Refusal :=
  if a.write then .next (movError (burstCut s a) 0x0C04 a.master 4 a.addr) else .next s

/-- RESET_IN_BURST (R278): a master is reset during its burst; its budget entries return. -/
def execResetInBurst (a : MatrixAccess) (s : State) : Host.Outcome State Fault Refusal :=
  .next (wr (movError (burstCut s a) 0x0C03 a.master 5 a.addr) Obj.MOV_BUDGET.IN_USE a.master 0)

/-! ### Credit queues (R14 to R17, R280, R281) -/

/-- A CRC that does not match, of bytes with an error that stands anywhere: any other value (R281). -/
def spoiledCrc (s : State) (crc : Nat) : Nat × State :=
  ((crc + 1 + (drawFree s).1 % (2 ^ 32 - 1)) % 2 ^ 32, (drawFree s).2)

/-- Bytes whose CRC-32C stands 8 bytes before their end, with a CRC that does not match. -/
def spoiled (s : State) (b : Bytes) : Bytes × State :=
  let o := b.length - 8
  let c := spoiledCrc s (leAt b o 4)
  (b.take o ++ leBytes 4 c.1 ++ b.drop (o + 4), c.2)

/-- Change the last element of a list. -/
def updLast {α : Type} (xs : List α) (f : α → α) : List α := upd xs (xs.length - 1) f

/-- The packet just sent into queue q is poisoned: what each queue does with it (R281); `which` names the inputs of a
word or a spectrum, the port of queues 9 and 10, the ring of queue 13. -/
def poisoned (s : State) (q which : Nat) : State :=
  match q with
  | 0 => setMov s (fun m => { m with badWord := m.badWord ||| which % 2 ^ 256 })
  | 1 => setMov s (fun m => { m with badWord := m.badWord ||| which % 2 ^ 256 * 2 ^ 256 })
  | 3 => setMov s (fun m => { m with badSpectrum := m.badSpectrum ||| which % 2 ^ 256 })
  | 4 | 5 | 6 | 7 => setMov s (fun m => { m with badBlock := true })
  | 8 =>
    match s.dah.dumps.getLast? with
    | none => s
    | some d =>
      let b := spoiled s d.trailer
      setDah b.2 (fun x => { x with dumps := updLast x.dumps (fun y => { y with trailer := b.1, poison := true }) })
  | 11 =>
    match s.conc.out.getLast? with
    | none => s
    | some e =>
      let b := spoiled s e.bytes
      setConc b.2 (fun x => { x with out := updLast x.out (fun y => { y with bytes := b.1, poison := true }) })
  | 13 =>
    match (ringOf s which).queue with
    | [] => s
    | r :: _ =>
      let b := spoiled s r.bytes
      setRing b.2 which (fun x => { x with queue := upd x.queue 0 (fun y => { y with bytes := b.1, poison := true }) })
  | 9 =>
    setPeer s (fun p =>
      { p with sends := ((takeFirst (fun x => x.port == which / 4) p.sends.reverse).map (fun r => r.2.reverse)).getD p.sends })
  | 10 => setAxPort s which (fun p => { p with queue10 := p.queue10.take (p.queue10.length - 1) })
  | 15 =>
    noticeLost
      { s with notes := { s.notes with queue := s.notes.queue.take (s.notes.queue.length - 1),
                                       droppedSince := s.notes.droppedSince + 1,
                                       droppedTotal := s.notes.droppedTotal + 1 } }
  | _ => setMov s (fun m => { m with badWrite := true })

/-- A packet takes a slot of queue q, and restarts a gated clock of its consumer (R15, R16).  A packet that State holds
where it waits has taken its slot with the command that sent it. -/
def packetSent (s : State) (q which : Nat) : State :=
  if queueHeld q then s
  else clockStarts (setMov s (fun m => { m with used := mapSet m.used q (mapGet m.used q + 1) })) (queueBlock s q which)

/-- An error in the slot of the packet sent last into queue q (R281): 1 is one bit, 2 more. -/
def slotError (s : State) (q err which : Nat) : State :=
  if err = 0 then s
  else if err = 1 ∧ lv s Obj.MOV_QPROT.PROT q = 1 then raise (bumpSat s Obj.MOV_QPROT.CORRECTED q 1) 0x0C05 q q 0
  else poisoned (raise (bumpSat s Obj.MOV_QPROT.POISONED q 1) 0x0C06 q q 0) q which

/-- QUEUE_PACKET_SEND (R15 to R17, R280, R281): a producer with a credit sends a packet into queue q; `err` is what
becomes of its slot.  The packets of the queues that State holds (4, 5, 6, 8 to 11, 15) are sent by the commands that
produce them: for these the command names the slot of the last one, if there is one (DESIGN CHOICE, log entry 125). -/
def execQueuePacketSend (q : Fin 16) (err : Fin 3) (which : Nat) (s : State) : Host.Outcome State Fault Refusal :=
  if if queueHeld q then decide (0 < queueUsed s q which) else queueOpen s q which then
    .next (slotError (packetSent s q which) q err which)
  else .next s

/-- CREDIT_RETURN (R16, R280): the consumer frees a slot of queue q, and its credit returns to the producer; a spectrum
that waits for it is delivered (R108).  Packets that State holds return their credit with the command that takes them. -/
def execCreditReturn (q : Fin 16) (s : State) : Host.Outcome State Fault Refusal :=
  let s1 := queueFree s q
  if q.val = 2 then .next (drain4 s1.chz.wait4.length s1)
  else if q.val = 3 then .next (drain8 s1.chz.wait8.length s1)
  else .next s1

/-- CLOCK_GATE_STOP (R14): 64 core cycles after its last work the clock of a core-domain block (6 to 12) stops. -/
def execClockGateStop (block : Fin 16) (s : State) : Host.Outcome State Fault Refusal :=
  if 6 ≤ block.val ∧ block.val ≤ 12 ∧ blockWorks s block = false then
    .next (setMov s (fun m => { m with gated := setBit m.gated block true }))
  else .next s

/-! ### Lossy-tail queues (R19, R282, R290) -/

/-- The log entry that 32 bytes spell (R449). -/
def entryOfBytes (b : Bytes) : LogEntry :=
  ⟨leAt b 0 2, leAt b 2 2, leAt b 4 1, leAt b 5 1, leAt b 6 1, leAt b 7 1, leAt b 8 2, leAt b 12 4, leAt b 16 12, leAt b 28 4⟩

/-- LOSSY_TAIL_WRITE (R19, R282): a packet arrives at a lossy-tail queue, over the oldest complete packets where it is
full: 0 the next fragment, 1 a beam frame, 2 a log entry, 3 a housekeeping record. -/
def execLossyTailWrite (q : Fin 4) (packet : List Nat) (s : State) : Host.Outcome State Fault Refusal :=
  let b := packet.map (· % 256)
  match q.val with
  | 0 => .next (reserveNext s)
  | 1 =>
    let s1 := beamPut s (leAt b 6 1) b
    .next (setSun s1 (fun u => { u with lostBefore := satAdd 16 u.lostBefore (beamRoom s.sun.queue b.length).2 }))
  | 2 =>
    let e := entryOfBytes b
    let s1 := { s with flt := { s.flt with region := regionPush s.flt.region e } }
    let lost := s.flt.region.length + 1 - s1.flt.region.length
    .next (logWatched s (lossyLost (lossyShow s1 2 s1.flt.region.length 16384 (rd s Obj.MOV_LOSSY.HIGH_WM 2)) 2 lost))
  | _ => .next (ringRecord s (padTo 16 (b.take 16)))

/-! ### Rings (R283 to R288, R293) -/

/-- RING_DOORBELL (R285): the host writes TAIL; a distance of the whole ring or more stops the ring. -/
def execRingDoorbell (r : Fin 64) (tail : Fin 65536) (s : State) : Host.Outcome State Fault Refusal :=
  let s1 := wr s Obj.MOV_RING_STATUS.TAIL r tail
  if ringRuns s r && decide (ringKind s r ≠ 3) && decide (2 ^ rd s Obj.MOV_RING.SIZE_LOG r ≤ ringOwned s1 r) then
    .next (ringError s1 r)
  else .next s1

/-- The status of a write of KIND (R283, R293, R343): while KIND ≠ 0 only 0 is accepted; NET needs a written template. -/
def kindStatus (s : State) (r kind : Nat) : Nat :=
  if (ringKind s r ≠ 0 ∧ kind ≠ 0) ∨ (kind = 3 ∧ flag s Obj.NET_TEMPLATE.SET (rd s Obj.MOV_RING.TEMPLATE r) = false) then 0x0002
  else 0

/-- A write of KIND that has been accepted. -/
def kindWrite (s : State) (r kind : Nat) : State :=
  if kind = 0 then (if ringKind s r = 0 then s else ringStop s r)
  else if ringKind s r = 0 then ringStart s r kind else s

/-- RING_KIND_WRITE (R283, R285, R293). -/
def execRingKindWrite (r : Fin 64) (kind : Fin 4) (s : State) : Host.Outcome State Fault Refusal :=
  if kindStatus s r kind = 0 then .next (kindWrite s r kind) else .next s

/-- The DMA engine writes bytes at a matrix address of the host window; the default target answers an address without a
bus address (R273, R274). -/
def placeAt (s : State) (a : Nat) (b : Bytes) : State :=
  if b.isEmpty then s
  else if targetOf s a = .host then emit s (.hostWrite (busAddress s a) b.length (ofLe b))
  else movError s 0x0C01 8 0 a

/-- A placed payload goes to its host image (R181): each slice of 1,024 bytes of a visibility record at offset
(j × N_prod + b) × 8, any other payload in one piece. -/
def placePayload (s : State) (d : DumpRecord) : State :=
  if d.stride = 0 then placeAt s (d.base + d.place) d.payload
  else
    (List.range (d.payload.length / 1024)).foldl (fun t m =>
      placeAt t (d.base + d.place + m * d.stride) ((d.payload.drop (1024 * m)).take 1024)) s

/-- The oldest record of a source that is bound for ring r, and the state without it: 1 Dahlia, whose placed payload
goes to its host image first (R181), 2 built events, 3 Sunflower. -/
def pullRecord (s : State) (r src : Nat) : Option (DmaRecord × State) :=
  match src with
  | 1 =>
    match s.dah.dumps with
    | d :: _ =>
      if d.ring = r ∧ d.dest = 0 then some (⟨.plain, d.header ++ d.payload ++ d.trailer, d.poison, 1⟩, dumpTaken s)
      else if d.ring = r ∧ d.dest = 1 then
        some (⟨.plain, d.header ++ d.trailer, d.poison, 1⟩, placePayload (dumpTaken s) d)
      else none
    | [] => none
  | 2 =>
    match s.conc.out with
    | e :: _ =>
      if e.ring = r ∧ e.dest = 0 then some (⟨.plain, e.bytes, e.poison, 1⟩, eventTaken s) else none
    | [] => none
  | 3 =>
    match s.sun.queue with
    | b :: rest =>
      if rd s Obj.SUN_CTRL.DEST = 0 ∧ rd s Obj.SUN_CTRL.RING = r then
        some (⟨.plain, b, false, 1⟩,
          lossyShow (setSun s (fun u => { u with queue := rest })) 1 (beamQueueBytes rest) 1048576 (rd s Obj.MOV_LOSSY.HIGH_WM 1))
      else none
    | [] => none
  | _ => none

/-- The ring with the record of a source at its front; one in progress goes on first, and a ring that stops takes no
other (R283, R293). -/
def withRecord (s : State) (r src : Nat) : State :=
  if (ringOf s r).part.isSome || (ringOf s r).stopping then s
  else
    match pullRecord s r src with
    | some x => setRing x.2 r (fun y => { y with queue := x.1 :: y.queue })
    | none => s

/-- The record at the front of a ring has been written or sent whole (R287). -/
def recordDone (s : State) (r : Nat) (rec : DmaRecord) : State :=
  let s1 := bump (setRing s r (fun x => { x with queue := x.queue.drop 1, part := none })) Obj.MOV_RING_STATUS.RECORDS r 1
  match rec.src with
  | .fragment n => ringSettled (transferEnds s1 n) r
  | .plain => ringSettled s1 r

/-- DMA_RECORD_WRITE (R283, R286, R287): a record goes into the buffers of a D2H ring, as far as fetched descriptors
reach; `src` is the source whose turn it is: 0 fragments and commands, 1 Dahlia, 2 built events, 3 Sunflower. -/
def execDmaRecordWrite (r : Fin 64) (src : Fin 4) (s : State) : Host.Outcome State Fault Refusal :=
  if ringRuns s r && decide (ringKind s r = 1) && !(ringOf s r).descs.isEmpty then
    let s1 := withRecord s r src
    match (ringOf s1 r).queue with
    | [] => .next s1
    | rec :: _ =>
      if rec.kind ≠ 1 then .next s1
      else
      let w := writeRecord 20 s1 r rec ((ringOf s1 r).part.getD 0)
      match w.2 with
      | none => .next (recordDone w.1 r rec)
      | some 0 => .next w.1
      | some n => .next (setRing w.1 r (fun x => { x with part := some n }))
  else .next s

/-- COALESCE_TIMEOUT (R286): `COALESCE_US` have passed since the first byte of the open buffer (1,600 ticks of RC64 per
microsecond): it closes between records, and after the record in progress otherwise. -/
def execCoalesceTimeout (r : Fin 64) (s : State) : Host.Outcome State Fault Refusal :=
  match (ringOf s r).buf with
  | none => .next s
  | some b =>
    if s.time.rc64 < b.openedAt + 1600 * rd s Obj.MOV_RING.COALESCE_US r then .next s
    else if (ringOf s r).part.isSome then .next (setRing s r (fun x => { x with buf := some { b with timeUp := true } }))
    else .next (closeBuffer s r)

/-- A fetched descriptor that obeys R284. -/
def descriptorLegal (addr len ctrl rsv : Nat) : Bool :=
  decide (addr % 64 = 0) && decide (len % 64 = 0) && decide (64 ≤ len) && decide (len ≤ 16777216) && decide (ctrl < 2)
    && decide (rsv = 0)

/-- DESCRIPTOR_FETCH_DONE (R284, R285): the host's half of the next descriptor arrives, or an error status; at most 8
are held.  Bytes that a command still has to take from an H2D ring are taken. -/
def execDescriptorFetchDone (r : Fin 64) (addr len ctrl rsv : Nat) (error : Bool) (s : State) :
    Host.Outcome State Fault Refusal :=
  let k := ringKind s r
  let n := (ringOf s r).descs.length
  if ringRuns s r && (k == 1 || k == 2) && decide (n < 8) && decide (n < ringOwned s r) then
    if error || !descriptorLegal addr len ctrl rsv then .next (ringError s r)
    else
      let s1 := setRing s r (fun x => { x with descs := x.descs ++ [⟨addr, len, bit ctrl 0⟩] })
      .next (if k == 2 && (ringOf s r).part.isSome then h2dTake s1 r 0 else s1)
  else .next s

/-- CPL_TIMEOUT (R285): a read of a ring has had no completion within `CPL_TIMEOUT_MS`. -/
def execCplTimeout (r : Fin 64) (s : State) : Host.Outcome State Fault Refusal :=
  if ringRuns s r && decide (ringKind s r ≠ 3) then .next (ringError s r) else .next s

/-- A record waits for ring r. -/
def recordWaits (s : State) (r : Nat) : Bool :=
  (ringOf s r).queue.any (fun x => x.kind == 1) || (pullRecord s r 1).isSome || (pullRecord s r 2).isSome || (pullRecord s r 3).isSome

/-- RING_NO_BUFFER (R288): a record has waited for a descriptor for more than 1 ms: NO_BUF, and fault 0x0C08 once until
it is acknowledged. -/
def execRingNoBuffer (r : Fin 64) (s : State) : Host.Outcome State Fault Refusal :=
  if ringRuns s r && decide (ringKind s r = 1) && recordWaits s r && (ringOf s r).descs.isEmpty then
    let s1 := ringBit s r Obj.MOV_RING_STATUS.NO_BUF
    .next (if faultActive s 0x0C08 r then s1 else raise s1 0x0C08 r r 0)
  else .next s

/-! ### Records on network ports (R343, R344) -/

/-- NET_RECORD_SEND (R343, R344): the oldest record of a source leaves on its template: 0 to 63 the NET ring, 64 Dahlia,
65 Sunflower, 66 built events. -/
def execNetRecordSend (src : Fin 67) (s : State) : Host.Outcome State Fault Refusal :=
  if src.val < 64 then
    let port := rd s Obj.MOV_RING.NET_PORT src
    match (ringOf s src).queue with
    | rec :: _ =>
      if ringKind s src = 3 ∧ rec.kind = 3 ∧ netPortUp s port then
        .next (netSettled (recordDone (sendRecord s port (rd s Obj.MOV_RING.TEMPLATE src) src rec.bytes) src rec) port)
      else .next (if ringKind s src = 3 ∧ rec.kind = 3 then netDemand s port else s)
    | [] => .next s
  else if src.val = 64 then
    match s.dah.dumps with
    | d :: _ =>
      if d.dest = 2 ∧ netPortUp s d.port then
        .next (netSettled (sendRecord (dumpTaken s) d.port (28 + d.port) 64 (d.header ++ d.payload ++ d.trailer)) d.port)
      else .next (if d.dest = 2 then netDemand s d.port else s)
    | [] => .next s
  else if src.val = 65 then
    let port := rd s Obj.SUN_CTRL.PORT
    match s.sun.queue with
    | b :: rest =>
      if rd s Obj.SUN_CTRL.DEST = 1 ∧ netPortUp s port then
        .next (netSettled (sendRecord (lossyShow (setSun s (fun u => { u with queue := rest })) 1 (beamQueueBytes rest)
          1048576 (rd s Obj.MOV_LOSSY.HIGH_WM 1)) port 30 65 b) port)
      else .next (if rd s Obj.SUN_CTRL.DEST = 1 then netDemand s port else s)
    | [] => .next s
  else
    match s.conc.out with
    | e :: _ =>
      if e.dest = 1 ∧ netPortUp s e.port then
        .next (netSettled (sendRecord (eventTaken s) e.port 31 66 e.bytes) e.port)
      else .next (if e.dest = 1 then netDemand s e.port else s)
    | [] => .next s

end Sys2Proof.Machine
end

