-- ==== Sys2Proof/Machine/Pair.lean ====
section
/-! DEFINITION. The lockstep pair, the warm restart, the cold boot (R350 to R354, R360 to R366, R451). -/

namespace Sys2Proof.Machine

/-! ### Boots (R325, R361, R365, R366, R446, R449) -/

/-- Faults that stay active across a boot: 0x1004 and 0x100B until it reaches Idle, 0x1404 until `VDD_AON` is removed
(R368, R456). -/
def bootCarries (x : FaultInst) : Bool := [0x1004, 0x100B, 0x1404].contains x.code

/-- Everything that a boot resets is at its default; Snowdrop keeps its own, flash and fuses theirs (R325, R449). -/
def bootReset (s : State) : State :=
  { wr State.reset Obj.AON_LAST_WAKE.COUNT 0 (rd s Obj.AON_LAST_WAKE.COUNT) with
    time := { TimeBase.atBoot with ppsWaitHeld := s.time.ppsWaitHeld, refPresent := s.time.refPresent,
                                   bootWait := decide (s.time.ppsWaitHeld ≠ 0) },
    ctl := { Ctl.atBoot with
             pair := .booting, ronecUp := false, bundleDone := false, flash := s.ctl.flash, rollback := s.ctl.rollback,
             chipId := s.ctl.chipId, bootSrc := s.ctl.bootSrc },
    aon := { AlwaysOn.atBoot with bootId := s.aon.bootId, bootFails := s.aon.bootFails,
                                  overcurrent := s.aon.overcurrent },
    trg := { Trigger.atBoot with inLevel := s.trg.inLevel },
    flt := { active := s.flt.active.filter bootCarries, retained := s.flt.retained, region := [] },
    out := s.out, free := s.free, pending := s.pending }

/-- The boot marker in the retained log (R449). -/
def bootMarker (s : State) : LogEntry :=
  ⟨0, s.ctl.bootSrc % 4, 0, 4, rd s Obj.MODE_STATE.CURRENT, 1, s.aon.bootId, s.aon.bootId, ts96Now s, 0⟩

/-- The domains as Recovery wants them (R29, R366). -/
def recoveryDoms (s : State) : SMap :=
  (List.range 394).foldl (fun m d =>
    let w := wantOf s .recovery false 0 d
    mapSet m d ((if w = wantDem then 0 else w) ^^^ idleDomain d)) []

/-- Enter Recovery: boot-ROM firmware serves mailbox 0 (R366). -/
def enterRecovery (s : State) : State :=
  let s1 := wr (wr s Obj.MODE_STATE.CURRENT 0 11) Obj.MODE_STATE.TARGET 0 11
  setPwr (setCtl s1 (fun c => { c with pair := .paired, ronecUp := false, waitsForImage := false }))
    (fun p => { p with doms := recoveryDoms s })

/-- A cold boot (R325, R361, R365, R366): BOOT_ID rises, a failed boot counts in `BOOT_FAILS`, and the boot ROM starts on
its source; after three failures, or with the Recovery strap, the device enters Recovery. -/
def coldBoot (s : State) (failed : Bool) (source : BootFrom) : State :=
  let fails := if failed then min 255 (s.aon.bootFails + 1) else s.aon.bootFails
  let s1 := setAon (bootReset s) (fun a => { a with bootId := (s.aon.bootId + 1) % 65536, bootFails := fails })
  let s2 := setCtl (wr s1 Obj.PWR_FOUND.FOUND 0 (rd s Obj.PWR_FOUND.FOUND)) (fun c =>
    { c with bootFrom := source, staged := if source = .staged then s.ctl.staged else none,
             waitsForImage := decide (source = .straps) && (c.bootSrc % 4 == 1 || c.bootSrc % 4 == 2) })
  let s3 := if (failed = true ∧ 3 ≤ fails) ∨ (source = .straps ∧ s.ctl.bootSrc % 4 = 3) then enterRecovery s2 else s2
  { s3 with flt := { s3.flt with retained := retain s3.flt.retained (bootMarker s3) } }

/-! ### Restarts: what they interrupt (R360, R401) -/

/-- The SEQ of the running command of mailbox m, 0 where none runs. -/
def runningSeq (s : State) (m : Nat) : Nat :=
  match (mailOf s m).queue with
  | r :: _ => if r.started then r.seq else 0
  | [] => 0

/-- A command of mailbox m runs. -/
def mailRuns (s : State) (m : Nat) : Bool := (mailOf s m).queue.head?.any (fun r => r.started)

/-- A RESTART notice of a kind with the commands that a restart of `s` interrupts (R360, R401). -/
def restartNotice (t s : State) (kind : Nat) : State :=
  let ms := List.range 8
  notice t (.restart kind (ms.foldl (fun k m => k + b2n (mailRuns s m) * 2 ^ m) 0) (ms.map (runningSeq s)))

/-- A cold boot that is forced counts as a failed boot; its RESTART notice, KIND 1, waits in queue 15 of the new boot
(R354, R401, R451; DEDUCED, log entry 129). -/
def forcedBoot (s : State) : State := restartNotice (coldBoot s true .straps) s 1

/-! ### Warm restarts (R352, R354, R360) -/

/-- The pair runs Ronec firmware or the Recovery firmware, in lockstep or on one core. -/
def pairActive (s : State) : Bool :=
  (s.ctl.ronecUp || modeOf s == .recovery) && (s.ctl.pair == .paired || s.ctl.pair == .single || s.ctl.pair == .resync)

/-- A warm restart begins (R354): both cores reset, REMAP is 0, a running transition returns to Idle; the third within
60 s raises fault 0x1004 and boots cold. -/
def warmRestart (s : State) (core : Nat) : State :=
  let times := s.time.rc64 :: s.ctl.restartTimes.filter (fun t => decide (s.time.rc64 < t + 60 * ticksPerSecond))
  let s1 := wr (raise s 0x1003 0 core 0) Obj.MOV_MAP.REMAP 0 0
  let s2 := setCtl s1 (fun c =>
    { c with pair := .restarting, ronecUp := false, restartTimes := times, warmRestarts := (c.warmRestarts + 1) % 2 ^ 32,
             resyncFails := 0 })
  if 3 ≤ times.length then forcedBoot (raise s2 0x1004 0 core 0)
  else if phaseOf s2 = .steady then s2
  else failTransition s2 0

/-- One core drops out: the pair runs on the other, which is promoted where the failed core led (R352). -/
def coreFails (s : State) (core : Nat) : State :=
  let led := decide (core = b2n s.ctl.leadB)
  let s1 := setCtl s (fun c =>
    { c with pair := .single, leadB := if led then !c.leadB else c.leadB,
             failovers := if led then (c.failovers + 1) % 2 ^ 32 else c.failovers })
  raise s1 0x1001 core core 0

/-- A self-check of core A, of core B, or of both (R352). -/
def selfCheck (s : State) (a b : Bool) : State :=
  if !(a || b) || !pairActive s then s
  else if s.ctl.pair = .paired ∧ !(a && b) then coreFails s (b2n b)
  else warmRestart s (b2n b)

/-- SELF_CHECK (R351, R352): the cores whose self-checks fired in one event. -/
def execSelfCheck (a b : Bool) (s : State) : Host.Outcome State Fault Refusal := .next (selfCheck s a b)

/-- COMPARE_MISMATCH (R352): a mismatch with no self-check. -/
def execCompareMismatch (s : State) : Host.Outcome State Fault Refusal :=
  if pairActive s then .next (warmRestart s (b2n s.ctl.leadB)) else .next s

/-- The lead is with core A, and both cores run: fault 0x1001 clears (R368). -/
def leadWithA (s : State) : State :=
  if s.ctl.leadB then s else clearFault (clearFault s 0x1001 0) 0x1001 1

/-- RESYNC_DONE (R353): the failed core runs again behind the running one. -/
def execResyncDone (s : State) : Host.Outcome State Fault Refusal :=
  if s.ctl.pair = .single ∨ s.ctl.pair = .resync then
    .next (leadWithA (setCtl s (fun c => { c with pair := .paired, resyncFails := 0 })))
  else .next s

/-- RESYNC_TIMEOUT (R353): 40 µs have passed; the third failure in a row causes a warm restart. -/
def execResyncTimeout (s : State) : Host.Outcome State Fault Refusal :=
  if s.ctl.pair = .single ∨ s.ctl.pair = .resync then
    let failed := 1 - b2n s.ctl.leadB
    let s1 := raise (setCtl s (fun c => { c with pair := .resync, resyncFails := c.resyncFails + 1 })) 0x1002 failed failed 0
    .next (if 2 ≤ s.ctl.resyncFails then warmRestart s1 failed else s1)
  else .next s

/-- LEAD_RETURN (R353): at a safe point the lead returns to core A. -/
def execLeadReturn (s : State) : Host.Outcome State Fault Refusal :=
  if s.ctl.pair = .paired && s.ctl.leadB then .next (leadWithA (setCtl s (fun c => { c with leadB := false })))
  else .next s

/-- The steps of a multi-step command that stand, as its response names them (R360, R378, R386, R395). -/
def stepPayload (r : Request) : Bytes :=
  match r.opcode with
  | 0x22 => leBytes 2 r.step ++ List.replicate 6 0
  | 0x51 => leBytes 4 r.step ++ List.replicate 4 0
  | 0x23 => List.replicate 8 0
  | _ => []

/-- The running command of mailbox m is interrupted (R360): its cache entry goes, it and its repeats complete with
INTERRUPTED and do not commit. -/
def interrupt (s : State) (m : Nat) : State :=
  match (mailOf s m).queue with
  | [] => s
  | r :: rest =>
    if r.started then
      let resp : Response := ⟨0x0008, 0, stepPayload r⟩
      let all := ⟨r.opcode, m, r.seq, 0, r.irq, r.acceptRc64, resp⟩
        :: r.attached.map (fun a => (⟨r.opcode, m, r.seq, 2, a.1, a.2, resp⟩ : Completion))
      setMail s m (fun x =>
        { x with queue := rest, done := x.done ++ all, cache := x.cache.filter (fun e => e.seq != r.seq) })
    else s

/-- What a running command was driving stops with it: its compression jobs, its sweep, its capture, its image. -/
def commandsDropped (s : State) : State :=
  { sweepEnds s with
    cmp := { s.cmp with queues := s.cmp.queues.map (fun _ => []), running := s.cmp.running.map (fun _ => none) },
    cnv := { s.cnv with capture := none }, ctl := { s.ctl with rx := none } }

/-- WARM_RESTART_DONE (R354, R360): the resident check of the firmware; interrupted commands complete, a RESTART notice
lists them, and the pair is PAIRED with core A leading. -/
def execWarmRestartDone (residentOk : Bool) (s : State) : Host.Outcome State Fault Refusal :=
  if s.ctl.pair = .restarting then
    if !residentOk then .next (forcedBoot s)
    else
      let ms := List.range 8
      let s1 := setCtl s (fun c =>
        { c with pair := .paired, leadB := false, ronecUp := modeOf s != .recovery })
      let s2 := commandsDropped (ms.foldl interrupt s1)
      let s3 := restartNotice (wr s2 Obj.MOV_MAP.REMAP 0 1) s 0
      .next (ms.foldl (fun t m => settle (mailOf t m).queue.length t m) (leadWithA s3))
  else .next s

/-- CONFIG_VOTE (R451): the copies and registers that disagreed are corrected and counted; a word with no two agreeing
copies raises fault 0x100B and boots cold as a failed boot. -/
def execConfigVote (corrected : Nat) (lost : Bool) (s : State) : Host.Outcome State Fault Refusal :=
  if ronecServes s then
    let s1 := (List.range corrected).foldl (fun t _ => raise t 0x100C 0 0 0) s
    .next (if lost then forcedBoot (raise s1 0x100B 0 0 0) else s1)
  else .next s

end Sys2Proof.Machine
end

