-- ==== Sys2Proof/Machine/Peer.lean ====
section
/-! DEFINITION. Peer correlation: group synchronization, peer packets, group buffers, members that leave or are lost
(R185 to R203, `09_multi_chip_correlation_and_concentration.md`). -/

namespace Sys2Proof.Machine

/-- Set `PEER_STATUS.STATE`. -/
def setPeerStage (s : State) (st : Nat) : State := wr s Obj.PEER_STATUS.STATE 0 st

/-! ### Entry (R35, R189, R192, R194, R195, R215) -/

/-- The status of CHECK of a Peer entry: 0 OK, 1 OUT_OF_RANGE for a band past channel 1,023, 2 NOT_PERMITTED for a port
of the geometry that is kept split. -/
def peerCheck (s : State) (c16 : Bool) : Nat :=
  let band := if c16 then 64 else 256
  let ports := if c16 then 15 else 7
  if 1024 < rd s Obj.PEER_CFG.K_FIRST + band then 1
  else if rd s Obj.PEER_CFG.SPLIT_PORTS &&& ports ≠ 0 then 2
  else 0

/-- LOCAL is entered: CHECK of a Peer entry has passed, with `PEER_CFG` as it stands (R215); no READY of an earlier entry
counts. -/
def peerLocal (s : State) : State :=
  let s1 := setPeer (latch (setPeerStage s 1) Obj.PEER_CFG.fields 0) (fun p => { p with readies := [] })
  wr (wr (wr s1 Obj.PEER_STATUS.GEOM 0 (geomCode s)) Obj.PEER_STATUS.MEMBER 0 (memberNo s))
    Obj.PEER_STATUS.FRAME_OK 0 (rd s Obj.TIM_PPS.FRAME_OK)

/-- Lane rate of a code in 0.1 Gb/s (`AXL_CFG.MAX_RATE`). -/
def laneRate : Nat → Nat
  | 0 => 80 | 1 => 160 | 2 => 256 | _ => 320

/-- The load of a peer port within 90 % of its capacity at a rate code with all lanes, in bit/s (R192, R301). -/
def peerLoadFits (s : State) (rate : Nat) : Bool :=
  let flows := if cluster16 s then 8 else 1
  decide (flows * (40 + 256 * peerChannels s) * 8 * 781250 * 100 * 100 ≤ 90 * (8 * laneRate rate * 100000000 * 94))

/-- A peer port is up, and the rate that its links negotiated is one that R192 accepts. -/
def peerPortFits (s : State) (w : Nat) : Bool :=
  let rates := ((linksOfPort s (4 * w)).filter (fun l =>
    decide (rd s Obj.AXL_PORT_STATUS.RX_MAP (4 * w) &&& laneBits s l ≠ 0))).map (fun l => rd s Obj.AXL_LINK_STATUS.RATE l)
  portUp s (4 * w) && !rates.isEmpty
    && rates.all (fun r => decide (lv s Obj.PEER_CFG.MIN_RATE ≤ r) && peerLoadFits s r)

/-- The peer ports that fail R192. -/
def peerPortsBad (s : State) : List Nat := (List.range 4).filter (fun w => peerPort s w && !peerPortFits s w)

/-- The READY of this member, as the leader holds it. -/
def ownReady (s : State) : ReadyHeld :=
  ⟨memberNo s, geomCode s, lv s Obj.PEER_CFG.K_FIRST, flag s Obj.TIM_PPS.FRAME_OK⟩

/-- A READY agrees with the leader (R195). -/
def readyAgrees (s : State) (r : ReadyHeld) : Bool :=
  decide (r.geom = geomCode s) && decide (r.kFirst = lv s Obj.PEER_CFG.K_FIRST) && r.frameOk

/-- Hold a READY in place of an older one of its member. -/
def holdReady (s : State) (r : ReadyHeld) : State :=
  setPeer s (fun p => { p with readies := p.readies.filter (fun x => x.member != r.member) ++ [r] })

/-- A GO takes effect on this member: it waits for the edge, or fails where the edge has passed (R195); a running
member accepts newcomers from its block on (R196). -/
def takeGo (s : State) (sec gspx : Nat) : State :=
  if peerStage s = 2 then
    if sec * nsSecond ≤ s.time.civil then forceIdle s 1 0x0011
    else setPeerStage (setPeer s (fun p => { p with goSec := sec, goGspx := gspx, aligned := false })) 3
  else if peerStage s = 4 then
    setPeer s (fun p =>
      { p with newcomers := 0, rejoin := (List.range 16).foldl (fun t m =>
          if bit p.newcomers m then mapSet t m (gspx + 1) else t) p.rejoin })
  else s

/-- The first edge at least 100 ms from now. -/
def goEdge (s : State) : Nat := (s.time.civil + nsSecond / 10 + nsSecond - 1) / nsSecond

/-- GROUP_GO_SEND (R195, R196): the leader that holds agreeing READYs of every member, or that runs and has a newcomer,
sends GO. -/
def goSend (s : State) : State :=
  let sec := goEdge s
  let g := blockAtOrAfter (gspxOfSecond sec)
  takeGo (sendControl s (memberNo s) (ownControl s 2 sec g)) sec g

/-- The leader holds an agreeing READY of every member. -/
def allReady (s : State) : Bool :=
  (List.range (memberCount s)).all (fun m => s.peer.readies.any (fun r => r.member == m && readyAgrees s r))

/-- Send READY to all members; the leader holds its own, and sends GO where it can. -/
def sendReady (s : State) : State :=
  let s1 := sendControl s (memberNo s) (ownControl s 1 0 0)
  if memberNo s = 0 then
    let s2 := holdReady s1 (ownReady s1)
    if allReady s2 then goSend s2 else s2
  else s1

/-- The local part of a Peer entry has ended (R192, R194, R195): PEER-SYNC and READY, or the transition fails. -/
def peerLocalEnd (s : State) : State :=
  if !flag s Obj.TIM_PPS.FRAME_OK then forceIdle (raise (setPeerStage s 0) 0x0804 0 (memberNo s) 0) 1 0x0011
  else
    match peerPortsBad s with
    | w :: _ => forceIdle (raise (setPeerStage s 0) 0x0805 w (memberNo s) 0) 1 0x0011
    | [] => sendReady (setPeerStage (setPhase s .peerSync) 2)

/-- PEER_READY_TIMER (R195): 100 ms in READY; READY is sent to all members again. -/
def execPeerReadyTimer (s : State) : Host.Outcome State Fault Refusal :=
  if peerStage s = 2 then .next (sendReady s) else .next s

/-- A control message of link l leaves queue 10 and is passed on along its routes (R191). -/
def passControl (s : State) (l ty : Nat) (m : GroupMessage) : State :=
  sendControl (takeMessage s l 2) (m.member % 16)
    (groupBytes24 ty m.member m.frameOk m.geom m.kFirst m.sec m.gspx)

/-- GROUP_READY (R195, R196): the leader checks a READY against its own geometry, K_FIRST and FRAME_OK; a disagreeing
one raises fault 0x0803; a running leader answers a newcomer with GO. -/
def execGroupReady (l : Fin 16) (m : GroupMessage) (s : State) : Host.Outcome State Fault Refusal :=
  let s0 := passControl s l 1 m
  let s1 := if peerStage s = 4 then
      setPeer s0 (fun p => { p with newcomers := setBit p.newcomers (m.member % 16) true }) else s0
  if memberNo s = 0 ∧ 2 ≤ peerStage s ∧ peerStage s ≤ 4 then
    let r : ReadyHeld := ⟨m.member % 16, m.geom, m.kFirst, m.frameOk⟩
    if readyAgrees s r then
      let s2 := holdReady s1 r
      if peerStage s = 4 then .next (goSend s2)
      else if peerStage s = 2 ∧ allReady s2 then .next (goSend s2)
      else .next s2
    else .next (raise (holdReady s1 r) 0x0803 r.member r.member 0)
  else .next s1

/-- GROUP_GO (R195, R196). -/
def execGroupGo (l : Fin 16) (m : GroupMessage) (s : State) : Host.Outcome State Fault Refusal :=
  .next (takeGo (passControl s l 2 m) m.sec (m.gspx % 2 ^ 32))

/-- A PPS edge in WAIT_GO (R193 to R195): at the edge of the named second, RC64 fixes Δ where the frame grid sits on the
edge, and the entry fails where it does not. -/
def peerEdge (s : State) : State :=
  let ts := rd s Obj.TIM_PPS.TIME
  let sec := if bits ts 18 30 < 500000000 then bits ts 48 48 else bits ts 48 48 + 1
  if peerStage s = 3 ∧ s.peer.aligned = false ∧ sec = s.peer.goSec then
    if flag s Obj.TIM_PPS.FRAME_OK then
      wr (wr (setPeer s (fun p => { p with aligned := true })) Obj.PEER_STATUS.DELTA 0
        ((spxOf (rd s Obj.TIM_PPS.RC64) + 2 ^ 32 - gspxOfSecond sec) % 2 ^ 32)) Obj.PEER_STATUS.GSPX_START 0 s.peer.goGspx
    else forceIdle (raise (setPeerStage s 0) 0x0804 0 (memberNo s) 0) 1 0x0011
  else s

/-- Every member is live, nothing has been placed, and the first group is the block of GO: the state at which peer data
begins. -/
def peerRunning (s : State) : State :=
  let all := 2 ^ memberCount s - 1
  wr (setPeerStage (setPeer s (fun p =>
    { p with buffers := [], full := [], left := [], newcomers := 0, rejoin := [], stopAt := none, byLeader := false,
             nextClose := p.goGspx,
             heard := (List.range (memberCount s)).foldl (fun h m => mapSet h m p.goGspx) [] })) 4)
    Obj.PEER_STATUS.LIVE 0 all

/-! ### Stops (R197) -/

/-- A stop requested on this member: the leader stops the group at the first block boundary at least two blocks ahead,
any other member leaves at the next one; a member that is stopping already has made its own request. -/
def peerRequestStop (s : State) : State :=
  if peerStage s = 4 then
    let lead := decide (memberNo s = 0)
    let b := blockAtOrAfter (gspxNow s + (if lead then 2048 else 1))
    let s1 := sendControl s (memberNo s) (ownControl s (if lead then 3 else 4) 0 b)
    setPeerStage (setPeer s1 (fun p => { p with stopAt := some b, byLeader := false })) 5
  else if peerStage s = 5 then setPeer s (fun p => { p with byLeader := false })
  else setPeerStage s 0

/-- GROUP_STOP (R197): peer data stops at the named boundary; a newcomer that has not begun leaves for Idle (log entry
113). -/
def execGroupStop (l : Fin 16) (m : GroupMessage) (s : State) : Host.Outcome State Fault Refusal :=
  let s1 := passControl s l 3 m
  if peerStage s = 4 then
    .next (setPeerStage (setPeer s1 (fun p => { p with stopAt := some (m.gspx % 2 ^ 32), byLeader := true })) 5)
  else if peerStage s = 2 ∨ peerStage s = 3 then .next (forceIdle (setPeerStage s1 0) 5 0x0011)
  else .next s1

/-- GROUP_LEAVE (R197): from its boundary on the member's data is absent, without fault 0x0806. -/
def execGroupLeave (l : Fin 16) (m : GroupMessage) (s : State) : Host.Outcome State Fault Refusal :=
  let s1 := passControl s l 4 m
  if 4 ≤ peerStage s then
    .next (setPeer s1 (fun p => { p with left := mapSet p.left (m.member % 16) (m.gspx % 2 ^ 32 + 1) }))
  else .next s1

/-! ### Data (R199 to R203) -/

/-- A member returns with its first packet from the block of its GO on (R196). -/
def memberBack (s : State) (m : Nat) : State :=
  let s1 := if memberLive s m then s
    else endFault (wr s Obj.PEER_STATUS.LIVE 0 (rd s Obj.PEER_STATUS.LIVE ||| 2 ^ m)) 0x0806 m
  setPeer s1 (fun p => { p with left := mapSet p.left m 0, rejoin := mapSet p.rejoin m 0 })

/-- PEER_PACKET (R191, R198, R201): a packet for another member is passed on where its port has a
credit, and waits in queue 10 else; one for this member is placed by its GSPX slot, or discarded and counted where its buffer has closed. -/
def execPeerPacket (l : Fin 16) (k : PeerPacket) (s : State) : Host.Outcome State Fault Refusal :=
  let s1 := takeMessage s l 1
  let g := k.gspx % 2 ^ 32
  let m := k.src % 16
  if k.dst % 16 ≠ memberNo s then
    let w := packetRoute s g (some (l.val / 4)) (k.dst % 16)
    if sendsFor s w < 32 then .next (queuePeer s1 w (k.dst % 16) g (peerPacket g k.src k.dst k.valid k.data) false)
    else .next s
  else if peerDataAt s g && memberCounts s m g then
    let s2 := if memberLive s m && decide (mapGet s.peer.left m = 0) then s1 else memberBack s1 m
    let s3 := setPeer s2 (fun p => { p with heard := mapSet p.heard m g })
    if spxDist (groupOf g) s.peer.nextClose < 0 then
      .next (raise (bump s3 Obj.PEER_MEMBER.LATE m 1) 0x0801 m m g)
    else
      let data := (List.range (peerChannels s)).map (fun j => (k.data.drop (256 * j)).take 256)
      let r := placePeer s3 g m k.valid data false
      .next (if r.1 then bump r.2 Obj.PEER_MEMBER.RECEIVED m 1 else r.2)
  else .next s1

/-- Slots of the group at g0 for which no packet of member m has been placed (R201). -/
def absentSlots (s : State) (g0 m : Nat) : Nat :=
  let got := match s.peer.buffers.find? (fun b => b.g0 == g0) with
    | some b => b.got
    | none => []
  ((List.range 64).filter (fun j => !got.any (fun x => x.1 == j && x.2.1 == m))).length

/-- Close the buffer of the next group: absences are counted, its descriptor goes to Dahlia (R199, R201). -/
def closeGroup (s : State) : State :=
  let g0 := s.peer.nextClose
  let s1 := ((List.range (memberCount s)).filter (fun m => m != memberNo s)).foldl (fun t m =>
    let k := absentSlots s g0 m
    if k = 0 then t else raise (bump t Obj.PEER_MEMBER.ABSENT m k) 0x0801 m m g0) s
  clockStarts (setPeer s1 (fun p =>
    { p with nextClose := (g0 + 64) % 2 ^ 32, buffers := p.buffers.filter (fun b => b.g0 != g0),
             full := p.full ++ p.buffers.filter (fun b => b.g0 == g0) })) 7

/-- PEER_BUFFER_CLOSE (R199): the local channelizer has completed spectrum GSPX0 + 127. -/
def execPeerBufferClose (s : State) : Host.Outcome State Fault Refusal :=
  if peerDataAt s s.peer.nextClose && decide (0 < s.chz.nextN)
      && decide (127 ≤ spxDist (toGroupSpx s (s.chz.nextN - 1)) s.peer.nextClose) then .next (closeGroup s)
  else .next s

/-- PEER_SEND_AGE_DISCARD (R200): the oldest queued packet whose GSPX + 64 the local channelizer has completed is
discarded unsent. -/
def execPeerSendAgeDiscard (s : State) : Host.Outcome State Fault Refusal :=
  match takeFirst (fun x : PeerSend =>
      decide (0 < s.chz.nextN) && decide (64 ≤ spxDist (toGroupSpx s (s.chz.nextN - 1)) x.gspx)) s.peer.sends with
  | some r =>
    .next (peerTake 2 (raise (bump (setPeer s (fun p => { p with sends := r.2 })) Obj.PEER_MEMBER.SEND_DROPPED r.1.dst 1)
      0x0802 r.1.dst r.1.dst r.1.gspx))
  | none => .next s

/-- PEER_MEMBER_LOST (R203): no packet of member m for a whole block; it is lost, and nothing is sent to it. -/
def execPeerMemberLost (m : Fin 16) (s : State) : Host.Outcome State Fault Refusal :=
  if peerStage s = 4 ∧ m.val ≠ memberNo s ∧ m.val < memberCount s ∧ memberLive s m ∧ mapGet s.peer.left m = 0
      ∧ 1024 ≤ spxDist (gspxNow s) (mapGet s.peer.heard m) then
    .next (raise (wr (setPeer s (fun p => { p with rejoin := mapSet p.rejoin m 0 })) Obj.PEER_STATUS.LIVE 0
      (setBit (rd s Obj.PEER_STATUS.LIVE) m false)) 0x0806 m m (gspxNow s))
  else .next s

end Sys2Proof.Machine
end

