-- ==== Sys2Proof/Machine/Trigger.lean ====
section
/-! DEFINITION. The trigger engine: beams, sources, acceptance, records, TRIGOUT, triggers over Axrel
(R117 to R136, `06_trigger_engine.md`). -/

namespace Sys2Proof.Machine

/-- Change the trigger engine. -/
def setTrg (s : State) (f : Trigger → Trigger) : State := { s with trg := f s.trg }

/-! ### Level 1 (R117 to R121) -/

/-- The reduced sample t = 2 × ⌊x ÷ 8⌋ + 1; 0 where the sample carries SETTLE or LINE (R117). -/
def reduced (x : InputWord) (j : Nat) : Int :=
  if x.line || bit x.settle j then 0 else 2 * (nth x.samples j 0 / 8) + 1

/-- The history of reduced samples after a word that begins at a sample; a gap starts it anew. -/
def pushReduced (s : State) (words : List InputWord) (contiguous : Bool) (start : Nat) : State :=
  setTrg s (fun t =>
    let old := if contiguous then t.hist else List.replicate 256 []
    { t with since := if contiguous then t.since else start, hist := (List.range 256).map (fun i =>
        let x := nth words i ⟨[], 0, 0, false, false⟩
        (((List.range 16).map (reduced x)).reverse ++ nth old i []).take 128) })

/-- t of input i at sample n; 0 where it is not held. -/
def reducedAt (s : State) (i n : Nat) : Int :=
  if n < s.cnv.histEnd then nth (nth s.trg.hist i []) (s.cnv.histEnd - 1 - n) 0 else 0

/-- The delay fields of a beam, in order of j. -/
def delayFields : List Field := Obj.TRG_DELAY.fields

/-- The beam sum s_b(n) (R118): the code −32 excludes an input. -/
def beamSum (s : State) (g b n : Nat) : Int :=
  ((List.range 16).map (fun j =>
    let d := toInt 6 (lv s (nth delayFields j Obj.TRG_DELAY.D0) (32 * g + b))
    if d = -32 then 0 else reducedAt s (16 * g + j) ((n : Int) + d).toNat)).sum

/-- W in samples (R119). -/
def beamW (s : State) (g : Nat) : Nat := 2 ^ (lv s Obj.TRG_GROUP.WIN g + 2)

/-- The beam power P_b(n) (R119). -/
def beamPower (s : State) (g b n : Nat) : Nat :=
  ((List.range (beamW s g)).map (fun k => (beamSum s g b (n - k)).natAbs ^ 2)).sum

/-- The longest look back of a beam before its reference sample: its most negative delay, 0 where it has none (R118). -/
def beamReach (s : State) (g b : Nat) : Nat :=
  (List.range 16).foldl (fun m j =>
    let d := toInt 6 (lv s (nth delayFields j Obj.TRG_DELAY.D0) (32 * g + b))
    if d = -32 then m else max m (-d).toNat) 0

/-- A beam is evaluated: it is enabled, no entry of it is uncorrectable, and it has a full window of history, with the
samples that its delays reach back to (R120, R136).  Its group's ENABLE only says that the group counts toward C(n). -/
def beamLive (s : State) (g b n : Nat) : Bool :=
  bit (lv s Obj.TRG_GROUP.BEAM_EN g) b
    && decide (mapGet s.trg.bad g = 0) && decide (mapGet s.trg.bad (16 + 32 * g + b) = 0)
    && decide ((nth s.trg.beams (32 * g + b) ⟨false, 0, 0, 0, 0⟩).since + beamW s g ≤ n + 1)
    && decide (s.trg.since + beamReach s g b + beamW s g ≤ n + 1)

/-- One beam at one reference sample (R120): its state after it, and its power where it fires. -/
def beamStep (s : State) (n j : Nat) : State :=
  let g := j / 32
  if beamLive s g (j % 32) n then
    let p := beamPower s g (j % 32) n
    let beam := nth s.trg.beams j ⟨false, 0, 0, 0, 0⟩
    let level := lv s Obj.TRG_GROUP.LEVEL g
    let fires := beam.armed && decide (level ≤ p)
    let armed := if fires then false else beam.armed || decide (p < level - lv s Obj.TRG_GROUP.HYST g)
    let s1 := setTrg s (fun t => { t with beams := upd t.beams j (fun x =>
      { x with armed := armed, sum := x.sum + p, count := x.count + 1, fires := x.fires + b2n fires }) })
    if fires then
      let better := match nth s.trg.fires g none with
        | some f => decide (f.n ≠ n) || decide (f.power < p)
        | none => true
      if better then setTrg s1 (fun t => { t with fires := upd t.fires g (fun _ => some ⟨n, j % 32, p⟩) }) else s1
    else s1
  else s

/-- CWS = ⌈CW × 1.6⌉ samples (R122). -/
def coincidence (s : State) : Nat := (lv s Obj.TRG_CTRL.CW * 16 + 9) / 10

/-- The groups counted in C(n) (R122). -/
def groupsCounted (s : State) (n : Nat) : List Nat :=
  (List.range 16).filter (fun g =>
    decide (lv s Obj.TRG_GROUP.ENABLE g ≠ 0) && !domCycling s (89 + g / 4)
      && (match nth s.trg.fires g none with
          | some f => decide (f.n ≤ n) && decide (n < f.n + coincidence s)
          | none => false))

/-- The fire with the largest power among groups, the lowest group at a tie (R123): BEST code and power. -/
def bestFire (s : State) (gs : List Nat) : Nat × Nat :=
  gs.foldl (fun acc g =>
    match nth s.trg.fires g none with
    | some f => if acc.2 < f.power then (f.beam + 32 * g, f.power) else acc
    | none => acc) (0, 0)

/-- A source contributes conditions (R122). -/
def sourceOn (s : State) (k : Nat) : Bool := flag s Obj.TRG_CTRL.ENABLE && bit (rd s Obj.TRG_CTRL.SRC_EN) k

/-- A condition becomes known to level 2. -/
def addCondition (s : State) (c : Condition) : State :=
  if sourceOn s c.source && s.trg.running then setTrg s (fun t => { t with known := t.known ++ [c] }) else s

/-- A condition with nothing beside its sample. -/
def plainCondition (n k : Nat) : Condition := ⟨n, k, 0, 0, 0, false, 0, 0, 0⟩

/-- One reference sample: every beam, then the GROUP condition (R120 to R123). -/
def referenceSample (s : State) (n : Nat) : State :=
  let s1 := (List.range 512).foldl (fun t j => beamStep t n j) s
  let gs := groupsCounted s1 n
  let c := gs.length
  let need := lv s Obj.TRG_CTRL.N
  let best := bestFire s1 gs
  let s2 := if need ≤ c ∧ s1.trg.lastC < need then
      addCondition s1 ⟨n, 0, 0, 0, 0, false, gs.foldl (fun m g => m + 2 ^ g) 0, best.1, best.2⟩
    else s1
  setTrg s2 (fun t => { t with lastC := c })

/-! ### Level 2 (R124 to R128) -/

/-- H in samples (R124). -/
def holdOff (s : State) : Nat := (winP s + winQ s) * 128

/-- The mask of the sources in a set of conditions. -/
def sourceMask (cs : List Condition) : Nat := cs.foldl (fun m c => m ||| 2 ^ c.source) 0

/-- Add 1 to a counter of every source in a mask. -/
def countSources (s : State) (f : Field) (mask : Nat) : State :=
  (List.range 6).foldl (fun t k => if bit mask k then bump t f k 1 else t) s

/-- Every source of a mask advances its prescaler; the result holds those that pass (R125). -/
def prescale (s : State) (mask : Nat) : Nat × State :=
  (List.range 6).foldl
    (fun (acc : Nat × State) k =>
      if bit mask k then
        let c := mapGet acc.2.trg.prescale k
        if lv acc.2 Obj.TRG_SOURCE.PRESCALE k ≤ c then
          (acc.1 + 2 ^ k, setTrg acc.2 (fun t => { t with prescale := mapSet t.prescale k 0 }))
        else (acc.1, setTrg acc.2 (fun t => { t with prescale := mapSet t.prescale k (c + 1) }))
      else acc) (0, s)

/-- Some source of a mask has PRIORITY. -/
def anyPriority (s : State) (mask : Nat) : Bool :=
  (List.range 6).any (fun k => bit mask k && decide (lv s Obj.TRG_SOURCE.PRIORITY k ≠ 0))

/-- A non-priority record would be refused for WINDOW now. -/
def windowShort (s : State) (prio : Bool) : Bool :=
  decide (rd s Obj.TRG_STATUS.CREDITS = 0)
    || (!prio && decide (rd s Obj.TRG_STATUS.CREDITS ≤ rd s Obj.TRG_BUCKET.RESERVE))

/-- Remember the judgement of the SOFTWARE condition at n (R384). -/
def noteSoft (s : State) (mask outcome serial n : Nat) : State :=
  if bit mask 2 then setTrg s (fun t => { t with soft := t.soft ++ [(outcome, serial, n)] }) else s

/-- Refuse a set (R124): counted per source, `refused_since` rises, fault 0x0501, which counts per cause (R136): its
instances are 0 WINDOW, 1 BUCKET and 2 RECORD (DEDUCED, log entry 114). -/
def refuseSet (s : State) (f : Field) (mask outcome n : Nat) : State :=
  let s1 := setTrg (countSources s f mask) (fun t => { t with refusedSince := satAdd 16 t.refusedSince 1 })
  raise (noteSoft s1 mask outcome 0 n) 0x0501 (outcome - 3) mask s.evt.serial

/-- Drive TRIGOUT active up to a tick (R131). -/
def trigoutUntil (s : State) (stop : Nat) : State :=
  let level := decide (lv s Obj.TRG_IO.TRIGOUT_POL = 0)
  setTrg (emit s (.pin 0 level)) (fun t => { t with outActive := true, outEnd := stop })

/-- Drive TRIGOUT inactive (R131). -/
def trigoutOff (s : State) : State :=
  setTrg (emit s (.pin 0 (decide (lv s Obj.TRG_IO.TRIGOUT_POL ≠ 0)))) (fun t => { t with outActive := false })

/-- A pulse on TRIGOUT of `TRIGOUT_WIDTH` (R131). -/
def trigoutPulse (s : State) : State := trigoutUntil s (s.time.rc64 + 16 * lv s Obj.TRG_IO.TRIGOUT_WIDTH)

/-- The 24-byte payload of a trigger message (R133). -/
def triggerPayload (s : State) (r : TrigRecord) : Bytes :=
  leBytes 5 r.serial ++ [r.src, s.ctl.chipId, 0] ++ leBytes 12 r.time ++ [0, 0, 0, 0]

/-- Send the trigger message on every wide port of `SEND_PORTS` that is up (R133). -/
def sendTrigger (s : State) (r : TrigRecord) : State :=
  if r.src &&& rd s Obj.TRG_AXREL.SEND_SRC = 0 then s
  else
    (List.range 4).foldl (fun t w =>
      if bit (rd s Obj.TRG_AXREL.SEND_PORTS) w then
        (upPortsOf t w).foldl (fun u l => axPost u l 3 (triggerPayload s r)) t
      else t) s

/-- The record that a set opens (R124, R132). -/
def newRecord (s : State) (cs : List Condition) (mask : Nat) (prio : Bool) (n : Nat) : TrigRecord :=
  let grp := cs.find? (fun c => c.source == 0 && bit mask 0)
  let ax := cs.find? (fun c => c.source == 4 && bit mask 4)
  let out := decide (lv s Obj.TRG_IO.TRIGOUT_MODE = 1) || decide (lv s Obj.TRG_IO.TRIGOUT_MODE = 3)
    || (decide (lv s Obj.TRG_IO.TRIGOUT_MODE = 2) && bit mask 0)
  { serial := (s.evt.serial + 1) % 2 ^ 40, src := mask, mergedSrc := 0, merges := 0, tSample := n,
    time := ts96At s n,
    groupMask := (grp.map (fun c => c.groupMask)).getD 0,
    best := (grp.map (fun c => c.best)).getD 0,
    bestPower := (grp.map (fun c => c.bestPower)).getD 0,
    refusedSince := s.trg.refusedSince, window := winP s + 16 * winQ s,
    flags := b2n grp.isSome + 2 * b2n ((ax.map (fun c => c.clamped)).getD false) + 4 * b2n out + 8 * b2n prio,
    originTime := (ax.map (fun c => c.originTime)).getD 0,
    originChip := (ax.map (fun c => c.originChip)).getD 0,
    originSerial := (ax.map (fun c => c.originSerial)).getD 0,
    holdEnd := n + holdOff s }

/-- Accept a set: the record opens, a credit and, without priority, a token are spent, the strobe and the trigger
message go (R124, R126, R131, R133). -/
def acceptSet (s : State) (cs : List Condition) (mask : Nat) (prio : Bool) (n : Nat) : State :=
  let r := newRecord s cs mask prio n
  let s1 := { s with evt := { s.evt with serial := r.serial, vigilRefused := 0 } }
  let s2 := setTrg s1 (fun t =>
    { t with records := t.records ++ [r], strobes := t.strobes ++ [⟨n, r.serial, mask⟩], refusedSince := 0 })
  let s3 := wr (wr (wr s2 Obj.TRG_STATUS.CREDITS 0 (rd s Obj.TRG_STATUS.CREDITS - 1))
    Obj.TRG_STATUS.TOKENS 0 (if prio then rd s Obj.TRG_STATUS.TOKENS else rd s Obj.TRG_STATUS.TOKENS - 1))
    Obj.TRG_STATUS.SERIAL 0 r.serial
  let s4 := wr (countSources (emit s3 (.freeze n)) Obj.TRG_COUNTS.ACCEPTED mask) Obj.TRG_STATUS.OPEN 0 1
  let s5 := match lv s Obj.TRG_IO.TRIGOUT_MODE with
    | 1 => trigoutPulse s4
    | 3 => trigoutUntil s4 (r.holdEnd + 333)
    | _ => s4
  sendTrigger (noteSoft s5 mask 0 r.serial n) r

/-- A record is open for a condition at n: it is the latest accepted one, in the engine, and n < n_T + H (R124). -/
def openFor (s : State) (n : Nat) : Option TrigRecord :=
  match s.trg.records.getLast? with
  | some r => if n < r.holdEnd then some r else none
  | none => none

/-- Merge a set into the open record (R124). -/
def mergeSet (s : State) (r : TrigRecord) (mask n : Nat) : State :=
  let join (x : TrigRecord) : TrigRecord :=
    { x with mergedSrc := x.mergedSrc ||| mask, merges := satAdd 8 x.merges (popCount 6 mask) }
  let s1 := setTrg s (fun t => { t with records := updFirst (fun x => x.serial == r.serial) join t.records })
  noteSoft (countSources s1 Obj.TRG_COUNTS.MERGED mask) mask 1 r.serial n

/-- Judge the conditions of one sample as one set (R124). -/
def judgeSet (s : State) (n : Nat) (cs : List Condition) : State :=
  let mask := sourceMask cs
  let s0 := countSources s Obj.TRG_COUNTS.CONDITIONS mask
  let sp := if bit mask 0 && decide (lv s Obj.TRG_IO.TRIGOUT_MODE = 2) then trigoutPulse s0 else s0
  match openFor sp n with
  | some r => mergeSet sp r mask n
  | none =>
    let p := prescale sp mask
    let a := p.1
    let s1 := countSources p.2 Obj.TRG_COUNTS.PRESCALED (mask &&& (63 ^^^ a))
    if a = 0 then noteSoft s1 mask 2 0 n
    else
      let s2 := noteSoft s1 (mask &&& (63 ^^^ a)) 2 0 n
      let prio := anyPriority s2 a
      if windowShort s2 prio then refuseSet s2 Obj.TRG_COUNTS.REFUSED_WINDOW a 3 n
      else if !prio && decide (rd s2 Obj.TRG_STATUS.TOKENS = 0) then
        refuseSet s2 Obj.TRG_COUNTS.REFUSED_BUCKET a 4 n
      else if 32 ≤ s2.trg.queue.length then refuseSet s2 Obj.TRG_COUNTS.REFUSED_RECORD a 5 n
      else acceptSet s2 cs a prio n

/-- The distinct samples of conditions up to a last one, in ascending order. -/
def conditionSamples (cs : List Condition) (last : Nat) : List Nat :=
  cs.foldl (fun acc c => if c.n ≤ last ∧ !acc.contains c.n then
    acc.filter (fun x => decide (x < c.n)) ++ [c.n] ++ acc.filter (fun x => decide (c.n < x)) else acc) []

/-- Judge what is known up to a sample, in ascending n (R124). -/
def judgeKnown (s : State) (last : Nat) : State :=
  let cs := s.trg.known
  let s1 := setTrg s (fun t => { t with known := t.known.filter (fun c => decide (last < c.n)) })
  (conditionSamples cs last).foldl (fun t n => judgeSet t n (cs.filter (fun c => c.n == n))) s1

/-- The dead-time counters of one word (R129). -/
def deadTime (s : State) : State :=
  if flag s Obj.TRG_CTRL.ENABLE then
    let s1 := bump s Obj.TRG_STATUS.LIVE 0 1
    if windowShort s false then bump s1 Obj.TRG_STATUS.DEAD_WINDOW 0 1
    else if rd s Obj.TRG_STATUS.TOKENS = 0 then bump s1 Obj.TRG_STATUS.DEAD_BUCKET 0 1
    else s1
  else s

/-- An error in a table entry (R136): a correctable one is corrected, with fault 0x0504; an uncorrectable one stops the
group or the beam, with fault 0x0503. -/
def tableError (s : State) (e : Nat × Bool) : State :=
  if e.2 then raise s 0x0504 0 e.1 s.evt.serial
  else raise (setTrg s (fun t => { t with bad := mapSet t.bad e.1 1 })) 0x0503 e.1 e.1 s.evt.serial

/-- The engine on one word: table errors, 16 reference samples, the judgement of what is known, the dead time.  The
reference sample runs 31 samples behind the newest (R118), and a condition is judged once its sample is reached, so that
the conditions of one sample form one set (R124; DEDUCED, log entry 115). -/
def triggerWord (s : State) (upsets : List (Nat × Bool)) : State :=
  if s.trg.running then
    let s1 := upsets.foldl tableError s
    let s2 := (List.range 16).foldl (fun t k => referenceSample t (s.cnv.histEnd - 47 + k)) s1
    deadTime (judgeKnown s2 (s.cnv.histEnd - 32))
  else s

/-- TRIGOUT_WIDTH_END (R131): the width of the pulse ends, in mode 3 208 ns after the end of the hold-off. -/
def execTrigoutWidthEnd (s : State) : Host.Outcome State Fault Refusal :=
  if s.trg.outActive && decide (s.trg.outEnd ≤ s.time.rc64) then .next (trigoutOff s) else .next s

/-- TRIGIN_EDGE (R122, R335): a stable edge latches `TIM_CAPTURE` and, at the selected polarity, gives a TRIGIN
condition at n_edge − TRIGIN_OFFSET; a level that held for fewer than 4 ticks is ignored with fault 0x0506 (R136). -/
def execTriginEdge (level stable : Bool) (s : State) : Host.Outcome State Fault Refusal :=
  if stable then
    let s1 := setTrg s (fun t => { t with inLevel := level })
    let s2 := if s.time.off then s1 else
      wr (wr (wr (bump s1 Obj.TIM_CAPTURE.EDGES 0 1) Obj.TIM_CAPTURE.RC64 0 s.time.rc64)
        Obj.TIM_CAPTURE.TIME 0 (ts96Now s)) Obj.TIM_CAPTURE.LEVEL 0 (b2n level)
    if level = decide (lv s Obj.TRG_IO.TRIGIN_EDGE = 0) then
      .next (addCondition s2 (plainCondition (s.time.rc64 - lv s Obj.TRG_IO.TRIGIN_OFFSET) 1))
    else .next s2
  else .next (raise s 0x0506 0 2 s.evt.serial)

/-- The first tick whose civil time under R329 is at or after a TS96 (R134). -/
def tickOfTs (s : State) (ts : Nat) : Int :=
  let ps : Int := ((bits ts 48 48 * 1000000000000 + bits ts 18 30 * 1000 + bits ts 8 10 : Nat) : Int)
    - toInt 16 (rd s Obj.TIM_REF.SKEW_PS)
  (s.time.rc64 : Int) + -((-((ps * 4294967296 + 999) / 1000 - (s.time.civil : Int))) / (s.time.inc : Int))

/-- AXREL_TRIGGER_MESSAGE (R134): a message on a port of `RECV_PORTS` gives an AXREL condition at
min(n_a, max(n_o + AX_OFFSET, n_a − 320)); where either side lacks VALID, or the max set n, the record is AX_CLAMPED
with fault 0x0505. -/
def execAxrelTriggerMessage (port : Fin 4) (m : TriggerMessage) (s : State) : Host.Outcome State Fault Refusal :=
  if bit (rd s Obj.TRG_AXREL.RECV_PORTS) port && sourceOn s 4 && s.trg.running then
    let na : Int := s.time.rc64
    let valid := flag s Obj.TIM_STATE.VALID && bit m.time 0
    let want := tickOfTs s m.time + toInt 10 (rd s Obj.TRG_AXREL.AX_OFFSET)
    let clamped := !valid || decide (want < na - 320)
    let n := if clamped then na - 320 else if na < want then na else want
    let s1 := addCondition s ⟨n.toNat, 4, m.time, m.chip % 16 + 16 * port.val, m.serial, clamped, 0, 0, 0⟩
    .next (if clamped then raise s1 0x0505 0 16 m.serial else s1)
  else .next s

/-- HOLDOFF_END (R124): the hold-off of the latest record has ended. -/
def execHoldoffEnd (s : State) : Host.Outcome State Fault Refusal :=
  match s.trg.records.getLast? with
  | some r =>
    if r.holdEnd ≤ s.time.rc64 ∧ flag s Obj.TRG_STATUS.OPEN then .next (wr s Obj.TRG_STATUS.OPEN 0 0)
    else .next s
  | none => .next s

/-- The record queue toward the event stage has a credit: a slot, and the event stage is on (R16, R17, R280). -/
def recordRoom (s : State) : Bool := decide (s.trg.queue.length < queueSlots 4) && (domRange 93 94).all (domOn s)

/-- TRIGGER_RECORD_RELEASE (R128): 320 samples after its hold-off the oldest record leaves the engine, once its queue
grants a credit. -/
def execTriggerRecordRelease (s : State) : Host.Outcome State Fault Refusal :=
  match s.trg.records with
  | r :: rest =>
    if r.holdEnd + 320 ≤ s.time.rc64 ∧ recordRoom s then
      .next (clockStarts (setTrg s (fun t => { t with records := rest, queue := t.queue ++ [r] })) 6)
    else .next s
  | [] => .next s

/-- The part of the next token at this tick, in 1/16,000,000: it grows by `RATE` per tick, `RATE` × 100 tokens per second
(R127). -/
def tokenPartNow (s : State) (rate : Nat) : Nat := s.trg.tokenPart + (s.time.rc64 - s.trg.tokenAt) * rate

/-- Bring the part of the next token up to this tick, before a change of `RATE` acts. -/
def tokenAccrue (s : State) (rate : Nat) : State :=
  setTrg s (fun t => { t with tokenPart := tokenPartNow s rate, tokenAt := s.time.rc64 })

/-- BUCKET_TOKEN (R127): the bucket gains a token that is due, up to `DEPTH`. -/
def execBucketToken (s : State) : Host.Outcome State Fault Refusal :=
  let part := tokenPartNow s (rd s Obj.TRG_BUCKET.RATE)
  if s.trg.running && decide (16000000 ≤ part) then
    .next (wr (setTrg s (fun t => { t with tokenPart := part - 16000000, tokenAt := s.time.rc64 }))
      Obj.TRG_STATUS.TOKENS 0 (min (rd s Obj.TRG_BUCKET.DEPTH) (rd s Obj.TRG_STATUS.TOKENS + 1)))
  else .next s

/-- TRIG_BUSY (R136): the dead time of one second is judged; 10 seconds in a row above 10 % raise fault 0x0502, 10
below 1 % clear it. -/
def execTrigBusy (s : State) : Host.Outcome State Fault Refusal :=
  if s.trg.running then
    let dead := (rd s Obj.TRG_STATUS.DEAD_WINDOW + rd s Obj.TRG_STATUS.DEAD_BUCKET) % 2 ^ 48
    let live := rd s Obj.TRG_STATUS.LIVE
    let dl := (live + 2 ^ 48 - s.trg.lastLive) % 2 ^ 48
    let dd := (dead + 2 ^ 48 - s.trg.lastDead) % 2 ^ 48
    let busy := if dl < 10 * dd then s.trg.busyRun + 1 else 0
    let quiet := if 100 * dd < dl then s.trg.quietRun + 1 else 0
    let s1 := setTrg s (fun t => { t with lastLive := live, lastDead := dead, busyRun := busy, quietRun := quiet })
    let s2 := if busy = 10 then raise s1 0x0502 0 0 s.evt.serial else s1
    .next (if quiet = 10 then clearFault s2 0x0502 0 else s2)
  else .next s

/-- A beam starts disarmed, with history from a sample on (R120). -/
def beamRestart (s : State) (j : Nat) : State :=
  setTrg s (fun t => { t with beams := upd t.beams j (fun x => { x with armed := false, since := s.cnv.histEnd }) })

/-- `TRG_IO` takes effect (R131, R137): TRIGOUT follows a new polarity, and mode 0 holds it inactive. -/
def trigoutFrame (s : State) : State :=
  let turned := decide (rd s Obj.TRG_IO.TRIGOUT_POL ≠ lv s Obj.TRG_IO.TRIGOUT_POL)
  let s1 := latch s Obj.TRG_IO.fields 0
  if s1.trg.outActive && decide (lv s1 Obj.TRG_IO.TRIGOUT_MODE = 0) then trigoutOff s1
  else if turned then emit s1 (.pin 0 (s1.trg.outActive == decide (lv s1 Obj.TRG_IO.TRIGOUT_POL = 0)))
  else s1

/-- The engine's part of a frame boundary (R125, R137): tables that changed take effect and restart their beams, a
changed `PRESCALE` restarts its count. -/
def triggerFrame (s : State) : State :=
  let changed (fs : List Field) (i : Nat) := fs.any (fun f => decide (rd s f i ≠ lv s f i))
  let s1 := (List.range 16).foldl (fun t g =>
    if changed Obj.TRG_GROUP.fields g then
      (List.range 32).foldl (fun u b => beamRestart u (32 * g + b)) (latch t Obj.TRG_GROUP.fields g)
    else t) s
  let s2 := (List.range 512).foldl (fun t j =>
    if changed Obj.TRG_DELAY.fields j then beamRestart (latch t Obj.TRG_DELAY.fields j) j else t) s1
  let s3 := (List.range 6).foldl (fun t k =>
    let u := if rd s Obj.TRG_SOURCE.PRESCALE k ≠ lv s Obj.TRG_SOURCE.PRESCALE k then
        setTrg t (fun x => { x with prescale := mapSet x.prescale k 0 }) else t
    latch u Obj.TRG_SOURCE.fields k) s2
  trigoutFrame (latch s3 Obj.TRG_CTRL.fields 0)

/-- The engine's part of a block boundary (R137): `TRG_BEAM_STATUS` latches. -/
def triggerBlock (s : State) : State :=
  (List.range 512).foldl (fun t j =>
    let x := nth t.trg.beams j ⟨false, 0, 0, 0, 0⟩
    let t1 := wr (wr (wr t Obj.TRG_BEAM_STATUS.MEAN j (if x.count = 0 then 0 else (2 * x.sum + x.count) / (2 * x.count)))
      Obj.TRG_BEAM_STATUS.FIRES j (min 65535 x.fires)) Obj.TRG_BEAM_STATUS.SPX0 j (spxOf (s.time.rc64 - 2097152))
    setTrg t1 (fun g => { g with beams := upd g.beams j (fun y => { y with sum := 0, count := 0, fires := 0 }) })) s

/-- The engine starts, on entry to a mode that runs it from one that does not (R120, R127). -/
def triggerStart (s : State) : State :=
  let s1 := setTrg s (fun t =>
    { t with running := true, since := s.cnv.histEnd, tokenAt := s.time.rc64, tokenPart := 0,
             hist := List.replicate 256 [], records := [], known := [], lastC := 0,
             fires := List.replicate 16 none,
             beams := List.replicate 512 ⟨false, s.cnv.histEnd, 0, 0, 0⟩ })
  let s2 := wr (wr s1 Obj.TRG_STATUS.TOKENS 0 (rd s Obj.TRG_BUCKET.DEPTH)) Obj.TRG_STATUS.OPEN 0 0
  triggerFrame s2

/-- The engine stops: no new record opens (R36). -/
def triggerStop (s : State) : State := setTrg s (fun t => { t with running := false, known := [] })

/-- ENVELOPE_CROSSING (R77, R78, R122): input i crosses its threshold at half tick 2 × RC64 + half; in Vigil the
analog freeze, merge or refusal follows, in Watch, Survey and Peer with Watch the VIGIL condition of level 2. -/
def execEnvelopeCrossing (i : Fin 256) (half : Bool) (s : State) : Host.Outcome State Fault Refusal :=
  if s.bbl.writing then
    let t := halfNow s + b2n half
    let s1 := fireOneShot s i
    let completes := analogCondition s1 && !analogCondition s
    if modeOf s = .vigil then .next (vigilCrossing s1 t completes)
    else if watchOn s && completes then
      .next (addCondition s1 (plainCondition ((t - lv s Obj.BBL_WINDOW.LAT_ANA) / 2) 5))
    else .next s1
  else .next s

end Sys2Proof.Machine
end

