-- ==== Sys2Proof/Machine/Modes.lean ====
section
/-! DEFINITION. The transitions between modes: CHECK, DRAIN, DOWN, UP, START, their failures, the Peer start and stop
(R28 to R43, R195 to R197, R236, `02_operating_modes.md`). -/

namespace Sys2Proof.Machine

/-! ### What a mode runs -/

/-- The ring writes (R29, R75). -/
def modeRings (m : Mode) (watch : Bool) : Bool := modeWatches m watch || m == .vigil || m == .calibrate

/-- The channelizer belongs to a mode. -/
def Mode.spectra : Mode → Bool
  | .image | .beam | .survey | .peer | .calibrate => true
  | _ => false

/-- Dahlia's integrations belong to a mode. -/
def Mode.integrates : Mode → Bool
  | .image | .survey | .peer | .calibrate => true
  | _ => false

/-- Sunflower belongs to a mode. -/
def Mode.beams : Mode → Bool
  | .beam | .survey => true
  | _ => false

/-- The injector strings may run in a mode. -/
def Mode.injects : Mode → Bool
  | .image | .survey | .peer | .calibrate | .test => true
  | _ => false

/-- The target of the running transition. -/
def modeTarget (s : State) : Mode := Mode.ofCode (rd s Obj.MODE_STATE.TARGET)

/-- The target has the Watch functions of Peer: those of the request, or, on the way back, those of the source. -/
def targetWatch (s : State) : Bool :=
  modeTarget s == .peer &&
    (match s.modes.running with
     | some r => if phaseOf s = .aborting then s.modes.peerWatch else r.watch
     | none => s.modes.peerWatch)

/-- The store map of the target: selected on an entry from Idle, else the present one (R235). -/
def targetMap (s : State) : Nat :=
  if modeOf s = .idle then mapFor s (modeTarget s) (cluster16 s) else rd s Obj.FST_MAP.MAP

/-! ### CHECK (R24, R28, R30, R33, R87, R164, R222) -/

/-- Typical supply current of a mode in mA (R33).  The table gives Peer for Quad alone: Cluster-16 has the same figures
(DESIGN CHOICE, log entry 121). -/
def modeCurrent (m : Mode) (watch : Bool) : Nat :=
  match m with
  | .dormant => 5 | .idle => 700 | .vigil => 1600 | .watch => 8000 | .image => 15500 | .beam => 13000
  | .survey => 23000 | .peer => if watch then 26500 else 21000 | .concentrate => 12500 | .calibrate => 24000
  | .test => 700 | .recovery => 500

/-- The domains that a test requests before its entry: the spec does not say how it names them, and any set of them is
free (R34; DESIGN CHOICE, log entry 122). -/
def testDomains (s : State) : List Nat := (List.range 394).filter (fun d => bit (Config.freeValue s.free) d)

/-- CHECK of an entry to Test draws that free value. -/
def testDrawn (s : State) (r : ModeReq) : State := if r.target = .test then (drawFree s).2 else s

/-- The current that CHECK holds against the ceiling: for Vigil with the capture wake set (R411), for Test with the steps
of the domains that the test requests (R34). -/
def checkCurrent (m : Mode) (watch : Bool) (doms : List Nat) : Nat :=
  modeCurrent m watch
    + (match m with
       | .vigil => 1200
       | .test => (doms.map Config.stepMa).sum
       | _ => 0)

/-- The loads of R24, R164 and R222 in a mode at the slowest point. -/
def loadsFit (s : State) (m : Mode) (c16 : Bool) : Bool :=
  let p := slowestPoint s
  (match m with
   | .image | .survey | .calibrate =>
     soloPointFits s (rd s Obj.DAH_BAND.K_COUNT) && dahFits 0 (rd s Obj.DAH_BAND.K_COUNT) (flag s Obj.DAH_INTEG.CALBIN) p
   | .peer => let g := if c16 then 2 else 1
     dahFits g (geomChannels g) false p
   | _ => true)
    && (!m.beams || sunLoadWithin (beamChannelsNow s) 92 p)

/-- Vigil is refused at this temperature (R87). -/
def vigilTooHot (s : State) : Bool :=
  let v := tVmax (rd s Obj.PWR_GOV.RATE) (nextP s) (nextQ s)
  decide (v = 0) || decide ((v : Int) - 10 < s.bbl.tj + 80)

/-- The request changes nothing but the geometry of a running Peer, or asks for a transition that is not listed (R28). -/
def requestUnlisted (s : State) (r : ModeReq) : Bool :=
  if r.target = modeOf s then r.target == .peer && r.cluster16 != s.modes.cluster16
  else !transitionListed (modeOf s) r.target

/-- The status of CHECK (R30). -/
def checkStatus (s : State) (r : ModeReq) : Nat :=
  if requestUnlisted s r then 0x0002
  else if r.target = .peer ∧ modeOf s ≠ .peer ∧ peerCheck s r.cluster16 ≠ 0 then peerCheck s r.cluster16
  else if rd s Obj.PWR_GOV.CEIL * 100 < checkCurrent r.target r.watch (testDomains s)
      ∨ loadsFit s r.target r.cluster16 = false ∨ (r.target = .vigil ∧ vigilTooHot s) then 0x0010
  else 0

/-- An alarm whose target has passed fires now (R421, R422). -/
def alarmPassed (s : State) : Bool :=
  flag s Obj.AON_WAKE_EN.ALARM_EN && flag s Obj.AON_ALARM.ARM && decide (rd s Obj.AON_ALARM.TARGET ≤ s.time.rc64)

/-- A wake was latched in the always-on cycle in which the entry was registered, or an alarm has passed (R422). -/
def entryWoken (s : State) : Bool :=
  match s.aon.entryAt with
  | some t =>
    alarmPassed s || (decide (rd s Obj.AON_LAST_WAKE.SOURCES ≠ 0)
      && decide (rd s Obj.AON_LAST_WAKE.RC64 / 160 = t / 160))
  | none => false

/-- A write of `MODE_PLAN` (R28, R31, R42, R377): its status, and the state with the request accepted. -/
def modePlanWrite (s : State) (plan mailbox seq : Nat) : Nat × State :=
  let t := bits plan 0 4
  let r : ModeReq := ⟨Mode.ofCode t, bit plan 4, bit plan 5, true, 0, mailbox, seq⟩
  if t ≤ 11 ∧ phaseOf s = .steady ∧ requestUnlisted s r then (0x0002, s)
  else if 11 < t ∨ bits plan 8 4 = 0 ∨ 9 < bits plan 8 4 ∨ bits plan 6 2 ≠ 0 ∨ bits plan 12 4 ≠ 0 ∨ bits plan 25 7 ≠ 0 then
    (0x0001, s)
  else if t ≠ 1 ∧ runsOp s [0x50, 0x51, 0x53] then (0x0006, s)
  else
    let s1 := Obj.MODE_PLAN.fields.foldl (fun u f => wr u f 0 (bits plan f.lo f.width)) s
    if phaseOf s = .steady ∧ sameMode s r then
      (0, modeNotice s1 r (modeOf s) (modeOf s) 0 0 0)
    else (0, requestMode s1 r)

/-- MODE_PLAN_WRITE (R42): a write of the whole object, by the command SEQ of a mailbox. -/
def execModePlanWrite (plan : Nat) (mailbox : Fin 8) (seq : Nat) (s : State) : Host.Outcome State Fault Refusal :=
  .next (modePlanWrite s (plan % 2 ^ 32) mailbox (seq % 2 ^ 32)).2

/-! ### Stops (R36) -/

/-- The spectrum of the first block boundary after now, not reduced modulo 2³². -/
def nextBlockSpectrum (s : State) : Nat := (s.time.rc64 / 2097152 + 1) * 1024

/-- Dahlia's integration ends at a boundary, given by its spectrum; a stop that is set already stays, and a start that
waits is dropped. -/
def integrationEnds (s : State) (n : Nat) : State :=
  if !s.dah.seqs.isEmpty && s.dah.stopAt.isNone then dahStop s n else setDah s (fun d => { d with next := none })

/-- Every function that the target lacks is set to stop (R36, R197): the trigger engine and event building now, spectra
and integrations at the first block boundary, which spectrum `n` names, or at Peer's stop boundary. -/
def beginStops (s : State) (m : Mode) (watch : Bool) (n : Nat) : State :=
  let s1 := if s.trg.running && !modeWatches m watch then triggerStop s else s
  let s2 := if m != .concentrate then concCloseAll s1.conc.opened.length s1 else s1
  let s3 := if m.injects then s2 else stringsEnd s2 65535
  let s4 := if peerStage s3 ≠ 0 ∧ m ≠ .peer then peerRequestStop s3 else s3
  let n4 := match s4.peer.stopAt with
    | some b => if peerStage s4 = 5 then localSpectrum s b else n
    | none => n
  let s5 := if m.integrates then s4 else integrationEnds s4 n4
  setModes s5 (fun k => { k with stopSpectrum := n4 })

/-- A wake aborts an entry to Dormant or Vigil in its CHECK: the mode stays (R39, R422). -/
def entryAborted (s : State) : State :=
  let s1 := if alarmPassed s then
      wr (wr (wr s Obj.AON_ALARM.ARM 0 0) Obj.AON_ALARM.FIRED 0 1) Obj.AON_LAST_WAKE.SOURCES 0
        (rd s Obj.AON_LAST_WAKE.SOURCES ||| 4)
    else s
  let s2 := setModes (wr s1 Obj.AON_LAST_WAKE.DURING_ENTRY 0 1) (fun m => { m with reason := 3, status := 0x0013 })
  finishTransition s2 (modeOf s)

/-- CHECK has passed: the functions that the target lacks are set to stop, and DRAIN begins (R30, R36). -/
def beginDrain (s : State) (r : ModeReq) : State :=
  let s1 := setModes (testDrawn s r) (fun m =>
    { m with convertersOn := cnvOn s, testDoms := if r.target = .test then testDomains s else [] })
  let s2 := if r.target = .peer ∧ modeOf s ≠ .peer then peerLocal s1 else s1
  beginStops (setPhase s2 .drain) r.target (targetWatch s) (nextBlockSpectrum s)

/-- TRANSITION_CHECK (R30, R34, R36, R422): the request of the running transition is validated, and DRAIN begins; on the
way back to Idle after a failure or a fault, the stops are set. -/
def execTransitionCheck (s : State) : Host.Outcome State Fault Refusal :=
  if phaseOf s = .aborting ∧ s.modes.abortStep = 1 then
    .next (setModes (beginStops s (modeTarget s) (targetWatch s) (nextBlockSpectrum s)) (fun m => { m with abortStep := 2 }))
  else if phaseOf s ≠ .check then .next s
  else
    match s.modes.running with
    | none => .next s
    | some r =>
      if entryWoken s then .next (entryAborted s)
      else if sameMode s r && !requestUnlisted s r then
        .next (nextRequest (modeNotice s r (modeOf s) (modeOf s) s.modes.reason 0 0))
      else if checkStatus s r ≠ 0 then .next (refuseTransition (testDrawn s r) (checkStatus s r))
      else .next (beginDrain s r)

/-! ### DRAIN (R36, R37, R268) -/

/-- The output queues are empty: dump queue, beam output queue, built events, records of the rings, messages and frames
of the Axrel ports, forwarding buffers of the network ports, fragments that their destination takes (R37). -/
def outputsEmpty (s : State) : Bool :=
  s.dah.dumps.isEmpty && s.dah.toQueue.isEmpty && s.sun.queue.isEmpty && s.conc.out.isEmpty && s.conc.ready.isEmpty
    && s.mov.rings.all (fun r => r.queue.isEmpty && r.part.isNone)
    && s.peer.sends.isEmpty && s.axl.ports.all (fun p => p.ready.isEmpty && p.unacked.isEmpty)
    && s.net.ports.all (fun p => p.fwd.isEmpty)
    && s.evt.frags.all (fun f => f.state != .transfer && f.state != .building
        && !(f.state == .pending && destinationReady s f))

/-- Every function that the target lacks has reached its stop point. -/
def drained (s : State) (m : Mode) (watch : Bool) : Bool :=
  (modeWatches m watch || (s.trg.records.isEmpty && s.trg.queue.isEmpty && s.trg.strobes.isEmpty && s.bbl.windows.isEmpty
      && s.evt.frags.all (fun f => f.state != .building)))
    && (m.spectra || !s.chz.running) && (m.beams || !s.sun.running)
    && (m.integrates || (s.dah.seqs.isEmpty && (!s.dah.started || (s.chz.full.isEmpty && s.peer.full.isEmpty))))
    && (m == .peer || decide (peerStage s = 0))
    && (m == .concentrate || s.conc.opened.isEmpty)
    && (m.injects || s.cal.strings.all (fun x => x.phase == .idle))
    && (!(m == .dormant || (m == .vigil && modeOf s == .watch)) || s.modes.drainOver || outputsEmpty s)

/-- Bank d of the event-pending region holds a fragment that still waits to be shipped (R36). -/
def fragmentBank (s : State) (d : Nat) : Bool :=
  inBanks (mapEvtBanks (rd s Obj.FST_MAP.MAP)) (d - 177) && inBanks (177, 336) d
    && decide (rd s Obj.FST_MAP.MAP ≠ 3) && s.evt.frags.any (fragInBank s (d - 177))

/-- The state that a transition brings domain d to; none where it leaves it.  Snowdrop itself takes down the control
pair, data movement and the time base of a Dormant entry (R420), and the capture wake set of Vigil (R424); on-demand
domains keep what their work needs, and Test has those that its test requests. -/
def transitionWants (s : State) (m : Mode) (watch : Bool) (map d : Nat) : Option Nat :=
  if m = .dormant ∧ (inBanks (340, 343) d ∨ d = 360 ∨ inBanks (365, 373) d) then none
  else if m = .vigil ∧ (wakeSet map).contains d then none
  else
    match if fragmentBank s d && m != .dormant && m != .vigil then 2 else wantOf s m watch map d with
    | 9 =>
      if m = .test && s.modes.testDoms.contains d then some 2
      else if inBanks (342, 343) d && m == .vigil then some 0
      else if inBanks (48, 63) d && s.bbl.windows.isEmpty then some 0
      else if d = 338 && engineIdle s 0 then some 0
      else if d = 339 && engineIdle s 1 && engineIdle s 2 then some 0
      else if d = 337 && !modeWatches m watch && s.cmp.coder.isEmpty then some 0
      else if inBanks (361, 362) d && !netWork s 0 then some 0
      else if inBanks (363, 364) d && !netWork s 1 then some 0
      else none
    | w => some w

/-- On a Dormant entry packets in lossy-tail queues stay where the retention plan keeps their banks; the others are
abandoned and counted (R37). -/
def unkeptDropped (s : State) : State :=
  let kept (n : Nat) : Bool := decide (rd s Obj.FST_PLAN.DORMANT_STATE n = 1)
  let map := rd s Obj.FST_MAP.MAP
  let evts := mapEvtBanks map
  let s1 := ((domRange evts.1 evts.2).filter (fun n => !kept n)).foldl dropPackets s
  let s2 := if map = 0 ∧ kept 159 = false then dropPackets s1 159 else s1
  if kept (mapLogBank map) then s2 else dropPackets s2 (mapLogBank map)

/-- DOWN begins: sleep requests go to every domain that the target does not use; links without Axrel go quiet, and the
jobs of a compression that powers down end (R30, R268, R320). -/
def beginDown (s : State) (m : Mode) (watch : Bool) : State :=
  let map := targetMap s
  let s0 := if m = .dormant then unkeptDropped s else s
  let s1 := if wantOf s m watch map 338 = 0 then jobsAborted s0 else s0
  let s2 := axrelQuiet s1 m (modeWatches m watch)
  let s3 := if m.integrates then s2 else dahEnd s2
  let s4 := if modeRings m watch then s3 else setBbl s3 (fun b => { b with writing := false })
  let s5 := (List.range 394).foldl (fun t d =>
    match transitionWants t m watch map d with
    | some 0 => domDown t 2 d 0
    | some 4 => domDown t 2 d 4
    | some 5 => domDown t 2 d 5
    | _ => t) (if transitionWants s m watch map 48 = some 0 then setBbl s4 (fun b => { b with digOn := false }) else s4)
  let s6 := (List.range 2).foldl (fun t p =>
    if transitionWants s m watch map (361 + 2 * p) = some 0 then wr t Obj.NET_STATUS.LINK p 0 else t) s5
  markWaiting s6

/-- DRAIN_COMPLETE (R17, R36, R37). -/
def execDrainComplete (s : State) : Host.Outcome State Fault Refusal :=
  let m := modeTarget s
  let w := targetWatch s
  if phaseOf s = .drain && drained s m w then .next (setPhase (beginDown s m w) .down)
  else if phaseOf s = .aborting ∧ s.modes.abortStep = 2 ∧ drained s m w then
    .next (setModes (beginDown s m w) (fun k => { k with abortStep := 3 }))
  else .next s

/-- The packets that wait in the output queues outside the lossy-tail queues, by their queue of R280; 16 is the two
forwarding buffers. -/
def outputPackets (s : State) : List (Nat × Nat) :=
  [(8, s.dah.dumps.length + s.dah.toQueue.length), (11, s.conc.out.length + s.conc.ready.length),
   (12, (s.mov.rings.map (fun r => r.queue.length)).sum),
   (9, s.peer.sends.length + (s.axl.ports.map (fun p => p.ready.length + p.unacked.length)).sum),
   (16, (s.net.ports.map (fun p => p.fwd.length)).sum)]

/-- Those packets are abandoned, and each is counted in its queue's lost-packet counter (R37); a forwarded frame also in
FWD_DROPPED of its port (R345). -/
def outputsAbandoned (s : State) : State :=
  let s1 := { s with mov := { s.mov with
    lost := (outputPackets s).foldl (fun m x => mapSet m x.1 (mapGet m x.1 + x.2)) s.mov.lost,
    rings := s.mov.rings.map (fun r => { r with queue := [], part := none }) } }
  let s2 := setConc (setDah s1 (fun d => { d with dumps := [], toQueue := [] })) (fun c => { c with out := [], ready := [] })
  let s3 := { setPeer s2 (fun p => { p with sends := [] }) with
    axl := { s.axl with ports := s.axl.ports.map (fun p => { p with ready := [], unacked := [] }) } }
  let s4 := (List.range 2).foldl (fun t p => bump t Obj.NET_STATUS.FWD_DROPPED p (nth s.net.ports p ⟨0, []⟩).fwd.length) s3
  { s4 with net := { s4.net with ports := s4.net.ports.map (fun p => { p with fwd := [] }) } }

/-- DRAIN_LIMIT_EXPIRED (R37): on a Dormant entry `DRAIN_MS` has run out; what waits outside a lossy-tail queue whose
bank is kept is abandoned and counted. -/
def execDrainLimitExpired (s : State) : Host.Outcome State Fault Refusal :=
  if phaseOf s = .drain ∧ modeTarget s = .dormant then
    let s4 := setEvt (outputsAbandoned (unkeptDropped s)) (fun e =>
      { e with frags := e.frags.map (fun f => if f.state == .transfer then { f with state := .pending } else f) })
    .next (setModes s4 (fun k => { k with drainOver := true }))
  else .next s

/-! ### DOWN and UP (R30, R96, R236, R404) -/

/-- No power-down of the transition, or of a link that leaves Axrel, waits; a domain that is HELD lets it go on. -/
def transitionDown (s : State) : Bool :=
  downsDone s 2 && s.pwr.queue.all (fun p => p.up || !inBanks (344, 359) p.dom)
    && s.pwr.sleeps.all (fun x => !inBanks (344, 359) x.dom || flag s Obj.PWR_DOMAIN.HELD x.dom)

/-- `MOV_QPROT` takes effect for the queues of which the mode entry powers a consumer domain up (R293). -/
def qprotLatched (s : State) (m : Mode) (watch : Bool) : State :=
  let comes (q : Nat) : Bool :=
    (queueDoms s q 0).any (fun d => !domOn s d && transitionWants s m watch (targetMap s) d == some 2)
  (List.range 16).foldl (fun t q => if comes q then latch t Obj.MOV_QPROT.fields q else t) s

/-- UP begins: the domains that the target adds are requested; converters that start take their coefficients (R96). -/
def beginUp (s0 : State) (m : Mode) (watch : Bool) : State :=
  let s := qprotLatched s0 m watch
  let map := targetMap s
  let s1 := (List.range 394).foldl (fun t d =>
    match transitionWants t m watch map d with
    | some 2 => domUp t 2 d
    | some 5 => if domState t d = 0 then paced t ⟨2, d, true, Config.stepMa d, .bias 5⟩ else t
    | _ => t) s
  if m.converts && !s.modes.convertersOn then converterStart s1 else s1

/-- DOWN_COMPLETE (R30). -/
def execDownComplete (s : State) : Host.Outcome State Fault Refusal :=
  let m := modeTarget s
  let w := targetWatch s
  if phaseOf s = .down && transitionDown s then .next (setPhase (beginUp s m w) .up)
  else if phaseOf s = .aborting ∧ s.modes.abortStep = 3 ∧ transitionDown s then
    .next (setModes (beginUp s m w) (fun k => { k with abortStep := 4 }))
  else .next s

/-- CONVERTER_CAL_CONVERGED (R32, R96): the calibration of converters that start has converged on the corrections it
found; they are in use and stored. -/
def execConverterCalConverged (s : State) : Host.Outcome State Fault Refusal :=
  if phaseOf s = .up && (modeTarget s).converts && !s.modes.convertersOn && !s.modes.calConverged
      && (domRange 64 80).all (fun d => domOn s d || s.pwr.barred.contains d) then
    .next (calibrationFound (setModes s (fun m => { m with calConverged := true, calAt := s.time.rc64 })))
  else .next s

/-- The region of half-bank h of bank n in a map (R235), 0 where it is unused: 1 Dahlia area, 2 corner-turn buffers, 3
event building, 4 interferometry, 5 Bluebell tables, 6 beam tables, 7 log and housekeeping ring, 8 event-pending region,
9 beam output queue, 10 scratch. -/
def mapRegion (map n h : Nat) : Nat :=
  match map with
  | 2 =>
    if n < 145 then 1 else if n < 147 then 2 else if n < 154 then 5
    else if n = 154 then (if h = 0 then 7 else 10) else 8
  | 3 =>
    if n < 128 then 3 else if n < 145 then 4 else if n = 152 ∧ h = 1 then 7 else if n = 159 ∧ h = 1 then 10 else 0
  | _ =>
    if n < 129 + map then 1
    else if n < (if map = 0 then 145 else 138) then 2
    else if n < 145 then 0
    else if n < 152 then 5
    else if n = 152 then (if h = 1 then 7 else if map = 0 then 6 else 0)
    else if n < 159 then 8
    else if h = 1 then 10 else if map = 0 then 9 else 0

/-- The half-banks of a region in a map. -/
def regionHalves (map r : Nat) : List Nat := (List.range 320).filter (fun k => decide (mapRegion map (k / 2) (k % 2) = r))

/-- STORE_MAP_COPY (R236): the Bluebell tables, the log and the housekeeping ring move with their contents; every other
region whose banks change starts uninitialized. -/
def storeMapCopy (s : State) (new : Nat) : State :=
  let old := rd s Obj.FST_MAP.MAP
  if old = new then s
  else
    let moved := (List.range 11).map (fun r => decide (regionHalves old r ≠ regionHalves new r))
    let ready (r : Nat) : Bool := (regionHalves old r).all (fun k => bit (rd s Obj.FST_BANK.INIT (k / 2)) (k % 2))
    let s1 := if nth moved 8 false then
        lossyLost (setEvt s (fun e => { e with frags := [], head := 0 })) 0 s.evt.frags.length else s
    let s2 := if nth moved 9 false then
        lossyLost (setSun s1 (fun u => { u with queue := [] })) 1 s1.sun.queue.length else s1
    let s3 := (List.range 320).foldl (fun t k =>
      let r := mapRegion new (k / 2) (k % 2)
      if r ≠ 0 ∧ nth moved r false then
        wr t Obj.FST_BANK.INIT (k / 2)
          (setBit (rd t Obj.FST_BANK.INIT (k / 2)) (k % 2) ((r = 5 ∨ r = 7) && ready r))
      else t) s2
    wr (wr s3 Obj.FST_MAP.MAP 0 new) Obj.FST_MAP.DAH_BANKS 0 (mapDahBanks new)

/-- Every domain that the target wants is up. -/
def transitionUp (s : State) (m : Mode) (watch : Bool) : Bool :=
  upsDone s 2 && (List.range 394).all (fun d =>
    match transitionWants s m watch (targetMap s) d with
    | some 2 => domOn s d || s.pwr.barred.contains d
    | some 5 => decide (domState s d = 5)
    | _ => true)

/-! ### START (R26, R38, R51, R333) -/

/-- The inputs take their range in Vigil, or on leaving it the one that they held (R51). -/
def vigilRanges (s : State) (enter : Bool) : State :=
  (List.range 256).foldl (fun t i =>
    if enter then
      wr (setInput t i (fun x => { x with heldRange := rd t Obj.AFE_STATUS.RANGE i })) Obj.AFE_STATUS.RANGE i
        (rd t Obj.AFE_INPUT.VIGIL_RANGE i)
    else wr t Obj.AFE_STATUS.RANGE i (inputOf t i).heldRange) s

/-- The time base stops for Vigil and Dormant, and resumes (R333). -/
def timeOff (s : State) (off : Bool) : State :=
  if s.time.off = off then s
  else if off then setTime s (fun t => { t with off := true, offEdge := t.lastValid.map Int.toNat })
  else setTime s (fun t => { t with off := false, lastValid := t.offEdge.map Int.ofNat, offEdge := none })

/-- The functions of a mode that do not run yet start (R29, R30, R38, R75). -/
def startFunctions (s : State) (m : Mode) (watch : Bool) : State :=
  let s1 := if modeRings m watch && !s.bbl.writing then
      bblStart ((List.range 256).foldl (fun t i => latch t Obj.BBL_ENV.fields i) (latch s Obj.BBL_VIGIL.fields 0))
    else s
  let s2 := if modeWatches m watch && !s1.trg.running then triggerStart s1 else s1
  let s3 := if m.spectra && !s2.chz.running then
      chzStart (idleChanges (latch s2 Obj.CHZ_CTRL.fields 0)) else s2
  let s4 := if m.beams && !s3.sun.running then sunStart (sunBlock s3) else s3
  if m.integrates && m != .peer && !s4.dah.started then dahStart s4 (s.time.rc64 / 2048) else s4

/-- A software trigger or a capture whose mode is left ends with JOB_ABORTED (R378). -/
def commandsLeft (s : State) (m : Mode) (watch : Bool) : State :=
  let ends (op : Nat) : Bool := (op == 0x20 && !modeWatches m watch) || (op == 0x24 && m != .test)
  let s0 := if modeOf s = .test && m != .test then prbsEnds s else s
  let s1 := if m = .test then s0 else { s0 with cnv := { s0.cnv with capture := none } }
  (List.range 8).foldl (fun t k =>
    if (mailOf t k).queue.head?.any (fun r => r.started && ends r.opcode) then commit t k 0x0023 [] else t) s1

/-- Entry to a mode at its START, beside its functions. -/
def enterMode (s : State) (m : Mode) (watch : Bool) : State :=
  let s1 := startFunctions (commandsLeft s m watch) m watch
  let s2 := if m = .vigil ∧ modeOf s ≠ .vigil then
      let t := (List.range 256).foldl (fun u i => latch u Obj.BBL_ENV.fields i) (latch s1 Obj.BBL_VIGIL.fields 0)
      wakeSetDown (setBbl (vigilRanges (showVmax t) true) (fun b => { b with wake := .down, digOn := false }))
    else if m ≠ .vigil ∧ modeOf s = .vigil then
      setBbl (vigilRanges (if flag s1 Obj.BBL_STATUS.HOT then hotExit s1 else s1) false) (fun b => { b with wake := .down })
    else s1
  let s3 := setAon (timeOff s2 (m == .vigil || m == .dormant)) (fun a =>
      { a with pcieLink := if a.pcieLink = 2 then 2 else b2n (m == .vigil) })
  let s4 := if m.usesAxrel then s3 else { s3 with ctl := { s3.ctl with serveLinks := 0 } }
  { s4 with ctl := { s4.ctl with ronecUp := m != .vigil && m != .recovery,
                                 serveLinks := if m = .idle ∨ m = .recovery then s4.ctl.serveLinks else 0 } }

/-- Dormant is past its point of no return (R420 step 3): WAKE_TARGET of this entry is held; without `REF10M` Snowdrop
counts its fallback oscillator from now on (R327). -/
def dormantEntered (s : State) : State :=
  let s1 := setAon (setLive s Obj.MODE_PLAN.WAKE_TARGET 0 (rd s Obj.MODE_PLAN.WAKE_TARGET))
    (fun a => { a with phase := .waitPme, held := 0, holdoverUsed := a.holdoverUsed || !s.time.refPresent })
  if s.time.refPresent then s1 else setTime s1 (fun t => { t with dormantHold := true })

/-- The map and the geometry of the target are in force (R235, R236). -/
def upEffects (s : State) (m : Mode) : State :=
  let c16 := cluster16 s
  let s1 := storeMapCopy s (targetMap s)
  let s2 := wr s1 Obj.DAH_GEOM.GEOM 0 (if m = .peer then (if c16 then 2 else 1) else 0)
  axrelForm (setModes s2 (fun k => { k with cluster16 := if m = .peer then c16 else k.cluster16 }))

/-- UP_COMPLETE (R30, R81, R236): START begins; on the way back the transition ends in its target. -/
def execUpComplete (s : State) : Host.Outcome State Fault Refusal :=
  let m := modeTarget s
  let w := targetWatch s
  if !transitionUp s m w then .next s
  else if phaseOf s = .up ∧ (m.converts = false ∨ s.modes.convertersOn ∨ s.modes.calConverged) then
    let s1 := if (domRange 48 63).all (domOn s) then setBbl s (fun b => { b with digOn := m != .vigil }) else s
    .next (setPhase (upEffects s1 m) .start)
  else if phaseOf s = .aborting ∧ s.modes.abortStep = 4 then
    .next (finishTransition (enterMode (upEffects s m) m w) m)
  else .next s

/-- The functions that spectra need start at a block boundary, at least four frames after the calibration (R38). -/
def startPoint (s : State) (m : Mode) : Bool :=
  if (m.spectra && !s.chz.running) || (m.beams && !s.sun.running) || (m.integrates && m != .peer && !s.dah.started) then
    decide (s.time.rc64 % 2097152 = 0) && (s.modes.convertersOn || decide (s.modes.calAt + 4 * 2048 ≤ s.time.rc64))
  else true

/-- TRANSITION_START_DONE (R30, R38): the streams start, and the transition reaches STEADY, or PEER-SYNC for Peer. -/
def execTransitionStartDone (s : State) : Host.Outcome State Fault Refusal :=
  let m := modeTarget s
  let w := targetWatch s
  if phaseOf s = .start && startPoint s m then
    let s1 := enterMode s m w
    match m with
    | .peer =>
      if modeOf s = .peer then
        .next (setModes (finishTransition s1 .peer) (fun k => { k with peerWatch := w }))
      else .next (peerLocalEnd s1)
    | .recovery => .next (enterRecovery (finishTransition s1 .recovery))
    | .dormant => .next (dormantEntered (finishTransition s1 .dormant))
    | _ => .next (finishTransition s1 m)
  else .next s

/-! ### Failures (R35, R40) -/

/-- PEER_SYNC_TIMEOUT (R35): 2 s after the local part. -/
def execPeerSyncTimeout (s : State) : Host.Outcome State Fault Refusal :=
  if phaseOf s = .peerSync then .next (forceIdle (setPeerStage s 0) 1 0x0011) else .next s

/-- BANK_WAKE_CHECK (R40, R249, R250): a bank waking from RETAIN reads its eight canary words; RETFAIL or a wrong word
loses the bank, and fails a transition whose target needs the regions in it. -/
def execBankWakeCheck (n : Fin 160) (words : List (Nat × Nat)) (s : State) : Host.Outcome State Fault Refusal :=
  if s.pwr.fromRetain.contains (bankDom n) ∧ domState s (bankDom n) = 1 then
    let c := bankChecked s n words
    if c.2 then .next c.1
    else
      let s1 := bankLost c.1 n
      let needs := decide (modeTarget s ≠ .idle) && bankUsed (modeTarget s) (targetWatch s) (targetMap s) n
      .next (if needs && decide (phaseOf s1 ≠ .aborting) then failTransition s1 (bankDom n) else s1)
  else .next s

/-- POWER_GOOD_TIMEOUT (R40): domain d, whose grant is complete, has not reported power-good within 1.0 ms. -/
def execPowerGoodTimeout (d : Fin 394) (s : State) : Host.Outcome State Fault Refusal :=
  if domState s d = 1 && s.pwr.queue.all (fun p => p.dom != d.val) then
    .next (failTransition (setPwr (setDom s d 0) (fun p => { p with fromRetain := p.fromRetain.filter (fun x => x != d.val) })) d)
  else .next s

/-- PLL_LOCK_TIMEOUT (R40): the sampling PLL of a transition that starts it has not locked within 0.5 ms. -/
def execPllLockTimeout (s : State) : Host.Outcome State Fault Refusal :=
  if phaseOf s = .up && !s.modes.convertersOn && modeOf s != .vigil && !s.modes.calConverged
      && ((modeTarget s).converts || modeTarget s == .vigil) then
    .next (failTransition s 80)
  else .next s

/-- CONVERTER_CAL_TIMEOUT (R40): the converters of trigger group g have not converged within 20 ms. -/
def execConverterCalTimeout (g : Fin 16) (s : State) : Host.Outcome State Fault Refusal :=
  if phaseOf s = .up && (modeTarget s).converts && !s.modes.convertersOn && !s.modes.calConverged then
    .next (failTransition s (64 + g))
  else .next s

/-! ### The Peer start and stop (R193, R195, R197) -/

/-- PEER_START_BLOCK (R195): block GSPX of GO begins; peer data starts, and the entry ends in Peer. -/
def execPeerStartBlock (s : State) : Host.Outcome State Fault Refusal :=
  if peerStage s = 3 && s.peer.aligned && phaseOf s == .peerSync && decide (0 ≤ spxDist (gspxNow s) s.peer.goGspx) then
    let w := targetWatch s
    let back := (spxDist (gspxNow s) s.peer.goGspx).toNat
    let s1 := finishTransition (peerRunning s) .peer
    .next (setModes (dahStart s1 (s.time.rc64 / 2048 - back)) (fun k => { k with peerWatch := w }))
  else .next s

/-- Close the group buffers before a boundary; `fuel` bounds their number. -/
def closeGroupsTo : Nat → State → Nat → State
  | 0, s, _ => s
  | fuel + 1, s, stop => if spxDist s.peer.nextClose stop < 0 then closeGroupsTo fuel (closeGroup s) stop else s

/-- PEER_STOP_BOUNDARY (R197): peer data ends at the stop boundary; a member that did not ask for it leaves for Idle with
a PEER_STOPPED notice. -/
def execPeerStopBoundary (s : State) : Host.Outcome State Fault Refusal :=
  match s.peer.stopAt with
  | some b =>
    if peerStage s = 5 ∧ 0 ≤ spxDist (gspxNow s) b then
      let s1 := wr (setPeerStage (closeGroupsTo 64 s b) 0) Obj.PEER_STATUS.LIVE 0 0
      let s2 := if !s.dah.seqs.isEmpty && s.dah.stopAt.isNone then dahStop s1 (localSpectrum s b) else s1
      let s3 := setPeer s2 (fun p => { p with input := [], readies := [], aligned := false })
      if s.peer.byLeader then
        .next (requestMode (setPeer s3 (fun p => { p with byLeader := false })) ⟨.idle, false, false, false, 5, 0, 0⟩)
      else .next s3
    else .next s
  | none => .next s

end Sys2Proof.Machine
end

