-- ==== Sys2Proof/Machine/Wake.lean ====
section
/-! DEFINITION. Power-good, latch-ups, Dormant and its wakes, the wake sources, pin glitches, count summaries
(R405, R414, R419 to R424, R447, R452 to R454). -/

namespace Sys2Proof.Machine

/-! ### Wake sources (R421 to R424) -/

/-- A wake aborts the entry to Dormant or Vigil (R422, R39): in CHECK the mode stays; later the device returns to the mode
that it is leaving. -/
def abortEntry (s : State) : State :=
  let s1 := setModes (wr s Obj.AON_LAST_WAKE.DURING_ENTRY 0 1) (fun m =>
    { m with reason := 3, status := 0x0013, abortStep := 2 })
  if phaseOf s = .check then finishTransition s1 (modeOf s)
  else
    setAon (wr (setPhase s1 .aborting) Obj.MODE_STATE.TARGET 0 (rd s Obj.MODE_STATE.CURRENT))
      (fun a => { a with entryAt := none })

/-- The device leaves Dormant (R423 step 1): `PWRREQ` rises.  Until step 5 PHASE reads STEADY and TARGET Dormant; a
failure for late rails is no transition of COUNT and LAST_STATUS (DEDUCED, log entry 124). -/
def wakeDormant (s : State) : State :=
  let s1 := wr s Obj.AON_LAST_WAKE.HOLDOVER 0 (b2n s.aon.holdoverUsed)
  emit (setModes (setAon s1 (fun a => { a with phase := .rails, pwrReq := true, held := 0 })) (fun m =>
    { m with startedAt := s.time.rc64 })) (.pin 32 true)

/-- A source was latched in this always-on cycle already (R421). -/
def wokenThisCycle (s : State) : Bool :=
  decide (rd s Obj.AON_LAST_WAKE.SOURCES ≠ 0) && decide (rd s Obj.AON_LAST_WAKE.RC64 / 160 = s.time.rc64 / 160)

/-- A wake is recorded (R421): the source alone, the tick and its time, one more in COUNT (DEDUCED: every latched wake
counts). -/
def recordWake (s : State) (src : Nat) : State :=
  let s1 := [Obj.AON_LAST_WAKE.DURING_ENTRY, Obj.AON_LAST_WAKE.LATE_ENTRY, Obj.AON_LAST_WAKE.RAILS_LATE,
    Obj.AON_LAST_WAKE.HOLDOVER].foldl (fun t f => wr t f 0 0) (wr s Obj.AON_LAST_WAKE.SOURCES 0 (2 ^ src))
  wr (wr (bump s1 Obj.AON_LAST_WAKE.COUNT 0 1) Obj.AON_LAST_WAKE.RC64 0 s.time.rc64)
    Obj.AON_LAST_WAKE.TIME 0 (ts96Now s)

/-- What a recorded wake does in the phase of the moment (R422 to R424). -/
def serveWake (s : State) : State :=
  if s.aon.entryAt.isSome && phaseOf s != .steady && phaseOf s != .aborting then abortEntry s
  else
    match s.aon.phase with
    | .waitPme | .fallingDown | .minOff =>
      setAon (wr s Obj.AON_LAST_WAKE.LATE_ENTRY 0 1) (fun a => { a with held := rd s Obj.AON_LAST_WAKE.SOURCES })
    | .asleep => wakeDormant s
    | .rails | .resuming => s
    | .awake =>
      if modeOf s = .vigil ∧ phaseOf s = .steady then raise (pairUp s) 0x1401 0 0 (rd s Obj.AON_LAST_WAKE.SOURCES)
      else s

/-- A wake source is latched (R421): with those of the same always-on cycle, or as a new wake. -/
def latchWake (s : State) (src : Nat) : State :=
  if wokenThisCycle s then
    let both := rd s Obj.AON_LAST_WAKE.SOURCES ||| 2 ^ src
    setAon (wr s Obj.AON_LAST_WAKE.SOURCES 0 both) (fun a => { a with held := if a.held = 0 then 0 else both })
  else serveWake (recordWake s src)

/-- AIN_WAKE (R421): the crossing of AIN6 or AIN7, in the direction of its POL, has held for 1 ms. -/
def execAinWake (p : Fin 2) (s : State) : Host.Outcome State Fault Refusal :=
  if flag s (if p.val = 0 then Obj.AON_WAKE_EN.AIN6_EN else Obj.AON_WAKE_EN.AIN7_EN) then .next (latchWake s p)
  else .next s

/-- ALARM_WAKE (R421): an armed alarm fires at RC64 ≥ TARGET. -/
def execAlarmWake (s : State) : Host.Outcome State Fault Refusal :=
  if flag s Obj.AON_ALARM.ARM && decide (rd s Obj.AON_ALARM.TARGET ≤ s.time.rc64) then
    let s1 := wr (wr s Obj.AON_ALARM.ARM 0 0) Obj.AON_ALARM.FIRED 0 1
    .next (if flag s Obj.AON_WAKE_EN.ALARM_EN then latchWake s1 2 else s1)
  else .next s

/-- HOSTWAKE_EDGE (R421): an edge to `level` has held for 4 always-on cycles. -/
def execHostwakeEdge (level : Bool) (s : State) : Host.Outcome State Fault Refusal :=
  if flag s Obj.AON_WAKE_EN.HOSTWAKE_EN && level == !flag s Obj.AON_WAKE_EN.HOSTWAKE_EDGE then .next (latchWake s 3)
  else .next s

/-! ### Into Dormant (R420, R422) -/

/-- Snowdrop paces domain d down, or to RETAIN; one that is cut already is off. -/
def snowdropDown (s : State) (d : Nat) : State :=
  let target := if inBanks (365, 368) d then 4 else 0
  match domState s d with
  | 0 | 4 => s
  | 7 => setDom s d 0
  | _ => paced (setDom s d 3) ⟨2, d, false, Config.stepMa d, .falls target⟩

/-- Snowdrop takes the device down (R420 step 5); what still waited at the governor is dropped.  The ADC of housekeeping
stays on demand. -/
def fallDown (s : State) : State :=
  let s1 := setPwr (setAon s (fun a => { a with phase := .fallingDown, pcieLink := 2 })) (fun p =>
    { p with queue := [], sleeps := [], pendingUp := [], point := none, cut := [], fromRetain := [] })
  let s2 := setCtl (showPendingUp s1) (fun c => { c with ronecUp := false })
  dormantWhole (((List.range 390).filter (fun d => decide (d ≠ 373))).foldl snowdropDown s2)

/-- PME_TURN_OFF (R420 step 4): answered by PME_TO_Ack. -/
def execPmeTurnOff (s : State) : Host.Outcome State Fault Refusal :=
  if s.aon.phase = .waitPme then .next (fallDown (emit s (.drive 7 0 1))) else .next s

/-- PME_WAIT_TIMEOUT (R420 step 4): the link is taken down. -/
def execPmeWaitTimeout (s : State) : Host.Outcome State Fault Refusal :=
  if s.aon.phase = .waitPme then .next (fallDown (emit s (.drive 8 0 1))) else .next s

/-- MIN_OFF_EXPIRED (R422): the held wake runs. -/
def execMinOffExpired (s : State) : Host.Outcome State Fault Refusal :=
  if s.aon.phase = .minOff then .next (wakeDormant s) else .next s

/-! ### Out of Dormant (R423) -/

/-- RAILS_GOOD (R423 steps 3 and 4): Snowdrop paces up what Idle needs; the boot ROM has checked the resident firmware
and the retention of control SRAM, and a failure boots cold as a failed boot with fault 0x1402. -/
def execRailsGood (residentOk : Bool) (s : State) : Host.Outcome State Fault Refusal :=
  if s.aon.phase = .rails then
    let s1 := vout s 2 750
    if residentOk then
      let first := [371] ++ domRange 365 370 ++ (domRange 177 336).filter (fun d => decide (domState s d = 4))
      let rest := (List.range 390).filter (fun d => decide (wantOf s .idle false 0 d = 2))
      .next (domsUp (setAon (qprotLatched s1 .idle false) (fun a => { a with phase := .resuming })) 2 (first ++ rest))
    else .next (raise (coldBoot s1 true .straps) 0x1402 0 0 0)
  else .next s

/-- RAILS_GOOD_TIMEOUT (R33, R423 step 2): 5.0 ms after `PWRREQ`; the device waits for the next wake. -/
def execRailsGoodTimeout (s : State) : Host.Outcome State Fault Refusal :=
  if s.aon.phase = .rails then
    let s1 := setAon (wr s Obj.AON_LAST_WAKE.RAILS_LATE 0 1) (fun a => { a with phase := .asleep, pwrReq := false })
    .next (raise (emit s1 (.pin 32 false)) 0x1108 0 0 (rd s Obj.AON_LAST_WAKE.SOURCES))
  else .next s

/-- Ronec firmware resumes (R423 steps 5 and 6): time, Idle, `PCIE_WAKE_N` low, then `WAKE_TARGET`; both MODE notices
carry REASON 6. -/
def resumeIdle (s : State) : State :=
  let s1 := timeOff (setCtl (setAon s (fun a => { a with phase := .awake, pcieWake := true })) (fun c =>
    { c with ronecUp := true })) false
  let s2 := if s.aon.holdoverUsed then raise s1 0x1403 0 0 (rd s Obj.AON_LAST_WAKE.SOURCES) else s1
  let s3 := setModes (emit (setAon s2 (fun a => { a with holdoverUsed := false })) (.pin 33 false)) (fun m =>
    { m with reason := 6, status := 0 })
  let s4 := finishTransition s3 .idle
  let t := Mode.ofCode (lv s Obj.MODE_PLAN.WAKE_TARGET)
  if t = .idle then s4
  else requestMode s4 ⟨t, flag s Obj.MODE_PLAN.PEER_GEOM, flag s Obj.MODE_PLAN.PEER_WATCH, false, 6, 0, 0⟩

/-- Every domain of Idle is up. -/
def idleUp (s : State) : Bool :=
  s.pwr.queue.isEmpty && (List.range 390).all (fun d =>
    decide (wantOf s .idle false 0 d ≠ 2) || domOn s d || s.pwr.barred.contains d)

/-- PCIE_LINK_LEAVES_L2 (R423 step 5): the link is in L0 again, and `PCIE_WAKE_N` is released. -/
def execPcieLinkLeavesL2 (s : State) : Host.Outcome State Fault Refusal :=
  if s.aon.pcieWake ∧ s.aon.pcieLink = 2 then
    .next (emit (setAon s (fun a => { a with pcieWake := false, pcieLink := 0 })) (.pin 33 true))
  else .next s

/-! ### Power-good (R405) -/

/-- Inputs whose LINE a latch-up cycle of domain d holds (R452). -/
def inputsOf (d : Nat) : List Nat :=
  if d < 32 then domRange (8 * d) (8 * d + 7)
  else if inBanks (64, 79) d then domRange (16 * (d - 64)) (16 * (d - 64) + 15)
  else []

/-- The restoration of a domain after a latch-up cycle has ended (R452). -/
def latchupEnds (s : State) (d : Nat) : State :=
  if domCycling s d then
    (inputsOf d).foldl (fun t i => setInput t i (fun x => { x with luUntil := t.time.rc64 + 64 }))
      (setPwr s (fun p => { p with cut := p.cut.filter (fun x => x != d) }))
  else s

/-- DOMAIN_POWER_GOOD (R280, R405, R249): a domain whose segments are granted reports power-good and is restored; a bank
out of RETAIN first passes its check.  The digitizer, the ADC of housekeeping, the control pair in Vigil and a wake from
Dormant go on; a built event that waited for output staging moves. -/
def execDomainPowerGood (d : Fin 394) (s : State) : Host.Outcome State Fault Refusal :=
  if domState s d = 1 && s.pwr.queue.all (fun p => p.dom != d.val) && !s.pwr.fromRetain.contains d.val then
    let s1 := latchupEnds (setDom s d 2) d
    let s2 := if inBanks (48, 63) d && (domRange 48 63).all (domOn s1) && modeOf s1 != .vigil then
        setBbl s1 (fun b => { b with digOn := true }) else s1
    let s3 := if d.val = 373 then hkPowered s2
      else if inBanks (365, 368) d && modeOf s2 == .vigil && phaseOf s2 == .steady && (domRange 365 368).all (domOn s2) then
        setCtl s2 (fun c => { c with ronecUp := true })
      else s2
    let s4 := if d.val = 343 then eventsOut s3.conc.ready.length s3 else s3
    .next (if s4.aon.phase = .resuming && idleUp s4 then resumeIdle s4 else s4)
  else .next s

/-! ### Latch-ups (R414, R452) -/

/-- C falls by twice the step, to the debt cap at most (R414). -/
def latchupDebt (s : State) (d : Nat) : State :=
  let s0 := accrue s
  let floor : Int := -((rd s Obj.PWR_GOV.LU_DEBT_CAP * 160000 : Nat) : Int)
  let c := s0.pwr.credit - ((Config.stepMa d * 32000 : Nat) : Int)
  if c < floor then
    raise (bump (setPwr s0 (fun p => { p with credit := min p.credit floor })) Obj.PWR_STATUS.DEBT_CAPPED 0 1)
      0x1103 d d (Config.stepMa d)
  else setPwr s0 (fun p => { p with credit := c })

/-- The windows of trigger group g that are reserved or being written are STALE (R452). -/
def windowsStale (s : State) : State :=
  setBbl s (fun b => { b with windows := b.windows.map (fun w => if w.frozenAt.isNone then { w with stale := true } else w) })

/-- All sampling stops (R452): fault 0x1009 and Idle. -/
def samplingStops (s : State) : State :=
  if phaseOf s = .steady then raise (forceIdle s 7 0x0011) 0x1009 0 80 0 else failTransition s 80

/-- A warm restart that fails its resident check boots cold (R452); the third within 60 s has booted cold already (R354). -/
def restartLost (s : State) : State := if s.ctl.pair = .restarting then forcedBoot s else s

/-- What the cut of domain d does to the data (R452). -/
def latchupEffect (s : State) (d : Nat) : State :=
  if d < 32 ∨ inBanks (64, 79) d then (inputsOf d).foldl showLine s
  else if inBanks (32, 47) d then windowsStale s
  else if d = 80 then samplingStops s
  else if inBanks (95, 158) d then
    (if !s.dah.seqs.isEmpty && decide (blockFirst s s.dah.expect ≠ s.dah.expect) && !inDropped s s.dah.expect then
       discardBlock s s.dah.expect else s)
  else if inBanks (177, 336) d then bankLost s (d - 177)
  else if inBanks (344, 359) d then clockLoss s (d - 344)
  else if d = 365 ∨ d = 366 then selfCheck s (decide (d = 365)) (decide (d = 366))
  else if d = 367 ∨ d = 368 then restartLost (warmRestart s 0)
  else s

/-- LATCHUP (R414, R452): the monitor of an ON domain fires; the third cycle within 60 s leaves it OFF with fault
0x1109. -/
def execLatchup (d : Fin 394) (s : State) : Host.Outcome State Fault Refusal :=
  if domOn s d && decide (d.val < 390) then
    let times := s.pwr.cycles.filter (fun x => decide (s.time.rc64 < x.2 + 60 * ticksPerSecond))
    let third := decide (2 ≤ (times.filter (fun x => x.1 == d.val)).length)
    let s1 := setPwr (setDom s d (if third then 0 else 7)) (fun p =>
      { p with cycles := times ++ [(d.val, s.time.rc64)], cut := d.val :: p.cut,
               barred := if third then d.val :: p.barred else p.barred })
    let s2 := bumpSat (bump s1 Obj.PWR_STATUS.LATCHUP_CYCLES 0 1) Obj.PWR_DOMAIN.LATCHUPS d 1
    let s3 := raise (latchupDebt s2 d) 0x1102 d d (Config.stepMa d)
    let s4 := if third then raise s3 0x1109 d d (Config.stepMa d) else s3
    .next (latchupEffect s4 d)
  else .next s

/-- LATCHUP_RESTORE (R414): `LU_OFF_US` after the cut, without pacing. -/
def execLatchupRestore (d : Fin 394) (s : State) : Host.Outcome State Fault Refusal :=
  if domState s d = 7 then .next (setDom s d 1) else .next s

/-- AON_OVERCURRENT (R453): `STAT` stays at the FATAL width. -/
def execAonOvercurrent (s : State) : Host.Outcome State Fault Refusal :=
  .next (raise (setAon s (fun a => { a with overcurrent := true })) 0x1404 0 0 0)

/-! ### Summaries and glitches (R447, R454) -/

/-- FAULT_COUNT_SUMMARY (R447): the interval of 1 s after the last notice of an instance limited to one notice per
second ends. -/
def execFaultCountSummary (code inst : Nat) (s : State) : Host.Outcome State Fault Refusal :=
  match findFault s code inst with
  | some x =>
    if ratedCodes.contains code ∧ x.sinceNotice ≠ 0 then
      let s1 := notice s (.fault code inst (severityOf code) 3 x.sinceNotice (detailOf s x.detailA x.detailB))
      .next { s1 with
        flt := { s1.flt with
                 active := updFirst (fun y => y.code == code && y.inst == inst) (fun y => { y with sinceNotice := 0 })
                   s1.flt.active } }
    else .next s
  | none => .next s

/-- PIN_PULSE_FILTERED (R454, R390): a pulse on `HKSTART` (0), `HOSTWAKE` (1) or `REF10M` (2) is ignored and counted; the
chapter numbers no unit, so the instance is 0. -/
def execPinPulseFiltered (_pin : Fin 3) (s : State) : Host.Outcome State Fault Refusal :=
  .next (raise s 0x1405 0 0 0)

end Sys2Proof.Machine
end

