-- ==== Sys2Proof/Machine/Cfg.lean ====
section
/-! DEFINITION. Reads and writes of configuration objects: what each write is checked for and what it does at its commit
(R380, R381, and the "Configuration objects" of every chapter). -/

namespace Sys2Proof.Machine

/-! ### Reads (R380) -/

/-- `BBL_WINDOW.LAT_DIG` in half ticks (R130): 896 while the AXREL source is enabled, else 640. -/
def latDig (s : State) : Nat :=
  if bit (rd s Obj.TRG_CTRL.SRC_EN) 4 ∧ rd s Obj.TRG_AXREL.RECV_PORTS ≠ 0 then 896 else 640

/-- `FST_BANK.STATE` of bank n. -/
def bankShown (s : State) (n : Nat) : State :=
  wr s Obj.FST_BANK.STATE n (match domState s (bankDom n) with | 2 => 0 | 3 => 0 | 4 => 1 | 6 => 3 | _ => 2)

/-- `DAH_GEOM` (R157, R184). -/
def geomShown (s : State) : State :=
  let g := geomNow s
  wr (wr (wr (wr s Obj.DAH_GEOM.BITS8 0 (b2n (decide (modeOf s = .concentrate)))) Obj.DAH_GEOM.K_SLICES 0
    ((dahCur s).getD (newSeq s 0)).slices)
    Obj.DAH_GEOM.N_PACKS 0 (geomPacks g)) Obj.DAH_GEOM.N_PRODUCTS 0 (geomProducts g)

/-- The state with the fields of an instance that are computed when they are read. -/
def shown (s : State) (id i : Nat) : State :=
  match id with
  | 0x0108 => wr (wr s Obj.PROBE_TERM.ZT_RE i (ofInt 16 (Config.probeTermRe i))) Obj.PROBE_TERM.ZT_IM i
      (ofInt 16 (Config.probeTermIm i))
  | 0x0201 => wr s Obj.BBL_WINDOW.LAT_DIG 0 (latDig s)
  | 0x0604 => evtSnapshot s
  | 0x0706 => geomShown s
  | 0x0802 => peerSnapshot s
  | 0x0A01 => wr s Obj.FST_MAP.DAH_BANKS 0 (mapDahBanks (rd s Obj.FST_MAP.MAP))
  | 0x0A04 => bankShown s i
  | 0x0C06 => if i = 0 then wr s Obj.MOV_LOSSY.HIGH_WM 0 (rd s Obj.EVT_SHIP.HIGH_WM) else s
  | 0x0D06 => prbsSnapshot s (i / 2) (i % 2)
  | 0x0E01 => wr (wr s Obj.TIM_STATE.RC64 0 s.time.rc64) Obj.TIM_STATE.TIME 0 (ts96Now s)
  | 0x1106 => domSnapshot s i
  | 0x1107 => powerSnapshot s
  | 0x1204 => hkSnapshot s
  | _ => s

/-- The value of instance i of an object. -/
def readObject (s : State) (o : ObjDesc) (i : Nat) : Nat := objValue (shown s o.id i) o.fields i

/-! ### Conditions between fields -/

/-- The latencies leave the pre-trigger segments unwritten (R71). -/
def latFits (t : State) : Bool :=
  [latDig t, rd t Obj.BBL_WINDOW.LAT_ANA].all (fun l => decide (l + 256 * (rd t Obj.BBL_WINDOW.PRE + 1) ≤ 4096))

/-- P + Q as written. -/
def windowLength (t : State) : Nat := rd t Obj.BBL_WINDOW.PRE + rd t Obj.BBL_WINDOW.POST

/-- The bucket stays within the digitizer's rate, and `RESERVE` below W_max (R127). -/
def bucketFits (t : State) : Bool :=
  decide (rd t Obj.TRG_BUCKET.RATE * windowLength t * 160 ≤ 1000000)
    && decide (rd t Obj.TRG_BUCKET.RESERVE < 48 / windowLength t)

/-- A change of the governor rate or the window would place T_VMAX below Tj + 5 °C while `WAKE_TARGET` is Vigil
(R87). -/
def vmaxRefused (s t : State) : Bool :=
  let v := tVmax (rd t Obj.PWR_GOV.RATE) (rd t Obj.BBL_WINDOW.PRE) (rd t Obj.BBL_WINDOW.POST)
  (decide (rd s Obj.PWR_GOV.RATE ≠ rd t Obj.PWR_GOV.RATE) || decide (rd s Obj.BBL_WINDOW.PRE ≠ rd t Obj.BBL_WINDOW.PRE)
      || decide (rd s Obj.BBL_WINDOW.POST ≠ rd t Obj.BBL_WINDOW.POST))
    && decide (rd s Obj.MODE_PLAN.WAKE_TARGET = Mode.vigil.code) && decide ((v : Int) - 80 < s.bbl.tj + 10)

/-- A write names a ring of another kind than its source needs (R283). -/
def ringWrong (t : State) (covers : Bool) (ring kind : Nat) : Bool := covers && decide (ringKind t ring ≠ kind)

/-- A beam is enabled. -/
def beamsEnabled (t : State) : Bool :=
  (List.range 64).any (fun b => flag t Obj.SUN_BEAM.ENABLE b) || flag t Obj.SUN_INCOH.ENABLE

/-- The checks of `SUN_CTRL`, `SUN_BEAM` and `SUN_INCOH` (R222, R223, R232, R343). -/
def sunStatus (t : State) (beam : Bool) : List Nat :=
  [statusIf (flag t Obj.SUN_CTRL.DEST && beamsEnabled t && !flag t Obj.NET_TEMPLATE.SET 30) 0x0002,
   statusIf (!(sunRanges t && sunPathFits t)) 0x0001,
   statusIf (beam && !sunLoadWithin (beamChannelsNow t) 92 (slowestPoint t)) 0x0010]

/-- A template's header fits its kind (R343). -/
def templateFits (t : State) (i : Nat) : Bool :=
  let n := rd t Obj.NET_TEMPLATE.HDR_LEN i
  if rd t Obj.NET_TEMPLATE.KIND i = 0 then decide (n = 14) || decide (n = 18)
  else (decide (n = 42) || decide (n = 46)) && decide (bits (rd t Obj.NET_TEMPLATE.HEADER i) (8 * (n - 28)) 8 = 0x45)

/-- The comparator that a write of `TIM_CMP` leaves. -/
def cmpMerged (t : State) (c : Nat) : CmpWrite :=
  ⟨rd t Obj.TIM_CMP.TARGET c, rd t Obj.TIM_CMP.ACTION c, flag t Obj.TIM_CMP.KIND c, flag t Obj.TIM_CMP.ARM c,
   rd t Obj.TIM_CMP.ARG c, rd t Obj.TIM_CMP.PERIOD c, rd t Obj.TIM_CMP.CIVIL c⟩

/-- A regulator entry of a rail whose address answered the boot scan (R416). -/
def railBound (t : State) (rail : Nat) : Bool := (boundTo t rail).isSome

/-- Two regulators name a rail. -/
def railTwice (t : State) (rail : Nat) : Bool :=
  decide (2 ≤ ((List.range 8).filter (fun r => rd t Obj.PWR_REG.RAIL r == rail)).length)

/-- A mode that the device runs, or is entering, carries a load that the slowest point refuses (R24, R164, R222). -/
def loadRefused (t : State) : Bool :=
  !(loadsFit t (modeOf t) t.modes.cluster16)
    || (phaseOf t != .steady && !loadsFit t (modeTarget t) (cluster16 t))

/-- `AX_OFFSET` lies within ±320 samples. -/
def axOffsetFits (t : State) : Bool := decide ((toInt 10 (rd t Obj.TRG_AXREL.AX_OFFSET)).natAbs ≤ 320)

/-! ### What a write of an object is checked for beyond its map -/

/-- The statuses of a write of instance i of an object, by its chapter: `s` before it, `t` with its RW fields written. -/
def ownStatus (s t : State) (id i value mask mailbox seq : Nat) : List Nat :=
  match id with
  | 0x1010 => [(modePlanWrite s (objValue t Obj.MODE_PLAN.fields 0) mailbox seq).1]
  | 0x0104 => [statusIf (runsOp s [0x22] && bit s.afe.sweepMask i) 0x0002]
  | 0x0107 => [statusIf (decide (rd t Obj.PROBE_REF.REF_RE i = 0) && decide (rd t Obj.PROBE_REF.REF_IM i = 0)) 0x0001]
  | 0x0201 =>
    [statusIf (runsOp s [0x23]) 0x0002,
     statusIf (decide (windowLength t < 2) || decide (16 < windowLength t) || !latFits t || !bucketFits t) 0x0001,
     statusIf (vmaxRefused s t) 0x0010]
  | 0x0501 => [statusIf (!latFits t) 0x0001]
  | 0x0502 => [statusIf (decide (rd t Obj.TRG_GROUP.LEVEL i ≤ rd t Obj.TRG_GROUP.HYST i)) 0x0001]
  | 0x0505 => [statusIf (!bucketFits t) 0x0001]
  | 0x0507 => [statusIf (!latFits t || bit (rd t Obj.TRG_AXREL.SEND_SRC) 4 || !axOffsetFits t) 0x0001]
  | 0x0602 => [statusIf (flag t Obj.EVT_ZS.FORCE i && flag t Obj.EVT_ZS.EXCLUDE i) 0x0001]
  | 0x0603 =>
    let m := rd t Obj.EVT_SHIP.MODE
    let covers := touchesAny mask [Obj.EVT_SHIP.MODE, Obj.EVT_SHIP.RING]
    [statusIf (decide (m = 0) && ringWrong t covers (rd t Obj.EVT_SHIP.RING) 1) 0x0002,
     statusIf (decide (m = 1) && ringWrong t covers (rd t Obj.EVT_SHIP.RING) 3) 0x0002,
     statusIf (decide (2 ≤ m) && touches mask Obj.EVT_SHIP.MODE && decide (modeOf s = .peer) && s.modes.cluster16) 0x0002]
  | 0x0701 =>
    [statusIf (!s.dah.seqs.isEmpty && touchesAny mask [Obj.DAH_INTEG.CALBIN, Obj.DAH_INTEG.CAL_STRING]) 0x0002,
     if touches (value &&& mask) Obj.DAH_INTEG.START_NOW then startStatus t else 0]
  | 0x0702 =>
    [statusIf (!s.dah.seqs.isEmpty && touchesAny mask Obj.DAH_BAND.fields) 0x0002,
     statusIf (decide (1024 < rd t Obj.DAH_BAND.K_FIRST + rd t Obj.DAH_BAND.K_COUNT)) 0x0001]
  | 0x0703 =>
    let network := decide (rd t Obj.DAH_DUMP.DEST = 2)
    let covers := touchesAny mask [Obj.DAH_DUMP.DEST, Obj.DAH_DUMP.RING]
    [statusIf (!network && ringWrong t covers (rd t Obj.DAH_DUMP.RING) 1) 0x0002,
     statusIf (!network && decide (56 < rd t Obj.DAH_DUMP.PATH_GBPS)) 0x0001]
  | 0x0704 =>
    let b := rd t Obj.DAH_DUMP_BASE.BASE i
    [statusIf (decide (b ≠ 0) && (decide (b % 4096 ≠ 0) || decide (b < 0x1000000000))) 0x0001]
  | 0x0801 => [statusIf (decide (modeOf s = .peer)) 0x0002]
  | 0x0804 =>
    let d := rd t Obj.PEER_CONC.DEST
    [statusIf (decide (d = 0) && ringWrong t (touchesAny mask [Obj.PEER_CONC.DEST, Obj.PEER_CONC.RING])
      (rd t Obj.PEER_CONC.RING) 1) 0x0002,
     statusIf (decide (d = 1) && !flag t Obj.NET_TEMPLATE.SET 31) 0x0002]
  | 0x0901 =>
    sunStatus t false ++ [statusIf (!flag t Obj.SUN_CTRL.DEST && ringWrong t
      (touchesAny mask [Obj.SUN_CTRL.DEST, Obj.SUN_CTRL.RING]) (rd t Obj.SUN_CTRL.RING) 1) 0x0002]
  | 0x0902 => sunStatus t true
  | 0x0903 => sunStatus t false
  | 0x0906 =>
    let op := bits (value &&& mask) 0 2
    [statusIf (touches mask Obj.SUN_SWITCH.SPX_REF && decide (pendingState s = 2)) 0x0002,
     statusIf (decide (op = 1) && decide (pendingState s = 0)) 0x0002,
     statusIf (decide (op = 3) && decide (pendingState s = 2)) 0x0002,
     statusIf (touches (value &&& mask) Obj.SUN_SWITCH.NOW && decide (op ≠ 3) && decide (pendingState s = 0)) 0x0002]
  | 0x0B01 => [statusIf (touches (value &&& mask) Obj.CMP_FR.VERIFY_TEST && decide (modeOf s ≠ .test)) 0x0002]
  | 0x0C02 =>
    [statusIf ((List.range 64).any (fun r => decide (ringKind s r ≠ 0)) || s.dah.dumps.any (fun d => d.dest == 1)) 0x0002,
     statusIf (decide (rd t Obj.MOV_HOSTWIN.BASE % 4096 ≠ 0)) 0x0001]
  | 0x0C03 =>
    [statusIf (decide (ringKind s i ≠ 0) && touchesAny mask Obj.MOV_RING.fields
        && !(touches mask Obj.MOV_RING.KIND && decide (rd t Obj.MOV_RING.KIND i = 0))) 0x0002,
     statusIf (decide (ringKind s i = 0) && decide (rd t Obj.MOV_RING.KIND i = 3)
        && !flag t Obj.NET_TEMPLATE.SET (rd t Obj.MOV_RING.TEMPLATE i)) 0x0002,
     statusIf (decide (rd t Obj.MOV_RING.BASE i % 4096 ≠ 0)) 0x0001]
  | 0x0C06 => [statusIf (decide (i = 0) && touches mask Obj.MOV_LOSSY.HIGH_WM) 0x0002]
  | 0x0D03 =>
    let others := touchesAny mask (Obj.AXL_TEST.fields.filter (fun f => f ≠ Obj.AXL_TEST.ALLOW_FAR))
    [statusIf (!(decide (modeOf s = .test) || (decide (modeOf s = .idle) && !others))) 0x0002]
  | 0x0E03 =>
    let op := bits (value &&& mask) 80 2
    [statusIf (decide (op = 2) && !flag s Obj.TIM_STATE.VALID) 0x0002,
     statusIf (decide (op = 3) || decide (1000000000 ≤ (toInt 32 (rd t Obj.TIM_SET.STEP_NS)).natAbs)) 0x0001]
  | 0x0E06 =>
    let w := cmpMerged t i
    [statusIf (w.civilKind && (touches mask Obj.TIM_CMP.TARGET || !flag s Obj.TIM_STATE.VALID)) 0x0002,
     statusIf (!cmpLegal s w) 0x0001]
  | 0x0F01 =>
    [statusIf (!flag t Obj.NET_PORT.AN i && decide (rd t Obj.NET_PORT.MEDIA i = 3)) 0x0001,
     statusIf (bit (rd t Obj.NET_PORT.MAC i) 0) 0x0001]
  | 0x0F02 => [statusIf (!templateFits t i) 0x0001]
  | 0x0F03 => [statusIf (decide (1000000 < (toInt 32 (rd t Obj.NET_PTP.ASYM_PS i)).natAbs)) 0x0001]
  | 0x1101 => [statusIf (vmaxRefused s t) 0x0010]
  | 0x1102 =>
    [statusIf (!railBound t 1 && (decide (rd t Obj.PWR_DVFS.TARGET ≠ 3) || decide (rd t Obj.PWR_DVFS.SLOWEST ≠ 3))) 0x0002,
     statusIf (decide (rd t Obj.PWR_DVFS.SLOWEST < rd t Obj.PWR_DVFS.TARGET)) 0x0001,
     statusIf (loadRefused t) 0x0010]
  | 0x1103 =>
    let a := rd t Obj.PWR_REG.ADDR i
    [statusIf s.pwr.point.isSome 0x0002,
     statusIf (railBound s 1 && !railBound t 1
        && (decide (rd t Obj.PWR_DVFS.TARGET ≠ 3) || decide (rd t Obj.PWR_DVFS.SLOWEST ≠ 3))) 0x0002,
     statusIf (railTwice t 1 || railTwice t 2 || (decide (a ≠ 0) && (decide (a < 0x08) || decide (0x77 < a)))) 0x0001]
  | 0x1203 => [statusIf (decide (toInt 16 (rd t Obj.HK_LIMIT.HIGH i) < toInt 16 (rd t Obj.HK_LIMIT.LOW i))) 0x0001]
  | _ => []

/-- The status of one entry of a CFG_WRITE against a state (R381, R400): UNKNOWN_OBJECT, NOT_PERMITTED for a table,
BAD_LENGTH, the checks of its map and of its chapter. -/
def entryStatus (s : State) (e : CfgEntry) (mailbox seq : Nat) : Nat :=
  match objOf e.obj with
  | none => 0x0004
  | some o =>
    if o.instances ≤ e.inst then 0x0004
    else if (tableShape e.obj).isSome then 0x0002
    else if e.count ≠ objBytes e.obj then 0x0005
    else
      firstStatus (mapStatus s o e.inst e.value e.mask
        ++ ownStatus s (writeRw s o.fields e.inst e.value e.mask) e.obj e.inst e.value e.mask mailbox seq)

/-! ### What a write does at its commit -/

/-- A write of `MOV_RING` (R293): `KIND` 0 stops the ring, another starts it. -/
def ringWrite (s : State) (r value mask : Nat) : State :=
  let kind := merged s Obj.MOV_RING.KIND r value mask
  let rest := Obj.MOV_RING.fields.filter (fun f => f ≠ Obj.MOV_RING.KIND)
  if touches mask Obj.MOV_RING.KIND then
    (if kind = 0 then writeRw (kindWrite s r 0) rest r value mask else kindWrite (writeRw s rest r value mask) r kind)
  else writeRw s rest r value mask

/-- A write of `TIM_CMP` (R339, R340): its old arming stays where the mask leaves `ARM` alone, and its converted target
where it names no civil time. -/
def comparatorWrite (s : State) (c value mask : Nat) : State :=
  let fs := Obj.TIM_CMP.fields
  let u := clearW1c s fs c value mask
  if touchesAny mask (fs.filter (fun f => f.kind = .rw)) then
    let t := writeRw u fs c value mask
    let v := cmpWrite u c (cmpMerged t c)
    let v1 := if touches mask Obj.TIM_CMP.ARM then v
      else setTime v (fun x => { x with cmpArmed := u.time.cmpArmed, cmpFired := u.time.cmpFired })
    if touchesAny mask [Obj.TIM_CMP.ARM, Obj.TIM_CMP.KIND, Obj.TIM_CMP.CIVIL, Obj.TIM_CMP.TARGET] then v1
    else wr v1 Obj.TIM_CMP.TARGET c (rd u Obj.TIM_CMP.TARGET c)
  else u

/-- A write of `SUN_SWITCH` (R224, R232): COPY comes before `SPX_REF`, ARM, DISARM and `NOW` after it. -/
def switchWrite (s : State) (value mask : Nat) : State :=
  let op := bits (value &&& mask) 0 2
  let s1 := if op = 3 then (sunCopy s).2 else s
  let s2 := writeRw s1 [Obj.SUN_SWITCH.SPX_REF] 0 value mask
  let s3 := if op = 1 then (sunArm s2).2 else if op = 2 then sunDisarm s2 else s2
  if touches (value &&& mask) Obj.SUN_SWITCH.NOW then (sunSwitchNow s3).2 else s3

/-- A write of `AXL_PORT` (R320, R323): links that it disables go to OFF. -/
def axlPortWrite (s : State) (w : Nat) : State :=
  let s1 := (List.range 4).foldl (fun t k =>
    if flag t Obj.AXL_PORT.ENABLE w && bit (rd t Obj.AXL_PORT.LINK_EN w) k then t else linkQuiet t (4 * w + k) 0) s
  (List.range 4).foldl (fun t k => if portUp t (4 * w + k) then mapFaults t (4 * w + k) else t) s1

/-- A far-end loopback is asked of the partner, whose TRAIN block answers it: one in Idle or Test may grant it (a free
value: `ALLOW_FAR` of the partner), any other refuses, which leaves `LOOP` reading 0 (R321). -/
def farLoop (t : State) (l : Nat) : State :=
  let partner := rd t Obj.AXL_LINK_STATUS.PARTNER_MODE l
  let asked := emit t (.axUnit l 0xAA 0 4)
  if 5 ≤ linkState t l ∧ linkState t l ≤ 7 ∧ (partner = Mode.idle.code ∨ partner = Mode.test.code) then
    wr (drawFree asked).2 Obj.AXL_TEST.LOOP l (3 * ((drawFree t).1 % 2))
  else wr asked Obj.AXL_TEST.LOOP l 0

/-- A write of `AXL_TEST` (R321, R323): a new pattern starts its checkers afresh. -/
def axlTestWrite (s t : State) (l value mask : Nat) : State :=
  let t1 := if rd s Obj.AXL_TEST.PRBS l = rd t Obj.AXL_TEST.PRBS l then t
    else (List.range 2).foldl (fun u d =>
      wr (wr (wr u Obj.AXL_PRBS.LOCK (2 * l + d) 0) Obj.AXL_PRBS.ERRORS (2 * l + d) 0) Obj.AXL_PRBS.BITS (2 * l + d) 0) t
  let t2 := if touches mask Obj.AXL_TEST.LOOP && decide (rd t1 Obj.AXL_TEST.LOOP l = 3) then farLoop t1 l else t1
  if touches (value &&& mask) Obj.AXL_TEST.ERR_INJECT then errInject t2 l else t2

/-- A write of `TIM_SET` (R331). -/
def timSetWrite (s t : State) (value mask : Nat) : State :=
  let at0 := flag t Obj.TIM_SET.AT
  let n := rd s Obj.TIM_PPS.COUNT
  match bits (value &&& mask) 80 2 with
  | 1 => timeOpWrite t ⟨false, rd t Obj.TIM_SET.SEC, rd t Obj.TIM_SET.NSEC, 0, at0, n⟩
  | 2 => timeOpWrite t ⟨true, 0, 0, toInt 32 (rd t Obj.TIM_SET.STEP_NS), at0, n⟩
  | _ => t

/-- A write of `HK_CTRL` (R429). -/
def hkCtrlWrite (t : State) (value mask : Nat) : State :=
  let t1 := if touches (value &&& mask) Obj.HK_CTRL.START then hkRequest t (rd t Obj.HK_CTRL.START_ENTRY) else t
  if touches (value &&& mask) Obj.HK_CTRL.STOP then hkStopWrite t1 else t1

/-- A write of `CAL_STRING`: `ENABLE` = 0 stops the string at once, everything else waits for the next block boundary
(R439, R444). -/
def calStringWrite (t : State) (n mask : Nat) : State :=
  if touches mask Obj.CAL_STRING.ENABLE && !flag t Obj.CAL_STRING.ENABLE n then stringDisable t n else t

/-- A write of `CAL_PLAN` (R437). -/
def calPlanWrite (t : State) (p value mask : Nat) : State :=
  let t1 := if touches (value &&& mask) Obj.CAL_PLAN.START then planStart t p else t
  if touches (value &&& mask) Obj.CAL_PLAN.STOP then stringsEnd t1 (rd t1 Obj.CAL_PLAN.STRINGS p) else t1

/-- A write of `PWR_DVFS` (R416, R426): the governor goes to `TARGET`, or stays slower while the die is too hot. -/
def dvfsWrite (t : State) : State :=
  let p := rd t Obj.PWR_DVFS.POINT
  let target := rd t Obj.PWR_DVFS.TARGET
  let hot := decide ((2 * rd t Obj.PWR_DVFS.THROTTLE_C : Nat) < t.bbl.tj)
  let aim := min (rd t Obj.PWR_DVFS.SLOWEST) (if hot then max p target else target)
  askPoint (wr t Obj.PWR_DVFS.THROTTLED 0 (b2n (decide (target < p)))) aim

/-- A change of `DAH_INTEG` or `DAH_DUMP` is held for the next start (R184). -/
def dahHeld (s t : State) (fs : List Field) : State :=
  if fs.any (fun f => decide (rd s f ≠ rd t f)) then wr t Obj.DAH_STATUS.PENDING 0 1 else t

/-- A rewrite of an entry of `TRG_GROUP` or `TRG_DELAY` ends its uncorrectable error (R136). -/
def entryRewritten (t : State) (e : Nat) : State :=
  if mapGet t.trg.bad e = 0 then t
  else endFault (setTrg t (fun x => { x with bad := mapSet x.bad e 0 })) 0x0503 e

/-- What a write of instance i of an object does beyond its fields: `s` before it, `t` with its RW fields written and its
W1C fields cleared. -/
def ownEffect (s t : State) (id i value mask mailbox seq : Nat) : State :=
  match id with
  | 0x1010 => (modePlanWrite s (objValue t Obj.MODE_PLAN.fields 0) mailbox seq).2
  | 0x0103 =>
    if flag s Obj.AFE_STATUS.CLAMP_STICKY i && !flag t Obj.AFE_STATUS.CLAMP_STICKY i then clearFault t 0x0101 i else t
  | 0x0104 => if touchesAny mask Obj.PROBE_CFG.fields then probeCfgWrite t i else t
  | 0x0201 => showVmax t
  | 0x0202 => showVmax t
  | 0x0204 =>
    let t1 := showVmax t
    if !flag s Obj.BBL_DIG.KEEP_WARM && flag t Obj.BBL_DIG.KEEP_WARM && (watchOn t || decide (modeOf t = .calibrate)) then
      digitizerUp t1 else t1
  | 0x0401 => latch t [Obj.CHZ_CTRL.EQ_EFFECT] 0
  | 0x0403 => maskWritten t
  | 0x0502 => entryRewritten t i
  | 0x0503 => entryRewritten t (16 + i)
  | 0x0505 =>
    wr (tokenAccrue t (rd s Obj.TRG_BUCKET.RATE)) Obj.TRG_STATUS.TOKENS 0
      (min (rd t Obj.TRG_STATUS.TOKENS) (rd t Obj.TRG_BUCKET.DEPTH))
  | 0x0603 => evtLevels t
  | 0x0701 =>
    let t1 := dahHeld s t [Obj.DAH_INTEG.INT_BLOCKS, Obj.DAH_INTEG.SPREAD]
    if touches (value &&& mask) Obj.DAH_INTEG.START_NOW then acceptStart t1 (nextBlock t1) else t1
  | 0x0703 => dahHeld s t Obj.DAH_DUMP.fields
  | 0x0906 => switchWrite s value mask
  | 0x0B01 =>
    if touches (value &&& mask) Obj.CMP_FR.VERIFY_TEST then { t with cmp := { t.cmp with failNext := true } } else t
  | 0x0C03 => ringWrite s i value mask
  | 0x0C04 => wr t Obj.MOV_RING_STATUS.ERROR i (rd s Obj.MOV_RING_STATUS.ERROR i)
  | 0x0C07 => if flag s Obj.MOV_ERR.VALID && !flag t Obj.MOV_ERR.VALID then wr t Obj.MOV_ERR.COUNT 0 0 else t
  | 0x0D02 => axlPortWrite t i
  | 0x0D03 => axlTestWrite s t i value mask
  | 0x0E02 =>
    if touchesAny mask [Obj.TIM_INC.INC, Obj.TIM_INC.WHEN] then incWrite t (rd t Obj.TIM_INC.INC) (rd t Obj.TIM_INC.WHEN)
    else t
  | 0x0E03 => timSetWrite s t value mask
  | 0x0E04 => setTime t (fun x => { x with ppsWaitHeld := rd t Obj.TIM_REF.PPS_WAIT_MS })
  | 0x0E06 => comparatorWrite s i value mask
  | 0x0F02 => wr t Obj.NET_TEMPLATE.SET i 1
  | 0x1101 => showVmax t
  | 0x1102 => dvfsWrite t
  | 0x1201 => hkCtrlWrite t value mask
  | 0x1301 => calStringWrite t i mask
  | 0x1302 => calPlanWrite t i value mask
  | _ => t

/-- An entry that has passed its checks is applied (R381). -/
def applyEntry (s : State) (e : CfgEntry) (mailbox seq : Nat) : State :=
  match objOf e.obj with
  | none => s
  | some o =>
    ownEffect s (clearW1c (writeRw s o.fields e.inst e.value e.mask) o.fields e.inst e.value e.mask)
      e.obj e.inst e.value e.mask mailbox seq

/-- The statuses of the entries of a command, each checked on the fields that those before it leave. -/
def entryStatuses : List CfgEntry → State → Nat → Nat → List Nat
  | [], _, _, _ => []
  | e :: rest, s, mailbox, seq =>
    let st := entryStatus s e mailbox seq
    let s1 := match objOf e.obj with
      | some o => if st = 0 then writeRw s o.fields e.inst e.value e.mask else s
      | none => s
    st :: entryStatuses rest s1 mailbox seq

/-- The mask of an entry of an Ebing image: every RW, W1C and WO bit of the object (R381). -/
def fullMask (id : Nat) : Nat :=
  match objOf id with
  | some o => kindBits o.fields (fun k => k = .rw || k = .w1c || k = .wo)
  | none => 0

end Sys2Proof.Machine
end

