-- ==== Sys2Proof/Machine/Ctl.lean ====
section
/-! DEFINITION. The commands of the mailboxes but jobs and images: identity, configuration objects, tables, acquisition,
faults (R379 to R390, `17_ronec_command_reference.md`). -/

namespace Sys2Proof.Machine

/-! ### GET_INFO, CFG_READ, CFG_WRITE (R379 to R381) -/

/-- The 40 bytes of GET_INFO (R379). -/
def infoBytes (s : State) : Bytes :=
  let t := commitTick s
  let up := ronecRuns s
  leBytes 2 0x5A01 ++ [0xB0, 0] ++ ronecBytes s ++ [if up then s.ctl.fwSecurity % 256 else 0, s.ctl.rollback % 256]
    ++ leBytes 2 s.aon.bootId ++ [s.aon.bootFails % 256, (modeOf s).code, s.ctl.chipId % 16, s.ctl.bootSrc % 4,
      s.ctl.fwSlot % 4, 0] ++ leBytes 8 t ++ leBytes 12 (ts96At s t) ++ [0, 0, 0, 0]

/-- GET_INFO (R379). -/
def execGetInfo (m : Fin 8) (s : State) : Host.Outcome State Fault Refusal :=
  runCommand s m 0x01 (fun _ => commit s m 0 (infoBytes s))

/-- The entries of a CFG_READ: object and instance (R380). -/
def readEntries (p : Bytes) : List (Nat × Nat) :=
  (List.range (p.length / 8)).map (fun k => (leAt p (8 * k) 2, leAt p (8 * k + 2) 2))

/-- The status of one entry of a CFG_READ. -/
def readStatus (e : Nat × Nat) : Nat :=
  match objOf e.1 with
  | none => 0x0004
  | some o => if o.instances ≤ e.2 then 0x0004 else statusIf (tableShape e.1).isSome 0x0002

/-- The bytes of one entry of the response of a CFG_READ. -/
def readBytes (s : State) (e : Nat × Nat) : Bytes :=
  match objOf e.1 with
  | none => []
  | some o =>
    let n := objBytes e.1
    leBytes 2 e.1 ++ leBytes 2 e.2 ++ leBytes 4 n ++ padTo (up8 n) (leBytes n (readObject s o e.2))

/-- CFG_READ (R380): every entry is read, or nothing is returned. -/
def execCfgRead (m : Fin 8) (s : State) : Host.Outcome State Fault Refusal :=
  runCommand s m 0x10 (fun r =>
    let es := readEntries r.payload
    let st := firstStatus (es.map readStatus)
    let out := (es.map (readBytes s)).flatten
    if st ≠ 0 then commit s m st []
    else if 472 < out.length then commit s m 0x0007 []
    else commit s m 0 out)

/-- The response of a CFG_WRITE (R381). -/
def writeResponse (applied failIndex failObject : Nat) : Bytes :=
  leBytes 2 applied ++ leBytes 2 failIndex ++ leBytes 2 failObject ++ [0, 0]

/-- CFG_WRITE (R381): every entry is checked before any is applied; one failure refuses the whole command. -/
def execCfgWrite (m : Fin 8) (s : State) : Host.Outcome State Fault Refusal :=
  runCommand s m 0x11 (fun r =>
    let es := entriesOf r.payload
    let sts := entryStatuses es s m r.seq
    let st := firstStatus sts
    if st ≠ 0 then
      let k := sts.findIdx (fun x => x == st)
      commit s m st (writeResponse 0 k (nth es k ⟨0, 0, 0, 0, 0⟩).obj)
    else
      commit (es.foldl (fun t e => applyEntry t e m r.seq) s) m 0 (writeResponse es.length 0xFFFF 0))

/-! ### Tables (R382, R383) -/

/-- A table command as requested: object, instances, entries, ring, CRC. -/
structure TableReq where
  obj : Nat
  inst0 : Nat
  insts : Nat
  entry0 : Nat
  entries : Nat
  ring : Nat
  crc : Nat
  deriving DecidableEq, Repr

/-- The 24 bytes of a table command. -/
def tableReq (p : Bytes) : TableReq :=
  ⟨leAt p 0 2, leAt p 2 2, leAt p 4 2, leAt p 8 4, leAt p 12 4, leAt p 16 1, leAt p 20 4⟩

/-- The bytes that a table command moves. -/
def TableReq.bytes (q : TableReq) : Nat := q.insts * q.entries * objBytes q.obj

/-- The instances and entries that a table command names, instance-major, entries ascending. -/
def TableReq.places (q : TableReq) : List (Nat × Nat) :=
  (List.range q.insts).flatMap (fun i => (List.range q.entries).map (fun k => (q.inst0 + i, q.entry0 + k)))

/-- UNKNOWN_OBJECT: no such object, instance or entry. -/
def tableUnknown (q : TableReq) : Bool :=
  match objOf q.obj with
  | none => true
  | some o =>
    decide (o.instances < q.inst0 + q.insts)
      || (match tableShape q.obj with
          | some sh => decide (sh.2 < q.entry0 + q.entries)
          | none => false)

/-- The status of a table command before its data (R370, R382, R383). -/
def tableStatus (s : State) (q : TableReq) (write : Bool) : Nat :=
  if tableUnknown q then 0x0004
  else if (tableShape q.obj).isNone || (decide (q.ring < 64) && !ringIs s q.ring (if write then 2 else 1)) then 0x0002
  else if write && (decide (q.obj = 0x0A06)
      || (decide (q.obj = 0x0905) && (decide (64 < q.inst0 + q.insts) || decide (pendingState s = 2)))) then 0x0002
  else if 63 < q.ring ∨ 1048576 < q.bytes ∨ (write = true ∧ q.obj = 0x0904 ∧ 16384 < q.insts * q.entries)
      ∨ (write = false ∧ q.crc ≠ 0) then 0x0001
  else 0

/-- The value of an entry lies in its range. -/
def tableValueOk (obj v : Nat) : Bool :=
  match obj with
  | 0x0402 => decide (bits v 0 16 ≠ 0x8000) && decide (bits v 16 16 ≠ 0x8000)
  | 0x0904 => decide (bits v 0 8 ≠ 0x80) && decide (bits v 8 8 ≠ 0x80)
  | 0x0905 => decide (bits v 0 24 ≠ 0x800000) && decide (bits v 24 24 ≠ 0x800000)
  | 0x0807 => decide (bits v 0 12 ≠ bits v 12 12) && decide (bits v 24 7 = 0)
  | _ => true

/-- The values of the data of a table command, with their places. -/
def tableValues (q : TableReq) (data : Bytes) : List ((Nat × Nat) × Nat) :=
  let n := objBytes q.obj
  q.places.zipIdx.map (fun p => (p.1, leAt data (n * p.2) n))

/-- The entries enter the held or pending copy of their table (R105, R224, R226, R215). -/
def tableStore (s : State) (obj : Nat) (vs : List ((Nat × Nat) × Nat)) : State :=
  match obj with
  | 0x0402 =>
    let c : EqChange := ⟨flag s Obj.CHZ_CTRL.EQ_EFFECT, s.time.rc64, vs.map (fun v => (v.1.1 * 1024 + v.1.2, v.2))⟩
    if vs.isEmpty then s
    else wr (setChz s (fun z => { z with eqWaiting := z.eqWaiting ++ [c] })) Obj.CHZ_STATUS.EQ_PENDING 0 1
  | 0x0904 => if vs.isEmpty then s else holdGains s (vs.map (fun v => (homeGain v.1.1 v.1.2, v.2)))
  | 0x0905 => if vs.isEmpty then s else (writeContexts s (vs.map (fun v => (ctxKey v.1.1 v.1.2, v.2)))).2
  | 0x0807 =>
    vs.foldl (fun t v =>
      wr (wr (wr t Obj.PEER_PAIRS.A v.1.2 (bits v.2 0 12)) Obj.PEER_PAIRS.B v.1.2 (bits v.2 12 12))
        Obj.PEER_PAIRS.XSPEC v.1.2 (bits v.2 31 1)) s
  | _ => s

/-- TABLE_WRITE (R382): the ring has delivered the data, which leave it; every entry is checked, and all are written in
one commit. -/
def execTableWrite (m : Fin 8) (data : List Nat) (s : State) : Host.Outcome State Fault Refusal :=
  runCommand s m 0x12 (fun r =>
    let q := tableReq r.payload
    let st := tableStatus s q true
    if st ≠ 0 then commit s m st []
    else if ringStopped s q.ring then commit s m 0x0009 (leBytes 8 0)
    else
      let d := (padTo q.bytes (data.map (· % 256))).take q.bytes
      let vs := tableValues q d
      let s1 := h2dTake s q.ring q.bytes
      if vs.any (fun v => !tableValueOk q.obj v.2) then commit s1 m 0x0001 []
      else if crc32c d ≠ q.crc then commit s1 m 0x0021 (leBytes 8 0)
      else commit (tableStore s1 q.obj vs) m 0 (leBytes 4 vs.length ++ [0, 0, 0, 0]))

/-- The active entry of a table (R383); of `SUN_CTX` the pending set below instance 64. -/
def tableActive (s : State) (obj i k : Nat) : Nat :=
  match obj with
  | 0x0402 => eqGain s i k
  | 0x0904 => gainWord s i k
  | 0x0905 => mapGet (if i < 64 then s.sun.pendingSet.ctx else s.sun.active.ctx) (ctxKey (i % 64) k)
  | 0x0807 => objValue s Obj.PEER_PAIRS.fields k
  | _ => objValue s Obj.FST_REPAIR.fields k

/-- The record of a TABLE_READ (R383). -/
def tableRecord (s : State) (q : TableReq) : Bytes :=
  let n := objBytes q.obj
  let body := (q.places.map (fun p => leBytes n (tableActive s q.obj p.1 p.2))).flatten
  trailed ([0x54, 0x42, 0x4C, 0x52] ++ leBytes 2 q.obj ++ leBytes 2 q.inst0 ++ leBytes 2 q.insts ++ [0, 0]
    ++ leBytes 4 q.entry0 ++ leBytes 4 q.entries ++ [0, 0, 0, 0] ++ padTo (up8 body.length) body)

/-- TABLE_READ (R383). -/
def execTableRead (m : Fin 8) (s : State) : Host.Outcome State Fault Refusal :=
  runCommand s m 0x13 (fun r =>
    let q := tableReq r.payload
    let st := tableStatus s q false
    if st ≠ 0 then commit s m st []
    else if ringStopped s q.ring then commit s m 0x0009 (leBytes 8 0)
    else
      let out := tableRecord s q
      commit (ringSend s q.ring out) m 0 (leBytes 4 out.length ++ [0, 0, 0, 0]))

/-! ### SOFT_TRIGGER and INTEG_STOP (R384, R385) -/

/-- The response of a SOFT_TRIGGER (R384). -/
def softResponse (outcome n serial : Nat) : Bytes := [outcome] ++ List.replicate 7 0 ++ leBytes 8 n ++ leBytes 5 serial
  ++ [0, 0, 0]

/-- SOFT_TRIGGER (R384): one SOFTWARE condition at a sample within two words of the command, a free value; the command
ends with the judgement of that sample. -/
def execSoftTrigger (m : Fin 8) (s : State) : Host.Outcome State Fault Refusal :=
  runCommand s m 0x20 (fun _ =>
    let f := drawFree s
    let n := s.time.rc64 + f.1 % 33
    if !sourceOn s 2 then commit f.2 m 0 (softResponse 6 n 0)
    else if !s.trg.running then commit s m 0x0023 []
    else addCondition (setHead f.2 m (fun x => { x with started := true, step := n })) (plainCondition n 2))

/-- The software triggers whose sample has been judged end (R384). -/
def softJudged (s : State) : State :=
  let one (t : State) (m : Nat) : State :=
    match (mailOf t m).queue with
    | r :: _ =>
      if r.started && r.opcode == 0x20 then
        match s.trg.soft.find? (fun x => x.2.2 == r.step) with
        | some x => commit t m 0 (softResponse x.1 r.step x.2.1)
        | none => t
      else t
    | [] => t
  if s.trg.soft.isEmpty then s
  else setTrg ((List.range 8).foldl one s) (fun t => { t with soft := [] })

/-- INTEG_STOP (R385, R168): the sequence stops at the next block boundary; a stop that is set already stands. -/
def execIntegStop (m : Fin 8) (s : State) : Host.Outcome State Fault Refusal :=
  runCommand s m 0x21 (fun _ =>
    match dahCur s, s.dah.stopAt with
    | none, _ => commit s m 0x0002 []
    | some _, some b => commit s m 0 (leBytes 4 (toGroupSpx s b) ++ [0, 0, 0, 0])
    | some _, none =>
      let n := nextBlock s
      commit (dahStop s n) m 0 (leBytes 4 (toGroupSpx s n) ++ [0, 0, 0, 0]))

/-! ### PROBE_SWEEP (R386) -/

/-- The check of a PROBE_SWEEP. -/
def sweepStatus (s : State) (p : Bytes) : Nat :=
  let first := leAt p 32 1
  let last := leAt p 33 1
  let ring := leAt p 37 1
  if ring < 64 ∧ ringIs s ring 1 = false then 0x0002
  else if first < 13 ∨ 128 < last ∨ last < first ∨ leAt p 34 1 = 0 ∨ 115 < leAt p 34 1 ∨ leAt p 35 1 < 10
      ∨ 200 < leAt p 35 1 ∨ leAt p 36 1 = 0 ∨ 16 < leAt p 36 1 ∨ 63 < ring then 0x0001
  else if runsOp s [0x22] then 0x0006
  else 0

/-- The record of a point (R386). -/
def pointRecord (s : State) (w : Sweep) (intervals : Nat) (readings : List ProbeReading) : Bytes × State :=
  let r := w.sums.zipIdx.foldl
    (fun (acc : Bytes × State) a =>
      let x := sweepBytes acc.2 a.1 (nth readings a.2 ⟨0, 0, 0, 0, 0⟩)
      (acc.1 ++ x.1, x.2)) (([] : Bytes), s)
  (trailed ([0x50, 0x53, 0x57, 0x50, w.freq, intervals] ++ leBytes 2 w.sums.length ++ leBytes 8 s.time.rc64 ++ r.1), r.2)

/-- An interval of a running sweep ends on all its inputs; at the end of a point its record goes to the ring, and after
the last point the command ends (R386). -/
def sweepInterval (s : State) (m : Nat) (r : Request) (w : Sweep) (readings : List ProbeReading) : State :=
  let p := r.payload
  let cap := leAt p 35 1
  let reading (k : Nat) : ProbeReading := nth readings k ⟨0, 0, 0, 0, 0⟩
  let sums := w.sums.zipIdx.map (fun a => sweepSum s (decide (w.ended = 0)) a.1 (reading a.2))
  let w1 : Sweep := { w with ended := w.ended + 1, sums := sums }
  let next (t : State) : State := sums.zipIdx.foldl (fun u a => sweepNext u cap a.1.input (reading a.2)) t
  if w1.ended ≤ leAt p 36 1 then
    let t := next s
    { t with afe := { t.afe with sweep := some w1 } }
  else
    let rec1 := pointRecord s w1 (leAt p 36 1) readings
    let s1 := ringSend rec1.2 (leAt p 37 1) rec1.1
    let freq := w.freq + leAt p 34 1
    if leAt p 33 1 < freq then
      commit (sweepEnds s1) m 0 (leBytes 2 (r.step + 1) ++ List.replicate 6 0)
    else
      let t := next (setHead s1 m (fun x => { x with step := x.step + 1 }))
      { t with afe := { t.afe with sweep := some (sweepPoint s.afe.sweepMask freq) } }

/-- PROBE_SWEEP (R386, R377, R378): the command starts; from then on each arrival is the end of a probe interval, with a
reading for each selected input in ascending order. -/
def execProbeSweep (m : Fin 8) (readings : List ProbeReading) (s : State) : Host.Outcome State Fault Refusal :=
  match headOf s m 0x22 with
  | none => .next s
  | some r =>
    if r.started then
      match s.afe.sweep with
      | none => .next s
      | some w =>
        if modeOf s ≠ .calibrate then .next (commit (sweepEnds s) m 0x0023 (stepPayload r))
        else .next (sweepInterval s m r w readings)
    else if early s 0x22 r.payload ≠ 0 then .next (commit s m (early s 0x22 r.payload) [])
    else
      let st := sweepStatus s r.payload
      if st ≠ 0 then .next (commit s m st [])
      else if ringStopped s (leAt r.payload 37 1) then .next (commit s m 0x0009 (stepPayload r))
      else .next (sweepBegin (setHead s m (fun x => { x with started := true })) (leAt r.payload 0 32)
        (leAt r.payload 32 1))

/-! ### CELL_CAL (R83 to R85, R387) -/

/-- The measured entry of a cell (R83): out of ±127 in GAIN or DT, or noisy, it is bad (step 5); GAIN is limited. -/
def measuredEntry (c : CellMeasure) : Nat :=
  let bad := c.noisy || decide (127 < c.gain.natAbs) || decide (127 < c.dt.natAbs)
  min 4095 c.ped + ofInt 8 (clampInt (-127) 127 c.gain) * 2 ^ 12 + (if bad then 0x80 else ofInt 8 c.dt) * 2 ^ 20

/-- Bad cells of input i. -/
def badCells (s : State) (i : Nat) : Nat :=
  (s.bbl.table.filter (fun e => decide (e.1 / 16384 = i) && badCell (e.2 ^^^ 0x800))).length

/-- New tables are in force (R84, R85, R90): `BBL_CAL_INFO`, fault 0x0203 by the limit of 64 cells in one input, faults
0x0204 and 0x0207 clear. -/
def calLoaded (s : State) (table : SMap) (tj resid time : Nat) : State :=
  let s1 := setBbl s (fun b => { b with table := table })
  let n := (List.range 256).foldl (fun k i => k + badCells s1 i) 0
  let s2 := wr (wr (wr (wr (wr s1 Obj.BBL_CAL_INFO.VALID 0 1) Obj.BBL_CAL_INFO.TJ_CAL 0 tj)
    Obj.BBL_CAL_INFO.BAD_CELLS 0 n) Obj.BBL_CAL_INFO.RESID 0 resid) Obj.BBL_CAL_INFO.CAL_TIME 0 time
  let s3 := (List.range 256).foldl (fun t i =>
    if 64 < badCells s1 i then raise t 0x0203 i (rd t Obj.BBL_LAST_WINDOW.WINDOW_ID) (rd t Obj.BBL_LAST_WINDOW.T_HT)
    else clearFault t 0x0203 i) s2
  clearFault (clearFault s3 0x0204 0) 0x0207 0

/-- Freeze a calibration window of 16 segments, half of them before its anchor; it has its credit at once and becomes no
fragment (R387). -/
def calFreeze (s : State) : State :=
  let w : Window := { newWindow s (halfNow s) 2 0 0 with p := 8, q := 8, post := 8, credit := true }
  showBbl (setBbl s (fun b => { b with windows := b.windows ++ [w], nextId := (b.nextId + 1) % 65536 }))

/-- The table of a list of measured cells; a cell that is not listed measures as the boot entry. -/
def measuredTable (cells : List CellMeasure) : SMap :=
  cells.foldl (fun t c => mapSet t (c.cell.val) (measuredEntry c ^^^ 0x800)) []

/-- CELL_CAL (R387, R377, R378): the command starts; then each arrival freezes three windows, ends the pedestal, gain or
time step, or writes the tables. -/
def execCellCal (m : Fin 8) (ev : CellCalEvent) (s : State) : Host.Outcome State Fault Refusal :=
  match headOf s m 0x23 with
  | none => .next s
  | some r =>
    if r.started then
      if modeOf s ≠ .calibrate then .next (commit s m 0x0023 (leBytes 8 0))
      else
        match ev with
        | .freeze =>
          if s.bbl.writing && s.bbl.windows.isEmpty && decide (r.step < 3) then .next (calFreeze (calFreeze (calFreeze s)))
          else .next s
        | .pass => .next (if r.step < 3 then setHead s m (fun x => { x with step := x.step + 1 }) else s)
        | .tables cells resid =>
          if r.step = 3 then
            let s1 := calLoaded s (measuredTable cells) (ofInt 8 (s.bbl.tj / 2)) resid (ts96Now s)
            .next (commit s1 m 0 (leBytes 4 (rd s1 Obj.BBL_CAL_INFO.BAD_CELLS) ++ [rd s1 Obj.BBL_CAL_INFO.RESID,
              rd s1 Obj.BBL_CAL_INFO.TJ_CAL, 0, 0]))
          else .next s
    else if early s 0x23 r.payload ≠ 0 then .next (commit s m (early s 0x23 r.payload) [])
    else if runsOp s [0x23] then .next (commit s m 0x0006 [])
    else .next (setHead s m (fun x => { x with started := true }))

/-! ### CONV_CAPTURE (R388) -/

/-- CONV_CAPTURE (R388): the capture begins, and the domains of its input are powered. -/
def execConvCapture (m : Fin 8) (s : State) : Host.Outcome State Fault Refusal :=
  runCommand s m 0x24 (fun r =>
    let i := leAt r.payload 0 1
    let words := leAt r.payload 4 4
    let start := leAt r.payload 8 8
    if words = 0 ∨ 32768 < words ∨ s.time.rc64 + 2 ^ 47 ≤ start then commit s m 0x0001 []
    else if runsOp s [0x24] then commit s m 0x0006 []
    else
      let s1 := domsUp (setHead s m (fun x => { x with started := true })) 3 [80, 64 + i / 16, i / 8]
      setCnv s1 (fun c => { c with capture := some ⟨i, words, max start s.time.rc64, none, 0⟩ }))

/-- A capture that has its last record ends its command, and its domains are powered down again (R388). -/
def captureDone (s : State) : State :=
  match s.cnv.capture with
  | none => s
  | some c =>
    if c.taken < c.words then s
    else
      let s1 := setCnv s (fun v => { v with capture := none })
      let s2 := [80, 64 + c.input / 16, c.input / 8].foldl demandDown s1
      (List.range 8).foldl (fun t m =>
        match (mailOf t m).queue with
        | r :: _ =>
          if r.started && r.opcode == 0x24 then
            commit t m 0 (leBytes 8 (c.firstWord.getD 0) ++ leBytes 4 c.words ++ [0, 0, 0, 0])
          else t
        | [] => t) s2

/-! ### Faults (R389, R390) -/

/-- Faults that clear automatically, by a boot, by a write of their own or by `VDD_AON` alone. -/
def neverAcknowledged : List Nat :=
  [0x0101, 0x0203, 0x0204, 0x0207, 0x0301, 0x0502, 0x0603, 0x0703, 0x0804, 0x0805, 0x0807, 0x0905, 0x0A04, 0x0A08,
   0x0B02, 0x0D01, 0x0D02, 0x0D04, 0x0D05, 0x0E01, 0x0E02, 0x0E04, 0x0E06, 0x0F02, 0x1001, 0x1004, 0x100B, 0x1101,
   0x1105, 0x1106, 0x1203, 0x1305, 0x1403, 0x1404]

/-- Faults whose acknowledgement waits for the end of their condition. -/
def acknowledgedAfter : List Nat :=
  [0x0102, 0x0105, 0x0106, 0x0205, 0x0403, 0x0503, 0x0806, 0x0903, 0x0A02, 0x0A03, 0x0A05, 0x0A06, 0x0C07, 0x0D03,
   0x0D07, 0x0F01, 0x1201, 0x1202, 0x1301, 0x1302, 0x1303, 0x1304]

/-- The clearing rule of an instance allows an acknowledgement now (R446, R58, and the fault table of every chapter). -/
def mayAcknowledge (s : State) (x : FaultInst) : Bool :=
  if neverAcknowledged.contains x.code then false
  else if acknowledgedAfter.contains x.code then x.waiting
  else
    match x.code with
    | 0x0103 => decide (lineState s x.inst = 0)
    | 0x0206 | 0x0803 | 0x1109 => decide (modeOf s = .idle)
    | 0x1107 => decide (s.bbl.tj < (2 * rd s Obj.PWR_DVFS.THROTTLE_C : Nat))
    | _ => true

/-- An acknowledged instance clears; that of 0x1109 lets the governor power its domain again (R452). -/
def acknowledge (s : State) (x : FaultInst) : State :=
  let s1 := clearFault s x.code x.inst
  if x.code = 0x1109 then
    setPwr s1 (fun p => { p with barred := p.barred.filter (fun d => d != x.inst), cut := p.cut.filter (fun d => d != x.inst) })
  else s1

/-- An instance comes before another in the list of FAULT_LIST: by code, then by instance. -/
def faultBefore (x y : FaultInst) : Bool := decide (x.code < y.code) || (x.code == y.code && decide (x.inst < y.inst))

/-- Put an instance in its place in a sorted list. -/
def insertFault (x : FaultInst) : List FaultInst → List FaultInst
  | [] => [x]
  | y :: t => if faultBefore x y then x :: y :: t else y :: insertFault x t

/-- The active instances by code, then by instance. -/
def faultsSorted (s : State) : List FaultInst := s.flt.active.foldr insertFault []

/-- The 16 bytes of an instance in FAULT_LIST (R389). -/
def faultEntry (s : State) (x : FaultInst) : Bytes :=
  leBytes 2 x.code ++ leBytes 2 x.inst ++ [severityOf x.code, b2n (!x.waiting) + 2 * b2n (mayAcknowledge s x), 0, 0]
    ++ leBytes 8 x.firstRc64

/-- FAULT_LIST (R389). -/
def execFaultList (m : Fin 8) (s : State) : Host.Outcome State Fault Refusal :=
  runCommand s m 0x30 (fun r =>
    let some1 := ((faultsSorted s).drop (leAt r.payload 0 2)).take 29
    commit s m 0 (leBytes 2 s.flt.active.length ++ leBytes 2 some1.length ++ [0, 0, 0, 0]
      ++ (some1.map (faultEntry s)).flatten))

/-- FAULT_ACK (R390). -/
def execFaultAck (m : Fin 8) (s : State) : Host.Outcome State Fault Refusal :=
  runCommand s m 0x31 (fun r =>
    let code := leAt r.payload 0 2
    let inst := leAt r.payload 2 2
    let named := s.flt.active.filter (fun x => x.code == code && (inst == 0xFFFF || x.inst == inst))
    let ok := named.filter (mayAcknowledge s)
    let refused := named.length - ok.length
    commit (ok.foldl acknowledge s) m (if inst ≠ 0xFFFF ∧ refused ≠ 0 then 0x0002 else 0)
      (leBytes 2 ok.length ++ leBytes 2 refused ++ [0, 0, 0, 0]))

end Sys2Proof.Machine
end

