-- ==== Sys2Proof/Machine/Images.lean ====
section
/-! DEFINITION. Ebing images: their check, what a bundle and a soft-repair list do, image transfer over Axrel, the image
commands and BOOT (R246, R362 to R367, R394 to R398). -/

namespace Sys2Proof.Machine

/-! ### The image and its check (R363, R364) -/

/-- A section entry: type, coding, offset, stored bytes, inflated bytes, CRC, and whether its reserved bytes are 0. -/
structure Section where
  ty : Nat
  coding : Nat
  offset : Nat
  stored : Nat
  length : Nat
  crc : Nat
  clean : Bool
  deriving DecidableEq, Repr

/-- Fields of the header of an image (R363). -/
def imageLength (b : Bytes) : Nat := leAt b 8 4
def imageSequence (b : Bytes) : Nat := leAt b 12 4
def imageSecurity (b : Bytes) : Nat := leAt b 16 4

/-- The section table. -/
def imageSections (b : Bytes) : List Section :=
  (List.range (leAt b 23 1)).map (fun k =>
    let o := 128 + 32 * k
    ⟨leAt b o 1, leAt b (o + 1) 1, leAt b (o + 4) 4, leAt b (o + 8) 4, leAt b (o + 12) 4, leAt b (o + 16) 4,
     decide (leAt b (o + 2) 2 = 0) && decide (leAt b (o + 20) 12 = 0)⟩)

/-- A section may stand in an image of a type. -/
def sectionAllowed (kind ty : Nat) : Bool :=
  match kind with
  | 1 => ty == 1 || ty == 2
  | 2 => 3 ≤ ty && ty ≤ 6
  | _ => ty == 6

/-- The table of an image of a type is in form: each type allowed and at most once, codings known, sections 8-byte
aligned inside the image, Bluebell tables of their one size. -/
def tableInForm (kind : Nat) (b : Bytes) : Bool :=
  let ss := imageSections b
  ss.all (fun x => sectionAllowed kind x.ty && decide (x.coding ≤ 2) && x.clean && decide (x.offset % 8 = 0)
      && decide (128 + 32 * ss.length ≤ x.offset) && decide (x.offset + x.stored ≤ b.length)
      && (x.ty != 4 || decide (x.length = 14680064)))
    && decide ((ss.map (fun x => x.ty)).Nodup)

/-- Check 1 of R364: the header fields lie in their ranges, for the type that is expected. -/
def headerInForm (kind : Nat) (b : Bytes) : Bool :=
  decide (128 ≤ b.length) && decide (b.take 4 = [0x45, 0x42, 0x4E, 0x47]) && decide (leAt b 4 1 = 1)
    && decide (1 ≤ kind ∧ kind ≤ 3) && decide (leAt b 5 1 = kind) && decide (leAt b 6 2 = 0)
    && decide (imageLength b = b.length) && decide (imageSecurity b ≤ 64) && decide (leAt b 22 1 = 0xB0)
    && decide (1 ≤ leAt b 23 1) && decide (leAt b 23 1 ≤ 32) && decide (leAt b 24 8 = 0) && tableInForm kind b

/-- A section inflated under the limits of R265 with the output limit `LENGTH`; none where it fails or its CRC does not
match (R363, check 5 of R364). -/
def inflatedSection (s : State) (b : Bytes) (x : Section) : Option Bytes :=
  let raw := (b.drop x.offset).take x.stored
  let out : Option Bytes :=
    if x.coding = 0 then some raw
    else
      let r := inflate (decide (x.coding = 2)) ⟨x.length, some (rd s Obj.CMP_INFL.RATIO_MAX)⟩ raw
      if r.1 = 0 then some r.2.2 else none
  out.filter (fun o => decide (o.length = x.length) && decide (crc32c o = x.crc))

/-- The check of R364 of an image of an expected type: 0, or the number of the first check that fails. -/
def imageCheck (s : State) (kind : Nat) (b : Bytes) : Nat :=
  if !headerInForm kind b then 1
  else if !Config.keyAccepted ((b.drop 32).take 32) then 2
  else if !Config.signatureValid b then 3
  else if imageSecurity b < s.ctl.rollback then 4
  else if (imageSections b).any (fun x => (inflatedSection s b x).isNone) then 5
  else 0

/-- An image is rejected: fault 0x1005 with the failing check (R364). -/
def imageRejected (s : State) (check : Nat) : State := raise s 0x1005 0 check 0

/-- The bytes of the section of a type, where the image has one. -/
def sectionOf (s : State) (b : Bytes) (ty : Nat) : Option Bytes :=
  ((imageSections b).find? (fun x => x.ty == ty)).bind (inflatedSection s b)

/-! ### What sections do (R84, R246, R247, R363) -/

/-- One entry of a soft-repair list (R246, R247): skipped and counted where its row is repaired already or its bank has no
free spare. -/
def repairEntry (s : State) (v : Nat) : State :=
  let n := bits v 0 8
  let r := bits v 16 15
  let twice := (List.range s.fst.repairs).any (fun e => rd s Obj.FST_REPAIR.BANK e == n && rd s Obj.FST_REPAIR.ROW e == r)
  if decide (160 ≤ n) || twice || !spareFree s n then bump s Obj.FST_STATUS.REPAIRS_SKIPPED 0 1
  else softRepair s n r 1

/-- A soft-repair list in the "FSRL" form (R247); one out of form raises fault 0x1005. -/
def repairList (s : State) (b : Bytes) : State :=
  let n := leAt b 4 2
  if b.take 4 = [0x46, 0x53, 0x52, 0x4C] ∧ leAt b 6 2 = 0 ∧ b.length = 8 + 4 * n then
    (List.range n).foldl (fun t k => repairEntry t (leAt b (8 + 4 * k) 4)) s
  else imageRejected s 5

/-- The entries of a type 3 section; one that does not fit the run ends it. -/
def objectEntries : Nat → Bytes → List (Option CfgEntry)
  | 0, _ => []
  | fuel + 1, b =>
    if b.isEmpty then []
    else
      let c := leAt b 4 4
      let n := up8 (8 + c)
      if b.length < n ∨ b.length < 8 then [none]
      else some ⟨leAt b 0 2, leAt b 2 2, c, leAt b 8 c, fullMask (leAt b 0 2)⟩ :: objectEntries fuel (b.drop n)

/-- An entry of a type 3 section is applied as a CFG_WRITE, or refused with fault 0x1005 (R363, R381). -/
def objectEntry (s : State) (e : Option CfgEntry) : State :=
  match e with
  | none => imageRejected s 5
  | some x => if entryStatus s x 0 0 = 0 then applyEntry s x 0 0 else imageRejected s 5

/-- A type 4 section: the tables in the layout of R83.  The junction temperature, the time and the residual of their
measurement, which the section does not hold, are free values. -/
def bluebellTables (s : State) (b : Bytes) : State :=
  let f := drawFree s
  let g := drawFree f.2
  let h := drawFree g.2
  let cell (k : Nat) : Nat :=
    let grp := leAt b (k / 16 * 56) 56
    bits grp (28 * (k % 16)) 28
  let table := (List.range 4194304).foldl (fun t k => mapSet t k (cell k ^^^ 0x800)) []
  calLoaded h.2 table f.1 g.1 h.1

/-- A type 5 section: stored converter coefficients (R96), by a layout that the spec does not give. -/
def converterSection (s : State) (b : Bytes) : State :=
  let f := drawFree s
  let g := drawFree f.2
  let c (k : Nat) : Int := Config.storedCoefficient b k
  wr (wr (wr (setCnv g.2 (fun v =>
      { v with stored := (List.range 2048).map (fun j => ⟨c (3 * j), c (3 * j + 1), c (3 * j + 2)⟩) }))
    Obj.CNV_CAL_INFO.STORED_VALID 0 1) Obj.CNV_CAL_INFO.TJ_STORED 0 f.1) Obj.CNV_CAL_INFO.STORE_TIME 0 g.1

/-- A bundle that passes is applied (R246, R362, R363): the soft repairs before everything, then tables, coefficients and
objects. -/
def applyBundle (s : State) (b : Bytes) : State :=
  let s1 := match sectionOf s b 6 with | some x => repairList s x | none => s
  let s2 := match sectionOf s b 4 with | some x => bluebellTables s1 x | none => s1
  let s3 := match sectionOf s b 5 with | some x => converterSection s2 x | none => s2
  match sectionOf s b 3 with
  | some x => (objectEntries (x.length + 1) x).foldl objectEntry s3
  | none => s3

/-! ### Staging (R394) -/

/-- The image stands in banks 0 to 7 of the field store. -/
def stageBytes (s : State) (b : Bytes) : State :=
  (List.range ((b.length + 7) / 8)).foldl (fun t k => pokeWord t k (leAt b (8 * k) 8)) s

/-- The firmware that the boot ROM has accepted runs (R361, R379). -/
def firmwareRuns (s : State) (b : Bytes) (slot : Nat) : State :=
  wr (setCtl s (fun c => { c with ronecUp := true, fwSlot := slot, fwSecurity := imageSecurity b })) Obj.MOV_MAP.REMAP 0 1

/-- A bundle is used where its `RONEC` major matches the running firmware (R362). -/
def bundleFits (b : Bytes) : Bool := decide (leAt b 20 1 = 3)

/-- A bundle is used, or does not fit the firmware, which raises fault 0x1005 (R362). -/
def bundleArrives (s : State) (b : Bytes) : State :=
  let s1 := setCtl s (fun c => { c with bundleDone := true })
  if bundleFits b then applyBundle s1 b else imageRejected s1 1

/-- An image has been received whole (R364, R394): it is staged, and a soft-repair image applied; in a boot from the host
or a peer the firmware is held until the bundle is there, with which the boot goes on (R361). -/
def imageArrives (s : State) (kind : Nat) (b : Bytes) : State :=
  let s1 := stageBytes s b
  if s.ctl.waitsForImage then
    match s.ctl.staged with
    | some fw =>
      if kind = 2 then
        let s2 := setCtl s1 (fun c => { c with waitsForImage := false, staged := none })
        bundleArrives (firmwareRuns s2 fw.bytes (if s.ctl.bootSrc % 4 = 1 then 2 else 3)) b
      else setCtl s1 (fun c => { c with staged := some ⟨kind, b⟩ })
    | none => if kind = 1 then setCtl s1 (fun c => { c with staged := some ⟨kind, b⟩ }) else s1
  else
    let s2 := setCtl s1 (fun c => { c with staged := some ⟨kind, b⟩ })
    if kind = 3 then (match sectionOf s b 6 with | some x => repairList s2 x | none => s2) else s2

/-- The 16 bytes of the response of an IMAGE_LOAD (R394). -/
def loadResponse (check : Nat) (b : Bytes) : Bytes :=
  [check, leAt b 5 1, 0, 0] ++ leBytes 4 b.length ++ leBytes 4 (imageSequence b) ++ leBytes 4 (imageSecurity b)

/-- An IMAGE_LOAD of mailbox m ends with an image (R394). -/
def loadEnds (s : State) (m kind : Nat) (b : Bytes) : State :=
  let c := imageCheck s kind b
  if c = 0 then commit (imageArrives s kind b) m 0 (loadResponse 0 b)
  else commit (imageRejected s c) m 0x0030 (loadResponse c b)

/-- H2D ring 0 belongs to the boot ROM while it serves (R361). -/
def loadRing (s : State) (r : Nat) : Bool := ringIs s r 2 || (romServes s && decide (r = 0))

/-- Another image command, a closing dump of Dahlia in flight (R377, R394). -/
def loadBusy (s : State) : Bool :=
  runsOp s [0x50, 0x51, 0x53] || s.dah.closing || !s.dah.dumps.isEmpty

/-- The check of an IMAGE_LOAD (R394). -/
def loadStatus (s : State) (p : Bytes) : Nat :=
  let source := leAt p 0 1
  let unit1 := leAt p 1 1
  let len := leAt p 4 4
  if source = 0 ∧ unit1 < 64 ∧ loadRing s unit1 = false then 0x0002
  else if 1 < source ∨ (source = 0 ∧ (63 < unit1 ∨ len = 0 ∨ 16777216 < len)) ∨ (source = 1 ∧ (15 < unit1 ∨ len ≠ 0))
      ∨ leAt p 2 1 = 0 ∨ 3 < leAt p 2 1 then 0x0001
  else if loadBusy s then 0x0006
  else 0

/-! ### Image transfer over Axrel (R367) -/

/-- Send an image-transfer message on a link: OP, KIND, TOTAL, OFFSET, data; COUNT is given apart for a REQUEST. -/
def imageMessage (s : State) (l op kind total offset count : Nat) (data : Bytes) : State :=
  axPost s (portOfLink s l) 8
    ([op, kind % 256, 0, 0] ++ leBytes 4 total ++ leBytes 4 offset ++ leBytes 4 count ++ data)

/-- Request the next chunk of a reception (R367), in ascending offset. -/
def askChunk (s : State) : State :=
  match s.ctl.rx with
  | none => s
  | some x =>
    if x.total ≤ x.got.length then s
    else
      let o := x.got.length
      imageMessage (setCtl s (fun c => { c with rx := some { x with asked := some o } })) x.link 2 x.kind x.total o
        (min 8192 (x.total - o)) []

/-- A reception begins with an offer of its link and type. -/
def takeOffer (s : State) : State :=
  match s.ctl.rx with
  | none => s
  | some x =>
    match s.ctl.offers.find? (fun o => o.1 == x.link && o.2.1 == x.kind) with
    | some o => if x.total = 0 then askChunk (setCtl s (fun c => { c with rx := some { x with total := o.2.2 } })) else s
    | none => s

/-- IMAGE_OFFER (R361, R367): an offer is held; a reception that waits for it begins, and a peer boot takes the first link
whose partner offers what it needs. -/
def execImageOffer (l : Fin 16) (kind : Fin 4) (total : Fin 16777217) (s : State) : Host.Outcome State Fault Refusal :=
  let s1 := takeMessage s l 8
  if kind.val = 0 ∨ total.val = 0 then .next s1
  else
    let s2 := setCtl s1 (fun c => { c with offers := (l.val, kind.val, total.val) :: c.offers.filter (fun o => o.1 != l.val) })
    let need := if s2.ctl.staged.isSome then 2 else 1
    let s3 := if s2.ctl.waitsForImage ∧ s2.ctl.bootSrc % 4 = 2 ∧ s2.ctl.rx = none ∧ kind.val = need then
        setCtl s2 (fun c => { c with rx := some ⟨l, need, 0, [], none, false⟩ })
      else s2
    .next (takeOffer s3)

/-- IMAGE_REQUEST (R367, R396): the served image answers with the chunk, and with DONE after the last one. -/
def execImageRequest (l : Fin 16) (offset count : Nat) (s : State) : Host.Outcome State Fault Refusal :=
  let s1 := takeMessage s l 8
  match s.ctl.staged with
  | some x =>
    if bit s.ctl.serveLinks l ∧ offset < x.bytes.length then
      let n := min (min 8192 count) (x.bytes.length - offset)
      let s2 := imageMessage s1 l 3 x.kind x.bytes.length offset n ((x.bytes.drop offset).take n)
      .next (if offset + n = x.bytes.length then imageMessage s2 l 4 x.kind x.bytes.length 0 0 [] else s2)
    else .next s1
  | none => .next s1

/-- IMAGE_DATA (R367): a chunk of the reception of its link is written at its offset, and the next one requested. -/
def execImageData (l : Fin 16) (offset : Nat) (data : List Nat) (s : State) : Host.Outcome State Fault Refusal :=
  let s1 := takeMessage s l 8
  match s.ctl.rx with
  | some x =>
    let d := (data.take 8192).map (· % 256)
    if x.link = l.val ∧ offset ≤ x.got.length ∧ offset + d.length ≤ x.total then
      let got := x.got.take offset ++ d ++ x.got.drop (offset + d.length)
      let fresh := decide (x.asked = some offset)
      let s2 := setCtl s1 (fun c => { c with rx := some { x with got := got, asked := if fresh then none else x.asked } })
      .next (if fresh then askChunk s2 else s2)
    else .next s1
  | none => .next s1

/-- The IMAGE_LOAD that receives over Axrel. -/
def loadingMail (s : State) : Option Nat :=
  (List.range 8).find? (fun m => (mailOf s m).queue.head?.any (fun r => r.started && r.opcode == 0x50))

/-- A reception is over: its image is checked (R364, R367), for its command or for the peer boot. -/
def receptionEnds (s : State) (x : ImageRx) (got : Bytes) : State :=
  let s1 := setCtl s (fun c => { c with rx := none })
  match loadingMail s with
  | some m => loadEnds s1 m x.kind got
  | none =>
    if s.ctl.waitsForImage then
      let c := imageCheck s1 x.kind got
      if c = 0 then imageArrives s1 x.kind got else imageRejected s1 c
    else s1

/-- IMAGE_DONE (R367): the assembled image is checked. -/
def execImageDone (l : Fin 16) (s : State) : Host.Outcome State Fault Refusal :=
  let s1 := takeMessage s l 8
  match s.ctl.rx with
  | some x => if x.link = l.val then .next (receptionEnds s1 x x.got) else .next s1
  | none => .next s1

/-- IMAGE_ABORT (R367): the transfer ends without its image, and the offer of the link is void. -/
def execImageAbort (l : Fin 16) (s : State) : Host.Outcome State Fault Refusal :=
  let s1 := setCtl (takeMessage s l 8) (fun c => { c with offers := c.offers.filter (fun o => o.1 != l.val) })
  match s.ctl.rx with
  | some x => if x.link = l.val then .next (receptionEnds s1 x []) else .next s1
  | none => .next s1

/-- IMAGE_CHUNK_RETRY (R367): a chunk has been missing for 10 ms and is requested again. -/
def execImageChunkRetry (s : State) : Host.Outcome State Fault Refusal :=
  match s.ctl.rx with
  | some x => if x.asked.isSome then .next (askChunk s) else .next s
  | none => .next s

/-! ### The image commands (R394 to R397) -/

/-- A new IMAGE_LOAD discards the staged image and stops its serving. -/
def loadStarts (s : State) : State :=
  setCtl s (fun c => { c with staged := if c.waitsForImage then c.staged else none, serveLinks := 0 })

/-- IMAGE_LOAD (R394): from the host, once its ring has delivered the image; from Axrel the reception begins. -/
def execImageLoad (m : Fin 8) (data : List Nat) (s : State) : Host.Outcome State Fault Refusal :=
  runCommand s m 0x50 (fun r =>
    let p := r.payload
    let kind := leAt p 2 1
    let st := loadStatus s p
    if st ≠ 0 then commit s m st []
    else if leAt p 0 1 = 0 then
      let ring := leAt p 1 1
      let n := leAt p 4 4
      if ringStopped s ring then commit (loadStarts s) m 0x0009 (List.replicate 16 0)
      else
        let b := (padTo n (data.map (· % 256))).take n
        let s1 := if ringIs s ring 2 then h2dTake (loadStarts s) ring n else loadStarts s
        loadEnds s1 m kind b
    else
      let s1 := setHead (loadStarts s) m (fun x => { x with started := true })
      takeOffer (setCtl s1 (fun c => { c with rx := some ⟨leAt p 1 1, kind, 0, [], none, false⟩ })))

/-- The flash slot of an image type and SLOT (R362). -/
def flashSlot (kind slot : Nat) : Nat := if kind = 1 then slot else 2 + slot

/-- The image in a flash slot: the bytes that its header claims. -/
def slotImage (s : State) (k : Nat) : Bytes :=
  let b := nth s.ctl.flash k []
  b.take (imageLength b)

/-- A slot holds an image of a type that passes R364. -/
def slotPasses (s : State) (k kind : Nat) : Bool := decide (imageCheck s kind (slotImage s k) = 0)

/-- The check of an IMAGE_FLASH (R395). -/
def flashStatus (s : State) (p : Bytes) : Nat :=
  let slot := leAt p 0 1
  match s.ctl.staged with
  | none => 0x0002
  | some x =>
    if x.kind = 3 then 0x0002
    else if slot < 2 ∧ slotPasses s (flashSlot x.kind slot) x.kind ∧ slotPasses s (flashSlot x.kind (1 - slot)) x.kind = false
    then 0x0002
    else if 1 < slot ∨ (x.kind = 1 ∧ 4194304 < x.bytes.length) then 0x0001
    else if runsOp s [0x50, 0x51, 0x53] then 0x0006
    else 0

/-- Put bytes into a flash slot. -/
def setSlot (s : State) (k : Nat) (b : Bytes) : State := setCtl s (fun c => { c with flash := upd c.flash k (fun _ => b) })

/-- One step of a running IMAGE_FLASH (R395): the sectors from the highest to sector 0, then the read-back. -/
def flashStep (s : State) (m : Nat) (r : Request) (ok : Bool) : State :=
  match s.ctl.staged with
  | none => commit s m 0x0031 (leBytes 4 r.step ++ [1, 0, 0, 0])
  | some x =>
    let n := (x.bytes.length + 65535) / 65536
    let k := flashSlot x.kind (leAt r.payload 0 1)
    if !ok then commit s m 0x0031 (leBytes 4 r.step ++ [0, 0, 0, 0])
    else if r.step < n then
      let lo := 65536 * (n - 1 - r.step)
      setHead (setSlot s k (List.replicate lo 0xFF ++ x.bytes.drop lo)) m (fun y => { y with step := y.step + 1 })
    else
      let c := imageCheck s x.kind (slotImage s k)
      commit s m (if c = 0 then 0 else 0x0031) (leBytes 4 n ++ [c, 0, 0, 0])

/-- IMAGE_FLASH (R395, R377, R378): the command starts and the slot is erased; then each arrival is a programmed sector,
and the last one the read-back.  `ok` is false where the flash fails that step. -/
def execImageFlash (m : Fin 8) (ok : Bool) (s : State) : Host.Outcome State Fault Refusal :=
  match headOf s m 0x51 with
  | none => .next s
  | some r =>
    if r.started then
      if modeOf s = .idle ∨ romServes s then .next (flashStep s m r ok)
      else .next (commit s m 0x0023 (stepPayload r))
    else if early s 0x51 r.payload ≠ 0 then .next (commit s m (early s 0x51 r.payload) [])
    else
      let st := flashStatus s r.payload
      if st ≠ 0 then .next (commit s m st [])
      else
        let kind := (s.ctl.staged.map (fun x => x.kind)).getD 0
        let s1 := setHead s m (fun x => { x with started := true })
        if ok then .next (setSlot s1 (flashSlot kind (leAt r.payload 0 1)) [])
        else .next (commit s1 m 0x0031 (List.replicate 8 0))

/-- IMAGE_SERVE (R396, R367): the staged image is offered on the links named, or serving stops. -/
def execImageServe (m : Fin 8) (s : State) : Host.Outcome State Fault Refusal :=
  runCommand s m 0x52 (fun r =>
    let links := leAt r.payload 0 2
    let enable := leAt r.payload 2 1
    match s.ctl.staged with
    | none => commit s m 0x0002 []
    | some x =>
      if 1 < enable then commit s m 0x0001 []
      else
        let served := if enable = 1 then links else 0
        let s1 := setCtl s (fun c => { c with serveLinks := served })
        commit ((List.range 16).foldl (fun t l =>
          if bit served l then imageMessage t l 1 x.kind x.bytes.length 0 0 [] else t) s1) m 0 [])

/-- ROLLBACK_COMMIT (R397): fuse bits are blown up to TARGET; `failed` says how many blow before one fails. -/
def execRollbackCommit (m : Fin 8) (failed : Option Nat) (s : State) : Host.Outcome State Fault Refusal :=
  runCommand s m 0x53 (fun r =>
    let target := leAt r.payload 0 1
    let count := s.ctl.rollback
    if 64 < target ∨ s.ctl.fwSecurity < target then commit s m 0x0001 []
    else if runsOp s [0x50, 0x51, 0x53] then commit s m 0x0006 []
    else
      let want := target - count
      let done := match failed with | some k => min k want | none => want
      let s1 := setCtl s (fun c => { c with rollback := count + done })
      commit s1 m (if done < want then 0x0031 else 0) ([count + done] ++ List.replicate 7 0))

/-- Where a BOOT takes its firmware from. -/
def bootFromOf (n : Nat) : BootFrom :=
  match n with | 1 => .staged | 2 => .slotA | 3 => .slotB | _ => .straps

/-- BOOT (R398): when EXPECT_BOOT_ID equals BOOT_ID a boot is due. -/
def execBoot (m : Fin 8) (s : State) : Host.Outcome State Fault Refusal :=
  runCommand s m 0x54 (fun r =>
    let source := leAt r.payload 0 1
    if source = 1 ∧ s.ctl.staged.any (fun x => x.kind == 1) = false then commit s m 0x0002 []
    else if 3 < source then commit s m 0x0001 []
    else if leAt r.payload 2 2 = s.aon.bootId then
      commit (setCtl s (fun c => { c with bootDue := some (bootFromOf source) })) m 0 ([1] ++ List.replicate 7 0)
    else commit s m 0 (List.replicate 8 0))

/-- The check of a command before it takes data of a ring, the ring, and the bytes of its response to RING_ERROR; none
where it names no H2D ring. -/
def dataRing (s : State) (r : Request) : Option (Nat × Nat) :=
  let p := r.payload
  match r.opcode with
  | 0x12 => some (tableStatus s (tableReq p) true, 8)
  | 0x40 => some (compressCheck s p, 16)
  | 0x41 => some (decompressCheck s p, 16)
  | 0x50 => if leAt p 0 1 = 0 then some (loadStatus s p, 16) else none
  | _ => none

/-- RING_DATA_TIMEOUT (R373): the ring that the waiting command of mailbox m names has delivered no data for 1 s. -/
def execRingDataTimeout (m : Fin 8) (s : State) : Host.Outcome State Fault Refusal :=
  match (mailOf s m).queue.head? with
  | none => .next s
  | some r =>
    if r.started || !mailServed s m || decide (early s r.opcode r.payload ≠ 0) then .next s
    else
      match dataRing s r with
      | some (0, n) => .next (commit s m 0x0009 (List.replicate n 0))
      | _ => .next s

end Sys2Proof.Machine
end

