-- ==== Sys2Proof/Machine/Boot.lean ====
section
/-! DEFINITION. Resets and boots, reads of BAR2 and of halves (R2, R10, R238, R275, R291, R324, R361, R362, R365, R366,
R398, R454, R464, R465). -/

namespace Sys2Proof.Machine

/-! ### Boots (R361 to R366) -/

/-- The boot ROM reads flash: it boots, its firmware comes from a slot or from staging, and nothing waits (R361). -/
def bootReads (s : State) : Bool :=
  s.ctl.pair == .booting && !s.aon.inReset && !s.ctl.waitsForImage && modeOf s != .recovery

/-- `SEQUENCE` of the image in a slot, one more; 0 where no header stands there. -/
def slotRank (s : State) (k : Nat) : Nat :=
  let b := nth s.ctl.flash k []
  if b.take 4 = [0x45, 0x42, 0x4E, 0x47] then imageSequence b + 1 else 0

/-- The two slots of a kind, the one with the higher `SEQUENCE` first (R362); of two alike, slot A. -/
def slotOrder (s : State) (a b : Nat) : List Nat := if slotRank s a < slotRank s b then [b, a] else [a, b]

/-- The images that a firmware boot tries, in order, each with its slot on the status page (R361, R398). -/
def firmwareTries (s : State) : List (Bytes × Nat) :=
  match s.ctl.bootFrom with
  | .straps => (slotOrder s 0 1).map (fun k => (slotImage s k, k))
  | .staged => [((s.ctl.staged.map (fun x => x.bytes)).getD [], 2)]
  | .slotA => [(slotImage s 0, 0)]
  | .slotB => [(slotImage s 1, 1)]

/-- The boot ROM reads the firmware (R362, R364, R365): the first image that passes runs; an image before it raises fault
0x1005, and one that is not the first fault 0x1008; where none passes the boot has failed. -/
def firmwareRead (s : State) : State :=
  let tries := firmwareTries s
  let bad := tries.takeWhile (fun t => decide (imageCheck s 1 t.1 ≠ 0))
  let s1 := bad.foldl (fun u t => imageRejected u (imageCheck s 1 t.1)) s
  match tries[bad.length]? with
  | some t =>
    let s2 := firmwareRuns s1 t.1 t.2
    if bad.isEmpty then s2 else raise s2 0x1008 0 0 0
  | none => coldBoot s1 true .straps

/-- What is wrong with a bundle: a check of R364, or a `RONEC` major that does not match (R362). -/
def bundleCheck (s : State) (b : Bytes) : Nat :=
  let c := imageCheck s 2 b
  if c ≠ 0 then c else if bundleFits b then 0 else 1

/-- Ronec firmware reads the bundle (R362); where none passes every object keeps its default. -/
def bundleRead (s : State) : State :=
  let tries := (slotOrder s 2 3).map (slotImage s)
  let bad := tries.takeWhile (fun b => decide (bundleCheck s b ≠ 0))
  let s1 := bad.foldl (fun u b => imageRejected u (bundleCheck s b)) (setCtl s (fun c => { c with bundleDone := true }))
  match tries[bad.length]? with
  | some b =>
    let s2 := applyBundle s1 b
    if bad.isEmpty then s2 else raise s2 0x1008 1 0 0
  | none => s1

/-- FLASH_IMAGE_READ (R361, R362, R365): the firmware, or, once it runs, the bundle. -/
def execFlashImageRead (bundle : Bool) (s : State) : Host.Outcome State Fault Refusal :=
  if !bootReads s then .next s
  else if bundle then .next (if s.ctl.ronecUp && !s.ctl.bundleDone then bundleRead s else s)
  else .next (if s.ctl.ronecUp then s else firmwareRead s)

/-- BOOT_REF_TIMEOUT (R361, R327): no REF10M edge within 100 ms; the boot ROM runs at P5, in holdover. -/
def execBootRefTimeout (s : State) : Host.Outcome State Fault Refusal :=
  if s.ctl.pair = .booting ∧ s.aon.inReset = false ∧ s.ctl.ronecUp = false then
    let s1 := wr (wr s Obj.PWR_DVFS.POINT 0 5) Obj.TIM_STATE.HOLDOVER 0 1
    .next (raise (setTime s1 (fun t => { t with refPresent := false })) 0x0E01 0 0 0)
  else .next s

/-- BOOT_IDLE_REACHED (R365, R368): the firmware runs, the bundle is applied, the time base has started: Idle.  `BOOT_FAILS`
clears, faults 0x1004 and 0x100B clear, and after a failed boot fault 0x1008 is raised. -/
def execBootIdleReached (s : State) : Host.Outcome State Fault Refusal :=
  if s.ctl.pair = .booting && s.ctl.ronecUp && s.ctl.bundleDone && !s.time.bootWait && !s.aon.inReset then
    let s1 := setAon (setCtl s (fun c => { c with pair := .paired })) (fun a => { a with bootFails := 0 })
    let s2 := clearFault (clearFault s1 0x1004 0) 0x100B 0
    .next (if s.aon.bootFails ≠ 0 then raise s2 0x1008 0 0 0 else s2)
  else .next s

/-- BOOT_TIMEOUT (R365, R366): 5 s without Idle, the waits for images not counted: the boot has failed. -/
def execBootTimeout (s : State) : Host.Outcome State Fault Refusal :=
  if bootReads s then .next (coldBoot s true .straps) else .next s

/-- BOOT_COMMAND_REBOOT (R398): 1 ms after the completion of an acting BOOT. -/
def execBootCommandReboot (s : State) : Host.Outcome State Fault Refusal :=
  match s.ctl.bootDue with
  | some src => .next (coldBoot s false src)
  | none => .next s

/-- PORN_ASSERT (R433, R454): `PORN` low for 100 ns holds the device in reset, `STAT` low; a shorter pulse is ignored and
counted. -/
def execPornAssert (long : Bool) (s : State) : Host.Outcome State Fault Refusal :=
  if long then .next (emit (setAon (bootReset s) (fun a => { a with inReset := true })) (.pin 34 false))
  else .next (raise s 0x1405 0 0 0)

/-- PORN_RELEASE (R10, R324, R361, R366, R418, R454, R464): the straps are sampled, a disagreement of their samples is
counted, the PMBus scan records its responders, and the device boots; with `TEST_EN` it stays in reset. -/
def execPornRelease (chipId : Fin 16) (bootSrc : Fin 4) (testEn disagree : Bool) (found : Nat) (s : State) :
    Host.Outcome State Fault Refusal :=
  if !s.aon.inReset then .next s
  else if testEn then .next (emit s (.pin 34 false))
  else
    let s1 := setCtl s (fun c => { c with chipId := chipId, bootSrc := bootSrc })
    let s2 := coldBoot (wr s1 Obj.PWR_FOUND.FOUND 0 found) false .straps
    .next (if disagree then raise s2 0x1405 0 0 0 else s2)

/-- VDD_AON_POWER_UP (R324, R365, R449, R456, R465): everything that Snowdrop holds starts afresh; `PWRREQ` rises, and
`PORN` is low. -/
def execVddAonPowerUp (s : State) : Host.Outcome State Fault Refusal :=
  .next (emit
    { State.reset with
      time := { TimeBase.atBoot with bootWait := true },
      ctl := { Ctl.atBoot with pair := .booting, ronecUp := false, bundleDone := false, flash := s.ctl.flash,
                               rollback := s.ctl.rollback },
      aon := { AlwaysOn.atBoot with bootId := 0, inReset := true },
      trg := { Trigger.atBoot with inLevel := s.trg.inLevel },
      out := s.out, free := s.free, pending := s.pending } (.pin 32 true))

/-! ### BAR2 and half reads (R2, R238, R275, R291) -/

/-- The 64-bit word at an offset of BAR2: its value, 0 good, 1 with EP, 2 Unsupported Request, and the state (R238, R239,
R275). -/
def bar2Word (s : State) (off syndrome : Nat) : Nat × Nat × State :=
  let o := off / 8 * 8
  if o < 0x14000000 then
    let k := o / 8
    if domOn s (bankDom (bankOfWord k)) then
      let r := readWord s 5 k syndrome
      (r.1, b2n r.2.1, r.2.2)
    else (2 ^ 64 - 1, 2, s)
  else if o < 0x14100000 then (ofLe (loadBytes s (0x10000000 + (o - 0x14000000)) 8), 0, s)
  else (2 ^ 64 - 1, 2, s)

/-- BAR2_READ (R238, R275): the words of a read, each atomic, with their syndromes; a bank that is not ON makes the whole
completion an Unsupported Request. -/
def execBar2Read (off : Fin 536870912) (words : Fin 513) (syndromes : List Nat) (s : State) :
    Host.Outcome State Fault Refusal :=
  let r := (List.range words).foldl
    (fun (x : Nat × Nat × State) j =>
      let w := bar2Word x.2.2 (off.val / 8 * 8 + 8 * j) (nth syndromes j 0)
      (x.1 + w.1 % 2 ^ 64 * 2 ^ (64 * j), max x.2.1 w.2.1, w.2.2)) (0, 0, s)
  .next (emit r.2.2 (.readData 9 (8 * words.val) r.1 r.2.1))

/-- BAR2_WRITE (R2): discarded, and reported as an Unsupported Request. -/
def execBar2Write (s : State) : Host.Outcome State Fault Refusal := .next (emit s (.readData 9 0 0 2))

/-- The 64-bit value that a half read names, in BAR2 or in BAR0. -/
def halfWord (s : State) (bar2 : Bool) (off syndrome : Nat) : Nat × Nat × State :=
  if bar2 then bar2Word s off syndrome
  else
    let r := bar0Word s off
    (r.1, 0, r.2)

/-- HALF_READ_LOW (R291): the low word is answered, and the high word goes to the shadow of the requester. -/
def execHalfReadLow (who : Fin 65538) (bar2 : Bool) (off : Fin 536870912) (syndrome : Nat) (s : State) :
    Host.Outcome State Fault Refusal :=
  let r := halfWord s bar2 off syndrome
  let s1 := setCtl r.2.2 (fun c => { c with shadow := mapSet c.shadow who (bits r.1 32 32) })
  .next (emit s1 (.readData (16 + who.val) 4 (bits r.1 0 32) r.2.1))

/-- HALF_READ_HIGH (R291): the shadow of the requester is answered; 0 where it has read no low word since boot. -/
def execHalfReadHigh (who : Fin 65538) (s : State) : Host.Outcome State Fault Refusal :=
  .next (emit s (.readData (16 + who.val) 4 (mapGet s.ctl.shadow who) 0))

end Sys2Proof.Machine
end

