-- ==== Sys2Proof/Machine/Stream.lean ====
section
/-! DEFINITION. What follows the sample clock: converter words, frame boundaries and block boundaries
(R49, R93, R105, `03_receiver_inputs.md`, `05_converters_and_channelizer.md`). -/

namespace Sys2Proof.Machine

/-- A mask of the 256 inputs from a test. -/
def mask256 (p : Nat → Bool) : Nat := (List.range 256).foldl (fun m i => if p i then m + 2 ^ i else m) 0

/-! ### Converter words (R92, R93) -/

/-- A word of input i as the trigger engine gets it: a poisoned one enters every beam as 0 (R281). -/
def triggerView (bad : Nat) (x : InputWord) (i : Nat) : InputWord := if bit bad i then { x with line := true } else x

/-- A word of input i as the channelizer gets it: a poisoned one is 0 with OVR set in every sample (R281). -/
def channelizerView (bad : Nat) (x : InputWord) (i : Nat) : InputWord :=
  if bit (bad / 2 ^ 256) i then { x with samples := List.replicate 16 0, ovr := 65535 } else x

/-- The frame sums of every input take the word; a word that the channelizer got poisoned flags its frame (R20). -/
def wordSums (s : State) (bad : Nat) (words : List InputWord) : State :=
  (List.range 256).foldl (fun t i =>
    let x := nth words i ⟨[], 0, 0, false, false⟩
    setInput (gatherWord (blockCounts t i x) i (s.time.rc64 - 16) x) i (fun y =>
      { y with cur := if bit (bad / 2 ^ 256) i then { frameAdd x y.cur with marked := true } else frameAdd x y.cur })) s

/-- The marks of the word join those of the ring-memory segment in progress (R76). -/
def wordMarks (s : State) (words : List InputWord) : State :=
  if s.bbl.writing then
    setBbl s (fun b =>
      { b with curClamp := b.curClamp ||| mask256 (fun i => (nth words i ⟨[], 0, 0, false, false⟩).clamp),
               curLine := b.curLine ||| mask256 (fun i => (nth words i ⟨[], 0, 0, false, false⟩).line) })
  else s

/-- The word that ends at this tick with its flags, in every place that takes it. -/
def converterWords (s : State) (w : WordIn) : State :=
  let start := s.time.rc64 - 16
  let words := (List.range 256).map (inputWord s w start)
  let bad := s.mov.badWord
  let contiguous := decide (s.cnv.histEnd = start)
  if cnvOn s then
    let s1 := wordMarks (wordSums s bad words) words
    let s2 := pushReduced s1 ((words.zip (List.range 256)).map (fun p => triggerView bad p.1 p.2)) contiguous start
    let s3 := pushWords (noteClean s2 words) ((words.zip (List.range 256)).map (fun p => channelizerView bad p.1 p.2)) start
    let s4 := captureDone (captureWord (setMov s3 (fun m => { m with badWord := 0 })) words (start / 16))
    softJudged (triggerWord s4 w.upsets)
  else captureDone (captureWord s words (start / 16))

/-- CONVERTER_WORD (R92, R93): at a word boundary the 16 samples before it reach the trigger engine and the channelizer
with their flags.  Where the converters are off they reach a capture in Test alone (R388). -/
def execConverterWord (w : WordIn) (s : State) : Host.Outcome State Fault Refusal :=
  if !s.time.off && decide (s.time.rc64 % 16 = 0) && decide (16 ≤ s.time.rc64) then .next (converterWords s w) else .next s

/-! ### Frame boundaries (R49) -/

/-- The receiver part of frame boundary m.  Frames that do not join the ones held leave them behind. -/
def receiverFrame (s : State) (m : Nat) : State :=
  let s1 := if cnvOn s && decide (s.afe.lastFrame + 2 ≠ m) then
      (List.range 256).foldl (fun t i => setInput t i (fun x => { x with frames := [] })) s
    else s
  let s2 := (List.range 256).foldl (fun t i => afeFrame t m i) (arcBoundary s1 m)
  if cnvOn s then frameCorrections { s2 with afe := { s2.afe with lastFrame := m - 1 } } else s2

/-- FRAME_BOUNDARY (R49, R62, R85, R95, R137, R436): pending range changes, input enables and the configuration that
waits for a frame boundary take effect. -/
def execFrameBoundary (s : State) : Host.Outcome State Fault Refusal :=
  if !s.time.off && decide (s.time.rc64 % 2048 = 0) then
    let s1 := receiverFrame s (s.time.rc64 / 2048)
    let s2 := if watchOn s1 then
        (List.range 256).foldl (fun t i => latch t Obj.BBL_ENV.fields i) (latch s1 Obj.BBL_VIGIL.fields 0)
      else s1
    let s3 := if s2.trg.running then triggerFrame s2 else trigoutFrame s2
    .next (if calOn s3 then calFrame s3 else s3)
  else .next s

/-! ### Block boundaries (R105) -/

/-- The converters at a block boundary: every input's counts latch, then `CNV_CAL` takes effect (R111 to R113). -/
def converterBoundary (s : State) (images : List Nat) : State :=
  latch (if cnvOn s then
      converterCounts ((List.range 256).foldl
        (fun t i => if wholeBlock s i then converterBlock t i (nth images i 0) else t) s)
    else s) Obj.CNV_CAL.fields 0

/-- The channelizer and Sunflower at a block boundary: `CHZ_CTRL` takes effect, and what waits for a boundary takes
effect with the spectrum or the group that the boundary names, at once where the channelizer stands still (R105, R106,
R110, R114, R226). -/
def channelizerBoundary (s : State) : State :=
  let s1 := latch s Obj.CHZ_CTRL.fields 0
  sunBlock (if s.chz.running then s1 else idleChanges s1)

/-- A transition has chosen this boundary, or an earlier one, for the end of the streams it removes (R36). -/
def streamsEnd (s : State) : Bool :=
  (phaseOf s == .drain || phaseOf s == .aborting) && decide (s.modes.stopSpectrum ≤ s.time.rc64 / 2048)

/-- The streams that the target of the transition does not have stop at their boundary (R36). -/
def stopStreams (s : State) : State :=
  if streamsEnd s then
    let s1 := if (modeTarget s).spectra then s else chzStop s
    if (modeTarget s).beams then s1 else sunStop s1
  else s

/-- BLOCK_BOUNDARY (R105, R106, R111, R137, R232, R437, R444): counts of the ended block latch, waiting changes take
effect, streams that a transition removes stop.  `images` are the image estimates in −dBc. -/
def execBlockBoundary (images : List Nat) (s : State) : Host.Outcome State Fault Refusal :=
  if !s.time.off && decide (s.time.rc64 % 2097152 = 0) && decide (0 < s.time.rc64) then
    let s1 := converterBoundary s images
    let s2 := if s1.trg.running then triggerBlock s1 else s1
    let s3 := channelizerBoundary s2
    .next (stopStreams (calBlock s3))
  else .next s

end Sys2Proof.Machine
end

