-- ==== Sys2Proof/Machine/TimeEvents.lean ====
section
/-! DEFINITION. The events of the time base that act on the whole device: PPS edges and comparator fires
(R334, R336 to R338, `15_time_and_network_ports.md`). -/

namespace Sys2Proof.Machine

/-- PPS_EDGE (R332 to R334, R193 to R195): the time base judges and captures the edge; in WAIT_GO the peer block takes
the edge it waits for. -/
def execPpsEdge (lead : Nat) (s : State) : Host.Outcome State Fault Refusal := .next (peerEdge (ppsEdge s lead))

/-- The action of a fire of comparator c with its argument and action tick (R337): an action that is not applied counts
in `MISSED` with fault 0x0E05; SWITCH has its own rule while Sunflower runs (R225). -/
def cmpAction (s : State) (c action arg tick : Nat) : State :=
  match action with
  | 2 => if s.trg.running then addCondition s (plainCondition tick 3) else cmpMissed s c 1
  | 3 => if startStatus s = 0 then acceptStart s (boundaryAfter s tick) else cmpMissed s c 1
  | 4 => if s.sun.running then sunComparator s tick else cmpMissed s c 1
  | 5 => if calOn s && decide (arg < 8) then planStart s arg else cmpMissed s c 1
  | 6 => hkRequest s arg
  | _ => s

/-- COMPARATOR_FIRE (R336 to R338): a comparator that is due fires; FIRED, LATE and the next target, then its action. -/
def execComparatorFire (c : Fin 16) (s : State) : Host.Outcome State Fault Refusal :=
  if cmpDue s c then
    let late := cmpLate s c
    let tick := cmpActionTick s c
    let action := rd s Obj.TIM_CMP.ACTION c
    let target := rd s Obj.TIM_CMP.TARGET c
    let s1 := cmpAfterFire s c late
    .next (if action = 1 then noticeAt s1 (wordStart s) (.time c (b2n late) target (wordStart s))
      else cmpAction s1 c action (rd s Obj.TIM_CMP.ARG c) tick)
  else .next s

end Sys2Proof.Machine
end

