-- ==== Sys2Proof/Machine/Dispatch.lean ====
section
/-! DEFINITION. What each command does: one arm per constructor, each a call of its meaning. -/

namespace Sys2Proof.Machine

def exec (i : Instr) (s : State) : Host.Outcome State Fault Refusal :=
  match i with
  | .modePlanWrite plan mailbox seq => Sys2Proof.Machine.execModePlanWrite plan mailbox seq s
  | .transitionCheck => Sys2Proof.Machine.execTransitionCheck s
  | .drainComplete => Sys2Proof.Machine.execDrainComplete s
  | .downComplete => Sys2Proof.Machine.execDownComplete s
  | .upComplete => Sys2Proof.Machine.execUpComplete s
  | .transitionStartDone => Sys2Proof.Machine.execTransitionStartDone s
  | .peerSyncTimeout => Sys2Proof.Machine.execPeerSyncTimeout s
  | .powerGoodTimeout d => Sys2Proof.Machine.execPowerGoodTimeout d s
  | .pllLockTimeout => Sys2Proof.Machine.execPllLockTimeout s
  | .converterCalTimeout g => Sys2Proof.Machine.execConverterCalTimeout g s
  | .converterCalConverged => Sys2Proof.Machine.execConverterCalConverged s
  | .railsGoodTimeout => Sys2Proof.Machine.execRailsGoodTimeout s
  | .clampTrip idx => Sys2Proof.Machine.execClampTrip idx s
  | .clampRelease idx => Sys2Proof.Machine.execClampRelease idx s
  | .clampLong idx => Sys2Proof.Machine.execClampLong idx s
  | .arcEvaluation idx => Sys2Proof.Machine.execArcEvaluation idx s
  | .frameBoundary => Sys2Proof.Machine.execFrameBoundary s
  | .rangeForced idx => Sys2Proof.Machine.execRangeForced idx s
  | .probeIntervalEnd idx r => Sys2Proof.Machine.execProbeIntervalEnd idx r s
  | .rmsWindowEnd idx => Sys2Proof.Machine.execRmsWindowEnd idx s
  | .segmentBoundary => Sys2Proof.Machine.execSegmentBoundary s
  | .freezeStrobe => Sys2Proof.Machine.execFreezeStrobe s
  | .envelopeCrossing idx half => Sys2Proof.Machine.execEnvelopeCrossing idx half s
  | .windowConversionStart => Sys2Proof.Machine.execWindowConversionStart s
  | .segmentConverted raw => Sys2Proof.Machine.execSegmentConverted raw s
  | .windowReadoutDone => Sys2Proof.Machine.execWindowReadoutDone s
  | .digitizerIdleTimeout => Sys2Proof.Machine.execDigitizerIdleTimeout s
  | .captureWakeSetReady => Sys2Proof.Machine.execCaptureWakeSetReady s
  | .captureLingerExpired => Sys2Proof.Machine.execCaptureLingerExpired s
  | .tjSensorRead tj => Sys2Proof.Machine.execTjSensorRead tj s
  | .calStale => Sys2Proof.Machine.execCalStale s
  | .converterWord w => Sys2Proof.Machine.execConverterWord w s
  | .trigoutWidthEnd => Sys2Proof.Machine.execTrigoutWidthEnd s
  | .triginEdge level stable => Sys2Proof.Machine.execTriginEdge level stable s
  | .axrelTriggerMessage port m => Sys2Proof.Machine.execAxrelTriggerMessage port m s
  | .holdoffEnd => Sys2Proof.Machine.execHoldoffEnd s
  | .triggerRecordRelease => Sys2Proof.Machine.execTriggerRecordRelease s
  | .bucketToken => Sys2Proof.Machine.execBucketToken s
  | .cnvCalUpdate estimator => Sys2Proof.Machine.execCnvCalUpdate estimator s
  | .cnvCoeffStore => Sys2Proof.Machine.execCnvCoeffStore s
  | .spectrumComplete upsets => Sys2Proof.Machine.execSpectrumComplete upsets s
  | .spectrumDeadlineMiss sunPath => Sys2Proof.Machine.execSpectrumDeadlineMiss sunPath s
  | .blockBoundary images => Sys2Proof.Machine.execBlockBoundary images s
  | .fragmentReserve => Sys2Proof.Machine.execFragmentReserve s
  | .segmentToEvent => Sys2Proof.Machine.execSegmentToEvent s
  | .fragmentBuilt => Sys2Proof.Machine.execFragmentBuilt s
  | .fragmentSend serial => Sys2Proof.Machine.execFragmentSend serial s
  | .fragmentAnnounce serial => Sys2Proof.Machine.execFragmentAnnounce serial s
  | .fragmentTransferDone serial => Sys2Proof.Machine.execFragmentTransferDone serial s
  | .fragmentOfferTimer serial => Sys2Proof.Machine.execFragmentOfferTimer serial s
  | .replyAccept serial => Sys2Proof.Machine.execReplyAccept serial s
  | .replyReject serial => Sys2Proof.Machine.execReplyReject serial s
  | .replyRequest serial globalId => Sys2Proof.Machine.execReplyRequest serial globalId s
  | .startNow => Sys2Proof.Machine.execStartNow s
  | .integrationStart => Sys2Proof.Machine.execIntegrationStart s
  | .dahliaBlockDiscard => Sys2Proof.Machine.execDahliaBlockDiscard s
  | .dahliaGroup upsets => Sys2Proof.Machine.execDahliaGroup upsets s
  | .dahliaGroupMissing => Sys2Proof.Machine.execDahliaGroupMissing s
  | .dumpWait us => Sys2Proof.Machine.execDumpWait us s
  | .integrationStopBoundary => Sys2Proof.Machine.execIntegrationStopBoundary s
  | .closingPassDone => Sys2Proof.Machine.execClosingPassDone s
  | .peerReadyTimer => Sys2Proof.Machine.execPeerReadyTimer s
  | .groupReady l m => Sys2Proof.Machine.execGroupReady l m s
  | .groupGo l m => Sys2Proof.Machine.execGroupGo l m s
  | .groupStop l m => Sys2Proof.Machine.execGroupStop l m s
  | .groupLeave l m => Sys2Proof.Machine.execGroupLeave l m s
  | .peerStartBlock => Sys2Proof.Machine.execPeerStartBlock s
  | .peerStopBoundary => Sys2Proof.Machine.execPeerStopBoundary s
  | .peerPacket l k => Sys2Proof.Machine.execPeerPacket l k s
  | .peerBufferClose => Sys2Proof.Machine.execPeerBufferClose s
  | .peerSendAgeDiscard => Sys2Proof.Machine.execPeerSendAgeDiscard s
  | .peerMemberLost m => Sys2Proof.Machine.execPeerMemberLost m s
  | .concFragmentArrival l a => Sys2Proof.Machine.execConcFragmentArrival l a s
  | .concAnnouncementArrival l a => Sys2Proof.Machine.execConcAnnouncementArrival l a s
  | .buildTimeout => Sys2Proof.Machine.execBuildTimeout s
  | .fetchTimeout => Sys2Proof.Machine.execFetchTimeout s
  | .concGone l chip serial => Sys2Proof.Machine.execConcGone l chip serial s
  | .interferometryDone => Sys2Proof.Machine.execInterferometryDone s
  | .sunGroup upsets => Sys2Proof.Machine.execSunGroup upsets s
  | .sunArm => Sys2Proof.Machine.execSunArm s
  | .sunDisarm => Sys2Proof.Machine.execSunDisarm s
  | .sunCopy => Sys2Proof.Machine.execSunCopy s
  | .sunSwitchNow => Sys2Proof.Machine.execSunSwitchNow s
  | .setSwitch => Sys2Proof.Machine.execSetSwitch s
  | .contextAged => Sys2Proof.Machine.execContextAged s
  | .fstMasterRead src n r w syndrome => Sys2Proof.Machine.execFstMasterRead src n r w syndrome s
  | .fstWrite master n r w strobes data poison syndrome => Sys2Proof.Machine.execFstWrite master n r w strobes data poison syndrome s
  | .scrubRead n r words last => Sys2Proof.Machine.execScrubRead n r words last s
  | .scrubLate => Sys2Proof.Machine.execScrubLate s
  | .retfailLatch n => Sys2Proof.Machine.execRetfailLatch n s
  | .bankWakeCheck n words => Sys2Proof.Machine.execBankWakeCheck n words s
  | .halfBankInitDone n h => Sys2Proof.Machine.execHalfBankInitDone n h s
  | .frBlockCoded replicaFails => Sys2Proof.Machine.execFrBlockCoded replicaFails s
  | .verifyTest => Sys2Proof.Machine.execVerifyTest s
  | .compressionJobStart e => Sys2Proof.Machine.execCompressionJobStart e s
  | .compressionJobEnd e => Sys2Proof.Machine.execCompressionJobEnd e s
  | .matrixTransaction a => Sys2Proof.Machine.execMatrixTransaction a s
  | .beatTimeout a => Sys2Proof.Machine.execBeatTimeout a s
  | .resetInBurst a => Sys2Proof.Machine.execResetInBurst a s
  | .queuePacketSend q err which => Sys2Proof.Machine.execQueuePacketSend q err which s
  | .creditReturn q => Sys2Proof.Machine.execCreditReturn q s
  | .clockGateStop block => Sys2Proof.Machine.execClockGateStop block s
  | .lossyTailWrite q packet => Sys2Proof.Machine.execLossyTailWrite q packet s
  | .ringDoorbell r tail => Sys2Proof.Machine.execRingDoorbell r tail s
  | .ringKindWrite r kind => Sys2Proof.Machine.execRingKindWrite r kind s
  | .dmaRecordWrite r src => Sys2Proof.Machine.execDmaRecordWrite r src s
  | .coalesceTimeout r => Sys2Proof.Machine.execCoalesceTimeout r s
  | .descriptorFetchDone r addr len ctrl rsv error => Sys2Proof.Machine.execDescriptorFetchDone r addr len ctrl rsv error s
  | .cplTimeout r => Sys2Proof.Machine.execCplTimeout r s
  | .ringNoBuffer r => Sys2Proof.Machine.execRingNoBuffer r s
  | .netRecordSend src => Sys2Proof.Machine.execNetRecordSend src s
  | .linkTrainStart l => Sys2Proof.Machine.execLinkTrainStart l s
  | .partnerClockStable l unchanged => Sys2Proof.Machine.execPartnerClockStable l unchanged s
  | .baseLocked l lanes => Sys2Proof.Machine.execBaseLocked l lanes s
  | .capabilityRecord l record => Sys2Proof.Machine.execCapabilityRecord l record s
  | .speedDone l lanes => Sys2Proof.Machine.execSpeedDone l lanes s
  | .portDeskew l late => Sys2Proof.Machine.execPortDeskew l late s
  | .trainStepOverrun l => Sys2Proof.Machine.execTrainStepOverrun l s
  | .retrainTimer l => Sys2Proof.Machine.execRetrainTimer l s
  | .laneLockLoss l d => Sys2Proof.Machine.execLaneLockLoss l d s
  | .mapreq l mapId map => Sys2Proof.Machine.execMapreq l mapId map s
  | .mapreqResend l => Sys2Proof.Machine.execMapreqResend l s
  | .map l mapId map => Sys2Proof.Machine.execMap l mapId map s
  | .am l d bipOk => Sys2Proof.Machine.execAm l d bipOk s
  | .laneRejoin l d => Sys2Proof.Machine.execLaneRejoin l d s
  | .clockLoss l => Sys2Proof.Machine.execClockLoss l s
  | .axrelFrame l f => Sys2Proof.Machine.execAxrelFrame l f s
  | .ack l seq => Sys2Proof.Machine.execAck l seq s
  | .nak l seq => Sys2Proof.Machine.execNak l seq s
  | .ackTimeout l => Sys2Proof.Machine.execAckTimeout l s
  | .credit l vc total => Sys2Proof.Machine.execCredit l vc total s
  | .ackCreditTimer l => Sys2Proof.Machine.execAckCreditTimer l s
  | .lpiEntry l => Sys2Proof.Machine.execLpiEntry l s
  | .lpiRefresh l => Sys2Proof.Machine.execLpiRefresh l s
  | .wake l => Sys2Proof.Machine.execWake l s
  | .imageOffer l kind total => Sys2Proof.Machine.execImageOffer l kind total s
  | .imageRequest l offset count => Sys2Proof.Machine.execImageRequest l offset count s
  | .imageData l offset data => Sys2Proof.Machine.execImageData l offset data s
  | .imageDone l => Sys2Proof.Machine.execImageDone l s
  | .imageAbort l => Sys2Proof.Machine.execImageAbort l s
  | .imageChunkRetry => Sys2Proof.Machine.execImageChunkRetry s
  | .testPayload l => Sys2Proof.Machine.execTestPayload l s
  | .errInject l => Sys2Proof.Machine.execErrInject l s
  | .ref10mLost => Sys2Proof.Machine.execRef10mLost s
  | .ref10mReturn => Sys2Proof.Machine.execRef10mReturn s
  | .phaseSlewDone => Sys2Proof.Machine.execPhaseSlewDone s
  | .dormantRefReturn => Sys2Proof.Machine.execDormantRefReturn s
  | .ppsEdge lead => Sys2Proof.Machine.execPpsEdge lead s
  | .ppsLost => Sys2Proof.Machine.execPpsLost s
  | .bootPpsWaitTimeout => Sys2Proof.Machine.execBootPpsWaitTimeout s
  | .incWrite inc atPps => Sys2Proof.Machine.execIncWrite inc atPps s
  | .incApply => Sys2Proof.Machine.execIncApply s
  | .timeSet sec nsec atPps => Sys2Proof.Machine.execTimeSet sec nsec atPps s
  | .timeStep stepNs atPps => Sys2Proof.Machine.execTimeStep stepNs atPps s
  | .timeOpApply => Sys2Proof.Machine.execTimeOpApply s
  | .timCmpWrite c w => Sys2Proof.Machine.execTimCmpWrite c w s
  | .comparatorFire c => Sys2Proof.Machine.execComparatorFire c s
  | .netFrame port bytes before after => Sys2Proof.Machine.execNetFrame port bytes before after s
  | .netLinkDown port lost => Sys2Proof.Machine.execNetLinkDown port lost s
  | .netLinkUp port cr4 bypass => Sys2Proof.Machine.execNetLinkUp port cr4 bypass s
  | .anRestart port => Sys2Proof.Machine.execAnRestart port s
  | .selfCheck a b => Sys2Proof.Machine.execSelfCheck a b s
  | .compareMismatch => Sys2Proof.Machine.execCompareMismatch s
  | .warmRestartDone residentOk => Sys2Proof.Machine.execWarmRestartDone residentOk s
  | .resyncDone => Sys2Proof.Machine.execResyncDone s
  | .resyncTimeout => Sys2Proof.Machine.execResyncTimeout s
  | .leadReturn => Sys2Proof.Machine.execLeadReturn s
  | .heartbeat => Sys2Proof.Machine.execHeartbeat s
  | .mailboxDoorbell m len frame => Sys2Proof.Machine.execMailboxDoorbell m len frame s
  | .completionWrite m => Sys2Proof.Machine.execCompletionWrite m s
  | .noticeWrite => Sys2Proof.Machine.execNoticeWrite s
  | .noticeLost => Sys2Proof.Machine.execNoticeLost s
  | .completionRingSetup ring word wide v => Sys2Proof.Machine.execCompletionRingSetup ring word wide v s
  | .bar0DiscardedWrite => Sys2Proof.Machine.execBar0DiscardedWrite s
  | .bar2Read off words syndromes => Sys2Proof.Machine.execBar2Read off words syndromes s
  | .bar2Write => Sys2Proof.Machine.execBar2Write s
  | .halfReadLow who bar2 off syndrome => Sys2Proof.Machine.execHalfReadLow who bar2 off syndrome s
  | .halfReadHigh who => Sys2Proof.Machine.execHalfReadHigh who s
  | .pornRelease chipId bootSrc testEn disagree found => Sys2Proof.Machine.execPornRelease chipId bootSrc testEn disagree found s
  | .pornAssert long => Sys2Proof.Machine.execPornAssert long s
  | .bootRefTimeout => Sys2Proof.Machine.execBootRefTimeout s
  | .bootIdleReached => Sys2Proof.Machine.execBootIdleReached s
  | .bootTimeout => Sys2Proof.Machine.execBootTimeout s
  | .bootCommandReboot => Sys2Proof.Machine.execBootCommandReboot s
  | .vddAonPowerUp => Sys2Proof.Machine.execVddAonPowerUp s
  | .governorGrant => Sys2Proof.Machine.execGovernorGrant s
  | .domainPowerGood d => Sys2Proof.Machine.execDomainPowerGood d s
  | .sleepAck d => Sys2Proof.Machine.execSleepAck d s
  | .sleepDefer d => Sys2Proof.Machine.execSleepDefer d s
  | .sleepRefuse d => Sys2Proof.Machine.execSleepRefuse d s
  | .sleepRetry d => Sys2Proof.Machine.execSleepRetry d s
  | .sleepStalled d => Sys2Proof.Machine.execSleepStalled d s
  | .ballastPark d => Sys2Proof.Machine.execBallastPark d s
  | .latchup d => Sys2Proof.Machine.execLatchup d s
  | .latchupRestore d => Sys2Proof.Machine.execLatchupRestore d s
  | .dvfsThrottleStep => Sys2Proof.Machine.execDvfsThrottleStep s
  | .dvfsRecoverStep => Sys2Proof.Machine.execDvfsRecoverStep s
  | .thermalLimit => Sys2Proof.Machine.execThermalLimit s
  | .readVoutPoll mv => Sys2Proof.Machine.execReadVoutPoll mv s
  | .voutTimeout => Sys2Proof.Machine.execVoutTimeout s
  | .pmbusPoll r answer => Sys2Proof.Machine.execPmbusPoll r answer s
  | .ainWake p => Sys2Proof.Machine.execAinWake p s
  | .hostwakeEdge level => Sys2Proof.Machine.execHostwakeEdge level s
  | .railsGood residentOk => Sys2Proof.Machine.execRailsGood residentOk s
  | .hkstartEdge level => Sys2Proof.Machine.execHkstartEdge level s
  | .hkConversionDone value => Sys2Proof.Machine.execHkConversionDone value s
  | .calPlanStart p => Sys2Proof.Machine.execCalPlanStart p s
  | .calPlanStop p => Sys2Proof.Machine.execCalPlanStop p s
  | .calStringDisable n => Sys2Proof.Machine.execCalStringDisable n s
  | .calSlotBoundary n => Sys2Proof.Machine.execCalSlotBoundary n s
  | .calRunJudged n avg below above => Sys2Proof.Machine.execCalRunJudged n avg below above s
  | .calDiagnosticPulse n => Sys2Proof.Machine.execCalDiagnosticPulse n s
  | .calOvercurrent n current => Sys2Proof.Machine.execCalOvercurrent n current s
  | .faultCountSummary code inst => Sys2Proof.Machine.execFaultCountSummary code inst s
  | .configVote corrected lost => Sys2Proof.Machine.execConfigVote corrected lost s
  | .getInfo m => Sys2Proof.Machine.execGetInfo m s
  | .cfgRead m => Sys2Proof.Machine.execCfgRead m s
  | .cfgWrite m => Sys2Proof.Machine.execCfgWrite m s
  | .tableWrite m data => Sys2Proof.Machine.execTableWrite m data s
  | .tableRead m => Sys2Proof.Machine.execTableRead m s
  | .softTrigger m => Sys2Proof.Machine.execSoftTrigger m s
  | .integStop m => Sys2Proof.Machine.execIntegStop m s
  | .probeSweep m readings => Sys2Proof.Machine.execProbeSweep m readings s
  | .cellCal m ev => Sys2Proof.Machine.execCellCal m ev s
  | .convCapture m => Sys2Proof.Machine.execConvCapture m s
  | .faultList m => Sys2Proof.Machine.execFaultList m s
  | .faultAck m => Sys2Proof.Machine.execFaultAck m s
  | .logRead m => Sys2Proof.Machine.execLogRead m s
  | .compress m data => Sys2Proof.Machine.execCompress m data s
  | .decompress m data => Sys2Proof.Machine.execDecompress m data s
  | .imageLoad m data => Sys2Proof.Machine.execImageLoad m data s
  | .imageFlash m ok => Sys2Proof.Machine.execImageFlash m ok s
  | .imageServe m => Sys2Proof.Machine.execImageServe m s
  | .rollbackCommit m failed => Sys2Proof.Machine.execRollbackCommit m failed s
  | .boot m => Sys2Proof.Machine.execBoot m s
  | .ringDataTimeout m => Sys2Proof.Machine.execRingDataTimeout m s
  | .flashImageRead bundle => Sys2Proof.Machine.execFlashImageRead bundle s
  | .prbsCheckerLock l d => Sys2Proof.Machine.execPrbsCheckerLock l d s
  | .pinPulseFiltered pin => Sys2Proof.Machine.execPinPulseFiltered pin s
  | .retryHigh l => Sys2Proof.Machine.execRetryHigh l s
  | .laneErrors l d => Sys2Proof.Machine.execLaneErrors l d s
  | .netFecUncorrected port corrected uncorrected => Sys2Proof.Machine.execNetFecUncorrected port corrected uncorrected s
  | .shedLaneReadaptation l d => Sys2Proof.Machine.execShedLaneReadaptation l d s
  | .capabilityRecordResend l => Sys2Proof.Machine.execCapabilityRecordResend l s
  | .pmeTurnOff => Sys2Proof.Machine.execPmeTurnOff s
  | .pmeWaitTimeout => Sys2Proof.Machine.execPmeWaitTimeout s
  | .alarmWake => Sys2Proof.Machine.execAlarmWake s
  | .minOffExpired => Sys2Proof.Machine.execMinOffExpired s
  | .aonOvercurrent => Sys2Proof.Machine.execAonOvercurrent s
  | .hkStart => Sys2Proof.Machine.execHkStart s
  | .hkStop => Sys2Proof.Machine.execHkStop s
  | .hkDelayExpired => Sys2Proof.Machine.execHkDelayExpired s
  | .hkWakeTimer => Sys2Proof.Machine.execHkWakeTimer s
  | .hkBufferCopy => Sys2Proof.Machine.execHkBufferCopy s
  | .statPeriod => Sys2Proof.Machine.execStatPeriod s
  | .heartbeatStall => Sys2Proof.Machine.execHeartbeatStall s
  | .drainLimitExpired => Sys2Proof.Machine.execDrainLimitExpired s
  | .pcieLinkLeavesL2 => Sys2Proof.Machine.execPcieLinkLeavesL2 s
  | .trigBusy => Sys2Proof.Machine.execTrigBusy s
  | .verifyRecurring => Sys2Proof.Machine.execVerifyRecurring s

end Sys2Proof.Machine
end

