-- ==== Sys2Proof/Safety.lean ====
section
/-! DEFINITION. The terms claims use: a run that nothing stops, and what a command may change. -/

namespace Sys2Proof

open Sys2Proof.Machine

/-- A step that answers a next state. -/
def Runs (s : State) : Prop := ∃ t, step s = .next t

/-- `n` steps, each of which answers a next state. -/
def RunsFor : Nat → State → Prop
  | 0, _ => True
  | n + 1, s => ∃ t, step s = .next t ∧ RunsFor n t

/-- A part of the state: all copies of one configuration or status object (`regs` names every object), the values in
force, the addressed memory, or one of the blocks. -/
inductive Part where
  | obj (o : Nat)
  | regs | live | mem | time | rc64 | net | modes | afe | bbl | cnv | chz | trg | evt | cmp | dah | peer | conc | sun | fst | mov | axl
  | ctl | pwr | hk | cal | aon | flt | notes | out | free | pending
  deriving DecidableEq, Repr

/-- A part is the same in both states; an object, in every field of every copy. -/
def Part.Same (p : Part) (r s : State) : Prop :=
  match p with
  | .obj o => ∀ k, k / 4294967296 = o → mapGet s.regs k = mapGet r.regs k
  | .regs => True
  | .live => s.live = r.live
  | .mem => s.mem = r.mem
  | .time => s.time = r.time
  | .rc64 => s.time.rc64 = r.time.rc64
  | .net => s.net = r.net
  | .modes => s.modes = r.modes
  | .afe => s.afe = r.afe
  | .bbl => s.bbl = r.bbl
  | .cnv => s.cnv = r.cnv
  | .chz => s.chz = r.chz
  | .trg => s.trg = r.trg
  | .evt => s.evt = r.evt
  | .cmp => s.cmp = r.cmp
  | .dah => s.dah = r.dah
  | .peer => s.peer = r.peer
  | .conc => s.conc = r.conc
  | .sun => s.sun = r.sun
  | .fst => s.fst = r.fst
  | .mov => s.mov = r.mov
  | .axl => s.axl = r.axl
  | .ctl => s.ctl = r.ctl
  | .pwr => s.pwr = r.pwr
  | .hk => s.hk = r.hk
  | .cal => s.cal = r.cal
  | .aon => s.aon = r.aon
  | .flt => s.flt = r.flt
  | .notes => s.notes = r.notes
  | .out => s.out = r.out
  | .free => s.free = r.free
  | .pending => s.pending = r.pending

/-- A part is one of those named. -/
def Part.within (ps : List Part) : Part → Bool
  | .obj o => ps.contains .regs || ps.contains (.obj o)
  | p => ps.contains p

/-- The sparse stores are in their canonical form: the fields of the objects, the values in force, the memory. -/
def StoresWf (s : State) : Prop := mapWf s.regs = true ∧ mapWf s.live = true ∧ memWf s.mem = true

/-- What is bounded is within its bound: the code of the present mode is legal (R25), queue 15 holds at most its 64
slots (R280), the retained log its 256 entries (R449), the log region its 16,384 (R19). -/
def Bounded (s : State) : Prop :=
  rd s Obj.MODE_STATE.CURRENT ≤ 11 ∧ s.notes.queue.length ≤ 64 ∧ s.flt.retained.length ≤ 256
    ∧ s.flt.region.length ≤ 16384

/-- From `r` to `s` at most the named parts differ, every other one is the same; the stores keep their canonical form,
and what is bounded stays within its bound. -/
def Touches (ps : List Part) (r s : State) : Prop :=
  (∀ p : Part, p.within ps = false → p.Same r s) ∧ (StoresWf r → StoresWf s) ∧ (Bounded r → Bounded s)

/-- The commands that may set RC64: the return of the reference in Dormant, which rounds it up (R333), the zero of the
boot (R325), and the boots themselves. -/
def setsRc64 : Instr → Bool
  | .dormantRefReturn | .ppsEdge _ | .bootPpsWaitTimeout | .pornAssert _ | .pornRelease .. | .bootTimeout
  | .bootCommandReboot | .vddAonPowerUp | .configVote .. | .selfCheck .. | .compareMismatch | .warmRestartDone _
  | .resyncTimeout | .railsGood _ | .latchup _ | .flashImageRead _ => true
  | _ => false

/-- Request `r` is alone in mailbox m, has the opcode, has not started, and nothing of R370 stops it early. -/
abbrev ReadyHead (s : State) (m op : Nat) (r : Request) : Prop :=
  mailServed s m = true ∧ (mailOf s m).queue = [r] ∧ r.opcode = op ∧ r.started = false ∧ r.attached = []
    ∧ early s op r.payload = 0

/-- From `s` to `t` request `r` of mailbox m has committed: it has left the queue, its one completion carries the status
and the payload, and DONE_RC64 is that of a commit in `s` (R356, R369, R375). -/
def Answers (s t : State) (m : Nat) (r : Request) (status : Nat) (payload : Bytes) : Prop :=
  (mailOf t m).queue = []
    ∧ (mailOf t m).done = (mailOf s m).done
        ++ [⟨r.opcode, m, r.seq, 0, r.irq, r.acceptRc64, ⟨status, commitTick s, payload⟩⟩]
    ∧ t.ctl.lastDone = commitTick s

end Sys2Proof
end

