-- ==== Sys2Proof/WellFormed.lean ====
section
/-! DEFINITION. Well-formed commands: the lengths and the ranges of the operands that their types leave open. -/

namespace Sys2Proof

/-- A number fits in so many bits. -/
def below (w n : Nat) : Bool := decide (n < 2 ^ w)

/-- A string of bytes. -/
def bytesOk (b : List Nat) : Bool := b.all (below 8)

/-- A reading of the line probe: a phase within ±180°, a feedback code of R53. -/
def readingOk (r : ProbeReading) : Bool :=
  decide (-18000 ≤ r.phaseCentideg) && decide (r.phaseCentideg ≤ 18000) && below 3 r.tiaEnd

/-- A converter word: 16 samples of 10 bits of each of 256 inputs; upsets in the 528 table entries. -/
def wordOk (w : WordIn) : Bool :=
  decide (w.samples.length = 256) && w.samples.all (fun x => decide (x.length = 16) && x.all (below 10))
    && w.upsets.all (fun u => decide (u.1 < 528))

/-- A group control message. -/
def groupOk (m : GroupMessage) : Bool := below 4 m.member && below 16 m.kFirst && below 48 m.sec && below 32 m.gspx

/-- An arriving fragment or announcement. -/
def arrivalOk (a : Arrival) : Bool := below 4 a.chip && below 40 a.serial && below 96 a.time && bytesOk a.bytes

/-- A matrix transaction: a 40-bit address, one strobe and one byte of data for each byte written. -/
def accessOk (a : MatrixAccess) : Bool :=
  below 40 a.addr && below a.len a.strobes && bytesOk a.data && (!a.write || decide (a.data.length = a.len))

/-- The operands of a command lie in their ranges. -/
def Instr.wf (i : Instr) : Bool :=
  match i with
  | .modePlanWrite plan _ seq => below 64 plan && below 32 seq
  | .transitionCheck => true
  | .drainComplete => true
  | .downComplete => true
  | .upComplete => true
  | .transitionStartDone => true
  | .peerSyncTimeout => true
  | .powerGoodTimeout _ => true
  | .pllLockTimeout => true
  | .converterCalTimeout _ => true
  | .converterCalConverged => true
  | .railsGoodTimeout => true
  | .clampTrip _ => true
  | .clampRelease _ => true
  | .clampLong _ => true
  | .arcEvaluation _ => true
  | .frameBoundary => true
  | .rangeForced _ => true
  | .probeIntervalEnd _ r => readingOk r
  | .rmsWindowEnd _ => true
  | .segmentBoundary => true
  | .freezeStrobe => true
  | .envelopeCrossing _ _ => true
  | .windowConversionStart => true
  | .segmentConverted raw => decide (raw.length = 256) && raw.all (fun c => decide (c.length = 256) && c.all (below 12))
  | .windowReadoutDone => true
  | .digitizerIdleTimeout => true
  | .captureWakeSetReady => true
  | .captureLingerExpired => true
  | .tjSensorRead _ => true
  | .calStale => true
  | .converterWord w => wordOk w
  | .trigoutWidthEnd => true
  | .triginEdge _ _ => true
  | .axrelTriggerMessage _ m => below 40 m.serial && below 6 m.src && below 4 m.chip && below 96 m.time
  | .holdoffEnd => true
  | .triggerRecordRelease => true
  | .bucketToken => true
  | .cnvCalUpdate _ => true
  | .cnvCoeffStore => true
  | .spectrumComplete upsets => upsets.all (fun u => below 18 u.1)
  | .spectrumDeadlineMiss _ => true
  | .blockBoundary images => decide (images.length = 256)
  | .fragmentReserve => true
  | .segmentToEvent => true
  | .fragmentBuilt => true
  | .fragmentSend serial => below 40 serial
  | .fragmentAnnounce serial => below 40 serial
  | .fragmentTransferDone serial => below 40 serial
  | .fragmentOfferTimer serial => below 40 serial
  | .replyAccept serial => below 40 serial
  | .replyReject serial => below 40 serial
  | .replyRequest serial globalId => below 40 serial && below 48 globalId
  | .startNow => true
  | .integrationStart => true
  | .dahliaBlockDiscard => true
  | .dahliaGroup _ => true
  | .dahliaGroupMissing => true
  | .dumpWait _ => true
  | .integrationStopBoundary => true
  | .closingPassDone => true
  | .peerReadyTimer => true
  | .groupReady _ m => groupOk m
  | .groupGo _ m => groupOk m
  | .groupStop _ m => groupOk m
  | .groupLeave _ m => groupOk m
  | .peerStartBlock => true
  | .peerStopBoundary => true
  | .peerPacket _ k => below 32 k.gspx && below 4 k.src && below 4 k.dst && below 16 k.valid && bytesOk k.data
  | .peerBufferClose => true
  | .peerSendAgeDiscard => true
  | .peerMemberLost _ => true
  | .concFragmentArrival _ a => arrivalOk a
  | .concAnnouncementArrival _ a => arrivalOk a
  | .buildTimeout => true
  | .fetchTimeout => true
  | .concGone _ chip serial => below 4 chip && below 40 serial
  | .interferometryDone => true
  | .sunGroup _ => true
  | .sunArm => true
  | .sunDisarm => true
  | .sunCopy => true
  | .sunSwitchNow => true
  | .setSwitch => true
  | .contextAged => true
  | .fstMasterRead _ _ _ _ syndrome => below 8 syndrome
  | .fstWrite _ _ _ _ _ data _ syndrome => below 64 data && below 8 syndrome
  | .scrubRead _ _ words _ => words.all (fun w => below 3 w.1 && below 8 w.2)
  | .scrubLate => true
  | .retfailLatch _ => true
  | .bankWakeCheck _ words => decide (words.length = 8) && words.all (fun w => below 64 w.1 && below 8 w.2)
  | .halfBankInitDone _ _ => true
  | .frBlockCoded _ => true
  | .verifyTest => true
  | .compressionJobStart _ => true
  | .compressionJobEnd _ => true
  | .matrixTransaction a => accessOk a
  | .beatTimeout a => accessOk a
  | .resetInBurst a => accessOk a
  | .queuePacketSend _ _ _ => true
  | .creditReturn _ => true
  | .clockGateStop _ => true
  | .lossyTailWrite _ packet => bytesOk packet
  | .ringDoorbell _ _ => true
  | .ringKindWrite _ _ => true
  | .dmaRecordWrite _ _ => true
  | .coalesceTimeout _ => true
  | .descriptorFetchDone _ addr len ctrl rsv _ => below 64 addr && below 32 len && below 32 ctrl && below 128 rsv
  | .cplTimeout _ => true
  | .ringNoBuffer _ => true
  | .netRecordSend _ => true
  | .linkTrainStart _ => true
  | .partnerClockStable _ _ => true
  | .baseLocked _ _ => true
  | .capabilityRecord _ record => bytesOk record
  | .speedDone _ _ => true
  | .portDeskew _ _ => true
  | .trainStepOverrun _ => true
  | .retrainTimer _ => true
  | .laneLockLoss _ _ => true
  | .mapreq _ _ _ => true
  | .mapreqResend _ => true
  | .map _ _ _ => true
  | .am _ _ _ => true
  | .laneRejoin _ _ => true
  | .clockLoss _ => true
  | .axrelFrame _ f => bytesOk f.head && bytesOk f.payload && below 32 f.crc
  | .ack _ seq => below 12 seq
  | .nak _ seq => below 12 seq
  | .ackTimeout _ => true
  | .credit _ _ total => below 16 total
  | .ackCreditTimer _ => true
  | .lpiEntry _ => true
  | .lpiRefresh _ => true
  | .wake _ => true
  | .imageOffer _ _ _ => true
  | .imageRequest _ offset count => below 32 offset && below 16 count
  | .imageData _ offset data => below 32 offset && bytesOk data
  | .imageDone _ => true
  | .imageAbort _ => true
  | .imageChunkRetry => true
  | .testPayload _ => true
  | .errInject _ => true
  | .ref10mLost => true
  | .ref10mReturn => true
  | .phaseSlewDone => true
  | .dormantRefReturn => true
  | .ppsEdge lead => decide (lead < 160)
  | .ppsLost => true
  | .bootPpsWaitTimeout => true
  | .incWrite inc _ => below 32 inc
  | .incApply => true
  | .timeSet sec nsec _ => below 48 sec && decide (nsec < 1000000000)
  | .timeStep _ _ => true
  | .timeOpApply => true
  | .timCmpWrite _ w => below 48 w.target && below 4 w.action && below 16 w.arg && below 48 w.period && below 96 w.civil
  | .comparatorFire _ => true
  | .netFrame _ bytes _ _ => bytesOk bytes
  | .netLinkDown _ _ => true
  | .netLinkUp _ _ _ => true
  | .anRestart _ => true
  | .selfCheck _ _ => true
  | .compareMismatch => true
  | .warmRestartDone _ => true
  | .resyncDone => true
  | .resyncTimeout => true
  | .leadReturn => true
  | .heartbeat => true
  | .mailboxDoorbell _ _ frame => bytesOk frame
  | .completionWrite _ => true
  | .noticeWrite => true
  | .noticeLost => true
  | .completionRingSetup _ _ _ v => below 64 v
  | .bar0DiscardedWrite => true
  | .bar2Read _ _ syndromes => syndromes.all (below 8)
  | .bar2Write => true
  | .halfReadLow _ _ _ syndrome => below 8 syndrome
  | .halfReadHigh _ => true
  | .pornRelease _ _ _ _ found => below 128 found
  | .pornAssert _ => true
  | .bootRefTimeout => true
  | .bootIdleReached => true
  | .bootTimeout => true
  | .bootCommandReboot => true
  | .vddAonPowerUp => true
  | .governorGrant => true
  | .domainPowerGood _ => true
  | .sleepAck _ => true
  | .sleepDefer _ => true
  | .sleepRefuse _ => true
  | .sleepRetry _ => true
  | .sleepStalled _ => true
  | .ballastPark _ => true
  | .latchup _ => true
  | .latchupRestore _ => true
  | .dvfsThrottleStep => true
  | .dvfsRecoverStep => true
  | .thermalLimit => true
  | .readVoutPoll _ => true
  | .voutTimeout => true
  | .pmbusPoll _ answer => (match answer with | some p => below 16 p.1 && below 16 p.2 | none => true)
  | .pmeTurnOff => true
  | .pmeWaitTimeout => true
  | .ainWake _ => true
  | .alarmWake => true
  | .hostwakeEdge _ => true
  | .minOffExpired => true
  | .railsGood _ => true
  | .aonOvercurrent => true
  | .hkStart => true
  | .hkStop => true
  | .hkstartEdge _ => true
  | .hkConversionDone _ => true
  | .hkDelayExpired => true
  | .hkWakeTimer => true
  | .hkBufferCopy => true
  | .statPeriod => true
  | .heartbeatStall => true
  | .calPlanStart _ => true
  | .calPlanStop _ => true
  | .calStringDisable _ => true
  | .calSlotBoundary _ => true
  | .calRunJudged _ avg below' above => below 16 avg && below 16 below' && below 16 above
  | .calDiagnosticPulse _ => true
  | .calOvercurrent _ current => below 16 current
  | .faultCountSummary code inst => below 16 code && below 16 inst
  | .configVote _ _ => true
  | .getInfo _ => true
  | .cfgRead _ => true
  | .cfgWrite _ => true
  | .tableWrite _ data => bytesOk data
  | .tableRead _ => true
  | .softTrigger _ => true
  | .integStop _ => true
  | .probeSweep _ readings => readings.all readingOk
  | .cellCal _ _ => true
  | .convCapture _ => true
  | .faultList _ => true
  | .faultAck _ => true
  | .logRead _ => true
  | .compress _ data => bytesOk data
  | .decompress _ data => bytesOk data
  | .imageLoad _ data => bytesOk data
  | .imageFlash _ _ => true
  | .imageServe _ => true
  | .rollbackCommit _ _ => true
  | .boot _ => true
  | .drainLimitExpired => true
  | .ringDataTimeout _ => true
  | .flashImageRead _ => true
  | .pcieLinkLeavesL2 => true
  | .prbsCheckerLock _ _ => true
  | .pinPulseFiltered _ => true
  | .trigBusy => true
  | .retryHigh _ => true
  | .laneErrors _ _ => true
  | .netFecUncorrected _ _ _ => true
  | .verifyRecurring => true
  | .shedLaneReadaptation _ _ => true
  | .capabilityRecordResend _ => true

end Sys2Proof
end

