-- ==== Sys2Proof/Certificates/Slice0/Obligations.lean ====
section
/-! DEFINITION. The statements for the provers.  Each is a proposition over the model; its docstring names the rules of
the spec, or says that it is derived. -/

open Sys2Proof Sys2Proof.Machine


/-! ### The whole block -/

/-- A step runs the command at the front of the queue on the state with the queue's rest (derived: the form of a block). -/
def Obligations.StepRunsFrontCommand : Prop :=
  ∀ (c : Instr) (rest : List Instr) (s : State), s.pending = c :: rest → step s = exec c { s with pending := rest }

/-- On an empty queue one tick of RC64 passes: RC64 rises by 1, civil time by INC, and nothing else changes (derived:
DESIGN CHOICE of log entry 2; R325 and R328 say how the two count). -/
def Obligations.EmptyQueueTicks : Prop :=
  ∀ s : State, s.pending = [] → ∃ t, step s = .next t
    ∧ t.time = { s.time with rc64 := s.time.rc64 + 1, civil := s.time.civil + s.time.inc }
    ∧ Touches [.time, .rc64] s t

/-- Every command answers a next state: none stops the block (derived: no row of the table is without an effect). -/
def Obligations.EveryCommandAnswers : Prop := ∀ (c : Instr) (s : State), ∃ t, exec c s = .next t

/-- A command leaves the queue of waiting commands as it is; only the power-up of `VDD_AON` makes a new machine, which
keeps the queue as well (derived: the queue is the model's own). -/
def Obligations.QueueUntouched : Prop := ∀ (c : Instr) (s t : State), exec c s = .next t → t.pending = s.pending

/-- Every step keeps the sparse stores and the memory in their canonical form (derived: the form of the model's state). -/
def Obligations.StepKeepsStores : Prop := ∀ s t : State, StoresWf s → step s = .next t → StoresWf t

/-- Every step keeps what is bounded within its bound: a legal mode code (R25), the notice queue (R280), the retained
log (R449), the log region (R19). -/
def Obligations.StepKeepsBounds : Prop := ∀ s t : State, Bounded s → step s = .next t → Bounded t

/-- Right after reset the stores are canonical and everything is within its bound. -/
def Obligations.ResetIsWellFormed : Prop := StoresWf State.reset ∧ Bounded State.reset

/-- No command steps RC64 but those of `setsRc64`: the boots, their zero, the return of the reference in Dormant
(R325, R333). -/
def Obligations.Rc64NeverStepped : Prop :=
  ∀ (c : Instr) (s t : State), setsRc64 c = false → exec c s = .next t → t.time.rc64 = s.time.rc64

/-- The zero of RC64 is one of the boot: an edge, or the end of the wait, sets it only while the boot waits for it; the
return of the reference in Dormant moves it forward, by less than 160 ticks (R325, R333). -/
def Obligations.Rc64ZeroOnlyAtBoot : Prop :=
  (∀ (lead : Nat) (s t : State), s.time.bootWait = false → exec (.ppsEdge lead) s = .next t →
    t.time.rc64 = s.time.rc64)
  ∧ (∀ s t : State, s.time.bootWait = false → exec .bootPpsWaitTimeout s = .next t → t.time.rc64 = s.time.rc64)
  ∧ (∀ s t : State, exec .dormantRefReturn s = .next t →
    s.time.rc64 ≤ t.time.rc64 ∧ t.time.rc64 < s.time.rc64 + 160)


/-! ### Operating modes (chapter 2) -/

/-- A write of `MODE_PLAN` (R28, R30, R31, R42): in STEADY a listed transition enters CHECK at once and one that is not
listed changes nothing; during a transition the request waits; a value out of range, or a write while an image or
rollback command runs, changes nothing; every field of `MODE_PLAN` takes the written value. -/
def Obligations.ModePlanWrites : Prop :=
  ∀ (plan : Nat) (mailbox : Fin 8) (seq : Nat) (s : State), plan < 2 ^ 32 →
    let m := Mode.ofCode (bits plan 0 4)
    let r : ModeReq := ⟨m, bit plan 4, bit plan 5, true, 0, mailbox, seq % 2 ^ 32⟩
    let legal := bits plan 0 4 ≤ 11 ∧ 1 ≤ bits plan 8 4 ∧ bits plan 8 4 ≤ 9 ∧ bits plan 6 2 = 0 ∧ bits plan 12 4 = 0
      ∧ bits plan 25 7 = 0
    let free := bits plan 0 4 = 1 ∨ runsOp s [0x50, 0x51, 0x53] = false
    (legal → free → phaseOf s = .steady → transitionListed (modeOf s) m = true →
      ∃ t, exec (.modePlanWrite plan mailbox seq) s = .next t ∧ phaseOf t = .check
        ∧ rd t Obj.MODE_STATE.TARGET = bits plan 0 4 ∧ modeOf t = modeOf s ∧ t.modes.running = some r
        ∧ ∀ f ∈ Obj.MODE_PLAN.fields, rd t f = bits plan f.lo f.width)
    ∧ (bits plan 0 4 ≤ 11 → phaseOf s = .steady → m ≠ modeOf s → transitionListed (modeOf s) m = false →
      exec (.modePlanWrite plan mailbox seq) s = .next s)
    ∧ (legal → free → phaseOf s ≠ .steady →
      ∃ t, exec (.modePlanWrite plan mailbox seq) s = .next t ∧ t.modes.waiting = some r
        ∧ rd t Obj.MODE_STATE.PENDING = m.code ∧ t.modes.running = s.modes.running ∧ phaseOf t = phaseOf s
        ∧ modeTarget t = modeTarget s ∧ ∀ f ∈ Obj.MODE_PLAN.fields, rd t f = bits plan f.lo f.width)
    ∧ (¬ legal ∨ ¬ free → exec (.modePlanWrite plan mailbox seq) s = .next s)

/-- One transition runs, and at most one request waits: a request during a transition leaves the running one as it is and
waits, in place of one that waited, which completes with SUPERSEDED (REASON 2 of its notice); the waiting request
reaches its own CHECK when the running transition ends (R31). -/
def Obligations.OneRequestWaits : Prop :=
  ∀ (s : State) (r : ModeReq), phaseOf s ≠ .steady →
    ((requestMode s r).modes.waiting = some r ∧ rd (requestMode s r) Obj.MODE_STATE.PENDING = r.target.code
      ∧ (requestMode s r).modes.running = s.modes.running ∧ phaseOf (requestMode s r) = phaseOf s
      ∧ modeTarget (requestMode s r) = modeTarget s)
    ∧ (s.modes.waiting = none → (requestMode s r).notes = s.notes)
    ∧ (∀ w, s.modes.waiting = some w → s.notes.queue.length < 64 →
      (requestMode s r).notes.queue = s.notes.queue
        ++ [⟨s.notes.seq, ts96Now s, .mode (modeOf s).code w.target.code 2 0x0012 w.seq w.mailbox 0⟩])
    ∧ (∀ w dst, s.modes.waiting = some w →
      phaseOf (finishTransition s dst) = .check ∧ (finishTransition s dst).modes.running = some w
        ∧ (finishTransition s dst).modes.waiting = none ∧ modeTarget (finishTransition s dst) = w.target)

/-- CHECK (R28, R30, R34, R36, R39, R40): a request that passes goes to DRAIN, and what its target lacks is set to stop; one
that fails leaves the mode as it is and ends with its status; a wake ends the entry to Dormant or Vigil; a request for
the mode that is current ends at once; on the way back to Idle the stops are set. -/
def Obligations.TransitionCheckComplete : Prop :=
  ∀ (s : State) (r : ModeReq), s.modes.running = some r →
    (phaseOf s = .check → entryWoken s = false → (modeOf s = r.target → requestUnlisted s r = true) →
      (checkStatus s r = 0 → ∃ t, exec .transitionCheck s = .next t ∧ phaseOf t = .drain
        ∧ modeOf t = modeOf s ∧ modeTarget t = modeTarget s ∧ t.modes.running = some r
        ∧ t.modes.testDoms = (if r.target = .test then testDomains s else [])
        ∧ (modeWatches r.target (targetWatch s) = false → t.trg.running = false))
      ∧ (checkStatus s r ≠ 0 → ∃ t, exec .transitionCheck s = .next t ∧ modeOf t = modeOf s
        ∧ rd t Obj.MODE_STATE.LAST_STATUS = checkStatus s r % 2 ^ 16
        ∧ (s.modes.waiting = none → phaseOf t = .steady)))
    ∧ (phaseOf s = .check → entryWoken s = true →
      ∃ t, exec .transitionCheck s = .next t ∧ modeOf t = modeOf s ∧ rd t Obj.AON_LAST_WAKE.DURING_ENTRY = 1
        ∧ rd t Obj.MODE_STATE.LAST_STATUS = 0x0013
        ∧ (s.modes.waiting = none → phaseOf t = .steady))
    ∧ (phaseOf s = .check → entryWoken s = false → sameMode s r = true → requestUnlisted s r = false →
      ∃ t, exec .transitionCheck s = .next t ∧ modeOf t = modeOf s
        ∧ rd t Obj.MODE_STATE.COUNT = rd s Obj.MODE_STATE.COUNT ∧ (s.modes.waiting = none → phaseOf t = .steady))
    ∧ (phaseOf s = .aborting → s.modes.abortStep = 1 →
      ∃ t, exec .transitionCheck s = .next t ∧ t.modes.abortStep = 2 ∧ phaseOf t = .aborting
        ∧ (modeWatches (modeTarget s) (targetWatch s) = false → t.trg.running = false))

/-- The phases of a transition follow one another, each when its condition holds: DRAIN to DOWN, DOWN to UP, the
calibration of converters that start, UP to START, START to STEADY in the target, or to PEER-SYNC of an entry to Peer; a
failed transition takes the same steps back to Idle (R30, R35, R36, R38, R40, R96, R236). -/
def Obligations.TransitionPhasesComplete : Prop :=
  (∀ s : State, drained s (modeTarget s) (targetWatch s) = true →
    (phaseOf s = .drain → ∃ t, exec .drainComplete s = .next t ∧ phaseOf t = .down ∧ modeOf t = modeOf s
      ∧ modeTarget t = modeTarget s
      ∧ (modeRings (modeTarget s) (targetWatch s) = false → t.bbl.writing = false))
    ∧ (phaseOf s = .aborting → s.modes.abortStep = 2 → ∃ t, exec .drainComplete s = .next t ∧ t.modes.abortStep = 3
      ∧ phaseOf t = .aborting ∧ (modeRings (modeTarget s) (targetWatch s) = false → t.bbl.writing = false)))
  ∧ (∀ s : State, transitionDown s = true →
    (phaseOf s = .down → ∃ t, exec .downComplete s = .next t ∧ phaseOf t = .up ∧ modeOf t = modeOf s
      ∧ modeTarget t = modeTarget s
      ∧ ((modeTarget s).converts = true → s.modes.convertersOn = false → t.cnv.corrNext = none ∧ t.cnv.corr
          = (if flag s Obj.CNV_CAL_INFO.STORED_VALID && !flag s Obj.MODE_PLAN.COLD_CAL
              && decide ((s.bbl.tj - 2 * toInt 8 (rd s Obj.CNV_CAL_INFO.TJ_STORED)).natAbs ≤ 30)
             then s.cnv.stored else List.replicate 2048 ⟨0, 0, 0⟩)))
    ∧ (phaseOf s = .aborting → s.modes.abortStep = 3 → ∃ t, exec .downComplete s = .next t ∧ t.modes.abortStep = 4
      ∧ phaseOf t = .aborting))
  ∧ (∀ s : State, phaseOf s = .up → (modeTarget s).converts = true →
    s.modes.convertersOn = false → s.modes.calConverged = false →
    (∀ d ∈ domRange 64 80, domOn s d = true ∨ s.pwr.barred.contains d = true) →
    ∃ t, exec .converterCalConverged s = .next t ∧ t.modes.calConverged = true ∧ t.modes.calAt = s.time.rc64
      ∧ t.cnv.stored = t.cnv.corr ∧ t.cnv.corr.length = 2048
      ∧ rd t Obj.CNV_CAL_INFO.STORED_VALID = 1)
  ∧ (∀ s : State, transitionUp s (modeTarget s) (targetWatch s) = true →
    (phaseOf s = .up → ((modeTarget s).converts = true → s.modes.convertersOn = true ∨ s.modes.calConverged = true) →
      ∃ t, exec .upComplete s = .next t ∧ phaseOf t = .start ∧ modeOf t = modeOf s ∧ modeTarget t = modeTarget s
        ∧ rd t Obj.DAH_GEOM.GEOM = (if modeTarget s = .peer then (if cluster16 s then 2 else 1) else 0)
        ∧ rd t Obj.FST_MAP.MAP = targetMap s)
    ∧ (phaseOf s = .aborting → s.modes.abortStep = 4 →
      ∃ t, exec .upComplete s = .next t ∧ modeOf t = modeTarget s
        ∧ rd t Obj.MODE_STATE.LAST_STATUS = s.modes.status % 2 ^ 16))
  ∧ (∀ s : State, phaseOf s = .start → startPoint s (modeTarget s) = true →
    ((modeTarget s ≠ .peer ∨ modeOf s = .peer) →
      ∃ t, exec .transitionStartDone s = .next t ∧ modeOf t = modeTarget s
        ∧ rd t Obj.MODE_STATE.COUNT = (rd s Obj.MODE_STATE.COUNT + 1) % 2 ^ 16
        ∧ (s.modes.waiting = none → phaseOf t = .steady)
        ∧ (modeTarget s = .dormant → t.aon.phase = .waitPme)
        ∧ (modeTarget s = .vigil ∨ modeTarget s = .recovery → t.ctl.ronecUp = false))
    ∧ (modeTarget s = .peer → modeOf s ≠ .peer →
      (rd s Obj.TIM_PPS.FRAME_OK ≠ 0 → peerPortsBad (enterMode s .peer (targetWatch s)) = [] →
        ∃ t, exec .transitionStartDone s = .next t ∧ phaseOf t = .peerSync ∧ modeOf t = modeOf s
          ∧ (peerStage t = 2 ∨ peerStage t = 3))
      ∧ (rd s Obj.TIM_PPS.FRAME_OK = 0 →
        ∃ t, exec .transitionStartDone s = .next t ∧ phaseOf t = .aborting ∧ modeTarget t = .idle
          ∧ peerStage t = 0 ∧ t.modes.status = 0x0011)))

/-- What ends a transition early or a Peer session (R35, R37, R40, R195, R197): the Peer start that times out, a domain
without power-good, a sampling PLL without lock, converters without convergence lead back towards Idle; a Dormant entry
whose `DRAIN_MS` has run out goes on; peer data starts and stops at blocks of the group's count. -/
def Obligations.TransitionEndsComplete : Prop :=
  (∀ s : State, phaseOf s = .peerSync → ∃ t, exec .peerSyncTimeout s = .next t ∧ phaseOf t = .aborting
    ∧ modeTarget t = .idle ∧ t.modes.status = 0x0011 ∧ t.modes.abortStep = 1 ∧ peerStage t = 0)
  ∧ (∀ (d : Fin 394) (s : State), domState s d = 1 → (∀ p ∈ s.pwr.queue, p.dom ≠ d.val) →
    ∃ t, exec (.powerGoodTimeout d) s = .next t ∧ domState t d = 0
      ∧ (phaseOf s ≠ .steady → phaseOf t = .aborting ∧ modeTarget t = .idle ∧ (s.flt.active.length < 1024 → faultActive t 0x1009 0 = true))
      ∧ (phaseOf s = .steady → modeOf t = modeOf s ∧ t.flt = s.flt))
  ∧ (∀ s : State, phaseOf s = .up → s.modes.convertersOn = false → s.modes.calConverged = false →
    (modeOf s ≠ .vigil → (modeTarget s).converts = true ∨ modeTarget s = .vigil →
      ∃ t, exec .pllLockTimeout s = .next t ∧ phaseOf t = .aborting ∧ modeTarget t = .idle ∧ t.modes.status = 0x0011
        ∧ t.modes.abortStep = 1 ∧ (s.flt.active.length < 1024 → faultActive t 0x1009 0 = true))
    ∧ ((modeTarget s).converts = true → ∀ g : Fin 16,
      ∃ t, exec (.converterCalTimeout g) s = .next t ∧ phaseOf t = .aborting ∧ modeTarget t = .idle
        ∧ t.modes.status = 0x0011 ∧ t.modes.abortStep = 1 ∧ (s.flt.active.length < 1024 → faultActive t 0x1009 0 = true)))
  ∧ (∀ s : State, phaseOf s = .drain → modeTarget s = .dormant →
    ∃ t, exec .drainLimitExpired s = .next t ∧ t.modes.drainOver = true ∧ t.dah.dumps = [] ∧ t.dah.toQueue = []
      ∧ t.conc.out = [] ∧ t.conc.ready = [] ∧ t.peer.sends = [] ∧ (∀ f ∈ t.evt.frags, f.state ≠ .transfer)
      ∧ phaseOf t = .drain)
  ∧ (∀ s : State, peerStage s = 3 → s.peer.aligned = true → phaseOf s = .peerSync → 0 ≤ spxDist (gspxNow s) s.peer.goGspx →
    ∃ t, exec .peerStartBlock s = .next t ∧ modeOf t = .peer ∧ peerStage t = 4 ∧ t.dah.started = true
      ∧ rd t Obj.PEER_STATUS.LIVE = (2 ^ memberCount s - 1) % 2 ^ Obj.PEER_STATUS.LIVE.width)
  ∧ (∀ (s : State) (b : Nat), peerStage s = 5 → s.peer.stopAt = some b → 0 ≤ spxDist (gspxNow s) b →
    ∃ t, exec .peerStopBoundary s = .next t ∧ peerStage t = 0 ∧ rd t Obj.PEER_STATUS.LIVE = 0
      ∧ (s.peer.byLeader = true → phaseOf s = .steady → phaseOf t = .check ∧ modeTarget t = .idle))


/-! ### Receiver inputs, Bluebell, converters, trigger engine (chapters 3 to 6) -/

/-- Clamp and range control (R45, R46, R48, R49): a trip begins a clamp event, or goes on with the last one; the release
ends the conduction, one of more than 1 ms raises fault 0x0102; an evaluation makes a new code pending; the 64th deferred
frame forces the change. -/
def Obligations.InputEventsComplete : Prop :=
  (∀ (i : Fin 256) (s : State), (inputOf s i).conducting = false →
    (clampEventStarts s i = true → ∃ t, exec (.clampTrip i) s = .next t ∧ rd t Obj.AFE_STATUS.CLAMP_STICKY i = 1
      ∧ (inputLogicOn s i = true →
          rd t Obj.AFE_STATUS.CLAMP_COUNT i = satAdd 16 (rd s Obj.AFE_STATUS.CLAMP_COUNT i) 1 % 2 ^ 16)
      ∧ (inputLogicOn s i = false → t.flt = s.flt
          ∧ rd t Obj.AFE_STATUS.CLAMP_COUNT i = rd s Obj.AFE_STATUS.CLAMP_COUNT i))
    ∧ (clampEventStarts s i = false → ∃ t, exec (.clampTrip i) s = .next t
      ∧ rd t Obj.AFE_STATUS.CLAMP_COUNT i = rd s Obj.AFE_STATUS.CLAMP_COUNT i ∧ t.flt = s.flt
      ∧ (s.afe.inputs.length = 256 → (inputOf t i).conducting = true)))
  ∧ (∀ (i : Fin 256) (s : State), (inputOf s i).conducting = true →
    (∃ t, exec (.clampRelease i) s = .next t ∧ (inputOf t i).conducting = false
      ∧ (inputOf t i).released = some s.time.rc64)
    ∧ (s.flt.active.length < 1024 → ∃ t, exec (.clampLong i) s = .next t ∧ faultActive t 0x0102 i = true
      ∧ t.afe = s.afe))
  ∧ (∀ (i : Fin 256) (s : State) (c : Nat), cnvOn s = true → lv s Obj.AFE_INPUT.ARC i ≠ 0 → lineState s i = 0 →
    spxNow s % arcLength s = 0 → (arcCode s i).1 = some c → c ≠ rd s Obj.AFE_STATUS.RANGE i →
    ∃ t, exec (.arcEvaluation i) s = .next t ∧ (inputOf t i).pending = some c)
  ∧ (∀ (i : Fin 256) (s : State), (inputOf s i).pending.isSome = true → (inputOf s i).forced = false →
    64 ≤ (inputOf s i).deferred →
    ∃ t, exec (.rangeForced i) s = .next t ∧ (inputOf t i).forced = true
      ∧ rd t Obj.AFE_STATUS.FORCED_COUNT i = satAdd 16 (rd s Obj.AFE_STATUS.FORCED_COUNT i) 1 % 2 ^ 16)

/-- The line detectors (R54, R56, R57): the end of a probe interval stores its class and its time; a collapsed window
counts, and the 15th in a row declares the line of a NORMAL input faulted; a window that is not collapsed ends
RECOVERING once both its runs are long enough. -/
def Obligations.LineDetectorsComplete : Prop :=
  (∀ (i : Fin 256) (r : ProbeReading) (s : State), cnvOn s = true → (inputOf s i).probe.running = true →
    lineState s i ≠ 3 → bit s.afe.sweepMask i = false →
    ∃ t, exec (.probeIntervalEnd i r) s = .next t ∧ rd t Obj.PROBE_RESULT.CLASS i = (classify s i r).1
      ∧ rd t Obj.AFE_STATUS.PROBE_CLASS i = (classify s i r).1
      ∧ rd t Obj.PROBE_RESULT.RESULT_TIME i = ts96Now s % 2 ^ 96
      ∧ rd t Obj.PROBE_RESULT.AMPL_USED i = (inputOf s i).probe.ampl % 2 ^ Obj.PROBE_RESULT.AMPL_USED.width
      ∧ (s.afe.inputs.length = 256 → (inputOf t i).probe.ampl = nextAmpl s i r)
      ∧ (lineState s i = 0 → (classify s i r).1 = 1 ∨ (classify s i r).1 = 2 → lineState t i = 1))
  ∧ (∀ (i : Fin 256) (s : State), cnvOn s = true → lineState s i ≠ 3 → spxNow s % 64 = 0 →
    windowWhole s i = true → windowSkipped s i = false →
    (windowCollapsed s i = true → ∃ t, exec (.rmsWindowEnd i) s = .next t
      ∧ (inputOf t i).collapseRun = (inputOf s i).collapseRun + 1
      ∧ lineState t i = (if lineState s i = 2 ∨ lineState s i = 0 ∧ (inputOf s i).collapseRun = 14 then 1
          else lineState s i))
    ∧ (windowCollapsed s i = false → ∃ t, exec (.rmsWindowEnd i) s = .next t ∧ (inputOf t i).collapseRun = 0
      ∧ lineState t i = (if lineState s i = 2 ∧ 2 ≤ (inputOf s i).okRun ∧ 14 ≤ (inputOf s i).winRun then 0
          else lineState s i)))

/-- What follows the sample clock (R49, R93, R95, R96, R112): a word of converters that run joins the history; a frame
boundary closes its frame; a block boundary latches the counts of each input that ran through the block; an update
prepares the next corrections and leaves a held input as it is; a store keeps the corrections in use. -/
def Obligations.StreamEventsComplete : Prop :=
  (∀ (w : WordIn) (s : State), s.time.off = false → s.time.rc64 % 16 = 0 → 16 ≤ s.time.rc64 → cnvOn s = true →
    ∃ t, exec (.converterWord w) s = .next t ∧ t.cnv.histEnd = s.time.rc64)
  ∧ (∀ s : State, s.time.off = false → s.time.rc64 % 2048 = 0 → cnvOn s = true →
    ∃ t, exec .frameBoundary s = .next t ∧ t.afe.lastFrame = s.time.rc64 / 2048 - 1)
  ∧ (∀ (images : List Nat) (s : State), s.time.off = false → s.time.rc64 % 2097152 = 0 → 0 < s.time.rc64 →
    cnvOn s = true →
    ∃ t, exec (.blockBoundary images) s = .next t ∧ t.cnv.ovr = [] ∧ t.cnv.flagged = [] ∧ t.cnv.samples = []
      ∧ ∀ i : Fin 256, wholeBlock s i = true → rd t Obj.CNV_STATUS.SPX0 i = spxOf (s.time.rc64 - 2097152)
          ∧ rd t Obj.CNV_STATUS.OVR_COUNT i = mapGet s.cnv.ovr i % 2 ^ Obj.CNV_STATUS.OVR_COUNT.width)
  ∧ (∀ (estimator : List Int) (s : State), cnvOn s = true → lv s Obj.CNV_CAL.RUN ≠ 0 →
    lv s Obj.CNV_CAL.UPDATE ≤ s.cnv.blocks →
    ∃ t new, exec (.cnvCalUpdate estimator) s = .next t ∧ t.cnv.corrNext = some new ∧ new.length = 2048 ∧ t.cnv.blocks = 0
      ∧ t.cnv.corr = s.cnv.corr
      ∧ ∀ j < 2048, correctionsHeld s (j / 8) = true → nth new j ⟨0, 0, 0⟩ = nth s.cnv.corr j ⟨0, 0, 0⟩)
  ∧ (∀ s : State, cnvOn s = true →
    ∃ t, exec .cnvCoeffStore s = .next t ∧ t.cnv.stored = s.cnv.corr ∧ rd t Obj.CNV_CAL_INFO.STORED_VALID = 1
      ∧ rd t Obj.CNV_CAL_INFO.STORE_TIME = ts96Now s % 2 ^ 96)

/-- An input whose `ENABLE` is 0 is DISABLED from the next frame boundary on, and shows LINE (R57, R62). -/
def Obligations.DisabledAtFrame : Prop :=
  ∀ (s : State) (m : Nat) (i : Fin 256), rd s Obj.AFE_INPUT.ENABLE i = 0 →
    lineState (afeFrame s m i) i = 3 ∧ rd (afeFrame s m i) Obj.AFE_STATUS.LINE i = 1

/-- The ring memory (R69, R70, R72, R77): at a segment boundary the writer moves on and tags the segment it starts; a
strobe that leaves 16 segments free takes a window, another one is refused and counted; a crossing fires the input's
one-shot. -/
def Obligations.RingMemoryComplete : Prop :=
  (∀ s : State, s.bbl.writing = true → s.time.rc64 % 128 = 0 → s.bbl.segs.length = 64 →
    ∃ t, exec .segmentBoundary s = .next t ∧ t.bbl.curClamp = 0 ∧ t.bbl.curLine = 0
      ∧ (nth t.bbl.segs t.bbl.cur ⟨none, none, 0, 0⟩).tag = some (2 * s.time.rc64))
  ∧ (∀ (s : State) (k : Strobe) (rest : List Strobe), s.trg.strobes = k :: rest → s.bbl.writing = true →
    (freezeFits s = true → ∃ t, exec .freezeStrobe s = .next t ∧ t.trg.strobes = rest
      ∧ t.bbl.windows = s.bbl.windows ++ [newWindow s (2 * k.sample) 0 k.serial 0])
    ∧ (freezeFits s = false → ∃ t, exec .freezeStrobe s = .next t ∧ t.trg.strobes = rest ∧ t.bbl = s.bbl
      ∧ ∀ j < 6, bit k.src j = true → rd t Obj.TRG_COUNTS.REFUSED_WINDOW j
          = (rd s Obj.TRG_COUNTS.REFUSED_WINDOW j + 1) % 2 ^ 32))
  ∧ (∀ (i : Fin 256) (half : Bool) (s : State), s.bbl.writing = true →
    ∃ t, exec (.envelopeCrossing i half) s = .next t
      ∧ mapGet t.bbl.oneShot i = s.time.rc64 + 16 * (lv s Obj.BBL_VIGIL.STRETCH + 1))

/-- The on-demand digitizer converts one window at a time, marks it where its hold time is over or it lacks tables, shows
it when it is read out, and powers down (R79 to R82, R84, R86, R91). -/
def Obligations.DigitizerComplete : Prop :=
  (∀ (s : State) (w : Window), s.bbl.digOn = true → digitizerCut s = false →
    (∀ x ∈ s.bbl.windows, x.converting = false) → nextWindow s = some w → w.credit = true →
    ∃ t x, exec .windowConversionStart s = .next t ∧ t.bbl.windows.find? (fun y => y.id == w.id) = some x
      ∧ x.converting = true ∧ x.uncal = decide (rd s Obj.BBL_CAL_INFO.VALID = 0)
      ∧ (holdTooLong w.tj (s.time.rc64 - w.frozenAt.getD s.time.rc64) = true → x.holdExpired = true
          ∧ rd t Obj.BBL_STATUS.EXPIRED_COUNT
              = satAdd Obj.BBL_STATUS.EXPIRED_COUNT.width (rd s Obj.BBL_STATUS.EXPIRED_COUNT) 1
                  % 2 ^ Obj.BBL_STATUS.EXPIRED_COUNT.width))
  ∧ (∀ (raw : List (List Nat)) (s : State) (w : Window), s.bbl.windows.find? (fun x => x.converting) = some w →
    w.raw.length < w.segs.length → digitizerCut s = false → segmentRoom s w = true →
    let clipped := raw.map (fun r => r.map (fun x => min 4095 x))
    ∃ t x, exec (.segmentConverted raw) s = .next t ∧ t.bbl.windows.find? (fun y => y.id == w.id) = some x
      ∧ (s.bbl.windows.find? (fun y => y.id == w.id) = some w → x.raw = w.raw ++ [clipped]
          ∧ x.saturated = w.saturated + saturatedIn s (nth w.segs w.raw.length 0) clipped))
  ∧ (∀ (s : State) (w : Window), s.bbl.windows.find? (fun x => x.converting) = some w → w.raw.length = w.segs.length →
    ∃ t, exec .windowReadoutDone s = .next t ∧ rd t Obj.BBL_LAST_WINDOW.WINDOW_ID = w.id % 2 ^ 16
      ∧ rd t Obj.BBL_LAST_WINDOW.HOLD = w.hold % 2 ^ 16
      ∧ rd t Obj.BBL_LAST_WINDOW.DEADLINE = w.deadline % 2 ^ Obj.BBL_LAST_WINDOW.DEADLINE.width
      ∧ rd t Obj.BBL_LAST_WINDOW.HOLD_EXPIRED = b2n w.holdExpired
      ∧ rd t Obj.BBL_LAST_WINDOW.UNCAL = b2n w.uncal)
  ∧ (∀ s : State, s.bbl.digOn = true → rd s Obj.BBL_DIG.KEEP_WARM = 0 → s.bbl.windows = [] → modeOf s ≠ .vigil →
    ∃ t, exec .digitizerIdleTimeout s = .next t ∧ t.bbl.digOn = false)

/-- Hold time and temperature (R85, R88, R89, R424): the capture wake set becomes ready and, once it has lingered, powers
down, as does a control pair that was up alone; the 1 ms reading is held, and in Vigil it enters or leaves hot standby;
a stale calibration raises fault 0x0204. -/
def Obligations.CaptureWakeSetComplete : Prop :=
  (∀ s : State, s.bbl.wake = .requested → upsDone s 1 = true →
    (∀ d ∈ wakeSet (rd s Obj.FST_MAP.MAP), domOn s d = true ∨ s.pwr.barred.contains d = true) →
    ∃ t, exec .captureWakeSetReady s = .next t ∧ t.bbl.wake = .up ∧ t.bbl.digOn = true ∧ t.ctl.ronecUp = true)
  ∧ (∀ s : State, s.bbl.windows = [] → rd s Obj.BBL_STATUS.HOT = 0 → modeOf s = .vigil → phaseOf s = .steady →
    (s.bbl.wake = .up → ∃ t, exec .captureLingerExpired s = .next t ∧ t.bbl.wake = .down ∧ t.bbl.digOn = false
      ∧ t.ctl.ronecUp = false)
    ∧ (s.bbl.wake = .down → s.ctl.ronecUp = true →
      ∃ t, exec .captureLingerExpired s = .next t ∧ t.ctl.ronecUp = false ∧ t.bbl = s.bbl))
  ∧ (∀ (tj : Int) (s : State), ∃ t, exec (.tjSensorRead tj) s = .next t ∧ t.bbl.tj = tj
    ∧ (modeOf s = .vigil → rd s Obj.BBL_STATUS.HOT = 0 → (rd s Obj.BBL_STATUS.T_VMAX : Int) < tj + 80 →
        rd t Obj.BBL_STATUS.HOT = 1)
    ∧ (modeOf s = .vigil → rd s Obj.BBL_STATUS.HOT ≠ 0 → tj + 80 ≤ (rd s Obj.BBL_STATUS.T_VMAX : Int) - 6 →
        rd t Obj.BBL_STATUS.HOT = 0))
  ∧ (∀ s : State, rd s Obj.BBL_CAL_INFO.VALID ≠ 0 →
    20 < (s.bbl.tj - 2 * toInt 8 (rd s Obj.BBL_CAL_INFO.TJ_CAL)).natAbs → s.flt.active.length < 1024 →
    ∃ t, exec .calStale s = .next t ∧ faultActive t 0x0204 0 = true ∧ t.bbl = s.bbl)

/-- The trigger engine's events (R122, R127, R128, R131, R134, R136, R335): TRIGOUT ends its width; an edge of TRIGIN is
captured and, at the selected polarity, gives a condition, a short level raises fault 0x0506; a message gives a
condition; a hold-off ends; the oldest record leaves; the bucket gains a token that is due; a second's dead time is
judged. -/
def Obligations.TriggerEventsComplete : Prop :=
  (∀ s : State, s.trg.outActive = true → s.trg.outEnd ≤ s.time.rc64 →
    ∃ t, exec .trigoutWidthEnd s = .next t ∧ t.trg.outActive = false
      ∧ t.out = .pin 0 (decide (lv s Obj.TRG_IO.TRIGOUT_POL ≠ 0)) :: s.out)
  ∧ (∀ (level : Bool) (s : State), s.time.off = false →
    ∃ t, exec (.triginEdge level true) s = .next t ∧ rd t Obj.TIM_CAPTURE.LEVEL = b2n level
      ∧ rd t Obj.TIM_CAPTURE.RC64 = s.time.rc64 % 2 ^ 64
      ∧ rd t Obj.TIM_CAPTURE.EDGES = (rd s Obj.TIM_CAPTURE.EDGES + 1) % 2 ^ Obj.TIM_CAPTURE.EDGES.width
      ∧ (level = decide (lv s Obj.TRG_IO.TRIGIN_EDGE = 0) → sourceOn s 1 = true → s.trg.running = true →
          t.trg.known = s.trg.known ++ [plainCondition (s.time.rc64 - lv s Obj.TRG_IO.TRIGIN_OFFSET) 1]))
  ∧ (∀ (level : Bool) (s : State), s.flt.active.length < 1024 →
    ∃ t, exec (.triginEdge level false) s = .next t ∧ faultActive t 0x0506 0 = true ∧ t.trg = s.trg)
  ∧ (∀ (port : Fin 4) (m : TriggerMessage) (s : State), bit (rd s Obj.TRG_AXREL.RECV_PORTS) port = true →
    sourceOn s 4 = true → s.trg.running = true →
    ∃ t c, exec (.axrelTriggerMessage port m) s = .next t ∧ t.trg.known = s.trg.known ++ [c] ∧ c.source = 4
      ∧ c.originSerial = m.serial ∧ c.originTime = m.time ∧ (s.time.rc64 : Int) - 320 ≤ c.n ∧ c.n ≤ s.time.rc64)
  ∧ (∀ (s : State) (r : TrigRecord), s.trg.records.getLast? = some r → r.holdEnd ≤ s.time.rc64 →
    rd s Obj.TRG_STATUS.OPEN ≠ 0 →
    ∃ t, exec .holdoffEnd s = .next t ∧ rd t Obj.TRG_STATUS.OPEN = 0 ∧ t.trg = s.trg)
  ∧ (∀ (s : State) (r : TrigRecord) (rest : List TrigRecord), s.trg.records = r :: rest →
    r.holdEnd + 320 ≤ s.time.rc64 → recordRoom s = true →
    ∃ t, exec .triggerRecordRelease s = .next t ∧ t.trg.records = rest ∧ t.trg.queue = s.trg.queue ++ [r])
  ∧ (∀ s : State, s.trg.running = true →
    (16000000 ≤ tokenPartNow s (rd s Obj.TRG_BUCKET.RATE) →
      ∃ t, exec .bucketToken s = .next t ∧ t.trg.tokenAt = s.time.rc64
        ∧ rd t Obj.TRG_STATUS.TOKENS
            = min (rd s Obj.TRG_BUCKET.DEPTH) (rd s Obj.TRG_STATUS.TOKENS + 1) % 2 ^ Obj.TRG_STATUS.TOKENS.width)
    ∧ ∃ t, exec .trigBusy s = .next t ∧ t.trg.lastLive = rd s Obj.TRG_STATUS.LIVE
        ∧ t.trg.lastDead = (rd s Obj.TRG_STATUS.DEAD_WINDOW + rd s Obj.TRG_STATUS.DEAD_BUCKET) % 2 ^ 48)

/-- A set of conditions that is accepted opens one record with the next serial, and spends a freeze credit and, unless
it has priority, a token (R124, R126, R132). -/
def Obligations.AcceptedSetSpends : Prop :=
  ∀ (s : State) (cs : List Condition) (mask n : Nat) (prio : Bool),
    ∃ r, (acceptSet s cs mask prio n).trg.records = s.trg.records ++ [r] ∧ r.serial = (s.evt.serial + 1) % 2 ^ 40
      ∧ r.tSample = n ∧ r.src = mask ∧ (acceptSet s cs mask prio n).evt.serial = r.serial
      ∧ rd (acceptSet s cs mask prio n) Obj.TRG_STATUS.CREDITS
          = (rd s Obj.TRG_STATUS.CREDITS - 1) % 2 ^ Obj.TRG_STATUS.CREDITS.width
      ∧ rd (acceptSet s cs mask prio n) Obj.TRG_STATUS.TOKENS
          = (if prio then rd s Obj.TRG_STATUS.TOKENS else rd s Obj.TRG_STATUS.TOKENS - 1)
              % 2 ^ Obj.TRG_STATUS.TOKENS.width
      ∧ rd (acceptSet s cs mask prio n) Obj.TRG_STATUS.OPEN = 1


/-- The reduced sample: 2 × ⌊x ÷ 8⌋ + 1 of an 8-bit sample, from −31 to +31 and symmetric about zero; 0 where the sample
carries SETTLE or LINE, its value where it carries CLAMP or OVR (R117). -/
def Obligations.ReducedSample : Prop :=
  ∀ (x : InputWord) (j : Nat), -128 ≤ nth x.samples j 0 → nth x.samples j 0 ≤ 127 →
    ((x.line = true ∨ bit x.settle j = true) → reduced x j = 0)
    ∧ (x.line = false → bit x.settle j = false →
      reduced x j = 2 * (nth x.samples j 0 / 8) + 1 ∧ -31 ≤ reduced x j ∧ reduced x j ≤ 31
        ∧ ∀ y : InputWord, nth y.samples j 0 = -1 - nth x.samples j 0 → y.line = false → bit y.settle j = false →
          reduced y j = -reduced x j)

/-- The beam power is the exact sliding sum of the squares of W beam sums, W being 4, 8, 16 or 32, and at most
7,872,512 where the reduced samples lie within ±31 (R119). -/
def Obligations.BeamPowerIsExact : Prop :=
  ∀ (s : State) (g b n : Nat), lv s Obj.TRG_GROUP.WIN g < 4 → beamW s g ≤ n + 1 →
    (beamW s g = 4 ∨ beamW s g = 8 ∨ beamW s g = 16 ∨ beamW s g = 32)
    ∧ (beamPower s g b n : Int) = ∑ m ∈ Finset.Icc (n + 1 - beamW s g) n, beamSum s g b m ^ 2
    ∧ ((∀ i m, (reducedAt s i m).natAbs ≤ 31) → beamPower s g b n ≤ 7872512)

/-! ### Channelizer, event fragments, Dahlia (chapters 5, 7 and 8) -/

/-- A spectrum whose samples have arrived is formed once and the channelizer moves on to the next; one that still waits
when the spectrum after the next has completed is dropped: every input that was valid in it counts it for its path
(R98, R107, R108). -/
def Obligations.SpectraComplete : Prop :=
  (∀ (upsets : List (Nat × Bool)) (s : State), s.chz.running = true → 2048 * (s.chz.nextN + 1) ≤ s.cnv.histEnd →
    ∃ t, exec (.spectrumComplete upsets) s = .next t ∧ t.chz.nextN = s.chz.nextN + 1)
  ∧ (∀ (sunPath : Bool) (s : State) (p : Spectrum) (rest : List Spectrum),
    (if sunPath then s.chz.wait8 else s.chz.wait4) = p :: rest → p.n + 2 < s.chz.nextN →
    ∃ t, exec (.spectrumDeadlineMiss sunPath) s = .next t
      ∧ rd t Obj.CHZ_STATUS.DL_TOTAL = (rd s Obj.CHZ_STATUS.DL_TOTAL + 1) % 2 ^ 32
      ∧ ∀ i < 256, mapGet (if sunPath then t.chz.invDl8 else t.chz.invDl4) i
          = mapGet (if sunPath then s.chz.invDl8 else s.chz.invDl4) i
            + b2n (bit (if sunPath then p.valid8 else p.valid4) i))

/-- A fragment is reserved, fed, coded and built (R138, R148, R257 to R260, R146, R270): the reservation of a frozen
window joins the ring at its place and gives the window its credit; the next segment joins the fragment; a coded block
joins it too and is counted; `VERIFY_TEST` acts in Test alone; the fragment whose blocks are all coded is written to its
place and to no other. -/
def Obligations.FragmentBuildComplete : Prop :=
  (∀ (s s1 : State) (w : Window) (r : TrigRecord × State), nextToReserve s = some w → takeRecordOf s w = some r →
    let len := lMax (4 * (w.pAct + w.q)) (rd s Obj.EVT_CTRL.CODE)
    let off := if s.evt.head + len ≤ evtSize s then s.evt.head else 0
    makeRoom (s.evt.frags.length + 1) s off len = (true, s1) →
    ∃ t f held x, exec .fragmentReserve s = .next t ∧ t.evt.frags = held ++ [f] ∧ f.serial = r.1.serial
      ∧ f.state = .building ∧ f.off = off ∧ f.size = len ∧ t.evt.head = off + len
      ∧ t.bbl.windows.find? (fun y => y.id == w.id) = some x ∧ x.credit = true)
  ∧ (∀ (s : State) (f : Fragment) (w : Window), eventCut s = false → s.evt.feed.any (jobReady s) = false →
    s.evt.frags.find? (fun f => f.state == .building && f.window.isNone) = some f → fragOf s f.serial = some f →
    (s.bbl.windows ++ s.bbl.leaving).find? (fun w => w.id == f.windowId) = some w → f.cells.length < w.raw.length →
    ∃ t g, exec .segmentToEvent s = .next t ∧ fragOf t f.serial = some g ∧ g.cells.length = f.cells.length + 1
      ∧ g.window = (if f.cells.length + 1 = w.segs.length then some w else none) ∧ t.mem = s.mem)
  ∧ (∀ (fails : Bool) (s : State) (job : CoderJob) (rest : List CoderJob) (f : Fragment), domCycling s 337 = false →
    queueRoom s 7 = true → (∀ d ∈ domRange 93 94, domOn s d = true) → s.cmp.coder = job :: rest →
    fragOf s job.serial = some f →
    ∃ t g b, exec (.frBlockCoded fails) s = .next t ∧ fragOf t job.serial = some g
      ∧ g.blocks = f.blocks ++ [(64 * job.input + job.block, b, fails || s.cmp.failNext || s.mov.badBlock)]
      ∧ g.toCode = f.toCode - 1 ∧ t.cmp.failNext = false
      ∧ t.mem = memWrite s.mem (evtAddr s (blockPlace f job.input job.block)) b
      ∧ rd t Obj.CMP_STATUS.FR_BLOCKS = (rd s Obj.CMP_STATUS.FR_BLOCKS + 1) % 2 ^ 32
      ∧ (fails = true → b = voidBlock f.code ∧ rd t Obj.CMP_STATUS.FR_VOID
          = (rd s Obj.CMP_STATUS.FR_VOID + 1) % 2 ^ Obj.CMP_STATUS.FR_VOID.width))
  ∧ (∀ s : State, modeOf s = .test → ∃ t, exec .verifyTest s = .next t ∧ t.cmp.failNext = true)
  ∧ (∀ s : State, modeOf s ≠ .test → exec .verifyTest s = .next s)
  ∧ (∀ (s : State) (f : Fragment) (w : Window), eventCut s = false →
    s.evt.frags.find? (fun f => f.state == .building && f.window.isSome && f.toCode == 0) = some f →
    f.window = some w →
    ∃ t, exec .fragmentBuilt s = .next t
      ∧ rd t Obj.EVT_STATUS.BUILT = (rd s Obj.EVT_STATUS.BUILT + 1) % 2 ^ 32
      ∧ t.mem = memWrite s.mem (evtAddr s f.off) (fragmentBytes s f w).1
      ∧ (fragOf s f.serial = some f → ∃ g, fragOf t f.serial = some g ∧ g.state = .pending
          ∧ g.bytes = (fragmentBytes s f w).1)
      ∧ ∀ a, (a < evtAddr s f.off ∨ evtAddr s f.off + (fragmentBytes s f w).1.length ≤ a) →
          memGet t.mem a = memGet s.mem a)

/-- A built fragment is sent, announced, offered again, and released by its reply (R150, R151, R152); a request in mode 2
is counted as a protocol error, one for a serial that is not held is answered GONE. -/
def Obligations.FragmentDeliveryComplete : Prop :=
  (∀ (serial : Nat) (s : State) (f : Fragment), fragOf s serial = some f → f.state = .pending → modeOf s ≠ .vigil →
    firstOfItsKind s f = true → destinationReady s f = true →
    (f.ship.mode < 3 → ∃ t g, exec (.fragmentSend serial) s = .next t ∧ fragOf t serial = some g ∧ g.state = .transfer)
    ∧ (f.ship.mode = 3 →
        ∃ t g, exec (.fragmentAnnounce serial) s = .next t ∧ fragOf t serial = some g ∧ g.state = .offered))
  ∧ (∀ (serial : Nat) (s : State) (f : Fragment), fragOf s serial = some f → f.state = .transfer →
    (f.ship.mode < 2 → (ringOf s f.ship.ring).queue.any (fun r => r.src == .fragment serial) = false →
      ∃ t, exec (.fragmentTransferDone serial) s = .next t
        ∧ rd t Obj.EVT_STATUS.DELIVERED = (rd s Obj.EVT_STATUS.DELIVERED + 1) % 2 ^ 32)
    ∧ (2 ≤ f.ship.mode → f.rejected = false →
      ∃ t g, exec (.fragmentTransferDone serial) s = .next t ∧ fragOf t serial = some g ∧ g.state = .offered)
    ∧ (2 ≤ f.ship.mode → f.rejected = true →
      ∃ t, exec (.fragmentTransferDone serial) s = .next t
        ∧ rd t Obj.EVT_STATUS.REJECTED = (rd s Obj.EVT_STATUS.REJECTED + 1) % 2 ^ 32))
  ∧ (∀ (serial : Nat) (s : State) (f : Fragment), fragOf s serial = some f → f.state = .offered →
    ∃ t g, exec (.fragmentOfferTimer serial) s = .next t ∧ fragOf t serial = some g ∧ g.offers = f.offers + 1)
  ∧ (∀ (serial : Nat) (s : State) (f : Fragment), fragOf s serial = some f → f.state = .offered → 2 ≤ f.ship.mode →
    (∃ t, exec (.replyAccept serial) s = .next t
      ∧ rd t Obj.EVT_STATUS.DELIVERED = (rd s Obj.EVT_STATUS.DELIVERED + 1) % 2 ^ 32)
    ∧ (∃ t, exec (.replyReject serial) s = .next t
      ∧ rd t Obj.EVT_STATUS.REJECTED = (rd s Obj.EVT_STATUS.REJECTED + 1) % 2 ^ 32))
  ∧ (∀ (serial globalId : Nat) (s : State) (f : Fragment), fragOf s serial = some f → f.state = .offered →
    f.ship.mode = 3 →
    ∃ t g, exec (.replyRequest serial globalId) s = .next t ∧ fragOf t serial = some g ∧ g.state = .transfer
      ∧ g.bytes = withGlobalId f.bytes (globalId % 2 ^ 48)
      ∧ t.mem = memWrite s.mem (evtAddr s f.off) (withGlobalId f.bytes (globalId % 2 ^ 48))
      ∧ ∀ a, (a < evtAddr s f.off ∨ evtAddr s f.off + (withGlobalId f.bytes (globalId % 2 ^ 48)).length ≤ a) →
          memGet t.mem a = memGet s.mem a)
  ∧ (∀ (serial globalId : Nat) (s : State) (f : Fragment), heldFrag s serial = some f → f.ship.mode = 2 →
    ∃ t, exec (.replyRequest serial globalId) s = .next t ∧ t.evt.badRequests = s.evt.badRequests + 1 ∧ t.mem = s.mem)
  ∧ (∀ (serial globalId : Nat) (s : State), heldFrag s serial = none →
    ∃ t, exec (.replyRequest serial globalId) s = .next t
      ∧ rd t Obj.EVT_STATUS.GONE = (rd s Obj.EVT_STATUS.GONE + 1) % 2 ^ 32 ∧ t.mem = s.mem)

/-- Integrations start and stop at block boundaries: a start is held for the next one, the sequence joins those that run
once the pipeline reaches its boundary, the closing pass and its end follow a stop (R165, R167, R168, R184). -/
def Obligations.IntegrationsComplete : Prop :=
  (∀ s : State, startStatus s = 0 →
    ∃ t, exec .startNow s = .next t ∧ t.dah.next = some (newSeq s (nextBlock s)) ∧ t.dah.seqs = s.dah.seqs
      ∧ rd t Obj.DAH_STATUS.PENDING = 0)
  ∧ (∀ (s : State) (q : DahSeq), s.dah.next = some q → s.dah.started = true → s.dah.stopAt = none →
    q.start ≤ s.time.rc64 / 2048 + 3 →
    ∃ t, exec .integrationStart s = .next t ∧ t.dah.seqs = s.dah.seqs ++ [q] ∧ t.dah.next = none
      ∧ rd t Obj.DAH_STATUS.RUNNING = 1 ∧ rd t Obj.DAH_STATUS.INT_SEQ = 0
      ∧ rd t Obj.DAH_STATUS.SEQ_SPX = toGroupSpx s q.start % 2 ^ 32)
  ∧ (∀ (s : State) (stop : Nat) (q : DahSeq), s.dah.stopAt = some stop → dahCur s = some q →
    stop ≤ s.dah.expect → s.dah.closing = false →
    ∃ t, exec .integrationStopBoundary s = .next t ∧ t.dah.closing = true ∧ t.dah.seqs = s.dah.seqs)
  ∧ (∀ s : State, s.dah.closing = true → s.dah.toQueue = [] →
    ∃ t, exec .closingPassDone s = .next t ∧ t.dah.seqs = [] ∧ t.dah.stopAt = none ∧ t.dah.closing = false
      ∧ rd t Obj.DAH_STATUS.RUNNING = 0)

/-- Groups and blocks of spectra in Dahlia: a group moves it on by 64 spectra, a missing one is counted, a late block is
discarded whole, a wait for the dump queue is timed and beyond 10 µs noted (R158, R175 to R177, R183). -/
def Obligations.DahliaGroupsComplete : Prop :=
  (∀ (upsets : DahliaUpsets) (s : State), s.dah.started = true → s.dah.toQueue = [] →
    waitingN0 s = some s.dah.expect → (pastStop s s.dah.expect = false ∨ startWaits s s.dah.expect = false) →
    ∃ t, exec (.dahliaGroup upsets) s = .next t ∧ t.dah.expect = s.dah.expect + 64)
  ∧ (∀ s : State, s.dah.started = true → s.dah.toQueue = [] → groupGone s = true → waitingN0 s ≠ some s.dah.expect →
    (pastStop s s.dah.expect = false ∨ startWaits s s.dah.expect = false) →
    ∃ t, exec .dahliaGroupMissing s = .next t ∧ t.dah.expect = s.dah.expect + 64
      ∧ rd t Obj.DAH_STATUS.GROUPS_MISSING
          = (rd s Obj.DAH_STATUS.GROUPS_MISSING + 1) % 2 ^ Obj.DAH_STATUS.GROUPS_MISSING.width)
  ∧ (∀ s : State, s.dah.started = true → admittedLate s s.dah.expect = true →
    ∃ t, exec .dahliaBlockDiscard s = .next t ∧ t.dah.dropBlock = some (blockFirst s s.dah.expect)
      ∧ t.dah.discards = s.dah.discards ++ [blockFirst s s.dah.expect]
      ∧ rd t Obj.DAH_STATUS.BLOCKS_DISCARDED
          = (rd s Obj.DAH_STATUS.BLOCKS_DISCARDED + 1) % 2 ^ Obj.DAH_STATUS.BLOCKS_DISCARDED.width)
  ∧ (∀ (us : Nat) (s : State), s.dah.toQueue ≠ [] →
    ∃ t, exec (.dumpWait us) s = .next t ∧ (10 < us → t.dah.waited = true) ∧ (us ≤ 10 → t.dah = s.dah)
      ∧ rd t Obj.DAH_STATUS.DUMP_WAIT_US
          = (rd s Obj.DAH_STATUS.DUMP_WAIT_US + us) % 2 ^ Obj.DAH_STATUS.DUMP_WAIT_US.width)


/-! ### Peer, Concentrate, Sunflower (chapters 9 and 10) -/

/-- The messages of group synchronization (R194 to R197): READY is repeated, held by the leader, noted as a newcomer's by
a member that runs, and one that disagrees raises fault 0x0803; GO fixes the second and the block, fails the entry where
its second has passed, and lets a running member's newcomers back from its block on; STOP and LEAVE set their boundaries,
and a STOP sends one that has not begun to Idle. -/
def Obligations.GroupMessagesComplete : Prop :=
  (∀ s : State, peerStage s = 2 →
    ∃ t, exec .peerReadyTimer s = .next t ∧ modeOf t = modeOf s
      ∧ (memberNo s = 0 → t.peer.readies.any (fun r => r.member == 0) = true)
      ∧ (memberNo s ≠ 0 → peerStage t = 2 ∧ t.peer.readies = s.peer.readies))
  ∧ (∀ (l : Fin 16) (m : GroupMessage) (s : State),
    (memberNo s = 0 → 2 ≤ peerStage s → peerStage s ≤ 4 →
      ∃ t, exec (.groupReady l m) s = .next t ∧ t.peer.readies.any (fun r => r.member == m.member % 16) = true
        ∧ (readyAgrees s ⟨m.member % 16, m.geom, m.kFirst, m.frameOk⟩ = false → s.flt.active.length < 1024 →
            faultActive t 0x0803 (m.member % 16) = true ∧ peerStage t = peerStage s))
    ∧ (memberNo s ≠ 0 → peerStage s = 4 →
      ∃ t, exec (.groupReady l m) s = .next t ∧ bit t.peer.newcomers (m.member % 16) = true ∧ peerStage t = 4))
  ∧ (∀ (l : Fin 16) (m : GroupMessage) (s : State),
    (peerStage s = 2 → s.time.civil < m.sec * nsSecond →
      ∃ t, exec (.groupGo l m) s = .next t ∧ peerStage t = 3 ∧ t.peer.goSec = m.sec
        ∧ t.peer.goGspx = m.gspx % 2 ^ 32)
    ∧ (peerStage s = 2 → m.sec * nsSecond ≤ s.time.civil →
      ∃ t, exec (.groupGo l m) s = .next t ∧ phaseOf t = .aborting ∧ modeTarget t = .idle)
    ∧ (peerStage s = 4 →
      ∃ t, exec (.groupGo l m) s = .next t ∧ t.peer.newcomers = 0
        ∧ ∀ j < 16, bit s.peer.newcomers j = true → mapGet t.peer.rejoin j = m.gspx % 2 ^ 32 + 1))
  ∧ (∀ (l : Fin 16) (m : GroupMessage) (s : State),
    (peerStage s = 4 → ∃ t, exec (.groupStop l m) s = .next t ∧ peerStage t = 5
      ∧ t.peer.stopAt = some (m.gspx % 2 ^ 32) ∧ t.peer.byLeader = true)
    ∧ (peerStage s = 2 ∨ peerStage s = 3 → ∃ t, exec (.groupStop l m) s = .next t ∧ peerStage t = 0
      ∧ phaseOf t = .aborting ∧ modeTarget t = .idle))
  ∧ (∀ (l : Fin 16) (m : GroupMessage) (s : State), 4 ≤ peerStage s →
    ∃ t, exec (.groupLeave l m) s = .next t ∧ mapGet t.peer.left (m.member % 16) = m.gspx % 2 ^ 32 + 1)

/-- Peer data: packets are counted as received or late, and one for another member waits while its port has no place;
buffers close in order, packets that grow old are dropped, a silent member is lost (R198 to R203). -/
def Obligations.PeerDataComplete : Prop :=
  (∀ (l : Fin 16) (k : PeerPacket) (s : State), k.dst % 16 = memberNo s → peerDataAt s (k.gspx % 2 ^ 32) = true →
    memberCounts s (k.src % 16) (k.gspx % 2 ^ 32) = true →
    ∃ t, exec (.peerPacket l k) s = .next t ∧ mapGet t.peer.heard (k.src % 16) = k.gspx % 2 ^ 32
      ∧ (0 ≤ spxDist (groupOf (k.gspx % 2 ^ 32)) s.peer.nextClose →
          s.peer.buffers.any (fun b => b.g0 == groupOf (k.gspx % 2 ^ 32)) = true →
          rd t Obj.PEER_MEMBER.RECEIVED (k.src % 16)
            = (rd s Obj.PEER_MEMBER.RECEIVED (k.src % 16) + 1) % 2 ^ Obj.PEER_MEMBER.RECEIVED.width)
      ∧ (spxDist (groupOf (k.gspx % 2 ^ 32)) s.peer.nextClose < 0 →
          rd t Obj.PEER_MEMBER.LATE (k.src % 16)
            = (rd s Obj.PEER_MEMBER.LATE (k.src % 16) + 1) % 2 ^ Obj.PEER_MEMBER.LATE.width))
  ∧ (∀ (l : Fin 16) (k : PeerPacket) (s : State), k.dst % 16 ≠ memberNo s →
    32 ≤ sendsFor s (packetRoute s (k.gspx % 2 ^ 32) (some (l.val / 4)) (k.dst % 16)) →
    exec (.peerPacket l k) s = .next s)
  ∧ (∀ s : State, peerDataAt s s.peer.nextClose = true → 0 < s.chz.nextN →
    127 ≤ spxDist (toGroupSpx s (s.chz.nextN - 1)) s.peer.nextClose →
    ∃ t, exec .peerBufferClose s = .next t ∧ t.peer.nextClose = (s.peer.nextClose + 64) % 2 ^ 32
      ∧ t.peer.full = s.peer.full ++ s.peer.buffers.filter (fun b => b.g0 == s.peer.nextClose))
  ∧ (∀ (s : State) (r : PeerSend × List PeerSend), takeFirst (fun x : PeerSend =>
      decide (0 < s.chz.nextN) && decide (64 ≤ spxDist (toGroupSpx s (s.chz.nextN - 1)) x.gspx)) s.peer.sends = some r →
    ∃ t, exec .peerSendAgeDiscard s = .next t ∧ (s.peer.input = [] → t.peer.sends = r.2)
      ∧ rd t Obj.PEER_MEMBER.SEND_DROPPED r.1.dst
          = (rd s Obj.PEER_MEMBER.SEND_DROPPED r.1.dst + 1) % 2 ^ Obj.PEER_MEMBER.SEND_DROPPED.width)
  ∧ (∀ (m : Fin 16) (s : State), peerStage s = 4 → m.val ≠ memberNo s → m.val < memberCount s →
    memberLive s m = true → mapGet s.peer.left m = 0 → 1024 ≤ spxDist (gspxNow s) (mapGet s.peer.heard m) →
    ∃ t, exec (.peerMemberLost m) s = .next t ∧ memberLive t m = false
      ∧ (s.flt.active.length < 1024 → faultActive t 0x0806 m = true))

/-- The concentrator (R204 to R211): an arrival that matches nothing opens a context while one is free and the mode takes
new events, and one that matches a closed event that no longer fetches is counted late; the context whose build time ends
first closes, and level 3 accepts or rejects it; a fetch time that ends, or a fragment that is gone, leaves its parts
missing; an event in interferometry is dropped by XCORR, goes out, or waits for the event queue. -/
def Obligations.ConcentratorComplete : Prop :=
  (∀ (l : Fin 16) (a : Arrival) (s : State) (c : Instr),
    (c = .concFragmentArrival l a ∨ c = .concAnnouncementArrival l a) →
    modeOf s = .concentrate → fetchingOf s a = none → joinWhich s a = none →
    (∀ e, closedMatch s a = some e → stillFetching s e = none →
      ∃ t, exec c s = .next t
        ∧ rd t Obj.PEER_CONC_STATUS.LATE = (rd s Obj.PEER_CONC_STATUS.LATE + 1) % 2 ^ Obj.PEER_CONC_STATUS.LATE.width)
    ∧ (closedMatch s a = none → eventsOpen s = true → s.conc.opened.length < 8192 → bit a.time 0 = true →
      (∃ m < 16, bit (rd s Obj.PEER_CONC.FRONT_MASK) m = true ∧ m ≠ a.chip % 16) →
      ∃ t d, exec c s = .next t ∧ t.conc.opened = s.conc.opened ++ [d] ∧ d.timeFirst = a.time
        ∧ d.openedAt = s.time.rc64 ∧ d.parts.length = 1)
    ∧ (closedMatch s a = none → eventsOpen s = true → 8192 ≤ s.conc.opened.length →
      ∃ t, exec c s = .next t ∧ t.conc = s.conc
        ∧ rd t Obj.PEER_CONC_STATUS.CONTEXT_FULL
            = (rd s Obj.PEER_CONC_STATUS.CONTEXT_FULL + 1) % 2 ^ Obj.PEER_CONC_STATUS.CONTEXT_FULL.width))
  ∧ (∀ (s : State) (k : Nat) (c : EventContext),
    firstDue s .building (fun c => c.openedAt + 1600 * c.get Obj.PEER_CONC.BUILD_US) = some k →
    s.conc.opened[k]? = some c →
    ∃ t e, exec .buildTimeout s = .next t ∧ t.conc.closed = remember s.conc.closed e ∧ e.timeFirst = c.timeFirst
      ∧ e.accepted = decide (l3Passed c = c.get Obj.PEER_L3.ENABLE % 8)
      ∧ (e.accepted = true → rd t Obj.PEER_CONC_STATUS.ACCEPTED
          = (rd s Obj.PEER_CONC_STATUS.ACCEPTED + 1) % 2 ^ Obj.PEER_CONC_STATUS.ACCEPTED.width)
      ∧ (e.accepted = false → rd t Obj.PEER_CONC_STATUS.REJECTED
          = (rd s Obj.PEER_CONC_STATUS.REJECTED + 1) % 2 ^ Obj.PEER_CONC_STATUS.REJECTED.width))
  ∧ (∀ (s : State) (k : Nat) (c : EventContext),
    firstDue s .fetching (fun c => c.openedAt + 1600000 * c.get Obj.PEER_CONC.FETCH_MS) = some k →
    s.conc.opened[k]? = some c →
    let c' : EventContext :=
      { c with parts := c.parts.map (fun q => if q.bytes.isNone then { q with missing := true } else q) }
    (c.get Obj.PEER_INTF.MODE ≠ 0 →
      ∃ t, exec .fetchTimeout s = .next t ∧ t.conc.opened[k]? = some { c' with phase := .interfering })
    ∧ (c.get Obj.PEER_INTF.MODE = 0 →
      ∃ u, exec .fetchTimeout s = .next (deliverContext u k) ∧ u.conc.opened[k]? = some c'))
  ∧ (∀ (l : Fin 16) (chip serial : Nat) (s : State) (k : Nat) (c : EventContext),
    s.conc.opened.findIdx? (fun c => c.phase == .fetching
      && c.parts.any (fun p => p.chip == chip % 16 && p.serial == serial && p.bytes.isNone)) = some k →
    s.conc.opened[k]? = some c →
    let c' : EventContext :=
      { c with parts := c.parts.map (fun q =>
          if (q.chip == chip % 16 && q.serial == serial) && q.bytes.isNone then { q with missing := true } else q) }
    (c'.parts.all (fun p => p.bytes.isSome || p.missing) = false →
      ∃ t, exec (.concGone l chip serial) s = .next t ∧ t.conc.opened[k]? = some c')
    ∧ (c'.parts.all (fun p => p.bytes.isSome || p.missing) = true → c.get Obj.PEER_INTF.MODE ≠ 0 →
      ∃ t, exec (.concGone l chip serial) s = .next t ∧ t.conc.opened[k]? = some { c' with phase := .interfering }))
  ∧ (∀ (s : State) (k : Nat) (c : EventContext), firstDue s .interfering (fun c => c.openedAt) = some k →
    s.conc.opened[k]? = some c →
    (xcorrDrops c = true → ∃ t, exec .interferometryDone s = .next t ∧ t.conc.opened = s.conc.opened.eraseIdx k
      ∧ rd t Obj.PEER_CONC_STATUS.XCORR_DROPPED
          = (rd s Obj.PEER_CONC_STATUS.XCORR_DROPPED + 1) % 2 ^ Obj.PEER_CONC_STATUS.XCORR_DROPPED.width)
    ∧ (xcorrDrops c = false → eventRoom s = true → s.conc.ready = [] → (∀ d ∈ s.conc.opened, d.phase ≠ .ready) →
      ∃ t, exec .interferometryDone s = .next t ∧ t.conc.opened = s.conc.opened.eraseIdx k
        ∧ t.conc.out = s.conc.out ++ [builtEvent c])
    ∧ (xcorrDrops c = false → eventRoom s = false →
      ∃ t, exec .interferometryDone s = .next t ∧ t.conc.out = s.conc.out ∧ t.conc.ready = s.conc.ready ++ [c.gid]
        ∧ t.conc.opened[k]? = some { c with phase := .ready }))

/-- Context sets of Sunflower: ARM, DISARM, COPY, NOW, the switch itself or the one that is skipped, a set that grows old;
and its groups, which move on by 64 spectra (R217, R224, R225, R227). -/
def Obligations.ContextSetsComplete : Prop :=
  (∀ (upsets : List (Nat × Nat)) (s : State), s.sun.running = true → sunGroupReady s = true → switchDue s = false →
    ∃ t, exec (.sunGroup upsets) s = .next t ∧ t.sun.group = s.sun.group + 64)
  ∧ (∀ s : State, pendingState s ≠ 0 → ∃ t, exec .sunArm s = .next t ∧ pendingState t = 2)
  ∧ (∀ s : State, pendingState s = 0 → exec .sunArm s = .next s ∧ exec .sunSwitchNow s = .next s)
  ∧ (∀ s : State, pendingState s = 2 → ∃ t, exec .sunDisarm s = .next t ∧ pendingState t = 1)
  ∧ (∀ s : State, pendingState s ≠ 2 →
    ∃ t, exec .sunCopy s = .next t ∧ pendingState t = 1 ∧ t.sun.pendingSet = s.sun.active
      ∧ rd t Obj.SUN_SWITCH.SPX_REF = s.sun.active.ref % 2 ^ 32)
  ∧ (∀ s : State, pendingState s = 2 → exec .sunCopy s = .next s)
  ∧ (∀ s : State, pendingState s ≠ 0 →
    ∃ t, exec .sunSwitchNow s = .next t ∧ pendingState t = 2
      ∧ t.sun.switchAt = some (match s.sun.switchAt with
          | some h => min (switchGroup (s.time.rc64 + 1)) h
          | none => switchGroup (s.time.rc64 + 1)))
  ∧ (∀ s : State, s.sun.running = true → switchDue s = true → pendingState s = 2 →
    ∃ t, exec .setSwitch s = .next t ∧ pendingState t = 0 ∧ t.sun.switchAt = none
      ∧ t.sun.active = { s.sun.pendingSet with ref := rd s Obj.SUN_SWITCH.SPX_REF } ∧ t.sun.pendingSet = s.sun.active
      ∧ rd t Obj.SUN_STATUS.ACTIVE_SET = pendingSetNo s % 2
      ∧ rd t Obj.SUN_STATUS.SET_GEN = (rd s Obj.SUN_STATUS.SET_GEN + 1) % 2 ^ Obj.SUN_STATUS.SET_GEN.width)
  ∧ (∀ s : State, s.sun.running = true → switchDue s = true → pendingState s ≠ 2 →
    ∃ t, exec .setSwitch s = .next t ∧ t.sun.switchAt = none ∧ t.sun.active = s.sun.active
      ∧ rd t Obj.SUN_STATUS.SKIPPED = (rd s Obj.SUN_STATUS.SKIPPED + 1) % 2 ^ Obj.SUN_STATUS.SKIPPED.width)
  ∧ (∀ s : State, s.sun.running = true → s.sun.aged = false →
    2 ^ 31 ≤ (s.sun.group + 2 ^ 32 - s.sun.active.ref % 2 ^ 32) % 2 ^ 32 →
    ∃ t, exec .contextAged s = .next t ∧ t.sun.aged = true
      ∧ (s.flt.active.length < 1024 → faultActive t 0x0905 0 = true))


/-! ### The field store, addressed memory (chapters 11 and 13) -/

/-- The field store's commands where they apply: a read of a clean word changes nothing in the store, a corrected one is
counted, a bad one too and stays bad; a whole word is stored with its class, a narrow write of a clean word merges its
bytes, a write that its region does not admit is refused; the scrubber ends its pass, or is late; a bank that wakes is
checked, and the loss of one that a transition needs aborts it; a half-bank is initialized with zeros (R22, R239 to R242,
R245, R249, R250). -/
def Obligations.FieldStoreComplete : Prop :=
  (∀ (src : Fin 5) (n : Fin 160) (r : Fin 32768) (w : Fin 8) (syndrome : Nat) (s : State), domOn s (bankDom n) = true →
    let k := wordNo n r w
    (halfReady s n (halfOfWord k) = false →
      ∃ t, exec (.fstMasterRead src n r w syndrome) s = .next t ∧ t.mem = s.mem ∧ t.fst = s.fst
        ∧ rd t Obj.FST_STATUS.UNINIT_READS
            = (rd s Obj.FST_STATUS.UNINIT_READS + 1) % 2 ^ Obj.FST_STATUS.UNINIT_READS.width)
    ∧ (halfReady s n (halfOfWord k) = true → readClass s k syndrome = 0 →
      ∃ t, exec (.fstMasterRead src n r w syndrome) s = .next t ∧ t.mem = s.mem ∧ t.fst = s.fst)
    ∧ (halfReady s n (halfOfWord k) = true → readClass s k syndrome = 1 →
      ∃ t, exec (.fstMasterRead src n r w syndrome) s = .next t ∧ t.mem = s.mem
        ∧ rd t Obj.FST_STATUS.CE_TOTAL
            = (rd s Obj.FST_STATUS.CE_TOTAL + 1) % 2 ^ Obj.FST_STATUS.CE_TOTAL.width)
    ∧ (halfReady s n (halfOfWord k) = true → 2 ≤ readClass s k syndrome →
      ∃ t, exec (.fstMasterRead src n r w syndrome) s = .next t ∧ mapGet t.fst.bad k = readClass s k syndrome - 1
        ∧ rd t Obj.FST_STATUS.UE_TOTAL
            = (rd s Obj.FST_STATUS.UE_TOTAL + 1) % 2 ^ Obj.FST_STATUS.UE_TOTAL.width))
  ∧ (∀ (master : Fin 10) (n : Fin 160) (r : Fin 32768) (w : Fin 8) (strobes : Fin 256) (data : Nat) (poison : Bool)
    (syndrome : Nat) (s : State), master.val ≠ 9 →
    let k := wordNo n r w
    (regionWriter s master k = false → s.flt.active.length < 1024 →
      ∃ t, exec (.fstWrite master n r w strobes data poison syndrome) s = .next t ∧ t.mem = s.mem ∧ t.fst = s.fst
        ∧ faultActive t 0x0C02 master = true)
    ∧ (regionWriter s master k = true → domOn s (bankDom n) = true →
      (strobes.val = 0 → ∃ t, exec (.fstWrite master n r w strobes data poison syndrome) s = .next t ∧ t.mem = s.mem
        ∧ t.fst = s.fst)
      ∧ (strobes.val = 255 → placeOfWord s k = .plain →
        ∃ t, exec (.fstWrite master n r w strobes data poison syndrome) s = .next t ∧ mapGet t.fst.bad k = b2n poison
          ∧ ∀ j < 8, memGet t.mem (wordAddr k + j) = BitVec.ofNat 8 (data / 256 ^ j))
      ∧ (strobes.val ≠ 0 → strobes.val ≠ 255 → placeOfWord s k = .plain → readClass s k syndrome = 0 →
        ∃ t, exec (.fstWrite master n r w strobes data poison syndrome) s = .next t ∧ mapGet t.fst.bad k = b2n poison
          ∧ ∀ j < 8, memGet t.mem (wordAddr k + j)
              = if bit strobes j then BitVec.ofNat 8 (data / 256 ^ j) else memGet s.mem (wordAddr k + j))))
  ∧ (∀ (n : Fin 160) (r : Fin 32768) (words : List (Nat × Nat)) (s : State), rd s Obj.FST_SCRUB.ENABLE ≠ 0 →
    domOn s (bankDom n) = true → halfReady s n (r.val / 16384) = true →
    (∃ t, exec (.scrubRead n r words true) s = .next t ∧ t.fst.passStart = s.time.rc64
      ∧ rd t Obj.FST_STATUS.PASSES = (rd s Obj.FST_STATUS.PASSES + 1) % 2 ^ Obj.FST_STATUS.PASSES.width)
    ∧ (∃ t, exec (.scrubRead n r words false) s = .next t ∧ t.fst.passStart = s.fst.passStart
      ∧ rd t Obj.FST_STATUS.PASSES = rd s Obj.FST_STATUS.PASSES))
  ∧ (∀ s : State, rd s Obj.FST_SCRUB.ENABLE ≠ 0 →
    s.fst.passStart + 2 * s.fst.passPeriod * 1600000000 < s.time.rc64 → s.flt.active.length < 1024 →
    ∃ t, exec .scrubLate s = .next t ∧ faultActive t 0x0A08 0 = true ∧ t.fst = s.fst)
  ∧ (∀ (n : Fin 160) (s : State), domState s (bankDom n) = 4 →
    ∃ t, exec (.retfailLatch n) s = .next t ∧ bit t.fst.retfail n = true)
  ∧ (∀ (n : Fin 160) (words : List (Nat × Nat)) (s : State), s.pwr.fromRetain.contains (bankDom n) = true →
    domState s (bankDom n) = 1 →
    ∃ t, exec (.bankWakeCheck n words) s = .next t ∧ t.pwr.fromRetain.contains (bankDom n) = false
      ∧ rd t Obj.FST_BANK.RETFAIL n = b2n (bit s.fst.retfail n)
      ∧ (bit s.fst.retfail n = true → rd t Obj.FST_BANK.INIT n = 0 ∧ rd t Obj.FST_BANK.LOST n = 1
          ∧ (phaseOf s ≠ .steady → phaseOf s ≠ .aborting → modeTarget s ≠ .idle →
              bankUsed (modeTarget s) (targetWatch s) (targetMap s) n = true →
              phaseOf t = .aborting ∧ modeTarget t = .idle)))
  ∧ (∀ (n : Fin 160) (h : Fin 2) (s : State), domOn s (bankDom n) = true → halfReady s n h = false →
    ∃ t, exec (.halfBankInitDone n h) s = .next t ∧ halfReady t n h = true
      ∧ ∀ k < 1048576, memGet t.mem (wordAddr (wordNo n (h.val * 16384) 0) + k) = 0)

/-- The frame of the addressed memory: a command that stores into it leaves every byte outside the word, line, half-bank,
access, block, fragment, image or capture record that it stores to; those that deliver spectra or peer packets leave
everything outside the corner-turn regions, banks 129 to 146; one that may boot leaves the memory or clears it whole
(R138, R151, R162, R199, R235, R239, R241, R271, R388, R394). -/
def Obligations.MemoryFrame : Prop :=
  ∀ (s t : State) (a : Nat),
    (∀ w, exec (.converterWord w) s = .next t →
      (∀ c, s.cnv.capture = some c → a < scratchBase + 32 * c.taken ∨ scratchBase + 32 * c.taken + 32 ≤ a) →
      memGet t.mem a = memGet s.mem a)
    ∧ (∀ src n r w syndrome, exec (.fstMasterRead src n r w syndrome) s = .next t →
      (a < wordAddr (wordNo n r w) ∨ wordAddr (wordNo n r w) + 8 ≤ a) → memGet t.mem a = memGet s.mem a)
    ∧ (∀ master n r w strobes data poison syndrome,
      exec (.fstWrite master n r w strobes data poison syndrome) s = .next t →
      (a < wordAddr (wordNo n r w) ∨ wordAddr (wordNo n r w) + 8 ≤ a) → memGet t.mem a = memGet s.mem a)
    ∧ (∀ n r words last, exec (.scrubRead n r words last) s = .next t →
      (a < wordAddr (wordNo n r 0) ∨ wordAddr (wordNo n r 0) + 64 ≤ a) → memGet t.mem a = memGet s.mem a)
    ∧ (∀ n h, exec (.halfBankInitDone n h) s = .next t →
      (a < wordAddr (wordNo n (h.val * 16384) 0) ∨ wordAddr (wordNo n (h.val * 16384) 0) + 1048576 ≤ a) →
      memGet t.mem a = memGet s.mem a)
    ∧ (∀ x : MatrixAccess,
      (targetOf s x.addr = .fieldStore →
        a < x.addr / 8 * 8 ∨ x.addr / 8 * 8 + 8 * ((x.addr % 8 + x.len + 7) / 8) ≤ a) →
      (targetOf s x.addr = .controlSram ∨ targetOf s x.addr = .bootWindow →
        a < sramAddr x.addr ∨ sramAddr x.addr + x.len ≤ a) →
      exec (.matrixTransaction x) s = .next t ∨ exec (.beatTimeout x) s = .next t ∨ exec (.resetInBurst x) s = .next t →
      memGet t.mem a = memGet s.mem a)
    ∧ (∀ off words syndromes, exec (.bar2Read off words syndromes) s = .next t →
      (a < 0x100000000 + off.val / 8 * 8 ∨ 0x100000000 + off.val / 8 * 8 + 8 * words.val ≤ a) →
      memGet t.mem a = memGet s.mem a)
    ∧ (∀ who bar2 off syndrome, exec (.halfReadLow who bar2 off syndrome) s = .next t →
      (bar2 = true → a < 0x100000000 + off.val / 8 * 8 ∨ 0x100000000 + off.val / 8 * 8 + 8 ≤ a) →
      memGet t.mem a = memGet s.mem a)
    ∧ (∀ l, exec (.imageDone l) s = .next t →
      (∀ x, s.ctl.rx = some x → a < 0x100000000 ∨ 0x100000000 + 8 * ((x.got.length + 7) / 8) ≤ a) →
      memGet t.mem a = memGet s.mem a)
    ∧ (∀ l, exec (.imageAbort l) s = .next t → memGet t.mem a = memGet s.mem a)
    ∧ (∀ m data, exec (.imageLoad m data) s = .next t →
      (∀ r, headOf s m 0x50 = some r → a < 0x100000000 ∨ 0x100000000 + 8 * ((leAt r.payload 4 4 + 7) / 8) ≤ a) →
      memGet t.mem a = memGet s.mem a)
    ∧ (∀ fails, exec (.frBlockCoded fails) s = .next t →
      (∀ job f, s.cmp.coder.head? = some job → fragOf s job.serial = some f →
        a < evtAddr s (blockPlace f job.input job.block)
          ∨ evtAddr s (blockPlace f job.input job.block) + blockBytes f.code ≤ a) →
      memGet t.mem a = memGet s.mem a)
    ∧ (exec .fragmentBuilt s = .next t →
      (∀ f w, s.evt.frags.find? (fun f => f.state == .building && f.window.isSome && f.toCode == 0) = some f →
        f.window = some w → a < evtAddr s f.off ∨ evtAddr s f.off + (fragmentBytes s f w).1.length ≤ a) →
      memGet t.mem a = memGet s.mem a)
    ∧ (∀ serial globalId, exec (.replyRequest serial globalId) s = .next t →
      (∀ f, fragOf s serial = some f →
        a < evtAddr s f.off ∨ evtAddr s f.off + (withGlobalId f.bytes (globalId % 2 ^ 48)).length ≤ a) →
      memGet t.mem a = memGet s.mem a)
    ∧ ((∀ b ∈ s.chz.filling, b.half < 2) → (∀ b ∈ s.peer.buffers, b.place < 4) → rd s Obj.DAH_BAND.K_COUNT ≤ 1024 →
      (a < wordAddr (129 * 262144) ∨ wordAddr (147 * 262144) ≤ a) →
      (∃ u, exec (.spectrumComplete u) s = .next t) ∨ (∃ b, exec (.spectrumDeadlineMiss b) s = .next t)
        ∨ (∃ u, exec (.dahliaGroup u) s = .next t) ∨ (∃ l k, exec (.peerPacket l k) s = .next t)
        ∨ exec .peerSendAgeDiscard s = .next t ∨ (∃ q, exec (.creditReturn q) s = .next t) →
      memGet t.mem a = memGet s.mem a)
    ∧ ((∃ c ∈ ([.compareMismatch, .bootTimeout, .bootCommandReboot, .vddAonPowerUp] : List Instr), exec c s = .next t)
        ∨ (∃ x y, exec (.selfCheck x y) s = .next t) ∨ (∃ x, exec (.warmRestartDone x) s = .next t)
        ∨ exec .resyncTimeout s = .next t ∨ (∃ x, exec (.pornAssert x) s = .next t)
        ∨ (∃ x y z v w, exec (.pornRelease x y z v w) s = .next t) ∨ (∃ x y, exec (.configVote x y) s = .next t)
        ∨ (∃ x, exec (.flashImageRead x) s = .next t) ∨ (∃ x, exec (.latchup x) s = .next t)
        ∨ (∃ x, exec (.railsGood x) s = .next t) →
      t.mem = s.mem ∨ t.mem = [])

/-! ### Compression and data movement (chapters 12 and 13) -/

/-- Compression engines start and end their jobs; the matrix answers a stopped transaction with an error that it counts
once more, and reads and writes control SRAM, through the boot window too where it is mapped there; a burst that stalls or
is reset is an error; a credit queue takes a packet where its producer has a credit and its consumer is ON, and marks what
becomes of its slot; a credit returns; a clock without work stops; a packet enters a lossy-tail queue
(R14 to R19, R266, R269, R271 to R282). -/
def Obligations.MatrixAndQueuesComplete : Prop :=
  (∀ (e : Fin 3) (s : State) (j : CompressJob) (rest : List CompressJob), s.cmp.running.length = 3 →
    nth s.cmp.running e none = none → nth s.cmp.queues e [] = j :: rest → domOn s (if e.val = 0 then 338 else 339) = true →
    ∃ t, exec (.compressionJobStart e) s = .next t ∧ nth t.cmp.running e none = some (jobStarted s j)
      ∧ nth t.cmp.queues e [] = rest)
  ∧ (∀ (e : Fin 3) (s : State) (j : CompressJob), nth s.cmp.running e none = some j →
    domCycling s (if e.val = 0 then 338 else 339) = false →
    ∃ t, exec (.compressionJobEnd e) s = .next t ∧ nth t.cmp.running e none = none)
  ∧ (∀ s : State, 10 * ticksPerSecond ≤ s.time.rc64 - s.cmp.lastFail →
    ∃ t, exec .verifyRecurring s = .next t ∧ faultActive t 0x0B02 0 = false)
  ∧ (∀ (a : MatrixAccess) (s : State) (e : Nat × Nat), accessError s a = some e →
    ∃ t, exec (.matrixTransaction a) s = .next t ∧ flag t Obj.MOV_ERR.VALID = true
      ∧ rd t Obj.MOV_ERR.COUNT = satAdd Obj.MOV_ERR.COUNT.width (rd s Obj.MOV_ERR.COUNT) 1 ∧ t.mem = s.mem
      ∧ (s.flt.active.length < 1024 → faultActive t e.2 a.master = true))
  ∧ (∀ (a : MatrixAccess) (s : State), accessError s a = none →
    targetOf s a.addr = .controlSram ∨ (targetOf s a.addr = .bootWindow ∧ flag s Obj.MOV_MAP.REMAP = true) →
    (a.write = true → ∃ t, exec (.matrixTransaction a) s = .next t
      ∧ ∀ j < a.len, memGet t.mem (sramAddr a.addr + j)
          = if bit a.strobes j then BitVec.ofNat 8 (nth a.data j 0) else memGet s.mem (sramAddr a.addr + j))
    ∧ (a.write = false → ∃ t, exec (.matrixTransaction a) s = .next t ∧ t.mem = s.mem
      ∧ t.out = .readData a.master a.len (ofLe (loadBytes s (sramAddr a.addr) a.len)) 0 :: s.out))
  ∧ (∀ (a : MatrixAccess) (s : State),
    (a.write = true → ∃ t, exec (.beatTimeout a) s = .next t
      ∧ rd t Obj.MOV_ERR.COUNT = satAdd Obj.MOV_ERR.COUNT.width (rd s Obj.MOV_ERR.COUNT) 1)
    ∧ (a.write = false → exec (.beatTimeout a) s = .next s)
    ∧ ∃ t, exec (.resetInBurst a) s = .next t ∧ rd t Obj.MOV_BUDGET.IN_USE a.master = 0
      ∧ rd t Obj.MOV_ERR.COUNT = satAdd Obj.MOV_ERR.COUNT.width (rd s Obj.MOV_ERR.COUNT) 1)
  ∧ (∀ (q : Fin 16) (err : Fin 3) (which : Nat) (s : State),
    (queueHeld q = false → queueOpen s q which = true →
      ∃ t, exec (.queuePacketSend q err which) s = .next t ∧ mapGet t.mov.used q = mapGet s.mov.used q + 1)
    ∧ ((if queueHeld q then decide (0 < queueUsed s q which) else queueOpen s q which) = true → err.val = 2 →
      ∃ t, exec (.queuePacketSend q err which) s = .next t
        ∧ rd t Obj.MOV_QPROT.POISONED q = satAdd Obj.MOV_QPROT.POISONED.width (rd s Obj.MOV_QPROT.POISONED q) 1)
    ∧ (queueHeld q = false → queueOpen s q which = false → exec (.queuePacketSend q err which) s = .next s))
  ∧ (∀ (q : Fin 16) (s : State), (q.val = 2 → s.chz.wait4 = []) → (q.val = 3 → s.chz.wait8 = []) →
    ∃ t, exec (.creditReturn q) s = .next t ∧ mapGet t.mov.used q = mapGet s.mov.used q - 1)
  ∧ (∀ (block : Fin 16) (s : State), 6 ≤ block.val → block.val ≤ 12 →
    (blockWorks s block = false → ∃ t, exec (.clockGateStop block) s = .next t ∧ bit t.mov.gated block = true)
    ∧ (blockWorks s block = true → exec (.clockGateStop block) s = .next s))
  ∧ (∀ (packet : List Nat) (s : State),
    (nextToReserve s = none → exec (.lossyTailWrite 0 packet) s = .next s)
    ∧ (∃ t, exec (.lossyTailWrite 1 packet) s = .next t ∧ t.sun.queue.getLast? = some (packet.map (· % 256)))
    ∧ (∃ t, exec (.lossyTailWrite 2 packet) s = .next t ∧ entryOfBytes (packet.map (· % 256)) ∈ t.flt.region)
    ∧ ∃ t, exec (.lossyTailWrite 3 packet) s = .next t
      ∧ t.hk.ring.getLast? = some (padTo 16 ((packet.map (· % 256)).take 16)))

/-- The DMA rings and records on network ports: a doorbell moves TAIL, and one of a whole ring stops the ring; KIND starts
and stops a ring, at once where no record is in progress; a record that fits the next buffer of a ring that does not pack
is written there and completes; a buffer closes by its time; descriptors are fetched, and an error stops the ring; records
leave on network ports (R283 to R288, R293, R343, R344). -/
def Obligations.RingsComplete : Prop :=
  (∀ (r : Fin 64) (tail : Fin 65536) (s : State),
    ∃ t, exec (.ringDoorbell r tail) s = .next t ∧ rd t Obj.MOV_RING_STATUS.TAIL r = tail
      ∧ (ringRuns s r = true → ringKind s r ≠ 3 →
          2 ^ rd s Obj.MOV_RING.SIZE_LOG r ≤ (tail.val + 65536 - rd s Obj.MOV_RING_STATUS.HEAD r) % 65536 →
          rd t Obj.MOV_RING_STATUS.ERROR r = 1))
  ∧ (∀ (r : Fin 64) (kind : Fin 4) (s : State),
    (kindStatus s r kind ≠ 0 → exec (.ringKindWrite r kind) s = .next s)
    ∧ (kindStatus s r kind = 0 → kind.val ≠ 0 → ∃ t, exec (.ringKindWrite r kind) s = .next t ∧ ringKind t r = kind
      ∧ rd t Obj.MOV_RING_STATUS.HEAD r = 0 ∧ rd t Obj.MOV_RING_STATUS.TAIL r = 0
      ∧ rd t Obj.MOV_RING_STATUS.ERROR r = 0)
    ∧ (kind.val = 0 → ((ringOf s r).part.isSome && ringRuns s r) = false →
      ∃ t, exec (.ringKindWrite r kind) s = .next t ∧ ringKind t r = 0)
    ∧ (kind.val = 0 → ((ringOf s r).part.isSome && ringRuns s r) = true →
      ∃ t, exec (.ringKindWrite r kind) s = .next t ∧ ringKind t r = ringKind s r
        ∧ ringOf t r = { ringOf s r with stopping := true }))
  ∧ (∀ (r : Fin 64) (s : State) (rec : DmaRecord) (rest : List DmaRecord) (d : Descriptor) (ds : List Descriptor),
    ringRuns s r = true → ringKind s r = 1 → (ringOf s r).queue = rec :: rest → rec.src = .plain → rec.kind = 1 →
    rec.bytes ≠ [] → (ringOf s r).part = none → (ringOf s r).buf = none → (ringOf s r).stopping = false →
    (ringOf s r).descs = d :: ds → rec.bytes.length ≤ d.len → rd s Obj.MOV_RING.PACK r = 0 →
    ∃ t, exec (.dmaRecordWrite r 0) s = .next t ∧ (ringOf t r).queue = rest ∧ (ringOf t r).descs = ds
      ∧ rd t Obj.MOV_RING_STATUS.HEAD r = (rd s Obj.MOV_RING_STATUS.HEAD r + 1) % 2 ^ 16
      ∧ rd t Obj.MOV_RING_STATUS.RECORDS r
          = (rd s Obj.MOV_RING_STATUS.RECORDS r + 1) % 2 ^ Obj.MOV_RING_STATUS.RECORDS.width
      ∧ .hostWrite d.addr rec.bytes.length (ofLe rec.bytes) ∈ t.out)
  ∧ (∀ (r : Fin 64) (s : State) (b : DmaBuf), (ringOf s r).buf = some b →
    (s.time.rc64 < b.openedAt + 1600 * rd s Obj.MOV_RING.COALESCE_US r → exec (.coalesceTimeout r) s = .next s)
    ∧ (b.openedAt + 1600 * rd s Obj.MOV_RING.COALESCE_US r ≤ s.time.rc64 →
      ((ringOf s r).part = none → (ringOf s r).descs ≠ [] →
        ∃ t, exec (.coalesceTimeout r) s = .next t ∧ (ringOf t r).buf = none)
      ∧ ((ringOf s r).part ≠ none →
        ∃ t, exec (.coalesceTimeout r) s = .next t ∧ (ringOf t r).buf = some { b with timeUp := true })))
  ∧ (∀ (r : Fin 64) (addr len ctrl rsv : Nat) (s : State), s.mov.rings.length = 64 → ringRuns s r = true →
    ringKind s r = 1 ∨ ringKind s r = 2 → (ringOf s r).descs.length < 8 → (ringOf s r).descs.length < ringOwned s r →
    (descriptorLegal addr len ctrl rsv = true → ringKind s r = 1 ∨ (ringOf s r).part = none →
      ∃ t, exec (.descriptorFetchDone r addr len ctrl rsv false) s = .next t
        ∧ (ringOf t r).descs = (ringOf s r).descs ++ [⟨addr, len, bit ctrl 0⟩])
    ∧ ∀ error, (error = true ∨ descriptorLegal addr len ctrl rsv = false) →
      ∃ t, exec (.descriptorFetchDone r addr len ctrl rsv error) s = .next t ∧ rd t Obj.MOV_RING_STATUS.ERROR r = 1)
  ∧ (∀ (r : Fin 64) (s : State), ringRuns s r = true → ringKind s r ≠ 3 →
    ∃ t, exec (.cplTimeout r) s = .next t ∧ rd t Obj.MOV_RING_STATUS.ERROR r = 1)
  ∧ (∀ (r : Fin 64) (s : State), ringRuns s r = true → ringKind s r = 1 → recordWaits s r = true →
    (ringOf s r).descs = [] →
    ∃ t, exec (.ringNoBuffer r) s = .next t ∧ flag t Obj.MOV_RING_STATUS.NO_BUF r = true
      ∧ (s.flt.active.length < 1024 → faultActive t 0x0C08 r = true))
  ∧ (∀ (src : Fin 67) (s : State) (rec : DmaRecord) (rest : List DmaRecord), src.val < 64 → ringKind s src = 3 →
    netPortUp s (rd s Obj.MOV_RING.NET_PORT src) = true → (ringOf s src).queue = rec :: rest → rec.src = .plain →
    rec.kind = 3 →
    ∃ t, exec (.netRecordSend src) s = .next t ∧ (ringOf t src).queue = rest
      ∧ mapGet t.net.recordSeq (rd s Obj.MOV_RING.TEMPLATE src)
          = (mapGet s.net.recordSeq (rd s Obj.MOV_RING.TEMPLATE src) + 1) % 2 ^ 32)
  ∧ (∀ (s : State) (d : DumpRecord) (rest : List DumpRecord), s.dah.dumps = d :: rest → d.dest = 2 →
    netPortUp s d.port = true →
    ∃ t, exec (.netRecordSend 64) s = .next t ∧ t.dah.dumps = rest ++ s.dah.toQueue.take 1
      ∧ mapGet t.net.recordSeq (28 + d.port) = (mapGet s.net.recordSeq (28 + d.port) + 1) % 2 ^ 32)
  ∧ (∀ (s : State) (b : Bytes) (rest : List Bytes), s.sun.queue = b :: rest → rd s Obj.SUN_CTRL.DEST = 1 →
    netPortUp s (rd s Obj.SUN_CTRL.PORT) = true →
    ∃ t, exec (.netRecordSend 65) s = .next t ∧ t.sun.queue = rest
      ∧ mapGet t.net.recordSeq 30 = (mapGet s.net.recordSeq 30 + 1) % 2 ^ 32)
  ∧ (∀ (s : State) (e : BuiltEvent) (rest : List BuiltEvent), s.conc.out = e :: rest → e.dest = 1 →
    netPortUp s e.port = true → s.conc.ready = [] →
    ∃ t, exec (.netRecordSend 66) s = .next t ∧ t.conc.out = rest
      ∧ mapGet t.net.recordSeq 31 = (mapGet s.net.recordSeq 31 + 1) % 2 ^ 32)

/-- A host-window address reaches bus address `BASE` + (A − 0x10_0000_0000), and the default target answers one beyond
2⁶⁴ − 1; the places of dumps are matrix addresses, descriptors and ring bases bus addresses (R274). -/
def Obligations.HostWindowAddresses : Prop :=
  (∀ (a : MatrixAccess) (s : State), 0x1000000000 ≤ a.addr → a.addr < 0x10000000000 →
    let bus := rd s Obj.MOV_HOSTWIN.BASE + (a.addr - 0x1000000000)
    (bus < 2 ^ 64 → a.master = 0 ∨ a.master = 8 → a.write = true →
      ∃ t, exec (.matrixTransaction a) s = .next t
        ∧ t.out = .hostWrite bus a.len (ofLe (a.data.take a.len)) :: s.out)
    ∧ (2 ^ 64 ≤ bus → ∃ t, exec (.matrixTransaction a) s = .next t
      ∧ (rd s Obj.MOV_ERR.VALID = 0 → rd t Obj.MOV_ERR.VALID = 1 ∧ rd t Obj.MOV_ERR.CAUSE = 0)
      ∧ t.out = if a.write then s.out else .readData a.master a.len (2 ^ (8 * a.len) - 1) 1 :: s.out))
  ∧ (∀ (s : State) (r at0 : Nat) (d : Descriptor) (piece : Bytes) (starts ends poison : Bool),
    (writePiece s r d at0 piece starts ends poison).out = .hostWrite (d.addr + at0) piece.length (ofLe piece) :: s.out)
  ∧ (∀ (s : State) (r used records status : Nat), (ringOf s r).descs ≠ [] →
    ∃ more value, (complete s r used records status).out = more ++ .hostWrite (rd s Obj.MOV_RING.BASE r
      + 32 * (rd s Obj.MOV_RING_STATUS.HEAD r % 2 ^ rd s Obj.MOV_RING.SIZE_LOG r) + 16) 16 value :: s.out)
  ∧ (∀ (s : State) (r : Nat) (d : DumpRecord) (rest : List DumpRecord), s.dah.dumps = d :: rest → d.ring = r → d.dest = 1 →
    ∃ x, pullRecord s r 1 = some x
      ∧ (d.stride = 0 → d.payload ≠ [] → targetOf s (d.base + d.place) = .host →
          x.2.out = .hostWrite (rd s Obj.MOV_HOSTWIN.BASE + (d.base + d.place - 0x1000000000)) d.payload.length
            (ofLe d.payload) :: s.out)
      ∧ (d.stride ≠ 0 → ∀ m < d.payload.length / 1024, targetOf s (d.base + d.place + m * d.stride) = .host →
          .hostWrite (rd s Obj.MOV_HOSTWIN.BASE + (d.base + d.place + m * d.stride - 0x1000000000)) 1024
            (ofLe ((d.payload.drop (1024 * m)).take 1024)) ∈ x.2.out))

/-! ### Axrel links, images over them (chapters 14 and 16) -/

/-- Training takes a link from OFF or SLEEP through CLOCK, BASE, EXCHANGE and SPEED to LINKED, and the links of its port up
together, those too late left out; a link from SLEEP to an unchanged partner skips BASE and EXCHANGE; a partner that is not
the one cabled raises fault 0x0D07; a step that overruns returns the link to OFF, and its training waits (R300, R302 to
R305). -/
def Obligations.TrainingComplete : Prop :=
  (∀ (l : Fin 16) (s : State), (linkState s l = 0 ∨ linkState s l = 8) → linkEnabled s l = true →
    (axrelMode s).usesAxrel = true → (linkOf s l).waits = false →
    ∃ t, exec (.linkTrainStart l) s = .next t ∧ linkState t l = 1
      ∧ rd t Obj.AXL_LINK_STATUS.TRAININGS l
          = (rd s Obj.AXL_LINK_STATUS.TRAININGS l + 1) % 2 ^ Obj.AXL_LINK_STATUS.TRAININGS.width)
  ∧ (∀ (l : Fin 16) (unchanged : Bool) (s : State), linkState s l = 1 →
    ∃ t, exec (.partnerClockStable l unchanged) s = .next t ∧ rd t Obj.AXL_LINK_STATUS.CLOCK_OK l = 1
      ∧ ((linkOf s l).fromSleep = false ∨ unchanged = false ∨ (linkOf s l).partner = none → linkState t l = 2)
      ∧ ((linkOf s l).fromSleep = true → unchanged = true → (linkOf s l).partner ≠ none →
          linkState t l = if rd s Obj.AXL_LINK_STATUS.RATE l = 0 then 5 else 4))
  ∧ (∀ (l : Fin 16) (lanes : Fin 4) (s : State), linkState s l = 2 → lanes.val ≠ 0 →
    ∃ t, exec (.baseLocked l lanes) s = .next t ∧ linkState t l = 3 ∧ rd t Obj.AXL_LINK_STATUS.LOCKED l = lanes)
  ∧ (∀ (l : Fin 16) (s : State), linkState s l = 3 →
    ∃ t, exec (.capabilityRecordResend l) s = .next t ∧ t.out = .axUnit l 256 (ofLe (capabilityBytes s l)) 0 :: s.out)
  ∧ (∀ (l : Fin 16) (record : List Nat) (s : State), linkState s l = 3 → record.length = 32 →
    leAt record 0 4 = 0x50435841 → leAt record 4 1 = 1 →
    let rate := resolveRate (2 ^ ((linkOf s l).maxRate + 1) - 1) (leAt record 5 1)
    ∃ t, exec (.capabilityRecord l record) s = .next t ∧ rd t Obj.AXL_LINK_STATUS.RATE l = rate
      ∧ linkState t l = (if rate = 0 then 5 else 4)
      ∧ rd t Obj.AXL_LINK_STATUS.PARTNER_CHIPID l = leAt record 6 1 % 16
      ∧ rd t Obj.AXL_LINK_STATUS.PARTNER_LINK l = leAt record 7 1 % 16
      ∧ (partnerRight s l record = false → s.flt.active.length < 1024 → faultActive t 0x0D07 l = true))
  ∧ (∀ (l : Fin 16) (lanes : Fin 4) (s : State), linkState s l = 4 → lanes.val ≠ 0 →
    ∃ t, exec (.speedDone l lanes) s = .next t ∧ linkState t l = 5 ∧ rd t Obj.AXL_LINK_STATUS.LOCKED l = lanes)
  ∧ (∀ (l late : Fin 16) (s : State),
    let p := portOfLink s l
    let joins := fun k => linkState s k = 5 ∧ (linkOf s k).excluded = false ∧ bit late (k % 4) = false
    portUp s p = false → (∃ k ∈ linksOfPort s p, joins k) →
    (∀ k ∈ linksOfPort s p, linkEnabled s k = false ∨ linkState s k = 5)
      ∨ (∃ k ∈ linksOfPort s p, linkState s k = 5 ∧ (linkOf s k).excluded = false
          ∧ (linkOf s k).since + 1600000 ≤ s.time.rc64) →
    ∃ t, exec (.portDeskew l late) s = .next t ∧ portUp t p = true
      ∧ ∀ k ∈ linksOfPort s p, joins k → linkState t k = 6)
  ∧ (∀ (l : Fin 16) (s : State), s.axl.links.length = 16 → 1 ≤ linkState s l →
    linkState s l ≤ 4 ∨ (linkState s l = 5 ∧ (linkOf s l).excluded = false ∧ portUp s (portOfLink s l) = false) →
    ∃ t, exec (.trainStepOverrun l) s = .next t ∧ linkState t l = 0 ∧ (linkOf t l).waits = true)
  ∧ (∀ (l : Fin 16) (s : State), (linkOf s l).waits = true →
    ∃ t, exec (.retrainTimer l) s = .next t ∧ (linkOf t l).waits = false
      ∧ (linkEnabled s l = true → (axrelMode s).usesAxrel = true → linkState t l = 1))

/-- Lanes and maps: a lost lane is unlocked, an alignment marker locks it, a map is applied on both sides unless its number
is old, its request is repeated, a clean lane comes back, a lost clock takes the link to OFF (R300, R314 to R317). -/
def Obligations.LanesComplete : Prop :=
  (∀ (l : Fin 16) (d : Fin 2) (s : State), 5 ≤ linkState s l → linkState s l ≤ 7 →
    (bit (rd s Obj.AXL_LINK_STATUS.LOCKED l) d = true →
      ∃ t, exec (.laneLockLoss l d) s = .next t ∧ bit (rd t Obj.AXL_LINK_STATUS.LOCKED l) d = false
        ∧ rd t Obj.AXL_LINK_STATUS.LOCK_LOSSES l
            = (rd s Obj.AXL_LINK_STATUS.LOCK_LOSSES l + 1) % 2 ^ Obj.AXL_LINK_STATUS.LOCK_LOSSES.width)
    ∧ (∀ ok, ∃ t, exec (.am l d ok) s = .next t ∧ bit (rd t Obj.AXL_LINK_STATUS.LOCKED l) d = true)
    ∧ (bit (rd s Obj.AXL_LINK_STATUS.LOCKED l) d = false →
      ∃ t, exec (.shedLaneReadaptation l d) s = .next t ∧ nth (linkOf t l).clean d 0 = 0))
  ∧ (∀ (l : Fin 16) (mapId : Fin 16) (map : Fin 256) (s : State), portUp s (portOfLink s l) = true → map.val ≠ 0 →
    ((∀ i, (axPortOf s (portOfLink s l)).mapIdTx = some i → (mapId.val + 16 - i) % 16 < 8) →
      ∃ t, exec (.mapreq l mapId map) s = .next t ∧ rd t Obj.AXL_PORT_STATUS.TX_MAP (portOfLink s l) = map)
    ∧ (∀ i, (axPortOf s (portOfLink s l)).mapIdTx = some i → 8 ≤ (mapId.val + 16 - i) % 16 →
      exec (.mapreq l mapId map) s = .next s)
    ∧ ∃ t, exec (.map l mapId map) s = .next t ∧ rd t Obj.AXL_PORT_STATUS.RX_MAP (portOfLink s l) = map)
  ∧ (∀ (l : Fin 16) (m : Nat) (s : State), (axPortOf s (portOfLink s l)).want = some m →
    ∃ t, exec (.mapreqResend l) s = .next t
      ∧ t.out = .axUnit (portOfLink s l) 0x78 (axPortOf s (portOfLink s l)).mapIdRx m :: s.out)
  ∧ (∀ (l : Fin 16) (d : Fin 2) (s : State), s.axl.ports.length = 16 → portUp s (portOfLink s l) = true →
    linkEnabled s l = true → (linkOf s l).excluded = false → bit (rd s Obj.AXL_LINK_STATUS.LOCKED l) d = true →
    4 ≤ nth (linkOf s l).clean d 0 → bit (wantedMap s (portOfLink s l)) (laneIndex s l d) = false →
    ∃ t, exec (.laneRejoin l d) s = .next t ∧ (axPortOf t (portOfLink s l)).want
      = some (wantedMap s (portOfLink s l) ||| 2 ^ laneIndex s l d))
  ∧ (∀ (l : Fin 16) (s : State), flag s Obj.AXL_LINK_STATUS.CLOCK_OK l = true → 2 ≤ linkState s l → linkState s l ≤ 7 →
    ∃ t, exec (.clockLoss l) s = .next t ∧ linkState t l = 0 ∧ rd t Obj.AXL_LINK_STATUS.CLOCK_OK l = 0)

/-- Frames are counted as errors or duplicates or accepted in order; ACK frees what it acknowledges, NAK and its timeout
retransmit all that is unacknowledged, and a frame sent too often takes the port down; credit, low power, test payloads and
patterns, and the judgements of every second (R307 to R313, R319, R321 to R323). -/
def Obligations.AxrelFramesComplete : Prop :=
  (∀ (l : Fin 16) (f : FrameIn) (s : State), s.axl.ports.length = 16 → portUp s (portOfLink s l) = true →
    portLooped s (portOfLink s l) = false →
    (f.error = true → ∃ t, exec (.axrelFrame l f) s = .next t
      ∧ rd t Obj.AXL_PORT_STATUS.CRC_ERRORS (portOfLink s l) = (rd s Obj.AXL_PORT_STATUS.CRC_ERRORS (portOfLink s l) + 1)
          % 2 ^ Obj.AXL_PORT_STATUS.CRC_ERRORS.width)
    ∧ (f.error = false → f.payload.length = 8 * (if leAt f.head 3 1 = 0 then 256 else leAt f.head 3 1) →
      f.crc = crc32c (f.head ++ f.payload) → leAt f.head 1 2 % 4096 = (axPortOf s (portOfLink s l)).expect →
      (axPortOf s (portOfLink s l)).expect < 4096 → (axPortOf s (portOfLink s l)).marked = [] →
      (axPortOf s (portOfLink s l)).window < 4096 →
      ∃ t, exec (.axrelFrame l f) s = .next t
        ∧ (axPortOf t (portOfLink s l)).expect = ((axPortOf s (portOfLink s l)).expect + 1) % 4096)
    ∧ (f.error = false → f.payload.length = 8 * (if leAt f.head 3 1 = 0 then 256 else leAt f.head 3 1) →
      f.crc = crc32c (f.head ++ f.payload) →
      (axPortOf s (portOfLink s l)).marked.contains (leAt f.head 1 2 % 4096) = true
        ∨ 4096 - (axPortOf s (portOfLink s l)).window
            ≤ (leAt f.head 1 2 % 4096 + 4096 - (axPortOf s (portOfLink s l)).expect) % 4096 →
      ∃ t, exec (.axrelFrame l f) s = .next t ∧ (axPortOf t (portOfLink s l)).accepted = 0
        ∧ rd t Obj.AXL_PORT_STATUS.DUPLICATES (portOfLink s l) = (rd s Obj.AXL_PORT_STATUS.DUPLICATES (portOfLink s l) + 1)
            % 2 ^ Obj.AXL_PORT_STATUS.DUPLICATES.width))
  ∧ (∀ (l : Fin 16) (seq : Nat) (s : State), portUp s (portOfLink s l) = true →
    (axPortOf s (portOfLink s l)).unacked.any (fun f => f.seq == seq % 4096) = true →
    ∃ t, exec (.ack l seq) s = .next t ∧ (axPortOf t (portOfLink s l)).lastBusy = s.time.rc64
      ∧ ((axPortOf s (portOfLink s l)).ready = [] → s.peer.sends = [] → (axPortOf t (portOfLink s l)).unacked
          = ((axPortOf s (portOfLink s l)).unacked.dropWhile (fun f => f.seq != seq % 4096)).drop 1))
  ∧ (∀ (l : Fin 16) (seq : Nat) (s : State), portUp s (portOfLink s l) = true →
    (axPortOf s (portOfLink s l)).unacked ≠ [] → (∀ f ∈ (axPortOf s (portOfLink s l)).unacked, f.resent < 32) →
    (seq < 4096 → ∃ t, exec (.nak l seq) s = .next t
      ∧ rd t Obj.AXL_PORT_STATUS.RETRANSMITTED (portOfLink s l)
          = (rd s Obj.AXL_PORT_STATUS.RETRANSMITTED (portOfLink s l) + (axPortOf s (portOfLink s l)).unacked.length)
              % 2 ^ Obj.AXL_PORT_STATUS.RETRANSMITTED.width)
    ∧ ∃ t, exec (.ackTimeout l) s = .next t
      ∧ rd t Obj.AXL_PORT_STATUS.RETRANSMITTED (portOfLink s l)
          = (rd s Obj.AXL_PORT_STATUS.RETRANSMITTED (portOfLink s l) + (axPortOf s (portOfLink s l)).unacked.length)
              % 2 ^ Obj.AXL_PORT_STATUS.RETRANSMITTED.width)
  ∧ (∀ (l : Fin 16) (s : State), portUp s (portOfLink s l) = true →
    (∃ f ∈ (axPortOf s (portOfLink s l)).unacked, 32 ≤ f.resent) →
    ∃ t, exec (.ackTimeout l) s = .next t ∧ portUp t (portOfLink s l) = false)
  ∧ (∀ (l : Fin 16) (vc : Fin 4) (total : Nat) (s : State), s.axl.ports.length = 16 → portUp s (portOfLink s l) = true →
    (axPortOf s (portOfLink s l)).creditSeen.length = 4 →
    (∃ t, exec (.credit l vc total) s = .next t ∧ nth (axPortOf t (portOfLink s l)).creditSeen vc 0 = total % 65536)
    ∧ ∃ t, exec (.ackCreditTimer l) s = .next t ∧ (axPortOf t (portOfLink s l)).accepted = 0
      ∧ (axPortOf t (portOfLink s l)).creditSent = (axPortOf s (portOfLink s l)).returned)
  ∧ (∀ (l : Fin 16) (s : State), s.axl.ports.length = 16 → portUp s (portOfLink s l) = true →
    (axPortOf s (portOfLink s l)).lpi = false → lpiAllowed s (portOfLink s l) = true →
    (axPortOf s (portOfLink s l)).ready = [] → (axPortOf s (portOfLink s l)).unacked = [] →
    (axPortOf s (portOfLink s l)).accepted = 0 →
    (axPortOf s (portOfLink s l)).creditSent = (axPortOf s (portOfLink s l)).returned →
    (axPortOf s (portOfLink s l)).lastBusy + 1600 * (linkOf s (portOfLink s l)).lpiUs ≤ s.time.rc64 →
    ∃ t, exec (.lpiEntry l) s = .next t ∧ (axPortOf t (portOfLink s l)).lpi = true)
  ∧ (∀ (l : Fin 16) (s : State), (axPortOf s (portOfLink s l)).lpi = true →
    (∃ t, exec (.lpiRefresh l) s = .next t
      ∧ t.out = .axUnit (portOfLink s l) 0x99 0 0 :: .axUnit (portOfLink s l) 0x00 0 0 :: s.out)
    ∧ ∃ t, exec (.wake l) s = .next t ∧ (axPortOf t (portOfLink s l)).lpi = false)
  ∧ (∀ (l : Fin 16) (s : State) (m : AxMessage), (axPortOf s (portOfLink s l)).queue10 = [m] → m.ty = 9 →
    (axPortOf s (portOfLink s l)).buffer = [] →
    ∃ t, exec (.testPayload l) s = .next t ∧ (axPortOf t (portOfLink s l)).queue10 = [])
  ∧ (∀ (l : Fin 16) (d : Fin 2) (s : State), modeOf s = .test → flag s Obj.AXL_TEST.PRBS l = true →
    (flag s Obj.AXL_PRBS.LOCK (2 * l.val + d.val) = false →
      ∃ t, exec (.prbsCheckerLock l d) s = .next t ∧ rd t Obj.AXL_PRBS.LOCK (2 * l.val + d.val) = 1
        ∧ rd t Obj.AXL_PRBS.BITS (2 * l.val + d.val) = 64)
    ∧ ∃ t, exec (.errInject l) s = .next t ∧ t.out = .drive 2 l 1 :: s.out)
  ∧ (∀ (l : Fin 16) (s : State), s.axl.ports.length = 16 →
    ∃ t, exec (.retryHigh l) s = .next t
      ∧ (axPortOf t (portOfLink s l)).lastFrames = rd s Obj.AXL_PORT_STATUS.FRAMES (portOfLink s l))
  ∧ (∀ (l : Fin 16) (d : Fin 2) (s : State),
    ∃ t, exec (.laneErrors l d) s = .next t ∧ nth (linkOf t l).bip d 0 = 0)

/-- Image transfer over Axrel (R367, R394) and the reads of flash at boot (R361, R362). -/
def Obligations.ImageTransferComplete : Prop :=
  (∀ (l : Fin 16) (kind : Fin 4) (total : Fin 16777217) (s : State), kind.val ≠ 0 → total.val ≠ 0 →
    ∃ t, exec (.imageOffer l kind total) s = .next t ∧ (l.val, kind.val, total.val) ∈ t.ctl.offers)
  ∧ (∀ (l : Fin 16) (offset count : Nat) (s : State) (x : Image), s.ctl.staged = some x →
    bit s.ctl.serveLinks l = true → offset < x.bytes.length →
    let n := min (min 8192 count) (x.bytes.length - offset)
    let reply := imageMessage (takeMessage s l 8) l 3 x.kind x.bytes.length offset n ((x.bytes.drop offset).take n)
    ∃ t, exec (.imageRequest l offset count) s = .next t
      ∧ t = if offset + n = x.bytes.length then imageMessage reply l 4 x.kind x.bytes.length 0 0 [] else reply)
  ∧ (∀ (l : Fin 16) (offset : Nat) (data : List Nat) (s : State) (x : ImageRx), s.ctl.rx = some x → x.link = l.val →
    let d := (data.take 8192).map (· % 256)
    offset ≤ x.got.length → offset + d.length ≤ x.total →
    ∃ t y, exec (.imageData l offset data) s = .next t ∧ t.ctl.rx = some y
      ∧ y.got = x.got.take offset ++ d ++ x.got.drop (offset + d.length))
  ∧ (∀ (l : Fin 16) (s : State) (x : ImageRx), s.ctl.rx = some x → x.link = l.val → loadingMail s = none →
    (s.ctl.waitsForImage = false → ∃ t, exec (.imageDone l) s = .next t ∧ t.ctl.rx = none)
    ∧ (s.ctl.waitsForImage = true → imageCheck s x.kind x.got ≠ 0 →
      ∃ t, exec (.imageDone l) s = .next t ∧ t.ctl.rx = none
        ∧ (s.flt.active.length < 1024 → faultActive t 0x1005 0 = true)))
  ∧ (∀ (l : Fin 16) (s : State), (∀ x, s.ctl.rx = some x → x.link ≠ l) →
    ∃ t, exec (.imageAbort l) s = .next t ∧ ∀ o ∈ t.ctl.offers, o.1 ≠ l.val)
  ∧ (∀ (s : State) (x : ImageRx), s.ctl.rx = some x → x.asked.isSome = true → x.got.length < x.total →
    ∃ t y, exec .imageChunkRetry s = .next t ∧ t.ctl.rx = some y ∧ y.asked = some x.got.length)
  ∧ (∀ (s : State) (x : Bytes × Nat) (rest : List (Bytes × Nat)), bootReads s = true → s.ctl.ronecUp = false →
    firmwareTries s = x :: rest →
    ∃ t, exec (.flashImageRead false) s = .next t
      ∧ (imageCheck s 1 x.1 = 0 → t.ctl.ronecUp = true ∧ t.ctl.fwSlot = x.2 ∧ rd t Obj.MOV_MAP.REMAP = 1))
  ∧ (∀ s : State, bootReads s = true → s.ctl.ronecUp = true → s.ctl.bundleDone = false →
    ∃ t, exec (.flashImageRead true) s = .next t ∧ t.ctl.bundleDone = true)

/-! ### The time base and the network ports (chapter 15) -/

/-- The reference and PPS: loss and return, the slew, which leaves a holdover that Dormant set, valid and invalid edges,
the edge or the timeout that starts RC64 at boot (R324, R326, R327, R333, R334; that the slew leaves a holdover of Dormant is
DEDUCED, log entry 105). -/
def Obligations.ReferenceComplete : Prop :=
  (∀ s : State, s.time.refPresent = true →
    ∃ t, exec .ref10mLost s = .next t ∧ t.time.refPresent = false ∧ rd t Obj.TIM_STATE.HOLDOVER = 1
      ∧ (modeOf s ≠ .dormant → s.flt.active.length < 1024 → faultActive t 0x0E01 0 = true)
      ∧ (modeOf s = .dormant → t.flt = s.flt ∧ t.aon.holdoverUsed = true))
  ∧ (∀ s : State, s.time.refPresent = false → modeOf s ≠ .dormant →
    ∃ t, exec .ref10mReturn s = .next t ∧ t.time.refPresent = true ∧ rd t Obj.TIM_STATE.SLEWING = 1)
  ∧ (∀ s : State, rd s Obj.TIM_STATE.SLEWING ≠ 0 →
    ∃ t, exec .phaseSlewDone s = .next t ∧ rd t Obj.TIM_STATE.SLEWING = 0
      ∧ rd t Obj.TIM_STATE.HOLDOVER = (if s.time.dormantHold then rd s Obj.TIM_STATE.HOLDOVER else 0)
      ∧ t.time.rc64 = s.time.rc64)
  ∧ (∀ s : State, modeOf s = .dormant → s.time.refPresent = false →
    ∃ t, exec .dormantRefReturn s = .next t ∧ t.time.refPresent = true ∧ t.time.rc64 = (s.time.rc64 + 159) / 160 * 160
      ∧ rd t Obj.TIM_STATE.HOLDOVER = rd s Obj.TIM_STATE.HOLDOVER)
  ∧ (∀ (lead : Nat) (s : State), s.time.off = false → s.time.bootWait = false →
    let edge : Int := (s.time.rc64 : Int) - ((if s.time.refPresent then lead else 0 : Nat) : Int)
    (ppsValid s edge = true →
      ∃ t, exec (.ppsEdge lead) s = .next t ∧ t.time.lastValid = some edge
        ∧ rd t Obj.TIM_PPS.RC64 = s.time.rc64 % 2 ^ 64
        ∧ rd t Obj.TIM_PPS.COUNT = (rd s Obj.TIM_PPS.COUNT + 1) % 2 ^ Obj.TIM_PPS.COUNT.width)
    ∧ (ppsValid s edge = false →
      ∃ t, exec (.ppsEdge lead) s = .next t
        ∧ rd t Obj.TIM_PPS.BAD = satAdd Obj.TIM_PPS.BAD.width (rd s Obj.TIM_PPS.BAD) 1))
  ∧ (∀ (lead : Nat) (s : State), s.time.off = false → s.time.bootWait = true →
    ∃ t, exec (.ppsEdge lead) s = .next t ∧ t.time.rc64 = 0 ∧ t.time.bootWait = false ∧ rd t Obj.TIM_PPS.FRAME_OK = 1)
  ∧ (∀ (lead : Nat) (s : State), s.time.off = true →
    ∃ t, exec (.ppsEdge lead) s = .next t ∧ t.time.offEdge = some s.time.rc64
      ∧ rd t Obj.TIM_PPS.COUNT = rd s Obj.TIM_PPS.COUNT)
  ∧ (∀ s : State, s.time.lastValid.isSome = true → s.time.off = false →
    ∃ t, exec .ppsLost s = .next t ∧ t.time.lastValid = none ∧ rd t Obj.TIM_STATE.LOCKED = 0)
  ∧ (∀ s : State, s.time.bootWait = true →
    ∃ t, exec .bootPpsWaitTimeout s = .next t ∧ t.time.rc64 = 0 ∧ t.time.bootWait = false
      ∧ rd t Obj.TIM_PPS.FRAME_OK = 0)

/-- INC, SET and STEP wait for their boundary and take effect there, and a value out of range changes nothing; civil time
does not jump at a change of INC; a legal write of a comparator takes effect, an illegal one changes nothing, and a
comparator that is due fires, once or again (R330, R331, R336 to R340; a STEP to before the epoch leaves 0, which is the
model's choice, log entry 106). -/
def Obligations.CivilTimeComplete : Prop :=
  (∀ (inc : Nat) (atPps : Bool) (s : State), Obj.TIM_INC.INC.min ≤ inc → inc ≤ Obj.TIM_INC.INC.max →
    ∃ t, exec (.incWrite inc atPps) s = .next t ∧ rd t Obj.TIM_INC.PENDING = 1 ∧ rd t Obj.TIM_INC.INC = inc
      ∧ t.time.inc = s.time.inc ∧ t.time.incWait = some (inc, rd s Obj.TIM_PPS.COUNT))
  ∧ (∀ (inc : Nat) (atPps : Bool) (s : State), inc < Obj.TIM_INC.INC.min ∨ Obj.TIM_INC.INC.max < inc →
    exec (.incWrite inc atPps) s = .next s)
  ∧ (∀ (s : State) (v acc : Nat), s.time.incWait = some (v, acc) → atBoundary s (flag s Obj.TIM_INC.WHEN) acc = true →
    ∃ t, exec .incApply s = .next t ∧ t.time.inc = v ∧ t.time.civil = s.time.civil ∧ t.time.incWait = none
      ∧ rd t Obj.TIM_INC.PENDING = 0)
  ∧ (∀ (sec nsec : Nat) (atPps : Bool) (s : State), nsec < 1000000000 → sec < 2 ^ 48 →
    ∃ t, exec (.timeSet sec nsec atPps) s = .next t ∧ rd t Obj.TIM_SET.PENDING = 1
      ∧ t.time.opWait = some ⟨false, sec, nsec, 0, atPps, rd s Obj.TIM_PPS.COUNT⟩ ∧ t.time.civil = s.time.civil)
  ∧ (∀ (step : Int) (atPps : Bool) (s : State), flag s Obj.TIM_STATE.VALID = true → step.natAbs < 1000000000 →
    ∃ t, exec (.timeStep step atPps) s = .next t ∧ rd t Obj.TIM_SET.PENDING = 1
      ∧ t.time.opWait = some ⟨true, 0, 0, step, atPps, rd s Obj.TIM_PPS.COUNT⟩)
  ∧ (∀ (s : State) (o : TimeOp), s.time.opWait = some o → atBoundary s o.atPps o.acceptedAt = true →
    ∃ t, exec .timeOpApply s = .next t ∧ t.time.opWait = none ∧ rd t Obj.TIM_SET.PENDING = 0
      ∧ rd t Obj.TIM_STATE.LOCKED = 0
      ∧ (o.isStep = false → t.time.civil = o.sec * nsSecond + o.nsec * 4294967296 ∧ rd t Obj.TIM_STATE.VALID = 1)
      ∧ (o.isStep = true → t.time.civil = ((s.time.civil : Int) + o.stepNs * 4294967296).toNat))
  ∧ (∀ (c : Fin 16) (w : CmpWrite) (s : State), cmpLegal s w = true →
    ∃ t, exec (.timCmpWrite c w) s = .next t ∧ rd t Obj.TIM_CMP.ARM c = b2n w.arm ∧ rd t Obj.TIM_CMP.ACTION c = w.action
      ∧ rd t Obj.TIM_CMP.KIND c = b2n w.civilKind
      ∧ rd t Obj.TIM_CMP.TARGET c
          = if w.civilKind then ofInt 48 (tickOfCivil s (civilOfTs w.civil)) else w.target % 2 ^ 48)
  ∧ (∀ (c : Fin 16) (w : CmpWrite) (s : State), cmpLegal s w = false → exec (.timCmpWrite c w) s = .next s)
  ∧ (∀ (c : Fin 16) (s : State), cmpDue s c = true →
    ∃ t, exec (.comparatorFire c) s = .next t ∧ rd t Obj.TIM_CMP.FIRED c = 1
      ∧ rd t Obj.TIM_CMP.LATE c = b2n (cmpLate s c)
      ∧ rd t Obj.TIM_CMP.ARM c = if rd s Obj.TIM_CMP.PERIOD c = 0 then 0 else rd s Obj.TIM_CMP.ARM c)

/-- The network ports: a received frame is counted, or waits for the other port, whose frames leave as it has room; link
events; codewords (R342, R345, R348). -/
def Obligations.NetworkPortsComplete : Prop :=
  (∀ (port : Fin 2) (bytes : List Nat) (s : State), netPortUp s port = true →
    (isPause bytes = true → ∃ t, exec (.netFrame port bytes [] []) s = .next t
      ∧ rd t Obj.NET_STATUS.PAUSE port = (rd s Obj.NET_STATUS.PAUSE port + 1) % 2 ^ Obj.NET_STATUS.PAUSE.width)
    ∧ (isPause bytes = false → ofBe (bytes.take 6) = ofBe (leBytes 6 (rd s Obj.NET_PORT.MAC port)) →
      ∃ t, exec (.netFrame port bytes [] []) s = .next t
        ∧ rd t Obj.NET_STATUS.RX_OWN port = (rd s Obj.NET_STATUS.RX_OWN port + 1) % 2 ^ Obj.NET_STATUS.RX_OWN.width)
    ∧ (isPause bytes = false → ofBe (bytes.take 6) ≠ ofBe (leBytes 6 (rd s Obj.NET_PORT.MAC port)) →
      flag s Obj.NET_PORT.FORWARD port = true → fwdBytes s (1 - port.val) + bytes.length ≤ 262144 → s.net.ports.length = 2 →
      ∃ t, exec (.netFrame port bytes [] []) s = .next t
        ∧ (portOf t (1 - port.val)).fwd = (portOf s (1 - port.val)).fwd ++ [fwdFrame s port bytes])
    ∧ (∀ (r : Nat) (f : FwdFrame) (rest : List FwdFrame), isPause bytes = true → netPortUp s (1 - port.val) = true →
      (portOf s (1 - port.val)).fwd = f :: rest →
      ∃ t, exec (.netFrame port bytes [r] []) s = .next t ∧ (portOf t (1 - port.val)).fwd = rest
        ∧ .netFrame (1 - port.val) (ptpForward f r).bytes ∈ t.out
        ∧ rd t Obj.NET_STATUS.FORWARDED (1 - port.val)
            = (rd s Obj.NET_STATUS.FORWARDED (1 - port.val) + 1) % 2 ^ Obj.NET_STATUS.FORWARDED.width))
  ∧ (∀ (port : Fin 2) (lost : Nat) (s : State), netPortUp s port = true →
    ∃ t, exec (.netLinkDown port lost) s = .next t ∧ rd t Obj.NET_STATUS.LINK port = 0
      ∧ rd t Obj.NET_STATUS.TX_LOST port
          = (rd s Obj.NET_STATUS.TX_LOST port + lost) % 2 ^ Obj.NET_STATUS.TX_LOST.width)
  ∧ (∀ (port : Fin 2) (cr4 bypass : Bool) (s : State), netMayTrain s port = true →
    (bit (rd s Obj.NET_PORT.MEDIA port) (b2n cr4) = true →
      ∃ t, exec (.netLinkUp port cr4 bypass) s = .next t ∧ rd t Obj.NET_STATUS.LINK port = 3
        ∧ rd t Obj.NET_STATUS.MEDIA_RES port = b2n cr4
        ∧ rd t Obj.NET_STATUS.BYPASS_RES port = b2n (bypass && flag s Obj.NET_PORT.FEC_IND_BYPASS port))
    ∧ (flag s Obj.NET_PORT.AN port = true →
      ∃ t, exec (.anRestart port) s = .next t ∧ rd t Obj.NET_STATUS.LINK port = 1))
  ∧ (∀ (port : Fin 2) (corrected uncorrected : Nat) (s : State), netPortUp s port = true →
    ∃ t, exec (.netFecUncorrected port corrected uncorrected) s = .next t
      ∧ rd t Obj.NET_STATUS.FEC_CORRECTED port
          = (rd s Obj.NET_STATUS.FEC_CORRECTED port + corrected) % 2 ^ Obj.NET_STATUS.FEC_CORRECTED.width
      ∧ rd t Obj.NET_STATUS.FEC_UNCORRECTED port
          = (rd s Obj.NET_STATUS.FEC_UNCORRECTED port + uncorrected) % 2 ^ Obj.NET_STATUS.FEC_UNCORRECTED.width)

/-! ### The control complex and boot (chapter 16) -/

/-- The lockstep pair: one core drops out, both restart, and the third restart within 60 s boots cold, the failed core
returns or fails to (R352 to R354, R360); heartbeat and vote (R355, R451). -/
def Obligations.PairComplete : Prop :=
  (∀ (a b : Bool) (s : State), a ≠ b → pairActive s = true → s.ctl.pair = .paired →
    ∃ t, exec (.selfCheck a b) s = .next t ∧ t.ctl.pair = .single
      ∧ t.ctl.leadB = (if b2n b = b2n s.ctl.leadB then !s.ctl.leadB else s.ctl.leadB))
  ∧ (∀ (s : State) (c : Instr), (c = .compareMismatch ∨ c = .selfCheck true true) → pairActive s = true →
    let recent := (s.ctl.restartTimes.filter (fun t => decide (s.time.rc64 < t + 60 * ticksPerSecond))).length
    (recent < 2 → ∃ t, exec c s = .next t ∧ t.ctl.pair = .restarting ∧ t.ctl.ronecUp = false
      ∧ t.ctl.warmRestarts = (s.ctl.warmRestarts + 1) % 2 ^ 32)
    ∧ (2 ≤ recent → ∃ t, exec c s = .next t ∧ t.aon.bootId = (s.aon.bootId + 1) % 65536
      ∧ t.aon.bootFails = min 255 (s.aon.bootFails + 1)))
  ∧ (∀ s : State, s.ctl.pair = .single ∨ s.ctl.pair = .resync →
    (∃ t, exec .resyncDone s = .next t ∧ t.ctl.pair = .paired ∧ t.ctl.resyncFails = 0)
    ∧ (s.ctl.resyncFails < 2 →
      ∃ t, exec .resyncTimeout s = .next t ∧ t.ctl.pair = .resync ∧ t.ctl.resyncFails = s.ctl.resyncFails + 1))
  ∧ (∀ s : State, s.ctl.pair = .paired → s.ctl.leadB = true →
    ∃ t, exec .leadReturn s = .next t ∧ t.ctl.leadB = false ∧ t.ctl.pair = .paired)
  ∧ (∀ s : State, s.ctl.pair = .restarting →
    (∃ t, exec (.warmRestartDone true) s = .next t ∧ t.ctl.pair = .paired ∧ t.ctl.leadB = false)
    ∧ ∃ t, exec (.warmRestartDone false) s = .next t ∧ t.aon.bootId = (s.aon.bootId + 1) % 65536)
  ∧ (∀ s : State, ronecServes s = true →
    (∃ t, exec .heartbeat s = .next t ∧ t.ctl.heartbeat = (s.ctl.heartbeat + 1) % 2 ^ 32)
    ∧ exec (.configVote 0 false) s = .next s
    ∧ (∀ n, 0 < n → s.flt.active.length < 1024 →
      ∃ t, exec (.configVote n false) s = .next t ∧ faultActive t 0x100C 0 = true)
    ∧ (∀ n, ∃ t, exec (.configVote n true) s = .next t ∧ t.aon.bootId = (s.aon.bootId + 1) % 65536))

/-- Mailboxes: a frame in form joins the queue, one that is not is refused, a doorbell on a mailbox that is owned is an
error; completions and notices go to their rings; the setup of the rings; reads of BAR2 and half reads; a ring that delivers
no data (R238, R275, R291, R355 to R359, R373). -/
def Obligations.MailboxesComplete : Prop :=
  (∀ (m : Fin 8) (len : Fin 8192) (frame : List Nat) (s : State), (mailOf s m).owned = false → romServes s = false →
    modeOf s ≠ .vigil → s.ctl.mailboxes.length = 8 →
    let b := padTo len.val (frame.map (· % 256))
    (frameStatus m b len.val = 0 → (mailOf s m).queue = [] → opcodeKnown (leAt b 0 2) = true →
      (mailOf s m).cache.find? (fun e => e.seq == leAt b 4 4) = none →
      ∃ t, exec (.mailboxDoorbell m len frame) s = .next t
        ∧ (mailOf t m).queue = [⟨leAt b 0 2, bit (leAt b 3 1) 0, leAt b 4 4, (b.take (len.val - 8)).drop 16, s.time.rc64,
            false, 0, []⟩])
    ∧ (frameStatus m b len.val ≠ 0 →
      ∃ t, exec (.mailboxDoorbell m len frame) s = .next t ∧ t.ctl.hostErrs = (s.ctl.hostErrs + 1) % 2 ^ 32
        ∧ (mailOf t m).queue = (mailOf s m).queue
        ∧ ((mailOf t m).done.getLast?.map (fun c => c.response.status)) = some (frameStatus m b len.val)))
  ∧ (∀ (m : Fin 8) (len : Fin 8192) (frame : List Nat) (s : State),
    ((mailOf s m).owned || (romServes s && decide (m.val ≠ 0))) = true →
    ∃ t, exec (.mailboxDoorbell m len frame) s = .next t ∧ t.ctl.hostErrs = (s.ctl.hostErrs + 1) % 2 ^ 32
      ∧ mailOf t m = mailOf s m)
  ∧ (∀ (m : Fin 8) (s : State) (c : Completion) (rest : List Completion), (mailOf s m).done = c :: rest →
    (mailOf s m).ring.room = true → mailServed s m = true →
    ∃ t, exec (.completionWrite m) s = .next t ∧ (mailOf t m).done = rest
      ∧ (mailOf t m).ring.head = ((mailOf s m).ring.head + 1) % 2 ^ 64)
  ∧ (∀ (s : State) (n : Notice) (rest : List Notice), s.notes.queue = n :: rest → s.notes.ring.room = true →
    noticeServed s n = true → noticeFree s n = true → s.notes.droppedSince = 0 →
    ∃ t, exec .noticeWrite s = .next t ∧ t.notes.queue = rest
      ∧ t.notes.ring.head = (s.notes.ring.head + 1) % 2 ^ 64)
  ∧ (∀ s : State, 0 < s.notes.droppedSince → s.notes.queue.length < 64 →
    ∃ t tail, exec .noticeLost s = .next t ∧ t.notes.queue = s.notes.queue
      ++ ⟨s.notes.seq, ts96Now s, .lost s.notes.droppedSince s.notes.droppedTotal⟩ :: tail)
  ∧ (∀ (ring : Fin 9) (word : Fin 4) (wide : Bool) (v : Nat) (s : State),
    s.ctl.mailboxes.length = 8 →
    let old := if ring.val = 8 then s.notes.ring else (mailOf s ring).ring
    (ringSetup old (32 * word.val) (if wide && word.val % 2 == 0 then 64 else 32) v = none →
      ∃ t, exec (.completionRingSetup ring word wide v) s = .next t ∧ t.ctl.hostErrs = (s.ctl.hostErrs + 1) % 2 ^ 32)
    ∧ (∀ x, ringSetup old (32 * word.val) (if wide && word.val % 2 == 0 then 64 else 32) v = some x →
      ∃ t, exec (.completionRingSetup ring word wide v) s = .next t
        ∧ (if ring.val = 8 then t.notes.ring else (mailOf t ring).ring) = x))
  ∧ (∀ s : State, ∃ t, exec .bar0DiscardedWrite s = .next t ∧ t.ctl.hostErrs = (s.ctl.hostErrs + 1) % 2 ^ 32)
  ∧ (∀ (off : Fin 536870912) (words : Fin 513) (syndromes : List Nat) (s : State),
    (∃ t v st, exec (.bar2Read off words syndromes) s = .next t ∧ t.out = .readData 9 (8 * words.val) v st :: s.out)
    ∧ (words.val = 1 → 0x14000000 ≤ off.val → off.val < 0x14100000 →
      ∃ t, exec (.bar2Read off words syndromes) s = .next t
        ∧ t.out = .readData 9 8 (ofLe (loadBytes s (0x10000000 + (off.val / 8 * 8 - 0x14000000)) 8)) 0 :: s.out)
    ∧ (words.val = 1 → off.val < 0x14000000 → domOn s (bankDom (bankOfWord (off.val / 8))) = false →
      ∃ t, exec (.bar2Read off words syndromes) s = .next t ∧ t.out = .readData 9 8 (2 ^ 64 - 1) 2 :: s.out))
  ∧ (∀ s : State, ∃ t, exec .bar2Write s = .next t ∧ t.out = .readData 9 0 0 2 :: s.out ∧ t.mem = s.mem)
  ∧ (∀ (who : Fin 65538) (bar2 : Bool) (off : Fin 536870912) (syndrome : Nat) (s : State),
    (∃ t, exec (.halfReadLow who bar2 off syndrome) s = .next t
      ∧ mapGet t.ctl.shadow who = bits (halfWord s bar2 off syndrome).1 32 32)
    ∧ ∃ t, exec (.halfReadHigh who) s = .next t
      ∧ t.out = .readData (16 + who.val) 4 (mapGet s.ctl.shadow who) 0 :: s.out)
  ∧ (∀ (m : Fin 8) (s : State) (r : Request) (n : Nat), ReadyHead s m r.opcode r → dataRing s r = some (0, n) →
    ∃ t, exec (.ringDataTimeout m) s = .next t ∧ Answers s t m r 0x0009 (List.replicate n 0))

/-- Resets and boots (R324, R325, R361, R365, R366, R398, R454). -/
def Obligations.BootsComplete : Prop :=
  (∀ s : State, s.ctl.pair = .booting → s.aon.inReset = false → s.ctl.ronecUp = false →
    ∃ t, exec .bootRefTimeout s = .next t ∧ t.time.refPresent = false ∧ rd t Obj.PWR_DVFS.POINT = 5
      ∧ rd t Obj.TIM_STATE.HOLDOVER = 1)
  ∧ (∀ s : State, s.ctl.pair = .booting → s.ctl.ronecUp = true → s.ctl.bundleDone = true → s.time.bootWait = false →
    s.aon.inReset = false →
    ∃ t, exec .bootIdleReached s = .next t ∧ t.ctl.pair = .paired ∧ t.aon.bootFails = 0)
  ∧ (∀ s : State, bootReads s = true →
    ∃ t, exec .bootTimeout s = .next t ∧ t.aon.bootId = (s.aon.bootId + 1) % 65536
      ∧ t.aon.bootFails = min 255 (s.aon.bootFails + 1) ∧ t.mem = [])
  ∧ (∀ (s : State) (src : BootFrom), s.ctl.bootDue = some src →
    ∃ t, exec .bootCommandReboot s = .next t ∧ t.aon.bootId = (s.aon.bootId + 1) % 65536
      ∧ t.aon.bootFails = s.aon.bootFails ∧ t.mem = [])
  ∧ (∀ s : State, (∃ t, exec (.pornAssert true) s = .next t ∧ t.aon.inReset = true ∧ t.mem = [])
    ∧ exec (.pornAssert false) s = .next (raise s 0x1405 0 0 0))
  ∧ (∀ (chipId : Fin 16) (bootSrc : Fin 4) (disagree : Bool) (found : Nat) (s : State), s.aon.inReset = true →
    (∃ t, exec (.pornRelease chipId bootSrc false disagree found) s = .next t ∧ t.ctl.chipId = chipId.val
      ∧ t.ctl.bootSrc = bootSrc.val ∧ t.aon.bootId = (s.aon.bootId + 1) % 65536 ∧ t.aon.inReset = false)
    ∧ exec (.pornRelease chipId bootSrc true disagree found) s = .next (emit s (.pin 34 false)))
  ∧ (∀ s : State, ∃ t, exec .vddAonPowerUp s = .next t ∧ t.aon.bootId = 0 ∧ t.aon.inReset = true ∧ t.mem = []
    ∧ t.flt.retained = [] ∧ t.out = .pin 32 true :: s.out)

/-! ### The Ronec commands (chapter 17) -/

/-- Identity, configuration objects, tables, faults: each command that is ready commits, with this status and payload; a
command of any opcode that does not fit its length or its mode commits with that status and no payload (R370 to R372, R379
to R383, R389, R390; the empty payload is the model's choice, log entry 31). -/
def Obligations.ObjectCommandsComplete : Prop :=
  ∀ (m : Fin 8) (s : State) (r : Request),
    (ReadyHead s m 0x01 r → ∃ t, exec (.getInfo m) s = .next t ∧ Answers s t m r 0 (infoBytes s))
    ∧ (ReadyHead s m 0x10 r →
      let es := readEntries r.payload
      let out := (es.map (readBytes s)).flatten
      (firstStatus (es.map readStatus) = 0 → out.length ≤ 472 →
        ∃ t, exec (.cfgRead m) s = .next t ∧ Answers s t m r 0 out)
      ∧ (firstStatus (es.map readStatus) = 0 → 472 < out.length →
        ∃ t, exec (.cfgRead m) s = .next t ∧ Answers s t m r 0x0007 [])
      ∧ (firstStatus (es.map readStatus) ≠ 0 →
        ∃ t, exec (.cfgRead m) s = .next t ∧ Answers s t m r (firstStatus (es.map readStatus)) []))
    ∧ (ReadyHead s m 0x11 r →
      let es := entriesOf r.payload
      let sts := entryStatuses es s m r.seq
      (firstStatus sts = 0 →
        ∃ t, exec (.cfgWrite m) s = .next t ∧ Answers s t m r 0 (writeResponse es.length 0xFFFF 0))
      ∧ (firstStatus sts ≠ 0 →
        ∃ t, exec (.cfgWrite m) s = .next t ∧ t.regs = s.regs ∧ Answers s t m r (firstStatus sts)
          (writeResponse 0 (sts.findIdx (fun x => x == firstStatus sts))
            (nth es (sts.findIdx (fun x => x == firstStatus sts)) ⟨0, 0, 0, 0, 0⟩).obj)))
    ∧ (∀ data : List Nat, ReadyHead s m 0x12 r →
      let q := tableReq r.payload
      let d := (padTo q.bytes (data.map (· % 256))).take q.bytes
      (tableStatus s q true = 0 → ringStopped s q.ring = false →
        (tableValues q d).any (fun v => !tableValueOk q.obj v.2) = false → crc32c d = q.crc →
        ∃ t, exec (.tableWrite m data) s = .next t
          ∧ Answers s t m r 0 (leBytes 4 (tableValues q d).length ++ [0, 0, 0, 0]))
      ∧ (tableStatus s q true = 0 → ringStopped s q.ring = false →
        (tableValues q d).any (fun v => !tableValueOk q.obj v.2) = true →
        ∃ t, exec (.tableWrite m data) s = .next t ∧ Answers s t m r 0x0001 [])
      ∧ (tableStatus s q true ≠ 0 →
        ∃ t, exec (.tableWrite m data) s = .next t ∧ Answers s t m r (tableStatus s q true) []))
    ∧ (ReadyHead s m 0x13 r →
      let q := tableReq r.payload
      tableStatus s q false = 0 → ringStopped s q.ring = false → s.mov.rings.length = 64 →
      ∃ t, exec (.tableRead m) s = .next t ∧ Answers s t m r 0 (leBytes 4 (tableRecord s q).length ++ [0, 0, 0, 0])
        ∧ (ringOf t q.ring).queue
            = ofKindFirst 1 ((ringOf s q.ring).queue ++ [⟨.plain, tableRecord s q, false, 1⟩]))
    ∧ (ReadyHead s m 0x30 r →
      let shown := ((faultsSorted s).drop (leAt r.payload 0 2)).take 29
      ∃ t, exec (.faultList m) s = .next t ∧ Answers s t m r 0 (leBytes 2 s.flt.active.length ++ leBytes 2 shown.length
        ++ [0, 0, 0, 0] ++ (shown.map (faultEntry s)).flatten))
    ∧ (ReadyHead s m 0x31 r →
      let named := s.flt.active.filter (fun x =>
        x.code == leAt r.payload 0 2 && (leAt r.payload 2 2 == 0xFFFF || x.inst == leAt r.payload 2 2))
      let ok := named.filter (mayAcknowledge s)
      ∃ t, exec (.faultAck m) s = .next t
        ∧ Answers s t m r (if leAt r.payload 2 2 ≠ 0xFFFF ∧ named.length - ok.length ≠ 0 then 0x0002 else 0)
            (leBytes 2 ok.length ++ leBytes 2 (named.length - ok.length) ++ [0, 0, 0, 0]))
    ∧ ∀ (data : List Nat) (readings : List ProbeReading) (ev : CellCalEvent) (ok : Bool) (failed : Option Nat),
      ∀ x ∈ [(0x01, Instr.getInfo m), (0x10, .cfgRead m), (0x11, .cfgWrite m), (0x12, .tableWrite m data),
        (0x13, .tableRead m), (0x20, .softTrigger m), (0x21, .integStop m), (0x22, .probeSweep m readings),
        (0x23, .cellCal m ev), (0x24, .convCapture m), (0x30, .faultList m), (0x31, .faultAck m), (0x32, .logRead m),
        (0x40, .compress m data), (0x41, .decompress m data), (0x50, .imageLoad m data), (0x51, .imageFlash m ok),
        (0x52, .imageServe m), (0x53, .rollbackCommit m failed), (0x54, .boot m)],
        mailServed s m = true → (mailOf s m).queue = [r] → r.opcode = x.1 → r.started = false → r.attached = [] →
        early s r.opcode r.payload ≠ 0 →
        ∃ t, exec x.2 s = .next t ∧ Answers s t m r (early s r.opcode r.payload) []

/-- Acquisition and calibration commands start, or commit at once (R384 to R388). -/
def Obligations.AcquisitionCommandsComplete : Prop :=
  ∀ (m : Fin 8) (s : State) (r : Request),
    (ReadyHead s m 0x20 r →
      (sourceOn s 2 = false → ∃ t n, exec (.softTrigger m) s = .next t ∧ s.time.rc64 ≤ n ∧ n ≤ s.time.rc64 + 32
        ∧ Answers s t m r 0 (softResponse 6 n 0))
      ∧ (sourceOn s 2 = true → s.trg.running = true →
        ∃ t n, exec (.softTrigger m) s = .next t ∧ s.time.rc64 ≤ n ∧ n ≤ s.time.rc64 + 32
          ∧ t.trg.known = s.trg.known ++ [plainCondition n 2]
          ∧ (mailOf t m).queue = [{ r with started := true, step := n }])
      ∧ (sourceOn s 2 = true → s.trg.running = false →
        ∃ t, exec (.softTrigger m) s = .next t ∧ Answers s t m r 0x0023 []))
    ∧ (ReadyHead s m 0x21 r →
      (dahCur s = none → ∃ t, exec (.integStop m) s = .next t ∧ Answers s t m r 0x0002 [])
      ∧ ((dahCur s).isSome = true → ∃ t, exec (.integStop m) s = .next t
          ∧ Answers s t m r 0 (leBytes 4 (toGroupSpx s (s.dah.stopAt.getD (nextBlock s))) ++ [0, 0, 0, 0])))
    ∧ (∀ readings : List ProbeReading, ReadyHead s m 0x22 r → sweepStatus s r.payload = 0 →
      ringStopped s (leAt r.payload 37 1) = false →
      ∃ t, exec (.probeSweep m readings) s = .next t ∧ t.afe.sweepMask = leAt r.payload 0 32
        ∧ t.afe.sweep = some (sweepPoint (leAt r.payload 0 32) (leAt r.payload 32 1))
        ∧ (mailOf t m).queue = [{ r with started := true }])
    ∧ (∀ ev : CellCalEvent, ReadyHead s m 0x23 r → runsOp s [0x23] = false →
      ∃ t, exec (.cellCal m ev) s = .next t ∧ (mailOf t m).queue = [{ r with started := true }])
    ∧ (ReadyHead s m 0x24 r → leAt r.payload 4 4 ≠ 0 → leAt r.payload 4 4 ≤ 32768 →
      leAt r.payload 8 8 < s.time.rc64 + 2 ^ 47 → runsOp s [0x24] = false →
      ∃ t, exec (.convCapture m) s = .next t ∧ t.cnv.capture
        = some ⟨leAt r.payload 0 1, leAt r.payload 4 4, max (leAt r.payload 8 8) s.time.rc64, none, 0⟩)

/-- Compression, log and image commands (R391 to R398). -/
def Obligations.JobAndImageCommandsComplete : Prop :=
  ∀ (m : Fin 8) (s : State) (r : Request),
    (∀ data : List Nat, ReadyHead s m 0x40 r → compressCheck s r.payload = 0 → ringStopped s (leAt r.payload 2 1) = false →
      ringStopped s (leAt r.payload 3 1) = false → s.cmp.queues.length = 3 →
      ∃ t j, exec (.compress m data) s = .next t ∧ nth t.cmp.queues 0 [] = nth s.cmp.queues 0 [] ++ [j]
        ∧ j.input.length = leAt r.payload 4 4 ∧ j.level = leAt r.payload 0 1 ∧ j.ring = leAt r.payload 3 1)
    ∧ (∀ data : List Nat, ReadyHead s m 0x41 r → decompressCheck s r.payload = 0 →
      ringStopped s (leAt r.payload 2 1) = false → ringStopped s (leAt r.payload 3 1) = false → s.cmp.queues.length = 3 →
      ∃ t j, exec (.decompress m data) s = .next t
        ∧ nth t.cmp.queues (1 + leAt r.payload 0 1) [] = nth s.cmp.queues (1 + leAt r.payload 0 1) [] ++ [j]
        ∧ j.input.length = leAt r.payload 4 4 ∧ j.limit = leAt r.payload 8 4)
    ∧ (ReadyHead s m 0x32 r → leAt r.payload 0 1 ≤ 1 → leAt r.payload 1 1 = 0 → leAt r.payload 2 1 ≤ 9 →
      ringIs s (leAt r.payload 3 1) 1 = true → s.mov.rings.length = 64 →
      let es := logEntries s (leAt r.payload 0 1)
      let raw := (es.map LogEntry.bytes).flatten
      let whole := trailed ([0x4C, 0x4F, 0x47, 0x52, leAt r.payload 0 1, 0, 0, 0] ++ leBytes 4 es.length
        ++ leBytes 4 raw.length ++ raw)
      ∃ t, exec (.logRead m) s = .next t
        ∧ Answers s t m r 0 (leBytes 4 es.length ++ leBytes 4 whole.length ++ leBytes 4 (crc32c raw))
        ∧ (ringOf t (leAt r.payload 3 1)).queue
            = ofKindFirst 1 ((ringOf s (leAt r.payload 3 1)).queue ++ [⟨.plain, whole, false, 1⟩]))
    ∧ (ReadyHead s m 0x32 r → leAt r.payload 0 1 ≤ 1 → (leAt r.payload 1 1 = 1 ∨ leAt r.payload 1 1 = 2) →
      leAt r.payload 2 1 ≤ 9 → ringIs s (leAt r.payload 3 1) 1 = true → modeOf s ≠ .image → modeOf s ≠ .beam →
      engineFull s 0 = false → s.cmp.queues.length = 3 →
      ∃ t j, exec (.logRead m) s = .next t ∧ nth t.cmp.queues 0 [] = nth s.cmp.queues 0 [] ++ [j]
        ∧ j.input = ((logEntries s (leAt r.payload 0 1)).map LogEntry.bytes).flatten ∧ j.wrap = leAt r.payload 1 1 - 1)
    ∧ (∀ data : List Nat, ReadyHead s m 0x50 r → loadStatus s r.payload = 0 → leAt r.payload 0 1 = 0 →
      ringStopped s (leAt r.payload 1 1) = false → s.ctl.waitsForImage = false →
      let b := (padTo (leAt r.payload 4 4) (data.map (· % 256))).take (leAt r.payload 4 4)
      let c := imageCheck s (leAt r.payload 2 1) b
      ∃ t, exec (.imageLoad m data) s = .next t ∧ Answers s t m r (if c = 0 then 0 else 0x0030) (loadResponse c b)
        ∧ t.ctl.staged = (if c = 0 then some ⟨leAt r.payload 2 1, b⟩ else none))
    ∧ (ReadyHead s m 0x51 r → flashStatus s r.payload = 0 →
      ∃ t, exec (.imageFlash m true) s = .next t ∧ (mailOf t m).queue = [{ r with started := true }])
    ∧ (ReadyHead s m 0x52 r →
      (s.ctl.staged = none → ∃ t, exec (.imageServe m) s = .next t ∧ Answers s t m r 0x0002 [])
      ∧ (∀ x, s.ctl.staged = some x → leAt r.payload 2 1 = 0 →
        ∃ t, exec (.imageServe m) s = .next t ∧ Answers s t m r 0 [] ∧ t.ctl.serveLinks = 0)
      ∧ (∀ x, s.ctl.staged = some x → leAt r.payload 2 1 = 1 →
        ∃ t, exec (.imageServe m) s = .next t ∧ Answers s t m r 0 [] ∧ t.ctl.serveLinks = leAt r.payload 0 2))
    ∧ (ReadyHead s m 0x53 r → leAt r.payload 0 1 ≤ 64 → leAt r.payload 0 1 ≤ s.ctl.fwSecurity →
      s.ctl.rollback ≤ leAt r.payload 0 1 → runsOp s [0x50, 0x51, 0x53] = false →
      ∃ t, exec (.rollbackCommit m none) s = .next t ∧ t.ctl.rollback = leAt r.payload 0 1
        ∧ Answers s t m r 0 (leAt r.payload 0 1 :: List.replicate 7 0))
    ∧ (ReadyHead s m 0x54 r →
      (leAt r.payload 0 1 = 0 ∨ leAt r.payload 0 1 = 2 ∨ leAt r.payload 0 1 = 3) →
      (leAt r.payload 2 2 = s.aon.bootId → ∃ t, exec (.boot m) s = .next t
        ∧ Answers s t m r 0 (1 :: List.replicate 7 0) ∧ t.ctl.bootDue = some (bootFromOf (leAt r.payload 0 1)))
      ∧ (leAt r.payload 2 2 ≠ s.aon.bootId → ∃ t, exec (.boot m) s = .next t
        ∧ Answers s t m r 0 (List.replicate 8 0) ∧ t.ctl.bootDue = s.ctl.bootDue))

/-! ### Power and energy (chapter 18) -/

/-- The governor grants a segment that the credit covers and none else; power-good; sleep responses, where a domain whose
input queue holds a packet, or which must keep what it holds, does not sleep yet; ballast; points; regulators (R405, R408 to
R418). -/
def Obligations.PowerComplete : Prop :=
  (∀ (s : State) (p : Paced), nextGrant s = some p → ((min 10 p.left : Nat) : Int) * 16000 ≤ creditNow s →
    ∃ t, exec .governorGrant s = .next t
      ∧ t.pwr.est = s.pwr.est + (if p.up then ((min 10 p.left : Nat) : Int) else -((min 10 p.left : Nat) : Int))
      ∧ rd t Obj.PWR_STATUS.SEGMENTS = (rd s Obj.PWR_STATUS.SEGMENTS + 1) % 2 ^ Obj.PWR_STATUS.SEGMENTS.width)
  ∧ (∀ (s : State) (p : Paced), nextGrant s = some p → creditNow s < ((min 10 p.left : Nat) : Int) * 16000 →
    exec .governorGrant s = .next s)
  ∧ (∀ s : State, nextGrant s = none → exec .governorGrant s = .next s)
  ∧ (∀ (d : Fin 394) (s : State), domState s d = 1 → (∀ p ∈ s.pwr.queue, p.dom ≠ d.val) →
    s.pwr.fromRetain.contains d.val = false → s.aon.phase ≠ .resuming →
    ∃ t, exec (.domainPowerGood d) s = .next t ∧ domState t d = 2)
  ∧ (∀ (d : Fin 394) (s : State) (q : SleepReq), sleepOf s d = some q →
    (q.refused = false → inputWaits s d = false → q.cls = 2 ∨ mustKeep s d = false →
      ∃ t, exec (.sleepAck d) s = .next t ∧ sleepOf t d = none
      ∧ rd t Obj.PWR_DOMAIN.HELD d = 0 ∧ t.pwr.queue = s.pwr.queue ++ [⟨q.cls, d, false, Config.stepMa d, .falls q.target⟩])
    ∧ (q.refused = true ∨ inputWaits s d = true ∨ (q.cls ≠ 2 ∧ mustKeep s d = true) → exec (.sleepAck d) s = .next s)
    ∧ (q.refused = false → ∃ t, exec (.sleepDefer d) s = .next t ∧ sleepOf t d = some { q with deferred := true }
      ∧ rd t Obj.PWR_DOMAIN.DEFERS d = satAdd Obj.PWR_DOMAIN.DEFERS.width (rd s Obj.PWR_DOMAIN.DEFERS d) 1)
    ∧ (q.refused = false → q.cls ≠ 2 → ∃ t, exec (.sleepRefuse d) s = .next t
      ∧ sleepOf t d = some { q with refused := true } ∧ (domState s d = 3 → domState t d = 2))
    ∧ (∃ t, exec (.sleepRetry d) s = .next t ∧ sleepOf t d = some { q with refused := false })
    ∧ (q.deferred = true → ∃ t, exec (.sleepStalled d) s = .next t ∧ rd t Obj.PWR_DOMAIN.HELD d = 1))
  ∧ (∀ (d : Fin 394) (s : State), domOn s d = true → domBlock d ≠ 0 → bit s.mov.gated (domBlock d) = true →
    rd s Obj.PWR_DOMAIN.PARKED d = 0 → s.pwr.queue = [] →
    ∃ t, exec (.ballastPark d) s = .next t
      ∧ t.pwr.queue = if 10 < Config.stepMa d then [⟨4, d, false, Config.stepMa d, .parks⟩] else [])
  ∧ (∀ s : State, s.pwr.point = none →
    let p := rd s Obj.PWR_DVFS.POINT
    ((2 * rd s Obj.PWR_DVFS.THROTTLE_C : Nat) < s.bbl.tj → p < rd s Obj.PWR_DVFS.SLOWEST →
      ∃ t, exec .dvfsThrottleStep s = .next t ∧ t.pwr.point = some ⟨p + 1, false⟩)
    ∧ (s.bbl.tj < 2 * (rd s Obj.PWR_DVFS.THROTTLE_C : Nat) - 10 → rd s Obj.PWR_DVFS.TARGET < p →
      ∃ t, exec .dvfsRecoverStep s = .next t ∧ t.pwr.point = some ⟨p - 1, false⟩))
  ∧ (∀ s : State, rd s Obj.PWR_DVFS.POINT = rd s Obj.PWR_DVFS.SLOWEST → 200 < s.bbl.tj →
    ∃ t, exec .thermalLimit s = .next t ∧ t = raise s 0x1107 0 371 (Config.stepMa 371)
      ∧ ((modeOf s).isData = true → phaseOf s = .steady → phaseOf t = .aborting ∧ modeTarget t = .idle))
  ∧ (∀ (mv : Nat) (s : State) (c : PointChange), s.pwr.point = some c → c.granted = true →
    (pointMv c.aim ≤ mv + 10 → ∃ t, exec (.readVoutPoll mv) s = .next t ∧ rd t Obj.PWR_DVFS.POINT = c.aim % 8)
    ∧ ∃ t, exec .voutTimeout s = .next t ∧ t.pwr.point = none
      ∧ rd t Obj.PWR_DVFS.POINT = rd s Obj.PWR_DVFS.POINT)
  ∧ (∀ (r : Fin 8) (s : State), s.aon.pwrReq = true → rd s Obj.PWR_REG.ADDR r ≠ 0 → rd s Obj.PWR_REG.RAIL r ≠ 0 →
    bit (rd s Obj.PWR_FOUND.FOUND) (rd s Obj.PWR_REG.ADDR r) = true →
    (∃ t, exec (.pmbusPoll r none) s = .next t
      ∧ rd t Obj.PWR_REG_STATUS.ERRORS r = satAdd Obj.PWR_REG_STATUS.ERRORS.width (rd s Obj.PWR_REG_STATUS.ERRORS r) 1)
    ∧ ∀ status mv, ∃ t, exec (.pmbusPoll r (some (status, mv))) s = .next t
      ∧ rd t Obj.PWR_REG_STATUS.STATUS_WORD r = status % 2 ^ 16 ∧ rd t Obj.PWR_REG_STATUS.VOUT_MV r = mv % 2 ^ 16)

/-- The end of the entry to Dormant, the wake sources, the way out of Dormant; latch-ups, which cut their domain, and of
control SRAM boot cold; the always-on overcurrent, pins, count summaries (R414, R420 to R424, R447, R452 to R454). -/
def Obligations.WakesAndLatchupsComplete : Prop :=
  (∀ s : State, s.aon.phase = .waitPme →
    (∃ t, exec .pmeTurnOff s = .next t ∧ t.ctl.ronecUp = false ∧ t.aon.phase ≠ .waitPme)
    ∧ ∃ t, exec .pmeWaitTimeout s = .next t ∧ t.ctl.ronecUp = false ∧ t.aon.phase ≠ .waitPme)
  ∧ (∀ (p : Fin 2) (s : State), rd s (if p.val = 0 then Obj.AON_WAKE_EN.AIN6_EN else Obj.AON_WAKE_EN.AIN7_EN) ≠ 0 →
    ∃ t, exec (.ainWake p) s = .next t ∧ bit (rd t Obj.AON_LAST_WAKE.SOURCES) p = true)
  ∧ (∀ s : State, rd s Obj.AON_ALARM.ARM ≠ 0 → rd s Obj.AON_ALARM.TARGET ≤ s.time.rc64 →
    ∃ t, exec .alarmWake s = .next t ∧ rd t Obj.AON_ALARM.FIRED = 1 ∧ rd t Obj.AON_ALARM.ARM = 0
      ∧ (flag s Obj.AON_WAKE_EN.ALARM_EN = true → bit (rd t Obj.AON_LAST_WAKE.SOURCES) 2 = true))
  ∧ (∀ (level : Bool) (s : State), rd s Obj.AON_WAKE_EN.HOSTWAKE_EN ≠ 0 →
    level = !flag s Obj.AON_WAKE_EN.HOSTWAKE_EDGE →
    ∃ t, exec (.hostwakeEdge level) s = .next t ∧ bit (rd t Obj.AON_LAST_WAKE.SOURCES) 3 = true)
  ∧ (∀ s : State, s.aon.phase = .minOff →
    ∃ t, exec .minOffExpired s = .next t ∧ t.aon.phase = .rails ∧ t.aon.pwrReq = true)
  ∧ (∀ s : State, s.aon.phase = .rails →
    (∃ t, exec (.railsGood true) s = .next t ∧ t.aon.phase = .resuming)
    ∧ (∃ t, exec (.railsGood false) s = .next t ∧ t.aon.bootId = (s.aon.bootId + 1) % 65536)
    ∧ ∃ t, exec .railsGoodTimeout s = .next t ∧ t.aon.phase = .asleep ∧ t.aon.pwrReq = false
      ∧ rd t Obj.AON_LAST_WAKE.RAILS_LATE = 1)
  ∧ (∀ s : State, s.aon.pcieWake = true → s.aon.pcieLink = 2 →
    ∃ t, exec .pcieLinkLeavesL2 s = .next t ∧ t.aon.pcieWake = false ∧ t.aon.pcieLink = 0 ∧ t.out = .pin 33 true :: s.out)
  ∧ (∀ (d : Fin 394) (s : State), domOn s d = true → d.val < 390 → d.val ≠ 367 → d.val ≠ 368 →
    (d.val = 365 ∨ d.val = 366 → s.ctl.pair = .paired) →
    let recent := (s.pwr.cycles.filter (fun x => decide (s.time.rc64 < x.2 + 60 * ticksPerSecond))).filter
      (fun x => x.1 == d.val)
    ∃ t, exec (.latchup d) s = .next t ∧ domState t d = (if 2 ≤ recent.length then 0 else 7)
      ∧ rd t Obj.PWR_STATUS.LATCHUP_CYCLES
          = (rd s Obj.PWR_STATUS.LATCHUP_CYCLES + 1) % 2 ^ Obj.PWR_STATUS.LATCHUP_CYCLES.width)
  ∧ (∀ (d : Fin 394) (s : State), domOn s d = true → d.val = 367 ∨ d.val = 368 →
    ∃ t, exec (.latchup d) s = .next t ∧ t.aon.bootId = (s.aon.bootId + 1) % 65536)
  ∧ (∀ (d : Fin 394) (s : State), domState s d = 7 →
    ∃ t, exec (.latchupRestore d) s = .next t ∧ domState t d = 1)
  ∧ (∀ s : State, ∃ t, exec .aonOvercurrent s = .next t ∧ t.aon.overcurrent = true)
  ∧ (∀ (code inst : Nat) (s : State) (x : FaultInst), findFault s code inst = some x → ratedCodes.contains code = true →
    x.sinceNotice ≠ 0 →
    ∃ t, exec (.faultCountSummary code inst) s = .next t ∧ findFault t code inst = some { x with sinceNotice := 0 })
  ∧ (∀ (p : Fin 3) (s : State), ∃ t, exec (.pinPulseFiltered p) s = .next t ∧ t = raise s 0x1405 0 0 0)

/-! ### Housekeeping and the injectors (chapter 19) -/

/-- The housekeeping sequencer: starts and stops, at once or after the conversion in progress, results, delays, the ADC's
wake, the pin HKSTART, the copy of the buffer; STAT (R335, R428 to R433). -/
def Obligations.HousekeepingComplete : Prop :=
  (∀ s : State, s.hk.run = none →
    ∃ t, exec .hkStart s = .next t ∧ rd t Obj.HK_STATUS.RUNNING = 1
      ∧ rd t Obj.HK_STATUS.RUNS = (rd s Obj.HK_STATUS.RUNS + 1) % 2 ^ Obj.HK_STATUS.RUNS.width)
  ∧ (∀ (s : State) (r : HkRun), s.hk.run = some r →
    (r.converting = true → ∃ t, exec .hkStart s = .next t
      ∧ t.hk.startNext = some (rd s Obj.HK_CTRL.START_ENTRY % 64)
      ∧ rd t Obj.HK_STATUS.RESTARTS = (rd s Obj.HK_STATUS.RESTARTS + 1) % 2 ^ Obj.HK_STATUS.RESTARTS.width)
    ∧ (r.converting = false → ∃ t, exec .hkStart s = .next t
      ∧ rd t Obj.HK_STATUS.RUNS = (rd s Obj.HK_STATUS.RUNS + 1) % 2 ^ Obj.HK_STATUS.RUNS.width
      ∧ rd t Obj.HK_STATUS.RESTARTS = (rd s Obj.HK_STATUS.RESTARTS + 1) % 2 ^ Obj.HK_STATUS.RESTARTS.width)
    ∧ (r.converting = true → ∃ t, exec .hkStop s = .next t ∧ t.hk.stopNext = true)
    ∧ (r.converting = false → ∃ t, exec .hkStop s = .next t ∧ t.hk.run = none)
    ∧ (r.converting = true → s.hk.startNext = none → s.hk.stopNext = false → ∀ value : Int,
      ∃ t, exec (.hkConversionDone value) s = .next t
        ∧ t.hk.run = some { r with converting := false, due := false })
    ∧ (r.converting = false → r.due = false →
      ∃ t x, exec .hkDelayExpired s = .next t ∧ t.hk.run = some x ∧ rd t Obj.HK_STATUS.RUNNING = 1
        ∧ x.entry = (if r.rep + 1 < lv s Obj.HK_SEQ.REPEAT r.entry then r.entry else entryAfter s r))
    ∧ (domState s 373 = 0 → s.pwr.queue = [] → s.pwr.barred.contains 373 = false →
      ∃ t, exec .hkWakeTimer s = .next t ∧ t.pwr.queue = [⟨3, 373, true, Config.stepMa 373, .wakes⟩]))
  ∧ (∀ (level : Bool) (s : State), s.time.off = false →
    ∃ t, exec (.hkstartEdge level) s = .next t ∧ rd t Obj.TIM_CAPTURE.LEVEL 1 = b2n level
      ∧ rd t Obj.TIM_CAPTURE.RC64 1 = s.time.rc64 % 2 ^ 64)
  ∧ (∀ (level : Bool) (s : State), s.hk.run = none → lv s Obj.HK_CTRL.HKSTART_EN 0 = 1 →
    level = decide (lv s Obj.HK_CTRL.HKSTART_EDGE 0 = 0) →
    ∃ t, exec (.hkstartEdge level) s = .next t ∧ rd t Obj.HK_STATUS.RUNNING = 1
      ∧ rd t Obj.HK_STATUS.RUNS = (rd s Obj.HK_STATUS.RUNS + 1) % 2 ^ Obj.HK_STATUS.RUNS.width)
  ∧ (∀ s : State, hkBankOn s = true → ∃ t, exec .hkBufferCopy s = .next t ∧ t.hk.buffer = [])
  ∧ (∀ s : State, s.aon.inReset = false →
    (s.hk.statHalted && s.ctl.heartbeat == s.hk.statBeat && ronecServes s) = false →
    ∃ t, exec .statPeriod s = .next t ∧ t.out = .drive 6 (statHz s) (statWidth s) :: s.out)
  ∧ (∀ s : State, ronecServes s = true →
    ∃ t, exec .heartbeatStall s = .next t ∧ t.hk.statHalted = true ∧ t.out = .pin 34 false :: s.out)

/-- The injector strings: plans, slots, judgements, where a third failure of a class or a short declares a fault, pulses,
overcurrent, `ENABLE` = 0 (R435, R437 to R441, R444). -/
def Obligations.InjectorsComplete : Prop :=
  (∀ (p : Fin 8) (n : Fin 16) (s : State), s.cal.strings.length = 16 → calOn s = true → n.val ∈ startable s (rd s Obj.CAL_PLAN.STRINGS p) →
    ∃ t, exec (.calPlanStart p) s = .next t ∧ rd t Obj.CAL_STATUS.STATE n = 1 ∧ (stringOf t n).phase = .check)
  ∧ (∀ (p : Fin 8) (n : Fin 16) (s : State), bit (rd s Obj.CAL_PLAN.STRINGS p) n = true →
    (stringOf s n).phase = .running → ∃ t, exec (.calPlanStop p) s = .next t ∧ (stringOf t n).phase = .stopping)
  ∧ (∀ (n : Fin 16) (s : State), ∃ t, exec (.calStringDisable n) s = .next t ∧ rd t Obj.CAL_STRING.ENABLE n = 0
    ∧ lv t Obj.CAL_STRING.ENABLE n = 0 ∧ (stringOf t n).phase = .idle)
  ∧ (∀ (n : Fin 16) (s : State), stringRuns s n = true → s.time.rc64 % 2048 = 0 →
    frameNow s % 2 ^ lv s Obj.CAL_STRING.SLOT_LOG n = 0 →
    ∃ t, exec (.calSlotBoundary n) s = .next t ∧ rd t Obj.CAL_STATUS.ON_NOW n = b2n (steersOn s n (frameNow s)))
  ∧ (∀ (n : Fin 16) (avg below : Nat) (s : State), stringRuns s n = true ∨ (stringOf s n).phase = .check →
    (9 * commanded s n ≤ 10 * avg → 10 * avg ≤ 11 * commanded s n →
      ∃ t, exec (.calRunJudged n avg 0 0) s = .next t
        ∧ rd t Obj.CAL_STATUS.SENSED n = avg % 2 ^ Obj.CAL_STATUS.SENSED.width
        ∧ (stringOf t n).failRun = 0 ∧ (stringOf t n).lastJudged = judgedAt s n)
    ∧ (20 * avg < commanded s n → (stringOf s n).failClass = 1 → (stringOf s n).failRun = 2 →
      ∃ t, exec (.calRunJudged n avg 0 0) s = .next t ∧ rd t Obj.CAL_STATUS.STATE n = 2 ∧ (stringOf t n).stuck = true)
    ∧ (n.val ≠ 0 → flag s Obj.CAL_STATUS.ON_NOW (n.val - 1) = false → commanded s n < 20 * below →
      ∃ t, exec (.calRunJudged n avg below 0) s = .next t ∧ rd t Obj.CAL_STATUS.STATE n = 3
        ∧ rd t Obj.CAL_STATUS.STATE (n.val - 1) = 3))
  ∧ (∀ (n : Fin 16) (s : State), stringRuns s n = true → s.time.rc64 % 2048 = 0 →
    frameNow s % 2 ^ 32 % 781250 = 0 → (stringOf s n).lastJudged + 1600000000 ≤ s.time.rc64 →
    ∃ t, exec (.calDiagnosticPulse n) s = .next t
      ∧ rd t Obj.CAL_STATUS.DIAG_PULSES n
          = (rd s Obj.CAL_STATUS.DIAG_PULSES n + 1) % 2 ^ Obj.CAL_STATUS.DIAG_PULSES.width)
  ∧ (∀ (n : Fin 16) (current : Nat) (s : State), (stringOf s n).phase ≠ .idle →
    (3 * commanded s n < 2 * current ∨ 6000 < current) →
    ∃ t, exec (.calOvercurrent n current) s = .next t ∧ rd t Obj.CAL_STATUS.STATE n = 4 ∧ (stringOf t n).stuck = true
      ∧ (stringOf t n).phase = .idle)

/-! ### Frames: what a command leaves unchanged.  The numbers of the objects are those of their field maps. -/

/-- Frame of the receiver inputs, Bluebell, the converters, the channelizer, the trigger engine, event fragments:
from a state to the next one, every part but the ones named is the same. -/
def Obligations.FrameSignal : Prop :=
  ∀ s t : State,
    (∀ idx, exec (.clampTrip idx) s = .next t → Touches [.afe, .flt, .notes, .obj 0x0103, .obj 0x0C06] s t) ∧
    (∀ idx, exec (.clampRelease idx) s = .next t → Touches [.afe, .flt] s t) ∧
    (∀ idx, exec (.clampLong idx) s = .next t → Touches [.flt, .notes, .obj 0x0C06] s t) ∧
    (∀ idx, exec (.arcEvaluation idx) s = .next t → Touches [.afe, .free] s t) ∧
    (exec .frameBoundary s = .next t → Touches [.afe, .cal, .cnv, .live, .out, .trg, .obj 0x0103, .obj 0x0106, .obj
      0x1304] s t) ∧
    (∀ idx, exec (.rangeForced idx) s = .next t → Touches [.afe, .flt, .notes, .obj 0x0103, .obj 0x0C06] s t) ∧
    (∀ idx r, exec (.probeIntervalEnd idx r) s = .next t → Touches [.afe, .flt, .free, .live, .notes, .obj 0x0103,
      .obj 0x0106, .obj 0x0C06] s t) ∧
    (∀ idx, exec (.rmsWindowEnd idx) s = .next t → Touches [.afe, .flt, .notes, .obj 0x0103, .obj 0x0C06] s t) ∧
    (exec .segmentBoundary s = .next t → Touches [.bbl, .live, .pwr, .obj 0x0205, .obj 0x0509, .obj 0x0A04, .obj
      0x1011] s t) ∧
    (exec .freezeStrobe s = .next t → Touches [.bbl, .trg, .obj 0x0205, .obj 0x0508, .obj 0x0509] s t) ∧
    (∀ idx half, exec (.envelopeCrossing idx half) s = .next t → Touches [.bbl, .evt, .pwr, .trg, .obj 0x0205, .obj
      0x0509, .obj 0x0A04, .obj 0x1011] s t) ∧
    (exec .windowConversionStart s = .next t → Touches [.bbl, .flt, .notes, .obj 0x0205, .obj 0x0C06] s t) ∧
    (∀ raw, exec (.segmentConverted raw) s = .next t → Touches [.bbl, .mov, .pwr, .obj 0x1106] s t) ∧
    (exec .windowReadoutDone s = .next t → Touches [.bbl, .obj 0x0207] s t) ∧
    (exec .digitizerIdleTimeout s = .next t → Touches [.bbl, .pwr, .obj 0x0A04] s t) ∧
    (exec .captureWakeSetReady s = .next t → Touches [.bbl, .ctl] s t) ∧
    (exec .captureLingerExpired s = .next t → Touches [.bbl, .ctl, .pwr, .obj 0x0A04] s t) ∧
    (∀ tj, exec (.tjSensorRead tj) s = .next t → Touches [.aon, .bbl, .flt, .modes, .notes, .pwr, .obj 0x0205, .obj
      0x0A04, .obj 0x0C06, .obj 0x1011] s t) ∧
    (exec .calStale s = .next t → Touches [.flt, .notes, .obj 0x0C06] s t) ∧
    (∀ w, exec (.converterWord w) s = .next t → Touches [.afe, .axl, .bbl, .cnv, .ctl, .evt, .flt, .mem, .mov,
      .notes, .out, .peer, .pwr, .trg, .obj 0x0506, .obj 0x0508, .obj 0x0509, .obj 0x0A04, .obj 0x0C06, .obj
      0x0D05] s t) ∧
    (exec .trigoutWidthEnd s = .next t → Touches [.out, .trg] s t) ∧
    (∀ level stable, exec (.triginEdge level stable) s = .next t → Touches [.flt, .notes, .trg, .obj 0x0C06, .obj
      0x0E07] s t) ∧
    (∀ port m, exec (.axrelTriggerMessage port m) s = .next t → Touches [.flt, .notes, .trg, .obj 0x0C06] s t) ∧
    (exec .holdoffEnd s = .next t → Touches [.obj 0x0509] s t) ∧
    (exec .triggerRecordRelease s = .next t → Touches [.mov, .pwr, .trg, .obj 0x1106] s t) ∧
    (exec .bucketToken s = .next t → Touches [.trg, .obj 0x0509] s t) ∧
    (∀ estimator, exec (.cnvCalUpdate estimator) s = .next t → Touches [.cnv] s t) ∧
    (exec .cnvCoeffStore s = .next t → Touches [.cnv, .obj 0x0303] s t) ∧
    (∀ upsets, exec (.spectrumComplete upsets) s = .next t → Touches [.axl, .chz, .dah, .flt, .fst, .live, .mem,
      .mov, .notes, .out, .peer, .pwr, .sun, .obj 0x0401, .obj 0x0404, .obj 0x0405, .obj 0x0406, .obj 0x0C06,
      .obj 0x0D05, .obj 0x1106] s t) ∧
    (∀ sunPath, exec (.spectrumDeadlineMiss sunPath) s = .next t → Touches [.axl, .chz, .flt, .fst, .mem, .mov,
      .notes, .out, .peer, .pwr, .sun, .obj 0x0406, .obj 0x0C06, .obj 0x0D05, .obj 0x1106] s t) ∧
    (∀ images, exec (.blockBoundary images) s = .next t → Touches [.cal, .chz, .cnv, .flt, .live, .notes, .out,
      .pwr, .sun, .trg, .obj 0x0301, .obj 0x0302, .obj 0x0406, .obj 0x050A, .obj 0x0907, .obj 0x0A04, .obj
      0x0C06, .obj 0x1011, .obj 0x1304] s t) ∧
    (exec .fragmentReserve s = .next t → Touches [.bbl, .evt, .flt, .notes, .trg, .obj 0x0604, .obj 0x0C06] s t) ∧
    (exec .segmentToEvent s = .next t → Touches [.bbl, .cmp, .evt, .mov, .pwr, .obj 0x1106] s t) ∧
    (exec .fragmentBuilt s = .next t → Touches [.evt, .flt, .free, .mem, .notes, .obj 0x0604, .obj 0x0C06] s t) ∧
    (∀ serial, exec (.fragmentSend serial) s = .next t → Touches [.axl, .evt, .mov, .out, .peer, .pwr, .obj 0x0A04,
      .obj 0x0D05, .obj 0x1011, .obj 0x1106] s t) ∧
    (∀ serial, exec (.fragmentAnnounce serial) s = .next t → Touches [.axl, .evt, .out, .peer, .obj 0x0D05] s t) ∧
    (∀ serial, exec (.fragmentTransferDone serial) s = .next t → Touches [.evt, .flt, .notes, .obj 0x0604, .obj
      0x0C06] s t) ∧
    (∀ serial, exec (.fragmentOfferTimer serial) s = .next t → Touches [.axl, .evt, .flt, .notes, .out, .peer, .obj
      0x0C06, .obj 0x0D05] s t) ∧
    (∀ serial, exec (.replyAccept serial) s = .next t → Touches [.axl, .evt, .flt, .notes, .obj 0x0603, .obj 0x0604,
      .obj 0x0C06] s t) ∧
    (∀ serial, exec (.replyReject serial) s = .next t → Touches [.axl, .evt, .flt, .notes, .obj 0x0603, .obj 0x0604,
      .obj 0x0C06] s t) ∧
    (∀ serial globalId, exec (.replyRequest serial globalId) s = .next t → Touches [.axl, .evt, .flt, .mem, .notes,
      .out, .peer, .obj 0x0604, .obj 0x0C06, .obj 0x0D05] s t) ∧
    (∀ replicaFails, exec (.frBlockCoded replicaFails) s = .next t → Touches [.cmp, .evt, .flt, .mem, .mov, .notes,
      .pwr, .obj 0x0B04, .obj 0x0C06, .obj 0x1106] s t) ∧
    (exec .verifyTest s = .next t → Touches [.cmp] s t) ∧
    (exec .trigBusy s = .next t → Touches [.flt, .notes, .trg, .obj 0x0C06] s t)

/-- Frame of Dahlia, Peer, Concentrate, Sunflower, the field store:
from a state to the next one, every part but the ones named is the same. -/
def Obligations.FrameCorrelation : Prop :=
  ∀ s t : State,
    (exec .startNow s = .next t → Touches [.dah, .obj 0x0705] s t) ∧
    (exec .integrationStart s = .next t → Touches [.dah, .obj 0x0705] s t) ∧
    (exec .dahliaBlockDiscard s = .next t → Touches [.dah, .flt, .notes, .obj 0x0705, .obj 0x0C06] s t) ∧
    (∀ upsets, exec (.dahliaGroup upsets) s = .next t → Touches [.axl, .chz, .dah, .flt, .fst, .mem, .mov, .notes,
      .out, .peer, .pwr, .obj 0x0705, .obj 0x0C06, .obj 0x0D05, .obj 0x1106] s t) ∧
    (exec .dahliaGroupMissing s = .next t → Touches [.dah, .flt, .fst, .mov, .notes, .pwr, .obj 0x0705, .obj 0x0C06,
      .obj 0x1106] s t) ∧
    (∀ us, exec (.dumpWait us) s = .next t → Touches [.dah, .flt, .notes, .obj 0x0705, .obj 0x0C06] s t) ∧
    (exec .integrationStopBoundary s = .next t → Touches [.dah, .flt, .mov, .notes, .pwr, .obj 0x0705, .obj 0x0C06,
      .obj 0x1106] s t) ∧
    (exec .closingPassDone s = .next t → Touches [.dah, .flt, .mov, .notes, .pwr, .obj 0x0705, .obj 0x0C06, .obj
      0x1106] s t) ∧
    (exec .peerReadyTimer s = .next t → Touches [.axl, .modes, .out, .peer, .obj 0x0802, .obj 0x0D05, .obj 0x1011] s
      t) ∧
    (∀ l m, exec (.groupReady l m) s = .next t → Touches [.axl, .flt, .modes, .notes, .out, .peer, .obj 0x0802, .obj
      0x0C06, .obj 0x0D05, .obj 0x1011] s t) ∧
    (∀ l m, exec (.groupGo l m) s = .next t → Touches [.axl, .modes, .out, .peer, .obj 0x0802, .obj 0x0D05, .obj
      0x1011] s t) ∧
    (∀ l m, exec (.groupStop l m) s = .next t → Touches [.axl, .modes, .out, .peer, .obj 0x0802, .obj 0x0D05, .obj
      0x1011] s t) ∧
    (∀ l m, exec (.groupLeave l m) s = .next t → Touches [.axl, .out, .peer, .obj 0x0D05] s t) ∧
    (∀ l k, exec (.peerPacket l k) s = .next t → Touches [.axl, .flt, .fst, .mem, .notes, .out, .peer, .obj 0x0802,
      .obj 0x0803, .obj 0x0C06, .obj 0x0D05] s t) ∧
    (exec .peerBufferClose s = .next t → Touches [.flt, .mov, .notes, .peer, .pwr, .obj 0x0803, .obj 0x0C06, .obj
      0x1106] s t) ∧
    (exec .peerSendAgeDiscard s = .next t → Touches [.axl, .flt, .fst, .mem, .mov, .notes, .out, .peer, .obj 0x0803,
      .obj 0x0C06, .obj 0x0D05] s t) ∧
    (∀ m, exec (.peerMemberLost m) s = .next t → Touches [.flt, .notes, .peer, .obj 0x0802, .obj 0x0C06] s t) ∧
    (∀ l a, exec (.concFragmentArrival l a) s = .next t → Touches [.axl, .conc, .flt, .mov, .notes, .out, .peer,
      .pwr, .obj 0x0808, .obj 0x0C06, .obj 0x0D05, .obj 0x1106] s t) ∧
    (∀ l a, exec (.concAnnouncementArrival l a) s = .next t → Touches [.axl, .conc, .flt, .mov, .notes, .out, .peer,
      .pwr, .obj 0x0808, .obj 0x0C06, .obj 0x0D05, .obj 0x1106] s t) ∧
    (exec .buildTimeout s = .next t → Touches [.axl, .conc, .flt, .mov, .notes, .out, .peer, .pwr, .obj 0x0808, .obj
      0x0C06, .obj 0x0D05, .obj 0x1106] s t) ∧
    (exec .fetchTimeout s = .next t → Touches [.conc, .flt, .mov, .notes, .pwr, .obj 0x0808, .obj 0x0C06, .obj
      0x1106] s t) ∧
    (∀ l chip serial, exec (.concGone l chip serial) s = .next t → Touches [.axl, .conc, .flt, .mov, .notes, .pwr,
      .obj 0x0808, .obj 0x0C06, .obj 0x1106] s t) ∧
    (exec .interferometryDone s = .next t → Touches [.conc, .flt, .mov, .notes, .pwr, .obj 0x0808, .obj 0x0B04, .obj
      0x0C06, .obj 0x1106] s t) ∧
    (∀ upsets, exec (.sunGroup upsets) s = .next t → Touches [.flt, .live, .notes, .sun, .obj 0x0907, .obj 0x0C06] s
      t) ∧
    (exec .sunArm s = .next t → Touches [.obj 0x0907] s t) ∧
    (exec .sunDisarm s = .next t → Touches [.obj 0x0907] s t) ∧
    (exec .sunCopy s = .next t → Touches [.flt, .sun, .obj 0x0906, .obj 0x0907] s t) ∧
    (exec .sunSwitchNow s = .next t → Touches [.sun, .obj 0x0907] s t) ∧
    (exec .setSwitch s = .next t → Touches [.flt, .live, .notes, .sun, .obj 0x0906, .obj 0x0907, .obj 0x0C06] s t) ∧
    (exec .contextAged s = .next t → Touches [.flt, .notes, .sun, .obj 0x0C06] s t) ∧
    (∀ src n r w syndrome, exec (.fstMasterRead src n r w syndrome) s = .next t → Touches [.bbl, .dah, .flt, .free,
      .fst, .mem, .mov, .notes, .pwr, .sun, .obj 0x0A04, .obj 0x0A05, .obj 0x0A06, .obj 0x0A07, .obj 0x0C06,
      .obj 0x1106] s t) ∧
    (∀ master n r w strobes data poison syndrome, exec (.fstWrite master n r w strobes data poison syndrome) s =
      .next t → Touches [.bbl, .dah, .flt, .free, .fst, .mem, .mov, .notes, .pwr, .sun, .obj 0x0A04, .obj
      0x0A05, .obj 0x0A06, .obj 0x0A07, .obj 0x0C06, .obj 0x0C07, .obj 0x1106] s t) ∧
    (∀ n r words last, exec (.scrubRead n r words last) s = .next t → Touches [.bbl, .dah, .flt, .free, .fst, .mem,
      .notes, .sun, .obj 0x0A04, .obj 0x0A05, .obj 0x0A06, .obj 0x0A07, .obj 0x0C06] s t) ∧
    (exec .scrubLate s = .next t → Touches [.flt, .notes, .obj 0x0C06] s t) ∧
    (∀ n, exec (.retfailLatch n) s = .next t → Touches [.fst] s t) ∧
    (∀ n h, exec (.halfBankInitDone n h) s = .next t → Touches [.bbl, .dah, .flt, .fst, .mem, .sun, .obj 0x0A04] s
      t)

/-- Frame of compression, data movement, Axrel links, images, the time base, the network ports:
from a state to the next one, every part but the ones named is the same. -/
def Obligations.FrameMovement : Prop :=
  ∀ s t : State,
    (∀ e, exec (.compressionJobStart e) s = .next t → Touches [.cmp] s t) ∧
    (∀ e, exec (.compressionJobEnd e) s = .next t → Touches [.cmp, .ctl, .flt, .mov, .notes, .pwr, .obj 0x0A04, .obj
      0x0B04, .obj 0x0C06, .obj 0x1106] s t) ∧
    (∀ a, exec (.matrixTransaction a) s = .next t → Touches [.bbl, .dah, .flt, .free, .fst, .mem, .mov, .notes,
      .out, .pwr, .sun, .obj 0x0A04, .obj 0x0A05, .obj 0x0A06, .obj 0x0A07, .obj 0x0C06, .obj 0x0C07, .obj
      0x0C08, .obj 0x1106] s t) ∧
    (∀ a, exec (.beatTimeout a) s = .next t → Touches [.bbl, .dah, .flt, .free, .fst, .mem, .mov, .notes, .out,
      .pwr, .sun, .obj 0x0A04, .obj 0x0A05, .obj 0x0A06, .obj 0x0A07, .obj 0x0C06, .obj 0x0C07, .obj 0x1106] s
      t) ∧
    (∀ a, exec (.resetInBurst a) s = .next t → Touches [.bbl, .dah, .flt, .free, .fst, .mem, .mov, .notes, .out,
      .pwr, .sun, .obj 0x0A04, .obj 0x0A05, .obj 0x0A06, .obj 0x0A07, .obj 0x0C06, .obj 0x0C07, .obj 0x0C08,
      .obj 0x1106] s t) ∧
    (∀ q err which, exec (.queuePacketSend q err which) s = .next t → Touches [.axl, .conc, .dah, .flt, .free, .mov,
      .notes, .peer, .pwr, .obj 0x0C05, .obj 0x0C06, .obj 0x1106] s t) ∧
    (∀ q, exec (.creditReturn q) s = .next t → Touches [.axl, .chz, .flt, .fst, .mem, .mov, .out, .peer, .pwr, .sun,
      .obj 0x0D05, .obj 0x1106] s t) ∧
    (∀ block, exec (.clockGateStop block) s = .next t → Touches [.mov] s t) ∧
    (∀ q packet, exec (.lossyTailWrite q packet) s = .next t → Touches [.bbl, .evt, .flt, .hk, .notes, .sun, .trg,
      .obj 0x0604, .obj 0x0907, .obj 0x0C06] s t) ∧
    (∀ r tail, exec (.ringDoorbell r tail) s = .next t → Touches [.flt, .mov, .notes, .out, .obj 0x0C03, .obj
      0x0C04, .obj 0x0C06] s t) ∧
    (∀ r kind, exec (.ringKindWrite r kind) s = .next t → Touches [.flt, .mov, .out, .obj 0x0C03, .obj 0x0C04] s t) ∧
    (∀ r src, exec (.dmaRecordWrite r src) s = .next t → Touches [.conc, .dah, .evt, .flt, .mov, .notes, .out, .pwr,
      .sun, .obj 0x0604, .obj 0x0808, .obj 0x0C03, .obj 0x0C04, .obj 0x0C06, .obj 0x0C07, .obj 0x1106] s t) ∧
    (∀ r, exec (.coalesceTimeout r) s = .next t → Touches [.mov, .out, .obj 0x0C03, .obj 0x0C04] s t) ∧
    (∀ r addr len ctrl rsv error, exec (.descriptorFetchDone r addr len ctrl rsv error) s = .next t → Touches [.flt,
      .mov, .notes, .out, .obj 0x0C03, .obj 0x0C04, .obj 0x0C06] s t) ∧
    (∀ r, exec (.cplTimeout r) s = .next t → Touches [.flt, .mov, .notes, .out, .obj 0x0C03, .obj 0x0C04, .obj
      0x0C06] s t) ∧
    (∀ r, exec (.ringNoBuffer r) s = .next t → Touches [.flt, .notes, .out, .obj 0x0C03, .obj 0x0C04, .obj 0x0C06] s
      t) ∧
    (∀ src, exec (.netRecordSend src) s = .next t → Touches [.conc, .dah, .evt, .flt, .mov, .net, .notes, .out,
      .pwr, .sun, .obj 0x0604, .obj 0x0808, .obj 0x0A04, .obj 0x0C03, .obj 0x0C04, .obj 0x0C06, .obj 0x0F04,
      .obj 0x1011, .obj 0x1106] s t) ∧
    (∀ l, exec (.linkTrainStart l) s = .next t → Touches [.axl, .out, .pwr, .obj 0x0A04, .obj 0x0D04, .obj 0x1011] s
      t) ∧
    (∀ l unchanged, exec (.partnerClockStable l unchanged) s = .next t → Touches [.axl, .obj 0x0D04] s t) ∧
    (∀ l lanes, exec (.baseLocked l lanes) s = .next t → Touches [.axl, .out, .obj 0x0D04] s t) ∧
    (∀ l record, exec (.capabilityRecord l record) s = .next t → Touches [.axl, .flt, .modes, .notes, .obj 0x0C06,
      .obj 0x0D04, .obj 0x1011] s t) ∧
    (∀ l lanes, exec (.speedDone l lanes) s = .next t → Touches [.axl, .obj 0x0D04] s t) ∧
    (∀ l late, exec (.portDeskew l late) s = .next t → Touches [.axl, .flt, .notes, .out, .peer, .obj 0x0C06, .obj
      0x0D04, .obj 0x0D05] s t) ∧
    (∀ l, exec (.trainStepOverrun l) s = .next t → Touches [.axl, .flt, .notes, .obj 0x0C06, .obj 0x0D04] s t) ∧
    (∀ l, exec (.retrainTimer l) s = .next t → Touches [.axl, .out, .pwr, .obj 0x0A04, .obj 0x0D04, .obj 0x1011] s
      t) ∧
    (∀ l d, exec (.laneLockLoss l d) s = .next t → Touches [.axl, .flt, .notes, .out, .peer, .obj 0x0C06, .obj
      0x0D04, .obj 0x0D05] s t) ∧
    (∀ l mapId map, exec (.mapreq l mapId map) s = .next t → Touches [.axl, .flt, .notes, .out, .peer, .obj 0x0C06,
      .obj 0x0D04, .obj 0x0D05] s t) ∧
    (∀ l, exec (.mapreqResend l) s = .next t → Touches [.out] s t) ∧
    (∀ l mapId map, exec (.map l mapId map) s = .next t → Touches [.axl, .flt, .notes, .peer, .obj 0x0C06, .obj
      0x0D04, .obj 0x0D05] s t) ∧
    (∀ l d bipOk, exec (.am l d bipOk) s = .next t → Touches [.axl, .obj 0x0D04] s t) ∧
    (∀ l d, exec (.laneRejoin l d) s = .next t → Touches [.axl, .flt, .notes, .out, .peer, .obj 0x0C06, .obj 0x0D04,
      .obj 0x0D05] s t) ∧
    (∀ l, exec (.clockLoss l) s = .next t → Touches [.axl, .flt, .notes, .out, .peer, .obj 0x0C06, .obj 0x0D04, .obj
      0x0D05] s t) ∧
    (∀ l f, exec (.axrelFrame l f) s = .next t → Touches [.axl, .out, .obj 0x0D05] s t) ∧
    (∀ l seq, exec (.ack l seq) s = .next t → Touches [.axl, .out, .peer, .obj 0x0D05] s t) ∧
    (∀ l seq, exec (.nak l seq) s = .next t → Touches [.axl, .flt, .notes, .out, .peer, .obj 0x0C06, .obj 0x0D04,
      .obj 0x0D05] s t) ∧
    (∀ l, exec (.ackTimeout l) s = .next t → Touches [.axl, .flt, .notes, .out, .peer, .obj 0x0C06, .obj 0x0D04,
      .obj 0x0D05] s t) ∧
    (∀ l vc total, exec (.credit l vc total) s = .next t → Touches [.axl, .out, .peer, .obj 0x0D05] s t) ∧
    (∀ l, exec (.ackCreditTimer l) s = .next t → Touches [.axl, .out] s t) ∧
    (∀ l, exec (.lpiEntry l) s = .next t → Touches [.axl, .out, .obj 0x0D04] s t) ∧
    (∀ l, exec (.lpiRefresh l) s = .next t → Touches [.out] s t) ∧
    (∀ l, exec (.wake l) s = .next t → Touches [.axl, .out, .peer, .obj 0x0D04, .obj 0x0D05] s t) ∧
    (∀ l kind total, exec (.imageOffer l kind total) s = .next t → Touches [.axl, .ctl, .out, .peer, .obj 0x0D05] s
      t) ∧
    (∀ l offset count, exec (.imageRequest l offset count) s = .next t → Touches [.axl, .out, .peer, .obj 0x0D05] s
      t) ∧
    (∀ l offset data, exec (.imageData l offset data) s = .next t → Touches [.axl, .ctl, .out, .peer, .obj 0x0D05] s
      t) ∧
    (∀ l, exec (.imageDone l) s = .next t → Touches [.afe, .aon, .axl, .bbl, .cal, .chz, .cmp, .cnv, .ctl, .dah,
      .evt, .flt, .free, .fst, .hk, .live, .mem, .modes, .mov, .notes, .out, .pwr, .sun, .time, .trg, .regs] s
      t) ∧
    (∀ l, exec (.imageAbort l) s = .next t → Touches [.afe, .aon, .axl, .bbl, .cal, .chz, .cmp, .cnv, .ctl, .dah,
      .evt, .flt, .free, .fst, .hk, .live, .mem, .modes, .mov, .notes, .out, .pwr, .sun, .time, .trg, .regs] s
      t) ∧
    (exec .imageChunkRetry s = .next t → Touches [.axl, .ctl, .out, .peer, .obj 0x0D05] s t) ∧
    (∀ l, exec (.testPayload l) s = .next t → Touches [.axl] s t) ∧
    (∀ l, exec (.errInject l) s = .next t → Touches [.out, .obj 0x0D06] s t) ∧
    (exec .ref10mLost s = .next t → Touches [.aon, .flt, .notes, .time, .obj 0x0C06, .obj 0x0E01] s t) ∧
    (exec .ref10mReturn s = .next t → Touches [.time, .obj 0x0E01] s t) ∧
    (exec .phaseSlewDone s = .next t → Touches [.flt, .notes, .time, .obj 0x0C06, .obj 0x0E01] s t) ∧
    (exec .dormantRefReturn s = .next t → Touches [.rc64, .time] s t) ∧
    (∀ lead, exec (.ppsEdge lead) s = .next t → Touches [.flt, .modes, .notes, .peer, .rc64, .time, .obj 0x0802,
      .obj 0x0C06, .obj 0x0E01, .obj 0x0E05, .obj 0x1011] s t) ∧
    (exec .ppsLost s = .next t → Touches [.flt, .notes, .time, .obj 0x0C06, .obj 0x0E01] s t) ∧
    (exec .bootPpsWaitTimeout s = .next t → Touches [.rc64, .time, .obj 0x0E05] s t) ∧
    (∀ inc atPps, exec (.incWrite inc atPps) s = .next t → Touches [.time, .obj 0x0E02] s t) ∧
    (exec .incApply s = .next t → Touches [.time, .obj 0x0E02, .obj 0x0E06] s t) ∧
    (∀ sec nsec atPps, exec (.timeSet sec nsec atPps) s = .next t → Touches [.time, .obj 0x0E03] s t) ∧
    (∀ stepNs atPps, exec (.timeStep stepNs atPps) s = .next t → Touches [.time, .obj 0x0E03] s t) ∧
    (exec .timeOpApply s = .next t → Touches [.flt, .notes, .time, .obj 0x0C06, .obj 0x0E01, .obj 0x0E03, .obj
      0x0E06] s t) ∧
    (∀ c w, exec (.timCmpWrite c w) s = .next t → Touches [.time, .obj 0x0E06] s t) ∧
    (∀ c, exec (.comparatorFire c) s = .next t → Touches [.cal, .dah, .flt, .hk, .live, .notes, .out, .pwr, .sun,
      .time, .trg, .obj 0x0705, .obj 0x0907, .obj 0x0A04, .obj 0x0C06, .obj 0x0E06, .obj 0x1011, .obj 0x1204,
      .obj 0x1304] s t) ∧
    (∀ port bytes before after, exec (.netFrame port bytes before after) s = .next t → Touches [.flt, .net, .notes,
      .out, .obj 0x0C06, .obj 0x0F04] s t) ∧
    (∀ port lost, exec (.netLinkDown port lost) s = .next t → Touches [.flt, .notes, .obj 0x0C06, .obj 0x0F04] s t) ∧
    (∀ port cr4 bypass, exec (.netLinkUp port cr4 bypass) s = .next t → Touches [.flt, .live, .net, .notes, .obj
      0x0C06, .obj 0x0F04] s t) ∧
    (∀ port, exec (.anRestart port) s = .next t → Touches [.flt, .net, .notes, .obj 0x0C06, .obj 0x0F04] s t) ∧
    (∀ m, exec (.logRead m) s = .next t → Touches [.cmp, .ctl, .mov, .pwr, .obj 0x0A04, .obj 0x1011, .obj 0x1106] s
      t) ∧
    (∀ m data, exec (.compress m data) s = .next t → Touches [.cmp, .ctl, .mov, .out, .pwr, .obj 0x0A04, .obj
      0x0C03, .obj 0x0C04, .obj 0x1011, .obj 0x1106] s t) ∧
    (∀ m data, exec (.decompress m data) s = .next t → Touches [.cmp, .ctl, .mov, .out, .pwr, .obj 0x0A04, .obj
      0x0C03, .obj 0x0C04, .obj 0x1011, .obj 0x1106] s t) ∧
    (∀ m data, exec (.imageLoad m data) s = .next t → Touches [.afe, .aon, .axl, .bbl, .cal, .chz, .cmp, .cnv, .ctl,
      .dah, .evt, .flt, .free, .fst, .hk, .live, .mem, .modes, .mov, .notes, .out, .peer, .pwr, .sun, .time,
      .trg, .regs] s t) ∧
    (∀ m ok, exec (.imageFlash m ok) s = .next t → Touches [.ctl] s t) ∧
    (∀ m, exec (.imageServe m) s = .next t → Touches [.axl, .ctl, .out, .peer, .obj 0x0D05] s t) ∧
    (∀ m failed, exec (.rollbackCommit m failed) s = .next t → Touches [.ctl] s t) ∧
    (∀ m, exec (.boot m) s = .next t → Touches [.ctl] s t) ∧
    (∀ m, exec (.ringDataTimeout m) s = .next t → Touches [.ctl] s t) ∧
    (∀ l d, exec (.prbsCheckerLock l d) s = .next t → Touches [.axl, .obj 0x0D06] s t) ∧
    (∀ l, exec (.retryHigh l) s = .next t → Touches [.axl, .flt, .notes, .obj 0x0C06] s t) ∧
    (∀ l d, exec (.laneErrors l d) s = .next t → Touches [.axl, .flt, .notes, .obj 0x0C06] s t) ∧
    (∀ port corrected uncorrected, exec (.netFecUncorrected port corrected uncorrected) s = .next t → Touches [.flt,
      .notes, .obj 0x0C06, .obj 0x0F04] s t) ∧
    (∀ l d, exec (.shedLaneReadaptation l d) s = .next t → Touches [.axl, .out] s t) ∧
    (∀ l, exec (.capabilityRecordResend l) s = .next t → Touches [.out] s t) ∧
    (exec .verifyRecurring s = .next t → Touches [.flt, .notes, .obj 0x0C06] s t)

/-- Frame of modes, the control complex, boots, power, housekeeping, injectors, the Ronec commands:
from a state to the next one, every part but the ones named is the same. -/
def Obligations.FrameControl : Prop :=
  ∀ s t : State,
    (∀ plan mailbox seq, exec (.modePlanWrite plan mailbox seq) s = .next t → Touches [.aon, .modes, .notes, .pwr,
      .obj 0x0A04, .obj 0x1010, .obj 0x1011] s t) ∧
    (exec .transitionCheck s = .next t → Touches [.aon, .axl, .cal, .conc, .dah, .flt, .free, .live, .modes, .mov,
      .notes, .out, .peer, .pwr, .trg, .obj 0x0802, .obj 0x0808, .obj 0x0A04, .obj 0x0C06, .obj 0x0D05, .obj
      0x1011, .obj 0x1106, .obj 0x1304, .obj 0x1402, .obj 0x1403] s t) ∧
    (exec .drainComplete s = .next t → Touches [.axl, .bbl, .cmp, .ctl, .dah, .evt, .flt, .free, .hk, .modes,
      .notes, .pwr, .sun, .obj 0x0A04, .obj 0x0C06, .obj 0x0D04, .obj 0x0D05, .obj 0x0F04, .obj 0x1011] s t) ∧
    (exec .downComplete s = .next t → Touches [.afe, .cnv, .live, .modes, .pwr, .obj 0x0A04, .obj 0x1011] s t) ∧
    (exec .upComplete s = .next t → Touches [.afe, .aon, .axl, .bbl, .chz, .cnv, .ctl, .dah, .evt, .flt, .live,
      .modes, .notes, .out, .pwr, .sun, .time, .trg, .obj 0x0103, .obj 0x0205, .obj 0x0406, .obj 0x0509, .obj
      0x0706, .obj 0x0907, .obj 0x0A01, .obj 0x0A04, .obj 0x0C06, .obj 0x0D04, .obj 0x0D05, .obj 0x0D06, .obj
      0x1011] s t) ∧
    (exec .transitionStartDone s = .next t → Touches [.afe, .aon, .axl, .bbl, .chz, .cnv, .ctl, .dah, .flt, .live,
      .modes, .notes, .out, .peer, .pwr, .sun, .time, .trg, .obj 0x0103, .obj 0x0205, .obj 0x0406, .obj 0x0509,
      .obj 0x0802, .obj 0x0907, .obj 0x0A04, .obj 0x0C06, .obj 0x0D05, .obj 0x0D06, .obj 0x1011] s t) ∧
    (exec .peerSyncTimeout s = .next t → Touches [.modes, .obj 0x0802, .obj 0x1011] s t) ∧
    (∀ d, exec (.powerGoodTimeout d) s = .next t → Touches [.flt, .modes, .notes, .pwr, .obj 0x0A04, .obj 0x0C06,
      .obj 0x1011] s t) ∧
    (exec .pllLockTimeout s = .next t → Touches [.flt, .modes, .notes, .obj 0x0C06, .obj 0x1011] s t) ∧
    (∀ g, exec (.converterCalTimeout g) s = .next t → Touches [.flt, .modes, .notes, .obj 0x0C06, .obj 0x1011] s t) ∧
    (exec .converterCalConverged s = .next t → Touches [.cnv, .free, .modes, .obj 0x0303] s t) ∧
    (exec .railsGoodTimeout s = .next t → Touches [.aon, .flt, .notes, .out, .obj 0x0C06, .obj 0x1403] s t) ∧
    (exec .peerStartBlock s = .next t → Touches [.aon, .dah, .modes, .notes, .peer, .obj 0x0802, .obj 0x1011] s t) ∧
    (exec .peerStopBoundary s = .next t → Touches [.aon, .dah, .flt, .modes, .mov, .notes, .peer, .pwr, .obj 0x0802,
      .obj 0x0803, .obj 0x0A04, .obj 0x0C06, .obj 0x1011, .obj 0x1106] s t) ∧
    (∀ n words, exec (.bankWakeCheck n words) s = .next t → Touches [.bbl, .evt, .flt, .free, .fst, .hk, .modes,
      .notes, .pwr, .sun, .obj 0x0206, .obj 0x0A04, .obj 0x0A05, .obj 0x0A06, .obj 0x0A07, .obj 0x0C06, .obj
      0x1011] s t) ∧
    (∀ a b, exec (.selfCheck a b) s = .next t → Touches [.afe, .aon, .axl, .bbl, .cal, .chz, .cmp, .cnv, .conc,
      .ctl, .dah, .evt, .flt, .fst, .hk, .live, .mem, .modes, .mov, .net, .notes, .peer, .pwr, .rc64, .sun,
      .time, .trg, .regs] s t) ∧
    (exec .compareMismatch s = .next t → Touches [.afe, .aon, .axl, .bbl, .cal, .chz, .cmp, .cnv, .conc, .ctl, .dah,
      .evt, .flt, .fst, .hk, .live, .mem, .modes, .mov, .net, .notes, .peer, .pwr, .rc64, .sun, .time, .trg,
      .regs] s t) ∧
    (∀ residentOk, exec (.warmRestartDone residentOk) s = .next t → Touches [.afe, .aon, .axl, .bbl, .cal, .chz,
      .cmp, .cnv, .conc, .ctl, .dah, .evt, .flt, .fst, .hk, .live, .mem, .modes, .mov, .net, .notes, .peer,
      .pwr, .rc64, .sun, .time, .trg, .regs] s t) ∧
    (exec .resyncDone s = .next t → Touches [.ctl, .flt, .notes, .obj 0x0C06] s t) ∧
    (exec .resyncTimeout s = .next t → Touches [.afe, .aon, .axl, .bbl, .cal, .chz, .cmp, .cnv, .conc, .ctl, .dah,
      .evt, .flt, .fst, .hk, .live, .mem, .modes, .mov, .net, .notes, .peer, .pwr, .rc64, .sun, .time, .trg,
      .regs] s t) ∧
    (exec .leadReturn s = .next t → Touches [.ctl, .flt, .notes, .obj 0x0C06] s t) ∧
    (exec .heartbeat s = .next t → Touches [.ctl] s t) ∧
    (∀ m len frame, exec (.mailboxDoorbell m len frame) s = .next t → Touches [.ctl, .flt, .notes, .pwr, .obj
      0x0A04, .obj 0x0C06, .obj 0x1011] s t) ∧
    (∀ m, exec (.completionWrite m) s = .next t → Touches [.ctl, .out] s t) ∧
    (exec .noticeWrite s = .next t → Touches [.flt, .notes, .out, .obj 0x0C06] s t) ∧
    (exec .noticeLost s = .next t → Touches [.flt, .notes, .obj 0x0C06] s t) ∧
    (∀ ring word wide v, exec (.completionRingSetup ring word wide v) s = .next t → Touches [.ctl, .notes] s t) ∧
    (exec .bar0DiscardedWrite s = .next t → Touches [.ctl] s t) ∧
    (∀ off words syndromes, exec (.bar2Read off words syndromes) s = .next t → Touches [.bbl, .dah, .flt, .free,
      .fst, .mem, .notes, .out, .sun, .obj 0x0A04, .obj 0x0A05, .obj 0x0A06, .obj 0x0A07, .obj 0x0C06] s t) ∧
    (exec .bar2Write s = .next t → Touches [.out] s t) ∧
    (∀ who bar2 off syndrome, exec (.halfReadLow who bar2 off syndrome) s = .next t → Touches [.bbl, .ctl, .dah,
      .flt, .free, .fst, .mem, .notes, .out, .sun, .obj 0x0A04, .obj 0x0A05, .obj 0x0A06, .obj 0x0A07, .obj
      0x0C06] s t) ∧
    (∀ who, exec (.halfReadHigh who) s = .next t → Touches [.out] s t) ∧
    (∀ chipId bootSrc testEn disagree found, exec (.pornRelease chipId bootSrc testEn disagree found) s = .next t →
      Touches [.afe, .aon, .axl, .bbl, .cal, .chz, .cmp, .cnv, .conc, .ctl, .dah, .evt, .flt, .fst, .hk, .live,
      .mem, .modes, .mov, .net, .notes, .out, .peer, .pwr, .rc64, .sun, .time, .trg, .regs] s t) ∧
    (∀ long, exec (.pornAssert long) s = .next t → Touches [.afe, .aon, .axl, .bbl, .cal, .chz, .cmp, .cnv, .conc,
      .ctl, .dah, .evt, .flt, .fst, .hk, .live, .mem, .modes, .mov, .net, .notes, .out, .peer, .pwr, .rc64,
      .sun, .time, .trg, .regs] s t) ∧
    (exec .bootRefTimeout s = .next t → Touches [.flt, .notes, .time, .obj 0x0C06, .obj 0x0E01, .obj 0x1102] s t) ∧
    (exec .bootIdleReached s = .next t → Touches [.aon, .ctl, .flt, .notes, .obj 0x0C06] s t) ∧
    (exec .bootTimeout s = .next t → Touches [.afe, .aon, .axl, .bbl, .cal, .chz, .cmp, .cnv, .conc, .ctl, .dah,
      .evt, .flt, .fst, .hk, .live, .mem, .modes, .mov, .net, .notes, .peer, .pwr, .rc64, .sun, .time, .trg,
      .regs] s t) ∧
    (exec .bootCommandReboot s = .next t → Touches [.afe, .aon, .axl, .bbl, .cal, .chz, .cmp, .cnv, .conc, .ctl,
      .dah, .evt, .flt, .fst, .hk, .live, .mem, .modes, .mov, .net, .notes, .peer, .pwr, .rc64, .sun, .time,
      .trg, .regs] s t) ∧
    (exec .governorGrant s = .next t → Touches [.aon, .flt, .notes, .out, .pwr, .obj 0x0A04, .obj 0x0C06, .obj
      0x1011, .obj 0x1102, .obj 0x1106, .obj 0x1107] s t) ∧
    (∀ d, exec (.domainPowerGood d) s = .next t → Touches [.afe, .aon, .bbl, .conc, .ctl, .flt, .hk, .modes, .mov,
      .notes, .out, .pwr, .time, .obj 0x0808, .obj 0x0A04, .obj 0x0C06, .obj 0x1011, .obj 0x1106] s t) ∧
    (∀ d, exec (.sleepAck d) s = .next t → Touches [.flt, .notes, .pwr, .obj 0x0A04, .obj 0x0C06, .obj 0x1106] s t) ∧
    (∀ d, exec (.sleepDefer d) s = .next t → Touches [.pwr, .obj 0x1106] s t) ∧
    (∀ d, exec (.sleepRefuse d) s = .next t → Touches [.pwr, .obj 0x0A04] s t) ∧
    (∀ d, exec (.sleepRetry d) s = .next t → Touches [.pwr, .obj 0x0A04] s t) ∧
    (∀ d, exec (.sleepStalled d) s = .next t → Touches [.flt, .notes, .pwr, .obj 0x0A04, .obj 0x0C06, .obj 0x1106] s
      t) ∧
    (∀ d, exec (.ballastPark d) s = .next t → Touches [.pwr] s t) ∧
    (∀ d, exec (.latchup d) s = .next t → Touches [.afe, .aon, .axl, .bbl, .cal, .chz, .cmp, .cnv, .conc, .ctl,
      .dah, .evt, .flt, .fst, .hk, .live, .mem, .modes, .mov, .net, .notes, .out, .peer, .pwr, .rc64, .sun,
      .time, .trg, .regs] s t) ∧
    (∀ d, exec (.latchupRestore d) s = .next t → Touches [.pwr, .obj 0x0A04] s t) ∧
    (exec .dvfsThrottleStep s = .next t → Touches [.flt, .notes, .pwr, .obj 0x0C06] s t) ∧
    (exec .dvfsRecoverStep s = .next t → Touches [.pwr] s t) ∧
    (exec .thermalLimit s = .next t → Touches [.flt, .modes, .notes, .obj 0x0C06, .obj 0x1011] s t) ∧
    (∀ mv, exec (.readVoutPoll mv) s = .next t → Touches [.flt, .notes, .pwr, .obj 0x0C06, .obj 0x1102] s t) ∧
    (exec .voutTimeout s = .next t → Touches [.flt, .notes, .out, .pwr, .obj 0x0C06] s t) ∧
    (∀ r answer, exec (.pmbusPoll r answer) s = .next t → Touches [.flt, .notes, .out, .pwr, .obj 0x0C06, .obj
      0x1104] s t) ∧
    (∀ p, exec (.ainWake p) s = .next t → Touches [.aon, .flt, .modes, .notes, .out, .pwr, .obj 0x0A04, .obj 0x0C06,
      .obj 0x1011, .obj 0x1403] s t) ∧
    (∀ level, exec (.hostwakeEdge level) s = .next t → Touches [.aon, .flt, .modes, .notes, .out, .pwr, .obj 0x0A04,
      .obj 0x0C06, .obj 0x1011, .obj 0x1403] s t) ∧
    (∀ residentOk, exec (.railsGood residentOk) s = .next t → Touches [.afe, .aon, .axl, .bbl, .cal, .chz, .cmp,
      .cnv, .conc, .ctl, .dah, .evt, .flt, .fst, .hk, .live, .mem, .modes, .mov, .net, .notes, .out, .peer,
      .pwr, .rc64, .sun, .time, .trg, .regs] s t) ∧
    (∀ level, exec (.hkstartEdge level) s = .next t → Touches [.hk, .live, .pwr, .obj 0x0A04, .obj 0x0E07, .obj
      0x1011, .obj 0x1204] s t) ∧
    (∀ value, exec (.hkConversionDone value) s = .next t → Touches [.flt, .hk, .live, .notes, .pwr, .obj 0x0A04,
      .obj 0x0C06, .obj 0x1011, .obj 0x1204] s t) ∧
    (∀ p, exec (.calPlanStart p) s = .next t → Touches [.cal, .out, .pwr, .obj 0x0A04, .obj 0x1011, .obj 0x1304] s
      t) ∧
    (∀ p, exec (.calPlanStop p) s = .next t → Touches [.cal, .out, .pwr, .obj 0x0A04, .obj 0x1304] s t) ∧
    (∀ n, exec (.calStringDisable n) s = .next t → Touches [.cal, .live, .out, .pwr, .obj 0x0A04, .obj 0x1301, .obj
      0x1304] s t) ∧
    (∀ n, exec (.calSlotBoundary n) s = .next t → Touches [.flt, .notes, .out, .obj 0x0C06, .obj 0x1304] s t) ∧
    (∀ n avg below above, exec (.calRunJudged n avg below above) s = .next t → Touches [.cal, .flt, .notes, .out,
      .pwr, .obj 0x0A04, .obj 0x0C06, .obj 0x1304] s t) ∧
    (∀ n, exec (.calDiagnosticPulse n) s = .next t → Touches [.cal, .out, .obj 0x1304] s t) ∧
    (∀ n current, exec (.calOvercurrent n current) s = .next t → Touches [.cal, .flt, .notes, .out, .pwr, .obj
      0x0A04, .obj 0x0C06, .obj 0x1304] s t) ∧
    (∀ code inst, exec (.faultCountSummary code inst) s = .next t → Touches [.flt, .notes] s t) ∧
    (∀ corrected lost, exec (.configVote corrected lost) s = .next t → Touches [.afe, .aon, .axl, .bbl, .cal, .chz,
      .cmp, .cnv, .conc, .ctl, .dah, .evt, .flt, .fst, .hk, .live, .mem, .modes, .mov, .net, .notes, .peer,
      .pwr, .rc64, .sun, .time, .trg, .regs] s t) ∧
    (∀ m, exec (.getInfo m) s = .next t → Touches [.ctl] s t) ∧
    (∀ m, exec (.cfgRead m) s = .next t → Touches [.ctl] s t) ∧
    (∀ m, exec (.cfgWrite m) s = .next t → Touches [.afe, .aon, .axl, .cal, .chz, .cmp, .ctl, .dah, .evt, .flt,
      .free, .hk, .live, .modes, .mov, .notes, .out, .pwr, .sun, .time, .trg, .regs] s t) ∧
    (∀ m data, exec (.tableWrite m data) s = .next t → Touches [.chz, .ctl, .flt, .mov, .out, .sun, .obj 0x0406,
      .obj 0x0807, .obj 0x0907, .obj 0x0C03, .obj 0x0C04] s t) ∧
    (∀ m, exec (.tableRead m) s = .next t → Touches [.ctl, .mov, .pwr, .obj 0x1106] s t) ∧
    (∀ m, exec (.softTrigger m) s = .next t → Touches [.ctl, .free, .trg] s t) ∧
    (∀ m, exec (.integStop m) s = .next t → Touches [.ctl, .dah] s t) ∧
    (∀ m readings, exec (.probeSweep m readings) s = .next t → Touches [.afe, .ctl, .free, .live, .mov, .pwr, .obj
      0x1106] s t) ∧
    (∀ m ev, exec (.cellCal m ev) s = .next t → Touches [.bbl, .ctl, .flt, .notes, .obj 0x0205, .obj 0x0206, .obj
      0x0509, .obj 0x0C06] s t) ∧
    (∀ m, exec (.convCapture m) s = .next t → Touches [.cnv, .ctl, .pwr, .obj 0x0A04, .obj 0x1011] s t) ∧
    (∀ m, exec (.faultList m) s = .next t → Touches [.ctl] s t) ∧
    (∀ m, exec (.faultAck m) s = .next t → Touches [.ctl, .flt, .notes, .pwr, .obj 0x0C06] s t) ∧
    (∀ bundle, exec (.flashImageRead bundle) s = .next t → Touches [.afe, .aon, .axl, .bbl, .cal, .chz, .cmp, .cnv,
      .conc, .ctl, .dah, .evt, .flt, .free, .fst, .hk, .live, .mem, .modes, .mov, .net, .notes, .out, .peer,
      .pwr, .rc64, .sun, .time, .trg, .regs] s t) ∧
    (∀ pin, exec (.pinPulseFiltered pin) s = .next t → Touches [.flt, .notes, .obj 0x0C06] s t) ∧
    (exec .pmeTurnOff s = .next t → Touches [.aon, .ctl, .out, .pwr, .obj 0x0A04, .obj 0x1011] s t) ∧
    (exec .pmeWaitTimeout s = .next t → Touches [.aon, .ctl, .out, .pwr, .obj 0x0A04, .obj 0x1011] s t) ∧
    (exec .alarmWake s = .next t → Touches [.aon, .flt, .modes, .notes, .out, .pwr, .obj 0x0A04, .obj 0x0C06, .obj
      0x1011, .obj 0x1402, .obj 0x1403] s t) ∧
    (exec .minOffExpired s = .next t → Touches [.aon, .modes, .out, .obj 0x1403] s t) ∧
    (exec .aonOvercurrent s = .next t → Touches [.aon, .flt, .modes, .notes, .obj 0x0C06, .obj 0x1011] s t) ∧
    (exec .hkStart s = .next t → Touches [.hk, .live, .pwr, .obj 0x0A04, .obj 0x1011, .obj 0x1204] s t) ∧
    (exec .hkStop s = .next t → Touches [.hk, .pwr, .obj 0x0A04, .obj 0x1204] s t) ∧
    (exec .hkDelayExpired s = .next t → Touches [.hk, .pwr, .obj 0x0A04, .obj 0x1011, .obj 0x1204] s t) ∧
    (exec .hkWakeTimer s = .next t → Touches [.pwr, .obj 0x0A04, .obj 0x1011] s t) ∧
    (exec .hkBufferCopy s = .next t → Touches [.flt, .hk, .notes, .obj 0x0C06] s t) ∧
    (exec .statPeriod s = .next t → Touches [.hk, .out] s t) ∧
    (exec .heartbeatStall s = .next t → Touches [.hk, .out] s t) ∧
    (exec .drainLimitExpired s = .next t → Touches [.axl, .conc, .dah, .evt, .flt, .hk, .modes, .mov, .net, .notes,
      .peer, .sun, .obj 0x0C06, .obj 0x0F04] s t) ∧
    (exec .pcieLinkLeavesL2 s = .next t → Touches [.aon, .out] s t)
end

