-- ==== Sys2Proof/Laws/Store.lean ====
section
/-! SUPPORT. Laws of the stores: sparse maps, memory, lists used as arrays, fields. -/

namespace Sys2Proof.Machine

/-! ### Sparse maps -/

theorem mapGet_mapErase (m : SMap) (x y : Nat) : mapGet (mapErase m x) y = if y = x then 0 else mapGet m y := by
  induction m with
  | nil => simp [mapErase, mapGet]
  | cons p t ih =>
    obtain ⟨k, v⟩ := p
    by_cases hk : x = k
    · subst hk
      by_cases hy : y = x
      · simpa [mapErase, hy] using ih
      · simp [mapErase, mapGet, ih, hy]
    · by_cases hy : y = k
      · subst hy
        simp [mapErase, mapGet, hk, Ne.symm hk]
      · simp [mapErase, mapGet, hk, hy, ih]

theorem mapGet_mapInsert (m : SMap) (x v y : Nat) : mapGet (mapInsert m x v) y = if y = x then v else mapGet m y := by
  induction m with
  | nil => simp [mapInsert, mapGet]
  | cons p t ih =>
    obtain ⟨k, w⟩ := p
    simp only [mapInsert]
    by_cases h1 : x < k
    · by_cases hy : y = x <;> simp [h1, mapGet, hy]
    · by_cases h2 : x = k
      · subst h2
        by_cases hy : y = x <;> simp [mapGet, hy]
      · by_cases hy : y = k
        · subst hy
          simp [h1, h2, mapGet, Ne.symm h2]
        · simp [h1, h2, mapGet, hy, ih]

/-- A map answers what was written last under a key, and the rest as before. -/
theorem mapGet_mapSet (m : SMap) (x v y : Nat) : mapGet (mapSet m x v) y = if y = x then v else mapGet m y := by
  unfold mapSet
  split
  · rename_i h
    rw [mapGet_mapErase, h]
  · exact mapGet_mapInsert m x v y

@[simp] theorem mapGet_mapSet_same (m : SMap) (x v : Nat) : mapGet (mapSet m x v) x = v := by simp [mapGet_mapSet]

theorem mapGet_mapSet_ne (m : SMap) {x y : Nat} (v : Nat) (h : y ≠ x) : mapGet (mapSet m x v) y = mapGet m y := by
  simp [mapGet_mapSet, h]

theorem mapGet_mapClear (m : SMap) (lo hi y : Nat) :
    mapGet (mapClear m lo hi) y = if lo ≤ y ∧ y < hi then 0 else mapGet m y := by
  induction m with
  | nil => simp [mapClear, mapGet]
  | cons p t ih =>
    obtain ⟨k, v⟩ := p
    unfold mapClear at ih ⊢
    rw [List.filter_cons]
    by_cases hk : lo ≤ k ∧ k < hi
    · simp only [hk.1, hk.2, decide_true, Bool.and_self, Bool.not_true, Bool.false_eq_true, if_false, ih, mapGet]
      by_cases hy : y = k
      · subst hy; simp [hk]
      · simp [hy]
    · have : (!(decide (lo ≤ k) && decide (k < hi))) = true := by simp; omega
      simp only [this, if_true, mapGet]
      by_cases hy : y = k
      · subst hy; simp [hk]
      · simpa [hy] using ih

theorem mapWfFrom_mono {b c : Nat} (h : b ≤ c) : ∀ {m : SMap}, mapWfFrom c m = true → mapWfFrom b m = true
  | [], _ => rfl
  | (k, v) :: t, hm => by
    simp only [mapWfFrom, Bool.and_eq_true, decide_eq_true_eq] at hm ⊢
    exact ⟨⟨le_trans h hm.1.1, hm.1.2⟩, hm.2⟩

theorem mapErase_keeps_wf {b : Nat} (x : Nat) : ∀ {m : SMap}, mapWfFrom b m = true → mapWfFrom b (mapErase m x) = true
  | [], _ => rfl
  | (k, v) :: t, hm => by
    simp only [mapWfFrom, Bool.and_eq_true, decide_eq_true_eq] at hm
    have ih := mapErase_keeps_wf x hm.2
    unfold mapErase
    split
    · exact mapWfFrom_mono (by omega) ih
    · simp [mapWfFrom, hm.1, ih]

theorem mapInsert_keeps_wf {b x v : Nat} (hx : b ≤ x) (hv : v ≠ 0) :
    ∀ {m : SMap}, mapWfFrom b m = true → mapWfFrom b (mapInsert m x v) = true
  | [], _ => by simp [mapInsert, mapWfFrom, hx, hv]
  | (k, w) :: t, hm => by
    simp only [mapWfFrom, Bool.and_eq_true, decide_eq_true_eq] at hm
    unfold mapInsert
    split
    · rename_i h
      simp [mapWfFrom, hx, hv, hm.1.2, hm.2]
      omega
    · split
      · rename_i h1 h2
        subst h2
        simp [mapWfFrom, hx, hv, hm.2]
      · rename_i h1 h2
        have := mapInsert_keeps_wf (b := k + 1) (x := x) (by omega) hv hm.2
        simp [mapWfFrom, hm.1, this]

/-- A write keeps the canonical form of a sparse map. -/
theorem mapSet_keeps_wf {m : SMap} (x v : Nat) (h : mapWf m = true) : mapWf (mapSet m x v) = true := by
  unfold mapSet
  split
  · exact mapErase_keeps_wf x h
  · rename_i hv
    exact mapInsert_keeps_wf (Nat.zero_le x) hv h

theorem mapFilter_keeps_wf {b : Nat} (p : Nat × Nat → Bool) :
    ∀ {m : SMap}, mapWfFrom b m = true → mapWfFrom b (m.filter p) = true
  | [], _ => rfl
  | (k, v) :: t, hm => by
    simp only [mapWfFrom, Bool.and_eq_true, decide_eq_true_eq] at hm
    have ih := mapFilter_keeps_wf p hm.2
    rw [List.filter_cons]
    split
    · simp [mapWfFrom, hm.1, ih]
    · exact mapWfFrom_mono (by omega) ih

/-- Clearing a range of keys keeps the canonical form. -/
theorem mapClear_keeps_wf {m : SMap} (lo hi : Nat) (h : mapWf m = true) : mapWf (mapClear m lo hi) = true :=
  mapFilter_keeps_wf _ h

/-! ### Fields -/

/-- A field reads what was written last, truncated to its width. -/
@[simp] theorem fieldGet_fieldSet_same (m : SMap) (f : Field) (i v : Nat) :
    fieldGet (fieldSet m f i v) f i = v % 2 ^ f.width := by
  simp [fieldGet, fieldSet]

/-- A write of one field leaves every place with another key. -/
theorem fieldGet_fieldSet_ne (m : SMap) {f g : Field} {i j : Nat} (v : Nat) (h : g.key j ≠ f.key i) :
    fieldGet (fieldSet m f i v) g j = fieldGet m g j := by
  simp [fieldGet, fieldSet, mapGet_mapSet_ne m _ h]

theorem fieldSet_keeps_wf {m : SMap} (f : Field) (i v : Nat) (h : mapWf m = true) : mapWf (fieldSet m f i v) = true :=
  mapSet_keeps_wf _ _ h

/-- The key of a field lies in the range of its object. -/
theorem key_object {f : Field} (i : Nat) (h : f.lo < 4096) : f.key i / 4294967296 = f.obj := by
  unfold Field.key
  omega

/-! ### Memory -/

theorem memGet_memErase (m : List Host.Cell) (x y : Nat) :
    memGet (memErase m x) y = if y = x then 0 else memGet m y := by
  induction m with
  | nil => simp [memErase, memGet]
  | cons p t ih =>
    obtain ⟨k, v⟩ := p
    by_cases hk : x = k
    · subst hk
      by_cases hy : y = x
      · simpa [memErase, hy] using ih
      · simp [memErase, memGet, ih, hy]
    · by_cases hy : y = k
      · subst hy
        simp [memErase, memGet, hk, Ne.symm hk]
      · simp [memErase, memGet, hk, hy, ih]

theorem memGet_memInsert (m : List Host.Cell) (x : Nat) (v : Byte) (y : Nat) :
    memGet (memInsert m x v) y = if y = x then v else memGet m y := by
  induction m with
  | nil => simp [memInsert, memGet]
  | cons p t ih =>
    obtain ⟨k, w⟩ := p
    simp only [memInsert]
    by_cases h1 : x < k
    · by_cases hy : y = x <;> simp [h1, memGet, hy]
    · by_cases h2 : x = k
      · subst h2
        by_cases hy : y = x <;> simp [memGet, hy]
      · by_cases hy : y = k
        · subst hy
          simp [h1, h2, memGet, Ne.symm h2]
        · simp [h1, h2, memGet, hy, ih]

/-- A read after a write to the same address gives the byte written; every other address reads as before. -/
theorem memGet_memSet (m : List Host.Cell) (x : Nat) (v : Byte) (y : Nat) :
    memGet (memSet m x v) y = if y = x then v else memGet m y := by
  unfold memSet
  split
  · rename_i h
    rw [memGet_memErase, h]
  · exact memGet_memInsert m x v y

/-- A string of bytes changes no address outside it. -/
theorem memGet_memWrite_outside (y : Nat) : ∀ (b : Bytes) (m : List Host.Cell) (x : Nat),
    y < x ∨ x + b.length ≤ y → memGet (memWrite m x b) y = memGet m y
  | [], _, _, _ => rfl
  | a :: t, m, x, h => by
    have h1 : y ≠ x := by simp at h; omega
    rw [memWrite, memGet_memWrite_outside y t _ (x + 1) (by simp at h ⊢; omega), memGet_memSet, if_neg h1]

/-- A string of bytes reads back as written. -/
theorem memGet_memWrite_inside (j : Nat) : ∀ (b : Bytes) (m : List Host.Cell) (x : Nat),
    j < b.length → memGet (memWrite m x b) (x + j) = BitVec.ofNat 8 (b.getD j 0)
  | [], _, _, h => by simp at h
  | a :: t, m, x, h => by
    cases j with
    | zero =>
      rw [memWrite, memGet_memWrite_outside _ t _ (x + 1) (by omega), memGet_memSet]
      simp
    | succ j =>
      have := memGet_memWrite_inside j t (memSet m x (BitVec.ofNat 8 a)) (x + 1) (by simpa using h)
      rw [memWrite, show x + (j + 1) = x + 1 + j by omega, this]
      simp

theorem memWfFrom_mono {b c : Nat} (h : b ≤ c) : ∀ {m : List Host.Cell}, memWfFrom c m = true → memWfFrom b m = true
  | [], _ => rfl
  | (k, v) :: t, hm => by
    simp only [memWfFrom, Bool.and_eq_true, decide_eq_true_eq] at hm ⊢
    exact ⟨⟨le_trans h hm.1.1, hm.1.2⟩, hm.2⟩

theorem memErase_keeps_wf {b : Nat} (x : Nat) :
    ∀ {m : List Host.Cell}, memWfFrom b m = true → memWfFrom b (memErase m x) = true
  | [], _ => rfl
  | (k, v) :: t, hm => by
    simp only [memWfFrom, Bool.and_eq_true, decide_eq_true_eq] at hm
    have ih := memErase_keeps_wf x hm.2
    unfold memErase
    split
    · exact memWfFrom_mono (by omega) ih
    · simp only [memWfFrom, Bool.and_eq_true, decide_eq_true_eq]
      exact ⟨hm.1, ih⟩

theorem memInsert_keeps_wf {b x : Nat} {v : Byte} (hx : b ≤ x) (hv : v ≠ 0) :
    ∀ {m : List Host.Cell}, memWfFrom b m = true → memWfFrom b (memInsert m x v) = true
  | [], _ => by
    simp only [memInsert, memWfFrom, Bool.and_eq_true, decide_eq_true_eq]
    exact ⟨⟨hx, hv⟩, trivial⟩
  | (k, w) :: t, hm => by
    simp only [memWfFrom, Bool.and_eq_true, decide_eq_true_eq] at hm
    unfold memInsert
    split
    · rename_i h
      simp only [memWfFrom, Bool.and_eq_true, decide_eq_true_eq]
      exact ⟨⟨hx, hv⟩, ⟨⟨h, hm.1.2⟩, hm.2⟩⟩
    · split
      · rename_i h1 h2
        subst h2
        simp only [memWfFrom, Bool.and_eq_true, decide_eq_true_eq]
        exact ⟨⟨hx, hv⟩, hm.2⟩
      · rename_i h1 h2
        simp only [memWfFrom, Bool.and_eq_true, decide_eq_true_eq]
        exact ⟨hm.1, memInsert_keeps_wf (by omega) hv hm.2⟩

/-- A write of a byte keeps the canonical form of memory. -/
theorem memSet_keeps_wf {m : List Host.Cell} (x : Nat) (v : Byte) (h : memWf m = true) : memWf (memSet m x v) = true := by
  unfold memSet
  split
  · exact memErase_keeps_wf x h
  · rename_i hv
    exact memInsert_keeps_wf (Nat.zero_le x) hv h

/-- A write of a string of bytes keeps the canonical form of memory. -/
theorem memWrite_keeps_wf : ∀ (b : Bytes) {m : List Host.Cell} (x : Nat), memWf m = true → memWf (memWrite m x b) = true
  | [], _, _, h => h
  | _ :: t, _, x, h => memWrite_keeps_wf t (x + 1) (memSet_keeps_wf x _ h)

/-- A write under strobes keeps the canonical form of memory. -/
theorem memStrobed_keeps_wf (x : Nat) (b : Bytes) (strobes len : Nat) {m : List Host.Cell} (h : memWf m = true) :
    memWf (memStrobed m x b strobes len) = true := by
  unfold memStrobed
  generalize List.range len = l
  induction l generalizing m with
  | nil => exact h
  | cons j l ih =>
    refine ih ?_
    dsimp only
    split
    · exact memSet_keeps_wf _ _ h
    · exact h

theorem memFilter_keeps_wf {b : Nat} (p : Host.Cell → Bool) :
    ∀ {m : List Host.Cell}, memWfFrom b m = true → memWfFrom b (m.filter p) = true
  | [], _ => rfl
  | (k, v) :: t, hm => by
    simp only [memWfFrom, Bool.and_eq_true, decide_eq_true_eq] at hm
    have ih := memFilter_keeps_wf p hm.2
    rw [List.filter_cons]
    split
    · simp only [memWfFrom, Bool.and_eq_true, decide_eq_true_eq]
      exact ⟨hm.1, ih⟩
    · exact memWfFrom_mono (by omega) ih

/-! ### Lists used as arrays -/

@[simp] theorem upd_length {α : Type} (xs : List α) (i : Nat) (f : α → α) : (upd xs i f).length = xs.length := by
  induction xs generalizing i with
  | nil => rfl
  | cons x t ih => cases i <;> simp [upd, ih]

theorem nth_upd {α : Type} (xs : List α) (i j : Nat) (f : α → α) (d : α) :
    nth (upd xs i f) j d = if j = i ∧ j < xs.length then f (nth xs j d) else nth xs j d := by
  induction xs generalizing i j with
  | nil => simp [upd, nth]
  | cons x t ih =>
    cases i with
    | zero => cases j <;> simp [upd, nth]
    | succ i =>
      cases j with
      | zero => simp [upd, nth]
      | succ j => simpa [upd, nth] using ih i j

/-- An element that is there reads as changed. -/
@[simp] theorem nth_upd_same {α : Type} (xs : List α) (i : Nat) (f : α → α) (d : α) (h : i < xs.length) :
    nth (upd xs i f) i d = f (nth xs i d) := by simp [nth_upd, h]

/-- Every other element reads as before. -/
theorem nth_upd_ne {α : Type} (xs : List α) {i j : Nat} (f : α → α) (d : α) (h : j ≠ i) :
    nth (upd xs i f) j d = nth xs j d := by simp [nth_upd, h]

end Sys2Proof.Machine
end

