-- ==== Sys2Proof/Laws/Frame.lean ====
section
/-! SUPPORT. What an operation may change: `Touches` under composition, folds, and the setters. -/

namespace Sys2Proof

open Sys2Proof.Machine

theorem Part.Same.refl (p : Part) (s : State) : p.Same s s := by cases p <;> simp [Part.Same]

theorem Part.Same.trans {p : Part} {r s t : State} (h : p.Same r s) (k : p.Same s t) : p.Same r t := by
  cases p <;> simp only [Part.Same] at h k ⊢
  case obj o => exact fun x hx => (k x hx).trans (h x hx)
  all_goals exact k.trans h

theorem Touches.refl (ps : List Part) (s : State) : Touches ps s s :=
  ⟨fun p _ => Part.Same.refl p s, id, id⟩

theorem Touches.trans {ps : List Part} {r s t : State} (h : Touches ps r s) (k : Touches ps s t) : Touches ps r t :=
  ⟨fun p hp => (h.1 p hp).trans (k.1 p hp), k.2.1 ∘ h.2.1, k.2.2 ∘ h.2.2⟩

/-- A field of an object that is not among the named parts reads as before. -/
theorem Touches.rd {ps : List Part} {r s : State} (h : Touches ps r s) (f : Field) (i : Nat) (hl : f.lo < 4096)
    (hp : (Part.obj f.obj).within ps = false) : Machine.rd s f i = Machine.rd r f i := by
  unfold Machine.rd fieldGet
  rw [h.1 _ hp _ (key_object i hl)]

/-- A value in force is as before where the values in force are not among the named parts. -/
theorem Touches.lv {ps : List Part} {r s : State} (h : Touches ps r s) (f : Field) (i : Nat)
    (hp : Part.live.within ps = false) : Machine.lv s f i = Machine.lv r f i := by
  unfold Machine.lv
  rw [show s.live = r.live from h.1 .live hp]

/-- Parts within parts that are allowed. -/
theorem sub {as bs ps : List Part} (hp : ∀ p ∈ bs, p.within ps = true) (h : ∀ p ∈ as, p.within bs = true) :
    ∀ p ∈ as, p.within ps = true := by
  intro p hq
  have k := h p hq
  cases p <;> simp only [Part.within, List.contains_iff_mem, Bool.or_eq_true] at k
  case obj o =>
    obtain k | k := k
    · have := hp _ k
      simp only [Part.within, List.contains_iff_mem] at this
      simp [Part.within, this]
    · exact hp _ k
  all_goals exact hp _ k

theorem Touches.mono {ps qs : List Part} {r s : State} (h : Touches ps r s) (hq : ∀ p ∈ ps, p.within qs = true) :
    Touches qs r s := by
  refine ⟨fun p hp => h.1 p ?_, h.2⟩
  by_contra k
  have := sub hq (as := [p]) (by simpa using k) p List.mem_cons_self
  simp [this] at hp

/-- A fold touches what each of its steps touches. -/
theorem Touches.foldl {α : Type} {ps : List Part} {r : State} (f : State → α → State) (l : List α) {s : State}
    (h : Touches ps r s) (hf : ∀ t x, Touches ps r t → Touches ps r (f t x)) : Touches ps r (l.foldl f s) := by
  induction l generalizing s with
  | nil => exact h
  | cons x l ih => exact ih (hf s x h)

/-- A fold over the elements of a list, each known to be one of them. -/
theorem Touches.foldlMem {α : Type} {ps : List Part} {r : State} (f : State → α → State) (l : List α) {s : State}
    (h : Touches ps r s) (hf : ∀ t x, x ∈ l → Touches ps r t → Touches ps r (f t x)) : Touches ps r (l.foldl f s) := by
  induction l generalizing s with
  | nil => exact h
  | cons x l ih =>
    exact ih (hf s x List.mem_cons_self h) (fun t y hy => hf t y (List.mem_cons_of_mem _ hy))

/-- A fold whose accumulator carries a state in its first or second place. -/
theorem Touches.foldlFst {α β : Type} {ps : List Part} {r : State} (f : State × β → α → State × β) (l : List α)
    {a : State × β} (h : Touches ps r a.1) (hf : ∀ b x, Touches ps r b.1 → Touches ps r (f b x).1) :
    Touches ps r (l.foldl f a).1 := by
  induction l generalizing a with
  | nil => exact h
  | cons x l ih => exact ih (hf a x h)

theorem Touches.foldlSnd {α β : Type} {ps : List Part} {r : State} (f : β × State → α → β × State) (l : List α)
    {a : β × State} (h : Touches ps r a.2) (hf : ∀ b x, Touches ps r b.2 → Touches ps r (f b x).2) :
    Touches ps r (l.foldl f a).2 := by
  induction l generalizing a with
  | nil => exact h
  | cons x l ih => exact ih (hf a x h)

theorem Touches.foldlSndSnd {α β γ : Type} {ps : List Part} {r : State} (f : β × γ × State → α → β × γ × State)
    (l : List α) {a : β × γ × State} (h : Touches ps r a.2.2)
    (hf : ∀ b x, Touches ps r b.2.2 → Touches ps r (f b x).2.2) : Touches ps r (l.foldl f a).2.2 := by
  induction l generalizing a with
  | nil => exact h
  | cons x l ih => exact ih (hf a x h)

/-! ### The setters -/

/-- No field at the place of `MODE_STATE.CURRENT`, and within its object. -/
def plainField (f : Field) : Bool := decide (f.lo < 4096) && !(f.obj == 0x1011 && f.lo == 0)

theorem plainField_lo {f : Field} (h : plainField f = true) : f.lo < 4096 := by
  simp only [plainField, Bool.and_eq_true, decide_eq_true_eq] at h
  exact h.1

theorem bounded_wr {s : State} {f : Field} (i v : Nat) (hf : plainField f = true) (h : Bounded s) :
    Bounded (wr s f i v) := by
  refine ⟨?_, h.2⟩
  have : rd (wr s f i v) Obj.MODE_STATE.CURRENT = rd s Obj.MODE_STATE.CURRENT := by
    refine fieldGet_fieldSet_ne _ _ (fun e => ?_)
    simp only [plainField, Bool.and_eq_true, decide_eq_true_eq, Bool.not_eq_true', Bool.and_eq_false_iff,
      beq_eq_false_iff_ne, Field.key, Obj.MODE_STATE.CURRENT] at hf e
    omega
  exact this ▸ h.1

theorem touches_wr {ps : List Part} {r s : State} (h : Touches ps r s) (f : Field) (i v : Nat)
    (hf : plainField f = true ∧ (Part.obj f.obj).within ps = true) : Touches ps r (wr s f i v) := by
  refine ⟨fun p hp => (h.1 p hp).trans ?_, fun w => ⟨fieldSet_keeps_wf _ _ _ (h.2.1 w).1, (h.2.1 w).2⟩,
    fun w => bounded_wr i v hf.1 (h.2.2 w)⟩
  cases p <;> try first | exact rfl | trivial
  case obj o =>
    intro k hk
    refine mapGet_mapSet_ne _ _ (fun e => ?_)
    rw [e, key_object i (plainField_lo hf.1)] at hk
    simp [← hk, hf.2] at hp

/-- A legal mode written to `MODE_STATE.CURRENT`. -/
theorem touches_wr_current {ps : List Part} {r s : State} (h : Touches ps r s) (v : Nat) (hv : v ≤ 11)
    (hp : (Part.obj 0x1011).within ps = true) : Touches ps r (wr s Obj.MODE_STATE.CURRENT 0 v) := by
  refine ⟨fun p hq => (h.1 p hq).trans ?_, fun w => ⟨fieldSet_keeps_wf _ _ _ (h.2.1 w).1, (h.2.1 w).2⟩,
    fun w => ⟨?_, (h.2.2 w).2⟩⟩
  · cases p <;> try first | exact rfl | trivial
    case obj o =>
      intro k hk
      refine mapGet_mapSet_ne _ _ (fun e => ?_)
      rw [e, key_object 0 (by decide)] at hk
      rw [← hk] at hq
      exact absurd (hp.symm.trans hq) (by decide)
  · show fieldGet (fieldSet _ _ _ _) _ _ ≤ 11
    rw [fieldGet_fieldSet_same]
    exact (Nat.mod_le _ _).trans hv

theorem touches_wr_any {ps : List Part} {r s : State} (h : Touches ps r s) (f : Field) (i v : Nat)
    (hf : plainField f = true) (hp : Part.regs.within ps = true) : Touches ps r (wr s f i v) := by
  refine ⟨fun p k => (h.1 p k).trans ?_, fun w => ⟨fieldSet_keeps_wf _ _ _ (h.2.1 w).1, (h.2.1 w).2⟩,
    fun w => bounded_wr i v hf (h.2.2 w)⟩
  cases p <;> try first | exact rfl | trivial
  case obj o =>
    simp only [Part.within, Bool.or_eq_false_iff] at hp k
    exact absurd (hp.symm.trans k.1) (by decide)

/-- A list of fields written one after the other. -/
theorem touches_wrPairs {ps : List Part} {r s : State} (h : Touches ps r s) (l : List (Field × Nat)) (i : Nat)
    (hf : ∀ x ∈ l, plainField x.1 = true ∧ (Part.obj x.1.obj).within ps = true) :
    Touches ps r (l.foldl (fun t p => wr t p.1 i p.2) s) :=
  Touches.foldlMem _ _ h (fun _ x hx ht => touches_wr ht _ _ _ (hf x hx))

/-- A list of fields written to one value. -/
theorem touches_wrFields {ps : List Part} {r s : State} (h : Touches ps r s) (l : List Field) (i v : Nat)
    (hf : ∀ f ∈ l, plainField f = true ∧ (Part.obj f.obj).within ps = true) :
    Touches ps r (l.foldl (fun t f => wr t f i v) s) :=
  Touches.foldlMem _ _ h (fun _ x hx ht => touches_wr ht _ _ _ (hf x hx))

theorem touches_bump {ps : List Part} {r s : State} (h : Touches ps r s) (f : Field) (i v : Nat)
    (hf : plainField f = true ∧ (Part.obj f.obj).within ps = true) : Touches ps r (bump s f i v) := touches_wr h f i _ hf

theorem touches_bumpSat {ps : List Part} {r s : State} (h : Touches ps r s) (f : Field) (i v : Nat)
    (hf : plainField f = true ∧ (Part.obj f.obj).within ps = true) : Touches ps r (bumpSat s f i v) := touches_wr h f i _ hf

theorem touches_setLive {ps : List Part} {r s : State} (h : Touches ps r s) (f : Field) (i v : Nat)
    (hp : Part.live.within ps = true) : Touches ps r (setLive s f i v) := by
  refine ⟨fun p k => (h.1 p k).trans ?_, fun w => ⟨(h.2.1 w).1, fieldSet_keeps_wf _ _ _ (h.2.1 w).2.1, (h.2.1 w).2.2⟩,
    fun w => h.2.2 w⟩
  cases p <;> first | exact rfl | exact absurd (hp.symm.trans k) (by decide) | exact fun _ _ => rfl | trivial

theorem touches_storeBytes {ps : List Part} {r s : State} (h : Touches ps r s) (x : Nat) (b : Bytes)
    (hp : Part.mem.within ps = true) : Touches ps r (storeBytes s x b) := by
  refine ⟨fun p k => (h.1 p k).trans ?_, fun w => ⟨(h.2.1 w).1, (h.2.1 w).2.1, memWrite_keeps_wf _ _ (h.2.1 w).2.2⟩,
    fun w => h.2.2 w⟩
  cases p <;> first | exact rfl | exact absurd (hp.symm.trans k) (by decide) | exact fun _ _ => rfl | trivial

theorem touches_setTime {ps : List Part} {r s : State} (h : Touches ps r s) (f : TimeBase → TimeBase)
    (hp : Part.time.within ps = true) (hr : (f s.time).rc64 = s.time.rc64 ∨ Part.rc64.within ps = true) :
    Touches ps r (setTime s f) := by
  refine ⟨fun p k => (h.1 p k).trans ?_, fun w => h.2.1 w, fun w => h.2.2 w⟩
  cases p <;> try first | exact rfl | exact absurd (hp.symm.trans k) (by decide) | exact fun _ _ => rfl | trivial
  case rc64 => exact hr.elim id (fun e => absurd (e.symm.trans k) (by decide))

theorem touches_setPort {ps : List Part} {r s : State} (h : Touches ps r s) (p : Nat) (f : NetPortState → NetPortState)
    (hp : Part.net.within ps = true) : Touches ps r (setPort s p f) := by
  refine ⟨fun p k => (h.1 p k).trans ?_, fun w => h.2.1 w, fun w => h.2.2 w⟩
  cases p <;> first | exact rfl | exact absurd (hp.symm.trans k) (by decide) | exact fun _ _ => rfl | trivial

theorem touches_setModes {ps : List Part} {r s : State} (h : Touches ps r s) (f : Modes → Modes)
    (hp : Part.modes.within ps = true) : Touches ps r (setModes s f) := by
  refine ⟨fun p k => (h.1 p k).trans ?_, fun w => h.2.1 w, fun w => h.2.2 w⟩
  cases p <;> first | exact rfl | exact absurd (hp.symm.trans k) (by decide) | exact fun _ _ => rfl | trivial

theorem touches_setInput {ps : List Part} {r s : State} (h : Touches ps r s) (i : Nat) (f : AfeInput → AfeInput)
    (hp : Part.afe.within ps = true) : Touches ps r (setInput s i f) := by
  refine ⟨fun p k => (h.1 p k).trans ?_, fun w => h.2.1 w, fun w => h.2.2 w⟩
  cases p <;> first | exact rfl | exact absurd (hp.symm.trans k) (by decide) | exact fun _ _ => rfl | trivial

theorem touches_setBbl {ps : List Part} {r s : State} (h : Touches ps r s) (f : Bluebell → Bluebell)
    (hp : Part.bbl.within ps = true) : Touches ps r (setBbl s f) := by
  refine ⟨fun p k => (h.1 p k).trans ?_, fun w => h.2.1 w, fun w => h.2.2 w⟩
  cases p <;> first | exact rfl | exact absurd (hp.symm.trans k) (by decide) | exact fun _ _ => rfl | trivial

theorem touches_setWindow {ps : List Part} {r s : State} (h : Touches ps r s) (i : Nat) (f : Window → Window)
    (hp : Part.bbl.within ps = true) : Touches ps r (setWindow s i f) := by
  refine ⟨fun p k => (h.1 p k).trans ?_, fun w => h.2.1 w, fun w => h.2.2 w⟩
  cases p <;> first | exact rfl | exact absurd (hp.symm.trans k) (by decide) | exact fun _ _ => rfl | trivial

theorem touches_setCnv {ps : List Part} {r s : State} (h : Touches ps r s) (f : Converters → Converters)
    (hp : Part.cnv.within ps = true) : Touches ps r (setCnv s f) := by
  refine ⟨fun p k => (h.1 p k).trans ?_, fun w => h.2.1 w, fun w => h.2.2 w⟩
  cases p <;> first | exact rfl | exact absurd (hp.symm.trans k) (by decide) | exact fun _ _ => rfl | trivial

theorem touches_setChz {ps : List Part} {r s : State} (h : Touches ps r s) (f : Channelizer → Channelizer)
    (hp : Part.chz.within ps = true) : Touches ps r (setChz s f) := by
  refine ⟨fun p k => (h.1 p k).trans ?_, fun w => h.2.1 w, fun w => h.2.2 w⟩
  cases p <;> first | exact rfl | exact absurd (hp.symm.trans k) (by decide) | exact fun _ _ => rfl | trivial

theorem touches_setTrg {ps : List Part} {r s : State} (h : Touches ps r s) (f : Trigger → Trigger)
    (hp : Part.trg.within ps = true) : Touches ps r (setTrg s f) := by
  refine ⟨fun p k => (h.1 p k).trans ?_, fun w => h.2.1 w, fun w => h.2.2 w⟩
  cases p <;> first | exact rfl | exact absurd (hp.symm.trans k) (by decide) | exact fun _ _ => rfl | trivial

theorem touches_setEvt {ps : List Part} {r s : State} (h : Touches ps r s) (f : EventStage → EventStage)
    (hp : Part.evt.within ps = true) : Touches ps r (setEvt s f) := by
  refine ⟨fun p k => (h.1 p k).trans ?_, fun w => h.2.1 w, fun w => h.2.2 w⟩
  cases p <;> first | exact rfl | exact absurd (hp.symm.trans k) (by decide) | exact fun _ _ => rfl | trivial

theorem touches_setFrag {ps : List Part} {r s : State} (h : Touches ps r s) (i : Nat) (f : Fragment → Fragment)
    (hp : Part.evt.within ps = true) : Touches ps r (setFrag s i f) := by
  refine ⟨fun p k => (h.1 p k).trans ?_, fun w => h.2.1 w, fun w => h.2.2 w⟩
  cases p <;> first | exact rfl | exact absurd (hp.symm.trans k) (by decide) | exact fun _ _ => rfl | trivial

theorem touches_setCmp {ps : List Part} {r s : State} (h : Touches ps r s) (f : Compression → Compression)
    (hp : Part.cmp.within ps = true) : Touches ps r (setCmp s f) := by
  refine ⟨fun p k => (h.1 p k).trans ?_, fun w => h.2.1 w, fun w => h.2.2 w⟩
  cases p <;> first | exact rfl | exact absurd (hp.symm.trans k) (by decide) | exact fun _ _ => rfl | trivial

theorem touches_setDah {ps : List Part} {r s : State} (h : Touches ps r s) (f : DahliaState → DahliaState)
    (hp : Part.dah.within ps = true) : Touches ps r (setDah s f) := by
  refine ⟨fun p k => (h.1 p k).trans ?_, fun w => h.2.1 w, fun w => h.2.2 w⟩
  cases p <;> first | exact rfl | exact absurd (hp.symm.trans k) (by decide) | exact fun _ _ => rfl | trivial

theorem touches_setPeer {ps : List Part} {r s : State} (h : Touches ps r s) (f : PeerState → PeerState)
    (hp : Part.peer.within ps = true) : Touches ps r (setPeer s f) := by
  refine ⟨fun p k => (h.1 p k).trans ?_, fun w => h.2.1 w, fun w => h.2.2 w⟩
  cases p <;> first | exact rfl | exact absurd (hp.symm.trans k) (by decide) | exact fun _ _ => rfl | trivial

theorem touches_setConc {ps : List Part} {r s : State} (h : Touches ps r s) (f : Concentrator → Concentrator)
    (hp : Part.conc.within ps = true) : Touches ps r (setConc s f) := by
  refine ⟨fun p k => (h.1 p k).trans ?_, fun w => h.2.1 w, fun w => h.2.2 w⟩
  cases p <;> first | exact rfl | exact absurd (hp.symm.trans k) (by decide) | exact fun _ _ => rfl | trivial

theorem touches_setSun {ps : List Part} {r s : State} (h : Touches ps r s) (f : SunflowerState → SunflowerState)
    (hp : Part.sun.within ps = true) : Touches ps r (setSun s f) := by
  refine ⟨fun p k => (h.1 p k).trans ?_, fun w => h.2.1 w, fun w => h.2.2 w⟩
  cases p <;> first | exact rfl | exact absurd (hp.symm.trans k) (by decide) | exact fun _ _ => rfl | trivial

theorem touches_setFst {ps : List Part} {r s : State} (h : Touches ps r s) (f : FieldStore → FieldStore)
    (hp : Part.fst.within ps = true) : Touches ps r (setFst s f) := by
  refine ⟨fun p k => (h.1 p k).trans ?_, fun w => h.2.1 w, fun w => h.2.2 w⟩
  cases p <;> first | exact rfl | exact absurd (hp.symm.trans k) (by decide) | exact fun _ _ => rfl | trivial

theorem touches_setMov {ps : List Part} {r s : State} (h : Touches ps r s) (f : Movement → Movement)
    (hp : Part.mov.within ps = true) : Touches ps r (setMov s f) := by
  refine ⟨fun p k => (h.1 p k).trans ?_, fun w => h.2.1 w, fun w => h.2.2 w⟩
  cases p <;> first | exact rfl | exact absurd (hp.symm.trans k) (by decide) | exact fun _ _ => rfl | trivial

theorem touches_setRing {ps : List Part} {r s : State} (h : Touches ps r s) (i : Nat) (f : DmaRing → DmaRing)
    (hp : Part.mov.within ps = true) : Touches ps r (setRing s i f) := by
  refine ⟨fun p k => (h.1 p k).trans ?_, fun w => h.2.1 w, fun w => h.2.2 w⟩
  cases p <;> first | exact rfl | exact absurd (hp.symm.trans k) (by decide) | exact fun _ _ => rfl | trivial

theorem touches_setLink {ps : List Part} {r s : State} (h : Touches ps r s) (l : Nat) (f : AxLink → AxLink)
    (hp : Part.axl.within ps = true) : Touches ps r (setLink s l f) := by
  refine ⟨fun p k => (h.1 p k).trans ?_, fun w => h.2.1 w, fun w => h.2.2 w⟩
  cases p <;> first | exact rfl | exact absurd (hp.symm.trans k) (by decide) | exact fun _ _ => rfl | trivial

theorem touches_setAxPort {ps : List Part} {r s : State} (h : Touches ps r s) (p : Nat) (f : AxPort → AxPort)
    (hp : Part.axl.within ps = true) : Touches ps r (setAxPort s p f) := by
  refine ⟨fun p k => (h.1 p k).trans ?_, fun w => h.2.1 w, fun w => h.2.2 w⟩
  cases p <;> first | exact rfl | exact absurd (hp.symm.trans k) (by decide) | exact fun _ _ => rfl | trivial

theorem touches_setCtl {ps : List Part} {r s : State} (h : Touches ps r s) (f : Ctl → Ctl)
    (hp : Part.ctl.within ps = true) : Touches ps r (setCtl s f) := by
  refine ⟨fun p k => (h.1 p k).trans ?_, fun w => h.2.1 w, fun w => h.2.2 w⟩
  cases p <;> first | exact rfl | exact absurd (hp.symm.trans k) (by decide) | exact fun _ _ => rfl | trivial

theorem touches_setMail {ps : List Part} {r s : State} (h : Touches ps r s) (m : Nat) (f : Mailbox → Mailbox)
    (hp : Part.ctl.within ps = true) : Touches ps r (setMail s m f) := by
  refine ⟨fun p k => (h.1 p k).trans ?_, fun w => h.2.1 w, fun w => h.2.2 w⟩
  cases p <;> first | exact rfl | exact absurd (hp.symm.trans k) (by decide) | exact fun _ _ => rfl | trivial

theorem touches_setHead {ps : List Part} {r s : State} (h : Touches ps r s) (m : Nat) (f : Request → Request)
    (hp : Part.ctl.within ps = true) : Touches ps r (setHead s m f) := by
  refine ⟨fun p k => (h.1 p k).trans ?_, fun w => h.2.1 w, fun w => h.2.2 w⟩
  cases p <;> first | exact rfl | exact absurd (hp.symm.trans k) (by decide) | exact fun _ _ => rfl | trivial

theorem touches_setSlot {ps : List Part} {r s : State} (h : Touches ps r s) (k : Nat) (b : Bytes)
    (hp : Part.ctl.within ps = true) : Touches ps r (setSlot s k b) := by
  refine ⟨fun p k => (h.1 p k).trans ?_, fun w => h.2.1 w, fun w => h.2.2 w⟩
  cases p <;> first | exact rfl | exact absurd (hp.symm.trans k) (by decide) | exact fun _ _ => rfl | trivial

theorem touches_setPwr {ps : List Part} {r s : State} (h : Touches ps r s) (f : Power → Power)
    (hp : Part.pwr.within ps = true) : Touches ps r (setPwr s f) := by
  refine ⟨fun p k => (h.1 p k).trans ?_, fun w => h.2.1 w, fun w => h.2.2 w⟩
  cases p <;> first | exact rfl | exact absurd (hp.symm.trans k) (by decide) | exact fun _ _ => rfl | trivial

theorem touches_setSleep {ps : List Part} {r s : State} (h : Touches ps r s) (d : Nat) (f : SleepReq → SleepReq)
    (hp : Part.pwr.within ps = true) : Touches ps r (setSleep s d f) := by
  refine ⟨fun p k => (h.1 p k).trans ?_, fun w => h.2.1 w, fun w => h.2.2 w⟩
  cases p <;> first | exact rfl | exact absurd (hp.symm.trans k) (by decide) | exact fun _ _ => rfl | trivial

theorem touches_setHk {ps : List Part} {r s : State} (h : Touches ps r s) (f : Housekeeping → Housekeeping)
    (hp : Part.hk.within ps = true) : Touches ps r (setHk s f) := by
  refine ⟨fun p k => (h.1 p k).trans ?_, fun w => h.2.1 w, fun w => h.2.2 w⟩
  cases p <;> first | exact rfl | exact absurd (hp.symm.trans k) (by decide) | exact fun _ _ => rfl | trivial

theorem touches_setCal {ps : List Part} {r s : State} (h : Touches ps r s) (f : Injectors → Injectors)
    (hp : Part.cal.within ps = true) : Touches ps r (setCal s f) := by
  refine ⟨fun p k => (h.1 p k).trans ?_, fun w => h.2.1 w, fun w => h.2.2 w⟩
  cases p <;> first | exact rfl | exact absurd (hp.symm.trans k) (by decide) | exact fun _ _ => rfl | trivial

theorem touches_setString {ps : List Part} {r s : State} (h : Touches ps r s) (n : Nat) (f : CalString → CalString)
    (hp : Part.cal.within ps = true) : Touches ps r (setString s n f) := by
  refine ⟨fun p k => (h.1 p k).trans ?_, fun w => h.2.1 w, fun w => h.2.2 w⟩
  cases p <;> first | exact rfl | exact absurd (hp.symm.trans k) (by decide) | exact fun _ _ => rfl | trivial

theorem touches_setAon {ps : List Part} {r s : State} (h : Touches ps r s) (f : AlwaysOn → AlwaysOn)
    (hp : Part.aon.within ps = true) : Touches ps r (setAon s f) := by
  refine ⟨fun p k => (h.1 p k).trans ?_, fun w => h.2.1 w, fun w => h.2.2 w⟩
  cases p <;> first | exact rfl | exact absurd (hp.symm.trans k) (by decide) | exact fun _ _ => rfl | trivial

theorem touches_emit {ps : List Part} {r s : State} (h : Touches ps r s) (o : Out)
    (hp : Part.out.within ps = true) : Touches ps r (emit s o) := by
  refine ⟨fun p k => (h.1 p k).trans ?_, fun w => h.2.1 w, fun w => h.2.2 w⟩
  cases p <;> first | exact rfl | exact absurd (hp.symm.trans k) (by decide) | exact fun _ _ => rfl | trivial

theorem noticeAt_bound (s : State) (n : Nat) (b : NoticeBody) (h : s.notes.queue.length ≤ 64) :
    (noticeAt s n b).notes.queue.length ≤ 64 := by
  simp only [noticeAt]
  split
  · next k => simpa [noticeQueueSlots] using k
  · exact h

theorem touches_noticeAt {ps : List Part} {r s : State} (h : Touches ps r s) (n : Nat) (b : NoticeBody)
    (hp : Part.notes.within ps = true) : Touches ps r (noticeAt s n b) := by
  refine ⟨fun p k => (h.1 p k).trans ?_, fun w => h.2.1 w, fun w =>
    ⟨(h.2.2 w).1, noticeAt_bound s n b (h.2.2 w).2.1, (h.2.2 w).2.2⟩⟩
  cases p <;> first | exact rfl | exact absurd (hp.symm.trans k) (by decide) | exact fun _ _ => rfl | trivial

theorem touches_part_live {ps : List Part} {r s : State} (h : Touches ps r s) (v : SMap) (hv : mapWf s.live = true → mapWf v = true) (hp : Part.live.within ps = true) :
    Touches ps r { s with live := v } := by
  refine ⟨fun p k => (h.1 p k).trans ?_, fun w => ⟨(h.2.1 w).1, hv (h.2.1 w).2.1, (h.2.1 w).2.2⟩,
    fun w => h.2.2 w⟩
  cases p <;> first | exact rfl | exact absurd (hp.symm.trans k) (by decide) | exact fun _ _ => rfl | trivial

theorem touches_part_mem {ps : List Part} {r s : State} (h : Touches ps r s) (v : List Host.Cell) 
    (hv : memWf s.mem = true → memWf v = true) (hp : Part.mem.within ps = true) :
    Touches ps r { s with mem := v } := by
  refine ⟨fun p k => (h.1 p k).trans ?_, fun w => ⟨(h.2.1 w).1, (h.2.1 w).2.1, hv (h.2.1 w).2.2⟩,
    fun w => h.2.2 w⟩
  cases p <;> first | exact rfl | exact absurd (hp.symm.trans k) (by decide) | exact fun _ _ => rfl | trivial

theorem touches_part_time {ps : List Part} {r s : State} (h : Touches ps r s) (v : TimeBase) (hp : Part.time.within ps = true)
    (hr : v.rc64 = s.time.rc64) : Touches ps r { s with time := v } := by
  refine ⟨fun p k => (h.1 p k).trans ?_, fun w => h.2.1 w, fun w => h.2.2 w⟩
  cases p <;> try first | exact rfl | exact absurd (hp.symm.trans k) (by decide) | exact fun _ _ => rfl | trivial

theorem touches_part_net {ps : List Part} {r s : State} (h : Touches ps r s) (v : Net) (hp : Part.net.within ps = true) :
    Touches ps r { s with net := v } := by
  refine ⟨fun p k => (h.1 p k).trans ?_, fun w => h.2.1 w, fun w => h.2.2 w⟩
  cases p <;> first | exact rfl | exact absurd (hp.symm.trans k) (by decide) | exact fun _ _ => rfl | trivial

theorem touches_part_modes {ps : List Part} {r s : State} (h : Touches ps r s) (v : Modes) (hp : Part.modes.within ps = true) :
    Touches ps r { s with modes := v } := by
  refine ⟨fun p k => (h.1 p k).trans ?_, fun w => h.2.1 w, fun w => h.2.2 w⟩
  cases p <;> first | exact rfl | exact absurd (hp.symm.trans k) (by decide) | exact fun _ _ => rfl | trivial

theorem touches_part_afe {ps : List Part} {r s : State} (h : Touches ps r s) (v : Afe) (hp : Part.afe.within ps = true) :
    Touches ps r { s with afe := v } := by
  refine ⟨fun p k => (h.1 p k).trans ?_, fun w => h.2.1 w, fun w => h.2.2 w⟩
  cases p <;> first | exact rfl | exact absurd (hp.symm.trans k) (by decide) | exact fun _ _ => rfl | trivial

theorem touches_part_bbl {ps : List Part} {r s : State} (h : Touches ps r s) (v : Bluebell) (hp : Part.bbl.within ps = true) :
    Touches ps r { s with bbl := v } := by
  refine ⟨fun p k => (h.1 p k).trans ?_, fun w => h.2.1 w, fun w => h.2.2 w⟩
  cases p <;> first | exact rfl | exact absurd (hp.symm.trans k) (by decide) | exact fun _ _ => rfl | trivial

theorem touches_part_cnv {ps : List Part} {r s : State} (h : Touches ps r s) (v : Converters) (hp : Part.cnv.within ps = true) :
    Touches ps r { s with cnv := v } := by
  refine ⟨fun p k => (h.1 p k).trans ?_, fun w => h.2.1 w, fun w => h.2.2 w⟩
  cases p <;> first | exact rfl | exact absurd (hp.symm.trans k) (by decide) | exact fun _ _ => rfl | trivial

theorem touches_part_chz {ps : List Part} {r s : State} (h : Touches ps r s) (v : Channelizer) (hp : Part.chz.within ps = true) :
    Touches ps r { s with chz := v } := by
  refine ⟨fun p k => (h.1 p k).trans ?_, fun w => h.2.1 w, fun w => h.2.2 w⟩
  cases p <;> first | exact rfl | exact absurd (hp.symm.trans k) (by decide) | exact fun _ _ => rfl | trivial

theorem touches_part_trg {ps : List Part} {r s : State} (h : Touches ps r s) (v : Trigger) (hp : Part.trg.within ps = true) :
    Touches ps r { s with trg := v } := by
  refine ⟨fun p k => (h.1 p k).trans ?_, fun w => h.2.1 w, fun w => h.2.2 w⟩
  cases p <;> first | exact rfl | exact absurd (hp.symm.trans k) (by decide) | exact fun _ _ => rfl | trivial

theorem touches_part_evt {ps : List Part} {r s : State} (h : Touches ps r s) (v : EventStage) (hp : Part.evt.within ps = true) :
    Touches ps r { s with evt := v } := by
  refine ⟨fun p k => (h.1 p k).trans ?_, fun w => h.2.1 w, fun w => h.2.2 w⟩
  cases p <;> first | exact rfl | exact absurd (hp.symm.trans k) (by decide) | exact fun _ _ => rfl | trivial

theorem touches_part_cmp {ps : List Part} {r s : State} (h : Touches ps r s) (v : Compression) (hp : Part.cmp.within ps = true) :
    Touches ps r { s with cmp := v } := by
  refine ⟨fun p k => (h.1 p k).trans ?_, fun w => h.2.1 w, fun w => h.2.2 w⟩
  cases p <;> first | exact rfl | exact absurd (hp.symm.trans k) (by decide) | exact fun _ _ => rfl | trivial

theorem touches_part_dah {ps : List Part} {r s : State} (h : Touches ps r s) (v : DahliaState) (hp : Part.dah.within ps = true) :
    Touches ps r { s with dah := v } := by
  refine ⟨fun p k => (h.1 p k).trans ?_, fun w => h.2.1 w, fun w => h.2.2 w⟩
  cases p <;> first | exact rfl | exact absurd (hp.symm.trans k) (by decide) | exact fun _ _ => rfl | trivial

theorem touches_part_peer {ps : List Part} {r s : State} (h : Touches ps r s) (v : PeerState) (hp : Part.peer.within ps = true) :
    Touches ps r { s with peer := v } := by
  refine ⟨fun p k => (h.1 p k).trans ?_, fun w => h.2.1 w, fun w => h.2.2 w⟩
  cases p <;> first | exact rfl | exact absurd (hp.symm.trans k) (by decide) | exact fun _ _ => rfl | trivial

theorem touches_part_conc {ps : List Part} {r s : State} (h : Touches ps r s) (v : Concentrator) (hp : Part.conc.within ps = true) :
    Touches ps r { s with conc := v } := by
  refine ⟨fun p k => (h.1 p k).trans ?_, fun w => h.2.1 w, fun w => h.2.2 w⟩
  cases p <;> first | exact rfl | exact absurd (hp.symm.trans k) (by decide) | exact fun _ _ => rfl | trivial

theorem touches_part_sun {ps : List Part} {r s : State} (h : Touches ps r s) (v : SunflowerState) (hp : Part.sun.within ps = true) :
    Touches ps r { s with sun := v } := by
  refine ⟨fun p k => (h.1 p k).trans ?_, fun w => h.2.1 w, fun w => h.2.2 w⟩
  cases p <;> first | exact rfl | exact absurd (hp.symm.trans k) (by decide) | exact fun _ _ => rfl | trivial

theorem touches_part_fst {ps : List Part} {r s : State} (h : Touches ps r s) (v : FieldStore) (hp : Part.fst.within ps = true) :
    Touches ps r { s with fst := v } := by
  refine ⟨fun p k => (h.1 p k).trans ?_, fun w => h.2.1 w, fun w => h.2.2 w⟩
  cases p <;> first | exact rfl | exact absurd (hp.symm.trans k) (by decide) | exact fun _ _ => rfl | trivial

theorem touches_part_mov {ps : List Part} {r s : State} (h : Touches ps r s) (v : Movement) (hp : Part.mov.within ps = true) :
    Touches ps r { s with mov := v } := by
  refine ⟨fun p k => (h.1 p k).trans ?_, fun w => h.2.1 w, fun w => h.2.2 w⟩
  cases p <;> first | exact rfl | exact absurd (hp.symm.trans k) (by decide) | exact fun _ _ => rfl | trivial

theorem touches_part_axl {ps : List Part} {r s : State} (h : Touches ps r s) (v : Axrel) (hp : Part.axl.within ps = true) :
    Touches ps r { s with axl := v } := by
  refine ⟨fun p k => (h.1 p k).trans ?_, fun w => h.2.1 w, fun w => h.2.2 w⟩
  cases p <;> first | exact rfl | exact absurd (hp.symm.trans k) (by decide) | exact fun _ _ => rfl | trivial

theorem touches_part_ctl {ps : List Part} {r s : State} (h : Touches ps r s) (v : Ctl) (hp : Part.ctl.within ps = true) :
    Touches ps r { s with ctl := v } := by
  refine ⟨fun p k => (h.1 p k).trans ?_, fun w => h.2.1 w, fun w => h.2.2 w⟩
  cases p <;> first | exact rfl | exact absurd (hp.symm.trans k) (by decide) | exact fun _ _ => rfl | trivial

theorem touches_part_pwr {ps : List Part} {r s : State} (h : Touches ps r s) (v : Power) (hp : Part.pwr.within ps = true) :
    Touches ps r { s with pwr := v } := by
  refine ⟨fun p k => (h.1 p k).trans ?_, fun w => h.2.1 w, fun w => h.2.2 w⟩
  cases p <;> first | exact rfl | exact absurd (hp.symm.trans k) (by decide) | exact fun _ _ => rfl | trivial

theorem touches_part_hk {ps : List Part} {r s : State} (h : Touches ps r s) (v : Housekeeping) (hp : Part.hk.within ps = true) :
    Touches ps r { s with hk := v } := by
  refine ⟨fun p k => (h.1 p k).trans ?_, fun w => h.2.1 w, fun w => h.2.2 w⟩
  cases p <;> first | exact rfl | exact absurd (hp.symm.trans k) (by decide) | exact fun _ _ => rfl | trivial

theorem touches_part_cal {ps : List Part} {r s : State} (h : Touches ps r s) (v : Injectors) (hp : Part.cal.within ps = true) :
    Touches ps r { s with cal := v } := by
  refine ⟨fun p k => (h.1 p k).trans ?_, fun w => h.2.1 w, fun w => h.2.2 w⟩
  cases p <;> first | exact rfl | exact absurd (hp.symm.trans k) (by decide) | exact fun _ _ => rfl | trivial

theorem touches_part_aon {ps : List Part} {r s : State} (h : Touches ps r s) (v : AlwaysOn) (hp : Part.aon.within ps = true) :
    Touches ps r { s with aon := v } := by
  refine ⟨fun p k => (h.1 p k).trans ?_, fun w => h.2.1 w, fun w => h.2.2 w⟩
  cases p <;> first | exact rfl | exact absurd (hp.symm.trans k) (by decide) | exact fun _ _ => rfl | trivial

/-- A fault log that is within its bounds stays so. -/
def LogBound (u v : Faults) : Prop :=
  (u.retained.length ≤ 256 → v.retained.length ≤ 256) ∧ (u.region.length ≤ 16384 → v.region.length ≤ 16384)

theorem touches_part_flt {ps : List Part} {r s : State} (h : Touches ps r s) (v : Faults) (hp : Part.flt.within ps = true)
    (hv : LogBound s.flt v) : Touches ps r { s with flt := v } := by
  refine ⟨fun p k => (h.1 p k).trans ?_, fun w => h.2.1 w, fun w =>
    ⟨(h.2.2 w).1, (h.2.2 w).2.1, hv.1 (h.2.2 w).2.2.1, hv.2 (h.2.2 w).2.2.2⟩⟩
  cases p <;> first | exact rfl | exact absurd (hp.symm.trans k) (by decide) | exact fun _ _ => rfl | trivial

theorem touches_part_notes {ps : List Part} {r s : State} (h : Touches ps r s) (v : Notices) (hp : Part.notes.within ps = true)
    (hv : s.notes.queue.length ≤ 64 → v.queue.length ≤ 64) : Touches ps r { s with notes := v } := by
  refine ⟨fun p k => (h.1 p k).trans ?_, fun w => h.2.1 w, fun w =>
    ⟨(h.2.2 w).1, hv (h.2.2 w).2.1, (h.2.2 w).2.2⟩⟩
  cases p <;> first | exact rfl | exact absurd (hp.symm.trans k) (by decide) | exact fun _ _ => rfl | trivial

theorem touches_part_out {ps : List Part} {r s : State} (h : Touches ps r s) (v : List Out) (hp : Part.out.within ps = true) :
    Touches ps r { s with out := v } := by
  refine ⟨fun p k => (h.1 p k).trans ?_, fun w => h.2.1 w, fun w => h.2.2 w⟩
  cases p <;> first | exact rfl | exact absurd (hp.symm.trans k) (by decide) | exact fun _ _ => rfl | trivial

theorem touches_part_free {ps : List Part} {r s : State} (h : Touches ps r s) (v : Nat) (hp : Part.free.within ps = true) :
    Touches ps r { s with free := v } := by
  refine ⟨fun p k => (h.1 p k).trans ?_, fun w => h.2.1 w, fun w => h.2.2 w⟩
  cases p <;> first | exact rfl | exact absurd (hp.symm.trans k) (by decide) | exact fun _ _ => rfl | trivial

theorem touches_drawFree {ps : List Part} {r s : State} (h : Touches ps r s) (hp : Part.free.within ps = true) :
    Touches ps r (drawFree s).2 := by
  refine ⟨fun p k => (h.1 p k).trans ?_, fun w => h.2.1 w, fun w => h.2.2 w⟩
  cases p <;> first | exact rfl | exact absurd (hp.symm.trans k) (by decide) | exact fun _ _ => rfl | trivial

end Sys2Proof
end

