-- ==== Sys2Proof/Laws/Ops.lean ====
section
/-! SUPPORT. What each operation of `Machine/Ops.lean` may change. -/

namespace Sys2Proof

open Sys2Proof.Machine

/-- The code of a mode is legal (R25). -/
theorem code_le (m : Mode) : m.code ≤ 11 := by cases m <;> decide

theorem takeFirst_length {α : Type} (p : α → Bool) : ∀ (l : List α) {r : α × List α}, takeFirst p l = some r →
    r.2.length + 1 = l.length
  | [], _, h => by simp [takeFirst] at h
  | x :: t, r, h => by
    simp only [takeFirst] at h
    split at h
    · cases h; rfl
    · obtain ⟨q, hq, rfl⟩ := Option.map_eq_some_iff.1 h
      simp [takeFirst_length p t hq]

/-- The retained log keeps its bound. -/
theorem retain_bound (l : List LogEntry) (e : LogEntry) (h : l.length ≤ 256) : (retain l e).length ≤ 256 := by
  unfold retain
  split
  · simp only [List.length_append, List.length_cons, List.length_nil]; omega
  · split
    · next k => simp only [List.length_append, List.length_cons, List.length_nil]; have := takeFirst_length _ _ k; omega
    · simp only [List.length_append, List.length_drop, List.length_cons, List.length_nil]; omega

/-- The log region keeps its bound. -/
theorem regionPush_bound (l : List LogEntry) (e : LogEntry) (h : l.length ≤ 16384) :
    (regionPush l e).length ≤ 16384 := by
  unfold regionPush
  split
  · simp only [List.length_append, List.length_cons, List.length_nil]; omega
  · simp only [List.length_append, List.length_drop, List.length_cons, List.length_nil]; omega

theorem touches_latch {ps : List Part} {r s0 : State} (h : Touches ps r s0) (a0 : List Field) (a1 : Nat)
    (hp : ∀ p ∈ ([.live] : List Part), p.within ps = true) : Touches ps r (latch s0 a0 a1) := by
  unfold latch
  repeat' first
    | with_reducible assumption | with_reducible apply touches_setLive | with_reducible apply touches_wrFields
    | with_reducible apply touches_wrPairs | with_reducible refine Touches.foldl _ _ ?_ (fun _ _ _ => ?_)
    | split | fail_if_no_progress extract_lets | dsimp +zetaDelta only | refine List.forall_mem_cons.2 ⟨?_, ?_⟩
    | exact List.forall_mem_nil _ | exact sub hp (by decide) | exact hp _ (by decide)

theorem touches_setPhase {ps : List Part} {r s0 : State} (h : Touches ps r s0) (a0 : Phase)
    (hp : ∀ p ∈ ([.obj 0x1011] : List Part), p.within ps = true) : Touches ps r (setPhase s0 a0) := by
  unfold setPhase
  repeat' first
    | with_reducible assumption | with_reducible apply touches_wr | with_reducible apply touches_wrPairs
    | with_reducible refine Touches.foldl _ _ ?_ (fun _ _ _ => ?_) | split | fail_if_no_progress extract_lets
    | dsimp +zetaDelta only | refine List.forall_mem_cons.2 ⟨?_, ?_⟩ | exact List.forall_mem_nil _
    | exact sub hp (by decide) | exact hp _ (by decide) | exact ⟨by decide, hp _ (by decide)⟩

theorem touches_forceIdle {ps : List Part} {r s0 : State} (h : Touches ps r s0) (a0 : Nat) (a1 : Nat)
    (hp : ∀ p ∈ ([.modes, .obj 0x1011] : List Part), p.within ps = true) : Touches ps r (forceIdle s0 a0 a1) := by
  unfold forceIdle
  repeat' first
    | with_reducible assumption | with_reducible apply touches_wr | with_reducible apply touches_setPhase
    | with_reducible apply touches_wrPairs | with_reducible refine Touches.foldl _ _ ?_ (fun _ _ _ => ?_)
    | split | fail_if_no_progress extract_lets | with_reducible apply touches_part_modes | dsimp +zetaDelta only
    | refine List.forall_mem_cons.2 ⟨?_, ?_⟩ | exact List.forall_mem_nil _ | exact sub hp (by decide)
    | exact hp _ (by decide) | exact ⟨by decide, hp _ (by decide)⟩

theorem touches_queueFree {ps : List Part} {r s0 : State} (h : Touches ps r s0) (a0 : Nat)
    (hp : ∀ p ∈ ([.mov] : List Part), p.within ps = true) : Touches ps r (queueFree s0 a0) := by
  unfold queueFree
  repeat' first
    | with_reducible assumption | with_reducible apply touches_wrPairs
    | with_reducible refine Touches.foldl _ _ ?_ (fun _ _ _ => ?_) | split | fail_if_no_progress extract_lets
    | with_reducible apply touches_part_mov | dsimp +zetaDelta only | refine List.forall_mem_cons.2 ⟨?_, ?_⟩
    | exact List.forall_mem_nil _ | exact sub hp (by decide) | exact hp _ (by decide)

theorem touches_notice {ps : List Part} {r s0 : State} (h : Touches ps r s0) (a0 : NoticeBody)
    (hp : ∀ p ∈ ([.notes] : List Part), p.within ps = true) : Touches ps r (notice s0 a0) := by
  unfold notice
  repeat' first
    | with_reducible assumption | with_reducible apply touches_noticeAt | with_reducible apply touches_wrPairs
    | with_reducible refine Touches.foldl _ _ ?_ (fun _ _ _ => ?_) | split | fail_if_no_progress extract_lets
    | dsimp +zetaDelta only | refine List.forall_mem_cons.2 ⟨?_, ?_⟩ | exact List.forall_mem_nil _
    | exact sub hp (by decide) | exact hp _ (by decide)

theorem touches_lossyShow {ps : List Part} {r s0 : State} (h : Touches ps r s0) (a0 : Nat) (a1 : Nat) (a2 : Nat) (a3 : Nat)
    (hp : ∀ p ∈ ([.notes, .obj 0x0C06] : List Part), p.within ps = true) : Touches ps r (lossyShow s0 a0 a1 a2 a3) := by
  unfold lossyShow
  repeat' first
    | with_reducible assumption | with_reducible apply touches_wr | with_reducible apply touches_notice
    | with_reducible apply touches_wrPairs | with_reducible refine Touches.foldl _ _ ?_ (fun _ _ _ => ?_)
    | split | fail_if_no_progress extract_lets | dsimp +zetaDelta only | refine List.forall_mem_cons.2 ⟨?_, ?_⟩
    | exact List.forall_mem_nil _ | exact sub hp (by decide) | exact hp _ (by decide)
    | exact ⟨by decide, hp _ (by decide)⟩

theorem touches_lossyLost {ps : List Part} {r s0 : State} (h : Touches ps r s0) (a0 : Nat) (a1 : Nat)
    (hp : ∀ p ∈ ([.notes, .obj 0x0C06] : List Part), p.within ps = true) : Touches ps r (lossyLost s0 a0 a1) := by
  unfold lossyLost
  repeat' first
    | with_reducible assumption | with_reducible apply touches_bump | with_reducible apply touches_notice
    | with_reducible apply touches_wr | with_reducible apply touches_wrPairs
    | with_reducible refine Touches.foldl _ _ ?_ (fun _ _ _ => ?_) | split | fail_if_no_progress extract_lets
    | dsimp +zetaDelta only | refine List.forall_mem_cons.2 ⟨?_, ?_⟩ | exact List.forall_mem_nil _
    | exact sub hp (by decide) | exact hp _ (by decide) | exact ⟨by decide, hp _ (by decide)⟩

theorem touches_logFault {ps : List Part} {r s0 : State} (h : Touches ps r s0) (a0 : Nat) (a1 : Nat) (a2 : Nat) (a3 : Nat) (a4 : Nat)
    (hp : ∀ p ∈ ([.flt, .notes, .obj 0x0C06] : List Part), p.within ps = true) : Touches ps r (logFault s0 a0 a1 a2 a3 a4) := by
  unfold logFault
  repeat' first
    | with_reducible assumption | with_reducible apply touches_lossyLost
    | with_reducible apply touches_lossyShow | with_reducible apply touches_wrPairs
    | with_reducible refine Touches.foldl _ _ ?_ (fun _ _ _ => ?_) | split | fail_if_no_progress extract_lets
    | with_reducible apply touches_part_flt | exact ⟨id, id⟩ | exact ⟨retain_bound _ _, regionPush_bound _ _⟩
    | exact ⟨id, regionPush_bound _ _⟩ | exact ⟨retain_bound _ _, id⟩ | dsimp +zetaDelta only
    | refine List.forall_mem_cons.2 ⟨?_, ?_⟩ | exact List.forall_mem_nil _ | exact sub hp (by decide)
    | exact hp _ (by decide)

theorem touches_raiseEntry {ps : List Part} {r s0 : State} (h : Touches ps r s0) (a0 : Nat) (a1 : Nat) (a2 : Nat) (a3 : Nat) (a4 : Nat)
    (hp : ∀ p ∈ ([.flt, .notes, .obj 0x0C06] : List Part), p.within ps = true) : Touches ps r (raiseEntry s0 a0 a1 a2 a3 a4) := by
  unfold raiseEntry
  repeat' first
    | with_reducible assumption | with_reducible apply touches_notice | with_reducible apply touches_logFault
    | with_reducible apply touches_wrPairs | with_reducible refine Touches.foldl _ _ ?_ (fun _ _ _ => ?_)
    | split | fail_if_no_progress extract_lets | with_reducible apply touches_part_flt | exact ⟨id, id⟩
    | exact ⟨retain_bound _ _, regionPush_bound _ _⟩ | exact ⟨id, regionPush_bound _ _⟩
    | exact ⟨retain_bound _ _, id⟩ | dsimp +zetaDelta only | refine List.forall_mem_cons.2 ⟨?_, ?_⟩
    | exact List.forall_mem_nil _ | exact sub hp (by decide) | exact hp _ (by decide)

theorem touches_logWatched {ps : List Part} {r s0 : State} (h : Touches ps r s0) {a0 : State} (ha0 : Touches ps r a0)
    (hp : ∀ p ∈ ([.flt, .notes, .obj 0x0C06] : List Part), p.within ps = true) : Touches ps r (logWatched s0 a0) := by
  unfold logWatched
  repeat' first
    | with_reducible assumption | with_reducible apply touches_raiseEntry | with_reducible apply touches_wrPairs
    | with_reducible refine Touches.foldl _ _ ?_ (fun _ _ _ => ?_) | split

theorem touches_raiseDetail {ps : List Part} {r s0 : State} (h : Touches ps r s0) (a0 : Nat) (a1 : Nat) (a2 : Nat) (a3 : Nat) (a4 : Nat)
    (hp : ∀ p ∈ ([.flt, .modes, .notes, .obj 0x0C06, .obj 0x1011] : List Part), p.within ps = true) : Touches ps r (raiseDetail s0 a0 a1 a2 a3 a4) := by
  unfold raiseDetail
  repeat' first
    | with_reducible assumption | with_reducible apply touches_logWatched
    | with_reducible apply touches_raiseEntry | with_reducible apply touches_forceIdle
    | with_reducible apply touches_wrPairs | with_reducible refine Touches.foldl _ _ ?_ (fun _ _ _ => ?_)
    | split | fail_if_no_progress extract_lets | dsimp +zetaDelta only | refine List.forall_mem_cons.2 ⟨?_, ?_⟩
    | exact List.forall_mem_nil _ | exact sub hp (by decide) | exact hp _ (by decide)

/-- A fault that is not FATAL, with a DETAIL of its own, stops no mode. -/
theorem touches_raiseDetail_plain {ps : List Part} {r s0 : State} (h : Touches ps r s0) {a0 : Nat} (hs : severityOf a0 ≠ 3)
    (a1 a2 a3 a4 : Nat) (hp : ∀ p ∈ ([.flt, .notes, .obj 0x0C06] : List Part), p.within ps = true) :
    Touches ps r (raiseDetail s0 a0 a1 a2 a3 a4) := by
  unfold raiseDetail
  rw [if_neg (fun k => hs k.1)]
  refine touches_logWatched h ?_ hp
  split
  · exact touches_raiseEntry h _ _ _ _ _ hp
  · exact touches_raiseEntry (touches_raiseEntry h _ _ _ _ _ hp) _ _ _ _ _ hp

theorem touches_raise {ps : List Part} {r s0 : State} (h : Touches ps r s0) (a0 : Nat) (a1 : Nat) (a2 : Nat) (a3 : Nat)
    (hp : ∀ p ∈ ([.flt, .modes, .notes, .obj 0x0C06, .obj 0x1011] : List Part), p.within ps = true) :
    Touches ps r (raise s0 a0 a1 a2 a3) := touches_raiseDetail h _ _ _ _ _ hp

/-- A fault that is not FATAL stops no mode. -/
theorem touches_raise_plain {ps : List Part} {r s0 : State} (h : Touches ps r s0) {a0 : Nat} (hs : severityOf a0 ≠ 3)
    (a1 a2 a3 : Nat) (hp : ∀ p ∈ ([.flt, .notes, .obj 0x0C06] : List Part), p.within ps = true) :
    Touches ps r (raise s0 a0 a1 a2 a3) := touches_raiseDetail_plain h hs _ _ _ _ hp

theorem touches_endFault {ps : List Part} {r s0 : State} (h : Touches ps r s0) (a0 : Nat) (a1 : Nat)
    (hp : ∀ p ∈ ([.flt] : List Part), p.within ps = true) : Touches ps r (endFault s0 a0 a1) := by
  unfold endFault
  repeat' first
    | with_reducible assumption | with_reducible apply touches_wrPairs
    | with_reducible refine Touches.foldl _ _ ?_ (fun _ _ _ => ?_) | split | fail_if_no_progress extract_lets
    | with_reducible apply touches_part_flt | exact ⟨id, id⟩ | exact ⟨retain_bound _ _, regionPush_bound _ _⟩
    | exact ⟨id, regionPush_bound _ _⟩ | exact ⟨retain_bound _ _, id⟩ | dsimp +zetaDelta only
    | refine List.forall_mem_cons.2 ⟨?_, ?_⟩ | exact List.forall_mem_nil _ | exact sub hp (by decide)
    | exact hp _ (by decide)

theorem touches_clearFault {ps : List Part} {r s0 : State} (h : Touches ps r s0) (a0 : Nat) (a1 : Nat)
    (hp : ∀ p ∈ ([.flt, .notes, .obj 0x0C06] : List Part), p.within ps = true) : Touches ps r (clearFault s0 a0 a1) := by
  unfold clearFault
  repeat' first
    | with_reducible assumption | with_reducible apply touches_logWatched | with_reducible apply touches_notice
    | with_reducible apply touches_logFault | with_reducible apply touches_wrPairs
    | with_reducible refine Touches.foldl _ _ ?_ (fun _ _ _ => ?_) | split | fail_if_no_progress extract_lets
    | with_reducible apply touches_part_flt | exact ⟨id, id⟩ | exact ⟨retain_bound _ _, regionPush_bound _ _⟩
    | exact ⟨id, regionPush_bound _ _⟩ | exact ⟨retain_bound _ _, id⟩ | dsimp +zetaDelta only
    | refine List.forall_mem_cons.2 ⟨?_, ?_⟩ | exact List.forall_mem_nil _ | exact sub hp (by decide)
    | exact hp _ (by decide)

theorem touches_updateFault {ps : List Part} {r s0 : State} (h : Touches ps r s0) (a0 : Nat) (a1 : Nat) (a2 : Nat)
    (hp : ∀ p ∈ ([.flt, .notes, .obj 0x0C06] : List Part), p.within ps = true) : Touches ps r (updateFault s0 a0 a1 a2) := by
  unfold updateFault
  repeat' first
    | with_reducible assumption | with_reducible apply touches_logWatched | with_reducible apply touches_notice
    | with_reducible apply touches_logFault | with_reducible apply touches_wrPairs
    | with_reducible refine Touches.foldl _ _ ?_ (fun _ _ _ => ?_) | split | fail_if_no_progress extract_lets
    | dsimp +zetaDelta only | refine List.forall_mem_cons.2 ⟨?_, ?_⟩ | exact List.forall_mem_nil _
    | exact sub hp (by decide) | exact hp _ (by decide)

end Sys2Proof
end

