-- ==== Sys2Proof/Laws/PowerOps.lean ====
section
/-! SUPPORT. What each operation of `Machine/PowerOps.lean` may change. -/

namespace Sys2Proof

open Sys2Proof.Machine

theorem touches_setDom {ps : List Part} {r s0 : State} (h : Touches ps r s0) (a0 : Nat) (a1 : Nat)
    (hp : ∀ p ∈ ([.pwr, .obj 0x0A04] : List Part), p.within ps = true) : Touches ps r (setDom s0 a0 a1) := by
  unfold setDom
  repeat' first
    | with_reducible assumption | with_reducible apply touches_setPwr | with_reducible apply touches_wr
    | with_reducible apply touches_wrPairs | with_reducible refine Touches.foldl _ _ ?_ (fun _ _ _ => ?_)
    | split | fail_if_no_progress extract_lets | dsimp +zetaDelta only | refine List.forall_mem_cons.2 ⟨?_, ?_⟩
    | exact List.forall_mem_nil _ | exact sub hp (by decide) | exact hp _ (by decide)
    | exact ⟨by decide, hp _ (by decide)⟩

theorem touches_accrue {ps : List Part} {r s0 : State} (h : Touches ps r s0)
    (hp : ∀ p ∈ ([.pwr] : List Part), p.within ps = true) : Touches ps r (accrue s0) := by
  unfold accrue
  repeat' first
    | with_reducible assumption | with_reducible apply touches_setPwr | with_reducible apply touches_wrPairs
    | with_reducible refine Touches.foldl _ _ ?_ (fun _ _ _ => ?_) | split | fail_if_no_progress extract_lets
    | dsimp +zetaDelta only | refine List.forall_mem_cons.2 ⟨?_, ?_⟩ | exact List.forall_mem_nil _
    | exact sub hp (by decide) | exact hp _ (by decide)

theorem touches_paced {ps : List Part} {r s0 : State} (h : Touches ps r s0) (a0 : Paced)
    (hp : ∀ p ∈ ([.pwr] : List Part), p.within ps = true) : Touches ps r (paced s0 a0) := by
  unfold paced
  repeat' first
    | with_reducible assumption | with_reducible apply touches_setPwr | with_reducible apply touches_accrue
    | with_reducible apply touches_wrPairs | with_reducible refine Touches.foldl _ _ ?_ (fun _ _ _ => ?_)
    | split | fail_if_no_progress extract_lets | dsimp +zetaDelta only | refine List.forall_mem_cons.2 ⟨?_, ?_⟩
    | exact List.forall_mem_nil _ | exact sub hp (by decide) | exact hp _ (by decide)

theorem touches_showPendingUp {ps : List Part} {r s0 : State} (h : Touches ps r s0)
    (hp : ∀ p ∈ ([.obj 0x1011] : List Part), p.within ps = true) : Touches ps r (showPendingUp s0) := by
  unfold showPendingUp
  repeat' first
    | with_reducible assumption | with_reducible apply touches_wr | with_reducible apply touches_wrPairs
    | with_reducible refine Touches.foldl _ _ ?_ (fun _ _ _ => ?_) | split | fail_if_no_progress extract_lets
    | dsimp +zetaDelta only | refine List.forall_mem_cons.2 ⟨?_, ?_⟩ | exact List.forall_mem_nil _
    | exact sub hp (by decide) | exact hp _ (by decide) | exact ⟨by decide, hp _ (by decide)⟩

theorem touches_domUp {ps : List Part} {r s0 : State} (h : Touches ps r s0) (a0 : Nat) (a1 : Nat)
    (hp : ∀ p ∈ ([.pwr, .obj 0x0A04, .obj 0x1011] : List Part), p.within ps = true) : Touches ps r (domUp s0 a0 a1) := by
  unfold domUp
  repeat' first
    | with_reducible assumption | with_reducible apply touches_showPendingUp
    | with_reducible apply touches_setPwr | with_reducible apply touches_setDom
    | with_reducible apply touches_paced | with_reducible apply touches_wrPairs
    | with_reducible refine Touches.foldl _ _ ?_ (fun _ _ _ => ?_) | split | fail_if_no_progress extract_lets
    | dsimp +zetaDelta only | refine List.forall_mem_cons.2 ⟨?_, ?_⟩ | exact List.forall_mem_nil _
    | exact sub hp (by decide) | exact hp _ (by decide)

theorem touches_domWakes {ps : List Part} {r s0 : State} (h : Touches ps r s0) (a0 : Nat)
    (hp : ∀ p ∈ ([.pwr, .obj 0x0A04] : List Part), p.within ps = true) : Touches ps r (domWakes s0 a0) := by
  unfold domWakes
  repeat' first
    | with_reducible assumption | with_reducible apply touches_setDom | with_reducible apply touches_wr
    | with_reducible apply touches_setPwr | with_reducible apply touches_wrPairs
    | with_reducible refine Touches.foldl _ _ ?_ (fun _ _ _ => ?_) | split | fail_if_no_progress extract_lets
    | dsimp +zetaDelta only | refine List.forall_mem_cons.2 ⟨?_, ?_⟩ | exact List.forall_mem_nil _
    | exact sub hp (by decide) | exact hp _ (by decide) | exact ⟨by decide, hp _ (by decide)⟩

theorem touches_domsUp {ps : List Part} {r s0 : State} (h : Touches ps r s0) (a0 : Nat) (a1 : List Nat)
    (hp : ∀ p ∈ ([.pwr, .obj 0x0A04, .obj 0x1011] : List Part), p.within ps = true) : Touches ps r (domsUp s0 a0 a1) := by
  unfold domsUp
  repeat' first
    | with_reducible assumption | with_reducible apply touches_domUp | with_reducible apply touches_wrPairs
    | with_reducible refine Touches.foldl _ _ ?_ (fun _ _ _ => ?_)

theorem touches_domDown {ps : List Part} {r s0 : State} (h : Touches ps r s0) (a0 : Nat) (a1 : Nat) (a2 : Nat)
    (hp : ∀ p ∈ ([.pwr, .obj 0x0A04] : List Part), p.within ps = true) : Touches ps r (domDown s0 a0 a1 a2) := by
  unfold domDown
  repeat' first
    | with_reducible assumption | with_reducible apply touches_setPwr | with_reducible apply touches_setDom
    | with_reducible apply touches_paced | with_reducible apply touches_wrPairs
    | with_reducible refine Touches.foldl _ _ ?_ (fun _ _ _ => ?_) | split | fail_if_no_progress extract_lets
    | dsimp +zetaDelta only | refine List.forall_mem_cons.2 ⟨?_, ?_⟩ | exact List.forall_mem_nil _
    | exact sub hp (by decide) | exact hp _ (by decide)

theorem touches_domsDown {ps : List Part} {r s0 : State} (h : Touches ps r s0) (a0 : Nat) (a1 : List Nat) (a2 : Nat)
    (hp : ∀ p ∈ ([.pwr, .obj 0x0A04] : List Part), p.within ps = true) : Touches ps r (domsDown s0 a0 a1 a2) := by
  unfold domsDown
  repeat' first
    | with_reducible assumption | with_reducible apply touches_domDown | with_reducible apply touches_wrPairs
    | with_reducible refine Touches.foldl _ _ ?_ (fun _ _ _ => ?_)

theorem touches_downEnds {ps : List Part} {r s0 : State} (h : Touches ps r s0) (a0 : Nat) (a1 : Nat)
    (hp : ∀ p ∈ ([.pwr, .obj 0x0A04, .obj 0x1011] : List Part), p.within ps = true) : Touches ps r (downEnds s0 a0 a1) := by
  unfold downEnds
  repeat' first
    | with_reducible assumption | with_reducible apply touches_setDom
    | with_reducible apply touches_showPendingUp | with_reducible apply touches_setPwr
    | with_reducible apply touches_domUp | with_reducible apply touches_wrPairs
    | with_reducible refine Touches.foldl _ _ ?_ (fun _ _ _ => ?_) | split | fail_if_no_progress extract_lets
    | dsimp +zetaDelta only | refine List.forall_mem_cons.2 ⟨?_, ?_⟩ | exact List.forall_mem_nil _
    | exact sub hp (by decide) | exact hp _ (by decide)

theorem touches_staysOn {ps : List Part} {r s0 : State} (h : Touches ps r s0) (a0 : Nat)
    (hp : ∀ p ∈ ([.pwr, .obj 0x0A04] : List Part), p.within ps = true) : Touches ps r (staysOn s0 a0) := by
  unfold staysOn
  repeat' first
    | with_reducible assumption | with_reducible apply touches_setDom | with_reducible apply touches_wrPairs
    | with_reducible refine Touches.foldl _ _ ?_ (fun _ _ _ => ?_) | split

theorem touches_sleepsAgain {ps : List Part} {r s0 : State} (h : Touches ps r s0) (a0 : Nat)
    (hp : ∀ p ∈ ([.pwr, .obj 0x0A04] : List Part), p.within ps = true) : Touches ps r (sleepsAgain s0 a0) := by
  unfold sleepsAgain
  repeat' first
    | with_reducible assumption | with_reducible apply touches_setDom | with_reducible apply touches_wrPairs
    | with_reducible refine Touches.foldl _ _ ?_ (fun _ _ _ => ?_) | split

theorem touches_unmarkWaiting {ps : List Part} {r s0 : State} (h : Touches ps r s0)
    (hp : ∀ p ∈ ([.pwr, .obj 0x0A04, .obj 0x1011] : List Part), p.within ps = true) : Touches ps r (unmarkWaiting s0) := by
  unfold unmarkWaiting
  repeat' first
    | with_reducible assumption | with_reducible apply touches_setDom
    | with_reducible apply touches_showPendingUp | with_reducible apply touches_setPwr
    | with_reducible apply touches_wrPairs | with_reducible refine Touches.foldl _ _ ?_ (fun _ _ _ => ?_)
    | split | fail_if_no_progress extract_lets | dsimp +zetaDelta only | refine List.forall_mem_cons.2 ⟨?_, ?_⟩
    | exact List.forall_mem_nil _ | exact sub hp (by decide) | exact hp _ (by decide)

theorem touches_markWaiting {ps : List Part} {r s0 : State} (h : Touches ps r s0)
    (hp : ∀ p ∈ ([.pwr, .obj 0x0A04, .obj 0x1011] : List Part), p.within ps = true) : Touches ps r (markWaiting s0) := by
  unfold markWaiting
  repeat' first
    | with_reducible assumption | with_reducible apply touches_showPendingUp
    | with_reducible apply touches_setPwr | with_reducible apply touches_setDom
    | with_reducible apply touches_wrPairs | with_reducible refine Touches.foldl _ _ ?_ (fun _ _ _ => ?_)
    | split | fail_if_no_progress extract_lets | dsimp +zetaDelta only | refine List.forall_mem_cons.2 ⟨?_, ?_⟩
    | exact List.forall_mem_nil _ | exact sub hp (by decide) | exact hp _ (by decide)

theorem touches_wakeSetUp {ps : List Part} {r s0 : State} (h : Touches ps r s0)
    (hp : ∀ p ∈ ([.pwr, .obj 0x0A04, .obj 0x1011] : List Part), p.within ps = true) : Touches ps r (wakeSetUp s0) := by
  unfold wakeSetUp
  repeat' first
    | with_reducible assumption | with_reducible apply touches_domsUp

theorem touches_wakeSetDown {ps : List Part} {r s0 : State} (h : Touches ps r s0)
    (hp : ∀ p ∈ ([.pwr, .obj 0x0A04] : List Part), p.within ps = true) : Touches ps r (wakeSetDown s0) := by
  unfold wakeSetDown
  repeat' first
    | with_reducible assumption | with_reducible apply touches_domDown | with_reducible apply touches_wrPairs
    | with_reducible refine Touches.foldl _ _ ?_ (fun _ _ _ => ?_)

theorem touches_pairUp {ps : List Part} {r s0 : State} (h : Touches ps r s0)
    (hp : ∀ p ∈ ([.pwr, .obj 0x0A04, .obj 0x1011] : List Part), p.within ps = true) : Touches ps r (pairUp s0) := by
  unfold pairUp
  repeat' first
    | with_reducible assumption | with_reducible apply touches_domsUp

theorem touches_pairDown {ps : List Part} {r s0 : State} (h : Touches ps r s0)
    (hp : ∀ p ∈ ([.pwr, .obj 0x0A04] : List Part), p.within ps = true) : Touches ps r (pairDown s0) := by
  unfold pairDown
  repeat' first
    | with_reducible assumption | with_reducible apply touches_domsDown

theorem touches_digitizerUp {ps : List Part} {r s0 : State} (h : Touches ps r s0)
    (hp : ∀ p ∈ ([.pwr, .obj 0x0A04, .obj 0x1011] : List Part), p.within ps = true) : Touches ps r (digitizerUp s0) := by
  unfold digitizerUp
  repeat' first
    | with_reducible assumption | with_reducible apply touches_domsUp

theorem touches_digitizerDown {ps : List Part} {r s0 : State} (h : Touches ps r s0)
    (hp : ∀ p ∈ ([.pwr, .obj 0x0A04] : List Part), p.within ps = true) : Touches ps r (digitizerDown s0) := by
  unfold digitizerDown
  repeat' first
    | with_reducible assumption | with_reducible apply touches_domsDown

theorem touches_demandDown {ps : List Part} {r s0 : State} (h : Touches ps r s0) (a0 : Nat)
    (hp : ∀ p ∈ ([.pwr, .obj 0x0A04] : List Part), p.within ps = true) : Touches ps r (demandDown s0 a0) := by
  unfold demandDown
  repeat' first
    | with_reducible assumption | with_reducible apply touches_domDown | with_reducible apply touches_wrPairs
    | with_reducible refine Touches.foldl _ _ ?_ (fun _ _ _ => ?_) | split

theorem touches_powerSnapshot {ps : List Part} {r s0 : State} (h : Touches ps r s0)
    (hp : ∀ p ∈ ([.obj 0x1107] : List Part), p.within ps = true) : Touches ps r (powerSnapshot s0) := by
  unfold powerSnapshot
  repeat' first
    | with_reducible assumption | with_reducible apply touches_wr | with_reducible apply touches_wrPairs
    | with_reducible refine Touches.foldl _ _ ?_ (fun _ _ _ => ?_) | split | fail_if_no_progress extract_lets
    | dsimp +zetaDelta only | refine List.forall_mem_cons.2 ⟨?_, ?_⟩ | exact List.forall_mem_nil _
    | exact sub hp (by decide) | exact hp _ (by decide) | exact ⟨by decide, hp _ (by decide)⟩

theorem touches_domSnapshot {ps : List Part} {r s0 : State} (h : Touches ps r s0) (a0 : Nat)
    (hp : ∀ p ∈ ([.obj 0x1106] : List Part), p.within ps = true) : Touches ps r (domSnapshot s0 a0) := by
  unfold domSnapshot
  repeat' first
    | with_reducible assumption | with_reducible apply touches_wr | with_reducible apply touches_wrPairs
    | with_reducible refine Touches.foldl _ _ ?_ (fun _ _ _ => ?_) | split | fail_if_no_progress extract_lets
    | dsimp +zetaDelta only | refine List.forall_mem_cons.2 ⟨?_, ?_⟩ | exact List.forall_mem_nil _
    | exact sub hp (by decide) | exact hp _ (by decide) | exact ⟨by decide, hp _ (by decide)⟩

theorem touches_ballastOff {ps : List Part} {r s0 : State} (h : Touches ps r s0) (a0 : Nat)
    (hp : ∀ p ∈ ([.pwr, .obj 0x1106] : List Part), p.within ps = true) : Touches ps r (ballastOff s0 a0) := by
  unfold ballastOff
  repeat' first
    | with_reducible assumption | with_reducible apply touches_wr | with_reducible apply touches_accrue
    | with_reducible apply touches_setPwr | with_reducible apply touches_paced
    | with_reducible apply touches_wrPairs | with_reducible refine Touches.foldl _ _ ?_ (fun _ _ _ => ?_)
    | split | fail_if_no_progress extract_lets | dsimp +zetaDelta only | refine List.forall_mem_cons.2 ⟨?_, ?_⟩
    | exact List.forall_mem_nil _ | exact sub hp (by decide) | exact hp _ (by decide)
    | exact ⟨by decide, hp _ (by decide)⟩

theorem touches_clockStarts {ps : List Part} {r s0 : State} (h : Touches ps r s0) (a0 : Nat)
    (hp : ∀ p ∈ ([.mov, .pwr, .obj 0x1106] : List Part), p.within ps = true) : Touches ps r (clockStarts s0 a0) := by
  unfold clockStarts
  repeat' first
    | with_reducible assumption | with_reducible apply touches_ballastOff | with_reducible apply touches_wrPairs
    | with_reducible refine Touches.foldl _ _ ?_ (fun _ _ _ => ?_) | split | fail_if_no_progress extract_lets
    | with_reducible apply touches_part_mov | dsimp +zetaDelta only | refine List.forall_mem_cons.2 ⟨?_, ?_⟩
    | exact List.forall_mem_nil _ | exact sub hp (by decide) | exact hp _ (by decide)

end Sys2Proof
end

