-- ==== Sys2Proof/Laws/Afe.lean ====
section
/-! SUPPORT. What each operation of `Machine/Afe.lean` may change. -/

namespace Sys2Proof

open Sys2Proof.Machine

theorem touches_showLine {ps : List Part} {r s0 : State} (h : Touches ps r s0) (a0 : Nat)
    (hp : ∀ p ∈ ([.obj 0x0103] : List Part), p.within ps = true) : Touches ps r (showLine s0 a0) := by
  unfold showLine
  repeat' first
    | with_reducible assumption | with_reducible apply touches_wr | with_reducible apply touches_wrPairs
    | with_reducible refine Touches.foldl _ _ ?_ (fun _ _ _ => ?_) | split | fail_if_no_progress extract_lets
    | dsimp +zetaDelta only | refine List.forall_mem_cons.2 ⟨?_, ?_⟩ | exact List.forall_mem_nil _
    | exact sub hp (by decide) | exact hp _ (by decide) | exact ⟨by decide, hp _ (by decide)⟩

theorem touches_lineFault {ps : List Part} {r s0 : State} (h : Touches ps r s0) (a0 : Nat) (a1 : Nat) (a2 : Nat)
    (hp : ∀ p ∈ ([.afe, .flt, .notes, .obj 0x0103, .obj 0x0C06] : List Part), p.within ps = true) : Touches ps r (lineFault s0 a0 a1 a2) := by
  unfold lineFault
  repeat' first
    | with_reducible assumption | with_reducible refine touches_raise_plain ?_ (by decide) _ _ _ ?_
    | with_reducible refine touches_raiseDetail_plain ?_ (by decide) _ _ _ _ ?_
    | with_reducible refine touches_raise_plain ?_ (by split <;> decide) _ _ _ ?_
    | with_reducible apply touches_setInput | with_reducible apply touches_wr
    | with_reducible apply touches_showLine | with_reducible apply touches_updateFault
    | with_reducible apply touches_wrPairs | with_reducible refine Touches.foldl _ _ ?_ (fun _ _ _ => ?_)
    | split | fail_if_no_progress extract_lets | dsimp +zetaDelta only | refine List.forall_mem_cons.2 ⟨?_, ?_⟩
    | exact List.forall_mem_nil _ | exact sub hp (by decide) | exact hp _ (by decide)
    | exact ⟨by decide, hp _ (by decide)⟩

theorem touches_lineNormal {ps : List Part} {r s0 : State} (h : Touches ps r s0) (a0 : Nat)
    (hp : ∀ p ∈ ([.afe, .flt, .obj 0x0103] : List Part), p.within ps = true) : Touches ps r (lineNormal s0 a0) := by
  unfold lineNormal
  repeat' first
    | with_reducible assumption | with_reducible apply touches_showLine | with_reducible apply touches_endFault
    | with_reducible apply touches_setInput | with_reducible apply touches_wr
    | with_reducible apply touches_wrPairs | with_reducible refine Touches.foldl _ _ ?_ (fun _ _ _ => ?_)
    | split | fail_if_no_progress extract_lets | dsimp +zetaDelta only | refine List.forall_mem_cons.2 ⟨?_, ?_⟩
    | exact List.forall_mem_nil _ | exact sub hp (by decide) | exact hp _ (by decide)
    | exact ⟨by decide, hp _ (by decide)⟩

theorem touches_lineRecovered {ps : List Part} {r s0 : State} (h : Touches ps r s0) (a0 : Nat)
    (hp : ∀ p ∈ ([.afe, .flt, .obj 0x0103] : List Part), p.within ps = true) : Touches ps r (lineRecovered s0 a0) := by
  unfold lineRecovered
  repeat' first
    | with_reducible assumption | with_reducible apply touches_lineNormal | with_reducible apply touches_wrPairs
    | with_reducible refine Touches.foldl _ _ ?_ (fun _ _ _ => ?_) | split

theorem touches_arcCode {ps : List Part} {r s0 : State} (h : Touches ps r s0) (a0 : Nat)
    (hp : ∀ p ∈ ([.free] : List Part), p.within ps = true) : Touches ps r (arcCode s0 a0).2 := by
  unfold arcCode
  repeat' first
    | with_reducible assumption | with_reducible apply touches_drawFree | with_reducible apply touches_wrPairs
    | with_reducible refine Touches.foldl _ _ ?_ (fun _ _ _ => ?_)
    | with_reducible refine Touches.foldlSnd _ _ ?_ (fun _ _ _ => ?_)
    | with_reducible refine Touches.foldlSndSnd _ _ ?_ (fun _ _ _ => ?_) | split
    | fail_if_no_progress extract_lets | dsimp +zetaDelta only | refine List.forall_mem_cons.2 ⟨?_, ?_⟩
    | exact List.forall_mem_nil _ | exact sub hp (by decide) | exact hp _ (by decide)

theorem touches_applyRange {ps : List Part} {r s0 : State} (h : Touches ps r s0) (a0 : Nat) (a1 : Nat) (a2 : Nat)
    (hp : ∀ p ∈ ([.afe, .obj 0x0103] : List Part), p.within ps = true) : Touches ps r (applyRange s0 a0 a1 a2) := by
  unfold applyRange
  repeat' first
    | with_reducible assumption | with_reducible apply touches_setInput | with_reducible apply touches_bump
    | with_reducible apply touches_wr | with_reducible apply touches_wrPairs
    | with_reducible refine Touches.foldl _ _ ?_ (fun _ _ _ => ?_) | split | fail_if_no_progress extract_lets
    | dsimp +zetaDelta only | refine List.forall_mem_cons.2 ⟨?_, ?_⟩ | exact List.forall_mem_nil _
    | exact sub hp (by decide) | exact hp _ (by decide) | exact ⟨by decide, hp _ (by decide)⟩

theorem touches_frameRange {ps : List Part} {r s0 : State} (h : Touches ps r s0) (a0 : Nat) (a1 : Nat)
    (hp : ∀ p ∈ ([.afe, .obj 0x0103] : List Part), p.within ps = true) : Touches ps r (frameRange s0 a0 a1) := by
  unfold frameRange
  repeat' first
    | with_reducible assumption | with_reducible apply touches_setInput
    | with_reducible apply touches_applyRange | with_reducible apply touches_wrPairs
    | with_reducible refine Touches.foldl _ _ ?_ (fun _ _ _ => ?_) | split | fail_if_no_progress extract_lets
    | dsimp +zetaDelta only | refine List.forall_mem_cons.2 ⟨?_, ?_⟩ | exact List.forall_mem_nil _
    | exact sub hp (by decide) | exact hp _ (by decide)

theorem touches_probeLatch {ps : List Part} {r s0 : State} (h : Touches ps r s0) (a0 : Nat)
    (hp : ∀ p ∈ ([.live] : List Part), p.within ps = true) : Touches ps r (probeLatch s0 a0) := by
  unfold probeLatch
  repeat' first
    | with_reducible assumption | with_reducible apply touches_setLive | with_reducible apply touches_latch
    | with_reducible apply touches_wrFields | with_reducible apply touches_wrPairs
    | with_reducible refine Touches.foldl _ _ ?_ (fun _ _ _ => ?_) | split | fail_if_no_progress extract_lets
    | dsimp +zetaDelta only | refine List.forall_mem_cons.2 ⟨?_, ?_⟩ | exact List.forall_mem_nil _
    | exact sub hp (by decide) | exact hp _ (by decide)

theorem touches_probeStart {ps : List Part} {r s0 : State} (h : Touches ps r s0) (a0 : Nat)
    (hp : ∀ p ∈ ([.afe, .live] : List Part), p.within ps = true) : Touches ps r (probeStart s0 a0) := by
  unfold probeStart
  repeat' first
    | with_reducible assumption | with_reducible apply touches_setInput
    | with_reducible apply touches_probeLatch | with_reducible apply touches_wrPairs
    | with_reducible refine Touches.foldl _ _ ?_ (fun _ _ _ => ?_) | split | fail_if_no_progress extract_lets
    | dsimp +zetaDelta only | refine List.forall_mem_cons.2 ⟨?_, ?_⟩ | exact List.forall_mem_nil _
    | exact sub hp (by decide) | exact hp _ (by decide)

theorem touches_probeEnabled {ps : List Part} {r s0 : State} (h : Touches ps r s0) (a0 : Nat)
    (hp : ∀ p ∈ ([.afe, .live, .obj 0x0103, .obj 0x0106] : List Part), p.within ps = true) : Touches ps r (probeEnabled s0 a0) := by
  refine touches_wr (Touches.foldlMem _ _ (touches_probeStart h _ (sub hp (by decide))) (fun t f hf ht => touches_wr ht _ _ _ ?_))
    _ _ _ ⟨by decide, hp _ (by decide)⟩
  have hk : ∀ f ∈ Obj.PROBE_RESULT.fields, plainField f = true ∧ f.obj = 0x0106 := by decide
  exact ⟨(hk f hf).1, by rw [(hk f hf).2]; exact hp _ (by decide)⟩

theorem touches_probeCfgWrite {ps : List Part} {r s0 : State} (h : Touches ps r s0) (a0 : Nat)
    (hp : ∀ p ∈ ([.afe, .live, .obj 0x0103, .obj 0x0106] : List Part), p.within ps = true) : Touches ps r (probeCfgWrite s0 a0) := by
  unfold probeCfgWrite
  repeat' first
    | with_reducible assumption | with_reducible apply touches_probeEnabled
    | with_reducible apply touches_wrPairs | with_reducible refine Touches.foldl _ _ ?_ (fun _ _ _ => ?_)
    | split

theorem touches_frameEnable {ps : List Part} {r s0 : State} (h : Touches ps r s0) (a0 : Nat) (a1 : Nat)
    (hp : ∀ p ∈ ([.afe, .live, .obj 0x0103, .obj 0x0106] : List Part), p.within ps = true) : Touches ps r (frameEnable s0 a0 a1) := by
  unfold frameEnable
  repeat' first
    | with_reducible assumption | with_reducible apply touches_probeEnabled
    | with_reducible apply touches_setInput | with_reducible apply touches_wr
    | with_reducible apply touches_wrPairs | with_reducible refine Touches.foldl _ _ ?_ (fun _ _ _ => ?_)
    | split | fail_if_no_progress extract_lets | dsimp +zetaDelta only | refine List.forall_mem_cons.2 ⟨?_, ?_⟩
    | exact List.forall_mem_nil _ | exact sub hp (by decide) | exact hp _ (by decide)
    | exact ⟨by decide, hp _ (by decide)⟩

theorem touches_frameLine {ps : List Part} {r s0 : State} (h : Touches ps r s0) (a0 : Nat) (a1 : Nat)
    (hp : ∀ p ∈ ([.afe] : List Part), p.within ps = true) : Touches ps r (frameLine s0 a0 a1) := by
  unfold frameLine
  repeat' first
    | with_reducible assumption | with_reducible apply touches_setInput | with_reducible apply touches_wrPairs
    | with_reducible refine Touches.foldl _ _ ?_ (fun _ _ _ => ?_) | split | fail_if_no_progress extract_lets
    | dsimp +zetaDelta only | refine List.forall_mem_cons.2 ⟨?_, ?_⟩ | exact List.forall_mem_nil _
    | exact sub hp (by decide) | exact hp _ (by decide)

theorem touches_frameClose {ps : List Part} {r s0 : State} (h : Touches ps r s0) (a0 : Nat)
    (hp : ∀ p ∈ ([.afe] : List Part), p.within ps = true) : Touches ps r (frameClose s0 a0) := by
  unfold frameClose
  repeat' first
    | with_reducible assumption | with_reducible apply touches_setInput | with_reducible apply touches_wrPairs
    | with_reducible refine Touches.foldl _ _ ?_ (fun _ _ _ => ?_) | split | fail_if_no_progress extract_lets
    | dsimp +zetaDelta only | refine List.forall_mem_cons.2 ⟨?_, ?_⟩ | exact List.forall_mem_nil _
    | exact sub hp (by decide) | exact hp _ (by decide)

theorem touches_afeFrame {ps : List Part} {r s0 : State} (h : Touches ps r s0) (a0 : Nat) (a1 : Nat)
    (hp : ∀ p ∈ ([.afe, .live, .obj 0x0103, .obj 0x0106] : List Part), p.within ps = true) : Touches ps r (afeFrame s0 a0 a1) := by
  unfold afeFrame
  repeat' first
    | with_reducible assumption | with_reducible apply touches_frameLine
    | with_reducible apply touches_frameEnable | with_reducible apply touches_frameClose
    | with_reducible apply touches_frameRange | with_reducible apply touches_latch
    | with_reducible apply touches_showLine | with_reducible apply touches_setInput
    | with_reducible apply touches_wrPairs | with_reducible refine Touches.foldl _ _ ?_ (fun _ _ _ => ?_)
    | split | fail_if_no_progress extract_lets | dsimp +zetaDelta only | refine List.forall_mem_cons.2 ⟨?_, ?_⟩
    | exact List.forall_mem_nil _ | exact sub hp (by decide) | exact hp _ (by decide)

theorem touches_arcBoundary {ps : List Part} {r s0 : State} (h : Touches ps r s0) (a0 : Nat)
    (hp : ∀ p ∈ ([.live] : List Part), p.within ps = true) : Touches ps r (arcBoundary s0 a0) := by
  unfold arcBoundary
  repeat' first
    | with_reducible assumption | with_reducible apply touches_latch | with_reducible apply touches_wrFields
    | with_reducible apply touches_wrPairs | with_reducible refine Touches.foldl _ _ ?_ (fun _ _ _ => ?_)
    | split

theorem touches_storeResult {ps : List Part} {r s0 : State} (h : Touches ps r s0) (a0 : Nat) (a1 : ProbeReading) (a2 : Nat) (a3 : Bool)
    (hp : ∀ p ∈ ([.free, .obj 0x0103, .obj 0x0106] : List Part), p.within ps = true) : Touches ps r (storeResult s0 a0 a1 a2 a3) := by
  unfold storeResult
  repeat' first
    | with_reducible assumption | with_reducible apply touches_drawFree | with_reducible apply touches_wr
    | with_reducible apply touches_wrPairs | with_reducible refine Touches.foldl _ _ ?_ (fun _ _ _ => ?_)
    | split | fail_if_no_progress extract_lets | dsimp +zetaDelta only | refine List.forall_mem_cons.2 ⟨?_, ?_⟩
    | exact List.forall_mem_nil _ | exact sub hp (by decide) | exact hp _ (by decide)
    | exact ⟨by decide, hp _ (by decide)⟩

theorem touches_probeCounts {ps : List Part} {r s0 : State} (h : Touches ps r s0) (a0 : Nat) (a1 : Nat) (a2 : Bool)
    (hp : ∀ p ∈ ([.afe, .flt, .notes, .obj 0x0C06] : List Part), p.within ps = true) : Touches ps r (probeCounts s0 a0 a1 a2) := by
  unfold probeCounts
  repeat' first
    | with_reducible assumption | with_reducible refine touches_raise_plain ?_ (by decide) _ _ _ ?_
    | with_reducible refine touches_raiseDetail_plain ?_ (by decide) _ _ _ _ ?_
    | with_reducible refine touches_raise_plain ?_ (by split <;> decide) _ _ _ ?_
    | with_reducible apply touches_setInput | with_reducible apply touches_endFault
    | with_reducible apply touches_wrPairs | with_reducible refine Touches.foldl _ _ ?_ (fun _ _ _ => ?_)
    | split | fail_if_no_progress extract_lets | dsimp +zetaDelta only | refine List.forall_mem_cons.2 ⟨?_, ?_⟩
    | exact List.forall_mem_nil _ | exact sub hp (by decide) | exact hp _ (by decide)

theorem touches_probeLine {ps : List Part} {r s0 : State} (h : Touches ps r s0) (a0 : Nat) (a1 : Nat) (a2 : Bool)
    (hp : ∀ p ∈ ([.afe, .flt, .notes, .obj 0x0103, .obj 0x0C06] : List Part), p.within ps = true) : Touches ps r (probeLine s0 a0 a1 a2) := by
  unfold probeLine
  repeat' first
    | with_reducible assumption | with_reducible apply touches_lineFault
    | with_reducible apply touches_updateFault | with_reducible apply touches_setInput
    | with_reducible apply touches_wr | with_reducible apply touches_lineRecovered
    | with_reducible apply touches_wrPairs | with_reducible refine Touches.foldl _ _ ?_ (fun _ _ _ => ?_)
    | split | fail_if_no_progress extract_lets | dsimp +zetaDelta only | refine List.forall_mem_cons.2 ⟨?_, ?_⟩
    | exact List.forall_mem_nil _ | exact sub hp (by decide) | exact hp _ (by decide)
    | exact ⟨by decide, hp _ (by decide)⟩

theorem touches_probeNext {ps : List Part} {r s0 : State} (h : Touches ps r s0) (a0 : Nat) (a1 : ProbeReading)
    (hp : ∀ p ∈ ([.afe, .live] : List Part), p.within ps = true) : Touches ps r (probeNext s0 a0 a1) := by
  unfold probeNext
  repeat' first
    | with_reducible assumption | with_reducible apply touches_setInput
    | with_reducible apply touches_probeLatch | with_reducible apply touches_wrPairs
    | with_reducible refine Touches.foldl _ _ ?_ (fun _ _ _ => ?_) | split | fail_if_no_progress extract_lets
    | dsimp +zetaDelta only | refine List.forall_mem_cons.2 ⟨?_, ?_⟩ | exact List.forall_mem_nil _
    | exact sub hp (by decide) | exact hp _ (by decide)

theorem touches_sweepBegin {ps : List Part} {r s0 : State} (h : Touches ps r s0) (a0 : Nat) (a1 : Nat)
    (hp : ∀ p ∈ ([.afe] : List Part), p.within ps = true) : Touches ps r (sweepBegin s0 a0 a1) := by
  unfold sweepBegin
  repeat' first
    | with_reducible assumption | with_reducible apply touches_setInput | with_reducible apply touches_wrPairs
    | with_reducible refine Touches.foldl _ _ ?_ (fun _ _ _ => ?_) | split | fail_if_no_progress extract_lets
    | with_reducible apply touches_part_afe | dsimp +zetaDelta only | refine List.forall_mem_cons.2 ⟨?_, ?_⟩
    | exact List.forall_mem_nil _ | exact sub hp (by decide) | exact hp _ (by decide)

theorem touches_sweepEnds {ps : List Part} {r s0 : State} (h : Touches ps r s0)
    (hp : ∀ p ∈ ([.afe, .live] : List Part), p.within ps = true) : Touches ps r (sweepEnds s0) := by
  unfold sweepEnds
  repeat' first
    | with_reducible assumption | with_reducible apply touches_probeStart | with_reducible apply touches_wrPairs
    | with_reducible refine Touches.foldl _ _ ?_ (fun _ _ _ => ?_) | split | fail_if_no_progress extract_lets
    | with_reducible apply touches_part_afe | dsimp +zetaDelta only | refine List.forall_mem_cons.2 ⟨?_, ?_⟩
    | exact List.forall_mem_nil _ | exact sub hp (by decide) | exact hp _ (by decide)

theorem touches_sweepNext {ps : List Part} {r s0 : State} (h : Touches ps r s0) (a0 : Nat) (a1 : Nat) (a2 : ProbeReading)
    (hp : ∀ p ∈ ([.afe, .live] : List Part), p.within ps = true) : Touches ps r (sweepNext s0 a0 a1 a2) := by
  unfold sweepNext
  repeat' first
    | with_reducible assumption | with_reducible apply touches_setInput
    | with_reducible apply touches_probeLatch | with_reducible apply touches_wrPairs
    | with_reducible refine Touches.foldl _ _ ?_ (fun _ _ _ => ?_) | split | fail_if_no_progress extract_lets
    | dsimp +zetaDelta only | refine List.forall_mem_cons.2 ⟨?_, ?_⟩ | exact List.forall_mem_nil _
    | exact sub hp (by decide) | exact hp _ (by decide)

theorem touches_sweepBytes {ps : List Part} {r s0 : State} (h : Touches ps r s0) (a0 : SweepSum) (a1 : ProbeReading)
    (hp : ∀ p ∈ ([.free] : List Part), p.within ps = true) : Touches ps r (sweepBytes s0 a0 a1).2 := by
  unfold sweepBytes
  repeat' first
    | with_reducible assumption | with_reducible apply touches_drawFree | with_reducible apply touches_wrPairs
    | with_reducible refine Touches.foldl _ _ ?_ (fun _ _ _ => ?_)
    | with_reducible refine Touches.foldlSnd _ _ ?_ (fun _ _ _ => ?_)
    | with_reducible refine Touches.foldlSndSnd _ _ ?_ (fun _ _ _ => ?_) | split
    | fail_if_no_progress extract_lets | dsimp +zetaDelta only | refine List.forall_mem_cons.2 ⟨?_, ?_⟩
    | exact List.forall_mem_nil _ | exact sub hp (by decide) | exact hp _ (by decide)

end Sys2Proof
end

