-- ==== Sys2Proof/Laws/ModeOps.lean ====
section
/-! SUPPORT. What each operation of `Machine/ModeOps.lean` may change. -/

namespace Sys2Proof

open Sys2Proof.Machine

theorem touches_modeNotice {ps : List Part} {r s0 : State} (h : Touches ps r s0) (a0 : ModeReq) (a1 : Mode) (a2 : Mode) (a3 : Nat) (a4 : Nat) (a5 : Nat)
    (hp : ∀ p ∈ ([.notes] : List Part), p.within ps = true) : Touches ps r (modeNotice s0 a0 a1 a2 a3 a4 a5) := by
  unfold modeNotice
  repeat' first
    | with_reducible assumption | with_reducible apply touches_notice

theorem touches_beginCheck {ps : List Part} {r s0 : State} (h : Touches ps r s0) (a0 : ModeReq)
    (hp : ∀ p ∈ ([.aon, .modes, .obj 0x1011] : List Part), p.within ps = true) : Touches ps r (beginCheck s0 a0) := by
  unfold beginCheck
  repeat' first
    | with_reducible assumption | with_reducible apply touches_wr | with_reducible apply touches_setPhase
    | with_reducible apply touches_setModes | with_reducible apply touches_setAon
    | with_reducible apply touches_wrPairs | with_reducible refine Touches.foldl _ _ ?_ (fun _ _ _ => ?_)
    | split | fail_if_no_progress extract_lets | dsimp +zetaDelta only | refine List.forall_mem_cons.2 ⟨?_, ?_⟩
    | exact List.forall_mem_nil _ | exact sub hp (by decide) | exact hp _ (by decide)
    | exact ⟨by decide, hp _ (by decide)⟩

theorem touches_nextRequest {ps : List Part} {r s0 : State} (h : Touches ps r s0)
    (hp : ∀ p ∈ ([.aon, .modes, .obj 0x1011] : List Part), p.within ps = true) : Touches ps r (nextRequest s0) := by
  unfold nextRequest
  repeat' first
    | with_reducible assumption | with_reducible apply touches_setAon | with_reducible apply touches_setModes
    | with_reducible apply touches_setPhase | with_reducible apply touches_wr
    | with_reducible apply touches_beginCheck | with_reducible apply touches_wrPairs
    | with_reducible refine Touches.foldl _ _ ?_ (fun _ _ _ => ?_) | split | fail_if_no_progress extract_lets
    | dsimp +zetaDelta only | refine List.forall_mem_cons.2 ⟨?_, ?_⟩ | exact List.forall_mem_nil _
    | exact sub hp (by decide) | exact hp _ (by decide) | exact ⟨by decide, hp _ (by decide)⟩

theorem touches_finishTransition {ps : List Part} {r s0 : State} (h : Touches ps r s0) (a0 : Mode)
    (hp : ∀ p ∈ ([.aon, .modes, .notes, .obj 0x1011] : List Part), p.within ps = true) : Touches ps r (finishTransition s0 a0) := by
  unfold finishTransition
  repeat' first
    | with_reducible refine touches_wr_current ?_ _ (code_le _) (hp _ (by decide))
    | with_reducible refine touches_wr_current ?_ _ (by decide) (hp _ (by decide)) | with_reducible assumption
    | with_reducible apply touches_modeNotice | with_reducible apply touches_wr
    | with_reducible apply touches_nextRequest | with_reducible apply touches_bump
    | with_reducible apply touches_wrPairs | with_reducible refine Touches.foldl _ _ ?_ (fun _ _ _ => ?_)
    | split | fail_if_no_progress extract_lets | dsimp +zetaDelta only | refine List.forall_mem_cons.2 ⟨?_, ?_⟩
    | exact List.forall_mem_nil _ | exact sub hp (by decide) | exact hp _ (by decide)
    | exact ⟨by decide, hp _ (by decide)⟩

theorem touches_refuseTransition {ps : List Part} {r s0 : State} (h : Touches ps r s0) (a0 : Nat)
    (hp : ∀ p ∈ ([.aon, .modes, .notes, .obj 0x1011] : List Part), p.within ps = true) : Touches ps r (refuseTransition s0 a0) := by
  unfold refuseTransition
  repeat' first
    | with_reducible assumption | with_reducible apply touches_finishTransition
    | with_reducible apply touches_setModes | with_reducible apply touches_wrPairs
    | with_reducible refine Touches.foldl _ _ ?_ (fun _ _ _ => ?_) | split | fail_if_no_progress extract_lets
    | dsimp +zetaDelta only | refine List.forall_mem_cons.2 ⟨?_, ?_⟩ | exact List.forall_mem_nil _
    | exact sub hp (by decide) | exact hp _ (by decide)

theorem touches_requestMode {ps : List Part} {r s0 : State} (h : Touches ps r s0) (a0 : ModeReq)
    (hp : ∀ p ∈ ([.aon, .modes, .notes, .pwr, .obj 0x0A04, .obj 0x1011] : List Part), p.within ps = true) : Touches ps r (requestMode s0 a0) := by
  unfold requestMode
  repeat' first
    | with_reducible assumption | with_reducible apply touches_beginCheck
    | with_reducible apply touches_unmarkWaiting | with_reducible apply touches_modeNotice
    | with_reducible apply touches_markWaiting | with_reducible apply touches_setModes
    | with_reducible apply touches_wr | with_reducible apply touches_wrPairs
    | with_reducible refine Touches.foldl _ _ ?_ (fun _ _ _ => ?_) | split | fail_if_no_progress extract_lets
    | dsimp +zetaDelta only | refine List.forall_mem_cons.2 ⟨?_, ?_⟩ | exact List.forall_mem_nil _
    | exact sub hp (by decide) | exact hp _ (by decide) | exact ⟨by decide, hp _ (by decide)⟩

end Sys2Proof
end

