-- ==== Sys2Proof/Laws/AxrelOps.lean ====
section
/-! SUPPORT. What each operation of `Machine/AxrelOps.lean` may change. -/

namespace Sys2Proof

open Sys2Proof.Machine

theorem touches_setLinkState {ps : List Part} {r s0 : State} (h : Touches ps r s0) (a0 : Nat) (a1 : Nat)
    (hp : ∀ p ∈ ([.axl, .obj 0x0D04] : List Part), p.within ps = true) : Touches ps r (setLinkState s0 a0 a1) := by
  unfold setLinkState
  repeat' first
    | with_reducible assumption | with_reducible apply touches_setLink | with_reducible apply touches_wr
    | with_reducible apply touches_wrPairs | with_reducible refine Touches.foldl _ _ ?_ (fun _ _ _ => ?_)
    | split | fail_if_no_progress extract_lets | dsimp +zetaDelta only | refine List.forall_mem_cons.2 ⟨?_, ?_⟩
    | exact List.forall_mem_nil _ | exact sub hp (by decide) | exact hp _ (by decide)
    | exact ⟨by decide, hp _ (by decide)⟩

theorem touches_raiseAxrel {ps : List Part} {r s0 : State} (h : Touches ps r s0) {a0 : Nat} (hs : severityOf a0 ≠ 3)
    (a1 a2 a3 : Nat) (hp : ∀ p ∈ ([.flt, .notes, .obj 0x0C06] : List Part), p.within ps = true) :
    Touches ps r (raiseAxrel s0 a0 a1 a2 a3) := touches_raise_plain h hs _ _ _ hp

theorem touches_pumpFrames {ps : List Part} {r s0 : State} (h : Touches ps r s0) (a0 : Nat) (a1 : Nat)
    (hp : ∀ p ∈ ([.axl, .out, .obj 0x0D05] : List Part), p.within ps = true) : Touches ps r (pumpFrames a0 s0 a1) := by
  induction a0 generalizing s0 a1 with
  | zero =>
    unfold pumpFrames
    repeat' first
      | with_reducible assumption
  | succ fuel ih =>
    unfold pumpFrames
    repeat' first
      | with_reducible assumption | apply ih | with_reducible apply touches_setAxPort
      | with_reducible apply touches_bump | with_reducible apply touches_emit
      | with_reducible apply touches_wrPairs | with_reducible refine Touches.foldl _ _ ?_ (fun _ _ _ => ?_)
      | split | fail_if_no_progress extract_lets | dsimp +zetaDelta only
      | refine List.forall_mem_cons.2 ⟨?_, ?_⟩ | exact List.forall_mem_nil _ | exact sub hp (by decide)
      | exact hp _ (by decide) | exact ⟨by decide, hp _ (by decide)⟩

theorem touches_pumpPeer {ps : List Part} {r s0 : State} (h : Touches ps r s0) (a0 : Nat) (a1 : Nat)
    (hp : ∀ p ∈ ([.axl, .out, .peer, .obj 0x0D05] : List Part), p.within ps = true) : Touches ps r (pumpPeer a0 s0 a1) := by
  induction a0 generalizing s0 a1 with
  | zero =>
    unfold pumpPeer
    repeat' first
      | with_reducible assumption
  | succ fuel ih =>
    unfold pumpPeer
    repeat' first
      | with_reducible assumption | apply ih | with_reducible apply touches_setAxPort
      | with_reducible apply touches_pumpFrames | with_reducible apply touches_wrPairs
      | with_reducible refine Touches.foldl _ _ ?_ (fun _ _ _ => ?_) | split | fail_if_no_progress extract_lets
      | with_reducible apply touches_part_peer | dsimp +zetaDelta only | refine List.forall_mem_cons.2 ⟨?_, ?_⟩
      | exact List.forall_mem_nil _ | exact sub hp (by decide) | exact hp _ (by decide)

theorem touches_pump {ps : List Part} {r s0 : State} (h : Touches ps r s0) (a0 : Nat)
    (hp : ∀ p ∈ ([.axl, .out, .peer, .obj 0x0D05] : List Part), p.within ps = true) : Touches ps r (pump s0 a0) := by
  unfold pump
  repeat' first
    | with_reducible assumption | with_reducible apply touches_pumpPeer
    | with_reducible apply touches_pumpFrames | with_reducible apply touches_wrPairs
    | with_reducible refine Touches.foldl _ _ ?_ (fun _ _ _ => ?_) | split | fail_if_no_progress extract_lets
    | dsimp +zetaDelta only | refine List.forall_mem_cons.2 ⟨?_, ?_⟩ | exact List.forall_mem_nil _
    | exact sub hp (by decide) | exact hp _ (by decide)

theorem touches_axPost {ps : List Part} {r s0 : State} (h : Touches ps r s0) (a0 : Nat) (a1 : Nat) (a2 : Bytes)
    (hp : ∀ p ∈ ([.axl, .out, .peer, .obj 0x0D05] : List Part), p.within ps = true) : Touches ps r (axPost s0 a0 a1 a2) := by
  unfold axPost
  repeat' first
    | with_reducible assumption | with_reducible apply touches_pump | with_reducible apply touches_setAxPort
    | with_reducible apply touches_bump | with_reducible apply touches_wrPairs
    | with_reducible refine Touches.foldl _ _ ?_ (fun _ _ _ => ?_) | split | fail_if_no_progress extract_lets
    | dsimp +zetaDelta only | refine List.forall_mem_cons.2 ⟨?_, ?_⟩ | exact List.forall_mem_nil _
    | exact sub hp (by decide) | exact hp _ (by decide) | exact ⟨by decide, hp _ (by decide)⟩

theorem touches_linkOff {ps : List Part} {r s0 : State} (h : Touches ps r s0) (a0 : Nat) (a1 : Nat)
    (hp : ∀ p ∈ ([.axl, .obj 0x0D04] : List Part), p.within ps = true) : Touches ps r (linkOff s0 a0 a1) := by
  unfold linkOff
  repeat' first
    | with_reducible assumption | with_reducible apply touches_wr | with_reducible apply touches_setLinkState
    | with_reducible apply touches_wrPairs | with_reducible refine Touches.foldl _ _ ?_ (fun _ _ _ => ?_)
    | split | fail_if_no_progress extract_lets | dsimp +zetaDelta only | refine List.forall_mem_cons.2 ⟨?_, ?_⟩
    | exact List.forall_mem_nil _ | exact sub hp (by decide) | exact hp _ (by decide)
    | exact ⟨by decide, hp _ (by decide)⟩

theorem touches_linksTo {ps : List Part} {r s0 : State} (h : Touches ps r s0) (a0 : Nat) (a1 : Nat)
    (hp : ∀ p ∈ ([.axl, .obj 0x0D04] : List Part), p.within ps = true) : Touches ps r (linksTo s0 a0 a1) := by
  unfold linksTo
  repeat' first
    | with_reducible assumption | with_reducible apply touches_linkOff | with_reducible apply touches_wrPairs
    | with_reducible refine Touches.foldl _ _ ?_ (fun _ _ _ => ?_) | split

theorem touches_portEnd {ps : List Part} {r s0 : State} (h : Touches ps r s0) (a0 : Nat)
    (hp : ∀ p ∈ ([.axl, .obj 0x0D05] : List Part), p.within ps = true) : Touches ps r (portEnd s0 a0) := by
  unfold portEnd
  repeat' first
    | with_reducible assumption | with_reducible apply touches_bump | with_reducible apply touches_wr
    | with_reducible apply touches_setAxPort | with_reducible apply touches_wrPairs
    | with_reducible refine Touches.foldl _ _ ?_ (fun _ _ _ => ?_) | split | fail_if_no_progress extract_lets
    | dsimp +zetaDelta only | refine List.forall_mem_cons.2 ⟨?_, ?_⟩ | exact List.forall_mem_nil _
    | exact sub hp (by decide) | exact hp _ (by decide) | exact ⟨by decide, hp _ (by decide)⟩

theorem touches_peerLanes {ps : List Part} {r s0 : State} (h : Touches ps r s0) (a0 : Nat)
    (hp : ∀ p ∈ ([.flt, .notes, .obj 0x0C06] : List Part), p.within ps = true) : Touches ps r (peerLanes s0 a0) := by
  unfold peerLanes
  repeat' first
    | with_reducible assumption | with_reducible refine touches_raise_plain ?_ (by decide) _ _ _ ?_
    | with_reducible refine touches_raiseDetail_plain ?_ (by decide) _ _ _ _ ?_
    | with_reducible refine touches_raise_plain ?_ (by split <;> decide) _ _ _ ?_
    | with_reducible apply touches_wrPairs | with_reducible refine Touches.foldl _ _ ?_ (fun _ _ _ => ?_)
    | split | fail_if_no_progress extract_lets

theorem touches_wideDownNow {ps : List Part} {r s0 : State} (h : Touches ps r s0) (a0 : Nat)
    (hp : ∀ p ∈ ([.peer] : List Part), p.within ps = true) : Touches ps r (wideDownNow s0 a0) := by
  unfold wideDownNow
  repeat' first
    | with_reducible assumption | with_reducible apply touches_wrPairs
    | with_reducible refine Touches.foldl _ _ ?_ (fun _ _ _ => ?_) | split | fail_if_no_progress extract_lets
    | with_reducible apply touches_part_peer | dsimp +zetaDelta only | refine List.forall_mem_cons.2 ⟨?_, ?_⟩
    | exact List.forall_mem_nil _ | exact sub hp (by decide) | exact hp _ (by decide)

theorem touches_portDown {ps : List Part} {r s0 : State} (h : Touches ps r s0) (a0 : Nat)
    (hp : ∀ p ∈ ([.axl, .flt, .notes, .peer, .obj 0x0C06, .obj 0x0D04, .obj 0x0D05] : List Part), p.within ps = true) : Touches ps r (portDown s0 a0) := by
  unfold portDown
  repeat' first
    | with_reducible assumption | with_reducible refine touches_raiseAxrel ?_ (by decide) _ _ _ ?_
    | with_reducible refine touches_raiseAxrel ?_ (by split <;> decide) _ _ _ ?_
    | with_reducible refine touches_raiseAxrel ?_ (accessError_plain ‹_›) _ _ _ ?_
    | with_reducible apply touches_linksTo | with_reducible apply touches_portEnd
    | with_reducible apply touches_peerLanes | with_reducible apply touches_wideDownNow
    | with_reducible apply touches_wrPairs | with_reducible refine Touches.foldl _ _ ?_ (fun _ _ _ => ?_)
    | split | fail_if_no_progress extract_lets | dsimp +zetaDelta only | refine List.forall_mem_cons.2 ⟨?_, ?_⟩
    | exact List.forall_mem_nil _ | exact sub hp (by decide) | exact hp _ (by decide)

theorem touches_portGone {ps : List Part} {r s0 : State} (h : Touches ps r s0) (a0 : Nat) (a1 : Nat)
    (hp : ∀ p ∈ ([.axl, .flt, .notes, .obj 0x0C06, .obj 0x0D05] : List Part), p.within ps = true) : Touches ps r (portGone s0 a0 a1) := by
  unfold portGone
  repeat' first
    | with_reducible assumption | with_reducible refine touches_raiseAxrel ?_ (by decide) _ _ _ ?_
    | with_reducible refine touches_raiseAxrel ?_ (by split <;> decide) _ _ _ ?_
    | with_reducible refine touches_raiseAxrel ?_ (accessError_plain ‹_›) _ _ _ ?_
    | with_reducible apply touches_portEnd | with_reducible apply touches_wrPairs
    | with_reducible refine Touches.foldl _ _ ?_ (fun _ _ _ => ?_) | split | fail_if_no_progress extract_lets
    | dsimp +zetaDelta only | refine List.forall_mem_cons.2 ⟨?_, ?_⟩ | exact List.forall_mem_nil _
    | exact sub hp (by decide) | exact hp _ (by decide)

theorem touches_linkQuiet {ps : List Part} {r s0 : State} (h : Touches ps r s0) (a0 : Nat) (a1 : Nat)
    (hp : ∀ p ∈ ([.axl, .flt, .notes, .pwr, .obj 0x0A04, .obj 0x0C06, .obj 0x0D04, .obj 0x0D05] : List Part), p.within ps = true) : Touches ps r (linkQuiet s0 a0 a1) := by
  unfold linkQuiet
  repeat' first
    | with_reducible assumption | with_reducible apply touches_portGone | with_reducible apply touches_wr
    | with_reducible apply touches_domDown | with_reducible apply touches_setLink
    | with_reducible apply touches_linkOff | with_reducible apply touches_wrPairs
    | with_reducible refine Touches.foldl _ _ ?_ (fun _ _ _ => ?_) | split | fail_if_no_progress extract_lets
    | dsimp +zetaDelta only | refine List.forall_mem_cons.2 ⟨?_, ?_⟩ | exact List.forall_mem_nil _
    | exact sub hp (by decide) | exact hp _ (by decide) | exact ⟨by decide, hp _ (by decide)⟩

theorem touches_axrelQuiet {ps : List Part} {r s0 : State} (h : Touches ps r s0) (a0 : Mode) (a1 : Bool)
    (hp : ∀ p ∈ ([.axl, .flt, .notes, .pwr, .obj 0x0A04, .obj 0x0C06, .obj 0x0D04, .obj 0x0D05] : List Part), p.within ps = true) : Touches ps r (axrelQuiet s0 a0 a1) := by
  unfold axrelQuiet
  repeat' first
    | with_reducible assumption | with_reducible apply touches_linkQuiet | with_reducible apply touches_wrPairs
    | with_reducible refine Touches.foldl _ _ ?_ (fun _ _ _ => ?_) | split

theorem touches_axrelForm {ps : List Part} {r s0 : State} (h : Touches ps r s0)
    (hp : ∀ p ∈ ([.axl, .flt, .notes, .obj 0x0C06, .obj 0x0D04, .obj 0x0D05] : List Part), p.within ps = true) : Touches ps r (axrelForm s0) := by
  unfold axrelForm
  repeat' first
    | with_reducible assumption | with_reducible apply touches_portGone | with_reducible apply touches_linkOff
    | with_reducible apply touches_setLink | with_reducible apply touches_wr
    | with_reducible apply touches_wrPairs | with_reducible refine Touches.foldl _ _ ?_ (fun _ _ _ => ?_)
    | split | fail_if_no_progress extract_lets | dsimp +zetaDelta only | refine List.forall_mem_cons.2 ⟨?_, ?_⟩
    | exact List.forall_mem_nil _ | exact sub hp (by decide) | exact hp _ (by decide)
    | exact ⟨by decide, hp _ (by decide)⟩

theorem touches_prbsSnapshot {ps : List Part} {r s0 : State} (h : Touches ps r s0) (a0 : Nat) (a1 : Nat)
    (hp : ∀ p ∈ ([.obj 0x0D06] : List Part), p.within ps = true) : Touches ps r (prbsSnapshot s0 a0 a1) := by
  unfold prbsSnapshot
  repeat' first
    | with_reducible assumption | with_reducible apply touches_wr | with_reducible apply touches_wrPairs
    | with_reducible refine Touches.foldl _ _ ?_ (fun _ _ _ => ?_) | split | fail_if_no_progress extract_lets
    | dsimp +zetaDelta only | refine List.forall_mem_cons.2 ⟨?_, ?_⟩ | exact List.forall_mem_nil _
    | exact sub hp (by decide) | exact hp _ (by decide) | exact ⟨by decide, hp _ (by decide)⟩

theorem touches_prbsEnds {ps : List Part} {r s0 : State} (h : Touches ps r s0)
    (hp : ∀ p ∈ ([.obj 0x0D06] : List Part), p.within ps = true) : Touches ps r (prbsEnds s0) := by
  unfold prbsEnds
  repeat' first
    | with_reducible assumption | with_reducible apply touches_wr | with_reducible apply touches_prbsSnapshot
    | with_reducible apply touches_wrPairs | with_reducible refine Touches.foldl _ _ ?_ (fun _ _ _ => ?_)
    | split | fail_if_no_progress extract_lets | dsimp +zetaDelta only | refine List.forall_mem_cons.2 ⟨?_, ?_⟩
    | exact List.forall_mem_nil _ | exact sub hp (by decide) | exact hp _ (by decide)
    | exact ⟨by decide, hp _ (by decide)⟩

theorem touches_moveIn {ps : List Part} {r s0 : State} (h : Touches ps r s0) (a0 : Nat) (a1 : Nat)
    (hp : ∀ p ∈ ([.axl] : List Part), p.within ps = true) : Touches ps r (moveIn a0 s0 a1) := by
  induction a0 generalizing s0 a1 with
  | zero =>
    unfold moveIn
    repeat' first
      | with_reducible assumption
  | succ fuel ih =>
    unfold moveIn
    repeat' first
      | with_reducible assumption | apply ih | with_reducible apply touches_setAxPort
      | with_reducible apply touches_wrPairs | with_reducible refine Touches.foldl _ _ ?_ (fun _ _ _ => ?_)
      | split | fail_if_no_progress extract_lets | dsimp +zetaDelta only
      | refine List.forall_mem_cons.2 ⟨?_, ?_⟩ | exact List.forall_mem_nil _ | exact sub hp (by decide)
      | exact hp _ (by decide)

theorem touches_takeMessage {ps : List Part} {r s0 : State} (h : Touches ps r s0) (a0 : Nat) (a1 : Nat)
    (hp : ∀ p ∈ ([.axl] : List Part), p.within ps = true) : Touches ps r (takeMessage s0 a0 a1) := by
  unfold takeMessage
  repeat' first
    | with_reducible assumption | with_reducible apply touches_moveIn | with_reducible apply touches_setAxPort
    | with_reducible apply touches_wrPairs | with_reducible refine Touches.foldl _ _ ?_ (fun _ _ _ => ?_)
    | split | fail_if_no_progress extract_lets | dsimp +zetaDelta only | refine List.forall_mem_cons.2 ⟨?_, ?_⟩
    | exact List.forall_mem_nil _ | exact sub hp (by decide) | exact hp _ (by decide)

end Sys2Proof
end

