-- ==== Sys2Proof/Laws/Axrel.lean ====
section
/-! SUPPORT. What each operation of `Machine/Axrel.lean` may change. -/

namespace Sys2Proof

open Sys2Proof.Machine

theorem touches_trainLink {ps : List Part} {r s0 : State} (h : Touches ps r s0) (a0 : Nat)
    (hp : ∀ p ∈ ([.axl, .out, .pwr, .obj 0x0A04, .obj 0x0D04, .obj 0x1011] : List Part), p.within ps = true) : Touches ps r (trainLink s0 a0) := by
  unfold trainLink
  repeat' first
    | with_reducible assumption | with_reducible apply touches_setLink | with_reducible apply touches_domUp
    | with_reducible apply touches_setLinkState | with_reducible apply touches_emit
    | with_reducible apply touches_bump | with_reducible apply touches_wrPairs
    | with_reducible refine Touches.foldl _ _ ?_ (fun _ _ _ => ?_) | split | fail_if_no_progress extract_lets
    | dsimp +zetaDelta only | refine List.forall_mem_cons.2 ⟨?_, ?_⟩ | exact List.forall_mem_nil _
    | exact sub hp (by decide) | exact hp _ (by decide) | exact ⟨by decide, hp _ (by decide)⟩

theorem touches_failTransition {ps : List Part} {r s0 : State} (h : Touches ps r s0) (a0 : Nat)
    (hp : ∀ p ∈ ([.flt, .modes, .notes, .obj 0x0C06, .obj 0x1011] : List Part), p.within ps = true) : Touches ps r (failTransition s0 a0) := by
  unfold failTransition
  repeat' first
    | with_reducible assumption | with_reducible refine touches_raise_plain ?_ (by decide) _ _ _ ?_
    | with_reducible refine touches_raiseDetail_plain ?_ (by decide) _ _ _ _ ?_
    | with_reducible refine touches_raise_plain ?_ (by split <;> decide) _ _ _ ?_
    | with_reducible apply touches_forceIdle | with_reducible apply touches_wrPairs
    | with_reducible refine Touches.foldl _ _ ?_ (fun _ _ _ => ?_) | split | fail_if_no_progress extract_lets
    | dsimp +zetaDelta only | refine List.forall_mem_cons.2 ⟨?_, ?_⟩ | exact List.forall_mem_nil _
    | exact sub hp (by decide) | exact hp _ (by decide)

theorem touches_takeRecord {ps : List Part} {r s0 : State} (h : Touches ps r s0) (a0 : Nat) (a1 : Bytes)
    (hp : ∀ p ∈ ([.axl, .obj 0x0D04] : List Part), p.within ps = true) : Touches ps r (takeRecord s0 a0 a1) := by
  unfold takeRecord
  repeat' first
    | with_reducible assumption | with_reducible apply touches_wr | with_reducible apply touches_setLink
    | with_reducible apply touches_wrPairs | with_reducible refine Touches.foldl _ _ ?_ (fun _ _ _ => ?_)
    | split | fail_if_no_progress extract_lets | dsimp +zetaDelta only | refine List.forall_mem_cons.2 ⟨?_, ?_⟩
    | exact List.forall_mem_nil _ | exact sub hp (by decide) | exact hp _ (by decide)
    | exact ⟨by decide, hp _ (by decide)⟩

theorem touches_requestMap {ps : List Part} {r s0 : State} (h : Touches ps r s0) (a0 : Nat) (a1 : Nat)
    (hp : ∀ p ∈ ([.axl, .flt, .notes, .out, .peer, .obj 0x0C06, .obj 0x0D04, .obj 0x0D05] : List Part), p.within ps = true) : Touches ps r (requestMap s0 a0 a1) := by
  unfold requestMap
  repeat' first
    | with_reducible assumption | with_reducible apply touches_portDown | with_reducible apply touches_emit
    | with_reducible apply touches_setAxPort | with_reducible apply touches_wrPairs
    | with_reducible refine Touches.foldl _ _ ?_ (fun _ _ _ => ?_) | split | fail_if_no_progress extract_lets
    | dsimp +zetaDelta only | refine List.forall_mem_cons.2 ⟨?_, ?_⟩ | exact List.forall_mem_nil _
    | exact sub hp (by decide) | exact hp _ (by decide)

theorem touches_linkJoined {ps : List Part} {r s0 : State} (h : Touches ps r s0) (a0 : Nat)
    (hp : ∀ p ∈ ([.axl, .flt, .notes, .obj 0x0C06, .obj 0x0D04] : List Part), p.within ps = true) : Touches ps r (linkJoined s0 a0) := by
  unfold linkJoined
  repeat' first
    | with_reducible assumption | with_reducible apply touches_setLink
    | with_reducible apply touches_setLinkState | with_reducible apply touches_clearFault
    | with_reducible apply touches_endFault | with_reducible apply touches_wrPairs
    | with_reducible refine Touches.foldl _ _ ?_ (fun _ _ _ => ?_) | split | fail_if_no_progress extract_lets
    | dsimp +zetaDelta only | refine List.forall_mem_cons.2 ⟨?_, ?_⟩ | exact List.forall_mem_nil _
    | exact sub hp (by decide) | exact hp _ (by decide)

theorem touches_mapFaults {ps : List Part} {r s0 : State} (h : Touches ps r s0) (a0 : Nat)
    (hp : ∀ p ∈ ([.flt, .notes, .obj 0x0C06] : List Part), p.within ps = true) : Touches ps r (mapFaults s0 a0) := by
  unfold mapFaults
  repeat' first
    | with_reducible assumption | with_reducible apply touches_clearFault | with_reducible apply touches_wrPairs
    | with_reducible refine Touches.foldl _ _ ?_ (fun _ _ _ => ?_) | split

theorem touches_trainFails {ps : List Part} {r s0 : State} (h : Touches ps r s0) (a0 : Nat)
    (hp : ∀ p ∈ ([.axl, .flt, .notes, .obj 0x0C06, .obj 0x0D04] : List Part), p.within ps = true) : Touches ps r (trainFails s0 a0) := by
  unfold trainFails
  repeat' first
    | with_reducible assumption | with_reducible apply touches_setLink | with_reducible apply touches_wr
    | with_reducible apply touches_setLinkState
    | with_reducible refine touches_raiseAxrel ?_ (by decide) _ _ _ ?_
    | with_reducible refine touches_raiseAxrel ?_ (by split <;> decide) _ _ _ ?_
    | with_reducible refine touches_raiseAxrel ?_ (accessError_plain ‹_›) _ _ _ ?_
    | with_reducible apply touches_wrPairs | with_reducible refine Touches.foldl _ _ ?_ (fun _ _ _ => ?_)
    | split | fail_if_no_progress extract_lets | dsimp +zetaDelta only | refine List.forall_mem_cons.2 ⟨?_, ?_⟩
    | exact List.forall_mem_nil _ | exact sub hp (by decide) | exact hp _ (by decide)
    | exact ⟨by decide, hp _ (by decide)⟩

theorem touches_clockLoss {ps : List Part} {r s0 : State} (h : Touches ps r s0) (a0 : Nat)
    (hp : ∀ p ∈ ([.axl, .flt, .notes, .out, .peer, .obj 0x0C06, .obj 0x0D04, .obj 0x0D05] : List Part), p.within ps = true) : Touches ps r (clockLoss s0 a0) := by
  unfold clockLoss
  repeat' first
    | with_reducible assumption | with_reducible apply touches_wr | with_reducible apply touches_setLinkState
    | with_reducible refine touches_raiseAxrel ?_ (by decide) _ _ _ ?_
    | with_reducible refine touches_raiseAxrel ?_ (by split <;> decide) _ _ _ ?_
    | with_reducible refine touches_raiseAxrel ?_ (accessError_plain ‹_›) _ _ _ ?_
    | with_reducible apply touches_setLink | with_reducible apply touches_peerLanes
    | with_reducible apply touches_requestMap | with_reducible apply touches_wrPairs
    | with_reducible refine Touches.foldl _ _ ?_ (fun _ _ _ => ?_) | split | fail_if_no_progress extract_lets
    | dsimp +zetaDelta only | refine List.forall_mem_cons.2 ⟨?_, ?_⟩ | exact List.forall_mem_nil _
    | exact sub hp (by decide) | exact hp _ (by decide) | exact ⟨by decide, hp _ (by decide)⟩

theorem touches_sendNak {ps : List Part} {r s0 : State} (h : Touches ps r s0) (a0 : Nat)
    (hp : ∀ p ∈ ([.axl, .out] : List Part), p.within ps = true) : Touches ps r (sendNak s0 a0) := by
  unfold sendNak
  repeat' first
    | with_reducible assumption | with_reducible apply touches_emit | with_reducible apply touches_setAxPort
    | with_reducible apply touches_wrPairs | with_reducible refine Touches.foldl _ _ ?_ (fun _ _ _ => ?_)
    | split | fail_if_no_progress extract_lets | dsimp +zetaDelta only | refine List.forall_mem_cons.2 ⟨?_, ?_⟩
    | exact List.forall_mem_nil _ | exact sub hp (by decide) | exact hp _ (by decide)

theorem touches_sendAck {ps : List Part} {r s0 : State} (h : Touches ps r s0) (a0 : Nat)
    (hp : ∀ p ∈ ([.axl, .out] : List Part), p.within ps = true) : Touches ps r (sendAck s0 a0) := by
  unfold sendAck
  repeat' first
    | with_reducible assumption | with_reducible apply touches_emit | with_reducible apply touches_setAxPort
    | with_reducible apply touches_wrPairs | with_reducible refine Touches.foldl _ _ ?_ (fun _ _ _ => ?_)
    | split | fail_if_no_progress extract_lets | dsimp +zetaDelta only | refine List.forall_mem_cons.2 ⟨?_, ?_⟩
    | exact List.forall_mem_nil _ | exact sub hp (by decide) | exact hp _ (by decide)

theorem touches_acceptPayload {ps : List Part} {r s0 : State} (h : Touches ps r s0) (a0 : Nat) (a1 : Nat) (a2 : Nat) (a3 : Bool) (a4 : Bool) (a5 : Bytes)
    (hp : ∀ p ∈ ([.axl] : List Part), p.within ps = true) : Touches ps r (acceptPayload s0 a0 a1 a2 a3 a4 a5) := by
  unfold acceptPayload
  repeat' first
    | with_reducible assumption | with_reducible apply touches_moveIn | with_reducible apply touches_setAxPort
    | with_reducible apply touches_wrPairs | with_reducible refine Touches.foldl _ _ ?_ (fun _ _ _ => ?_)
    | split | fail_if_no_progress extract_lets | dsimp +zetaDelta only | refine List.forall_mem_cons.2 ⟨?_, ?_⟩
    | exact List.forall_mem_nil _ | exact sub hp (by decide) | exact hp _ (by decide)

theorem touches_retransmit {ps : List Part} {r s0 : State} (h : Touches ps r s0) (a0 : Nat)
    (hp : ∀ p ∈ ([.axl, .flt, .notes, .out, .peer, .obj 0x0C06, .obj 0x0D04, .obj 0x0D05] : List Part), p.within ps = true) : Touches ps r (retransmit s0 a0) := by
  unfold retransmit
  repeat' first
    | with_reducible assumption | with_reducible apply touches_portDown | with_reducible apply touches_setAxPort
    | with_reducible apply touches_emit | with_reducible apply touches_bump
    | with_reducible apply touches_wrFields | with_reducible apply touches_wrPairs
    | with_reducible refine Touches.foldl _ _ ?_ (fun _ _ _ => ?_) | split | fail_if_no_progress extract_lets
    | dsimp +zetaDelta only | refine List.forall_mem_cons.2 ⟨?_, ?_⟩ | exact List.forall_mem_nil _
    | exact sub hp (by decide) | exact hp _ (by decide) | exact ⟨by decide, hp _ (by decide)⟩

theorem touches_errInject {ps : List Part} {r s0 : State} (h : Touches ps r s0) (a0 : Nat)
    (hp : ∀ p ∈ ([.out, .obj 0x0D06] : List Part), p.within ps = true) : Touches ps r (errInject s0 a0) := by
  unfold errInject
  repeat' first
    | with_reducible assumption | with_reducible apply touches_bumpSat | with_reducible apply touches_emit
    | with_reducible apply touches_wrPairs | with_reducible refine Touches.foldl _ _ ?_ (fun _ _ _ => ?_)
    | split | fail_if_no_progress extract_lets | dsimp +zetaDelta only | refine List.forall_mem_cons.2 ⟨?_, ?_⟩
    | exact List.forall_mem_nil _ | exact sub hp (by decide) | exact hp _ (by decide)
    | exact ⟨by decide, hp _ (by decide)⟩

end Sys2Proof
end

