-- ==== Sys2Proof/Laws/Bluebell.lean ====
section
/-! SUPPORT. What each operation of `Machine/Bluebell.lean` may change. -/

namespace Sys2Proof

open Sys2Proof.Machine

theorem touches_showBbl {ps : List Part} {r s0 : State} (h : Touches ps r s0)
    (hp : ∀ p ∈ ([.obj 0x0205, .obj 0x0509] : List Part), p.within ps = true) : Touches ps r (showBbl s0) := by
  unfold showBbl
  repeat' first
    | with_reducible assumption | with_reducible apply touches_wr | with_reducible apply touches_wrPairs
    | with_reducible refine Touches.foldl _ _ ?_ (fun _ _ _ => ?_) | split | fail_if_no_progress extract_lets
    | dsimp +zetaDelta only | refine List.forall_mem_cons.2 ⟨?_, ?_⟩ | exact List.forall_mem_nil _
    | exact sub hp (by decide) | exact hp _ (by decide) | exact ⟨by decide, hp _ (by decide)⟩

theorem touches_takeWindow {ps : List Part} {r s0 : State} (h : Touches ps r s0) (a0 : Nat) (a1 : Nat) (a2 : Nat) (a3 : Nat)
    (hp : ∀ p ∈ ([.bbl, .obj 0x0205, .obj 0x0509] : List Part), p.within ps = true) : Touches ps r (takeWindow s0 a0 a1 a2 a3) := by
  unfold takeWindow
  repeat' first
    | with_reducible assumption | with_reducible apply touches_showBbl | with_reducible apply touches_setBbl
    | with_reducible apply touches_wrPairs | with_reducible refine Touches.foldl _ _ ?_ (fun _ _ _ => ?_)
    | split | fail_if_no_progress extract_lets | dsimp +zetaDelta only | refine List.forall_mem_cons.2 ⟨?_, ?_⟩
    | exact List.forall_mem_nil _ | exact sub hp (by decide) | exact hp _ (by decide)

theorem touches_holdSeg {ps : List Part} {r s0 : State} (h : Touches ps r s0) (a0 : Nat) (a1 : Nat)
    (hp : ∀ p ∈ ([.bbl] : List Part), p.within ps = true) : Touches ps r (holdSeg s0 a0 a1) := by
  unfold holdSeg
  repeat' first
    | with_reducible assumption | with_reducible apply touches_setBbl | with_reducible apply touches_wrPairs
    | with_reducible refine Touches.foldl _ _ ?_ (fun _ _ _ => ?_) | split | fail_if_no_progress extract_lets
    | dsimp +zetaDelta only | refine List.forall_mem_cons.2 ⟨?_, ?_⟩ | exact List.forall_mem_nil _
    | exact sub hp (by decide) | exact hp _ (by decide)

theorem touches_reservePre {ps : List Part} {r s0 : State} (h : Touches ps r s0) (a0 : Nat) (a1 : Nat) (a2 : Nat) (a3 : Nat)
    (hp : ∀ p ∈ ([.bbl] : List Part), p.within ps = true) : Touches ps r (reservePre a0 s0 a1 a2 a3) := by
  induction a0 generalizing s0 a1 a2 a3 with
  | zero =>
    unfold reservePre
    repeat' first
      | with_reducible assumption
  | succ fuel ih =>
    unfold reservePre
    repeat' first
      | with_reducible assumption | apply ih | with_reducible apply touches_setWindow
      | with_reducible apply touches_holdSeg | with_reducible apply touches_wrPairs
      | with_reducible refine Touches.foldl _ _ ?_ (fun _ _ _ => ?_) | split | fail_if_no_progress extract_lets
      | dsimp +zetaDelta only | refine List.forall_mem_cons.2 ⟨?_, ?_⟩ | exact List.forall_mem_nil _
      | exact sub hp (by decide) | exact hp _ (by decide)

theorem touches_reservePost {ps : List Part} {r s0 : State} (h : Touches ps r s0) (a0 : Nat) (a1 : Nat) (a2 : Nat)
    (hp : ∀ p ∈ ([.bbl] : List Part), p.within ps = true) : Touches ps r (reservePost a0 s0 a1 a2) := by
  induction a0 generalizing s0 a1 a2 with
  | zero =>
    unfold reservePost
    repeat' first
      | with_reducible assumption
  | succ fuel ih =>
    unfold reservePost
    repeat' first
      | with_reducible assumption | apply ih | with_reducible apply touches_setWindow
      | with_reducible apply touches_holdSeg | with_reducible apply touches_wrPairs
      | with_reducible refine Touches.foldl _ _ ?_ (fun _ _ _ => ?_) | split | fail_if_no_progress extract_lets
      | dsimp +zetaDelta only | refine List.forall_mem_cons.2 ⟨?_, ?_⟩ | exact List.forall_mem_nil _
      | exact sub hp (by decide) | exact hp _ (by decide)

theorem touches_freezeWindow {ps : List Part} {r s0 : State} (h : Touches ps r s0) (a0 : Nat)
    (hp : ∀ p ∈ ([.bbl, .pwr, .obj 0x0A04, .obj 0x1011] : List Part), p.within ps = true) : Touches ps r (freezeWindow s0 a0) := by
  unfold freezeWindow
  repeat' first
    | with_reducible assumption | with_reducible apply touches_digitizerUp
    | with_reducible apply touches_setWindow | with_reducible apply touches_wrPairs
    | with_reducible refine Touches.foldl _ _ ?_ (fun _ _ _ => ?_) | split | fail_if_no_progress extract_lets
    | dsimp +zetaDelta only | refine List.forall_mem_cons.2 ⟨?_, ?_⟩ | exact List.forall_mem_nil _
    | exact sub hp (by decide) | exact hp _ (by decide)

theorem touches_windowBoundary {ps : List Part} {r s0 : State} (h : Touches ps r s0) (a0 : Nat)
    (hp : ∀ p ∈ ([.bbl, .pwr, .obj 0x0A04, .obj 0x1011] : List Part), p.within ps = true) : Touches ps r (windowBoundary s0 a0) := by
  unfold windowBoundary
  repeat' first
    | with_reducible assumption | with_reducible apply touches_reservePre
    | with_reducible apply touches_setWindow | with_reducible apply touches_reservePost
    | with_reducible apply touches_freezeWindow | with_reducible apply touches_wrPairs
    | with_reducible refine Touches.foldl _ _ ?_ (fun _ _ _ => ?_) | split | fail_if_no_progress extract_lets
    | dsimp +zetaDelta only | refine List.forall_mem_cons.2 ⟨?_, ?_⟩ | exact List.forall_mem_nil _
    | exact sub hp (by decide) | exact hp _ (by decide)

theorem touches_returnSegments {ps : List Part} {r s0 : State} (h : Touches ps r s0)
    (hp : ∀ p ∈ ([.bbl] : List Part), p.within ps = true) : Touches ps r (returnSegments s0) := by
  unfold returnSegments
  repeat' first
    | with_reducible assumption | with_reducible apply touches_setBbl | with_reducible apply touches_wrPairs
    | with_reducible refine Touches.foldl _ _ ?_ (fun _ _ _ => ?_) | split | fail_if_no_progress extract_lets
    | dsimp +zetaDelta only | refine List.forall_mem_cons.2 ⟨?_, ?_⟩ | exact List.forall_mem_nil _
    | exact sub hp (by decide) | exact hp _ (by decide)

theorem touches_writerMoves {ps : List Part} {r s0 : State} (h : Touches ps r s0)
    (hp : ∀ p ∈ ([.bbl] : List Part), p.within ps = true) : Touches ps r (writerMoves s0) := by
  unfold writerMoves
  repeat' first
    | with_reducible assumption | with_reducible apply touches_setBbl | with_reducible apply touches_wrPairs
    | with_reducible refine Touches.foldl _ _ ?_ (fun _ _ _ => ?_) | split | fail_if_no_progress extract_lets
    | dsimp +zetaDelta only | refine List.forall_mem_cons.2 ⟨?_, ?_⟩ | exact List.forall_mem_nil _
    | exact sub hp (by decide) | exact hp _ (by decide)

theorem touches_segmentEnds {ps : List Part} {r s0 : State} (h : Touches ps r s0)
    (hp : ∀ p ∈ ([.bbl] : List Part), p.within ps = true) : Touches ps r (segmentEnds s0) := by
  unfold segmentEnds
  repeat' first
    | with_reducible assumption | with_reducible apply touches_setBbl | with_reducible apply touches_wrPairs
    | with_reducible refine Touches.foldl _ _ ?_ (fun _ _ _ => ?_) | split | fail_if_no_progress extract_lets
    | dsimp +zetaDelta only | refine List.forall_mem_cons.2 ⟨?_, ?_⟩ | exact List.forall_mem_nil _
    | exact sub hp (by decide) | exact hp _ (by decide)

theorem touches_showVmax {ps : List Part} {r s0 : State} (h : Touches ps r s0)
    (hp : ∀ p ∈ ([.obj 0x0205] : List Part), p.within ps = true) : Touches ps r (showVmax s0) := by
  unfold showVmax
  repeat' first
    | with_reducible assumption | with_reducible apply touches_wr | with_reducible apply touches_wrPairs
    | with_reducible refine Touches.foldl _ _ ?_ (fun _ _ _ => ?_) | split | fail_if_no_progress extract_lets
    | dsimp +zetaDelta only | refine List.forall_mem_cons.2 ⟨?_, ?_⟩ | exact List.forall_mem_nil _
    | exact sub hp (by decide) | exact hp _ (by decide) | exact ⟨by decide, hp _ (by decide)⟩

theorem touches_windowConfig {ps : List Part} {r s0 : State} (h : Touches ps r s0)
    (hp : ∀ p ∈ ([.live, .obj 0x0205] : List Part), p.within ps = true) : Touches ps r (windowConfig s0) := by
  unfold windowConfig
  repeat' first
    | with_reducible assumption | with_reducible apply touches_showVmax | with_reducible apply touches_latch
    | with_reducible apply touches_wrFields | with_reducible apply touches_wrPairs
    | with_reducible refine Touches.foldl _ _ ?_ (fun _ _ _ => ?_) | split | fail_if_no_progress extract_lets
    | dsimp +zetaDelta only | refine List.forall_mem_cons.2 ⟨?_, ?_⟩ | exact List.forall_mem_nil _
    | exact sub hp (by decide) | exact hp _ (by decide)

theorem touches_fireOneShot {ps : List Part} {r s0 : State} (h : Touches ps r s0) (a0 : Nat)
    (hp : ∀ p ∈ ([.bbl] : List Part), p.within ps = true) : Touches ps r (fireOneShot s0 a0) := by
  unfold fireOneShot
  repeat' first
    | with_reducible assumption | with_reducible apply touches_setBbl | with_reducible apply touches_wrPairs
    | with_reducible refine Touches.foldl _ _ ?_ (fun _ _ _ => ?_) | split | fail_if_no_progress extract_lets
    | dsimp +zetaDelta only | refine List.forall_mem_cons.2 ⟨?_, ?_⟩ | exact List.forall_mem_nil _
    | exact sub hp (by decide) | exact hp _ (by decide)

theorem touches_wakeRequest {ps : List Part} {r s0 : State} (h : Touches ps r s0)
    (hp : ∀ p ∈ ([.bbl, .pwr, .obj 0x0A04, .obj 0x1011] : List Part), p.within ps = true) : Touches ps r (wakeRequest s0) := by
  unfold wakeRequest
  repeat' first
    | with_reducible assumption | with_reducible apply touches_wakeSetUp | with_reducible apply touches_setBbl
    | with_reducible apply touches_wrPairs | with_reducible refine Touches.foldl _ _ ?_ (fun _ _ _ => ?_)
    | split | fail_if_no_progress extract_lets | dsimp +zetaDelta only | refine List.forall_mem_cons.2 ⟨?_, ?_⟩
    | exact List.forall_mem_nil _ | exact sub hp (by decide) | exact hp _ (by decide)

theorem touches_vigilCrossing {ps : List Part} {r s0 : State} (h : Touches ps r s0) (a0 : Nat) (a1 : Bool)
    (hp : ∀ p ∈ ([.bbl, .evt, .pwr, .obj 0x0205, .obj 0x0509, .obj 0x0A04, .obj 0x1011] : List Part), p.within ps = true) : Touches ps r (vigilCrossing s0 a0 a1) := by
  unfold vigilCrossing
  repeat' first
    | with_reducible assumption | with_reducible apply touches_setWindow
    | with_reducible apply touches_takeWindow | with_reducible apply touches_wakeRequest
    | with_reducible apply touches_bumpSat | with_reducible apply touches_wrPairs
    | with_reducible refine Touches.foldl _ _ ?_ (fun _ _ _ => ?_) | split | fail_if_no_progress extract_lets
    | with_reducible apply touches_part_evt | dsimp +zetaDelta only | refine List.forall_mem_cons.2 ⟨?_, ?_⟩
    | exact List.forall_mem_nil _ | exact sub hp (by decide) | exact hp _ (by decide)
    | exact ⟨by decide, hp _ (by decide)⟩

theorem touches_showWindow {ps : List Part} {r s0 : State} (h : Touches ps r s0) (a0 : Window)
    (hp : ∀ p ∈ ([.obj 0x0207] : List Part), p.within ps = true) : Touches ps r (showWindow s0 a0) := by
  unfold showWindow
  repeat' first
    | with_reducible assumption | with_reducible apply touches_wr | with_reducible apply touches_wrPairs
    | with_reducible refine Touches.foldl _ _ ?_ (fun _ _ _ => ?_) | split | fail_if_no_progress extract_lets
    | dsimp +zetaDelta only | refine List.forall_mem_cons.2 ⟨?_, ?_⟩ | exact List.forall_mem_nil _
    | exact sub hp (by decide) | exact hp _ (by decide) | exact ⟨by decide, hp _ (by decide)⟩

theorem touches_hotEnter {ps : List Part} {r s0 : State} (h : Touches ps r s0)
    (hp : ∀ p ∈ ([.bbl, .flt, .notes, .pwr, .obj 0x0205, .obj 0x0A04, .obj 0x0C06, .obj 0x1011] : List Part), p.within ps = true) : Touches ps r (hotEnter s0) := by
  unfold hotEnter
  repeat' first
    | with_reducible assumption | with_reducible refine touches_raise_plain ?_ (by decide) _ _ _ ?_
    | with_reducible refine touches_raiseDetail_plain ?_ (by decide) _ _ _ _ ?_
    | with_reducible refine touches_raise_plain ?_ (by split <;> decide) _ _ _ ?_
    | with_reducible apply touches_wakeRequest | with_reducible apply touches_wr
    | with_reducible apply touches_wrPairs | with_reducible refine Touches.foldl _ _ ?_ (fun _ _ _ => ?_)
    | split | fail_if_no_progress extract_lets | dsimp +zetaDelta only | refine List.forall_mem_cons.2 ⟨?_, ?_⟩
    | exact List.forall_mem_nil _ | exact sub hp (by decide) | exact hp _ (by decide)
    | exact ⟨by decide, hp _ (by decide)⟩

theorem touches_hotExit {ps : List Part} {r s0 : State} (h : Touches ps r s0)
    (hp : ∀ p ∈ ([.flt, .obj 0x0205] : List Part), p.within ps = true) : Touches ps r (hotExit s0) := by
  unfold hotExit
  repeat' first
    | with_reducible assumption | with_reducible apply touches_endFault | with_reducible apply touches_wr
    | with_reducible apply touches_wrPairs | with_reducible refine Touches.foldl _ _ ?_ (fun _ _ _ => ?_)
    | split | fail_if_no_progress extract_lets | dsimp +zetaDelta only | refine List.forall_mem_cons.2 ⟨?_, ?_⟩
    | exact List.forall_mem_nil _ | exact sub hp (by decide) | exact hp _ (by decide)
    | exact ⟨by decide, hp _ (by decide)⟩

theorem touches_tooHot {ps : List Part} {r s0 : State} (h : Touches ps r s0)
    (hp : ∀ p ∈ ([.aon, .flt, .modes, .notes, .pwr, .obj 0x0A04, .obj 0x0C06, .obj 0x1011] : List Part), p.within ps = true) : Touches ps r (tooHot s0) := by
  unfold tooHot
  repeat' first
    | with_reducible assumption | with_reducible refine touches_raise_plain ?_ (by decide) _ _ _ ?_
    | with_reducible refine touches_raiseDetail_plain ?_ (by decide) _ _ _ _ ?_
    | with_reducible refine touches_raise_plain ?_ (by split <;> decide) _ _ _ ?_
    | with_reducible apply touches_pairUp | with_reducible apply touches_requestMode
    | with_reducible apply touches_wrPairs | with_reducible refine Touches.foldl _ _ ?_ (fun _ _ _ => ?_)
    | split | fail_if_no_progress extract_lets | dsimp +zetaDelta only | refine List.forall_mem_cons.2 ⟨?_, ?_⟩
    | exact List.forall_mem_nil _ | exact sub hp (by decide) | exact hp _ (by decide)

theorem touches_tjVigil {ps : List Part} {r s0 : State} (h : Touches ps r s0)
    (hp : ∀ p ∈ ([.aon, .bbl, .flt, .modes, .notes, .pwr, .obj 0x0205, .obj 0x0A04, .obj 0x0C06, .obj 0x1011] : List Part), p.within ps = true) : Touches ps r (tjVigil s0) := by
  unfold tjVigil
  repeat' first
    | with_reducible assumption | with_reducible apply touches_hotExit | with_reducible apply touches_hotEnter
    | with_reducible apply touches_tooHot | with_reducible apply touches_wrPairs
    | with_reducible refine Touches.foldl _ _ ?_ (fun _ _ _ => ?_) | split | fail_if_no_progress extract_lets
    | dsimp +zetaDelta only | refine List.forall_mem_cons.2 ⟨?_, ?_⟩ | exact List.forall_mem_nil _
    | exact sub hp (by decide) | exact hp _ (by decide)

theorem touches_bblStart {ps : List Part} {r s0 : State} (h : Touches ps r s0)
    (hp : ∀ p ∈ ([.bbl, .live, .obj 0x0205, .obj 0x0509] : List Part), p.within ps = true) : Touches ps r (bblStart s0) := by
  unfold bblStart
  repeat' first
    | with_reducible assumption | with_reducible apply touches_setBbl | with_reducible apply touches_showVmax
    | with_reducible apply touches_showBbl | with_reducible apply touches_latch
    | with_reducible apply touches_wrFields | with_reducible apply touches_wrPairs
    | with_reducible refine Touches.foldl _ _ ?_ (fun _ _ _ => ?_) | split | fail_if_no_progress extract_lets
    | dsimp +zetaDelta only | refine List.forall_mem_cons.2 ⟨?_, ?_⟩ | exact List.forall_mem_nil _
    | exact sub hp (by decide) | exact hp _ (by decide)

end Sys2Proof
end

