-- ==== Sys2Proof/Laws/Directory.lean ====
section
/-! SUPPORT. What each operation of `Machine/Directory.lean` may change. -/

namespace Sys2Proof

open Sys2Proof.Machine

/-- The mode that is shown cannot be written through its object. -/
theorem writable_plain {id : Nat} {o : ObjDesc} (h : objOf id = some o) :
    ∀ f ∈ o.fields, f.kind = .rw ∨ f.kind = .w1c → plainField f = true := by
  have k : Obj.all.all (fun o => o.fields.all
      (fun f => !(decide (f.kind = .rw) || decide (f.kind = .w1c)) || plainField f)) = true := rfl
  intro f hf hk
  have m := List.all_eq_true.1 (List.all_eq_true.1 k o (List.mem_of_find?_eq_some h)) f hf
  obtain hk | hk := hk <;> simpa [hk] using m

theorem touches_writeRw {ps : List Part} {r s0 : State} (h : Touches ps r s0) (a0 : List Field) (a1 a2 a3 : Nat)
    (hp : ∀ p ∈ ([.regs] : List Part), p.within ps = true) (ha : ∀ f ∈ a0, f.kind = .rw → plainField f = true) :
    Touches ps r (writeRw s0 a0 a1 a2 a3) := by
  refine Touches.foldlMem _ _ h (fun t f hf ht => ?_)
  split
  · next k =>
    exact touches_wr_any ht _ _ _ (ha f hf (of_decide_eq_true (Bool.and_eq_true_iff.1 k).1))
      (hp _ (by decide))
  · exact ht

theorem touches_clearW1c {ps : List Part} {r s0 : State} (h : Touches ps r s0) (a0 : List Field) (a1 a2 a3 : Nat)
    (hp : ∀ p ∈ ([.regs] : List Part), p.within ps = true) (ha : ∀ f ∈ a0, f.kind = .w1c → plainField f = true) :
    Touches ps r (clearW1c s0 a0 a1 a2 a3) := by
  refine Touches.foldlMem _ _ h (fun t f hf ht => ?_)
  split
  · next k =>
    exact touches_wr_any ht _ _ _ (ha f hf (of_decide_eq_true (Bool.and_eq_true_iff.1 k).1))
      (hp _ (by decide))
  · exact ht

end Sys2Proof
end

