-- ==== Sys2Proof/Laws/Mem.lean ====
section
/-! SUPPORT. What each operation of `Machine/Mem.lean` may change. -/

namespace Sys2Proof

open Sys2Proof.Machine

theorem touches_markWords {ps : List Part} {r s0 : State} (h : Touches ps r s0) (a0 : Nat) (a1 : Nat) (a2 : Bool)
    (hp : ∀ p ∈ ([.fst] : List Part), p.within ps = true) : Touches ps r (markWords s0 a0 a1 a2) := by
  unfold markWords
  repeat' first
    | with_reducible assumption | with_reducible apply touches_wrPairs
    | with_reducible refine Touches.foldl _ _ ?_ (fun _ _ _ => ?_) | split | fail_if_no_progress extract_lets
    | with_reducible apply touches_part_fst | dsimp +zetaDelta only | refine List.forall_mem_cons.2 ⟨?_, ?_⟩
    | exact List.forall_mem_nil _ | exact sub hp (by decide) | exact hp _ (by decide)

theorem touches_bankMended {ps : List Part} {r s0 : State} (h : Touches ps r s0) (a0 : Nat)
    (hp : ∀ p ∈ ([.flt] : List Part), p.within ps = true) : Touches ps r (bankMended s0 a0) := by
  unfold bankMended
  repeat' first
    | with_reducible assumption | with_reducible apply touches_endFault | with_reducible apply touches_wrPairs
    | with_reducible refine Touches.foldl _ _ ?_ (fun _ _ _ => ?_) | split

theorem touches_storeWords {ps : List Part} {r s0 : State} (h : Touches ps r s0) (a0 : Nat) (a1 : Bytes) (a2 : Bool)
    (hp : ∀ p ∈ ([.flt, .fst, .mem] : List Part), p.within ps = true) : Touches ps r (storeWords s0 a0 a1 a2) := by
  unfold storeWords
  repeat' first
    | with_reducible assumption | with_reducible apply touches_bankMended
    | with_reducible apply touches_markWords | with_reducible apply touches_storeBytes
    | with_reducible apply touches_wrPairs | with_reducible refine Touches.foldl _ _ ?_ (fun _ _ _ => ?_)
    | split | fail_if_no_progress extract_lets | dsimp +zetaDelta only | refine List.forall_mem_cons.2 ⟨?_, ?_⟩
    | exact List.forall_mem_nil _ | exact sub hp (by decide) | exact hp _ (by decide)

end Sys2Proof
end

