-- ==== Sys2Proof/Laws/MovOps.lean ====
section
/-! SUPPORT. What each operation of `Machine/MovOps.lean` may change. -/

namespace Sys2Proof

open Sys2Proof.Machine

theorem touches_ringBit {ps : List Part} {r s0 : State} (h : Touches ps r s0) (a0 : Nat) (a1 : Field) (hfa1 : plainField a1 = true ∧ (Part.obj a1.obj).within ps = true)
    (hp : ∀ p ∈ ([.out, .obj 0x0C03] : List Part), p.within ps = true) : Touches ps r (ringBit s0 a0 a1) := by
  unfold ringBit
  repeat' first
    | with_reducible assumption | with_reducible apply touches_emit | with_reducible apply touches_wr
    | with_reducible apply touches_wrPairs | with_reducible refine Touches.foldl _ _ ?_ (fun _ _ _ => ?_)
    | split | fail_if_no_progress extract_lets | dsimp +zetaDelta only | refine List.forall_mem_cons.2 ⟨?_, ?_⟩
    | exact List.forall_mem_nil _ | exact sub hp (by decide) | exact hp _ (by decide)

theorem touches_ringErrorSet {ps : List Part} {r s0 : State} (h : Touches ps r s0) (a0 : Nat)
    (hp : ∀ p ∈ ([.flt, .notes, .out, .obj 0x0C03, .obj 0x0C04, .obj 0x0C06] : List Part), p.within ps = true) : Touches ps r (ringErrorSet s0 a0) := by
  unfold ringErrorSet
  repeat' first
    | with_reducible assumption | with_reducible refine touches_raise_plain ?_ (by decide) _ _ _ ?_
    | with_reducible refine touches_raiseDetail_plain ?_ (by decide) _ _ _ _ ?_
    | with_reducible refine touches_raise_plain ?_ (by split <;> decide) _ _ _ ?_
    | with_reducible apply touches_ringBit | with_reducible apply touches_wrPairs
    | with_reducible refine Touches.foldl _ _ ?_ (fun _ _ _ => ?_) | split | fail_if_no_progress extract_lets
    | dsimp +zetaDelta only | refine List.forall_mem_cons.2 ⟨?_, ?_⟩ | exact List.forall_mem_nil _
    | exact sub hp (by decide) | exact hp _ (by decide) | exact ⟨by decide, hp _ (by decide)⟩

theorem touches_complete {ps : List Part} {r s0 : State} (h : Touches ps r s0) (a0 : Nat) (a1 : Nat) (a2 : Nat) (a3 : Nat)
    (hp : ∀ p ∈ ([.mov, .out, .obj 0x0C03, .obj 0x0C04] : List Part), p.within ps = true) : Touches ps r (complete s0 a0 a1 a2 a3) := by
  unfold complete
  repeat' first
    | with_reducible assumption | with_reducible apply touches_emit | with_reducible apply touches_setRing
    | with_reducible apply touches_wr | with_reducible apply touches_ringBit
    | with_reducible apply touches_wrPairs | with_reducible refine Touches.foldl _ _ ?_ (fun _ _ _ => ?_)
    | split | fail_if_no_progress extract_lets | dsimp +zetaDelta only | refine List.forall_mem_cons.2 ⟨?_, ?_⟩
    | exact List.forall_mem_nil _ | exact sub hp (by decide) | exact hp _ (by decide)
    | exact ⟨by decide, hp _ (by decide)⟩

theorem touches_closeBuffer {ps : List Part} {r s0 : State} (h : Touches ps r s0) (a0 : Nat)
    (hp : ∀ p ∈ ([.mov, .out, .obj 0x0C03, .obj 0x0C04] : List Part), p.within ps = true) : Touches ps r (closeBuffer s0 a0) := by
  unfold closeBuffer
  repeat' first
    | with_reducible assumption | with_reducible apply touches_setRing | with_reducible apply touches_complete
    | with_reducible apply touches_wrPairs | with_reducible refine Touches.foldl _ _ ?_ (fun _ _ _ => ?_)
    | split | fail_if_no_progress extract_lets | dsimp +zetaDelta only | refine List.forall_mem_cons.2 ⟨?_, ?_⟩
    | exact List.forall_mem_nil _ | exact sub hp (by decide) | exact hp _ (by decide)

theorem touches_writePiece {ps : List Part} {r s0 : State} (h : Touches ps r s0) (a0 : Nat) (a1 : Descriptor) (a2 : Nat) (a3 : Bytes) (a4 : Bool) (a5 : Bool) (a6 : Bool)
    (hp : ∀ p ∈ ([.mov, .out] : List Part), p.within ps = true) : Touches ps r (writePiece s0 a0 a1 a2 a3 a4 a5 a6) := by
  unfold writePiece
  repeat' first
    | with_reducible assumption | with_reducible apply touches_emit | with_reducible apply touches_setRing
    | with_reducible apply touches_wrPairs | with_reducible refine Touches.foldl _ _ ?_ (fun _ _ _ => ?_)
    | split | fail_if_no_progress extract_lets | dsimp +zetaDelta only | refine List.forall_mem_cons.2 ⟨?_, ?_⟩
    | exact List.forall_mem_nil _ | exact sub hp (by decide) | exact hp _ (by decide)

theorem touches_writeRecord {ps : List Part} {r s0 : State} (h : Touches ps r s0) (a0 : Nat) (a1 : Nat) (a2 : DmaRecord) (a3 : Nat)
    (hp : ∀ p ∈ ([.mov, .out, .obj 0x0C03, .obj 0x0C04] : List Part), p.within ps = true) : Touches ps r (writeRecord a0 s0 a1 a2 a3).1 := by
  induction a0 generalizing s0 a1 a2 a3 with
  | zero =>
    unfold writeRecord
    repeat' first
      | with_reducible assumption
  | succ fuel ih =>
    unfold writeRecord
    repeat' first
      | with_reducible assumption | apply ih | with_reducible apply touches_closeBuffer
      | with_reducible apply touches_writePiece | with_reducible apply touches_wrPairs
      | with_reducible refine Touches.foldl _ _ ?_ (fun _ _ _ => ?_)
      | with_reducible refine Touches.foldlFst _ _ ?_ (fun _ _ _ => ?_) | split
      | fail_if_no_progress extract_lets | dsimp +zetaDelta only | refine List.forall_mem_cons.2 ⟨?_, ?_⟩
      | exact List.forall_mem_nil _ | exact sub hp (by decide) | exact hp _ (by decide)

theorem touches_ringPut {ps : List Part} {r s0 : State} (h : Touches ps r s0) (a0 : Nat) (a1 : DmaRecord)
    (hp : ∀ p ∈ ([.mov, .pwr, .obj 0x1106] : List Part), p.within ps = true) : Touches ps r (ringPut s0 a0 a1) := by
  unfold ringPut
  repeat' first
    | with_reducible assumption | with_reducible apply touches_setRing
    | with_reducible apply touches_clockStarts | with_reducible apply touches_wrPairs
    | with_reducible refine Touches.foldl _ _ ?_ (fun _ _ _ => ?_) | split | fail_if_no_progress extract_lets
    | dsimp +zetaDelta only | refine List.forall_mem_cons.2 ⟨?_, ?_⟩ | exact List.forall_mem_nil _
    | exact sub hp (by decide) | exact hp _ (by decide)

theorem touches_ringSend {ps : List Part} {r s0 : State} (h : Touches ps r s0) (a0 : Nat) (a1 : Bytes)
    (hp : ∀ p ∈ ([.mov, .pwr, .obj 0x1106] : List Part), p.within ps = true) : Touches ps r (ringSend s0 a0 a1) := by
  unfold ringSend
  repeat' first
    | with_reducible assumption | with_reducible apply touches_ringPut

theorem touches_ringHalt {ps : List Part} {r s0 : State} (h : Touches ps r s0) (a0 : Nat)
    (hp : ∀ p ∈ ([.mov, .out, .obj 0x0C03, .obj 0x0C04] : List Part), p.within ps = true) : Touches ps r (ringHalt s0 a0) := by
  unfold ringHalt
  repeat' first
    | with_reducible assumption | with_reducible apply touches_setRing | with_reducible apply touches_wr
    | with_reducible apply touches_closeBuffer | with_reducible apply touches_wrPairs
    | with_reducible refine Touches.foldl _ _ ?_ (fun _ _ _ => ?_) | split | fail_if_no_progress extract_lets
    | dsimp +zetaDelta only | refine List.forall_mem_cons.2 ⟨?_, ?_⟩ | exact List.forall_mem_nil _
    | exact sub hp (by decide) | exact hp _ (by decide) | exact ⟨by decide, hp _ (by decide)⟩

theorem touches_ringSettled {ps : List Part} {r s0 : State} (h : Touches ps r s0) (a0 : Nat)
    (hp : ∀ p ∈ ([.mov, .out, .obj 0x0C03, .obj 0x0C04] : List Part), p.within ps = true) : Touches ps r (ringSettled s0 a0) := by
  unfold ringSettled
  repeat' first
    | with_reducible assumption | with_reducible apply touches_ringHalt | with_reducible apply touches_wrPairs
    | with_reducible refine Touches.foldl _ _ ?_ (fun _ _ _ => ?_) | split

theorem touches_h2dRun {ps : List Part} {r s0 : State} (h : Touches ps r s0) (a0 : Nat) (a1 : Nat) (a2 : Nat)
    (hp : ∀ p ∈ ([.mov, .out, .obj 0x0C03, .obj 0x0C04] : List Part), p.within ps = true) : Touches ps r (h2dRun a0 s0 a1 a2) := by
  induction a0 generalizing s0 a1 a2 with
  | zero =>
    unfold h2dRun
    repeat' first
      | with_reducible assumption
  | succ fuel ih =>
    unfold h2dRun
    repeat' first
      | with_reducible assumption | apply ih | with_reducible apply touches_setRing
      | with_reducible apply touches_complete | with_reducible apply touches_wrPairs
      | with_reducible refine Touches.foldl _ _ ?_ (fun _ _ _ => ?_) | split | fail_if_no_progress extract_lets
      | dsimp +zetaDelta only | refine List.forall_mem_cons.2 ⟨?_, ?_⟩ | exact List.forall_mem_nil _
      | exact sub hp (by decide) | exact hp _ (by decide)

theorem touches_h2dTake {ps : List Part} {r s0 : State} (h : Touches ps r s0) (a0 : Nat) (a1 : Nat)
    (hp : ∀ p ∈ ([.mov, .out, .obj 0x0C03, .obj 0x0C04] : List Part), p.within ps = true) : Touches ps r (h2dTake s0 a0 a1) := by
  unfold h2dTake
  repeat' first
    | with_reducible assumption | with_reducible apply touches_h2dRun | with_reducible apply touches_ringSettled
    | with_reducible apply touches_wrPairs | with_reducible refine Touches.foldl _ _ ?_ (fun _ _ _ => ?_)
    | split | fail_if_no_progress extract_lets

theorem touches_ringError {ps : List Part} {r s0 : State} (h : Touches ps r s0) (a0 : Nat)
    (hp : ∀ p ∈ ([.flt, .mov, .notes, .out, .obj 0x0C03, .obj 0x0C04, .obj 0x0C06] : List Part), p.within ps = true) : Touches ps r (ringError s0 a0) := by
  unfold ringError
  repeat' first
    | with_reducible assumption | with_reducible apply touches_ringSettled
    | with_reducible apply touches_ringErrorSet | with_reducible apply touches_wrPairs
    | with_reducible refine Touches.foldl _ _ ?_ (fun _ _ _ => ?_) | split | fail_if_no_progress extract_lets
    | dsimp +zetaDelta only | refine List.forall_mem_cons.2 ⟨?_, ?_⟩ | exact List.forall_mem_nil _
    | exact sub hp (by decide) | exact hp _ (by decide)

theorem touches_movError {ps : List Part} {r s0 : State} (h : Touches ps r s0) {a0 : Nat} (hs : severityOf a0 ≠ 3)
    (a1 a2 a3 : Nat) (hp : ∀ p ∈ ([.flt, .notes, .obj 0x0C06, .obj 0x0C07] : List Part), p.within ps = true) : Touches ps r (movError s0 a0 a1 a2 a3) := by
  have hk : ∀ f ∈ [Obj.MOV_ERR.ADDR, Obj.MOV_ERR.MASTER, Obj.MOV_ERR.CAUSE, Obj.MOV_ERR.TIME, Obj.MOV_ERR.VALID,
      Obj.MOV_ERR.COUNT], plainField f = true ∧ f.obj = 0x0C07 := by decide
  have w : ∀ {t : State}, Touches ps r t → ∀ f ∈ [Obj.MOV_ERR.ADDR, Obj.MOV_ERR.MASTER, Obj.MOV_ERR.CAUSE,
      Obj.MOV_ERR.TIME, Obj.MOV_ERR.VALID, Obj.MOV_ERR.COUNT], ∀ v, Touches ps r (wr t f 0 v) := fun ht f hf v =>
    touches_wr ht _ _ _ ⟨(hk f hf).1, by rw [(hk f hf).2]; exact hp _ (by decide)⟩
  refine touches_raise_plain (w ?_ Obj.MOV_ERR.COUNT (by decide) _) hs _ _ _ (sub hp (by decide))
  split
  · exact h
  · exact w (w (w (w (w h _ (by decide) _) _ (by decide) _) _ (by decide) _) _ (by decide) _) _ (by decide) _

theorem touches_ringStop {ps : List Part} {r s0 : State} (h : Touches ps r s0) (a0 : Nat)
    (hp : ∀ p ∈ ([.mov, .out, .obj 0x0C03, .obj 0x0C04] : List Part), p.within ps = true) : Touches ps r (ringStop s0 a0) := by
  unfold ringStop
  repeat' first
    | with_reducible assumption | with_reducible apply touches_setRing | with_reducible apply touches_ringHalt
    | with_reducible apply touches_wrPairs | with_reducible refine Touches.foldl _ _ ?_ (fun _ _ _ => ?_)
    | split | fail_if_no_progress extract_lets | dsimp +zetaDelta only | refine List.forall_mem_cons.2 ⟨?_, ?_⟩
    | exact List.forall_mem_nil _ | exact sub hp (by decide) | exact hp _ (by decide)

theorem touches_ringStart {ps : List Part} {r s0 : State} (h : Touches ps r s0) (a0 : Nat) (a1 : Nat)
    (hp : ∀ p ∈ ([.flt, .mov, .obj 0x0C03, .obj 0x0C04] : List Part), p.within ps = true) : Touches ps r (ringStart s0 a0 a1) := by
  unfold ringStart
  repeat' first
    | with_reducible assumption | with_reducible apply touches_wr | with_reducible apply touches_endFault
    | with_reducible apply touches_setRing | with_reducible apply touches_wrPairs
    | with_reducible refine Touches.foldl _ _ ?_ (fun _ _ _ => ?_) | split | fail_if_no_progress extract_lets
    | dsimp +zetaDelta only | refine List.forall_mem_cons.2 ⟨?_, ?_⟩ | exact List.forall_mem_nil _
    | exact sub hp (by decide) | exact hp _ (by decide) | exact ⟨by decide, hp _ (by decide)⟩

end Sys2Proof
end

