-- ==== Sys2Proof/Laws/Net.lean ====
section
/-! SUPPORT. What each operation of `Machine/Net.lean` may change. -/

namespace Sys2Proof

open Sys2Proof.Machine

theorem touches_sendSegment {ps : List Part} {r s0 : State} (h : Touches ps r s0) (a0 : Nat) (a1 : Nat) (a2 : Nat) (a3 : Nat) (a4 : Bool) (a5 : Nat) (a6 : Bytes)
    (hp : ∀ p ∈ ([.net, .out, .obj 0x0F04] : List Part), p.within ps = true) : Touches ps r (sendSegment s0 a0 a1 a2 a3 a4 a5 a6) := by
  unfold sendSegment
  repeat' first
    | with_reducible assumption | with_reducible apply touches_emit | with_reducible apply touches_bump
    | with_reducible apply touches_wrPairs | with_reducible refine Touches.foldl _ _ ?_ (fun _ _ _ => ?_)
    | split | fail_if_no_progress extract_lets | with_reducible apply touches_part_net | dsimp +zetaDelta only
    | refine List.forall_mem_cons.2 ⟨?_, ?_⟩ | exact List.forall_mem_nil _ | exact sub hp (by decide)
    | exact hp _ (by decide) | exact ⟨by decide, hp _ (by decide)⟩

theorem touches_sendSegments {ps : List Part} {r s0 : State} (h : Touches ps r s0) (a0 : Nat) (a1 : Nat) (a2 : Nat) (a3 : Nat) (a4 : Nat) (a5 : Nat) (a6 : Nat) (a7 : Bytes)
    (hp : ∀ p ∈ ([.net, .out, .obj 0x0F04] : List Part), p.within ps = true) : Touches ps r (sendSegments a0 s0 a1 a2 a3 a4 a5 a6 a7) := by
  induction a0 generalizing s0 a1 a2 a3 a4 a5 a6 a7 with
  | zero =>
    unfold sendSegments
    repeat' first
      | with_reducible assumption
  | succ fuel ih =>
    unfold sendSegments
    repeat' first
      | with_reducible assumption | apply ih | with_reducible apply touches_sendSegment
      | with_reducible apply touches_wrPairs | with_reducible refine Touches.foldl _ _ ?_ (fun _ _ _ => ?_)
      | split | fail_if_no_progress extract_lets

theorem touches_sendRecord {ps : List Part} {r s0 : State} (h : Touches ps r s0) (a0 : Nat) (a1 : Nat) (a2 : Nat) (a3 : Bytes)
    (hp : ∀ p ∈ ([.net, .out, .obj 0x0F04] : List Part), p.within ps = true) : Touches ps r (sendRecord s0 a0 a1 a2 a3) := by
  unfold sendRecord
  repeat' first
    | with_reducible assumption | with_reducible apply touches_sendSegments
    | with_reducible apply touches_wrPairs | with_reducible refine Touches.foldl _ _ ?_ (fun _ _ _ => ?_)
    | split | fail_if_no_progress extract_lets | with_reducible apply touches_part_net | dsimp +zetaDelta only
    | refine List.forall_mem_cons.2 ⟨?_, ?_⟩ | exact List.forall_mem_nil _ | exact sub hp (by decide)
    | exact hp _ (by decide)

theorem touches_netDemand {ps : List Part} {r s0 : State} (h : Touches ps r s0) (a0 : Nat)
    (hp : ∀ p ∈ ([.pwr, .obj 0x0A04, .obj 0x1011] : List Part), p.within ps = true) : Touches ps r (netDemand s0 a0) := by
  unfold netDemand
  repeat' first
    | with_reducible assumption | with_reducible apply touches_domsUp | with_reducible apply touches_wrPairs
    | with_reducible refine Touches.foldl _ _ ?_ (fun _ _ _ => ?_) | split

theorem touches_netRest {ps : List Part} {r s0 : State} (h : Touches ps r s0) (a0 : Nat)
    (hp : ∀ p ∈ ([.pwr, .obj 0x0A04, .obj 0x0F04] : List Part), p.within ps = true) : Touches ps r (netRest s0 a0) := by
  unfold netRest
  repeat' first
    | with_reducible assumption | with_reducible apply touches_demandDown | with_reducible apply touches_wr
    | with_reducible apply touches_wrPairs | with_reducible refine Touches.foldl _ _ ?_ (fun _ _ _ => ?_)
    | split | fail_if_no_progress extract_lets | dsimp +zetaDelta only | refine List.forall_mem_cons.2 ⟨?_, ?_⟩
    | exact List.forall_mem_nil _ | exact sub hp (by decide) | exact hp _ (by decide)
    | exact ⟨by decide, hp _ (by decide)⟩

theorem touches_releaseOne {ps : List Part} {r s0 : State} (h : Touches ps r s0) (a0 : Nat) (a1 : Nat)
    (hp : ∀ p ∈ ([.flt, .net, .notes, .out, .obj 0x0C06, .obj 0x0F04] : List Part), p.within ps = true) : Touches ps r (releaseOne s0 a0 a1) := by
  unfold releaseOne
  repeat' first
    | with_reducible assumption | with_reducible refine touches_raise_plain ?_ (by decide) _ _ _ ?_
    | with_reducible refine touches_raiseDetail_plain ?_ (by decide) _ _ _ _ ?_
    | with_reducible refine touches_raise_plain ?_ (by split <;> decide) _ _ _ ?_
    | with_reducible apply touches_bump | with_reducible apply touches_emit
    | with_reducible apply touches_setPort | with_reducible apply touches_wrPairs
    | with_reducible refine Touches.foldl _ _ ?_ (fun _ _ _ => ?_) | split | fail_if_no_progress extract_lets
    | dsimp +zetaDelta only | refine List.forall_mem_cons.2 ⟨?_, ?_⟩ | exact List.forall_mem_nil _
    | exact sub hp (by decide) | exact hp _ (by decide) | exact ⟨by decide, hp _ (by decide)⟩

theorem touches_receiveFrame {ps : List Part} {r s0 : State} (h : Touches ps r s0) (a0 : Nat) (a1 : Bytes)
    (hp : ∀ p ∈ ([.flt, .net, .notes, .obj 0x0C06, .obj 0x0F04] : List Part), p.within ps = true) : Touches ps r (receiveFrame s0 a0 a1) := by
  unfold receiveFrame
  repeat' first
    | with_reducible assumption | with_reducible refine touches_raise_plain ?_ (by decide) _ _ _ ?_
    | with_reducible refine touches_raiseDetail_plain ?_ (by decide) _ _ _ _ ?_
    | with_reducible refine touches_raise_plain ?_ (by split <;> decide) _ _ _ ?_
    | with_reducible apply touches_bump | with_reducible apply touches_setPort
    | with_reducible apply touches_wrPairs | with_reducible refine Touches.foldl _ _ ?_ (fun _ _ _ => ?_)
    | split | fail_if_no_progress extract_lets | dsimp +zetaDelta only | refine List.forall_mem_cons.2 ⟨?_, ?_⟩
    | exact List.forall_mem_nil _ | exact sub hp (by decide) | exact hp _ (by decide)
    | exact ⟨by decide, hp _ (by decide)⟩

end Sys2Proof
end

