-- ==== Sys2Proof/Laws/Evt.lean ====
section
/-! SUPPORT. What each operation of `Machine/Evt.lean` may change. -/

namespace Sys2Proof

open Sys2Proof.Machine

theorem touches_evtLevels {ps : List Part} {r s0 : State} (h : Touches ps r s0)
    (hp : ∀ p ∈ ([.evt, .flt, .notes, .obj 0x0C06] : List Part), p.within ps = true) : Touches ps r (evtLevels s0) := by
  unfold evtLevels
  repeat' first
    | with_reducible assumption | with_reducible refine touches_raise_plain ?_ (by decide) _ _ _ ?_
    | with_reducible refine touches_raiseDetail_plain ?_ (by decide) _ _ _ _ ?_
    | with_reducible refine touches_raise_plain ?_ (by split <;> decide) _ _ _ ?_
    | with_reducible apply touches_setEvt | with_reducible apply touches_lossyShow
    | with_reducible apply touches_wrPairs | with_reducible refine Touches.foldl _ _ ?_ (fun _ _ _ => ?_)
    | split | fail_if_no_progress extract_lets | dsimp +zetaDelta only | refine List.forall_mem_cons.2 ⟨?_, ?_⟩
    | exact List.forall_mem_nil _ | exact sub hp (by decide) | exact hp _ (by decide)

theorem touches_evtTail {ps : List Part} {r s0 : State} (h : Touches ps r s0)
    (hp : ∀ p ∈ ([.evt, .flt, .notes, .obj 0x0C06] : List Part), p.within ps = true) : Touches ps r (evtTail s0) := by
  unfold evtTail
  repeat' first
    | with_reducible assumption | with_reducible apply touches_evtLevels | with_reducible apply touches_setEvt
    | with_reducible apply touches_wrPairs | with_reducible refine Touches.foldl _ _ ?_ (fun _ _ _ => ?_)
    | split | fail_if_no_progress extract_lets | dsimp +zetaDelta only | refine List.forall_mem_cons.2 ⟨?_, ?_⟩
    | exact List.forall_mem_nil _ | exact sub hp (by decide) | exact hp _ (by decide)

theorem touches_makeRoom {ps : List Part} {r s0 : State} (h : Touches ps r s0) (a0 a1 a2 : Nat)
    (hp : ∀ p ∈ ([.evt, .flt, .notes, .obj 0x0604, .obj 0x0C06] : List Part), p.within ps = true) : Touches ps r (makeRoom a0 s0 a1 a2).2 := by
  induction a0 generalizing s0 with
  | zero => exact h
  | succ fuel ih =>
    unfold makeRoom
    split
    · split
      · exact h
      · dsimp only
        split
        · exact h
        · exact h
        · exact ih (touches_setEvt h _ (hp _ (by decide)))
        · exact ih (touches_raise_plain (touches_setEvt (touches_lossyLost (touches_bump (touches_setEvt h _ (hp _ (by decide)))
            _ _ _ ⟨by decide, hp _ (by decide)⟩) _ _ (sub hp (by decide))) _ (hp _ (by decide))) (by decide) _ _ _ (sub hp (by decide)))
    · exact h

theorem touches_takeRecordOf {ps : List Part} {r s0 : State} {a0 : Window} {t : TrigRecord × State}
    (e : takeRecordOf s0 a0 = some t) (h : Touches ps r s0)
    (hp : ∀ p ∈ ([.evt, .trg] : List Part), p.within ps = true) : Touches ps r t.2 := by
  unfold takeRecordOf at e
  split at e
  · obtain ⟨x, -, rfl⟩ := Option.map_eq_some_iff.1 e
    exact touches_part_trg h _ (hp _ (by decide))
  · split at e <;> cases e
    · exact h
    · exact touches_setEvt h _ (hp _ (by decide))

theorem touches_reserveNext {ps : List Part} {r s0 : State} (h : Touches ps r s0)
    (hp : ∀ p ∈ ([.bbl, .evt, .flt, .notes, .trg, .obj 0x0604, .obj 0x0C06] : List Part), p.within ps = true) : Touches ps r (reserveNext s0) := by
  unfold reserveNext
  split
  · exact h
  · split
    · exact h
    · have k := fun a b c => touches_makeRoom h a b c (sub hp (by decide))
      dsimp only
      split
      · next e => exact touches_evtTail (touches_setWindow (touches_setEvt (touches_takeRecordOf e (k _ _ _) (sub hp (by decide)))
          _ (hp _ (by decide))) _ _ (hp _ (by decide))) (sub hp (by decide))
      · exact touches_evtTail (k _ _ _) (sub hp (by decide))

theorem touches_feedCoder {ps : List Part} {r s0 : State} (h : Touches ps r s0)
    (hp : ∀ p ∈ ([.cmp, .evt, .mov, .pwr, .obj 0x1106] : List Part), p.within ps = true) : Touches ps r (feedCoder s0) := by
  unfold feedCoder
  split
  · exact h
  · dsimp only
    split
    · exact h
    · refine touches_clockStarts ?_ _ (sub hp (by decide))
      refine ⟨fun p k => (h.1 p k).trans ?_, h.2⟩
      cases p <;> first | exact rfl | exact absurd ((hp _ (by decide)).symm.trans k) (by decide) | exact fun _ _ => rfl | trivial

theorem touches_shipMessage {ps : List Part} {r s0 : State} (h : Touches ps r s0) (a0 : Fragment) (a1 : Nat) (a2 : Bytes)
    (hp : ∀ p ∈ ([.axl, .out, .peer, .obj 0x0D05] : List Part), p.within ps = true) : Touches ps r (shipMessage s0 a0 a1 a2) := by
  unfold shipMessage
  repeat' first
    | with_reducible assumption | with_reducible apply touches_axPost

theorem touches_netSettled {ps : List Part} {r s0 : State} (h : Touches ps r s0) (a0 : Nat)
    (hp : ∀ p ∈ ([.pwr, .obj 0x0A04, .obj 0x0F04] : List Part), p.within ps = true) : Touches ps r (netSettled s0 a0) := by
  unfold netSettled
  repeat' first
    | with_reducible assumption | with_reducible apply touches_netRest | with_reducible apply touches_wrPairs
    | with_reducible refine Touches.foldl _ _ ?_ (fun _ _ _ => ?_) | split

theorem touches_releaseFrag {ps : List Part} {r s0 : State} (h : Touches ps r s0) (a0 : Nat) (a1 : Field) (hfa1 : plainField a1 = true ∧ (Part.obj a1.obj).within ps = true)
    (hp : ∀ p ∈ ([.evt, .flt, .notes, .obj 0x0C06] : List Part), p.within ps = true) : Touches ps r (releaseFrag s0 a0 a1) := by
  unfold releaseFrag
  repeat' first
    | with_reducible assumption | with_reducible apply touches_evtTail | with_reducible apply touches_bump
    | with_reducible apply touches_setFrag | with_reducible apply touches_wrPairs
    | with_reducible refine Touches.foldl _ _ ?_ (fun _ _ _ => ?_) | split | fail_if_no_progress extract_lets
    | dsimp +zetaDelta only | refine List.forall_mem_cons.2 ⟨?_, ?_⟩ | exact List.forall_mem_nil _
    | exact sub hp (by decide) | exact hp _ (by decide)

theorem touches_transferEnds {ps : List Part} {r s0 : State} (h : Touches ps r s0) (a0 : Nat)
    (hp : ∀ p ∈ ([.evt, .flt, .notes, .obj 0x0604, .obj 0x0C06] : List Part), p.within ps = true) : Touches ps r (transferEnds s0 a0) := by
  unfold transferEnds
  repeat' first
    | with_reducible assumption | with_reducible apply touches_releaseFrag
    | with_reducible apply touches_setFrag | with_reducible apply touches_wrPairs
    | with_reducible refine Touches.foldl _ _ ?_ (fun _ _ _ => ?_) | split | fail_if_no_progress extract_lets
    | dsimp +zetaDelta only | refine List.forall_mem_cons.2 ⟨?_, ?_⟩ | exact List.forall_mem_nil _
    | exact sub hp (by decide) | exact hp _ (by decide) | exact ⟨by decide, hp _ (by decide)⟩

theorem touches_replyCame {ps : List Part} {r s0 : State} (h : Touches ps r s0) (a0 : Nat) (a1 : Nat)
    (hp : ∀ p ∈ ([.axl, .evt, .flt, .notes, .obj 0x0C06] : List Part), p.within ps = true) : Touches ps r (replyCame s0 a0 a1) := by
  unfold replyCame
  repeat' first
    | with_reducible assumption | with_reducible apply touches_clearFault | with_reducible apply touches_setFrag
    | with_reducible apply touches_takeMessage | with_reducible apply touches_wrPairs
    | with_reducible refine Touches.foldl _ _ ?_ (fun _ _ _ => ?_) | split | fail_if_no_progress extract_lets
    | dsimp +zetaDelta only | refine List.forall_mem_cons.2 ⟨?_, ?_⟩ | exact List.forall_mem_nil _
    | exact sub hp (by decide) | exact hp _ (by decide)

theorem touches_evtSnapshot {ps : List Part} {r s0 : State} (h : Touches ps r s0)
    (hp : ∀ p ∈ ([.obj 0x0604] : List Part), p.within ps = true) : Touches ps r (evtSnapshot s0) := by
  unfold evtSnapshot
  repeat' first
    | with_reducible assumption | with_reducible apply touches_wr | with_reducible apply touches_wrPairs
    | with_reducible refine Touches.foldl _ _ ?_ (fun _ _ _ => ?_) | split | fail_if_no_progress extract_lets
    | dsimp +zetaDelta only | refine List.forall_mem_cons.2 ⟨?_, ?_⟩ | exact List.forall_mem_nil _
    | exact sub hp (by decide) | exact hp _ (by decide) | exact ⟨by decide, hp _ (by decide)⟩

end Sys2Proof
end

