-- ==== Sys2Proof/Laws/Conc.lean ====
section
/-! SUPPORT. What each operation of `Machine/Conc.lean` may change. -/

namespace Sys2Proof

open Sys2Proof.Machine

theorem touches_concLevels {ps : List Part} {r s0 : State} (h : Touches ps r s0)
    (hp : ∀ p ∈ ([.flt, .notes, .obj 0x0808, .obj 0x0C06] : List Part), p.within ps = true) : Touches ps r (concLevels s0) := by
  unfold concLevels
  repeat' first
    | with_reducible assumption | with_reducible apply touches_wr | with_reducible apply touches_clearFault
    | with_reducible apply touches_wrPairs | with_reducible refine Touches.foldl _ _ ?_ (fun _ _ _ => ?_)
    | split | fail_if_no_progress extract_lets | dsimp +zetaDelta only | refine List.forall_mem_cons.2 ⟨?_, ?_⟩
    | exact List.forall_mem_nil _ | exact sub hp (by decide) | exact hp _ (by decide)
    | exact ⟨by decide, hp _ (by decide)⟩

theorem touches_concReply {ps : List Part} {r s0 : State} (h : Touches ps r s0) (a0 : Nat) (a1 : Contribution) (a2 : Nat)
    (hp : ∀ p ∈ ([.axl, .out, .peer, .obj 0x0D05] : List Part), p.within ps = true) : Touches ps r (concReply s0 a0 a1 a2) := by
  unfold concReply
  repeat' first
    | with_reducible assumption | with_reducible apply touches_axPost

theorem touches_dropContext {ps : List Part} {r s0 : State} (h : Touches ps r s0) (a0 : Nat)
    (hp : ∀ p ∈ ([.conc, .flt, .notes, .obj 0x0808, .obj 0x0C06] : List Part), p.within ps = true) : Touches ps r (dropContext s0 a0) := by
  unfold dropContext
  repeat' first
    | with_reducible assumption | with_reducible apply touches_concLevels | with_reducible apply touches_setConc
    | with_reducible apply touches_wrPairs | with_reducible refine Touches.foldl _ _ ?_ (fun _ _ _ => ?_)
    | split | fail_if_no_progress extract_lets | dsimp +zetaDelta only | refine List.forall_mem_cons.2 ⟨?_, ?_⟩
    | exact List.forall_mem_nil _ | exact sub hp (by decide) | exact hp _ (by decide)

theorem touches_eventsOut {ps : List Part} {r s0 : State} (h : Touches ps r s0) (a0 : Nat)
    (hp : ∀ p ∈ ([.conc, .flt, .mov, .notes, .pwr, .obj 0x0808, .obj 0x0C06, .obj 0x1106] : List Part), p.within ps = true) : Touches ps r (eventsOut a0 s0) := by
  induction a0 generalizing s0 with
  | zero =>
    unfold eventsOut
    repeat' first
      | with_reducible assumption
  | succ fuel ih =>
    unfold eventsOut
    repeat' first
      | with_reducible assumption | apply ih | with_reducible apply touches_setConc
      | with_reducible apply touches_clockStarts | with_reducible apply touches_dropContext
      | with_reducible apply touches_wrPairs | with_reducible refine Touches.foldl _ _ ?_ (fun _ _ _ => ?_)
      | split | fail_if_no_progress extract_lets | dsimp +zetaDelta only
      | refine List.forall_mem_cons.2 ⟨?_, ?_⟩ | exact List.forall_mem_nil _ | exact sub hp (by decide)
      | exact hp _ (by decide)

theorem touches_eventTaken {ps : List Part} {r s0 : State} (h : Touches ps r s0)
    (hp : ∀ p ∈ ([.conc, .flt, .mov, .notes, .pwr, .obj 0x0808, .obj 0x0C06, .obj 0x1106] : List Part), p.within ps = true) : Touches ps r (eventTaken s0) := by
  unfold eventTaken
  repeat' first
    | with_reducible assumption | with_reducible apply touches_eventsOut | with_reducible apply touches_setConc
    | with_reducible apply touches_wrPairs | with_reducible refine Touches.foldl _ _ ?_ (fun _ _ _ => ?_)
    | split | fail_if_no_progress extract_lets | dsimp +zetaDelta only | refine List.forall_mem_cons.2 ⟨?_, ?_⟩
    | exact List.forall_mem_nil _ | exact sub hp (by decide) | exact hp _ (by decide)

theorem touches_deliverContext {ps : List Part} {r s0 : State} (h : Touches ps r s0) (a0 : Nat)
    (hp : ∀ p ∈ ([.conc, .flt, .mov, .notes, .pwr, .obj 0x0808, .obj 0x0C06, .obj 0x1106] : List Part), p.within ps = true) : Touches ps r (deliverContext s0 a0) := by
  unfold deliverContext
  repeat' first
    | with_reducible assumption | with_reducible apply touches_bump | with_reducible apply touches_dropContext
    | with_reducible apply touches_eventsOut | with_reducible apply touches_setConc
    | with_reducible apply touches_wrPairs | with_reducible refine Touches.foldl _ _ ?_ (fun _ _ _ => ?_)
    | split | fail_if_no_progress extract_lets | dsimp +zetaDelta only | refine List.forall_mem_cons.2 ⟨?_, ?_⟩
    | exact List.forall_mem_nil _ | exact sub hp (by decide) | exact hp _ (by decide)
    | exact ⟨by decide, hp _ (by decide)⟩

theorem touches_contextWhole {ps : List Part} {r s0 : State} (h : Touches ps r s0) (a0 : Nat)
    (hp : ∀ p ∈ ([.conc, .flt, .mov, .notes, .pwr, .obj 0x0808, .obj 0x0C06, .obj 0x1106] : List Part), p.within ps = true) : Touches ps r (contextWhole s0 a0) := by
  unfold contextWhole
  repeat' first
    | with_reducible assumption | with_reducible apply touches_deliverContext
    | with_reducible apply touches_setConc | with_reducible apply touches_wrPairs
    | with_reducible refine Touches.foldl _ _ ?_ (fun _ _ _ => ?_) | split | fail_if_no_progress extract_lets
    | dsimp +zetaDelta only | refine List.forall_mem_cons.2 ⟨?_, ?_⟩ | exact List.forall_mem_nil _
    | exact sub hp (by decide) | exact hp _ (by decide)

theorem touches_fetchCheck {ps : List Part} {r s0 : State} (h : Touches ps r s0) (a0 : Nat)
    (hp : ∀ p ∈ ([.conc, .flt, .mov, .notes, .pwr, .obj 0x0808, .obj 0x0C06, .obj 0x1106] : List Part), p.within ps = true) : Touches ps r (fetchCheck s0 a0) := by
  unfold fetchCheck
  repeat' first
    | with_reducible assumption | with_reducible apply touches_contextWhole
    | with_reducible apply touches_wrPairs | with_reducible refine Touches.foldl _ _ ?_ (fun _ _ _ => ?_)
    | split

theorem touches_answerPart {ps : List Part} {r s0 : State} (h : Touches ps r s0) (a0 : Nat) (a1 : Contribution)
    (hp : ∀ p ∈ ([.axl, .out, .peer, .obj 0x0D05] : List Part), p.within ps = true) : Touches ps r (answerPart a0 s0 a1) := by
  unfold answerPart
  repeat' first
    | with_reducible assumption | with_reducible apply touches_concReply | with_reducible apply touches_wrPairs
    | with_reducible refine Touches.foldl _ _ ?_ (fun _ _ _ => ?_) | split

theorem touches_closeContext {ps : List Part} {r s0 : State} (h : Touches ps r s0) (a0 : Nat) (a1 : Bool)
    (hp : ∀ p ∈ ([.axl, .conc, .flt, .mov, .notes, .out, .peer, .pwr, .obj 0x0808, .obj 0x0C06, .obj 0x0D05, .obj 0x1106] : List Part), p.within ps = true) : Touches ps r (closeContext s0 a0 a1) := by
  unfold closeContext
  repeat' first
    | with_reducible assumption | with_reducible refine touches_raise_plain ?_ (by decide) _ _ _ ?_
    | with_reducible refine touches_raiseDetail_plain ?_ (by decide) _ _ _ _ ?_
    | with_reducible refine touches_raise_plain ?_ (by split <;> decide) _ _ _ ?_
    | with_reducible apply touches_setConc | with_reducible apply touches_wr | with_reducible apply touches_bump
    | with_reducible apply touches_fetchCheck | with_reducible apply touches_answerPart
    | with_reducible apply touches_dropContext | with_reducible apply touches_concReply
    | with_reducible apply touches_wrPairs | with_reducible refine Touches.foldl _ _ ?_ (fun _ _ _ => ?_)
    | split | fail_if_no_progress extract_lets | dsimp +zetaDelta only | refine List.forall_mem_cons.2 ⟨?_, ?_⟩
    | exact List.forall_mem_nil _ | exact sub hp (by decide) | exact hp _ (by decide)
    | exact ⟨by decide, hp _ (by decide)⟩

theorem touches_closeIfWhole {ps : List Part} {r s0 : State} (h : Touches ps r s0) (a0 : Nat)
    (hp : ∀ p ∈ ([.axl, .conc, .flt, .mov, .notes, .out, .peer, .pwr, .obj 0x0808, .obj 0x0C06, .obj 0x0D05, .obj 0x1106] : List Part), p.within ps = true) : Touches ps r (closeIfWhole s0 a0) := by
  unfold closeIfWhole
  repeat' first
    | with_reducible assumption | with_reducible apply touches_closeContext
    | with_reducible apply touches_wrPairs | with_reducible refine Touches.foldl _ _ ?_ (fun _ _ _ => ?_)
    | split

theorem touches_fetched {ps : List Part} {r s0 : State} (h : Touches ps r s0) (a0 : Nat) (a1 : Contribution)
    (hp : ∀ p ∈ ([.axl, .conc, .flt, .mov, .notes, .out, .peer, .pwr, .obj 0x0808, .obj 0x0C06, .obj 0x0D05, .obj 0x1106] : List Part), p.within ps = true) : Touches ps r (fetched s0 a0 a1) := by
  unfold fetched
  repeat' first
    | with_reducible assumption | with_reducible apply touches_setConc | with_reducible apply touches_fetchCheck
    | with_reducible apply touches_concReply | with_reducible apply touches_wrPairs
    | with_reducible refine Touches.foldl _ _ ?_ (fun _ _ _ => ?_) | split | fail_if_no_progress extract_lets
    | dsimp +zetaDelta only | refine List.forall_mem_cons.2 ⟨?_, ?_⟩ | exact List.forall_mem_nil _
    | exact sub hp (by decide) | exact hp _ (by decide)

theorem touches_joinLate {ps : List Part} {r s0 : State} (h : Touches ps r s0) (a0 : Nat) (a1 : Contribution)
    (hp : ∀ p ∈ ([.axl, .conc, .out, .peer, .obj 0x0D05] : List Part), p.within ps = true) : Touches ps r (joinLate s0 a0 a1) := by
  unfold joinLate
  repeat' first
    | with_reducible assumption | with_reducible apply touches_answerPart | with_reducible apply touches_setConc
    | with_reducible apply touches_wrPairs | with_reducible refine Touches.foldl _ _ ?_ (fun _ _ _ => ?_)
    | split | fail_if_no_progress extract_lets | dsimp +zetaDelta only | refine List.forall_mem_cons.2 ⟨?_, ?_⟩
    | exact List.forall_mem_nil _ | exact sub hp (by decide) | exact hp _ (by decide)

theorem touches_concArrival {ps : List Part} {r s0 : State} (h : Touches ps r s0) (a0 : Nat) (a1 : Arrival) (a2 : Bool)
    (hp : ∀ p ∈ ([.axl, .conc, .flt, .mov, .notes, .out, .peer, .pwr, .obj 0x0808, .obj 0x0C06, .obj 0x0D05, .obj 0x1106] : List Part), p.within ps = true) : Touches ps r (concArrival s0 a0 a1 a2) := by
  unfold concArrival
  repeat' first
    | with_reducible assumption | with_reducible refine touches_raise_plain ?_ (by decide) _ _ _ ?_
    | with_reducible refine touches_raiseDetail_plain ?_ (by decide) _ _ _ _ ?_
    | with_reducible refine touches_raise_plain ?_ (by split <;> decide) _ _ _ ?_
    | with_reducible apply touches_fetched | with_reducible apply touches_closeIfWhole
    | with_reducible apply touches_setConc | with_reducible apply touches_joinLate
    | with_reducible apply touches_concReply | with_reducible apply touches_bump
    | with_reducible apply touches_concLevels | with_reducible apply touches_wrPairs
    | with_reducible refine Touches.foldl _ _ ?_ (fun _ _ _ => ?_) | split | fail_if_no_progress extract_lets
    | dsimp +zetaDelta only | refine List.forall_mem_cons.2 ⟨?_, ?_⟩ | exact List.forall_mem_nil _
    | exact sub hp (by decide) | exact hp _ (by decide) | exact ⟨by decide, hp _ (by decide)⟩

theorem touches_partsMissing {ps : List Part} {r s0 : State} (h : Touches ps r s0) (a0 : Nat) (a1 : Contribution → Bool)
    (hp : ∀ p ∈ ([.conc, .flt, .mov, .notes, .pwr, .obj 0x0808, .obj 0x0C06, .obj 0x1106] : List Part), p.within ps = true) : Touches ps r (partsMissing s0 a0 a1) := by
  unfold partsMissing
  repeat' first
    | with_reducible assumption | with_reducible apply touches_fetchCheck | with_reducible apply touches_setConc
    | with_reducible apply touches_wrPairs | with_reducible refine Touches.foldl _ _ ?_ (fun _ _ _ => ?_)
    | split | fail_if_no_progress extract_lets | dsimp +zetaDelta only | refine List.forall_mem_cons.2 ⟨?_, ?_⟩
    | exact List.forall_mem_nil _ | exact sub hp (by decide) | exact hp _ (by decide)

theorem touches_blocksDecoded {ps : List Part} {r s0 : State} (h : Touches ps r s0) (a0 : Nat)
    (hp : ∀ p ∈ ([.flt, .notes, .obj 0x0B04, .obj 0x0C06] : List Part), p.within ps = true) : Touches ps r (blocksDecoded s0 a0) := by
  unfold blocksDecoded
  repeat' first
    | with_reducible assumption | with_reducible refine touches_raise_plain ?_ (by decide) _ _ _ ?_
    | with_reducible refine touches_raiseDetail_plain ?_ (by decide) _ _ _ _ ?_
    | with_reducible refine touches_raise_plain ?_ (by split <;> decide) _ _ _ ?_
    | with_reducible apply touches_bump | with_reducible apply touches_wrPairs
    | with_reducible refine Touches.foldl _ _ ?_ (fun _ _ _ => ?_) | split | fail_if_no_progress extract_lets
    | dsimp +zetaDelta only | refine List.forall_mem_cons.2 ⟨?_, ?_⟩ | exact List.forall_mem_nil _
    | exact sub hp (by decide) | exact hp _ (by decide) | exact ⟨by decide, hp _ (by decide)⟩

theorem touches_concCloseAll {ps : List Part} {r s0 : State} (h : Touches ps r s0) (a0 : Nat)
    (hp : ∀ p ∈ ([.axl, .conc, .flt, .mov, .notes, .out, .peer, .pwr, .obj 0x0808, .obj 0x0C06, .obj 0x0D05, .obj 0x1106] : List Part), p.within ps = true) : Touches ps r (concCloseAll a0 s0) := by
  induction a0 generalizing s0 with
  | zero =>
    unfold concCloseAll
    repeat' first
      | with_reducible assumption
  | succ fuel ih =>
    unfold concCloseAll
    repeat' first
      | with_reducible assumption | apply ih | with_reducible apply touches_closeContext
      | with_reducible apply touches_wrPairs | with_reducible refine Touches.foldl _ _ ?_ (fun _ _ _ => ?_)
      | split

end Sys2Proof
end

