-- ==== Sys2Proof/Laws/Converters.lean ====
section
/-! SUPPORT. What each operation of `Machine/Converters.lean` may change. -/

namespace Sys2Proof

open Sys2Proof.Machine

theorem touches_captureWord {ps : List Part} {r s0 : State} (h : Touches ps r s0) (a0 : List InputWord) (a1 : Nat)
    (hp : ∀ p ∈ ([.cnv, .mem] : List Part), p.within ps = true) : Touches ps r (captureWord s0 a0 a1) := by
  unfold captureWord
  repeat' first
    | with_reducible assumption | with_reducible apply touches_setCnv | with_reducible apply touches_storeBytes
    | with_reducible apply touches_wrPairs | with_reducible refine Touches.foldl _ _ ?_ (fun _ _ _ => ?_)
    | split | fail_if_no_progress extract_lets | dsimp +zetaDelta only | refine List.forall_mem_cons.2 ⟨?_, ?_⟩
    | exact List.forall_mem_nil _ | exact sub hp (by decide) | exact hp _ (by decide)

theorem touches_blockCounts {ps : List Part} {r s0 : State} (h : Touches ps r s0) (a0 : Nat) (a1 : InputWord)
    (hp : ∀ p ∈ ([.cnv] : List Part), p.within ps = true) : Touches ps r (blockCounts s0 a0 a1) := by
  unfold blockCounts
  repeat' first
    | with_reducible assumption | with_reducible apply touches_setCnv | with_reducible apply touches_wrPairs
    | with_reducible refine Touches.foldl _ _ ?_ (fun _ _ _ => ?_) | split | fail_if_no_progress extract_lets
    | dsimp +zetaDelta only | refine List.forall_mem_cons.2 ⟨?_, ?_⟩ | exact List.forall_mem_nil _
    | exact sub hp (by decide) | exact hp _ (by decide)

theorem touches_gatherWord {ps : List Part} {r s0 : State} (h : Touches ps r s0) (a0 : Nat) (a1 : Nat) (a2 : InputWord)
    (hp : ∀ p ∈ ([.cnv] : List Part), p.within ps = true) : Touches ps r (gatherWord s0 a0 a1 a2) := by
  unfold gatherWord
  repeat' first
    | with_reducible assumption | with_reducible apply touches_setCnv | with_reducible apply touches_wrPairs
    | with_reducible refine Touches.foldl _ _ ?_ (fun _ _ _ => ?_) | split | fail_if_no_progress extract_lets
    | dsimp +zetaDelta only | refine List.forall_mem_cons.2 ⟨?_, ?_⟩ | exact List.forall_mem_nil _
    | exact sub hp (by decide) | exact hp _ (by decide)

theorem touches_noteClean {ps : List Part} {r s0 : State} (h : Touches ps r s0) (a0 : List InputWord)
    (hp : ∀ p ∈ ([.cnv] : List Part), p.within ps = true) : Touches ps r (noteClean s0 a0) := by
  unfold noteClean
  repeat' first
    | with_reducible assumption | with_reducible apply touches_setCnv | with_reducible apply touches_wrPairs
    | with_reducible refine Touches.foldl _ _ ?_ (fun _ _ _ => ?_) | split | fail_if_no_progress extract_lets
    | dsimp +zetaDelta only | refine List.forall_mem_cons.2 ⟨?_, ?_⟩ | exact List.forall_mem_nil _
    | exact sub hp (by decide) | exact hp _ (by decide)

theorem touches_pushWords {ps : List Part} {r s0 : State} (h : Touches ps r s0) (a0 : List InputWord) (a1 : Nat)
    (hp : ∀ p ∈ ([.cnv] : List Part), p.within ps = true) : Touches ps r (pushWords s0 a0 a1) := by
  unfold pushWords
  repeat' first
    | with_reducible assumption | with_reducible apply touches_setCnv | with_reducible apply touches_wrPairs
    | with_reducible refine Touches.foldl _ _ ?_ (fun _ _ _ => ?_) | split | fail_if_no_progress extract_lets
    | dsimp +zetaDelta only | refine List.forall_mem_cons.2 ⟨?_, ?_⟩ | exact List.forall_mem_nil _
    | exact sub hp (by decide) | exact hp _ (by decide)

theorem touches_storeCoefficients {ps : List Part} {r s0 : State} (h : Touches ps r s0)
    (hp : ∀ p ∈ ([.cnv, .obj 0x0303] : List Part), p.within ps = true) : Touches ps r (storeCoefficients s0) := by
  unfold storeCoefficients
  repeat' first
    | with_reducible assumption | with_reducible apply touches_wr | with_reducible apply touches_setCnv
    | with_reducible apply touches_wrPairs | with_reducible refine Touches.foldl _ _ ?_ (fun _ _ _ => ?_)
    | split | fail_if_no_progress extract_lets | dsimp +zetaDelta only | refine List.forall_mem_cons.2 ⟨?_, ?_⟩
    | exact List.forall_mem_nil _ | exact sub hp (by decide) | exact hp _ (by decide)
    | exact ⟨by decide, hp _ (by decide)⟩

theorem touches_converterStart {ps : List Part} {r s0 : State} (h : Touches ps r s0)
    (hp : ∀ p ∈ ([.afe, .cnv] : List Part), p.within ps = true) : Touches ps r (converterStart s0) := by
  unfold converterStart
  repeat' first
    | with_reducible assumption | with_reducible apply touches_setCnv | with_reducible apply touches_wrPairs
    | with_reducible refine Touches.foldl _ _ ?_ (fun _ _ _ => ?_) | split | fail_if_no_progress extract_lets
    | with_reducible apply touches_part_afe | dsimp +zetaDelta only | refine List.forall_mem_cons.2 ⟨?_, ?_⟩
    | exact List.forall_mem_nil _ | exact sub hp (by decide) | exact hp _ (by decide)

theorem touches_calibrationFound {ps : List Part} {r s0 : State} (h : Touches ps r s0)
    (hp : ∀ p ∈ ([.cnv, .free, .obj 0x0303] : List Part), p.within ps = true) : Touches ps r (calibrationFound s0) := by
  unfold calibrationFound
  repeat' first
    | with_reducible assumption | with_reducible apply touches_storeCoefficients
    | with_reducible apply touches_setCnv | with_reducible apply touches_drawFree
    | with_reducible apply touches_wrPairs | with_reducible refine Touches.foldl _ _ ?_ (fun _ _ _ => ?_)
    | split | fail_if_no_progress extract_lets | dsimp +zetaDelta only | refine List.forall_mem_cons.2 ⟨?_, ?_⟩
    | exact List.forall_mem_nil _ | exact sub hp (by decide) | exact hp _ (by decide)

theorem touches_frameCorrections {ps : List Part} {r s0 : State} (h : Touches ps r s0)
    (hp : ∀ p ∈ ([.cnv] : List Part), p.within ps = true) : Touches ps r (frameCorrections s0) := by
  unfold frameCorrections
  repeat' first
    | with_reducible assumption | with_reducible apply touches_setCnv | with_reducible apply touches_wrPairs
    | with_reducible refine Touches.foldl _ _ ?_ (fun _ _ _ => ?_) | split | fail_if_no_progress extract_lets
    | dsimp +zetaDelta only | refine List.forall_mem_cons.2 ⟨?_, ?_⟩ | exact List.forall_mem_nil _
    | exact sub hp (by decide) | exact hp _ (by decide)

theorem touches_converterBlock {ps : List Part} {r s0 : State} (h : Touches ps r s0) (a0 : Nat) (a1 : Nat)
    (hp : ∀ p ∈ ([.cnv, .flt, .notes, .obj 0x0301, .obj 0x0302, .obj 0x0C06] : List Part), p.within ps = true) : Touches ps r (converterBlock s0 a0 a1) := by
  unfold converterBlock
  repeat' first
    | with_reducible assumption | with_reducible refine touches_raise_plain ?_ (by decide) _ _ _ ?_
    | with_reducible refine touches_raiseDetail_plain ?_ (by decide) _ _ _ _ ?_
    | with_reducible refine touches_raise_plain ?_ (by split <;> decide) _ _ _ ?_
    | with_reducible apply touches_wr | with_reducible apply touches_setCnv
    | with_reducible apply touches_clearFault | with_reducible apply touches_wrPairs
    | with_reducible refine Touches.foldl _ _ ?_ (fun _ _ _ => ?_) | split | fail_if_no_progress extract_lets
    | dsimp +zetaDelta only | refine List.forall_mem_cons.2 ⟨?_, ?_⟩ | exact List.forall_mem_nil _
    | exact sub hp (by decide) | exact hp _ (by decide) | exact ⟨by decide, hp _ (by decide)⟩

theorem touches_converterCounts {ps : List Part} {r s0 : State} (h : Touches ps r s0)
    (hp : ∀ p ∈ ([.cnv] : List Part), p.within ps = true) : Touches ps r (converterCounts s0) := by
  unfold converterCounts
  repeat' first
    | with_reducible assumption | with_reducible apply touches_setCnv | with_reducible apply touches_wrPairs
    | with_reducible refine Touches.foldl _ _ ?_ (fun _ _ _ => ?_) | split | fail_if_no_progress extract_lets
    | dsimp +zetaDelta only | refine List.forall_mem_cons.2 ⟨?_, ?_⟩ | exact List.forall_mem_nil _
    | exact sub hp (by decide) | exact hp _ (by decide)

end Sys2Proof
end

