-- ==== Sys2Proof/Laws/PeerOps.lean ====
section
/-! SUPPORT. What each operation of `Machine/PeerOps.lean` may change. -/

namespace Sys2Proof

open Sys2Proof.Machine

theorem touches_sendControl {ps : List Part} {r s0 : State} (h : Touches ps r s0) (a0 : Nat) (a1 : Bytes)
    (hp : ∀ p ∈ ([.axl, .out, .peer, .obj 0x0D05] : List Part), p.within ps = true) : Touches ps r (sendControl s0 a0 a1) := by
  unfold sendControl
  repeat' first
    | with_reducible assumption | with_reducible apply touches_axPost | with_reducible apply touches_wrPairs
    | with_reducible refine Touches.foldl _ _ ?_ (fun _ _ _ => ?_)

theorem touches_openGroup {ps : List Part} {r s0 : State} (h : Touches ps r s0) (a0 : Nat)
    (hp : ∀ p ∈ ([.peer] : List Part), p.within ps = true) : Touches ps r (openGroup s0 a0) := by
  unfold openGroup
  repeat' first
    | with_reducible assumption | with_reducible apply touches_setPeer | with_reducible apply touches_wrPairs
    | with_reducible refine Touches.foldl _ _ ?_ (fun _ _ _ => ?_) | split | fail_if_no_progress extract_lets
    | dsimp +zetaDelta only | refine List.forall_mem_cons.2 ⟨?_, ?_⟩ | exact List.forall_mem_nil _
    | exact sub hp (by decide) | exact hp _ (by decide)

theorem touches_placePeer {ps : List Part} {r s0 : State} (h : Touches ps r s0) (a0 : Nat) (a1 : Nat) (a2 : Nat) (a3 : List (List Nat)) (a4 : Bool)
    (hp : ∀ p ∈ ([.flt, .fst, .mem, .peer] : List Part), p.within ps = true) : Touches ps r (placePeer s0 a0 a1 a2 a3 a4).2 := by
  unfold placePeer
  repeat' first
    | with_reducible assumption | with_reducible apply touches_openGroup
    | with_reducible apply touches_storeWords | with_reducible apply touches_setPeer
    | with_reducible apply touches_wrPairs | with_reducible refine Touches.foldl _ _ ?_ (fun _ _ _ => ?_)
    | with_reducible refine Touches.foldlSnd _ _ ?_ (fun _ _ _ => ?_)
    | with_reducible refine Touches.foldlSndSnd _ _ ?_ (fun _ _ _ => ?_) | split
    | fail_if_no_progress extract_lets | dsimp +zetaDelta only | refine List.forall_mem_cons.2 ⟨?_, ?_⟩
    | exact List.forall_mem_nil _ | exact sub hp (by decide) | exact hp _ (by decide)

theorem touches_queuePeer {ps : List Part} {r s0 : State} (h : Touches ps r s0) (a0 : Nat) (a1 : Nat) (a2 : Nat) (a3 : Bytes) (a4 : Bool)
    (hp : ∀ p ∈ ([.axl, .out, .peer, .obj 0x0D05] : List Part), p.within ps = true) : Touches ps r (queuePeer s0 a0 a1 a2 a3 a4) := by
  unfold queuePeer
  repeat' first
    | with_reducible assumption | with_reducible apply touches_pump | with_reducible apply touches_setPeer
    | with_reducible apply touches_wrPairs | with_reducible refine Touches.foldl _ _ ?_ (fun _ _ _ => ?_)
    | split | fail_if_no_progress extract_lets | dsimp +zetaDelta only | refine List.forall_mem_cons.2 ⟨?_, ?_⟩
    | exact List.forall_mem_nil _ | exact sub hp (by decide) | exact hp _ (by decide)

theorem touches_peerFeed {ps : List Part} {r s0 : State} (h : Touches ps r s0) (a0 : Spectrum)
    (hp : ∀ p ∈ ([.axl, .flt, .fst, .mem, .mov, .out, .peer, .obj 0x0D05] : List Part), p.within ps = true) : Touches ps r (peerFeed s0 a0) := by
  unfold peerFeed
  repeat' first
    | with_reducible assumption | with_reducible apply touches_placePeer
    | with_reducible apply touches_queuePeer | with_reducible apply touches_wrPairs
    | with_reducible refine Touches.foldl _ _ ?_ (fun _ _ _ => ?_) | split | fail_if_no_progress extract_lets
    | with_reducible apply touches_part_mov | dsimp +zetaDelta only | refine List.forall_mem_cons.2 ⟨?_, ?_⟩
    | exact List.forall_mem_nil _ | exact sub hp (by decide) | exact hp _ (by decide)

theorem touches_peerTake {ps : List Part} {r s0 : State} (h : Touches ps r s0) (a0 : Nat)
    (hp : ∀ p ∈ ([.axl, .flt, .fst, .mem, .mov, .out, .peer, .obj 0x0D05] : List Part), p.within ps = true) : Touches ps r (peerTake a0 s0) := by
  induction a0 generalizing s0 with
  | zero =>
    unfold peerTake
    repeat' first
      | with_reducible assumption
  | succ fuel ih =>
    unfold peerTake
    repeat' first
      | with_reducible assumption | apply ih | with_reducible apply touches_peerFeed
      | with_reducible apply touches_setPeer | with_reducible apply touches_wrPairs
      | with_reducible refine Touches.foldl _ _ ?_ (fun _ _ _ => ?_) | split | fail_if_no_progress extract_lets
      | dsimp +zetaDelta only | refine List.forall_mem_cons.2 ⟨?_, ?_⟩ | exact List.forall_mem_nil _
      | exact sub hp (by decide) | exact hp _ (by decide)

theorem touches_peerSnapshot {ps : List Part} {r s0 : State} (h : Touches ps r s0)
    (hp : ∀ p ∈ ([.obj 0x0802] : List Part), p.within ps = true) : Touches ps r (peerSnapshot s0) := by
  unfold peerSnapshot
  repeat' first
    | with_reducible assumption | with_reducible apply touches_wr | with_reducible apply touches_wrPairs
    | with_reducible refine Touches.foldl _ _ ?_ (fun _ _ _ => ?_) | split | fail_if_no_progress extract_lets
    | dsimp +zetaDelta only | refine List.forall_mem_cons.2 ⟨?_, ?_⟩ | exact List.forall_mem_nil _
    | exact sub hp (by decide) | exact hp _ (by decide) | exact ⟨by decide, hp _ (by decide)⟩

end Sys2Proof
end

