-- ==== Sys2Proof/Laws/Channelizer.lean ====
section
/-! SUPPORT. What each operation of `Machine/Channelizer.lean` may change. -/

namespace Sys2Proof

open Sys2Proof.Machine

theorem touches_countInvalid {ps : List Part} {r s0 : State} (h : Touches ps r s0) (a0 : Nat) (a1 : Nat)
    (hp : ∀ p ∈ ([.chz, .flt, .notes, .obj 0x0C06] : List Part), p.within ps = true) : Touches ps r (countInvalid s0 a0 a1) := by
  unfold countInvalid
  repeat' first
    | with_reducible assumption | with_reducible refine touches_raise_plain ?_ (by decide) _ _ _ ?_
    | with_reducible refine touches_raiseDetail_plain ?_ (by decide) _ _ _ _ ?_
    | with_reducible refine touches_raise_plain ?_ (by split <;> decide) _ _ _ ?_
    | with_reducible apply touches_setChz | with_reducible apply touches_wrPairs
    | with_reducible refine Touches.foldl _ _ ?_ (fun _ _ _ => ?_) | split | fail_if_no_progress extract_lets
    | dsimp +zetaDelta only | refine List.forall_mem_cons.2 ⟨?_, ?_⟩ | exact List.forall_mem_nil _
    | exact sub hp (by decide) | exact hp _ (by decide)

theorem touches_countClips {ps : List Part} {r s0 : State} (h : Touches ps r s0) (a0 : List (List (Int × Int)))
    (hp : ∀ p ∈ ([.chz] : List Part), p.within ps = true) : Touches ps r (countClips s0 a0) := by
  unfold countClips
  repeat' first
    | with_reducible assumption | with_reducible apply touches_setChz | with_reducible apply touches_wrPairs
    | with_reducible refine Touches.foldl _ _ ?_ (fun _ _ _ => ?_) | split | fail_if_no_progress extract_lets
    | dsimp +zetaDelta only | refine List.forall_mem_cons.2 ⟨?_, ?_⟩ | exact List.forall_mem_nil _
    | exact sub hp (by decide) | exact hp _ (by decide)

theorem touches_formSpectrum {ps : List Part} {r s0 : State} (h : Touches ps r s0) (a0 : Nat)
    (hp : ∀ p ∈ ([.chz, .flt, .notes, .obj 0x0C06] : List Part), p.within ps = true) : Touches ps r (formSpectrum s0 a0).2 := by
  unfold formSpectrum
  repeat' first
    | with_reducible assumption | with_reducible apply touches_countClips
    | with_reducible apply touches_countInvalid | with_reducible apply touches_wrPairs
    | with_reducible refine Touches.foldl _ _ ?_ (fun _ _ _ => ?_)
    | with_reducible refine Touches.foldlSnd _ _ ?_ (fun _ _ _ => ?_)
    | with_reducible refine Touches.foldlSndSnd _ _ ?_ (fun _ _ _ => ?_) | split
    | fail_if_no_progress extract_lets | dsimp +zetaDelta only | refine List.forall_mem_cons.2 ⟨?_, ?_⟩
    | exact List.forall_mem_nil _ | exact sub hp (by decide) | exact hp _ (by decide)

theorem touches_sendDescriptor {ps : List Part} {r s0 : State} (h : Touches ps r s0)
    (hp : ∀ p ∈ ([.chz, .mov, .pwr, .obj 0x1106] : List Part), p.within ps = true) : Touches ps r (sendDescriptor s0) := by
  unfold sendDescriptor
  repeat' first
    | with_reducible assumption | with_reducible apply touches_clockStarts | with_reducible apply touches_setChz
    | with_reducible apply touches_wrPairs | with_reducible refine Touches.foldl _ _ ?_ (fun _ _ _ => ?_)
    | split | fail_if_no_progress extract_lets | dsimp +zetaDelta only | refine List.forall_mem_cons.2 ⟨?_, ?_⟩
    | exact List.forall_mem_nil _ | exact sub hp (by decide) | exact hp _ (by decide)

theorem touches_obtainBuffer {ps : List Part} {r s0 : State} (h : Touches ps r s0) (a0 : Nat)
    (hp : ∀ p ∈ ([.chz, .mov, .pwr, .obj 0x1106] : List Part), p.within ps = true) : Touches ps r (obtainBuffer s0 a0) := by
  unfold obtainBuffer
  repeat' first
    | with_reducible assumption | with_reducible apply touches_sendDescriptor
    | with_reducible apply touches_setChz | with_reducible apply touches_wrPairs
    | with_reducible refine Touches.foldl _ _ ?_ (fun _ _ _ => ?_) | split | fail_if_no_progress extract_lets
    | dsimp +zetaDelta only | refine List.forall_mem_cons.2 ⟨?_, ?_⟩ | exact List.forall_mem_nil _
    | exact sub hp (by decide) | exact hp _ (by decide)

theorem touches_writeCorner {ps : List Part} {r s0 : State} (h : Touches ps r s0) (a0 : CornerBuffer) (a1 : Spectrum)
    (hp : ∀ p ∈ ([.chz, .flt, .fst, .mem, .mov] : List Part), p.within ps = true) : Touches ps r (writeCorner s0 a0 a1) := by
  unfold writeCorner
  repeat' first
    | with_reducible assumption | with_reducible apply touches_storeWords | with_reducible apply touches_setChz
    | with_reducible apply touches_wrPairs | with_reducible refine Touches.foldl _ _ ?_ (fun _ _ _ => ?_)
    | split | fail_if_no_progress extract_lets | with_reducible apply touches_part_mov | dsimp +zetaDelta only
    | refine List.forall_mem_cons.2 ⟨?_, ?_⟩ | exact List.forall_mem_nil _ | exact sub hp (by decide)
    | exact hp _ (by decide)

theorem touches_deliver4 {ps : List Part} {r s0 : State} (h : Touches ps r s0) (a0 : Spectrum)
    (hp : ∀ p ∈ ([.axl, .chz, .flt, .fst, .mem, .mov, .out, .peer, .pwr, .obj 0x0D05, .obj 0x1106] : List Part), p.within ps = true) : Touches ps r (deliver4 s0 a0).2 := by
  unfold deliver4
  repeat' first
    | with_reducible assumption | with_reducible apply touches_peerTake
    | with_reducible apply touches_clockStarts | with_reducible apply touches_setPeer
    | with_reducible apply touches_obtainBuffer | with_reducible apply touches_writeCorner
    | with_reducible apply touches_sendDescriptor | with_reducible apply touches_wrPairs
    | with_reducible refine Touches.foldl _ _ ?_ (fun _ _ _ => ?_)
    | with_reducible refine Touches.foldlSnd _ _ ?_ (fun _ _ _ => ?_)
    | with_reducible refine Touches.foldlSndSnd _ _ ?_ (fun _ _ _ => ?_) | split
    | fail_if_no_progress extract_lets | dsimp +zetaDelta only | refine List.forall_mem_cons.2 ⟨?_, ?_⟩
    | exact List.forall_mem_nil _ | exact sub hp (by decide) | exact hp _ (by decide)

theorem touches_deliver8 {ps : List Part} {r s0 t : State} {a0 : Spectrum} (e : deliver8 s0 a0 = some t)
    (h : Touches ps r s0) (hp : ∀ p ∈ ([.mov, .pwr, .sun, .obj 0x1106] : List Part), p.within ps = true) : Touches ps r t := by
  unfold deliver8 at e
  split at e
  · cases e
  · cases e
    refine touches_clockStarts ?_ _ (sub hp (by decide))
    refine ⟨fun p k => (h.1 p k).trans ?_, h.2⟩
    cases p <;> first | exact rfl | exact absurd ((hp _ (by decide)).symm.trans k) (by decide) | exact fun _ _ => rfl | trivial

theorem touches_drain4 {ps : List Part} {r s0 : State} (h : Touches ps r s0) (a0 : Nat)
    (hp : ∀ p ∈ ([.axl, .chz, .flt, .fst, .mem, .mov, .out, .peer, .pwr, .obj 0x0D05, .obj 0x1106] : List Part), p.within ps = true) : Touches ps r (drain4 a0 s0) := by
  induction a0 generalizing s0 with
  | zero =>
    unfold drain4
    repeat' first
      | with_reducible assumption
  | succ fuel ih =>
    unfold drain4
    repeat' first
      | with_reducible assumption | apply ih | with_reducible apply touches_deliver4
      | with_reducible apply touches_setChz | with_reducible apply touches_wrPairs
      | with_reducible refine Touches.foldl _ _ ?_ (fun _ _ _ => ?_) | split | fail_if_no_progress extract_lets
      | dsimp +zetaDelta only | refine List.forall_mem_cons.2 ⟨?_, ?_⟩ | exact List.forall_mem_nil _
      | exact sub hp (by decide) | exact hp _ (by decide)

theorem touches_drain8 {ps : List Part} {r s0 : State} (h : Touches ps r s0) (a0 : Nat)
    (hp : ∀ p ∈ ([.chz, .mov, .pwr, .sun, .obj 0x1106] : List Part), p.within ps = true) : Touches ps r (drain8 a0 s0) := by
  induction a0 generalizing s0 with
  | zero =>
    unfold drain8
    repeat' first
      | with_reducible assumption
  | succ fuel ih =>
    unfold drain8
    repeat' first
      | with_reducible assumption | apply ih | refine touches_deliver8 ‹_› ?_ (sub hp (by decide))
      | with_reducible apply touches_setChz | with_reducible apply touches_wrPairs
      | with_reducible refine Touches.foldl _ _ ?_ (fun _ _ _ => ?_) | split | fail_if_no_progress extract_lets
      | dsimp +zetaDelta only | refine List.forall_mem_cons.2 ⟨?_, ?_⟩ | exact List.forall_mem_nil _
      | exact sub hp (by decide) | exact hp _ (by decide)

theorem touches_eqError {ps : List Part} {r s0 : State} (h : Touches ps r s0) (a0 : Nat × Bool)
    (hp : ∀ p ∈ ([.chz, .flt, .notes, .obj 0x0406, .obj 0x0C06] : List Part), p.within ps = true) : Touches ps r (eqError s0 a0) := by
  unfold eqError
  repeat' first
    | with_reducible assumption | with_reducible refine touches_raise_plain ?_ (by decide) _ _ _ ?_
    | with_reducible refine touches_raiseDetail_plain ?_ (by decide) _ _ _ _ ?_
    | with_reducible refine touches_raise_plain ?_ (by split <;> decide) _ _ _ ?_
    | with_reducible apply touches_bump | with_reducible apply touches_setChz
    | with_reducible apply touches_wrPairs | with_reducible refine Touches.foldl _ _ ?_ (fun _ _ _ => ?_)
    | split | fail_if_no_progress extract_lets | dsimp +zetaDelta only | refine List.forall_mem_cons.2 ⟨?_, ?_⟩
    | exact List.forall_mem_nil _ | exact sub hp (by decide) | exact hp _ (by decide)
    | exact ⟨by decide, hp _ (by decide)⟩

theorem touches_spectrumMissed {ps : List Part} {r s0 : State} (h : Touches ps r s0) (a0 : Bool) (a1 : Spectrum)
    (hp : ∀ p ∈ ([.chz, .flt, .mov, .notes, .pwr, .obj 0x0406, .obj 0x0C06, .obj 0x1106] : List Part), p.within ps = true) : Touches ps r (spectrumMissed s0 a0 a1) := by
  unfold spectrumMissed
  repeat' first
    | with_reducible assumption | with_reducible refine touches_raise_plain ?_ (by decide) _ _ _ ?_
    | with_reducible refine touches_raiseDetail_plain ?_ (by decide) _ _ _ _ ?_
    | with_reducible refine touches_raise_plain ?_ (by split <;> decide) _ _ _ ?_
    | with_reducible apply touches_setChz | with_reducible apply touches_bump
    | with_reducible apply touches_sendDescriptor | with_reducible apply touches_wrPairs
    | with_reducible refine Touches.foldl _ _ ?_ (fun _ _ _ => ?_) | split | fail_if_no_progress extract_lets
    | dsimp +zetaDelta only | refine List.forall_mem_cons.2 ⟨?_, ?_⟩ | exact List.forall_mem_nil _
    | exact sub hp (by decide) | exact hp _ (by decide) | exact ⟨by decide, hp _ (by decide)⟩

theorem touches_dropOverdue {ps : List Part} {r s0 : State} (h : Touches ps r s0) (a0 : Bool)
    (hp : ∀ p ∈ ([.chz, .flt, .mov, .notes, .pwr, .obj 0x0406, .obj 0x0C06, .obj 0x1106] : List Part), p.within ps = true) : Touches ps r (dropOverdue s0 a0) := by
  unfold dropOverdue
  repeat' first
    | with_reducible assumption | with_reducible apply touches_spectrumMissed
    | with_reducible apply touches_wrPairs | with_reducible refine Touches.foldl _ _ ?_ (fun _ _ _ => ?_)
    | split

theorem touches_applyEq {ps : List Part} {r s0 : State} (h : Touches ps r s0) (a0 : EqChange)
    (hp : ∀ p ∈ ([.chz] : List Part), p.within ps = true) : Touches ps r (applyEq s0 a0) := by
  unfold applyEq
  repeat' first
    | with_reducible assumption | with_reducible apply touches_setChz | with_reducible apply touches_wrPairs
    | with_reducible refine Touches.foldl _ _ ?_ (fun _ _ _ => ?_) | split | fail_if_no_progress extract_lets
    | dsimp +zetaDelta only | refine List.forall_mem_cons.2 ⟨?_, ?_⟩ | exact List.forall_mem_nil _
    | exact sub hp (by decide) | exact hp _ (by decide)

theorem touches_applyEqWhere {ps : List Part} {r s0 : State} (h : Touches ps r s0) (a0 : EqChange → Bool)
    (hp : ∀ p ∈ ([.chz, .flt, .obj 0x0406] : List Part), p.within ps = true) : Touches ps r (applyEqWhere s0 a0) := by
  unfold applyEqWhere
  repeat' first
    | with_reducible assumption | with_reducible apply touches_applyEq | with_reducible apply touches_setChz
    | with_reducible apply touches_wr | with_reducible apply touches_endFault
    | with_reducible apply touches_wrPairs | with_reducible refine Touches.foldl _ _ ?_ (fun _ _ _ => ?_)
    | split | fail_if_no_progress extract_lets | dsimp +zetaDelta only | refine List.forall_mem_cons.2 ⟨?_, ?_⟩
    | exact List.forall_mem_nil _ | exact sub hp (by decide) | exact hp _ (by decide)
    | exact ⟨by decide, hp _ (by decide)⟩

theorem touches_showMask {ps : List Part} {r s0 : State} (h : Touches ps r s0)
    (hp : ∀ p ∈ ([.obj 0x0406] : List Part), p.within ps = true) : Touches ps r (showMask s0) := by
  unfold showMask
  repeat' first
    | with_reducible assumption | with_reducible apply touches_wr | with_reducible apply touches_wrPairs
    | with_reducible refine Touches.foldl _ _ ?_ (fun _ _ _ => ?_) | split | fail_if_no_progress extract_lets
    | dsimp +zetaDelta only | refine List.forall_mem_cons.2 ⟨?_, ?_⟩ | exact List.forall_mem_nil _
    | exact sub hp (by decide) | exact hp _ (by decide) | exact ⟨by decide, hp _ (by decide)⟩

theorem touches_maskWritten {ps : List Part} {r s0 : State} (h : Touches ps r s0)
    (hp : ∀ p ∈ ([.chz, .obj 0x0406] : List Part), p.within ps = true) : Touches ps r (maskWritten s0) := by
  unfold maskWritten
  repeat' first
    | with_reducible assumption | with_reducible apply touches_showMask | with_reducible apply touches_setChz
    | with_reducible apply touches_wrPairs | with_reducible refine Touches.foldl _ _ ?_ (fun _ _ _ => ?_)
    | split | fail_if_no_progress extract_lets | dsimp +zetaDelta only | refine List.forall_mem_cons.2 ⟨?_, ?_⟩
    | exact List.forall_mem_nil _ | exact sub hp (by decide) | exact hp _ (by decide)

theorem touches_dahNoteMask {ps : List Part} {r s0 : State} (h : Touches ps r s0) (a0 : Nat)
    (hp : ∀ p ∈ ([.dah] : List Part), p.within ps = true) : Touches ps r (dahNoteMask s0 a0) := by
  unfold dahNoteMask
  repeat' first
    | with_reducible assumption | with_reducible apply touches_wrPairs
    | with_reducible refine Touches.foldl _ _ ?_ (fun _ _ _ => ?_) | split | fail_if_no_progress extract_lets
    | with_reducible apply touches_part_dah | dsimp +zetaDelta only | refine List.forall_mem_cons.2 ⟨?_, ?_⟩
    | exact List.forall_mem_nil _ | exact sub hp (by decide) | exact hp _ (by decide)

theorem touches_dahNoteEq {ps : List Part} {r s0 : State} (h : Touches ps r s0) (a0 : Nat)
    (hp : ∀ p ∈ ([.dah] : List Part), p.within ps = true) : Touches ps r (dahNoteEq s0 a0) := by
  unfold dahNoteEq
  repeat' first
    | with_reducible assumption | with_reducible apply touches_wrPairs
    | with_reducible refine Touches.foldl _ _ ?_ (fun _ _ _ => ?_) | split | fail_if_no_progress extract_lets
    | with_reducible apply touches_part_dah | dsimp +zetaDelta only | refine List.forall_mem_cons.2 ⟨?_, ?_⟩
    | exact List.forall_mem_nil _ | exact sub hp (by decide) | exact hp _ (by decide)

theorem touches_sunNoteMask {ps : List Part} {r s0 : State} (h : Touches ps r s0) (a0 : Nat)
    (hp : ∀ p ∈ ([.sun] : List Part), p.within ps = true) : Touches ps r (sunNoteMask s0 a0) := by
  unfold sunNoteMask
  repeat' first
    | with_reducible assumption | with_reducible apply touches_wrPairs
    | with_reducible refine Touches.foldl _ _ ?_ (fun _ _ _ => ?_) | split | fail_if_no_progress extract_lets
    | with_reducible apply touches_part_sun | dsimp +zetaDelta only | refine List.forall_mem_cons.2 ⟨?_, ?_⟩
    | exact List.forall_mem_nil _ | exact sub hp (by decide) | exact hp _ (by decide)

theorem touches_sunNoteEq {ps : List Part} {r s0 : State} (h : Touches ps r s0) (a0 : Nat)
    (hp : ∀ p ∈ ([.sun] : List Part), p.within ps = true) : Touches ps r (sunNoteEq s0 a0) := by
  unfold sunNoteEq
  repeat' first
    | with_reducible assumption | with_reducible apply touches_wrPairs
    | with_reducible refine Touches.foldl _ _ ?_ (fun _ _ _ => ?_) | split | fail_if_no_progress extract_lets
    | with_reducible apply touches_part_sun | dsimp +zetaDelta only | refine List.forall_mem_cons.2 ⟨?_, ?_⟩
    | exact List.forall_mem_nil _ | exact sub hp (by decide) | exact hp _ (by decide)

theorem touches_eqBoundary {ps : List Part} {r s0 : State} (h : Touches ps r s0) (a0 : Nat)
    (hp : ∀ p ∈ ([.chz, .dah, .flt, .sun, .obj 0x0406] : List Part), p.within ps = true) : Touches ps r (eqBoundary s0 a0) := by
  unfold eqBoundary
  repeat' first
    | with_reducible assumption | with_reducible apply touches_sunNoteEq
    | with_reducible apply touches_dahNoteEq | with_reducible apply touches_applyEqWhere
    | with_reducible apply touches_wrPairs | with_reducible refine Touches.foldl _ _ ?_ (fun _ _ _ => ?_)
    | split | fail_if_no_progress extract_lets | dsimp +zetaDelta only | refine List.forall_mem_cons.2 ⟨?_, ?_⟩
    | exact List.forall_mem_nil _ | exact sub hp (by decide) | exact hp _ (by decide)

theorem touches_maskBoundary {ps : List Part} {r s0 : State} (h : Touches ps r s0) (a0 : Nat)
    (hp : ∀ p ∈ ([.chz, .dah, .live, .sun, .obj 0x0406] : List Part), p.within ps = true) : Touches ps r (maskBoundary s0 a0) := by
  unfold maskBoundary
  repeat' first
    | with_reducible assumption | with_reducible apply touches_dahNoteMask
    | with_reducible apply touches_setLive | with_reducible apply touches_sunNoteMask
    | with_reducible apply touches_showMask | with_reducible apply touches_setChz
    | with_reducible apply touches_wrPairs | with_reducible refine Touches.foldl _ _ ?_ (fun _ _ _ => ?_)
    | split | fail_if_no_progress extract_lets | dsimp +zetaDelta only | refine List.forall_mem_cons.2 ⟨?_, ?_⟩
    | exact List.forall_mem_nil _ | exact sub hp (by decide) | exact hp _ (by decide)

theorem touches_idleChanges {ps : List Part} {r s0 : State} (h : Touches ps r s0)
    (hp : ∀ p ∈ ([.chz, .flt, .live, .obj 0x0406] : List Part), p.within ps = true) : Touches ps r (idleChanges s0) := by
  unfold idleChanges
  repeat' first
    | with_reducible assumption | with_reducible apply touches_latch | with_reducible apply touches_applyEqWhere
    | with_reducible apply touches_showMask | with_reducible apply touches_setChz
    | with_reducible apply touches_wrFields | with_reducible apply touches_wrPairs
    | with_reducible refine Touches.foldl _ _ ?_ (fun _ _ _ => ?_) | split | fail_if_no_progress extract_lets
    | dsimp +zetaDelta only | refine List.forall_mem_cons.2 ⟨?_, ?_⟩ | exact List.forall_mem_nil _
    | exact sub hp (by decide) | exact hp _ (by decide)

theorem touches_chzBlockCounts {ps : List Part} {r s0 : State} (h : Touches ps r s0) (a0 : Nat)
    (hp : ∀ p ∈ ([.chz, .flt, .notes, .obj 0x0401, .obj 0x0404, .obj 0x0405, .obj 0x0C06] : List Part), p.within ps = true) : Touches ps r (chzBlockCounts s0 a0) := by
  unfold chzBlockCounts
  repeat' first
    | with_reducible assumption | with_reducible refine touches_raise_plain ?_ (by decide) _ _ _ ?_
    | with_reducible refine touches_raiseDetail_plain ?_ (by decide) _ _ _ _ ?_
    | with_reducible refine touches_raise_plain ?_ (by split <;> decide) _ _ _ ?_
    | with_reducible apply touches_wr | with_reducible apply touches_setChz
    | with_reducible apply touches_wrPairs | with_reducible refine Touches.foldl _ _ ?_ (fun _ _ _ => ?_)
    | split | fail_if_no_progress extract_lets | dsimp +zetaDelta only | refine List.forall_mem_cons.2 ⟨?_, ?_⟩
    | exact List.forall_mem_nil _ | exact sub hp (by decide) | exact hp _ (by decide)
    | exact ⟨by decide, hp _ (by decide)⟩

theorem touches_chzHalt {ps : List Part} {r s0 : State} (h : Touches ps r s0)
    (hp : ∀ p ∈ ([.chz] : List Part), p.within ps = true) : Touches ps r (chzHalt s0) := by
  unfold chzHalt
  repeat' first
    | with_reducible assumption | with_reducible apply touches_setChz | with_reducible apply touches_wrPairs
    | with_reducible refine Touches.foldl _ _ ?_ (fun _ _ _ => ?_) | split | fail_if_no_progress extract_lets
    | dsimp +zetaDelta only | refine List.forall_mem_cons.2 ⟨?_, ?_⟩ | exact List.forall_mem_nil _
    | exact sub hp (by decide) | exact hp _ (by decide)

theorem touches_chzStart {ps : List Part} {r s0 : State} (h : Touches ps r s0)
    (hp : ∀ p ∈ ([.chz] : List Part), p.within ps = true) : Touches ps r (chzStart s0) := by
  unfold chzStart
  repeat' first
    | with_reducible assumption | with_reducible apply touches_setChz | with_reducible apply touches_wrPairs
    | with_reducible refine Touches.foldl _ _ ?_ (fun _ _ _ => ?_) | split | fail_if_no_progress extract_lets
    | dsimp +zetaDelta only | refine List.forall_mem_cons.2 ⟨?_, ?_⟩ | exact List.forall_mem_nil _
    | exact sub hp (by decide) | exact hp _ (by decide)

theorem touches_chzStop {ps : List Part} {r s0 : State} (h : Touches ps r s0)
    (hp : ∀ p ∈ ([.chz] : List Part), p.within ps = true) : Touches ps r (chzStop s0) := by
  unfold chzStop
  repeat' first
    | with_reducible assumption | with_reducible apply touches_chzHalt | with_reducible apply touches_setChz
    | with_reducible apply touches_wrPairs | with_reducible refine Touches.foldl _ _ ?_ (fun _ _ _ => ?_)
    | split | fail_if_no_progress extract_lets | dsimp +zetaDelta only | refine List.forall_mem_cons.2 ⟨?_, ?_⟩
    | exact List.forall_mem_nil _ | exact sub hp (by decide) | exact hp _ (by decide)

end Sys2Proof
end

