-- ==== Sys2Proof/Laws/Injectors.lean ====
section
/-! SUPPORT. What each operation of `Machine/Injectors.lean` may change. -/

namespace Sys2Proof

open Sys2Proof.Machine

theorem touches_calFrame {ps : List Part} {r s0 : State} (h : Touches ps r s0)
    (hp : ∀ p ∈ ([.cal, .obj 0x1304] : List Part), p.within ps = true) : Touches ps r (calFrame s0) := by
  unfold calFrame
  repeat' first
    | with_reducible assumption | with_reducible apply touches_setCal | with_reducible apply touches_wr
    | with_reducible apply touches_wrPairs | with_reducible refine Touches.foldl _ _ ?_ (fun _ _ _ => ?_)
    | split | fail_if_no_progress extract_lets | dsimp +zetaDelta only | refine List.forall_mem_cons.2 ⟨?_, ?_⟩
    | exact List.forall_mem_nil _ | exact sub hp (by decide) | exact hp _ (by decide)
    | exact ⟨by decide, hp _ (by decide)⟩

theorem touches_stringStop {ps : List Part} {r s0 : State} (h : Touches ps r s0) (a0 : Nat)
    (hp : ∀ p ∈ ([.cal, .out, .pwr, .obj 0x0A04, .obj 0x1304] : List Part), p.within ps = true) : Touches ps r (stringStop s0 a0) := by
  unfold stringStop
  repeat' first
    | with_reducible assumption | with_reducible apply touches_setString | with_reducible apply touches_wr
    | with_reducible apply touches_setCal | with_reducible apply touches_demandDown
    | with_reducible apply touches_emit | with_reducible apply touches_wrPairs
    | with_reducible refine Touches.foldl _ _ ?_ (fun _ _ _ => ?_) | split | fail_if_no_progress extract_lets
    | dsimp +zetaDelta only | refine List.forall_mem_cons.2 ⟨?_, ?_⟩ | exact List.forall_mem_nil _
    | exact sub hp (by decide) | exact hp _ (by decide) | exact ⟨by decide, hp _ (by decide)⟩

theorem touches_stringStart {ps : List Part} {r s0 : State} (h : Touches ps r s0) (a0 : Nat)
    (hp : ∀ p ∈ ([.cal, .out, .pwr, .obj 0x0A04, .obj 0x1011, .obj 0x1304] : List Part), p.within ps = true) : Touches ps r (stringStart s0 a0) := by
  unfold stringStart
  repeat' first
    | with_reducible assumption | with_reducible apply touches_wr | with_reducible apply touches_setString
    | with_reducible apply touches_setCal | with_reducible apply touches_domUp
    | with_reducible apply touches_emit | with_reducible apply touches_wrPairs
    | with_reducible refine Touches.foldl _ _ ?_ (fun _ _ _ => ?_) | split | fail_if_no_progress extract_lets
    | dsimp +zetaDelta only | refine List.forall_mem_cons.2 ⟨?_, ?_⟩ | exact List.forall_mem_nil _
    | exact sub hp (by decide) | exact hp _ (by decide) | exact ⟨by decide, hp _ (by decide)⟩

theorem touches_planStart {ps : List Part} {r s0 : State} (h : Touches ps r s0) (a0 : Nat)
    (hp : ∀ p ∈ ([.cal, .out, .pwr, .obj 0x0A04, .obj 0x1011, .obj 0x1304] : List Part), p.within ps = true) : Touches ps r (planStart s0 a0) := by
  unfold planStart
  repeat' first
    | with_reducible assumption | with_reducible apply touches_stringStart
    | with_reducible apply touches_wrPairs | with_reducible refine Touches.foldl _ _ ?_ (fun _ _ _ => ?_)
    | split

theorem touches_stringEnds {ps : List Part} {r s0 : State} (h : Touches ps r s0) (a0 : Nat)
    (hp : ∀ p ∈ ([.cal, .out, .pwr, .obj 0x0A04, .obj 0x1304] : List Part), p.within ps = true) : Touches ps r (stringEnds s0 a0) := by
  unfold stringEnds
  repeat' first
    | with_reducible assumption | with_reducible apply touches_setString | with_reducible apply touches_wr
    | with_reducible apply touches_stringStop | with_reducible apply touches_wrPairs
    | with_reducible refine Touches.foldl _ _ ?_ (fun _ _ _ => ?_) | split | fail_if_no_progress extract_lets
    | dsimp +zetaDelta only | refine List.forall_mem_cons.2 ⟨?_, ?_⟩ | exact List.forall_mem_nil _
    | exact sub hp (by decide) | exact hp _ (by decide) | exact ⟨by decide, hp _ (by decide)⟩

theorem touches_stringsEnd {ps : List Part} {r s0 : State} (h : Touches ps r s0) (a0 : Nat)
    (hp : ∀ p ∈ ([.cal, .out, .pwr, .obj 0x0A04, .obj 0x1304] : List Part), p.within ps = true) : Touches ps r (stringsEnd s0 a0) := by
  unfold stringsEnd
  repeat' first
    | with_reducible assumption | with_reducible apply touches_stringEnds | with_reducible apply touches_wrPairs
    | with_reducible refine Touches.foldl _ _ ?_ (fun _ _ _ => ?_) | split

theorem touches_stringDisable {ps : List Part} {r s0 : State} (h : Touches ps r s0) (a0 : Nat)
    (hp : ∀ p ∈ ([.cal, .live, .out, .pwr, .obj 0x0A04, .obj 0x1301, .obj 0x1304] : List Part), p.within ps = true) : Touches ps r (stringDisable s0 a0) := by
  unfold stringDisable
  repeat' first
    | with_reducible assumption | with_reducible apply touches_setLive | with_reducible apply touches_wr
    | with_reducible apply touches_stringStop | with_reducible apply touches_setString
    | with_reducible apply touches_wrPairs | with_reducible refine Touches.foldl _ _ ?_ (fun _ _ _ => ?_)
    | split | fail_if_no_progress extract_lets | dsimp +zetaDelta only | refine List.forall_mem_cons.2 ⟨?_, ?_⟩
    | exact List.forall_mem_nil _ | exact sub hp (by decide) | exact hp _ (by decide)
    | exact ⟨by decide, hp _ (by decide)⟩

theorem touches_stringAgain {ps : List Part} {r s0 : State} (h : Touches ps r s0) (a0 : Nat)
    (hp : ∀ p ∈ ([.cal, .out, .pwr, .obj 0x0A04, .obj 0x1011, .obj 0x1304] : List Part), p.within ps = true) : Touches ps r (stringAgain s0 a0) := by
  unfold stringAgain
  repeat' first
    | with_reducible assumption | with_reducible apply touches_setString
    | with_reducible apply touches_stringStart | with_reducible apply touches_wr
    | with_reducible apply touches_wrPairs | with_reducible refine Touches.foldl _ _ ?_ (fun _ _ _ => ?_)
    | split | fail_if_no_progress extract_lets | dsimp +zetaDelta only | refine List.forall_mem_cons.2 ⟨?_, ?_⟩
    | exact List.forall_mem_nil _ | exact sub hp (by decide) | exact hp _ (by decide)
    | exact ⟨by decide, hp _ (by decide)⟩

theorem touches_derate {ps : List Part} {r s0 : State} (h : Touches ps r s0) (a0 : Nat)
    (hp : ∀ p ∈ ([.flt, .notes, .obj 0x0C06, .obj 0x1304] : List Part), p.within ps = true) : Touches ps r (derate s0 a0) := by
  unfold derate
  repeat' first
    | with_reducible assumption | with_reducible refine touches_raise_plain ?_ (by decide) _ _ _ ?_
    | with_reducible refine touches_raiseDetail_plain ?_ (by decide) _ _ _ _ ?_
    | with_reducible refine touches_raise_plain ?_ (by split <;> decide) _ _ _ ?_
    | with_reducible apply touches_wr | with_reducible apply touches_clearFault
    | with_reducible apply touches_wrPairs | with_reducible refine Touches.foldl _ _ ?_ (fun _ _ _ => ?_)
    | split | fail_if_no_progress extract_lets | dsimp +zetaDelta only | refine List.forall_mem_cons.2 ⟨?_, ?_⟩
    | exact List.forall_mem_nil _ | exact sub hp (by decide) | exact hp _ (by decide)
    | exact ⟨by decide, hp _ (by decide)⟩

theorem touches_stringFault {ps : List Part} {r s0 : State} (h : Touches ps r s0) {a1 : Nat} (hs : severityOf a1 ≠ 3)
    (a0 a2 a3 : Nat) (hp : ∀ p ∈ ([.cal, .flt, .notes, .out, .pwr, .obj 0x0A04, .obj 0x0C06, .obj 0x1304] : List Part), p.within ps = true) : Touches ps r (stringFault s0 a0 a1 a2 a3) :=
  touches_raiseDetail_plain (touches_setString (touches_wr (touches_stringStop h _ (sub hp (by decide))) _ _ _
    ⟨by decide, hp _ (by decide)⟩) _ _ (hp _ (by decide))) hs _ _ _ _ (sub hp (by decide))

theorem touches_judgedGood {ps : List Part} {r s0 : State} (h : Touches ps r s0) (a0 : Nat) (a1 : Nat)
    (hp : ∀ p ∈ ([.cal, .flt, .obj 0x1304] : List Part), p.within ps = true) : Touches ps r (judgedGood s0 a0 a1) := by
  unfold judgedGood
  repeat' first
    | with_reducible assumption | with_reducible apply touches_setString | with_reducible apply touches_wr
    | with_reducible apply touches_endFault | with_reducible apply touches_wrPairs
    | with_reducible refine Touches.foldl _ _ ?_ (fun _ _ _ => ?_) | split | fail_if_no_progress extract_lets
    | dsimp +zetaDelta only | refine List.forall_mem_cons.2 ⟨?_, ?_⟩ | exact List.forall_mem_nil _
    | exact sub hp (by decide) | exact hp _ (by decide) | exact ⟨by decide, hp _ (by decide)⟩

theorem touches_judgedBad {ps : List Part} {r s0 : State} (h : Touches ps r s0) (a0 : Nat) (a1 : Nat) (a2 : Nat)
    (hp : ∀ p ∈ ([.cal, .flt, .notes, .out, .pwr, .obj 0x0A04, .obj 0x0C06, .obj 0x1304] : List Part), p.within ps = true) : Touches ps r (judgedBad s0 a0 a1 a2) := by
  unfold judgedBad
  repeat' first
    | with_reducible assumption | with_reducible apply touches_setString | with_reducible apply touches_wr
    | with_reducible refine touches_stringFault ?_ (by decide) _ _ _ ?_
    | with_reducible refine touches_stringFault ?_ (by split <;> decide) _ _ _ ?_
    | with_reducible refine touches_stringFault ?_ (accessError_plain ‹_›) _ _ _ ?_
    | with_reducible apply touches_wrPairs | with_reducible refine Touches.foldl _ _ ?_ (fun _ _ _ => ?_)
    | split | fail_if_no_progress extract_lets | dsimp +zetaDelta only | refine List.forall_mem_cons.2 ⟨?_, ?_⟩
    | exact List.forall_mem_nil _ | exact sub hp (by decide) | exact hp _ (by decide)
    | exact ⟨by decide, hp _ (by decide)⟩

theorem touches_stringsAtBlock {ps : List Part} {r s0 : State} (h : Touches ps r s0)
    (hp : ∀ p ∈ ([.cal, .flt, .notes, .out, .pwr, .obj 0x0A04, .obj 0x0C06, .obj 0x1304] : List Part), p.within ps = true) : Touches ps r (stringsAtBlock s0) := by
  unfold stringsAtBlock
  repeat' first
    | with_reducible assumption | with_reducible apply touches_derate | with_reducible apply touches_setString
    | with_reducible apply touches_wr | with_reducible apply touches_stringStop
    | with_reducible apply touches_wrPairs | with_reducible refine Touches.foldl _ _ ?_ (fun _ _ _ => ?_)
    | split | fail_if_no_progress extract_lets | dsimp +zetaDelta only | refine List.forall_mem_cons.2 ⟨?_, ?_⟩
    | exact List.forall_mem_nil _ | exact sub hp (by decide) | exact hp _ (by decide)
    | exact ⟨by decide, hp _ (by decide)⟩

theorem touches_calBlock {ps : List Part} {r s0 : State} (h : Touches ps r s0)
    (hp : ∀ p ∈ ([.cal, .flt, .live, .notes, .out, .pwr, .obj 0x0A04, .obj 0x0C06, .obj 0x1011, .obj 0x1304] : List Part), p.within ps = true) : Touches ps r (calBlock s0) := by
  unfold calBlock
  repeat' first
    | with_reducible assumption | with_reducible apply touches_latch | with_reducible apply touches_stringAgain
    | with_reducible apply touches_calFrame | with_reducible apply touches_stringsAtBlock
    | with_reducible apply touches_wrFields | with_reducible apply touches_wrPairs
    | with_reducible refine Touches.foldl _ _ ?_ (fun _ _ _ => ?_) | split | fail_if_no_progress extract_lets
    | dsimp +zetaDelta only | refine List.forall_mem_cons.2 ⟨?_, ?_⟩ | exact List.forall_mem_nil _
    | exact sub hp (by decide) | exact hp _ (by decide)

end Sys2Proof
end

