-- ==== Sys2Proof/Laws/Dahlia.lean ====
section
/-! SUPPORT. What each operation of `Machine/Dahlia.lean` may change. -/

namespace Sys2Proof

open Sys2Proof.Machine

theorem touches_acceptStart {ps : List Part} {r s0 : State} (h : Touches ps r s0) (a0 : Nat)
    (hp : ∀ p ∈ ([.dah, .obj 0x0705] : List Part), p.within ps = true) : Touches ps r (acceptStart s0 a0) := by
  unfold acceptStart
  repeat' first
    | with_reducible assumption | with_reducible apply touches_wr | with_reducible apply touches_setDah
    | with_reducible apply touches_wrPairs | with_reducible refine Touches.foldl _ _ ?_ (fun _ _ _ => ?_)
    | split | fail_if_no_progress extract_lets | dsimp +zetaDelta only | refine List.forall_mem_cons.2 ⟨?_, ?_⟩
    | exact List.forall_mem_nil _ | exact sub hp (by decide) | exact hp _ (by decide)
    | exact ⟨by decide, hp _ (by decide)⟩

theorem touches_pruneBefore {ps : List Part} {r s0 : State} (h : Touches ps r s0) (a0 : Nat)
    (hp : ∀ p ∈ ([.dah] : List Part), p.within ps = true) : Touches ps r (pruneBefore s0 a0) := by
  unfold pruneBefore
  repeat' first
    | with_reducible assumption | with_reducible apply touches_setDah | with_reducible apply touches_wrPairs
    | with_reducible refine Touches.foldl _ _ ?_ (fun _ _ _ => ?_) | split | fail_if_no_progress extract_lets
    | dsimp +zetaDelta only | refine List.forall_mem_cons.2 ⟨?_, ?_⟩ | exact List.forall_mem_nil _
    | exact sub hp (by decide) | exact hp _ (by decide)

theorem touches_holdBase {ps : List Part} {r s0 : State} (h : Touches ps r s0) (a0 : DahSeq) (a1 : Nat)
    (hp : ∀ p ∈ ([.dah] : List Part), p.within ps = true) : Touches ps r (holdBase s0 a0 a1) := by
  unfold holdBase
  repeat' first
    | with_reducible assumption | with_reducible apply touches_setDah | with_reducible apply touches_wrPairs
    | with_reducible refine Touches.foldl _ _ ?_ (fun _ _ _ => ?_) | split | fail_if_no_progress extract_lets
    | dsimp +zetaDelta only | refine List.forall_mem_cons.2 ⟨?_, ?_⟩ | exact List.forall_mem_nil _
    | exact sub hp (by decide) | exact hp _ (by decide)

theorem touches_queueDump {ps : List Part} {r s0 : State} (h : Touches ps r s0) (a0 : DumpRecord)
    (hp : ∀ p ∈ ([.dah, .mov, .pwr, .obj 0x0705, .obj 0x1106] : List Part), p.within ps = true) : Touches ps r (queueDump s0 a0) := by
  unfold queueDump
  repeat' first
    | with_reducible assumption | with_reducible apply touches_bump | with_reducible apply touches_clockStarts
    | with_reducible apply touches_setDah | with_reducible apply touches_wrPairs
    | with_reducible refine Touches.foldl _ _ ?_ (fun _ _ _ => ?_) | split | fail_if_no_progress extract_lets
    | dsimp +zetaDelta only | refine List.forall_mem_cons.2 ⟨?_, ?_⟩ | exact List.forall_mem_nil _
    | exact sub hp (by decide) | exact hp _ (by decide) | exact ⟨by decide, hp _ (by decide)⟩

theorem touches_dumpTaken {ps : List Part} {r s0 : State} (h : Touches ps r s0)
    (hp : ∀ p ∈ ([.dah] : List Part), p.within ps = true) : Touches ps r (dumpTaken s0) := by
  unfold dumpTaken
  repeat' first
    | with_reducible assumption | with_reducible apply touches_setDah | with_reducible apply touches_wrPairs
    | with_reducible refine Touches.foldl _ _ ?_ (fun _ _ _ => ?_) | split | fail_if_no_progress extract_lets
    | dsimp +zetaDelta only | refine List.forall_mem_cons.2 ⟨?_, ?_⟩ | exact List.forall_mem_nil _
    | exact sub hp (by decide) | exact hp _ (by decide)

theorem touches_dumpPack {ps : List Part} {r : State} {s0 : Batch} (h : Touches ps r s0.1) (a0 : DahSeq) (a1 : Nat) (a2 : Nat) (a3 : Span) (a4 : Bool) (a5 : Bool)
    (hp : ∀ p ∈ ([.dah, .obj 0x0705] : List Part), p.within ps = true) : Touches ps r (dumpPack s0 a0 a1 a2 a3 a4 a5).1 := by
  unfold dumpPack
  repeat' first
    | with_reducible assumption | with_reducible apply touches_holdBase | with_reducible apply touches_bump
    | with_reducible apply touches_wrPairs | with_reducible refine Touches.foldl _ _ ?_ (fun _ _ _ => ?_)
    | with_reducible refine Touches.foldlFst _ _ ?_ (fun _ _ _ => ?_) | split | fail_if_no_progress extract_lets
    | dsimp +zetaDelta only | refine List.forall_mem_cons.2 ⟨?_, ?_⟩ | exact List.forall_mem_nil _
    | exact sub hp (by decide) | exact hp _ (by decide) | exact ⟨by decide, hp _ (by decide)⟩

theorem touches_dumpEmpty {ps : List Part} {r : State} {s0 : Batch} (h : Touches ps r s0.1) (a0 : DahSeq) (a1 : Nat) (a2 : Nat) (a3 : Span) (a4 : Bool) (a5 : Bool)
    (hp : ∀ p ∈ ([.dah, .flt, .notes, .obj 0x0C06] : List Part), p.within ps = true) : Touches ps r (dumpEmpty s0 a0 a1 a2 a3 a4 a5).1 := by
  unfold dumpEmpty
  repeat' first
    | with_reducible assumption | with_reducible refine touches_raise_plain ?_ (by decide) _ _ _ ?_
    | with_reducible refine touches_raiseDetail_plain ?_ (by decide) _ _ _ _ ?_
    | with_reducible refine touches_raise_plain ?_ (by split <;> decide) _ _ _ ?_
    | with_reducible apply touches_holdBase | with_reducible apply touches_setDah
    | with_reducible apply touches_wrPairs | with_reducible refine Touches.foldl _ _ ?_ (fun _ _ _ => ?_)
    | with_reducible refine Touches.foldlFst _ _ ?_ (fun _ _ _ => ?_) | split | fail_if_no_progress extract_lets
    | dsimp +zetaDelta only | refine List.forall_mem_cons.2 ⟨?_, ?_⟩ | exact List.forall_mem_nil _
    | exact sub hp (by decide) | exact hp _ (by decide)

theorem touches_dumpSummary {ps : List Part} {r : State} {s0 : Batch} (h : Touches ps r s0.1) (a0 : DahSeq) (a1 : Nat) (a2 : Span) (a3 : Span) (a4 : Bool)
    (hp : ∀ p ∈ ([.dah, .flt, .notes, .obj 0x0C06] : List Part), p.within ps = true) : Touches ps r (dumpSummary s0 a0 a1 a2 a3 a4).1 := by
  unfold dumpSummary
  repeat' first
    | with_reducible assumption | with_reducible apply touches_holdBase
    | with_reducible apply touches_clearFault | with_reducible apply touches_setDah
    | with_reducible apply touches_pruneBefore | with_reducible apply touches_wrPairs
    | with_reducible refine Touches.foldl _ _ ?_ (fun _ _ _ => ?_)
    | with_reducible refine Touches.foldlFst _ _ ?_ (fun _ _ _ => ?_) | split | fail_if_no_progress extract_lets
    | dsimp +zetaDelta only | refine List.forall_mem_cons.2 ⟨?_, ?_⟩ | exact List.forall_mem_nil _
    | exact sub hp (by decide) | exact hp _ (by decide)

theorem touches_queueBatch {ps : List Part} {r : State} {s0 : Batch} (h : Touches ps r s0.1)
    (hp : ∀ p ∈ ([.dah, .mov, .pwr, .obj 0x0705, .obj 0x1106] : List Part), p.within ps = true) : Touches ps r (queueBatch s0) := by
  unfold queueBatch
  repeat' first
    | with_reducible assumption | with_reducible apply touches_queueDump | with_reducible apply touches_wrPairs
    | with_reducible refine Touches.foldl _ _ ?_ (fun _ _ _ => ?_)

theorem touches_packFresh {ps : List Part} {r s0 : State} (h : Touches ps r s0) (a0 : DahSeq) (a1 : Nat)
    (hp : ∀ p ∈ ([.fst] : List Part), p.within ps = true) : Touches ps r (packFresh s0 a0 a1) := by
  unfold packFresh
  repeat' first
    | with_reducible assumption | with_reducible apply touches_wrPairs
    | with_reducible refine Touches.foldl _ _ ?_ (fun _ _ _ => ?_) | split | fail_if_no_progress extract_lets
    | with_reducible apply touches_part_fst | dsimp +zetaDelta only | refine List.forall_mem_cons.2 ⟨?_, ?_⟩
    | exact List.forall_mem_nil _ | exact sub hp (by decide) | exact hp _ (by decide)

theorem touches_packAdd {ps : List Part} {r s0 : State} (h : Touches ps r s0) (a0 : DahSeq) (a1 : Nat) (a2 : GroupIn) (a3 : List (Nat × Nat × Nat)) (a4 : Bool)
    (hp : ∀ p ∈ ([.dah, .fst] : List Part), p.within ps = true) : Touches ps r (packAdd s0 a0 a1 a2 a3 a4) := by
  unfold packAdd
  repeat' first
    | with_reducible assumption | with_reducible apply touches_setDah | with_reducible apply touches_packFresh
    | with_reducible apply touches_wrPairs | with_reducible refine Touches.foldl _ _ ?_ (fun _ _ _ => ?_)
    | split | fail_if_no_progress extract_lets | dsimp +zetaDelta only | refine List.forall_mem_cons.2 ⟨?_, ?_⟩
    | exact List.forall_mem_nil _ | exact sub hp (by decide) | exact hp _ (by decide)

theorem touches_leaveRun {ps : List Part} {r : State} {s0 : Batch} (h : Touches ps r s0.1) (a0 : Nat) (a1 : DahSeq) (a2 : Nat) (a3 : Nat) (a4 : Bool) (a5 : Bool)
    (hp : ∀ p ∈ ([.dah, .flt, .notes, .obj 0x0705, .obj 0x0C06] : List Part), p.within ps = true) : Touches ps r (leaveRun a0 s0 a1 a2 a3 a4 a5).1 := by
  induction a0 generalizing s0 a1 a2 a3 a4 a5 with
  | zero =>
    unfold leaveRun
    repeat' first
      | with_reducible assumption
  | succ fuel ih =>
    unfold leaveRun
    repeat' first
      | with_reducible assumption | apply ih | with_reducible apply touches_dumpPack
      | with_reducible apply touches_dumpEmpty | with_reducible apply touches_dumpSummary
      | with_reducible apply touches_wrPairs | with_reducible refine Touches.foldl _ _ ?_ (fun _ _ _ => ?_)
      | with_reducible refine Touches.foldlFst _ _ ?_ (fun _ _ _ => ?_) | split
      | fail_if_no_progress extract_lets | dsimp +zetaDelta only | refine List.forall_mem_cons.2 ⟨?_, ?_⟩
      | exact List.forall_mem_nil _ | exact sub hp (by decide) | exact hp _ (by decide)

theorem touches_leaveSeq {ps : List Part} {r : State} {s0 : Batch} (h : Touches ps r s0.1) (a0 : Bool) (a1 : Nat) (a2 : DahSeq)
    (hp : ∀ p ∈ ([.dah, .flt, .notes, .obj 0x0705, .obj 0x0C06] : List Part), p.within ps = true) : Touches ps r (leaveSeq a0 a1 s0 a2).1 := by
  unfold leaveSeq
  repeat' first
    | with_reducible assumption | with_reducible apply touches_leaveRun | with_reducible apply touches_wrPairs
    | with_reducible refine Touches.foldl _ _ ?_ (fun _ _ _ => ?_)
    | with_reducible refine Touches.foldlFst _ _ ?_ (fun _ _ _ => ?_) | split

theorem touches_rollover {ps : List Part} {r : State} {s0 : Batch} (h : Touches ps r s0.1) (a0 : DahSeq) (a1 : Nat) (a2 : Nat)
    (hp : ∀ p ∈ ([.dah, .flt, .notes, .obj 0x0705, .obj 0x0C06] : List Part), p.within ps = true) : Touches ps r (rollover s0 a0 a1 a2).1.1 := by
  unfold rollover
  repeat' first
    | with_reducible assumption | with_reducible apply touches_leaveSeq | with_reducible apply touches_leaveRun
    | with_reducible apply touches_wrPairs | with_reducible refine Touches.foldl _ _ ?_ (fun _ _ _ => ?_)
    | with_reducible refine Touches.foldlFst _ _ ?_ (fun _ _ _ => ?_) | split

theorem touches_packGroup {ps : List Part} {r : State} {s0 : Batch} (h : Touches ps r s0.1) (a0 : GroupIn) (a1 : List (Nat × Nat × Nat)) (a2 : Bool) (a3 : Nat)
    (hp : ∀ p ∈ ([.dah, .flt, .fst, .notes, .obj 0x0705, .obj 0x0C06] : List Part), p.within ps = true) : Touches ps r (packGroup a0 a1 a2 s0 a3).1 := by
  unfold packGroup
  repeat' first
    | with_reducible assumption | with_reducible apply touches_rollover | with_reducible apply touches_setDah
    | with_reducible apply touches_packAdd | with_reducible apply touches_wrPairs
    | with_reducible refine Touches.foldl _ _ ?_ (fun _ _ _ => ?_)
    | with_reducible refine Touches.foldlFst _ _ ?_ (fun _ _ _ => ?_) | split | fail_if_no_progress extract_lets
    | dsimp +zetaDelta only | refine List.forall_mem_cons.2 ⟨?_, ?_⟩ | exact List.forall_mem_nil _
    | exact sub hp (by decide) | exact hp _ (by decide)

theorem touches_groupPacks {ps : List Part} {r s0 : State} (h : Touches ps r s0) (a0 : DahSeq) (a1 : GroupIn) (a2 : List (Nat × Nat × Nat)) (a3 : Bool)
    (hp : ∀ p ∈ ([.dah, .flt, .fst, .mov, .notes, .pwr, .obj 0x0705, .obj 0x0C06, .obj 0x1106] : List Part), p.within ps = true) : Touches ps r (groupPacks s0 a0 a1 a2 a3) := by
  unfold groupPacks
  repeat' first
    | with_reducible assumption | with_reducible apply touches_queueBatch
    | with_reducible apply touches_packGroup | with_reducible apply touches_wrPairs
    | with_reducible refine Touches.foldl _ _ ?_ (fun _ _ _ => ?_)
    | with_reducible refine Touches.foldlFst _ _ ?_ (fun _ _ _ => ?_) | split | fail_if_no_progress extract_lets
    | dsimp +zetaDelta only | refine List.forall_mem_cons.2 ⟨?_, ?_⟩ | exact List.forall_mem_nil _
    | exact sub hp (by decide) | exact hp _ (by decide)

theorem touches_dahUpsets {ps : List Part} {r s0 : State} (h : Touches ps r s0) (a0 : DahliaUpsets) (a1 : List (Nat × Nat × Nat))
    (hp : ∀ p ∈ ([.flt, .fst, .notes, .obj 0x0C06] : List Part), p.within ps = true) : Touches ps r (dahUpsets s0 a0 a1) := by
  unfold dahUpsets
  repeat' first
    | with_reducible assumption | with_reducible refine touches_raise_plain ?_ (by decide) _ _ _ ?_
    | with_reducible refine touches_raiseDetail_plain ?_ (by decide) _ _ _ _ ?_
    | with_reducible refine touches_raise_plain ?_ (by split <;> decide) _ _ _ ?_
    | with_reducible apply touches_wrPairs | with_reducible refine Touches.foldl _ _ ?_ (fun _ _ _ => ?_)
    | split | fail_if_no_progress extract_lets | with_reducible apply touches_part_fst | dsimp +zetaDelta only
    | refine List.forall_mem_cons.2 ⟨?_, ?_⟩ | exact List.forall_mem_nil _ | exact sub hp (by decide)
    | exact hp _ (by decide)

theorem touches_dahShow {ps : List Part} {r s0 : State} (h : Touches ps r s0) (a0 : Nat)
    (hp : ∀ p ∈ ([.dah, .obj 0x0705] : List Part), p.within ps = true) : Touches ps r (dahShow s0 a0) := by
  unfold dahShow
  repeat' first
    | with_reducible assumption | with_reducible apply touches_wr | with_reducible apply touches_setDah
    | with_reducible apply touches_wrPairs | with_reducible refine Touches.foldl _ _ ?_ (fun _ _ _ => ?_)
    | split | fail_if_no_progress extract_lets | dsimp +zetaDelta only | refine List.forall_mem_cons.2 ⟨?_, ?_⟩
    | exact List.forall_mem_nil _ | exact sub hp (by decide) | exact hp _ (by decide)
    | exact ⟨by decide, hp _ (by decide)⟩

theorem touches_releaseGroup {ps : List Part} {r s0 : State} (h : Touches ps r s0)
    (hp : ∀ p ∈ ([.axl, .chz, .flt, .fst, .mem, .mov, .out, .peer, .pwr, .obj 0x0D05, .obj 0x1106] : List Part), p.within ps = true) : Touches ps r (releaseGroup s0) := by
  unfold releaseGroup
  repeat' first
    | with_reducible assumption | with_reducible apply touches_setPeer | with_reducible apply touches_drain4
    | with_reducible apply touches_setChz | with_reducible apply touches_wrPairs
    | with_reducible refine Touches.foldl _ _ ?_ (fun _ _ _ => ?_) | split | fail_if_no_progress extract_lets
    | dsimp +zetaDelta only | refine List.forall_mem_cons.2 ⟨?_, ?_⟩ | exact List.forall_mem_nil _
    | exact sub hp (by decide) | exact hp _ (by decide)

theorem touches_discardBlock {ps : List Part} {r s0 : State} (h : Touches ps r s0) (a0 : Nat)
    (hp : ∀ p ∈ ([.dah, .flt, .notes, .obj 0x0705, .obj 0x0C06] : List Part), p.within ps = true) : Touches ps r (discardBlock s0 a0) := by
  unfold discardBlock
  repeat' first
    | with_reducible assumption | with_reducible refine touches_raise_plain ?_ (by decide) _ _ _ ?_
    | with_reducible refine touches_raiseDetail_plain ?_ (by decide) _ _ _ _ ?_
    | with_reducible refine touches_raise_plain ?_ (by split <;> decide) _ _ _ ?_
    | with_reducible apply touches_setDah | with_reducible apply touches_bump
    | with_reducible apply touches_wrPairs | with_reducible refine Touches.foldl _ _ ?_ (fun _ _ _ => ?_)
    | split | fail_if_no_progress extract_lets | dsimp +zetaDelta only | refine List.forall_mem_cons.2 ⟨?_, ?_⟩
    | exact List.forall_mem_nil _ | exact sub hp (by decide) | exact hp _ (by decide)
    | exact ⟨by decide, hp _ (by decide)⟩

theorem touches_broadcast {ps : List Part} {r s0 : State} (h : Touches ps r s0) (a0 : DahSeq) (a1 : GroupIn) (a2 : List (Nat × Nat × Nat))
    (hp : ∀ p ∈ ([.dah] : List Part), p.within ps = true) : Touches ps r (broadcast s0 a0 a1 a2) := by
  unfold broadcast
  repeat' first
    | with_reducible assumption | with_reducible apply touches_setDah | with_reducible apply touches_wrPairs
    | with_reducible refine Touches.foldl _ _ ?_ (fun _ _ _ => ?_) | split | fail_if_no_progress extract_lets
    | dsimp +zetaDelta only | refine List.forall_mem_cons.2 ⟨?_, ?_⟩ | exact List.forall_mem_nil _
    | exact sub hp (by decide) | exact hp _ (by decide)

theorem touches_correlateGroup {ps : List Part} {r s0 : State} (h : Touches ps r s0) (a0 : DahSeq) (a1 : GroupIn) (a2 : DahliaUpsets)
    (hp : ∀ p ∈ ([.dah, .flt, .fst, .mov, .notes, .pwr, .obj 0x0705, .obj 0x0C06, .obj 0x1106] : List Part), p.within ps = true) : Touches ps r (correlateGroup s0 a0 a1 a2) := by
  unfold correlateGroup
  repeat' first
    | with_reducible assumption | with_reducible apply touches_dahShow | with_reducible apply touches_groupPacks
    | with_reducible apply touches_dahUpsets | with_reducible apply touches_broadcast
    | with_reducible apply touches_wrPairs | with_reducible refine Touches.foldl _ _ ?_ (fun _ _ _ => ?_)
    | split | fail_if_no_progress extract_lets | dsimp +zetaDelta only | refine List.forall_mem_cons.2 ⟨?_, ?_⟩
    | exact List.forall_mem_nil _ | exact sub hp (by decide) | exact hp _ (by decide)

theorem touches_dahStop {ps : List Part} {r s0 : State} (h : Touches ps r s0) (a0 : Nat)
    (hp : ∀ p ∈ ([.dah] : List Part), p.within ps = true) : Touches ps r (dahStop s0 a0) := by
  unfold dahStop
  repeat' first
    | with_reducible assumption | with_reducible apply touches_setDah | with_reducible apply touches_wrPairs
    | with_reducible refine Touches.foldl _ _ ?_ (fun _ _ _ => ?_) | split | fail_if_no_progress extract_lets
    | dsimp +zetaDelta only | refine List.forall_mem_cons.2 ⟨?_, ?_⟩ | exact List.forall_mem_nil _
    | exact sub hp (by decide) | exact hp _ (by decide)

theorem touches_closePack {ps : List Part} {r : State} {s0 : Batch} (h : Touches ps r s0.1) (a0 : Nat)
    (hp : ∀ p ∈ ([.dah, .flt, .notes, .obj 0x0705, .obj 0x0C06] : List Part), p.within ps = true) : Touches ps r (closePack s0 a0).1 := by
  unfold closePack
  repeat' first
    | with_reducible assumption | with_reducible apply touches_leaveSeq | with_reducible apply touches_wrPairs
    | with_reducible refine Touches.foldl _ _ ?_ (fun _ _ _ => ?_)
    | with_reducible refine Touches.foldlFst _ _ ?_ (fun _ _ _ => ?_)

theorem touches_dahStart {ps : List Part} {r s0 : State} (h : Touches ps r s0) (a0 : Nat)
    (hp : ∀ p ∈ ([.dah] : List Part), p.within ps = true) : Touches ps r (dahStart s0 a0) := by
  unfold dahStart
  repeat' first
    | with_reducible assumption | with_reducible apply touches_setDah | with_reducible apply touches_wrPairs
    | with_reducible refine Touches.foldl _ _ ?_ (fun _ _ _ => ?_) | split | fail_if_no_progress extract_lets
    | dsimp +zetaDelta only | refine List.forall_mem_cons.2 ⟨?_, ?_⟩ | exact List.forall_mem_nil _
    | exact sub hp (by decide) | exact hp _ (by decide)

theorem touches_dahEnd {ps : List Part} {r s0 : State} (h : Touches ps r s0)
    (hp : ∀ p ∈ ([.dah] : List Part), p.within ps = true) : Touches ps r (dahEnd s0) := by
  unfold dahEnd
  repeat' first
    | with_reducible assumption | with_reducible apply touches_setDah | with_reducible apply touches_wrPairs
    | with_reducible refine Touches.foldl _ _ ?_ (fun _ _ _ => ?_) | split | fail_if_no_progress extract_lets
    | dsimp +zetaDelta only | refine List.forall_mem_cons.2 ⟨?_, ?_⟩ | exact List.forall_mem_nil _
    | exact sub hp (by decide) | exact hp _ (by decide)

end Sys2Proof
end

