-- ==== Sys2Proof/Laws/Sunflower.lean ====
section
/-! SUPPORT. What each operation of `Machine/Sunflower.lean` may change. -/

namespace Sys2Proof

open Sys2Proof.Machine

theorem touches_beamPut {ps : List Part} {r s0 : State} (h : Touches ps r s0) (a0 : Nat) (a1 : Bytes)
    (hp : ∀ p ∈ ([.flt, .notes, .sun, .obj 0x0907, .obj 0x0C06] : List Part), p.within ps = true) : Touches ps r (beamPut s0 a0 a1) := by
  unfold beamPut
  repeat' first
    | with_reducible assumption | with_reducible refine touches_raise_plain ?_ (by decide) _ _ _ ?_
    | with_reducible refine touches_raiseDetail_plain ?_ (by decide) _ _ _ _ ?_
    | with_reducible refine touches_raise_plain ?_ (by split <;> decide) _ _ _ ?_
    | with_reducible apply touches_setSun | with_reducible apply touches_lossyShow
    | with_reducible apply touches_lossyLost | with_reducible apply touches_bump
    | with_reducible apply touches_wrPairs | with_reducible refine Touches.foldl _ _ ?_ (fun _ _ _ => ?_)
    | split | fail_if_no_progress extract_lets | dsimp +zetaDelta only | refine List.forall_mem_cons.2 ⟨?_, ?_⟩
    | exact List.forall_mem_nil _ | exact sub hp (by decide) | exact hp _ (by decide)
    | exact ⟨by decide, hp _ (by decide)⟩

theorem touches_putFrame {ps : List Part} {r s0 : State} (h : Touches ps r s0) (a0 : List (Nat × Nat)) (a1 : Nat) (a2 : FramePlan) (a3 : Bool)
    (hp : ∀ p ∈ ([.flt, .notes, .sun, .obj 0x0907, .obj 0x0C06] : List Part), p.within ps = true) : Touches ps r (putFrame s0 a0 a1 a2 a3) := by
  unfold putFrame
  repeat' first
    | with_reducible assumption | with_reducible apply touches_setSun | with_reducible apply touches_beamPut
    | with_reducible apply touches_bump | with_reducible apply touches_wrPairs
    | with_reducible refine Touches.foldl _ _ ?_ (fun _ _ _ => ?_) | split | fail_if_no_progress extract_lets
    | dsimp +zetaDelta only | refine List.forall_mem_cons.2 ⟨?_, ?_⟩ | exact List.forall_mem_nil _
    | exact sub hp (by decide) | exact hp _ (by decide) | exact ⟨by decide, hp _ (by decide)⟩

theorem touches_queueFrame {ps : List Part} {r s0 : State} (h : Touches ps r s0) (a0 : List (Nat × Nat)) (a1 : Nat) (a2 : FramePlan) (a3 : Bool)
    (hp : ∀ p ∈ ([.flt, .notes, .sun, .obj 0x0907, .obj 0x0C06] : List Part), p.within ps = true) : Touches ps r (queueFrame s0 a0 a1 a2 a3) := by
  unfold queueFrame
  repeat' first
    | with_reducible assumption | with_reducible apply touches_setSun | with_reducible apply touches_putFrame
    | with_reducible apply touches_wrPairs | with_reducible refine Touches.foldl _ _ ?_ (fun _ _ _ => ?_)
    | split | fail_if_no_progress extract_lets | dsimp +zetaDelta only | refine List.forall_mem_cons.2 ⟨?_, ?_⟩
    | exact List.forall_mem_nil _ | exact sub hp (by decide) | exact hp _ (by decide)

theorem touches_tableUpset {ps : List Part} {r s0 : State} (h : Touches ps r s0) (a0 : Nat × Nat)
    (hp : ∀ p ∈ ([.flt, .notes, .sun, .obj 0x0907, .obj 0x0C06] : List Part), p.within ps = true) : Touches ps r (tableUpset s0 a0) := by
  unfold tableUpset
  repeat' first
    | with_reducible assumption | with_reducible refine touches_raise_plain ?_ (by decide) _ _ _ ?_
    | with_reducible refine touches_raiseDetail_plain ?_ (by decide) _ _ _ _ ?_
    | with_reducible refine touches_raise_plain ?_ (by split <;> decide) _ _ _ ?_
    | with_reducible apply touches_bump | with_reducible apply touches_endFault
    | with_reducible apply touches_setSun | with_reducible apply touches_wrPairs
    | with_reducible refine Touches.foldl _ _ ?_ (fun _ _ _ => ?_) | split | fail_if_no_progress extract_lets
    | dsimp +zetaDelta only | refine List.forall_mem_cons.2 ⟨?_, ?_⟩ | exact List.forall_mem_nil _
    | exact sub hp (by decide) | exact hp _ (by decide) | exact ⟨by decide, hp _ (by decide)⟩

theorem touches_homeRewritten {ps : List Part} {r s0 : State} (h : Touches ps r s0) (a0 : List Nat)
    (hp : ∀ p ∈ ([.flt, .sun] : List Part), p.within ps = true) : Touches ps r (homeRewritten s0 a0) := by
  unfold homeRewritten
  repeat' first
    | with_reducible assumption | with_reducible apply touches_setSun | with_reducible apply touches_endFault
    | with_reducible apply touches_wrPairs | with_reducible refine Touches.foldl _ _ ?_ (fun _ _ _ => ?_)
    | split | fail_if_no_progress extract_lets | dsimp +zetaDelta only | refine List.forall_mem_cons.2 ⟨?_, ?_⟩
    | exact List.forall_mem_nil _ | exact sub hp (by decide) | exact hp _ (by decide)

theorem touches_applyHeldGains {ps : List Part} {r s0 : State} (h : Touches ps r s0) (a0 : Nat → Bool)
    (hp : ∀ p ∈ ([.flt, .sun] : List Part), p.within ps = true) : Touches ps r (applyHeldGains s0 a0) := by
  unfold applyHeldGains
  repeat' first
    | with_reducible assumption | with_reducible apply touches_homeRewritten
    | with_reducible apply touches_setSun | with_reducible apply touches_wrPairs
    | with_reducible refine Touches.foldl _ _ ?_ (fun _ _ _ => ?_) | split | fail_if_no_progress extract_lets
    | dsimp +zetaDelta only | refine List.forall_mem_cons.2 ⟨?_, ?_⟩ | exact List.forall_mem_nil _
    | exact sub hp (by decide) | exact hp _ (by decide)

theorem touches_latchFrom {ps : List Part} {r s0 : State} (h : Touches ps r s0) (a0 : SMap) (a1 : List Field) (a2 : Nat)
    (hp : ∀ p ∈ ([.live] : List Part), p.within ps = true) : Touches ps r (latchFrom s0 a0 a1 a2) := by
  unfold latchFrom
  repeat' first
    | with_reducible assumption | with_reducible apply touches_setLive | with_reducible apply touches_wrFields
    | with_reducible apply touches_wrPairs | with_reducible refine Touches.foldl _ _ ?_ (fun _ _ _ => ?_)
    | split | fail_if_no_progress extract_lets | dsimp +zetaDelta only | refine List.forall_mem_cons.2 ⟨?_, ?_⟩
    | exact List.forall_mem_nil _ | exact sub hp (by decide) | exact hp _ (by decide)

theorem touches_boundaryChanges {ps : List Part} {r s0 : State} (h : Touches ps r s0) (a0 : Nat × SMap)
    (hp : ∀ p ∈ ([.flt, .live, .sun] : List Part), p.within ps = true) : Touches ps r (boundaryChanges s0 a0) := by
  unfold boundaryChanges
  repeat' first
    | with_reducible assumption | with_reducible apply touches_latchFrom
    | with_reducible apply touches_applyHeldGains | with_reducible apply touches_wrFields
    | with_reducible apply touches_wrPairs | with_reducible refine Touches.foldl _ _ ?_ (fun _ _ _ => ?_)
    | split | fail_if_no_progress extract_lets | dsimp +zetaDelta only | refine List.forall_mem_cons.2 ⟨?_, ?_⟩
    | exact List.forall_mem_nil _ | exact sub hp (by decide) | exact hp _ (by decide)

theorem touches_dueChanges {ps : List Part} {r s0 : State} (h : Touches ps r s0)
    (hp : ∀ p ∈ ([.flt, .live, .sun] : List Part), p.within ps = true) : Touches ps r (dueChanges s0) := by
  unfold dueChanges
  repeat' first
    | with_reducible assumption | with_reducible apply touches_setSun
    | with_reducible apply touches_boundaryChanges | with_reducible apply touches_wrPairs
    | with_reducible refine Touches.foldl _ _ ?_ (fun _ _ _ => ?_) | split | fail_if_no_progress extract_lets
    | dsimp +zetaDelta only | refine List.forall_mem_cons.2 ⟨?_, ?_⟩ | exact List.forall_mem_nil _
    | exact sub hp (by decide) | exact hp _ (by decide)

theorem touches_setPendingState {ps : List Part} {r s0 : State} (h : Touches ps r s0) (a0 : Nat)
    (hp : ∀ p ∈ ([.obj 0x0907] : List Part), p.within ps = true) : Touches ps r (setPendingState s0 a0) := by
  unfold setPendingState
  repeat' first
    | with_reducible assumption | with_reducible apply touches_wr | with_reducible apply touches_wrPairs
    | with_reducible refine Touches.foldl _ _ ?_ (fun _ _ _ => ?_) | split | fail_if_no_progress extract_lets
    | dsimp +zetaDelta only | refine List.forall_mem_cons.2 ⟨?_, ?_⟩ | exact List.forall_mem_nil _
    | exact sub hp (by decide) | exact hp _ (by decide) | exact ⟨by decide, hp _ (by decide)⟩

theorem touches_sunDisarm {ps : List Part} {r s0 : State} (h : Touches ps r s0)
    (hp : ∀ p ∈ ([.obj 0x0907] : List Part), p.within ps = true) : Touches ps r (sunDisarm s0) := by
  unfold sunDisarm
  repeat' first
    | with_reducible assumption | with_reducible apply touches_setPendingState
    | with_reducible apply touches_wrPairs | with_reducible refine Touches.foldl _ _ ?_ (fun _ _ _ => ?_)
    | split

theorem touches_sunHalt {ps : List Part} {r s0 : State} (h : Touches ps r s0)
    (hp : ∀ p ∈ ([.sun, .obj 0x0907] : List Part), p.within ps = true) : Touches ps r (sunHalt s0) := by
  unfold sunHalt
  repeat' first
    | with_reducible assumption | with_reducible apply touches_sunDisarm | with_reducible apply touches_wr
    | with_reducible apply touches_setSun | with_reducible apply touches_wrPairs
    | with_reducible refine Touches.foldl _ _ ?_ (fun _ _ _ => ?_) | split | fail_if_no_progress extract_lets
    | dsimp +zetaDelta only | refine List.forall_mem_cons.2 ⟨?_, ?_⟩ | exact List.forall_mem_nil _
    | exact sub hp (by decide) | exact hp _ (by decide) | exact ⟨by decide, hp _ (by decide)⟩

theorem touches_sunArm {ps : List Part} {r s0 : State} (h : Touches ps r s0)
    (hp : ∀ p ∈ ([.obj 0x0907] : List Part), p.within ps = true) : Touches ps r (sunArm s0).2 := by
  unfold sunArm
  repeat' first
    | with_reducible assumption | with_reducible apply touches_setPendingState
    | with_reducible apply touches_wrPairs | with_reducible refine Touches.foldl _ _ ?_ (fun _ _ _ => ?_)
    | with_reducible refine Touches.foldlSnd _ _ ?_ (fun _ _ _ => ?_)
    | with_reducible refine Touches.foldlSndSnd _ _ ?_ (fun _ _ _ => ?_) | split

theorem touches_sunCopy {ps : List Part} {r s0 : State} (h : Touches ps r s0)
    (hp : ∀ p ∈ ([.flt, .sun, .obj 0x0906, .obj 0x0907] : List Part), p.within ps = true) : Touches ps r (sunCopy s0).2 := by
  unfold sunCopy
  repeat' first
    | with_reducible assumption | with_reducible apply touches_homeRewritten
    | with_reducible apply touches_setSun | with_reducible apply touches_setPendingState
    | with_reducible apply touches_wr | with_reducible apply touches_wrPairs
    | with_reducible refine Touches.foldl _ _ ?_ (fun _ _ _ => ?_)
    | with_reducible refine Touches.foldlSnd _ _ ?_ (fun _ _ _ => ?_)
    | with_reducible refine Touches.foldlSndSnd _ _ ?_ (fun _ _ _ => ?_) | split
    | fail_if_no_progress extract_lets | dsimp +zetaDelta only | refine List.forall_mem_cons.2 ⟨?_, ?_⟩
    | exact List.forall_mem_nil _ | exact sub hp (by decide) | exact hp _ (by decide)
    | exact ⟨by decide, hp _ (by decide)⟩

theorem touches_wantSwitch {ps : List Part} {r s0 : State} (h : Touches ps r s0) (a0 : Nat)
    (hp : ∀ p ∈ ([.sun] : List Part), p.within ps = true) : Touches ps r (wantSwitch s0 a0) := by
  unfold wantSwitch
  repeat' first
    | with_reducible assumption | with_reducible apply touches_setSun | with_reducible apply touches_wrPairs
    | with_reducible refine Touches.foldl _ _ ?_ (fun _ _ _ => ?_) | split | fail_if_no_progress extract_lets
    | dsimp +zetaDelta only | refine List.forall_mem_cons.2 ⟨?_, ?_⟩ | exact List.forall_mem_nil _
    | exact sub hp (by decide) | exact hp _ (by decide)

theorem touches_sunSwitchNow {ps : List Part} {r s0 : State} (h : Touches ps r s0)
    (hp : ∀ p ∈ ([.sun, .obj 0x0907] : List Part), p.within ps = true) : Touches ps r (sunSwitchNow s0).2 := by
  unfold sunSwitchNow
  repeat' first
    | with_reducible assumption | with_reducible apply touches_wantSwitch
    | with_reducible apply touches_setPendingState | with_reducible apply touches_wrPairs
    | with_reducible refine Touches.foldl _ _ ?_ (fun _ _ _ => ?_)
    | with_reducible refine Touches.foldlSnd _ _ ?_ (fun _ _ _ => ?_)
    | with_reducible refine Touches.foldlSndSnd _ _ ?_ (fun _ _ _ => ?_) | split
    | fail_if_no_progress extract_lets | dsimp +zetaDelta only | refine List.forall_mem_cons.2 ⟨?_, ?_⟩
    | exact List.forall_mem_nil _ | exact sub hp (by decide) | exact hp _ (by decide)

theorem touches_switchSkipped {ps : List Part} {r s0 : State} (h : Touches ps r s0)
    (hp : ∀ p ∈ ([.flt, .notes, .obj 0x0907, .obj 0x0C06] : List Part), p.within ps = true) : Touches ps r (switchSkipped s0) := by
  unfold switchSkipped
  repeat' first
    | with_reducible assumption | with_reducible refine touches_raise_plain ?_ (by decide) _ _ _ ?_
    | with_reducible refine touches_raiseDetail_plain ?_ (by decide) _ _ _ _ ?_
    | with_reducible refine touches_raise_plain ?_ (by split <;> decide) _ _ _ ?_
    | with_reducible apply touches_bump | with_reducible apply touches_wrPairs
    | with_reducible refine Touches.foldl _ _ ?_ (fun _ _ _ => ?_) | split | fail_if_no_progress extract_lets
    | dsimp +zetaDelta only | refine List.forall_mem_cons.2 ⟨?_, ?_⟩ | exact List.forall_mem_nil _
    | exact sub hp (by decide) | exact hp _ (by decide) | exact ⟨by decide, hp _ (by decide)⟩

theorem touches_sunComparator {ps : List Part} {r s0 : State} (h : Touches ps r s0) (a0 : Nat)
    (hp : ∀ p ∈ ([.flt, .notes, .sun, .obj 0x0907, .obj 0x0C06] : List Part), p.within ps = true) : Touches ps r (sunComparator s0 a0) := by
  unfold sunComparator
  repeat' first
    | with_reducible assumption | with_reducible apply touches_wantSwitch
    | with_reducible apply touches_switchSkipped | with_reducible apply touches_wrPairs
    | with_reducible refine Touches.foldl _ _ ?_ (fun _ _ _ => ?_) | split | fail_if_no_progress extract_lets
    | dsimp +zetaDelta only | refine List.forall_mem_cons.2 ⟨?_, ?_⟩ | exact List.forall_mem_nil _
    | exact sub hp (by decide) | exact hp _ (by decide)

theorem touches_writeContexts {ps : List Part} {r s0 : State} (h : Touches ps r s0) (a0 : List (Nat × Nat))
    (hp : ∀ p ∈ ([.flt, .sun, .obj 0x0907] : List Part), p.within ps = true) : Touches ps r (writeContexts s0 a0).2 := by
  unfold writeContexts
  repeat' first
    | with_reducible assumption | with_reducible apply touches_homeRewritten
    | with_reducible apply touches_setSun | with_reducible apply touches_setPendingState
    | with_reducible apply touches_wrPairs | with_reducible refine Touches.foldl _ _ ?_ (fun _ _ _ => ?_)
    | with_reducible refine Touches.foldlSnd _ _ ?_ (fun _ _ _ => ?_)
    | with_reducible refine Touches.foldlSndSnd _ _ ?_ (fun _ _ _ => ?_) | split
    | fail_if_no_progress extract_lets | dsimp +zetaDelta only | refine List.forall_mem_cons.2 ⟨?_, ?_⟩
    | exact List.forall_mem_nil _ | exact sub hp (by decide) | exact hp _ (by decide)

theorem touches_holdGains {ps : List Part} {r s0 : State} (h : Touches ps r s0) (a0 : List (Nat × Nat))
    (hp : ∀ p ∈ ([.sun] : List Part), p.within ps = true) : Touches ps r (holdGains s0 a0) := by
  unfold holdGains
  repeat' first
    | with_reducible assumption | with_reducible apply touches_setSun | with_reducible apply touches_wrPairs
    | with_reducible refine Touches.foldl _ _ ?_ (fun _ _ _ => ?_) | split | fail_if_no_progress extract_lets
    | dsimp +zetaDelta only | refine List.forall_mem_cons.2 ⟨?_, ?_⟩ | exact List.forall_mem_nil _
    | exact sub hp (by decide) | exact hp _ (by decide)

theorem touches_sunBlock {ps : List Part} {r s0 : State} (h : Touches ps r s0)
    (hp : ∀ p ∈ ([.flt, .live, .sun, .obj 0x0907] : List Part), p.within ps = true) : Touches ps r (sunBlock s0) := by
  unfold sunBlock
  repeat' first
    | with_reducible assumption | with_reducible apply touches_wr | with_reducible apply touches_setSun
    | with_reducible apply touches_boundaryChanges | with_reducible apply touches_wrPairs
    | with_reducible refine Touches.foldl _ _ ?_ (fun _ _ _ => ?_) | split | fail_if_no_progress extract_lets
    | dsimp +zetaDelta only | refine List.forall_mem_cons.2 ⟨?_, ?_⟩ | exact List.forall_mem_nil _
    | exact sub hp (by decide) | exact hp _ (by decide) | exact ⟨by decide, hp _ (by decide)⟩

theorem touches_sunStart {ps : List Part} {r s0 : State} (h : Touches ps r s0)
    (hp : ∀ p ∈ ([.sun, .obj 0x0907] : List Part), p.within ps = true) : Touches ps r (sunStart s0) := by
  unfold sunStart
  repeat' first
    | with_reducible assumption | with_reducible apply touches_wr | with_reducible apply touches_setSun
    | with_reducible apply touches_wrPairs | with_reducible refine Touches.foldl _ _ ?_ (fun _ _ _ => ?_)
    | split | fail_if_no_progress extract_lets | dsimp +zetaDelta only | refine List.forall_mem_cons.2 ⟨?_, ?_⟩
    | exact List.forall_mem_nil _ | exact sub hp (by decide) | exact hp _ (by decide)
    | exact ⟨by decide, hp _ (by decide)⟩

theorem touches_sunStop {ps : List Part} {r s0 : State} (h : Touches ps r s0)
    (hp : ∀ p ∈ ([.sun, .obj 0x0907] : List Part), p.within ps = true) : Touches ps r (sunStop s0) := by
  unfold sunStop
  repeat' first
    | with_reducible assumption | with_reducible apply touches_sunHalt | with_reducible apply touches_setSun
    | with_reducible apply touches_wrPairs | with_reducible refine Touches.foldl _ _ ?_ (fun _ _ _ => ?_)
    | split | fail_if_no_progress extract_lets | dsimp +zetaDelta only | refine List.forall_mem_cons.2 ⟨?_, ?_⟩
    | exact List.forall_mem_nil _ | exact sub hp (by decide) | exact hp _ (by decide)

end Sys2Proof
end

