-- ==== Sys2Proof/Laws/FieldStore.lean ====
section
/-! SUPPORT. What each operation of `Machine/FieldStore.lean` may change. -/

namespace Sys2Proof

open Sys2Proof.Machine

theorem touches_setHomeByte {ps : List Part} {r s0 : State} (h : Touches ps r s0) (a0 : Nat) (a1 : Nat)
    (hp : ∀ p ∈ ([.sun] : List Part), p.within ps = true) : Touches ps r (setHomeByte s0 a0 a1) := by
  unfold setHomeByte
  repeat' first
    | with_reducible assumption | with_reducible apply touches_setSun | with_reducible apply touches_wrPairs
    | with_reducible refine Touches.foldl _ _ ?_ (fun _ _ _ => ?_) | split | fail_if_no_progress extract_lets
    | dsimp +zetaDelta only | refine List.forall_mem_cons.2 ⟨?_, ?_⟩ | exact List.forall_mem_nil _
    | exact sub hp (by decide) | exact hp _ (by decide)

theorem touches_pokeWord {ps : List Part} {r s0 : State} (h : Touches ps r s0) (a0 : Nat) (a1 : Nat)
    (hp : ∀ p ∈ ([.bbl, .dah, .mem, .sun] : List Part), p.within ps = true) : Touches ps r (pokeWord s0 a0 a1) := by
  unfold pokeWord
  repeat' first
    | with_reducible assumption | with_reducible apply touches_setDah | with_reducible apply touches_setBbl
    | with_reducible apply touches_setHomeByte | with_reducible apply touches_storeBytes
    | with_reducible apply touches_wrPairs | with_reducible refine Touches.foldl _ _ ?_ (fun _ _ _ => ?_)
    | split | fail_if_no_progress extract_lets | dsimp +zetaDelta only | refine List.forall_mem_cons.2 ⟨?_, ?_⟩
    | exact List.forall_mem_nil _ | exact sub hp (by decide) | exact hp _ (by decide)

theorem touches_markUsers {ps : List Part} {r s0 : State} (h : Touches ps r s0) (a0 : Nat)
    (hp : ∀ p ∈ ([.sun] : List Part), p.within ps = true) : Touches ps r (markUsers s0 a0) := by
  unfold markUsers
  repeat' first
    | with_reducible assumption | with_reducible apply touches_setSun | with_reducible apply touches_wrPairs
    | with_reducible refine Touches.foldl _ _ ?_ (fun _ _ _ => ?_) | split | fail_if_no_progress extract_lets
    | dsimp +zetaDelta only | refine List.forall_mem_cons.2 ⟨?_, ?_⟩ | exact List.forall_mem_nil _
    | exact sub hp (by decide) | exact hp _ (by decide)

theorem touches_wordBad {ps : List Part} {r s0 : State} (h : Touches ps r s0) (a0 : Nat) (a1 : Nat)
    (hp : ∀ p ∈ ([.bbl, .dah, .flt, .free, .fst, .mem, .notes, .sun, .obj 0x0A04, .obj 0x0A07, .obj 0x0C06] : List Part), p.within ps = true) : Touches ps r (wordBad s0 a0 a1) := by
  unfold wordBad
  repeat' first
    | with_reducible assumption | with_reducible refine touches_raise_plain ?_ (by decide) _ _ _ ?_
    | with_reducible refine touches_raiseDetail_plain ?_ (by decide) _ _ _ _ ?_
    | with_reducible refine touches_raise_plain ?_ (by split <;> decide) _ _ _ ?_
    | with_reducible apply touches_drawFree | with_reducible apply touches_pokeWord
    | with_reducible apply touches_setFst | with_reducible apply touches_markUsers
    | with_reducible apply touches_bump | with_reducible apply touches_wrPairs
    | with_reducible refine Touches.foldl _ _ ?_ (fun _ _ _ => ?_) | split | fail_if_no_progress extract_lets
    | dsimp +zetaDelta only | refine List.forall_mem_cons.2 ⟨?_, ?_⟩ | exact List.forall_mem_nil _
    | exact sub hp (by decide) | exact hp _ (by decide) | exact ⟨by decide, hp _ (by decide)⟩

theorem touches_wordWritten {ps : List Part} {r s0 : State} (h : Touches ps r s0) (a0 : Nat) (a1 : Bool)
    (hp : ∀ p ∈ ([.flt, .fst] : List Part), p.within ps = true) : Touches ps r (wordWritten s0 a0 a1) := by
  unfold wordWritten
  repeat' first
    | with_reducible assumption | with_reducible apply touches_bankMended
    | with_reducible apply touches_markWords | with_reducible apply touches_wrPairs
    | with_reducible refine Touches.foldl _ _ ?_ (fun _ _ _ => ?_) | split | fail_if_no_progress extract_lets
    | dsimp +zetaDelta only | refine List.forall_mem_cons.2 ⟨?_, ?_⟩ | exact List.forall_mem_nil _
    | exact sub hp (by decide) | exact hp _ (by decide)

theorem touches_softRepair {ps : List Part} {r s0 : State} (h : Touches ps r s0) (a0 : Nat) (a1 : Nat) (a2 : Nat)
    (hp : ∀ p ∈ ([.flt, .fst, .notes, .obj 0x0A04, .obj 0x0A05, .obj 0x0A06, .obj 0x0C06] : List Part), p.within ps = true) : Touches ps r (softRepair s0 a0 a1 a2) := by
  unfold softRepair
  repeat' first
    | with_reducible assumption | with_reducible refine touches_raise_plain ?_ (by decide) _ _ _ ?_
    | with_reducible refine touches_raiseDetail_plain ?_ (by decide) _ _ _ _ ?_
    | with_reducible refine touches_raise_plain ?_ (by split <;> decide) _ _ _ ?_
    | with_reducible apply touches_bump | with_reducible apply touches_wr | with_reducible apply touches_setFst
    | with_reducible apply touches_endFault | with_reducible apply touches_wrPairs
    | with_reducible refine Touches.foldl _ _ ?_ (fun _ _ _ => ?_) | split | fail_if_no_progress extract_lets
    | dsimp +zetaDelta only | refine List.forall_mem_cons.2 ⟨?_, ?_⟩ | exact List.forall_mem_nil _
    | exact sub hp (by decide) | exact hp _ (by decide) | exact ⟨by decide, hp _ (by decide)⟩

theorem touches_ceRepeat {ps : List Part} {r s0 : State} (h : Touches ps r s0) (a0 : Nat)
    (hp : ∀ p ∈ ([.flt, .fst, .notes, .obj 0x0A04, .obj 0x0A05, .obj 0x0A06, .obj 0x0C06] : List Part), p.within ps = true) : Touches ps r (ceRepeat s0 a0) := by
  unfold ceRepeat
  repeat' first
    | with_reducible assumption | with_reducible refine touches_raise_plain ?_ (by decide) _ _ _ ?_
    | with_reducible refine touches_raiseDetail_plain ?_ (by decide) _ _ _ _ ?_
    | with_reducible refine touches_raise_plain ?_ (by split <;> decide) _ _ _ ?_
    | with_reducible apply touches_wr | with_reducible apply touches_softRepair
    | with_reducible apply touches_wrPairs | with_reducible refine Touches.foldl _ _ ?_ (fun _ _ _ => ?_)
    | split | fail_if_no_progress extract_lets | dsimp +zetaDelta only | refine List.forall_mem_cons.2 ⟨?_, ?_⟩
    | exact List.forall_mem_nil _ | exact sub hp (by decide) | exact hp _ (by decide)
    | exact ⟨by decide, hp _ (by decide)⟩

theorem touches_ceTouch {ps : List Part} {r s0 : State} (h : Touches ps r s0) (a0 : Nat) (a1 : Nat)
    (hp : ∀ p ∈ ([.obj 0x0A05] : List Part), p.within ps = true) : Touches ps r (ceTouch s0 a0 a1) := by
  unfold ceTouch
  repeat' first
    | with_reducible assumption | with_reducible apply touches_wr | with_reducible apply touches_bumpSat
    | with_reducible apply touches_wrPairs | with_reducible refine Touches.foldl _ _ ?_ (fun _ _ _ => ?_)
    | split | fail_if_no_progress extract_lets | dsimp +zetaDelta only | refine List.forall_mem_cons.2 ⟨?_, ?_⟩
    | exact List.forall_mem_nil _ | exact sub hp (by decide) | exact hp _ (by decide)
    | exact ⟨by decide, hp _ (by decide)⟩

theorem touches_ceClear {ps : List Part} {r s0 : State} (h : Touches ps r s0) (a0 : Nat)
    (hp : ∀ p ∈ ([.obj 0x0A05] : List Part), p.within ps = true) : Touches ps r (ceClear s0 a0) := by
  refine ⟨fun p k => (h.1 p k).trans ?_, fun w => ⟨mapClear_keeps_wf _ _ (h.2.1 w).1, (h.2.1 w).2⟩,
    fun w => ⟨?_, (h.2.2 w).2⟩⟩
  swap
  · have e : mapGet (ceClear s0 a0).regs (Obj.MODE_STATE.CURRENT.key 0) = mapGet s0.regs (Obj.MODE_STATE.CURRENT.key 0) :=
      (mapGet_mapClear _ _ _ _).trans (if_neg (by rw [show Obj.MODE_STATE.CURRENT.key 0 = 17665200488448 from rfl]; omega))
    show mapGet (ceClear s0 a0).regs _ ^^^ _ ≤ 11
    rw [e]
    exact (h.2.2 w).1
  cases p <;> try first | exact rfl | trivial
  case obj o =>
    intro x hx
    refine (mapGet_mapClear _ _ _ _).trans (if_neg ?_)
    rintro ⟨h1, h2⟩
    have : o = 0x0A05 := by omega
    rw [this, hp _ List.mem_cons_self] at k
    cases k

theorem touches_ceLog {ps : List Part} {r s0 : State} (h : Touches ps r s0) (a0 : Nat) (a1 : Nat) (a2 : Nat) (a3 : Nat) (a4 : Nat)
    (hp : ∀ p ∈ ([.flt, .fst, .notes, .obj 0x0A04, .obj 0x0A05, .obj 0x0A06, .obj 0x0A07, .obj 0x0C06] : List Part), p.within ps = true) : Touches ps r (ceLog s0 a0 a1 a2 a3 a4) := by
  unfold ceLog
  repeat' first
    | with_reducible assumption | with_reducible refine touches_raise_plain ?_ (by decide) _ _ _ ?_
    | with_reducible refine touches_raiseDetail_plain ?_ (by decide) _ _ _ _ ?_
    | with_reducible refine touches_raise_plain ?_ (by split <;> decide) _ _ _ ?_
    | with_reducible apply touches_bump | with_reducible apply touches_ceTouch
    | with_reducible apply touches_ceRepeat | with_reducible apply touches_setFst
    | with_reducible apply touches_ceClear | with_reducible apply touches_wr
    | with_reducible apply touches_wrPairs | with_reducible refine Touches.foldl _ _ ?_ (fun _ _ _ => ?_)
    | split | fail_if_no_progress extract_lets | dsimp +zetaDelta only | refine List.forall_mem_cons.2 ⟨?_, ?_⟩
    | exact List.forall_mem_nil _ | exact sub hp (by decide) | exact hp _ (by decide)
    | exact ⟨by decide, hp _ (by decide)⟩

theorem touches_readWord {ps : List Part} {r s0 : State} (h : Touches ps r s0) (a0 : Nat) (a1 : Nat) (a2 : Nat)
    (hp : ∀ p ∈ ([.bbl, .dah, .flt, .free, .fst, .mem, .notes, .sun, .obj 0x0A04, .obj 0x0A05, .obj 0x0A06, .obj 0x0A07, .obj 0x0C06] : List Part), p.within ps = true) : Touches ps r (readWord s0 a0 a1 a2).2.2 := by
  unfold readWord
  repeat' first
    | with_reducible assumption | with_reducible apply touches_bump | with_reducible apply touches_ceLog
    | with_reducible apply touches_wordBad | with_reducible apply touches_wrPairs
    | with_reducible refine Touches.foldl _ _ ?_ (fun _ _ _ => ?_)
    | with_reducible refine Touches.foldlSnd _ _ ?_ (fun _ _ _ => ?_)
    | with_reducible refine Touches.foldlSndSnd _ _ ?_ (fun _ _ _ => ?_) | split
    | fail_if_no_progress extract_lets | dsimp +zetaDelta only | refine List.forall_mem_cons.2 ⟨?_, ?_⟩
    | exact List.forall_mem_nil _ | exact sub hp (by decide) | exact hp _ (by decide)
    | exact ⟨by decide, hp _ (by decide)⟩

theorem touches_ceReset {ps : List Part} {r s0 : State} (h : Touches ps r s0) (a0 : Nat)
    (hp : ∀ p ∈ ([.fst, .obj 0x0A05] : List Part), p.within ps = true) : Touches ps r (ceReset s0 a0) := by
  unfold ceReset
  repeat' first
    | with_reducible assumption | with_reducible apply touches_setFst | with_reducible apply touches_wr
    | with_reducible apply touches_wrPairs | with_reducible refine Touches.foldl _ _ ?_ (fun _ _ _ => ?_)
    | split | fail_if_no_progress extract_lets | dsimp +zetaDelta only | refine List.forall_mem_cons.2 ⟨?_, ?_⟩
    | exact List.forall_mem_nil _ | exact sub hp (by decide) | exact hp _ (by decide)
    | exact ⟨by decide, hp _ (by decide)⟩

theorem touches_storeWord {ps : List Part} {r s0 : State} (h : Touches ps r s0) (a0 : Nat) (a1 : Nat) (a2 : Nat) (a3 : Nat) (a4 : Bool) (a5 : Nat)
    (hp : ∀ p ∈ ([.bbl, .dah, .flt, .free, .fst, .mem, .notes, .sun, .obj 0x0A04, .obj 0x0A05, .obj 0x0A06, .obj 0x0A07, .obj 0x0C06] : List Part), p.within ps = true) : Touches ps r (storeWord s0 a0 a1 a2 a3 a4 a5) := by
  unfold storeWord
  repeat' first
    | with_reducible assumption | with_reducible refine touches_raise_plain ?_ (by decide) _ _ _ ?_
    | with_reducible refine touches_raiseDetail_plain ?_ (by decide) _ _ _ _ ?_
    | with_reducible refine touches_raise_plain ?_ (by split <;> decide) _ _ _ ?_
    | with_reducible apply touches_ceReset | with_reducible apply touches_wordWritten
    | with_reducible apply touches_pokeWord | with_reducible apply touches_ceLog
    | with_reducible apply touches_bump | with_reducible apply touches_wordBad
    | with_reducible apply touches_setFst | with_reducible apply touches_markUsers
    | with_reducible apply touches_wrPairs | with_reducible refine Touches.foldl _ _ ?_ (fun _ _ _ => ?_)
    | split | fail_if_no_progress extract_lets | dsimp +zetaDelta only | refine List.forall_mem_cons.2 ⟨?_, ?_⟩
    | exact List.forall_mem_nil _ | exact sub hp (by decide) | exact hp _ (by decide)
    | exact ⟨by decide, hp _ (by decide)⟩

theorem touches_scrubWord {ps : List Part} {r s0 : State} (h : Touches ps r s0) (a0 : Nat) (a1 : Nat) (a2 : Nat × Nat)
    (hp : ∀ p ∈ ([.bbl, .dah, .flt, .free, .fst, .mem, .notes, .sun, .obj 0x0A04, .obj 0x0A05, .obj 0x0A06, .obj 0x0A07, .obj 0x0C06] : List Part), p.within ps = true) : Touches ps r (scrubWord a0 a1 s0 a2) := by
  unfold scrubWord
  repeat' first
    | with_reducible assumption | with_reducible apply touches_ceLog | with_reducible apply touches_setFst
    | with_reducible apply touches_wordBad | with_reducible apply touches_wrPairs
    | with_reducible refine Touches.foldl _ _ ?_ (fun _ _ _ => ?_) | split | fail_if_no_progress extract_lets
    | dsimp +zetaDelta only | refine List.forall_mem_cons.2 ⟨?_, ?_⟩ | exact List.forall_mem_nil _
    | exact sub hp (by decide) | exact hp _ (by decide)

theorem touches_passEnds {ps : List Part} {r s0 : State} (h : Touches ps r s0)
    (hp : ∀ p ∈ ([.flt, .fst, .notes, .obj 0x0A07, .obj 0x0C06] : List Part), p.within ps = true) : Touches ps r (passEnds s0) := by
  unfold passEnds
  repeat' first
    | with_reducible assumption | with_reducible apply touches_bump | with_reducible apply touches_wr
    | with_reducible apply touches_clearFault | with_reducible apply touches_setFst
    | with_reducible apply touches_wrPairs | with_reducible refine Touches.foldl _ _ ?_ (fun _ _ _ => ?_)
    | split | fail_if_no_progress extract_lets | dsimp +zetaDelta only | refine List.forall_mem_cons.2 ⟨?_, ?_⟩
    | exact List.forall_mem_nil _ | exact sub hp (by decide) | exact hp _ (by decide)
    | exact ⟨by decide, hp _ (by decide)⟩

theorem touches_dropPackets {ps : List Part} {r s0 : State} (h : Touches ps r s0) (a0 : Nat)
    (hp : ∀ p ∈ ([.evt, .flt, .hk, .notes, .sun, .obj 0x0C06] : List Part), p.within ps = true) : Touches ps r (dropPackets s0 a0) := by
  unfold dropPackets
  repeat' first
    | with_reducible assumption | with_reducible apply touches_lossyLost | with_reducible apply touches_setSun
    | with_reducible apply touches_wrPairs | with_reducible refine Touches.foldl _ _ ?_ (fun _ _ _ => ?_)
    | split | fail_if_no_progress extract_lets | with_reducible apply touches_part_evt
    | with_reducible apply touches_part_flt | with_reducible apply touches_part_hk | dsimp +zetaDelta only
    | refine List.forall_mem_cons.2 ⟨?_, ?_⟩ | exact List.forall_mem_nil _ | exact sub hp (by decide)
    | exact hp _ (by decide) | exact ⟨fun k => k, fun _ => Nat.zero_le _⟩

theorem touches_tablesLost {ps : List Part} {r s0 : State} (h : Touches ps r s0) (a0 : Nat)
    (hp : ∀ p ∈ ([.bbl, .obj 0x0206] : List Part), p.within ps = true) : Touches ps r (tablesLost s0 a0) := by
  unfold tablesLost
  repeat' first
    | with_reducible assumption | with_reducible apply touches_wr | with_reducible apply touches_setBbl
    | with_reducible apply touches_wrPairs | with_reducible refine Touches.foldl _ _ ?_ (fun _ _ _ => ?_)
    | split | fail_if_no_progress extract_lets | dsimp +zetaDelta only | refine List.forall_mem_cons.2 ⟨?_, ?_⟩
    | exact List.forall_mem_nil _ | exact sub hp (by decide) | exact hp _ (by decide)
    | exact ⟨by decide, hp _ (by decide)⟩

theorem touches_bankLost {ps : List Part} {r s0 : State} (h : Touches ps r s0) (a0 : Nat)
    (hp : ∀ p ∈ ([.bbl, .evt, .flt, .hk, .notes, .sun, .obj 0x0206, .obj 0x0A04, .obj 0x0C06] : List Part), p.within ps = true) : Touches ps r (bankLost s0 a0) := by
  unfold bankLost
  repeat' first
    | with_reducible assumption | with_reducible refine touches_raise_plain ?_ (by decide) _ _ _ ?_
    | with_reducible refine touches_raiseDetail_plain ?_ (by decide) _ _ _ _ ?_
    | with_reducible refine touches_raise_plain ?_ (by split <;> decide) _ _ _ ?_
    | with_reducible apply touches_wr | with_reducible apply touches_tablesLost
    | with_reducible apply touches_dropPackets | with_reducible apply touches_wrPairs
    | with_reducible refine Touches.foldl _ _ ?_ (fun _ _ _ => ?_) | split | fail_if_no_progress extract_lets
    | dsimp +zetaDelta only | refine List.forall_mem_cons.2 ⟨?_, ?_⟩ | exact List.forall_mem_nil _
    | exact sub hp (by decide) | exact hp _ (by decide) | exact ⟨by decide, hp _ (by decide)⟩

theorem touches_canaryCheck {ps : List Part} {r s0 : State} (h : Touches ps r s0) (a0 : Nat) (a1 : List (Nat × Nat))
    (hp : ∀ p ∈ ([.flt, .free, .fst, .notes, .obj 0x0A04, .obj 0x0A05, .obj 0x0A06, .obj 0x0A07, .obj 0x0C06] : List Part), p.within ps = true) : Touches ps r (canaryCheck a0 a1 s0).1 := by
  unfold canaryCheck
  repeat' first
    | with_reducible assumption | with_reducible apply touches_drawFree | with_reducible apply touches_ceLog
    | with_reducible apply touches_wrPairs | with_reducible refine Touches.foldl _ _ ?_ (fun _ _ _ => ?_)
    | with_reducible refine Touches.foldlFst _ _ ?_ (fun _ _ _ => ?_) | split | fail_if_no_progress extract_lets
    | dsimp +zetaDelta only | refine List.forall_mem_cons.2 ⟨?_, ?_⟩ | exact List.forall_mem_nil _
    | exact sub hp (by decide) | exact hp _ (by decide)

theorem touches_bankChecked {ps : List Part} {r s0 : State} (h : Touches ps r s0) (a0 : Nat) (a1 : List (Nat × Nat))
    (hp : ∀ p ∈ ([.flt, .free, .fst, .notes, .pwr, .obj 0x0A04, .obj 0x0A05, .obj 0x0A06, .obj 0x0A07, .obj 0x0C06] : List Part), p.within ps = true) : Touches ps r (bankChecked s0 a0 a1).1 := by
  unfold bankChecked
  repeat' first
    | with_reducible assumption | with_reducible apply touches_canaryCheck | with_reducible apply touches_setFst
    | with_reducible apply touches_wr | with_reducible apply touches_setPwr
    | with_reducible apply touches_wrPairs | with_reducible refine Touches.foldl _ _ ?_ (fun _ _ _ => ?_)
    | with_reducible refine Touches.foldlFst _ _ ?_ (fun _ _ _ => ?_) | split | fail_if_no_progress extract_lets
    | dsimp +zetaDelta only | refine List.forall_mem_cons.2 ⟨?_, ?_⟩ | exact List.forall_mem_nil _
    | exact sub hp (by decide) | exact hp _ (by decide) | exact ⟨by decide, hp _ (by decide)⟩

theorem touches_placesInitialized {ps : List Part} {r s0 : State} (h : Touches ps r s0) (a0 : Nat) (a1 : Nat)
    (hp : ∀ p ∈ ([.bbl, .dah, .sun] : List Part), p.within ps = true) : Touches ps r (placesInitialized s0 a0 a1) := by
  unfold placesInitialized
  repeat' first
    | with_reducible assumption | with_reducible apply touches_setDah | with_reducible apply touches_setBbl
    | with_reducible apply touches_setSun | with_reducible apply touches_wrPairs
    | with_reducible refine Touches.foldl _ _ ?_ (fun _ _ _ => ?_) | split | fail_if_no_progress extract_lets
    | dsimp +zetaDelta only | refine List.forall_mem_cons.2 ⟨?_, ?_⟩ | exact List.forall_mem_nil _
    | exact sub hp (by decide) | exact hp _ (by decide)

end Sys2Proof
end

