-- ==== Sys2Proof/Laws/Hk.lean ====
section
/-! SUPPORT. What each operation of `Machine/Hk.lean` may change. -/

namespace Sys2Proof

open Sys2Proof.Machine

theorem touches_showHk {ps : List Part} {r s0 : State} (h : Touches ps r s0)
    (hp : ∀ p ∈ ([.obj 0x1204] : List Part), p.within ps = true) : Touches ps r (showHk s0) := by
  unfold showHk
  repeat' first
    | with_reducible assumption | with_reducible apply touches_wr | with_reducible apply touches_wrPairs
    | with_reducible refine Touches.foldl _ _ ?_ (fun _ _ _ => ?_) | split | fail_if_no_progress extract_lets
    | dsimp +zetaDelta only | refine List.forall_mem_cons.2 ⟨?_, ?_⟩ | exact List.forall_mem_nil _
    | exact sub hp (by decide) | exact hp _ (by decide) | exact ⟨by decide, hp _ (by decide)⟩

theorem touches_hkSnapshot {ps : List Part} {r s0 : State} (h : Touches ps r s0)
    (hp : ∀ p ∈ ([.obj 0x1204] : List Part), p.within ps = true) : Touches ps r (hkSnapshot s0) := by
  unfold hkSnapshot
  repeat' first
    | with_reducible assumption | with_reducible apply touches_wr | with_reducible apply touches_showHk
    | with_reducible apply touches_wrPairs | with_reducible refine Touches.foldl _ _ ?_ (fun _ _ _ => ?_)
    | split | fail_if_no_progress extract_lets | dsimp +zetaDelta only | refine List.forall_mem_cons.2 ⟨?_, ?_⟩
    | exact List.forall_mem_nil _ | exact sub hp (by decide) | exact hp _ (by decide)
    | exact ⟨by decide, hp _ (by decide)⟩

theorem touches_convBegin {ps : List Part} {r s0 : State} (h : Touches ps r s0)
    (hp : ∀ p ∈ ([.hk, .pwr, .obj 0x0A04, .obj 0x1011] : List Part), p.within ps = true) : Touches ps r (convBegin s0) := by
  unfold convBegin
  repeat' first
    | with_reducible assumption | with_reducible apply touches_setHk | with_reducible apply touches_domUp
    | with_reducible apply touches_wrPairs | with_reducible refine Touches.foldl _ _ ?_ (fun _ _ _ => ?_)
    | split | fail_if_no_progress extract_lets | dsimp +zetaDelta only | refine List.forall_mem_cons.2 ⟨?_, ?_⟩
    | exact List.forall_mem_nil _ | exact sub hp (by decide) | exact hp _ (by decide)

theorem touches_hkPowered {ps : List Part} {r s0 : State} (h : Touches ps r s0)
    (hp : ∀ p ∈ ([.hk, .pwr, .obj 0x0A04, .obj 0x1011] : List Part), p.within ps = true) : Touches ps r (hkPowered s0) := by
  unfold hkPowered
  repeat' first
    | with_reducible assumption | with_reducible apply touches_convBegin | with_reducible apply touches_wrPairs
    | with_reducible refine Touches.foldl _ _ ?_ (fun _ _ _ => ?_) | split

theorem touches_runBegin {ps : List Part} {r s0 : State} (h : Touches ps r s0) (a0 : Nat)
    (hp : ∀ p ∈ ([.hk, .live, .pwr, .obj 0x0A04, .obj 0x1011, .obj 0x1204] : List Part), p.within ps = true) : Touches ps r (runBegin s0 a0) := by
  unfold runBegin
  repeat' first
    | with_reducible assumption | with_reducible apply touches_latch | with_reducible apply touches_setHk
    | with_reducible apply touches_bump | with_reducible apply touches_showHk
    | with_reducible apply touches_convBegin | with_reducible apply touches_wrFields
    | with_reducible apply touches_wrPairs | with_reducible refine Touches.foldl _ _ ?_ (fun _ _ _ => ?_)
    | split | fail_if_no_progress extract_lets | dsimp +zetaDelta only | refine List.forall_mem_cons.2 ⟨?_, ?_⟩
    | exact List.forall_mem_nil _ | exact sub hp (by decide) | exact hp _ (by decide)
    | exact ⟨by decide, hp _ (by decide)⟩

theorem touches_hkRequest {ps : List Part} {r s0 : State} (h : Touches ps r s0) (a0 : Nat)
    (hp : ∀ p ∈ ([.hk, .live, .pwr, .obj 0x0A04, .obj 0x1011, .obj 0x1204] : List Part), p.within ps = true) : Touches ps r (hkRequest s0 a0) := by
  unfold hkRequest
  repeat' first
    | with_reducible assumption | with_reducible apply touches_runBegin | with_reducible apply touches_bump
    | with_reducible apply touches_setHk | with_reducible apply touches_wrPairs
    | with_reducible refine Touches.foldl _ _ ?_ (fun _ _ _ => ?_) | split | fail_if_no_progress extract_lets
    | dsimp +zetaDelta only | refine List.forall_mem_cons.2 ⟨?_, ?_⟩ | exact List.forall_mem_nil _
    | exact sub hp (by decide) | exact hp _ (by decide) | exact ⟨by decide, hp _ (by decide)⟩

theorem touches_runEnd {ps : List Part} {r s0 : State} (h : Touches ps r s0)
    (hp : ∀ p ∈ ([.hk, .pwr, .obj 0x0A04, .obj 0x1204] : List Part), p.within ps = true) : Touches ps r (runEnd s0) := by
  unfold runEnd
  repeat' first
    | with_reducible assumption | with_reducible apply touches_domDown | with_reducible apply touches_showHk
    | with_reducible apply touches_setHk | with_reducible apply touches_wrPairs
    | with_reducible refine Touches.foldl _ _ ?_ (fun _ _ _ => ?_) | split | fail_if_no_progress extract_lets
    | dsimp +zetaDelta only | refine List.forall_mem_cons.2 ⟨?_, ?_⟩ | exact List.forall_mem_nil _
    | exact sub hp (by decide) | exact hp _ (by decide)

theorem touches_hkStopWrite {ps : List Part} {r s0 : State} (h : Touches ps r s0)
    (hp : ∀ p ∈ ([.hk, .pwr, .obj 0x0A04, .obj 0x1204] : List Part), p.within ps = true) : Touches ps r (hkStopWrite s0) := by
  unfold hkStopWrite
  repeat' first
    | with_reducible assumption | with_reducible apply touches_setHk | with_reducible apply touches_runEnd
    | with_reducible apply touches_wrPairs | with_reducible refine Touches.foldl _ _ ?_ (fun _ _ _ => ?_)
    | split | fail_if_no_progress extract_lets | dsimp +zetaDelta only | refine List.forall_mem_cons.2 ⟨?_, ?_⟩
    | exact List.forall_mem_nil _ | exact sub hp (by decide) | exact hp _ (by decide)

theorem touches_hkLost {ps : List Part} {r s0 : State} (h : Touches ps r s0) (a0 : Nat)
    (hp : ∀ p ∈ ([.flt, .notes, .obj 0x0C06] : List Part), p.within ps = true) : Touches ps r (hkLost s0 a0) := by
  unfold hkLost
  repeat' first
    | with_reducible assumption | with_reducible refine touches_raise_plain ?_ (by decide) _ _ _ ?_
    | with_reducible refine touches_raiseDetail_plain ?_ (by decide) _ _ _ _ ?_
    | with_reducible refine touches_raise_plain ?_ (by split <;> decide) _ _ _ ?_
    | with_reducible apply touches_lossyLost | with_reducible apply touches_wrPairs
    | with_reducible refine Touches.foldl _ _ ?_ (fun _ _ _ => ?_) | split | fail_if_no_progress extract_lets
    | dsimp +zetaDelta only | refine List.forall_mem_cons.2 ⟨?_, ?_⟩ | exact List.forall_mem_nil _
    | exact sub hp (by decide) | exact hp _ (by decide)

theorem touches_ringRecord {ps : List Part} {r s0 : State} (h : Touches ps r s0) (a0 : Bytes)
    (hp : ∀ p ∈ ([.flt, .hk, .notes, .obj 0x0C06] : List Part), p.within ps = true) : Touches ps r (ringRecord s0 a0) := by
  unfold ringRecord
  repeat' first
    | with_reducible assumption | with_reducible apply touches_setHk | with_reducible apply touches_hkLost
    | with_reducible apply touches_lossyShow | with_reducible apply touches_wrPairs
    | with_reducible refine Touches.foldl _ _ ?_ (fun _ _ _ => ?_) | split | fail_if_no_progress extract_lets
    | dsimp +zetaDelta only | refine List.forall_mem_cons.2 ⟨?_, ?_⟩ | exact List.forall_mem_nil _
    | exact sub hp (by decide) | exact hp _ (by decide)

theorem touches_bufferRecord {ps : List Part} {r s0 : State} (h : Touches ps r s0) (a0 : Bytes)
    (hp : ∀ p ∈ ([.flt, .hk, .notes, .obj 0x0C06] : List Part), p.within ps = true) : Touches ps r (bufferRecord s0 a0) := by
  unfold bufferRecord
  repeat' first
    | with_reducible assumption | with_reducible apply touches_hkLost | with_reducible apply touches_setHk
    | with_reducible apply touches_wrPairs | with_reducible refine Touches.foldl _ _ ?_ (fun _ _ _ => ?_)
    | split | fail_if_no_progress extract_lets | dsimp +zetaDelta only | refine List.forall_mem_cons.2 ⟨?_, ?_⟩
    | exact List.forall_mem_nil _ | exact sub hp (by decide) | exact hp _ (by decide)

theorem touches_limitCheck {ps : List Part} {r s0 : State} (h : Touches ps r s0) (a0 : Nat) (a1 : Int) (a2 : Bool)
    (hp : ∀ p ∈ ([.flt, .hk, .notes, .obj 0x0C06, .obj 0x1204] : List Part), p.within ps = true) : Touches ps r (limitCheck s0 a0 a1 a2).2 := by
  unfold limitCheck
  repeat' first
    | with_reducible assumption | with_reducible refine touches_raise_plain ?_ (by decide) _ _ _ ?_
    | with_reducible refine touches_raiseDetail_plain ?_ (by decide) _ _ _ _ ?_
    | with_reducible refine touches_raise_plain ?_ (by split <;> decide) _ _ _ ?_
    | with_reducible apply touches_setHk | with_reducible apply touches_wr
    | with_reducible apply touches_endFault | with_reducible apply touches_wrPairs
    | with_reducible refine Touches.foldl _ _ ?_ (fun _ _ _ => ?_)
    | with_reducible refine Touches.foldlSnd _ _ ?_ (fun _ _ _ => ?_)
    | with_reducible refine Touches.foldlSndSnd _ _ ?_ (fun _ _ _ => ?_) | split
    | fail_if_no_progress extract_lets | dsimp +zetaDelta only | refine List.forall_mem_cons.2 ⟨?_, ?_⟩
    | exact List.forall_mem_nil _ | exact sub hp (by decide) | exact hp _ (by decide)
    | exact ⟨by decide, hp _ (by decide)⟩

theorem touches_referenceCheck {ps : List Part} {r s0 : State} (h : Touches ps r s0) (a0 : Nat) (a1 : Nat) (a2 : Int)
    (hp : ∀ p ∈ ([.flt, .notes, .obj 0x0C06] : List Part), p.within ps = true) : Touches ps r (referenceCheck s0 a0 a1 a2) := by
  unfold referenceCheck
  repeat' first
    | with_reducible assumption | with_reducible refine touches_raise_plain ?_ (by decide) _ _ _ ?_
    | with_reducible refine touches_raiseDetail_plain ?_ (by decide) _ _ _ _ ?_
    | with_reducible refine touches_raise_plain ?_ (by split <;> decide) _ _ _ ?_
    | with_reducible apply touches_clearFault | with_reducible apply touches_wrPairs
    | with_reducible refine Touches.foldl _ _ ?_ (fun _ _ _ => ?_) | split

end Sys2Proof
end

