-- ==== Sys2Proof/Laws/CtlOps.lean ====
section
/-! SUPPORT. What each operation of `Machine/CtlOps.lean` may change. -/

namespace Sys2Proof

open Sys2Proof.Machine

theorem touches_hostErr {ps : List Part} {r s0 : State} (h : Touches ps r s0)
    (hp : ∀ p ∈ ([.ctl] : List Part), p.within ps = true) : Touches ps r (hostErr s0) := by
  unfold hostErr
  repeat' first
    | with_reducible assumption | with_reducible apply touches_setCtl | with_reducible apply touches_wrPairs
    | with_reducible refine Touches.foldl _ _ ?_ (fun _ _ _ => ?_) | split | fail_if_no_progress extract_lets
    | dsimp +zetaDelta only | refine List.forall_mem_cons.2 ⟨?_, ?_⟩ | exact List.forall_mem_nil _
    | exact sub hp (by decide) | exact hp _ (by decide)

theorem touches_ringSlot {ps : List Part} {r s0 : State} (h : Touches ps r s0) (a0 : HostRing) (a1 : Nat) (a2 : Bytes) (a3 : Bool)
    (hp : ∀ p ∈ ([.out] : List Part), p.within ps = true) : Touches ps r (ringSlot s0 a0 a1 a2 a3) := by
  unfold ringSlot
  repeat' first
    | with_reducible assumption | with_reducible apply touches_emit | with_reducible apply touches_wrPairs
    | with_reducible refine Touches.foldl _ _ ?_ (fun _ _ _ => ?_) | split | fail_if_no_progress extract_lets
    | dsimp +zetaDelta only | refine List.forall_mem_cons.2 ⟨?_, ?_⟩ | exact List.forall_mem_nil _
    | exact sub hp (by decide) | exact hp _ (by decide)

theorem touches_addDone {ps : List Part} {r s0 : State} (h : Touches ps r s0) (a0 : Nat) (a1 : Completion)
    (hp : ∀ p ∈ ([.ctl] : List Part), p.within ps = true) : Touches ps r (addDone s0 a0 a1) := by
  unfold addDone
  repeat' first
    | with_reducible assumption | with_reducible apply touches_setMail | with_reducible apply touches_wrPairs
    | with_reducible refine Touches.foldl _ _ ?_ (fun _ _ _ => ?_) | split | fail_if_no_progress extract_lets
    | dsimp +zetaDelta only | refine List.forall_mem_cons.2 ⟨?_, ?_⟩ | exact List.forall_mem_nil _
    | exact sub hp (by decide) | exact hp _ (by decide)

theorem touches_commitHead {ps : List Part} {r s0 : State} (h : Touches ps r s0) (a0 : Nat) (a1 : Nat) (a2 : Bytes)
    (hp : ∀ p ∈ ([.ctl] : List Part), p.within ps = true) : Touches ps r (commitHead s0 a0 a1 a2) := by
  unfold commitHead
  repeat' first
    | with_reducible assumption | with_reducible apply touches_setMail | with_reducible apply touches_setCtl
    | with_reducible apply touches_wrPairs | with_reducible refine Touches.foldl _ _ ?_ (fun _ _ _ => ?_)
    | split | fail_if_no_progress extract_lets | dsimp +zetaDelta only | refine List.forall_mem_cons.2 ⟨?_, ?_⟩
    | exact List.forall_mem_nil _ | exact sub hp (by decide) | exact hp _ (by decide)

theorem touches_settle {ps : List Part} {r s0 : State} (h : Touches ps r s0) (a0 : Nat) (a1 : Nat)
    (hp : ∀ p ∈ ([.ctl] : List Part), p.within ps = true) : Touches ps r (settle a0 s0 a1) := by
  induction a0 generalizing s0 a1 with
  | zero =>
    unfold settle
    repeat' first
      | with_reducible assumption
  | succ fuel ih =>
    unfold settle
    repeat' first
      | with_reducible assumption | apply ih | with_reducible apply touches_commitHead
      | with_reducible apply touches_wrPairs | with_reducible refine Touches.foldl _ _ ?_ (fun _ _ _ => ?_)
      | split

theorem touches_commit {ps : List Part} {r s0 : State} (h : Touches ps r s0) (a0 : Nat) (a1 : Nat) (a2 : Bytes)
    (hp : ∀ p ∈ ([.ctl] : List Part), p.within ps = true) : Touches ps r (commit s0 a0 a1 a2) := by
  unfold commit
  repeat' first
    | with_reducible assumption | with_reducible apply touches_settle | with_reducible apply touches_commitHead

theorem touches_acceptFrame {ps : List Part} {r s0 : State} (h : Touches ps r s0) (a0 : Nat) (a1 : Bytes) (a2 : Nat)
    (hp : ∀ p ∈ ([.ctl] : List Part), p.within ps = true) : Touches ps r (acceptFrame s0 a0 a1 a2) := by
  unfold acceptFrame
  repeat' first
    | with_reducible assumption | with_reducible apply touches_setMail | with_reducible apply touches_addDone
    | with_reducible apply touches_settle | with_reducible apply touches_wrPairs
    | with_reducible refine Touches.foldl _ _ ?_ (fun _ _ _ => ?_) | split | fail_if_no_progress extract_lets
    | dsimp +zetaDelta only | refine List.forall_mem_cons.2 ⟨?_, ?_⟩ | exact List.forall_mem_nil _
    | exact sub hp (by decide) | exact hp _ (by decide)

theorem touches_noticeLost {ps : List Part} {r s0 : State} (h : Touches ps r s0)
    (hp : ∀ p ∈ ([.flt, .notes, .obj 0x0C06] : List Part), p.within ps = true) : Touches ps r (noticeLost s0) := by
  unfold noticeLost
  repeat' first
    | with_reducible assumption | with_reducible refine touches_raise_plain ?_ (by decide) _ _ _ ?_
    | with_reducible refine touches_raiseDetail_plain ?_ (by decide) _ _ _ _ ?_
    | with_reducible refine touches_raise_plain ?_ (by split <;> decide) _ _ _ ?_
    | with_reducible apply touches_notice | with_reducible apply touches_wrPairs
    | with_reducible refine Touches.foldl _ _ ?_ (fun _ _ _ => ?_) | split | fail_if_no_progress extract_lets
    | with_reducible apply touches_part_notes | exact id
    | exact fun k => (List.length_take_le _ _).trans (le_trans (Nat.sub_le _ _) k) | dsimp +zetaDelta only
    | refine List.forall_mem_cons.2 ⟨?_, ?_⟩ | exact List.forall_mem_nil _ | exact sub hp (by decide)
    | exact hp _ (by decide)

theorem touches_bar0Word {ps : List Part} {r s0 : State} (h : Touches ps r s0) (a0 : Nat)
    (hp : ∀ p ∈ ([.free] : List Part), p.within ps = true) : Touches ps r (bar0Word s0 a0).2 := by
  unfold bar0Word
  repeat' first
    | with_reducible assumption | with_reducible apply touches_drawFree | with_reducible apply touches_wrPairs
    | with_reducible refine Touches.foldl _ _ ?_ (fun _ _ _ => ?_)
    | with_reducible refine Touches.foldlSnd _ _ ?_ (fun _ _ _ => ?_)
    | with_reducible refine Touches.foldlSndSnd _ _ ?_ (fun _ _ _ => ?_) | split
    | fail_if_no_progress extract_lets | dsimp +zetaDelta only | refine List.forall_mem_cons.2 ⟨?_, ?_⟩
    | exact List.forall_mem_nil _ | exact sub hp (by decide) | exact hp _ (by decide)

end Sys2Proof
end

