-- ==== Sys2Proof/Laws/TimeBase.lean ====
section
/-! SUPPORT. What each operation of `Machine/TimeBase.lean` may change. -/

namespace Sys2Proof

open Sys2Proof.Machine

theorem touches_dropLock {ps : List Part} {r s0 : State} (h : Touches ps r s0)
    (hp : ∀ p ∈ ([.flt, .notes, .time, .obj 0x0C06, .obj 0x0E01] : List Part), p.within ps = true) : Touches ps r (dropLock s0) := by
  unfold dropLock
  repeat' first
    | with_reducible assumption | with_reducible refine touches_raise_plain ?_ (by decide) _ _ _ ?_
    | with_reducible refine touches_raiseDetail_plain ?_ (by decide) _ _ _ _ ?_
    | with_reducible refine touches_raise_plain ?_ (by split <;> decide) _ _ _ ?_
    | with_reducible refine touches_setTime ?_ _ ?_ (.inl rfl) | with_reducible apply touches_wr
    | with_reducible apply touches_wrPairs | with_reducible refine Touches.foldl _ _ ?_ (fun _ _ _ => ?_)
    | split | fail_if_no_progress extract_lets | dsimp +zetaDelta only | refine List.forall_mem_cons.2 ⟨?_, ?_⟩
    | exact List.forall_mem_nil _ | exact sub hp (by decide) | exact hp _ (by decide)
    | exact ⟨by decide, hp _ (by decide)⟩

theorem touches_clearHoldover {ps : List Part} {r s0 : State} (h : Touches ps r s0)
    (hp : ∀ p ∈ ([.flt, .notes, .time, .obj 0x0C06, .obj 0x0E01] : List Part), p.within ps = true) : Touches ps r (clearHoldover s0) := by
  unfold clearHoldover
  repeat' first
    | with_reducible assumption | with_reducible apply touches_clearFault
    | with_reducible refine touches_setTime ?_ _ ?_ (.inl rfl) | with_reducible apply touches_wr
    | with_reducible apply touches_wrPairs | with_reducible refine Touches.foldl _ _ ?_ (fun _ _ _ => ?_)
    | split | fail_if_no_progress extract_lets | dsimp +zetaDelta only | refine List.forall_mem_cons.2 ⟨?_, ?_⟩
    | exact List.forall_mem_nil _ | exact sub hp (by decide) | exact hp _ (by decide)
    | exact ⟨by decide, hp _ (by decide)⟩

theorem touches_lockUpdate {ps : List Part} {r s0 : State} (h : Touches ps r s0) (a0 : Int)
    (hp : ∀ p ∈ ([.flt, .notes, .time, .obj 0x0C06, .obj 0x0E01] : List Part), p.within ps = true) : Touches ps r (lockUpdate s0 a0) := by
  unfold lockUpdate
  repeat' first
    | with_reducible assumption | with_reducible refine touches_setTime ?_ _ ?_ (.inl rfl)
    | with_reducible apply touches_clearFault | with_reducible apply touches_wr
    | with_reducible apply touches_dropLock | with_reducible apply touches_wrPairs
    | with_reducible refine Touches.foldl _ _ ?_ (fun _ _ _ => ?_) | split | fail_if_no_progress extract_lets
    | dsimp +zetaDelta only | refine List.forall_mem_cons.2 ⟨?_, ?_⟩ | exact List.forall_mem_nil _
    | exact sub hp (by decide) | exact hp _ (by decide) | exact ⟨by decide, hp _ (by decide)⟩

theorem touches_frameDrift {ps : List Part} {r s0 : State} (h : Touches ps r s0)
    (hp : ∀ p ∈ ([.flt, .notes, .obj 0x0C06, .obj 0x0E05] : List Part), p.within ps = true) : Touches ps r (frameDrift s0) := by
  unfold frameDrift
  repeat' first
    | with_reducible assumption | with_reducible refine touches_raise_plain ?_ (by decide) _ _ _ ?_
    | with_reducible refine touches_raiseDetail_plain ?_ (by decide) _ _ _ _ ?_
    | with_reducible refine touches_raise_plain ?_ (by split <;> decide) _ _ _ ?_
    | with_reducible apply touches_wr | with_reducible apply touches_wrPairs
    | with_reducible refine Touches.foldl _ _ ?_ (fun _ _ _ => ?_) | split | fail_if_no_progress extract_lets
    | dsimp +zetaDelta only | refine List.forall_mem_cons.2 ⟨?_, ?_⟩ | exact List.forall_mem_nil _
    | exact sub hp (by decide) | exact hp _ (by decide) | exact ⟨by decide, hp _ (by decide)⟩

theorem touches_ppsCapture {ps : List Part} {r s0 : State} (h : Touches ps r s0) (a0 : Nat) (a1 : Int)
    (hp : ∀ p ∈ ([.flt, .notes, .time, .obj 0x0C06, .obj 0x0E01, .obj 0x0E05] : List Part), p.within ps = true) : Touches ps r (ppsCapture s0 a0 a1) := by
  unfold ppsCapture
  repeat' first
    | with_reducible assumption | with_reducible refine touches_raise_plain ?_ (by decide) _ _ _ ?_
    | with_reducible refine touches_raiseDetail_plain ?_ (by decide) _ _ _ _ ?_
    | with_reducible refine touches_raise_plain ?_ (by split <;> decide) _ _ _ ?_
    | with_reducible apply touches_wr | with_reducible apply touches_clearFault
    | with_reducible refine touches_setTime ?_ _ ?_ (.inl rfl) | with_reducible apply touches_frameDrift
    | with_reducible apply touches_lockUpdate | with_reducible apply touches_clearHoldover
    | with_reducible apply touches_wrPairs | with_reducible refine Touches.foldl _ _ ?_ (fun _ _ _ => ?_)
    | split | fail_if_no_progress extract_lets | dsimp +zetaDelta only | refine List.forall_mem_cons.2 ⟨?_, ?_⟩
    | exact List.forall_mem_nil _ | exact sub hp (by decide) | exact hp _ (by decide)
    | exact ⟨by decide, hp _ (by decide)⟩

theorem touches_ppsEdge {ps : List Part} {r s0 : State} (h : Touches ps r s0) (a0 : Nat)
    (hp : ∀ p ∈ ([.flt, .notes, .rc64, .time, .obj 0x0C06, .obj 0x0E01, .obj 0x0E05] : List Part), p.within ps = true) : Touches ps r (ppsEdge s0 a0) := by
  unfold ppsEdge
  repeat' first
    | with_reducible assumption | with_reducible refine touches_raise_plain ?_ (by decide) _ _ _ ?_
    | with_reducible refine touches_raiseDetail_plain ?_ (by decide) _ _ _ _ ?_
    | with_reducible refine touches_raise_plain ?_ (by split <;> decide) _ _ _ ?_
    | with_reducible refine touches_setTime ?_ _ ?_ (.inl rfl)
    | with_reducible refine touches_setTime ?_ _ ?_ (.inr (hp _ (by decide)))
    | with_reducible apply touches_dropLock | with_reducible apply touches_wr
    | with_reducible apply touches_ppsCapture | with_reducible apply touches_bumpSat
    | with_reducible apply touches_wrPairs | with_reducible refine Touches.foldl _ _ ?_ (fun _ _ _ => ?_)
    | split | fail_if_no_progress extract_lets | with_reducible apply touches_part_rc64 | dsimp +zetaDelta only
    | refine List.forall_mem_cons.2 ⟨?_, ?_⟩ | exact List.forall_mem_nil _ | exact sub hp (by decide)
    | exact hp _ (by decide) | exact ⟨by decide, hp _ (by decide)⟩

theorem touches_reconvertOne {ps : List Part} {r s0 : State} (h : Touches ps r s0) (a0 : Nat)
    (hp : ∀ p ∈ ([.obj 0x0E06] : List Part), p.within ps = true) : Touches ps r (reconvertOne s0 a0) := by
  unfold reconvertOne
  repeat' first
    | with_reducible assumption | with_reducible apply touches_wr | with_reducible apply touches_wrPairs
    | with_reducible refine Touches.foldl _ _ ?_ (fun _ _ _ => ?_) | split | fail_if_no_progress extract_lets
    | dsimp +zetaDelta only | refine List.forall_mem_cons.2 ⟨?_, ?_⟩ | exact List.forall_mem_nil _
    | exact sub hp (by decide) | exact hp _ (by decide) | exact ⟨by decide, hp _ (by decide)⟩

theorem touches_civilReconvert {ps : List Part} {r s0 : State} (h : Touches ps r s0)
    (hp : ∀ p ∈ ([.obj 0x0E06] : List Part), p.within ps = true) : Touches ps r (civilReconvert s0) := by
  unfold civilReconvert
  repeat' first
    | with_reducible assumption | with_reducible apply touches_reconvertOne
    | with_reducible apply touches_wrPairs | with_reducible refine Touches.foldl _ _ ?_ (fun _ _ _ => ?_)

theorem touches_incWrite {ps : List Part} {r s0 : State} (h : Touches ps r s0) (a0 : Nat) (a1 : Nat)
    (hp : ∀ p ∈ ([.time, .obj 0x0E02] : List Part), p.within ps = true) : Touches ps r (incWrite s0 a0 a1) := by
  unfold incWrite
  repeat' first
    | with_reducible assumption | with_reducible refine touches_setTime ?_ _ ?_ (.inl rfl)
    | with_reducible apply touches_wr | with_reducible apply touches_wrPairs
    | with_reducible refine Touches.foldl _ _ ?_ (fun _ _ _ => ?_) | split | fail_if_no_progress extract_lets
    | dsimp +zetaDelta only | refine List.forall_mem_cons.2 ⟨?_, ?_⟩ | exact List.forall_mem_nil _
    | exact sub hp (by decide) | exact hp _ (by decide) | exact ⟨by decide, hp _ (by decide)⟩

theorem touches_timeOpWrite {ps : List Part} {r s0 : State} (h : Touches ps r s0) (a0 : TimeOp)
    (hp : ∀ p ∈ ([.time, .obj 0x0E03] : List Part), p.within ps = true) : Touches ps r (timeOpWrite s0 a0) := by
  unfold timeOpWrite
  repeat' first
    | with_reducible assumption | with_reducible refine touches_setTime ?_ _ ?_ (.inl rfl)
    | with_reducible apply touches_wr | with_reducible apply touches_wrPairs
    | with_reducible refine Touches.foldl _ _ ?_ (fun _ _ _ => ?_) | split | fail_if_no_progress extract_lets
    | dsimp +zetaDelta only | refine List.forall_mem_cons.2 ⟨?_, ?_⟩ | exact List.forall_mem_nil _
    | exact sub hp (by decide) | exact hp _ (by decide) | exact ⟨by decide, hp _ (by decide)⟩

theorem touches_cmpWrite {ps : List Part} {r s0 : State} (h : Touches ps r s0) (a0 : Nat) (a1 : CmpWrite)
    (hp : ∀ p ∈ ([.time, .obj 0x0E06] : List Part), p.within ps = true) : Touches ps r (cmpWrite s0 a0 a1) := by
  unfold cmpWrite
  repeat' first
    | with_reducible assumption | with_reducible apply touches_wr
    | with_reducible refine touches_setTime ?_ _ ?_ (.inl rfl) | with_reducible apply touches_wrPairs
    | with_reducible refine Touches.foldl _ _ ?_ (fun _ _ _ => ?_) | split | fail_if_no_progress extract_lets
    | dsimp +zetaDelta only | refine List.forall_mem_cons.2 ⟨?_, ?_⟩ | exact List.forall_mem_nil _
    | exact sub hp (by decide) | exact hp _ (by decide) | exact ⟨by decide, hp _ (by decide)⟩

theorem touches_cmpMissed {ps : List Part} {r s0 : State} (h : Touches ps r s0) (a0 : Nat) (a1 : Nat)
    (hp : ∀ p ∈ ([.flt, .notes, .obj 0x0C06, .obj 0x0E06] : List Part), p.within ps = true) : Touches ps r (cmpMissed s0 a0 a1) := by
  unfold cmpMissed
  repeat' first
    | with_reducible assumption | with_reducible refine touches_raise_plain ?_ (by decide) _ _ _ ?_
    | with_reducible refine touches_raiseDetail_plain ?_ (by decide) _ _ _ _ ?_
    | with_reducible refine touches_raise_plain ?_ (by split <;> decide) _ _ _ ?_
    | with_reducible apply touches_bumpSat | with_reducible apply touches_wrPairs
    | with_reducible refine Touches.foldl _ _ ?_ (fun _ _ _ => ?_) | split | fail_if_no_progress extract_lets
    | dsimp +zetaDelta only | refine List.forall_mem_cons.2 ⟨?_, ?_⟩ | exact List.forall_mem_nil _
    | exact sub hp (by decide) | exact hp _ (by decide) | exact ⟨by decide, hp _ (by decide)⟩

theorem touches_cmpAfterFire {ps : List Part} {r s0 : State} (h : Touches ps r s0) (a0 : Nat) (a1 : Bool)
    (hp : ∀ p ∈ ([.flt, .notes, .time, .obj 0x0C06, .obj 0x0E06] : List Part), p.within ps = true) : Touches ps r (cmpAfterFire s0 a0 a1) := by
  unfold cmpAfterFire
  repeat' first
    | with_reducible assumption | with_reducible refine touches_raise_plain ?_ (by decide) _ _ _ ?_
    | with_reducible refine touches_raiseDetail_plain ?_ (by decide) _ _ _ _ ?_
    | with_reducible refine touches_raise_plain ?_ (by split <;> decide) _ _ _ ?_
    | with_reducible apply touches_wr | with_reducible refine touches_setTime ?_ _ ?_ (.inl rfl)
    | with_reducible apply touches_cmpMissed | with_reducible apply touches_wrPairs
    | with_reducible refine Touches.foldl _ _ ?_ (fun _ _ _ => ?_) | split | fail_if_no_progress extract_lets
    | dsimp +zetaDelta only | refine List.forall_mem_cons.2 ⟨?_, ?_⟩ | exact List.forall_mem_nil _
    | exact sub hp (by decide) | exact hp _ (by decide) | exact ⟨by decide, hp _ (by decide)⟩

theorem touches_idleTick {ps : List Part} {r s0 : State} (h : Touches ps r s0)
    (hp : ∀ p ∈ ([.rc64, .time] : List Part), p.within ps = true) : Touches ps r (idleTick s0) := by
  unfold idleTick
  repeat' first
    | with_reducible assumption | with_reducible refine touches_setTime ?_ _ ?_ (.inl rfl)
    | with_reducible refine touches_setTime ?_ _ ?_ (.inr (hp _ (by decide)))
    | with_reducible apply touches_wrPairs | with_reducible refine Touches.foldl _ _ ?_ (fun _ _ _ => ?_)
    | split | fail_if_no_progress extract_lets | with_reducible apply touches_part_rc64 | dsimp +zetaDelta only
    | refine List.forall_mem_cons.2 ⟨?_, ?_⟩ | exact List.forall_mem_nil _ | exact sub hp (by decide)
    | exact hp _ (by decide)

end Sys2Proof
end

