-- ==== Sys2Proof/Laws/Jobs.lean ====
section
/-! SUPPORT. What each operation of `Machine/Jobs.lean` may change. -/

namespace Sys2Proof

open Sys2Proof.Machine

theorem touches_queueJob {ps : List Part} {r s0 : State} (h : Touches ps r s0) (a0 : CompressJob)
    (hp : ∀ p ∈ ([.cmp, .mov, .pwr, .obj 0x0A04, .obj 0x1011, .obj 0x1106] : List Part), p.within ps = true) : Touches ps r (queueJob s0 a0) := by
  unfold queueJob
  repeat' first
    | with_reducible assumption | with_reducible apply touches_setCmp | with_reducible apply touches_clockStarts
    | with_reducible apply touches_domUp | with_reducible apply touches_wrPairs
    | with_reducible refine Touches.foldl _ _ ?_ (fun _ _ _ => ?_) | split | fail_if_no_progress extract_lets
    | dsimp +zetaDelta only | refine List.forall_mem_cons.2 ⟨?_, ?_⟩ | exact List.forall_mem_nil _
    | exact sub hp (by decide) | exact hp _ (by decide)

theorem touches_engineRests {ps : List Part} {r s0 : State} (h : Touches ps r s0) (a0 : Nat)
    (hp : ∀ p ∈ ([.pwr, .obj 0x0A04] : List Part), p.within ps = true) : Touches ps r (engineRests s0 a0) := by
  unfold engineRests
  repeat' first
    | with_reducible assumption | with_reducible apply touches_demandDown | with_reducible apply touches_wrPairs
    | with_reducible refine Touches.foldl _ _ ?_ (fun _ _ _ => ?_) | split

theorem touches_jobCounts {ps : List Part} {r s0 : State} (h : Touches ps r s0) (a0 : CompressJob) (a1 : JobEnd)
    (hp : ∀ p ∈ ([.flt, .notes, .obj 0x0B04, .obj 0x0C06] : List Part), p.within ps = true) : Touches ps r (jobCounts s0 a0 a1) := by
  unfold jobCounts
  repeat' first
    | with_reducible assumption | with_reducible refine touches_raise_plain ?_ (by decide) _ _ _ ?_
    | with_reducible refine touches_raiseDetail_plain ?_ (by decide) _ _ _ _ ?_
    | with_reducible refine touches_raise_plain ?_ (by split <;> decide) _ _ _ ?_
    | with_reducible apply touches_bump | with_reducible apply touches_wrPairs
    | with_reducible refine Touches.foldl _ _ ?_ (fun _ _ _ => ?_) | split | fail_if_no_progress extract_lets
    | dsimp +zetaDelta only | refine List.forall_mem_cons.2 ⟨?_, ?_⟩ | exact List.forall_mem_nil _
    | exact sub hp (by decide) | exact hp _ (by decide) | exact ⟨by decide, hp _ (by decide)⟩

theorem touches_jobDelivered {ps : List Part} {r s0 : State} (h : Touches ps r s0) (a0 : CompressJob) (a1 : JobEnd)
    (hp : ∀ p ∈ ([.ctl, .mov, .pwr, .obj 0x1106] : List Part), p.within ps = true) : Touches ps r (jobDelivered s0 a0 a1) := by
  unfold jobDelivered
  repeat' first
    | with_reducible assumption | with_reducible apply touches_ringSend | with_reducible apply touches_commit
    | with_reducible apply touches_wrPairs | with_reducible refine Touches.foldl _ _ ?_ (fun _ _ _ => ?_)
    | split | fail_if_no_progress extract_lets | dsimp +zetaDelta only | refine List.forall_mem_cons.2 ⟨?_, ?_⟩
    | exact List.forall_mem_nil _ | exact sub hp (by decide) | exact hp _ (by decide)

theorem touches_jobsAborted {ps : List Part} {r s0 : State} (h : Touches ps r s0)
    (hp : ∀ p ∈ ([.cmp, .ctl, .flt, .free, .notes, .obj 0x0C06] : List Part), p.within ps = true) : Touches ps r (jobsAborted s0) := by
  unfold jobsAborted
  repeat' first
    | with_reducible assumption | with_reducible refine touches_raise_plain ?_ (by decide) _ _ _ ?_
    | with_reducible refine touches_raiseDetail_plain ?_ (by decide) _ _ _ _ ?_
    | with_reducible refine touches_raise_plain ?_ (by split <;> decide) _ _ _ ?_
    | with_reducible apply touches_drawFree | with_reducible apply touches_commit
    | with_reducible apply touches_setCmp | with_reducible apply touches_wrPairs
    | with_reducible refine Touches.foldl _ _ ?_ (fun _ _ _ => ?_) | split | fail_if_no_progress extract_lets
    | dsimp +zetaDelta only | refine List.forall_mem_cons.2 ⟨?_, ?_⟩ | exact List.forall_mem_nil _
    | exact sub hp (by decide) | exact hp _ (by decide)

theorem touches_startWithData {ps : List Part} {r s0 : State} (h : Touches ps r s0) (a0 : Nat) (a1 : Nat) (a2 : Nat)
    (hp : ∀ p ∈ ([.ctl, .mov, .out, .obj 0x0C03, .obj 0x0C04] : List Part), p.within ps = true) : Touches ps r (startWithData s0 a0 a1 a2) := by
  unfold startWithData
  repeat' first
    | with_reducible assumption | with_reducible apply touches_h2dTake | with_reducible apply touches_setHead
    | with_reducible apply touches_wrPairs | with_reducible refine Touches.foldl _ _ ?_ (fun _ _ _ => ?_)
    | split | fail_if_no_progress extract_lets | dsimp +zetaDelta only | refine List.forall_mem_cons.2 ⟨?_, ?_⟩
    | exact List.forall_mem_nil _ | exact sub hp (by decide) | exact hp _ (by decide)

end Sys2Proof
end

