-- ==== Sys2Proof/Laws/Power.lean ====
section
/-! SUPPORT. What each operation of `Machine/Power.lean` may change. -/

namespace Sys2Proof

open Sys2Proof.Machine

theorem touches_vout {ps : List Part} {r s0 : State} (h : Touches ps r s0) (a0 : Nat) (a1 : Nat)
    (hp : ∀ p ∈ ([.out] : List Part), p.within ps = true) : Touches ps r (vout s0 a0 a1) := by
  unfold vout
  repeat' first
    | with_reducible assumption | with_reducible apply touches_emit | with_reducible apply touches_wrPairs
    | with_reducible refine Touches.foldl _ _ ?_ (fun _ _ _ => ?_) | split | fail_if_no_progress extract_lets
    | dsimp +zetaDelta only | refine List.forall_mem_cons.2 ⟨?_, ?_⟩ | exact List.forall_mem_nil _
    | exact sub hp (by decide) | exact hp _ (by decide)

theorem touches_setPoint {ps : List Part} {r s0 : State} (h : Touches ps r s0) (a0 : Nat)
    (hp : ∀ p ∈ ([.flt, .notes, .obj 0x0C06, .obj 0x1102] : List Part), p.within ps = true) : Touches ps r (setPoint s0 a0) := by
  unfold setPoint
  repeat' first
    | with_reducible assumption | with_reducible apply touches_wr | with_reducible apply touches_clearFault
    | with_reducible apply touches_wrPairs | with_reducible refine Touches.foldl _ _ ?_ (fun _ _ _ => ?_)
    | split | fail_if_no_progress extract_lets | dsimp +zetaDelta only | refine List.forall_mem_cons.2 ⟨?_, ?_⟩
    | exact List.forall_mem_nil _ | exact sub hp (by decide) | exact hp _ (by decide)
    | exact ⟨by decide, hp _ (by decide)⟩

theorem touches_pointGranted {ps : List Part} {r s0 : State} (h : Touches ps r s0)
    (hp : ∀ p ∈ ([.flt, .notes, .out, .pwr, .obj 0x0C06, .obj 0x1102] : List Part), p.within ps = true) : Touches ps r (pointGranted s0) := by
  unfold pointGranted
  repeat' first
    | with_reducible assumption | with_reducible apply touches_vout | with_reducible apply touches_setPwr
    | with_reducible apply touches_setPoint | with_reducible apply touches_wrPairs
    | with_reducible refine Touches.foldl _ _ ?_ (fun _ _ _ => ?_) | split | fail_if_no_progress extract_lets
    | dsimp +zetaDelta only | refine List.forall_mem_cons.2 ⟨?_, ?_⟩ | exact List.forall_mem_nil _
    | exact sub hp (by decide) | exact hp _ (by decide)

theorem touches_askPoint {ps : List Part} {r s0 : State} (h : Touches ps r s0) (a0 : Nat)
    (hp : ∀ p ∈ ([.pwr] : List Part), p.within ps = true) : Touches ps r (askPoint s0 a0) := by
  unfold askPoint
  repeat' first
    | with_reducible assumption | with_reducible apply touches_paced | with_reducible apply touches_setPwr
    | with_reducible apply touches_wrPairs | with_reducible refine Touches.foldl _ _ ?_ (fun _ _ _ => ?_)
    | split | fail_if_no_progress extract_lets | dsimp +zetaDelta only | refine List.forall_mem_cons.2 ⟨?_, ?_⟩
    | exact List.forall_mem_nil _ | exact sub hp (by decide) | exact hp _ (by decide)

theorem touches_pointFollow {ps : List Part} {r s0 : State} (h : Touches ps r s0)
    (hp : ∀ p ∈ ([.pwr] : List Part), p.within ps = true) : Touches ps r (pointFollow s0) := by
  unfold pointFollow
  repeat' first
    | with_reducible assumption | with_reducible apply touches_askPoint | with_reducible apply touches_wrPairs
    | with_reducible refine Touches.foldl _ _ ?_ (fun _ _ _ => ?_) | split | fail_if_no_progress extract_lets

theorem touches_pacedEnds {ps : List Part} {r s0 : State} (h : Touches ps r s0) (a0 : Paced)
    (hp : ∀ p ∈ ([.flt, .notes, .out, .pwr, .obj 0x0A04, .obj 0x0C06, .obj 0x1011, .obj 0x1102, .obj 0x1106] : List Part), p.within ps = true) : Touches ps r (pacedEnds s0 a0) := by
  unfold pacedEnds
  repeat' first
    | with_reducible assumption | with_reducible apply touches_downEnds | with_reducible apply touches_setDom
    | with_reducible apply touches_wr | with_reducible apply touches_pointFollow
    | with_reducible apply touches_pointGranted | with_reducible apply touches_wrPairs
    | with_reducible refine Touches.foldl _ _ ?_ (fun _ _ _ => ?_) | split | fail_if_no_progress extract_lets
    | dsimp +zetaDelta only | refine List.forall_mem_cons.2 ⟨?_, ?_⟩ | exact List.forall_mem_nil _
    | exact sub hp (by decide) | exact hp _ (by decide) | exact ⟨by decide, hp _ (by decide)⟩

theorem touches_dormantWhole {ps : List Part} {r s0 : State} (h : Touches ps r s0)
    (hp : ∀ p ∈ ([.aon, .out] : List Part), p.within ps = true) : Touches ps r (dormantWhole s0) := by
  unfold dormantWhole
  repeat' first
    | with_reducible assumption | with_reducible apply touches_emit | with_reducible apply touches_setAon
    | with_reducible apply touches_vout | with_reducible apply touches_wrPairs
    | with_reducible refine Touches.foldl _ _ ?_ (fun _ _ _ => ?_) | split | fail_if_no_progress extract_lets
    | dsimp +zetaDelta only | refine List.forall_mem_cons.2 ⟨?_, ?_⟩ | exact List.forall_mem_nil _
    | exact sub hp (by decide) | exact hp _ (by decide)

end Sys2Proof
end

