-- ==== Sys2Proof/Laws/Mov.lean ====
section
/-! SUPPORT. What each operation of `Machine/Mov.lean` may change. -/

namespace Sys2Proof

open Sys2Proof.Machine

/-- The fault of a refused access is not FATAL (R283). -/
theorem accessError_plain {s : State} {a : MatrixAccess} {e : Nat × Nat} (h : accessError s a = some e) :
    severityOf e.2 ≠ 3 := by
  unfold accessError at h
  repeat' first
    | split at h | (cases h; decide) | cases h

theorem touches_matrixWrite {ps : List Part} {r s0 : State} (h : Touches ps r s0) (a0 : MatrixAccess)
    (hp : ∀ p ∈ ([.bbl, .dah, .flt, .free, .fst, .mem, .mov, .notes, .out, .pwr, .sun, .obj 0x0A04, .obj 0x0A05, .obj 0x0A06, .obj 0x0A07, .obj 0x0C06, .obj 0x1106] : List Part), p.within ps = true) : Touches ps r (matrixWrite s0 a0) := by
  unfold matrixWrite
  repeat' first
    | with_reducible assumption | with_reducible apply touches_storeWord
    | with_reducible apply touches_clockStarts | with_reducible apply touches_setMov
    | with_reducible apply touches_emit | with_reducible apply touches_wrPairs
    | with_reducible refine Touches.foldl _ _ ?_ (fun _ _ _ => ?_) | split | fail_if_no_progress extract_lets
    | with_reducible apply touches_part_mem | exact memStrobed_keeps_wf _ _ _ _ | dsimp +zetaDelta only
    | refine List.forall_mem_cons.2 ⟨?_, ?_⟩ | exact List.forall_mem_nil _ | exact sub hp (by decide)
    | exact hp _ (by decide)

theorem touches_matrixRead {ps : List Part} {r s0 : State} (h : Touches ps r s0) (a0 : MatrixAccess)
    (hp : ∀ p ∈ ([.bbl, .dah, .flt, .free, .fst, .mem, .mov, .notes, .pwr, .sun, .obj 0x0A04, .obj 0x0A05, .obj 0x0A06, .obj 0x0A07, .obj 0x0C06, .obj 0x1106] : List Part), p.within ps = true) : Touches ps r (matrixRead s0 a0).2.2 := by
  unfold matrixRead
  repeat' first
    | with_reducible assumption | with_reducible apply touches_readWord
    | with_reducible apply touches_clockStarts | with_reducible apply touches_drawFree
    | with_reducible apply touches_wrPairs | with_reducible refine Touches.foldl _ _ ?_ (fun _ _ _ => ?_)
    | with_reducible refine Touches.foldlSnd _ _ ?_ (fun _ _ _ => ?_)
    | with_reducible refine Touches.foldlSndSnd _ _ ?_ (fun _ _ _ => ?_) | split
    | fail_if_no_progress extract_lets | dsimp +zetaDelta only | refine List.forall_mem_cons.2 ⟨?_, ?_⟩
    | exact List.forall_mem_nil _ | exact sub hp (by decide) | exact hp _ (by decide)

theorem touches_budget {ps : List Part} {r s0 : State} (h : Touches ps r s0) (a0 : MatrixAccess)
    (hp : ∀ p ∈ ([.obj 0x0C08] : List Part), p.within ps = true) : Touches ps r (budget s0 a0) := by
  unfold budget
  repeat' first
    | with_reducible assumption | with_reducible apply touches_wr | with_reducible apply touches_bump
    | with_reducible apply touches_wrPairs | with_reducible refine Touches.foldl _ _ ?_ (fun _ _ _ => ?_)
    | split | fail_if_no_progress extract_lets | dsimp +zetaDelta only | refine List.forall_mem_cons.2 ⟨?_, ?_⟩
    | exact List.forall_mem_nil _ | exact sub hp (by decide) | exact hp _ (by decide)
    | exact ⟨by decide, hp _ (by decide)⟩

theorem touches_burstCut {ps : List Part} {r s0 : State} (h : Touches ps r s0) (a0 : MatrixAccess)
    (hp : ∀ p ∈ ([.bbl, .dah, .flt, .free, .fst, .mem, .mov, .notes, .out, .pwr, .sun, .obj 0x0A04, .obj 0x0A05, .obj 0x0A06, .obj 0x0A07, .obj 0x0C06, .obj 0x1106] : List Part), p.within ps = true) : Touches ps r (burstCut s0 a0) := by
  unfold burstCut
  repeat' first
    | with_reducible assumption | with_reducible apply touches_matrixWrite
    | with_reducible apply touches_wrPairs | with_reducible refine Touches.foldl _ _ ?_ (fun _ _ _ => ?_)
    | split

theorem touches_spoiledCrc {ps : List Part} {r s0 : State} (h : Touches ps r s0) (a0 : Nat)
    (hp : ∀ p ∈ ([.free] : List Part), p.within ps = true) : Touches ps r (spoiledCrc s0 a0).2 := by
  unfold spoiledCrc
  repeat' first
    | with_reducible assumption | with_reducible apply touches_drawFree | with_reducible apply touches_wrPairs
    | with_reducible refine Touches.foldl _ _ ?_ (fun _ _ _ => ?_)
    | with_reducible refine Touches.foldlSnd _ _ ?_ (fun _ _ _ => ?_)
    | with_reducible refine Touches.foldlSndSnd _ _ ?_ (fun _ _ _ => ?_) | split
    | fail_if_no_progress extract_lets | dsimp +zetaDelta only | refine List.forall_mem_cons.2 ⟨?_, ?_⟩
    | exact List.forall_mem_nil _ | exact sub hp (by decide) | exact hp _ (by decide)

theorem touches_spoiled {ps : List Part} {r s0 : State} (h : Touches ps r s0) (a0 : Bytes)
    (hp : ∀ p ∈ ([.free] : List Part), p.within ps = true) : Touches ps r (spoiled s0 a0).2 := by
  unfold spoiled
  repeat' first
    | with_reducible assumption | with_reducible apply touches_spoiledCrc

theorem touches_poisoned {ps : List Part} {r s0 : State} (h : Touches ps r s0) (a0 : Nat) (a1 : Nat)
    (hp : ∀ p ∈ ([.axl, .conc, .dah, .flt, .free, .mov, .notes, .peer, .obj 0x0C06] : List Part), p.within ps = true) : Touches ps r (poisoned s0 a0 a1) := by
  unfold poisoned
  repeat' first
    | with_reducible assumption | with_reducible apply touches_setMov | with_reducible apply touches_spoiled
    | with_reducible apply touches_setDah | with_reducible apply touches_setConc
    | with_reducible apply touches_setRing | with_reducible apply touches_setPeer
    | with_reducible apply touches_setAxPort | with_reducible apply touches_noticeLost
    | with_reducible apply touches_wrPairs | with_reducible refine Touches.foldl _ _ ?_ (fun _ _ _ => ?_)
    | split | fail_if_no_progress extract_lets | with_reducible apply touches_part_notes | exact id
    | exact fun k => (List.length_take_le _ _).trans (le_trans (Nat.sub_le _ _) k) | dsimp +zetaDelta only
    | refine List.forall_mem_cons.2 ⟨?_, ?_⟩ | exact List.forall_mem_nil _ | exact sub hp (by decide)
    | exact hp _ (by decide)

theorem touches_packetSent {ps : List Part} {r s0 : State} (h : Touches ps r s0) (a0 : Nat) (a1 : Nat)
    (hp : ∀ p ∈ ([.mov, .pwr, .obj 0x1106] : List Part), p.within ps = true) : Touches ps r (packetSent s0 a0 a1) := by
  unfold packetSent
  repeat' first
    | with_reducible assumption | with_reducible apply touches_clockStarts | with_reducible apply touches_setMov
    | with_reducible apply touches_wrPairs | with_reducible refine Touches.foldl _ _ ?_ (fun _ _ _ => ?_)
    | split | fail_if_no_progress extract_lets | dsimp +zetaDelta only | refine List.forall_mem_cons.2 ⟨?_, ?_⟩
    | exact List.forall_mem_nil _ | exact sub hp (by decide) | exact hp _ (by decide)

theorem touches_slotError {ps : List Part} {r s0 : State} (h : Touches ps r s0) (a0 : Nat) (a1 : Nat) (a2 : Nat)
    (hp : ∀ p ∈ ([.axl, .conc, .dah, .flt, .free, .mov, .notes, .peer, .obj 0x0C05, .obj 0x0C06] : List Part), p.within ps = true) : Touches ps r (slotError s0 a0 a1 a2) := by
  unfold slotError
  repeat' first
    | with_reducible assumption | with_reducible refine touches_raise_plain ?_ (by decide) _ _ _ ?_
    | with_reducible refine touches_raiseDetail_plain ?_ (by decide) _ _ _ _ ?_
    | with_reducible refine touches_raise_plain ?_ (by split <;> decide) _ _ _ ?_
    | with_reducible apply touches_bumpSat | with_reducible apply touches_poisoned
    | with_reducible apply touches_wrPairs | with_reducible refine Touches.foldl _ _ ?_ (fun _ _ _ => ?_)
    | split | fail_if_no_progress extract_lets | dsimp +zetaDelta only | refine List.forall_mem_cons.2 ⟨?_, ?_⟩
    | exact List.forall_mem_nil _ | exact sub hp (by decide) | exact hp _ (by decide)
    | exact ⟨by decide, hp _ (by decide)⟩

theorem touches_kindWrite {ps : List Part} {r s0 : State} (h : Touches ps r s0) (a0 : Nat) (a1 : Nat)
    (hp : ∀ p ∈ ([.flt, .mov, .out, .obj 0x0C03, .obj 0x0C04] : List Part), p.within ps = true) : Touches ps r (kindWrite s0 a0 a1) := by
  unfold kindWrite
  repeat' first
    | with_reducible assumption | with_reducible apply touches_ringStop | with_reducible apply touches_ringStart
    | with_reducible apply touches_wrPairs | with_reducible refine Touches.foldl _ _ ?_ (fun _ _ _ => ?_)
    | split | fail_if_no_progress extract_lets | dsimp +zetaDelta only | refine List.forall_mem_cons.2 ⟨?_, ?_⟩
    | exact List.forall_mem_nil _ | exact sub hp (by decide) | exact hp _ (by decide)

theorem touches_placeAt {ps : List Part} {r s0 : State} (h : Touches ps r s0) (a0 : Nat) (a1 : Bytes)
    (hp : ∀ p ∈ ([.flt, .notes, .out, .obj 0x0C06, .obj 0x0C07] : List Part), p.within ps = true) : Touches ps r (placeAt s0 a0 a1) := by
  unfold placeAt
  repeat' first
    | with_reducible assumption | with_reducible apply touches_emit
    | with_reducible refine touches_movError ?_ (by decide) _ _ _ ?_
    | with_reducible refine touches_movError ?_ (by split <;> decide) _ _ _ ?_
    | with_reducible refine touches_movError ?_ (accessError_plain ‹_›) _ _ _ ?_
    | with_reducible apply touches_wrPairs | with_reducible refine Touches.foldl _ _ ?_ (fun _ _ _ => ?_)
    | split | fail_if_no_progress extract_lets | dsimp +zetaDelta only | refine List.forall_mem_cons.2 ⟨?_, ?_⟩
    | exact List.forall_mem_nil _ | exact sub hp (by decide) | exact hp _ (by decide)

theorem touches_placePayload {ps : List Part} {r s0 : State} (h : Touches ps r s0) (a0 : DumpRecord)
    (hp : ∀ p ∈ ([.flt, .notes, .out, .obj 0x0C06, .obj 0x0C07] : List Part), p.within ps = true) : Touches ps r (placePayload s0 a0) := by
  unfold placePayload
  repeat' first
    | with_reducible assumption | with_reducible apply touches_placeAt | with_reducible apply touches_wrPairs
    | with_reducible refine Touches.foldl _ _ ?_ (fun _ _ _ => ?_) | split

theorem touches_pullRecord {ps : List Part} {r s0 : State} {a0 : Nat} {a1 : Nat} {t : DmaRecord × State} (e : (pullRecord s0 a0 a1) = some t) (h : Touches ps r s0)
    (hp : ∀ p ∈ ([.conc, .dah, .flt, .mov, .notes, .out, .pwr, .sun, .obj 0x0808, .obj 0x0C06, .obj 0x0C07, .obj 0x1106] : List Part), p.within ps = true) : Touches ps r t.2 := by
  unfold pullRecord at e
  revert e
  repeat' first
    | with_reducible assumption | with_reducible apply touches_dumpTaken
    | with_reducible apply touches_placePayload | with_reducible apply touches_eventTaken
    | with_reducible apply touches_lossyShow | with_reducible apply touches_setSun
    | with_reducible apply touches_wrPairs | with_reducible refine Touches.foldl _ _ ?_ (fun _ _ _ => ?_)
    | with_reducible refine Touches.foldlSnd _ _ ?_ (fun _ _ _ => ?_)
    | with_reducible refine Touches.foldlSndSnd _ _ ?_ (fun _ _ _ => ?_) | split
    | fail_if_no_progress extract_lets | dsimp +zetaDelta only | refine List.forall_mem_cons.2 ⟨?_, ?_⟩
    | exact List.forall_mem_nil _ | exact sub hp (by decide) | exact hp _ (by decide)
    | exact ⟨by decide, hp _ (by decide)⟩
    | exact ⟨by decide, sub hp (as := [_]) (by decide) _ List.mem_cons_self⟩
    | exact sub hp (as := [_]) (by decide) _ List.mem_cons_self | (intro e; cases e; try dsimp only)

theorem touches_withRecord {ps : List Part} {r s0 : State} (h : Touches ps r s0) (a0 : Nat) (a1 : Nat)
    (hp : ∀ p ∈ ([.conc, .dah, .flt, .mov, .notes, .out, .pwr, .sun, .obj 0x0808, .obj 0x0C06, .obj 0x0C07, .obj 0x1106] : List Part), p.within ps = true) : Touches ps r (withRecord s0 a0 a1) := by
  unfold withRecord
  repeat' first
    | with_reducible assumption | refine touches_pullRecord ‹_› ?_ (sub hp (by decide))
    | with_reducible apply touches_setRing | with_reducible apply touches_wrPairs
    | with_reducible refine Touches.foldl _ _ ?_ (fun _ _ _ => ?_) | split | fail_if_no_progress extract_lets
    | dsimp +zetaDelta only | refine List.forall_mem_cons.2 ⟨?_, ?_⟩ | exact List.forall_mem_nil _
    | exact sub hp (by decide) | exact hp _ (by decide)

theorem touches_recordDone {ps : List Part} {r s0 : State} (h : Touches ps r s0) (a0 : Nat) (a1 : DmaRecord)
    (hp : ∀ p ∈ ([.evt, .flt, .mov, .notes, .out, .obj 0x0604, .obj 0x0C03, .obj 0x0C04, .obj 0x0C06] : List Part), p.within ps = true) : Touches ps r (recordDone s0 a0 a1) := by
  unfold recordDone
  repeat' first
    | with_reducible assumption | with_reducible apply touches_bump | with_reducible apply touches_setRing
    | with_reducible apply touches_ringSettled | with_reducible apply touches_transferEnds
    | with_reducible apply touches_wrPairs | with_reducible refine Touches.foldl _ _ ?_ (fun _ _ _ => ?_)
    | split | fail_if_no_progress extract_lets | dsimp +zetaDelta only | refine List.forall_mem_cons.2 ⟨?_, ?_⟩
    | exact List.forall_mem_nil _ | exact sub hp (by decide) | exact hp _ (by decide)
    | exact ⟨by decide, hp _ (by decide)⟩

end Sys2Proof
end

