-- ==== Sys2Proof/Laws/Pair.lean ====
section
/-! SUPPORT. What each operation of `Machine/Pair.lean` may change. -/

namespace Sys2Proof

open Sys2Proof.Machine

theorem touches_bootReset {ps : List Part} {r s0 : State} (h : Touches ps r s0)
    (hp : ∀ p ∈ ([.afe, .aon, .axl, .bbl, .cal, .chz, .cmp, .cnv, .conc, .ctl, .dah, .evt, .flt, .fst, .hk, .live, .mem, .modes, .mov, .net, .notes, .peer, .pwr, .sun, .time, .rc64, .trg, .regs] : List Part), p.within ps = true) : Touches ps r (bootReset s0) := by
  refine ⟨fun p k => (h.1 p k).trans ?_, ?_⟩
  swap
  · refine ⟨fun _ => ⟨fieldSet_keeps_wf _ _ _ rfl, rfl, rfl⟩, fun w => ⟨?_, Nat.zero_le _, (h.2.2 w).2.2.1, Nat.zero_le _⟩⟩
    show rd (wr State.reset Obj.AON_LAST_WAKE.COUNT 0 _) Obj.MODE_STATE.CURRENT ≤ 11
    show fieldGet (fieldSet _ _ _ _) _ _ ≤ 11
    rw [fieldGet_fieldSet_ne _ _ (by decide)]
    decide
  have hr := hp .regs (by decide)
  cases p <;> first
    | exact rfl
    | exact absurd ((hp _ (by decide)).symm.trans k) (by decide)
    | trivial
    | (simp only [Part.within, Bool.or_eq_false_iff] at hr k; exact absurd (hr.symm.trans k.1) (by decide))

theorem touches_enterRecovery {ps : List Part} {r s0 : State} (h : Touches ps r s0)
    (hp : ∀ p ∈ ([.ctl, .pwr, .obj 0x1011] : List Part), p.within ps = true) : Touches ps r (enterRecovery s0) := by
  unfold enterRecovery
  repeat' first
    | with_reducible refine touches_wr_current ?_ _ (code_le _) (hp _ (by decide))
    | with_reducible refine touches_wr_current ?_ _ (by decide) (hp _ (by decide)) | with_reducible assumption
    | with_reducible apply touches_wr | with_reducible apply touches_setPwr
    | with_reducible apply touches_setCtl | with_reducible apply touches_wrPairs
    | with_reducible refine Touches.foldl _ _ ?_ (fun _ _ _ => ?_) | split | fail_if_no_progress extract_lets
    | dsimp +zetaDelta only | refine List.forall_mem_cons.2 ⟨?_, ?_⟩ | exact List.forall_mem_nil _
    | exact sub hp (by decide) | exact hp _ (by decide) | exact ⟨by decide, hp _ (by decide)⟩

theorem touches_coldBoot {ps : List Part} {r s0 : State} (h : Touches ps r s0) (a0 : Bool) (a1 : BootFrom)
    (hp : ∀ p ∈ ([.afe, .aon, .axl, .bbl, .cal, .chz, .cmp, .cnv, .conc, .ctl, .dah, .evt, .flt, .fst, .hk, .live, .mem, .modes, .mov, .net, .notes, .peer, .pwr, .rc64, .sun, .time, .trg, .regs] : List Part), p.within ps = true) : Touches ps r (coldBoot s0 a0 a1) := by
  unfold coldBoot
  repeat' first
    | with_reducible assumption | with_reducible apply touches_setAon | with_reducible apply touches_bootReset
    | with_reducible apply touches_setCtl | with_reducible apply touches_wr
    | with_reducible apply touches_enterRecovery | with_reducible apply touches_wrPairs
    | with_reducible refine Touches.foldl _ _ ?_ (fun _ _ _ => ?_) | split | fail_if_no_progress extract_lets
    | with_reducible apply touches_part_flt | exact ⟨id, id⟩ | exact ⟨retain_bound _ _, regionPush_bound _ _⟩
    | exact ⟨id, regionPush_bound _ _⟩ | exact ⟨retain_bound _ _, id⟩ | dsimp +zetaDelta only
    | refine List.forall_mem_cons.2 ⟨?_, ?_⟩ | exact List.forall_mem_nil _ | exact sub hp (by decide)
    | exact hp _ (by decide) | exact ⟨by decide, hp _ (by decide)⟩
    | exact ⟨by decide, sub hp (as := [_]) (by decide) _ List.mem_cons_self⟩
    | exact sub hp (as := [_]) (by decide) _ List.mem_cons_self

theorem touches_restartNotice {ps : List Part} {r s0 : State} (h : Touches ps r s0) {a0 : State} (ha0 : Touches ps r a0) (a1 : Nat)
    (hp : ∀ p ∈ ([.notes] : List Part), p.within ps = true) : Touches ps r (restartNotice s0 a0 a1) := by
  unfold restartNotice
  repeat' first
    | with_reducible assumption | with_reducible apply touches_notice

theorem touches_forcedBoot {ps : List Part} {r s0 : State} (h : Touches ps r s0)
    (hp : ∀ p ∈ ([.afe, .aon, .axl, .bbl, .cal, .chz, .cmp, .cnv, .conc, .ctl, .dah, .evt, .flt, .fst, .hk, .live, .mem, .modes, .mov, .net, .notes, .peer, .pwr, .rc64, .sun, .time, .trg, .regs] : List Part), p.within ps = true) : Touches ps r (forcedBoot s0) := by
  unfold forcedBoot
  repeat' first
    | with_reducible assumption | with_reducible apply touches_restartNotice
    | with_reducible apply touches_coldBoot | with_reducible apply touches_wrPairs
    | with_reducible refine Touches.foldl _ _ ?_ (fun _ _ _ => ?_) | split | fail_if_no_progress extract_lets
    | dsimp +zetaDelta only | refine List.forall_mem_cons.2 ⟨?_, ?_⟩ | exact List.forall_mem_nil _
    | exact sub hp (by decide) | exact hp _ (by decide)

theorem touches_warmRestart {ps : List Part} {r s0 : State} (h : Touches ps r s0) (a0 : Nat)
    (hp : ∀ p ∈ ([.afe, .aon, .axl, .bbl, .cal, .chz, .cmp, .cnv, .conc, .ctl, .dah, .evt, .flt, .fst, .hk, .live, .mem, .modes, .mov, .net, .notes, .peer, .pwr, .rc64, .sun, .time, .trg, .regs] : List Part), p.within ps = true) : Touches ps r (warmRestart s0 a0) := by
  unfold warmRestart
  repeat' first
    | with_reducible assumption | with_reducible refine touches_raise_plain ?_ (by decide) _ _ _ ?_
    | with_reducible refine touches_raiseDetail_plain ?_ (by decide) _ _ _ _ ?_
    | with_reducible refine touches_raise_plain ?_ (by split <;> decide) _ _ _ ?_
    | with_reducible apply touches_wr | with_reducible apply touches_setCtl
    | with_reducible apply touches_forcedBoot | with_reducible apply touches_raise
    | with_reducible apply touches_failTransition | with_reducible apply touches_wrPairs
    | with_reducible refine Touches.foldl _ _ ?_ (fun _ _ _ => ?_) | split | fail_if_no_progress extract_lets
    | dsimp +zetaDelta only | refine List.forall_mem_cons.2 ⟨?_, ?_⟩ | exact List.forall_mem_nil _
    | exact sub hp (by decide) | exact hp _ (by decide) | exact ⟨by decide, hp _ (by decide)⟩
    | exact ⟨by decide, sub hp (as := [_]) (by decide) _ List.mem_cons_self⟩
    | exact sub hp (as := [_]) (by decide) _ List.mem_cons_self

theorem touches_coreFails {ps : List Part} {r s0 : State} (h : Touches ps r s0) (a0 : Nat)
    (hp : ∀ p ∈ ([.ctl, .flt, .notes, .obj 0x0C06] : List Part), p.within ps = true) : Touches ps r (coreFails s0 a0) := by
  unfold coreFails
  repeat' first
    | with_reducible assumption | with_reducible refine touches_raise_plain ?_ (by decide) _ _ _ ?_
    | with_reducible refine touches_raiseDetail_plain ?_ (by decide) _ _ _ _ ?_
    | with_reducible refine touches_raise_plain ?_ (by split <;> decide) _ _ _ ?_
    | with_reducible apply touches_setCtl | with_reducible apply touches_wrPairs
    | with_reducible refine Touches.foldl _ _ ?_ (fun _ _ _ => ?_) | split | fail_if_no_progress extract_lets
    | dsimp +zetaDelta only | refine List.forall_mem_cons.2 ⟨?_, ?_⟩ | exact List.forall_mem_nil _
    | exact sub hp (by decide) | exact hp _ (by decide)

theorem touches_selfCheck {ps : List Part} {r s0 : State} (h : Touches ps r s0) (a0 : Bool) (a1 : Bool)
    (hp : ∀ p ∈ ([.afe, .aon, .axl, .bbl, .cal, .chz, .cmp, .cnv, .conc, .ctl, .dah, .evt, .flt, .fst, .hk, .live, .mem, .modes, .mov, .net, .notes, .peer, .pwr, .rc64, .sun, .time, .trg, .regs] : List Part), p.within ps = true) : Touches ps r (selfCheck s0 a0 a1) := by
  unfold selfCheck
  repeat' first
    | with_reducible assumption | with_reducible apply touches_coreFails
    | with_reducible apply touches_warmRestart | with_reducible apply touches_wrPairs
    | with_reducible refine Touches.foldl _ _ ?_ (fun _ _ _ => ?_) | split | fail_if_no_progress extract_lets
    | dsimp +zetaDelta only | refine List.forall_mem_cons.2 ⟨?_, ?_⟩ | exact List.forall_mem_nil _
    | exact sub hp (by decide) | exact hp _ (by decide) | exact ⟨by decide, hp _ (by decide)⟩
    | exact ⟨by decide, sub hp (as := [_]) (by decide) _ List.mem_cons_self⟩
    | exact sub hp (as := [_]) (by decide) _ List.mem_cons_self

theorem touches_leadWithA {ps : List Part} {r s0 : State} (h : Touches ps r s0)
    (hp : ∀ p ∈ ([.flt, .notes, .obj 0x0C06] : List Part), p.within ps = true) : Touches ps r (leadWithA s0) := by
  unfold leadWithA
  repeat' first
    | with_reducible assumption | with_reducible apply touches_clearFault | with_reducible apply touches_wrPairs
    | with_reducible refine Touches.foldl _ _ ?_ (fun _ _ _ => ?_) | split

theorem touches_interrupt {ps : List Part} {r s0 : State} (h : Touches ps r s0) (a0 : Nat)
    (hp : ∀ p ∈ ([.ctl] : List Part), p.within ps = true) : Touches ps r (interrupt s0 a0) := by
  unfold interrupt
  repeat' first
    | with_reducible assumption | with_reducible apply touches_setMail | with_reducible apply touches_wrPairs
    | with_reducible refine Touches.foldl _ _ ?_ (fun _ _ _ => ?_) | split | fail_if_no_progress extract_lets
    | dsimp +zetaDelta only | refine List.forall_mem_cons.2 ⟨?_, ?_⟩ | exact List.forall_mem_nil _
    | exact sub hp (by decide) | exact hp _ (by decide)

theorem touches_commandsDropped {ps : List Part} {r s0 : State} (h : Touches ps r s0)
    (hp : ∀ p ∈ ([.afe, .cmp, .cnv, .ctl, .live] : List Part), p.within ps = true) : Touches ps r (commandsDropped s0) := by
  have e := touches_sweepEnds (ps := ps) h (sub hp (by decide))
  refine ⟨fun p k => (e.1 p k).trans ?_, e.2⟩
  cases p <;> first | exact rfl | exact absurd ((hp _ (by decide)).symm.trans k) (by decide) | exact fun _ _ => rfl | trivial

end Sys2Proof
end

