-- ==== Sys2Proof/Laws/Peer.lean ====
section
/-! SUPPORT. What each operation of `Machine/Peer.lean` may change. -/

namespace Sys2Proof

open Sys2Proof.Machine

theorem touches_setPeerStage {ps : List Part} {r s0 : State} (h : Touches ps r s0) (a0 : Nat)
    (hp : ∀ p ∈ ([.obj 0x0802] : List Part), p.within ps = true) : Touches ps r (setPeerStage s0 a0) := by
  unfold setPeerStage
  repeat' first
    | with_reducible assumption | with_reducible apply touches_wr | with_reducible apply touches_wrPairs
    | with_reducible refine Touches.foldl _ _ ?_ (fun _ _ _ => ?_) | split | fail_if_no_progress extract_lets
    | dsimp +zetaDelta only | refine List.forall_mem_cons.2 ⟨?_, ?_⟩ | exact List.forall_mem_nil _
    | exact sub hp (by decide) | exact hp _ (by decide) | exact ⟨by decide, hp _ (by decide)⟩

theorem touches_peerLocal {ps : List Part} {r s0 : State} (h : Touches ps r s0)
    (hp : ∀ p ∈ ([.live, .peer, .obj 0x0802] : List Part), p.within ps = true) : Touches ps r (peerLocal s0) := by
  unfold peerLocal
  repeat' first
    | with_reducible assumption | with_reducible apply touches_setPeer | with_reducible apply touches_latch
    | with_reducible apply touches_setPeerStage | with_reducible apply touches_wr
    | with_reducible apply touches_wrFields | with_reducible apply touches_wrPairs
    | with_reducible refine Touches.foldl _ _ ?_ (fun _ _ _ => ?_) | split | fail_if_no_progress extract_lets
    | dsimp +zetaDelta only | refine List.forall_mem_cons.2 ⟨?_, ?_⟩ | exact List.forall_mem_nil _
    | exact sub hp (by decide) | exact hp _ (by decide) | exact ⟨by decide, hp _ (by decide)⟩

theorem touches_holdReady {ps : List Part} {r s0 : State} (h : Touches ps r s0) (a0 : ReadyHeld)
    (hp : ∀ p ∈ ([.peer] : List Part), p.within ps = true) : Touches ps r (holdReady s0 a0) := by
  unfold holdReady
  repeat' first
    | with_reducible assumption | with_reducible apply touches_setPeer | with_reducible apply touches_wrPairs
    | with_reducible refine Touches.foldl _ _ ?_ (fun _ _ _ => ?_) | split | fail_if_no_progress extract_lets
    | dsimp +zetaDelta only | refine List.forall_mem_cons.2 ⟨?_, ?_⟩ | exact List.forall_mem_nil _
    | exact sub hp (by decide) | exact hp _ (by decide)

theorem touches_takeGo {ps : List Part} {r s0 : State} (h : Touches ps r s0) (a0 : Nat) (a1 : Nat)
    (hp : ∀ p ∈ ([.modes, .peer, .obj 0x0802, .obj 0x1011] : List Part), p.within ps = true) : Touches ps r (takeGo s0 a0 a1) := by
  unfold takeGo
  repeat' first
    | with_reducible assumption | with_reducible apply touches_forceIdle
    | with_reducible apply touches_setPeerStage | with_reducible apply touches_setPeer
    | with_reducible apply touches_wrPairs | with_reducible refine Touches.foldl _ _ ?_ (fun _ _ _ => ?_)
    | split | fail_if_no_progress extract_lets | dsimp +zetaDelta only | refine List.forall_mem_cons.2 ⟨?_, ?_⟩
    | exact List.forall_mem_nil _ | exact sub hp (by decide) | exact hp _ (by decide)

theorem touches_goSend {ps : List Part} {r s0 : State} (h : Touches ps r s0)
    (hp : ∀ p ∈ ([.axl, .modes, .out, .peer, .obj 0x0802, .obj 0x0D05, .obj 0x1011] : List Part), p.within ps = true) : Touches ps r (goSend s0) := by
  unfold goSend
  repeat' first
    | with_reducible assumption | with_reducible apply touches_takeGo | with_reducible apply touches_sendControl
    | with_reducible apply touches_wrPairs | with_reducible refine Touches.foldl _ _ ?_ (fun _ _ _ => ?_)
    | split | fail_if_no_progress extract_lets | dsimp +zetaDelta only | refine List.forall_mem_cons.2 ⟨?_, ?_⟩
    | exact List.forall_mem_nil _ | exact sub hp (by decide) | exact hp _ (by decide)

theorem touches_sendReady {ps : List Part} {r s0 : State} (h : Touches ps r s0)
    (hp : ∀ p ∈ ([.axl, .modes, .out, .peer, .obj 0x0802, .obj 0x0D05, .obj 0x1011] : List Part), p.within ps = true) : Touches ps r (sendReady s0) := by
  unfold sendReady
  repeat' first
    | with_reducible assumption | with_reducible apply touches_sendControl
    | with_reducible apply touches_holdReady | with_reducible apply touches_goSend
    | with_reducible apply touches_wrPairs | with_reducible refine Touches.foldl _ _ ?_ (fun _ _ _ => ?_)
    | split | fail_if_no_progress extract_lets | dsimp +zetaDelta only | refine List.forall_mem_cons.2 ⟨?_, ?_⟩
    | exact List.forall_mem_nil _ | exact sub hp (by decide) | exact hp _ (by decide)

theorem touches_peerLocalEnd {ps : List Part} {r s0 : State} (h : Touches ps r s0)
    (hp : ∀ p ∈ ([.axl, .flt, .modes, .notes, .out, .peer, .obj 0x0802, .obj 0x0C06, .obj 0x0D05, .obj 0x1011] : List Part), p.within ps = true) : Touches ps r (peerLocalEnd s0) := by
  unfold peerLocalEnd
  repeat' first
    | with_reducible assumption | with_reducible refine touches_raise_plain ?_ (by decide) _ _ _ ?_
    | with_reducible refine touches_raiseDetail_plain ?_ (by decide) _ _ _ _ ?_
    | with_reducible refine touches_raise_plain ?_ (by split <;> decide) _ _ _ ?_
    | with_reducible apply touches_forceIdle | with_reducible apply touches_setPeerStage
    | with_reducible apply touches_sendReady | with_reducible apply touches_setPhase
    | with_reducible apply touches_wrPairs | with_reducible refine Touches.foldl _ _ ?_ (fun _ _ _ => ?_)
    | split | fail_if_no_progress extract_lets | dsimp +zetaDelta only | refine List.forall_mem_cons.2 ⟨?_, ?_⟩
    | exact List.forall_mem_nil _ | exact sub hp (by decide) | exact hp _ (by decide)

theorem touches_passControl {ps : List Part} {r s0 : State} (h : Touches ps r s0) (a0 : Nat) (a1 : Nat) (a2 : GroupMessage)
    (hp : ∀ p ∈ ([.axl, .out, .peer, .obj 0x0D05] : List Part), p.within ps = true) : Touches ps r (passControl s0 a0 a1 a2) := by
  unfold passControl
  repeat' first
    | with_reducible assumption | with_reducible apply touches_sendControl
    | with_reducible apply touches_takeMessage | with_reducible apply touches_wrPairs
    | with_reducible refine Touches.foldl _ _ ?_ (fun _ _ _ => ?_) | split | fail_if_no_progress extract_lets
    | dsimp +zetaDelta only | refine List.forall_mem_cons.2 ⟨?_, ?_⟩ | exact List.forall_mem_nil _
    | exact sub hp (by decide) | exact hp _ (by decide)

theorem touches_peerEdge {ps : List Part} {r s0 : State} (h : Touches ps r s0)
    (hp : ∀ p ∈ ([.flt, .modes, .notes, .peer, .obj 0x0802, .obj 0x0C06, .obj 0x1011] : List Part), p.within ps = true) : Touches ps r (peerEdge s0) := by
  unfold peerEdge
  repeat' first
    | with_reducible assumption | with_reducible refine touches_raise_plain ?_ (by decide) _ _ _ ?_
    | with_reducible refine touches_raiseDetail_plain ?_ (by decide) _ _ _ _ ?_
    | with_reducible refine touches_raise_plain ?_ (by split <;> decide) _ _ _ ?_
    | with_reducible apply touches_wr | with_reducible apply touches_setPeer
    | with_reducible apply touches_forceIdle | with_reducible apply touches_setPeerStage
    | with_reducible apply touches_wrPairs | with_reducible refine Touches.foldl _ _ ?_ (fun _ _ _ => ?_)
    | split | fail_if_no_progress extract_lets | dsimp +zetaDelta only | refine List.forall_mem_cons.2 ⟨?_, ?_⟩
    | exact List.forall_mem_nil _ | exact sub hp (by decide) | exact hp _ (by decide)
    | exact ⟨by decide, hp _ (by decide)⟩

theorem touches_peerRunning {ps : List Part} {r s0 : State} (h : Touches ps r s0)
    (hp : ∀ p ∈ ([.peer, .obj 0x0802] : List Part), p.within ps = true) : Touches ps r (peerRunning s0) := by
  unfold peerRunning
  repeat' first
    | with_reducible assumption | with_reducible apply touches_wr | with_reducible apply touches_setPeerStage
    | with_reducible apply touches_setPeer | with_reducible apply touches_wrPairs
    | with_reducible refine Touches.foldl _ _ ?_ (fun _ _ _ => ?_) | split | fail_if_no_progress extract_lets
    | dsimp +zetaDelta only | refine List.forall_mem_cons.2 ⟨?_, ?_⟩ | exact List.forall_mem_nil _
    | exact sub hp (by decide) | exact hp _ (by decide) | exact ⟨by decide, hp _ (by decide)⟩

theorem touches_peerRequestStop {ps : List Part} {r s0 : State} (h : Touches ps r s0)
    (hp : ∀ p ∈ ([.axl, .out, .peer, .obj 0x0802, .obj 0x0D05] : List Part), p.within ps = true) : Touches ps r (peerRequestStop s0) := by
  unfold peerRequestStop
  repeat' first
    | with_reducible assumption | with_reducible apply touches_sendControl
    | with_reducible apply touches_setPeerStage | with_reducible apply touches_setPeer
    | with_reducible apply touches_wrPairs | with_reducible refine Touches.foldl _ _ ?_ (fun _ _ _ => ?_)
    | split | fail_if_no_progress extract_lets | dsimp +zetaDelta only | refine List.forall_mem_cons.2 ⟨?_, ?_⟩
    | exact List.forall_mem_nil _ | exact sub hp (by decide) | exact hp _ (by decide)

theorem touches_memberBack {ps : List Part} {r s0 : State} (h : Touches ps r s0) (a0 : Nat)
    (hp : ∀ p ∈ ([.flt, .peer, .obj 0x0802] : List Part), p.within ps = true) : Touches ps r (memberBack s0 a0) := by
  unfold memberBack
  repeat' first
    | with_reducible assumption | with_reducible apply touches_endFault | with_reducible apply touches_wr
    | with_reducible apply touches_setPeer | with_reducible apply touches_wrPairs
    | with_reducible refine Touches.foldl _ _ ?_ (fun _ _ _ => ?_) | split | fail_if_no_progress extract_lets
    | dsimp +zetaDelta only | refine List.forall_mem_cons.2 ⟨?_, ?_⟩ | exact List.forall_mem_nil _
    | exact sub hp (by decide) | exact hp _ (by decide) | exact ⟨by decide, hp _ (by decide)⟩

theorem touches_closeGroup {ps : List Part} {r s0 : State} (h : Touches ps r s0)
    (hp : ∀ p ∈ ([.flt, .mov, .notes, .peer, .pwr, .obj 0x0803, .obj 0x0C06, .obj 0x1106] : List Part), p.within ps = true) : Touches ps r (closeGroup s0) := by
  unfold closeGroup
  repeat' first
    | with_reducible assumption | with_reducible refine touches_raise_plain ?_ (by decide) _ _ _ ?_
    | with_reducible refine touches_raiseDetail_plain ?_ (by decide) _ _ _ _ ?_
    | with_reducible refine touches_raise_plain ?_ (by split <;> decide) _ _ _ ?_
    | with_reducible apply touches_bump | with_reducible apply touches_clockStarts
    | with_reducible apply touches_setPeer | with_reducible apply touches_wrPairs
    | with_reducible refine Touches.foldl _ _ ?_ (fun _ _ _ => ?_) | split | fail_if_no_progress extract_lets
    | dsimp +zetaDelta only | refine List.forall_mem_cons.2 ⟨?_, ?_⟩ | exact List.forall_mem_nil _
    | exact sub hp (by decide) | exact hp _ (by decide) | exact ⟨by decide, hp _ (by decide)⟩

end Sys2Proof
end

