-- ==== Sys2Proof/Laws/Trigger.lean ====
section
/-! SUPPORT. What each operation of `Machine/Trigger.lean` may change. -/

namespace Sys2Proof

open Sys2Proof.Machine

theorem touches_pushReduced {ps : List Part} {r s0 : State} (h : Touches ps r s0) (a0 : List InputWord) (a1 : Bool) (a2 : Nat)
    (hp : ∀ p ∈ ([.trg] : List Part), p.within ps = true) : Touches ps r (pushReduced s0 a0 a1 a2) := by
  unfold pushReduced
  repeat' first
    | with_reducible assumption | with_reducible apply touches_setTrg | with_reducible apply touches_wrPairs
    | with_reducible refine Touches.foldl _ _ ?_ (fun _ _ _ => ?_) | split | fail_if_no_progress extract_lets
    | dsimp +zetaDelta only | refine List.forall_mem_cons.2 ⟨?_, ?_⟩ | exact List.forall_mem_nil _
    | exact sub hp (by decide) | exact hp _ (by decide)

theorem touches_beamStep {ps : List Part} {r s0 : State} (h : Touches ps r s0) (a0 : Nat) (a1 : Nat)
    (hp : ∀ p ∈ ([.trg] : List Part), p.within ps = true) : Touches ps r (beamStep s0 a0 a1) := by
  unfold beamStep
  repeat' first
    | with_reducible assumption | with_reducible apply touches_setTrg | with_reducible apply touches_wrPairs
    | with_reducible refine Touches.foldl _ _ ?_ (fun _ _ _ => ?_) | split | fail_if_no_progress extract_lets
    | dsimp +zetaDelta only | refine List.forall_mem_cons.2 ⟨?_, ?_⟩ | exact List.forall_mem_nil _
    | exact sub hp (by decide) | exact hp _ (by decide)

theorem touches_addCondition {ps : List Part} {r s0 : State} (h : Touches ps r s0) (a0 : Condition)
    (hp : ∀ p ∈ ([.trg] : List Part), p.within ps = true) : Touches ps r (addCondition s0 a0) := by
  unfold addCondition
  repeat' first
    | with_reducible assumption | with_reducible apply touches_setTrg | with_reducible apply touches_wrPairs
    | with_reducible refine Touches.foldl _ _ ?_ (fun _ _ _ => ?_) | split | fail_if_no_progress extract_lets
    | dsimp +zetaDelta only | refine List.forall_mem_cons.2 ⟨?_, ?_⟩ | exact List.forall_mem_nil _
    | exact sub hp (by decide) | exact hp _ (by decide)

theorem touches_referenceSample {ps : List Part} {r s0 : State} (h : Touches ps r s0) (a0 : Nat)
    (hp : ∀ p ∈ ([.trg] : List Part), p.within ps = true) : Touches ps r (referenceSample s0 a0) := by
  unfold referenceSample
  repeat' first
    | with_reducible assumption | with_reducible apply touches_beamStep
    | with_reducible apply touches_addCondition | with_reducible apply touches_setTrg
    | with_reducible apply touches_wrPairs | with_reducible refine Touches.foldl _ _ ?_ (fun _ _ _ => ?_)
    | split | fail_if_no_progress extract_lets | dsimp +zetaDelta only | refine List.forall_mem_cons.2 ⟨?_, ?_⟩
    | exact List.forall_mem_nil _ | exact sub hp (by decide) | exact hp _ (by decide)

theorem touches_countSources {ps : List Part} {r s0 : State} (h : Touches ps r s0) (a0 : Field) (hfa0 : plainField a0 = true ∧ (Part.obj a0.obj).within ps = true) (a1 : Nat)
    (hp : ∀ p ∈ ([] : List Part), p.within ps = true) : Touches ps r (countSources s0 a0 a1) := by
  unfold countSources
  repeat' first
    | with_reducible assumption | with_reducible apply touches_bump | with_reducible apply touches_wrPairs
    | with_reducible refine Touches.foldl _ _ ?_ (fun _ _ _ => ?_) | split

theorem touches_prescale {ps : List Part} {r s0 : State} (h : Touches ps r s0) (a0 : Nat)
    (hp : ∀ p ∈ ([.trg] : List Part), p.within ps = true) : Touches ps r (prescale s0 a0).2 := by
  unfold prescale
  repeat' first
    | with_reducible assumption | with_reducible apply touches_setTrg | with_reducible apply touches_wrPairs
    | with_reducible refine Touches.foldl _ _ ?_ (fun _ _ _ => ?_)
    | with_reducible refine Touches.foldlSnd _ _ ?_ (fun _ _ _ => ?_)
    | with_reducible refine Touches.foldlSndSnd _ _ ?_ (fun _ _ _ => ?_) | split
    | fail_if_no_progress extract_lets | dsimp +zetaDelta only | refine List.forall_mem_cons.2 ⟨?_, ?_⟩
    | exact List.forall_mem_nil _ | exact sub hp (by decide) | exact hp _ (by decide)

theorem touches_noteSoft {ps : List Part} {r s0 : State} (h : Touches ps r s0) (a0 : Nat) (a1 : Nat) (a2 : Nat) (a3 : Nat)
    (hp : ∀ p ∈ ([.trg] : List Part), p.within ps = true) : Touches ps r (noteSoft s0 a0 a1 a2 a3) := by
  unfold noteSoft
  repeat' first
    | with_reducible assumption | with_reducible apply touches_setTrg | with_reducible apply touches_wrPairs
    | with_reducible refine Touches.foldl _ _ ?_ (fun _ _ _ => ?_) | split | fail_if_no_progress extract_lets
    | dsimp +zetaDelta only | refine List.forall_mem_cons.2 ⟨?_, ?_⟩ | exact List.forall_mem_nil _
    | exact sub hp (by decide) | exact hp _ (by decide)

theorem touches_refuseSet {ps : List Part} {r s0 : State} (h : Touches ps r s0) (a0 : Field) (hfa0 : plainField a0 = true ∧ (Part.obj a0.obj).within ps = true) (a1 : Nat) (a2 : Nat) (a3 : Nat)
    (hp : ∀ p ∈ ([.flt, .notes, .trg, .obj 0x0C06] : List Part), p.within ps = true) : Touches ps r (refuseSet s0 a0 a1 a2 a3) := by
  unfold refuseSet
  repeat' first
    | with_reducible assumption | with_reducible refine touches_raise_plain ?_ (by decide) _ _ _ ?_
    | with_reducible refine touches_raiseDetail_plain ?_ (by decide) _ _ _ _ ?_
    | with_reducible refine touches_raise_plain ?_ (by split <;> decide) _ _ _ ?_
    | with_reducible apply touches_setTrg | with_reducible apply touches_countSources
    | with_reducible apply touches_noteSoft | with_reducible apply touches_wrPairs
    | with_reducible refine Touches.foldl _ _ ?_ (fun _ _ _ => ?_) | split | fail_if_no_progress extract_lets
    | dsimp +zetaDelta only | refine List.forall_mem_cons.2 ⟨?_, ?_⟩ | exact List.forall_mem_nil _
    | exact sub hp (by decide) | exact hp _ (by decide)

theorem touches_trigoutUntil {ps : List Part} {r s0 : State} (h : Touches ps r s0) (a0 : Nat)
    (hp : ∀ p ∈ ([.out, .trg] : List Part), p.within ps = true) : Touches ps r (trigoutUntil s0 a0) := by
  unfold trigoutUntil
  repeat' first
    | with_reducible assumption | with_reducible apply touches_setTrg | with_reducible apply touches_emit
    | with_reducible apply touches_wrPairs | with_reducible refine Touches.foldl _ _ ?_ (fun _ _ _ => ?_)
    | split | fail_if_no_progress extract_lets | dsimp +zetaDelta only | refine List.forall_mem_cons.2 ⟨?_, ?_⟩
    | exact List.forall_mem_nil _ | exact sub hp (by decide) | exact hp _ (by decide)

theorem touches_trigoutOff {ps : List Part} {r s0 : State} (h : Touches ps r s0)
    (hp : ∀ p ∈ ([.out, .trg] : List Part), p.within ps = true) : Touches ps r (trigoutOff s0) := by
  unfold trigoutOff
  repeat' first
    | with_reducible assumption | with_reducible apply touches_setTrg | with_reducible apply touches_emit
    | with_reducible apply touches_wrPairs | with_reducible refine Touches.foldl _ _ ?_ (fun _ _ _ => ?_)
    | split | fail_if_no_progress extract_lets | dsimp +zetaDelta only | refine List.forall_mem_cons.2 ⟨?_, ?_⟩
    | exact List.forall_mem_nil _ | exact sub hp (by decide) | exact hp _ (by decide)

theorem touches_trigoutPulse {ps : List Part} {r s0 : State} (h : Touches ps r s0)
    (hp : ∀ p ∈ ([.out, .trg] : List Part), p.within ps = true) : Touches ps r (trigoutPulse s0) := by
  unfold trigoutPulse
  repeat' first
    | with_reducible assumption | with_reducible apply touches_trigoutUntil

theorem touches_sendTrigger {ps : List Part} {r s0 : State} (h : Touches ps r s0) (a0 : TrigRecord)
    (hp : ∀ p ∈ ([.axl, .out, .peer, .obj 0x0D05] : List Part), p.within ps = true) : Touches ps r (sendTrigger s0 a0) := by
  unfold sendTrigger
  repeat' first
    | with_reducible assumption | with_reducible apply touches_axPost | with_reducible apply touches_wrPairs
    | with_reducible refine Touches.foldl _ _ ?_ (fun _ _ _ => ?_) | split

theorem touches_acceptSet {ps : List Part} {r s0 : State} (h : Touches ps r s0) (a0 : List Condition) (a1 : Nat) (a2 : Bool) (a3 : Nat)
    (hp : ∀ p ∈ ([.axl, .evt, .out, .peer, .trg, .obj 0x0506, .obj 0x0508, .obj 0x0509, .obj 0x0D05] : List Part), p.within ps = true) : Touches ps r (acceptSet s0 a0 a1 a2 a3) := by
  unfold acceptSet
  repeat' first
    | with_reducible assumption | with_reducible apply touches_setTrg | with_reducible apply touches_wr
    | with_reducible apply touches_countSources | with_reducible apply touches_emit
    | with_reducible apply touches_trigoutPulse | with_reducible apply touches_trigoutUntil
    | with_reducible apply touches_sendTrigger | with_reducible apply touches_noteSoft
    | with_reducible apply touches_wrPairs | with_reducible refine Touches.foldl _ _ ?_ (fun _ _ _ => ?_)
    | split | fail_if_no_progress extract_lets | with_reducible apply touches_part_evt | dsimp +zetaDelta only
    | refine List.forall_mem_cons.2 ⟨?_, ?_⟩ | exact List.forall_mem_nil _ | exact sub hp (by decide)
    | exact hp _ (by decide) | exact ⟨by decide, hp _ (by decide)⟩

theorem touches_mergeSet {ps : List Part} {r s0 : State} (h : Touches ps r s0) (a0 : TrigRecord) (a1 : Nat) (a2 : Nat)
    (hp : ∀ p ∈ ([.trg, .obj 0x0508] : List Part), p.within ps = true) : Touches ps r (mergeSet s0 a0 a1 a2) := by
  unfold mergeSet
  repeat' first
    | with_reducible assumption | with_reducible apply touches_setTrg | with_reducible apply touches_noteSoft
    | with_reducible apply touches_countSources | with_reducible apply touches_wrPairs
    | with_reducible refine Touches.foldl _ _ ?_ (fun _ _ _ => ?_) | split | fail_if_no_progress extract_lets
    | dsimp +zetaDelta only | refine List.forall_mem_cons.2 ⟨?_, ?_⟩ | exact List.forall_mem_nil _
    | exact sub hp (by decide) | exact hp _ (by decide) | exact ⟨by decide, hp _ (by decide)⟩

theorem touches_judgeSet {ps : List Part} {r s0 : State} (h : Touches ps r s0) (a0 : Nat) (a1 : List Condition)
    (hp : ∀ p ∈ ([.axl, .evt, .flt, .notes, .out, .peer, .trg, .obj 0x0506, .obj 0x0508, .obj 0x0509, .obj 0x0C06, .obj 0x0D05] : List Part), p.within ps = true) : Touches ps r (judgeSet s0 a0 a1) := by
  unfold judgeSet
  repeat' first
    | with_reducible assumption | with_reducible apply touches_countSources
    | with_reducible apply touches_trigoutPulse | with_reducible apply touches_mergeSet
    | with_reducible apply touches_prescale | with_reducible apply touches_noteSoft
    | with_reducible apply touches_refuseSet | with_reducible apply touches_acceptSet
    | with_reducible apply touches_wrPairs | with_reducible refine Touches.foldl _ _ ?_ (fun _ _ _ => ?_)
    | split | fail_if_no_progress extract_lets | dsimp +zetaDelta only | refine List.forall_mem_cons.2 ⟨?_, ?_⟩
    | exact List.forall_mem_nil _ | exact sub hp (by decide) | exact hp _ (by decide)
    | exact ⟨by decide, hp _ (by decide)⟩

theorem touches_judgeKnown {ps : List Part} {r s0 : State} (h : Touches ps r s0) (a0 : Nat)
    (hp : ∀ p ∈ ([.axl, .evt, .flt, .notes, .out, .peer, .trg, .obj 0x0506, .obj 0x0508, .obj 0x0509, .obj 0x0C06, .obj 0x0D05] : List Part), p.within ps = true) : Touches ps r (judgeKnown s0 a0) := by
  unfold judgeKnown
  repeat' first
    | with_reducible assumption | with_reducible apply touches_setTrg | with_reducible apply touches_judgeSet
    | with_reducible apply touches_wrPairs | with_reducible refine Touches.foldl _ _ ?_ (fun _ _ _ => ?_)
    | split | fail_if_no_progress extract_lets | dsimp +zetaDelta only | refine List.forall_mem_cons.2 ⟨?_, ?_⟩
    | exact List.forall_mem_nil _ | exact sub hp (by decide) | exact hp _ (by decide)

theorem touches_deadTime {ps : List Part} {r s0 : State} (h : Touches ps r s0)
    (hp : ∀ p ∈ ([.obj 0x0509] : List Part), p.within ps = true) : Touches ps r (deadTime s0) := by
  unfold deadTime
  repeat' first
    | with_reducible assumption | with_reducible apply touches_bump | with_reducible apply touches_wrPairs
    | with_reducible refine Touches.foldl _ _ ?_ (fun _ _ _ => ?_) | split | fail_if_no_progress extract_lets
    | dsimp +zetaDelta only | refine List.forall_mem_cons.2 ⟨?_, ?_⟩ | exact List.forall_mem_nil _
    | exact sub hp (by decide) | exact hp _ (by decide) | exact ⟨by decide, hp _ (by decide)⟩

theorem touches_tableError {ps : List Part} {r s0 : State} (h : Touches ps r s0) (a0 : Nat × Bool)
    (hp : ∀ p ∈ ([.flt, .notes, .trg, .obj 0x0C06] : List Part), p.within ps = true) : Touches ps r (tableError s0 a0) := by
  unfold tableError
  repeat' first
    | with_reducible assumption | with_reducible refine touches_raise_plain ?_ (by decide) _ _ _ ?_
    | with_reducible refine touches_raiseDetail_plain ?_ (by decide) _ _ _ _ ?_
    | with_reducible refine touches_raise_plain ?_ (by split <;> decide) _ _ _ ?_
    | with_reducible apply touches_setTrg | with_reducible apply touches_wrPairs
    | with_reducible refine Touches.foldl _ _ ?_ (fun _ _ _ => ?_) | split | fail_if_no_progress extract_lets
    | dsimp +zetaDelta only | refine List.forall_mem_cons.2 ⟨?_, ?_⟩ | exact List.forall_mem_nil _
    | exact sub hp (by decide) | exact hp _ (by decide)

theorem touches_triggerWord {ps : List Part} {r s0 : State} (h : Touches ps r s0) (a0 : List (Nat × Bool))
    (hp : ∀ p ∈ ([.axl, .evt, .flt, .notes, .out, .peer, .trg, .obj 0x0506, .obj 0x0508, .obj 0x0509, .obj 0x0C06, .obj 0x0D05] : List Part), p.within ps = true) : Touches ps r (triggerWord s0 a0) := by
  unfold triggerWord
  repeat' first
    | with_reducible assumption | with_reducible apply touches_tableError
    | with_reducible apply touches_referenceSample | with_reducible apply touches_deadTime
    | with_reducible apply touches_judgeKnown | with_reducible apply touches_wrPairs
    | with_reducible refine Touches.foldl _ _ ?_ (fun _ _ _ => ?_) | split | fail_if_no_progress extract_lets
    | dsimp +zetaDelta only | refine List.forall_mem_cons.2 ⟨?_, ?_⟩ | exact List.forall_mem_nil _
    | exact sub hp (by decide) | exact hp _ (by decide)

theorem touches_tokenAccrue {ps : List Part} {r s0 : State} (h : Touches ps r s0) (a0 : Nat)
    (hp : ∀ p ∈ ([.trg] : List Part), p.within ps = true) : Touches ps r (tokenAccrue s0 a0) := by
  unfold tokenAccrue
  repeat' first
    | with_reducible assumption | with_reducible apply touches_setTrg | with_reducible apply touches_wrPairs
    | with_reducible refine Touches.foldl _ _ ?_ (fun _ _ _ => ?_) | split | fail_if_no_progress extract_lets
    | dsimp +zetaDelta only | refine List.forall_mem_cons.2 ⟨?_, ?_⟩ | exact List.forall_mem_nil _
    | exact sub hp (by decide) | exact hp _ (by decide)

theorem touches_beamRestart {ps : List Part} {r s0 : State} (h : Touches ps r s0) (a0 : Nat)
    (hp : ∀ p ∈ ([.trg] : List Part), p.within ps = true) : Touches ps r (beamRestart s0 a0) := by
  unfold beamRestart
  repeat' first
    | with_reducible assumption | with_reducible apply touches_setTrg | with_reducible apply touches_wrPairs
    | with_reducible refine Touches.foldl _ _ ?_ (fun _ _ _ => ?_) | split | fail_if_no_progress extract_lets
    | dsimp +zetaDelta only | refine List.forall_mem_cons.2 ⟨?_, ?_⟩ | exact List.forall_mem_nil _
    | exact sub hp (by decide) | exact hp _ (by decide)

theorem touches_trigoutFrame {ps : List Part} {r s0 : State} (h : Touches ps r s0)
    (hp : ∀ p ∈ ([.live, .out, .trg] : List Part), p.within ps = true) : Touches ps r (trigoutFrame s0) := by
  unfold trigoutFrame
  repeat' first
    | with_reducible assumption | with_reducible apply touches_latch | with_reducible apply touches_trigoutOff
    | with_reducible apply touches_emit | with_reducible apply touches_wrFields
    | with_reducible apply touches_wrPairs | with_reducible refine Touches.foldl _ _ ?_ (fun _ _ _ => ?_)
    | split | fail_if_no_progress extract_lets | dsimp +zetaDelta only | refine List.forall_mem_cons.2 ⟨?_, ?_⟩
    | exact List.forall_mem_nil _ | exact sub hp (by decide) | exact hp _ (by decide)

theorem touches_triggerFrame {ps : List Part} {r s0 : State} (h : Touches ps r s0)
    (hp : ∀ p ∈ ([.live, .out, .trg] : List Part), p.within ps = true) : Touches ps r (triggerFrame s0) := by
  unfold triggerFrame
  repeat' first
    | with_reducible assumption | with_reducible apply touches_beamRestart | with_reducible apply touches_latch
    | with_reducible apply touches_setTrg | with_reducible apply touches_trigoutFrame
    | with_reducible apply touches_wrFields | with_reducible apply touches_wrPairs
    | with_reducible refine Touches.foldl _ _ ?_ (fun _ _ _ => ?_) | split | fail_if_no_progress extract_lets
    | dsimp +zetaDelta only | refine List.forall_mem_cons.2 ⟨?_, ?_⟩ | exact List.forall_mem_nil _
    | exact sub hp (by decide) | exact hp _ (by decide)

theorem touches_triggerBlock {ps : List Part} {r s0 : State} (h : Touches ps r s0)
    (hp : ∀ p ∈ ([.trg, .obj 0x050A] : List Part), p.within ps = true) : Touches ps r (triggerBlock s0) := by
  unfold triggerBlock
  repeat' first
    | with_reducible assumption | with_reducible apply touches_wr | with_reducible apply touches_setTrg
    | with_reducible apply touches_wrPairs | with_reducible refine Touches.foldl _ _ ?_ (fun _ _ _ => ?_)
    | split | fail_if_no_progress extract_lets | dsimp +zetaDelta only | refine List.forall_mem_cons.2 ⟨?_, ?_⟩
    | exact List.forall_mem_nil _ | exact sub hp (by decide) | exact hp _ (by decide)
    | exact ⟨by decide, hp _ (by decide)⟩

theorem touches_triggerStart {ps : List Part} {r s0 : State} (h : Touches ps r s0)
    (hp : ∀ p ∈ ([.live, .out, .trg, .obj 0x0509] : List Part), p.within ps = true) : Touches ps r (triggerStart s0) := by
  unfold triggerStart
  repeat' first
    | with_reducible assumption | with_reducible apply touches_setTrg | with_reducible apply touches_wr
    | with_reducible apply touches_triggerFrame | with_reducible apply touches_wrPairs
    | with_reducible refine Touches.foldl _ _ ?_ (fun _ _ _ => ?_) | split | fail_if_no_progress extract_lets
    | dsimp +zetaDelta only | refine List.forall_mem_cons.2 ⟨?_, ?_⟩ | exact List.forall_mem_nil _
    | exact sub hp (by decide) | exact hp _ (by decide) | exact ⟨by decide, hp _ (by decide)⟩

theorem touches_triggerStop {ps : List Part} {r s0 : State} (h : Touches ps r s0)
    (hp : ∀ p ∈ ([.trg] : List Part), p.within ps = true) : Touches ps r (triggerStop s0) := by
  unfold triggerStop
  repeat' first
    | with_reducible assumption | with_reducible apply touches_setTrg | with_reducible apply touches_wrPairs
    | with_reducible refine Touches.foldl _ _ ?_ (fun _ _ _ => ?_) | split | fail_if_no_progress extract_lets
    | dsimp +zetaDelta only | refine List.forall_mem_cons.2 ⟨?_, ?_⟩ | exact List.forall_mem_nil _
    | exact sub hp (by decide) | exact hp _ (by decide)

end Sys2Proof
end

