-- ==== Sys2Proof/Laws/Modes.lean ====
section
/-! SUPPORT. What each operation of `Machine/Modes.lean` may change. -/

namespace Sys2Proof

open Sys2Proof.Machine

theorem touches_testDrawn {ps : List Part} {r s0 : State} (h : Touches ps r s0) (a0 : ModeReq)
    (hp : ∀ p ∈ ([.free] : List Part), p.within ps = true) : Touches ps r (testDrawn s0 a0) := by
  unfold testDrawn
  repeat' first
    | with_reducible assumption | with_reducible apply touches_drawFree | with_reducible apply touches_wrPairs
    | with_reducible refine Touches.foldl _ _ ?_ (fun _ _ _ => ?_) | split | fail_if_no_progress extract_lets
    | dsimp +zetaDelta only | refine List.forall_mem_cons.2 ⟨?_, ?_⟩ | exact List.forall_mem_nil _
    | exact sub hp (by decide) | exact hp _ (by decide)

theorem touches_modePlanWrite {ps : List Part} {r s0 : State} (h : Touches ps r s0) (a0 a1 a2 : Nat)
    (hp : ∀ p ∈ ([.aon, .modes, .notes, .pwr, .obj 0x0A04, .obj 0x1010, .obj 0x1011] : List Part), p.within ps = true) : Touches ps r (modePlanWrite s0 a0 a1 a2).2 := by
  have hw : Touches ps r (Obj.MODE_PLAN.fields.foldl (fun u f => wr u f 0 (bits a0 f.lo f.width)) s0) := by
    refine Touches.foldlMem _ _ h (fun t f hf ht => touches_wr ht _ _ _ ?_)
    have hk : ∀ f ∈ Obj.MODE_PLAN.fields, plainField f = true ∧ f.obj = 0x1010 := by decide
    exact ⟨(hk f hf).1, by rw [(hk f hf).2]; exact hp _ (by decide)⟩
  unfold modePlanWrite
  dsimp only
  split
  · exact h
  · split
    · exact h
    · split
      · exact h
      · split
        · exact touches_modeNotice hw _ _ _ _ _ _ (sub hp (by decide))
        · exact touches_requestMode hw _ (sub hp (by decide))

theorem touches_integrationEnds {ps : List Part} {r s0 : State} (h : Touches ps r s0) (a0 : Nat)
    (hp : ∀ p ∈ ([.dah] : List Part), p.within ps = true) : Touches ps r (integrationEnds s0 a0) := by
  unfold integrationEnds
  repeat' first
    | with_reducible assumption | with_reducible apply touches_dahStop | with_reducible apply touches_setDah
    | with_reducible apply touches_wrPairs | with_reducible refine Touches.foldl _ _ ?_ (fun _ _ _ => ?_)
    | split | fail_if_no_progress extract_lets | dsimp +zetaDelta only | refine List.forall_mem_cons.2 ⟨?_, ?_⟩
    | exact List.forall_mem_nil _ | exact sub hp (by decide) | exact hp _ (by decide)

theorem touches_beginStops {ps : List Part} {r s0 : State} (h : Touches ps r s0) (a0 : Mode) (a1 : Bool) (a2 : Nat)
    (hp : ∀ p ∈ ([.axl, .cal, .conc, .dah, .flt, .modes, .mov, .notes, .out, .peer, .pwr, .trg, .obj 0x0802, .obj 0x0808, .obj 0x0A04, .obj 0x0C06, .obj 0x0D05, .obj 0x1106, .obj 0x1304] : List Part), p.within ps = true) : Touches ps r (beginStops s0 a0 a1 a2) := by
  unfold beginStops
  repeat' first
    | with_reducible assumption | with_reducible apply touches_triggerStop
    | with_reducible apply touches_concCloseAll | with_reducible apply touches_stringsEnd
    | with_reducible apply touches_peerRequestStop | with_reducible apply touches_integrationEnds
    | with_reducible apply touches_setModes | with_reducible apply touches_wrPairs
    | with_reducible refine Touches.foldl _ _ ?_ (fun _ _ _ => ?_) | split | fail_if_no_progress extract_lets
    | dsimp +zetaDelta only | refine List.forall_mem_cons.2 ⟨?_, ?_⟩ | exact List.forall_mem_nil _
    | exact sub hp (by decide) | exact hp _ (by decide)

theorem touches_entryAborted {ps : List Part} {r s0 : State} (h : Touches ps r s0)
    (hp : ∀ p ∈ ([.aon, .modes, .notes, .obj 0x1011, .obj 0x1402, .obj 0x1403] : List Part), p.within ps = true) : Touches ps r (entryAborted s0) := by
  unfold entryAborted
  repeat' first
    | with_reducible assumption | with_reducible apply touches_wr | with_reducible apply touches_setModes
    | with_reducible apply touches_finishTransition | with_reducible apply touches_wrPairs
    | with_reducible refine Touches.foldl _ _ ?_ (fun _ _ _ => ?_) | split | fail_if_no_progress extract_lets
    | dsimp +zetaDelta only | refine List.forall_mem_cons.2 ⟨?_, ?_⟩ | exact List.forall_mem_nil _
    | exact sub hp (by decide) | exact hp _ (by decide) | exact ⟨by decide, hp _ (by decide)⟩

theorem touches_beginDrain {ps : List Part} {r s0 : State} (h : Touches ps r s0) (a0 : ModeReq)
    (hp : ∀ p ∈ ([.axl, .cal, .conc, .dah, .flt, .free, .live, .modes, .mov, .notes, .out, .peer, .pwr, .trg, .obj 0x0802, .obj 0x0808, .obj 0x0A04, .obj 0x0C06, .obj 0x0D05, .obj 0x1011, .obj 0x1106, .obj 0x1304] : List Part), p.within ps = true) : Touches ps r (beginDrain s0 a0) := by
  unfold beginDrain
  repeat' first
    | with_reducible assumption | with_reducible apply touches_setModes | with_reducible apply touches_testDrawn
    | with_reducible apply touches_peerLocal | with_reducible apply touches_beginStops
    | with_reducible apply touches_setPhase | with_reducible apply touches_wrPairs
    | with_reducible refine Touches.foldl _ _ ?_ (fun _ _ _ => ?_) | split | fail_if_no_progress extract_lets
    | dsimp +zetaDelta only | refine List.forall_mem_cons.2 ⟨?_, ?_⟩ | exact List.forall_mem_nil _
    | exact sub hp (by decide) | exact hp _ (by decide)

theorem touches_unkeptDropped {ps : List Part} {r s0 : State} (h : Touches ps r s0)
    (hp : ∀ p ∈ ([.evt, .flt, .hk, .notes, .sun, .obj 0x0C06] : List Part), p.within ps = true) : Touches ps r (unkeptDropped s0) := by
  unfold unkeptDropped
  repeat' first
    | with_reducible assumption | with_reducible apply touches_dropPackets
    | with_reducible apply touches_wrPairs | with_reducible refine Touches.foldl _ _ ?_ (fun _ _ _ => ?_)
    | split | fail_if_no_progress extract_lets | dsimp +zetaDelta only

theorem touches_beginDown {ps : List Part} {r s0 : State} (h : Touches ps r s0) (a0 : Mode) (a1 : Bool)
    (hp : ∀ p ∈ ([.axl, .bbl, .cmp, .ctl, .dah, .evt, .flt, .free, .hk, .notes, .pwr, .sun, .obj 0x0A04, .obj 0x0C06, .obj 0x0D04, .obj 0x0D05, .obj 0x0F04, .obj 0x1011] : List Part), p.within ps = true) : Touches ps r (beginDown s0 a0 a1) := by
  unfold beginDown
  repeat' first
    | with_reducible assumption | with_reducible apply touches_unkeptDropped
    | with_reducible apply touches_jobsAborted | with_reducible apply touches_axrelQuiet
    | with_reducible apply touches_dahEnd | with_reducible apply touches_setBbl
    | with_reducible apply touches_domDown | with_reducible apply touches_wr
    | with_reducible apply touches_markWaiting | with_reducible apply touches_wrPairs
    | with_reducible refine Touches.foldl _ _ ?_ (fun _ _ _ => ?_) | split | fail_if_no_progress extract_lets
    | dsimp +zetaDelta only | refine List.forall_mem_cons.2 ⟨?_, ?_⟩ | exact List.forall_mem_nil _
    | exact sub hp (by decide) | exact hp _ (by decide) | exact ⟨by decide, hp _ (by decide)⟩

theorem touches_outputsAbandoned {ps : List Part} {r s0 : State} (h : Touches ps r s0)
    (hp : ∀ p ∈ ([.axl, .conc, .dah, .mov, .net, .peer, .obj 0x0F04] : List Part), p.within ps = true) : Touches ps r (outputsAbandoned s0) := by
  unfold outputsAbandoned
  repeat' first
    | with_reducible assumption | with_reducible apply touches_setConc | with_reducible apply touches_setDah
    | with_reducible apply touches_setPeer | with_reducible apply touches_bump
    | with_reducible apply touches_wrPairs | with_reducible refine Touches.foldl _ _ ?_ (fun _ _ _ => ?_)
    | split | fail_if_no_progress extract_lets | with_reducible apply touches_part_axl
    | with_reducible apply touches_part_mov | with_reducible apply touches_part_net | dsimp +zetaDelta only
    | refine List.forall_mem_cons.2 ⟨?_, ?_⟩ | exact List.forall_mem_nil _ | exact sub hp (by decide)
    | exact hp _ (by decide) | exact ⟨by decide, hp _ (by decide)⟩

theorem touches_qprotLatched {ps : List Part} {r s0 : State} (h : Touches ps r s0) (a0 : Mode) (a1 : Bool)
    (hp : ∀ p ∈ ([.live] : List Part), p.within ps = true) : Touches ps r (qprotLatched s0 a0 a1) := by
  unfold qprotLatched
  repeat' first
    | with_reducible assumption | with_reducible apply touches_latch | with_reducible apply touches_wrFields
    | with_reducible apply touches_wrPairs | with_reducible refine Touches.foldl _ _ ?_ (fun _ _ _ => ?_)
    | split

theorem touches_beginUp {ps : List Part} {r s0 : State} (h : Touches ps r s0) (a0 : Mode) (a1 : Bool)
    (hp : ∀ p ∈ ([.afe, .cnv, .live, .pwr, .obj 0x0A04, .obj 0x1011] : List Part), p.within ps = true) : Touches ps r (beginUp s0 a0 a1) := by
  unfold beginUp
  repeat' first
    | with_reducible assumption | with_reducible apply touches_qprotLatched | with_reducible apply touches_domUp
    | with_reducible apply touches_paced | with_reducible apply touches_converterStart
    | with_reducible apply touches_wrPairs | with_reducible refine Touches.foldl _ _ ?_ (fun _ _ _ => ?_)
    | split | fail_if_no_progress extract_lets | dsimp +zetaDelta only | refine List.forall_mem_cons.2 ⟨?_, ?_⟩
    | exact List.forall_mem_nil _ | exact sub hp (by decide) | exact hp _ (by decide)

theorem touches_storeMapCopy {ps : List Part} {r s0 : State} (h : Touches ps r s0) (a0 : Nat)
    (hp : ∀ p ∈ ([.evt, .notes, .sun, .obj 0x0A01, .obj 0x0A04, .obj 0x0C06] : List Part), p.within ps = true) : Touches ps r (storeMapCopy s0 a0) := by
  unfold storeMapCopy
  repeat' first
    | with_reducible assumption | with_reducible apply touches_lossyLost | with_reducible apply touches_setEvt
    | with_reducible apply touches_setSun | with_reducible apply touches_wr
    | with_reducible apply touches_wrPairs | with_reducible refine Touches.foldl _ _ ?_ (fun _ _ _ => ?_)
    | split | fail_if_no_progress extract_lets | dsimp +zetaDelta only | refine List.forall_mem_cons.2 ⟨?_, ?_⟩
    | exact List.forall_mem_nil _ | exact sub hp (by decide) | exact hp _ (by decide)
    | exact ⟨by decide, hp _ (by decide)⟩

theorem touches_vigilRanges {ps : List Part} {r s0 : State} (h : Touches ps r s0) (a0 : Bool)
    (hp : ∀ p ∈ ([.afe, .obj 0x0103] : List Part), p.within ps = true) : Touches ps r (vigilRanges s0 a0) := by
  unfold vigilRanges
  repeat' first
    | with_reducible assumption | with_reducible apply touches_wr | with_reducible apply touches_setInput
    | with_reducible apply touches_wrPairs | with_reducible refine Touches.foldl _ _ ?_ (fun _ _ _ => ?_)
    | split | fail_if_no_progress extract_lets | dsimp +zetaDelta only | refine List.forall_mem_cons.2 ⟨?_, ?_⟩
    | exact List.forall_mem_nil _ | exact sub hp (by decide) | exact hp _ (by decide)
    | exact ⟨by decide, hp _ (by decide)⟩

theorem touches_timeOff {ps : List Part} {r s0 : State} (h : Touches ps r s0) (a0 : Bool)
    (hp : ∀ p ∈ ([.time] : List Part), p.within ps = true) : Touches ps r (timeOff s0 a0) := by
  unfold timeOff
  repeat' first
    | with_reducible assumption | with_reducible refine touches_setTime ?_ _ ?_ (.inl rfl)
    | with_reducible apply touches_wrPairs | with_reducible refine Touches.foldl _ _ ?_ (fun _ _ _ => ?_)
    | split | fail_if_no_progress extract_lets | dsimp +zetaDelta only | refine List.forall_mem_cons.2 ⟨?_, ?_⟩
    | exact List.forall_mem_nil _ | exact sub hp (by decide) | exact hp _ (by decide)

theorem touches_startFunctions {ps : List Part} {r s0 : State} (h : Touches ps r s0) (a0 : Mode) (a1 : Bool)
    (hp : ∀ p ∈ ([.bbl, .chz, .dah, .flt, .live, .out, .sun, .trg, .obj 0x0205, .obj 0x0406, .obj 0x0509, .obj 0x0907] : List Part), p.within ps = true) : Touches ps r (startFunctions s0 a0 a1) := by
  unfold startFunctions
  repeat' first
    | with_reducible assumption | with_reducible apply touches_bblStart | with_reducible apply touches_latch
    | with_reducible apply touches_triggerStart | with_reducible apply touches_chzStart
    | with_reducible apply touches_idleChanges | with_reducible apply touches_sunStart
    | with_reducible apply touches_sunBlock | with_reducible apply touches_dahStart
    | with_reducible apply touches_wrFields | with_reducible apply touches_wrPairs
    | with_reducible refine Touches.foldl _ _ ?_ (fun _ _ _ => ?_) | split | fail_if_no_progress extract_lets
    | dsimp +zetaDelta only | refine List.forall_mem_cons.2 ⟨?_, ?_⟩ | exact List.forall_mem_nil _
    | exact sub hp (by decide) | exact hp _ (by decide)

theorem touches_commandsLeft {ps : List Part} {r s0 : State} (h : Touches ps r s0) (a0 : Mode) (a1 : Bool)
    (hp : ∀ p ∈ ([.cnv, .ctl, .obj 0x0D06] : List Part), p.within ps = true) : Touches ps r (commandsLeft s0 a0 a1) := by
  unfold commandsLeft
  repeat' first
    | with_reducible assumption | with_reducible apply touches_prbsEnds | with_reducible apply touches_commit
    | with_reducible apply touches_wrPairs | with_reducible refine Touches.foldl _ _ ?_ (fun _ _ _ => ?_)
    | split | fail_if_no_progress extract_lets | with_reducible apply touches_part_cnv | dsimp +zetaDelta only
    | refine List.forall_mem_cons.2 ⟨?_, ?_⟩ | exact List.forall_mem_nil _ | exact sub hp (by decide)
    | exact hp _ (by decide)

theorem touches_enterMode {ps : List Part} {r s0 : State} (h : Touches ps r s0) (a0 : Mode) (a1 : Bool)
    (hp : ∀ p ∈ ([.afe, .aon, .bbl, .chz, .cnv, .ctl, .dah, .flt, .live, .out, .pwr, .sun, .time, .trg, .obj 0x0103, .obj 0x0205, .obj 0x0406, .obj 0x0509, .obj 0x0907, .obj 0x0A04, .obj 0x0D06] : List Part), p.within ps = true) : Touches ps r (enterMode s0 a0 a1) := by
  unfold enterMode
  repeat' first
    | with_reducible assumption | with_reducible apply touches_startFunctions
    | with_reducible apply touches_commandsLeft | with_reducible apply touches_latch
    | with_reducible apply touches_wakeSetDown | with_reducible apply touches_setBbl
    | with_reducible apply touches_vigilRanges | with_reducible apply touches_showVmax
    | with_reducible apply touches_hotExit | with_reducible apply touches_setAon
    | with_reducible apply touches_timeOff | with_reducible apply touches_wrFields
    | with_reducible apply touches_wrPairs | with_reducible refine Touches.foldl _ _ ?_ (fun _ _ _ => ?_)
    | split | fail_if_no_progress extract_lets | with_reducible apply touches_part_ctl | dsimp +zetaDelta only
    | refine List.forall_mem_cons.2 ⟨?_, ?_⟩ | exact List.forall_mem_nil _ | exact sub hp (by decide)
    | exact hp _ (by decide)

theorem touches_dormantEntered {ps : List Part} {r s0 : State} (h : Touches ps r s0)
    (hp : ∀ p ∈ ([.aon, .live, .time] : List Part), p.within ps = true) : Touches ps r (dormantEntered s0) := by
  unfold dormantEntered
  repeat' first
    | with_reducible assumption | with_reducible apply touches_setAon | with_reducible apply touches_setLive
    | with_reducible refine touches_setTime ?_ _ ?_ (.inl rfl) | with_reducible apply touches_wrPairs
    | with_reducible refine Touches.foldl _ _ ?_ (fun _ _ _ => ?_) | split | fail_if_no_progress extract_lets
    | dsimp +zetaDelta only | refine List.forall_mem_cons.2 ⟨?_, ?_⟩ | exact List.forall_mem_nil _
    | exact sub hp (by decide) | exact hp _ (by decide)

theorem touches_upEffects {ps : List Part} {r s0 : State} (h : Touches ps r s0) (a0 : Mode)
    (hp : ∀ p ∈ ([.axl, .evt, .flt, .modes, .notes, .sun, .obj 0x0706, .obj 0x0A01, .obj 0x0A04, .obj 0x0C06, .obj 0x0D04, .obj 0x0D05] : List Part), p.within ps = true) : Touches ps r (upEffects s0 a0) := by
  unfold upEffects
  repeat' first
    | with_reducible assumption | with_reducible apply touches_storeMapCopy | with_reducible apply touches_wr
    | with_reducible apply touches_axrelForm | with_reducible apply touches_setModes
    | with_reducible apply touches_wrPairs | with_reducible refine Touches.foldl _ _ ?_ (fun _ _ _ => ?_)
    | split | fail_if_no_progress extract_lets | dsimp +zetaDelta only | refine List.forall_mem_cons.2 ⟨?_, ?_⟩
    | exact List.forall_mem_nil _ | exact sub hp (by decide) | exact hp _ (by decide)
    | exact ⟨by decide, hp _ (by decide)⟩

theorem touches_closeGroupsTo {ps : List Part} {r s0 : State} (h : Touches ps r s0) (a0 : Nat) (a1 : Nat)
    (hp : ∀ p ∈ ([.flt, .mov, .notes, .peer, .pwr, .obj 0x0803, .obj 0x0C06, .obj 0x1106] : List Part), p.within ps = true) : Touches ps r (closeGroupsTo a0 s0 a1) := by
  induction a0 generalizing s0 a1 with
  | zero =>
    unfold closeGroupsTo
    repeat' first
      | with_reducible assumption
  | succ fuel ih =>
    unfold closeGroupsTo
    repeat' first
      | with_reducible assumption | apply ih | with_reducible apply touches_closeGroup
      | with_reducible apply touches_wrPairs | with_reducible refine Touches.foldl _ _ ?_ (fun _ _ _ => ?_)
      | split

end Sys2Proof
end

