-- ==== Sys2Proof/Laws/Wake.lean ====
section
/-! SUPPORT. What each operation of `Machine/Wake.lean` may change. -/

namespace Sys2Proof

open Sys2Proof.Machine

theorem touches_abortEntry {ps : List Part} {r s0 : State} (h : Touches ps r s0)
    (hp : ∀ p ∈ ([.aon, .modes, .notes, .obj 0x1011, .obj 0x1403] : List Part), p.within ps = true) : Touches ps r (abortEntry s0) := by
  unfold abortEntry
  repeat' first
    | with_reducible assumption | with_reducible apply touches_setModes | with_reducible apply touches_wr
    | with_reducible apply touches_finishTransition | with_reducible apply touches_setAon
    | with_reducible apply touches_setPhase | with_reducible apply touches_wrPairs
    | with_reducible refine Touches.foldl _ _ ?_ (fun _ _ _ => ?_) | split | fail_if_no_progress extract_lets
    | dsimp +zetaDelta only | refine List.forall_mem_cons.2 ⟨?_, ?_⟩ | exact List.forall_mem_nil _
    | exact sub hp (by decide) | exact hp _ (by decide) | exact ⟨by decide, hp _ (by decide)⟩

theorem touches_wakeDormant {ps : List Part} {r s0 : State} (h : Touches ps r s0)
    (hp : ∀ p ∈ ([.aon, .modes, .out, .obj 0x1403] : List Part), p.within ps = true) : Touches ps r (wakeDormant s0) := by
  unfold wakeDormant
  repeat' first
    | with_reducible assumption | with_reducible apply touches_wr | with_reducible apply touches_emit
    | with_reducible apply touches_setModes | with_reducible apply touches_setAon
    | with_reducible apply touches_wrPairs | with_reducible refine Touches.foldl _ _ ?_ (fun _ _ _ => ?_)
    | split | fail_if_no_progress extract_lets | dsimp +zetaDelta only | refine List.forall_mem_cons.2 ⟨?_, ?_⟩
    | exact List.forall_mem_nil _ | exact sub hp (by decide) | exact hp _ (by decide)
    | exact ⟨by decide, hp _ (by decide)⟩

theorem touches_recordWake {ps : List Part} {r s0 : State} (h : Touches ps r s0) (a0 : Nat)
    (hp : ∀ p ∈ ([.obj 0x1403] : List Part), p.within ps = true) : Touches ps r (recordWake s0 a0) := by
  unfold recordWake
  repeat' first
    | with_reducible assumption | with_reducible apply touches_wr | with_reducible apply touches_bump
    | with_reducible apply touches_wrFields | with_reducible apply touches_wrPairs
    | with_reducible refine Touches.foldl _ _ ?_ (fun _ _ _ => ?_) | split | fail_if_no_progress extract_lets
    | dsimp +zetaDelta only | refine List.forall_mem_cons.2 ⟨?_, ?_⟩ | exact List.forall_mem_nil _
    | exact sub hp (by decide) | exact hp _ (by decide) | exact ⟨by decide, hp _ (by decide)⟩

theorem touches_serveWake {ps : List Part} {r s0 : State} (h : Touches ps r s0)
    (hp : ∀ p ∈ ([.aon, .flt, .modes, .notes, .out, .pwr, .obj 0x0A04, .obj 0x0C06, .obj 0x1011, .obj 0x1403] : List Part), p.within ps = true) : Touches ps r (serveWake s0) := by
  unfold serveWake
  repeat' first
    | with_reducible assumption | with_reducible refine touches_raise_plain ?_ (by decide) _ _ _ ?_
    | with_reducible refine touches_raiseDetail_plain ?_ (by decide) _ _ _ _ ?_
    | with_reducible refine touches_raise_plain ?_ (by split <;> decide) _ _ _ ?_
    | with_reducible apply touches_abortEntry | with_reducible apply touches_setAon
    | with_reducible apply touches_wr | with_reducible apply touches_wakeDormant
    | with_reducible apply touches_pairUp | with_reducible apply touches_wrPairs
    | with_reducible refine Touches.foldl _ _ ?_ (fun _ _ _ => ?_) | split | fail_if_no_progress extract_lets
    | dsimp +zetaDelta only | refine List.forall_mem_cons.2 ⟨?_, ?_⟩ | exact List.forall_mem_nil _
    | exact sub hp (by decide) | exact hp _ (by decide) | exact ⟨by decide, hp _ (by decide)⟩

theorem touches_latchWake {ps : List Part} {r s0 : State} (h : Touches ps r s0) (a0 : Nat)
    (hp : ∀ p ∈ ([.aon, .flt, .modes, .notes, .out, .pwr, .obj 0x0A04, .obj 0x0C06, .obj 0x1011, .obj 0x1403] : List Part), p.within ps = true) : Touches ps r (latchWake s0 a0) := by
  unfold latchWake
  repeat' first
    | with_reducible assumption | with_reducible apply touches_setAon | with_reducible apply touches_wr
    | with_reducible apply touches_serveWake | with_reducible apply touches_recordWake
    | with_reducible apply touches_wrPairs | with_reducible refine Touches.foldl _ _ ?_ (fun _ _ _ => ?_)
    | split | fail_if_no_progress extract_lets | dsimp +zetaDelta only | refine List.forall_mem_cons.2 ⟨?_, ?_⟩
    | exact List.forall_mem_nil _ | exact sub hp (by decide) | exact hp _ (by decide)
    | exact ⟨by decide, hp _ (by decide)⟩

theorem touches_snowdropDown {ps : List Part} {r s0 : State} (h : Touches ps r s0) (a0 : Nat)
    (hp : ∀ p ∈ ([.pwr, .obj 0x0A04] : List Part), p.within ps = true) : Touches ps r (snowdropDown s0 a0) := by
  unfold snowdropDown
  repeat' first
    | with_reducible assumption | with_reducible apply touches_setDom | with_reducible apply touches_paced
    | with_reducible apply touches_wrPairs | with_reducible refine Touches.foldl _ _ ?_ (fun _ _ _ => ?_)
    | split | fail_if_no_progress extract_lets | dsimp +zetaDelta only | refine List.forall_mem_cons.2 ⟨?_, ?_⟩
    | exact List.forall_mem_nil _ | exact sub hp (by decide) | exact hp _ (by decide)

theorem touches_fallDown {ps : List Part} {r s0 : State} (h : Touches ps r s0)
    (hp : ∀ p ∈ ([.aon, .ctl, .out, .pwr, .obj 0x0A04, .obj 0x1011] : List Part), p.within ps = true) : Touches ps r (fallDown s0) := by
  unfold fallDown
  repeat' first
    | with_reducible assumption | with_reducible apply touches_setPwr | with_reducible apply touches_setAon
    | with_reducible apply touches_setCtl | with_reducible apply touches_showPendingUp
    | with_reducible apply touches_dormantWhole | with_reducible apply touches_snowdropDown
    | with_reducible apply touches_wrPairs | with_reducible refine Touches.foldl _ _ ?_ (fun _ _ _ => ?_)
    | split | fail_if_no_progress extract_lets | dsimp +zetaDelta only | refine List.forall_mem_cons.2 ⟨?_, ?_⟩
    | exact List.forall_mem_nil _ | exact sub hp (by decide) | exact hp _ (by decide)

theorem touches_resumeIdle {ps : List Part} {r s0 : State} (h : Touches ps r s0)
    (hp : ∀ p ∈ ([.aon, .ctl, .flt, .modes, .notes, .out, .pwr, .time, .obj 0x0A04, .obj 0x0C06, .obj 0x1011] : List Part), p.within ps = true) : Touches ps r (resumeIdle s0) := by
  unfold resumeIdle
  repeat' first
    | with_reducible assumption | with_reducible refine touches_raise_plain ?_ (by decide) _ _ _ ?_
    | with_reducible refine touches_raiseDetail_plain ?_ (by decide) _ _ _ _ ?_
    | with_reducible refine touches_raise_plain ?_ (by split <;> decide) _ _ _ ?_
    | with_reducible apply touches_timeOff | with_reducible apply touches_setCtl
    | with_reducible apply touches_setAon | with_reducible apply touches_setModes
    | with_reducible apply touches_emit | with_reducible apply touches_finishTransition
    | with_reducible apply touches_requestMode | with_reducible apply touches_wrPairs
    | with_reducible refine Touches.foldl _ _ ?_ (fun _ _ _ => ?_) | split | fail_if_no_progress extract_lets
    | dsimp +zetaDelta only | refine List.forall_mem_cons.2 ⟨?_, ?_⟩ | exact List.forall_mem_nil _
    | exact sub hp (by decide) | exact hp _ (by decide)

theorem touches_latchupEnds {ps : List Part} {r s0 : State} (h : Touches ps r s0) (a0 : Nat)
    (hp : ∀ p ∈ ([.afe, .pwr] : List Part), p.within ps = true) : Touches ps r (latchupEnds s0 a0) := by
  unfold latchupEnds
  repeat' first
    | with_reducible assumption | with_reducible apply touches_setInput | with_reducible apply touches_setPwr
    | with_reducible apply touches_wrPairs | with_reducible refine Touches.foldl _ _ ?_ (fun _ _ _ => ?_)
    | split | fail_if_no_progress extract_lets | dsimp +zetaDelta only | refine List.forall_mem_cons.2 ⟨?_, ?_⟩
    | exact List.forall_mem_nil _ | exact sub hp (by decide) | exact hp _ (by decide)

theorem touches_latchupDebt {ps : List Part} {r s0 : State} (h : Touches ps r s0) (a0 : Nat)
    (hp : ∀ p ∈ ([.flt, .notes, .pwr, .obj 0x0C06, .obj 0x1107] : List Part), p.within ps = true) : Touches ps r (latchupDebt s0 a0) := by
  unfold latchupDebt
  repeat' first
    | with_reducible assumption | with_reducible refine touches_raise_plain ?_ (by decide) _ _ _ ?_
    | with_reducible refine touches_raiseDetail_plain ?_ (by decide) _ _ _ _ ?_
    | with_reducible refine touches_raise_plain ?_ (by split <;> decide) _ _ _ ?_
    | with_reducible apply touches_accrue | with_reducible apply touches_bump
    | with_reducible apply touches_setPwr | with_reducible apply touches_wrPairs
    | with_reducible refine Touches.foldl _ _ ?_ (fun _ _ _ => ?_) | split | fail_if_no_progress extract_lets
    | dsimp +zetaDelta only | refine List.forall_mem_cons.2 ⟨?_, ?_⟩ | exact List.forall_mem_nil _
    | exact sub hp (by decide) | exact hp _ (by decide) | exact ⟨by decide, hp _ (by decide)⟩

theorem touches_windowsStale {ps : List Part} {r s0 : State} (h : Touches ps r s0)
    (hp : ∀ p ∈ ([.bbl] : List Part), p.within ps = true) : Touches ps r (windowsStale s0) := by
  unfold windowsStale
  repeat' first
    | with_reducible assumption | with_reducible apply touches_setBbl | with_reducible apply touches_wrPairs
    | with_reducible refine Touches.foldl _ _ ?_ (fun _ _ _ => ?_) | split | fail_if_no_progress extract_lets
    | dsimp +zetaDelta only | refine List.forall_mem_cons.2 ⟨?_, ?_⟩ | exact List.forall_mem_nil _
    | exact sub hp (by decide) | exact hp _ (by decide)

theorem touches_samplingStops {ps : List Part} {r s0 : State} (h : Touches ps r s0)
    (hp : ∀ p ∈ ([.flt, .modes, .notes, .obj 0x0C06, .obj 0x1011] : List Part), p.within ps = true) : Touches ps r (samplingStops s0) := by
  unfold samplingStops
  repeat' first
    | with_reducible assumption | with_reducible refine touches_raise_plain ?_ (by decide) _ _ _ ?_
    | with_reducible refine touches_raiseDetail_plain ?_ (by decide) _ _ _ _ ?_
    | with_reducible refine touches_raise_plain ?_ (by split <;> decide) _ _ _ ?_
    | with_reducible apply touches_forceIdle | with_reducible apply touches_failTransition
    | with_reducible apply touches_wrPairs | with_reducible refine Touches.foldl _ _ ?_ (fun _ _ _ => ?_)
    | split | fail_if_no_progress extract_lets | dsimp +zetaDelta only | refine List.forall_mem_cons.2 ⟨?_, ?_⟩
    | exact List.forall_mem_nil _ | exact sub hp (by decide) | exact hp _ (by decide)

theorem touches_restartLost {ps : List Part} {r s0 : State} (h : Touches ps r s0)
    (hp : ∀ p ∈ ([.afe, .aon, .axl, .bbl, .cal, .chz, .cmp, .cnv, .conc, .ctl, .dah, .evt, .flt, .fst, .hk, .live, .mem, .modes, .mov, .net, .notes, .peer, .pwr, .rc64, .sun, .time, .trg, .regs] : List Part), p.within ps = true) : Touches ps r (restartLost s0) := by
  unfold restartLost
  repeat' first
    | with_reducible assumption | with_reducible apply touches_forcedBoot | with_reducible apply touches_wrPairs
    | with_reducible refine Touches.foldl _ _ ?_ (fun _ _ _ => ?_) | split

theorem touches_latchupEffect {ps : List Part} {r s0 : State} (h : Touches ps r s0) (a0 : Nat)
    (hp : ∀ p ∈ ([.afe, .aon, .axl, .bbl, .cal, .chz, .cmp, .cnv, .conc, .ctl, .dah, .evt, .flt, .fst, .hk, .live, .mem, .modes, .mov, .net, .notes, .out, .peer, .pwr, .rc64, .sun, .time, .trg, .regs] : List Part), p.within ps = true) : Touches ps r (latchupEffect s0 a0) := by
  unfold latchupEffect
  repeat' first
    | with_reducible assumption | with_reducible apply touches_showLine
    | with_reducible apply touches_windowsStale | with_reducible apply touches_samplingStops
    | with_reducible apply touches_discardBlock | with_reducible apply touches_bankLost
    | with_reducible apply touches_clockLoss | with_reducible apply touches_selfCheck
    | with_reducible apply touches_restartLost | with_reducible apply touches_warmRestart
    | with_reducible apply touches_wrPairs | with_reducible refine Touches.foldl _ _ ?_ (fun _ _ _ => ?_)
    | split | fail_if_no_progress extract_lets | dsimp +zetaDelta only | refine List.forall_mem_cons.2 ⟨?_, ?_⟩
    | exact List.forall_mem_nil _ | exact sub hp (by decide) | exact hp _ (by decide)
    | exact ⟨by decide, hp _ (by decide)⟩
    | exact ⟨by decide, sub hp (as := [_]) (by decide) _ List.mem_cons_self⟩
    | exact sub hp (as := [_]) (by decide) _ List.mem_cons_self

end Sys2Proof
end

