-- ==== Sys2Proof/Laws/Cfg.lean ====
section
/-! SUPPORT. What each operation of `Machine/Cfg.lean` may change. -/

namespace Sys2Proof

open Sys2Proof.Machine

theorem touches_bankShown {ps : List Part} {r s0 : State} (h : Touches ps r s0) (a0 : Nat)
    (hp : ∀ p ∈ ([.obj 0x0A04] : List Part), p.within ps = true) : Touches ps r (bankShown s0 a0) := by
  unfold bankShown
  repeat' first
    | with_reducible assumption | with_reducible apply touches_wr | with_reducible apply touches_wrPairs
    | with_reducible refine Touches.foldl _ _ ?_ (fun _ _ _ => ?_) | split | fail_if_no_progress extract_lets
    | dsimp +zetaDelta only | refine List.forall_mem_cons.2 ⟨?_, ?_⟩ | exact List.forall_mem_nil _
    | exact sub hp (by decide) | exact hp _ (by decide) | exact ⟨by decide, hp _ (by decide)⟩

theorem touches_geomShown {ps : List Part} {r s0 : State} (h : Touches ps r s0)
    (hp : ∀ p ∈ ([.obj 0x0706] : List Part), p.within ps = true) : Touches ps r (geomShown s0) := by
  unfold geomShown
  repeat' first
    | with_reducible assumption | with_reducible apply touches_wr | with_reducible apply touches_wrPairs
    | with_reducible refine Touches.foldl _ _ ?_ (fun _ _ _ => ?_) | split | fail_if_no_progress extract_lets
    | dsimp +zetaDelta only | refine List.forall_mem_cons.2 ⟨?_, ?_⟩ | exact List.forall_mem_nil _
    | exact sub hp (by decide) | exact hp _ (by decide) | exact ⟨by decide, hp _ (by decide)⟩

theorem touches_shown {ps : List Part} {r s0 : State} (h : Touches ps r s0) (a0 : Nat) (a1 : Nat)
    (hp : ∀ p ∈ ([.obj 0x0108, .obj 0x0201, .obj 0x0604, .obj 0x0706, .obj 0x0802, .obj 0x0A01, .obj 0x0A04, .obj 0x0C06, .obj 0x0D06, .obj 0x0E01, .obj 0x1106, .obj 0x1107, .obj 0x1204] : List Part), p.within ps = true) : Touches ps r (shown s0 a0 a1) := by
  unfold shown
  repeat' first
    | with_reducible assumption | with_reducible apply touches_wr | with_reducible apply touches_evtSnapshot
    | with_reducible apply touches_geomShown | with_reducible apply touches_peerSnapshot
    | with_reducible apply touches_bankShown | with_reducible apply touches_prbsSnapshot
    | with_reducible apply touches_domSnapshot | with_reducible apply touches_powerSnapshot
    | with_reducible apply touches_hkSnapshot | with_reducible apply touches_wrPairs
    | with_reducible refine Touches.foldl _ _ ?_ (fun _ _ _ => ?_) | split | fail_if_no_progress extract_lets
    | dsimp +zetaDelta only | refine List.forall_mem_cons.2 ⟨?_, ?_⟩ | exact List.forall_mem_nil _
    | exact sub hp (by decide) | exact hp _ (by decide) | exact ⟨by decide, hp _ (by decide)⟩

theorem touches_ringWrite {ps : List Part} {r s0 : State} (h : Touches ps r s0) (a0 : Nat) (a1 : Nat) (a2 : Nat)
    (hp : ∀ p ∈ ([.flt, .mov, .out, .regs] : List Part), p.within ps = true) : Touches ps r (ringWrite s0 a0 a1 a2) := by
  unfold ringWrite
  repeat' first
    | with_reducible assumption | exact fun _ => rfl | with_reducible apply touches_writeRw
    | with_reducible apply touches_kindWrite | with_reducible apply touches_wrFields
    | with_reducible apply touches_wrPairs | with_reducible refine Touches.foldl _ _ ?_ (fun _ _ _ => ?_)
    | split | fail_if_no_progress extract_lets | dsimp +zetaDelta only | refine List.forall_mem_cons.2 ⟨?_, ?_⟩
    | exact List.forall_mem_nil _ | exact sub hp (by decide) | exact hp _ (by decide)
    | exact ⟨by decide, hp _ (by decide)⟩
    | exact ⟨by decide, sub hp (as := [_]) (by decide) _ List.mem_cons_self⟩
    | exact sub hp (as := [_]) (by decide) _ List.mem_cons_self

theorem touches_comparatorWrite {ps : List Part} {r s0 : State} (h : Touches ps r s0) (a0 : Nat) (a1 : Nat) (a2 : Nat)
    (hp : ∀ p ∈ ([.time, .regs] : List Part), p.within ps = true) : Touches ps r (comparatorWrite s0 a0 a1 a2) := by
  unfold comparatorWrite
  repeat' first
    | with_reducible assumption | exact fun _ => rfl | with_reducible apply touches_clearW1c
    | with_reducible apply touches_writeRw | with_reducible apply touches_cmpWrite
    | with_reducible refine touches_setTime ?_ _ ?_ (.inl rfl) | with_reducible apply touches_wr
    | with_reducible apply touches_wrFields | with_reducible apply touches_wrPairs
    | with_reducible refine Touches.foldl _ _ ?_ (fun _ _ _ => ?_) | split | fail_if_no_progress extract_lets
    | dsimp +zetaDelta only | refine List.forall_mem_cons.2 ⟨?_, ?_⟩ | exact List.forall_mem_nil _
    | exact sub hp (by decide) | exact hp _ (by decide) | exact ⟨by decide, hp _ (by decide)⟩
    | exact ⟨by decide, sub hp (as := [_]) (by decide) _ List.mem_cons_self⟩
    | exact sub hp (as := [_]) (by decide) _ List.mem_cons_self

theorem touches_switchWrite {ps : List Part} {r s0 : State} (h : Touches ps r s0) (a0 : Nat) (a1 : Nat)
    (hp : ∀ p ∈ ([.flt, .sun, .regs] : List Part), p.within ps = true) : Touches ps r (switchWrite s0 a0 a1) := by
  unfold switchWrite
  repeat' first
    | with_reducible assumption | exact fun _ => rfl | with_reducible apply touches_sunCopy
    | with_reducible apply touches_writeRw | with_reducible apply touches_sunArm
    | with_reducible apply touches_sunDisarm | with_reducible apply touches_sunSwitchNow
    | with_reducible apply touches_wrPairs | with_reducible refine Touches.foldl _ _ ?_ (fun _ _ _ => ?_)
    | split | fail_if_no_progress extract_lets | dsimp +zetaDelta only | refine List.forall_mem_cons.2 ⟨?_, ?_⟩
    | exact List.forall_mem_nil _ | exact sub hp (by decide) | exact hp _ (by decide)
    | exact ⟨by decide, hp _ (by decide)⟩
    | exact ⟨by decide, sub hp (as := [_]) (by decide) _ List.mem_cons_self⟩
    | exact sub hp (as := [_]) (by decide) _ List.mem_cons_self

theorem touches_axlPortWrite {ps : List Part} {r s0 : State} (h : Touches ps r s0) (a0 : Nat)
    (hp : ∀ p ∈ ([.axl, .flt, .notes, .pwr, .obj 0x0A04, .obj 0x0C06, .obj 0x0D04, .obj 0x0D05] : List Part), p.within ps = true) : Touches ps r (axlPortWrite s0 a0) := by
  unfold axlPortWrite
  repeat' first
    | with_reducible assumption | with_reducible apply touches_linkQuiet
    | with_reducible apply touches_mapFaults | with_reducible apply touches_wrPairs
    | with_reducible refine Touches.foldl _ _ ?_ (fun _ _ _ => ?_) | split | fail_if_no_progress extract_lets
    | dsimp +zetaDelta only | refine List.forall_mem_cons.2 ⟨?_, ?_⟩ | exact List.forall_mem_nil _
    | exact sub hp (by decide) | exact hp _ (by decide)

theorem touches_farLoop {ps : List Part} {r s0 : State} (h : Touches ps r s0) (a0 : Nat)
    (hp : ∀ p ∈ ([.free, .out, .obj 0x0D03] : List Part), p.within ps = true) : Touches ps r (farLoop s0 a0) := by
  unfold farLoop
  repeat' first
    | with_reducible assumption | with_reducible apply touches_emit | with_reducible apply touches_wr
    | with_reducible apply touches_drawFree | with_reducible apply touches_wrPairs
    | with_reducible refine Touches.foldl _ _ ?_ (fun _ _ _ => ?_) | split | fail_if_no_progress extract_lets
    | dsimp +zetaDelta only | refine List.forall_mem_cons.2 ⟨?_, ?_⟩ | exact List.forall_mem_nil _
    | exact sub hp (by decide) | exact hp _ (by decide) | exact ⟨by decide, hp _ (by decide)⟩

theorem touches_axlTestWrite {ps : List Part} {r s0 : State} (h : Touches ps r s0) {a0 : State} (ha0 : Touches ps r a0) (a1 : Nat) (a2 : Nat) (a3 : Nat)
    (hp : ∀ p ∈ ([.free, .out, .obj 0x0D03, .obj 0x0D06] : List Part), p.within ps = true) : Touches ps r (axlTestWrite s0 a0 a1 a2 a3) := by
  unfold axlTestWrite
  repeat' first
    | with_reducible assumption | with_reducible apply touches_wr | with_reducible apply touches_farLoop
    | with_reducible apply touches_errInject | with_reducible apply touches_wrPairs
    | with_reducible refine Touches.foldl _ _ ?_ (fun _ _ _ => ?_) | split | fail_if_no_progress extract_lets
    | dsimp +zetaDelta only | refine List.forall_mem_cons.2 ⟨?_, ?_⟩ | exact List.forall_mem_nil _
    | exact sub hp (by decide) | exact hp _ (by decide) | exact ⟨by decide, hp _ (by decide)⟩

theorem touches_timSetWrite {ps : List Part} {r s0 : State} (h : Touches ps r s0) {a0 : State} (ha0 : Touches ps r a0) (a1 : Nat) (a2 : Nat)
    (hp : ∀ p ∈ ([.time, .obj 0x0E03] : List Part), p.within ps = true) : Touches ps r (timSetWrite s0 a0 a1 a2) := by
  unfold timSetWrite
  repeat' first
    | with_reducible assumption | with_reducible apply touches_timeOpWrite
    | with_reducible apply touches_wrPairs | with_reducible refine Touches.foldl _ _ ?_ (fun _ _ _ => ?_)
    | split

theorem touches_hkCtrlWrite {ps : List Part} {r s0 : State} (h : Touches ps r s0) (a0 : Nat) (a1 : Nat)
    (hp : ∀ p ∈ ([.hk, .live, .pwr, .obj 0x0A04, .obj 0x1011, .obj 0x1204] : List Part), p.within ps = true) : Touches ps r (hkCtrlWrite s0 a0 a1) := by
  unfold hkCtrlWrite
  repeat' first
    | with_reducible assumption | with_reducible apply touches_hkRequest
    | with_reducible apply touches_hkStopWrite | with_reducible apply touches_wrPairs
    | with_reducible refine Touches.foldl _ _ ?_ (fun _ _ _ => ?_) | split | fail_if_no_progress extract_lets
    | dsimp +zetaDelta only | refine List.forall_mem_cons.2 ⟨?_, ?_⟩ | exact List.forall_mem_nil _
    | exact sub hp (by decide) | exact hp _ (by decide)

theorem touches_calStringWrite {ps : List Part} {r s0 : State} (h : Touches ps r s0) (a0 : Nat) (a1 : Nat)
    (hp : ∀ p ∈ ([.cal, .live, .out, .pwr, .obj 0x0A04, .obj 0x1301, .obj 0x1304] : List Part), p.within ps = true) : Touches ps r (calStringWrite s0 a0 a1) := by
  unfold calStringWrite
  repeat' first
    | with_reducible assumption | with_reducible apply touches_stringDisable
    | with_reducible apply touches_wrPairs | with_reducible refine Touches.foldl _ _ ?_ (fun _ _ _ => ?_)
    | split

theorem touches_calPlanWrite {ps : List Part} {r s0 : State} (h : Touches ps r s0) (a0 : Nat) (a1 : Nat) (a2 : Nat)
    (hp : ∀ p ∈ ([.cal, .out, .pwr, .obj 0x0A04, .obj 0x1011, .obj 0x1304] : List Part), p.within ps = true) : Touches ps r (calPlanWrite s0 a0 a1 a2) := by
  unfold calPlanWrite
  repeat' first
    | with_reducible assumption | with_reducible apply touches_planStart
    | with_reducible apply touches_stringsEnd | with_reducible apply touches_wrPairs
    | with_reducible refine Touches.foldl _ _ ?_ (fun _ _ _ => ?_) | split | fail_if_no_progress extract_lets
    | dsimp +zetaDelta only | refine List.forall_mem_cons.2 ⟨?_, ?_⟩ | exact List.forall_mem_nil _
    | exact sub hp (by decide) | exact hp _ (by decide)

theorem touches_dvfsWrite {ps : List Part} {r s0 : State} (h : Touches ps r s0)
    (hp : ∀ p ∈ ([.pwr, .obj 0x1102] : List Part), p.within ps = true) : Touches ps r (dvfsWrite s0) := by
  unfold dvfsWrite
  repeat' first
    | with_reducible assumption | with_reducible apply touches_askPoint | with_reducible apply touches_wr
    | with_reducible apply touches_wrPairs | with_reducible refine Touches.foldl _ _ ?_ (fun _ _ _ => ?_)
    | split | fail_if_no_progress extract_lets | dsimp +zetaDelta only | refine List.forall_mem_cons.2 ⟨?_, ?_⟩
    | exact List.forall_mem_nil _ | exact sub hp (by decide) | exact hp _ (by decide)
    | exact ⟨by decide, hp _ (by decide)⟩

theorem touches_dahHeld {ps : List Part} {r s0 : State} (h : Touches ps r s0) {a0 : State} (ha0 : Touches ps r a0) (a1 : List Field)
    (hp : ∀ p ∈ ([.obj 0x0705] : List Part), p.within ps = true) : Touches ps r (dahHeld s0 a0 a1) := by
  unfold dahHeld
  repeat' first
    | with_reducible assumption | with_reducible apply touches_wr | with_reducible apply touches_wrPairs
    | with_reducible refine Touches.foldl _ _ ?_ (fun _ _ _ => ?_) | split | fail_if_no_progress extract_lets
    | dsimp +zetaDelta only | refine List.forall_mem_cons.2 ⟨?_, ?_⟩ | exact List.forall_mem_nil _
    | exact sub hp (by decide) | exact hp _ (by decide) | exact ⟨by decide, hp _ (by decide)⟩

theorem touches_entryRewritten {ps : List Part} {r s0 : State} (h : Touches ps r s0) (a0 : Nat)
    (hp : ∀ p ∈ ([.flt, .trg] : List Part), p.within ps = true) : Touches ps r (entryRewritten s0 a0) := by
  unfold entryRewritten
  repeat' first
    | with_reducible assumption | with_reducible apply touches_endFault | with_reducible apply touches_setTrg
    | with_reducible apply touches_wrPairs | with_reducible refine Touches.foldl _ _ ?_ (fun _ _ _ => ?_)
    | split | fail_if_no_progress extract_lets | dsimp +zetaDelta only | refine List.forall_mem_cons.2 ⟨?_, ?_⟩
    | exact List.forall_mem_nil _ | exact sub hp (by decide) | exact hp _ (by decide)

theorem touches_ownEffect {ps : List Part} {r s0 : State} (h : Touches ps r s0) {a0 : State} (ha0 : Touches ps r a0) (a1 : Nat) (a2 : Nat) (a3 : Nat) (a4 : Nat) (a5 : Nat) (a6 : Nat)
    (hp : ∀ p ∈ ([.afe, .aon, .axl, .cal, .chz, .cmp, .dah, .evt, .flt, .free, .hk, .live, .modes, .mov, .notes, .out, .pwr, .sun, .time, .trg, .regs] : List Part), p.within ps = true) : Touches ps r (ownEffect s0 a0 a1 a2 a3 a4 a5 a6) := by
  unfold ownEffect
  repeat' first
    | with_reducible assumption | with_reducible apply touches_modePlanWrite
    | with_reducible apply touches_clearFault | with_reducible apply touches_probeCfgWrite
    | with_reducible apply touches_showVmax | with_reducible apply touches_digitizerUp
    | with_reducible apply touches_latch | with_reducible apply touches_maskWritten
    | with_reducible apply touches_entryRewritten | with_reducible apply touches_wr
    | with_reducible apply touches_tokenAccrue | with_reducible apply touches_evtLevels
    | with_reducible apply touches_dahHeld | with_reducible apply touches_acceptStart
    | with_reducible apply touches_switchWrite | with_reducible apply touches_ringWrite
    | with_reducible apply touches_axlPortWrite | with_reducible apply touches_axlTestWrite
    | with_reducible apply touches_incWrite | with_reducible apply touches_timSetWrite
    | with_reducible refine touches_setTime ?_ _ ?_ (.inl rfl) | with_reducible apply touches_comparatorWrite
    | with_reducible apply touches_dvfsWrite | with_reducible apply touches_hkCtrlWrite
    | with_reducible apply touches_calStringWrite | with_reducible apply touches_calPlanWrite
    | with_reducible apply touches_wrFields | with_reducible apply touches_wrPairs
    | with_reducible refine Touches.foldl _ _ ?_ (fun _ _ _ => ?_) | split | fail_if_no_progress extract_lets
    | with_reducible apply touches_part_cmp | dsimp +zetaDelta only | refine List.forall_mem_cons.2 ⟨?_, ?_⟩
    | exact List.forall_mem_nil _ | exact sub hp (by decide) | exact hp _ (by decide)
    | exact ⟨by decide, hp _ (by decide)⟩
    | exact ⟨by decide, sub hp (as := [_]) (by decide) _ List.mem_cons_self⟩
    | exact sub hp (as := [_]) (by decide) _ List.mem_cons_self

theorem touches_applyEntry {ps : List Part} {r s0 : State} (h : Touches ps r s0) (a0 : CfgEntry) (a1 : Nat) (a2 : Nat)
    (hp : ∀ p ∈ ([.afe, .aon, .axl, .cal, .chz, .cmp, .dah, .evt, .flt, .free, .hk, .live, .modes, .mov, .notes, .out, .pwr, .sun, .time, .trg, .regs] : List Part), p.within ps = true) : Touches ps r (applyEntry s0 a0 a1 a2) := by
  unfold applyEntry
  repeat' first
    | with_reducible assumption | exact fun f hf k => writable_plain ‹_› f hf (.inl k)
    | exact fun f hf k => writable_plain ‹_› f hf (.inr k) | with_reducible apply touches_ownEffect
    | with_reducible apply touches_clearW1c | with_reducible apply touches_writeRw
    | with_reducible apply touches_wrFields | with_reducible apply touches_wrPairs
    | with_reducible refine Touches.foldl _ _ ?_ (fun _ _ _ => ?_) | split | fail_if_no_progress extract_lets
    | dsimp +zetaDelta only | refine List.forall_mem_cons.2 ⟨?_, ?_⟩ | exact List.forall_mem_nil _
    | exact sub hp (by decide) | exact hp _ (by decide)

end Sys2Proof
end

