-- ==== Sys2Proof/Laws/Ctl.lean ====
section
/-! SUPPORT. What each operation of `Machine/Ctl.lean` may change. -/

namespace Sys2Proof

open Sys2Proof.Machine

theorem touches_tableStore {ps : List Part} {r s0 : State} (h : Touches ps r s0) (a0 : Nat) (a1 : List ((Nat × Nat) × Nat))
    (hp : ∀ p ∈ ([.chz, .flt, .sun, .obj 0x0406, .obj 0x0807, .obj 0x0907] : List Part), p.within ps = true) : Touches ps r (tableStore s0 a0 a1) := by
  unfold tableStore
  repeat' first
    | with_reducible assumption | with_reducible apply touches_wr | with_reducible apply touches_setChz
    | with_reducible apply touches_holdGains | with_reducible apply touches_writeContexts
    | with_reducible apply touches_wrPairs | with_reducible refine Touches.foldl _ _ ?_ (fun _ _ _ => ?_)
    | split | fail_if_no_progress extract_lets | dsimp +zetaDelta only | refine List.forall_mem_cons.2 ⟨?_, ?_⟩
    | exact List.forall_mem_nil _ | exact sub hp (by decide) | exact hp _ (by decide)
    | exact ⟨by decide, hp _ (by decide)⟩

theorem touches_softJudged {ps : List Part} {r s0 : State} (h : Touches ps r s0)
    (hp : ∀ p ∈ ([.ctl, .trg] : List Part), p.within ps = true) : Touches ps r (softJudged s0) := by
  unfold softJudged
  repeat' first
    | with_reducible assumption | with_reducible apply touches_commit | with_reducible apply touches_setTrg
    | with_reducible apply touches_wrPairs | with_reducible refine Touches.foldl _ _ ?_ (fun _ _ _ => ?_)
    | split | fail_if_no_progress extract_lets | dsimp +zetaDelta only | refine List.forall_mem_cons.2 ⟨?_, ?_⟩
    | exact List.forall_mem_nil _ | exact sub hp (by decide) | exact hp _ (by decide)

theorem touches_pointRecord {ps : List Part} {r s0 : State} (h : Touches ps r s0) (a0 : Sweep) (a1 : Nat) (a2 : List ProbeReading)
    (hp : ∀ p ∈ ([.free] : List Part), p.within ps = true) : Touches ps r (pointRecord s0 a0 a1 a2).2 := by
  unfold pointRecord
  repeat' first
    | with_reducible assumption | with_reducible apply touches_sweepBytes | with_reducible apply touches_wrPairs
    | with_reducible refine Touches.foldl _ _ ?_ (fun _ _ _ => ?_)
    | with_reducible refine Touches.foldlSnd _ _ ?_ (fun _ _ _ => ?_)

theorem touches_sweepInterval {ps : List Part} {r s0 : State} (h : Touches ps r s0) (a0 : Nat) (a1 : Request) (a2 : Sweep) (a3 : List ProbeReading)
    (hp : ∀ p ∈ ([.afe, .ctl, .free, .live, .mov, .pwr, .obj 0x1106] : List Part), p.within ps = true) : Touches ps r (sweepInterval s0 a0 a1 a2 a3) := by
  unfold sweepInterval
  repeat' first
    | with_reducible assumption | with_reducible apply touches_sweepNext
    | with_reducible apply touches_pointRecord | with_reducible apply touches_ringSend
    | with_reducible apply touches_commit | with_reducible apply touches_sweepEnds
    | with_reducible apply touches_setHead | with_reducible apply touches_wrPairs
    | with_reducible refine Touches.foldl _ _ ?_ (fun _ _ _ => ?_) | split | fail_if_no_progress extract_lets
    | with_reducible apply touches_part_afe | dsimp +zetaDelta only | refine List.forall_mem_cons.2 ⟨?_, ?_⟩
    | exact List.forall_mem_nil _ | exact sub hp (by decide) | exact hp _ (by decide)

theorem touches_calLoaded {ps : List Part} {r s0 : State} (h : Touches ps r s0) (a0 : SMap) (a1 : Nat) (a2 : Nat) (a3 : Nat)
    (hp : ∀ p ∈ ([.bbl, .flt, .notes, .obj 0x0206, .obj 0x0C06] : List Part), p.within ps = true) : Touches ps r (calLoaded s0 a0 a1 a2 a3) := by
  unfold calLoaded
  repeat' first
    | with_reducible assumption | with_reducible refine touches_raise_plain ?_ (by decide) _ _ _ ?_
    | with_reducible refine touches_raiseDetail_plain ?_ (by decide) _ _ _ _ ?_
    | with_reducible refine touches_raise_plain ?_ (by split <;> decide) _ _ _ ?_
    | with_reducible apply touches_setBbl | with_reducible apply touches_wr
    | with_reducible apply touches_clearFault | with_reducible apply touches_wrPairs
    | with_reducible refine Touches.foldl _ _ ?_ (fun _ _ _ => ?_) | split | fail_if_no_progress extract_lets
    | dsimp +zetaDelta only | refine List.forall_mem_cons.2 ⟨?_, ?_⟩ | exact List.forall_mem_nil _
    | exact sub hp (by decide) | exact hp _ (by decide) | exact ⟨by decide, hp _ (by decide)⟩

theorem touches_calFreeze {ps : List Part} {r s0 : State} (h : Touches ps r s0)
    (hp : ∀ p ∈ ([.bbl, .obj 0x0205, .obj 0x0509] : List Part), p.within ps = true) : Touches ps r (calFreeze s0) := by
  unfold calFreeze
  repeat' first
    | with_reducible assumption | with_reducible apply touches_showBbl | with_reducible apply touches_setBbl
    | with_reducible apply touches_wrPairs | with_reducible refine Touches.foldl _ _ ?_ (fun _ _ _ => ?_)
    | split | fail_if_no_progress extract_lets | dsimp +zetaDelta only | refine List.forall_mem_cons.2 ⟨?_, ?_⟩
    | exact List.forall_mem_nil _ | exact sub hp (by decide) | exact hp _ (by decide)

theorem touches_captureDone {ps : List Part} {r s0 : State} (h : Touches ps r s0)
    (hp : ∀ p ∈ ([.cnv, .ctl, .pwr, .obj 0x0A04] : List Part), p.within ps = true) : Touches ps r (captureDone s0) := by
  unfold captureDone
  repeat' first
    | with_reducible assumption | with_reducible apply touches_setCnv | with_reducible apply touches_demandDown
    | with_reducible apply touches_commit | with_reducible apply touches_wrPairs
    | with_reducible refine Touches.foldl _ _ ?_ (fun _ _ _ => ?_) | split | fail_if_no_progress extract_lets
    | dsimp +zetaDelta only | refine List.forall_mem_cons.2 ⟨?_, ?_⟩ | exact List.forall_mem_nil _
    | exact sub hp (by decide) | exact hp _ (by decide)

theorem touches_acknowledge {ps : List Part} {r s0 : State} (h : Touches ps r s0) (a0 : FaultInst)
    (hp : ∀ p ∈ ([.flt, .notes, .pwr, .obj 0x0C06] : List Part), p.within ps = true) : Touches ps r (acknowledge s0 a0) := by
  unfold acknowledge
  repeat' first
    | with_reducible assumption | with_reducible apply touches_clearFault | with_reducible apply touches_setPwr
    | with_reducible apply touches_wrPairs | with_reducible refine Touches.foldl _ _ ?_ (fun _ _ _ => ?_)
    | split | fail_if_no_progress extract_lets | dsimp +zetaDelta only | refine List.forall_mem_cons.2 ⟨?_, ?_⟩
    | exact List.forall_mem_nil _ | exact sub hp (by decide) | exact hp _ (by decide)

end Sys2Proof
end

