-- ==== Sys2Proof/Laws/Images.lean ====
section
/-! SUPPORT. What each operation of `Machine/Images.lean` may change. -/

namespace Sys2Proof

open Sys2Proof.Machine

theorem touches_imageRejected {ps : List Part} {r s0 : State} (h : Touches ps r s0) (a0 : Nat)
    (hp : ∀ p ∈ ([.flt, .notes, .obj 0x0C06] : List Part), p.within ps = true) : Touches ps r (imageRejected s0 a0) := by
  unfold imageRejected
  repeat' first
    | with_reducible assumption | with_reducible refine touches_raise_plain ?_ (by decide) _ _ _ ?_

theorem touches_repairEntry {ps : List Part} {r s0 : State} (h : Touches ps r s0) (a0 : Nat)
    (hp : ∀ p ∈ ([.flt, .fst, .notes, .obj 0x0A04, .obj 0x0A05, .obj 0x0A06, .obj 0x0A07, .obj 0x0C06] : List Part), p.within ps = true) : Touches ps r (repairEntry s0 a0) := by
  unfold repairEntry
  repeat' first
    | with_reducible assumption | with_reducible apply touches_bump | with_reducible apply touches_softRepair
    | with_reducible apply touches_wrPairs | with_reducible refine Touches.foldl _ _ ?_ (fun _ _ _ => ?_)
    | split | fail_if_no_progress extract_lets | dsimp +zetaDelta only | refine List.forall_mem_cons.2 ⟨?_, ?_⟩
    | exact List.forall_mem_nil _ | exact sub hp (by decide) | exact hp _ (by decide)
    | exact ⟨by decide, hp _ (by decide)⟩

theorem touches_repairList {ps : List Part} {r s0 : State} (h : Touches ps r s0) (a0 : Bytes)
    (hp : ∀ p ∈ ([.flt, .fst, .notes, .obj 0x0A04, .obj 0x0A05, .obj 0x0A06, .obj 0x0A07, .obj 0x0C06] : List Part), p.within ps = true) : Touches ps r (repairList s0 a0) := by
  unfold repairList
  repeat' first
    | with_reducible assumption | with_reducible apply touches_repairEntry
    | with_reducible apply touches_imageRejected | with_reducible apply touches_wrPairs
    | with_reducible refine Touches.foldl _ _ ?_ (fun _ _ _ => ?_) | split | fail_if_no_progress extract_lets
    | dsimp +zetaDelta only | refine List.forall_mem_cons.2 ⟨?_, ?_⟩ | exact List.forall_mem_nil _
    | exact sub hp (by decide) | exact hp _ (by decide)

theorem touches_objectEntry {ps : List Part} {r s0 : State} (h : Touches ps r s0) (a0 : Option CfgEntry)
    (hp : ∀ p ∈ ([.afe, .aon, .axl, .cal, .chz, .cmp, .dah, .evt, .flt, .free, .hk, .live, .modes, .mov, .notes, .out, .pwr, .sun, .time, .trg, .regs] : List Part), p.within ps = true) : Touches ps r (objectEntry s0 a0) := by
  unfold objectEntry
  repeat' first
    | with_reducible assumption | with_reducible apply touches_imageRejected
    | with_reducible apply touches_applyEntry | with_reducible apply touches_wrPairs
    | with_reducible refine Touches.foldl _ _ ?_ (fun _ _ _ => ?_) | split | fail_if_no_progress extract_lets
    | dsimp +zetaDelta only | refine List.forall_mem_cons.2 ⟨?_, ?_⟩ | exact List.forall_mem_nil _
    | exact sub hp (by decide) | exact hp _ (by decide) | exact ⟨by decide, hp _ (by decide)⟩
    | exact ⟨by decide, sub hp (as := [_]) (by decide) _ List.mem_cons_self⟩
    | exact sub hp (as := [_]) (by decide) _ List.mem_cons_self

theorem touches_bluebellTables {ps : List Part} {r s0 : State} (h : Touches ps r s0) (a0 : Bytes)
    (hp : ∀ p ∈ ([.bbl, .flt, .free, .notes, .obj 0x0206, .obj 0x0C06] : List Part), p.within ps = true) : Touches ps r (bluebellTables s0 a0) := by
  unfold bluebellTables
  repeat' first
    | with_reducible assumption | with_reducible apply touches_drawFree | with_reducible apply touches_calLoaded
    | with_reducible apply touches_wrPairs | with_reducible refine Touches.foldl _ _ ?_ (fun _ _ _ => ?_)
    | split | fail_if_no_progress extract_lets | dsimp +zetaDelta only | refine List.forall_mem_cons.2 ⟨?_, ?_⟩
    | exact List.forall_mem_nil _ | exact sub hp (by decide) | exact hp _ (by decide)

theorem touches_converterSection {ps : List Part} {r s0 : State} (h : Touches ps r s0) (a0 : Bytes)
    (hp : ∀ p ∈ ([.cnv, .free, .obj 0x0303] : List Part), p.within ps = true) : Touches ps r (converterSection s0 a0) := by
  unfold converterSection
  repeat' first
    | with_reducible assumption | with_reducible apply touches_drawFree | with_reducible apply touches_wr
    | with_reducible apply touches_setCnv | with_reducible apply touches_wrPairs
    | with_reducible refine Touches.foldl _ _ ?_ (fun _ _ _ => ?_) | split | fail_if_no_progress extract_lets
    | dsimp +zetaDelta only | refine List.forall_mem_cons.2 ⟨?_, ?_⟩ | exact List.forall_mem_nil _
    | exact sub hp (by decide) | exact hp _ (by decide) | exact ⟨by decide, hp _ (by decide)⟩

theorem touches_applyBundle {ps : List Part} {r s0 : State} (h : Touches ps r s0) (a0 : Bytes)
    (hp : ∀ p ∈ ([.afe, .aon, .axl, .bbl, .cal, .chz, .cmp, .cnv, .dah, .evt, .flt, .free, .fst, .hk, .live, .modes, .mov, .notes, .out, .pwr, .sun, .time, .trg, .regs] : List Part), p.within ps = true) : Touches ps r (applyBundle s0 a0) := by
  unfold applyBundle
  repeat' first
    | with_reducible assumption | with_reducible apply touches_repairList
    | with_reducible apply touches_bluebellTables | with_reducible apply touches_converterSection
    | with_reducible apply touches_objectEntry | with_reducible apply touches_wrPairs
    | with_reducible refine Touches.foldl _ _ ?_ (fun _ _ _ => ?_) | split | fail_if_no_progress extract_lets
    | dsimp +zetaDelta only | refine List.forall_mem_cons.2 ⟨?_, ?_⟩ | exact List.forall_mem_nil _
    | exact sub hp (by decide) | exact hp _ (by decide) | exact ⟨by decide, hp _ (by decide)⟩
    | exact ⟨by decide, sub hp (as := [_]) (by decide) _ List.mem_cons_self⟩
    | exact sub hp (as := [_]) (by decide) _ List.mem_cons_self

theorem touches_stageBytes {ps : List Part} {r s0 : State} (h : Touches ps r s0) (a0 : Bytes)
    (hp : ∀ p ∈ ([.bbl, .dah, .mem, .sun] : List Part), p.within ps = true) : Touches ps r (stageBytes s0 a0) := by
  unfold stageBytes
  repeat' first
    | with_reducible assumption | with_reducible apply touches_pokeWord | with_reducible apply touches_wrPairs
    | with_reducible refine Touches.foldl _ _ ?_ (fun _ _ _ => ?_)

theorem touches_firmwareRuns {ps : List Part} {r s0 : State} (h : Touches ps r s0) (a0 : Bytes) (a1 : Nat)
    (hp : ∀ p ∈ ([.ctl, .obj 0x0C01] : List Part), p.within ps = true) : Touches ps r (firmwareRuns s0 a0 a1) := by
  unfold firmwareRuns
  repeat' first
    | with_reducible assumption | with_reducible apply touches_wr | with_reducible apply touches_setCtl
    | with_reducible apply touches_wrPairs | with_reducible refine Touches.foldl _ _ ?_ (fun _ _ _ => ?_)
    | split | fail_if_no_progress extract_lets | dsimp +zetaDelta only | refine List.forall_mem_cons.2 ⟨?_, ?_⟩
    | exact List.forall_mem_nil _ | exact sub hp (by decide) | exact hp _ (by decide)
    | exact ⟨by decide, hp _ (by decide)⟩

theorem touches_bundleArrives {ps : List Part} {r s0 : State} (h : Touches ps r s0) (a0 : Bytes)
    (hp : ∀ p ∈ ([.afe, .aon, .axl, .bbl, .cal, .chz, .cmp, .cnv, .ctl, .dah, .evt, .flt, .free, .fst, .hk, .live, .modes, .mov, .notes, .out, .pwr, .sun, .time, .trg, .regs] : List Part), p.within ps = true) : Touches ps r (bundleArrives s0 a0) := by
  unfold bundleArrives
  repeat' first
    | with_reducible assumption | with_reducible apply touches_setCtl | with_reducible apply touches_applyBundle
    | with_reducible apply touches_imageRejected | with_reducible apply touches_wrPairs
    | with_reducible refine Touches.foldl _ _ ?_ (fun _ _ _ => ?_) | split | fail_if_no_progress extract_lets
    | dsimp +zetaDelta only | refine List.forall_mem_cons.2 ⟨?_, ?_⟩ | exact List.forall_mem_nil _
    | exact sub hp (by decide) | exact hp _ (by decide) | exact ⟨by decide, hp _ (by decide)⟩
    | exact ⟨by decide, sub hp (as := [_]) (by decide) _ List.mem_cons_self⟩
    | exact sub hp (as := [_]) (by decide) _ List.mem_cons_self

theorem touches_imageArrives {ps : List Part} {r s0 : State} (h : Touches ps r s0) (a0 : Nat) (a1 : Bytes)
    (hp : ∀ p ∈ ([.afe, .aon, .axl, .bbl, .cal, .chz, .cmp, .cnv, .ctl, .dah, .evt, .flt, .free, .fst, .hk, .live, .mem, .modes, .mov, .notes, .out, .pwr, .sun, .time, .trg, .regs] : List Part), p.within ps = true) : Touches ps r (imageArrives s0 a0 a1) := by
  unfold imageArrives
  repeat' first
    | with_reducible assumption | with_reducible apply touches_stageBytes | with_reducible apply touches_setCtl
    | with_reducible apply touches_bundleArrives | with_reducible apply touches_firmwareRuns
    | with_reducible apply touches_repairList | with_reducible apply touches_wrPairs
    | with_reducible refine Touches.foldl _ _ ?_ (fun _ _ _ => ?_) | split | fail_if_no_progress extract_lets
    | dsimp +zetaDelta only | refine List.forall_mem_cons.2 ⟨?_, ?_⟩ | exact List.forall_mem_nil _
    | exact sub hp (by decide) | exact hp _ (by decide) | exact ⟨by decide, hp _ (by decide)⟩
    | exact ⟨by decide, sub hp (as := [_]) (by decide) _ List.mem_cons_self⟩
    | exact sub hp (as := [_]) (by decide) _ List.mem_cons_self

theorem touches_loadEnds {ps : List Part} {r s0 : State} (h : Touches ps r s0) (a0 : Nat) (a1 : Nat) (a2 : Bytes)
    (hp : ∀ p ∈ ([.afe, .aon, .axl, .bbl, .cal, .chz, .cmp, .cnv, .ctl, .dah, .evt, .flt, .free, .fst, .hk, .live, .mem, .modes, .mov, .notes, .out, .pwr, .sun, .time, .trg, .regs] : List Part), p.within ps = true) : Touches ps r (loadEnds s0 a0 a1 a2) := by
  unfold loadEnds
  repeat' first
    | with_reducible assumption | with_reducible apply touches_commit
    | with_reducible apply touches_imageArrives | with_reducible apply touches_imageRejected
    | with_reducible apply touches_wrPairs | with_reducible refine Touches.foldl _ _ ?_ (fun _ _ _ => ?_)
    | split | fail_if_no_progress extract_lets | dsimp +zetaDelta only | refine List.forall_mem_cons.2 ⟨?_, ?_⟩
    | exact List.forall_mem_nil _ | exact sub hp (by decide) | exact hp _ (by decide)
    | exact ⟨by decide, hp _ (by decide)⟩
    | exact ⟨by decide, sub hp (as := [_]) (by decide) _ List.mem_cons_self⟩
    | exact sub hp (as := [_]) (by decide) _ List.mem_cons_self

theorem touches_imageMessage {ps : List Part} {r s0 : State} (h : Touches ps r s0) (a0 : Nat) (a1 : Nat) (a2 : Nat) (a3 : Nat) (a4 : Nat) (a5 : Nat) (a6 : Bytes)
    (hp : ∀ p ∈ ([.axl, .out, .peer, .obj 0x0D05] : List Part), p.within ps = true) : Touches ps r (imageMessage s0 a0 a1 a2 a3 a4 a5 a6) := by
  unfold imageMessage
  repeat' first
    | with_reducible assumption | with_reducible apply touches_axPost

theorem touches_askChunk {ps : List Part} {r s0 : State} (h : Touches ps r s0)
    (hp : ∀ p ∈ ([.axl, .ctl, .out, .peer, .obj 0x0D05] : List Part), p.within ps = true) : Touches ps r (askChunk s0) := by
  unfold askChunk
  repeat' first
    | with_reducible assumption | with_reducible apply touches_imageMessage
    | with_reducible apply touches_setCtl | with_reducible apply touches_wrPairs
    | with_reducible refine Touches.foldl _ _ ?_ (fun _ _ _ => ?_) | split | fail_if_no_progress extract_lets
    | dsimp +zetaDelta only | refine List.forall_mem_cons.2 ⟨?_, ?_⟩ | exact List.forall_mem_nil _
    | exact sub hp (by decide) | exact hp _ (by decide)

theorem touches_takeOffer {ps : List Part} {r s0 : State} (h : Touches ps r s0)
    (hp : ∀ p ∈ ([.axl, .ctl, .out, .peer, .obj 0x0D05] : List Part), p.within ps = true) : Touches ps r (takeOffer s0) := by
  unfold takeOffer
  repeat' first
    | with_reducible assumption | with_reducible apply touches_askChunk | with_reducible apply touches_setCtl
    | with_reducible apply touches_wrPairs | with_reducible refine Touches.foldl _ _ ?_ (fun _ _ _ => ?_)
    | split | fail_if_no_progress extract_lets | dsimp +zetaDelta only | refine List.forall_mem_cons.2 ⟨?_, ?_⟩
    | exact List.forall_mem_nil _ | exact sub hp (by decide) | exact hp _ (by decide)

theorem touches_receptionEnds {ps : List Part} {r s0 : State} (h : Touches ps r s0) (a0 : ImageRx) (a1 : Bytes)
    (hp : ∀ p ∈ ([.afe, .aon, .axl, .bbl, .cal, .chz, .cmp, .cnv, .ctl, .dah, .evt, .flt, .free, .fst, .hk, .live, .mem, .modes, .mov, .notes, .out, .pwr, .sun, .time, .trg, .regs] : List Part), p.within ps = true) : Touches ps r (receptionEnds s0 a0 a1) := by
  unfold receptionEnds
  repeat' first
    | with_reducible assumption | with_reducible apply touches_setCtl | with_reducible apply touches_loadEnds
    | with_reducible apply touches_imageArrives | with_reducible apply touches_imageRejected
    | with_reducible apply touches_wrPairs | with_reducible refine Touches.foldl _ _ ?_ (fun _ _ _ => ?_)
    | split | fail_if_no_progress extract_lets | dsimp +zetaDelta only | refine List.forall_mem_cons.2 ⟨?_, ?_⟩
    | exact List.forall_mem_nil _ | exact sub hp (by decide) | exact hp _ (by decide)
    | exact ⟨by decide, hp _ (by decide)⟩
    | exact ⟨by decide, sub hp (as := [_]) (by decide) _ List.mem_cons_self⟩
    | exact sub hp (as := [_]) (by decide) _ List.mem_cons_self

theorem touches_loadStarts {ps : List Part} {r s0 : State} (h : Touches ps r s0)
    (hp : ∀ p ∈ ([.ctl] : List Part), p.within ps = true) : Touches ps r (loadStarts s0) := by
  unfold loadStarts
  repeat' first
    | with_reducible assumption | with_reducible apply touches_setCtl | with_reducible apply touches_wrPairs
    | with_reducible refine Touches.foldl _ _ ?_ (fun _ _ _ => ?_) | split | fail_if_no_progress extract_lets
    | dsimp +zetaDelta only | refine List.forall_mem_cons.2 ⟨?_, ?_⟩ | exact List.forall_mem_nil _
    | exact sub hp (by decide) | exact hp _ (by decide)

theorem touches_flashStep {ps : List Part} {r s0 : State} (h : Touches ps r s0) (a0 : Nat) (a1 : Request) (a2 : Bool)
    (hp : ∀ p ∈ ([.ctl] : List Part), p.within ps = true) : Touches ps r (flashStep s0 a0 a1 a2) := by
  unfold flashStep
  repeat' first
    | with_reducible assumption | with_reducible apply touches_commit | with_reducible apply touches_setHead
    | with_reducible apply touches_setSlot | with_reducible apply touches_wrPairs
    | with_reducible refine Touches.foldl _ _ ?_ (fun _ _ _ => ?_) | split | fail_if_no_progress extract_lets
    | dsimp +zetaDelta only | refine List.forall_mem_cons.2 ⟨?_, ?_⟩ | exact List.forall_mem_nil _
    | exact sub hp (by decide) | exact hp _ (by decide)

end Sys2Proof
end

