-- ==== Sys2Proof/Laws/Boot.lean ====
section
/-! SUPPORT. What each operation of `Machine/Boot.lean` may change. -/

namespace Sys2Proof

open Sys2Proof.Machine

theorem touches_firmwareRead {ps : List Part} {r s0 : State} (h : Touches ps r s0)
    (hp : ∀ p ∈ ([.afe, .aon, .axl, .bbl, .cal, .chz, .cmp, .cnv, .conc, .ctl, .dah, .evt, .flt, .fst, .hk, .live, .mem, .modes, .mov, .net, .notes, .peer, .pwr, .rc64, .sun, .time, .trg, .regs] : List Part), p.within ps = true) : Touches ps r (firmwareRead s0) := by
  unfold firmwareRead
  repeat' first
    | with_reducible assumption | with_reducible refine touches_raise_plain ?_ (by decide) _ _ _ ?_
    | with_reducible refine touches_raiseDetail_plain ?_ (by decide) _ _ _ _ ?_
    | with_reducible refine touches_raise_plain ?_ (by split <;> decide) _ _ _ ?_
    | with_reducible apply touches_imageRejected | with_reducible apply touches_firmwareRuns
    | with_reducible apply touches_coldBoot | with_reducible apply touches_wrPairs
    | with_reducible refine Touches.foldl _ _ ?_ (fun _ _ _ => ?_) | split | fail_if_no_progress extract_lets
    | dsimp +zetaDelta only | refine List.forall_mem_cons.2 ⟨?_, ?_⟩ | exact List.forall_mem_nil _
    | exact sub hp (by decide) | exact hp _ (by decide) | exact ⟨by decide, hp _ (by decide)⟩
    | exact ⟨by decide, sub hp (as := [_]) (by decide) _ List.mem_cons_self⟩
    | exact sub hp (as := [_]) (by decide) _ List.mem_cons_self

theorem touches_bundleRead {ps : List Part} {r s0 : State} (h : Touches ps r s0)
    (hp : ∀ p ∈ ([.afe, .aon, .axl, .bbl, .cal, .chz, .cmp, .cnv, .ctl, .dah, .evt, .flt, .free, .fst, .hk, .live, .modes, .mov, .notes, .out, .pwr, .sun, .time, .trg, .regs] : List Part), p.within ps = true) : Touches ps r (bundleRead s0) := by
  unfold bundleRead
  repeat' first
    | with_reducible assumption | with_reducible refine touches_raise_plain ?_ (by decide) _ _ _ ?_
    | with_reducible refine touches_raiseDetail_plain ?_ (by decide) _ _ _ _ ?_
    | with_reducible refine touches_raise_plain ?_ (by split <;> decide) _ _ _ ?_
    | with_reducible apply touches_imageRejected | with_reducible apply touches_setCtl
    | with_reducible apply touches_applyBundle | with_reducible apply touches_wrPairs
    | with_reducible refine Touches.foldl _ _ ?_ (fun _ _ _ => ?_) | split | fail_if_no_progress extract_lets
    | dsimp +zetaDelta only | refine List.forall_mem_cons.2 ⟨?_, ?_⟩ | exact List.forall_mem_nil _
    | exact sub hp (by decide) | exact hp _ (by decide) | exact ⟨by decide, hp _ (by decide)⟩
    | exact ⟨by decide, sub hp (as := [_]) (by decide) _ List.mem_cons_self⟩
    | exact sub hp (as := [_]) (by decide) _ List.mem_cons_self

theorem touches_bar2Word {ps : List Part} {r s0 : State} (h : Touches ps r s0) (a0 : Nat) (a1 : Nat)
    (hp : ∀ p ∈ ([.bbl, .dah, .flt, .free, .fst, .mem, .notes, .sun, .obj 0x0A04, .obj 0x0A05, .obj 0x0A06, .obj 0x0A07, .obj 0x0C06] : List Part), p.within ps = true) : Touches ps r (bar2Word s0 a0 a1).2.2 := by
  unfold bar2Word
  repeat' first
    | with_reducible assumption | with_reducible apply touches_readWord | with_reducible apply touches_wrPairs
    | with_reducible refine Touches.foldl _ _ ?_ (fun _ _ _ => ?_)
    | with_reducible refine Touches.foldlSnd _ _ ?_ (fun _ _ _ => ?_)
    | with_reducible refine Touches.foldlSndSnd _ _ ?_ (fun _ _ _ => ?_) | split
    | fail_if_no_progress extract_lets

theorem touches_halfWord {ps : List Part} {r s0 : State} (h : Touches ps r s0) (a0 : Bool) (a1 : Nat) (a2 : Nat)
    (hp : ∀ p ∈ ([.bbl, .dah, .flt, .free, .fst, .mem, .notes, .sun, .obj 0x0A04, .obj 0x0A05, .obj 0x0A06, .obj 0x0A07, .obj 0x0C06] : List Part), p.within ps = true) : Touches ps r (halfWord s0 a0 a1 a2).2.2 := by
  unfold halfWord
  repeat' first
    | with_reducible assumption | with_reducible apply touches_bar2Word | with_reducible apply touches_bar0Word
    | with_reducible apply touches_wrPairs | with_reducible refine Touches.foldl _ _ ?_ (fun _ _ _ => ?_)
    | with_reducible refine Touches.foldlSnd _ _ ?_ (fun _ _ _ => ?_)
    | with_reducible refine Touches.foldlSndSnd _ _ ?_ (fun _ _ _ => ?_) | split
    | fail_if_no_progress extract_lets | dsimp +zetaDelta only | refine List.forall_mem_cons.2 ⟨?_, ?_⟩
    | exact List.forall_mem_nil _ | exact sub hp (by decide) | exact hp _ (by decide)

end Sys2Proof
end

