-- ==== Sys2Proof/Laws/State.lean ====
section
/-! SUPPORT. What each setter of the state does to each part of it, true by definition. -/

namespace Sys2Proof.Machine

/-- A field reads what was written last, truncated to its width. -/
@[simp] theorem rd_wr_same (s : State) (f : Field) (i v : Nat) : rd (wr s f i v) f i = v % 2 ^ f.width :=
  fieldGet_fieldSet_same _ _ _ _

/-- A write of one field leaves every field with another key. -/
theorem rd_wr_ne (s : State) {f g : Field} {i j : Nat} (v : Nat) (h : g.key j ≠ f.key i) :
    rd (wr s f i v) g j = rd s g j := fieldGet_fieldSet_ne _ _ h

/-- Fields of different objects, or at different places of one object. -/
def apart (f g : Field) : Bool := decide (f.lo < 4096) && decide (g.lo < 4096) && (f.obj != g.obj || f.lo != g.lo)

/-- A write of one field leaves a field apart from it, in every copy. -/
@[simp] theorem rd_wr_apart (s : State) {f g : Field} (i v : Nat) (j : Nat) (h : apart f g = true) :
    rd (wr s f i v) g j = rd s g j := by
  refine fieldGet_fieldSet_ne _ _ (fun e => ?_)
  simp only [apart, Bool.and_eq_true, decide_eq_true_eq, Bool.or_eq_true, bne_iff_ne, ne_eq, Field.key] at h e
  omega

/-- A write of one copy leaves the other copies, of objects with fewer than 2²⁰ copies. -/
theorem rd_wr_copy (s : State) {f g : Field} {i j : Nat} (v : Nat) (h : i % 1048576 ≠ j % 1048576) (hf : f.lo < 4096)
    (hg : g.lo < 4096) : rd (wr s f i v) g j = rd s g j := by
  refine fieldGet_fieldSet_ne _ _ (fun e => ?_)
  simp only [Field.key] at e
  omega

/-- A value put in force reads back, truncated to its width. -/
@[simp] theorem lv_setLive_same (s : State) (f : Field) (i v : Nat) : lv (setLive s f i v) f i = v % 2 ^ f.width :=
  fieldGet_fieldSet_same _ _ _ _

/-! ### `wr` -/

@[simp] theorem wr_regs (s : State) (f : Field) (i v : Nat) : (wr s f i v).regs = fieldSet s.regs f i v := rfl
@[simp] theorem wr_live (s : State) (f : Field) (i v : Nat) : (wr s f i v).live = s.live := rfl
@[simp] theorem wr_mem (s : State) (f : Field) (i v : Nat) : (wr s f i v).mem = s.mem := rfl
@[simp] theorem wr_time (s : State) (f : Field) (i v : Nat) : (wr s f i v).time = s.time := rfl
@[simp] theorem wr_net (s : State) (f : Field) (i v : Nat) : (wr s f i v).net = s.net := rfl
@[simp] theorem wr_modes (s : State) (f : Field) (i v : Nat) : (wr s f i v).modes = s.modes := rfl
@[simp] theorem wr_afe (s : State) (f : Field) (i v : Nat) : (wr s f i v).afe = s.afe := rfl
@[simp] theorem wr_bbl (s : State) (f : Field) (i v : Nat) : (wr s f i v).bbl = s.bbl := rfl
@[simp] theorem wr_cnv (s : State) (f : Field) (i v : Nat) : (wr s f i v).cnv = s.cnv := rfl
@[simp] theorem wr_chz (s : State) (f : Field) (i v : Nat) : (wr s f i v).chz = s.chz := rfl
@[simp] theorem wr_trg (s : State) (f : Field) (i v : Nat) : (wr s f i v).trg = s.trg := rfl
@[simp] theorem wr_evt (s : State) (f : Field) (i v : Nat) : (wr s f i v).evt = s.evt := rfl
@[simp] theorem wr_cmp (s : State) (f : Field) (i v : Nat) : (wr s f i v).cmp = s.cmp := rfl
@[simp] theorem wr_dah (s : State) (f : Field) (i v : Nat) : (wr s f i v).dah = s.dah := rfl
@[simp] theorem wr_peer (s : State) (f : Field) (i v : Nat) : (wr s f i v).peer = s.peer := rfl
@[simp] theorem wr_conc (s : State) (f : Field) (i v : Nat) : (wr s f i v).conc = s.conc := rfl
@[simp] theorem wr_sun (s : State) (f : Field) (i v : Nat) : (wr s f i v).sun = s.sun := rfl
@[simp] theorem wr_fst (s : State) (f : Field) (i v : Nat) : (wr s f i v).fst = s.fst := rfl
@[simp] theorem wr_mov (s : State) (f : Field) (i v : Nat) : (wr s f i v).mov = s.mov := rfl
@[simp] theorem wr_axl (s : State) (f : Field) (i v : Nat) : (wr s f i v).axl = s.axl := rfl
@[simp] theorem wr_ctl (s : State) (f : Field) (i v : Nat) : (wr s f i v).ctl = s.ctl := rfl
@[simp] theorem wr_pwr (s : State) (f : Field) (i v : Nat) : (wr s f i v).pwr = s.pwr := rfl
@[simp] theorem wr_hk (s : State) (f : Field) (i v : Nat) : (wr s f i v).hk = s.hk := rfl
@[simp] theorem wr_cal (s : State) (f : Field) (i v : Nat) : (wr s f i v).cal = s.cal := rfl
@[simp] theorem wr_aon (s : State) (f : Field) (i v : Nat) : (wr s f i v).aon = s.aon := rfl
@[simp] theorem wr_flt (s : State) (f : Field) (i v : Nat) : (wr s f i v).flt = s.flt := rfl
@[simp] theorem wr_notes (s : State) (f : Field) (i v : Nat) : (wr s f i v).notes = s.notes := rfl
@[simp] theorem wr_out (s : State) (f : Field) (i v : Nat) : (wr s f i v).out = s.out := rfl
@[simp] theorem wr_free (s : State) (f : Field) (i v : Nat) : (wr s f i v).free = s.free := rfl
@[simp] theorem wr_pending (s : State) (f : Field) (i v : Nat) : (wr s f i v).pending = s.pending := rfl
@[simp] theorem lv_wr (s : State) (f : Field) (i v : Nat) (g : Field) (j : Nat) : lv (wr s f i v) g j = lv s g j := rfl

/-! ### `setLive` -/

@[simp] theorem setLive_regs (s : State) (f : Field) (i v : Nat) : (setLive s f i v).regs = s.regs := rfl
@[simp] theorem setLive_live (s : State) (f : Field) (i v : Nat) : (setLive s f i v).live = fieldSet s.live f i v := rfl
@[simp] theorem setLive_mem (s : State) (f : Field) (i v : Nat) : (setLive s f i v).mem = s.mem := rfl
@[simp] theorem setLive_time (s : State) (f : Field) (i v : Nat) : (setLive s f i v).time = s.time := rfl
@[simp] theorem setLive_net (s : State) (f : Field) (i v : Nat) : (setLive s f i v).net = s.net := rfl
@[simp] theorem setLive_modes (s : State) (f : Field) (i v : Nat) : (setLive s f i v).modes = s.modes := rfl
@[simp] theorem setLive_afe (s : State) (f : Field) (i v : Nat) : (setLive s f i v).afe = s.afe := rfl
@[simp] theorem setLive_bbl (s : State) (f : Field) (i v : Nat) : (setLive s f i v).bbl = s.bbl := rfl
@[simp] theorem setLive_cnv (s : State) (f : Field) (i v : Nat) : (setLive s f i v).cnv = s.cnv := rfl
@[simp] theorem setLive_chz (s : State) (f : Field) (i v : Nat) : (setLive s f i v).chz = s.chz := rfl
@[simp] theorem setLive_trg (s : State) (f : Field) (i v : Nat) : (setLive s f i v).trg = s.trg := rfl
@[simp] theorem setLive_evt (s : State) (f : Field) (i v : Nat) : (setLive s f i v).evt = s.evt := rfl
@[simp] theorem setLive_cmp (s : State) (f : Field) (i v : Nat) : (setLive s f i v).cmp = s.cmp := rfl
@[simp] theorem setLive_dah (s : State) (f : Field) (i v : Nat) : (setLive s f i v).dah = s.dah := rfl
@[simp] theorem setLive_peer (s : State) (f : Field) (i v : Nat) : (setLive s f i v).peer = s.peer := rfl
@[simp] theorem setLive_conc (s : State) (f : Field) (i v : Nat) : (setLive s f i v).conc = s.conc := rfl
@[simp] theorem setLive_sun (s : State) (f : Field) (i v : Nat) : (setLive s f i v).sun = s.sun := rfl
@[simp] theorem setLive_fst (s : State) (f : Field) (i v : Nat) : (setLive s f i v).fst = s.fst := rfl
@[simp] theorem setLive_mov (s : State) (f : Field) (i v : Nat) : (setLive s f i v).mov = s.mov := rfl
@[simp] theorem setLive_axl (s : State) (f : Field) (i v : Nat) : (setLive s f i v).axl = s.axl := rfl
@[simp] theorem setLive_ctl (s : State) (f : Field) (i v : Nat) : (setLive s f i v).ctl = s.ctl := rfl
@[simp] theorem setLive_pwr (s : State) (f : Field) (i v : Nat) : (setLive s f i v).pwr = s.pwr := rfl
@[simp] theorem setLive_hk (s : State) (f : Field) (i v : Nat) : (setLive s f i v).hk = s.hk := rfl
@[simp] theorem setLive_cal (s : State) (f : Field) (i v : Nat) : (setLive s f i v).cal = s.cal := rfl
@[simp] theorem setLive_aon (s : State) (f : Field) (i v : Nat) : (setLive s f i v).aon = s.aon := rfl
@[simp] theorem setLive_flt (s : State) (f : Field) (i v : Nat) : (setLive s f i v).flt = s.flt := rfl
@[simp] theorem setLive_notes (s : State) (f : Field) (i v : Nat) : (setLive s f i v).notes = s.notes := rfl
@[simp] theorem setLive_out (s : State) (f : Field) (i v : Nat) : (setLive s f i v).out = s.out := rfl
@[simp] theorem setLive_free (s : State) (f : Field) (i v : Nat) : (setLive s f i v).free = s.free := rfl
@[simp] theorem setLive_pending (s : State) (f : Field) (i v : Nat) : (setLive s f i v).pending = s.pending := rfl
@[simp] theorem rd_setLive (s : State) (f : Field) (i v : Nat) (g : Field) (j : Nat) : rd (setLive s f i v) g j = rd s g j := rfl

/-! ### `storeBytes` -/

@[simp] theorem storeBytes_regs (s : State) (x : Nat) (b : Bytes) : (storeBytes s x b).regs = s.regs := rfl
@[simp] theorem storeBytes_live (s : State) (x : Nat) (b : Bytes) : (storeBytes s x b).live = s.live := rfl
@[simp] theorem storeBytes_mem (s : State) (x : Nat) (b : Bytes) : (storeBytes s x b).mem = memWrite s.mem x b := rfl
@[simp] theorem storeBytes_time (s : State) (x : Nat) (b : Bytes) : (storeBytes s x b).time = s.time := rfl
@[simp] theorem storeBytes_net (s : State) (x : Nat) (b : Bytes) : (storeBytes s x b).net = s.net := rfl
@[simp] theorem storeBytes_modes (s : State) (x : Nat) (b : Bytes) : (storeBytes s x b).modes = s.modes := rfl
@[simp] theorem storeBytes_afe (s : State) (x : Nat) (b : Bytes) : (storeBytes s x b).afe = s.afe := rfl
@[simp] theorem storeBytes_bbl (s : State) (x : Nat) (b : Bytes) : (storeBytes s x b).bbl = s.bbl := rfl
@[simp] theorem storeBytes_cnv (s : State) (x : Nat) (b : Bytes) : (storeBytes s x b).cnv = s.cnv := rfl
@[simp] theorem storeBytes_chz (s : State) (x : Nat) (b : Bytes) : (storeBytes s x b).chz = s.chz := rfl
@[simp] theorem storeBytes_trg (s : State) (x : Nat) (b : Bytes) : (storeBytes s x b).trg = s.trg := rfl
@[simp] theorem storeBytes_evt (s : State) (x : Nat) (b : Bytes) : (storeBytes s x b).evt = s.evt := rfl
@[simp] theorem storeBytes_cmp (s : State) (x : Nat) (b : Bytes) : (storeBytes s x b).cmp = s.cmp := rfl
@[simp] theorem storeBytes_dah (s : State) (x : Nat) (b : Bytes) : (storeBytes s x b).dah = s.dah := rfl
@[simp] theorem storeBytes_peer (s : State) (x : Nat) (b : Bytes) : (storeBytes s x b).peer = s.peer := rfl
@[simp] theorem storeBytes_conc (s : State) (x : Nat) (b : Bytes) : (storeBytes s x b).conc = s.conc := rfl
@[simp] theorem storeBytes_sun (s : State) (x : Nat) (b : Bytes) : (storeBytes s x b).sun = s.sun := rfl
@[simp] theorem storeBytes_fst (s : State) (x : Nat) (b : Bytes) : (storeBytes s x b).fst = s.fst := rfl
@[simp] theorem storeBytes_mov (s : State) (x : Nat) (b : Bytes) : (storeBytes s x b).mov = s.mov := rfl
@[simp] theorem storeBytes_axl (s : State) (x : Nat) (b : Bytes) : (storeBytes s x b).axl = s.axl := rfl
@[simp] theorem storeBytes_ctl (s : State) (x : Nat) (b : Bytes) : (storeBytes s x b).ctl = s.ctl := rfl
@[simp] theorem storeBytes_pwr (s : State) (x : Nat) (b : Bytes) : (storeBytes s x b).pwr = s.pwr := rfl
@[simp] theorem storeBytes_hk (s : State) (x : Nat) (b : Bytes) : (storeBytes s x b).hk = s.hk := rfl
@[simp] theorem storeBytes_cal (s : State) (x : Nat) (b : Bytes) : (storeBytes s x b).cal = s.cal := rfl
@[simp] theorem storeBytes_aon (s : State) (x : Nat) (b : Bytes) : (storeBytes s x b).aon = s.aon := rfl
@[simp] theorem storeBytes_flt (s : State) (x : Nat) (b : Bytes) : (storeBytes s x b).flt = s.flt := rfl
@[simp] theorem storeBytes_notes (s : State) (x : Nat) (b : Bytes) : (storeBytes s x b).notes = s.notes := rfl
@[simp] theorem storeBytes_out (s : State) (x : Nat) (b : Bytes) : (storeBytes s x b).out = s.out := rfl
@[simp] theorem storeBytes_free (s : State) (x : Nat) (b : Bytes) : (storeBytes s x b).free = s.free := rfl
@[simp] theorem storeBytes_pending (s : State) (x : Nat) (b : Bytes) : (storeBytes s x b).pending = s.pending := rfl
@[simp] theorem rd_storeBytes (s : State) (x : Nat) (b : Bytes) (g : Field) (j : Nat) : rd (storeBytes s x b) g j = rd s g j := rfl
@[simp] theorem lv_storeBytes (s : State) (x : Nat) (b : Bytes) (g : Field) (j : Nat) : lv (storeBytes s x b) g j = lv s g j := rfl

/-! ### `emit` -/

@[simp] theorem emit_regs (s : State) (o : Out) : (emit s o).regs = s.regs := rfl
@[simp] theorem emit_live (s : State) (o : Out) : (emit s o).live = s.live := rfl
@[simp] theorem emit_mem (s : State) (o : Out) : (emit s o).mem = s.mem := rfl
@[simp] theorem emit_time (s : State) (o : Out) : (emit s o).time = s.time := rfl
@[simp] theorem emit_net (s : State) (o : Out) : (emit s o).net = s.net := rfl
@[simp] theorem emit_modes (s : State) (o : Out) : (emit s o).modes = s.modes := rfl
@[simp] theorem emit_afe (s : State) (o : Out) : (emit s o).afe = s.afe := rfl
@[simp] theorem emit_bbl (s : State) (o : Out) : (emit s o).bbl = s.bbl := rfl
@[simp] theorem emit_cnv (s : State) (o : Out) : (emit s o).cnv = s.cnv := rfl
@[simp] theorem emit_chz (s : State) (o : Out) : (emit s o).chz = s.chz := rfl
@[simp] theorem emit_trg (s : State) (o : Out) : (emit s o).trg = s.trg := rfl
@[simp] theorem emit_evt (s : State) (o : Out) : (emit s o).evt = s.evt := rfl
@[simp] theorem emit_cmp (s : State) (o : Out) : (emit s o).cmp = s.cmp := rfl
@[simp] theorem emit_dah (s : State) (o : Out) : (emit s o).dah = s.dah := rfl
@[simp] theorem emit_peer (s : State) (o : Out) : (emit s o).peer = s.peer := rfl
@[simp] theorem emit_conc (s : State) (o : Out) : (emit s o).conc = s.conc := rfl
@[simp] theorem emit_sun (s : State) (o : Out) : (emit s o).sun = s.sun := rfl
@[simp] theorem emit_fst (s : State) (o : Out) : (emit s o).fst = s.fst := rfl
@[simp] theorem emit_mov (s : State) (o : Out) : (emit s o).mov = s.mov := rfl
@[simp] theorem emit_axl (s : State) (o : Out) : (emit s o).axl = s.axl := rfl
@[simp] theorem emit_ctl (s : State) (o : Out) : (emit s o).ctl = s.ctl := rfl
@[simp] theorem emit_pwr (s : State) (o : Out) : (emit s o).pwr = s.pwr := rfl
@[simp] theorem emit_hk (s : State) (o : Out) : (emit s o).hk = s.hk := rfl
@[simp] theorem emit_cal (s : State) (o : Out) : (emit s o).cal = s.cal := rfl
@[simp] theorem emit_aon (s : State) (o : Out) : (emit s o).aon = s.aon := rfl
@[simp] theorem emit_flt (s : State) (o : Out) : (emit s o).flt = s.flt := rfl
@[simp] theorem emit_notes (s : State) (o : Out) : (emit s o).notes = s.notes := rfl
@[simp] theorem emit_out (s : State) (o : Out) : (emit s o).out = o :: s.out := rfl
@[simp] theorem emit_free (s : State) (o : Out) : (emit s o).free = s.free := rfl
@[simp] theorem emit_pending (s : State) (o : Out) : (emit s o).pending = s.pending := rfl
@[simp] theorem rd_emit (s : State) (o : Out) (g : Field) (j : Nat) : rd (emit s o) g j = rd s g j := rfl
@[simp] theorem lv_emit (s : State) (o : Out) (g : Field) (j : Nat) : lv (emit s o) g j = lv s g j := rfl

/-! ### `setTime` -/

@[simp] theorem setTime_regs (s : State) (f : TimeBase → TimeBase) : (setTime s f).regs = s.regs := rfl
@[simp] theorem setTime_live (s : State) (f : TimeBase → TimeBase) : (setTime s f).live = s.live := rfl
@[simp] theorem setTime_mem (s : State) (f : TimeBase → TimeBase) : (setTime s f).mem = s.mem := rfl
@[simp] theorem setTime_time (s : State) (f : TimeBase → TimeBase) : (setTime s f).time = f s.time := rfl
@[simp] theorem setTime_net (s : State) (f : TimeBase → TimeBase) : (setTime s f).net = s.net := rfl
@[simp] theorem setTime_modes (s : State) (f : TimeBase → TimeBase) : (setTime s f).modes = s.modes := rfl
@[simp] theorem setTime_afe (s : State) (f : TimeBase → TimeBase) : (setTime s f).afe = s.afe := rfl
@[simp] theorem setTime_bbl (s : State) (f : TimeBase → TimeBase) : (setTime s f).bbl = s.bbl := rfl
@[simp] theorem setTime_cnv (s : State) (f : TimeBase → TimeBase) : (setTime s f).cnv = s.cnv := rfl
@[simp] theorem setTime_chz (s : State) (f : TimeBase → TimeBase) : (setTime s f).chz = s.chz := rfl
@[simp] theorem setTime_trg (s : State) (f : TimeBase → TimeBase) : (setTime s f).trg = s.trg := rfl
@[simp] theorem setTime_evt (s : State) (f : TimeBase → TimeBase) : (setTime s f).evt = s.evt := rfl
@[simp] theorem setTime_cmp (s : State) (f : TimeBase → TimeBase) : (setTime s f).cmp = s.cmp := rfl
@[simp] theorem setTime_dah (s : State) (f : TimeBase → TimeBase) : (setTime s f).dah = s.dah := rfl
@[simp] theorem setTime_peer (s : State) (f : TimeBase → TimeBase) : (setTime s f).peer = s.peer := rfl
@[simp] theorem setTime_conc (s : State) (f : TimeBase → TimeBase) : (setTime s f).conc = s.conc := rfl
@[simp] theorem setTime_sun (s : State) (f : TimeBase → TimeBase) : (setTime s f).sun = s.sun := rfl
@[simp] theorem setTime_fst (s : State) (f : TimeBase → TimeBase) : (setTime s f).fst = s.fst := rfl
@[simp] theorem setTime_mov (s : State) (f : TimeBase → TimeBase) : (setTime s f).mov = s.mov := rfl
@[simp] theorem setTime_axl (s : State) (f : TimeBase → TimeBase) : (setTime s f).axl = s.axl := rfl
@[simp] theorem setTime_ctl (s : State) (f : TimeBase → TimeBase) : (setTime s f).ctl = s.ctl := rfl
@[simp] theorem setTime_pwr (s : State) (f : TimeBase → TimeBase) : (setTime s f).pwr = s.pwr := rfl
@[simp] theorem setTime_hk (s : State) (f : TimeBase → TimeBase) : (setTime s f).hk = s.hk := rfl
@[simp] theorem setTime_cal (s : State) (f : TimeBase → TimeBase) : (setTime s f).cal = s.cal := rfl
@[simp] theorem setTime_aon (s : State) (f : TimeBase → TimeBase) : (setTime s f).aon = s.aon := rfl
@[simp] theorem setTime_flt (s : State) (f : TimeBase → TimeBase) : (setTime s f).flt = s.flt := rfl
@[simp] theorem setTime_notes (s : State) (f : TimeBase → TimeBase) : (setTime s f).notes = s.notes := rfl
@[simp] theorem setTime_out (s : State) (f : TimeBase → TimeBase) : (setTime s f).out = s.out := rfl
@[simp] theorem setTime_free (s : State) (f : TimeBase → TimeBase) : (setTime s f).free = s.free := rfl
@[simp] theorem setTime_pending (s : State) (f : TimeBase → TimeBase) : (setTime s f).pending = s.pending := rfl
@[simp] theorem rd_setTime (s : State) (f : TimeBase → TimeBase) (g : Field) (j : Nat) : rd (setTime s f) g j = rd s g j := rfl
@[simp] theorem lv_setTime (s : State) (f : TimeBase → TimeBase) (g : Field) (j : Nat) : lv (setTime s f) g j = lv s g j := rfl

/-! ### `setModes` -/

@[simp] theorem setModes_regs (s : State) (f : Modes → Modes) : (setModes s f).regs = s.regs := rfl
@[simp] theorem setModes_live (s : State) (f : Modes → Modes) : (setModes s f).live = s.live := rfl
@[simp] theorem setModes_mem (s : State) (f : Modes → Modes) : (setModes s f).mem = s.mem := rfl
@[simp] theorem setModes_time (s : State) (f : Modes → Modes) : (setModes s f).time = s.time := rfl
@[simp] theorem setModes_net (s : State) (f : Modes → Modes) : (setModes s f).net = s.net := rfl
@[simp] theorem setModes_modes (s : State) (f : Modes → Modes) : (setModes s f).modes = f s.modes := rfl
@[simp] theorem setModes_afe (s : State) (f : Modes → Modes) : (setModes s f).afe = s.afe := rfl
@[simp] theorem setModes_bbl (s : State) (f : Modes → Modes) : (setModes s f).bbl = s.bbl := rfl
@[simp] theorem setModes_cnv (s : State) (f : Modes → Modes) : (setModes s f).cnv = s.cnv := rfl
@[simp] theorem setModes_chz (s : State) (f : Modes → Modes) : (setModes s f).chz = s.chz := rfl
@[simp] theorem setModes_trg (s : State) (f : Modes → Modes) : (setModes s f).trg = s.trg := rfl
@[simp] theorem setModes_evt (s : State) (f : Modes → Modes) : (setModes s f).evt = s.evt := rfl
@[simp] theorem setModes_cmp (s : State) (f : Modes → Modes) : (setModes s f).cmp = s.cmp := rfl
@[simp] theorem setModes_dah (s : State) (f : Modes → Modes) : (setModes s f).dah = s.dah := rfl
@[simp] theorem setModes_peer (s : State) (f : Modes → Modes) : (setModes s f).peer = s.peer := rfl
@[simp] theorem setModes_conc (s : State) (f : Modes → Modes) : (setModes s f).conc = s.conc := rfl
@[simp] theorem setModes_sun (s : State) (f : Modes → Modes) : (setModes s f).sun = s.sun := rfl
@[simp] theorem setModes_fst (s : State) (f : Modes → Modes) : (setModes s f).fst = s.fst := rfl
@[simp] theorem setModes_mov (s : State) (f : Modes → Modes) : (setModes s f).mov = s.mov := rfl
@[simp] theorem setModes_axl (s : State) (f : Modes → Modes) : (setModes s f).axl = s.axl := rfl
@[simp] theorem setModes_ctl (s : State) (f : Modes → Modes) : (setModes s f).ctl = s.ctl := rfl
@[simp] theorem setModes_pwr (s : State) (f : Modes → Modes) : (setModes s f).pwr = s.pwr := rfl
@[simp] theorem setModes_hk (s : State) (f : Modes → Modes) : (setModes s f).hk = s.hk := rfl
@[simp] theorem setModes_cal (s : State) (f : Modes → Modes) : (setModes s f).cal = s.cal := rfl
@[simp] theorem setModes_aon (s : State) (f : Modes → Modes) : (setModes s f).aon = s.aon := rfl
@[simp] theorem setModes_flt (s : State) (f : Modes → Modes) : (setModes s f).flt = s.flt := rfl
@[simp] theorem setModes_notes (s : State) (f : Modes → Modes) : (setModes s f).notes = s.notes := rfl
@[simp] theorem setModes_out (s : State) (f : Modes → Modes) : (setModes s f).out = s.out := rfl
@[simp] theorem setModes_free (s : State) (f : Modes → Modes) : (setModes s f).free = s.free := rfl
@[simp] theorem setModes_pending (s : State) (f : Modes → Modes) : (setModes s f).pending = s.pending := rfl
@[simp] theorem rd_setModes (s : State) (f : Modes → Modes) (g : Field) (j : Nat) : rd (setModes s f) g j = rd s g j := rfl
@[simp] theorem lv_setModes (s : State) (f : Modes → Modes) (g : Field) (j : Nat) : lv (setModes s f) g j = lv s g j := rfl

/-! ### `setBbl` -/

@[simp] theorem setBbl_regs (s : State) (f : Bluebell → Bluebell) : (setBbl s f).regs = s.regs := rfl
@[simp] theorem setBbl_live (s : State) (f : Bluebell → Bluebell) : (setBbl s f).live = s.live := rfl
@[simp] theorem setBbl_mem (s : State) (f : Bluebell → Bluebell) : (setBbl s f).mem = s.mem := rfl
@[simp] theorem setBbl_time (s : State) (f : Bluebell → Bluebell) : (setBbl s f).time = s.time := rfl
@[simp] theorem setBbl_net (s : State) (f : Bluebell → Bluebell) : (setBbl s f).net = s.net := rfl
@[simp] theorem setBbl_modes (s : State) (f : Bluebell → Bluebell) : (setBbl s f).modes = s.modes := rfl
@[simp] theorem setBbl_afe (s : State) (f : Bluebell → Bluebell) : (setBbl s f).afe = s.afe := rfl
@[simp] theorem setBbl_bbl (s : State) (f : Bluebell → Bluebell) : (setBbl s f).bbl = f s.bbl := rfl
@[simp] theorem setBbl_cnv (s : State) (f : Bluebell → Bluebell) : (setBbl s f).cnv = s.cnv := rfl
@[simp] theorem setBbl_chz (s : State) (f : Bluebell → Bluebell) : (setBbl s f).chz = s.chz := rfl
@[simp] theorem setBbl_trg (s : State) (f : Bluebell → Bluebell) : (setBbl s f).trg = s.trg := rfl
@[simp] theorem setBbl_evt (s : State) (f : Bluebell → Bluebell) : (setBbl s f).evt = s.evt := rfl
@[simp] theorem setBbl_cmp (s : State) (f : Bluebell → Bluebell) : (setBbl s f).cmp = s.cmp := rfl
@[simp] theorem setBbl_dah (s : State) (f : Bluebell → Bluebell) : (setBbl s f).dah = s.dah := rfl
@[simp] theorem setBbl_peer (s : State) (f : Bluebell → Bluebell) : (setBbl s f).peer = s.peer := rfl
@[simp] theorem setBbl_conc (s : State) (f : Bluebell → Bluebell) : (setBbl s f).conc = s.conc := rfl
@[simp] theorem setBbl_sun (s : State) (f : Bluebell → Bluebell) : (setBbl s f).sun = s.sun := rfl
@[simp] theorem setBbl_fst (s : State) (f : Bluebell → Bluebell) : (setBbl s f).fst = s.fst := rfl
@[simp] theorem setBbl_mov (s : State) (f : Bluebell → Bluebell) : (setBbl s f).mov = s.mov := rfl
@[simp] theorem setBbl_axl (s : State) (f : Bluebell → Bluebell) : (setBbl s f).axl = s.axl := rfl
@[simp] theorem setBbl_ctl (s : State) (f : Bluebell → Bluebell) : (setBbl s f).ctl = s.ctl := rfl
@[simp] theorem setBbl_pwr (s : State) (f : Bluebell → Bluebell) : (setBbl s f).pwr = s.pwr := rfl
@[simp] theorem setBbl_hk (s : State) (f : Bluebell → Bluebell) : (setBbl s f).hk = s.hk := rfl
@[simp] theorem setBbl_cal (s : State) (f : Bluebell → Bluebell) : (setBbl s f).cal = s.cal := rfl
@[simp] theorem setBbl_aon (s : State) (f : Bluebell → Bluebell) : (setBbl s f).aon = s.aon := rfl
@[simp] theorem setBbl_flt (s : State) (f : Bluebell → Bluebell) : (setBbl s f).flt = s.flt := rfl
@[simp] theorem setBbl_notes (s : State) (f : Bluebell → Bluebell) : (setBbl s f).notes = s.notes := rfl
@[simp] theorem setBbl_out (s : State) (f : Bluebell → Bluebell) : (setBbl s f).out = s.out := rfl
@[simp] theorem setBbl_free (s : State) (f : Bluebell → Bluebell) : (setBbl s f).free = s.free := rfl
@[simp] theorem setBbl_pending (s : State) (f : Bluebell → Bluebell) : (setBbl s f).pending = s.pending := rfl
@[simp] theorem rd_setBbl (s : State) (f : Bluebell → Bluebell) (g : Field) (j : Nat) : rd (setBbl s f) g j = rd s g j := rfl
@[simp] theorem lv_setBbl (s : State) (f : Bluebell → Bluebell) (g : Field) (j : Nat) : lv (setBbl s f) g j = lv s g j := rfl

/-! ### `setCnv` -/

@[simp] theorem setCnv_regs (s : State) (f : Converters → Converters) : (setCnv s f).regs = s.regs := rfl
@[simp] theorem setCnv_live (s : State) (f : Converters → Converters) : (setCnv s f).live = s.live := rfl
@[simp] theorem setCnv_mem (s : State) (f : Converters → Converters) : (setCnv s f).mem = s.mem := rfl
@[simp] theorem setCnv_time (s : State) (f : Converters → Converters) : (setCnv s f).time = s.time := rfl
@[simp] theorem setCnv_net (s : State) (f : Converters → Converters) : (setCnv s f).net = s.net := rfl
@[simp] theorem setCnv_modes (s : State) (f : Converters → Converters) : (setCnv s f).modes = s.modes := rfl
@[simp] theorem setCnv_afe (s : State) (f : Converters → Converters) : (setCnv s f).afe = s.afe := rfl
@[simp] theorem setCnv_bbl (s : State) (f : Converters → Converters) : (setCnv s f).bbl = s.bbl := rfl
@[simp] theorem setCnv_cnv (s : State) (f : Converters → Converters) : (setCnv s f).cnv = f s.cnv := rfl
@[simp] theorem setCnv_chz (s : State) (f : Converters → Converters) : (setCnv s f).chz = s.chz := rfl
@[simp] theorem setCnv_trg (s : State) (f : Converters → Converters) : (setCnv s f).trg = s.trg := rfl
@[simp] theorem setCnv_evt (s : State) (f : Converters → Converters) : (setCnv s f).evt = s.evt := rfl
@[simp] theorem setCnv_cmp (s : State) (f : Converters → Converters) : (setCnv s f).cmp = s.cmp := rfl
@[simp] theorem setCnv_dah (s : State) (f : Converters → Converters) : (setCnv s f).dah = s.dah := rfl
@[simp] theorem setCnv_peer (s : State) (f : Converters → Converters) : (setCnv s f).peer = s.peer := rfl
@[simp] theorem setCnv_conc (s : State) (f : Converters → Converters) : (setCnv s f).conc = s.conc := rfl
@[simp] theorem setCnv_sun (s : State) (f : Converters → Converters) : (setCnv s f).sun = s.sun := rfl
@[simp] theorem setCnv_fst (s : State) (f : Converters → Converters) : (setCnv s f).fst = s.fst := rfl
@[simp] theorem setCnv_mov (s : State) (f : Converters → Converters) : (setCnv s f).mov = s.mov := rfl
@[simp] theorem setCnv_axl (s : State) (f : Converters → Converters) : (setCnv s f).axl = s.axl := rfl
@[simp] theorem setCnv_ctl (s : State) (f : Converters → Converters) : (setCnv s f).ctl = s.ctl := rfl
@[simp] theorem setCnv_pwr (s : State) (f : Converters → Converters) : (setCnv s f).pwr = s.pwr := rfl
@[simp] theorem setCnv_hk (s : State) (f : Converters → Converters) : (setCnv s f).hk = s.hk := rfl
@[simp] theorem setCnv_cal (s : State) (f : Converters → Converters) : (setCnv s f).cal = s.cal := rfl
@[simp] theorem setCnv_aon (s : State) (f : Converters → Converters) : (setCnv s f).aon = s.aon := rfl
@[simp] theorem setCnv_flt (s : State) (f : Converters → Converters) : (setCnv s f).flt = s.flt := rfl
@[simp] theorem setCnv_notes (s : State) (f : Converters → Converters) : (setCnv s f).notes = s.notes := rfl
@[simp] theorem setCnv_out (s : State) (f : Converters → Converters) : (setCnv s f).out = s.out := rfl
@[simp] theorem setCnv_free (s : State) (f : Converters → Converters) : (setCnv s f).free = s.free := rfl
@[simp] theorem setCnv_pending (s : State) (f : Converters → Converters) : (setCnv s f).pending = s.pending := rfl
@[simp] theorem rd_setCnv (s : State) (f : Converters → Converters) (g : Field) (j : Nat) : rd (setCnv s f) g j = rd s g j := rfl
@[simp] theorem lv_setCnv (s : State) (f : Converters → Converters) (g : Field) (j : Nat) : lv (setCnv s f) g j = lv s g j := rfl

/-! ### `setChz` -/

@[simp] theorem setChz_regs (s : State) (f : Channelizer → Channelizer) : (setChz s f).regs = s.regs := rfl
@[simp] theorem setChz_live (s : State) (f : Channelizer → Channelizer) : (setChz s f).live = s.live := rfl
@[simp] theorem setChz_mem (s : State) (f : Channelizer → Channelizer) : (setChz s f).mem = s.mem := rfl
@[simp] theorem setChz_time (s : State) (f : Channelizer → Channelizer) : (setChz s f).time = s.time := rfl
@[simp] theorem setChz_net (s : State) (f : Channelizer → Channelizer) : (setChz s f).net = s.net := rfl
@[simp] theorem setChz_modes (s : State) (f : Channelizer → Channelizer) : (setChz s f).modes = s.modes := rfl
@[simp] theorem setChz_afe (s : State) (f : Channelizer → Channelizer) : (setChz s f).afe = s.afe := rfl
@[simp] theorem setChz_bbl (s : State) (f : Channelizer → Channelizer) : (setChz s f).bbl = s.bbl := rfl
@[simp] theorem setChz_cnv (s : State) (f : Channelizer → Channelizer) : (setChz s f).cnv = s.cnv := rfl
@[simp] theorem setChz_chz (s : State) (f : Channelizer → Channelizer) : (setChz s f).chz = f s.chz := rfl
@[simp] theorem setChz_trg (s : State) (f : Channelizer → Channelizer) : (setChz s f).trg = s.trg := rfl
@[simp] theorem setChz_evt (s : State) (f : Channelizer → Channelizer) : (setChz s f).evt = s.evt := rfl
@[simp] theorem setChz_cmp (s : State) (f : Channelizer → Channelizer) : (setChz s f).cmp = s.cmp := rfl
@[simp] theorem setChz_dah (s : State) (f : Channelizer → Channelizer) : (setChz s f).dah = s.dah := rfl
@[simp] theorem setChz_peer (s : State) (f : Channelizer → Channelizer) : (setChz s f).peer = s.peer := rfl
@[simp] theorem setChz_conc (s : State) (f : Channelizer → Channelizer) : (setChz s f).conc = s.conc := rfl
@[simp] theorem setChz_sun (s : State) (f : Channelizer → Channelizer) : (setChz s f).sun = s.sun := rfl
@[simp] theorem setChz_fst (s : State) (f : Channelizer → Channelizer) : (setChz s f).fst = s.fst := rfl
@[simp] theorem setChz_mov (s : State) (f : Channelizer → Channelizer) : (setChz s f).mov = s.mov := rfl
@[simp] theorem setChz_axl (s : State) (f : Channelizer → Channelizer) : (setChz s f).axl = s.axl := rfl
@[simp] theorem setChz_ctl (s : State) (f : Channelizer → Channelizer) : (setChz s f).ctl = s.ctl := rfl
@[simp] theorem setChz_pwr (s : State) (f : Channelizer → Channelizer) : (setChz s f).pwr = s.pwr := rfl
@[simp] theorem setChz_hk (s : State) (f : Channelizer → Channelizer) : (setChz s f).hk = s.hk := rfl
@[simp] theorem setChz_cal (s : State) (f : Channelizer → Channelizer) : (setChz s f).cal = s.cal := rfl
@[simp] theorem setChz_aon (s : State) (f : Channelizer → Channelizer) : (setChz s f).aon = s.aon := rfl
@[simp] theorem setChz_flt (s : State) (f : Channelizer → Channelizer) : (setChz s f).flt = s.flt := rfl
@[simp] theorem setChz_notes (s : State) (f : Channelizer → Channelizer) : (setChz s f).notes = s.notes := rfl
@[simp] theorem setChz_out (s : State) (f : Channelizer → Channelizer) : (setChz s f).out = s.out := rfl
@[simp] theorem setChz_free (s : State) (f : Channelizer → Channelizer) : (setChz s f).free = s.free := rfl
@[simp] theorem setChz_pending (s : State) (f : Channelizer → Channelizer) : (setChz s f).pending = s.pending := rfl
@[simp] theorem rd_setChz (s : State) (f : Channelizer → Channelizer) (g : Field) (j : Nat) : rd (setChz s f) g j = rd s g j := rfl
@[simp] theorem lv_setChz (s : State) (f : Channelizer → Channelizer) (g : Field) (j : Nat) : lv (setChz s f) g j = lv s g j := rfl

/-! ### `setTrg` -/

@[simp] theorem setTrg_regs (s : State) (f : Trigger → Trigger) : (setTrg s f).regs = s.regs := rfl
@[simp] theorem setTrg_live (s : State) (f : Trigger → Trigger) : (setTrg s f).live = s.live := rfl
@[simp] theorem setTrg_mem (s : State) (f : Trigger → Trigger) : (setTrg s f).mem = s.mem := rfl
@[simp] theorem setTrg_time (s : State) (f : Trigger → Trigger) : (setTrg s f).time = s.time := rfl
@[simp] theorem setTrg_net (s : State) (f : Trigger → Trigger) : (setTrg s f).net = s.net := rfl
@[simp] theorem setTrg_modes (s : State) (f : Trigger → Trigger) : (setTrg s f).modes = s.modes := rfl
@[simp] theorem setTrg_afe (s : State) (f : Trigger → Trigger) : (setTrg s f).afe = s.afe := rfl
@[simp] theorem setTrg_bbl (s : State) (f : Trigger → Trigger) : (setTrg s f).bbl = s.bbl := rfl
@[simp] theorem setTrg_cnv (s : State) (f : Trigger → Trigger) : (setTrg s f).cnv = s.cnv := rfl
@[simp] theorem setTrg_chz (s : State) (f : Trigger → Trigger) : (setTrg s f).chz = s.chz := rfl
@[simp] theorem setTrg_trg (s : State) (f : Trigger → Trigger) : (setTrg s f).trg = f s.trg := rfl
@[simp] theorem setTrg_evt (s : State) (f : Trigger → Trigger) : (setTrg s f).evt = s.evt := rfl
@[simp] theorem setTrg_cmp (s : State) (f : Trigger → Trigger) : (setTrg s f).cmp = s.cmp := rfl
@[simp] theorem setTrg_dah (s : State) (f : Trigger → Trigger) : (setTrg s f).dah = s.dah := rfl
@[simp] theorem setTrg_peer (s : State) (f : Trigger → Trigger) : (setTrg s f).peer = s.peer := rfl
@[simp] theorem setTrg_conc (s : State) (f : Trigger → Trigger) : (setTrg s f).conc = s.conc := rfl
@[simp] theorem setTrg_sun (s : State) (f : Trigger → Trigger) : (setTrg s f).sun = s.sun := rfl
@[simp] theorem setTrg_fst (s : State) (f : Trigger → Trigger) : (setTrg s f).fst = s.fst := rfl
@[simp] theorem setTrg_mov (s : State) (f : Trigger → Trigger) : (setTrg s f).mov = s.mov := rfl
@[simp] theorem setTrg_axl (s : State) (f : Trigger → Trigger) : (setTrg s f).axl = s.axl := rfl
@[simp] theorem setTrg_ctl (s : State) (f : Trigger → Trigger) : (setTrg s f).ctl = s.ctl := rfl
@[simp] theorem setTrg_pwr (s : State) (f : Trigger → Trigger) : (setTrg s f).pwr = s.pwr := rfl
@[simp] theorem setTrg_hk (s : State) (f : Trigger → Trigger) : (setTrg s f).hk = s.hk := rfl
@[simp] theorem setTrg_cal (s : State) (f : Trigger → Trigger) : (setTrg s f).cal = s.cal := rfl
@[simp] theorem setTrg_aon (s : State) (f : Trigger → Trigger) : (setTrg s f).aon = s.aon := rfl
@[simp] theorem setTrg_flt (s : State) (f : Trigger → Trigger) : (setTrg s f).flt = s.flt := rfl
@[simp] theorem setTrg_notes (s : State) (f : Trigger → Trigger) : (setTrg s f).notes = s.notes := rfl
@[simp] theorem setTrg_out (s : State) (f : Trigger → Trigger) : (setTrg s f).out = s.out := rfl
@[simp] theorem setTrg_free (s : State) (f : Trigger → Trigger) : (setTrg s f).free = s.free := rfl
@[simp] theorem setTrg_pending (s : State) (f : Trigger → Trigger) : (setTrg s f).pending = s.pending := rfl
@[simp] theorem rd_setTrg (s : State) (f : Trigger → Trigger) (g : Field) (j : Nat) : rd (setTrg s f) g j = rd s g j := rfl
@[simp] theorem lv_setTrg (s : State) (f : Trigger → Trigger) (g : Field) (j : Nat) : lv (setTrg s f) g j = lv s g j := rfl

/-! ### `setEvt` -/

@[simp] theorem setEvt_regs (s : State) (f : EventStage → EventStage) : (setEvt s f).regs = s.regs := rfl
@[simp] theorem setEvt_live (s : State) (f : EventStage → EventStage) : (setEvt s f).live = s.live := rfl
@[simp] theorem setEvt_mem (s : State) (f : EventStage → EventStage) : (setEvt s f).mem = s.mem := rfl
@[simp] theorem setEvt_time (s : State) (f : EventStage → EventStage) : (setEvt s f).time = s.time := rfl
@[simp] theorem setEvt_net (s : State) (f : EventStage → EventStage) : (setEvt s f).net = s.net := rfl
@[simp] theorem setEvt_modes (s : State) (f : EventStage → EventStage) : (setEvt s f).modes = s.modes := rfl
@[simp] theorem setEvt_afe (s : State) (f : EventStage → EventStage) : (setEvt s f).afe = s.afe := rfl
@[simp] theorem setEvt_bbl (s : State) (f : EventStage → EventStage) : (setEvt s f).bbl = s.bbl := rfl
@[simp] theorem setEvt_cnv (s : State) (f : EventStage → EventStage) : (setEvt s f).cnv = s.cnv := rfl
@[simp] theorem setEvt_chz (s : State) (f : EventStage → EventStage) : (setEvt s f).chz = s.chz := rfl
@[simp] theorem setEvt_trg (s : State) (f : EventStage → EventStage) : (setEvt s f).trg = s.trg := rfl
@[simp] theorem setEvt_evt (s : State) (f : EventStage → EventStage) : (setEvt s f).evt = f s.evt := rfl
@[simp] theorem setEvt_cmp (s : State) (f : EventStage → EventStage) : (setEvt s f).cmp = s.cmp := rfl
@[simp] theorem setEvt_dah (s : State) (f : EventStage → EventStage) : (setEvt s f).dah = s.dah := rfl
@[simp] theorem setEvt_peer (s : State) (f : EventStage → EventStage) : (setEvt s f).peer = s.peer := rfl
@[simp] theorem setEvt_conc (s : State) (f : EventStage → EventStage) : (setEvt s f).conc = s.conc := rfl
@[simp] theorem setEvt_sun (s : State) (f : EventStage → EventStage) : (setEvt s f).sun = s.sun := rfl
@[simp] theorem setEvt_fst (s : State) (f : EventStage → EventStage) : (setEvt s f).fst = s.fst := rfl
@[simp] theorem setEvt_mov (s : State) (f : EventStage → EventStage) : (setEvt s f).mov = s.mov := rfl
@[simp] theorem setEvt_axl (s : State) (f : EventStage → EventStage) : (setEvt s f).axl = s.axl := rfl
@[simp] theorem setEvt_ctl (s : State) (f : EventStage → EventStage) : (setEvt s f).ctl = s.ctl := rfl
@[simp] theorem setEvt_pwr (s : State) (f : EventStage → EventStage) : (setEvt s f).pwr = s.pwr := rfl
@[simp] theorem setEvt_hk (s : State) (f : EventStage → EventStage) : (setEvt s f).hk = s.hk := rfl
@[simp] theorem setEvt_cal (s : State) (f : EventStage → EventStage) : (setEvt s f).cal = s.cal := rfl
@[simp] theorem setEvt_aon (s : State) (f : EventStage → EventStage) : (setEvt s f).aon = s.aon := rfl
@[simp] theorem setEvt_flt (s : State) (f : EventStage → EventStage) : (setEvt s f).flt = s.flt := rfl
@[simp] theorem setEvt_notes (s : State) (f : EventStage → EventStage) : (setEvt s f).notes = s.notes := rfl
@[simp] theorem setEvt_out (s : State) (f : EventStage → EventStage) : (setEvt s f).out = s.out := rfl
@[simp] theorem setEvt_free (s : State) (f : EventStage → EventStage) : (setEvt s f).free = s.free := rfl
@[simp] theorem setEvt_pending (s : State) (f : EventStage → EventStage) : (setEvt s f).pending = s.pending := rfl
@[simp] theorem rd_setEvt (s : State) (f : EventStage → EventStage) (g : Field) (j : Nat) : rd (setEvt s f) g j = rd s g j := rfl
@[simp] theorem lv_setEvt (s : State) (f : EventStage → EventStage) (g : Field) (j : Nat) : lv (setEvt s f) g j = lv s g j := rfl

/-! ### `setCmp` -/

@[simp] theorem setCmp_regs (s : State) (f : Compression → Compression) : (setCmp s f).regs = s.regs := rfl
@[simp] theorem setCmp_live (s : State) (f : Compression → Compression) : (setCmp s f).live = s.live := rfl
@[simp] theorem setCmp_mem (s : State) (f : Compression → Compression) : (setCmp s f).mem = s.mem := rfl
@[simp] theorem setCmp_time (s : State) (f : Compression → Compression) : (setCmp s f).time = s.time := rfl
@[simp] theorem setCmp_net (s : State) (f : Compression → Compression) : (setCmp s f).net = s.net := rfl
@[simp] theorem setCmp_modes (s : State) (f : Compression → Compression) : (setCmp s f).modes = s.modes := rfl
@[simp] theorem setCmp_afe (s : State) (f : Compression → Compression) : (setCmp s f).afe = s.afe := rfl
@[simp] theorem setCmp_bbl (s : State) (f : Compression → Compression) : (setCmp s f).bbl = s.bbl := rfl
@[simp] theorem setCmp_cnv (s : State) (f : Compression → Compression) : (setCmp s f).cnv = s.cnv := rfl
@[simp] theorem setCmp_chz (s : State) (f : Compression → Compression) : (setCmp s f).chz = s.chz := rfl
@[simp] theorem setCmp_trg (s : State) (f : Compression → Compression) : (setCmp s f).trg = s.trg := rfl
@[simp] theorem setCmp_evt (s : State) (f : Compression → Compression) : (setCmp s f).evt = s.evt := rfl
@[simp] theorem setCmp_cmp (s : State) (f : Compression → Compression) : (setCmp s f).cmp = f s.cmp := rfl
@[simp] theorem setCmp_dah (s : State) (f : Compression → Compression) : (setCmp s f).dah = s.dah := rfl
@[simp] theorem setCmp_peer (s : State) (f : Compression → Compression) : (setCmp s f).peer = s.peer := rfl
@[simp] theorem setCmp_conc (s : State) (f : Compression → Compression) : (setCmp s f).conc = s.conc := rfl
@[simp] theorem setCmp_sun (s : State) (f : Compression → Compression) : (setCmp s f).sun = s.sun := rfl
@[simp] theorem setCmp_fst (s : State) (f : Compression → Compression) : (setCmp s f).fst = s.fst := rfl
@[simp] theorem setCmp_mov (s : State) (f : Compression → Compression) : (setCmp s f).mov = s.mov := rfl
@[simp] theorem setCmp_axl (s : State) (f : Compression → Compression) : (setCmp s f).axl = s.axl := rfl
@[simp] theorem setCmp_ctl (s : State) (f : Compression → Compression) : (setCmp s f).ctl = s.ctl := rfl
@[simp] theorem setCmp_pwr (s : State) (f : Compression → Compression) : (setCmp s f).pwr = s.pwr := rfl
@[simp] theorem setCmp_hk (s : State) (f : Compression → Compression) : (setCmp s f).hk = s.hk := rfl
@[simp] theorem setCmp_cal (s : State) (f : Compression → Compression) : (setCmp s f).cal = s.cal := rfl
@[simp] theorem setCmp_aon (s : State) (f : Compression → Compression) : (setCmp s f).aon = s.aon := rfl
@[simp] theorem setCmp_flt (s : State) (f : Compression → Compression) : (setCmp s f).flt = s.flt := rfl
@[simp] theorem setCmp_notes (s : State) (f : Compression → Compression) : (setCmp s f).notes = s.notes := rfl
@[simp] theorem setCmp_out (s : State) (f : Compression → Compression) : (setCmp s f).out = s.out := rfl
@[simp] theorem setCmp_free (s : State) (f : Compression → Compression) : (setCmp s f).free = s.free := rfl
@[simp] theorem setCmp_pending (s : State) (f : Compression → Compression) : (setCmp s f).pending = s.pending := rfl
@[simp] theorem rd_setCmp (s : State) (f : Compression → Compression) (g : Field) (j : Nat) : rd (setCmp s f) g j = rd s g j := rfl
@[simp] theorem lv_setCmp (s : State) (f : Compression → Compression) (g : Field) (j : Nat) : lv (setCmp s f) g j = lv s g j := rfl

/-! ### `setDah` -/

@[simp] theorem setDah_regs (s : State) (f : DahliaState → DahliaState) : (setDah s f).regs = s.regs := rfl
@[simp] theorem setDah_live (s : State) (f : DahliaState → DahliaState) : (setDah s f).live = s.live := rfl
@[simp] theorem setDah_mem (s : State) (f : DahliaState → DahliaState) : (setDah s f).mem = s.mem := rfl
@[simp] theorem setDah_time (s : State) (f : DahliaState → DahliaState) : (setDah s f).time = s.time := rfl
@[simp] theorem setDah_net (s : State) (f : DahliaState → DahliaState) : (setDah s f).net = s.net := rfl
@[simp] theorem setDah_modes (s : State) (f : DahliaState → DahliaState) : (setDah s f).modes = s.modes := rfl
@[simp] theorem setDah_afe (s : State) (f : DahliaState → DahliaState) : (setDah s f).afe = s.afe := rfl
@[simp] theorem setDah_bbl (s : State) (f : DahliaState → DahliaState) : (setDah s f).bbl = s.bbl := rfl
@[simp] theorem setDah_cnv (s : State) (f : DahliaState → DahliaState) : (setDah s f).cnv = s.cnv := rfl
@[simp] theorem setDah_chz (s : State) (f : DahliaState → DahliaState) : (setDah s f).chz = s.chz := rfl
@[simp] theorem setDah_trg (s : State) (f : DahliaState → DahliaState) : (setDah s f).trg = s.trg := rfl
@[simp] theorem setDah_evt (s : State) (f : DahliaState → DahliaState) : (setDah s f).evt = s.evt := rfl
@[simp] theorem setDah_cmp (s : State) (f : DahliaState → DahliaState) : (setDah s f).cmp = s.cmp := rfl
@[simp] theorem setDah_dah (s : State) (f : DahliaState → DahliaState) : (setDah s f).dah = f s.dah := rfl
@[simp] theorem setDah_peer (s : State) (f : DahliaState → DahliaState) : (setDah s f).peer = s.peer := rfl
@[simp] theorem setDah_conc (s : State) (f : DahliaState → DahliaState) : (setDah s f).conc = s.conc := rfl
@[simp] theorem setDah_sun (s : State) (f : DahliaState → DahliaState) : (setDah s f).sun = s.sun := rfl
@[simp] theorem setDah_fst (s : State) (f : DahliaState → DahliaState) : (setDah s f).fst = s.fst := rfl
@[simp] theorem setDah_mov (s : State) (f : DahliaState → DahliaState) : (setDah s f).mov = s.mov := rfl
@[simp] theorem setDah_axl (s : State) (f : DahliaState → DahliaState) : (setDah s f).axl = s.axl := rfl
@[simp] theorem setDah_ctl (s : State) (f : DahliaState → DahliaState) : (setDah s f).ctl = s.ctl := rfl
@[simp] theorem setDah_pwr (s : State) (f : DahliaState → DahliaState) : (setDah s f).pwr = s.pwr := rfl
@[simp] theorem setDah_hk (s : State) (f : DahliaState → DahliaState) : (setDah s f).hk = s.hk := rfl
@[simp] theorem setDah_cal (s : State) (f : DahliaState → DahliaState) : (setDah s f).cal = s.cal := rfl
@[simp] theorem setDah_aon (s : State) (f : DahliaState → DahliaState) : (setDah s f).aon = s.aon := rfl
@[simp] theorem setDah_flt (s : State) (f : DahliaState → DahliaState) : (setDah s f).flt = s.flt := rfl
@[simp] theorem setDah_notes (s : State) (f : DahliaState → DahliaState) : (setDah s f).notes = s.notes := rfl
@[simp] theorem setDah_out (s : State) (f : DahliaState → DahliaState) : (setDah s f).out = s.out := rfl
@[simp] theorem setDah_free (s : State) (f : DahliaState → DahliaState) : (setDah s f).free = s.free := rfl
@[simp] theorem setDah_pending (s : State) (f : DahliaState → DahliaState) : (setDah s f).pending = s.pending := rfl
@[simp] theorem rd_setDah (s : State) (f : DahliaState → DahliaState) (g : Field) (j : Nat) : rd (setDah s f) g j = rd s g j := rfl
@[simp] theorem lv_setDah (s : State) (f : DahliaState → DahliaState) (g : Field) (j : Nat) : lv (setDah s f) g j = lv s g j := rfl

/-! ### `setPeer` -/

@[simp] theorem setPeer_regs (s : State) (f : PeerState → PeerState) : (setPeer s f).regs = s.regs := rfl
@[simp] theorem setPeer_live (s : State) (f : PeerState → PeerState) : (setPeer s f).live = s.live := rfl
@[simp] theorem setPeer_mem (s : State) (f : PeerState → PeerState) : (setPeer s f).mem = s.mem := rfl
@[simp] theorem setPeer_time (s : State) (f : PeerState → PeerState) : (setPeer s f).time = s.time := rfl
@[simp] theorem setPeer_net (s : State) (f : PeerState → PeerState) : (setPeer s f).net = s.net := rfl
@[simp] theorem setPeer_modes (s : State) (f : PeerState → PeerState) : (setPeer s f).modes = s.modes := rfl
@[simp] theorem setPeer_afe (s : State) (f : PeerState → PeerState) : (setPeer s f).afe = s.afe := rfl
@[simp] theorem setPeer_bbl (s : State) (f : PeerState → PeerState) : (setPeer s f).bbl = s.bbl := rfl
@[simp] theorem setPeer_cnv (s : State) (f : PeerState → PeerState) : (setPeer s f).cnv = s.cnv := rfl
@[simp] theorem setPeer_chz (s : State) (f : PeerState → PeerState) : (setPeer s f).chz = s.chz := rfl
@[simp] theorem setPeer_trg (s : State) (f : PeerState → PeerState) : (setPeer s f).trg = s.trg := rfl
@[simp] theorem setPeer_evt (s : State) (f : PeerState → PeerState) : (setPeer s f).evt = s.evt := rfl
@[simp] theorem setPeer_cmp (s : State) (f : PeerState → PeerState) : (setPeer s f).cmp = s.cmp := rfl
@[simp] theorem setPeer_dah (s : State) (f : PeerState → PeerState) : (setPeer s f).dah = s.dah := rfl
@[simp] theorem setPeer_peer (s : State) (f : PeerState → PeerState) : (setPeer s f).peer = f s.peer := rfl
@[simp] theorem setPeer_conc (s : State) (f : PeerState → PeerState) : (setPeer s f).conc = s.conc := rfl
@[simp] theorem setPeer_sun (s : State) (f : PeerState → PeerState) : (setPeer s f).sun = s.sun := rfl
@[simp] theorem setPeer_fst (s : State) (f : PeerState → PeerState) : (setPeer s f).fst = s.fst := rfl
@[simp] theorem setPeer_mov (s : State) (f : PeerState → PeerState) : (setPeer s f).mov = s.mov := rfl
@[simp] theorem setPeer_axl (s : State) (f : PeerState → PeerState) : (setPeer s f).axl = s.axl := rfl
@[simp] theorem setPeer_ctl (s : State) (f : PeerState → PeerState) : (setPeer s f).ctl = s.ctl := rfl
@[simp] theorem setPeer_pwr (s : State) (f : PeerState → PeerState) : (setPeer s f).pwr = s.pwr := rfl
@[simp] theorem setPeer_hk (s : State) (f : PeerState → PeerState) : (setPeer s f).hk = s.hk := rfl
@[simp] theorem setPeer_cal (s : State) (f : PeerState → PeerState) : (setPeer s f).cal = s.cal := rfl
@[simp] theorem setPeer_aon (s : State) (f : PeerState → PeerState) : (setPeer s f).aon = s.aon := rfl
@[simp] theorem setPeer_flt (s : State) (f : PeerState → PeerState) : (setPeer s f).flt = s.flt := rfl
@[simp] theorem setPeer_notes (s : State) (f : PeerState → PeerState) : (setPeer s f).notes = s.notes := rfl
@[simp] theorem setPeer_out (s : State) (f : PeerState → PeerState) : (setPeer s f).out = s.out := rfl
@[simp] theorem setPeer_free (s : State) (f : PeerState → PeerState) : (setPeer s f).free = s.free := rfl
@[simp] theorem setPeer_pending (s : State) (f : PeerState → PeerState) : (setPeer s f).pending = s.pending := rfl
@[simp] theorem rd_setPeer (s : State) (f : PeerState → PeerState) (g : Field) (j : Nat) : rd (setPeer s f) g j = rd s g j := rfl
@[simp] theorem lv_setPeer (s : State) (f : PeerState → PeerState) (g : Field) (j : Nat) : lv (setPeer s f) g j = lv s g j := rfl

/-! ### `setConc` -/

@[simp] theorem setConc_regs (s : State) (f : Concentrator → Concentrator) : (setConc s f).regs = s.regs := rfl
@[simp] theorem setConc_live (s : State) (f : Concentrator → Concentrator) : (setConc s f).live = s.live := rfl
@[simp] theorem setConc_mem (s : State) (f : Concentrator → Concentrator) : (setConc s f).mem = s.mem := rfl
@[simp] theorem setConc_time (s : State) (f : Concentrator → Concentrator) : (setConc s f).time = s.time := rfl
@[simp] theorem setConc_net (s : State) (f : Concentrator → Concentrator) : (setConc s f).net = s.net := rfl
@[simp] theorem setConc_modes (s : State) (f : Concentrator → Concentrator) : (setConc s f).modes = s.modes := rfl
@[simp] theorem setConc_afe (s : State) (f : Concentrator → Concentrator) : (setConc s f).afe = s.afe := rfl
@[simp] theorem setConc_bbl (s : State) (f : Concentrator → Concentrator) : (setConc s f).bbl = s.bbl := rfl
@[simp] theorem setConc_cnv (s : State) (f : Concentrator → Concentrator) : (setConc s f).cnv = s.cnv := rfl
@[simp] theorem setConc_chz (s : State) (f : Concentrator → Concentrator) : (setConc s f).chz = s.chz := rfl
@[simp] theorem setConc_trg (s : State) (f : Concentrator → Concentrator) : (setConc s f).trg = s.trg := rfl
@[simp] theorem setConc_evt (s : State) (f : Concentrator → Concentrator) : (setConc s f).evt = s.evt := rfl
@[simp] theorem setConc_cmp (s : State) (f : Concentrator → Concentrator) : (setConc s f).cmp = s.cmp := rfl
@[simp] theorem setConc_dah (s : State) (f : Concentrator → Concentrator) : (setConc s f).dah = s.dah := rfl
@[simp] theorem setConc_peer (s : State) (f : Concentrator → Concentrator) : (setConc s f).peer = s.peer := rfl
@[simp] theorem setConc_conc (s : State) (f : Concentrator → Concentrator) : (setConc s f).conc = f s.conc := rfl
@[simp] theorem setConc_sun (s : State) (f : Concentrator → Concentrator) : (setConc s f).sun = s.sun := rfl
@[simp] theorem setConc_fst (s : State) (f : Concentrator → Concentrator) : (setConc s f).fst = s.fst := rfl
@[simp] theorem setConc_mov (s : State) (f : Concentrator → Concentrator) : (setConc s f).mov = s.mov := rfl
@[simp] theorem setConc_axl (s : State) (f : Concentrator → Concentrator) : (setConc s f).axl = s.axl := rfl
@[simp] theorem setConc_ctl (s : State) (f : Concentrator → Concentrator) : (setConc s f).ctl = s.ctl := rfl
@[simp] theorem setConc_pwr (s : State) (f : Concentrator → Concentrator) : (setConc s f).pwr = s.pwr := rfl
@[simp] theorem setConc_hk (s : State) (f : Concentrator → Concentrator) : (setConc s f).hk = s.hk := rfl
@[simp] theorem setConc_cal (s : State) (f : Concentrator → Concentrator) : (setConc s f).cal = s.cal := rfl
@[simp] theorem setConc_aon (s : State) (f : Concentrator → Concentrator) : (setConc s f).aon = s.aon := rfl
@[simp] theorem setConc_flt (s : State) (f : Concentrator → Concentrator) : (setConc s f).flt = s.flt := rfl
@[simp] theorem setConc_notes (s : State) (f : Concentrator → Concentrator) : (setConc s f).notes = s.notes := rfl
@[simp] theorem setConc_out (s : State) (f : Concentrator → Concentrator) : (setConc s f).out = s.out := rfl
@[simp] theorem setConc_free (s : State) (f : Concentrator → Concentrator) : (setConc s f).free = s.free := rfl
@[simp] theorem setConc_pending (s : State) (f : Concentrator → Concentrator) : (setConc s f).pending = s.pending := rfl
@[simp] theorem rd_setConc (s : State) (f : Concentrator → Concentrator) (g : Field) (j : Nat) : rd (setConc s f) g j = rd s g j := rfl
@[simp] theorem lv_setConc (s : State) (f : Concentrator → Concentrator) (g : Field) (j : Nat) : lv (setConc s f) g j = lv s g j := rfl

/-! ### `setSun` -/

@[simp] theorem setSun_regs (s : State) (f : SunflowerState → SunflowerState) : (setSun s f).regs = s.regs := rfl
@[simp] theorem setSun_live (s : State) (f : SunflowerState → SunflowerState) : (setSun s f).live = s.live := rfl
@[simp] theorem setSun_mem (s : State) (f : SunflowerState → SunflowerState) : (setSun s f).mem = s.mem := rfl
@[simp] theorem setSun_time (s : State) (f : SunflowerState → SunflowerState) : (setSun s f).time = s.time := rfl
@[simp] theorem setSun_net (s : State) (f : SunflowerState → SunflowerState) : (setSun s f).net = s.net := rfl
@[simp] theorem setSun_modes (s : State) (f : SunflowerState → SunflowerState) : (setSun s f).modes = s.modes := rfl
@[simp] theorem setSun_afe (s : State) (f : SunflowerState → SunflowerState) : (setSun s f).afe = s.afe := rfl
@[simp] theorem setSun_bbl (s : State) (f : SunflowerState → SunflowerState) : (setSun s f).bbl = s.bbl := rfl
@[simp] theorem setSun_cnv (s : State) (f : SunflowerState → SunflowerState) : (setSun s f).cnv = s.cnv := rfl
@[simp] theorem setSun_chz (s : State) (f : SunflowerState → SunflowerState) : (setSun s f).chz = s.chz := rfl
@[simp] theorem setSun_trg (s : State) (f : SunflowerState → SunflowerState) : (setSun s f).trg = s.trg := rfl
@[simp] theorem setSun_evt (s : State) (f : SunflowerState → SunflowerState) : (setSun s f).evt = s.evt := rfl
@[simp] theorem setSun_cmp (s : State) (f : SunflowerState → SunflowerState) : (setSun s f).cmp = s.cmp := rfl
@[simp] theorem setSun_dah (s : State) (f : SunflowerState → SunflowerState) : (setSun s f).dah = s.dah := rfl
@[simp] theorem setSun_peer (s : State) (f : SunflowerState → SunflowerState) : (setSun s f).peer = s.peer := rfl
@[simp] theorem setSun_conc (s : State) (f : SunflowerState → SunflowerState) : (setSun s f).conc = s.conc := rfl
@[simp] theorem setSun_sun (s : State) (f : SunflowerState → SunflowerState) : (setSun s f).sun = f s.sun := rfl
@[simp] theorem setSun_fst (s : State) (f : SunflowerState → SunflowerState) : (setSun s f).fst = s.fst := rfl
@[simp] theorem setSun_mov (s : State) (f : SunflowerState → SunflowerState) : (setSun s f).mov = s.mov := rfl
@[simp] theorem setSun_axl (s : State) (f : SunflowerState → SunflowerState) : (setSun s f).axl = s.axl := rfl
@[simp] theorem setSun_ctl (s : State) (f : SunflowerState → SunflowerState) : (setSun s f).ctl = s.ctl := rfl
@[simp] theorem setSun_pwr (s : State) (f : SunflowerState → SunflowerState) : (setSun s f).pwr = s.pwr := rfl
@[simp] theorem setSun_hk (s : State) (f : SunflowerState → SunflowerState) : (setSun s f).hk = s.hk := rfl
@[simp] theorem setSun_cal (s : State) (f : SunflowerState → SunflowerState) : (setSun s f).cal = s.cal := rfl
@[simp] theorem setSun_aon (s : State) (f : SunflowerState → SunflowerState) : (setSun s f).aon = s.aon := rfl
@[simp] theorem setSun_flt (s : State) (f : SunflowerState → SunflowerState) : (setSun s f).flt = s.flt := rfl
@[simp] theorem setSun_notes (s : State) (f : SunflowerState → SunflowerState) : (setSun s f).notes = s.notes := rfl
@[simp] theorem setSun_out (s : State) (f : SunflowerState → SunflowerState) : (setSun s f).out = s.out := rfl
@[simp] theorem setSun_free (s : State) (f : SunflowerState → SunflowerState) : (setSun s f).free = s.free := rfl
@[simp] theorem setSun_pending (s : State) (f : SunflowerState → SunflowerState) : (setSun s f).pending = s.pending := rfl
@[simp] theorem rd_setSun (s : State) (f : SunflowerState → SunflowerState) (g : Field) (j : Nat) : rd (setSun s f) g j = rd s g j := rfl
@[simp] theorem lv_setSun (s : State) (f : SunflowerState → SunflowerState) (g : Field) (j : Nat) : lv (setSun s f) g j = lv s g j := rfl

/-! ### `setFst` -/

@[simp] theorem setFst_regs (s : State) (f : FieldStore → FieldStore) : (setFst s f).regs = s.regs := rfl
@[simp] theorem setFst_live (s : State) (f : FieldStore → FieldStore) : (setFst s f).live = s.live := rfl
@[simp] theorem setFst_mem (s : State) (f : FieldStore → FieldStore) : (setFst s f).mem = s.mem := rfl
@[simp] theorem setFst_time (s : State) (f : FieldStore → FieldStore) : (setFst s f).time = s.time := rfl
@[simp] theorem setFst_net (s : State) (f : FieldStore → FieldStore) : (setFst s f).net = s.net := rfl
@[simp] theorem setFst_modes (s : State) (f : FieldStore → FieldStore) : (setFst s f).modes = s.modes := rfl
@[simp] theorem setFst_afe (s : State) (f : FieldStore → FieldStore) : (setFst s f).afe = s.afe := rfl
@[simp] theorem setFst_bbl (s : State) (f : FieldStore → FieldStore) : (setFst s f).bbl = s.bbl := rfl
@[simp] theorem setFst_cnv (s : State) (f : FieldStore → FieldStore) : (setFst s f).cnv = s.cnv := rfl
@[simp] theorem setFst_chz (s : State) (f : FieldStore → FieldStore) : (setFst s f).chz = s.chz := rfl
@[simp] theorem setFst_trg (s : State) (f : FieldStore → FieldStore) : (setFst s f).trg = s.trg := rfl
@[simp] theorem setFst_evt (s : State) (f : FieldStore → FieldStore) : (setFst s f).evt = s.evt := rfl
@[simp] theorem setFst_cmp (s : State) (f : FieldStore → FieldStore) : (setFst s f).cmp = s.cmp := rfl
@[simp] theorem setFst_dah (s : State) (f : FieldStore → FieldStore) : (setFst s f).dah = s.dah := rfl
@[simp] theorem setFst_peer (s : State) (f : FieldStore → FieldStore) : (setFst s f).peer = s.peer := rfl
@[simp] theorem setFst_conc (s : State) (f : FieldStore → FieldStore) : (setFst s f).conc = s.conc := rfl
@[simp] theorem setFst_sun (s : State) (f : FieldStore → FieldStore) : (setFst s f).sun = s.sun := rfl
@[simp] theorem setFst_fst (s : State) (f : FieldStore → FieldStore) : (setFst s f).fst = f s.fst := rfl
@[simp] theorem setFst_mov (s : State) (f : FieldStore → FieldStore) : (setFst s f).mov = s.mov := rfl
@[simp] theorem setFst_axl (s : State) (f : FieldStore → FieldStore) : (setFst s f).axl = s.axl := rfl
@[simp] theorem setFst_ctl (s : State) (f : FieldStore → FieldStore) : (setFst s f).ctl = s.ctl := rfl
@[simp] theorem setFst_pwr (s : State) (f : FieldStore → FieldStore) : (setFst s f).pwr = s.pwr := rfl
@[simp] theorem setFst_hk (s : State) (f : FieldStore → FieldStore) : (setFst s f).hk = s.hk := rfl
@[simp] theorem setFst_cal (s : State) (f : FieldStore → FieldStore) : (setFst s f).cal = s.cal := rfl
@[simp] theorem setFst_aon (s : State) (f : FieldStore → FieldStore) : (setFst s f).aon = s.aon := rfl
@[simp] theorem setFst_flt (s : State) (f : FieldStore → FieldStore) : (setFst s f).flt = s.flt := rfl
@[simp] theorem setFst_notes (s : State) (f : FieldStore → FieldStore) : (setFst s f).notes = s.notes := rfl
@[simp] theorem setFst_out (s : State) (f : FieldStore → FieldStore) : (setFst s f).out = s.out := rfl
@[simp] theorem setFst_free (s : State) (f : FieldStore → FieldStore) : (setFst s f).free = s.free := rfl
@[simp] theorem setFst_pending (s : State) (f : FieldStore → FieldStore) : (setFst s f).pending = s.pending := rfl
@[simp] theorem rd_setFst (s : State) (f : FieldStore → FieldStore) (g : Field) (j : Nat) : rd (setFst s f) g j = rd s g j := rfl
@[simp] theorem lv_setFst (s : State) (f : FieldStore → FieldStore) (g : Field) (j : Nat) : lv (setFst s f) g j = lv s g j := rfl

/-! ### `setMov` -/

@[simp] theorem setMov_regs (s : State) (f : Movement → Movement) : (setMov s f).regs = s.regs := rfl
@[simp] theorem setMov_live (s : State) (f : Movement → Movement) : (setMov s f).live = s.live := rfl
@[simp] theorem setMov_mem (s : State) (f : Movement → Movement) : (setMov s f).mem = s.mem := rfl
@[simp] theorem setMov_time (s : State) (f : Movement → Movement) : (setMov s f).time = s.time := rfl
@[simp] theorem setMov_net (s : State) (f : Movement → Movement) : (setMov s f).net = s.net := rfl
@[simp] theorem setMov_modes (s : State) (f : Movement → Movement) : (setMov s f).modes = s.modes := rfl
@[simp] theorem setMov_afe (s : State) (f : Movement → Movement) : (setMov s f).afe = s.afe := rfl
@[simp] theorem setMov_bbl (s : State) (f : Movement → Movement) : (setMov s f).bbl = s.bbl := rfl
@[simp] theorem setMov_cnv (s : State) (f : Movement → Movement) : (setMov s f).cnv = s.cnv := rfl
@[simp] theorem setMov_chz (s : State) (f : Movement → Movement) : (setMov s f).chz = s.chz := rfl
@[simp] theorem setMov_trg (s : State) (f : Movement → Movement) : (setMov s f).trg = s.trg := rfl
@[simp] theorem setMov_evt (s : State) (f : Movement → Movement) : (setMov s f).evt = s.evt := rfl
@[simp] theorem setMov_cmp (s : State) (f : Movement → Movement) : (setMov s f).cmp = s.cmp := rfl
@[simp] theorem setMov_dah (s : State) (f : Movement → Movement) : (setMov s f).dah = s.dah := rfl
@[simp] theorem setMov_peer (s : State) (f : Movement → Movement) : (setMov s f).peer = s.peer := rfl
@[simp] theorem setMov_conc (s : State) (f : Movement → Movement) : (setMov s f).conc = s.conc := rfl
@[simp] theorem setMov_sun (s : State) (f : Movement → Movement) : (setMov s f).sun = s.sun := rfl
@[simp] theorem setMov_fst (s : State) (f : Movement → Movement) : (setMov s f).fst = s.fst := rfl
@[simp] theorem setMov_mov (s : State) (f : Movement → Movement) : (setMov s f).mov = f s.mov := rfl
@[simp] theorem setMov_axl (s : State) (f : Movement → Movement) : (setMov s f).axl = s.axl := rfl
@[simp] theorem setMov_ctl (s : State) (f : Movement → Movement) : (setMov s f).ctl = s.ctl := rfl
@[simp] theorem setMov_pwr (s : State) (f : Movement → Movement) : (setMov s f).pwr = s.pwr := rfl
@[simp] theorem setMov_hk (s : State) (f : Movement → Movement) : (setMov s f).hk = s.hk := rfl
@[simp] theorem setMov_cal (s : State) (f : Movement → Movement) : (setMov s f).cal = s.cal := rfl
@[simp] theorem setMov_aon (s : State) (f : Movement → Movement) : (setMov s f).aon = s.aon := rfl
@[simp] theorem setMov_flt (s : State) (f : Movement → Movement) : (setMov s f).flt = s.flt := rfl
@[simp] theorem setMov_notes (s : State) (f : Movement → Movement) : (setMov s f).notes = s.notes := rfl
@[simp] theorem setMov_out (s : State) (f : Movement → Movement) : (setMov s f).out = s.out := rfl
@[simp] theorem setMov_free (s : State) (f : Movement → Movement) : (setMov s f).free = s.free := rfl
@[simp] theorem setMov_pending (s : State) (f : Movement → Movement) : (setMov s f).pending = s.pending := rfl
@[simp] theorem rd_setMov (s : State) (f : Movement → Movement) (g : Field) (j : Nat) : rd (setMov s f) g j = rd s g j := rfl
@[simp] theorem lv_setMov (s : State) (f : Movement → Movement) (g : Field) (j : Nat) : lv (setMov s f) g j = lv s g j := rfl

/-! ### `setCtl` -/

@[simp] theorem setCtl_regs (s : State) (f : Ctl → Ctl) : (setCtl s f).regs = s.regs := rfl
@[simp] theorem setCtl_live (s : State) (f : Ctl → Ctl) : (setCtl s f).live = s.live := rfl
@[simp] theorem setCtl_mem (s : State) (f : Ctl → Ctl) : (setCtl s f).mem = s.mem := rfl
@[simp] theorem setCtl_time (s : State) (f : Ctl → Ctl) : (setCtl s f).time = s.time := rfl
@[simp] theorem setCtl_net (s : State) (f : Ctl → Ctl) : (setCtl s f).net = s.net := rfl
@[simp] theorem setCtl_modes (s : State) (f : Ctl → Ctl) : (setCtl s f).modes = s.modes := rfl
@[simp] theorem setCtl_afe (s : State) (f : Ctl → Ctl) : (setCtl s f).afe = s.afe := rfl
@[simp] theorem setCtl_bbl (s : State) (f : Ctl → Ctl) : (setCtl s f).bbl = s.bbl := rfl
@[simp] theorem setCtl_cnv (s : State) (f : Ctl → Ctl) : (setCtl s f).cnv = s.cnv := rfl
@[simp] theorem setCtl_chz (s : State) (f : Ctl → Ctl) : (setCtl s f).chz = s.chz := rfl
@[simp] theorem setCtl_trg (s : State) (f : Ctl → Ctl) : (setCtl s f).trg = s.trg := rfl
@[simp] theorem setCtl_evt (s : State) (f : Ctl → Ctl) : (setCtl s f).evt = s.evt := rfl
@[simp] theorem setCtl_cmp (s : State) (f : Ctl → Ctl) : (setCtl s f).cmp = s.cmp := rfl
@[simp] theorem setCtl_dah (s : State) (f : Ctl → Ctl) : (setCtl s f).dah = s.dah := rfl
@[simp] theorem setCtl_peer (s : State) (f : Ctl → Ctl) : (setCtl s f).peer = s.peer := rfl
@[simp] theorem setCtl_conc (s : State) (f : Ctl → Ctl) : (setCtl s f).conc = s.conc := rfl
@[simp] theorem setCtl_sun (s : State) (f : Ctl → Ctl) : (setCtl s f).sun = s.sun := rfl
@[simp] theorem setCtl_fst (s : State) (f : Ctl → Ctl) : (setCtl s f).fst = s.fst := rfl
@[simp] theorem setCtl_mov (s : State) (f : Ctl → Ctl) : (setCtl s f).mov = s.mov := rfl
@[simp] theorem setCtl_axl (s : State) (f : Ctl → Ctl) : (setCtl s f).axl = s.axl := rfl
@[simp] theorem setCtl_ctl (s : State) (f : Ctl → Ctl) : (setCtl s f).ctl = f s.ctl := rfl
@[simp] theorem setCtl_pwr (s : State) (f : Ctl → Ctl) : (setCtl s f).pwr = s.pwr := rfl
@[simp] theorem setCtl_hk (s : State) (f : Ctl → Ctl) : (setCtl s f).hk = s.hk := rfl
@[simp] theorem setCtl_cal (s : State) (f : Ctl → Ctl) : (setCtl s f).cal = s.cal := rfl
@[simp] theorem setCtl_aon (s : State) (f : Ctl → Ctl) : (setCtl s f).aon = s.aon := rfl
@[simp] theorem setCtl_flt (s : State) (f : Ctl → Ctl) : (setCtl s f).flt = s.flt := rfl
@[simp] theorem setCtl_notes (s : State) (f : Ctl → Ctl) : (setCtl s f).notes = s.notes := rfl
@[simp] theorem setCtl_out (s : State) (f : Ctl → Ctl) : (setCtl s f).out = s.out := rfl
@[simp] theorem setCtl_free (s : State) (f : Ctl → Ctl) : (setCtl s f).free = s.free := rfl
@[simp] theorem setCtl_pending (s : State) (f : Ctl → Ctl) : (setCtl s f).pending = s.pending := rfl
@[simp] theorem rd_setCtl (s : State) (f : Ctl → Ctl) (g : Field) (j : Nat) : rd (setCtl s f) g j = rd s g j := rfl
@[simp] theorem lv_setCtl (s : State) (f : Ctl → Ctl) (g : Field) (j : Nat) : lv (setCtl s f) g j = lv s g j := rfl

/-! ### `setPwr` -/

@[simp] theorem setPwr_regs (s : State) (f : Power → Power) : (setPwr s f).regs = s.regs := rfl
@[simp] theorem setPwr_live (s : State) (f : Power → Power) : (setPwr s f).live = s.live := rfl
@[simp] theorem setPwr_mem (s : State) (f : Power → Power) : (setPwr s f).mem = s.mem := rfl
@[simp] theorem setPwr_time (s : State) (f : Power → Power) : (setPwr s f).time = s.time := rfl
@[simp] theorem setPwr_net (s : State) (f : Power → Power) : (setPwr s f).net = s.net := rfl
@[simp] theorem setPwr_modes (s : State) (f : Power → Power) : (setPwr s f).modes = s.modes := rfl
@[simp] theorem setPwr_afe (s : State) (f : Power → Power) : (setPwr s f).afe = s.afe := rfl
@[simp] theorem setPwr_bbl (s : State) (f : Power → Power) : (setPwr s f).bbl = s.bbl := rfl
@[simp] theorem setPwr_cnv (s : State) (f : Power → Power) : (setPwr s f).cnv = s.cnv := rfl
@[simp] theorem setPwr_chz (s : State) (f : Power → Power) : (setPwr s f).chz = s.chz := rfl
@[simp] theorem setPwr_trg (s : State) (f : Power → Power) : (setPwr s f).trg = s.trg := rfl
@[simp] theorem setPwr_evt (s : State) (f : Power → Power) : (setPwr s f).evt = s.evt := rfl
@[simp] theorem setPwr_cmp (s : State) (f : Power → Power) : (setPwr s f).cmp = s.cmp := rfl
@[simp] theorem setPwr_dah (s : State) (f : Power → Power) : (setPwr s f).dah = s.dah := rfl
@[simp] theorem setPwr_peer (s : State) (f : Power → Power) : (setPwr s f).peer = s.peer := rfl
@[simp] theorem setPwr_conc (s : State) (f : Power → Power) : (setPwr s f).conc = s.conc := rfl
@[simp] theorem setPwr_sun (s : State) (f : Power → Power) : (setPwr s f).sun = s.sun := rfl
@[simp] theorem setPwr_fst (s : State) (f : Power → Power) : (setPwr s f).fst = s.fst := rfl
@[simp] theorem setPwr_mov (s : State) (f : Power → Power) : (setPwr s f).mov = s.mov := rfl
@[simp] theorem setPwr_axl (s : State) (f : Power → Power) : (setPwr s f).axl = s.axl := rfl
@[simp] theorem setPwr_ctl (s : State) (f : Power → Power) : (setPwr s f).ctl = s.ctl := rfl
@[simp] theorem setPwr_pwr (s : State) (f : Power → Power) : (setPwr s f).pwr = f s.pwr := rfl
@[simp] theorem setPwr_hk (s : State) (f : Power → Power) : (setPwr s f).hk = s.hk := rfl
@[simp] theorem setPwr_cal (s : State) (f : Power → Power) : (setPwr s f).cal = s.cal := rfl
@[simp] theorem setPwr_aon (s : State) (f : Power → Power) : (setPwr s f).aon = s.aon := rfl
@[simp] theorem setPwr_flt (s : State) (f : Power → Power) : (setPwr s f).flt = s.flt := rfl
@[simp] theorem setPwr_notes (s : State) (f : Power → Power) : (setPwr s f).notes = s.notes := rfl
@[simp] theorem setPwr_out (s : State) (f : Power → Power) : (setPwr s f).out = s.out := rfl
@[simp] theorem setPwr_free (s : State) (f : Power → Power) : (setPwr s f).free = s.free := rfl
@[simp] theorem setPwr_pending (s : State) (f : Power → Power) : (setPwr s f).pending = s.pending := rfl
@[simp] theorem rd_setPwr (s : State) (f : Power → Power) (g : Field) (j : Nat) : rd (setPwr s f) g j = rd s g j := rfl
@[simp] theorem lv_setPwr (s : State) (f : Power → Power) (g : Field) (j : Nat) : lv (setPwr s f) g j = lv s g j := rfl

/-! ### `setHk` -/

@[simp] theorem setHk_regs (s : State) (f : Housekeeping → Housekeeping) : (setHk s f).regs = s.regs := rfl
@[simp] theorem setHk_live (s : State) (f : Housekeeping → Housekeeping) : (setHk s f).live = s.live := rfl
@[simp] theorem setHk_mem (s : State) (f : Housekeeping → Housekeeping) : (setHk s f).mem = s.mem := rfl
@[simp] theorem setHk_time (s : State) (f : Housekeeping → Housekeeping) : (setHk s f).time = s.time := rfl
@[simp] theorem setHk_net (s : State) (f : Housekeeping → Housekeeping) : (setHk s f).net = s.net := rfl
@[simp] theorem setHk_modes (s : State) (f : Housekeeping → Housekeeping) : (setHk s f).modes = s.modes := rfl
@[simp] theorem setHk_afe (s : State) (f : Housekeeping → Housekeeping) : (setHk s f).afe = s.afe := rfl
@[simp] theorem setHk_bbl (s : State) (f : Housekeeping → Housekeeping) : (setHk s f).bbl = s.bbl := rfl
@[simp] theorem setHk_cnv (s : State) (f : Housekeeping → Housekeeping) : (setHk s f).cnv = s.cnv := rfl
@[simp] theorem setHk_chz (s : State) (f : Housekeeping → Housekeeping) : (setHk s f).chz = s.chz := rfl
@[simp] theorem setHk_trg (s : State) (f : Housekeeping → Housekeeping) : (setHk s f).trg = s.trg := rfl
@[simp] theorem setHk_evt (s : State) (f : Housekeeping → Housekeeping) : (setHk s f).evt = s.evt := rfl
@[simp] theorem setHk_cmp (s : State) (f : Housekeeping → Housekeeping) : (setHk s f).cmp = s.cmp := rfl
@[simp] theorem setHk_dah (s : State) (f : Housekeeping → Housekeeping) : (setHk s f).dah = s.dah := rfl
@[simp] theorem setHk_peer (s : State) (f : Housekeeping → Housekeeping) : (setHk s f).peer = s.peer := rfl
@[simp] theorem setHk_conc (s : State) (f : Housekeeping → Housekeeping) : (setHk s f).conc = s.conc := rfl
@[simp] theorem setHk_sun (s : State) (f : Housekeeping → Housekeeping) : (setHk s f).sun = s.sun := rfl
@[simp] theorem setHk_fst (s : State) (f : Housekeeping → Housekeeping) : (setHk s f).fst = s.fst := rfl
@[simp] theorem setHk_mov (s : State) (f : Housekeeping → Housekeeping) : (setHk s f).mov = s.mov := rfl
@[simp] theorem setHk_axl (s : State) (f : Housekeeping → Housekeeping) : (setHk s f).axl = s.axl := rfl
@[simp] theorem setHk_ctl (s : State) (f : Housekeeping → Housekeeping) : (setHk s f).ctl = s.ctl := rfl
@[simp] theorem setHk_pwr (s : State) (f : Housekeeping → Housekeeping) : (setHk s f).pwr = s.pwr := rfl
@[simp] theorem setHk_hk (s : State) (f : Housekeeping → Housekeeping) : (setHk s f).hk = f s.hk := rfl
@[simp] theorem setHk_cal (s : State) (f : Housekeeping → Housekeeping) : (setHk s f).cal = s.cal := rfl
@[simp] theorem setHk_aon (s : State) (f : Housekeeping → Housekeeping) : (setHk s f).aon = s.aon := rfl
@[simp] theorem setHk_flt (s : State) (f : Housekeeping → Housekeeping) : (setHk s f).flt = s.flt := rfl
@[simp] theorem setHk_notes (s : State) (f : Housekeeping → Housekeeping) : (setHk s f).notes = s.notes := rfl
@[simp] theorem setHk_out (s : State) (f : Housekeeping → Housekeeping) : (setHk s f).out = s.out := rfl
@[simp] theorem setHk_free (s : State) (f : Housekeeping → Housekeeping) : (setHk s f).free = s.free := rfl
@[simp] theorem setHk_pending (s : State) (f : Housekeeping → Housekeeping) : (setHk s f).pending = s.pending := rfl
@[simp] theorem rd_setHk (s : State) (f : Housekeeping → Housekeeping) (g : Field) (j : Nat) : rd (setHk s f) g j = rd s g j := rfl
@[simp] theorem lv_setHk (s : State) (f : Housekeeping → Housekeeping) (g : Field) (j : Nat) : lv (setHk s f) g j = lv s g j := rfl

/-! ### `setCal` -/

@[simp] theorem setCal_regs (s : State) (f : Injectors → Injectors) : (setCal s f).regs = s.regs := rfl
@[simp] theorem setCal_live (s : State) (f : Injectors → Injectors) : (setCal s f).live = s.live := rfl
@[simp] theorem setCal_mem (s : State) (f : Injectors → Injectors) : (setCal s f).mem = s.mem := rfl
@[simp] theorem setCal_time (s : State) (f : Injectors → Injectors) : (setCal s f).time = s.time := rfl
@[simp] theorem setCal_net (s : State) (f : Injectors → Injectors) : (setCal s f).net = s.net := rfl
@[simp] theorem setCal_modes (s : State) (f : Injectors → Injectors) : (setCal s f).modes = s.modes := rfl
@[simp] theorem setCal_afe (s : State) (f : Injectors → Injectors) : (setCal s f).afe = s.afe := rfl
@[simp] theorem setCal_bbl (s : State) (f : Injectors → Injectors) : (setCal s f).bbl = s.bbl := rfl
@[simp] theorem setCal_cnv (s : State) (f : Injectors → Injectors) : (setCal s f).cnv = s.cnv := rfl
@[simp] theorem setCal_chz (s : State) (f : Injectors → Injectors) : (setCal s f).chz = s.chz := rfl
@[simp] theorem setCal_trg (s : State) (f : Injectors → Injectors) : (setCal s f).trg = s.trg := rfl
@[simp] theorem setCal_evt (s : State) (f : Injectors → Injectors) : (setCal s f).evt = s.evt := rfl
@[simp] theorem setCal_cmp (s : State) (f : Injectors → Injectors) : (setCal s f).cmp = s.cmp := rfl
@[simp] theorem setCal_dah (s : State) (f : Injectors → Injectors) : (setCal s f).dah = s.dah := rfl
@[simp] theorem setCal_peer (s : State) (f : Injectors → Injectors) : (setCal s f).peer = s.peer := rfl
@[simp] theorem setCal_conc (s : State) (f : Injectors → Injectors) : (setCal s f).conc = s.conc := rfl
@[simp] theorem setCal_sun (s : State) (f : Injectors → Injectors) : (setCal s f).sun = s.sun := rfl
@[simp] theorem setCal_fst (s : State) (f : Injectors → Injectors) : (setCal s f).fst = s.fst := rfl
@[simp] theorem setCal_mov (s : State) (f : Injectors → Injectors) : (setCal s f).mov = s.mov := rfl
@[simp] theorem setCal_axl (s : State) (f : Injectors → Injectors) : (setCal s f).axl = s.axl := rfl
@[simp] theorem setCal_ctl (s : State) (f : Injectors → Injectors) : (setCal s f).ctl = s.ctl := rfl
@[simp] theorem setCal_pwr (s : State) (f : Injectors → Injectors) : (setCal s f).pwr = s.pwr := rfl
@[simp] theorem setCal_hk (s : State) (f : Injectors → Injectors) : (setCal s f).hk = s.hk := rfl
@[simp] theorem setCal_cal (s : State) (f : Injectors → Injectors) : (setCal s f).cal = f s.cal := rfl
@[simp] theorem setCal_aon (s : State) (f : Injectors → Injectors) : (setCal s f).aon = s.aon := rfl
@[simp] theorem setCal_flt (s : State) (f : Injectors → Injectors) : (setCal s f).flt = s.flt := rfl
@[simp] theorem setCal_notes (s : State) (f : Injectors → Injectors) : (setCal s f).notes = s.notes := rfl
@[simp] theorem setCal_out (s : State) (f : Injectors → Injectors) : (setCal s f).out = s.out := rfl
@[simp] theorem setCal_free (s : State) (f : Injectors → Injectors) : (setCal s f).free = s.free := rfl
@[simp] theorem setCal_pending (s : State) (f : Injectors → Injectors) : (setCal s f).pending = s.pending := rfl
@[simp] theorem rd_setCal (s : State) (f : Injectors → Injectors) (g : Field) (j : Nat) : rd (setCal s f) g j = rd s g j := rfl
@[simp] theorem lv_setCal (s : State) (f : Injectors → Injectors) (g : Field) (j : Nat) : lv (setCal s f) g j = lv s g j := rfl

/-! ### `setAon` -/

@[simp] theorem setAon_regs (s : State) (f : AlwaysOn → AlwaysOn) : (setAon s f).regs = s.regs := rfl
@[simp] theorem setAon_live (s : State) (f : AlwaysOn → AlwaysOn) : (setAon s f).live = s.live := rfl
@[simp] theorem setAon_mem (s : State) (f : AlwaysOn → AlwaysOn) : (setAon s f).mem = s.mem := rfl
@[simp] theorem setAon_time (s : State) (f : AlwaysOn → AlwaysOn) : (setAon s f).time = s.time := rfl
@[simp] theorem setAon_net (s : State) (f : AlwaysOn → AlwaysOn) : (setAon s f).net = s.net := rfl
@[simp] theorem setAon_modes (s : State) (f : AlwaysOn → AlwaysOn) : (setAon s f).modes = s.modes := rfl
@[simp] theorem setAon_afe (s : State) (f : AlwaysOn → AlwaysOn) : (setAon s f).afe = s.afe := rfl
@[simp] theorem setAon_bbl (s : State) (f : AlwaysOn → AlwaysOn) : (setAon s f).bbl = s.bbl := rfl
@[simp] theorem setAon_cnv (s : State) (f : AlwaysOn → AlwaysOn) : (setAon s f).cnv = s.cnv := rfl
@[simp] theorem setAon_chz (s : State) (f : AlwaysOn → AlwaysOn) : (setAon s f).chz = s.chz := rfl
@[simp] theorem setAon_trg (s : State) (f : AlwaysOn → AlwaysOn) : (setAon s f).trg = s.trg := rfl
@[simp] theorem setAon_evt (s : State) (f : AlwaysOn → AlwaysOn) : (setAon s f).evt = s.evt := rfl
@[simp] theorem setAon_cmp (s : State) (f : AlwaysOn → AlwaysOn) : (setAon s f).cmp = s.cmp := rfl
@[simp] theorem setAon_dah (s : State) (f : AlwaysOn → AlwaysOn) : (setAon s f).dah = s.dah := rfl
@[simp] theorem setAon_peer (s : State) (f : AlwaysOn → AlwaysOn) : (setAon s f).peer = s.peer := rfl
@[simp] theorem setAon_conc (s : State) (f : AlwaysOn → AlwaysOn) : (setAon s f).conc = s.conc := rfl
@[simp] theorem setAon_sun (s : State) (f : AlwaysOn → AlwaysOn) : (setAon s f).sun = s.sun := rfl
@[simp] theorem setAon_fst (s : State) (f : AlwaysOn → AlwaysOn) : (setAon s f).fst = s.fst := rfl
@[simp] theorem setAon_mov (s : State) (f : AlwaysOn → AlwaysOn) : (setAon s f).mov = s.mov := rfl
@[simp] theorem setAon_axl (s : State) (f : AlwaysOn → AlwaysOn) : (setAon s f).axl = s.axl := rfl
@[simp] theorem setAon_ctl (s : State) (f : AlwaysOn → AlwaysOn) : (setAon s f).ctl = s.ctl := rfl
@[simp] theorem setAon_pwr (s : State) (f : AlwaysOn → AlwaysOn) : (setAon s f).pwr = s.pwr := rfl
@[simp] theorem setAon_hk (s : State) (f : AlwaysOn → AlwaysOn) : (setAon s f).hk = s.hk := rfl
@[simp] theorem setAon_cal (s : State) (f : AlwaysOn → AlwaysOn) : (setAon s f).cal = s.cal := rfl
@[simp] theorem setAon_aon (s : State) (f : AlwaysOn → AlwaysOn) : (setAon s f).aon = f s.aon := rfl
@[simp] theorem setAon_flt (s : State) (f : AlwaysOn → AlwaysOn) : (setAon s f).flt = s.flt := rfl
@[simp] theorem setAon_notes (s : State) (f : AlwaysOn → AlwaysOn) : (setAon s f).notes = s.notes := rfl
@[simp] theorem setAon_out (s : State) (f : AlwaysOn → AlwaysOn) : (setAon s f).out = s.out := rfl
@[simp] theorem setAon_free (s : State) (f : AlwaysOn → AlwaysOn) : (setAon s f).free = s.free := rfl
@[simp] theorem setAon_pending (s : State) (f : AlwaysOn → AlwaysOn) : (setAon s f).pending = s.pending := rfl
@[simp] theorem rd_setAon (s : State) (f : AlwaysOn → AlwaysOn) (g : Field) (j : Nat) : rd (setAon s f) g j = rd s g j := rfl
@[simp] theorem lv_setAon (s : State) (f : AlwaysOn → AlwaysOn) (g : Field) (j : Nat) : lv (setAon s f) g j = lv s g j := rfl

/-! ### `setPort` -/

@[simp] theorem setPort_regs (s : State) (i : Nat) (f : NetPortState → NetPortState) : (setPort s i f).regs = s.regs := rfl
@[simp] theorem setPort_live (s : State) (i : Nat) (f : NetPortState → NetPortState) : (setPort s i f).live = s.live := rfl
@[simp] theorem setPort_mem (s : State) (i : Nat) (f : NetPortState → NetPortState) : (setPort s i f).mem = s.mem := rfl
@[simp] theorem setPort_time (s : State) (i : Nat) (f : NetPortState → NetPortState) : (setPort s i f).time = s.time := rfl
@[simp] theorem setPort_net (s : State) (i : Nat) (f : NetPortState → NetPortState) : (setPort s i f).net = { s.net with ports := upd s.net.ports i f } := rfl
@[simp] theorem setPort_modes (s : State) (i : Nat) (f : NetPortState → NetPortState) : (setPort s i f).modes = s.modes := rfl
@[simp] theorem setPort_afe (s : State) (i : Nat) (f : NetPortState → NetPortState) : (setPort s i f).afe = s.afe := rfl
@[simp] theorem setPort_bbl (s : State) (i : Nat) (f : NetPortState → NetPortState) : (setPort s i f).bbl = s.bbl := rfl
@[simp] theorem setPort_cnv (s : State) (i : Nat) (f : NetPortState → NetPortState) : (setPort s i f).cnv = s.cnv := rfl
@[simp] theorem setPort_chz (s : State) (i : Nat) (f : NetPortState → NetPortState) : (setPort s i f).chz = s.chz := rfl
@[simp] theorem setPort_trg (s : State) (i : Nat) (f : NetPortState → NetPortState) : (setPort s i f).trg = s.trg := rfl
@[simp] theorem setPort_evt (s : State) (i : Nat) (f : NetPortState → NetPortState) : (setPort s i f).evt = s.evt := rfl
@[simp] theorem setPort_cmp (s : State) (i : Nat) (f : NetPortState → NetPortState) : (setPort s i f).cmp = s.cmp := rfl
@[simp] theorem setPort_dah (s : State) (i : Nat) (f : NetPortState → NetPortState) : (setPort s i f).dah = s.dah := rfl
@[simp] theorem setPort_peer (s : State) (i : Nat) (f : NetPortState → NetPortState) : (setPort s i f).peer = s.peer := rfl
@[simp] theorem setPort_conc (s : State) (i : Nat) (f : NetPortState → NetPortState) : (setPort s i f).conc = s.conc := rfl
@[simp] theorem setPort_sun (s : State) (i : Nat) (f : NetPortState → NetPortState) : (setPort s i f).sun = s.sun := rfl
@[simp] theorem setPort_fst (s : State) (i : Nat) (f : NetPortState → NetPortState) : (setPort s i f).fst = s.fst := rfl
@[simp] theorem setPort_mov (s : State) (i : Nat) (f : NetPortState → NetPortState) : (setPort s i f).mov = s.mov := rfl
@[simp] theorem setPort_axl (s : State) (i : Nat) (f : NetPortState → NetPortState) : (setPort s i f).axl = s.axl := rfl
@[simp] theorem setPort_ctl (s : State) (i : Nat) (f : NetPortState → NetPortState) : (setPort s i f).ctl = s.ctl := rfl
@[simp] theorem setPort_pwr (s : State) (i : Nat) (f : NetPortState → NetPortState) : (setPort s i f).pwr = s.pwr := rfl
@[simp] theorem setPort_hk (s : State) (i : Nat) (f : NetPortState → NetPortState) : (setPort s i f).hk = s.hk := rfl
@[simp] theorem setPort_cal (s : State) (i : Nat) (f : NetPortState → NetPortState) : (setPort s i f).cal = s.cal := rfl
@[simp] theorem setPort_aon (s : State) (i : Nat) (f : NetPortState → NetPortState) : (setPort s i f).aon = s.aon := rfl
@[simp] theorem setPort_flt (s : State) (i : Nat) (f : NetPortState → NetPortState) : (setPort s i f).flt = s.flt := rfl
@[simp] theorem setPort_notes (s : State) (i : Nat) (f : NetPortState → NetPortState) : (setPort s i f).notes = s.notes := rfl
@[simp] theorem setPort_out (s : State) (i : Nat) (f : NetPortState → NetPortState) : (setPort s i f).out = s.out := rfl
@[simp] theorem setPort_free (s : State) (i : Nat) (f : NetPortState → NetPortState) : (setPort s i f).free = s.free := rfl
@[simp] theorem setPort_pending (s : State) (i : Nat) (f : NetPortState → NetPortState) : (setPort s i f).pending = s.pending := rfl
@[simp] theorem rd_setPort (s : State) (i : Nat) (f : NetPortState → NetPortState) (g : Field) (j : Nat) : rd (setPort s i f) g j = rd s g j := rfl
@[simp] theorem lv_setPort (s : State) (i : Nat) (f : NetPortState → NetPortState) (g : Field) (j : Nat) : lv (setPort s i f) g j = lv s g j := rfl

/-! ### `setInput` -/

@[simp] theorem setInput_regs (s : State) (i : Nat) (f : AfeInput → AfeInput) : (setInput s i f).regs = s.regs := rfl
@[simp] theorem setInput_live (s : State) (i : Nat) (f : AfeInput → AfeInput) : (setInput s i f).live = s.live := rfl
@[simp] theorem setInput_mem (s : State) (i : Nat) (f : AfeInput → AfeInput) : (setInput s i f).mem = s.mem := rfl
@[simp] theorem setInput_time (s : State) (i : Nat) (f : AfeInput → AfeInput) : (setInput s i f).time = s.time := rfl
@[simp] theorem setInput_net (s : State) (i : Nat) (f : AfeInput → AfeInput) : (setInput s i f).net = s.net := rfl
@[simp] theorem setInput_modes (s : State) (i : Nat) (f : AfeInput → AfeInput) : (setInput s i f).modes = s.modes := rfl
@[simp] theorem setInput_afe (s : State) (i : Nat) (f : AfeInput → AfeInput) : (setInput s i f).afe = { s.afe with inputs := upd s.afe.inputs i f } := rfl
@[simp] theorem setInput_bbl (s : State) (i : Nat) (f : AfeInput → AfeInput) : (setInput s i f).bbl = s.bbl := rfl
@[simp] theorem setInput_cnv (s : State) (i : Nat) (f : AfeInput → AfeInput) : (setInput s i f).cnv = s.cnv := rfl
@[simp] theorem setInput_chz (s : State) (i : Nat) (f : AfeInput → AfeInput) : (setInput s i f).chz = s.chz := rfl
@[simp] theorem setInput_trg (s : State) (i : Nat) (f : AfeInput → AfeInput) : (setInput s i f).trg = s.trg := rfl
@[simp] theorem setInput_evt (s : State) (i : Nat) (f : AfeInput → AfeInput) : (setInput s i f).evt = s.evt := rfl
@[simp] theorem setInput_cmp (s : State) (i : Nat) (f : AfeInput → AfeInput) : (setInput s i f).cmp = s.cmp := rfl
@[simp] theorem setInput_dah (s : State) (i : Nat) (f : AfeInput → AfeInput) : (setInput s i f).dah = s.dah := rfl
@[simp] theorem setInput_peer (s : State) (i : Nat) (f : AfeInput → AfeInput) : (setInput s i f).peer = s.peer := rfl
@[simp] theorem setInput_conc (s : State) (i : Nat) (f : AfeInput → AfeInput) : (setInput s i f).conc = s.conc := rfl
@[simp] theorem setInput_sun (s : State) (i : Nat) (f : AfeInput → AfeInput) : (setInput s i f).sun = s.sun := rfl
@[simp] theorem setInput_fst (s : State) (i : Nat) (f : AfeInput → AfeInput) : (setInput s i f).fst = s.fst := rfl
@[simp] theorem setInput_mov (s : State) (i : Nat) (f : AfeInput → AfeInput) : (setInput s i f).mov = s.mov := rfl
@[simp] theorem setInput_axl (s : State) (i : Nat) (f : AfeInput → AfeInput) : (setInput s i f).axl = s.axl := rfl
@[simp] theorem setInput_ctl (s : State) (i : Nat) (f : AfeInput → AfeInput) : (setInput s i f).ctl = s.ctl := rfl
@[simp] theorem setInput_pwr (s : State) (i : Nat) (f : AfeInput → AfeInput) : (setInput s i f).pwr = s.pwr := rfl
@[simp] theorem setInput_hk (s : State) (i : Nat) (f : AfeInput → AfeInput) : (setInput s i f).hk = s.hk := rfl
@[simp] theorem setInput_cal (s : State) (i : Nat) (f : AfeInput → AfeInput) : (setInput s i f).cal = s.cal := rfl
@[simp] theorem setInput_aon (s : State) (i : Nat) (f : AfeInput → AfeInput) : (setInput s i f).aon = s.aon := rfl
@[simp] theorem setInput_flt (s : State) (i : Nat) (f : AfeInput → AfeInput) : (setInput s i f).flt = s.flt := rfl
@[simp] theorem setInput_notes (s : State) (i : Nat) (f : AfeInput → AfeInput) : (setInput s i f).notes = s.notes := rfl
@[simp] theorem setInput_out (s : State) (i : Nat) (f : AfeInput → AfeInput) : (setInput s i f).out = s.out := rfl
@[simp] theorem setInput_free (s : State) (i : Nat) (f : AfeInput → AfeInput) : (setInput s i f).free = s.free := rfl
@[simp] theorem setInput_pending (s : State) (i : Nat) (f : AfeInput → AfeInput) : (setInput s i f).pending = s.pending := rfl
@[simp] theorem rd_setInput (s : State) (i : Nat) (f : AfeInput → AfeInput) (g : Field) (j : Nat) : rd (setInput s i f) g j = rd s g j := rfl
@[simp] theorem lv_setInput (s : State) (i : Nat) (f : AfeInput → AfeInput) (g : Field) (j : Nat) : lv (setInput s i f) g j = lv s g j := rfl

/-! ### `setLink` -/

@[simp] theorem setLink_regs (s : State) (i : Nat) (f : AxLink → AxLink) : (setLink s i f).regs = s.regs := rfl
@[simp] theorem setLink_live (s : State) (i : Nat) (f : AxLink → AxLink) : (setLink s i f).live = s.live := rfl
@[simp] theorem setLink_mem (s : State) (i : Nat) (f : AxLink → AxLink) : (setLink s i f).mem = s.mem := rfl
@[simp] theorem setLink_time (s : State) (i : Nat) (f : AxLink → AxLink) : (setLink s i f).time = s.time := rfl
@[simp] theorem setLink_net (s : State) (i : Nat) (f : AxLink → AxLink) : (setLink s i f).net = s.net := rfl
@[simp] theorem setLink_modes (s : State) (i : Nat) (f : AxLink → AxLink) : (setLink s i f).modes = s.modes := rfl
@[simp] theorem setLink_afe (s : State) (i : Nat) (f : AxLink → AxLink) : (setLink s i f).afe = s.afe := rfl
@[simp] theorem setLink_bbl (s : State) (i : Nat) (f : AxLink → AxLink) : (setLink s i f).bbl = s.bbl := rfl
@[simp] theorem setLink_cnv (s : State) (i : Nat) (f : AxLink → AxLink) : (setLink s i f).cnv = s.cnv := rfl
@[simp] theorem setLink_chz (s : State) (i : Nat) (f : AxLink → AxLink) : (setLink s i f).chz = s.chz := rfl
@[simp] theorem setLink_trg (s : State) (i : Nat) (f : AxLink → AxLink) : (setLink s i f).trg = s.trg := rfl
@[simp] theorem setLink_evt (s : State) (i : Nat) (f : AxLink → AxLink) : (setLink s i f).evt = s.evt := rfl
@[simp] theorem setLink_cmp (s : State) (i : Nat) (f : AxLink → AxLink) : (setLink s i f).cmp = s.cmp := rfl
@[simp] theorem setLink_dah (s : State) (i : Nat) (f : AxLink → AxLink) : (setLink s i f).dah = s.dah := rfl
@[simp] theorem setLink_peer (s : State) (i : Nat) (f : AxLink → AxLink) : (setLink s i f).peer = s.peer := rfl
@[simp] theorem setLink_conc (s : State) (i : Nat) (f : AxLink → AxLink) : (setLink s i f).conc = s.conc := rfl
@[simp] theorem setLink_sun (s : State) (i : Nat) (f : AxLink → AxLink) : (setLink s i f).sun = s.sun := rfl
@[simp] theorem setLink_fst (s : State) (i : Nat) (f : AxLink → AxLink) : (setLink s i f).fst = s.fst := rfl
@[simp] theorem setLink_mov (s : State) (i : Nat) (f : AxLink → AxLink) : (setLink s i f).mov = s.mov := rfl
@[simp] theorem setLink_axl (s : State) (i : Nat) (f : AxLink → AxLink) : (setLink s i f).axl = { s.axl with links := upd s.axl.links i f } := rfl
@[simp] theorem setLink_ctl (s : State) (i : Nat) (f : AxLink → AxLink) : (setLink s i f).ctl = s.ctl := rfl
@[simp] theorem setLink_pwr (s : State) (i : Nat) (f : AxLink → AxLink) : (setLink s i f).pwr = s.pwr := rfl
@[simp] theorem setLink_hk (s : State) (i : Nat) (f : AxLink → AxLink) : (setLink s i f).hk = s.hk := rfl
@[simp] theorem setLink_cal (s : State) (i : Nat) (f : AxLink → AxLink) : (setLink s i f).cal = s.cal := rfl
@[simp] theorem setLink_aon (s : State) (i : Nat) (f : AxLink → AxLink) : (setLink s i f).aon = s.aon := rfl
@[simp] theorem setLink_flt (s : State) (i : Nat) (f : AxLink → AxLink) : (setLink s i f).flt = s.flt := rfl
@[simp] theorem setLink_notes (s : State) (i : Nat) (f : AxLink → AxLink) : (setLink s i f).notes = s.notes := rfl
@[simp] theorem setLink_out (s : State) (i : Nat) (f : AxLink → AxLink) : (setLink s i f).out = s.out := rfl
@[simp] theorem setLink_free (s : State) (i : Nat) (f : AxLink → AxLink) : (setLink s i f).free = s.free := rfl
@[simp] theorem setLink_pending (s : State) (i : Nat) (f : AxLink → AxLink) : (setLink s i f).pending = s.pending := rfl
@[simp] theorem rd_setLink (s : State) (i : Nat) (f : AxLink → AxLink) (g : Field) (j : Nat) : rd (setLink s i f) g j = rd s g j := rfl
@[simp] theorem lv_setLink (s : State) (i : Nat) (f : AxLink → AxLink) (g : Field) (j : Nat) : lv (setLink s i f) g j = lv s g j := rfl

/-! ### `setAxPort` -/

@[simp] theorem setAxPort_regs (s : State) (i : Nat) (f : AxPort → AxPort) : (setAxPort s i f).regs = s.regs := rfl
@[simp] theorem setAxPort_live (s : State) (i : Nat) (f : AxPort → AxPort) : (setAxPort s i f).live = s.live := rfl
@[simp] theorem setAxPort_mem (s : State) (i : Nat) (f : AxPort → AxPort) : (setAxPort s i f).mem = s.mem := rfl
@[simp] theorem setAxPort_time (s : State) (i : Nat) (f : AxPort → AxPort) : (setAxPort s i f).time = s.time := rfl
@[simp] theorem setAxPort_net (s : State) (i : Nat) (f : AxPort → AxPort) : (setAxPort s i f).net = s.net := rfl
@[simp] theorem setAxPort_modes (s : State) (i : Nat) (f : AxPort → AxPort) : (setAxPort s i f).modes = s.modes := rfl
@[simp] theorem setAxPort_afe (s : State) (i : Nat) (f : AxPort → AxPort) : (setAxPort s i f).afe = s.afe := rfl
@[simp] theorem setAxPort_bbl (s : State) (i : Nat) (f : AxPort → AxPort) : (setAxPort s i f).bbl = s.bbl := rfl
@[simp] theorem setAxPort_cnv (s : State) (i : Nat) (f : AxPort → AxPort) : (setAxPort s i f).cnv = s.cnv := rfl
@[simp] theorem setAxPort_chz (s : State) (i : Nat) (f : AxPort → AxPort) : (setAxPort s i f).chz = s.chz := rfl
@[simp] theorem setAxPort_trg (s : State) (i : Nat) (f : AxPort → AxPort) : (setAxPort s i f).trg = s.trg := rfl
@[simp] theorem setAxPort_evt (s : State) (i : Nat) (f : AxPort → AxPort) : (setAxPort s i f).evt = s.evt := rfl
@[simp] theorem setAxPort_cmp (s : State) (i : Nat) (f : AxPort → AxPort) : (setAxPort s i f).cmp = s.cmp := rfl
@[simp] theorem setAxPort_dah (s : State) (i : Nat) (f : AxPort → AxPort) : (setAxPort s i f).dah = s.dah := rfl
@[simp] theorem setAxPort_peer (s : State) (i : Nat) (f : AxPort → AxPort) : (setAxPort s i f).peer = s.peer := rfl
@[simp] theorem setAxPort_conc (s : State) (i : Nat) (f : AxPort → AxPort) : (setAxPort s i f).conc = s.conc := rfl
@[simp] theorem setAxPort_sun (s : State) (i : Nat) (f : AxPort → AxPort) : (setAxPort s i f).sun = s.sun := rfl
@[simp] theorem setAxPort_fst (s : State) (i : Nat) (f : AxPort → AxPort) : (setAxPort s i f).fst = s.fst := rfl
@[simp] theorem setAxPort_mov (s : State) (i : Nat) (f : AxPort → AxPort) : (setAxPort s i f).mov = s.mov := rfl
@[simp] theorem setAxPort_axl (s : State) (i : Nat) (f : AxPort → AxPort) : (setAxPort s i f).axl = { s.axl with ports := upd s.axl.ports i f } := rfl
@[simp] theorem setAxPort_ctl (s : State) (i : Nat) (f : AxPort → AxPort) : (setAxPort s i f).ctl = s.ctl := rfl
@[simp] theorem setAxPort_pwr (s : State) (i : Nat) (f : AxPort → AxPort) : (setAxPort s i f).pwr = s.pwr := rfl
@[simp] theorem setAxPort_hk (s : State) (i : Nat) (f : AxPort → AxPort) : (setAxPort s i f).hk = s.hk := rfl
@[simp] theorem setAxPort_cal (s : State) (i : Nat) (f : AxPort → AxPort) : (setAxPort s i f).cal = s.cal := rfl
@[simp] theorem setAxPort_aon (s : State) (i : Nat) (f : AxPort → AxPort) : (setAxPort s i f).aon = s.aon := rfl
@[simp] theorem setAxPort_flt (s : State) (i : Nat) (f : AxPort → AxPort) : (setAxPort s i f).flt = s.flt := rfl
@[simp] theorem setAxPort_notes (s : State) (i : Nat) (f : AxPort → AxPort) : (setAxPort s i f).notes = s.notes := rfl
@[simp] theorem setAxPort_out (s : State) (i : Nat) (f : AxPort → AxPort) : (setAxPort s i f).out = s.out := rfl
@[simp] theorem setAxPort_free (s : State) (i : Nat) (f : AxPort → AxPort) : (setAxPort s i f).free = s.free := rfl
@[simp] theorem setAxPort_pending (s : State) (i : Nat) (f : AxPort → AxPort) : (setAxPort s i f).pending = s.pending := rfl
@[simp] theorem rd_setAxPort (s : State) (i : Nat) (f : AxPort → AxPort) (g : Field) (j : Nat) : rd (setAxPort s i f) g j = rd s g j := rfl
@[simp] theorem lv_setAxPort (s : State) (i : Nat) (f : AxPort → AxPort) (g : Field) (j : Nat) : lv (setAxPort s i f) g j = lv s g j := rfl

/-! ### `setRing` -/

@[simp] theorem setRing_regs (s : State) (i : Nat) (f : DmaRing → DmaRing) : (setRing s i f).regs = s.regs := rfl
@[simp] theorem setRing_live (s : State) (i : Nat) (f : DmaRing → DmaRing) : (setRing s i f).live = s.live := rfl
@[simp] theorem setRing_mem (s : State) (i : Nat) (f : DmaRing → DmaRing) : (setRing s i f).mem = s.mem := rfl
@[simp] theorem setRing_time (s : State) (i : Nat) (f : DmaRing → DmaRing) : (setRing s i f).time = s.time := rfl
@[simp] theorem setRing_net (s : State) (i : Nat) (f : DmaRing → DmaRing) : (setRing s i f).net = s.net := rfl
@[simp] theorem setRing_modes (s : State) (i : Nat) (f : DmaRing → DmaRing) : (setRing s i f).modes = s.modes := rfl
@[simp] theorem setRing_afe (s : State) (i : Nat) (f : DmaRing → DmaRing) : (setRing s i f).afe = s.afe := rfl
@[simp] theorem setRing_bbl (s : State) (i : Nat) (f : DmaRing → DmaRing) : (setRing s i f).bbl = s.bbl := rfl
@[simp] theorem setRing_cnv (s : State) (i : Nat) (f : DmaRing → DmaRing) : (setRing s i f).cnv = s.cnv := rfl
@[simp] theorem setRing_chz (s : State) (i : Nat) (f : DmaRing → DmaRing) : (setRing s i f).chz = s.chz := rfl
@[simp] theorem setRing_trg (s : State) (i : Nat) (f : DmaRing → DmaRing) : (setRing s i f).trg = s.trg := rfl
@[simp] theorem setRing_evt (s : State) (i : Nat) (f : DmaRing → DmaRing) : (setRing s i f).evt = s.evt := rfl
@[simp] theorem setRing_cmp (s : State) (i : Nat) (f : DmaRing → DmaRing) : (setRing s i f).cmp = s.cmp := rfl
@[simp] theorem setRing_dah (s : State) (i : Nat) (f : DmaRing → DmaRing) : (setRing s i f).dah = s.dah := rfl
@[simp] theorem setRing_peer (s : State) (i : Nat) (f : DmaRing → DmaRing) : (setRing s i f).peer = s.peer := rfl
@[simp] theorem setRing_conc (s : State) (i : Nat) (f : DmaRing → DmaRing) : (setRing s i f).conc = s.conc := rfl
@[simp] theorem setRing_sun (s : State) (i : Nat) (f : DmaRing → DmaRing) : (setRing s i f).sun = s.sun := rfl
@[simp] theorem setRing_fst (s : State) (i : Nat) (f : DmaRing → DmaRing) : (setRing s i f).fst = s.fst := rfl
@[simp] theorem setRing_mov (s : State) (i : Nat) (f : DmaRing → DmaRing) : (setRing s i f).mov = { s.mov with rings := upd s.mov.rings i f } := rfl
@[simp] theorem setRing_axl (s : State) (i : Nat) (f : DmaRing → DmaRing) : (setRing s i f).axl = s.axl := rfl
@[simp] theorem setRing_ctl (s : State) (i : Nat) (f : DmaRing → DmaRing) : (setRing s i f).ctl = s.ctl := rfl
@[simp] theorem setRing_pwr (s : State) (i : Nat) (f : DmaRing → DmaRing) : (setRing s i f).pwr = s.pwr := rfl
@[simp] theorem setRing_hk (s : State) (i : Nat) (f : DmaRing → DmaRing) : (setRing s i f).hk = s.hk := rfl
@[simp] theorem setRing_cal (s : State) (i : Nat) (f : DmaRing → DmaRing) : (setRing s i f).cal = s.cal := rfl
@[simp] theorem setRing_aon (s : State) (i : Nat) (f : DmaRing → DmaRing) : (setRing s i f).aon = s.aon := rfl
@[simp] theorem setRing_flt (s : State) (i : Nat) (f : DmaRing → DmaRing) : (setRing s i f).flt = s.flt := rfl
@[simp] theorem setRing_notes (s : State) (i : Nat) (f : DmaRing → DmaRing) : (setRing s i f).notes = s.notes := rfl
@[simp] theorem setRing_out (s : State) (i : Nat) (f : DmaRing → DmaRing) : (setRing s i f).out = s.out := rfl
@[simp] theorem setRing_free (s : State) (i : Nat) (f : DmaRing → DmaRing) : (setRing s i f).free = s.free := rfl
@[simp] theorem setRing_pending (s : State) (i : Nat) (f : DmaRing → DmaRing) : (setRing s i f).pending = s.pending := rfl
@[simp] theorem rd_setRing (s : State) (i : Nat) (f : DmaRing → DmaRing) (g : Field) (j : Nat) : rd (setRing s i f) g j = rd s g j := rfl
@[simp] theorem lv_setRing (s : State) (i : Nat) (f : DmaRing → DmaRing) (g : Field) (j : Nat) : lv (setRing s i f) g j = lv s g j := rfl

/-! ### `setMail` -/

@[simp] theorem setMail_regs (s : State) (i : Nat) (f : Mailbox → Mailbox) : (setMail s i f).regs = s.regs := rfl
@[simp] theorem setMail_live (s : State) (i : Nat) (f : Mailbox → Mailbox) : (setMail s i f).live = s.live := rfl
@[simp] theorem setMail_mem (s : State) (i : Nat) (f : Mailbox → Mailbox) : (setMail s i f).mem = s.mem := rfl
@[simp] theorem setMail_time (s : State) (i : Nat) (f : Mailbox → Mailbox) : (setMail s i f).time = s.time := rfl
@[simp] theorem setMail_net (s : State) (i : Nat) (f : Mailbox → Mailbox) : (setMail s i f).net = s.net := rfl
@[simp] theorem setMail_modes (s : State) (i : Nat) (f : Mailbox → Mailbox) : (setMail s i f).modes = s.modes := rfl
@[simp] theorem setMail_afe (s : State) (i : Nat) (f : Mailbox → Mailbox) : (setMail s i f).afe = s.afe := rfl
@[simp] theorem setMail_bbl (s : State) (i : Nat) (f : Mailbox → Mailbox) : (setMail s i f).bbl = s.bbl := rfl
@[simp] theorem setMail_cnv (s : State) (i : Nat) (f : Mailbox → Mailbox) : (setMail s i f).cnv = s.cnv := rfl
@[simp] theorem setMail_chz (s : State) (i : Nat) (f : Mailbox → Mailbox) : (setMail s i f).chz = s.chz := rfl
@[simp] theorem setMail_trg (s : State) (i : Nat) (f : Mailbox → Mailbox) : (setMail s i f).trg = s.trg := rfl
@[simp] theorem setMail_evt (s : State) (i : Nat) (f : Mailbox → Mailbox) : (setMail s i f).evt = s.evt := rfl
@[simp] theorem setMail_cmp (s : State) (i : Nat) (f : Mailbox → Mailbox) : (setMail s i f).cmp = s.cmp := rfl
@[simp] theorem setMail_dah (s : State) (i : Nat) (f : Mailbox → Mailbox) : (setMail s i f).dah = s.dah := rfl
@[simp] theorem setMail_peer (s : State) (i : Nat) (f : Mailbox → Mailbox) : (setMail s i f).peer = s.peer := rfl
@[simp] theorem setMail_conc (s : State) (i : Nat) (f : Mailbox → Mailbox) : (setMail s i f).conc = s.conc := rfl
@[simp] theorem setMail_sun (s : State) (i : Nat) (f : Mailbox → Mailbox) : (setMail s i f).sun = s.sun := rfl
@[simp] theorem setMail_fst (s : State) (i : Nat) (f : Mailbox → Mailbox) : (setMail s i f).fst = s.fst := rfl
@[simp] theorem setMail_mov (s : State) (i : Nat) (f : Mailbox → Mailbox) : (setMail s i f).mov = s.mov := rfl
@[simp] theorem setMail_axl (s : State) (i : Nat) (f : Mailbox → Mailbox) : (setMail s i f).axl = s.axl := rfl
@[simp] theorem setMail_ctl (s : State) (i : Nat) (f : Mailbox → Mailbox) : (setMail s i f).ctl = { s.ctl with mailboxes := upd s.ctl.mailboxes i f } := rfl
@[simp] theorem setMail_pwr (s : State) (i : Nat) (f : Mailbox → Mailbox) : (setMail s i f).pwr = s.pwr := rfl
@[simp] theorem setMail_hk (s : State) (i : Nat) (f : Mailbox → Mailbox) : (setMail s i f).hk = s.hk := rfl
@[simp] theorem setMail_cal (s : State) (i : Nat) (f : Mailbox → Mailbox) : (setMail s i f).cal = s.cal := rfl
@[simp] theorem setMail_aon (s : State) (i : Nat) (f : Mailbox → Mailbox) : (setMail s i f).aon = s.aon := rfl
@[simp] theorem setMail_flt (s : State) (i : Nat) (f : Mailbox → Mailbox) : (setMail s i f).flt = s.flt := rfl
@[simp] theorem setMail_notes (s : State) (i : Nat) (f : Mailbox → Mailbox) : (setMail s i f).notes = s.notes := rfl
@[simp] theorem setMail_out (s : State) (i : Nat) (f : Mailbox → Mailbox) : (setMail s i f).out = s.out := rfl
@[simp] theorem setMail_free (s : State) (i : Nat) (f : Mailbox → Mailbox) : (setMail s i f).free = s.free := rfl
@[simp] theorem setMail_pending (s : State) (i : Nat) (f : Mailbox → Mailbox) : (setMail s i f).pending = s.pending := rfl
@[simp] theorem rd_setMail (s : State) (i : Nat) (f : Mailbox → Mailbox) (g : Field) (j : Nat) : rd (setMail s i f) g j = rd s g j := rfl
@[simp] theorem lv_setMail (s : State) (i : Nat) (f : Mailbox → Mailbox) (g : Field) (j : Nat) : lv (setMail s i f) g j = lv s g j := rfl

/-! ### `setString` -/

@[simp] theorem setString_regs (s : State) (i : Nat) (f : CalString → CalString) : (setString s i f).regs = s.regs := rfl
@[simp] theorem setString_live (s : State) (i : Nat) (f : CalString → CalString) : (setString s i f).live = s.live := rfl
@[simp] theorem setString_mem (s : State) (i : Nat) (f : CalString → CalString) : (setString s i f).mem = s.mem := rfl
@[simp] theorem setString_time (s : State) (i : Nat) (f : CalString → CalString) : (setString s i f).time = s.time := rfl
@[simp] theorem setString_net (s : State) (i : Nat) (f : CalString → CalString) : (setString s i f).net = s.net := rfl
@[simp] theorem setString_modes (s : State) (i : Nat) (f : CalString → CalString) : (setString s i f).modes = s.modes := rfl
@[simp] theorem setString_afe (s : State) (i : Nat) (f : CalString → CalString) : (setString s i f).afe = s.afe := rfl
@[simp] theorem setString_bbl (s : State) (i : Nat) (f : CalString → CalString) : (setString s i f).bbl = s.bbl := rfl
@[simp] theorem setString_cnv (s : State) (i : Nat) (f : CalString → CalString) : (setString s i f).cnv = s.cnv := rfl
@[simp] theorem setString_chz (s : State) (i : Nat) (f : CalString → CalString) : (setString s i f).chz = s.chz := rfl
@[simp] theorem setString_trg (s : State) (i : Nat) (f : CalString → CalString) : (setString s i f).trg = s.trg := rfl
@[simp] theorem setString_evt (s : State) (i : Nat) (f : CalString → CalString) : (setString s i f).evt = s.evt := rfl
@[simp] theorem setString_cmp (s : State) (i : Nat) (f : CalString → CalString) : (setString s i f).cmp = s.cmp := rfl
@[simp] theorem setString_dah (s : State) (i : Nat) (f : CalString → CalString) : (setString s i f).dah = s.dah := rfl
@[simp] theorem setString_peer (s : State) (i : Nat) (f : CalString → CalString) : (setString s i f).peer = s.peer := rfl
@[simp] theorem setString_conc (s : State) (i : Nat) (f : CalString → CalString) : (setString s i f).conc = s.conc := rfl
@[simp] theorem setString_sun (s : State) (i : Nat) (f : CalString → CalString) : (setString s i f).sun = s.sun := rfl
@[simp] theorem setString_fst (s : State) (i : Nat) (f : CalString → CalString) : (setString s i f).fst = s.fst := rfl
@[simp] theorem setString_mov (s : State) (i : Nat) (f : CalString → CalString) : (setString s i f).mov = s.mov := rfl
@[simp] theorem setString_axl (s : State) (i : Nat) (f : CalString → CalString) : (setString s i f).axl = s.axl := rfl
@[simp] theorem setString_ctl (s : State) (i : Nat) (f : CalString → CalString) : (setString s i f).ctl = s.ctl := rfl
@[simp] theorem setString_pwr (s : State) (i : Nat) (f : CalString → CalString) : (setString s i f).pwr = s.pwr := rfl
@[simp] theorem setString_hk (s : State) (i : Nat) (f : CalString → CalString) : (setString s i f).hk = s.hk := rfl
@[simp] theorem setString_cal (s : State) (i : Nat) (f : CalString → CalString) : (setString s i f).cal = { s.cal with strings := upd s.cal.strings i f } := rfl
@[simp] theorem setString_aon (s : State) (i : Nat) (f : CalString → CalString) : (setString s i f).aon = s.aon := rfl
@[simp] theorem setString_flt (s : State) (i : Nat) (f : CalString → CalString) : (setString s i f).flt = s.flt := rfl
@[simp] theorem setString_notes (s : State) (i : Nat) (f : CalString → CalString) : (setString s i f).notes = s.notes := rfl
@[simp] theorem setString_out (s : State) (i : Nat) (f : CalString → CalString) : (setString s i f).out = s.out := rfl
@[simp] theorem setString_free (s : State) (i : Nat) (f : CalString → CalString) : (setString s i f).free = s.free := rfl
@[simp] theorem setString_pending (s : State) (i : Nat) (f : CalString → CalString) : (setString s i f).pending = s.pending := rfl
@[simp] theorem rd_setString (s : State) (i : Nat) (f : CalString → CalString) (g : Field) (j : Nat) : rd (setString s i f) g j = rd s g j := rfl
@[simp] theorem lv_setString (s : State) (i : Nat) (f : CalString → CalString) (g : Field) (j : Nat) : lv (setString s i f) g j = lv s g j := rfl

end Sys2Proof.Machine
end

