-- ==== Sys2Proof/Laws/Facts.lean ====
section
/-! SUPPORT. What the shared operations leave in the fields that most later statements read: the mode and phase shown,
the state of a domain, and the entry of a fault that was raised. -/

namespace Sys2Proof

open Sys2Proof.Machine

theorem ofCode_code (m : Mode) : Mode.ofCode m.code = m := by cases m <;> rfl

theorem code_ofCode (n : Nat) (h : n ≤ 11) : (Mode.ofCode n).code = n := by
  interval_cases n <;> rfl

theorem code_mod16 (m : Mode) : m.code % 16 = m.code := by cases m <;> rfl

theorem phase_setPhase (s : State) (p : Phase) : phaseOf (setPhase s p) = p := by
  unfold phaseOf setPhase; rw [rd_wr_same]; cases p <;> rfl

theorem modeOf_congr {s t : State} (h : rd s Obj.MODE_STATE.CURRENT = rd t Obj.MODE_STATE.CURRENT) :
    modeOf s = modeOf t := by
  unfold modeOf; rw [h]

theorem phaseOf_congr {s t : State} (h : rd s Obj.MODE_STATE.PHASE = rd t Obj.MODE_STATE.PHASE) :
    phaseOf s = phaseOf t := by
  unfold phaseOf; rw [h]

theorem modeTarget_congr {s t : State} (h : rd s Obj.MODE_STATE.TARGET = rd t Obj.MODE_STATE.TARGET) :
    modeTarget s = modeTarget t := by
  unfold modeTarget; rw [h]

/-- A field that no step of a fold changes. -/
theorem foldl_rd {α} (g : State → α → State) (f : Field) (l : List α) (s : State) (h : ∀ t x, rd (g t x) f = rd t f) :
    rd (l.foldl g s) f = rd s f := by
  induction l generalizing s with
  | nil => rfl
  | cons x l ih => exact (ih _).trans (h _ _)

theorem setDom_doms (s : State) (d v : Nat) : (setDom s d v).pwr.doms = mapSet s.pwr.doms d (v ^^^ idleDomain d) := by
  unfold setDom
  dsimp only
  split <;> rfl

/-- A domain set to a state is in it. -/
theorem domState_setDom (s : State) (d v : Nat) : domState (setDom s d v) d = v := by
  unfold domState
  rw [setDom_doms, mapGet_mapSet]; simp

theorem logFault_active (s : State) (c i e k a : Nat) : (logFault s c i e k a).flt.active = s.flt.active := by
  unfold logFault
  dsimp only
  have h1 : ∀ (x : State) (q k : Nat), (lossyLost x q k).flt = x.flt := fun x q k => (touches_lossyLost (Touches.refl [.notes, .obj 0x0C06] x) _ _ (by decide)).1 .flt (by decide)
  have h2 : ∀ (x : State) (q k a b : Nat), (lossyShow x q k a b).flt = x.flt := fun x q k a b => (touches_lossyShow (Touches.refl [.notes, .obj 0x0C06] x) _ _ _ _ (by decide)).1 .flt (by decide)
  rw [h1, h2]

theorem any_updFirst {α} (p q : α → Bool) (f : α → α) (hf : ∀ x, q (f x) = q x) : ∀ l : List α, (updFirst p f l).any q = l.any q
  | [] => rfl
  | x :: t => by
    unfold updFirst
    split
    · simp [hf]
    · simp [any_updFirst p q f hf t]

/-- A fault is active where some active entry has its code and instance. -/
theorem faultActive_any (s : State) (c i : Nat) : faultActive s c i = s.flt.active.any (fun x => x.code == c && x.inst == i) := by
  unfold faultActive findFault
  induction s.flt.active with
  | nil => rfl
  | cons x l ih =>
    rw [List.find?_cons, List.any_cons]
    cases hx : (x.code == c && x.inst == i) with
    | true => simp
    | false => simpa using ih

/-- Raising an entry makes that fault active and leaves the others as they are. -/
theorem raiseEntry_any (s : State) (c i a b d c' i' : Nat) :
    faultActive (raiseEntry s c' i' a b d) c i = (faultActive s c i || (c' == c && i' == i)) := by
  unfold raiseEntry
  split
  · rename_i h
    rw [faultActive_any, faultActive_any]
    dsimp only
    rw [any_updFirst]
    · cases hh : (c' == c && i' == i) with
      | false => simp
      | true =>
        simp only [Bool.and_eq_true, beq_iff_eq] at hh
        rw [faultActive_any, hh.1, hh.2] at h
        simp [h]
    · intro x; rfl
  · have hn : ∀ (x : State) (bb : NoticeBody), (notice x bb).flt = x.flt := fun x bb => rfl
    rw [faultActive_any, hn, logFault_active, faultActive_any]
    simp

/-- A fault raised while the active list has room is active. -/
theorem raise_active (s : State) (code inst a b : Nat) (h : s.flt.active.length < 1024) : faultActive (raise s code inst a b) code inst = true := by
  unfold raise raiseDetail
  dsimp only
  have e : (faultActive s code inst || decide (s.flt.active.length < 1024)) = true := by simp [h]
  rw [if_pos e]
  have k : faultActive (logWatched s (raiseEntry s code inst a b (detailOf s a b))) code inst = true := by
    unfold logWatched
    split
    · rw [raiseEntry_any]; simp
    · rw [raiseEntry_any, raiseEntry_any]; simp
  split
  · unfold faultActive findFault
    rw [show (forceIdle _ _ _).flt = _ from (touches_forceIdle (Touches.refl [.modes, .obj 0x1011] _) _ _ (by decide)).1 .flt (by decide)]
    exact k
  · exact k

end Sys2Proof
end

