-- ==== Sys2Proof/Laws/Stream.lean ====
section
/-! SUPPORT. What each operation of `Machine/Stream.lean` may change. -/

namespace Sys2Proof

open Sys2Proof.Machine

theorem touches_wordSums {ps : List Part} {r s0 : State} (h : Touches ps r s0) (a0 : Nat) (a1 : List InputWord)
    (hp : ∀ p ∈ ([.afe, .cnv] : List Part), p.within ps = true) : Touches ps r (wordSums s0 a0 a1) := by
  unfold wordSums
  repeat' first
    | with_reducible assumption | with_reducible apply touches_setInput
    | with_reducible apply touches_gatherWord | with_reducible apply touches_blockCounts
    | with_reducible apply touches_wrPairs | with_reducible refine Touches.foldl _ _ ?_ (fun _ _ _ => ?_)
    | split | fail_if_no_progress extract_lets | dsimp +zetaDelta only | refine List.forall_mem_cons.2 ⟨?_, ?_⟩
    | exact List.forall_mem_nil _ | exact sub hp (by decide) | exact hp _ (by decide)

theorem touches_wordMarks {ps : List Part} {r s0 : State} (h : Touches ps r s0) (a0 : List InputWord)
    (hp : ∀ p ∈ ([.bbl] : List Part), p.within ps = true) : Touches ps r (wordMarks s0 a0) := by
  unfold wordMarks
  repeat' first
    | with_reducible assumption | with_reducible apply touches_setBbl | with_reducible apply touches_wrPairs
    | with_reducible refine Touches.foldl _ _ ?_ (fun _ _ _ => ?_) | split | fail_if_no_progress extract_lets
    | dsimp +zetaDelta only | refine List.forall_mem_cons.2 ⟨?_, ?_⟩ | exact List.forall_mem_nil _
    | exact sub hp (by decide) | exact hp _ (by decide)

theorem touches_converterWords {ps : List Part} {r s0 : State} (h : Touches ps r s0) (a0 : WordIn)
    (hp : ∀ p ∈ ([.afe, .axl, .bbl, .cnv, .ctl, .evt, .flt, .mem, .mov, .notes, .out, .peer, .pwr, .trg, .obj 0x0506, .obj 0x0508, .obj 0x0509, .obj 0x0A04, .obj 0x0C06, .obj 0x0D05] : List Part), p.within ps = true) : Touches ps r (converterWords s0 a0) := by
  unfold converterWords
  repeat' first
    | with_reducible assumption | with_reducible apply touches_wordMarks | with_reducible apply touches_wordSums
    | with_reducible apply touches_pushReduced | with_reducible apply touches_pushWords
    | with_reducible apply touches_noteClean | with_reducible apply touches_captureDone
    | with_reducible apply touches_captureWord | with_reducible apply touches_setMov
    | with_reducible apply touches_softJudged | with_reducible apply touches_triggerWord
    | with_reducible apply touches_wrPairs | with_reducible refine Touches.foldl _ _ ?_ (fun _ _ _ => ?_)
    | split | fail_if_no_progress extract_lets | dsimp +zetaDelta only | refine List.forall_mem_cons.2 ⟨?_, ?_⟩
    | exact List.forall_mem_nil _ | exact sub hp (by decide) | exact hp _ (by decide)

theorem touches_receiverFrame {ps : List Part} {r s0 : State} (h : Touches ps r s0) (a0 : Nat)
    (hp : ∀ p ∈ ([.afe, .cnv, .live, .obj 0x0103, .obj 0x0106] : List Part), p.within ps = true) : Touches ps r (receiverFrame s0 a0) := by
  unfold receiverFrame
  repeat' first
    | with_reducible assumption | with_reducible apply touches_setInput | with_reducible apply touches_afeFrame
    | with_reducible apply touches_arcBoundary | with_reducible apply touches_frameCorrections
    | with_reducible apply touches_wrPairs | with_reducible refine Touches.foldl _ _ ?_ (fun _ _ _ => ?_)
    | split | fail_if_no_progress extract_lets | with_reducible apply touches_part_afe | dsimp +zetaDelta only
    | refine List.forall_mem_cons.2 ⟨?_, ?_⟩ | exact List.forall_mem_nil _ | exact sub hp (by decide)
    | exact hp _ (by decide)

theorem touches_converterBoundary {ps : List Part} {r s0 : State} (h : Touches ps r s0) (a0 : List Nat)
    (hp : ∀ p ∈ ([.cnv, .flt, .live, .notes, .obj 0x0301, .obj 0x0302, .obj 0x0C06] : List Part), p.within ps = true) : Touches ps r (converterBoundary s0 a0) := by
  unfold converterBoundary
  repeat' first
    | with_reducible assumption | with_reducible apply touches_latch
    | with_reducible apply touches_converterCounts | with_reducible apply touches_converterBlock
    | with_reducible apply touches_wrFields | with_reducible apply touches_wrPairs
    | with_reducible refine Touches.foldl _ _ ?_ (fun _ _ _ => ?_) | split | fail_if_no_progress extract_lets
    | dsimp +zetaDelta only | refine List.forall_mem_cons.2 ⟨?_, ?_⟩ | exact List.forall_mem_nil _
    | exact sub hp (by decide) | exact hp _ (by decide)

theorem touches_channelizerBoundary {ps : List Part} {r s0 : State} (h : Touches ps r s0)
    (hp : ∀ p ∈ ([.chz, .flt, .live, .sun, .obj 0x0406, .obj 0x0907] : List Part), p.within ps = true) : Touches ps r (channelizerBoundary s0) := by
  unfold channelizerBoundary
  repeat' first
    | with_reducible assumption | with_reducible apply touches_latch | with_reducible apply touches_sunBlock
    | with_reducible apply touches_idleChanges | with_reducible apply touches_wrFields
    | with_reducible apply touches_wrPairs | with_reducible refine Touches.foldl _ _ ?_ (fun _ _ _ => ?_)
    | split | fail_if_no_progress extract_lets | dsimp +zetaDelta only | refine List.forall_mem_cons.2 ⟨?_, ?_⟩
    | exact List.forall_mem_nil _ | exact sub hp (by decide) | exact hp _ (by decide)

theorem touches_stopStreams {ps : List Part} {r s0 : State} (h : Touches ps r s0)
    (hp : ∀ p ∈ ([.chz, .sun, .obj 0x0907] : List Part), p.within ps = true) : Touches ps r (stopStreams s0) := by
  unfold stopStreams
  repeat' first
    | with_reducible assumption | with_reducible apply touches_chzStop | with_reducible apply touches_sunStop
    | with_reducible apply touches_wrPairs | with_reducible refine Touches.foldl _ _ ?_ (fun _ _ _ => ?_)
    | split | fail_if_no_progress extract_lets | dsimp +zetaDelta only | refine List.forall_mem_cons.2 ⟨?_, ?_⟩
    | exact List.forall_mem_nil _ | exact sub hp (by decide) | exact hp _ (by decide)

end Sys2Proof
end

