-- ==== Sys2Proof/Laws/TimeEvents.lean ====
section
/-! SUPPORT. What each operation of `Machine/TimeEvents.lean` may change. -/

namespace Sys2Proof

open Sys2Proof.Machine

theorem touches_cmpAction {ps : List Part} {r s0 : State} (h : Touches ps r s0) (a0 : Nat) (a1 : Nat) (a2 : Nat) (a3 : Nat)
    (hp : ∀ p ∈ ([.cal, .dah, .flt, .hk, .live, .notes, .out, .pwr, .sun, .trg, .obj 0x0705, .obj 0x0907, .obj 0x0A04, .obj 0x0C06, .obj 0x0E06, .obj 0x1011, .obj 0x1204, .obj 0x1304] : List Part), p.within ps = true) : Touches ps r (cmpAction s0 a0 a1 a2 a3) := by
  unfold cmpAction
  repeat' first
    | with_reducible assumption | with_reducible apply touches_addCondition
    | with_reducible apply touches_cmpMissed | with_reducible apply touches_acceptStart
    | with_reducible apply touches_sunComparator | with_reducible apply touches_planStart
    | with_reducible apply touches_hkRequest | with_reducible apply touches_wrPairs
    | with_reducible refine Touches.foldl _ _ ?_ (fun _ _ _ => ?_) | split | fail_if_no_progress extract_lets
    | dsimp +zetaDelta only | refine List.forall_mem_cons.2 ⟨?_, ?_⟩ | exact List.forall_mem_nil _
    | exact sub hp (by decide) | exact hp _ (by decide)

end Sys2Proof
end

