-- ==== Sys2Proof/Tests/Slice0.lean ====
section
/-! SUPPORT. Tests: the examples of the spec, ill-formed commands, and for each statement states and
operands that meet its hypotheses (`test_meets_<statement>`, clause by clause in the order of the statement; most clauses show the conclusion as well). -/

namespace Sys2Proof.Tests

open Sys2Proof.Machine

-- one kernel evaluation at a time
set_option Elab.async false

/-- What a command answers, looked at: false where it does not answer a next state. -/
def after (o : Host.Outcome State Fault Refusal) (p : State → Bool) : Bool :=
  match o with
  | .next t => p t
  | _ => false

/-- Reset, in mode m. -/
def inMode (m : Mode) (s : State := State.reset) : State := wr s Obj.MODE_STATE.CURRENT 0 m.code

/-- A transition towards m stands in phase p. -/
def toward (p : Phase) (m : Mode) (s : State) : State := wr (setPhase s p) Obj.MODE_STATE.TARGET 0 m.code

/-- RC64 stands at n. -/
def atTick (n : Nat) (s : State) : State := setTime s (fun x => { x with rc64 := n })

/-- Field f of copy i holds v. -/
def having (f : Field) (i v : Nat) (s : State) : State := wr s f i v

/-- Field f of copy i is in force with v. -/
def inForce (f : Field) (i v : Nat) (s : State) : State := setLive s f i v

/-- Domain d is in state v. -/
def domIs (d v : Nat) (s : State) : State := setDom s d v

/-- The domains are ON. -/
def powered (ds : List Nat) (s : State) : State := ds.foldl (fun s d => setDom s d 2) s

/-- A frozen window of two segments. -/
def aWindow : Window :=
  { newWindow State.reset 4000 0 1 0 with pAct := 1, q := 1, segs := [3, 4], frozenAt := some 0, credit := true }

/-- A record with serial 1. -/
def aRecord : TrigRecord := ⟨1, 1, 0, 0, 100, 0, 0, 0, 0, 0, 0, 0, 0, 0, 0, 300⟩

/-- A fragment with serial 1 that waits to be sent through ring 5. -/
def aFragment : Fragment :=
  { serial := 1, record := aRecord, windowId := 0, state := .pending, off := 0, size := 4264, code := 8, keepGroup := 1,
    zs := false, minSnr := 0, zsInput := [], predEn := 0, cells := [], blocks := [], toCode := 0, window := none,
    bytes := List.replicate 40 1, ship := ⟨0, 5, 0, 0⟩, offers := 0, rejected := false }

/-- The event stage holds fragment f. -/
def holding (f : Fragment) (s : State := State.reset) : State := setEvt s (fun e => { e with frags := [f] })

/-- Ring r is of a kind, and `TAIL` stands at n. -/
def ringWith (r kind tail : Nat) (s : State := State.reset) : State :=
  wr (wr s Obj.MOV_RING.KIND r kind) Obj.MOV_RING_STATUS.TAIL r tail

/-- An event context with one contribution of device 2. -/
def aContext (p : ContextPhase) : EventContext :=
  { phase := p, timeFirst := 1, openedAt := 0, untimed := false, parts := [⟨2, 9, 1, 1, none, 4, false⟩], gid := 0,
    expected := 0, incomplete := false, lateJoined := false, l3 := 0, spanPs := 0, cfg := [] }

/-- Port p of Axrel is up with link state 6. -/
def linked (l : Nat) (s : State := State.reset) : State :=
  wr (wr (wr s Obj.AXL_PORT_STATUS.UP l 1) Obj.AXL_LINK_STATUS.STATE l 6) Obj.AXL_LINK_STATUS.LOCKED l 3

/-- A request that has just been accepted. -/
def request (op : Nat) (payload : Bytes) : Request := ⟨op, true, 9, payload, 0, false, 0, []⟩

/-- Request r waits alone in mailbox 7. -/
def asked (r : Request) (s : State := State.reset) : State := setMail s 7 (fun x => { x with queue := [r] })

/-- The last completion of mailbox 7: its status and its payload. -/
def answered (t : State) : Option (Nat × Bytes) :=
  (mailOf t 7).done.getLast?.map (fun c => (c.response.status, c.response.payload))

/-- Domain 393 has been asked to sleep. -/
def askedToSleep (q : SleepReq) (s : State := State.reset) : State := setPwr s (fun p => { p with sleeps := [q] })

/-- An integration sequence of one block and 64 channels that starts at spectrum n. -/
def aSeq (n : Nat) : DahSeq := ⟨0, n, 1, 0, 0, 0, 0, 0, false, 0, 0, 64, 0⟩

/-- Dahlia has started in Image. -/
def correlating (f : DahliaState → DahliaState) : State := setDah (inMode .image) (fun d => f { d with started := true })

/-- Stage p of the peer stage, in Peer. -/
def peering (p : Nat) : State := having Obj.PEER_STATUS.STATE 0 p (inMode .peer)

/-- Request r of mailbox 7 has committed between s and t. -/
def committed (s t : State) (r : Request) (status : Nat) (payload : Bytes) : Bool :=
  decide ((mailOf t 7).queue = []
    ∧ (mailOf t 7).done = (mailOf s 7).done
        ++ [⟨r.opcode, 7, r.seq, 0, r.irq, r.acceptRc64, ⟨status, commitTick s, payload⟩⟩]
    ∧ t.ctl.lastDone = commitTick s)

/-! ### The spec's own examples: every expected value stands in the spec -/

/-- Scope, "Example: a TS96 value in a record". -/
theorem test_ts96_example : leBytes 12 (ts96OfPs (1780000000123456789250 : Int) + 3)
    = [0x03, 0xFA, 0x54, 0x34, 0x6F, 0x1D, 0x00, 0xA5, 0x18, 0x6A, 0x00, 0x00] := by decide +kernel

/-- R83: the first group of cells of a table. -/
theorem test_cell_group_example : leBytes 8 ((0xFA057F3 + 2 ^ 28 * 0x04FE801 + 2 ^ 56 * 0x0000800) % 2 ^ 64)
    = [0xF3, 0x57, 0xA0, 0x1F, 0x80, 0xFE, 0x04, 0x00] := by decide +kernel

/-- R94: a converter capture record. -/
theorem test_capture_record_example :
    captureRecord ⟨[3, -3, 7, -7, 10, -12, 5, -1, 2, 0, -4, 6, -9, 11, -2, 1], 0, 0x00FF, false, false⟩ 12 0x07A12002
    = [0x03, 0xFD, 0x07, 0xF9, 0x0A, 0xF4, 0x05, 0xFF, 0x02, 0x00, 0xFC, 0x06, 0xF7, 0x0B, 0xFE, 0x01, 0x00, 0x00,
       0xFF, 0x00, 0x00, 0x0C, 0x00, 0x00, 0x02, 0x20, 0xA1, 0x07, 0x00, 0x00, 0x00, 0x00] := by decide +kernel

/-- "Compression", a step coded in CODE 2: predictor 1, shifts 0, 0, 6 and 2, and its 36 bytes. -/
theorem test_fixed_ratio_example :
    let xs : List Int := List.replicate 32 (-3) ++ List.replicate 32 397
    let b := [0xD5, 0xFF, 0x00, 0x26] ++ List.replicate 15 0 ++ [0x60] ++ List.replicate 7 0 ++ [0x40]
      ++ List.replicate 8 0
    (codeBlock 15 (residualWidth 2) xs).pred = 1 ∧ (codeBlock 15 (residualWidth 2) xs).shifts = [0, 0, 6, 2]
      ∧ (codeBlock 15 (residualWidth 2) xs).bytes 2 (-3) = b
      ∧ (decodeBlock 2 b).samples = List.replicate 32 (-3) ++ List.replicate 16 381 ++ List.replicate 16 397
      ∧ (decodeBlock 2 b).void = false := by decide +kernel

/-- R213: the header of a built event. -/
theorem test_event_header_example :
    eventHeader 3 0x05 0x030000001A2B 0x000F 0x0007 0 (ofLe [0x03, 0x00, 0x00, 0x94, 0x35, 0x77, 0x00, 0xA5, 0x18, 0x6A, 0, 0])
      4250 49152 44368 595 0x0F
    = [0x45, 0x56, 0x4E, 0x54, 0x01, 0x03, 0x05, 0x00, 0x2B, 0x1A, 0x00, 0x00, 0x00, 0x03, 0x0F, 0x00, 0x07, 0x00, 0x00,
       0x00, 0x03, 0x00, 0x00, 0x94, 0x35, 0x77, 0x00, 0xA5, 0x18, 0x6A, 0x00, 0x00, 0x9A, 0x10, 0x00, 0x00, 0x00, 0xC0,
       0x00, 0x00, 0x50, 0xAD, 0x00, 0x00, 0x53, 0x02, 0x0F, 0x00] := by decide +kernel

/-- R198: the header of a peer packet. -/
theorem test_peer_packet_example :
    (peerPacket 645151744 5 9 0 []).take 8 = [0x00, 0x3C, 0x74, 0x26, 0x05, 0x09, 0x00, 0x00] := by decide +kernel

/-- R249: a canary word is the pattern rotated by 8k bits, XOR the bank's number. -/
theorem test_canary_words : canary 0 0 = 0x5AA5C33C96E10FF0 ∧ canary 117 1 = 0xA5C33C96E10FF05A ^^^ 117 := by decide +kernel

/-- Data movement, "a fragment reaches the Station 14 host": the ring's 297th completion. -/
theorem test_descriptor_completion_example :
    let s := having Obj.MOV_RING_STATUS.COMPLETIONS 2 296
      (setRing (ringWith 2 1 1) 2 (fun x => { x with descs := [⟨0x480000000, 32768, true⟩] }))
    (complete s 2 24472 1 7).out.getLast?
      = some (.hostWrite 16 16 (ofLe [0x98, 0x5F, 0, 0, 1, 0, 0, 0, 7, 0, 0x29, 1, 0, 0, 0, 0])) := by decide +kernel

/-- R344: the segment header of the 1,000th Dahlia record on its template. -/
theorem test_segment_header_example : segmentHeader 64 0 true 999 999 0
    = [0x01, 0x40, 0x00, 0x80, 0xE7, 0x03, 0x00, 0x00, 0xE7, 0x03, 0x00, 0x00, 0x00, 0x00, 0x00, 0x00] := by decide +kernel

/-- R431: the record of entry 3, thermal sensor 0 at 42.5 °C. -/
theorem test_hk_record_example : hkRecord 3 8 680 0 5 5 1600000000
    = [0x03, 0x08, 0xA8, 0x02, 0x00, 0x05, 0x05, 0x00, 0x00, 0x10, 0x5E, 0x5F, 0x00, 0x00, 0x00, 0x00] := by
  decide +kernel

/-- R449: the log entry of the latch-up of PD.HK.0. -/
theorem test_log_entry_example :
    LogEntry.bytes ⟨0x1102, 373, 1, 0, 2, 1, 12, 1, ts96OfPs (1780000300250000000000 : Int) + 3, 373⟩
    = [0x02, 0x11, 0x75, 0x01, 0x01, 0x00, 0x02, 0x01, 0x0C, 0x00, 0x00, 0x00, 0x01, 0x00, 0x00, 0x00, 0x03, 0x00, 0x00,
       0xCA, 0x9A, 0x3B, 0x2C, 0xA6, 0x18, 0x6A, 0x00, 0x00, 0x75, 0x01, 0x00, 0x00] := by decide +kernel

/-! ### Well-formedness and the queue -/

/-- One ill-formed command for each check of `Instr.wf`, which the check refuses. -/
theorem test_ill_formed_refused :
    ([.modePlanWrite (2 ^ 64) 0 0, .modePlanWrite 1 0 (2 ^ 32),
      .probeIntervalEnd 0 ⟨1, 1, 1, 18001, 0⟩, .probeIntervalEnd 0 ⟨1, 1, 1, 0, 8⟩, .segmentConverted [],
      .segmentConverted (List.replicate 256 [4096]), .converterWord ⟨[], []⟩,
      .converterWord ⟨List.replicate 256 (List.replicate 16 1024), []⟩,
      .converterWord ⟨List.replicate 256 (List.replicate 16 0), [(528, true)]⟩,
      .axrelTriggerMessage 0 ⟨2 ^ 40, 0, 0, 0⟩, .axrelTriggerMessage 0 ⟨0, 64, 0, 0⟩,
      .axrelTriggerMessage 0 ⟨0, 0, 16, 0⟩, .axrelTriggerMessage 0 ⟨0, 0, 0, 2 ^ 96⟩,
      .spectrumComplete [(2 ^ 18, false)], .blockBoundary [], .fragmentSend (2 ^ 40), .fragmentAnnounce (2 ^ 40),
      .fragmentTransferDone (2 ^ 40), .fragmentOfferTimer (2 ^ 40), .replyAccept (2 ^ 40), .replyReject (2 ^ 40),
      .replyRequest (2 ^ 40) 0, .replyRequest 0 (2 ^ 48), .groupReady 0 ⟨16, false, 0, 0, 0, 0⟩,
      .groupGo 0 ⟨0, false, 0, 0, 2 ^ 48, 0⟩, .groupStop 0 ⟨0, false, 0, 0, 0, 2 ^ 32⟩,
      .groupLeave 0 ⟨0, false, 0, 2 ^ 16, 0, 0⟩, .peerPacket 0 ⟨2 ^ 32, 0, 0, 0, []⟩,
      .concFragmentArrival 0 ⟨0, 0, 0, 0, [256]⟩, .concAnnouncementArrival 0 ⟨16, 0, 0, 0, []⟩, .concGone 0 16 0,
      .concGone 0 0 (2 ^ 40), .fstMasterRead 0 0 0 0 256, .fstWrite 0 0 0 0 0 (2 ^ 64) false 0,
      .scrubRead 0 0 [(8, 0)] false, .bankWakeCheck 0 [],
      .matrixTransaction ⟨0, true, 0, 8, [], 0, false, 1, false⟩,
      .beatTimeout ⟨0, false, 2 ^ 40, 8, [], 0, false, 1, false⟩,
      .resetInBurst ⟨0, false, 0, 8, [], 256, false, 1, false⟩, .lossyTailWrite 1 [256],
      .descriptorFetchDone 0 (2 ^ 64) 0 0 0 false, .capabilityRecord 0 [256],
      .axrelFrame 0 ⟨false, [], [], 2 ^ 32, false⟩, .ack 0 4096, .nak 0 4096, .credit 0 0 65536,
      .imageRequest 0 0 65536, .imageData 0 0 [256], .ppsEdge 160, .incWrite (2 ^ 32) false,
      .timeSet (2 ^ 48) 0 false, .timeSet 0 1000000000 false, .timCmpWrite 0 ⟨2 ^ 48, 0, false, false, 0, 0, 0⟩,
      .netFrame 0 [256] [] [], .mailboxDoorbell 0 0 [256], .completionRingSetup 0 0 false (2 ^ 64),
      .bar2Read 0 0 [256], .halfReadLow 0 false 0 256, .pornRelease 0 0 false false (2 ^ 128),
      .pmbusPoll 0 (some (65536, 0)), .calRunJudged 0 65536 0 0, .calOvercurrent 0 65536,
      .faultCountSummary 65536 0, .tableWrite 0 [256], .probeSweep 0 [⟨1, 1, 1, -18001, 0⟩], .compress 0 [256],
      .decompress 0 [256], .imageLoad 0 [256]] : List Instr).all
      (fun i => !i.wf) = true := by decide +kernel

/-- The table gives no row bits: no word spells a command, and `withFetchWord` leaves the state. -/
theorem test_no_words : decodeTableWord 16 0x1234 = none ∧ (State.reset.withFetchWord 16 0x1234).pending = [] := by
  decide +kernel


/-! ### States that meet the hypotheses of the statements -/

theorem test_meets_StepRunsFrontCommand :
    (let s : State := { State.reset with pending := [.heartbeat, .statPeriod] }
     (s.pending = .heartbeat :: [.statPeriod])
       ∧ (after (step s) fun t => t.pending == [.statPeriod] && t.ctl.heartbeat == 1) = true) := by
  decide +kernel

theorem test_meets_EmptyQueueTicks :
    (let s : State := atTick 41 State.reset
     (s.pending = [])
       ∧ (after (step s) fun t => t.time.rc64 == 42 && t.time.civil == 2684354560) = true) := by
  decide +kernel

theorem test_meets_StepKeepsStores :
    (let s : State := { State.reset with regs := [(3, 1)], mem := [(5, 1)], pending := [.heartbeat] }
     (mapWf s.regs = true ∧ mapWf s.live = true ∧ memWf s.mem = true)
       ∧ (after (step s) fun _ => true) = true) := by
  decide +kernel

theorem test_meets_StepKeepsBounds :
    (let s : State := { inMode .recovery State.reset with pending := [.heartbeat] }
     (rd s Obj.MODE_STATE.CURRENT ≤ 11 ∧ s.notes.queue.length ≤ 64 ∧ s.flt.retained.length ≤ 256
          ∧ s.flt.region.length ≤ 16384)
       ∧ (after (step s) fun _ => true) = true) := by
  decide +kernel

theorem test_meets_Rc64NeverStepped :
    (let s : State := atTick 77 State.reset
     (setsRc64 .heartbeat = false)
       ∧ (after (exec .heartbeat s) fun t => t.time.rc64 == 77) = true) := by
  decide +kernel

theorem test_meets_Rc64ZeroOnlyAtBoot :
    (let s : State := atTick 77 State.reset
     (s.time.bootWait = false)
       ∧ (after (exec (.ppsEdge 3) s) (fun t => t.time.rc64 == 77)
          && after (exec .bootPpsWaitTimeout s) (fun t => t.time.rc64 == 77)) = true)
    ∧ (let s : State := setTime (atTick 161 (inMode .dormant)) (fun x => { x with refPresent := false })
     (s.time.refPresent = false ∧ modeOf s = .dormant)
       ∧ (after (exec .dormantRefReturn s) (fun t => t.time.rc64 == 320)) = true) := by
  refine ⟨?_, ?_⟩ <;> decide +kernel

theorem test_meets_ModePlanWrites :
    (let s : State := State.reset
     ((0x103 : Nat) < 2 ^ 32 ∧ phaseOf s = .steady
          ∧ transitionListed (modeOf s) (Mode.ofCode (bits 0x103 0 4)) = true ∧ bits 0x103 0 4 ≤ 11
          ∧ 1 ≤ bits 0x103 8 4 ∧ bits 0x103 8 4 ≤ 9 ∧ bits 0x103 6 2 = 0 ∧ bits 0x103 12 4 = 0 ∧ bits 0x103 25 7 = 0
          ∧ runsOp s [0x50, 0x51, 0x53] = false)
       ∧ (after (exec (.modePlanWrite 0x103 2 7) s) fun t => decide (phaseOf t = .check)
          && rd t Obj.MODE_STATE.TARGET == 3
          && decide (∀ f ∈ Obj.MODE_PLAN.fields, rd t f = bits 0x103 f.lo f.width)
          && t.modes.running == some ⟨.watch, false, false, true, 0, 2, 7⟩ && modeOf t == .idle) = true)
    ∧ (let s : State := inMode .recovery
     ((0x103 : Nat) < 2 ^ 32 ∧ phaseOf s = .steady ∧ bits 0x103 0 4 ≤ 11 ∧ Mode.ofCode (bits 0x103 0 4) ≠ modeOf s
          ∧ transitionListed (modeOf s) (Mode.ofCode (bits 0x103 0 4)) = false)
       ∧ (after (exec (.modePlanWrite 0x103 2 7) s) fun t => t == s) = true)
    ∧ (let s : State := toward .drain .watch State.reset
     (bits 0x904 0 4 ≤ 11 ∧ 1 ≤ bits 0x904 8 4 ∧ bits 0x904 8 4 ≤ 9 ∧ bits 0x904 6 2 = 0 ∧ bits 0x904 12 4 = 0
          ∧ bits 0x904 25 7 = 0 ∧ runsOp s [0x50, 0x51, 0x53] = false ∧ phaseOf s ≠ .steady)
       ∧ (after (exec (.modePlanWrite 0x904 2 7) s) fun t => decide (phaseOf t = .drain)
          && rd t Obj.MODE_STATE.PENDING == 4 && modeTarget t == .watch
          && t.modes.waiting == some ⟨.image, false, false, true, 0, 2, 7⟩) = true)
    ∧ (let s : State := State.reset
     ((0xA03 : Nat) < 2 ^ 32 ∧ ¬ bits 0xA03 8 4 ≤ 9)
       ∧ (after (exec (.modePlanWrite 0xA03 2 7) s) fun t => t == s) = true) := by
  refine ⟨?_, ?_, ?_, ?_⟩ <;> decide +kernel

theorem test_meets_OneRequestWaits :
    (let s : State := setModes (toward .drain .watch State.reset) (fun m => { m with running := some ⟨.watch, false, false, true, 0, 0, 1⟩, waiting := some ⟨.image, false, false, true, 0, 3, 9⟩ })
     (phaseOf s ≠ .steady ∧ s.modes.waiting = some ⟨.image, false, false, true, 0, 3, 9⟩ ∧ s.notes.queue.length < 64)
       ∧ (let r : ModeReq := ⟨.beam, false, false, true, 0, 4, 10⟩; let w : ModeReq := ⟨.image, false, false, true, 0, 3, 9⟩
            (requestMode s r).modes.waiting == some r && rd (requestMode s r) Obj.MODE_STATE.PENDING == 5
          && (requestMode s r).modes.running == s.modes.running && modeTarget (requestMode s r) == .watch
            && (requestMode s r).notes.queue == [⟨0, ts96Now s, .mode 1 4 2 0x12 9 3 0⟩]
            && phaseOf (finishTransition s .watch) == .check && (finishTransition s .watch).modes.running == some w
          && (finishTransition s .watch).modes.waiting == none
          && modeTarget (finishTransition s .watch) == .image) = true)
    ∧ (let s : State := toward .start .watch State.reset
     (phaseOf s ≠ .steady ∧ s.modes.waiting = none)
       ∧ ((requestMode s ⟨.beam, false, false, true, 0, 4, 10⟩).notes == s.notes) = true) := by
  refine ⟨?_, ?_⟩ <;> decide +kernel

theorem test_meets_TransitionCheckComplete :
    (let s : State := setModes (toward .check .watch State.reset) (fun m => { m with running := some ⟨.watch, false, false, true, 0, 0, 1⟩ })
     (s.modes.running = some ⟨.watch, false, false, true, 0, 0, 1⟩ ∧ phaseOf s = .check ∧ entryWoken s = false
          ∧ (modeOf s = .watch → requestUnlisted s ⟨.watch, false, false, true, 0, 0, 1⟩ = true)
          ∧ checkStatus s ⟨.watch, false, false, true, 0, 0, 1⟩ = 0)
       ∧ (after (exec .transitionCheck s) fun t => phaseOf t == .drain && modeOf t == .idle
          && modeTarget t == .watch && t.modes.testDoms == []) = true)
    ∧ (let s : State := having Obj.PWR_GOV.CEIL 0 50 (setModes (toward .check .watch State.reset) (fun m => { m with running := some ⟨.watch, false, false, true, 0, 0, 1⟩ }))
     (s.modes.running = some ⟨.watch, false, false, true, 0, 0, 1⟩ ∧ phaseOf s = .check ∧ entryWoken s = false
          ∧ modeOf s ≠ .watch ∧ checkStatus s ⟨.watch, false, false, true, 0, 0, 1⟩ ≠ 0 ∧ s.modes.waiting = none)
       ∧ (after (exec .transitionCheck s) fun t => modeOf t == .idle && rd t Obj.MODE_STATE.LAST_STATUS == 0x0010
          && phaseOf t == .steady) = true)
    ∧ (let s : State := having Obj.AON_LAST_WAKE.SOURCES 0 1 (setAon (setModes (toward .check .dormant State.reset) (fun m => { m with running := some ⟨.dormant, false, false, true, 0, 0, 1⟩ })) (fun a => { a with entryAt := some 0 }))
     (s.modes.running = some ⟨.dormant, false, false, true, 0, 0, 1⟩ ∧ phaseOf s = .check ∧ entryWoken s = true
          ∧ s.modes.waiting = none)
       ∧ (after (exec .transitionCheck s) fun t => modeOf t == .idle && rd t Obj.AON_LAST_WAKE.DURING_ENTRY == 1
          && rd t Obj.MODE_STATE.LAST_STATUS == 0x0013 && phaseOf t == .steady) = true)
    ∧ (let s : State := setModes (toward .check .idle State.reset) (fun m => { m with running := some ⟨.idle, false, false, true, 0, 0, 1⟩ })
     (s.modes.running = some ⟨.idle, false, false, true, 0, 0, 1⟩ ∧ phaseOf s = .check ∧ entryWoken s = false
          ∧ sameMode s ⟨.idle, false, false, true, 0, 0, 1⟩ = true
          ∧ requestUnlisted s ⟨.idle, false, false, true, 0, 0, 1⟩ = false ∧ s.modes.waiting = none)
       ∧ (after (exec .transitionCheck s) fun t => modeOf t == .idle && rd t Obj.MODE_STATE.COUNT == 0
          && phaseOf t == .steady) = true)
    ∧ (let s : State := setTrg (setModes (toward .aborting .idle (inMode .watch)) (fun m => { m with running := some ⟨.image, false, false, true, 0, 0, 1⟩, abortStep := 1 })) (fun x => { x with running := true })
     (s.modes.running = some ⟨.image, false, false, true, 0, 0, 1⟩ ∧ phaseOf s = .aborting ∧ s.modes.abortStep = 1
          ∧ modeWatches (modeTarget s) (targetWatch s) = false)
       ∧ (after (exec .transitionCheck s) fun t => t.modes.abortStep == 2 && phaseOf t == .aborting
          && t.trg.running == false) = true) := by
  refine ⟨?_, ?_, ?_, ?_, ?_⟩ <;> decide +kernel

theorem test_meets_TransitionPhasesComplete :
    (let s : State := setBbl (toward .drain .image (inMode .watch)) (fun b => { b with writing := true })
     (phaseOf s = .drain ∧ drained s (modeTarget s) (targetWatch s) = true
          ∧ modeRings (modeTarget s) (targetWatch s) = false))
    ∧ (let s : State := setModes (toward .aborting .idle (inMode .watch)) (fun m => { m with abortStep := 2 })
     (phaseOf s = .aborting ∧ s.modes.abortStep = 2 ∧ drained s (modeTarget s) (targetWatch s) = true))
    ∧ (let s : State := toward .down .watch State.reset
     (phaseOf s = .down ∧ transitionDown s = true ∧ (modeTarget s).converts = true ∧ s.modes.convertersOn = false))
    ∧ (let s : State := having Obj.CNV_CAL_INFO.STORED_VALID 0 1 ({ toward .down .watch State.reset with cnv := { State.reset.cnv with stored := [⟨1, 2, 3⟩] } })
     (phaseOf s = .down ∧ transitionDown s = true ∧ (modeTarget s).converts = true ∧ s.modes.convertersOn = false))
    ∧ (let s : State := setModes (toward .aborting .idle (inMode .watch)) (fun m => { m with abortStep := 3 })
     (phaseOf s = .aborting ∧ s.modes.abortStep = 3 ∧ transitionDown s = true))
    ∧ (let s : State := (domRange 64 80).foldl (fun s d => domIs d 2 s) (toward .up .watch State.reset)
     (phaseOf s = .up ∧ (modeTarget s).converts = true ∧ s.modes.convertersOn = false ∧ s.modes.calConverged = false
          ∧ ∀ d ∈ domRange 64 80, domOn s d = true)
       ∧ (after (exec .converterCalConverged s) fun t => t.modes.calConverged && t.modes.calAt == s.time.rc64
          && t.cnv.corr.length == 2048 && rd t Obj.CNV_CAL_INFO.STORED_VALID == 1) = true)
    ∧ (let s : State := toward .up .idle (inMode .test)
     (phaseOf s = .up ∧ transitionUp s (modeTarget s) (targetWatch s) = true ∧ (modeTarget s).converts = false)
       ∧ (after (exec .upComplete s) fun t => phaseOf t == .start && rd t Obj.DAH_GEOM.GEOM == 0
          && modeOf t == .test && modeTarget t == .idle && rd t Obj.FST_MAP.MAP == targetMap s) = true)
    ∧ (let s : State := setModes (toward .aborting .idle (inMode .test)) (fun m => { m with abortStep := 4, status := 0x11 })
     (phaseOf s = .aborting ∧ s.modes.abortStep = 4 ∧ transitionUp s (modeTarget s) (targetWatch s) = true)
       ∧ (after (exec .upComplete s) fun t => modeOf t == .idle && rd t Obj.MODE_STATE.LAST_STATUS == 0x11) = true)
    ∧ (let s : State := toward .start .concentrate State.reset
     (phaseOf s = .start ∧ startPoint s (modeTarget s) = true ∧ modeTarget s ≠ .peer ∧ s.modes.waiting = none)
       ∧ (after (exec .transitionStartDone s) fun t => modeOf t == .concentrate && rd t Obj.MODE_STATE.COUNT == 1
          && phaseOf t == .steady) = true)
    ∧ (let s : State := toward .start .dormant State.reset
     (phaseOf s = .start ∧ startPoint s (modeTarget s) = true ∧ modeTarget s = .dormant)
       ∧ (after (exec .transitionStartDone s) fun t => modeOf t == .dormant && t.aon.phase == .waitPme) = true)
    ∧ (let s : State := toward .start .recovery State.reset
     (phaseOf s = .start ∧ startPoint s (modeTarget s) = true ∧ modeTarget s = .recovery)
       ∧ (after (exec .transitionStartDone s) fun t => modeOf t == .recovery && t.ctl.ronecUp == false) = true)
    ∧ (let s : State := atTick 2097152 ((List.range 16).foldl (fun s l => having Obj.AXL_LINK_STATUS.RATE l 3 (having Obj.AXL_PORT_STATUS.RX_MAP l 255 (linked l s))) (having Obj.TIM_PPS.FRAME_OK 0 1 (toward .start .peer State.reset)))
     (phaseOf s = .start ∧ startPoint s (modeTarget s) = true ∧ modeTarget s = .peer ∧ modeOf s ≠ .peer
          ∧ rd s Obj.TIM_PPS.FRAME_OK ≠ 0)
       ∧ (decide (peerPortsBad (enterMode s .peer (targetWatch s)) = [])
          && after (exec .transitionStartDone s) (fun t => phaseOf t == .peerSync && modeOf t == .idle
          && (peerStage t == 2 || peerStage t == 3))) = true)
    ∧ (let s : State := atTick 2097152 (toward .start .peer State.reset)
     (phaseOf s = .start ∧ startPoint s (modeTarget s) = true ∧ modeTarget s = .peer ∧ modeOf s ≠ .peer
          ∧ rd s Obj.TIM_PPS.FRAME_OK = 0)
       ∧ (after (exec .transitionStartDone s) fun t => phaseOf t == .aborting && modeTarget t == .idle
          && peerStage t == 0 && t.modes.status == 0x11) = true) := by
  refine ⟨?_, ?_, ?_, ?_, ?_, ?_, ?_, ?_, ?_, ?_, ?_, ?_, ?_⟩ <;> decide +kernel

theorem test_meets_TransitionEndsComplete :
    (let s : State := toward .peerSync .peer State.reset
     (phaseOf s = .peerSync)
       ∧ (after (exec .peerSyncTimeout s) fun t => phaseOf t == .aborting && modeTarget t == .idle
          && t.modes.status == 0x11 && t.modes.abortStep == 1 && peerStage t == 0) = true)
    ∧ (let s : State := domIs 393 1 State.reset
     (domState s 393 = 1 ∧ (∀ p ∈ s.pwr.queue, p.dom ≠ 393) ∧ phaseOf s = .steady)
       ∧ (after (exec (.powerGoodTimeout 393) s) fun t => domState t 393 == 0 && modeOf t == .idle
          && t.flt == s.flt) = true)
    ∧ (let s : State := domIs 80 1 (toward .up .watch State.reset)
     (domState s 80 = 1 ∧ (∀ p ∈ s.pwr.queue, p.dom ≠ 80) ∧ phaseOf s ≠ .steady ∧ s.flt.active.length < 1024)
       ∧ (after (exec (.powerGoodTimeout 80) s) fun t => domState t 80 == 0 && phaseOf t == .aborting
          && modeTarget t == .idle && faultActive t 0x1009 0) = true)
    ∧ (let s : State := toward .up .watch State.reset
     (phaseOf s = .up ∧ s.modes.convertersOn = false ∧ s.modes.calConverged = false ∧ modeOf s ≠ .vigil
          ∧ (modeTarget s).converts = true ∧ s.flt.active.length < 1024)
       ∧ ((let good (o : Host.Outcome State Fault Refusal) : Bool := after o fun t => phaseOf t == .aborting
          && modeTarget t == .idle && t.modes.status == 0x11 && t.modes.abortStep == 1 && faultActive t 0x1009 0;
            good (exec .pllLockTimeout s) && good (exec (.converterCalTimeout 15) s))) = true)
    ∧ (let s : State := setEvt (toward .drain .dormant State.reset) (fun e => { e with frags := [{ aFragment with state := .transfer }] })
     (phaseOf s = .drain ∧ modeTarget s = .dormant)
       ∧ (after (exec .drainLimitExpired s) fun t => t.modes.drainOver && t.dah.dumps == [] && t.dah.toQueue == []
          && t.conc.out == [] && t.conc.ready == [] && t.peer.sends == [] && phaseOf t == .drain
          && t.evt.frags.all (fun f => f.state != .transfer)) = true)
    ∧ (let s : State := having Obj.PEER_STATUS.STATE 0 3 (setPeer (toward .peerSync .peer State.reset) (fun p => { p with aligned := true, goGspx := 0 }))
     (peerStage s = 3 ∧ s.peer.aligned = true ∧ phaseOf s = .peerSync ∧ 0 ≤ spxDist (gspxNow s) s.peer.goGspx)
       ∧ (after (exec .peerStartBlock s) fun t => modeOf t == .peer && peerStage t == 4 && t.dah.started
          && rd t Obj.PEER_STATUS.LIVE == (2 ^ memberCount s - 1) % 2 ^ Obj.PEER_STATUS.LIVE.width) = true)
    ∧ (let s : State := having Obj.PEER_STATUS.STATE 0 5 (setPeer (inMode .peer) (fun p => { p with stopAt := some 0, byLeader := true }))
     (peerStage s = 5 ∧ s.peer.stopAt = some 0 ∧ 0 ≤ spxDist (gspxNow s) 0 ∧ s.peer.byLeader = true
          ∧ phaseOf s = .steady)
       ∧ (after (exec .peerStopBoundary s) fun t => peerStage t == 0 && rd t Obj.PEER_STATUS.LIVE == 0
          && phaseOf t == .check && modeTarget t == .idle) = true) := by
  refine ⟨?_, ?_, ?_, ?_, ?_, ?_, ?_⟩ <;> decide +kernel

theorem test_meets_InputEventsComplete :
    (let s : State := domIs 31 2 (atTick 5000 (setInput (inMode .watch) 255 (fun x => { x with released := some 3400 })))
     ((inputOf s 255).conducting = false ∧ clampEventStarts s 255 = true ∧ inputLogicOn s 255 = true)
       ∧ (after (exec (.clampTrip 255) s) fun t => rd t Obj.AFE_STATUS.CLAMP_STICKY 255 == 1
          && rd t Obj.AFE_STATUS.CLAMP_COUNT 255 == 1 && faultActive t 0x0101 255) = true)
    ∧ (let s : State := domIs 31 0 (atTick 5000 (setInput (inMode .idle) 255 (fun x => { x with released := some 3400 })))
     ((inputOf s 255).conducting = false ∧ clampEventStarts s 255 = true ∧ inputLogicOn s 255 = false)
       ∧ (after (exec (.clampTrip 255) s) fun t => rd t Obj.AFE_STATUS.CLAMP_STICKY 255 == 1
          && rd t Obj.AFE_STATUS.CLAMP_COUNT 255 == 0 && t.flt == s.flt) = true)
    ∧ (let s : State := atTick 4999 (setInput (inMode .watch) 255 (fun x => { x with released := some 3400 }))
     ((inputOf s 255).conducting = false ∧ clampEventStarts s 255 = false ∧ s.afe.inputs.length = 256)
       ∧ (after (exec (.clampTrip 255) s) fun t => rd t Obj.AFE_STATUS.CLAMP_COUNT 255 == 0 && t.flt == s.flt
          && (inputOf t 255).conducting) = true)
    ∧ (let s : State := setInput State.reset 7 (fun x => { x with conducting := true })
     ((inputOf s 7).conducting = true ∧ s.flt.active.length < 1024)
       ∧ (after (exec (.clampRelease 7) s) (fun t => !(inputOf t 7).conducting && (inputOf t 7).released == some 0)
          && after (exec (.clampLong 7) s) (fun t => faultActive t 0x0102 7 && t.afe == s.afe)) = true)
    ∧ (let s : State := inForce Obj.AFE_INPUT.ARC 9 1 (inForce Obj.AFE_ARC.AVG_LOG 0 0 (inForce Obj.AFE_ARC.TARGET_RMS 0 1 (setInput (inMode .watch) 9 (fun x => { x with frames := List.replicate 32 ⟨200000000, 2048, 0, 100, 200000000, 0, 16, false, 2048⟩ }))))
     (cnvOn s = true ∧ lv s Obj.AFE_INPUT.ARC 9 ≠ 0 ∧ lineState s 9 = 0 ∧ spxNow s % arcLength s = 0
          ∧ ((arcCode s 9).1).isSome = true ∧ (arcCode s 9).1 ≠ some (rd s Obj.AFE_STATUS.RANGE 9))
       ∧ (after (exec (.arcEvaluation 9) s) fun t => (inputOf t 9).pending == (arcCode s 9).1) = true)
    ∧ (let s : State := setInput State.reset 0 (fun x => { x with pending := some 3, deferred := 64 })
     ((inputOf s 0).pending.isSome = true ∧ (inputOf s 0).forced = false ∧ 64 ≤ (inputOf s 0).deferred)
       ∧ (after (exec (.rangeForced 0) s) fun t => (inputOf t 0).forced
          && rd t Obj.AFE_STATUS.FORCED_COUNT 0 == 1) = true) := by
  refine ⟨?_, ?_, ?_, ?_, ?_, ?_⟩ <;> decide +kernel

theorem test_meets_LineDetectorsComplete :
    (let s : State := setInput (inMode .watch) 5 (fun x => { x with probe := { x.probe with running := true } })
     (cnvOn s = true ∧ (inputOf s 5).probe.running = true ∧ lineState s 5 ≠ 3 ∧ bit s.afe.sweepMask 5 = false
          ∧ s.afe.inputs.length = 256))
    ∧ (let s : State := atTick 131072 (setInput (inMode .watch) 5 (fun x => { x with collapseRun := 14, refWindows := [4], frames := List.replicate 64 ⟨0, 2048, 0, 0, 0, 0, 16, false, 2048⟩ }))
     (cnvOn s = true ∧ lineState s 5 = 0 ∧ spxNow s % 64 = 0 ∧ windowWhole s 5 = true ∧ windowSkipped s 5 = false
          ∧ windowCollapsed s 5 = true ∧ (inputOf s 5).collapseRun = 14)
       ∧ (after (exec (.rmsWindowEnd 5) s) fun t => lineState t 5 == 1 && (inputOf t 5).collapseRun == 15) = true)
    ∧ (let s : State := atTick 131072 (having Obj.AFE_STATUS.LINE_STATE 5 2 (setInput (inMode .watch) 5 (fun x => { x with collapseRun := 3, okRun := 2, winRun := 14, frames := List.replicate 64 ⟨0, 2048, 0, 0, 0, 0, 16, false, 2048⟩ })))
     (cnvOn s = true ∧ lineState s 5 = 2 ∧ spxNow s % 64 = 0 ∧ windowWhole s 5 = true ∧ windowSkipped s 5 = false
          ∧ windowCollapsed s 5 = false ∧ 2 ≤ (inputOf s 5).okRun ∧ 14 ≤ (inputOf s 5).winRun)
       ∧ (after (exec (.rmsWindowEnd 5) s) fun t => lineState t 5 == 0
          && (inputOf t 5).collapseRun == 0) = true) := by
  refine ⟨?_, ?_, ?_⟩ <;> decide +kernel

theorem test_meets_StreamEventsComplete :
    (let s : State := atTick 16 (inMode .watch)
     (s.time.off = false ∧ s.time.rc64 % 16 = 0 ∧ 16 ≤ s.time.rc64 ∧ cnvOn s = true)
       ∧ (after (exec (.converterWord ⟨[], []⟩) s) fun t => t.cnv.histEnd == 16) = true)
    ∧ (let s : State := atTick 2048 (inMode .watch)
     (s.time.off = false ∧ s.time.rc64 % 2048 = 0 ∧ cnvOn s = true))
    ∧ (let s : State := atTick 4194304 { inMode .watch with cnv := { State.reset.cnv with samples := [(255, 2097152)], ovr := [(255, 7)] } }
     (s.time.off = false ∧ s.time.rc64 % 2097152 = 0 ∧ 0 < s.time.rc64 ∧ cnvOn s = true ∧ wholeBlock s 255 = true)
       ∧ (after (exec (.blockBoundary []) s) fun t => rd t Obj.CNV_STATUS.SPX0 255 == 1024
          && rd t Obj.CNV_STATUS.OVR_COUNT 255 == 7 && t.cnv.ovr == [] && t.cnv.flagged == []
          && t.cnv.samples == []) = true)
    ∧ (let s : State := having Obj.AFE_STATUS.LINE_STATE 3 3 (inForce Obj.CNV_CAL.RUN 0 1 { inMode .watch with cnv := { State.reset.cnv with blocks := 300 } })
     (cnvOn s = true ∧ lv s Obj.CNV_CAL.RUN ≠ 0 ∧ lv s Obj.CNV_CAL.UPDATE ≤ s.cnv.blocks ∧ correctionsHeld s 3 = true)
       ∧ (after (exec (.cnvCalUpdate []) s) fun t => (t.cnv.corrNext.getD []).length == 2048 && t.cnv.blocks == 0
          && t.cnv.corr == s.cnv.corr
          && nth (t.cnv.corrNext.getD []) 31 ⟨1, 1, 1⟩ == nth s.cnv.corr 31 ⟨0, 0, 0⟩) = true)
    ∧ (let s : State := inMode .watch
     (cnvOn s = true)
       ∧ (after (exec .cnvCoeffStore s) fun t => t.cnv.stored == s.cnv.corr
          && rd t Obj.CNV_CAL_INFO.STORED_VALID == 1) = true) := by
  refine ⟨?_, ?_, ?_, ?_, ?_⟩ <;> decide +kernel

theorem test_meets_RingMemoryComplete :
    (let s : State := atTick 256 (setBbl State.reset (fun b => { b with writing := true }))
     (s.bbl.writing = true ∧ s.time.rc64 % 128 = 0 ∧ s.bbl.segs.length = 64)
       ∧ (after (exec .segmentBoundary s) fun t => t.bbl.curClamp == 0 && t.bbl.curLine == 0
          && (nth t.bbl.segs t.bbl.cur ⟨none, none, 0, 0⟩).tag == some 512) = true)
    ∧ (let s : State := { setBbl State.reset (fun b => { b with writing := true }) with trg := { State.reset.trg with strobes := [⟨900, 1, 1⟩] } }
     (s.trg.strobes = ⟨900, 1, 1⟩ :: [] ∧ s.bbl.writing = true ∧ freezeFits s = true)
       ∧ (after (exec .freezeStrobe s) fun t => t.trg.strobes == [] && t.bbl.windows == s.bbl.windows
          ++ [newWindow s 1800 0 1 0]) = true)
    ∧ (let s : State := { setBbl State.reset (fun b => { b with writing := true, windows := List.replicate 16 { aWindow with segs := [1, 2, 3] } }) with trg := { State.reset.trg with strobes := [⟨900, 1, 33⟩] } }
     (s.trg.strobes = ⟨900, 1, 33⟩ :: [] ∧ s.bbl.writing = true ∧ freezeFits s = false)
       ∧ (after (exec .freezeStrobe s) fun t => t.trg.strobes == [] && t.bbl == s.bbl
          && rd t Obj.TRG_COUNTS.REFUSED_WINDOW 0 == 1 && rd t Obj.TRG_COUNTS.REFUSED_WINDOW 5 == 1
          && rd t Obj.TRG_COUNTS.REFUSED_WINDOW 1 == 0) = true)
    ∧ (let s : State := setBbl (inMode .vigil) (fun b => { b with writing := true })
     (s.bbl.writing = true)
       ∧ (after (exec (.envelopeCrossing 255 true) s) fun t => mapGet t.bbl.oneShot 255 == 16 * (lv s Obj.BBL_VIGIL.STRETCH + 1)) = true) := by
  refine ⟨?_, ?_, ?_, ?_⟩ <;> decide +kernel

theorem test_meets_DigitizerComplete :
    (let s : State := setBbl (atTick 960001 State.reset) (fun b => { b with digOn := true, windows := [aWindow] })
     (s.bbl.digOn = true ∧ digitizerCut s = false ∧ (∀ x ∈ s.bbl.windows, x.converting = false)
          ∧ nextWindow s = some aWindow ∧ aWindow.credit = true
          ∧ holdTooLong aWindow.tj (s.time.rc64 - aWindow.frozenAt.getD s.time.rc64) = true)
       ∧ (after (exec .windowConversionStart s) fun t => t.bbl.windows.any (fun x => x.converting && x.uncal
          && x.holdExpired) && rd t Obj.BBL_STATUS.EXPIRED_COUNT == 1) = true)
    ∧ (let s : State := domIs 93 2 (domIs 94 2 (setBbl State.reset (fun b => { b with windows := [{ aWindow with converting := true }] })))
     (s.bbl.windows.find? (fun x => x.converting) = some { aWindow with converting := true }
          ∧ aWindow.raw.length < aWindow.segs.length ∧ digitizerCut s = false
          ∧ segmentRoom s { aWindow with converting := true } = true)
       ∧ (after (exec (.segmentConverted [[5000, 1]]) s) fun t => (t.bbl.windows.map (fun w => w.raw)) == [[[[4095, 1]]]]) = true)
    ∧ (let s : State := setBbl State.reset (fun b => { b with windows := [{ aWindow with converting := true, raw := [[], []], hold := 65535, holdExpired := true, uncal := true, deadline := 7 }] })
     (s.bbl.windows.find? (fun x => x.converting) = some { aWindow with converting := true, raw := [[], []], hold := 65535, holdExpired := true, uncal := true, deadline := 7 } ∧ ([[], []] : List (List (List Nat))).length = aWindow.segs.length)
       ∧ (after (exec .windowReadoutDone s) fun t => rd t Obj.BBL_LAST_WINDOW.WINDOW_ID == aWindow.id
          && rd t Obj.BBL_LAST_WINDOW.HOLD == 65535 && rd t Obj.BBL_LAST_WINDOW.DEADLINE == 7
          && rd t Obj.BBL_LAST_WINDOW.HOLD_EXPIRED == 1 && rd t Obj.BBL_LAST_WINDOW.UNCAL == 1) = true)
    ∧ (let s : State := having Obj.BBL_DIG.KEEP_WARM 0 0 (setBbl State.reset (fun b => { b with digOn := true }))
     (s.bbl.digOn = true ∧ rd s Obj.BBL_DIG.KEEP_WARM = 0 ∧ s.bbl.windows = [] ∧ modeOf s ≠ .vigil)
       ∧ (after (exec .digitizerIdleTimeout s) fun t => !t.bbl.digOn) = true) := by
  refine ⟨?_, ?_, ?_, ?_⟩ <;> decide +kernel

theorem test_meets_CaptureWakeSetComplete :
    (let s : State := (wakeSet 0).foldl (fun s d => domIs d 2 s) (setBbl (inMode .vigil) (fun b => { b with wake := .requested }))
     (s.bbl.wake = .requested ∧ upsDone s 1 = true
          ∧ ∀ d ∈ wakeSet (rd s Obj.FST_MAP.MAP), domOn s d = true ∨ s.pwr.barred.contains d = true)
       ∧ (after (exec .captureWakeSetReady s) fun t => t.bbl.wake == .up && t.bbl.digOn && t.ctl.ronecUp) = true)
    ∧ (let s : State := setBbl (inMode .vigil) (fun b => { b with wake := .up })
     (s.bbl.wake = .up ∧ s.bbl.windows = [] ∧ rd s Obj.BBL_STATUS.HOT = 0 ∧ modeOf s = .vigil ∧ phaseOf s = .steady)
       ∧ (after (exec .captureLingerExpired s) fun t => t.bbl.wake == .down && !t.bbl.digOn && !t.ctl.ronecUp) = true)
    ∧ (let s : State := { inMode .vigil with ctl := { State.reset.ctl with ronecUp := true } }
     (s.bbl.wake = .down ∧ s.ctl.ronecUp = true ∧ s.bbl.windows = [] ∧ rd s Obj.BBL_STATUS.HOT = 0
          ∧ modeOf s = .vigil ∧ phaseOf s = .steady)
       ∧ (after (exec .captureLingerExpired s) fun t => !t.ctl.ronecUp && t.bbl == s.bbl) = true)
    ∧ (let s : State := having Obj.BBL_STATUS.T_VMAX 0 150 (inMode .vigil)
     (modeOf s = .vigil ∧ rd s Obj.BBL_STATUS.HOT = 0 ∧ (rd s Obj.BBL_STATUS.T_VMAX : Int) < 71 + 80)
       ∧ (after (exec (.tjSensorRead 71) s) fun t => t.bbl.tj == 71 && rd t Obj.BBL_STATUS.HOT == 1) = true)
    ∧ (let s : State := having Obj.BBL_STATUS.HOT 0 1 (having Obj.BBL_STATUS.T_VMAX 0 150 (inMode .vigil))
     (modeOf s = .vigil ∧ rd s Obj.BBL_STATUS.HOT ≠ 0 ∧ (64 : Int) + 80 ≤ (rd s Obj.BBL_STATUS.T_VMAX : Int) - 6)
       ∧ (after (exec (.tjSensorRead 64) s) fun t => t.bbl.tj == 64 && rd t Obj.BBL_STATUS.HOT == 0) = true)
    ∧ (let s : State := having Obj.BBL_CAL_INFO.VALID 0 1 (having Obj.BBL_CAL_INFO.TJ_CAL 0 14 State.reset)
     (rd s Obj.BBL_CAL_INFO.VALID ≠ 0 ∧ 20 < (s.bbl.tj - 2 * toInt 8 (rd s Obj.BBL_CAL_INFO.TJ_CAL)).natAbs
          ∧ s.flt.active.length < 1024)
       ∧ (after (exec .calStale s) fun t => faultActive t 0x0204 0 && t.bbl == s.bbl) = true) := by
  refine ⟨?_, ?_, ?_, ?_, ?_, ?_⟩ <;> decide +kernel

theorem test_meets_TriggerEventsComplete :
    (let s : State := atTick 9 (setTrg State.reset (fun x => { x with outActive := true, outEnd := 9 }))
     (s.trg.outActive = true ∧ s.trg.outEnd ≤ s.time.rc64)
       ∧ (after (exec .trigoutWidthEnd s) fun t => !t.trg.outActive
          && t.out == .pin 0 (decide (lv s Obj.TRG_IO.TRIGOUT_POL ≠ 0)) :: s.out) = true)
    ∧ (let s : State := atTick 4000 (inForce Obj.TRG_IO.TRIGIN_OFFSET 0 100 (having Obj.TRG_CTRL.ENABLE 0 1 (having Obj.TRG_CTRL.SRC_EN 0 2 (setTrg (inMode .watch) (fun x => { x with running := true })))))
     (s.time.off = false ∧ true = decide (lv s Obj.TRG_IO.TRIGIN_EDGE = 0) ∧ sourceOn s 1 = true
          ∧ s.trg.running = true)
       ∧ (after (exec (.triginEdge true true) s) fun t => rd t Obj.TIM_CAPTURE.LEVEL == 1
          && rd t Obj.TIM_CAPTURE.RC64 == 4000 && rd t Obj.TIM_CAPTURE.EDGES == 1
          && t.trg.known == [plainCondition 3900 1]) = true)
    ∧ (let s : State := State.reset
     (s.flt.active.length < 1024)
       ∧ (after (exec (.triginEdge true false) s) fun t => faultActive t 0x0506 0 && t.trg == s.trg) = true)
    ∧ (let s : State := atTick 4000 (having Obj.TRG_AXREL.RECV_PORTS 0 8 (having Obj.TRG_CTRL.ENABLE 0 1 (having Obj.TRG_CTRL.SRC_EN 0 16 (setTrg (inMode .watch) (fun x => { x with running := true })))))
     (bit (rd s Obj.TRG_AXREL.RECV_PORTS) 3 = true ∧ sourceOn s 4 = true ∧ s.trg.running = true)
       ∧ (after (exec (.axrelTriggerMessage 3 ⟨77, 0, 2, 0⟩) s) fun t => match t.trg.known with | [c] => c.source == 4 && c.originSerial == 77 && c.originTime == 0 && decide (3680 ≤ c.n) && decide (c.n ≤ 4000) | _ => false) = true)
    ∧ (let s : State := atTick 300 (having Obj.TRG_STATUS.OPEN 0 1 (setTrg (inMode .watch) (fun x => { x with records := [aRecord] })))
     (s.trg.records.getLast? = some aRecord ∧ aRecord.holdEnd ≤ s.time.rc64 ∧ rd s Obj.TRG_STATUS.OPEN ≠ 0)
       ∧ (after (exec .holdoffEnd s) fun t => rd t Obj.TRG_STATUS.OPEN == 0 && t.trg == s.trg) = true)
    ∧ (let s : State := domIs 93 2 (domIs 94 2 (atTick 620 (setTrg (inMode .watch) (fun x => { x with records := [aRecord], queue := List.replicate 31 aRecord }))))
     (s.trg.records = aRecord :: [] ∧ aRecord.holdEnd + 320 ≤ s.time.rc64 ∧ recordRoom s = true)
       ∧ (after (exec .triggerRecordRelease s) fun t => t.trg.records == [] && t.trg.queue == s.trg.queue
          ++ [aRecord]) = true)
    ∧ (let s : State := atTick 16000000 (having Obj.TRG_BUCKET.RATE 0 1 (having Obj.TRG_BUCKET.DEPTH 0 1 (having Obj.TRG_STATUS.TOKENS 0 1 (setTrg (inMode .watch) (fun x => { x with running := true })))))
     (s.trg.running = true ∧ 16000000 ≤ tokenPartNow s (rd s Obj.TRG_BUCKET.RATE))
       ∧ (after (exec .bucketToken s) (fun t => rd t Obj.TRG_STATUS.TOKENS == 1 && t.trg.tokenAt == 16000000)
          && after (exec .trigBusy s) (fun t => t.trg.lastLive == rd s Obj.TRG_STATUS.LIVE)) = true) := by
  refine ⟨?_, ?_, ?_, ?_, ?_, ?_, ?_⟩ <;> decide +kernel

theorem test_meets_DisabledAtFrame :
    (let s : State := having Obj.AFE_INPUT.ENABLE 255 0 (inMode .watch)
     (rd s Obj.AFE_INPUT.ENABLE 255 = 0)
       ∧ (lineState (afeFrame s 1 255) 255 == 3 && rd (afeFrame s 1 255) Obj.AFE_STATUS.LINE 255 == 1) = true) := by
  decide +kernel

theorem test_meets_AcceptedSetSpends :
    (let s : State := having Obj.TRG_STATUS.CREDITS 0 3 (inMode .watch)
     (rd s Obj.TRG_STATUS.CREDITS = 3)
       ∧ ((acceptSet s [plainCondition 5 2] 4 false 5).trg.records.length == 1
          && rd (acceptSet s [plainCondition 5 2] 4 false 5) Obj.TRG_STATUS.CREDITS == 2
          && rd (acceptSet s [plainCondition 5 2] 4 false 5) Obj.TRG_STATUS.OPEN == 1) = true) := by
  decide +kernel

theorem test_meets_ReducedSample :
    ((let x : InputWord := ⟨[-128, 127], 0, 2, false, false⟩; -128 ≤ nth x.samples 0 0 ∧ nth x.samples 0 0 ≤ 127
          ∧ x.line = false ∧ bit x.settle 0 = false ∧ bit x.settle 1 = true)
       ∧ (let x : InputWord := ⟨[-128, 127], 0, 2, false, false⟩; let y : InputWord := ⟨[127, 127], 0, 2, true, false⟩; reduced x 0 == -31 && reduced x 1 == 0 && reduced y 0 == 31) = true) := by
  decide +kernel

theorem test_meets_BeamPowerIsExact :
    (let s : State := inForce Obj.TRG_GROUP.WIN 15 3 State.reset
     (lv s Obj.TRG_GROUP.WIN 15 < 4 ∧ beamW s 15 ≤ 31 + 1 ∧ beamW s 15 = 32)
       ∧ (beamPower s 15 31 31 == 0) = true) := by
  decide +kernel

theorem test_meets_SpectraComplete :
    (let s : State := { setChz (inMode .image) (fun c => { c with running := true }) with cnv := { State.reset.cnv with histEnd := 2048 } }
     (s.chz.running = true ∧ 2048 * (s.chz.nextN + 1) ≤ s.cnv.histEnd))
    ∧ (let s : State := setChz (inMode .image) (fun c => { c with running := true, nextN := 8, wait4 := [⟨5, 2, 0, [], []⟩], wait8 := [⟨5, 0, 8, [], []⟩] })
     (s.chz.wait4 = ⟨5, 2, 0, [], []⟩ :: [] ∧ s.chz.wait8 = ⟨5, 0, 8, [], []⟩ :: [] ∧ 5 + 2 < s.chz.nextN)
       ∧ (after (exec (.spectrumDeadlineMiss false) s) (fun t => rd t Obj.CHZ_STATUS.DL_TOTAL == 1
          && mapGet t.chz.invDl4 1 == 1 && mapGet t.chz.invDl4 0 == 0)
          && after (exec (.spectrumDeadlineMiss true) s) (fun t => rd t Obj.CHZ_STATUS.DL_TOTAL == 1
          && mapGet t.chz.invDl8 3 == 1)) = true) := by
  refine ⟨?_, ?_⟩ <;> decide +kernel

theorem test_meets_FragmentBuildComplete :
    (let s : State := { setBbl (inMode .watch) (fun b => { b with windows := [{ aWindow with credit := false }] }) with trg := { State.reset.trg with queue := [aRecord] } }
     (nextToReserve s = some { aWindow with credit := false }
          ∧ (takeRecordOf s { aWindow with credit := false }).isSome = true
          ∧ (makeRoom (s.evt.frags.length + 1) s (if s.evt.head + lMax 8 (rd s Obj.EVT_CTRL.CODE) ≤ evtSize s then s.evt.head else 0) (lMax 8 (rd s Obj.EVT_CTRL.CODE))).1 = true)
       ∧ (after (exec .fragmentReserve s) fun t => (match t.evt.frags with | [f] => f.serial == 1 && f.state == .building && f.size == lMax 8 (rd s Obj.EVT_CTRL.CODE) && t.evt.head == f.size | _ => false) && t.bbl.windows.all (fun w => w.credit)) = true)
    ∧ (let s : State := { setBbl (inMode .watch) (fun b => { b with windows := [{ aWindow with credit := false, source := 3 }] }) with evt := { State.reset.evt with frags := [{ aFragment with off := 12582912 - 4264, serial := 7 }], head := 12582912 - 4264 } }
     (nextToReserve s = some { aWindow with credit := false, source := 3 }
          ∧ (takeRecordOf s { aWindow with credit := false, source := 3 }).isSome = true
          ∧ (makeRoom (s.evt.frags.length + 1) s (if s.evt.head + lMax 8 (rd s Obj.EVT_CTRL.CODE) ≤ evtSize s then s.evt.head else 0) (lMax 8 (rd s Obj.EVT_CTRL.CODE))).1 = true)
       ∧ (after (exec .fragmentReserve s) fun t => match t.evt.frags with | [_, f] => f.off == 0 && f.serial == 1 | _ => false) = true)
    ∧ (let s : State := setBbl (holding { aFragment with state := .building }) (fun b => { b with leaving := [{ aWindow with segs := [3], raw := [[]] }] })
     (eventCut s = false ∧ s.evt.feed.any (jobReady s) = false ∧ s.evt.frags.find? (fun f => f.state == .building
          && f.window.isNone) = some { aFragment with state := .building }
          ∧ fragOf s 1 = some { aFragment with state := .building } ∧ (s.bbl.windows
          ++ s.bbl.leaving).find? (fun w => w.id == aFragment.windowId) = some { aWindow with segs := [3], raw := [[]] } ∧ aFragment.cells.length < 1)
       ∧ (after (exec .segmentToEvent s) fun t => (fragOf t 1).any (fun g => g.cells.length == 1
          && g.window == some { aWindow with segs := [3], raw := [[]] }) && t.mem == s.mem
          && t.evt.feed.length == 1024) = true)
    ∧ (let s : State := powered [93, 94] (setCmp (holding { aFragment with state := .building, window := some aWindow, toCode := 1 }) (fun c => { c with coder := [⟨1, 255, 3⟩] }))
     (domCycling s 337 = false ∧ queueRoom s 7 = true ∧ (∀ d ∈ domRange 93 94, domOn s d = true)
          ∧ s.cmp.coder = ⟨1, 255, 3⟩ :: []
          ∧ fragOf s 1 = some { aFragment with state := .building, window := some aWindow, toCode := 1 })
       ∧ (after (exec (.frBlockCoded true) s) (fun t => t.cmp.coder == [] && rd t Obj.CMP_STATUS.FR_BLOCKS == 1
          && rd t Obj.CMP_STATUS.FR_VOID == 1 && (fragOf t 1).any (fun g => g.blocks == [(16323, voidBlock 8, true)]
          && g.toCode == 0) && t.mem == memWrite s.mem (evtAddr s (blockPlace aFragment 255 3)) (voidBlock 8))
            && after (exec (.frBlockCoded false) s) (fun t => rd t Obj.CMP_STATUS.FR_VOID == 0
          && (fragOf t 1).any (fun g => g.blocks.length == 1 && g.blocks.all (fun b => b.2.2 == false
          && b.2.1.length == blockBytes 8)))) = true)
    ∧ (let s : State := inMode .test
     (modeOf s = .test)
       ∧ (after (exec .verifyTest s) fun t => t.cmp.failNext) = true)
    ∧ (let s : State := inMode .watch
     (modeOf s ≠ .test)
       ∧ (after (exec .verifyTest s) fun t => t == s) = true)
    ∧ (let s : State := holding { aFragment with state := .building, window := some aWindow }
     (eventCut s = false ∧ s.evt.frags.find? (fun f => f.state == .building && f.window.isSome
          && f.toCode == 0) = some { aFragment with state := .building, window := some aWindow }
          ∧ fragOf s 1 = some { aFragment with state := .building, window := some aWindow })) := by
  refine ⟨?_, ?_, ?_, ?_, ?_, ?_, ?_⟩ <;> decide +kernel

theorem test_meets_FragmentDeliveryComplete :
    (let s : State := holding aFragment (setRing (ringWith 5 1 1) 5 (fun x => { x with descs := [⟨0x480000000, 32768, true⟩] }))
     (fragOf s 1 = some aFragment ∧ aFragment.state = .pending ∧ modeOf s ≠ .vigil
          ∧ firstOfItsKind s aFragment = true ∧ destinationReady s aFragment = true ∧ aFragment.ship.mode < 3)
       ∧ (after (exec (.fragmentSend 1) s) fun t => (fragOf t 1).any (fun g => g.state == .transfer)) = true)
    ∧ (let s : State := holding { aFragment with ship := ⟨3, 0, 3, 1⟩ } (setAxPort (having Obj.AXL_PORT_STATUS.UP 12 1 State.reset) 12 (fun p => { p with credit := [0, 0, 9, 9] }))
     (fragOf s 1 = some { aFragment with ship := ⟨3, 0, 3, 1⟩ } ∧ modeOf s ≠ .vigil
          ∧ firstOfItsKind s { aFragment with ship := ⟨3, 0, 3, 1⟩ } = true
          ∧ destinationReady s { aFragment with ship := ⟨3, 0, 3, 1⟩ } = true)
       ∧ (after (exec (.fragmentAnnounce 1) s) fun t => (fragOf t 1).any (fun g => g.state == .offered)) = true)
    ∧ (let s : State := holding { aFragment with state := .transfer }
     (fragOf s 1 = some { aFragment with state := .transfer } ∧ aFragment.ship.mode < 2
          ∧ (ringOf s 5).queue.any (fun r => r.src == .fragment 1) = false)
       ∧ (after (exec (.fragmentTransferDone 1) s) fun t => rd t Obj.EVT_STATUS.DELIVERED == 1) = true)
    ∧ (let s : State := holding { aFragment with state := .transfer, ship := ⟨2, 0, 0, 1⟩ }
     (fragOf s 1 = some { aFragment with state := .transfer, ship := ⟨2, 0, 0, 1⟩ })
       ∧ (after (exec (.fragmentTransferDone 1) s) fun t => (fragOf t 1).any (fun g => g.state == .offered)) = true)
    ∧ (let s : State := holding { aFragment with state := .transfer, rejected := true, ship := ⟨3, 0, 0, 1⟩ }
     (fragOf s 1 = some { aFragment with state := .transfer, rejected := true, ship := ⟨3, 0, 0, 1⟩ })
       ∧ (after (exec (.fragmentTransferDone 1) s) fun t => rd t Obj.EVT_STATUS.REJECTED == 1) = true)
    ∧ (let s : State := holding { aFragment with state := .offered, ship := ⟨3, 0, 0, 1⟩, offers := 7 }
     (fragOf s 1 = some { aFragment with state := .offered, ship := ⟨3, 0, 0, 1⟩, offers := 7 })
       ∧ (after (exec (.fragmentOfferTimer 1) s) (fun t => (fragOf t 1).any (fun g => g.offers == 8))
          && after (exec (.replyAccept 1) s) (fun t => rd t Obj.EVT_STATUS.DELIVERED == 1)
          && after (exec (.replyReject 1) s) (fun t => rd t Obj.EVT_STATUS.REJECTED == 1)
          && after (exec (.replyRequest 1 (2 ^ 48 + 5)) s) (fun t => (fragOf t 1).any (fun g => g.state == .transfer
          && g.bytes == withGlobalId (List.replicate 40 1) 5)
          && t.mem == memWrite s.mem (evtAddr s 0) (withGlobalId (List.replicate 40 1) 5))) = true)
    ∧ (let s : State := holding { aFragment with state := .offered, ship := ⟨2, 0, 0, 1⟩ }
     (heldFrag s 1 = some { aFragment with state := .offered, ship := ⟨2, 0, 0, 1⟩ })
       ∧ (after (exec (.replyRequest 1 5) s) fun t => t.evt.badRequests == 1 && t.mem == s.mem
          && rd t Obj.EVT_STATUS.GONE == 0) = true)
    ∧ (let s : State := holding { aFragment with state := .released, ship := ⟨3, 0, 0, 1⟩ }
     (heldFrag s 1 = none)
       ∧ (after (exec (.replyRequest 1 5) s) fun t => rd t Obj.EVT_STATUS.GONE == 1 && t.mem == s.mem) = true) := by
  refine ⟨?_, ?_, ?_, ?_, ?_, ?_, ?_, ?_⟩ <;> decide +kernel

theorem test_meets_IntegrationsComplete :
    (let s : State := having Obj.DAH_DUMP.DEST 0 0 (having Obj.DAH_BAND.K_COUNT 0 64 (correlating id))
     (startStatus s = 0)
       ∧ (after (exec .startNow s) fun t => t.dah.next == some (newSeq s (nextBlock s)) && t.dah.seqs == []
          && rd t Obj.DAH_STATUS.PENDING == 0) = true)
    ∧ (let s : State := correlating (fun d => { d with next := some (aSeq 3) })
     (s.dah.next = some (aSeq 3) ∧ s.dah.started = true ∧ s.dah.stopAt = none
          ∧ (aSeq 3).start ≤ s.time.rc64 / 2048 + 3)
       ∧ (after (exec .integrationStart s) fun t => t.dah.seqs == [aSeq 3] && t.dah.next == none
          && rd t Obj.DAH_STATUS.RUNNING == 1 && rd t Obj.DAH_STATUS.INT_SEQ == 0
          && rd t Obj.DAH_STATUS.SEQ_SPX == 3) = true)
    ∧ (let s : State := correlating (fun d => { d with expect := 2048, stopAt := some 2048, seqs := [aSeq 1024] })
     (s.dah.stopAt = some 2048 ∧ dahCur s = some (aSeq 1024) ∧ 2048 ≤ s.dah.expect ∧ s.dah.closing = false)
       ∧ (after (exec .integrationStopBoundary s) fun t => t.dah.closing && t.dah.seqs == [aSeq 1024]) = true)
    ∧ (let s : State := correlating (fun d => { d with expect := 2048, stopAt := some 2048, closing := true, seqs := [aSeq 1024] })
     (s.dah.closing = true ∧ s.dah.toQueue = [])
       ∧ (after (exec .closingPassDone s) fun t => t.dah.seqs == [] && t.dah.stopAt == none && !t.dah.closing
          && rd t Obj.DAH_STATUS.RUNNING == 0) = true) := by
  refine ⟨?_, ?_, ?_, ?_⟩ <;> decide +kernel

theorem test_meets_DahliaGroupsComplete :
    (let s : State := setChz (correlating (fun d => { d with expect := 64 })) (fun c => { c with full := [⟨64, 0, []⟩] })
     (s.dah.started = true ∧ s.dah.toQueue = [] ∧ waitingN0 s = some s.dah.expect
          ∧ (pastStop s s.dah.expect = false ∨ startWaits s s.dah.expect = false))
       ∧ (after (exec (.dahliaGroup ⟨[], [], []⟩) s) fun t => t.dah.expect == 128) = true)
    ∧ (let s : State := setChz (correlating (fun d => { d with expect := 64 })) (fun c => { c with nextN := 128 })
     (s.dah.started = true ∧ s.dah.toQueue = [] ∧ groupGone s = true ∧ waitingN0 s ≠ some s.dah.expect
          ∧ pastStop s s.dah.expect = false)
       ∧ (after (exec .dahliaGroupMissing s) fun t => t.dah.expect == 128
          && rd t Obj.DAH_STATUS.GROUPS_MISSING == 1) = true)
    ∧ (let s : State := atTick 4194304 (correlating (fun d => { d with expect := 1024, seqs := [aSeq 1024] }))
     (s.dah.started = true ∧ admittedLate s s.dah.expect = true)
       ∧ (after (exec .dahliaBlockDiscard s) fun t => t.dah.dropBlock == some 1024 && t.dah.discards == [1024]
          && rd t Obj.DAH_STATUS.BLOCKS_DISCARDED == 1) = true)
    ∧ (let s : State := correlating (fun d => { d with toQueue := [⟨[], [], [], 0, 0, 0, 0, 0, 0, false⟩] })
     (s.dah.toQueue ≠ [])
       ∧ (after (exec (.dumpWait 11) s) (fun t => t.dah.waited && rd t Obj.DAH_STATUS.DUMP_WAIT_US == 11)
          && after (exec (.dumpWait 10) s) (fun t => t.dah == s.dah
          && rd t Obj.DAH_STATUS.DUMP_WAIT_US == 10)) = true) := by
  refine ⟨?_, ?_, ?_, ?_⟩ <;> decide +kernel

theorem test_meets_GroupMessagesComplete :
    (let s : State := having Obj.PEER_STATUS.STATE 0 2 (inMode .idle)
     (peerStage s = 2 ∧ memberNo s = 0 ∧ 2 ≤ peerStage s ∧ peerStage s ≤ 4 ∧ s.time.civil < 5 * nsSecond
          ∧ s.flt.active.length < 1024 ∧ readyAgrees s ⟨3, 15, 0, true⟩ = false)
       ∧ (after (exec .peerReadyTimer s) (fun t => modeOf t == .idle && t.peer.readies.any (fun r => r.member == 0))
          && after (exec (.groupReady 4 ⟨3, true, 15, 0, 0, 0⟩) s) (fun t => t.peer.readies.any (fun r => r.member == 3) && faultActive t 0x0803 3 && peerStage t == 2) && after (exec (.groupGo 4 ⟨0, true, 1, 0, 5, 2 ^ 32 + 1024⟩) s) (fun t => peerStage t == 3 && t.peer.goSec == 5 && t.peer.goGspx == 1024)) = true)
    ∧ (let s : State := { having Obj.PEER_STATUS.STATE 0 2 (toward .peerSync .peer State.reset) with ctl := { State.reset.ctl with chipId := 1 } }
     (peerStage s = 2 ∧ memberNo s ≠ 0)
       ∧ (after (exec .peerReadyTimer s) (fun t => modeOf t == .idle && peerStage t == 2 && t.peer.readies == [])
          && after (exec (.groupGo 4 ⟨0, true, 1, 0, 0, 1024⟩) s) (fun t => phaseOf t == .aborting
          && modeTarget t == .idle)
          && after (exec (.groupStop 4 ⟨0, true, 1, 0, 0, 2048⟩) s) (fun t => peerStage t == 0
          && phaseOf t == .aborting && modeTarget t == .idle)) = true)
    ∧ (let s : State := { setPeer (peering 4) (fun p => { p with newcomers := 8 }) with ctl := { State.reset.ctl with chipId := 1 } }
     (peerStage s = 4 ∧ memberNo s ≠ 0 ∧ bit s.peer.newcomers 3 = true)
       ∧ (after (exec (.groupReady 4 ⟨2, true, 1, 0, 0, 0⟩) s) (fun t => bit t.peer.newcomers 2 && peerStage t == 4)
          && after (exec (.groupGo 4 ⟨0, true, 1, 0, 0, 1024⟩) s) (fun t => t.peer.newcomers == 0
          && mapGet t.peer.rejoin 3 == 1025 && mapGet t.peer.rejoin 2 == 0)
          && after (exec (.groupStop 4 ⟨0, true, 1, 0, 0, 2048⟩) s) (fun t => peerStage t == 5
          && t.peer.stopAt == some 2048 && t.peer.byLeader)
          && after (exec (.groupLeave 4 ⟨3, true, 1, 0, 0, 2048⟩) s) (fun t => mapGet t.peer.left 3 == 2049)) = true) := by
  refine ⟨?_, ?_, ?_⟩ <;> decide +kernel

theorem test_meets_PeerDataComplete :
    (let s : State := setPeer (having Obj.PEER_STATUS.LIVE 0 2 (peering 4)) (fun p => { p with buffers := [⟨64, 0, []⟩] })
     (0 % 16 = memberNo s ∧ peerDataAt s 64 = true ∧ memberCounts s 1 64 = true
          ∧ 0 ≤ spxDist (groupOf 64) s.peer.nextClose ∧ s.peer.buffers.any (fun b => b.g0 == groupOf 64) = true))
    ∧ (let s : State := setPeer (having Obj.PEER_STATUS.LIVE 0 2 (peering 4)) (fun p => { p with nextClose := 128 })
     (0 % 16 = memberNo s ∧ peerDataAt s 127 = true ∧ memberCounts s 1 127 = true
          ∧ spxDist (groupOf 127) s.peer.nextClose < 0)
       ∧ (after (exec (.peerPacket 4 ⟨127, 1, 0, 65535, []⟩) s) fun t => rd t Obj.PEER_MEMBER.LATE 1 == 1) = true)
    ∧ (let s : State := setPeer (peering 4) (fun p => { p with sends := List.replicate 32 ⟨3, packetRoute (peering 4) 64 (some 1) 3, 0, [], false⟩ })
     (3 % 16 ≠ memberNo s ∧ 32 ≤ sendsFor s (packetRoute s 64 (some 1) 3))
       ∧ (after (exec (.peerPacket 4 ⟨64, 1, 3, 65535, []⟩) s) fun t => t == s) = true)
    ∧ (let s : State := setPeer (setChz (peering 4) (fun c => { c with nextN := 128 })) (fun p => { p with buffers := [⟨0, 1, []⟩] })
     (peerDataAt s s.peer.nextClose = true ∧ 0 < s.chz.nextN
          ∧ 127 ≤ spxDist (toGroupSpx s (s.chz.nextN - 1)) s.peer.nextClose)
       ∧ (after (exec .peerBufferClose s) fun t => t.peer.nextClose == 64 && t.peer.full.length == 1) = true)
    ∧ (let s : State := setPeer (setChz (inMode .peer) (fun c => { c with nextN := 65 })) (fun p => { p with sends := [⟨1, 0, 0, [], true⟩] })
     ((takeFirst (fun x : PeerSend => decide (0 < s.chz.nextN)
          && decide (64 ≤ spxDist (toGroupSpx s (s.chz.nextN - 1)) x.gspx)) s.peer.sends) = some (⟨1, 0, 0, [], true⟩, []) ∧ s.peer.input = [])
       ∧ (after (exec .peerSendAgeDiscard s) fun t => t.peer.sends == []
          && rd t Obj.PEER_MEMBER.SEND_DROPPED 1 == 1) = true)
    ∧ (let s : State := atTick 2097152 (having Obj.PEER_STATUS.LIVE 0 8 (peering 4))
     (peerStage s = 4 ∧ 3 ≠ memberNo s ∧ 3 < memberCount s ∧ memberLive s 3 = true ∧ mapGet s.peer.left 3 = 0
          ∧ 1024 ≤ spxDist (gspxNow s) (mapGet s.peer.heard 3) ∧ s.flt.active.length < 1024)
       ∧ (after (exec (.peerMemberLost 3) s) fun t => !memberLive t 3 && faultActive t 0x0806 3) = true) := by
  refine ⟨?_, ?_, ?_, ?_, ?_, ?_⟩ <;> decide +kernel

theorem test_meets_ConcentratorComplete :
    (let s : State := setConc (inMode .concentrate) (fun c => { c with closed := [⟨1, 0, false, false, 0, 0⟩] })
     (modeOf s = .concentrate ∧ fetchingOf s ⟨2, 9, 1, 1, []⟩ = none ∧ joinWhich s ⟨2, 9, 1, 1, []⟩ = none
          ∧ closedMatch s ⟨2, 9, 1, 1, []⟩ = some ⟨1, 0, false, false, 0, 0⟩
          ∧ stillFetching s ⟨1, 0, false, false, 0, 0⟩ = none)
       ∧ (after (exec (.concFragmentArrival 4 ⟨2, 9, 1, 1, []⟩) s) (fun t => rd t Obj.PEER_CONC_STATUS.LATE == 1)
          && after (exec (.concAnnouncementArrival 4 ⟨2, 9, 1, 1, []⟩) s) (fun t => rd t Obj.PEER_CONC_STATUS.LATE == 1)) = true)
    ∧ (let s : State := having Obj.PEER_CONC.FRONT_MASK 0 12 (inMode .concentrate)
     (modeOf s = .concentrate ∧ fetchingOf s ⟨2, 9, 1, 1, []⟩ = none ∧ joinWhich s ⟨2, 9, 1, 1, []⟩ = none
          ∧ closedMatch s ⟨2, 9, 1, 1, []⟩ = none ∧ eventsOpen s = true ∧ s.conc.opened.length < 8192
          ∧ bit 1 0 = true ∧ (bit (rd s Obj.PEER_CONC.FRONT_MASK) 3 = true ∧ 3 ≠ 2 % 16))
       ∧ (after (exec (.concFragmentArrival 4 ⟨2, 9, 1, 1, []⟩) s) (fun t => t.conc.opened.map (fun d => (d.timeFirst, d.openedAt, d.parts.length)) == [(1, 0, 1)]) && after (exec (.concAnnouncementArrival 4 ⟨2, 9, 1, 1, []⟩) s) (fun t => t.conc.opened.map (fun d => (d.timeFirst, d.openedAt, d.parts.length)) == [(1, 0, 1)])) = true)
    ∧ (let s : State := setConc (inMode .concentrate) (fun c => { c with opened := [{ aContext .building with openedAt := 9 }, { aContext .building with timeFirst := 3, cfg := fieldSet [] Obj.PEER_L3.ENABLE 0 0 }] })
     (firstDue s .building (fun c => c.openedAt + 1600 * c.get Obj.PEER_CONC.BUILD_US) = some 1
          ∧ s.conc.opened[1]? = some { aContext .building with timeFirst := 3, cfg := fieldSet [] Obj.PEER_L3.ENABLE 0 0 }))
    ∧ (let s : State := setConc (inMode .concentrate) (fun c => { c with opened := [{ aContext .building with cfg := fieldSet (fieldSet [] Obj.PEER_L3.ENABLE 0 1) Obj.PEER_L3.MIN_DEV 0 2 }] })
     (firstDue s .building (fun c => c.openedAt + 1600 * c.get Obj.PEER_CONC.BUILD_US) = some 0))
    ∧ (let s : State := setConc (inMode .concentrate) (fun c => { c with opened := [{ aContext .fetching with cfg := fieldSet [] Obj.PEER_INTF.MODE 0 1 }] })
     (firstDue s .fetching (fun c => c.openedAt + 1600000 * c.get Obj.PEER_CONC.FETCH_MS) = some 0
          ∧ s.conc.opened[0]? = some { aContext .fetching with cfg := fieldSet [] Obj.PEER_INTF.MODE 0 1 }
          ∧ ({ aContext .fetching with cfg := fieldSet [] Obj.PEER_INTF.MODE 0 1 } : EventContext).get Obj.PEER_INTF.MODE ≠ 0 ∧ s.conc.opened.findIdx? (fun c => c.phase == .fetching && c.parts.any (fun p => p.chip == 2 % 16 && p.serial == 9 && p.bytes.isNone)) = some 0)
       ∧ ((let good (o : Host.Outcome State Fault Refusal) : Bool := after o fun t => t.conc.opened == [{ aContext .interfering with cfg := fieldSet [] Obj.PEER_INTF.MODE 0 1, parts := [⟨2, 9, 1, 1, none, 4, true⟩] }];
            good (exec .fetchTimeout s) && good (exec (.concGone 4 2 9) s))) = true)
    ∧ (let s : State := setConc (inMode .concentrate) (fun c => { c with opened := [aContext .fetching] })
     (firstDue s .fetching (fun c => c.openedAt + 1600000 * c.get Obj.PEER_CONC.FETCH_MS) = some 0
          ∧ s.conc.opened[0]? = some (aContext .fetching) ∧ (aContext .fetching).get Obj.PEER_INTF.MODE = 0)
       ∧ (after (exec .fetchTimeout s) fun t => t == deliverContext (setConc s (fun c => { c with opened := [{ aContext .fetching with parts := [⟨2, 9, 1, 1, none, 4, true⟩] }] })) 0) = true)
    ∧ (let s : State := setConc (inMode .concentrate) (fun c => { c with opened := [{ aContext .fetching with parts := [⟨2, 9, 1, 1, none, 4, false⟩, ⟨3, 8, 1, 1, none, 8, false⟩] }] })
     (s.conc.opened.findIdx? (fun c => c.phase == .fetching && c.parts.any (fun p => p.chip == 2 % 16
          && p.serial == 9 && p.bytes.isNone)) = some 0)
       ∧ (after (exec (.concGone 4 2 9) s) fun t => t.conc.opened == [{ aContext .fetching with parts := [⟨2, 9, 1, 1, none, 4, true⟩, ⟨3, 8, 1, 1, none, 8, false⟩] }]) = true)
    ∧ (let s : State := powered [343] (setConc (inMode .concentrate) (fun c => { c with opened := [aContext .interfering] }))
     (firstDue s .interfering (fun c => c.openedAt) = some 0 ∧ s.conc.opened[0]? = some (aContext .interfering)
          ∧ xcorrDrops (aContext .interfering) = false ∧ eventRoom s = true ∧ s.conc.ready = []
          ∧ ∀ d ∈ s.conc.opened, d.phase ≠ .ready)
       ∧ (after (exec .interferometryDone s) fun t => t.conc.opened == []
          && t.conc.out == [builtEvent (aContext .interfering)]) = true)
    ∧ (let s : State := domIs 343 0 (setConc (inMode .concentrate) (fun c => { c with opened := [aContext .interfering] }))
     (firstDue s .interfering (fun c => c.openedAt) = some 0 ∧ s.conc.opened[0]? = some (aContext .interfering)
          ∧ xcorrDrops (aContext .interfering) = false ∧ eventRoom s = false)
       ∧ (after (exec .interferometryDone s) fun t => t.conc.opened == [aContext .ready] && t.conc.out == []
          && t.conc.ready == [0]) = true)
    ∧ (let s : State := setConc (inMode .concentrate) (fun c => { c with opened := [{ aContext .interfering with cfg := fieldSet (fieldSet [] Obj.PEER_L3.ENABLE 0 8) Obj.PEER_L3.MIN_PEAKS 0 1 }] })
     (firstDue s .interfering (fun c => c.openedAt) = some 0 ∧ s.conc.opened.any xcorrDrops = true)
       ∧ (after (exec .interferometryDone s) fun t => t.conc.opened == []
          && rd t Obj.PEER_CONC_STATUS.XCORR_DROPPED == 1) = true) := by
  refine ⟨?_, ?_, ?_, ?_, ?_, ?_, ?_, ?_, ?_, ?_⟩ <;> decide +kernel

theorem test_meets_ContextSetsComplete :
    (let s : State := setSun (setChz (inMode .beam) (fun c => { c with nextN := 64 })) (fun x => { x with running := true })
     (s.sun.running = true ∧ sunGroupReady s = true ∧ switchDue s = false)
       ∧ (after (exec (.sunGroup []) s) fun t => t.sun.group == 64) = true)
    ∧ (let s : State := having Obj.SUN_STATUS.PENDING_STATE 0 1 (setSun (inMode .beam) (fun x => { x with switchAt := some 640 }))
     (pendingState s ≠ 0 ∧ pendingState s ≠ 2)
       ∧ (after (exec .sunArm s) (fun t => pendingState t == 2)
          && after (exec .sunSwitchNow s) (fun t => pendingState t == 2
          && t.sun.switchAt == some (min (switchGroup 1) 640))
          && after (exec .sunCopy s) (fun t => pendingState t == 1 && t.sun.pendingSet == s.sun.active
          && rd t Obj.SUN_SWITCH.SPX_REF == s.sun.active.ref % 2 ^ 32)) = true)
    ∧ (let s : State := State.reset
     (pendingState s = 0)
       ∧ (after (exec .sunArm s) (fun t => t == s) && after (exec .sunSwitchNow s) (fun t => t == s)) = true)
    ∧ (let s : State := having Obj.SUN_SWITCH.SPX_REF 0 64 (having Obj.SUN_STATUS.PENDING_STATE 0 2 (setSun (inMode .beam) (fun x => { x with running := true, group := 64, switchAt := some 64 })))
     (pendingState s = 2 ∧ s.sun.running = true ∧ switchDue s = true)
       ∧ (after (exec .sunDisarm s) (fun t => pendingState t == 1) && after (exec .sunCopy s) (fun t => t == s)
          && after (exec .setSwitch s) (fun t => pendingState t == 0 && t.sun.switchAt == none
          && t.sun.active == { s.sun.pendingSet with ref := 64 } && t.sun.pendingSet == s.sun.active
          && rd t Obj.SUN_STATUS.ACTIVE_SET == 1 && rd t Obj.SUN_STATUS.SET_GEN == 1)) = true)
    ∧ (let s : State := having Obj.SUN_STATUS.PENDING_STATE 0 1 (setSun (inMode .beam) (fun x => { x with running := true, group := 64, switchAt := some 64 }))
     (pendingState s ≠ 2 ∧ s.sun.running = true ∧ switchDue s = true)
       ∧ (after (exec .setSwitch s) fun t => t.sun.switchAt == none && t.sun.active == s.sun.active
          && rd t Obj.SUN_STATUS.SKIPPED == 1) = true)
    ∧ (let s : State := setSun (inMode .beam) (fun x => { x with running := true, group := 2 ^ 31 })
     (s.sun.running = true ∧ s.sun.aged = false
          ∧ 2 ^ 31 ≤ (s.sun.group + 2 ^ 32 - s.sun.active.ref % 2 ^ 32) % 2 ^ 32 ∧ s.flt.active.length < 1024)
       ∧ (after (exec .contextAged s) fun t => t.sun.aged && faultActive t 0x0905 0) = true) := by
  refine ⟨?_, ?_, ?_, ?_, ?_, ?_⟩ <;> decide +kernel

theorem test_meets_FieldStoreComplete :
    (let s : State := domIs 336 2 State.reset
     (domOn s (bankDom 159) = true ∧ halfReady s 159 (halfOfWord (wordNo 159 32767 7)) = false)
       ∧ (after (exec (.fstMasterRead 4 159 32767 7 0) s) fun t => t.mem == s.mem && t.fst == s.fst
          && rd t Obj.FST_STATUS.UNINIT_READS == 1) = true)
    ∧ (let s : State := setFst (domIs 336 2 (having Obj.FST_BANK.INIT 159 3 State.reset)) (fun x => { x with bad := [(wordNo 159 32767 7, 1)] })
     (domOn s (bankDom 159) = true ∧ halfReady s 159 (halfOfWord (wordNo 159 32767 7)) = true
          ∧ 2 ≤ readClass s (wordNo 159 32767 7) 0)
       ∧ (after (exec (.fstMasterRead 4 159 32767 7 0) s) fun t => mapGet t.fst.bad (wordNo 159 32767 7) == 1
          && rd t Obj.FST_STATUS.UE_TOTAL == 1) = true)
    ∧ (let s : State := domIs 336 2 State.reset
     (regionWriter s 4 (wordNo 159 32767 7) = false ∧ s.flt.active.length < 1024)
       ∧ (after (exec (.fstWrite 4 159 32767 7 255 0x0807060504030201 true 0) s) fun t => t.mem == s.mem
          && t.fst == s.fst && faultActive t 0x0C02 4) = true)
    ∧ (let s : State := domIs 336 2 State.reset
     (regionWriter s 0 (wordNo 159 32767 7) = true ∧ domOn s (bankDom 159) = true
          ∧ placeOfWord s (wordNo 159 32767 7) = .plain)
       ∧ (after (exec (.fstWrite 0 159 32767 7 255 0x0807060504030201 true 0) s) (fun t => mapGet t.fst.bad (wordNo 159 32767 7) == 1 && (List.range 8).all (fun j => memGet t.mem (wordAddr (wordNo 159 32767 7) + j) == BitVec.ofNat 8 (j + 1))) && after (exec (.fstWrite 0 159 32767 7 0 1 true 0) s) (fun t => t.mem == s.mem && t.fst == s.fst)) = true)
    ∧ (let s : State := domIs 336 2 { having Obj.FST_BANK.INIT 159 3 State.reset with mem := [(wordAddr (wordNo 159 32767 7), 9), (wordAddr (wordNo 159 32767 7) + 1, 8)] }
     (regionWriter s 7 (wordNo 159 32767 7) = true ∧ domOn s (bankDom 159) = true
          ∧ placeOfWord s (wordNo 159 32767 7) = .plain ∧ readClass s (wordNo 159 32767 7) 0 = 0)
       ∧ (after (exec (.fstWrite 7 159 32767 7 129 0x0807060504030201 false 0) s) fun t => (List.range 8).map (fun j => memGet t.mem (wordAddr (wordNo 159 32767 7) + j)) == [1, 8, 0, 0, 0, 0, 0, 8]) = true)
    ∧ (let s : State := atTick 7 (domIs 336 2 (having Obj.FST_SCRUB.ENABLE 0 1 (having Obj.FST_BANK.INIT 159 3 State.reset)))
     (rd s Obj.FST_SCRUB.ENABLE ≠ 0 ∧ domOn s (bankDom 159) = true ∧ halfReady s 159 1 = true)
       ∧ (after (exec (.scrubRead 159 32767 [] true) s) (fun t => t.fst.passStart == 7
          && rd t Obj.FST_STATUS.PASSES == 1)
          && after (exec (.scrubRead 159 32767 [] false) s) (fun t => t.fst.passStart == 0
          && rd t Obj.FST_STATUS.PASSES == 0)) = true)
    ∧ (let s : State := atTick (2 ^ 60) (having Obj.FST_SCRUB.ENABLE 0 1 State.reset)
     (rd s Obj.FST_SCRUB.ENABLE ≠ 0 ∧ s.fst.passStart + 2 * s.fst.passPeriod * 1600000000 < s.time.rc64
          ∧ s.flt.active.length < 1024)
       ∧ (after (exec .scrubLate s) fun t => faultActive t 0x0A08 0 && t.fst == s.fst) = true)
    ∧ (let s : State := domIs 177 4 State.reset
     (domState s (bankDom 0) = 4)
       ∧ (after (exec (.retfailLatch 0) s) fun t => bit t.fst.retfail 0) = true)
    ∧ (let s : State := setFst (domIs 177 1 (setPwr (toward .up .image State.reset) (fun p => { p with fromRetain := [177] }))) (fun x => { x with retfail := 1 })
     (s.pwr.fromRetain.contains (bankDom 0) = true ∧ domState s (bankDom 0) = 1 ∧ bit s.fst.retfail 0 = true
          ∧ phaseOf s ≠ .steady ∧ phaseOf s ≠ .aborting ∧ modeTarget s ≠ .idle
          ∧ bankUsed (modeTarget s) (targetWatch s) (targetMap s) 0 = true)
       ∧ (after (exec (.bankWakeCheck 0 []) s) fun t => !t.pwr.fromRetain.contains 177
          && rd t Obj.FST_BANK.RETFAIL 0 == 1 && rd t Obj.FST_BANK.INIT 0 == 0 && rd t Obj.FST_BANK.LOST 0 == 1
          && phaseOf t == .aborting && modeTarget t == .idle) = true)
    ∧ (let s : State := domIs 336 2 { State.reset with mem := [(wordAddr (wordNo 159 16384 0) + 131071, 7)] }
     (domOn s (bankDom 159) = true ∧ halfReady s 159 1 = false)
       ∧ (after (exec (.halfBankInitDone 159 1) s) fun t => halfReady t 159 1
          && memGet t.mem (wordAddr (wordNo 159 16384 0) + 131071) == 0) = true) := by
  refine ⟨?_, ?_, ?_, ?_, ?_, ?_, ?_, ?_, ?_, ?_⟩ <;> decide +kernel

theorem test_meets_MemoryFrame :
    (let s : State := { State.reset with mem := [(0x10000000, 7), (0x10000010, 9)] }
     (memGet s.mem 0x10000000 = 7 ∧ targetOf s 0x10000008 = .controlSram ∧ targetOf s 0x10000008 ≠ .fieldStore
          ∧ (0x10000000 < sramAddr 0x10000008))
       ∧ (after (exec (.matrixTransaction ⟨0, true, 0x10000008, 8, [1, 1, 1, 1, 1, 1, 1, 1], 255, false, 1, false⟩) s) fun t => memGet t.mem 0x10000000 == 7 && memGet t.mem 0x10000010 == 9 && memGet t.mem 0x1000000F == 1) = true)
    ∧ (let s : State := domIs 336 2 { State.reset with mem := [(wordAddr (wordNo 159 32767 6), 9), (wordAddr (wordNo 159 32767 7) + 8, 8)] }
     (wordAddr (wordNo 159 32767 6) < wordAddr (wordNo 159 32767 7)
          ∧ wordAddr (wordNo 159 32767 7) + 8 ≤ wordAddr (wordNo 159 32767 7) + 8)
       ∧ (after (exec (.fstWrite 0 159 32767 7 255 0x0807060504030201 true 0) s) fun t => memGet t.mem (wordAddr (wordNo 159 32767 6)) == 9 && memGet t.mem (wordAddr (wordNo 159 32767 7) + 8) == 8 && memGet t.mem (wordAddr (wordNo 159 32767 7)) == 1) = true)
    ∧ (let s : State := domIs 336 2 (having Obj.FST_BANK.INIT 159 3 { State.reset with mem := [(wordAddr (wordNo 159 32767 7) - 1, 3), (wordAddr (wordNo 159 32767 7) + 8, 4)] })
     (wordAddr (wordNo 159 32767 7) - 1 < wordAddr (wordNo 159 32767 7))
       ∧ (let k := wordAddr (wordNo 159 32767 7);
            let same := fun (t : State) => memGet t.mem (k - 1) == 3 && memGet t.mem (k + 8) == 4;
            after (exec (.fstWrite 0 159 32767 7 255 5 false 0) s) same
          && after (exec (.fstMasterRead 4 159 32767 7 0) s) same
            && after (exec (.halfReadLow 7 true 335544312 0) s) same && after (exec (.imageAbort 3) s) same
            && after (exec (.bar2Read 335544312 1 [0]) s) same) = true)
    ∧ (let s : State := domIs 177 2 { State.reset with mem := [(0x100100000 - 1, 3), (0x100200000, 4)] }
     (halfReady s 0 1 = false)
       ∧ (after (exec (.halfBankInitDone 0 1) s) (fun t => memGet t.mem (0x100100000 - 1) == 3
          && memGet t.mem 0x100200000 == 4)
            && after (exec .vddAonPowerUp s) (fun t => t.mem == []) && after (exec .compareMismatch s) (fun t => t.mem == s.mem)) = true) := by
  refine ⟨?_, ?_, ?_, ?_⟩ <;> decide +kernel

theorem test_meets_MatrixAndQueuesComplete :
    (let s : State := powered [339] (setCmp State.reset (fun c => { c with queues := [[], [], [⟨2, 0, 5, [], 0, 0, 1, [], 100, 0, 0⟩]] }))
     (s.cmp.running.length = 3 ∧ nth s.cmp.running 2 none = none
          ∧ nth s.cmp.queues 2 [] = ⟨2, 0, 5, [], 0, 0, 1, [], 100, 0, 0⟩ :: [] ∧ domOn s 339 = true)
       ∧ (after (exec (.compressionJobStart 2) s) fun t => nth t.cmp.running 2 none == some (jobStarted s ⟨2, 0, 5, [], 0, 0, 1, [], 100, 0, 0⟩) && nth t.cmp.queues 2 [] == []) = true)
    ∧ (let s : State := setCmp State.reset (fun c => { c with running := [none, some ⟨1, 0, 5, [], 0, 0, 0, [1, 2], 100, 0, 0⟩, none] })
     (nth s.cmp.running 1 none = some ⟨1, 0, 5, [], 0, 0, 0, [1, 2], 100, 0, 0⟩ ∧ domCycling s 339 = false)
       ∧ (after (exec (.compressionJobEnd 1) s) fun t => (nth t.cmp.running 1 none).isNone) = true)
    ∧ (let s : State := atTick 16000000000 (raise State.reset 0x0B02 0 0 0)
     (10 * ticksPerSecond ≤ s.time.rc64 - s.cmp.lastFail)
       ∧ (after (exec .verifyRecurring s) fun t => !faultActive t 0x0B02 0) = true)
    ∧ (let s : State := State.reset
     (accessError s ⟨1, false, 0x10, 8, [], 0, false, 1, false⟩ = some (6, 0x0C01) ∧ s.flt.active.length < 1024)
       ∧ (after (exec (.matrixTransaction ⟨1, false, 0x10, 8, [], 0, false, 1, false⟩) s) fun t => flag t Obj.MOV_ERR.VALID && rd t Obj.MOV_ERR.COUNT == 1 && t.mem == s.mem && faultActive t 0x0C01 1) = true)
    ∧ (let s : State := { State.reset with mem := [(0x10000009, 7)] }
     (accessError s ⟨0, true, 0x10000008, 8, [1, 2], 5, false, 1, false⟩ = none
          ∧ targetOf s 0x10000008 = .controlSram
          ∧ accessError s ⟨0, false, 0x10000008, 8, [], 0, false, 1, false⟩ = none)
       ∧ (after (exec (.matrixTransaction ⟨0, true, 0x10000008, 8, [1, 2, 3], 5, false, 1, false⟩) s) (fun t => (List.range 8).all (fun j => memGet t.mem (0x10000008 + j) == (if j == 0 then 1 else if j == 1 then 7 else if j == 2 then 3 else 0))) && after (exec (.matrixTransaction ⟨0, false, 0x10000008, 8, [], 0, false, 1, false⟩) s) (fun t => t.out == .readData 0 8 0x700 0 :: s.out && t.mem == s.mem)) = true)
    ∧ (let s : State := having Obj.MOV_MAP.REMAP 0 1 { State.reset with mem := [(0x10000009, 7)] }
     (targetOf s 0x8 = .bootWindow ∧ flag s Obj.MOV_MAP.REMAP = true
          ∧ accessError s ⟨0, false, 0x8, 8, [], 0, false, 1, false⟩ = none)
       ∧ (after (exec (.matrixTransaction ⟨0, false, 0x8, 8, [], 0, false, 1, false⟩) s) (fun t => t.out == .readData 0 8 0x700 0 :: s.out && t.mem == s.mem)) = true)
    ∧ (let s : State := State.reset
     (∀ q : Fin 16, mapGet s.mov.used q = 0)
       ∧ (after (exec (.beatTimeout ⟨0, true, 0x10000008, 8, [1], 5, false, 1, false⟩) s) (fun t => rd t Obj.MOV_ERR.COUNT == 1) && after (exec (.beatTimeout ⟨0, false, 0x10000008, 8, [1], 5, false, 1, false⟩) s) (fun t => t == s) && after (exec (.resetInBurst ⟨3, true, 0x10000008, 8, [1], 5, false, 1, false⟩) s) (fun t => rd t Obj.MOV_BUDGET.IN_USE 3 == 0 && rd t Obj.MOV_ERR.COUNT == 1)) = true)
    ∧ (let s : State := domIs 89 2 (domIs 90 2 (domIs 91 2 (domIs 92 2 (setMov State.reset (fun m => { m with used := [(0, 7)] })))))
     (queueHeld 0 = false ∧ queueOpen s 0 5 = true)
       ∧ (after (exec (.queuePacketSend 0 2 5) s) (fun t => mapGet t.mov.used 0 == 8
          && rd t Obj.MOV_QPROT.POISONED 0 == 1)) = true)
    ∧ (let s : State := setMov State.reset (fun m => { m with used := [(0, 8), (7, 3)] })
     (queueHeld 0 = false ∧ queueOpen s 0 5 = false)
       ∧ (after (exec (.queuePacketSend 0 2 5) s) (fun t => t == s)
          && after (exec (.creditReturn 7) s) (fun t => mapGet t.mov.used 7 == 2)) = true)
    ∧ (let s : State := { State.reset with trg := { State.reset.trg with queue := [aRecord] } }
     (queueHeld 4 = true ∧ 0 < queueUsed s 4 0)
       ∧ (after (exec (.queuePacketSend 4 2 0) s) (fun t => rd t Obj.MOV_QPROT.POISONED 4 == 1)) = true)
    ∧ (let s : State := having Obj.PEER_STATUS.STATE 0 0 State.reset
     (blockWorks s 12 = false ∧ blockWorks (setRing s 63 (fun x => { x with queue := [⟨.plain, [1], false, 1⟩] })) 12 = true)
       ∧ (after (exec (.clockGateStop 12) s) (fun t => bit t.mov.gated 12)
          && after (exec (.clockGateStop 12) (setRing s 63 (fun x => { x with queue := [⟨.plain, [1], false, 1⟩] }))) (fun t => t == setRing s 63 (fun x => { x with queue := [⟨.plain, [1], false, 1⟩] }))) = true)
    ∧ (let s : State := State.reset
     (s.flt.region = [] ∧ nextToReserve s = none)
       ∧ (after (exec (.lossyTailWrite 0 [1, 257]) s) (fun t => t == s)
          && after (exec (.lossyTailWrite 1 [1, 257]) s) (fun t => t.sun.queue.getLast? == some [1, 1])
          && after (exec (.lossyTailWrite 2 [1, 257]) s) (fun t => t.flt.region.contains (entryOfBytes [1, 1]))
          && after (exec (.lossyTailWrite 3 [1, 257]) s) (fun t => t.hk.ring.getLast? == some (padTo 16 [1, 1]))) = true) := by
  refine ⟨?_, ?_, ?_, ?_, ?_, ?_, ?_, ?_, ?_, ?_, ?_, ?_⟩ <;> decide +kernel

theorem test_meets_RingsComplete :
    (let s : State := ringWith 63 1 0
     (ringRuns s 63 = true ∧ ringKind s 63 ≠ 3
          ∧ 2 ^ rd s Obj.MOV_RING.SIZE_LOG 63 ≤ (65535 + 65536 - rd s Obj.MOV_RING_STATUS.HEAD 63) % 65536)
       ∧ (after (exec (.ringDoorbell 63 65535) s) (fun t => rd t Obj.MOV_RING_STATUS.TAIL 63 == 65535
          && rd t Obj.MOV_RING_STATUS.ERROR 63 == 1)
          && after (exec (.cplTimeout 63) s) (fun t => rd t Obj.MOV_RING_STATUS.ERROR 63 == 1)) = true)
    ∧ (let s : State := having Obj.MOV_RING_STATUS.HEAD 63 7 State.reset
     (kindStatus s 63 2 = 0 ∧ kindStatus s 63 3 ≠ 0)
       ∧ (after (exec (.ringKindWrite 63 2) s) (fun t => ringKind t 63 == 2 && rd t Obj.MOV_RING_STATUS.HEAD 63 == 0
          && rd t Obj.MOV_RING_STATUS.TAIL 63 == 0 && rd t Obj.MOV_RING_STATUS.ERROR 63 == 0)
          && after (exec (.ringKindWrite 63 3) s) (fun t => t == s)) = true)
    ∧ (let s : State := ringWith 63 1 0
     (((ringOf s 63).part.isSome && ringRuns s 63) = false)
       ∧ (after (exec (.ringKindWrite 63 0) s) fun t => ringKind t 63 == 0) = true)
    ∧ (let s : State := setRing (ringWith 63 1 0) 63 (fun x => { x with part := some 8 })
     (((ringOf s 63).part.isSome && ringRuns s 63) = true)
       ∧ (after (exec (.ringKindWrite 63 0) s) fun t => ringKind t 63 == 1
          && ringOf t 63 == { ringOf s 63 with stopping := true }) = true)
    ∧ (let s : State := having Obj.MOV_RING.PACK 5 0 (setRing (ringWith 5 1 1) 5 (fun x => { x with queue := [⟨.plain, List.replicate 64 1, false, 1⟩], descs := [⟨0x4000, 64, true⟩] }))
     (ringRuns s 5 = true ∧ ringKind s 5 = 1 ∧ (ringOf s 5).queue = ⟨.plain, List.replicate 64 1, false, 1⟩ :: []
          ∧ (ringOf s 5).part = none ∧ (ringOf s 5).buf = none ∧ (ringOf s 5).stopping = false
          ∧ (ringOf s 5).descs = ⟨0x4000, 64, true⟩ :: [] ∧ rd s Obj.MOV_RING.PACK 5 = 0)
       ∧ (after (exec (.dmaRecordWrite 5 0) s) fun t => (ringOf t 5).queue == [] && (ringOf t 5).descs == []
          && rd t Obj.MOV_RING_STATUS.HEAD 5 == 1 && rd t Obj.MOV_RING_STATUS.RECORDS 5 == 1
          && t.out.contains (.hostWrite 0x4000 64 (ofLe (List.replicate 64 1)))) = true)
    ∧ (let s : State := atTick 999999999 (setRing (ringWith 5 1 1) 5 (fun x => { x with buf := some ⟨8, 1, true, true, false, 0, false⟩, descs := [⟨0x4000, 64, true⟩] }))
     ((ringOf s 5).buf = some ⟨8, 1, true, true, false, 0, false⟩
          ∧ 0 + 1600 * rd s Obj.MOV_RING.COALESCE_US 5 ≤ s.time.rc64 ∧ (ringOf s 5).part = none
          ∧ (ringOf s 5).descs ≠ [])
       ∧ (after (exec (.coalesceTimeout 5) s) fun t => (ringOf t 5).buf.isNone) = true)
    ∧ (let s : State := having Obj.MOV_RING.COALESCE_US 5 9 (setRing (ringWith 5 1 1) 5 (fun x => { x with buf := some ⟨8, 1, true, true, false, 0, false⟩, descs := [⟨0x4000, 64, true⟩] }))
     ((ringOf s 5).buf = some ⟨8, 1, true, true, false, 0, false⟩
          ∧ s.time.rc64 < 0 + 1600 * rd s Obj.MOV_RING.COALESCE_US 5)
       ∧ (after (exec (.coalesceTimeout 5) s) fun t => t == s) = true)
    ∧ (let s : State := atTick 999999999 (setRing (ringWith 5 1 1) 5 (fun x => { x with part := some 8, buf := some ⟨8, 1, true, true, false, 0, false⟩, descs := [⟨0x4000, 64, true⟩] }))
     ((ringOf s 5).buf = some ⟨8, 1, true, true, false, 0, false⟩
          ∧ 0 + 1600 * rd s Obj.MOV_RING.COALESCE_US 5 ≤ s.time.rc64 ∧ (ringOf s 5).part ≠ none)
       ∧ (after (exec (.coalesceTimeout 5) s) fun t => (ringOf t 5).buf == some ⟨8, 1, true, true, false, 0, true⟩) = true)
    ∧ (let s : State := ringWith 5 1 1
     (s.mov.rings.length = 64 ∧ ringRuns s 5 = true ∧ ringKind s 5 = 1 ∧ (ringOf s 5).descs.length < 8
          ∧ (ringOf s 5).descs.length < ringOwned s 5 ∧ descriptorLegal 0x4000 16777216 1 0 = true
          ∧ descriptorLegal 0x4000 16777280 1 0 = false)
       ∧ (after (exec (.descriptorFetchDone 5 0x4000 16777216 1 0 false) s) (fun t => (ringOf t 5).descs == [⟨0x4000, 16777216, true⟩]) && after (exec (.descriptorFetchDone 5 0x4000 16777280 1 0 false) s) (fun t => rd t Obj.MOV_RING_STATUS.ERROR 5 == 1) && after (exec (.descriptorFetchDone 5 0x4000 64 1 0 true) s) (fun t => rd t Obj.MOV_RING_STATUS.ERROR 5 == 1)) = true)
    ∧ (let s : State := setRing (ringWith 5 1 1) 5 (fun x => { x with queue := [⟨.plain, [1], false, 1⟩] })
     (ringRuns s 5 = true ∧ ringKind s 5 = 1 ∧ recordWaits s 5 = true ∧ (ringOf s 5).descs = []
          ∧ s.flt.active.length < 1024)
       ∧ (after (exec (.ringNoBuffer 5) s) fun t => flag t Obj.MOV_RING_STATUS.NO_BUF 5
          && faultActive t 0x0C08 5) = true)
    ∧ (let s : State := having Obj.NET_STATUS.LINK 0 3 (setRing (ringWith 5 3 0) 5 (fun x => { x with queue := [⟨.plain, [1], false, 3⟩] }))
     (ringKind s 5 = 3 ∧ netPortUp s (rd s Obj.MOV_RING.NET_PORT 5) = true
          ∧ (ringOf s 5).queue = ⟨.plain, [1], false, 3⟩ :: [])
       ∧ (after (exec (.netRecordSend 5) s) fun t => (ringOf t 5).queue == []
          && mapGet t.net.recordSeq (rd s Obj.MOV_RING.TEMPLATE 5) == 1) = true)
    ∧ (let s : State := having Obj.NET_STATUS.LINK 1 3 (setDah State.reset (fun d => { d with dumps := [⟨[1], [2], [3], 8, 0, 0, 2, 5, 1, false⟩] }))
     (s.dah.dumps = ⟨[1], [2], [3], 8, 0, 0, 2, 5, 1, false⟩ :: [] ∧ netPortUp s 1 = true)
       ∧ (after (exec (.netRecordSend 64) s) fun t => t.dah.dumps == [] && mapGet t.net.recordSeq 29 == 1) = true)
    ∧ (let s : State := having Obj.NET_STATUS.LINK 0 3 (having Obj.SUN_CTRL.DEST 0 1 (setSun State.reset (fun x => { x with queue := [[1, 2]] })))
     (s.sun.queue = [1, 2] :: [] ∧ rd s Obj.SUN_CTRL.DEST = 1 ∧ netPortUp s (rd s Obj.SUN_CTRL.PORT) = true)
       ∧ (after (exec (.netRecordSend 65) s) fun t => t.sun.queue == [] && mapGet t.net.recordSeq 30 == 1) = true)
    ∧ (let s : State := having Obj.NET_STATUS.LINK 1 3 (setConc State.reset (fun x => { x with out := [⟨[1, 2], 1, 0, 1, false⟩] }))
     (s.conc.out = ⟨[1, 2], 1, 0, 1, false⟩ :: [] ∧ netPortUp s 1 = true ∧ s.conc.ready = [])
       ∧ (after (exec (.netRecordSend 66) s) fun t => t.conc.out == []
          && mapGet t.net.recordSeq 31 == 1) = true) := by
  refine ⟨?_, ?_, ?_, ?_, ?_, ?_, ?_, ?_, ?_, ?_, ?_, ?_, ?_, ?_⟩ <;> decide +kernel

theorem test_meets_HostWindowAddresses :
    (let s : State := having Obj.MOV_HOSTWIN.BASE 0 0x40000000 State.reset
     ((0x1000000000 : Nat) ≤ 0x1000000010 ∧ (0x1000000010 : Nat) < 0x10000000000
          ∧ rd s Obj.MOV_HOSTWIN.BASE + (0x1000000010 - 0x1000000000) < 2 ^ 64)
       ∧ (after (exec (.matrixTransaction ⟨8, true, 0x1000000010, 8, [1, 2], 255, false, 1, false⟩) s) fun t => t.out == .hostWrite 0x40000010 8 0x201 :: s.out) = true)
    ∧ (let s : State := having Obj.MOV_HOSTWIN.BASE 0 0xFFFFFFFFFFFF0000 State.reset
     (2 ^ 64 ≤ rd s Obj.MOV_HOSTWIN.BASE + (0x1000010000 - 0x1000000000) ∧ rd s Obj.MOV_ERR.VALID = 0)
       ∧ (after (exec (.matrixTransaction ⟨0, false, 0x1000010000, 8, [], 0, false, 1, false⟩) s) fun t => rd t Obj.MOV_ERR.VALID == 1 && rd t Obj.MOV_ERR.CAUSE == 0 && t.out == .readData 0 8 (2 ^ 64 - 1) 1 :: s.out) = true)
    ∧ (let s : State := having Obj.MOV_RING.BASE 5 0x9000 (setRing (ringWith 5 1 1) 5 (fun x => { x with descs := [⟨0x4000, 64, true⟩] }))
     ((ringOf s 5).descs ≠ [])
       ∧ ((writePiece s 5 ⟨0x4000, 64, true⟩ 8 [7] true true false).out == .hostWrite 0x4008 1 7 :: s.out && ((complete s 5 8 1 0).out.any (fun o => match o with | .hostWrite 0x9010 16 _ => true | _ => false))) = true)
    ∧ (let s : State := having Obj.MOV_HOSTWIN.BASE 0 0x40000000 (setDah State.reset (fun d => { d with dumps := [⟨[1], List.replicate 1024 2 ++ List.replicate 1024 3, [4], 8, 0x10000, 0x1000000000, 1, 5, 0, false⟩] }))
     (s.dah.dumps = ⟨[1], List.replicate 1024 2
          ++ List.replicate 1024 3, [4], 8, 0x10000, 0x1000000000, 1, 5, 0, false⟩ :: []
          ∧ targetOf s (0x1000000000 + 8 + 1 * 0x10000) = .host)
       ∧ ((pullRecord s 5 1).any (fun x => x.2.out.contains (.hostWrite 0x40000008 1024 (ofLe (List.replicate 1024 2))) && x.2.out.contains (.hostWrite 0x40010008 1024 (ofLe (List.replicate 1024 3))))) = true)
    ∧ (let s : State := having Obj.MOV_HOSTWIN.BASE 0 0x40000000 (setDah State.reset (fun d => { d with dumps := [⟨[1], [2, 3], [4], 8, 0, 0x1000000000, 1, 5, 0, false⟩] }))
     (s.dah.dumps = ⟨[1], [2, 3], [4], 8, 0, 0x1000000000, 1, 5, 0, false⟩ :: []
          ∧ targetOf s (0x1000000000 + 8) = .host)
       ∧ ((pullRecord s 5 1).any (fun x => x.2.out == .hostWrite 0x40000008 2 0x302 :: s.out)) = true) := by
  refine ⟨?_, ?_, ?_, ?_, ?_⟩ <;> decide +kernel

theorem test_meets_TrainingComplete :
    (let s : State := having Obj.AXL_PORT.ENABLE 3 1 (having Obj.AXL_PORT.LINK_EN 3 15 (inMode .peer))
     (linkState s 15 = 0 ∧ linkEnabled s 15 = true ∧ (axrelMode s).usesAxrel = true ∧ (linkOf s 15).waits = false)
       ∧ (after (exec (.linkTrainStart 15) s) fun t => linkState t 15 == 1
          && rd t Obj.AXL_LINK_STATUS.TRAININGS 15 == 1) = true)
    ∧ (let s : State := having Obj.AXL_LINK_STATUS.STATE 15 1 (inMode .peer)
     (linkState s 15 = 1 ∧ (linkOf s 15).fromSleep = false ∧ s.axl.links.length = 16 ∧ 1 ≤ linkState s 15
          ∧ linkState s 15 ≤ 4)
       ∧ (after (exec (.partnerClockStable 15 true) s) (fun t => rd t Obj.AXL_LINK_STATUS.CLOCK_OK 15 == 1
          && linkState t 15 == 2) && after (exec (.trainStepOverrun 15) s) (fun t => linkState t 15 == 0
          && (linkOf t 15).waits)) = true)
    ∧ (let s : State := having Obj.AXL_LINK_STATUS.STATE 15 2 (inMode .peer)
     (linkState s 15 = 2 ∧ (3 : Nat) ≠ 0)
       ∧ (after (exec (.baseLocked 15 3) s) fun t => linkState t 15 == 3
          && rd t Obj.AXL_LINK_STATUS.LOCKED 15 == 3) = true)
    ∧ (let s : State := having Obj.AXL_LINK_STATUS.STATE 15 3 (inMode .peer)
     (linkState s 15 = 3 ∧ ([0x41, 0x58, 0x43, 0x50, 1, 3, 9] ++ List.replicate 25 0).length = 32
          ∧ leAt ([0x41, 0x58, 0x43, 0x50, 1, 3, 9] ++ List.replicate 25 0) 0 4 = 0x50435841
          ∧ leAt ([0x41, 0x58, 0x43, 0x50, 1, 3, 9] ++ List.replicate 25 0) 4 1 = 1)
       ∧ (let r := [0x41, 0x58, 0x43, 0x50, 1, 3, 9] ++ List.replicate 25 0;
            after (exec (.capabilityRecord 15 r) s) (fun t => rd t Obj.AXL_LINK_STATUS.RATE 15 == resolveRate (2 ^ ((linkOf s 15).maxRate + 1) - 1) 3 && linkState t 15 == (if rd t Obj.AXL_LINK_STATUS.RATE 15 == 0 then 5 else 4) && rd t Obj.AXL_LINK_STATUS.PARTNER_CHIPID 15 == 9 && rd t Obj.AXL_LINK_STATUS.PARTNER_LINK 15 == 0 && (partnerRight s 15 r || faultActive t 0x0D07 15)) && after (exec (.capabilityRecordResend 15) s) (fun t => t.out == .axUnit 15 256 (ofLe (capabilityBytes s 15)) 0 :: s.out)) = true)
    ∧ (let s : State := having Obj.AXL_LINK_STATUS.STATE 15 4 (inMode .peer)
     (linkState s 15 = 4 ∧ (3 : Nat) ≠ 0)
       ∧ (after (exec (.speedDone 15 3) s) fun t => linkState t 15 == 5
          && rd t Obj.AXL_LINK_STATUS.LOCKED 15 == 3) = true)
    ∧ (let s : State := having Obj.AXL_LINK_STATUS.STATE 15 5 (inMode .concentrate)
     (portUp s 15 = false ∧ portOfLink s 15 = 15 ∧ (∃ k ∈ linksOfPort s 15, linkState s k = 5
          ∧ (linkOf s k).excluded = false ∧ bit 0 (k % 4) = false)
          ∧ (∀ k ∈ linksOfPort s 15, linkEnabled s k = false ∨ linkState s k = 5))
       ∧ (after (exec (.portDeskew 15 0) s) fun t => portUp t 15 && linkState t 15 == 6) = true)
    ∧ (let s : State := having Obj.AXL_PORT.ENABLE 3 1 (having Obj.AXL_PORT.LINK_EN 3 15 (setLink (inMode .peer) 15 (fun x => { x with waits := true })))
     ((linkOf s 15).waits = true ∧ linkEnabled s 15 = true ∧ (axrelMode s).usesAxrel = true)
       ∧ (after (exec (.retrainTimer 15) s) fun t => !(linkOf t 15).waits && linkState t 15 == 1) = true)
    ∧ (let s : State := setLink (having Obj.AXL_LINK_STATUS.RATE 15 2 (having Obj.AXL_LINK_STATUS.STATE 15 1 (inMode .peer))) 15 (fun x => { x with fromSleep := true, partner := some [] })
     (linkState s 15 = 1 ∧ (linkOf s 15).fromSleep = true ∧ (linkOf s 15).partner ≠ none)
       ∧ (after (exec (.partnerClockStable 15 true) s) (fun t => rd t Obj.AXL_LINK_STATUS.CLOCK_OK 15 == 1
          && linkState t 15 == 4)
          && after (exec (.partnerClockStable 15 false) s) (fun t => linkState t 15 == 2)) = true)
    ∧ (let s : State := setLink (having Obj.AXL_LINK_STATUS.STATE 12 5 (inMode .peer)) 12 (fun x => { x with since := 0 })
     (s.axl.links.length = 16 ∧ linkState s 12 = 5 ∧ (linkOf s 12).excluded = false
          ∧ portUp s (portOfLink s 12) = false)
       ∧ (after (exec (.trainStepOverrun 12) s) (fun t => linkState t 12 == 0 && (linkOf t 12).waits)) = true) := by
  refine ⟨?_, ?_, ?_, ?_, ?_, ?_, ?_, ?_, ?_⟩ <;> decide +kernel

theorem test_meets_LanesComplete :
    (let s : State := linked 15 (inMode .concentrate)
     (5 ≤ linkState s 15 ∧ linkState s 15 ≤ 7 ∧ bit (rd s Obj.AXL_LINK_STATUS.LOCKED 15) 1 = true)
       ∧ (after (exec (.laneLockLoss 15 1) s) (fun t => !bit (rd t Obj.AXL_LINK_STATUS.LOCKED 15) 1
          && rd t Obj.AXL_LINK_STATUS.LOCK_LOSSES 15 == 1)
          && after (exec (.am 15 1 false) s) (fun t => bit (rd t Obj.AXL_LINK_STATUS.LOCKED 15) 1)) = true)
    ∧ (let s : State := having Obj.AXL_LINK_STATUS.LOCKED 15 1 (linked 15 (inMode .concentrate))
     (bit (rd s Obj.AXL_LINK_STATUS.LOCKED 15) 1 = false)
       ∧ (after (exec (.shedLaneReadaptation 15 1) s) fun t => nth (linkOf t 15).clean 1 0 == 0) = true)
    ∧ (let s : State := linked 15 (inMode .concentrate)
     (portUp s (portOfLink s 15) = true ∧ (axPortOf s (portOfLink s 15)).mapIdTx = none)
       ∧ (after (exec (.mapreq 15 2 1) s) (fun t => rd t Obj.AXL_PORT_STATUS.TX_MAP 15 == 1)
          && after (exec (.map 15 2 1) s) (fun t => rd t Obj.AXL_PORT_STATUS.RX_MAP 15 == 1)) = true)
    ∧ (let s : State := setAxPort (linked 15 (inMode .concentrate)) 15 (fun x => { x with mapIdTx := some 15 })
     (portUp s (portOfLink s 15) = true ∧ (axPortOf s (portOfLink s 15)).mapIdTx = some 15)
       ∧ (after (exec (.mapreq 15 2 1) s) (fun t => rd t Obj.AXL_PORT_STATUS.TX_MAP 15 == 1)
          && after (exec (.mapreq 15 14 1) s) (fun t => t == s)) = true)
    ∧ (let s : State := setAxPort (linked 15 (inMode .concentrate)) 15 (fun x => { x with want := some 1 })
     ((axPortOf s (portOfLink s 15)).want = some 1)
       ∧ (after (exec (.mapreqResend 15) s) fun t => t.out == .axUnit 15 0x78 (axPortOf s 15).mapIdRx 1 :: s.out) = true)
    ∧ (let s : State := having Obj.AXL_PORT.ENABLE 3 1 (having Obj.AXL_PORT.LINK_EN 3 15 (having Obj.AXL_PORT_STATUS.RX_MAP 15 1 (setLink (linked 15 (inMode .concentrate)) 15 (fun x => { x with clean := [0, 4] }))))
     (s.axl.ports.length = 16 ∧ portUp s (portOfLink s 15) = true ∧ linkEnabled s 15 = true
          ∧ (linkOf s 15).excluded = false ∧ bit (rd s Obj.AXL_LINK_STATUS.LOCKED 15) 1 = true
          ∧ 4 ≤ nth (linkOf s 15).clean 1 0 ∧ bit (wantedMap s (portOfLink s 15)) (laneIndex s 15 1) = false)
       ∧ (after (exec (.laneRejoin 15 1) s) fun t => (axPortOf t 15).want == some 3) = true)
    ∧ (let s : State := having Obj.AXL_LINK_STATUS.CLOCK_OK 15 1 (linked 15 (inMode .concentrate))
     (rd s Obj.AXL_LINK_STATUS.CLOCK_OK 15 ≠ 0 ∧ 2 ≤ linkState s 15 ∧ linkState s 15 ≤ 7)
       ∧ (after (exec (.clockLoss 15) s) fun t => linkState t 15 == 0
          && rd t Obj.AXL_LINK_STATUS.CLOCK_OK 15 == 0) = true) := by
  refine ⟨?_, ?_, ?_, ?_, ?_, ?_, ?_⟩ <;> decide +kernel

theorem test_meets_AxrelFramesComplete :
    (let s : State := linked 15 (inMode .concentrate)
     (s.axl.ports.length = 16 ∧ portUp s (portOfLink s 15) = true ∧ portLooped s (portOfLink s 15) = false
          ∧ (List.replicate 8 7).length = 8 * (if leAt [9, 0, 0, 1] 3 1 = 0 then 256 else leAt [9, 0, 0, 1] 3 1)
          ∧ leAt [9, 0, 0, 1] 1 2 % 4096 = (axPortOf s (portOfLink s 15)).expect
          ∧ (axPortOf s (portOfLink s 15)).expect < 4096 ∧ (axPortOf s (portOfLink s 15)).marked = []
          ∧ (axPortOf s (portOfLink s 15)).window < 4096)
       ∧ (after (exec (.axrelFrame 15 ⟨false, [9, 0, 0, 1], List.replicate 8 7, 0, true⟩) s) (fun t => rd t Obj.AXL_PORT_STATUS.CRC_ERRORS 15 == 1) && after (exec (.axrelFrame 15 ⟨false, [9, 0, 0, 1], List.replicate 8 7, crc32c ([9, 0, 0, 1] ++ List.replicate 8 7), false⟩) s) (fun t => (axPortOf t 15).expect == 1)) = true)
    ∧ (let s : State := setAxPort (linked 15 (inMode .concentrate)) 15 (fun x => { x with expect := 3, accepted := 5 })
     (portUp s (portOfLink s 15) = true ∧ portLooped s (portOfLink s 15) = false
          ∧ 4096 - (axPortOf s (portOfLink s 15)).window ≤ (2 + 4096 - (axPortOf s (portOfLink s 15)).expect) % 4096)
       ∧ (after (exec (.axrelFrame 15 ⟨false, [9, 2, 0, 1], List.replicate 8 7, crc32c ([9, 2, 0, 1]
          ++ List.replicate 8 7), false⟩) s) (fun t => (axPortOf t 15).accepted == 0
          && rd t Obj.AXL_PORT_STATUS.DUPLICATES 15 == 1)) = true)
    ∧ (let s : State := setAxPort (linked 15 (inMode .concentrate)) 15 (fun x => { x with unacked := [⟨4, 9, 0, true, true, false, [], 32⟩] })
     (portUp s (portOfLink s 15) = true ∧ (∃ f ∈ (axPortOf s (portOfLink s 15)).unacked, 32 ≤ f.resent))
       ∧ (after (exec (.ackTimeout 15) s) fun t => !portUp t 15) = true)
    ∧ (let s : State := setAxPort (linked 15 (inMode .concentrate)) 15 (fun x => { x with unacked := [⟨4, 9, 0, true, true, false, [], 0⟩, ⟨5, 9, 0, true, true, false, [], 0⟩] })
     (portUp s (portOfLink s 15) = true
          ∧ (axPortOf s (portOfLink s 15)).unacked.any (fun f => f.seq == 4 % 4096) = true
          ∧ (axPortOf s (portOfLink s 15)).unacked ≠ []
          ∧ (∀ f ∈ (axPortOf s (portOfLink s 15)).unacked, f.resent < 32)
          ∧ (axPortOf s (portOfLink s 15)).creditSeen.length = 4)
       ∧ (after (exec (.ack 15 4) s) (fun t => (axPortOf t 15).unacked == [⟨5, 9, 0, true, true, false, [], 0⟩]
          && (axPortOf t 15).lastBusy == s.time.rc64)
          && after (exec (.nak 15 4) s) (fun t => rd t Obj.AXL_PORT_STATUS.RETRANSMITTED 15 == 2)
          && after (exec (.ackTimeout 15) s) (fun t => rd t Obj.AXL_PORT_STATUS.RETRANSMITTED 15 == 2)
          && after (exec (.credit 15 3 65537) s) (fun t => nth (axPortOf t 15).creditSeen 3 0 == 1)
          && after (exec (.ackCreditTimer 15) s) (fun t => (axPortOf t 15).accepted == 0
          && (axPortOf t 15).creditSent == (axPortOf s 15).returned)) = true)
    ∧ (let s : State := setLink (setAxPort (atTick 200000 (having Obj.AXL_PORT.LPI_EN 3 1 (linked 15 (inMode .concentrate)))) 15 (fun x => { x with creditSent := x.returned })) 15 (fun x => { x with lpiUs := 100 })
     (s.axl.ports.length = 16 ∧ portUp s (portOfLink s 15) = true ∧ (axPortOf s (portOfLink s 15)).lpi = false
          ∧ lpiAllowed s (portOfLink s 15) = true ∧ (axPortOf s (portOfLink s 15)).ready = []
          ∧ (axPortOf s (portOfLink s 15)).unacked = [] ∧ (axPortOf s (portOfLink s 15)).accepted = 0
          ∧ (axPortOf s (portOfLink s 15)).creditSent = (axPortOf s (portOfLink s 15)).returned
          ∧ (axPortOf s (portOfLink s 15)).lastBusy + 1600 * (linkOf s (portOfLink s 15)).lpiUs ≤ s.time.rc64)
       ∧ (after (exec (.lpiEntry 15) s) fun t => (axPortOf t 15).lpi) = true)
    ∧ (let s : State := setAxPort (linked 15 (inMode .concentrate)) 15 (fun x => { x with lpi := true })
     ((axPortOf s (portOfLink s 15)).lpi = true)
       ∧ (after (exec (.lpiRefresh 15) s) (fun t => t.out == .axUnit 15 0x99 0 0 :: .axUnit 15 0x00 0 0 :: s.out)
          && after (exec (.wake 15) s) (fun t => !(axPortOf t 15).lpi)) = true)
    ∧ (let s : State := setAxPort (linked 15 (inMode .test)) 15 (fun x => { x with queue10 := [⟨9, 0, [1]⟩] })
     ((axPortOf s (portOfLink s 15)).queue10 = [⟨9, 0, [1]⟩] ∧ (axPortOf s (portOfLink s 15)).buffer = [])
       ∧ (after (exec (.testPayload 15) s) fun t => (axPortOf t 15).queue10 == []) = true)
    ∧ (let s : State := having Obj.AXL_TEST.PRBS 15 1 (linked 15 (inMode .test))
     (modeOf s = .test ∧ flag s Obj.AXL_TEST.PRBS 15 = true ∧ flag s Obj.AXL_PRBS.LOCK (2 * 15 + 1) = false
          ∧ s.axl.ports.length = 16)
       ∧ (after (exec (.prbsCheckerLock 15 1) s) (fun t => rd t Obj.AXL_PRBS.LOCK 31 == 1
          && rd t Obj.AXL_PRBS.BITS 31 == 64)
          && after (exec (.errInject 15) s) (fun t => t.out == .drive 2 15 1 :: s.out)
          && after (exec (.retryHigh 15) s) (fun t => (axPortOf t 15).lastFrames == 0)
          && after (exec (.laneErrors 15 1) s) (fun t => nth (linkOf t 15).bip 1 0 == 0)) = true) := by
  refine ⟨?_, ?_, ?_, ?_, ?_, ?_, ?_, ?_⟩ <;> decide +kernel

theorem test_meets_ImageTransferComplete :
    (let s : State := State.reset
     ((3 : Nat) ≠ 0 ∧ (16777216 : Nat) ≠ 0 ∧ (∀ x, s.ctl.rx = some x → x.link ≠ 15))
       ∧ (after (exec (.imageOffer 15 3 16777216) s) (fun t => t.ctl.offers.contains (15, 3, 16777216)
          && after (exec (.imageAbort 15) t) (fun u => u.ctl.offers.all (fun o => o.1 != 15)))) = true)
    ∧ (let s : State := setCtl State.reset (fun c => { c with staged := some ⟨2, [1, 2, 3]⟩, serveLinks := 0x8000 })
     (s.ctl.staged = some ⟨2, [1, 2, 3]⟩ ∧ bit s.ctl.serveLinks 15 = true ∧ 0 < [1, 2, 3].length
          ∧ 0 + min (min 8192 2) (3 - 0) ≠ 3 ∧ 2 + min (min 8192 9) (3 - 2) = 3)
       ∧ (after (exec (.imageRequest 15 0 2) s) (fun t => t == imageMessage (takeMessage s 15 8) 15 3 2 3 0 2 [1, 2]) && after (exec (.imageRequest 15 2 9) s) (fun t => t == imageMessage (imageMessage (takeMessage s 15 8) 15 3 2 3 2 1 [3]) 15 4 2 3 0 0 [])) = true)
    ∧ (let s : State := setCtl State.reset (fun c => { c with rx := some ⟨15, 2, 4, [1, 2], some 2, false⟩ })
     (s.ctl.rx = some ⟨15, 2, 4, [1, 2], some 2, false⟩ ∧ 2 ≤ 2 ∧ 2 + 2 ≤ 4 ∧ loadingMail s = none
          ∧ s.ctl.waitsForImage = false)
       ∧ (after (exec (.imageData 15 2 [3, 4]) s) (fun t => (t.ctl.rx.map (fun y => y.got)) == some [1, 2, 3, 4])
          && after (exec (.imageDone 15) s) (fun t => t.ctl.rx.isNone)
          && after (exec .imageChunkRetry s) (fun t => (t.ctl.rx.map (fun y => y.asked)) == some (some 2))) = true)
    ∧ (let s : State := setCtl State.reset (fun c => { c with waitsForImage := true, rx := some ⟨15, 2, 4, [1, 2], some 2, false⟩ })
     (s.ctl.rx = some ⟨15, 2, 4, [1, 2], some 2, false⟩ ∧ loadingMail s = none ∧ s.ctl.waitsForImage = true
          ∧ imageCheck s 2 [1, 2] ≠ 0 ∧ s.flt.active.length < 1024)
       ∧ (after (exec (.imageDone 15) s) (fun t => t.ctl.rx.isNone && faultActive t 0x1005 0)) = true)
    ∧ (let s : State := setCtl State.reset (fun c => { c with pair := .booting, ronecUp := false })
     (bootReads s = true ∧ s.ctl.ronecUp = false
          ∧ firmwareTries s = ((firmwareTries s).headD ([], 0)) :: (firmwareTries s).drop 1)
       ∧ (after (exec (.flashImageRead false) s) fun _ => true) = true)
    ∧ (let s : State := setCtl State.reset (fun c => { c with pair := .booting, ronecUp := true, bundleDone := false })
     (bootReads s = true ∧ s.ctl.ronecUp = true ∧ s.ctl.bundleDone = false)
       ∧ (after (exec (.flashImageRead true) s) fun t => t.ctl.bundleDone) = true) := by
  refine ⟨?_, ?_, ?_, ?_, ?_, ?_⟩ <;> decide +kernel

theorem test_meets_ReferenceComplete :
    (let s : State := State.reset
     (s.time.refPresent = true ∧ modeOf s ≠ .dormant ∧ s.flt.active.length < 1024)
       ∧ (after (exec .ref10mLost s) fun t => !t.time.refPresent && rd t Obj.TIM_STATE.HOLDOVER == 1
          && faultActive t 0x0E01 0) = true)
    ∧ (let s : State := inMode .dormant
     (s.time.refPresent = true ∧ modeOf s = .dormant)
       ∧ (after (exec .ref10mLost s) fun t => !t.time.refPresent && rd t Obj.TIM_STATE.HOLDOVER == 1
          && t.flt == s.flt && t.aon.holdoverUsed) = true)
    ∧ (let s : State := setTime State.reset (fun x => { x with refPresent := false })
     (s.time.refPresent = false ∧ modeOf s ≠ .dormant)
       ∧ (after (exec .ref10mReturn s) fun t => t.time.refPresent && rd t Obj.TIM_STATE.SLEWING == 1) = true)
    ∧ (let s : State := having Obj.TIM_STATE.SLEWING 0 1 (having Obj.TIM_STATE.HOLDOVER 0 1 State.reset)
     (rd s Obj.TIM_STATE.SLEWING ≠ 0 ∧ s.time.dormantHold = false)
       ∧ (after (exec .phaseSlewDone s) (fun t => rd t Obj.TIM_STATE.SLEWING == 0
          && rd t Obj.TIM_STATE.HOLDOVER == 0)
          && after (exec .phaseSlewDone (setTime s (fun x => { x with dormantHold := true }))) (fun t => rd t Obj.TIM_STATE.SLEWING == 0 && rd t Obj.TIM_STATE.HOLDOVER == 1)) = true)
    ∧ (let s : State := atTick 161 (setTime (inMode .dormant) (fun x => { x with refPresent := false }))
     (modeOf s = .dormant ∧ s.time.refPresent = false)
       ∧ (after (exec .dormantRefReturn s) fun t => t.time.refPresent && t.time.rc64 == 320) = true)
    ∧ (let s : State := atTick 3200160003 (setTime State.reset (fun x => { x with lastValid := some 1600000000 }))
     (s.time.off = false ∧ s.time.bootWait = false ∧ ppsValid s (3200160003 - 3) = true
          ∧ ppsValid s (3200160003 - 2) = false)
       ∧ (after (exec (.ppsEdge 3) s) (fun t => t.time.lastValid == some 3200160000
          && rd t Obj.TIM_PPS.RC64 == 3200160003 && rd t Obj.TIM_PPS.COUNT == 1)
          && after (exec (.ppsEdge 2) s) (fun t => rd t Obj.TIM_PPS.BAD == 1)) = true)
    ∧ (let s : State := setTime (atTick 7 State.reset) (fun x => { x with bootWait := true })
     (s.time.off = false ∧ s.time.bootWait = true)
       ∧ (after (exec (.ppsEdge 3) s) fun t => t.time.rc64 == 0 && !t.time.bootWait
          && rd t Obj.TIM_PPS.FRAME_OK == 1) = true)
    ∧ (let s : State := setTime (atTick 7 (inMode .vigil)) (fun x => { x with off := true })
     (s.time.off = true)
       ∧ (after (exec (.ppsEdge 3) s) fun t => t.time.offEdge == some 7 && rd t Obj.TIM_PPS.COUNT == 0) = true)
    ∧ (let s : State := setTime State.reset (fun x => { x with lastValid := some 5 })
     (s.time.lastValid.isSome = true ∧ s.time.off = false)
       ∧ (after (exec .ppsLost s) fun t => t.time.lastValid == none && rd t Obj.TIM_STATE.LOCKED == 0) = true)
    ∧ (let s : State := setTime (atTick 9 State.reset) (fun x => { x with bootWait := true })
     (s.time.bootWait = true)
       ∧ (after (exec .bootPpsWaitTimeout s) fun t => t.time.rc64 == 0 && !t.time.bootWait
          && rd t Obj.TIM_PPS.FRAME_OK == 0) = true) := by
  refine ⟨?_, ?_, ?_, ?_, ?_, ?_, ?_, ?_, ?_, ?_⟩ <;> decide +kernel

theorem test_meets_CivilTimeComplete :
    (let s : State := State.reset
     (Obj.TIM_INC.INC.min ≤ Obj.TIM_INC.INC.max)
       ∧ (after (exec (.incWrite Obj.TIM_INC.INC.max true) s) fun t => rd t Obj.TIM_INC.PENDING == 1
          && rd t Obj.TIM_INC.INC == Obj.TIM_INC.INC.max && t.time.inc == s.time.inc
          && t.time.incWait == some (Obj.TIM_INC.INC.max, 0)) = true)
    ∧ (let s : State := State.reset
     (Obj.TIM_INC.INC.max < Obj.TIM_INC.INC.max + 1)
       ∧ (after (exec (.incWrite (Obj.TIM_INC.INC.max + 1) true) s) fun t => t == s) = true)
    ∧ (let s : State := setTime (atTick 32 State.reset) (fun x => { x with incWait := some (2684354561, 0) })
     (s.time.incWait = some (2684354561, 0) ∧ atBoundary s (flag s Obj.TIM_INC.WHEN) 0 = true)
       ∧ (after (exec .incApply s) fun t => t.time.inc == 2684354561 && t.time.civil == s.time.civil
          && t.time.incWait == none) = true)
    ∧ (let s : State := State.reset
     ((999999999 : Nat) < 1000000000 ∧ (2 ^ 48 - 1 : Nat) < 2 ^ 48)
       ∧ (after (exec (.timeSet (2 ^ 48 - 1) 999999999 true) s) fun t => rd t Obj.TIM_SET.PENDING == 1
          && t.time.opWait == some ⟨false, 2 ^ 48 - 1, 999999999, 0, true, 0⟩) = true)
    ∧ (let s : State := having Obj.TIM_STATE.VALID 0 1 State.reset
     (flag s Obj.TIM_STATE.VALID = true ∧ (-999999999 : Int).natAbs < 1000000000)
       ∧ (after (exec (.timeStep (-999999999) false) s) fun t => rd t Obj.TIM_SET.PENDING == 1
          && t.time.opWait == some ⟨true, 0, 0, -999999999, false, 0⟩) = true)
    ∧ (let s : State := setTime State.reset (fun x => { x with opWait := some ⟨false, 5, 6, 0, false, 0⟩ })
     (s.time.opWait = some ⟨false, 5, 6, 0, false, 0⟩ ∧ atBoundary s false 0 = true)
       ∧ (after (exec .timeOpApply s) fun t => t.time.opWait == none
          && t.time.civil == 5 * nsSecond + 6 * 4294967296 && rd t Obj.TIM_STATE.VALID == 1) = true)
    ∧ (let s : State := setTime State.reset (fun x => { x with opWait := some ⟨true, 0, 0, -3, false, 0⟩, civil := nsSecond })
     (s.time.opWait = some ⟨true, 0, 0, -3, false, 0⟩ ∧ atBoundary s false 0 = true)
       ∧ (after (exec .timeOpApply s) fun t => t.time.civil == nsSecond - 3 * 4294967296) = true)
    ∧ (let s : State := setTime State.reset (fun x => { x with opWait := some ⟨true, 0, 0, -3, false, 0⟩, civil := 4294967296 })
     (s.time.opWait = some ⟨true, 0, 0, -3, false, 0⟩ ∧ atBoundary s false 0 = true)
       ∧ (after (exec .timeOpApply s) fun t => t.time.civil == 0 && rd t Obj.TIM_SET.PENDING == 0
          && rd t Obj.TIM_STATE.LOCKED == 0) = true)
    ∧ (let s : State := State.reset
     (cmpLegal s ⟨0, 16, false, true, 0, 0, 0⟩ = false ∧ cmpLegal s ⟨0, 6, false, true, 0, 0, 0xF0⟩ = false)
       ∧ (after (exec (.timCmpWrite 15 ⟨0, 16, false, true, 0, 0, 0⟩) s) (fun t => t == s)
          && after (exec (.timCmpWrite 15 ⟨0, 6, false, true, 0, 0, 0xF0⟩) s) (fun t => t == s)) = true)
    ∧ (let s : State := having Obj.TIM_STATE.VALID 0 1 State.reset
     (cmpLegal s ⟨0, 6, true, true, 0, 0, 0x000000000005000000000003⟩ = true)
       ∧ (after (exec (.timCmpWrite 15 ⟨0, 6, true, true, 0, 0, 0x000000000005000000000003⟩) s) fun t => rd t Obj.TIM_CMP.KIND 15 == 1 && rd t Obj.TIM_CMP.TARGET 15 == ofInt 48 (tickOfCivil s (civilOfTs 0x000000000005000000000003))) = true)
    ∧ (let s : State := State.reset
     (cmpLegal s ⟨2 ^ 48 - 1, 6, false, true, 0, 1600, 0⟩ = true)
       ∧ (after (exec (.timCmpWrite 15 ⟨2 ^ 48 - 1, 6, false, true, 0, 1600, 0⟩) s) fun t => rd t Obj.TIM_CMP.ARM 15 == 1 && rd t Obj.TIM_CMP.ACTION 15 == 6 && rd t Obj.TIM_CMP.TARGET 15 == 2 ^ 48 - 1) = true)
    ∧ (let s : State := having Obj.TIM_CMP.ARM 15 1 (having Obj.TIM_CMP.TARGET 15 15 State.reset)
     (cmpDue s 15 = true)
       ∧ (after (exec (.comparatorFire 15) s) fun t => rd t Obj.TIM_CMP.FIRED 15 == 1
          && rd t Obj.TIM_CMP.LATE 15 == b2n (cmpLate s 15) && rd t Obj.TIM_CMP.ARM 15 == 0) = true)
    ∧ (let s : State := having Obj.TIM_CMP.PERIOD 15 1600 (having Obj.TIM_CMP.ARM 15 1 (having Obj.TIM_CMP.TARGET 15 15 State.reset))
     (cmpDue s 15 = true ∧ rd s Obj.TIM_CMP.PERIOD 15 ≠ 0)
       ∧ (after (exec (.comparatorFire 15) s) fun t => rd t Obj.TIM_CMP.FIRED 15 == 1
          && rd t Obj.TIM_CMP.ARM 15 == 1) = true) := by
  refine ⟨?_, ?_, ?_, ?_, ?_, ?_, ?_, ?_, ?_, ?_, ?_, ?_, ?_⟩ <;> decide +kernel

theorem test_meets_NetworkPortsComplete :
    (let s : State := having Obj.NET_PORT.FORWARD 1 1 (having Obj.NET_PORT.MAC 1 0x665544332211 (having Obj.NET_STATUS.LINK 1 3 State.reset))
     (netPortUp s 1 = true ∧ isPause (List.replicate 12 1 ++ [0x88, 0x08, 0, 1]) = true
          ∧ isPause [0x11, 0x22, 0x33, 0x44, 0x55, 0x66] = false
          ∧ ofBe ([0x11, 0x22, 0x33, 0x44, 0x55, 0x66].take 6) = ofBe (leBytes 6 (rd s Obj.NET_PORT.MAC 1))
          ∧ isPause [1, 2, 3, 4, 5, 6] = false
          ∧ ofBe ([1, 2, 3, 4, 5, 6].take 6) ≠ ofBe (leBytes 6 (rd s Obj.NET_PORT.MAC 1))
          ∧ flag s Obj.NET_PORT.FORWARD 1 = true ∧ fwdBytes s 0 + 6 ≤ 262144 ∧ s.net.ports.length = 2)
       ∧ (after (exec (.netFrame 1 (List.replicate 12 1
          ++ [0x88, 0x08, 0, 1]) [] []) s) (fun t => rd t Obj.NET_STATUS.PAUSE 1 == 1)
          && after (exec (.netFrame 1 [0x11, 0x22, 0x33, 0x44, 0x55, 0x66] [] []) s) (fun t => rd t Obj.NET_STATUS.RX_OWN 1 == 1) && after (exec (.netFrame 1 [1, 2, 3, 4, 5, 6] [] []) s) (fun t => (portOf t 0).fwd == [fwdFrame s 1 [1, 2, 3, 4, 5, 6]]) && after (exec (.netLinkDown 1 3) s) (fun t => rd t Obj.NET_STATUS.LINK 1 == 0 && rd t Obj.NET_STATUS.TX_LOST 1 == 3) && after (exec (.netFecUncorrected 1 2 3) s) (fun t => rd t Obj.NET_STATUS.FEC_CORRECTED 1 == 2 && rd t Obj.NET_STATUS.FEC_UNCORRECTED 1 == 3)) = true)
    ∧ (let s : State := setPort (having Obj.NET_STATUS.LINK 0 3 (having Obj.NET_STATUS.LINK 1 3 State.reset)) 0 (fun p => { p with fwd := [fwdFrame State.reset 1 [9, 9]] })
     (netPortUp s 1 = true ∧ isPause (List.replicate 12 1 ++ [0x88, 0x08, 0, 1]) = true ∧ netPortUp s (1 - 1) = true
          ∧ (portOf s 0).fwd = fwdFrame State.reset 1 [9, 9] :: [])
       ∧ (after (exec (.netFrame 1 (List.replicate 12 1
          ++ [0x88, 0x08, 0, 1]) [5] []) s) fun t => (portOf t 0).fwd == []
          && t.out.contains (.netFrame 0 (ptpForward (fwdFrame State.reset 1 [9, 9]) 5).bytes)
          && rd t Obj.NET_STATUS.FORWARDED 0 == 1) = true)
    ∧ (let s : State := powered (netDoms 1) (having Obj.NET_PORT.MEDIA 1 3 (having Obj.NET_PORT.AN 1 1 State.reset))
     (netMayTrain s 1 = true ∧ bit (rd s Obj.NET_PORT.MEDIA 1) 1 = true ∧ flag s Obj.NET_PORT.AN 1 = true)
       ∧ (after (exec (.netLinkUp 1 true true) s) (fun t => rd t Obj.NET_STATUS.LINK 1 == 3
          && rd t Obj.NET_STATUS.MEDIA_RES 1 == 1
          && rd t Obj.NET_STATUS.BYPASS_RES 1 == rd s Obj.NET_PORT.FEC_IND_BYPASS 1)
          && after (exec (.anRestart 1) s) (fun t => rd t Obj.NET_STATUS.LINK 1 == 1)) = true) := by
  refine ⟨?_, ?_, ?_⟩ <;> decide +kernel

theorem test_meets_PairComplete :
    (let s : State := State.reset
     (true ≠ false ∧ pairActive s = true ∧ s.ctl.pair = .paired
          ∧ (s.ctl.restartTimes.filter (fun t => decide (s.time.rc64 < t + 60 * ticksPerSecond))).length < 2
          ∧ ronecServes s = true ∧ s.flt.active.length < 1024)
       ∧ (after (exec (.selfCheck true false) s) (fun t => t.ctl.pair == .single && t.ctl.leadB == true) && after (exec .compareMismatch s) (fun t => t.ctl.pair == .restarting && !t.ctl.ronecUp && t.ctl.warmRestarts == 1) && after (exec (.selfCheck true true) s) (fun t => t.ctl.pair == .restarting && !t.ctl.ronecUp && t.ctl.warmRestarts == 1) && after (exec .heartbeat s) (fun t => t.ctl.heartbeat == 1) && after (exec (.configVote 2 false) s) (fun t => faultActive t 0x100C 0) && after (exec (.configVote 0 false) s) (fun t => t == s) && after (exec (.configVote 5 true) s) (fun t => t.aon.bootId == 2)) = true)
    ∧ (let s : State := setCtl (atTick 50 State.reset) (fun c => { c with restartTimes := [10, 20] })
     (pairActive s = true ∧ 2 ≤ (s.ctl.restartTimes.filter (fun t => decide (s.time.rc64 < t + 60 * ticksPerSecond))).length)
       ∧ (after (exec .compareMismatch s) (fun t => t.aon.bootId == 2 && t.aon.bootFails == 1) && after (exec (.selfCheck true true) s) (fun t => t.aon.bootId == 2 && t.aon.bootFails == 1)) = true)
    ∧ (let s : State := setCtl State.reset (fun c => { c with pair := .single, resyncFails := 1 })
     ((s.ctl.pair = .single ∨ s.ctl.pair = .resync) ∧ s.ctl.resyncFails < 2)
       ∧ (after (exec .resyncDone s) (fun t => t.ctl.pair == .paired && t.ctl.resyncFails == 0)
          && after (exec .resyncTimeout s) (fun t => t.ctl.pair == .resync && t.ctl.resyncFails == 2)) = true)
    ∧ (let s : State := setCtl State.reset (fun c => { c with leadB := true })
     (s.ctl.pair = .paired ∧ s.ctl.leadB = true)
       ∧ (after (exec .leadReturn s) fun t => !t.ctl.leadB && t.ctl.pair == .paired) = true)
    ∧ (let s : State := setCtl State.reset (fun c => { c with pair := .restarting })
     (s.ctl.pair = .restarting)
       ∧ (after (exec (.warmRestartDone true) s) (fun t => t.ctl.pair == .paired && !t.ctl.leadB)
          && after (exec (.warmRestartDone false) s) (fun t => t.aon.bootId == 2)) = true) := by
  refine ⟨?_, ?_, ?_, ?_, ?_⟩ <;> decide +kernel

theorem test_meets_MailboxesComplete :
    (let s : State := State.reset
     ((mailOf s 7).owned = false ∧ romServes s = false ∧ modeOf s ≠ .vigil ∧ s.ctl.mailboxes.length = 8
          ∧ frameStatus 7 ([0x01, 0, 7, 1, 5, 0, 0, 0, 24, 0, 0, 0, 0, 0, 0, 0]
          ++ leBytes 4 (crc32c [0x01, 0, 7, 1, 5, 0, 0, 0, 24, 0, 0, 0, 0, 0, 0, 0]) ++ [0, 0, 0, 0]) 24 = 0
          ∧ (mailOf s 7).queue = [] ∧ opcodeKnown 1 = true ∧ (mailOf s 7).cache.find? (fun e => e.seq == 5) = none
          ∧ frameStatus 7 (padTo 16 []) 16 ≠ 0)
       ∧ (let b := [0x01, 0, 7, 1, 5, 0, 0, 0, 24, 0, 0, 0, 0, 0, 0, 0]
          ++ leBytes 4 (crc32c [0x01, 0, 7, 1, 5, 0, 0, 0, 24, 0, 0, 0, 0, 0, 0, 0]) ++ [0, 0, 0, 0];
            after (exec (.mailboxDoorbell 7 24 b) s) (fun t => (mailOf t 7).queue == [⟨1, true, 5, [], 0, false, 0, []⟩]) && after (exec (.mailboxDoorbell 7 16 []) s) (fun t => t.ctl.hostErrs == 1 && (mailOf t 7).queue == [] && ((mailOf t 7).done.getLast?.map (fun c => c.response.status)) == some 0x41)) = true)
    ∧ (let s : State := setMail State.reset 7 (fun x => { x with owned := true })
     (((mailOf s 7).owned || (romServes s && decide (7 ≠ 0))) = true)
       ∧ (after (exec (.mailboxDoorbell 7 24 [1]) s) fun t => t.ctl.hostErrs == 1 && mailOf t 7 == mailOf s 7) = true)
    ∧ (let s : State := setMail State.reset 7 (fun x => { x with done := [⟨1, 7, 5, 0, true, 0, ⟨0, 1, []⟩⟩], ring := ⟨0x1000, 6, 1, true, 0, 63⟩ })
     ((mailOf s 7).done = ⟨1, 7, 5, 0, true, 0, ⟨0, 1, []⟩⟩ :: [] ∧ (mailOf s 7).ring.room = true
          ∧ mailServed s 7 = true)
       ∧ (after (exec (.completionWrite 7) s) fun t => (mailOf t 7).done == []
          && (mailOf t 7).ring.head == 64) = true)
    ∧ (let s : State := { State.reset with notes := { State.reset.notes with queue := [⟨4, 0, .lost 1 2⟩], ring := ⟨0x1000, 6, 1, true, 0, 63⟩ } }
     (s.notes.queue = ⟨4, 0, .lost 1 2⟩ :: [] ∧ s.notes.ring.room = true ∧ noticeServed s ⟨4, 0, .lost 1 2⟩ = true
          ∧ noticeFree s ⟨4, 0, .lost 1 2⟩ = true ∧ s.notes.droppedSince = 0)
       ∧ (after (exec .noticeWrite s) fun t => t.notes.queue == [] && t.notes.ring.head == 64) = true)
    ∧ (let s : State := { State.reset with notes := { State.reset.notes with droppedSince := 5, droppedTotal := 7, queue := List.replicate 63 ⟨4, 0, .lost 1 2⟩ } }
     (0 < s.notes.droppedSince ∧ s.notes.queue.length < 64)
       ∧ (after (exec .noticeLost s) fun t => t.notes.queue.drop 63 |>.take 1 |> fun x => x == [⟨0, ts96Now s, .lost 5 7⟩]) = true)
    ∧ (let s : State := State.reset
     (s.ctl.mailboxes.length = 8 ∧ ringSetup (mailOf s 7).ring 0 64 0x2000 = some ⟨0x2000, 6, 1, false, 0, 0⟩
          ∧ ringSetup s.notes.ring 0 32 1 = none)
       ∧ (after (exec (.completionRingSetup 7 0 true 0x2000) s) (fun t => (mailOf t 7).ring == ⟨0x2000, 6, 1, false, 0, 0⟩) && after (exec (.completionRingSetup 8 0 false 1) s) (fun t => t.ctl.hostErrs == 1) && after (exec .bar0DiscardedWrite s) (fun t => t.ctl.hostErrs == 1) && after (exec .bar2Write s) (fun t => t == emit s (.readData 9 0 0 2)) && after (exec (.halfReadHigh 65537) s) (fun t => t == emit s (.readData (16 + 65537) 4 (mapGet s.ctl.shadow 65537) 0)) && after (exec (.halfReadLow 65537 true 8 0) s) (fun t => mapGet t.ctl.shadow 65537 == bits (halfWord s true 8 0).1 32 32) && after (exec (.bar2Read 536870911 512 []) s) (fun t => match t.out with | [.readData 9 4096 _ _] => true | _ => false)) = true)
    ∧ (let s : State := domIs 177 0 { State.reset with mem := [(0x100FFFF9, 7)] }
     (0x14000000 ≤ 0x140FFFF8 ∧ 0x140FFFF8 < 0x14100000 ∧ domOn s (bankDom (bankOfWord (8 / 8))) = false)
       ∧ (after (exec (.bar2Read 0x140FFFF8 1 []) s) (fun t => t.out == .readData 9 8 0x700 0 :: s.out)
          && after (exec (.bar2Read 8 1 []) s) (fun t => t.out == .readData 9 8 (2 ^ 64 - 1) 2 :: s.out)) = true)
    ∧ (let s : State := having Obj.MOV_RING.KIND 5 2 (asked (request 0x40 ([0, 0, 5, 6, 10, 0, 0, 0, 100, 0, 0, 0, 0, 0, 0, 0])) (having Obj.MOV_RING.KIND 6 1 State.reset))
     (ReadyHead s 7 0x40 (request 0x40 ([0, 0, 5, 6, 10, 0, 0, 0, 100, 0, 0, 0, 0, 0, 0, 0]))
          ∧ dataRing s (request 0x40 ([0, 0, 5, 6, 10, 0, 0, 0, 100, 0, 0, 0, 0, 0, 0, 0])) = some (0, 16))
       ∧ (after (exec (.ringDataTimeout 7) s) fun t => committed s t (request 0x40 ([0, 0, 5, 6, 10, 0, 0, 0, 100, 0, 0, 0, 0, 0, 0, 0])) 9 (List.replicate 16 0)) = true) := by
  refine ⟨?_, ?_, ?_, ?_, ?_, ?_, ?_, ?_⟩ <;> decide +kernel

theorem test_meets_BootsComplete :
    (let s : State := setCtl State.reset (fun c => { c with pair := .booting, ronecUp := false })
     (s.ctl.pair = .booting ∧ s.aon.inReset = false ∧ s.ctl.ronecUp = false ∧ bootReads s = true)
       ∧ (after (exec .bootRefTimeout s) (fun t => !t.time.refPresent && rd t Obj.PWR_DVFS.POINT == 5
          && rd t Obj.TIM_STATE.HOLDOVER == 1) && after (exec .bootTimeout s) (fun t => t.aon.bootId == 2
          && t.aon.bootFails == 1 && t.mem == [])) = true)
    ∧ (let s : State := setCtl State.reset (fun c => { c with pair := .booting })
     (s.ctl.pair = .booting ∧ s.ctl.ronecUp = true ∧ s.ctl.bundleDone = true ∧ s.time.bootWait = false
          ∧ s.aon.inReset = false)
       ∧ (after (exec .bootIdleReached s) fun t => t.ctl.pair == .paired && t.aon.bootFails == 0) = true)
    ∧ (let s : State := setCtl State.reset (fun c => { c with bootDue := some .slotB })
     (s.ctl.bootDue = some .slotB)
       ∧ (after (exec .bootCommandReboot s) (fun t => t.aon.bootId == 2 && t.aon.bootFails == 0 && t.mem == [])
          && after (exec (.pornAssert true) s) (fun t => t.aon.inReset && t.mem == [])
          && after (exec (.pornAssert false) s) (fun t => t == raise s 0x1405 0 0 0)
          && after (exec .vddAonPowerUp s) (fun t => t.aon.bootId == 0 && t.aon.inReset && t.mem == []
          && t.flt.retained == [] && t.out == .pin 32 true :: s.out)) = true)
    ∧ (let s : State := setAon State.reset (fun a => { a with inReset := true, bootId := 65535 })
     (s.aon.inReset = true)
       ∧ (after (exec (.pornRelease 15 3 false true 7) s) (fun t => t.ctl.chipId == 15 && t.ctl.bootSrc == 3
          && t.aon.bootId == 0 && !t.aon.inReset)
          && after (exec (.pornRelease 15 3 true true 7) s) (fun t => t == emit s (.pin 34 false))) = true) := by
  refine ⟨?_, ?_, ?_, ?_⟩ <;> decide +kernel

theorem test_meets_ObjectCommandsComplete :
    (let s : State := asked (request 0x01 [])
     (ReadyHead s 7 0x01 (request 0x01 []))
       ∧ (after (exec (.getInfo 7) s) fun t => committed s t (request 0x01 []) 0 (infoBytes s)) = true)
    ∧ (let s : State := asked (request 0x10 [0x11, 0x10, 0, 0, 0, 0, 0, 0])
     (ReadyHead s 7 0x10 (request 0x10 [0x11, 0x10, 0, 0, 0, 0, 0, 0])
          ∧ firstStatus ((readEntries [0x11, 0x10, 0, 0, 0, 0, 0, 0]).map readStatus) = 0
          ∧ (((readEntries [0x11, 0x10, 0, 0, 0, 0, 0, 0]).map (readBytes s)).flatten).length ≤ 472)
       ∧ (after (exec (.cfgRead 7) s) fun t => committed s t (request 0x10 [0x11, 0x10, 0, 0, 0, 0, 0, 0]) 0 (((readEntries [0x11, 0x10, 0, 0, 0, 0, 0, 0]).map (readBytes s)).flatten)) = true)
    ∧ (let s : State := asked (request 0x10 ((List.range 16).flatMap (fun i => [0x03, 0x01, 8 * i, 0, 0, 0, 0, 0])))
     (let p := (List.range 16).flatMap (fun i => [0x03, 0x01, 8 * i, 0, 0, 0, 0, 0]); ReadyHead s 7 0x10 (request 0x10 p) ∧ firstStatus ((readEntries p).map readStatus) = 0)
       ∧ (let p := (List.range 16).flatMap (fun i => [0x03, 0x01, 8 * i, 0, 0, 0, 0, 0]); let o := ((readEntries p).map (readBytes s)).flatten; after (exec (.cfgRead 7) s) (fun t => if o.length ≤ 472 then committed s t (request 0x10 p) 0 o else committed s t (request 0x10 p) 7 [])) = true)
    ∧ (let s : State := asked (request 0x10 [0xFF, 0xFF, 0, 0, 0, 0, 0, 0])
     (ReadyHead s 7 0x10 (request 0x10 [0xFF, 0xFF, 0, 0, 0, 0, 0, 0])
          ∧ firstStatus ((readEntries [0xFF, 0xFF, 0, 0, 0, 0, 0, 0]).map readStatus) ≠ 0)
       ∧ (after (exec (.cfgRead 7) s) fun t => committed s t (request 0x10 [0xFF, 0xFF, 0, 0, 0, 0, 0, 0]) 4 ([])) = true)
    ∧ (let s : State := asked (request 0x11 ([0x01, 0x09, 0, 0, 4, 0, 0, 0] ++ leBytes 4 0 ++ leBytes 4 0))
     (ReadyHead s 7 0x11 (request 0x11 ([0x01, 0x09, 0, 0, 4, 0, 0, 0] ++ leBytes 4 0 ++ leBytes 4 0))
          ∧ firstStatus (entryStatuses (entriesOf ([0x01, 0x09, 0, 0, 4, 0, 0, 0] ++ leBytes 4 0
          ++ leBytes 4 0)) s 7 9) = 0)
       ∧ (after (exec (.cfgWrite 7) s) fun t => committed s t (request 0x11 ([0x01, 0x09, 0, 0, 4, 0, 0, 0]
          ++ leBytes 4 0 ++ leBytes 4 0)) 0 (writeResponse 1 0xFFFF 0)) = true)
    ∧ (let s : State := asked (request 0x11 ([0xFF, 0xFF, 0, 0, 4, 0, 0, 0] ++ leBytes 4 0 ++ leBytes 4 0))
     (ReadyHead s 7 0x11 (request 0x11 ([0xFF, 0xFF, 0, 0, 4, 0, 0, 0] ++ leBytes 4 0 ++ leBytes 4 0))
          ∧ firstStatus (entryStatuses (entriesOf ([0xFF, 0xFF, 0, 0, 4, 0, 0, 0] ++ leBytes 4 0
          ++ leBytes 4 0)) s 7 9) ≠ 0)
       ∧ (after (exec (.cfgWrite 7) s) fun t => committed s t (request 0x11 ([0xFF, 0xFF, 0, 0, 4, 0, 0, 0]
          ++ leBytes 4 0 ++ leBytes 4 0)) 4 (writeResponse 0 0 0xFFFF) && t.regs == s.regs) = true)
    ∧ (let s : State := having Obj.MOV_RING.KIND 5 2 (asked (request 0x12 (leBytes 2 0x0807 ++ [0, 0, 1, 0, 0, 0]
          ++ leBytes 4 65535 ++ leBytes 4 1 ++ [5, 0, 0, 0] ++ leBytes 4 (crc32c [1, 0, 0, 0]))))
     (let p := leBytes 2 0x0807 ++ [0, 0, 1, 0, 0, 0] ++ leBytes 4 65535 ++ leBytes 4 1 ++ [5, 0, 0, 0]
          ++ leBytes 4 (crc32c [1, 0, 0, 0]); ReadyHead s 7 0x12 (request 0x12 p)
          ∧ tableStatus s (tableReq p) true = 0 ∧ ringStopped s (tableReq p).ring = false
          ∧ (tableValues (tableReq p) ((padTo (tableReq p).bytes [1, 0, 0, 0]).take (tableReq p).bytes)).any (fun v => !tableValueOk (tableReq p).obj v.2) = false ∧ crc32c ((padTo (tableReq p).bytes [1, 0, 0, 0]).take (tableReq p).bytes) = (tableReq p).crc)
       ∧ (after (exec (.tableWrite 7 [1, 0, 0, 0]) s) fun t => committed s t (request 0x12 (leBytes 2 0x0807
          ++ [0, 0, 1, 0, 0, 0] ++ leBytes 4 65535 ++ leBytes 4 1 ++ [5, 0, 0, 0]
          ++ leBytes 4 (crc32c [1, 0, 0, 0]))) 0 ([1, 0, 0, 0, 0, 0, 0, 0])) = true)
    ∧ (let s : State := having Obj.MOV_RING.KIND 5 2 (asked (request 0x12 (leBytes 2 0x0807 ++ [0, 0, 1, 0, 0, 0]
          ++ leBytes 4 65535 ++ leBytes 4 1 ++ [5, 0, 0, 0] ++ leBytes 4 0)))
     (let p := leBytes 2 0x0807 ++ [0, 0, 1, 0, 0, 0] ++ leBytes 4 65535 ++ leBytes 4 1 ++ [5, 0, 0, 0]
          ++ leBytes 4 0; ReadyHead s 7 0x12 (request 0x12 p) ∧ tableStatus s (tableReq p) true = 0
          ∧ ringStopped s (tableReq p).ring = false
          ∧ (tableValues (tableReq p) ((padTo (tableReq p).bytes [9, 9, 9, 255]).take (tableReq p).bytes)).any (fun v => !tableValueOk (tableReq p).obj v.2) = true)
       ∧ (after (exec (.tableWrite 7 [9, 9, 9, 255]) s) fun t => committed s t (request 0x12 (leBytes 2 0x0807
          ++ [0, 0, 1, 0, 0, 0] ++ leBytes 4 65535 ++ leBytes 4 1 ++ [5, 0, 0, 0] ++ leBytes 4 0)) 1 []) = true)
    ∧ (let s : State := asked (request 0x12 (leBytes 2 0xFFFF ++ [0, 0, 1, 0, 0, 0] ++ leBytes 4 65535
          ++ leBytes 4 1 ++ [5, 0, 0, 0] ++ leBytes 4 0))
     (let p := leBytes 2 0xFFFF ++ [0, 0, 1, 0, 0, 0] ++ leBytes 4 65535 ++ leBytes 4 1 ++ [5, 0, 0, 0]
          ++ leBytes 4 0; ReadyHead s 7 0x12 (request 0x12 p) ∧ tableStatus s (tableReq p) true ≠ 0)
       ∧ (after (exec (.tableWrite 7 [9]) s) fun t => committed s t (request 0x12 (leBytes 2 0xFFFF
          ++ [0, 0, 1, 0, 0, 0] ++ leBytes 4 65535 ++ leBytes 4 1 ++ [5, 0, 0, 0] ++ leBytes 4 0)) 4 []) = true)
    ∧ (let s : State := having Obj.MOV_RING.KIND 5 1 (asked (request 0x13 (leBytes 2 0x0807 ++ [0, 0, 1, 0, 0, 0]
          ++ leBytes 4 65535 ++ leBytes 4 1 ++ [5, 0, 0, 0] ++ leBytes 4 0)))
     (let p := leBytes 2 0x0807 ++ [0, 0, 1, 0, 0, 0] ++ leBytes 4 65535 ++ leBytes 4 1 ++ [5, 0, 0, 0]
          ++ leBytes 4 0; ReadyHead s 7 0x13 (request 0x13 p) ∧ tableStatus s (tableReq p) false = 0
          ∧ ringStopped s (tableReq p).ring = false ∧ s.mov.rings.length = 64)
       ∧ (after (exec (.tableRead 7) s) fun t => (answered t).any (fun a => a.1 == 0)
          && (ringOf t 5).queue == [⟨.plain, tableRecord s (tableReq (leBytes 2 0x0807 ++ [0, 0, 1, 0, 0, 0]
          ++ leBytes 4 65535 ++ leBytes 4 1 ++ [5, 0, 0, 0] ++ leBytes 4 0)), false, 1⟩]) = true)
    ∧ (let s : State := asked (request 0x30 (List.replicate 8 0)) (raise State.reset 0x0101 7 0 0)
     (ReadyHead s 7 0x30 (request 0x30 (List.replicate 8 0)))
       ∧ (after (exec (.faultList 7) s) fun t => (answered t).any (fun a => a.1 == 0 && a.2.length == 8 + 16)) = true)
    ∧ (let s : State := asked (request 0x31 [0x01, 0x01, 7, 0, 0, 0, 0, 0]) (raise State.reset 0x0101 7 0 0)
     (ReadyHead s 7 0x31 (request 0x31 [0x01, 0x01, 7, 0, 0, 0, 0, 0]))
       ∧ (after (exec (.faultAck 7) s) fun t => (answered t).any (fun a => a.2 == [1, 0, 0, 0, 0, 0, 0, 0] || a == (2, [0, 0, 1, 0, 0, 0, 0, 0]))) = true)
    ∧ (let s : State := asked (request 0x22 [1]) (inMode .calibrate)
     (mailServed s 7 = true ∧ (mailOf s 7).queue = [request 0x22 [1]] ∧ early s 0x22 [1] ≠ 0)
       ∧ (after (exec (.probeSweep 7 []) s) fun t => committed s t (request 0x22 [1]) (early s 0x22 [1]) []) = true)
    ∧ (let s : State := asked (request 0x53 [0, 0, 0, 0, 0, 0, 0, 0]) (inMode .image)
     (mailServed s 7 = true ∧ (mailOf s 7).queue = [request 0x53 [0, 0, 0, 0, 0, 0, 0, 0]]
          ∧ early s 0x53 [0, 0, 0, 0, 0, 0, 0, 0] ≠ 0)
       ∧ (after (exec (.rollbackCommit 7 (some 3)) s) fun t => committed s t (request 0x53 [0, 0, 0, 0, 0, 0, 0, 0]) 2 []) = true) := by
  refine ⟨?_, ?_, ?_, ?_, ?_, ?_, ?_, ?_, ?_, ?_, ?_, ?_, ?_, ?_⟩ <;> decide +kernel

theorem test_meets_AcquisitionCommandsComplete :
    (let s : State := asked (request 0x20 []) (inMode .watch)
     (ReadyHead s 7 0x20 (request 0x20 []) ∧ sourceOn s 2 = false)
       ∧ (after (exec (.softTrigger 7) s) fun t => (answered t).any (fun a => a.1 == 0)) = true)
    ∧ (let s : State := asked (request 0x20 []) (having Obj.TRG_CTRL.ENABLE 0 1 (having Obj.TRG_CTRL.SRC_EN 0 4 (setTrg (inMode .watch) (fun x => { x with running := true }))))
     (ReadyHead s 7 0x20 (request 0x20 []) ∧ sourceOn s 2 = true ∧ s.trg.running = true)
       ∧ (after (exec (.softTrigger 7) s) fun t => (mailOf t 7).queue.map (fun r => r.started) == [true]
          && t.trg.known.length == 1) = true)
    ∧ (let s : State := asked (request 0x20 []) (having Obj.TRG_CTRL.ENABLE 0 1 (having Obj.TRG_CTRL.SRC_EN 0 4 (inMode .watch)))
     (ReadyHead s 7 0x20 (request 0x20 []) ∧ sourceOn s 2 = true ∧ s.trg.running = false)
       ∧ (after (exec (.softTrigger 7) s) fun t => committed s t (request 0x20 []) 0x23 []) = true)
    ∧ (let s : State := asked (request 0x21 []) (inMode .image)
     (ReadyHead s 7 0x21 (request 0x21 []) ∧ dahCur s = none)
       ∧ (after (exec (.integStop 7) s) fun t => committed s t (request 0x21 []) 2 []) = true)
    ∧ (let s : State := asked (request 0x21 []) (correlating (fun d => { d with seqs := [aSeq 1024] }))
     (ReadyHead s 7 0x21 (request 0x21 []) ∧ (dahCur s).isSome = true)
       ∧ (after (exec (.integStop 7) s) fun t => committed s t (request 0x21 []) 0 (leBytes 4 (toGroupSpx s (nextBlock s)) ++ [0, 0, 0, 0])) = true)
    ∧ (let s : State := asked (request 0x21 []) (correlating (fun d => { d with seqs := [aSeq 1024], stopAt := some 3072 }))
     (ReadyHead s 7 0x21 (request 0x21 []) ∧ (dahCur s).isSome = true)
       ∧ (after (exec (.integStop 7) s) fun t => committed s t (request 0x21 []) 0 (leBytes 4 3072
          ++ [0, 0, 0, 0])) = true)
    ∧ (let s : State := having Obj.MOV_RING.KIND 5 1 (asked (request 0x22 (List.replicate 31 0
          ++ [128, 13, 128, 115, 200, 16, 5] ++ List.replicate 10 0)) (inMode .calibrate))
     (ReadyHead s 7 0x22 (request 0x22 (List.replicate 31 0 ++ [128, 13, 128, 115, 200, 16, 5]
          ++ List.replicate 10 0)) ∧ sweepStatus s (List.replicate 31 0 ++ [128, 13, 128, 115, 200, 16, 5]
          ++ List.replicate 10 0) = 0 ∧ ringStopped s 5 = false)
       ∧ (after (exec (.probeSweep 7 []) s) fun t => t.afe.sweepMask == 128 * 256 ^ 31
          && t.afe.sweep == some (sweepPoint (128 * 256 ^ 31) 13)
          && (mailOf t 7).queue.map (fun r => r.started) == [true]) = true)
    ∧ (let s : State := asked (request 0x23 []) (inMode .calibrate)
     (ReadyHead s 7 0x23 (request 0x23 []) ∧ runsOp s [0x23] = false)
       ∧ (after (exec (.cellCal 7 .freeze) s) fun t => (mailOf t 7).queue.map (fun r => r.started) == [true]) = true)
    ∧ (let s : State := asked (request 0x24 ([255, 0, 0, 0] ++ leBytes 4 32768
          ++ leBytes 8 (2 ^ 47 - 1))) (inMode .test)
     (let p := [255, 0, 0, 0] ++ leBytes 4 32768 ++ leBytes 8 (2 ^ 47 - 1); ReadyHead s 7 0x24 (request 0x24 p)
          ∧ leAt p 4 4 ≠ 0 ∧ leAt p 4 4 ≤ 32768 ∧ leAt p 8 8 < s.time.rc64 + 2 ^ 47 ∧ runsOp s [0x24] = false)
       ∧ (after (exec (.convCapture 7) s) fun t => t.cnv.capture == some ⟨255, 32768, 2 ^ 47 - 1, none, 0⟩) = true) := by
  refine ⟨?_, ?_, ?_, ?_, ?_, ?_, ?_, ?_, ?_⟩ <;> decide +kernel

theorem test_meets_JobAndImageCommandsComplete :
    (let s : State := having Obj.MOV_RING.KIND 5 2 (having Obj.MOV_RING.KIND 6 1 (asked (request 0x40 [9, 0, 5, 6, 10, 0, 0, 0, 15, 0, 0, 0, 0, 0, 0, 0])))
     (ReadyHead s 7 0x40 (request 0x40 [9, 0, 5, 6, 10, 0, 0, 0, 15, 0, 0, 0, 0, 0, 0, 0])
          ∧ compressCheck s [9, 0, 5, 6, 10, 0, 0, 0, 15, 0, 0, 0, 0, 0, 0, 0] = 0 ∧ ringStopped s 5 = false
          ∧ ringStopped s 6 = false ∧ s.cmp.queues.length = 3)
       ∧ (after (exec (.compress 7 [1]) s) fun t => (nth t.cmp.queues 0 []).map (fun j => (j.input.length, j.level, j.ring)) == [(10, 9, 6)]) = true)
    ∧ (let s : State := having Obj.MOV_RING.KIND 5 2 (having Obj.MOV_RING.KIND 6 1 (asked (request 0x41 [0, 0, 5, 6, 10, 0, 0, 0, 100, 0, 0, 0, 0, 0, 0, 0])))
     (ReadyHead s 7 0x41 (request 0x41 [0, 0, 5, 6, 10, 0, 0, 0, 100, 0, 0, 0, 0, 0, 0, 0])
          ∧ decompressCheck s [0, 0, 5, 6, 10, 0, 0, 0, 100, 0, 0, 0, 0, 0, 0, 0] = 0 ∧ ringStopped s 5 = false
          ∧ ringStopped s 6 = false ∧ s.cmp.queues.length = 3)
       ∧ (after (exec (.decompress 7 [1]) s) fun t => (nth t.cmp.queues 1 []).map (fun j => (j.input.length, j.limit)) == [(10, 100)]) = true)
    ∧ (let s : State := having Obj.MOV_RING.KIND 6 1 (asked (request 0x32 [1, 0, 9, 6, 0, 0, 0, 0]))
     (ReadyHead s 7 0x32 (request 0x32 [1, 0, 9, 6, 0, 0, 0, 0]) ∧ leAt [1, 0, 9, 6, 0, 0, 0, 0] 0 1 ≤ 1
          ∧ leAt [1, 0, 9, 6, 0, 0, 0, 0] 1 1 = 0 ∧ leAt [1, 0, 9, 6, 0, 0, 0, 0] 2 1 ≤ 9 ∧ ringIs s 6 1 = true
          ∧ s.mov.rings.length = 64)
       ∧ (after (exec (.logRead 7) s) fun t => (answered t).any (fun a => a.1 == 0 && a.2.take 4 == [0, 0, 0, 0])
          && (ringOf t 6).queue.map (fun r => r.bytes.length) == [24]) = true)
    ∧ (let s : State := having Obj.MOV_RING.KIND 6 1 (asked (request 0x32 [0, 2, 9, 6, 0, 0, 0, 0]) (raise State.reset 0x0101 7 0 0))
     (ReadyHead s 7 0x32 (request 0x32 [0, 2, 9, 6, 0, 0, 0, 0]) ∧ ringIs s 6 1 = true ∧ modeOf s ≠ .image
          ∧ modeOf s ≠ .beam ∧ engineFull s 0 = false ∧ s.cmp.queues.length = 3)
       ∧ (after (exec (.logRead 7) s) fun t => (nth t.cmp.queues 0 []).map (fun j => (j.input, j.wrap)) == [(((logEntries s 0).map LogEntry.bytes).flatten, 1)]) = true)
    ∧ (let s : State := having Obj.MOV_RING.KIND 5 2 (asked (request 0x50 [0, 5, 1, 0, 10, 0, 0, 0, 0, 0, 0, 0, 0, 0, 0, 0]))
     (ReadyHead s 7 0x50 (request 0x50 [0, 5, 1, 0, 10, 0, 0, 0, 0, 0, 0, 0, 0, 0, 0, 0])
          ∧ loadStatus s [0, 5, 1, 0, 10, 0, 0, 0, 0, 0, 0, 0, 0, 0, 0, 0] = 0
          ∧ leAt [0, 5, 1, 0, 10, 0, 0, 0, 0, 0, 0, 0, 0, 0, 0, 0] 0 1 = 0 ∧ ringStopped s 5 = false
          ∧ s.ctl.waitsForImage = false)
       ∧ (after (exec (.imageLoad 7 [1]) s) fun t => committed s t (request 0x50 [0, 5, 1, 0, 10, 0, 0, 0, 0, 0, 0, 0, 0, 0, 0, 0]) 0x30 (loadResponse (imageCheck s 1 (padTo 10 [1])) (padTo 10 [1])) && t.ctl.staged == none) = true)
    ∧ (let s : State := setCtl (asked (request 0x51 [0, 0, 0, 0, 0, 0, 0, 0])) (fun c => { c with staged := some ⟨1, [1]⟩ })
     (ReadyHead s 7 0x51 (request 0x51 [0, 0, 0, 0, 0, 0, 0, 0]) ∧ flashStatus s [0, 0, 0, 0, 0, 0, 0, 0] = 0)
       ∧ (after (exec (.imageFlash 7 true) s) fun t => (mailOf t 7).queue.map (fun r => r.started) == [true]) = true)
    ∧ (let s : State := asked (request 0x52 [0, 0, 0, 0, 0, 0, 0, 0])
     (ReadyHead s 7 0x52 (request 0x52 [0, 0, 0, 0, 0, 0, 0, 0]) ∧ s.ctl.staged = none)
       ∧ (after (exec (.imageServe 7) s) fun t => committed s t (request 0x52 [0, 0, 0, 0, 0, 0, 0, 0]) 2 ([])) = true)
    ∧ (let s : State := setCtl (asked (request 0x52 [255, 255, 1, 0, 0, 0, 0, 0])) (fun c => { c with staged := some ⟨1, [1]⟩ })
     (ReadyHead s 7 0x52 (request 0x52 [255, 255, 1, 0, 0, 0, 0, 0]) ∧ s.ctl.staged = some ⟨1, [1]⟩)
       ∧ (after (exec (.imageServe 7) s) fun t => committed s t (request 0x52 [255, 255, 1, 0, 0, 0, 0, 0]) 0 ([])
          && t.ctl.serveLinks == 65535) = true)
    ∧ (let s : State := setCtl (asked (request 0x52 [255, 255, 0, 0, 0, 0, 0, 0])) (fun c => { c with staged := some ⟨1, [1]⟩, serveLinks := 9 })
     (ReadyHead s 7 0x52 (request 0x52 [255, 255, 0, 0, 0, 0, 0, 0]) ∧ s.ctl.staged = some ⟨1, [1]⟩
          ∧ leAt [255, 255, 0, 0, 0, 0, 0, 0] 2 1 = 0)
       ∧ (after (exec (.imageServe 7) s) fun t => committed s t (request 0x52 [255, 255, 0, 0, 0, 0, 0, 0]) 0 []
          && t.ctl.serveLinks == 0) = true)
    ∧ (let s : State := setCtl (asked (request 0x53 [64, 0, 0, 0, 0, 0, 0, 0])) (fun c => { c with fwSecurity := 64 })
     (ReadyHead s 7 0x53 (request 0x53 [64, 0, 0, 0, 0, 0, 0, 0]) ∧ 64 ≤ s.ctl.fwSecurity ∧ s.ctl.rollback ≤ 64
          ∧ runsOp s [0x50, 0x51, 0x53] = false)
       ∧ (after (exec (.rollbackCommit 7 none) s) fun t => t.ctl.rollback == 64
          && committed s t (request 0x53 [64, 0, 0, 0, 0, 0, 0, 0]) 0 (64 :: List.replicate 7 0)) = true)
    ∧ (let s : State := asked (request 0x54 [3, 0, 1, 0, 0, 0, 0, 0])
     (ReadyHead s 7 0x54 (request 0x54 [3, 0, 1, 0, 0, 0, 0, 0]) ∧ leAt [3, 0, 1, 0, 0, 0, 0, 0] 0 1 = 3
          ∧ leAt [3, 0, 1, 0, 0, 0, 0, 0] 2 2 = s.aon.bootId)
       ∧ (after (exec (.boot 7) s) fun t => committed s t (request 0x54 [3, 0, 1, 0, 0, 0, 0, 0]) 0 (1 :: List.replicate 7 0) && t.ctl.bootDue == some (bootFromOf 3)) = true)
    ∧ (let s : State := asked (request 0x54 [0, 0, 9, 0, 0, 0, 0, 0])
     (ReadyHead s 7 0x54 (request 0x54 [0, 0, 9, 0, 0, 0, 0, 0]) ∧ leAt [0, 0, 9, 0, 0, 0, 0, 0] 2 2 ≠ s.aon.bootId)
       ∧ (after (exec (.boot 7) s) fun t => committed s t (request 0x54 [0, 0, 9, 0, 0, 0, 0, 0]) 0 (List.replicate 8 0) && t.ctl.bootDue == s.ctl.bootDue) = true) := by
  refine ⟨?_, ?_, ?_, ?_, ?_, ?_, ?_, ?_, ?_, ?_, ?_, ?_⟩ <;> decide +kernel

theorem test_meets_PowerComplete :
    (let s : State := setPwr State.reset (fun p => { p with queue := [⟨3, 393, true, 14, .wakes⟩], credit := 160000 })
     (nextGrant s = some ⟨3, 393, true, 14, .wakes⟩ ∧ ((min 10 14 : Nat) : Int) * 16000 ≤ creditNow s)
       ∧ (after (exec .governorGrant s) fun t => t.pwr.est == 710 && rd t Obj.PWR_STATUS.SEGMENTS == 1) = true)
    ∧ (let s : State := setPwr State.reset (fun p => { p with queue := [⟨3, 393, false, 14, .falls 0⟩], credit := 160000 })
     (nextGrant s = some ⟨3, 393, false, 14, .falls 0⟩ ∧ ((min 10 14 : Nat) : Int) * 16000 ≤ creditNow s)
       ∧ (after (exec .governorGrant s) fun t => t.pwr.est == s.pwr.est - 10) = true)
    ∧ (let s : State := setPwr State.reset (fun p => { p with queue := [⟨3, 393, true, 14, .wakes⟩], credit := 159999 })
     (nextGrant s = some ⟨3, 393, true, 14, .wakes⟩ ∧ creditNow s < ((min 10 14 : Nat) : Int) * 16000)
       ∧ (after (exec .governorGrant s) fun t => t == s) = true)
    ∧ (let s : State := State.reset
     (nextGrant s = none)
       ∧ (after (exec .governorGrant s) fun t => t == s) = true)
    ∧ (let s : State := domIs 393 1 State.reset
     (domState s 393 = 1 ∧ (∀ p ∈ s.pwr.queue, p.dom ≠ 393) ∧ s.pwr.fromRetain.contains 393 = false
          ∧ s.aon.phase ≠ .resuming)
       ∧ (after (exec (.domainPowerGood 393) s) fun t => domState t 393 == 2) = true)
    ∧ (let s : State := askedToSleep ⟨393, 0, 3, true, false⟩ (domIs 393 3 State.reset)
     (sleepOf s 393 = some ⟨393, 0, 3, true, false⟩ ∧ domState s 393 = 3 ∧ inputWaits s 393 = false
          ∧ mustKeep s 393 = false))
    ∧ (let s : State := { askedToSleep ⟨93, 0, 3, false, false⟩ (domIs 93 3 State.reset) with trg := { State.reset.trg with queue := [aRecord] } }
     (sleepOf s 93 = some ⟨93, 0, 3, false, false⟩ ∧ inputWaits s 93 = true)
       ∧ (after (exec (.sleepAck 93) s) (fun t => t == s)) = true)
    ∧ (let s : State := setEvt (askedToSleep ⟨93, 0, 3, false, false⟩ (domIs 93 3 State.reset)) (fun e => { e with frags := [{ aFragment with state := .transfer }] })
     (sleepOf s 93 = some ⟨93, 0, 3, false, false⟩ ∧ (3 : Nat) ≠ 2 ∧ mustKeep s 93 = true)
       ∧ (after (exec (.sleepAck 93) s) (fun t => t == s)) = true)
    ∧ (let s : State := setMov (domIs 340 2 State.reset) (fun m => { m with gated := 4096 })
     (domOn s 340 = true ∧ domBlock 340 ≠ 0 ∧ bit s.mov.gated (domBlock 340) = true
          ∧ rd s Obj.PWR_DOMAIN.PARKED 340 = 0 ∧ s.pwr.queue = []))
    ∧ (let s : State := having Obj.PWR_DVFS.POINT 0 0 (setBbl State.reset (fun b => { b with tj := 250 }))
     (s.pwr.point = none ∧ ((2 * rd s Obj.PWR_DVFS.THROTTLE_C : Nat) : Int) < s.bbl.tj
          ∧ rd s Obj.PWR_DVFS.POINT < rd s Obj.PWR_DVFS.SLOWEST)
       ∧ (after (exec .dvfsThrottleStep s) fun t => t.pwr.point == some ⟨1, false⟩) = true)
    ∧ (let s : State := having Obj.PWR_DVFS.TARGET 0 1 (having Obj.PWR_DVFS.POINT 0 3 (setBbl State.reset (fun b => { b with tj := -80 })))
     (s.pwr.point = none ∧ s.bbl.tj < 2 * (rd s Obj.PWR_DVFS.THROTTLE_C : Nat) - 10
          ∧ rd s Obj.PWR_DVFS.TARGET < rd s Obj.PWR_DVFS.POINT)
       ∧ (after (exec .dvfsRecoverStep s) fun t => t.pwr.point == some ⟨2, false⟩) = true)
    ∧ (let s : State := having Obj.PWR_DVFS.SLOWEST 0 5 (having Obj.PWR_DVFS.POINT 0 5 (setBbl (inMode .watch) (fun b => { b with tj := 201 })))
     (rd s Obj.PWR_DVFS.POINT = rd s Obj.PWR_DVFS.SLOWEST ∧ 200 < s.bbl.tj ∧ (modeOf s).isData = true
          ∧ phaseOf s = .steady))
    ∧ (let s : State := setPwr State.reset (fun p => { p with point := some ⟨3, true⟩ })
     (s.pwr.point = some ⟨3, true⟩ ∧ pointMv 3 ≤ pointMv 3 + 10)
       ∧ (after (exec (.readVoutPoll (pointMv 3 - 10)) s) (fun t => rd t Obj.PWR_DVFS.POINT == 3)
          && after (exec .voutTimeout s) (fun t => t.pwr.point == none
          && rd t Obj.PWR_DVFS.POINT == rd s Obj.PWR_DVFS.POINT)) = true)
    ∧ (let s : State := having Obj.PWR_FOUND.FOUND 0 (2 ^ 0x40) (having Obj.PWR_REG.ADDR 7 0x40 (having Obj.PWR_REG.RAIL 7 1 State.reset))
     (s.aon.pwrReq = true ∧ bit (rd s Obj.PWR_FOUND.FOUND) (rd s Obj.PWR_REG.ADDR 7) = true
          ∧ rd s Obj.PWR_REG.ADDR 7 ≠ 0 ∧ rd s Obj.PWR_REG.RAIL 7 ≠ 0)
       ∧ (after (exec (.pmbusPoll 7 none) s) (fun t => rd t Obj.PWR_REG_STATUS.ERRORS 7 == 1)
          && after (exec (.pmbusPoll 7 (some (65536 + 5, 1000))) s) (fun t => rd t Obj.PWR_REG_STATUS.STATUS_WORD 7 == 5 && rd t Obj.PWR_REG_STATUS.VOUT_MV 7 == 1000)) = true) := by
  refine ⟨?_, ?_, ?_, ?_, ?_, ?_, ?_, ?_, ?_, ?_, ?_, ?_, ?_, ?_⟩ <;> decide +kernel

theorem test_meets_WakesAndLatchupsComplete :
    (let s : State := setAon (inMode .dormant) (fun a => { a with phase := .waitPme })
     (s.aon.phase = .waitPme)
       ∧ (after (exec .pmeTurnOff s) (fun t => !t.ctl.ronecUp && t.aon.phase != .waitPme)
          && after (exec .pmeWaitTimeout s) (fun t => !t.ctl.ronecUp && t.aon.phase != .waitPme)) = true)
    ∧ (let s : State := having Obj.AON_WAKE_EN.AIN7_EN 0 1 (having Obj.AON_WAKE_EN.HOSTWAKE_EN 0 1 (having Obj.AON_ALARM.ARM 0 1 (having Obj.AON_WAKE_EN.ALARM_EN 0 1 State.reset)))
     (flag s Obj.AON_WAKE_EN.ALARM_EN = true ∧ rd s Obj.AON_WAKE_EN.AIN7_EN ≠ 0 ∧ rd s Obj.AON_ALARM.ARM ≠ 0
          ∧ rd s Obj.AON_ALARM.TARGET ≤ s.time.rc64 ∧ rd s Obj.AON_WAKE_EN.HOSTWAKE_EN ≠ 0
          ∧ true = !flag s Obj.AON_WAKE_EN.HOSTWAKE_EDGE)
       ∧ (after (exec (.ainWake 1) s) (fun t => bit (rd t Obj.AON_LAST_WAKE.SOURCES) 1)
          && after (exec .alarmWake s) (fun t => rd t Obj.AON_ALARM.FIRED == 1 && rd t Obj.AON_ALARM.ARM == 0
          && bit (rd t Obj.AON_LAST_WAKE.SOURCES) 2)
          && after (exec (.hostwakeEdge true) s) (fun t => bit (rd t Obj.AON_LAST_WAKE.SOURCES) 3)) = true)
    ∧ (let s : State := setAon (inMode .dormant) (fun a => { a with phase := .minOff, pwrReq := false })
     (s.aon.phase = .minOff)
       ∧ (after (exec .minOffExpired s) fun t => t.aon.phase == .rails && t.aon.pwrReq) = true)
    ∧ (let s : State := setAon (inMode .dormant) (fun a => { a with phase := .rails })
     (s.aon.phase = .rails)
       ∧ (after (exec (.railsGood true) s) (fun t => t.aon.phase == .resuming)
          && after (exec (.railsGood false) s) (fun t => t.aon.bootId == 2)
          && after (exec .railsGoodTimeout s) (fun t => t.aon.phase == .asleep && !t.aon.pwrReq
          && rd t Obj.AON_LAST_WAKE.RAILS_LATE == 1)) = true)
    ∧ (let s : State := setAon State.reset (fun a => { a with pcieWake := true, pcieLink := 2 })
     (s.aon.pcieWake = true ∧ s.aon.pcieLink = 2)
       ∧ (after (exec .pcieLinkLeavesL2 s) fun t => !t.aon.pcieWake && t.aon.pcieLink == 0
          && t.out == .pin 33 true :: s.out) = true)
    ∧ (let s : State := setPwr (domIs 343 2 State.reset) (fun p => { p with cycles := [(343, 0), (343, 0), (7, 0)] })
     (domOn s 343 = true ∧ 343 < 390
          ∧ ((s.pwr.cycles.filter (fun x => decide (s.time.rc64 < x.2 + 60 * ticksPerSecond))).filter (fun x => x.1 == 343)).length = 2))
    ∧ (let s : State := State.reset
     (domOn s 366 = true ∧ s.ctl.pair = .paired ∧ domOn s 367 = true ∧ domOn s 368 = true))
    ∧ (let s : State := domIs 343 7 State.reset
     (domState s 343 = 7)
       ∧ (after (exec (.latchupRestore 343) s) (fun t => domState t 343 == 1)
          && after (exec .aonOvercurrent s) (fun t => t.aon.overcurrent)
          && after (exec (.pinPulseFiltered 2) s) (fun t => t == raise s 0x1405 0 0 0)) = true)
    ∧ (let s : State := raise (raise (inMode .watch) 0x0401 7 0 0) 0x0401 7 0 0
     (findFault s 0x0401 7 = some ⟨0x0401, 7, true, 2, 1, 0, 0, 0⟩ ∧ ratedCodes.contains 0x0401 = true)
       ∧ (after (exec (.faultCountSummary 0x0401 7) s) fun t => findFault t 0x0401 7 == some ⟨0x0401, 7, true, 2, 0, 0, 0, 0⟩) = true) := by
  refine ⟨?_, ?_, ?_, ?_, ?_, ?_, ?_, ?_, ?_⟩ <;> decide +kernel

theorem test_meets_HousekeepingComplete :
    (let s : State := State.reset
     (s.hk.run = none ∧ s.time.off = false ∧ s.aon.inReset = false ∧ (s.hk.statHalted
          && s.ctl.heartbeat == s.hk.statBeat && ronecServes s) = false ∧ ronecServes s = true)
       ∧ (after (exec .hkStart s) (fun t => rd t Obj.HK_STATUS.RUNNING == 1 && rd t Obj.HK_STATUS.RUNS == 1)
          && after (exec (.hkstartEdge true) s) (fun t => rd t Obj.TIM_CAPTURE.LEVEL 1 == 1
          && rd t Obj.TIM_CAPTURE.RC64 1 == 0)
          && after (exec .statPeriod s) (fun t => t.out == .drive 6 (statHz s) (statWidth s) :: s.out)
          && after (exec .heartbeatStall s) (fun t => t.hk.statHalted && t.out == .pin 34 false :: s.out)) = true)
    ∧ (let s : State := inForce Obj.HK_CTRL.HKSTART_EN 0 1 State.reset
     (s.hk.run = none ∧ lv s Obj.HK_CTRL.HKSTART_EN 0 = 1 ∧ true = decide (lv s Obj.HK_CTRL.HKSTART_EDGE 0 = 0))
       ∧ (after (exec (.hkstartEdge true) s) fun t => rd t Obj.HK_STATUS.RUNNING == 1
          && rd t Obj.HK_STATUS.RUNS == 1) = true)
    ∧ (let s : State := setHk State.reset (fun h => { h with run := some ⟨0, 5, 0, true, false⟩ })
     (s.hk.run = some ⟨0, 5, 0, true, false⟩ ∧ s.hk.startNext = none ∧ s.hk.stopNext = false)
       ∧ (after (exec .hkStart s) (fun t => t.hk.startNext == some 0 && rd t Obj.HK_STATUS.RESTARTS == 1)
          && after (exec .hkStop s) (fun t => t.hk.stopNext)
          && after (exec (.hkConversionDone (-5)) s) (fun t => t.hk.run == some ⟨0, 5, 0, false, false⟩)) = true)
    ∧ (let s : State := setHk (domIs 373 0 State.reset) (fun h => { h with run := some ⟨3, 63, 0, false, false⟩ })
     (s.hk.run = some ⟨3, 63, 0, false, false⟩ ∧ domState s 373 = 0 ∧ s.pwr.queue = []
          ∧ s.pwr.barred.contains 373 = false))
    ∧ (let s : State := domIs (bankDom (mapLogBank 0)) 2 (setHk State.reset (fun h => { h with buffer := [[1]] }))
     (hkBankOn s = true)
       ∧ (after (exec .hkBufferCopy s) fun t => t.hk.buffer == []) = true) := by
  refine ⟨?_, ?_, ?_, ?_, ?_⟩ <;> decide +kernel

theorem test_meets_InjectorsComplete :
    (let s : State := having Obj.CAL_PLAN.STRINGS 7 0x8000 (inForce Obj.CAL_STRING.ENABLE 15 1 (having Obj.CAL_STRING.ENABLE 15 1 (inMode .calibrate)))
     (s.cal.strings.length = 16 ∧ calOn s = true ∧ 15 ∈ startable s (rd s Obj.CAL_PLAN.STRINGS 7))
       ∧ (after (exec (.calPlanStart 7) s) (fun t => rd t Obj.CAL_STATUS.STATE 15 == 1
          && (stringOf t 15).phase == .check)
          && after (exec (.calStringDisable 15) s) (fun t => rd t Obj.CAL_STRING.ENABLE 15 == 0
          && lv t Obj.CAL_STRING.ENABLE 15 == 0 && (stringOf t 15).phase == .idle)) = true)
    ∧ (let s : State := atTick 1600000000 (inForce Obj.CAL_STRING.SLOT_LOG 15 0 (having Obj.CAL_PLAN.STRINGS 7 0x8000 (setString (inMode .calibrate) 15 (fun x => { x with phase := .running }))))
     (bit (rd s Obj.CAL_PLAN.STRINGS 7) 15 = true ∧ (stringOf s 15).phase = .running ∧ stringRuns s 15 = true
          ∧ s.time.rc64 % 2048 = 0 ∧ frameNow s % 2 ^ lv s Obj.CAL_STRING.SLOT_LOG 15 = 0
          ∧ frameNow s % 2 ^ 32 % 781250 = 0 ∧ (stringOf s 15).lastJudged + 1600000000 ≤ s.time.rc64)
       ∧ (after (exec (.calPlanStop 7) s) (fun t => (stringOf t 15).phase == .stopping)
          && after (exec (.calSlotBoundary 15) s) (fun t => rd t Obj.CAL_STATUS.ON_NOW 15 == b2n (steersOn s 15 (frameNow s))) && after (exec (.calDiagnosticPulse 15) s) (fun t => rd t Obj.CAL_STATUS.DIAG_PULSES 15 == 1)) = true)
    ∧ (let s : State := inForce Obj.CAL_STRING.I_SET 15 100 (setString (inMode .calibrate) 15 (fun x => { x with phase := .running, failRun := 1 }))
     ((stringOf s 15).phase ≠ .idle ∧ stringRuns s 15 = true ∧ 9 * commanded s 15 ≤ 10 * 900
          ∧ 10 * 900 ≤ 11 * commanded s 15 ∧ (3 * commanded s 15 < 2 * 1501 ∨ 6000 < 1501))
       ∧ (after (exec (.calRunJudged 15 900 0 0) s) (fun t => rd t Obj.CAL_STATUS.SENSED 15 == 900
          && (stringOf t 15).failRun == 0 && (stringOf t 15).lastJudged == judgedAt s 15)
          && after (exec (.calOvercurrent 15 1501) s) (fun t => rd t Obj.CAL_STATUS.STATE 15 == 4
          && (stringOf t 15).stuck && (stringOf t 15).phase == .idle)) = true)
    ∧ (let s : State := inForce Obj.CAL_STRING.I_SET 15 100 (setString (inMode .calibrate) 15 (fun x => { x with phase := .check, failClass := 1, failRun := 2 }))
     ((stringRuns s 15 = true ∨ (stringOf s 15).phase = .check) ∧ 20 * 40 < commanded s 15
          ∧ (stringOf s 15).failClass = 1 ∧ (stringOf s 15).failRun = 2 ∧ flag s Obj.CAL_STATUS.ON_NOW 14 = false
          ∧ commanded s 15 < 20 * 60)
       ∧ (after (exec (.calRunJudged 15 40 0 0) s) (fun t => rd t Obj.CAL_STATUS.STATE 15 == 2
          && (stringOf t 15).stuck)
          && after (exec (.calRunJudged 15 1000 60 0) s) (fun t => rd t Obj.CAL_STATUS.STATE 15 == 3
          && rd t Obj.CAL_STATUS.STATE 14 == 3)) = true) := by
  refine ⟨?_, ?_, ?_, ?_⟩ <;> decide +kernel

theorem test_meets_FrameSignal :
    (let s : State := inMode .watch
     ((inputOf s 7).conducting = false)
       ∧ (after (exec (.clampTrip 7) s) fun t => t.regs != s.regs && t.bbl == s.bbl) = true) := by
  decide +kernel

theorem test_meets_FrameCorrelation :
    (let s : State := having Obj.SUN_STATUS.PENDING_STATE 0 1 (inMode .beam)
     (pendingState s ≠ 0)
       ∧ (after (exec .sunArm s) fun t => t.regs != s.regs && t.sun == s.sun) = true) := by
  decide +kernel

theorem test_meets_FrameMovement :
    (let s : State := State.reset
     (ringKind s 5 = 0)
       ∧ (after (exec (.ringDoorbell 5 3) s) fun t => t.regs != s.regs && t.ctl == s.ctl) = true) := by
  decide +kernel

theorem test_meets_FrameControl :
    (let s : State := State.reset
     (ronecServes s = true)
       ∧ (after (exec .heartbeat s) fun t => t.ctl != s.ctl && t.regs == s.regs) = true) := by
  decide +kernel

theorem test_meets_QueueUntouched :
    (let s : State := { State.reset with pending := [.getInfo 0] }
     (s.pending = [.getInfo 0])
       ∧ (after (exec .vddAonPowerUp s) fun t => t.pending == s.pending) = true) := by
  decide +kernel

/-- An input at 0 V: short for every termination that is not 0, open for one that is. -/
theorem test_meets_LineDetectorsComplete_line :
    let s : State := having Obj.AFE_STATUS.LINE_STATE 5 0
      (setInput (inMode .watch) 5 (fun x => { x with probe := { x.probe with running := true } }))
    cnvOn s = true ∧ (inputOf s 5).probe.running = true ∧ lineState s 5 = 0 ∧ bit s.afe.sweepMask 5 = false
      ∧ ((classify s 5 ⟨0, 0, 10000, 0, 4⟩).1 = 1 ∨ (classify s 5 ⟨0, 0, 10000, 0, 4⟩).1 = 2) := by
  intro s
  have hs : (inputOf s 5).probe.clamped = false ∧ ¬ (4 < (inputOf s 5).probe.tia)
      ∧ sourceFault s 5 ⟨0, 0, 10000, 0, 4⟩ = false ∧ 0 < lv s Obj.PROBE_LIMITS.SHORT_OHM 5 := by decide +kernel
  refine ⟨by decide +kernel, by decide +kernel, by decide +kernel, by decide +kernel, ?_⟩
  obtain ⟨h1, h2, h3, h4⟩ := hs
  rw [classify, h1, h3]
  simp only [Bool.false_or, decide_eq_true_eq, h2, if_false, Bool.false_eq_true]
  rw [lineClass]
  by_cases hd : (zLine 5 ⟨0, 0, 10000, 0, 4⟩).den = 0
  · simp [hd]
  · have hz : zBelow (zLine 5 ⟨0, 0, 10000, 0, 4⟩) (lv s Obj.PROBE_LIMITS.SHORT_OHM 5) = true := by
      have hre : zSq (zLine 5 ⟨0, 0, 10000, 0, 4⟩) = 0 := by simp [zSq, zLine]
      rw [zBelow, hre, decide_eq_true_eq]
      have : ((lv s Obj.PROBE_LIMITS.SHORT_OHM 5 : Nat) : Int) * 2048 * (zLine 5 ⟨0, 0, 10000, 0, 4⟩).den ≠ 0 := by
        refine mul_ne_zero (mul_ne_zero ?_ (by norm_num)) hd
        omega
      positivity
    simp [hd, hz]

/-- A check bit that reads wrong: the class is CORRECTED whatever the columns of the data bits are. -/
theorem test_meets_FieldStoreComplete_corrected :
    let s : State := domIs 336 2 (having Obj.FST_BANK.INIT 159 3 State.reset)
    domOn s (bankDom 159) = true ∧ halfReady s 159 (halfOfWord (wordNo 159 32767 7)) = true
      ∧ readClass s (wordNo 159 32767 7) 0 = 0 ∧ readClass s (wordNo 159 32767 7) 1 = 1 := by
  intro s
  refine ⟨by decide +kernel, by decide +kernel, by decide +kernel, ?_⟩
  have h : mapGet s.fst.bad (wordNo 159 32767 7) = 0 := by decide +kernel
  have hb : (List.range 8).any (fun j => 2 ^ j == 1 % 256) = true := by decide
  have hp : popCount 8 1 % 2 = 1 := by decide
  rw [readClass, h]
  simp [classOf, hb, hp]

/-- All 8,192 contexts are in use. -/
theorem test_meets_ConcentratorComplete_full :
    let s : State := setConc (inMode .concentrate) (fun c => { c with opened := List.replicate 8192 (aContext .interfering) })
    modeOf s = .concentrate ∧ fetchingOf s ⟨2, 9, 1, 1, []⟩ = none ∧ joinWhich s ⟨2, 9, 1, 1, []⟩ = none
      ∧ closedMatch s ⟨2, 9, 1, 1, []⟩ = none ∧ eventsOpen s = true ∧ 8192 ≤ s.conc.opened.length := by
  intro s
  have ho : s.conc.opened = List.replicate 8192 (aContext .interfering) := rfl
  refine ⟨by decide +kernel, ?_, ?_, by decide +kernel, by decide +kernel, by rw [ho, List.length_replicate]⟩
  · rw [fetchingOf, ho, List.findIdx?_eq_none_iff]
    intro c hc
    rw [List.eq_of_mem_replicate hc]
    decide +kernel
  · rw [joinWhich, List.filter_eq_nil_iff.mpr]
    · rfl
    · intro k _
      rw [ho]
      cases h : (List.replicate 8192 (aContext .interfering))[k]? with
      | none => simp
      | some c =>
        rw [List.eq_of_mem_replicate (List.mem_of_getElem? h)]
        decide +kernel

end Sys2Proof.Tests
end

section
/-! PROOF. What the mode machine shows and keeps when a request arrives during a transition and when a transition ends
(R31): the operations of `Machine/ModeOps.lean`, one fact each, then the statement. -/

namespace Sys2Proof

open Sys2Proof.Machine

/-! ### The marks of domains that a waiting request wants -/

/-- Only `MODE_STATE.PENDING_UP` shows whether a domain waits. -/
theorem rd_showPendingUp (s : State) {g : Field} (h : apart Obj.MODE_STATE.PENDING_UP g = true) :
    rd (showPendingUp s) g = rd s g := rd_wr_apart s _ _ _ h

/-- Of the fields, a domain's change of state writes `FST_BANK.STATE` at most. -/
theorem rd_setDom (s : State) (d v : Nat) {g : Field} (h : apart Obj.FST_BANK.STATE g = true) :
    rd (setDom s d v) g = rd s g := by
  unfold setDom
  dsimp only
  split
  · exact rd_wr_apart _ _ _ _ h
  · rfl

/-- Marking the domains that wait shows in `PENDING_UP` and `FST_BANK.STATE` only. -/
theorem rd_markWaiting (s : State) {g : Field} (hup : apart Obj.MODE_STATE.PENDING_UP g = true)
    (hbank : apart Obj.FST_BANK.STATE g = true) : rd (markWaiting s) g = rd s g := by
  unfold markWaiting
  cases s.modes.waiting with
  | none => rfl
  | some r => exact (rd_showPendingUp _ hup).trans (foldl_rd _ _ _ _ fun t d => rd_setDom t d 6 hbank)

theorem rd_unmarkWaiting (s : State) {g : Field} (hup : apart Obj.MODE_STATE.PENDING_UP g = true)
    (hbank : apart Obj.FST_BANK.STATE g = true) : rd (unmarkWaiting s) g = rd s g := by
  refine (rd_showPendingUp _ hup).trans (foldl_rd _ _ _ _ fun t d => ?_)
  split
  · exact rd_setDom t d 3 hbank
  · rfl

@[simp] theorem markWaiting_modes (s : State) : (markWaiting s).modes = s.modes :=
  (touches_markWaiting (.refl [.pwr, .obj 0x0A04, .obj 0x1011] s) (by decide)).1 .modes (by decide)

@[simp] theorem markWaiting_notes (s : State) : (markWaiting s).notes = s.notes :=
  (touches_markWaiting (.refl [.pwr, .obj 0x0A04, .obj 0x1011] s) (by decide)).1 .notes (by decide)

@[simp] theorem unmarkWaiting_modes (s : State) : (unmarkWaiting s).modes = s.modes :=
  (touches_unmarkWaiting (.refl [.pwr, .obj 0x0A04, .obj 0x1011] s) (by decide)).1 .modes (by decide)

@[simp] theorem unmarkWaiting_notes (s : State) : (unmarkWaiting s).notes = s.notes :=
  (touches_unmarkWaiting (.refl [.pwr, .obj 0x0A04, .obj 0x1011] s) (by decide)).1 .notes (by decide)

/-! ### A request during a transition -/

/-- The request that waits, where there is one, completes with SUPERSEDED: its notice goes out and its marks go. -/
def supersedeWaiting (s : State) : State :=
  match s.modes.waiting with
  | some w => unmarkWaiting (modeNotice s w (modeOf s) w.target 2 0x0012 0)
  | none => s

theorem requestMode_of_running {s : State} (r : ModeReq) (h : phaseOf s ≠ .steady) :
    requestMode s r = markWaiting (setModes (wr (supersedeWaiting s) Obj.MODE_STATE.PENDING 0 r.target.code)
      (fun m => { m with waiting := some r })) := by
  unfold requestMode
  rw [if_neg h]
  rfl

theorem supersedeWaiting_modes (s : State) : (supersedeWaiting s).modes = s.modes := by
  unfold supersedeWaiting
  split
  · exact unmarkWaiting_modes _
  · rfl

theorem rd_supersedeWaiting (s : State) {g : Field} (hup : apart Obj.MODE_STATE.PENDING_UP g = true)
    (hbank : apart Obj.FST_BANK.STATE g = true) : rd (supersedeWaiting s) g = rd s g := by
  unfold supersedeWaiting
  split
  · exact rd_unmarkWaiting _ hup hbank
  · rfl

theorem supersedeWaiting_of_none {s : State} (h : s.modes.waiting = none) : supersedeWaiting s = s := by
  simp [supersedeWaiting, h]

/-- Where queue 15 has room, the notice of the superseded request joins it, with REASON 2 and STATUS SUPERSEDED. -/
theorem supersedeWaiting_queue {s : State} {w : ModeReq} (h : s.modes.waiting = some w)
    (hroom : s.notes.queue.length < 64) :
    (supersedeWaiting s).notes.queue = s.notes.queue
      ++ [⟨s.notes.seq, ts96Now s, .mode (modeOf s).code w.target.code 2 0x0012 w.seq w.mailbox 0⟩] := by
  simp [supersedeWaiting, h, modeNotice, notice, noticeAt, noticeQueueSlots, hroom, ts96Now]

theorem requestMode_modes_of_running {s : State} (r : ModeReq) (h : phaseOf s ≠ .steady) :
    (requestMode s r).modes = { s.modes with waiting := some r } := by
  simp [requestMode_of_running r h, supersedeWaiting_modes]

theorem requestMode_notes_of_running {s : State} (r : ModeReq) (h : phaseOf s ≠ .steady) :
    (requestMode s r).notes = (supersedeWaiting s).notes := by
  simp [requestMode_of_running r h]

theorem requestMode_pending_of_running {s : State} (r : ModeReq) (h : phaseOf s ≠ .steady) :
    rd (requestMode s r) Obj.MODE_STATE.PENDING = r.target.code := by
  rw [requestMode_of_running r h, rd_markWaiting _ (by decide) (by decide), rd_setModes, rd_wr_same]
  exact code_mod16 r.target

/-- A request during a transition shows in `MODE_STATE` only as `PENDING`, and by its marks. -/
theorem rd_requestMode_of_running {s : State} (r : ModeReq) (h : phaseOf s ≠ .steady) {g : Field}
    (hpend : apart Obj.MODE_STATE.PENDING g = true) (hup : apart Obj.MODE_STATE.PENDING_UP g = true)
    (hbank : apart Obj.FST_BANK.STATE g = true) : rd (requestMode s r) g = rd s g := by
  rw [requestMode_of_running r h, rd_markWaiting _ hup hbank, rd_setModes, rd_wr_apart _ _ _ _ hpend,
    rd_supersedeWaiting _ hup hbank]

/-! ### The end of a transition -/

/-- A request that reaches CHECK shows in PHASE and TARGET only. -/
theorem rd_beginCheck (s : State) (r : ModeReq) (g : Field) :
    rd (beginCheck s r) g = rd (wr (setPhase s .check) Obj.MODE_STATE.TARGET 0 r.target.code) g := by
  unfold beginCheck
  dsimp only
  split <;> rfl

theorem beginCheck_modes (s : State) (r : ModeReq) :
    (beginCheck s r).modes = { s.modes with
      running := some r, startedAt := s.time.rc64, reason := r.cause, status := 0, calConverged := false,
      drainOver := false, abortStep := 0 } := by
  unfold beginCheck
  dsimp only
  split <;> rfl

theorem beginCheck_phase (s : State) (r : ModeReq) : phaseOf (beginCheck s r) = .check := by
  refine (phaseOf_congr ?_).trans (phase_setPhase s .check)
  rw [rd_beginCheck, rd_wr_apart _ _ _ _ (by decide)]

theorem beginCheck_target (s : State) (r : ModeReq) : modeTarget (beginCheck s r) = r.target := by
  have htarget : rd (beginCheck s r) Obj.MODE_STATE.TARGET = r.target.code := by
    rw [rd_beginCheck, rd_wr_same]
    exact code_mod16 r.target
  rw [modeTarget, htarget, ofCode_code]

/-- The end of a transition, once its notice and its results are out, hands over to the request that waits. -/
theorem finishTransition_hands_over (s : State) (aim : Mode) :
    ∃ t, finishTransition s aim = nextRequest t ∧ t.modes = s.modes := ⟨_, rfl, rfl⟩

/-- A waiting request reaches CHECK, and none waits any more. -/
theorem nextRequest_of_waiting {s : State} {w : ModeReq} (h : s.modes.waiting = some w) :
    ∃ t, nextRequest s = beginCheck t w ∧ t.modes.waiting = none := by
  simp only [nextRequest, h]
  exact ⟨_, rfl, rfl⟩

theorem finishTransition_of_waiting {s : State} {w : ModeReq} (aim : Mode) (h : s.modes.waiting = some w) :
    ∃ t, finishTransition s aim = beginCheck t w ∧ t.modes.waiting = none := by
  obtain ⟨t, ht, hm⟩ := finishTransition_hands_over s aim
  obtain ⟨u, hu, hnone⟩ := nextRequest_of_waiting (s := t) (hm ▸ h)
  exact ⟨u, ht.trans hu, hnone⟩

/-! ### The statement -/

/-- Settles O11: a request during a transition is stored behind it, after the one that waited is superseded, and the end
of the transition begins the CHECK of the one that waits. -/
theorem oneRequestWaits : Obligations.OneRequestWaits := by
  intro s r hphase
  have hmodes := requestMode_modes_of_running r hphase
  have hnotes := requestMode_notes_of_running r hphase
  refine ⟨⟨by rw [hmodes], requestMode_pending_of_running r hphase, by rw [hmodes], ?_, ?_⟩, ?_, ?_, ?_⟩
  · exact phaseOf_congr (rd_requestMode_of_running r hphase (by decide) (by decide) (by decide))
  · exact modeTarget_congr (rd_requestMode_of_running r hphase (by decide) (by decide) (by decide))
  · intro hnone
    rw [hnotes, supersedeWaiting_of_none hnone]
  · intro w hw hroom
    rw [hnotes, supersedeWaiting_queue hw hroom]
  · intro w dst hw
    obtain ⟨t, ht, hnone⟩ := finishTransition_of_waiting dst hw
    rw [ht]
    exact ⟨beginCheck_phase t w, by rw [beginCheck_modes], by rw [beginCheck_modes, hnone], beginCheck_target t w⟩

end Sys2Proof
end

section
/-! PROOF. The reduction of a sample and the power of a beam (R117 to R119): the functions of `Machine/Trigger.lean`, one
fact each, then the statements. -/

namespace Sys2Proof

open Sys2Proof.Machine

/-! ### The reduced sample (R117) -/

/-- SETTLE or LINE takes a sample out of every beam. -/
theorem reduced_of_flagged {x : InputWord} {j : Nat} (h : x.line = true ∨ bit x.settle j = true) :
    reduced x j = 0 :=
  if_pos (Bool.or_eq_true _ _ ▸ h)

theorem reduced_of_clear {x : InputWord} {j : Nat} (hline : x.line = false) (hsettle : bit x.settle j = false) :
    reduced x j = 2 * (nth x.samples j 0 / 8) + 1 := by
  simp [reduced, hline, hsettle]

/-- The mirror image of `a` about −1/2 is `-1 - a`: the floor of the one eighth mirrors in the same way. -/
theorem mirrored_div_eight (a : Int) : (-1 - a) / 8 = -1 - a / 8 := by omega

/-- Settles O24: SETTLE and LINE decide the branch; in the other one the eighth of an 8-bit sample lies from −16 to 15. -/
theorem reducedSample : Obligations.ReducedSample := by
  intro x j hlow hhigh
  refine ⟨reduced_of_flagged, fun hline hsettle => ?_⟩
  have hval := reduced_of_clear hline hsettle
  refine ⟨hval, by omega, by omega, fun y hy hyline hysettle => ?_⟩
  calc reduced y j = 2 * ((-1 - nth x.samples j 0) / 8) + 1 := by rw [reduced_of_clear hyline hysettle, hy]
    _ = 2 * (-1 - nth x.samples j 0 / 8) + 1 := by rw [mirrored_div_eight]
    _ = -reduced x j := by rw [hval]; ring

/-! ### The window (R119) -/

/-- The four codes of `WIN` and the windows that they name. -/
theorem beamW_cases {s : State} {g : Nat} (h : lv s Obj.TRG_GROUP.WIN g < 4) :
    beamW s g = 4 ∨ beamW s g = 8 ∨ beamW s g = 16 ∨ beamW s g = 32 := by
  unfold beamW
  interval_cases lv s Obj.TRG_GROUP.WIN g <;> decide

theorem beamW_le {s : State} {g : Nat} (h : lv s Obj.TRG_GROUP.WIN g < 4) : beamW s g ≤ 32 := by
  have := beamW_cases h
  omega

/-! ### The beam sum (R118) and the beam power (R119) -/

/-- Sixteen inputs, each within `c`: a beam sum lies within 16 × c, whatever its delays. -/
theorem natAbs_beamSum_le {s : State} {c : Nat} (h : ∀ i m, (reducedAt s i m).natAbs ≤ c) (g b n : Nat) :
    (beamSum s g b n).natAbs ≤ 16 * c := by
  unfold beamSum
  rw [← List.sum_toFinset _ List.nodup_range, List.toFinset_range]
  refine (Int.natAbs_sum_le _ _).trans ((Finset.sum_le_card_nsmul _ _ c fun j _ => ?_).trans (by simp))
  dsimp only
  split
  · exact Nat.zero_le c
  · exact h _ _

/-- The beam power as a sum over the look back `k` from the reference sample. -/
theorem beamPower_eq_sum_range (s : State) (g b n : Nat) :
    beamPower s g b n = ∑ k ∈ Finset.range (beamW s g), (beamSum s g b (n - k)).natAbs ^ 2 := by
  rw [← List.toFinset_range, List.sum_toFinset _ List.nodup_range]
  rfl

/-- The look back from `n` runs through the samples of the window, each once. -/
theorem beamPower_eq_sum_window {s : State} {g n : Nat} (b : Nat) (h : beamW s g ≤ n + 1) :
    (beamPower s g b n : Int) = ∑ m ∈ Finset.Icc (n + 1 - beamW s g) n, beamSum s g b m ^ 2 := by
  have hreflect := Finset.sum_Ico_reflect (fun m => beamSum s g b m ^ 2) 0 h
  rw [Nat.sub_zero, Finset.Ico_add_one_right_eq_Icc, Nat.Ico_zero_eq_range] at hreflect
  rw [beamPower_eq_sum_range, ← hreflect]
  push_cast
  simp only [sq_abs]

/-- `W` squares, each of a beam sum within `c`. -/
theorem beamPower_le {s : State} {g b c : Nat} (h : ∀ m, (beamSum s g b m).natAbs ≤ c) (n : Nat) :
    beamPower s g b n ≤ beamW s g * c ^ 2 := by
  rw [beamPower_eq_sum_range]
  refine (Finset.sum_le_card_nsmul _ _ (c ^ 2) fun k _ => Nat.pow_le_pow_left (h (n - k)) 2).trans ?_
  simp

/-- Settles O25: the sum over the look back is the sum over the window, and 32 squares of at most 496 = 16 × 31 add up to
at most 7,872,512. -/
theorem beamPowerIsExact : Obligations.BeamPowerIsExact := by
  intro s g b n hwin hfull
  refine ⟨beamW_cases hwin, beamPower_eq_sum_window b hfull, fun hred => ?_⟩
  calc beamPower s g b n ≤ beamW s g * (16 * 31) ^ 2 := beamPower_le (natAbs_beamSum_le hred g b) n
    _ ≤ 32 * (16 * 31) ^ 2 := Nat.mul_le_mul_right _ (beamW_le hwin)
    _ = 7872512 := by norm_num

end Sys2Proof
end

section
/-! PROOF. Which bus address a matrix address of the host window reaches, and which addresses dumps, descriptors and
ring bases hold (R274): the operations of `Machine/Mov.lean` and `Machine/MovOps.lean`, one fact each, then the
statement. -/

namespace Sys2Proof

open Sys2Proof.Machine

/-! ### The target of an address -/

/-- Of the state, only `MOV_HOSTWIN.BASE` decides a bus address. -/
theorem busAddress_congr {s t : State} (h : rd t Obj.MOV_HOSTWIN.BASE = rd s Obj.MOV_HOSTWIN.BASE) (a : Nat) :
    busAddress t a = busAddress s a := by
  unfold busAddress
  rw [h]

/-- Of the state, only `MOV_HOSTWIN.BASE` decides a target. -/
theorem targetOf_congr {s t : State} (h : rd t Obj.MOV_HOSTWIN.BASE = rd s Obj.MOV_HOSTWIN.BASE) (a : Nat) :
    targetOf t a = targetOf s a := by
  unfold targetOf
  rw [busAddress_congr h]

theorem targetOf_hostWindow (s : State) {a : Nat} (hlow : 0x1000000000 ≤ a) (hhigh : a < 0x10000000000) :
    targetOf s a = if busAddress s a < 2 ^ 64 then .host else .none := by
  unfold targetOf
  iterate 6 rw [if_neg (by omega)]
  simp only [hlow, hhigh, true_and]

/-! ### Transactions in the host window -/

/-- Nothing stops an access of the control pair or of the DMA engine to the host. -/
theorem accessError_of_host {s : State} {a : MatrixAccess} (ht : targetOf s a.addr = .host)
    (hm : a.master = 0 ∨ a.master = 8) : accessError s a = none := by
  have hreach : reaches a.master .host a.write = true := by simpa [reaches] using hm
  simp [accessError, ht, hreach]

theorem accessError_of_noTarget {s : State} {a : MatrixAccess} (ht : targetOf s a.addr = .none) :
    accessError s a = some (0, 0x0C01) := by
  simp [accessError, ht]

theorem exec_matrixTransaction (a : MatrixAccess) (s : State) :
    exec (.matrixTransaction a) s = execMatrixTransaction a s := rfl

theorem budget_out (s : State) (a : MatrixAccess) : (budget s a).out = s.out :=
  (touches_budget (.refl [.obj 0x0C08] s) a (by decide)).1 .out (by decide)

/-- The budget shows in `MOV_BUDGET` only. -/
theorem rd_budget (s : State) (a : MatrixAccess) {f : Field} (hlo : f.lo < 4096)
    (hobj : (Part.obj f.obj).within [.obj 0x0C08] = false) : rd (budget s a) f = rd s f :=
  (touches_budget (.refl [.obj 0x0C08] s) a (by decide)).rd f 0 hlo hobj

theorem matrixWrite_of_host {s : State} {a : MatrixAccess} (ht : targetOf s a.addr = .host) :
    matrixWrite s a = emit s (.hostWrite (busAddress s a.addr) a.len (ofLe (a.data.take a.len))) := by
  simp [matrixWrite, ht]

/-- A write of the control pair or of the DMA engine leaves for the bus address of its matrix address. -/
theorem matrixTransaction_write_host {s : State} {a : MatrixAccess} (ht : targetOf s a.addr = .host)
    (hm : a.master = 0 ∨ a.master = 8) (hw : a.write = true) :
    ∃ t, exec (.matrixTransaction a) s = .next t
      ∧ t.out = .hostWrite (busAddress s a.addr) a.len (ofLe (a.data.take a.len)) :: s.out := by
  have hbase := rd_budget s a (f := Obj.MOV_HOSTWIN.BASE) (by decide) (by decide)
  refine ⟨matrixWrite (budget s a) a, ?_, ?_⟩
  · simp [exec_matrixTransaction, execMatrixTransaction, accessError_of_host ht hm, hw]
  · rw [matrixWrite_of_host ((targetOf_congr hbase _).trans ht), emit_out, budget_out, busAddress_congr hbase]

/-- The default target answers an access without a target: the error is recorded, and a read gets all ones. -/
theorem exec_matrixTransaction_of_noTarget {s : State} {a : MatrixAccess} (ht : targetOf s a.addr = .none) :
    let t := movError (budget s a) 0x0C01 a.master 0 a.addr
    exec (.matrixTransaction a) s
      = .next (if a.write then t else emit t (.readData a.master a.len (2 ^ (8 * a.len) - 1) 1)) := by
  simp [exec_matrixTransaction, execMatrixTransaction, accessError_of_noTarget ht]

/-! ### Errors of the matrix (R273) -/

section MovError

variable {s : State} {code : Nat} (hs : severityOf code ≠ 3)

include hs

/-- A fault that is not FATAL shows in the fields of `MOV_LOSSY` only. -/
theorem rd_raise_plain (a b c : Nat) {f : Field} (hlo : f.lo < 4096)
    (hobj : (Part.obj f.obj).within [.flt, .notes, .obj 0x0C06] = false) : rd (raise s code a b c) f = rd s f :=
  (touches_raise_plain (.refl [.flt, .notes, .obj 0x0C06] s) hs _ _ _ (by decide)).rd f 0 hlo hobj

theorem movError_out (master cause addr : Nat) : (movError s code master cause addr).out = s.out :=
  (touches_movError (.refl [.flt, .notes, .obj 0x0C06, .obj 0x0C07] s) hs _ _ _ (by decide)).1 .out (by decide)

/-- After the capture, the count and the fault leave what `MOV_ERR` captured. -/
theorem rd_movError_of_first (hfirst : rd s Obj.MOV_ERR.VALID = 0) (master cause addr : Nat) :
    rd (movError s code master cause addr) Obj.MOV_ERR.VALID = 1
      ∧ rd (movError s code master cause addr) Obj.MOV_ERR.CAUSE = cause % 2 ^ Obj.MOV_ERR.CAUSE.width := by
  have hflag : flag s Obj.MOV_ERR.VALID = false := by simp [flag, hfirst]
  unfold movError bumpSat
  dsimp only
  rw [hflag, if_neg Bool.false_ne_true]
  constructor <;> rw [rd_raise_plain hs _ _ _ (by decide) (by decide), rd_wr_apart _ _ _ _ (by decide)]
  · exact rd_wr_same _ _ _ _
  · rw [rd_wr_apart _ _ _ _ (by decide), rd_wr_apart _ _ _ _ (by decide), rd_wr_same]

end MovError

/-- An access without a target is captured with cause 0 where it is the first, and shows outside as its answer only. -/
theorem matrixTransaction_noTarget {s : State} {a : MatrixAccess} (ht : targetOf s a.addr = .none) :
    ∃ t, exec (.matrixTransaction a) s = .next t
      ∧ (rd s Obj.MOV_ERR.VALID = 0 → rd t Obj.MOV_ERR.VALID = 1 ∧ rd t Obj.MOV_ERR.CAUSE = 0)
      ∧ t.out = if a.write then s.out else .readData a.master a.len (2 ^ (8 * a.len) - 1) 1 :: s.out := by
  have hplain : severityOf 0x0C01 ≠ 3 := by decide
  have hout := (movError_out hplain a.master 0 a.addr).trans (budget_out s a)
  have hcapture := fun hfirst : rd s Obj.MOV_ERR.VALID = 0 => rd_movError_of_first (s := budget s a) hplain
    ((rd_budget s a (by decide) (by decide)).trans hfirst) a.master 0 a.addr
  refine ⟨_, exec_matrixTransaction_of_noTarget ht, ?_⟩
  cases a.write with
  | true => exact ⟨hcapture, hout⟩
  | false => exact ⟨hcapture, congrArg (List.cons _) hout⟩

/-! ### Descriptors and ring bases -/

theorem writePiece_out (s : State) (r at0 : Nat) (d : Descriptor) (piece : Bytes) (starts ends poison : Bool) :
    (writePiece s r d at0 piece starts ends poison).out
      = .hostWrite (d.addr + at0) piece.length (ofLe piece) :: s.out := rfl

theorem out_suffix_emit (s : State) (o : Out) : s.out <:+ (emit s o).out := List.suffix_cons _ _

/-- What has gone outside stays; a newly set notice bit adds its message. -/
theorem out_suffix_ringBit (s : State) (r : Nat) (f : Field) : s.out <:+ (ringBit s r f).out := by
  unfold ringBit
  split
  · exact List.suffix_rfl
  · exact out_suffix_emit (wr s f r 1) _

theorem out_suffix_ite {s t : State} (c : Prop) [Decidable c] (h : s.out <:+ t.out) :
    s.out <:+ (if c then t else s).out := by
  split
  · exact h
  · exact List.suffix_rfl

/-- A completion writes bytes 16 to 31 of the descriptor at HEAD, and messages may follow. -/
theorem out_suffix_complete {s : State} {r : Nat} (used records status : Nat) (h : (ringOf s r).descs ≠ []) :
    ∃ value, .hostWrite (rd s Obj.MOV_RING.BASE r
      + 32 * (rd s Obj.MOV_RING_STATUS.HEAD r % 2 ^ rd s Obj.MOV_RING.SIZE_LOG r) + 16) 16 value :: s.out
        <:+ (complete s r used records status).out := by
  obtain ⟨d, rest, hd⟩ := List.exists_cons_of_ne_nil h
  generalize ht : complete s r used records status = t
  simp -zeta only [complete, hd] at ht
  extract_lets head n value at16 s1 s2 s3 news s4 at ht
  subst ht
  have hpoison : s2.out <:+ s3.out := out_suffix_ite _ (out_suffix_ringBit s2 r _)
  exact ⟨value, hpoison.trans (out_suffix_ite (s := s4) _ (out_suffix_emit s4 _))⟩

/-! ### The places of dumps -/

theorem placeAt_of_host {s : State} {a : Nat} {b : Bytes} (hb : b ≠ []) (ht : targetOf s a = .host) :
    placeAt s a b = emit s (.hostWrite (busAddress s a) b.length (ofLe b)) := by
  simp [placeAt, hb, ht]

theorem out_suffix_placeAt (s : State) (a : Nat) (b : Bytes) : s.out <:+ (placeAt s a b).out := by
  unfold placeAt
  split
  · exact List.suffix_rfl
  · split
    · exact out_suffix_emit _ _
    · rw [movError_out (by decide)]

theorem hostBase_placeAt (s : State) (a : Nat) (b : Bytes) :
    rd (placeAt s a b) Obj.MOV_HOSTWIN.BASE = rd s Obj.MOV_HOSTWIN.BASE :=
  (touches_placeAt (.refl [.flt, .notes, .out, .obj 0x0C06, .obj 0x0C07] s) a b (by decide)).rd _ 0 (by decide)
    (by decide)

section Slices

variable (place : Nat → Nat) (piece : Nat → Bytes)

theorem out_suffix_placeSlices (l : List Nat) (s : State) :
    s.out <:+ (l.foldl (fun t m => placeAt t (place m) (piece m)) s).out := by
  induction l generalizing s with
  | nil => exact List.suffix_rfl
  | cons x l ih => exact (out_suffix_placeAt s _ _).trans (ih _)

/-- Slices placed before leave the window where it is, and those placed after leave what went outside. -/
theorem hostWrite_mem_placeSlices {l : List Nat} {s : State} {m : Nat} (hm : m ∈ l) (hb : piece m ≠ [])
    (ht : targetOf s (place m) = .host) :
    .hostWrite (busAddress s (place m)) (piece m).length (ofLe (piece m))
      ∈ (l.foldl (fun t m => placeAt t (place m) (piece m)) s).out := by
  induction l generalizing s with
  | nil => cases hm
  | cons x l ih =>
    obtain rfl | hm := List.mem_cons.1 hm
    · refine (out_suffix_placeSlices place piece l _).subset ?_
      simp [placeAt_of_host hb ht]
    · have hbase := hostBase_placeAt s (place x) (piece x)
      rw [← busAddress_congr hbase]
      exact ih hm ((targetOf_congr hbase _).trans ht)

end Slices

theorem placePayload_whole {s : State} {d : DumpRecord} (hstride : d.stride = 0) (hb : d.payload ≠ [])
    (ht : targetOf s (d.base + d.place) = .host) :
    (placePayload s d).out
      = .hostWrite (busAddress s (d.base + d.place)) d.payload.length (ofLe d.payload) :: s.out := by
  unfold placePayload
  rw [if_pos hstride, placeAt_of_host hb ht, emit_out]

theorem length_slice {b : Bytes} {m : Nat} (hm : m < b.length / 1024) :
    ((b.drop (1024 * m)).take 1024).length = 1024 := by
  rw [List.length_take, List.length_drop]
  omega

theorem placePayload_slice {s : State} {d : DumpRecord} {m : Nat} (hstride : d.stride ≠ 0)
    (hm : m < d.payload.length / 1024) (ht : targetOf s (d.base + d.place + m * d.stride) = .host) :
    .hostWrite (busAddress s (d.base + d.place + m * d.stride)) 1024
      (ofLe ((d.payload.drop (1024 * m)).take 1024)) ∈ (placePayload s d).out := by
  have hlen := length_slice hm
  have hmem := hostWrite_mem_placeSlices (fun m => d.base + d.place + m * d.stride)
    (fun m => (d.payload.drop (1024 * m)).take 1024) (List.mem_range.2 hm)
    (List.ne_nil_of_length_pos (by rw [hlen]; decide)) ht
  rw [hlen] at hmem
  unfold placePayload
  rwa [if_neg hstride]

/-- A dump for a host image leaves the dump queue and its payload is placed. -/
theorem pullRecord_placed {s : State} {r : Nat} {d : DumpRecord} {rest : List DumpRecord} (hd : s.dah.dumps = d :: rest)
    (hr : d.ring = r) (hdest : d.dest = 1) :
    pullRecord s r 1 = some (⟨.plain, d.header ++ d.trailer, d.poison, 1⟩, placePayload (dumpTaken s) d) := by
  simp [pullRecord, hd, hr, hdest]

/-! ### The statement -/

/-- Settles O39: the target of a window address is the host or none as its bus address has 64 bits or not; descriptors
and ring bases go out as they are, and each piece of a dump goes through the window. -/
theorem hostWindowAddresses : Obligations.HostWindowAddresses := by
  refine ⟨fun a s hlow hhigh => ?_, writePiece_out,
    fun s r used records status hdescs => ?_, fun s r d rest hd hr hdest => ?_⟩
  · have htarget := targetOf_hostWindow s hlow hhigh
    refine ⟨fun hbus hm hw => matrixTransaction_write_host (htarget.trans (if_pos hbus)) hm hw, fun hbus => ?_⟩
    exact matrixTransaction_noTarget (htarget.trans (if_neg (Nat.not_lt.2 hbus)))
  · obtain ⟨value, more, hmore⟩ := out_suffix_complete used records status hdescs
    exact ⟨more, value, hmore.symm⟩
  · exact ⟨_, pullRecord_placed hd hr hdest, placePayload_whole (s := dumpTaken s),
      fun hstride _ hm => placePayload_slice (s := dumpTaken s) hstride hm⟩

end Sys2Proof
end

section
/-! PROOF. The frame of each command: it answers a next state, and at most the named parts differ. -/

namespace Sys2Proof

-- one proof at a time, which bounds the memory of the compile
set_option Elab.async false

open Sys2Proof.Machine

/-- The command answers a next state, and from `s` to it at most the named parts differ. -/
def Frames (ps : List Part) (s : State) (o : Host.Outcome State Fault Refusal) : Prop :=
  ∃ t, o = .next t ∧ Touches ps s t

theorem Frames.next {ps : List Part} {s t : State} (h : Touches ps s t) : Frames ps s (.next t) := ⟨t, rfl, h⟩

/-- A command of a mailbox touches the mailboxes, and what its body touches. -/
theorem frames_runCommand {ps : List Part} {s : State} {m op : Nat} {body : Request → State}
    (hp : Part.ctl.within ps = true) (h : ∀ r, Touches ps s (body r)) : Frames ps s (runCommand s m op body) := by
  unfold runCommand
  split
  · exact .next (.refl _ _)
  · split
    · exact .next (.refl _ _)
    · split
      · exact .next (touches_commit (.refl _ _) _ _ _ (by simpa using hp))
      · exact .next (h _)

theorem frames_modePlanWrite (plan) (mailbox) (seq) (s : State) : Frames [.aon, .modes, .notes, .pwr, .obj 0x0A04,
    .obj 0x1010, .obj 0x1011] s (exec (.modePlanWrite plan mailbox seq) s) := by
  show Frames _ s (execModePlanWrite plan mailbox seq s)
  unfold execModePlanWrite
  repeat' first
    | with_reducible first
      | assumption | exact .refl _ _ | apply touches_modePlanWrite | refine .next ?_
    | split | dsimp +zetaDelta only | decide

theorem frames_transitionCheck (s : State) : Frames [.aon, .axl, .cal, .conc, .dah, .flt, .free, .live, .modes,
    .mov, .notes, .out, .peer, .pwr, .trg, .obj 0x0802, .obj 0x0808, .obj 0x0A04, .obj 0x0C06, .obj 0x0D05,
    .obj 0x1011, .obj 0x1106, .obj 0x1304, .obj 0x1402, .obj 0x1403] s (exec .transitionCheck s) := by
  show Frames _ s (execTransitionCheck s)
  unfold execTransitionCheck
  repeat' first
    | with_reducible first
      | assumption | exact .refl _ _ | apply touches_setModes | apply touches_beginStops
      | apply touches_entryAborted | apply touches_nextRequest | apply touches_modeNotice
      | apply touches_refuseTransition | apply touches_testDrawn | apply touches_beginDrain | refine .next ?_
    | split | dsimp +zetaDelta only | decide

theorem frames_drainComplete (s : State) : Frames [.axl, .bbl, .cmp, .ctl, .dah, .evt, .flt, .free, .hk, .modes,
    .notes, .pwr, .sun, .obj 0x0A04, .obj 0x0C06, .obj 0x0D04, .obj 0x0D05, .obj 0x0F04, .obj 0x1011] s (exec
    .drainComplete s) := by
  show Frames _ s (execDrainComplete s)
  unfold execDrainComplete
  repeat' first
    | with_reducible first
      | assumption | exact .refl _ _ | apply touches_setPhase | apply touches_beginDown | apply touches_setModes
      | refine .next ?_
    | split | fail_if_no_progress extract_lets | dsimp +zetaDelta only | decide

theorem frames_downComplete (s : State) : Frames [.afe, .cnv, .live, .modes, .pwr, .obj 0x0A04, .obj 0x1011] s (exec
    .downComplete s) := by
  show Frames _ s (execDownComplete s)
  unfold execDownComplete
  repeat' first
    | with_reducible first
      | assumption | exact .refl _ _ | apply touches_setPhase | apply touches_beginUp | apply touches_setModes
      | refine .next ?_
    | split | fail_if_no_progress extract_lets | dsimp +zetaDelta only | decide

theorem frames_upComplete (s : State) : Frames [.afe, .aon, .axl, .bbl, .chz, .cnv, .ctl, .dah, .evt, .flt, .live,
    .modes, .notes, .out, .pwr, .sun, .time, .trg, .obj 0x0103, .obj 0x0205, .obj 0x0406, .obj 0x0509, .obj 0x0706,
    .obj 0x0907, .obj 0x0A01, .obj 0x0A04, .obj 0x0C06, .obj 0x0D04, .obj 0x0D05, .obj 0x0D06, .obj 0x1011] s (exec
    .upComplete s) := by
  show Frames _ s (execUpComplete s)
  unfold execUpComplete
  repeat' first
    | with_reducible first
      | assumption | exact .refl _ _ | apply touches_setBbl | apply touches_setPhase | apply touches_upEffects
      | apply touches_finishTransition | apply touches_enterMode | refine .next ?_
    | split | fail_if_no_progress extract_lets | dsimp +zetaDelta only | decide

theorem frames_transitionStartDone (s : State) : Frames [.afe, .aon, .axl, .bbl, .chz, .cnv, .ctl, .dah, .flt,
    .live, .modes, .notes, .out, .peer, .pwr, .sun, .time, .trg, .obj 0x0103, .obj 0x0205, .obj 0x0406, .obj 0x0509,
    .obj 0x0802, .obj 0x0907, .obj 0x0A04, .obj 0x0C06, .obj 0x0D05, .obj 0x0D06, .obj 0x1011] s (exec
    .transitionStartDone s) := by
  show Frames _ s (execTransitionStartDone s)
  unfold execTransitionStartDone
  repeat' first
    | with_reducible first
      | assumption | exact .refl _ _ | apply touches_enterMode | apply touches_setModes
      | apply touches_finishTransition | apply touches_peerLocalEnd | apply touches_enterRecovery
      | apply touches_dormantEntered | refine .next ?_
    | split | fail_if_no_progress extract_lets | dsimp +zetaDelta only | decide

theorem frames_peerSyncTimeout (s : State) : Frames [.modes, .obj 0x0802, .obj 0x1011] s (exec .peerSyncTimeout s)
    := by
  show Frames _ s (execPeerSyncTimeout s)
  unfold execPeerSyncTimeout
  repeat' first
    | with_reducible first
      | assumption | exact .refl _ _ | apply touches_forceIdle | apply touches_setPeerStage | refine .next ?_
    | split | dsimp +zetaDelta only | decide

theorem frames_powerGoodTimeout (d) (s : State) : Frames [.flt, .modes, .notes, .pwr, .obj 0x0A04, .obj 0x0C06,
    .obj 0x1011] s (exec (.powerGoodTimeout d) s) := by
  show Frames _ s (execPowerGoodTimeout d s)
  unfold execPowerGoodTimeout
  repeat' first
    | with_reducible first
      | assumption | exact .refl _ _ | apply touches_failTransition | apply touches_setPwr | apply touches_setDom
      | refine .next ?_
    | split | dsimp +zetaDelta only | decide

theorem frames_pllLockTimeout (s : State) : Frames [.flt, .modes, .notes, .obj 0x0C06, .obj 0x1011] s (exec
    .pllLockTimeout s) := by
  show Frames _ s (execPllLockTimeout s)
  unfold execPllLockTimeout
  repeat' first
    | with_reducible first
      | assumption | exact .refl _ _ | apply touches_failTransition | refine .next ?_
    | split | dsimp +zetaDelta only | decide

theorem frames_converterCalTimeout (g) (s : State) : Frames [.flt, .modes, .notes, .obj 0x0C06, .obj 0x1011] s (exec
    (.converterCalTimeout g) s) := by
  show Frames _ s (execConverterCalTimeout g s)
  unfold execConverterCalTimeout
  repeat' first
    | with_reducible first
      | assumption | exact .refl _ _ | apply touches_failTransition | refine .next ?_
    | split | dsimp +zetaDelta only | decide

theorem frames_converterCalConverged (s : State) : Frames [.cnv, .free, .modes, .obj 0x0303] s (exec
    .converterCalConverged s) := by
  show Frames _ s (execConverterCalConverged s)
  unfold execConverterCalConverged
  repeat' first
    | with_reducible first
      | assumption | exact .refl _ _ | apply touches_calibrationFound | apply touches_setModes | refine .next ?_
    | split | dsimp +zetaDelta only | decide

theorem frames_railsGoodTimeout (s : State) : Frames [.aon, .flt, .notes, .out, .obj 0x0C06, .obj 0x1403] s (exec
    .railsGoodTimeout s) := by
  show Frames _ s (execRailsGoodTimeout s)
  unfold execRailsGoodTimeout
  repeat' first
    | with_reducible first
      | assumption | exact .refl _ _ | apply touches_setAon | apply touches_wr
      | refine touches_raise_plain ?_ (by decide) _ _ _ ?_ | apply touches_raise | apply touches_emit
      | refine .next ?_
    | split | fail_if_no_progress extract_lets | dsimp +zetaDelta only | decide

theorem frames_clampTrip (idx) (s : State) : Frames [.afe, .flt, .notes, .obj 0x0103, .obj 0x0C06] s (exec
    (.clampTrip idx) s) := by
  show Frames _ s (execClampTrip idx s)
  unfold execClampTrip
  repeat' first
    | with_reducible first
      | assumption | exact .refl _ _ | apply touches_setInput | apply touches_wr
      | refine touches_raise_plain ?_ (by decide) _ _ _ ?_ | apply touches_raise | apply touches_bumpSat
      | refine .next ?_
    | split | fail_if_no_progress extract_lets | dsimp +zetaDelta only | decide

theorem frames_clampRelease (idx) (s : State) : Frames [.afe, .flt] s (exec (.clampRelease idx) s) := by
  show Frames _ s (execClampRelease idx s)
  unfold execClampRelease
  repeat' first
    | with_reducible first
      | assumption | exact .refl _ _ | apply touches_endFault | apply touches_setInput | refine .next ?_
    | split | dsimp +zetaDelta only | decide

theorem frames_clampLong (idx) (s : State) : Frames [.flt, .notes, .obj 0x0C06] s (exec (.clampLong idx) s) := by
  show Frames _ s (execClampLong idx s)
  unfold execClampLong
  repeat' first
    | with_reducible first
      | assumption | exact .refl _ _ | refine touches_raise_plain ?_ (by decide) _ _ _ ?_ | apply touches_raise
      | refine .next ?_
    | split | dsimp +zetaDelta only | decide

theorem frames_arcEvaluation (idx) (s : State) : Frames [.afe, .free] s (exec (.arcEvaluation idx) s) := by
  show Frames _ s (execArcEvaluation idx s)
  unfold execArcEvaluation
  repeat' first
    | with_reducible first
      | assumption | exact .refl _ _ | apply touches_arcCode | apply touches_setInput | refine .next ?_
    | split | fail_if_no_progress extract_lets | dsimp +zetaDelta only | decide

theorem frames_frameBoundary (s : State) : Frames [.afe, .cal, .cnv, .live, .out, .trg, .obj 0x0103, .obj 0x0106,
    .obj 0x1304] s (exec .frameBoundary s) := by
  show Frames _ s (execFrameBoundary s)
  unfold execFrameBoundary
  repeat' first
    | with_reducible first
      | assumption | exact .refl _ _ | apply touches_receiverFrame | apply touches_latch
      | apply touches_triggerFrame | apply touches_trigoutFrame | apply touches_calFrame
      | refine Touches.foldl _ _ ?_ (fun _ _ _ => ?_) | refine .next ?_
    | split | fail_if_no_progress extract_lets | dsimp +zetaDelta only | decide

theorem frames_rangeForced (idx) (s : State) : Frames [.afe, .flt, .notes, .obj 0x0103, .obj 0x0C06] s (exec
    (.rangeForced idx) s) := by
  show Frames _ s (execRangeForced idx s)
  unfold execRangeForced
  repeat' first
    | with_reducible first
      | assumption | exact .refl _ _ | refine touches_raise_plain ?_ (by decide) _ _ _ ?_ | apply touches_raise
      | apply touches_bumpSat | apply touches_setInput | refine .next ?_
    | split | dsimp +zetaDelta only | decide

theorem frames_probeIntervalEnd (idx) (r) (s : State) : Frames [.afe, .flt, .free, .live, .notes, .obj 0x0103,
    .obj 0x0106, .obj 0x0C06] s (exec (.probeIntervalEnd idx r) s) := by
  show Frames _ s (execProbeIntervalEnd idx r s)
  unfold execProbeIntervalEnd
  repeat' first
    | with_reducible first
      | assumption | exact .refl _ _ | apply touches_probeNext | apply touches_probeLine | apply touches_probeCounts
      | apply touches_storeResult | refine .next ?_
    | split | fail_if_no_progress extract_lets | dsimp +zetaDelta only | decide

theorem frames_rmsWindowEnd (idx) (s : State) : Frames [.afe, .flt, .notes, .obj 0x0103, .obj 0x0C06] s (exec
    (.rmsWindowEnd idx) s) := by
  show Frames _ s (execRmsWindowEnd idx s)
  unfold execRmsWindowEnd
  repeat' first
    | with_reducible first
      | assumption | exact .refl _ _ | apply touches_setInput | apply touches_lineFault
      | apply touches_lineRecovered | refine .next ?_
    | split | fail_if_no_progress extract_lets | dsimp +zetaDelta only | decide

theorem frames_segmentBoundary (s : State) : Frames [.bbl, .live, .pwr, .obj 0x0205, .obj 0x0509, .obj 0x0A04,
    .obj 0x1011] s (exec .segmentBoundary s) := by
  show Frames _ s (execSegmentBoundary s)
  unfold execSegmentBoundary
  repeat' first
    | with_reducible first
      | assumption | exact .refl _ _ | apply touches_segmentEnds | apply touches_windowBoundary
      | apply touches_showBbl | apply touches_writerMoves | apply touches_windowConfig
      | apply touches_returnSegments | refine Touches.foldl _ _ ?_ (fun _ _ _ => ?_) | refine .next ?_
    | split | fail_if_no_progress extract_lets | dsimp +zetaDelta only | decide

theorem frames_freezeStrobe (s : State) :
    Frames [.bbl, .trg, .obj 0x0205, .obj 0x0508, .obj 0x0509] s (exec .freezeStrobe s) := by
  show Frames _ s (execFreezeStrobe s)
  unfold execFreezeStrobe
  split
  · exact .next (.refl _ _)
  · next k rest _ =>
    have h := touches_part_trg (.refl [.bbl, .trg, .obj 0x0205, .obj 0x0508, .obj 0x0509] s)
      { s.trg with strobes := rest } (by decide)
    dsimp only
    split
    · exact .next (touches_showBbl h (by decide))
    · split
      · exact .next (touches_takeWindow h _ _ _ _ (by decide))
      · refine .next (touches_showBbl (.foldl _ _ h fun t j ht => ?_) (by decide))
        split
        · exact touches_bump ht _ _ _ (by decide)
        · exact ht

theorem frames_envelopeCrossing (idx) (half) (s : State) : Frames [.bbl, .evt, .pwr, .trg, .obj 0x0205, .obj 0x0509,
    .obj 0x0A04, .obj 0x1011] s (exec (.envelopeCrossing idx half) s) := by
  show Frames _ s (execEnvelopeCrossing idx half s)
  unfold execEnvelopeCrossing
  repeat' first
    | with_reducible first
      | assumption | exact .refl _ _ | apply touches_fireOneShot | apply touches_vigilCrossing
      | apply touches_addCondition | refine .next ?_
    | split | fail_if_no_progress extract_lets | dsimp +zetaDelta only | decide

theorem frames_windowConversionStart (s : State) : Frames [.bbl, .flt, .notes, .obj 0x0205, .obj 0x0C06] s (exec
    .windowConversionStart s) := by
  show Frames _ s (execWindowConversionStart s)
  unfold execWindowConversionStart
  repeat' first
    | with_reducible first
      | assumption | exact .refl _ _ | apply touches_setWindow | refine touches_raise_plain ?_ (by decide) _ _ _ ?_
      | apply touches_raise | apply touches_bumpSat | refine .next ?_
    | split | fail_if_no_progress extract_lets | dsimp +zetaDelta only | decide

theorem frames_segmentConverted (raw) (s : State) : Frames [.bbl, .mov, .pwr, .obj 0x1106] s (exec
    (.segmentConverted raw) s) := by
  show Frames _ s (execSegmentConverted raw s)
  unfold execSegmentConverted
  repeat' first
    | with_reducible first
      | assumption | exact .refl _ _ | apply touches_setWindow | apply touches_clockStarts | refine .next ?_
    | split | fail_if_no_progress extract_lets | dsimp +zetaDelta only | decide

theorem frames_windowReadoutDone (s : State) : Frames [.bbl, .obj 0x0207] s (exec .windowReadoutDone s) := by
  show Frames _ s (execWindowReadoutDone s)
  unfold execWindowReadoutDone
  repeat' first
    | with_reducible first
      | assumption | exact .refl _ _ | apply touches_showWindow | apply touches_setWindow | refine .next ?_
    | split | dsimp +zetaDelta only | decide

theorem frames_digitizerIdleTimeout (s : State) : Frames [.bbl, .pwr, .obj 0x0A04] s (exec .digitizerIdleTimeout s)
    := by
  show Frames _ s (execDigitizerIdleTimeout s)
  unfold execDigitizerIdleTimeout
  repeat' first
    | with_reducible first
      | assumption | exact .refl _ _ | apply touches_digitizerDown | apply touches_setBbl | refine .next ?_
    | split | dsimp +zetaDelta only | decide

theorem frames_captureWakeSetReady (s : State) : Frames [.bbl, .ctl] s (exec .captureWakeSetReady s) := by
  show Frames _ s (execCaptureWakeSetReady s)
  unfold execCaptureWakeSetReady
  repeat' first
    | with_reducible first
      | assumption | exact .refl _ _ | apply touches_setBbl | apply touches_part_ctl | refine .next ?_
    | split | fail_if_no_progress extract_lets | dsimp +zetaDelta only | decide

theorem frames_captureLingerExpired (s : State) : Frames [.bbl, .ctl, .pwr, .obj 0x0A04] s (exec
    .captureLingerExpired s) := by
  show Frames _ s (execCaptureLingerExpired s)
  unfold execCaptureLingerExpired
  repeat' first
    | with_reducible first
      | assumption | exact .refl _ _ | apply touches_wakeSetDown | apply touches_setBbl | apply touches_pairDown
      | apply touches_part_ctl | refine .next ?_
    | split | fail_if_no_progress extract_lets | dsimp +zetaDelta only | decide

theorem frames_tjSensorRead (tj) (s : State) : Frames [.aon, .bbl, .flt, .modes, .notes, .pwr, .obj 0x0205,
    .obj 0x0A04, .obj 0x0C06, .obj 0x1011] s (exec (.tjSensorRead tj) s) := by
  show Frames _ s (execTjSensorRead tj s)
  unfold execTjSensorRead
  repeat' first
    | with_reducible first
      | assumption | exact .refl _ _ | apply touches_setBbl | apply touches_clearFault | apply touches_tjVigil
      | refine .next ?_
    | split | fail_if_no_progress extract_lets | dsimp +zetaDelta only | decide

theorem frames_calStale (s : State) : Frames [.flt, .notes, .obj 0x0C06] s (exec .calStale s) := by
  show Frames _ s (execCalStale s)
  unfold execCalStale
  repeat' first
    | with_reducible first
      | assumption | exact .refl _ _ | refine touches_raise_plain ?_ (by decide) _ _ _ ?_ | apply touches_raise
      | refine .next ?_
    | split | dsimp +zetaDelta only | decide

theorem frames_converterWord (w) (s : State) : Frames [.afe, .axl, .bbl, .cnv, .ctl, .evt, .flt, .mem, .mov, .notes,
    .out, .peer, .pwr, .trg, .obj 0x0506, .obj 0x0508, .obj 0x0509, .obj 0x0A04, .obj 0x0C06, .obj 0x0D05] s (exec
    (.converterWord w) s) := by
  show Frames _ s (execConverterWord w s)
  unfold execConverterWord
  repeat' first
    | with_reducible first
      | assumption | exact .refl _ _ | apply touches_converterWords | refine .next ?_
    | split | dsimp +zetaDelta only | decide

theorem frames_trigoutWidthEnd (s : State) : Frames [.out, .trg] s (exec .trigoutWidthEnd s) := by
  show Frames _ s (execTrigoutWidthEnd s)
  unfold execTrigoutWidthEnd
  repeat' first
    | with_reducible first
      | assumption | exact .refl _ _ | apply touches_trigoutOff | refine .next ?_
    | split | dsimp +zetaDelta only | decide

theorem frames_triginEdge (level) (stable) (s : State) : Frames [.flt, .notes, .trg, .obj 0x0C06, .obj 0x0E07] s
    (exec (.triginEdge level stable) s) := by
  show Frames _ s (execTriginEdge level stable s)
  unfold execTriginEdge
  repeat' first
    | with_reducible first
      | assumption | exact .refl _ _ | apply touches_setTrg | apply touches_wr | apply touches_bump
      | apply touches_addCondition | refine touches_raise_plain ?_ (by decide) _ _ _ ?_ | apply touches_raise
      | refine .next ?_
    | split | fail_if_no_progress extract_lets | dsimp +zetaDelta only | decide

theorem frames_axrelTriggerMessage (port) (m) (s : State) : Frames [.flt, .notes, .trg, .obj 0x0C06] s (exec
    (.axrelTriggerMessage port m) s) := by
  show Frames _ s (execAxrelTriggerMessage port m s)
  unfold execAxrelTriggerMessage
  repeat' first
    | with_reducible first
      | assumption | exact .refl _ _ | apply touches_addCondition
      | refine touches_raise_plain ?_ (by decide) _ _ _ ?_ | apply touches_raise | refine .next ?_
    | split | fail_if_no_progress extract_lets | dsimp +zetaDelta only | decide

theorem frames_holdoffEnd (s : State) : Frames [.obj 0x0509] s (exec .holdoffEnd s) := by
  show Frames _ s (execHoldoffEnd s)
  unfold execHoldoffEnd
  repeat' first
    | with_reducible first
      | assumption | exact .refl _ _ | apply touches_wr | refine .next ?_
    | split | dsimp +zetaDelta only | decide

theorem frames_triggerRecordRelease (s : State) : Frames [.mov, .pwr, .trg, .obj 0x1106] s (exec
    .triggerRecordRelease s) := by
  show Frames _ s (execTriggerRecordRelease s)
  unfold execTriggerRecordRelease
  repeat' first
    | with_reducible first
      | assumption | exact .refl _ _ | apply touches_clockStarts | apply touches_setTrg | refine .next ?_
    | split | dsimp +zetaDelta only | decide

theorem frames_bucketToken (s : State) : Frames [.trg, .obj 0x0509] s (exec .bucketToken s) := by
  show Frames _ s (execBucketToken s)
  unfold execBucketToken
  repeat' first
    | with_reducible first
      | assumption | exact .refl _ _ | apply touches_wr | apply touches_setTrg | refine .next ?_
    | split | fail_if_no_progress extract_lets | dsimp +zetaDelta only | decide

theorem frames_cnvCalUpdate (estimator) (s : State) : Frames [.cnv] s (exec (.cnvCalUpdate estimator) s) := by
  show Frames _ s (execCnvCalUpdate estimator s)
  unfold execCnvCalUpdate
  repeat' first
    | with_reducible first
      | assumption | exact .refl _ _ | apply touches_setCnv | refine .next ?_
    | split | dsimp +zetaDelta only | decide

theorem frames_cnvCoeffStore (s : State) : Frames [.cnv, .obj 0x0303] s (exec .cnvCoeffStore s) := by
  show Frames _ s (execCnvCoeffStore s)
  unfold execCnvCoeffStore
  repeat' first
    | with_reducible first
      | assumption | exact .refl _ _ | apply touches_storeCoefficients | refine .next ?_
    | split | dsimp +zetaDelta only | decide

theorem frames_spectrumComplete (upsets) (s : State) : Frames [.axl, .chz, .dah, .flt, .fst, .live, .mem, .mov,
    .notes, .out, .peer, .pwr, .sun, .obj 0x0401, .obj 0x0404, .obj 0x0405, .obj 0x0406, .obj 0x0C06, .obj 0x0D05,
    .obj 0x1106] s (exec (.spectrumComplete upsets) s) := by
  show Frames _ s (execSpectrumComplete upsets s)
  unfold execSpectrumComplete
  repeat' first
    | with_reducible first
      | assumption | exact .refl _ _ | apply touches_eqError | apply touches_maskBoundary | apply touches_eqBoundary
      | apply touches_dropOverdue | apply touches_formSpectrum | apply touches_setChz | apply touches_chzBlockCounts
      | apply touches_chzHalt | apply touches_drain8 | apply touches_drain4 | apply touches_peerTake
      | refine Touches.foldl _ _ ?_ (fun _ _ _ => ?_) | refine .next ?_
    | split | fail_if_no_progress extract_lets | dsimp +zetaDelta only | decide

theorem frames_spectrumDeadlineMiss (sunPath) (s : State) : Frames [.axl, .chz, .flt, .fst, .mem, .mov, .notes,
    .out, .peer, .pwr, .sun, .obj 0x0406, .obj 0x0C06, .obj 0x0D05, .obj 0x1106] s (exec (.spectrumDeadlineMiss
    sunPath) s) := by
  show Frames _ s (execSpectrumDeadlineMiss sunPath s)
  unfold execSpectrumDeadlineMiss
  repeat' first
    | with_reducible first
      | assumption | exact .refl _ _ | apply touches_drain8 | apply touches_spectrumMissed | apply touches_drain4
      | refine .next ?_
    | split | dsimp +zetaDelta only | decide

theorem frames_blockBoundary (images) (s : State) : Frames [.cal, .chz, .cnv, .flt, .live, .notes, .out, .pwr, .sun,
    .trg, .obj 0x0301, .obj 0x0302, .obj 0x0406, .obj 0x050A, .obj 0x0907, .obj 0x0A04, .obj 0x0C06, .obj 0x1011,
    .obj 0x1304] s (exec (.blockBoundary images) s) := by
  show Frames _ s (execBlockBoundary images s)
  unfold execBlockBoundary
  repeat' first
    | with_reducible first
      | assumption | exact .refl _ _ | apply touches_converterBoundary | apply touches_triggerBlock
      | apply touches_channelizerBoundary | apply touches_stopStreams | apply touches_calBlock | refine .next ?_
    | split | fail_if_no_progress extract_lets | dsimp +zetaDelta only | decide

theorem frames_fragmentReserve (s : State) : Frames [.bbl, .evt, .flt, .notes, .trg, .obj 0x0604, .obj 0x0C06] s
    (exec .fragmentReserve s) := by
  show Frames _ s (execFragmentReserve s)
  unfold execFragmentReserve
  repeat' first
    | with_reducible first
      | assumption | exact .refl _ _ | apply touches_reserveNext | refine .next ?_
    | split | dsimp +zetaDelta only | decide

theorem frames_segmentToEvent (s : State) : Frames [.bbl, .cmp, .evt, .mov, .pwr, .obj 0x1106] s (exec
    .segmentToEvent s) := by
  show Frames _ s (execSegmentToEvent s)
  unfold execSegmentToEvent
  repeat' first
    | with_reducible first
      | assumption | exact .refl _ _ | apply touches_feedCoder | apply touches_setFrag | apply touches_setBbl
      | apply touches_setEvt | refine .next ?_
    | split | fail_if_no_progress extract_lets | dsimp +zetaDelta only | decide

theorem frames_fragmentBuilt (s : State) :
    Frames [.evt, .flt, .free, .mem, .notes, .obj 0x0604, .obj 0x0C06] s (exec .fragmentBuilt s) := by
  show Frames _ s (execFragmentBuilt s)
  unfold execFragmentBuilt
  split
  · exact .next (.refl _ _)
  · split
    · exact .next (.refl _ _)
    · split
      · exact .next (.refl _ _)
      · extract_lets fb b ship s1 s2 newest s3 s4
        have h1 : Touches [.evt, .flt, .free, .mem, .notes, .obj 0x0604, .obj 0x0C06] s s1 :=
          touches_storeBytes (touches_part_free (.refl _ _) _ (by decide)) _ _ (by decide)
        have h4 : Touches _ s s4 := touches_bump (touches_setEvt (touches_setFrag h1 _ _ (by decide)) _ (by decide))
          Obj.EVT_STATUS.BUILT 0 1 (by decide)
        refine .next (touches_evtLevels ?_ (by decide))
        split
        · exact touches_bump h4 _ _ _ (by decide)
        · exact h4

theorem frames_fragmentSend (serial) (s : State) : Frames [.axl, .evt, .mov, .out, .peer, .pwr, .obj 0x0A04,
    .obj 0x0D05, .obj 0x1011, .obj 0x1106] s (exec (.fragmentSend serial) s) := by
  show Frames _ s (execFragmentSend serial s)
  unfold execFragmentSend
  repeat' first
    | with_reducible first
      | assumption | exact .refl _ _ | apply touches_setFrag | apply touches_ringPut | apply touches_shipMessage
      | apply touches_netDemand | refine .next ?_
    | split | fail_if_no_progress extract_lets | dsimp +zetaDelta only | decide

theorem frames_fragmentAnnounce (serial) (s : State) : Frames [.axl, .evt, .out, .peer, .obj 0x0D05] s (exec
    (.fragmentAnnounce serial) s) := by
  show Frames _ s (execFragmentAnnounce serial s)
  unfold execFragmentAnnounce
  repeat' first
    | with_reducible first
      | assumption | exact .refl _ _ | apply touches_shipMessage | apply touches_setFrag | refine .next ?_
    | split | dsimp +zetaDelta only | decide

theorem frames_fragmentTransferDone (serial) (s : State) : Frames [.evt, .flt, .notes, .obj 0x0604, .obj 0x0C06] s
    (exec (.fragmentTransferDone serial) s) := by
  show Frames _ s (execFragmentTransferDone serial s)
  unfold execFragmentTransferDone
  repeat' first
    | with_reducible first
      | assumption | exact .refl _ _ | apply touches_transferEnds | refine .next ?_
    | split | dsimp +zetaDelta only | decide

theorem frames_fragmentOfferTimer (serial) (s : State) : Frames [.axl, .evt, .flt, .notes, .out, .peer, .obj 0x0C06,
    .obj 0x0D05] s (exec (.fragmentOfferTimer serial) s) := by
  show Frames _ s (execFragmentOfferTimer serial s)
  unfold execFragmentOfferTimer
  repeat' first
    | with_reducible first
      | assumption | exact .refl _ _ | apply touches_setFrag | refine touches_raise_plain ?_ (by decide) _ _ _ ?_
      | apply touches_raise | apply touches_shipMessage | refine .next ?_
    | split | fail_if_no_progress extract_lets | dsimp +zetaDelta only | decide

theorem frames_replyAccept (serial) (s : State) : Frames [.axl, .evt, .flt, .notes, .obj 0x0603, .obj 0x0604,
    .obj 0x0C06] s (exec (.replyAccept serial) s) := by
  show Frames _ s (execReplyAccept serial s)
  unfold execReplyAccept
  repeat' first
    | with_reducible first
      | assumption | exact .refl _ _ | apply touches_replyCame | apply touches_releaseFrag | refine .next ?_
    | split | fail_if_no_progress extract_lets | dsimp +zetaDelta only | decide

theorem frames_replyReject (serial) (s : State) : Frames [.axl, .evt, .flt, .notes, .obj 0x0603, .obj 0x0604,
    .obj 0x0C06] s (exec (.replyReject serial) s) := by
  show Frames _ s (execReplyReject serial s)
  unfold execReplyReject
  repeat' first
    | with_reducible first
      | assumption | exact .refl _ _ | apply touches_replyCame | apply touches_releaseFrag | apply touches_setFrag
      | refine .next ?_
    | split | fail_if_no_progress extract_lets | dsimp +zetaDelta only | decide

theorem frames_replyRequest (serial) (globalId) (s : State) : Frames [.axl, .evt, .flt, .mem, .notes, .out, .peer,
    .obj 0x0604, .obj 0x0C06, .obj 0x0D05] s (exec (.replyRequest serial globalId) s) := by
  show Frames _ s (execReplyRequest serial globalId s)
  unfold execReplyRequest
  repeat' first
    | with_reducible first
      | assumption | exact .refl _ _ | apply touches_replyCame | apply touches_axPost | apply touches_bump
      | apply touches_storeBytes | apply touches_setFrag | apply touches_shipMessage | apply touches_setEvt
      | refine .next ?_
    | split | fail_if_no_progress extract_lets | dsimp +zetaDelta only | decide

theorem frames_startNow (s : State) : Frames [.dah, .obj 0x0705] s (exec .startNow s) := by
  show Frames _ s (execStartNow s)
  unfold execStartNow
  repeat' first
    | with_reducible first
      | assumption | exact .refl _ _ | apply touches_acceptStart | refine .next ?_
    | split | dsimp +zetaDelta only | decide

theorem frames_integrationStart (s : State) : Frames [.dah, .obj 0x0705] s (exec .integrationStart s) := by
  show Frames _ s (execIntegrationStart s)
  unfold execIntegrationStart
  repeat' first
    | with_reducible first
      | assumption | exact .refl _ _ | apply touches_setDah | apply touches_pruneBefore | apply touches_wr
      | refine .next ?_
    | split | fail_if_no_progress extract_lets | dsimp +zetaDelta only | decide

theorem frames_dahliaBlockDiscard (s : State) : Frames [.dah, .flt, .notes, .obj 0x0705, .obj 0x0C06] s (exec
    .dahliaBlockDiscard s) := by
  show Frames _ s (execDahliaBlockDiscard s)
  unfold execDahliaBlockDiscard
  repeat' first
    | with_reducible first
      | assumption | exact .refl _ _ | apply touches_discardBlock | refine .next ?_
    | split | dsimp +zetaDelta only | decide

theorem frames_dahliaGroup (upsets) (s : State) : Frames [.axl, .chz, .dah, .flt, .fst, .mem, .mov, .notes, .out,
    .peer, .pwr, .obj 0x0705, .obj 0x0C06, .obj 0x0D05, .obj 0x1106] s (exec (.dahliaGroup upsets) s) := by
  show Frames _ s (execDahliaGroup upsets s)
  unfold execDahliaGroup
  repeat' first
    | with_reducible first
      | assumption | exact .refl _ _ | apply touches_setDah | apply touches_releaseGroup
      | apply touches_discardBlock | apply touches_correlateGroup | refine .next ?_
    | split | fail_if_no_progress extract_lets | dsimp +zetaDelta only | decide

theorem frames_dahliaGroupMissing (s : State) : Frames [.dah, .flt, .fst, .mov, .notes, .pwr, .obj 0x0705,
    .obj 0x0C06, .obj 0x1106] s (exec .dahliaGroupMissing s) := by
  show Frames _ s (execDahliaGroupMissing s)
  unfold execDahliaGroupMissing
  repeat' first
    | with_reducible first
      | assumption | exact .refl _ _ | apply touches_setDah | refine touches_raise_plain ?_ (by decide) _ _ _ ?_
      | apply touches_raise | apply touches_bump | apply touches_dahShow | apply touches_groupPacks
      | refine .next ?_
    | split | fail_if_no_progress extract_lets | dsimp +zetaDelta only | decide

theorem frames_dumpWait (us) (s : State) : Frames [.dah, .flt, .notes, .obj 0x0705, .obj 0x0C06] s (exec (.dumpWait
    us) s) := by
  show Frames _ s (execDumpWait us s)
  unfold execDumpWait
  repeat' first
    | with_reducible first
      | assumption | exact .refl _ _ | apply touches_bump | refine touches_raise_plain ?_ (by decide) _ _ _ ?_
      | apply touches_raise | apply touches_setDah | refine .next ?_
    | split | fail_if_no_progress extract_lets | dsimp +zetaDelta only | decide

theorem frames_integrationStopBoundary (s : State) : Frames [.dah, .flt, .mov, .notes, .pwr, .obj 0x0705,
    .obj 0x0C06, .obj 0x1106] s (exec .integrationStopBoundary s) := by
  show Frames _ s (execIntegrationStopBoundary s)
  unfold execIntegrationStopBoundary
  repeat' first
    | with_reducible first
      | assumption | exact .refl _ _ | apply touches_setDah | apply touches_queueBatch | apply touches_closePack
      | refine Touches.foldl _ _ ?_ (fun _ _ _ => ?_) | refine Touches.foldlFst _ _ ?_ (fun _ _ _ => ?_)
      | refine .next ?_
    | split | dsimp +zetaDelta only | decide

theorem frames_closingPassDone (s : State) : Frames [.dah, .flt, .mov, .notes, .pwr, .obj 0x0705, .obj 0x0C06,
    .obj 0x1106] s (exec .closingPassDone s) := by
  show Frames _ s (execClosingPassDone s)
  unfold execClosingPassDone
  repeat' first
    | with_reducible first
      | assumption | exact .refl _ _ | apply touches_dumpSummary | apply touches_wr | apply touches_setDah
      | apply touches_queueBatch | refine Touches.foldl _ _ ?_ (fun _ _ _ => ?_)
      | refine Touches.foldlFst _ _ ?_ (fun _ _ _ => ?_) | refine .next ?_
    | split | fail_if_no_progress extract_lets | dsimp +zetaDelta only | decide

theorem frames_peerReadyTimer (s : State) : Frames [.axl, .modes, .out, .peer, .obj 0x0802, .obj 0x0D05,
    .obj 0x1011] s (exec .peerReadyTimer s) := by
  show Frames _ s (execPeerReadyTimer s)
  unfold execPeerReadyTimer
  repeat' first
    | with_reducible first
      | assumption | exact .refl _ _ | apply touches_sendReady | refine .next ?_
    | split | dsimp +zetaDelta only | decide

theorem frames_groupReady (l) (m) (s : State) : Frames [.axl, .flt, .modes, .notes, .out, .peer, .obj 0x0802,
    .obj 0x0C06, .obj 0x0D05, .obj 0x1011] s (exec (.groupReady l m) s) := by
  show Frames _ s (execGroupReady l m s)
  unfold execGroupReady
  repeat' first
    | with_reducible first
      | assumption | exact .refl _ _ | apply touches_passControl | apply touches_setPeer | apply touches_holdReady
      | apply touches_goSend | refine touches_raise_plain ?_ (by decide) _ _ _ ?_ | apply touches_raise
      | refine .next ?_
    | split | fail_if_no_progress extract_lets | dsimp +zetaDelta only | decide

theorem frames_groupGo (l) (m) (s : State) : Frames [.axl, .modes, .out, .peer, .obj 0x0802, .obj 0x0D05,
    .obj 0x1011] s (exec (.groupGo l m) s) := by
  show Frames _ s (execGroupGo l m s)
  unfold execGroupGo
  repeat' first
    | with_reducible first
      | assumption | exact .refl _ _ | apply touches_takeGo | apply touches_passControl | refine .next ?_
    | split | dsimp +zetaDelta only | decide

theorem frames_groupStop (l) (m) (s : State) : Frames [.axl, .modes, .out, .peer, .obj 0x0802, .obj 0x0D05,
    .obj 0x1011] s (exec (.groupStop l m) s) := by
  show Frames _ s (execGroupStop l m s)
  unfold execGroupStop
  repeat' first
    | with_reducible first
      | assumption | exact .refl _ _ | apply touches_passControl | apply touches_setPeerStage
      | apply touches_setPeer | apply touches_forceIdle | refine .next ?_
    | split | fail_if_no_progress extract_lets | dsimp +zetaDelta only | decide

theorem frames_groupLeave (l) (m) (s : State) : Frames [.axl, .out, .peer, .obj 0x0D05] s (exec (.groupLeave l m) s)
    := by
  show Frames _ s (execGroupLeave l m s)
  unfold execGroupLeave
  repeat' first
    | with_reducible first
      | assumption | exact .refl _ _ | apply touches_passControl | apply touches_setPeer | refine .next ?_
    | split | fail_if_no_progress extract_lets | dsimp +zetaDelta only | decide

theorem frames_peerStartBlock (s : State) : Frames [.aon, .dah, .modes, .notes, .peer, .obj 0x0802, .obj 0x1011] s
    (exec .peerStartBlock s) := by
  show Frames _ s (execPeerStartBlock s)
  unfold execPeerStartBlock
  repeat' first
    | with_reducible first
      | assumption | exact .refl _ _ | apply touches_finishTransition | apply touches_peerRunning
      | apply touches_setModes | apply touches_dahStart | refine .next ?_
    | split | fail_if_no_progress extract_lets | dsimp +zetaDelta only | decide

theorem frames_peerStopBoundary (s : State) : Frames [.aon, .dah, .flt, .modes, .mov, .notes, .peer, .pwr,
    .obj 0x0802, .obj 0x0803, .obj 0x0A04, .obj 0x0C06, .obj 0x1011, .obj 0x1106] s (exec .peerStopBoundary s) := by
  show Frames _ s (execPeerStopBoundary s)
  unfold execPeerStopBoundary
  repeat' first
    | with_reducible first
      | assumption | exact .refl _ _ | apply touches_wr | apply touches_setPeerStage | apply touches_closeGroupsTo
      | apply touches_dahStop | apply touches_setPeer | apply touches_requestMode | refine .next ?_
    | split | fail_if_no_progress extract_lets | dsimp +zetaDelta only | decide

theorem frames_peerPacket (l) (k) (s : State) : Frames [.axl, .flt, .fst, .mem, .notes, .out, .peer, .obj 0x0802,
    .obj 0x0803, .obj 0x0C06, .obj 0x0D05] s (exec (.peerPacket l k) s) := by
  show Frames _ s (execPeerPacket l k s)
  unfold execPeerPacket
  repeat' first
    | with_reducible first
      | assumption | exact .refl _ _ | apply touches_takeMessage | apply touches_queuePeer
      | apply touches_memberBack | apply touches_setPeer | refine touches_raise_plain ?_ (by decide) _ _ _ ?_
      | apply touches_raise | apply touches_bump | apply touches_placePeer | refine .next ?_
    | split | fail_if_no_progress extract_lets | dsimp +zetaDelta only | decide

theorem frames_peerBufferClose (s : State) : Frames [.flt, .mov, .notes, .peer, .pwr, .obj 0x0803, .obj 0x0C06,
    .obj 0x1106] s (exec .peerBufferClose s) := by
  show Frames _ s (execPeerBufferClose s)
  unfold execPeerBufferClose
  repeat' first
    | with_reducible first
      | assumption | exact .refl _ _ | apply touches_closeGroup | refine .next ?_
    | split | dsimp +zetaDelta only | decide

theorem frames_peerSendAgeDiscard (s : State) : Frames [.axl, .flt, .fst, .mem, .mov, .notes, .out, .peer,
    .obj 0x0803, .obj 0x0C06, .obj 0x0D05] s (exec .peerSendAgeDiscard s) := by
  show Frames _ s (execPeerSendAgeDiscard s)
  unfold execPeerSendAgeDiscard
  repeat' first
    | with_reducible first
      | assumption | exact .refl _ _ | apply touches_peerTake | refine touches_raise_plain ?_ (by decide) _ _ _ ?_
      | apply touches_raise | apply touches_bump | apply touches_setPeer | refine .next ?_
    | split | dsimp +zetaDelta only | decide

theorem frames_peerMemberLost (m) (s : State) : Frames [.flt, .notes, .peer, .obj 0x0802, .obj 0x0C06] s (exec
    (.peerMemberLost m) s) := by
  show Frames _ s (execPeerMemberLost m s)
  unfold execPeerMemberLost
  repeat' first
    | with_reducible first
      | assumption | exact .refl _ _ | refine touches_raise_plain ?_ (by decide) _ _ _ ?_ | apply touches_raise
      | apply touches_wr | apply touches_setPeer | refine .next ?_
    | split | dsimp +zetaDelta only | decide

theorem frames_concFragmentArrival (l) (a) (s : State) : Frames [.axl, .conc, .flt, .mov, .notes, .out, .peer, .pwr,
    .obj 0x0808, .obj 0x0C06, .obj 0x0D05, .obj 0x1106] s (exec (.concFragmentArrival l a) s) := by
  show Frames _ s (execConcFragmentArrival l a s)
  unfold execConcFragmentArrival
  repeat' first
    | with_reducible first
      | assumption | exact .refl _ _ | apply touches_concArrival | apply touches_takeMessage | refine .next ?_
    | split | dsimp +zetaDelta only | decide

theorem frames_concAnnouncementArrival (l) (a) (s : State) : Frames [.axl, .conc, .flt, .mov, .notes, .out, .peer,
    .pwr, .obj 0x0808, .obj 0x0C06, .obj 0x0D05, .obj 0x1106] s (exec (.concAnnouncementArrival l a) s) := by
  show Frames _ s (execConcAnnouncementArrival l a s)
  unfold execConcAnnouncementArrival
  repeat' first
    | with_reducible first
      | assumption | exact .refl _ _ | apply touches_concArrival | apply touches_takeMessage | refine .next ?_
    | split | dsimp +zetaDelta only | decide

theorem frames_buildTimeout (s : State) : Frames [.axl, .conc, .flt, .mov, .notes, .out, .peer, .pwr, .obj 0x0808,
    .obj 0x0C06, .obj 0x0D05, .obj 0x1106] s (exec .buildTimeout s) := by
  show Frames _ s (execBuildTimeout s)
  unfold execBuildTimeout
  repeat' first
    | with_reducible first
      | assumption | exact .refl _ _ | apply touches_closeContext | refine .next ?_
    | split | dsimp +zetaDelta only | decide

theorem frames_fetchTimeout (s : State) : Frames [.conc, .flt, .mov, .notes, .pwr, .obj 0x0808, .obj 0x0C06,
    .obj 0x1106] s (exec .fetchTimeout s) := by
  show Frames _ s (execFetchTimeout s)
  unfold execFetchTimeout
  repeat' first
    | with_reducible first
      | assumption | exact .refl _ _ | apply touches_partsMissing | refine .next ?_
    | split | dsimp +zetaDelta only | decide

theorem frames_concGone (l) (chip) (serial) (s : State) : Frames [.axl, .conc, .flt, .mov, .notes, .pwr,
    .obj 0x0808, .obj 0x0C06, .obj 0x1106] s (exec (.concGone l chip serial) s) := by
  show Frames _ s (execConcGone l chip serial s)
  unfold execConcGone
  repeat' first
    | with_reducible first
      | assumption | exact .refl _ _ | apply touches_takeMessage | apply touches_partsMissing | refine .next ?_
    | split | fail_if_no_progress extract_lets | dsimp +zetaDelta only | decide

theorem frames_interferometryDone (s : State) : Frames [.conc, .flt, .mov, .notes, .pwr, .obj 0x0808, .obj 0x0B04,
    .obj 0x0C06, .obj 0x1106] s (exec .interferometryDone s) := by
  show Frames _ s (execInterferometryDone s)
  unfold execInterferometryDone
  repeat' first
    | with_reducible first
      | assumption | exact .refl _ _ | apply touches_deliverContext | apply touches_blocksDecoded | refine .next ?_
    | split | dsimp +zetaDelta only | decide

theorem frames_sunGroup (upsets) (s : State) : Frames [.flt, .live, .notes, .sun, .obj 0x0907, .obj 0x0C06] s (exec
    (.sunGroup upsets) s) := by
  show Frames _ s (execSunGroup upsets s)
  unfold execSunGroup
  repeat' first
    | with_reducible first
      | assumption | exact .refl _ _ | apply touches_dueChanges | apply touches_queueFrame | apply touches_setSun
      | apply touches_sunHalt | apply touches_tableUpset | refine Touches.foldl _ _ ?_ (fun _ _ _ => ?_)
      | refine Touches.foldlFst _ _ ?_ (fun _ _ _ => ?_) | refine .next ?_
    | split | fail_if_no_progress extract_lets | dsimp +zetaDelta only | decide

theorem frames_sunArm (s : State) : Frames [.obj 0x0907] s (exec .sunArm s) := by
  show Frames _ s (execSunArm s)
  unfold execSunArm
  repeat' first
    | with_reducible first
      | assumption | exact .refl _ _ | apply touches_sunArm | refine .next ?_
    | split | dsimp +zetaDelta only | decide

theorem frames_sunDisarm (s : State) : Frames [.obj 0x0907] s (exec .sunDisarm s) := by
  show Frames _ s (execSunDisarm s)
  unfold execSunDisarm
  repeat' first
    | with_reducible first
      | assumption | exact .refl _ _ | apply touches_sunDisarm | refine .next ?_
    | split | dsimp +zetaDelta only | decide

theorem frames_sunCopy (s : State) : Frames [.flt, .sun, .obj 0x0906, .obj 0x0907] s (exec .sunCopy s) := by
  show Frames _ s (execSunCopy s)
  unfold execSunCopy
  repeat' first
    | with_reducible first
      | assumption | exact .refl _ _ | apply touches_sunCopy | refine .next ?_
    | split | dsimp +zetaDelta only | decide

theorem frames_sunSwitchNow (s : State) : Frames [.sun, .obj 0x0907] s (exec .sunSwitchNow s) := by
  show Frames _ s (execSunSwitchNow s)
  unfold execSunSwitchNow
  repeat' first
    | with_reducible first
      | assumption | exact .refl _ _ | apply touches_sunSwitchNow | refine .next ?_
    | split | dsimp +zetaDelta only | decide

theorem frames_setSwitch (s : State) : Frames [.flt, .live, .notes, .sun, .obj 0x0906, .obj 0x0907, .obj 0x0C06] s
    (exec .setSwitch s) := by
  show Frames _ s (execSetSwitch s)
  unfold execSetSwitch
  repeat' first
    | with_reducible first
      | assumption | exact .refl _ _ | apply touches_setSun | apply touches_dueChanges | apply touches_wr
      | apply touches_setPendingState | apply touches_clearFault | apply touches_applyHeldGains
      | apply touches_switchSkipped | refine .next ?_
    | split | fail_if_no_progress extract_lets | dsimp +zetaDelta only | decide

theorem frames_contextAged (s : State) : Frames [.flt, .notes, .sun, .obj 0x0C06] s (exec .contextAged s) := by
  show Frames _ s (execContextAged s)
  unfold execContextAged
  repeat' first
    | with_reducible first
      | assumption | exact .refl _ _ | refine touches_raise_plain ?_ (by decide) _ _ _ ?_ | apply touches_raise
      | apply touches_setSun | refine .next ?_
    | split | dsimp +zetaDelta only | decide

theorem frames_fstMasterRead (src) (n) (r) (w) (syndrome) (s : State) : Frames [.bbl, .dah, .flt, .free, .fst, .mem,
    .mov, .notes, .pwr, .sun, .obj 0x0A04, .obj 0x0A05, .obj 0x0A06, .obj 0x0A07, .obj 0x0C06, .obj 0x1106] s (exec
    (.fstMasterRead src n r w syndrome) s) := by
  show Frames _ s (execFstMasterRead src n r w syndrome s)
  unfold execFstMasterRead
  repeat' first
    | with_reducible first
      | assumption | exact .refl _ _ | apply touches_readWord | apply touches_clockStarts | refine .next ?_
    | split | dsimp +zetaDelta only | decide

theorem frames_fstWrite (master) (n) (r) (w) (strobes) (data) (poison) (syndrome) (s : State) : Frames [.bbl, .dah,
    .flt, .free, .fst, .mem, .mov, .notes, .pwr, .sun, .obj 0x0A04, .obj 0x0A05, .obj 0x0A06, .obj 0x0A07,
    .obj 0x0C06, .obj 0x0C07, .obj 0x1106] s (exec (.fstWrite master n r w strobes data poison syndrome) s) := by
  show Frames _ s (execFstWrite master n r w strobes data poison syndrome s)
  unfold execFstWrite
  repeat' first
    | with_reducible first
      | assumption | exact .refl _ _ | refine touches_movError ?_ (by decide) _ _ _ ?_ | apply touches_storeWord
      | apply touches_clockStarts | refine .next ?_
    | split | fail_if_no_progress extract_lets | dsimp +zetaDelta only | decide

theorem frames_scrubRead (n) (r) (words) (last) (s : State) : Frames [.bbl, .dah, .flt, .free, .fst, .mem, .notes,
    .sun, .obj 0x0A04, .obj 0x0A05, .obj 0x0A06, .obj 0x0A07, .obj 0x0C06] s (exec (.scrubRead n r words last) s)
    := by
  show Frames _ s (execScrubRead n r words last s)
  unfold execScrubRead
  repeat' first
    | with_reducible first
      | assumption | exact .refl _ _ | apply touches_scrubWord | apply touches_passEnds
      | refine Touches.foldl _ _ ?_ (fun _ _ _ => ?_) | refine .next ?_
    | split | fail_if_no_progress extract_lets | dsimp +zetaDelta only | decide

theorem frames_scrubLate (s : State) : Frames [.flt, .notes, .obj 0x0C06] s (exec .scrubLate s) := by
  show Frames _ s (execScrubLate s)
  unfold execScrubLate
  repeat' first
    | with_reducible first
      | assumption | exact .refl _ _ | refine touches_raise_plain ?_ (by decide) _ _ _ ?_ | apply touches_raise
      | refine .next ?_
    | split | dsimp +zetaDelta only | decide

theorem frames_retfailLatch (n) (s : State) : Frames [.fst] s (exec (.retfailLatch n) s) := by
  show Frames _ s (execRetfailLatch n s)
  unfold execRetfailLatch
  repeat' first
    | with_reducible first
      | assumption | exact .refl _ _ | apply touches_setFst | refine .next ?_
    | split | dsimp +zetaDelta only | decide

theorem frames_bankWakeCheck (n) (words) (s : State) : Frames [.bbl, .evt, .flt, .free, .fst, .hk, .modes, .notes,
    .pwr, .sun, .obj 0x0206, .obj 0x0A04, .obj 0x0A05, .obj 0x0A06, .obj 0x0A07, .obj 0x0C06, .obj 0x1011] s (exec
    (.bankWakeCheck n words) s) := by
  show Frames _ s (execBankWakeCheck n words s)
  unfold execBankWakeCheck
  repeat' first
    | with_reducible first
      | assumption | exact .refl _ _ | apply touches_bankChecked | apply touches_bankLost
      | apply touches_failTransition | refine .next ?_
    | split | fail_if_no_progress extract_lets | dsimp +zetaDelta only | decide

theorem frames_halfBankInitDone (n) (h) (s : State) :
    Frames [.bbl, .dah, .flt, .fst, .mem, .sun, .obj 0x0A04] s (exec (.halfBankInitDone n h) s) := by
  show Frames _ s (execHalfBankInitDone n h s)
  unfold execHalfBankInitDone
  split
  · extract_lets lo hi inHalf s1 s2 s3 s4
    have h1 : Touches [.bbl, .dah, .flt, .fst, .mem, .sun, .obj 0x0A04] s s1 :=
      touches_part_mem (.refl _ _) _ (memFilter_keeps_wf _) (by decide)
    have h4 : Touches _ s s4 := touches_wr (touches_setFst (touches_placesInitialized h1 n h (by decide)) _ (by decide))
      Obj.FST_BANK.INIT n (rd s3 Obj.FST_BANK.INIT n ||| 2 ^ h.val) (by decide)
    refine .next ?_
    split
    · exact touches_endFault (touches_wr h4 _ _ _ (by decide)) _ _ (by decide)
    · exact h4
  · exact .next (.refl _ _)

theorem frames_frBlockCoded (replicaFails) (s : State) :
    Frames [.cmp, .evt, .flt, .mem, .mov, .notes, .pwr, .obj 0x0B04, .obj 0x0C06, .obj 0x1106] s
      (exec (.frBlockCoded replicaFails) s) := by
  show Frames _ s (execFrBlockCoded replicaFails s)
  unfold execFrBlockCoded
  split
  · exact .next (.refl _ _)
  · split
    · exact .next (touches_feedCoder (.refl _ _) (by decide))
    · next job rest _ =>
      split
      · exact .next (touches_feedCoder (touches_part_cmp (.refl _ s) _ (by decide)) (by decide))
      · extract_lets xs coded fails bytes _ _ s1 s2 sec n _ s3 s4
        have h1 : Touches [.cmp, .evt, .flt, .mem, .mov, .notes, .pwr, .obj 0x0B04, .obj 0x0C06, .obj 0x1106] s s1 :=
          touches_feedCoder (touches_part_mov (touches_part_cmp
            (.refl [.cmp, .evt, .flt, .mem, .mov, .notes, .pwr, .obj 0x0B04, .obj 0x0C06, .obj 0x1106] s)
            { s.cmp with coder := rest, failNext := false } (by decide)) { s.mov with badBlock := false } (by decide))
            (by decide)
        have h2 : Touches _ s s2 := touches_bump (touches_storeBytes (touches_setFrag h1 job.serial _ (by decide))
          _ bytes (by decide))
          Obj.CMP_STATUS.FR_BLOCKS 0 1 (by decide)
        have h3 : Touches _ s s3 := touches_bump (touches_part_cmp h2
          { s2.cmp with fails := n, failSecond := sec, lastFail := s.time.rc64 } (by decide)) Obj.CMP_STATUS.FR_VOID 0
              1 (by decide)
        have h4 : Touches _ s s4 := touches_raise_plain (touches_raise_plain h3 (by decide) _ _ _ (by decide))
          (by decide) _ _ _ (by decide)
        split
        · refine .next ?_
          split
          · exact touches_raise_plain h4 (by decide) _ _ _ (by decide)
          · exact h4
        · refine .next ?_
          split
          · exact touches_bump h2 _ _ _ (by decide)
          · exact h2

theorem frames_verifyTest (s : State) : Frames [.cmp] s (exec .verifyTest s) := by
  show Frames _ s (execVerifyTest s)
  unfold execVerifyTest
  repeat' first
    | with_reducible first
      | assumption | exact .refl _ _ | apply touches_part_cmp | refine .next ?_
    | split | dsimp +zetaDelta only | decide

theorem frames_compressionJobStart (e) (s : State) : Frames [.cmp] s (exec (.compressionJobStart e) s) := by
  show Frames _ s (execCompressionJobStart e s)
  unfold execCompressionJobStart
  repeat' first
    | with_reducible first
      | assumption | exact .refl _ _ | apply touches_setCmp | refine .next ?_
    | split | dsimp +zetaDelta only | decide

theorem frames_compressionJobEnd (e) (s : State) : Frames [.cmp, .ctl, .flt, .mov, .notes, .pwr, .obj 0x0A04,
    .obj 0x0B04, .obj 0x0C06, .obj 0x1106] s (exec (.compressionJobEnd e) s) := by
  show Frames _ s (execCompressionJobEnd e s)
  unfold execCompressionJobEnd
  repeat' first
    | with_reducible first
      | assumption | exact .refl _ _ | apply touches_setCmp | apply touches_engineRests | apply touches_jobDelivered
      | apply touches_jobCounts | refine .next ?_
    | split | fail_if_no_progress extract_lets | dsimp +zetaDelta only | decide

theorem frames_matrixTransaction (a) (s : State) :
    Frames [.bbl, .dah, .flt, .free, .fst, .mem, .mov, .notes, .out, .pwr, .sun, .obj 0x0A04, .obj 0x0A05, .obj 0x0A06,
      .obj 0x0A07, .obj 0x0C06, .obj 0x0C07, .obj 0x0C08, .obj 0x1106] s (exec (.matrixTransaction a) s) := by
  show Frames _ s (execMatrixTransaction a s)
  unfold execMatrixTransaction
  extract_lets s1
  have h1 : Touches [.bbl, .dah, .flt, .free, .fst, .mem, .mov, .notes, .out, .pwr, .sun, .obj 0x0A04, .obj 0x0A05,
      .obj 0x0A06, .obj 0x0A07, .obj 0x0C06, .obj 0x0C07, .obj 0x0C08, .obj 0x1106] s s1 :=
    touches_budget (.refl _ _) _ (by decide)
  split
  · next e he =>
    have h2 := touches_movError h1 (accessError_plain he) a.master e.1 a.addr (by decide)
    refine .next ?_
    split
    · exact h2
    · exact touches_emit h2 _ (by decide)
  · split
    · exact .next (touches_matrixWrite h1 _ (by decide))
    · exact .next (touches_emit (touches_matrixRead h1 _ (by decide)) _ (by decide))

theorem frames_beatTimeout (a) (s : State) : Frames [.bbl, .dah, .flt, .free, .fst, .mem, .mov, .notes, .out, .pwr,
    .sun, .obj 0x0A04, .obj 0x0A05, .obj 0x0A06, .obj 0x0A07, .obj 0x0C06, .obj 0x0C07, .obj 0x1106] s (exec
    (.beatTimeout a) s) := by
  show Frames _ s (execBeatTimeout a s)
  unfold execBeatTimeout
  repeat' first
    | with_reducible first
      | assumption | exact .refl _ _ | refine touches_movError ?_ (by decide) _ _ _ ?_ | apply touches_burstCut
      | refine .next ?_
    | split | dsimp +zetaDelta only | decide

theorem frames_resetInBurst (a) (s : State) : Frames [.bbl, .dah, .flt, .free, .fst, .mem, .mov, .notes, .out, .pwr,
    .sun, .obj 0x0A04, .obj 0x0A05, .obj 0x0A06, .obj 0x0A07, .obj 0x0C06, .obj 0x0C07, .obj 0x0C08, .obj 0x1106] s
    (exec (.resetInBurst a) s) := by
  show Frames _ s (execResetInBurst a s)
  unfold execResetInBurst
  repeat' first
    | with_reducible first
      | assumption | exact .refl _ _ | apply touches_wr | refine touches_movError ?_ (by decide) _ _ _ ?_
      | apply touches_burstCut | refine .next ?_
    | split | dsimp +zetaDelta only | decide

theorem frames_queuePacketSend (q) (err) (which) (s : State) : Frames [.axl, .conc, .dah, .flt, .free, .mov, .notes,
    .peer, .pwr, .obj 0x0C05, .obj 0x0C06, .obj 0x1106] s (exec (.queuePacketSend q err which) s) := by
  show Frames _ s (execQueuePacketSend q err which s)
  unfold execQueuePacketSend
  repeat' first
    | with_reducible first
      | assumption | exact .refl _ _ | apply touches_slotError | apply touches_packetSent | refine .next ?_
    | split | dsimp +zetaDelta only | decide

theorem frames_creditReturn (q) (s : State) : Frames [.axl, .chz, .flt, .fst, .mem, .mov, .out, .peer, .pwr, .sun,
    .obj 0x0D05, .obj 0x1106] s (exec (.creditReturn q) s) := by
  show Frames _ s (execCreditReturn q s)
  unfold execCreditReturn
  repeat' first
    | with_reducible first
      | assumption | exact .refl _ _ | apply touches_queueFree | apply touches_drain4 | apply touches_drain8
      | refine .next ?_
    | split | fail_if_no_progress extract_lets | dsimp +zetaDelta only | decide

theorem frames_clockGateStop (block) (s : State) : Frames [.mov] s (exec (.clockGateStop block) s) := by
  show Frames _ s (execClockGateStop block s)
  unfold execClockGateStop
  repeat' first
    | with_reducible first
      | assumption | exact .refl _ _ | apply touches_setMov | refine .next ?_
    | split | dsimp +zetaDelta only | decide

theorem frames_lossyTailWrite (q) (packet) (s : State) : Frames [.bbl, .evt, .flt, .hk, .notes, .sun, .trg,
    .obj 0x0604, .obj 0x0907, .obj 0x0C06] s (exec (.lossyTailWrite q packet) s) := by
  show Frames _ s (execLossyTailWrite q packet s)
  unfold execLossyTailWrite
  repeat' first
    | with_reducible first
      | assumption | exact .refl _ _ | apply touches_reserveNext | apply touches_beamPut | apply touches_setSun
      | apply touches_logWatched | apply touches_lossyLost | apply touches_lossyShow | apply touches_ringRecord
      | apply touches_part_flt | refine .next ?_
    | split | fail_if_no_progress extract_lets | dsimp +zetaDelta only | exact ⟨id, id⟩
    | exact ⟨id, regionPush_bound _ _⟩ | decide

theorem frames_ringDoorbell (r) (tail) (s : State) : Frames [.flt, .mov, .notes, .out, .obj 0x0C03, .obj 0x0C04,
    .obj 0x0C06] s (exec (.ringDoorbell r tail) s) := by
  show Frames _ s (execRingDoorbell r tail s)
  unfold execRingDoorbell
  repeat' first
    | with_reducible first
      | assumption | exact .refl _ _ | apply touches_wr | apply touches_ringError | refine .next ?_
    | split | fail_if_no_progress extract_lets | dsimp +zetaDelta only | decide

theorem frames_ringKindWrite (r) (kind) (s : State) : Frames [.flt, .mov, .out, .obj 0x0C03, .obj 0x0C04] s (exec
    (.ringKindWrite r kind) s) := by
  show Frames _ s (execRingKindWrite r kind s)
  unfold execRingKindWrite
  repeat' first
    | with_reducible first
      | assumption | exact .refl _ _ | apply touches_kindWrite | refine .next ?_
    | split | dsimp +zetaDelta only | decide

theorem frames_dmaRecordWrite (r) (src) (s : State) : Frames [.conc, .dah, .evt, .flt, .mov, .notes, .out, .pwr,
    .sun, .obj 0x0604, .obj 0x0808, .obj 0x0C03, .obj 0x0C04, .obj 0x0C06, .obj 0x0C07, .obj 0x1106] s (exec
    (.dmaRecordWrite r src) s) := by
  show Frames _ s (execDmaRecordWrite r src s)
  unfold execDmaRecordWrite
  repeat' first
    | with_reducible first
      | assumption | exact .refl _ _ | apply touches_withRecord | apply touches_writeRecord
      | apply touches_recordDone | apply touches_setRing | refine .next ?_
    | split | fail_if_no_progress extract_lets | dsimp +zetaDelta only | decide

theorem frames_coalesceTimeout (r) (s : State) : Frames [.mov, .out, .obj 0x0C03, .obj 0x0C04] s (exec
    (.coalesceTimeout r) s) := by
  show Frames _ s (execCoalesceTimeout r s)
  unfold execCoalesceTimeout
  repeat' first
    | with_reducible first
      | assumption | exact .refl _ _ | apply touches_setRing | apply touches_closeBuffer | refine .next ?_
    | split | dsimp +zetaDelta only | decide

theorem frames_descriptorFetchDone (r) (addr) (len) (ctrl) (rsv) (error) (s : State) : Frames [.flt, .mov, .notes,
    .out, .obj 0x0C03, .obj 0x0C04, .obj 0x0C06] s (exec (.descriptorFetchDone r addr len ctrl rsv error) s) := by
  show Frames _ s (execDescriptorFetchDone r addr len ctrl rsv error s)
  unfold execDescriptorFetchDone
  repeat' first
    | with_reducible first
      | assumption | exact .refl _ _ | apply touches_ringError | apply touches_setRing | apply touches_h2dTake
      | refine .next ?_
    | split | fail_if_no_progress extract_lets | dsimp +zetaDelta only | decide

theorem frames_cplTimeout (r) (s : State) : Frames [.flt, .mov, .notes, .out, .obj 0x0C03, .obj 0x0C04, .obj 0x0C06]
    s (exec (.cplTimeout r) s) := by
  show Frames _ s (execCplTimeout r s)
  unfold execCplTimeout
  repeat' first
    | with_reducible first
      | assumption | exact .refl _ _ | apply touches_ringError | refine .next ?_
    | split | dsimp +zetaDelta only | decide

theorem frames_ringNoBuffer (r) (s : State) : Frames [.flt, .notes, .out, .obj 0x0C03, .obj 0x0C04, .obj 0x0C06] s
    (exec (.ringNoBuffer r) s) := by
  show Frames _ s (execRingNoBuffer r s)
  unfold execRingNoBuffer
  repeat' first
    | with_reducible first
      | assumption | exact .refl _ _ | apply touches_ringBit | refine touches_raise_plain ?_ (by decide) _ _ _ ?_
      | apply touches_raise | refine .next ?_
    | split | fail_if_no_progress extract_lets | dsimp +zetaDelta only | decide

theorem frames_netRecordSend (src) (s : State) : Frames [.conc, .dah, .evt, .flt, .mov, .net, .notes, .out, .pwr,
    .sun, .obj 0x0604, .obj 0x0808, .obj 0x0A04, .obj 0x0C03, .obj 0x0C04, .obj 0x0C06, .obj 0x0F04, .obj 0x1011,
    .obj 0x1106] s (exec (.netRecordSend src) s) := by
  show Frames _ s (execNetRecordSend src s)
  unfold execNetRecordSend
  repeat' first
    | with_reducible first
      | assumption | exact .refl _ _ | apply touches_netSettled | apply touches_recordDone
      | apply touches_sendRecord | apply touches_netDemand | apply touches_dumpTaken | apply touches_lossyShow
      | apply touches_setSun | apply touches_eventTaken | refine .next ?_
    | split | fail_if_no_progress extract_lets | dsimp +zetaDelta only | decide

theorem frames_linkTrainStart (l) (s : State) : Frames [.axl, .out, .pwr, .obj 0x0A04, .obj 0x0D04, .obj 0x1011] s
    (exec (.linkTrainStart l) s) := by
  show Frames _ s (execLinkTrainStart l s)
  unfold execLinkTrainStart
  repeat' first
    | with_reducible first
      | assumption | exact .refl _ _ | apply touches_trainLink | refine .next ?_
    | split | dsimp +zetaDelta only | decide

theorem frames_partnerClockStable (l) (unchanged) (s : State) : Frames [.axl, .obj 0x0D04] s (exec
    (.partnerClockStable l unchanged) s) := by
  show Frames _ s (execPartnerClockStable l unchanged s)
  unfold execPartnerClockStable
  repeat' first
    | with_reducible first
      | assumption | exact .refl _ _ | apply touches_wr | apply touches_setLinkState | refine .next ?_
    | split | fail_if_no_progress extract_lets | dsimp +zetaDelta only | decide

theorem frames_baseLocked (l) (lanes) (s : State) : Frames [.axl, .out, .obj 0x0D04] s (exec (.baseLocked l lanes)
    s) := by
  show Frames _ s (execBaseLocked l lanes s)
  unfold execBaseLocked
  repeat' first
    | with_reducible first
      | assumption | exact .refl _ _ | apply touches_emit | apply touches_setLinkState | apply touches_wr
      | refine .next ?_
    | split | dsimp +zetaDelta only | decide

theorem frames_capabilityRecord (l) (record) (s : State) : Frames [.axl, .flt, .modes, .notes, .obj 0x0C06,
    .obj 0x0D04, .obj 0x1011] s (exec (.capabilityRecord l record) s) := by
  show Frames _ s (execCapabilityRecord l record s)
  unfold execCapabilityRecord
  repeat' first
    | with_reducible first
      | assumption | exact .refl _ _ | apply touches_takeRecord | apply touches_setLinkState
      | refine touches_raise_plain ?_ (by decide) _ _ _ ?_ | apply touches_raise | apply touches_setLink
      | refine touches_raiseAxrel ?_ (by decide) _ _ _ ?_ | apply touches_failTransition | refine .next ?_
    | split | fail_if_no_progress extract_lets | dsimp +zetaDelta only | decide

theorem frames_speedDone (l) (lanes) (s : State) : Frames [.axl, .obj 0x0D04] s (exec (.speedDone l lanes) s) := by
  show Frames _ s (execSpeedDone l lanes s)
  unfold execSpeedDone
  repeat' first
    | with_reducible first
      | assumption | exact .refl _ _ | apply touches_setLinkState | apply touches_wr | refine .next ?_
    | split | dsimp +zetaDelta only | decide

theorem frames_portDeskew (l) (late) (s : State) : Frames [.axl, .flt, .notes, .out, .peer, .obj 0x0C06,
    .obj 0x0D04, .obj 0x0D05] s (exec (.portDeskew l late) s) := by
  show Frames _ s (execPortDeskew l late s)
  unfold execPortDeskew
  repeat' first
    | with_reducible first
      | assumption | exact .refl _ _ | refine touches_raiseAxrel ?_ (by decide) _ _ _ ?_ | apply touches_setLink
      | apply touches_setAxPort | apply touches_wr | apply touches_endFault | apply touches_linkJoined
      | apply touches_mapFaults | apply touches_requestMap | apply touches_pump
      | refine Touches.foldl _ _ ?_ (fun _ _ _ => ?_) | refine .next ?_
    | split | fail_if_no_progress extract_lets | dsimp +zetaDelta only | decide

theorem frames_trainStepOverrun (l) (s : State) : Frames [.axl, .flt, .notes, .obj 0x0C06, .obj 0x0D04] s (exec
    (.trainStepOverrun l) s) := by
  show Frames _ s (execTrainStepOverrun l s)
  unfold execTrainStepOverrun
  repeat' first
    | with_reducible first
      | assumption | exact .refl _ _ | apply touches_trainFails | refine .next ?_
    | split | dsimp +zetaDelta only | decide

theorem frames_retrainTimer (l) (s : State) : Frames [.axl, .out, .pwr, .obj 0x0A04, .obj 0x0D04, .obj 0x1011] s
    (exec (.retrainTimer l) s) := by
  show Frames _ s (execRetrainTimer l s)
  unfold execRetrainTimer
  repeat' first
    | with_reducible first
      | assumption | exact .refl _ _ | apply touches_setLink | apply touches_trainLink | refine .next ?_
    | split | fail_if_no_progress extract_lets | dsimp +zetaDelta only | decide

theorem frames_laneLockLoss (l) (d) (s : State) : Frames [.axl, .flt, .notes, .out, .peer, .obj 0x0C06, .obj 0x0D04,
    .obj 0x0D05] s (exec (.laneLockLoss l d) s) := by
  show Frames _ s (execLaneLockLoss l d s)
  unfold execLaneLockLoss
  repeat' first
    | with_reducible first
      | assumption | exact .refl _ _ | apply touches_wr | apply touches_bump | apply touches_setLink
      | apply touches_requestMap | refine .next ?_
    | split | fail_if_no_progress extract_lets | dsimp +zetaDelta only | decide

theorem frames_mapreq (l) (mapId) (map) (s : State) : Frames [.axl, .flt, .notes, .out, .peer, .obj 0x0C06,
    .obj 0x0D04, .obj 0x0D05] s (exec (.mapreq l mapId map) s) := by
  show Frames _ s (execMapreq l mapId map s)
  unfold execMapreq
  repeat' first
    | with_reducible first
      | assumption | exact .refl _ _ | apply touches_portDown | apply touches_emit | apply touches_setAxPort
      | apply touches_wr | apply touches_bump | refine .next ?_
    | split | fail_if_no_progress extract_lets | dsimp +zetaDelta only | decide

theorem frames_mapreqResend (l) (s : State) : Frames [.out] s (exec (.mapreqResend l) s) := by
  show Frames _ s (execMapreqResend l s)
  unfold execMapreqResend
  repeat' first
    | with_reducible first
      | assumption | exact .refl _ _ | apply touches_emit | refine .next ?_
    | split | fail_if_no_progress extract_lets | dsimp +zetaDelta only | decide

theorem frames_map (l) (mapId) (map) (s : State) : Frames [.axl, .flt, .notes, .peer, .obj 0x0C06, .obj 0x0D04,
    .obj 0x0D05] s (exec (.map l mapId map) s) := by
  show Frames _ s (execMap l mapId map s)
  unfold execMap
  repeat' first
    | with_reducible first
      | assumption | exact .refl _ _ | apply touches_portDown | apply touches_wr | apply touches_setAxPort
      | apply touches_linkJoined | apply touches_peerLanes | refine touches_raiseAxrel ?_ (by decide) _ _ _ ?_
      | apply touches_bump | apply touches_mapFaults | refine Touches.foldl _ _ ?_ (fun _ _ _ => ?_)
      | refine .next ?_
    | split | fail_if_no_progress extract_lets | dsimp +zetaDelta only | decide

theorem frames_am (l) (d) (bipOk) (s : State) : Frames [.axl, .obj 0x0D04] s (exec (.am l d bipOk) s) := by
  show Frames _ s (execAm l d bipOk s)
  unfold execAm
  repeat' first
    | with_reducible first
      | assumption | exact .refl _ _ | apply touches_wr | apply touches_setLink | refine .next ?_
    | split | fail_if_no_progress extract_lets | dsimp +zetaDelta only | decide

theorem frames_laneRejoin (l) (d) (s : State) : Frames [.axl, .flt, .notes, .out, .peer, .obj 0x0C06, .obj 0x0D04,
    .obj 0x0D05] s (exec (.laneRejoin l d) s) := by
  show Frames _ s (execLaneRejoin l d s)
  unfold execLaneRejoin
  repeat' first
    | with_reducible first
      | assumption | exact .refl _ _ | apply touches_requestMap | refine .next ?_
    | split | fail_if_no_progress extract_lets | dsimp +zetaDelta only | decide

theorem frames_clockLoss (l) (s : State) : Frames [.axl, .flt, .notes, .out, .peer, .obj 0x0C06, .obj 0x0D04,
    .obj 0x0D05] s (exec (.clockLoss l) s) := by
  show Frames _ s (execClockLoss l s)
  unfold execClockLoss
  repeat' first
    | with_reducible first
      | assumption | exact .refl _ _ | apply touches_clockLoss | refine .next ?_
    | split | dsimp +zetaDelta only | decide

theorem frames_axrelFrame (l) (f) (s : State) : Frames [.axl, .out, .obj 0x0D05] s (exec (.axrelFrame l f) s) := by
  show Frames _ s (execAxrelFrame l f s)
  unfold execAxrelFrame
  repeat' first
    | with_reducible first
      | assumption | exact .refl _ _ | apply touches_sendNak | apply touches_bump | apply touches_sendAck
      | apply touches_acceptPayload | apply touches_setAxPort | refine .next ?_
    | split | fail_if_no_progress extract_lets | dsimp +zetaDelta only | decide

theorem frames_ack (l) (seq) (s : State) : Frames [.axl, .out, .peer, .obj 0x0D05] s (exec (.ack l seq) s) := by
  show Frames _ s (execAck l seq s)
  unfold execAck
  repeat' first
    | with_reducible first
      | assumption | exact .refl _ _ | apply touches_pump | apply touches_setAxPort | refine .next ?_
    | split | fail_if_no_progress extract_lets | dsimp +zetaDelta only | decide

theorem frames_nak (l) (seq) (s : State) : Frames [.axl, .flt, .notes, .out, .peer, .obj 0x0C06, .obj 0x0D04,
    .obj 0x0D05] s (exec (.nak l seq) s) := by
  show Frames _ s (execNak l seq s)
  unfold execNak
  repeat' first
    | with_reducible first
      | assumption | exact .refl _ _ | apply touches_retransmit | refine .next ?_
    | split | fail_if_no_progress extract_lets | dsimp +zetaDelta only | decide

theorem frames_ackTimeout (l) (s : State) : Frames [.axl, .flt, .notes, .out, .peer, .obj 0x0C06, .obj 0x0D04,
    .obj 0x0D05] s (exec (.ackTimeout l) s) := by
  show Frames _ s (execAckTimeout l s)
  unfold execAckTimeout
  repeat' first
    | with_reducible first
      | assumption | exact .refl _ _ | apply touches_retransmit | refine .next ?_
    | split | fail_if_no_progress extract_lets | dsimp +zetaDelta only | decide

theorem frames_credit (l) (vc) (total) (s : State) : Frames [.axl, .out, .peer, .obj 0x0D05] s (exec (.credit l vc
    total) s) := by
  show Frames _ s (execCredit l vc total s)
  unfold execCredit
  repeat' first
    | with_reducible first
      | assumption | exact .refl _ _ | apply touches_pump | apply touches_setAxPort | refine .next ?_
    | split | fail_if_no_progress extract_lets | dsimp +zetaDelta only | decide

theorem frames_ackCreditTimer (l) (s : State) : Frames [.axl, .out] s (exec (.ackCreditTimer l) s) := by
  show Frames _ s (execAckCreditTimer l s)
  unfold execAckCreditTimer
  repeat' first
    | with_reducible first
      | assumption | exact .refl _ _ | apply touches_emit | apply touches_sendAck | apply touches_setAxPort
      | refine Touches.foldl _ _ ?_ (fun _ _ _ => ?_) | refine .next ?_
    | split | fail_if_no_progress extract_lets | dsimp +zetaDelta only | decide

theorem frames_lpiEntry (l) (s : State) : Frames [.axl, .out, .obj 0x0D04] s (exec (.lpiEntry l) s) := by
  show Frames _ s (execLpiEntry l s)
  unfold execLpiEntry
  repeat' first
    | with_reducible first
      | assumption | exact .refl _ _ | apply touches_setAxPort | apply touches_emit | apply touches_setLinkState
      | refine Touches.foldl _ _ ?_ (fun _ _ _ => ?_) | refine .next ?_
    | split | fail_if_no_progress extract_lets | dsimp +zetaDelta only | decide

theorem frames_lpiRefresh (l) (s : State) : Frames [.out] s (exec (.lpiRefresh l) s) := by
  show Frames _ s (execLpiRefresh l s)
  unfold execLpiRefresh
  repeat' first
    | with_reducible first
      | assumption | exact .refl _ _ | apply touches_emit | refine .next ?_
    | split | fail_if_no_progress extract_lets | dsimp +zetaDelta only | decide

theorem frames_wake (l) (s : State) : Frames [.axl, .out, .peer, .obj 0x0D04, .obj 0x0D05] s (exec (.wake l) s)
    := by
  show Frames _ s (execWake l s)
  unfold execWake
  repeat' first
    | with_reducible first
      | assumption | exact .refl _ _ | apply touches_setAxPort | apply touches_emit | apply touches_pump
      | apply touches_setLinkState | refine Touches.foldl _ _ ?_ (fun _ _ _ => ?_) | refine .next ?_
    | split | fail_if_no_progress extract_lets | dsimp +zetaDelta only | decide

theorem frames_imageOffer (l) (kind) (total) (s : State) : Frames [.axl, .ctl, .out, .peer, .obj 0x0D05] s (exec
    (.imageOffer l kind total) s) := by
  show Frames _ s (execImageOffer l kind total s)
  unfold execImageOffer
  repeat' first
    | with_reducible first
      | assumption | exact .refl _ _ | apply touches_takeMessage | apply touches_setCtl | apply touches_takeOffer
      | refine .next ?_
    | split | fail_if_no_progress extract_lets | dsimp +zetaDelta only | decide

theorem frames_imageRequest (l) (offset) (count) (s : State) : Frames [.axl, .out, .peer, .obj 0x0D05] s (exec
    (.imageRequest l offset count) s) := by
  show Frames _ s (execImageRequest l offset count s)
  unfold execImageRequest
  repeat' first
    | with_reducible first
      | assumption | exact .refl _ _ | apply touches_takeMessage | apply touches_imageMessage | refine .next ?_
    | split | fail_if_no_progress extract_lets | dsimp +zetaDelta only | decide

theorem frames_imageData (l) (offset) (data) (s : State) : Frames [.axl, .ctl, .out, .peer, .obj 0x0D05] s (exec
    (.imageData l offset data) s) := by
  show Frames _ s (execImageData l offset data s)
  unfold execImageData
  repeat' first
    | with_reducible first
      | assumption | exact .refl _ _ | apply touches_takeMessage | apply touches_setCtl | apply touches_askChunk
      | refine .next ?_
    | split | fail_if_no_progress extract_lets | dsimp +zetaDelta only | decide

theorem frames_imageDone (l) (s : State) : Frames [.afe, .aon, .axl, .bbl, .cal, .chz, .cmp, .cnv, .ctl, .dah, .evt,
    .flt, .free, .fst, .hk, .live, .mem, .modes, .mov, .notes, .out, .pwr, .sun, .time, .trg, .regs] s (exec
    (.imageDone l) s) := by
  show Frames _ s (execImageDone l s)
  unfold execImageDone
  repeat' first
    | with_reducible first
      | assumption | exact .refl _ _ | apply touches_takeMessage | apply touches_receptionEnds | refine .next ?_
    | split | fail_if_no_progress extract_lets | dsimp +zetaDelta only | decide

theorem frames_imageAbort (l) (s : State) : Frames [.afe, .aon, .axl, .bbl, .cal, .chz, .cmp, .cnv, .ctl, .dah,
    .evt, .flt, .free, .fst, .hk, .live, .mem, .modes, .mov, .notes, .out, .pwr, .sun, .time, .trg, .regs] s (exec
    (.imageAbort l) s) := by
  show Frames _ s (execImageAbort l s)
  unfold execImageAbort
  repeat' first
    | with_reducible first
      | assumption | exact .refl _ _ | apply touches_setCtl | apply touches_takeMessage
      | apply touches_receptionEnds | refine .next ?_
    | split | fail_if_no_progress extract_lets | dsimp +zetaDelta only | decide

theorem frames_imageChunkRetry (s : State) : Frames [.axl, .ctl, .out, .peer, .obj 0x0D05] s (exec .imageChunkRetry
    s) := by
  show Frames _ s (execImageChunkRetry s)
  unfold execImageChunkRetry
  repeat' first
    | with_reducible first
      | assumption | exact .refl _ _ | apply touches_askChunk | refine .next ?_
    | split | dsimp +zetaDelta only | decide

theorem frames_testPayload (l) (s : State) : Frames [.axl] s (exec (.testPayload l) s) := by
  show Frames _ s (execTestPayload l s)
  unfold execTestPayload
  repeat' first
    | with_reducible first
      | assumption | exact .refl _ _ | apply touches_takeMessage | refine .next ?_
    | split | dsimp +zetaDelta only | decide

theorem frames_errInject (l) (s : State) : Frames [.out, .obj 0x0D06] s (exec (.errInject l) s) := by
  show Frames _ s (execErrInject l s)
  unfold execErrInject
  repeat' first
    | with_reducible first
      | assumption | exact .refl _ _ | apply touches_errInject | refine .next ?_
    | split | dsimp +zetaDelta only | decide

theorem frames_ref10mLost (s : State) : Frames [.aon, .flt, .notes, .time, .obj 0x0C06, .obj 0x0E01] s (exec
    .ref10mLost s) := by
  show Frames _ s (execRef10mLost s)
  unfold execRef10mLost
  repeat' first
    | with_reducible first
      | assumption | exact .refl _ _ | apply touches_setTime | apply touches_wr
      | refine touches_raise_plain ?_ (by decide) _ _ _ ?_ | apply touches_raise | apply touches_part_aon
      | refine .next ?_
    | split | fail_if_no_progress extract_lets | dsimp +zetaDelta only | exact .inl rfl | decide

theorem frames_ref10mReturn (s : State) : Frames [.time, .obj 0x0E01] s (exec .ref10mReturn s) := by
  show Frames _ s (execRef10mReturn s)
  unfold execRef10mReturn
  repeat' first
    | with_reducible first
      | assumption | exact .refl _ _ | apply touches_wr | apply touches_setTime | refine .next ?_
    | split | dsimp +zetaDelta only | exact .inl rfl | decide

theorem frames_phaseSlewDone (s : State) : Frames [.flt, .notes, .time, .obj 0x0C06, .obj 0x0E01] s (exec
    .phaseSlewDone s) := by
  show Frames _ s (execPhaseSlewDone s)
  unfold execPhaseSlewDone
  repeat' first
    | with_reducible first
      | assumption | exact .refl _ _ | apply touches_wr | apply touches_clearHoldover | refine .next ?_
    | split | fail_if_no_progress extract_lets | dsimp +zetaDelta only | decide

theorem frames_dormantRefReturn (s : State) : Frames [.rc64, .time] s (exec .dormantRefReturn s) := by
  show Frames _ s (execDormantRefReturn s)
  unfold execDormantRefReturn
  split
  · exact .next (touches_setTime (.refl _ _) _ (by decide) (.inr (by decide)))
  · exact .next (.refl _ _)

theorem frames_ppsEdge (lead) (s : State) : Frames [.flt, .modes, .notes, .peer, .rc64, .time, .obj 0x0802,
    .obj 0x0C06, .obj 0x0E01, .obj 0x0E05, .obj 0x1011] s (exec (.ppsEdge lead) s) := by
  show Frames _ s (execPpsEdge lead s)
  unfold execPpsEdge
  repeat' first
    | with_reducible first
      | assumption | exact .refl _ _ | apply touches_peerEdge | apply touches_ppsEdge | refine .next ?_
    | split | dsimp +zetaDelta only | decide

theorem frames_ppsLost (s : State) : Frames [.flt, .notes, .time, .obj 0x0C06, .obj 0x0E01] s (exec .ppsLost s)
    := by
  show Frames _ s (execPpsLost s)
  unfold execPpsLost
  repeat' first
    | with_reducible first
      | assumption | exact .refl _ _ | refine touches_raise_plain ?_ (by decide) _ _ _ ?_ | apply touches_raise
      | apply touches_dropLock | apply touches_setTime | refine .next ?_
    | split | dsimp +zetaDelta only | exact .inl rfl | decide

theorem frames_bootPpsWaitTimeout (s : State) :
    Frames [.rc64, .time, .obj 0x0E05] s (exec .bootPpsWaitTimeout s) := by
  show Frames _ s (execBootPpsWaitTimeout s)
  unfold execBootPpsWaitTimeout
  split
  · exact .next (touches_wr (touches_setTime (.refl _ _) _ (by decide) (.inr (by decide))) _ _ _ (by decide))
  · exact .next (.refl _ _)

theorem frames_incWrite (inc) (atPps) (s : State) : Frames [.time, .obj 0x0E02] s (exec (.incWrite inc atPps) s)
    := by
  show Frames _ s (execIncWrite inc atPps s)
  unfold execIncWrite
  repeat' first
    | with_reducible first
      | assumption | exact .refl _ _ | apply touches_incWrite | refine .next ?_
    | split | dsimp +zetaDelta only | decide

theorem frames_incApply (s : State) : Frames [.time, .obj 0x0E02, .obj 0x0E06] s (exec .incApply s) := by
  show Frames _ s (execIncApply s)
  unfold execIncApply
  repeat' first
    | with_reducible first
      | assumption | exact .refl _ _ | apply touches_civilReconvert | apply touches_wr | apply touches_setTime
      | refine .next ?_
    | split | dsimp +zetaDelta only | exact .inl rfl | decide

theorem frames_timeSet (sec) (nsec) (atPps) (s : State) : Frames [.time, .obj 0x0E03] s (exec (.timeSet sec nsec
    atPps) s) := by
  show Frames _ s (execTimeSet sec nsec atPps s)
  unfold execTimeSet
  repeat' first
    | with_reducible first
      | assumption | exact .refl _ _ | apply touches_timeOpWrite | apply touches_wr | refine .next ?_
    | split | dsimp +zetaDelta only | decide

theorem frames_timeStep (stepNs) (atPps) (s : State) : Frames [.time, .obj 0x0E03] s (exec (.timeStep stepNs atPps)
    s) := by
  show Frames _ s (execTimeStep stepNs atPps s)
  unfold execTimeStep
  repeat' first
    | with_reducible first
      | assumption | exact .refl _ _ | apply touches_timeOpWrite | apply touches_wr | refine .next ?_
    | split | dsimp +zetaDelta only | decide

theorem frames_timeOpApply (s : State) : Frames [.flt, .notes, .time, .obj 0x0C06, .obj 0x0E01, .obj 0x0E03,
    .obj 0x0E06] s (exec .timeOpApply s) := by
  show Frames _ s (execTimeOpApply s)
  unfold execTimeOpApply
  repeat' first
    | with_reducible first
      | assumption | exact .refl _ _ | apply touches_wr | apply touches_setTime | apply touches_civilReconvert
      | apply touches_dropLock | refine .next ?_
    | split | fail_if_no_progress extract_lets | dsimp +zetaDelta only | exact .inl rfl | decide

theorem frames_timCmpWrite (c) (w) (s : State) : Frames [.time, .obj 0x0E06] s (exec (.timCmpWrite c w) s) := by
  show Frames _ s (execTimCmpWrite c w s)
  unfold execTimCmpWrite
  repeat' first
    | with_reducible first
      | assumption | exact .refl _ _ | apply touches_cmpWrite | refine .next ?_
    | split | dsimp +zetaDelta only | decide

theorem frames_comparatorFire (c) (s : State) : Frames [.cal, .dah, .flt, .hk, .live, .notes, .out, .pwr, .sun,
    .time, .trg, .obj 0x0705, .obj 0x0907, .obj 0x0A04, .obj 0x0C06, .obj 0x0E06, .obj 0x1011, .obj 0x1204,
    .obj 0x1304] s (exec (.comparatorFire c) s) := by
  show Frames _ s (execComparatorFire c s)
  unfold execComparatorFire
  repeat' first
    | with_reducible first
      | assumption | exact .refl _ _ | apply touches_cmpAfterFire | apply touches_noticeAt | apply touches_cmpAction
      | refine .next ?_
    | split | fail_if_no_progress extract_lets | dsimp +zetaDelta only | decide

theorem frames_netFrame (port) (bytes) (before) (after) (s : State) : Frames [.flt, .net, .notes, .out, .obj 0x0C06,
    .obj 0x0F04] s (exec (.netFrame port bytes before after) s) := by
  show Frames _ s (execNetFrame port bytes before after s)
  unfold execNetFrame
  repeat' first
    | with_reducible first
      | assumption | exact .refl _ _ | apply touches_releaseOne | apply touches_receiveFrame
      | refine Touches.foldl _ _ ?_ (fun _ _ _ => ?_) | refine .next ?_
    | split | fail_if_no_progress extract_lets | dsimp +zetaDelta only | decide

theorem frames_netLinkDown (port) (lost) (s : State) : Frames [.flt, .notes, .obj 0x0C06, .obj 0x0F04] s (exec
    (.netLinkDown port lost) s) := by
  show Frames _ s (execNetLinkDown port lost s)
  unfold execNetLinkDown
  repeat' first
    | with_reducible first
      | assumption | exact .refl _ _ | apply touches_bump | apply touches_wr
      | refine touches_raise_plain ?_ (by decide) _ _ _ ?_ | apply touches_raise | refine .next ?_
    | split | fail_if_no_progress extract_lets | dsimp +zetaDelta only | decide

theorem frames_netLinkUp (port) (cr4) (bypass) (s : State) : Frames [.flt, .live, .net, .notes, .obj 0x0C06,
    .obj 0x0F04] s (exec (.netLinkUp port cr4 bypass) s) := by
  show Frames _ s (execNetLinkUp port cr4 bypass s)
  unfold execNetLinkUp
  repeat' first
    | with_reducible first
      | assumption | exact .refl _ _ | apply touches_wr | apply touches_latch | apply touches_endFault
      | apply touches_clearFault | apply touches_setPort | refine .next ?_
    | split | fail_if_no_progress extract_lets | dsimp +zetaDelta only | decide

theorem frames_anRestart (port) (s : State) : Frames [.flt, .net, .notes, .obj 0x0C06, .obj 0x0F04] s (exec
    (.anRestart port) s) := by
  show Frames _ s (execAnRestart port s)
  unfold execAnRestart
  repeat' first
    | with_reducible first
      | assumption | exact .refl _ _ | apply touches_setPort | apply touches_wr
      | refine touches_raise_plain ?_ (by decide) _ _ _ ?_ | apply touches_raise | refine .next ?_
    | split | fail_if_no_progress extract_lets | dsimp +zetaDelta only | decide

theorem frames_selfCheck (a) (b) (s : State) : Frames [.afe, .aon, .axl, .bbl, .cal, .chz, .cmp, .cnv, .conc, .ctl,
    .dah, .evt, .flt, .fst, .hk, .live, .mem, .modes, .mov, .net, .notes, .peer, .pwr, .rc64, .sun, .time, .trg,
    .regs] s (exec (.selfCheck a b) s) := by
  show Frames _ s (execSelfCheck a b s)
  unfold execSelfCheck
  repeat' first
    | with_reducible first
      | assumption | exact .refl _ _ | apply touches_selfCheck | refine .next ?_
    | split | dsimp +zetaDelta only | decide

theorem frames_compareMismatch (s : State) : Frames [.afe, .aon, .axl, .bbl, .cal, .chz, .cmp, .cnv, .conc, .ctl,
    .dah, .evt, .flt, .fst, .hk, .live, .mem, .modes, .mov, .net, .notes, .peer, .pwr, .rc64, .sun, .time, .trg,
    .regs] s (exec .compareMismatch s) := by
  show Frames _ s (execCompareMismatch s)
  unfold execCompareMismatch
  repeat' first
    | with_reducible first
      | assumption | exact .refl _ _ | apply touches_warmRestart | refine .next ?_
    | split | dsimp +zetaDelta only | decide

theorem frames_warmRestartDone (residentOk) (s : State) : Frames [.afe, .aon, .axl, .bbl, .cal, .chz, .cmp, .cnv,
    .conc, .ctl, .dah, .evt, .flt, .fst, .hk, .live, .mem, .modes, .mov, .net, .notes, .peer, .pwr, .rc64, .sun,
    .time, .trg, .regs] s (exec (.warmRestartDone residentOk) s) := by
  show Frames _ s (execWarmRestartDone residentOk s)
  unfold execWarmRestartDone
  repeat' first
    | with_reducible first
      | assumption | exact .refl _ _ | apply touches_forcedBoot | apply touches_setCtl
      | apply touches_commandsDropped | apply touches_interrupt | apply touches_restartNotice | apply touches_wr
      | apply touches_settle | apply touches_leadWithA | refine Touches.foldl _ _ ?_ (fun _ _ _ => ?_)
      | refine .next ?_
    | split | fail_if_no_progress extract_lets | dsimp +zetaDelta only | decide

theorem frames_resyncDone (s : State) : Frames [.ctl, .flt, .notes, .obj 0x0C06] s (exec .resyncDone s) := by
  show Frames _ s (execResyncDone s)
  unfold execResyncDone
  repeat' first
    | with_reducible first
      | assumption | exact .refl _ _ | apply touches_leadWithA | apply touches_setCtl | refine .next ?_
    | split | dsimp +zetaDelta only | decide

theorem frames_resyncTimeout (s : State) : Frames [.afe, .aon, .axl, .bbl, .cal, .chz, .cmp, .cnv, .conc, .ctl,
    .dah, .evt, .flt, .fst, .hk, .live, .mem, .modes, .mov, .net, .notes, .peer, .pwr, .rc64, .sun, .time, .trg,
    .regs] s (exec .resyncTimeout s) := by
  show Frames _ s (execResyncTimeout s)
  unfold execResyncTimeout
  repeat' first
    | with_reducible first
      | assumption | exact .refl _ _ | refine touches_raise_plain ?_ (by decide) _ _ _ ?_ | apply touches_raise
      | apply touches_setCtl | apply touches_warmRestart | refine .next ?_
    | split | fail_if_no_progress extract_lets | dsimp +zetaDelta only | decide

theorem frames_leadReturn (s : State) : Frames [.ctl, .flt, .notes, .obj 0x0C06] s (exec .leadReturn s) := by
  show Frames _ s (execLeadReturn s)
  unfold execLeadReturn
  repeat' first
    | with_reducible first
      | assumption | exact .refl _ _ | apply touches_leadWithA | apply touches_setCtl | refine .next ?_
    | split | dsimp +zetaDelta only | decide

theorem frames_heartbeat (s : State) : Frames [.ctl] s (exec .heartbeat s) := by
  show Frames _ s (execHeartbeat s)
  unfold execHeartbeat
  repeat' first
    | with_reducible first
      | assumption | exact .refl _ _ | apply touches_setCtl | refine .next ?_
    | split | dsimp +zetaDelta only | decide

theorem frames_mailboxDoorbell (m) (len) (frame) (s : State) : Frames [.ctl, .flt, .notes, .pwr, .obj 0x0A04,
    .obj 0x0C06, .obj 0x1011] s (exec (.mailboxDoorbell m len frame) s) := by
  show Frames _ s (execMailboxDoorbell m len frame s)
  unfold execMailboxDoorbell
  repeat' first
    | with_reducible first
      | assumption | exact .refl _ _ | apply touches_hostErr | apply touches_pairUp | apply touches_acceptFrame
      | refine touches_raise_plain ?_ (by decide) _ _ _ ?_ | apply touches_raise | apply touches_addDone
      | refine .next ?_
    | split | fail_if_no_progress extract_lets | dsimp +zetaDelta only | decide

theorem frames_completionWrite (m) (s : State) : Frames [.ctl, .out] s (exec (.completionWrite m) s) := by
  show Frames _ s (execCompletionWrite m s)
  unfold execCompletionWrite
  repeat' first
    | with_reducible first
      | assumption | exact .refl _ _ | apply touches_ringSlot | apply touches_setMail | refine .next ?_
    | split | fail_if_no_progress extract_lets | dsimp +zetaDelta only | decide

theorem frames_noticeWrite (s : State) : Frames [.flt, .notes, .out, .obj 0x0C06] s (exec .noticeWrite s) := by
  show Frames _ s (execNoticeWrite s)
  unfold execNoticeWrite
  split
  · exact .next (.refl _ _)
  · next n rest hq =>
    split
    · have h1 := touches_ringSlot (.refl [.flt, .notes, .out, .obj 0x0C06] s) s.notes.ring 64 n.bytes true (by decide)
      refine .next (touches_noticeLost (touches_part_notes h1 _ (by decide) fun hle => ?_) (by decide))
      have hkept : (ringSlot s s.notes.ring 64 n.bytes true).notes = s.notes :=
        (touches_ringSlot (.refl [.out] s) _ _ _ _ (by decide)).1 .notes (by decide)
      rw [hkept, hq] at hle
      exact (Nat.le_succ _).trans hle
    · exact .next (.refl _ _)

theorem frames_noticeLost (s : State) : Frames [.flt, .notes, .obj 0x0C06] s (exec .noticeLost s) := by
  show Frames _ s (execNoticeLost s)
  unfold execNoticeLost
  repeat' first
    | with_reducible first
      | assumption | exact .refl _ _ | apply touches_noticeLost | refine .next ?_
    | split | dsimp +zetaDelta only | decide

theorem frames_completionRingSetup (ring) (word) (wide) (v) (s : State) : Frames [.ctl, .notes] s (exec
    (.completionRingSetup ring word wide v) s) := by
  show Frames _ s (execCompletionRingSetup ring word wide v s)
  unfold execCompletionRingSetup
  repeat' first
    | with_reducible first
      | assumption | exact .refl _ _ | apply touches_hostErr | apply touches_setMail | apply touches_part_notes
      | refine .next ?_
    | split | fail_if_no_progress extract_lets | dsimp +zetaDelta only | exact id | decide

theorem frames_bar0DiscardedWrite (s : State) : Frames [.ctl] s (exec .bar0DiscardedWrite s) := by
  show Frames _ s (execBar0DiscardedWrite s)
  unfold execBar0DiscardedWrite
  repeat' first
    | with_reducible first
      | assumption | exact .refl _ _ | apply touches_hostErr | refine .next ?_
    | split | dsimp +zetaDelta only | decide

theorem frames_bar2Read (off) (words) (syndromes) (s : State) : Frames [.bbl, .dah, .flt, .free, .fst, .mem, .notes,
    .out, .sun, .obj 0x0A04, .obj 0x0A05, .obj 0x0A06, .obj 0x0A07, .obj 0x0C06] s (exec (.bar2Read off words
    syndromes) s) := by
  show Frames _ s (execBar2Read off words syndromes s)
  unfold execBar2Read
  repeat' first
    | with_reducible first
      | assumption | exact .refl _ _ | apply touches_bar2Word | apply touches_emit
      | refine Touches.foldl _ _ ?_ (fun _ _ _ => ?_) | refine Touches.foldlSndSnd _ _ ?_ (fun _ _ _ => ?_)
      | refine .next ?_
    | split | fail_if_no_progress extract_lets | dsimp +zetaDelta only | decide

theorem frames_bar2Write (s : State) : Frames [.out] s (exec .bar2Write s) := by
  show Frames _ s (execBar2Write s)
  unfold execBar2Write
  repeat' first
    | with_reducible first
      | assumption | exact .refl _ _ | apply touches_emit | refine .next ?_
    | split | dsimp +zetaDelta only | decide

theorem frames_halfReadLow (who) (bar2) (off) (syndrome) (s : State) : Frames [.bbl, .ctl, .dah, .flt, .free, .fst,
    .mem, .notes, .out, .sun, .obj 0x0A04, .obj 0x0A05, .obj 0x0A06, .obj 0x0A07, .obj 0x0C06] s (exec (.halfReadLow
    who bar2 off syndrome) s) := by
  show Frames _ s (execHalfReadLow who bar2 off syndrome s)
  unfold execHalfReadLow
  repeat' first
    | with_reducible first
      | assumption | exact .refl _ _ | apply touches_halfWord | apply touches_setCtl | apply touches_emit
      | refine .next ?_
    | split | fail_if_no_progress extract_lets | dsimp +zetaDelta only | decide

theorem frames_halfReadHigh (who) (s : State) : Frames [.out] s (exec (.halfReadHigh who) s) := by
  show Frames _ s (execHalfReadHigh who s)
  unfold execHalfReadHigh
  repeat' first
    | with_reducible first
      | assumption | exact .refl _ _ | apply touches_emit | refine .next ?_
    | split | dsimp +zetaDelta only | decide

theorem frames_pornRelease (chipId) (bootSrc) (testEn) (disagree) (found) (s : State) : Frames [.afe, .aon, .axl,
    .bbl, .cal, .chz, .cmp, .cnv, .conc, .ctl, .dah, .evt, .flt, .fst, .hk, .live, .mem, .modes, .mov, .net, .notes,
    .out, .peer, .pwr, .rc64, .sun, .time, .trg, .regs] s (exec (.pornRelease chipId bootSrc testEn disagree found)
    s) := by
  show Frames _ s (execPornRelease chipId bootSrc testEn disagree found s)
  unfold execPornRelease
  repeat' first
    | with_reducible first
      | assumption | exact .refl _ _ | apply touches_emit | apply touches_setCtl | apply touches_coldBoot
      | apply touches_wr | refine touches_raise_plain ?_ (by decide) _ _ _ ?_ | apply touches_raise
      | refine .next ?_
    | split | fail_if_no_progress extract_lets | dsimp +zetaDelta only | decide

theorem frames_pornAssert (long) (s : State) : Frames [.afe, .aon, .axl, .bbl, .cal, .chz, .cmp, .cnv, .conc, .ctl,
    .dah, .evt, .flt, .fst, .hk, .live, .mem, .modes, .mov, .net, .notes, .out, .peer, .pwr, .rc64, .sun, .time,
    .trg, .regs] s (exec (.pornAssert long) s) := by
  show Frames _ s (execPornAssert long s)
  unfold execPornAssert
  repeat' first
    | with_reducible first
      | assumption | exact .refl _ _ | apply touches_emit | apply touches_setAon | apply touches_bootReset
      | refine touches_raise_plain ?_ (by decide) _ _ _ ?_ | apply touches_raise | refine .next ?_
    | split | dsimp +zetaDelta only | decide

theorem frames_bootRefTimeout (s : State) : Frames [.flt, .notes, .time, .obj 0x0C06, .obj 0x0E01, .obj 0x1102] s
    (exec .bootRefTimeout s) := by
  show Frames _ s (execBootRefTimeout s)
  unfold execBootRefTimeout
  repeat' first
    | with_reducible first
      | assumption | exact .refl _ _ | apply touches_wr | refine touches_raise_plain ?_ (by decide) _ _ _ ?_
      | apply touches_raise | apply touches_setTime | refine .next ?_
    | split | fail_if_no_progress extract_lets | dsimp +zetaDelta only | exact .inl rfl | decide

theorem frames_bootIdleReached (s : State) : Frames [.aon, .ctl, .flt, .notes, .obj 0x0C06] s (exec .bootIdleReached
    s) := by
  show Frames _ s (execBootIdleReached s)
  unfold execBootIdleReached
  repeat' first
    | with_reducible first
      | assumption | exact .refl _ _ | apply touches_setAon | apply touches_setCtl | apply touches_clearFault
      | refine touches_raise_plain ?_ (by decide) _ _ _ ?_ | apply touches_raise | refine .next ?_
    | split | fail_if_no_progress extract_lets | dsimp +zetaDelta only | decide

theorem frames_bootTimeout (s : State) : Frames [.afe, .aon, .axl, .bbl, .cal, .chz, .cmp, .cnv, .conc, .ctl, .dah,
    .evt, .flt, .fst, .hk, .live, .mem, .modes, .mov, .net, .notes, .peer, .pwr, .rc64, .sun, .time, .trg, .regs] s
    (exec .bootTimeout s) := by
  show Frames _ s (execBootTimeout s)
  unfold execBootTimeout
  repeat' first
    | with_reducible first
      | assumption | exact .refl _ _ | apply touches_coldBoot | refine .next ?_
    | split | dsimp +zetaDelta only | decide

theorem frames_bootCommandReboot (s : State) : Frames [.afe, .aon, .axl, .bbl, .cal, .chz, .cmp, .cnv, .conc, .ctl,
    .dah, .evt, .flt, .fst, .hk, .live, .mem, .modes, .mov, .net, .notes, .peer, .pwr, .rc64, .sun, .time, .trg,
    .regs] s (exec .bootCommandReboot s) := by
  show Frames _ s (execBootCommandReboot s)
  unfold execBootCommandReboot
  repeat' first
    | with_reducible first
      | assumption | exact .refl _ _ | apply touches_coldBoot | refine .next ?_
    | split | dsimp +zetaDelta only | decide

theorem frames_governorGrant (s : State) : Frames [.aon, .flt, .notes, .out, .pwr, .obj 0x0A04, .obj 0x0C06,
    .obj 0x1011, .obj 0x1102, .obj 0x1106, .obj 0x1107] s (exec .governorGrant s) := by
  show Frames _ s (execGovernorGrant s)
  unfold execGovernorGrant
  repeat' first
    | with_reducible first
      | assumption | exact .refl _ _ | apply touches_accrue | apply touches_setPwr | apply touches_bump
      | apply touches_domWakes | apply touches_dormantWhole | apply touches_pacedEnds | refine .next ?_
    | split | fail_if_no_progress extract_lets | dsimp +zetaDelta only | decide

theorem frames_domainPowerGood (d) (s : State) : Frames [.afe, .aon, .bbl, .conc, .ctl, .flt, .hk, .modes, .mov,
    .notes, .out, .pwr, .time, .obj 0x0808, .obj 0x0A04, .obj 0x0C06, .obj 0x1011, .obj 0x1106] s (exec
    (.domainPowerGood d) s) := by
  show Frames _ s (execDomainPowerGood d s)
  unfold execDomainPowerGood
  repeat' first
    | with_reducible first
      | assumption | exact .refl _ _ | apply touches_latchupEnds | apply touches_setDom | apply touches_setBbl
      | apply touches_hkPowered | apply touches_setCtl | apply touches_eventsOut | apply touches_resumeIdle
      | refine .next ?_
    | split | fail_if_no_progress extract_lets | dsimp +zetaDelta only | decide

theorem frames_sleepAck (d) (s : State) : Frames [.flt, .notes, .pwr, .obj 0x0A04, .obj 0x0C06, .obj 0x1106] s (exec
    (.sleepAck d) s) := by
  show Frames _ s (execSleepAck d s)
  unfold execSleepAck
  repeat' first
    | with_reducible first
      | assumption | exact .refl _ _ | apply touches_setPwr | apply touches_wr | apply touches_clearFault
      | apply touches_paced | apply touches_setDom | refine .next ?_
    | split | fail_if_no_progress extract_lets | dsimp +zetaDelta only | decide

theorem frames_sleepDefer (d) (s : State) : Frames [.pwr, .obj 0x1106] s (exec (.sleepDefer d) s) := by
  show Frames _ s (execSleepDefer d s)
  unfold execSleepDefer
  repeat' first
    | with_reducible first
      | assumption | exact .refl _ _ | apply touches_setSleep | apply touches_bumpSat | refine .next ?_
    | split | dsimp +zetaDelta only | decide

theorem frames_sleepRefuse (d) (s : State) : Frames [.pwr, .obj 0x0A04] s (exec (.sleepRefuse d) s) := by
  show Frames _ s (execSleepRefuse d s)
  unfold execSleepRefuse
  repeat' first
    | with_reducible first
      | assumption | exact .refl _ _ | apply touches_setSleep | apply touches_staysOn | refine .next ?_
    | split | dsimp +zetaDelta only | decide

theorem frames_sleepRetry (d) (s : State) : Frames [.pwr, .obj 0x0A04] s (exec (.sleepRetry d) s) := by
  show Frames _ s (execSleepRetry d s)
  unfold execSleepRetry
  repeat' first
    | with_reducible first
      | assumption | exact .refl _ _ | apply touches_setSleep | apply touches_sleepsAgain | refine .next ?_
    | split | dsimp +zetaDelta only | decide

theorem frames_sleepStalled (d) (s : State) : Frames [.flt, .notes, .pwr, .obj 0x0A04, .obj 0x0C06, .obj 0x1106] s
    (exec (.sleepStalled d) s) := by
  show Frames _ s (execSleepStalled d s)
  unfold execSleepStalled
  repeat' first
    | with_reducible first
      | assumption | exact .refl _ _ | refine touches_raise_plain ?_ (by decide) _ _ _ ?_ | apply touches_raise
      | apply touches_wr | apply touches_staysOn | refine .next ?_
    | split | dsimp +zetaDelta only | decide

theorem frames_ballastPark (d) (s : State) : Frames [.pwr] s (exec (.ballastPark d) s) := by
  show Frames _ s (execBallastPark d s)
  unfold execBallastPark
  repeat' first
    | with_reducible first
      | assumption | exact .refl _ _ | apply touches_paced | refine .next ?_
    | split | dsimp +zetaDelta only | decide

theorem frames_latchup (d) (s : State) : Frames [.afe, .aon, .axl, .bbl, .cal, .chz, .cmp, .cnv, .conc, .ctl, .dah,
    .evt, .flt, .fst, .hk, .live, .mem, .modes, .mov, .net, .notes, .out, .peer, .pwr, .rc64, .sun, .time, .trg,
    .regs] s (exec (.latchup d) s) := by
  show Frames _ s (execLatchup d s)
  unfold execLatchup
  repeat' first
    | with_reducible first
      | assumption | exact .refl _ _ | apply touches_setPwr | apply touches_setDom | apply touches_bumpSat
      | apply touches_bump | refine touches_raise_plain ?_ (by decide) _ _ _ ?_ | apply touches_raise
      | apply touches_latchupDebt | apply touches_latchupEffect | refine .next ?_
    | split | fail_if_no_progress extract_lets | dsimp +zetaDelta only | decide

theorem frames_latchupRestore (d) (s : State) : Frames [.pwr, .obj 0x0A04] s (exec (.latchupRestore d) s) := by
  show Frames _ s (execLatchupRestore d s)
  unfold execLatchupRestore
  repeat' first
    | with_reducible first
      | assumption | exact .refl _ _ | apply touches_setDom | refine .next ?_
    | split | dsimp +zetaDelta only | decide

theorem frames_dvfsThrottleStep (s : State) : Frames [.flt, .notes, .pwr, .obj 0x0C06] s (exec .dvfsThrottleStep s)
    := by
  show Frames _ s (execDvfsThrottleStep s)
  unfold execDvfsThrottleStep
  repeat' first
    | with_reducible first
      | assumption | exact .refl _ _ | refine touches_raise_plain ?_ (by decide) _ _ _ ?_ | apply touches_raise
      | apply touches_askPoint | refine .next ?_
    | split | fail_if_no_progress extract_lets | dsimp +zetaDelta only | decide

theorem frames_dvfsRecoverStep (s : State) : Frames [.pwr] s (exec .dvfsRecoverStep s) := by
  show Frames _ s (execDvfsRecoverStep s)
  unfold execDvfsRecoverStep
  repeat' first
    | with_reducible first
      | assumption | exact .refl _ _ | apply touches_askPoint | refine .next ?_
    | split | fail_if_no_progress extract_lets | dsimp +zetaDelta only | decide

theorem frames_thermalLimit (s : State) : Frames [.flt, .modes, .notes, .obj 0x0C06, .obj 0x1011] s (exec
    .thermalLimit s) := by
  show Frames _ s (execThermalLimit s)
  unfold execThermalLimit
  repeat' first
    | with_reducible first
      | assumption | exact .refl _ _ | refine touches_raise_plain ?_ (by decide) _ _ _ ?_ | apply touches_raise
      | refine .next ?_
    | split | dsimp +zetaDelta only | decide

theorem frames_readVoutPoll (mv) (s : State) : Frames [.flt, .notes, .pwr, .obj 0x0C06, .obj 0x1102] s (exec
    (.readVoutPoll mv) s) := by
  show Frames _ s (execReadVoutPoll mv s)
  unfold execReadVoutPoll
  repeat' first
    | with_reducible first
      | assumption | exact .refl _ _ | apply touches_pointFollow | apply touches_setPwr | apply touches_setPoint
      | refine .next ?_
    | split | dsimp +zetaDelta only | decide

theorem frames_voutTimeout (s : State) : Frames [.flt, .notes, .out, .pwr, .obj 0x0C06] s (exec .voutTimeout s)
    := by
  show Frames _ s (execVoutTimeout s)
  unfold execVoutTimeout
  repeat' first
    | with_reducible first
      | assumption | exact .refl _ _ | refine touches_raise_plain ?_ (by decide) _ _ _ ?_ | apply touches_raise
      | apply touches_vout | apply touches_setPwr | refine .next ?_
    | split | dsimp +zetaDelta only | decide

theorem frames_pmbusPoll (r) (answer) (s : State) : Frames [.flt, .notes, .out, .pwr, .obj 0x0C06, .obj 0x1104] s
    (exec (.pmbusPoll r answer) s) := by
  show Frames _ s (execPmbusPoll r answer s)
  unfold execPmbusPoll
  repeat' first
    | with_reducible first
      | assumption | exact .refl _ _ | apply touches_setPwr | apply touches_bumpSat
      | refine touches_raise_plain ?_ (by decide) _ _ _ ?_ | apply touches_raise | apply touches_wr
      | apply touches_clearFault | apply touches_emit | refine .next ?_
    | split | fail_if_no_progress extract_lets | dsimp +zetaDelta only | decide

theorem frames_ainWake (p) (s : State) : Frames [.aon, .flt, .modes, .notes, .out, .pwr, .obj 0x0A04, .obj 0x0C06,
    .obj 0x1011, .obj 0x1403] s (exec (.ainWake p) s) := by
  show Frames _ s (execAinWake p s)
  unfold execAinWake
  repeat' first
    | with_reducible first
      | assumption | exact .refl _ _ | apply touches_latchWake | refine .next ?_
    | split | dsimp +zetaDelta only | decide

theorem frames_hostwakeEdge (level) (s : State) : Frames [.aon, .flt, .modes, .notes, .out, .pwr, .obj 0x0A04,
    .obj 0x0C06, .obj 0x1011, .obj 0x1403] s (exec (.hostwakeEdge level) s) := by
  show Frames _ s (execHostwakeEdge level s)
  unfold execHostwakeEdge
  repeat' first
    | with_reducible first
      | assumption | exact .refl _ _ | apply touches_latchWake | refine .next ?_
    | split | dsimp +zetaDelta only | decide

theorem frames_railsGood (residentOk) (s : State) : Frames [.afe, .aon, .axl, .bbl, .cal, .chz, .cmp, .cnv, .conc,
    .ctl, .dah, .evt, .flt, .fst, .hk, .live, .mem, .modes, .mov, .net, .notes, .out, .peer, .pwr, .rc64, .sun,
    .time, .trg, .regs] s (exec (.railsGood residentOk) s) := by
  show Frames _ s (execRailsGood residentOk s)
  unfold execRailsGood
  repeat' first
    | with_reducible first
      | assumption | exact .refl _ _ | apply touches_vout | apply touches_domsUp | apply touches_setAon
      | apply touches_qprotLatched | refine touches_raise_plain ?_ (by decide) _ _ _ ?_ | apply touches_raise
      | apply touches_coldBoot | refine .next ?_
    | split | fail_if_no_progress extract_lets | dsimp +zetaDelta only | decide

theorem frames_hkstartEdge (level) (s : State) : Frames [.hk, .live, .pwr, .obj 0x0A04, .obj 0x0E07, .obj 0x1011,
    .obj 0x1204] s (exec (.hkstartEdge level) s) := by
  show Frames _ s (execHkstartEdge level s)
  unfold execHkstartEdge
  repeat' first
    | with_reducible first
      | assumption | exact .refl _ _ | apply touches_wr | apply touches_bump | apply touches_hkRequest
      | refine .next ?_
    | split | fail_if_no_progress extract_lets | dsimp +zetaDelta only | decide

theorem frames_hkConversionDone (value) (s : State) : Frames [.flt, .hk, .live, .notes, .pwr, .obj 0x0A04,
    .obj 0x0C06, .obj 0x1011, .obj 0x1204] s (exec (.hkConversionDone value) s) := by
  show Frames _ s (execHkConversionDone value s)
  unfold execHkConversionDone
  repeat' first
    | with_reducible first
      | assumption | exact .refl _ _ | apply touches_referenceCheck | apply touches_limitCheck
      | apply touches_bufferRecord | apply touches_bump | apply touches_ringRecord | apply touches_setHk
      | apply touches_runBegin | apply touches_runEnd | apply touches_domDown | refine .next ?_
    | split | fail_if_no_progress extract_lets | dsimp +zetaDelta only | decide

theorem frames_calPlanStart (p) (s : State) : Frames [.cal, .out, .pwr, .obj 0x0A04, .obj 0x1011, .obj 0x1304] s
    (exec (.calPlanStart p) s) := by
  show Frames _ s (execCalPlanStart p s)
  unfold execCalPlanStart
  repeat' first
    | with_reducible first
      | assumption | exact .refl _ _ | apply touches_planStart | refine .next ?_
    | split | dsimp +zetaDelta only | decide

theorem frames_calPlanStop (p) (s : State) : Frames [.cal, .out, .pwr, .obj 0x0A04, .obj 0x1304] s (exec
    (.calPlanStop p) s) := by
  show Frames _ s (execCalPlanStop p s)
  unfold execCalPlanStop
  repeat' first
    | with_reducible first
      | assumption | exact .refl _ _ | apply touches_stringsEnd | refine .next ?_
    | split | dsimp +zetaDelta only | decide

theorem frames_calStringDisable (n) (s : State) : Frames [.cal, .live, .out, .pwr, .obj 0x0A04, .obj 0x1301,
    .obj 0x1304] s (exec (.calStringDisable n) s) := by
  show Frames _ s (execCalStringDisable n s)
  unfold execCalStringDisable
  repeat' first
    | with_reducible first
      | assumption | exact .refl _ _ | apply touches_stringDisable | refine .next ?_
    | split | dsimp +zetaDelta only | decide

theorem frames_calSlotBoundary (n) (s : State) : Frames [.flt, .notes, .out, .obj 0x0C06, .obj 0x1304] s (exec
    (.calSlotBoundary n) s) := by
  show Frames _ s (execCalSlotBoundary n s)
  unfold execCalSlotBoundary
  repeat' first
    | with_reducible first
      | assumption | exact .refl _ _ | apply touches_derate | apply touches_emit | apply touches_wr
      | refine .next ?_
    | split | fail_if_no_progress extract_lets | dsimp +zetaDelta only | decide

theorem frames_calRunJudged (n) (avg) (below) (above) (s : State) : Frames [.cal, .flt, .notes, .out, .pwr,
    .obj 0x0A04, .obj 0x0C06, .obj 0x1304] s (exec (.calRunJudged n avg below above) s) := by
  show Frames _ s (execCalRunJudged n avg below above s)
  unfold execCalRunJudged
  repeat' first
    | with_reducible first
      | assumption | exact .refl _ _ | apply touches_stringFault | apply touches_judgedGood
      | apply touches_judgedBad | refine .next ?_
    | split | fail_if_no_progress extract_lets | dsimp +zetaDelta only | decide

theorem frames_calDiagnosticPulse (n) (s : State) : Frames [.cal, .out, .obj 0x1304] s (exec (.calDiagnosticPulse n)
    s) := by
  show Frames _ s (execCalDiagnosticPulse n s)
  unfold execCalDiagnosticPulse
  repeat' first
    | with_reducible first
      | assumption | exact .refl _ _ | apply touches_bump | apply touches_setCal | apply touches_emit
      | refine .next ?_
    | split | dsimp +zetaDelta only | decide

theorem frames_calOvercurrent (n) (current) (s : State) : Frames [.cal, .flt, .notes, .out, .pwr, .obj 0x0A04,
    .obj 0x0C06, .obj 0x1304] s (exec (.calOvercurrent n current) s) := by
  show Frames _ s (execCalOvercurrent n current s)
  unfold execCalOvercurrent
  repeat' first
    | with_reducible first
      | assumption | exact .refl _ _ | apply touches_stringFault | refine .next ?_
    | split | dsimp +zetaDelta only | decide

theorem frames_faultCountSummary (code) (inst) (s : State) :
    Frames [.flt, .notes] s (exec (.faultCountSummary code inst) s) := by
  show Frames _ s (execFaultCountSummary code inst s)
  unfold execFaultCountSummary
  split
  · split
    · exact .next (touches_part_flt (touches_notice (.refl _ _) _ (by decide)) _ (by decide) ⟨id, id⟩)
    · exact .next (.refl _ _)
  · exact .next (.refl _ _)

theorem frames_configVote (corrected) (lost) (s : State) : Frames [.afe, .aon, .axl, .bbl, .cal, .chz, .cmp, .cnv,
    .conc, .ctl, .dah, .evt, .flt, .fst, .hk, .live, .mem, .modes, .mov, .net, .notes, .peer, .pwr, .rc64, .sun,
    .time, .trg, .regs] s (exec (.configVote corrected lost) s) := by
  show Frames _ s (execConfigVote corrected lost s)
  unfold execConfigVote
  repeat' first
    | with_reducible first
      | assumption | exact .refl _ _ | refine touches_raise_plain ?_ (by decide) _ _ _ ?_ | apply touches_raise
      | apply touches_forcedBoot | refine Touches.foldl _ _ ?_ (fun _ _ _ => ?_) | refine .next ?_
    | split | fail_if_no_progress extract_lets | dsimp +zetaDelta only | decide

theorem frames_getInfo (m) (s : State) : Frames [.ctl] s (exec (.getInfo m) s) := by
  show Frames _ s (execGetInfo m s)
  unfold execGetInfo
  repeat' first
    | with_reducible first
      | assumption | exact .refl _ _ | apply touches_commit | refine frames_runCommand (by decide) (fun _ => ?_)
      | refine .next ?_
    | split | dsimp +zetaDelta only | decide

theorem frames_cfgRead (m) (s : State) : Frames [.ctl] s (exec (.cfgRead m) s) := by
  show Frames _ s (execCfgRead m s)
  unfold execCfgRead
  repeat' first
    | with_reducible first
      | assumption | exact .refl _ _ | apply touches_commit | refine frames_runCommand (by decide) (fun _ => ?_)
      | refine .next ?_
    | split | fail_if_no_progress extract_lets | dsimp +zetaDelta only | decide

theorem frames_cfgWrite (m) (s : State) : Frames [.afe, .aon, .axl, .cal, .chz, .cmp, .ctl, .dah, .evt, .flt, .free,
    .hk, .live, .modes, .mov, .notes, .out, .pwr, .sun, .time, .trg, .regs] s (exec (.cfgWrite m) s) := by
  show Frames _ s (execCfgWrite m s)
  unfold execCfgWrite
  repeat' first
    | with_reducible first
      | assumption | exact .refl _ _ | apply touches_commit | apply touches_applyEntry
      | refine Touches.foldl _ _ ?_ (fun _ _ _ => ?_) | refine frames_runCommand (by decide) (fun _ => ?_)
      | refine .next ?_
    | split | fail_if_no_progress extract_lets | dsimp +zetaDelta only | decide

theorem frames_tableWrite (m) (data) (s : State) : Frames [.chz, .ctl, .flt, .mov, .out, .sun, .obj 0x0406,
    .obj 0x0807, .obj 0x0907, .obj 0x0C03, .obj 0x0C04] s (exec (.tableWrite m data) s) := by
  show Frames _ s (execTableWrite m data s)
  unfold execTableWrite
  repeat' first
    | with_reducible first
      | assumption | exact .refl _ _ | apply touches_commit | apply touches_h2dTake | apply touches_tableStore
      | refine frames_runCommand (by decide) (fun _ => ?_) | refine .next ?_
    | split | fail_if_no_progress extract_lets | dsimp +zetaDelta only | decide

theorem frames_tableRead (m) (s : State) : Frames [.ctl, .mov, .pwr, .obj 0x1106] s (exec (.tableRead m) s) := by
  show Frames _ s (execTableRead m s)
  unfold execTableRead
  repeat' first
    | with_reducible first
      | assumption | exact .refl _ _ | apply touches_commit | apply touches_ringSend
      | refine frames_runCommand (by decide) (fun _ => ?_) | refine .next ?_
    | split | fail_if_no_progress extract_lets | dsimp +zetaDelta only | decide

theorem frames_softTrigger (m) (s : State) : Frames [.ctl, .free, .trg] s (exec (.softTrigger m) s) := by
  show Frames _ s (execSoftTrigger m s)
  unfold execSoftTrigger
  repeat' first
    | with_reducible first
      | assumption | exact .refl _ _ | apply touches_drawFree | apply touches_commit | apply touches_addCondition
      | apply touches_setHead | refine frames_runCommand (by decide) (fun _ => ?_) | refine .next ?_
    | split | fail_if_no_progress extract_lets | dsimp +zetaDelta only | decide

theorem frames_integStop (m) (s : State) : Frames [.ctl, .dah] s (exec (.integStop m) s) := by
  show Frames _ s (execIntegStop m s)
  unfold execIntegStop
  repeat' first
    | with_reducible first
      | assumption | exact .refl _ _ | apply touches_commit | apply touches_dahStop
      | refine frames_runCommand (by decide) (fun _ => ?_) | refine .next ?_
    | split | fail_if_no_progress extract_lets | dsimp +zetaDelta only | decide

theorem frames_probeSweep (m) (readings) (s : State) : Frames [.afe, .ctl, .free, .live, .mov, .pwr, .obj 0x1106] s
    (exec (.probeSweep m readings) s) := by
  show Frames _ s (execProbeSweep m readings s)
  unfold execProbeSweep
  repeat' first
    | with_reducible first
      | assumption | exact .refl _ _ | apply touches_commit | apply touches_sweepEnds | apply touches_sweepInterval
      | apply touches_sweepBegin | apply touches_setHead | refine .next ?_
    | split | fail_if_no_progress extract_lets | dsimp +zetaDelta only | decide

theorem frames_cellCal (m) (ev) (s : State) : Frames [.bbl, .ctl, .flt, .notes, .obj 0x0205, .obj 0x0206,
    .obj 0x0509, .obj 0x0C06] s (exec (.cellCal m ev) s) := by
  show Frames _ s (execCellCal m ev s)
  unfold execCellCal
  repeat' first
    | with_reducible first
      | assumption | exact .refl _ _ | apply touches_commit | apply touches_calFreeze | apply touches_setHead
      | apply touches_calLoaded | refine .next ?_
    | split | fail_if_no_progress extract_lets | dsimp +zetaDelta only | decide

theorem frames_convCapture (m) (s : State) : Frames [.cnv, .ctl, .pwr, .obj 0x0A04, .obj 0x1011] s (exec
    (.convCapture m) s) := by
  show Frames _ s (execConvCapture m s)
  unfold execConvCapture
  repeat' first
    | with_reducible first
      | assumption | exact .refl _ _ | apply touches_commit | apply touches_domsUp | apply touches_setHead
      | apply touches_setCnv | refine frames_runCommand (by decide) (fun _ => ?_) | refine .next ?_
    | split | fail_if_no_progress extract_lets | dsimp +zetaDelta only | decide

theorem frames_faultList (m) (s : State) : Frames [.ctl] s (exec (.faultList m) s) := by
  show Frames _ s (execFaultList m s)
  unfold execFaultList
  repeat' first
    | with_reducible first
      | assumption | exact .refl _ _ | apply touches_commit | refine frames_runCommand (by decide) (fun _ => ?_)
      | refine .next ?_
    | split | fail_if_no_progress extract_lets | dsimp +zetaDelta only | decide

theorem frames_faultAck (m) (s : State) : Frames [.ctl, .flt, .notes, .pwr, .obj 0x0C06] s (exec (.faultAck m) s)
    := by
  show Frames _ s (execFaultAck m s)
  unfold execFaultAck
  repeat' first
    | with_reducible first
      | assumption | exact .refl _ _ | apply touches_commit | apply touches_acknowledge
      | refine Touches.foldl _ _ ?_ (fun _ _ _ => ?_) | refine frames_runCommand (by decide) (fun _ => ?_)
      | refine .next ?_
    | split | fail_if_no_progress extract_lets | dsimp +zetaDelta only | decide

theorem frames_logRead (m) (s : State) : Frames [.cmp, .ctl, .mov, .pwr, .obj 0x0A04, .obj 0x1011, .obj 0x1106] s
    (exec (.logRead m) s) := by
  show Frames _ s (execLogRead m s)
  unfold execLogRead
  repeat' first
    | with_reducible first
      | assumption | exact .refl _ _ | apply touches_commit | apply touches_ringSend | apply touches_queueJob
      | apply touches_setHead | refine frames_runCommand (by decide) (fun _ => ?_) | refine .next ?_
    | split | fail_if_no_progress extract_lets | dsimp +zetaDelta only | decide

theorem frames_compress (m) (data) (s : State) : Frames [.cmp, .ctl, .mov, .out, .pwr, .obj 0x0A04, .obj 0x0C03,
    .obj 0x0C04, .obj 0x1011, .obj 0x1106] s (exec (.compress m data) s) := by
  show Frames _ s (execCompress m data s)
  unfold execCompress
  repeat' first
    | with_reducible first
      | assumption | exact .refl _ _ | apply touches_commit | apply touches_queueJob | apply touches_startWithData
      | refine frames_runCommand (by decide) (fun _ => ?_) | refine .next ?_
    | split | fail_if_no_progress extract_lets | dsimp +zetaDelta only | decide

theorem frames_decompress (m) (data) (s : State) : Frames [.cmp, .ctl, .mov, .out, .pwr, .obj 0x0A04, .obj 0x0C03,
    .obj 0x0C04, .obj 0x1011, .obj 0x1106] s (exec (.decompress m data) s) := by
  show Frames _ s (execDecompress m data s)
  unfold execDecompress
  repeat' first
    | with_reducible first
      | assumption | exact .refl _ _ | apply touches_commit | apply touches_queueJob | apply touches_startWithData
      | refine frames_runCommand (by decide) (fun _ => ?_) | refine .next ?_
    | split | fail_if_no_progress extract_lets | dsimp +zetaDelta only | decide

theorem frames_imageLoad (m) (data) (s : State) : Frames [.afe, .aon, .axl, .bbl, .cal, .chz, .cmp, .cnv, .ctl,
    .dah, .evt, .flt, .free, .fst, .hk, .live, .mem, .modes, .mov, .notes, .out, .peer, .pwr, .sun, .time, .trg,
    .regs] s (exec (.imageLoad m data) s) := by
  show Frames _ s (execImageLoad m data s)
  unfold execImageLoad
  repeat' first
    | with_reducible first
      | assumption | exact .refl _ _ | apply touches_commit | apply touches_loadStarts | apply touches_h2dTake
      | apply touches_loadEnds | apply touches_setHead | apply touches_takeOffer | apply touches_setCtl
      | refine frames_runCommand (by decide) (fun _ => ?_) | refine .next ?_
    | split | fail_if_no_progress extract_lets | dsimp +zetaDelta only | decide

theorem frames_imageFlash (m) (ok) (s : State) : Frames [.ctl] s (exec (.imageFlash m ok) s) := by
  show Frames _ s (execImageFlash m ok s)
  unfold execImageFlash
  repeat' first
    | with_reducible first
      | assumption | exact .refl _ _ | apply touches_flashStep | apply touches_commit | apply touches_setHead
      | apply touches_setSlot | refine .next ?_
    | split | fail_if_no_progress extract_lets | dsimp +zetaDelta only | decide

theorem frames_imageServe (m) (s : State) : Frames [.axl, .ctl, .out, .peer, .obj 0x0D05] s (exec (.imageServe m) s)
    := by
  show Frames _ s (execImageServe m s)
  unfold execImageServe
  repeat' first
    | with_reducible first
      | assumption | exact .refl _ _ | apply touches_commit | apply touches_setCtl | apply touches_imageMessage
      | refine Touches.foldl _ _ ?_ (fun _ _ _ => ?_) | refine frames_runCommand (by decide) (fun _ => ?_)
      | refine .next ?_
    | split | fail_if_no_progress extract_lets | dsimp +zetaDelta only | decide

theorem frames_rollbackCommit (m) (failed) (s : State) : Frames [.ctl] s (exec (.rollbackCommit m failed) s) := by
  show Frames _ s (execRollbackCommit m failed s)
  unfold execRollbackCommit
  repeat' first
    | with_reducible first
      | assumption | exact .refl _ _ | apply touches_commit | apply touches_setCtl
      | refine frames_runCommand (by decide) (fun _ => ?_) | refine .next ?_
    | split | fail_if_no_progress extract_lets | dsimp +zetaDelta only | decide

theorem frames_boot (m) (s : State) : Frames [.ctl] s (exec (.boot m) s) := by
  show Frames _ s (execBoot m s)
  unfold execBoot
  repeat' first
    | with_reducible first
      | assumption | exact .refl _ _ | apply touches_commit | apply touches_setCtl
      | refine frames_runCommand (by decide) (fun _ => ?_) | refine .next ?_
    | split | fail_if_no_progress extract_lets | dsimp +zetaDelta only | decide

theorem frames_ringDataTimeout (m) (s : State) : Frames [.ctl] s (exec (.ringDataTimeout m) s) := by
  show Frames _ s (execRingDataTimeout m s)
  unfold execRingDataTimeout
  repeat' first
    | with_reducible first
      | assumption | exact .refl _ _ | apply touches_commit | refine .next ?_
    | split | dsimp +zetaDelta only | decide

theorem frames_flashImageRead (bundle) (s : State) : Frames [.afe, .aon, .axl, .bbl, .cal, .chz, .cmp, .cnv, .conc,
    .ctl, .dah, .evt, .flt, .free, .fst, .hk, .live, .mem, .modes, .mov, .net, .notes, .out, .peer, .pwr, .rc64,
    .sun, .time, .trg, .regs] s (exec (.flashImageRead bundle) s) := by
  show Frames _ s (execFlashImageRead bundle s)
  unfold execFlashImageRead
  repeat' first
    | with_reducible first
      | assumption | exact .refl _ _ | apply touches_bundleRead | apply touches_firmwareRead | refine .next ?_
    | split | dsimp +zetaDelta only | decide

theorem frames_prbsCheckerLock (l) (d) (s : State) : Frames [.axl, .obj 0x0D06] s (exec (.prbsCheckerLock l d) s)
    := by
  show Frames _ s (execPrbsCheckerLock l d s)
  unfold execPrbsCheckerLock
  repeat' first
    | with_reducible first
      | assumption | exact .refl _ _ | apply touches_setLink | apply touches_wr | refine .next ?_
    | split | dsimp +zetaDelta only | decide

theorem frames_pinPulseFiltered (pin) (s : State) : Frames [.flt, .notes, .obj 0x0C06] s (exec (.pinPulseFiltered
    pin) s) := by
  show Frames _ s (execPinPulseFiltered pin s)
  unfold execPinPulseFiltered
  repeat' first
    | with_reducible first
      | assumption | exact .refl _ _ | refine touches_raise_plain ?_ (by decide) _ _ _ ?_ | apply touches_raise
      | refine .next ?_
    | split | dsimp +zetaDelta only | decide

theorem frames_retryHigh (l) (s : State) : Frames [.axl, .flt, .notes, .obj 0x0C06] s (exec (.retryHigh l) s) := by
  show Frames _ s (execRetryHigh l s)
  unfold execRetryHigh
  repeat' first
    | with_reducible first
      | assumption | exact .refl _ _ | apply touches_setAxPort | refine touches_raiseAxrel ?_ (by decide) _ _ _ ?_
      | apply touches_clearFault | refine .next ?_
    | split | fail_if_no_progress extract_lets | dsimp +zetaDelta only | decide

theorem frames_laneErrors (l) (d) (s : State) : Frames [.axl, .flt, .notes, .obj 0x0C06] s (exec (.laneErrors l d)
    s) := by
  show Frames _ s (execLaneErrors l d s)
  unfold execLaneErrors
  repeat' first
    | with_reducible first
      | assumption | exact .refl _ _ | apply touches_setLink | refine touches_raiseAxrel ?_ (by decide) _ _ _ ?_
      | refine .next ?_
    | split | fail_if_no_progress extract_lets | dsimp +zetaDelta only | decide

theorem frames_netFecUncorrected (port) (corrected) (uncorrected) (s : State) : Frames [.flt, .notes, .obj 0x0C06,
    .obj 0x0F04] s (exec (.netFecUncorrected port corrected uncorrected) s) := by
  show Frames _ s (execNetFecUncorrected port corrected uncorrected s)
  unfold execNetFecUncorrected
  repeat' first
    | with_reducible first
      | assumption | exact .refl _ _ | apply touches_bump | refine touches_raise_plain ?_ (by decide) _ _ _ ?_
      | apply touches_raise | refine .next ?_
    | split | fail_if_no_progress extract_lets | dsimp +zetaDelta only | decide

theorem frames_shedLaneReadaptation (l) (d) (s : State) : Frames [.axl, .out] s (exec (.shedLaneReadaptation l d) s)
    := by
  show Frames _ s (execShedLaneReadaptation l d s)
  unfold execShedLaneReadaptation
  repeat' first
    | with_reducible first
      | assumption | exact .refl _ _ | apply touches_setLink | apply touches_emit | refine .next ?_
    | split | dsimp +zetaDelta only | decide

theorem frames_capabilityRecordResend (l) (s : State) : Frames [.out] s (exec (.capabilityRecordResend l) s) := by
  show Frames _ s (execCapabilityRecordResend l s)
  unfold execCapabilityRecordResend
  repeat' first
    | with_reducible first
      | assumption | exact .refl _ _ | apply touches_emit | refine .next ?_
    | split | dsimp +zetaDelta only | decide

theorem frames_pmeTurnOff (s : State) : Frames [.aon, .ctl, .out, .pwr, .obj 0x0A04, .obj 0x1011] s (exec
    .pmeTurnOff s) := by
  show Frames _ s (execPmeTurnOff s)
  unfold execPmeTurnOff
  repeat' first
    | with_reducible first
      | assumption | exact .refl _ _ | apply touches_fallDown | apply touches_emit | refine .next ?_
    | split | dsimp +zetaDelta only | decide

theorem frames_pmeWaitTimeout (s : State) : Frames [.aon, .ctl, .out, .pwr, .obj 0x0A04, .obj 0x1011] s (exec
    .pmeWaitTimeout s) := by
  show Frames _ s (execPmeWaitTimeout s)
  unfold execPmeWaitTimeout
  repeat' first
    | with_reducible first
      | assumption | exact .refl _ _ | apply touches_fallDown | apply touches_emit | refine .next ?_
    | split | dsimp +zetaDelta only | decide

theorem frames_alarmWake (s : State) : Frames [.aon, .flt, .modes, .notes, .out, .pwr, .obj 0x0A04, .obj 0x0C06,
    .obj 0x1011, .obj 0x1402, .obj 0x1403] s (exec .alarmWake s) := by
  show Frames _ s (execAlarmWake s)
  unfold execAlarmWake
  repeat' first
    | with_reducible first
      | assumption | exact .refl _ _ | apply touches_wr | apply touches_latchWake | refine .next ?_
    | split | fail_if_no_progress extract_lets | dsimp +zetaDelta only | decide

theorem frames_minOffExpired (s : State) : Frames [.aon, .modes, .out, .obj 0x1403] s (exec .minOffExpired s) := by
  show Frames _ s (execMinOffExpired s)
  unfold execMinOffExpired
  repeat' first
    | with_reducible first
      | assumption | exact .refl _ _ | apply touches_wakeDormant | refine .next ?_
    | split | dsimp +zetaDelta only | decide

theorem frames_aonOvercurrent (s : State) : Frames [.aon, .flt, .modes, .notes, .obj 0x0C06, .obj 0x1011] s (exec
    .aonOvercurrent s) := by
  show Frames _ s (execAonOvercurrent s)
  unfold execAonOvercurrent
  repeat' first
    | with_reducible first
      | assumption | exact .refl _ _ | refine touches_raise_plain ?_ (by decide) _ _ _ ?_ | apply touches_raise
      | apply touches_setAon | refine .next ?_
    | split | dsimp +zetaDelta only | decide

theorem frames_hkStart (s : State) : Frames [.hk, .live, .pwr, .obj 0x0A04, .obj 0x1011, .obj 0x1204] s (exec
    .hkStart s) := by
  show Frames _ s (execHkStart s)
  unfold execHkStart
  repeat' first
    | with_reducible first
      | assumption | exact .refl _ _ | apply touches_hkRequest | refine .next ?_
    | split | dsimp +zetaDelta only | decide

theorem frames_hkStop (s : State) : Frames [.hk, .pwr, .obj 0x0A04, .obj 0x1204] s (exec .hkStop s) := by
  show Frames _ s (execHkStop s)
  unfold execHkStop
  repeat' first
    | with_reducible first
      | assumption | exact .refl _ _ | apply touches_hkStopWrite | refine .next ?_
    | split | dsimp +zetaDelta only | decide

theorem frames_hkDelayExpired (s : State) : Frames [.hk, .pwr, .obj 0x0A04, .obj 0x1011, .obj 0x1204] s (exec
    .hkDelayExpired s) := by
  show Frames _ s (execHkDelayExpired s)
  unfold execHkDelayExpired
  repeat' first
    | with_reducible first
      | assumption | exact .refl _ _ | apply touches_showHk | apply touches_convBegin | apply touches_setHk
      | refine .next ?_
    | split | fail_if_no_progress extract_lets | dsimp +zetaDelta only | decide

theorem frames_hkWakeTimer (s : State) : Frames [.pwr, .obj 0x0A04, .obj 0x1011] s (exec .hkWakeTimer s) := by
  show Frames _ s (execHkWakeTimer s)
  unfold execHkWakeTimer
  repeat' first
    | with_reducible first
      | assumption | exact .refl _ _ | apply touches_domUp | refine .next ?_
    | split | dsimp +zetaDelta only | decide

theorem frames_hkBufferCopy (s : State) : Frames [.flt, .hk, .notes, .obj 0x0C06] s (exec .hkBufferCopy s) := by
  show Frames _ s (execHkBufferCopy s)
  unfold execHkBufferCopy
  repeat' first
    | with_reducible first
      | assumption | exact .refl _ _ | apply touches_ringRecord | apply touches_setHk
      | refine Touches.foldl _ _ ?_ (fun _ _ _ => ?_) | refine .next ?_
    | split | dsimp +zetaDelta only | decide

theorem frames_statPeriod (s : State) : Frames [.hk, .out] s (exec .statPeriod s) := by
  show Frames _ s (execStatPeriod s)
  unfold execStatPeriod
  repeat' first
    | with_reducible first
      | assumption | exact .refl _ _ | apply touches_emit | apply touches_setHk | refine .next ?_
    | split | dsimp +zetaDelta only | decide

theorem frames_heartbeatStall (s : State) : Frames [.hk, .out] s (exec .heartbeatStall s) := by
  show Frames _ s (execHeartbeatStall s)
  unfold execHeartbeatStall
  repeat' first
    | with_reducible first
      | assumption | exact .refl _ _ | apply touches_emit | apply touches_setHk | refine .next ?_
    | split | dsimp +zetaDelta only | decide

theorem frames_drainLimitExpired (s : State) : Frames [.axl, .conc, .dah, .evt, .flt, .hk, .modes, .mov, .net,
    .notes, .peer, .sun, .obj 0x0C06, .obj 0x0F04] s (exec .drainLimitExpired s) := by
  show Frames _ s (execDrainLimitExpired s)
  unfold execDrainLimitExpired
  repeat' first
    | with_reducible first
      | assumption | exact .refl _ _ | apply touches_setEvt | apply touches_outputsAbandoned
      | apply touches_unkeptDropped | apply touches_setModes | refine .next ?_
    | split | fail_if_no_progress extract_lets | dsimp +zetaDelta only | decide

theorem frames_pcieLinkLeavesL2 (s : State) : Frames [.aon, .out] s (exec .pcieLinkLeavesL2 s) := by
  show Frames _ s (execPcieLinkLeavesL2 s)
  unfold execPcieLinkLeavesL2
  repeat' first
    | with_reducible first
      | assumption | exact .refl _ _ | apply touches_emit | apply touches_setAon | refine .next ?_
    | split | dsimp +zetaDelta only | decide

theorem frames_trigBusy (s : State) : Frames [.flt, .notes, .trg, .obj 0x0C06] s (exec .trigBusy s) := by
  show Frames _ s (execTrigBusy s)
  unfold execTrigBusy
  repeat' first
    | with_reducible first
      | assumption | exact .refl _ _ | apply touches_setTrg | refine touches_raise_plain ?_ (by decide) _ _ _ ?_
      | apply touches_raise | apply touches_clearFault | refine .next ?_
    | split | fail_if_no_progress extract_lets | dsimp +zetaDelta only | decide

theorem frames_verifyRecurring (s : State) : Frames [.flt, .notes, .obj 0x0C06] s (exec .verifyRecurring s) := by
  show Frames _ s (execVerifyRecurring s)
  unfold execVerifyRecurring
  repeat' first
    | with_reducible first
      | assumption | exact .refl _ _ | apply touches_clearFault | refine .next ?_
    | split | dsimp +zetaDelta only | decide

end Sys2Proof
end

section
/-! PROOF. The whole block: what every command and every step keeps, RC64, and the frames of the four groups, from the
frame of each command. -/

namespace Sys2Proof

-- one proof at a time, which bounds the memory of the compile
set_option Elab.async false

open Sys2Proof.Machine

/-- Every part but the queue of waiting commands. -/
def allButQueue : List Part :=
  [.regs, .live, .mem, .time, .rc64, .net, .modes, .afe, .bbl, .cnv, .chz, .trg, .evt, .cmp, .dah, .peer, .conc, .sun,
    .fst, .mov, .axl, .ctl, .pwr, .hk, .cal, .aon, .flt, .notes, .out, .free]

/-- A state that is the other one in its queue, with canonical stores and within bounds of its own, is related by every
part but the queue. -/
theorem touches_allButQueue {s t : State} (hq : t.pending = s.pending) (hs : StoresWf t) (hb : Bounded t) :
    Touches allButQueue s t := by
  refine ⟨fun p hp => ?_, fun _ => hs, fun _ => hb⟩
  cases p <;> first | exact hq | exact absurd hp (by simp [Part.within, allButQueue])

theorem storesWf_reset : StoresWf State.reset := ⟨rfl, rfl, rfl⟩

theorem bounded_reset : Bounded State.reset := by
  refine ⟨?_, ?_, ?_, ?_⟩ <;> decide

/-- Settles O7: the stores and the logs of `State.reset` are empty. -/
theorem resetIsWellFormed : Obligations.ResetIsWellFormed := ⟨storesWf_reset, bounded_reset⟩

theorem frames_vddAonPowerUp (s : State) : Frames allButQueue s (exec .vddAonPowerUp s) :=
  .next (touches_emit (touches_allButQueue (by rfl) (by exact storesWf_reset) (by exact bounded_reset)) _ (by decide))

/-- What holds of every command: it answers a next state, leaves the waiting queue alone, and leaves RC64 alone unless
it is one of those that may set it. -/
theorem exec_frames (c : Instr) (s : State) : ∃ ps, Frames ps s (exec c s) ∧ Part.pending.within ps = false
    ∧ (setsRc64 c || !Part.rc64.within ps) = true :=
  match c with
  | .modePlanWrite plan mailbox seq => ⟨_, frames_modePlanWrite plan mailbox seq s, rfl, rfl⟩
  | .transitionCheck => ⟨_, frames_transitionCheck s, rfl, rfl⟩
  | .drainComplete => ⟨_, frames_drainComplete s, rfl, rfl⟩
  | .downComplete => ⟨_, frames_downComplete s, rfl, rfl⟩
  | .upComplete => ⟨_, frames_upComplete s, rfl, rfl⟩
  | .transitionStartDone => ⟨_, frames_transitionStartDone s, rfl, rfl⟩
  | .peerSyncTimeout => ⟨_, frames_peerSyncTimeout s, rfl, rfl⟩
  | .powerGoodTimeout d => ⟨_, frames_powerGoodTimeout d s, rfl, rfl⟩
  | .pllLockTimeout => ⟨_, frames_pllLockTimeout s, rfl, rfl⟩
  | .converterCalTimeout g => ⟨_, frames_converterCalTimeout g s, rfl, rfl⟩
  | .converterCalConverged => ⟨_, frames_converterCalConverged s, rfl, rfl⟩
  | .railsGoodTimeout => ⟨_, frames_railsGoodTimeout s, rfl, rfl⟩
  | .clampTrip idx => ⟨_, frames_clampTrip idx s, rfl, rfl⟩
  | .clampRelease idx => ⟨_, frames_clampRelease idx s, rfl, rfl⟩
  | .clampLong idx => ⟨_, frames_clampLong idx s, rfl, rfl⟩
  | .arcEvaluation idx => ⟨_, frames_arcEvaluation idx s, rfl, rfl⟩
  | .frameBoundary => ⟨_, frames_frameBoundary s, rfl, rfl⟩
  | .rangeForced idx => ⟨_, frames_rangeForced idx s, rfl, rfl⟩
  | .probeIntervalEnd idx r => ⟨_, frames_probeIntervalEnd idx r s, rfl, rfl⟩
  | .rmsWindowEnd idx => ⟨_, frames_rmsWindowEnd idx s, rfl, rfl⟩
  | .segmentBoundary => ⟨_, frames_segmentBoundary s, rfl, rfl⟩
  | .freezeStrobe => ⟨_, frames_freezeStrobe s, rfl, rfl⟩
  | .envelopeCrossing idx half => ⟨_, frames_envelopeCrossing idx half s, rfl, rfl⟩
  | .windowConversionStart => ⟨_, frames_windowConversionStart s, rfl, rfl⟩
  | .segmentConverted raw => ⟨_, frames_segmentConverted raw s, rfl, rfl⟩
  | .windowReadoutDone => ⟨_, frames_windowReadoutDone s, rfl, rfl⟩
  | .digitizerIdleTimeout => ⟨_, frames_digitizerIdleTimeout s, rfl, rfl⟩
  | .captureWakeSetReady => ⟨_, frames_captureWakeSetReady s, rfl, rfl⟩
  | .captureLingerExpired => ⟨_, frames_captureLingerExpired s, rfl, rfl⟩
  | .tjSensorRead tj => ⟨_, frames_tjSensorRead tj s, rfl, rfl⟩
  | .calStale => ⟨_, frames_calStale s, rfl, rfl⟩
  | .converterWord w => ⟨_, frames_converterWord w s, rfl, rfl⟩
  | .trigoutWidthEnd => ⟨_, frames_trigoutWidthEnd s, rfl, rfl⟩
  | .triginEdge level stable => ⟨_, frames_triginEdge level stable s, rfl, rfl⟩
  | .axrelTriggerMessage port m => ⟨_, frames_axrelTriggerMessage port m s, rfl, rfl⟩
  | .holdoffEnd => ⟨_, frames_holdoffEnd s, rfl, rfl⟩
  | .triggerRecordRelease => ⟨_, frames_triggerRecordRelease s, rfl, rfl⟩
  | .bucketToken => ⟨_, frames_bucketToken s, rfl, rfl⟩
  | .cnvCalUpdate estimator => ⟨_, frames_cnvCalUpdate estimator s, rfl, rfl⟩
  | .cnvCoeffStore => ⟨_, frames_cnvCoeffStore s, rfl, rfl⟩
  | .spectrumComplete upsets => ⟨_, frames_spectrumComplete upsets s, rfl, rfl⟩
  | .spectrumDeadlineMiss sunPath => ⟨_, frames_spectrumDeadlineMiss sunPath s, rfl, rfl⟩
  | .blockBoundary images => ⟨_, frames_blockBoundary images s, rfl, rfl⟩
  | .fragmentReserve => ⟨_, frames_fragmentReserve s, rfl, rfl⟩
  | .segmentToEvent => ⟨_, frames_segmentToEvent s, rfl, rfl⟩
  | .fragmentBuilt => ⟨_, frames_fragmentBuilt s, rfl, rfl⟩
  | .fragmentSend serial => ⟨_, frames_fragmentSend serial s, rfl, rfl⟩
  | .fragmentAnnounce serial => ⟨_, frames_fragmentAnnounce serial s, rfl, rfl⟩
  | .fragmentTransferDone serial => ⟨_, frames_fragmentTransferDone serial s, rfl, rfl⟩
  | .fragmentOfferTimer serial => ⟨_, frames_fragmentOfferTimer serial s, rfl, rfl⟩
  | .replyAccept serial => ⟨_, frames_replyAccept serial s, rfl, rfl⟩
  | .replyReject serial => ⟨_, frames_replyReject serial s, rfl, rfl⟩
  | .replyRequest serial globalId => ⟨_, frames_replyRequest serial globalId s, rfl, rfl⟩
  | .startNow => ⟨_, frames_startNow s, rfl, rfl⟩
  | .integrationStart => ⟨_, frames_integrationStart s, rfl, rfl⟩
  | .dahliaBlockDiscard => ⟨_, frames_dahliaBlockDiscard s, rfl, rfl⟩
  | .dahliaGroup upsets => ⟨_, frames_dahliaGroup upsets s, rfl, rfl⟩
  | .dahliaGroupMissing => ⟨_, frames_dahliaGroupMissing s, rfl, rfl⟩
  | .dumpWait us => ⟨_, frames_dumpWait us s, rfl, rfl⟩
  | .integrationStopBoundary => ⟨_, frames_integrationStopBoundary s, rfl, rfl⟩
  | .closingPassDone => ⟨_, frames_closingPassDone s, rfl, rfl⟩
  | .peerReadyTimer => ⟨_, frames_peerReadyTimer s, rfl, rfl⟩
  | .groupReady l m => ⟨_, frames_groupReady l m s, rfl, rfl⟩
  | .groupGo l m => ⟨_, frames_groupGo l m s, rfl, rfl⟩
  | .groupStop l m => ⟨_, frames_groupStop l m s, rfl, rfl⟩
  | .groupLeave l m => ⟨_, frames_groupLeave l m s, rfl, rfl⟩
  | .peerStartBlock => ⟨_, frames_peerStartBlock s, rfl, rfl⟩
  | .peerStopBoundary => ⟨_, frames_peerStopBoundary s, rfl, rfl⟩
  | .peerPacket l k => ⟨_, frames_peerPacket l k s, rfl, rfl⟩
  | .peerBufferClose => ⟨_, frames_peerBufferClose s, rfl, rfl⟩
  | .peerSendAgeDiscard => ⟨_, frames_peerSendAgeDiscard s, rfl, rfl⟩
  | .peerMemberLost m => ⟨_, frames_peerMemberLost m s, rfl, rfl⟩
  | .concFragmentArrival l a => ⟨_, frames_concFragmentArrival l a s, rfl, rfl⟩
  | .concAnnouncementArrival l a => ⟨_, frames_concAnnouncementArrival l a s, rfl, rfl⟩
  | .buildTimeout => ⟨_, frames_buildTimeout s, rfl, rfl⟩
  | .fetchTimeout => ⟨_, frames_fetchTimeout s, rfl, rfl⟩
  | .concGone l chip serial => ⟨_, frames_concGone l chip serial s, rfl, rfl⟩
  | .interferometryDone => ⟨_, frames_interferometryDone s, rfl, rfl⟩
  | .sunGroup upsets => ⟨_, frames_sunGroup upsets s, rfl, rfl⟩
  | .sunArm => ⟨_, frames_sunArm s, rfl, rfl⟩
  | .sunDisarm => ⟨_, frames_sunDisarm s, rfl, rfl⟩
  | .sunCopy => ⟨_, frames_sunCopy s, rfl, rfl⟩
  | .sunSwitchNow => ⟨_, frames_sunSwitchNow s, rfl, rfl⟩
  | .setSwitch => ⟨_, frames_setSwitch s, rfl, rfl⟩
  | .contextAged => ⟨_, frames_contextAged s, rfl, rfl⟩
  | .fstMasterRead src n r w syndrome => ⟨_, frames_fstMasterRead src n r w syndrome s, rfl, rfl⟩
  | .fstWrite master n r w strobes data poison syndrome =>
      ⟨_, frames_fstWrite master n r w strobes data poison syndrome s, rfl, rfl⟩
  | .scrubRead n r words last => ⟨_, frames_scrubRead n r words last s, rfl, rfl⟩
  | .scrubLate => ⟨_, frames_scrubLate s, rfl, rfl⟩
  | .retfailLatch n => ⟨_, frames_retfailLatch n s, rfl, rfl⟩
  | .bankWakeCheck n words => ⟨_, frames_bankWakeCheck n words s, rfl, rfl⟩
  | .halfBankInitDone n h => ⟨_, frames_halfBankInitDone n h s, rfl, rfl⟩
  | .frBlockCoded replicaFails => ⟨_, frames_frBlockCoded replicaFails s, rfl, rfl⟩
  | .verifyTest => ⟨_, frames_verifyTest s, rfl, rfl⟩
  | .compressionJobStart e => ⟨_, frames_compressionJobStart e s, rfl, rfl⟩
  | .compressionJobEnd e => ⟨_, frames_compressionJobEnd e s, rfl, rfl⟩
  | .matrixTransaction a => ⟨_, frames_matrixTransaction a s, rfl, rfl⟩
  | .beatTimeout a => ⟨_, frames_beatTimeout a s, rfl, rfl⟩
  | .resetInBurst a => ⟨_, frames_resetInBurst a s, rfl, rfl⟩
  | .queuePacketSend q err which => ⟨_, frames_queuePacketSend q err which s, rfl, rfl⟩
  | .creditReturn q => ⟨_, frames_creditReturn q s, rfl, rfl⟩
  | .clockGateStop block => ⟨_, frames_clockGateStop block s, rfl, rfl⟩
  | .lossyTailWrite q packet => ⟨_, frames_lossyTailWrite q packet s, rfl, rfl⟩
  | .ringDoorbell r tail => ⟨_, frames_ringDoorbell r tail s, rfl, rfl⟩
  | .ringKindWrite r kind => ⟨_, frames_ringKindWrite r kind s, rfl, rfl⟩
  | .dmaRecordWrite r src => ⟨_, frames_dmaRecordWrite r src s, rfl, rfl⟩
  | .coalesceTimeout r => ⟨_, frames_coalesceTimeout r s, rfl, rfl⟩
  | .descriptorFetchDone r addr len ctrl rsv error =>
      ⟨_, frames_descriptorFetchDone r addr len ctrl rsv error s, rfl, rfl⟩
  | .cplTimeout r => ⟨_, frames_cplTimeout r s, rfl, rfl⟩
  | .ringNoBuffer r => ⟨_, frames_ringNoBuffer r s, rfl, rfl⟩
  | .netRecordSend src => ⟨_, frames_netRecordSend src s, rfl, rfl⟩
  | .linkTrainStart l => ⟨_, frames_linkTrainStart l s, rfl, rfl⟩
  | .partnerClockStable l unchanged => ⟨_, frames_partnerClockStable l unchanged s, rfl, rfl⟩
  | .baseLocked l lanes => ⟨_, frames_baseLocked l lanes s, rfl, rfl⟩
  | .capabilityRecord l record => ⟨_, frames_capabilityRecord l record s, rfl, rfl⟩
  | .speedDone l lanes => ⟨_, frames_speedDone l lanes s, rfl, rfl⟩
  | .portDeskew l late => ⟨_, frames_portDeskew l late s, rfl, rfl⟩
  | .trainStepOverrun l => ⟨_, frames_trainStepOverrun l s, rfl, rfl⟩
  | .retrainTimer l => ⟨_, frames_retrainTimer l s, rfl, rfl⟩
  | .laneLockLoss l d => ⟨_, frames_laneLockLoss l d s, rfl, rfl⟩
  | .mapreq l mapId map => ⟨_, frames_mapreq l mapId map s, rfl, rfl⟩
  | .mapreqResend l => ⟨_, frames_mapreqResend l s, rfl, rfl⟩
  | .map l mapId map => ⟨_, frames_map l mapId map s, rfl, rfl⟩
  | .am l d bipOk => ⟨_, frames_am l d bipOk s, rfl, rfl⟩
  | .laneRejoin l d => ⟨_, frames_laneRejoin l d s, rfl, rfl⟩
  | .clockLoss l => ⟨_, frames_clockLoss l s, rfl, rfl⟩
  | .axrelFrame l f => ⟨_, frames_axrelFrame l f s, rfl, rfl⟩
  | .ack l seq => ⟨_, frames_ack l seq s, rfl, rfl⟩
  | .nak l seq => ⟨_, frames_nak l seq s, rfl, rfl⟩
  | .ackTimeout l => ⟨_, frames_ackTimeout l s, rfl, rfl⟩
  | .credit l vc total => ⟨_, frames_credit l vc total s, rfl, rfl⟩
  | .ackCreditTimer l => ⟨_, frames_ackCreditTimer l s, rfl, rfl⟩
  | .lpiEntry l => ⟨_, frames_lpiEntry l s, rfl, rfl⟩
  | .lpiRefresh l => ⟨_, frames_lpiRefresh l s, rfl, rfl⟩
  | .wake l => ⟨_, frames_wake l s, rfl, rfl⟩
  | .imageOffer l kind total => ⟨_, frames_imageOffer l kind total s, rfl, rfl⟩
  | .imageRequest l offset count => ⟨_, frames_imageRequest l offset count s, rfl, rfl⟩
  | .imageData l offset data => ⟨_, frames_imageData l offset data s, rfl, rfl⟩
  | .imageDone l => ⟨_, frames_imageDone l s, rfl, rfl⟩
  | .imageAbort l => ⟨_, frames_imageAbort l s, rfl, rfl⟩
  | .imageChunkRetry => ⟨_, frames_imageChunkRetry s, rfl, rfl⟩
  | .testPayload l => ⟨_, frames_testPayload l s, rfl, rfl⟩
  | .errInject l => ⟨_, frames_errInject l s, rfl, rfl⟩
  | .ref10mLost => ⟨_, frames_ref10mLost s, rfl, rfl⟩
  | .ref10mReturn => ⟨_, frames_ref10mReturn s, rfl, rfl⟩
  | .phaseSlewDone => ⟨_, frames_phaseSlewDone s, rfl, rfl⟩
  | .dormantRefReturn => ⟨_, frames_dormantRefReturn s, rfl, rfl⟩
  | .ppsEdge lead => ⟨_, frames_ppsEdge lead s, rfl, rfl⟩
  | .ppsLost => ⟨_, frames_ppsLost s, rfl, rfl⟩
  | .bootPpsWaitTimeout => ⟨_, frames_bootPpsWaitTimeout s, rfl, rfl⟩
  | .incWrite inc atPps => ⟨_, frames_incWrite inc atPps s, rfl, rfl⟩
  | .incApply => ⟨_, frames_incApply s, rfl, rfl⟩
  | .timeSet sec nsec atPps => ⟨_, frames_timeSet sec nsec atPps s, rfl, rfl⟩
  | .timeStep stepNs atPps => ⟨_, frames_timeStep stepNs atPps s, rfl, rfl⟩
  | .timeOpApply => ⟨_, frames_timeOpApply s, rfl, rfl⟩
  | .timCmpWrite c w => ⟨_, frames_timCmpWrite c w s, rfl, rfl⟩
  | .comparatorFire c => ⟨_, frames_comparatorFire c s, rfl, rfl⟩
  | .netFrame port bytes before after => ⟨_, frames_netFrame port bytes before after s, rfl, rfl⟩
  | .netLinkDown port lost => ⟨_, frames_netLinkDown port lost s, rfl, rfl⟩
  | .netLinkUp port cr4 bypass => ⟨_, frames_netLinkUp port cr4 bypass s, rfl, rfl⟩
  | .anRestart port => ⟨_, frames_anRestart port s, rfl, rfl⟩
  | .selfCheck a b => ⟨_, frames_selfCheck a b s, rfl, rfl⟩
  | .compareMismatch => ⟨_, frames_compareMismatch s, rfl, rfl⟩
  | .warmRestartDone residentOk => ⟨_, frames_warmRestartDone residentOk s, rfl, rfl⟩
  | .resyncDone => ⟨_, frames_resyncDone s, rfl, rfl⟩
  | .resyncTimeout => ⟨_, frames_resyncTimeout s, rfl, rfl⟩
  | .leadReturn => ⟨_, frames_leadReturn s, rfl, rfl⟩
  | .heartbeat => ⟨_, frames_heartbeat s, rfl, rfl⟩
  | .mailboxDoorbell m len frame => ⟨_, frames_mailboxDoorbell m len frame s, rfl, rfl⟩
  | .completionWrite m => ⟨_, frames_completionWrite m s, rfl, rfl⟩
  | .noticeWrite => ⟨_, frames_noticeWrite s, rfl, rfl⟩
  | .noticeLost => ⟨_, frames_noticeLost s, rfl, rfl⟩
  | .completionRingSetup ring word wide v => ⟨_, frames_completionRingSetup ring word wide v s, rfl, rfl⟩
  | .bar0DiscardedWrite => ⟨_, frames_bar0DiscardedWrite s, rfl, rfl⟩
  | .bar2Read off words syndromes => ⟨_, frames_bar2Read off words syndromes s, rfl, rfl⟩
  | .bar2Write => ⟨_, frames_bar2Write s, rfl, rfl⟩
  | .halfReadLow who bar2 off syndrome => ⟨_, frames_halfReadLow who bar2 off syndrome s, rfl, rfl⟩
  | .halfReadHigh who => ⟨_, frames_halfReadHigh who s, rfl, rfl⟩
  | .pornRelease chipId bootSrc testEn disagree found =>
      ⟨_, frames_pornRelease chipId bootSrc testEn disagree found s, rfl, rfl⟩
  | .pornAssert long => ⟨_, frames_pornAssert long s, rfl, rfl⟩
  | .bootRefTimeout => ⟨_, frames_bootRefTimeout s, rfl, rfl⟩
  | .bootIdleReached => ⟨_, frames_bootIdleReached s, rfl, rfl⟩
  | .bootTimeout => ⟨_, frames_bootTimeout s, rfl, rfl⟩
  | .bootCommandReboot => ⟨_, frames_bootCommandReboot s, rfl, rfl⟩
  | .vddAonPowerUp => ⟨_, frames_vddAonPowerUp s, rfl, rfl⟩
  | .governorGrant => ⟨_, frames_governorGrant s, rfl, rfl⟩
  | .domainPowerGood d => ⟨_, frames_domainPowerGood d s, rfl, rfl⟩
  | .sleepAck d => ⟨_, frames_sleepAck d s, rfl, rfl⟩
  | .sleepDefer d => ⟨_, frames_sleepDefer d s, rfl, rfl⟩
  | .sleepRefuse d => ⟨_, frames_sleepRefuse d s, rfl, rfl⟩
  | .sleepRetry d => ⟨_, frames_sleepRetry d s, rfl, rfl⟩
  | .sleepStalled d => ⟨_, frames_sleepStalled d s, rfl, rfl⟩
  | .ballastPark d => ⟨_, frames_ballastPark d s, rfl, rfl⟩
  | .latchup d => ⟨_, frames_latchup d s, rfl, rfl⟩
  | .latchupRestore d => ⟨_, frames_latchupRestore d s, rfl, rfl⟩
  | .dvfsThrottleStep => ⟨_, frames_dvfsThrottleStep s, rfl, rfl⟩
  | .dvfsRecoverStep => ⟨_, frames_dvfsRecoverStep s, rfl, rfl⟩
  | .thermalLimit => ⟨_, frames_thermalLimit s, rfl, rfl⟩
  | .readVoutPoll mv => ⟨_, frames_readVoutPoll mv s, rfl, rfl⟩
  | .voutTimeout => ⟨_, frames_voutTimeout s, rfl, rfl⟩
  | .pmbusPoll r answer => ⟨_, frames_pmbusPoll r answer s, rfl, rfl⟩
  | .ainWake p => ⟨_, frames_ainWake p s, rfl, rfl⟩
  | .hostwakeEdge level => ⟨_, frames_hostwakeEdge level s, rfl, rfl⟩
  | .railsGood residentOk => ⟨_, frames_railsGood residentOk s, rfl, rfl⟩
  | .hkstartEdge level => ⟨_, frames_hkstartEdge level s, rfl, rfl⟩
  | .hkConversionDone value => ⟨_, frames_hkConversionDone value s, rfl, rfl⟩
  | .calPlanStart p => ⟨_, frames_calPlanStart p s, rfl, rfl⟩
  | .calPlanStop p => ⟨_, frames_calPlanStop p s, rfl, rfl⟩
  | .calStringDisable n => ⟨_, frames_calStringDisable n s, rfl, rfl⟩
  | .calSlotBoundary n => ⟨_, frames_calSlotBoundary n s, rfl, rfl⟩
  | .calRunJudged n avg below above => ⟨_, frames_calRunJudged n avg below above s, rfl, rfl⟩
  | .calDiagnosticPulse n => ⟨_, frames_calDiagnosticPulse n s, rfl, rfl⟩
  | .calOvercurrent n current => ⟨_, frames_calOvercurrent n current s, rfl, rfl⟩
  | .faultCountSummary code inst => ⟨_, frames_faultCountSummary code inst s, rfl, rfl⟩
  | .configVote corrected lost => ⟨_, frames_configVote corrected lost s, rfl, rfl⟩
  | .getInfo m => ⟨_, frames_getInfo m s, rfl, rfl⟩
  | .cfgRead m => ⟨_, frames_cfgRead m s, rfl, rfl⟩
  | .cfgWrite m => ⟨_, frames_cfgWrite m s, rfl, rfl⟩
  | .tableWrite m data => ⟨_, frames_tableWrite m data s, rfl, rfl⟩
  | .tableRead m => ⟨_, frames_tableRead m s, rfl, rfl⟩
  | .softTrigger m => ⟨_, frames_softTrigger m s, rfl, rfl⟩
  | .integStop m => ⟨_, frames_integStop m s, rfl, rfl⟩
  | .probeSweep m readings => ⟨_, frames_probeSweep m readings s, rfl, rfl⟩
  | .cellCal m ev => ⟨_, frames_cellCal m ev s, rfl, rfl⟩
  | .convCapture m => ⟨_, frames_convCapture m s, rfl, rfl⟩
  | .faultList m => ⟨_, frames_faultList m s, rfl, rfl⟩
  | .faultAck m => ⟨_, frames_faultAck m s, rfl, rfl⟩
  | .logRead m => ⟨_, frames_logRead m s, rfl, rfl⟩
  | .compress m data => ⟨_, frames_compress m data s, rfl, rfl⟩
  | .decompress m data => ⟨_, frames_decompress m data s, rfl, rfl⟩
  | .imageLoad m data => ⟨_, frames_imageLoad m data s, rfl, rfl⟩
  | .imageFlash m ok => ⟨_, frames_imageFlash m ok s, rfl, rfl⟩
  | .imageServe m => ⟨_, frames_imageServe m s, rfl, rfl⟩
  | .rollbackCommit m failed => ⟨_, frames_rollbackCommit m failed s, rfl, rfl⟩
  | .boot m => ⟨_, frames_boot m s, rfl, rfl⟩
  | .ringDataTimeout m => ⟨_, frames_ringDataTimeout m s, rfl, rfl⟩
  | .flashImageRead bundle => ⟨_, frames_flashImageRead bundle s, rfl, rfl⟩
  | .prbsCheckerLock l d => ⟨_, frames_prbsCheckerLock l d s, rfl, rfl⟩
  | .pinPulseFiltered pin => ⟨_, frames_pinPulseFiltered pin s, rfl, rfl⟩
  | .retryHigh l => ⟨_, frames_retryHigh l s, rfl, rfl⟩
  | .laneErrors l d => ⟨_, frames_laneErrors l d s, rfl, rfl⟩
  | .netFecUncorrected port corrected uncorrected =>
      ⟨_, frames_netFecUncorrected port corrected uncorrected s, rfl, rfl⟩
  | .shedLaneReadaptation l d => ⟨_, frames_shedLaneReadaptation l d s, rfl, rfl⟩
  | .capabilityRecordResend l => ⟨_, frames_capabilityRecordResend l s, rfl, rfl⟩
  | .pmeTurnOff => ⟨_, frames_pmeTurnOff s, rfl, rfl⟩
  | .pmeWaitTimeout => ⟨_, frames_pmeWaitTimeout s, rfl, rfl⟩
  | .alarmWake => ⟨_, frames_alarmWake s, rfl, rfl⟩
  | .minOffExpired => ⟨_, frames_minOffExpired s, rfl, rfl⟩
  | .aonOvercurrent => ⟨_, frames_aonOvercurrent s, rfl, rfl⟩
  | .hkStart => ⟨_, frames_hkStart s, rfl, rfl⟩
  | .hkStop => ⟨_, frames_hkStop s, rfl, rfl⟩
  | .hkDelayExpired => ⟨_, frames_hkDelayExpired s, rfl, rfl⟩
  | .hkWakeTimer => ⟨_, frames_hkWakeTimer s, rfl, rfl⟩
  | .hkBufferCopy => ⟨_, frames_hkBufferCopy s, rfl, rfl⟩
  | .statPeriod => ⟨_, frames_statPeriod s, rfl, rfl⟩
  | .heartbeatStall => ⟨_, frames_heartbeatStall s, rfl, rfl⟩
  | .drainLimitExpired => ⟨_, frames_drainLimitExpired s, rfl, rfl⟩
  | .pcieLinkLeavesL2 => ⟨_, frames_pcieLinkLeavesL2 s, rfl, rfl⟩
  | .trigBusy => ⟨_, frames_trigBusy s, rfl, rfl⟩
  | .verifyRecurring => ⟨_, frames_verifyRecurring s, rfl, rfl⟩

theorem Frames.touches {ps : List Part} {s t : State} {o : Host.Outcome State Fault Refusal} (h : Frames ps s o)
    (ho : o = .next t) : Touches ps s t := by
  obtain ⟨u, rfl, hu⟩ := h
  cases ho
  exact hu

/-- Settles O3: each command's frame names the state that it answers. -/
theorem everyCommandAnswers : Obligations.EveryCommandAnswers := fun c s =>
  have ⟨_, ⟨t, ht, _⟩, _, _⟩ := exec_frames c s
  ⟨t, ht⟩

/-- Settles O4: no command's frame names the queue. -/
theorem queueUntouched : Obligations.QueueUntouched := fun c s _ ht =>
  have ⟨_, hframe, hqueue, _⟩ := exec_frames c s
  (hframe.touches ht).1 .pending hqueue

/-- Settles O8: only the frames of the commands of `setsRc64` name RC64. -/
theorem rc64NeverStepped : Obligations.Rc64NeverStepped := fun c s _ hc ht => by
  obtain ⟨ps, hframe, -, hrc64⟩ := exec_frames c s
  exact (hframe.touches ht).1 .rc64 (by simpa [hc] using hrc64)

/-- A step, idle or not, touches some list of parts. -/
theorem step_touches {s t : State} (h : step s = .next t) :
    ∃ ps r, Touches ps r t ∧ (StoresWf s → StoresWf r) ∧ (Bounded s → Bounded r) := by
  unfold step at h
  split at h
  · cases h
    exact ⟨_, _, touches_idleTick (.refl [.time, .rc64] s) (by decide), id, id⟩
  · next c rest _ =>
    obtain ⟨ps, hframe, -, -⟩ := exec_frames c { s with pending := rest }
    exact ⟨_, _, hframe.touches h, id, id⟩

/-- Settles O5: whatever a step touches, it keeps the stores canonical. -/
theorem stepKeepsStores : Obligations.StepKeepsStores := fun _ _ hs h =>
  have ⟨_, _, htouch, hstores, _⟩ := step_touches h
  htouch.2.1 (hstores hs)

/-- Settles O6: whatever a step touches, it keeps within the bounds. -/
theorem stepKeepsBounds : Obligations.StepKeepsBounds := fun _ _ hs h =>
  have ⟨_, _, htouch, _, hbounds⟩ := step_touches h
  htouch.2.2 (hbounds hs)

/-- Settles O1: by definition of `step`. -/
theorem stepRunsFrontCommand : Obligations.StepRunsFrontCommand := fun c rest s h => by
  simp only [step, h]

/-- Settles O2: an empty queue lets the idle tick pass. -/
theorem emptyQueueTicks : Obligations.EmptyQueueTicks := fun s h =>
  ⟨idleTick s, by simp only [step, h], rfl, touches_idleTick (.refl [.time, .rc64] s) (by decide)⟩

/-! ### RC64 at a boot (R325) and in Dormant (R333) -/

/-- An edge sets RC64 only where the boot waits for it. -/
theorem ppsEdge_rc64 {s : State} (h : s.time.bootWait = false) (lead : Nat) :
    (ppsEdge s lead).time.rc64 = s.time.rc64 := by
  have hdrop : (dropLock s).time.rc64 = s.time.rc64 :=
    (touches_dropLock (.refl [.flt, .notes, .time, .obj 0x0C06, .obj 0x0E01] s) (by decide)).1 .rc64 (by decide)
  unfold ppsEdge
  split
  · dsimp only
    rw [setTime_time]
    dsimp only
    split
    · split
      · rfl
      · exact hdrop
    · split
      · rfl
      · exact hdrop
  · simp only [h, Bool.false_eq_true, if_false]
    generalize (if s.time.refPresent = true then lead else 0) = l
    split
    · exact (touches_ppsCapture (.refl [.flt, .notes, .time, .obj 0x0C06, .obj 0x0E01, .obj 0x0E05] s) _ _
        (by decide)).1 .rc64 (by decide)
    · have hbump := touches_bumpSat (.refl [.flt, .notes, .obj 0x0C06, .obj 0x0E05] s) Obj.TIM_PPS.BAD 0 1 (by decide)
      exact (touches_raise_plain hbump (a0 := 0x0E03) (by decide) 0 0 0 (by decide)).1 .rc64 (by decide)

theorem peerEdge_rc64 (s : State) : (peerEdge s).time.rc64 = s.time.rc64 :=
  (touches_peerEdge (.refl [.flt, .modes, .notes, .peer, .obj 0x0802, .obj 0x0C06, .obj 0x1011] s) (by decide)).1 .rc64
    (by decide)

/-- Settles O9: an edge and the end of the wait test `bootWait`; the return of the reference rounds up to a multiple of
160. -/
theorem rc64ZeroOnlyAtBoot : Obligations.Rc64ZeroOnlyAtBoot := by
  refine ⟨fun lead s t hwait h => ?_, fun s t hwait h => ?_, fun s t h => ?_⟩
  · cases (show Host.Outcome.next (peerEdge (ppsEdge s lead)) = .next t from h)
    rw [peerEdge_rc64, ppsEdge_rc64 hwait]
  · have h' : execBootPpsWaitTimeout s = .next t := h
    rw [execBootPpsWaitTimeout, hwait] at h'
    cases h'
    rfl
  · have h' : execDormantRefReturn s = .next t := h
    unfold execDormantRefReturn at h'
    split at h' <;> cases h'
    · simp only [setTime_time, up160]
      omega
    · omega

/-! ### The frames of the four groups of commands -/

/-- Settles O57: each clause is the frame of its command. -/
theorem frameSignal : Obligations.FrameSignal := fun s _ =>
  ⟨fun idx h => (frames_clampTrip idx s).touches h,
    fun idx h => (frames_clampRelease idx s).touches h,
    fun idx h => (frames_clampLong idx s).touches h,
    fun idx h => (frames_arcEvaluation idx s).touches h,
    (frames_frameBoundary s).touches,
    fun idx h => (frames_rangeForced idx s).touches h,
    fun idx r h => (frames_probeIntervalEnd idx r s).touches h,
    fun idx h => (frames_rmsWindowEnd idx s).touches h,
    (frames_segmentBoundary s).touches,
    (frames_freezeStrobe s).touches,
    fun idx half h => (frames_envelopeCrossing idx half s).touches h,
    (frames_windowConversionStart s).touches,
    fun raw h => (frames_segmentConverted raw s).touches h,
    (frames_windowReadoutDone s).touches,
    (frames_digitizerIdleTimeout s).touches,
    (frames_captureWakeSetReady s).touches,
    (frames_captureLingerExpired s).touches,
    fun tj h => (frames_tjSensorRead tj s).touches h,
    (frames_calStale s).touches,
    fun w h => (frames_converterWord w s).touches h,
    (frames_trigoutWidthEnd s).touches,
    fun level stable h => (frames_triginEdge level stable s).touches h,
    fun port m h => (frames_axrelTriggerMessage port m s).touches h,
    (frames_holdoffEnd s).touches,
    (frames_triggerRecordRelease s).touches,
    (frames_bucketToken s).touches,
    fun estimator h => (frames_cnvCalUpdate estimator s).touches h,
    (frames_cnvCoeffStore s).touches,
    fun upsets h => (frames_spectrumComplete upsets s).touches h,
    fun sunPath h => (frames_spectrumDeadlineMiss sunPath s).touches h,
    fun images h => (frames_blockBoundary images s).touches h,
    (frames_fragmentReserve s).touches,
    (frames_segmentToEvent s).touches,
    (frames_fragmentBuilt s).touches,
    fun serial h => (frames_fragmentSend serial s).touches h,
    fun serial h => (frames_fragmentAnnounce serial s).touches h,
    fun serial h => (frames_fragmentTransferDone serial s).touches h,
    fun serial h => (frames_fragmentOfferTimer serial s).touches h,
    fun serial h => (frames_replyAccept serial s).touches h,
    fun serial h => (frames_replyReject serial s).touches h,
    fun serial globalId h => (frames_replyRequest serial globalId s).touches h,
    fun replicaFails h => (frames_frBlockCoded replicaFails s).touches h,
    (frames_verifyTest s).touches,
    (frames_trigBusy s).touches⟩

/-- Settles O58: each clause is the frame of its command. -/
theorem frameCorrelation : Obligations.FrameCorrelation := fun s _ =>
  ⟨(frames_startNow s).touches,
    (frames_integrationStart s).touches,
    (frames_dahliaBlockDiscard s).touches,
    fun upsets h => (frames_dahliaGroup upsets s).touches h,
    (frames_dahliaGroupMissing s).touches,
    fun us h => (frames_dumpWait us s).touches h,
    (frames_integrationStopBoundary s).touches,
    (frames_closingPassDone s).touches,
    (frames_peerReadyTimer s).touches,
    fun l m h => (frames_groupReady l m s).touches h,
    fun l m h => (frames_groupGo l m s).touches h,
    fun l m h => (frames_groupStop l m s).touches h,
    fun l m h => (frames_groupLeave l m s).touches h,
    fun l k h => (frames_peerPacket l k s).touches h,
    (frames_peerBufferClose s).touches,
    (frames_peerSendAgeDiscard s).touches,
    fun m h => (frames_peerMemberLost m s).touches h,
    fun l a h => (frames_concFragmentArrival l a s).touches h,
    fun l a h => (frames_concAnnouncementArrival l a s).touches h,
    (frames_buildTimeout s).touches,
    (frames_fetchTimeout s).touches,
    fun l chip serial h => (frames_concGone l chip serial s).touches h,
    (frames_interferometryDone s).touches,
    fun upsets h => (frames_sunGroup upsets s).touches h,
    (frames_sunArm s).touches,
    (frames_sunDisarm s).touches,
    (frames_sunCopy s).touches,
    (frames_sunSwitchNow s).touches,
    (frames_setSwitch s).touches,
    (frames_contextAged s).touches,
    fun src n r w syndrome h => (frames_fstMasterRead src n r w syndrome s).touches h,
    fun master n r w strobes data poison syndrome h =>
        (frames_fstWrite master n r w strobes data poison syndrome s).touches h,
    fun n r words last h => (frames_scrubRead n r words last s).touches h,
    (frames_scrubLate s).touches,
    fun n h => (frames_retfailLatch n s).touches h,
    fun n half h => (frames_halfBankInitDone n half s).touches h⟩

/-- Settles O59: each clause is the frame of its command. -/
theorem frameMovement : Obligations.FrameMovement := fun s _ =>
  ⟨fun e h => (frames_compressionJobStart e s).touches h,
    fun e h => (frames_compressionJobEnd e s).touches h,
    fun a h => (frames_matrixTransaction a s).touches h,
    fun a h => (frames_beatTimeout a s).touches h,
    fun a h => (frames_resetInBurst a s).touches h,
    fun q err which h => (frames_queuePacketSend q err which s).touches h,
    fun q h => (frames_creditReturn q s).touches h,
    fun block h => (frames_clockGateStop block s).touches h,
    fun q packet h => (frames_lossyTailWrite q packet s).touches h,
    fun r tail h => (frames_ringDoorbell r tail s).touches h,
    fun r kind h => (frames_ringKindWrite r kind s).touches h,
    fun r src h => (frames_dmaRecordWrite r src s).touches h,
    fun r h => (frames_coalesceTimeout r s).touches h,
    fun r addr len ctrl rsv error h => (frames_descriptorFetchDone r addr len ctrl rsv error s).touches h,
    fun r h => (frames_cplTimeout r s).touches h,
    fun r h => (frames_ringNoBuffer r s).touches h,
    fun src h => (frames_netRecordSend src s).touches h,
    fun l h => (frames_linkTrainStart l s).touches h,
    fun l unchanged h => (frames_partnerClockStable l unchanged s).touches h,
    fun l lanes h => (frames_baseLocked l lanes s).touches h,
    fun l record h => (frames_capabilityRecord l record s).touches h,
    fun l lanes h => (frames_speedDone l lanes s).touches h,
    fun l late h => (frames_portDeskew l late s).touches h,
    fun l h => (frames_trainStepOverrun l s).touches h,
    fun l h => (frames_retrainTimer l s).touches h,
    fun l d h => (frames_laneLockLoss l d s).touches h,
    fun l mapId map h => (frames_mapreq l mapId map s).touches h,
    fun l h => (frames_mapreqResend l s).touches h,
    fun l mapId map h => (frames_map l mapId map s).touches h,
    fun l d bipOk h => (frames_am l d bipOk s).touches h,
    fun l d h => (frames_laneRejoin l d s).touches h,
    fun l h => (frames_clockLoss l s).touches h,
    fun l f h => (frames_axrelFrame l f s).touches h,
    fun l seq h => (frames_ack l seq s).touches h,
    fun l seq h => (frames_nak l seq s).touches h,
    fun l h => (frames_ackTimeout l s).touches h,
    fun l vc total h => (frames_credit l vc total s).touches h,
    fun l h => (frames_ackCreditTimer l s).touches h,
    fun l h => (frames_lpiEntry l s).touches h,
    fun l h => (frames_lpiRefresh l s).touches h,
    fun l h => (frames_wake l s).touches h,
    fun l kind total h => (frames_imageOffer l kind total s).touches h,
    fun l offset count h => (frames_imageRequest l offset count s).touches h,
    fun l offset data h => (frames_imageData l offset data s).touches h,
    fun l h => (frames_imageDone l s).touches h,
    fun l h => (frames_imageAbort l s).touches h,
    (frames_imageChunkRetry s).touches,
    fun l h => (frames_testPayload l s).touches h,
    fun l h => (frames_errInject l s).touches h,
    (frames_ref10mLost s).touches,
    (frames_ref10mReturn s).touches,
    (frames_phaseSlewDone s).touches,
    (frames_dormantRefReturn s).touches,
    fun lead h => (frames_ppsEdge lead s).touches h,
    (frames_ppsLost s).touches,
    (frames_bootPpsWaitTimeout s).touches,
    fun inc atPps h => (frames_incWrite inc atPps s).touches h,
    (frames_incApply s).touches,
    fun sec nsec atPps h => (frames_timeSet sec nsec atPps s).touches h,
    fun stepNs atPps h => (frames_timeStep stepNs atPps s).touches h,
    (frames_timeOpApply s).touches,
    fun c w h => (frames_timCmpWrite c w s).touches h,
    fun c h => (frames_comparatorFire c s).touches h,
    fun port bytes before after h => (frames_netFrame port bytes before after s).touches h,
    fun port lost h => (frames_netLinkDown port lost s).touches h,
    fun port cr4 bypass h => (frames_netLinkUp port cr4 bypass s).touches h,
    fun port h => (frames_anRestart port s).touches h,
    fun m h => (frames_logRead m s).touches h,
    fun m data h => (frames_compress m data s).touches h,
    fun m data h => (frames_decompress m data s).touches h,
    fun m data h => (frames_imageLoad m data s).touches h,
    fun m ok h => (frames_imageFlash m ok s).touches h,
    fun m h => (frames_imageServe m s).touches h,
    fun m failed h => (frames_rollbackCommit m failed s).touches h,
    fun m h => (frames_boot m s).touches h,
    fun m h => (frames_ringDataTimeout m s).touches h,
    fun l d h => (frames_prbsCheckerLock l d s).touches h,
    fun l h => (frames_retryHigh l s).touches h,
    fun l d h => (frames_laneErrors l d s).touches h,
    fun port corrected uncorrected h => (frames_netFecUncorrected port corrected uncorrected s).touches h,
    fun l d h => (frames_shedLaneReadaptation l d s).touches h,
    fun l h => (frames_capabilityRecordResend l s).touches h,
    (frames_verifyRecurring s).touches⟩

/-- Settles O60: each clause is the frame of its command. -/
theorem frameControl : Obligations.FrameControl := fun s _ =>
  ⟨fun plan mailbox seq h => (frames_modePlanWrite plan mailbox seq s).touches h,
    (frames_transitionCheck s).touches,
    (frames_drainComplete s).touches,
    (frames_downComplete s).touches,
    (frames_upComplete s).touches,
    (frames_transitionStartDone s).touches,
    (frames_peerSyncTimeout s).touches,
    fun d h => (frames_powerGoodTimeout d s).touches h,
    (frames_pllLockTimeout s).touches,
    fun g h => (frames_converterCalTimeout g s).touches h,
    (frames_converterCalConverged s).touches,
    (frames_railsGoodTimeout s).touches,
    (frames_peerStartBlock s).touches,
    (frames_peerStopBoundary s).touches,
    fun n words h => (frames_bankWakeCheck n words s).touches h,
    fun a b h => (frames_selfCheck a b s).touches h,
    (frames_compareMismatch s).touches,
    fun residentOk h => (frames_warmRestartDone residentOk s).touches h,
    (frames_resyncDone s).touches,
    (frames_resyncTimeout s).touches,
    (frames_leadReturn s).touches,
    (frames_heartbeat s).touches,
    fun m len frame h => (frames_mailboxDoorbell m len frame s).touches h,
    fun m h => (frames_completionWrite m s).touches h,
    (frames_noticeWrite s).touches,
    (frames_noticeLost s).touches,
    fun ring word wide v h => (frames_completionRingSetup ring word wide v s).touches h,
    (frames_bar0DiscardedWrite s).touches,
    fun off words syndromes h => (frames_bar2Read off words syndromes s).touches h,
    (frames_bar2Write s).touches,
    fun who bar2 off syndrome h => (frames_halfReadLow who bar2 off syndrome s).touches h,
    fun who h => (frames_halfReadHigh who s).touches h,
    fun chipId bootSrc testEn disagree found h => (frames_pornRelease chipId bootSrc testEn disagree found s).touches h,
    fun long h => (frames_pornAssert long s).touches h,
    (frames_bootRefTimeout s).touches,
    (frames_bootIdleReached s).touches,
    (frames_bootTimeout s).touches,
    (frames_bootCommandReboot s).touches,
    (frames_governorGrant s).touches,
    fun d h => (frames_domainPowerGood d s).touches h,
    fun d h => (frames_sleepAck d s).touches h,
    fun d h => (frames_sleepDefer d s).touches h,
    fun d h => (frames_sleepRefuse d s).touches h,
    fun d h => (frames_sleepRetry d s).touches h,
    fun d h => (frames_sleepStalled d s).touches h,
    fun d h => (frames_ballastPark d s).touches h,
    fun d h => (frames_latchup d s).touches h,
    fun d h => (frames_latchupRestore d s).touches h,
    (frames_dvfsThrottleStep s).touches,
    (frames_dvfsRecoverStep s).touches,
    (frames_thermalLimit s).touches,
    fun mv h => (frames_readVoutPoll mv s).touches h,
    (frames_voutTimeout s).touches,
    fun r answer h => (frames_pmbusPoll r answer s).touches h,
    fun p h => (frames_ainWake p s).touches h,
    fun level h => (frames_hostwakeEdge level s).touches h,
    fun residentOk h => (frames_railsGood residentOk s).touches h,
    fun level h => (frames_hkstartEdge level s).touches h,
    fun value h => (frames_hkConversionDone value s).touches h,
    fun p h => (frames_calPlanStart p s).touches h,
    fun p h => (frames_calPlanStop p s).touches h,
    fun n h => (frames_calStringDisable n s).touches h,
    fun n h => (frames_calSlotBoundary n s).touches h,
    fun n avg below above h => (frames_calRunJudged n avg below above s).touches h,
    fun n h => (frames_calDiagnosticPulse n s).touches h,
    fun n current h => (frames_calOvercurrent n current s).touches h,
    fun code inst h => (frames_faultCountSummary code inst s).touches h,
    fun corrected lost h => (frames_configVote corrected lost s).touches h,
    fun m h => (frames_getInfo m s).touches h,
    fun m h => (frames_cfgRead m s).touches h,
    fun m h => (frames_cfgWrite m s).touches h,
    fun m data h => (frames_tableWrite m data s).touches h,
    fun m h => (frames_tableRead m s).touches h,
    fun m h => (frames_softTrigger m s).touches h,
    fun m h => (frames_integStop m s).touches h,
    fun m readings h => (frames_probeSweep m readings s).touches h,
    fun m ev h => (frames_cellCal m ev s).touches h,
    fun m h => (frames_convCapture m s).touches h,
    fun m h => (frames_faultList m s).touches h,
    fun m h => (frames_faultAck m s).touches h,
    fun bundle h => (frames_flashImageRead bundle s).touches h,
    fun pin h => (frames_pinPulseFiltered pin s).touches h,
    (frames_pmeTurnOff s).touches,
    (frames_pmeWaitTimeout s).touches,
    (frames_alarmWake s).touches,
    (frames_minOffExpired s).touches,
    (frames_aonOvercurrent s).touches,
    (frames_hkStart s).touches,
    (frames_hkStop s).touches,
    (frames_hkDelayExpired s).touches,
    (frames_hkWakeTimer s).touches,
    (frames_hkBufferCopy s).touches,
    (frames_statPeriod s).touches,
    (frames_heartbeatStall s).touches,
    (frames_drainLimitExpired s).touches,
    (frames_pcieLinkLeavesL2 s).touches⟩

end Sys2Proof
end

section
/-! PROOF. Facts that many statements use: what a fault leaves alone, and elements of the arrays of the state that a
setter reaches. -/

namespace Sys2Proof

-- one proof at a time, which bounds the memory of the compile
set_option Elab.async false

open Sys2Proof.Machine

/-- A field of none of the objects. -/
def outside (os : List Nat) (f : Field) : Bool := decide (f.lo < 4096) && !os.contains f.obj

/-! ### A part that is not named is the same -/

section

variable {ps : List Part} {r s : State} (h : Touches ps r s)

include h

theorem Touches.live_eq (hp : Part.live.within ps = false := by rfl) : s.live = r.live := h.1 .live hp

theorem Touches.mem_eq (hp : Part.mem.within ps = false := by rfl) : s.mem = r.mem := h.1 .mem hp

theorem Touches.time_eq (hp : Part.time.within ps = false := by rfl) : s.time = r.time := h.1 .time hp

theorem Touches.net_eq (hp : Part.net.within ps = false := by rfl) : s.net = r.net := h.1 .net hp

theorem Touches.modes_eq (hp : Part.modes.within ps = false := by rfl) : s.modes = r.modes := h.1 .modes hp

theorem Touches.afe_eq (hp : Part.afe.within ps = false := by rfl) : s.afe = r.afe := h.1 .afe hp

theorem Touches.bbl_eq (hp : Part.bbl.within ps = false := by rfl) : s.bbl = r.bbl := h.1 .bbl hp

theorem Touches.cnv_eq (hp : Part.cnv.within ps = false := by rfl) : s.cnv = r.cnv := h.1 .cnv hp

theorem Touches.chz_eq (hp : Part.chz.within ps = false := by rfl) : s.chz = r.chz := h.1 .chz hp

theorem Touches.trg_eq (hp : Part.trg.within ps = false := by rfl) : s.trg = r.trg := h.1 .trg hp

theorem Touches.evt_eq (hp : Part.evt.within ps = false := by rfl) : s.evt = r.evt := h.1 .evt hp

theorem Touches.cmp_eq (hp : Part.cmp.within ps = false := by rfl) : s.cmp = r.cmp := h.1 .cmp hp

theorem Touches.dah_eq (hp : Part.dah.within ps = false := by rfl) : s.dah = r.dah := h.1 .dah hp

theorem Touches.peer_eq (hp : Part.peer.within ps = false := by rfl) : s.peer = r.peer := h.1 .peer hp

theorem Touches.conc_eq (hp : Part.conc.within ps = false := by rfl) : s.conc = r.conc := h.1 .conc hp

theorem Touches.sun_eq (hp : Part.sun.within ps = false := by rfl) : s.sun = r.sun := h.1 .sun hp

theorem Touches.fst_eq (hp : Part.fst.within ps = false := by rfl) : s.fst = r.fst := h.1 .fst hp

theorem Touches.mov_eq (hp : Part.mov.within ps = false := by rfl) : s.mov = r.mov := h.1 .mov hp

theorem Touches.axl_eq (hp : Part.axl.within ps = false := by rfl) : s.axl = r.axl := h.1 .axl hp

theorem Touches.ctl_eq (hp : Part.ctl.within ps = false := by rfl) : s.ctl = r.ctl := h.1 .ctl hp

theorem Touches.pwr_eq (hp : Part.pwr.within ps = false := by rfl) : s.pwr = r.pwr := h.1 .pwr hp

theorem Touches.hk_eq (hp : Part.hk.within ps = false := by rfl) : s.hk = r.hk := h.1 .hk hp

theorem Touches.cal_eq (hp : Part.cal.within ps = false := by rfl) : s.cal = r.cal := h.1 .cal hp

theorem Touches.aon_eq (hp : Part.aon.within ps = false := by rfl) : s.aon = r.aon := h.1 .aon hp

theorem Touches.flt_eq (hp : Part.flt.within ps = false := by rfl) : s.flt = r.flt := h.1 .flt hp

theorem Touches.notes_eq (hp : Part.notes.within ps = false := by rfl) : s.notes = r.notes := h.1 .notes hp

theorem Touches.out_eq (hp : Part.out.within ps = false := by rfl) : s.out = r.out := h.1 .out hp

theorem Touches.free_eq (hp : Part.free.within ps = false := by rfl) : s.free = r.free := h.1 .free hp

theorem Touches.pending_eq (hp : Part.pending.within ps = false := by rfl) : s.pending = r.pending := h.1 .pending hp

theorem Touches.rc64_eq (hp : Part.rc64.within ps = false := by rfl) : s.time.rc64 = r.time.rc64 := h.1 .rc64 hp

end

/-- A field of none of the objects that are named reads as before. -/
theorem Touches.rd_outside {ps : List Part} {os : List Nat} {r s : State} {f : Field} {j : Nat} (h : Touches ps r s)
    (hf : outside os f = true) (hps : ps.all (fun p => match p with
      | .obj o => os.contains o
      | .regs => false
      | _ => true) = true) : Machine.rd s f j = Machine.rd r f j := by
  simp only [outside, Bool.and_eq_true, decide_eq_true_eq, Bool.not_eq_true'] at hf
  refine h.rd f j hf.1 ?_
  have hnot : ∀ p ∈ ps, p ≠ .regs ∧ p ≠ .obj f.obj := by
    intro p hp
    have hk := List.all_eq_true.1 hps p hp
    refine ⟨fun e => by simp [e] at hk, fun e => ?_⟩
    rw [e] at hk
    exact absurd (hf.2.symm.trans hk) (by decide)
  have hregs : .regs ∉ ps := fun hm => (hnot _ hm).1 rfl
  have hobj : .obj f.obj ∉ ps := fun hm => (hnot _ hm).2 rfl
  simp [Part.within, hregs, hobj]

/-- A fault raised touches the faults and their notices, and a FATAL one the mode. -/
theorem raise_touches (s : State) (code inst a b : Nat) :
    Touches [.flt, .modes, .notes, .obj 0x0C06, .obj 0x1011] s (raise s code inst a b) :=
  touches_raise (.refl _ _) _ _ _ _ (by decide)

theorem rd_raise (s : State) (code inst a b : Nat) {f : Field} (j : Nat) (h : outside [0x0C06, 0x1011] f = true) :
    rd (raise s code inst a b) f j = rd s f j := (raise_touches s code inst a b).rd_outside h rfl

@[simp] theorem raise_afe (s : State) (code inst a b : Nat) : (raise s code inst a b).afe = s.afe :=
  (raise_touches s code inst a b).afe_eq

@[simp] theorem raise_time (s : State) (code inst a b : Nat) : (raise s code inst a b).time = s.time :=
  (raise_touches s code inst a b).time_eq

/-! ### Elements of arrays -/

theorem nth_of_le {α : Type} {xs : List α} {i : Nat} {d : α} (h : xs.length ≤ i) : nth xs i d = d := by
  simp [nth, List.getD_eq_getElem?_getD, List.getElem?_eq_none h]

/-- An element that is not the default one is there. -/
theorem lt_length_of_nth_ne {α : Type} {xs : List α} {i : Nat} {d : α} (h : nth xs i d ≠ d) : i < xs.length := by
  by_contra hlen
  exact h (nth_of_le (Nat.not_lt.1 hlen))

/-! ### Folds -/

/-- A property that every step of a fold keeps. -/
theorem foldl_keeps {α β : Type} {P : β → Prop} (g : β → α → β) (l : List α) {b : β} (h : P b)
    (hg : ∀ c x, P c → P (g c x)) : P (l.foldl g b) := by
  induction l generalizing b with
  | nil => exact h
  | cons x l ih => exact ih (hg b x h)

/-- What no element of a list changes. -/
theorem foldl_same {α β γ : Type} (g : β → α → β) (val : β → γ) (l : List α) (b : β)
    (h : ∀ c x, x ∈ l → val (g c x) = val c) : val (l.foldl g b) = val b := by
  induction l generalizing b with
  | nil => rfl
  | cons x l ih => exact (ih _ fun c y hy => h c y (List.mem_cons_of_mem _ hy)).trans (h b x List.mem_cons_self)

/-- What one element of a range changes, and the others leave alone, is changed once. -/
theorem foldl_range_once {β γ : Type} {P : β → Prop} (g : β → Nat → β) (val : β → γ) {F : γ → γ} {i n : Nat} {b : β}
    (hi : i < n) (h : P b) (hkeep : ∀ c j, P c → P (g c j)) (hother : ∀ c j, j < n → j ≠ i → val (g c j) = val c)
    (hat : ∀ c, P c → val (g c i) = F (val c)) : val ((List.range n).foldl g b) = F (val b) := by
  induction n with
  | zero => exact absurd hi (Nat.not_lt_zero i)
  | succ n ih =>
    rw [List.range_succ, List.foldl_append, List.foldl_cons, List.foldl_nil]
    by_cases hn : i = n
    · subst hn
      rw [hat _ (foldl_keeps g _ h hkeep), foldl_same g val _ b fun c j hj =>
        hother c j (Nat.lt_succ_of_lt (List.mem_range.1 hj)) (Nat.ne_of_lt (List.mem_range.1 hj))]
    · rw [hother _ _ (Nat.lt_succ_self n) (Ne.symm hn)]
      exact ih (by omega) fun c j hj => hother c j (Nat.lt_succ_of_lt hj)

/-- What one element of a range sets, and the others leave alone, is as that element set it. -/
theorem foldl_range_at {β γ : Type} {P : β → Prop} (g : β → Nat → β) (val : β → γ) {v : γ} {i n : Nat} {b : β}
    (hi : i < n)
    (h : P b) (hkeep : ∀ c j, P c → P (g c j)) (hother : ∀ c j, j < n → j ≠ i → val (g c j) = val c)
    (hat : ∀ c, P c → val (g c i) = v) : val ((List.range n).foldl g b) = v :=
  foldl_range_once g val hi h hkeep hother hat (F := fun _ => v)

end Sys2Proof
end

section
/-! PROOF. The receiver inputs: clamp and range control, the line detectors, the frame boundary (chapter 3). -/

namespace Sys2Proof

-- one proof at a time, which bounds the memory of the compile
set_option Elab.async false

open Sys2Proof.Machine

/-! ### Elements of the inputs -/

theorem inputOf_setInput {s : State} {i : Nat} (f : AfeInput → AfeInput) (h : i < s.afe.inputs.length) :
    inputOf (setInput s i f) i = f (inputOf s i) := nth_upd_same _ _ _ _ h

theorem inputOf_congr {s t : State} (h : t.afe = s.afe) (i : Nat) : inputOf t i = inputOf s i := by
  unfold inputOf
  rw [h]

@[simp] theorem inputOf_wr (s : State) (f : Field) (j v i : Nat) : inputOf (wr s f j v) i = inputOf s i := rfl

@[simp] theorem inputOf_bumpSat (s : State) (f : Field) (j v i : Nat) : inputOf (bumpSat s f j v) i = inputOf s i := rfl

@[simp] theorem inputOf_endFault (s : State) (code inst i : Nat) : inputOf (endFault s code inst) i = inputOf s i := rfl

@[simp] theorem inputOf_raise (s : State) (code inst a b i : Nat) :
    inputOf (raise s code inst a b) i = inputOf s i := inputOf_congr (raise_afe _ _ _ _ _) i

theorem length_of_conducting {s : State} {i : Nat} (h : (inputOf s i).conducting = true) : i < s.afe.inputs.length :=
  lt_length_of_nth_ne (d := AfeInput.atBoot) fun e => by
    rw [show inputOf s i = AfeInput.atBoot from e] at h
    exact absurd h (by decide)

theorem length_of_pending {s : State} {i : Nat} (h : (inputOf s i).pending.isSome = true) : i < s.afe.inputs.length :=
  lt_length_of_nth_ne (d := AfeInput.atBoot) fun e => by
    rw [show inputOf s i = AfeInput.atBoot from e] at h
    exact absurd h (by decide)

theorem length_of_frames {s : State} {i : Nat} (h : (inputOf s i).frames ≠ []) : i < s.afe.inputs.length :=
  lt_length_of_nth_ne (d := AfeInput.atBoot) fun e => by
    rw [show inputOf s i = AfeInput.atBoot from e] at h
    exact h rfl

/-! ### Clamp and range control (R45 to R49) -/

theorem exec_clampTrip {s : State} {i : Fin 256} (h : (inputOf s i).conducting = false) :
    exec (.clampTrip i) s = .next (
      let s1 := setInput s i (fun x => { x with conducting := true, probe := { x.probe with clamped := true } })
      if clampEventStarts s i then
        let s2 := wr s1 Obj.AFE_STATUS.CLAMP_STICKY i 1
        if inputLogicOn s i then raise (bumpSat s2 Obj.AFE_STATUS.CLAMP_COUNT i 1) 0x0101 i i 0 else s2
      else s1) := by
  show execClampTrip i s = _
  rw [execClampTrip, h, if_neg Bool.false_ne_true]
  dsimp only
  split <;> rfl

theorem clampTrip_starts {s : State} {i : Fin 256} (h : (inputOf s i).conducting = false)
    (hstart : clampEventStarts s i = true) :
    ∃ t, exec (.clampTrip i) s = .next t ∧ rd t Obj.AFE_STATUS.CLAMP_STICKY i = 1
      ∧ (inputLogicOn s i = true →
          rd t Obj.AFE_STATUS.CLAMP_COUNT i = satAdd 16 (rd s Obj.AFE_STATUS.CLAMP_COUNT i) 1 % 2 ^ 16)
      ∧ (inputLogicOn s i = false → t.flt = s.flt
          ∧ rd t Obj.AFE_STATUS.CLAMP_COUNT i = rd s Obj.AFE_STATUS.CLAMP_COUNT i) := by
  refine ⟨_, exec_clampTrip h, ?_⟩
  dsimp only
  rw [if_pos hstart]
  cases inputLogicOn s i with
  | true =>
    rw [if_pos rfl]
    refine ⟨?_, fun _ => ?_, fun e => absurd e (by decide)⟩
    · rw [rd_raise _ _ _ _ _ _ (by decide), bumpSat, rd_wr_apart _ _ _ _ (by decide), rd_wr_same]
      rfl
    · rw [rd_raise _ _ _ _ _ _ (by decide), bumpSat, rd_wr_same, rd_wr_apart _ _ _ _ (by decide), rd_setInput]
      rfl
  | false =>
    rw [if_neg Bool.false_ne_true]
    refine ⟨rd_wr_same _ _ _ _, fun e => absurd e (by decide), fun _ => ⟨rfl, ?_⟩⟩
    rw [rd_wr_apart _ _ _ _ (by decide), rd_setInput]

theorem clampTrip_goes_on {s : State} {i : Fin 256} (h : (inputOf s i).conducting = false)
    (hstart : clampEventStarts s i = false) :
    ∃ t, exec (.clampTrip i) s = .next t
      ∧ rd t Obj.AFE_STATUS.CLAMP_COUNT i = rd s Obj.AFE_STATUS.CLAMP_COUNT i ∧ t.flt = s.flt
      ∧ (s.afe.inputs.length = 256 → (inputOf t i).conducting = true) := by
  refine ⟨_, exec_clampTrip h, ?_⟩
  dsimp only
  rw [hstart, if_neg Bool.false_ne_true]
  refine ⟨rfl, rfl, fun hlen => ?_⟩
  rw [inputOf_setInput _ (by rw [hlen]; exact i.isLt)]

theorem clampRelease_ends {s : State} {i : Fin 256} (h : (inputOf s i).conducting = true) :
    ∃ t, exec (.clampRelease i) s = .next t ∧ (inputOf t i).conducting = false
      ∧ (inputOf t i).released = some s.time.rc64 := by
  refine ⟨_, if_pos h, ?_⟩
  rw [inputOf_endFault, inputOf_setInput _ (length_of_conducting h)]
  exact ⟨rfl, rfl⟩

theorem clampLong_raises {s : State} {i : Fin 256} (h : (inputOf s i).conducting = true)
    (hroom : s.flt.active.length < 1024) :
    ∃ t, exec (.clampLong i) s = .next t ∧ faultActive t 0x0102 i = true ∧ t.afe = s.afe :=
  ⟨_, if_pos h, raise_active s _ _ _ _ hroom, raise_afe s _ _ _ _⟩

/-- Without frames there is no new code. -/
theorem frames_of_arcCode {s : State} {i c : Nat} (h : (arcCode s i).1 = some c) : (inputOf s i).frames ≠ [] := by
  intro hnil
  simp [arcCode, hnil] at h

theorem arcCode_afe (s : State) (i : Nat) : (arcCode s i).2.afe = s.afe := by
  unfold arcCode
  dsimp only
  split
  · rfl
  · split
    · rfl
    · split <;> rfl

theorem arcEvaluation_pending {s : State} {i : Fin 256} {c : Nat} (hon : cnvOn s = true)
    (harc : lv s Obj.AFE_INPUT.ARC i ≠ 0) (hline : lineState s i = 0) (hdue : spxNow s % arcLength s = 0)
    (hc : (arcCode s i).1 = some c) (hne : c ≠ rd s Obj.AFE_STATUS.RANGE i) :
    ∃ t, exec (.arcEvaluation i) s = .next t ∧ (inputOf t i).pending = some c := by
  refine ⟨setInput (arcCode s i).2 i (fun x => { x with pending := some c }), ?_, ?_⟩
  · show execArcEvaluation i s = _
    simp [execArcEvaluation, hon, harc, hline, hdue, hc, hne]
  · rw [inputOf_setInput]
    rw [arcCode_afe]
    exact length_of_frames (frames_of_arcCode hc)

theorem rangeForced_forces {s : State} {i : Fin 256} (hpend : (inputOf s i).pending.isSome = true)
    (hnot : (inputOf s i).forced = false) (hdef : 64 ≤ (inputOf s i).deferred) :
    ∃ t, exec (.rangeForced i) s = .next t ∧ (inputOf t i).forced = true
      ∧ rd t Obj.AFE_STATUS.FORCED_COUNT i = satAdd 16 (rd s Obj.AFE_STATUS.FORCED_COUNT i) 1 % 2 ^ 16 := by
  refine ⟨_, if_pos (by simp [hpend, hnot, hdef]), ?_, ?_⟩
  · rw [inputOf_raise, inputOf_bumpSat, inputOf_setInput _ (length_of_pending hpend)]
  · rw [rd_raise _ _ _ _ _ _ (by decide), bumpSat, rd_wr_same]
    rfl

/-- Settles O15: the branches of the four commands, one lemma each. -/
theorem inputEventsComplete : Obligations.InputEventsComplete :=
  ⟨fun _ _ h => ⟨clampTrip_starts h, clampTrip_goes_on h⟩,
    fun _ _ h => ⟨clampRelease_ends h, clampLong_raises h⟩,
    fun _ _ _ hon harc hline hdue hc hne => arcEvaluation_pending hon harc hline hdue hc hne,
    fun _ _ hpend hnot hdef => rangeForced_forces hpend hnot hdef⟩

/-! ### The state of a line (R57, R58) -/

/-- What a setter of one input leaves of an input, it leaves of every input. -/
theorem inputOf_setInput_keeps {α : Type} (g : AfeInput → α) {f : AfeInput → AfeInput} (h : ∀ x, g (f x) = g x)
    (s : State) (i j : Nat) : g (inputOf (setInput s i f) j) = g (inputOf s j) := by
  unfold inputOf
  rw [setInput_afe, nth_upd]
  split
  · exact h _
  · rfl

theorem length_setInput (s : State) (i : Nat) (f : AfeInput → AfeInput) :
    (setInput s i f).afe.inputs.length = s.afe.inputs.length := upd_length _ _ _

theorem raiseDetail_touches (s : State) (code inst a b d : Nat) :
    Touches [.flt, .modes, .notes, .obj 0x0C06, .obj 0x1011] s (raiseDetail s code inst a b d) :=
  touches_raiseDetail (.refl _ _) _ _ _ _ _ (by decide)

theorem updateFault_touches (s : State) (code inst d : Nat) :
    Touches [.flt, .notes, .obj 0x0C06] s (updateFault s code inst d) :=
  touches_updateFault (.refl _ _) _ _ _ (by decide)

/-- Of the state, a faulted line shows in its LINE_STATE and its LINE, in its input, and as a fault. -/
theorem lineFault_eq (s : State) (i detector cls : Nat) : ∃ t f, lineFault s i detector cls = showLine t i
    ∧ Touches [.flt, .modes, .notes, .obj 0x0C06, .obj 0x1011]
        (setInput (wr s Obj.AFE_STATUS.LINE_STATE i 1) i f) t
    ∧ ∀ x, (f x).collapseRun = x.collapseRun := by
  refine ⟨_, fun x => { x with pending := none, deferred := 0, forced := false, okRun := 0, winRun := 0, lineUntil :=
      none,
                               classKnown := lineClassHeld s i || decide (cls ≠ 5) }, rfl, ?_, fun _ => rfl⟩
  split
  · exact (raiseDetail_touches _ _ _ _ _ _).trans (updateFault_touches _ _ _ _ |>.mono (by decide))
  · exact raiseDetail_touches _ _ _ _ _ _

theorem lineState_lineFault (s : State) (i detector cls : Nat) : lineState (lineFault s i detector cls) i = 1 := by
  obtain ⟨t, f, heq, htouch, -⟩ := lineFault_eq s i detector cls
  rw [heq, lineState, showLine, rd_wr_apart _ _ _ _ (by decide), htouch.rd _ _ (by decide) (by decide), rd_setInput,
    rd_wr_same]
  rfl

theorem rd_lineFault (s : State) (i detector cls : Nat) {g : Field} (j : Nat)
    (hstate : apart Obj.AFE_STATUS.LINE_STATE g = true)
    (hline : apart Obj.AFE_STATUS.LINE g = true) (hout : outside [0x0C06, 0x1011] g = true) :
    rd (lineFault s i detector cls) g j = rd s g j := by
  obtain ⟨t, f, heq, htouch, -⟩ := lineFault_eq s i detector cls
  rw [heq, showLine, rd_wr_apart _ _ _ _ hline, htouch.rd_outside hout rfl, rd_setInput, rd_wr_apart _ _ _ _ hstate]

theorem collapseRun_lineFault (s : State) (i detector cls j : Nat) :
    (inputOf (lineFault s i detector cls) j).collapseRun = (inputOf s j).collapseRun := by
  obtain ⟨t, f, heq, htouch, hf⟩ := lineFault_eq s i detector cls
  rw [heq, showLine, inputOf_wr, inputOf_congr (htouch.1 .afe rfl), inputOf_setInput_keeps _ hf, inputOf_wr]

theorem length_lineFault (s : State) (i detector cls : Nat) :
    (lineFault s i detector cls).afe.inputs.length = s.afe.inputs.length := by
  obtain ⟨t, f, heq, htouch, -⟩ := lineFault_eq s i detector cls
  have hafe : t.afe = _ := htouch.1 .afe rfl
  rw [heq, showLine, wr_afe, hafe, length_setInput, wr_afe]

/-! ### The end of a probe interval (R54, R57) -/

theorem rd_storeResult (s : State) (i : Nat) (r : ProbeReading) (cls : Nat) (clean : Bool) :
    rd (storeResult s i r cls clean) Obj.PROBE_RESULT.CLASS i = cls % 2 ^ 3
      ∧ rd (storeResult s i r cls clean) Obj.AFE_STATUS.PROBE_CLASS i = cls % 2 ^ 3
      ∧ rd (storeResult s i r cls clean) Obj.PROBE_RESULT.RESULT_TIME i = ts96Now s % 2 ^ 96
      ∧ rd (storeResult s i r cls clean) Obj.PROBE_RESULT.AMPL_USED i
          = (inputOf s i).probe.ampl % 2 ^ Obj.PROBE_RESULT.AMPL_USED.width := by
  unfold storeResult
  dsimp only
  cases clean <;> simp +decide <;> exact ⟨rfl, rfl, rfl⟩

theorem storeResult_touches (s : State) (i : Nat) (r : ProbeReading) (cls : Nat) (clean : Bool) :
    Touches [.free, .obj 0x0103, .obj 0x0106] s (storeResult s i r cls clean) :=
  touches_storeResult (.refl _ _) _ _ _ _ (by decide)

theorem lineState_storeResult (s : State) (i : Nat) (r : ProbeReading) (cls : Nat) (clean : Bool) :
    lineState (storeResult s i r cls clean) i = lineState s i := by
  unfold lineState storeResult
  dsimp only
  split <;> split <;> simp +decide [drawFree] <;> rfl

theorem probeCounts_touches (s : State) (i cls : Nat) (drift : Bool) :
    Touches [.afe, .flt, .notes, .obj 0x0C06] s (probeCounts s i cls drift) :=
  touches_probeCounts (.refl _ _) _ _ _ (by decide)

theorem length_probeCounts (s : State) (i cls : Nat) (drift : Bool) :
    (probeCounts s i cls drift).afe.inputs.length = s.afe.inputs.length := by
  unfold probeCounts
  dsimp only
  split
  · rfl
  · split
    · split
      · rw [raise_afe, length_setInput]
      · exact length_setInput _ _ _
    · split
      · rw [raise_afe]; exact length_setInput _ _ _
      · split <;> exact length_setInput _ _ _

theorem rd_lineNormal (s : State) (i : Nat) {g : Field} (j : Nat) (hstate : apart Obj.AFE_STATUS.LINE_STATE g = true)
    (hline : apart Obj.AFE_STATUS.LINE g = true) : rd (lineNormal s i) g j = rd s g j :=
  (rd_wr_apart _ _ _ _ hline).trans (rd_wr_apart s _ _ _ hstate)

theorem lineState_lineNormal (s : State) (i : Nat) : lineState (lineNormal s i) i = 0 := by
  show rd (wr (endFault (setInput (wr s _ i 0) i _) _ i) _ i _) _ i = 0
  rw [rd_wr_apart _ _ _ _ (by decide)]
  exact rd_wr_same s _ i 0

theorem collapseRun_lineNormal (s : State) (i j : Nat) :
    (inputOf (lineNormal s i) j).collapseRun = (inputOf s j).collapseRun := by
  unfold lineNormal showLine
  refine inputOf_setInput_keeps AfeInput.collapseRun ?_ (wr s _ i 0) i j
  exact fun _ => rfl

theorem lineState_lineRecovered (s : State) (i : Nat) : lineState (lineRecovered s i) i
    = if lineState s i = 2 ∧ 2 ≤ (inputOf s i).okRun ∧ 15 ≤ (inputOf s i).winRun then 0 else lineState s i := by
  unfold lineRecovered
  split
  · exact lineState_lineNormal s i
  · rfl

theorem collapseRun_lineRecovered (s : State) (i j : Nat) :
    (inputOf (lineRecovered s i) j).collapseRun = (inputOf s j).collapseRun := by
  unfold lineRecovered
  split
  · exact collapseRun_lineNormal s i j
  · rfl

theorem rd_lineRecovered (s : State) (i : Nat) {g : Field} (j : Nat)
    (hstate : apart Obj.AFE_STATUS.LINE_STATE g = true) (hline : apart Obj.AFE_STATUS.LINE g = true) :
    rd (lineRecovered s i) g j = rd s g j := by
  unfold lineRecovered
  split
  · exact rd_lineNormal s i j hstate hline
  · rfl

theorem length_lineRecovered (s : State) (i : Nat) :
    (lineRecovered s i).afe.inputs.length = s.afe.inputs.length := by
  unfold lineRecovered
  split
  · exact length_setInput _ _ _
  · rfl

/-- Of the fields of an input, a probe class shows in LINE_STATE and LINE. -/
theorem rd_probeLine (s : State) (i cls : Nat) (clean : Bool) {g : Field} (j : Nat)
    (hstate : apart Obj.AFE_STATUS.LINE_STATE g = true) (hline : apart Obj.AFE_STATUS.LINE g = true)
    (hout : outside [0x0C06, 0x1011] g = true) : rd (probeLine s i cls clean) g j = rd s g j := by
  have hfault := fun d => rd_lineFault s i d cls j hstate hline hout
  unfold probeLine
  dsimp only
  split
  · split
    · exact hfault 0
    · rfl
  · split
    · have hout' : outside [0x0C06] g = true := by
        simp only [outside, Bool.and_eq_true, List.contains_cons, Bool.not_eq_true', Bool.or_eq_false_iff] at hout ⊢
        exact ⟨hout.1, hout.2.1, rfl⟩
      exact (updateFault_touches _ _ _ _).rd_outside hout' rfl
    · split
      · exact rd_wr_apart s _ _ _ hstate
      · rfl
  · split
    · exact hfault 0
    · split
      · exact rd_lineRecovered _ i j hstate hline
      · split <;> rfl
  · rfl

theorem length_probeLine (s : State) (i cls : Nat) (clean : Bool) :
    (probeLine s i cls clean).afe.inputs.length = s.afe.inputs.length := by
  unfold probeLine
  dsimp only
  split
  · split
    · exact length_lineFault _ _ _ _
    · rfl
  · split
    · exact (congrArg (fun x => x.inputs.length) ((updateFault_touches _ _ _ _).1 .afe rfl)).trans
        (length_setInput _ _ _)
    · split
      · exact length_setInput _ _ _
      · rfl
  · split
    · exact length_lineFault _ _ _ _
    · split
      · rw [length_lineRecovered, length_setInput]
      · split
        · exact length_setInput _ _ _
        · rfl
  · rfl

theorem lineState_probeLine_of_normal {s : State} {i cls : Nat} (clean : Bool) (h : lineState s i = 0)
    (hcls : cls = 1 ∨ cls = 2) : lineState (probeLine s i cls clean) i = 1 := by
  unfold probeLine
  rw [h]
  dsimp only
  rw [if_pos (by simpa using hcls)]
  exact lineState_lineFault s i 0 cls

theorem probeLatch_touches (s : State) (i : Nat) : Touches [.live] s (probeLatch s i) :=
  touches_probeLatch (.refl _ _) _ (by decide)

theorem rd_probeNext (s : State) (i : Nat) (r : ProbeReading) (g : Field) (j : Nat) (h : outside [] g = true) :
    rd (probeNext s i r) g j = rd s g j := by
  unfold probeNext
  rw [rd_setInput]
  exact (probeLatch_touches s i).rd_outside h rfl

theorem ampl_probeNext {s : State} {i : Nat} (r : ProbeReading) (h : i < s.afe.inputs.length) :
    (inputOf (probeNext s i r) i).probe.ampl = nextAmpl s i r := by
  have hafe : (probeLatch s i).afe = s.afe := (probeLatch_touches s i).1 .afe rfl
  unfold probeNext
  dsimp only
  rw [inputOf_setInput _ (by rw [hafe]; exact h)]

theorem nextAmpl_congr {s t : State} {i : Nat} (h : rd t Obj.PROBE_CFG.AMPL i = rd s Obj.PROBE_CFG.AMPL i)
    (r : ProbeReading) : nextAmpl t i r = nextAmpl s i r := by
  unfold nextAmpl
  rw [h]

/-- The class of a reading is one of the six of R54. -/
theorem classify_lt (s : State) (i : Nat) (r : ProbeReading) : (classify s i r).1 < 8 := by
  have hline : ∀ z d, (lineClass s i z d).1 < 8 := fun z d => by
    unfold lineClass
    split_ifs <;> decide
  unfold classify
  dsimp only
  split
  · decide
  · split
    · decide
    · exact hline _ _

theorem probeIntervalEnd_stores {s : State} {i : Fin 256} {r : ProbeReading} (hon : cnvOn s = true)
    (hrun : (inputOf s i).probe.running = true) (hline : lineState s i ≠ 3) (hsweep : bit s.afe.sweepMask i = false) :
    ∃ t, exec (.probeIntervalEnd i r) s = .next t ∧ rd t Obj.PROBE_RESULT.CLASS i = (classify s i r).1
      ∧ rd t Obj.AFE_STATUS.PROBE_CLASS i = (classify s i r).1
      ∧ rd t Obj.PROBE_RESULT.RESULT_TIME i = ts96Now s % 2 ^ 96
      ∧ rd t Obj.PROBE_RESULT.AMPL_USED i = (inputOf s i).probe.ampl % 2 ^ Obj.PROBE_RESULT.AMPL_USED.width
      ∧ (s.afe.inputs.length = 256 → (inputOf t i).probe.ampl = nextAmpl s i r)
      ∧ (lineState s i = 0 → (classify s i r).1 = 1 ∨ (classify s i r).1 = 2 → lineState t i = 1) := by
  have hclass : (classify s i r).1 % 2 ^ 3 = (classify s i r).1 := Nat.mod_eq_of_lt (classify_lt s i r)
  generalize hcls : (classify s i r).1 = cls at hclass ⊢
  generalize hdrift : (classify s i r).2 = drift
  generalize hclean : (decide (cls = 0) && !drift) = clean
  let s1 := storeResult s i r cls clean
  let s2 := probeCounts s1 i cls drift
  let s3 := probeLine s2 i cls clean
  have hrd : ∀ g : Field, apart Obj.AFE_STATUS.LINE_STATE g = true → apart Obj.AFE_STATUS.LINE g = true →
      outside [0x0C06, 0x1011] g = true → outside [0x0C06] g = true → outside [] g = true →
      rd (probeNext s3 i r) g i = rd s1 g i := fun g h1 h2 h3 h4 h5 => by
    rw [rd_probeNext _ _ _ _ _ h5, rd_probeLine _ _ _ _ _ h1 h2 h3, (probeCounts_touches _ _ _ _).rd_outside h4 rfl]
  obtain ⟨h1, h2, h3, h4⟩ := rd_storeResult s i r cls clean
  refine ⟨probeNext s3 i r, ?_, ?_, ?_, ?_, ?_, fun hlen => ?_, fun hnormal hopen => ?_⟩
  · show execProbeIntervalEnd i r s = _
    simp [execProbeIntervalEnd, hon, hrun, hline, hsweep, hcls, hdrift, hclean, s3, s2, s1]
  · rw [hrd _ (by decide) (by decide) (by decide) (by decide) (by decide), h1, hclass]
  · rw [hrd _ (by decide) (by decide) (by decide) (by decide) (by decide), h2, hclass]
  · rw [hrd _ (by decide) (by decide) (by decide) (by decide) (by decide), h3]
  · rw [hrd _ (by decide) (by decide) (by decide) (by decide) (by decide), h4]
  · have hafe : s1.afe = s.afe := (storeResult_touches s i r cls clean).1 .afe rfl
    rw [ampl_probeNext]
    · refine nextAmpl_congr ?_ r
      rw [rd_probeLine _ _ _ _ _ (by decide) (by decide) (by decide),
        (probeCounts_touches _ _ _ _).rd_outside (os := [0x0C06]) (by decide) rfl,
        (storeResult_touches _ _ _ _ _).rd_outside (os := [0x0103, 0x0106]) (by decide) rfl]
    · rw [length_probeLine, length_probeCounts, hafe, hlen]
      exact i.isLt
  · have hs2 : lineState s2 i = 0 := by
      rw [← hnormal, ← lineState_storeResult s i r cls clean]
      exact (probeCounts_touches _ _ _ _).rd_outside (os := [0x0C06]) (by decide) rfl
    exact (rd_probeNext _ _ _ _ _ (by decide)).trans (lineState_probeLine_of_normal clean hs2 hopen)

/-! ### The end of an RMS window (R56, R57) -/

theorem length_of_windowWhole {s : State} {i : Nat} (h : windowWhole s i = true) : i < s.afe.inputs.length :=
  length_of_frames fun hnil => by simp [windowWhole, hnil] at h

theorem rmsWindowEnd_collapsed {s : State} {i : Fin 256} (hon : cnvOn s = true) (hline : lineState s i ≠ 3)
    (hdue : spxNow s % 64 = 0) (hwhole : windowWhole s i = true) (hskip : windowSkipped s i = false)
    (hcoll : windowCollapsed s i = true) :
    ∃ t, exec (.rmsWindowEnd i) s = .next t ∧ (inputOf t i).collapseRun = (inputOf s i).collapseRun + 1
      ∧ lineState t i = (if lineState s i = 2 ∨ lineState s i = 0 ∧ (inputOf s i).collapseRun = 14 then 1
          else lineState s i) := by
  let s1 := setInput s i (fun x => { x with collapseRun := (inputOf s i).collapseRun + 1, lastCollapsed := true })
  have hrun : (inputOf s1 i).collapseRun = (inputOf s i).collapseRun + 1 := by
    rw [inputOf_setInput _ (length_of_windowWhole hwhole)]
  have hexec : exec (.rmsWindowEnd i) s
      = .next (if lineState s i = 2 ∨ lineState s i = 0 ∧ (inputOf s i).collapseRun = 14 then lineFault s1 i 1 5
          else s1) := by
    show execRmsWindowEnd i s = _
    rw [execRmsWindowEnd, if_pos (by simp [hon, hline, hdue]), if_neg (by simp [hwhole, hskip]), if_pos hcoll]
    dsimp only
    split_ifs <;> first | rfl | omega
  refine ⟨_, hexec, ?_⟩
  split
  · exact ⟨(collapseRun_lineFault _ _ _ _ _).trans hrun, lineState_lineFault _ _ _ _⟩
  · exact ⟨hrun, rfl⟩

theorem rmsWindowEnd_not_collapsed {s : State} {i : Fin 256} (hon : cnvOn s = true) (hline : lineState s i ≠ 3)
    (hdue : spxNow s % 64 = 0) (hwhole : windowWhole s i = true) (hskip : windowSkipped s i = false)
    (hcoll : windowCollapsed s i = false) :
    ∃ t, exec (.rmsWindowEnd i) s = .next t ∧ (inputOf t i).collapseRun = 0
      ∧ lineState t i = (if lineState s i = 2 ∧ 2 ≤ (inputOf s i).okRun ∧ 14 ≤ (inputOf s i).winRun then 0
          else lineState s i) := by
  have hlen := length_of_windowWhole hwhole
  have hexec : ∃ s1, exec (.rmsWindowEnd i) s
      = .next (if lineState s i = 2 then lineRecovered (setInput s1 i (fun x => { x with winRun := x.winRun + 1 })) i
          else s1) ∧ i < s1.afe.inputs.length ∧ lineState s1 i = lineState s i
      ∧ (inputOf s1 i).collapseRun = 0 ∧ (inputOf s1 i).okRun = (inputOf s i).okRun
      ∧ (inputOf s1 i).winRun = (inputOf s i).winRun := by
    let s1 := setInput s i (fun x =>
      { x with collapseRun := 0, lastCollapsed := false,
               refWindows := if lineState s i = 0 then (windowPower s i :: x.refWindows).take 1024 else x.refWindows })
    refine ⟨s1, ?_, ?_, rfl, ?_⟩
    · show execRmsWindowEnd i s = _
      rw [execRmsWindowEnd, if_pos (by simp [hon, hline, hdue]), if_neg (by simp [hwhole, hskip]), hcoll,
        if_neg Bool.false_ne_true]
      by_cases h2 : lineState s i = 2
      · rw [if_pos h2]
        exact congrArg _ (if_pos h2).symm
      · rw [if_neg h2]
        exact congrArg _ (if_neg h2).symm
    · rw [length_setInput]
      exact hlen
    · rw [inputOf_setInput _ hlen]
      exact ⟨rfl, rfl, rfl⟩
  obtain ⟨s1, hexec, hlen1, hstate, hrun, hok, hwin⟩ := hexec
  refine ⟨_, hexec, ?_⟩
  split
  · next h2 =>
    rw [collapseRun_lineRecovered, lineState_lineRecovered, inputOf_setInput _ hlen1]
    dsimp only
    rw [hrun, hok, hwin, show lineState (setInput s1 i _) i = lineState s1 i from rfl, hstate]
    exact ⟨rfl, by simp [h2]⟩
  · next h2 => exact ⟨hrun, by simp [h2, hstate]⟩

/-- Settles O16: the class that the interval ends with is stored and moves the line; a window counts and moves it. -/
theorem lineDetectorsComplete : Obligations.LineDetectorsComplete :=
  ⟨fun _ _ _ => probeIntervalEnd_stores, fun _ _ hon hline hdue hwhole hskip =>
    ⟨rmsWindowEnd_collapsed hon hline hdue hwhole hskip, rmsWindowEnd_not_collapsed hon hline hdue hwhole hskip⟩⟩

/-! ### ENABLE at a frame boundary (R62) -/

theorem lineState_frameEnable_of_disabled {s : State} {i : Nat} (h : rd s Obj.AFE_INPUT.ENABLE i = 0) (m : Nat) :
    lineState (frameEnable s i m) i = 3 := by
  unfold frameEnable
  rw [if_neg (by simp [flag, h])]
  split
  · assumption
  · exact rd_wr_same s _ _ _

theorem frameLine_touches (s : State) (i m : Nat) : Touches [.afe] s (frameLine s i m) :=
  touches_frameLine (.refl _ _) _ _ (by decide)

theorem lineState_frameRange (s : State) (i m : Nat) : lineState (frameRange s i m) i = lineState s i := by
  have happly : ∀ code, lineState (applyRange s i m code) i = lineState s i := fun code =>
    (rd_wr_apart _ _ _ _ (by decide)).trans (rd_wr_apart s _ _ _ (by decide))
  unfold frameRange
  split
  · split
    · rfl
    · exact happly _
  · split
    · rfl
    · split
      · exact happly _
      · rfl

/-- A line that is not NORMAL shows LINE. -/
theorem showLine_of_not_normal {s : State} {i : Nat} (h : lineState s i ≠ 0) :
    lineState (showLine s i) i = lineState s i ∧ rd (showLine s i) Obj.AFE_STATUS.LINE i = 1 := by
  refine ⟨rd_wr_apart _ _ _ _ (by decide), ?_⟩
  rw [showLine, rd_wr_same]
  simp +decide [lineMarked, h, b2n]

/-- Settles O18: the boundary sets DISABLED where ENABLE is 0, and a line that is not NORMAL shows LINE. -/
theorem disabledAtFrame : Obligations.DisabledAtFrame := by
  intro s m i henable
  have hopen : lineState (frameLine (frameEnable (if cnvOn s then frameClose s i else s) i m) i m) i = 3 := by
    refine ((frameLine_touches _ _ _).rd_outside (os := []) (by decide) rfl).trans
      (lineState_frameEnable_of_disabled ?_ m)
    split <;> exact henable
  have hframe := (lineState_frameRange (latch _ [Obj.AFE_INPUT.ARC, Obj.AFE_INPUT.FORCE_LINE] i) i m).trans hopen
  have hset : ∀ f, lineState (setInput (frameRange _ i m) i f) i = 3 := fun _ => hframe
  unfold afeFrame
  dsimp only
  refine ⟨(showLine_of_not_normal ?_).1.trans (hset _), (showLine_of_not_normal ?_).2⟩ <;>
    · rw [hset]
      decide

end Sys2Proof
end

section
/-! PROOF. The sample clock: words of the converters, the boundaries of frames and blocks, the corrections (chapters 3
and 5). -/

namespace Sys2Proof

-- one proof at a time, which bounds the memory of the compile
set_option Elab.async false

open Sys2Proof.Machine

/-! ### Words of the converters (R93) -/

theorem captureWord_histEnd (s : State) (words : List InputWord) (w : Nat) :
    (captureWord s words w).cnv.histEnd = s.cnv.histEnd := by
  unfold captureWord
  split
  · rfl
  · split <;> rfl

theorem captureDone_histEnd (s : State) : (captureDone s).cnv.histEnd = s.cnv.histEnd := by
  unfold captureDone
  split
  · rfl
  · split
    · rfl
    · dsimp only
      refine (congrArg Converters.histEnd (Touches.cnv_eq (ps := [.ctl, .pwr, .obj 0x0A04])
        (r := setCnv s (fun v => { v with capture := none })) ?_)).trans rfl
      refine .foldl _ _ (.foldl _ _ (.refl _ _) fun t d h => touches_demandDown h d (by decide)) fun t m h => ?_
      split
      · split
        · exact touches_commit h _ _ _ (by decide)
        · exact h
      · exact h

/-- The word that joins the history is the last thing that moves its end. -/
theorem converterWords_histEnd {s : State} (hon : cnvOn s = true) (hsome : 16 ≤ s.time.rc64) (w : WordIn) :
    (converterWords s w).cnv.histEnd = s.time.rc64 := by
  unfold converterWords
  dsimp only
  rw [if_pos hon]
  have hlate : ∀ u : State, (softJudged (triggerWord u w.upsets)).cnv = u.cnv := fun u =>
    (touches_softJudged (touches_triggerWord (.refl [.axl, .ctl, .evt, .flt, .notes, .out, .peer, .trg, .obj 0x0506,
      .obj 0x0508, .obj 0x0509, .obj 0x0C06, .obj 0x0D05] u) w.upsets (by decide)) (by decide)).cnv_eq
  rw [hlate, captureDone_histEnd, captureWord_histEnd]
  exact Nat.sub_add_cancel hsome

theorem converterWord_joins {s : State} (w : WordIn) (hoff : s.time.off = false) (hdue : s.time.rc64 % 16 = 0)
    (hsome : 16 ≤ s.time.rc64) (hon : cnvOn s = true) :
    ∃ t, exec (.converterWord w) s = .next t ∧ t.cnv.histEnd = s.time.rc64 :=
  ⟨_, if_pos (by simp [hoff, hdue, hsome]), converterWords_histEnd hon hsome w⟩

/-! ### Boundaries of frames and blocks (R49, R112) -/

theorem receiverFrame_lastFrame {s : State} (hon : cnvOn s = true) (m : Nat) :
    (receiverFrame s m).afe.lastFrame = m - 1 := by
  unfold receiverFrame
  dsimp only
  rw [if_pos hon]
  rw [(touches_frameCorrections (.refl [.cnv] _) (by decide)).afe_eq]

theorem frameBoundary_closes {s : State} (hoff : s.time.off = false) (hdue : s.time.rc64 % 2048 = 0)
    (hon : cnvOn s = true) :
    ∃ t, exec .frameBoundary s = .next t ∧ t.afe.lastFrame = s.time.rc64 / 2048 - 1 := by
  refine ⟨_, if_pos (by simp [hoff, hdue]), ?_⟩
  have hframe := receiverFrame_lastFrame hon (s.time.rc64 / 2048)
  generalize receiverFrame s (s.time.rc64 / 2048) = s1 at hframe ⊢
  rw [← hframe]
  refine congrArg Afe.lastFrame (Touches.afe_eq (ps := [.cal, .live, .out, .trg, .obj 0x1304]) (r := s1) ?_)
  have hlive : Touches [.cal, .live, .out, .trg, .obj 0x1304] s1 (if watchOn s1 then
      (List.range 256).foldl (fun t i => latch t Obj.BBL_ENV.fields i) (latch s1 Obj.BBL_VIGIL.fields 0) else s1) := by
    split
    · exact .foldl _ _ (touches_latch (.refl _ _) _ _ (by decide)) fun t i h => touches_latch h _ _ (by decide)
    · exact .refl _ _
  generalize (if watchOn s1 then _ else s1) = s2 at hlive ⊢
  have htrig : Touches [.cal, .live, .out, .trg, .obj 0x1304] s1 (if s2.trg.running then triggerFrame s2
      else trigoutFrame s2) := by
    split
    · exact touches_triggerFrame hlive (by decide)
    · exact touches_trigoutFrame hlive (by decide)
  generalize (if s2.trg.running then triggerFrame s2 else trigoutFrame s2) = s3 at htrig ⊢
  split
  · exact touches_calFrame htrig (by decide)
  · exact htrig

/-! ### Corrections of the converters (R95, R96) -/

theorem updatedCorrection_of_held {s : State} {estimator : List Int} {j : Nat} (h : correctionsHeld s (j / 8) = true) :
    updatedCorrection s estimator j = nth s.cnv.corr j ⟨0, 0, 0⟩ := by
  simp [updatedCorrection, h]

theorem nth_map_range {α : Type} (f : Nat → α) (d : α) {j n : Nat} (h : j < n) :
    nth ((List.range n).map f) j d = f j := by
  simp [nth, List.getD_eq_getElem?_getD, h]

theorem cnvCalUpdate_prepares {s : State} (estimator : List Int) (hon : cnvOn s = true)
    (hrun : lv s Obj.CNV_CAL.RUN ≠ 0) (hdue : lv s Obj.CNV_CAL.UPDATE ≤ s.cnv.blocks) :
    ∃ t new, exec (.cnvCalUpdate estimator) s = .next t ∧ t.cnv.corrNext = some new ∧ new.length = 2048
      ∧ t.cnv.blocks = 0 ∧ t.cnv.corr = s.cnv.corr
      ∧ ∀ j < 2048, correctionsHeld s (j / 8) = true → nth new j ⟨0, 0, 0⟩ = nth s.cnv.corr j ⟨0, 0, 0⟩ :=
  ⟨_, (List.range 2048).map (updatedCorrection s estimator), if_pos (by simp [hon, hrun, hdue]), rfl, by simp, rfl, rfl,
    fun _ hj hheld => (nth_map_range _ _ hj).trans (updatedCorrection_of_held hheld)⟩

theorem cnvCoeffStore_stores {s : State} (hon : cnvOn s = true) :
    ∃ t, exec .cnvCoeffStore s = .next t ∧ t.cnv.stored = s.cnv.corr ∧ rd t Obj.CNV_CAL_INFO.STORED_VALID = 1
      ∧ rd t Obj.CNV_CAL_INFO.STORE_TIME = ts96Now s % 2 ^ 96 := by
  refine ⟨storeCoefficients s, if_pos hon, rfl, ?_, rd_wr_same _ _ _ _⟩
  unfold storeCoefficients
  rw [rd_wr_apart _ _ _ _ (by decide), rd_wr_apart _ _ _ _ (by decide), rd_wr_same]
  rfl

/-! ### The boundary of a block (R93, R112) -/

/-- Writing fields changes the registers only. -/
theorem foldl_wr_eq (l : List (Field × Nat)) (s : State) (i : Nat) :
    ∃ regs, l.foldl (fun t p => wr t p.1 i p.2) s = { s with regs := regs } := by
  induction l generalizing s with
  | nil => exact ⟨s.regs, rfl⟩
  | cons p l ih => exact ih (wr s p.1 i p.2)

/-- What a block boundary shows of an input that ran through the block. -/
def blockShown (s : State) (i image : Nat) : List (Field × Nat) :=
  [(Obj.CNV_STATUS.OVR_COUNT, mapGet s.cnv.ovr i),
    (Obj.CNV_STATUS.HELD, b2n (decide (lineState s i = 3) || decide (lv s Obj.CNV_CAL.FREEZE ≠ 0) || blockMarked s i)),
    (Obj.CNV_STATUS.IMAGE, min 127 image), (Obj.CNV_STATUS.CONVERGED, 1),
    (Obj.CNV_STATUS.SPX0, spxOf (s.time.rc64 - 2097152))]

/-- Beside what it shows, the block of an input moves the runs of its image and raises or clears its faults. -/
theorem converterBlock_eq (s : State) (i image : Nat) :
    ∃ s2, Touches [.flt, .notes, .obj 0x0C06] s2 (converterBlock s i image)
    ∧ ∃ f, s2 = setCnv ((blockShown s i image).foldl (fun t p => wr t p.1 i p.2) s) f ∧ ∀ v, (f v).ovr = v.ovr := by
  unfold converterBlock
  extract_lets ovr held s1 spur clean s2 s3 s4
  refine ⟨s2, ?_, _, rfl, fun _ => rfl⟩
  have h3 : Touches [.flt, .notes, .obj 0x0C06] s2 s3 := by
    unfold s3
    split
    · exact touches_raise_plain (.refl _ _) (by decide) _ _ _ (by decide)
    · exact .refl _ _
  have h4 : Touches [.flt, .notes, .obj 0x0C06] s2 s4 := by
    unfold s4
    split
    · exact touches_clearFault h3 _ _ (by decide)
    · exact h3
  split
  · exact touches_raise_plain h4 (by decide) _ _ _ (by decide)
  · exact h4

theorem converterBlock_keeps (s : State) (i image : Nat) :
    (converterBlock s i image).cnv.ovr = s.cnv.ovr ∧ (converterBlock s i image).time = s.time := by
  obtain ⟨s2, htouch, f, rfl, hf⟩ := converterBlock_eq s i image
  obtain ⟨regs, hregs⟩ := foldl_wr_eq (blockShown s i image) s i
  rw [htouch.cnv_eq, htouch.time_eq, hregs]
  exact ⟨hf _, rfl⟩

theorem rd_converterBlock (s : State) (i image : Nat) {g : Field} (j : Nat) (h : outside [0x0C06] g = true) :
    rd (converterBlock s i image) g j = rd ((blockShown s i image).foldl (fun t p => wr t p.1 i p.2) s) g j := by
  obtain ⟨s2, htouch, f, rfl, -⟩ := converterBlock_eq s i image
  rw [htouch.rd_outside h rfl, rd_setCnv]

theorem converterBlock_shows (s : State) (i image : Nat) :
    rd (converterBlock s i image) Obj.CNV_STATUS.SPX0 i = spxOf (s.time.rc64 - 2097152)
      ∧ rd (converterBlock s i image) Obj.CNV_STATUS.OVR_COUNT i
        = mapGet s.cnv.ovr i % 2 ^ Obj.CNV_STATUS.OVR_COUNT.width := by
  have hspx : spxOf (s.time.rc64 - 2097152) % 2 ^ 32 = spxOf (s.time.rc64 - 2097152) := Nat.mod_mod _ _
  rw [rd_converterBlock _ _ _ _ (by decide), rd_converterBlock _ _ _ _ (by decide)]
  unfold blockShown
  simp only [List.foldl_cons, List.foldl_nil]
  exact ⟨(rd_wr_same _ _ _ _).trans hspx, by simp +decide⟩

/-- The block of one input leaves what the others show. -/
theorem converterBlock_other (s : State) {i j : Nat} (image : Nat) {g : Field} (hi : i < 256) (hj : j < 256)
    (hne : i ≠ j)
    (h : outside [0x0C06] g = true) : rd (converterBlock s i image) g j = rd s g j := by
  have hcopy : ∀ (t : State) (f : Field) (v : Nat), f.lo < 4096 → rd (wr t f i v) g j = rd t g j := fun t f v hf =>
    rd_wr_copy _ _ (by omega) hf (by simp only [outside, Bool.and_eq_true, decide_eq_true_eq] at h; exact h.1)
  rw [rd_converterBlock _ _ _ _ h]
  simp only [blockShown, List.foldl_cons, List.foldl_nil]
  rw [hcopy _ _ _ (by decide), hcopy _ _ _ (by decide), hcopy _ _ _ (by decide), hcopy _ _ _ (by decide),
    hcopy _ _ _ (by decide)]

/-- The state once each input that ran through the block has shown it. -/
def blocksShown (s : State) (images : List Nat) : State :=
  (List.range 256).foldl (fun t i => if wholeBlock s i then converterBlock t i (nth images i 0) else t) s

theorem converterBlocks_show {s : State} {i : Nat} (images : List Nat) (hi : i < 256) (hwhole : wholeBlock s i = true) :
    rd (blocksShown s images) Obj.CNV_STATUS.SPX0 i = spxOf (s.time.rc64 - 2097152)
      ∧ rd (blocksShown s images) Obj.CNV_STATUS.OVR_COUNT i = mapGet s.cnv.ovr i % 2 ^
          Obj.CNV_STATUS.OVR_COUNT.width := by
  have hall : ∀ (f : Field) (v : Nat), outside [0x0C06] f = true →
      (∀ t : State, t.cnv.ovr = s.cnv.ovr ∧ t.time = s.time → rd (converterBlock t i (nth images i 0)) f i = v) →
      rd (blocksShown s images) f i = v := fun f v hf hat => by
    refine foldl_range_at (P := fun t : State => t.cnv.ovr = s.cnv.ovr ∧ t.time = s.time) _ (fun t => rd t f i) hi
      ⟨rfl, rfl⟩ (fun t j ht => ?_) (fun t j hj hne => ?_) fun t ht => ?_
    · split
      · obtain ⟨hovr, htime⟩ := converterBlock_keeps t j (nth images j 0)
        exact ⟨hovr.trans ht.1, htime.trans ht.2⟩
      · exact ht
    · split
      · exact converterBlock_other t _ hj hi hne hf
      · rfl
    · rw [if_pos hwhole]
      exact hat t ht
  refine ⟨hall _ _ (by decide) fun t ht => ?_, hall _ _ (by decide) fun t ht => ?_⟩
  · rw [(converterBlock_shows t i _).1, ht.2]
  · rw [(converterBlock_shows t i _).2, ht.1]

/-- After the converters' part of a block boundary nothing touches them any more. -/
theorem blockBoundary_touches (s1 : State) :
    Touches [.cal, .chz, .flt, .live, .notes, .out, .pwr, .sun, .trg, .obj 0x0406,
    .obj 0x050A, .obj 0x0907, .obj 0x0A04, .obj 0x0C06, .obj 0x1011, .obj 0x1304] s1
      (stopStreams (calBlock (channelizerBoundary (if s1.trg.running then triggerBlock s1 else s1)))) := by
  refine touches_stopStreams (touches_calBlock (touches_channelizerBoundary ?_ (by decide)) (by decide)) (by decide)
  split
  · exact touches_triggerBlock (.refl _ _) (by decide)
  · exact .refl _ _

theorem blockBoundary_latches {s : State} (images : List Nat) (hoff : s.time.off = false)
    (hdue : s.time.rc64 % 2097152 = 0) (hsome : 0 < s.time.rc64) (hon : cnvOn s = true) :
    ∃ t, exec (.blockBoundary images) s = .next t ∧ t.cnv.ovr = [] ∧ t.cnv.flagged = [] ∧ t.cnv.samples = []
      ∧ ∀ i : Fin 256, wholeBlock s i = true → rd t Obj.CNV_STATUS.SPX0 i = spxOf (s.time.rc64 - 2097152)
          ∧ rd t Obj.CNV_STATUS.OVR_COUNT i = mapGet s.cnv.ovr i % 2 ^ Obj.CNV_STATUS.OVR_COUNT.width := by
  refine ⟨_, if_pos (by simp [hoff, hdue, hsome]), ?_⟩
  have htouch := blockBoundary_touches (converterBoundary s images)
  have hlatch : ∀ u : State, Touches [.live] u (latch u Obj.CNV_CAL.fields 0) := fun u =>
    touches_latch (.refl _ _) _ _ (by decide)
  have hcnv : (converterBoundary s images).cnv = (converterCounts (blocksShown s images)).cnv := by
    rw [converterBoundary, if_pos hon, (hlatch _).cnv_eq, blocksShown]
  rw [htouch.cnv_eq, hcnv]
  refine ⟨rfl, rfl, rfl, fun i hi => ?_⟩
  have hread : ∀ f u, outside [0x0406, 0x050A, 0x0907, 0x0A04, 0x0C06, 0x1011, 0x1304] f = true → outside [] f = true →
      Touches [.cal, .chz, .flt, .live, .notes, .out, .pwr, .sun, .trg, .obj 0x0406, .obj 0x050A, .obj 0x0907,
        .obj 0x0A04, .obj 0x0C06, .obj 0x1011, .obj 0x1304] (converterBoundary s images) u →
      rd u f i = rd (blocksShown s images) f i := fun f u hf hf' hu => by
    rw [hu.rd_outside hf rfl, converterBoundary, if_pos hon, (hlatch _).rd_outside hf' rfl, converterCounts, rd_setCnv,
      blocksShown]
  rw [hread _ _ (by decide) (by decide) htouch, hread _ _ (by decide) (by decide) htouch]
  exact converterBlocks_show images i.isLt hi

/-- Settles O17: the command of each clause, its guard and the part that it sets last. -/
theorem streamEventsComplete : Obligations.StreamEventsComplete :=
  ⟨fun w _ => converterWord_joins w, fun _ => frameBoundary_closes, fun images _ => blockBoundary_latches images,
    fun estimator _ => cnvCalUpdate_prepares estimator, fun _ => cnvCoeffStore_stores⟩

end Sys2Proof
end

section
/-! PROOF. The ring memory (spec 04): the writer's segments, the freeze strobes, the one-shots, the on-demand
digitizer, the capture wake set. The lemmas say what each operation keeps; the three obligations are assembled from
the clauses. -/

namespace Sys2Proof

-- one proof at a time, which bounds the memory of the compile
set_option Elab.async false

open Sys2Proof.Machine

/-! ### Segments of the writer (R69, R70) -/

theorem nextSeg_lt (segs : List Segment) (j : Nat) : nextSeg segs j < 64 := by
  unfold nextSeg
  split <;> exact Nat.mod_lt _ (by decide)

theorem holdSeg_segs_length (s : State) (j id : Nat) : (holdSeg s j id).bbl.segs.length = s.bbl.segs.length :=
  upd_length _ _ _

theorem reservePre_segs_length (k : Nat) (s : State) (id tag last : Nat) :
    (reservePre k s id tag last).bbl.segs.length = s.bbl.segs.length := by
  induction k generalizing s tag last with
  | zero => rfl
  | succ k ih =>
    unfold reservePre
    split
    · split
      · rfl
      · exact (ih _ _ _).trans (holdSeg_segs_length _ _ _)
    · dsimp only
      split
      · rfl
      · exact (ih _ _ _).trans (holdSeg_segs_length _ _ _)

theorem setWindow_segs (s : State) (id : Nat) (f : Window → Window) : (setWindow s id f).bbl.segs = s.bbl.segs := rfl

theorem reservePost_segs_length (k : Nat) (s : State) (id h : Nat) :
    (reservePost k s id h).bbl.segs.length = s.bbl.segs.length := by
  induction k generalizing s with
  | zero => rfl
  | succ k ih =>
    unfold reservePost
    split
    · rfl
    · dsimp only
      split
      · rfl
      · refine (ih _).trans ?_
        rw [setWindow_segs]
        split
        · split
          · rfl
          · exact holdSeg_segs_length _ _ _
        · rfl

theorem freezeWindow_segs (s : State) (id : Nat) : (freezeWindow s id).bbl.segs = s.bbl.segs := by
  unfold freezeWindow
  split
  · rfl
  · dsimp only
    rw [setWindow_segs]
    split
    · rfl
    · exact congrArg Bluebell.segs
        (touches_digitizerUp (.refl [.pwr, .obj 0x0A04, .obj 0x1011] s) (by decide)).bbl_eq

theorem windowBoundary_segs_length (s : State) (id : Nat) :
    (windowBoundary s id).bbl.segs.length = s.bbl.segs.length := by
  unfold windowBoundary
  split
  · rfl
  · split
    · rfl
    · extract_lets last s1 s2
      have h1 : s1.bbl.segs.length = s.bbl.segs.length := by
        unfold s1
        split
        · exact reservePre_segs_length _ _ _ _ _
        · rfl
      have h2 : s2.bbl.segs.length = s.bbl.segs.length := (reservePost_segs_length _ _ _ _).trans h1
      split
      · split
        · rw [freezeWindow_segs]
          exact h2
        · exact h2
      · exact h2

theorem exec_segmentBoundary {s : State} (hwrite : s.bbl.writing = true) (hdue : s.time.rc64 % 128 = 0) :
    exec .segmentBoundary s = .next (showBbl (writerMoves (windowConfig (returnSegments
      (((segmentEnds s).bbl.windows.map (fun w => w.id)).foldl windowBoundary (segmentEnds s)))))) :=
  if_pos (by simp [hwrite, hdue])

theorem segmentBoundary_moves {s : State} (hwrite : s.bbl.writing = true) (hdue : s.time.rc64 % 128 = 0)
    (hlen : s.bbl.segs.length = 64) :
    ∃ t, exec .segmentBoundary s = .next t ∧ t.bbl.curClamp = 0 ∧ t.bbl.curLine = 0
      ∧ (nth t.bbl.segs t.bbl.cur ⟨none, none, 0, 0⟩).tag = some (2 * s.time.rc64) := by
  refine ⟨_, exec_segmentBoundary hwrite hdue, ?_⟩
  let s1 := segmentEnds s
  let s2 := (s1.bbl.windows.map (fun w => w.id)).foldl windowBoundary s1
  have htime : s2.time = s.time := (Touches.foldl (ps := [.bbl, .pwr, .obj 0x0A04, .obj 0x1011]) _ _ (.refl _ s1)
    fun t id h => touches_windowBoundary h id (by decide)).time_eq
  have hsegs : s2.bbl.segs.length = 64 := foldl_keeps (P := fun t : State => t.bbl.segs.length = 64) _ _
    ((upd_length _ _ _).trans hlen) fun t id h => (windowBoundary_segs_length t id).trans h
  have hconf := touches_windowConfig (.refl [.live, .obj 0x0205] (returnSegments s2)) (by decide)
  generalize hu : windowConfig (returnSegments s2) = u at hconf ⊢
  have hlast : u.bbl.segs.length = 64 := by
    rw [hconf.bbl_eq]
    exact (List.length_map _).trans hsegs
  refine ⟨rfl, rfl, ?_⟩
  have hnow : halfNow u = 2 * s.time.rc64 := by
    rw [halfNow, hconf.time_eq]
    exact congrArg (fun x : TimeBase => 2 * x.rc64) htime
  show (nth (upd u.bbl.segs (nextSeg u.bbl.segs u.bbl.cur) _) (nextSeg u.bbl.segs u.bbl.cur) _).tag = _
  rw [nth_upd_same _ _ _ _ (by rw [hlast]; exact nextSeg_lt _ _), hnow]

/-! ### Freeze strobes (R72) -/

/-- What the strobe's sources that are refused count. -/
theorem refused_counts (s : State) (src : Nat) {j : Nat} (hj : j < 6) (hbit : bit src j = true) :
    rd ((List.range 6).foldl (fun t j => if bit src j then bump t Obj.TRG_COUNTS.REFUSED_WINDOW j 1 else t) s)
      Obj.TRG_COUNTS.REFUSED_WINDOW j = (rd s Obj.TRG_COUNTS.REFUSED_WINDOW j + 1) % 2 ^ 32 := by
  refine foldl_range_once (P := fun _ => True) (F := fun n => (n + 1) % 2 ^ 32) _
    (fun t => rd t Obj.TRG_COUNTS.REFUSED_WINDOW j) hj trivial (fun _ _ _ => trivial) (fun t k hk hne => ?_) fun t
        _ => ?_
  · split
    · exact rd_wr_copy _ _ (by omega) (by decide) (by decide)
    · rfl
  · rw [if_pos hbit]
    exact rd_wr_same _ _ _ _

theorem freezeStrobe_fits {s : State} {k : Strobe} {rest : List Strobe} (hk : s.trg.strobes = k :: rest)
    (hwrite : s.bbl.writing = true) (hfits : freezeFits s = true) :
    ∃ t, exec .freezeStrobe s = .next t ∧ t.trg.strobes = rest
      ∧ t.bbl.windows = s.bbl.windows ++ [newWindow s (2 * k.sample) 0 k.serial 0] := by
  refine ⟨takeWindow { s with trg := { s.trg with strobes := rest } } (2 * k.sample) 0 k.serial 0, ?_, rfl, rfl⟩
  show execFreezeStrobe s = _
  simp [execFreezeStrobe, hk, hwrite, hfits]

theorem freezeStrobe_refused {s : State} {k : Strobe} {rest : List Strobe} (hk : s.trg.strobes = k :: rest)
    (hwrite : s.bbl.writing = true) (hfull : freezeFits s = false) :
    ∃ t, exec .freezeStrobe s = .next t ∧ t.trg.strobes = rest ∧ t.bbl = s.bbl
      ∧ ∀ j < 6, bit k.src j = true → rd t Obj.TRG_COUNTS.REFUSED_WINDOW j
          = (rd s Obj.TRG_COUNTS.REFUSED_WINDOW j + 1) % 2 ^ 32 := by
  let s1 : State := { s with trg := { s.trg with strobes := rest } }
  let s2 := (List.range 6).foldl (fun t j => if bit k.src j then bump t Obj.TRG_COUNTS.REFUSED_WINDOW j 1 else t) s1
  have hcount : Touches [.obj 0x0508] s1 s2 := .foldl _ _ (.refl _ _) fun t j h => by
    split
    · exact touches_bump h _ _ _ (by decide)
    · exact h
  refine ⟨showBbl s2, ?_, congrArg Trigger.strobes hcount.trg_eq, hcount.bbl_eq, fun j hj hbit => ?_⟩
  · show execFreezeStrobe s = _
    simp [execFreezeStrobe, hk, hwrite, hfull, s2, s1]
  · rw [(touches_showBbl (.refl [.obj 0x0205, .obj 0x0509] s2) (by decide)).rd_outside (os := [0x0205, 0x0509])
      (by decide) rfl]
    exact refused_counts s1 k.src hj hbit

/-! ### One-shots (R77) -/

theorem vigilCrossing_oneShot (s : State) (t : Nat) (completes : Bool) :
    (vigilCrossing s t completes).bbl.oneShot = s.bbl.oneShot := by
  have hwake : ∀ u : State, (wakeRequest u).bbl.oneShot = u.bbl.oneShot := fun u => by
    unfold wakeRequest
    split
    · rw [(touches_wakeSetUp (.refl [.pwr, .obj 0x0A04, .obj 0x1011] _) (by decide)).bbl_eq]
      rfl
    · rfl
  unfold vigilCrossing
  split
  · rfl
  · split
    · rfl
    · split
      · exact hwake _
      · rfl

theorem envelopeCrossing_fires {s : State} (i : Fin 256) (half : Bool) (hwrite : s.bbl.writing = true) :
    ∃ t, exec (.envelopeCrossing i half) s = .next t
      ∧ mapGet t.bbl.oneShot i = s.time.rc64 + 16 * (lv s Obj.BBL_VIGIL.STRETCH + 1) := by
  have hfire : mapGet (fireOneShot s i).bbl.oneShot i = s.time.rc64 + 16 * (lv s Obj.BBL_VIGIL.STRETCH + 1) := by
    rw [fireOneShot, setBbl_bbl, mapGet_mapSet_same]
  have hadd : ∀ c, (addCondition (fireOneShot s i) c).bbl = (fireOneShot s i).bbl := fun c =>
    (touches_addCondition (.refl [.trg] _) c (by decide)).bbl_eq
  show ∃ t, execEnvelopeCrossing i half s = .next t ∧ _
  rw [execEnvelopeCrossing, if_pos hwrite]
  dsimp only
  split
  · exact ⟨_, rfl, (congrArg (mapGet · i.val) (vigilCrossing_oneShot _ _ _)).trans hfire⟩
  · split
    · exact ⟨_, rfl, by rw [hadd]; exact hfire⟩
    · exact ⟨_, rfl, hfire⟩

/-- Settles O19: the writer's move, the strobe that fits and the one that does not, the one-shot. -/
theorem ringMemoryComplete : Obligations.RingMemoryComplete :=
  ⟨fun _ => segmentBoundary_moves, fun _ _ _ hk hwrite => ⟨freezeStrobe_fits hk hwrite, freezeStrobe_refused hk hwrite⟩,
    fun i half _ => envelopeCrossing_fires i half⟩

/-! ### The on-demand digitizer (R79 to R82, R84, R86, R91) -/

theorem find?_updFirst {α : Type} {p : α → Bool} {f : α → α} (hf : ∀ x, p x = true → p (f x) = true) (l : List α) :
    (updFirst p f l).find? p = (l.find? p).map f := by
  induction l with
  | nil => rfl
  | cons x l ih =>
    unfold updFirst
    by_cases hx : p x = true
    · simp [hx, hf x hx]
    · simp [hx, ih]

/-- The window of an id is found changed after a setter of it. -/
theorem find_setWindow {s : State} {w : Window} (hw : w ∈ s.bbl.windows) {f : Window → Window}
    (hf : ∀ x, (f x).id = x.id) :
    ∃ x, (setWindow s w.id f).bbl.windows.find? (fun y => y.id == w.id) = some (f x)
      ∧ s.bbl.windows.find? (fun y => y.id == w.id) = some x := by
  obtain ⟨x, hx⟩ := Option.isSome_iff_exists.1
    (List.find?_isSome.2 ⟨w, hw, by simp⟩ : (s.bbl.windows.find? (fun y => y.id == w.id)).isSome = true)
  refine ⟨x, ?_, hx⟩
  show (updFirst _ f s.bbl.windows).find? _ = _
  rw [find?_updFirst (fun y hy => by simpa [hf] using hy), hx, Option.map_some]

theorem raise_bbl (s : State) (code inst a b : Nat) : (raise s code inst a b).bbl = s.bbl :=
  (raise_touches s code inst a b).bbl_eq

theorem windowConversionStart_starts {s : State} {w : Window} (hdig : s.bbl.digOn = true)
    (hcut : digitizerCut s = false)
    (hidle : ∀ x ∈ s.bbl.windows, x.converting = false) (hw : nextWindow s = some w) (hcredit : w.credit = true) :
    ∃ t x, exec .windowConversionStart s = .next t ∧ t.bbl.windows.find? (fun y => y.id == w.id) = some x
      ∧ x.converting = true ∧ x.uncal = decide (rd s Obj.BBL_CAL_INFO.VALID = 0)
      ∧ (holdTooLong w.tj (s.time.rc64 - w.frozenAt.getD s.time.rc64) = true → x.holdExpired = true
          ∧ rd t Obj.BBL_STATUS.EXPIRED_COUNT
              = satAdd Obj.BBL_STATUS.EXPIRED_COUNT.width (rd s Obj.BBL_STATUS.EXPIRED_COUNT) 1
                  % 2 ^ Obj.BBL_STATUS.EXPIRED_COUNT.width) := by
  have hany : s.bbl.windows.any (fun w => w.converting) = false := by simpa using hidle
  have hmem : w ∈ s.bbl.windows := List.mem_of_find?_eq_some hw
  show ∃ t x, execWindowConversionStart s = .next t ∧ _
  rw [execWindowConversionStart, if_pos (by simp [hdig, hcut, hany]), hw]
  dsimp only
  rw [if_neg (by simp [hcredit])]
  generalize hlong : holdTooLong w.tj (s.time.rc64 - w.frozenAt.getD s.time.rc64) = tooLong
  let f : Window → Window := fun x =>
    { x with converting := true, hold := hold01us (s.time.rc64 - w.frozenAt.getD s.time.rc64), holdExpired := tooLong,
             uncal := !flag s Obj.BBL_CAL_INFO.VALID }
  obtain ⟨x, hx, -⟩ := find_setWindow hmem (f := f) fun _ => rfl
  generalize hs1 : setWindow s w.id _ = s1 at hx ⊢
  have hrd : rd s1 Obj.BBL_STATUS.EXPIRED_COUNT = rd s Obj.BBL_STATUS.EXPIRED_COUNT := by rw [← hs1]; rfl
  let s2 := if tooLong then raise (bumpSat s1 Obj.BBL_STATUS.EXPIRED_COUNT 0 1) 0x0201 0 w.id w.tHt else s1
  have h2 : s2.bbl = s1.bbl := by
    unfold s2
    split
    · exact raise_bbl _ _ _ _ _
    · rfl
  have hcount : tooLong = true → rd s2 Obj.BBL_STATUS.EXPIRED_COUNT
      = satAdd Obj.BBL_STATUS.EXPIRED_COUNT.width (rd s Obj.BBL_STATUS.EXPIRED_COUNT) 1
          % 2 ^ Obj.BBL_STATUS.EXPIRED_COUNT.width := fun h => by
    unfold s2
    rw [if_pos h, rd_raise _ _ _ _ _ _ (by decide), bumpSat, rd_wr_same, hrd]
  have hraise : ∀ (u : State) (c : Prop) [Decidable c] (code a b : Nat),
      (if c then raise u code 0 a b else u).bbl = u.bbl
        ∧ rd (if c then raise u code 0 a b else u) Obj.BBL_STATUS.EXPIRED_COUNT = rd u Obj.BBL_STATUS.EXPIRED_COUNT :=
    fun u c _ code a b => by
      split
      · exact ⟨raise_bbl _ _ _ _ _, rd_raise _ _ _ _ _ _ (by decide)⟩
      · exact ⟨rfl, rfl⟩
  refine ⟨_, f x, rfl, ?_, rfl, ?_, fun h => ⟨h, ?_⟩⟩
  · rw [(hraise _ _ _ _ _).1, (hraise _ _ _ _ _).1]
    exact h2 ▸ hx
  · simp [f, flag]
  · rw [(hraise _ _ _ _ _).2, (hraise _ _ _ _ _).2]
    exact hcount h

theorem segmentConverted_adds (raw : List (List Nat)) {s : State} {w : Window}
    (hw : s.bbl.windows.find? (fun x => x.converting) = some w) (hmore : w.raw.length < w.segs.length)
    (hcut : digitizerCut s = false) (hroom : segmentRoom s w = true) :
    let clipped := raw.map (fun r => r.map (fun x => min 4095 x))
    ∃ t x, exec (.segmentConverted raw) s = .next t ∧ t.bbl.windows.find? (fun y => y.id == w.id) = some x
      ∧ (s.bbl.windows.find? (fun y => y.id == w.id) = some w → x.raw = w.raw ++ [clipped]
          ∧ x.saturated = w.saturated + saturatedIn s (nth w.segs w.raw.length 0) clipped) := by
  intro clipped
  let f : Window → Window := fun x =>
    { x with raw := x.raw ++ [clipped],
             saturated := x.saturated + saturatedIn s (nth w.segs w.raw.length 0) clipped }
  obtain ⟨x, hx, hold⟩ := find_setWindow (List.mem_of_find?_eq_some hw) (f := f) fun _ => rfl
  show ∃ t x, execSegmentConverted raw s = .next t ∧ _
  rw [execSegmentConverted, hw]
  dsimp only
  rw [if_pos ⟨hmore, hcut, hroom⟩]
  refine ⟨_, f x, rfl, ?_, fun hfirst => ?_⟩
  · split
    · exact hx
    · rw [(touches_clockStarts (.refl [.mov, .pwr, .obj 0x1106] _) 6 (by decide)).bbl_eq]
      exact hx
  · obtain rfl : x = w := Option.some.inj (hold.symm.trans hfirst)
    exact ⟨rfl, rfl⟩

theorem windowReadoutDone_shows {s : State} {w : Window} (hw : s.bbl.windows.find? (fun x => x.converting) = some w)
    (hall : w.raw.length = w.segs.length) :
    ∃ t, exec .windowReadoutDone s = .next t ∧ rd t Obj.BBL_LAST_WINDOW.WINDOW_ID = w.id % 2 ^ 16
      ∧ rd t Obj.BBL_LAST_WINDOW.HOLD = w.hold % 2 ^ 16
      ∧ rd t Obj.BBL_LAST_WINDOW.DEADLINE = w.deadline % 2 ^ Obj.BBL_LAST_WINDOW.DEADLINE.width
      ∧ rd t Obj.BBL_LAST_WINDOW.HOLD_EXPIRED = b2n w.holdExpired
      ∧ rd t Obj.BBL_LAST_WINDOW.UNCAL = b2n w.uncal := by
  refine ⟨showWindow (setWindow s w.id (fun x => { x with converting := false, readOut := true })) w, ?_, ?_⟩
  · show execWindowReadoutDone s = _
    simp [execWindowReadoutDone, hw, hall]
  · have hb : ∀ b : Bool, b2n b % 2 ^ 1 = b2n b := by decide
    unfold showWindow
    simp only [List.foldl_cons, List.foldl_nil]
    refine ⟨?_, ?_, ?_, ?_, ?_⟩ <;> simp +decide only [rd_wr_apart, rd_wr_same]
    · rfl
    · rfl
    · exact hb _
    · exact hb _

theorem digitizerIdleTimeout_off {s : State} (hdig : s.bbl.digOn = true) (hwarm : rd s Obj.BBL_DIG.KEEP_WARM = 0)
    (hnone : s.bbl.windows = []) (hmode : modeOf s ≠ .vigil) :
    ∃ t, exec .digitizerIdleTimeout s = .next t ∧ t.bbl.digOn = false := by
  refine ⟨_, if_pos (by simp [hdig, flag, hwarm, hnone, hmode]), ?_⟩
  rw [(touches_digitizerDown (.refl [.pwr, .obj 0x0A04] _) (by decide)).bbl_eq]
  rfl

/-- Settles O20: the start, the segment, the read-out and the idle time of the digitizer. -/
theorem digitizerComplete : Obligations.DigitizerComplete :=
  ⟨fun _ _ => windowConversionStart_starts, fun raw _ _ => segmentConverted_adds raw, fun _ _ =>
      windowReadoutDone_shows,
    fun _ => digitizerIdleTimeout_off⟩

/-! ### The capture wake set and the temperature (R85, R88, R89, R424) -/

theorem captureWakeSetReady_up {s : State} (hwake : s.bbl.wake = .requested) (hups : upsDone s 1 = true)
    (hset : ∀ d ∈ wakeSet (rd s Obj.FST_MAP.MAP), domOn s d = true ∨ s.pwr.barred.contains d = true) :
    ∃ t, exec .captureWakeSetReady s = .next t ∧ t.bbl.wake = .up ∧ t.bbl.digOn = true ∧ t.ctl.ronecUp = true :=
  ⟨_, if_pos (by simpa [hwake, hups] using hset), rfl, rfl, rfl⟩

section
variable {s : State} (hnone : s.bbl.windows = []) (hcold : rd s Obj.BBL_STATUS.HOT = 0) (hmode : modeOf s = .vigil)
  (hsteady : phaseOf s = .steady)
include hnone hcold hmode hsteady

theorem captureLingerExpired_down (hwake : s.bbl.wake = .up) :
    ∃ t, exec .captureLingerExpired s = .next t ∧ t.bbl.wake = .down ∧ t.bbl.digOn = false ∧ t.ctl.ronecUp = false := by
  have hkeep : ∀ u : State, (wakeSetDown u).bbl = u.bbl := fun u =>
    (touches_wakeSetDown (.refl [.pwr, .obj 0x0A04] u) (by decide)).bbl_eq
  show ∃ t, execCaptureLingerExpired s = .next t ∧ _
  rw [execCaptureLingerExpired, if_pos (by simp [hnone, flag, hcold, hmode, hsteady]), hwake]
  dsimp only
  have hbbl := hkeep (setBbl s (fun b => { b with wake := .down, digOn := false }))
  generalize wakeSetDown _ = u at hbbl ⊢
  exact ⟨_, rfl, congrArg Bluebell.wake hbbl, congrArg Bluebell.digOn hbbl, rfl⟩

theorem captureLingerExpired_pair (hwake : s.bbl.wake = .down) (hpair : s.ctl.ronecUp = true) :
    ∃ t, exec .captureLingerExpired s = .next t ∧ t.ctl.ronecUp = false ∧ t.bbl = s.bbl := by
  show ∃ t, execCaptureLingerExpired s = .next t ∧ _
  rw [execCaptureLingerExpired, if_pos (by simp [hnone, flag, hcold, hmode, hsteady]), hwake]
  exact ⟨_, if_pos hpair, rfl, (touches_pairDown (.refl [.pwr, .obj 0x0A04] s) (by decide)).bbl_eq⟩

end

theorem tjVigil_hot (s : State) :
    (rd s Obj.BBL_STATUS.HOT = 0 → (rd s Obj.BBL_STATUS.T_VMAX : Int) < s.bbl.tj + 80 →
        rd (tjVigil s) Obj.BBL_STATUS.HOT = 1)
      ∧ (rd s Obj.BBL_STATUS.HOT ≠ 0 → s.bbl.tj + 80 ≤ (rd s Obj.BBL_STATUS.T_VMAX : Int) - 6 →
        rd (tjVigil s) Obj.BBL_STATUS.HOT = 0) := by
  have htoo : ∀ (u : State) (c : Prop) [Decidable c],
      rd (if c then tooHot u else u) Obj.BBL_STATUS.HOT = rd u Obj.BBL_STATUS.HOT := fun u c _ => by
    split
    · exact (touches_tooHot (.refl [.aon, .flt, .modes, .notes, .pwr, .obj 0x0A04, .obj 0x0C06, .obj 0x1011] u)
        (by decide)).rd_outside (os := [0x0A04, 0x0C06, 0x1011]) (by decide) rfl
    · rfl
  constructor
  · intro hcold hvmax
    rw [tjVigil, htoo, if_neg (by simp [flag, hcold]), if_pos hvmax, hotEnter, rd_raise _ _ _ _ _ _ (by decide),
      (touches_wakeRequest (.refl [.bbl, .pwr, .obj 0x0A04, .obj 0x1011] _) (by decide)).rd_outside
        (os := [0x0A04, 0x1011]) (by decide) rfl]
    exact rd_wr_same _ _ _ _
  · intro hhot hvmax
    rw [tjVigil, htoo, if_pos (by simp [flag, hhot]), if_pos hvmax, hotExit,
      (touches_endFault (.refl [.flt, .notes, .obj 0x0C06, .obj 0x1011] _) _ _ (by decide)).rd_outside
        (os := [0x0C06, 0x1011]) (by decide) rfl]
    exact rd_wr_same _ _ _ _

theorem wakeRequest_tj (s : State) : (wakeRequest s).bbl.tj = s.bbl.tj := by
  unfold wakeRequest
  split
  · rw [(touches_wakeSetUp (.refl [.pwr, .obj 0x0A04, .obj 0x1011] _) (by decide)).bbl_eq]
    rfl
  · rfl

theorem tjVigil_tj (s : State) : (tjVigil s).bbl.tj = s.bbl.tj := by
  unfold tjVigil
  extract_lets _ _ _ s1
  have h1 : s1.bbl.tj = s.bbl.tj := by
    unfold s1
    split
    · split
      · exact congrArg Bluebell.tj (touches_hotExit (.refl [.flt, .obj 0x0205] s) (by decide)).bbl_eq
      · rfl
    · split
      · exact (congrArg Bluebell.tj (raise_bbl _ _ _ _ _)).trans (wakeRequest_tj _)
      · rfl
  split
  · refine (congrArg Bluebell.tj ?_).trans h1
    exact (touches_tooHot (.refl [.aon, .flt, .modes, .notes, .pwr, .obj 0x0A04, .obj 0x0C06, .obj 0x1011] s1)
      (by decide)).bbl_eq
  · exact h1

theorem tjSensorRead_holds (tj : Int) (s : State) : ∃ t, exec (.tjSensorRead tj) s = .next t ∧ t.bbl.tj = tj
    ∧ (modeOf s = .vigil → rd s Obj.BBL_STATUS.HOT = 0 → (rd s Obj.BBL_STATUS.T_VMAX : Int) < tj + 80 →
        rd t Obj.BBL_STATUS.HOT = 1)
    ∧ (modeOf s = .vigil → rd s Obj.BBL_STATUS.HOT ≠ 0 → tj + 80 ≤ (rd s Obj.BBL_STATUS.T_VMAX : Int) - 6 →
        rd t Obj.BBL_STATUS.HOT = 0) := by
  let s1 := setBbl s (fun b => { b with tj := tj })
  let s2 := if (tj - 2 * toInt 8 (rd s Obj.BBL_CAL_INFO.TJ_CAL)).natAbs ≤ 16 then clearFault s1 0x0204 0 else s1
  have h2 : Touches [.flt, .notes, .obj 0x0C06] s1 s2 := by
    unfold s2
    split
    · exact touches_clearFault (.refl _ _) _ _ (by decide)
    · exact .refl _ _
  have htj : s2.bbl.tj = tj := congrArg Bluebell.tj h2.bbl_eq
  have hrd : ∀ f, outside [0x0C06] f = true → rd s2 f = rd s f := fun f hf => (h2.rd_outside hf rfl).trans rfl
  have hhot : rd s2 Obj.BBL_STATUS.HOT = rd s Obj.BBL_STATUS.HOT := hrd _ (by decide)
  have hmax : rd s2 Obj.BBL_STATUS.T_VMAX = rd s Obj.BBL_STATUS.T_VMAX := hrd _ (by decide)
  obtain ⟨henter, hexit⟩ := tjVigil_hot s2
  rw [hhot, hmax, htj] at henter hexit
  refine ⟨if modeOf s = .vigil then tjVigil s2 else s2, rfl, ?_, fun hm => ?_, fun hm => ?_⟩
  · split
    · exact (tjVigil_tj s2).trans htj
    · exact htj
  · rw [if_pos hm]
    exact henter
  · rw [if_pos hm]
    exact hexit

theorem calStale_raises {s : State} (hvalid : rd s Obj.BBL_CAL_INFO.VALID ≠ 0)
    (hfar : 20 < (s.bbl.tj - 2 * toInt 8 (rd s Obj.BBL_CAL_INFO.TJ_CAL)).natAbs) (hroom : s.flt.active.length < 1024) :
    ∃ t, exec .calStale s = .next t ∧ faultActive t 0x0204 0 = true ∧ t.bbl = s.bbl :=
  ⟨raise s 0x0204 0 0 0, if_pos (by simp [flag, hvalid, hfar]), raise_active _ _ _ _ _ hroom, raise_bbl _ _ _ _ _⟩

/-- Settles O21: ready, lingered, the reading, the stale tables. -/
theorem captureWakeSetComplete : Obligations.CaptureWakeSetComplete :=
  ⟨fun _ => captureWakeSetReady_up,
    fun _ hnone hcold hmode hsteady => ⟨captureLingerExpired_down hnone hcold hmode hsteady,
      captureLingerExpired_pair hnone hcold hmode hsteady⟩,
    tjSensorRead_holds, fun _ => calStale_raises⟩

end Sys2Proof
end

section
/-! PROOF. The trigger engine (spec 06): its events one by one, and the acceptance of a set of conditions. -/

namespace Sys2Proof

-- one proof at a time, which bounds the memory of the compile
set_option Elab.async false

open Sys2Proof.Machine

/-! ### The trigger engine's events (R122 to R136) -/

theorem raise_trg (s : State) (code inst a b : Nat) : (raise s code inst a b).trg = s.trg :=
  (raise_touches s code inst a b).trg_eq

theorem trigoutWidthEnd_off {s : State} (hon : s.trg.outActive = true) (hend : s.trg.outEnd ≤ s.time.rc64) :
    ∃ t, exec .trigoutWidthEnd s = .next t ∧ t.trg.outActive = false
      ∧ t.out = .pin 0 (decide (lv s Obj.TRG_IO.TRIGOUT_POL ≠ 0)) :: s.out :=
  ⟨trigoutOff s, if_pos (by simp [hon, hend]), rfl, rfl⟩

theorem addCondition_known {s : State} {c : Condition} (hon : sourceOn s c.source = true)
    (hrun : s.trg.running = true) :
    (addCondition s c).trg.known = s.trg.known ++ [c] := by
  rw [addCondition, if_pos (by simp [hon, hrun])]
  rfl

theorem addCondition_rd (s : State) (c : Condition) (f : Field) (j : Nat) : rd (addCondition s c) f j = rd s f j := by
  unfold addCondition
  split <;> rfl

/-- An edge of `TRIGIN` as TIM_CAPTURE shows it. -/
def edgeCaptured (level : Bool) (s : State) : State :=
  wr (wr (wr (bump (setTrg s (fun t => { t with inLevel := level })) Obj.TIM_CAPTURE.EDGES 0 1)
    Obj.TIM_CAPTURE.RC64 0 s.time.rc64) Obj.TIM_CAPTURE.TIME 0 (ts96Now s)) Obj.TIM_CAPTURE.LEVEL 0 (b2n level)

theorem b2n_mod_two (b : Bool) : b2n b % 2 ^ 1 = b2n b := by
  revert b
  decide

theorem exec_triginEdge (level : Bool) {s : State} (hclock : s.time.off = false) :
    exec (.triginEdge level true) s = .next (if level = decide (lv s Obj.TRG_IO.TRIGIN_EDGE = 0) then
      addCondition (edgeCaptured level s) (plainCondition (s.time.rc64 - lv s Obj.TRG_IO.TRIGIN_OFFSET) 1)
      else edgeCaptured level s) := by
  show execTriginEdge level true s = _
  rw [execTriginEdge, if_pos rfl]
  simp only [hclock, Bool.false_eq_true, if_false]
  split <;> rfl

theorem edgeCaptured_trg (level : Bool) (s : State) : (edgeCaptured level s).trg = { s.trg with inLevel := level } :=
    rfl

theorem sourceOn_edgeCaptured (level : Bool) (s : State) (k : Nat) :
    sourceOn (edgeCaptured level s) k = sourceOn s k := by
  simp +decide [sourceOn, edgeCaptured, flag, bump]

theorem triginEdge_captured (level : Bool) {s : State} (hclock : s.time.off = false) :
    ∃ t, exec (.triginEdge level true) s = .next t ∧ rd t Obj.TIM_CAPTURE.LEVEL = b2n level
      ∧ rd t Obj.TIM_CAPTURE.RC64 = s.time.rc64 % 2 ^ 64
      ∧ rd t Obj.TIM_CAPTURE.EDGES = (rd s Obj.TIM_CAPTURE.EDGES + 1) % 2 ^ Obj.TIM_CAPTURE.EDGES.width
      ∧ (level = decide (lv s Obj.TRG_IO.TRIGIN_EDGE = 0) → sourceOn s 1 = true → s.trg.running = true →
          t.trg.known = s.trg.known ++ [plainCondition (s.time.rc64 - lv s Obj.TRG_IO.TRIGIN_OFFSET) 1]) := by
  have hrd : ∀ f, rd (if level = decide (lv s Obj.TRG_IO.TRIGIN_EDGE = 0) then addCondition (edgeCaptured level s)
      (plainCondition (s.time.rc64 - lv s Obj.TRG_IO.TRIGIN_OFFSET) 1) else edgeCaptured level s) f
      = rd (edgeCaptured level s) f := fun f => by
    split
    · exact addCondition_rd _ _ _ _
    · rfl
  refine ⟨_, exec_triginEdge level hclock, ?_, ?_, ?_, fun hedge hon hrun => ?_⟩
  · rw [hrd, edgeCaptured, rd_wr_same]
    exact b2n_mod_two level
  · rw [hrd]
    simp +decide [edgeCaptured]
    rfl
  · rw [hrd]
    simp +decide [edgeCaptured, bump]
  · rw [if_pos hedge, addCondition_known (c := plainCondition _ 1) ((sourceOn_edgeCaptured level _ _).trans hon)
      ((congrArg Trigger.running (edgeCaptured_trg level s)).trans hrun),
      edgeCaptured_trg]

theorem triginEdge_short (level : Bool) {s : State} (hroom : s.flt.active.length < 1024) :
    ∃ t, exec (.triginEdge level false) s = .next t ∧ faultActive t 0x0506 0 = true ∧ t.trg = s.trg :=
  ⟨raise s 0x0506 0 2 s.evt.serial, rfl, raise_active _ _ _ _ _ hroom, raise_trg _ _ _ _ _⟩

theorem axrelTriggerMessage_condition (port : Fin 4) (m : TriggerMessage) {s : State}
    (hport : bit (rd s Obj.TRG_AXREL.RECV_PORTS) port = true) (hon : sourceOn s 4 = true)
        (hrun : s.trg.running = true) :
    ∃ t c, exec (.axrelTriggerMessage port m) s = .next t ∧ t.trg.known = s.trg.known ++ [c] ∧ c.source = 4
      ∧ c.originSerial = m.serial ∧ c.originTime = m.time ∧ (s.time.rc64 : Int) - 320 ≤ c.n ∧ c.n ≤ s.time.rc64 := by
  show ∃ t c, execAxrelTriggerMessage port m s = .next t ∧ _
  rw [execAxrelTriggerMessage, if_pos (by simp [hport, hon, hrun])]
  extract_lets na valid want clamped n s1
  have hlow : na - 320 ≤ n := by
    unfold n
    split
    · exact le_rfl
    · next h =>
      simp only [clamped, Bool.or_eq_true, decide_eq_true_eq, not_or, not_lt] at h
      split <;> omega
  have hhigh : n ≤ na := by
    unfold n
    split <;> [omega; split <;> omega]
  refine ⟨_, ⟨n.toNat, 4, m.time, m.chip % 16 + 16 * port.val, m.serial, clamped, 0, 0, 0⟩, rfl, ?_, rfl, rfl, rfl,
      ?_, ?_⟩
  · have hknown : s1.trg.known = _ := addCondition_known hon hrun
    split
    · rw [raise_trg]
      exact hknown
    · exact hknown
  · exact hlow.trans (Int.self_le_toNat n)
  · exact Int.toNat_le.2 hhigh

theorem holdoffEnd_closes {s : State} {r : TrigRecord} (hlast : s.trg.records.getLast? = some r)
    (hend : r.holdEnd ≤ s.time.rc64) (hopen : rd s Obj.TRG_STATUS.OPEN ≠ 0) :
    ∃ t, exec .holdoffEnd s = .next t ∧ rd t Obj.TRG_STATUS.OPEN = 0 ∧ t.trg = s.trg := by
  refine ⟨wr s Obj.TRG_STATUS.OPEN 0 0, ?_, rd_wr_same _ _ _ _, rfl⟩
  show execHoldoffEnd s = _
  simp [execHoldoffEnd, hlast, hend, flag, hopen]

theorem triggerRecordRelease_moves {s : State} {r : TrigRecord} {rest : List TrigRecord}
    (hrec : s.trg.records = r :: rest) (hend : r.holdEnd + 320 ≤ s.time.rc64) (hroom : recordRoom s = true) :
    ∃ t, exec .triggerRecordRelease s = .next t ∧ t.trg.records = rest ∧ t.trg.queue = s.trg.queue ++ [r] := by
  let s1 := setTrg s (fun t => { t with records := rest, queue := t.queue ++ [r] })
  have htrg : (clockStarts s1 6).trg = s1.trg :=
    (touches_clockStarts (.refl [.mov, .pwr, .obj 0x1106] _) 6 (by decide)).trg_eq
  refine ⟨clockStarts s1 6, ?_, congrArg Trigger.records htrg, congrArg Trigger.queue htrg⟩
  show execTriggerRecordRelease s = _
  simp [execTriggerRecordRelease, hrec, hend, hroom, s1]

theorem bucketToken_gains {s : State} (hrun : s.trg.running = true)
    (hdue : 16000000 ≤ tokenPartNow s (rd s Obj.TRG_BUCKET.RATE)) :
    ∃ t, exec .bucketToken s = .next t ∧ t.trg.tokenAt = s.time.rc64
      ∧ rd t Obj.TRG_STATUS.TOKENS
          = min (rd s Obj.TRG_BUCKET.DEPTH) (rd s Obj.TRG_STATUS.TOKENS + 1) % 2 ^ Obj.TRG_STATUS.TOKENS.width :=
  ⟨_, if_pos (by simp [hrun, hdue]), rfl, rd_wr_same _ _ _ _⟩

/-- The judgement of the dead time changes the faults alone. -/
theorem judged_trg (u : State) (c d : Prop) [Decidable c] [Decidable d] (n : Nat) :
    (if d then clearFault (if c then raise u 0x0502 0 0 n else u) 0x0502 0 else if c then raise u 0x0502 0 0 n
      else u).trg = u.trg := by
  have hraise : (if c then raise u 0x0502 0 0 n else u).trg = u.trg := by
    split
    · exact raise_trg _ _ _ _ _
    · rfl
  split
  · exact ((touches_clearFault (.refl [.flt, .notes, .obj 0x0C06] _) _ _ (by decide)).trg_eq).trans hraise
  · exact hraise

theorem trigBusy_records {s : State} (hrun : s.trg.running = true) :
    ∃ t, exec .trigBusy s = .next t ∧ t.trg.lastLive = rd s Obj.TRG_STATUS.LIVE
      ∧ t.trg.lastDead = (rd s Obj.TRG_STATUS.DEAD_WINDOW + rd s Obj.TRG_STATUS.DEAD_BUCKET) % 2 ^ 48 := by
  refine ⟨_, if_pos hrun, ?_⟩
  rw [judged_trg, setTrg_trg]
  exact ⟨rfl, rfl⟩

/-- Settles O22: an event of the trigger engine each. -/
theorem triggerEventsComplete : Obligations.TriggerEventsComplete :=
  ⟨fun _ => trigoutWidthEnd_off, fun level _ => triginEdge_captured level, fun level _ => triginEdge_short level,
    fun port m _ => axrelTriggerMessage_condition port m, fun _ _ => holdoffEnd_closes,
    fun _ _ _ => triggerRecordRelease_moves, fun _ hrun => ⟨bucketToken_gains hrun, trigBusy_records hrun⟩⟩

/-! ### An accepted set (R124, R126, R132) -/

theorem countSources_apart {f g : Field} (s : State) (mask j : Nat) (h : apart f g = true) :
    rd (countSources s f mask) g j = rd s g j :=
  foldl_same _ (fun t => rd t g j) _ _ fun t k _ => by
    split
    · exact rd_wr_apart _ _ _ _ h
    · rfl

theorem noteSoft_records (s : State) (mask outcome serial n : Nat) :
    (noteSoft s mask outcome serial n).trg.records = s.trg.records := by
  unfold noteSoft
  split <;> rfl

theorem acceptSet_spends (s : State) (cs : List Condition) (mask n : Nat) (prio : Bool) :
    ∃ r, (acceptSet s cs mask prio n).trg.records = s.trg.records ++ [r] ∧ r.serial = (s.evt.serial + 1) % 2 ^ 40
      ∧ r.tSample = n ∧ r.src = mask ∧ (acceptSet s cs mask prio n).evt.serial = r.serial
      ∧ rd (acceptSet s cs mask prio n) Obj.TRG_STATUS.CREDITS
          = (rd s Obj.TRG_STATUS.CREDITS - 1) % 2 ^ Obj.TRG_STATUS.CREDITS.width
      ∧ rd (acceptSet s cs mask prio n) Obj.TRG_STATUS.TOKENS
          = (if prio then rd s Obj.TRG_STATUS.TOKENS else rd s Obj.TRG_STATUS.TOKENS - 1)
              % 2 ^ Obj.TRG_STATUS.TOKENS.width
      ∧ rd (acceptSet s cs mask prio n) Obj.TRG_STATUS.OPEN = 1 := by
  refine ⟨newRecord s cs mask prio n, ?_⟩
  unfold acceptSet
  extract_lets r _ s1 s2 s3 s4 s5
  have h5 : Touches [.axl, .out, .peer, .trg, .obj 0x0D05] s4 s5 ∧ s5.trg.records = s4.trg.records := by
    unfold s5
    split
    · exact ⟨touches_trigoutPulse (.refl _ _) (by decide), rfl⟩
    · exact ⟨touches_trigoutUntil (.refl _ _) _ (by decide), rfl⟩
    · exact ⟨.refl _ _, rfl⟩
  obtain ⟨hpulse, hrec5⟩ := h5
  have hsent : (sendTrigger (noteSoft s5 mask 0 r.serial n) r).trg = (noteSoft s5 mask 0 r.serial n).trg :=
    (touches_sendTrigger (.refl [.axl, .out, .peer, .obj 0x0D05] _) r (by decide)).trg_eq
  have hlast : Touches [.axl, .out, .peer, .trg, .obj 0x0D05] s4 (sendTrigger (noteSoft s5 mask 0 r.serial n) r) :=
    touches_sendTrigger (touches_noteSoft hpulse _ _ _ _ (by decide)) r (by decide)
  have hcount : (countSources (emit s3 (.freeze n)) Obj.TRG_COUNTS.ACCEPTED mask).trg = s2.trg
      ∧ (countSources (emit s3 (.freeze n)) Obj.TRG_COUNTS.ACCEPTED mask).evt = s2.evt := by
    have h := touches_countSources (.refl [.obj 0x0508] (emit s3 (.freeze n))) Obj.TRG_COUNTS.ACCEPTED (by decide) mask
      (by decide)
    exact ⟨h.trg_eq.trans rfl, h.evt_eq.trans rfl⟩
  have hrd : ∀ f, outside [0x0D05] f = true → rd (sendTrigger (noteSoft s5 mask 0 r.serial n) r) f = rd s4 f :=
    fun f hf => hlast.rd_outside hf rfl
  refine ⟨?_, rfl, rfl, rfl, ?_, ?_, ?_, ?_⟩
  · rw [hsent, (noteSoft_records _ _ _ _ _), hrec5, show s4.trg = s2.trg from hcount.1]
    rfl
  · rw [hlast.evt_eq, show s4.evt = s2.evt from hcount.2]
    rfl
  · rw [hrd Obj.TRG_STATUS.CREDITS (by decide)]
    simp +decide [s4, s3, countSources_apart]
  · rw [hrd Obj.TRG_STATUS.TOKENS (by decide)]
    simp +decide [s4, s3, countSources_apart]
  · rw [hrd Obj.TRG_STATUS.OPEN (by decide)]
    exact rd_wr_same _ _ _ _

/-- Settles O23: what the acceptance of a set does to the record, its serial, the credit and the token. -/
theorem acceptedSetSpends : Obligations.AcceptedSetSpends := acceptSet_spends

end Sys2Proof
end

section
/-! PROOF. The channelizer (spec 05): the spectrum that is formed and the one dropped past its deadline. -/

namespace Sys2Proof

-- one proof at a time, which bounds the memory of the compile
set_option Elab.async false

open Sys2Proof.Machine

/-! ### The counters of the channelizer (R98, R107, R108) -/

/-- The next spectrum and the counts of spectra dropped for each path are the same. -/
def SameCounts (s t : State) : Prop :=
  t.chz.nextN = s.chz.nextN ∧ t.chz.invDl4 = s.chz.invDl4 ∧ t.chz.invDl8 = s.chz.invDl8

theorem SameCounts.of_chz {s t : State} (h : t.chz = s.chz) : SameCounts s t := by
  rw [SameCounts, h]
  exact ⟨rfl, rfl, rfl⟩

theorem SameCounts.trans {s t u : State} (h : SameCounts s t) (k : SameCounts t u) : SameCounts s u :=
  ⟨k.1.trans h.1, k.2.1.trans h.2.1, k.2.2.trans h.2.2⟩

theorem sameCounts_setChz (s : State) (f : Channelizer → Channelizer)
    (h : (f s.chz).nextN = s.chz.nextN ∧ (f s.chz).invDl4 = s.chz.invDl4 ∧ (f s.chz).invDl8 = s.chz.invDl8) :
    SameCounts s (setChz s f) := h

theorem sameCounts_clockStarts (s : State) (k : Nat) : SameCounts s (clockStarts s k) :=
  .of_chz (touches_clockStarts (.refl [.mov, .pwr, .obj 0x1106] s) k (by decide)).chz_eq

theorem sameCounts_sendDescriptor (s : State) : SameCounts s (sendDescriptor s) := by
  unfold sendDescriptor
  split
  · exact (sameCounts_setChz _ _ ⟨rfl, rfl, rfl⟩).trans (sameCounts_clockStarts _ _)
  · exact .of_chz rfl

theorem sameCounts_peerTake (k : Nat) (s : State) : SameCounts s (peerTake k s) :=
  .of_chz (touches_peerTake (.refl [.axl, .flt, .fst, .mem, .mov, .out, .peer, .obj 0x0D05] s) k (by decide)).chz_eq

theorem sameCounts_obtainBuffer (s : State) (n : Nat) : SameCounts s (obtainBuffer s n) := by
  unfold obtainBuffer
  split
  · exact .of_chz rfl
  · dsimp only
    split
    · exact (sameCounts_sendDescriptor s).trans (sameCounts_setChz _ _ ⟨rfl, rfl, rfl⟩)
    · exact sameCounts_sendDescriptor s

theorem sameCounts_writeCorner (s : State) (b : CornerBuffer) (p : Spectrum) : SameCounts s (writeCorner s b p) := by
  have hstore : Touches [.flt, .fst, .mem] s ((List.range (rd s Obj.DAH_BAND.K_COUNT)).foldl (fun t j =>
      storeWords t (cornerWord b.half + (64 * j + p.n % 64) * 32) (cornerRow s p j) s.mov.badWrite) s) :=
    .foldl _ _ (.refl _ _) fun t j h => touches_storeWords h _ _ _ (by decide)
  exact (SameCounts.of_chz hstore.chz_eq).trans ⟨rfl, rfl, rfl⟩

theorem sameCounts_deliver4 (s : State) (p : Spectrum) : SameCounts s (deliver4 s p).2 := by
  unfold deliver4
  split
  · split
    · exact (sameCounts_clockStarts (setPeer s _) 8).trans (sameCounts_peerTake _ _)
    · exact .of_chz rfl
  · extract_lets s1
    have h1 : SameCounts s s1 := sameCounts_obtainBuffer s p.n
    split
    · exact h1
    · split
      · exact h1
      · next b _ _ =>
        have h2 := (h1.trans (sameCounts_clockStarts s1 10)).trans (sameCounts_writeCorner (clockStarts s1 10) b p)
        dsimp only
        split
        · exact h2.trans (sameCounts_sendDescriptor _)
        · exact h2

theorem sameCounts_drain4 (k : Nat) (s : State) : SameCounts s (drain4 k s) := by
  induction k generalizing s with
  | zero => exact .of_chz rfl
  | succ k ih =>
    unfold drain4
    split
    · exact .of_chz rfl
    · next p rest _ =>
      split
      · exact .of_chz rfl
      · dsimp only
        split
        · exact ((sameCounts_deliver4 s p).trans (sameCounts_setChz _ _ ⟨rfl, rfl, rfl⟩)).trans (ih _)
        · exact sameCounts_deliver4 s p

theorem sameCounts_drain8 (k : Nat) (s : State) : SameCounts s (drain8 k s) := by
  induction k generalizing s with
  | zero => exact .of_chz rfl
  | succ k ih =>
    unfold drain8
    split
    · exact .of_chz rfl
    · next p rest _ =>
      split
      · exact .of_chz rfl
      · split
        · next t ht =>
          have hd : SameCounts s t := .of_chz
            (touches_deliver8 ht (.refl [.mov, .pwr, .sun, .obj 0x1106] s) (by decide)).chz_eq
          exact (hd.trans (sameCounts_setChz _ _ ⟨rfl, rfl, rfl⟩)).trans (ih _)
        · exact .of_chz rfl

theorem nextN_chzHalt (s : State) : (chzHalt s).chz.nextN = s.chz.nextN := by
  unfold chzHalt
  split <;> rfl

theorem nextN_chzBlockCounts (s : State) (n : Nat) : (chzBlockCounts s n).chz.nextN = s.chz.nextN := by
  unfold chzBlockCounts
  extract_lets alarm s1 s2
  have h1 : s1.chz = s.chz := foldl_same _ (fun t : State => t.chz) _ _ fun t k _ => by
    dsimp only
    split
    · exact (raise_touches _ _ _ _ _).chz_eq
    · rfl
  have h2 : s2.chz = s1.chz := foldl_same _ (fun t : State => t.chz) _ _ fun t i _ =>
    foldl_same _ (fun u : State => u.chz) _ _ fun _ _ _ => rfl
  rw [setChz_chz, h2, h1]

theorem spectrumComplete_moves (upsets : List (Nat × Bool)) {s : State} (hrun : s.chz.running = true)
    (harrived : 2048 * (s.chz.nextN + 1) ≤ s.cnv.histEnd) :
    ∃ t, exec (.spectrumComplete upsets) s = .next t ∧ t.chz.nextN = s.chz.nextN + 1 := by
  refine ⟨_, if_pos (by simp [hrun, harrived]), ?_⟩
  rw [nextN_chzHalt, (sameCounts_drain8 _ _).1, (sameCounts_drain4 _ _).1, (sameCounts_peerTake _ _).1]
  split
  · exact nextN_chzBlockCounts _ _
  · rfl

theorem mapGet_countMissed (m : SMap) (valid : Nat) {i : Nat} (hi : i < 256) :
    mapGet (countMissed m valid) i = mapGet m i + b2n (bit valid i) := by
  refine foldl_range_once (P := fun _ => True) (F := fun n => n + b2n (bit valid i)) _ (fun t => mapGet t i) hi trivial
    (fun _ _ _ => trivial) (fun t k _ hne => ?_) fun t _ => ?_
  · split
    · exact mapGet_mapSet_ne _ _ hne.symm
    · rfl
  · split
    · next h => simp [h, b2n]
    · next h => simp [h, b2n]

theorem spectrumMissed_counts (s : State) (sunPath : Bool) (p : Spectrum) :
    rd (spectrumMissed s sunPath p) Obj.CHZ_STATUS.DL_TOTAL = (rd s Obj.CHZ_STATUS.DL_TOTAL + 1) % 2 ^ 32
      ∧ (if sunPath then (spectrumMissed s sunPath p).chz.invDl8 else (spectrumMissed s sunPath p).chz.invDl4)
        = (if sunPath then countMissed s.chz.invDl8 p.valid8 else countMissed s.chz.invDl4 p.valid4) := by
  unfold spectrumMissed
  extract_lets s1 s2
  have hcount : rd s2 Obj.CHZ_STATUS.DL_TOTAL = (rd s Obj.CHZ_STATUS.DL_TOTAL + 1) % 2 ^ 32 := by
    unfold s2
    rw [rd_raise _ _ _ _ _ _ (by decide), bump, rd_wr_same]
    rfl
  have hchz : s2.chz = s1.chz := (raise_touches _ _ _ _ _).chz_eq
  have hmiss : (if sunPath then s2.chz.invDl8 else s2.chz.invDl4)
      = (if sunPath then countMissed s.chz.invDl8 p.valid8 else countMissed s.chz.invDl4 p.valid4) := by
    rw [hchz]
    cases sunPath <;> simp [s1]
  split
  · obtain ⟨-, h4, h8⟩ := sameCounts_sendDescriptor s2
    rw [h4, h8]
    refine ⟨?_, hmiss⟩
    rw [(touches_sendDescriptor (.refl [.chz, .mov, .pwr, .obj 0x1106] s2) (by decide)).rd_outside (os := [0x1106])
      (by decide) rfl]
    exact hcount
  · exact ⟨hcount, hmiss⟩

theorem spectrumDeadlineMiss_drops (sunPath : Bool) {s : State} {p : Spectrum} {rest : List Spectrum}
    (hwait : (if sunPath then s.chz.wait8 else s.chz.wait4) = p :: rest) (hlate : p.n + 2 < s.chz.nextN) :
    ∃ t, exec (.spectrumDeadlineMiss sunPath) s = .next t
      ∧ rd t Obj.CHZ_STATUS.DL_TOTAL = (rd s Obj.CHZ_STATUS.DL_TOTAL + 1) % 2 ^ 32
      ∧ ∀ i < 256, mapGet (if sunPath then t.chz.invDl8 else t.chz.invDl4) i
          = mapGet (if sunPath then s.chz.invDl8 else s.chz.invDl4) i
            + b2n (bit (if sunPath then p.valid8 else p.valid4) i) := by
  show ∃ t, execSpectrumDeadlineMiss sunPath s = .next t ∧ _
  rw [execSpectrumDeadlineMiss, hwait]
  dsimp only
  rw [if_pos (by simpa [overdue] using hlate)]
  cases sunPath with
  | true =>
    obtain ⟨hcount, hmiss⟩ := spectrumMissed_counts s true p
    refine ⟨_, rfl, ?_, fun i hi => ?_⟩
    · refine Eq.trans ?_ hcount
      exact (touches_drain8 (.refl [.chz, .mov, .pwr, .sun, .obj 0x1106] _) 3 (by decide)).rd_outside (os := [0x1106])
        (by decide) rfl
    · refine Eq.trans ?_ (mapGet_countMissed s.chz.invDl8 p.valid8 hi)
      exact congrArg (mapGet · i) ((sameCounts_drain8 3 _).2.2.trans hmiss)
  | false =>
    obtain ⟨hcount, hmiss⟩ := spectrumMissed_counts s false p
    refine ⟨_, rfl, ?_, fun i hi => ?_⟩
    · refine Eq.trans ?_ hcount
      exact (touches_drain4 (.refl [.axl, .chz, .flt, .fst, .mem, .mov, .out, .peer, .pwr, .obj 0x0D05, .obj 0x1106]
          _) 3
        (by decide)).rd_outside (os := [0x0D05, 0x1106]) (by decide) rfl
    · refine Eq.trans ?_ (mapGet_countMissed s.chz.invDl4 p.valid4 hi)
      exact congrArg (mapGet · i) ((sameCounts_drain4 3 _).2.1.trans hmiss)

/-- Settles O26: the formed spectrum, and the one that came too late. -/
theorem spectraComplete : Obligations.SpectraComplete :=
  ⟨fun upsets _ => spectrumComplete_moves upsets, fun sunPath _ _ _ => spectrumDeadlineMiss_drops sunPath⟩

end Sys2Proof
end

section
/-! PROOF. Dahlia (spec 08): integrations, groups, discarded blocks and dump waits. -/

namespace Sys2Proof

-- one proof at a time, which bounds the memory of the compile
set_option Elab.async false

open Sys2Proof.Machine

/-! ### What dumps and groups leave alone in Dahlia -/

/-- The next group, the sequences and the count of missing groups are the same. -/
def DahKept (s t : State) : Prop :=
  t.dah.expect = s.dah.expect ∧ t.dah.seqs = s.dah.seqs
    ∧ rd t Obj.DAH_STATUS.GROUPS_MISSING = rd s Obj.DAH_STATUS.GROUPS_MISSING

theorem DahKept.trans {s t u : State} (h : DahKept s t) (k : DahKept t u) : DahKept s u :=
  ⟨k.1.trans h.1, k.2.1.trans h.2.1, k.2.2.trans h.2.2⟩

theorem dahKept_refl (s : State) : DahKept s s := ⟨rfl, rfl, rfl⟩

theorem dahKept_setDah (s : State) (f : DahliaState → DahliaState)
    (h : (f s.dah).expect = s.dah.expect ∧ (f s.dah).seqs = s.dah.seqs) : DahKept s (setDah s f) := ⟨h.1, h.2, rfl⟩

theorem dahKept_wr (s : State) {f : Field} (i v : Nat) (h : apart f Obj.DAH_STATUS.GROUPS_MISSING = true) :
    DahKept s (wr s f i v) := ⟨rfl, rfl, rd_wr_apart _ _ _ _ h⟩

theorem dahKept_raise (s : State) (code inst a b : Nat) : DahKept s (raise s code inst a b) := by
  have hdah := (raise_touches s code inst a b).dah_eq
  exact ⟨by rw [hdah], by rw [hdah], rd_raise _ _ _ _ _ _ (by decide)⟩

theorem dahKept_foldl {α : Type} (g : State → α → State) (l : List α) (s : State) (h : ∀ t x, DahKept t (g t x)) :
    DahKept s (l.foldl g s) := foldl_keeps g l (dahKept_refl s) fun t x k => k.trans (h t x)

theorem dahKept_queueDump (s : State) (r : DumpRecord) : DahKept s (queueDump s r) := by
  have hclock := touches_clockStarts (.refl [.mov, .pwr, .obj 0x1106] s) 12 (by decide)
  have h1 : DahKept s (clockStarts s 12) := ⟨by rw [hclock.dah_eq], by rw [hclock.dah_eq],
    hclock.rd_outside (os := [0x1106]) (by decide) rfl⟩
  refine (h1.trans (dahKept_wr _ 0 _ (by decide))).trans (dahKept_setDah _ _ ?_)
  split <;> exact ⟨rfl, rfl⟩

theorem dahKept_queueBatch (b : Batch) : DahKept b.1 (queueBatch b) := dahKept_foldl _ _ _ dahKept_queueDump

theorem dahKept_dumpPack (b : Batch) (q : DahSeq) (p e : Nat) (sp : Span) (closing short : Bool) :
    DahKept b.1 (dumpPack b q p e sp closing short).1 :=
  (dahKept_setDah b.1 _ ⟨rfl, rfl⟩).trans (dahKept_wr _ 0 _ (by decide))

theorem dahKept_dumpEmpty (b : Batch) (q : DahSeq) (p e : Nat) (sp : Span) (closing short : Bool) :
    DahKept b.1 (dumpEmpty b q p e sp closing short).1 :=
  ((dahKept_setDah b.1 _ ⟨rfl, rfl⟩).trans (dahKept_setDah _ _ ⟨rfl, rfl⟩)).trans (dahKept_raise _ _ _ _ _)

theorem dahKept_dumpSummary (b : Batch) (q : DahSeq) (e : Nat) (first last : Span) (closing : Bool) :
    DahKept b.1 (dumpSummary b q e first last closing).1 := by
  unfold dumpSummary
  extract_lets s whole within eqIn payload flags place r s1 s2
  have h0 : DahKept b.1 s := dahKept_setDah b.1 _ ⟨rfl, rfl⟩
  have h1 : DahKept s s1 := by
    unfold s1
    split
    · exact dahKept_refl s
    · have h := touches_clearFault (.refl [.flt, .notes, .obj 0x0C06] s) 0x0703 0 (by decide)
      exact ⟨by rw [h.dah_eq], by rw [h.dah_eq], h.rd_outside (os := [0x0C06]) (by decide) rfl⟩
  have h2 : DahKept b.1 s2 := (h0.trans h1).trans (dahKept_setDah _ _ ⟨rfl, rfl⟩)
  dsimp only
  split
  · exact h2
  · exact h2.trans (dahKept_setDah _ _ ⟨rfl, rfl⟩)

theorem dahKept_leaveRun (k : Nat) (b : Batch) (q : DahSeq) (p e : Nat) (held closing : Bool) :
    DahKept b.1 (leaveRun k b q p e held closing).1 := by
  induction k generalizing b e held with
  | zero => exact dahKept_refl _
  | succ k ih =>
    unfold leaveRun
    extract_lets sp cl short b1 b2
    have h1 : DahKept b.1 b1.1 := by
      unfold b1
      split
      · exact dahKept_dumpPack _ _ _ _ _ _ _
      · exact dahKept_dumpEmpty _ _ _ _ _ _ _
    have h2 : DahKept b.1 b2.1 := by
      unfold b2
      split
      · exact h1.trans (dahKept_dumpSummary _ _ _ _ _ _)
      · exact h1
    exact h2.trans (ih _ _ _)

theorem dahKept_leaveSeq (closing : Bool) (p : Nat) (b : Batch) (q : DahSeq) :
    DahKept b.1 (leaveSeq closing p b q).1 := by
  unfold leaveSeq
  split
  · exact dahKept_refl _
  · split
    · exact dahKept_refl _
    · exact dahKept_leaveRun _ _ _ _ _ _ _

theorem dahKept_batch {α : Type} (g : Batch → α → Batch) (l : List α) (b : Batch) (h : ∀ c x, DahKept c.1 (g c x).1) :
    DahKept b.1 (l.foldl g b).1 :=
  foldl_keeps (P := fun c : Batch => DahKept b.1 c.1) g l (dahKept_refl _) fun c x k => k.trans (h c x)

theorem dahKept_closePack (b : Batch) (p : Nat) : DahKept b.1 (closePack b p).1 :=
  dahKept_batch _ _ _ fun c q => dahKept_leaveSeq true p c q

theorem dahKept_rollover (b : Batch) (q : DahSeq) (p e : Nat) : DahKept b.1 (rollover b q p e).1.1 := by
  unfold rollover
  split
  · exact dahKept_refl _
  · exact (dahKept_batch _ _ _ fun c r => dahKept_leaveSeq false p c r).trans (dahKept_leaveRun _ _ _ _ _ _ _)

theorem dahKept_packAdd (s : State) (q : DahSeq) (p : Nat) (g : GroupIn) (corner : List (Nat × Nat × Nat))
    (fresh : Bool) :
    DahKept s (packAdd s q p g corner fresh) := by
  have h : DahKept s (if fresh then packFresh s q p else s) := by
    split
    · exact ⟨rfl, rfl, rfl⟩
    · exact dahKept_refl s
  exact h.trans (dahKept_setDah _ _ ⟨rfl, rfl⟩)

theorem dahKept_packGroup (g : GroupIn) (corner : List (Nat × Nat × Nat)) (missing : Bool) (b : Batch) (p : Nat) :
    DahKept b.1 (packGroup g corner missing b p).1 := by
  unfold packGroup
  split
  · exact dahKept_refl _
  · next q _ =>
    dsimp only
    split
    · exact dahKept_rollover _ _ _ _
    · exact ((dahKept_rollover _ _ _ _).trans (dahKept_packAdd _ _ _ _ _ _)).trans (dahKept_setDah _ _ ⟨rfl, rfl⟩)

theorem dahKept_groupPacks (s : State) (q : DahSeq) (g : GroupIn) (corner : List (Nat × Nat × Nat)) (missing : Bool) :
    DahKept s (groupPacks s q g corner missing) :=
  (dahKept_batch _ _ (s, []) fun c p => dahKept_packGroup g corner missing c p).trans (dahKept_queueBatch _)

theorem dahKept_dahUpsets (s : State) (u : DahliaUpsets) (corner : List (Nat × Nat × Nat)) :
    DahKept s (dahUpsets s u corner) := by
  refine DahKept.trans ?_ (dahKept_foldl _ _ _ fun t c => dahKept_raise t _ _ _ _)
  refine DahKept.trans ?_ (dahKept_foldl _ _ _ fun t c => dahKept_raise t _ _ _ _)
  exact DahKept.trans ⟨rfl, rfl, rfl⟩ (dahKept_foldl _ _ _ fun t c => dahKept_raise t _ _ _ _)

theorem dahKept_broadcast (s : State) (q : DahSeq) (g : GroupIn) (corner : List (Nat × Nat × Nat)) :
    DahKept s (broadcast s q g corner) := by
  unfold broadcast
  split
  · exact dahKept_setDah _ _ ⟨rfl, rfl⟩
  · exact dahKept_refl s

/-- The status shows the group that is next: the next group and the count of missing ones stay. -/
theorem dahShow_keeps (s : State) (n : Nat) : (dahShow s n).dah.expect = s.dah.expect
    ∧ rd (dahShow s n) Obj.DAH_STATUS.GROUPS_MISSING = rd s Obj.DAH_STATUS.GROUPS_MISSING := by
  unfold dahShow
  split
  · refine ⟨rfl, ?_⟩
    simp +decide
  · exact ⟨rfl, rfl⟩

/-! ### Integrations (R165 to R168, R184) -/

theorem startNow_accepts {s : State} (hstart : startStatus s = 0) :
    ∃ t, exec .startNow s = .next t ∧ t.dah.next = some (newSeq s (nextBlock s)) ∧ t.dah.seqs = s.dah.seqs
      ∧ rd t Obj.DAH_STATUS.PENDING = 0 :=
  ⟨acceptStart s (nextBlock s), if_pos hstart, rfl, rfl, rd_wr_same _ _ _ _⟩

theorem integrationStart_joins {s : State} {q : DahSeq} (hnext : s.dah.next = some q) (hstarted : s.dah.started = true)
    (hstop : s.dah.stopAt = none) (hdue : q.start ≤ s.time.rc64 / 2048 + 3) :
    ∃ t, exec .integrationStart s = .next t ∧ t.dah.seqs = s.dah.seqs ++ [q] ∧ t.dah.next = none
      ∧ rd t Obj.DAH_STATUS.RUNNING = 1 ∧ rd t Obj.DAH_STATUS.INT_SEQ = 0
      ∧ rd t Obj.DAH_STATUS.SEQ_SPX = toGroupSpx s q.start % 2 ^ 32 := by
  let s1 := setDah s (fun d =>
    { d with next := none, seqs := d.seqs ++ [q], nextId := d.nextId + 1,
             packs := if d.seqs.isEmpty then List.replicate (geomPacks q.geom) none else d.packs })
  let s2 := if s.dah.seqs.isEmpty then pruneBefore s1 q.start else s1
  have h2 : s2.dah.seqs = s.dah.seqs ++ [q] ∧ s2.dah.next = none := by
    unfold s2
    split <;> exact ⟨rfl, rfl⟩
  refine ⟨wr (wr (wr s2 Obj.DAH_STATUS.RUNNING 0 1) Obj.DAH_STATUS.INT_SEQ 0 0) Obj.DAH_STATUS.SEQ_SPX 0
    (toGroupSpx s q.start), ?_, h2.1, h2.2, ?_, ?_, ?_⟩
  · show execIntegrationStart s = _
    simp only [execIntegrationStart, hnext, hstarted, hstop, hdue, and_self, if_true]
    rfl
  · simp +decide
  · simp +decide
  · exact rd_wr_same _ _ _ _

theorem integrationStopBoundary_closes {s : State} {stop : Nat} {q : DahSeq} (hstop : s.dah.stopAt = some stop)
    (hcur : dahCur s = some q) (hpast : stop ≤ s.dah.expect) (hopen : s.dah.closing = false) :
    ∃ t, exec .integrationStopBoundary s = .next t ∧ t.dah.closing = true ∧ t.dah.seqs = s.dah.seqs := by
  let b : Batch := (List.range (geomPacks q.geom)).foldl closePack (s, [])
  have hkept : DahKept s (queueBatch b) := (dahKept_batch closePack _ (s, []) dahKept_closePack).trans
      (dahKept_queueBatch b)
  refine ⟨setDah (queueBatch b) (fun d => { d with closing := true }), ?_, rfl, hkept.2.1⟩
  show execIntegrationStopBoundary s = _
  simp only [execIntegrationStopBoundary, hstop, hcur, hpast, hopen, and_self, if_true]
  rfl

theorem closingPassDone_ends {s : State} (hclosing : s.dah.closing = true) (hempty : s.dah.toQueue = []) :
    ∃ t, exec .closingPassDone s = .next t ∧ t.dah.seqs = [] ∧ t.dah.stopAt = none ∧ t.dah.closing = false
      ∧ rd t Obj.DAH_STATUS.RUNNING = 0 :=
  ⟨_, if_pos ⟨hclosing, by rw [hempty]; rfl⟩, rfl, rfl, rfl, rd_wr_same _ _ _ _⟩

/-- Settles O29: the start, the boundary, the closing pass and its end. -/
theorem integrationsComplete : Obligations.IntegrationsComplete :=
  ⟨fun _ => startNow_accepts, fun _ _ => integrationStart_joins, fun _ _ _ => integrationStopBoundary_closes,
    fun _ => closingPassDone_ends⟩

/-! ### Groups (R158, R175 to R177, R183) -/

theorem releaseGroup_dah (s : State) : (releaseGroup s).dah = s.dah :=
  (touches_releaseGroup (.refl [.axl, .chz, .flt, .fst, .mem, .mov, .out, .peer, .pwr, .obj 0x0D05, .obj 0x1106] s)
    (by decide)).dah_eq

theorem discardBlock_dah (s : State) (n : Nat) : (discardBlock s n).dah
    = { s.dah with dropBlock := some (blockFirst s n), discards := s.dah.discards ++ [blockFirst s n] } := by
  rw [discardBlock, (raise_touches _ _ _ _ _).dah_eq]
  rfl

theorem correlateGroup_expect (s : State) (q : DahSeq) (g : GroupIn) (upsets : DahliaUpsets) :
    (correlateGroup s q g upsets).dah.expect = s.dah.expect := by
  unfold correlateGroup
  exact (dahShow_keeps _ _).1.trans (((dahKept_broadcast s q g _).trans (dahKept_dahUpsets _ upsets _)).trans
    (dahKept_groupPacks _ q g _ false)).1

theorem dahliaGroup_moves (upsets : DahliaUpsets) {s : State} (hstarted : s.dah.started = true)
    (hempty : s.dah.toQueue = [])
    (hwait : waitingN0 s = some s.dah.expect)
    (hgo : pastStop s s.dah.expect = false ∨ startWaits s s.dah.expect = false) :
    ∃ t, exec (.dahliaGroup upsets) s = .next t ∧ t.dah.expect = s.dah.expect + 64 := by
  show ∃ t, execDahliaGroup upsets s = .next t ∧ _
  rw [execDahliaGroup, hwait]
  dsimp only
  rw [if_pos (by rcases hgo with h | h <;> simp [hstarted, hempty, h])]
  have hrelease : ∀ u : State, u.dah.expect = s.dah.expect + 64 → (releaseGroup u).dah.expect = s.dah.expect + 64 :=
    fun u hu => by rw [releaseGroup_dah, hu]
  split
  · exact ⟨_, rfl, hrelease _ rfl⟩
  · split
    · exact ⟨_, rfl, hrelease _ (by rw [discardBlock_dah]; rfl)⟩
    · split
      · split
        · exact ⟨_, rfl, hrelease _ (correlateGroup_expect _ _ _ _)⟩
        · exact ⟨_, rfl, hrelease _ rfl⟩
      · exact ⟨_, rfl, hrelease _ rfl⟩

theorem dahliaGroupMissing_counts {s : State} (hstarted : s.dah.started = true) (hempty : s.dah.toQueue = [])
    (hgone : groupGone s = true) (hwait : waitingN0 s ≠ some s.dah.expect)
    (hgo : pastStop s s.dah.expect = false ∨ startWaits s s.dah.expect = false) :
    ∃ t, exec .dahliaGroupMissing s = .next t ∧ t.dah.expect = s.dah.expect + 64
      ∧ rd t Obj.DAH_STATUS.GROUPS_MISSING
          = (rd s Obj.DAH_STATUS.GROUPS_MISSING + 1) % 2 ^ Obj.DAH_STATUS.GROUPS_MISSING.width := by
  show ∃ t, execDahliaGroupMissing s = .next t ∧ _
  rw [execDahliaGroupMissing, if_pos (by rcases hgo with h | h <;> simp [hstarted, hempty, hgone, hwait, h])]
  extract_lets s1 s2
  obtain ⟨hexpect, -, hcount⟩ := dahKept_raise (bump s1 Obj.DAH_STATUS.GROUPS_MISSING 0 1) 0x0702 0 0
    (rd s Obj.DAH_STATUS.INT_SEQ)
  have h2 : s2.dah.expect = s.dah.expect + 64 := hexpect
  have hmissing : rd s2 Obj.DAH_STATUS.GROUPS_MISSING
      = (rd s Obj.DAH_STATUS.GROUPS_MISSING + 1) % 2 ^ Obj.DAH_STATUS.GROUPS_MISSING.width := by
    refine hcount.trans ?_
    rw [bump, rd_wr_same]
    rfl
  split
  · exact ⟨_, rfl, h2, hmissing⟩
  · split
    · obtain ⟨he, hm⟩ := dahShow_keeps (groupPacks s2 _ ⟨s.dah.expect, 0, 0, []⟩ [] true) s.dah.expect
      obtain ⟨hge, -, hgm⟩ := dahKept_groupPacks s2 _ ⟨s.dah.expect, 0, 0, []⟩ [] true
      exact ⟨_, rfl, (he.trans hge).trans h2, (hm.trans hgm).trans hmissing⟩
    · exact ⟨_, rfl, h2, hmissing⟩

theorem dahliaBlockDiscard_discards {s : State} (hstarted : s.dah.started = true)
    (hlate : admittedLate s s.dah.expect = true) :
    ∃ t, exec .dahliaBlockDiscard s = .next t ∧ t.dah.dropBlock = some (blockFirst s s.dah.expect)
      ∧ t.dah.discards = s.dah.discards ++ [blockFirst s s.dah.expect]
      ∧ rd t Obj.DAH_STATUS.BLOCKS_DISCARDED
          = (rd s Obj.DAH_STATUS.BLOCKS_DISCARDED + 1) % 2 ^ Obj.DAH_STATUS.BLOCKS_DISCARDED.width := by
  refine ⟨discardBlock s s.dah.expect, if_pos (by simp [hstarted, hlate]), ?_, ?_, ?_⟩
  · rw [discardBlock_dah]
  · rw [discardBlock_dah]
  · rw [discardBlock, rd_raise _ _ _ _ _ _ (by decide), bump, rd_wr_same]
    rfl

theorem dumpWait_times (us : Nat) {s : State} (hwait : s.dah.toQueue ≠ []) :
    ∃ t, exec (.dumpWait us) s = .next t ∧ (10 < us → t.dah.waited = true) ∧ (us ≤ 10 → t.dah = s.dah)
      ∧ rd t Obj.DAH_STATUS.DUMP_WAIT_US
          = (rd s Obj.DAH_STATUS.DUMP_WAIT_US + us) % 2 ^ Obj.DAH_STATUS.DUMP_WAIT_US.width := by
  refine ⟨_, if_neg (by simpa using hwait), fun hlong => ?_, fun hshort => ?_, ?_⟩
  · rw [if_pos hlong, (raise_touches _ _ _ _ _).dah_eq]
    rfl
  · rw [if_neg (by omega)]
    rfl
  · split
    · rw [rd_raise _ _ _ _ _ _ (by decide)]
      exact rd_wr_same _ _ _ _
    · exact rd_wr_same _ _ _ _

/-- Settles O30: a group, a missing one, a late block, a wait for the dump queue. -/
theorem dahliaGroupsComplete : Obligations.DahliaGroupsComplete :=
  ⟨fun upsets _ => dahliaGroup_moves upsets, fun _ => dahliaGroupMissing_counts, fun _ => dahliaBlockDiscard_discards,
    fun us _ => dumpWait_times us⟩

end Sys2Proof
end

section
/-! PROOF. Sunflower (spec 10): groups, and the operations on the context sets. -/

namespace Sys2Proof

-- one proof at a time, which bounds the memory of the compile
set_option Elab.async false

open Sys2Proof.Machine

/-! ### Context sets (R217, R224, R225, R227) -/

/-- The group in formation, the active and the pending set and the switch that is wanted are the same. -/
def SunKept (s t : State) : Prop :=
  t.sun.group = s.sun.group ∧ t.sun.active = s.sun.active ∧ t.sun.pendingSet = s.sun.pendingSet
    ∧ t.sun.switchAt = s.sun.switchAt

theorem SunKept.trans {s t u : State} (h : SunKept s t) (k : SunKept t u) : SunKept s u :=
  ⟨k.1.trans h.1, k.2.1.trans h.2.1, k.2.2.1.trans h.2.2.1, k.2.2.2.trans h.2.2.2⟩

theorem SunKept.of_sun {s t : State} (h : t.sun = s.sun) : SunKept s t := by
  rw [SunKept, h]
  exact ⟨rfl, rfl, rfl, rfl⟩

theorem sunKept_foldl {α : Type} (g : State → α → State) (l : List α) (s : State) (h : ∀ t x, SunKept t (g t x)) :
    SunKept s (l.foldl g s) := foldl_keeps g l (.of_sun rfl) fun t x k => k.trans (h t x)

theorem sunKept_homeRewritten (s : State) (entries : List Nat) : SunKept s (homeRewritten s entries) := by
  unfold homeRewritten
  dsimp only
  split
  · exact ⟨rfl, rfl, rfl, rfl⟩
  · exact ⟨rfl, rfl, rfl, rfl⟩

theorem sunKept_applyHeldGains (s : State) (p : Nat → Bool) : SunKept s (applyHeldGains s p) := by
  unfold applyHeldGains
  dsimp only
  split
  · exact .of_sun rfl
  · exact SunKept.trans ⟨rfl, rfl, rfl, rfl⟩ (sunKept_homeRewritten _ _)

theorem sunKept_latchFrom (s : State) (regs : SMap) (fs : List Field) (i : Nat) : SunKept s (latchFrom s regs fs i) :=
  sunKept_foldl _ _ _ fun _ _ => .of_sun rfl

theorem sunKept_dueChanges (s : State) : SunKept s (dueChanges s) := by
  refine SunKept.trans (sunKept_foldl boundaryChanges _ s fun t d => ?_) ⟨rfl, rfl, rfl, rfl⟩
  have h1 : SunKept t ((List.range 64).foldl (fun t b => latchFrom t d.2 Obj.SUN_BEAM.fields b)
      (latchFrom (latchFrom t d.2 Obj.SUN_CTRL.fields 0) d.2 Obj.SUN_INCOH.fields 0)) :=
    ((sunKept_latchFrom _ _ _ _).trans (sunKept_latchFrom _ _ _ _)).trans
      (sunKept_foldl _ _ _ fun u b => sunKept_latchFrom u _ _ b)
  unfold boundaryChanges
  dsimp only
  split
  · exact h1.trans (sunKept_applyHeldGains _ _)
  · exact h1

theorem dueChanges_rd (s : State) (f : Field) (hf : outside [] f = true) : rd (dueChanges s) f = rd s f :=
  (touches_dueChanges (.refl [.flt, .live, .sun] s) (by decide)).rd_outside hf rfl

theorem sunKept_raise (s : State) (code inst a b : Nat) : SunKept s (raise s code inst a b) :=
  .of_sun (raise_touches s code inst a b).sun_eq

theorem sunKept_tableUpset (s : State) (u : Nat × Nat) : SunKept s (tableUpset s u) := by
  unfold tableUpset
  extract_lets ctx a b s1
  have h1 : SunKept s s1 := SunKept.trans (.of_sun rfl) (sunKept_raise (bump s Obj.SUN_STATUS.TABLE_ERRS 0 1) _ _ _ _)
  split
  · exact sunKept_raise _ _ _ _ _
  · split
    · split
      · exact h1.trans (.of_sun rfl)
      · exact h1
    · exact h1.trans ⟨rfl, rfl, rfl, rfl⟩

theorem sunHalt_group (s : State) : (sunHalt s).sun.group = s.sun.group := by
  unfold sunHalt sunDisarm
  split
  · split <;> rfl
  · rfl

theorem sunGroup_moves (upsets : List (Nat × Nat)) {s : State} (hrun : s.sun.running = true)
    (hready : sunGroupReady s = true) (hdue : switchDue s = false) :
    ∃ t, exec (.sunGroup upsets) s = .next t ∧ t.sun.group = s.sun.group + 64 :=
  ⟨_, if_pos (by simp [hrun, hready, hdue]), (sunHalt_group _).trans
    (sunKept_foldl tableUpset upsets _ sunKept_tableUpset).1⟩

theorem pendingState_set (s : State) {p : Nat} (hp : p < 4) : pendingState (setPendingState s p) = p :=
  (rd_wr_same _ _ _ _).trans (Nat.mod_eq_of_lt hp)

theorem sunArm_arms {s : State} (hloaded : pendingState s ≠ 0) :
    ∃ t, exec .sunArm s = .next t ∧ pendingState t = 2 := by
  refine ⟨_, rfl, ?_⟩
  rw [sunArm, if_neg hloaded]
  exact pendingState_set s (by decide)

theorem empty_refuses {s : State} (hempty : pendingState s = 0) :
    exec .sunArm s = .next s ∧ exec .sunSwitchNow s = .next s := by
  constructor
  · show Host.Outcome.next (sunArm s).2 = _
    rw [sunArm, if_pos hempty]
  · show Host.Outcome.next (sunSwitchNow s).2 = _
    rw [sunSwitchNow, if_pos hempty]

theorem sunDisarm_disarms {s : State} (harmed : pendingState s = 2) :
    ∃ t, exec .sunDisarm s = .next t ∧ pendingState t = 1 := by
  refine ⟨_, rfl, ?_⟩
  rw [sunDisarm, if_pos harmed]
  exact pendingState_set s (by decide)

theorem sunCopy_copies {s : State} (hfree : pendingState s ≠ 2) :
    ∃ t, exec .sunCopy s = .next t ∧ pendingState t = 1 ∧ t.sun.pendingSet = s.sun.active
      ∧ rd t Obj.SUN_SWITCH.SPX_REF = s.sun.active.ref % 2 ^ 32 := by
  refine ⟨_, rfl, ?_⟩
  rw [sunCopy, if_neg hfree]
  dsimp only
  refine ⟨pendingState_set _ (by decide), (sunKept_homeRewritten s _).2.1, ?_⟩
  rw [setPendingState, rd_wr_apart _ _ _ _ (by decide)]
  exact rd_wr_same _ _ _ _

theorem sunCopy_armed {s : State} (harmed : pendingState s = 2) : exec .sunCopy s = .next s := by
  show Host.Outcome.next (sunCopy s).2 = _
  rw [sunCopy, if_pos harmed]

theorem sunSwitchNow_wants {s : State} (hloaded : pendingState s ≠ 0) :
    ∃ t, exec .sunSwitchNow s = .next t ∧ pendingState t = 2
      ∧ t.sun.switchAt = some (match s.sun.switchAt with
          | some h => min (switchGroup (s.time.rc64 + 1)) h
          | none => switchGroup (s.time.rc64 + 1)) := by
  refine ⟨_, rfl, ?_⟩
  rw [sunSwitchNow, if_neg hloaded]
  exact ⟨(rd_wr_same _ _ _ _ : pendingState (setPendingState s 2) = 2 % 4), rfl⟩

theorem setSwitch_switches {s : State} (hrun : s.sun.running = true) (hdue : switchDue s = true)
    (harmed : pendingState s = 2) :
    ∃ t, exec .setSwitch s = .next t ∧ pendingState t = 0 ∧ t.sun.switchAt = none
      ∧ t.sun.active = { s.sun.pendingSet with ref := rd s Obj.SUN_SWITCH.SPX_REF } ∧ t.sun.pendingSet = s.sun.active
      ∧ rd t Obj.SUN_STATUS.ACTIVE_SET = pendingSetNo s % 2
      ∧ rd t Obj.SUN_STATUS.SET_GEN = (rd s Obj.SUN_STATUS.SET_GEN + 1) % 2 ^ Obj.SUN_STATUS.SET_GEN.width := by
  show ∃ t, execSetSwitch s = .next t ∧ _
  rw [execSetSwitch, if_pos (by simp [hrun, hdue])]
  rw [if_pos harmed]
  extract_lets s1 s2 s3 _
  obtain ⟨-, hactive, hpending, -⟩ := sunKept_dueChanges s
  have h3 : Touches [.flt, .notes, .obj 0x0C06] (wr s2 Obj.SUN_SWITCH.SPX_REF 0 s.sun.active.ref) s3 :=
    touches_clearFault (.refl _ _) _ _ (by decide)
  have hsun3 : s3.sun = s1.sun := h3.sun_eq
  let t := if lv s3 Obj.SUN_CTRL.GAIN_EFFECT = 1 then applyHeldGains s3 (fun _ => true) else s3
  have hkept : SunKept s3 t := by
    unfold t
    split
    · exact sunKept_applyHeldGains _ _
    · exact .of_sun rfl
  have htouch : Touches [.flt, .notes, .sun, .obj 0x0C06] (wr s2 Obj.SUN_SWITCH.SPX_REF 0 s.sun.active.ref) t := by
    unfold t
    split
    · exact touches_applyHeldGains (h3.mono (by decide)) _ (by decide)
    · exact h3.mono (by decide)
  have hrd : ∀ f, outside [0x0C06] f = true → apart Obj.SUN_SWITCH.SPX_REF f = true → rd t f = rd s2 f :=
    fun f hf ha => (htouch.rd_outside hf rfl).trans (rd_wr_apart _ _ _ _ ha)
  obtain ⟨-, hta, htp, hts⟩ := hkept
  rw [hsun3] at hta htp hts
  refine ⟨t, rfl, ?_, hts, ?_, htp.trans hactive, ?_, ?_⟩
  · rw [pendingState, hrd _ (by decide) (by decide)]
    simp +decide [s2, setPendingState]
  · exact hta.trans (congrArg (fun x : SunSet => { x with ref := rd s Obj.SUN_SWITCH.SPX_REF }) hpending)
  · rw [hrd _ (by decide) (by decide)]
    simp +decide [s2]
    rfl
  · rw [hrd _ (by decide) (by decide)]
    simp +decide [s2]

theorem setSwitch_skips {s : State} (hrun : s.sun.running = true) (hdue : switchDue s = true)
    (hunarmed : pendingState s ≠ 2) :
    ∃ t, exec .setSwitch s = .next t ∧ t.sun.switchAt = none ∧ t.sun.active = s.sun.active
      ∧ rd t Obj.SUN_STATUS.SKIPPED = (rd s Obj.SUN_STATUS.SKIPPED + 1) % 2 ^ Obj.SUN_STATUS.SKIPPED.width := by
  show ∃ t, execSetSwitch s = .next t ∧ _
  rw [execSetSwitch, if_pos (by simp [hrun, hdue])]
  rw [if_neg hunarmed]
  let s0 := setSun (dueChanges s) (fun u => { u with switchAt := none })
  have hsun : (switchSkipped s0).sun = s0.sun := (raise_touches _ _ _ _ _).sun_eq
  refine ⟨_, rfl, congrArg SunflowerState.switchAt hsun, ?_, ?_⟩
  · exact (congrArg SunflowerState.active hsun).trans (sunKept_dueChanges s).2.1
  · rw [switchSkipped, rd_raise _ _ _ _ _ _ (by decide), bump, rd_wr_same,
      show rd s0 Obj.SUN_STATUS.SKIPPED = _ from dueChanges_rd s _ (by decide)]

theorem contextAged_raises {s : State} (hrun : s.sun.running = true) (hfresh : s.sun.aged = false)
    (hold : 2 ^ 31 ≤ (s.sun.group + 2 ^ 32 - s.sun.active.ref % 2 ^ 32) % 2 ^ 32) :
    ∃ t, exec .contextAged s = .next t ∧ t.sun.aged = true
      ∧ (s.flt.active.length < 1024 → faultActive t 0x0905 0 = true) := by
  refine ⟨_, if_pos (by simpa [hrun, hfresh] using hold), ?_, fun hroom => raise_active _ _ _ _ _ hroom⟩
  rw [(raise_touches _ _ _ _ _).sun_eq]
  rfl

/-- Settles O34: a group each step, and each operation on the sets, where it applies and where it does not. -/
theorem contextSetsComplete : Obligations.ContextSetsComplete :=
  ⟨fun upsets _ => sunGroup_moves upsets, fun _ => sunArm_arms, fun _ => empty_refuses, fun _ => sunDisarm_disarms,
    fun _ => sunCopy_copies, fun _ => sunCopy_armed, fun _ => sunSwitchNow_wants, fun _ => setSwitch_switches,
    fun _ => setSwitch_skips, fun _ => contextAged_raises⟩

end Sys2Proof
end

section
/-! PROOF. The time base (spec 15): loss and return of the reference, the slew, the edges of PPS, the waits of the
boot. -/

namespace Sys2Proof

-- one proof at a time, which bounds the memory of the compile
set_option Elab.async false

open Sys2Proof.Machine

/-! ### What a judgement of the reference keeps -/

/-- The edge that is held, the wait of the boot, the tick, and every register but those of faults, notices and
TIM_STATE are the same. -/
def EdgeKept (s t : State) : Prop :=
  t.time.lastValid = s.time.lastValid ∧ t.time.bootWait = s.time.bootWait ∧ t.time.rc64 = s.time.rc64
    ∧ ∀ f, outside [0x0C06, 0x0E01, 0x1011] f = true → rd t f = rd s f

theorem EdgeKept.trans {s t u : State} (h : EdgeKept s t) (k : EdgeKept t u) : EdgeKept s u :=
  ⟨k.1.trans h.1, k.2.1.trans h.2.1, k.2.2.1.trans h.2.2.1, fun f hf => (k.2.2.2 f hf).trans (h.2.2.2 f hf)⟩

theorem edgeKept_refl (s : State) : EdgeKept s s := ⟨rfl, rfl, rfl, fun _ _ => rfl⟩

theorem edgeKept_setTime (s : State) (f : TimeBase → TimeBase) (h : (f s.time).lastValid = s.time.lastValid
    ∧ (f s.time).bootWait = s.time.bootWait ∧ (f s.time).rc64 = s.time.rc64) : EdgeKept s (setTime s f) :=
  ⟨h.1, h.2.1, h.2.2, fun _ _ => rfl⟩

theorem EdgeKept.of_touches {s t : State} (h : Touches [.flt, .modes, .notes, .obj 0x0C06, .obj 0x0E01, .obj 0x1011] s
    t) :
    EdgeKept s t :=
  ⟨by rw [h.time_eq], by rw [h.time_eq], by rw [h.time_eq], fun _ hf => h.rd_outside hf rfl⟩

theorem edgeKept_raise (s : State) (code inst a b : Nat) : EdgeKept s (raise s code inst a b) :=
  .of_touches (touches_raise (.refl _ s) _ _ _ _ (by decide))

theorem edgeKept_clearFault (s : State) (code inst : Nat) : EdgeKept s (clearFault s code inst) :=
  .of_touches (touches_clearFault (.refl _ s) _ _ (by decide))

theorem edgeKept_wr (s : State) (f : Field) (i v : Nat) (h : plainField f = true ∧ f.obj = 0x0E01) :
    EdgeKept s (wr s f i v) :=
  .of_touches (touches_wr (.refl _ s) f i v ⟨h.1, by rw [h.2]; decide⟩)

theorem edgeKept_dropLock (s : State) : EdgeKept s (dropLock s) := by
  have h := edgeKept_setTime s (fun t => { t with lockRun := 0 }) ⟨rfl, rfl, rfl⟩
  unfold dropLock
  dsimp only
  split
  · exact h.trans ((edgeKept_wr _ Obj.TIM_STATE.LOCKED 0 0 (by decide)).trans (edgeKept_raise _ _ _ _ _))
  · exact h

theorem edgeKept_clearHoldover (s : State) : EdgeKept s (clearHoldover s) :=
  (((edgeKept_wr s Obj.TIM_STATE.HOLDOVER 0 0 (by decide)).trans (edgeKept_setTime _ _ ⟨rfl, rfl, rfl⟩)).trans
    (edgeKept_clearFault _ _ _)).trans (edgeKept_clearFault _ _ _)

theorem edgeKept_lockUpdate (s : State) (e : Int) : EdgeKept s (lockUpdate s e) := by
  have h := edgeKept_setTime s (fun t => { t with lockRun := t.lockRun + 1 }) ⟨rfl, rfl, rfl⟩
  unfold lockUpdate
  split
  · dsimp only
    split
    · exact h.trans ((edgeKept_wr _ Obj.TIM_STATE.LOCKED 0 1 (by decide)).trans (edgeKept_clearFault _ _ _))
    · exact h
  · exact edgeKept_dropLock s

theorem frameDrift_keeps (s : State) : (frameDrift s).time = s.time
    ∧ (∀ f, outside [0x0C06, 0x0E01, 0x1011] f = true → apart Obj.TIM_PPS.FRAME_OK f = true →
        rd (frameDrift s) f = rd s f)
    ∧ (s.time.rc64 % 2048 = 0 → frameDrift s = s) := by
  unfold frameDrift
  split
  · next h =>
    obtain ⟨-, -, -, hrd⟩ := edgeKept_raise (wr s Obj.TIM_PPS.FRAME_OK 0 0) 0x0E06 0 0 0
    exact ⟨raise_time _ _ _ _ _, fun f hf ha => (hrd f hf).trans (rd_wr_apart _ _ _ _ ha), fun hn => absurd hn h.1⟩
  · exact ⟨rfl, fun _ _ _ => rfl, fun _ => rfl⟩

/-- The state of a valid edge as TIM_PPS shows it. -/
def edgeShown (s : State) (lead : Nat) (edge : Int) : State :=
  setTime (wr (wr (wr (wr s Obj.TIM_PPS.RC64 0 s.time.rc64) Obj.TIM_PPS.TIME 0 (ts96Now s))
    Obj.TIM_PPS.COUNT 0 (rd s Obj.TIM_PPS.COUNT + 1)) Obj.TIM_PPS.LEAD 0 lead)
        (fun t => { t with lastValid := some edge })

theorem ppsCapture_judges (s : State) (lead : Nat) (edge : Int) :
    ∃ u, EdgeKept (edgeShown s lead edge) u ∧ EdgeKept (frameDrift u) (ppsCapture s lead edge) := by
  have hjudge : ∀ (v : State) (c : Bool), EdgeKept v (if c then raise v 0x0E03 0 0 0 else v) := fun v c => by
    split
    · exact edgeKept_raise _ _ _ _ _
    · exact edgeKept_refl v
  have hlock : ∀ (v : State) (c : Bool) (e : Int), EdgeKept v (if c then clearHoldover (lockUpdate v e)
      else lockUpdate v e) := fun v c e => by
    split
    · exact (edgeKept_lockUpdate _ _).trans (edgeKept_clearHoldover _)
    · exact edgeKept_lockUpdate _ _
  exact ⟨_, (edgeKept_clearFault _ 0x0E02 0).trans (hjudge _ _), hlock _ _ _⟩

theorem ppsCapture_captures (s : State) (lead : Nat) (edge : Int) :
    (ppsCapture s lead edge).time.lastValid = some edge ∧ (ppsCapture s lead edge).time.bootWait = s.time.bootWait
      ∧ (ppsCapture s lead edge).time.rc64 = s.time.rc64
      ∧ rd (ppsCapture s lead edge) Obj.TIM_PPS.RC64 = s.time.rc64 % 2 ^ Obj.TIM_PPS.RC64.width
      ∧ rd (ppsCapture s lead edge) Obj.TIM_PPS.COUNT = (rd s Obj.TIM_PPS.COUNT + 1) % 2 ^ Obj.TIM_PPS.COUNT.width
      ∧ (s.time.rc64 % 2048 = 0 → rd (ppsCapture s lead edge) Obj.TIM_PPS.FRAME_OK = rd s Obj.TIM_PPS.FRAME_OK) := by
  obtain ⟨u, ⟨hlu, hbu, hru, hrdu⟩, hl, hb, hr, hrd⟩ := ppsCapture_judges s lead edge
  obtain ⟨htime, hdrift, hkeep⟩ := frameDrift_keeps u
  have hshown : (edgeShown s lead edge).time = { s.time with lastValid := some edge } := by
    rw [edgeShown, setTime_time, wr_time, wr_time, wr_time, wr_time]
  rw [hshown] at hlu hbu hru
  refine ⟨by rw [hl, htime, hlu], by rw [hb, htime, hbu], by rw [hr, htime, hru], ?_, ?_, fun hn => ?_⟩
  · rw [hrd _ (by decide), hdrift _ (by decide) (by decide), hrdu _ (by decide)]
    simp +decide [edgeShown]
  · rw [hrd _ (by decide), hdrift _ (by decide) (by decide), hrdu _ (by decide)]
    simp +decide [edgeShown]
  · rw [hrd _ (by decide), hkeep (by rw [hru]; exact hn), hrdu _ (by decide)]
    simp +decide [edgeShown]

/-! ### The reference and PPS (R324 to R334) -/

theorem ref10mLost_holds {s : State} (hpresent : s.time.refPresent = true) :
    ∃ t, exec .ref10mLost s = .next t ∧ t.time.refPresent = false ∧ rd t Obj.TIM_STATE.HOLDOVER = 1
      ∧ (modeOf s ≠ .dormant → s.flt.active.length < 1024 → faultActive t 0x0E01 0 = true)
      ∧ (modeOf s = .dormant → t.flt = s.flt ∧ t.aon.holdoverUsed = true) := by
  show ∃ t, execRef10mLost s = .next t ∧ _
  rw [execRef10mLost, if_pos hpresent]
  dsimp only
  by_cases hmode : modeOf s = .dormant
  · rw [if_pos hmode]
    exact ⟨_, rfl, rfl, (rd_wr_same _ _ _ _ : rd (wr s Obj.TIM_STATE.HOLDOVER 0 1) _ = _), fun h => absurd hmode h,
      fun _ => ⟨rfl, rfl⟩⟩
  · rw [if_neg hmode]
    refine ⟨_, rfl, ?_, ?_, fun _ hroom => raise_active _ _ _ _ _ hroom, fun h => absurd h hmode⟩
    · rw [raise_time, wr_time]
      rfl
    · rw [rd_raise _ _ _ _ _ _ (by decide), rd_wr_apart _ _ _ _ (by decide), rd_setTime]
      exact rd_wr_same _ _ _ _

theorem ref10mReturn_slews {s : State} (habsent : s.time.refPresent = false) (hmode : modeOf s ≠ .dormant) :
    ∃ t, exec .ref10mReturn s = .next t ∧ t.time.refPresent = true ∧ rd t Obj.TIM_STATE.SLEWING = 1 :=
  ⟨_, if_pos (by simp [habsent, hmode]), rfl, rd_wr_same _ _ _ _⟩

theorem phaseSlewDone_ends {s : State} (hslew : rd s Obj.TIM_STATE.SLEWING ≠ 0) :
    ∃ t, exec .phaseSlewDone s = .next t ∧ rd t Obj.TIM_STATE.SLEWING = 0
      ∧ rd t Obj.TIM_STATE.HOLDOVER = (if s.time.dormantHold then rd s Obj.TIM_STATE.HOLDOVER else 0)
      ∧ t.time.rc64 = s.time.rc64 := by
  have hclear : ∀ (u : State) (f : Field), outside [0x0C06] f = true →
      rd (clearHoldover u) f = rd (wr u Obj.TIM_STATE.HOLDOVER 0 0) f := fun u f hf => by
    rw [clearHoldover, (touches_clearFault (.refl [.flt, .notes, .obj 0x0C06] _) _ _ (by decide)).rd_outside hf rfl,
      (touches_clearFault (.refl [.flt, .notes, .obj 0x0C06] _) _ _ (by decide)).rd_outside hf rfl, rd_setTime]
  have htime : (wr s Obj.TIM_STATE.SLEWING 0 0).time = s.time := wr_time _ _ _ _
  refine ⟨_, if_pos (by simp [flag, hslew]), ?_⟩
  rw [htime]
  by_cases hhold : s.time.dormantHold = true
  · simp only [hhold, if_true]
    exact ⟨rd_wr_same _ _ _ _, rd_wr_apart _ _ _ _ (by decide), by rw [htime]⟩
  · simp only [hhold, Bool.false_eq_true, if_false]
    refine ⟨?_, ?_, ?_⟩
    · rw [hclear _ _ (by decide), rd_wr_apart _ _ _ _ (by decide)]
      exact rd_wr_same _ _ _ _
    · rw [hclear _ _ (by decide)]
      exact rd_wr_same _ _ _ _
    · rw [(edgeKept_clearHoldover _).2.2.1, htime]

theorem dormantRefReturn_rounds {s : State} (hmode : modeOf s = .dormant) (habsent : s.time.refPresent = false) :
    ∃ t, exec .dormantRefReturn s = .next t ∧ t.time.refPresent = true ∧ t.time.rc64 = (s.time.rc64 + 159) / 160 * 160
      ∧ rd t Obj.TIM_STATE.HOLDOVER = rd s Obj.TIM_STATE.HOLDOVER :=
  ⟨_, if_pos ⟨hmode, habsent⟩, rfl, rfl, rfl⟩

theorem peerEdge_keeps (s : State) : (peerEdge s).time = s.time
    ∧ ∀ f, outside [0x0802, 0x0C06, 0x1011] f = true → rd (peerEdge s) f = rd s f :=
  have h := touches_peerEdge (.refl [.flt, .modes, .notes, .peer, .obj 0x0802, .obj 0x0C06, .obj 0x1011] s) (by decide)
  ⟨h.time_eq, fun _ hf => h.rd_outside hf rfl⟩

theorem satAdd_mod (w n k : Nat) : satAdd w n k % 2 ^ w = satAdd w n k := by
  refine Nat.mod_eq_of_lt ?_
  have := Nat.two_pow_pos w
  unfold satAdd
  split <;> omega

theorem ppsEdge_running {lead : Nat} {s : State} (hon : s.time.off = false) (hrun : s.time.bootWait = false) :
    let edge : Int := (s.time.rc64 : Int) - ((if s.time.refPresent then lead else 0 : Nat) : Int)
    ppsEdge s lead = if ppsValid s edge then ppsCapture s (if s.time.refPresent then lead else 0) edge
      else raise (bumpSat s Obj.TIM_PPS.BAD 0 1) 0x0E03 0 0 0 := by
  intro edge
  simp only [ppsEdge, hon, hrun, Bool.false_eq_true, if_false]
  rfl

theorem ppsEdge_valid (lead : Nat) {s : State} (hon : s.time.off = false) (hrun : s.time.bootWait = false) :
    let edge : Int := (s.time.rc64 : Int) - ((if s.time.refPresent then lead else 0 : Nat) : Int)
    ppsValid s edge = true →
      ∃ t, exec (.ppsEdge lead) s = .next t ∧ t.time.lastValid = some edge
        ∧ rd t Obj.TIM_PPS.RC64 = s.time.rc64 % 2 ^ 64
        ∧ rd t Obj.TIM_PPS.COUNT = (rd s Obj.TIM_PPS.COUNT + 1) % 2 ^ Obj.TIM_PPS.COUNT.width := by
  intro edge hvalid
  obtain ⟨htime, hrd⟩ := peerEdge_keeps (ppsEdge s lead)
  have hedge : ppsEdge s lead = ppsCapture s (if s.time.refPresent then lead else 0) edge :=
    (ppsEdge_running hon hrun).trans (if_pos hvalid)
  obtain ⟨hlast, -, -, hrc64, hcount, -⟩ := ppsCapture_captures s (if s.time.refPresent then lead else 0) edge
  refine ⟨peerEdge (ppsEdge s lead), rfl, ?_, ?_, ?_⟩
  · rw [htime, hedge, hlast]
  · rw [hrd _ (by decide), hedge, hrc64]
    rfl
  · rw [hrd _ (by decide), hedge, hcount]

theorem ppsEdge_invalid (lead : Nat) {s : State} (hon : s.time.off = false) (hrun : s.time.bootWait = false) :
    let edge : Int := (s.time.rc64 : Int) - ((if s.time.refPresent then lead else 0 : Nat) : Int)
    ppsValid s edge = false →
      ∃ t, exec (.ppsEdge lead) s = .next t
        ∧ rd t Obj.TIM_PPS.BAD = satAdd Obj.TIM_PPS.BAD.width (rd s Obj.TIM_PPS.BAD) 1 := by
  intro edge hbad
  obtain ⟨-, hrd⟩ := peerEdge_keeps (ppsEdge s lead)
  have hedge : ppsEdge s lead = raise (bumpSat s Obj.TIM_PPS.BAD 0 1) 0x0E03 0 0 0 :=
    (ppsEdge_running hon hrun).trans (if_neg (by rw [hbad]; decide))
  refine ⟨peerEdge (ppsEdge s lead), rfl, ?_⟩
  rw [hrd _ (by decide), hedge, rd_raise _ _ _ _ _ _ (by decide), bumpSat, rd_wr_same, satAdd_mod]

theorem ppsEdge_boots (lead : Nat) {s : State} (hon : s.time.off = false) (hwait : s.time.bootWait = true) :
    ∃ t, exec (.ppsEdge lead) s = .next t ∧ t.time.rc64 = 0 ∧ t.time.bootWait = false ∧ rd t
        Obj.TIM_PPS.FRAME_OK = 1 := by
  obtain ⟨htime, hrd⟩ := peerEdge_keeps (ppsEdge s lead)
  have hstart : (ppsEdge s lead).time.rc64 = 0 ∧ (ppsEdge s lead).time.bootWait = false
      ∧ rd (ppsEdge s lead) Obj.TIM_PPS.FRAME_OK = 1 := by
    simp only [ppsEdge, hon, hwait, Bool.false_eq_true, if_false, if_true]
    generalize hz : wr (setTime s _) Obj.TIM_PPS.FRAME_OK 0 1 = z
    have hzt : z.time = { s.time with rc64 := 0, bootWait := false } := by rw [← hz, wr_time, setTime_time]
    have hok : rd z Obj.TIM_PPS.FRAME_OK = 1 := by
      rw [← hz]
      exact rd_wr_same _ _ _ _
    have hrc : z.time.rc64 = 0 := by rw [hzt]
    have hbw : z.time.bootWait = false := by rw [hzt]
    have hjudged : ∀ (l : Nat) (e : Int) (u : State),
        (if ppsValid z e then ppsCapture z l e else raise (bumpSat z Obj.TIM_PPS.BAD 0 1) 0x0E03 0 0 0) = u →
        u.time.rc64 = 0 ∧ u.time.bootWait = false ∧ rd u Obj.TIM_PPS.FRAME_OK = 1 := by
      rintro l e _ rfl
      split
      · obtain ⟨-, hboot, htick, -, -, hframe⟩ := ppsCapture_captures z l e
        exact ⟨htick.trans hrc, hboot.trans hbw, (hframe (by rw [hrc])).trans hok⟩
      · rw [raise_time, rd_raise _ _ _ _ _ _ (by decide), bumpSat, wr_time, rd_wr_apart _ _ _ _ (by decide)]
        exact ⟨hrc, hbw, hok⟩
    exact hjudged _ _ _ rfl
  obtain ⟨hrc, hbw, hok⟩ := hstart
  exact ⟨peerEdge (ppsEdge s lead), rfl, by rw [htime, hrc], by rw [htime, hbw], by rw [hrd _ (by decide), hok]⟩

theorem ppsEdge_off (lead : Nat) {s : State} (hoff : s.time.off = true) :
    ∃ t, exec (.ppsEdge lead) s = .next t ∧ t.time.offEdge = some s.time.rc64
      ∧ rd t Obj.TIM_PPS.COUNT = rd s Obj.TIM_PPS.COUNT := by
  obtain ⟨htime, hrd⟩ := peerEdge_keeps (ppsEdge s lead)
  have hkept : ∀ c : Bool, EdgeKept s (if c then s else dropLock s) := fun c => by
    split
    · exact edgeKept_refl s
    · exact edgeKept_dropLock s
  refine ⟨peerEdge (ppsEdge s lead), rfl, ?_, ?_⟩
  · rw [htime, ppsEdge, if_pos hoff]
    exact congrArg some (hkept _).2.2.1
  · rw [hrd _ (by decide), ppsEdge, if_pos hoff]
    exact (hkept _).2.2.2 _ (by decide)

theorem ppsLost_drops {s : State} (hheld : s.time.lastValid.isSome = true) (hon : s.time.off = false) :
    ∃ t, exec .ppsLost s = .next t ∧ t.time.lastValid = none ∧ rd t Obj.TIM_STATE.LOCKED = 0 := by
  refine ⟨_, if_pos (by simp [hheld, hon]), ?_, ?_⟩
  · rw [raise_time, (edgeKept_dropLock _).1]
    rfl
  · rw [rd_raise _ _ _ _ _ _ (by decide)]
    unfold dropLock
    dsimp only
    split
    · rw [rd_raise _ _ _ _ _ _ (by decide)]
      exact rd_wr_same _ _ _ _
    · next h =>
      by_contra hne
      exact h (decide_eq_true hne)

theorem bootPpsWaitTimeout_starts {s : State} (hwait : s.time.bootWait = true) :
    ∃ t, exec .bootPpsWaitTimeout s = .next t ∧ t.time.rc64 = 0 ∧ t.time.bootWait = false
      ∧ rd t Obj.TIM_PPS.FRAME_OK = 0 :=
  ⟨_, if_pos hwait, rfl, rfl, rd_wr_same _ _ _ _⟩

/-- Settles O44: loss and return of the reference, the slew, the edges in each state of the time base, the timeouts. -/
theorem referenceComplete : Obligations.ReferenceComplete :=
  ⟨fun _ => ref10mLost_holds, fun _ => ref10mReturn_slews, fun _ => phaseSlewDone_ends, fun _ =>
      dormantRefReturn_rounds,
    fun lead _ hon hrun => ⟨ppsEdge_valid lead hon hrun, ppsEdge_invalid lead hon hrun⟩,
    fun lead _ => ppsEdge_boots lead, fun lead _ => ppsEdge_off lead, fun _ => ppsLost_drops,
    fun _ => bootPpsWaitTimeout_starts⟩

end Sys2Proof
end

section
/-! PROOF. Civil time and the comparators (spec 15). -/

namespace Sys2Proof

-- one proof at a time, which bounds the memory of the compile
set_option Elab.async false

open Sys2Proof.Machine

/-! ### Civil time (R330, R331, R336 to R338) -/

theorem civilReconvert_keeps (s : State) : (civilReconvert s).time = s.time
    ∧ ∀ f, outside [0x0E06] f = true → rd (civilReconvert s) f = rd s f :=
  have h := touches_civilReconvert (.refl [.obj 0x0E06] s) (by decide)
  ⟨h.time_eq, fun _ hf => h.rd_outside hf rfl⟩

theorem incWrite_waits {inc : Nat} (atPps : Bool) {s : State} (hmin : Obj.TIM_INC.INC.min ≤ inc)
    (hmax : inc ≤ Obj.TIM_INC.INC.max) :
    ∃ t, exec (.incWrite inc atPps) s = .next t ∧ rd t Obj.TIM_INC.PENDING = 1 ∧ rd t Obj.TIM_INC.INC = inc
      ∧ t.time.inc = s.time.inc ∧ t.time.incWait = some (inc, rd s Obj.TIM_PPS.COUNT) := by
  refine ⟨incWrite s inc (b2n atPps), if_pos ⟨hmin, hmax⟩, ?_, ?_, ?_, rfl⟩
  · rw [incWrite, rd_setTime]
    exact rd_wr_same _ _ _ _
  · rw [incWrite, rd_setTime, rd_wr_apart _ _ _ _ (by decide), rd_wr_apart _ _ _ _ (by decide), rd_wr_same]
    exact Nat.mod_eq_of_lt (lt_of_le_of_lt hmax (by decide))
  · rw [incWrite, setTime_time, wr_time, wr_time, wr_time]

theorem incWrite_illegal {inc : Nat} (atPps : Bool) {s : State}
    (hout : inc < Obj.TIM_INC.INC.min ∨ Obj.TIM_INC.INC.max < inc) : exec (.incWrite inc atPps) s = .next s :=
  if_neg (by omega)

theorem incApply_applies {s : State} {v acc : Nat} (hwait : s.time.incWait = some (v, acc))
    (hat : atBoundary s (flag s Obj.TIM_INC.WHEN) acc = true) :
    ∃ t, exec .incApply s = .next t ∧ t.time.inc = v ∧ t.time.civil = s.time.civil ∧ t.time.incWait = none
      ∧ rd t Obj.TIM_INC.PENDING = 0 := by
  let s1 := wr (setTime s (fun t => { t with inc := v, incWait := none })) Obj.TIM_INC.PENDING 0 0
  have hs1 : s1.time = { s.time with inc := v, incWait := none } := by rw [wr_time, setTime_time]
  obtain ⟨htime, hrd⟩ := civilReconvert_keeps s1
  rw [hs1] at htime
  refine ⟨civilReconvert s1, ?_, by rw [htime], by rw [htime], by rw [htime], ?_⟩
  · show execIncApply s = _
    rw [execIncApply, hwait]
    exact if_pos hat
  · rw [hrd _ (by decide)]
    exact rd_wr_same _ _ _ _

theorem timeOpWrite_waits (s : State) (o : TimeOp) : rd (timeOpWrite s o) Obj.TIM_SET.PENDING = 1
    ∧ (timeOpWrite s o).time = { s.time with opWait := some o } := by
  constructor
  · rw [timeOpWrite, rd_setTime]
    exact rd_wr_same _ _ _ _
  · rw [timeOpWrite, setTime_time, wr_time, wr_time]

theorem timeSet_waits {sec nsec : Nat} (atPps : Bool) {s : State} (hnsec : nsec < 1000000000) (hsec : sec < 2 ^ 48) :
    ∃ t, exec (.timeSet sec nsec atPps) s = .next t ∧ rd t Obj.TIM_SET.PENDING = 1
      ∧ t.time.opWait = some ⟨false, sec, nsec, 0, atPps, rd s Obj.TIM_PPS.COUNT⟩ ∧ t.time.civil = s.time.civil := by
  obtain ⟨hpending, htime⟩ := timeOpWrite_waits (wr (wr s Obj.TIM_SET.SEC 0 sec) Obj.TIM_SET.NSEC 0 nsec)
    ⟨false, sec, nsec, 0, atPps, rd s Obj.TIM_PPS.COUNT⟩
  exact ⟨_, if_pos ⟨hnsec, hsec⟩, hpending, by rw [htime], by rw [htime, wr_time, wr_time]⟩

theorem timeStep_waits {step : Int} (atPps : Bool) {s : State} (hvalid : flag s Obj.TIM_STATE.VALID = true)
    (hstep : step.natAbs < 1000000000) :
    ∃ t, exec (.timeStep step atPps) s = .next t ∧ rd t Obj.TIM_SET.PENDING = 1
      ∧ t.time.opWait = some ⟨true, 0, 0, step, atPps, rd s Obj.TIM_PPS.COUNT⟩ := by
  obtain ⟨hpending, htime⟩ := timeOpWrite_waits (wr s Obj.TIM_SET.STEP_NS 0 (ofInt 32 step))
    ⟨true, 0, 0, step, atPps, rd s Obj.TIM_PPS.COUNT⟩
  exact ⟨_, if_pos (by simp [hvalid, hstep]), hpending, by rw [htime]⟩

theorem dropLock_unlocks (s : State) : rd (dropLock s) Obj.TIM_STATE.LOCKED = 0
    ∧ rd (dropLock s) Obj.TIM_STATE.VALID = rd s Obj.TIM_STATE.VALID ∧ (dropLock s).time.civil = s.time.civil
    ∧ (dropLock s).time.opWait = s.time.opWait ∧ rd (dropLock s) Obj.TIM_SET.PENDING = rd s Obj.TIM_SET.PENDING := by
  unfold dropLock
  dsimp only
  split
  · rw [rd_raise _ _ _ _ _ _ (by decide), rd_raise _ _ _ _ _ _ (by decide), rd_raise _ _ _ _ _ _ (by decide),
      raise_time,
      wr_time, rd_wr_same, rd_wr_apart _ _ _ _ (by decide), rd_wr_apart _ _ _ _ (by decide), rd_setTime, rd_setTime]
    exact ⟨rfl, rfl, rfl, rfl, rfl⟩
  · next h =>
    refine ⟨?_, rfl, rfl, rfl, rfl⟩
    by_contra hne
    exact h (decide_eq_true hne)

theorem timeOpApply_applies {s : State} {o : TimeOp} (hwait : s.time.opWait = some o)
    (hat : atBoundary s o.atPps o.acceptedAt = true) :
    ∃ t, exec .timeOpApply s = .next t ∧ t.time.opWait = none ∧ rd t Obj.TIM_SET.PENDING = 0
      ∧ rd t Obj.TIM_STATE.LOCKED = 0
      ∧ (o.isStep = false → t.time.civil = o.sec * nsSecond + o.nsec * 4294967296 ∧ rd t Obj.TIM_STATE.VALID = 1)
      ∧ (o.isStep = true → t.time.civil = ((s.time.civil : Int) + o.stepNs * 4294967296).toNat) := by
  let s1 := wr (setTime s (fun t => { t with opWait := none })) Obj.TIM_SET.PENDING 0 0
  let s2 := if o.isStep then setTime s1 (fun t => { t with civil := ((t.civil : Int) + o.stepNs * 4294967296).toNat })
    else wr (setTime s1 (fun t => { t with civil := o.sec * nsSecond + o.nsec * 4294967296 })) Obj.TIM_STATE.VALID 0 1
  have hs1 : s1.time = { s.time with opWait := none } := by rw [wr_time, setTime_time]
  have hpend1 : rd s1 Obj.TIM_SET.PENDING = 0 := rd_wr_same _ _ _ _
  have h2 : s2.time.opWait = none ∧ rd s2 Obj.TIM_SET.PENDING = 0
      ∧ (o.isStep = false → s2.time.civil = o.sec * nsSecond + o.nsec * 4294967296 ∧ rd s2 Obj.TIM_STATE.VALID = 1)
      ∧ (o.isStep = true → s2.time.civil = ((s.time.civil : Int) + o.stepNs * 4294967296).toNat) := by
    unfold s2
    split
    · next h =>
      refine ⟨by rw [setTime_time, hs1], by rw [rd_setTime, hpend1], fun h' => absurd (h.symm.trans h') (by decide),
        fun _ => by rw [setTime_time, hs1]⟩
    · next h =>
      refine ⟨by rw [wr_time, setTime_time, hs1], ?_, fun _ => ⟨by rw [wr_time, setTime_time], rd_wr_same _ _ _ _⟩,
        fun h' => absurd h' h⟩
      rw [rd_wr_apart _ _ _ _ (by decide), rd_setTime, hpend1]
  obtain ⟨hop, hpend, hset, hstep⟩ := h2
  obtain ⟨hlocked, hvalid, hcivil, hopd, hpendd⟩ := dropLock_unlocks s2
  obtain ⟨htime, hrd⟩ := civilReconvert_keeps (dropLock s2)
  refine ⟨civilReconvert (dropLock s2), ?_, ?_, ?_, ?_, fun h => ?_, fun h => ?_⟩
  · show execTimeOpApply s = _
    rw [execTimeOpApply, hwait]
    exact if_pos hat
  · rw [htime, hopd, hop]
  · rw [hrd _ (by decide), hpendd, hpend]
  · rw [hrd _ (by decide), hlocked]
  · rw [htime, hcivil, hrd _ (by decide), hvalid]
    exact hset h
  · rw [htime, hcivil, hstep h]

/-! ### Comparators (R339, R340) -/

theorem ofInt_lt (w : Nat) (x : Int) : ofInt w x < 2 ^ w := by
  have hw : (0 : Int) < ((2 ^ w : Nat) : Int) := by exact_mod_cast Nat.two_pow_pos w
  exact (Int.toNat_lt (Int.emod_nonneg x hw.ne')).2 (Int.emod_lt_of_pos x hw)

theorem timCmpWrite_writes (c : Fin 16) {w : CmpWrite} {s : State} (hlegal : cmpLegal s w = true) :
    ∃ t, exec (.timCmpWrite c w) s = .next t ∧ rd t Obj.TIM_CMP.ARM c = b2n w.arm ∧ rd t Obj.TIM_CMP.ACTION c = w.action
      ∧ rd t Obj.TIM_CMP.KIND c = b2n w.civilKind
      ∧ rd t Obj.TIM_CMP.TARGET c
          = if w.civilKind then ofInt 48 (tickOfCivil s (civilOfTs w.civil)) else w.target % 2 ^ 48 := by
  have haction : w.action ≤ 6 := by
    simp only [cmpLegal, Bool.and_eq_true, decide_eq_true_eq] at hlegal
    exact hlegal.1.1.1
  have hrd : ∀ f, rd (cmpWrite s c w) f c = rd (wr (wr (wr (wr (wr (wr (wr s Obj.TIM_CMP.TARGET c
      (if w.civilKind then ofInt 48 (tickOfCivil s (civilOfTs w.civil)) else w.target)) Obj.TIM_CMP.ACTION c w.action)
      Obj.TIM_CMP.KIND c (b2n w.civilKind)) Obj.TIM_CMP.ARM c (b2n w.arm)) Obj.TIM_CMP.ARG c w.arg)
      Obj.TIM_CMP.PERIOD c w.period) Obj.TIM_CMP.CIVIL c w.civil) f c := fun f => by
    unfold cmpWrite
    dsimp only
    split
    · rw [rd_setTime, rd_setTime]
    · rw [rd_setTime]
  refine ⟨cmpWrite s c w, if_pos hlegal, ?_, ?_, ?_, ?_⟩
  · rw [hrd]
    simp +decide only [rd_wr_apart, rd_wr_same]
    exact b2n_mod_two _
  · rw [hrd]
    simp +decide only [rd_wr_apart, rd_wr_same]
    exact Nat.mod_eq_of_lt (lt_of_le_of_lt haction (by decide))
  · rw [hrd]
    simp +decide only [rd_wr_apart, rd_wr_same]
    exact b2n_mod_two _
  · rw [hrd]
    simp +decide only [rd_wr_apart, rd_wr_same]
    split
    · exact Nat.mod_eq_of_lt (ofInt_lt 48 _)
    · rfl

theorem timCmpWrite_illegal (c : Fin 16) {w : CmpWrite} {s : State} (hillegal : cmpLegal s w = false) :
    exec (.timCmpWrite c w) s = .next s := if_neg (by rw [hillegal]; decide)

theorem cmpMissed_rd (s : State) (c k : Nat) {f : Field} (hf : outside [0x0C06, 0x1011] f = true)
    (ha : apart Obj.TIM_CMP.MISSED f = true) (j : Nat) : rd (cmpMissed s c k) f j = rd s f j := by
  rw [cmpMissed, rd_raise _ _ _ _ _ _ hf, bumpSat, rd_wr_apart _ _ _ _ ha]

/-- What a comparator does leaves its own fields but `MISSED` alone. -/
theorem cmpAction_rd (s : State) (c action arg tick : Nat) {f : Field} (hf : f.obj = 0x0E06 ∧ f.lo < 4096)
    (ha : apart Obj.TIM_CMP.MISSED f = true) (j : Nat) : rd (cmpAction s c action arg tick) f j = rd s f j := by
  have hout : ∀ os : List Nat, os.contains 0x0E06 = false → outside os f = true := fun os ho => by
    simpa [outside, hf] using ho
  have hmissed : rd (cmpMissed s c 1) f j = rd s f j := cmpMissed_rd s c 1 (hout _ (by decide)) ha j
  unfold cmpAction
  split
  · split
    · exact addCondition_rd _ _ _ _
    · exact hmissed
  · split
    · exact (touches_acceptStart (.refl [.dah, .obj 0x0705] s) _ (by decide)).rd_outside (hout [0x0705] (by decide)) rfl
    · exact hmissed
  · split
    · exact (touches_sunComparator (.refl [.flt, .notes, .sun, .obj 0x0907, .obj 0x0C06] s) _ (by decide)).rd_outside
        (hout [0x0907, 0x0C06] (by decide)) rfl
    · exact hmissed
  · split
    · exact (touches_planStart (.refl [.cal, .out, .pwr, .obj 0x0A04, .obj 0x1011, .obj 0x1304] s) _
        (by decide)).rd_outside
        (hout [0x0A04, 0x1011, 0x1304] (by decide)) rfl
    · exact hmissed
  · exact (touches_hkRequest (.refl [.hk, .live, .pwr, .obj 0x0A04, .obj 0x1011, .obj 0x1204] s) _
      (by decide)).rd_outside
      (hout [0x0A04, 0x1011, 0x1204] (by decide)) rfl
  · rfl

/-- A comparator that fires, as it shows it. -/
def cmpFires (s : State) (c : Nat) (late : Bool) : State :=
  wr (wr s Obj.TIM_CMP.FIRED c 1) Obj.TIM_CMP.LATE c (b2n late)

theorem cmpAfterFire_cases (s : State) (c : Nat) (late : Bool) :
    ∃ u, (∀ f, outside [0x0C06, 0x1011] f = true → rd u f c = rd (cmpFires s c late) f c)
      ∧ if rd u Obj.TIM_CMP.PERIOD c = 0 then cmpAfterFire s c late = wr u Obj.TIM_CMP.ARM c 0
        else ∀ f, outside [0x0C06, 0x1011] f = true → apart Obj.TIM_CMP.TARGET f = true →
          apart Obj.TIM_CMP.MISSED f = true → rd (cmpAfterFire s c late) f c = rd u f c := by
  let s2 := setTime (cmpFires s c late) (fun t => { t with cmpFired := mapSet t.cmpFired c 1 })
  let s3 := if late then raise s2 0x0E05 c c (rd s2 Obj.TIM_CMP.MISSED c) else s2
  refine ⟨s3, fun f hf => ?_, ?_⟩
  · unfold s3
    split
    · rw [rd_raise _ _ _ _ _ _ hf, rd_setTime]
    · rw [rd_setTime]
  · split
    · next h => exact if_pos h
    · next h =>
      intro f hf ht hm
      have hnext : ∀ (v : State) (b : Int) (n m k : Nat), rd (if b < 0 then wr v Obj.TIM_CMP.TARGET c n
          else cmpMissed (wr v Obj.TIM_CMP.TARGET c m) c k) f c = rd v f c := fun v b n m k => by
        split
        · exact rd_wr_apart _ _ _ _ ht
        · rw [cmpMissed_rd _ _ _ hf hm, rd_wr_apart _ _ _ _ ht]
      exact ((congrArg (fun u => rd u f c) (if_neg h : cmpAfterFire s c late = _)).trans (hnext _ _ _ _ _)).trans
        (rd_setTime _ _ _ _)

theorem cmpAfterFire_rd (s : State) (c : Nat) (late : Bool) : rd (cmpAfterFire s c late) Obj.TIM_CMP.FIRED c = 1
    ∧ rd (cmpAfterFire s c late) Obj.TIM_CMP.LATE c = b2n late
    ∧ rd (cmpAfterFire s c late) Obj.TIM_CMP.ARM c
        = if rd s Obj.TIM_CMP.PERIOD c = 0 then 0 else rd s Obj.TIM_CMP.ARM c := by
  obtain ⟨u, hu, hcase⟩ := cmpAfterFire_cases s c late
  have hfired : rd u Obj.TIM_CMP.FIRED c = 1 := by
    rw [hu _ (by decide), cmpFires, rd_wr_apart _ _ _ _ (by decide), rd_wr_same]
    rfl
  have hlate : rd u Obj.TIM_CMP.LATE c = b2n late := by
    rw [hu _ (by decide), cmpFires, rd_wr_same]
    exact b2n_mod_two late
  have harm : rd u Obj.TIM_CMP.ARM c = rd s Obj.TIM_CMP.ARM c := by
    rw [hu _ (by decide), cmpFires, rd_wr_apart _ _ _ _ (by decide), rd_wr_apart _ _ _ _ (by decide)]
  have hperiod : rd u Obj.TIM_CMP.PERIOD c = rd s Obj.TIM_CMP.PERIOD c := by
    rw [hu _ (by decide), cmpFires, rd_wr_apart _ _ _ _ (by decide), rd_wr_apart _ _ _ _ (by decide)]
  rw [hperiod] at hcase
  split at hcase
  · next h =>
    rw [hcase, if_pos h, rd_wr_apart _ _ _ _ (by decide), rd_wr_apart _ _ _ _ (by decide), rd_wr_same]
    exact ⟨hfired, hlate, rfl⟩
  · next h =>
    rw [if_neg h, hcase _ (by decide) (by decide) (by decide), hcase _ (by decide) (by decide) (by decide),
      hcase _ (by decide) (by decide) (by decide)]
    exact ⟨hfired, hlate, harm⟩

theorem rd_noticeAt (s : State) (n : Nat) (b : NoticeBody) (f : Field) (j : Nat) :
    rd (noticeAt s n b) f j = rd s f j := rfl

theorem comparatorFire_fires (c : Fin 16) {s : State} (hdue : cmpDue s c = true) :
    ∃ t, exec (.comparatorFire c) s = .next t ∧ rd t Obj.TIM_CMP.FIRED c = 1
      ∧ rd t Obj.TIM_CMP.LATE c = b2n (cmpLate s c)
      ∧ rd t Obj.TIM_CMP.ARM c = if rd s Obj.TIM_CMP.PERIOD c = 0 then 0 else rd s Obj.TIM_CMP.ARM c := by
  obtain ⟨hfired, hlate, harm⟩ := cmpAfterFire_rd s c (cmpLate s c)
  refine ⟨_, if_pos hdue, ?_⟩
  split
  · rw [rd_noticeAt, rd_noticeAt, rd_noticeAt]
    exact ⟨hfired, hlate, harm⟩
  · rw [cmpAction_rd _ _ _ _ _ (by decide) (by decide), cmpAction_rd _ _ _ _ _ (by decide) (by decide),
      cmpAction_rd _ _ _ _ _ (by decide) (by decide)]
    exact ⟨hfired, hlate, harm⟩

/-- Settles O45: INC, SET and STEP at their write and at their boundary, a comparator at its write and when it is due.
    -/
theorem civilTimeComplete : Obligations.CivilTimeComplete :=
  ⟨fun _ atPps _ => incWrite_waits atPps, fun _ atPps _ => incWrite_illegal atPps, fun _ _ _ => incApply_applies,
    fun _ _ atPps _ => timeSet_waits atPps, fun _ atPps _ => timeStep_waits atPps, fun _ _ => timeOpApply_applies,
    fun c _ _ => timCmpWrite_writes c, fun c _ _ => timCmpWrite_illegal c, fun c _ => comparatorFire_fires c⟩

end Sys2Proof
end

section
/-! PROOF. The network ports (spec 15): frames, links, codewords. -/

namespace Sys2Proof

-- one proof at a time, which bounds the memory of the compile
set_option Elab.async false

open Sys2Proof.Machine

/-! ### Ports and frames (R342, R345, R348) -/

theorem raise_net (s : State) (code inst a b : Nat) : (raise s code inst a b).net = s.net :=
  (raise_touches s code inst a b).net_eq

theorem raise_out (s : State) (code inst a b : Nat) : (raise s code inst a b).out = s.out :=
  (raise_touches s code inst a b).out_eq

theorem portOf_setPort {s : State} {p : Nat} (f : NetPortState → NetPortState) (h : p < s.net.ports.length) :
    portOf (setPort s p f) p = f (portOf s p) := nth_upd_same _ _ _ _ h

theorem portOf_congr {s t : State} (h : t.net = s.net) (p : Nat) : portOf t p = portOf s p := by
  rw [portOf, h]
  rfl

theorem netFrame_receives {port : Fin 2} {bytes : List Nat} {s : State} (hup : netPortUp s port = true) :
    exec (.netFrame port bytes [] []) s = .next (receiveFrame s port bytes) := if_pos hup

section
variable {port : Fin 2} {bytes : List Nat} {s : State} (hup : netPortUp s port = true)
include hup

theorem netFrame_pause (hpause : isPause bytes = true) : ∃ t, exec (.netFrame port bytes [] []) s = .next t
    ∧ rd t Obj.NET_STATUS.PAUSE port = (rd s Obj.NET_STATUS.PAUSE port + 1) % 2 ^ Obj.NET_STATUS.PAUSE.width := by
  refine ⟨_, netFrame_receives hup, ?_⟩
  rw [receiveFrame, if_pos hpause]
  exact rd_wr_same _ _ _ _

theorem netFrame_own (hplain : isPause bytes = false)
    (hown : ofBe (bytes.take 6) = ofBe (leBytes 6 (rd s Obj.NET_PORT.MAC port))) :
    ∃ t, exec (.netFrame port bytes [] []) s = .next t
      ∧ rd t Obj.NET_STATUS.RX_OWN port = (rd s Obj.NET_STATUS.RX_OWN port + 1) % 2 ^ Obj.NET_STATUS.RX_OWN.width := by
  refine ⟨_, netFrame_receives hup, ?_⟩
  rw [receiveFrame, if_neg (by rw [hplain]; decide), if_pos hown]
  exact rd_wr_same _ _ _ _

theorem netFrame_forwards (hplain : isPause bytes = false)
    (hother : ofBe (bytes.take 6) ≠ ofBe (leBytes 6 (rd s Obj.NET_PORT.MAC port)))
    (hforward : flag s Obj.NET_PORT.FORWARD port = true) (hroom : fwdBytes s (1 - port.val) + bytes.length ≤ 262144)
    (hports : s.net.ports.length = 2) :
    ∃ t, exec (.netFrame port bytes [] []) s = .next t
      ∧ (portOf t (1 - port.val)).fwd = (portOf s (1 - port.val)).fwd ++ [fwdFrame s port bytes] := by
  refine ⟨_, netFrame_receives hup, ?_⟩
  rw [receiveFrame, if_neg (by rw [hplain]; decide), if_neg hother, if_neg (by rw [hforward]; decide),
    if_neg (by omega), portOf_setPort _ (by omega)]

end

/-- The counts and the fault that the form of a frame adds to its leaving. -/
theorem ptpCounts_keep (u : State) (p : Nat) (c d e : Bool) :
    let v := if c then bump u Obj.NET_STATUS.PTP_CORRECTED p 1 else u
    let w := if d then bump v Obj.NET_STATUS.PTP_UNCORRECTED p 1 else v
    let x := if e then raise w 0x0F05 p p (rd w Obj.NET_STATUS.PTP_UNCORRECTED p) else w
    x.net = u.net ∧ x.out = u.out ∧ rd x Obj.NET_STATUS.FORWARDED p = rd u Obj.NET_STATUS.FORWARDED p := by
  intro v w x
  have hv : v.net = u.net ∧ v.out = u.out ∧ rd v Obj.NET_STATUS.FORWARDED p = rd u Obj.NET_STATUS.FORWARDED p := by
    unfold v
    split
    · exact ⟨wr_net _ _ _ _, wr_out _ _ _ _, rd_wr_apart _ _ _ _ (by decide)⟩
    · exact ⟨rfl, rfl, rfl⟩
  have hw : w.net = v.net ∧ w.out = v.out ∧ rd w Obj.NET_STATUS.FORWARDED p = rd v Obj.NET_STATUS.FORWARDED p := by
    unfold w
    split
    · exact ⟨wr_net _ _ _ _, wr_out _ _ _ _, rd_wr_apart _ _ _ _ (by decide)⟩
    · exact ⟨rfl, rfl, rfl⟩
  have hx : x.net = w.net ∧ x.out = w.out ∧ rd x Obj.NET_STATUS.FORWARDED p = rd w Obj.NET_STATUS.FORWARDED p := by
    unfold x
    split
    · exact ⟨raise_net _ _ _ _ _, raise_out _ _ _ _ _, rd_raise _ _ _ _ _ _ (by decide)⟩
    · exact ⟨rfl, rfl, rfl⟩
  exact ⟨hx.1.trans (hw.1.trans hv.1), hx.2.1.trans (hw.2.1.trans hv.2.1), hx.2.2.trans (hw.2.2.trans hv.2.2)⟩

/-- A frame that leaves: the port's next frames, what went out, the count. -/
theorem releaseOne_releases {s : State} {p : Nat} (r : Nat) {f : FwdFrame} {rest : List FwdFrame}
    (hopen : netPortUp s p = true) (hfwd : (portOf s p).fwd = f :: rest) :
    (portOf (releaseOne s p r) p).fwd = rest ∧ .netFrame p (ptpForward f r).bytes ∈ (releaseOne s p r).out
      ∧ rd (releaseOne s p r) Obj.NET_STATUS.FORWARDED p
          = (rd s Obj.NET_STATUS.FORWARDED p + 1) % 2 ^ Obj.NET_STATUS.FORWARDED.width := by
  have hp : p < s.net.ports.length := lt_length_of_nth_ne (d := ⟨0, []⟩) fun e => by
    rw [portOf, e] at hfwd
    exact absurd hfwd (by simp)
  let u := bump (emit (setPort s p (fun q => { q with fwd := rest })) (.netFrame p (ptpForward f r).bytes))
    Obj.NET_STATUS.FORWARDED p 1
  obtain ⟨hnet, hout, hcount⟩ := ptpCounts_keep u p (ptpForward f r).corrected (ptpForward f r).uncorrected
    (ptpForward f r).twoStepSync
  have hrel : ∃ v, releaseOne s p r = v ∧ v.net = u.net ∧ v.out = u.out
      ∧ rd v Obj.NET_STATUS.FORWARDED p = rd u Obj.NET_STATUS.FORWARDED p := by
    refine ⟨_, ?_, hnet, hout, hcount⟩
    rw [releaseOne, hopen, hfwd]
  obtain ⟨v, rfl, hvnet, hvout, hvcount⟩ := hrel
  refine ⟨?_, ?_, ?_⟩
  · rw [portOf_congr hvnet, show portOf u p = _ from portOf_congr (wr_net _ _ _ _) p, portOf_congr (emit_net _ _),
      portOf_setPort _ hp]
  · rw [hvout, show u.out = _ from wr_out _ _ _ _]
    exact List.mem_cons_self
  · rw [hvcount]
    exact rd_wr_same _ _ _ _

theorem netFrame_releases {port : Fin 2} {bytes : List Nat} {s : State} (hup : netPortUp s port = true) {r : Nat}
    {f : FwdFrame} {rest : List FwdFrame} (hpause : isPause bytes = true) (hopen : netPortUp s (1 - port.val) = true)
    (hfwd : (portOf s (1 - port.val)).fwd = f :: rest) :
    ∃ t, exec (.netFrame port bytes [r] []) s = .next t ∧ (portOf t (1 - port.val)).fwd = rest
      ∧ .netFrame (1 - port.val) (ptpForward f r).bytes ∈ t.out
      ∧ rd t Obj.NET_STATUS.FORWARDED (1 - port.val)
          = (rd s Obj.NET_STATUS.FORWARDED (1 - port.val) + 1) % 2 ^ Obj.NET_STATUS.FORWARDED.width := by
  obtain ⟨hrest, hsent, hcount⟩ := releaseOne_releases r hopen hfwd
  refine ⟨receiveFrame (releaseOne s (1 - port.val) r) port bytes, if_pos hup, ?_⟩
  rw [receiveFrame, if_pos hpause, bump, portOf_congr (wr_net _ _ _ _), wr_out, rd_wr_apart _ _ _ _ (by decide)]
  exact ⟨hrest, hsent, hcount⟩

/-! ### Links and codewords -/

section
variable (port : Fin 2) {s : State}

theorem netLinkDown_counts (lost : Nat) (hup : netPortUp s port = true) :
    ∃ t, exec (.netLinkDown port lost) s = .next t ∧ rd t Obj.NET_STATUS.LINK port = 0
      ∧ rd t Obj.NET_STATUS.TX_LOST port
          = (rd s Obj.NET_STATUS.TX_LOST port + lost) % 2 ^ Obj.NET_STATUS.TX_LOST.width := by
  refine ⟨_, if_pos hup, ?_⟩
  rw [rd_raise _ _ _ _ _ _ (by decide), rd_raise _ _ _ _ _ _ (by decide), bump]
  simp +decide only [rd_wr_apart, rd_wr_same]

theorem netLinkUp_resolves (cr4 bypass : Bool) (htrain : netMayTrain s port = true)
    (hmedia : bit (rd s Obj.NET_PORT.MEDIA port) (b2n cr4) = true) :
    ∃ t, exec (.netLinkUp port cr4 bypass) s = .next t ∧ rd t Obj.NET_STATUS.LINK port = 3
      ∧ rd t Obj.NET_STATUS.MEDIA_RES port = b2n cr4
      ∧ rd t Obj.NET_STATUS.BYPASS_RES port = b2n (bypass && flag s Obj.NET_PORT.FEC_IND_BYPASS port) := by
  refine ⟨_, if_pos (by simp [htrain, hmedia]), ?_⟩
  have hclear : ∀ (u : State) (g : Field), outside [0x0C06] g = true →
      rd (endFault (clearFault (setPort u port (fun q => { q with anFails := 0 })) 0x0F02 port) 0x0F01 port) g port
        = rd u g port := fun u g hg =>
    (touches_clearFault (.refl [.flt, .notes, .obj 0x0C06] _) _ _ (by decide)).rd_outside hg rfl
  rw [hclear _ _ (by decide), hclear _ _ (by decide), hclear _ _ (by decide)]
  simp +decide only [rd_wr_apart, rd_wr_same]
  exact ⟨trivial, b2n_mod_two _, b2n_mod_two _⟩

theorem anRestart_trains (htrain : netMayTrain s port = true) (han : flag s Obj.NET_PORT.AN port = true) :
    ∃ t, exec (.anRestart port) s = .next t ∧ rd t Obj.NET_STATUS.LINK port = 1 := by
  have hlink : rd (setPort (wr s Obj.NET_STATUS.LINK port 1) port (fun q => { q with anFails := q.anFails + 1 }))
      Obj.NET_STATUS.LINK port = 1 := rd_wr_same _ _ _ _
  refine ⟨_, if_pos (by simp [htrain, han]), ?_⟩
  split
  · rw [rd_raise _ _ _ _ _ _ (by decide), hlink]
  · exact hlink

theorem netFecUncorrected_counts (corrected uncorrected : Nat) (hup : netPortUp s port = true) :
    ∃ t, exec (.netFecUncorrected port corrected uncorrected) s = .next t
      ∧ rd t Obj.NET_STATUS.FEC_CORRECTED port
          = (rd s Obj.NET_STATUS.FEC_CORRECTED port + corrected) % 2 ^ Obj.NET_STATUS.FEC_CORRECTED.width
      ∧ rd t Obj.NET_STATUS.FEC_UNCORRECTED port
          = (rd s Obj.NET_STATUS.FEC_UNCORRECTED port + uncorrected) % 2 ^ Obj.NET_STATUS.FEC_UNCORRECTED.width := by
  have hraise : ∀ (u : State) (a : Nat) (g : Field), outside [0x0C06, 0x1011] g = true →
      rd (if uncorrected = 0 then u else raise u 0x0F03 port port a) g port = rd u g port := fun u a g hg => by
    split
    · rfl
    · exact rd_raise _ _ _ _ _ _ hg
  refine ⟨_, if_pos hup, ?_⟩
  rw [hraise _ _ _ (by decide), hraise _ _ _ (by decide), bump, bump, rd_wr_same, rd_wr_apart _ _ _ _ (by decide),
    rd_wr_same, rd_wr_apart _ _ _ _ (by decide)]
  exact ⟨rfl, rfl⟩

end

/-- Settles O46: a received frame of each kind, a frame that leaves, the links, the codewords. -/
theorem networkPortsComplete : Obligations.NetworkPortsComplete :=
  ⟨fun _ _ _ hup => ⟨netFrame_pause hup, netFrame_own hup, netFrame_forwards hup, fun _ _ _ => netFrame_releases hup⟩,
    fun port lost _ => netLinkDown_counts port lost,
    fun port cr4 bypass _ htrain => ⟨netLinkUp_resolves port cr4 bypass htrain, anRestart_trains port htrain⟩,
    fun port corrected uncorrected _ => netFecUncorrected_counts port corrected uncorrected⟩

end Sys2Proof
end

section
/-! PROOF. Housekeeping (spec 19): the sequencer, the pin HKSTART, the buffer, STAT. -/

namespace Sys2Proof

-- one proof at a time, which bounds the memory of the compile
set_option Elab.async false

open Sys2Proof.Machine

/-! ### The housekeeping sequencer (R428 to R433) -/

theorem domUp_hk (s : State) (cls d : Nat) : (domUp s cls d).hk = s.hk :=
  (touches_domUp (.refl [.pwr, .obj 0x0A04, .obj 0x1011] s) cls d (by decide)).hk_eq

theorem domDown_hk (s : State) (cls d target : Nat) : (domDown s cls d target).hk = s.hk :=
  (touches_domDown (.refl [.pwr, .obj 0x0A04] s) cls d target (by decide)).hk_eq

theorem showHk_hk (s : State) : (showHk s).hk = s.hk := (touches_showHk (.refl [.obj 0x1204] s) (by decide)).hk_eq

theorem convBegin_rd (s : State) {f : Field} (hf : outside [0x0A04, 0x1011] f = true) (j : Nat) :
    rd (convBegin s) f j = rd s f j :=
  (touches_convBegin (.refl [.hk, .pwr, .obj 0x0A04, .obj 0x1011] s) (by decide)).rd_outside hf rfl

/-- A conversion that begins, or waits for the ADC, leaves the entry. -/
theorem convBegin_run {s : State} {r : HkRun} (hr : s.hk.run = some r) :
    ∃ x, (convBegin s).hk.run = some x ∧ x.entry = r.entry := by
  unfold convBegin
  split
  · exact ⟨_, congrArg (Option.map _) hr, rfl⟩
  · exact ⟨_, (congrArg Housekeeping.run (domUp_hk _ _ _)).trans (congrArg (Option.map _) hr), rfl⟩

theorem showHk_running {s : State} {r : HkRun} (hr : s.hk.run = some r) : rd (showHk s) Obj.HK_STATUS.RUNNING = 1 := by
  rw [showHk, hr]
  dsimp only
  rw [rd_wr_apart _ _ _ _ (by decide)]
  exact rd_wr_same _ _ _ _

theorem showHk_rd (s : State) {f : Field} (hr : apart Obj.HK_STATUS.RUNNING f = true)
    (he : apart Obj.HK_STATUS.ENTRY f = true) (j : Nat) : rd (showHk s) f j = rd s f j := by
  unfold showHk
  split
  · rw [rd_wr_apart _ _ _ _ he, rd_wr_apart _ _ _ _ hr]
  · exact rd_wr_apart _ _ _ _ hr

theorem runBegin_runs (s : State) (entry : Nat) : rd (runBegin s entry) Obj.HK_STATUS.RUNNING = 1
    ∧ rd (runBegin s entry) Obj.HK_STATUS.RUNS = (rd s Obj.HK_STATUS.RUNS + 1) % 2 ^ Obj.HK_STATUS.RUNS.width
    ∧ rd (runBegin s entry) Obj.HK_STATUS.RESTARTS = rd s Obj.HK_STATUS.RESTARTS := by
  have hlatch : ∀ (k : Nat) (fs : List Field) (u : State),
      Touches [.live] u ((List.range k).foldl (fun t i => latch t fs i) u) := fun k fs u =>
    .foldl _ _ (.refl _ _) fun t i h => touches_latch h fs i (by decide)
  have h2 : Touches [.live] s ((List.range 16).foldl (fun t i => latch t Obj.HK_LIMIT.fields i)
      ((List.range 64).foldl (fun t i => latch t Obj.HK_SEQ.fields i) (latch s Obj.HK_CTRL.fields 0))) :=
    ((touches_latch (.refl _ s) _ 0 (by decide)).trans (hlatch 64 _ _)).trans (hlatch 16 _ _)
  unfold runBegin
  dsimp only
  generalize (List.range 16).foldl _ _ = u at h2 ⊢
  obtain ⟨x, hx, -⟩ := convBegin_run (s := setHk (bump u Obj.HK_STATUS.RUNS 0 1) (fun h =>
    { h with run := some ⟨entry, entry, 0, false, false⟩, startNext := none, stopNext := false })) rfl
  refine ⟨showHk_running hx, ?_, ?_⟩
  · rw [showHk_rd _ (by decide) (by decide), convBegin_rd _ (by decide), rd_setHk, bump, rd_wr_same,
      h2.rd_outside (os := []) (by decide) rfl]
  · rw [showHk_rd _ (by decide) (by decide), convBegin_rd _ (by decide), rd_setHk, bump, rd_wr_apart _ _ _ _
      (by decide),
      h2.rd_outside (os := []) (by decide) rfl]

theorem hkRequest_idle {s : State} (hidle : s.hk.run = none) (entry : Nat) :
    rd (hkRequest s entry) Obj.HK_STATUS.RUNNING = 1
      ∧ rd (hkRequest s entry) Obj.HK_STATUS.RUNS = (rd s Obj.HK_STATUS.RUNS + 1) % 2 ^ Obj.HK_STATUS.RUNS.width := by
  obtain ⟨hrunning, hruns, -⟩ := runBegin_runs s (entry % 64)
  rw [hkRequest, hidle]
  exact ⟨hrunning, hruns⟩

theorem runEnd_run (u : State) : (runEnd u).hk.run = none := by
  rw [runEnd, domDown_hk, showHk_hk]
  rfl

section
variable {s : State} {r : HkRun} (hrun : s.hk.run = some r)
include hrun

theorem hkStart_held (hconv : r.converting = true) : ∃ t, exec .hkStart s = .next t
    ∧ t.hk.startNext = some (rd s Obj.HK_CTRL.START_ENTRY % 64)
    ∧ rd t Obj.HK_STATUS.RESTARTS = (rd s Obj.HK_STATUS.RESTARTS + 1) % 2 ^ Obj.HK_STATUS.RESTARTS.width := by
  refine ⟨_, rfl, ?_⟩
  rw [hkRequest, hrun]
  dsimp only
  rw [if_pos hconv]
  exact ⟨rfl, rd_wr_same _ _ _ _⟩

theorem hkStart_restarts (hconv : r.converting = false) : ∃ t, exec .hkStart s = .next t
    ∧ rd t Obj.HK_STATUS.RUNS = (rd s Obj.HK_STATUS.RUNS + 1) % 2 ^ Obj.HK_STATUS.RUNS.width
    ∧ rd t Obj.HK_STATUS.RESTARTS = (rd s Obj.HK_STATUS.RESTARTS + 1) % 2 ^ Obj.HK_STATUS.RESTARTS.width := by
  obtain ⟨-, hruns, hrestarts⟩ := runBegin_runs (bump s Obj.HK_STATUS.RESTARTS 0 1)
    (rd s Obj.HK_CTRL.START_ENTRY % 64)
  refine ⟨_, rfl, ?_⟩
  rw [hkRequest, hrun]
  dsimp only
  rw [if_neg (by rw [hconv]; decide), hruns, hrestarts, bump, rd_wr_same, rd_wr_apart _ _ _ _ (by decide)]
  exact ⟨rfl, rfl⟩

theorem hkStop_held (hconv : r.converting = true) : ∃ t, exec .hkStop s = .next t ∧ t.hk.stopNext = true := by
  refine ⟨_, rfl, ?_⟩
  rw [hkStopWrite, hrun]
  dsimp only
  rw [if_pos hconv]
  rfl

theorem hkStop_ends (hconv : r.converting = false) : ∃ t, exec .hkStop s = .next t ∧ t.hk.run = none := by
  refine ⟨_, rfl, ?_⟩
  rw [hkStopWrite, hrun]
  dsimp only
  rw [if_neg (by rw [hconv]; decide), runEnd_run]

theorem hkConversionDone_ends (hconv : r.converting = true) (hstart : s.hk.startNext = none)
    (hstop : s.hk.stopNext = false) (value : Int) :
    ∃ t, exec (.hkConversionDone value) s = .next t ∧ t.hk.run = some { r with converting := false, due := false } := by
  show ∃ t, execHkConversionDone value s = .next t ∧ _
  rw [execHkConversionDone, hrun]
  dsimp only
  rw [if_pos hconv, hstart]
  dsimp only
  rw [if_neg (by rw [hstop]; decide)]
  split
  · exact ⟨_, rfl, by rw [domDown_hk]; rfl⟩
  · exact ⟨_, rfl, rfl⟩

theorem hkDelayExpired_moves (hconv : r.converting = false) (hdue : r.due = false) :
    ∃ t x, exec .hkDelayExpired s = .next t ∧ t.hk.run = some x ∧ rd t Obj.HK_STATUS.RUNNING = 1
      ∧ x.entry = (if r.rep + 1 < lv s Obj.HK_SEQ.REPEAT r.entry then r.entry else entryAfter s r) := by
  let r1 : HkRun := if r.rep + 1 < lv s Obj.HK_SEQ.REPEAT r.entry then { r with rep := r.rep + 1 }
    else { r with entry := entryAfter s r, rep := 0 }
  obtain ⟨x, hx, hentry⟩ := convBegin_run (s := setHk s (fun h => { h with run := some r1 })) (r := r1) rfl
  refine ⟨showHk (convBegin (setHk s (fun h => { h with run := some r1 }))), x, ?_, ?_, showHk_running hx, ?_⟩
  · show execHkDelayExpired s = _
    rw [execHkDelayExpired, hrun]
    exact if_neg (by simp [hconv, hdue])
  · rw [showHk_hk, hx]
  · rw [hentry]
    unfold r1
    split <;> rfl

theorem hkWakeTimer_wakes (hoff : domState s 373 = 0) (hqueue : s.pwr.queue = [])
    (hfree : s.pwr.barred.contains 373 = false) :
    ∃ t, exec .hkWakeTimer s = .next t ∧ t.pwr.queue = [⟨3, 373, true, Config.stepMa 373, .wakes⟩] := by
  refine ⟨domUp s 3 373, if_pos (by rw [hrun]; rfl), ?_⟩
  rw [domUp, if_neg (by rw [hfree]; decide), hoff]
  show (if s.pwr.queue.any _ then s else paced s _).pwr.queue = _
  rw [hqueue, if_neg (by decide)]
  show (accrue s).pwr.queue ++ _ = _
  rw [show (accrue s).pwr.queue = [] from hqueue]
  rfl

end

/-! ### The pin HKSTART (R335, R431) -/

/-- An edge of `HKSTART` as TIM_CAPTURE shows it. -/
def hkEdgeCaptured (level : Bool) (s : State) : State :=
  wr (wr (wr (bump s Obj.TIM_CAPTURE.EDGES 1 1) Obj.TIM_CAPTURE.RC64 1 s.time.rc64) Obj.TIM_CAPTURE.TIME 1 (ts96Now s))
    Obj.TIM_CAPTURE.LEVEL 1 (b2n level)

theorem exec_hkstartEdge (level : Bool) (s : State) : exec (.hkstartEdge level) s =
    if lv s Obj.HK_CTRL.HKSTART_EN 0 = 1 ∧ level = decide (lv s Obj.HK_CTRL.HKSTART_EDGE 0 = 0) then
      .next (hkRequest (if s.time.off = true then s else hkEdgeCaptured level s) (rd s Obj.HK_CTRL.HKSTART_ENTRY))
    else .next (if s.time.off = true then s else hkEdgeCaptured level s) := rfl

theorem hkstartEdge_captured (level : Bool) {s : State} (hclock : s.time.off = false) :
    ∃ t, exec (.hkstartEdge level) s = .next t ∧ rd t Obj.TIM_CAPTURE.LEVEL 1 = b2n level
      ∧ rd t Obj.TIM_CAPTURE.RC64 1 = s.time.rc64 % 2 ^ 64 := by
  have hlevel : rd (hkEdgeCaptured level s) Obj.TIM_CAPTURE.LEVEL 1 = b2n level := by
    rw [hkEdgeCaptured, rd_wr_same]
    exact b2n_mod_two level
  have htick : rd (hkEdgeCaptured level s) Obj.TIM_CAPTURE.RC64 1 = s.time.rc64 % 2 ^ 64 := by
    rw [hkEdgeCaptured, rd_wr_apart _ _ _ _ (by decide), rd_wr_apart _ _ _ _ (by decide), rd_wr_same]
    rfl
  simp only [exec_hkstartEdge, hclock, Bool.false_eq_true, if_false]
  split
  · have hrd : ∀ f, outside [0x0A04, 0x1011, 0x1204] f = true →
        rd (hkRequest (hkEdgeCaptured level s) (rd s Obj.HK_CTRL.HKSTART_ENTRY)) f 1 = rd (hkEdgeCaptured level s) f
            1 :=
      fun f hf => (touches_hkRequest (.refl [.hk, .live, .pwr, .obj 0x0A04, .obj 0x1011, .obj 0x1204] _) _
        (by decide)).rd_outside hf rfl
    exact ⟨_, rfl, (hrd _ (by decide)).trans hlevel, (hrd _ (by decide)).trans htick⟩
  · exact ⟨_, rfl, hlevel, htick⟩

theorem hkstartEdge_starts {level : Bool} {s : State} (hidle : s.hk.run = none)
    (hen : lv s Obj.HK_CTRL.HKSTART_EN 0 = 1)
    (hedge : level = decide (lv s Obj.HK_CTRL.HKSTART_EDGE 0 = 0)) :
    ∃ t, exec (.hkstartEdge level) s = .next t ∧ rd t Obj.HK_STATUS.RUNNING = 1
      ∧ rd t Obj.HK_STATUS.RUNS = (rd s Obj.HK_STATUS.RUNS + 1) % 2 ^ Obj.HK_STATUS.RUNS.width := by
  have hcaptured : ∀ u, (if s.time.off then s else hkEdgeCaptured level s) = u →
      u.hk.run = none ∧ rd u Obj.HK_STATUS.RUNS = rd s Obj.HK_STATUS.RUNS := by
    rintro u rfl
    split
    · exact ⟨hidle, rfl⟩
    · rw [hkEdgeCaptured, wr_hk, wr_hk, wr_hk, bump, wr_hk]
      exact ⟨hidle, by simp +decide only [rd_wr_apart]⟩
  obtain ⟨hnone, hruns⟩ := hcaptured _ rfl
  obtain ⟨hrunning, hcount⟩ := hkRequest_idle hnone (rd s Obj.HK_CTRL.HKSTART_ENTRY)
  exact ⟨_, (exec_hkstartEdge level s).trans (if_pos ⟨hen, hedge⟩), hrunning, by rw [hcount, hruns]⟩

/-! ### The buffer, STAT -/

theorem ringRecord_buffer (s : State) (b : Bytes) : (ringRecord s b).hk.buffer = s.hk.buffer := by
  have hlossy : ∀ (u : State) (q n cap wm : Nat), (lossyShow u q n cap wm).hk = u.hk := fun u q n cap wm =>
    (touches_lossyShow (.refl [.notes, .obj 0x0C06] u) q n cap wm (by decide)).hk_eq
  have hlost : ∀ (u : State) (k : Nat), (hkLost u k).hk = u.hk := fun u k =>
    (touches_hkLost (.refl [.flt, .notes, .obj 0x0C06] u) k (by decide)).hk_eq
  rw [ringRecord, hlost, hlossy]
  rfl

theorem hkBufferCopy_empties {s : State} (hon : hkBankOn s = true) :
    ∃ t, exec .hkBufferCopy s = .next t ∧ t.hk.buffer = [] :=
  ⟨_, if_pos hon, foldl_same ringRecord (fun u : State => u.hk.buffer) s.hk.buffer _ fun u b _ => ringRecord_buffer u b⟩

theorem statPeriod_drives {s : State} (hlive : s.aon.inReset = false)
    (hbeats : (s.hk.statHalted && s.ctl.heartbeat == s.hk.statBeat && ronecServes s) = false) :
    ∃ t, exec .statPeriod s = .next t ∧ t.out = .drive 6 (statHz s) (statWidth s) :: s.out :=
  ⟨_, if_neg (by simp only [hlive, hbeats]; decide), rfl⟩

theorem heartbeatStall_halts {s : State} (hserves : ronecServes s = true) :
    ∃ t, exec .heartbeatStall s = .next t ∧ t.hk.statHalted = true ∧ t.out = .pin 34 false :: s.out :=
  ⟨_, if_pos hserves, rfl, rfl⟩

/-- Settles O55: the sequence in each of its states, the pin, the buffer, STAT. -/
theorem housekeepingComplete : Obligations.HousekeepingComplete :=
  ⟨fun _ hidle => ⟨_, rfl, hkRequest_idle hidle _⟩,
    fun _ _ hrun => ⟨hkStart_held hrun, hkStart_restarts hrun, hkStop_held hrun, hkStop_ends hrun,
      hkConversionDone_ends hrun, hkDelayExpired_moves hrun, hkWakeTimer_wakes hrun⟩,
    fun level _ => hkstartEdge_captured level, fun _ _ => hkstartEdge_starts, fun _ => hkBufferCopy_empties,
    fun _ => statPeriod_drives, fun _ => heartbeatStall_halts⟩

end Sys2Proof
end

section
/-! PROOF. The injector strings (spec 19): plans, slots, judgements, pulses, overcurrent. -/

namespace Sys2Proof

-- one proof at a time, which bounds the memory of the compile
set_option Elab.async false

open Sys2Proof.Machine

/-! ### The strings of the injectors (R435 to R444) -/

theorem stringOf_setString {s : State} {n : Nat} (f : CalString → CalString) (h : n < s.cal.strings.length) :
    stringOf (setString s n f) n = f (stringOf s n) := nth_upd_same _ _ _ _ h

theorem stringOf_setString_ne (s : State) {n k : Nat} (f : CalString → CalString) (h : k ≠ n) :
    stringOf (setString s n f) k = stringOf s k := nth_upd_ne _ _ _ h

theorem stringOf_wr (s : State) (f : Field) (i v n : Nat) : stringOf (wr s f i v) n = stringOf s n := by
  rw [stringOf, wr_cal]
  rfl

theorem stringOf_congr {s t : State} (h : t.cal.strings = s.cal.strings) (n : Nat) : stringOf t n = stringOf s n := by
  rw [stringOf, h]
  rfl

theorem length_of_phase {s : State} {n : Nat} (h : (stringOf s n).phase ≠ .idle) : n < s.cal.strings.length :=
  lt_length_of_nth_ne (d := ⟨.idle, false, false, 0, 0, 0⟩) fun e => h (by rw [stringOf, e])

theorem stringStop_strings (s : State) (n : Nat) :
    (stringStop s n).cal.strings = upd s.cal.strings n (fun x => { x with phase := .idle }) := by
  have hdown : ∀ u : State, (demandDown u (374 + n)).cal = u.cal := fun u =>
    (touches_demandDown (.refl [.pwr, .obj 0x0A04] u) _ (by decide)).cal_eq
  show (demandDown _ _).cal.strings = _
  rw [hdown, emit_cal]
  show upd (wr s Obj.CAL_STATUS.ON_NOW n 0).cal.strings n _ = _
  rw [wr_cal]

theorem stringStart_strings (s : State) (n : Nat) :
    (stringStart s n).cal.strings = upd s.cal.strings n (fun x => { x with phase := .check }) := by
  have hup : ∀ u : State, (domUp u 3 (374 + n)).cal = u.cal := fun u =>
    (touches_domUp (.refl [.pwr, .obj 0x0A04, .obj 0x1011] u) _ _ (by decide)).cal_eq
  show (domUp _ _ _).cal.strings = _
  rw [hup, emit_cal, wr_cal]
  rfl

theorem stringStart_rd (s : State) (n k : Nat) :
    rd (stringStart s n) Obj.CAL_STATUS.STATE k = rd (wr s Obj.CAL_STATUS.STATE n 1) Obj.CAL_STATUS.STATE k := by
  have hup : ∀ u : State, rd (domUp u 3 (374 + n)) Obj.CAL_STATUS.STATE k = rd u Obj.CAL_STATUS.STATE k := fun u =>
    (touches_domUp (.refl [.pwr, .obj 0x0A04, .obj 0x1011] u) _ _ (by decide)).rd_outside (os := [0x0A04, 0x1011])
      (by decide) rfl
  rw [stringStart, rd_setCal, hup, rd_emit]
  rfl

/-- A string that a plan has started. -/
def StringChecked (n : Nat) (s : State) : Prop :=
  s.cal.strings.length = 16 ∧ rd s Obj.CAL_STATUS.STATE n = 1 ∧ (stringOf s n).phase = .check

theorem stringStart_length (s : State) (k : Nat) : (stringStart s k).cal.strings.length = s.cal.strings.length := by
  rw [stringStart_strings, upd_length]

theorem stringStart_checks {s : State} {n : Nat} (hn : n < 16) (hlen : s.cal.strings.length = 16) :
    StringChecked n (stringStart s n) := by
  refine ⟨(stringStart_length s n).trans hlen, ?_, ?_⟩
  · rw [stringStart_rd, rd_wr_same]
    rfl
  · rw [stringOf, stringStart_strings, nth_upd_same _ _ _ _ (by omega)]

theorem stringStart_keeps {s : State} {n k : Nat} (hn : n < 16) (hk : k < 16) (h : StringChecked n s) :
    StringChecked n (stringStart s k) := by
  by_cases e : n = k
  · subst e
    exact stringStart_checks hn h.1
  · obtain ⟨hlen, hstate, hphase⟩ := h
    refine ⟨(stringStart_length s k).trans hlen, ?_, ?_⟩
    · rw [stringStart_rd, rd_wr_copy _ _ (by omega) (by decide) (by decide), hstate]
    · rw [stringOf, stringStart_strings, nth_upd_ne _ _ _ e]
      exact hphase

theorem startAll_checks {n : Nat} (hn : n < 16) {l : List Nat} (hl : ∀ k ∈ l, k < 16) {s : State}
    (hlen : s.cal.strings.length = 16) (h : StringChecked n s ∨ n ∈ l) : StringChecked n (l.foldl stringStart s) := by
  induction l generalizing s with
  | nil => exact h.resolve_right List.not_mem_nil
  | cons k l ih =>
    refine ih (fun j hj => hl j (List.mem_cons_of_mem _ hj)) ((stringStart_length s k).trans hlen) ?_
    rcases h with h | h
    · exact .inl (stringStart_keeps hn (hl k List.mem_cons_self) h)
    · rcases List.mem_cons.1 h with rfl | h
      · exact .inl (stringStart_checks hn hlen)
      · exact .inr h

theorem calPlanStart_checks (p : Fin 8) (n : Fin 16) {s : State} (hlen : s.cal.strings.length = 16)
    (hon : calOn s = true)
    (hn : n.val ∈ startable s (rd s Obj.CAL_PLAN.STRINGS p)) :
    ∃ t, exec (.calPlanStart p) s = .next t ∧ rd t Obj.CAL_STATUS.STATE n = 1 ∧ (stringOf t n).phase = .check := by
  obtain ⟨-, hstate, hphase⟩ := startAll_checks n.isLt
    (fun k hk => List.mem_range.1 (List.mem_filter.1 hk).1) hlen (.inr hn)
  exact ⟨_, rfl, by rw [planStart, if_pos hon]; exact ⟨hstate, hphase⟩⟩

theorem stringOf_stringStop_ne (s : State) {n k : Nat} (h : k ≠ n) : stringOf (stringStop s n) k = stringOf s k := by
  rw [stringOf, stringStop_strings, nth_upd_ne _ _ _ h]
  rfl

theorem stringEnds_other (s : State) {n k : Nat} (h : k ≠ n) : stringOf (stringEnds s n) k = stringOf s k := by
  unfold stringEnds
  split
  · exact stringOf_setString_ne _ _ h
  · rw [stringOf_wr, stringOf_stringStop_ne s h]
  · rw [stringOf_wr, stringOf_stringStop_ne s h]
  · rfl

theorem stringEnds_running {s : State} {n : Nat} (h : (stringOf s n).phase = .running) :
    (stringOf (stringEnds s n) n).phase = .stopping := by
  rw [stringEnds, h]
  dsimp only
  rw [stringOf_setString _ (length_of_phase (by rw [h]; decide))]

/-- A fold over a range passes once the element that alone changes a value, and finds the value there as it was. -/
theorem foldl_range_through {β γ : Type} (g : β → Nat → β) (val : β → γ) {i n : Nat} {b : β} (hi : i < n)
    (hother : ∀ c j, j < n → j ≠ i → val (g c j) = val c) :
    ∃ c, val c = val b ∧ val ((List.range n).foldl g b) = val (g c i) := by
  induction n with
  | zero => exact absurd hi (Nat.not_lt_zero i)
  | succ n ih =>
    rw [List.range_succ, List.foldl_append, List.foldl_cons, List.foldl_nil]
    by_cases hn : i = n
    · subst hn
      exact ⟨_, foldl_same g val _ b fun c j hj =>
        hother c j (Nat.lt_succ_of_lt (List.mem_range.1 hj)) (Nat.ne_of_lt (List.mem_range.1 hj)), rfl⟩
    · obtain ⟨c, hc, hfold⟩ := ih (by omega) fun c j hj => hother c j (Nat.lt_succ_of_lt hj)
      exact ⟨c, hc, (hother _ _ (Nat.lt_succ_self n) (Ne.symm hn)).trans hfold⟩

theorem calPlanStop_stops (p : Fin 8) (n : Fin 16) {s : State} (hbit : bit (rd s Obj.CAL_PLAN.STRINGS p) n = true)
    (hrun : (stringOf s n).phase = .running) :
    ∃ t, exec (.calPlanStop p) s = .next t ∧ (stringOf t n).phase = .stopping := by
  obtain ⟨c, hc, hfold⟩ := foldl_range_through
    (fun t k => if bit (rd s Obj.CAL_PLAN.STRINGS p) k then stringEnds t k else t) (fun t => stringOf t n) (b := s)
        n.isLt
    fun t k _ hne => by
      split
      · exact stringEnds_other t hne.symm
      · rfl
  refine ⟨_, rfl, (congrArg CalString.phase hfold).trans ?_⟩
  rw [if_pos hbit]
  exact stringEnds_running (by rw [hc, hrun])

theorem stringOf_setString_default (s : State) (n : Nat) (f : CalString → CalString) :
    stringOf (setString s n f) n = f (stringOf s n)
      ∨ s.cal.strings.length ≤ n ∧ (stringOf (setString s n f) n).phase = .idle := by
  by_cases h : n < s.cal.strings.length
  · exact .inl (stringOf_setString f h)
  · refine .inr ⟨by omega, ?_⟩
    rw [stringOf, nth_of_le (by rw [setString, setCal_cal]; exact (upd_length _ _ _).trans_le (by omega))]

theorem calStringDisable_stops (n : Fin 16) (s : State) :
    ∃ t, exec (.calStringDisable n) s = .next t ∧ rd t Obj.CAL_STRING.ENABLE n = 0
      ∧ lv t Obj.CAL_STRING.ENABLE n = 0 ∧ (stringOf t n).phase = .idle := by
  let s1 := setLive (wr s Obj.CAL_STRING.ENABLE n 0) Obj.CAL_STRING.ENABLE n 0
  let s2 := if (stringOf s n).phase = .idle then s1 else stringStop s1 n
  have htouch : Touches [.cal, .out, .pwr, .obj 0x0A04, .obj 0x1304] s1 s2 := by
    unfold s2
    split
    · exact .refl _ _
    · exact touches_stringStop (.refl _ _) _ (by decide)
  have hidle : (stringOf s2 n).phase = .idle := by
    have h1 : stringOf s1 n = stringOf s n := by
      rw [stringOf, setLive_cal, wr_cal]
      rfl
    unfold s2
    split
    · next h => rw [h1, h]
    · next h => rw [stringOf, stringStop_strings, nth_upd_same _ _ _ _ (length_of_phase (by rw [h1]; exact h))]
  refine ⟨stringDisable s n, rfl, ?_, ?_, ?_⟩
  · show rd (setString (wr s2 _ _ _) _ _) _ _ = _
    rw [setString, rd_setCal, rd_wr_apart _ _ _ _ (by decide), htouch.rd_outside (os := [0x0A04, 0x1304]) (by decide)
        rfl]
    exact rd_wr_same _ _ _ _
  · show lv (setString (wr s2 _ _ _) _ _) _ _ = _
    rw [setString, lv_setCal, lv_wr, htouch.lv _ _ rfl, lv_setLive_same]
    rfl
  · show (stringOf (setString (wr s2 _ _ _) _ _) _).phase = _
    rcases stringOf_setString_default (wr s2 Obj.CAL_STATUS.STATE n (if (stringOf s n).stuck then
      rd s Obj.CAL_STATUS.STATE n else 0)) n (fun x => { x with cleared := x.stuck }) with h | h
    · rw [h, stringOf_wr]
      exact hidle
    · exact h.2

theorem calSlotBoundary_steers (n : Fin 16) {s : State} (hrun : stringRuns s n = true) (hblock : s.time.rc64 % 2048 = 0)
    (hslot : frameNow s % 2 ^ lv s Obj.CAL_STRING.SLOT_LOG n = 0) :
    ∃ t, exec (.calSlotBoundary n) s = .next t ∧ rd t Obj.CAL_STATUS.ON_NOW n = b2n (steersOn s n (frameNow s)) :=
  ⟨_, if_pos ⟨hrun, hblock, hslot⟩, (rd_wr_same _ _ _ _).trans (b2n_mod_two _)⟩

/-! ### Judgements -/

theorem endFaults_keep (s : State) (n : Nat) (cs : List Nat) :
    (cs.foldl (fun t c => endFault t c n) s).cal = s.cal ∧ ∀ f j, rd (cs.foldl (fun t c => endFault t c n) s) f j = rd
        s f j := by
  refine foldl_keeps (P := fun t : State => t.cal = s.cal ∧ ∀ f j, rd t f j = rd s f j) _ _ ⟨rfl, fun _ _ => rfl⟩
    fun t c h => ?_
  have he := touches_endFault (.refl [.flt] t) c n (by decide)
  exact ⟨he.cal_eq.trans h.1, h.2⟩

theorem phase_of_judged {s : State} {n : Nat} (h : stringRuns s n = true ∨ (stringOf s n).phase = .check) :
    (stringOf s n).phase ≠ .idle := by
  rcases h with h | h
  · intro e
    rw [stringRuns, e] at h
    exact absurd h (by decide)
  · rw [h]
    decide

section
variable (n : Fin 16) {avg below : Nat} {s : State}
  (hjudged : stringRuns s n = true ∨ (stringOf s n).phase = .check)
include hjudged

theorem exec_calRunJudged (above : Nat) : exec (.calRunJudged n avg below above) s = .next (
    if n.val ≠ 0 && shorted s (n.val - 1) below (commanded s n) then
      stringFault (stringFault s n 0x1302 3 below) (n.val - 1) 0x1302 3 below
    else if shorted s (n.val + 1) above (commanded s n) then
      stringFault (stringFault s n 0x1302 3 above) (n.val + 1) 0x1302 3 above
    else if 9 * commanded s n ≤ 10 * avg ∧ 10 * avg ≤ 11 * commanded s n then judgedGood s n avg
    else judgedBad s n avg (commanded s n)) := by
  have hgo : (!stringRuns s n && (stringOf s n).phase != .check) = false := by
    rcases hjudged with h | h <;> simp [h]
  show execCalRunJudged n avg below above s = _
  rw [execCalRunJudged, hgo, if_neg Bool.false_ne_true]
  dsimp only
  split
  · rfl
  · split
    · rfl
    · split <;> rfl

theorem exec_calRunJudged_alone : exec (.calRunJudged n avg 0 0) s = .next (
    if 9 * commanded s n ≤ 10 * avg ∧ 10 * avg ≤ 11 * commanded s n then judgedGood s n avg
    else judgedBad s n avg (commanded s n)) := by
  have hshort : ∀ k, shorted s k 0 (commanded s n) = false := fun k => by simp [shorted]
  rw [exec_calRunJudged n hjudged, hshort, hshort, Bool.and_false, if_neg Bool.false_ne_true, if_neg Bool.false_ne_true]

theorem calRunJudged_good (hlow : 9 * commanded s n ≤ 10 * avg) (hhigh : 10 * avg ≤ 11 * commanded s n) :
    ∃ t, exec (.calRunJudged n avg 0 0) s = .next t
      ∧ rd t Obj.CAL_STATUS.SENSED n = avg % 2 ^ Obj.CAL_STATUS.SENSED.width
      ∧ (stringOf t n).failRun = 0 ∧ (stringOf t n).lastJudged = judgedAt s n := by
  refine ⟨judgedGood s n avg, ?_, ?_⟩
  · rw [exec_calRunJudged_alone n hjudged, if_pos ⟨hlow, hhigh⟩]
  · have hlen : n.val < (wr (wr s Obj.CAL_STATUS.SENSED n avg) Obj.CAL_STATUS.LAST_GOOD n
      (ts96Now s)).cal.strings.length := by
      rw [wr_cal, wr_cal]
      exact length_of_phase (phase_of_judged hjudged)
    unfold judgedGood
    dsimp only
    obtain ⟨hcal, hrd⟩ := endFaults_keep (setString (wr (wr s Obj.CAL_STATUS.SENSED n avg) Obj.CAL_STATUS.LAST_GOOD n
      (ts96Now s)) n (fun x =>
        { x with failClass := 0, failRun := 0, lastJudged := judgedAt s n,
                 phase := if x.phase = .check then .ready else x.phase })) n [0x1301, 0x1302, 0x1303, 0x1304]
    rw [hrd, stringOf_congr (congrArg Injectors.strings hcal), stringOf_setString _ hlen]
    refine ⟨?_, rfl, rfl⟩
    rw [setString, rd_setCal, rd_wr_apart _ _ _ _ (by decide)]
    exact rd_wr_same _ _ _ _

end

theorem stringFault_strings (s : State) (n code state value : Nat) : (stringFault s n code state value).cal.strings
    = upd (upd s.cal.strings n (fun x => { x with phase := .idle })) n
        (fun x => { x with stuck := true, cleared := false }) := by
  rw [stringFault, (raiseDetail_touches _ _ _ _ _ _).cal_eq]
  show upd (wr _ _ _ _).cal.strings n _ = _
  rw [wr_cal, stringStop_strings]

theorem stringFault_string {s : State} {n : Nat} (code state value : Nat) (h : n < s.cal.strings.length) :
    stringOf (stringFault s n code state value) n
      = { stringOf s n with phase := .idle, stuck := true, cleared := false } := by
  rw [stringOf, stringFault_strings, nth_upd_same _ _ _ _ (by rw [upd_length]; exact h), nth_upd_same _ _ _ _ h]
  rfl

theorem stringFault_state (s : State) (n code state value : Nat) :
    rd (stringFault s n code state value) Obj.CAL_STATUS.STATE n = state % 2 ^ Obj.CAL_STATUS.STATE.width := by
  rw [stringFault, (raiseDetail_touches _ _ _ _ _ _).rd_outside (os := [0x0C06, 0x1011]) (by decide) rfl, setString,
      rd_setCal]
  exact rd_wr_same _ _ _ _

theorem stringStop_state (s : State) (n k : Nat) :
    rd (stringStop s n) Obj.CAL_STATUS.STATE k = rd s Obj.CAL_STATUS.STATE k := by
  have hdown : ∀ u : State, rd (demandDown u (374 + n)) Obj.CAL_STATUS.STATE k = rd u Obj.CAL_STATUS.STATE k := fun u =>
    (touches_demandDown (.refl [.pwr, .obj 0x0A04] u) _ (by decide)).rd_outside (os := [0x0A04]) (by decide) rfl
  rw [stringStop, rd_setCal, hdown, rd_emit, setString, rd_setCal, rd_wr_apart _ _ _ _ (by decide)]

theorem stringFault_state_ne (s : State) {n k : Nat} (code state value : Nat) (hn : n < 16) (hk : k < 16) (h : n ≠ k) :
    rd (stringFault s n code state value) Obj.CAL_STATUS.STATE k = rd s Obj.CAL_STATUS.STATE k := by
  rw [stringFault, (raiseDetail_touches _ _ _ _ _ _).rd_outside (os := [0x0C06, 0x1011]) (by decide) rfl, setString,
      rd_setCal,
    rd_wr_copy _ _ (by omega) (by decide) (by decide), stringStop_state]

section
variable (n : Fin 16) {avg below : Nat} {s : State}
  (hjudged : stringRuns s n = true ∨ (stringOf s n).phase = .check)
include hjudged

theorem calRunJudged_open (hopen : 20 * avg < commanded s n) (hclass : (stringOf s n).failClass = 1)
    (hruns : (stringOf s n).failRun = 2) :
    ∃ t, exec (.calRunJudged n avg 0 0) s = .next t ∧ rd t Obj.CAL_STATUS.STATE n = 2
        ∧ (stringOf t n).stuck = true := by
  refine ⟨judgedBad s n avg (commanded s n), ?_, ?_⟩
  · rw [exec_calRunJudged_alone n hjudged, if_neg (by omega)]
  · have hlen := length_of_phase (phase_of_judged hjudged)
    simp only [judgedBad, hopen, hclass, hruns, if_true, ne_eq, one_ne_zero, not_false_eq_true, and_self, Nat.reduceAdd,
      le_refl]
    refine ⟨(stringFault_state _ _ _ _ _).trans rfl, ?_⟩
    rw [stringFault_string _ _ _ ((upd_length _ _ _).symm ▸ by rw [wr_cal]; exact hlen)]

theorem calRunJudged_short (hfirst : n.val ≠ 0) (hoff : flag s Obj.CAL_STATUS.ON_NOW (n.val - 1) = false)
    (hshort : commanded s n < 20 * below) :
    ∃ t, exec (.calRunJudged n avg below 0) s = .next t ∧ rd t Obj.CAL_STATUS.STATE n = 3
      ∧ rd t Obj.CAL_STATUS.STATE (n.val - 1) = 3 := by
  refine ⟨stringFault (stringFault s n 0x1302 3 below) (n.val - 1) 0x1302 3 below, ?_, ?_, ?_⟩
  · rw [exec_calRunJudged n hjudged, if_pos]
    have : n.val - 1 < 16 := by omega
    simp [hfirst, shorted, hoff, hshort, this]
  · rw [stringFault_state_ne _ _ _ _ (by omega) n.isLt (by omega), stringFault_state]
    rfl
  · rw [stringFault_state]
    rfl

end

theorem calDiagnosticPulse_counts (n : Fin 16) {s : State} (hrun : stringRuns s n = true)
    (hblock : s.time.rc64 % 2048 = 0) (hframe : frameNow s % 2 ^ 32 % 781250 = 0)
    (hlate : (stringOf s n).lastJudged + 1600000000 ≤ s.time.rc64) :
    ∃ t, exec (.calDiagnosticPulse n) s = .next t ∧ rd t Obj.CAL_STATUS.DIAG_PULSES n
      = (rd s Obj.CAL_STATUS.DIAG_PULSES n + 1) % 2 ^ Obj.CAL_STATUS.DIAG_PULSES.width :=
  ⟨_, if_pos ⟨hrun, hblock, hframe, hlate⟩, rd_wr_same _ _ _ _⟩

theorem calOvercurrent_cuts (n : Fin 16) (current : Nat) {s : State} (hlive : (stringOf s n).phase ≠ .idle)
    (hover : 3 * commanded s n < 2 * current ∨ 6000 < current) :
    ∃ t, exec (.calOvercurrent n current) s = .next t ∧ rd t Obj.CAL_STATUS.STATE n = 4 ∧ (stringOf t n).stuck = true
      ∧ (stringOf t n).phase = .idle := by
  refine ⟨stringFault s n 0x1303 4 current, if_pos ⟨hlive, hover⟩, (stringFault_state _ _ _ _ _).trans rfl, ?_⟩
  rw [stringFault_string _ _ _ (length_of_phase hlive)]
  exact ⟨rfl, rfl⟩

/-- Settles O56: a plan's start and stop, a string that is disabled, slots, judgements, pulses, overcurrent. -/
theorem injectorsComplete : Obligations.InjectorsComplete :=
  ⟨fun p n _ => calPlanStart_checks p n, fun p n _ => calPlanStop_stops p n, calStringDisable_stops,
    fun n _ => calSlotBoundary_steers n,
    fun n _ _ _ hjudged => ⟨calRunJudged_good n hjudged, calRunJudged_open n hjudged, calRunJudged_short n hjudged⟩,
    fun n _ => calDiagnosticPulse_counts n, fun n current _ => calOvercurrent_cuts n current⟩

end Sys2Proof
end

section
/-! PROOF. Writes of MODE_PLAN (spec 02): a request that enters CHECK, one that waits, one that is refused. -/

namespace Sys2Proof

-- one proof at a time, which bounds the memory of the compile
set_option Elab.async false

open Sys2Proof.Machine

/-! ### Writes of MODE_PLAN (R28, R30, R31, R42) -/

/-- `MODE_PLAN` as a write leaves it. -/
def planWritten (s : State) (plan : Nat) : State :=
  Obj.MODE_PLAN.fields.foldl (fun u f => wr u f 0 (bits plan f.lo f.width)) s

theorem planWritten_touches (s : State) (plan : Nat) : Touches [.obj 0x1010] s (planWritten s plan) := by
  unfold planWritten Obj.MODE_PLAN.fields
  simp only [List.foldl_cons, List.foldl_nil]
  exact touches_wr (touches_wr (touches_wr (touches_wr (touches_wr (touches_wr (.refl _ _) _ _ _ (by decide)) _ _ _
    (by decide)) _ _ _ (by decide)) _ _ _ (by decide)) _ _ _ (by decide)) _ _ _ (by decide)

theorem bits_mod (n lo w : Nat) : bits n lo w % 2 ^ w = bits n lo w := by
  unfold bits
  exact Nat.mod_mod _ _

theorem rd_planWritten (s : State) (plan : Nat) {f : Field} (hf : f ∈ Obj.MODE_PLAN.fields) :
    rd (planWritten s plan) f = bits plan f.lo f.width := by
  rw [← bits_mod]
  simp only [Obj.MODE_PLAN.fields, List.mem_cons, List.not_mem_nil, or_false] at hf
  unfold planWritten Obj.MODE_PLAN.fields
  simp only [List.foldl_cons, List.foldl_nil]
  rcases hf with rfl | rfl | rfl | rfl | rfl | rfl <;> simp +decide only [rd_wr_apart, rd_wr_same]

theorem transitionListed_self (m : Mode) : transitionListed m m = false := by
  cases m <;> rfl

/-- The request that a write of `MODE_PLAN` makes. -/
def planRequest (plan : Nat) (mailbox : Fin 8) (seq : Nat) : ModeReq :=
  ⟨Mode.ofCode (bits plan 0 4), bit plan 4, bit plan 5, true, 0, mailbox, seq % 2 ^ 32⟩

/-- The values that a write of `MODE_PLAN` may have. -/
def planLegal (plan : Nat) : Prop := bits plan 0 4 ≤ 11 ∧ 1 ≤ bits plan 8 4 ∧ bits plan 8 4 ≤ 9 ∧ bits plan 6 2 = 0
  ∧ bits plan 12 4 = 0 ∧ bits plan 25 7 = 0

section
variable {plan : Nat} (mailbox : Fin 8) (seq : Nat) {s : State} (hplan : plan < 2 ^ 32)
include hplan

theorem exec_modePlanWrite : exec (.modePlanWrite plan mailbox seq) s = .next
    (modePlanWrite s plan mailbox (seq % 2 ^ 32)).2 := by
  show Host.Outcome.next (modePlanWrite s (plan % 2 ^ 32) mailbox (seq % 2 ^ 32)).2 = _
  rw [Nat.mod_eq_of_lt hplan]

theorem modePlanWrite_unlisted (htarget : bits plan 0 4 ≤ 11) (hsteady : phaseOf s = .steady)
    (hother : Mode.ofCode (bits plan 0 4) ≠ modeOf s)
        (hlist : transitionListed (modeOf s) (Mode.ofCode (bits plan 0 4)) = false) :
    exec (.modePlanWrite plan mailbox seq) s = .next s := by
  have hun : requestUnlisted s (planRequest plan mailbox seq) = true := by
    refine (if_neg hother).trans ?_
    exact congrArg (!·) hlist
  rw [exec_modePlanWrite mailbox seq hplan]
  exact congrArg (fun x : Nat × State => Host.Outcome.next x.2) (if_pos ⟨htarget, hsteady, hun⟩)

theorem modePlanWrite_refused (h : ¬ planLegal plan ∨ ¬ (bits plan 0 4 = 1 ∨ runsOp s [0x50, 0x51, 0x53] = false)) :
    exec (.modePlanWrite plan mailbox seq) s = .next s := by
  rw [exec_modePlanWrite mailbox seq hplan, modePlanWrite]
  dsimp only
  split
  · rfl
  · split
    · rfl
    · next hlegal =>
      have hbusy : bits plan 0 4 ≠ 1 ∧ runsOp s [0x50, 0x51, 0x53] = true := by
        rcases h with h | h
        · exact absurd (by unfold planLegal; omega) h
        · simpa using h
      rw [if_pos hbusy]

theorem modePlanWrite_accepts (hlegal : planLegal plan)
    (hfree : bits plan 0 4 = 1 ∨ runsOp s [0x50, 0x51, 0x53] = false)
    (hlisted : phaseOf s = .steady → transitionListed (modeOf s) (Mode.ofCode (bits plan 0 4)) = true) :
    exec (.modePlanWrite plan mailbox seq) s = .next
        (requestMode (planWritten s plan) (planRequest plan mailbox seq)) := by
  obtain ⟨htarget, hlow, hhigh, hfour, htwelve, hlast⟩ := hlegal
  have hother : phaseOf s = .steady → modeOf s ≠ Mode.ofCode (bits plan 0 4) := fun hs e => by
    have := hlisted hs
    rw [← e, transitionListed_self] at this
    exact absurd this (by decide)
  rw [exec_modePlanWrite mailbox seq hplan, modePlanWrite]
  dsimp only
  rw [if_neg, if_neg (by omega), if_neg, if_neg]
  · rfl
  · rintro ⟨hs, hsame⟩
    have hmode : modeOf s = Mode.ofCode (bits plan 0 4) := by
      simp only [sameMode, Bool.and_eq_true, decide_eq_true_eq] at hsame
      exact hsame.1
    exact hother hs hmode
  · rintro ⟨hne, hrun⟩
    rcases hfree with h | h
    · exact hne h
    · rw [h] at hrun
      exact absurd hrun (by decide)
  · rintro ⟨-, hs, hun⟩
    rw [requestUnlisted, if_neg (hother hs).symm, hlisted hs] at hun
    exact absurd hun (by decide)

end

theorem rd_planWritten_state (s : State) (plan : Nat) {f : Field} (hf : outside [0x1010] f = true) :
    rd (planWritten s plan) f = rd s f := (planWritten_touches s plan).rd_outside hf rfl

theorem phaseOf_planWritten (s : State) (plan : Nat) : phaseOf (planWritten s plan) = phaseOf s :=
  phaseOf_congr (rd_planWritten_state s plan (by decide))

theorem beginCheck_fields (s : State) (r : ModeReq) {f : Field} (hp : apart Obj.MODE_STATE.PHASE f = true)
    (ht : apart Obj.MODE_STATE.TARGET f = true) : rd (beginCheck s r) f = rd s f := by
  rw [rd_beginCheck, rd_wr_apart _ _ _ _ ht, setPhase, rd_wr_apart _ _ _ _ hp]

theorem planFields_apart : ∀ f ∈ Obj.MODE_PLAN.fields, outside [0x1010] f = false ∧ ∀ g ∈ Obj.MODE_STATE.fields,
    apart g f = true := by decide

theorem modePlanWrite_checks {plan : Nat} (mailbox : Fin 8) (seq : Nat) {s : State} (hplan : plan < 2 ^ 32)
    (hlegal : planLegal plan) (hfree : bits plan 0 4 = 1 ∨ runsOp s [0x50, 0x51, 0x53] = false)
    (hsteady : phaseOf s = .steady) (hlisted : transitionListed (modeOf s) (Mode.ofCode (bits plan 0 4)) = true) :
    ∃ t, exec (.modePlanWrite plan mailbox seq) s = .next t ∧ phaseOf t = .check
      ∧ rd t Obj.MODE_STATE.TARGET = bits plan 0 4 ∧ modeOf t = modeOf s
      ∧ t.modes.running = some (planRequest plan mailbox seq) ∧ ∀ f ∈ Obj.MODE_PLAN.fields, rd t f = bits plan f.lo
          f.width := by
  have hreq : requestMode (planWritten s plan) (planRequest plan mailbox seq)
      = beginCheck (planWritten s plan) (planRequest plan mailbox seq) :=
    if_pos ((phaseOf_planWritten s plan).trans hsteady)
  refine ⟨_, modePlanWrite_accepts mailbox seq hplan hlegal hfree fun _ => hlisted, ?_⟩
  rw [hreq]
  refine ⟨beginCheck_phase _ _, ?_, ?_, by rw [beginCheck_modes], fun f hf => ?_⟩
  · rw [rd_beginCheck, rd_wr_same]
    exact (code_mod16 _).trans (code_ofCode _ hlegal.1)
  · exact modeOf_congr ((beginCheck_fields _ _ (by decide) (by decide)).trans (rd_planWritten_state s plan (by decide)))
  · have hapart := (planFields_apart f hf).2
    rw [beginCheck_fields _ _ (hapart _ (by decide)) (hapart _ (by decide)), rd_planWritten s plan hf]

theorem modePlanWrite_waits {plan : Nat} (mailbox : Fin 8) (seq : Nat) {s : State} (hplan : plan < 2 ^ 32)
    (hlegal : planLegal plan) (hfree : bits plan 0 4 = 1 ∨ runsOp s [0x50, 0x51, 0x53] = false)
    (hphase : phaseOf s ≠ .steady) :
    ∃ t, exec (.modePlanWrite plan mailbox seq) s = .next t ∧ t.modes.waiting = some (planRequest plan mailbox seq)
      ∧ rd t Obj.MODE_STATE.PENDING = (Mode.ofCode (bits plan 0 4)).code ∧ t.modes.running = s.modes.running
      ∧ phaseOf t = phaseOf s ∧ modeTarget t = modeTarget s
      ∧ ∀ f ∈ Obj.MODE_PLAN.fields, rd t f = bits plan f.lo f.width := by
  have hphase' : phaseOf (planWritten s plan) ≠ .steady := by rwa [phaseOf_planWritten]
  have hmodes := requestMode_modes_of_running (planRequest plan mailbox seq) hphase'
  rw [(planWritten_touches s plan).modes_eq] at hmodes
  refine ⟨_, modePlanWrite_accepts mailbox seq hplan hlegal hfree fun h => absurd h hphase, by rw [hmodes],
    requestMode_pending_of_running _ hphase', by rw [hmodes], ?_, ?_, fun f hf => ?_⟩
  · exact phaseOf_congr ((rd_requestMode_of_running _ hphase' (by decide) (by decide) (by decide)).trans
      (rd_planWritten_state s plan (by decide)))
  · exact modeTarget_congr ((rd_requestMode_of_running _ hphase' (by decide) (by decide) (by decide)).trans
      (rd_planWritten_state s plan (by decide)))
  · have hapart := (planFields_apart f hf).2
    have hbank : ∀ g ∈ Obj.MODE_PLAN.fields, apart Obj.FST_BANK.STATE g = true := by decide
    rw [rd_requestMode_of_running _ hphase' (hapart _ (by decide)) (hapart _ (by decide)) (hbank f hf), rd_planWritten
        s plan hf]

/-- Settles O10: a listed request in STEADY, an unlisted one, one during a transition, a write that is refused. -/
theorem modePlanWrites : Obligations.ModePlanWrites := fun _ mailbox seq _ hplan =>
  ⟨modePlanWrite_checks mailbox seq hplan, modePlanWrite_unlisted mailbox seq hplan,
    modePlanWrite_waits mailbox seq hplan, modePlanWrite_refused mailbox seq hplan⟩

end Sys2Proof
end

section
/-! PROOF. CHECK (spec 02): what the end of a transition shows, what the stops of an absent function leave, and the
outcomes of CHECK. -/

namespace Sys2Proof

-- one proof at a time, which bounds the memory of the compile
set_option Elab.async false

open Sys2Proof.Machine

/-! ### The end of a transition (R30, R31) -/

theorem nextRequest_rd (s : State) {f : Field} (hphase : apart Obj.MODE_STATE.PHASE f = true)
    (htarget : apart Obj.MODE_STATE.TARGET f = true) (hpending : apart Obj.MODE_STATE.PENDING f = true) :
    rd (nextRequest s) f = rd s f := by
  unfold nextRequest
  dsimp only
  split
  · rw [beginCheck_fields _ _ hphase htarget, rd_setModes, rd_wr_apart _ _ _ _ hpending, rd_wr_apart _ _ _ _ htarget,
      rd_setAon,
      rd_setModes]
    exact rd_wr_apart _ _ _ _ hphase
  · rw [rd_wr_apart _ _ _ _ htarget, rd_setAon, rd_setModes]
    exact rd_wr_apart _ _ _ _ hphase

theorem nextRequest_steady {s : State} (h : s.modes.waiting = none) : phaseOf (nextRequest s) = .steady := by
  rw [nextRequest, h]
  dsimp only
  refine (phaseOf_congr ?_).trans (phase_setPhase s .steady)
  rw [rd_wr_apart _ _ _ _ (by decide)]
  rfl

theorem modeNotice_touches (s : State) (r : ModeReq) (fromMode aim : Mode) (reason status duration : Nat) :
    Touches [.notes] s (modeNotice s r fromMode aim reason status duration) :=
  touches_modeNotice (.refl _ _) _ _ _ _ _ _ (by decide)

/-- What the end of a transition shows. -/
theorem finishTransition_shows (s : State) (aim : Mode) : modeOf (finishTransition s aim) = aim
    ∧ rd (finishTransition s aim) Obj.MODE_STATE.LAST_STATUS = s.modes.status % 2 ^ 16
    ∧ rd (finishTransition s aim) Obj.MODE_STATE.COUNT = (rd s Obj.MODE_STATE.COUNT + 1) % 2 ^ 16
    ∧ (s.modes.waiting = none → phaseOf (finishTransition s aim) = .steady) := by
  unfold finishTransition
  dsimp only
  generalize hu : modeNotice s _ _ _ _ _ _ = u
  have hn : Touches [.notes] s u := hu ▸ modeNotice_touches _ _ _ _ _ _ _
  have hw : (wr (bump (wr (wr u Obj.MODE_STATE.CURRENT 0 aim.code) Obj.MODE_STATE.LAST_STATUS 0 s.modes.status)
      Obj.MODE_STATE.COUNT 0 1) Obj.MODE_STATE.LAST_TIME 0
          (min 65535 ((s.time.rc64 - s.modes.startedAt) / 16000))).modes
      = s.modes := by rw [wr_modes, bump, wr_modes, wr_modes, wr_modes, hn.modes_eq]
  refine ⟨?_, ?_, ?_, fun hnone => nextRequest_steady (by rw [hw]; exact hnone)⟩
  · rw [modeOf, nextRequest_rd _ (by decide) (by decide) (by decide), bump]
    simp +decide only [rd_wr_apart, rd_wr_same]
    exact (congrArg Mode.ofCode (code_mod16 aim)).trans (ofCode_code aim)
  · rw [nextRequest_rd _ (by decide) (by decide) (by decide), bump]
    simp +decide only [rd_wr_apart, rd_wr_same]
    rfl
  · rw [nextRequest_rd _ (by decide) (by decide) (by decide), bump]
    simp +decide only [rd_wr_apart, rd_wr_same]
    rw [hn.rd_outside (os := []) (by decide) rfl]
    rfl

theorem finishTransition_rd (s : State) (aim : Mode) {f : Field} (hf : outside [0x1011] f = true) :
    rd (finishTransition s aim) f = rd s f :=
  (touches_finishTransition (.refl [.aon, .modes, .notes, .obj 0x1011] s) aim (by decide)).rd_outside hf rfl

/-! ### Stops (R36) -/

/-- What a target lacks is set to stop; of the mode machine only the spectrum of the stop changes. -/
theorem beginStops_modes (s : State) (m : Mode) (watch : Bool) (n : Nat) :
    ∃ k, (beginStops s m watch n).modes = { s.modes with stopSpectrum := k } := by
  unfold beginStops
  extract_lets s1 s2 s3 s4 n4 s5
  have h1 : s1.modes = s.modes := by
    unfold s1
    split
    · exact (touches_triggerStop (.refl [.trg] s) (by decide)).modes_eq
    · rfl
  have h2 : s2.modes = s1.modes := by
    unfold s2
    split
    · exact (touches_concCloseAll (.refl [.axl, .conc, .flt, .mov, .notes, .out, .peer, .pwr, .obj 0x0808, .obj 0x0C06,
        .obj 0x0D05, .obj 0x1106] s1) _ (by decide)).modes_eq
    · rfl
  have h3 : s3.modes = s2.modes := by
    unfold s3
    split
    · rfl
    · exact (touches_stringsEnd (.refl [.cal, .out, .pwr, .obj 0x0A04, .obj 0x1304] s2) _ (by decide)).modes_eq
  have h4 : s4.modes = s3.modes := by
    unfold s4
    split
    · exact (touches_peerRequestStop (.refl [.axl, .out, .peer, .obj 0x0802, .obj 0x0D05] s3) (by decide)).modes_eq
    · rfl
  have h5 : s5.modes = s4.modes := by
    unfold s5
    split
    · rfl
    · exact (touches_integrationEnds (.refl [.dah] s4) _ (by decide)).modes_eq
  exact ⟨n4, by rw [setModes_modes, h5, h4, h3, h2, h1]⟩

theorem beginStops_trigger (s : State) {m : Mode} {watch : Bool} (n : Nat) (h : modeWatches m watch = false) :
    (beginStops s m watch n).trg.running = false := by
  unfold beginStops
  extract_lets s1 s2 s3 s4 n4 s5
  have h1 : s1.trg.running = false := by
    unfold s1
    split
    · rfl
    · next hs =>
      rw [h] at hs
      simpa using hs
  have h2 : s2.trg = s1.trg := by
    unfold s2
    split
    · exact (touches_concCloseAll (.refl [.axl, .conc, .flt, .mov, .notes, .out, .peer, .pwr, .obj 0x0808, .obj 0x0C06,
        .obj 0x0D05, .obj 0x1106] s1) _ (by decide)).trg_eq
    · rfl
  have h3 : s3.trg = s2.trg := by
    unfold s3
    split
    · rfl
    · exact (touches_stringsEnd (.refl [.cal, .out, .pwr, .obj 0x0A04, .obj 0x1304] s2) _ (by decide)).trg_eq
  have h4 : s4.trg = s3.trg := by
    unfold s4
    split
    · exact (touches_peerRequestStop (.refl [.axl, .out, .peer, .obj 0x0802, .obj 0x0D05] s3) (by decide)).trg_eq
    · rfl
  have h5 : s5.trg = s4.trg := by
    unfold s5
    split
    · rfl
    · exact (touches_integrationEnds (.refl [.dah] s4) _ (by decide)).trg_eq
  rw [setModes_trg, h5, h4, h3, h2, h1]

theorem beginStops_rd (s : State) (m : Mode) (watch : Bool) (n : Nat) {f : Field} (hf : f.obj = 0x1011 ∧ f.lo < 4096) :
    rd (beginStops s m watch n) f = rd s f :=
  (touches_beginStops (.refl [.axl, .cal, .conc, .dah, .flt, .modes, .mov, .notes, .out, .peer, .pwr, .trg, .obj 0x0802,
    .obj 0x0808, .obj 0x0A04, .obj 0x0C06, .obj 0x0D05, .obj 0x1106, .obj 0x1304] s) m watch n (by decide)).rd_outside
    (os := [0x0802, 0x0808, 0x0A04, 0x0C06, 0x0D05, 0x1106, 0x1304]) (by simp [outside, hf]) rfl

/-! ### CHECK (R28, R30, R34, R36, R39, R40) -/

section
variable {s : State} {r : ModeReq} (hrun : s.modes.running = some r) (hcheck : phaseOf s = .check)
include hrun hcheck

theorem exec_transitionCheck : exec .transitionCheck s = .next (
    if entryWoken s then entryAborted s
    else if sameMode s r && !requestUnlisted s r then
      nextRequest (modeNotice s r (modeOf s) (modeOf s) s.modes.reason 0 0)
    else if checkStatus s r ≠ 0 then refuseTransition (testDrawn s r) (checkStatus s r)
    else beginDrain s r) := by
  show execTransitionCheck s = _
  rw [execTransitionCheck, if_neg (fun h => absurd (hcheck.symm.trans h.1) (by decide)), if_neg
      (by rw [hcheck]; decide), hrun]
  dsimp only
  split
  · rfl
  · split
    · rfl
    · split <;> rfl

theorem transitionCheck_same (hwake : entryWoken s = false) (hsame : sameMode s r = true)
    (hlisted : requestUnlisted s r = false) :
    ∃ t, exec .transitionCheck s = .next t ∧ modeOf t = modeOf s
      ∧ rd t Obj.MODE_STATE.COUNT = rd s Obj.MODE_STATE.COUNT ∧ (s.modes.waiting = none → phaseOf t = .steady) := by
  have hn := modeNotice_touches s r (modeOf s) (modeOf s) s.modes.reason 0 0
  have hrd : ∀ f, outside [] f = true → rd (modeNotice s r (modeOf s) (modeOf s) s.modes.reason 0 0) f = rd s f :=
    fun f hf => hn.rd_outside hf rfl
  refine ⟨nextRequest (modeNotice s r (modeOf s) (modeOf s) s.modes.reason 0 0), ?_, ?_, ?_, fun hnone =>
    nextRequest_steady (by rw [hn.modes_eq]; exact hnone)⟩
  · rw [exec_transitionCheck hrun hcheck, if_neg (by rw [hwake]; decide), if_pos (by simp [hsame, hlisted])]
  · exact modeOf_congr ((nextRequest_rd _ (by decide) (by decide) (by decide)).trans (hrd _ (by decide)))
  · rw [nextRequest_rd _ (by decide) (by decide) (by decide), hrd _ (by decide)]

theorem transitionCheck_woken (hwake : entryWoken s = true) :
    ∃ t, exec .transitionCheck s = .next t ∧ modeOf t = modeOf s ∧ rd t Obj.AON_LAST_WAKE.DURING_ENTRY = 1
      ∧ rd t Obj.MODE_STATE.LAST_STATUS = 0x0013 ∧ (s.modes.waiting = none → phaseOf t = .steady) := by
  refine ⟨entryAborted s, ?_, ?_⟩
  · rw [exec_transitionCheck hrun hcheck, if_pos hwake]
  · unfold entryAborted
    extract_lets s1 s2
    have h1 : Touches [.obj 0x1402, .obj 0x1403] s s1 := by
      unfold s1
      split
      · exact touches_wr (touches_wr (touches_wr (.refl _ _) _ _ _ (by decide)) _ _ _ (by decide)) _ _ _ (by decide)
      · exact .refl _ _
    obtain ⟨hmode, hstatus, -, hsteady⟩ := finishTransition_shows s2 (modeOf s)
    refine ⟨hmode, ?_, hstatus.trans rfl, fun hnone => hsteady ?_⟩
    · rw [finishTransition_rd _ _ (by decide), rd_setModes]
      exact rd_wr_same _ _ _ _
    · rw [setModes_modes, wr_modes, h1.modes_eq]
      exact hnone

section
variable (hwake : entryWoken s = false) (hother : modeOf s = r.target → requestUnlisted s r = true)
include hwake hother

theorem exec_transitionCheck_other : exec .transitionCheck s = .next (
    if checkStatus s r ≠ 0 then refuseTransition (testDrawn s r) (checkStatus s r) else beginDrain s r) := by
  have hsame : (sameMode s r && !requestUnlisted s r) = false := by
    by_cases h : modeOf s = r.target
    · rw [hother h]
      exact Bool.and_false _
    · simp [sameMode, h]
  rw [exec_transitionCheck hrun hcheck, if_neg (by rw [hwake]; decide), if_neg (by rw [hsame]; decide)]

theorem transitionCheck_refuses (hbad : checkStatus s r ≠ 0) :
    ∃ t, exec .transitionCheck s = .next t ∧ modeOf t = modeOf s
      ∧ rd t Obj.MODE_STATE.LAST_STATUS = checkStatus s r % 2 ^ 16
          ∧ (s.modes.waiting = none → phaseOf t = .steady) := by
  have hd := touches_testDrawn (.refl [.free] s) r (by decide)
  obtain ⟨hmode, hstatus, -, hsteady⟩ := finishTransition_shows
    (setModes (testDrawn s r) (fun m => { m with status := checkStatus s r })) (modeOf (testDrawn s r))
  refine ⟨refuseTransition (testDrawn s r) (checkStatus s r), ?_, ?_, hstatus, fun hnone => hsteady ?_⟩
  · rw [exec_transitionCheck_other hrun hcheck hwake hother, if_pos hbad]
  · exact hmode.trans (modeOf_congr (hd.rd_outside (os := []) (by decide) rfl))
  · rw [setModes_modes, hd.modes_eq]
    exact hnone

theorem transitionCheck_drains (hgood : checkStatus s r = 0) :
    ∃ t, exec .transitionCheck s = .next t ∧ phaseOf t = .drain ∧ modeOf t = modeOf s ∧ modeTarget t = modeTarget s
      ∧ t.modes.running = some r ∧ t.modes.testDoms = (if r.target = .test then testDomains s else [])
      ∧ (modeWatches r.target (targetWatch s) = false → t.trg.running = false) := by
  let s1 := setModes (testDrawn s r) (fun m =>
    { m with convertersOn := cnvOn s, testDoms := if r.target = .test then testDomains s else [] })
  let s2 := if r.target = .peer ∧ modeOf s ≠ .peer then peerLocal s1 else s1
  have hd := touches_testDrawn (.refl [.free] s) r (by decide)
  have hlocal : Touches [.live, .peer, .obj 0x0802] s1 s2 := by
    unfold s2
    split
    · exact touches_peerLocal (.refl _ _) (by decide)
    · exact .refl _ _
  have hrd : ∀ f, outside [0x0802] f = true → rd s2 f = rd s f := fun f hf =>
    (hlocal.rd_outside hf rfl).trans
        (hd.rd_outside (os := []) (by simp only [outside, Bool.and_eq_true] at hf ⊢; simp [hf.1]) rfl)
  have hmodes2 : s2.modes =
      { s.modes with convertersOn := cnvOn s, testDoms := if r.target = .test then testDomains s else [] } := by
    rw [hlocal.modes_eq, setModes_modes, hd.modes_eq]
  obtain ⟨k, hmodes⟩ := beginStops_modes (setPhase s2 .drain) r.target (targetWatch s) (nextBlockSpectrum s)
  rw [setPhase, wr_modes, hmodes2] at hmodes
  refine ⟨beginDrain s r, ?_, ?_, ?_, ?_, ?_, ?_, beginStops_trigger (setPhase s2 .drain) _⟩
  · rw [exec_transitionCheck_other hrun hcheck hwake hother, if_neg (not_not.2 hgood)]
  · exact (phaseOf_congr (beginStops_rd _ _ _ _ (by decide))).trans (phase_setPhase s2 .drain)
  · exact modeOf_congr ((beginStops_rd _ _ _ _ (by decide)).trans
      ((rd_wr_apart _ _ _ _ (by decide)).trans (hrd _ (by decide))))
  · exact modeTarget_congr ((beginStops_rd _ _ _ _ (by decide)).trans
      ((rd_wr_apart _ _ _ _ (by decide)).trans (hrd _ (by decide))))
  · exact (congrArg Modes.running hmodes).trans hrun
  · exact congrArg Modes.testDoms hmodes

end

end

theorem transitionCheck_aborts {s : State} (hphase : phaseOf s = .aborting) (hstep : s.modes.abortStep = 1) :
    ∃ t, exec .transitionCheck s = .next t ∧ t.modes.abortStep = 2 ∧ phaseOf t = .aborting
      ∧ (modeWatches (modeTarget s) (targetWatch s) = false → t.trg.running = false) :=
  ⟨_, if_pos ⟨hphase, hstep⟩, rfl, (phaseOf_congr (beginStops_rd _ _ _ _ (by decide))).trans hphase,
    fun h => beginStops_trigger s (nextBlockSpectrum s) h⟩

/-- Settles O12: CHECK that passes, that fails, that a wake ends, of the current mode, and the stops of an abort. -/
theorem transitionCheckComplete : Obligations.TransitionCheckComplete := fun _ _ hrun =>
  ⟨fun hcheck hwake hother => ⟨transitionCheck_drains hrun hcheck hwake hother, transitionCheck_refuses hrun hcheck
      hwake hother⟩,
    transitionCheck_woken hrun, transitionCheck_same hrun, transitionCheck_aborts⟩

end Sys2Proof
end

section
/-! PROOF. The phases of a transition (chapter 2): what each row sets, and what it keeps of MODE_STATE. -/

namespace Sys2Proof

-- one proof at a time, which bounds the memory of the compile
set_option Elab.async false

open Sys2Proof.Machine

/-! ### What the operations of a transition keep of MODE_STATE -/

/-- `CURRENT`, `TARGET` and `PHASE` are the same. -/
def ModeKept (s t : State) : Prop :=
  rd t Obj.MODE_STATE.CURRENT = rd s Obj.MODE_STATE.CURRENT ∧ rd t Obj.MODE_STATE.TARGET = rd s Obj.MODE_STATE.TARGET
    ∧ rd t Obj.MODE_STATE.PHASE = rd s Obj.MODE_STATE.PHASE

theorem ModeKept.of_touches {ps : List Part} {s t : State} (h : Touches ps s t)
    (hp : (Part.obj 0x1011).within ps = false := by rfl) : ModeKept s t :=
  ⟨h.rd _ _ (by decide) hp, h.rd _ _ (by decide) hp, h.rd _ _ (by decide) hp⟩

theorem ModeKept.trans {s t u : State} (h : ModeKept s t) (k : ModeKept t u) : ModeKept s u :=
  ⟨k.1.trans h.1, k.2.1.trans h.2.1, k.2.2.trans h.2.2⟩

theorem modeKept_refl (s : State) : ModeKept s s := ⟨rfl, rfl, rfl⟩

theorem ModeKept.mode {s t : State} (h : ModeKept s t) : modeOf t = modeOf s := modeOf_congr h.1

theorem ModeKept.target {s t : State} (h : ModeKept s t) : modeTarget t = modeTarget s := modeTarget_congr h.2.1

theorem ModeKept.phase {s t : State} (h : ModeKept s t) : phaseOf t = phaseOf s := phaseOf_congr h.2.2

theorem modeKept_foldl {α : Type} (g : State → α → State) (l : List α) (s : State) (h : ∀ t x, ModeKept t (g t x)) :
    ModeKept s (l.foldl g s) := foldl_keeps g l (modeKept_refl s) fun t x k => k.trans (h t x)

theorem modeKept_showPendingUp (s : State) : ModeKept s (showPendingUp s) :=
  ⟨rd_showPendingUp s (by decide), rd_showPendingUp s (by decide), rd_showPendingUp s (by decide)⟩

theorem modeKept_setDom (s : State) (d v : Nat) : ModeKept s (setDom s d v) :=
  ⟨rd_setDom s d v (by decide), rd_setDom s d v (by decide), rd_setDom s d v (by decide)⟩

theorem modeKept_markWaiting (s : State) : ModeKept s (markWaiting s) :=
  ⟨rd_markWaiting s (by decide) (by decide), rd_markWaiting s (by decide) (by decide),
    rd_markWaiting s (by decide) (by decide)⟩

theorem modeKept_domUp (s : State) (cls d : Nat) : ModeKept s (domUp s cls d) := by
  have hpaced : ∀ p, ModeKept s (paced s p) := fun p => .of_touches (touches_paced (.refl [.pwr] s) p (by decide))
  unfold domUp
  split
  · exact modeKept_refl s
  · split
    · exact (modeKept_setDom s d 6).trans (.trans ⟨rfl, rfl, rfl⟩ (modeKept_showPendingUp _))
    · split
      · exact modeKept_refl s
      · exact hpaced _
    · split
      · exact modeKept_refl s
      · exact hpaced _
    · exact hpaced _
    · exact ⟨rfl, rfl, rfl⟩
    · exact modeKept_refl s

/-- A phase that is set shows; the mode and its target stay. -/
theorem setPhase_shows (s : State) (p : Phase) : phaseOf (setPhase s p) = p ∧ modeOf (setPhase s p) = modeOf s
    ∧ modeTarget (setPhase s p) = modeTarget s :=
  ⟨phase_setPhase s p, modeOf_congr (rd_wr_apart _ _ _ _ (by decide)), modeTarget_congr
      (rd_wr_apart _ _ _ _ (by decide))⟩

theorem Touches.ite {ps : List Part} {r s t : State} {c : Prop} [Decidable c] (h : Touches ps r s)
    (k : Touches ps r t) : Touches ps r (if c then s else t) := by
  split
  · exact h
  · exact k

/-! ### DRAIN to DOWN (R35, R36) -/

theorem domains_touches (s : State) (m : Mode) (watch : Bool) (map : Nat) :
    Touches [.pwr, .obj 0x0A04] s ((List.range 394).foldl (fun t d =>
      match transitionWants t m watch map d with
      | some 0 => domDown t 2 d 0
      | some 4 => domDown t 2 d 4
      | some 5 => domDown t 2 d 5
      | _ => t) s) := by
  refine .foldl _ _ (.refl _ _) fun u d h => ?_
  split
  · exact touches_domDown h _ _ _ (by decide)
  · exact touches_domDown h _ _ _ (by decide)
  · exact touches_domDown h _ _ _ (by decide)
  · exact h

theorem beginDown_marks (s : State) (m : Mode) (watch : Bool) :
    ∃ u, Touches [.cmp, .ctl, .evt, .flt, .free, .hk, .notes, .sun, .axl, .pwr, .dah, .bbl, .obj 0x0C06, .obj 0x0A04,
          .obj 0x0D04, .obj 0x0D05, .obj 0x0F04] s u
      ∧ (modeRings m watch = false → u.bbl.writing = false) ∧ beginDown s m watch = markWaiting u := by
  let ps : List Part := [.cmp, .ctl, .evt, .flt, .free, .hk, .notes, .sun, .axl, .pwr, .dah, .bbl, .obj 0x0C06, .obj
      0x0A04,
          .obj 0x0D04, .obj 0x0D05, .obj 0x0F04]
  have hlinks : ∀ v : State, Touches [.obj 0x0F04] v ((List.range 2).foldl (fun t p =>
      if transitionWants s m watch (targetMap s) (361 + 2 * p) = some 0 then wr t Obj.NET_STATUS.LINK p 0 else t) v) :=
    fun v => .foldl _ _ (.refl _ _) fun u p h => .ite (touches_wr h _ _ _ (by decide)) h
  have hdrop : Touches ps s (if m = .dormant then unkeptDropped s else s) :=
    .ite (touches_unkeptDropped (.refl _ _) (by decide)) (.refl _ _)
  have hjobs := Touches.ite (c := wantOf s m watch (targetMap s) 338 = 0) (touches_jobsAborted hdrop (by decide)) hdrop
  have hdah := Touches.ite (c := m.integrates = true) (touches_axrelQuiet hjobs m (modeWatches m watch) (by decide))
    (touches_dahEnd (touches_axrelQuiet hjobs m (modeWatches m watch) (by decide)) (by decide))
  have hring := Touches.ite (c := modeRings m watch = true) hdah
    (touches_setBbl hdah (fun b => { b with writing := false }) (by decide))
  have hdig := Touches.ite (c := transitionWants s m watch (targetMap s) 48 = some 0)
    (touches_setBbl hring (fun b => { b with digOn := false }) (by decide)) hring
  have hdoms := hdig.trans ((domains_touches _ m watch (targetMap s)).mono (by decide))
  refine ⟨_, hdoms.trans ((hlinks _).mono (by decide)), fun h => ?_, rfl⟩
  rw [Touches.bbl_eq (hlinks _), Touches.bbl_eq (domains_touches _ m watch _)]
  split <;> simp [h]

theorem beginDown_keeps (s : State) (m : Mode) (watch : Bool) : ModeKept s (beginDown s m watch) := by
  obtain ⟨u, hu, -, hdown⟩ := beginDown_marks s m watch
  rw [hdown]
  exact (ModeKept.of_touches hu).trans (modeKept_markWaiting u)

theorem beginDown_writing (s : State) (m : Mode) (watch : Bool) (h : modeRings m watch = false) :
    (beginDown s m watch).bbl.writing = false := by
  obtain ⟨u, -, hw, hdown⟩ := beginDown_marks s m watch
  rw [hdown, Touches.bbl_eq (touches_markWaiting (.refl [.pwr, .obj 0x0A04, .obj 0x1011] u) (by decide))]
  exact hw h

theorem drainComplete_completes (s : State) (hdrained : drained s (modeTarget s) (targetWatch s) = true) :
    (phaseOf s = .drain → ∃ t, exec .drainComplete s = .next t ∧ phaseOf t = .down ∧ modeOf t = modeOf s
      ∧ modeTarget t = modeTarget s
      ∧ (modeRings (modeTarget s) (targetWatch s) = false → t.bbl.writing = false))
    ∧ (phaseOf s = .aborting → s.modes.abortStep = 2 → ∃ t, exec .drainComplete s = .next t ∧ t.modes.abortStep = 3
      ∧ phaseOf t = .aborting ∧ (modeRings (modeTarget s) (targetWatch s) = false → t.bbl.writing = false)) := by
  have hkeeps := beginDown_keeps s (modeTarget s) (targetWatch s)
  have hwriting := beginDown_writing s (modeTarget s) (targetWatch s)
  refine ⟨fun hphase => ⟨_, if_pos (by simp [hphase, hdrained]), ?_⟩,
    fun hphase hstep => ⟨_, (if_neg (by simp [hphase])).trans (if_pos ⟨hphase, hstep, hdrained⟩), rfl, ?_⟩⟩
  · obtain ⟨hp, hmode, htarget⟩ := setPhase_shows (beginDown s (modeTarget s) (targetWatch s)) .down
    exact ⟨hp, hmode.trans hkeeps.mode, htarget.trans hkeeps.target, hwriting⟩
  · exact ⟨(phaseOf_congr rfl).trans (hkeeps.phase.trans hphase), hwriting⟩

/-! ### DOWN to UP (R36, R96) -/

theorem beginUp_rises (s : State) (m : Mode) (watch : Bool) :
    ∃ u, Touches [.live, .pwr, .obj 0x0A04, .obj 0x1011] s u ∧ ModeKept s u
      ∧ beginUp s m watch = (if m.converts && !s.modes.convertersOn then converterStart u else u) := by
  have hlatched : Touches [.live] s (qprotLatched s m watch) := touches_qprotLatched (.refl _ _) m watch (by decide)
  have hmodes : (qprotLatched s m watch).modes = s.modes := hlatched.modes_eq
  refine ⟨_, (hlatched.mono (by decide)).trans (.foldl _ _ (.refl _ _) fun u d h => ?_), ?_,
    if_congr (by rw [hmodes]) rfl rfl⟩
  · split
    · exact touches_domUp h _ _ (by decide)
    · exact .ite (touches_paced h _ (by decide)) h
    · exact h
  · refine (ModeKept.of_touches hlatched).trans (modeKept_foldl _ _ _ fun u d => ?_)
    split
    · exact modeKept_domUp _ _ _
    · split
      · exact .of_touches (touches_paced (.refl [.pwr] _) _ (by decide))
      · exact modeKept_refl _
    · exact modeKept_refl _

theorem beginUp_keeps (s : State) (m : Mode) (watch : Bool) : ModeKept s (beginUp s m watch) := by
  obtain ⟨u, -, hkept, hup⟩ := beginUp_rises s m watch
  rw [hup]
  split
  · exact hkept.trans (.of_touches (touches_converterStart (.refl [.afe, .cnv] u) (by decide)))
  · exact hkept

/-- The corrections with which converters start (R96). -/
theorem beginUp_corr (s : State) (m : Mode) (watch : Bool) (hm : m.converts = true)
    (hoff : s.modes.convertersOn = false) : (beginUp s m watch).cnv.corrNext = none ∧ (beginUp s m watch).cnv.corr
      = (if flag s Obj.CNV_CAL_INFO.STORED_VALID && !flag s Obj.MODE_PLAN.COLD_CAL
          && decide ((s.bbl.tj - 2 * toInt 8 (rd s Obj.CNV_CAL_INFO.TJ_STORED)).natAbs ≤ 30)
         then s.cnv.stored else List.replicate 2048 ⟨0, 0, 0⟩) := by
  obtain ⟨u, hu, -, hup⟩ := beginUp_rises s m watch
  have hrd : ∀ f ∈ [Obj.CNV_CAL_INFO.STORED_VALID, Obj.MODE_PLAN.COLD_CAL, Obj.CNV_CAL_INFO.TJ_STORED],
      rd u f = rd s f := by
    intro f hf
    simp only [List.mem_cons, List.not_mem_nil, or_false] at hf
    rcases hf with rfl | rfl | rfl
    · exact hu.rd _ _ (by decide) (by decide)
    · exact hu.rd _ _ (by decide) (by decide)
    · exact hu.rd _ _ (by decide) (by decide)
  rw [hup, if_pos (by simp [hm, hoff])]
  refine ⟨rfl, ?_⟩
  rw [← hu.bbl_eq, ← hu.cnv_eq, ← hrd _ (by decide : Obj.CNV_CAL_INFO.TJ_STORED ∈ _)]
  unfold flag
  rw [← hrd Obj.CNV_CAL_INFO.STORED_VALID (by decide), ← hrd Obj.MODE_PLAN.COLD_CAL (by decide)]
  rfl

theorem downComplete_completes (s : State) (hdown : transitionDown s = true) :
    (phaseOf s = .down → ∃ t, exec .downComplete s = .next t ∧ phaseOf t = .up ∧ modeOf t = modeOf s
      ∧ modeTarget t = modeTarget s
      ∧ ((modeTarget s).converts = true → s.modes.convertersOn = false → t.cnv.corrNext = none ∧ t.cnv.corr
          = (if flag s Obj.CNV_CAL_INFO.STORED_VALID && !flag s Obj.MODE_PLAN.COLD_CAL
              && decide ((s.bbl.tj - 2 * toInt 8 (rd s Obj.CNV_CAL_INFO.TJ_STORED)).natAbs ≤ 30)
             then s.cnv.stored else List.replicate 2048 ⟨0, 0, 0⟩)))
    ∧ (phaseOf s = .aborting → s.modes.abortStep = 3 → ∃ t, exec .downComplete s = .next t ∧ t.modes.abortStep = 4
      ∧ phaseOf t = .aborting) := by
  have hkeeps := beginUp_keeps s (modeTarget s) (targetWatch s)
  have hcorr := beginUp_corr s (modeTarget s) (targetWatch s)
  refine ⟨fun hphase => ⟨_, if_pos (by simp [hphase, hdown]), ?_⟩,
    fun hphase hstep => ⟨_, (if_neg (by simp [hphase])).trans (if_pos ⟨hphase, hstep, hdown⟩), rfl, ?_⟩⟩
  · obtain ⟨hp, hmode, htarget⟩ := setPhase_shows (beginUp s (modeTarget s) (targetWatch s)) .up
    exact ⟨hp, hmode.trans hkeeps.mode, htarget.trans hkeeps.target, hcorr⟩
  · exact (phaseOf_congr rfl).trans (hkeeps.phase.trans hphase)

/-! ### Calibration of converters that start (R96) -/

theorem storeCoefficients_cnv (s : State) :
    (storeCoefficients s).cnv = { s.cnv with stored := s.cnv.corr } := by
  unfold storeCoefficients
  rw [wr_cnv, wr_cnv, wr_cnv]
  rfl

theorem storeCoefficients_valid (s : State) : rd (storeCoefficients s) Obj.CNV_CAL_INFO.STORED_VALID = 1 := by
  unfold storeCoefficients
  rw [rd_wr_apart _ _ _ _ (by decide), rd_wr_apart _ _ _ _ (by decide), rd_wr_same]
  rfl

theorem calibrationFound_stores (s : State) : (calibrationFound s).cnv.stored = (calibrationFound s).cnv.corr
    ∧ (calibrationFound s).cnv.corr.length = 2048 ∧ rd (calibrationFound s) Obj.CNV_CAL_INFO.STORED_VALID = 1 := by
  unfold calibrationFound
  refine ⟨?_, ?_, storeCoefficients_valid _⟩
  · rw [storeCoefficients_cnv]
  · rw [storeCoefficients_cnv]
    simp

theorem converterCalConverged_stores (s : State) (hphase : phaseOf s = .up) (hm : (modeTarget s).converts = true)
    (hoff : s.modes.convertersOn = false) (hcal : s.modes.calConverged = false)
    (hdoms : ∀ d ∈ domRange 64 80, domOn s d = true ∨ s.pwr.barred.contains d = true) :
    ∃ t, exec .converterCalConverged s = .next t ∧ t.modes.calConverged = true ∧ t.modes.calAt = s.time.rc64
      ∧ t.cnv.stored = t.cnv.corr ∧ t.cnv.corr.length = 2048
      ∧ rd t Obj.CNV_CAL_INFO.STORED_VALID = 1 := by
  have hready : (domRange 64 80).all (fun d => domOn s d || s.pwr.barred.contains d) = true :=
    List.all_eq_true.2 fun d hd => by simpa using hdoms d hd
  refine ⟨_, if_pos (by rw [hphase, hm, hoff, hcal, hready]; rfl), ?_⟩
  have hmodes : ∀ u : State, (calibrationFound u).modes = u.modes := fun u =>
    (touches_calibrationFound (.refl [.cnv, .free, .obj 0x0303] u) (by decide)).modes_eq
  rw [hmodes]
  exact ⟨rfl, rfl, calibrationFound_stores _⟩

/-! ### UP to START (R36, R38, R236) -/

theorem targetMap_le (s : State) : targetMap s = rd s Obj.FST_MAP.MAP ∨ targetMap s < 4 := by
  unfold targetMap mapFor
  split
  · split
    · exact .inl rfl
    · exact .inl rfl
    · split
      · exact .inr (by decide)
      · exact .inr (by decide)
    · exact .inr (by decide)
    · exact .inr (by decide)
  · exact .inl rfl

theorem storeMapCopy_map (s : State) (new : Nat) (hnew : new = rd s Obj.FST_MAP.MAP ∨ new < 4) :
    rd (storeMapCopy s new) Obj.FST_MAP.MAP = new := by
  unfold storeMapCopy
  dsimp only
  split
  · assumption
  · next hne =>
    rw [rd_wr_apart _ _ _ _ (by decide), rd_wr_same]
    exact Nat.mod_eq_of_lt (by
      have := hnew.resolve_left fun h => hne h.symm
      simp only [Obj.FST_MAP.MAP]
      omega)

theorem upEffects_keeps (s : State) (m : Mode) : ModeKept s (upEffects s m) := by
  unfold upEffects
  dsimp only
  refine .of_touches (ps := [.evt, .notes, .sun, .modes, .axl, .flt, .obj 0x0A01, .obj 0x0A04, .obj 0x0C06,
    .obj 0x0D04, .obj 0x0D05, .obj 0x0706]) ?_
  refine touches_axrelForm (touches_setModes (touches_wr (touches_storeMapCopy (.refl _ _) _ (by decide)) _ _ _
      (by decide)) _ (by decide)) (by decide)

theorem upEffects_shows (s : State) (m : Mode) :
    rd (upEffects s m) Obj.DAH_GEOM.GEOM = (if m = .peer then (if cluster16 s then 2 else 1) else 0)
      ∧ rd (upEffects s m) Obj.FST_MAP.MAP = targetMap s := by
  have hform : ∀ u : State, Touches [.axl, .flt, .notes, .obj 0x0C06, .obj 0x0D04, .obj 0x0D05] u (axrelForm u) :=
    fun u => touches_axrelForm (.refl _ u) (by decide)
  unfold upEffects
  dsimp only
  refine ⟨((hform _).rd _ _ (by decide) (by decide)).trans ?_, ((hform _).rd _ _ (by decide) (by decide)).trans ?_⟩
  · rw [rd_setModes, rd_wr_same]
    split
    · split
      · rfl
      · rfl
    · rfl
  · rw [rd_setModes, rd_wr_apart _ _ _ _ (by decide)]
    exact storeMapCopy_map s _ (targetMap_le s)

theorem upEffects_status (s : State) (m : Mode) : (upEffects s m).modes.status = s.modes.status := by
  unfold upEffects
  dsimp only
  rw [(touches_axrelForm (.refl [.axl, .flt, .notes, .obj 0x0C06, .obj 0x0D04, .obj 0x0D05] _) (by decide)).modes_eq,
    setModes_modes, wr_modes, (touches_storeMapCopy (.refl [.evt, .notes, .sun, .obj 0x0A01, .obj 0x0A04, .obj 0x0C06]
        s) _
      (by decide)).modes_eq]

theorem enterMode_touches (s : State) (m : Mode) (watch : Bool) :
    Touches [.afe, .aon, .bbl, .chz, .cnv, .ctl, .dah, .flt, .live, .out, .pwr, .sun, .time, .trg, .obj 0x0103,
      .obj 0x0205, .obj 0x0406, .obj 0x0509, .obj 0x0907, .obj 0x0A04, .obj 0x0D06] s (enterMode s m watch) :=
  touches_enterMode (.refl _ s) _ _ (by decide)

theorem upComplete_completes (s : State) (hup : transitionUp s (modeTarget s) (targetWatch s) = true) :
    (phaseOf s = .up → ((modeTarget s).converts = true → s.modes.convertersOn = true ∨ s.modes.calConverged = true) →
      ∃ t, exec .upComplete s = .next t ∧ phaseOf t = .start ∧ modeOf t = modeOf s ∧ modeTarget t = modeTarget s
        ∧ rd t Obj.DAH_GEOM.GEOM = (if modeTarget s = .peer then (if cluster16 s then 2 else 1) else 0)
        ∧ rd t Obj.FST_MAP.MAP = targetMap s)
    ∧ (phaseOf s = .aborting → s.modes.abortStep = 4 →
      ∃ t, exec .upComplete s = .next t ∧ modeOf t = modeTarget s
        ∧ rd t Obj.MODE_STATE.LAST_STATUS = s.modes.status % 2 ^ 16) := by
  constructor
  · intro hphase hcal
    have hready : (modeTarget s).converts = false ∨ s.modes.convertersOn = true ∨ s.modes.calConverged = true := by
      cases hm : (modeTarget s).converts
      · exact .inl rfl
      · exact .inr (hcal hm)
    show ∃ t, execUpComplete s = .next t ∧ _
    rw [execUpComplete]
    dsimp only
    rw [if_neg (by simp [hup]), if_pos ⟨hphase, hready⟩]
    generalize hv : (if (domRange 48 63).all (domOn s) then setBbl s
        (fun b => { b with digOn := modeTarget s != .vigil })
      else s) = v
    have hbbl : v = s ∨ ∃ g, v = setBbl s g := by
      rw [← hv]
      split
      · exact .inr ⟨_, rfl⟩
      · exact .inl rfl
    have hsame : ModeKept s v ∧ cluster16 v = cluster16 s ∧ targetMap v = targetMap s := by
      obtain rfl | ⟨g, rfl⟩ := hbbl
      · exact ⟨modeKept_refl _, rfl, rfl⟩
      · exact ⟨modeKept_refl s, rfl, rfl⟩
    obtain ⟨hkept, hcluster, hmap⟩ := hsame
    obtain ⟨hp, hmode, htarget⟩ := setPhase_shows (upEffects v (modeTarget s)) .start
    obtain ⟨hgeom, hstore⟩ := upEffects_shows v (modeTarget s)
    have hkeeps := hkept.trans (upEffects_keeps v (modeTarget s))
    refine ⟨_, rfl, hp, hmode.trans hkeeps.mode, htarget.trans hkeeps.target, ?_, ?_⟩
    · rw [← hcluster]
      exact (rd_wr_apart _ _ _ _ (by decide)).trans hgeom
    · rw [← hmap]
      exact (rd_wr_apart _ _ _ _ (by decide)).trans hstore
  · intro hphase hstep
    refine ⟨_, (if_neg (by simp [hup])).trans ((if_neg (by simp [hphase])).trans (if_pos ⟨hphase, hstep⟩)), ?_⟩
    obtain ⟨hmode, hstatus, -, -⟩ :=
        finishTransition_shows (enterMode (upEffects s (modeTarget s)) (modeTarget s) (targetWatch s))
      (modeTarget s)
    rw [(enterMode_touches _ _ _).modes_eq, upEffects_status] at hstatus
    exact ⟨hmode, hstatus⟩

/-! ### START (R30, R38, R40) -/

/-- What a mode that has been entered shows. -/
theorem entered_shows (s : State) (m : Mode) (watch : Bool) : modeOf (finishTransition (enterMode s m watch) m) = m
    ∧ rd (finishTransition (enterMode s m watch) m) Obj.MODE_STATE.COUNT = (rd s Obj.MODE_STATE.COUNT + 1) % 2 ^ 16
    ∧ (s.modes.waiting = none → phaseOf (finishTransition (enterMode s m watch) m) = .steady)
    ∧ (m = .vigil ∨ m = .recovery → (finishTransition (enterMode s m watch) m).ctl.ronecUp = false) := by
  have hm := enterMode_touches s m watch
  obtain ⟨hmode, -, hcount, hsteady⟩ := finishTransition_shows (enterMode s m watch) m
  rw [hm.rd _ _ (by decide) (by decide)] at hcount
  rw [hm.modes_eq] at hsteady
  refine ⟨hmode, hcount, hsteady, fun h => ?_⟩
  have hup : (enterMode s m watch).ctl.ronecUp = (m != .vigil && m != .recovery) := rfl
  rw [(touches_finishTransition (.refl [.aon, .modes, .notes, .obj 0x1011] (enterMode s m watch)) m
      (by decide)).ctl_eq, hup]
  obtain rfl | rfl := h
  · rfl
  · rfl

theorem dormantEntered_phase (s : State) : (dormantEntered s).aon.phase = .waitPme := by
  unfold dormantEntered
  dsimp only
  split
  · rfl
  · rfl

theorem dormantEntered_keeps (s : State) : ModeKept s (dormantEntered s)
    ∧ rd (dormantEntered s) Obj.MODE_STATE.COUNT = rd s Obj.MODE_STATE.COUNT := by
  have h : Touches [.aon, .live, .time] s (dormantEntered s) := touches_dormantEntered (.refl _ _) (by decide)
  exact ⟨.of_touches h, h.rd _ _ (by decide) (by decide)⟩

theorem enterRecovery_rd (s : State) (f : Field) :
    rd (enterRecovery s) f = rd (wr (wr s Obj.MODE_STATE.CURRENT 0 11) Obj.MODE_STATE.TARGET 0 11) f := by
  unfold enterRecovery
  dsimp only
  rw [rd_setPwr, rd_setCtl]

theorem enterRecovery_shows (s : State) : modeOf (enterRecovery s) = .recovery ∧ phaseOf (enterRecovery s) = phaseOf s
    ∧ rd (enterRecovery s) Obj.MODE_STATE.COUNT = rd s Obj.MODE_STATE.COUNT
    ∧ (enterRecovery s).ctl.ronecUp = false := by
  refine ⟨?_, phaseOf_congr ?_, ?_, rfl⟩
  · unfold modeOf
    rw [enterRecovery_rd, rd_wr_apart _ _ _ _ (by decide), rd_wr_same]
    rfl
  · rw [enterRecovery_rd, rd_wr_apart _ _ _ _ (by decide), rd_wr_apart _ _ _ _ (by decide)]
  · rw [enterRecovery_rd, rd_wr_apart _ _ _ _ (by decide), rd_wr_apart _ _ _ _ (by decide)]

/-- A transition that is not a first entry to Peer ends in its target. -/
theorem transitionStartDone_enters (s : State) (hphase : phaseOf s = .start)
    (hpoint : startPoint s (modeTarget s) = true)
    (hm : modeTarget s ≠ .peer ∨ modeOf s = .peer) :
    ∃ t, exec .transitionStartDone s = .next t ∧ modeOf t = modeTarget s
      ∧ rd t Obj.MODE_STATE.COUNT = (rd s Obj.MODE_STATE.COUNT + 1) % 2 ^ 16
      ∧ (s.modes.waiting = none → phaseOf t = .steady)
      ∧ (modeTarget s = .dormant → t.aon.phase = .waitPme)
      ∧ (modeTarget s = .vigil ∨ modeTarget s = .recovery → t.ctl.ronecUp = false) := by
  obtain ⟨hmode, hcount, hsteady, hronec⟩ := entered_shows s (modeTarget s) (targetWatch s)
  show ∃ t, execTransitionStartDone s = .next t ∧ _
  rw [execTransitionStartDone]
  dsimp only
  rw [if_pos (by simp [hphase, hpoint])]
  generalize modeTarget s = m at *
  split
  · rw [if_pos (hm.resolve_left fun h => h rfl)]
    exact ⟨_, rfl, hmode, hcount, hsteady, nofun, hronec⟩
  · obtain ⟨hcur, hp, hc, hr⟩ := enterRecovery_shows
      (finishTransition (enterMode s .recovery (targetWatch s)) .recovery)
    exact ⟨_, rfl, hcur, hc.trans hcount, fun h => hp.trans (hsteady h), nofun, fun _ => hr⟩
  · obtain ⟨hkept, hc⟩ := dormantEntered_keeps (finishTransition (enterMode s .dormant (targetWatch s)) .dormant)
    exact ⟨_, rfl, hkept.mode.trans hmode, hc.trans hcount, fun h => hkept.phase.trans (hsteady h),
      fun _ => dormantEntered_phase _, nofun⟩
  · next hnotDormant => exact ⟨_, rfl, hmode, hcount, hsteady, fun h => absurd h hnotDormant, hronec⟩

/-- A transition that is not on its way back turns towards Idle. -/
theorem forceIdle_aborts (s : State) (reason status : Nat) (h : phaseOf s ≠ .aborting) :
    phaseOf (forceIdle s reason status) = .aborting ∧ modeTarget (forceIdle s reason status) = .idle
      ∧ (forceIdle s reason status).modes.status = status ∧ (forceIdle s reason status).modes.abortStep = 1 := by
  have hforce : forceIdle s reason status = setModes (wr (setPhase s .aborting) Obj.MODE_STATE.TARGET 0 Mode.idle.code)
      fun _ => { s.modes with
        reason := reason, status := status, abortStep := 1,
        startedAt := if phaseOf s = .steady then s.time.rc64 else s.modes.startedAt } := if_neg fun k => h k.1
  rw [hforce]
  refine ⟨?_, ?_, rfl, rfl⟩
  · refine (phaseOf_congr ?_).trans (phase_setPhase s .aborting)
    rw [rd_setModes, rd_wr_apart _ _ _ _ (by decide)]
  · unfold modeTarget
    rw [rd_setModes, rd_wr_same]
    rfl

theorem lt_goEdge (s : State) : ¬ goEdge s * nsSecond ≤ s.time.civil := by
  unfold goEdge
  have hn : 10 ≤ nsSecond := by decide
  generalize nsSecond = n at hn
  have := Nat.lt_div_mul_add (a := s.time.civil + n / 10 + n - 1) (b := n) (by omega)
  have : 1 ≤ n / 10 := Nat.div_pos hn (by decide)
  omega

theorem peerStage_of_touches {ps : List Part} {s t : State} (h : Touches ps s t)
    (hp : (Part.obj 0x0802).within ps = false := by rfl) : peerStage t = peerStage s := h.rd _ _ (by decide) hp

theorem goSend_goes (s : State) (hstage : peerStage s = 2) : ModeKept s (goSend s) ∧ peerStage (goSend s) = 3 := by
  unfold goSend
  dsimp only
  generalize hu : sendControl s _ _ = u
  have hs : Touches [.axl, .out, .peer, .obj 0x0D05] s u := hu ▸ touches_sendControl (.refl _ _) _ _ (by decide)
  unfold takeGo
  rw [if_pos ((peerStage_of_touches hs).trans hstage), hs.time_eq, if_neg (lt_goEdge s)]
  have hset : Touches [.peer, .obj 0x0802] u (setPeerStage (setPeer u fun p => { p with
      goSec := goEdge s, goGspx := blockAtOrAfter (gspxOfSecond (goEdge s)), aligned := false }) 3) :=
    touches_setPeerStage (touches_setPeer (.refl _ _) _ (by decide)) _ (by decide)
  exact ⟨(ModeKept.of_touches hs).trans (.of_touches hset), rd_wr_same _ _ _ _⟩

/-- A member that is ready waits for its group, or has its GO as the group's leader. -/
theorem sendReady_waits (s : State) (hstage : peerStage s = 2) :
    ModeKept s (sendReady s) ∧ (peerStage (sendReady s) = 2 ∨ peerStage (sendReady s) = 3) := by
  unfold sendReady
  dsimp only
  generalize hu : sendControl s _ _ = u
  have hs : Touches [.axl, .out, .peer, .obj 0x0D05] s u := hu ▸ touches_sendControl (.refl _ _) _ _ (by decide)
  split
  · generalize hv : holdReady u _ = v
    have hh : Touches [.peer] u v := hv ▸ touches_holdReady (.refl _ _) _ (by decide)
    have hkept := (ModeKept.of_touches hs).trans (.of_touches hh)
    have hv2 := (peerStage_of_touches hh).trans ((peerStage_of_touches hs).trans hstage)
    split
    · obtain ⟨hkeep, hgo⟩ := goSend_goes v hv2
      exact ⟨hkept.trans hkeep, .inr hgo⟩
    · exact ⟨hkept, .inl hv2⟩
  · exact ⟨.of_touches hs, .inl ((peerStage_of_touches hs).trans hstage)⟩

theorem transitionStartDone_peer (s : State) (hphase : phaseOf s = .start)
    (hpoint : startPoint s (modeTarget s) = true) (hm : modeTarget s = .peer) (hmode : modeOf s ≠ .peer) :
    exec .transitionStartDone s = .next (peerLocalEnd (enterMode s .peer (targetWatch s))) := by
  show execTransitionStartDone s = _
  rw [execTransitionStartDone]
  dsimp only
  rw [if_pos (by simp [hphase, hpoint]), hm]
  exact if_neg hmode

theorem peerLocalEnd_ready (s : State) (hok : rd s Obj.TIM_PPS.FRAME_OK ≠ 0) (hports : peerPortsBad s = []) :
    phaseOf (peerLocalEnd s) = .peerSync ∧ modeOf (peerLocalEnd s) = modeOf s
      ∧ (peerStage (peerLocalEnd s) = 2 ∨ peerStage (peerLocalEnd s) = 3) := by
  unfold peerLocalEnd
  rw [if_neg (by simpa [flag] using hok), hports]
  dsimp only
  have hset : Touches [.obj 0x0802] (setPhase s .peerSync) (setPeerStage (setPhase s .peerSync) 2) :=
    touches_setPeerStage (.refl _ _) _ (by decide)
  obtain ⟨hp, hmode, -⟩ := setPhase_shows s .peerSync
  obtain ⟨hkept, hstage⟩ := sendReady_waits (setPeerStage (setPhase s .peerSync) 2) (rd_wr_same _ _ _ _)
  have hkeeps := (ModeKept.of_touches hset).trans hkept
  exact ⟨hkeeps.phase.trans hp, hkeeps.mode.trans hmode, hstage⟩

theorem peerLocalEnd_noPps (s : State) (hphase : phaseOf s ≠ .aborting) (hok : rd s Obj.TIM_PPS.FRAME_OK = 0) :
    phaseOf (peerLocalEnd s) = .aborting ∧ modeTarget (peerLocalEnd s) = .idle ∧ peerStage (peerLocalEnd s) = 0
      ∧ (peerLocalEnd s).modes.status = 0x0011 := by
  unfold peerLocalEnd
  rw [if_pos (by simp [flag, hok])]
  generalize hu : raise (setPeerStage s 0) 0x0804 0 (memberNo s) 0 = u
  have hraise : Touches [.flt, .notes, .obj 0x0C06] (setPeerStage s 0) u :=
    hu ▸ touches_raise_plain (.refl _ _) (by decide) _ _ _ (by decide)
  have hset : Touches [.obj 0x0802] s (setPeerStage s 0) := touches_setPeerStage (.refl _ _) _ (by decide)
  have hkept := (ModeKept.of_touches hset).trans (.of_touches hraise)
  obtain ⟨hp, htarget, hstatus, -⟩ := forceIdle_aborts u 1 0x0011 (hkept.phase ▸ hphase)
  have hforce : Touches [.modes, .obj 0x1011] u (forceIdle u 1 0x0011) := touches_forceIdle (.refl _ _) _ _ (by decide)
  exact ⟨hp, htarget, (peerStage_of_touches hforce).trans ((peerStage_of_touches hraise).trans (rd_wr_same _ _ _ _)),
    hstatus⟩

/-- Settles O13: each phase ends in the next one by what its row does, which keeps the rest of `MODE_STATE`. -/
theorem transitionPhasesComplete : Obligations.TransitionPhasesComplete := by
  refine ⟨drainComplete_completes, downComplete_completes, converterCalConverged_stores, upComplete_completes,
    fun s hphase hpoint => ⟨transitionStartDone_enters s hphase hpoint, fun hm hmode =>
        ⟨fun hok hports => ?_, fun hok => ?_⟩⟩⟩
  · have hrd : rd (enterMode s .peer (targetWatch s)) Obj.TIM_PPS.FRAME_OK = rd s Obj.TIM_PPS.FRAME_OK :=
      (enterMode_touches _ _ _).rd _ _ (by decide) (by decide)
    obtain ⟨hp, hcur, hstage⟩ := peerLocalEnd_ready (enterMode s .peer (targetWatch s)) (hrd ▸ hok) hports
    exact ⟨_, transitionStartDone_peer s hphase hpoint hm hmode, hp,
      hcur.trans (ModeKept.of_touches (enterMode_touches _ _ _)).mode, hstage⟩
  · have hrd : rd (enterMode s .peer (targetWatch s)) Obj.TIM_PPS.FRAME_OK = 0 :=
      ((enterMode_touches _ _ _).rd _ _ (by decide) (by decide)).trans hok
    have hp : phaseOf (enterMode s .peer (targetWatch s)) = .start :=
      (ModeKept.of_touches (enterMode_touches _ _ _)).phase.trans hphase
    exact ⟨_, transitionStartDone_peer s hphase hpoint hm hmode,
      peerLocalEnd_noPps _ (fun h => absurd (hp.symm.trans h) (by decide)) hrd⟩


/-! ### Transitions that end early (R35, R37, R40) -/

theorem forceIdle_turns (s : State) (reason status : Nat) :
    phaseOf (forceIdle s reason status) = .aborting ∧ modeTarget (forceIdle s reason status) = .idle := by
  by_cases h : phaseOf s = .aborting ∧ rd s Obj.MODE_STATE.TARGET = Mode.idle.code
  · rw [show forceIdle s reason status = s from if_pos h]
    refine ⟨h.1, ?_⟩
    unfold modeTarget
    rw [h.2]
    rfl
  · have hforce : forceIdle s reason status = setModes
      (wr (setPhase s .aborting) Obj.MODE_STATE.TARGET 0 Mode.idle.code)
        fun _ => { s.modes with
          reason := reason, status := status, abortStep := 1,
          startedAt := if phaseOf s = .steady then s.time.rc64 else s.modes.startedAt } := if_neg h
    rw [hforce]
    refine ⟨?_, ?_⟩
    · refine (phaseOf_congr ?_).trans (phase_setPhase s .aborting)
      rw [rd_setModes, rd_wr_apart _ _ _ _ (by decide)]
    · unfold modeTarget
      rw [rd_setModes, rd_wr_same]
      rfl

theorem forceIdle_touches (s : State) (reason status : Nat) :
    Touches [.modes, .obj 0x1011] s (forceIdle s reason status) := touches_forceIdle (.refl _ _) _ _ (by decide)

theorem raiseFailed_touches (s : State) (a : Nat) : Touches [.flt, .notes, .obj 0x0C06] s (raise s 0x1009 0 a 0) :=
  touches_raise_plain (.refl _ _) (by decide) _ _ _ (by decide)

/-- A transition that fails turns towards Idle, and its fault is active. -/
theorem failTransition_fails (s : State) (a : Nat) (h : phaseOf s ≠ .steady) :
    phaseOf (failTransition s a) = .aborting ∧ modeTarget (failTransition s a) = .idle
      ∧ (failTransition s a).modes = (forceIdle s 1 0x0011).modes
      ∧ (s.flt.active.length < 1024 → faultActive (failTransition s a) 0x1009 0 = true) := by
  rw [show failTransition s a = _ from if_neg h]
  obtain ⟨hphase, htarget⟩ := forceIdle_turns s 1 0x0011
  have hraise := raiseFailed_touches (forceIdle s 1 0x0011) a
  have hkept := ModeKept.of_touches hraise
  refine ⟨hkept.phase.trans hphase, hkept.target.trans htarget, hraise.modes_eq, fun hroom => ?_⟩
  exact raise_active _ _ _ _ _ ((forceIdle_touches s 1 0x0011).flt_eq.symm ▸ hroom)

theorem failTransition_ends (s : State) (a : Nat) (h : phaseOf s = .up) :
    phaseOf (failTransition s a) = .aborting ∧ modeTarget (failTransition s a) = .idle
      ∧ (failTransition s a).modes.status = 0x0011 ∧ (failTransition s a).modes.abortStep = 1
      ∧ (s.flt.active.length < 1024 → faultActive (failTransition s a) 0x1009 0 = true) := by
  obtain ⟨hphase, htarget, hmodes, hfault⟩ := failTransition_fails s a fun k => absurd (h.symm.trans k) (by decide)
  obtain ⟨-, -, hstatus, hstep⟩ := forceIdle_aborts s 1 0x0011 fun k => absurd (h.symm.trans k) (by decide)
  rw [hmodes]
  exact ⟨hphase, htarget, hstatus, hstep, hfault⟩

theorem peerSyncTimeout_aborts (s : State) (h : phaseOf s = .peerSync) :
    ∃ t, exec .peerSyncTimeout s = .next t ∧ phaseOf t = .aborting
      ∧ modeTarget t = .idle ∧ t.modes.status = 0x0011 ∧ t.modes.abortStep = 1 ∧ peerStage t = 0 := by
  have hset : Touches [.obj 0x0802] s (setPeerStage s 0) := touches_setPeerStage (.refl _ _) _ (by decide)
  have hphase := (ModeKept.of_touches hset).phase.trans h
  obtain ⟨hp, htarget, hstatus, hstep⟩ :=
    forceIdle_aborts (setPeerStage s 0) 1 0x0011 fun k => absurd (hphase.symm.trans k) (by decide)
  exact ⟨_, if_pos h, hp, htarget, hstatus, hstep,
    (peerStage_of_touches (forceIdle_touches _ _ _)).trans (rd_wr_same _ _ _ _)⟩

theorem powerGoodTimeout_ends (d : Fin 394) (s : State) (hstate : domState s d = 1)
    (hqueue : ∀ p ∈ s.pwr.queue, p.dom ≠ d.val) :
    ∃ t, exec (.powerGoodTimeout d) s = .next t ∧ domState t d = 0
      ∧ (phaseOf s ≠ .steady → phaseOf t = .aborting ∧ modeTarget t = .idle
        ∧ (s.flt.active.length < 1024 → faultActive t 0x1009 0 = true))
      ∧ (phaseOf s = .steady → modeOf t = modeOf s ∧ t.flt = s.flt) := by
  have hnone : s.pwr.queue.all (fun p => p.dom != d.val) = true :=
    List.all_eq_true.2 fun p hp => by simpa using hqueue p hp
  refine ⟨_, if_pos (by rw [hstate, hnone]; rfl), ?_⟩
  generalize hu : setPwr (setDom s d 0) _ = u
  have hoff : domState u d = 0 := by rw [← hu]; exact domState_setDom s d 0
  have hset : Touches [.pwr, .obj 0x0A04] s u := by
    rw [← hu]
    exact touches_setPwr (touches_setDom (.refl _ _) _ _ (by decide)) _ (by decide)
  have hkept : ModeKept s u := .of_touches hset
  have hdom : domState (failTransition u d) d = 0 := by
    have hfail : Touches [.flt, .modes, .notes, .obj 0x0C06, .obj 0x1011] u (failTransition u d) :=
      touches_failTransition (.refl _ _) _ (by decide)
    rw [domState, hfail.pwr_eq]
    exact hoff
  refine ⟨hdom, fun h => ?_, fun h => ?_⟩
  · obtain ⟨hphase, htarget, -, hfault⟩ := failTransition_fails u d (hkept.phase ▸ h)
    exact ⟨hphase, htarget, hset.flt_eq ▸ hfault⟩
  · rw [show failTransition u d = u from if_pos (hkept.phase.trans h)]
    exact ⟨hkept.mode, hset.flt_eq⟩

/-! ### The drain limit of Dormant (R37) -/

theorem outputsAbandoned_empties (s : State) :
    (outputsAbandoned s).dah.dumps = [] ∧ (outputsAbandoned s).dah.toQueue = []
    ∧ (outputsAbandoned s).conc.out = [] ∧ (outputsAbandoned s).conc.ready = []
    ∧ (outputsAbandoned s).peer.sends = [] := by
  unfold outputsAbandoned
  dsimp only
  generalize hv : List.foldl (fun t p => bump t Obj.NET_STATUS.FWD_DROPPED p _) _ _ = v
  have hbump : ∀ u : State, Touches [.obj 0x0F04] u ((List.range 2).foldl (fun t p =>
      bump t Obj.NET_STATUS.FWD_DROPPED p (nth s.net.ports p ⟨0, []⟩).fwd.length) u) := fun u =>
    .foldl _ _ (.refl _ _) fun t p h => touches_bump h _ _ _ (by decide)
  rw [← hv, (hbump _).dah_eq, (hbump _).conc_eq, (hbump _).peer_eq]
  exact ⟨rfl, rfl, rfl, rfl, rfl⟩

theorem drainLimitExpired_abandons (s : State) (hphase : phaseOf s = .drain) (hm : modeTarget s = .dormant) :
    ∃ t, exec .drainLimitExpired s = .next t ∧ t.modes.drainOver = true ∧ t.dah.dumps = [] ∧ t.dah.toQueue = []
      ∧ t.conc.out = [] ∧ t.conc.ready = [] ∧ t.peer.sends = [] ∧ (∀ f ∈ t.evt.frags, f.state ≠ .transfer)
      ∧ phaseOf t = .drain := by
  refine ⟨_, if_pos ⟨hphase, hm⟩, rfl, ?_⟩
  have hkept : ModeKept s (outputsAbandoned (unkeptDropped s)) := .of_touches (touches_outputsAbandoned
    (touches_unkeptDropped (.refl [.evt, .flt, .hk, .notes, .sun, .obj 0x0C06, .axl, .conc, .dah, .mov, .net, .peer,
      .obj 0x0F04] s) (by decide)) (by decide))
  obtain ⟨hdumps, hqueue, hout, hready, hsends⟩ := outputsAbandoned_empties (unkeptDropped s)
  refine ⟨hdumps, hqueue, hout, hready, hsends, fun f hf => ?_, ?_⟩
  · obtain ⟨g, -, rfl⟩ := List.mem_map.1 hf
    split
    · exact fun h => nomatch h
    · next h => simpa using h
  · exact (phaseOf_congr (s := outputsAbandoned (unkeptDropped s)) rfl).trans (hkept.phase.trans hphase)

/-! ### The start and the stop of peer data (R195, R197) -/

theorem peerStartBlock_starts (s : State) (hstage : peerStage s = 3) (haligned : s.peer.aligned = true)
    (hphase : phaseOf s = .peerSync) (hdue : 0 ≤ spxDist (gspxNow s) s.peer.goGspx) :
    ∃ t, exec .peerStartBlock s = .next t ∧ modeOf t = .peer ∧ peerStage t = 4 ∧ t.dah.started = true
      ∧ rd t Obj.PEER_STATUS.LIVE = (2 ^ memberCount s - 1) % 2 ^ Obj.PEER_STATUS.LIVE.width := by
  obtain ⟨hmode, -, -, -⟩ := finishTransition_shows (peerRunning s) .peer
  refine ⟨_, if_pos (by simp [hstage, haligned, hphase, hdue]), ?_⟩
  refine ⟨(modeOf_congr ?_).trans hmode, ?_, rfl, ?_⟩
  · rw [rd_setModes, dahStart, rd_setDah]
  · rw [peerStage, rd_setModes, dahStart, rd_setDah, finishTransition_rd _ _ (by decide), peerRunning]
    rw [rd_wr_apart _ _ _ _ (by decide)]
    exact rd_wr_same _ _ _ _
  · rw [rd_setModes, dahStart, rd_setDah, finishTransition_rd _ _ (by decide)]
    exact rd_wr_same _ _ _ _

theorem peerStopBoundary_stops (s : State) (b : Nat) (hstage : peerStage s = 5) (hstop : s.peer.stopAt = some b)
    (hdue : 0 ≤ spxDist (gspxNow s) b) :
    ∃ t, exec .peerStopBoundary s = .next t ∧ peerStage t = 0 ∧ rd t Obj.PEER_STATUS.LIVE = 0
      ∧ (s.peer.byLeader = true → phaseOf s = .steady → phaseOf t = .check ∧ modeTarget t = .idle) := by
  have hclose : Touches [.flt, .mov, .notes, .peer, .pwr, .obj 0x0803, .obj 0x0C06, .obj 0x1106] s
      (closeGroupsTo 64 s b) :=
    touches_closeGroupsTo (.refl _ _) _ _ (by decide)
  show ∃ t, execPeerStopBoundary s = .next t ∧ _
  rw [execPeerStopBoundary, hstop]
  dsimp only
  rw [if_pos ⟨hstage, hdue⟩]
  generalize hu : wr (setPeerStage (closeGroupsTo 64 s b) 0) Obj.PEER_STATUS.LIVE 0 0 = u
  have hstage' : peerStage u = 0 := by
    rw [← hu, peerStage, rd_wr_apart _ _ _ _ (by decide)]
    exact rd_wr_same _ _ _ _
  have hlive : rd u Obj.PEER_STATUS.LIVE = 0 := by rw [← hu]; exact rd_wr_same _ _ _ _
  have hphase : phaseOf u = phaseOf s := by
    rw [← hu]
    refine (phaseOf_congr ?_).trans (ModeKept.of_touches hclose).phase
    rw [rd_wr_apart _ _ _ _ (by decide), setPeerStage, rd_wr_apart _ _ _ _ (by decide)]
  generalize hv : (if (!s.dah.seqs.isEmpty && s.dah.stopAt.isNone) = true then dahStop u (localSpectrum s b) else u) = v
  have hdah : Touches [.dah] u v := by
    rw [← hv]
    exact .ite (touches_dahStop (.refl _ _) _ (by decide)) (.refl _ _)
  have hstage'' := (peerStage_of_touches hdah).trans hstage'
  have hlive' := (hdah.rd Obj.PEER_STATUS.LIVE 0 (by decide) (by decide)).trans hlive
  split
  · generalize hw : setPeer (setPeer v _) _ = w
    have hpeer : Touches [.peer] v w := by
      rw [← hw]
      exact touches_setPeer (touches_setPeer (.refl _ _) _ (by decide)) _ (by decide)
    have hreq : Touches [.aon, .modes, .notes, .pwr, .obj 0x0A04, .obj 0x1011] w
        (requestMode w ⟨.idle, false, false, false, 5, 0, 0⟩) := touches_requestMode (.refl _ _) _ (by decide)
    refine ⟨_, rfl, (peerStage_of_touches hreq).trans ((peerStage_of_touches hpeer).trans hstage''),
      (hreq.rd _ _ (by decide) (by decide)).trans ((hpeer.rd _ _ (by decide) (by decide)).trans hlive'), fun _ h => ?_⟩
    have hw : phaseOf w = .steady :=
      (ModeKept.of_touches hpeer).phase.trans ((ModeKept.of_touches hdah).phase.trans (hphase.trans h))
    rw [show requestMode w _ = _ from if_pos hw]
    exact ⟨beginCheck_phase _ _, beginCheck_target _ _⟩
  · next hleader => exact ⟨_, rfl, hstage'', hlive', fun h => absurd h hleader⟩

/-- Settles O14: what fails turns towards Idle through `forceIdle`, and the blocks of the group start and end Peer. -/
theorem transitionEndsComplete : Obligations.TransitionEndsComplete := by
  refine ⟨peerSyncTimeout_aborts, powerGoodTimeout_ends, fun s hphase hoff hcal => ⟨fun hmode hm => ?_, fun hm g => ?_⟩,
    drainLimitExpired_abandons, peerStartBlock_starts, peerStopBoundary_stops⟩
  · refine ⟨_, if_pos ?_, failTransition_ends s 80 hphase⟩
    obtain hm | hm := hm
    · simp [hphase, hoff, hcal, hmode, hm]
    · simp [hphase, hoff, hcal, hmode, hm]
  · exact ⟨_, if_pos (by simp [hphase, hoff, hcal, hm]), failTransition_ends s _ hphase⟩

end Sys2Proof
end

section
/-! PROOF. Event fragments (chapter 7): reservation, segments, coded blocks, the whole fragment, and its delivery. -/

namespace Sys2Proof

-- one proof at a time, which bounds the memory of the compile
set_option Elab.async false

open Sys2Proof.Machine

theorem rd_bump_same (s : State) (f : Field) (i k : Nat) : rd (bump s f i k) f i = (rd s f i + k) % 2 ^ f.width :=
  rd_wr_same _ _ _ _

theorem rd_bump_apart (s : State) (f : Field) {g : Field} (i k : Nat) (j : Nat) (h : apart f g = true) :
    rd (bump s f i k) g j = rd s g j := rd_wr_apart _ _ _ _ h

/-! ### The ring of fragments -/

theorem fragOf_of_frags {s t : State} (h : t.evt.frags = s.evt.frags) (serial : Nat) :
    fragOf t serial = fragOf s serial := by
  unfold fragOf
  rw [h]

theorem fragOf_setFrag {s : State} {serial : Nat} {f : Fragment} (h : fragOf s serial = some f)
    {g : Fragment → Fragment} (hg : ∀ x, (g x).serial = x.serial) :
        fragOf (setFrag s serial g) serial = some (g f) := by
  show (updFirst _ g s.evt.frags).find? _ = _
  rw [find?_updFirst (fun x hx => by simpa [hg] using hx)]
  exact congrArg (Option.map g) h

theorem evtLevels_evt (s : State) : ∃ h, (evtLevels s).evt = { s.evt with high := h } := by
  have hshow : (lossyShow s 0 (evtUsed s) (evtSize s) (rd s Obj.EVT_SHIP.HIGH_WM)).evt = s.evt :=
    (touches_lossyShow (.refl [.notes, .obj 0x0C06] s) _ _ _ _ (by decide)).evt_eq
  refine ⟨decide (rd s Obj.EVT_SHIP.HIGH_WM ≤ 100 * evtUsed s / evtSize s), ?_⟩
  unfold evtLevels
  dsimp only
  split
  · rw [(raise_touches _ _ _ _ _).evt_eq, setEvt_evt, hshow]
  · rw [setEvt_evt, hshow]

theorem fragOf_evtLevels (s : State) (serial : Nat) : fragOf (evtLevels s) serial = fragOf s serial := by
  obtain ⟨h, hevt⟩ := evtLevels_evt s
  exact fragOf_of_frags (by rw [hevt]) serial

theorem evtLevels_touches (s : State) : Touches [.evt, .flt, .notes, .obj 0x0C06] s (evtLevels s) :=
  touches_evtLevels (.refl _ _) (by decide)

theorem evtTail_evt (s : State) : (evtTail s).evt.frags = s.evt.frags.dropWhile (fun f => f.state == .released)
    ∧ (evtTail s).evt.head = s.evt.head := by
  obtain ⟨h, hevt⟩ := evtLevels_evt
      (setEvt s (fun e => { e with frags := e.frags.dropWhile (fun f => f.state == .released) }))
  unfold evtTail
  rw [hevt]
  exact ⟨rfl, rfl⟩

theorem evtTail_touches (s : State) : Touches [.evt, .flt, .notes, .obj 0x0C06] s (evtTail s) :=
  touches_evtTail (.refl _ _) (by decide)

/-! ### Reservation (R138, R148) -/

theorem takeRecordOf_bbl {s : State} {w : Window} {r : TrigRecord × State} (h : takeRecordOf s w = some r) :
    r.2.bbl = s.bbl := by
  unfold takeRecordOf at h
  split at h
  · obtain ⟨q, -, rfl⟩ := Option.map_eq_some_iff.1 h
    rfl
  · split at h
    · cases h
      rfl
    · cases h
      rfl

theorem takeRecordOf_again {s t : State} {w : Window} {r : TrigRecord × State} (h : takeRecordOf s w = some r)
    (ht : t.trg = s.trg) : ∃ q, takeRecordOf t w = some q := by
  unfold takeRecordOf at h ⊢
  rw [ht]
  split at h
  · next hsource =>
    rw [if_pos hsource]
    obtain ⟨q, hq, -⟩ := Option.map_eq_some_iff.1 h
    exact ⟨_, by rw [hq]; rfl⟩
  · next hsource =>
    rw [if_neg hsource]
    split
    · exact ⟨_, rfl⟩
    · exact ⟨_, rfl⟩

/-- The reservation of a window at the head of the ring, or at its start. -/
theorem fragmentReserve_reserves (s s1 : State) (w : Window) (r : TrigRecord × State) (hnext : nextToReserve s = some w)
    (hrecord : takeRecordOf s w = some r) :
    let len := lMax (4 * (w.pAct + w.q)) (rd s Obj.EVT_CTRL.CODE)
    let off := if s.evt.head + len ≤ evtSize s then s.evt.head else 0
    makeRoom (s.evt.frags.length + 1) s off len = (true, s1) →
    ∃ t f held x, exec .fragmentReserve s = .next t ∧ t.evt.frags = held ++ [f] ∧ f.serial = r.1.serial
      ∧ f.state = .building ∧ f.off = off ∧ f.size = len ∧ t.evt.head = off + len
      ∧ t.bbl.windows.find? (fun y => y.id == w.id) = some x ∧ x.credit = true := by
  intro len off hroom
  have hmade : Touches [.evt, .flt, .notes, .obj 0x0604, .obj 0x0C06] s s1 := by
    have h : Touches [.evt, .flt, .notes, .obj 0x0604, .obj 0x0C06] s (makeRoom (s.evt.frags.length + 1) s off len).2 :=
      touches_makeRoom (.refl _ _) _ _ _ (by decide)
    rwa [hroom] at h
  obtain ⟨q, hq⟩ := takeRecordOf_again hrecord hmade.trg_eq
  have hwin : w ∈ q.2.bbl.windows := by
    rw [takeRecordOf_bbl hq, hmade.bbl_eq]
    exact List.mem_of_find?_eq_some hnext
  show ∃ t f held x, Host.Outcome.next (reserveNext s) = .next t ∧ _
  rw [reserveNext, hnext]
  dsimp only
  rw [hrecord]
  dsimp only
  rw [show makeRoom (s.evt.frags.length + 1) s _ _ = (true, s1) from hroom]
  dsimp only
  rw [hq]
  dsimp only
  generalize hf : Fragment.mk .. = f
  have hstate : f.state = .building ∧ f.serial = r.1.serial ∧ f.off = off ∧ f.size = len := by
    rw [← hf]
    exact ⟨rfl, rfl, rfl, rfl⟩
  obtain ⟨hbuilding, hserial, hoff, hsize⟩ := hstate
  generalize hu : setEvt q.2 _ = u
  have hevt : u.evt.frags = q.2.evt.frags ++ [f] ∧ u.evt.head = off + len ∧ u.bbl = q.2.bbl := by
    rw [← hu]
    exact ⟨rfl, rfl, rfl⟩
  obtain ⟨hfrags, hhead, hbbl⟩ := hevt
  obtain ⟨x, hx, -⟩ := find_setWindow (s := u) (w := w) (hbbl ▸ hwin)
    (f := fun x => { x with credit := true, serial := r.1.serial }) fun _ => rfl
  obtain ⟨htail, htailHead⟩ := evtTail_evt (setWindow u w.id (fun x => { x with credit := true, serial := r.1.serial }))
  refine ⟨_, f, u.evt.frags.dropLast.dropWhile (fun f => f.state == .released), _, rfl, ?_, hserial, hbuilding, hoff,
    hsize, htailHead.trans hhead, (congrArg (List.find? _)
        (congrArg Bluebell.windows (evtTail_touches _).bbl_eq)).trans hx, rfl⟩
  refine htail.trans ?_
  show u.evt.frags.dropWhile _ = _
  rw [hfrags, List.dropLast_concat, List.dropWhile_append]
  split
  · next h => simp [List.isEmpty_iff.1 h, hbuilding]
  · rfl

/-! ### Segments (R148) -/

theorem feedCoder_frags (s : State) : (feedCoder s).evt.frags = s.evt.frags := by
  unfold feedCoder
  split
  · rfl
  · dsimp only
    split
    · rfl
    · rw [(touches_clockStarts (.refl [.mov, .pwr, .obj 0x1106] _) _ (by decide)).evt_eq]

theorem feedCoder_touches (s : State) : Touches [.cmp, .evt, .mov, .pwr, .obj 0x1106] s (feedCoder s) :=
  touches_feedCoder (.refl _ _) (by decide)

theorem feedCoder_failNext (s : State) : (feedCoder s).cmp.failNext = s.cmp.failNext := by
  unfold feedCoder
  split
  · rfl
  · dsimp only
    split
    · rfl
    · rw [(touches_clockStarts (.refl [.mov, .pwr, .obj 0x1106] _) _ (by decide)).cmp_eq]

theorem segmentToEvent_joins (s : State) (f : Fragment) (w : Window) (hcut : eventCut s = false)
    (hfeed : s.evt.feed.any (jobReady s) = false)
    (hfind : s.evt.frags.find? (fun f => f.state == .building && f.window.isNone) = some f)
    (hfrag : fragOf s f.serial = some f)
    (hwin : (s.bbl.windows ++ s.bbl.leaving).find? (fun w => w.id == f.windowId) = some w)
    (hlen : f.cells.length < w.raw.length) :
    ∃ t g, exec .segmentToEvent s = .next t ∧ fragOf t f.serial = some g ∧ g.cells.length = f.cells.length + 1
      ∧ g.window = (if f.cells.length + 1 = w.segs.length then some w else none) ∧ t.mem = s.mem := by
  show ∃ t g, execSegmentToEvent s = .next t ∧ _
  rw [execSegmentToEvent, if_neg (by simp [hcut, hfeed]), hfind]
  dsimp only
  rw [hwin]
  dsimp only
  rw [if_pos hlen]
  generalize (List.range 256).map _ = cells
  have hjoin := fragOf_setFrag (g := fun x => { x with
    cells := x.cells ++ [cells]
    window := if decide (f.cells.length + 1 = w.segs.length) then some w else none }) hfrag fun _ => rfl
  generalize hu : setFrag s f.serial _ = u at hjoin
  have hmem : u.mem = s.mem := by rw [← hu]; rfl
  refine ⟨_, _, rfl, ((fragOf_of_frags ((feedCoder_frags _).trans ?_) _).trans hjoin), by simp, ?_,
    (feedCoder_touches _).mem_eq.trans ?_⟩
  · show (ite _ _ _ : State).evt.frags = _
    split
    · rfl
    · rfl
  · simp
  · show (ite _ _ _ : State).mem = _
    split
    · exact hmem
    · exact hmem

/-! ### Coded blocks (R257 to R260, R146, R270) -/

/-- What the count of a coded block leaves of its fragment, of the test mark and of the memory. -/
def BlockKept (u t : State) : Prop :=
  t.evt.frags = u.evt.frags ∧ t.cmp.failNext = u.cmp.failNext ∧ t.mem = u.mem
    ∧ rd t Obj.CMP_STATUS.FR_BLOCKS = rd u Obj.CMP_STATUS.FR_BLOCKS

theorem blockKept_bump (u : State) (f : Field) (hf : apart f Obj.CMP_STATUS.FR_BLOCKS = true) :
    BlockKept u (bump u f 0 1) := by
  refine ⟨?_, ?_, ?_, rd_bump_apart _ _ _ _ _ hf⟩
  · rw [bump, wr_evt]
  · rw [bump, wr_cmp]
  · rw [bump, wr_mem]

theorem blockKept_raise {u v : State} (h : BlockKept u v) (code inst a b : Nat) :
    BlockKept u (raise v code inst a b) := by
  obtain ⟨hfrags, hfail, hmem, hrd⟩ := h
  have hr := raise_touches v code inst a b
  refine ⟨?_, ?_, hr.mem_eq.trans hmem, (rd_raise _ _ _ _ _ _ (by decide)).trans hrd⟩
  · rw [hr.evt_eq, hfrags]
  · rw [hr.cmp_eq, hfail]

theorem frBlockCoded_codes (fails : Bool) (s : State) (job : CoderJob) (rest : List CoderJob) (f : Fragment)
    (hcycling : domCycling s 337 = false) (hroom : queueRoom s 7 = true)
        (hdoms : ∀ d ∈ domRange 93 94, domOn s d = true)
    (hjobs : s.cmp.coder = job :: rest) (hfrag : fragOf s job.serial = some f) :
    ∃ t g b, exec (.frBlockCoded fails) s = .next t ∧ fragOf t job.serial = some g
      ∧ g.blocks = f.blocks ++ [(64 * job.input + job.block, b, fails || s.cmp.failNext || s.mov.badBlock)]
      ∧ g.toCode = f.toCode - 1 ∧ t.cmp.failNext = false
      ∧ t.mem = memWrite s.mem (evtAddr s (blockPlace f job.input job.block)) b
      ∧ rd t Obj.CMP_STATUS.FR_BLOCKS = (rd s Obj.CMP_STATUS.FR_BLOCKS + 1) % 2 ^ 32
      ∧ (fails = true → b = voidBlock f.code ∧ rd t Obj.CMP_STATUS.FR_VOID
          = (rd s Obj.CMP_STATUS.FR_VOID + 1) % 2 ^ Obj.CMP_STATUS.FR_VOID.width) := by
  have hall : (domRange 93 94).all (domOn s) = true := List.all_eq_true.2 hdoms
  show ∃ t g b, execFrBlockCoded fails s = .next t ∧ _
  rw [execFrBlockCoded, if_neg (by simp [hcycling, hroom, hall]), hjobs]
  dsimp only
  rw [hfrag]
  dsimp only
  generalize hc : codeBlock _ _ _ = coded
  generalize (interpolated (inputCells f job.input)).drop (64 * job.block) = xs
  generalize hbad : (fails || s.cmp.failNext || s.mov.badBlock) = bad
  generalize hb : (if bad = true then voidBlock f.code else _) = b
  generalize hs1 : feedCoder _ = s1
  have hfed : s1.evt.frags = s.evt.frags ∧ s1.cmp.failNext = false ∧ s1.mem = s.mem
      ∧ ∀ g ∈ [Obj.CMP_STATUS.FR_BLOCKS, Obj.CMP_STATUS.FR_VOID], rd s1 g = rd s g := by
    rw [← hs1]
    refine ⟨feedCoder_frags _, feedCoder_failNext _, (feedCoder_touches _).mem_eq, fun g hg => ?_⟩
    exact (feedCoder_touches _).rd_outside (f := g) (os := [0x1106]) ((by decide : ∀ g ∈ [Obj.CMP_STATUS.FR_BLOCKS,
      Obj.CMP_STATUS.FR_VOID], outside [0x1106] g = true) g hg) rfl
  obtain ⟨hfrags, hfail, hmem, hrd⟩ := hfed
  have hjoin := fragOf_setFrag (s := s1) (g := fun x => { x with
    blocks := x.blocks ++ [(64 * job.input + job.block, b, bad)], toCode := x.toCode - 1 })
    ((fragOf_of_frags hfrags _).trans hfrag) fun _ => rfl
  generalize hw : setFrag s1 job.serial _ = w at hjoin
  have hset : Touches [.evt] s1 w := by
    rw [← hw]
    exact touches_setFrag (.refl _ _) _ _ (by decide)
  generalize hu : bump (storeBytes w _ b) Obj.CMP_STATUS.FR_BLOCKS 0 1 = u
  have hkept : u.evt.frags = w.evt.frags ∧ u.cmp.failNext = false
      ∧ u.mem = memWrite s.mem (evtAddr s (blockPlace f job.input job.block)) b
      ∧ rd u Obj.CMP_STATUS.FR_BLOCKS = (rd s Obj.CMP_STATUS.FR_BLOCKS + 1) % 2 ^ 32
      ∧ rd u Obj.CMP_STATUS.FR_VOID = rd s Obj.CMP_STATUS.FR_VOID := by
    rw [← hu]
    refine ⟨?_, ?_, ?_, ?_, ?_⟩
    · rw [bump, wr_evt, storeBytes_evt]
    · rw [bump, wr_cmp, storeBytes_cmp, hset.cmp_eq, hfail]
    · rw [bump, wr_mem, storeBytes_mem, hset.mem_eq, hmem]
    · rw [rd_bump_same, ← hrd _ (by decide : Obj.CMP_STATUS.FR_BLOCKS ∈ _), ← hset.rd _ _ (by decide) (by decide)]
      rfl
    · rw [rd_bump_apart _ _ _ _ _ (by decide), ← hrd _ (by decide : Obj.CMP_STATUS.FR_VOID ∈ _), ← hset.rd _ _
        (by decide) (by decide)]
      rfl
  obtain ⟨huFrags, huFail, huMem, huBlocks, huVoid⟩ := hkept
  suffices ∃ t, (if bad = true then _ else _ : Host.Outcome State Fault Refusal) = .next t ∧ BlockKept u t
      ∧ (bad = true → rd t Obj.CMP_STATUS.FR_VOID = (rd u Obj.CMP_STATUS.FR_VOID + 1) % 2 ^
          Obj.CMP_STATUS.FR_VOID.width) by
    obtain ⟨t, ht, ⟨htFrags, htFail, htMem, htBlocks⟩, htVoid⟩ := this
    refine ⟨t, _, b, ht, (fragOf_of_frags (htFrags.trans huFrags) _).trans hjoin, rfl, rfl, htFail.trans huFail,
      htMem.trans huMem, htBlocks.trans huBlocks, fun h => ?_⟩
    have hyes : bad = true := by simp [← hbad, h]
    exact ⟨by rw [← hb, if_pos hyes], by rw [htVoid hyes, huVoid]⟩
  cases bad
  · rw [if_neg (by decide)]
    refine ⟨_, rfl, ?_, nofun⟩
    split
    · exact blockKept_bump _ _ (by decide)
    · exact ⟨rfl, rfl, rfl, rfl⟩
  · rw [if_pos rfl]
    generalize (if s.cmp.failSecond = _ then s.cmp.fails + 1 else 1 : Nat) = n
    generalize hv : bump { u with cmp := _ } Obj.CMP_STATUS.FR_VOID 0 1 = v
    have hvKept : BlockKept u v ∧ rd v Obj.CMP_STATUS.FR_VOID
        = (rd u Obj.CMP_STATUS.FR_VOID + 1) % 2 ^ Obj.CMP_STATUS.FR_VOID.width := by
      rw [← hv]
      exact ⟨blockKept_bump _ _ (by decide), rd_bump_same _ _ _ _⟩
    obtain ⟨hblock, hvoid⟩ := hvKept
    refine ⟨_, rfl, ?_, fun _ => ?_⟩
    · split
      · exact blockKept_raise (blockKept_raise (blockKept_raise hblock _ _ _ _) _ _ _ _) _ _ _ _
      · exact blockKept_raise (blockKept_raise hblock _ _ _ _) _ _ _ _
    · split
      · rw [rd_raise _ _ _ _ _ _ (by decide), rd_raise _ _ _ _ _ _ (by decide), rd_raise _ _ _ _ _ _ (by decide)]
        exact hvoid
      · rw [rd_raise _ _ _ _ _ _ (by decide), rd_raise _ _ _ _ _ _ (by decide)]
        exact hvoid

/-! ### The whole fragment (R138) -/

theorem fragmentBuilt_stores (s : State) (f : Fragment) (w : Window) (hcut : eventCut s = false)
    (hfind : s.evt.frags.find? (fun f => f.state == .building && f.window.isSome && f.toCode == 0) = some f)
    (hwin : f.window = some w) :
    ∃ t, exec .fragmentBuilt s = .next t
      ∧ rd t Obj.EVT_STATUS.BUILT = (rd s Obj.EVT_STATUS.BUILT + 1) % 2 ^ 32
      ∧ t.mem = memWrite s.mem (evtAddr s f.off) (fragmentBytes s f w).1
      ∧ (fragOf s f.serial = some f → ∃ g, fragOf t f.serial = some g ∧ g.state = .pending
          ∧ g.bytes = (fragmentBytes s f w).1)
      ∧ ∀ a, (a < evtAddr s f.off ∨ evtAddr s f.off + (fragmentBytes s f w).1.length ≤ a) →
          memGet t.mem a = memGet s.mem a := by
  show ∃ t, execFragmentBuilt s = .next t ∧ _
  rw [execFragmentBuilt, if_neg (by simp [hcut]), hfind]
  dsimp only
  rw [hwin]
  dsimp only
  generalize fragmentBytes s f w = fb
  obtain ⟨b, free⟩ := fb
  dsimp only
  generalize Ship.mk .. = ship
  generalize hs1 : storeBytes _ (evtAddr s f.off) b = s1
  have hstored : s1.mem = memWrite s.mem (evtAddr s f.off) b ∧ s1.evt = s.evt ∧ s1.regs = s.regs := by
    rw [← hs1]
    exact ⟨rfl, rfl, rfl⟩
  obtain ⟨hmem, hevt, hregs⟩ := hstored
  generalize hs3 : setEvt (setFrag s1 f.serial _) _ = s3
  have hset : Touches [.evt] s1 s3 := by
    rw [← hs3]
    exact touches_setEvt (touches_setFrag (.refl _ _) _ _ (by decide)) _ (by decide)
  have hfrag : fragOf s f.serial = some f → ∃ g, fragOf s3 f.serial = some g ∧ g.state = .pending ∧ g.bytes = b := by
    intro h
    have := fragOf_setFrag (s := s1) (g := fun x => { x with
      state := .pending, bytes := b, size := b.length, ship := ship, cells := [], blocks := [] })
      ((fragOf_of_frags (by rw [hevt]) _).trans h) fun _ => rfl
    exact ⟨_, (by rw [← hs3]; exact this), rfl, rfl⟩
  have hbuilt : rd (bump s3 Obj.EVT_STATUS.BUILT 0 1) Obj.EVT_STATUS.BUILT = (rd s Obj.EVT_STATUS.BUILT + 1) % 2 ^
      32 := by
    rw [rd_bump_same, hset.rd _ _ (by decide) (by decide)]
    unfold rd
    rw [hregs]
    rfl
  generalize hu : (if bit (nth b 6 0) 3 = true then _ else _ : State) = u
  have hcount : rd u Obj.EVT_STATUS.BUILT = (rd s Obj.EVT_STATUS.BUILT + 1) % 2 ^ 32 ∧ u.mem = s3.mem
      ∧ u.evt = s3.evt := by
    rw [← hu]
    split
    · refine ⟨(rd_bump_apart _ _ _ _ _ (by decide)).trans hbuilt, ?_, ?_⟩
      · rw [bump, wr_mem, bump, wr_mem]
      · rw [bump, wr_evt, bump, wr_evt]
    · refine ⟨hbuilt, ?_, ?_⟩
      · rw [bump, wr_mem]
      · rw [bump, wr_evt]
  obtain ⟨hrd, huMem, huEvt⟩ := hcount
  have htMem : (evtLevels u).mem = memWrite s.mem (evtAddr s f.off) b := by
    rw [(evtLevels_touches u).mem_eq, huMem, hset.mem_eq, hmem]
  refine ⟨_, rfl, ((evtLevels_touches u).rd _ _ (by decide) (by decide)).trans hrd, htMem, fun h => ?_, fun a ha => ?_⟩
  · obtain ⟨g, hg, hrest⟩ := hfrag h
    refine ⟨g, ?_, hrest⟩
    rw [fragOf_evtLevels, fragOf_of_frags (s := s3) (by rw [huEvt]), hg]
  · rw [htMem]
    exact memGet_memWrite_outside a b s.mem _ ha

/-- Settles O27: the fragment's own entry changes at each of its steps, found by its serial. -/
theorem fragmentBuildComplete : Obligations.FragmentBuildComplete :=
  ⟨fragmentReserve_reserves, segmentToEvent_joins, frBlockCoded_codes, fun _ h => ⟨_, if_pos h, rfl⟩,
    fun _ h => if_neg h, fragmentBuilt_stores⟩


/-! ### Delivery (R150, R151, R152) -/

theorem shipMessage_touches (s : State) (f : Fragment) (ty : Nat) (b : Bytes) :
    Touches [.axl, .out, .peer, .obj 0x0D05] s (shipMessage s f ty b) :=
        touches_shipMessage (.refl _ _) _ _ _ (by decide)

theorem fragOf_shipMessage (s : State) (f : Fragment) (ty : Nat) (b : Bytes) (serial : Nat) :
    fragOf (shipMessage s f ty b) serial = fragOf s serial :=
  fragOf_of_frags (by rw [(shipMessage_touches s f ty b).evt_eq]) serial

theorem fragmentSend_sends (serial : Nat) (s : State) (f : Fragment) (hfrag : fragOf s serial = some f)
    (hstate : f.state = .pending) (hmode : modeOf s ≠ .vigil) (hfirst : firstOfItsKind s f = true)
    (hready : destinationReady s f = true) (hship : f.ship.mode < 3) :
    ∃ t g, exec (.fragmentSend serial) s = .next t ∧ fragOf t serial = some g ∧ g.state = .transfer := by
  have hsent := fragOf_setFrag (g := fun x => { x with state := .transfer }) hfrag fun _ => rfl
  show ∃ t g, execFragmentSend serial s = .next t ∧ _
  rw [execFragmentSend, hfrag]
  dsimp only
  rw [if_pos ⟨hstate, hship, hmode, hfirst, hready⟩]
  refine ⟨_, { f with state := .transfer }, rfl, ?_, rfl⟩
  split
  · exact (fragOf_of_frags (by rw [(touches_ringPut (.refl [.mov, .pwr, .obj 0x1106] _) _ _ (by decide)).evt_eq])
      _).trans hsent
  · exact (fragOf_shipMessage _ _ _ _ _).trans hsent

theorem fragmentAnnounce_offers (serial : Nat) (s : State) (f : Fragment) (hfrag : fragOf s serial = some f)
    (hstate : f.state = .pending) (hmode : modeOf s ≠ .vigil) (hfirst : firstOfItsKind s f = true)
    (hready : destinationReady s f = true) (hship : f.ship.mode = 3) :
    ∃ t g, exec (.fragmentAnnounce serial) s = .next t ∧ fragOf t serial = some g ∧ g.state = .offered := by
  have hoffered := fragOf_setFrag (g := fun x => { x with state := .offered }) hfrag fun _ => rfl
  show ∃ t g, execFragmentAnnounce serial s = .next t ∧ _
  rw [execFragmentAnnounce, hfrag]
  dsimp only
  rw [if_pos ⟨hstate, hship, hmode, hfirst, hready⟩]
  exact ⟨_, _, rfl, (fragOf_shipMessage _ _ _ _ _).trans hoffered, rfl⟩

theorem releaseFrag_counts (s : State) (serial : Nat) (f : Field) (hf : outside [0x0C06] f = true) (hw : f.width = 32) :
    rd (releaseFrag s serial f) f = (rd s f + 1) % 2 ^ 32 := by
  unfold releaseFrag
  rw [(evtTail_touches _).rd_outside hf rfl, rd_bump_same, hw]
  rfl

/-- A transfer that has ended: the fragment is delivered, offered, or released where its REJECT came first. -/
theorem fragmentTransferDone_ends (serial : Nat) (s : State) (f : Fragment) (hfrag : fragOf s serial = some f)
    (hstate : f.state = .transfer) :
    (f.ship.mode < 2 → (ringOf s f.ship.ring).queue.any (fun r => r.src == .fragment serial) = false →
      ∃ t, exec (.fragmentTransferDone serial) s = .next t
        ∧ rd t Obj.EVT_STATUS.DELIVERED = (rd s Obj.EVT_STATUS.DELIVERED + 1) % 2 ^ 32)
    ∧ (2 ≤ f.ship.mode → f.rejected = false →
      ∃ t g, exec (.fragmentTransferDone serial) s = .next t ∧ fragOf t serial = some g ∧ g.state = .offered)
    ∧ (2 ≤ f.ship.mode → f.rejected = true →
      ∃ t, exec (.fragmentTransferDone serial) s = .next t
        ∧ rd t Obj.EVT_STATUS.REJECTED = (rd s Obj.EVT_STATUS.REJECTED + 1) % 2 ^ 32) := by
  have hdone : ¬ (f.ship.mode < 2 ∧ (ringOf s f.ship.ring).queue.any (fun r => r.src == .fragment serial) = true) →
      exec (.fragmentTransferDone serial) s = .next (transferEnds s serial) := fun h => by
    show execFragmentTransferDone serial s = _
    rw [execFragmentTransferDone, hfrag]
    exact if_neg h
  have hends : transferEnds s serial = if f.ship.mode < 2 then releaseFrag s serial Obj.EVT_STATUS.DELIVERED
      else if f.rejected then releaseFrag s serial Obj.EVT_STATUS.REJECTED
      else setFrag s serial (fun x => { x with state := .offered }) := by
    rw [transferEnds, hfrag]
    exact if_pos hstate
  refine ⟨fun hship hsent => ⟨_, hdone (by simp [hsent]), ?_⟩, fun hship hkept =>
      ⟨_, { f with state := .offered }, hdone (by omega), ?_, rfl⟩,
    fun hship hgone => ⟨_, hdone (by omega), ?_⟩⟩
  · rw [hends, if_pos hship]
    exact releaseFrag_counts _ _ _ (by decide) rfl
  · rw [hends, if_neg (by omega), if_neg (by simp [hkept])]
    exact fragOf_setFrag (g := fun x => { x with state := .offered }) hfrag fun _ => rfl
  · rw [hends, if_neg (by omega), if_pos hgone]
    exact releaseFrag_counts _ _ _ (by decide) rfl

theorem fragmentOfferTimer_offers (serial : Nat) (s : State) (f : Fragment) (hfrag : fragOf s serial = some f)
    (hstate : f.state = .offered) :
    ∃ t g, exec (.fragmentOfferTimer serial) s = .next t ∧ fragOf t serial = some g ∧ g.offers = f.offers + 1 := by
  have hagain := fragOf_setFrag (g := fun x => { x with offers := x.offers + 1 }) hfrag fun _ => rfl
  show ∃ t g, execFragmentOfferTimer serial s = .next t ∧ _
  rw [execFragmentOfferTimer, hfrag]
  dsimp only
  rw [if_pos hstate]
  generalize hu : (if f.offers + 1 = 3 then _ else _ : State) = u
  have hsame : fragOf u serial = some { f with offers := f.offers + 1 } := by
    rw [← hu]
    split
    · exact (fragOf_of_frags (by rw [(raise_touches _ _ _ _ _).evt_eq]) _).trans hagain
    · exact hagain
  refine ⟨_, { f with offers := f.offers + 1 }, rfl, ?_, rfl⟩
  split
  · exact (fragOf_shipMessage _ _ _ _ _).trans hsame
  · exact (fragOf_shipMessage _ _ _ _ _).trans hsame

/-! ### Replies (R151, R152) -/

theorem replyCame_touches (s : State) (serial w : Nat) :
    Touches [.axl, .evt, .flt, .notes, .obj 0x0C06] s (replyCame s serial w) :=
        touches_replyCame (.refl _ _) _ _ (by decide)

theorem replyCame_evt (s : State) (serial w : Nat) : (replyCame s serial w).evt
    = { s.evt with frags := updFirst (fun x => x.serial == serial) (fun x => { x with offers := 0 }) s.evt.frags } := by
  unfold replyCame
  rw [(touches_clearFault (.refl [.flt, .notes, .obj 0x0C06] _) _ _ (by decide)).evt_eq, setFrag, setEvt_evt,
    (touches_takeMessage (.refl [.axl] _) _ _ (by decide)).evt_eq]

theorem fragOf_replyCame (s : State) (serial w : Nat) :
    fragOf (replyCame s serial w) serial = (fragOf s serial).map (fun x => { x with offers := 0 }) := by
  unfold fragOf
  rw [replyCame_evt]
  exact find?_updFirst (p := fun x : Fragment => x.serial == serial) (f := fun x => { x with offers := 0 })
    (fun _ hx => hx) _

theorem heldFrag_replyCame (s : State) (serial w : Nat) :
    heldFrag (replyCame s serial w) serial = (heldFrag s serial).map (fun x => { x with offers := 0 }) := by
  unfold heldFrag
  rw [fragOf_replyCame]
  cases fragOf s serial with
  | none => rfl
  | some f =>
    rw [Option.map_some, Option.filter_some, Option.filter_some]
    split
    · rfl
    · rfl

theorem rd_replyCame (s : State) (serial w : Nat) {f : Field} (hf : outside [0x0C06] f = true) :
    rd (replyCame s serial w) f = rd s f := (replyCame_touches s serial w).rd_outside hf rfl

theorem reply_releases (serial : Nat) (s : State) (f : Fragment) (hfrag : fragOf s serial = some f)
    (hstate : f.state = .offered) (hship : 2 ≤ f.ship.mode) :
    (∃ t, exec (.replyAccept serial) s = .next t
      ∧ rd t Obj.EVT_STATUS.DELIVERED = (rd s Obj.EVT_STATUS.DELIVERED + 1) % 2 ^ 32)
    ∧ (∃ t, exec (.replyReject serial) s = .next t
      ∧ rd t Obj.EVT_STATUS.REJECTED = (rd s Obj.EVT_STATUS.REJECTED + 1) % 2 ^ 32) := by
  have hcame := (fragOf_replyCame s serial (rd s Obj.EVT_SHIP.PORT)).trans (congrArg _ hfrag)
  rw [Option.map_some] at hcame
  constructor
  · show ∃ t, execReplyAccept serial s = .next t ∧ _
    rw [execReplyAccept, hcame]
    refine ⟨_, if_pos ⟨hship, .inl hstate⟩, ?_⟩
    rw [releaseFrag_counts _ _ _ (by decide) rfl, rd_replyCame _ _ _ (by decide)]
  · show ∃ t, execReplyReject serial s = .next t ∧ _
    rw [execReplyReject, hcame]
    refine ⟨_, if_pos ⟨hship, hstate⟩, ?_⟩
    rw [releaseFrag_counts _ _ _ (by decide) rfl, rd_replyCame _ _ _ (by decide)]

theorem replyRequest_sends (serial globalId : Nat) (s : State) (f : Fragment) (hfrag : fragOf s serial = some f)
    (hstate : f.state = .offered) (hship : f.ship.mode = 3) :
    ∃ t g, exec (.replyRequest serial globalId) s = .next t ∧ fragOf t serial = some g ∧ g.state = .transfer
      ∧ g.bytes = withGlobalId f.bytes (globalId % 2 ^ 48)
      ∧ t.mem = memWrite s.mem (evtAddr s f.off) (withGlobalId f.bytes (globalId % 2 ^ 48))
      ∧ ∀ a, (a < evtAddr s f.off ∨ evtAddr s f.off + (withGlobalId f.bytes (globalId % 2 ^ 48)).length ≤ a) →
          memGet t.mem a = memGet s.mem a := by
  have hcame := (fragOf_replyCame s serial (rd s Obj.EVT_SHIP.PORT)).trans (congrArg _ hfrag)
  have hheld : heldFrag (replyCame s serial (rd s Obj.EVT_SHIP.PORT)) serial = some { f with offers := 0 } := by
    rw [heldFrag, hcame, Option.map_some, Option.filter_some, if_pos (by simp [hstate])]
  have hmem := (replyCame_touches s serial (rd s Obj.EVT_SHIP.PORT)).mem_eq
  show ∃ t g, execReplyRequest serial globalId s = .next t ∧ _
  rw [execReplyRequest]
  dsimp only
  rw [hheld]
  dsimp only
  rw [if_pos ⟨hship, hstate⟩]
  generalize withGlobalId f.bytes _ = b
  generalize replyCame s serial _ = u at hcame hmem
  have hsent := fragOf_setFrag (g := fun x => { x with state := .transfer, bytes := b })
      (hcame.trans (Option.map_some _ _))
    fun _ => rfl
  have htMem : ∀ v, (shipMessage (storeBytes (setFrag u serial (fun x => { x with state := .transfer, bytes := b }))
      (evtAddr s f.off) b) v 4 b).mem = memWrite s.mem (evtAddr s f.off) b := fun v => by
    rw [(shipMessage_touches _ _ _ _).mem_eq, storeBytes_mem, setFrag, setEvt_mem, hmem]
  refine ⟨_, _, rfl, (fragOf_shipMessage _ _ _ _ _).trans hsent, rfl, rfl, htMem _, fun a ha => ?_⟩
  rw [htMem]
  exact memGet_memWrite_outside a b s.mem _ ha

theorem replyRequest_badMode (serial globalId : Nat) (s : State) (f : Fragment) (hheld : heldFrag s serial = some f)
    (hship : f.ship.mode = 2) :
    ∃ t, exec (.replyRequest serial globalId) s = .next t ∧ t.evt.badRequests = s.evt.badRequests + 1
        ∧ t.mem = s.mem := by
  show ∃ t, execReplyRequest serial globalId s = .next t ∧ _
  rw [execReplyRequest]
  dsimp only
  rw [heldFrag_replyCame, hheld, Option.map_some]
  dsimp only
  rw [if_neg (by simp [hship]), if_pos hship]
  refine ⟨_, rfl, ?_, (replyCame_touches _ _ _).mem_eq⟩
  rw [setEvt_evt, replyCame_evt]

theorem replyRequest_gone (serial globalId : Nat) (s : State) (hnone : heldFrag s serial = none) :
    ∃ t, exec (.replyRequest serial globalId) s = .next t
      ∧ rd t Obj.EVT_STATUS.GONE = (rd s Obj.EVT_STATUS.GONE + 1) % 2 ^ 32 ∧ t.mem = s.mem := by
  have hpost : ∀ u p b, Touches [.axl, .out, .peer, .obj 0x0D05] u (axPost u p 6 b) := fun u p b =>
    touches_axPost (.refl _ _) _ _ _ (by decide)
  show ∃ t, execReplyRequest serial globalId s = .next t ∧ _
  rw [execReplyRequest]
  dsimp only
  rw [heldFrag_replyCame, hnone, Option.map_none]
  refine ⟨_, rfl, ?_, ?_⟩
  · rw [(hpost _ _ _).rd _ _ (by decide) (by decide), rd_bump_same, rd_replyCame _ _ _ (by decide)]
    rfl
  · rw [(hpost _ _ _).mem_eq, bump, wr_mem, (replyCame_touches _ _ _).mem_eq]

/-- Settles O28: each event of the delivery sets the state of the fragment it names, or releases it. -/
theorem fragmentDeliveryComplete : Obligations.FragmentDeliveryComplete :=
  ⟨fun serial s f hfrag hstate hmode hfirst hready => ⟨fragmentSend_sends serial s f hfrag hstate hmode hfirst hready,
      fragmentAnnounce_offers serial s f hfrag hstate hmode hfirst hready⟩,
    fragmentTransferDone_ends, fragmentOfferTimer_offers, reply_releases, replyRequest_sends, replyRequest_badMode,
    replyRequest_gone⟩

end Sys2Proof
end

section
/-! PROOF. Peer (chapter 9): the messages of group synchronization and the data of the group. -/

namespace Sys2Proof

-- one proof at a time, which bounds the memory of the compile
set_option Elab.async false

open Sys2Proof.Machine

/-! ### What a message leaves of the peer data it passes (R191, R200) -/

/-- Only peer packets that wait, and whose turn it is, differ. -/
def PeerSent (s t : State) : Prop := ∃ sends turns, t.peer = { s.peer with sends := sends, turns := turns }

theorem peerSent_refl (s : State) : PeerSent s s := ⟨_, _, rfl⟩

theorem PeerSent.of_eq {s t : State} (h : t.peer = s.peer) : PeerSent s t := ⟨_, _, h⟩

theorem PeerSent.trans {s t u : State} (h : PeerSent s t) (k : PeerSent t u) : PeerSent s u := by
  obtain ⟨_, _, h⟩ := h
  obtain ⟨_, _, k⟩ := k
  exact ⟨_, _, by rw [k, h]⟩

theorem pumpFrames_peer (n : Nat) (s : State) (p : Nat) : (pumpFrames n s p).peer = s.peer :=
  (touches_pumpFrames (.refl [.axl, .out, .obj 0x0D05] s) _ _ (by decide)).peer_eq

theorem peerSent_pumpPeer (n : Nat) (s : State) (p : Nat) : PeerSent s (pumpPeer n s p) := by
  induction n generalizing s with
  | zero => exact peerSent_refl s
  | succ n ih =>
    unfold pumpPeer
    split
    · split
      · dsimp only
        split
        · exact peerSent_refl s
        · exact PeerSent.trans (t := pumpFrames 128 (setAxPort { s with peer := _ } p _) p)
            ⟨_, _, pumpFrames_peer _ _ _⟩ (ih _)
      · exact peerSent_refl s
    · exact peerSent_refl s

theorem peerSent_pump (s : State) (p : Nat) : PeerSent s (pump s p) :=
  .trans (.of_eq (pumpFrames_peer 128 s p)) (peerSent_pumpPeer 64 _ p)

theorem peerSent_axPost (s : State) (p ty : Nat) (b : Bytes) : PeerSent s (axPost s p ty b) := by
  unfold axPost
  split
  · exact peerSent_pump (setAxPort s p _) p
  · split
    · exact .of_eq (by rw [bump, wr_peer])
    · exact peerSent_refl s

theorem peerSent_sendControl (s : State) (m : Nat) (b : Bytes) : PeerSent s (sendControl s m b) :=
  foldl_keeps _ _ (peerSent_refl s) fun _ _ h => h.trans (peerSent_axPost _ _ _ _)

theorem peerSent_passControl (s : State) (l ty : Nat) (m : GroupMessage) : PeerSent s (passControl s l ty m) :=
  .trans (.of_eq (touches_takeMessage (.refl [.axl] s) _ _ (by decide)).peer_eq) (peerSent_sendControl _ _ _)

theorem PeerSent.readies {s t : State} (h : PeerSent s t) : t.peer.readies = s.peer.readies := by
  obtain ⟨_, _, h⟩ := h
  rw [h]

theorem sendControl_touches (s : State) (m : Nat) (b : Bytes) :
    Touches [.axl, .out, .peer, .obj 0x0D05] s (sendControl s m b) := touches_sendControl (.refl _ _) _ _ (by decide)

theorem passControl_touches (s : State) (l ty : Nat) (m : GroupMessage) :
    Touches [.axl, .out, .peer, .obj 0x0D05] s (passControl s l ty m) := touches_passControl (.refl _ _) _ _ _ (by decide)

/-! ### READY (R194) -/

theorem memberNo_of_touches {ps : List Part} {s t : State} (h : Touches ps s t) (hm : Part.modes.within ps = false := by rfl)
    (hc : Part.ctl.within ps = false := by rfl) : memberNo t = memberNo s := by
  unfold memberNo cluster16
  rw [h.modes_eq hm, h.ctl_eq hc]

theorem holdReady_holds (s : State) (r : ReadyHeld) : (holdReady s r).peer.readies.any (fun x => x.member == r.member) = true := by
  simp [holdReady]

theorem holdReady_touches (s : State) (r : ReadyHeld) : Touches [.peer] s (holdReady s r) :=
  touches_holdReady (.refl _ _) _ (by decide)

theorem takeGo_readies (s : State) (sec gspx : Nat) : (takeGo s sec gspx).peer.readies = s.peer.readies := by
  unfold takeGo
  split
  · split
    · rw [(forceIdle_touches s _ _).peer_eq]
    · rw [setPeerStage, wr_peer, setPeer_peer]
  · split
    · rfl
    · rfl

theorem goSend_readies (s : State) : (goSend s).peer.readies = s.peer.readies :=
  (takeGo_readies _ _ _).trans (peerSent_sendControl _ _ _).readies

theorem peerReadyTimer_repeats (s : State) (hstage : peerStage s = 2) :
    ∃ t, exec .peerReadyTimer s = .next t ∧ modeOf t = modeOf s
      ∧ (memberNo s = 0 → t.peer.readies.any (fun r => r.member == 0) = true)
      ∧ (memberNo s ≠ 0 → peerStage t = 2 ∧ t.peer.readies = s.peer.readies) := by
  obtain ⟨hkept, -⟩ := sendReady_waits s hstage
  refine ⟨_, if_pos hstage, hkept.mode, fun h => ?_, fun h => ?_⟩
  · have hs := sendControl_touches s (memberNo s) (ownControl s 1 0 0)
    have hown : (ownReady (sendControl s (memberNo s) (ownControl s 1 0 0))).member = 0 := (memberNo_of_touches hs).trans h
    have hheld := holdReady_holds (sendControl s (memberNo s) (ownControl s 1 0 0))
      (ownReady (sendControl s (memberNo s) (ownControl s 1 0 0)))
    rw [hown] at hheld
    unfold sendReady
    dsimp only
    rw [if_pos h]
    split
    · rw [goSend_readies]
      exact hheld
    · exact hheld
  · have hs := sendControl_touches s (memberNo s) (ownControl s 1 0 0)
    unfold sendReady
    dsimp only
    rw [if_neg h]
    exact ⟨(peerStage_of_touches hs).trans hstage, (peerSent_sendControl _ _ _).readies⟩

theorem bit_setBit_same (n i : Nat) : bit (setBit n i true) i = true := by
  simp [bit, setBit]

/-- The state in which READY of a member has been passed on, and noted where the group runs. -/
theorem groupReady_noted (l : Fin 16) (m : GroupMessage) (s : State) :
    ∃ u, Touches [.axl, .out, .peer, .obj 0x0D05] s u ∧ (peerStage s = 4 → bit u.peer.newcomers (m.member % 16) = true)
      ∧ execGroupReady l m s = (if memberNo s = 0 ∧ 2 ≤ peerStage s ∧ peerStage s ≤ 4 then
          if readyAgrees s ⟨m.member % 16, m.geom, m.kFirst, m.frameOk⟩ then
            if peerStage s = 4 then .next (goSend (holdReady u ⟨m.member % 16, m.geom, m.kFirst, m.frameOk⟩))
            else if peerStage s = 2 ∧ allReady (holdReady u ⟨m.member % 16, m.geom, m.kFirst, m.frameOk⟩) then
              .next (goSend (holdReady u ⟨m.member % 16, m.geom, m.kFirst, m.frameOk⟩))
            else .next (holdReady u ⟨m.member % 16, m.geom, m.kFirst, m.frameOk⟩)
          else .next (raise (holdReady u ⟨m.member % 16, m.geom, m.kFirst, m.frameOk⟩) 0x0803 (m.member % 16) (m.member % 16) 0)
        else .next u) := by
  have hs := passControl_touches s l 1 m
  refine ⟨_, .ite (touches_setPeer hs _ (by decide)) hs, fun h => ?_, rfl⟩
  rw [if_pos h]
  exact bit_setBit_same _ _

theorem groupReady_leader (l : Fin 16) (m : GroupMessage) (s : State) (hlead : memberNo s = 0) (hlow : 2 ≤ peerStage s)
    (hhigh : peerStage s ≤ 4) :
    ∃ t, exec (.groupReady l m) s = .next t ∧ t.peer.readies.any (fun r => r.member == m.member % 16) = true
      ∧ (readyAgrees s ⟨m.member % 16, m.geom, m.kFirst, m.frameOk⟩ = false → s.flt.active.length < 1024 →
          faultActive t 0x0803 (m.member % 16) = true ∧ peerStage t = peerStage s) := by
  obtain ⟨u, hu, -, hexec⟩ := groupReady_noted l m s
  show ∃ t, execGroupReady l m s = .next t ∧ _
  rw [hexec, if_pos ⟨hlead, hlow, hhigh⟩]
  generalize hr : ReadyHeld.mk _ _ _ _ = r
  have hmember : r.member = m.member % 16 := by rw [← hr]
  have hheld := holdReady_holds u r
  rw [hmember] at hheld
  have hh := (holdReady_touches u r)
  generalize holdReady u r = v at hheld hh
  by_cases hagree : readyAgrees s r = true
  · rw [if_pos hagree]
    have hsent : (goSend v).peer.readies.any (fun x => x.member == m.member % 16) = true := by rw [goSend_readies]; exact hheld
    have hno : ∀ {p : Prop}, readyAgrees s r = false → p := fun h => absurd (hagree.symm.trans h) (by decide)
    split
    · exact ⟨_, rfl, hsent, fun h => hno h⟩
    · split
      · exact ⟨_, rfl, hsent, fun h => hno h⟩
      · exact ⟨_, rfl, hheld, fun h => hno h⟩
  · rw [if_neg hagree]
    have hraise : Touches [.flt, .notes, .obj 0x0C06] v (raise v 0x0803 (m.member % 16) (m.member % 16) 0) :=
      touches_raise_plain (.refl _ _) (by decide) _ _ _ (by decide)
    refine ⟨_, rfl, hraise.peer_eq ▸ hheld, fun _ hroom => ⟨raise_active _ _ _ _ _ ?_, ?_⟩⟩
    · rw [hh.flt_eq, hu.flt_eq]
      exact hroom
    · rw [peerStage_of_touches hraise, peerStage_of_touches hh, peerStage_of_touches hu]

theorem groupReady_newcomer (l : Fin 16) (m : GroupMessage) (s : State) (hmember : memberNo s ≠ 0)
    (hstage : peerStage s = 4) :
    ∃ t, exec (.groupReady l m) s = .next t ∧ bit t.peer.newcomers (m.member % 16) = true ∧ peerStage t = 4 := by
  obtain ⟨u, hu, hnoted, hexec⟩ := groupReady_noted l m s
  show ∃ t, execGroupReady l m s = .next t ∧ _
  rw [hexec, if_neg fun h => hmember h.1]
  exact ⟨u, rfl, hnoted hstage, (peerStage_of_touches hu).trans hstage⟩

/-! ### GO (R195) -/

theorem takeGo_fixes (s : State) (sec gspx : Nat) (hstage : peerStage s = 2) (hsec : s.time.civil < sec * nsSecond) :
    peerStage (takeGo s sec gspx) = 3 ∧ (takeGo s sec gspx).peer.goSec = sec ∧ (takeGo s sec gspx).peer.goGspx = gspx := by
  unfold takeGo
  rw [if_pos hstage, if_neg (by omega)]
  refine ⟨rd_wr_same _ _ _ _, ?_, ?_⟩
  · rw [setPeerStage, wr_peer, setPeer_peer]
  · rw [setPeerStage, wr_peer, setPeer_peer]

theorem takeGo_late (s : State) (sec gspx : Nat) (hstage : peerStage s = 2) (hsec : sec * nsSecond ≤ s.time.civil) :
    phaseOf (takeGo s sec gspx) = .aborting ∧ modeTarget (takeGo s sec gspx) = .idle := by
  unfold takeGo
  rw [if_pos hstage, if_pos hsec]
  exact forceIdle_turns s 1 0x0011

theorem takeGo_running (s : State) (sec gspx : Nat) (hstage : peerStage s = 4) : (takeGo s sec gspx).peer.newcomers = 0
    ∧ ∀ j < 16, bit s.peer.newcomers j = true → mapGet (takeGo s sec gspx).peer.rejoin j = gspx + 1 := by
  unfold takeGo
  rw [if_neg (by omega), if_pos hstage]
  refine ⟨rfl, fun j hj hbit => ?_⟩
  rw [setPeer_peer]
  refine foldl_range_at (P := fun _ => True) _ (fun r => mapGet r j) hj trivial (fun _ _ _ => trivial) (fun r k _ hk => ?_)
    fun r _ => ?_
  · split
    · exact mapGet_mapSet_ne _ _ (Ne.symm hk)
    · rfl
  · rw [if_pos hbit, mapGet_mapSet_same]

theorem groupGo_goes (l : Fin 16) (m : GroupMessage) (s : State) :
    (peerStage s = 2 → s.time.civil < m.sec * nsSecond →
      ∃ t, exec (.groupGo l m) s = .next t ∧ peerStage t = 3 ∧ t.peer.goSec = m.sec
        ∧ t.peer.goGspx = m.gspx % 2 ^ 32)
    ∧ (peerStage s = 2 → m.sec * nsSecond ≤ s.time.civil →
      ∃ t, exec (.groupGo l m) s = .next t ∧ phaseOf t = .aborting ∧ modeTarget t = .idle)
    ∧ (peerStage s = 4 →
      ∃ t, exec (.groupGo l m) s = .next t ∧ t.peer.newcomers = 0
        ∧ ∀ j < 16, bit s.peer.newcomers j = true → mapGet t.peer.rejoin j = m.gspx % 2 ^ 32 + 1) := by
  have hs := passControl_touches s l 2 m
  have hstage := peerStage_of_touches hs
  have htime := hs.time_eq
  refine ⟨fun h hsec => ⟨_, rfl, takeGo_fixes _ _ _ (hstage.trans h) (by rw [htime]; exact hsec)⟩,
    fun h hsec => ⟨_, rfl, takeGo_late _ _ _ (hstage.trans h) (by rw [htime]; exact hsec)⟩, fun h => ⟨_, rfl, ?_⟩⟩
  obtain ⟨_, _, hpeer⟩ := peerSent_passControl s l 2 m
  obtain ⟨hnew, hback⟩ := takeGo_running (passControl s l 2 m) m.sec (m.gspx % 2 ^ 32) (hstage.trans h)
  rw [hpeer] at hback
  exact ⟨hnew, hback⟩

/-! ### STOP and LEAVE (R196, R197) -/

theorem groupStop_stops (l : Fin 16) (m : GroupMessage) (s : State) :
    (peerStage s = 4 → ∃ t, exec (.groupStop l m) s = .next t ∧ peerStage t = 5
      ∧ t.peer.stopAt = some (m.gspx % 2 ^ 32) ∧ t.peer.byLeader = true)
    ∧ (peerStage s = 2 ∨ peerStage s = 3 → ∃ t, exec (.groupStop l m) s = .next t ∧ peerStage t = 0
      ∧ phaseOf t = .aborting ∧ modeTarget t = .idle) := by
  refine ⟨fun h => ⟨_, if_pos h, rd_wr_same _ _ _ _, ?_, ?_⟩, fun h => ⟨_, (if_neg (by omega)).trans (if_pos h), ?_,
    forceIdle_turns _ _ _⟩⟩
  · rw [setPeerStage, wr_peer, setPeer_peer]
  · rw [setPeerStage, wr_peer, setPeer_peer]
  · exact (peerStage_of_touches (forceIdle_touches _ _ _)).trans (rd_wr_same _ _ _ _)

theorem groupLeave_leaves (l : Fin 16) (m : GroupMessage) (s : State) (h : 4 ≤ peerStage s) :
    ∃ t, exec (.groupLeave l m) s = .next t ∧ mapGet t.peer.left (m.member % 16) = m.gspx % 2 ^ 32 + 1 :=
  ⟨_, if_pos h, by rw [setPeer_peer, mapGet_mapSet_same]⟩

/-- Settles O31: a message is passed on, which leaves the group's own state, and then its kind sets what it says. -/
theorem groupMessagesComplete : Obligations.GroupMessagesComplete :=
  ⟨peerReadyTimer_repeats, fun l m s => ⟨groupReady_leader l m s, groupReady_newcomer l m s⟩, groupGo_goes,
    groupStop_stops, groupLeave_leaves⟩


/-! ### Packets (R191, R198, R201) -/

theorem openGroup_open {s : State} {g : Nat} (h : s.peer.buffers.any (fun b => b.g0 == groupOf g) = true) :
    openGroup s g = s := if_pos h

theorem openGroup_heard (s : State) (g : Nat) : (openGroup s g).peer.heard = s.peer.heard := by
  unfold openGroup
  dsimp only
  split
  · rfl
  · split
    · rfl
    · rfl

theorem storeWords_peer (s : State) (k : Nat) (b : Bytes) (poison : Bool) : (storeWords s k b poison).peer = s.peer :=
  (touches_storeWords (.refl [.flt, .fst, .mem] s) _ _ _ (by decide)).peer_eq

theorem placePeer_heard (s : State) (g m valid : Nat) (data : List (List Nat)) (poison : Bool) :
    (placePeer s g m valid data poison).2.peer.heard = s.peer.heard := by
  unfold placePeer
  dsimp only
  split
  · exact openGroup_heard s g
  · dsimp only
    rw [setPeer_peer, foldl_same _ State.peer _ _ fun _ _ _ => storeWords_peer _ _ _ _]
    exact openGroup_heard s g

/-- A packet whose group is open is placed. -/
theorem placePeer_placed (s : State) (g m valid : Nat) (data : List (List Nat)) (poison : Bool)
    (h : s.peer.buffers.any (fun b => b.g0 == groupOf g) = true) : (placePeer s g m valid data poison).1 = true := by
  obtain ⟨b, hb⟩ : ∃ b, s.peer.buffers.find? (fun b => b.g0 == groupOf g) = some b := by
    rw [List.any_eq_true] at h
    exact Option.isSome_iff_exists.1 (List.find?_isSome.2 h)
  unfold placePeer
  dsimp only
  rw [openGroup_open h, hb]

theorem placePeer_touches (s : State) (g m valid : Nat) (data : List (List Nat)) (poison : Bool) :
    Touches [.flt, .fst, .mem, .peer] s (placePeer s g m valid data poison).2 :=
  touches_placePeer (.refl _ _) _ _ _ _ _ (by decide)

theorem memberBack_buffers (s : State) (m : Nat) : (memberBack s m).peer.buffers = s.peer.buffers := by
  unfold memberBack
  dsimp only
  rw [setPeer_peer]
  split
  · rfl
  · rw [(touches_endFault (.refl [.flt] _) _ _ (by decide)).peer_eq, wr_peer]

theorem peerPacket_takes (l : Fin 16) (k : PeerPacket) (s : State) (hdst : k.dst % 16 = memberNo s)
    (hdata : peerDataAt s (k.gspx % 2 ^ 32) = true) (hmember : memberCounts s (k.src % 16) (k.gspx % 2 ^ 32) = true) :
    ∃ t, exec (.peerPacket l k) s = .next t ∧ mapGet t.peer.heard (k.src % 16) = k.gspx % 2 ^ 32
      ∧ (0 ≤ spxDist (groupOf (k.gspx % 2 ^ 32)) s.peer.nextClose →
          s.peer.buffers.any (fun b => b.g0 == groupOf (k.gspx % 2 ^ 32)) = true →
          rd t Obj.PEER_MEMBER.RECEIVED (k.src % 16)
            = (rd s Obj.PEER_MEMBER.RECEIVED (k.src % 16) + 1) % 2 ^ Obj.PEER_MEMBER.RECEIVED.width)
      ∧ (spxDist (groupOf (k.gspx % 2 ^ 32)) s.peer.nextClose < 0 →
          rd t Obj.PEER_MEMBER.LATE (k.src % 16)
            = (rd s Obj.PEER_MEMBER.LATE (k.src % 16) + 1) % 2 ^ Obj.PEER_MEMBER.LATE.width) := by
  show ∃ t, execPeerPacket l k s = .next t ∧ _
  rw [execPeerPacket]
  dsimp only
  rw [if_neg (by simp [hdst]), if_pos (by rw [hdata, hmember]; rfl)]
  generalize k.gspx % 2 ^ 32 = g
  generalize k.src % 16 = m
  generalize hu : (if (memberLive s m && decide (mapGet s.peer.left m = 0)) = true then _ else _ : State) = u
  have hback : Touches [.axl, .flt, .peer, .obj 0x0802] s u ∧ u.peer.buffers = s.peer.buffers := by
    have htake : Touches [.axl] s (takeMessage s l 1) := touches_takeMessage (.refl _ _) _ _ (by decide)
    rw [← hu]
    split
    · exact ⟨htake.mono (by decide), by rw [htake.peer_eq]⟩
    · exact ⟨touches_memberBack (htake.mono (by decide)) _ (by decide), by rw [memberBack_buffers, htake.peer_eq]⟩
  obtain ⟨htouch, hbuffers⟩ := hback
  generalize hv : setPeer u _ = v
  have hheard : Touches [.peer] u v ∧ mapGet v.peer.heard m = g ∧ v.peer.buffers = s.peer.buffers := by
    rw [← hv]
    exact ⟨touches_setPeer (.refl _ _) _ (by decide), by rw [setPeer_peer, mapGet_mapSet_same], hbuffers⟩
  obtain ⟨hset, hheard, hbuf⟩ := hheard
  have hrd : ∀ f : Field, outside [0x0802] f = true → rd v f m = rd s f m := fun f hf =>
    (hset.rd_outside hf rfl).trans (htouch.rd_outside hf rfl)
  by_cases hlate : spxDist (groupOf g) s.peer.nextClose < 0
  · rw [if_pos hlate]
    refine ⟨_, rfl, ?_, fun h => absurd h (by omega), fun _ => ?_⟩
    · rw [(raise_touches _ _ _ _ _).peer_eq, bump, wr_peer]
      exact hheard
    · rw [rd_raise _ _ _ _ _ _ (by decide), rd_bump_same, hrd _ (by decide)]
  · rw [if_neg hlate]
    generalize (List.range (peerChannels s)).map _ = data
    have hplace := placePeer_touches v g m k.valid data false
    refine ⟨_, rfl, ?_, fun _ hopen => ?_, fun h => absurd h hlate⟩
    · have hpeer : mapGet (placePeer v g m k.valid data false).2.peer.heard m = g := by rw [placePeer_heard, hheard]
      split
      · rw [bump, wr_peer]
        exact hpeer
      · exact hpeer
    · rw [if_pos (placePeer_placed _ _ _ _ _ _ (hbuf ▸ hopen)), rd_bump_same, hplace.rd _ _ (by decide) (by decide),
        hrd _ (by decide)]

theorem peerPacket_waits (l : Fin 16) (k : PeerPacket) (s : State) (hdst : k.dst % 16 ≠ memberNo s)
    (hfull : 32 ≤ sendsFor s (packetRoute s (k.gspx % 2 ^ 32) (some (l.val / 4)) (k.dst % 16))) :
    exec (.peerPacket l k) s = .next s :=
  (if_pos hdst).trans (if_neg (by omega))

/-! ### Groups that close, packets that grow old, members that are lost (R201 to R203) -/

theorem closeGroup_peer (s : State) : (closeGroup s).peer = { s.peer with
    nextClose := (s.peer.nextClose + 64) % 2 ^ 32
    buffers := s.peer.buffers.filter (fun b => b.g0 != s.peer.nextClose)
    full := s.peer.full ++ s.peer.buffers.filter (fun b => b.g0 == s.peer.nextClose) } := by
  unfold closeGroup
  dsimp only
  rw [(touches_clockStarts (.refl [.mov, .pwr, .obj 0x1106] _) _ (by decide)).peer_eq, setPeer_peer, foldl_same _ State.peer]
  intro t m _
  split
  · rfl
  · rw [(raise_touches _ _ _ _ _).peer_eq, bump, wr_peer]

theorem peerBufferClose_closes (s : State) (hdata : peerDataAt s s.peer.nextClose = true) (hn : 0 < s.chz.nextN)
    (hage : 127 ≤ spxDist (toGroupSpx s (s.chz.nextN - 1)) s.peer.nextClose) :
    ∃ t, exec .peerBufferClose s = .next t ∧ t.peer.nextClose = (s.peer.nextClose + 64) % 2 ^ 32
      ∧ t.peer.full = s.peer.full ++ s.peer.buffers.filter (fun b => b.g0 == s.peer.nextClose) := by
  refine ⟨_, if_pos (by rw [hdata, decide_eq_true hn, decide_eq_true hage]; rfl), ?_⟩
  rw [closeGroup_peer]
  exact ⟨rfl, rfl⟩

theorem peerTake_nothing (n : Nat) {s : State} (h : s.peer.input = []) : peerTake n s = s := by
  cases n with
  | zero => rfl
  | succ n => rw [peerTake, h]

theorem peerSendAgeDiscard_drops (s : State) (r : PeerSend × List PeerSend) (hold : takeFirst (fun x : PeerSend =>
      decide (0 < s.chz.nextN) && decide (64 ≤ spxDist (toGroupSpx s (s.chz.nextN - 1)) x.gspx)) s.peer.sends = some r) :
    ∃ t, exec .peerSendAgeDiscard s = .next t ∧ (s.peer.input = [] → t.peer.sends = r.2)
      ∧ rd t Obj.PEER_MEMBER.SEND_DROPPED r.1.dst
          = (rd s Obj.PEER_MEMBER.SEND_DROPPED r.1.dst + 1) % 2 ^ Obj.PEER_MEMBER.SEND_DROPPED.width := by
  show ∃ t, execPeerSendAgeDiscard s = .next t ∧ _
  rw [execPeerSendAgeDiscard, hold]
  dsimp only
  generalize hu : raise _ 0x0802 r.1.dst r.1.dst r.1.gspx = u
  have hpeer : u.peer = { s.peer with sends := r.2 } := by
    rw [← hu, (raise_touches _ _ _ _ _).peer_eq, bump, wr_peer, setPeer_peer]
  have hcount : rd u Obj.PEER_MEMBER.SEND_DROPPED r.1.dst
      = (rd s Obj.PEER_MEMBER.SEND_DROPPED r.1.dst + 1) % 2 ^ Obj.PEER_MEMBER.SEND_DROPPED.width := by
    rw [← hu, rd_raise _ _ _ _ _ _ (by decide), rd_bump_same, rd_setPeer]
  have htake : Touches [.axl, .flt, .fst, .mem, .mov, .out, .peer, .obj 0x0D05] u (peerTake 2 u) :=
    touches_peerTake (.refl _ _) _ (by decide)
  refine ⟨_, rfl, fun hin => ?_, (htake.rd _ _ (by decide) (by decide)).trans hcount⟩
  rw [peerTake_nothing 2 (by rw [hpeer]; exact hin), hpeer]

theorem bit_setBit_clear (n i : Nat) : bit (setBit n i false) i = false := by
  simp [bit, setBit]

theorem peerMemberLost_loses (m : Fin 16) (s : State) (hstage : peerStage s = 4) (hother : m.val ≠ memberNo s)
    (hmember : m.val < memberCount s) (hlive : memberLive s m = true) (hleft : mapGet s.peer.left m = 0)
    (hsilent : 1024 ≤ spxDist (gspxNow s) (mapGet s.peer.heard m)) :
    ∃ t, exec (.peerMemberLost m) s = .next t ∧ memberLive t m = false
      ∧ (s.flt.active.length < 1024 → faultActive t 0x0806 m = true) := by
  refine ⟨_, if_pos ⟨hstage, hother, hmember, hlive, hleft, hsilent⟩, ?_, fun hroom => raise_active _ _ _ _ _ ?_⟩
  · rw [memberLive, rd_raise _ _ _ _ _ _ (by decide), rd_wr_same, bit, Nat.testBit_mod_two_pow]
    have := bit_setBit_clear (rd s Obj.PEER_STATUS.LIVE) m
    rw [bit] at this
    rw [this, Bool.and_false]
  · rw [wr_flt, setPeer_flt]
    exact hroom

/-- Settles O32: what a packet, a closing group or a silent member changes, field by field. -/
theorem peerDataComplete : Obligations.PeerDataComplete :=
  ⟨peerPacket_takes, peerPacket_waits, peerBufferClose_closes, peerSendAgeDiscard_drops, peerMemberLost_loses⟩

end Sys2Proof
end

section
/-! PROOF. The concentrator (chapter 9): arrivals, contexts that close, events that leave. -/

namespace Sys2Proof

-- one proof at a time, which bounds the memory of the compile
set_option Elab.async false

open Sys2Proof.Machine

/-! ### Contexts in their list -/

theorem getElem?_upd_same {α : Type} (xs : List α) (k : Nat) (f : α → α) : (upd xs k f)[k]? = xs[k]?.map f := by
  induction xs generalizing k with
  | nil => rfl
  | cons x xs ih =>
    cases k with
    | zero => rfl
    | succ k => exact ih k

theorem eraseIdx_upd {α : Type} (xs : List α) (k : Nat) (f : α → α) : (upd xs k f).eraseIdx k = xs.eraseIdx k := by
  induction xs generalizing k with
  | nil => rfl
  | cons x xs ih =>
    cases k with
    | zero => rfl
    | succ k => exact congrArg (x :: ·) (ih k)

/-- Where nothing in the list has a property, it is found at the entry that gains it. -/
theorem findIdx?_upd {α : Type} {p : α → Bool} {f : α → α} {xs : List α} {k : Nat} {x : α} (hno : ∀ y ∈ xs, p y = false)
    (hx : xs[k]? = some x) (hf : p (f x) = true) : (upd xs k f).findIdx? p = some k := by
  induction xs generalizing k with
  | nil => cases hx
  | cons y xs ih =>
    cases k with
    | zero =>
      cases hx
      simp [upd, List.findIdx?_cons, hf]
    | succ k =>
      have h := ih (k := k) (fun z hz => hno z (List.mem_cons_of_mem _ hz)) hx
      simp [upd, List.findIdx?_cons, hno y List.mem_cons_self, h]

theorem mapGet_filter_range (m : SMap) {lo hi x : Nat} (hlo : lo ≤ x) (hhi : x < hi) :
    mapGet (m.filter (fun p => decide (lo ≤ p.1) && decide (p.1 < hi))) x = mapGet m x := by
  induction m with
  | nil => rfl
  | cons p m ih =>
    obtain ⟨k, v⟩ := p
    by_cases hk : lo ≤ k ∧ k < hi
    · rw [List.filter_cons_of_pos (by simp [hk]), mapGet, mapGet, ih]
    · rw [List.filter_cons_of_neg (by simpa using hk), ih, mapGet, if_neg (by omega)]

/-- The configuration that an open context keeps is the one in force when it opened (R215). -/
theorem concCfg_frontMask (s : State) : fieldGet (concCfg s) Obj.PEER_CONC.FRONT_MASK 0 = rd s
    Obj.PEER_CONC.FRONT_MASK := by
  unfold concCfg rd fieldGet
  rw [mapGet_filter_range _ (by decide) (by decide)]

theorem concLevels_touches (s : State) : Touches [.flt, .notes, .obj 0x0808, .obj 0x0C06] s (concLevels s) :=
  touches_concLevels (.refl _ _) (by decide)

/-- The number of open contexts shows; the other counters stay. -/
theorem rd_concLevels (s : State) {f : Field} (ho : outside [0x0C06] f = true)
    (hf : apart Obj.PEER_CONC_STATUS.OPEN f = true) : rd (concLevels s) f = rd s f := by
  unfold concLevels
  dsimp only
  split
  · rw [(touches_clearFault (.refl [.flt, .notes, .obj 0x0C06] _) _ _ (by decide)).rd_outside ho rfl]
    exact rd_wr_apart _ _ _ _ hf
  · exact rd_wr_apart _ _ _ _ hf

theorem concReply_touches (s : State) (ty : Nat) (p : Contribution) (gid : Nat) :
    Touches [.axl, .out, .peer, .obj 0x0D05] s (concReply s ty p gid) := touches_concReply (.refl _ _) _ _ _ (by decide)

/-! ### Arrivals (R204 to R206) -/

theorem concArrival_late (s : State) (l : Nat) (a : Arrival) (whole : Bool) (hfetch : fetchingOf s a = none)
    (hjoin : joinWhich s a = none) {e : ClosedEvent} (hclosed : closedMatch s a = some e)
        (hdone : stillFetching s e = none) :
    rd (concArrival s l a whole) Obj.PEER_CONC_STATUS.LATE
      = (rd s Obj.PEER_CONC_STATUS.LATE + 1) % 2 ^ Obj.PEER_CONC_STATUS.LATE.width := by
  unfold concArrival
  dsimp only
  rw [hfetch, hjoin, hclosed]
  dsimp only
  rw [hdone]
  dsimp only
  rw [(concReply_touches _ _ _ _).rd _ _ (by decide) (by decide), rd_raise _ _ _ _ _ _ (by decide), rd_bump_same]

theorem concArrival_full (s : State) (l : Nat) (a : Arrival) (whole : Bool) (hfetch : fetchingOf s a = none)
    (hjoin : joinWhich s a = none) (hclosed : closedMatch s a = none) (hopen : eventsOpen s = true)
    (hfull : 8192 ≤ s.conc.opened.length) : (concArrival s l a whole).conc = s.conc
      ∧ rd (concArrival s l a whole) Obj.PEER_CONC_STATUS.CONTEXT_FULL
        = (rd s Obj.PEER_CONC_STATUS.CONTEXT_FULL + 1) % 2 ^ Obj.PEER_CONC_STATUS.CONTEXT_FULL.width := by
  unfold concArrival
  dsimp only
  rw [hfetch, hjoin, hclosed]
  dsimp only
  rw [if_neg (by simp [hopen]), if_neg (by omega)]
  exact ⟨by rw [(raise_touches _ _ _ _ _).conc_eq, bump, wr_conc],
    by rw [rd_raise _ _ _ _ _ _ (by decide), rd_bump_same]⟩

/-- A context is not closed at its opening where another chip is still expected. -/
theorem closeIfWhole_waits {s : State} {k : Nat} {c : EventContext} (hc : s.conc.opened[k]? = some c)
    (htimed : c.untimed = false)
    (hmore : ∃ m < 16, bit (c.get Obj.PEER_CONC.FRONT_MASK) m = true ∧ c.has m = false) : closeIfWhole s k = s := by
  obtain ⟨m, hm, hbit, hhas⟩ := hmore
  unfold closeIfWhole
  rw [hc]
  dsimp only
  refine if_neg fun h => ?_
  rw [htimed, Bool.false_or, List.all_eq_true] at h
  simpa [hbit, hhas] using h m (List.mem_range.2 hm)

theorem concArrival_opens (s : State) (l : Nat) (a : Arrival) (whole : Bool) (hfetch : fetchingOf s a = none)
    (hjoin : joinWhich s a = none) (hclosed : closedMatch s a = none) (hopen : eventsOpen s = true)
    (hroom : s.conc.opened.length < 8192) (htimed : bit a.time 0 = true)
    (hmore : ∃ m < 16, bit (rd s Obj.PEER_CONC.FRONT_MASK) m = true ∧ m ≠ a.chip % 16) :
    ∃ d, (concArrival s l a whole).conc.opened = s.conc.opened ++ [d] ∧ d.timeFirst = a.time
      ∧ d.openedAt = s.time.rc64 ∧ d.parts.length = 1 := by
  unfold concArrival
  dsimp only
  rw [hfetch, hjoin, hclosed]
  dsimp only
  rw [if_neg (by simp [hopen]), if_pos hroom]
  generalize hc : EventContext.mk .. = c
  have hopened : (concLevels (setConc s (fun x => { x with opened := x.opened ++ [c] }))).conc.opened
      = s.conc.opened ++ [c] := by rw [(concLevels_touches _).conc_eq, setConc_conc]
  obtain ⟨m, hm, hbit, hne⟩ := hmore
  rw [closeIfWhole_waits (c := c) (by rw [hopened, List.getElem?_concat_length]) (by rw [← hc]; simp [htimed])
    ⟨m, hm, by rw [← hc, EventContext.get, concCfg_frontMask, hbit],
      by rw [← hc]; simp [EventContext.has, contribution, Ne.symm hne]⟩]
  exact ⟨c, hopened, by rw [← hc], by rw [← hc], by rw [← hc]; rfl⟩

theorem arrival_handled (l : Fin 16) (a : Arrival) (s : State) (c : Instr)
    (hc : c = .concFragmentArrival l a ∨ c = .concAnnouncementArrival l a) (hmode : modeOf s = .concentrate) :
    ∃ u whole, Touches [.axl] s u ∧ exec c s = .next (concArrival u l a whole) := by
  obtain rfl | rfl := hc
  · exact ⟨_, true, touches_takeMessage (.refl _ _) _ _ (by decide), if_pos hmode⟩
  · exact ⟨_, false, touches_takeMessage (.refl _ _) _ _ (by decide), if_pos hmode⟩

theorem arrival_matches_nothing (l : Fin 16) (a : Arrival) (s : State) (c : Instr)
    (hc : c = .concFragmentArrival l a ∨ c = .concAnnouncementArrival l a) (hmode : modeOf s = .concentrate)
    (hfetch : fetchingOf s a = none) (hjoin : joinWhich s a = none) :
    (∀ e, closedMatch s a = some e → stillFetching s e = none →
      ∃ t, exec c s = .next t
        ∧ rd t Obj.PEER_CONC_STATUS.LATE = (rd s Obj.PEER_CONC_STATUS.LATE + 1) % 2 ^ Obj.PEER_CONC_STATUS.LATE.width)
    ∧ (closedMatch s a = none → eventsOpen s = true → s.conc.opened.length < 8192 → bit a.time 0 = true →
      (∃ m < 16, bit (rd s Obj.PEER_CONC.FRONT_MASK) m = true ∧ m ≠ a.chip % 16) →
      ∃ t d, exec c s = .next t ∧ t.conc.opened = s.conc.opened ++ [d] ∧ d.timeFirst = a.time
        ∧ d.openedAt = s.time.rc64 ∧ d.parts.length = 1)
    ∧ (closedMatch s a = none → eventsOpen s = true → 8192 ≤ s.conc.opened.length →
      ∃ t, exec c s = .next t ∧ t.conc = s.conc
        ∧ rd t Obj.PEER_CONC_STATUS.CONTEXT_FULL
            = (rd s Obj.PEER_CONC_STATUS.CONTEXT_FULL + 1) % 2 ^ Obj.PEER_CONC_STATUS.CONTEXT_FULL.width) := by
  obtain ⟨u, whole, hu, hexec⟩ := arrival_handled l a s c hc hmode
  have hconc := hu.conc_eq
  have hrd : ∀ f : Field, f.lo < 4096 → rd u f = rd s f := fun f hf => hu.rd f _ hf rfl
  have hfetch' : fetchingOf u a = none := by rw [fetchingOf, hconc]; exact hfetch
  have hjoin' : joinWhich u a = none := by rw [joinWhich, hconc]; exact hjoin
  have hclosed : closedMatch u a = closedMatch s a := by rw [closedMatch, hconc]; rfl
  have hopen : eventsOpen u = eventsOpen s := by
    unfold eventsOpen
    rw [(ModeKept.of_touches hu).phase, hrd _ (by decide)]
  refine ⟨fun e hmatch hdone => ⟨_, hexec, ?_⟩, fun hnone hop hroom htimed hmore => ?_, fun hnone hop hfull =>
      ⟨_, hexec, ?_⟩⟩
  · rw [concArrival_late u l a whole hfetch' hjoin' (hclosed.trans hmatch) (by rw [stillFetching, hconc]; exact hdone),
      hrd _ (by decide)]
  · obtain ⟨d, hd, htime, hat, hlen⟩ := concArrival_opens u l a whole hfetch' hjoin' (hclosed.trans hnone)
      (hopen.trans hop) (by rw [hconc]; exact hroom) htimed (by rw [hrd _ (by decide)]; exact hmore)
    exact ⟨_, d, hexec, by rw [hd, hconc], htime, by rw [hat, hu.time_eq], hlen⟩
  · obtain ⟨hkept, hcount⟩ := concArrival_full u l a whole hfetch' hjoin' (hclosed.trans hnone)
      (hopen.trans hop) (by rw [hconc]; exact hfull)
    exact ⟨by rw [hkept, hconc], by rw [hcount, hrd _ (by decide)]⟩

/-! ### Events on their way out (R210, R211) -/

/-- What the delivery of events leaves: the closed events, and every counter but those of its own outcome. -/
def EventsKept (s t : State) : Prop :=
  t.conc.closed = s.conc.closed ∧ rd t Obj.PEER_CONC_STATUS.ACCEPTED = rd s Obj.PEER_CONC_STATUS.ACCEPTED

theorem eventsKept_refl (s : State) : EventsKept s s := ⟨rfl, rfl⟩

theorem EventsKept.trans {s t u : State} (h : EventsKept s t) (k : EventsKept t u) : EventsKept s u :=
  ⟨k.1.trans h.1, k.2.trans h.2⟩

theorem EventsKept.of_touches {ps : List Part} {s t : State} (h : Touches ps s t)
    (hc : Part.conc.within ps = false := by rfl)
    (ho : (Part.obj 0x0808).within ps = false := by rfl) : EventsKept s t :=
  ⟨by rw [h.conc_eq hc], h.rd _ _ (by decide) ho⟩

theorem eventsKept_setConc (s : State) (g : Concentrator → Concentrator) (h : (g s.conc).closed = s.conc.closed) :
    EventsKept s (setConc s g) := ⟨h, rd_setConc _ _ _ _⟩

theorem eventsKept_dropContext (s : State) (k : Nat) : EventsKept s (dropContext s k) := by
  refine (eventsKept_setConc s (fun x => { x with opened := x.opened.eraseIdx k }) rfl).trans
    ⟨?_, rd_concLevels _ (by decide) (by decide)⟩
  rw [dropContext, (concLevels_touches _).conc_eq]

theorem eventsKept_clockStarts (s : State) (b : Nat) : EventsKept s (clockStarts s b) :=
  .of_touches (touches_clockStarts (.refl [.mov, .pwr, .obj 0x1106] s) _ (by decide))

theorem eventsKept_eventsOut (n : Nat) (s : State) : EventsKept s (eventsOut n s) := by
  induction n generalizing s with
  | zero => exact eventsKept_refl s
  | succ n ih =>
    unfold eventsOut
    split
    · exact eventsKept_refl s
    · split
      · exact eventsKept_refl s
      · dsimp only
        split
        · exact (eventsKept_setConc s _ rfl).trans (ih _)
        · split
          · exact (eventsKept_setConc s _ rfl).trans (ih _)
          · exact ((((eventsKept_setConc s _ rfl).trans (eventsKept_dropContext _ _)).trans
              (eventsKept_setConc _ _ rfl)).trans (eventsKept_clockStarts _ _)).trans (ih _)

theorem eventsKept_deliverContext (s : State) (k : Nat) : EventsKept s (deliverContext s k) := by
  unfold deliverContext
  split
  · exact eventsKept_refl s
  · split
    · refine (eventsKept_dropContext s k).trans ⟨?_, rd_bump_apart _ _ _ _ _ (by decide)⟩
      rw [bump, wr_conc]
    · exact (eventsKept_setConc s _ rfl).trans (eventsKept_eventsOut _ _)

theorem eventsKept_fetchCheck (s : State) (k : Nat) : EventsKept s (fetchCheck s k) := by
  unfold fetchCheck
  split
  · exact eventsKept_refl s
  · split
    · unfold contextWhole
      split
      · exact eventsKept_refl s
      · split
        · exact eventsKept_deliverContext s k
        · exact eventsKept_setConc s _ rfl
    · exact eventsKept_refl s

/-! ### A context closes (R207, R208) -/

theorem firstDue_closes (s : State) (k : Nat) (c : EventContext) (hc : s.conc.opened[k]? = some c) :
    ∃ e, (closeContext s k true).conc.closed = remember s.conc.closed e ∧ e.timeFirst = c.timeFirst
      ∧ e.accepted = decide (l3Passed c = c.get Obj.PEER_L3.ENABLE % 8)
      ∧ (e.accepted = true → rd (closeContext s k true) Obj.PEER_CONC_STATUS.ACCEPTED
          = (rd s Obj.PEER_CONC_STATUS.ACCEPTED + 1) % 2 ^ Obj.PEER_CONC_STATUS.ACCEPTED.width)
      ∧ (e.accepted = false → rd (closeContext s k true) Obj.PEER_CONC_STATUS.REJECTED
          = (rd s Obj.PEER_CONC_STATUS.REJECTED + 1) % 2 ^ Obj.PEER_CONC_STATUS.REJECTED.width) := by
  unfold closeContext
  rw [hc]
  dsimp only
  rw [if_pos rfl]
  generalize hraise : raise s 0x0808 0 (firstMissing c) 0 = r
  have hr : r.conc = s.conc ∧ ∀ f : Field, outside [0x0C06, 0x1011] f = true → rd r f = rd s f := by
    rw [← hraise]
    exact ⟨(raise_touches _ _ _ _ _).conc_eq, fun f hf => rd_raise _ _ _ _ _ _ hf⟩
  obtain ⟨hconc, hrd⟩ := hr
  generalize c.get Obj.PEER_CONC.ID_PREFIX * 2 ^ 40 + nextCount s.conc.count = gid
  generalize he : ClosedEvent.mk .. = e
  have htime : e.timeFirst = c.timeFirst := by rw [← he]
  have hacc : e.accepted = decide (l3Passed c = c.get Obj.PEER_L3.ENABLE % 8) := by rw [← he]
  generalize hv : setConc r (fun x => { x with closed := remember x.closed e }) = v
  have hvConc : v.conc.closed = remember s.conc.closed e := by rw [← hv, ← hconc, setConc_conc]
  have hvRd : ∀ f : Field, outside [0x0C06, 0x1011] f = true → rd v f = rd s f := by
    intro f hf
    rw [← hv, rd_setConc]
    exact hrd f hf
  refine ⟨e, ?_⟩
  by_cases hpass : decide (l3Passed c = c.get Obj.PEER_L3.ENABLE % 8) = true
  · rw [if_pos hpass]
    generalize hw : setConc (wr (bump v Obj.PEER_CONC_STATUS.ACCEPTED 0 1) _ 0 gid) _ = w
    have hwConc : w.conc.closed = v.conc.closed := by
      rw [← hw, setConc_conc, wr_conc, bump, wr_conc]
    have hwRd : rd w Obj.PEER_CONC_STATUS.ACCEPTED
        = (rd s Obj.PEER_CONC_STATUS.ACCEPTED + 1) % 2 ^ Obj.PEER_CONC_STATUS.ACCEPTED.width := by
      rw [← hw, rd_setConc, rd_wr_apart _ _ _ _ (by decide), rd_bump_same, hvRd _ (by decide)]
    generalize c.parts.map _ = parts
    have hanswer : EventsKept w (parts.foldl (answerPart gid) w) :=
      .of_touches (ps := [.axl, .out, .peer, .obj 0x0D05]) (.foldl _ _ (.refl _ _) fun _ _ h =>
          touches_answerPart h _ _ (by decide))
    have hkept := hanswer.trans (eventsKept_fetchCheck _ k)
    exact ⟨hkept.1.trans (hwConc.trans hvConc), htime, hacc, fun _ => hkept.2.trans hwRd,
      fun h => absurd ((hacc.symm.trans h).symm.trans hpass) (by decide)⟩
  · rw [if_neg hpass]
    have hreply : Touches [.axl, .out, .peer, .obj 0x0D05] (bump v Obj.PEER_CONC_STATUS.REJECTED 0 1)
        (c.parts.foldl (fun t p => concReply t 2 p 0) (bump v Obj.PEER_CONC_STATUS.REJECTED 0 1)) :=
      .foldl _ _ (.refl _ _) fun _ _ h => touches_concReply h _ _ _ (by decide)
    refine ⟨?_, htime, hacc, fun h => absurd (hacc.symm.trans h) hpass, fun _ => ?_⟩
    · rw [(eventsKept_dropContext _ _).1, hreply.conc_eq, bump, wr_conc, hvConc]
    · unfold dropContext
      rw [rd_concLevels _ (by decide) (by decide), rd_setConc, hreply.rd _ _ (by decide) (by decide), rd_bump_same,
        hvRd _ (by decide)]

theorem buildTimeout_closes (s : State) (k : Nat) (c : EventContext)
    (hdue : firstDue s .building (fun c => c.openedAt + 1600 * c.get Obj.PEER_CONC.BUILD_US) = some k)
    (hc : s.conc.opened[k]? = some c) :
    ∃ t e, exec .buildTimeout s = .next t ∧ t.conc.closed = remember s.conc.closed e ∧ e.timeFirst = c.timeFirst
      ∧ e.accepted = decide (l3Passed c = c.get Obj.PEER_L3.ENABLE % 8)
      ∧ (e.accepted = true → rd t Obj.PEER_CONC_STATUS.ACCEPTED
          = (rd s Obj.PEER_CONC_STATUS.ACCEPTED + 1) % 2 ^ Obj.PEER_CONC_STATUS.ACCEPTED.width)
      ∧ (e.accepted = false → rd t Obj.PEER_CONC_STATUS.REJECTED
          = (rd s Obj.PEER_CONC_STATUS.REJECTED + 1) % 2 ^ Obj.PEER_CONC_STATUS.REJECTED.width) := by
  obtain ⟨e, he⟩ := firstDue_closes s k c hc
  refine ⟨_, e, ?_, he⟩
  show execBuildTimeout s = _
  rw [execBuildTimeout, hdue]

/-! ### Parts that stay missing (R209) -/

/-- The context `c` once the parts that `p` names and that are not there are missing. -/
def withoutParts (c : EventContext) (p : Contribution → Bool) : EventContext :=
  { c with parts := c.parts.map (fun q => if p q && q.bytes.isNone then { q with missing := true } else q) }

theorem partsMissing_marks (s : State) (k : Nat) (c : EventContext) (p : Contribution → Bool)
    (hc : s.conc.opened[k]? = some c) : ∃ u : State, u.conc.opened[k]? = some (withoutParts c p) ∧ partsMissing s k p
      = (if (withoutParts c p).parts.all (fun p => p.bytes.isSome || p.missing) then
          (if c.get Obj.PEER_INTF.MODE = 0 then deliverContext u k
           else setConc u (fun x => { x with opened := upd x.opened k (fun y => { y with phase := .interfering }) }))
        else u) := by
  generalize hu : setConc s (fun x =>
    { x with opened := upd x.opened k (fun y =>
      { y with parts := y.parts.map (fun q => if p q && q.bytes.isNone then { q with missing := true } else q) }) }) = u
  have hmarked : u.conc.opened[k]? = some (withoutParts c p) := by
    rw [← hu, setConc_conc]
    show (upd s.conc.opened k _)[k]? = _
    rw [getElem?_upd_same, hc]
    rfl
  refine ⟨u, hmarked, ?_⟩
  unfold partsMissing
  rw [hu, fetchCheck, hmarked]
  dsimp only
  rw [contextWhole, hmarked]
  rfl

theorem opened_interfering {u : State} {k : Nat} {c : EventContext} (hc : u.conc.opened[k]? = some c) :
    (setConc u (fun x => { x with opened := upd x.opened k (fun y => { y with phase := .interfering })
        })).conc.opened[k]?
      = some { c with phase := .interfering } := by
  show (upd u.conc.opened k _)[k]? = _
  rw [getElem?_upd_same, hc, Option.map_some]

theorem withoutParts_all (c : EventContext) :
    (withoutParts c fun _ => true).parts.all (fun p => p.bytes.isSome || p.missing) = true := by
  unfold withoutParts
  rw [List.all_map, List.all_eq_true]
  intro q _
  cases h : q.bytes <;> simp [h]

theorem fetchTimeout_marks (s : State) (k : Nat) (c : EventContext)
    (hdue : firstDue s .fetching (fun c => c.openedAt + 1600000 * c.get Obj.PEER_CONC.FETCH_MS) = some k)
    (hc : s.conc.opened[k]? = some c) :
    let c' : EventContext :=
      { c with parts := c.parts.map (fun q => if q.bytes.isNone then { q with missing := true } else q) }
    (c.get Obj.PEER_INTF.MODE ≠ 0 →
      ∃ t, exec .fetchTimeout s = .next t ∧ t.conc.opened[k]? = some { c' with phase := .interfering })
    ∧ (c.get Obj.PEER_INTF.MODE = 0 →
      ∃ u, exec .fetchTimeout s = .next (deliverContext u k) ∧ u.conc.opened[k]? = some c') := by
  intro c'
  have hexec : exec .fetchTimeout s = .next (partsMissing s k (fun _ => true)) := by
    show execFetchTimeout s = _
    rw [execFetchTimeout, hdue]
  obtain ⟨u, hu, hmissing⟩ := partsMissing_marks s k c (fun _ => true) hc
  rw [if_pos (withoutParts_all c)] at hmissing
  have hsame : withoutParts c (fun _ => true) = c' := by simp [withoutParts, c']
  rw [hsame] at hu
  refine ⟨fun hmode => ⟨_, hexec, ?_⟩, fun hmode => ⟨u, ?_, hu⟩⟩
  · rw [hmissing, if_neg hmode]
    exact opened_interfering hu
  · rw [hexec, hmissing, if_pos hmode]

theorem concGone_marks (l : Fin 16) (chip serial : Nat) (s : State) (k : Nat) (c : EventContext)
    (hfind : s.conc.opened.findIdx? (fun c => c.phase == .fetching
      && c.parts.any (fun p => p.chip == chip % 16 && p.serial == serial && p.bytes.isNone)) = some k)
    (hc : s.conc.opened[k]? = some c) :
    let c' : EventContext :=
      { c with parts := c.parts.map (fun q =>
          if (q.chip == chip % 16 && q.serial == serial) && q.bytes.isNone then { q with missing := true } else q) }
    (c'.parts.all (fun p => p.bytes.isSome || p.missing) = false →
      ∃ t, exec (.concGone l chip serial) s = .next t ∧ t.conc.opened[k]? = some c')
    ∧ (c'.parts.all (fun p => p.bytes.isSome || p.missing) = true → c.get Obj.PEER_INTF.MODE ≠ 0 →
      ∃ t, exec (.concGone l chip serial) s = .next t ∧ t.conc.opened[k]? = some { c' with phase :=
          .interfering }) := by
  intro c'
  have hexec : exec (.concGone l chip serial) s
      = .next (partsMissing (takeMessage s l 6) k (fun p => p.chip == chip % 16 && p.serial == serial)) := by
    show execConcGone l chip serial s = _
    rw [execConcGone, hfind]
  have htake : (takeMessage s l 6).conc = s.conc := (touches_takeMessage (.refl [.axl] s) _ _ (by decide)).conc_eq
  obtain ⟨u, hu, hmissing⟩ := partsMissing_marks (takeMessage s l 6) k c
    (fun p => p.chip == chip % 16 && p.serial == serial) (by rw [htake, hc])
  refine ⟨fun hwait => ⟨_, hexec, ?_⟩, fun hall hmode => ⟨_, hexec, ?_⟩⟩
  · have hwait' : ¬ (withoutParts c fun p => p.chip == chip % 16 && p.serial == serial).parts.all
        (fun p => p.bytes.isSome || p.missing) = true := fun h => absurd (hwait.symm.trans h) (by decide)
    rw [hmissing, if_neg hwait']
    exact hu
  · have hall' : (withoutParts c fun p => p.chip == chip % 16 && p.serial == serial).parts.all
        (fun p => p.bytes.isSome || p.missing) = true := hall
    rw [hmissing, if_pos hall', if_neg hmode]
    exact opened_interfering hu

/-! ### Events that have interfered (R210, R211) -/

theorem blocksDecoded_touches (s : State) (k : Nat) :
    Touches [.flt, .notes, .obj 0x0B04, .obj 0x0C06] s (blocksDecoded s k) :=
        touches_blocksDecoded (.refl _ _) _ (by decide)

theorem builtEvent_phase (c : EventContext) (p : ContextPhase) : builtEvent { c with phase := p } = builtEvent c := rfl

theorem deliverContext_drops (s : State) (k : Nat) (c : EventContext) (hc : s.conc.opened[k]? = some c)
    (hdrop : xcorrDrops c = true) : (deliverContext s k).conc.opened = s.conc.opened.eraseIdx k
      ∧ rd (deliverContext s k) Obj.PEER_CONC_STATUS.XCORR_DROPPED
        = (rd s Obj.PEER_CONC_STATUS.XCORR_DROPPED + 1) % 2 ^ Obj.PEER_CONC_STATUS.XCORR_DROPPED.width := by
  unfold deliverContext
  rw [hc]
  dsimp only
  rw [if_pos hdrop]
  refine ⟨?_, ?_⟩
  · rw [bump, wr_conc, dropContext, (concLevels_touches _).conc_eq, setConc_conc]
  · rw [rd_bump_same, dropContext, rd_concLevels _ (by decide) (by decide), rd_setConc]

theorem deliverContext_sends (s : State) (k : Nat) (c : EventContext) (hc : s.conc.opened[k]? = some c)
    (hdrop : xcorrDrops c = false) (hroom : eventRoom s = true) (hready : s.conc.ready = [])
    (hphase : ∀ d ∈ s.conc.opened, d.phase ≠ .ready) :
    (deliverContext s k).conc.opened = s.conc.opened.eraseIdx k
      ∧ (deliverContext s k).conc.out = s.conc.out ++ [builtEvent c] := by
  unfold deliverContext
  rw [hc]
  dsimp only
  rw [if_neg (by simp [hdrop]), hready, List.length_nil, eventsOut]
  generalize hu : setConc s _ = u
  have hopened : u.conc.opened = upd s.conc.opened k (fun y => { y with phase := .ready }) := by rw [← hu]; rfl
  have hqueue : u.conc.ready = [c.gid] ∧ u.conc.out = s.conc.out ∧ eventRoom u = eventRoom s := by
    rw [← hu]
    exact ⟨by rw [setConc_conc, hready]; rfl, rfl, rfl⟩
  obtain ⟨hone, hout, hroomU⟩ := hqueue
  rw [hone]
  dsimp only
  rw [if_neg (by simp [hroomU, hroom])]
  have hfind : u.conc.opened.findIdx? (fun x => x.phase == .ready && x.gid == c.gid) = some k := by
    rw [hopened]
    exact findIdx?_upd (fun y hy => by simp [hphase y hy]) hc (by simp)
  rw [hfind]
  dsimp only
  rw [hopened, getElem?_upd_same, hc, Option.map_some]
  dsimp only
  rw [builtEvent_phase, eventsOut, (touches_clockStarts (.refl [.mov, .pwr, .obj 0x1106] _) _ (by decide)).conc_eq,
      setConc_conc,
    dropContext, (concLevels_touches _).conc_eq, setConc_conc, setConc_conc]
  dsimp only
  rw [hopened, hout, eraseIdx_upd]
  exact ⟨rfl, rfl⟩

theorem deliverContext_waits (s : State) (k : Nat) (c : EventContext) (hc : s.conc.opened[k]? = some c)
    (hdrop : xcorrDrops c = false) (hroom : eventRoom s = false) :
    (deliverContext s k).conc.out = s.conc.out ∧ (deliverContext s k).conc.ready = s.conc.ready ++ [c.gid]
      ∧ (deliverContext s k).conc.opened[k]? = some { c with phase := .ready } := by
  unfold deliverContext
  rw [hc]
  dsimp only
  rw [if_neg (by simp [hdrop])]
  generalize hu : setConc s _ = u
  have hset : u.conc.out = s.conc.out ∧ u.conc.ready = s.conc.ready ++ [c.gid]
      ∧ u.conc.opened[k]? = some { c with phase := .ready } ∧ eventRoom u = eventRoom s := by
    rw [← hu]
    refine ⟨rfl, rfl, ?_, rfl⟩
    show (upd s.conc.opened k _)[k]? = _
    rw [getElem?_upd_same, hc, Option.map_some]
  obtain ⟨hout, hready, hopened, hroomU⟩ := hset
  have hstay : ∀ n, eventsOut n u = u := by
    intro n
    cases n with
    | zero => rfl
    | succ n =>
      rw [eventsOut]
      split
      · rfl
      · rw [if_pos (by simp [hroomU, hroom])]
  rw [hstay]
  exact ⟨hout, hready, hopened⟩

theorem interferometryDone_delivers (s : State) (k : Nat) (c : EventContext)
    (hdue : firstDue s .interfering (fun c => c.openedAt) = some k) (hc : s.conc.opened[k]? = some c) :
    (xcorrDrops c = true → ∃ t, exec .interferometryDone s = .next t ∧ t.conc.opened = s.conc.opened.eraseIdx k
      ∧ rd t Obj.PEER_CONC_STATUS.XCORR_DROPPED
          = (rd s Obj.PEER_CONC_STATUS.XCORR_DROPPED + 1) % 2 ^ Obj.PEER_CONC_STATUS.XCORR_DROPPED.width)
    ∧ (xcorrDrops c = false → eventRoom s = true → s.conc.ready = [] → (∀ d ∈ s.conc.opened, d.phase ≠ .ready) →
      ∃ t, exec .interferometryDone s = .next t ∧ t.conc.opened = s.conc.opened.eraseIdx k
        ∧ t.conc.out = s.conc.out ++ [builtEvent c])
    ∧ (xcorrDrops c = false → eventRoom s = false →
      ∃ t, exec .interferometryDone s = .next t ∧ t.conc.out = s.conc.out ∧ t.conc.ready = s.conc.ready ++ [c.gid]
        ∧ t.conc.opened[k]? = some { c with phase := .ready }) := by
  have hexec : exec .interferometryDone s = .next (deliverContext (blocksDecoded s k) k) := by
    show execInterferometryDone s = _
    rw [execInterferometryDone, hdue]
  have hb := blocksDecoded_touches s k
  have hconc := hb.conc_eq
  have hroomB : eventRoom (blocksDecoded s k) = eventRoom s := by
    unfold eventRoom domOn domState
    rw [hconc, hb.pwr_eq]
  have hcB : (blocksDecoded s k).conc.opened[k]? = some c := by rw [hconc, hc]
  refine ⟨fun hdrop => ⟨_, hexec, ?_⟩, fun hdrop hroom hready hphase => ⟨_, hexec, ?_⟩, fun hdrop hroom =>
      ⟨_, hexec, ?_⟩⟩
  · obtain ⟨hopened, hcount⟩ := deliverContext_drops _ k c hcB hdrop
    exact ⟨by rw [hopened, hconc], by rw [hcount, hb.rd _ _ (by decide) (by decide)]⟩
  · have h := deliverContext_sends _ k c hcB hdrop (hroomB.trans hroom) (by rw [hconc, hready])
      (by rw [hconc]; exact hphase)
    rwa [hconc] at h
  · have h := deliverContext_waits _ k c hcB hdrop (hroomB.trans hroom)
    rwa [hconc] at h

/-- Settles O33: an arrival, a closing, a missing part and an event that leaves, each by the branch its hypotheses
    name. -/
theorem concentratorComplete : Obligations.ConcentratorComplete :=
  ⟨arrival_matches_nothing, buildTimeout_closes, fetchTimeout_marks, concGone_marks, interferometryDone_delivers⟩

end Sys2Proof
end

section
/-! PROOF. The field store (chapter 11): words and their bytes, the log of errors, the scrubber, banks that wake,
half-banks. -/

namespace Sys2Proof

-- one proof at a time, which bounds the memory of the compile
set_option Elab.async false

open Sys2Proof.Machine

/-! ### Words and their bytes -/

theorem bankOfWord_wordNo (n : Fin 160) (r : Fin 32768) (w : Fin 8) : bankOfWord (wordNo n r w) = n := by
  unfold bankOfWord wordNo
  omega

theorem leBytes_length (k n : Nat) : (leBytes k n).length = k := by
  induction k generalizing n with
  | zero => rfl
  | succ k ih => simp [leBytes, ih]

theorem leBytes_getD (k n j : Nat) (h : j < k) : (leBytes k n).getD j 0 = n / 256 ^ j % 256 := by
  induction k generalizing n j with
  | zero => omega
  | succ k ih =>
    cases j with
    | zero => simp [leBytes]
    | succ j =>
      rw [leBytes, List.getD_cons_succ, ih _ _ (by omega), Nat.div_div_eq_div_mul, Nat.pow_succ']

theorem ofLe_byte (l : Bytes) (j : Nat) : ofLe l / 256 ^ j % 256 = l.getD j 0 % 256 := by
  induction l generalizing j with
  | nil => simp [ofLe]
  | cons b l ih =>
    cases j with
    | zero =>
      simp only [ofLe, pow_zero, Nat.div_one, List.getD_cons_zero]
      omega
    | succ j =>
      rw [ofLe, Nat.pow_succ', ← Nat.div_div_eq_div_mul, List.getD_cons_succ, ← ih]
      congr 2
      omega

theorem ofNat_mod_byte (v : Nat) : BitVec.ofNat 8 (v % 256) = BitVec.ofNat 8 v := by
  simp [← BitVec.toNat_inj]

theorem bits_byte (v j : Nat) : bits v (8 * j) 8 = v / 256 ^ j % 256 := by
  unfold bits
  rw [Nat.pow_mul]
  rfl

theorem memRead_getD (m : List Host.Cell) (x k j : Nat) (h : j < k) :
    (memRead m x k).getD j 0 = (memGet m (x + j)).toNat := by
  simp [memRead, List.getD_eq_getElem?_getD, h]

/-- A word that is stored takes the low bytes of its value. -/
theorem memGet_word (m : List Host.Cell) (x v j : Nat) (h : j < 8) :
    memGet (memWrite m x (leBytes 8 v)) (x + j) = BitVec.ofNat 8 (v / 256 ^ j) := by
  rw [memGet_memWrite_inside _ _ _ _ (by rw [leBytes_length]; exact h), leBytes_getD _ _ _ h, ofNat_mod_byte]

theorem mergeWord_byte (old v strobes j : Nat) (h : j < 8) :
    mergeWord old v strobes / 256 ^ j % 256 = if bit strobes j then v / 256 ^ j % 256 else old / 256 ^ j % 256 := by
  unfold mergeWord
  rw [ofLe_byte]
  simp only [List.getD_eq_getElem?_getD, List.getElem?_map, List.getElem?_range h, Option.map_some, Option.getD_some,
      bits_byte]
  split
  · exact Nat.mod_mod _ _
  · exact Nat.mod_mod _ _

/-! ### Reads (R239, R241, R245) -/

theorem clockStarts_touches (s : State) (b : Nat) : Touches [.mov, .pwr, .obj 0x1106] s (clockStarts s b) :=
  touches_clockStarts (.refl _ _) _ (by decide)

/-! ### The log of corrected errors (R242, R243, R245) -/

/-- A field that neither the log of corrected errors nor a repair writes. -/
def logSafe (f : Field) : Bool :=
  outside [0x0A05, 0x0A06, 0x0C06, 0x1011] f && apart Obj.FST_BANK.SPARES_SOFT f && apart Obj.FST_STATUS.LOG_OVERFLOW f

theorem logSafe_iff (f : Field) : logSafe f = true ↔ outside [0x0A05, 0x0A06, 0x0C06, 0x1011] f = true
    ∧ apart Obj.FST_BANK.SPARES_SOFT f = true ∧ apart Obj.FST_STATUS.LOG_OVERFLOW f = true := by
  rw [logSafe, Bool.and_eq_true, Bool.and_eq_true, and_assoc]

/-- From `s` to `t` the pass of the scrubber is the same, and every field that is not the log's own. -/
def LogKept (s t : State) : Prop :=
  t.fst.passStart = s.fst.passStart ∧ ∀ f i, logSafe f = true → rd t f i = rd s f i

theorem logKept_refl (s : State) : LogKept s s := ⟨rfl, fun _ _ _ => rfl⟩

theorem LogKept.trans {s t u : State} (h : LogKept s t) (k : LogKept t u) : LogKept s u :=
  ⟨k.1.trans h.1, fun f i hf => (k.2 f i hf).trans (h.2 f i hf)⟩

theorem LogKept.of_touches {ps : List Part} {s t : State} (h : Touches ps s t)
    (hps : ps.all (fun p => match p with
      | .obj o => ([0x0A05, 0x0A06, 0x0C06, 0x1011] : List Nat).contains o
      | .regs => false
      | _ => true) = true := by rfl) (hf : Part.fst.within ps = false := by rfl) : LogKept s t :=
  ⟨by rw [h.fst_eq hf], fun f _ hl => h.rd_outside ((logSafe_iff f).1 hl).1 hps⟩

theorem logKept_setFst (s : State) (g : FieldStore → FieldStore) (h : (g s.fst).passStart = s.fst.passStart) :
    LogKept s (setFst s g) := ⟨h, fun _ _ _ => rd_setFst _ _ _ _⟩

theorem logKept_raise (s : State) (code inst a b : Nat) : LogKept s (raise s code inst a b) :=
  .of_touches (raise_touches s code inst a b)

theorem logKept_wr (s : State) (f : Field) (i v : Nat) (h : ∀ g, logSafe g = true → apart f g = true) :
    LogKept s (wr s f i v) := ⟨by rw [wr_fst], fun g _ hg => rd_wr_apart _ _ _ _ (h g hg)⟩

theorem logKept_ceTouch (s : State) (e syndrome : Nat) : LogKept s (ceTouch s e syndrome) :=
  .of_touches (ps := [.obj 0x0A05]) (touches_ceTouch (.refl _ _) _ _ (by decide))

theorem logKept_softRepair (s : State) (n r src : Nat) : LogKept s (softRepair s n r src) := by
  have hentry : ∀ u : State, ∀ e, LogKept u (wr (wr (wr u Obj.FST_REPAIR.BANK e n) Obj.FST_REPAIR.SOURCE e src)
      Obj.FST_REPAIR.ROW e r) := fun u e => .of_touches (ps := [.obj 0x0A06])
    (touches_wr (touches_wr (touches_wr (.refl _ _) _ _ _ (by decide)) _ _ _ (by decide)) _ _ _ (by decide))
  unfold softRepair
  split
  · exact logKept_raise s _ _ _ _
  · dsimp only
    generalize hu : (if s.fst.repairs < 1024 then _ else _ : State) = u
    have hu : LogKept s u := by
      have hbump := logKept_wr s Obj.FST_BANK.SPARES_SOFT n (rd s Obj.FST_BANK.SPARES_SOFT n + 1)
        fun g hg => ((logSafe_iff g).1 hg).2.1
      rw [← hu]
      split
      · exact hbump.trans (hentry _ _)
      · exact hbump
    generalize hv : setFst u _ = v
    have hv : LogKept s v := by
      rw [← hv]
      exact hu.trans (logKept_setFst u _ rfl)
    have hw : LogKept v (v.fst.ceOrder.foldl (fun t x =>
        if rd t Obj.FST_CE_LOG.BANK x == n && rd t Obj.FST_CE_LOG.ROW x == r then wr t Obj.FST_CE_LOG.REPAIRED x 1
        else t) v) :=
      .of_touches (ps := [.obj 0x0A05]) (.foldl _ _ (.refl _ _) fun _ _ h => .ite (touches_wr h _ _ _ (by decide)) h)
    split
    · exact hv.trans hw
    · exact (hv.trans hw).trans (.of_touches (touches_endFault (.refl [.flt] _) _ _ (by decide)))

theorem logKept_ceRepeat (s : State) (e : Nat) : LogKept s (ceRepeat s e) := by
  have hrepeat : ∀ u : State, ∀ f ∈ [Obj.FST_CE_LOG.REPEAT, Obj.FST_CE_LOG.STUCK], ∀ v, LogKept u (wr u f e v) := by
    intro u f hf v
    simp only [List.mem_cons, List.not_mem_nil, or_false] at hf
    obtain rfl | rfl := hf
    · exact .of_touches (ps := [.obj 0x0A05]) (touches_wr (.refl _ _) _ _ _ (by decide))
    · exact .of_touches (ps := [.obj 0x0A05]) (touches_wr (.refl _ _) _ _ _ (by decide))
  unfold ceRepeat
  dsimp only
  split
  · exact logKept_refl s
  · split
    · have h := fun code inst a b =>
        ((hrepeat s Obj.FST_CE_LOG.REPEAT (by decide) (rd s Obj.FST_CE_LOG.REPEAT e + 1)).trans
        (hrepeat _ Obj.FST_CE_LOG.STUCK (by decide) 1)).trans (logKept_raise _ code inst a b)
      split
      · exact (h _ _ _ _).trans (logKept_softRepair _ _ _ _)
      · exact h _ _ _ _
    · exact hrepeat s _ (by decide) _

/-- A corrected error is counted once; then only the log, a repair and the fault change. -/
theorem logKept_ceLog (s : State) (n r w syndrome src : Nat) :
    LogKept (bump (bump s Obj.FST_BANK.CE n 1) Obj.FST_STATUS.CE_TOTAL 0 1) (ceLog s n r w syndrome src) := by
  unfold ceLog
  dsimp only
  generalize hu : raise _ 0x0A01 n _ _ = u
  refine LogKept.trans (t := u) (hu ▸ logKept_raise _ _ _ _ _) ?_
  have hlog : ∀ v : State, ∀ f ∈ Obj.FST_CE_LOG.fields, ∀ e x, LogKept v (wr v f e x) := fun v f hf e x =>
    .of_touches (ps := [.obj 0x0A05]) (touches_wr (.refl _ _) _ _ _ ⟨(by decide : ∀ f ∈ Obj.FST_CE_LOG.fields,
      plainField f = true) f hf, (by decide : ∀ f ∈ Obj.FST_CE_LOG.fields, (Part.obj f.obj).within
          [.obj 0x0A05] = true) f hf⟩)
  split
  · split
    · exact logKept_ceTouch u _ _
    · exact ((logKept_ceTouch u _ _).trans (logKept_setFst _ _ rfl)).trans (logKept_ceRepeat _ _)
  · split
    · next e _ =>
      have hclear : LogKept u (ceClear u e) :=
          .of_touches (ps := [.obj 0x0A05]) (touches_ceClear (.refl _ _) _ (by decide))
      exact (((((((hclear.trans (logKept_setFst _ _ rfl)).trans (hlog _ _ (by decide) _ _)).trans
        (hlog _ _ (by decide) _ _)).trans (hlog _ _ (by decide) _ _)).trans (hlog _ _ (by decide) _ _)).trans
        (hlog _ _ (by decide) _ _)).trans (logKept_ceTouch _ _ _))
    · exact (logKept_wr u _ _ _ fun g hg => ((logSafe_iff g).1 hg).2.2).trans (logKept_raise _ _ _ _ _)

theorem rd_ceLog (s : State) (n r w syndrome src : Nat) {f : Field} (i : Nat) (hf : logSafe f = true)
    (hce : apart Obj.FST_BANK.CE f = true) (htotal : apart Obj.FST_STATUS.CE_TOTAL f = true) :
    rd (ceLog s n r w syndrome src) f i = rd s f i := by
  rw [(logKept_ceLog s n r w syndrome src).2 f i hf, rd_bump_apart _ _ _ _ _ htotal, rd_bump_apart _ _ _ _ _ hce]

theorem ceLog_total (s : State) (n r w syndrome src : Nat) : rd (ceLog s n r w syndrome src) Obj.FST_STATUS.CE_TOTAL
    = (rd s Obj.FST_STATUS.CE_TOTAL + 1) % 2 ^ Obj.FST_STATUS.CE_TOTAL.width := by
  rw [(logKept_ceLog s n r w syndrome src).2 _ _ (by decide), rd_bump_same, rd_bump_apart _ _ _ _ _ (by decide)]

theorem ceLog_passStart (s : State) (n r w syndrome src : Nat) :
    (ceLog s n r w syndrome src).fst.passStart = s.fst.passStart := by
  rw [(logKept_ceLog s n r w syndrome src).1, bump, wr_fst, bump, wr_fst]

/-! ### A word that cannot be corrected (R241, R242) -/

/-- The mark of a bad word is its class, and one count of the kind `f` and one of all are taken. -/
theorem wordBad_marks (s : State) (k cls : Nat) : ∃ u f inst a b, Touches [.bbl, .dah, .mem, .sun, .free] s u
    ∧ (f = Obj.FST_BANK.POISON ∨ f = Obj.FST_BANK.UE)
    ∧ wordBad s k cls = raise (bump (bump (setFst u (fun x => { x with bad := mapSet x.bad k (cls - 1) })) f
        (bankOfWord k) 1)
        Obj.FST_STATUS.UE_TOTAL 0 1) 0x0A02 inst a b := by
  refine ⟨_, if cls = 2 then Obj.FST_BANK.POISON else Obj.FST_BANK.UE, _, _, _, ?_, ?_, rfl⟩
  · refine touches_markUsers ?_ _ (by decide)
    exact .ite (touches_pokeWord (touches_drawFree (.refl _ _) (by decide)) _ _ (by decide)) (.refl _ _)
  · split
    · exact .inl rfl
    · exact .inr rfl

theorem wordBad_fst (s : State) (k cls : Nat) :
    (wordBad s k cls).fst = { s.fst with bad := mapSet s.fst.bad k (cls - 1) } := by
  obtain ⟨u, f, inst, a, b, hu, -, hbad⟩ := wordBad_marks s k cls
  rw [hbad, (raise_touches _ _ _ _ _).fst_eq, bump, wr_fst, bump, wr_fst, setFst_fst, hu.fst_eq]

theorem wordBad_total (s : State) (k cls : Nat) : rd (wordBad s k cls) Obj.FST_STATUS.UE_TOTAL
    = (rd s Obj.FST_STATUS.UE_TOTAL + 1) % 2 ^ Obj.FST_STATUS.UE_TOTAL.width := by
  obtain ⟨u, f, inst, a, b, hu, hf, hbad⟩ := wordBad_marks s k cls
  have hkind : apart f Obj.FST_STATUS.UE_TOTAL = true := by
    obtain rfl | rfl := hf
    · decide
    · decide
  rw [hbad, rd_raise _ _ _ _ _ _ (by decide), rd_bump_same, rd_bump_apart _ _ _ _ _ hkind, rd_setFst,
    hu.rd _ _ (by decide) (by decide)]

theorem wordBad_passes (s : State) (k cls : Nat) : rd (wordBad s k cls) Obj.FST_STATUS.PASSES = rd s
    Obj.FST_STATUS.PASSES := by
  obtain ⟨u, f, inst, a, b, hu, hf, hbad⟩ := wordBad_marks s k cls
  have hkind : apart f Obj.FST_STATUS.PASSES = true := by
    obtain rfl | rfl := hf
    · decide
    · decide
  rw [hbad, rd_raise _ _ _ _ _ _ (by decide), rd_bump_apart _ _ _ _ _ (by decide), rd_bump_apart _ _ _ _ _ hkind,
    rd_setFst, hu.rd _ _ (by decide) (by decide)]

/-! ### Reads of a master (R239, R241, R245) -/

theorem ceLog_mem (s : State) (n r w syndrome src : Nat) : (ceLog s n r w syndrome src).mem = s.mem :=
  (touches_ceLog (.refl [.flt, .fst, .notes, .obj 0x0A04, .obj 0x0A05, .obj 0x0A06, .obj 0x0A07, .obj 0x0C06] s) _ _ _
      _ _
    (by decide)).mem_eq

theorem fstMasterRead_reads (src : Fin 5) (n : Fin 160) (r : Fin 32768) (w : Fin 8) (syndrome : Nat) (s : State)
    (hdom : domOn s (bankDom n) = true) :
    let k := wordNo n r w
    (halfReady s n (halfOfWord k) = false →
      ∃ t, exec (.fstMasterRead src n r w syndrome) s = .next t ∧ t.mem = s.mem ∧ t.fst = s.fst
        ∧ rd t Obj.FST_STATUS.UNINIT_READS
            = (rd s Obj.FST_STATUS.UNINIT_READS + 1) % 2 ^ Obj.FST_STATUS.UNINIT_READS.width)
    ∧ (halfReady s n (halfOfWord k) = true → readClass s k syndrome = 0 →
      ∃ t, exec (.fstMasterRead src n r w syndrome) s = .next t ∧ t.mem = s.mem ∧ t.fst = s.fst)
    ∧ (halfReady s n (halfOfWord k) = true → readClass s k syndrome = 1 →
      ∃ t, exec (.fstMasterRead src n r w syndrome) s = .next t ∧ t.mem = s.mem
        ∧ rd t Obj.FST_STATUS.CE_TOTAL
            = (rd s Obj.FST_STATUS.CE_TOTAL + 1) % 2 ^ Obj.FST_STATUS.CE_TOTAL.width)
    ∧ (halfReady s n (halfOfWord k) = true → 2 ≤ readClass s k syndrome →
      ∃ t, exec (.fstMasterRead src n r w syndrome) s = .next t ∧ mapGet t.fst.bad k = readClass s k syndrome - 1
        ∧ rd t Obj.FST_STATUS.UE_TOTAL
            = (rd s Obj.FST_STATUS.UE_TOTAL + 1) % 2 ^ Obj.FST_STATUS.UE_TOTAL.width) := by
  intro k
  have hs := clockStarts_touches s 10
  have hexec : exec (.fstMasterRead src n r w syndrome) s
      = .next (readWord (clockStarts s 10) (srcClass src) k syndrome).2.2 := if_pos hdom
  have hready : halfReady (clockStarts s 10) (bankOfWord k) (halfOfWord k) = halfReady s n (halfOfWord k) := by
    unfold halfReady
    rw [hs.rd _ _ (by decide) (by decide), bankOfWord_wordNo]
  have hclass : readClass (clockStarts s 10) k syndrome = readClass s k syndrome := by
    unfold readClass
    rw [hs.fst_eq]
  have hrd : ∀ f : Field, outside [0x1106] f = true → rd (clockStarts s 10) f = rd s f := fun f hf =>
      hs.rd_outside hf rfl
  have hmem := hs.mem_eq
  have hfst := hs.fst_eq
  generalize clockStarts s 10 = u at *
  rw [readWord, hready] at hexec
  refine ⟨fun h => ?_, fun h hzero => ?_, fun h hone => ?_, fun h hbad => ?_⟩
  · rw [h] at hexec
    refine ⟨_, hexec, ?_, ?_, ?_⟩
    · exact (congrArg State.mem rfl).trans ((wr_mem _ _ _ _).trans hmem)
    · exact (wr_fst _ _ _ _).trans hfst
    · exact (rd_bump_same _ _ _ _).trans (by rw [hrd _ (by decide)])
  · rw [h, hclass, hzero] at hexec
    exact ⟨u, hexec, hmem, hfst⟩
  · rw [h, hclass, hone] at hexec
    refine ⟨_, hexec, (ceLog_mem _ _ _ _ _ _).trans hmem, (ceLog_total _ _ _ _ _ _).trans (by rw [hrd _ (by decide)])⟩
  · rw [h, hclass] at hexec
    have hbadWord : exec (.fstMasterRead src n r w syndrome) s = .next (wordBad u k (readClass s k syndrome)) := by
      rw [hexec]
      generalize readClass s k syndrome = c at hbad
      match c, hbad with
      | c + 2, _ => rfl
    refine ⟨_, hbadWord, ?_, (wordBad_total _ _ _).trans (by rw [hrd _ (by decide)])⟩
    rw [wordBad_fst, mapGet_mapSet_same]

/-! ### Writes (R240, R242) -/

theorem movError_raises (s : State) (master cause addr : Nat) : (movError s 0x0C02 master cause addr).mem = s.mem
    ∧ (movError s 0x0C02 master cause addr).fst = s.fst
    ∧ (s.flt.active.length < 1024 → faultActive (movError s 0x0C02 master cause addr) 0x0C02 master = true) := by
  have h : Touches [.flt, .notes, .obj 0x0C06, .obj 0x0C07] s (movError s 0x0C02 master cause addr) :=
    touches_movError (.refl _ _) (by decide) _ _ _ (by decide)
  refine ⟨h.mem_eq, h.fst_eq, fun hroom => ?_⟩
  unfold movError
  dsimp only
  refine raise_active _ _ _ _ _ ?_
  generalize hu : (if flag s Obj.MOV_ERR.VALID = true then s else _ : State) = u
  have hflt : u.flt = s.flt := by
    rw [← hu]
    split
    · rfl
    · rw [wr_flt, wr_flt, wr_flt, wr_flt, wr_flt]
  rw [bumpSat, wr_flt, hflt]
  exact hroom

theorem wordWritten_shows (s : State) (k : Nat) (poison : Bool) : (ceReset (wordWritten s k poison) k).mem = s.mem
    ∧ mapGet (ceReset (wordWritten s k poison) k).fst.bad k = b2n poison := by
  have hreset : ∀ u : State, (ceReset u k).fst.bad = u.fst.bad ∧ (ceReset u k).mem = u.mem := by
    intro u
    unfold ceReset
    split
    · exact ⟨by rw [setFst_fst, wr_fst], by rw [setFst_mem, wr_mem]⟩
    · exact ⟨rfl, rfl⟩
  have hmended : Touches [.flt] (markWords s k 1 poison) (wordWritten s k poison) :=
      touches_bankMended (.refl _ _) _ (by decide)
  refine ⟨(hreset _).2.trans hmended.mem_eq, ?_⟩
  rw [(hreset _).1, hmended.fst_eq]
  exact mapGet_mapSet_same s.fst.bad (k + 0) _

theorem placeOfWord_of_touches {ps : List Part} {s t : State} (h : Touches ps s t)
    (hf : (Part.obj 0x0A01).within ps = false := by rfl) (hm : (Part.obj 0x0706).within ps = false := by rfl)
        (k : Nat) :
    placeOfWord t k = placeOfWord s k := by
  unfold placeOfWord dahOffset dahBanks visSize wtsSize geomNow
  rw [h.rd Obj.FST_MAP.MAP _ (by decide) hf, h.rd Obj.DAH_GEOM.GEOM _ (by decide) hm]

theorem pokeWord_plain {s : State} {k : Nat} (h : placeOfWord s k = .plain) (v : Nat) :
    pokeWord s k v = storeBytes s (wordAddr k) (leBytes 8 v) := by
  rw [pokeWord, h]

theorem peekWord_byte {s : State} {k j : Nat} (h : placeOfWord s k = .plain) (hj : j < 8) :
    peekWord s k / 256 ^ j % 256 = (memGet s.mem (wordAddr k + j)).toNat := by
  rw [peekWord, h]
  dsimp only
  rw [ofLe_byte, loadBytes, memRead_getD _ _ _ _ hj]
  exact Nat.mod_eq_of_lt (memGet s.mem (wordAddr k + j)).isLt

theorem storeWord_whole (s : State) (src k strobes data : Nat) (poison : Bool) (syndrome : Nat)
    (hs : strobes % 256 = 255)
    (hplain : placeOfWord s k = .plain) : mapGet (storeWord s src k strobes data poison syndrome).fst.bad k = b2n poison
      ∧ ∀ j < 8, memGet (storeWord s src k strobes data poison syndrome).mem (wordAddr k + j)
          = BitVec.ofNat 8 (data / 256 ^ j) := by
  unfold storeWord
  dsimp only
  rw [if_neg (by omega), if_pos hs, pokeWord_plain hplain]
  obtain ⟨hmem, hbad⟩ := wordWritten_shows (storeBytes s (wordAddr k) (leBytes 8 data)) k poison
  refine ⟨hbad, fun j hj => ?_⟩
  rw [hmem, storeBytes_mem, memGet_word _ _ _ _ hj]

theorem storeWord_narrow (s : State) (src k strobes data : Nat) (poison : Bool) (syndrome : Nat)
    (h0 : strobes % 256 ≠ 0)
    (h255 : strobes % 256 ≠ 255) (hplain : placeOfWord s k = .plain) (hclean : readClass s k syndrome = 0) :
    mapGet (storeWord s src k strobes data poison syndrome).fst.bad k = b2n poison
      ∧ ∀ j < 8, memGet (storeWord s src k strobes data poison syndrome).mem (wordAddr k + j)
          = if bit strobes j then BitVec.ofNat 8 (data / 256 ^ j) else memGet s.mem (wordAddr k + j) := by
  have hmerged : storeWord s src k strobes data poison syndrome = ceReset (wordWritten
      (storeBytes s (wordAddr k) (leBytes 8 (mergeWord (peekWord s k) data strobes))) k poison) k := by
    unfold storeWord
    dsimp only
    rw [if_neg h0, if_neg h255, hclean]
    exact congrArg (fun u => ceReset (wordWritten u k poison) k) (pokeWord_plain hplain _)
  rw [hmerged]
  obtain ⟨hmem, hbad⟩ := wordWritten_shows
    (storeBytes s (wordAddr k) (leBytes 8 (mergeWord (peekWord s k) data strobes))) k poison
  refine ⟨hbad, fun j hj => ?_⟩
  rw [hmem, storeBytes_mem, memGet_word _ _ _ _ hj, ← ofNat_mod_byte, mergeWord_byte _ _ _ _ hj, peekWord_byte hplain
      hj]
  split
  · exact ofNat_mod_byte _
  · simp

theorem fstWrite_writes (master : Fin 10) (n : Fin 160) (r : Fin 32768) (w : Fin 8) (strobes : Fin 256) (data : Nat)
    (poison : Bool) (syndrome : Nat) (s : State) (hm : master.val ≠ 9) :
    let k := wordNo n r w
    (regionWriter s master k = false → s.flt.active.length < 1024 →
      ∃ t, exec (.fstWrite master n r w strobes data poison syndrome) s = .next t ∧ t.mem = s.mem ∧ t.fst = s.fst
        ∧ faultActive t 0x0C02 master = true)
    ∧ (regionWriter s master k = true → domOn s (bankDom n) = true →
      (strobes.val = 0 → ∃ t, exec (.fstWrite master n r w strobes data poison syndrome) s = .next t ∧ t.mem = s.mem
        ∧ t.fst = s.fst)
      ∧ (strobes.val = 255 → placeOfWord s k = .plain →
        ∃ t, exec (.fstWrite master n r w strobes data poison syndrome) s = .next t ∧ mapGet t.fst.bad k = b2n poison
          ∧ ∀ j < 8, memGet t.mem (wordAddr k + j) = BitVec.ofNat 8 (data / 256 ^ j))
      ∧ (strobes.val ≠ 0 → strobes.val ≠ 255 → placeOfWord s k = .plain → readClass s k syndrome = 0 →
        ∃ t, exec (.fstWrite master n r w strobes data poison syndrome) s = .next t ∧ mapGet t.fst.bad k = b2n poison
          ∧ ∀ j < 8, memGet t.mem (wordAddr k + j)
              = if bit strobes j then BitVec.ofNat 8 (data / 256 ^ j) else memGet s.mem (wordAddr k + j))) := by
  intro k
  have hlt := strobes.isLt
  have hs := clockStarts_touches s 10
  have hplace := placeOfWord_of_touches hs rfl rfl k
  have hclass : readClass (clockStarts s 10) k syndrome = readClass s k syndrome := by
    unfold readClass
    rw [hs.fst_eq]
  refine ⟨fun hno hroom => ⟨_, (if_neg hm).trans (if_pos hno), ?_⟩, fun hyes hdom => ?_⟩
  · obtain ⟨hmem, hfst, hfault⟩ := movError_raises s master 3 (wordAddr k)
    exact ⟨hmem, hfst, hfault hroom⟩
  · have hexec : exec (.fstWrite master n r w strobes data poison syndrome) s
        = .next (storeWord (clockStarts s 10) (masterClass master) k strobes data poison syndrome) :=
      (if_neg hm).trans ((if_neg (by simp [hyes, k])).trans (if_pos hdom))
    refine ⟨fun h => ⟨_, hexec, ?_⟩, fun h hplain => ⟨_, hexec, ?_⟩, fun h0 h255 hplain hclean => ⟨_, hexec, ?_⟩⟩
    · rw [show storeWord (clockStarts s 10) (masterClass master) k strobes data poison syndrome = clockStarts s 10 from
        if_pos (by omega)]
      exact ⟨hs.mem_eq, hs.fst_eq⟩
    · exact storeWord_whole _ _ _ _ _ _ _ (by omega) (hplace.trans hplain)
    · rw [← hs.mem_eq]
      exact storeWord_narrow _ _ _ _ _ _ _ (by omega) (by omega) (hplace.trans hplain) (hclass.trans hclean)

/-! ### The scrubber (R242, R249) -/

/-- What the scrubber's look at a word leaves of its own pass. -/
def PassKept (s t : State) : Prop := t.fst.passStart = s.fst.passStart
  ∧ rd t Obj.FST_STATUS.PASSES = rd s Obj.FST_STATUS.PASSES ∧ t.time = s.time

theorem PassKept.trans {s t u : State} (h : PassKept s t) (k : PassKept t u) : PassKept s u :=
  ⟨k.1.trans h.1, k.2.1.trans h.2.1, k.2.2.trans h.2.2⟩

theorem passKept_ceLog (s : State) (n r w syndrome src : Nat) : PassKept s (ceLog s n r w syndrome src) :=
  ⟨ceLog_passStart _ _ _ _ _ _, rd_ceLog _ _ _ _ _ _ _ (by decide) (by decide) (by decide),
    (touches_ceLog (.refl [.flt, .fst, .notes, .obj 0x0A04, .obj 0x0A05, .obj 0x0A06, .obj 0x0A07, .obj 0x0C06] s) _ _
        _ _ _
      (by decide)).time_eq⟩

theorem passKept_wordBad (s : State) (k cls : Nat) : PassKept s (wordBad s k cls) :=
  ⟨by rw [wordBad_fst], wordBad_passes _ _ _,
    (touches_wordBad (.refl [.bbl, .dah, .flt, .free, .fst, .mem, .notes, .sun, .obj 0x0A04, .obj 0x0A07, .obj 0x0C06]
        s) _ _
      (by decide)).time_eq⟩

theorem passKept_scrubWord (n r : Nat) (s : State) (x : Nat × Nat) : PassKept s (scrubWord n r s x) := by
  unfold scrubWord
  dsimp only
  split
  · exact ⟨rfl, rfl, rfl⟩
  · split
    · exact (passKept_ceLog _ _ _ _ _ _).trans ⟨rfl, rd_setFst _ _ _ _, rfl⟩
    · exact passKept_ceLog _ _ _ _ _ _
  · exact passKept_wordBad _ _ _

theorem passEnds_shows (s : State) : (passEnds s).fst.passStart = s.time.rc64
    ∧ rd (passEnds s) Obj.FST_STATUS.PASSES = (rd s Obj.FST_STATUS.PASSES + 1) % 2 ^ Obj.FST_STATUS.PASSES.width := by
  unfold passEnds
  dsimp only
  refine ⟨rfl, ?_⟩
  have hcount : rd (bump (wr s Obj.FST_STATUS.LAST_PASS_S 0 (min 65535 ((s.time.rc64 - s.fst.passStart) / 1600000000)))
      Obj.FST_STATUS.PASSES 0 1) Obj.FST_STATUS.PASSES = (rd s Obj.FST_STATUS.PASSES + 1) % 2 ^
          Obj.FST_STATUS.PASSES.width := by
    rw [rd_bump_same, rd_wr_apart _ _ _ _ (by decide)]
  rw [rd_setFst]
  split
  · rw [(touches_clearFault (.refl [.flt, .notes, .obj 0x0C06] _) _ _ (by decide)).rd _ _ (by decide) (by decide)]
    exact hcount
  · exact hcount

theorem scrubRead_scrubs (n : Fin 160) (r : Fin 32768) (words : List (Nat × Nat)) (s : State)
    (hon : rd s Obj.FST_SCRUB.ENABLE ≠ 0) (hdom : domOn s (bankDom n) = true)
    (hready : halfReady s n (r.val / 16384) = true) :
    (∃ t, exec (.scrubRead n r words true) s = .next t ∧ t.fst.passStart = s.time.rc64
      ∧ rd t Obj.FST_STATUS.PASSES = (rd s Obj.FST_STATUS.PASSES + 1) % 2 ^ Obj.FST_STATUS.PASSES.width)
    ∧ (∃ t, exec (.scrubRead n r words false) s = .next t ∧ t.fst.passStart = s.fst.passStart
      ∧ rd t Obj.FST_STATUS.PASSES = rd s Obj.FST_STATUS.PASSES) := by
  have hgo : flag s Obj.FST_SCRUB.ENABLE = true ∧ domOn s (bankDom n) = true ∧ halfReady s n (r.val / 16384) = true :=
    ⟨by simpa [flag] using hon, hdom, hready⟩
  obtain ⟨hstart, hpasses, htime⟩ : PassKept s (words.foldl (scrubWord n r) s) :=
    foldl_keeps (P := PassKept s) _ _ ⟨rfl, rfl, rfl⟩ fun t x h => h.trans (passKept_scrubWord n r t x)
  obtain ⟨hend, hcount⟩ := passEnds_shows (words.foldl (scrubWord n r) s)
  exact ⟨⟨_, if_pos hgo, by rw [if_pos rfl, hend, htime], by rw [if_pos rfl, hcount, hpasses]⟩,
    ⟨_, if_pos hgo, hstart, hpasses⟩⟩

theorem scrubLate_raises (s : State) (hon : rd s Obj.FST_SCRUB.ENABLE ≠ 0)
    (hlate : s.fst.passStart + 2 * s.fst.passPeriod * 1600000000 < s.time.rc64) (hroom : s.flt.active.length < 1024) :
    ∃ t, exec .scrubLate s = .next t ∧ faultActive t 0x0A08 0 = true ∧ t.fst = s.fst :=
  ⟨_, if_pos ⟨by simpa [flag] using hon, hlate⟩, raise_active _ _ _ _ _ hroom, (raise_touches _ _ _ _ _).fst_eq⟩

/-! ### Banks that wake (R250) -/

theorem retfailLatch_latches (n : Fin 160) (s : State) (h : domState s (bankDom n) = 4) :
    ∃ t, exec (.retfailLatch n) s = .next t ∧ bit t.fst.retfail n = true :=
  ⟨_, if_pos h, bit_setBit_same _ _⟩

theorem rd_canaryCheck (n : Nat) (words : List (Nat × Nat)) (s : State) {f : Field} (i : Nat) (hf : logSafe f = true)
    (hce : apart Obj.FST_BANK.CE f = true) (htotal : apart Obj.FST_STATUS.CE_TOTAL f = true) :
    rd (canaryCheck n words s).1 f i = rd s f i := by
  unfold canaryCheck
  refine foldl_same _ (fun t => rd t f i) _ _ fun t k _ => ?_
  dsimp only
  split
  · split
    · exact (rd_ceLog _ _ _ _ _ _ i hf hce htotal).trans rfl
    · rfl
  · rfl

/-- What the check of a bank that wakes shows: the bank's failure of retention, and that its wake is over. -/
theorem bankChecked_shows (s : State) (n : Nat) (words : List (Nat × Nat)) :
    (bankChecked s n words).1.pwr.fromRetain.contains (bankDom n) = false
      ∧ rd (bankChecked s n words).1 Obj.FST_BANK.RETFAIL n = b2n (bit s.fst.retfail n)
      ∧ (bit s.fst.retfail n = true → (bankChecked s n words).2 = false) := by
  refine ⟨by simp [bankChecked], ?_, fun h => by simp [bankChecked, h]⟩
  unfold bankChecked
  dsimp only
  rw [rd_setPwr, rd_canaryCheck _ _ _ _ (by decide) (by decide) (by decide), rd_setFst, rd_wr_same]
  cases bit s.fst.retfail n <;> rfl

theorem bankChecked_touches (s : State) (n : Nat) (words : List (Nat × Nat)) :
    Touches [.flt, .free, .fst, .notes, .pwr, .obj 0x0A04, .obj 0x0A05, .obj 0x0A06, .obj 0x0A07, .obj 0x0C06] s
      (bankChecked s n words).1 := touches_bankChecked (.refl _ _) _ _ (by decide)

/-- A bank whose contents are lost shows it; its other fields, the mode and the power stay. -/
theorem bankLost_shows (s : State) (n : Nat) : rd (bankLost s n) Obj.FST_BANK.INIT n = 0
    ∧ rd (bankLost s n) Obj.FST_BANK.LOST n = 1 ∧ rd (bankLost s n) Obj.FST_BANK.RETFAIL n = rd s Obj.FST_BANK.RETFAIL
        n := by
  unfold bankLost
  dsimp only
  generalize hu : wr (wr s Obj.FST_BANK.INIT n 0) Obj.FST_BANK.LOST n 1 = u
  have hlost : Touches [.bbl, .evt, .flt, .hk, .notes, .sun, .obj 0x0206, .obj 0x0C06] u
      (raise (tablesLost (dropPackets u n) n) 0x0A05 n n (wordAddr (wordNo n 0 0))) :=
    touches_raise_plain (touches_tablesLost (touches_dropPackets (.refl _ _) _ (by decide)) _ (by decide)) (by decide)
        _ _ _
      (by decide)
  rw [hlost.rd _ _ (by decide) (by decide), hlost.rd _ _ (by decide) (by decide), hlost.rd _ _ (by decide)
      (by decide), ← hu]
  refine ⟨?_, ?_, ?_⟩
  · rw [rd_wr_apart _ _ _ _ (by decide), rd_wr_same]
    rfl
  · rw [rd_wr_same]
    rfl
  · rw [rd_wr_apart _ _ _ _ (by decide), rd_wr_apart _ _ _ _ (by decide)]

theorem bankLost_touches (s : State) (n : Nat) :
    Touches [.bbl, .evt, .flt, .hk, .notes, .sun, .obj 0x0206, .obj 0x0A04, .obj 0x0C06] s (bankLost s n) :=
  touches_bankLost (.refl _ _) _ (by decide)

theorem failTransition_touches (s : State) (a : Nat) :
    Touches [.flt, .modes, .notes, .obj 0x0C06, .obj 0x1011] s (failTransition s a) :=
        touches_failTransition (.refl _ _) _ (by decide)

theorem bankWakeCheck_checks (n : Fin 160) (words : List (Nat × Nat)) (s : State)
    (hretain : s.pwr.fromRetain.contains (bankDom n) = true) (hstate : domState s (bankDom n) = 1) :
    ∃ t, exec (.bankWakeCheck n words) s = .next t ∧ t.pwr.fromRetain.contains (bankDom n) = false
      ∧ rd t Obj.FST_BANK.RETFAIL n = b2n (bit s.fst.retfail n)
      ∧ (bit s.fst.retfail n = true → rd t Obj.FST_BANK.INIT n = 0 ∧ rd t Obj.FST_BANK.LOST n = 1
          ∧ (phaseOf s ≠ .steady → phaseOf s ≠ .aborting → modeTarget s ≠ .idle →
              bankUsed (modeTarget s) (targetWatch s) (targetMap s) n = true →
              phaseOf t = .aborting ∧ modeTarget t = .idle)) := by
  obtain ⟨hover, hshown, hfails⟩ := bankChecked_shows s n words
  have hchecked := ModeKept.of_touches (bankChecked_touches s n words)
  show ∃ t, execBankWakeCheck n words s = .next t ∧ _
  rw [execBankWakeCheck, if_pos ⟨hretain, hstate⟩]
  generalize bankChecked s n words = c at *
  dsimp only
  by_cases hgood : c.2 = true
  · rw [if_pos hgood]
    exact ⟨_, rfl, hover, hshown, fun h => absurd (hgood.symm.trans (hfails h)) (by decide)⟩
  · rw [if_neg hgood]
    obtain ⟨hinit, hlost, hret⟩ := bankLost_shows c.1 n
    have hl := bankLost_touches c.1 n
    have hphase : phaseOf (bankLost c.1 n) = phaseOf s := (ModeKept.of_touches hl).phase.trans hchecked.phase
    generalize bankLost c.1 n = u at *
    have hover' : u.pwr.fromRetain.contains (bankDom n) = false := by rw [hl.pwr_eq, hover]
    have hf := failTransition_touches u (bankDom n)
    split
    · refine ⟨_, rfl, by rw [hf.pwr_eq, hover'], by rw [hf.rd _ _ (by decide) (by decide), hret, hshown], fun _ =>
        ⟨by rw [hf.rd _ _ (by decide) (by decide), hinit], by
            rw [hf.rd _ _ (by decide) (by decide), hlost], fun hsteady _ _ _ => ?_⟩⟩
      obtain ⟨hp, ht, -⟩ := failTransition_fails u (bankDom n) (hphase ▸ hsteady)
      exact ⟨hp, ht⟩
    · next hneeds =>
      refine ⟨_, rfl, hover', hret.trans hshown, fun _ => ⟨hinit, hlost, fun _ habort hidle hused => ?_⟩⟩
      exact absurd (by simp [hphase, habort, hidle, hused]) hneeds

/-! ### Half-banks (R22, R239) -/

theorem memGet_filter_gone (m : List Host.Cell) (p : Host.Cell → Bool) (x : Nat) (h : ∀ v, p (x, v) = false) :
    memGet (m.filter p) x = 0 := by
  induction m with
  | nil => rfl
  | cons c m ih =>
    obtain ⟨k, v⟩ := c
    by_cases hp : p (k, v) = true
    · rw [List.filter_cons_of_pos hp, memGet, if_neg, ih]
      rintro rfl
      exact absurd hp (by simp [h])
    · rw [List.filter_cons_of_neg hp, ih]

theorem wordAddr_offset (w k : Nat) :
    (wordAddr w + k - 0x0100000000) / 8 = w + k / 8 ∧ ¬ wordAddr w + k < 0x0100000000 := by
  unfold wordAddr
  omega

theorem halfReady_setInit (s : State) (n h : Nat) (hh : h < 2) :
    halfReady (wr s Obj.FST_BANK.INIT n (rd s Obj.FST_BANK.INIT n ||| 2 ^ h)) n h = true := by
  rw [halfReady, rd_wr_same, bit, show Obj.FST_BANK.INIT.width = 2 from rfl, Nat.testBit_mod_two_pow]
  simp [hh]

theorem halfBankInitDone_initializes (n : Fin 160) (h : Fin 2) (s : State) (hdom : domOn s (bankDom n) = true)
    (hready : halfReady s n h = false) :
    ∃ t, exec (.halfBankInitDone n h) s = .next t ∧ halfReady t n h = true
      ∧ ∀ k < 1048576, memGet t.mem (wordAddr (wordNo n (h.val * 16384) 0) + k) = 0 := by
  refine ⟨_, if_pos ⟨hdom, by simp [hready]⟩, ?_⟩
  generalize hu : setFst (placesInitialized _ _ _) _ = u
  have hmem : ∀ k < 1048576, memGet u.mem (wordAddr (wordNo n (h.val * 16384) 0) + k) = 0 := by
    intro k hk
    rw [← hu, setFst_mem, (touches_placesInitialized (.refl [.bbl, .dah, .sun] _) _ _ (by decide)).mem_eq]
    refine memGet_filter_gone _ _ _ fun v => ?_
    obtain ⟨hat, hbase⟩ := wordAddr_offset (wordNo n (h.val * 16384) 0) k
    simp only [hat, decide_eq_false hbase, Bool.or_false, Bool.not_eq_false', Bool.and_eq_true, decide_eq_true_eq]
    omega
  have hset := halfReady_setInit u n h h.isLt
  split
  · refine ⟨?_, fun k hk => ?_⟩
    · rw [halfReady, (touches_endFault (.refl [.flt] _) _ _ (by decide)).rd _ _ (by decide) (by decide),
        rd_wr_apart _ _ _ _ (by decide)]
      exact hset
    · rw [(touches_endFault (.refl [.flt] _) _ _ (by decide)).mem_eq, wr_mem, wr_mem]
      exact hmem k hk
  · refine ⟨hset, fun k hk => ?_⟩
    rw [wr_mem]
    exact hmem k hk

/-- Settles O35: each row of the field store by the word, the bank or the half-bank that it names. -/
theorem fieldStoreComplete : Obligations.FieldStoreComplete :=
  ⟨fstMasterRead_reads, fstWrite_writes, scrubRead_scrubs, scrubLate_raises, retfailLatch_latches, bankWakeCheck_checks,
    halfBankInitDone_initializes⟩

end Sys2Proof
end

section
/-! PROOF. What each command that stores leaves of the addressed memory: words of the field store, control SRAM,
staged images, event fragments, capture records (first part of O36). -/

namespace Sys2Proof

-- one proof at a time, which bounds the memory of the compile
set_option Elab.async false

open Sys2Proof.Machine

/-! ### A byte of the memory that stays -/

/-- The byte at address `a` is the same. -/
def KeepsByte (a : Nat) (s t : State) : Prop := memGet t.mem a = memGet s.mem a

theorem keepsByte_refl (a : Nat) (s : State) : KeepsByte a s s := rfl

theorem KeepsByte.trans {a : Nat} {s t u : State} (h : KeepsByte a s t) (k : KeepsByte a t u) : KeepsByte a s u :=
  Eq.trans k h

theorem KeepsByte.of_mem {a : Nat} {s t : State} (h : t.mem = s.mem) : KeepsByte a s t := by
  rw [KeepsByte, h]

theorem KeepsByte.of_touches {a : Nat} {ps : List Part} {s t : State} (h : Touches ps s t)
    (hp : Part.mem.within ps = false := by rfl) : KeepsByte a s t := .of_mem (h.mem_eq hp)

theorem keepsByte_foldl {α : Type} {a : Nat} (g : State → α → State) (l : List α) (s : State)
    (h : ∀ t, ∀ x ∈ l, KeepsByte a t (g t x)) : KeepsByte a s (l.foldl g s) := by
  induction l generalizing s with
  | nil => exact keepsByte_refl a s
  | cons x l ih =>
    exact (h s x List.mem_cons_self).trans (ih (g s x) fun t y hy => h t y (List.mem_cons_of_mem _ hy))

/-- The command leaves the byte at address `a`. -/
def ByteStays (a : Nat) (s : State) (o : Host.Outcome State Fault Refusal) : Prop := ∀ t, o = .next t → KeepsByte a s t

theorem byteStays_next {a : Nat} {s t : State} (h : KeepsByte a s t) : ByteStays a s (.next t) := by
  rintro _ ⟨⟩
  exact h

theorem byteStays_same (a : Nat) (s : State) : ByteStays a s (.next s) := byteStays_next (keepsByte_refl a s)

theorem ByteStays.ite {a : Nat} {s : State} {c : Prop} [Decidable c] {o p : Host.Outcome State Fault Refusal}
    (h : c → ByteStays a s o) (k : ¬ c → ByteStays a s p) : ByteStays a s (if c then o else p) := by
  split
  · next hc => exact h hc
  · next hc => exact k hc

/-! ### Words of the field store -/

/-- Address `a` is outside the word k. -/
def OutsideWord (a k : Nat) : Prop := a < wordAddr k ∨ wordAddr k + 8 ≤ a

theorem wordAddr_add (k j : Nat) : wordAddr (k + j) = wordAddr k + 8 * j := by
  unfold wordAddr
  omega

theorem keepsByte_pokeWord {a k : Nat} (h : OutsideWord a k) (s : State) (v : Nat) :
    KeepsByte a s (pokeWord s k v) := by
  unfold pokeWord
  split
  · exact .of_mem (setDah_mem _ _)
  · exact .of_mem (setDah_mem _ _)
  · exact .of_mem (setBbl_mem _ _)
  · exact keepsByte_foldl _ _ _ fun t j _ => .of_touches (touches_setHomeByte (.refl [.sun] t) _ _ (by decide))
  · rw [KeepsByte, storeBytes_mem]
    exact memGet_memWrite_outside a _ _ _ (by rw [leBytes_length]; exact h)

theorem keepsByte_wordBad {a k : Nat} (h : OutsideWord a k) (s : State) (cls : Nat) :
    KeepsByte a s (wordBad s k cls) := by
  unfold wordBad
  dsimp only
  generalize hu : (if decide (mapGet s.fst.bad k = 0) = true ∧ cls = 3 then _ else s : State) = u
  have hfree : KeepsByte a s u := by
    rw [← hu]
    split
    · exact (KeepsByte.of_mem (t := (drawFree s).2) rfl).trans (keepsByte_pokeWord h _ _)
    · exact keepsByte_refl a s
  refine (hfree.trans (.of_touches (touches_markUsers (.refl [.sun] _) k (by decide)))).trans (.of_mem ?_)
  rw [(raise_touches _ _ _ _ _).mem_eq, bump, wr_mem, bump, wr_mem, setFst_mem]

theorem keepsByte_ceLog (a : Nat) (s : State) (n r w syndrome src : Nat) : KeepsByte a s (ceLog s n r w syndrome src) :=
  .of_mem (ceLog_mem _ _ _ _ _ _)

theorem keepsByte_readWord {a k : Nat} (h : OutsideWord a k) (s : State) (src syndrome : Nat) :
    KeepsByte a s (readWord s src k syndrome).2.2 := by
  unfold readWord
  dsimp only
  split
  · exact .of_mem (wr_mem _ _ _ _)
  · split
    · exact keepsByte_refl a s
    · exact keepsByte_ceLog a _ _ _ _ _ _
    · exact keepsByte_wordBad h s _

theorem keepsByte_wordWritten (a : Nat) (s : State) (k : Nat) (poison : Bool) :
    KeepsByte a s (ceReset (wordWritten s k poison) k) := .of_mem (wordWritten_shows s k poison).1

theorem keepsByte_ceReset (a : Nat) (s : State) (k : Nat) : KeepsByte a s (ceReset s k) :=
  .of_touches (touches_ceReset (.refl [.fst, .obj 0x0A05] s) _ (by decide))

theorem keepsByte_storeWord {a k : Nat} (h : OutsideWord a k) (s : State) (src strobes data : Nat) (poison : Bool)
    (syndrome : Nat) : KeepsByte a s (storeWord s src k strobes data poison syndrome) := by
  unfold storeWord
  dsimp only
  split
  · exact keepsByte_refl a s
  · split
    · exact (keepsByte_pokeWord h s _).trans (keepsByte_wordWritten a _ k poison)
    · split
      · exact (keepsByte_pokeWord h s _).trans (keepsByte_wordWritten a _ k poison)
      · exact (((KeepsByte.of_mem (wr_mem _ _ _ _)).trans (keepsByte_ceLog a _ _ _ _ _ _)).trans
          (keepsByte_pokeWord h _ _)).trans (keepsByte_wordWritten a _ k poison)
      · refine KeepsByte.trans ?_ (keepsByte_ceReset a _ k)
        refine KeepsByte.trans ?_ (.of_touches (raise_touches _ _ _ _ _))
        refine KeepsByte.trans ?_ (.of_touches (touches_markUsers (.refl [.sun] _) _ (by decide)))
        refine KeepsByte.trans ?_ (.of_mem ((wr_mem _ _ _ _).trans (setFst_mem _ _)))
        refine KeepsByte.trans ?_ (keepsByte_pokeWord h _ _)
        split
        · exact keepsByte_wordBad h s _
        · exact keepsByte_refl a s

theorem keepsByte_clockStarts (a : Nat) (s : State) (b : Nat) : KeepsByte a s (clockStarts s b) :=
  .of_touches (clockStarts_touches s b)

theorem keepsByte_scrubWord {a n r : Nat} (h : a < wordAddr (wordNo n r 0) ∨ wordAddr (wordNo n r 0) + 64 ≤ a)
    (s : State)
    (x : Nat × Nat) : KeepsByte a s (scrubWord n r s x) := by
  have hout : OutsideWord a (wordNo n r (x.1 % 8)) := by
    have := Nat.mod_lt x.1 (show 0 < 8 by decide)
    have hat : wordAddr (wordNo n r (x.1 % 8)) = wordAddr (wordNo n r 0) + 8 * (x.1 % 8) :=
      (congrArg wordAddr (by simp [wordNo])).trans (wordAddr_add (wordNo n r 0) (x.1 % 8))
    rw [OutsideWord, hat]
    omega
  unfold scrubWord
  dsimp only
  split
  · exact keepsByte_refl a s
  · split
    · exact keepsByte_ceLog a _ _ _ _ _ _
    · exact keepsByte_ceLog a _ _ _ _ _ _
  · exact keepsByte_wordBad hout s _

theorem fstMasterRead_stays (a : Nat) (s : State) (src : Fin 5) (n : Fin 160) (r : Fin 32768) (w : Fin 8)
    (syndrome : Nat)
    (h : OutsideWord a (wordNo n r w)) : ByteStays a s (exec (.fstMasterRead src n r w syndrome) s) :=
  .ite (fun _ => byteStays_next ((keepsByte_clockStarts a s 10).trans (keepsByte_readWord h _ _ _))) fun _ =>
      byteStays_same a s

theorem keepsByte_movError (a : Nat) (s : State) (code master cause addr : Nat) :
    KeepsByte a s (movError s code master cause addr) := by
  unfold movError
  dsimp only
  refine KeepsByte.trans ?_ (.of_touches (raise_touches _ _ _ _ _))
  refine KeepsByte.trans ?_ (.of_mem (wr_mem _ _ _ _))
  split
  · exact keepsByte_refl a s
  · exact .of_mem (by rw [wr_mem, wr_mem, wr_mem, wr_mem, wr_mem])

theorem fstWrite_stays (a : Nat) (s : State) (master : Fin 10) (n : Fin 160) (r : Fin 32768) (w : Fin 8)
    (strobes : Fin 256)
    (data : Nat) (poison : Bool) (syndrome : Nat) (h : OutsideWord a (wordNo n r w)) :
    ByteStays a s (exec (.fstWrite master n r w strobes data poison syndrome) s) :=
  .ite (fun _ => byteStays_next (keepsByte_movError a s _ _ _ _)) fun _ =>
    .ite (fun _ => byteStays_next (keepsByte_movError a s _ _ _ _)) fun _ =>
      .ite (fun _ => byteStays_next ((keepsByte_clockStarts a s 10).trans (keepsByte_storeWord h _ _ _ _ _ _)))
        fun _ => byteStays_same a s

theorem scrubRead_stays (a : Nat) (s : State) (n : Fin 160) (r : Fin 32768) (words : List (Nat × Nat)) (last : Bool)
    (h : a < wordAddr (wordNo n r 0) ∨ wordAddr (wordNo n r 0) + 64 ≤ a) :
    ByteStays a s (exec (.scrubRead n r words last) s) := by
  have hwords : KeepsByte a s (words.foldl (scrubWord n r) s) := keepsByte_foldl _ _ _ fun t x _ =>
      keepsByte_scrubWord h t x
  refine .ite (fun _ => byteStays_next ?_) fun _ => byteStays_same a s
  split
  · exact hwords.trans (.of_touches (touches_passEnds (.refl [.flt, .fst, .notes, .obj 0x0A07, .obj 0x0C06] _)
      (by decide)))
  · exact hwords

theorem memGet_filter_kept (m : List Host.Cell) (p : Host.Cell → Bool) (x : Nat) (h : ∀ v, p (x, v) = true) :
    memGet (m.filter p) x = memGet m x := by
  induction m with
  | nil => rfl
  | cons c m ih =>
    obtain ⟨k, v⟩ := c
    by_cases hp : p (k, v) = true
    · rw [List.filter_cons_of_pos hp, memGet, memGet, ih]
    · rw [List.filter_cons_of_neg hp, ih, memGet, if_neg]
      rintro rfl
      exact hp (h v)

theorem halfBankInitDone_stays (a : Nat) (s : State) (n : Fin 160) (h : Fin 2)
    (ha : a < wordAddr (wordNo n (h.val * 16384) 0) ∨ wordAddr (wordNo n (h.val * 16384) 0) + 1048576 ≤ a) :
    ByteStays a s (exec (.halfBankInitDone n h) s) := by
  refine .ite (fun _ => byteStays_next ?_) fun _ => byteStays_same a s
  generalize hu : setFst (placesInitialized _ _ _) _ = u
  have hkept : KeepsByte a s u := by
    rw [KeepsByte, ← hu, setFst_mem, (touches_placesInitialized (.refl [.bbl, .dah, .sun] _) _ _ (by decide)).mem_eq]
    refine memGet_filter_kept _ _ _ fun v => ?_
    rw [Bool.or_eq_true, Bool.not_eq_true', Bool.and_eq_false_iff, decide_eq_false_iff_not, decide_eq_false_iff_not,
      decide_eq_true_eq]
    simp only [wordAddr, wordNo] at ha ⊢
    omega
  refine hkept.trans ?_
  split
  · exact .of_mem ((touches_endFault (.refl [.flt] _) _ _ (by decide)).mem_eq.trans (by rw [wr_mem, wr_mem]))
  · exact .of_mem (wr_mem _ _ _ _)

/-! ### Accesses of the matrix and of the PCIe windows (R14 to R19, R271, R356) -/

theorem keepsByte_memStrobed {a : Nat} (m : List Host.Cell) (x : Nat) (b : Bytes) (strobes len : Nat)
    (h : a < x ∨ x + len ≤ a) : memGet (memStrobed m x b strobes len) a = memGet m a := by
  unfold memStrobed
  refine foldl_same _ (fun t => memGet t a) _ _ fun t j hj => ?_
  have := List.mem_range.1 hj
  split
  · rw [memGet_memSet, if_neg (by omega)]
  · rfl

/-- The words of an access to the field store lie in the access. -/
theorem outsideWord_of_access {a addr len j : Nat} (hbase : 0x100000000 ≤ addr) (hj : j < (addr % 8 + len + 7) / 8)
    (h : a < addr / 8 * 8 ∨ addr / 8 * 8 + 8 * ((addr % 8 + len + 7) / 8) ≤ a) :
    OutsideWord a ((addr - 0x100000000) / 8 + j) := by
  have hat : wordAddr ((addr - 0x100000000) / 8 + j) = addr / 8 * 8 + 8 * j := by
    rw [wordAddr_add]
    congr 1
    unfold wordAddr
    omega
  rw [OutsideWord, hat]
  omega

theorem targetOf_fieldStore {s : State} {a : Nat} (h : targetOf s a = .fieldStore) : 0x100000000 ≤ a := by
  unfold targetOf at h
  split at h
  · cases h
  · split at h
    · cases h
    · split at h
      · cases h
      · split at h
        · next hin => exact hin.1
        · split at h
          · cases h
          · split at h
            · cases h
            · split at h <;> cases h

theorem keepsByte_matrixWrite {a : Nat} (s : State) (x : MatrixAccess)
    (hstore : targetOf s x.addr = .fieldStore →
      a < x.addr / 8 * 8 ∨ x.addr / 8 * 8 + 8 * ((x.addr % 8 + x.len + 7) / 8) ≤ a)
    (hsram : targetOf s x.addr = .controlSram ∨ targetOf s x.addr = .bootWindow →
      a < sramAddr x.addr ∨ sramAddr x.addr + x.len ≤ a) : KeepsByte a s (matrixWrite s x) := by
  unfold matrixWrite
  split
  · next ht =>
    refine (keepsByte_clockStarts a s 10).trans (KeepsByte.trans ?_ (.of_mem (setMov_mem _ _)))
    refine keepsByte_foldl _ _ _ fun t j hj => ?_
    have hout := outsideWord_of_access (targetOf_fieldStore ht) (List.mem_range.1 hj) (hstore ht)
    dsimp only
    split
    · exact keepsByte_storeWord hout t _ _ _ _ _
    · exact keepsByte_refl a t
  · next ht => exact keepsByte_memStrobed _ _ _ _ _ (hsram (.inr ht))
  · next ht => exact keepsByte_memStrobed _ _ _ _ _ (hsram (.inl ht))
  · exact .of_mem (emit_mem _ _)
  · exact keepsByte_refl a s

theorem keepsByte_matrixRead {a : Nat} (s : State) (x : MatrixAccess)
    (hstore : targetOf s x.addr = .fieldStore →
      a < x.addr / 8 * 8 ∨ x.addr / 8 * 8 + 8 * ((x.addr % 8 + x.len + 7) / 8) ≤ a) :
    KeepsByte a s (matrixRead s x).2.2 := by
  unfold matrixRead
  split
  · next ht =>
    dsimp only
    refine List.foldlRecOn (motive := fun y : Nat × Bool × State => KeepsByte a s y.2.2) _ _
        (keepsByte_clockStarts a s 10)
      fun y hy j hj => ?_
    have hout := outsideWord_of_access (targetOf_fieldStore ht) (List.mem_range.1 hj) (hstore ht)
    dsimp only
    split
    · exact hy.trans (keepsByte_readWord hout _ _ _)
    · exact hy
  · split
    · exact keepsByte_refl a s
    · exact keepsByte_refl a s
  · exact keepsByte_refl a s
  · exact keepsByte_refl a s
  · exact keepsByte_refl a s
  · exact .of_mem rfl

theorem budget_touches (s : State) (x : MatrixAccess) : Touches [.obj 0x0C08] s (budget s x) :=
    touches_budget (.refl _ _) _ (by decide)

theorem matrix_stays {a : Nat} (s : State) (x : MatrixAccess)
    (hstore : targetOf s x.addr = .fieldStore →
      a < x.addr / 8 * 8 ∨ x.addr / 8 * 8 + 8 * ((x.addr % 8 + x.len + 7) / 8) ≤ a)
    (hsram : targetOf s x.addr = .controlSram ∨ targetOf s x.addr = .bootWindow →
      a < sramAddr x.addr ∨ sramAddr x.addr + x.len ≤ a) :
    ByteStays a s (exec (.matrixTransaction x) s) ∧ ByteStays a s (exec (.beatTimeout x) s)
      ∧ ByteStays a s (exec (.resetInBurst x) s) := by
  have hb := budget_touches s x
  have htarget : targetOf (budget s x) x.addr = targetOf s x.addr :=
      targetOf_congr (rd_budget s x (by decide) (by decide)) _
  have hbudget : KeepsByte a s (budget s x) := .of_touches hb
  have hcut : KeepsByte a s (burstCut s x) := by
    unfold burstCut
    split
    · exact keepsByte_refl a s
    · split
      · exact keepsByte_matrixWrite s x hstore hsram
      · exact keepsByte_refl a s
  refine ⟨?_, .ite (fun _ => byteStays_next (hcut.trans (keepsByte_movError a _ _ _ _ _))) fun _ => byteStays_same a s,
    byteStays_next ((hcut.trans (keepsByte_movError a _ _ _ _ _)).trans (.of_mem (wr_mem _ _ _ _)))⟩
  rw [exec_matrixTransaction, execMatrixTransaction]
  dsimp only
  split
  · refine byteStays_next ?_
    have herr := fun code cause => hbudget.trans (keepsByte_movError a (budget s x) code x.master cause x.addr)
    split
    · exact herr _ _
    · exact (herr _ _).trans (.of_mem (emit_mem _ _))
  · split
    · exact byteStays_next (hbudget.trans
        (keepsByte_matrixWrite _ x (by rw [htarget]; exact hstore) (by rw [htarget]; exact hsram)))
    · exact byteStays_next ((hbudget.trans (keepsByte_matrixRead _ x (by rw [htarget]; exact hstore))).trans
        (.of_mem (emit_mem _ _)))

theorem keepsByte_bar2Word {a : Nat} (s : State) (off syndrome : Nat)
    (h : a < 0x100000000 + off / 8 * 8 ∨ 0x100000000 + off / 8 * 8 + 8 ≤ a) :
        KeepsByte a s (bar2Word s off syndrome).2.2 := by
  have hout : OutsideWord a (off / 8 * 8 / 8) := by
    have hat : wordAddr (off / 8 * 8 / 8) = 0x100000000 + off / 8 * 8 := by
      unfold wordAddr
      omega
    rw [OutsideWord, hat]
    exact h
  unfold bar2Word
  dsimp only
  split
  · split
    · exact keepsByte_readWord hout s _ _
    · exact keepsByte_refl a s
  · split
    · exact keepsByte_refl a s
    · exact keepsByte_refl a s

theorem bar2Read_stays {a : Nat} (s : State) (off : Fin 536870912) (words : Fin 513) (syndromes : List Nat)
    (h : a < 0x100000000 + off.val / 8 * 8 ∨ 0x100000000 + off.val / 8 * 8 + 8 * words.val ≤ a) :
    ByteStays a s (exec (.bar2Read off words syndromes) s) := by
  refine byteStays_next (KeepsByte.trans ?_ (.of_mem (emit_mem _ _)))
  refine List.foldlRecOn (motive := fun y : Nat × Nat × State => KeepsByte a s y.2.2) _ _ (keepsByte_refl a s) fun y
      hy j hj => ?_
  refine hy.trans (keepsByte_bar2Word _ _ _ ?_)
  have := List.mem_range.1 hj
  rw [show (off.val / 8 * 8 + 8 * j) / 8 * 8 = off.val / 8 * 8 + 8 * j by omega]
  omega

theorem halfReadLow_stays {a : Nat} (s : State) (who : Fin 65538) (bar2 : Bool) (off : Fin 536870912) (syndrome : Nat)
    (h : bar2 = true → a < 0x100000000 + off.val / 8 * 8 ∨ 0x100000000 + off.val / 8 * 8 + 8 ≤ a) :
    ByteStays a s (exec (.halfReadLow who bar2 off syndrome) s) := by
  refine byteStays_next (KeepsByte.trans (KeepsByte.trans (t := (halfWord s bar2 off syndrome).2.2) ?_
    (.of_mem (setCtl_mem _ _))) (.of_mem (emit_mem _ _)))
  cases bar2
  · exact .of_mem (touches_bar0Word (.refl [.free] s) _ (by decide)).mem_eq
  · exact keepsByte_bar2Word s _ _ (h rfl)

/-! ### Fragments in the event-pending region (R138, R151) -/

theorem frBlockCoded_stays {a : Nat} (s : State) (fails : Bool)
    (h : ∀ job f, s.cmp.coder.head? = some job → fragOf s job.serial = some f →
      a < evtAddr s (blockPlace f job.input job.block)
        ∨ evtAddr s (blockPlace f job.input job.block) + blockBytes f.code ≤ a) :
    ByteStays a s (exec (.frBlockCoded fails) s) := by
  have hfeed : ∀ u : State, KeepsByte a u (feedCoder u) := fun u => .of_touches (feedCoder_touches u)
  show ByteStays a s (execFrBlockCoded fails s)
  unfold execFrBlockCoded
  refine .ite (fun _ => byteStays_same a s) fun _ => ?_
  split
  · exact byteStays_next (hfeed s)
  · next job rest hjobs =>
    split
    · exact byteStays_next ((KeepsByte.of_mem rfl).trans (hfeed _))
    · next f hf =>
      have hout := h job f (by rw [hjobs]; rfl) hf
      dsimp only
      generalize codeBlock _ _ _ = coded
      generalize (interpolated (inputCells f job.input)).drop (64 * job.block) = xs
      generalize (fails || s.cmp.failNext || s.mov.badBlock) = bad
      generalize hb : (if bad = true then voidBlock f.code else _) = b
      have hlen : b.length = blockBytes f.code := by
        rw [← hb]
        split
        · exact leBytes_length _ _
        · exact leBytes_length _ _
      generalize hw : bump (storeBytes (setFrag _ _ _) _ b) Obj.CMP_STATUS.FR_BLOCKS 0 1 = w
      have hstored : KeepsByte a s w := by
        rw [KeepsByte, ← hw, bump, wr_mem, storeBytes_mem, memGet_memWrite_outside a _ _ _ (by rw [hlen]; exact hout),
            setFrag,
          setEvt_mem, (feedCoder_touches _).mem_eq]
      have hraise : ∀ {u : State} {code inst x y : Nat}, KeepsByte a s u → KeepsByte a s (raise u code inst x y) :=
        fun hu => hu.trans (.of_touches (raise_touches _ _ _ _ _))
      refine .ite (fun _ => byteStays_next ?_) fun _ => byteStays_next ?_
      · generalize (if s.cmp.failSecond = _ then s.cmp.fails + 1 else 1 : Nat) = n
        generalize hv : bump { w with cmp := _ } Obj.CMP_STATUS.FR_VOID 0 1 = v
        have hvoid : KeepsByte a s v := hstored.trans (.of_mem (by rw [← hv, bump, wr_mem]))
        split
        · exact hraise (hraise (hraise hvoid))
        · exact hraise (hraise hvoid)
      · split
        · exact hstored.trans (.of_mem (wr_mem _ _ _ _))
        · exact hstored

theorem fragmentBuilt_stays {a : Nat} (s : State)
    (h : ∀ f w, s.evt.frags.find? (fun f => f.state == .building && f.window.isSome && f.toCode == 0) = some f →
      f.window = some w → a < evtAddr s f.off ∨ evtAddr s f.off + (fragmentBytes s f w).1.length ≤ a) :
    ByteStays a s (exec .fragmentBuilt s) := by
  by_cases hcut : eventCut s = true
  · rw [show exec .fragmentBuilt s = .next s from if_pos hcut]
    exact byteStays_same a s
  · cases hf : s.evt.frags.find? (fun f => f.state == .building && f.window.isSome && f.toCode == 0) with
    | none =>
      have hexec : exec .fragmentBuilt s = .next s := by
        show execFragmentBuilt s = _
        rw [execFragmentBuilt, if_neg hcut, hf]
      rw [hexec]
      exact byteStays_same a s
    | some f =>
      cases hw : f.window with
      | none =>
        have hexec : exec .fragmentBuilt s = .next s := by
          show execFragmentBuilt s = _
          rw [execFragmentBuilt, if_neg hcut, hf]
          dsimp only
          rw [hw]
        rw [hexec]
        exact byteStays_same a s
      | some w =>
        obtain ⟨t, ht, -, -, -, hstays⟩ := fragmentBuilt_stores s f w (by simpa using hcut) hf hw
        rw [ht]
        exact byteStays_next (hstays a (h f w hf hw))

theorem replyRequest_stays {a : Nat} (s : State) (serial globalId : Nat)
    (h : ∀ f, fragOf s serial = some f →
      a < evtAddr s f.off ∨ evtAddr s f.off + (withGlobalId f.bytes (globalId % 2 ^ 48)).length ≤ a) :
    ByteStays a s (exec (.replyRequest serial globalId) s) := by
  have hcame : KeepsByte a s (replyCame s serial (rd s Obj.EVT_SHIP.PORT)) := .of_touches (replyCame_touches _ _ _)
  show ByteStays a s (execReplyRequest serial globalId s)
  unfold execReplyRequest
  dsimp only
  split
  · exact byteStays_next ((hcame.trans (.of_mem (wr_mem _ _ _ _))).trans
      (.of_touches (touches_axPost (.refl [.axl, .out, .peer, .obj 0x0D05] _) _ _ _ (by decide))))
  · next f hf =>
    refine .ite (fun hoffered => byteStays_next ?_) fun _ =>
      .ite (fun _ => byteStays_next (hcame.trans (.of_mem (setEvt_mem _ _)))) fun _ => byteStays_next hcame
    refine KeepsByte.trans ?_ (.of_touches (shipMessage_touches _ _ _ _))
    refine hcame.trans ?_
    rw [KeepsByte, storeBytes_mem]
    refine memGet_memWrite_outside a _ _ _ ?_
    rw [heldFrag, fragOf_replyCame] at hf
    obtain ⟨g, hg, rfl⟩ := Option.map_eq_some_iff.1 (Option.filter_eq_some_iff.1 hf).1
    exact h g hg

/-! ### The capture of converter words (R94) -/

theorem gatherWord_capture (s : State) (i start : Nat) (x : InputWord) :
    (gatherWord s i start x).cnv.capture = s.cnv.capture := by
  unfold gatherWord
  split
  · rfl
  · dsimp only
    rw [setCnv_cnv]

theorem blockCounts_capture (s : State) (i : Nat) (x : InputWord) :
    (blockCounts s i x).cnv.capture = s.cnv.capture := by
  unfold blockCounts
  dsimp only
  rw [setCnv_cnv]

theorem wordSums_capture (s : State) (bad : Nat) (words : List InputWord) :
    (wordSums s bad words).cnv.capture = s.cnv.capture := by
  unfold wordSums
  refine foldl_same _ (fun t : State => t.cnv.capture) _ _ fun t i _ => ?_
  dsimp only
  rw [setInput_cnv, gatherWord_capture, blockCounts_capture]

theorem captureWord_stays {a : Nat} (s : State) (words : List InputWord) (w : Nat)
    (hlen : ∀ i, (nth words i ⟨List.replicate 16 0, 0, 0, false, false⟩).samples.length = 16)
    (h : ∀ c, s.cnv.capture = some c → a < scratchBase + 32 * c.taken ∨ scratchBase + 32 * c.taken + 32 ≤ a) :
    KeepsByte a s (captureWord s words w) := by
  unfold captureWord
  split
  · exact keepsByte_refl a s
  · next c hc =>
    split
    · refine KeepsByte.trans (t := storeBytes s _ _) ?_ (.of_mem (setCnv_mem _ _))
      rw [KeepsByte, storeBytes_mem]
      refine memGet_memWrite_outside a _ _ _ ?_
      have hx := hlen c.input
      generalize nth words c.input _ = x at hx ⊢
      have hrecord : (captureRecord x c.input w).length = 32 := by
        simp [captureRecord, leBytes_length, hx]
      rw [hrecord]
      exact h c hc
    · exact keepsByte_refl a s

theorem inputWord_samples (s : State) (w : WordIn) (start i : Nat) : (inputWord s w start i).samples.length = 16 := by
  unfold inputWord
  dsimp only
  split
  · exact List.length_replicate
  · rw [List.length_map, List.length_range]

theorem inputWords_samples (s : State) (w : WordIn) (start i : Nat) :
    (nth ((List.range 256).map (inputWord s w start)) i
        ⟨List.replicate 16 0, 0, 0, false, false⟩).samples.length = 16 := by
  rw [nth, List.getD_eq_getElem?_getD, List.getElem?_map]
  cases (List.range 256)[i]? with
  | none => rfl
  | some k => exact inputWord_samples s w start k

theorem converterWord_stays {a : Nat} (s : State) (w : WordIn)
    (h : ∀ c, s.cnv.capture = some c → a < scratchBase + 32 * c.taken ∨ scratchBase + 32 * c.taken + 32 ≤ a) :
    ByteStays a s (exec (.converterWord w) s) := by
  have hdone : ∀ u : State, KeepsByte a u (captureDone u) := fun u =>
    .of_touches (touches_captureDone (.refl [.cnv, .ctl, .pwr, .obj 0x0A04] u) (by decide))
  refine .ite (fun _ => byteStays_next ?_) fun _ => byteStays_same a s
  unfold converterWords
  dsimp only
  have hlen := inputWords_samples s w (s.time.rc64 - 16)
  generalize (List.range 256).map (inputWord s w (s.time.rc64 - 16)) = words at hlen ⊢
  split
  · generalize hv : setMov _ (fun m => { m with badWord := 0 }) = v
    have hv : KeepsByte a s v ∧ v.cnv.capture = s.cnv.capture := by
      have hmarks : Touches [.bbl] (wordSums s s.mov.badWord words)
          (wordMarks (wordSums s s.mov.badWord words) words) :=
        touches_wordMarks (.refl _ _) _ (by decide)
      have hsums : Touches [.afe, .cnv] s (wordSums s s.mov.badWord words) :=
          touches_wordSums (.refl _ _) _ _ (by decide)
      rw [← hv]
      constructor
      · refine .of_mem ?_
        rw [setMov_mem, (touches_pushWords (.refl [.cnv] _) _ _ (by decide)).mem_eq,
          (touches_noteClean (.refl [.cnv] _) _ (by decide)).mem_eq,
          (touches_pushReduced (.refl [.trg] _) _ _ _ (by decide)).mem_eq, hmarks.mem_eq, hsums.mem_eq]
      · rw [setMov_cnv, pushWords, setCnv_cnv, noteClean, setCnv_cnv]
        show Converters.capture (pushReduced _ _ _ _).cnv = _
        rw [(touches_pushReduced (.refl [.trg] _) _ _ _ (by decide)).cnv_eq, hmarks.cnv_eq, wordSums_capture]
    obtain ⟨hkept, hcapture⟩ := hv
    refine (((hkept.trans (captureWord_stays v words _ hlen (by rw [hcapture]; exact h))).trans (hdone _)).trans
      (.of_touches (touches_triggerWord (.refl [.axl, .evt, .flt, .notes, .out, .peer, .trg, .obj 0x0506, .obj 0x0508,
        .obj 0x0509, .obj 0x0C06, .obj 0x0D05] _) _ (by decide)))).trans
      (.of_touches (touches_softJudged (.refl [.ctl, .trg] _) (by decide)))
  · exact (captureWord_stays s words _ hlen h).trans (hdone _)

/-! ### Images (R361, R364, R394) -/

theorem keepsByte_stageBytes {a : Nat} (s : State) (b : Bytes)
    (h : a < 0x100000000 ∨ 0x100000000 + 8 * ((b.length + 7) / 8) ≤ a) : KeepsByte a s (stageBytes s b) := by
  refine keepsByte_foldl _ _ _ fun t k hk => keepsByte_pokeWord ?_ t _
  have := List.mem_range.1 hk
  unfold OutsideWord wordAddr
  omega

theorem keepsByte_imageRejected (a : Nat) (s : State) (c : Nat) : KeepsByte a s (imageRejected s c) :=
  .of_touches (touches_imageRejected (.refl [.flt, .notes, .obj 0x0C06] s) _ (by decide))

theorem keepsByte_imageArrives {a : Nat} (s : State) (kind : Nat) (b : Bytes)
    (h : a < 0x100000000 ∨ 0x100000000 + 8 * ((b.length + 7) / 8) ≤ a) : KeepsByte a s (imageArrives s kind b) := by
  have hstage := keepsByte_stageBytes s b h
  unfold imageArrives
  dsimp only
  split
  · split
    · split
      · refine ((hstage.trans (.of_mem (setCtl_mem _ _))).trans
          (.of_touches (touches_firmwareRuns (.refl [.ctl, .obj 0x0C01] _) _ _ (by decide)))).trans (.of_touches
          (touches_bundleArrives (.refl [.afe, .aon, .axl, .bbl, .cal, .chz, .cmp, .cnv, .ctl, .dah, .evt, .flt,
              .free, .fst,
            .hk, .live, .modes, .mov, .notes, .out, .pwr, .sun, .time, .trg, .regs] _) _ (by decide)))
      · exact hstage.trans (.of_mem (setCtl_mem _ _))
    · split
      · exact hstage.trans (.of_mem (setCtl_mem _ _))
      · exact hstage
  · have hset := hstage.trans (.of_mem (setCtl_mem _ fun c => { c with staged := some ⟨kind, b⟩ }))
    split
    · split
      · exact hset.trans (.of_touches
          (touches_repairList (.refl [.flt, .fst, .notes, .obj 0x0A04, .obj 0x0A05, .obj 0x0A06,
          .obj 0x0A07, .obj 0x0C06] _) _ (by decide)))
      · exact hset
    · exact hset

theorem keepsByte_commit (a : Nat) (s : State) (m status : Nat) (payload : Bytes) :
    KeepsByte a s (commit s m status payload) :=
  .of_touches (touches_commit (.refl [.ctl] s) _ _ _ (by decide))

theorem keepsByte_loadEnds {a : Nat} (s : State) (m kind : Nat) (b : Bytes)
    (h : a < 0x100000000 ∨ 0x100000000 + 8 * ((b.length + 7) / 8) ≤ a) : KeepsByte a s (loadEnds s m kind b) := by
  unfold loadEnds
  dsimp only
  split
  · exact (keepsByte_imageArrives s kind b h).trans (keepsByte_commit a _ _ _ _)
  · exact (keepsByte_imageRejected a s _).trans (keepsByte_commit a _ _ _ _)

theorem keepsByte_receptionEnds {a : Nat} (s : State) (x : ImageRx) (b : Bytes)
    (h : a < 0x100000000 ∨ 0x100000000 + 8 * ((b.length + 7) / 8) ≤ a) : KeepsByte a s (receptionEnds s x b) := by
  have hset : KeepsByte a s (setCtl s (fun c => { c with rx := none })) := .of_mem (setCtl_mem _ _)
  unfold receptionEnds
  dsimp only
  split
  · exact hset.trans (keepsByte_loadEnds _ _ _ _ h)
  · split
    · split
      · exact hset.trans (keepsByte_imageArrives _ _ _ h)
      · exact hset.trans (keepsByte_imageRejected a _ _)
    · exact hset

theorem takeMessage_touches (s : State) (l ty : Nat) : Touches [.axl] s (takeMessage s l ty) :=
    touches_takeMessage (.refl _ _) _ _ (by decide)

theorem imageDone_stays {a : Nat} (s : State) (l : Fin 16)
    (h : ∀ x, s.ctl.rx = some x → a < 0x100000000 ∨ 0x100000000 + 8 * ((x.got.length + 7) / 8) ≤ a) :
    ByteStays a s (exec (.imageDone l) s) := by
  have htake : KeepsByte a s (takeMessage s l 8) := .of_touches (takeMessage_touches s l 8)
  show ByteStays a s (execImageDone l s)
  unfold execImageDone
  dsimp only
  split
  · next x hx =>
    exact .ite (fun _ => byteStays_next (htake.trans (keepsByte_receptionEnds _ x _ (h x hx)))) fun _ =>
        byteStays_next htake
  · exact byteStays_next htake

theorem imageAbort_stays (a : Nat) (s : State) (l : Fin 16) : ByteStays a s (exec (.imageAbort l) s) := by
  have htake : KeepsByte a s (takeMessage s l 8) := .of_touches (takeMessage_touches s l 8)
  have hset := htake.trans (.of_mem (setCtl_mem _ fun c =>
      { c with offers := c.offers.filter (fun o => o.1 != l.val) }))
  show ByteStays a s (execImageAbort l s)
  unfold execImageAbort
  dsimp only
  split
  · next x hx =>
    refine .ite (fun _ => byteStays_next (hset.trans (keepsByte_receptionEnds _ x [] ?_))) fun _ => byteStays_next hset
    exact Nat.lt_or_ge _ _
  · exact byteStays_next hset

theorem runCommand_stays {a : Nat} {s : State} {m op : Nat} {body : Request → State}
    (h : ∀ r, headOf s m op = some r → KeepsByte a s (body r)) : ByteStays a s (runCommand s m op body) := by
  unfold runCommand
  split
  · exact byteStays_same a s
  · next r hr =>
    exact .ite (fun _ => byteStays_same a s) fun _ =>
      .ite (fun _ => byteStays_next (keepsByte_commit a s _ _ _)) fun _ => byteStays_next (h r hr)

theorem imageLoad_stays {a : Nat} (s : State) (m : Fin 8) (data : List Nat)
    (h : ∀ r, headOf s m 0x50 = some r → a < 0x100000000 ∨ 0x100000000 + 8 * ((leAt r.payload 4 4 + 7) / 8) ≤ a) :
    ByteStays a s (exec (.imageLoad m data) s) := by
  have hstarts : KeepsByte a s (loadStarts s) := .of_mem (setCtl_mem _ _)
  refine runCommand_stays fun r hr => ?_
  dsimp only
  split
  · exact keepsByte_commit a s _ _ _
  · split
    · split
      · exact hstarts.trans (keepsByte_commit a _ _ _ _)
      · refine KeepsByte.trans ?_ (keepsByte_loadEnds _ _ _ _ ?_)
        · split
          · exact hstarts.trans (.of_touches (touches_h2dTake (.refl [.mov, .out, .obj 0x0C03, .obj 0x0C04] _) _ _
              (by decide)))
          · exact hstarts
        · have hlen : ((padTo (leAt r.payload 4 4) (data.map (· % 256))).take (leAt r.payload 4 4)).length
              = leAt r.payload 4 4 := by
            rw [List.length_take, padTo, List.length_append, List.length_replicate]
            omega
          rw [hlen]
          exact h r hr
    · refine (hstarts.trans ?_).trans
        (.of_touches (touches_takeOffer (.refl [.axl, .ctl, .out, .peer, .obj 0x0D05] _) (by decide)))
      exact .of_mem ((setCtl_mem _ _).trans (touches_setHead (.refl [.ctl] _) _ _ (by decide)).mem_eq)

end Sys2Proof
end

section
/-! PROOF. The corner-turn regions, and the boots, which clear the memory whole (O36). -/

namespace Sys2Proof

-- one proof at a time, which bounds the memory of the compile
set_option Elab.async false

open Sys2Proof.Machine

/-! ### The corner-turn regions, banks 129 to 146 (R162, R199, R235) -/

/-- Where the corner-turn buffers that are in use stand: two halves, four places of the group's data, 1,024 channels. -/
def CornerFits (s : State) : Prop :=
  (∀ b ∈ s.chz.filling, b.half < 2) ∧ (∀ b ∈ s.peer.buffers, b.place < 4) ∧ rd s Obj.DAH_BAND.K_COUNT ≤ 1024

/-- A step that keeps the buffers where they fit, and the byte at `a`. -/
def CornerStep (a : Nat) (s t : State) : Prop := CornerFits s → CornerFits t ∧ KeepsByte a s t

/-- Address `a` is outside the corner-turn regions. -/
def OutsideCorner (a : Nat) : Prop := a < wordAddr (129 * 262144) ∨ wordAddr (147 * 262144) ≤ a

theorem cornerStep_refl (a : Nat) (s : State) : CornerStep a s s := fun h => ⟨h, keepsByte_refl a s⟩

theorem CornerStep.trans {a : Nat} {s t u : State} (h : CornerStep a s t) (k : CornerStep a t u) :
    CornerStep a s u := by
  intro hs
  obtain ⟨ht, hst⟩ := h hs
  obtain ⟨hu, htu⟩ := k ht
  exact ⟨hu, hst.trans htu⟩

/-- A step that leaves the memory, and the buffers as they are or fewer of them. -/
theorem CornerStep.of_touches {a : Nat} {ps : List Part} {s t : State} (h : Touches ps s t)
    (hfill : t.chz.filling = s.chz.filling) (hbuf : t.peer.buffers = s.peer.buffers)
    (hm : Part.mem.within ps = false := by rfl) (ho : (Part.obj 0x0702).within ps = false := by rfl) :
        CornerStep a s t := by
  rintro ⟨hf, hb, hk⟩
  refine ⟨⟨?_, ?_, ?_⟩, .of_touches h hm⟩
  · rw [hfill]
    exact hf
  · rw [hbuf]
    exact hb
  · rw [h.rd _ _ (by decide) ho]
    exact hk

theorem CornerStep.of_apart {a : Nat} {ps : List Part} {s t : State} (h : Touches ps s t)
    (hc : Part.chz.within ps = false := by rfl) (hp : Part.peer.within ps = false := by rfl)
    (hm : Part.mem.within ps = false := by rfl) (ho : (Part.obj 0x0702).within ps = false := by rfl) :
        CornerStep a s t :=
  .of_touches h (by rw [h.chz_eq hc]) (by rw [h.peer_eq hp]) hm ho

theorem CornerStep.of_chz {a : Nat} {ps : List Part} {s t : State} (h : Touches ps s t)
    (hfill : t.chz.filling = s.chz.filling) (hp : Part.peer.within ps = false := by rfl)
    (hm : Part.mem.within ps = false := by rfl) (ho : (Part.obj 0x0702).within ps = false := by rfl) :
        CornerStep a s t :=
  .of_touches h hfill (by rw [h.peer_eq hp]) hm ho

theorem setChz_touches (s : State) (g : Channelizer → Channelizer) : Touches [.chz] s (setChz s g) :=
  touches_setChz (.refl _ _) _ (by decide)

theorem setPeer_touches (s : State) (g : PeerState → PeerState) : Touches [.peer] s (setPeer s g) :=
  touches_setPeer (.refl _ _) _ (by decide)

theorem cornerStep_foldl {α : Type} {a : Nat} (g : State → α → State) (l : List α) (s : State)
    (h : ∀ t, ∀ x ∈ l, CornerStep a t (g t x)) : CornerStep a s (l.foldl g s) := by
  induction l generalizing s with
  | nil => exact cornerStep_refl a s
  | cons x l ih =>
    exact (h s x List.mem_cons_self).trans (ih (g s x) fun t y hy => h t y (List.mem_cons_of_mem _ hy))

theorem cornerStep_clockStarts (a : Nat) (s : State) (b : Nat) : CornerStep a s (clockStarts s b) :=
  .of_apart (clockStarts_touches s b)

theorem cornerStep_raise (a : Nat) (s : State) (code inst x y : Nat) : CornerStep a s (raise s code inst x y) :=
  .of_apart (raise_touches s code inst x y)

/-- Words of the corner-turn regions. -/
theorem keepsByte_storeWords {a k n : Nat} (ha : OutsideCorner a) (s : State) (b : Bytes) (poison : Bool)
    (hb : b.length = 8 * n)
    (hlo : 129 * 262144 ≤ k) (hhi : k + n ≤ 147 * 262144) : KeepsByte a s (storeWords s k b poison) := by
  have hmend : Touches [.flt] (markWords (storeBytes s (wordAddr k) b) k (b.length / 8) poison)
      (storeWords s k b poison) :=
    touches_bankMended (.refl _ _) _ (by decide)
  refine KeepsByte.trans (t := storeBytes s (wordAddr k) b) ?_ (.of_mem hmend.mem_eq)
  rw [KeepsByte, storeBytes_mem]
  refine memGet_memWrite_outside a _ _ _ ?_
  have hstart := wordAddr_add (129 * 262144) (k - 129 * 262144)
  have hend := wordAddr_add k (147 * 262144 - k)
  rw [show 129 * 262144 + (k - 129 * 262144) = k by omega] at hstart
  rw [show k + (147 * 262144 - k) = 147 * 262144 by omega] at hend
  unfold OutsideCorner at ha
  omega

theorem cornerStep_storeWords {a k n : Nat} (ha : OutsideCorner a) (s : State) (b : Bytes) (poison : Bool)
    (hb : b.length = 8 * n) (hlo : 129 * 262144 ≤ k) (hhi : k + n ≤ 147 * 262144) :
    CornerStep a s (storeWords s k b poison) := by
  have h : Touches [.flt, .fst, .mem] s (storeWords s k b poison) := touches_storeWords (.refl _ _) _ _ _ (by decide)
  rintro ⟨hf, hp, hk⟩
  refine ⟨⟨?_, ?_, ?_⟩, keepsByte_storeWords ha s b poison hb hlo hhi⟩
  · rw [h.chz_eq]
    exact hf
  · rw [h.peer_eq]
    exact hp
  · rw [h.rd _ _ (by decide) (by decide)]
    exact hk

/-! ### Peer packets in their buffers -/

theorem cornerStep_openGroup (a : Nat) (s : State) (g : Nat) : CornerStep a s (openGroup s g) := by
  unfold openGroup
  dsimp only
  split
  · exact cornerStep_refl a s
  · split
    · next k hk =>
      rintro ⟨hf, hp, hc⟩
      refine ⟨⟨hf, fun b hb => ?_, hc⟩, .of_mem (setPeer_mem _ _)⟩
      obtain hb | hb := List.mem_append.1 hb
      · exact hp b hb
      · rw [List.mem_singleton.1 hb]
        exact List.mem_range.1 (List.mem_of_find?_eq_some hk)
    · exact cornerStep_refl a s

/-- The place of a packet's slot is inside the corner-turn regions. -/
theorem peerSlot_fits (s : State) {p j m : Nat} (g : Nat) (hp : p < 4) (hj : j < peerChannels s) (hm : m < 16) :
    129 * 262144 ≤ peerWord s p + ((64 * j + g % 64) * memberCount s + m) * 32
      ∧ peerWord s p + ((64 * j + g % 64) * memberCount s + m) * 32 + 32 ≤ 147 * 262144 := by
  have hg := Nat.mod_lt g (show 0 < 64 by decide)
  generalize g % 64 = n at hg
  unfold peerChannels at hj
  unfold peerWord memberCount
  split
  · next hc =>
    rw [if_pos hc] at hj
    omega
  · next hc =>
    rw [if_neg hc] at hj
    omega

theorem mem_updFirst {α : Type} {p : α → Bool} {f : α → α} {x : α} {l : List α} (h : x ∈ updFirst p f l) :
    ∃ y ∈ l, x = y ∨ x = f y := by
  induction l with
  | nil => cases h
  | cons y l ih =>
    unfold updFirst at h
    split at h
    · obtain rfl | h := List.mem_cons.1 h
      · exact ⟨y, List.mem_cons_self, .inr rfl⟩
      · exact ⟨x, List.mem_cons_of_mem _ h, .inl rfl⟩
    · obtain rfl | h := List.mem_cons.1 h
      · exact ⟨x, List.mem_cons_self, .inl rfl⟩
      · obtain ⟨z, hz, hxz⟩ := ih h
        exact ⟨z, List.mem_cons_of_mem _ hz, hxz⟩

theorem cornerStep_placePeer {a : Nat} (ha : OutsideCorner a) (s : State) (g m valid : Nat) (data : List (List Nat))
    (poison : Bool) (hm : m < 16) : CornerStep a s (placePeer s g m valid data poison).2 := by
  unfold placePeer
  dsimp only
  split
  · exact cornerStep_openGroup a s g
  · next b hb =>
    intro hs
    obtain ⟨hopen, hkept⟩ := cornerStep_openGroup a s g hs
    have hplace : b.place < 4 := hopen.2.1 b (List.mem_of_find?_eq_some hb)
    have hstore := cornerStep_foldl (a := a) (fun t j =>
      storeWords t (peerWord s b.place + ((64 * j + g % 64) * memberCount s + m) * 32)
        ((List.range 256).map (fun i => nth (nth data j []) i 0 % 256)) poison) (List.range (peerChannels s))
            (openGroup s g)
      fun t j hj => by
        obtain ⟨hlo, hhi⟩ := peerSlot_fits s g hplace (List.mem_range.1 hj) hm
        exact cornerStep_storeWords ha t _ poison (n := 32) (by simp) hlo hhi
    obtain ⟨⟨hf, hp, hc⟩, hmem⟩ := hstore hopen
    refine ⟨⟨hf, fun x hx => ?_, hc⟩, hkept.trans (hmem.trans (.of_mem (setPeer_mem _ _)))⟩
    obtain ⟨y, hy, hxy⟩ := mem_updFirst hx
    have := hp y hy
    obtain rfl | rfl := hxy
    · exact this
    · exact this

theorem PeerSent.buffers {s t : State} (h : PeerSent s t) : t.peer.buffers = s.peer.buffers := by
  obtain ⟨_, _, h⟩ := h
  rw [h]

theorem cornerStep_queuePeer (a : Nat) (s : State) (w dst g : Nat) (b : Bytes) (own : Bool) :
    CornerStep a s (queuePeer s w dst g b own) := by
  have h : Touches [.axl, .out, .peer, .obj 0x0D05] s (queuePeer s w dst g b own) :=
      touches_queuePeer (.refl _ _) _ _ _ _ _ (by decide)
  refine .of_touches h (by rw [h.chz_eq]) ?_
  exact (peerSent_pump (setPeer s _) _).buffers

theorem memberNo_lt (s : State) : memberNo s < 16 := by
  unfold memberNo
  split
  · omega
  · omega

theorem cornerStep_badWriteTaken (a : Nat) (s : State) (b : Bool) :
    CornerStep a s { s with mov := { s.mov with badWrite := b } } :=
  fun h => ⟨h, .of_mem rfl⟩

theorem cornerStep_peerFeed {a : Nat} (ha : OutsideCorner a) (s : State) (p : Spectrum) :
    CornerStep a s (peerFeed s p) := by
  have htaken := cornerStep_badWriteTaken a s false
  unfold peerFeed
  dsimp only
  generalize { s with mov := { s.mov with badWrite := false } } = u at htaken
  split
  · exact (htaken.trans (cornerStep_placePeer ha u _ _ _ _ _ (memberNo_lt s))).trans
      (cornerStep_foldl _ _ _ fun t r _ => cornerStep_queuePeer a t _ _ _ _ _)
  · exact cornerStep_refl a s

theorem cornerStep_peerTake {a : Nat} (ha : OutsideCorner a) (n : Nat) (s : State) : CornerStep a s (peerTake n s) := by
  induction n generalizing s with
  | zero => exact cornerStep_refl a s
  | succ n ih =>
    unfold peerTake
    split
    · exact cornerStep_refl a s
    · split
      · exact ((CornerStep.of_touches (setPeer_touches s _) rfl rfl).trans (cornerStep_peerFeed ha _ _)).trans (ih _)
      · exact cornerStep_refl a s

/-! ### Spectra in their buffers (R109, R162) -/

theorem cornerStep_sendDescriptor (a : Nat) (s : State) : CornerStep a s (sendDescriptor s) := by
  unfold sendDescriptor
  split
  · refine CornerStep.trans ?_ (cornerStep_clockStarts a _ 7)
    rintro ⟨-, hp, hc⟩
    exact ⟨⟨nofun, hp, hc⟩, .of_mem (setChz_mem _ _)⟩
  · exact cornerStep_refl a s

theorem cornerStep_obtainBuffer (a : Nat) (s : State) (n : Nat) : CornerStep a s (obtainBuffer s n) := by
  unfold obtainBuffer
  split
  · exact cornerStep_refl a s
  · dsimp only
    split
    · next h hh =>
      refine (cornerStep_sendDescriptor a s).trans ?_
      rintro ⟨-, hp, hc⟩
      refine ⟨⟨?_, hp, hc⟩, .of_mem (setChz_mem _ _)⟩
      rintro b ⟨⟩
      have := List.mem_of_find?_eq_some hh
      simp only [List.mem_cons, List.not_mem_nil, or_false] at this
      dsimp only
      omega
    · exact cornerStep_sendDescriptor a s

theorem bufferFor_fits {s : State} {n : Nat} {b : CornerBuffer} (h : bufferFor s n = some b) (hs : CornerFits s) :
    b.half < 2 := by
  unfold bufferFor at h
  split at h
  · next c hc =>
    split at h
    · cases h
      exact hs.1 b hc
    · cases h
  · cases h

theorem cornerStep_writeCorner {a : Nat} (ha : OutsideCorner a) (s : State) (b : CornerBuffer) (p : Spectrum)
    (hb : b.half < 2) : CornerStep a s (writeCorner s b p) := by
  rintro hs
  have hstore := cornerStep_foldl (a := a) (fun t j =>
    storeWords t (cornerWord b.half + (64 * j + p.n % 64) * 32) (cornerRow s p j) s.mov.badWrite)
    (List.range (rd s Obj.DAH_BAND.K_COUNT)) s fun t j hj => by
      have hk := hs.2.2
      have hj := List.mem_range.1 hj
      have hn := Nat.mod_lt p.n (show 0 < 64 by decide)
      refine cornerStep_storeWords ha t _ _ (n := 32) (by simp [cornerRow]) ?_ ?_
      · unfold cornerWord cornerBank
        omega
      · unfold cornerWord cornerBank
        omega
  obtain ⟨⟨-, hp, hc⟩, hmem⟩ := hstore hs
  refine ⟨⟨?_, hp, hc⟩, hmem.trans (.of_mem rfl)⟩
  rintro x ⟨⟩
  exact hb

theorem cornerStep_deliver4 {a : Nat} (ha : OutsideCorner a) (s : State) (p : Spectrum) :
    CornerStep a s (deliver4 s p).2 := by
  unfold deliver4
  split
  · split
    · exact ((CornerStep.of_touches (setPeer_touches s _) rfl rfl).trans (cornerStep_clockStarts a _ 8)).trans
        (cornerStep_peerTake ha 2 _)
    · exact cornerStep_refl a s
  · dsimp only
    have hobtain := cornerStep_obtainBuffer a s p.n
    split
    · exact hobtain
    · next b hb =>
      split
      · exact hobtain
      · dsimp only
        intro hs
        obtain ⟨hfit, hkept⟩ := hobtain hs
        have hwrite := (cornerStep_clockStarts a (obtainBuffer s p.n) 10).trans
          (cornerStep_writeCorner ha (clockStarts (obtainBuffer s p.n) 10) b p (bufferFor_fits hb hfit))
        refine (CornerStep.trans (s := obtainBuffer s p.n) ?_ (cornerStep_refl a _) hfit).imp_right hkept.trans
        split
        · exact hwrite.trans (cornerStep_sendDescriptor a _)
        · exact hwrite

theorem cornerStep_drain4 {a : Nat} (ha : OutsideCorner a) (n : Nat) (s : State) : CornerStep a s (drain4 n s) := by
  induction n generalizing s with
  | zero => exact cornerStep_refl a s
  | succ n ih =>
    unfold drain4
    split
    · exact cornerStep_refl a s
    · next p rest _ =>
      split
      · exact cornerStep_refl a s
      · dsimp only
        split
        · exact ((cornerStep_deliver4 ha s p).trans (.of_chz (setChz_touches _ _) rfl)).trans (ih _)
        · exact cornerStep_deliver4 ha s p

theorem cornerStep_drain8 (a n : Nat) (s : State) : CornerStep a s (drain8 n s) := by
  induction n generalizing s with
  | zero => exact cornerStep_refl a s
  | succ n ih =>
    unfold drain8
    split
    · exact cornerStep_refl a s
    · next p rest _ =>
      split
      · exact cornerStep_refl a s
      · split
        · next t ht =>
          exact ((CornerStep.of_apart (touches_deliver8 ht (.refl [.mov, .pwr, .sun, .obj 0x1106] s) (by decide))).trans
            (.of_chz (setChz_touches _ _) rfl)).trans (ih _)
        · exact cornerStep_refl a s

/-! ### What the channelizer does before and after (R98, R105 to R108) -/

theorem cornerStep_spectrumMissed (a : Nat) (s : State) (sunPath : Bool) (p : Spectrum) :
    CornerStep a s (spectrumMissed s sunPath p) := by
  unfold spectrumMissed
  dsimp only
  generalize hu : raise (bump (setChz s _) Obj.CHZ_STATUS.DL_TOTAL 0 1) 0x0401 _ _ _ = u
  have hu : CornerStep a s u := by
    rw [← hu]
    refine CornerStep.trans (.of_chz (setChz_touches _ _) ?_) (CornerStep.trans
      (.of_apart (touches_bump (.refl [.obj 0x0406] _) _ _ _ (by decide))) (cornerStep_raise a _ _ _ _ _))
    cases sunPath
    · rfl
    · rfl
  split
  · exact hu.trans (cornerStep_sendDescriptor a u)
  · exact hu

theorem cornerStep_dropOverdue (a : Nat) (s : State) (sunPath : Bool) : CornerStep a s (dropOverdue s sunPath) := by
  unfold dropOverdue
  split
  · split
    · exact cornerStep_spectrumMissed a s _ _
    · exact cornerStep_refl a s
  · exact cornerStep_refl a s

theorem cornerStep_eqError (a : Nat) (s : State) (e : Nat × Bool) : CornerStep a s (eqError s e) := by
  unfold eqError
  split
  · exact CornerStep.trans (.of_apart (touches_bump (.refl [.obj 0x0406] _) _ _ _ (by decide)))
      (cornerStep_raise a _ _ _ _ _)
  · exact CornerStep.trans (.of_chz (setChz_touches _ _) rfl) (cornerStep_raise a _ _ _ _ _)

theorem cornerStep_applyEq (a : Nat) (s : State) (e : EqChange) : CornerStep a s (applyEq s e) :=
  .of_chz (setChz_touches s _) rfl

theorem cornerStep_applyEqWhere (a : Nat) (s : State) (p : EqChange → Bool) : CornerStep a s (applyEqWhere s p) := by
  unfold applyEqWhere
  dsimp only
  have hchanged := cornerStep_foldl (a := a) applyEq (s.chz.eqWaiting.filter p) s fun t e _ => cornerStep_applyEq a t e
  generalize (s.chz.eqWaiting.filter p).foldl applyEq s = u at hchanged
  refine hchanged.trans (CornerStep.trans (t := setChz u fun c =>
      { c with eqWaiting := c.eqWaiting.filter (fun e => !p e) })
    (.of_chz (setChz_touches _ _) rfl) ?_)
  generalize setChz u _ = v
  refine CornerStep.trans (t := wr v Obj.CHZ_STATUS.EQ_PENDING 0 (b2n (!v.chz.eqWaiting.isEmpty)))
    (.of_apart (touches_wr (.refl [.obj 0x0406] _) _ _ _ (by decide))) ?_
  refine cornerStep_foldl _ _ _ fun t i _ => ?_
  split
  · exact .of_apart (touches_endFault (.refl [.flt] t) _ _ (by decide))
  · exact cornerStep_refl a t

theorem cornerStep_dahNoteEq (a : Nat) (s : State) (n : Nat) : CornerStep a s (dahNoteEq s n) := fun h =>
    ⟨h, .of_mem rfl⟩

theorem cornerStep_sunNoteEq (a : Nat) (s : State) (n : Nat) : CornerStep a s (sunNoteEq s n) := fun h =>
    ⟨h, .of_mem rfl⟩

theorem cornerStep_eqBoundary (a : Nat) (s : State) (n : Nat) : CornerStep a s (eqBoundary s n) := by
  unfold eqBoundary
  generalize (fun e : EqChange => decide (e.since < 2048 * n)
    && (if e.atSequence then sequenceBoundary s n else decide (n % 1024 = 0))) = due
  dsimp only
  split
  · exact ((cornerStep_applyEqWhere a s due).trans (cornerStep_dahNoteEq a _ n)).trans (cornerStep_sunNoteEq a _ n)
  · exact cornerStep_refl a s

theorem cornerStep_maskBoundary (a : Nat) (s : State) (n : Nat) : CornerStep a s (maskBoundary s n) := by
  have hd (t : State) (v : Nat) : CornerStep a t (dahNoteMask (setLive t Obj.CHZ_CHMASK.DAH_MASK 0 v) n) :=
    fun h => ⟨h, .of_mem rfl⟩
  have hs (t : State) (v : Nat) : CornerStep a t (sunNoteMask (setLive t Obj.CHZ_CHMASK.SUN_MASK 0 v) n) :=
    fun h => ⟨h, .of_mem rfl⟩
  have hw (t : State) : CornerStep a t (showMask t) := .of_apart (touches_wr (.refl [.obj 0x0406] _) _ _ _ (by decide))
  have hc (t : State) : CornerStep a t (setChz t (fun c => { c with maskWrites := [] })) :=
      .of_chz (setChz_touches t _) rfl
  have hite (c : Prop) [Decidable c] (t u : State) (h : CornerStep a t u) : CornerStep a t (if c then u else t) := by
    split
    · exact h
    · exact cornerStep_refl a t
  have hite' (c : Prop) [Decidable c] (t u : State) (h : CornerStep a t u) : CornerStep a t (if c then t else u) := by
    split
    · exact cornerStep_refl a t
    · exact h
  unfold maskBoundary
  exact (((hite _ s _ (hd s _)).trans (hite _ _ _ (hs _ _))).trans (hite' _ _ _ (hc _))).trans (hw _)

theorem cornerStep_countInvalid (a : Nat) (s : State) (i cause : Nat) : CornerStep a s (countInvalid s i cause) := by
  unfold countInvalid
  split
  · exact cornerStep_raise a s _ _ _ _
  · refine .of_chz (setChz_touches s _) ?_
    rw [setChz_chz]
    split <;> rfl

theorem cornerStep_countClips (a : Nat) (s : State) (ws : List (List (Int × Int))) :
    CornerStep a s (countClips s ws) := by
  unfold countClips
  exact .of_chz (setChz_touches s _) (by rw [setChz_chz])

theorem cornerStep_formSpectrum (a : Nat) (s : State) (n : Nat) : CornerStep a s (formSpectrum s n).2 := by
  unfold formSpectrum
  exact (cornerStep_foldl _ _ _ fun t i _ => cornerStep_countInvalid a t i _).trans (cornerStep_countClips a _ _)

theorem chzBlockCounts_chz (s : State) (x : Nat) : (chzBlockCounts s x).chz.filling = s.chz.filling := by
  have hrow (t : State) (k : Nat) (v w : Nat) : (wr (wr (wr t Obj.CHZ_CLIPS.CLIP4 k v) Obj.CHZ_CLIPS.CLIP8 k w)
      Obj.CHZ_CLIPS.SPX0 k x).chz = t.chz := by
    rw [wr_chz, wr_chz, wr_chz]
  unfold chzBlockCounts
  dsimp only
  rw [setChz_chz]
  dsimp only
  refine congrArg Channelizer.filling ((foldl_same _ State.chz _ _ fun t i _ => ?_).trans
    (foldl_same _ State.chz _ _ fun t k _ => ?_))
  · exact foldl_same _ State.chz _ _ fun u p _ => wr_chz _ _ _ _
  · split
    · rw [(raise_touches _ _ _ _ _).chz_eq, hrow]
    · rw [hrow]

theorem cornerStep_chzBlockCounts (a : Nat) (s : State) (x : Nat) : CornerStep a s (chzBlockCounts s x) := by
  have h : Touches [.chz, .flt, .notes, .obj 0x0401, .obj 0x0404, .obj 0x0405, .obj 0x0C06] s (chzBlockCounts s x) :=
    touches_chzBlockCounts (.refl _ _) _ (by decide)
  exact .of_chz h (chzBlockCounts_chz s x)

theorem cornerStep_chzHalt (a : Nat) (s : State) : CornerStep a s (chzHalt s) := by
  unfold chzHalt
  split
  · exact .of_chz (setChz_touches s _) rfl
  · exact cornerStep_refl a s

theorem cornerStep_releaseGroup {a : Nat} (ha : OutsideCorner a) (s : State) : CornerStep a s (releaseGroup s) := by
  unfold releaseGroup
  split
  · exact .of_touches (setPeer_touches s _) rfl rfl
  · exact (CornerStep.of_chz (setChz_touches s fun c => { c with full := c.full.drop 1 }) rfl).trans
      (cornerStep_drain4 ha 3 _)

theorem cornerStep_correlateGroup (a : Nat) (s : State) (q : DahSeq) (g : GroupIn) (u : DahliaUpsets) :
    CornerStep a s (correlateGroup s q g u) := by
  have h : Touches [.dah, .flt, .fst, .mov, .notes, .pwr, .obj 0x0705, .obj 0x0C06, .obj 0x1106] s
      (correlateGroup s q g u) :=
    touches_correlateGroup (.refl _ _) _ _ _ (by decide)
  exact .of_apart h

theorem cornerStep_discardBlock (a : Nat) (s : State) (n : Nat) : CornerStep a s (discardBlock s n) := by
  have h : Touches [.dah, .flt, .notes, .obj 0x0705, .obj 0x0C06] s (discardBlock s n) :=
    touches_discardBlock (.refl _ _) _ (by decide)
  exact .of_apart h

theorem cornerStep_memberBack (a : Nat) (s : State) (m : Nat) : CornerStep a s (memberBack s m) := by
  have h : Touches [.flt, .peer, .obj 0x0802] s (memberBack s m) := touches_memberBack (.refl _ _) _ (by decide)
  refine .of_touches h (by rw [h.chz_eq]) ?_
  unfold memberBack
  dsimp only
  rw [setPeer_peer]
  dsimp only
  split
  · rfl
  · rw [(touches_endFault (.refl [.flt] _) _ _ (by decide) : Touches [.flt] _ _).peer_eq, wr_peer]

/-- The command keeps the corner-turn buffers where they fit, and the byte at `a`. -/
def CornerKept (a : Nat) (s : State) (o : Host.Outcome State Fault Refusal) : Prop :=
    ∀ t, o = .next t → CornerStep a s t

theorem cornerKept_next {a : Nat} {s t : State} (h : CornerStep a s t) : CornerKept a s (.next t) := by
  rintro _ ⟨⟩
  exact h

theorem cornerKept_same (a : Nat) (s : State) : CornerKept a s (.next s) := cornerKept_next (cornerStep_refl a s)

theorem spectrumComplete_keepsCorner {a : Nat} (ha : OutsideCorner a) (s : State) (u : List (Nat × Bool)) :
    CornerKept a s (execSpectrumComplete u s) := by
  unfold execSpectrumComplete
  split
  · dsimp only
    have hready := ((((cornerStep_dropOverdue a s false).trans (cornerStep_dropOverdue a _ true)).trans
      (cornerStep_eqBoundary a _ s.chz.nextN)).trans (cornerStep_maskBoundary a _ s.chz.nextN)).trans
      (cornerStep_foldl eqError u _ fun t e _ => cornerStep_eqError a t e)
    generalize u.foldl eqError _ = v at hready
    have hformed := hready.trans (cornerStep_formSpectrum a v s.chz.nextN)
    generalize formSpectrum v s.chz.nextN = f at hformed
    have hwaits := hformed.trans (.of_chz (setChz_touches f.2 fun c =>
      { c with
        nextN := s.chz.nextN + 1,
        wait4 := if path4On s then c.wait4 ++ [f.1] else c.wait4,
        wait8 := if path8On s then c.wait8 ++ [f.1] else c.wait8 }) (by rw [setChz_chz]))
    generalize setChz f.2 _ = w at hwaits
    have hrest (x : State) : CornerStep a x (chzHalt (drain8 3 (drain4 3 (peerTake 2 x)))) :=
      (((cornerStep_peerTake ha 2 x).trans (cornerStep_drain4 ha 3 _)).trans (cornerStep_drain8 a 3 _)).trans
        (cornerStep_chzHalt a _)
    refine cornerKept_next ?_
    split
    · exact (hwaits.trans (cornerStep_chzBlockCounts a w _)).trans (hrest _)
    · exact hwaits.trans (hrest _)
  · exact cornerKept_same a s

theorem spectrumDeadlineMiss_keepsCorner {a : Nat} (ha : OutsideCorner a) (s : State) (b : Bool) :
    CornerKept a s (execSpectrumDeadlineMiss b s) := by
  unfold execSpectrumDeadlineMiss
  split
  · split
    · refine cornerKept_next ?_
      split
      · exact (cornerStep_spectrumMissed a s true _).trans (cornerStep_drain8 a 3 _)
      · exact (cornerStep_spectrumMissed a s false _).trans (cornerStep_drain4 ha 3 _)
    · exact cornerKept_same a s
  · exact cornerKept_same a s

theorem dahliaGroup_keepsCorner {a : Nat} (ha : OutsideCorner a) (s : State) (u : DahliaUpsets) :
    CornerKept a s (execDahliaGroup u s) := by
  unfold execDahliaGroup
  split
  · exact cornerKept_same a s
  · next n _ =>
    split
    · dsimp only
      have hexpect : CornerStep a s (setDah s fun d => { d with expect := n + 64 }) :=
        .of_apart (touches_setDah (.refl [.dah] s) _ (by decide))
      generalize setDah s _ = v at hexpect
      have hreleased (x : State) (h : CornerStep a v x) : CornerKept a s (.next (releaseGroup x)) :=
        cornerKept_next ((hexpect.trans h).trans (cornerStep_releaseGroup ha x))
      split
      · exact hreleased v (cornerStep_refl a v)
      · split
        · exact hreleased _ (cornerStep_discardBlock a v n)
        · split
          · split
            · exact hreleased _ (cornerStep_correlateGroup a v _ _ u)
            · exact hreleased v (cornerStep_refl a v)
          · exact hreleased v (cornerStep_refl a v)
    · exact cornerKept_same a s

theorem peerPacket_keepsCorner {a : Nat} (ha : OutsideCorner a) (s : State) (l : Fin 16) (k : PeerPacket) :
    CornerKept a s (execPeerPacket l k s) := by
  unfold execPeerPacket
  dsimp only
  have htaken : CornerStep a s (takeMessage s l 1) := .of_apart (touches_takeMessage (.refl [.axl] s) _ _ (by decide))
  generalize takeMessage s l 1 = s1 at htaken
  split
  · split
    · exact cornerKept_next (htaken.trans (cornerStep_queuePeer a s1 _ _ _ _ _))
    · exact cornerKept_same a s
  · split
    · have hback : CornerStep a s (if memberLive s (k.src % 16) && decide (mapGet s.peer.left (k.src % 16) = 0) then s1
          else memberBack s1 (k.src % 16)) := by
        split
        · exact htaken
        · exact htaken.trans (cornerStep_memberBack a s1 _)
      generalize (if memberLive s (k.src % 16) && decide (mapGet s.peer.left (k.src % 16) = 0) then s1
          else memberBack s1 (k.src % 16) : State) = s2 at hback
      have hheard : CornerStep a s (setPeer s2 fun p =>
          { p with heard := mapSet p.heard (k.src % 16) (k.gspx % 2 ^ 32) }) :=
        hback.trans (.of_touches (setPeer_touches s2 _) rfl rfl)
      generalize setPeer s2 _ = s3 at hheard
      have hcount (x : State) (f : Field) (i : Nat) (hf : f = Obj.PEER_MEMBER.LATE ∨ f = Obj.PEER_MEMBER.RECEIVED) :
          CornerStep a x (bump x f i 1) := by
        obtain rfl | rfl := hf
        · exact .of_apart (touches_bump (.refl [.obj 0x0803] x) _ _ _ (by decide))
        · exact .of_apart (touches_bump (.refl [.obj 0x0803] x) _ _ _ (by decide))
      split
      · exact cornerKept_next ((hheard.trans (hcount s3 _ _ (.inl rfl))).trans (cornerStep_raise a _ _ _ _ _))
      · have hplaced := hheard.trans (cornerStep_placePeer ha s3 (k.gspx % 2 ^ 32) (k.src % 16) k.valid
          ((List.range (peerChannels s)).map (fun j => (k.data.drop (256 * j)).take 256)) false
              (Nat.mod_lt _ (by decide)))
        refine cornerKept_next ?_
        split
        · exact hplaced.trans (hcount _ _ _ (.inr rfl))
        · exact hplaced
    · exact cornerKept_next htaken

theorem peerSendAgeDiscard_keepsCorner {a : Nat} (ha : OutsideCorner a) (s : State) :
    CornerKept a s (execPeerSendAgeDiscard s) := by
  unfold execPeerSendAgeDiscard
  split
  · next r _ =>
    refine cornerKept_next ?_
    have hdropped : CornerStep a s (setPeer s fun p => { p with sends := r.2 }) :=
        .of_touches (setPeer_touches s _) rfl rfl
    refine hdropped.trans (CornerStep.trans (.of_apart (touches_bump (.refl [.obj 0x0803] _) _ _ _ (by decide)))
      ((cornerStep_raise a _ _ _ _ _).trans (cornerStep_peerTake ha 2 _)))
  · exact cornerKept_same a s

theorem creditReturn_keepsCorner {a : Nat} (ha : OutsideCorner a) (s : State) (q : Fin 16) :
    CornerKept a s (execCreditReturn q s) := by
  unfold execCreditReturn
  dsimp only
  have hfree : CornerStep a s (queueFree s q) := fun h => ⟨h, .of_mem rfl⟩
  split
  · exact cornerKept_next (hfree.trans (cornerStep_drain4 ha _ _))
  · split
    · exact cornerKept_next (hfree.trans (cornerStep_drain8 a _ _))
    · exact cornerKept_next hfree

theorem cornerKept_stays {a : Nat} {s t : State} {o : Host.Outcome State Fault Refusal} (h : CornerKept a s o)
    (hfit : CornerFits s) (ht : o = .next t) : memGet t.mem a = memGet s.mem a := (h t ht hfit).2

theorem corner_stays (s t : State) (a : Nat) (hfill : ∀ b ∈ s.chz.filling, b.half < 2)
    (hbuf : ∀ b ∈ s.peer.buffers, b.place < 4)
    (hk : rd s Obj.DAH_BAND.K_COUNT ≤ 1024) (ha : OutsideCorner a)
    (h : (∃ u, exec (.spectrumComplete u) s = .next t) ∨ (∃ b, exec (.spectrumDeadlineMiss b) s = .next t)
      ∨ (∃ u, exec (.dahliaGroup u) s = .next t) ∨ (∃ l k, exec (.peerPacket l k) s = .next t)
      ∨ exec .peerSendAgeDiscard s = .next t ∨ (∃ q, exec (.creditReturn q) s = .next t)) :
    memGet t.mem a = memGet s.mem a := by
  have hfit : CornerFits s := ⟨hfill, hbuf, hk⟩
  obtain ⟨u, h⟩ | ⟨b, h⟩ | ⟨u, h⟩ | ⟨l, k, h⟩ | h | ⟨q, h⟩ := h
  · exact cornerKept_stays (spectrumComplete_keepsCorner ha s u) hfit h
  · exact cornerKept_stays (spectrumDeadlineMiss_keepsCorner ha s b) hfit h
  · exact cornerKept_stays (dahliaGroup_keepsCorner ha s u) hfit h
  · exact cornerKept_stays (peerPacket_keepsCorner ha s l k) hfit h
  · exact cornerKept_stays (peerSendAgeDiscard_keepsCorner ha s) hfit h
  · exact cornerKept_stays (creditReturn_keepsCorner ha s q) hfit h

/-! ### Boots clear the memory whole (log entry 43) -/

/-- The memory stays or is cleared whole. -/
def KeptOrCleared (s t : State) : Prop := t.mem = s.mem ∨ t.mem = []

theorem keptOrCleared_refl (s : State) : KeptOrCleared s s := .inl rfl

theorem KeptOrCleared.trans {s t u : State} (h : KeptOrCleared s t) (k : KeptOrCleared t u) : KeptOrCleared s u := by
  obtain k | k := k
  · rw [KeptOrCleared, k]
    exact h
  · exact .inr k

theorem KeptOrCleared.of_touches {ps : List Part} {s t : State} (h : Touches ps s t)
    (hp : Part.mem.within ps = false := by rfl) : KeptOrCleared s t := .inl (h.mem_eq hp)

theorem keptOrCleared_raise (s : State) (code inst a b : Nat) : KeptOrCleared s (raise s code inst a b) :=
  .of_touches (raise_touches s code inst a b)

theorem bootReset_mem (s : State) : (bootReset s).mem = [] := by
  unfold bootReset
  dsimp only
  rw [wr_mem]
  rfl

theorem enterRecovery_mem (s : State) : (enterRecovery s).mem = s.mem :=
  (touches_enterRecovery (.refl [.ctl, .pwr, .obj 0x1011] s) (by decide) : Touches [.ctl, .pwr, .obj 0x1011] s _).mem_eq

theorem coldBoot_mem (s : State) (failed : Bool) (source : BootFrom) : (coldBoot s failed source).mem = [] := by
  unfold coldBoot
  generalize (if failed then min 255 (s.aon.bootFails + 1) else s.aon.bootFails : Nat) = fails
  dsimp only
  generalize hu : setCtl (wr (setAon (bootReset s) _) Obj.PWR_FOUND.FOUND 0 _) _ = u
  have hu : u.mem = [] := by
    rw [← hu, setCtl_mem, wr_mem, setAon_mem, bootReset_mem]
  split
  · rw [enterRecovery_mem, hu]
  · exact hu

theorem keptOrCleared_coldBoot (s : State) (failed : Bool) (source : BootFrom) :
    KeptOrCleared s (coldBoot s failed source) :=
  .inr (coldBoot_mem s failed source)

theorem restartNotice_touches (t s : State) (kind : Nat) : Touches [.notes] t (restartNotice t s kind) :=
  touches_notice (.refl _ _) _ (by decide)

theorem restartNotice_mem (t s : State) (kind : Nat) : (restartNotice t s kind).mem = t.mem :=
  (restartNotice_touches t s kind).mem_eq

theorem keptOrCleared_forcedBoot (s : State) : KeptOrCleared s (forcedBoot s) :=
  .inr ((restartNotice_mem _ _ _).trans (coldBoot_mem s true .straps))

theorem keptOrCleared_warmRestart (s : State) (core : Nat) : KeptOrCleared s (warmRestart s core) := by
  unfold warmRestart
  dsimp only
  generalize hu : setCtl (wr (raise s 0x1003 0 core 0) Obj.MOV_MAP.REMAP 0 0) _ = u
  have hu : KeptOrCleared s u := by
    rw [← hu]
    exact (keptOrCleared_raise s _ _ _ _).trans (.inl ((setCtl_mem _ _).trans (wr_mem _ _ _ _)))
  split
  · exact hu.trans ((keptOrCleared_raise u _ _ _ _).trans (keptOrCleared_forcedBoot _))
  · split
    · exact hu
    · have h : Touches [.flt, .modes, .notes, .obj 0x0C06, .obj 0x1011] u (failTransition u 0) :=
        touches_failTransition (.refl _ _) _ (by decide)
      exact hu.trans (.of_touches h)

theorem keptOrCleared_selfCheck (s : State) (a b : Bool) : KeptOrCleared s (selfCheck s a b) := by
  unfold selfCheck
  split
  · exact keptOrCleared_refl s
  · split
    · have h : Touches [.ctl, .flt, .notes, .obj 0x0C06] s (coreFails s (b2n b)) :=
        touches_coreFails (.refl _ _) _ (by decide)
      exact .of_touches h
    · exact keptOrCleared_warmRestart s _

theorem keptOrCleared_restartLost (s : State) : KeptOrCleared s (restartLost s) := by
  unfold restartLost
  split
  · exact keptOrCleared_forcedBoot s
  · exact keptOrCleared_refl s

/-- What a latch-up takes with it clears the memory only where the control pair boots cold. -/
theorem keptOrCleared_latchupEffect (s : State) (d : Nat) : KeptOrCleared s (latchupEffect s d) := by
  unfold latchupEffect
  split
  · exact .inl (foldl_same _ State.mem _ _ fun t i _ =>
      (touches_showLine (.refl [.obj 0x0103] t) _ (by decide) : Touches [.obj 0x0103] _ _).mem_eq)
  split
  · exact .of_touches (touches_windowsStale (.refl [.bbl] s) (by decide))
  split
  · exact .of_touches (touches_samplingStops (.refl [.flt, .modes, .notes, .obj 0x0C06, .obj 0x1011] s) (by decide))
  split
  · split
    · exact .of_touches (touches_discardBlock (.refl [.dah, .flt, .notes, .obj 0x0705, .obj 0x0C06] s) _ (by decide))
    · exact keptOrCleared_refl s
  split
  · exact .of_touches (touches_bankLost
      (.refl [.bbl, .evt, .flt, .hk, .notes, .sun, .obj 0x0206, .obj 0x0A04, .obj 0x0C06] s) _ (by decide))
  split
  · exact .of_touches (touches_clockLoss
      (.refl [.axl, .flt, .notes, .out, .peer, .obj 0x0C06, .obj 0x0D04, .obj 0x0D05] s) _ (by decide))
  split
  · exact keptOrCleared_selfCheck s _ _
  split
  · exact (keptOrCleared_warmRestart s 0).trans (keptOrCleared_restartLost _)
  · exact keptOrCleared_refl s

theorem keptOrCleared_firmwareRead (s : State) : KeptOrCleared s (firmwareRead s) := by
  unfold firmwareRead
  dsimp only
  generalize hu : (List.takeWhile _ _).foldl _ s = u
  have hu : KeptOrCleared s u := by
    rw [← hu]
    exact .inl (foldl_same _ State.mem _ _ fun t x _ => (raise_touches t _ _ _ _).mem_eq)
  split
  · next t _ =>
    have hruns : KeptOrCleared u (firmwareRuns u t.1 t.2) :=
      .of_touches (touches_firmwareRuns (.refl [.ctl, .obj 0x0C01] u) _ _ (by decide))
    split
    · exact hu.trans hruns
    · exact (hu.trans hruns).trans (keptOrCleared_raise _ _ _ _ _)
  · exact hu.trans (keptOrCleared_coldBoot u _ _)

/-- The command leaves the memory or clears it whole. -/
def StaysOrCleared (s : State) (o : Host.Outcome State Fault Refusal) : Prop := ∀ t, o = .next t → KeptOrCleared s t

theorem staysOrCleared_next {s t : State} (h : KeptOrCleared s t) : StaysOrCleared s (.next t) := by
  rintro _ ⟨⟩
  exact h

theorem staysOrCleared_same (s : State) : StaysOrCleared s (.next s) := staysOrCleared_next (keptOrCleared_refl s)

theorem StaysOrCleared.ite {s : State} {c : Prop} [Decidable c] {t : State} (h : KeptOrCleared s t) :
    StaysOrCleared s (if c then .next t else .next s) := by
  split
  · exact staysOrCleared_next h
  · exact staysOrCleared_same s

theorem compareMismatch_clears (s : State) : StaysOrCleared s (exec .compareMismatch s) :=
  .ite (keptOrCleared_warmRestart s _)

theorem bootTimeout_clears (s : State) : StaysOrCleared s (exec .bootTimeout s) := .ite (keptOrCleared_coldBoot s _ _)

theorem bootCommandReboot_clears (s : State) : StaysOrCleared s (exec .bootCommandReboot s) := by
  show StaysOrCleared s (execBootCommandReboot s)
  unfold execBootCommandReboot
  split
  · exact staysOrCleared_next (keptOrCleared_coldBoot s _ _)
  · exact staysOrCleared_same s

theorem vddAonPowerUp_clears (s : State) : StaysOrCleared s (exec .vddAonPowerUp s) := by
  show StaysOrCleared s (execVddAonPowerUp s)
  unfold execVddAonPowerUp
  refine staysOrCleared_next (.inr ?_)
  rw [emit_mem]
  rfl

theorem warmRestartDone_clears (s : State) (ok : Bool) : StaysOrCleared s (exec (.warmRestartDone ok) s) := by
  show StaysOrCleared s (execWarmRestartDone ok s)
  unfold execWarmRestartDone
  split
  · split
    · exact staysOrCleared_next (keptOrCleared_forcedBoot s)
    · dsimp only
      refine staysOrCleared_next (.inl ?_)
      have hsettle (t : State) (n m : Nat) : (settle n t m).mem = t.mem :=
        (touches_settle (.refl [.ctl] t) _ _ (by decide) : Touches [.ctl] _ _).mem_eq
      have hlead (t : State) : (leadWithA t).mem = t.mem :=
        (touches_leadWithA (.refl [.flt, .notes, .obj 0x0C06] t) (by decide) :
            Touches [.flt, .notes, .obj 0x0C06] _ _).mem_eq
      have hdrop (t : State) : (commandsDropped t).mem = t.mem :=
        (touches_commandsDropped (.refl [.afe, .cmp, .cnv, .ctl, .live] t) (by decide) :
          Touches [.afe, .cmp, .cnv, .ctl, .live] _ _).mem_eq
      have hint (t : State) (m : Nat) : (interrupt t m).mem = t.mem :=
        (touches_interrupt (.refl [.ctl] t) _ (by decide) : Touches [.ctl] _ _).mem_eq
      rw [foldl_same _ State.mem _ _ fun t m _ => hsettle t _ m, hlead, restartNotice_mem, wr_mem, hdrop,
        foldl_same _ State.mem _ _ fun t m _ => hint t m, setCtl_mem]
  · exact staysOrCleared_same s

theorem resyncTimeout_clears (s : State) : StaysOrCleared s (exec .resyncTimeout s) := by
  show StaysOrCleared s (execResyncTimeout s)
  unfold execResyncTimeout
  split
  · dsimp only
    generalize hu : raise (setCtl s _) 0x1002 _ _ 0 = u
    have hu : KeptOrCleared s u := by
      rw [← hu]
      exact .trans (.inl (setCtl_mem s _)) (keptOrCleared_raise _ _ _ _ _)
    refine staysOrCleared_next ?_
    split
    · exact hu.trans (keptOrCleared_warmRestart u _)
    · exact hu
  · exact staysOrCleared_same s

theorem pornAssert_clears (s : State) (long : Bool) : StaysOrCleared s (exec (.pornAssert long) s) := by
  show StaysOrCleared s (execPornAssert long s)
  unfold execPornAssert
  split
  · refine staysOrCleared_next (.inr ?_)
    rw [emit_mem, setAon_mem, bootReset_mem]
  · exact staysOrCleared_next (keptOrCleared_raise s _ _ _ _)

theorem pornRelease_clears (s : State) (x : Fin 16) (y : Fin 4) (testEn disagree : Bool) (found : Nat) :
    StaysOrCleared s (exec (.pornRelease x y testEn disagree found) s) := by
  show StaysOrCleared s (execPornRelease x y testEn disagree found s)
  unfold execPornRelease
  split
  · exact staysOrCleared_same s
  split
  · exact staysOrCleared_next (.inl (emit_mem _ _))
  · dsimp only
    generalize hu : coldBoot (wr (setCtl s _) Obj.PWR_FOUND.FOUND 0 found) false .straps = u
    have hu : KeptOrCleared s u := .inr (by rw [← hu, coldBoot_mem])
    refine staysOrCleared_next ?_
    split
    · exact hu.trans (keptOrCleared_raise u _ _ _ _)
    · exact hu

theorem configVote_clears (s : State) (corrected : Nat) (lost : Bool) :
    StaysOrCleared s (exec (.configVote corrected lost) s) := by
  show StaysOrCleared s (execConfigVote corrected lost s)
  unfold execConfigVote
  dsimp only
  generalize hu : (List.range corrected).foldl _ s = u
  have hu : KeptOrCleared s u := by
    rw [← hu]
    exact .inl (foldl_same _ State.mem _ _ fun t _ _ => (raise_touches t _ _ _ _).mem_eq)
  refine .ite ?_
  split
  · exact hu.trans ((keptOrCleared_raise u _ _ _ _).trans (keptOrCleared_forcedBoot _))
  · exact hu

theorem flashImageRead_clears (s : State) (bundle : Bool) : StaysOrCleared s (exec (.flashImageRead bundle) s) := by
  show StaysOrCleared s (execFlashImageRead bundle s)
  unfold execFlashImageRead
  split
  · exact staysOrCleared_same s
  split
  · have h : Touches [.afe, .aon, .axl, .bbl, .cal, .chz, .cmp, .cnv, .ctl, .dah, .evt, .flt, .free, .fst, .hk, .live,
      .modes,
        .mov, .notes, .out, .pwr, .sun, .time, .trg, .regs] s (bundleRead s) :=
            touches_bundleRead (.refl _ _) (by decide)
    refine staysOrCleared_next ?_
    split
    · exact .of_touches h
    · exact keptOrCleared_refl s
  · refine staysOrCleared_next ?_
    split
    · exact keptOrCleared_refl s
    · exact keptOrCleared_firmwareRead s

theorem latchup_clears (s : State) (d : Fin 394) : StaysOrCleared s (exec (.latchup d) s) := by
  show StaysOrCleared s (execLatchup d s)
  unfold execLatchup
  dsimp only
  refine .ite ?_
  generalize decide (2 ≤ (List.filter _ (List.filter _ s.pwr.cycles)).length) = third
  generalize hu : raise (latchupDebt (bumpSat _ Obj.PWR_DOMAIN.LATCHUPS d 1) d) 0x1102 d d (Config.stepMa d) = u
  have hu : KeptOrCleared s u := by
    rw [← hu]
    refine .inl ?_
    rw [(raise_touches _ _ _ _ _).mem_eq,
        (touches_latchupDebt (.refl [.flt, .notes, .pwr, .obj 0x0C06, .obj 0x1107] _) _
      (by decide) : Touches [.flt, .notes, .pwr, .obj 0x0C06, .obj 0x1107] _ _).mem_eq, bumpSat, wr_mem, bump, wr_mem,
      setPwr_mem, (touches_setDom (.refl [.pwr, .obj 0x0A04] _) _ _ (by decide) :
          Touches [.pwr, .obj 0x0A04] _ _).mem_eq]
  split
  · exact (hu.trans (keptOrCleared_raise u _ _ _ _)).trans (keptOrCleared_latchupEffect _ _)
  · exact hu.trans (keptOrCleared_latchupEffect _ _)

theorem railsGood_clears (s : State) (ok : Bool) : StaysOrCleared s (exec (.railsGood ok) s) := by
  show StaysOrCleared s (execRailsGood ok s)
  unfold execRailsGood
  split
  · dsimp only
    split
    · refine staysOrCleared_next (.inl ?_)
      rw [(touches_domsUp (.refl [.pwr, .obj 0x0A04, .obj 0x1011] _) _ _ (by decide) :
          Touches [.pwr, .obj 0x0A04, .obj 0x1011] _ _).mem_eq, setAon_mem,
        (touches_qprotLatched (.refl [.live] _) _ _ (by decide) : Touches [.live] _ _).mem_eq,
        (touches_vout (.refl [.out] s) _ _ (by decide) : Touches [.out] _ _).mem_eq]
    · exact staysOrCleared_next ((show KeptOrCleared s _ from .inr (coldBoot_mem _ _ _)).trans
        (keptOrCleared_raise _ _ _ _ _))
  · exact staysOrCleared_same s

theorem boots_stayOrClear (s t : State)
    (h : (∃ c ∈ ([.compareMismatch, .bootTimeout, .bootCommandReboot, .vddAonPowerUp] : List Instr), exec c s = .next t)
      ∨ (∃ x y, exec (.selfCheck x y) s = .next t) ∨ (∃ x, exec (.warmRestartDone x) s = .next t)
      ∨ exec .resyncTimeout s = .next t ∨ (∃ x, exec (.pornAssert x) s = .next t)
      ∨ (∃ x y z v w, exec (.pornRelease x y z v w) s = .next t) ∨ (∃ x y, exec (.configVote x y) s = .next t)
      ∨ (∃ x, exec (.flashImageRead x) s = .next t) ∨ (∃ x, exec (.latchup x) s = .next t)
      ∨ (∃ x, exec (.railsGood x) s = .next t)) : t.mem = s.mem ∨ t.mem = [] := by
  obtain ⟨c, hc, h⟩ | ⟨x, y, h⟩ | ⟨x, h⟩ | h | ⟨x, h⟩ | ⟨x, y, z, v, w, h⟩ | ⟨x, y, h⟩ | ⟨x, h⟩ | ⟨x, h⟩ | ⟨x, h⟩ := h
  · simp only [List.mem_cons, List.not_mem_nil, or_false] at hc
    obtain rfl | rfl | rfl | rfl := hc
    · exact compareMismatch_clears s t h
    · exact bootTimeout_clears s t h
    · exact bootCommandReboot_clears s t h
    · exact vddAonPowerUp_clears s t h
  · exact staysOrCleared_next (keptOrCleared_selfCheck s x y) t h
  · exact warmRestartDone_clears s x t h
  · exact resyncTimeout_clears s t h
  · exact pornAssert_clears s x t h
  · exact pornRelease_clears s x y z v w t h
  · exact configVote_clears s x y t h
  · exact flashImageRead_clears s x t h
  · exact latchup_clears s x t h
  · exact railsGood_clears s x t h

/-- Settles O36: each row's clause says which stores it makes, and the byte is outside them. -/
theorem memoryFrame : Obligations.MemoryFrame := by
  intro s t a
  refine ⟨fun w ht h => converterWord_stays s w h t ht, fun src n r w syn ht h =>
      fstMasterRead_stays a s src n r w syn h t ht,
    fun m n r w st d p syn ht h => fstWrite_stays a s m n r w st d p syn h t ht,
    fun n r words last ht h => scrubRead_stays a s n r words last h t ht,
    fun n h ht k => halfBankInitDone_stays a s n h k t ht, ?_,
    fun off words syn ht h => bar2Read_stays s off words syn h t ht,
    fun who bar2 off syn ht h => halfReadLow_stays s who bar2 off syn h t ht, fun l ht h => imageDone_stays s l h t ht,
    fun l ht => imageAbort_stays a s l t ht, fun m d ht h => imageLoad_stays s m d h t ht,
    fun fails ht h => frBlockCoded_stays s fails h t ht, fun ht h => fragmentBuilt_stays s h t ht,
    fun serial g ht h => replyRequest_stays s serial g h t ht,
    fun hfill hbuf hk ha h => corner_stays s t a hfill hbuf hk ha h, boots_stayOrClear s t⟩
  intro x hstore hsram ht
  obtain ⟨hrun, hbeat, hreset⟩ := matrix_stays s x hstore hsram
  obtain ht | ht | ht := ht
  · exact hrun t ht
  · exact hbeat t ht
  · exact hreset t ht

end Sys2Proof
end

section
/-! PROOF. Restarts of the lockstep pair, its heartbeat and vote; resets and boots (O47, O49). -/

namespace Sys2Proof

-- one proof at a time, which bounds the memory of the compile
set_option Elab.async false

open Sys2Proof.Machine

/-! ### What a boot leaves (R361, R365, R366) -/

theorem enterRecovery_touches (s : State) : Touches [.ctl, .pwr, .obj 0x1011] s (enterRecovery s) :=
  touches_enterRecovery (.refl _ _) (by decide)

theorem bootReset_aon (s : State) :
    (bootReset s).aon = { AlwaysOn.atBoot with bootId := s.aon.bootId, bootFails := s.aon.bootFails,
                                               overcurrent := s.aon.overcurrent } := rfl

theorem coldBoot_aon (s : State) (failed : Bool) (source : BootFrom) :
    (coldBoot s failed source).aon
      = { (bootReset s).aon with bootId := (s.aon.bootId + 1) % 65536,
                                 bootFails := if failed then min 255 (s.aon.bootFails + 1) else s.aon.bootFails } := by
  unfold coldBoot
  generalize (if failed then min 255 (s.aon.bootFails + 1) else s.aon.bootFails : Nat) = fails
  dsimp only
  split
  · rw [(enterRecovery_touches _).aon_eq, setCtl_aon, wr_aon, setAon_aon]
  · rw [setCtl_aon, wr_aon, setAon_aon]

theorem coldBoot_counts (s : State) (failed : Bool) (source : BootFrom) :
    (coldBoot s failed source).aon.bootId = (s.aon.bootId + 1) % 65536
      ∧ (coldBoot s failed source).aon.bootFails = (if failed then min 255 (s.aon.bootFails + 1) else s.aon.bootFails)
      ∧ (coldBoot s failed source).aon.inReset = false := by
  rw [coldBoot_aon]
  exact ⟨rfl, rfl, by rw [bootReset_aon]; rfl⟩

theorem bootReset_straps (s : State) :
    (bootReset s).ctl.chipId = s.ctl.chipId ∧ (bootReset s).ctl.bootSrc = s.ctl.bootSrc := ⟨rfl, rfl⟩

theorem enterRecovery_straps (s : State) :
    (enterRecovery s).ctl.chipId = s.ctl.chipId ∧ (enterRecovery s).ctl.bootSrc = s.ctl.bootSrc := ⟨rfl, rfl⟩

theorem coldBoot_straps (s : State) (failed : Bool) (source : BootFrom) :
    (coldBoot s failed source).ctl.chipId = s.ctl.chipId ∧ (coldBoot s failed source).ctl.bootSrc = s.ctl.bootSrc := by
  unfold coldBoot
  generalize (if failed then min 255 (s.aon.bootFails + 1) else s.aon.bootFails : Nat) = fails
  dsimp only
  generalize hu : setCtl (wr (setAon (bootReset s) _) Obj.PWR_FOUND.FOUND 0 _) _ = u
  have hu : u.ctl.chipId = s.ctl.chipId ∧ u.ctl.bootSrc = s.ctl.bootSrc := by
    rw [← hu, setCtl_ctl, wr_ctl, setAon_ctl]
    exact bootReset_straps s
  split
  · rw [(enterRecovery_straps u).1, (enterRecovery_straps u).2]
    exact hu
  · exact hu

theorem forcedBoot_counts (s : State) :
    (forcedBoot s).aon.bootId = (s.aon.bootId + 1) % 65536
      ∧ (forcedBoot s).aon.bootFails = min 255 (s.aon.bootFails + 1) := by
  obtain ⟨hid, hfails, -⟩ := coldBoot_counts s true .straps
  rw [show (forcedBoot s).aon = (coldBoot s true .straps).aon from (restartNotice_touches _ _ _).aon_eq]
  exact ⟨hid, hfails⟩

/-! ### Restarts of the lockstep pair (R352 to R354) -/

/-- A fault that is active stays so when one is raised. -/
theorem raise_keeps_active (s : State) (code inst a b c i : Nat) (h : faultActive s c i = true) :
    faultActive (raise s code inst a b) c i = true := by
  unfold raise raiseDetail
  dsimp only
  generalize hu : (if faultActive s code inst || decide (s.flt.active.length < 1024) then
    raiseEntry s code inst a b (detailOf s a b)
    else raiseEntry (raiseEntry s code 0xFFFE a b (detailOf s a b)) 0x100C 0 0 0 0 : State) = u
  have hu : faultActive u c i = true := by
    rw [← hu]
    split
    · rw [raiseEntry_any, h, Bool.true_or]
    · rw [raiseEntry_any, raiseEntry_any, h, Bool.true_or, Bool.true_or]
  have hlog : faultActive (logWatched s u) c i = true := by
    unfold logWatched
    split
    · exact hu
    · rw [raiseEntry_any, hu, Bool.true_or]
  split
  · unfold faultActive findFault
    rw [(forceIdle_touches _ _ _).flt_eq]
    exact hlog
  · exact hlog

theorem coreFails_single (s : State) (core : Nat) :
    (coreFails s core).ctl.pair = .single
      ∧ (coreFails s core).ctl.leadB = (if core = b2n s.ctl.leadB then !s.ctl.leadB else s.ctl.leadB) := by
  unfold coreFails
  dsimp only
  rw [(raise_touches _ _ _ _ _).ctl_eq, setCtl_ctl]
  by_cases h : core = b2n s.ctl.leadB
  · simp [h]
  · simp [h]

/-- The restarts of the last 60 s before this one. -/
def recentRestarts (s : State) : List Nat :=
  s.ctl.restartTimes.filter (fun t => decide (s.time.rc64 < t + 60 * ticksPerSecond))

theorem warmRestart_restarts (s : State) (core : Nat) (h : (recentRestarts s).length < 2) :
    (warmRestart s core).ctl.pair = .restarting ∧ (warmRestart s core).ctl.ronecUp = false
      ∧ (warmRestart s core).ctl.warmRestarts = (s.ctl.warmRestarts + 1) % 2 ^ 32 := by
  have hraise : (wr (raise s 0x1003 0 core 0) Obj.MOV_MAP.REMAP 0 0).ctl = s.ctl :=
    (wr_ctl _ _ _ _).trans (raise_touches _ _ _ _ _).ctl_eq
  unfold warmRestart
  dsimp only
  rw [if_neg (by rw [List.length_cons]; exact fun k => absurd h (by unfold recentRestarts; omega))]
  generalize wr (raise s 0x1003 0 core 0) Obj.MOV_MAP.REMAP 0 0 = u at hraise
  split
  · rw [setCtl_ctl, hraise]
    exact ⟨rfl, rfl, rfl⟩
  · rw [(failTransition_touches _ _).ctl_eq, setCtl_ctl, hraise]
    exact ⟨rfl, rfl, rfl⟩

theorem warmRestart_boots (s : State) (core : Nat) (h : 2 ≤ (recentRestarts s).length) :
    (warmRestart s core).aon.bootId = (s.aon.bootId + 1) % 65536
      ∧ (warmRestart s core).aon.bootFails = min 255 (s.aon.bootFails + 1) := by
  unfold warmRestart
  dsimp only
  rw [if_pos (by rw [List.length_cons]; exact Nat.succ_le_succ h)]
  generalize hu : raise (setCtl (wr (raise s 0x1003 0 core 0) Obj.MOV_MAP.REMAP 0 0) _) 0x1004 0 core 0 = u
  have hu : u.aon = s.aon := by
    rw [← hu, (raise_touches _ _ _ _ _).aon_eq, setCtl_aon, wr_aon, (raise_touches _ _ _ _ _).aon_eq]
  rw [← hu]
  exact forcedBoot_counts u

theorem leadWithA_touches (s : State) : Touches [.flt, .notes, .obj 0x0C06] s (leadWithA s) :=
  touches_leadWithA (.refl _ _) (by decide)

/-- The pair and its lead stay. -/
def PairKept (s t : State) : Prop := t.ctl.pair = s.ctl.pair ∧ t.ctl.leadB = s.ctl.leadB

theorem pairKept_refl (s : State) : PairKept s s := ⟨rfl, rfl⟩

theorem PairKept.trans {s t u : State} (h : PairKept s t) (k : PairKept t u) : PairKept s u :=
  ⟨k.1.trans h.1, k.2.trans h.2⟩

theorem PairKept.of_ctl {s t : State} (h : t.ctl = s.ctl) : PairKept s t := by
  rw [PairKept, h]
  exact ⟨rfl, rfl⟩

theorem pairKept_foldl {α : Type} (g : State → α → State) (l : List α) (s : State) (h : ∀ t x, PairKept t (g t x)) :
    PairKept s (l.foldl g s) :=
  List.foldlRecOn (motive := PairKept s) l g (pairKept_refl s) fun t ht x _ => ht.trans (h t x)

theorem pairKept_interrupt (s : State) (m : Nat) : PairKept s (interrupt s m) := by
  unfold interrupt
  split
  · exact pairKept_refl s
  · split
    · exact ⟨rfl, rfl⟩
    · exact pairKept_refl s

theorem pairKept_commitHead (s : State) (m status : Nat) (payload : Bytes) :
    PairKept s (commitHead s m status payload) := by
  unfold commitHead
  split
  · exact pairKept_refl s
  · exact ⟨rfl, rfl⟩

theorem pairKept_settle (n : Nat) (s : State) (m : Nat) : PairKept s (settle n s m) := by
  induction n generalizing s with
  | zero => exact pairKept_refl s
  | succ n ih =>
    unfold settle
    split
    · split
      · exact pairKept_refl s
      · exact (pairKept_commitHead s _ _ _).trans (ih _)
    · exact pairKept_refl s

theorem pairKept_commandsDropped (s : State) : PairKept s (commandsDropped s) := ⟨rfl, rfl⟩

theorem warmRestartDone_pairs (s : State) (h : s.ctl.pair = .restarting) :
    ∃ t, exec (.warmRestartDone true) s = .next t ∧ t.ctl.pair = .paired ∧ t.ctl.leadB = false := by
  refine ⟨_, if_pos h, ?_⟩
  generalize hu : setCtl s _ = u
  have hpaired : u.ctl.pair = .paired ∧ u.ctl.leadB = false := by
    rw [← hu, setCtl_ctl]
    exact ⟨rfl, rfl⟩
  have hdropped : PairKept u (commandsDropped ((List.range 8).foldl interrupt u)) :=
    (pairKept_foldl _ _ u pairKept_interrupt).trans (pairKept_commandsDropped _)
  generalize commandsDropped ((List.range 8).foldl interrupt u) = v at hdropped
  have hnoticed : PairKept u (leadWithA (restartNotice (wr v Obj.MOV_MAP.REMAP 0 1) s 0)) :=
    hdropped.trans (.of_ctl (((leadWithA_touches _).ctl_eq.trans (restartNotice_touches _ _ _).ctl_eq).trans
      (wr_ctl _ _ _ _)))
  generalize leadWithA (restartNotice (wr v Obj.MOV_MAP.REMAP 0 1) s 0) = w at hnoticed
  obtain ⟨hpair, hlead⟩ := hnoticed.trans
    (pairKept_foldl (fun t m => settle (mailOf t m).queue.length t m) (List.range 8) w fun t m => pairKept_settle _ t m)
  exact ⟨hpair.trans hpaired.1, hlead.trans hpaired.2⟩

theorem faultActive_raises (s : State) (n : Nat) (hn : 0 < n) (hroom : s.flt.active.length < 1024) :
    faultActive ((List.range n).foldl (fun t _ => raise t 0x100C 0 0 0) s) 0x100C 0 = true := by
  obtain ⟨k, rfl⟩ : ∃ k, n = k + 1 := ⟨n - 1, by omega⟩
  rw [List.range_succ_eq_map, List.foldl_cons]
  exact List.foldlRecOn (motive := fun t : State => faultActive t 0x100C 0 = true) _ _ (raise_active s _ _ _ _ hroom)
    fun t h _ _ => raise_keeps_active t _ _ _ _ _ _ h

/-- Settles O47: by the rule of each restart; every boot that is forced counts its boot and its failure. -/
theorem pairComplete : Obligations.PairComplete := by
  refine ⟨fun a b s hab hactive hpair => ?_, fun s c hc hactive => ?_, fun s h => ?_, fun s hpair hlead => ?_,
    fun s h => ?_, fun s h => ?_⟩
  · have hnone : (!(a || b) || !pairActive s) = false := by
      rw [hactive]
      cases a <;> cases b <;> simp_all
    have hone : s.ctl.pair = .paired ∧ (!(a && b)) = true := by
      refine ⟨hpair, ?_⟩
      cases a <;> cases b <;> simp_all
    refine ⟨coreFails s (b2n b), ?_, coreFails_single s _⟩
    show Host.Outcome.next (selfCheck s a b) = _
    rw [selfCheck, if_neg (by rw [hnone]; decide), if_pos hone]
  · have hrun : ∃ core, exec c s = .next (warmRestart s core) := by
      obtain rfl | rfl := hc
      · exact ⟨_, if_pos hactive⟩
      · refine ⟨1, ?_⟩
        show Host.Outcome.next (selfCheck s true true) = _
        rw [selfCheck, if_neg (by rw [hactive]; decide), if_neg (by simp)]
        rfl
    obtain ⟨core, hrun⟩ := hrun
    exact ⟨fun k => ⟨_, hrun, warmRestart_restarts s core k⟩, fun k => ⟨_, hrun, warmRestart_boots s core k⟩⟩
  · refine ⟨⟨_, if_pos h, ?_⟩, fun hfew => ⟨_, if_pos h, ?_⟩⟩
    · rw [(leadWithA_touches _).ctl_eq, setCtl_ctl]
      exact ⟨rfl, rfl⟩
    · rw [if_neg (by omega), (raise_touches _ _ _ _ _).ctl_eq, setCtl_ctl]
      exact ⟨rfl, rfl⟩
  · refine ⟨_, if_pos (by simp [hpair, hlead]), ?_⟩
    rw [(leadWithA_touches _).ctl_eq, setCtl_ctl]
    exact ⟨rfl, hpair⟩
  · exact ⟨warmRestartDone_pairs s h, _, if_pos h, (forcedBoot_counts s).1⟩
  · have hraises (n : Nat) : Touches [.flt, .modes, .notes, .obj 0x0C06, .obj 0x1011] s
        ((List.range n).foldl (fun t _ => raise t 0x100C 0 0 0) s) :=
      .foldl _ _ (.refl _ _) fun t _ ht => ht.trans (raise_touches _ _ _ _ _)
    refine ⟨⟨_, if_pos h, rfl⟩, if_pos h, fun n hn hroom => ⟨_, if_pos h, faultActive_raises s n hn hroom⟩,
      fun n => ⟨_, if_pos h, ?_⟩⟩
    have hu := ((raise_touches ((List.range n).foldl (fun t _ => raise t 0x100C 0 0 0) s) 0x100B 0 0 0).aon_eq).trans
      (hraises n).aon_eq
    rw [if_pos rfl, (forcedBoot_counts _).1, hu]

/-- Settles O49: each boot shows its counters and its memory as the cold boot leaves them. -/
theorem bootsComplete : Obligations.BootsComplete := by
  refine ⟨fun s hpair hreset hronec => ?_, fun s hpair hronec hbundle hwait hreset => ?_, fun s h => ?_,
    fun s src h => ?_, fun s => ⟨⟨_, rfl, ?_⟩, rfl⟩, fun chipId bootSrc disagree found s h => ⟨?_, ?_⟩,
    fun s => ⟨_, rfl, rfl, rfl, rfl, rfl, rfl⟩⟩
  · refine ⟨_, if_pos ⟨hpair, hreset, hronec⟩, ?_, ?_, ?_⟩
    · rw [(raise_touches _ _ _ _ _).time_eq, setTime_time]
    · rw [rd_raise _ _ _ _ _ _ (by decide), rd_setTime, rd_wr_apart _ _ _ _ (by decide), rd_wr_same]
      rfl
    · rw [rd_raise _ _ _ _ _ _ (by decide), rd_setTime, rd_wr_same]
      rfl
  · refine ⟨_, if_pos (by simp [hpair, hronec, hbundle, hwait, hreset]), ?_⟩
    generalize hu : clearFault (clearFault (setAon (setCtl s _) _) 0x1004 0) 0x100B 0 = u
    have hu : u.ctl.pair = .paired ∧ u.aon.bootFails = 0 := by
      have hclear (t : State) (c i : Nat) : Touches [.flt, .notes, .obj 0x0C06] t (clearFault t c i) :=
        touches_clearFault (.refl _ _) _ _ (by decide)
      rw [← hu, (hclear _ _ _).ctl_eq, (hclear _ _ _).ctl_eq, (hclear _ _ _).aon_eq, (hclear _ _ _).aon_eq]
      exact ⟨rfl, rfl⟩
    split
    · rw [(raise_touches _ _ _ _ _).ctl_eq, (raise_touches _ _ _ _ _).aon_eq]
      exact hu
    · exact hu
  · obtain ⟨hid, hfails, -⟩ := coldBoot_counts s true .straps
    exact ⟨_, if_pos h, hid, hfails, coldBoot_mem s _ _⟩
  · obtain ⟨hid, hfails, -⟩ := coldBoot_counts s false src
    refine ⟨coldBoot s false src, ?_, hid, hfails, coldBoot_mem s _ _⟩
    show execBootCommandReboot s = _
    rw [execBootCommandReboot, h]
  · rw [emit_aon, setAon_aon, emit_mem, setAon_mem]
    exact ⟨rfl, bootReset_mem s⟩
  · generalize hu : coldBoot (wr (setCtl s fun c => { c with chipId := chipId, bootSrc := bootSrc })
      Obj.PWR_FOUND.FOUND 0
      found) false .straps = u
    have hshow : u.ctl.chipId = chipId.val ∧ u.ctl.bootSrc = bootSrc.val ∧ u.aon.bootId = (s.aon.bootId + 1) % 65536
        ∧ u.aon.inReset = false := by
      obtain ⟨hid, -, hreset⟩ := coldBoot_counts
        (wr (setCtl s fun c => { c with chipId := chipId, bootSrc := bootSrc }) Obj.PWR_FOUND.FOUND 0 found) false
            .straps
      obtain ⟨hchip, hsrc⟩ := coldBoot_straps
        (wr (setCtl s fun c => { c with chipId := chipId, bootSrc := bootSrc }) Obj.PWR_FOUND.FOUND 0 found) false
            .straps
      rw [← hu, hid, hreset, hchip, hsrc, wr_ctl, setCtl_ctl, wr_aon, setCtl_aon]
      exact ⟨rfl, rfl, rfl, rfl⟩
    refine ⟨if disagree then raise u 0x1405 0 0 0 else u, ?_, ?_⟩
    · show execPornRelease chipId bootSrc false disagree found s = _
      rw [execPornRelease, if_neg (by simp [h]), if_neg (by decide), ← hu]
    · split
      · rw [(raise_touches _ _ _ _ _).ctl_eq, (raise_touches _ _ _ _ _).aon_eq]
        exact hshow
      · exact hshow
  · show execPornRelease chipId bootSrc true disagree found s = _
    rw [execPornRelease, if_neg (by simp [h]), if_pos rfl]

end Sys2Proof
end

section
/-! PROOF. The governor, power-good, sleep requests, ballast, operating points and regulators (O53). -/

namespace Sys2Proof

-- one proof at a time, which bounds the memory of the compile
set_option Elab.async false

open Sys2Proof.Machine

/-! ### What a domain's steps leave (R405 to R410) -/

theorem accrue_touches (s : State) : Touches [.pwr] s (accrue s) := touches_setPwr (.refl _ _) _ (by decide)

theorem paced_touches (s : State) (p : Paced) : Touches [.pwr] s (paced s p) := touches_paced (.refl _ _) _ (by decide)

theorem setDom_touches (s : State) (d v : Nat) : Touches [.pwr, .obj 0x0A04] s (setDom s d v) :=
  touches_setDom (.refl _ _) _ _ (by decide)

theorem paced_pwr (s : State) (p : Paced) :
    (paced s p).pwr = { s.pwr with credit := creditNow s, creditAt := s.time.rc64, queue := s.pwr.queue ++ [p] } := rfl

theorem setDom_pwr (s : State) (d v : Nat) :
    (setDom s d v).pwr = { s.pwr with doms := mapSet s.pwr.doms d (v ^^^ idleDomain d) } := by
  unfold setDom
  dsimp only
  split
  · rw [wr_pwr, setPwr_pwr]
  · rw [setPwr_pwr]

theorem domState_of_pwr {s t : State} (h : t.pwr.doms = s.pwr.doms) (d : Nat) : domState t d = domState s d := by
  unfold domState
  rw [h]

/-- The estimate of the current stays. -/
def EstKept (s t : State) : Prop := t.pwr.est = s.pwr.est

theorem estKept_refl (s : State) : EstKept s s := rfl

theorem EstKept.trans {s t u : State} (h : EstKept s t) (k : EstKept t u) : EstKept s u := Eq.trans k h

theorem EstKept.of_pwr {s t : State} (h : t.pwr = s.pwr) : EstKept s t := by rw [EstKept, h]

theorem estKept_setPwr (s : State) (g : Power → Power) (h : ∀ p, (g p).est = p.est) : EstKept s (setPwr s g) := h s.pwr

theorem estKept_showPendingUp (s : State) : EstKept s (showPendingUp s) := .of_pwr (wr_pwr _ _ _ _)

theorem estKept_setDom (s : State) (d v : Nat) : EstKept s (setDom s d v) := by rw [EstKept, setDom_pwr]

theorem estKept_paced (s : State) (p : Paced) : EstKept s (paced s p) := rfl

theorem estKept_domWakes (s : State) (d : Nat) : EstKept s (domWakes s d) := by
  unfold domWakes
  split
  · refine EstKept.trans ?_ (estKept_setDom _ d 1)
    split
    · exact .of_pwr (wr_pwr _ _ _ _)
    · exact estKept_refl s
  · exact (estKept_setDom s d 1).trans rfl
  · exact estKept_refl s

theorem estKept_domUp (s : State) (cls d : Nat) : EstKept s (domUp s cls d) := by
  unfold domUp
  split
  · exact estKept_refl s
  split
  · exact ((estKept_setDom s d 6).trans (estKept_setPwr _ _ fun _ => rfl)).trans (estKept_showPendingUp _)
  · split
    · exact estKept_refl s
    · exact estKept_paced s _
  · split
    · exact estKept_refl s
    · exact estKept_paced s _
  · exact estKept_paced s _
  · rfl
  · exact estKept_refl s

theorem estKept_downEnds (s : State) (d st : Nat) : EstKept s (downEnds s d st) := by
  unfold downEnds
  dsimp only
  split
  · next x _ =>
    have hshown : EstKept s (showPendingUp (setPwr (setDom s d st) fun p =>
        { p with pendingUp := p.pendingUp.filter (fun y => y.1 != d) })) :=
      ((estKept_setDom s d st).trans (estKept_setPwr _ _ fun _ => rfl)).trans (estKept_showPendingUp _)
    split
    · exact hshown
    · exact hshown.trans (estKept_domUp _ _ _)
  · exact estKept_setDom s d st

theorem askPoint_est (s : State) (aim : Nat) : EstKept s (askPoint s aim) := by
  unfold askPoint
  dsimp only
  split
  · exact estKept_refl s
  · rfl

theorem estKept_pointFollow (s : State) : EstKept s (pointFollow s) := by
  unfold pointFollow
  dsimp only
  split
  · exact estKept_refl s
  split
  · exact askPoint_est s _
  split
  · exact askPoint_est s _
  · exact estKept_refl s

theorem vout_touches (s : State) (rail mv : Nat) : Touches [.out] s (vout s rail mv) :=
  touches_vout (.refl _ _) _ _ (by decide)

theorem setPoint_touches (s : State) (p : Nat) : Touches [.flt, .notes, .obj 0x0C06, .obj 0x1102] s (setPoint s p) :=
  touches_setPoint (.refl _ _) _ (by decide)

theorem estKept_pointGranted (s : State) : EstKept s (pointGranted s) := by
  unfold pointGranted
  split
  · exact estKept_refl s
  · split
    · rw [EstKept, (vout_touches _ _ _).pwr_eq, setPwr_pwr]
    · rw [EstKept, (vout_touches _ _ _).pwr_eq, setPwr_pwr, (setPoint_touches _ _).pwr_eq]

theorem estKept_pacedEnds (s : State) (p : Paced) : EstKept s (pacedEnds s p) := by
  unfold pacedEnds
  split
  · exact estKept_refl s
  · exact estKept_downEnds s _ _
  · exact estKept_setDom s _ _
  · exact .of_pwr (wr_pwr _ _ _ _)
  · exact estKept_refl s
  · exact (estKept_pointGranted s).trans (estKept_pointFollow _)

theorem dormantWhole_touches (s : State) : Touches [.aon, .out] s (dormantWhole s) :=
  touches_dormantWhole (.refl _ _) (by decide)

/-! ### The governor (R405) -/

/-- The estimate after the segment `seg` of `p`. -/
def estAfter (s : State) (p : Paced) : Int :=
  s.pwr.est + (if p.up then ((min 10 p.left : Nat) : Int) else -((min 10 p.left : Nat) : Int))

theorem governorGrant_grants (s : State) (p : Paced) (h : nextGrant s = some p)
    (hcredit : ((min 10 p.left : Nat) : Int) * 16000 ≤ creditNow s) :
    ∃ t, exec .governorGrant s = .next t ∧ t.pwr.est = estAfter s p
      ∧ rd t Obj.PWR_STATUS.SEGMENTS = (rd s Obj.PWR_STATUS.SEGMENTS + 1) % 2 ^ Obj.PWR_STATUS.SEGMENTS.width := by
  have hwakes : ∃ u, u = (if p.result = .wakes then domWakes (accrue s) p.dom else accrue s)
      ∧ EstKept s u ∧ Touches [.pwr, .obj 0x0A04] s u := by
    refine ⟨_, rfl, ?_⟩
    have hacc : Touches [.pwr, .obj 0x0A04] s (accrue s) := (accrue_touches s).mono (by decide)
    split
    · exact ⟨(show EstKept s (accrue s) from rfl).trans (estKept_domWakes _ _), touches_domWakes hacc _ (by decide)⟩
    · exact ⟨rfl, hacc⟩
  obtain ⟨u, hu, hest, htouch⟩ := hwakes
  show ∃ t, execGovernorGrant s = .next t ∧ _
  rw [execGovernorGrant, h]
  dsimp only
  rw [if_pos (show ((min 10 p.left : Nat) : Int) * 16000 ≤ (accrue s).pwr.credit from hcredit), ← hu]
  generalize hv : setPwr (bump u Obj.PWR_STATUS.SEGMENTS 0 1) _ = v
  have hv : v.pwr.est = estAfter s p
      ∧ rd v Obj.PWR_STATUS.SEGMENTS = (rd s Obj.PWR_STATUS.SEGMENTS + 1) % 2 ^ Obj.PWR_STATUS.SEGMENTS.width := by
    rw [← hv, rd_setPwr, rd_bump_same, htouch.rd _ _ (by decide) (by decide), setPwr_pwr]
    refine ⟨?_, rfl⟩
    dsimp only
    rw [bump, wr_pwr, show u.pwr.est = s.pwr.est from hest, estAfter]
  have hends : ∃ w, w = (if p.left ≤ 10 then pacedEnds v p else v) ∧ EstKept v w
      ∧ rd w Obj.PWR_STATUS.SEGMENTS = rd v Obj.PWR_STATUS.SEGMENTS := by
    have hk : Touches [.flt, .notes, .out, .pwr, .obj 0x0A04, .obj 0x0C06, .obj 0x1011, .obj 0x1102, .obj 0x1106] v
      (pacedEnds v p) := touches_pacedEnds (.refl _ _) _ (by decide)
    refine ⟨_, rfl, ?_⟩
    split
    · exact ⟨estKept_pacedEnds v p, hk.rd _ _ (by decide) (by decide)⟩
    · exact ⟨estKept_refl v, rfl⟩
  obtain ⟨w, hw, hkept, hseg⟩ := hends
  rw [← hw]
  refine ⟨_, rfl, ?_, ?_⟩
  · rw [(dormantWhole_touches w).pwr_eq, show w.pwr.est = v.pwr.est from hkept]
    exact hv.1
  · rw [(dormantWhole_touches w).rd _ _ (by decide) (by decide), hseg]
    exact hv.2

theorem governorGrant_waits (s : State) (p : Paced) (h : nextGrant s = some p)
    (hcredit : creditNow s < ((min 10 p.left : Nat) : Int) * 16000) : exec .governorGrant s = .next s := by
  show execGovernorGrant s = _
  rw [execGovernorGrant, h]
  exact if_neg (fun k => absurd (show ((min 10 p.left : Nat) : Int) * 16000 ≤ creditNow s from k) (by omega))

/-! ### Power-good (R408) -/

/-- The phase of the always-on part, and the state of domain d, stay. -/
def DomKept (d : Nat) (s t : State) : Prop := t.aon = s.aon ∧ domState t d = domState s d

theorem domKept_refl (d : Nat) (s : State) : DomKept d s s := ⟨rfl, rfl⟩

theorem DomKept.trans {d : Nat} {s t u : State} (h : DomKept d s t) (k : DomKept d t u) : DomKept d s u :=
  ⟨k.1.trans h.1, k.2.trans h.2⟩

theorem DomKept.of_touches {d : Nat} {ps : List Part} {s t : State} (h : Touches ps s t)
    (ha : Part.aon.within ps = false := by rfl) (hp : Part.pwr.within ps = false := by rfl) : DomKept d s t :=
  ⟨h.aon_eq ha, domState_of_pwr (by rw [h.pwr_eq hp]) d⟩

theorem domKept_latchupEnds (d : Nat) (s : State) : DomKept d s (latchupEnds s d) := by
  unfold latchupEnds
  split
  · refine DomKept.trans (t := setPwr s fun p => { p with cut := p.cut.filter (fun x => x != d) }) ⟨rfl, rfl⟩ ?_
    exact .of_touches (.foldl _ _ (.refl [.afe] _) fun t i ht => touches_setInput ht _ _ (by decide))
  · exact domKept_refl d s

theorem domKept_hkPowered (s : State) (h : domOn s hkDomain = true) (d : Nat) : DomKept d s (hkPowered s) := by
  unfold hkPowered
  split
  · split
    · unfold convBegin
      rw [if_pos h]
      exact .of_touches (touches_setHk (.refl [.hk] s) _ (by decide))
    · exact domKept_refl d s
  · exact domKept_refl d s

theorem domKept_ballastOff (d : Nat) (s : State) (x : Nat) : DomKept d s (ballastOff s x) := by
  have h : Touches [.pwr, .obj 0x1106] s (ballastOff s x) := touches_ballastOff (.refl _ _) _ (by decide)
  refine ⟨h.aon_eq, domState_of_pwr ?_ d⟩
  unfold ballastOff
  dsimp only
  generalize (if 16 * ballastLeft s x < Config.stepMa x then Config.stepMa x / 16 else 0 : Nat) = first
  split
  · rw [paced_pwr, setPwr_pwr, wr_pwr]
    rfl
  · rw [setPwr_pwr, wr_pwr]
    rfl

theorem domKept_clockStarts (d : Nat) (s : State) (b : Nat) : DomKept d s (clockStarts s b) := by
  unfold clockStarts
  split
  · have hoff := List.foldlRecOn (motive := DomKept d s)
      ((List.range 394).filter (fun d => domBlock d == b && domOn s d && decide (10 < Config.stepMa d))) ballastOff
      (domKept_refl d s) fun t ht x _ => ht.trans (domKept_ballastOff d t x)
    exact ⟨hoff.1, hoff.2⟩
  · exact domKept_refl d s

theorem domKept_eventsOut (d n : Nat) (s : State) : DomKept d s (eventsOut n s) := by
  have hset (t : State) (g : Concentrator → Concentrator) : DomKept d t (setConc t g) :=
    .of_touches (touches_setConc (.refl [.conc] t) _ (by decide))
  have hdrop (t : State) (k : Nat) : DomKept d t (dropContext t k) :=
    .of_touches (touches_dropContext (.refl [.conc, .flt, .notes, .obj 0x0808, .obj 0x0C06] t) _ (by decide))
  induction n generalizing s with
  | zero => exact domKept_refl d s
  | succ n ih =>
    unfold eventsOut
    split
    · exact domKept_refl d s
    split
    · exact domKept_refl d s
    dsimp only
    split
    · exact (hset s _).trans (ih _)
    · split
      · exact (hset s _).trans (ih _)
      · exact (((hset s _).trans (hdrop _ _)).trans ((hset _ _).trans (domKept_clockStarts d _ 12))).trans (ih _)

theorem domainPowerGood_on (d : Fin 394) (s : State) (hwaking : domState s d = 1)
    (hqueue : ∀ p ∈ s.pwr.queue, p.dom ≠ d.val)
    (hretain : s.pwr.fromRetain.contains d.val = false) (hphase : s.aon.phase ≠ .resuming) :
    ∃ t, exec (.domainPowerGood d) s = .next t ∧ domState t d = 2 := by
  have hready : (decide (domState s d = 1) && s.pwr.queue.all (fun p => p.dom != d.val)
      && !s.pwr.fromRetain.contains d.val) = true := by
    rw [hwaking, hretain, List.all_eq_true.2 fun p hp => by simpa using hqueue p hp]
    rfl
  refine ⟨_, if_pos hready, ?_⟩
  have hon : (latchupEnds (setDom s d 2) d).aon = s.aon ∧ domState (latchupEnds (setDom s d 2) d) d = 2 := by
    obtain ⟨haon, hdom⟩ := domKept_latchupEnds d (setDom s d 2)
    exact ⟨haon.trans (setDom_touches s d 2).aon_eq, hdom.trans (domState_setDom s d 2)⟩
  generalize latchupEnds (setDom s d 2) d = s1 at hon
  have hdig : ∃ u, u = (if inBanks (48, 63) d && (domRange 48 63).all (domOn s1) && modeOf s1 != .vigil then
      setBbl s1 (fun b => { b with digOn := true }) else s1) ∧ DomKept d s1 u := by
    refine ⟨_, rfl, ?_⟩
    split
    · exact .of_touches (touches_setBbl (.refl [.bbl] s1) _ (by decide))
    · exact domKept_refl d s1
  obtain ⟨s2, hs2, hkept2⟩ := hdig
  rw [← hs2]
  have hhk : ∃ u, u = (if d.val = 373 then hkPowered s2
      else if inBanks (365, 368) d && modeOf s2 == .vigil && phaseOf s2 == .steady && (domRange 365 368).all
          (domOn s2) then
        setCtl s2 (fun c => { c with ronecUp := true })
      else s2) ∧ DomKept d s2 u := by
    refine ⟨_, rfl, ?_⟩
    split
    · next hd =>
      refine domKept_hkPowered s2 ?_ d
      unfold domOn hkDomain
      rw [← hd, hkept2.2, hon.2]
      rfl
    · split
      · exact .of_touches (touches_setCtl (.refl [.ctl] s2) _ (by decide))
      · exact domKept_refl d s2
  obtain ⟨s3, hs3, hkept3⟩ := hhk
  rw [← hs3]
  have hout : ∃ u, u = (if d.val = 343 then eventsOut s3.conc.ready.length s3 else s3) ∧ DomKept d s3 u := by
    refine ⟨_, rfl, ?_⟩
    split
    · exact domKept_eventsOut d _ s3
    · exact domKept_refl d s3
  obtain ⟨s4, hs4, hkept4⟩ := hout
  rw [← hs4]
  obtain ⟨haon, hdom⟩ := (hkept2.trans hkept3).trans hkept4
  rw [if_neg (by rw [haon, hon.1]; simp [hphase])]
  exact hdom.trans hon.2

/-! ### Sleep requests (R408 to R410) -/

theorem staysOn_pwr (s : State) (d : Nat) :
    (staysOn s d).pwr.sleeps = s.pwr.sleeps ∧ (domState s d = 3 → domState (staysOn s d) d = 2) := by
  unfold staysOn
  split
  · exact ⟨by rw [setDom_pwr], fun _ => domState_setDom s d 2⟩
  · next h => exact ⟨rfl, fun k => absurd (.inl k) h⟩

theorem sleepsAgain_sleeps (s : State) (d : Nat) : (sleepsAgain s d).pwr.sleeps = s.pwr.sleeps := by
  unfold sleepsAgain
  split
  · rw [setDom_pwr]
  · rfl

theorem sleepOf_setSleep {s : State} {d : Nat} {q : SleepReq} (g : SleepReq → SleepReq) (hg : ∀ x, (g x).dom = x.dom)
    (h : s.pwr.sleeps.find? (fun x => x.dom == d) = some q) : sleepOf (setSleep s d g) d = some (g q) := by
  show (updFirst _ g s.pwr.sleeps).find? _ = _
  rw [find?_updFirst (fun x hx => by simpa [hg] using hx), h, Option.map_some]

/-- The request is granted: the power-down joins the paced steps. -/
theorem sleepAck_falls (d : Fin 394) (s : State) (q : SleepReq) (h : sleepOf s d = some q)
    (hrefused : q.refused = false)
    (hinput : inputWaits s d = false) (hkeep : q.cls = 2 ∨ mustKeep s d = false) :
    ∃ t, exec (.sleepAck d) s = .next t ∧ sleepOf t d = none ∧ rd t Obj.PWR_DOMAIN.HELD d = 0
      ∧ t.pwr.queue = s.pwr.queue ++ [⟨q.cls, d, false, Config.stepMa d, .falls q.target⟩] := by
  have hgoes : (q.refused || inputWaits s d || (decide (q.cls ≠ 2) && mustKeep s d)) = false := by
    rw [hrefused, hinput]
    obtain hcls | hkeep := hkeep
    · simp [hcls]
    · simp [hkeep]
  show ∃ t, execSleepAck d s = .next t ∧ _
  rw [execSleepAck, h]
  dsimp only
  rw [if_neg (by rw [hgoes]; decide)]
  generalize hu : clearFault (setPwr (wr s Obj.PWR_DOMAIN.HELD d 0) _) 0x1101 d = u
  have hclear : Touches [.flt, .notes, .obj 0x0C06] (setPwr (wr s Obj.PWR_DOMAIN.HELD d 0) fun p =>
      { p with sleeps := p.sleeps.filter (fun x => x.dom != d.val) }) u :=
          hu ▸ touches_clearFault (.refl _ _) _ _ (by decide)
  have hsleeps : u.pwr.sleeps = s.pwr.sleeps.filter (fun x => x.dom != d.val) := by
    rw [hclear.pwr_eq]
    rfl
  have hqueue : u.pwr.queue = s.pwr.queue := by
    rw [hclear.pwr_eq]
    rfl
  have hheld : rd u Obj.PWR_DOMAIN.HELD d = 0 := by
    rw [hclear.rd _ _ (by decide) (by decide), rd_setPwr, rd_wr_same]
    rfl
  have hfalls : ∃ v, v = (if domState u d = 2 then setDom u d 3 else u) ∧ v.pwr.sleeps = u.pwr.sleeps
      ∧ v.pwr.queue = u.pwr.queue ∧ rd v Obj.PWR_DOMAIN.HELD d = rd u Obj.PWR_DOMAIN.HELD d := by
    refine ⟨_, rfl, ?_⟩
    split
    · rw [setDom_pwr, (setDom_touches u d 3).rd _ _ (by decide) (by decide)]
      exact ⟨rfl, rfl, rfl⟩
    · exact ⟨rfl, rfl, rfl⟩
  obtain ⟨v, hv, hvsleeps, hvqueue, hvheld⟩ := hfalls
  rw [← hv]
  refine ⟨_, rfl, ?_, ?_, ?_⟩
  · unfold sleepOf
    rw [paced_pwr]
    dsimp only
    rw [hvsleeps, hsleeps, List.find?_eq_none]
    intro x hx
    simpa using (List.mem_filter.1 hx).2
  · rw [(paced_touches v _).rd _ _ (by decide) (by decide), hvheld, hheld]
  · rw [paced_pwr]
    dsimp only
    rw [hvqueue, hqueue]

theorem sleepAck_waits (d : Fin 394) (s : State) (q : SleepReq) (h : sleepOf s d = some q)
    (hstop : q.refused = true ∨ inputWaits s d = true ∨ (q.cls ≠ 2 ∧ mustKeep s d = true)) :
    exec (.sleepAck d) s = .next s := by
  show execSleepAck d s = _
  rw [execSleepAck, h]
  refine if_pos ?_
  obtain h | h | ⟨hcls, hkeep⟩ := hstop
  · simp [h]
  · simp [h]
  · simp [hcls, hkeep]

theorem sleepDefer_defers (d : Fin 394) (s : State) (q : SleepReq) (h : sleepOf s d = some q)
    (hrefused : q.refused = false) :
    ∃ t, exec (.sleepDefer d) s = .next t ∧ sleepOf t d = some { q with deferred := true }
      ∧ rd t Obj.PWR_DOMAIN.DEFERS d = satAdd Obj.PWR_DOMAIN.DEFERS.width (rd s Obj.PWR_DOMAIN.DEFERS d) 1 := by
  show ∃ t, execSleepDefer d s = .next t ∧ _
  rw [execSleepDefer, h]
  dsimp only
  rw [if_neg (by rw [hrefused]; decide)]
  refine ⟨_, rfl, sleepOf_setSleep _ (fun _ => rfl) h, ?_⟩
  rw [setSleep, rd_setPwr, bumpSat, rd_wr_same, satAdd_mod]

theorem sleepRefuse_refuses (d : Fin 394) (s : State) (q : SleepReq) (h : sleepOf s d = some q)
    (hrefused : q.refused = false)
    (hcls : q.cls ≠ 2) :
    ∃ t, exec (.sleepRefuse d) s = .next t ∧ sleepOf t d = some { q with refused := true }
      ∧ (domState s d = 3 → domState t d = 2) := by
  show ∃ t, execSleepRefuse d s = .next t ∧ _
  rw [execSleepRefuse, h]
  dsimp only
  rw [if_neg (by simp [hrefused, hcls])]
  obtain ⟨hsleeps, hon⟩ := staysOn_pwr s d
  exact ⟨_, rfl, sleepOf_setSleep _ (fun _ => rfl) (by rw [hsleeps]; exact h), hon⟩

theorem sleepRetry_asks (d : Fin 394) (s : State) (q : SleepReq) (h : sleepOf s d = some q) :
    ∃ t, exec (.sleepRetry d) s = .next t ∧ sleepOf t d = some { q with refused := false } := by
  show ∃ t, execSleepRetry d s = .next t ∧ _
  rw [execSleepRetry, h]
  exact ⟨_, rfl, sleepOf_setSleep _ (fun _ => rfl) (by rw [sleepsAgain_sleeps]; exact h)⟩

theorem sleepStalled_held (d : Fin 394) (s : State) (q : SleepReq) (h : sleepOf s d = some q)
    (hdeferred : q.deferred = true) :
    ∃ t, exec (.sleepStalled d) s = .next t ∧ rd t Obj.PWR_DOMAIN.HELD d = 1 := by
  show ∃ t, execSleepStalled d s = .next t ∧ _
  rw [execSleepStalled, h]
  dsimp only
  rw [if_pos hdeferred]
  refine ⟨_, rfl, ?_⟩
  rw [rd_raise _ _ _ _ _ _ (by decide), rd_wr_same]
  rfl

theorem ballastPark_paces (d : Fin 394) (s : State) (hon : domOn s d = true) (hblock : domBlock d ≠ 0)
    (hgated : bit s.mov.gated (domBlock d) = true) (hparked : rd s Obj.PWR_DOMAIN.PARKED d = 0)
        (hqueue : s.pwr.queue = []) :
    ∃ t, exec (.ballastPark d) s = .next t
      ∧ t.pwr.queue = if 10 < Config.stepMa d then [⟨4, d, false, Config.stepMa d, .parks⟩] else [] := by
  have hflag : flag s Obj.PWR_DOMAIN.PARKED d = false := by
    unfold flag
    rw [hparked]
    rfl
  by_cases hswing : 10 < Config.stepMa d
  · refine ⟨_, if_pos (by simp [hon, hblock, hgated, hflag, hqueue, hswing]), ?_⟩
    rw [if_pos hswing, paced_pwr]
    dsimp only
    rw [hqueue]
    rfl
  · refine ⟨s, if_neg (by simp [hswing]), ?_⟩
    rw [if_neg hswing, hqueue]

/-! ### Operating points and the thermal limit (R413, R417, R418) -/

theorem askPoint_asks (s : State) (aim : Nat) (h : s.pwr.point = none) (haim : aim ≠ rd s Obj.PWR_DVFS.POINT) :
    (askPoint s aim).pwr.point = some ⟨aim, false⟩ := by
  unfold askPoint
  dsimp only
  rw [if_neg (by simp [h, haim])]
  rfl

/-- A fault of severity 3 in a data mode turns the chip to Idle. -/
theorem raise_critical (s : State) (code inst a b : Nat) (hsev : severityOf code = 3)
    (hdata : (modeOf s).isData = true) :
    phaseOf (raise s code inst a b) = .aborting ∧ modeTarget (raise s code inst a b) = .idle := by
  unfold raise raiseDetail
  dsimp only
  rw [if_pos ⟨hsev, hdata⟩]
  exact forceIdle_turns _ _ _

theorem readVoutPoll_point (mv : Nat) (s : State) (c : PointChange) (h : s.pwr.point = some c)
    (hgranted : c.granted = true)
    (hmv : pointMv c.aim ≤ mv + 10) : ∃ t, exec (.readVoutPoll mv) s = .next t ∧ rd t Obj.PWR_DVFS.POINT = c.aim
        % 8 := by
  have hfollow (u : State) : Touches [.pwr] u (pointFollow u) := touches_pointFollow (.refl _ _) (by decide)
  show ∃ t, execReadVoutPoll mv s = .next t ∧ _
  rw [execReadVoutPoll, h]
  dsimp only
  rw [if_pos ⟨hgranted, hmv⟩]
  refine ⟨_, rfl, ?_⟩
  rw [(hfollow _).rd _ _ (by decide) (by decide), rd_setPwr]
  unfold setPoint
  dsimp only
  split
  · rw [(touches_clearFault (.refl [.flt, .notes, .obj 0x0C06] _) _ _ (by decide) :
      Touches [.flt, .notes, .obj 0x0C06] _ _).rd _ _ (by decide) (by decide), rd_wr_apart _ _ _ _ (by decide),
          rd_wr_same]
    rfl
  · rw [rd_wr_apart _ _ _ _ (by decide), rd_wr_same]
    rfl

theorem voutTimeout_ends (s : State) (c : PointChange) (h : s.pwr.point = some c) (hgranted : c.granted = true) :
    ∃ t, exec .voutTimeout s = .next t ∧ t.pwr.point = none ∧ rd t Obj.PWR_DVFS.POINT = rd s Obj.PWR_DVFS.POINT := by
  show ∃ t, execVoutTimeout s = .next t ∧ _
  rw [execVoutTimeout, h]
  dsimp only
  rw [if_pos hgranted]
  refine ⟨_, rfl, ?_, ?_⟩
  · rw [(raise_touches _ _ _ _ _).pwr_eq, (vout_touches _ _ _).pwr_eq, setPwr_pwr]
  · rw [rd_raise _ _ _ _ _ _ (by decide), (vout_touches _ _ _).rd _ _ (by decide) (by decide), rd_setPwr]

/-! ### Regulators (R416) -/

theorem pmbusPoll_counts (r : Fin 8) (s : State) (hreq : s.aon.pwrReq = true) (haddr : rd s Obj.PWR_REG.ADDR r ≠ 0)
    (hrail : rd s Obj.PWR_REG.RAIL r ≠ 0) (hfound : bit (rd s Obj.PWR_FOUND.FOUND) (rd s Obj.PWR_REG.ADDR r) = true) :
    ∃ t, exec (.pmbusPoll r none) s = .next t
      ∧ rd t Obj.PWR_REG_STATUS.ERRORS r
        = satAdd Obj.PWR_REG_STATUS.ERRORS.width (rd s Obj.PWR_REG_STATUS.ERRORS r) 1 := by
  refine ⟨_, if_pos (by simp [hreq, haddr, hrail, hfound]), ?_⟩
  split
  · rw [rd_raise _ _ _ _ _ _ (by decide), rd_setPwr, bumpSat, rd_wr_same, satAdd_mod]
  · rw [rd_setPwr, bumpSat, rd_wr_same, satAdd_mod]

theorem pmbusPoll_shows (r : Fin 8) (s : State) (status mv : Nat) (hreq : s.aon.pwrReq = true)
    (haddr : rd s Obj.PWR_REG.ADDR r ≠ 0) (hrail : rd s Obj.PWR_REG.RAIL r ≠ 0)
    (hfound : bit (rd s Obj.PWR_FOUND.FOUND) (rd s Obj.PWR_REG.ADDR r) = true) :
    ∃ t, exec (.pmbusPoll r (some (status, mv))) s = .next t
      ∧ rd t Obj.PWR_REG_STATUS.STATUS_WORD r = status % 2 ^ 16 ∧ rd t Obj.PWR_REG_STATUS.VOUT_MV r = mv % 2 ^ 16 := by
  have hclear (u : State) : Touches [.flt, .notes, .obj 0x0C06] u (clearFault u 0x1105 r) :=
    touches_clearFault (.refl _ _) _ _ (by decide)
  have hword (u : State) : rd (wr (wr u Obj.PWR_REG_STATUS.STATUS_WORD r status) Obj.PWR_REG_STATUS.VOUT_MV r mv)
      Obj.PWR_REG_STATUS.STATUS_WORD r = status % 2 ^ 16 := by
    rw [rd_wr_apart _ _ _ _ (by decide), rd_wr_same]
    rfl
  have hvout (u : State) : rd (wr u Obj.PWR_REG_STATUS.VOUT_MV r mv) Obj.PWR_REG_STATUS.VOUT_MV r = mv % 2 ^ 16 :=
    rd_wr_same _ _ _ _
  show ∃ t, execPmbusPoll r (some (status, mv)) s = .next t ∧ _
  rw [execPmbusPoll, if_pos (by simp [hreq, haddr, hrail, hfound])]
  dsimp only
  split
  · refine ⟨_, rfl, ?_, ?_⟩
    · rw [(hclear _).rd _ _ (by decide) (by decide), rd_setPwr, rd_setPwr, hword]
    · rw [(hclear _).rd _ _ (by decide) (by decide), rd_setPwr, rd_setPwr, hvout]
  · split
    · refine ⟨_, rfl, ?_, ?_⟩
      · rw [rd_emit, rd_setPwr, rd_setPwr, hword]
      · rw [rd_emit, rd_setPwr, rd_setPwr, hvout]
    · refine ⟨_, rfl, ?_, ?_⟩
      · rw [rd_raise _ _ _ _ _ _ (by decide), rd_setPwr, hword]
      · rw [rd_raise _ _ _ _ _ _ (by decide), rd_setPwr, hvout]

theorem dvfsThrottleStep_slower (s : State) (h : s.pwr.point = none)
    (hhot : (2 * rd s Obj.PWR_DVFS.THROTTLE_C : Nat) < s.bbl.tj)
        (hp : rd s Obj.PWR_DVFS.POINT < rd s Obj.PWR_DVFS.SLOWEST) :
    ∃ t, exec .dvfsThrottleStep s = .next t ∧ t.pwr.point = some ⟨rd s Obj.PWR_DVFS.POINT + 1, false⟩ := by
  refine ⟨_, if_pos ⟨hhot, hp, h⟩, ?_⟩
  rw [(raise_touches _ _ _ _ _).pwr_eq, askPoint_asks s _ h (by omega)]

theorem dvfsRecoverStep_faster (s : State) (h : s.pwr.point = none)
    (hcool : s.bbl.tj < 2 * (rd s Obj.PWR_DVFS.THROTTLE_C : Nat) - 10)
        (hp : rd s Obj.PWR_DVFS.TARGET < rd s Obj.PWR_DVFS.POINT) :
    ∃ t, exec .dvfsRecoverStep s = .next t ∧ t.pwr.point = some ⟨rd s Obj.PWR_DVFS.POINT - 1, false⟩ :=
  ⟨_, if_pos ⟨hcool, hp, h⟩, askPoint_asks s _ h (by omega)⟩

/-- Settles O53: each step of the governor, of a sleep request, of an operating point and of a regulator by its rule. -/
theorem powerComplete : Obligations.PowerComplete := by
  refine ⟨governorGrant_grants, governorGrant_waits, fun s h => ?_, domainPowerGood_on, fun d s q h =>
      ?_, ballastPark_paces,
    fun s h => ⟨dvfsThrottleStep_slower s h, dvfsRecoverStep_faster s h⟩, fun s hslow hhot => ?_,
    fun mv s c h hg => ⟨readVoutPoll_point mv s c h hg, voutTimeout_ends s c h hg⟩,
    fun r s hreq haddr hrail hfound => ⟨pmbusPoll_counts r s hreq haddr hrail hfound,
      fun status mv => pmbusPoll_shows r s status mv hreq haddr hrail hfound⟩⟩
  · show execGovernorGrant s = _
    rw [execGovernorGrant, h]
  · exact ⟨sleepAck_falls d s q h, sleepAck_waits d s q h, sleepDefer_defers d s q h, sleepRefuse_refuses d s q h,
      sleepRetry_asks d s q h, sleepStalled_held d s q h⟩
  · exact ⟨_, if_pos ⟨hslow, hhot⟩, rfl, fun hdata _ => raise_critical s _ _ _ _ (by decide) hdata⟩

end Sys2Proof
end

section
/-! PROOF. Wake sources, the way into Dormant and out of it, latch-ups, count summaries (O54). -/

namespace Sys2Proof

-- one proof at a time, which bounds the memory of the compile
set_option Elab.async false

open Sys2Proof.Machine

/-! ### Wake sources (R421) -/

theorem bit_or_self (n src : Nat) (h : src < 4) : bit ((n ||| 2 ^ src) % 2 ^ 4) src = true := by
  rw [bit, Nat.testBit_mod_two_pow, Nat.testBit_or, Nat.testBit_two_pow_self, Bool.or_true, Bool.and_true]
  exact decide_eq_true h

theorem abortEntry_sources (s : State) :
    rd (abortEntry s) Obj.AON_LAST_WAKE.SOURCES = rd s Obj.AON_LAST_WAKE.SOURCES := by
  have hend (u : State) (m : Mode) : Touches [.aon, .modes, .notes, .obj 0x1011] u (finishTransition u m) :=
    touches_finishTransition (.refl _ _) _ (by decide)
  unfold abortEntry
  dsimp only
  split
  · rw [(hend _ _).rd _ _ (by decide) (by decide), rd_setModes, rd_wr_apart _ _ _ _ (by decide)]
  · rw [rd_setAon, rd_wr_apart _ _ _ _ (by decide), setPhase, rd_wr_apart _ _ _ _ (by decide), rd_setModes,
      rd_wr_apart _ _ _ _ (by decide)]

theorem serveWake_sources (s : State) :
    rd (serveWake s) Obj.AON_LAST_WAKE.SOURCES = rd s Obj.AON_LAST_WAKE.SOURCES := by
  unfold serveWake
  split
  · exact abortEntry_sources s
  split
  · rw [rd_setAon, rd_wr_apart _ _ _ _ (by decide)]
  · rw [rd_setAon, rd_wr_apart _ _ _ _ (by decide)]
  · rw [rd_setAon, rd_wr_apart _ _ _ _ (by decide)]
  · unfold wakeDormant
    dsimp only
    rw [rd_emit, rd_setModes, rd_setAon, rd_wr_apart _ _ _ _ (by decide)]
  · rfl
  · rfl
  · split
    · rw [rd_raise _ _ _ _ _ _ (by decide)]
      exact (touches_pairUp (.refl [.pwr, .obj 0x0A04, .obj 0x1011] s) (by decide) :
        Touches [.pwr, .obj 0x0A04, .obj 0x1011] s _).rd _ _ (by decide) (by decide)
    · rfl

theorem recordWake_sources (s : State) (src : Nat) : rd (recordWake s src) Obj.AON_LAST_WAKE.SOURCES = 2 ^ src % 2 ^
    4 := by
  unfold recordWake bump
  dsimp only [List.foldl_cons, List.foldl_nil]
  rw [rd_wr_apart _ _ _ _ (by decide), rd_wr_apart _ _ _ _ (by decide), rd_wr_apart _ _ _ _ (by decide),
    rd_wr_apart _ _ _ _ (by decide), rd_wr_apart _ _ _ _ (by decide), rd_wr_apart _ _ _ _ (by decide),
    rd_wr_apart _ _ _ _ (by decide), rd_wr_same]
  rfl

/-- The source that woke the chip shows in `AON_LAST_WAKE`. -/
theorem latchWake_source (s : State) (src : Nat) (h : src < 4) :
    bit (rd (latchWake s src) Obj.AON_LAST_WAKE.SOURCES) src = true := by
  unfold latchWake
  split
  · dsimp only
    rw [rd_setAon, rd_wr_same]
    exact bit_or_self _ src h
  · rw [serveWake_sources, recordWake_sources]
    have := bit_or_self 0 src h
    rwa [Nat.zero_or] at this

theorem latchWake_touches (s : State) (src : Nat) :
    Touches [.aon, .flt, .modes, .notes, .out, .pwr, .obj 0x0A04, .obj 0x0C06, .obj 0x1011, .obj 0x1403] s
        (latchWake s src) :=
  touches_latchWake (.refl _ _) _ (by decide)

theorem flag_of_ne {s : State} {f : Field} {i : Nat} (h : rd s f i ≠ 0) : flag s f i = true := by
  unfold flag
  exact decide_eq_true h

theorem alarmWake_fires (s : State) (harm : rd s Obj.AON_ALARM.ARM ≠ 0)
    (htime : rd s Obj.AON_ALARM.TARGET ≤ s.time.rc64) :
    ∃ t, exec .alarmWake s = .next t ∧ rd t Obj.AON_ALARM.FIRED = 1 ∧ rd t Obj.AON_ALARM.ARM = 0
      ∧ (flag s Obj.AON_WAKE_EN.ALARM_EN = true → bit (rd t Obj.AON_LAST_WAKE.SOURCES) 2 = true) := by
  have hfired (u : State) : rd (wr (wr u Obj.AON_ALARM.ARM 0 0) Obj.AON_ALARM.FIRED 0 1) Obj.AON_ALARM.FIRED = 1 :=
    rd_wr_same _ _ _ _
  have harmed (u : State) : rd (wr (wr u Obj.AON_ALARM.ARM 0 0) Obj.AON_ALARM.FIRED 0 1) Obj.AON_ALARM.ARM = 0 := by
    rw [rd_wr_apart _ _ _ _ (by decide), rd_wr_same]
    rfl
  refine ⟨_, if_pos (by rw [flag_of_ne harm, decide_eq_true htime]; rfl), ?_⟩
  split
  · rw [(latchWake_touches _ _).rd _ _ (by decide) (by decide), (latchWake_touches _ _).rd _ _ (by decide) (by decide)]
    exact ⟨hfired s, harmed s, fun _ => latchWake_source _ 2 (by decide)⟩
  · next hen => exact ⟨hfired s, harmed s, fun k => absurd k hen⟩

/-! ### Into Dormant and out of it (R420, R422, R423) -/

theorem dormantWhole_phase (s : State) (h : s.aon.phase ≠ .waitPme) : (dormantWhole s).aon.phase ≠ .waitPme := by
  unfold dormantWhole
  split
  · rw [emit_aon, setAon_aon]
    dsimp only
    split <;> decide
  · exact h

theorem fallDown_falls (s : State) : (fallDown s).ctl.ronecUp = false ∧ (fallDown s).aon.phase ≠ .waitPme := by
  unfold fallDown
  dsimp only
  generalize hu : List.foldl snowdropDown _ _ = u
  have hu : u.ctl.ronecUp = false ∧ u.aon.phase = .fallingDown := by
    rw [← hu, foldl_same _ State.ctl _ _ fun t d _ =>
        (touches_snowdropDown (.refl [.pwr, .obj 0x0A04] t) _ (by decide) :
        Touches [.pwr, .obj 0x0A04] t _).ctl_eq,
      foldl_same _ State.aon _ _ fun t d _ => (touches_snowdropDown (.refl [.pwr, .obj 0x0A04] t) _ (by decide) :
        Touches [.pwr, .obj 0x0A04] t _).aon_eq, setCtl_ctl, setCtl_aon, showPendingUp, wr_aon, setPwr_aon, setAon_aon]
    exact ⟨rfl, rfl⟩
  rw [(dormantWhole_touches u).ctl_eq]
  exact ⟨hu.1, dormantWhole_phase u (by rw [hu.2]; decide)⟩

theorem railsGood_wakes (s : State) (h : s.aon.phase = .rails) :
    (∃ t, exec (.railsGood true) s = .next t ∧ t.aon.phase = .resuming)
    ∧ (∃ t, exec (.railsGood false) s = .next t ∧ t.aon.bootId = (s.aon.bootId + 1) % 65536)
    ∧ ∃ t, exec .railsGoodTimeout s = .next t ∧ t.aon.phase = .asleep ∧ t.aon.pwrReq = false
      ∧ rd t Obj.AON_LAST_WAKE.RAILS_LATE = 1 := by
  refine ⟨⟨_, if_pos h, ?_⟩, ⟨_, if_pos h, ?_⟩, ⟨_, if_pos h, ?_⟩⟩
  · rw [(touches_domsUp (.refl [.pwr, .obj 0x0A04, .obj 0x1011] _) _ _ (by decide) :
      Touches [.pwr, .obj 0x0A04, .obj 0x1011] _ _).aon_eq, setAon_aon]
  · rw [(raise_touches _ _ _ _ _).aon_eq, (coldBoot_counts _ _ _).1, (vout_touches _ _ _).aon_eq]
  · rw [(raise_touches _ _ _ _ _).aon_eq, rd_raise _ _ _ _ _ _ (by decide), emit_aon, rd_emit, setAon_aon, rd_setAon,
      rd_wr_same]
    exact ⟨rfl, rfl, rfl⟩

/-! ### Latch-ups (R452 to R454) -/

/-- What a latch-up outside control SRAM takes with it leaves the domains and their counters. -/
theorem latchupEffect_keeps (s : State) (d : Nat) (hsram : d ≠ 367 ∧ d ≠ 368)
    (hcore : d = 365 ∨ d = 366 → s.ctl.pair = .paired) :
    Touches [.axl, .bbl, .ctl, .dah, .evt, .flt, .hk, .modes, .notes, .out, .peer, .sun, .obj 0x0103, .obj 0x0206,
        .obj 0x0705,
      .obj 0x0A04, .obj 0x0C06, .obj 0x0D04, .obj 0x0D05, .obj 0x1011] s (latchupEffect s d) := by
  unfold latchupEffect
  split
  · exact .foldl _ _ (.refl _ _) fun t i ht => touches_showLine ht _ (by decide)
  split
  · exact touches_windowsStale (.refl _ _) (by decide)
  split
  · exact touches_samplingStops (.refl _ _) (by decide)
  split
  · split
    · exact touches_discardBlock (.refl _ _) _ (by decide)
    · exact .refl _ _
  split
  · exact touches_bankLost (.refl _ _) _ (by decide)
  split
  · exact touches_clockLoss (.refl _ _) _ (by decide)
  split
  · next hd =>
    unfold selfCheck
    split
    · exact .refl _ _
    · split
      · exact touches_coreFails (.refl _ _) _ (by decide)
      · next hone => exact absurd ⟨hcore hd, by obtain rfl | rfl := hd <;> decide⟩ hone
  split
  · next hd => exact absurd hd (by omega)
  · exact .refl _ _

theorem latchupEffect_sram (s : State) (d : Nat) (h : d = 367 ∨ d = 368) :
    latchupEffect s d = restartLost (warmRestart s 0) := by
  unfold latchupEffect
  obtain rfl | rfl := h
  · rw [if_neg (by decide), if_neg (by decide), if_neg (by decide), if_neg (by decide), if_neg (by decide),
      if_neg (by decide), if_neg (by decide), if_pos (.inl rfl)]
  · rw [if_neg (by decide), if_neg (by decide), if_neg (by decide), if_neg (by decide), if_neg (by decide),
      if_neg (by decide), if_neg (by decide), if_pos (.inr rfl)]

theorem coldBoot_pair (s : State) (failed : Bool) (source : BootFrom) :
    (coldBoot s failed source).ctl.pair ≠ .restarting := by
  unfold coldBoot
  generalize (if failed then min 255 (s.aon.bootFails + 1) else s.aon.bootFails : Nat) = fails
  dsimp only
  generalize hu : setCtl (wr (setAon (bootReset s) _) Obj.PWR_FOUND.FOUND 0 _) _ = u
  have hu : u.ctl.pair = .booting := by
    rw [← hu, setCtl_ctl, wr_ctl, setAon_ctl]
    rfl
  split
  · exact fun k => absurd (show PairState.paired = .restarting from k) (by decide)
  · rw [hu]
    decide

theorem warmRestart_aon (s : State) (core : Nat) (h : (recentRestarts s).length < 2) :
    (warmRestart s core).aon = s.aon := by
  unfold warmRestart
  dsimp only
  rw [if_neg (by rw [List.length_cons]; exact fun k => absurd h (by unfold recentRestarts; omega))]
  split
  · rw [setCtl_aon, wr_aon, (raise_touches _ _ _ _ _).aon_eq]
  · rw [(failTransition_touches _ _).aon_eq, setCtl_aon, wr_aon, (raise_touches _ _ _ _ _).aon_eq]

/-- The loss of the control SRAM boots cold, whichever restart it is. -/
theorem restartLost_boots (s : State) : (restartLost (warmRestart s 0)).aon.bootId = (s.aon.bootId + 1) % 65536 := by
  unfold restartLost
  by_cases h : 2 ≤ (recentRestarts s).length
  · have hbooted : ∃ u, warmRestart s 0 = forcedBoot u := by
      unfold warmRestart
      dsimp only
      rw [if_pos (by rw [List.length_cons]; exact Nat.succ_le_succ h)]
      exact ⟨_, rfl⟩
    have hpair : (warmRestart s 0).ctl.pair ≠ .restarting := by
      obtain ⟨u, hu⟩ := hbooted
      rw [hu, forcedBoot, (restartNotice_touches _ _ _).ctl_eq]
      exact coldBoot_pair u _ _
    rw [if_neg hpair]
    exact (warmRestart_boots s 0 h).1
  · rw [if_pos (warmRestart_restarts s 0 (by omega)).1, (forcedBoot_counts _).1]
    rw [warmRestart_aon s 0 (by omega)]

/-- The state of a domain after its latch-up: OFF at the third within 60 s, else CYCLING. -/
def latchedDom (s : State) (d : Nat) : Nat :=
  if 2 ≤ ((s.pwr.cycles.filter (fun x => decide (s.time.rc64 < x.2 + 60 * ticksPerSecond))).filter
    (fun x => x.1 == d)).length then 0 else 7

theorem latchupDebt_doms (s : State) (d : Nat) : (latchupDebt s d).pwr.doms = s.pwr.doms := by
  unfold latchupDebt
  dsimp only
  split
  · rw [(raise_touches _ _ _ _ _).pwr_eq, bump, wr_pwr, setPwr_pwr]
    rfl
  · rw [setPwr_pwr]
    rfl

theorem latchupDebt_touches (s : State) (d : Nat) :
    Touches [.flt, .notes, .pwr, .obj 0x0C06, .obj 0x1107] s (latchupDebt s d) :=
        touches_latchupDebt (.refl _ _) _ (by decide)

theorem rd_accrue (s : State) (f : Field) (i : Nat) : rd (accrue s) f i = rd s f i := rd_setPwr _ _ _ _

theorem latchupDebt_cycles (s : State) (d : Nat) :
    rd (latchupDebt s d) Obj.PWR_STATUS.LATCHUP_CYCLES = rd s Obj.PWR_STATUS.LATCHUP_CYCLES := by
  unfold latchupDebt
  dsimp only
  split
  · rw [rd_raise _ _ _ _ _ _ (by decide), bump, rd_wr_apart _ _ _ _ (by decide), rd_setPwr, rd_accrue]
  · rw [rd_setPwr, rd_accrue]

/-- Domain d of `s` is cut, and that is counted; the pair and the boots are as they were. -/
def CutOf (d : Nat) (s u : State) : Prop :=
  domState u d = latchedDom s d ∧ u.ctl = s.ctl ∧ u.aon = s.aon
    ∧ rd u Obj.PWR_STATUS.LATCHUP_CYCLES
      = (rd s Obj.PWR_STATUS.LATCHUP_CYCLES + 1) % 2 ^ Obj.PWR_STATUS.LATCHUP_CYCLES.width

theorem CutOf.raise {d : Nat} {s u : State} (h : CutOf d s u) (code inst a b : Nat) :
    CutOf d s (raise u code inst a b) := by
  obtain ⟨hdom, hctl, haon, hcount⟩ := h
  rw [CutOf, rd_raise _ _ _ _ _ _ (by decide), (raise_touches _ _ _ _ _).ctl_eq, (raise_touches _ _ _ _ _).aon_eq]
  exact ⟨(domState_of_pwr (by rw [(raise_touches _ _ _ _ _).pwr_eq]) _).trans hdom, hctl, haon, hcount⟩

/-- A latch-up cuts its domain and counts it; what it takes with it comes last. -/
theorem latchup_cuts (d : Fin 394) (s : State) (hon : domOn s d = true) (hd : d.val < 390) :
    ∃ u, exec (.latchup d) s = .next (latchupEffect u d) ∧ CutOf d s u := by
  refine ⟨_, if_pos (by rw [hon, decide_eq_true hd]; rfl), ?_⟩
  generalize hthird : decide (2 ≤ ((s.pwr.cycles.filter (fun x =>
    decide (s.time.rc64 < x.2 + 60 * ticksPerSecond))).filter (fun x => x.1 == d.val)).length) = third
  generalize hu : setPwr (setDom s d (if third then 0 else 7)) _ = u
  have hcut : domState u d = latchedDom s d ∧ Touches [.pwr, .obj 0x0A04] s u := by
    refine ⟨?_, ?_⟩
    · have hcutdom : domState u d = if third then 0 else 7 := by
        rw [← hu]
        exact (domState_of_pwr (by rw [setPwr_pwr]) _).trans (domState_setDom s d _)
      rw [hcutdom, ← hthird, latchedDom]
      exact if_congr decide_eq_true_iff rfl rfl
    · rw [← hu]
      exact touches_setPwr (touches_setDom (.refl _ _) _ _ (by decide)) _ (by decide)
  obtain ⟨hdom, htouch⟩ := hcut
  generalize hv : latchupDebt (bumpSat (bump u Obj.PWR_STATUS.LATCHUP_CYCLES 0 1) Obj.PWR_DOMAIN.LATCHUPS d 1) d = v
  have hcounted : CutOf d s v := by
    rw [CutOf, ← hv, latchupDebt_cycles, (latchupDebt_touches _ _).ctl_eq, (latchupDebt_touches _ _).aon_eq, bumpSat,
      wr_ctl, wr_aon, rd_wr_apart _ _ _ _ (by decide), rd_bump_same, bump, wr_ctl, wr_aon, htouch.ctl_eq, htouch.aon_eq,
      htouch.rd _ _ (by decide) (by decide)]
    refine ⟨?_, rfl, rfl, rfl⟩
    exact (domState_of_pwr ((latchupDebt_doms _ _).trans (by rw [wr_pwr, wr_pwr])) _).trans hdom
  split
  · exact (hcounted.raise _ _ _ _).raise _ _ _ _
  · exact hcounted.raise _ _ _ _

/-- Settles O54: wakes, the way into Dormant and out of it, latch-ups and count summaries by their rules. -/
theorem wakesAndLatchupsComplete : Obligations.WakesAndLatchupsComplete := by
  refine ⟨fun s h => ⟨⟨_, if_pos h, fallDown_falls _⟩, ⟨_, if_pos h, fallDown_falls _⟩⟩, fun p s h =>
      ?_, alarmWake_fires,
    fun level s h hlevel => ?_, fun s h => ⟨_, if_pos h, rfl, rfl⟩, railsGood_wakes, fun s h hlink => ?_,
    fun d s hon hd hd367 hd368 hcore => ?_, fun d s hon hd => ?_, fun d s h => ⟨_, if_pos h, domState_setDom s d 1⟩,
    fun s => ⟨_, rfl, ?_⟩, fun code inst s x h hrated hsince => ?_, fun p s => ⟨_, rfl, rfl⟩⟩
  · exact ⟨_, if_pos (flag_of_ne h), latchWake_source s p (by omega)⟩
  · exact ⟨_, if_pos (by rw [flag_of_ne h, hlevel]; simp), latchWake_source s 3 (by decide)⟩
  · refine ⟨_, if_pos ⟨h, hlink⟩, ?_⟩
    rw [emit_aon, setAon_aon]
    exact ⟨rfl, rfl, rfl⟩
  · obtain ⟨u, hrun, hdom, hctl, -, hcount⟩ := latchup_cuts d s hon hd
    have hkeep := latchupEffect_keeps u d ⟨hd367, hd368⟩ (by rw [hctl]; exact hcore)
    refine ⟨_, hrun, ?_, ?_⟩
    · exact (domState_of_pwr (by rw [hkeep.pwr_eq]) _).trans hdom
    · rw [hkeep.rd _ _ (by decide) (by decide), hcount]
  · obtain ⟨u, hrun, -, -, haon, -⟩ := latchup_cuts d s hon (by omega)
    refine ⟨_, hrun, ?_⟩
    rw [latchupEffect_sram u d hd, restartLost_boots, haon]
  · rw [(raise_touches _ _ _ _ _).aon_eq, setAon_aon]
  · show ∃ t, execFaultCountSummary code inst s = .next t ∧ _
    rw [execFaultCountSummary, h]
    dsimp only
    rw [if_pos ⟨hrated, hsince⟩]
    refine ⟨_, rfl, ?_⟩
    generalize hn : notice s _ = u
    have hflt : u.flt = s.flt := by
      rw [← hn]
      exact (touches_notice (.refl [.notes] s) _ (by decide) : Touches [.notes] s _).flt_eq
    have hsummed := find?_updFirst (p := fun y : FaultInst => y.code == code && y.inst == inst)
      (f := fun y => { y with sinceNotice := 0 }) (fun _ hy => hy) u.flt.active
    refine hsummed.trans ?_
    rw [hflt, show s.flt.active.find? _ = _ from h, Option.map_some]

end Sys2Proof
end

section
/-! PROOF. A link trains from OFF to LINKED, and the links of a port come up together (O40). -/

namespace Sys2Proof

-- one proof at a time, which bounds the memory of the compile
set_option Elab.async false

open Sys2Proof.Machine

/-! ### Links and their fields -/

theorem linkState_setLinkState (s : State) (l st : Nat) : linkState (setLinkState s l st) l = st % 16 :=
  (rd_setLink _ _ _ _ _).trans (rd_wr_same _ _ _ _)

/-- A write of a link's state is read in that link, and leaves the others. -/
theorem linkState_setLinkState_or (s : State) (l st k : Nat) :
    linkState (setLinkState s l st) k = st % 16 ∨ linkState (setLinkState s l st) k = linkState s k := by
  unfold linkState setLinkState
  rw [rd_setLink]
  by_cases h : Field.key Obj.AXL_LINK_STATUS.STATE k = Field.key Obj.AXL_LINK_STATUS.STATE l
  · refine .inl (Eq.trans ?_ (rd_wr_same s Obj.AXL_LINK_STATUS.STATE l st))
    unfold rd fieldGet
    rw [h]
    rfl
  · exact .inr (rd_wr_ne _ _ h)

theorem rd_setLinkState (s : State) (l st : Nat) {f : Field} (i : Nat) (h : apart Obj.AXL_LINK_STATUS.STATE f = true) :
    rd (setLinkState s l st) f i = rd s f i :=
  (rd_setLink _ _ _ _ _).trans (rd_wr_apart _ _ _ _ h)

theorem linkOf_setLink {s : State} {l : Nat} (g : AxLink → AxLink) (h : l < s.axl.links.length) :
    linkOf (setLink s l g) l = g (linkOf s l) := nth_upd_same _ _ _ _ h

theorem raiseAxrel_touches (s : State) (code inst l d : Nat) :
    Touches [.flt, .modes, .notes, .obj 0x0C06, .obj 0x1011] s (raiseAxrel s code inst l d) := raise_touches _ _ _ _ _

theorem domUp_touches (s : State) (cls d : Nat) : Touches [.pwr, .obj 0x0A04, .obj 0x1011] s (domUp s cls d) :=
  touches_domUp (.refl _ _) _ _ (by decide)

/-! ### The steps of training (R300, R302 to R305) -/

theorem trainLink_trains (s : State) (l : Nat) :
    linkState (trainLink s l) l = 1
      ∧ rd (trainLink s l) Obj.AXL_LINK_STATUS.TRAININGS l
        = (rd s Obj.AXL_LINK_STATUS.TRAININGS l + 1) % 2 ^ Obj.AXL_LINK_STATUS.TRAININGS.width := by
  unfold trainLink
  dsimp only
  refine ⟨linkState_setLinkState _ _ _, ?_⟩
  rw [rd_setLinkState _ _ _ _ (by decide), rd_emit, rd_bump_same, rd_setLink, (domUp_touches s _ _).rd _ _ (by decide)
    (by decide)]

theorem nth_beyond {α : Type} (l : List α) (d : α) {i : Nat} (h : ¬ i < l.length) : nth l i d = d :=
  List.getD_eq_default _ _ (Nat.not_lt.1 h)

theorem linkOf_setLink_field {α : Type} (val : AxLink → α) (g : AxLink → AxLink) (v : α) (s : State) (l : Nat)
    (hg : ∀ x, val (g x) = v) (hboot : val AxLink.atBoot = v) : val (linkOf (setLink s l g) l) = v := by
  show val (nth (upd s.axl.links l g) l AxLink.atBoot) = v
  rw [nth_upd]
  split
  · exact hg _
  · next h =>
    rw [show nth s.axl.links l AxLink.atBoot = AxLink.atBoot from nth_beyond _ _ fun k => h ⟨rfl, k⟩, hboot]

theorem setLinkState_waits (s : State) (l st k : Nat) :
    (linkOf (setLinkState s l st) k).waits = (linkOf s k).waits := by
  show (nth (upd s.axl.links l _) k AxLink.atBoot).waits = (nth s.axl.links k AxLink.atBoot).waits
  rw [nth_upd]
  split <;> rfl

theorem trainLink_waits (s : State) (l : Nat) : (linkOf (trainLink s l) l).waits = false := by
  unfold trainLink
  dsimp only
  rw [setLinkState_waits]
  exact linkOf_setLink_field AxLink.waits _ false _ l (fun _ => rfl) rfl

theorem partnerClockStable_steps (l : Fin 16) (unchanged : Bool) (s : State) (h : linkState s l = 1) :
    ∃ t, exec (.partnerClockStable l unchanged) s = .next t ∧ rd t Obj.AXL_LINK_STATUS.CLOCK_OK l = 1
      ∧ ((linkOf s l).fromSleep = false ∨ unchanged = false ∨ (linkOf s l).partner = none → linkState t l = 2)
      ∧ ((linkOf s l).fromSleep = true → unchanged = true → (linkOf s l).partner ≠ none →
          linkState t l = if rd s Obj.AXL_LINK_STATUS.RATE l = 0 then 5 else 4) := by
  have hclock (st : Nat) : rd (setLinkState (wr s Obj.AXL_LINK_STATUS.CLOCK_OK l 1) l st) Obj.AXL_LINK_STATUS.CLOCK_OK
      l = 1 :=
    (rd_setLinkState _ _ _ _ (by decide)).trans (rd_wr_same _ _ _ _)
  show ∃ t, execPartnerClockStable l unchanged s = .next t ∧ _
  rw [execPartnerClockStable, if_pos h]
  dsimp only
  split
  · next hskip =>
    simp only [Bool.and_eq_true, Option.isSome_iff_ne_none] at hskip
    obtain ⟨⟨hsleep, hsame⟩, hpartner⟩ := hskip
    refine ⟨_, rfl, ?_, fun k => ?_, fun _ _ _ => ?_⟩
    · split
      · rw [rd_wr_apart _ _ _ _ (by decide), hclock]
      · exact hclock 4
    · simp [hsleep, hsame, hpartner] at k
    · split
      · exact (rd_wr_apart _ _ _ _ (by decide)).trans (linkState_setLinkState _ _ _)
      · exact linkState_setLinkState _ _ _
  · next hwhole =>
    refine ⟨_, rfl, hclock 2, fun _ => linkState_setLinkState _ _ _, fun hsleep hsame hpartner => absurd ?_ hwhole⟩
    simp [hsleep, hsame, Option.isSome_iff_ne_none, hpartner]

theorem baseLocked_exchanges (l : Fin 16) (lanes : Fin 4) (s : State) (h : linkState s l = 2) (hlanes : lanes.val ≠ 0) :
    ∃ t, exec (.baseLocked l lanes) s = .next t ∧ linkState t l = 3 ∧ rd t Obj.AXL_LINK_STATUS.LOCKED l = lanes := by
  refine ⟨_, if_pos ⟨h, hlanes⟩, ?_, ?_⟩
  · exact (rd_emit _ _ _ _).trans (linkState_setLinkState _ _ _)
  · rw [rd_emit, rd_setLinkState _ _ _ _ (by decide), rd_wr_same]
    exact Nat.mod_eq_of_lt lanes.isLt

theorem speedDone_aligns (l : Fin 16) (lanes : Fin 4) (s : State) (h : linkState s l = 4) (hlanes : lanes.val ≠ 0) :
    ∃ t, exec (.speedDone l lanes) s = .next t ∧ linkState t l = 5 ∧ rd t Obj.AXL_LINK_STATUS.LOCKED l = lanes := by
  refine ⟨_, if_pos ⟨h, hlanes⟩, linkState_setLinkState _ _ _, ?_⟩
  rw [rd_setLinkState _ _ _ _ (by decide), rd_wr_same]
  exact Nat.mod_eq_of_lt lanes.isLt

theorem resolveRate_lt (mine theirs : Nat) : resolveRate mine theirs < 4 := by
  unfold resolveRate
  dsimp only
  split
  · decide
  split
  · decide
  split
  · decide
  · decide

theorem takeRecord_shows (s : State) (l : Nat) (r : Bytes) :
    rd (takeRecord s l r) Obj.AXL_LINK_STATUS.RATE l = resolveRate (2 ^ ((linkOf s l).maxRate + 1) - 1) (leAt r 5 1)
      ∧ rd (takeRecord s l r) Obj.AXL_LINK_STATUS.PARTNER_CHIPID l = leAt r 6 1 % 16
      ∧ rd (takeRecord s l r) Obj.AXL_LINK_STATUS.PARTNER_LINK l = leAt r 7 1 % 16 := by
  unfold takeRecord
  dsimp only
  rw [rd_setLink, rd_setLink, rd_setLink]
  refine ⟨?_, ?_, ?_⟩
  · rw [rd_wr_apart _ _ _ _ (by decide), rd_wr_apart _ _ _ _ (by decide), rd_wr_apart _ _ _ _ (by decide),
      rd_wr_apart _ _ _ _ (by decide), rd_wr_apart _ _ _ _ (by decide), rd_wr_apart _ _ _ _ (by decide), rd_wr_same]
    exact Nat.mod_eq_of_lt (resolveRate_lt _ _)
  · rw [rd_wr_apart _ _ _ _ (by decide), rd_wr_apart _ _ _ _ (by decide), rd_wr_apart _ _ _ _ (by decide),
      rd_wr_apart _ _ _ _ (by decide), rd_wr_apart _ _ _ _ (by decide), rd_wr_same]
    exact Nat.mod_eq_of_lt (Nat.mod_lt _ (by decide))
  · rw [rd_wr_apart _ _ _ _ (by decide), rd_wr_apart _ _ _ _ (by decide), rd_wr_apart _ _ _ _ (by decide),
      rd_wr_apart _ _ _ _ (by decide), rd_wr_same]
    exact Nat.mod_eq_of_lt (Nat.mod_lt _ (by decide))

theorem failTransition_keeps_active (s : State) (a c i : Nat) (h : faultActive s c i = true) :
    faultActive (failTransition s a) c i = true := by
  unfold failTransition
  split
  · exact h
  · refine raise_keeps_active _ _ _ _ _ _ _ ?_
    unfold faultActive findFault
    rw [(forceIdle_touches _ _ _).flt_eq]
    exact h

/-- What a judgement of a capability record leaves: the fields of the link. -/
def RecordKept (s t : State) : Prop := Touches [.axl, .flt, .modes, .notes, .obj 0x0C06, .obj 0x1011] s t

theorem RecordKept.trans {s t u : State} (h : RecordKept s t) (k : RecordKept t u) : RecordKept s u := Touches.trans h k

theorem recordKept_setLink (s : State) (l : Nat) (g : AxLink → AxLink) : RecordKept s (setLink s l g) :=
  touches_setLink (.refl _ _) _ _ (by decide)

theorem recordKept_raise (s : State) (code inst a b : Nat) : RecordKept s (raise s code inst a b) :=
  (raise_touches s code inst a b).mono (by decide)

theorem recordKept_failTransition (s : State) (a : Nat) : RecordKept s (failTransition s a) :=
  (failTransition_touches s a).mono (by decide)

/-- The state after the judgement of a record: the partner, the form, the rate. -/
def recordJudged (s : State) (l : Nat) (partnerBad formBad rateBad : Bool) (a b c d : Nat) : State :=
  if partnerBad then raise (setLink s l (fun x => { x with excluded := true })) 0x0D07 l a b
  else if formBad then raise (setLink s l (fun x => { x with excluded := true })) 0x0D07 l c d
  else if rateBad then raiseAxrel (setLink s l (fun x => { x with excluded := true })) 0x0D07 l l 0
  else setLink s l (fun x => { x with excluded := false })

theorem recordJudged_keeps (s : State) (l : Nat) (x y z : Bool) (a b c d : Nat) :
    RecordKept s (recordJudged s l x y z a b c d) := by
  unfold recordJudged
  split
  · exact (recordKept_setLink s l _).trans (recordKept_raise _ _ _ _ _)
  split
  · exact (recordKept_setLink s l _).trans (recordKept_raise _ _ _ _ _)
  split
  · exact (recordKept_setLink s l _).trans (recordKept_raise _ _ _ _ _)
  · exact recordKept_setLink s l _

theorem recordJudged_partner (s : State) (l : Nat) (y z : Bool) (a b c d : Nat) (hroom : s.flt.active.length < 1024) :
    faultActive (recordJudged s l true y z a b c d) 0x0D07 l = true := raise_active _ _ _ _ _ hroom

theorem capabilityRecord_resolves (l : Fin 16) (record : List Nat) (s : State) (h : linkState s l = 3)
    (hlen : record.length = 32) (hmagic : leAt record 0 4 = 0x50435841) (hversion : leAt record 4 1 = 1) :
    ∃ t, exec (.capabilityRecord l record) s = .next t
      ∧ rd t Obj.AXL_LINK_STATUS.RATE l = resolveRate (2 ^ ((linkOf s l).maxRate + 1) - 1) (leAt record 5 1)
      ∧ linkState t l = (if resolveRate (2 ^ ((linkOf s l).maxRate + 1) - 1) (leAt record 5 1) = 0 then 5 else 4)
      ∧ rd t Obj.AXL_LINK_STATUS.PARTNER_CHIPID l = leAt record 6 1 % 16
      ∧ rd t Obj.AXL_LINK_STATUS.PARTNER_LINK l = leAt record 7 1 % 16
      ∧ (partnerRight s l record = false → s.flt.active.length < 1024 → faultActive t 0x0D07 l = true) := by
  obtain ⟨hrate, hchip, hlink⟩ := takeRecord_shows s l record
  show ∃ t, execCapabilityRecord l record s = .next t ∧ _
  rw [execCapabilityRecord, if_pos ⟨h, hlen, hmagic, hversion⟩]
  dsimp only
  generalize hr : resolveRate (2 ^ ((linkOf s l).maxRate + 1) - 1) (leAt record 5 1) = rate at hrate
  rw [hrate]
  have htaken : Touches [.axl, .obj 0x0D04] s (takeRecord s l record) := touches_takeRecord (.refl _ _) _ _ (by decide)
  have hmoved : ∃ u, u = setLinkState (takeRecord s l record) l (if rate = 0 then 5 else 4)
      ∧ linkState u l = (if rate = 0 then 5 else 4) ∧ rd u Obj.AXL_LINK_STATUS.RATE l = rate
      ∧ rd u Obj.AXL_LINK_STATUS.PARTNER_CHIPID l = leAt record 6 1 % 16
      ∧ rd u Obj.AXL_LINK_STATUS.PARTNER_LINK l = leAt record 7 1 % 16 ∧ u.flt = s.flt := by
    refine ⟨_, rfl, (linkState_setLinkState _ _ _).trans (by split <;> rfl), ?_⟩
    rw [rd_setLinkState _ _ _ _ (by decide), rd_setLinkState _ _ _ _ (by decide), rd_setLinkState _ _ _ _ (by decide)]
    exact ⟨hrate, hchip, hlink, (touches_setLinkState htaken _ _ (by decide)).flt_eq⟩
  obtain ⟨u, hu, hstate, hurate, huchip, hulink, hflt⟩ := hmoved
  rw [← hu]
  generalize (bondedForm s (l.val / 4) && _) = rateBad
  have hjudged : ∃ v, v = recordJudged u l (!partnerRight s l record) (!formRight s l record) rateBad l
      (leAt record 6 1 + 256 * leAt record 7 1) l (leAt record 24 1 % 2 + 2 * b2n (bondedForm s (l.val / 4)))
      ∧ RecordKept u v ∧ (partnerRight s l record = false → s.flt.active.length < 1024 → faultActive v 0x0D07
          l = true) := by
    refine ⟨_, rfl, recordJudged_keeps _ _ _ _ _ _ _ _ _, fun hbad hroom => ?_⟩
    rw [hbad]
    exact recordJudged_partner u l _ _ _ _ _ _ (by rw [hflt]; exact hroom)
  obtain ⟨v, hv, hkept, hfault⟩ := hjudged
  unfold recordJudged at hv
  rw [← hv]
  refine ⟨_, rfl, ?_⟩
  have hends (t : State) (ht : RecordKept u t) (hactive : faultActive v 0x0D07 l = true → faultActive t 0x0D07
      l = true) :
      rd t Obj.AXL_LINK_STATUS.RATE l = rate ∧ linkState t l = (if rate = 0 then 5 else 4)
        ∧ rd t Obj.AXL_LINK_STATUS.PARTNER_CHIPID l = leAt record 6 1 % 16
        ∧ rd t Obj.AXL_LINK_STATUS.PARTNER_LINK l = leAt record 7 1 % 16
        ∧ (partnerRight s l record = false → s.flt.active.length < 1024 → faultActive t 0x0D07 l = true) := by
    refine ⟨?_, ?_, ?_, ?_, fun hbad hroom => hactive (hfault hbad hroom)⟩
    · rw [Touches.rd ht _ _ (by decide) (by decide), hurate]
    · exact (Touches.rd ht _ _ (by decide) (by decide)).trans hstate
    · rw [Touches.rd ht _ _ (by decide) (by decide), huchip]
    · rw [Touches.rd ht _ _ (by decide) (by decide), hulink]
  split
  · exact hends _ ((hkept.trans (recordKept_raise _ _ _ _ _)).trans (recordKept_failTransition _ _)) fun hactive =>
      failTransition_keeps_active _ _ _ _ (raise_keeps_active _ _ _ _ _ _ _ hactive)
  · exact hends v hkept id

/-! ### A port comes up (R305) -/

/-- Sending frames counts them, and leaves the other fields. -/
theorem rd_pumpFrames {f : Field} (h : apart Obj.AXL_PORT_STATUS.FRAMES f = true) (n : Nat) (s : State) (p i : Nat) :
    rd (pumpFrames n s p) f i = rd s f i := by
  induction n generalizing s with
  | zero => rfl
  | succ n ih =>
    unfold pumpFrames
    dsimp only
    split
    · rfl
    · split
      · rfl
      · rw [ih, bump, rd_wr_apart _ _ _ _ h, rd_emit, rd_setAxPort]

theorem rd_pumpPeer {f : Field} (h : apart Obj.AXL_PORT_STATUS.FRAMES f = true) (n : Nat) (s : State) (p i : Nat) :
    rd (pumpPeer n s p) f i = rd s f i := by
  induction n generalizing s with
  | zero => rfl
  | succ n ih =>
    unfold pumpPeer
    split
    · split
      · dsimp only
        split
        · rfl
        · rw [ih, rd_pumpFrames h, rd_setAxPort]
          rfl
      · rfl
    · rfl

theorem rd_pump {f : Field} (h : apart Obj.AXL_PORT_STATUS.FRAMES f = true) (s : State) (p i : Nat) :
    rd (pump s p) f i = rd s f i := (rd_pumpPeer h _ _ _ _).trans (rd_pumpFrames h _ _ _ _)

theorem pump_touches (s : State) (p : Nat) : Touches [.axl, .out, .peer, .obj 0x0D05] s (pump s p) :=
  touches_pump (.refl _ _) _ (by decide)

theorem mapFaults_touches (s : State) (p : Nat) : Touches [.flt, .notes, .obj 0x0C06] s (mapFaults s p) :=
  touches_mapFaults (.refl _ _) _ (by decide)

theorem requestMap_requests (s : State) (p m : Nat) (h : m ≠ 0) : Touches [.axl, .out] s (requestMap s p m) := by
  unfold requestMap
  rw [if_neg h]
  exact touches_emit (touches_setAxPort (.refl _ _) _ _ (by decide)) _ (by decide)

/-- A link that joins is LINKED, and the others stay as they are. -/
theorem linkJoined_state (s : State) (l k : Nat) :
    linkState (linkJoined s l) k = 6 ∨ linkState (linkJoined s l) k = linkState s k := by
  have hclear (t : State) : Touches [.flt, .notes, .obj 0x0C06] t
      (clearFault (clearFault (endFault t 0x0D07 l) 0x0D04 l)
      0x0D02 l) := touches_clearFault (touches_clearFault (touches_endFault (.refl _ _) _ _ (by decide)) _ _
          (by decide)) _ _
    (by decide)
  unfold linkJoined
  dsimp only
  unfold linkState
  rw [(hclear _).rd _ _ (by decide) (by decide), rd_setLink]
  exact linkState_setLinkState_or s l 6 k

theorem linkJoined_self (s : State) (l : Nat) : linkState (linkJoined s l) l = 6 := by
  have hclear (t : State) : Touches [.flt, .notes, .obj 0x0C06] t
      (clearFault (clearFault (endFault t 0x0D07 l) 0x0D04 l)
      0x0D02 l) := touches_clearFault (touches_clearFault (touches_endFault (.refl _ _) _ _ (by decide)) _ _
          (by decide)) _ _
    (by decide)
  unfold linkJoined
  dsimp only
  unfold linkState
  rw [(hclear _).rd _ _ (by decide) (by decide), rd_setLink]
  exact linkState_setLinkState s l 6

theorem linksJoin_state (ks : List Nat) (s : State) {k : Nat} (hk : k ∈ ks) :
    linkState (ks.foldl linkJoined s) k = 6 := by
  induction ks generalizing s with
  | nil => cases hk
  | cons x ks ih =>
    rw [List.foldl_cons]
    by_cases hin : k ∈ ks
    · exact ih _ hin
    · obtain rfl | hk := List.mem_cons.1 hk
      · exact List.foldlRecOn (motive := fun t => linkState t k = 6) ks linkJoined (linkJoined_self s k) fun t ht y _ =>
          (linkJoined_state t y k).elim id fun e => e.trans ht
      · exact absurd hk hin

theorem linkJoined_touches (s : State) (l : Nat) : Touches [.axl, .flt, .notes, .obj 0x0C06, .obj 0x0D04] s
    (linkJoined s l) :=
  touches_linkJoined (.refl _ _) _ (by decide)

theorem portDeskew_joins (l late : Fin 16) (s : State) (hdown : portUp s (portOfLink s l) = false)
    (hjoins : ∃ k ∈ linksOfPort s (portOfLink s l),
      linkState s k = 5 ∧ (linkOf s k).excluded = false ∧ bit late (k % 4) = false)
    (hready : (∀ k ∈ linksOfPort s (portOfLink s l), linkEnabled s k = false ∨ linkState s k = 5)
      ∨ (∃ k ∈ linksOfPort s (portOfLink s l), linkState s k = 5 ∧ (linkOf s k).excluded = false
          ∧ (linkOf s k).since + 1600000 ≤ s.time.rc64)) :
    ∃ t, exec (.portDeskew l late) s = .next t ∧ portUp t (portOfLink s l) = true
      ∧ ∀ k ∈ linksOfPort s (portOfLink s l),
        linkState s k = 5 ∧ (linkOf s k).excluded = false ∧ bit late (k % 4) = false → linkState t k = 6 := by
  show ∃ t, execPortDeskew l late s = .next t ∧ _
  unfold execPortDeskew
  dsimp only
  generalize portOfLink s l = p at *
  generalize hr : (linksOfPort s p).filter (fun k => decide (linkState s k = 5) && !(linkOf s k).excluded) = ready
  have hmem (k : Nat) : k ∈ ready ↔ k ∈ linksOfPort s p ∧ linkState s k = 5 ∧ (linkOf s k).excluded = false := by
    rw [← hr, List.mem_filter]
    simp
  obtain ⟨k0, hk0, h5, hin, hlate⟩ := hjoins
  have hk0 : k0 ∈ ready := (hmem k0).2 ⟨hk0, h5, hin⟩
  have hgo : (linksOfPort s p).all (fun k => !linkEnabled s k || decide (linkState s k = 5)) = true
      ∨ ready.any (fun k => decide ((linkOf s k).since + 1600000 ≤ s.time.rc64)) = true := by
    obtain hall | ⟨k, hk, hk5, hkin, hsince⟩ := hready
    · refine .inl (List.all_eq_true.2 fun k hk => ?_)
      obtain h | h := hall k hk
      · simp [h]
      · simp [h]
    · exact .inr (List.any_eq_true.2 ⟨k, (hmem k).2 ⟨hk, hk5, hkin⟩, decide_eq_true hsince⟩)
  rw [if_pos ⟨hdown, List.ne_nil_of_mem hk0, hgo⟩]
  generalize hj : ready.filter (fun k => !bit late (k % 4)) = join
  have hjoin (k : Nat) : k ∈ join ↔ k ∈ ready ∧ bit late (k % 4) = false := by
    rw [← hj, List.mem_filter]
    simp
  generalize List.foldl _ s (ready.filter fun k => bit late (k % 4)) = s1
  cases join with
  | nil => exact absurd ((hjoin k0).2 ⟨hk0, hlate⟩) List.not_mem_nil
  | cons k1 rest =>
    dsimp only
    generalize List.foldl (fun a k => a ||| laneBits s k) 0 (k1 :: rest) = m
    generalize hu : wr (wr (wr (wr (setAxPort s1 p _) Obj.AXL_PORT_STATUS.TX_MAP p m) Obj.AXL_PORT_STATUS.RX_MAP p m)
        Obj.AXL_PORT_STATUS.UP p 1) Obj.AXL_PORT_STATUS.BONDED p (b2n (bondedForm s (p / 4))) = u
    have hup : rd u Obj.AXL_PORT_STATUS.UP p = 1 := by
      rw [← hu, rd_wr_apart _ _ _ _ (by decide), rd_wr_same]
      rfl
    have hjoined : ∃ v, v = endFault ((k1 :: rest).foldl linkJoined u) 0x0D03 p ∧ rd v Obj.AXL_PORT_STATUS.UP p = 1
        ∧ ∀ k ∈ k1 :: rest, linkState v k = 6 := by
      have hall : Touches [.axl, .flt, .notes, .obj 0x0C06, .obj 0x0D04] u ((k1 :: rest).foldl linkJoined u) :=
        .foldl _ _ (.refl _ _) fun t k ht => ht.trans (linkJoined_touches t k)
      exact ⟨_, rfl, (hall.rd _ _ (by decide) (by decide)).trans hup, fun k hk => linksJoin_state _ u hk⟩
    obtain ⟨v, hv, hvup, hvstate⟩ := hjoined
    rw [← hv]
    have hmapped : ∃ w, w = (if lockedMap v p &&& m = m ∨ lockedMap v p &&& m = 0 then mapFaults v p
        else requestMap v p (lockedMap v p &&& m)) ∧ Touches [.axl, .flt, .notes, .out, .obj 0x0C06] v w := by
      refine ⟨_, rfl, ?_⟩
      split
      · exact (mapFaults_touches v p).mono (by decide)
      · next hm => exact (requestMap_requests v p _ fun k => hm (.inr k)).mono (by decide)
    obtain ⟨w, hw, htouch⟩ := hmapped
    rw [← hw]
    refine ⟨_, rfl, ?_, fun k hk hkj => ?_⟩
    · unfold portUp flag
      rw [rd_pump (by decide), htouch.rd _ _ (by decide) (by decide), hvup]
      rfl
    · unfold linkState
      rw [(pump_touches w p).rd _ _ (by decide) (by decide), htouch.rd _ _ (by decide) (by decide)]
      exact hvstate k ((hjoin k).2 ⟨(hmem k).2 ⟨hk, hkj.1, hkj.2.1⟩, hkj.2.2⟩)

theorem trainStepOverrun_fails (l : Fin 16) (s : State) (hlen : s.axl.links.length = 16) (h : 1 ≤ linkState s l)
    (hstep : linkState s l ≤ 4
      ∨ (linkState s l = 5 ∧ (linkOf s l).excluded = false ∧ portUp s (portOfLink s l) = false)) :
    ∃ t, exec (.trainStepOverrun l) s = .next t ∧ linkState t l = 0 ∧ (linkOf t l).waits = true := by
  refine ⟨_, if_pos ⟨h, hstep⟩, ?_⟩
  unfold trainFails
  dsimp only
  generalize hu : wr (wr (setLinkState s l 0) Obj.AXL_LINK_STATUS.LOCKED l 0) Obj.AXL_LINK_STATUS.CLOCK_OK l 0 = u
  have hstate : linkState u l = 0 := by
    rw [← hu]
    exact ((rd_wr_apart _ _ _ _ (by decide)).trans (rd_wr_apart _ _ _ _ (by decide))).trans
        (linkState_setLinkState s l 0)
  have hlinks : u.axl.links.length = 16 := by
    rw [← hu, wr_axl, wr_axl]
    exact (upd_length _ _ _).trans hlen
  have hwaits : (linkOf (setLink u l fun x => { x with fails := x.fails + 1, waits := true }) l).waits = true := by
    rw [linkOf_setLink _ (by rw [hlinks]; exact l.isLt)]
  split
  · unfold linkState linkOf
    rw [(raiseAxrel_touches _ _ _ _ _).rd _ _ (by decide) (by decide), (raiseAxrel_touches _ _ _ _ _).axl_eq]
    exact ⟨hstate, hwaits⟩
  · exact ⟨hstate, hwaits⟩

theorem retrainTimer_retrains (l : Fin 16) (s : State) (h : (linkOf s l).waits = true) :
    ∃ t, exec (.retrainTimer l) s = .next t ∧ (linkOf t l).waits = false
      ∧ (linkEnabled s l = true → (axrelMode s).usesAxrel = true → linkState t l = 1) := by
  refine ⟨_, if_pos h, ?_⟩
  split
  · exact ⟨trainLink_waits _ _, fun _ _ => (trainLink_trains _ _).1⟩
  · next hnot =>
    exact ⟨linkOf_setLink_field AxLink.waits _ false s l (fun _ => rfl) rfl, fun hen hmode => absurd ⟨hen, hmode⟩ hnot⟩

/-- Settles O40: each step of training by its row. -/
theorem trainingComplete : Obligations.TrainingComplete :=
  ⟨fun l s hstate hen hmode hwaits => ⟨_, if_pos ⟨hstate, hen, hmode, hwaits⟩, trainLink_trains s l⟩,
    partnerClockStable_steps, baseLocked_exchanges, fun _ _ h => ⟨_, if_pos h, rfl⟩, capabilityRecord_resolves,
    speedDone_aligns, portDeskew_joins, trainStepOverrun_fails, retrainTimer_retrains⟩

end Sys2Proof
end

section
/-! PROOF. Lane losses, lane maps, rejoining lanes, lost clocks (O41). -/

namespace Sys2Proof

-- one proof at a time, which bounds the memory of the compile
set_option Elab.async false

open Sys2Proof.Machine

/-! ### What the end of a port does to its links (R300, R314) -/

/-- The field of one copy reads what was written, or as before. -/
theorem rd_wr_or (s : State) (f : Field) (i v j : Nat) (h : f.resetAt j = f.resetAt i) :
    rd (wr s f i v) f j = v % 2 ^ f.width ∨ rd (wr s f i v) f j = rd s f j := by
  by_cases hkey : f.key j = f.key i
  · refine .inl (Eq.trans ?_ (rd_wr_same s f i v))
    unfold rd fieldGet
    rw [hkey, h]
  · exact .inr (rd_wr_ne _ _ hkey)

/-- Links may have been taken down: their state, locks and clock are cleared or stay; their losses stay counted. -/
def LinksDown (s t : State) : Prop :=
  ∀ k, (linkState t k = 0 ∨ linkState t k = linkState s k)
    ∧ (rd t Obj.AXL_LINK_STATUS.LOCKED k = 0 ∨ rd t Obj.AXL_LINK_STATUS.LOCKED k = rd s Obj.AXL_LINK_STATUS.LOCKED k)
    ∧ (rd t Obj.AXL_LINK_STATUS.CLOCK_OK k = 0
        ∨ rd t Obj.AXL_LINK_STATUS.CLOCK_OK k = rd s Obj.AXL_LINK_STATUS.CLOCK_OK k)
    ∧ rd t Obj.AXL_LINK_STATUS.LOCK_LOSSES k = rd s Obj.AXL_LINK_STATUS.LOCK_LOSSES k

theorem linksDown_refl (s : State) : LinksDown s s := fun _ => ⟨.inr rfl, .inr rfl, .inr rfl, rfl⟩

theorem or_trans_eq {a b c : Nat} (h : b = 0 ∨ b = c) (k : a = 0 ∨ a = b) : a = 0 ∨ a = c := by
  obtain k | k := k
  · exact .inl k
  · rwa [k]

theorem LinksDown.trans {s t u : State} (h : LinksDown s t) (k : LinksDown t u) : LinksDown s u := by
  intro i
  obtain ⟨hstate, hlock, hclock, hloss⟩ := h i
  obtain ⟨kstate, klock, kclock, kloss⟩ := k i
  exact ⟨or_trans_eq hstate kstate, or_trans_eq hlock klock, or_trans_eq hclock kclock, kloss.trans hloss⟩

theorem LinksDown.of_touches {ps : List Part} {s t : State} (h : Touches ps s t)
    (ho : (Part.obj 0x0D04).within ps = false := by rfl) : LinksDown s t := fun _ =>
  ⟨.inr (h.rd _ _ (by decide) ho), .inr (h.rd _ _ (by decide) ho), .inr (h.rd _ _ (by decide) ho), h.rd _ _
      (by decide) ho⟩

theorem linksDown_linkOff (s : State) (l : Nat) : LinksDown s (linkOff s l 0) := by
  intro k
  unfold linkOff linkState
  refine ⟨?_, ?_, ?_, ?_⟩
  · rw [rd_wr_apart _ _ _ _ (by decide), rd_wr_apart _ _ _ _ (by decide)]
    exact linkState_setLinkState_or s l 0 k
  · rw [rd_wr_apart _ _ _ _ (by decide)]
    refine or_trans_eq (.inr ?_) (rd_wr_or _ _ _ _ _ rfl)
    exact rd_setLinkState _ _ _ _ (by decide)
  · refine or_trans_eq (.inr ?_) (rd_wr_or _ _ _ _ _ rfl)
    rw [rd_wr_apart _ _ _ _ (by decide), rd_setLinkState _ _ _ _ (by decide)]
  · rw [rd_wr_apart _ _ _ _ (by decide), rd_wr_apart _ _ _ _ (by decide), rd_setLinkState _ _ _ _ (by decide)]

theorem linksDown_linksTo (s : State) (p : Nat) : LinksDown s (linksTo s p 0) := by
  refine List.foldlRecOn (motive := LinksDown s) _ _ (linksDown_refl s) fun t ht l _ => ht.trans ?_
  split
  · exact linksDown_linkOff t l
  · exact linksDown_refl t

theorem linksDown_peerLanes (s : State) (p : Nat) : LinksDown s (peerLanes s p) :=
  .of_touches (touches_peerLanes (.refl [.flt, .notes, .obj 0x0C06] s) _ (by decide))

theorem linksDown_portDown (s : State) (p : Nat) : LinksDown s (portDown s p) := by
  unfold portDown
  split
  · dsimp only
    have hend : LinksDown s (raiseAxrel (linksTo (portEnd s p) p 0) 0x0D03 p p 0) :=
      ((LinksDown.of_touches (touches_portEnd (.refl [.axl, .obj 0x0D05] s) _ (by decide))).trans
        (linksDown_linksTo _ _)).trans (.of_touches (raiseAxrel_touches _ _ _ _ _))
    split
    · exact (hend.trans (.of_touches (touches_wideDownNow (.refl [.peer] _) _ (by decide)))).trans
        (linksDown_peerLanes _ _)
    · exact hend
  · exact linksDown_refl s

theorem linksDown_requestMap (s : State) (p m : Nat) : LinksDown s (requestMap s p m) := by
  by_cases h : m = 0
  · unfold requestMap
    rw [if_pos h]
    exact linksDown_portDown s p
  · exact .of_touches (requestMap_requests s p m h)

/-! ### Lanes and maps (R314 to R317) -/

theorem bit_zero (i : Nat) : bit 0 i = false := Nat.zero_testBit i

theorem bit_lane (n : Nat) (d : Fin 2) : bit (n % 2 ^ 2) d = bit n d := by
  unfold bit
  rw [Nat.testBit_mod_two_pow, decide_eq_true d.isLt, Bool.true_and]

/-- A counter of the two lanes of a link that is cleared reads 0. -/
theorem linkOf_counter (val : AxLink → List Nat) (hboot : val AxLink.atBoot = [0, 0]) (s : State) (l d : Nat)
    (g : AxLink → AxLink) (hg : ∀ x, val (g x) = upd (val x) d (fun _ => 0)) (hd : d < 2) :
    nth (val (linkOf (setLink s l g) l)) d 0 = 0 := by
  have hcleared (c : List Nat) : nth (upd c d fun _ => 0) d 0 = 0 := by
    rw [nth_upd]
    split
    · rfl
    · next h => exact nth_beyond _ _ fun k => h ⟨rfl, k⟩
  show nth (val (nth (upd s.axl.links l g) l AxLink.atBoot)) d 0 = 0
  rw [nth_upd]
  split
  · rw [hg]
    exact hcleared _
  · next h =>
    rw [nth_beyond _ _ fun k => h ⟨rfl, k⟩, hboot]
    obtain rfl | rfl : d = 0 ∨ d = 1 := by omega
    · rfl
    · rfl

theorem laneLockLoss_unlocks (l : Fin 16) (d : Fin 2) (s : State) (hlow : 5 ≤ linkState s l) (hhigh : linkState s l ≤ 7)
    (hlock : bit (rd s Obj.AXL_LINK_STATUS.LOCKED l) d = true) :
    ∃ t, exec (.laneLockLoss l d) s = .next t ∧ bit (rd t Obj.AXL_LINK_STATUS.LOCKED l) d = false
      ∧ rd t Obj.AXL_LINK_STATUS.LOCK_LOSSES l
        = (rd s Obj.AXL_LINK_STATUS.LOCK_LOSSES l + 1) % 2 ^ Obj.AXL_LINK_STATUS.LOCK_LOSSES.width := by
  refine ⟨_, if_pos ⟨hlow, hhigh, hlock⟩, ?_⟩
  generalize hu : setLink (wr (bump s Obj.AXL_LINK_STATUS.LOCK_LOSSES l 1) Obj.AXL_LINK_STATUS.LOCKED l
    (setBit (rd s Obj.AXL_LINK_STATUS.LOCKED l) d false)) l _ = u
  have hlost : bit (rd u Obj.AXL_LINK_STATUS.LOCKED l) d = false ∧ rd u Obj.AXL_LINK_STATUS.LOCK_LOSSES l
      = (rd s Obj.AXL_LINK_STATUS.LOCK_LOSSES l + 1) % 2 ^ Obj.AXL_LINK_STATUS.LOCK_LOSSES.width := by
    rw [← hu, rd_setLink, rd_setLink, rd_wr_same, rd_wr_apart _ _ _ _ (by decide), rd_bump_same]
    exact ⟨(bit_lane _ d).trans (bit_setBit_clear _ _), rfl⟩
  have hdown : ∃ t, t = (if portUp s (portOfLink s l) && bit (wantedMap s (portOfLink s l)) (laneIndex s l d) then
      requestMap u (portOfLink s l) (setBit (wantedMap s (portOfLink s l)) (laneIndex s l d) false) else u)
      ∧ LinksDown u t := by
    refine ⟨_, rfl, ?_⟩
    split
    · exact linksDown_requestMap u _ _
    · exact linksDown_refl u
  obtain ⟨t, ht, hdown⟩ := hdown
  obtain ⟨-, hlocked, -, hlosses⟩ := hdown l
  rw [← ht, hlosses]
  refine ⟨?_, hlost.2⟩
  obtain h | h := hlocked
  · rw [h, bit_zero]
  · rw [h]
    exact hlost.1

theorem am_locks (l : Fin 16) (d : Fin 2) (s : State) (hlow : 5 ≤ linkState s l) (hhigh : linkState s l ≤ 7)
    (ok : Bool) :
    ∃ t, exec (.am l d ok) s = .next t ∧ bit (rd t Obj.AXL_LINK_STATUS.LOCKED l) d = true := by
  refine ⟨_, if_pos ⟨hlow, hhigh⟩, ?_⟩
  rw [rd_setLink, rd_wr_same]
  exact (bit_lane _ d).trans (bit_setBit_same _ _)

theorem portOfLink_lt (s : State) (l : Fin 16) : portOfLink s l < 16 := by
  unfold portOfLink
  split
  · omega
  · exact l.isLt

theorem axPortOf_setAxPort {s : State} {p : Nat} (g : AxPort → AxPort) (h : p < s.axl.ports.length) :
    axPortOf (setAxPort s p g) p = g (axPortOf s p) := nth_upd_same _ _ _ _ h

theorem mapreq_applies (l : Fin 16) (mapId : Fin 16) (map : Fin 256) (s : State)
    (hup : portUp s (portOfLink s l) = true)
    (hmap : map.val ≠ 0)
    (hnew : ∀ i, (axPortOf s (portOfLink s l)).mapIdTx = some i → (mapId.val + 16 - i) % 16 < 8) :
    ∃ t, exec (.mapreq l mapId map) s = .next t ∧ rd t Obj.AXL_PORT_STATUS.TX_MAP (portOfLink s l) = map := by
  have hold : (match (axPortOf s (portOfLink s l)).mapIdTx with
      | some i => decide (8 ≤ (mapId.val + 16 - i) % 16)
      | none => false) = false := by
    split
    · next i hi => exact decide_eq_false (Nat.not_le.2 (hnew i hi))
    · rfl
  have hshown (u : State) : rd (emit (setAxPort (wr u Obj.AXL_PORT_STATUS.TX_MAP (portOfLink s l) map) (portOfLink s l)
      fun x => { x with mapIdTx := some mapId.val }) (.axUnit (portOfLink s l) 0x87 mapId map))
      Obj.AXL_PORT_STATUS.TX_MAP (portOfLink s l) = map := by
    rw [rd_emit, rd_setAxPort, rd_wr_same]
    exact Nat.mod_eq_of_lt map.isLt
  refine ⟨_, if_pos (by rw [hup]; exact congrArg (fun b => true && !b) hold) |>.trans (if_neg hmap), ?_⟩
  split
  · rw [bump, rd_wr_apart _ _ _ _ (by decide), hshown]
  · exact hshown s

theorem mapreq_old (l : Fin 16) (mapId : Fin 16) (map : Fin 256) (s : State) (i : Nat)
    (hi : (axPortOf s (portOfLink s l)).mapIdTx = some i) (hold : 8 ≤ (mapId.val + 16 - i) % 16) :
    exec (.mapreq l mapId map) s = .next s := by
  show execMapreq l mapId map s = _
  unfold execMapreq
  dsimp only
  rw [hi]
  dsimp only
  exact if_neg (by rw [decide_eq_true hold]; simp)

theorem map_applies (l : Fin 16) (mapId : Fin 16) (map : Fin 256) (s : State) (hup : portUp s (portOfLink s l) = true)
    (hmap : map.val ≠ 0) :
    ∃ t, exec (.map l mapId map) s = .next t ∧ rd t Obj.AXL_PORT_STATUS.RX_MAP (portOfLink s l) = map := by
  generalize hp : portOfLink s l = p at hup
  show ∃ t, execMap l mapId map s = .next t ∧ _
  unfold execMap
  rw [hp]
  dsimp only
  rw [if_pos hup, if_neg hmap]
  have hwritten : ∃ u, u = (if mapId.val = (axPortOf s p).mapIdRx then
      setAxPort (wr s Obj.AXL_PORT_STATUS.RX_MAP p map) p (fun x => { x with want := none })
      else wr s Obj.AXL_PORT_STATUS.RX_MAP p map) ∧ rd u Obj.AXL_PORT_STATUS.RX_MAP p = map := by
    refine ⟨_, rfl, ?_⟩
    split
    · rw [rd_setAxPort, rd_wr_same]
      exact Nat.mod_eq_of_lt map.isLt
    · rw [rd_wr_same]
      exact Nat.mod_eq_of_lt map.isLt
  obtain ⟨u, hu, hmapped⟩ := hwritten
  rw [← hu]
  generalize hv : (linksOfPort s p).foldl _ u = v
  have hv : rd v Obj.AXL_PORT_STATUS.RX_MAP p = map := by
    have hfold : Touches [.axl, .flt, .notes, .obj 0x0C06, .obj 0x0D04] u v := by
      rw [← hv]
      refine .foldl _ _ (.refl _ _) fun t k ht => ?_
      split
      · exact ht.trans (linkJoined_touches t k)
      · exact ht
    rw [hfold.rd _ _ (by decide) (by decide), hmapped]
  refine ⟨_, rfl, ?_⟩
  rw [(mapFaults_touches _ _).rd _ _ (by decide) (by decide)]
  split
  · have hlanes (x : State) : Touches [.flt, .notes, .obj 0x0C06] x (peerLanes x p) :=
      touches_peerLanes (.refl _ _) _ (by decide)
    rw [(hlanes _).rd _ _ (by decide) (by decide), (raiseAxrel_touches _ _ _ _ _).rd _ _ (by decide) (by decide), bump,
      rd_wr_apart _ _ _ _ (by decide), hv]
  · exact hv

theorem mapreqResend_repeats (l : Fin 16) (m : Nat) (s : State) (h : (axPortOf s (portOfLink s l)).want = some m) :
    ∃ t, exec (.mapreqResend l) s = .next t
      ∧ t.out = .axUnit (portOfLink s l) 0x78 (axPortOf s (portOfLink s l)).mapIdRx m :: s.out := by
  show ∃ t, execMapreqResend l s = .next t ∧ _
  unfold execMapreqResend
  dsimp only
  rw [h]
  exact ⟨_, rfl, rfl⟩

theorem or_two_pow_ne (m i : Nat) : m ||| 2 ^ i ≠ 0 := by
  intro h
  have := congrArg (Nat.testBit · i) h
  simp at this

theorem laneRejoin_asks (l : Fin 16) (d : Fin 2) (s : State) (hlen : s.axl.ports.length = 16)
    (hup : portUp s (portOfLink s l) = true) (hen : linkEnabled s l = true) (hin : (linkOf s l).excluded = false)
    (hlock : bit (rd s Obj.AXL_LINK_STATUS.LOCKED l) d = true) (hclean : 4 ≤ nth (linkOf s l).clean d 0)
    (hout : bit (wantedMap s (portOfLink s l)) (laneIndex s l d) = false) :
    ∃ t, exec (.laneRejoin l d) s = .next t ∧ (axPortOf t (portOfLink s l)).want
      = some (wantedMap s (portOfLink s l) ||| 2 ^ laneIndex s l d) := by
  refine ⟨_, if_pos ⟨hup, hen, hin, hlock, hclean, hout⟩, ?_⟩
  unfold requestMap
  rw [if_neg (or_two_pow_ne _ _)]
  dsimp only
  have hport (u : State) (x : Out) (p : Nat) : axPortOf (emit u x) p = axPortOf u p := rfl
  rw [hport, axPortOf_setAxPort _ (by rw [hlen]; exact portOfLink_lt s l)]

theorem clockLoss_off (l : Fin 16) (s : State) (hclock : flag s Obj.AXL_LINK_STATUS.CLOCK_OK l = true)
    (hlow : 2 ≤ linkState s l) (hhigh : linkState s l ≤ 7) :
    ∃ t, exec (.clockLoss l) s = .next t ∧ linkState t l = 0 ∧ rd t Obj.AXL_LINK_STATUS.CLOCK_OK l = 0 := by
  refine ⟨clockLoss s l, rfl, ?_⟩
  unfold clockLoss
  rw [if_pos (by rw [hclock, decide_eq_true hlow, decide_eq_true hhigh]; rfl)]
  dsimp only
  generalize hu : wr (wr (setLinkState s l 0) Obj.AXL_LINK_STATUS.CLOCK_OK l 0) Obj.AXL_LINK_STATUS.LOCKED l 0 = u
  have hoff : linkState u l = 0 ∧ rd u Obj.AXL_LINK_STATUS.CLOCK_OK l = 0 := by
    rw [← hu, rd_wr_apart _ _ _ _ (by decide), rd_wr_same]
    exact ⟨((rd_wr_apart _ _ _ _ (by decide)).trans (rd_wr_apart _ _ _ _ (by decide))).trans
        (linkState_setLinkState s l 0),
      rfl⟩
  generalize hv : raiseAxrel (setLink u l _) 0x0D02 l l 0 = v
  have hraised : LinksDown u v := by
    rw [← hv]
    exact (LinksDown.of_touches (touches_setLink (.refl [.axl] u) _ _ (by decide))).trans
      (.of_touches (raiseAxrel_touches _ _ _ _ _))
  have hend : ∃ t, t = (if portUp s (portOfLink s l) ∧ wantedMap s (portOfLink s l) &&& laneBits s l ≠ 0 then
      peerLanes (requestMap v (portOfLink s l) (wantedMap s (portOfLink s l) &&& (255 ^^^ laneBits s l)))
          (portOfLink s l)
      else v) ∧ LinksDown u t := by
    refine ⟨_, rfl, ?_⟩
    split
    · exact (hraised.trans (linksDown_requestMap v _ _)).trans (linksDown_peerLanes _ _)
    · exact hraised
  obtain ⟨t, ht, hdown⟩ := hend
  rw [← ht]
  obtain ⟨hstate, -, hclk, -⟩ := hdown l
  refine ⟨?_, ?_⟩
  · obtain h | h := hstate
    · exact h
    · exact h.trans hoff.1
  · obtain h | h := hclk
    · exact h
    · exact h.trans hoff.2

/-- Settles O41: each event of a lane, and each message of a lane map, by its row. -/
theorem lanesComplete : Obligations.LanesComplete :=
  ⟨fun l d s hlow hhigh => ⟨laneLockLoss_unlocks l d s hlow hhigh, am_locks l d s hlow hhigh,
      fun h => ⟨_, if_pos ⟨hlow, hhigh, h⟩, linkOf_counter AxLink.clean rfl _ _ _ _ (fun _ => rfl) d.isLt⟩⟩,
    fun l mapId map s hup hmap => ⟨mapreq_applies l mapId map s hup hmap, mapreq_old l mapId map s,
      map_applies l mapId map s hup hmap⟩,
    mapreqResend_repeats, laneRejoin_asks, clockLoss_off⟩

end Sys2Proof
end

section
/-! PROOF. Frames, acknowledgement, credit, low power and test of Axrel (O42). -/

namespace Sys2Proof

-- one proof at a time, which bounds the memory of the compile
set_option Elab.async false

open Sys2Proof.Machine

/-! ### What sending and receiving leave of a port -/

/-- What `val` says about port p stays. -/
def PortKept {α : Type} (val : AxPort → α) (p : Nat) (s t : State) : Prop := val (axPortOf t p) = val (axPortOf s p)

theorem PortKept.trans {α : Type} {val : AxPort → α} {p : Nat} {s t u : State} (h : PortKept val p s t)
    (k : PortKept val p t u) : PortKept val p s u := Eq.trans k h

theorem portKept_of_axl {α : Type} (val : AxPort → α) (p : Nat) {s t : State} (h : t.axl.ports = s.axl.ports) :
    PortKept val p s t := by
  rw [PortKept, axPortOf, axPortOf, h]

/-- A port reads as changed, or it is none of the ports. -/
theorem axPortOf_setAxPort_or (s : State) (p : Nat) (g : AxPort → AxPort) :
    axPortOf (setAxPort s p g) p = g (axPortOf s p) ∨ axPortOf (setAxPort s p g) p = axPortOf s p := by
  show nth (upd s.axl.ports p g) p AxPort.atBoot = g (nth s.axl.ports p AxPort.atBoot)
    ∨ nth (upd s.axl.ports p g) p AxPort.atBoot = nth s.axl.ports p AxPort.atBoot
  rw [nth_upd]
  split
  · exact .inl rfl
  · exact .inr rfl

theorem portKept_setAxPort {α : Type} (val : AxPort → α) (p : Nat) (s : State) (g : AxPort → AxPort)
    (h : ∀ x, val (g x) = val x) : PortKept val p s (setAxPort s p g) := by
  obtain hk | hk := axPortOf_setAxPort_or s p g
  · exact (congrArg val hk).trans (h _)
  · exact congrArg val hk

/-- A view of a port that sending does not change. -/
def SendKeeps {α : Type} (val : AxPort → α) : Prop :=
  ∀ (x : AxPort) (txSeq : Nat) (unacked ready : List AxFrame) (turn : Nat) (credit : List Nat) (lastBusy : Nat),
    val { x with txSeq := txSeq, unacked := unacked, ready := ready, turn := turn, credit := credit, lastBusy :=
        lastBusy }
      = val x

theorem portKept_pumpFrames {α : Type} {val : AxPort → α} (h : SendKeeps val) (n : Nat) (s : State) (p : Nat) :
    PortKept val p s (pumpFrames n s p) := by
  induction n generalizing s with
  | zero => rfl
  | succ n ih =>
    unfold pumpFrames
    dsimp only
    split
    · rfl
    · split
      · rfl
      · next f _ =>
        refine PortKept.trans ?_ (ih _)
        refine (portKept_setAxPort val p s _ ?_).trans (portKept_of_axl _ _ rfl)
        exact fun x => h x _ _ _ _ _ _

theorem portKept_pumpPeer {α : Type} {val : AxPort → α} (h : SendKeeps val) (n : Nat) (s : State) (p : Nat) :
    PortKept val p s (pumpPeer n s p) := by
  induction n generalizing s with
  | zero => rfl
  | succ n ih =>
    unfold pumpPeer
    split
    · split
      · dsimp only
        split
        · rfl
        · refine PortKept.trans ?_ (ih _)
          refine PortKept.trans ?_ (portKept_pumpFrames h _ _ _)
          refine PortKept.trans (portKept_of_axl val p (t := { s with peer := _ }) rfl)
              (portKept_setAxPort val p _ _ ?_)
          exact fun x => h x x.txSeq x.unacked _ x.turn x.credit x.lastBusy
      · rfl
    · rfl

theorem portKept_pump {α : Type} {val : AxPort → α} (h : SendKeeps val) (s : State) (p : Nat) :
    PortKept val p s (pump s p) :=
  (portKept_pumpFrames h _ _ _).trans (portKept_pumpPeer h _ _ _)

/-- A port that sends is busy now. -/
def BusyNow (p : Nat) (s : State) : Prop := (axPortOf s p).lastBusy = s.time.rc64

theorem busyNow_pumpFrames (n : Nat) (s : State) (p : Nat) (h : BusyNow p s) : BusyNow p (pumpFrames n s p) := by
  induction n generalizing s with
  | zero => exact h
  | succ n ih =>
    unfold pumpFrames
    dsimp only
    split
    · exact h
    · split
      · exact h
      · next f _ =>
        refine ih _ ?_
        obtain hk | hk := axPortOf_setAxPort_or s p fun x =>
          { x with
            txSeq := (x.txSeq + 1) % 4096, unacked := x.unacked ++ [{ f with seq := (axPortOf s p).txSeq }],
            ready := x.ready.erase f, turn := if f.vc = 0 then x.turn else f.vc,
            credit := upd x.credit f.vc (fun c => c - unitsOf f.bytes.length), lastBusy := s.time.rc64 }
        · exact congrArg AxPort.lastBusy hk
        · exact (congrArg AxPort.lastBusy hk).trans h

theorem busyNow_setAxPort {p : Nat} {s : State} (g : AxPort → AxPort) (hg : ∀ x, (g x).lastBusy = x.lastBusy)
    (h : BusyNow p s) : BusyNow p (setAxPort s p g) :=
  (show (axPortOf (setAxPort s p g) p).lastBusy = _ from portKept_setAxPort AxPort.lastBusy p s g hg).trans h

theorem busyNow_pumpPeer (n : Nat) (s : State) (p : Nat) (h : BusyNow p s) : BusyNow p (pumpPeer n s p) := by
  induction n generalizing s with
  | zero => exact h
  | succ n ih =>
    unfold pumpPeer
    split
    · split
      · dsimp only
        split
        · exact h
        · refine ih _ (busyNow_pumpFrames _ _ _ ?_)
          exact busyNow_setAxPort _ (fun _ => rfl) (show BusyNow p { s with peer := _ } from h)
      · exact h
    · exact h

theorem busyNow_pump (s : State) (p : Nat) (h : BusyNow p s) : BusyNow p (pump s p) :=
  busyNow_pumpPeer _ _ _ (busyNow_pumpFrames _ _ _ h)

/-- Nothing to send, nothing sent. -/
theorem pump_idle (s : State) (p : Nat) (hready : (axPortOf s p).ready = []) (hsends : s.peer.sends = []) :
    pump s p = s := by
  have hframe : nextFrame (axPortOf s p) = none := by
    unfold nextFrame
    rw [hready]
    simp
  have hframes : pumpFrames 128 s p = s := by
    rw [pumpFrames, hframe]
    dsimp only
    split <;> rfl
  have hsend : nextSend s (p / 4) = none := by
    unfold nextSend
    rw [hsends]
    simp
  rw [pump, hframes, pumpPeer, hsend]
  dsimp only
  split <;> rfl

/-- A view of a port that a message taken in does not change. -/
def TakeKeeps {α : Type} (val : AxPort → α) : Prop :=
  ∀ (x : AxPort) (part : List Bytes) (buffer queue10 : List AxMessage) (returned : List Nat),
    val { x with part := part, buffer := buffer, queue10 := queue10, returned := returned } = val x

theorem portKept_moveIn {α : Type} {val : AxPort → α} (h : TakeKeeps val) (n : Nat) (s : State) (p : Nat) :
    PortKept val p s (moveIn n s p) := by
  induction n generalizing s with
  | zero => rfl
  | succ n ih =>
    unfold moveIn
    dsimp only
    split
    · rfl
    · split
      · refine PortKept.trans (portKept_setAxPort val p s _ ?_) (ih _)
        exact fun x => h x x.part _ _ _
      · rfl

theorem portKept_acceptPayload {α : Type} {val : AxPort → α} (h : TakeKeeps val) (s : State) (p vc ty : Nat)
    (first last : Bool) (b : Bytes) : PortKept val p s (acceptPayload s p vc ty first last b) := by
  unfold acceptPayload
  dsimp only
  split
  · exact (portKept_setAxPort val p s _ fun x => h x _ _ x.queue10 x.returned).trans (portKept_moveIn h _ _ _)
  · exact portKept_setAxPort val p s _ fun x => h x _ x.buffer x.queue10 x.returned

theorem sendNak_touches (s : State) (p : Nat) : Touches [.axl, .out] s (sendNak s p) :=
    touches_sendNak (.refl _ _) _ (by decide)

theorem sendAck_touches (s : State) (p : Nat) : Touches [.axl, .out] s (sendAck s p) :=
    touches_sendAck (.refl _ _) _ (by decide)

theorem sendAck_accepted (s : State) (p : Nat) : (axPortOf (sendAck s p) p).accepted = 0 := by
  show (nth (upd s.axl.ports p fun x => { x with accepted := 0 }) p AxPort.atBoot).accepted = 0
  rw [nth_upd]
  split
  · rfl
  · next h => rw [nth_beyond _ _ fun k => h ⟨rfl, k⟩]; rfl

theorem portKept_sendAck {α : Type} (val : AxPort → α) (h : ∀ x : AxPort, val { x with accepted := 0 } = val x)
    (s : State)
    (p : Nat) : PortKept val p s (sendAck s p) := portKept_setAxPort val p s _ h

/-! ### Frames (R307 to R311) -/

section
variable {s : State} {l : Fin 16} {f : FrameIn} {p : Nat} (hp : portOfLink s l = p) (hup : portUp s p = true)
  (hloop : portLooped s p = false)
include hp hup hloop

theorem axrelFrame_error (h : f.error = true) :
    ∃ t, exec (.axrelFrame l f) s = .next t
      ∧ rd t Obj.AXL_PORT_STATUS.CRC_ERRORS p
        = (rd s Obj.AXL_PORT_STATUS.CRC_ERRORS p + 1) % 2 ^ Obj.AXL_PORT_STATUS.CRC_ERRORS.width := by
  show ∃ t, execAxrelFrame l f s = .next t ∧ _
  unfold execAxrelFrame
  rw [hp]
  dsimp only
  rw [if_pos (by rw [hup, hloop]; rfl), if_pos (by rw [h]; rfl)]
  exact ⟨_, rfl, by rw [(sendNak_touches _ _).rd _ _ (by decide) (by decide), rd_bump_same]⟩

theorem axrelFrame_next (herr : f.error = false)
    (hlen : f.payload.length = 8 * (if leAt f.head 3 1 = 0 then 256 else leAt f.head 3 1))
    (hcrc : f.crc = crc32c (f.head ++ f.payload)) (hseq : leAt f.head 1 2 % 4096 = (axPortOf s p).expect)
    (hexp : (axPortOf s p).expect < 4096) (hmarked : (axPortOf s p).marked = []) (hwin : (axPortOf s p).window < 4096)
    (hin : p < s.axl.ports.length) :
    ∃ t, exec (.axrelFrame l f) s = .next t ∧ (axPortOf t p).expect = ((axPortOf s p).expect + 1) % 4096 := by
  show ∃ t, execAxrelFrame l f s = .next t ∧ _
  unfold execAxrelFrame
  rw [hp]
  dsimp only
  rw [if_pos (by rw [hup, hloop]; rfl), if_neg (by simp [herr, hlen, hcrc]), hseq, hmarked,
    if_neg (by simp; omega), if_pos (by omega)]
  generalize hu : setAxPort s p _ = u
  have hmoved : (axPortOf u p).expect = ((axPortOf s p).expect + 1) % 4096 := by
    rw [← hu, axPortOf_setAxPort _ hin]
    rfl
  have htaken := portKept_acceptPayload (val := AxPort.expect) (fun _ _ _ _ _ => rfl) u p (leAt f.head 0 1 % 4)
    (leAt f.head 0 1 / 16) (bit (leAt f.head 0 1) 2) (bit (leAt f.head 0 1) 3)
    (f.payload.take (8 * (if leAt f.head 3 1 = 0 then 256 else leAt f.head 3 1) - leAt f.head 4 1 % 8))
  refine ⟨_, rfl, ?_⟩
  split
  · exact Eq.trans (htaken.trans (portKept_sendAck AxPort.expect (fun _ => rfl) _ _)) hmoved
  · exact Eq.trans htaken hmoved

theorem axrelFrame_again (herr : f.error = false)
    (hlen : f.payload.length = 8 * (if leAt f.head 3 1 = 0 then 256 else leAt f.head 3 1))
    (hcrc : f.crc = crc32c (f.head ++ f.payload))
    (hold : (axPortOf s p).marked.contains (leAt f.head 1 2 % 4096) = true
      ∨ 4096 - (axPortOf s p).window ≤ (leAt f.head 1 2 % 4096 + 4096 - (axPortOf s p).expect) % 4096) :
    ∃ t, exec (.axrelFrame l f) s = .next t ∧ (axPortOf t p).accepted = 0
      ∧ rd t Obj.AXL_PORT_STATUS.DUPLICATES p
        = (rd s Obj.AXL_PORT_STATUS.DUPLICATES p + 1) % 2 ^ Obj.AXL_PORT_STATUS.DUPLICATES.width := by
  show ∃ t, execAxrelFrame l f s = .next t ∧ _
  unfold execAxrelFrame
  rw [hp]
  dsimp only
  rw [if_pos (by rw [hup, hloop]; rfl), if_neg (by simp [herr, hlen, hcrc]), if_pos hold]
  exact ⟨_, rfl, sendAck_accepted _ _, by rw [(sendAck_touches _ _).rd _ _ (by decide) (by decide), rd_bump_same]⟩

end

/-- A port that is not as at boot is one of the ports. -/
theorem axPort_in {s : State} {p : Nat} (h : axPortOf s p ≠ AxPort.atBoot) : p < s.axl.ports.length := by
  by_contra hout
  exact h (nth_beyond _ _ hout)

/-! ### Acknowledgement and retransmission (R311 to R313) -/

theorem ack_frees (l : Fin 16) (seq : Nat) (s : State) (hup : portUp s (portOfLink s l) = true)
    (hany : (axPortOf s (portOfLink s l)).unacked.any (fun f => f.seq == seq % 4096) = true) :
    ∃ t, exec (.ack l seq) s = .next t ∧ (axPortOf t (portOfLink s l)).lastBusy = s.time.rc64
      ∧ ((axPortOf s (portOfLink s l)).ready = [] → s.peer.sends = [] → (axPortOf t (portOfLink s l)).unacked
          = ((axPortOf s (portOfLink s l)).unacked.dropWhile (fun f => f.seq != seq % 4096)).drop 1) := by
  refine ⟨_, if_pos (by rw [hup, hany]; rfl), ?_⟩
  generalize portOfLink s l = p at *
  have hin : p < s.axl.ports.length := axPort_in fun hboot => by
    rw [hboot] at hany
    cases hany
  generalize hu : setAxPort s p _ = u
  have hport : axPortOf u p = { axPortOf s p with
      unacked := ((axPortOf s p).unacked.dropWhile (fun f => f.seq != seq % 4096)).drop 1, lastBusy :=
          s.time.rc64 } := by
    rw [← hu, axPortOf_setAxPort _ hin]
  have htime : u.time = s.time := by rw [← hu, setAxPort_time]
  refine ⟨?_, fun hready hsends => ?_⟩
  · have hbusy := busyNow_pump u p (by rw [BusyNow, hport, htime])
    rw [BusyNow, (pump_touches u p).time_eq, htime] at hbusy
    exact hbusy
  · rw [pump_idle u p (by rw [hport]; exact hready) (by rw [← hu, setAxPort_peer]; exact hsends), hport]

theorem retransmit_counts (s : State) (p : Nat) (h : ∀ f ∈ (axPortOf s p).unacked, f.resent < 32) :
    rd (retransmit s p) Obj.AXL_PORT_STATUS.RETRANSMITTED p
      = (rd s Obj.AXL_PORT_STATUS.RETRANSMITTED p + (axPortOf s p).unacked.length)
        % 2 ^ Obj.AXL_PORT_STATUS.RETRANSMITTED.width := by
  have hfew : ¬ (axPortOf s p).unacked.any (fun f => decide (32 ≤ f.resent)) = true := by
    intro k
    obtain ⟨f, hf, h32⟩ := List.any_eq_true.1 k
    exact absurd (h f hf) (Nat.not_lt.2 (of_decide_eq_true h32))
  unfold retransmit
  dsimp only
  rw [if_neg hfew, foldl_same _ (fun t => rd t Obj.AXL_PORT_STATUS.RETRANSMITTED p) _ _ fun t f _ => rd_emit _ _ _ _]
  exact rd_bump_same _ _ _ _

/-- The end of a port leaves it down. -/
theorem portDown_down (s : State) (p : Nat) : portUp (portDown s p) p = false := by
  have hflag {t : State} (h : rd t Obj.AXL_PORT_STATUS.UP p = 0) : portUp t p = false := by
    unfold portUp flag
    rw [h]
    rfl
  unfold portDown
  by_cases hup : portUp s p = true
  · rw [if_pos hup]
    dsimp only
    generalize hu : raiseAxrel (linksTo (portEnd s p) p 0) 0x0D03 p p 0 = u
    have hdown : rd u Obj.AXL_PORT_STATUS.UP p = 0 := by
      rw [← hu, (raiseAxrel_touches _ _ _ _ _).rd _ _ (by decide) (by decide),
        (touches_linksTo (.refl [.axl, .obj 0x0D04] _) _ _ (by decide) : Touches [.axl, .obj 0x0D04] _ _).rd _ _
            (by decide) (by decide)]
      unfold portEnd
      dsimp only
      rw [rd_setAxPort, rd_wr_apart _ _ _ _ (by decide), rd_wr_apart _ _ _ _ (by decide), rd_wr_same]
      rfl
    split
    · refine hflag ?_
      rw [(touches_peerLanes (.refl [.flt, .notes, .obj 0x0C06] _) _ (by decide) :
        Touches [.flt, .notes, .obj 0x0C06] _ _).rd _ _ (by decide) (by decide)]
      exact ((touches_wideDownNow (.refl [.peer] u) _ (by decide) : Touches [.peer] u _).rd _ _ (by decide)
          (by decide)).trans hdown
    · exact hflag hdown
  · rw [if_neg hup]
    exact Bool.eq_false_iff.2 hup

/-! ### Credit, low power, test payloads and patterns, the judgements of every second (R310, R319, R321 to R323) -/

theorem credit_seen (l : Fin 16) (vc : Fin 4) (total : Nat) (s : State) (hlen : s.axl.ports.length = 16)
    (hup : portUp s (portOfLink s l) = true) (hseen : (axPortOf s (portOfLink s l)).creditSeen.length = 4) :
    ∃ t, exec (.credit l vc total) s = .next t ∧ nth (axPortOf t (portOfLink s l)).creditSeen vc 0 = total % 65536 := by
  refine ⟨_, if_pos hup, ?_⟩
  rw [show AxPort.creditSeen _ = _ from portKept_pump (val := AxPort.creditSeen) (fun _ _ _ _ _ _ _ => rfl) _ _,
    axPortOf_setAxPort _ (by rw [hlen]; exact portOfLink_lt s l)]
  exact nth_upd_same _ _ _ _ (by rw [hseen]; exact vc.isLt)

theorem ackCreditTimer_sends (l : Fin 16) (s : State) (hlen : s.axl.ports.length = 16)
    (hup : portUp s (portOfLink s l) = true) :
    ∃ t, exec (.ackCreditTimer l) s = .next t ∧ (axPortOf t (portOfLink s l)).accepted = 0
      ∧ (axPortOf t (portOfLink s l)).creditSent = (axPortOf s (portOfLink s l)).returned := by
  refine ⟨_, if_pos hup, ?_⟩
  have hin : portOfLink s l < s.axl.ports.length := by rw [hlen]; exact portOfLink_lt s l
  generalize portOfLink s l = p at *
  generalize hu : List.foldl _ (sendAck s p) (List.range 4) = u
  have hports : u.axl = (sendAck s p).axl := by
    rw [← hu]
    exact foldl_same _ State.axl _ _ fun t vc _ => emit_axl _ _
  have hlength : p < u.axl.ports.length := by
    rw [hports]
    exact (upd_length _ _ _).symm ▸ hin
  have hport : axPortOf u p = { axPortOf s p with accepted := 0 } := by
    rw [axPortOf, hports]
    exact axPortOf_setAxPort _ hin
  rw [axPortOf_setAxPort _ hlength, hport]
  exact ⟨rfl, rfl⟩

theorem linksStep_axPortOf (g : State → Nat → State) (ks : List Nat) (s : State) (p : Nat)
    (h : ∀ t k, (g t k).axl.ports = t.axl.ports) : axPortOf (ks.foldl g s) p = axPortOf s p := by
  rw [axPortOf, axPortOf, foldl_same g (fun t => t.axl.ports) ks s fun t k _ => h t k]

theorem lpiEntry_enters (l : Fin 16) (s : State) (hlen : s.axl.ports.length = 16)
    (hup : portUp s (portOfLink s l) = true)
    (hawake : (axPortOf s (portOfLink s l)).lpi = false) (hallowed : lpiAllowed s (portOfLink s l) = true)
    (hready : (axPortOf s (portOfLink s l)).ready = []) (hunacked : (axPortOf s (portOfLink s l)).unacked = [])
    (haccepted : (axPortOf s (portOfLink s l)).accepted = 0)
    (hcredit : (axPortOf s (portOfLink s l)).creditSent = (axPortOf s (portOfLink s l)).returned)
    (hidle : (axPortOf s (portOfLink s l)).lastBusy + 1600 * (linkOf s (portOfLink s l)).lpiUs ≤ s.time.rc64) :
    ∃ t, exec (.lpiEntry l) s = .next t ∧ (axPortOf t (portOfLink s l)).lpi = true := by
  refine ⟨_, if_pos (by simp [hup, hawake, hallowed, hready, hunacked, haccepted, hcredit, hidle]), ?_⟩
  rw [linksStep_axPortOf _ _ _ _ fun t k => by split <;> rfl,
    axPortOf_setAxPort _ (by rw [emit_axl, hlen]; exact portOfLink_lt s l)]

theorem wake_wakes (l : Fin 16) (s : State) (h : (axPortOf s (portOfLink s l)).lpi = true) :
    ∃ t, exec (.wake l) s = .next t ∧ (axPortOf t (portOfLink s l)).lpi = false := by
  refine ⟨_, if_pos h, ?_⟩
  rw [show AxPort.lpi _ = _ from portKept_pump (val := AxPort.lpi) (fun _ _ _ _ _ _ _ => rfl) _ _,
    linksStep_axPortOf _ _ _ _ fun t k => by split <;> rfl]
  rw [axPortOf_setAxPort]
  rw [emit_axl]
  exact axPort_in fun hboot => by
    rw [hboot] at h
    cases h

theorem moveIn_empty (n : Nat) (s : State) (p : Nat) (h : (axPortOf s p).buffer = []) : moveIn n s p = s := by
  cases n with
  | zero => rfl
  | succ n =>
    unfold moveIn
    dsimp only
    rw [h]

theorem testPayload_taken (l : Fin 16) (s : State) (m : AxMessage)
    (h : (axPortOf s (portOfLink s l)).queue10 = [m]) (hty : m.ty = 9)
        (hbuf : (axPortOf s (portOfLink s l)).buffer = []) :
    ∃ t, exec (.testPayload l) s = .next t ∧ (axPortOf t (portOfLink s l)).queue10 = [] := by
  refine ⟨takeMessage s l 9, rfl, ?_⟩
  have hin : portOfLink s l < s.axl.ports.length := axPort_in fun hboot => by
    rw [hboot] at h
    cases h
  have htake : takeFirst (fun x : AxMessage => x.ty == 9) [m] = some (m, []) := by
    rw [takeFirst, hty]
    rfl
  unfold takeMessage
  dsimp only
  rw [h, htake]
  dsimp only
  generalize portOfLink s l = p at *
  have hport : axPortOf (setAxPort s p fun x => { x with queue10 := [] }) p = { axPortOf s p with queue10 := [] } :=
    axPortOf_setAxPort _ hin
  rw [moveIn_empty _ _ _ (by rw [hport]; exact hbuf), hport]

theorem prbsCheckerLock_locks (l : Fin 16) (d : Fin 2) (s : State) (hmode : modeOf s = .test)
    (hprbs : flag s Obj.AXL_TEST.PRBS l = true) (h : flag s Obj.AXL_PRBS.LOCK (2 * l.val + d.val) = false) :
    ∃ t, exec (.prbsCheckerLock l d) s = .next t ∧ rd t Obj.AXL_PRBS.LOCK (2 * l.val + d.val) = 1
      ∧ rd t Obj.AXL_PRBS.BITS (2 * l.val + d.val) = 64 := by
  refine ⟨_, if_pos ⟨hmode, hprbs, h⟩, ?_, ?_⟩
  · rw [rd_setLink, rd_wr_apart _ _ _ _ (by decide), rd_wr_same]
    rfl
  · rw [rd_setLink, rd_wr_same]
    rfl

theorem errInject_drives (l : Fin 16) (s : State) (hmode : modeOf s = .test)
    (hprbs : flag s Obj.AXL_TEST.PRBS l = true) :
    ∃ t, exec (.errInject l) s = .next t ∧ t.out = .drive 2 l 1 :: s.out := by
  refine ⟨errInject s l, rfl, ?_⟩
  unfold errInject
  rw [if_pos ⟨hmode, hprbs⟩, foldl_same _ State.out _ _ fun t d _ => ?_]
  · rfl
  · split
    · exact wr_out _ _ _ _
    · rfl

theorem retryHigh_baseline (l : Fin 16) (s : State) (hlen : s.axl.ports.length = 16) :
    ∃ t, exec (.retryHigh l) s = .next t
      ∧ (axPortOf t (portOfLink s l)).lastFrames = rd s Obj.AXL_PORT_STATUS.FRAMES (portOfLink s l) := by
  refine ⟨_, rfl, ?_⟩
  have hin : portOfLink s l < s.axl.ports.length := by rw [hlen]; exact portOfLink_lt s l
  generalize portOfLink s l = p at *
  generalize hu : setAxPort s p _ = u
  have hport : (axPortOf u p).lastFrames = rd s Obj.AXL_PORT_STATUS.FRAMES p := by rw [← hu, axPortOf_setAxPort _ hin]
  have hsame {t : State} (h : t.axl = u.axl) : (axPortOf t p).lastFrames = rd s Obj.AXL_PORT_STATUS.FRAMES p := by
    rw [← hport, axPortOf, axPortOf, h]
  have hclear : Touches [.flt, .notes, .obj 0x0C06] u (clearFault u 0x0D05 p) :=
      touches_clearFault (.refl _ _) _ _ (by decide)
  have hite {c : Prop} [Decidable c] {x y : State} (hx : x.axl = u.axl) (hy : y.axl = u.axl) :
      (if c then x else y).axl = u.axl := by
    split
    · exact hx
    · exact hy
  exact hsame (hite (raiseAxrel_touches _ _ _ _ _).axl_eq (hite hclear.axl_eq rfl))

theorem laneErrors_cleared (l : Fin 16) (d : Fin 2) (s : State) :
    ∃ t, exec (.laneErrors l d) s = .next t ∧ nth (linkOf t l).bip d 0 = 0 := by
  have hcleared : nth (linkOf (setLink s l fun x => { x with bip := upd x.bip d (fun _ => 0) }) l).bip d 0 = 0 :=
    linkOf_counter AxLink.bip rfl s l d _ (fun _ => rfl) d.isLt
  refine ⟨_, rfl, ?_⟩
  split
  · rw [linkOf, (raiseAxrel_touches _ _ _ _ _).axl_eq]
    exact hcleared
  · exact hcleared

/-- Settles O42: each frame, each control block and each judgement of a port by its row. -/
theorem axrelFramesComplete : Obligations.AxrelFramesComplete := by
  refine ⟨fun l f s hlen hup hloop => ⟨axrelFrame_error rfl hup hloop, fun herr hl hcrc hseq hexp hmarked hwin =>
      axrelFrame_next rfl hup hloop herr hl hcrc hseq hexp hmarked hwin (by rw [hlen]; exact portOfLink_lt s l),
      axrelFrame_again rfl hup hloop⟩,
    ack_frees, fun l seq s hup hne hfew => ⟨fun hseq => ⟨_, if_pos ?_, retransmit_counts s _ hfew⟩, ⟨_, if_pos ?_,
      retransmit_counts s _ hfew⟩⟩, fun l s hup hmany => ?_,
    fun l vc total s hlen hup hseen => ⟨credit_seen l vc total s hlen hup hseen, ackCreditTimer_sends l s hlen hup⟩,
    lpiEntry_enters, fun l s h => ⟨⟨_, if_pos h, rfl⟩, wake_wakes l s h⟩, testPayload_taken,
    fun l d s hmode hprbs => ⟨prbsCheckerLock_locks l d s hmode hprbs, errInject_drives l s hmode hprbs⟩,
    retryHigh_baseline, laneErrors_cleared⟩
  · simp [hup, hne, hseq]
  · simp [hup, hne]
  · obtain ⟨f, hf, h32⟩ := hmany
    have hne : (axPortOf s (portOfLink s l)).unacked ≠ [] := List.ne_nil_of_mem hf
    refine ⟨retransmit s (portOfLink s l), if_pos (by simp [hup, hne]), ?_⟩
    rw [retransmit, if_pos (List.any_eq_true.2 ⟨f, hf, decide_eq_true h32⟩)]
    exact portDown_down s _

end Sys2Proof
end

section
/-! PROOF. Images over Axrel and the reads of flash at boot (O43). -/

namespace Sys2Proof

-- one proof at a time, which bounds the memory of the compile
set_option Elab.async false

open Sys2Proof.Machine

/-! ### Images over Axrel (R367, R394) -/

theorem imageMessage_touches (s : State) (l op kind total offset count : Nat) (data : Bytes) :
    Touches [.axl, .out, .peer, .obj 0x0D05] s (imageMessage s l op kind total offset count data) :=
  touches_imageMessage (.refl _ _) _ _ _ _ _ _ _ (by decide)

theorem askChunk_offers (s : State) : (askChunk s).ctl.offers = s.ctl.offers := by
  unfold askChunk
  split
  · rfl
  · dsimp only
    split
    · rfl
    · rw [(imageMessage_touches _ _ _ _ _ _ _ _).ctl_eq, setCtl_ctl]

theorem takeOffer_offers (s : State) : (takeOffer s).ctl.offers = s.ctl.offers := by
  unfold takeOffer
  split
  · rfl
  · split
    · split
      · rw [askChunk_offers, setCtl_ctl]
      · rfl
    · rfl

/-- What both branches show, the choice shows. -/
theorem view_ite {α : Type} (val : State → α) {c : Prop} [Decidable c] {x y : State} {v : α} (hx : val x = v)
    (hy : val y = v) : val (if c then x else y) = v := by
  split
  · exact hx
  · exact hy

theorem imageOffer_kept (l : Fin 16) (kind : Fin 4) (total : Fin 16777217) (s : State) (hkind : kind.val ≠ 0)
    (htotal : total.val ≠ 0) :
    ∃ t, exec (.imageOffer l kind total) s = .next t ∧ (l.val, kind.val, total.val) ∈ t.ctl.offers := by
  refine ⟨_, if_neg (by simp [hkind, htotal]), ?_⟩
  rw [takeOffer_offers]
  generalize hu : setCtl (takeMessage s l 8) _ = u
  have hkept : (l.val, kind.val, total.val) ∈ u.ctl.offers := by
    rw [← hu, setCtl_ctl]
    exact List.mem_cons_self
  rw [view_ite (fun t => t.ctl.offers) (congrArg Ctl.offers (setCtl_ctl u _)) rfl]
  exact hkept

/-- What has been received stays when the next chunk is asked for. -/
theorem askChunk_got (s : State) (x : ImageRx) (h : s.ctl.rx = some x) :
    ∃ y, (askChunk s).ctl.rx = some y ∧ y.got = x.got := by
  unfold askChunk
  rw [h]
  dsimp only
  split
  · exact ⟨x, h, rfl⟩
  · rw [(imageMessage_touches _ _ _ _ _ _ _ _).ctl_eq, setCtl_ctl]
    exact ⟨_, rfl, rfl⟩

theorem imageData_stored (l : Fin 16) (offset : Nat) (data : List Nat) (s : State) (x : ImageRx) (h : s.ctl.rx = some x)
    (hlink : x.link = l.val) (hfrom : offset ≤ x.got.length)
    (hto : offset + ((data.take 8192).map (· % 256)).length ≤ x.total) :
    ∃ t y, exec (.imageData l offset data) s = .next t ∧ t.ctl.rx = some y
      ∧ y.got = x.got.take offset ++ (data.take 8192).map (· % 256)
        ++ x.got.drop (offset + ((data.take 8192).map (· % 256)).length) := by
  show ∃ t y, execImageData l offset data s = .next t ∧ _
  unfold execImageData
  rw [h]
  dsimp only
  rw [if_pos ⟨hlink, hfrom, hto⟩]
  generalize hu : setCtl (takeMessage s l 8) _ = u
  have hrx : ∃ y, u.ctl.rx = some y ∧ y.got = x.got.take offset ++ (data.take 8192).map (· % 256)
      ++ x.got.drop (offset + ((data.take 8192).map (· % 256)).length) := by
    rw [← hu, setCtl_ctl]
    exact ⟨_, rfl, rfl⟩
  obtain ⟨y, hy, hgot⟩ := hrx
  split
  · obtain ⟨z, hz, hzgot⟩ := askChunk_got u y hy
    exact ⟨_, z, rfl, hz, hzgot.trans hgot⟩
  · exact ⟨_, y, rfl, hy, hgot⟩

theorem imageCheck_congr {s t : State} (hroll : t.ctl.rollback = s.ctl.rollback)
    (hratio : rd t Obj.CMP_INFL.RATIO_MAX = rd s Obj.CMP_INFL.RATIO_MAX) (kind : Nat) (b : Bytes) :
    imageCheck t kind b = imageCheck s kind b := by
  unfold imageCheck inflatedSection
  rw [hroll, hratio]

theorem receptionEnds_rejects (s : State) (x : ImageRx) (got : Bytes) (hload : loadingMail s = none) :
    (s.ctl.waitsForImage = false → (receptionEnds s x got).ctl.rx = none)
    ∧ (s.ctl.waitsForImage = true → imageCheck s x.kind got ≠ 0 → (receptionEnds s x got).ctl.rx = none
      ∧ (s.flt.active.length < 1024 → faultActive (receptionEnds s x got) 0x1005 0 = true)) := by
  have hcheck : imageCheck (setCtl s fun c => { c with rx := none }) x.kind got = imageCheck s x.kind got :=
    imageCheck_congr rfl (rd_setCtl _ _ _ _) _ _
  unfold receptionEnds
  dsimp only
  rw [hload, hcheck]
  dsimp only
  refine ⟨fun hwait => ?_, fun hwait hbad => ?_⟩
  · rw [if_neg (by rw [hwait]; decide), setCtl_ctl]
  · rw [if_pos hwait, if_neg hbad, imageRejected]
    refine ⟨?_, fun hroom => raise_active _ _ _ _ _ hroom⟩
    rw [(raise_touches _ _ _ _ _).ctl_eq, setCtl_ctl]

theorem loadingMail_congr {s t : State} (h : t.ctl.mailboxes = s.ctl.mailboxes) : loadingMail t = loadingMail s := by
  unfold loadingMail mailOf
  rw [h]

theorem imageDone_ends (l : Fin 16) (s : State) (x : ImageRx) (h : s.ctl.rx = some x) (hlink : x.link = l.val)
    (hload : loadingMail s = none) :
    (s.ctl.waitsForImage = false → ∃ t, exec (.imageDone l) s = .next t ∧ t.ctl.rx = none)
    ∧ (s.ctl.waitsForImage = true → imageCheck s x.kind x.got ≠ 0 →
      ∃ t, exec (.imageDone l) s = .next t ∧ t.ctl.rx = none
        ∧ (s.flt.active.length < 1024 → faultActive t 0x1005 0 = true)) := by
  have htake := takeMessage_touches s l 8
  have hrun : exec (.imageDone l) s = .next (receptionEnds (takeMessage s l 8) x x.got) := by
    show execImageDone l s = _
    unfold execImageDone
    rw [h]
    exact if_pos hlink
  obtain ⟨hends, hrejects⟩ := receptionEnds_rejects (takeMessage s l 8) x x.got
    ((loadingMail_congr (by rw [htake.ctl_eq])).trans hload)
  rw [htake.ctl_eq] at hends hrejects
  rw [imageCheck_congr (by rw [htake.ctl_eq]) (htake.rd _ _ (by decide) (by decide)), htake.flt_eq] at hrejects
  exact ⟨fun hwait => ⟨_, hrun, hends hwait⟩, fun hwait hbad => ⟨_, hrun, hrejects hwait hbad⟩⟩

theorem imageAbort_forgets (l : Fin 16) (s : State) (h : ∀ x, s.ctl.rx = some x → x.link ≠ l) :
    ∃ t, exec (.imageAbort l) s = .next t ∧ ∀ o ∈ t.ctl.offers, o.1 ≠ l.val := by
  have hoffers : ∀ o ∈ (setCtl (takeMessage s l 8) fun c =>
      { c with offers := c.offers.filter (fun o => o.1 != l.val) }).ctl.offers, o.1 ≠ l.val := by
    rw [setCtl_ctl]
    intro o ho
    simpa using (List.mem_filter.1 ho).2
  show ∃ t, execImageAbort l s = .next t ∧ _
  unfold execImageAbort
  dsimp only
  split
  · next x hx => exact ⟨_, if_neg (h x hx), hoffers⟩
  · exact ⟨_, rfl, hoffers⟩

theorem imageChunkRetry_asks (s : State) (x : ImageRx) (h : s.ctl.rx = some x) (hasked : x.asked.isSome = true)
    (hmore : x.got.length < x.total) :
    ∃ t y, exec .imageChunkRetry s = .next t ∧ t.ctl.rx = some y ∧ y.asked = some x.got.length := by
  show ∃ t y, execImageChunkRetry s = .next t ∧ _
  unfold execImageChunkRetry
  rw [h]
  dsimp only
  rw [if_pos hasked]
  refine ⟨_, { x with asked := some x.got.length }, rfl, ?_, rfl⟩
  unfold askChunk
  rw [h]
  dsimp only
  rw [if_neg (Nat.not_le.2 hmore), (imageMessage_touches _ _ _ _ _ _ _ _).ctl_eq, setCtl_ctl]

/-! ### The reads of flash at boot (R361, R362) -/

theorem firmwareRead_runs (s : State) (x : Bytes × Nat) (rest : List (Bytes × Nat)) (h : firmwareTries s = x :: rest)
    (hgood : imageCheck s 1 x.1 = 0) : firmwareRead s = firmwareRuns s x.1 x.2 := by
  unfold firmwareRead
  rw [h]
  dsimp only
  rw [List.takeWhile_cons_of_neg (by simp [hgood])]
  rfl

/-- A section of a bundle, where it has one. -/
def withSection (g : State → Bytes → State) (o : Option Bytes) (s : State) : State :=
  match o with
  | some x => g s x
  | none => s

theorem withSection_ctl {g : State → Bytes → State} (hg : ∀ u x, (g u x).ctl = u.ctl) (o : Option Bytes) (s : State) :
    (withSection g o s).ctl = s.ctl := by
  cases o with
  | none => rfl
  | some x => exact hg s x

theorem applyBundle_ctl (s : State) (b : Bytes) : (applyBundle s b).ctl = s.ctl := by
  have hrepair (u : State) (x : Bytes) : (repairList u x).ctl = u.ctl :=
    (touches_repairList (.refl [.flt, .fst, .notes, .obj 0x0A04, .obj 0x0A05, .obj 0x0A06, .obj 0x0A07, .obj 0x0C06]
        u) _
      (by decide) : Touches [.flt, .fst, .notes, .obj 0x0A04, .obj 0x0A05, .obj 0x0A06, .obj 0x0A07, .obj 0x0C06] u
          _).ctl_eq
  have htables (u : State) (x : Bytes) : (bluebellTables u x).ctl = u.ctl :=
    (touches_bluebellTables (.refl [.bbl, .flt, .free, .notes, .obj 0x0206, .obj 0x0C06] u) _ (by decide) :
      Touches [.bbl, .flt, .free, .notes, .obj 0x0206, .obj 0x0C06] u _).ctl_eq
  have hsection (u : State) (x : Bytes) : (converterSection u x).ctl = u.ctl :=
    (touches_converterSection (.refl [.cnv, .free, .obj 0x0303] u) _ (by decide) :
      Touches [.cnv, .free, .obj 0x0303] u _).ctl_eq
  have hentry (u : State) (e : Option CfgEntry) : (objectEntry u e).ctl = u.ctl :=
    (touches_objectEntry (.refl [.afe, .aon, .axl, .cal, .chz, .cmp, .dah, .evt, .flt, .free, .hk, .live, .modes, .mov,
        .notes, .out, .pwr, .sun, .time, .trg, .regs] u) _ (by decide) :
      Touches [.afe, .aon, .axl, .cal, .chz, .cmp, .dah, .evt, .flt, .free, .hk, .live, .modes, .mov, .notes, .out,
          .pwr,
        .sun, .time, .trg, .regs] u _).ctl_eq
  have hinner : (withSection converterSection (sectionOf s b 5) (withSection bluebellTables (sectionOf s b 4)
      (withSection repairList (sectionOf s b 6) s))).ctl = s.ctl :=
    (withSection_ctl hsection _ _).trans ((withSection_ctl htables _ _).trans (withSection_ctl hrepair _ _))
  unfold applyBundle
  dsimp only
  split
  · rw [foldl_same _ State.ctl _ _ fun u e _ => hentry u e]
    exact hinner
  · exact hinner

theorem imageRejected_touches (s : State) (check : Nat) :
    Touches [.flt, .notes, .obj 0x0C06] s (imageRejected s check) :=
  touches_imageRejected (.refl _ _) _ (by decide)

theorem bundleRead_done (s : State) : (bundleRead s).ctl.bundleDone = true := by
  unfold bundleRead
  dsimp only
  generalize hu : List.foldl _ (setCtl s _) _ = u
  have hu : u.ctl.bundleDone = true := by
    rw [← hu, foldl_same _ State.ctl _ _ fun t x _ => (imageRejected_touches t _).ctl_eq, setCtl_ctl]
  split
  · split
    · rw [applyBundle_ctl, hu]
    · rw [(raise_touches _ _ _ _ _).ctl_eq, applyBundle_ctl, hu]
  · exact hu

/-- Settles O43: each message of an image transfer by its row, and the reads of flash as they find an image that
    passes. -/
theorem imageTransferComplete : Obligations.ImageTransferComplete := by
  refine ⟨imageOffer_kept, fun l offset count s x h hserve hoffset =>
      ?_, imageData_stored, imageDone_ends, imageAbort_forgets,
    imageChunkRetry_asks, fun s x rest hreads hronec htries => ?_, fun s hreads hronec hbundle => ?_⟩
  · refine ⟨_, ?_, rfl⟩
    show execImageRequest l offset count s = _
    unfold execImageRequest
    rw [h]
    exact if_pos ⟨hserve, hoffset⟩
  · refine ⟨firmwareRead s, ?_, fun hgood => ?_⟩
    · show execFlashImageRead false s = _
      rw [execFlashImageRead, if_neg (by rw [hreads]; decide), if_neg (by decide), if_neg (by rw [hronec]; decide)]
    · rw [firmwareRead_runs s x rest htries hgood, firmwareRuns, wr_ctl, setCtl_ctl, rd_wr_same]
      exact ⟨rfl, rfl, rfl⟩
  · refine ⟨bundleRead s, ?_, bundleRead_done s⟩
    show execFlashImageRead true s = _
    rw [execFlashImageRead, if_neg (by rw [hreads]; decide), if_pos rfl, if_pos (by rw [hronec, hbundle]; rfl)]

end Sys2Proof
end

section
/-! PROOF. A command that runs commits with its status and payload; objects, tables, faults (O50). -/

namespace Sys2Proof

-- one proof at a time, which bounds the memory of the compile
set_option Elab.async false

open Sys2Proof.Machine

/-! ### A command that runs and commits (R356 to R359, R370) -/

/-- What a commit reads of the state stays: the mailboxes and the tick of the commit. -/
def MailsKept (s u : State) : Prop := u.ctl.mailboxes = s.ctl.mailboxes ∧ commitTick u = commitTick s

theorem mailsKept_refl (s : State) : MailsKept s s := ⟨rfl, rfl⟩

theorem MailsKept.trans {s t u : State} (h : MailsKept s t) (k : MailsKept t u) : MailsKept s u :=
  ⟨k.1.trans h.1, k.2.trans h.2⟩

theorem commitTick_congr {s u : State} (hrc : u.time.rc64 = s.time.rc64) (hdone : u.ctl.lastDone = s.ctl.lastDone) :
    commitTick u = commitTick s := by
  unfold commitTick
  rw [hrc, hdone]

theorem MailsKept.of_touches {ps : List Part} {s u : State} (h : Touches ps s u)
    (hctl : Part.ctl.within ps = false := by rfl) (hrc : Part.rc64.within ps = false := by rfl) : MailsKept s u :=
  ⟨by rw [h.ctl_eq hctl], commitTick_congr (h.rc64_eq hrc) (by rw [h.ctl_eq hctl])⟩

/-- A change of the control part that leaves the mailboxes and the last commit. -/
theorem mailsKept_setCtl (s : State) (g : Ctl → Ctl) (hmail : ∀ c, (g c).mailboxes = c.mailboxes)
    (hdone : ∀ c, (g c).lastDone = c.lastDone) : MailsKept s (setCtl s g) := by
  refine ⟨?_, commitTick_congr ?_ ?_⟩
  · rw [setCtl_ctl, hmail]
  · rw [setCtl_time]
  · rw [setCtl_ctl, hdone]

theorem MailsKept.mailOf {s u : State} (h : MailsKept s u) (m : Nat) : mailOf u m = mailOf s m := by
  unfold Machine.mailOf
  rw [h.1]

theorem mailOf_setMail {s : State} {m : Nat} (g : Mailbox → Mailbox) (h : m < s.ctl.mailboxes.length) :
    mailOf (setMail s m g) m = g (mailOf s m) := nth_upd_same _ _ _ _ h

/-- A mailbox that holds a request is one of the mailboxes. -/
theorem mailbox_in {s : State} {m : Nat} {r : Request} (h : (mailOf s m).queue = [r]) : m < s.ctl.mailboxes.length := by
  by_contra hout
  rw [show mailOf s m = Mailbox.atBoot from nth_beyond _ _ hout] at h
  cases h

theorem commitHead_answers {s : State} {m : Nat} {r : Request} (hqueue : (mailOf s m).queue = [r])
    (hattached : r.attached = []) (status : Nat) (payload : Bytes) :
    Answers s (commitHead s m status payload) m r status payload := by
  unfold commitHead
  rw [hqueue]
  dsimp only
  rw [hattached, List.map_nil]
  generalize hu : setMail s m _ = u
  have hmail : (mailOf u m).queue = [] ∧ (mailOf u m).done = (mailOf s m).done
      ++ [⟨r.opcode, m, r.seq, 0, r.irq, r.acceptRc64, ⟨status, commitTick s, payload⟩⟩] := by
    rw [← hu, mailOf_setMail _ (mailbox_in hqueue)]
    exact ⟨rfl, rfl⟩
  exact ⟨hmail.1, hmail.2, rfl⟩

/-- A commit of the one request that waits answers it, and nothing is left to settle. -/
theorem commit_answers {s : State} {m : Nat} {r : Request} (hqueue : (mailOf s m).queue = [r])
    (hattached : r.attached = []) (status : Nat) (payload : Bytes) :
    Answers s (commit s m status payload) m r status payload := by
  have h := commitHead_answers hqueue hattached status payload
  unfold commit
  rw [hqueue, List.length_singleton, settle, h.1]
  exact h

/-- The state before the commit keeps what the commit reads. -/
theorem commit_answers_of {s u : State} {m : Nat} {r : Request} (hkept : MailsKept s u)
    (hqueue : (mailOf s m).queue = [r]) (hattached : r.attached = []) (status : Nat) (payload : Bytes) :
    Answers s (commit u m status payload) m r status payload := by
  have h := commit_answers (s := u) (by rw [hkept.mailOf]; exact hqueue) hattached status payload
  obtain ⟨hq, hd, hl⟩ := h
  exact ⟨hq, by rw [hd, hkept.mailOf, hkept.2], by rw [hl, hkept.2]⟩

theorem headOf_of_ready {s : State} {m op : Nat} {r : Request} (h : ReadyHead s m op r) : headOf s m op = some r := by
  obtain ⟨hserved, hqueue, hop, -⟩ := h
  unfold headOf
  rw [if_pos hserved, hqueue]
  simp [hop]

theorem runCommand_ready {s : State} {m op : Nat} {r : Request} (body : Request → State) (h : ReadyHead s m op r) :
    runCommand s m op body = .next (body r) := by
  have hhead := headOf_of_ready h
  obtain ⟨-, -, -, hstarted, -, hearly⟩ := h
  unfold runCommand
  rw [hhead]
  dsimp only
  rw [if_neg (by rw [hstarted]; decide), if_neg (by rw [hearly]; decide)]

/-- A command that R370 stops early commits with that status and nothing else. -/
theorem early_answers {s : State} {m op : Nat} {r : Request} {o : Host.Outcome State Fault Refusal}
    (hserved : mailServed s m = true) (hqueue : (mailOf s m).queue = [r]) (hop : r.opcode = op)
    (hattached : r.attached = [])
    (ho : headOf s m op = some r → o = .next (commit s m (early s op r.payload) [])) :
    ∃ t, o = .next t ∧ Answers s t m r (early s r.opcode r.payload) [] := by
  have hhead : headOf s m op = some r := by
    unfold headOf
    rw [if_pos hserved, hqueue]
    simp [hop]
  rw [hop]
  exact ⟨_, ho hhead, commit_answers hqueue hattached _ _⟩

theorem runCommand_early {s : State} {m op : Nat} {r : Request} (body : Request → State) (hstarted : r.started = false)
    (hearly : early s op r.payload ≠ 0) (h : headOf s m op = some r) :
    runCommand s m op body = .next (commit s m (early s op r.payload) []) := by
  unfold runCommand
  rw [h]
  dsimp only
  rw [if_neg (by rw [hstarted]; decide), if_pos hearly]

theorem execProbeSweep_early {s : State} {m : Fin 8} {r : Request} (readings : List ProbeReading)
    (hstarted : r.started = false) (hearly : early s 0x22 r.payload ≠ 0) (h : headOf s m 0x22 = some r) :
    execProbeSweep m readings s = .next (commit s m (early s 0x22 r.payload) []) := by
  unfold execProbeSweep
  rw [h]
  dsimp only
  rw [if_neg (by rw [hstarted]; decide), if_pos hearly]

theorem execCellCal_early {s : State} {m : Fin 8} {r : Request} (ev : CellCalEvent)
    (hstarted : r.started = false) (hearly : early s 0x23 r.payload ≠ 0) (h : headOf s m 0x23 = some r) :
    execCellCal m ev s = .next (commit s m (early s 0x23 r.payload) []) := by
  unfold execCellCal
  rw [h]
  dsimp only
  rw [if_neg (by rw [hstarted]; decide), if_pos hearly]

theorem execImageFlash_early {s : State} {m : Fin 8} {r : Request} (ok : Bool)
    (hstarted : r.started = false) (hearly : early s 0x51 r.payload ≠ 0) (h : headOf s m 0x51 = some r) :
    execImageFlash m ok s = .next (commit s m (early s 0x51 r.payload) []) := by
  unfold execImageFlash
  rw [h]
  dsimp only
  rw [if_neg (by rw [hstarted]; decide), if_pos hearly]

/-- The ready command commits with this status and payload. -/
theorem commit_ready {s u : State} {m op : Nat} {r : Request} (h : ReadyHead s m op r) (hkept : MailsKept s u)
    (status : Nat) (payload : Bytes) : Answers s (commit u m status payload) m r status payload := by
  obtain ⟨-, hqueue, -, -, hattached, -⟩ := h
  exact commit_answers_of hkept hqueue hattached status payload

/-- A ready command whose body commits answers so. -/
theorem runCommand_commits {s u : State} {m op : Nat} {r : Request} {body : Request → State} {status : Nat}
    {payload : Bytes} (h : ReadyHead s m op r) (hkept : MailsKept s u) (hbody : body r = commit u m status payload) :
    ∃ t, runCommand s m op body = .next t ∧ Answers s t m r status payload :=
  ⟨_, (runCommand_ready body h).trans (congrArg _ hbody), commit_ready h hkept status payload⟩

theorem commitHead_regs (s : State) (m status : Nat) (payload : Bytes) :
    (commitHead s m status payload).regs = s.regs := by
  unfold commitHead
  split
  · rfl
  · rfl

theorem settle_regs (n : Nat) (s : State) (m : Nat) : (settle n s m).regs = s.regs := by
  induction n generalizing s with
  | zero => rfl
  | succ n ih =>
    unfold settle
    split
    · split
      · rfl
      · rw [ih, commitHead_regs]
    · rfl

/-- A commit leaves the registers. -/
theorem commit_regs (s : State) (m status : Nat) (payload : Bytes) : (commit s m status payload).regs = s.regs :=
  (settle_regs _ _ _).trans (commitHead_regs _ _ _ _)

/-! ### Objects, tables, faults (R371, R372, R379 to R383, R389, R390) -/

section
variable {m : Fin 8} {s : State} {r : Request}

theorem cfgRead_answers (h : ReadyHead s m 0x10 r) :
    (firstStatus ((readEntries r.payload).map readStatus) = 0 →
      ((readEntries r.payload).map (readBytes s)).flatten.length ≤ 472 →
      ∃ t, exec (.cfgRead m) s = .next t ∧ Answers s t m r 0 ((readEntries r.payload).map (readBytes s)).flatten)
    ∧ (firstStatus ((readEntries r.payload).map readStatus) = 0 →
      472 < ((readEntries r.payload).map (readBytes s)).flatten.length →
      ∃ t, exec (.cfgRead m) s = .next t ∧ Answers s t m r 0x0007 [])
    ∧ (firstStatus ((readEntries r.payload).map readStatus) ≠ 0 →
      ∃ t, exec (.cfgRead m) s = .next t
        ∧ Answers s t m r (firstStatus ((readEntries r.payload).map readStatus)) []) :=
  ⟨fun hst hlen => runCommand_commits h (mailsKept_refl s)
      ((if_neg (Ne.symm · hst.symm)).trans (if_neg (Nat.not_lt.2 hlen))),
    fun hst hlen => runCommand_commits h (mailsKept_refl s) ((if_neg (Ne.symm · hst.symm)).trans (if_pos hlen)),
    fun hst => runCommand_commits h (mailsKept_refl s) (if_pos hst)⟩

theorem applyEntries_mails (es : List CfgEntry) (s : State) (m seq : Nat) :
    MailsKept s (es.foldl (fun t e => applyEntry t e m seq) s) := by
  have h : Touches [.afe, .aon, .axl, .cal, .chz, .cmp, .dah, .evt, .flt, .free, .hk, .live, .modes, .mov, .notes,
      .out, .pwr,
      .sun, .time, .trg, .regs] s (es.foldl (fun t e => applyEntry t e m seq) s) :=
    .foldl _ _ (.refl _ _) fun t e ht => touches_applyEntry ht _ _ _ (by decide)
  exact .of_touches h

theorem cfgWrite_answers (h : ReadyHead s m 0x11 r) :
    (firstStatus (entryStatuses (entriesOf r.payload) s m r.seq) = 0 →
      ∃ t, exec (.cfgWrite m) s = .next t
        ∧ Answers s t m r 0 (writeResponse (entriesOf r.payload).length 0xFFFF 0))
    ∧ (firstStatus (entryStatuses (entriesOf r.payload) s m r.seq) ≠ 0 →
      ∃ t, exec (.cfgWrite m) s = .next t ∧ t.regs = s.regs
        ∧ Answers s t m r (firstStatus (entryStatuses (entriesOf r.payload) s m r.seq))
          (writeResponse 0 ((entryStatuses (entriesOf r.payload) s m r.seq).findIdx
              (fun x => x == firstStatus (entryStatuses (entriesOf r.payload) s m r.seq)))
            (nth (entriesOf r.payload) ((entryStatuses (entriesOf r.payload) s m r.seq).findIdx
              (fun x => x == firstStatus (entryStatuses (entriesOf r.payload) s m r.seq))) ⟨0, 0, 0, 0, 0⟩).obj)) := by
  refine ⟨fun hst => runCommand_commits h (applyEntries_mails _ s m r.seq) (if_neg (· hst)), fun hst => ?_⟩
  exact ⟨_, (runCommand_ready _ h).trans (congrArg _ (if_pos hst)), commit_regs _ _ _ _, commit_ready h
      (mailsKept_refl s) _ _⟩

theorem h2dTake_mails (s : State) (ring n : Nat) : MailsKept s (h2dTake s ring n) :=
  .of_touches (touches_h2dTake (.refl [.mov, .out, .obj 0x0C03, .obj 0x0C04] s) _ _ (by decide))

theorem tableStore_mails (s : State) (obj : Nat) (vs : List ((Nat × Nat) × Nat)) : MailsKept s (tableStore s obj vs) :=
  .of_touches (touches_tableStore (.refl [.chz, .flt, .sun, .obj 0x0406, .obj 0x0807, .obj 0x0907] s) _ _ (by decide))

theorem tableWrite_answers (data : List Nat) (h : ReadyHead s m 0x12 r) :
    (tableStatus s (tableReq r.payload) true = 0 → ringStopped s (tableReq r.payload).ring = false →
      (tableValues (tableReq r.payload)
        ((padTo (tableReq r.payload).bytes (data.map (· % 256))).take (tableReq r.payload).bytes)).any
          (fun v => !tableValueOk (tableReq r.payload).obj v.2) = false →
      crc32c ((padTo (tableReq r.payload).bytes (data.map (· % 256))).take (tableReq r.payload).bytes)
        = (tableReq r.payload).crc →
      ∃ t, exec (.tableWrite m data) s = .next t ∧ Answers s t m r 0 (leBytes 4 (tableValues (tableReq r.payload)
        ((padTo (tableReq r.payload).bytes (data.map (· % 256))).take (tableReq r.payload).bytes)).length
          ++ [0, 0, 0, 0]))
    ∧ (tableStatus s (tableReq r.payload) true = 0 → ringStopped s (tableReq r.payload).ring = false →
      (tableValues (tableReq r.payload)
        ((padTo (tableReq r.payload).bytes (data.map (· % 256))).take (tableReq r.payload).bytes)).any
          (fun v => !tableValueOk (tableReq r.payload).obj v.2) = true →
      ∃ t, exec (.tableWrite m data) s = .next t ∧ Answers s t m r 0x0001 [])
    ∧ (tableStatus s (tableReq r.payload) true ≠ 0 →
      ∃ t, exec (.tableWrite m data) s = .next t ∧ Answers s t m r (tableStatus s (tableReq r.payload) true) []) := by
  generalize hq : tableReq r.payload = q
  have htaken := h2dTake_mails s q.ring q.bytes
  refine ⟨fun hst hring hok hcrc => ?_, fun hst hring hbad => ?_, fun hst => ?_⟩
  · refine runCommand_commits h (htaken.trans (tableStore_mails _ q.obj
      (tableValues q ((padTo q.bytes (data.map (· % 256))).take q.bytes)))) ?_
    rw [hq, if_neg (by rw [hst]; decide), if_neg (by rw [hring]; decide), if_neg (by rw [hok]; decide),
      if_neg (by rw [hcrc]; exact fun k => k rfl)]
  · refine runCommand_commits h htaken ?_
    rw [hq, if_neg (by rw [hst]; decide), if_neg (by rw [hring]; decide), if_pos hbad]
  · refine runCommand_commits h (mailsKept_refl s) ?_
    rw [hq]
    exact if_pos hst

theorem ringSend_mails (s : State) (ring : Nat) (b : Bytes) : MailsKept s (ringSend s ring b) :=
  .of_touches (touches_ringSend (.refl [.mov, .pwr, .obj 0x1106] s) _ _ (by decide))

theorem ballastOff_mov (s : State) (d : Nat) : (ballastOff s d).mov = s.mov :=
  (touches_ballastOff (.refl [.pwr, .obj 0x1106] s) _ (by decide) : Touches [.pwr, .obj 0x1106] s _).mov_eq

theorem clockStarts_rings (s : State) (b : Nat) : (clockStarts s b).mov.rings = s.mov.rings := by
  unfold clockStarts
  split
  · dsimp only
    rw [foldl_same _ State.mov _ _ fun t d _ => ballastOff_mov t d]
  · rfl

/-- A record sent to a ring joins its queue, those of the ring's kind first. -/
theorem ringSend_queues (s : State) {ring kind : Nat} (b : Bytes) (hin : ring < s.mov.rings.length)
    (hkind : ringKind s ring = kind) :
    (ringOf (ringSend s ring b) ring).queue = ofKindFirst kind ((ringOf s ring).queue ++ [⟨.plain, b, false, 1⟩]) := by
  have hring : ringOf (clockStarts s 12) ring = ringOf s ring := by rw [ringOf, ringOf, clockStarts_rings]
  show (nth (upd (clockStarts s 12).mov.rings ring _) ring DmaRing.atBoot).queue = _
  rw [nth_upd_same _ _ _ _ (by rw [clockStarts_rings]; exact hin), hkind]
  exact congrArg (fun x : DmaRing => ofKindFirst kind (x.queue ++ [⟨.plain, b, false, 1⟩])) hring

theorem commit_ring (s : State) (m status k : Nat) (payload : Bytes) : ringOf (commit s m status payload) k = ringOf s
    k := by
  have h : Touches [.ctl] s (commit s m status payload) := touches_commit (.refl _ _) _ _ _ (by decide)
  rw [ringOf, ringOf, h.mov_eq]

/-- A table command that is in order names a ring of its kind. -/
theorem tableStatus_ring {q : TableReq} {write : Bool} (h : tableStatus s q write = 0) :
    q.ring < 64 ∧ ringKind s q.ring = if write then 2 else 1 := by
  unfold tableStatus at h
  generalize (if write then 2 else 1 : Nat) = kind at h ⊢
  split_ifs at h with hunknown hshape hwrite hrange
  have hring : q.ring < 64 := by
    by_contra hout
    exact hrange (.inl (by omega))
  refine ⟨hring, ?_⟩
  simp only [Bool.or_eq_true, Bool.and_eq_true, Bool.not_eq_true', not_or, not_and, Bool.not_eq_false] at hshape
  have his := hshape.2 (decide_eq_true hring)
  simp only [ringIs, Bool.and_eq_true, decide_eq_true_eq] at his
  exact his.2

theorem tableRead_answers (h : ReadyHead s m 0x13 r) (hst : tableStatus s (tableReq r.payload) false = 0)
    (hring : ringStopped s (tableReq r.payload).ring = false) (hlen : s.mov.rings.length = 64) :
    ∃ t, exec (.tableRead m) s = .next t
      ∧ Answers s t m r 0 (leBytes 4 (tableRecord s (tableReq r.payload)).length ++ [0, 0, 0, 0])
      ∧ (ringOf t (tableReq r.payload).ring).queue = ofKindFirst 1 ((ringOf s (tableReq r.payload).ring).queue
        ++ [⟨.plain, tableRecord s (tableReq r.payload), false, 1⟩]) := by
  generalize hq : tableReq r.payload = q at *
  obtain ⟨hin, hkind⟩ := tableStatus_ring hst
  refine ⟨_, (runCommand_ready _ h).trans (congrArg _ ?_), commit_ready h (ringSend_mails s q.ring (tableRecord s q))
      _ _, ?_⟩
  · rw [hq, if_neg (by rw [hst]; decide), if_neg (by rw [hring]; decide)]
  · rw [commit_ring, ringSend_queues s _ (by rw [hlen]; exact hin) hkind]
    rfl

theorem acknowledge_mails (xs : List FaultInst) (s : State) : MailsKept s (xs.foldl acknowledge s) := by
  have h : Touches [.flt, .notes, .pwr, .obj 0x0C06] s (xs.foldl acknowledge s) :=
    .foldl _ _ (.refl _ _) fun t x ht => touches_acknowledge ht _ (by decide)
  exact .of_touches h

theorem faultAck_answers (h : ReadyHead s m 0x31 r) :
    ∃ t, exec (.faultAck m) s = .next t
      ∧ Answers s t m r (if leAt r.payload 2 2 ≠ 0xFFFF ∧ (s.flt.active.filter (fun x =>
            x.code == leAt r.payload 0 2 && (leAt r.payload 2 2 == 0xFFFF || x.inst == leAt r.payload 2 2))).length
          - ((s.flt.active.filter (fun x => x.code == leAt r.payload 0 2
            && (leAt r.payload 2 2 == 0xFFFF || x.inst == leAt r.payload 2 2))).filter (mayAcknowledge s)).length ≠ 0
          then 0x0002 else 0)
        (leBytes 2 ((s.flt.active.filter (fun x => x.code == leAt r.payload 0 2
            && (leAt r.payload 2 2 == 0xFFFF || x.inst == leAt r.payload 2 2))).filter (mayAcknowledge s)).length
          ++ leBytes 2 ((s.flt.active.filter (fun x =>
            x.code == leAt r.payload 0 2 && (leAt r.payload 2 2 == 0xFFFF || x.inst == leAt r.payload 2 2))).length
          - ((s.flt.active.filter (fun x => x.code == leAt r.payload 0 2
            && (leAt r.payload 2 2 == 0xFFFF || x.inst == leAt r.payload 2 2))).filter (mayAcknowledge s)).length)
          ++ [0, 0, 0, 0]) :=
  runCommand_commits h (acknowledge_mails _ s) rfl

/-- A command of any opcode that R370 stops early. -/
theorem anyOpcode_early (data : List Nat) (readings : List ProbeReading) (ev : CellCalEvent) (ok : Bool)
    (failed : Option Nat) (x : Nat × Instr)
    (hx : x ∈ [(0x01, Instr.getInfo m), (0x10, .cfgRead m), (0x11, .cfgWrite m), (0x12, .tableWrite m data),
      (0x13, .tableRead m), (0x20, .softTrigger m), (0x21, .integStop m), (0x22, .probeSweep m readings),
      (0x23, .cellCal m ev), (0x24, .convCapture m), (0x30, .faultList m), (0x31, .faultAck m), (0x32, .logRead m),
      (0x40, .compress m data), (0x41, .decompress m data), (0x50, .imageLoad m data), (0x51, .imageFlash m ok),
      (0x52, .imageServe m), (0x53, .rollbackCommit m failed), (0x54, .boot m)])
    (hserved : mailServed s m = true) (hqueue : (mailOf s m).queue = [r]) (hop : r.opcode = x.1)
    (hstarted : r.started = false) (hattached : r.attached = []) (hearly : early s r.opcode r.payload ≠ 0) :
    ∃ t, exec x.2 s = .next t ∧ Answers s t m r (early s r.opcode r.payload) [] := by
  refine early_answers hserved hqueue hop hattached fun hhead => ?_
  rw [hop] at hearly
  simp only [List.mem_cons, List.not_mem_nil, or_false] at hx
  rcases hx with rfl | rfl | rfl | rfl | rfl | rfl | rfl | rfl | rfl | rfl | rfl | rfl | rfl | rfl | rfl | rfl | rfl |
      rfl
    | rfl | rfl
  case inr.inr.inr.inr.inr.inr.inr.inl => exact execProbeSweep_early readings hstarted hearly hhead
  case inr.inr.inr.inr.inr.inr.inr.inr.inl => exact execCellCal_early ev hstarted hearly hhead
  case inr.inr.inr.inr.inr.inr.inr.inr.inr.inr.inr.inr.inr.inr.inr.inr.inl =>
    exact execImageFlash_early ok hstarted hearly hhead
  all_goals exact runCommand_early _ hstarted hearly hhead

end

/-- Settles O50: each object command commits what its body says, and every opcode ends early as R370 says. -/
theorem objectCommandsComplete : Obligations.ObjectCommandsComplete := by
  intro m s r
  refine ⟨fun h => runCommand_commits h (mailsKept_refl s) rfl, cfgRead_answers, cfgWrite_answers, tableWrite_answers,
    tableRead_answers, fun h => runCommand_commits h (mailsKept_refl s) rfl, faultAck_answers, ?_⟩
  intro data readings ev ok failed x hx hserved hqueue hop hstarted hattached hearly
  exact anyOpcode_early data readings ev ok failed x hx hserved hqueue hop hstarted hattached hearly

end Sys2Proof
end

section
/-! PROOF. PROOF. Acquisition, job, log and image commands (O51, O52). -/

namespace Sys2Proof

-- one proof at a time, which bounds the memory of the compile
set_option Elab.async false

open Sys2Proof.Machine

/-! ### Acquisition and calibration commands (R384 to R388) -/

section
variable {m : Fin 8} {s : State} {r : Request}

theorem mailOf_setHead (g : Request → Request) (h : (mailOf s m).queue = [r]) :
    (mailOf (setHead s m g) m).queue = [g r] := by
  unfold setHead
  rw [mailOf_setMail _ (mailbox_in h)]
  dsimp only
  rw [h]
  rfl

theorem readyHead_queue {op : Nat} (h : ReadyHead s m op r) : (mailOf s m).queue = [r] := by
  obtain ⟨-, hqueue, -⟩ := h
  exact hqueue

theorem mailsKept_drawFree (s : State) : MailsKept s (drawFree s).2 := ⟨rfl, rfl⟩

theorem softTrigger_runs (h : ReadyHead s m 0x20 r) :
    (sourceOn s 2 = false → ∃ t n, exec (.softTrigger m) s = .next t ∧ s.time.rc64 ≤ n ∧ n ≤ s.time.rc64 + 32
        ∧ Answers s t m r 0 (softResponse 6 n 0))
    ∧ (sourceOn s 2 = true → s.trg.running = true →
        ∃ t n, exec (.softTrigger m) s = .next t ∧ s.time.rc64 ≤ n ∧ n ≤ s.time.rc64 + 32
          ∧ t.trg.known = s.trg.known ++ [plainCondition n 2]
          ∧ (mailOf t m).queue = [{ r with started := true, step := n }])
    ∧ (sourceOn s 2 = true → s.trg.running = false →
        ∃ t, exec (.softTrigger m) s = .next t ∧ Answers s t m r 0x0023 []) := by
  have hlow : s.time.rc64 ≤ s.time.rc64 + (drawFree s).1 % 33 := Nat.le_add_right _ _
  have hhigh : s.time.rc64 + (drawFree s).1 % 33 ≤ s.time.rc64 + 32 := by omega
  refine ⟨fun hoff => ?_, fun hon hrun => ?_, fun hon hrun => ?_⟩
  · exact ⟨_, _, (runCommand_ready _ h).trans (congrArg _ (if_pos (by rw [hoff]; rfl))), hlow, hhigh,
      commit_ready h (mailsKept_drawFree s) _ _⟩
  · refine ⟨_, _, (runCommand_ready _ h).trans (congrArg _ ((if_neg (by rw [hon]; decide)).trans
      (if_neg (by rw [hrun]; decide)))), hlow, hhigh, ?_⟩
    generalize hu : setHead (drawFree s).2 m _ = u
    have hstart : u.trg = s.trg ∧ sourceOn u 2 = sourceOn s 2
        ∧ (mailOf u m).queue = [{ r with started := true, step := s.time.rc64 + (drawFree s).1 % 33 }] := by
      rw [← hu]
      exact ⟨rfl, rfl, mailOf_setHead _ (readyHead_queue (s := s) h)⟩
    obtain ⟨htrg, hsource, hqueue⟩ := hstart
    unfold addCondition
    rw [if_pos (by rw [show (plainCondition _ 2).source = 2 from rfl, hsource, hon, htrg, hrun]; rfl)]
    refine ⟨?_, ?_⟩
    · rw [setTrg_trg, htrg]
    · exact hqueue
  · exact runCommand_commits h (mailsKept_refl s) ((if_neg (by rw [hon]; decide)).trans (if_pos (by rw [hrun]; rfl)))

theorem integStop_stops (h : ReadyHead s m 0x21 r) :
    (dahCur s = none → ∃ t, exec (.integStop m) s = .next t ∧ Answers s t m r 0x0002 [])
    ∧ ((dahCur s).isSome = true → ∃ t, exec (.integStop m) s = .next t
        ∧ Answers s t m r 0 (leBytes 4 (toGroupSpx s (s.dah.stopAt.getD (nextBlock s))) ++ [0, 0, 0, 0])) := by
  have hstop (n : Nat) : MailsKept s (dahStop s n) := .of_touches (touches_dahStop (.refl [.dah] s) _ (by decide))
  refine ⟨fun hnone => runCommand_commits h (mailsKept_refl s) (by rw [hnone]), fun hsome => ?_⟩
  obtain ⟨q, hq⟩ := Option.isSome_iff_exists.1 hsome
  cases hat : s.dah.stopAt with
  | none => exact runCommand_commits h (hstop (nextBlock s)) (by rw [hq, hat]; rfl)
  | some b => exact runCommand_commits h (mailsKept_refl s) (by rw [hq, hat]; rfl)

theorem probeSweep_begins (readings : List ProbeReading) (h : ReadyHead s m 0x22 r) (hst : sweepStatus s r.payload = 0)
    (hring : ringStopped s (leAt r.payload 37 1) = false) :
    ∃ t, exec (.probeSweep m readings) s = .next t ∧ t.afe.sweepMask = leAt r.payload 0 32
      ∧ t.afe.sweep = some (sweepPoint (leAt r.payload 0 32) (leAt r.payload 32 1))
      ∧ (mailOf t m).queue = [{ r with started := true }] := by
  have hhead := headOf_of_ready h
  obtain ⟨-, hqueue, -, hstarted, -, hearly⟩ := h
  show ∃ t, execProbeSweep m readings s = .next t ∧ _
  unfold execProbeSweep
  rw [hhead]
  dsimp only
  rw [if_neg (by rw [hstarted]; decide), if_neg (by rw [hearly]; decide), if_neg (by rw [hst]; decide),
    if_neg (by rw [hring]; decide)]
  have hbegin (u : State) (mask freq : Nat) : Touches [.afe] u (sweepBegin u mask freq) :=
    touches_sweepBegin (.refl _ _) _ _ (by decide)
  refine ⟨_, rfl, rfl, rfl, ?_⟩
  rw [(MailsKept.of_touches (hbegin _ _ _)).mailOf, mailOf_setHead _ hqueue]

theorem cellCal_begins (ev : CellCalEvent) (h : ReadyHead s m 0x23 r) (hruns : runsOp s [0x23] = false) :
    ∃ t, exec (.cellCal m ev) s = .next t ∧ (mailOf t m).queue = [{ r with started := true }] := by
  have hhead := headOf_of_ready h
  obtain ⟨-, hqueue, -, hstarted, -, hearly⟩ := h
  show ∃ t, execCellCal m ev s = .next t ∧ _
  unfold execCellCal
  rw [hhead]
  dsimp only
  rw [if_neg (by rw [hstarted]; decide), if_neg (by rw [hearly]; decide), if_neg (by rw [hruns]; decide)]
  exact ⟨_, rfl, mailOf_setHead _ hqueue⟩

theorem convCapture_begins (h : ReadyHead s m 0x24 r) (hsome : leAt r.payload 4 4 ≠ 0)
    (hmax : leAt r.payload 4 4 ≤ 32768)
    (hsoon : leAt r.payload 8 8 < s.time.rc64 + 2 ^ 47) (hruns : runsOp s [0x24] = false) :
    ∃ t, exec (.convCapture m) s = .next t ∧ t.cnv.capture
      = some ⟨leAt r.payload 0 1, leAt r.payload 4 4, max (leAt r.payload 8 8) s.time.rc64, none, 0⟩ := by
  refine ⟨_, (runCommand_ready _ h).trans (congrArg _ ((if_neg (by omega)).trans (if_neg (by rw [hruns]; decide)))), ?_⟩
  rw [setCnv_cnv]

end

/-- Settles O51: each acquisition command by its row. -/
theorem acquisitionCommandsComplete : Obligations.AcquisitionCommandsComplete := fun _ _ _ =>
  ⟨softTrigger_runs, integStop_stops, probeSweep_begins, cellCal_begins, convCapture_begins⟩

/-! ### Jobs and the log (R391, R392, R393) -/

section
variable {m : Fin 8} {s : State} {r : Request}

theorem length_padTo_take (n : Nat) (b : Bytes) : ((padTo n b).take n).length = n := by
  rw [List.length_take, padTo, List.length_append, List.length_replicate]
  omega

/-- A job joins the queue of its engine. -/
theorem queueJob_joins (s : State) (j : CompressJob) {e : Nat} (he : j.engine = e) (h : e < s.cmp.queues.length) :
    nth (queueJob s j).cmp.queues e [] = nth s.cmp.queues e [] ++ [j] := by
  subst he
  have hkept : (clockStarts (domUp s 3 (if j.engine = 0 then 338 else 339)) 11).cmp = s.cmp :=
    (clockStarts_touches _ _).cmp_eq.trans (domUp_touches _ _ _).cmp_eq
  unfold queueJob
  rw [setCmp_cmp, hkept]
  exact nth_upd_same _ _ _ _ h

theorem startWithData_cmp (s : State) (m ring n : Nat) : (startWithData s m ring n).cmp = s.cmp :=
  (touches_startWithData (.refl [.ctl, .mov, .out, .obj 0x0C03, .obj 0x0C04] s) _ _ _ (by decide) :
    Touches [.ctl, .mov, .out, .obj 0x0C03, .obj 0x0C04] s _).cmp_eq

/-- The job that a COMPRESS of this payload starts, and a DECOMPRESS. -/
def compressJob (m : Nat) (p b : Bytes) : CompressJob :=
  ⟨0, m, leAt p 3 1, [], leAt p 0 1, leAt p 1 1, 0, b, leAt p 8 4, 0, 0⟩

def decompressJob (m : Nat) (p b : Bytes) : CompressJob :=
  ⟨1 + leAt p 0 1, m, leAt p 3 1, [], 0, 0, leAt p 1 1, b, leAt p 8 4, 0, 0⟩

theorem compress_queues (data : List Nat) (h : ReadyHead s m 0x40 r) (hst : compressCheck s r.payload = 0)
    (hin : ringStopped s (leAt r.payload 2 1) = false) (hout : ringStopped s (leAt r.payload 3 1) = false)
    (hlen : s.cmp.queues.length = 3) :
    ∃ t j, exec (.compress m data) s = .next t ∧ nth t.cmp.queues 0 [] = nth s.cmp.queues 0 [] ++ [j]
      ∧ j.input.length = leAt r.payload 4 4 ∧ j.level = leAt r.payload 0 1 ∧ j.ring = leAt r.payload 3 1 := by
  refine ⟨_, compressJob m r.payload ((padTo (leAt r.payload 4 4) (data.map (· % 256))).take (leAt r.payload 4 4)),
    (runCommand_ready _ h).trans (congrArg _
        ((if_neg (by rw [hst]; decide)).trans (if_neg (by rw [hin, hout]; decide)))),
    ?_, length_padTo_take _ _, rfl, rfl⟩
  rw [queueJob_joins _ _ (e := 0) rfl (by rw [startWithData_cmp, hlen]; decide), startWithData_cmp]
  rfl

theorem decompressCheck_mode {p : Bytes} (h : decompressCheck s p = 0) : leAt p 0 1 ≤ 1 := by
  unfold decompressCheck at h
  dsimp only at h
  split_ifs at h with hrings hform hfull
  by_contra hmode
  exact hform (.inl (by omega))

theorem decompress_queues (data : List Nat) (h : ReadyHead s m 0x41 r) (hst : decompressCheck s r.payload = 0)
    (hin : ringStopped s (leAt r.payload 2 1) = false) (hout : ringStopped s (leAt r.payload 3 1) = false)
    (hlen : s.cmp.queues.length = 3) :
    ∃ t j, exec (.decompress m data) s = .next t
      ∧ nth t.cmp.queues (1 + leAt r.payload 0 1) [] = nth s.cmp.queues (1 + leAt r.payload 0 1) [] ++ [j]
      ∧ j.input.length = leAt r.payload 4 4 ∧ j.limit = leAt r.payload 8 4 := by
  have hmode := decompressCheck_mode hst
  refine ⟨_, decompressJob m r.payload ((padTo (leAt r.payload 4 4) (data.map (· % 256))).take (leAt r.payload 4 4)),
    (runCommand_ready _ h).trans (congrArg _
        ((if_neg (by rw [hst]; decide)).trans (if_neg (by rw [hin, hout]; decide)))),
    ?_, length_padTo_take _ _, rfl⟩
  rw [queueJob_joins _ _ (e := 1 + leAt r.payload 0 1) rfl (by rw [startWithData_cmp, hlen]; omega), startWithData_cmp]
  rfl


/-- The job of a LOG_READ that is coded. -/
def logJob (s : State) (m : Nat) (p : Bytes) : CompressJob :=
  ⟨0, m, leAt p 3 1, [0x4C, 0x4F, 0x47, 0x52, leAt p 0 1, leAt p 1 1, 0, 0]
      ++ leBytes 4 (logEntries s (leAt p 0 1)).length
      ++ leBytes 4 ((logEntries s (leAt p 0 1)).map LogEntry.bytes).flatten.length,
    leAt p 2 1, leAt p 1 1 - 1, 0, ((logEntries s (leAt p 0 1)).map LogEntry.bytes).flatten, 2 ^ 40, 0, 0⟩

section
variable (hsource : leAt r.payload 0 1 ≤ 1) (hring : ringIs s (leAt r.payload 3 1) 1 = true)
include hring

theorem logRead_ring : leAt r.payload 3 1 < 64 ∧ ringKind s (leAt r.payload 3 1) = 1 := by
  simp only [ringIs, Bool.and_eq_true, decide_eq_true_eq] at hring
  exact hring

include hsource

theorem logRead_plain (h : ReadyHead s m 0x32 r) (hcoding : leAt r.payload 1 1 = 0) (hlevel : leAt r.payload 2 1 ≤ 9)
    (hlen : s.mov.rings.length = 64) :
    let es := logEntries s (leAt r.payload 0 1)
    let raw := (es.map LogEntry.bytes).flatten
    let whole := trailed ([0x4C, 0x4F, 0x47, 0x52, leAt r.payload 0 1, 0, 0, 0] ++ leBytes 4 es.length
      ++ leBytes 4 raw.length ++ raw)
    ∃ t, exec (.logRead m) s = .next t
      ∧ Answers s t m r 0 (leBytes 4 es.length ++ leBytes 4 whole.length ++ leBytes 4 (crc32c raw))
      ∧ (ringOf t (leAt r.payload 3 1)).queue
          = ofKindFirst 1 ((ringOf s (leAt r.payload 3 1)).queue ++ [⟨.plain, whole, false, 1⟩]) := by
  obtain ⟨hin, hkind⟩ := logRead_ring hring
  intro es raw whole
  refine ⟨_, (runCommand_ready _ h).trans (congrArg _ ?_), commit_ready h
      (ringSend_mails s (leAt r.payload 3 1) whole) _ _, ?_⟩
  · dsimp only
    rw [hcoding, if_neg (by simp [hring]), if_neg (by omega), if_neg (by simp), if_pos rfl]
  · rw [commit_ring, ringSend_queues s _ (by rw [hlen]; exact hin) hkind]

theorem logRead_coded (h : ReadyHead s m 0x32 r) (hcoding : leAt r.payload 1 1 = 1 ∨ leAt r.payload 1 1 = 2)
    (hlevel : leAt r.payload 2 1 ≤ 9) (himage : modeOf s ≠ .image) (hbeam : modeOf s ≠ .beam)
    (hfull : engineFull s 0 = false) (hlen : s.cmp.queues.length = 3) :
    ∃ t j, exec (.logRead m) s = .next t ∧ nth t.cmp.queues 0 [] = nth s.cmp.queues 0 [] ++ [j]
      ∧ j.input = ((logEntries s (leAt r.payload 0 1)).map LogEntry.bytes).flatten ∧ j.wrap = leAt r.payload 1 1
          - 1 := by
  obtain ⟨hin, hkind⟩ := logRead_ring hring
  refine ⟨queueJob (setHead s m fun x => { x with started := true }) (logJob s m r.payload), logJob s m r.payload,
    (runCommand_ready _ h).trans (congrArg _ ?_), ?_, rfl, rfl⟩
  · dsimp only
    rw [if_neg (by simp [hring, himage, hbeam]), if_neg (by omega), if_neg (by simp [hfull]), if_neg (by omega)]
    rfl
  · rw [queueJob_joins _ _ (e := 0) rfl (by rw [show (setHead s m _).cmp = s.cmp from rfl, hlen]; decide)]
    rfl

end

/-! ### The image commands and BOOT (R394 to R398) -/

/-- The control part stays but for what is staged and served. -/
theorem loadStarts_mails (s : State) : MailsKept s (loadStarts s) :=
  mailsKept_setCtl s _ (fun _ => rfl) (fun _ => rfl)

theorem loadStarts_staged (hwait : s.ctl.waitsForImage = false) : (loadStarts s).ctl.staged = none := by
  rw [loadStarts, setCtl_ctl]
  dsimp only
  rw [hwait]
  rfl

theorem stageBytes_touches (s : State) (b : Bytes) : Touches [.bbl, .dah, .mem, .sun] s (stageBytes s b) :=
  touches_stageBytes (.refl _ _) _ (by decide)

theorem repairList_touches (s : State) (b : Bytes) :
    Touches [.flt, .fst, .notes, .obj 0x0A04, .obj 0x0A05, .obj 0x0A06, .obj 0x0A07, .obj 0x0C06] s (repairList s b) :=
  touches_repairList (.refl _ _) _ (by decide)

/-- A commit keeps every field of the control part but the mailboxes and the time of the last commit. -/
theorem commitHead_field {α : Type} (val : Ctl → α) (hmail : ∀ c x, val { c with mailboxes := x } = val c)
    (hdone : ∀ c n, val { c with lastDone := n } = val c) (s : State) (m status : Nat) (payload : Bytes) :
    val (commitHead s m status payload).ctl = val s.ctl := by
  unfold commitHead
  split
  · rfl
  · dsimp only
    rw [setCtl_ctl, hdone, setMail, setCtl_ctl, hmail]

theorem settle_field {α : Type} (val : Ctl → α) (hmail : ∀ c x, val { c with mailboxes := x } = val c)
    (hdone : ∀ c n, val { c with lastDone := n } = val c) (n : Nat) (s : State) (m : Nat) :
    val (settle n s m).ctl = val s.ctl := by
  induction n generalizing s with
  | zero => rfl
  | succ n ih =>
    unfold settle
    split
    · split
      · rfl
      · rw [ih, commitHead_field val hmail hdone]
    · rfl

theorem commit_field {α : Type} (val : Ctl → α) (hmail : ∀ c x, val { c with mailboxes := x } = val c)
    (hdone : ∀ c n, val { c with lastDone := n } = val c) (s : State) (m status : Nat) (payload : Bytes) :
    val (commit s m status payload).ctl = val s.ctl :=
  (settle_field val hmail hdone _ _ _).trans (commitHead_field val hmail hdone _ _ _ _)

/-- An image that arrives for no boot is staged, and a commit reads what it read before. -/
theorem imageArrives_stages (s : State) (kind : Nat) (b : Bytes) (hwait : s.ctl.waitsForImage = false) :
    (imageArrives s kind b).ctl.staged = some ⟨kind, b⟩ ∧ MailsKept s (imageArrives s kind b) := by
  generalize hu : (setCtl (stageBytes s b) fun c => { c with staged := some ⟨kind, b⟩ }) = u
  have hstages : u.ctl.staged = some ⟨kind, b⟩ ∧ MailsKept s u := by
    rw [← hu]
    exact ⟨by rw [setCtl_ctl], (MailsKept.of_touches (stageBytes_touches s b)).trans
      (mailsKept_setCtl _ _ (fun _ => rfl) fun _ => rfl)⟩
  obtain ⟨hstaged, hkept⟩ := hstages
  have hrepair (x : Bytes) : (repairList u x).ctl.staged = some ⟨kind, b⟩ ∧ MailsKept s (repairList u x) :=
    ⟨by rw [(repairList_touches u x).ctl_eq, hstaged], hkept.trans (.of_touches (repairList_touches u x))⟩
  unfold imageArrives
  dsimp only
  rw [if_neg (by rw [hwait]; decide), hu]
  split
  · split
    · exact hrepair _
    · exact ⟨hstaged, hkept⟩
  · exact ⟨hstaged, hkept⟩

/-- The load of a whole image ends with its judgement, and stages an image that passes. -/
theorem loadEnds_answers {u : State} (h : ReadyHead s m 0x50 r) (hkept : MailsKept s u)
    (hwait : u.ctl.waitsForImage = false) (hnone : u.ctl.staged = none) (kind : Nat) (b : Bytes) {c : Nat}
    (hcheck : imageCheck u kind b = c) :
    Answers s (loadEnds u m kind b) m r (if c = 0 then 0 else 0x0030) (loadResponse c b)
      ∧ (loadEnds u m kind b).ctl.staged = (if c = 0 then some ⟨kind, b⟩ else none) := by
  obtain ⟨hstaged, harrives⟩ := imageArrives_stages u kind b hwait
  have hcommit (v : State) (status : Nat) (payload : Bytes) : (commit v m status payload).ctl.staged = v.ctl.staged :=
    commit_field Ctl.staged (fun _ _ => rfl) (fun _ _ => rfl) v m status payload
  unfold loadEnds
  dsimp only
  rw [hcheck]
  by_cases hc : c = 0
  · rw [if_pos hc, if_pos hc, if_pos hc, hc, hcommit]
    exact ⟨commit_ready h (hkept.trans harrives) _ _, hstaged⟩
  · rw [if_neg hc, if_neg hc, if_neg hc, hcommit]
    have hrejected := imageRejected_touches u c
    exact ⟨commit_ready h (hkept.trans (.of_touches hrejected)) _ _, by rw [hrejected.ctl_eq, hnone]⟩

theorem imageLoad_loads (data : List Nat) (h : ReadyHead s m 0x50 r) (hst : loadStatus s r.payload = 0)
    (hsource : leAt r.payload 0 1 = 0) (hring : ringStopped s (leAt r.payload 1 1) = false)
    (hwait : s.ctl.waitsForImage = false) :
    let b := (padTo (leAt r.payload 4 4) (data.map (· % 256))).take (leAt r.payload 4 4)
    let c := imageCheck s (leAt r.payload 2 1) b
    ∃ t, exec (.imageLoad m data) s = .next t ∧ Answers s t m r (if c = 0 then 0 else 0x0030) (loadResponse c b)
      ∧ t.ctl.staged = (if c = 0 then some ⟨leAt r.payload 2 1, b⟩ else none) := by
  intro b c
  have hbegins : MailsKept s (loadStarts s) := loadStarts_mails s
  have htake : Touches [.mov, .out, .obj 0x0C03, .obj 0x0C04] (loadStarts s)
      (h2dTake (loadStarts s) (leAt r.payload 1 1) (leAt r.payload 4 4)) := touches_h2dTake (.refl _ _) _ _ (by decide)
  have htaken : ∃ u, u = (if ringIs s (leAt r.payload 1 1) 2 then
      h2dTake (loadStarts s) (leAt r.payload 1 1) (leAt r.payload 4 4) else loadStarts s)
      ∧ MailsKept s u ∧ u.ctl = (loadStarts s).ctl
      ∧ rd u Obj.CMP_INFL.RATIO_MAX = rd s Obj.CMP_INFL.RATIO_MAX := by
    refine ⟨_, rfl, ?_⟩
    split
    · exact ⟨hbegins.trans (h2dTake_mails _ _ _), htake.ctl_eq, htake.rd _ _ (by decide) (by decide)⟩
    · exact ⟨hbegins, rfl, rd_setCtl _ _ _ _⟩
  obtain ⟨u, hu, hkept, hctl, hratio⟩ := htaken
  have hends := loadEnds_answers (u := u) h hkept (by rw [hctl]; exact hwait)
    (by rw [hctl, loadStarts_staged hwait]) (leAt r.payload 2 1) b (imageCheck_congr (by rw [hctl]; rfl) hratio _ _)
  refine ⟨loadEnds u m (leAt r.payload 2 1) b, (runCommand_ready _ h).trans (congrArg _ ?_), hends⟩
  dsimp only
  rw [if_neg (by rw [hst]; decide), if_pos hsource, if_neg (by rw [hring]; decide), ← hu]

theorem imageFlash_starts (h : ReadyHead s m 0x51 r) (hst : flashStatus s r.payload = 0) :
    ∃ t, exec (.imageFlash m true) s = .next t ∧ (mailOf t m).queue = [{ r with started := true }] := by
  have hhead := headOf_of_ready h
  obtain ⟨-, hqueue, -, hstarted, -, hearly⟩ := h
  show ∃ t, execImageFlash m true s = .next t ∧ _
  unfold execImageFlash
  rw [hhead]
  dsimp only
  rw [if_neg (by rw [hstarted]; decide), if_neg (by rw [hearly]; decide), if_neg (by rw [hst]; decide)]
  refine ⟨_, if_pos rfl, ?_⟩
  have hslot (u : State) (k : Nat) (b : Bytes) : MailsKept u (setSlot u k b) :=
    mailsKept_setCtl u _ (fun _ => rfl) fun _ => rfl
  rw [(hslot _ _ _).mailOf, mailOf_setHead _ hqueue]

/-- The message of an image that is served on its links. -/
def serveLink (x : Image) (served : Nat) (t : State) (l : Nat) : State :=
  if bit served l then imageMessage t l 1 x.kind x.bytes.length 0 0 [] else t

theorem serveLink_touches (x : Image) (served : Nat) (t : State) (l : Nat) :
    Touches [.axl, .out, .peer, .obj 0x0D05] t (serveLink x served t l) := by
  unfold serveLink
  split
  · exact imageMessage_touches _ _ _ _ _ _ _ _
  · exact .refl _ _

theorem imageServe_commits (h : ReadyHead s m 0x52 r) {x : Image} (hx : s.ctl.staged = some x) {served : Nat}
    (henable : leAt r.payload 2 1 ≤ 1)
    (hserved : (if leAt r.payload 2 1 = 1 then leAt r.payload 0 2 else 0) = served) :
    ∃ t, exec (.imageServe m) s = .next t ∧ Answers s t m r 0 [] ∧ t.ctl.serveLinks = served := by
  generalize hu : (setCtl s fun c => { c with serveLinks := served }) = u
  have hkept : MailsKept s u := by
    rw [← hu]
    exact mailsKept_setCtl s _ (fun _ => rfl) fun _ => rfl
  have hsent : Touches [.axl, .out, .peer, .obj 0x0D05] u ((List.range 16).foldl (serveLink x served) u) :=
    .foldl _ _ (.refl _ _) fun t l ht => ht.trans (serveLink_touches x served t l)
  refine ⟨commit ((List.range 16).foldl (serveLink x served) u) m 0 [],
    (runCommand_ready _ h).trans (congrArg _ ?_), commit_ready h (hkept.trans (.of_touches hsent)) _ _, ?_⟩
  · dsimp only
    rw [hx]
    dsimp only
    rw [if_neg (by omega), hserved, hu]
    rfl
  · rw [commit_field Ctl.serveLinks (fun _ _ => rfl) fun _ _ => rfl, hsent.ctl_eq, ← hu, setCtl_ctl]

theorem imageServe_serves (h : ReadyHead s m 0x52 r) :
    (s.ctl.staged = none → ∃ t, exec (.imageServe m) s = .next t ∧ Answers s t m r 0x0002 [])
    ∧ (∀ x, s.ctl.staged = some x → leAt r.payload 2 1 = 0 →
      ∃ t, exec (.imageServe m) s = .next t ∧ Answers s t m r 0 [] ∧ t.ctl.serveLinks = 0)
    ∧ (∀ x, s.ctl.staged = some x → leAt r.payload 2 1 = 1 →
      ∃ t, exec (.imageServe m) s = .next t ∧ Answers s t m r 0 [] ∧ t.ctl.serveLinks = leAt r.payload 0 2) :=
  ⟨fun hnone => runCommand_commits h (mailsKept_refl s) (by rw [hnone]),
    fun _ hx henable => imageServe_commits h hx (by omega) (if_neg (by omega)),
    fun _ hx henable => imageServe_commits h hx (by omega) (if_pos henable)⟩

theorem rollbackCommit_raises (h : ReadyHead s m 0x53 r) (hmax : leAt r.payload 0 1 ≤ 64)
    (hsecurity : leAt r.payload 0 1 ≤ s.ctl.fwSecurity) (hcount : s.ctl.rollback ≤ leAt r.payload 0 1)
    (hruns : runsOp s [0x50, 0x51, 0x53] = false) :
    ∃ t, exec (.rollbackCommit m none) s = .next t ∧ t.ctl.rollback = leAt r.payload 0 1
      ∧ Answers s t m r 0 (leAt r.payload 0 1 :: List.replicate 7 0) := by
  generalize hu : (setCtl s fun c => { c with rollback := leAt r.payload 0 1 }) = u
  have hkept : MailsKept s u := by
    rw [← hu]
    exact mailsKept_setCtl s _ (fun _ => rfl) fun _ => rfl
  refine ⟨commit u m 0 (leAt r.payload 0 1 :: List.replicate 7 0), (runCommand_ready _ h).trans (congrArg _ ?_), ?_,
    commit_ready h hkept _ _⟩
  · dsimp only
    rw [if_neg (by omega), if_neg (by rw [hruns]; decide), if_neg (by omega), Nat.add_sub_cancel' hcount, hu]
    rfl
  · rw [commit_field Ctl.rollback (fun _ _ => rfl) fun _ _ => rfl, ← hu, setCtl_ctl]

theorem boot_answers (h : ReadyHead s m 0x54 r)
    (hsource : leAt r.payload 0 1 = 0 ∨ leAt r.payload 0 1 = 2 ∨ leAt r.payload 0 1 = 3) :
    (leAt r.payload 2 2 = s.aon.bootId → ∃ t, exec (.boot m) s = .next t
      ∧ Answers s t m r 0 (1 :: List.replicate 7 0) ∧ t.ctl.bootDue = some (bootFromOf (leAt r.payload 0 1)))
    ∧ (leAt r.payload 2 2 ≠ s.aon.bootId → ∃ t, exec (.boot m) s = .next t
      ∧ Answers s t m r 0 (List.replicate 8 0) ∧ t.ctl.bootDue = s.ctl.bootDue) := by
  have hdue (v : State) (payload : Bytes) : (commit v m 0 payload).ctl.bootDue = v.ctl.bootDue :=
    commit_field Ctl.bootDue (fun _ _ => rfl) (fun _ _ => rfl) v m 0 payload
  refine ⟨fun hid => ?_, fun hid => ?_⟩
  · refine ⟨_, (runCommand_ready _ h).trans (congrArg _ ((if_neg (by omega)).trans ((if_neg (by omega)).trans
      (if_pos hid)))), commit_ready h ?_ _ _, ?_⟩
    · exact mailsKept_setCtl s _ (fun _ => rfl) fun _ => rfl
    · rw [List.cons_append, List.nil_append, hdue, setCtl_ctl]
  · exact ⟨_, (runCommand_ready _ h).trans (congrArg _ ((if_neg (by omega)).trans ((if_neg (by omega)).trans
      (if_neg hid)))), commit_ready h (mailsKept_refl s) _ _, hdue _ _⟩

end

/-- Settles O52: each job, log and image command by its row. -/
theorem jobAndImageCommandsComplete : Obligations.JobAndImageCommandsComplete := by
  intro m s r
  exact ⟨compress_queues, decompress_queues, fun h hsource hcoding hlevel hring hlen =>
      logRead_plain hsource hring h hcoding hlevel hlen,
    fun h hsource hcoding hlevel hring himage hbeam hfull hlen =>
      logRead_coded hsource hring h hcoding hlevel himage hbeam hfull hlen,
    imageLoad_loads, imageFlash_starts, imageServe_serves, rollbackCommit_raises, boot_answers⟩

end Sys2Proof
end

section
/-! PROOF. PROOF. Compression jobs, the matrix, credit queues and lossy-tail queues (O37). -/

namespace Sys2Proof

-- one proof at a time, which bounds the memory of the compile
set_option Elab.async false

open Sys2Proof.Machine

/-! ### Compression jobs (R266, R270) -/

theorem compressionJobStart_runs (e : Fin 3) (s : State) (j : CompressJob) (rest : List CompressJob)
    (hlen : s.cmp.running.length = 3) (hfree : nth s.cmp.running e none = none)
        (hqueue : nth s.cmp.queues e [] = j :: rest)
    (hon : domOn s (if e.val = 0 then 338 else 339) = true) :
    ∃ t, exec (.compressionJobStart e) s = .next t ∧ nth t.cmp.running e none = some (jobStarted s j)
      ∧ nth t.cmp.queues e [] = rest := by
  have hin : e.val < s.cmp.queues.length := by
    by_contra hout
    rw [nth_beyond _ _ hout] at hqueue
    cases hqueue
  show ∃ t, execCompressionJobStart e s = .next t ∧ _
  unfold execCompressionJobStart
  rw [hfree, hqueue]
  refine ⟨_, if_pos hon, ?_, ?_⟩
  · exact nth_upd_same _ _ _ _ (by rw [hlen]; exact e.isLt)
  · exact nth_upd_same _ _ _ _ hin

theorem compressionJobEnd_frees (e : Fin 3) (s : State) (j : CompressJob) (hrun : nth s.cmp.running e none = some j)
    (hcycle : domCycling s (if e.val = 0 then 338 else 339) = false) :
    ∃ t, exec (.compressionJobEnd e) s = .next t ∧ nth t.cmp.running e none = none := by
  have hin : e.val < s.cmp.running.length := by
    by_contra hout
    rw [nth_beyond _ _ hout] at hrun
    cases hrun
  have hcounts (u : State) : Touches [.flt, .notes, .obj 0x0B04, .obj 0x0C06] u (jobCounts u j (jobEnd j)) :=
    touches_jobCounts (.refl _ _) _ _ (by decide)
  have hdelivered (u : State) : Touches [.ctl, .mov, .pwr, .obj 0x1106] u (jobDelivered u j (jobEnd j)) :=
    touches_jobDelivered (.refl _ _) _ _ (by decide)
  have hrests (u : State) (d : Nat) : Touches [.pwr, .obj 0x0A04] u (engineRests u d) :=
    touches_engineRests (.refl _ _) _ (by decide)
  show ∃ t, execCompressionJobEnd e s = .next t ∧ _
  unfold execCompressionJobEnd
  rw [hrun]
  refine ⟨_, if_neg (by rw [hcycle]; decide), ?_⟩
  rw [(hrests _ _).cmp_eq, (hdelivered _).cmp_eq, (hcounts _).cmp_eq]
  exact nth_upd_same _ _ _ _ hin

/-! ### A fault that ends -/

/-- The overflow of the log raises 0x0C09 and no other fault. -/
theorem logWatched_other (s u : State) {code : Nat} (inst : Nat) (h : code ≠ 0x0C09) :
    faultActive (logWatched s u) code inst = faultActive u code inst := by
  unfold logWatched
  split
  · rfl
  · rw [raiseEntry_any]
    simp [Ne.symm h]

theorem clearFault_inactive (s : State) {code : Nat} (inst : Nat) (h : code ≠ 0x0C09) :
    faultActive (clearFault s code inst) code inst = false := by
  unfold clearFault
  split
  · next hnone => rw [faultActive, hnone]; rfl
  · dsimp only
    rw [logWatched_other _ _ _ h]
    unfold faultActive findFault
    rw [show ∀ (u : State) (b : NoticeBody), (notice u b).flt = u.flt from fun _ _ => rfl, logFault_active]
    simp
    tauto

/-! ### Errors of the matrix (R16, R271, R273) -/

theorem movError_mem (s : State) (code master cause addr : Nat) (hplain : severityOf code ≠ 3) :
    (movError s code master cause addr).mem = s.mem :=
  (touches_movError (.refl [.flt, .notes, .obj 0x0C06, .obj 0x0C07] s) hplain _ _ _ (by decide) :
    Touches [.flt, .notes, .obj 0x0C06, .obj 0x0C07] s _).mem_eq

/-- What the first error captures leaves its count and the faults. -/
theorem movError_counts (s : State) (code master cause addr : Nat) :
    flag (movError s code master cause addr) Obj.MOV_ERR.VALID = true
    ∧ rd (movError s code master cause addr) Obj.MOV_ERR.COUNT
      = satAdd Obj.MOV_ERR.COUNT.width (rd s Obj.MOV_ERR.COUNT) 1
    ∧ (s.flt.active.length < 1024 → faultActive (movError s code master cause addr) code master = true) := by
  unfold movError
  dsimp only
  generalize hu : (if flag s Obj.MOV_ERR.VALID = true then s else _ : State) = u
  have hcaptured : flag u Obj.MOV_ERR.VALID = true ∧ u.flt = s.flt
      ∧ rd u Obj.MOV_ERR.COUNT = rd s Obj.MOV_ERR.COUNT := by
    rw [← hu]
    split
    · next hvalid => exact ⟨hvalid, rfl, rfl⟩
    · refine ⟨?_, by rw [wr_flt, wr_flt, wr_flt, wr_flt, wr_flt], ?_⟩
      · rw [flag, rd_wr_same]
        decide
      · rw [rd_wr_apart _ _ _ _ (by decide), rd_wr_apart _ _ _ _ (by decide), rd_wr_apart _ _ _ _ (by decide),
          rd_wr_apart _ _ _ _ (by decide), rd_wr_apart _ _ _ _ (by decide)]
  obtain ⟨hvalid, hflt, hcount⟩ := hcaptured
  refine ⟨?_, ?_, fun hroom => raise_active _ _ _ _ _ (by rw [bumpSat, wr_flt, hflt]; exact hroom)⟩
  · rw [flag, rd_raise _ _ _ _ _ _ (by decide), bumpSat, rd_wr_apart _ _ _ _ (by decide)]
    exact hvalid
  · rw [rd_raise _ _ _ _ _ _ (by decide), bumpSat, rd_wr_same, satAdd_mod, hcount]

theorem matrixTransaction_stopped (a : MatrixAccess) (s : State) (e : Nat × Nat) (he : accessError s a = some e) :
    ∃ t, exec (.matrixTransaction a) s = .next t ∧ flag t Obj.MOV_ERR.VALID = true
      ∧ rd t Obj.MOV_ERR.COUNT = satAdd Obj.MOV_ERR.COUNT.width (rd s Obj.MOV_ERR.COUNT) 1 ∧ t.mem = s.mem
      ∧ (s.flt.active.length < 1024 → faultActive t e.2 a.master = true) := by
  have hbudget : Touches [.obj 0x0C08] s (budget s a) := touches_budget (.refl _ _) _ (by decide)
  generalize hu : movError (budget s a) e.2 a.master e.1 a.addr = u
  have herror : flag u Obj.MOV_ERR.VALID = true
      ∧ rd u Obj.MOV_ERR.COUNT = satAdd Obj.MOV_ERR.COUNT.width (rd s Obj.MOV_ERR.COUNT) 1 ∧ u.mem = s.mem
      ∧ (s.flt.active.length < 1024 → faultActive u e.2 a.master = true) := by
    obtain ⟨hvalid, hcount, hactive⟩ := movError_counts (budget s a) e.2 a.master e.1 a.addr
    have hmem := movError_mem (budget s a) e.2 a.master e.1 a.addr (accessError_plain he)
    rw [hbudget.rd _ _ (by decide) (by decide)] at hcount
    rw [hbudget.flt_eq] at hactive
    rw [hbudget.mem_eq] at hmem
    rw [← hu]
    exact ⟨hvalid, hcount, hmem, hactive⟩
  rw [exec_matrixTransaction]
  unfold execMatrixTransaction
  rw [he]
  dsimp only
  rw [hu]
  refine ⟨_, rfl, ?_⟩
  split
  · exact herror
  · exact herror

/-! ### Control SRAM through the matrix (R14 to R16) -/

theorem memGet_memStrobed (m : List Host.Cell) (x : Nat) (b : Bytes) (strobes len j : Nat) (hj : j < len) :
    memGet (memStrobed m x b strobes len) (x + j)
      = if bit strobes j then BitVec.ofNat 8 (nth b j 0) else memGet m (x + j) := by
  induction len with
  | zero => omega
  | succ n ih =>
    have hlast : memStrobed m x b strobes (n + 1)
        = if bit strobes n then memSet (memStrobed m x b strobes n) (x + n) (BitVec.ofNat 8 (nth b n 0))
          else memStrobed m x b strobes n := by
      unfold memStrobed
      rw [List.range_succ, List.foldl_append]
      rfl
    rw [hlast]
    by_cases hn : j = n
    · subst hn
      have hbefore : memGet (memStrobed m x b strobes j) (x + j) = memGet m (x + j) :=
        keepsByte_memStrobed m x b strobes j (.inr (Nat.le_refl _))
      split
      · rw [memGet_memSet, if_pos rfl]
      · exact hbefore
    · split
      · rw [memGet_memSet, if_neg (by omega), ih (by omega)]
      · exact ih (by omega)

/-- The address of control SRAM that an access reaches. -/
theorem targetOf_sram {s : State} {x : Nat} (h : targetOf s x = .controlSram) : sramAddr x = x := by
  unfold targetOf at h
  split at h
  · cases h
  · next hhigh => exact if_neg hhigh

section
variable {a : MatrixAccess} {s : State} (hplain : accessError s a = none)
    (htarget : targetOf s a.addr = .controlSram ∨ (targetOf s a.addr = .bootWindow ∧ flag s Obj.MOV_MAP.REMAP = true))
include hplain htarget

theorem matrixTransaction_writesSram (hwrite : a.write = true) :
    ∃ t, exec (.matrixTransaction a) s = .next t ∧ ∀ j < a.len, memGet t.mem (sramAddr a.addr + j)
      = if bit a.strobes j then BitVec.ofNat 8 (nth a.data j 0) else memGet s.mem (sramAddr a.addr + j) := by
  have hbudget : Touches [.obj 0x0C08] s (budget s a) := touches_budget (.refl _ _) _ (by decide)
  have hat : targetOf (budget s a) a.addr = targetOf s a.addr :=
    targetOf_congr (hbudget.rd _ _ (by decide) (by decide)) _
  have hstored : matrixWrite (budget s a) a
      = { budget s a with mem := memStrobed (budget s a).mem (sramAddr a.addr) a.data a.strobes a.len } := by
    unfold matrixWrite
    rw [hat]
    obtain h | ⟨h, -⟩ := htarget <;> rw [h]
  refine ⟨matrixWrite (budget s a) a, ?_, fun j hj => ?_⟩
  · rw [exec_matrixTransaction, execMatrixTransaction, hplain]
    exact if_pos hwrite
  · rw [hstored]
    dsimp only
    rw [hbudget.mem_eq]
    exact memGet_memStrobed _ _ _ _ _ _ hj

theorem matrixTransaction_readsSram (hwrite : a.write = false) :
    ∃ t, exec (.matrixTransaction a) s = .next t ∧ t.mem = s.mem
      ∧ t.out = .readData a.master a.len (ofLe (loadBytes s (sramAddr a.addr) a.len)) 0 :: s.out := by
  have hbudget : Touches [.obj 0x0C08] s (budget s a) := touches_budget (.refl _ _) _ (by decide)
  have hat : targetOf (budget s a) a.addr = targetOf s a.addr :=
    targetOf_congr (hbudget.rd _ _ (by decide) (by decide)) _
  have hmap : flag (budget s a) Obj.MOV_MAP.REMAP = flag s Obj.MOV_MAP.REMAP := by
    rw [flag, flag, hbudget.rd _ _ (by decide) (by decide)]
  have hloaded : matrixRead (budget s a) a = (ofLe (loadBytes s (sramAddr a.addr) a.len), false, budget s a) := by
    have hbytes : loadBytes (budget s a) (sramAddr a.addr) a.len = loadBytes s (sramAddr a.addr) a.len := by
      rw [loadBytes, loadBytes, hbudget.mem_eq]
    unfold matrixRead
    rw [hat]
    obtain h | ⟨h, hremap⟩ := htarget
    · rw [h, ← hbytes, targetOf_sram h]
    · rw [h, hmap, hremap, ← hbytes]
      rfl
  refine ⟨emit (budget s a) (.readData a.master a.len (ofLe (loadBytes s (sramAddr a.addr) a.len)) 0), ?_,
    hbudget.mem_eq, by rw [emit_out, hbudget.out_eq]⟩
  rw [exec_matrixTransaction, execMatrixTransaction, hplain]
  dsimp only
  rw [if_neg (by rw [hwrite]; decide), hloaded]
  rfl

end

/-! ### Bursts that end early (R19, R277) -/

theorem burstCut_count (s : State) (a : MatrixAccess) : rd (burstCut s a) Obj.MOV_ERR.COUNT = rd s Obj.MOV_ERR.COUNT :=
  (touches_burstCut (.refl [.bbl, .dah, .flt, .free, .fst, .mem, .mov, .notes, .out, .pwr, .sun, .obj 0x0A04,
      .obj 0x0A05, .obj 0x0A06, .obj 0x0A07, .obj 0x0C06, .obj 0x1106] s) _ (by decide) :
    Touches [.bbl, .dah, .flt, .free, .fst, .mem, .mov, .notes, .out, .pwr, .sun, .obj 0x0A04, .obj 0x0A05,
      .obj 0x0A06, .obj 0x0A07, .obj 0x0C06, .obj 0x1106] s _).rd _ _ (by decide) (by decide)

theorem bursts_end (a : MatrixAccess) (s : State) :
    (a.write = true → ∃ t, exec (.beatTimeout a) s = .next t
      ∧ rd t Obj.MOV_ERR.COUNT = satAdd Obj.MOV_ERR.COUNT.width (rd s Obj.MOV_ERR.COUNT) 1)
    ∧ (a.write = false → exec (.beatTimeout a) s = .next s)
    ∧ ∃ t, exec (.resetInBurst a) s = .next t ∧ rd t Obj.MOV_BUDGET.IN_USE a.master = 0
      ∧ rd t Obj.MOV_ERR.COUNT = satAdd Obj.MOV_ERR.COUNT.width (rd s Obj.MOV_ERR.COUNT) 1 := by
  have hcount (code cause : Nat) : rd (movError (burstCut s a) code a.master cause a.addr) Obj.MOV_ERR.COUNT
      = satAdd Obj.MOV_ERR.COUNT.width (rd s Obj.MOV_ERR.COUNT) 1 := by
    obtain ⟨-, h, -⟩ := movError_counts (burstCut s a) code a.master cause a.addr
    rw [h, burstCut_count]
  refine ⟨fun hwrite => ⟨_, if_pos hwrite, hcount _ _⟩, fun hread => if_neg (by rw [hread]; decide), _, rfl, ?_, ?_⟩
  · rw [rd_wr_same, Nat.zero_mod]
  · rw [rd_wr_apart _ _ _ _ (by decide), hcount]

/-! ### Credit queues (R18, R271 to R282) -/

theorem clockStarts_used (s : State) (b : Nat) : (clockStarts s b).mov.used = s.mov.used := by
  unfold clockStarts
  split
  · dsimp only
    rw [foldl_same _ State.mov _ _ fun t d _ => ballastOff_mov t d]
  · rfl

/-- What a poisoned packet spoils is no slot of a queue. -/
theorem poisoned_used (s : State) (q which : Nat) : (poisoned s q which).mov.used = s.mov.used := by
  have hspoiled (b : Bytes) : (spoiled s b).2.mov = s.mov :=
    (touches_spoiled (.refl [.free] s) _ (by decide) : Touches [.free] s _).mov_eq
  have hlost (u : State) : (noticeLost u).mov = u.mov := 
    (touches_noticeLost (.refl [.flt, .notes, .obj 0x0C06] u) (by decide) :
      Touches [.flt, .notes, .obj 0x0C06] u _).mov_eq
  unfold poisoned
  split
  case h_8 =>
    split
    · rfl
    · next d _ => exact congrArg Movement.used (hspoiled d.trailer)
  case h_9 =>
    split
    · rfl
    · next e _ => exact congrArg Movement.used (hspoiled e.bytes)
  case h_10 =>
    split
    · rfl
    · next r _ _ =>
      show (spoiled s r.bytes).2.mov.used = s.mov.used
      rw [hspoiled]
  case h_13 => exact congrArg Movement.used (hlost _)
  all_goals rfl

/-- What becomes of a slot is not whether it is used. -/
theorem slotError_used (s : State) (q err which : Nat) : (slotError s q err which).mov.used = s.mov.used := by
  unfold slotError
  split
  · rfl
  · split
    · rw [(raise_touches _ _ _ _ _).mov_eq, bumpSat, wr_mov]
    · rw [poisoned_used, (raise_touches _ _ _ _ _).mov_eq, bumpSat, wr_mov]

theorem packetSent_used (s : State) {q : Nat} (which : Nat) (h : queueHeld q = false) :
    mapGet (packetSent s q which).mov.used q = mapGet s.mov.used q + 1 := by
  rw [packetSent, if_neg (by rw [h]; decide), clockStarts_used, setMov_mov]
  dsimp only
  rw [mapGet_mapSet_same]

theorem poisoned_counted (s : State) (q which : Nat) :
    rd (slotError s q 2 which) Obj.MOV_QPROT.POISONED q
      = satAdd Obj.MOV_QPROT.POISONED.width (rd s Obj.MOV_QPROT.POISONED q) 1 := by
  have hpoison (u : State) : Touches [.axl, .conc, .dah, .flt, .free, .mov, .notes, .peer, .obj 0x0C06] u
      (poisoned u q which) := touches_poisoned (.refl _ _) _ _ (by decide)
  rw [slotError, if_neg (by decide), if_neg (by simp), (hpoison _).rd _ _ (by decide) (by decide),
    rd_raise _ _ _ _ _ _ (by decide), bumpSat, rd_wr_same, satAdd_mod]

theorem queuePacketSend_takes (q : Fin 16) (err : Fin 3) (which : Nat) (s : State) :
    (queueHeld q = false → queueOpen s q which = true →
      ∃ t, exec (.queuePacketSend q err which) s = .next t ∧ mapGet t.mov.used q = mapGet s.mov.used q + 1)
    ∧ ((if queueHeld q then decide (0 < queueUsed s q which) else queueOpen s q which) = true → err.val = 2 →
      ∃ t, exec (.queuePacketSend q err which) s = .next t
        ∧ rd t Obj.MOV_QPROT.POISONED q = satAdd Obj.MOV_QPROT.POISONED.width (rd s Obj.MOV_QPROT.POISONED q) 1)
    ∧ (queueHeld q = false → queueOpen s q which = false → exec (.queuePacketSend q err which) s = .next s) := by
  have hsent : Touches [.mov, .pwr, .obj 0x1106] s (packetSent s q which) :=
    touches_packetSent (.refl _ _) _ _ (by decide)
  refine ⟨fun hheld hopen => ⟨_, if_pos ?_, ?_⟩, fun htaken herr => ⟨_, if_pos htaken, ?_⟩, fun hheld hfull =>
      if_neg ?_⟩
  · rw [if_neg (by rw [hheld]; decide), hopen]
  · rw [slotError_used, packetSent_used s which hheld]
  · rw [herr, poisoned_counted, hsent.rd _ _ (by decide) (by decide)]
  · rw [if_neg (by rw [hheld]; decide), hfull]
    decide

theorem creditReturn_frees (q : Fin 16) (s : State) (h4 : q.val = 2 → s.chz.wait4 = [])
    (h8 : q.val = 3 → s.chz.wait8 = []) :
    ∃ t, exec (.creditReturn q) s = .next t ∧ mapGet t.mov.used q = mapGet s.mov.used q - 1 := by
  have hfreed : exec (.creditReturn q) s = .next (queueFree s q) := by
    show execCreditReturn q s = _
    unfold execCreditReturn
    dsimp only
    split
    · next hq => rw [show (queueFree s q).chz.wait4 = [] from h4 hq]; rfl
    · split
      · next hq => rw [show (queueFree s q).chz.wait8 = [] from h8 hq]; rfl
      · rfl
  exact ⟨_, hfreed, mapGet_mapSet_same _ _ _⟩

theorem clockGateStop_gates (block : Fin 16) (s : State) (hlow : 6 ≤ block.val) (hhigh : block.val ≤ 12) :
    (blockWorks s block = false → ∃ t, exec (.clockGateStop block) s = .next t ∧ bit t.mov.gated block = true)
    ∧ (blockWorks s block = true → exec (.clockGateStop block) s = .next s) :=
  ⟨fun hrests => ⟨_, if_pos ⟨hlow, hhigh, hrests⟩, bit_setBit_same _ _⟩,
    fun hworks => if_neg fun ⟨_, _, hrests⟩ => by rw [hworks] at hrests; cases hrests⟩

/-! ### Packets of the lossy-tail queues (R278 to R280) -/

theorem lossyLost_touches (s : State) (q k : Nat) : Touches [.notes, .obj 0x0C06] s (lossyLost s q k) :=
  touches_lossyLost (.refl _ _) _ _ (by decide)

theorem lossyShow_touches (s : State) (q n cap wm : Nat) :
    Touches [.notes, .obj 0x0C06] s (lossyShow s q n cap wm) := touches_lossyShow (.refl _ _) _ _ _ _ (by decide)

theorem beamPut_last (s : State) (beam : Nat) (frame : Bytes) :
    (beamPut s beam frame).sun.queue.getLast? = some frame := by
  have hput : ((setSun s fun u =>
      { u with queue := (beamRoom s.sun.queue frame.length).1 ++ [frame] }).sun.queue).getLast?
      = some frame := List.getLast?_concat ..
  unfold beamPut
  dsimp only
  split
  · rw [(lossyShow_touches _ _ _ _ _).sun_eq]
    exact hput
  · rw [(raise_touches _ _ _ _ _).sun_eq, (lossyLost_touches _ _ _).sun_eq, bump, wr_sun,
      (lossyShow_touches _ _ _ _ _).sun_eq]
    exact hput

theorem mem_regionPush (log : List LogEntry) (e : LogEntry) : e ∈ regionPush log e :=
  List.mem_append_right _ (List.mem_singleton.2 rfl)

/-- The newest entry stays when one more joins. -/
theorem mem_regionPush_next (log : List LogEntry) (e e' : LogEntry) : e ∈ regionPush (regionPush log e) e' := by
  refine List.mem_append_left _ ?_
  split
  · exact mem_regionPush log e
  · next hfull =>
    unfold regionPush at hfull ⊢
    generalize (if log.length < 16384 then log else log.drop 1) = rest at hfull ⊢
    cases rest with
    | nil => simp at hfull
    | cons x rest => exact List.mem_append_right rest (List.mem_singleton.2 rfl)

theorem logFault_region (s : State) (code inst event count a : Nat) :
    (logFault s code inst event count a).flt.region = regionPush s.flt.region (logEntry s code inst event count a) := by
  unfold logFault
  dsimp only
  rw [(lossyLost_touches _ _ _).flt_eq, (lossyShow_touches _ _ _ _ _).flt_eq]

/-- A fault that is raised leaves the newest entry of the log. -/
theorem raiseEntry_region (s : State) (code inst a b detail : Nat) {log : List LogEntry} {e : LogEntry}
    (h : s.flt.region = regionPush log e) : e ∈ (raiseEntry s code inst a b detail).flt.region := by
  unfold raiseEntry
  split
  · show e ∈ s.flt.region
    rw [h]
    exact mem_regionPush log e
  · show e ∈ (logFault _ code inst 0 1 a).flt.region
    rw [logFault_region]
    dsimp only
    rw [h]
    exact mem_regionPush_next _ _ _

theorem logWatched_region (s u : State) {log : List LogEntry} {e : LogEntry} (h : u.flt.region = regionPush log e) :
    e ∈ (logWatched s u).flt.region := by
  unfold logWatched
  split
  · rw [h]
    exact mem_regionPush log e
  · exact raiseEntry_region _ _ _ _ _ _ h

theorem ringRecord_last (s : State) (b : Bytes) : (ringRecord s b).hk.ring.getLast? = some b := by
  have hlost (u : State) (k : Nat) : (hkLost u k).hk = u.hk :=
    (touches_hkLost (.refl [.flt, .notes, .obj 0x0C06] u) _ (by decide) :
      Touches [.flt, .notes, .obj 0x0C06] u _).hk_eq
  unfold ringRecord
  dsimp only
  rw [hlost, (lossyShow_touches _ _ _ _ _).hk_eq]
  exact List.getLast?_concat ..

theorem lossyTailWrite_joins (packet : List Nat) (s : State) :
    (nextToReserve s = none → exec (.lossyTailWrite 0 packet) s = .next s)
    ∧ (∃ t, exec (.lossyTailWrite 1 packet) s = .next t ∧ t.sun.queue.getLast? = some (packet.map (· % 256)))
    ∧ (∃ t, exec (.lossyTailWrite 2 packet) s = .next t ∧ entryOfBytes (packet.map (· % 256)) ∈ t.flt.region)
    ∧ ∃ t, exec (.lossyTailWrite 3 packet) s = .next t
      ∧ t.hk.ring.getLast? = some (padTo 16 ((packet.map (· % 256)).take 16)) := by
  refine ⟨fun hnone => ?_, ⟨_, rfl, ?_⟩, ⟨_, rfl, ?_⟩, _, rfl, ringRecord_last _ _⟩
  · show Host.Outcome.next (reserveNext s) = _
    rw [reserveNext, hnone]
  · exact beamPut_last _ _ _
  · refine logWatched_region (log := s.flt.region) _ _ ?_
    rw [(lossyLost_touches _ _ _).flt_eq, (lossyShow_touches _ _ _ _ _).flt_eq]

/-- Settles O37: each movement of data by its row. -/
theorem matrixAndQueuesComplete : Obligations.MatrixAndQueuesComplete := by
  refine ⟨compressionJobStart_runs, compressionJobEnd_frees, fun s h =>
      ⟨_, if_pos h, clearFault_inactive s 0 (by decide)⟩,
    matrixTransaction_stopped, fun a s hplain htarget => ⟨matrixTransaction_writesSram hplain htarget,
      matrixTransaction_readsSram hplain htarget⟩, bursts_end, queuePacketSend_takes, creditReturn_frees,
    clockGateStop_gates, lossyTailWrite_joins⟩

end Sys2Proof
end

section
/-! PROOF. PROOF. DMA rings and records on network ports (O38). -/

namespace Sys2Proof

-- one proof at a time, which bounds the memory of the compile
set_option Elab.async false

open Sys2Proof.Machine

/-! ### Rings, their bits and completions (R283 to R288) -/

theorem ringOf_setRing {s : State} {r : Nat} (f : DmaRing → DmaRing) (h : r < s.mov.rings.length) :
    ringOf (setRing s r f) r = f (ringOf s r) := nth_upd_same _ _ _ _ h

theorem ringOf_congr {s t : State} (h : t.mov = s.mov) (r : Nat) : ringOf t r = ringOf s r := by
  unfold ringOf
  rw [h]

/-- A ring that differs from an empty one is one of the rings. -/
theorem ring_in {s : State} {r : Nat} (h : ringOf s r ≠ DmaRing.atBoot) : r < s.mov.rings.length := by
  by_contra hout
  exact h (nth_beyond _ _ hout)

theorem setRing_length (s : State) (r : Nat) (f : DmaRing → DmaRing) :
    (setRing s r f).mov.rings.length = s.mov.rings.length := upd_length _ _ _

/-- A change of a ring that leaves its queue. -/
theorem setRing_queue (s : State) (r : Nat) (f : DmaRing → DmaRing) (hf : ∀ x, (f x).queue = x.queue) :
    (ringOf (setRing s r f) r).queue = (ringOf s r).queue := by
  by_cases hin : r < s.mov.rings.length
  · rw [ringOf_setRing _ hin, hf]
  · rw [ringOf, ringOf, nth_beyond _ _ (by rw [setRing_length]; exact hin), nth_beyond _ _ hin]

theorem ringBit_mov (s : State) (r : Nat) (f : Field) : (ringBit s r f).mov = s.mov := by
  unfold ringBit
  split
  · rfl
  · rw [emit_mov, wr_mov]

theorem ringBit_flt (s : State) (r : Nat) (f : Field) : (ringBit s r f).flt = s.flt := by
  unfold ringBit
  split
  · rfl
  · rw [emit_flt, wr_flt]

theorem rd_ringBit (s : State) (r : Nat) {f g : Field} (j : Nat) (h : apart f g = true) :
    rd (ringBit s r f) g j = rd s g j := by
  unfold ringBit
  split
  · rfl
  · rw [rd_emit, rd_wr_apart _ _ _ _ h]

theorem flag_ringBit (s : State) (r : Nat) {f : Field} (h : f.width = 1) : flag (ringBit s r f) f r = true := by
  unfold ringBit
  split
  · assumption
  · rw [flag, rd_emit, rd_wr_same, h]
    decide

/-- A field that no completion changes. -/
def outsideCompletion (g : Field) : Bool :=
  [Obj.MOV_RING_STATUS.HEAD, Obj.MOV_RING_STATUS.COMPLETIONS, Obj.MOV_RING_STATUS.POISON,
    Obj.MOV_RING_STATUS.DONE_NOTICE].all (fun f => apart f g)

section
variable (s : State) (r : Nat)

/-- A completion takes its descriptor, closes the buffer and moves HEAD on; other fields stay. -/
theorem complete_takes (used records status : Nat) {d : Descriptor} {rest : List Descriptor}
    (h : (ringOf s r).descs = d :: rest) :
    (complete s r used records status).mov = (setRing s r fun x => { x with descs := rest, buf := none }).mov
    ∧ rd (complete s r used records status) Obj.MOV_RING_STATUS.HEAD r
      = (rd s Obj.MOV_RING_STATUS.HEAD r + 1) % 2 ^ 16
    ∧ ∀ g j, outsideCompletion g = true → rd (complete s r used records status) g j = rd s g j := by
  generalize ht : complete s r used records status = t
  simp -zeta only [complete, h] at ht
  extract_lets head n value at16 s1 s2 s3 news s4 at ht
  subst ht
  have hmov2 : s2.mov = (setRing s r fun x => { x with descs := rest, buf := none }).mov := by
    rw [wr_mov, wr_mov, emit_mov]
  have hmov3 : s3.mov = s2.mov := view_ite State.mov (ringBit_mov _ _ _) rfl
  have hmov4 : s4.mov = s3.mov := wr_mov _ _ _ _
  have hhead2 : rd s2 Obj.MOV_RING_STATUS.HEAD r = (rd s Obj.MOV_RING_STATUS.HEAD r + 1) % 2 ^ 16 := by
    rw [rd_wr_apart _ _ _ _ (by decide), rd_wr_same]
    rfl
  have hhead3 : rd s3 Obj.MOV_RING_STATUS.HEAD r = rd s2 Obj.MOV_RING_STATUS.HEAD r :=
    view_ite (fun u => rd u Obj.MOV_RING_STATUS.HEAD r) (rd_ringBit _ _ _ (by decide)) rfl
  have hhead4 : rd s4 Obj.MOV_RING_STATUS.HEAD r = rd s3 Obj.MOV_RING_STATUS.HEAD r :=
    rd_wr_apart _ _ _ _ (by decide)
  refine ⟨?_, ?_, fun g j hg => ?_⟩
  · exact view_ite State.mov (hmov4.trans (hmov3.trans hmov2)) (hmov4.trans (hmov3.trans hmov2))
  · exact view_ite (fun u => rd u Obj.MOV_RING_STATUS.HEAD r) (hhead4.trans (hhead3.trans hhead2))
      (hhead4.trans (hhead3.trans hhead2))
  · simp only [outsideCompletion, List.all_cons, List.all_nil, Bool.and_true, Bool.and_eq_true] at hg
    obtain ⟨hghead, hgcount, hgpoison, hgdone⟩ := hg
    have hrd3 : rd s3 g j = rd s2 g j := view_ite (fun u => rd u g j) (rd_ringBit _ _ _ hgpoison) rfl
    have hrd4 : rd s4 g j = rd s g j := by
      rw [rd_wr_apart _ _ _ _ hgdone, hrd3, rd_wr_apart _ _ _ _ hgcount, rd_wr_apart _ _ _ _ hghead]
      rfl
    exact view_ite (fun u => rd u g j) hrd4 hrd4

theorem rd_complete (used records status : Nat) {g : Field} (j : Nat) (hg : outsideCompletion g = true) :
    rd (complete s r used records status) g j = rd s g j := by
  cases h : (ringOf s r).descs with
  | nil =>
    unfold complete
    rw [h]
  | cons d rest =>
    obtain ⟨-, -, hrd⟩ := complete_takes s r used records status h
    exact hrd g j hg

/-- A buffer that closes leaves the fields that no completion changes, and what waits for the ring. -/
theorem closeBuffer_keeps : (∀ g j, outsideCompletion g = true → rd (closeBuffer s r) g j = rd s g j)
    ∧ (closeBuffer s r).mov.rings.length = s.mov.rings.length
    ∧ (ringOf (closeBuffer s r) r).queue = (ringOf s r).queue := by
  unfold closeBuffer
  split
  · exact ⟨fun _ _ _ => rfl, rfl, rfl⟩
  · split
    · exact ⟨fun _ _ _ => rd_setRing _ _ _ _ _, setRing_length _ _ _, setRing_queue _ _ _ fun _ => rfl⟩
    · refine ⟨fun g j hg => rd_complete _ _ _ _ _ _ hg, ?_⟩
      cases h : (ringOf s r).descs with
      | nil =>
        unfold complete
        rw [h]
        exact ⟨rfl, rfl⟩
      | cons d rest =>
        obtain ⟨hmov, -, -⟩ := complete_takes s r _ _ _ h
        rw [ringOf_congr hmov, hmov]
        exact ⟨setRing_length _ _ _, setRing_queue _ _ _ fun _ => rfl⟩

/-- A buffer that is open closes where a descriptor is there. -/
theorem closeBuffer_closes {b : DmaBuf} (hbuf : (ringOf s r).buf = some b) (hdescs : (ringOf s r).descs ≠ []) :
    (ringOf (closeBuffer s r) r).buf = none := by
  have hin : r < s.mov.rings.length := ring_in fun h => by rw [h] at hbuf; cases hbuf
  obtain ⟨d, rest, h⟩ := List.exists_cons_of_ne_nil hdescs
  unfold closeBuffer
  rw [hbuf]
  dsimp only
  split
  · rw [ringOf_setRing _ hin]
  · obtain ⟨hmov, -, -⟩ := complete_takes s r b.used b.records
      (1 + 2 * b2n b.first + 4 * b2n b.last + 8 * b2n b.poison) h
    rw [ringOf_congr hmov, ringOf_setRing _ hin]

/-- A ring that halts is free, and what waits for it stays. -/
theorem ringHalt_frees : ringKind (ringHalt s r) r = 0
    ∧ (∀ g j, outsideCompletion g = true → apart Obj.MOV_RING.KIND g = true → rd (ringHalt s r) g j = rd s g j)
    ∧ (ringOf (ringHalt s r) r).queue = (ringOf s r).queue := by
  obtain ⟨hrd, -, hqueue⟩ := closeBuffer_keeps s r
  unfold ringHalt
  refine ⟨?_, fun g j hg hkind => ?_, ?_⟩
  · rw [ringKind, rd_setRing, rd_wr_same, Nat.zero_mod]
  · rw [rd_setRing, rd_wr_apart _ _ _ _ hkind, hrd g j hg]
  · refine (setRing_queue _ _ _ ?_).trans ?_
    · exact fun _ => rfl
    · rw [ringOf_congr (wr_mov _ _ _ _), hqueue]

theorem ringSettled_keeps : (∀ g j, outsideCompletion g = true → apart Obj.MOV_RING.KIND g = true →
      rd (ringSettled s r) g j = rd s g j) ∧ (ringOf (ringSettled s r) r).queue = (ringOf s r).queue := by
  unfold ringSettled
  split
  · obtain ⟨-, hrd, hqueue⟩ := ringHalt_frees s r
    exact ⟨hrd, hqueue⟩
  · exact ⟨fun _ _ _ _ => rfl, rfl⟩

/-- An error of a ring that runs is shown, and TAIL stays. -/
theorem ringError_shows (h : ringRuns s r = true) : rd (ringError s r) Obj.MOV_RING_STATUS.ERROR r = 1
    ∧ rd (ringError s r) Obj.MOV_RING_STATUS.TAIL r = rd s Obj.MOV_RING_STATUS.TAIL r := by
  have hno : flag s Obj.MOV_RING_STATUS.ERROR r = false := by
    simp only [ringRuns, Bool.and_eq_true, Bool.not_eq_true'] at h
    exact h.2
  obtain ⟨hrd, -⟩ := ringSettled_keeps (ringErrorSet s r) r
  unfold ringError
  rw [hrd _ _ (by decide) (by decide), hrd _ _ (by decide) (by decide), ringErrorSet, if_neg (by rw [hno]; decide),
    rd_raise _ _ _ _ _ _ (by decide), rd_raise _ _ _ _ _ _ (by decide), ringBit, if_neg (by rw [hno]; decide), rd_emit,
    rd_emit, rd_wr_same, rd_wr_apart _ _ _ _ (by decide)]
  exact ⟨rfl, rfl⟩

end

/-! ### Doorbells, kinds, descriptors, time-outs (R284 to R288, R293) -/

theorem ringDoorbell_tail (r : Fin 64) (tail : Fin 65536) (s : State) :
    ∃ t, exec (.ringDoorbell r tail) s = .next t ∧ rd t Obj.MOV_RING_STATUS.TAIL r = tail
      ∧ (ringRuns s r = true → ringKind s r ≠ 3 →
          2 ^ rd s Obj.MOV_RING.SIZE_LOG r ≤ (tail.val + 65536 - rd s Obj.MOV_RING_STATUS.HEAD r) % 65536 →
          rd t Obj.MOV_RING_STATUS.ERROR r = 1) := by
  generalize hu : wr s Obj.MOV_RING_STATUS.TAIL r tail = u
  have htail : rd u Obj.MOV_RING_STATUS.TAIL r = tail.val := by
    rw [← hu, rd_wr_same]
    exact Nat.mod_eq_of_lt tail.isLt
  have howned : ringOwned u r = (tail.val + 65536 - rd s Obj.MOV_RING_STATUS.HEAD r) % 65536 := by
    rw [ringOwned, htail, ← hu, rd_wr_apart _ _ _ _ (by decide)]
  have hruns : ringRuns u r = ringRuns s r := by
    rw [ringRuns, ringRuns, ringKind, ringKind, flag, flag, ← hu, rd_wr_apart _ _ _ _ (by decide),
      rd_wr_apart _ _ _ _ (by decide)]
  show ∃ t, execRingDoorbell r tail s = .next t ∧ _
  unfold execRingDoorbell
  dsimp only
  rw [hu, howned]
  split
  · next hwhole =>
    simp only [Bool.and_eq_true] at hwhole
    obtain ⟨herror, hkept⟩ := ringError_shows u r (by rw [hruns]; exact hwhole.1.1)
    exact ⟨_, rfl, hkept.trans htail, fun _ _ _ => herror⟩
  · next hfree =>
    refine ⟨u, rfl, htail, fun h1 h2 h3 => absurd ?_ hfree⟩
    simp [h1, h2, h3]

theorem ringKindWrite_acts (r : Fin 64) (kind : Fin 4) (s : State) :
    (kindStatus s r kind ≠ 0 → exec (.ringKindWrite r kind) s = .next s)
    ∧ (kindStatus s r kind = 0 → kind.val ≠ 0 → ∃ t, exec (.ringKindWrite r kind) s = .next t ∧ ringKind t r = kind
      ∧ rd t Obj.MOV_RING_STATUS.HEAD r = 0 ∧ rd t Obj.MOV_RING_STATUS.TAIL r = 0
      ∧ rd t Obj.MOV_RING_STATUS.ERROR r = 0)
    ∧ (kind.val = 0 → ((ringOf s r).part.isSome && ringRuns s r) = false →
      ∃ t, exec (.ringKindWrite r kind) s = .next t ∧ ringKind t r = 0)
    ∧ (kind.val = 0 → ((ringOf s r).part.isSome && ringRuns s r) = true →
      ∃ t, exec (.ringKindWrite r kind) s = .next t ∧ ringKind t r = ringKind s r
        ∧ ringOf t r = { ringOf s r with stopping := true }) := by
  have hstop (hkind : kind.val = 0) : kindStatus s r kind = 0 := by
    unfold kindStatus
    rw [hkind]
    simp
  refine ⟨fun hst => if_neg hst, fun hst hkind => ⟨_, if_pos hst, ?_⟩, fun hkind hpart => ⟨_, if_pos (hstop hkind), ?_⟩,
    fun hkind hpart => ⟨_, if_pos (hstop hkind), ?_⟩⟩
  · have hfree : ringKind s r = 0 := by
      by_contra hused
      unfold kindStatus at hst
      rw [if_pos (.inl ⟨hused, hkind⟩)] at hst
      cases hst
    have hend (u : State) (code inst : Nat) (f : Field) (j : Nat) : rd (endFault u code inst) f j = rd u f j := rfl
    rw [kindWrite, if_neg hkind, if_pos hfree, ringStart, ringKind]
    simp only [hend, rd_setRing]
    refine ⟨?_, ?_, ?_, ?_⟩
    · rw [rd_wr_apart _ _ _ _ (by decide), rd_wr_apart _ _ _ _ (by decide), rd_wr_apart _ _ _ _ (by decide), rd_wr_same]
      exact Nat.mod_eq_of_lt kind.isLt
    · rw [rd_wr_apart _ _ _ _ (by decide), rd_wr_apart _ _ _ _ (by decide), rd_wr_same, Nat.zero_mod]
    · rw [rd_wr_apart _ _ _ _ (by decide), rd_wr_same, Nat.zero_mod]
    · rw [rd_wr_same, Nat.zero_mod]
  · rw [kindWrite, if_pos hkind]
    split
    · assumption
    · obtain ⟨hfreed, -, -⟩ := ringHalt_frees s r
      rw [ringStop, if_neg (by rw [hpart]; decide)]
      exact hfreed
  · have hboth := hpart
    rw [Bool.and_eq_true] at hboth
    obtain ⟨hsome, hruns⟩ := hboth
    have hused : ringKind s r ≠ 0 := by
      simp only [ringRuns, Bool.and_eq_true, decide_eq_true_eq] at hruns
      exact hruns.1
    have hin : r.val < s.mov.rings.length := ring_in fun h => by rw [h] at hsome; cases hsome
    rw [kindWrite, if_pos hkind, if_neg hused, ringStop, if_pos hpart]
    exact ⟨rd_setRing _ _ _ _ _, ringOf_setRing _ hin⟩

theorem coalesceTimeout_closes (r : Fin 64) (s : State) (b : DmaBuf) (hbuf : (ringOf s r).buf = some b) :
    (s.time.rc64 < b.openedAt + 1600 * rd s Obj.MOV_RING.COALESCE_US r → exec (.coalesceTimeout r) s = .next s)
    ∧ (b.openedAt + 1600 * rd s Obj.MOV_RING.COALESCE_US r ≤ s.time.rc64 →
      ((ringOf s r).part = none → (ringOf s r).descs ≠ [] →
        ∃ t, exec (.coalesceTimeout r) s = .next t ∧ (ringOf t r).buf = none)
      ∧ ((ringOf s r).part ≠ none →
        ∃ t, exec (.coalesceTimeout r) s = .next t ∧ (ringOf t r).buf = some { b with timeUp := true })) := by
  have hin : r.val < s.mov.rings.length := ring_in fun h => by rw [h] at hbuf; cases hbuf
  have hrun : exec (.coalesceTimeout r) s
      = if s.time.rc64 < b.openedAt + 1600 * rd s Obj.MOV_RING.COALESCE_US r then .next s
        else if (ringOf s r).part.isSome then
          .next (setRing s r (fun x => { x with buf := some { b with timeUp := true } }))
        else .next (closeBuffer s r) := by
    show execCoalesceTimeout r s = _
    unfold execCoalesceTimeout
    rw [hbuf]
  rw [hrun]
  refine ⟨fun hearly => if_pos hearly, fun hlate => ⟨fun hpart hdescs => ?_, fun hpart => ?_⟩⟩
  · exact ⟨_, (if_neg (by omega)).trans (if_neg (by rw [hpart]; decide)), closeBuffer_closes s r hbuf hdescs⟩
  · refine ⟨_, (if_neg (by omega)).trans (if_pos (Option.isSome_iff_ne_none.2 hpart)), ?_⟩
    rw [ringOf_setRing _ hin]

theorem descriptorFetchDone_acts (r : Fin 64) (addr len ctrl rsv : Nat) (s : State) (hlen : s.mov.rings.length = 64)
    (hruns : ringRuns s r = true) (hkind : ringKind s r = 1 ∨ ringKind s r = 2) (hroom : (ringOf s r).descs.length < 8)
    (howned : (ringOf s r).descs.length < ringOwned s r) :
    (descriptorLegal addr len ctrl rsv = true → ringKind s r = 1 ∨ (ringOf s r).part = none →
      ∃ t, exec (.descriptorFetchDone r addr len ctrl rsv false) s = .next t
        ∧ (ringOf t r).descs = (ringOf s r).descs ++ [⟨addr, len, bit ctrl 0⟩])
    ∧ ∀ error, (error = true ∨ descriptorLegal addr len ctrl rsv = false) →
      ∃ t, exec (.descriptorFetchDone r addr len ctrl rsv error) s = .next t
        ∧ rd t Obj.MOV_RING_STATUS.ERROR r = 1 := by
  have hfetches : (ringRuns s r && (ringKind s r == 1 || ringKind s r == 2) && decide ((ringOf s r).descs.length < 8)
      && decide ((ringOf s r).descs.length < ringOwned s r)) = true := by
    simp [hruns, hkind, hroom, howned]
  obtain ⟨herror, -⟩ := ringError_shows s r hruns
  refine ⟨fun hlegal hdone => ⟨_, (if_pos hfetches).trans (if_neg (by rw [hlegal]; decide)), ?_⟩,
    fun error hbad => ⟨_, (if_pos hfetches).trans (if_pos ?_), herror⟩⟩
  · rw [if_neg, ringOf_setRing _ (by rw [hlen]; exact r.isLt)]
    intro hboth
    simp only [Bool.and_eq_true, beq_iff_eq] at hboth
    obtain h | h := hdone
    · omega
    · rw [h] at hboth
      cases hboth.2
  · obtain h | h := hbad
    · rw [h]
      rfl
    · rw [h]
      simp

theorem cplTimeout_stops (r : Fin 64) (s : State) (hruns : ringRuns s r = true) (hkind : ringKind s r ≠ 3) :
    ∃ t, exec (.cplTimeout r) s = .next t ∧ rd t Obj.MOV_RING_STATUS.ERROR r = 1 := by
  obtain ⟨herror, -⟩ := ringError_shows s r hruns
  exact ⟨_, if_pos (by simp [hruns, hkind]), herror⟩

theorem ringNoBuffer_shows (r : Fin 64) (s : State) (hruns : ringRuns s r = true) (hkind : ringKind s r = 1)
    (hwaits : recordWaits s r = true) (hdescs : (ringOf s r).descs = []) :
    ∃ t, exec (.ringNoBuffer r) s = .next t ∧ flag t Obj.MOV_RING_STATUS.NO_BUF r = true
      ∧ (s.flt.active.length < 1024 → faultActive t 0x0C08 r = true) := by
  have hshown := flag_ringBit s r (f := Obj.MOV_RING_STATUS.NO_BUF) rfl
  refine ⟨_, if_pos (by simp [hruns, hkind, hwaits, hdescs]), ?_⟩
  split
  · next hactive =>
    refine ⟨hshown, fun _ => ?_⟩
    unfold faultActive findFault
    rw [ringBit_flt]
    exact hactive
  · refine ⟨?_, fun hroom => raise_active _ _ _ _ _ (by rw [ringBit_flt]; exact hroom)⟩
    rw [flag, rd_raise _ _ _ _ _ _ (by decide)]
    exact hshown

/-! ### A record that is written whole (R283, R286) -/

theorem mem_out_complete {s : State} {r : Nat} (used records status : Nat) (h : (ringOf s r).descs ≠ []) {o : Out}
    (ho : o ∈ s.out) : o ∈ (complete s r used records status).out := by
  obtain ⟨value, hsuffix⟩ := out_suffix_complete used records status h
  exact hsuffix.subset (List.mem_cons_of_mem _ ho)

/-- A record that fits an empty buffer is written at its start, and the buffer closes where nothing is packed. -/
theorem writeRecord_fits {s : State} {r : Nat} {rec : DmaRecord} {d : Descriptor} {ds : List Descriptor}
    (hdescs : (ringOf s r).descs = d :: ds) (hbuf : (ringOf s r).buf = none) (hfits : rec.bytes.length ≤ d.len)
    (hpack : rd s Obj.MOV_RING.PACK r = 0) :
    writeRecord 20 s r rec 0 = (closeBuffer (writePiece s r d 0 rec.bytes true true rec.poison) r, none) := by
  have hopen : openBuffer s r = ⟨0, 0, false, false, false, s.time.rc64, false⟩ := by rw [openBuffer, hbuf]; rfl
  have hwhole : rec.bytes.take d.len = rec.bytes := List.take_of_length_le hfits
  rw [writeRecord, hdescs]
  simp [hopen, hwhole, up8, flag, hpack]

theorem dmaRecordWrite_writes (r : Fin 64) (s : State) (rec : DmaRecord) (rest : List DmaRecord) (d : Descriptor)
    (ds : List Descriptor) (hruns : ringRuns s r = true) (hkind : ringKind s r = 1)
    (hqueue : (ringOf s r).queue = rec :: rest) (hsrc : rec.src = .plain) (hrec : rec.kind = 1) (hsome : rec.bytes ≠ [])
    (hpart : (ringOf s r).part = none) (hbuf : (ringOf s r).buf = none) (hstopping : (ringOf s r).stopping = false)
    (hdescs : (ringOf s r).descs = d :: ds) (hfits : rec.bytes.length ≤ d.len) (hpack : rd s Obj.MOV_RING.PACK r = 0) :
    ∃ t, exec (.dmaRecordWrite r 0) s = .next t ∧ (ringOf t r).queue = rest ∧ (ringOf t r).descs = ds
      ∧ rd t Obj.MOV_RING_STATUS.HEAD r = (rd s Obj.MOV_RING_STATUS.HEAD r + 1) % 2 ^ 16
      ∧ rd t Obj.MOV_RING_STATUS.RECORDS r
          = (rd s Obj.MOV_RING_STATUS.RECORDS r + 1) % 2 ^ Obj.MOV_RING_STATUS.RECORDS.width
      ∧ .hostWrite d.addr rec.bytes.length (ofLe rec.bytes) ∈ t.out := by
  have hin : r.val < s.mov.rings.length := ring_in fun h => by rw [h] at hqueue; cases hqueue
  generalize hu : writePiece s r d 0 rec.bytes true true rec.poison = u
  have hwritten : u.mov.rings.length = s.mov.rings.length ∧ (ringOf u r).descs = d :: ds
      ∧ (ringOf u r).queue = rec :: rest ∧ (ringOf u r).stopping = false
      ∧ (∃ b, (ringOf u r).buf = some b ∧ b.used = rec.bytes.length)
      ∧ (∀ g j, rd u g j = rd s g j) ∧ .hostWrite d.addr rec.bytes.length (ofLe rec.bytes) ∈ u.out := by
    have hlen : (emit s (.hostWrite (d.addr + 0) rec.bytes.length (ofLe rec.bytes))).mov.rings.length
        = s.mov.rings.length := rfl
    rw [← hu, writePiece, setRing_length, ringOf_setRing _ (by rw [hlen]; exact hin)]
    exact ⟨hlen, hdescs, hqueue, hstopping, ⟨_, rfl, Nat.zero_add _⟩, fun _ _ => rfl, List.mem_cons_self⟩
  obtain ⟨hulen, hudescs, huqueue, hustop, ⟨b, hub, hused⟩, hurd, huout⟩ := hwritten
  have hclosed : closeBuffer u r = complete u r b.used b.records
      (1 + 2 * b2n b.first + 4 * b2n b.last + 8 * b2n b.poison) := by
    unfold closeBuffer
    rw [hub]
    exact if_neg (by rw [hused]; exact fun h => hsome (List.length_eq_zero_iff.1 h))
  obtain ⟨hcmov, hchead, hcrd⟩ := complete_takes u r b.used b.records
    (1 + 2 * b2n b.first + 4 * b2n b.last + 8 * b2n b.poison) hudescs
  rw [← hclosed] at hcmov hchead hcrd
  have hcout : .hostWrite d.addr rec.bytes.length (ofLe rec.bytes) ∈ (closeBuffer u r).out := by
    rw [hclosed]
    exact mem_out_complete _ _ _ (by rw [hudescs]; exact List.cons_ne_nil _ _) huout
  generalize hv : closeBuffer u r = v at hcmov hchead hcrd hcout
  have hvring : v.mov.rings.length = s.mov.rings.length ∧ ringOf v r = { ringOf u r with descs := ds, buf :=
      none } := by
    rw [ringOf_congr hcmov, hcmov, setRing_length, hulen]
    exact ⟨rfl, ringOf_setRing _ (by rw [hulen]; exact hin)⟩
  obtain ⟨hvlen, hvring⟩ := hvring
  generalize hw : setRing v r (fun x => { x with queue := x.queue.drop 1, part := none }) = w
  have hwring : ringOf w r = { ringOf v r with queue := rest, part := none } := by
    rw [← hw, ringOf_setRing _ (by rw [hvlen]; exact hin), hvring]
    dsimp only
    rw [huqueue]
    rfl
  have hrun : exec (.dmaRecordWrite r 0) s = .next (bump w Obj.MOV_RING_STATUS.RECORDS r 1) := by
    have hown : withRecord s r (0 : Fin 4) = s := by
      rw [withRecord, if_neg (by rw [hpart, hstopping]; decide)]
      rfl
    have hdone : recordDone v r rec = bump w Obj.MOV_RING_STATUS.RECORDS r 1 := by
      rw [recordDone, hsrc]
      dsimp only
      rw [hw, ringSettled, if_neg]
      rw [bump, ringOf_congr (wr_mov _ _ _ _), hwring, hvring]
      dsimp only
      rw [hustop]
      decide
    show execDmaRecordWrite r 0 s = _
    unfold execDmaRecordWrite
    rw [if_pos (by rw [hruns, hkind, hdescs]; rfl), hown]
    dsimp only
    rw [hqueue]
    dsimp only
    rw [if_neg (by rw [hrec]; decide), hpart, Option.getD_none, writeRecord_fits hdescs hbuf hfits hpack, hu, hv, ←
        hdone]
  refine ⟨_, hrun, ?_, ?_, ?_, ?_, ?_⟩
  · rw [bump, ringOf_congr (wr_mov _ _ _ _), hwring]
  · rw [bump, ringOf_congr (wr_mov _ _ _ _), hwring, hvring]
  · rw [bump, rd_wr_apart _ _ _ _ (by decide), ← hw, rd_setRing, hchead, hurd]
  · rw [rd_bump_same, ← hw, rd_setRing, hcrd _ _ (by decide), hurd]
  · rw [bump, wr_out, ← hw]
    exact hcout

/-! ### Records on network ports (R343, R344) -/

/-- A record that is sent counts for its template, and what waits elsewhere stays. -/
theorem sendSegments_seq (n : Nat) (s : State) (port template source size idx offset : Nat) (rest : Bytes) :
    (sendSegments n s port template source size idx offset rest).net.recordSeq = s.net.recordSeq := by
  have hone (u : State) (i o : Nat) (last : Bool) (x : Bytes) :
      (sendSegment u port template source i last o x).net.recordSeq = u.net.recordSeq := by
    unfold sendSegment
    dsimp only
    rw [bump, wr_net]
    rfl
  induction n generalizing s idx offset rest with
  | zero => rfl
  | succ n ih =>
    unfold sendSegments
    dsimp only
    split
    · exact hone _ _ _ _ _
    · rw [ih, hone]

theorem sendRecord_seq (s : State) (port template source : Nat) (rec : Bytes) :
    mapGet (sendRecord s port template source rec).net.recordSeq template
      = (mapGet s.net.recordSeq template + 1) % 2 ^ 32 := by
  unfold sendRecord
  dsimp only
  rw [mapGet_mapSet_same, sendSegments_seq]

theorem sendRecord_touches (s : State) (port template source : Nat) (rec : Bytes) :
    Touches [.net, .out, .obj 0x0F04] s (sendRecord s port template source rec) :=
  touches_sendRecord (.refl _ _) _ _ _ _ (by decide)

theorem netSettled_touches (s : State) (port : Nat) : Touches [.pwr, .obj 0x0A04, .obj 0x0F04] s (netSettled s port) :=
  touches_netSettled (.refl _ _) _ (by decide)

theorem netRecordSend_ring (src : Fin 67) (s : State) (rec : DmaRecord) (rest : List DmaRecord) (hsrc : src.val < 64)
    (hkind : ringKind s src = 3) (hup : netPortUp s (rd s Obj.MOV_RING.NET_PORT src) = true)
    (hqueue : (ringOf s src).queue = rec :: rest) (hplain : rec.src = .plain) (hrec : rec.kind = 3) :
    ∃ t, exec (.netRecordSend src) s = .next t ∧ (ringOf t src).queue = rest
      ∧ mapGet t.net.recordSeq (rd s Obj.MOV_RING.TEMPLATE src)
          = (mapGet s.net.recordSeq (rd s Obj.MOV_RING.TEMPLATE src) + 1) % 2 ^ 32 := by
  have hin : src.val < s.mov.rings.length := ring_in fun h => by rw [h] at hqueue; cases hqueue
  generalize htemplate : rd s Obj.MOV_RING.TEMPLATE src = template
  generalize hport : rd s Obj.MOV_RING.NET_PORT src = port at hup
  generalize hu : sendRecord s port template src rec.bytes = u
  have hsent : u.mov = s.mov ∧ mapGet u.net.recordSeq template = (mapGet s.net.recordSeq template + 1) % 2 ^ 32 := by
    rw [← hu]
    exact ⟨(sendRecord_touches s _ _ _ _).mov_eq, sendRecord_seq _ _ _ _ _⟩
  obtain ⟨humov, huseq⟩ := hsent
  have hdone : (ringOf (recordDone u src rec) src).queue = rest ∧ (recordDone u src rec).net = u.net := by
    have htouches : Touches [.evt, .flt, .mov, .notes, .out, .obj 0x0604, .obj 0x0C03, .obj 0x0C04, .obj 0x0C06] u
        (recordDone u src rec) := touches_recordDone (.refl _ _) _ _ (by decide)
    refine ⟨?_, htouches.net_eq⟩
    unfold recordDone
    dsimp only
    rw [hplain]
    dsimp only
    obtain ⟨-, hkept⟩ := ringSettled_keeps (bump (setRing u src fun x =>
      { x with queue := x.queue.drop 1, part := none }) Obj.MOV_RING_STATUS.RECORDS src 1) src
    rw [hkept, bump, ringOf_congr (wr_mov _ _ _ _), ringOf_setRing _ (by rw [humov]; exact hin), ringOf_congr humov]
    dsimp only
    rw [hqueue]
    rfl
  obtain ⟨hrest, hnet⟩ := hdone
  have hsettled := netSettled_touches (recordDone u src rec) port
  refine ⟨netSettled (recordDone u src rec) port, ?_, ?_, ?_⟩
  · show execNetRecordSend src s = _
    unfold execNetRecordSend
    dsimp only
    rw [if_pos hsrc, hqueue, hport]
    dsimp only
    rw [if_pos ⟨hkind, hrec, hup⟩, htemplate, hu]
  · rw [ringOf_congr hsettled.mov_eq, hrest]
  · rw [hsettled.net_eq, hnet, huseq]

theorem netRecordSend_dump (s : State) (d : DumpRecord) (rest : List DumpRecord) (hdumps : s.dah.dumps = d :: rest)
    (hdest : d.dest = 2) (hup : netPortUp s d.port = true) :
    ∃ t, exec (.netRecordSend 64) s = .next t ∧ t.dah.dumps = rest ++ s.dah.toQueue.take 1
      ∧ mapGet t.net.recordSeq (28 + d.port) = (mapGet s.net.recordSeq (28 + d.port) + 1) % 2 ^ 32 := by
  have hrun : exec (.netRecordSend 64) s = .next (netSettled (sendRecord (dumpTaken s) d.port (28 + d.port) 64
      (d.header ++ d.payload ++ d.trailer)) d.port) := by
    show execNetRecordSend 64 s = _
    unfold execNetRecordSend
    rw [if_neg (by decide), if_pos (by decide), hdumps]
    exact if_pos ⟨hdest, hup⟩
  refine ⟨_, hrun, ?_, ?_⟩
  · rw [(netSettled_touches _ _).dah_eq, (sendRecord_touches _ _ _ _ _).dah_eq, dumpTaken, setDah_dah, hdumps]
    rfl
  · rw [(netSettled_touches _ _).net_eq, sendRecord_seq, dumpTaken, setDah_net]

theorem netRecordSend_beam (s : State) (b : Bytes) (rest : List Bytes) (hqueue : s.sun.queue = b :: rest)
    (hdest : rd s Obj.SUN_CTRL.DEST = 1) (hup : netPortUp s (rd s Obj.SUN_CTRL.PORT) = true) :
    ∃ t, exec (.netRecordSend 65) s = .next t ∧ t.sun.queue = rest
      ∧ mapGet t.net.recordSeq 30 = (mapGet s.net.recordSeq 30 + 1) % 2 ^ 32 := by
  have hrun : exec (.netRecordSend 65) s = .next (netSettled (sendRecord (lossyShow (setSun s fun u =>
      { u with queue := rest }) 1 (beamQueueBytes rest) 1048576 (rd s Obj.MOV_LOSSY.HIGH_WM 1))
        (rd s Obj.SUN_CTRL.PORT) 30 65 b) (rd s Obj.SUN_CTRL.PORT)) := by
    show execNetRecordSend 65 s = _
    unfold execNetRecordSend
    rw [if_neg (by decide), if_neg (by decide), if_pos (by decide), hqueue]
    exact if_pos ⟨hdest, hup⟩
  refine ⟨_, hrun, ?_, ?_⟩
  · rw [(netSettled_touches _ _).sun_eq, (sendRecord_touches _ _ _ _ _).sun_eq, (lossyShow_touches _ _ _ _ _).sun_eq,
      setSun_sun]
  · rw [(netSettled_touches _ _).net_eq, sendRecord_seq, (lossyShow_touches _ _ _ _ _).net_eq, setSun_net]

theorem netRecordSend_event (s : State) (e : BuiltEvent) (rest : List BuiltEvent) (hout : s.conc.out = e :: rest)
    (hdest : e.dest = 1) (hup : netPortUp s e.port = true) (hready : s.conc.ready = []) :
    ∃ t, exec (.netRecordSend 66) s = .next t ∧ t.conc.out = rest
      ∧ mapGet t.net.recordSeq 31 = (mapGet s.net.recordSeq 31 + 1) % 2 ^ 32 := by
  have htaken : eventTaken s = setConc s fun x => { x with out := x.out.drop 1 } := by
    rw [eventTaken, hready]
    rfl
  have hrun : exec (.netRecordSend 66) s = .next (netSettled (sendRecord (setConc s fun x =>
      { x with out := x.out.drop 1 }) e.port 31 66 e.bytes) e.port) := by
    show execNetRecordSend 66 s = _
    unfold execNetRecordSend
    rw [if_neg (by decide), if_neg (by decide), if_neg (by decide), hout, htaken]
    exact if_pos ⟨hdest, hup⟩
  refine ⟨_, hrun, ?_, ?_⟩
  · rw [(netSettled_touches _ _).conc_eq, (sendRecord_touches _ _ _ _ _).conc_eq, setConc_conc, hout]
    rfl
  · rw [(netSettled_touches _ _).net_eq, sendRecord_seq, setConc_net]

/-- Settles O38: each event of a ring by its row. -/
theorem ringsComplete : Obligations.RingsComplete := by
  exact ⟨ringDoorbell_tail, ringKindWrite_acts, dmaRecordWrite_writes, coalesceTimeout_closes,
    descriptorFetchDone_acts, cplTimeout_stops, ringNoBuffer_shows, netRecordSend_ring, netRecordSend_dump,
    netRecordSend_beam, netRecordSend_event⟩

end Sys2Proof
end

section
/-! PROOF. PROOF. Mailboxes, completions, notices, BAR0 and BAR2 (O48). -/

namespace Sys2Proof

-- one proof at a time, which bounds the memory of the compile
set_option Elab.async false

open Sys2Proof.Machine

/-! ### Requests of a mailbox (R355 to R357) -/

section
variable {m : Nat} {s : State}

theorem hostErr_counts (s : State) : (hostErr s).ctl.hostErrs = (s.ctl.hostErrs + 1) % 2 ^ 32 := by
  rw [hostErr, setCtl_ctl]

theorem mailOf_hostErr (s : State) (m : Nat) : mailOf (hostErr s) m = mailOf s m := by
  rw [mailOf, mailOf, hostErr, setCtl_ctl]

theorem mailOf_congr {t : State} (h : t.ctl = s.ctl) (m : Nat) : mailOf t m = mailOf s m := by
  unfold mailOf
  rw [h]

/-- A frame of an opcode that Ronec knows, with a SEQ that has not come, joins the queue. -/
theorem acceptFrame_joins {b : Bytes} {len : Nat} (hin : m < s.ctl.mailboxes.length) (hempty : (mailOf s m).queue = [])
    (hknown : opcodeKnown (leAt b 0 2) = true)
    (hnew : (mailOf s m).cache.find? (fun e => e.seq == leAt b 4 4) = none) :
    (mailOf (acceptFrame s m b len) m).queue = [⟨leAt b 0 2, bit (leAt b 3 1) 0, leAt b 4 4,
      (b.take (len - 8)).drop 16, s.time.rc64, false, 0, []⟩] := by
  have hsetMail (u : State) (f : Mailbox → Mailbox) : (setMail u m f).ctl.mailboxes.length = u.ctl.mailboxes.length :=
    upd_length _ _ _
  unfold acceptFrame
  dsimp only
  rw [hnew, hempty]
  dsimp only
  generalize hu : setMail (setMail s m _) m _ = u
  have hqueue : (mailOf u m).queue = [⟨leAt b 0 2, bit (leAt b 3 1) 0, leAt b 4 4,
      (b.take (len - 8)).drop 16, s.time.rc64, false, 0, []⟩] := by
    rw [← hu, mailOf_setMail _ (by rw [hsetMail]; exact hin), mailOf_setMail _ hin]
    dsimp only
    rw [hempty]
    rfl
  rw [List.length_nil, Nat.zero_add, settle, hqueue]
  dsimp only
  rw [hknown, Bool.true_or, if_pos rfl]
  exact hqueue

/-- A frame that is not in form is counted, and its refusal is the newest completion. -/
theorem frame_refused (s : State) {m : Nat} (c : Completion) (inst a : Nat) (hin : m < s.ctl.mailboxes.length) :
    (raise (hostErr (addDone s m c)) 0x1006 m inst a).ctl.hostErrs = (s.ctl.hostErrs + 1) % 2 ^ 32
    ∧ (mailOf (raise (hostErr (addDone s m c)) 0x1006 m inst a) m).queue = (mailOf s m).queue
    ∧ (mailOf (raise (hostErr (addDone s m c)) 0x1006 m inst a) m).done.getLast? = some c := by
  have hctl := (raise_touches (hostErr (addDone s m c)) 0x1006 m inst a).ctl_eq
  have hmail : mailOf (raise (hostErr (addDone s m c)) 0x1006 m inst a) m
      = { mailOf s m with done := (mailOf s m).done ++ [c] } := by
    rw [mailOf_congr hctl, mailOf_hostErr, addDone, mailOf_setMail _ hin]
  rw [hctl, hmail, hostErr_counts]
  exact ⟨rfl, rfl, List.getLast?_concat ..⟩

end

theorem mailboxDoorbell_takes (m : Fin 8) (len : Fin 8192) (frame : List Nat) (s : State)
    (howned : (mailOf s m).owned = false) (hrom : romServes s = false) (hmode : modeOf s ≠ .vigil)
    (hlen : s.ctl.mailboxes.length = 8) :
    let b := padTo len.val (frame.map (· % 256))
    (frameStatus m b len.val = 0 → (mailOf s m).queue = [] → opcodeKnown (leAt b 0 2) = true →
      (mailOf s m).cache.find? (fun e => e.seq == leAt b 4 4) = none →
      ∃ t, exec (.mailboxDoorbell m len frame) s = .next t
        ∧ (mailOf t m).queue = [⟨leAt b 0 2, bit (leAt b 3 1) 0, leAt b 4 4, (b.take (len.val - 8)).drop 16,
            s.time.rc64,
            false, 0, []⟩])
    ∧ (frameStatus m b len.val ≠ 0 →
      ∃ t, exec (.mailboxDoorbell m len frame) s = .next t ∧ t.ctl.hostErrs = (s.ctl.hostErrs + 1) % 2 ^ 32
        ∧ (mailOf t m).queue = (mailOf s m).queue
        ∧ ((mailOf t m).done.getLast?.map (fun c => c.response.status)) = some (frameStatus m b len.val)) := by
  intro b
  have hin : m.val < s.ctl.mailboxes.length := by rw [hlen]; exact m.isLt
  have hawake : (if modeOf s = .vigil && !ronecServes s then pairUp s else s) = s := if_neg (by simp [hmode])
  have hrun : exec (.mailboxDoorbell m len frame) s = if frameStatus m b len = 0 then .next (acceptFrame s m b len)
      else .next (raise (hostErr (addDone s m ⟨leAt b 0 2, leAt b 2 1, leAt b 4 4, 3, bit (leAt b 3 1) 0, s.time.rc64,
        ⟨frameStatus m b len, 0, []⟩⟩)) 0x1006 m m (leAt b 4 4)) := by
    show execMailboxDoorbell m len frame s = _
    unfold execMailboxDoorbell
    dsimp only
    rw [if_neg (by simp [howned, hrom]), hawake]
  rw [hrun]
  refine ⟨fun hform hempty hknown hnew => ⟨_, if_pos hform, acceptFrame_joins hin hempty hknown hnew⟩,
    fun hbad => ⟨_, if_neg hbad, ?_⟩⟩
  obtain ⟨herrs, hqueue, hlast⟩ := frame_refused s ⟨leAt b 0 2, leAt b 2 1, leAt b 4 4, 3, bit (leAt b 3 1) 0,
    s.time.rc64, ⟨frameStatus m b len, 0, []⟩⟩ m (leAt b 4 4) hin
  exact ⟨herrs, hqueue, by rw [hlast]; rfl⟩

theorem mailboxDoorbell_owned (m : Fin 8) (len : Fin 8192) (frame : List Nat) (s : State)
    (h : ((mailOf s m).owned || (romServes s && decide (m.val ≠ 0))) = true) :
    ∃ t, exec (.mailboxDoorbell m len frame) s = .next t ∧ t.ctl.hostErrs = (s.ctl.hostErrs + 1) % 2 ^ 32
      ∧ mailOf t m = mailOf s m :=
  ⟨_, if_pos h, hostErr_counts s, mailOf_hostErr s m⟩

/-! ### Completions and notices go to their rings (R358) -/

theorem ringSlot_touches (s : State) (r : HostRing) (slot : Nat) (b : Bytes) (irq : Bool) :
    Touches [.out] s (ringSlot s r slot b irq) := touches_ringSlot (.refl _ _) _ _ _ _ (by decide)

theorem completionWrite_writes (m : Fin 8) (s : State) (c : Completion) (rest : List Completion)
    (hdone : (mailOf s m).done = c :: rest) (hroom : (mailOf s m).ring.room = true) (hserved : mailServed s m = true) :
    ∃ t, exec (.completionWrite m) s = .next t ∧ (mailOf t m).done = rest
      ∧ (mailOf t m).ring.head = ((mailOf s m).ring.head + 1) % 2 ^ 64 := by
  have hslot := ringSlot_touches s (mailOf s m).ring 512 c.bytes c.irq
  have hmail : mailOf (ringSlot s (mailOf s m).ring 512 c.bytes c.irq) m = mailOf s m :=
    mailOf_congr hslot.ctl_eq m
  have hin : m.val < s.ctl.mailboxes.length := by
    by_contra hout
    rw [show mailOf s m = Mailbox.atBoot from nth_beyond _ _ hout] at hdone
    cases hdone
  show ∃ t, execCompletionWrite m s = .next t ∧ _
  unfold execCompletionWrite
  dsimp only
  rw [hdone]
  dsimp only
  rw [if_pos (by rw [hroom, hserved]; rfl)]
  refine ⟨_, rfl, ?_⟩
  rw [mailOf_setMail _ (by rw [hslot.ctl_eq]; exact hin), hmail]
  exact ⟨rfl, rfl⟩

theorem noticeWrite_writes (s : State) (n : Notice) (rest : List Notice) (hqueue : s.notes.queue = n :: rest)
    (hroom : s.notes.ring.room = true) (hserved : noticeServed s n = true) (hfree : noticeFree s n = true)
    (hdropped : s.notes.droppedSince = 0) :
    ∃ t, exec .noticeWrite s = .next t ∧ t.notes.queue = rest
      ∧ t.notes.ring.head = (s.notes.ring.head + 1) % 2 ^ 64 := by
  have hslot := ringSlot_touches s s.notes.ring 64 n.bytes true
  show ∃ t, execNoticeWrite s = .next t ∧ _
  unfold execNoticeWrite
  rw [hqueue]
  dsimp only
  rw [if_pos (by rw [hroom, hserved, hfree]; rfl)]
  refine ⟨_, rfl, ?_⟩
  rw [noticeLost, if_neg (by rw [hslot.notes_eq, hdropped]; simp)]
  dsimp only
  rw [hslot.notes_eq]
  exact ⟨rfl, rfl⟩

/-! ### Notices that were lost (R358) -/

/-- The queue of notices grows at its end. -/
def NoticesGrow (s t : State) : Prop := s.notes.queue <+: t.notes.queue

theorem NoticesGrow.trans {s t u : State} (h : NoticesGrow s t) (k : NoticesGrow t u) : NoticesGrow s u :=
  List.IsPrefix.trans h k

theorem noticesGrow_of_eq {s t : State} (h : t.notes = s.notes) : NoticesGrow s t := by
  rw [NoticesGrow, h]

theorem noticesGrow_notice (s : State) (b : NoticeBody) : NoticesGrow s (notice s b) := by
  unfold NoticesGrow notice noticeAt
  dsimp only
  split
  · exact List.prefix_append _ _
  · exact List.prefix_rfl

theorem noticesGrow_lossyLost (s : State) (q k : Nat) : NoticesGrow s (lossyLost s q k) := by
  unfold lossyLost
  split
  · exact noticesGrow_of_eq rfl
  · dsimp only
    have hbump : NoticesGrow s (bump s Obj.MOV_LOSSY.LOST q k) := noticesGrow_of_eq (wr_notes _ _ _ _)
    split
    · exact hbump
    · exact hbump.trans ((noticesGrow_of_eq (wr_notes _ _ _ _)).trans (noticesGrow_notice _ _))

theorem noticesGrow_lossyShow (s : State) (q n cap wm : Nat) : NoticesGrow s (lossyShow s q n cap wm) := by
  have hshown : NoticesGrow s (wr s Obj.MOV_LOSSY.OCCUPANCY q (100 * n / cap)) := noticesGrow_of_eq (wr_notes _ _ _ _)
  unfold lossyShow
  dsimp only
  split
  · exact hshown.trans ((noticesGrow_of_eq (wr_notes _ _ _ _)).trans (noticesGrow_notice _ _))
  · exact hshown

theorem noticesGrow_logFault (s : State) (code inst event count a : Nat) :
    NoticesGrow s (logFault s code inst event count a) := by
  unfold logFault
  refine NoticesGrow.trans ?_ (noticesGrow_lossyLost _ _ _)
  refine NoticesGrow.trans ?_ (noticesGrow_lossyShow _ _ _ _ _)
  exact noticesGrow_of_eq rfl

theorem noticesGrow_raiseEntry (s : State) (code inst a b detail : Nat) :
    NoticesGrow s (raiseEntry s code inst a b detail) := by
  unfold raiseEntry
  split
  · exact noticesGrow_of_eq rfl
  · refine NoticesGrow.trans ?_ (noticesGrow_notice _ _)
    refine NoticesGrow.trans ?_ (noticesGrow_logFault _ _ _ _ _ _)
    exact noticesGrow_of_eq rfl

theorem noticesGrow_raise (s : State) (code inst a b : Nat) : NoticesGrow s (raise s code inst a b) := by
  unfold raise raiseDetail
  dsimp only
  generalize hu : (if faultActive s code inst || decide (s.flt.active.length < 1024) then
    raiseEntry s code inst a b (detailOf s a b)
    else raiseEntry (raiseEntry s code 0xFFFE a b (detailOf s a b)) 0x100C 0 0 0 0 : State) = u
  have hu : NoticesGrow s u := by
    rw [← hu]
    split
    · exact noticesGrow_raiseEntry _ _ _ _ _ _
    · exact (noticesGrow_raiseEntry _ _ _ _ _ _).trans (noticesGrow_raiseEntry _ _ _ _ _ _)
  have hlog : NoticesGrow s (logWatched s u) := by
    unfold logWatched
    split
    · exact hu
    · exact hu.trans (noticesGrow_raiseEntry _ _ _ _ _ _)
  split
  · exact hlog.trans (noticesGrow_of_eq (forceIdle_touches _ _ _).notes_eq)
  · exact hlog

theorem noticeLost_tells (s : State) (hlost : 0 < s.notes.droppedSince) (hroom : s.notes.queue.length < 64) :
    ∃ t tail, exec .noticeLost s = .next t ∧ t.notes.queue = s.notes.queue
      ++ ⟨s.notes.seq, ts96Now s, .lost s.notes.droppedSince s.notes.droppedTotal⟩ :: tail := by
  have htold : (notice s (.lost s.notes.droppedSince s.notes.droppedTotal)).notes.queue
      = s.notes.queue ++ [⟨s.notes.seq, ts96Now s, .lost s.notes.droppedSince s.notes.droppedTotal⟩] := by
    unfold notice noticeAt
    dsimp only
    rw [if_pos (show s.notes.queue.length < noticeQueueSlots from hroom)]
    rfl
  show ∃ t tail, Host.Outcome.next (noticeLost s) = .next t ∧ _
  unfold noticeLost
  rw [if_pos ⟨hlost, hroom⟩]
  dsimp only
  generalize hu : notice s _ = u at htold
  obtain ⟨tail, htail⟩ := noticesGrow_raise
    { u with notes := { u.notes with droppedSince := u.notes.droppedSince - s.notes.droppedSince } } 0x1007 0 0 0
  refine ⟨_, tail, rfl, ?_⟩
  rw [← htail]
  dsimp only
  rw [htold, List.append_assoc]
  rfl

/-! ### The rings of the host, BAR0 and BAR2 (R238, R355) -/

theorem completionRingSetup_sets (ring : Fin 9) (word : Fin 4) (wide : Bool) (v : Nat) (s : State)
    (hlen : s.ctl.mailboxes.length = 8) :
    let old := if ring.val = 8 then s.notes.ring else (mailOf s ring).ring
    (ringSetup old (32 * word.val) (if wide && word.val % 2 == 0 then 64 else 32) v = none →
      ∃ t, exec (.completionRingSetup ring word wide v) s = .next t ∧ t.ctl.hostErrs = (s.ctl.hostErrs + 1) % 2 ^ 32)
    ∧ (∀ x, ringSetup old (32 * word.val) (if wide && word.val % 2 == 0 then 64 else 32) v = some x →
      ∃ t, exec (.completionRingSetup ring word wide v) s = .next t
        ∧ (if ring.val = 8 then t.notes.ring else (mailOf t ring).ring) = x) := by
  intro old
  have hrun : exec (.completionRingSetup ring word wide v) s
      = match ringSetup old (32 * word.val) (if wide && word.val % 2 == 0 then 64 else 32) v with
        | none => .next (hostErr s)
        | some x => if ring.val = 8 then .next { s with notes := { s.notes with ring := x } }
          else .next (setMail s ring (fun y => { y with ring := x })) := rfl
  rw [hrun]
  refine ⟨fun hnone => ⟨_, by rw [hnone], hostErr_counts s⟩, fun x hsome => ?_⟩
  rw [hsome]
  by_cases hnotes : ring.val = 8
  · exact ⟨_, if_pos hnotes, if_pos hnotes⟩
  · refine ⟨_, if_neg hnotes, ?_⟩
    rw [if_neg hnotes, mailOf_setMail _ (by rw [hlen]; omega)]

theorem ofLe_lt (l : Bytes) : ofLe l < 256 ^ l.length := by
  induction l with
  | nil => exact Nat.one_pos
  | cons b l ih =>
    rw [ofLe, List.length_cons, Nat.pow_succ]
    omega

theorem bar2Word_out (s : State) (off syndrome : Nat) : (bar2Word s off syndrome).2.2.out = s.out :=
  (touches_bar2Word (.refl [.bbl, .dah, .flt, .free, .fst, .mem, .notes, .sun, .obj 0x0A04, .obj 0x0A05, .obj 0x0A06,
    .obj 0x0A07, .obj 0x0C06] s) _ _ (by decide) : Touches [.bbl, .dah, .flt, .free, .fst, .mem, .notes, .sun,
      .obj 0x0A04, .obj 0x0A05, .obj 0x0A06, .obj 0x0A07, .obj 0x0C06] s _).out_eq

/-- What a read of BAR2 adds for its word j. -/
def bar2Step (off : Nat) (syndromes : List Nat) (x : Nat × Nat × State) (j : Nat) : Nat × Nat × State :=
  let w := bar2Word x.2.2 (off / 8 * 8 + 8 * j) (nth syndromes j 0)
  (x.1 + w.1 % 2 ^ 64 * 2 ^ (64 * j), max x.2.1 w.2.1, w.2.2)

theorem bar2Read_reads (off : Fin 536870912) (words : Fin 513) (syndromes : List Nat) (s : State) :
    exec (.bar2Read off words syndromes) s
      = .next (emit ((List.range words).foldl (bar2Step off syndromes) (0, 0, s)).2.2
          (.readData 9 (8 * words.val) ((List.range words).foldl (bar2Step off syndromes) (0, 0, s)).1
            ((List.range words).foldl (bar2Step off syndromes) (0, 0, s)).2.1)) := rfl

/-- A read of one word answers that word. -/
theorem bar2Read_one (off : Fin 536870912) {words : Fin 513} (syndromes : List Nat) (s : State) (hone : words.val = 1)
    {value status : Nat} {u : State} (hword : bar2Word s (off.val / 8 * 8) (nth syndromes 0 0) = (value, status, u))
    (hvalue : value < 2 ^ 64) :
    ∃ t, exec (.bar2Read off words syndromes) s = .next t ∧ t.out = .readData 9 8 value status :: s.out := by
  have hout : u.out = s.out := by
    have h := bar2Word_out s (off.val / 8 * 8) (nth syndromes 0 0)
    rw [hword] at h
    exact h
  refine ⟨_, bar2Read_reads off words syndromes s, ?_⟩
  rw [hone, emit_out, List.range_one, List.foldl_cons, List.foldl_nil, bar2Step]
  dsimp only
  rw [Nat.mul_zero, Nat.add_zero, hword]
  dsimp only
  rw [hout, Nat.mod_eq_of_lt hvalue]
  simp

theorem bar2Read_answers (off : Fin 536870912) (words : Fin 513) (syndromes : List Nat) (s : State) :
    (∃ t v st, exec (.bar2Read off words syndromes) s = .next t ∧ t.out = .readData 9 (8 * words.val) v st :: s.out)
    ∧ (words.val = 1 → 0x14000000 ≤ off.val → off.val < 0x14100000 →
      ∃ t, exec (.bar2Read off words syndromes) s = .next t
        ∧ t.out = .readData 9 8 (ofLe (loadBytes s (0x10000000 + (off.val / 8 * 8 - 0x14000000)) 8)) 0 :: s.out)
    ∧ (words.val = 1 → off.val < 0x14000000 → domOn s (bankDom (bankOfWord (off.val / 8))) = false →
      ∃ t, exec (.bar2Read off words syndromes) s = .next t ∧ t.out = .readData 9 8 (2 ^ 64 - 1) 2 :: s.out) := by
  refine ⟨?_, fun hone hlow hhigh => ?_, fun hone hfield hoff => ?_⟩
  · have hkept : ((List.range words).foldl (bar2Step off syndromes) (0, 0, s)).2.2.out = s.out :=
      foldl_same (bar2Step off syndromes) (fun x => x.2.2.out) _ (0, 0, s) fun _ _ _ => bar2Word_out _ _ _
    exact ⟨_, _, _, bar2Read_reads off words syndromes s, by rw [emit_out, hkept]⟩
  · refine bar2Read_one off syndromes s hone (u := s) ?_ ?_
    · have h8 : off.val / 8 * 8 / 8 * 8 = off.val / 8 * 8 := by omega
      rw [bar2Word, h8]
      dsimp only
      rw [if_neg (by omega), if_pos (by omega)]
    · have hlen : (loadBytes s (0x10000000 + (off.val / 8 * 8 - 0x14000000)) 8).length = 8 := by
        rw [loadBytes, memRead, List.length_map, List.length_range]
      have hlt := ofLe_lt (loadBytes s (0x10000000 + (off.val / 8 * 8 - 0x14000000)) 8)
      rw [hlen] at hlt
      exact hlt
  · refine bar2Read_one off syndromes s hone (u := s) ?_ (by decide)
    have h8 : off.val / 8 * 8 / 8 = off.val / 8 := by omega
    rw [bar2Word]
    dsimp only
    rw [h8, if_pos (by omega), h8, if_neg (by rw [hoff]; decide)]

theorem ringDataTimeout_commits (m : Fin 8) (s : State) (r : Request) (n : Nat) (h : ReadyHead s m r.opcode r)
    (hring : dataRing s r = some (0, n)) :
    ∃ t, exec (.ringDataTimeout m) s = .next t ∧ Answers s t m r 0x0009 (List.replicate n 0) := by
  refine ⟨_, ?_, commit_ready h (mailsKept_refl s) _ _⟩
  obtain ⟨hserved, hqueue, -, hstarted, -, hearly⟩ := h
  show execRingDataTimeout m s = _
  unfold execRingDataTimeout
  rw [hqueue]
  dsimp only [List.head?_cons]
  rw [if_neg (by rw [hstarted, hserved, hearly]; decide), hring]
  rfl

/-- Settles O48: each access of the host by its row. -/
theorem mailboxesComplete : Obligations.MailboxesComplete := by
  refine ⟨mailboxDoorbell_takes, mailboxDoorbell_owned, completionWrite_writes, noticeWrite_writes, noticeLost_tells,
    completionRingSetup_sets, fun s => ⟨_, rfl, hostErr_counts s⟩, bar2Read_answers, fun s => ⟨_, rfl, rfl, rfl⟩,
    fun who bar2 off syndrome s => ⟨⟨_, rfl, ?_⟩, _, rfl, rfl⟩, ringDataTimeout_commits⟩
  rw [emit_ctl, setCtl_ctl]
  exact mapGet_mapSet_same _ _ _

end Sys2Proof
end
